-- ==== Sys2Proof/Word.lean ====
section
/-! DEFINITION. The words of the IH-7264: a 32-bit register word, a byte, and the signed reading of a bit field. -/

namespace Sys2Proof

/-- A register word: every register is 32 bits wide (R3). -/
abbrev Word := BitVec 32

/-- One byte of a memory. -/
abbrev Byte := BitVec 8

/-- The two's-complement reading of the low `w` bits of `n`. -/
def signed (w n : Nat) : Int :=
  if n % 2 ^ w < 2 ^ (w - 1) then Int.ofNat (n % 2 ^ w) else Int.ofNat (n % 2 ^ w) - 2 ^ w

/-- The low `w` bits of the two's-complement form of `z`. -/
def unsigned (w : Nat) (z : Int) : Nat := (z % (2 ^ w : Int)).toNat

/-- `z` held between `lo` and `hi`. -/
def clampInt (lo hi z : Int) : Int := if z < lo then lo else if hi < z then hi else z

/-- The bit of number `i` in `n`. -/
def bitOf (n i : Nat) : Bool := n.testBit i

end Sys2Proof
end

