-- ==== Sys2Proof/Syntax.lean ====
section
/-! DEFINITION. The commands of the block: one constructor per row of the opcode table, and the data a command
brings from outside. Every command's first operand is the time in nanoseconds since the command before it. -/

namespace Sys2Proof

/-- A bus master, numbered as R404. -/
abbrev Master := Fin 45

/-- How far a request of BUS_REQUEST goes within the command: whole, left waiting at its port, left with `sent` beats
sent, or the completion of the oldest one left outstanding under its ID. -/
inductive BusPhase where
  | whole
  | wait
  | start (sent : Fin 16)
  | finish
deriving DecidableEq, Repr

/-- What the ECC of the memory read finds in an access (R32, R398, R399). -/
inductive EccFind where
  | clean
  | corrected (count : Nat)
  | multi
deriving DecidableEq, Repr

/-- What the memory's ECC finds in the fetch numbered `fetch` of a slot for a line, graphic slots from 24 on (R398, R399). -/
structure FetchFind where
  slot  : Fin 32
  fetch : Nat
  find  : EccFind
deriving DecidableEq, Repr

/-- What is seen of a head's fetches while it composes a line: the fills of the fetch FIFO in bytes (R245), and what the memory's ECC
finds (R399). -/
structure FetchSeen where
  fills : List Nat
  finds : List FetchFind
deriving DecidableEq, Repr

/-- What boot training has shown: the channels that failed, and of each channel the counts of its interval oscillator at the set points,
three by three (R389, R390). -/
structure TrainSeen where
  fails  : BitVec 16
  counts : List (BitVec 16)
deriving DecidableEq, Repr

/-- How a host SPI frame that returns data ends: read whole; its data late; CS risen inside it (R458). -/
inductive SpiEnding where
  | whole | late | cut
deriving DecidableEq, Repr

/-- A request at a master's port of the matrix (R408, R410), escalated where a head's fetch is (R245, R406); or of the JTAG debug port
an access to the local memory of an engine, by the private load port and not by the matrix (R405). -/
structure BusReq where
  master  : Master
  write   : Bool
  addr    : BitVec 36
  bytes   : Nat
  data    : List Byte
  strobes : List Bool
  id      : Fin 64
  qos     : Fin 16
  ecc     : EccFind
  phase   : BusPhase
  escal   : Bool
  engine  : Option (Fin 24)
deriving DecidableEq, Repr

/-- The cause of an engine fault (ENG[n].FAULT.CAUSE), STALL and LOCKSTEP having commands of their own. -/
inductive EngineCause where
  | illegalInsn | busError | localEcc | stackLimit
deriving DecidableEq, Repr

/-- What EVENT_STATUS_CLEAR clears: bits of a STATUS word, or causes of one head (R493). -/
inductive EvtClear where
  | status (w : Fin 4) (mask : Word)
  | cause (n : Fin 64) (mask : BitVec 8)
deriving DecidableEq, Repr

/-- How a training cycle of a DisplayPort link ends after its DPCD read (R284). -/
inductive DpEnd where
  | ok | crFail | eqFail | auxFail
deriving DecidableEq, Repr

/-- The reply that ends an AUX transaction: ACK or NACK, the bytes transferred, the bytes read (R283). -/
structure AuxReply where
  ack   : Bool
  count : Fin 17
  data  : List Byte
deriving DecidableEq, Repr

/-- Eight consecutive equal ordered sets received on every bond lane (R290), and whether the spare lane trained too. -/
structure OrderedSet where
  ts2   : Bool
  width : Nat
  vmax  : Nat
  vsel  : Nat
  spare : Bool
deriving DecidableEq, Repr

/-- A sequence that an access unit activates (R131 to R133): codec, its profile (profile_idc, or general_profile_idc), H.264's
constraint_set1_flag, whether H.265's compatibility flag 1 or 2 is set, chroma_format_idc, the bit depths, MBAFF, the coded size
(of a frame in H.264; in H.265 of a picture, which with field_seq_flag is a field), the place and size of the cropped picture in
it, the reference pictures, the DPB size. -/
structure SpsFacts where
  hevc    : Bool
  idc     : Nat
  set1    : Bool
  compat  : Bool
  chroma  : Nat
  depthY  : Nat
  depthC  : Nat
  mbaff   : Bool
  codedW  : Nat
  codedH  : Nat
  cropX   : Nat
  cropY   : Nat
  cropW   : Nat
  cropH   : Nat
  refs    : Nat
  dpb     : Nat
deriving DecidableEq, Repr

/-- What the record that the decode scheduler takes next holds, in the NAL units that R131 does not discard: whether an SPS and
a PPS have now been received, the sequence it activates, and of its picture: an IDR or for H.265 an IRAP picture,
recovery_frame_cnt of a recovery point SEI, non-reference, an associated RASL picture, to be output, a field picture (with its
parity, none where an H.265 stream brings no picture timing SEI for it), and the record SEQUENCE of the first field where it is
the second field of a complementary pair. -/
structure AuFacts where
  params   : Bool
  sps      : Option SpsFacts
  rap      : Bool
  recovery : Option Nat
  nonRef   : Bool
  rasl     : Bool
  shown    : Bool
  field    : Option (Option Bool)
  second   : Option Nat
deriving DecidableEq, Repr

/-- A rectangle of a coded picture, in luma samples. -/
structure DecArea where
  x : Nat
  y : Nat
  w : Nat
  h : Nat
deriving DecidableEq, Repr

/-- What a decode job did, by the stream's standard: the samples decoded (Y, then Cb, then Cr, each row by row from the top),
the areas its record lacks, those of slices in syntax error, the rows decoded before an abort (R150, R151), the pictures it
references and those that stay in the DPB, by record SEQUENCE (any other number for one that no record brought), the pictures
that now leave in output order or are never output, and the picture that is then next in output order (R138, R139). -/
structure DecEnd where
  samples : List Nat
  lost    : List DecArea
  bad     : List DecArea
  rows    : Nat
  refs    : List Nat
  keeps   : List Nat
  outputs : List Nat
  dropped : List Nat
  next    : Option Nat
deriving DecidableEq, Repr

/-- What a slice boundary brings (R139, R144): what the job has done so far, whose `rows` are those of the coded picture that every tile
column has completed and no later in-loop filtering will change, and what the record that the scheduler takes next holds. -/
structure DecTurn where
  front : Option DecEnd
  au    : AuFacts
deriving DecidableEq, Repr

/-- What the self-test finds on a line (R345): the mean mutual signal of its nodes, its own response to its drive or test packet
and what that gives the line below and the line above it, whether the modulator reads 65,535 or 0 through every undriven step,
whether the drive output is current-limited while low or while high. -/
structure LineProbe where
  mean      : Nat
  own       : Nat
  below     : Nat
  above     : Nat
  allHigh   : Bool
  allLow    : Bool
  limitLow  : Bool
  limitHigh : Bool
deriving DecidableEq, Repr

/-- A motion vector of a coding block (R312): the prediction block's place and size in the coding block, the vector in quarter
samples, whether it points into the long-term reference. -/
structure EncMv where
  x    : Nat
  y    : Nat
  w    : Nat
  h    : Nat
  dx   : Int
  dy   : Int
  long : Bool
deriving DecidableEq, Repr

/-- A coding block as a pipe codes it: its coded size in bits, its QP, whether it is intra, its vectors (R309, R312, R315). -/
structure EncBlock where
  bits  : Nat
  qp    : Nat
  intra : Bool
  mvs   : List EncMv
deriving DecidableEq, Repr

/-- The units of an access unit that a job coded: parameter sets and SEI NAL units of the CPB model, the bits of the slice header,
the slice NAL unit. -/
structure EncUnits where
  params : List (List Byte)
  sei    : List (List Byte)
  header : Nat
  slice  : List Byte
deriving DecidableEq, Repr

/-- What an encode job coded: its units, the coding blocks in order as they were coded before tail mode, the rows of blocks whose
input check passed where the buffer is gone (R311), the reconstructed samples, Y, then Cb, then Cr (R312). -/
structure EncEnd where
  units  : EncUnits
  blocks : List EncBlock
  rows   : Nat
  recon  : List Nat
deriving DecidableEq, Repr

/-- What a frame's descriptor asks for: the tag under which its transmission is stamped (R88), and whether it is marked ACTING
(R361). -/
structure TxDesc where
  tag    : Option (BitVec 16)
  acting : Bool
deriving DecidableEq, Repr

/-- What a capture port's sync shows since its last command: the XY words (embedded sync), and the level of VSYNC at a frame start,
or of DE in a row, or of HSYNC after its edge (R157). -/
structure SyncIn where
  xy    : List Nat
  level : Bool
deriving DecidableEq, Repr

/-- The cause of an abort of a decode or encode job, WATCHDOG having a command of its own (R149, R318). -/
inductive JobFault where
  | sbxRead | sbxWrite | storeEcc | busError
deriving DecidableEq, Repr

/-- The levels of the strap pins (R443).
(DESIGN CHOICE, log entry 8) -/
structure Straps where
  bootMode : Fin 4
  unitId   : Fin 16
  cusMode  : Bool
deriving DecidableEq, Repr

/-- What a flash's SFDP table declares (R444, R456): whether an 8D-8D-8D mode, the smallest erase granule in KiB, the size in
MiB. -/
structure SfdpFacts where
  octal   : Bool
  eraseKb : Nat
  sizeMb  : Nat
deriving DecidableEq, Repr

/-- The commands.
(DESIGN CHOICE, log entry 2) (DESIGN CHOICE, log entry 10) -/
inductive Instr where
  /-- REGISTER_WRITE (R4); a write by an engine's own master is what its firmware does, and moves its heartbeat (R22). -/
  | registerWrite (dt : Nat) (m : Master) (a : BitVec 36) (v : Word)
  /-- SNAPSHOT_READ (R10): a register read, which snapshots the higher words of a multi-word value. -/
  | snapshotRead (dt : Nat) (m : Master) (a : BitVec 36)
  /-- BUS_REQUEST (R416): the request and how far it goes within the command. -/
  | busRequest (dt : Nat) (r : BusReq)
  /-- QOS_AGING (R411): of the oldest request of that master and ID which waits at its port. -/
  | qosAging (dt : Nat) (m : Master) (id : Fin 64)
  /-- ERR_RECORD_READ (R418). -/
  | errRecordRead (dt : Nat) (m : Master)
  /-- DRAIN_END (R419): of that master's port. -/
  | drainEnd (dt : Nat) (m : Master)
  /-- ENGINE_ENABLE (R452). -/
  | engineEnable (dt : Nat) (m : Master) (n : Fin 24)
  /-- ENGINE_DISABLE (R21). -/
  | engineDisable (dt : Nat) (m : Master) (n : Fin 24)
  /-- ENGINE_HALT (R22). -/
  | engineHalt (dt : Nat) (m : Master) (n : Fin 24)
  /-- ENGINE_RESUME (R22). -/
  | engineResume (dt : Nat) (m : Master) (n : Fin 24)
  /-- ENGINE_STALL (R22). -/
  | engineStall (dt : Nat) (n : Fin 24)
  /-- ENGINE_FAULT (R23): the cause. -/
  | engineFault (dt : Nat) (n : Fin 24) (cause : EngineCause)
  /-- LOCKSTEP_MISMATCH (R23). -/
  | lockstepMismatch (dt : Nat)
  /-- VALIDATE_START (R56). -/
  | validateStart (dt : Nat) (m : Master)
  /-- VALIDATION_DONE (R57). -/
  | validationDone (dt : Nat)
  /-- KEYSTONE_COMMIT (R59). -/
  | keystoneCommit (dt : Nat) (m : Master)
  /-- KEYSTONE_CANCEL (R60). -/
  | keystoneCancel (dt : Nat) (m : Master)
  /-- KEYSTONE_TIME_REACHED (R61). -/
  | keystoneTimeReached (dt : Nat)
  /-- AMEND_POST (R69): a write of the word that posts. -/
  | amendPost (dt : Nat) (m : Master) (v : Word)
  /-- PRESET_LOAD (R73): a write of the word that loads. -/
  | presetLoad (dt : Nat) (m : Master) (v : Word)
  /-- PRESET_STROBE (R72): the chosen edge of the strobe pin. -/
  | presetStrobe (dt : Nat)
  /-- PRESET_SELECT_SAMPLE (R72). -/
  | presetSelectSample (dt : Nat)
  /-- PRESET_DEFERRED_RESUME (R73). -/
  | presetDeferredResume (dt : Nat)
  /-- PRESET_FLASH_READ_DONE (R73): whether the flash read succeeded. -/
  | presetFlashReadDone (dt : Nat) (ok : Bool)
  /-- RATE_WRITE (R79): a write of TIME.RATE. -/
  | rateWrite (dt : Nat) (m : Master) (v : Word)
  /-- TIME_KICK (R82). -/
  | timeKick (dt : Nat) (m : Master)
  /-- TIME_STATE_REQUEST (R81): the state asked for. -/
  | timeStateRequest (dt : Nat) (m : Master) (target : Fin 4)
  /-- KICK_TIMEOUT (R82). -/
  | kickTimeout (dt : Nat)
  /-- HOLDOVER_LIMIT (R81). -/
  | holdoverLimit (dt : Nat)
  /-- TIME_STEP (R83): the write of STEP_NS with its SIGN, the seconds having been written before it. -/
  | timeStep (dt : Nat) (m : Master) (v : Word)
  /-- STAMP_QUEUE_READ (R90). -/
  | stampQueueRead (dt : Nat) (m : Master)
  /-- TXQ_READ (R88). -/
  | txqRead (dt : Nat) (m : Master) (p : Fin 16)
  /-- PPS_INPUT_EDGE (R91): whether the edge rises. -/
  | ppsInputEdge (dt : Nat) (rising : Bool)
  /-- PPS_OUTPUT_EDGE (R92). -/
  | ppsOutputEdge (dt : Nat)
  /-- NET_MODE_WRITE (R98): a write of MODE. -/
  | netModeWrite (dt : Nat) (m : Master) (q : Fin 4) (mode : Fin 4)
  /-- NET_LINK_CHANGE (R98): whether the link may come up, and whether the bit-error ratio is high. -/
  | netLinkChange (dt : Nat) (p : Fin 16) (up hiBer : Bool)
  /-- NET_FRAME_RECEIVE (R99): with the frames that the Curator took from its queue before it. -/
  | netFrameReceive (dt : Nat) (p : Fin 16) (taken : Nat) (bs : List Byte) (fcsOk : Bool)
  /-- NET_FRAME_TRANSMIT (R87): the frame and its descriptor. -/
  | netFrameTransmit (dt : Nat) (p : Fin 16) (bs : List Byte) (d : TxDesc)
  /-- MEDIA_PACKET (R127): of stream engine `e`. -/
  | mediaPacket (dt : Nat) (e : Fin 16)
  /-- SOURCE_LOST_TIMEOUT (R126). -/
  | sourceLostTimeout (dt : Nat) (i : Fin 512)
  /-- PATH_LIVENESS_EXPIRE (R129): of path B or of path A. -/
  | pathLivenessExpire (dt : Nat) (i : Fin 512) (pathB : Bool)
  /-- RTCP_SENDER_REPORT (R121): of stream engine `e`. -/
  | rtcpSenderReport (dt : Nat) (e : Fin 16)
  /-- SR_TIMEOUT (R121). -/
  | srTimeout (dt : Nat) (i : Fin 512)
  /-- SOURCE_ENABLE (R107). -/
  | sourceEnable (dt : Nat) (m : Master) (i : Fin 512)
  /-- SOURCE_DISABLE (R108). -/
  | sourceDisable (dt : Nat) (m : Master) (i : Fin 512)
  /-- HOST_READY (R115). -/
  | hostReady (dt : Nat) (m : Master) (b : Fin 4096)
  /-- HOST_READY_CLOSE (R115). -/
  | hostReadyClose (dt : Nat) (b : Fin 4096)
  /-- MDIO_TRANSACTION: a write of the whole word, with GO. -/
  | mdioTransaction (dt : Nat) (m : Master) (v : Word)
  /-- MDIO_DONE. -/
  | mdioDone (dt : Nat) (data : BitVec 16)
  /-- DECODE_DISPATCH (R143): what the record taken next holds. -/
  | decodeDispatch (dt : Nat) (n : Fin 8) (au : AuFacts)
  /-- DECODE_PREEMPT (R144): what the record taken next holds. -/
  | decodePreempt (dt : Nat) (n : Fin 8) (turn : DecTurn)
  /-- DECODE_JOB_DONE (R130): what the job did. -/
  | decodeJobDone (dt : Nat) (n : Fin 8) (e : DecEnd)
  /-- DECODE_WATCHDOG (R148): what the job had done. -/
  | decodeWatchdog (dt : Nat) (n : Fin 8) (e : DecEnd)
  /-- DECODE_ACCESS_FAULT (R147): the cause, the address, what the job had done. -/
  | decodeAccessFault (dt : Nat) (n : Fin 8) (f : JobFault) (a : BitVec 36) (e : DecEnd)
  /-- DEC_PIPE_ENABLE (R155). -/
  | decPipeEnable (dt : Nat) (m : Master) (n : Fin 8)
  /-- DEC_PIPE_DISABLE (R155). -/
  | decPipeDisable (dt : Nat) (m : Master) (n : Fin 8)
  /-- DEC_FAULT_READ (R155). -/
  | decFaultRead (dt : Nat) (m : Master)
  /-- DEC_PEAK_CLEAR (R146). -/
  | decPeakClear (dt : Nat) (m : Master)
  /-- CAPTURE_FRAME_START (R160). -/
  | captureFrameStart (dt : Nat) (p : Fin 4) (x : SyncIn)
  /-- CAPTURE_ROW (R159): the sync, and the Y and the C samples of the row, with DE_USE at 0 all from the HSYNC edge on. -/
  | captureRow (dt : Nat) (p : Fin 4) (x : SyncIn) (ys cs : List Nat)
  /-- ISP_ROW_PROCESS (R181). -/
  | ispRowProcess (dt : Nat) (j : Fin 4)
  /-- CAPTURE_FRAME_TIMEOUT (R164). -/
  | captureFrameTimeout (dt : Nat) (p : Fin 4)
  /-- CAPTURE_FRAME_CLOSE (R165). -/
  | captureFrameClose (dt : Nat) (p : Fin 4)
  /-- CAPTURE_BUS_ERROR (R166): of a write, or of the read of the reference. -/
  | captureBusError (dt : Nat) (p : Fin 4) (write : Bool)
  /-- CAPTURE_SOURCE_LOST (R167). -/
  | captureSourceLost (dt : Nat) (i : Fin 512)
  /-- ISP_CONTEXT_ENABLE (R177): context `c` of pipe `j`. -/
  | ispContextEnable (dt : Nat) (m : Master) (j c : Fin 4)
  /-- ISP_CONTEXT_DISABLE (R179): context `c` of pipe `j`. -/
  | ispContextDisable (dt : Nat) (m : Master) (j c : Fin 4)
  /-- ISP_APPLY (R180): context `c` of pipe `j`. -/
  | ispApply (dt : Nat) (m : Master) (j c : Fin 4)
  /-- CAP_STORE_PEAK_CLEAR (R184). -/
  | capStorePeakClear (dt : Nat) (m : Master) (p : Fin 4)
  /-- LATCH_POINT (R237). -/
  | latchPoint (dt : Nat) (n : Fin 64)
  /-- PREFETCH_START (R244). -/
  | prefetchStart (dt : Nat) (n : Fin 64)
  /-- COMPOSE_LINE (R244): the fills of the fetch FIFO, in words, seen while the next line is composed. -/
  | composeLine (dt : Nat) (n : Fin 64) (seen : FetchSeen)
  /-- UNDERRUN (R247): the pixel of the next line from which the fetch FIFO is empty. -/
  | underrun (dt : Nat) (n : Fin 64) (x : Nat)
  /-- BUFFER_RELEASE (R221). -/
  | bufferRelease (dt : Nat) (m : Master) (b : Fin 4096)
  /-- RELEASE_COMPLETION (R222). -/
  | releaseCompletion (dt : Nat)
  /-- OTAB_ACCESS (R227): a write of `w`, or a read where none is given. -/
  | otabAccess (dt : Nat) (m : Master) (n : Fin 64) (w : Option Word)
  /-- HEAD_ENABLE (R230). -/
  | headEnable (dt : Nat) (m : Master) (n : Fin 64)
  /-- HEAD_START (R231). -/
  | headStart (dt : Nat) (n : Fin 64)
  /-- HEAD_DISABLE (R232). -/
  | headDisable (dt : Nat) (m : Master) (n : Fin 64)
  /-- HEAD_SLEEP (R233). -/
  | headSleep (dt : Nat) (m : Master) (n : Fin 64)
  /-- HEAD_WAKE (R233). -/
  | headWake (dt : Nat) (m : Master) (n : Fin 64)
  /-- HEAD_PAIR_WRITE (R238): the value of PAIR. -/
  | headPairWrite (dt : Nat) (m : Master) (n : Fin 64) (on : Bool)
  /-- HEAD_COMMIT (R235). -/
  | headCommit (dt : Nat) (m : Master) (n : Fin 64)
  /-- GENLOCK_MEASURE (R241). -/
  | genlockMeasure (dt : Nat) (n : Fin 64)
  /-- FIFO_MIN_CLEAR (R248). -/
  | fifoMinClear (dt : Nat) (m : Master) (n : Fin 64)
  /-- LABEL_SCALE_WRITE (R267): the value of the field. -/
  | labelScaleWrite (dt : Nat) (m : Master) (sc : Fin 4)
  /-- DPTX_ENABLE (R278): a write of the whole CTRL word. -/
  | dptxEnable (dt : Nat) (m : Master) (n : Fin 64) (v : Word)
  /-- DPTX_DISABLE (R306). -/
  | dptxDisable (dt : Nat) (m : Master) (n : Fin 64)
  /-- DPTX_TRAIN_REQUEST (R284). -/
  | dptxTrainRequest (dt : Nat) (m : Master) (n : Fin 64)
  /-- DP_TRAINING_CYCLE (R284). -/
  | dpTrainingCycle (dt : Nat) (n : Fin 64)
  /-- DP_TRAINING_END (R284): with DPCD 0x000 to 0x00F, and of the first, the second and each later attempt the reads of 0x202 to
  0x207 it makes, in order. -/
  | dpTrainingEnd (dt : Nat) (n : Fin 64) (caps : List Byte) (first second : List (List Byte)) (later : List (List (List Byte)))
  /-- DP_HPD_PLUG (R282). -/
  | dpHpdPlug (dt : Nat) (n : Fin 64)
  /-- DP_HPD_UNPLUG (R282). -/
  | dpHpdUnplug (dt : Nat) (n : Fin 64)
  /-- DP_IRQ_HPD (R287): with DPCD 0x200 to 0x207. -/
  | dpIrqHpd (dt : Nat) (n : Fin 64) (bs : List Byte)
  /-- DP_AUTO_RETRAIN (R287). -/
  | dpAutoRetrain (dt : Nat) (n : Fin 64)
  /-- AUX_TRANSACTION (R283): a write of the whole AUX_CMD word, with GO. -/
  | auxTransaction (dt : Nat) (m : Master) (n : Fin 64) (v : Word)
  /-- AUX_DEFER_RETRY (R283). -/
  | auxDeferRetry (dt : Nat) (n : Fin 64)
  /-- AUX_REPLY_TIMEOUT (R283). -/
  | auxReplyTimeout (dt : Nat) (n : Fin 64)
  /-- AUX_DONE (R283): the reply. -/
  | auxDone (dt : Nat) (n : Fin 64) (r : AuxReply)
  /-- TZL_ENABLE (R278): a write of the whole CTRL word. -/
  | tzlEnable (dt : Nat) (m : Master) (q : Fin 16) (v : Word)
  /-- TZL_DISABLE (R302). -/
  | tzlDisable (dt : Nat) (m : Master) (q : Fin 16)
  /-- TZL_TRAIN (R302). -/
  | tzlTrain (dt : Nat) (m : Master) (q : Fin 16)
  /-- TZL_ORDERED_SET (R290): the set received eight times on every bond lane. -/
  | tzlOrderedSet (dt : Nat) (q : Fin 16) (o : OrderedSet)
  /-- TZL_TRAINING_TIMEOUT (R290). -/
  | tzlTrainingTimeout (dt : Nat) (q : Fin 16)
  /-- TZL_TRAINING_RETRY (R290). -/
  | tzlTrainingRetry (dt : Nat) (q : Fin 16)
  /-- TZL_LINE_PACKET (R296): the line. -/
  | tzlLinePacket (dt : Nat) (q : Fin 16) (y : Nat)
  /-- CTRL_SEND (R294). -/
  | ctrlSend (dt : Nat) (m : Master) (q : Fin 16)
  /-- TZL_STATUS_PACKET (R295): the packet received. -/
  | tzlStatusPacket (dt : Nat) (q : Fin 16) (bs : List Byte)
  /-- TZL_LOOP_TRAILER (R299): the trailer received. -/
  | tzlLoopTrailer (dt : Nat) (q : Fin 16) (bs : List Byte)
  /-- TZL_LOOP_SEEN_EXPIRE (R299). -/
  | tzlLoopSeenExpire (dt : Nat) (q : Fin 16)
  /-- TZL_SPR_RECEIVE (R301): the bond lane named, and whether the move cuts a line packet. -/
  | tzlSprReceive (dt : Nat) (q : Fin 16) (lane : Fin 8) (cut : Bool)
  /-- ENCODE_TRIGGER (R310). -/
  | encodeTrigger (dt : Nat) (i : Fin 32)
  /-- ENCODE_DISPATCH (R317). -/
  | encodeDispatch (dt : Nat) (n : Fin 2)
  /-- ENCODE_PREEMPT (R317). -/
  | encodePreempt (dt : Nat) (n : Fin 2)
  /-- ENCODE_JOB_DONE (R313): what the job coded, as EncEnd lists it. -/
  | encodeJobDone (dt : Nat) (n : Fin 2) (units : EncUnits) (blocks : List EncBlock) (rows : Nat) (recon : List Nat)
  /-- ENCODE_WATCHDOG (R318). -/
  | encodeWatchdog (dt : Nat) (n : Fin 2)
  /-- ENCODE_ACCESS_FAULT (R318): the cause and the address. -/
  | encodeAccessFault (dt : Nat) (n : Fin 2) (f : JobFault) (a : BitVec 36)
  /-- ENC_SENDER_REPORT (R321). -/
  | encSenderReport (dt : Nat) (i : Fin 32)
  /-- ENCODE_STREAM_ENABLE (R324). -/
  | encodeStreamEnable (dt : Nat) (m : Master) (i : Fin 32)
  /-- ENCODE_STREAM_DISABLE (R325). -/
  | encodeStreamDisable (dt : Nat) (m : Master) (i : Fin 32)
  /-- FORCE_IDR (R308). -/
  | forceIdr (dt : Nat) (m : Master) (i : Fin 32)
  /-- ENC_PIPE_ENABLE (R326): the value of ENABLE. -/
  | encPipeEnable (dt : Nat) (m : Master) (n : Fin 2) (on : Bool)
  /-- ENC_FAULT_READ (R326). -/
  | encFaultRead (dt : Nat) (m : Master)
  /-- TOUCH_ENABLE (R348). -/
  | touchEnable (dt : Nat) (m : Master)
  /-- TOUCH_DISABLE (R348). -/
  | touchDisable (dt : Nat) (m : Master)
  /-- TOUCH_FRAME_START (R330). -/
  | touchFrameStart (dt : Nat) (p : Fin 2)
  /-- TOUCH_FRAME_END (R330): the counts of the drive steps in order, each by sense line, and of the listen steps. -/
  | touchFrameEnd (dt : Nat) (p : Fin 2) (steps listens : List (List Nat))
  /-- BASELINE_FORMED (R333). -/
  | baselineFormed (dt : Nat) (p : Fin 2)
  /-- BASELINE_DRIFT (R334). -/
  | baselineDrift (dt : Nat) (p : Fin 2)
  /-- ANTI_TOUCH_CONFIRM (R335). -/
  | antiTouchConfirm (dt : Nat) (p : Fin 2)
  /-- TOUCH_OBJECT_TIMEOUT (R339). -/
  | touchObjectTimeout (dt : Nat) (p : Fin 2)
  /-- TOUCH_SELFTEST (R345). -/
  | touchSelftest (dt : Nat) (m : Master)
  /-- TOUCH_SELFTEST_DONE (R345): what the test finds on each line, drive lines first. -/
  | touchSelftestDone (dt : Nat) (found : List LineProbe)
  /-- STANDBY_TOUCH_SCAN (R346): the counts by sense line. -/
  | standbyTouchScan (dt : Nat) (p : Fin 2) (counts : List Nat)
  /-- GRANT_RISE (R366). -/
  | grantRise (dt : Nat)
  /-- GRANT_FALL (R363). -/
  | grantFall (dt : Nat)
  /-- ISOLATE_SET (R363): a write of ISOLATE alone. -/
  | isolateSet (dt : Nat) (m : Master) (on : Bool)
  /-- CUS_STATUS_FRAME (R354). -/
  | cusStatusFrame (dt : Nat)
  /-- KEEPALIVE (R357): a frame of the custody UART. -/
  | keepalive (dt : Nat) (bs : List Byte)
  /-- ISOLATE (R357): a frame of the custody UART. -/
  | isolate (dt : Nat) (bs : List Byte)
  /-- CUSTODIAN_RESET (R357): a frame of the custody UART, and whether every channel reaches self-refresh in time. -/
  | custodianReset (dt : Nat) (bs : List Byte) (kept : Bool)
  /-- CUS_LINK_TIMEOUT (R358). -/
  | cusLinkTimeout (dt : Nat)
  /-- ALIVE_KICK (R351). -/
  | aliveKick (dt : Nat) (m : Master)
  /-- ALIVE_TIMEOUT (R351). -/
  | aliveTimeout (dt : Nat)
  /-- ROLE_REQUEST (R360): whether STANDBY_READY is asked for. -/
  | roleRequest (dt : Nat) (m : Master) (ready : Bool)
  /-- SYNC_GRACE_EXPIRE (R360). -/
  | syncGraceExpire (dt : Nat)
  /-- PEER_OK_CHANGE (R367): the level of the pin. -/
  | peerOkChange (dt : Nat) (level : Bool)
  /-- TAKE_DELAY_EXPIRE (R367). -/
  | takeDelayExpire (dt : Nat)
  /-- SKEW_WINDOW (R377): the bytes that each channel moved in the window. -/
  | skewWindow (dt : Nat) (bytes : List Nat)
  /-- REFRESH_DUE (R384): whether a request of QoS 12 to 15 is queued for the channel. -/
  | refreshDue (dt : Nat) (ch : Fin 16) (urgent : Bool)
  /-- REFRESH_RATE_READ (R383): the code read. -/
  | refreshRateRead (dt : Nat) (ch : Fin 16) (code : Fin 8)
  /-- CAL_SLOT_OPEN (R388): the calibration entry of that number in the head's course list. -/
  | calSlotOpen (dt : Nat) (n : Fin 64) (entry : Nat)
  /-- DRAM_RETRAIN_DONE (R391): the count of the interval oscillator at it, none where it failed. -/
  | dramRetrainDone (dt : Nat) (count : Option (BitVec 16))
  /-- DRIFT_WINDOW (R390). -/
  | driftWindow (dt : Nat) (k : Fin 8)
  /-- DRIFT_WINDOW_END (R390): the count read. -/
  | driftWindowEnd (dt : Nat) (ch : Fin 16) (count : BitVec 16)
  /-- ZQ_CALIBRATION_START (R390). -/
  | zqCalibrationStart (dt : Nat) (k : Fin 8)
  /-- TRAIN_PENDING_TIMEOUT (R391). -/
  | trainPendingTimeout (dt : Nat) (ch : Fin 16)
  /-- FSP_REQUEST (R394): the set point. -/
  | fspRequest (dt : Nat) (m : Master) (target : Fin 4)
  /-- FSP_CHANGE_START (R395). -/
  | fspChangeStart (dt : Nat)
  /-- FSP_CHANGE_DONE (R396). -/
  | fspChangeDone (dt : Nat)
  /-- ECS_SCAN (R400): the channel's count, and the row with the most errors. -/
  | ecsScan (dt : Nat) (ch : Fin 16) (total : Word) (bank : Fin 16) (row : BitVec 16) (count : Nat)
  /-- PPR_COMMAND (R401): the channel and its candidate entry. -/
  | pprCommand (dt : Nat) (m : Master) (ch : Fin 16) (entry : Fin 4)
  /-- PPR_DONE (R401): whether the repair succeeded. -/
  | pprDone (dt : Nat) (ok : Bool)
  /-- LANE_LOS (R433): the lanes of the quad that lose their signal together. -/
  | laneLos (dt : Nat) (q : Fin 20) (mask : BitVec 4)
  /-- LANE_LOS_CLEAR (R431). -/
  | laneLosClear (dt : Nat) (q : Fin 20) (l : Fin 4)
  /-- LANE_LOL (R433): the lanes of the quad that lose lock together. -/
  | laneLol (dt : Nat) (q : Fin 20) (mask : BitVec 4)
  /-- LANE_LOL_CLEAR (R432). -/
  | laneLolClear (dt : Nat) (q : Fin 20) (l : Fin 4)
  /-- QUAD_PLL_FAIL (R424). -/
  | quadPllFail (dt : Nat) (q : Fin 20)
  /-- LANE_ALIGNED (R435). -/
  | laneAligned (dt : Nat) (q : Fin 20) (l : Fin 4)
  /-- LANE_ALIGN_LOSS (R435). -/
  | laneAlignLoss (dt : Nat) (q : Fin 20) (l : Fin 4)
  /-- BLOCK_LOCK_ACQUIRED (R436). -/
  | blockLockAcquired (dt : Nat) (q : Fin 20) (l : Fin 4)
  /-- BLOCK_LOCK_LOSS (R436). -/
  | blockLockLoss (dt : Nat) (q : Fin 20) (l : Fin 4)
  /-- ADAPTATION_CONVERGED (R430). -/
  | adaptationConverged (dt : Nat) (q : Fin 20) (l : Fin 4)
  /-- ADAPT_RESTART (R430). -/
  | adaptRestart (dt : Nat) (m : Master) (q : Fin 20) (l : Fin 4)
  /-- LANE_TEST_ENABLE (R437). -/
  | laneTestEnable (dt : Nat) (m : Master) (q : Fin 20) (l : Fin 4)
  /-- LOOPBACK_SELECT (R441): the path. -/
  | loopbackSelect (dt : Nat) (m : Master) (q : Fin 20) (l : Fin 4) (path : Fin 4)
  /-- PRBS_INJECT (R439). -/
  | prbsInject (dt : Nat) (m : Master) (q : Fin 20) (l : Fin 4)
  /-- PRBS_CLEAR (R440). -/
  | prbsClear (dt : Nat) (m : Master) (q : Fin 20) (l : Fin 4)
  /-- PRBS_LOCK (R440). -/
  | prbsLock (dt : Nat) (q : Fin 20) (l : Fin 4)
  /-- PRBS_LOCK_LOSS (R440). -/
  | prbsLockLoss (dt : Nat) (q : Fin 20) (l : Fin 4)
  /-- BOOT_LOADER_RUN (R450), with what the flash's SFDP table declares; none where it has no valid table. -/
  | bootLoaderRun (dt : Nat) (sfdp : Option SfdpFacts)
  /-- DRAM_TRAINING_DONE (R389): what it has shown, and the time that it took in ms. -/
  | dramTrainingDone (dt : Nat) (result : TrainSeen) (ms : Nat)
  /-- FLASH_COPY_READ_DONE (R449): the copy, and the bytes after which its stream broke off, none where it came whole. -/
  | flashCopyReadDone (dt : Nat) (copy : Fin 2) (broke : Option Nat)
  /-- REG_LIST_PAUSE_EXPIRE (R448). -/
  | regListPauseExpire (dt : Nat)
  /-- IMAGE_DATA_WRITE (R453): the word. -/
  | imageDataWrite (dt : Nat) (m : Master) (v : Word)
  /-- HOST_SPI_WRITE (R458): the bytes of a frame that is no READ or STATUS. -/
  | hostSpiWrite (dt : Nat) (bs : List Byte)
  /-- HOST_SPI_READ (R458): the bytes of a READ frame, and whether its data come too late. -/
  | hostSpiRead (dt : Nat) (bs : List Byte) (ending : SpiEnding)
  /-- HOST_SPI_STATUS (R457). -/
  | hostSpiStatus (dt : Nat)
  /-- I2C_POINTER_WRITE (R459): the address and the data bytes. -/
  | i2cPointerWrite (dt : Nat) (addr : BitVec 7) (bs : List Byte)
  /-- I2C_READ (R459): the address and the number of bytes read. -/
  | i2cRead (dt : Nat) (addr : BitVec 7) (n : Nat)
  /-- MGMT_STATUS (R460): the bytes of a message that has come to the protocol's UDP port. -/
  | mgmtStatus (dt : Nat) (bs : List Byte)
  /-- MGMT_READ (R460): the bytes of the message. -/
  | mgmtRead (dt : Nat) (bs : List Byte)
  /-- MGMT_WRITE (R460): the bytes of the message. -/
  | mgmtWrite (dt : Nat) (bs : List Byte)
  /-- MGMT_MAILBOX (R460): the bytes of the message. -/
  | mgmtMailbox (dt : Nat) (bs : List Byte)
  /-- MGMT_IMAGE_DATA (R453): the bytes of the message. -/
  | mgmtImageData (dt : Nat) (bs : List Byte)
  /-- MAILBOX_POST (R461). -/
  | mailboxPost (dt : Nat) (m : Master) (k : Fin 2)
  /-- MAILBOX_TAKE (R461). -/
  | mailboxTake (dt : Nat) (m : Master) (k : Fin 2)
  /-- MAILBOX_DONE (R461). -/
  | mailboxDone (dt : Nat) (m : Master) (k : Fin 2)
  /-- MAILBOX_ACK (R461). -/
  | mailboxAck (dt : Nat) (m : Master) (k : Fin 2)
  /-- MAILBOX_STATUS (R462). -/
  | mailboxStatus (dt : Nat) (k : Fin 2)
  /-- LOAD_PAGE (R462). -/
  | loadPage (dt : Nat) (k : Fin 2)
  /-- VALIDATE (R462). -/
  | validate (dt : Nat) (k : Fin 2)
  /-- KEYSTONE (R462). -/
  | keystone (dt : Nat) (k : Fin 2)
  /-- AMEND (R462). -/
  | amend (dt : Nat) (k : Fin 2)
  /-- PRESET (R462). -/
  | preset (dt : Nat) (k : Fin 2)
  /-- SET_PLACARD (R462). -/
  | setPlacard (dt : Nat) (k : Fin 2)
  /-- VITRINE_WRITE (R462). -/
  | vitrineWrite (dt : Nat) (k : Fin 2)
  /-- SOURCE_BIND (R462). -/
  | sourceBind (dt : Nat) (k : Fin 2)
  /-- RELEASE (R462). -/
  | release (dt : Nat) (k : Fin 2)
  /-- FLASH_WRITE (R456). -/
  | flashWrite (dt : Nat) (k : Fin 2)
  /-- FLASH_WRITE_DONE (R456), with BOOT.FLASH.RESULT. -/
  | flashWriteDone (dt : Nat) (result : Fin 4)
  /-- IMAGE_SELECT (R462). -/
  | imageSelect (dt : Nat) (k : Fin 2)
  /-- MAILBOX_RESET (R462), and whether every channel reaches self-refresh in time. -/
  | mailboxReset (dt : Nat) (k : Fin 2) (kept : Bool)
  /-- FUSE_PROGRAM (R463). -/
  | fuseProgram (dt : Nat) (m : Master)
  /-- POWER_ON_RESET (R467), with the levels of the straps. -/
  | powerOnReset (dt : Nat) (x : Straps)
  /-- PIN_RESET (R467): RESET_N low, or high again, with the levels of the straps. -/
  | pinReset (dt : Nat) (low : Bool) (x : Straps)
  /-- BROWN_OUT_RESET (R470). -/
  | brownOutReset (dt : Nat)
  /-- SOFTWARE_FULL_RESET (R480): a write of RST.SW_FULL, and whether every channel reaches self-refresh in time. -/
  | softwareFullReset (dt : Nat) (m : Master) (v : Word) (kept : Bool)
  /-- DOMAIN_RESET (R481): a write of RST.DOMAIN with GO. -/
  | domainReset (dt : Nat) (m : Master) (code : Byte) (e : DecEnd)
  /-- AON_SWITCH_TO_BACKUP (R468). -/
  | aonSwitchToBackup (dt : Nat)
  /-- AON_SWITCH_TO_MAIN (R468). -/
  | aonSwitchToMain (dt : Nat)
  /-- PWR_WARN (R471): the rail that falls below its warning level, and the rails below theirs now. -/
  | pwrWarn (dt : Nat) (r : Fin 10) (below : BitVec 10)
  /-- PWR_RECOVER (R471). -/
  | pwrRecover (dt : Nat)
  /-- THERMAL_READING (R472): the readings of the eight sensors. -/
  | thermalReading (dt : Nat) (temps : List (BitVec 16))
  /-- WDOG_KICK (R474). -/
  | wdogKick (dt : Nat) (m : Master)
  /-- WDOG_EXPIRE (R474), and whether every channel reaches self-refresh in time if it resets the device. -/
  | wdogExpire (dt : Nat) (kept : Bool)
  /-- PLL_FAIL (R477). -/
  | pllFail (dt : Nat) (k : Fin 16)
  /-- XTAL_LOSS (R477): the crystal has stopped, or runs again. -/
  | xtalLoss (dt : Nat) (running : Bool)
  /-- LOW_POWER_ENTRY (R483): a write of GO with TARGET. -/
  | lowPowerEntry (dt : Nat) (m : Master) (target : Fin 4)
  /-- LOW_POWER_ENTRY_DONE (R483). -/
  | lowPowerEntryDone (dt : Nat)
  /-- WAKE (R485). -/
  | wake (dt : Nat)
  /-- EVENT_STATUS_CLEAR (R493): of a STATUS word, or of causes of one head. -/
  | eventStatusClear (dt : Nat) (m : Master) (c : EvtClear)
  /-- EVENT_ENABLE_WRITE (R494): the word ENABLE[w] and its value. -/
  | eventEnableWrite (dt : Nat) (m : Master) (w : Fin 4) (v : Word)
  /-- EVENT_LOG_ENABLE (R498): the value of LOG_EN. -/
  | eventLogEnable (dt : Nat) (m : Master) (on : Bool)
  /-- SOFTWARE_EVENT (R501): the value written, which is the argument. -/
  | softwareEvent (dt : Nat) (m : Master) (v : Word)
  /-- GPIO_EDGE (R500): the pin, and whether the edge rises. -/
  | gpioEdge (dt : Nat) (n : Fin 16) (rising : Bool)
  /-- INT_PULSE_END (R496). -/
  | intPulseEnd (dt : Nat) (p : Fin 4)
  /-- PLL_LOCKED (R475). -/
  | pllLocked (dt : Nat) (k : Fin 52)
  /-- PLL_IDLE_STOP (R475). -/
  | pllIdleStop (dt : Nat) (k : Fin 16)
  /-- GRANT_STALE_CLEAR (R352). -/
  | grantStaleClear (dt : Nat)
  /-- DOMAIN_RESET_DONE (R481). -/
  | domainResetDone (dt : Nat)
  /-- FUSE_PROGRAM_DONE (R463), and whether it succeeded. -/
  | fuseProgramDone (dt : Nat) (ok : Bool)
  /-- PRBS_ERROR_DETECTED (R440). -/
  | prbsErrorDetected (dt : Nat) (q : Fin 20) (l : Fin 4)
deriving DecidableEq, Repr

end Sys2Proof
end

