-- ==== Sys2Proof/Decode.lean ====
section
/-! DEFINITION. The commands that words spell by the opcode table's bits: the table gives no row any bits, so there is none. -/

namespace Sys2Proof

/-- The command that the `nbits` bits of `w` spell: no row of the table has an encoding.
(DESIGN CHOICE, log entry 5) -/
def decodeTableWord (_nbits _w : Nat) : Option Instr := none

end Sys2Proof
end

