-- ==== Sys2Proof/Config.lean ====
section
/-! DEFINITION. What the spec leaves open: free values (constants without a body, so that nothing can be proved of
what they are) and the shapes that the spec names without defining them. -/

namespace Sys2Proof

/-- A free value: what the spec calls undefined, or leaves unstated, at draw number `n` of State.free.
(DESIGN CHOICE, log entry 9) -/
opaque Config.freeNat : Nat → Nat

/-- A free choice between two allowed behaviours, at draw number `n` of State.free.
(DESIGN CHOICE, log entry 9) -/
opaque Config.freeBool : Nat → Bool

/-- The bytes of a memory range whose content the spec calls undefined, at draw number `n`: byte `i` of it.
(DESIGN CHOICE, log entry 9) -/
opaque Config.freeByte : Nat → Nat → BitVec 8

/-- What the timing of the memory controllers' write queues leaves open, at draw number `n` of BusState.drew: which entries have been
issued, how long a request is held.
(DESIGN CHOICE, log entry 97) -/
opaque Config.queueNat : Nat → Nat

/-- The built-in 16 by 24 font (R266), whose shapes the spec does not give: whether pixel (x, y) of the glyph of an ASCII
code is set.
(DESIGN CHOICE, log entry 40) -/
opaque Config.glyph : Nat → Nat → Nat → Bool

/-- The coefficients, in units of 1/1024, of the fixed sets of the image pipes' scalers (R173), which the spec does not give, at the
sizes scaled from and to, the phase and the tap.
(DESIGN CHOICE, log entry 30) -/
opaque Config.ispCoef : Nat → Nat → Nat → Nat → Int

/-- The coefficients, in units of 1/1024, of the fixed sets of the encode pipes' scaler (R310), which the spec does not give, at the
sizes scaled from and to, the phase and the tap.
(DESIGN CHOICE, log entry 96) -/
opaque Config.encCoef : Nat → Nat → Nat → Nat → Int

end Sys2Proof
end

