-- ==== Sys2Proof/Machine/RegMap.lean ====
section
/-! DEFINITION. The register map: every field of every register under the spec's own name, with its access code,
its reset value, the weakest reset that clears it, its Standby mark and its legal values (R3 to R9, R25 and the
register tables of each chapter, R403, R464, R488). -/

set_option linter.dupNamespace false

namespace Sys2Proof.Machine

/-- One field of one register: the register's address, the field's lowest bit, its width. -/
structure FRef where
  addr  : Nat
  lo    : Nat
  width : Nat
deriving DecidableEq, Repr

/-- The access codes of R4. -/
inductive Access where
  | rw | ro | wo | w1c | w1s | rwk
deriving DecidableEq, Repr

/-- The reset ranks of R6, weakest first; `never` marks a field no reset clears. -/
inductive Rank where
  | d | s | h | p | never
deriving DecidableEq, Repr

/-- The strength of a rank: a reset clears the fields whose rank is at most its own (R6). -/
def Rank.strength : Rank → Nat
  | .d => 0
  | .s => 1
  | .h => 2
  | .p => 3
  | .never => 4

/-- What the register map says of one field. -/
structure RegField where
  lo    : Nat
  width : Nat
  acc   : Access
  reset : Nat
  rank  : Rank
  keep  : Bool
  min   : Nat
  max   : Nat
deriving DecidableEq, Repr

/-- A field of which every value is legal. -/
def fAny (lo width : Nat) (acc : Access) (reset : Nat) (rank : Rank) (keep : Bool) : RegField :=
  ⟨lo, width, acc, reset, rank, keep, 0, 2 ^ width - 1⟩

/-- A field whose legal values are `min` to `max`; the others are reserved (R9). -/
def fIn (lo width : Nat) (acc : Access) (reset : Nat) (rank : Rank) (keep : Bool) (min max : Nat) : RegField :=
  ⟨lo, width, acc, reset, rank, keep, min, max⟩

/-- A family of registers: the address of its first member, the stride and count of each index, its fields. -/
structure RegWord where
  base   : Nat
  dims   : List (Nat × Nat)
  fields : List RegField
deriving DecidableEq, Repr

/-! ### SYS -/

abbrev Reg.SYS.ID.VENDOR : FRef := ⟨0x10000000, 16, 16⟩
abbrev Reg.SYS.ID.DEVICE : FRef := ⟨0x10000000, 0, 16⟩
abbrev Reg.SYS.REVISION.GRADE : FRef := ⟨0x10000004, 8, 2⟩
abbrev Reg.SYS.REVISION.STEPPING : FRef := ⟨0x10000004, 0, 8⟩
abbrev Reg.SYS.STRAPS.CUS_MODE : FRef := ⟨0x10000008, 8, 1⟩
abbrev Reg.SYS.STRAPS.UNIT_ID : FRef := ⟨0x10000008, 4, 4⟩
abbrev Reg.SYS.STRAPS.BOOT_MODE : FRef := ⟨0x10000008, 0, 2⟩
abbrev Reg.SYS.UID_LO : FRef := ⟨0x1000000C, 0, 32⟩
abbrev Reg.SYS.UID_HI : FRef := ⟨0x10000010, 0, 32⟩
abbrev Reg.SYS.SCRATCH : FRef := ⟨0x10000014, 0, 32⟩

/-- The registers of SYS. -/
def regsSYS : List RegWord := [
  ⟨0x10000000, [], [fAny 16 16 .ro 0x4E58 .never true, fAny 0 16 .ro 0x7264 .never true]⟩,
  ⟨0x10000004, [], [fAny 8 2 .ro 0 .never true, fAny 0 8 .ro 176 .never true]⟩,
  ⟨0x10000008, [], [fAny 8 1 .ro 0 .h true, fAny 4 4 .ro 0 .h true, fAny 0 2 .ro 0 .h true]⟩,
  ⟨0x1000000C, [], [fAny 0 32 .ro 0 .never true]⟩,
  ⟨0x10000010, [], [fAny 0 32 .ro 0 .never true]⟩,
  ⟨0x10000014, [], [fAny 0 32 .rw 0 .p true]⟩]

/-! ### CLK -/

abbrev Reg.CLK.LOCK.XTAL_OK : FRef := ⟨0x10010000, 16, 1⟩
abbrev Reg.CLK.LOCK.VPLL_LOCK : FRef := ⟨0x10010000, 8, 8⟩
abbrev Reg.CLK.LOCK.LOCK : FRef := ⟨0x10010000, 0, 7⟩
abbrev Reg.CLK.RUNNING : FRef := ⟨0x10010004, 0, 16⟩
abbrev Reg.CLK.FAIL : FRef := ⟨0x10010008, 0, 16⟩
abbrev Reg.CLK.VPLL.ENABLE (i : Nat) : FRef := ⟨0x10010100 + 0x10 * i, 31, 1⟩
abbrev Reg.CLK.VPLL.POST (i : Nat) : FRef := ⟨0x10010100 + 0x10 * i, 24, 3⟩
abbrev Reg.CLK.VPLL.N (i : Nat) : FRef := ⟨0x10010100 + 0x10 * i, 0, 8⟩
abbrev Reg.CLK.FRAC_NUM (i : Nat) : FRef := ⟨0x10010104 + 0x10 * i, 0, 24⟩
abbrev Reg.CLK.FRAC_DEN (i : Nat) : FRef := ⟨0x10010108 + 0x10 * i, 0, 24⟩

/-- The registers of CLK. -/
def regsCLK : List RegWord := [
  ⟨0x10010000, [], [fAny 16 1 .ro 0 .h true, fAny 8 8 .ro 0 .h false, fAny 0 7 .ro 0 .h false]⟩,
  ⟨0x10010004, [], [fAny 0 16 .ro 0 .h false]⟩,
  ⟨0x10010008, [], [fAny 0 16 .w1c 0 .p true]⟩,
  ⟨0x10010100, [(0x10, 8)], [fAny 31 1 .rw 0 .h false, fIn 24 3 .rw 1 .h false 1 5, fIn 0 8 .rw 96 .h false 80 191]⟩,
  ⟨0x10010104, [(0x10, 8)], [fAny 0 24 .rw 0 .h false]⟩,
  ⟨0x10010108, [(0x10, 8)], [fIn 0 24 .rw 1 .h false 1 16777215]⟩]

/-! ### PWR -/

abbrev Reg.PWR.STATUS.BACKUP_SEEN : FRef := ⟨0x10020000, 3, 1⟩
abbrev Reg.PWR.STATUS.WARN_ACTIVE : FRef := ⟨0x10020000, 2, 1⟩
abbrev Reg.PWR.STATUS.AON_SRC : FRef := ⟨0x10020000, 1, 1⟩
abbrev Reg.PWR.WARN_COUNTS.EPISODES : FRef := ⟨0x10020004, 16, 16⟩
abbrev Reg.PWR.WARN_COUNTS.DIPS : FRef := ⟨0x10020004, 0, 16⟩
abbrev Reg.PWR.BELOW.BELOW_SEEN : FRef := ⟨0x10020008, 16, 10⟩
abbrev Reg.PWR.BELOW.BELOW : FRef := ⟨0x10020008, 0, 10⟩
abbrev Reg.PWR.RAIL.RESET_HALF_PCT (i : Nat) : FRef := ⟨0x10020010 + 0x4 * i, 8, 8⟩
abbrev Reg.PWR.RAIL.WARN_HALF_PCT (i : Nat) : FRef := ⟨0x10020010 + 0x4 * i, 0, 8⟩
abbrev Reg.PWR.LP_CTRL.GO : FRef := ⟨0x10020040, 31, 1⟩
abbrev Reg.PWR.LP_CTRL.RESULT : FRef := ⟨0x10020040, 8, 4⟩
abbrev Reg.PWR.LP_CTRL.TARGET : FRef := ⟨0x10020040, 0, 2⟩
abbrev Reg.PWR.WAKE_EN.HOST : FRef := ⟨0x10020044, 2, 1⟩
abbrev Reg.PWR.WAKE_EN.GPIO : FRef := ⟨0x10020044, 1, 1⟩
abbrev Reg.PWR.WAKE_EN.TIMER : FRef := ⟨0x10020044, 0, 1⟩
abbrev Reg.PWR.WAKE_GPIO.RISE : FRef := ⟨0x10020048, 16, 16⟩
abbrev Reg.PWR.WAKE_GPIO.FALL : FRef := ⟨0x10020048, 0, 16⟩
abbrev Reg.PWR.WAKE_TIMER_S : FRef := ⟨0x1002004C, 0, 32⟩
abbrev Reg.PWR.WAKE_CAUSE.GPIO_NUM : FRef := ⟨0x10020050, 8, 5⟩
abbrev Reg.PWR.WAKE_CAUSE.CAUSE : FRef := ⟨0x10020050, 0, 5⟩
abbrev Reg.PWR.THERM_CTRL.HYST_C : FRef := ⟨0x10020060, 8, 8⟩
abbrev Reg.PWR.THERM_CTRL.WARN_C : FRef := ⟨0x10020060, 0, 8⟩
abbrev Reg.PWR.THERM_STATUS.TRIPPED : FRef := ⟨0x10020064, 31, 1⟩
abbrev Reg.PWR.THERM_STATUS.HOT : FRef := ⟨0x10020064, 30, 1⟩
abbrev Reg.PWR.THERM_STATUS.HOTTEST : FRef := ⟨0x10020064, 16, 3⟩
abbrev Reg.PWR.THERM_STATUS.MAX_Q : FRef := ⟨0x10020064, 0, 16⟩
abbrev Reg.PWR.WDOG_CTRL.TIMEOUT_MS : FRef := ⟨0x10020080, 16, 16⟩
abbrev Reg.PWR.WDOG_CTRL.REPORT_ONLY : FRef := ⟨0x10020080, 1, 1⟩
abbrev Reg.PWR.WDOG_CTRL.ENABLE : FRef := ⟨0x10020080, 0, 1⟩
abbrev Reg.PWR.WDOG_KICK.KICK : FRef := ⟨0x10020084, 0, 1⟩
abbrev Reg.PWR.WDOG_STATUS.WARNED : FRef := ⟨0x10020088, 31, 1⟩
abbrev Reg.PWR.WDOG_STATUS.EXPIRIES : FRef := ⟨0x10020088, 0, 16⟩
abbrev Reg.PWR.TEMP.PEAK_Q (i : Nat) : FRef := ⟨0x10020070 + 0x4 * i, 16, 16⟩
abbrev Reg.PWR.TEMP.TEMP_Q (i : Nat) : FRef := ⟨0x10020070 + 0x4 * i, 0, 16⟩

/-- The registers of PWR. -/
def regsPWR : List RegWord := [
  ⟨0x10020000, [], [fAny 3 1 .w1c 0 .p true, fAny 2 1 .ro 0 .p true, fAny 1 1 .ro 0 .p true]⟩,
  ⟨0x10020004, [], [fAny 16 16 .ro 0 .p true, fAny 0 16 .ro 0 .p true]⟩,
  ⟨0x10020008, [], [fAny 16 10 .w1c 0 .p true, fAny 0 10 .ro 0 .p true]⟩,
  ⟨0x10020010, [(0x4, 9)], [fIn 8 8 .rw 20 .h true 4 30, fIn 0 8 .rw 10 .h true 2 20]⟩,
  ⟨0x10020034, [], [fIn 0 8 .rw 10 .h true 2 20]⟩,
  ⟨0x10020040, [], [fAny 31 1 .w1s 0 .h true, fAny 8 4 .ro 0 .h true, fIn 0 2 .rw 0 .h true 1 2]⟩,
  ⟨0x10020044, [], [fAny 2 1 .rw 0 .h true, fAny 1 1 .rw 0 .h true, fAny 0 1 .rw 0 .h true]⟩,
  ⟨0x10020048, [], [fAny 16 16 .rw 0 .h true, fAny 0 16 .rw 0 .h true]⟩,
  ⟨0x1002004C, [], [fAny 0 32 .rw 0 .h true]⟩,
  ⟨0x10020050, [], [fAny 8 5 .ro 0 .h true, fAny 0 5 .ro 0 .h true]⟩,
  ⟨0x10020060, [], [fIn 8 8 .rw 5 .h true 1 20, fIn 0 8 .rw 100 .h true 60 110]⟩,
  ⟨0x10020064, [], [fAny 31 1 .ro 0 .p true, fAny 30 1 .ro 0 .p true, fAny 16 3 .ro 0 .p true, fAny 0 16 .ro 0 .p true]⟩,
  ⟨0x10020080, [], [fIn 16 16 .rw 1000 .h true 10 65535, fAny 1 1 .rw 0 .h true, fAny 0 1 .rw 0 .h true]⟩,
  ⟨0x10020084, [], [fAny 0 1 .w1s 0 .h true]⟩,
  ⟨0x10020088, [], [fAny 31 1 .ro 0 .h true, fAny 0 16 .ro 0 .p true]⟩,
  ⟨0x10020070, [(0x4, 8)], [fAny 16 16 .ro 0x8000 .p true, fAny 0 16 .ro 0 .p true]⟩]

/-! ### RST -/

abbrev Reg.RST.STATUS.DRAM_KEPT : FRef := ⟨0x10030000, 8, 1⟩
abbrev Reg.RST.STATUS.CAUSE : FRef := ⟨0x10030000, 0, 4⟩
abbrev Reg.RST.SW_FULL : FRef := ⟨0x10030004, 0, 32⟩
abbrev Reg.RST.DOMAIN.GO : FRef := ⟨0x10030008, 31, 1⟩
abbrev Reg.RST.DOMAIN.RESULT : FRef := ⟨0x10030008, 8, 4⟩
abbrev Reg.RST.DOMAIN.CODE : FRef := ⟨0x10030008, 0, 8⟩
abbrev Reg.RST.COUNTS.BROWN_OUTS : FRef := ⟨0x1003000C, 24, 8⟩
abbrev Reg.RST.COUNTS.WATCHDOGS : FRef := ⟨0x1003000C, 16, 8⟩
abbrev Reg.RST.COUNTS.CUSTODIANS : FRef := ⟨0x1003000C, 8, 8⟩
abbrev Reg.RST.COUNTS.SOFTWARE : FRef := ⟨0x1003000C, 0, 8⟩

/-- The registers of RST. -/
def regsRST : List RegWord := [
  ⟨0x10030000, [], [fAny 8 1 .ro 0 .never true, fAny 0 4 .ro 0 .never true]⟩,
  ⟨0x10030004, [], [fAny 0 32 .wo 0 .never true]⟩,
  ⟨0x10030008, [], [fAny 31 1 .w1s 0 .s false, fAny 8 4 .ro 0 .s false, fAny 0 8 .rw 0 .s false]⟩,
  ⟨0x1003000C, [], [fAny 24 8 .ro 0 .p true, fAny 16 8 .ro 0 .p true, fAny 8 8 .ro 0 .p true, fAny 0 8 .ro 0 .p true]⟩]

/-! ### EVT -/

abbrev Reg.EVT.LOG_EN : FRef := ⟨0x10040000, 0, 1⟩
abbrev Reg.EVT.LOG_FAULT : FRef := ⟨0x10040004, 31, 1⟩
abbrev Reg.EVT.DROPS : FRef := ⟨0x10040004, 0, 16⟩
abbrev Reg.EVT.LOG_SEQ : FRef := ⟨0x10040008, 0, 32⟩
abbrev Reg.EVT.LOG_LOG2 : FRef := ⟨0x10040010, 28, 4⟩
abbrev Reg.EVT.LOG_BASE : FRef := ⟨0x10040010, 0, 24⟩
abbrev Reg.EVT.LOG_WR : FRef := ⟨0x10040014, 0, 14⟩
abbrev Reg.EVT.LOG_RD : FRef := ⟨0x10040018, 0, 14⟩
abbrev Reg.EVT.SW_RAISE : FRef := ⟨0x10040020, 0, 32⟩
abbrev Reg.EVT.GPIO.RISE : FRef := ⟨0x10040030, 16, 16⟩
abbrev Reg.EVT.GPIO.FALL : FRef := ⟨0x10040030, 0, 16⟩
abbrev Reg.EVT.INT_CTRL.MODE (i : Nat) : FRef := ⟨0x10040040 + 0x4 * i, 31, 1⟩
abbrev Reg.EVT.INT_CTRL.ASSERTED (i : Nat) : FRef := ⟨0x10040040 + 0x4 * i, 16, 1⟩
abbrev Reg.EVT.INT_CTRL.PULSE_US (i : Nat) : FRef := ⟨0x10040040 + 0x4 * i, 0, 8⟩
abbrev Reg.EVT.PEND.VALID (i : Nat) : FRef := ⟨0x10040060 + 0x4 * i, 31, 1⟩
abbrev Reg.EVT.PEND.SOURCE (i : Nat) : FRef := ⟨0x10040060 + 0x4 * i, 0, 7⟩
abbrev Reg.EVT.STATUS (i : Nat) : FRef := ⟨0x10040080 + 0x4 * i, 0, 32⟩
abbrev Reg.EVT.ENABLE (i : Nat) : FRef := ⟨0x10040090 + 0x4 * i, 0, 32⟩
abbrev Reg.EVT.ROUTE.LOG (i : Nat) : FRef := ⟨0x10040200 + 0x4 * i, 5, 1⟩
abbrev Reg.EVT.ROUTE.CURATOR (i : Nat) : FRef := ⟨0x10040200 + 0x4 * i, 4, 1⟩
abbrev Reg.EVT.ROUTE.PINS (i : Nat) : FRef := ⟨0x10040200 + 0x4 * i, 0, 4⟩
abbrev Reg.EVT.HEAD_CAUSE.CAUSE_EN (i : Nat) : FRef := ⟨0x10040400 + 0x4 * i, 8, 8⟩
abbrev Reg.EVT.HEAD_CAUSE.CAUSE (i : Nat) : FRef := ⟨0x10040400 + 0x4 * i, 0, 8⟩

/-- The registers of EVT. -/
def regsEVT : List RegWord := [
  ⟨0x10040000, [], [fAny 0 1 .rw 0 .s false]⟩,
  ⟨0x10040004, [], [fAny 31 1 .w1c 0 .s false, fAny 0 16 .ro 0 .s false]⟩,
  ⟨0x10040008, [], [fAny 0 32 .ro 0 .s false]⟩,
  ⟨0x10040010, [], [fIn 28 4 .rw 8 .s false 4 14, fAny 0 24 .rw 0 .s false]⟩,
  ⟨0x10040014, [], [fAny 0 14 .ro 0 .s false]⟩,
  ⟨0x10040018, [], [fAny 0 14 .rw 0 .s false]⟩,
  ⟨0x10040020, [], [fAny 0 32 .wo 0 .s false]⟩,
  ⟨0x10040030, [], [fAny 16 16 .rw 0 .s false, fAny 0 16 .rw 0 .s false]⟩,
  ⟨0x10040040, [(0x4, 4)], [fAny 31 1 .rw 0 .s false, fAny 16 1 .ro 0 .s false, fIn 0 8 .rw 10 .s false 1 255]⟩,
  ⟨0x10040060, [(0x4, 5)], [fAny 31 1 .ro 0 .s false, fAny 0 7 .ro 0 .s false]⟩,
  ⟨0x10040080, [(0x4, 4)], [fAny 0 32 .w1c 0 .s false]⟩,
  ⟨0x10040090, [(0x4, 4)], [fAny 0 32 .rw 0 .s false]⟩,
  ⟨0x10040200, [(0x4, 128)], [fAny 5 1 .rw 0 .s false, fAny 4 1 .rw 0 .s false, fAny 0 4 .rw 0 .s false]⟩,
  ⟨0x10040400, [(0x4, 64)], [fAny 8 8 .rw 207 .s false, fAny 0 8 .w1c 0 .s false]⟩]

/-! ### ERR -/

abbrev Reg.ERR.CTRL.LOG_MASK : FRef := ⟨0x10050000, 0, 3⟩
abbrev Reg.ERR.STATUS.LOST : FRef := ⟨0x10050004, 16, 16⟩
abbrev Reg.ERR.STATUS.COUNT : FRef := ⟨0x10050004, 0, 5⟩
abbrev Reg.ERR.REC_INFO.VALID : FRef := ⟨0x10050008, 31, 1⟩
abbrev Reg.ERR.REC_INFO.TARGET : FRef := ⟨0x10050008, 24, 4⟩
abbrev Reg.ERR.REC_INFO.MASTER : FRef := ⟨0x10050008, 16, 6⟩
abbrev Reg.ERR.REC_INFO.REASON : FRef := ⟨0x10050008, 0, 8⟩
abbrev Reg.ERR.REC_ADDR_LO.ADDR : FRef := ⟨0x1005000C, 0, 32⟩
abbrev Reg.ERR.REC_ADDR_HI.ADDR : FRef := ⟨0x10050010, 0, 4⟩
abbrev Reg.ERR.REC_ATTR.WRITE : FRef := ⟨0x10050014, 31, 1⟩
abbrev Reg.ERR.REC_ATTR.CLASS : FRef := ⟨0x10050014, 30, 1⟩
abbrev Reg.ERR.REC_ATTR.RESP : FRef := ⟨0x10050014, 29, 1⟩
abbrev Reg.ERR.REC_ATTR.QOS : FRef := ⟨0x10050014, 24, 4⟩
abbrev Reg.ERR.REC_ATTR.ID : FRef := ⟨0x10050014, 16, 6⟩
abbrev Reg.ERR.REC_ATTR.BEATS_M1 : FRef := ⟨0x10050014, 8, 5⟩
abbrev Reg.ERR.REC_ATTR.STROBES : FRef := ⟨0x10050014, 0, 4⟩
abbrev Reg.ERR.REC_DATA.DATA : FRef := ⟨0x10050018, 0, 32⟩
abbrev Reg.ERR.REC_TIME_LO.COUNT : FRef := ⟨0x1005001C, 0, 32⟩
abbrev Reg.ERR.REC_TIME_HI.COUNT : FRef := ⟨0x10050020, 0, 32⟩

/-- The registers of ERR. -/
def regsERR : List RegWord := [
  ⟨0x10050000, [], [fAny 0 3 .rw 7 .s false]⟩,
  ⟨0x10050004, [], [fAny 16 16 .ro 0 .s false, fAny 0 5 .ro 0 .s false]⟩,
  ⟨0x10050008, [], [fAny 31 1 .ro 0 .s false, fAny 24 4 .ro 0 .s false, fAny 16 6 .ro 0 .s false, fAny 0 8 .ro 0 .s false]⟩,
  ⟨0x1005000C, [], [fAny 0 32 .ro 0 .s false]⟩,
  ⟨0x10050010, [], [fAny 0 4 .ro 0 .s false]⟩,
  ⟨0x10050014, [], [fAny 31 1 .ro 0 .s false, fAny 30 1 .ro 0 .s false, fAny 29 1 .ro 0 .s false, fAny 24 4 .ro 0 .s false, fAny 16 6 .ro 0 .s false, fAny 8 5 .ro 0 .s false, fAny 0 4 .ro 0 .s false]⟩,
  ⟨0x10050018, [], [fAny 0 32 .ro 0 .s false]⟩,
  ⟨0x1005001C, [], [fAny 0 32 .ro 0 .s false]⟩,
  ⟨0x10050020, [], [fAny 0 32 .ro 0 .s false]⟩]

/-! ### TIME -/

abbrev Reg.TIME.CTRL.HOLDOVER_LIMIT_S : FRef := ⟨0x10060000, 16, 16⟩
abbrev Reg.TIME.CTRL.KICK_TIMEOUT_MS : FRef := ⟨0x10060000, 0, 16⟩
abbrev Reg.TIME.STATUS.REFUSED : FRef := ⟨0x10060004, 24, 8⟩
abbrev Reg.TIME.STATUS.STEP_ARMED : FRef := ⟨0x10060004, 4, 1⟩
abbrev Reg.TIME.STATUS.STATE : FRef := ⟨0x10060004, 0, 2⟩
abbrev Reg.TIME.STATE_REQ.TARGET : FRef := ⟨0x10060008, 0, 2⟩
abbrev Reg.TIME.KICK.KICK : FRef := ⟨0x1006000C, 0, 1⟩
abbrev Reg.TIME.LOCAL_LO.COUNT : FRef := ⟨0x10060010, 0, 32⟩
abbrev Reg.TIME.LOCAL_HI.COUNT : FRef := ⟨0x10060014, 0, 32⟩
abbrev Reg.TIME.NOW_NS.NS : FRef := ⟨0x10060020, 0, 30⟩
abbrev Reg.TIME.NOW_SEC_LO.SEC_LO : FRef := ⟨0x10060024, 0, 32⟩
abbrev Reg.TIME.NOW_SEC_HI.STATE : FRef := ⟨0x10060028, 16, 2⟩
abbrev Reg.TIME.NOW_SEC_HI.SEC_HI : FRef := ⟨0x10060028, 0, 16⟩
abbrev Reg.TIME.OFFSET_NS.NS : FRef := ⟨0x10060030, 0, 30⟩
abbrev Reg.TIME.OFFSET_SEC_LO.SEC_LO : FRef := ⟨0x10060034, 0, 32⟩
abbrev Reg.TIME.OFFSET_SEC_HI.SEC_HI : FRef := ⟨0x10060038, 0, 16⟩
abbrev Reg.TIME.RATE.RATE : FRef := ⟨0x1006003C, 0, 32⟩
abbrev Reg.TIME.STEP_NS.SIGN : FRef := ⟨0x10060040, 31, 1⟩
abbrev Reg.TIME.STEP_NS.NS : FRef := ⟨0x10060040, 0, 30⟩
abbrev Reg.TIME.STEP_SEC_LO.SEC_LO : FRef := ⟨0x10060044, 0, 32⟩
abbrev Reg.TIME.STEP_SEC_HI.SEC_HI : FRef := ⟨0x10060048, 0, 16⟩
abbrev Reg.TIME.STAMP_EN.GPIO : FRef := ⟨0x10060050, 16, 16⟩
abbrev Reg.TIME.STAMP_EN.GPIO_EDGE : FRef := ⟨0x10060050, 5, 1⟩
abbrev Reg.TIME.STAMP_EN.PPS : FRef := ⟨0x10060050, 4, 1⟩
abbrev Reg.TIME.STAMP_EN.CAP : FRef := ⟨0x10060050, 3, 1⟩
abbrev Reg.TIME.STAMP_EN.TOUCH : FRef := ⟨0x10060050, 2, 1⟩
abbrev Reg.TIME.STAMP_EN.HEADS : FRef := ⟨0x10060050, 1, 1⟩
abbrev Reg.TIME.STAMP_STATUS.OVF : FRef := ⟨0x10060054, 31, 1⟩
abbrev Reg.TIME.STAMP_STATUS.COUNT : FRef := ⟨0x10060054, 0, 7⟩
abbrev Reg.TIME.STAMP_NS.VALID : FRef := ⟨0x10060058, 31, 1⟩
abbrev Reg.TIME.STAMP_NS.NS : FRef := ⟨0x10060058, 0, 30⟩
abbrev Reg.TIME.STAMP_SEC_LO.SEC_LO : FRef := ⟨0x1006005C, 0, 32⟩
abbrev Reg.TIME.STAMP_SEC_HI.CODE : FRef := ⟨0x10060060, 24, 8⟩
abbrev Reg.TIME.STAMP_SEC_HI.STATE : FRef := ⟨0x10060060, 16, 2⟩
abbrev Reg.TIME.STAMP_SEC_HI.SEC_HI : FRef := ⟨0x10060060, 0, 16⟩
abbrev Reg.TIME.PPS_CTRL.OUT_WIDTH_MS : FRef := ⟨0x10060070, 16, 16⟩
abbrev Reg.TIME.PPS_CTRL.OUT_UNLOCKED : FRef := ⟨0x10060070, 3, 1⟩
abbrev Reg.TIME.PPS_CTRL.OUT_EN : FRef := ⟨0x10060070, 2, 1⟩
abbrev Reg.TIME.PPS_CTRL.IN_EDGE : FRef := ⟨0x10060070, 1, 1⟩
abbrev Reg.TIME.PPS_CTRL.IN_EN : FRef := ⟨0x10060070, 0, 1⟩
abbrev Reg.TIME.TXQ.VALID (i : Nat) : FRef := ⟨0x10060200 + 0x10 * i, 31, 1⟩
abbrev Reg.TIME.TXQ.NS (i : Nat) : FRef := ⟨0x10060200 + 0x10 * i, 0, 30⟩
abbrev Reg.TIME.TXQ.SEC_LO (i : Nat) : FRef := ⟨0x10060204 + 0x10 * i, 0, 32⟩
abbrev Reg.TIME.TXQ.TAG (i : Nat) : FRef := ⟨0x10060208 + 0x10 * i, 16, 16⟩
abbrev Reg.TIME.TXQ.SEC_HI (i : Nat) : FRef := ⟨0x10060208 + 0x10 * i, 0, 16⟩
abbrev Reg.TIME.TXQ.OVF (i : Nat) : FRef := ⟨0x1006020C + 0x10 * i, 31, 1⟩
abbrev Reg.TIME.TXQ.COUNT (i : Nat) : FRef := ⟨0x1006020C + 0x10 * i, 0, 6⟩

/-- The registers of TIME, part 1. -/
def regsTIME0 : List RegWord := [
  ⟨0x10060000, [], [fAny 16 16 .rw 600 .s false, fAny 0 16 .rw 2000 .s false]⟩,
  ⟨0x10060004, [], [fAny 24 8 .ro 0 .s false, fAny 4 1 .ro 0 .s false, fAny 0 2 .ro 0 .s false]⟩,
  ⟨0x10060008, [], [fAny 0 2 .wo 0 .s false]⟩,
  ⟨0x1006000C, [], [fAny 0 1 .w1s 0 .s false]⟩,
  ⟨0x10060010, [], [fAny 0 32 .ro 0 .h true]⟩,
  ⟨0x10060014, [], [fAny 0 32 .ro 0 .h true]⟩,
  ⟨0x10060020, [], [fAny 0 30 .ro 0 .h false]⟩,
  ⟨0x10060024, [], [fAny 0 32 .ro 0 .h false]⟩,
  ⟨0x10060028, [], [fAny 16 2 .ro 0 .s false, fAny 0 16 .ro 0 .h false]⟩,
  ⟨0x10060030, [], [fAny 0 30 .ro 0 .h false]⟩,
  ⟨0x10060034, [], [fAny 0 32 .ro 0 .h false]⟩,
  ⟨0x10060038, [], [fAny 0 16 .ro 0 .h false]⟩,
  ⟨0x1006003C, [], [fAny 0 32 .rw 0 .h false]⟩,
  ⟨0x10060040, [], [fAny 31 1 .wo 0 .s false, fAny 0 30 .wo 0 .s false]⟩,
  ⟨0x10060044, [], [fAny 0 32 .wo 0 .s false]⟩,
  ⟨0x10060048, [], [fAny 0 16 .wo 0 .s false]⟩]

/-- The registers of TIME, part 2. -/
def regsTIME1 : List RegWord := [
  ⟨0x10060050, [], [fAny 16 16 .rw 0 .s false, fAny 5 1 .rw 0 .s false, fAny 4 1 .rw 0 .s false, fAny 3 1 .rw 0 .s false, fAny 2 1 .rw 0 .s false, fAny 1 1 .rw 0 .s false]⟩,
  ⟨0x10060054, [], [fAny 31 1 .w1c 0 .s false, fAny 0 7 .ro 0 .s false]⟩,
  ⟨0x10060058, [], [fAny 31 1 .ro 0 .s false, fAny 0 30 .ro 0 .s false]⟩,
  ⟨0x1006005C, [], [fAny 0 32 .ro 0 .s false]⟩,
  ⟨0x10060060, [], [fAny 24 8 .ro 0 .s false, fAny 16 2 .ro 0 .s false, fAny 0 16 .ro 0 .s false]⟩,
  ⟨0x10060070, [], [fIn 16 16 .rw 100 .s false 1 900, fAny 3 1 .rw 0 .s false, fAny 2 1 .rw 0 .s false, fAny 1 1 .rw 0 .s false, fAny 0 1 .rw 0 .s false]⟩,
  ⟨0x10060200, [(0x10, 16)], [fAny 31 1 .ro 0 .s false, fAny 0 30 .ro 0 .s false]⟩,
  ⟨0x10060204, [(0x10, 16)], [fAny 0 32 .ro 0 .s false]⟩,
  ⟨0x10060208, [(0x10, 16)], [fAny 16 16 .ro 0 .s false, fAny 0 16 .ro 0 .s false]⟩,
  ⟨0x1006020C, [(0x10, 16)], [fAny 31 1 .w1c 0 .s false, fAny 0 6 .ro 0 .s false]⟩]

/-- The registers of TIME. -/
def regsTIME : List RegWord := regsTIME0 ++ regsTIME1

/-! ### CUS -/

abbrev Reg.CUS.CTRL.LINK_TIMEOUT_MS : FRef := ⟨0x10070000, 16, 16⟩
abbrev Reg.CUS.CTRL.ALIVE_TIMEOUT_MS : FRef := ⟨0x10070000, 8, 8⟩
abbrev Reg.CUS.CTRL.WAKE_ON_GRANT : FRef := ⟨0x10070000, 4, 1⟩
abbrev Reg.CUS.CTRL.TX_VERSION : FRef := ⟨0x10070000, 3, 1⟩
abbrev Reg.CUS.CTRL.LINK_WATCH : FRef := ⟨0x10070000, 2, 1⟩
abbrev Reg.CUS.CTRL.REMOTE_RESET_EN : FRef := ⟨0x10070000, 1, 1⟩
abbrev Reg.CUS.CTRL.ISOLATE : FRef := ⟨0x10070000, 0, 1⟩
abbrev Reg.CUS.STATUS.REQ_RESULT : FRef := ⟨0x10070004, 16, 3⟩
abbrev Reg.CUS.STATUS.UNIT_ID : FRef := ⟨0x10070004, 12, 4⟩
abbrev Reg.CUS.STATUS.PEER_OK_OUT : FRef := ⟨0x10070004, 11, 1⟩
abbrev Reg.CUS.STATUS.PEER_OK_IN : FRef := ⟨0x10070004, 10, 1⟩
abbrev Reg.CUS.STATUS.MODE : FRef := ⟨0x10070004, 9, 1⟩
abbrev Reg.CUS.STATUS.LINK_UP : FRef := ⟨0x10070004, 8, 1⟩
abbrev Reg.CUS.STATUS.ALIVE : FRef := ⟨0x10070004, 7, 1⟩
abbrev Reg.CUS.STATUS.GRANT_STALE : FRef := ⟨0x10070004, 6, 1⟩
abbrev Reg.CUS.STATUS.GRANT : FRef := ⟨0x10070004, 5, 1⟩
abbrev Reg.CUS.STATUS.RELEASE_PENDING : FRef := ⟨0x10070004, 4, 1⟩
abbrev Reg.CUS.STATUS.ACTING : FRef := ⟨0x10070004, 3, 1⟩
abbrev Reg.CUS.STATUS.ROLE : FRef := ⟨0x10070004, 0, 3⟩
abbrev Reg.CUS.ROLE_REQ.TARGET : FRef := ⟨0x10070008, 0, 1⟩
abbrev Reg.CUS.ALIVE_KICK.KICK : FRef := ⟨0x1007000C, 0, 1⟩
abbrev Reg.CUS.HEARTBEAT.COUNT : FRef := ⟨0x10070010, 0, 32⟩
abbrev Reg.CUS.HEALTH.WORD : FRef := ⟨0x10070014, 0, 32⟩
abbrev Reg.CUS.HEALTH_FW.FW : FRef := ⟨0x10070018, 0, 16⟩
abbrev Reg.CUS.PEER_LIVE_GEN.GENERATION : FRef := ⟨0x1007001C, 0, 32⟩
abbrev Reg.CUS.SYNC_CTRL.SYNC_GRACE_MS : FRef := ⟨0x10070020, 0, 16⟩
abbrev Reg.CUS.T_RELEASE.US : FRef := ⟨0x10070024, 0, 32⟩
abbrev Reg.CUS.COUNTS.RX_FRAMES : FRef := ⟨0x10070028, 16, 16⟩
abbrev Reg.CUS.COUNTS.RX_ERR : FRef := ⟨0x10070028, 0, 16⟩
abbrev Reg.CUS.GRANT_CHANGES.COUNT : FRef := ⟨0x1007002C, 0, 32⟩
abbrev Reg.CUS.COMPAT.TAKE_DELAY_MS : FRef := ⟨0x10070030, 16, 16⟩
abbrev Reg.CUS.COMPAT.SELF_OK : FRef := ⟨0x10070030, 0, 1⟩
abbrev Reg.CUS.LAST_RELEASE.US : FRef := ⟨0x10070034, 0, 32⟩
abbrev Reg.CUS.TX_FRAMES.COUNT : FRef := ⟨0x10070038, 0, 32⟩

/-- The registers of CUS. -/
def regsCUS : List RegWord := [
  ⟨0x10070000, [], [fIn 16 16 .rw 100 .h true 20 65535, fIn 8 8 .rw 20 .h true 2 255, fAny 4 1 .rw 0 .h true, fAny 3 1 .rw 0 .h true, fAny 2 1 .rw 0 .h true, fAny 1 1 .rw 0 .h true, fAny 0 1 .rw 0 .h true]⟩,
  ⟨0x10070004, [], [fAny 16 3 .ro 0 .h true, fAny 12 4 .ro 0 .never true, fAny 11 1 .ro 0 .h true, fAny 10 1 .ro 0 .h true, fAny 9 1 .ro 0 .never true, fAny 8 1 .ro 0 .h true, fAny 7 1 .ro 0 .h true, fAny 6 1 .ro 1 .h true, fAny 5 1 .ro 0 .h true, fAny 4 1 .ro 0 .h true, fAny 3 1 .ro 0 .h true, fAny 0 3 .ro 0 .h true]⟩,
  ⟨0x10070008, [], [fAny 0 1 .wo 0 .h true]⟩,
  ⟨0x1007000C, [], [fAny 0 1 .w1s 0 .h true]⟩,
  ⟨0x10070010, [], [fAny 0 32 .rw 0 .h true]⟩,
  ⟨0x10070014, [], [fAny 0 32 .ro 0 .h true]⟩,
  ⟨0x10070018, [], [fAny 0 16 .rw 0 .h true]⟩,
  ⟨0x1007001C, [], [fAny 0 32 .rw 0 .h true]⟩,
  ⟨0x10070020, [], [fIn 0 16 .rw 1000 .h true 1 65535]⟩,
  ⟨0x10070024, [], [fAny 0 32 .ro 1000 .h true]⟩,
  ⟨0x10070028, [], [fAny 16 16 .ro 0 .h true, fAny 0 16 .ro 0 .h true]⟩,
  ⟨0x1007002C, [], [fAny 0 32 .ro 0 .h true]⟩,
  ⟨0x10070030, [], [fAny 16 16 .rw 50 .h true, fAny 0 1 .rw 0 .h true]⟩,
  ⟨0x10070034, [], [fAny 0 32 .ro 0 .h true]⟩,
  ⟨0x10070038, [], [fAny 0 32 .ro 0 .h true]⟩]

/-! ### BOOT -/

abbrev Reg.BOOT.STATUS.KEY_OPEN : FRef := ⟨0x10080000, 21, 1⟩
abbrev Reg.BOOT.STATUS.FORCED : FRef := ⟨0x10080000, 20, 1⟩
abbrev Reg.BOOT.STATUS.STAT : FRef := ⟨0x10080000, 16, 3⟩
abbrev Reg.BOOT.STATUS.COPY_USED : FRef := ⟨0x10080000, 12, 2⟩
abbrev Reg.BOOT.STATUS.REASON : FRef := ⟨0x10080000, 8, 4⟩
abbrev Reg.BOOT.STATUS.STATE : FRef := ⟨0x10080000, 0, 3⟩
abbrev Reg.BOOT.COPY.VERSION (i : Nat) : FRef := ⟨0x10080004 + 0x4 * i, 8, 4⟩
abbrev Reg.BOOT.COPY.RESULT (i : Nat) : FRef := ⟨0x10080004 + 0x4 * i, 0, 4⟩
abbrev Reg.BOOT.GEN_A : FRef := ⟨0x1008000C, 0, 32⟩
abbrev Reg.BOOT.GEN_B : FRef := ⟨0x10080010, 0, 32⟩
abbrev Reg.BOOT.GEN : FRef := ⟨0x10080014, 0, 32⟩
abbrev Reg.BOOT.NEXT_SEL : FRef := ⟨0x10080018, 0, 2⟩
abbrev Reg.BOOT.TIMES.T_SELECT_MS : FRef := ⟨0x1008001C, 16, 16⟩
abbrev Reg.BOOT.TIMES.T_RUN_MS : FRef := ⟨0x1008001C, 0, 16⟩
abbrev Reg.BOOT.IMAGE_DATA : FRef := ⟨0x10080020, 0, 32⟩
abbrev Reg.BOOT.FLASH.BUSY : FRef := ⟨0x10080024, 31, 1⟩
abbrev Reg.BOOT.FLASH.ERASE_KB : FRef := ⟨0x10080024, 16, 8⟩
abbrev Reg.BOOT.FLASH.RESULT : FRef := ⟨0x10080024, 0, 4⟩
abbrev Reg.BOOT.FLASH_MB : FRef := ⟨0x10080028, 0, 32⟩
abbrev Reg.BOOT.KEY_DIGEST (i : Nat) : FRef := ⟨0x10080040 + 0x4 * i, 0, 32⟩
abbrev Reg.BOOT.FUSE_DATA (i : Nat) : FRef := ⟨0x10080060 + 0x4 * i, 0, 32⟩
abbrev Reg.BOOT.FUSE_PROG.GO : FRef := ⟨0x10080080, 31, 1⟩
abbrev Reg.BOOT.FUSE_PROG.PROG_RESULT : FRef := ⟨0x10080080, 0, 4⟩

/-- The registers of BOOT. -/
def regsBOOT : List RegWord := [
  ⟨0x10080000, [], [fAny 21 1 .ro 0 .h true, fAny 20 1 .ro 0 .h true, fAny 16 3 .ro 1 .h true, fAny 12 2 .ro 0 .h true, fAny 8 4 .ro 0 .h true, fAny 0 3 .ro 0 .h true]⟩,
  ⟨0x10080004, [(0x4, 2)], [fAny 8 4 .ro 0 .h true, fAny 0 4 .ro 0 .h true]⟩,
  ⟨0x1008000C, [], [fAny 0 32 .ro 0 .h true]⟩,
  ⟨0x10080010, [], [fAny 0 32 .ro 0 .h true]⟩,
  ⟨0x10080014, [], [fAny 0 32 .ro 0 .h true]⟩,
  ⟨0x10080018, [], [fIn 0 2 .rw 0 .p true 0 2]⟩,
  ⟨0x1008001C, [], [fAny 16 16 .ro 0 .h true, fAny 0 16 .ro 0 .h true]⟩,
  ⟨0x10080020, [], [fAny 0 32 .wo 0 .h false]⟩,
  ⟨0x10080024, [], [fAny 31 1 .ro 0 .h false, fAny 16 8 .ro 0 .h false, fAny 0 4 .ro 0 .h false]⟩,
  ⟨0x10080028, [], [fAny 0 32 .ro 0 .h false]⟩,
  ⟨0x10080040, [(0x4, 8)], [fAny 0 32 .ro 0 .never true]⟩,
  ⟨0x10080060, [(0x4, 8)], [fAny 0 32 .wo 0 .h false]⟩,
  ⟨0x10080080, [], [fAny 31 1 .w1s 0 .h false, fAny 0 4 .ro 0 .h false]⟩]

/-! ### HOST -/

abbrev Reg.HOST.CTRL.MGMT_EN : FRef := ⟨0x10090000, 16, 1⟩
abbrev Reg.HOST.CTRL.MGMT_PORT : FRef := ⟨0x10090000, 0, 16⟩
abbrev Reg.HOST.ID.I2C_ADDR : FRef := ⟨0x10090004, 8, 7⟩
abbrev Reg.HOST.ID.SPI_RESULT : FRef := ⟨0x10090004, 0, 4⟩
abbrev Reg.HOST.MGMT_IP : FRef := ⟨0x10090008, 0, 32⟩
abbrev Reg.HOST.MGMT_SEQ : FRef := ⟨0x1009000C, 0, 32⟩
abbrev Reg.HOST.ERRORS.SPI_ERRORS : FRef := ⟨0x10090010, 16, 16⟩
abbrev Reg.HOST.ERRORS.AUTH_FAILS : FRef := ⟨0x10090010, 0, 16⟩
abbrev Reg.HOST.SLOT.POST (i : Nat) : FRef := ⟨0x10091000 + 0x400 * i, 31, 1⟩
abbrev Reg.HOST.SLOT.ACK (i : Nat) : FRef := ⟨0x10091000 + 0x400 * i, 30, 1⟩
abbrev Reg.HOST.SLOT.TAKE (i : Nat) : FRef := ⟨0x10091000 + 0x400 * i, 29, 1⟩
abbrev Reg.HOST.SLOT.DONE (i : Nat) : FRef := ⟨0x10091000 + 0x400 * i, 28, 1⟩
abbrev Reg.HOST.SLOT.STATE (i : Nat) : FRef := ⟨0x10091000 + 0x400 * i, 0, 2⟩
abbrev Reg.HOST.SLOT.NONCE (i : Nat) : FRef := ⟨0x10091004 + 0x400 * i, 0, 32⟩
abbrev Reg.HOST.SLOT.REQ (i j : Nat) : FRef := ⟨0x10091100 + 0x400 * i + 0x4 * j, 0, 32⟩
abbrev Reg.HOST.SLOT.RSP (i j : Nat) : FRef := ⟨0x10091200 + 0x400 * i + 0x4 * j, 0, 32⟩

/-- The registers of HOST. -/
def regsHOST : List RegWord := [
  ⟨0x10090000, [], [fAny 16 1 .rw 1 .h false, fAny 0 16 .rw 0x4370 .h false]⟩,
  ⟨0x10090004, [], [fAny 8 7 .ro 0 .never true, fAny 0 4 .ro 0 .h false]⟩,
  ⟨0x10090008, [], [fAny 0 32 .rw 0 .h false]⟩,
  ⟨0x1009000C, [], [fAny 0 32 .ro 0 .h false]⟩,
  ⟨0x10090010, [], [fAny 16 16 .ro 0 .s false, fAny 0 16 .ro 0 .s false]⟩,
  ⟨0x10091000, [(0x400, 2)], [fAny 31 1 .w1s 0 .s false, fAny 30 1 .w1s 0 .s false, fAny 29 1 .w1s 0 .s false, fAny 28 1 .w1s 0 .s false, fAny 0 2 .ro 0 .s false]⟩,
  ⟨0x10091004, [(0x400, 2)], [fAny 0 32 .ro 0 .h false]⟩,
  ⟨0x10091100, [(0x400, 2), (0x4, 64)], [fAny 0 32 .rw 0 .s false]⟩,
  ⟨0x10091200, [(0x400, 2), (0x4, 64)], [fAny 0 32 .rw 0 .s false]⟩]

/-! ### MTX -/

abbrev Reg.MTX.CTRL.FLASH_BANK : FRef := ⟨0x100A0000, 0, 1⟩
abbrev Reg.MTX.DRAIN.DRAINS : FRef := ⟨0x100A0004, 16, 16⟩
abbrev Reg.MTX.DRAIN.LAST_MASTER : FRef := ⟨0x100A0004, 8, 6⟩
abbrev Reg.MTX.DRAIN.LAST_CUT_BEATS : FRef := ⟨0x100A0004, 0, 5⟩
abbrev Reg.MTX.ACTIVE.DRAINING : FRef := ⟨0x100A0008, 0, 6⟩
abbrev Reg.MTX.MASTER.OVR_EN (i : Nat) : FRef := ⟨0x100A0100 + 0x10 * i, 31, 1⟩
abbrev Reg.MTX.MASTER.OVR_QOS (i : Nat) : FRef := ⟨0x100A0100 + 0x10 * i, 24, 4⟩
abbrev Reg.MTX.MASTER.DEFAULT_QOS (i : Nat) : FRef := ⟨0x100A0100 + 0x10 * i, 0, 4⟩
abbrev Reg.MTX.MASTER.RESET_DRAIN (i : Nat) : FRef := ⟨0x100A0104 + 0x10 * i, 31, 1⟩
abbrev Reg.MTX.MASTER.RETIRED (i : Nat) : FRef := ⟨0x100A0104 + 0x10 * i, 16, 7⟩
abbrev Reg.MTX.MASTER.OUTSTANDING (i : Nat) : FRef := ⟨0x100A0104 + 0x10 * i, 0, 7⟩
abbrev Reg.MTX.MASTER.ERRORS (i : Nat) : FRef := ⟨0x100A0108 + 0x10 * i, 0, 32⟩
abbrev Reg.MTX.TARGET.PARKED (i : Nat) : FRef := ⟨0x100A0800 + 0x10 * i, 16, 6⟩
abbrev Reg.MTX.TARGET.BUSY (i : Nat) : FRef := ⟨0x100A0800 + 0x10 * i, 0, 1⟩
abbrev Reg.MTX.TARGET.GRANTS (i : Nat) : FRef := ⟨0x100A0804 + 0x10 * i, 0, 32⟩
abbrev Reg.MTX.TARGET.AGED (i : Nat) : FRef := ⟨0x100A0808 + 0x10 * i, 0, 32⟩

/-- The registers of MTX. -/
def regsMTX : List RegWord := [
  ⟨0x100A0000, [], [fAny 0 1 .rw 0 .s false]⟩,
  ⟨0x100A0004, [], [fAny 16 16 .ro 0 .s false, fAny 8 6 .ro 0 .s false, fAny 0 5 .ro 0 .s false]⟩,
  ⟨0x100A0008, [], [fAny 0 6 .ro 63 .s false]⟩,
  ⟨0x100A0100, [(0x10, 45)], [fAny 31 1 .rw 0 .s false, fAny 24 4 .rw 0 .s false, fAny 0 4 .ro 0 .never true]⟩,
  ⟨0x100A0104, [(0x10, 45)], [fAny 31 1 .ro 0 .s false, fAny 16 7 .ro 0 .s false, fAny 0 7 .ro 0 .s false]⟩,
  ⟨0x100A0108, [(0x10, 45)], [fAny 0 32 .ro 0 .s false]⟩,
  ⟨0x100A0800, [(0x10, 15)], [fAny 16 6 .ro 0 .s false, fAny 0 1 .ro 0 .s false]⟩,
  ⟨0x100A0804, [(0x10, 15)], [fAny 0 32 .ro 0 .s false]⟩,
  ⟨0x100A0808, [(0x10, 15)], [fAny 0 32 .ro 0 .s false]⟩]

/-! ### SEQ -/

abbrev Reg.SEQ.CTRL.BW_CAP_PCT : FRef := ⟨0x100B0000, 8, 8⟩
abbrev Reg.SEQ.STATUS.PRESET_BUSY : FRef := ⟨0x100B0004, 24, 1⟩
abbrev Reg.SEQ.STATUS.AMD_DEPTH : FRef := ⟨0x100B0004, 16, 5⟩
abbrev Reg.SEQ.STATUS.KEY_STATE : FRef := ⟨0x100B0004, 8, 2⟩
abbrev Reg.SEQ.STATUS.VAL_STATE : FRef := ⟨0x100B0004, 4, 2⟩
abbrev Reg.SEQ.STATUS.STAGE_VALID : FRef := ⟨0x100B0004, 2, 1⟩
abbrev Reg.SEQ.STATUS.LIVE_PAGE : FRef := ⟨0x100B0004, 1, 1⟩
abbrev Reg.SEQ.STATUS.LIVE_VALID : FRef := ⟨0x100B0004, 0, 1⟩
abbrev Reg.SEQ.LIVE_GEN.GENERATION : FRef := ⟨0x100B0008, 0, 32⟩
abbrev Reg.SEQ.STAGE_GEN.GENERATION : FRef := ⟨0x100B000C, 0, 32⟩
abbrev Reg.SEQ.VAL_CTRL.START : FRef := ⟨0x100B0010, 0, 1⟩
abbrev Reg.SEQ.VAL_RESULT.ENTRY : FRef := ⟨0x100B0014, 16, 14⟩
abbrev Reg.SEQ.VAL_RESULT.HEAD : FRef := ⟨0x100B0014, 8, 6⟩
abbrev Reg.SEQ.VAL_RESULT.REASON : FRef := ⟨0x100B0014, 0, 4⟩
abbrev Reg.SEQ.KEY_TIME_SEC_HI.SEC_HI : FRef := ⟨0x100B0020, 0, 16⟩
abbrev Reg.SEQ.KEY_TIME_SEC_LO.SEC_LO : FRef := ⟨0x100B0024, 0, 32⟩
abbrev Reg.SEQ.KEY_TIME_NS.NS : FRef := ⟨0x100B0028, 0, 30⟩
abbrev Reg.SEQ.KEY_CTRL.CANCEL : FRef := ⟨0x100B002C, 1, 1⟩
abbrev Reg.SEQ.KEY_CTRL.COMMIT : FRef := ⟨0x100B002C, 0, 1⟩
abbrev Reg.SEQ.KEY_STATUS.HEADS_LEFT : FRef := ⟨0x100B0030, 8, 7⟩
abbrev Reg.SEQ.KEY_STATUS.RESULT : FRef := ⟨0x100B0030, 0, 4⟩
abbrev Reg.SEQ.KEY_SWITCHED_LO.HEADS : FRef := ⟨0x100B0034, 0, 32⟩
abbrev Reg.SEQ.KEY_SWITCHED_HI.HEADS : FRef := ⟨0x100B0038, 0, 32⟩
abbrev Reg.SEQ.AMD_CMD.POST : FRef := ⟨0x100B0040, 31, 1⟩
abbrev Reg.SEQ.AMD_CMD.KIND : FRef := ⟨0x100B0040, 12, 3⟩
abbrev Reg.SEQ.AMD_CMD.WINDOW : FRef := ⟨0x100B0040, 0, 10⟩
abbrev Reg.SEQ.AMD_ARG0.ARG0 : FRef := ⟨0x100B0044, 0, 32⟩
abbrev Reg.SEQ.AMD_ARG1.ARG1 : FRef := ⟨0x100B0048, 0, 32⟩
abbrev Reg.SEQ.AMD_STATUS.NEXT_TICKET : FRef := ⟨0x100B004C, 24, 8⟩
abbrev Reg.SEQ.AMD_STATUS.LAST_RESULT : FRef := ⟨0x100B004C, 8, 4⟩
abbrev Reg.SEQ.AMD_STATUS.LAST_TICKET : FRef := ⟨0x100B004C, 0, 8⟩
abbrev Reg.SEQ.PRESET_CTRL.AUTO_KEY : FRef := ⟨0x100B0050, 9, 1⟩
abbrev Reg.SEQ.PRESET_CTRL.LOAD : FRef := ⟨0x100B0050, 8, 1⟩
abbrev Reg.SEQ.PRESET_CTRL.SELECT : FRef := ⟨0x100B0050, 0, 5⟩
abbrev Reg.SEQ.PRESET_GPIO.DEBOUNCE_MS : FRef := ⟨0x100B0054, 24, 8⟩
abbrev Reg.SEQ.PRESET_GPIO.EDGE : FRef := ⟨0x100B0054, 16, 1⟩
abbrev Reg.SEQ.PRESET_GPIO.STROBE : FRef := ⟨0x100B0054, 12, 4⟩
abbrev Reg.SEQ.PRESET_GPIO.WIDTH : FRef := ⟨0x100B0054, 8, 3⟩
abbrev Reg.SEQ.PRESET_GPIO.FIRST : FRef := ⟨0x100B0054, 4, 4⟩
abbrev Reg.SEQ.PRESET_GPIO.ENABLE : FRef := ⟨0x100B0054, 0, 1⟩
abbrev Reg.SEQ.PRESET_STATUS.PENDING : FRef := ⟨0x100B0058, 16, 1⟩
abbrev Reg.SEQ.PRESET_STATUS.RESULT : FRef := ⟨0x100B0058, 8, 4⟩
abbrev Reg.SEQ.PRESET_STATUS.LAST : FRef := ⟨0x100B0058, 0, 5⟩
abbrev Reg.SEQ.PRESET_TIMING.ALIGN_MS : FRef := ⟨0x100B005C, 16, 16⟩
abbrev Reg.SEQ.PRESET_TIMING.LEAD_MS : FRef := ⟨0x100B005C, 0, 16⟩
abbrev Reg.SEQ.MARK.VALID : FRef := ⟨0x100B0060, 31, 1⟩
abbrev Reg.SEQ.MARK.HEAD : FRef := ⟨0x100B0060, 16, 6⟩
abbrev Reg.SEQ.MARK.MARK : FRef := ⟨0x100B0060, 0, 16⟩

/-- The registers of SEQ, part 1. -/
def regsSEQ0 : List RegWord := [
  ⟨0x100B0000, [], [fIn 8 8 .rw 80 .s false 50 95]⟩,
  ⟨0x100B0004, [], [fAny 24 1 .ro 0 .s false, fAny 16 5 .ro 0 .s false, fAny 8 2 .ro 0 .s false, fAny 4 2 .ro 0 .s false, fAny 2 1 .ro 0 .s false, fAny 1 1 .ro 0 .h true, fAny 0 1 .ro 0 .h true]⟩,
  ⟨0x100B0008, [], [fAny 0 32 .ro 0 .h true]⟩,
  ⟨0x100B000C, [], [fAny 0 32 .ro 0 .s false]⟩,
  ⟨0x100B0010, [], [fAny 0 1 .w1s 0 .s false]⟩,
  ⟨0x100B0014, [], [fAny 16 14 .ro 0 .s false, fAny 8 6 .ro 0 .s false, fAny 0 4 .ro 0 .s false]⟩,
  ⟨0x100B0020, [], [fAny 0 16 .rw 0 .s false]⟩,
  ⟨0x100B0024, [], [fAny 0 32 .rw 0 .s false]⟩,
  ⟨0x100B0028, [], [fIn 0 30 .rw 0 .s false 0 999999999]⟩,
  ⟨0x100B002C, [], [fAny 1 1 .w1s 0 .s false, fAny 0 1 .w1s 0 .s false]⟩,
  ⟨0x100B0030, [], [fAny 8 7 .ro 0 .s false, fAny 0 4 .ro 0 .s false]⟩,
  ⟨0x100B0034, [], [fAny 0 32 .ro 0 .s false]⟩,
  ⟨0x100B0038, [], [fAny 0 32 .ro 0 .s false]⟩,
  ⟨0x100B0040, [], [fAny 31 1 .w1s 0 .s false, fIn 12 3 .rw 0 .s false 0 5, fAny 0 10 .rw 0 .s false]⟩,
  ⟨0x100B0044, [], [fAny 0 32 .rw 0 .s false]⟩,
  ⟨0x100B0048, [], [fAny 0 32 .rw 0 .s false]⟩]

/-- The registers of SEQ, part 2. -/
def regsSEQ1 : List RegWord := [
  ⟨0x100B004C, [], [fAny 24 8 .ro 0 .s false, fAny 8 4 .ro 0 .s false, fAny 0 8 .ro 0 .s false]⟩,
  ⟨0x100B0050, [], [fAny 9 1 .rw 0 .s false, fAny 8 1 .w1s 0 .s false, fAny 0 5 .rw 0 .s false]⟩,
  ⟨0x100B0054, [], [fAny 24 8 .rw 20 .s false, fAny 16 1 .rw 0 .s false, fAny 12 4 .rw 0 .s false, fIn 8 3 .rw 5 .s false 1 5, fAny 4 4 .rw 0 .s false, fAny 0 1 .rw 0 .s false]⟩,
  ⟨0x100B0058, [], [fAny 16 1 .ro 0 .s false, fAny 8 4 .ro 0 .s false, fAny 0 5 .ro 0 .s false]⟩,
  ⟨0x100B005C, [], [fIn 16 16 .rw 100 .s false 1 65535, fAny 0 16 .rw 100 .s false]⟩,
  ⟨0x100B0060, [], [fAny 31 1 .w1c 0 .s false, fAny 16 6 .ro 0 .s false, fAny 0 16 .ro 0 .s false]⟩]

/-- The registers of SEQ. -/
def regsSEQ : List RegWord := regsSEQ0 ++ regsSEQ1

/-! ### FRS -/

abbrev Reg.FRS.CTRL.LABEL_SCALE_M1 : FRef := ⟨0x100C0000, 0, 2⟩
abbrev Reg.FRS.HATCH_FG.R : FRef := ⟨0x100C0004, 20, 10⟩
abbrev Reg.FRS.HATCH_FG.G : FRef := ⟨0x100C0004, 10, 10⟩
abbrev Reg.FRS.HATCH_FG.B : FRef := ⟨0x100C0004, 0, 10⟩
abbrev Reg.FRS.HATCH_BG.R : FRef := ⟨0x100C0008, 20, 10⟩
abbrev Reg.FRS.HATCH_BG.G : FRef := ⟨0x100C0008, 10, 10⟩
abbrev Reg.FRS.HATCH_BG.B : FRef := ⟨0x100C0008, 0, 10⟩
abbrev Reg.FRS.LABEL_FG.R : FRef := ⟨0x100C000C, 20, 10⟩
abbrev Reg.FRS.LABEL_FG.G : FRef := ⟨0x100C000C, 10, 10⟩
abbrev Reg.FRS.LABEL_FG.B : FRef := ⟨0x100C000C, 0, 10⟩
abbrev Reg.FRS.LABEL_BG.R : FRef := ⟨0x100C0010, 20, 10⟩
abbrev Reg.FRS.LABEL_BG.G : FRef := ⟨0x100C0010, 10, 10⟩
abbrev Reg.FRS.LABEL_BG.B : FRef := ⟨0x100C0010, 0, 10⟩
abbrev Reg.FRS.STATUS.PLACARDS : FRef := ⟨0x100C0014, 16, 12⟩
abbrev Reg.FRS.STATUS.TIME_TRUSTED : FRef := ⟨0x100C0014, 0, 1⟩
abbrev Reg.FRS.HEAD.FCRC (i : Nat) : FRef := ⟨0x100C1000 + 0x20 * i, 0, 32⟩
abbrev Reg.FRS.HEAD.FCRC_FRAME (i : Nat) : FRef := ⟨0x100C1004 + 0x20 * i, 0, 32⟩
abbrev Reg.FRS.HEAD.MAX_AGE_MS (i : Nat) : FRef := ⟨0x100C1008 + 0x20 * i, 0, 32⟩
abbrev Reg.FRS.HEAD.TT_EN (i : Nat) : FRef := ⟨0x100C100C + 0x20 * i, 31, 1⟩
abbrev Reg.FRS.HEAD.TT_Y (i : Nat) : FRef := ⟨0x100C100C + 0x20 * i, 16, 13⟩
abbrev Reg.FRS.HEAD.TT_X (i : Nat) : FRef := ⟨0x100C100C + 0x20 * i, 0, 13⟩
abbrev Reg.FRS.HEAD.PLACARD_FRAMES (i : Nat) : FRef := ⟨0x100C1010 + 0x20 * i, 0, 32⟩
abbrev Reg.FRS.HEAD.HIDDEN (i : Nat) : FRef := ⟨0x100C1014 + 0x20 * i, 8, 6⟩
abbrev Reg.FRS.HEAD.PLACARDED (i : Nat) : FRef := ⟨0x100C1014 + 0x20 * i, 0, 6⟩
abbrev Reg.FRS.SLOT.PLACARD (i j : Nat) : FRef := ⟨0x100C2000 + 0x100 * i + 0x8 * j, 31, 1⟩
abbrev Reg.FRS.SLOT.HIDDEN (i j : Nat) : FRef := ⟨0x100C2000 + 0x100 * i + 0x8 * j, 30, 1⟩
abbrev Reg.FRS.SLOT.STYLE (i j : Nat) : FRef := ⟨0x100C2000 + 0x100 * i + 0x8 * j, 29, 1⟩
abbrev Reg.FRS.SLOT.TIME_MARK (i j : Nat) : FRef := ⟨0x100C2000 + 0x100 * i + 0x8 * j, 28, 1⟩
abbrev Reg.FRS.SLOT.REASON (i j : Nat) : FRef := ⟨0x100C2000 + 0x100 * i + 0x8 * j, 24, 4⟩
abbrev Reg.FRS.SLOT.CLEAR_LEFT (i j : Nat) : FRef := ⟨0x100C2000 + 0x100 * i + 0x8 * j, 16, 4⟩
abbrev Reg.FRS.SLOT.FAIL_MASK (i j : Nat) : FRef := ⟨0x100C2000 + 0x100 * i + 0x8 * j, 0, 8⟩
abbrev Reg.FRS.SLOT.AGE_MS (i j : Nat) : FRef := ⟨0x100C2004 + 0x100 * i + 0x8 * j, 0, 32⟩

/-- The registers of FRS. -/
def regsFRS : List RegWord := [
  ⟨0x100C0000, [], [fAny 0 2 .rw 0 .s false]⟩,
  ⟨0x100C0004, [], [fAny 20 10 .rw 1023 .s false, fAny 10 10 .rw 512 .s false, fAny 0 10 .rw 0 .s false]⟩,
  ⟨0x100C0008, [], [fAny 20 10 .rw 0 .s false, fAny 10 10 .rw 0 .s false, fAny 0 10 .rw 0 .s false]⟩,
  ⟨0x100C000C, [], [fAny 20 10 .rw 1023 .s false, fAny 10 10 .rw 1023 .s false, fAny 0 10 .rw 1023 .s false]⟩,
  ⟨0x100C0010, [], [fAny 20 10 .rw 0 .s false, fAny 10 10 .rw 0 .s false, fAny 0 10 .rw 0 .s false]⟩,
  ⟨0x100C0014, [], [fAny 16 12 .ro 0 .s false, fAny 0 1 .ro 0 .s false]⟩,
  ⟨0x100C1000, [(0x20, 64)], [fAny 0 32 .ro 0 .s false]⟩,
  ⟨0x100C1004, [(0x20, 64)], [fAny 0 32 .ro 0 .s false]⟩,
  ⟨0x100C1008, [(0x20, 64)], [fAny 0 32 .ro 0 .s false]⟩,
  ⟨0x100C100C, [(0x20, 64)], [fAny 31 1 .rw 0 .s false, fAny 16 13 .rw 0 .s false, fAny 0 13 .rw 0 .s false]⟩,
  ⟨0x100C1010, [(0x20, 64)], [fAny 0 32 .ro 0 .s false]⟩,
  ⟨0x100C1014, [(0x20, 64)], [fAny 8 6 .ro 0 .s false, fAny 0 6 .ro 0 .s false]⟩,
  ⟨0x100C2000, [(0x100, 64), (0x8, 32)], [fAny 31 1 .ro 0 .s false, fAny 30 1 .ro 0 .s false, fAny 29 1 .ro 0 .s false, fAny 28 1 .ro 0 .s false, fAny 24 4 .ro 0 .s false, fAny 16 4 .ro 0 .s false, fAny 0 8 .ro 0 .s false]⟩,
  ⟨0x100C2004, [(0x100, 64), (0x8, 32)], [fAny 0 32 .ro 0 .s false]⟩]

/-! ### TCH -/

abbrev Reg.TCH.CTRL.SELFTEST : FRef := ⟨0x100D0000, 31, 1⟩
abbrev Reg.TCH.CTRL.STANDBY_SCAN : FRef := ⟨0x100D0000, 9, 1⟩
abbrev Reg.TCH.CTRL.FRAME_EVT : FRef := ⟨0x100D0000, 8, 1⟩
abbrev Reg.TCH.CTRL.ENABLE : FRef := ⟨0x100D0000, 0, 1⟩
abbrev Reg.TCH.STATUS.ENABLE_RESULT : FRef := ⟨0x100D0004, 28, 4⟩
abbrev Reg.TCH.STATUS.ST_STATE : FRef := ⟨0x100D0004, 24, 4⟩
abbrev Reg.TCH.STATUS.STATE : FRef := ⟨0x100D0004, 0, 3⟩
abbrev Reg.TCH.TX_FREQ_KHZ : FRef := ⟨0x100D0008, 16, 9⟩
abbrev Reg.TCH.PULSES : FRef := ⟨0x100D0008, 0, 6⟩
abbrev Reg.TCH.ANTI_THRESHOLD : FRef := ⟨0x100D000C, 16, 16⟩
abbrev Reg.TCH.TOUCH_THRESHOLD : FRef := ⟨0x100D000C, 0, 16⟩
abbrev Reg.TCH.OBJECT_TIMEOUT_S : FRef := ⟨0x100D0010, 16, 16⟩
abbrev Reg.TCH.ANTI_CONFIRM_MS : FRef := ⟨0x100D0010, 0, 16⟩
abbrev Reg.TCH.BASE_FRAMES : FRef := ⟨0x100D0014, 24, 8⟩
abbrev Reg.TCH.MIN_AREA : FRef := ⟨0x100D0014, 16, 8⟩
abbrev Reg.TCH.MOVE_THRESHOLD : FRef := ⟨0x100D0014, 8, 8⟩
abbrev Reg.TCH.TRACK_RADIUS : FRef := ⟨0x100D0014, 0, 8⟩
abbrev Reg.TCH.WAKE_THRESHOLD : FRef := ⟨0x100D0018, 16, 16⟩
abbrev Reg.TCH.FOREIGN_THR : FRef := ⟨0x100D0018, 8, 8⟩
abbrev Reg.TCH.DRIFT_FRAMES : FRef := ⟨0x100D0018, 0, 8⟩
abbrev Reg.TCH.RPT_LOG2 : FRef := ⟨0x100D0020, 28, 4⟩
abbrev Reg.TCH.RPT_ADDR : FRef := ⟨0x100D0020, 0, 24⟩
abbrev Reg.TCH.RPT_WR : FRef := ⟨0x100D0024, 0, 10⟩
abbrev Reg.TCH.RPT_RD : FRef := ⟨0x100D0028, 0, 10⟩
abbrev Reg.TCH.CUR_LOG2 : FRef := ⟨0x100D0030, 28, 4⟩
abbrev Reg.TCH.CUR_ADDR : FRef := ⟨0x100D0030, 12, 11⟩
abbrev Reg.TCH.CUR_WR : FRef := ⟨0x100D0034, 0, 8⟩
abbrev Reg.TCH.CUR_RD : FRef := ⟨0x100D0038, 0, 8⟩
abbrev Reg.TCH.ST_MAP (i : Nat) : FRef := ⟨0x100D0080 + 0x4 * i, 0, 32⟩
abbrev Reg.TCH.PANEL.ENABLE (i : Nat) : FRef := ⟨0x100D0200 + 0x80 * i, 31, 1⟩
abbrev Reg.TCH.PANEL.WAKE_EN (i : Nat) : FRef := ⟨0x100D0200 + 0x80 * i, 30, 1⟩
abbrev Reg.TCH.PANEL.FRAME_HZ (i : Nat) : FRef := ⟨0x100D0200 + 0x80 * i, 16, 9⟩
abbrev Reg.TCH.PANEL.HEAD (i : Nat) : FRef := ⟨0x100D0200 + 0x80 * i, 8, 6⟩
abbrev Reg.TCH.PANEL.RX_COUNT (i : Nat) : FRef := ⟨0x100D0204 + 0x80 * i, 24, 8⟩
abbrev Reg.TCH.PANEL.RX_FIRST (i : Nat) : FRef := ⟨0x100D0204 + 0x80 * i, 16, 8⟩
abbrev Reg.TCH.PANEL.TX_COUNT (i : Nat) : FRef := ⟨0x100D0204 + 0x80 * i, 8, 7⟩
abbrev Reg.TCH.PANEL.TX_FIRST (i : Nat) : FRef := ⟨0x100D0204 + 0x80 * i, 0, 7⟩
abbrev Reg.TCH.PANEL.CXX (i : Nat) : FRef := ⟨0x100D0208 + 0x80 * i, 0, 32⟩
abbrev Reg.TCH.PANEL.CXY (i : Nat) : FRef := ⟨0x100D020C + 0x80 * i, 0, 32⟩
abbrev Reg.TCH.PANEL.CX0 (i : Nat) : FRef := ⟨0x100D0210 + 0x80 * i, 0, 32⟩
abbrev Reg.TCH.PANEL.CYX (i : Nat) : FRef := ⟨0x100D0214 + 0x80 * i, 0, 32⟩
abbrev Reg.TCH.PANEL.CYY (i : Nat) : FRef := ⟨0x100D0218 + 0x80 * i, 0, 32⟩
abbrev Reg.TCH.PANEL.CY0 (i : Nat) : FRef := ⟨0x100D021C + 0x80 * i, 0, 32⟩
abbrev Reg.TCH.PANEL.FRAMES (i : Nat) : FRef := ⟨0x100D0220 + 0x80 * i, 0, 32⟩
abbrev Reg.TCH.PANEL.FOREIGN_DROP (i : Nat) : FRef := ⟨0x100D0224 + 0x80 * i, 16, 16⟩
abbrev Reg.TCH.PANEL.OVERFLOW (i : Nat) : FRef := ⟨0x100D0224 + 0x80 * i, 0, 16⟩
abbrev Reg.TCH.PANEL.RPT_DROP (i : Nat) : FRef := ⟨0x100D0228 + 0x80 * i, 16, 16⟩
abbrev Reg.TCH.PANEL.ANTI_EVENTS (i : Nat) : FRef := ⟨0x100D0228 + 0x80 * i, 0, 16⟩
abbrev Reg.TCH.PANEL.OBJECTS (i : Nat) : FRef := ⟨0x100D022C + 0x80 * i, 8, 6⟩
abbrev Reg.TCH.PANEL.CONTACTS (i : Nat) : FRef := ⟨0x100D022C + 0x80 * i, 0, 6⟩

/-- The registers of TCH, part 1. -/
def regsTCH0 : List RegWord := [
  ⟨0x100D0000, [], [fAny 31 1 .w1s 0 .s false, fAny 9 1 .rw 0 .s true, fAny 8 1 .rw 0 .s false, fAny 0 1 .rw 0 .s false]⟩,
  ⟨0x100D0004, [], [fAny 28 4 .ro 0 .s false, fAny 24 4 .ro 0 .s false, fAny 0 3 .ro 0 .s false]⟩,
  ⟨0x100D0008, [], [fAny 16 9 .rwk 400 .s true, fAny 0 6 .rwk 8 .s true]⟩,
  ⟨0x100D000C, [], [fIn 16 16 .rw 80 .s false 1 65535, fIn 0 16 .rw 120 .s false 1 65535]⟩,
  ⟨0x100D0010, [], [fAny 16 16 .rw 0 .s false, fIn 0 16 .rw 500 .s false 1 65535]⟩,
  ⟨0x100D0014, [], [fIn 24 8 .rw 8 .s false 1 64, fIn 16 8 .rw 2 .s false 1 255, fIn 8 8 .rw 16 .s false 1 255, fIn 0 8 .rw 4 .s false 1 255]⟩,
  ⟨0x100D0018, [], [fIn 16 16 .rw 200 .s true 1 65535, fIn 8 8 .rw 64 .s false 1 255, fIn 0 8 .rw 16 .s false 1 255]⟩,
  ⟨0x100D0020, [], [fIn 28 4 .rwk 6 .s false 4 10, fAny 0 24 .rwk 0 .s false]⟩,
  ⟨0x100D0024, [], [fAny 0 10 .ro 0 .s false]⟩,
  ⟨0x100D0028, [], [fAny 0 10 .rw 0 .s false]⟩,
  ⟨0x100D0030, [], [fIn 28 4 .rwk 4 .s false 4 8, fAny 12 11 .rwk 0 .s false]⟩,
  ⟨0x100D0034, [], [fAny 0 8 .ro 0 .s false]⟩,
  ⟨0x100D0038, [], [fAny 0 8 .rw 0 .s false]⟩,
  ⟨0x100D0080, [(0x4, 30)], [fAny 0 32 .ro 0xFFFFFFFF .s false]⟩,
  ⟨0x100D0200, [(0x80, 2)], [fAny 31 1 .rwk 0 .s true, fAny 30 1 .rw 0 .s true, fAny 16 9 .rwk 240 .s false, fAny 8 6 .rw 0 .s false]⟩,
  ⟨0x100D0204, [(0x80, 2)], [fAny 24 8 .rwk 0 .s true, fAny 16 8 .rwk 0 .s true, fAny 8 7 .rwk 0 .s true, fAny 0 7 .rwk 0 .s true]⟩]

/-- The registers of TCH, part 2. -/
def regsTCH1 : List RegWord := [
  ⟨0x100D0208, [(0x80, 2)], [fAny 0 32 .rw 0 .s false]⟩,
  ⟨0x100D020C, [(0x80, 2)], [fAny 0 32 .rw 0 .s false]⟩,
  ⟨0x100D0210, [(0x80, 2)], [fAny 0 32 .rw 0 .s false]⟩,
  ⟨0x100D0214, [(0x80, 2)], [fAny 0 32 .rw 0 .s false]⟩,
  ⟨0x100D0218, [(0x80, 2)], [fAny 0 32 .rw 0 .s false]⟩,
  ⟨0x100D021C, [(0x80, 2)], [fAny 0 32 .rw 0 .s false]⟩,
  ⟨0x100D0220, [(0x80, 2)], [fAny 0 32 .ro 0 .s false]⟩,
  ⟨0x100D0224, [(0x80, 2)], [fAny 16 16 .ro 0 .s false, fAny 0 16 .ro 0 .s false]⟩,
  ⟨0x100D0228, [(0x80, 2)], [fAny 16 16 .ro 0 .s false, fAny 0 16 .ro 0 .s false]⟩,
  ⟨0x100D022C, [(0x80, 2)], [fAny 8 6 .ro 0 .s false, fAny 0 6 .ro 0 .s false]⟩]

/-- The registers of TCH. -/
def regsTCH : List RegWord := regsTCH0 ++ regsTCH1

/-! ### ING -/

abbrev Reg.ING.CTRL.TAI_UTC : FRef := ⟨0x10100000, 24, 8⟩
abbrev Reg.ING.CTRL.LOSS_ROWS : FRef := ⟨0x10100000, 16, 8⟩
abbrev Reg.ING.CTRL.LOST_MS : FRef := ⟨0x10100000, 0, 16⟩
abbrev Reg.ING.CTRL2.FUTURE_TOL_MS : FRef := ⟨0x10100004, 8, 8⟩
abbrev Reg.ING.CTRL2.SR_TIMEOUT_S : FRef := ⟨0x10100004, 0, 8⟩
abbrev Reg.ING.STATUS.ACTIVE : FRef := ⟨0x10100008, 16, 9⟩
abbrev Reg.ING.BIND_RESULT.INDEX : FRef := ⟨0x1010000C, 16, 9⟩
abbrev Reg.ING.BIND_RESULT.RESULT : FRef := ⟨0x1010000C, 0, 4⟩
abbrev Reg.ING.HOST_READY.BUF_ID : FRef := ⟨0x10100010, 0, 12⟩
abbrev Reg.ING.SE.STATUS.LOAD_PCT (i : Nat) : FRef := ⟨0x10100100 + 0x4 * i, 16, 8⟩
abbrev Reg.ING.SE.STATUS.STREAMS (i : Nat) : FRef := ⟨0x10100100 + 0x4 * i, 0, 6⟩
abbrev Reg.ING.SRC.PATH_B_UP (i : Nat) : FRef := ⟨0x10120000 + 0x100 * i, 28, 1⟩
abbrev Reg.ING.SRC.PATH_A_UP (i : Nat) : FRef := ⟨0x10120000 + 0x100 * i, 27, 1⟩
abbrev Reg.ING.SRC.STATE (i : Nat) : FRef := ⟨0x10120000 + 0x100 * i, 24, 3⟩
abbrev Reg.ING.SRC.PATH_WINDOW_MS (i : Nat) : FRef := ⟨0x10120000 + 0x100 * i, 16, 6⟩
abbrev Reg.ING.SRC.RING_LEN_M1 (i : Nat) : FRef := ⟨0x10120000 + 0x100 * i, 12, 4⟩
abbrev Reg.ING.SRC.FORCE_ARRIVAL (i : Nat) : FRef := ⟨0x10120000 + 0x100 * i, 11, 1⟩
abbrev Reg.ING.SRC.SSRC_CHECK (i : Nat) : FRef := ⟨0x10120000 + 0x100 * i, 10, 1⟩
abbrev Reg.ING.SRC.INTERLACED (i : Nat) : FRef := ⟨0x10120000 + 0x100 * i, 9, 1⟩
abbrev Reg.ING.SRC.DUAL (i : Nat) : FRef := ⟨0x10120000 + 0x100 * i, 8, 1⟩
abbrev Reg.ING.SRC.SE (i : Nat) : FRef := ⟨0x10120000 + 0x100 * i, 4, 4⟩
abbrev Reg.ING.SRC.TYPE (i : Nat) : FRef := ⟨0x10120000 + 0x100 * i, 1, 3⟩
abbrev Reg.ING.SRC.ENABLE (i : Nat) : FRef := ⟨0x10120000 + 0x100 * i, 0, 1⟩
abbrev Reg.ING.SRC.DEPTH (i : Nat) : FRef := ⟨0x10120004 + 0x100 * i, 27, 1⟩
abbrev Reg.ING.SRC.SAMPLING (i : Nat) : FRef := ⟨0x10120004 + 0x100 * i, 26, 1⟩
abbrev Reg.ING.SRC.HEIGHT_M1 (i : Nat) : FRef := ⟨0x10120004 + 0x100 * i, 13, 13⟩
abbrev Reg.ING.SRC.WIDTH_M1 (i : Nat) : FRef := ⟨0x10120004 + 0x100 * i, 0, 13⟩
abbrev Reg.ING.SRC.TS_RTP (i : Nat) : FRef := ⟨0x10120008 + 0x100 * i, 30, 1⟩
abbrev Reg.ING.SRC.PID_AUTO (i : Nat) : FRef := ⟨0x10120008 + 0x100 * i, 29, 1⟩
abbrev Reg.ING.SRC.PID (i : Nat) : FRef := ⟨0x10120008 + 0x100 * i, 16, 13⟩
abbrev Reg.ING.SRC.PT_ANY (i : Nat) : FRef := ⟨0x10120008 + 0x100 * i, 15, 1⟩
abbrev Reg.ING.SRC.PT (i : Nat) : FRef := ⟨0x10120008 + 0x100 * i, 8, 7⟩
abbrev Reg.ING.SRC.PORT_B (i : Nat) : FRef := ⟨0x10120008 + 0x100 * i, 4, 4⟩
abbrev Reg.ING.SRC.PORT_A (i : Nat) : FRef := ⟨0x10120008 + 0x100 * i, 0, 4⟩
abbrev Reg.ING.SRC.DST_IP_A (i : Nat) : FRef := ⟨0x1012000C + 0x100 * i, 0, 32⟩
abbrev Reg.ING.SRC.DST_IP_B (i : Nat) : FRef := ⟨0x10120010 + 0x100 * i, 0, 32⟩
abbrev Reg.ING.SRC.UDP_PORT_B (i : Nat) : FRef := ⟨0x10120014 + 0x100 * i, 16, 16⟩
abbrev Reg.ING.SRC.UDP_PORT_A (i : Nat) : FRef := ⟨0x10120014 + 0x100 * i, 0, 16⟩
abbrev Reg.ING.SRC.SRC_IP_A (i : Nat) : FRef := ⟨0x10120018 + 0x100 * i, 0, 32⟩
abbrev Reg.ING.SRC.SRC_IP_B (i : Nat) : FRef := ⟨0x1012001C + 0x100 * i, 0, 32⟩
abbrev Reg.ING.SRC.SSRC (i : Nat) : FRef := ⟨0x10120020 + 0x100 * i, 0, 32⟩
abbrev Reg.ING.SRC.MEDIA_OFFSET (i : Nat) : FRef := ⟨0x10120024 + 0x100 * i, 0, 32⟩
abbrev Reg.ING.SRC.SR_RTP (i : Nat) : FRef := ⟨0x10120028 + 0x100 * i, 0, 32⟩
abbrev Reg.ING.SRC.SR_NS (i : Nat) : FRef := ⟨0x1012002C + 0x100 * i, 0, 30⟩
abbrev Reg.ING.SRC.SR_SEC_LO (i : Nat) : FRef := ⟨0x10120030 + 0x100 * i, 0, 32⟩
abbrev Reg.ING.SRC.SR_VALID (i : Nat) : FRef := ⟨0x10120034 + 0x100 * i, 31, 1⟩
abbrev Reg.ING.SRC.SR_SEC_HI (i : Nat) : FRef := ⟨0x10120034 + 0x100 * i, 0, 16⟩
abbrev Reg.ING.SRC.BS_BASE (i : Nat) : FRef := ⟨0x10120038 + 0x100 * i, 0, 28⟩
abbrev Reg.ING.SRC.HIST_BASE (i : Nat) : FRef := ⟨0x1012003C + 0x100 * i, 16, 16⟩
abbrev Reg.ING.SRC.BS_SIZE_KB (i : Nat) : FRef := ⟨0x1012003C + 0x100 * i, 0, 16⟩
abbrev Reg.ING.SRC.BUF_HI (i j : Nat) : FRef := ⟨0x10120040 + 0x100 * i + 0x4 * j, 16, 12⟩
abbrev Reg.ING.SRC.BUF_LO (i j : Nat) : FRef := ⟨0x10120040 + 0x100 * i + 0x4 * j, 0, 12⟩
abbrev Reg.ING.SRC.PKTS (i : Nat) : FRef := ⟨0x10120060 + 0x100 * i, 0, 32⟩
abbrev Reg.ING.SRC.LOST (i : Nat) : FRef := ⟨0x10120064 + 0x100 * i, 0, 32⟩
abbrev Reg.ING.SRC.LATE (i : Nat) : FRef := ⟨0x10120068 + 0x100 * i, 0, 32⟩
abbrev Reg.ING.SRC.BAD (i : Nat) : FRef := ⟨0x1012006C + 0x100 * i, 0, 32⟩
abbrev Reg.ING.SRC.FRAMES (i : Nat) : FRef := ⟨0x10120070 + 0x100 * i, 0, 32⟩
abbrev Reg.ING.SRC.INCOMPLETE (i : Nat) : FRef := ⟨0x10120074 + 0x100 * i, 0, 32⟩
abbrev Reg.ING.SRC.RING_DROP (i : Nat) : FRef := ⟨0x10120078 + 0x100 * i, 16, 16⟩
abbrev Reg.ING.SRC.DIVERGENT (i : Nat) : FRef := ⟨0x10120078 + 0x100 * i, 0, 16⟩
abbrev Reg.ING.SRC.DISCARDED (i : Nat) : FRef := ⟨0x1012007C + 0x100 * i, 0, 32⟩
abbrev Reg.ING.SRC.BS_WR (i : Nat) : FRef := ⟨0x10120080 + 0x100 * i, 0, 32⟩
abbrev Reg.ING.SRC.BS_RD (i : Nat) : FRef := ⟨0x10120084 + 0x100 * i, 0, 32⟩
abbrev Reg.ING.SRC.PARAM_ADDR (i : Nat) : FRef := ⟨0x10120088 + 0x100 * i, 0, 32⟩
abbrev Reg.ING.SRC.PARAM_LEN (i : Nat) : FRef := ⟨0x1012008C + 0x100 * i, 0, 12⟩
abbrev Reg.ING.SRC.SEQUENCE (i : Nat) : FRef := ⟨0x10120090 + 0x100 * i, 0, 32⟩
abbrev Reg.ING.BUF.FORMAT (i : Nat) : FRef := ⟨0x10140000 + 0x20 * i, 28, 4⟩
abbrev Reg.ING.BUF.ADDR (i : Nat) : FRef := ⟨0x10140000 + 0x20 * i, 0, 28⟩
abbrev Reg.ING.BUF.FIELD (i : Nat) : FRef := ⟨0x10140004 + 0x20 * i, 26, 1⟩
abbrev Reg.ING.BUF.HEIGHT_M1 (i : Nat) : FRef := ⟨0x10140004 + 0x20 * i, 13, 13⟩
abbrev Reg.ING.BUF.WIDTH_M1 (i : Nat) : FRef := ⟨0x10140004 + 0x20 * i, 0, 13⟩
abbrev Reg.ING.BUF.REDUCED (i : Nat) : FRef := ⟨0x10140008 + 0x20 * i, 16, 3⟩
abbrev Reg.ING.BUF.PITCH_64 (i : Nat) : FRef := ⟨0x10140008 + 0x20 * i, 0, 16⟩
abbrev Reg.ING.BUF.LEASES (i : Nat) : FRef := ⟨0x1014000C + 0x20 * i, 25, 7⟩
abbrev Reg.ING.BUF.ROW_MARK (i : Nat) : FRef := ⟨0x1014000C + 0x20 * i, 12, 13⟩
abbrev Reg.ING.BUF.STATE (i : Nat) : FRef := ⟨0x1014000C + 0x20 * i, 10, 2⟩
abbrev Reg.ING.BUF.SOURCE (i : Nat) : FRef := ⟨0x1014000C + 0x20 * i, 0, 9⟩
abbrev Reg.ING.BUF.ARRIVAL_LO (i : Nat) : FRef := ⟨0x10140010 + 0x20 * i, 0, 32⟩
abbrev Reg.ING.BUF.ARRIVAL_HI (i : Nat) : FRef := ⟨0x10140014 + 0x20 * i, 0, 32⟩

/-- The registers of ING, part 1. -/
def regsING0 : List RegWord := [
  ⟨0x10100000, [], [fAny 24 8 .rw 37 .s false, fIn 16 8 .rw 8 .s false 1 64, fIn 0 16 .rw 100 .s false 10 10000]⟩,
  ⟨0x10100004, [], [fAny 8 8 .rw 5 .s false, fIn 0 8 .rw 15 .s false 1 255]⟩,
  ⟨0x10100008, [], [fAny 16 9 .ro 0 .s false]⟩,
  ⟨0x1010000C, [], [fAny 16 9 .ro 0 .s false, fAny 0 4 .ro 0 .s false]⟩,
  ⟨0x10100010, [], [fAny 0 12 .wo 0 .s false]⟩,
  ⟨0x10100100, [(0x4, 16)], [fAny 16 8 .ro 0 .s false, fAny 0 6 .ro 0 .s false]⟩,
  ⟨0x10120000, [(0x100, 512)], [fAny 28 1 .ro 0 .s false, fAny 27 1 .ro 0 .s false, fAny 24 3 .ro 0 .s false, fIn 16 6 .rwk 10 .s false 1 40, fAny 12 4 .rwk 0 .s false, fAny 11 1 .rwk 0 .s false, fAny 10 1 .rwk 0 .s false, fAny 9 1 .rwk 0 .s false, fAny 8 1 .rwk 0 .s false, fAny 4 4 .rwk 0 .s false, fAny 1 3 .rwk 0 .s false, fAny 0 1 .rw 0 .s false]⟩,
  ⟨0x10120004, [(0x100, 512)], [fAny 27 1 .rwk 0 .s false, fAny 26 1 .rwk 0 .s false, fAny 13 13 .rwk 0 .s false, fAny 0 13 .rwk 0 .s false]⟩,
  ⟨0x10120008, [(0x100, 512)], [fAny 30 1 .rwk 0 .s false, fAny 29 1 .rwk 0 .s false, fAny 16 13 .rwk 0 .s false, fAny 15 1 .rwk 0 .s false, fAny 8 7 .rwk 0 .s false, fAny 4 4 .rwk 0 .s false, fAny 0 4 .rwk 0 .s false]⟩,
  ⟨0x1012000C, [(0x100, 512)], [fAny 0 32 .rwk 0 .s false]⟩,
  ⟨0x10120010, [(0x100, 512)], [fAny 0 32 .rwk 0 .s false]⟩,
  ⟨0x10120014, [(0x100, 512)], [fAny 16 16 .rwk 0 .s false, fAny 0 16 .rwk 0 .s false]⟩,
  ⟨0x10120018, [(0x100, 512)], [fAny 0 32 .rwk 0 .s false]⟩,
  ⟨0x1012001C, [(0x100, 512)], [fAny 0 32 .rwk 0 .s false]⟩,
  ⟨0x10120020, [(0x100, 512)], [fAny 0 32 .rwk 0 .s false]⟩,
  ⟨0x10120024, [(0x100, 512)], [fAny 0 32 .rwk 0 .s false]⟩]

/-- The registers of ING, part 2. -/
def regsING1 : List RegWord := [
  ⟨0x10120028, [(0x100, 512)], [fAny 0 32 .ro 0 .s false]⟩,
  ⟨0x1012002C, [(0x100, 512)], [fAny 0 30 .ro 0 .s false]⟩,
  ⟨0x10120030, [(0x100, 512)], [fAny 0 32 .ro 0 .s false]⟩,
  ⟨0x10120034, [(0x100, 512)], [fAny 31 1 .ro 0 .s false, fAny 0 16 .ro 0 .s false]⟩,
  ⟨0x10120038, [(0x100, 512)], [fAny 0 28 .rwk 0 .s false]⟩,
  ⟨0x1012003C, [(0x100, 512)], [fAny 16 16 .rwk 0 .s false, fAny 0 16 .rwk 0 .s false]⟩,
  ⟨0x10120040, [(0x100, 512), (0x4, 8)], [fAny 16 12 .rwk 0 .s false, fAny 0 12 .rwk 0 .s false]⟩,
  ⟨0x10120060, [(0x100, 512)], [fAny 0 32 .ro 0 .s false]⟩,
  ⟨0x10120064, [(0x100, 512)], [fAny 0 32 .ro 0 .s false]⟩,
  ⟨0x10120068, [(0x100, 512)], [fAny 0 32 .ro 0 .s false]⟩,
  ⟨0x1012006C, [(0x100, 512)], [fAny 0 32 .ro 0 .s false]⟩,
  ⟨0x10120070, [(0x100, 512)], [fAny 0 32 .ro 0 .s false]⟩,
  ⟨0x10120074, [(0x100, 512)], [fAny 0 32 .ro 0 .s false]⟩,
  ⟨0x10120078, [(0x100, 512)], [fAny 16 16 .ro 0 .s false, fAny 0 16 .ro 0 .s false]⟩,
  ⟨0x1012007C, [(0x100, 512)], [fAny 0 32 .ro 0 .s false]⟩,
  ⟨0x10120080, [(0x100, 512)], [fAny 0 32 .ro 0 .s false]⟩]

/-- The registers of ING, part 3. -/
def regsING2 : List RegWord := [
  ⟨0x10120084, [(0x100, 512)], [fAny 0 32 .ro 0 .s false]⟩,
  ⟨0x10120088, [(0x100, 512)], [fAny 0 32 .rwk 0 .s false]⟩,
  ⟨0x1012008C, [(0x100, 512)], [fAny 0 12 .rwk 0 .s false]⟩,
  ⟨0x10120090, [(0x100, 512)], [fAny 0 32 .ro 0 .h false]⟩,
  ⟨0x10140000, [(0x20, 4096)], [fIn 28 4 .rwk 0 .s false 0 7, fAny 0 28 .rwk 0 .s false]⟩,
  ⟨0x10140004, [(0x20, 4096)], [fAny 26 1 .ro 0 .s false, fAny 13 13 .rwk 0 .s false, fAny 0 13 .rwk 0 .s false]⟩,
  ⟨0x10140008, [(0x20, 4096)], [fAny 16 3 .rwk 0 .s false, fAny 0 16 .rwk 0 .s false]⟩,
  ⟨0x1014000C, [(0x20, 4096)], [fAny 25 7 .ro 0 .s false, fAny 12 13 .ro 0 .s false, fAny 10 2 .ro 0 .s false, fAny 0 9 .ro 0 .s false]⟩,
  ⟨0x10140010, [(0x20, 4096)], [fAny 0 32 .ro 0 .s false]⟩,
  ⟨0x10140014, [(0x20, 4096)], [fAny 0 32 .ro 0 .s false]⟩]

/-- The registers of ING. -/
def regsING : List RegWord := regsING0 ++ regsING1 ++ regsING2

/-! ### DEC -/

abbrev Reg.DEC.CTRL.ENABLE (i : Nat) : FRef := ⟨0x10200000 + 0x10000 * i, 0, 1⟩
abbrev Reg.DEC.STATUS.SRC (i : Nat) : FRef := ⟨0x10200004 + 0x10000 * i, 16, 9⟩
abbrev Reg.DEC.STATUS.CLASS (i : Nat) : FRef := ⟨0x10200004 + 0x10000 * i, 4, 2⟩
abbrev Reg.DEC.STATUS.STATE (i : Nat) : FRef := ⟨0x10200004 + 0x10000 * i, 0, 3⟩
abbrev Reg.DEC.SUSPENDED.VALID (i : Nat) : FRef := ⟨0x10200008 + 0x10000 * i, 31, 1⟩
abbrev Reg.DEC.SUSPENDED.CLASS (i : Nat) : FRef := ⟨0x10200008 + 0x10000 * i, 12, 2⟩
abbrev Reg.DEC.SUSPENDED.SRC (i : Nat) : FRef := ⟨0x10200008 + 0x10000 * i, 0, 9⟩
abbrev Reg.DEC.SAVE_BASE.ADDR (i : Nat) : FRef := ⟨0x1020000C + 0x10000 * i, 0, 24⟩
abbrev Reg.DEC.WD_LIMIT.CYCLES (i : Nat) : FRef := ⟨0x10200010 + 0x10000 * i, 0, 32⟩
abbrev Reg.DEC.WD_COUNT.CYCLES (i : Nat) : FRef := ⟨0x10200014 + 0x10000 * i, 0, 32⟩
abbrev Reg.DEC.JOBS.COUNT (i : Nat) : FRef := ⟨0x10200018 + 0x10000 * i, 0, 32⟩
abbrev Reg.DEC.ABORTS.COUNT (i : Nat) : FRef := ⟨0x1020001C + 0x10000 * i, 0, 32⟩
abbrev Reg.DEC.PREEMPTS.COUNT (i : Nat) : FRef := ⟨0x10200020 + 0x10000 * i, 0, 32⟩
abbrev Reg.DEC.BUSY.PCT (i : Nat) : FRef := ⟨0x10200024 + 0x10000 * i, 0, 8⟩
abbrev Reg.DEC.SCHED_READY.NEAR_LIVE : FRef := ⟨0x10208000, 16, 9⟩
abbrev Reg.DEC.SCHED_READY.LIVE : FRef := ⟨0x10208000, 0, 9⟩
abbrev Reg.DEC.SCHED_READY2.SUSPENDED : FRef := ⟨0x10208004, 16, 4⟩
abbrev Reg.DEC.SCHED_READY2.BACKGROUND : FRef := ⟨0x10208004, 0, 9⟩
abbrev Reg.DEC.LOAD.PEAK_CLR : FRef := ⟨0x10208008, 31, 1⟩
abbrev Reg.DEC.LOAD.PEAK_MPIX : FRef := ⟨0x10208008, 16, 13⟩
abbrev Reg.DEC.LOAD.LOAD_MPIX : FRef := ⟨0x10208008, 0, 13⟩
abbrev Reg.DEC.FAULT_STATUS.OVF : FRef := ⟨0x10208010, 31, 1⟩
abbrev Reg.DEC.FAULT_STATUS.COUNT : FRef := ⟨0x10208010, 0, 5⟩
abbrev Reg.DEC.FAULT_INFO.VALID : FRef := ⟨0x10208014, 31, 1⟩
abbrev Reg.DEC.FAULT_INFO.SRC : FRef := ⟨0x10208014, 16, 9⟩
abbrev Reg.DEC.FAULT_INFO.PIPE : FRef := ⟨0x10208014, 8, 4⟩
abbrev Reg.DEC.FAULT_INFO.CAUSE : FRef := ⟨0x10208014, 0, 8⟩
abbrev Reg.DEC.FAULT_ADDR_LO.ADDR : FRef := ⟨0x10208018, 0, 32⟩
abbrev Reg.DEC.FAULT_ADDR_HI.ADDR : FRef := ⟨0x1020801C, 0, 4⟩
abbrev Reg.DEC.FAULT_SEQ.SEQUENCE : FRef := ⟨0x10208020, 0, 32⟩
abbrev Reg.DEC.CTX.LAG_MS (i : Nat) : FRef := ⟨0x1020C000 + 0x20 * i, 16, 16⟩
abbrev Reg.DEC.CTX.DEPTH10 (i : Nat) : FRef := ⟨0x1020C000 + 0x20 * i, 13, 1⟩
abbrev Reg.DEC.CTX.CODEC (i : Nat) : FRef := ⟨0x1020C000 + 0x20 * i, 12, 1⟩
abbrev Reg.DEC.CTX.STATE (i : Nat) : FRef := ⟨0x1020C000 + 0x20 * i, 8, 3⟩
abbrev Reg.DEC.CTX.REDUCED_FORCE (i : Nat) : FRef := ⟨0x1020C000 + 0x20 * i, 4, 3⟩
abbrev Reg.DEC.CTX.SKIP_NONREF (i : Nat) : FRef := ⟨0x1020C000 + 0x20 * i, 2, 1⟩
abbrev Reg.DEC.CTX.CLASS (i : Nat) : FRef := ⟨0x1020C000 + 0x20 * i, 0, 2⟩
abbrev Reg.DEC.CTX.DPB_BASE (i : Nat) : FRef := ⟨0x1020C004 + 0x20 * i, 0, 24⟩
abbrev Reg.DEC.CTX.DPB_MB (i : Nat) : FRef := ⟨0x1020C008 + 0x20 * i, 0, 16⟩
abbrev Reg.DEC.CTX.PICTURES (i : Nat) : FRef := ⟨0x1020C00C + 0x20 * i, 0, 32⟩
abbrev Reg.DEC.CTX.CONCEALED (i : Nat) : FRef := ⟨0x1020C010 + 0x20 * i, 0, 32⟩
abbrev Reg.DEC.CTX.OUT_DROP (i : Nat) : FRef := ⟨0x1020C014 + 0x20 * i, 16, 16⟩
abbrev Reg.DEC.CTX.SKIPPED (i : Nat) : FRef := ⟨0x1020C014 + 0x20 * i, 0, 16⟩
abbrev Reg.DEC.CTX.ABORTS (i : Nat) : FRef := ⟨0x1020C018 + 0x20 * i, 16, 16⟩
abbrev Reg.DEC.CTX.UNSUPPORTED (i : Nat) : FRef := ⟨0x1020C018 + 0x20 * i, 0, 16⟩
abbrev Reg.DEC.CTX.LAST_UNSUP (i : Nat) : FRef := ⟨0x1020C01C + 0x20 * i, 26, 5⟩
abbrev Reg.DEC.CTX.SEQ_H_M1 (i : Nat) : FRef := ⟨0x1020C01C + 0x20 * i, 13, 13⟩
abbrev Reg.DEC.CTX.SEQ_W_M1 (i : Nat) : FRef := ⟨0x1020C01C + 0x20 * i, 0, 13⟩

/-- The registers of DEC, part 1. -/
def regsDEC0 : List RegWord := [
  ⟨0x10200000, [(0x10000, 8)], [fAny 0 1 .rw 0 .s false]⟩,
  ⟨0x10200004, [(0x10000, 8)], [fAny 16 9 .ro 0 .s false, fAny 4 2 .ro 0 .s false, fAny 0 3 .ro 0 .s false]⟩,
  ⟨0x10200008, [(0x10000, 8)], [fAny 31 1 .ro 0 .s false, fAny 12 2 .ro 0 .s false, fAny 0 9 .ro 0 .s false]⟩,
  ⟨0x1020000C, [(0x10000, 8)], [fAny 0 24 .rw 0 .s false]⟩,
  ⟨0x10200010, [(0x10000, 8)], [fAny 0 32 .ro 0 .s false]⟩,
  ⟨0x10200014, [(0x10000, 8)], [fAny 0 32 .ro 0 .s false]⟩,
  ⟨0x10200018, [(0x10000, 8)], [fAny 0 32 .ro 0 .s false]⟩,
  ⟨0x1020001C, [(0x10000, 8)], [fAny 0 32 .ro 0 .s false]⟩,
  ⟨0x10200020, [(0x10000, 8)], [fAny 0 32 .ro 0 .s false]⟩,
  ⟨0x10200024, [(0x10000, 8)], [fAny 0 8 .ro 0 .s false]⟩,
  ⟨0x10208000, [], [fAny 16 9 .ro 0 .s false, fAny 0 9 .ro 0 .s false]⟩,
  ⟨0x10208004, [], [fAny 16 4 .ro 0 .s false, fAny 0 9 .ro 0 .s false]⟩,
  ⟨0x10208008, [], [fAny 31 1 .w1s 0 .s false, fAny 16 13 .ro 0 .s false, fAny 0 13 .ro 0 .s false]⟩,
  ⟨0x10208010, [], [fAny 31 1 .w1c 0 .s false, fAny 0 5 .ro 0 .s false]⟩,
  ⟨0x10208014, [], [fAny 31 1 .ro 0 .s false, fAny 16 9 .ro 0 .s false, fAny 8 4 .ro 0 .s false, fAny 0 8 .ro 0 .s false]⟩,
  ⟨0x10208018, [], [fAny 0 32 .ro 0 .s false]⟩]

/-- The registers of DEC, part 2. -/
def regsDEC1 : List RegWord := [
  ⟨0x1020801C, [], [fAny 0 4 .ro 0 .s false]⟩,
  ⟨0x10208020, [], [fAny 0 32 .ro 0 .s false]⟩,
  ⟨0x1020C000, [(0x20, 512)], [fIn 16 16 .rwk 100 .s false 1 65535, fAny 13 1 .ro 0 .s false, fAny 12 1 .ro 0 .s false, fAny 8 3 .ro 0 .s false, fAny 4 3 .rwk 0 .s false, fAny 2 1 .rwk 0 .s false, fIn 0 2 .rwk 0 .s false 0 2]⟩,
  ⟨0x1020C004, [(0x20, 512)], [fAny 0 24 .rwk 0 .s false]⟩,
  ⟨0x1020C008, [(0x20, 512)], [fAny 0 16 .rwk 0 .s false]⟩,
  ⟨0x1020C00C, [(0x20, 512)], [fAny 0 32 .ro 0 .s false]⟩,
  ⟨0x1020C010, [(0x20, 512)], [fAny 0 32 .ro 0 .s false]⟩,
  ⟨0x1020C014, [(0x20, 512)], [fAny 16 16 .ro 0 .s false, fAny 0 16 .ro 0 .s false]⟩,
  ⟨0x1020C018, [(0x20, 512)], [fAny 16 16 .ro 0 .s false, fAny 0 16 .ro 0 .s false]⟩,
  ⟨0x1020C01C, [(0x20, 512)], [fAny 26 5 .ro 0 .s false, fAny 13 13 .ro 0 .s false, fAny 0 13 .ro 0 .s false]⟩]

/-- The registers of DEC. -/
def regsDEC : List RegWord := regsDEC0 ++ regsDEC1

/-! ### ENC -/

abbrev Reg.ENC.PIPE.ENABLE (i : Nat) : FRef := ⟨0x10300000 + 0x10000 * i, 0, 1⟩
abbrev Reg.ENC.PIPE.STR (i : Nat) : FRef := ⟨0x10300004 + 0x10000 * i, 16, 5⟩
abbrev Reg.ENC.PIPE.CLASS (i : Nat) : FRef := ⟨0x10300004 + 0x10000 * i, 4, 2⟩
abbrev Reg.ENC.PIPE.STATE (i : Nat) : FRef := ⟨0x10300004 + 0x10000 * i, 0, 3⟩
abbrev Reg.ENC.PIPE.SAVE_BASE (i : Nat) : FRef := ⟨0x10300008 + 0x10000 * i, 0, 24⟩
abbrev Reg.ENC.PIPE.JOBS (i : Nat) : FRef := ⟨0x1030000C + 0x10000 * i, 0, 32⟩
abbrev Reg.ENC.PIPE.ABORTS (i : Nat) : FRef := ⟨0x10300010 + 0x10000 * i, 0, 32⟩
abbrev Reg.ENC.PIPE.PREEMPTS (i : Nat) : FRef := ⟨0x10300014 + 0x10000 * i, 0, 32⟩
abbrev Reg.ENC.PIPE.BUSY_PCT (i : Nat) : FRef := ⟨0x10300018 + 0x10000 * i, 0, 8⟩
abbrev Reg.ENC.PIPE.WD_COUNT (i : Nat) : FRef := ⟨0x1030001C + 0x10000 * i, 0, 32⟩
abbrev Reg.ENC.SHARED.LOAD_MPIX : FRef := ⟨0x10304000, 0, 11⟩
abbrev Reg.ENC.SHARED.FAULT_INFO.VALID : FRef := ⟨0x10304004, 31, 1⟩
abbrev Reg.ENC.SHARED.FAULT_INFO.STR : FRef := ⟨0x10304004, 16, 5⟩
abbrev Reg.ENC.SHARED.FAULT_INFO.PIPE : FRef := ⟨0x10304004, 8, 4⟩
abbrev Reg.ENC.SHARED.FAULT_INFO.CAUSE : FRef := ⟨0x10304004, 0, 8⟩
abbrev Reg.ENC.SHARED.FAULT_STATUS.OVF : FRef := ⟨0x10304008, 31, 1⟩
abbrev Reg.ENC.SHARED.FAULT_STATUS.COUNT : FRef := ⟨0x10304008, 0, 5⟩
abbrev Reg.ENC.SHARED.SEQUENCE : FRef := ⟨0x1030400C, 0, 32⟩
abbrev Reg.ENC.STR.FORCE_IDR (i : Nat) : FRef := ⟨0x10308000 + 0x80 * i, 31, 1⟩
abbrev Reg.ENC.STR.PORT (i : Nat) : FRef := ⟨0x10308000 + 0x80 * i, 20, 4⟩
abbrev Reg.ENC.STR.CSC (i : Nat) : FRef := ⟨0x10308000 + 0x80 * i, 16, 2⟩
abbrev Reg.ENC.STR.DONE_EVT (i : Nat) : FRef := ⟨0x10308000 + 0x80 * i, 15, 1⟩
abbrev Reg.ENC.STR.DEPTH10 (i : Nat) : FRef := ⟨0x10308000 + 0x80 * i, 14, 1⟩
abbrev Reg.ENC.STR.HRD_SEI (i : Nat) : FRef := ⟨0x10308000 + 0x80 * i, 13, 1⟩
abbrev Reg.ENC.STR.LTR_EN (i : Nat) : FRef := ⟨0x10308000 + 0x80 * i, 12, 1⟩
abbrev Reg.ENC.STR.INTRA_REFRESH (i : Nat) : FRef := ⟨0x10308000 + 0x80 * i, 11, 1⟩
abbrev Reg.ENC.STR.ROTATE (i : Nat) : FRef := ⟨0x10308000 + 0x80 * i, 9, 2⟩
abbrev Reg.ENC.STR.OUT_RING (i : Nat) : FRef := ⟨0x10308000 + 0x80 * i, 8, 1⟩
abbrev Reg.ENC.STR.OUT_NET (i : Nat) : FRef := ⟨0x10308000 + 0x80 * i, 7, 1⟩
abbrev Reg.ENC.STR.RC (i : Nat) : FRef := ⟨0x10308000 + 0x80 * i, 5, 2⟩
abbrev Reg.ENC.STR.CLASS (i : Nat) : FRef := ⟨0x10308000 + 0x80 * i, 3, 2⟩
abbrev Reg.ENC.STR.CODEC (i : Nat) : FRef := ⟨0x10308000 + 0x80 * i, 1, 1⟩
abbrev Reg.ENC.STR.ENABLE (i : Nat) : FRef := ⟨0x10308000 + 0x80 * i, 0, 1⟩
abbrev Reg.ENC.STR.SRC (i : Nat) : FRef := ⟨0x10308004 + 0x80 * i, 0, 9⟩
abbrev Reg.ENC.STR.OUT_H_M1 (i : Nat) : FRef := ⟨0x10308008 + 0x80 * i, 13, 13⟩
abbrev Reg.ENC.STR.OUT_W_M1 (i : Nat) : FRef := ⟨0x10308008 + 0x80 * i, 0, 13⟩
abbrev Reg.ENC.STR.PERIOD_90K (i : Nat) : FRef := ⟨0x1030800C + 0x80 * i, 0, 24⟩
abbrev Reg.ENC.STR.BITRATE_KBPS (i : Nat) : FRef := ⟨0x10308010 + 0x80 * i, 0, 32⟩
abbrev Reg.ENC.STR.MAX_BITRATE_KBPS (i : Nat) : FRef := ⟨0x10308014 + 0x80 * i, 0, 32⟩
abbrev Reg.ENC.STR.CPB_KBIT (i : Nat) : FRef := ⟨0x10308018 + 0x80 * i, 0, 32⟩
abbrev Reg.ENC.STR.TAIL_BACKOFF_PCT (i : Nat) : FRef := ⟨0x1030801C + 0x80 * i, 16, 8⟩
abbrev Reg.ENC.STR.CPB_DELAY_MS (i : Nat) : FRef := ⟨0x1030801C + 0x80 * i, 0, 16⟩
abbrev Reg.ENC.STR.IDR_PERIOD (i : Nat) : FRef := ⟨0x10308020 + 0x80 * i, 16, 16⟩
abbrev Reg.ENC.STR.QP_MAX (i : Nat) : FRef := ⟨0x10308020 + 0x80 * i, 8, 6⟩
abbrev Reg.ENC.STR.QP_MIN (i : Nat) : FRef := ⟨0x10308020 + 0x80 * i, 0, 6⟩
abbrev Reg.ENC.STR.LTR_PERIOD (i : Nat) : FRef := ⟨0x10308024 + 0x80 * i, 8, 16⟩
abbrev Reg.ENC.STR.REFRESH_PERIOD (i : Nat) : FRef := ⟨0x10308024 + 0x80 * i, 0, 8⟩
abbrev Reg.ENC.STR.DST_IP (i : Nat) : FRef := ⟨0x10308028 + 0x80 * i, 0, 32⟩
abbrev Reg.ENC.STR.SRC_UDP (i : Nat) : FRef := ⟨0x1030802C + 0x80 * i, 16, 16⟩
abbrev Reg.ENC.STR.DST_UDP (i : Nat) : FRef := ⟨0x1030802C + 0x80 * i, 0, 16⟩
abbrev Reg.ENC.STR.SSRC (i : Nat) : FRef := ⟨0x10308030 + 0x80 * i, 0, 32⟩
abbrev Reg.ENC.STR.TTL (i : Nat) : FRef := ⟨0x10308034 + 0x80 * i, 16, 8⟩
abbrev Reg.ENC.STR.DSCP (i : Nat) : FRef := ⟨0x10308034 + 0x80 * i, 8, 6⟩
abbrev Reg.ENC.STR.PT (i : Nat) : FRef := ⟨0x10308034 + 0x80 * i, 0, 7⟩
abbrev Reg.ENC.STR.SR_INTERVAL_MS (i : Nat) : FRef := ⟨0x10308038 + 0x80 * i, 16, 16⟩
abbrev Reg.ENC.STR.PAYLOAD_MAX (i : Nat) : FRef := ⟨0x10308038 + 0x80 * i, 0, 14⟩
abbrev Reg.ENC.STR.DST_MAC_LO (i : Nat) : FRef := ⟨0x1030803C + 0x80 * i, 0, 32⟩
abbrev Reg.ENC.STR.DST_MAC_HI (i : Nat) : FRef := ⟨0x10308040 + 0x80 * i, 0, 16⟩
abbrev Reg.ENC.STR.RING_BASE (i : Nat) : FRef := ⟨0x10308044 + 0x80 * i, 0, 28⟩
abbrev Reg.ENC.STR.RING_SIZE_KB (i : Nat) : FRef := ⟨0x10308048 + 0x80 * i, 0, 16⟩
abbrev Reg.ENC.STR.RING_WR (i : Nat) : FRef := ⟨0x1030804C + 0x80 * i, 0, 32⟩
abbrev Reg.ENC.STR.RING_RD (i : Nat) : FRef := ⟨0x10308050 + 0x80 * i, 0, 32⟩
abbrev Reg.ENC.STR.REF_BASE (i : Nat) : FRef := ⟨0x10308054 + 0x80 * i, 0, 24⟩
abbrev Reg.ENC.STR.REF_MB (i : Nat) : FRef := ⟨0x10308058 + 0x80 * i, 0, 16⟩
abbrev Reg.ENC.STR.ENABLE_RESULT (i : Nat) : FRef := ⟨0x1030805C + 0x80 * i, 4, 4⟩
abbrev Reg.ENC.STR.STATE (i : Nat) : FRef := ⟨0x1030805C + 0x80 * i, 0, 3⟩
abbrev Reg.ENC.STR.PICTURES (i : Nat) : FRef := ⟨0x10308060 + 0x80 * i, 0, 32⟩
abbrev Reg.ENC.STR.TAILS (i : Nat) : FRef := ⟨0x10308064 + 0x80 * i, 16, 16⟩
abbrev Reg.ENC.STR.INPUT_CHANGED (i : Nat) : FRef := ⟨0x10308064 + 0x80 * i, 0, 16⟩
abbrev Reg.ENC.STR.REPEATS (i : Nat) : FRef := ⟨0x10308068 + 0x80 * i, 16, 16⟩
abbrev Reg.ENC.STR.RING_DROP (i : Nat) : FRef := ⟨0x10308068 + 0x80 * i, 0, 16⟩
abbrev Reg.ENC.STR.TX_DROP (i : Nat) : FRef := ⟨0x1030806C + 0x80 * i, 16, 16⟩
abbrev Reg.ENC.STR.ABORTS (i : Nat) : FRef := ⟨0x1030806C + 0x80 * i, 0, 16⟩
abbrev Reg.ENC.STR.LATE (i : Nat) : FRef := ⟨0x10308070 + 0x80 * i, 16, 16⟩
abbrev Reg.ENC.STR.LAST_BITS (i : Nat) : FRef := ⟨0x10308074 + 0x80 * i, 0, 32⟩
abbrev Reg.ENC.STR.CPB_FULLNESS (i : Nat) : FRef := ⟨0x10308078 + 0x80 * i, 0, 32⟩
abbrev Reg.ENC.STR.LAST_SEQ (i : Nat) : FRef := ⟨0x1030807C + 0x80 * i, 0, 32⟩

/-- The registers of ENC, part 1. -/
def regsENC0 : List RegWord := [
  ⟨0x10300000, [(0x10000, 2)], [fAny 0 1 .rw 0 .s false]⟩,
  ⟨0x10300004, [(0x10000, 2)], [fAny 16 5 .ro 0 .s false, fAny 4 2 .ro 0 .s false, fAny 0 3 .ro 0 .s false]⟩,
  ⟨0x10300008, [(0x10000, 2)], [fAny 0 24 .rw 0 .s false]⟩,
  ⟨0x1030000C, [(0x10000, 2)], [fAny 0 32 .ro 0 .s false]⟩,
  ⟨0x10300010, [(0x10000, 2)], [fAny 0 32 .ro 0 .s false]⟩,
  ⟨0x10300014, [(0x10000, 2)], [fAny 0 32 .ro 0 .s false]⟩,
  ⟨0x10300018, [(0x10000, 2)], [fAny 0 8 .ro 0 .s false]⟩,
  ⟨0x1030001C, [(0x10000, 2)], [fAny 0 32 .ro 0 .s false]⟩,
  ⟨0x10304000, [], [fAny 0 11 .ro 0 .s false]⟩,
  ⟨0x10304004, [], [fAny 31 1 .ro 0 .s false, fAny 16 5 .ro 0 .s false, fAny 8 4 .ro 0 .s false, fAny 0 8 .ro 0 .s false]⟩,
  ⟨0x10304008, [], [fAny 31 1 .w1c 0 .s false, fAny 0 5 .ro 0 .s false]⟩,
  ⟨0x1030400C, [], [fAny 0 32 .ro 0 .s false]⟩,
  ⟨0x10308000, [(0x80, 32)], [fAny 31 1 .w1s 0 .s false, fAny 20 4 .rwk 0 .s false, fIn 16 2 .rwk 0 .s false 0 1, fAny 15 1 .rwk 0 .s false, fAny 14 1 .rwk 0 .s false, fAny 13 1 .rwk 1 .s false, fAny 12 1 .rwk 0 .s false, fAny 11 1 .rwk 0 .s false, fAny 9 2 .rwk 0 .s false, fAny 8 1 .rwk 0 .s false, fAny 7 1 .rwk 0 .s false, fIn 5 2 .rwk 0 .s false 0 2, fIn 3 2 .rwk 0 .s false 0 2, fAny 1 1 .rwk 0 .s false, fAny 0 1 .rw 0 .s false]⟩,
  ⟨0x10308004, [(0x80, 32)], [fAny 0 9 .rwk 0 .s false]⟩,
  ⟨0x10308008, [(0x80, 32)], [fAny 13 13 .rwk 0 .s false, fAny 0 13 .rwk 0 .s false]⟩,
  ⟨0x1030800C, [(0x80, 32)], [fAny 0 24 .rwk 3000 .s false]⟩]

/-- The registers of ENC, part 2. -/
def regsENC1 : List RegWord := [
  ⟨0x10308010, [(0x80, 32)], [fAny 0 32 .rw 0 .s false]⟩,
  ⟨0x10308014, [(0x80, 32)], [fAny 0 32 .rw 0 .s false]⟩,
  ⟨0x10308018, [(0x80, 32)], [fAny 0 32 .rwk 0 .s false]⟩,
  ⟨0x1030801C, [(0x80, 32)], [fIn 16 8 .rwk 25 .s false 0 90, fIn 0 16 .rwk 100 .s false 1 65535]⟩,
  ⟨0x10308020, [(0x80, 32)], [fAny 16 16 .rwk 0 .s false, fIn 8 6 .rwk 51 .s false 0 51, fIn 0 6 .rwk 10 .s false 0 51]⟩,
  ⟨0x10308024, [(0x80, 32)], [fAny 8 16 .rwk 0 .s false, fIn 0 8 .rwk 30 .s false 2 255]⟩,
  ⟨0x10308028, [(0x80, 32)], [fAny 0 32 .rwk 0 .s false]⟩,
  ⟨0x1030802C, [(0x80, 32)], [fAny 16 16 .rwk 0 .s false, fAny 0 16 .rwk 0 .s false]⟩,
  ⟨0x10308030, [(0x80, 32)], [fAny 0 32 .rwk 0 .s false]⟩,
  ⟨0x10308034, [(0x80, 32)], [fAny 16 8 .rwk 64 .s false, fAny 8 6 .rwk 0 .s false, fAny 0 7 .rwk 96 .s false]⟩,
  ⟨0x10308038, [(0x80, 32)], [fIn 16 16 .rwk 1000 .s false 100 65535, fIn 0 14 .rwk 1400 .s false 256 8952]⟩,
  ⟨0x1030803C, [(0x80, 32)], [fAny 0 32 .rwk 0 .s false]⟩,
  ⟨0x10308040, [(0x80, 32)], [fAny 0 16 .rwk 0 .s false]⟩,
  ⟨0x10308044, [(0x80, 32)], [fAny 0 28 .rwk 0 .s false]⟩,
  ⟨0x10308048, [(0x80, 32)], [fIn 0 16 .rwk 0 .s false 64 65535]⟩,
  ⟨0x1030804C, [(0x80, 32)], [fAny 0 32 .ro 0 .s false]⟩]

/-- The registers of ENC, part 3. -/
def regsENC2 : List RegWord := [
  ⟨0x10308050, [(0x80, 32)], [fAny 0 32 .rw 0 .s false]⟩,
  ⟨0x10308054, [(0x80, 32)], [fAny 0 24 .rwk 0 .s false]⟩,
  ⟨0x10308058, [(0x80, 32)], [fAny 0 16 .rwk 0 .s false]⟩,
  ⟨0x1030805C, [(0x80, 32)], [fAny 4 4 .ro 0 .s false, fAny 0 3 .ro 0 .s false]⟩,
  ⟨0x10308060, [(0x80, 32)], [fAny 0 32 .ro 0 .s false]⟩,
  ⟨0x10308064, [(0x80, 32)], [fAny 16 16 .ro 0 .s false, fAny 0 16 .ro 0 .s false]⟩,
  ⟨0x10308068, [(0x80, 32)], [fAny 16 16 .ro 0 .s false, fAny 0 16 .ro 0 .s false]⟩,
  ⟨0x1030806C, [(0x80, 32)], [fAny 16 16 .ro 0 .s false, fAny 0 16 .ro 0 .s false]⟩,
  ⟨0x10308070, [(0x80, 32)], [fAny 16 16 .ro 0 .s false]⟩,
  ⟨0x10308074, [(0x80, 32)], [fAny 0 32 .ro 0 .s false]⟩,
  ⟨0x10308078, [(0x80, 32)], [fAny 0 32 .ro 0 .s false]⟩,
  ⟨0x1030807C, [(0x80, 32)], [fAny 0 32 .ro 0 .s false]⟩]

/-- The registers of ENC. -/
def regsENC : List RegWord := regsENC0 ++ regsENC1 ++ regsENC2

/-! ### ISP -/

abbrev Reg.CAP.CAPT_KIND (i : Nat) : FRef := ⟨0x10380000 + 0x10000 * i, 16, 1⟩
abbrev Reg.CAP.INTERLACED (i : Nat) : FRef := ⟨0x10380000 + 0x10000 * i, 14, 1⟩
abbrev Reg.CAP.PCLK_EDGE (i : Nat) : FRef := ⟨0x10380000 + 0x10000 * i, 13, 1⟩
abbrev Reg.CAP.DE_USE (i : Nat) : FRef := ⟨0x10380000 + 0x10000 * i, 12, 1⟩
abbrev Reg.CAP.DE_POL (i : Nat) : FRef := ⟨0x10380000 + 0x10000 * i, 11, 1⟩
abbrev Reg.CAP.VS_POL (i : Nat) : FRef := ⟨0x10380000 + 0x10000 * i, 10, 1⟩
abbrev Reg.CAP.HS_POL (i : Nat) : FRef := ⟨0x10380000 + 0x10000 * i, 9, 1⟩
abbrev Reg.CAP.SYNC (i : Nat) : FRef := ⟨0x10380000 + 0x10000 * i, 8, 1⟩
abbrev Reg.CAP.MODE (i : Nat) : FRef := ⟨0x10380000 + 0x10000 * i, 4, 4⟩
abbrev Reg.CAP.ENABLE (i : Nat) : FRef := ⟨0x10380000 + 0x10000 * i, 0, 1⟩
abbrev Reg.CAP.HEIGHT_M1 (i : Nat) : FRef := ⟨0x10380004 + 0x10000 * i, 16, 13⟩
abbrev Reg.CAP.WIDTH_M1 (i : Nat) : FRef := ⟨0x10380004 + 0x10000 * i, 0, 13⟩
abbrev Reg.CAP.V_START (i : Nat) : FRef := ⟨0x10380008 + 0x10000 * i, 16, 16⟩
abbrev Reg.CAP.H_START (i : Nat) : FRef := ⟨0x10380008 + 0x10000 * i, 0, 16⟩
abbrev Reg.CAP.FRAME_TIMEOUT_MS (i : Nat) : FRef := ⟨0x1038000C + 0x10000 * i, 0, 16⟩
abbrev Reg.CAP.CAPT_ADJ_US (i : Nat) : FRef := ⟨0x10380010 + 0x10000 * i, 0, 16⟩
abbrev Reg.CAP.PEAK_CLR (i : Nat) : FRef := ⟨0x10380014 + 0x10000 * i, 31, 1⟩
abbrev Reg.CAP.STORE_PEAK (i : Nat) : FRef := ⟨0x10380014 + 0x10000 * i, 16, 7⟩
abbrev Reg.CAP.STORE_LEVEL (i : Nat) : FRef := ⟨0x10380014 + 0x10000 * i, 8, 7⟩
abbrev Reg.CAP.FIELD (i : Nat) : FRef := ⟨0x10380014 + 0x10000 * i, 2, 1⟩
abbrev Reg.CAP.IN_FRAME (i : Nat) : FRef := ⟨0x10380014 + 0x10000 * i, 1, 1⟩
abbrev Reg.CAP.PCLK_PRESENT (i : Nat) : FRef := ⟨0x10380014 + 0x10000 * i, 0, 1⟩
abbrev Reg.CAP.FRAMES (i : Nat) : FRef := ⟨0x10380018 + 0x10000 * i, 0, 32⟩
abbrev Reg.CAP.LONG (i : Nat) : FRef := ⟨0x1038001C + 0x10000 * i, 16, 16⟩
abbrev Reg.CAP.SHORT (i : Nat) : FRef := ⟨0x1038001C + 0x10000 * i, 0, 16⟩
abbrev Reg.CAP.LONG_ROWS (i : Nat) : FRef := ⟨0x10380020 + 0x10000 * i, 0, 32⟩
abbrev Reg.CAP.SYNC_ERR (i : Nat) : FRef := ⟨0x10380024 + 0x10000 * i, 16, 16⟩
abbrev Reg.CAP.ROW_ERR (i : Nat) : FRef := ⟨0x10380024 + 0x10000 * i, 0, 16⟩
abbrev Reg.CAP.DROPPED (i : Nat) : FRef := ⟨0x10380028 + 0x10000 * i, 16, 16⟩
abbrev Reg.CAP.EMPTY (i : Nat) : FRef := ⟨0x10380028 + 0x10000 * i, 0, 16⟩
abbrev Reg.CAP.BUS_ERR (i : Nat) : FRef := ⟨0x1038002C + 0x10000 * i, 0, 16⟩
abbrev Reg.ISP.LOAD_PCT (i : Nat) : FRef := ⟨0x10380100 + 0x10000 * i, 16, 8⟩
abbrev Reg.ISP.SHARE (i : Nat) : FRef := ⟨0x10380100 + 0x10000 * i, 4, 2⟩
abbrev Reg.ISP.CTX_ACTIVE (i : Nat) : FRef := ⟨0x10380100 + 0x10000 * i, 0, 4⟩
abbrev Reg.ISP.ROWS (i : Nat) : FRef := ⟨0x10380104 + 0x10000 * i, 0, 32⟩
abbrev Reg.ISP.CTX.APPLY (i j : Nat) : FRef := ⟨0x10380200 + 0x10000 * i + 0x100 * j, 31, 1⟩
abbrev Reg.ISP.CTX.PRIORITY (i j : Nat) : FRef := ⟨0x10380200 + 0x10000 * i + 0x100 * j, 12, 2⟩
abbrev Reg.ISP.CTX.PORT (i j : Nat) : FRef := ⟨0x10380200 + 0x10000 * i + 0x100 * j, 8, 2⟩
abbrev Reg.ISP.CTX.MV_RGB (i j : Nat) : FRef := ⟨0x10380200 + 0x10000 * i + 0x100 * j, 5, 1⟩
abbrev Reg.ISP.CTX.MV_EN (i j : Nat) : FRef := ⟨0x10380200 + 0x10000 * i + 0x100 * j, 4, 1⟩
abbrev Reg.ISP.CTX.CODE_10BIT (i j : Nat) : FRef := ⟨0x10380200 + 0x10000 * i + 0x100 * j, 3, 1⟩
abbrev Reg.ISP.CTX.CODE_EN (i j : Nat) : FRef := ⟨0x10380200 + 0x10000 * i + 0x100 * j, 2, 1⟩
abbrev Reg.ISP.CTX.ENABLE (i j : Nat) : FRef := ⟨0x10380200 + 0x10000 * i + 0x100 * j, 0, 1⟩
abbrev Reg.ISP.CTX.STATE (i j : Nat) : FRef := ⟨0x10380204 + 0x10000 * i + 0x100 * j, 8, 2⟩
abbrev Reg.ISP.CTX.APPLY_RESULT (i j : Nat) : FRef := ⟨0x10380204 + 0x10000 * i + 0x100 * j, 4, 1⟩
abbrev Reg.ISP.CTX.ENABLE_RESULT (i j : Nat) : FRef := ⟨0x10380204 + 0x10000 * i + 0x100 * j, 0, 4⟩
abbrev Reg.ISP.CTX.SRC (i j : Nat) : FRef := ⟨0x10380208 + 0x10000 * i + 0x100 * j, 0, 9⟩
abbrev Reg.ISP.CTX.TABLE_BASE (i j : Nat) : FRef := ⟨0x1038020C + 0x10000 * i + 0x100 * j, 0, 24⟩
abbrev Reg.ISP.CTX.BL1 (i j : Nat) : FRef := ⟨0x10380210 + 0x10000 * i + 0x100 * j, 16, 16⟩
abbrev Reg.ISP.CTX.BL0 (i j : Nat) : FRef := ⟨0x10380210 + 0x10000 * i + 0x100 * j, 0, 16⟩
abbrev Reg.ISP.CTX.BL3 (i j : Nat) : FRef := ⟨0x10380214 + 0x10000 * i + 0x100 * j, 16, 16⟩
abbrev Reg.ISP.CTX.BL2 (i j : Nat) : FRef := ⟨0x10380214 + 0x10000 * i + 0x100 * j, 0, 16⟩
abbrev Reg.ISP.CTX.DYN_THR (i j : Nat) : FRef := ⟨0x10380218 + 0x10000 * i + 0x100 * j, 20, 8⟩
abbrev Reg.ISP.CTX.DYN_EN (i j : Nat) : FRef := ⟨0x10380218 + 0x10000 * i + 0x100 * j, 16, 1⟩
abbrev Reg.ISP.CTX.DPC_COUNT (i j : Nat) : FRef := ⟨0x10380218 + 0x10000 * i + 0x100 * j, 0, 13⟩
abbrev Reg.ISP.CTX.THR_HI (i j : Nat) : FRef := ⟨0x1038021C + 0x10000 * i + 0x100 * j, 24, 8⟩
abbrev Reg.ISP.CTX.THR_LO (i j : Nat) : FRef := ⟨0x1038021C + 0x10000 * i + 0x100 * j, 16, 8⟩
abbrev Reg.ISP.CTX.K_MAX (i j : Nat) : FRef := ⟨0x1038021C + 0x10000 * i + 0x100 * j, 12, 4⟩
abbrev Reg.ISP.CTX.TNR_EN (i j : Nat) : FRef := ⟨0x1038021C + 0x10000 * i + 0x100 * j, 8, 1⟩
abbrev Reg.ISP.CTX.SNR_STRENGTH (i j : Nat) : FRef := ⟨0x1038021C + 0x10000 * i + 0x100 * j, 0, 6⟩
abbrev Reg.ISP.CTX.TNR_BASE (i j : Nat) : FRef := ⟨0x10380220 + 0x10000 * i + 0x100 * j, 0, 24⟩
abbrev Reg.ISP.CTX.CSC_IN (i j : Nat) : FRef := ⟨0x10380224 + 0x10000 * i + 0x100 * j, 14, 2⟩
abbrev Reg.ISP.CTX.GTM_EN (i j : Nat) : FRef := ⟨0x10380224 + 0x10000 * i + 0x100 * j, 13, 1⟩
abbrev Reg.ISP.CTX.TONE_EN (i j : Nat) : FRef := ⟨0x10380224 + 0x10000 * i + 0x100 * j, 12, 1⟩
abbrev Reg.ISP.CTX.RANGE (i j : Nat) : FRef := ⟨0x10380224 + 0x10000 * i + 0x100 * j, 11, 1⟩
abbrev Reg.ISP.CTX.CSC (i j : Nat) : FRef := ⟨0x10380224 + 0x10000 * i + 0x100 * j, 8, 3⟩
abbrev Reg.ISP.CTX.TF (i j : Nat) : FRef := ⟨0x10380224 + 0x10000 * i + 0x100 * j, 4, 3⟩
abbrev Reg.ISP.CTX.LSC_EN (i j : Nat) : FRef := ⟨0x10380224 + 0x10000 * i + 0x100 * j, 2, 1⟩
abbrev Reg.ISP.CTX.BAYER_PHASE (i j : Nat) : FRef := ⟨0x10380224 + 0x10000 * i + 0x100 * j, 0, 2⟩
abbrev Reg.ISP.CTX.WB_G (i j : Nat) : FRef := ⟨0x10380228 + 0x10000 * i + 0x100 * j, 16, 16⟩
abbrev Reg.ISP.CTX.WB_R (i j : Nat) : FRef := ⟨0x10380228 + 0x10000 * i + 0x100 * j, 0, 16⟩
abbrev Reg.ISP.CTX.WB_B (i j : Nat) : FRef := ⟨0x1038022C + 0x10000 * i + 0x100 * j, 0, 16⟩
abbrev Reg.ISP.CTX.CCM1 (i j : Nat) : FRef := ⟨0x10380230 + 0x10000 * i + 0x100 * j, 16, 16⟩
abbrev Reg.ISP.CTX.CCM0 (i j : Nat) : FRef := ⟨0x10380230 + 0x10000 * i + 0x100 * j, 0, 16⟩
abbrev Reg.ISP.CTX.CCM3 (i j : Nat) : FRef := ⟨0x10380234 + 0x10000 * i + 0x100 * j, 16, 16⟩
abbrev Reg.ISP.CTX.CCM2 (i j : Nat) : FRef := ⟨0x10380234 + 0x10000 * i + 0x100 * j, 0, 16⟩
abbrev Reg.ISP.CTX.CCM5 (i j : Nat) : FRef := ⟨0x10380238 + 0x10000 * i + 0x100 * j, 16, 16⟩
abbrev Reg.ISP.CTX.CCM4 (i j : Nat) : FRef := ⟨0x10380238 + 0x10000 * i + 0x100 * j, 0, 16⟩
abbrev Reg.ISP.CTX.CCM7 (i j : Nat) : FRef := ⟨0x1038023C + 0x10000 * i + 0x100 * j, 16, 16⟩
abbrev Reg.ISP.CTX.CCM6 (i j : Nat) : FRef := ⟨0x1038023C + 0x10000 * i + 0x100 * j, 0, 16⟩
abbrev Reg.ISP.CTX.CCM8 (i j : Nat) : FRef := ⟨0x10380240 + 0x10000 * i + 0x100 * j, 0, 16⟩
abbrev Reg.ISP.CTX.CODE_H_M1 (i j : Nat) : FRef := ⟨0x10380248 + 0x10000 * i + 0x100 * j, 16, 13⟩
abbrev Reg.ISP.CTX.CODE_W_M1 (i j : Nat) : FRef := ⟨0x10380248 + 0x10000 * i + 0x100 * j, 0, 13⟩
abbrev Reg.ISP.CTX.MV_H_M1 (i j : Nat) : FRef := ⟨0x1038024C + 0x10000 * i + 0x100 * j, 16, 13⟩
abbrev Reg.ISP.CTX.MV_W_M1 (i j : Nat) : FRef := ⟨0x1038024C + 0x10000 * i + 0x100 * j, 0, 13⟩
abbrev Reg.ISP.CTX.CODE_BUF_HI (i j k : Nat) : FRef := ⟨0x10380250 + 0x10000 * i + 0x100 * j + 0x4 * k, 16, 12⟩
abbrev Reg.ISP.CTX.CODE_BUF_LO (i j k : Nat) : FRef := ⟨0x10380250 + 0x10000 * i + 0x100 * j + 0x4 * k, 0, 12⟩
abbrev Reg.ISP.CTX.MV_RING_M1 (i j : Nat) : FRef := ⟨0x10380258 + 0x10000 * i + 0x100 * j, 8, 2⟩
abbrev Reg.ISP.CTX.CODE_RING_M1 (i j : Nat) : FRef := ⟨0x10380258 + 0x10000 * i + 0x100 * j, 0, 2⟩
abbrev Reg.ISP.CTX.MV_BUF_HI (i j k : Nat) : FRef := ⟨0x1038025C + 0x10000 * i + 0x100 * j + 0x4 * k, 16, 12⟩
abbrev Reg.ISP.CTX.MV_BUF_LO (i j k : Nat) : FRef := ⟨0x1038025C + 0x10000 * i + 0x100 * j + 0x4 * k, 0, 12⟩
abbrev Reg.ISP.CTX.STATS_EN (i j : Nat) : FRef := ⟨0x10380264 + 0x10000 * i + 0x100 * j, 31, 1⟩
abbrev Reg.ISP.CTX.STATS_BASE (i j : Nat) : FRef := ⟨0x10380264 + 0x10000 * i + 0x100 * j, 0, 24⟩
abbrev Reg.ISP.CTX.FRAMES (i j : Nat) : FRef := ⟨0x10380270 + 0x10000 * i + 0x100 * j, 0, 32⟩

/-- The registers of ISP, part 1. -/
def regsISP0 : List RegWord := [
  ⟨0x10380000, [(0x10000, 4)], [fAny 16 1 .rwk 0 .s false, fAny 14 1 .rwk 0 .s false, fAny 13 1 .rwk 0 .s false, fAny 12 1 .rwk 1 .s false, fAny 11 1 .rwk 1 .s false, fAny 10 1 .rwk 1 .s false, fAny 9 1 .rwk 1 .s false, fAny 8 1 .rwk 0 .s false, fIn 4 4 .rwk 0 .s false 0 8, fAny 0 1 .rw 0 .s false]⟩,
  ⟨0x10380004, [(0x10000, 4)], [fIn 16 13 .rwk 0 .s false 15 4095, fIn 0 13 .rwk 0 .s false 63 4095]⟩,
  ⟨0x10380008, [(0x10000, 4)], [fAny 16 16 .rwk 0 .s false, fAny 0 16 .rwk 0 .s false]⟩,
  ⟨0x1038000C, [(0x10000, 4)], [fIn 0 16 .rwk 200 .s false 1 65535]⟩,
  ⟨0x10380010, [(0x10000, 4)], [fAny 0 16 .rwk 0 .s false]⟩,
  ⟨0x10380014, [(0x10000, 4)], [fAny 31 1 .w1s 0 .s false, fAny 16 7 .ro 0 .s false, fAny 8 7 .ro 0 .s false, fAny 2 1 .ro 0 .s false, fAny 1 1 .ro 0 .s false, fAny 0 1 .ro 0 .s false]⟩,
  ⟨0x10380018, [(0x10000, 4)], [fAny 0 32 .ro 0 .s false]⟩,
  ⟨0x1038001C, [(0x10000, 4)], [fAny 16 16 .ro 0 .s false, fAny 0 16 .ro 0 .s false]⟩,
  ⟨0x10380020, [(0x10000, 4)], [fAny 0 32 .ro 0 .s false]⟩,
  ⟨0x10380024, [(0x10000, 4)], [fAny 16 16 .ro 0 .s false, fAny 0 16 .ro 0 .s false]⟩,
  ⟨0x10380028, [(0x10000, 4)], [fAny 16 16 .ro 0 .s false, fAny 0 16 .ro 0 .s false]⟩,
  ⟨0x1038002C, [(0x10000, 4)], [fAny 0 16 .ro 0 .s false]⟩,
  ⟨0x10380100, [(0x10000, 4)], [fAny 16 8 .ro 0 .s false, fAny 4 2 .ro 0 .s false, fAny 0 4 .ro 0 .s false]⟩,
  ⟨0x10380104, [(0x10000, 4)], [fAny 0 32 .ro 0 .s false]⟩,
  ⟨0x10380200, [(0x10000, 4), (0x100, 4)], [fAny 31 1 .w1s 0 .s false, fAny 12 2 .rwk 0 .s false, fAny 8 2 .rwk 0 .s false, fAny 5 1 .rw 0 .s false, fAny 4 1 .rw 0 .s false, fAny 3 1 .rw 0 .s false, fAny 2 1 .rw 0 .s false, fAny 0 1 .rw 0 .s false]⟩,
  ⟨0x10380204, [(0x10000, 4), (0x100, 4)], [fAny 8 2 .ro 0 .s false, fAny 4 1 .ro 0 .s false, fAny 0 4 .ro 0 .s false]⟩]

/-- The registers of ISP, part 2. -/
def regsISP1 : List RegWord := [
  ⟨0x10380208, [(0x10000, 4), (0x100, 4)], [fAny 0 9 .ro 0 .s false]⟩,
  ⟨0x1038020C, [(0x10000, 4), (0x100, 4)], [fAny 0 24 .rw 0 .s false]⟩,
  ⟨0x10380210, [(0x10000, 4), (0x100, 4)], [fAny 16 16 .rw 0 .s false, fAny 0 16 .rw 0 .s false]⟩,
  ⟨0x10380214, [(0x10000, 4), (0x100, 4)], [fAny 16 16 .rw 0 .s false, fAny 0 16 .rw 0 .s false]⟩,
  ⟨0x10380218, [(0x10000, 4), (0x100, 4)], [fAny 20 8 .rw 0 .s false, fAny 16 1 .rw 0 .s false, fIn 0 13 .rw 0 .s false 0 4096]⟩,
  ⟨0x1038021C, [(0x10000, 4), (0x100, 4)], [fAny 24 8 .rw 0 .s false, fAny 16 8 .rw 0 .s false, fAny 12 4 .rw 0 .s false, fAny 8 1 .rw 0 .s false, fAny 0 6 .rw 0 .s false]⟩,
  ⟨0x10380220, [(0x10000, 4), (0x100, 4)], [fAny 0 24 .rw 0 .s false]⟩,
  ⟨0x10380224, [(0x10000, 4), (0x100, 4)], [fIn 14 2 .rw 0 .s false 0 2, fAny 13 1 .rw 0 .s false, fAny 12 1 .rw 0 .s false, fAny 11 1 .rw 0 .s false, fIn 8 3 .rw 0 .s false 0 3, fIn 4 3 .rw 0 .s false 0 4, fAny 2 1 .rw 0 .s false, fAny 0 2 .rw 0 .s false]⟩,
  ⟨0x10380228, [(0x10000, 4), (0x100, 4)], [fAny 16 16 .rw 0x1000 .s false, fAny 0 16 .rw 0x1000 .s false]⟩,
  ⟨0x1038022C, [(0x10000, 4), (0x100, 4)], [fAny 0 16 .rw 0x1000 .s false]⟩,
  ⟨0x10380230, [(0x10000, 4), (0x100, 4)], [fAny 16 16 .rw 0 .s false, fAny 0 16 .rw 0x1000 .s false]⟩,
  ⟨0x10380234, [(0x10000, 4), (0x100, 4)], [fAny 16 16 .rw 0 .s false, fAny 0 16 .rw 0 .s false]⟩,
  ⟨0x10380238, [(0x10000, 4), (0x100, 4)], [fAny 16 16 .rw 0 .s false, fAny 0 16 .rw 0x1000 .s false]⟩,
  ⟨0x1038023C, [(0x10000, 4), (0x100, 4)], [fAny 16 16 .rw 0 .s false, fAny 0 16 .rw 0 .s false]⟩,
  ⟨0x10380240, [(0x10000, 4), (0x100, 4)], [fAny 0 16 .rw 0x1000 .s false]⟩,
  ⟨0x10380248, [(0x10000, 4), (0x100, 4)], [fAny 16 13 .rw 0 .s false, fAny 0 13 .rw 0 .s false]⟩]

/-- The registers of ISP, part 3. -/
def regsISP2 : List RegWord := [
  ⟨0x1038024C, [(0x10000, 4), (0x100, 4)], [fAny 16 13 .rw 0 .s false, fAny 0 13 .rw 0 .s false]⟩,
  ⟨0x10380250, [(0x10000, 4), (0x100, 4), (0x4, 2)], [fAny 16 12 .rwk 0 .s false, fAny 0 12 .rwk 0 .s false]⟩,
  ⟨0x10380258, [(0x10000, 4), (0x100, 4)], [fAny 8 2 .rwk 0 .s false, fAny 0 2 .rwk 0 .s false]⟩,
  ⟨0x1038025C, [(0x10000, 4), (0x100, 4), (0x4, 2)], [fAny 16 12 .rwk 0 .s false, fAny 0 12 .rwk 0 .s false]⟩,
  ⟨0x10380264, [(0x10000, 4), (0x100, 4)], [fAny 31 1 .rw 0 .s false, fAny 0 24 .rw 0 .s false]⟩,
  ⟨0x10380270, [(0x10000, 4), (0x100, 4)], [fAny 0 32 .ro 0 .s false]⟩]

/-- The registers of ISP. -/
def regsISP : List RegWord := regsISP0 ++ regsISP1 ++ regsISP2

/-! ### HEAD -/

abbrev Reg.HEAD.PLINTH_R.VALUE (i : Nat) : FRef := ⟨0x10400400 + 0x1000 * i, 0, 20⟩
abbrev Reg.HEAD.PLINTH_G.VALUE (i : Nat) : FRef := ⟨0x10400404 + 0x1000 * i, 0, 20⟩
abbrev Reg.HEAD.PLINTH_B.VALUE (i : Nat) : FRef := ⟨0x10400408 + 0x1000 * i, 0, 20⟩
abbrev Reg.HEAD.OUT_CTRL.DITHER (i : Nat) : FRef := ⟨0x1040040C + 0x1000 * i, 4, 1⟩
abbrev Reg.HEAD.OUT_CTRL.DEPTH8 (i : Nat) : FRef := ⟨0x1040040C + 0x1000 * i, 3, 1⟩
abbrev Reg.HEAD.OUT_CTRL.MATRIX_EN (i : Nat) : FRef := ⟨0x1040040C + 0x1000 * i, 2, 1⟩
abbrev Reg.HEAD.OUT_CTRL.OTAB_BANK (i : Nat) : FRef := ⟨0x1040040C + 0x1000 * i, 1, 1⟩
abbrev Reg.HEAD.OUT_CTRL.OTAB_EN (i : Nat) : FRef := ⟨0x1040040C + 0x1000 * i, 0, 1⟩
abbrev Reg.HEAD.OMAT0.C_HI (i : Nat) : FRef := ⟨0x10400410 + 0x1000 * i, 16, 16⟩
abbrev Reg.HEAD.OMAT0.C_LO (i : Nat) : FRef := ⟨0x10400410 + 0x1000 * i, 0, 16⟩
abbrev Reg.HEAD.OMAT1.C_HI (i : Nat) : FRef := ⟨0x10400414 + 0x1000 * i, 16, 16⟩
abbrev Reg.HEAD.OMAT1.C_LO (i : Nat) : FRef := ⟨0x10400414 + 0x1000 * i, 0, 16⟩
abbrev Reg.HEAD.OMAT2.C_HI (i : Nat) : FRef := ⟨0x10400418 + 0x1000 * i, 16, 16⟩
abbrev Reg.HEAD.OMAT2.C_LO (i : Nat) : FRef := ⟨0x10400418 + 0x1000 * i, 0, 16⟩
abbrev Reg.HEAD.OMAT3.C_HI (i : Nat) : FRef := ⟨0x1040041C + 0x1000 * i, 16, 16⟩
abbrev Reg.HEAD.OMAT3.C_LO (i : Nat) : FRef := ⟨0x1040041C + 0x1000 * i, 0, 16⟩
abbrev Reg.HEAD.OMAT4.C_LO (i : Nat) : FRef := ⟨0x10400420 + 0x1000 * i, 0, 16⟩
abbrev Reg.HEAD.OOFF01.OFF1 (i : Nat) : FRef := ⟨0x10400424 + 0x1000 * i, 16, 12⟩
abbrev Reg.HEAD.OOFF01.OFF0 (i : Nat) : FRef := ⟨0x10400424 + 0x1000 * i, 0, 12⟩
abbrev Reg.HEAD.OOFF2.OFF0 (i : Nat) : FRef := ⟨0x10400428 + 0x1000 * i, 0, 12⟩
abbrev Reg.HEAD.OTAB_INDEX.BANK (i : Nat) : FRef := ⟨0x1040042C + 0x1000 * i, 12, 1⟩
abbrev Reg.HEAD.OTAB_INDEX.INDEX (i : Nat) : FRef := ⟨0x1040042C + 0x1000 * i, 0, 12⟩
abbrev Reg.HEAD.OTAB_DATA.VALUE (i : Nat) : FRef := ⟨0x10400430 + 0x1000 * i, 0, 16⟩
abbrev Reg.HEAD.GROUP_CTRL.DEADLINE_MS (i : Nat) : FRef := ⟨0x10400440 + 0x1000 * i, 0, 16⟩
abbrev Reg.HEAD.GROUP_SPLIT.SPLIT (i : Nat) : FRef := ⟨0x10400444 + 0x1000 * i, 1, 31⟩
abbrev Reg.HEAD.WB_CTRL.SRC (i : Nat) : FRef := ⟨0x10400450 + 0x1000 * i, 16, 9⟩
abbrev Reg.HEAD.WB_CTRL.WB_QOS (i : Nat) : FRef := ⟨0x10400450 + 0x1000 * i, 4, 4⟩
abbrev Reg.HEAD.WB_CTRL.FORMAT (i : Nat) : FRef := ⟨0x10400450 + 0x1000 * i, 2, 2⟩
abbrev Reg.HEAD.WB_CTRL.HALF (i : Nat) : FRef := ⟨0x10400450 + 0x1000 * i, 1, 1⟩
abbrev Reg.HEAD.WB_CTRL.ENABLE (i : Nat) : FRef := ⟨0x10400450 + 0x1000 * i, 0, 1⟩
abbrev Reg.HEAD.WB_STATUS.FRAMES (i : Nat) : FRef := ⟨0x10400454 + 0x1000 * i, 16, 16⟩
abbrev Reg.HEAD.WB_STATUS.RESULT (i : Nat) : FRef := ⟨0x10400454 + 0x1000 * i, 12, 2⟩
abbrev Reg.HEAD.WB_STATUS.LAST_BUF (i : Nat) : FRef := ⟨0x10400454 + 0x1000 * i, 0, 12⟩
abbrev Reg.HEAD.VIT_STATUS.ACTIVE (i : Nat) : FRef := ⟨0x10400460 + 0x1000 * i, 16, 8⟩
abbrev Reg.HEAD.VIT_STATUS.BAD_DESC (i : Nat) : FRef := ⟨0x10400460 + 0x1000 * i, 8, 8⟩
abbrev Reg.HEAD.VIT_STATUS.MISMATCH (i : Nat) : FRef := ⟨0x10400460 + 0x1000 * i, 0, 8⟩
abbrev Reg.HEAD.VIT_REF.CRC (i j : Nat) : FRef := ⟨0x10400470 + 0x1000 * i + 0x4 * j, 0, 32⟩
abbrev Reg.HEAD.CHASE_FALLBACKS.COUNT (i : Nat) : FRef := ⟨0x10400490 + 0x1000 * i, 0, 32⟩
abbrev Reg.HEAD.REFUSALS.COUNT (i : Nat) : FRef := ⟨0x10400494 + 0x1000 * i, 0, 32⟩
abbrev Reg.HEAD.SLOT_STATUS.CAUSE (i j : Nat) : FRef := ⟨0x10400500 + 0x1000 * i + 0x4 * j, 27, 3⟩
abbrev Reg.HEAD.SLOT_STATUS.STATE (i j : Nat) : FRef := ⟨0x10400500 + 0x1000 * i + 0x4 * j, 24, 3⟩
abbrev Reg.HEAD.SLOT_STATUS.FALLBACK (i j : Nat) : FRef := ⟨0x10400500 + 0x1000 * i + 0x4 * j, 12, 12⟩
abbrev Reg.HEAD.SLOT_STATUS.BUF (i j : Nat) : FRef := ⟨0x10400500 + 0x1000 * i + 0x4 * j, 0, 12⟩
abbrev Reg.HEAD.CTRL.ENABLE_RESULT (i : Nat) : FRef := ⟨0x10400000 + 0x1000 * i, 12, 4⟩
abbrev Reg.HEAD.CTRL.PAIR (i : Nat) : FRef := ⟨0x10400000 + 0x1000 * i, 2, 1⟩
abbrev Reg.HEAD.CTRL.SLEEP (i : Nat) : FRef := ⟨0x10400000 + 0x1000 * i, 1, 1⟩
abbrev Reg.HEAD.CTRL.ENABLE (i : Nat) : FRef := ⟨0x10400000 + 0x1000 * i, 0, 1⟩
abbrev Reg.HEAD.STATUS.LINE (i : Nat) : FRef := ⟨0x10400004 + 0x1000 * i, 16, 13⟩
abbrev Reg.HEAD.STATUS.GL_STATE (i : Nat) : FRef := ⟨0x10400004 + 0x1000 * i, 8, 2⟩
abbrev Reg.HEAD.STATUS.COMMIT_PENDING (i : Nat) : FRef := ⟨0x10400004 + 0x1000 * i, 4, 1⟩
abbrev Reg.HEAD.STATUS.ESCALATED (i : Nat) : FRef := ⟨0x10400004 + 0x1000 * i, 3, 1⟩
abbrev Reg.HEAD.STATUS.RUN_STATE (i : Nat) : FRef := ⟨0x10400004 + 0x1000 * i, 0, 2⟩
abbrev Reg.HEAD.CLK_SEL.PIX_DIV_M1 (i : Nat) : FRef := ⟨0x10400008 + 0x1000 * i, 8, 4⟩
abbrev Reg.HEAD.CLK_SEL.PLL_SEL (i : Nat) : FRef := ⟨0x10400008 + 0x1000 * i, 0, 3⟩
abbrev Reg.HEAD.HTIM_ACT.POL (i : Nat) : FRef := ⟨0x10400010 + 0x1000 * i, 31, 1⟩
abbrev Reg.HEAD.HTIM_ACT.SYNC_M1 (i : Nat) : FRef := ⟨0x10400010 + 0x1000 * i, 16, 13⟩
abbrev Reg.HEAD.HTIM_ACT.ACT_M1 (i : Nat) : FRef := ⟨0x10400010 + 0x1000 * i, 0, 13⟩
abbrev Reg.HEAD.VTIM_ACT.POL (i : Nat) : FRef := ⟨0x10400018 + 0x1000 * i, 31, 1⟩
abbrev Reg.HEAD.VTIM_ACT.SYNC_M1 (i : Nat) : FRef := ⟨0x10400018 + 0x1000 * i, 16, 13⟩
abbrev Reg.HEAD.VTIM_ACT.ACT_M1 (i : Nat) : FRef := ⟨0x10400018 + 0x1000 * i, 0, 13⟩
abbrev Reg.HEAD.HTIM_PORCH.BP_M1 (i : Nat) : FRef := ⟨0x10400014 + 0x1000 * i, 16, 13⟩
abbrev Reg.HEAD.HTIM_PORCH.FP_M1 (i : Nat) : FRef := ⟨0x10400014 + 0x1000 * i, 0, 13⟩
abbrev Reg.HEAD.VTIM_PORCH.BP_M1 (i : Nat) : FRef := ⟨0x1040001C + 0x1000 * i, 16, 13⟩
abbrev Reg.HEAD.VTIM_PORCH.FP_M1 (i : Nat) : FRef := ⟨0x1040001C + 0x1000 * i, 0, 13⟩
abbrev Reg.HEAD.SCAN_CTRL.PREFETCH_LINES (i : Nat) : FRef := ⟨0x10400020 + 0x1000 * i, 0, 8⟩
abbrev Reg.HEAD.FIFO_WM.FIFO_HI (i : Nat) : FRef := ⟨0x10400024 + 0x1000 * i, 16, 10⟩
abbrev Reg.HEAD.FIFO_WM.FIFO_LO (i : Nat) : FRef := ⟨0x10400024 + 0x1000 * i, 0, 10⟩
abbrev Reg.HEAD.UNDERRUN_COLOUR.UR_PLINTH (i : Nat) : FRef := ⟨0x10400028 + 0x1000 * i, 31, 1⟩
abbrev Reg.HEAD.UNDERRUN_COLOUR.R (i : Nat) : FRef := ⟨0x10400028 + 0x1000 * i, 20, 10⟩
abbrev Reg.HEAD.UNDERRUN_COLOUR.G (i : Nat) : FRef := ⟨0x10400028 + 0x1000 * i, 10, 10⟩
abbrev Reg.HEAD.UNDERRUN_COLOUR.B (i : Nat) : FRef := ⟨0x10400028 + 0x1000 * i, 0, 10⟩
abbrev Reg.HEAD.GL_CTRL.TRIM_MAX_PPM (i : Nat) : FRef := ⟨0x10400030 + 0x1000 * i, 16, 8⟩
abbrev Reg.HEAD.GL_CTRL.RATE (i : Nat) : FRef := ⟨0x10400030 + 0x1000 * i, 4, 4⟩
abbrev Reg.HEAD.GL_CTRL.GL_EN (i : Nat) : FRef := ⟨0x10400030 + 0x1000 * i, 0, 1⟩
abbrev Reg.HEAD.GL_OFFSET_NS.OFFSET (i : Nat) : FRef := ⟨0x10400034 + 0x1000 * i, 0, 32⟩
abbrev Reg.HEAD.GL_WINDOW.LOCK_WINDOW_NS (i : Nat) : FRef := ⟨0x10400038 + 0x1000 * i, 0, 16⟩
abbrev Reg.HEAD.GL_ERROR.E_NS (i : Nat) : FRef := ⟨0x1040003C + 0x1000 * i, 0, 32⟩
abbrev Reg.HEAD.GL_TRIM.TRIM_PPB (i : Nat) : FRef := ⟨0x10400040 + 0x1000 * i, 0, 32⟩
abbrev Reg.HEAD.COMMIT.COMMIT (i : Nat) : FRef := ⟨0x10400050 + 0x1000 * i, 0, 1⟩
abbrev Reg.HEAD.COMMIT_TARGET.FRAME (i : Nat) : FRef := ⟨0x10400054 + 0x1000 * i, 0, 32⟩
abbrev Reg.HEAD.COMMIT_STATUS.RESULT (i : Nat) : FRef := ⟨0x10400058 + 0x1000 * i, 0, 4⟩
abbrev Reg.HEAD.FRAME.COUNT (i : Nat) : FRef := ⟨0x10400060 + 0x1000 * i, 0, 32⟩
abbrev Reg.HEAD.FLIP_NS.NS (i : Nat) : FRef := ⟨0x10400064 + 0x1000 * i, 0, 30⟩
abbrev Reg.HEAD.FLIP_SEC_LO.SEC_LO (i : Nat) : FRef := ⟨0x10400068 + 0x1000 * i, 0, 32⟩
abbrev Reg.HEAD.FLIP_SEC_HI.SEC_HI (i : Nat) : FRef := ⟨0x1040006C + 0x1000 * i, 0, 16⟩
abbrev Reg.HEAD.UNDERRUNS.LINES (i : Nat) : FRef := ⟨0x10400070 + 0x1000 * i, 0, 32⟩
abbrev Reg.HEAD.UNDERRUN_FRAMES.FRAMES (i : Nat) : FRef := ⟨0x10400074 + 0x1000 * i, 0, 32⟩
abbrev Reg.HEAD.FIFO_MIN.CLR (i : Nat) : FRef := ⟨0x10400078 + 0x1000 * i, 31, 1⟩
abbrev Reg.HEAD.FIFO_MIN.MIN (i : Nat) : FRef := ⟨0x10400078 + 0x1000 * i, 0, 10⟩
abbrev Reg.HEAD.ESCALATIONS.COUNT (i : Nat) : FRef := ⟨0x1040007C + 0x1000 * i, 0, 32⟩

/-- The registers of HEAD, part 1. -/
def regsHEAD0 : List RegWord := [
  ⟨0x10400400, [(0x1000, 64)], [fAny 0 20 .rwk 0 .s false]⟩,
  ⟨0x10400404, [(0x1000, 64)], [fAny 0 20 .rwk 0 .s false]⟩,
  ⟨0x10400408, [(0x1000, 64)], [fAny 0 20 .rwk 0 .s false]⟩,
  ⟨0x1040040C, [(0x1000, 64)], [fAny 4 1 .rwk 0 .s false, fAny 3 1 .rwk 0 .s false, fAny 2 1 .rwk 0 .s false, fAny 1 1 .rwk 0 .s false, fAny 0 1 .rwk 0 .s false]⟩,
  ⟨0x10400410, [(0x1000, 64)], [fAny 16 16 .rwk 0 .s false, fAny 0 16 .rwk 0x1000 .s false]⟩,
  ⟨0x10400414, [(0x1000, 64)], [fAny 16 16 .rwk 0 .s false, fAny 0 16 .rwk 0 .s false]⟩,
  ⟨0x10400418, [(0x1000, 64)], [fAny 16 16 .rwk 0 .s false, fAny 0 16 .rwk 0x1000 .s false]⟩,
  ⟨0x1040041C, [(0x1000, 64)], [fAny 16 16 .rwk 0 .s false, fAny 0 16 .rwk 0 .s false]⟩,
  ⟨0x10400420, [(0x1000, 64)], [fAny 0 16 .rwk 0x1000 .s false]⟩,
  ⟨0x10400424, [(0x1000, 64)], [fAny 16 12 .rwk 0 .s false, fAny 0 12 .rwk 0 .s false]⟩,
  ⟨0x10400428, [(0x1000, 64)], [fAny 0 12 .rwk 0 .s false]⟩,
  ⟨0x1040042C, [(0x1000, 64)], [fAny 12 1 .rw 0 .s false, fAny 0 12 .rw 0 .s false]⟩,
  ⟨0x10400430, [(0x1000, 64)], [fAny 0 16 .rw 0 .s false]⟩,
  ⟨0x10400440, [(0x1000, 64)], [fIn 0 16 .rwk 100 .s false 1 65535]⟩,
  ⟨0x10400444, [(0x1000, 64)], [fAny 1 31 .w1c 0 .s false]⟩,
  ⟨0x10400450, [(0x1000, 64)], [fAny 16 9 .rwk 0 .s false, fAny 4 4 .rwk 9 .s false, fIn 2 2 .rwk 0 .s false 0 2, fAny 1 1 .rwk 0 .s false, fAny 0 1 .rwk 0 .s false]⟩]

/-- The registers of HEAD, part 2. -/
def regsHEAD1 : List RegWord := [
  ⟨0x10400454, [(0x1000, 64)], [fAny 16 16 .ro 0 .s false, fAny 12 2 .ro 0 .s false, fAny 0 12 .ro 0 .s false]⟩,
  ⟨0x10400460, [(0x1000, 64)], [fAny 16 8 .ro 0 .s false, fAny 8 8 .w1c 0 .s false, fAny 0 8 .w1c 0 .s false]⟩,
  ⟨0x10400470, [(0x1000, 64), (0x4, 8)], [fAny 0 32 .ro 0 .s false]⟩,
  ⟨0x10400490, [(0x1000, 64)], [fAny 0 32 .ro 0 .s false]⟩,
  ⟨0x10400494, [(0x1000, 64)], [fAny 0 32 .ro 0 .s false]⟩,
  ⟨0x10400500, [(0x1000, 64), (0x4, 32)], [fAny 27 3 .ro 0 .s false, fAny 24 3 .ro 0 .s false, fAny 12 12 .ro 0 .s false, fAny 0 12 .ro 0 .s false]⟩,
  ⟨0x10400000, [(0x1000, 64)], [fAny 12 4 .ro 0 .s false, fAny 2 1 .rw 0 .s false, fAny 1 1 .rw 0 .s false, fAny 0 1 .rw 0 .s false]⟩,
  ⟨0x10400004, [(0x1000, 64)], [fAny 16 13 .ro 0 .s false, fAny 8 2 .ro 0 .s false, fAny 4 1 .ro 0 .s false, fAny 3 1 .ro 0 .s false, fAny 0 2 .ro 0 .s false]⟩,
  ⟨0x10400008, [(0x1000, 64)], [fAny 8 4 .rw 0 .s false, fAny 0 3 .rw 0 .s false]⟩,
  ⟨0x10400010, [(0x1000, 64)], [fAny 31 1 .rwk 1 .s false, fAny 16 13 .rwk 0 .s false, fAny 0 13 .rwk 0 .s false]⟩,
  ⟨0x10400018, [(0x1000, 64)], [fAny 31 1 .rwk 1 .s false, fAny 16 13 .rwk 0 .s false, fAny 0 13 .rwk 0 .s false]⟩,
  ⟨0x10400014, [(0x1000, 64)], [fAny 16 13 .rwk 0 .s false, fAny 0 13 .rwk 0 .s false]⟩,
  ⟨0x1040001C, [(0x1000, 64)], [fAny 16 13 .rwk 0 .s false, fAny 0 13 .rwk 0 .s false]⟩,
  ⟨0x10400020, [(0x1000, 64)], [fAny 0 8 .rwk 8 .s false]⟩,
  ⟨0x10400024, [(0x1000, 64)], [fAny 16 10 .rwk 384 .s false, fAny 0 10 .rwk 128 .s false]⟩,
  ⟨0x10400028, [(0x1000, 64)], [fAny 31 1 .rwk 1 .s false, fAny 20 10 .rwk 0 .s false, fAny 10 10 .rwk 0 .s false, fAny 0 10 .rwk 0 .s false]⟩]

/-- The registers of HEAD, part 3. -/
def regsHEAD2 : List RegWord := [
  ⟨0x10400030, [(0x1000, 64)], [fIn 16 8 .rwk 100 .s false 1 255, fIn 4 4 .rwk 0 .s false 0 11, fAny 0 1 .rwk 0 .s false]⟩,
  ⟨0x10400034, [(0x1000, 64)], [fAny 0 32 .rwk 0 .s false]⟩,
  ⟨0x10400038, [(0x1000, 64)], [fIn 0 16 .rwk 1000 .s false 1 65535]⟩,
  ⟨0x1040003C, [(0x1000, 64)], [fAny 0 32 .ro 0 .s false]⟩,
  ⟨0x10400040, [(0x1000, 64)], [fAny 0 32 .ro 0 .s false]⟩,
  ⟨0x10400050, [(0x1000, 64)], [fAny 0 1 .w1s 0 .s false]⟩,
  ⟨0x10400054, [(0x1000, 64)], [fAny 0 32 .ro 0 .s false]⟩,
  ⟨0x10400058, [(0x1000, 64)], [fAny 0 4 .ro 0 .s false]⟩,
  ⟨0x10400060, [(0x1000, 64)], [fAny 0 32 .ro 0 .s false]⟩,
  ⟨0x10400064, [(0x1000, 64)], [fAny 0 30 .ro 0 .s false]⟩,
  ⟨0x10400068, [(0x1000, 64)], [fAny 0 32 .ro 0 .s false]⟩,
  ⟨0x1040006C, [(0x1000, 64)], [fAny 0 16 .ro 0 .s false]⟩,
  ⟨0x10400070, [(0x1000, 64)], [fAny 0 32 .ro 0 .s false]⟩,
  ⟨0x10400074, [(0x1000, 64)], [fAny 0 32 .ro 0 .s false]⟩,
  ⟨0x10400078, [(0x1000, 64)], [fAny 31 1 .w1s 0 .s false, fAny 0 10 .ro 512 .s false]⟩,
  ⟨0x1040007C, [(0x1000, 64)], [fAny 0 32 .ro 0 .s false]⟩]

/-- The registers of HEAD. -/
def regsHEAD : List RegWord := regsHEAD0 ++ regsHEAD1 ++ regsHEAD2

/-! ### HEADS -/

abbrev Reg.HEAD.RELEASE.BUF_ID : FRef := ⟨0x10440000, 0, 12⟩
abbrev Reg.HEAD.REL_STATUS.STALL : FRef := ⟨0x10440004, 31, 1⟩
abbrev Reg.HEAD.REL_STATUS.RELEASING : FRef := ⟨0x10440004, 16, 13⟩
abbrev Reg.HEAD.REL_STATUS.LAST_RESULT : FRef := ⟨0x10440004, 0, 4⟩
abbrev Reg.HEAD.REL_RING_BASE.ADDR : FRef := ⟨0x10440008, 0, 24⟩
abbrev Reg.HEAD.REL_RING_SIZE.LOG2 : FRef := ⟨0x1044000C, 0, 4⟩
abbrev Reg.HEAD.REL_RING_WR.INDEX : FRef := ⟨0x10440010, 0, 12⟩
abbrev Reg.HEAD.REL_RING_RD.INDEX : FRef := ⟨0x10440014, 0, 12⟩

/-- The registers of HEADS. -/
def regsHEADS : List RegWord := [
  ⟨0x10440000, [], [fAny 0 12 .wo 0 .s false]⟩,
  ⟨0x10440004, [], [fAny 31 1 .ro 0 .s false, fAny 16 13 .ro 0 .s false, fAny 0 4 .ro 0 .s false]⟩,
  ⟨0x10440008, [], [fAny 0 24 .rw 0 .s false]⟩,
  ⟨0x1044000C, [], [fIn 0 4 .rw 8 .s false 4 12]⟩,
  ⟨0x10440010, [], [fAny 0 12 .ro 0 .s false]⟩,
  ⟨0x10440014, [], [fAny 0 12 .rw 0 .s false]⟩]

/-! ### NET -/

abbrev Reg.NET.CTRL.PORT_EN (i : Nat) : FRef := ⟨0x10500000 + 0x10000 * i, 8, 4⟩
abbrev Reg.NET.CTRL.FEC_EN (i : Nat) : FRef := ⟨0x10500000 + 0x10000 * i, 4, 4⟩
abbrev Reg.NET.CTRL.MODE (i : Nat) : FRef := ⟨0x10500000 + 0x10000 * i, 0, 2⟩
abbrev Reg.NET.PORT.LINK_CHANGES (i j : Nat) : FRef := ⟨0x10500100 + 0x10000 * i + 0x40 * j, 16, 16⟩
abbrev Reg.NET.PORT.HI_BER (i j : Nat) : FRef := ⟨0x10500100 + 0x10000 * i + 0x40 * j, 3, 1⟩
abbrev Reg.NET.PORT.FEC_LOCK (i j : Nat) : FRef := ⟨0x10500100 + 0x10000 * i + 0x40 * j, 2, 1⟩
abbrev Reg.NET.PORT.BLOCK_LOCK (i j : Nat) : FRef := ⟨0x10500100 + 0x10000 * i + 0x40 * j, 1, 1⟩
abbrev Reg.NET.PORT.LINK (i j : Nat) : FRef := ⟨0x10500100 + 0x10000 * i + 0x40 * j, 0, 1⟩
abbrev Reg.NET.PORT.MAC_LO (i j : Nat) : FRef := ⟨0x10500104 + 0x10000 * i + 0x40 * j, 0, 32⟩
abbrev Reg.NET.PORT.MAC_HI (i j : Nat) : FRef := ⟨0x10500108 + 0x10000 * i + 0x40 * j, 0, 16⟩
abbrev Reg.NET.PORT.IPV4 (i j : Nat) : FRef := ⟨0x1050010C + 0x10000 * i + 0x40 * j, 0, 32⟩
abbrev Reg.NET.PORT.RX_FRAMES (i j : Nat) : FRef := ⟨0x10500110 + 0x10000 * i + 0x40 * j, 0, 32⟩
abbrev Reg.NET.PORT.RX_BAD (i j : Nat) : FRef := ⟨0x10500114 + 0x10000 * i + 0x40 * j, 0, 32⟩
abbrev Reg.NET.PORT.RX_UNMATCHED (i j : Nat) : FRef := ⟨0x10500118 + 0x10000 * i + 0x40 * j, 0, 32⟩
abbrev Reg.NET.PORT.RX_OVERFLOW (i j : Nat) : FRef := ⟨0x1050011C + 0x10000 * i + 0x40 * j, 0, 32⟩
abbrev Reg.NET.PORT.RX_PAUSE (i j : Nat) : FRef := ⟨0x10500120 + 0x10000 * i + 0x40 * j, 0, 32⟩
abbrev Reg.NET.PORT.FEC_CORR (i j : Nat) : FRef := ⟨0x10500124 + 0x10000 * i + 0x40 * j, 0, 32⟩
abbrev Reg.NET.PORT.FEC_UNCORR (i j : Nat) : FRef := ⟨0x10500128 + 0x10000 * i + 0x40 * j, 0, 32⟩
abbrev Reg.NET.PORT.TX_FRAMES (i j : Nat) : FRef := ⟨0x1050012C + 0x10000 * i + 0x40 * j, 0, 32⟩

/-- The registers of NET. -/
def regsNET : List RegWord := [
  ⟨0x10500000, [(0x10000, 4)], [fAny 8 4 .rw 0 .s false, fAny 4 4 .rw 0 .s false, fAny 0 2 .rw 0 .s false]⟩,
  ⟨0x10500100, [(0x10000, 4), (0x40, 4)], [fAny 16 16 .ro 0 .s false, fAny 3 1 .ro 0 .s false, fAny 2 1 .ro 0 .s false, fAny 1 1 .ro 0 .s false, fAny 0 1 .ro 0 .s false]⟩,
  ⟨0x10500104, [(0x10000, 4), (0x40, 4)], [fAny 0 32 .rw 0 .s false]⟩,
  ⟨0x10500108, [(0x10000, 4), (0x40, 4)], [fAny 0 16 .rw 0 .s false]⟩,
  ⟨0x1050010C, [(0x10000, 4), (0x40, 4)], [fAny 0 32 .rw 0 .s false]⟩,
  ⟨0x10500110, [(0x10000, 4), (0x40, 4)], [fAny 0 32 .ro 0 .s false]⟩,
  ⟨0x10500114, [(0x10000, 4), (0x40, 4)], [fAny 0 32 .ro 0 .s false]⟩,
  ⟨0x10500118, [(0x10000, 4), (0x40, 4)], [fAny 0 32 .ro 0 .s false]⟩,
  ⟨0x1050011C, [(0x10000, 4), (0x40, 4)], [fAny 0 32 .ro 0 .s false]⟩,
  ⟨0x10500120, [(0x10000, 4), (0x40, 4)], [fAny 0 32 .ro 0 .s false]⟩,
  ⟨0x10500124, [(0x10000, 4), (0x40, 4)], [fAny 0 32 .ro 0 .s false]⟩,
  ⟨0x10500128, [(0x10000, 4), (0x40, 4)], [fAny 0 32 .ro 0 .s false]⟩,
  ⟨0x1050012C, [(0x10000, 4), (0x40, 4)], [fAny 0 32 .ro 0 .s false]⟩]

/-! ### MGMT -/

abbrev Reg.MGMT.CTRL.RX_DELAY : FRef := ⟨0x10540000, 2, 1⟩
abbrev Reg.MGMT.CTRL.TX_DELAY : FRef := ⟨0x10540000, 1, 1⟩
abbrev Reg.MGMT.CTRL.ENABLE : FRef := ⟨0x10540000, 0, 1⟩
abbrev Reg.MGMT.MAC_LO : FRef := ⟨0x10540004, 0, 32⟩
abbrev Reg.MGMT.MAC_HI : FRef := ⟨0x10540008, 0, 16⟩
abbrev Reg.MGMT.MDIO.GO : FRef := ⟨0x1054000C, 31, 1⟩
abbrev Reg.MGMT.MDIO.WRITE : FRef := ⟨0x1054000C, 30, 1⟩
abbrev Reg.MGMT.MDIO.PHY_ADDR : FRef := ⟨0x1054000C, 25, 5⟩
abbrev Reg.MGMT.MDIO.REG_ADDR : FRef := ⟨0x1054000C, 20, 5⟩
abbrev Reg.MGMT.MDIO.DATA : FRef := ⟨0x1054000C, 0, 16⟩

/-- The registers of MGMT. -/
def regsMGMT : List RegWord := [
  ⟨0x10540000, [], [fAny 2 1 .rw 0 .s false, fAny 1 1 .rw 0 .s false, fAny 0 1 .rw 0 .s false]⟩,
  ⟨0x10540004, [], [fAny 0 32 .rw 0 .s false]⟩,
  ⟨0x10540008, [], [fAny 0 16 .rw 0 .s false]⟩,
  ⟨0x1054000C, [], [fAny 31 1 .w1s 0 .s false, fAny 30 1 .rw 0 .s false, fAny 25 5 .rw 0 .s false, fAny 20 5 .rw 0 .s false, fAny 0 16 .rw 0 .s false]⟩]

/-! ### LANE -/

abbrev Reg.LANE.TEST_EN (i j : Nat) : FRef := ⟨0x10600000 + 0x1000 * i + 0x200 * j, 31, 1⟩
abbrev Reg.LANE.LOOPBACK (i j : Nat) : FRef := ⟨0x10600000 + 0x1000 * i + 0x200 * j, 28, 2⟩
abbrev Reg.LANE.LB_TX_IDLE (i j : Nat) : FRef := ⟨0x10600000 + 0x1000 * i + 0x200 * j, 27, 1⟩
abbrev Reg.LANE.ADAPT_FREEZE (i j : Nat) : FRef := ⟨0x10600000 + 0x1000 * i + 0x200 * j, 9, 1⟩
abbrev Reg.LANE.ADAPT_RESTART (i j : Nat) : FRef := ⟨0x10600000 + 0x1000 * i + 0x200 * j, 8, 1⟩
abbrev Reg.LANE.RX_INVERT (i j : Nat) : FRef := ⟨0x10600000 + 0x1000 * i + 0x200 * j, 5, 1⟩
abbrev Reg.LANE.TX_INVERT (i j : Nat) : FRef := ⟨0x10600000 + 0x1000 * i + 0x200 * j, 4, 1⟩
abbrev Reg.LANE.LOL_EVT_EN (i j : Nat) : FRef := ⟨0x10600000 + 0x1000 * i + 0x200 * j, 1, 1⟩
abbrev Reg.LANE.LOS_EVT_EN (i j : Nat) : FRef := ⟨0x10600000 + 0x1000 * i + 0x200 * j, 0, 1⟩
abbrev Reg.LANE.OWNER (i j : Nat) : FRef := ⟨0x10600004 + 0x1000 * i + 0x200 * j, 28, 3⟩
abbrev Reg.LANE.PSTATE (i j : Nat) : FRef := ⟨0x10600004 + 0x1000 * i + 0x200 * j, 24, 2⟩
abbrev Reg.LANE.ADAPT (i j : Nat) : FRef := ⟨0x10600004 + 0x1000 * i + 0x200 * j, 20, 2⟩
abbrev Reg.LANE.BLOCK_LOCK (i j : Nat) : FRef := ⟨0x10600004 + 0x1000 * i + 0x200 * j, 3, 1⟩
abbrev Reg.LANE.ALIGNED (i j : Nat) : FRef := ⟨0x10600004 + 0x1000 * i + 0x200 * j, 2, 1⟩
abbrev Reg.LANE.LOL (i j : Nat) : FRef := ⟨0x10600004 + 0x1000 * i + 0x200 * j, 1, 1⟩
abbrev Reg.LANE.LOS (i j : Nat) : FRef := ⟨0x10600004 + 0x1000 * i + 0x200 * j, 0, 1⟩
abbrev Reg.LANE.BLOCK_LOST (i j : Nat) : FRef := ⟨0x10600008 + 0x1000 * i + 0x200 * j, 3, 1⟩
abbrev Reg.LANE.ALIGN_LOST (i j : Nat) : FRef := ⟨0x10600008 + 0x1000 * i + 0x200 * j, 2, 1⟩
abbrev Reg.LANE.LOL_SEEN (i j : Nat) : FRef := ⟨0x10600008 + 0x1000 * i + 0x200 * j, 1, 1⟩
abbrev Reg.LANE.LOS_SEEN (i j : Nat) : FRef := ⟨0x10600008 + 0x1000 * i + 0x200 * j, 0, 1⟩
abbrev Reg.LANE.OWNED (i j : Nat) : FRef := ⟨0x1060000C + 0x1000 * i + 0x200 * j, 31, 1⟩
abbrev Reg.LANE.PRE (i j : Nat) : FRef := ⟨0x1060000C + 0x1000 * i + 0x200 * j, 16, 4⟩
abbrev Reg.LANE.MAIN (i j : Nat) : FRef := ⟨0x1060000C + 0x1000 * i + 0x200 * j, 8, 6⟩
abbrev Reg.LANE.POST (i j : Nat) : FRef := ⟨0x1060000C + 0x1000 * i + 0x200 * j, 0, 5⟩
abbrev Reg.LANE.CTLE (i j : Nat) : FRef := ⟨0x10600010 + 0x1000 * i + 0x200 * j, 24, 4⟩
abbrev Reg.LANE.DFE1 (i j : Nat) : FRef := ⟨0x10600010 + 0x1000 * i + 0x200 * j, 16, 7⟩
abbrev Reg.LANE.DFE2 (i j : Nat) : FRef := ⟨0x10600010 + 0x1000 * i + 0x200 * j, 8, 5⟩
abbrev Reg.LANE.DFE3 (i j : Nat) : FRef := ⟨0x10600010 + 0x1000 * i + 0x200 * j, 0, 5⟩
abbrev Reg.LANE.DFE4 (i j : Nat) : FRef := ⟨0x10600014 + 0x1000 * i + 0x200 * j, 8, 5⟩
abbrev Reg.LANE.DFE5 (i j : Nat) : FRef := ⟨0x10600014 + 0x1000 * i + 0x200 * j, 0, 5⟩
abbrev Reg.LANE.LOS_THR_MV (i j : Nat) : FRef := ⟨0x10600018 + 0x1000 * i + 0x200 * j, 0, 8⟩
abbrev Reg.LANE.CODE_ERR (i j : Nat) : FRef := ⟨0x1060001C + 0x1000 * i + 0x200 * j, 16, 16⟩
abbrev Reg.LANE.REALIGNS (i j : Nat) : FRef := ⟨0x1060001C + 0x1000 * i + 0x200 * j, 0, 16⟩
abbrev Reg.LANE.SYNC_HDR_ERR (i j : Nat) : FRef := ⟨0x10600020 + 0x1000 * i + 0x200 * j, 16, 16⟩
abbrev Reg.LANE.LOCK_LOSSES (i j : Nat) : FRef := ⟨0x10600020 + 0x1000 * i + 0x200 * j, 0, 16⟩
abbrev Reg.LANE.LOS_EVENTS (i j : Nat) : FRef := ⟨0x10600024 + 0x1000 * i + 0x200 * j, 16, 16⟩
abbrev Reg.LANE.LOL_EVENTS (i j : Nat) : FRef := ⟨0x10600024 + 0x1000 * i + 0x200 * j, 0, 16⟩
abbrev Reg.LANE.PRBS.INJECT (i j : Nat) : FRef := ⟨0x10600028 + 0x1000 * i + 0x200 * j, 31, 1⟩
abbrev Reg.LANE.PRBS.INJ_LOG2 (i j : Nat) : FRef := ⟨0x10600028 + 0x1000 * i + 0x200 * j, 24, 5⟩
abbrev Reg.LANE.PRBS.CHK_EN (i j : Nat) : FRef := ⟨0x10600028 + 0x1000 * i + 0x200 * j, 9, 1⟩
abbrev Reg.LANE.PRBS.GEN_EN (i j : Nat) : FRef := ⟨0x10600028 + 0x1000 * i + 0x200 * j, 8, 1⟩
abbrev Reg.LANE.PRBS.CHK_PAT (i j : Nat) : FRef := ⟨0x10600028 + 0x1000 * i + 0x200 * j, 4, 2⟩
abbrev Reg.LANE.PRBS.GEN_PAT (i j : Nat) : FRef := ⟨0x10600028 + 0x1000 * i + 0x200 * j, 0, 2⟩
abbrev Reg.LANE.PRBS.LOCK (i j : Nat) : FRef := ⟨0x1060002C + 0x1000 * i + 0x200 * j, 31, 1⟩
abbrev Reg.LANE.PRBS.CLR (i j : Nat) : FRef := ⟨0x1060002C + 0x1000 * i + 0x200 * j, 30, 1⟩
abbrev Reg.LANE.PRBS.PRBS_LOCK_LOSSES (i j : Nat) : FRef := ⟨0x1060002C + 0x1000 * i + 0x200 * j, 0, 16⟩
abbrev Reg.LANE.ERRORS (i j : Nat) : FRef := ⟨0x10600030 + 0x1000 * i + 0x200 * j, 0, 32⟩
abbrev Reg.LANE.BITS_LO (i j : Nat) : FRef := ⟨0x10600034 + 0x1000 * i + 0x200 * j, 0, 32⟩
abbrev Reg.LANE.BITS_HI (i j : Nat) : FRef := ⟨0x10600038 + 0x1000 * i + 0x200 * j, 0, 32⟩
abbrev Reg.QUAD.REF_SEL (i : Nat) : FRef := ⟨0x10600800 + 0x1000 * i, 24, 2⟩
abbrev Reg.QUAD.TEST_RATE (i : Nat) : FRef := ⟨0x10600800 + 0x1000 * i, 16, 4⟩
abbrev Reg.QUAD.TEST_SSC (i : Nat) : FRef := ⟨0x10600800 + 0x1000 * i, 8, 1⟩
abbrev Reg.QUAD.PLL_LOCK (i : Nat) : FRef := ⟨0x10600804 + 0x1000 * i, 31, 1⟩
abbrev Reg.QUAD.RATE (i : Nat) : FRef := ⟨0x10600804 + 0x1000 * i, 16, 4⟩
abbrev Reg.QUAD.SSC (i : Nat) : FRef := ⟨0x10600804 + 0x1000 * i, 8, 1⟩
abbrev Reg.QUAD.LOL_SEEN (i : Nat) : FRef := ⟨0x10600808 + 0x1000 * i, 4, 4⟩
abbrev Reg.QUAD.LOS_SEEN (i : Nat) : FRef := ⟨0x10600808 + 0x1000 * i, 0, 4⟩
abbrev Reg.QUAD.PLL_LOSSES (i : Nat) : FRef := ⟨0x1060080C + 0x1000 * i, 0, 16⟩

/-- The registers of LANE, part 1. -/
def regsLANE0 : List RegWord := [
  ⟨0x10600000, [(0x1000, 20), (0x200, 4)], [fAny 31 1 .rw 0 .s false, fAny 28 2 .rw 0 .s false, fAny 27 1 .rw 0 .s false, fAny 9 1 .rw 0 .s false, fAny 8 1 .w1s 0 .s false, fAny 5 1 .rw 0 .s false, fAny 4 1 .rw 0 .s false, fAny 1 1 .rw 1 .s false, fAny 0 1 .rw 1 .s false]⟩,
  ⟨0x10600004, [(0x1000, 20), (0x200, 4)], [fAny 28 3 .ro 0 .s false, fAny 24 2 .ro 2 .s false, fAny 20 2 .ro 0 .s false, fAny 3 1 .ro 0 .s false, fAny 2 1 .ro 0 .s false, fAny 1 1 .ro 0 .s false, fAny 0 1 .ro 0 .s false]⟩,
  ⟨0x10600008, [(0x1000, 20), (0x200, 4)], [fAny 3 1 .w1c 0 .s false, fAny 2 1 .w1c 0 .s false, fAny 1 1 .w1c 0 .s false, fAny 0 1 .w1c 0 .s false]⟩,
  ⟨0x1060000C, [(0x1000, 20), (0x200, 4)], [fAny 31 1 .ro 0 .s false, fAny 16 4 .rw 0 .s false, fAny 8 6 .rw 44 .s false, fAny 0 5 .rw 8 .s false]⟩,
  ⟨0x10600010, [(0x1000, 20), (0x200, 4)], [fAny 24 4 .ro 8 .s false, fAny 16 7 .ro 0 .s false, fAny 8 5 .ro 0 .s false, fAny 0 5 .ro 0 .s false]⟩,
  ⟨0x10600014, [(0x1000, 20), (0x200, 4)], [fAny 8 5 .ro 0 .s false, fAny 0 5 .ro 0 .s false]⟩,
  ⟨0x10600018, [(0x1000, 20), (0x200, 4)], [fIn 0 8 .rw 60 .s false 20 250]⟩,
  ⟨0x1060001C, [(0x1000, 20), (0x200, 4)], [fAny 16 16 .ro 0 .s false, fAny 0 16 .ro 0 .s false]⟩,
  ⟨0x10600020, [(0x1000, 20), (0x200, 4)], [fAny 16 16 .ro 0 .s false, fAny 0 16 .ro 0 .s false]⟩,
  ⟨0x10600024, [(0x1000, 20), (0x200, 4)], [fAny 16 16 .ro 0 .s false, fAny 0 16 .ro 0 .s false]⟩,
  ⟨0x10600028, [(0x1000, 20), (0x200, 4)], [fAny 31 1 .w1s 0 .s false, fAny 24 5 .rw 0 .s false, fAny 9 1 .rw 0 .s false, fAny 8 1 .rw 0 .s false, fIn 4 2 .rw 0 .s false 0 2, fIn 0 2 .rw 0 .s false 0 2]⟩,
  ⟨0x1060002C, [(0x1000, 20), (0x200, 4)], [fAny 31 1 .ro 0 .s false, fAny 30 1 .w1s 0 .s false, fAny 0 16 .ro 0 .s false]⟩,
  ⟨0x10600030, [(0x1000, 20), (0x200, 4)], [fAny 0 32 .ro 0 .s false]⟩,
  ⟨0x10600034, [(0x1000, 20), (0x200, 4)], [fAny 0 32 .ro 0 .s false]⟩,
  ⟨0x10600038, [(0x1000, 20), (0x200, 4)], [fAny 0 32 .ro 0 .s false]⟩,
  ⟨0x10600800, [(0x1000, 20)], [fAny 24 2 .rw 0 .s false, fAny 16 4 .rw 0 .s false, fAny 8 1 .rw 0 .s false]⟩]

/-- The registers of LANE, part 2. -/
def regsLANE1 : List RegWord := [
  ⟨0x10600804, [(0x1000, 20)], [fAny 31 1 .ro 0 .s false, fAny 16 4 .ro 0 .s false, fAny 8 1 .ro 0 .s false]⟩,
  ⟨0x10600808, [(0x1000, 20)], [fAny 4 4 .ro 0 .s false, fAny 0 4 .ro 0 .s false]⟩,
  ⟨0x1060080C, [(0x1000, 20)], [fAny 0 16 .ro 0 .s false]⟩]

/-- The registers of LANE. -/
def regsLANE : List RegWord := regsLANE0 ++ regsLANE1

/-! ### DPTX -/

abbrev Reg.DPTX.CTRL.TRAIN (i : Nat) : FRef := ⟨0x10700000 + 0x400 * i, 31, 1⟩
abbrev Reg.DPTX.CTRL.ENCODING (i : Nat) : FRef := ⟨0x10700000 + 0x400 * i, 21, 1⟩
abbrev Reg.DPTX.CTRL.SSC_EN (i : Nat) : FRef := ⟨0x10700000 + 0x400 * i, 20, 1⟩
abbrev Reg.DPTX.CTRL.AUTO_RETRAIN (i : Nat) : FRef := ⟨0x10700000 + 0x400 * i, 19, 1⟩
abbrev Reg.DPTX.CTRL.AUTO_TRAIN (i : Nat) : FRef := ⟨0x10700000 + 0x400 * i, 18, 1⟩
abbrev Reg.DPTX.CTRL.RATE (i : Nat) : FRef := ⟨0x10700000 + 0x400 * i, 16, 2⟩
abbrev Reg.DPTX.CTRL.LANES (i : Nat) : FRef := ⟨0x10700000 + 0x400 * i, 14, 2⟩
abbrev Reg.DPTX.CTRL.LANE_BASE (i : Nat) : FRef := ⟨0x10700000 + 0x400 * i, 8, 6⟩
abbrev Reg.DPTX.CTRL.ENABLE (i : Nat) : FRef := ⟨0x10700000 + 0x400 * i, 0, 1⟩
abbrev Reg.DPTX.STATUS.ENABLE_RESULT (i : Nat) : FRef := ⟨0x10700004 + 0x400 * i, 28, 4⟩
abbrev Reg.DPTX.STATUS.RESULT (i : Nat) : FRef := ⟨0x10700004 + 0x400 * i, 24, 4⟩
abbrev Reg.DPTX.STATUS.ATTEMPTS (i : Nat) : FRef := ⟨0x10700004 + 0x400 * i, 16, 3⟩
abbrev Reg.DPTX.STATUS.HPD (i : Nat) : FRef := ⟨0x10700004 + 0x400 * i, 8, 1⟩
abbrev Reg.DPTX.STATUS.LINK (i : Nat) : FRef := ⟨0x10700004 + 0x400 * i, 0, 3⟩
abbrev Reg.DPTX.SINK.DPCD_REV (i : Nat) : FRef := ⟨0x10700008 + 0x400 * i, 24, 8⟩
abbrev Reg.DPTX.SINK.MAX_LINK_RATE (i : Nat) : FRef := ⟨0x10700008 + 0x400 * i, 16, 8⟩
abbrev Reg.DPTX.SINK.MAX_LANE_COUNT (i : Nat) : FRef := ⟨0x10700008 + 0x400 * i, 8, 5⟩
abbrev Reg.DPTX.SINK.TPS3 (i : Nat) : FRef := ⟨0x10700008 + 0x400 * i, 7, 1⟩
abbrev Reg.DPTX.SINK.TPS4 (i : Nat) : FRef := ⟨0x10700008 + 0x400 * i, 6, 1⟩
abbrev Reg.DPTX.DRIVE.LEVELS (i : Nat) : FRef := ⟨0x1070000C + 0x400 * i, 0, 16⟩
abbrev Reg.DPTX.COUNTS.LOSSES (i : Nat) : FRef := ⟨0x10700010 + 0x400 * i, 16, 16⟩
abbrev Reg.DPTX.COUNTS.CYCLES (i : Nat) : FRef := ⟨0x10700010 + 0x400 * i, 0, 16⟩
abbrev Reg.DPTX.HPD_IRQS.COUNT (i : Nat) : FRef := ⟨0x10700014 + 0x400 * i, 0, 32⟩
abbrev Reg.DPTX.AUX_CMD.GO (i : Nat) : FRef := ⟨0x10700020 + 0x400 * i, 31, 1⟩
abbrev Reg.DPTX.AUX_CMD.KIND (i : Nat) : FRef := ⟨0x10700020 + 0x400 * i, 28, 3⟩
abbrev Reg.DPTX.AUX_CMD.LEN_M1 (i : Nat) : FRef := ⟨0x10700020 + 0x400 * i, 24, 4⟩
abbrev Reg.DPTX.AUX_CMD.ADDR (i : Nat) : FRef := ⟨0x10700020 + 0x400 * i, 0, 20⟩
abbrev Reg.DPTX.AUX_STATUS.BYTES (i : Nat) : FRef := ⟨0x10700024 + 0x400 * i, 8, 5⟩
abbrev Reg.DPTX.AUX_STATUS.RESULT (i : Nat) : FRef := ⟨0x10700024 + 0x400 * i, 0, 4⟩
abbrev Reg.DPTX.AUX_DATA.DATA (i j : Nat) : FRef := ⟨0x10700028 + 0x400 * i + 0x4 * j, 0, 32⟩

/-- The registers of DPTX. -/
def regsDPTX : List RegWord := [
  ⟨0x10700000, [(0x400, 64)], [fAny 31 1 .w1s 0 .s false, fAny 21 1 .rw 0 .s false, fAny 20 1 .rw 0 .s false, fAny 19 1 .rw 1 .s false, fAny 18 1 .rw 1 .s false, fAny 16 2 .rw 0 .s false, fIn 14 2 .rw 0 .s false 0 2, fAny 8 6 .rw 0 .s false, fAny 0 1 .rw 0 .s false]⟩,
  ⟨0x10700004, [(0x400, 64)], [fAny 28 4 .ro 0 .s false, fAny 24 4 .ro 0 .s false, fAny 16 3 .ro 0 .s false, fAny 8 1 .ro 0 .s false, fAny 0 3 .ro 0 .s false]⟩,
  ⟨0x10700008, [(0x400, 64)], [fAny 24 8 .ro 0 .s false, fAny 16 8 .ro 0 .s false, fAny 8 5 .ro 0 .s false, fAny 7 1 .ro 0 .s false, fAny 6 1 .ro 0 .s false]⟩,
  ⟨0x1070000C, [(0x400, 64)], [fAny 0 16 .ro 0 .s false]⟩,
  ⟨0x10700010, [(0x400, 64)], [fAny 16 16 .ro 0 .s false, fAny 0 16 .ro 0 .s false]⟩,
  ⟨0x10700014, [(0x400, 64)], [fAny 0 32 .ro 0 .s false]⟩,
  ⟨0x10700020, [(0x400, 64)], [fAny 31 1 .w1s 0 .s false, fIn 28 3 .rw 0 .s false 0 5, fAny 24 4 .rw 0 .s false, fAny 0 20 .rw 0 .s false]⟩,
  ⟨0x10700024, [(0x400, 64)], [fAny 8 5 .ro 0 .s false, fAny 0 4 .ro 0 .s false]⟩,
  ⟨0x10700028, [(0x400, 64), (0x4, 4)], [fAny 0 32 .rw 0 .s false]⟩]

/-! ### TZL -/

abbrev Reg.TZL.CTRL.TRAIN (i : Nat) : FRef := ⟨0x10780000 + 0x1000 * i, 31, 1⟩
abbrev Reg.TZL.CTRL.LOOP_END (i : Nat) : FRef := ⟨0x10780000 + 0x1000 * i, 25, 1⟩
abbrev Reg.TZL.CTRL.SPARE_EN (i : Nat) : FRef := ⟨0x10780000 + 0x1000 * i, 24, 1⟩
abbrev Reg.TZL.CTRL.SPARE_LANE (i : Nat) : FRef := ⟨0x10780000 + 0x1000 * i, 18, 6⟩
abbrev Reg.TZL.CTRL.VERSION_MAX (i : Nat) : FRef := ⟨0x10780000 + 0x1000 * i, 16, 2⟩
abbrev Reg.TZL.CTRL.RATE (i : Nat) : FRef := ⟨0x10780000 + 0x1000 * i, 15, 1⟩
abbrev Reg.TZL.CTRL.WIDTH (i : Nat) : FRef := ⟨0x10780000 + 0x1000 * i, 13, 2⟩
abbrev Reg.TZL.CTRL.HEAD (i : Nat) : FRef := ⟨0x10780000 + 0x1000 * i, 1, 6⟩
abbrev Reg.TZL.CTRL.ENABLE (i : Nat) : FRef := ⟨0x10780000 + 0x1000 * i, 0, 1⟩
abbrev Reg.TZL.STATUS.ENABLE_RESULT (i : Nat) : FRef := ⟨0x10780004 + 0x1000 * i, 28, 4⟩
abbrev Reg.TZL.STATUS.RESULT (i : Nat) : FRef := ⟨0x10780004 + 0x1000 * i, 24, 4⟩
abbrev Reg.TZL.STATUS.STREAM (i : Nat) : FRef := ⟨0x10780004 + 0x1000 * i, 20, 4⟩
abbrev Reg.TZL.STATUS.SPARED_LANE (i : Nat) : FRef := ⟨0x10780004 + 0x1000 * i, 16, 4⟩
abbrev Reg.TZL.STATUS.PARTNER_VMAX (i : Nat) : FRef := ⟨0x10780004 + 0x1000 * i, 8, 8⟩
abbrev Reg.TZL.STATUS.SPARE_OK (i : Nat) : FRef := ⟨0x10780004 + 0x1000 * i, 7, 1⟩
abbrev Reg.TZL.STATUS.LOOP_SEEN (i : Nat) : FRef := ⟨0x10780004 + 0x1000 * i, 6, 1⟩
abbrev Reg.TZL.STATUS.LOOP_ACTIVE (i : Nat) : FRef := ⟨0x10780004 + 0x1000 * i, 5, 1⟩
abbrev Reg.TZL.STATUS.VERSION (i : Nat) : FRef := ⟨0x10780004 + 0x1000 * i, 3, 2⟩
abbrev Reg.TZL.STATUS.LINK (i : Nat) : FRef := ⟨0x10780004 + 0x1000 * i, 0, 3⟩
abbrev Reg.TZL.FRAMES.COUNT (i : Nat) : FRef := ⟨0x10780008 + 0x1000 * i, 0, 32⟩
abbrev Reg.TZL.SPARE_COUNTS.SPARE_EVENTS (i : Nat) : FRef := ⟨0x1078000C + 0x1000 * i, 16, 16⟩
abbrev Reg.TZL.SPARE_COUNTS.LINES_LOST (i : Nat) : FRef := ⟨0x1078000C + 0x1000 * i, 0, 16⟩
abbrev Reg.TZL.LOOP.LOOP_HOP (i : Nat) : FRef := ⟨0x10780010 + 0x1000 * i, 24, 8⟩
abbrev Reg.TZL.LOOP.LINK_DOWNS (i : Nat) : FRef := ⟨0x10780010 + 0x1000 * i, 0, 16⟩
abbrev Reg.TZL.LOOP_FRAMES.COUNT (i : Nat) : FRef := ⟨0x10780014 + 0x1000 * i, 0, 32⟩
abbrev Reg.TZL.STAT_BASE.LOG2 (i : Nat) : FRef := ⟨0x10780020 + 0x1000 * i, 28, 4⟩
abbrev Reg.TZL.STAT_BASE.ADDR (i : Nat) : FRef := ⟨0x10780020 + 0x1000 * i, 0, 24⟩
abbrev Reg.TZL.STAT_WR.STAT_OVF (i : Nat) : FRef := ⟨0x10780024 + 0x1000 * i, 31, 1⟩
abbrev Reg.TZL.STAT_WR.INDEX (i : Nat) : FRef := ⟨0x10780024 + 0x1000 * i, 0, 12⟩
abbrev Reg.TZL.STAT_RD.INDEX (i : Nat) : FRef := ⟨0x10780028 + 0x1000 * i, 0, 12⟩
abbrev Reg.TZL.CTRL_HDR.TAG (i : Nat) : FRef := ⟨0x10780030 + 0x1000 * i, 16, 16⟩
abbrev Reg.TZL.CTRL_HDR.LEN (i : Nat) : FRef := ⟨0x10780030 + 0x1000 * i, 8, 8⟩
abbrev Reg.TZL.CTRL_HDR.ADDR (i : Nat) : FRef := ⟨0x10780030 + 0x1000 * i, 0, 8⟩
abbrev Reg.TZL.CTRL_SEND.SEND (i : Nat) : FRef := ⟨0x10780034 + 0x1000 * i, 31, 1⟩
abbrev Reg.TZL.CTRL_SEND.RESULT (i : Nat) : FRef := ⟨0x10780034 + 0x1000 * i, 0, 4⟩
abbrev Reg.TZL.CTRL_DATA.DATA (i j : Nat) : FRef := ⟨0x10780040 + 0x1000 * i + 0x4 * j, 0, 32⟩

/-- The registers of TZL. -/
def regsTZL : List RegWord := [
  ⟨0x10780000, [(0x1000, 16)], [fAny 31 1 .w1s 0 .s false, fAny 25 1 .rw 0 .s false, fAny 24 1 .rw 0 .s false, fAny 18 6 .rw 0 .s false, fIn 16 2 .rw 3 .s false 2 3, fAny 15 1 .rw 0 .s false, fAny 13 2 .rw 0 .s false, fAny 1 6 .rw 0 .s false, fAny 0 1 .rw 0 .s false]⟩,
  ⟨0x10780004, [(0x1000, 16)], [fAny 28 4 .ro 0 .s false, fAny 24 4 .ro 0 .s false, fAny 20 4 .ro 0 .s false, fAny 16 4 .ro 0 .s false, fAny 8 8 .ro 0 .s false, fAny 7 1 .ro 0 .s false, fAny 6 1 .ro 0 .s false, fAny 5 1 .ro 0 .s false, fAny 3 2 .ro 0 .s false, fAny 0 3 .ro 0 .s false]⟩,
  ⟨0x10780008, [(0x1000, 16)], [fAny 0 32 .ro 0 .s false]⟩,
  ⟨0x1078000C, [(0x1000, 16)], [fAny 16 16 .ro 0 .s false, fAny 0 16 .ro 0 .s false]⟩,
  ⟨0x10780010, [(0x1000, 16)], [fAny 24 8 .ro 0 .s false, fAny 0 16 .ro 0 .s false]⟩,
  ⟨0x10780014, [(0x1000, 16)], [fAny 0 32 .ro 0 .s false]⟩,
  ⟨0x10780020, [(0x1000, 16)], [fIn 28 4 .rw 8 .s false 4 12, fAny 0 24 .rw 0 .s false]⟩,
  ⟨0x10780024, [(0x1000, 16)], [fAny 31 1 .w1c 0 .s false, fAny 0 12 .ro 0 .s false]⟩,
  ⟨0x10780028, [(0x1000, 16)], [fAny 0 12 .rw 0 .s false]⟩,
  ⟨0x10780030, [(0x1000, 16)], [fAny 16 16 .rw 0 .s false, fAny 8 8 .rw 0 .s false, fAny 0 8 .rw 0 .s false]⟩,
  ⟨0x10780034, [(0x1000, 16)], [fAny 31 1 .w1s 0 .s false, fAny 0 4 .ro 0 .s false]⟩,
  ⟨0x10780040, [(0x1000, 16), (0x4, 8)], [fAny 0 32 .rw 0 .s false]⟩]

/-! ### DMC -/

abbrev Reg.DMC.CTL.WQ_DEPTH (i : Nat) : FRef := ⟨0x10800000 + 0x10000 * i, 23, 7⟩
abbrev Reg.DMC.CTL.RQ_DEPTH (i : Nat) : FRef := ⟨0x10800000 + 0x10000 * i, 16, 7⟩
abbrev Reg.DMC.CTL.CH_FAIL (i : Nat) : FRef := ⟨0x10800000 + 0x10000 * i, 8, 2⟩
abbrev Reg.DMC.CTL.FSP (i : Nat) : FRef := ⟨0x10800000 + 0x10000 * i, 4, 2⟩
abbrev Reg.DMC.CTL.STATE (i : Nat) : FRef := ⟨0x10800000 + 0x10000 * i, 0, 3⟩
abbrev Reg.DMC.CTL.FORWARDS (i : Nat) : FRef := ⟨0x10800004 + 0x10000 * i, 0, 32⟩
abbrev Reg.DMC.CTL.QFULL_STALLS (i : Nat) : FRef := ⟨0x10800008 + 0x10000 * i, 0, 32⟩
abbrev Reg.DMC.CH.FORCED (i j : Nat) : FRef := ⟨0x10800100 + 0x10000 * i + 0x80 * j, 16, 16⟩
abbrev Reg.DMC.CH.RATE_CODE (i j : Nat) : FRef := ⟨0x10800100 + 0x10000 * i + 0x80 * j, 8, 3⟩
abbrev Reg.DMC.CH.OWED (i j : Nat) : FRef := ⟨0x10800100 + 0x10000 * i + 0x80 * j, 0, 4⟩
abbrev Reg.DMC.CH.REFRESHES (i j : Nat) : FRef := ⟨0x10800104 + 0x10000 * i + 0x80 * j, 0, 32⟩
abbrev Reg.DMC.CH.ZQ_PENDING (i j : Nat) : FRef := ⟨0x10800108 + 0x10000 * i + 0x80 * j, 17, 1⟩
abbrev Reg.DMC.CH.RETRAIN_PENDING (i j : Nat) : FRef := ⟨0x10800108 + 0x10000 * i + 0x80 * j, 16, 1⟩
abbrev Reg.DMC.CH.OSC_DELTA (i j : Nat) : FRef := ⟨0x10800108 + 0x10000 * i + 0x80 * j, 0, 16⟩
abbrev Reg.DMC.CH.RETRAINS (i j : Nat) : FRef := ⟨0x1080010C + 0x10000 * i + 0x80 * j, 16, 16⟩
abbrev Reg.DMC.CH.TRAIN (i j : Nat) : FRef := ⟨0x1080010C + 0x10000 * i + 0x80 * j, 0, 4⟩
abbrev Reg.DMC.CH.SKEW_RUN (i j : Nat) : FRef := ⟨0x10800110 + 0x10000 * i + 0x80 * j, 16, 16⟩
abbrev Reg.DMC.CH.SHARE_PCT (i j : Nat) : FRef := ⟨0x10800110 + 0x10000 * i + 0x80 * j, 0, 8⟩
abbrev Reg.DMC.CH.LECC_CORR (i j : Nat) : FRef := ⟨0x10800114 + 0x10000 * i + 0x80 * j, 0, 32⟩
abbrev Reg.DMC.CH.LECC_UNCORR (i j : Nat) : FRef := ⟨0x10800118 + 0x10000 * i + 0x80 * j, 0, 32⟩
abbrev Reg.DMC.CH.ODECC_COUNT (i j : Nat) : FRef := ⟨0x1080011C + 0x10000 * i + 0x80 * j, 0, 32⟩
abbrev Reg.DMC.CH.PPR.VALID (i j k : Nat) : FRef := ⟨0x10800120 + 0x10000 * i + 0x80 * j + 0x4 * k, 31, 1⟩
abbrev Reg.DMC.CH.PPR.BANK (i j k : Nat) : FRef := ⟨0x10800120 + 0x10000 * i + 0x80 * j + 0x4 * k, 24, 4⟩
abbrev Reg.DMC.CH.PPR.COUNT (i j k : Nat) : FRef := ⟨0x10800120 + 0x10000 * i + 0x80 * j + 0x4 * k, 16, 8⟩
abbrev Reg.DMC.CH.PPR.ROW (i j k : Nat) : FRef := ⟨0x10800120 + 0x10000 * i + 0x80 * j + 0x4 * k, 0, 16⟩
abbrev Reg.DMC.CH.ERR_ADDR_LO (i j : Nat) : FRef := ⟨0x10800130 + 0x10000 * i + 0x80 * j, 0, 32⟩
abbrev Reg.DMC.CH.ERR_ADDR_HI (i j : Nat) : FRef := ⟨0x10800134 + 0x10000 * i + 0x80 * j, 0, 4⟩
abbrev Reg.DMC.CTRL.ECC_EVT_THR : FRef := ⟨0x10808000, 16, 16⟩
abbrev Reg.DMC.CTRL.DRIFT_THR : FRef := ⟨0x10808000, 8, 8⟩
abbrev Reg.DMC.CTRL.SKEW_EN : FRef := ⟨0x10808000, 1, 1⟩
abbrev Reg.DMC.CTRL.LINK_ECC_EN : FRef := ⟨0x10808000, 0, 1⟩
abbrev Reg.DMC.CTRL2.PPR_THR : FRef := ⟨0x10808004, 24, 8⟩
abbrev Reg.DMC.CTRL2.ECS_PERIOD_S : FRef := ⟨0x10808004, 16, 8⟩
abbrev Reg.DMC.CTRL2.SKEW_FLOOR_MB : FRef := ⟨0x10808004, 0, 16⟩
abbrev Reg.DMC.CONFIG.BOOT_FSP : FRef := ⟨0x10808008, 4, 2⟩
abbrev Reg.DMC.CONFIG.DENSITY : FRef := ⟨0x10808008, 0, 2⟩
abbrev Reg.DMC.HASH_MASK (i : Nat) : FRef := ⟨0x10808010 + 0x4 * i, 0, 23⟩
abbrev Reg.DMC.FSP_REQ.GO : FRef := ⟨0x10808020, 31, 1⟩
abbrev Reg.DMC.FSP_REQ.TARGET : FRef := ⟨0x10808020, 0, 2⟩
abbrev Reg.DMC.FSP_STATUS.CHANGES : FRef := ⟨0x10808024, 16, 16⟩
abbrev Reg.DMC.FSP_STATUS.RESULT : FRef := ⟨0x10808024, 8, 4⟩
abbrev Reg.DMC.FSP_STATUS.PENDING : FRef := ⟨0x10808024, 6, 1⟩
abbrev Reg.DMC.FSP_STATUS.PENDING_TARGET : FRef := ⟨0x10808024, 4, 2⟩
abbrev Reg.DMC.FSP_STATUS.CURRENT : FRef := ⟨0x10808024, 0, 2⟩
abbrev Reg.DMC.SKEW.SKEWED : FRef := ⟨0x10808028, 8, 1⟩
abbrev Reg.DMC.SKEW.CHANNEL : FRef := ⟨0x10808028, 0, 4⟩
abbrev Reg.DMC.PPR_CMD.GO : FRef := ⟨0x1080802C, 31, 1⟩
abbrev Reg.DMC.PPR_CMD.RESULT : FRef := ⟨0x1080802C, 8, 4⟩
abbrev Reg.DMC.PPR_CMD.ENTRY : FRef := ⟨0x1080802C, 4, 2⟩
abbrev Reg.DMC.PPR_CMD.CH : FRef := ⟨0x1080802C, 0, 4⟩
abbrev Reg.DMC.TRAIN_MS : FRef := ⟨0x10808030, 0, 32⟩
abbrev Reg.DMC.FSP.TRFCAB_NS (i : Nat) : FRef := ⟨0x10808040 + 0x10 * i, 16, 16⟩
abbrev Reg.DMC.FSP.WL_NCK (i : Nat) : FRef := ⟨0x10808040 + 0x10 * i, 8, 8⟩
abbrev Reg.DMC.FSP.RL_NCK (i : Nat) : FRef := ⟨0x10808040 + 0x10 * i, 0, 8⟩
abbrev Reg.DMC.FSP.TREFI_NS (i : Nat) : FRef := ⟨0x10808044 + 0x10 * i, 0, 16⟩
abbrev Reg.DMC.FSP.TRAINED (i : Nat) : FRef := ⟨0x10808048 + 0x10 * i, 0, 1⟩

/-- The registers of DMC, part 1. -/
def regsDMC0 : List RegWord := [
  ⟨0x10800000, [(0x10000, 8)], [fAny 23 7 .ro 0 .s false, fAny 16 7 .ro 0 .s false, fAny 8 2 .ro 0 .h false, fAny 4 2 .ro 0 .h false, fAny 0 3 .ro 0 .h false]⟩,
  ⟨0x10800004, [(0x10000, 8)], [fAny 0 32 .ro 0 .s false]⟩,
  ⟨0x10800008, [(0x10000, 8)], [fAny 0 32 .ro 0 .s false]⟩,
  ⟨0x10800100, [(0x10000, 8), (0x80, 2)], [fAny 16 16 .ro 0 .s false, fAny 8 3 .ro 0 .s false, fAny 0 4 .ro 0 .s false]⟩,
  ⟨0x10800104, [(0x10000, 8), (0x80, 2)], [fAny 0 32 .ro 0 .s false]⟩,
  ⟨0x10800108, [(0x10000, 8), (0x80, 2)], [fAny 17 1 .ro 0 .h false, fAny 16 1 .ro 0 .h false, fAny 0 16 .ro 0 .h false]⟩,
  ⟨0x1080010C, [(0x10000, 8), (0x80, 2)], [fAny 16 16 .ro 0 .s false, fAny 0 4 .ro 0 .h false]⟩,
  ⟨0x10800110, [(0x10000, 8), (0x80, 2)], [fAny 16 16 .ro 0 .s false, fAny 0 8 .ro 0 .s false]⟩,
  ⟨0x10800114, [(0x10000, 8), (0x80, 2)], [fAny 0 32 .ro 0 .s false]⟩,
  ⟨0x10800118, [(0x10000, 8), (0x80, 2)], [fAny 0 32 .ro 0 .s false]⟩,
  ⟨0x1080011C, [(0x10000, 8), (0x80, 2)], [fAny 0 32 .ro 0 .s false]⟩,
  ⟨0x10800120, [(0x10000, 8), (0x80, 2), (0x4, 4)], [fAny 31 1 .ro 0 .h false, fAny 24 4 .ro 0 .h false, fAny 16 8 .ro 0 .h false, fAny 0 16 .ro 0 .h false]⟩,
  ⟨0x10800130, [(0x10000, 8), (0x80, 2)], [fAny 0 32 .ro 0 .s false]⟩,
  ⟨0x10800134, [(0x10000, 8), (0x80, 2)], [fAny 0 4 .ro 0 .s false]⟩,
  ⟨0x10808000, [], [fIn 16 16 .rw 16 .s false 1 65535, fIn 8 8 .rw 12 .s false 1 255, fAny 1 1 .rw 1 .s false, fAny 0 1 .rw 1 .h false]⟩,
  ⟨0x10808004, [], [fIn 24 8 .rw 8 .s false 1 255, fIn 16 8 .rw 60 .s false 1 255, fAny 0 16 .rw 10 .s false]⟩]

/-- The registers of DMC, part 2. -/
def regsDMC1 : List RegWord := [
  ⟨0x10808008, [], [fAny 4 2 .ro 0 .h false, fAny 0 2 .ro 0 .h false]⟩,
  ⟨0x10808010, [(0x4, 4)], [fAny 0 23 .ro 0 .h false]⟩,
  ⟨0x10808020, [], [fAny 31 1 .w1s 0 .s false, fIn 0 2 .rw 0 .s false 0 2]⟩,
  ⟨0x10808024, [], [fAny 16 16 .ro 0 .s false, fAny 8 4 .ro 0 .s false, fAny 6 1 .ro 0 .s false, fAny 4 2 .ro 0 .s false, fAny 0 2 .ro 0 .h false]⟩,
  ⟨0x10808028, [], [fAny 8 1 .w1c 0 .s false, fAny 0 4 .ro 0 .s false]⟩,
  ⟨0x1080802C, [], [fAny 31 1 .w1s 0 .s false, fAny 8 4 .ro 0 .s false, fAny 4 2 .rw 0 .s false, fAny 0 4 .rw 0 .s false]⟩,
  ⟨0x10808030, [], [fAny 0 32 .ro 0 .h false]⟩,
  ⟨0x10808040, [(0x10, 3)], [fAny 16 16 .rwk 280 .h false, fAny 8 8 .rwk 0 .h false, fAny 0 8 .rwk 0 .h false]⟩,
  ⟨0x10808044, [(0x10, 3)], [fAny 0 16 .rwk 3906 .h false]⟩,
  ⟨0x10808048, [(0x10, 3)], [fAny 0 1 .ro 0 .h false]⟩]

/-- The registers of DMC. -/
def regsDMC : List RegWord := regsDMC0 ++ regsDMC1

/-! ### ENG -/

abbrev Reg.ENG.INFO.LOCKSTEP_OK : FRef := ⟨0x10900000, 8, 1⟩
abbrev Reg.ENG.INFO.ENG_COUNT : FRef := ⟨0x10900000, 0, 8⟩
abbrev Reg.ENG.ECC_CORR.COUNT : FRef := ⟨0x10900004, 0, 32⟩
abbrev Reg.ENG.CTRL.AUTO_RESTART (i : Nat) : FRef := ⟨0x10900100 + 0x20 * i, 3, 1⟩
abbrev Reg.ENG.CTRL.DEBUG_EN (i : Nat) : FRef := ⟨0x10900100 + 0x20 * i, 2, 1⟩
abbrev Reg.ENG.CTRL.HALT (i : Nat) : FRef := ⟨0x10900100 + 0x20 * i, 1, 1⟩
abbrev Reg.ENG.CTRL.ENABLE (i : Nat) : FRef := ⟨0x10900100 + 0x20 * i, 0, 1⟩
abbrev Reg.ENG.STATUS.RESTARTS (i : Nat) : FRef := ⟨0x10900104 + 0x20 * i, 24, 8⟩
abbrev Reg.ENG.STATUS.STATE (i : Nat) : FRef := ⟨0x10900104 + 0x20 * i, 0, 3⟩
abbrev Reg.ENG.FAULT.VALID (i : Nat) : FRef := ⟨0x10900108 + 0x20 * i, 31, 1⟩
abbrev Reg.ENG.FAULT.CAUSE (i : Nat) : FRef := ⟨0x10900108 + 0x20 * i, 0, 8⟩
abbrev Reg.ENG.FW_GEN.GENERATION (i : Nat) : FRef := ⟨0x1090010C + 0x20 * i, 0, 32⟩
abbrev Reg.ENG.HEARTBEAT.COUNT (i : Nat) : FRef := ⟨0x10900110 + 0x20 * i, 0, 32⟩

/-- The registers of ENG. -/
def regsENG : List RegWord := [
  ⟨0x10900000, [], [fAny 8 1 .ro 1 .h false, fAny 0 8 .ro 24 .never true]⟩,
  ⟨0x10900004, [], [fAny 0 32 .w1c 0 .s false]⟩,
  ⟨0x10900100, [(0x20, 24)], [fAny 3 1 .rw 0 .s false, fAny 2 1 .rw 0 .h false, fAny 1 1 .rw 0 .s false, fAny 0 1 .rw 0 .s false]⟩,
  ⟨0x10900104, [(0x20, 24)], [fAny 24 8 .ro 0 .s false, fAny 0 3 .ro 0 .d false]⟩,
  ⟨0x10900108, [(0x20, 24)], [fAny 31 1 .w1c 0 .s false, fAny 0 8 .ro 0 .s false]⟩,
  ⟨0x1090010C, [(0x20, 24)], [fAny 0 32 .ro 0 .h false]⟩,
  ⟨0x10900110, [(0x20, 24)], [fAny 0 32 .ro 0 .d false]⟩]

/-- The register families of the block whose range holds address `a` (R25). -/
def blockRegs (a : Nat) : List RegWord :=
  if 0x10000000 ≤ a ∧ a < 0x10010000 then regsSYS
  else if 0x10010000 ≤ a ∧ a < 0x10020000 then regsCLK
  else if 0x10020000 ≤ a ∧ a < 0x10030000 then regsPWR
  else if 0x10030000 ≤ a ∧ a < 0x10040000 then regsRST
  else if 0x10040000 ≤ a ∧ a < 0x10050000 then regsEVT
  else if 0x10050000 ≤ a ∧ a < 0x10060000 then regsERR
  else if 0x10060000 ≤ a ∧ a < 0x10070000 then regsTIME
  else if 0x10070000 ≤ a ∧ a < 0x10080000 then regsCUS
  else if 0x10080000 ≤ a ∧ a < 0x10090000 then regsBOOT
  else if 0x10090000 ≤ a ∧ a < 0x100A0000 then regsHOST
  else if 0x100A0000 ≤ a ∧ a < 0x100B0000 then regsMTX
  else if 0x100B0000 ≤ a ∧ a < 0x100C0000 then regsSEQ
  else if 0x100C0000 ≤ a ∧ a < 0x100D0000 then regsFRS
  else if 0x100D0000 ≤ a ∧ a < 0x100E0000 then regsTCH
  else if 0x10100000 ≤ a ∧ a < 0x10180000 then regsING
  else if 0x10200000 ≤ a ∧ a < 0x10280000 then regsDEC
  else if 0x10300000 ≤ a ∧ a < 0x10320000 then regsENC
  else if 0x10380000 ≤ a ∧ a < 0x103C0000 then regsISP
  else if 0x10400000 ≤ a ∧ a < 0x10440000 then regsHEAD
  else if 0x10440000 ≤ a ∧ a < 0x10450000 then regsHEADS
  else if 0x10500000 ≤ a ∧ a < 0x10540000 then regsNET
  else if 0x10540000 ≤ a ∧ a < 0x10550000 then regsMGMT
  else if 0x10600000 ≤ a ∧ a < 0x10614000 then regsLANE
  else if 0x10700000 ≤ a ∧ a < 0x10710000 then regsDPTX
  else if 0x10780000 ≤ a ∧ a < 0x10790000 then regsTZL
  else if 0x10800000 ≤ a ∧ a < 0x10880000 then regsDMC
  else if 0x10900000 ≤ a ∧ a < 0x10910000 then regsENG
  else []

/-- Whether `rel`, an address relative to a family's first member, is a member: each index below its count and
nothing left over. -/
def dimsMatch : Nat → List (Nat × Nat) → Bool
  | rel, [] => rel == 0
  | rel, (stride, count) :: ds => decide (rel / stride < count) && dimsMatch (rel % stride) ds

/-- Whether address `a` is a register of family `w`. -/
def RegWord.has (w : RegWord) (a : Nat) : Bool := decide (w.base ≤ a) && dimsMatch (a - w.base) w.dims

/-- The fields of the register at address `a`; none where no register is defined there (R26). -/
def regFields (a : Nat) : Option (List RegField) :=
  ((blockRegs a).find? (fun w => w.has a)).map RegWord.fields

/-- The default QoS of each master (R404), 0 for the masters that set their own. -/
def defaultQos (m : Nat) : Nat :=
  if m = 0 then 2 else if m = 1 then 1 else if m = 2 then 0 else if m = 3 then 1
  else if m < 20 then 10 else if m < 35 then 0 else if m < 39 then 10
  else if m = 39 then 3 else if m = 40 then 3 else if m = 41 then 2 else if m < 45 then 3 else 0

/-- The reset value of REF_SEL of lane quad `q` (R424). -/
def refSelReset (q : Nat) : Nat := if q < 4 then 0 else if q < 12 then 1 else 2

/-- The part of a reset value that a rule gives by index and not by the register table (R404, R424). -/
def resetExtra (a : Nat) : Nat :=
  if 0x100A0100 ≤ a ∧ a < 0x100A03D0 ∧ (a - 0x100A0100) % 0x10 = 0 then defaultQos ((a - 0x100A0100) / 0x10)
  else if 0x10600800 ≤ a ∧ a < 0x10614000 ∧ (a - 0x10600000) % 0x1000 = 0x800 then
    refSelReset ((a - 0x10600000) / 0x1000) * 2 ^ 24
  else 0

/-- The sum of `f` over a field list, each value moved to its field's place. -/
def packFields (f : RegField → Nat) : List RegField → Nat
  | [] => 0
  | x :: xs => (f x % 2 ^ x.width) * 2 ^ x.lo + packFields f xs

/-- The bits of the fields for which `p` holds. -/
def fieldMask (p : RegField → Bool) : List RegField → Nat
  | [] => 0
  | x :: xs => (if p x then (2 ^ x.width - 1) * 2 ^ x.lo else 0) + fieldMask p xs

/-- The value every field of the register at `a` has after reset (the Reset column). -/
def resetWord (a : Nat) : Word :=
  match regFields a with
  | none => 0
  | some fs => BitVec.ofNat 32 (packFields RegField.reset fs + resetExtra a)

/-- The bits of the register at `a` that a reset of rank `r` returns to their reset values (R6). -/
def clearMask (r : Rank) (a : Nat) : Word :=
  match regFields a with
  | none => 0
  | some fs => BitVec.ofNat 32 (fieldMask (fun f => decide (f.rank.strength ≤ r.strength)) fs)

/-- The bits of the register at `a` that lose their value through STANDBY (Standby column L, R7). -/
def standbyMask (a : Nat) : Word :=
  match regFields a with
  | none => 0
  | some fs => BitVec.ofNat 32 (fieldMask (fun f => !f.keep) fs)

/-- The bits of the register at `a` in fields of access code `c`. -/
def accessMask (c : Access) (a : Nat) : Word :=
  match regFields a with
  | none => 0
  | some fs => BitVec.ofNat 32 (fieldMask (fun f => decide (f.acc = c)) fs)

end Sys2Proof.Machine
end

