-- ==== Sys2Proof/Machine/State.lean ====
section
/-! DEFINITION. The state of one IH-7264, as plain data, and the state after reset. -/

namespace Sys2Proof.Machine

/-- Reasons a command stops the machine. No command does: the spec gives every command an effect, and what it leaves
undefined is a free value. -/
inductive Fault where
deriving DecidableEq, Repr

/-- Reasons a command has no meaning in this model. -/
inductive Refusal where
  /-- The model gives the command of this mnemonic no meaning yet; raised by Dispatch.lean alone; safe. -/
  | notModelled (mnemonic : String)
deriving DecidableEq, Repr

/-- The outcome of a command. -/
abbrev Out (σ : Type) : Type := Host.Outcome σ Fault Refusal

/-- One record of the error log (R417, R418). -/
structure ErrRecord where
  reason  : Nat
  master  : Nat
  target  : Nat
  addr    : Nat
  write   : Bool
  control : Bool
  resp    : Bool
  qos     : Nat
  id      : Nat
  beats   : Nat
  strobes : Nat
  data    : Word
  time    : Nat
deriving DecidableEq, Repr

/-- What the matrix answered to the last access: an error response, or data (R416). -/
structure BusResp where
  error : Bool
  data  : List Byte
deriving DecidableEq, Repr

/-- A data request outstanding at its master's port, or of a burst to DRAM the part on one controller (R408): waiting since a
clock, or granted with beats sent; whether it opens a burst, the reason for which a check at its issue fails it (0: none), and the
flash byte its address stood for when it was issued (R415). -/
structure PendReq where
  master  : Nat
  target  : Nat
  write   : Bool
  addr    : Nat
  bytes   : Nat
  data    : List Byte
  strobes : List Bool
  id      : Nat
  qos     : Nat
  granted : Bool
  sent    : Nat
  since   : Nat
  aged    : Bool
  ecc     : EccFind
  lead    : Bool
  fail    : Nat
  flashAt : Nat
deriving DecidableEq, Repr

/-- An entry of a memory controller's write queue (R379, R381): its granule, a bit for each byte of it that is to be written, its
QoS, the clock it was accepted at, its bank (16 more on the controller's second channel) and its row. -/
structure WriteEntry where
  granule : Nat
  mask    : Nat
  qos     : Nat
  since   : Nat
  bank    : Nat
  row     : Nat
deriving DecidableEq, Repr

/-- The queues of a memory controller (R379 to R381): the writes accepted and not yet issued, oldest first, whether a batch of
writes runs, the row open in each bank, the reads served from the writes, the clocks in which a request was held, and since when
one is held. The reads it holds are the granted ones of BusState.inflight. -/
structure DmcQueue where
  writes   : List WriteEntry
  batch    : Bool
  rows     : Tab (Option Nat)
  forwards : Nat
  stalls   : Nat
  heldAt   : Option Nat
deriving DecidableEq, Repr

def DmcQueue.reset : DmcQueue := ⟨[], false, [], 0, 0, none⟩

/-- The bus matrix: snapshots per master (R11), staged higher words (R12), the error log (R417), requests outstanding
(R408), control requests that wait in their slots or at their master's port, in issue order (R410), ports in RESET_DRAIN with their
cut beats, retired requests as master and ID (R419), the queues of the memory controllers behind it (R379), and the number of free
values drawn for them (the model's own). -/
structure BusState where
  snaps    : Tab Word
  staged   : Tab Word
  resp     : Option BusResp
  err      : List ErrRecord
  inflight : List PendReq
  ctl      : List BusReq
  draining : List (Nat × Nat)
  retired  : List (Nat × Nat)
  queues   : Tab DmcQueue
  drew     : Nat
deriving DecidableEq, Repr

/-- One stamp: wall time in whole nanoseconds, its code or tag, and the time state at the stamp (R88, R89). -/
structure Stamp where
  wall  : Int
  code  : Nat
  state : Nat
deriving DecidableEq, Repr

/-- Wall time: the local count and the sixty-fourths of a nanosecond carried at 32.768 kHz (R76, R77), OFFSET in units
of 2^-32 ns (R78), the counts of R82 from their local starts, the stamp queues (R88, R90), PPS: the last edge accepted, a
pulse of the output and the clock at which it ends (R91, R92). -/
structure TimeState where
  count     : Nat
  lpBase    : Nat
  lpElapsed : Nat
  offset    : Int
  kickAt    : Nat
  holdAt    : Nat
  stamps    : List Stamp
  txq       : Tab (List Stamp)
  ppsInAt   : Option Nat
  ppsOut    : Bool
  ppsEnd    : Nat
deriving DecidableEq, Repr

/-- A raise: its source, for a head the causes, its argument, its wall time and local count (R491, R498). -/
structure RaiseInfo where
  source : Nat
  causes : Nat
  arg    : Nat
  wall   : Int
  count  : Nat
deriving DecidableEq, Repr

/-- The event block beyond its registers: the end of each pin's pulse (R496), whether a record has been dropped
since the last one written (R499), the clock of the last raise, the sources raised in it with their causes (R491, R493), the raises
logged in it with the time state, as their records stand (R499), LOG_WR, LOG_SEQ and the drop before the first of them, and the edges
of GPIO pins that have not been stable for 1 µs yet, as clock and pin (R500). -/
structure EvtState where
  pulseEnd : Tab (Option Nat)
  dropped  : Bool
  at_      : Nat
  marks    : List (Nat × Nat)
  logs     : List (RaiseInfo × Nat)
  logWr    : Nat
  logSeq   : Nat
  logDrop  : Bool
  edges    : List (Nat × Nat)
deriving DecidableEq, Repr

/-- One engine beyond its registers: the local count its 100 ms run from (R22), its last automatic restart (R24), the
firmware record loaded and its SHARED_COPY as address and length, with its LOAD_OFFSET (R452). -/
structure EngState where
  beatAt    : Nat
  restartAt : Option Nat
  loaded    : Bool
  copyAddr  : Nat
  copyLen   : Nat
  loadOff   : Nat
deriving DecidableEq, Repr

def EngState.reset : EngState := ⟨0, none, false, 0, 0, 0⟩

/-- The pins the device reads and drives: GPIO levels, the clock of the last edge of each, straps (R443), fuses. -/
structure PinState where
  gpio      : Nat
  edgeAt    : Tab Nat
  bootMode  : Nat
  unitId    : Nat
  cusMode   : Bool
  grade     : Nat
  uid       : Nat
  keyDigest : List Nat
deriving DecidableEq, Repr

/-- An amendment in the queue of SEQ: its ticket, kind, window and arguments, the reference CRC of a VITRINE amendment
(R208), whether it was posted while a keystone was SWITCHING, the outcome so far, the heads it has still to reach (R69, R70). -/
structure Amend where
  ticket  : Nat
  kind    : Nat
  window  : Nat
  arg0    : Nat
  arg1    : Nat
  ref     : Nat
  late    : Bool
  outcome : Nat
  left    : List Nat
deriving DecidableEq, Repr

/-- How far the selected preset has come (R73). -/
inductive PresetPhase where
  | idle | reading | validating | deferred | loaded
deriving DecidableEq, Repr

/-- What the device keeps of the image in use: the page-signing keys, HOST_KEY, and where each preset page stands in
flash, as address and entries (R447, R452). -/
structure ImgState where
  pageKeys : Tab (Option Nat)
  hostKey  : List Byte
  presets  : Tab (Option (Nat × Nat))
deriving DecidableEq, Repr

/-- The course sequencers beyond their registers: the wall time T of the keystone and whether it applies at each head's
next latch point (R61, R65), the heads that have taken the new page, the reference CRCs of the staging page's vitrine
regions by 8 n + r (R208), the amendment queue, the selected preset with its number, and whether a strobe edge waits for the
select pins (R72, R73). -/
structure SeqState where
  keyT     : Int
  keyNow   : Bool
  taken    : List Nat
  refs     : Tab Nat
  amends   : List Amend
  preset   : PresetPhase
  strobe   : Bool
deriving DecidableEq, Repr

/-- The advance record of R256: SEQUENCE, the capture time and the ARRIVAL of the buffer judged, A_LOCAL, and the time
state at the last evaluation. -/
structure AdvRecord where
  seq    : Nat
  cap    : Int
  count  : Nat
  at_    : Nat
  tstate : Nat
deriving DecidableEq, Repr

/-- One slot of a head: the source it is bound to, the buffers it holds and chases (R213), whether a CHASE slot has
fallen back in this frame (R214), the refusal cause (R198), the advance record and the still record as S_SIG and S_LOCAL
(R256, R257), and its placard: reason word, hidden, REPLACE style, evaluations passed since it failed (R258, R262), the age in
whole ms, the TIME mark. -/
structure SlotState where
  source    : Option Nat
  held      : Option Nat
  chase     : Option Nat
  fell      : Bool
  refused   : Nat
  adv       : Option AdvRecord
  still     : Option (Nat × Nat)
  reason    : Nat
  hidden    : Bool
  replace   : Bool
  passes    : Nat
  ageMs     : Nat
  mark      : Bool
deriving DecidableEq, Repr

def SlotState.reset : SlotState := ⟨none, none, none, false, 0, none, none, 0, false, false, 0, 0, false⟩

/-- An atomic group: the clock its wait began at, whether it is split, and the members latched since, as 32 head + slot
(R219). -/
structure GroupState where
  waitFrom : Option Nat
  split    : Bool
  latched  : List Nat
deriving DecidableEq, Repr

def GroupState.reset : GroupState := ⟨none, false, []⟩

/-- What amendments have changed in a head's composition state, by window (R68), and by region for vitrine
descriptors (R210). -/
structure HeadEdits where
  source  : Tab (Option Nat)
  visible : Tab (Option Nat)
  budget  : Tab (Option Nat)
  text    : Tab (Option (List Byte))
  gfx     : Tab (Option Nat)
  vitrine : Tab (Option Nat)
deriving DecidableEq, Repr

def HeadEdits.none : HeadEdits := ⟨[], [], [], [], [], []⟩

/-- What a head has fetched for a slot: the line-store range that its band gives it, the buffer, and rows of the picture by
number, each pixel as its samples coded (R198, R199). -/
structure LineStore where
  base : Nat
  len  : Nat
  buf  : Option Nat
  rows : Tab (List Nat)
deriving DecidableEq, Repr

def LineStore.reset : LineStore := ⟨0, 0, none, []⟩

/-- What a head has read of a vitrine region in a frame: the descriptor and the palette that it draws from, and the running CRC-32C of
what it read (R208). -/
structure VitScan where
  desc    : List Byte
  palette : List Byte
  crc     : Nat
deriving DecidableEq, Repr

def VitScan.reset : VitScan := ⟨[], [], 0xFFFFFFFF⟩

/-- The frame a head composes: whether composition has begun, the next line to compose, whether a line underran, whether its
sequencer stopped in it (R23), whether a fallback was counted (R214), the running frame CRC, the pixels of the line last
scanned as words of R270, the lines that the output buffer holds and the number of lines scanned (R244), the fill of the fetch FIFO
in bytes as last seen (R245), what it has read of each vitrine region (R208), the underrun colour, tell-tale and label scale in force (R247, R269, R267), whether sync marks
are due (R53), its visible layers by slot number as the lines composed have shown them (R226), and whether time was not LOCKED at its latch point (R271). -/
structure HeadFrame where
  composing : Bool
  nextLine  : Nat
  underran  : Bool
  cut       : Bool
  fellBack  : Bool
  crc       : Nat
  line      : List Nat
  ahead     : List (List Nat)
  scanned   : Nat
  fill      : Nat
  vit       : Tab VitScan
  colour    : Nat
  ttEn      : Bool
  ttX       : Nat
  ttY       : Nat
  scale     : Nat
  marks     : Bool
  layers    : List Nat
  untrusted : Bool
deriving DecidableEq, Repr

def HeadFrame.reset : HeadFrame :=
  ⟨false, 0, false, false, false, 0xFFFFFFFF, [], [], 0, 0, [], 0, false, 0, 0, 1, false, [], false⟩

/-- The write-back of a head in progress: its entry, buffer and SEQUENCE, the local count of its latch point (R252), the even
row kept for HALF, and the rows as they were written (R114, R224, R225). -/
structure WbState where
  entry : Nat
  buf   : Nat
  seq   : Nat
  count : Nat
  keep  : List Nat
  rows  : Tab (List Nat)
deriving DecidableEq, Repr

/-- One head beyond its registers: the pending set by register address (R235), the output tables by 4096 bank + index
(R202), edits, slots, the line stores by slot, graphic slots from 24 on, groups, the frame, the write-back, the clock and wall time of the last latch point, whether the
pending commit changes GL_EN or RATE (R243), the frames counted for lock (R243), and the seal of the frame last ended
(R271), bits 7:5 of its FLAGS at 0. -/
structure HeadState where
  pend     : Tab (Option Word)
  otab     : Tab Nat
  edits    : HeadEdits
  slots    : Tab SlotState
  stores   : Tab LineStore
  groups   : Tab GroupState
  frame    : HeadFrame
  wb       : Option WbState
  latchClk : Nat
  flip     : Int
  glSet    : Bool
  lockRun  : Nat
  missRun  : Nat
  sealed   : List Byte
deriving DecidableEq, Repr

def HeadState.reset : HeadState :=
  ⟨[], [], HeadEdits.none, [], [], [], HeadFrame.reset, none, 0, 0, false, 0, 0, []⟩

/-- One buffer beyond its registers: the heads that lease it (R220), and while a HOST_READY read runs, the wall time of
the HOST_READY write, its SEQUENCE and its entry (R115). -/
structure BufState where
  leases : List Nat
  host   : Option (Int × Nat × Nat)
deriving DecidableEq, Repr

def BufState.reset : BufState := ⟨[], none⟩

/-- A frame or an access unit that a source entry receives: its RTP timestamp, its buffer, its SEQUENCE, the arrival as
wall time and local count, the capture time and whether it is the source's own, the field, the columns received of each row
as disjoint ranges in order, the rows as they were written (R114), the rows declared lost (R123), the rows each path has passed
and whether each path has ended it, whether its marker packet came, whether copies diverged (R128), the extended sequence numbers
received with their payloads, and whether data were lost in it. -/
structure OpenUnit where
  ts     : Nat
  buf    : Option Nat
  seq    : Nat
  wall   : Int
  count  : Nat
  cap    : Int
  capSrc : Bool
  field  : Nat
  rows   : Tab (List (Nat × Nat))
  pix    : Tab (List Nat)
  lost   : List Nat
  passA  : Nat
  passB  : Nat
  endA   : Bool
  endB   : Bool
  marker : Bool
  div    : Bool
  pkts   : List (Nat × List Byte)
  gap    : Bool
deriving DecidableEq, Repr

/-- What a stream engine keeps of a transport stream: the sections being gathered by PID, the programs of the PAT with the PIDs of
their PMTs, the PID of the video, the program that named it, whether that is H.265, the last continuity counter (R103, R125), and over RTP the highest extended
sequence number of each path, the datagrams not yet in order, as extended sequence number, RTP timestamp, arrival and packets, those
of them whose copies diverged, and the extended sequence numbers taken into the access unit open. -/
structure TsState where
  psi   : Tab (List Byte)
  pmts  : List (Nat × Nat)
  video : Option Nat
  from_ : Option Nat
  hevc  : Bool
  cc    : Option Nat
  hiA   : Option Nat
  hiB   : Option Nat
  held  : List (Nat × Nat × Int × Nat × List Byte)
  divs  : List Nat
  seen  : List Nat
deriving DecidableEq, Repr

/-- One source entry beyond its registers: the ring position last filled since ENABLE (R112), the buffers most recently
completed, by field parity (R123), the highest extended sequence number received and the first not yet accounted for
(R124), the units closed, by RTP timestamp, field and clock, newest first, the units open, the clocks of the last accepted packet on each path (R129), whether
the next record carries GAP (R117), whether the stream has delivered parameter sets (R118), the clock of the last sender
report (R121), the divergence found per record SEQUENCE (R140), and the records of the bitstream ring not yet consumed, as
offset and size. -/
structure SrcState where
  lastPos  : Option Nat
  doneTop  : Option Nat
  doneBot  : Option Nat
  hi       : Option Nat
  base     : Option Nat
  closed   : List (Nat × Nat × Nat)
  opens    : List OpenUnit
  atA      : Option Nat
  atB      : Option Nat
  gapNext  : Bool
  params   : Bool
  srAt     : Nat
  ts       : TsState
  divs     : List Nat
  recs     : List (Nat × Nat)
deriving DecidableEq, Repr

def SrcState.reset : SrcState :=
  ⟨none, none, none, none, none, [], [], none, none, false, false, 0, ⟨[], [], none, none, false, none, none, none, [], [], []⟩, [],
    []⟩

/-- The supply and reset state: unpowered, held in a reset, running, on the way to a low-power state, or in one
(R465 to R485). -/
inductive PowerMode where
  | unpowered | held | run | entering | standby | dormant
deriving DecidableEq, Repr

/-- Supplies, resets and low power beyond the registers: the state, whether RESET_N is low, whether the crystal has stopped,
the cause of the reset that is held, the clock of the last dip and the rail that opened the warning episode (R471), the
clock that the watchdog counts from and its count before (R474), the sensors that read 115 °C or more last, whether EV_THERMAL
may be raised again (R472, R473), the readings and peaks of the sensors whose registers the watchdog's hide (R488), the target and the clock of a low-power entry (R483), and since then the
GPIO that saw a wake edge, the host's wake request and the grant rise (R484). -/
structure PwrState where
  mode      : PowerMode
  pinLow    : Bool
  noXtal    : Bool
  cause     : Nat
  railAt    : Nat
  warnRail  : Nat
  wdogAt    : Nat
  wdogUsed  : Nat
  hotMask   : Nat
  thermDone : Bool
  temps     : Tab Word
  target    : Nat
  entryAt   : Nat
  wakeGpio  : Option Nat
  wakeHost  : Bool
  wakeGrant : Bool
deriving DecidableEq, Repr

/-- The clock manager beyond its registers: the trim each video PLL runs at, in units of 0.001 ppm (R241), and the clock at
which the last requester of each PLL released it (R475). -/
structure ClkState where
  trim   : Tab Int
  idleAt : Tab (Option Nat)
deriving DecidableEq, Repr

/-- The main stream attributes of one frame (R279, R280): Mvid and Nvid, the totals, the starts from the sync edges, the sync
widths, whether the syncs are active high, the active size, whether YCbCr 4:4:4 is declared, the bits per component. -/
structure DpMsa where
  mvid   : Nat
  nvid   : Nat
  hTotal : Nat
  vTotal : Nat
  hStart : Nat
  vStart : Nat
  hSync  : Nat
  vSync  : Nat
  hHigh  : Bool
  vHigh  : Bool
  width  : Nat
  height : Nat
  ycc    : Bool
  bpc    : Nat
deriving DecidableEq, Repr

/-- A DisplayPort transmitter beyond its registers (R282 to R288): whether a training cycle is asked for, the clock of the
loss that R287 retrains after, the AUX transaction (0 none, 1 waiting behind training, 2 sent), the clock it was last sent
at, its retries, whether the raster streams, the MSA of the frame that streams (R280), the DPCD writes and the training patterns of
the last cycle or IRQ, in order (R284, R287). -/
structure DpState where
  want   : Bool
  lossAt : Option Nat
  aux    : Nat
  auxAt  : Nat
  defers : Nat
  stream : Bool
  msa    : Option DpMsa
  dpcd   : List (Nat × List Byte)
  tps    : List Nat
deriving DecidableEq, Repr

def DpState.reset : DpState := ⟨false, none, 0, 0, 0, false, none, [], []⟩

/-- What the main lanes of a DisplayPort link carry: nothing, training patterns, the idle pattern with NoVideoStream_Flag, the
raster (R280, R284, R288). -/
inductive DpMain where
  | electricalIdle | training | idlePattern | stream
deriving DecidableEq, Repr

/-- A symbol of a Thizon lane (R289). -/
inductive TzlSym where
  | data (b : Byte)
  | com | slp | str | sct | sst | eop | spr | idl
deriving DecidableEq, Repr

/-- A Thizon framer beyond its registers: whether it sends TS2, the clock its attempt began at or may next begin at (R290),
whether LINK was up when last settled, whether its traffic and whether its receive traffic moved to the spare (R301),
whether a line of the frame was cut, the control packet queued (R294), the clock of the last far-feed trailer (R299), and
the line packet, the trailer and the control packet last sent, the symbols last sent by display lane (R289), and a TRAIN
that waits for the link and time engine (R23). -/
structure TzlState where
  ts2     : Bool
  clockAt : Nat
  wasUp   : Bool
  txMoved : Bool
  rxMoved : Bool
  cut     : Bool
  queued  : Option (List Byte)
  loopAt  : Nat
  line    : List Byte
  trailer : List Byte
  control : List Byte
  wire    : List (Nat × List TzlSym)
  want    : Bool
deriving DecidableEq, Repr

def TzlState.reset : TzlState := ⟨false, 0, false, false, false, false, none, 0, [], [], [], [], false⟩

/-- A serial lane beyond its registers: the clock BITS counts on from, by bit number the mismatches of the last 1,024 bits (R440),
the clock from which its CDR may have held lock (R432), the clock of the last step of its equaliser (R430), the register of its
generator at the clock it started (R438), the bit from which it injects errors, the injected errors its checker has met, and the bit
that INJECT inverted last (R439). -/
structure LaneState where
  bitsAt   : Option Nat
  errs     : List Nat
  lockFrom : Nat
  eqAt     : Nat
  gen      : Nat
  genAt    : Option Nat
  injBase  : Nat
  injN     : Nat
  shot     : Option Nat
deriving DecidableEq, Repr

def LaneState.reset : LaneState := ⟨none, [], 0, 0, 0, none, 0, 0, none⟩

/-- A datagram waiting in a quad's packet buffer for its stream engine (R100, R101): its port, entry and path, whether it
came to UDP port + 1, its ingress stamp as wall time and local count, its UDP payload and the length of its frame. -/
structure NetDgram where
  port  : Nat
  entry : Nat
  pathB : Bool
  rtcp  : Bool
  wall  : Int
  count : Nat
  data  : List Byte
  size  : Nat
deriving DecidableEq, Repr

/-- The network ports beyond their registers: the frames the Curator has still to take, with port and ingress stamp, the
datagrams that wait for stream engines, what each stream engine took in the last 1 ms, as clock and payload bytes (R106), and
the frames of what each port last transmitted: one frame, or those of one access unit. -/
structure NetState where
  curator : List (Nat × Int × List Byte)
  waiting : List NetDgram
  load    : Tab (List (Nat × Nat))
  sent    : Tab (List (List Byte))
deriving DecidableEq, Repr

/-- A decoded picture that has not been output: the record SEQUENCE it came from, its buffers, its capture time and flags,
whether it is tainted, its SIGNATURE, whether it is a first field that waits for its second (R137, R138, R140, R153). -/
structure DecPic where
  seq    : Nat
  bufs   : List Nat
  cap    : Int
  capSrc : Bool
  div    : Bool
  taint  : Bool
  sig    : Nat
  half   : Bool
deriving DecidableEq, Repr

/-- A picture in the DPB: the record SEQUENCEs it came from, its slot, what the slot holds (0 a frame, 1 a top field, 2 a bottom
field, 3 both fields of a pair), whether it is tainted, whether it was generated (R136, R152, R153). -/
structure DecSlot where
  seqs  : List Nat
  slot  : Nat
  par   : Nat
  taint : Bool
  gen   : Bool
deriving DecidableEq, Repr

/-- A decode job: its context and class, its record SEQUENCE and that of its picture, whether that is a random access point,
recovery_frame_cnt of its recovery point, whether its record carries GAP, its field (0 frame, 1 top, 2 bottom), the first field
of its pair, the clock it started at, its cycles before it last ran, the clock it last ran from, its watchdog limit (R130, R143,
R148), whether its context has stopped (R154). -/
structure DecJob where
  ctx      : Nat
  cls      : Nat
  seq      : Nat
  pic      : Nat
  rap      : Bool
  recovery : Option Nat
  gap      : Bool
  field    : Nat
  mate     : Option Nat
  startAt  : Nat
  used     : Nat
  ranAt    : Nat
  limit    : Nat
  gone     : Bool
deriving DecidableEq, Repr

/-- A decode context beyond its registers: pictures not yet output; of its sequence the coded size, the place and size of the
cropped picture, the bit depths, whether it is 4:0:0, the slots of its DPB area; the pictures in the DPB, oldest first; whether
the next field without an SEI is a bottom field (R137); the pictures left to each recovery point (R153); its consecutive aborted
pictures (R149). -/
structure DecCtx where
  pics       : List DecPic
  codedW     : Nat
  codedH     : Nat
  cropX      : Nat
  cropY      : Nat
  depthY     : Nat
  depthC     : Nat
  mono       : Bool
  slots      : Nat
  dpb        : List DecSlot
  nextBottom : Bool
  recover    : List Nat
  aborted    : Nat
deriving DecidableEq, Repr

def DecCtx.reset : DecCtx := ⟨[], 0, 0, 0, 0, 8, 8, false, 0, [], false, [], 0⟩

/-- What a decode or encode pipe's registers need: the clock its present job was put on it, the intervals it was busy in the
last 100 ms, a phase (3 SAVING, 4 RESTORING, 5 RESETTING) with the clock that it ends at (R144, R149, R155), and the watchdog limit and
the cycles of the job that left it last (R27). -/
structure PipeTimes where
  since : Nat
  busy  : List (Nat × Nat)
  phase : Nat
  till  : Nat
  limit : Nat
  count : Nat
deriving DecidableEq, Repr

def PipeTimes.reset : PipeTimes := ⟨0, [], 0, 0, 0, 0⟩

/-- A decode pipe: the job it runs and the job it holds suspended (R144), its times, and the pipe store's content as the number from
which its undefined bytes are drawn (R31). -/
structure DecPipe where
  job   : Option DecJob
  susp  : Option DecJob
  times : PipeTimes
  store : Nat
deriving DecidableEq, Repr

def DecPipe.reset : DecPipe := ⟨none, none, PipeTimes.reset, 0⟩

/-- One record of the decode fault log (R155). -/
structure DecFault where
  pipe  : Nat
  ctx   : Nat
  cause : Nat
  addr  : Nat
  seq   : Nat
deriving DecidableEq, Repr

/-- The decode pipes and their scheduler beyond their registers: contexts, pipes, the fault log, and the loads completed, as
clock and samples (R146). -/
structure DecState where
  ctxs   : Tab DecCtx
  pipes  : Tab DecPipe
  faults : List DecFault
  loads  : List (Nat × Nat)
deriving DecidableEq, Repr

/-- A row in a capture port's input store: luma or Bayer samples, chroma samples. -/
structure CapRow where
  ys : List Nat
  cs : List Nat
deriving DecidableEq, Repr

/-- The frame that a capture port receives: its SEQUENCE, its frame-start stamp as wall time and local count, its field, its
buffers for display, coding and machine vision, the rows taken from the store, which the pipe's line buffers hold while its windows need
them (R31, R178), the rows processed, the rows kept for statistics,
the display rows as they were written (R251), the rows after stage 10 and after stage 11 where a scaler works on them (R173), whether
temporal noise reduction is off for it (R166), whether it takes k = 0 (R169). -/
structure CapFrame where
  seq    : Nat
  wall   : Int
  count  : Nat
  field  : Nat
  disp   : Nat
  code   : Option Nat
  mv     : Option Nat
  lines  : List CapRow
  done   : Nat
  stat   : List CapRow
  pix    : Tab (List Nat)
  linear : List (List (Nat × Nat × Nat))
  full   : List (List (Nat × Nat × Nat))
  tnrOff : Bool
  cold   : Bool
deriving DecidableEq, Repr

/-- A capture port beyond its registers: the input store (R159), F of the SAV that a row or a frame start awaits and whether an
EAV with V at 1 came before it (R157, R160), the HSYNC edges since the frame start, the stamp of the frame start that waits for
its first row (R161), the rows received of the frame, the row received last, its clock, the frame, the clock of the last
frame start, and the clock of the last command that PCLK edges came with (R184). -/
structure CapPort where
  store   : List CapRow
  sav     : Option Bool
  blank   : Bool
  hsyncs  : Nat
  begun   : Option (Int × Nat)
  rowsIn  : Nat
  last    : CapRow
  rowAt   : Nat
  frame   : Option CapFrame
  startAt : Nat
  pclkAt  : Option Nat
deriving DecidableEq, Repr

def CapPort.reset : CapPort := ⟨[], none, false, 0, none, 0, ⟨[], []⟩, 0, none, 0, none⟩

/-- A context of an image pipe beyond its registers: its active parameters by register address, the master that armed the shadow
set and the word it wrote (R180), whether no frame has started since its enable (R167), the positions of its coding and
machine-vision rings last filled (R175), whether its next frame takes k = 0 in temporal noise reduction (R169). -/
structure IspCtx where
  active  : Tab Word
  armer   : Nat
  armWord : Word
  fresh   : Bool
  codePos : Option Nat
  mvPos   : Option Nat
  cold    : Bool
deriving DecidableEq, Repr

def IspCtx.reset : IspCtx := ⟨[], 0, 0, false, none, none, false⟩

/-- An image pipe beyond its registers: the context served last (R181; 3 where none was), the rows of the last 100 ms as the clock
each began at and its cost in ns, and the clock at which its clock was gated (R184, R475). -/
structure IspPipe where
  served : Nat
  loads  : List (Nat × Nat)
  gated  : Option Nat
deriving DecidableEq, Repr

def IspPipe.reset : IspPipe := ⟨3, [], some 0⟩

/-- The capture ports, the contexts by 4 × pipe + context, and the image pipes. -/
structure CapState where
  ports  : Tab CapPort
  ctxs   : Tab IspCtx
  pipes  : Tab IspPipe
deriving DecidableEq, Repr

/-- A trigger of a stream that waits for a pipe (R310, R317): its number since the PTP epoch, its clock, the buffer it takes
(none where a repeat finds its buffer no longer READY) with its SEQUENCE, whether it is a repeat, and then the tag and ARRIVAL of the
picture that it repeats. -/
structure EncPend where
  trig  : Int
  time  : Nat
  buf   : Option Nat
  seq   : Nat
  again : Bool
  tag   : List Byte
  count : Nat
deriving DecidableEq, Repr

/-- An encode job: its stream and class, its trigger, its buffer, whether it is a repeat, and the SEQUENCE, tag and ARRIVAL as read at
its start, whether it codes an IDR, its place in a refresh cycle (R309), the CPB fullness before its removal, the arrival rate and
its target (R313, R314), its clocks and watchdog limit as a decode job has them, and whether its stream has stopped (R325). -/
structure EncJob where
  str     : Nat
  cls     : Nat
  trig    : Int
  buf     : Option Nat
  seq     : Nat
  again   : Bool
  tag     : List Byte
  count   : Nat
  idr     : Bool
  refresh : Option Nat
  full    : Nat
  rate    : Nat
  goal    : Nat
  startAt : Nat
  used    : Nat
  ranAt   : Nat
  limit   : Nat
  gone    : Bool
deriving DecidableEq, Repr

/-- Where a search window stands: the block row and the block column that it lies about (R312). -/
structure EncWindow where
  row : Nat
  col : Nat
deriving DecidableEq, Repr

/-- An encode pipe: the job it runs, the job it holds suspended, its times (R317, R326), the samples of the picture last coded
as the input stages gave them (R310), the place and the reference pictures of its search windows (R312), and the content of the rest of
its store as the number from which its undefined bytes are drawn (R31). -/
structure EncPipe where
  job    : Option EncJob
  susp   : Option EncJob
  times  : PipeTimes
  input  : List Nat
  window : EncWindow
  refs   : List Nat
  store  : Nat
deriving DecidableEq, Repr

def EncPipe.reset : EncPipe := ⟨none, none, PipeTimes.reset, [], ⟨0, 0⟩, [], 0⟩

/-- A stream beyond its registers: the trigger that waits, the last trigger, the tag and ARRIVAL of the picture last coded, the
trigger of the last removal from the CPB, whether the next picture is an IDR (R308), the pictures coded since the last one,
whether the last was coded in tail mode (R316), the clock of the last sender report, the next RTP sequence number, the
packets and octets sent, and the places in the reference area of the previous picture and of the long-term reference (R312). -/
structure EncStr where
  pend     : Option EncPend
  lastTrig : Int
  done     : Option (List Byte × Nat)
  remTrig  : Int
  idrNext  : Bool
  sinceIdr : Nat
  tailed   : Bool
  srAt     : Nat
  rtpSeq   : Nat
  pkts     : Nat
  octets   : Nat
  ref      : Option Nat
  ltr      : Option Nat
deriving DecidableEq, Repr

def EncStr.reset : EncStr := ⟨none, 0, none, 0, false, 0, false, 0, 0, 0, 0, none, none⟩

/-- The encode pipes and their scheduler beyond their registers: streams, pipes, the fault log, and the loads completed, as
clock and samples. -/
structure EncState where
  strs   : Tab EncStr
  pipes  : Tab EncPipe
  faults : List DecFault
  loads  : List (Nat × Nat)
deriving DecidableEq, Repr

/-- A contact of a panel as its last kept frame left it (R336 to R342): the position last reported with MOVE or NEW, the clock
it came down at, whether it is an object, whether the Curator ring has it. -/
structure TchContact where
  id       : Nat
  x        : Nat
  y        : Nat
  area     : Nat
  strength : Nat
  repX     : Nat
  repY     : Nat
  downAt   : Nat
  object   : Bool
  curator  : Bool
deriving DecidableEq, Repr

/-- A touch panel beyond its registers: the clock its present frame began at, the clock its last frame began at (R330), the
parameters taken with it by register address (R340, R347), the sums of the baseline frames and their number, the baselines by node (none formed: empty), the raw values
last kept, the contacts, the IDs released in the previous kept frame, the nodes of pending anti-touch regions with the number
of the kept frame each joined in, kept frames since the baselines last drifted, and in STANDBY the reference scans, their
number, the hits in a row by sense line and the clock of the last scan (R346). -/
structure TchPanel where
  openAt   : Option Nat
  startAt  : Option Nat
  cfg      : Tab Word
  sums     : List Nat
  sumN     : Nat
  base     : List Nat
  raw      : List Nat
  contacts : List TchContact
  gone     : List Nat
  anti     : List (Nat × Nat)
  drift    : Nat
  refSums  : List Nat
  refN     : Nat
  hits     : List Nat
  scanAt   : Option Nat
deriving DecidableEq, Repr

def TchPanel.reset : TchPanel := ⟨none, none, [], [], 0, [], [], [], [], [], 0, [], 0, [], none⟩

/-- Touch beyond its registers: the panels, whether the report ring and the Curator ring have dropped a record since the last
one written, whether the standby scanner runs and has raised its wake request (R346). -/
structure TchState where
  panels  : Tab TchPanel
  dropRpt : Bool
  dropCur : Bool
  scan    : Bool
  wake    : Bool
deriving DecidableEq, Repr

/-- Custody beyond its registers (R349 to R368): whether the grant in force lets the unit act, the clock of the last kick, that
of the last valid custodian frame, the clock of the grant change that a release began at, the heads whose latch points it
still waits for, the clock at which the generations of a STANDBY_READY unit began to differ, the clock of an effective grant
rise that waits for TAKE_DELAY_MS, whether the boot loader isolated the unit, the health event bits since the last STATUS
frame, whether EV_CFG_DIVERGENT has been raised since the last hard reset, LIVE_GEN as latched at STANDBY entry, the
STATUS frame last sent and its clock, and the clock of the rising edge from which CUS_ALIVE toggles (R351, R354). -/
structure CusState where
  eff       : Bool
  kickAt    : Option Nat
  rxAt      : Nat
  relAt     : Nat
  relHeads  : List Nat
  diffAt    : Option Nat
  takeAt    : Option Nat
  isoBoot   : Bool
  noted     : Nat
  divergent : Bool
  genHeld   : Nat
  sent      : List Byte
  sentAt    : Option Nat
  aliveAt   : Option Nat
deriving DecidableEq, Repr

/-- A memory channel beyond its registers: the clock its drift window began at, those of the last periodic window and ZQ calibration
and the oscillator's count at the last training, by set point (R390), the set points that a retrain is pending for (R397), the clocks
at which the retrain and the ZQ latch became pending and whether NO_SLOT has been raised for each (R391), the corrected errors of the
last second by clock (R398), the clock of the last ECS read and its row, as bank and row (R400), the clocks of the last read of mode
register 4 and of the last refresh due (R383), whether a run of refreshes has ended since a request was served (R385), and until when
refreshes block it. -/
structure DmcChan where
  osc     : Option Nat
  oscAt   : Nat
  zqFrom  : Nat
  trained : Tab Nat
  pend    : List Nat
  pendAt  : Nat
  pendOut : Bool
  zqAt    : Nat
  zqOut   : Bool
  corr    : List (Nat × Nat)
  ecsAt   : Nat
  ecs     : Option (Nat × Nat)
  rateAt  : Nat
  refAt   : Nat
  rest    : Bool
  busyTo  : Nat
deriving DecidableEq, Repr

def DmcChan.reset : DmcChan := ⟨none, 0, 0, [], [], 0, false, 0, false, [], 0, none, 0, 0, false, 0⟩

/-- A channel whose controller begins to run, with the counts of its training: its periods begin. -/
def DmcChan.started (now : Nat) (trained : Tab Nat) : DmcChan :=
  { DmcChan.reset with oscAt := now, zqFrom := now, trained := trained, ecsAt := now, rateAt := now, refAt := now }

/-- A calibration slot: the clock of its end, its DMC_MASK, whether it is of kind CAL_FSP (R387). -/
structure CalSlot where
  until_ : Nat
  mask   : Nat
  fsp    : Bool
deriving DecidableEq, Repr

/-- The memory controllers beyond their registers: the channels, the channel that retrains and the clock it began at, the slots
that act as the one open, and the controllers that have retrained in it (R387, R388), whether it is the one that the pending change may
start in (R395), the target of the set-point change that runs, the judged windows without skew since the last EV_DRAM_CHAN_SKEW and
whether that is armed (R377), and the channel and candidate of the repair that runs (R401). -/
structure DmcState where
  chans  : Tab DmcChan
  train  : Option (Nat × Nat)
  slots  : List CalSlot
  ran    : Nat
  opened : Bool
  change : Option Nat
  calm   : Nat
  armed  : Bool
  ppr    : Option (Nat × Nat)
deriving DecidableEq, Repr

/-- How far the boot loader is (R450 to R454): nothing to do; due to run; training memory; reading a copy; waiting for image
bytes; in a pause of a register list; stopping what a refused image started. -/
inductive BootPhase where
  | idle | due | training | reading | receiving | pausing | stopping
deriving DecidableEq, Repr

/-- One step of applying an image: a register write, a pause in µs, or a numbered step of R452. -/
inductive BootAct where
  | write (a : Nat) (v : Word)
  | pause (us : Nat)
  | step (k : Nat)
deriving DecidableEq, Repr

/-- What the boot loader runs after (R452, R485). -/
inductive BootKind where
  | hard | soft | standby | dormant
deriving DecidableEq, Repr

/-- A FLASH_WRITE that runs: the slot that asked, the flash address, the data, VERIFY, and whether a supply warning has paused it (R456,
R471). -/
structure FlashJob where
  slot   : Nat
  addr   : Nat
  data   : List Byte
  verify : Bool
  paused : Bool
deriving DecidableEq, Repr

/-- The boot loader beyond its registers: its phase, the clock of the reset or wake, what it runs after, whether it boots in
full, the image bytes received from the host, the copies still to verify (0 A, 1 B), whether both must be, the DMC section
trained with, the copy in use (2: the host's image), the acts to come, the step of R452 reached, the clock a pause ends at, that
from which step 8 looks at the select pins, the reason of a refusal that waits for the heads, the FLASH_WRITE that runs, and the digest being programmed (R463). -/
structure BootState where
  phase   : BootPhase
  at_     : Nat
  kind    : BootKind
  full    : Bool
  image   : List Byte
  order   : List Nat
  both    : Bool
  dmc     : List Byte
  chosen  : Option Nat
  todo    : List BootAct
  step    : Nat
  pauseTo : Nat
  lookAt  : Nat
  why     : Nat
  flash   : Option FlashJob
  fuse    : Option (List Nat)
deriving DecidableEq, Repr

/-- The host ports beyond their registers: the bytes last returned by host SPI and I2C, LAST_RESULT's FAIL_INDEX, the I2C
pointer, the management response last sent and that to the message last executed, the header of a management message whose answer waits for slot 1, and the slot
whose PRESET waits for its load, and the taken slots whose requests have been answered (R457 to R462). -/
structure HostState where
  spiOut  : List Byte
  spiFail : Nat
  i2cPtr  : Nat
  i2cOut  : List Byte
  mgmtOut : List Byte
  mgmtLast : List Byte
  mgmtDue : Option (List Byte)
  mgmtFrom : Option Nat × Nat
  preset  : Option Nat
  served  : List Nat
deriving DecidableEq, Repr

/-- The whole machine. `clock` counts the nanoseconds of all commands, and is the model's own. -/
structure State where
  clock   : Nat
  pwr     : PwrState
  clk     : ClkState
  regs    : Tab Word
  mem     : List Host.Cell
  eccBad  : List Nat
  bus     : BusState
  time    : TimeState
  evt     : EvtState
  eng     : Tab EngState
  engMem  : List Host.Cell
  pins    : PinState
  flash   : List Host.Cell
  img     : ImgState
  seq     : SeqState
  heads   : Tab HeadState
  bufs    : Tab BufState
  srcs    : Tab SrcState
  rel     : List (Nat × Bool)
  lanes   : Tab LaneState
  quads   : Tab (Option Nat)
  dp      : Tab DpState
  tzl     : Tab TzlState
  net     : NetState
  dec     : DecState
  cap     : CapState
  enc     : EncState
  tch     : TchState
  cus     : CusState
  dmc     : DmcState
  boot    : BootState
  host    : HostState
  free    : Nat
  pending : List Instr
deriving DecidableEq, Repr

/-- A fixed number of fuse words, all 0. -/
def fusesBlank : List Nat := [0, 0, 0, 0, 0, 0, 0, 0]

/-- The machine right after a power-on reset: every register at its reset value, straps and fuses 0, the memories without
content, the boot loader due to run.
(DESIGN CHOICE, log entry 8) (DESIGN CHOICE, log entry 89) -/
def State.reset : State := {
  clock := 0
  pwr := {
    mode := .run, pinLow := false, noXtal := false, cause := 0, railAt := 0, warnRail := 0, wdogAt := 0, wdogUsed := 0,
    hotMask := 0, thermDone := false, temps := [], target := 0, entryAt := 0, wakeGpio := none, wakeHost := false, wakeGrant := false }
  clk := ⟨[], []⟩
  regs := []
  mem := []
  eccBad := []
  bus := ⟨[], [], none, [], [], [], [], [], [], 0⟩
  time := ⟨0, 0, 0, 0, 0, 0, [], [], none, false, 0⟩
  evt := ⟨[], false, 0, [], [], 0, 0, false, []⟩
  eng := []
  engMem := []
  pins := { gpio := 0, edgeAt := [], bootMode := 0, unitId := 0, cusMode := false, grade := 0, uid := 0, keyDigest := fusesBlank }
  flash := []
  img := ⟨[], [], []⟩
  seq := ⟨0, false, [], [], [], .idle, false⟩
  heads := []
  bufs := []
  srcs := []
  rel := []
  lanes := []
  quads := []
  dp := []
  tzl := []
  net := ⟨[], [], [], []⟩
  dec := ⟨[], [], [], []⟩
  cap := ⟨[], [], []⟩
  enc := ⟨[], [], [], []⟩
  tch := ⟨[], false, false, false, false⟩
  cus := ⟨false, none, 0, 0, [], none, none, false, 0, false, 0, [], none, none⟩
  dmc := ⟨[], none, [], 0, false, none, 0, true, none⟩
  boot := ⟨.due, 0, .hard, true, [], [], false, [], none, [], 0, 0, 0, 0, none, none⟩
  host := ⟨[], 0, 0, [], [], [], none, (none, 0), none, []⟩
  free := 0
  pending := [] }

end Sys2Proof.Machine
end

