-- ==== Sys2Proof/Machine/Ops.lean ====
section
/-! DEFINITION. The named operations over registers, time, memory, the error log and the events, which every
command's meaning is written with. -/

namespace Sys2Proof.Machine

/-! ### Registers and their fields -/

/-- The value a field of `width` bits at bit `lo` has in a register word. -/
def fieldGet (w : Word) (lo width : Nat) : Nat := (w.toNat >>> lo) % 2 ^ width

/-- A register word with the field of `width` bits at bit `lo` set to the low bits of `v`. -/
def fieldSet (w : Word) (lo width v : Nat) : Word :=
  (w &&& ~~~(BitVec.ofNat 32 ((2 ^ width - 1) <<< lo))) ||| BitVec.ofNat 32 ((v % 2 ^ width) <<< lo)

/-- The word held at register address `a`. -/
def State.reg (s : State) (a : Nat) : Word := Tab.get (resetWord a) a s.regs

/-- The state with word `w` held at register address `a`. -/
def State.setReg (s : State) (a : Nat) (w : Word) : State :=
  { s with regs := Tab.put (resetWord a) a w s.regs }

/-- The value of a register field. -/
def State.g (s : State) (f : FRef) : Nat := fieldGet (s.reg f.addr) f.lo f.width

/-- Whether a one-bit field is 1. -/
def State.gb (s : State) (f : FRef) : Bool := s.g f != 0

/-- The signed value of a register field. -/
def State.gi (s : State) (f : FRef) : Int := signed f.width (s.g f)

/-- The state with a register field set to the low bits of `v`. -/
def State.p (s : State) (f : FRef) (v : Nat) : State :=
  s.setReg f.addr (fieldSet (s.reg f.addr) f.lo f.width v)

/-- The state with a one-bit field set to `b`. -/
def State.pb (s : State) (f : FRef) (b : Bool) : State := s.p f b.toNat

/-- A counter that wraps at its maximum, counted up by one. -/
def State.inc (s : State) (f : FRef) : State := s.p f (s.g f + 1)

/-- A counter that wraps at its maximum, counted up by `n`. -/
def State.incBy (s : State) (f : FRef) (n : Nat) : State := s.p f (s.g f + n)

/-- A counter that saturates, counted up by `n`. -/
def State.incSatBy (s : State) (f : FRef) (n : Nat) : State := s.p f (min (s.g f + n) (2 ^ f.width - 1))

/-- A counter that saturates, counted up by one. -/
def State.incSat (s : State) (f : FRef) : State := s.incSatBy f 1

/-- Every listed register in the range from `lo` to `hi` returned to its reset value in the bits `mask` gives. -/
def State.resetRegs (s : State) (lo hi : Nat) (mask : Nat → Word) : State :=
  let back := fun a w => if lo ≤ a ∧ a < hi then (w &&& ~~~(mask a)) ||| (resetWord a &&& mask a) else w
  { s with regs := Tab.remap resetWord back s.regs }

/-! ### The PLLs that blocks request (R475) -/

/-- Whether a block requests PLL `k`, numbered as the bits of CLK.RUNNING: MEDIA by a decode or encode pipe, ISP by a context
of an image pipe, VPLL k - 8 by its ENABLE; the others run whenever CORE is powered. -/
def State.pllWanted (s : State) (k : Nat) : Bool :=
  if k = 3 then
    (List.range 8).any (fun n => s.gb (Reg.DEC.CTRL.ENABLE n)) || (List.range 2).any (fun n => s.gb (Reg.ENC.PIPE.ENABLE n))
  else if k = 4 then (List.range 16).any (fun n => s.gb (Reg.ISP.CTX.ENABLE (n / 4) (n % 4)))
  else if 8 ≤ k then s.gb (Reg.CLK.VPLL.ENABLE (k - 8))
  else true

/-- The PLLs that run on request. -/
def pllsOnRequest : List Nat := [3, 4, 8, 9, 10, 11, 12, 13, 14, 15]

/-- Each PLL that is requested starts, and the release of one that runs is timed (R475). -/
def State.clkRefresh (s : State) : State :=
  pllsOnRequest.foldl (fun s k =>
    let idle := Tab.get none k s.clk.idleAt
    if s.pllWanted k then
      { s with clk := { s.clk with idleAt := Tab.put none k none s.clk.idleAt } }.p Reg.CLK.RUNNING
        (s.g Reg.CLK.RUNNING ||| 2 ^ k)
    else if (s.g Reg.CLK.RUNNING).testBit k && idle.isNone then
      { s with clk := { s.clk with idleAt := Tab.put none k (some s.clock) s.clk.idleAt } }
    else s) s

/-! ### Free values -/

/-- The next free value, as a number. -/
def State.freeNat (s : State) : Nat := Config.freeNat s.free

/-- The state with the free value drawn.
(DESIGN CHOICE, log entry 9) -/
def State.drawn (s : State) : State := { s with free := s.free + 1 }

/-- A register field set to a free value (a value the spec leaves undefined or unstated). -/
def State.pFree (s : State) (f : FRef) : State := (s.p f s.freeNat).drawn

/-! ### Time -/

/-- Whether the CORE domain is powered and out of reset (R30). -/
def State.coreOn (s : State) : Bool :=
  match s.pwr.mode with
  | .run => true
  | .entering => true
  | _ => false

/-- Whether the PPS output is driven in the present time state (R92): the link and time engine runs, OUT_EN is 1, and
the state is LOCKED or HOLDOVER or OUT_UNLOCKED is 1. -/
def State.ppsDriven (s : State) : Bool :=
  s.coreOn && s.g (Reg.ENG.STATUS.STATE 23) == 2 && s.gb Reg.TIME.PPS_CTRL.OUT_EN &&
    (s.gb Reg.TIME.PPS_CTRL.OUT_UNLOCKED || decide (2 ≤ s.g Reg.TIME.STATUS.STATE))

/-- The level of the PPS output: high in a pulse that has not ended, held low while it is not driven (R92). -/
def State.ppsLevel (s : State) : Bool := s.ppsDriven && s.time.ppsOut && decide (s.clock < s.time.ppsEnd)

/-- Nanoseconds that `elapsed` nanoseconds of low power add to the count: whole ticks of 32.768 kHz, each
30,517.578125 ns, the first a full tick after the entry, whose fraction of a nanosecond is dropped at the wake (R77).
(DESIGN CHOICE, log entry 2) -/
def lowPowerCount (elapsed : Nat) : Nat := (elapsed * 64 / 1953125) * 1953125 / 64

/-- Time passes: the local counter counts nanoseconds (R76), in STANDBY and DORMANT by ticks of 32.768 kHz (R77), and
stands at 0 in a reset; a pulse of the PPS output that was cut off, or has ended, does not come back (R92).
(DESIGN CHOICE, log entry 2) -/
def State.advance (s : State) (dt : Nat) : State :=
  let high := s.ppsLevel
  match s.pwr.mode with
  | .run | .entering =>
    { s with clock := s.clock + dt, time := { s.time with count := (s.time.count + dt) % 2 ^ 64, ppsOut := high } }
  | .standby | .dormant =>
    { s with
      clock := s.clock + dt
      time := { s.time with
        lpElapsed := s.time.lpElapsed + dt
        count := (s.time.lpBase + lowPowerCount (s.time.lpElapsed + dt)) % 2 ^ 64
        ppsOut := high } }
  | _ => { s with clock := s.clock + dt, time := { s.time with ppsOut := high } }

/-- Nanoseconds in a second. -/
def nsPerSec : Int := 1000000000

/-- An 80-bit time held to its 48 bits of signed seconds. -/
def wrapSec48 (ns : Int) : Int := signed 48 (unsigned 48 (ns / nsPerSec)) * nsPerSec + ns % nsPerSec

/-- Wall time in units of 2^-40 ns: OFFSET + LOCAL × (1 + RATE × 2^-40) (R78). -/
def wallFine (offset : Int) (count : Nat) (rate : Int) : Int :=
  offset * 256 + (count : Int) * (2 ^ 40 + rate)

/-- Wall time at local count `count`, in whole nanoseconds truncated toward minus infinity (R78). -/
def State.wallAt (s : State) (count : Nat) : Int :=
  wrapSec48 (wallFine s.time.offset count (s.gi Reg.TIME.RATE.RATE) / 2 ^ 40)

/-- Wall time now. -/
def State.wall (s : State) : Int := s.wallAt s.time.count

/-- The seconds of a time, as 48 bits of two's complement (R78). -/
def wallSec (ns : Int) : Nat := unsigned 48 (ns / nsPerSec)

/-- The nanoseconds of a time, 0 to 999,999,999 (R78). -/
def wallNs (ns : Int) : Nat := (ns % nsPerSec).toNat

/-- The time whose 48-bit seconds and nanoseconds these are. -/
def wallOf (sec ns : Nat) : Int := signed 48 sec * nsPerSec + ns

/-- The time state (R81): 0 UNLOCKED, 1 ACQUIRING, 2 LOCKED, 3 HOLDOVER. -/
def State.timeState (s : State) : Nat := s.g Reg.TIME.STATUS.STATE

/-! ### Memory -/

/-- The byte of the physical memory at `a`; one that nothing has written reads 0.
(DESIGN CHOICE, log entry 6) -/
def State.byte (s : State) (a : Nat) : Byte := Tab.get 0 a s.mem

/-- `n` bytes of a memory from `a`.
(DESIGN CHOICE, log entry 6) -/
def cellsRead (m : List Host.Cell) (a : Nat) : Nat → List Byte
  | 0 => []
  | n + 1 => Tab.get 0 a m :: cellsRead m (a + 1) n

/-- Bytes written to a memory from `a`. -/
def cellsWrite (m : List Host.Cell) (a : Nat) : List Byte → List Host.Cell
  | [] => m
  | b :: bs => cellsWrite (Tab.put 0 a b m) (a + 1) bs

/-- `n` bytes of the physical memory from `a`. -/
def State.bytes (s : State) (a n : Nat) : List Byte := cellsRead s.mem a n

/-- The 64-bit ECC words that lie wholly in the `n` bytes from `a` are free of errors again (R32).
(DEDUCED, log entry 14) -/
def eccClear (a n : Nat) (bad : List Nat) : List Nat :=
  bad.filter (fun w => !(decide (a ≤ 8 * w) && decide (8 * w + 8 ≤ a + n)))

/-- The state with bytes `bs` written to the physical memory from `a`. -/
def State.store (s : State) (a : Nat) (bs : List Byte) : State :=
  { s with mem := cellsWrite s.mem a bs, eccBad := eccClear a bs.length s.eccBad }

/-- The content of `n` bytes from `a` is undefined: bytes of a free value. -/
def State.storeFree (s : State) (a n : Nat) : State :=
  (s.store a ((List.range n).map (Config.freeByte s.free))).drawn

/-- The number whose little-endian bytes these are. -/
def leNat : List Byte → Nat
  | [] => 0
  | b :: bs => b.toNat + 256 * leNat bs

/-- The `n` little-endian bytes of `v`. -/
def leBytes (v : Nat) : Nat → List Byte
  | 0 => []
  | n + 1 => BitVec.ofNat 8 v :: leBytes (v / 256) n

/-- The number whose big-endian bytes these are. -/
def beNat (bs : List Byte) : Nat := leNat bs.reverse

/-- The `n` big-endian bytes of `v`. -/
def beBytes (v n : Nat) : List Byte := (leBytes v n).reverse

/-- `n` little-endian bytes of the physical memory from `a`, as a number. -/
def State.le (s : State) (a n : Nat) : Nat := leNat (s.bytes a n)

/-- The bytes of an 80-bit time in a record: 48-bit seconds, then 32-bit nanoseconds (R498). -/
def timeBytes (ns : Int) : List Byte := leBytes (wallSec ns) 6 ++ leBytes (wallNs ns) 4

/-! ### The address map (R372 to R376, R414) -/

/-- Base of DRAM. -/
def dramBase : Nat := 0x800000000

/-- Installed DRAM in bytes, by DMC.CONFIG.DENSITY (R372). -/
def State.dramBytes (s : State) : Nat := 8 * 2 ^ 30 * (s.g Reg.DMC.CONFIG.DENSITY + 1)

/-- Whether the `n` bytes from `a` lie in DRAM (R373). -/
def State.inDram (s : State) (a n : Nat) : Bool :=
  decide (dramBase ≤ a) && decide (a + n ≤ dramBase + s.dramBytes)

/-- Whether the `n` bytes from `a` lie in the shared store that masters may use (R414). -/
def inShared (a n : Nat) : Bool := decide (a + n ≤ 0x7C0000)

/-- The parity of the low `n` bits of `x`. -/
def parity (x : Nat) : Nat → Bool
  | 0 => false
  | n + 1 => xor (x.testBit n) (parity x n)

/-- The channel of the granule that holds DRAM address `a` (R374). -/
def State.channelOf (s : State) (a : Nat) : Nat :=
  let d := a - dramBase
  let bit := fun i => (xor (d.testBit (8 + i)) (parity ((d / 4096) &&& s.g (Reg.DMC.HASH_MASK i)) 23)).toNat
  bit 0 + 2 * bit 1 + 4 * bit 2 + 8 * bit 3

/-- The channel-local address of DRAM address `a` (R374). -/
def channelLocal (a : Nat) : Nat := (a - dramBase) % 256 + 256 * ((a - dramBase) / 4096 % 2 ^ 23)

/-- The bank of a channel-local address (R375). -/
def bankOf (l : Nat) : Nat := (l / 2 ^ 11 % 16) ^^^ (l / 2 ^ 15 % 16)

/-- The row of a channel-local address (R375). -/
def rowOf (l : Nat) : Nat := l / 2 ^ 15 % 2 ^ 16

/-- The target port of a data access at `a`; none where no target exists (R413, R414). -/
def State.dataTarget (s : State) (a : Nat) : Option Nat :=
  if a < 0x800000 then some 8
  else if 0x1000000 ≤ a ∧ a < 0x1080000 then some 9
  else if 0x1400000 ≤ a ∧ a < 0x1600000 then some 10
  else if 0x1800000 ≤ a ∧ a < 0x1820000 then some 11
  else if 0x8000000 ≤ a ∧ a < 0x10000000 then some 12
  else if s.inDram a 1 then some (s.channelOf a / 2)
  else none

/-! ### The error log (R417) -/

/-- The reasons of R417. -/
abbrev Rsn.decode : Nat := 1
abbrev Rsn.size : Nat := 2
abbrev Rsn.burst : Nat := 3
abbrev Rsn.protect : Nat := 4
abbrev Rsn.readOnly : Nat := 5
abbrev Rsn.refused : Nat := 8
abbrev Rsn.ecc : Nat := 9
abbrev Rsn.rwkClosed : Nat := 0x10
abbrev Rsn.reservedValue : Nat := 0x11
abbrev Rsn.ignored : Nat := 0x12

/-- The group of a reason (R417). -/
def reasonGroup (r : Nat) : Nat := if r ≤ 5 then 0 else if r < 0x10 then 1 else 2

/-- A record put at the end of the log, but before those of the same clock whose masters have higher numbers (R418). -/
def errInsert (r : ErrRecord) : List ErrRecord → List ErrRecord
  | [] => [r]
  | x :: xs => if x.time = r.time ∧ r.master < x.master then r :: x :: xs else x :: errInsert r xs

/-- A record written to the ring of the 16 most recent: the oldest is overwritten and counted in LOST when the ring is
full, and a record whose group LOG_MASK leaves out is not written (R417, R418).
(DESIGN CHOICE, log entry 39) -/
def State.errLog (s : State) (r : ErrRecord) : State :=
  if bitOf (s.g Reg.ERR.CTRL.LOG_MASK) (reasonGroup r.reason) then
    let log := errInsert r s.bus.err
    if s.bus.err.length < 16 then { s with bus := { s.bus with err := log } }
    else { s with bus := { s.bus with err := log.drop 1 } }.incSat Reg.ERR.STATUS.LOST
  else s

/-- The record of a control write of `v` at `a` by master `m` (R407, R417). -/
def ctlRecord (s : State) (reason m a : Nat) (write resp : Bool) (v : Word) : ErrRecord :=
  { reason := reason, master := m, target := if reason = Rsn.decode then 14 else 13, addr := a, write := write,
    control := true, resp := resp, qos := 0, id := 0, beats := 1, strobes := if write then 15 else 0,
    data := if write then v else 0, time := s.time.count }

/-- A control write that a block ignores and logs, or an enable that fails its checks (R417, reason IGNORED). -/
def State.logIgnored (s : State) (m a : Nat) (v : Word) : State :=
  s.errLog (ctlRecord s Rsn.ignored m a true false v)

/-! ### Events (R489 to R499) -/

/-- The pulses that a raise acting on a route starts on the pins in PULSE mode (R496). -/
def pulsePins (s : State) (pins : Nat) : List Nat → State
  | [] => s
  | p :: ps =>
    if bitOf pins p && s.gb (Reg.EVT.INT_CTRL.MODE p) then
      pulsePins { s with evt := { s.evt with
        pulseEnd := Tab.put none p (some (s.clock + 1000 * s.g (Reg.EVT.INT_CTRL.PULSE_US p))) s.evt.pulseEnd } } pins ps
    else pulsePins s pins ps

/-- The 32 bytes of a log record (R498). -/
def logRecord (r : RaiseInfo) (tstate seq : Nat) (dropped : Bool) : List Byte :=
  leBytes r.source 1 ++ leBytes r.causes 1 ++ leBytes tstate 1 ++ leBytes dropped.toNat 1 ++ leBytes seq 4 ++
    timeBytes r.wall ++ leBytes r.count 8 ++ leBytes 0 2 ++ leBytes r.arg 4

/-- What has been raised of `source` in the present clock, as causes with 256 for the raise itself (R491, R493). -/
def State.raisedNow (s : State) (source : Nat) : Nat :=
  if s.evt.at_ = s.clock then
    (s.evt.marks.filter (fun e => e.1 == source)).foldl (fun n e => n ||| (256 + e.2 % 256)) 0
  else 0

/-- A raise noted as one of the present clock (R491, R493, R499). -/
def State.raiseMark (s : State) (r : RaiseInfo) : State :=
  { s with evt := { s.evt with
    at_ := s.clock
    marks := (r.source, r.causes) :: (if s.evt.at_ = s.clock then s.evt.marks else [])
    logs := if s.evt.at_ = s.clock then s.evt.logs else [] } }

/-- Steps 1 and 2 of R492 but for the log: STATUS or the cause bits are set, and the pulses start. -/
def State.raiseSet (s : State) (r : RaiseInfo) : State :=
  let s := s.raiseMark r
  let s := if r.source < 64 then
      s.p (Reg.EVT.STATUS (r.source / 32)) (s.g (Reg.EVT.STATUS (r.source / 32)) ||| 2 ^ (r.source % 32))
    else s.p (Reg.EVT.HEAD_CAUSE.CAUSE (r.source - 64)) (s.g (Reg.EVT.HEAD_CAUSE.CAUSE (r.source - 64)) ||| r.causes)
  if bitOf (s.g (Reg.EVT.ENABLE (r.source / 32))) (r.source % 32) then
    pulsePins s (s.g (Reg.EVT.ROUTE.PINS r.source)) [0, 1, 2, 3]
  else s

/-- An access sent to the default target: counted for its master and at target 14, and logged (R413, R416, R417). -/
def State.busFailLog (s : State) (r : ErrRecord) : State :=
  (((s.inc (Reg.MTX.MASTER.ERRORS r.master)).inc (Reg.MTX.TARGET.GRANTS 14)).p
    (Reg.MTX.TARGET.PARKED 14) r.master).errLog r

/-- EV_MTX_ERR of an access sent to the default target (R416, R489). -/
def mtxErrInfo (s : State) (r : ErrRecord) : RaiseInfo :=
  { source := 38, causes := 0, arg := r.master + 256 * r.reason, wall := s.wall, count := s.time.count }

/-- The granules that the `n` bytes from `a` touch. -/
def granules (a n : Nat) : List Nat :=
  (List.range ((a % 256 + n + 255) / 256)).map (fun i => (a / 256 + i) * 256)

/-- The QoS a data request of master `m` carries: the override where OVR_EN is 1, else its own, where 15 by escalation
is kept (R406). -/
def State.effQos (s : State) (m own : Nat) (escalated : Bool) : Nat :=
  if escalated then 15 else if s.gb (Reg.MTX.MASTER.OVR_EN m) then s.g (Reg.MTX.MASTER.OVR_QOS m) else own

/-! ### The queues of the memory controllers (R379 to R381) -/

/-- The queues of controller `k`. -/
def State.queue (s : State) (k : Nat) : DmcQueue := Tab.get DmcQueue.reset k s.bus.queues

/-- The state with the queues of controller `k`, and a free value more drawn for them. -/
def State.setQueue (s : State) (k : Nat) (q : DmcQueue) : State :=
  { s with bus := { s.bus with queues := Tab.put DmcQueue.reset k q s.bus.queues, drew := s.bus.drew + 1 } }

/-- The class of a QoS: 3 for 12 to 15, then 2, 1 and 0 (R380). -/
def qosClass (q : Nat) : Nat := q % 16 / 4

/-- The class that a write competes in: that of its QoS, and after 20 µs at least that of 8 to 11 (R380). -/
def WriteEntry.cls (w : WriteEntry) (now : Nat) : Nat := if w.since + 20000 < now then max 2 (qosClass w.qos) else qosClass w.qos

/-- The class that a request competes in at its port or in the read queue (R380, R411). -/
def PendReq.cls (p : PendReq) : Nat := if p.aged then max 2 (qosClass p.qos) else qosClass p.qos

/-- The reads in the read queue of controller `k`: those granted and not completed (R379). -/
def State.readQueue (s : State) (k : Nat) : List PendReq :=
  s.bus.inflight.filter (fun (r : PendReq) => r.target == k && r.granted && !r.write && r.fail == 0)

/-- Whether a batch of writes runs, or starts, while reads of the classes `reads` wait: it starts with 48 entries, or where no read of
the same or a higher class as a write waits, and a read of QoS 12 to 15 ends it (R380). -/
def DmcQueue.batches (q : DmcQueue) (now : Nat) (reads : List Nat) : Bool :=
  !reads.contains 3 && (q.batch || decide (48 ≤ q.writes.length) ||
    q.writes.any (fun w => reads.all (fun c => decide (c < w.cls now))))

/-- The write that the channel `side` of a controller issues next: the highest class, then one to an open row, then the oldest
(R380). -/
def DmcQueue.pick (q : DmcQueue) (now side : Nat) : Option WriteEntry :=
  let rank := fun (w : WriteEntry) => 2 * w.cls now + (Tab.get none w.bank q.rows == some w.row).toNat
  (q.writes.filter (fun w => w.bank / 16 == side)).foldl (fun (best : Option WriteEntry) w =>
    if best.all (fun b => decide (rank b < rank w)) then some w else best) none

/-- One write issued, on channel `side` or else on the other: its row is open then, and the batch ends where 16 or fewer remain
(R380). -/
def DmcQueue.issueOne (q : DmcQueue) (now side : Nat) : DmcQueue :=
  match (q.pick now side).or (q.pick now (1 - side)) with
  | none => { q with batch := false }
  | some w =>
    let left := q.writes.erase w
    { q with writes := left, batch := decide (16 < left.length), rows := Tab.put none w.bank (some w.row) q.rows }

/-- Writes issued while a batch runs, at most `n` of them; which of its two channels issues next is open, and the bits of `x`.
(DESIGN CHOICE, log entry 97) -/
def DmcQueue.issue (q : DmcQueue) (now : Nat) (reads : List Nat) (n x : Nat) : DmcQueue :=
  (List.range n).foldl (fun q i => if q.batches now reads then q.issueOne now (x.testBit i).toNat else { q with batch := false }) q

/-- The number of writes that the controller has issued meanwhile, of those that its rules let it issue.
(DESIGN CHOICE, log entry 97) -/
def DmcQueue.settle (q : DmcQueue) (now : Nat) (reads : List Nat) (x : Nat) : DmcQueue :=
  q.issue now reads (x % (q.writes.length + 1)) (x / 128)

/-- Whether the write queue has an entry that a write of QoS `qos` may take: of its 64, eight only for QoS 12 to 15; or it merges into
an unissued one of its granule, or needs none (R379, R381, R382). -/
def DmcQueue.room (q : DmcQueue) (qos granule mask : Nat) : Bool :=
  mask == 0 || q.writes.any (fun w => w.granule == granule) ||
    decide (q.writes.length < 64) &&
      (decide (12 ≤ qos) || decide ((q.writes.filter (fun w => decide (w.qos < 12))).length < 56))

/-- A write accepted: merged into an unissued one of its granule, else into an entry of its own; a write without a byte takes none
(R379, R381, R382).
(DESIGN CHOICE, log entry 97) -/
def DmcQueue.accept (q : DmcQueue) (e : WriteEntry) : DmcQueue :=
  if e.mask = 0 then q
  else if q.writes.any (fun w => w.granule == e.granule) then
    { q with writes := q.writes.map (fun w =>
        if w.granule = e.granule then { w with mask := w.mask ||| e.mask, qos := max w.qos e.qos } else w) }
  else { q with writes := q.writes ++ [e] }

/-- Writes issued until one of QoS `qos` finds an entry; the clocks that it was held are open.
(DESIGN CHOICE, log entry 97) -/
def DmcQueue.makeRoom (q : DmcQueue) (now qos granule mask x : Nat) : DmcQueue :=
  if q.room qos granule mask then q
  else
    let r := (List.range 64).foldl (fun (q : DmcQueue) i =>
      if q.room qos granule mask then q else q.issueOne now (x.testBit i).toNat) q
    { r with stalls := r.stalls + x }

/-- Whether queued writes cover a read entirely (R381). -/
def DmcQueue.covers (q : DmcQueue) (granule mask : Nat) : Bool :=
  q.writes.any (fun w => w.granule == granule && (w.mask &&& mask) == mask)

/-- The part of the `n` bytes from `a` that lies in the granule at `g`, as a bit for each byte, with the strobes `on` where the
burst has them. -/
def granuleMask (a n g : Nat) (on : List Bool) : Nat :=
  let lo := max a g - g
  let len := min (a + n) (g + 256) - max a g
  if on.all (fun b => b) then (2 ^ len - 1) * 2 ^ lo
  else ((List.range len).map (fun i => if on.getD (max a g - a + i) false then 2 ^ (lo + i) else 0)).sum

/-- The bank and row of the granule at `g`: the bank of its channel, 16 more on a controller's second one (R374, R375). -/
def State.placeOf (s : State) (g : Nat) : Nat × Nat :=
  (16 * (s.channelOf g % 2) + bankOf (channelLocal g), rowOf (channelLocal g))

/-- The part of a burst in the granule at `g` at its controller: a write is accepted; a read that queued writes cover is served from
them, and before any other the writes that go before it are issued (R380, R381).
(DESIGN CHOICE, log entry 97) -/
def State.queueGranule (s : State) (write : Bool) (qos a n : Nat) (on : List Bool) (g : Nat) : State :=
  let k := s.channelOf g / 2
  let q := s.queue k
  let x := Config.queueNat (2 * s.bus.drew)
  let mask := granuleMask a n g on
  let at_ := s.placeOf g
  let reads := (s.readQueue k).map PendReq.cls
  s.setQueue k (
    if write then
      (q.makeRoom s.clock qos g mask x).accept ⟨g, mask, qos, s.clock, at_.1, at_.2⟩
    else if q.covers g mask then { q with forwards := q.forwards + 1 }
    else
      let q := q.issue s.clock (qosClass qos :: reads) q.writes.length x
      { q with rows := Tab.put none at_.1 (some at_.2) q.rows })

/-- The controllers that the granules of a burst lie on, after what they have issued meanwhile. -/
def State.queueSettle (s : State) (a n : Nat) : State :=
  if s.inDram a 1 then
    (granules a n).foldl (fun s g =>
      let k := s.channelOf g / 2
      s.setQueue k ((s.queue k).settle s.clock ((s.readQueue k).map PendReq.cls) (Config.queueNat (2 * s.bus.drew)))) s
  else s

/-- A burst at the queues of the controllers that its granules lie on (R379, R381). -/
def State.queueTake (s : State) (write : Bool) (qos a n : Nat) (on : List Bool) : State :=
  if s.inDram a 1 then (granules a n).foldl (fun s g => s.queueGranule write qos a n on g) s else s

/-- A burst at the controllers, after what they have issued meanwhile (R379 to R381).
(DESIGN CHOICE, log entry 97) -/
def State.queueBurst (s : State) (write : Bool) (qos a n : Nat) (on : List Bool) : State :=
  (s.queueSettle a n).queueTake write qos a n on

/-- The first byte of a read that no queued writes cover, so that it reaches DRAM or another store (R381). -/
def State.readReaches (s : State) (a n : Nat) : Option Nat :=
  if s.inDram a 1 then
    ((granules a n).find? (fun g => !(s.queue (s.channelOf g / 2)).covers g (granuleMask a n g []))).map (fun g => max a g)
  else some a

/-- One burst counted at the ports that serve it: at each granule's controller for DRAM, else at its target (R408,
R413); each port parks on the master it served (R412). -/
def State.countBurst (s : State) (m a n : Nat) : State :=
  if s.inDram a 1 then
    (granules a n).foldl (fun s g =>
      (s.inc (Reg.MTX.TARGET.GRANTS (s.channelOf g / 2))).p (Reg.MTX.TARGET.PARKED (s.channelOf g / 2)) m) s
  else match s.dataTarget a with
    | some t => (s.inc (Reg.MTX.TARGET.GRANTS t)).p (Reg.MTX.TARGET.PARKED t) m
    | none => s

/-- A raise put among those logged in its clock, in the order of their sources (R499); what one head raises in one clock is one
raise (R491). -/
def logMerge (e : RaiseInfo × Nat) : List (RaiseInfo × Nat) → List (RaiseInfo × Nat)
  | [] => [e]
  | x :: xs =>
    if x.1.source = e.1.source ∧ 64 ≤ e.1.source then ({ x.1 with causes := x.1.causes ||| e.1.causes }, x.2) :: xs
    else if e.1.source < x.1.source then e :: x :: xs
    else x :: logMerge e xs

/-- The place of the record `i` after that at `wr`, in a log of `size` records. -/
def logPlace (size wr i : Nat) : Nat := if i = 0 then wr else (wr + i) % size

/-- Records stored in the log at `base`, from the one `i` after that at `wr` on, the first of them carrying SEQUENCE `seq` + `i`
(R498). -/
def State.logStore (s : State) (base size wr seq : Nat) (drop : Bool) : Nat → List (RaiseInfo × Nat) → State
  | _, [] => s
  | i, e :: es =>
    (s.store (base + 32 * logPlace size wr i) (logRecord e.1 e.2 ((seq + i) % 2 ^ 32) (drop && i == 0))).logStore
      base size wr seq drop (i + 1) es

/-- A raise whose record finds its place in the log: written at LOG_WR, or dropped where the ring is full; the records of one clock
stand in the order of their sources (R498, R499). -/
def State.logPut (s : State) (r : RaiseInfo) : State :=
  let size := 2 ^ s.g Reg.EVT.LOG_LOG2
  let base := s.g Reg.EVT.LOG_BASE * 4096
  let old := s.evt.logs
  let wr := if old.isEmpty then s.g Reg.EVT.LOG_WR else s.evt.logWr
  let seq := if old.isEmpty then s.g Reg.EVT.LOG_SEQ else s.evt.logSeq
  let drop := if old.isEmpty then s.evt.dropped else s.evt.logDrop
  let es := logMerge (r, s.timeState) old
  let room := (s.g Reg.EVT.LOG_RD % size + 2 * size - 1 - wr % size) % size
  let a := base + 32 * s.g Reg.EVT.LOG_WR
  let s := s.p Reg.EVT.LOG_SEQ (seq + es.length)
  let s :=
    if es.length = old.length then s
    else if room < es.length then s.incSat Reg.EVT.DROPS
    else (s.queueBurst true (s.effQos 42 (defaultQos 42) false) a 32 []).countBurst 42 a 32
  let s := s.logStore base size wr seq drop 0 (es.take room)
  let s := s.p Reg.EVT.LOG_WR (logPlace size wr (min room es.length))
  { s with evt := { s.evt with
    dropped := decide (room < es.length), logs := es, logWr := wr, logSeq := seq, logDrop := drop } }

/-- A raise routed to the log: a record at LOG_WR, or a drop, or LOG_FAULT, with EV_MTX_ERR where the write had an error response
(R498, R499).
(DEDUCED, log entry 86) -/
def State.logAppend (s : State) (r : RaiseInfo) : State :=
  if !s.gb Reg.EVT.LOG_EN then s
  else
    let a := s.g Reg.EVT.LOG_BASE * 4096 + 32 * s.g Reg.EVT.LOG_WR
    if s.inDram a 32 || inShared a 32 then s.logPut r
    else
      let s := (s.pb Reg.EVT.LOG_EN false).pb Reg.EVT.LOG_FAULT true
      if s.inDram (s.g Reg.EVT.LOG_BASE * 4096) 1 || inShared (s.g Reg.EVT.LOG_BASE * 4096) 1 then
        let e : ErrRecord := {
          reason := if a < 0x800000 then Rsn.protect else Rsn.decode, master := 42
          target := if a < 0x800000 then 8 else 14, addr := a, write := true, control := false, resp := true
          qos := s.effQos 42 (defaultQos 42) false, id := 0, beats := 1, strobes := 0, data := 0, time := s.time.count }
        (s.busFailLog e).raiseSet (mtxErrInfo s e)
      else s

/-- Health event bits set since the previous STATUS frame (R356). -/
def State.noteHealth (s : State) (mask : Nat) : State := { s with cus := { s.cus with noted := s.cus.noted ||| mask } }

/-- What a raise of system event `source` is to the health word: DEC_FAULT, DRAM and CFG (R356). -/
def State.noteEvent (s : State) (source : Nat) : State :=
  if source = 18 then s.noteHealth 0x800
  else if source = 35 ∨ source = 36 then s.noteHealth 0x1000
  else if source = 1 then { s with cus := { s.cus with divergent := true } }
  else s

/-- A raise (R492): the status, the pins, the log.
(DESIGN CHOICE, log entry 39) -/
def State.raiseInfo (s : State) (r : RaiseInfo) : State :=
  if s.coreOn then
    let t := (s.raiseSet r).noteEvent r.source
    if bitOf (t.g (Reg.EVT.ENABLE (r.source / 32))) (r.source % 32) && t.gb (Reg.EVT.ROUTE.LOG r.source) then
      t.logAppend r
    else t
  else s

/-- A raise of system event `source` with argument `arg`, now.
(DEDUCED, log entry 86) -/
def State.raise (s : State) (source arg : Nat) : State :=
  s.raiseInfo { source := source, causes := 0, arg := arg, wall := s.wall, count := s.time.count }

/-- A raise of the causes of head `n` that its CAUSE_EN enables, all in one raise, at the given times (R490, R491). -/
def State.raiseHeadAt (s : State) (n causes : Nat) (wall : Int) (count : Nat) : State :=
  let c := causes &&& s.g (Reg.EVT.HEAD_CAUSE.CAUSE_EN n)
  if c = 0 then s
  else s.raiseInfo { source := 64 + n, causes := c, arg := s.g (Reg.HEAD.FRAME.COUNT n), wall := wall, count := count }

/-- A raise of causes of head `n`, now. -/
def State.raiseHead (s : State) (n causes : Nat) : State := s.raiseHeadAt n causes s.wall s.time.count

/-- The system events of R489. -/
abbrev Ev.cfgRefused : Nat := 0
abbrev Ev.cfgDivergent : Nat := 1
abbrev Ev.pageReject : Nat := 2
abbrev Ev.keystoneDone : Nat := 3
abbrev Ev.keystoneLate : Nat := 4
abbrev Ev.amendDone : Nat := 5
abbrev Ev.mailbox : Nat := 6
abbrev Ev.hostErr : Nat := 7
abbrev Ev.timeLock : Nat := 8
abbrev Ev.timeUnlock : Nat := 9
abbrev Ev.timeStepRefused : Nat := 10
abbrev Ev.tsTxqOvf : Nat := 11
abbrev Ev.pps : Nat := 12
abbrev Ev.srcLost : Nat := 13
abbrev Ev.srcArrived : Nat := 14
abbrev Ev.pathDivergent : Nat := 15
abbrev Ev.pktLoss : Nat := 16
abbrev Ev.decConceal : Nat := 17
abbrev Ev.decFault : Nat := 18
abbrev Ev.encTail : Nat := 19
abbrev Ev.encDone : Nat := 20
abbrev Ev.capFrameShort : Nat := 21
abbrev Ev.capFrameLong : Nat := 22
abbrev Ev.capCtxDrop : Nat := 23
abbrev Ev.ispStats : Nat := 24
abbrev Ev.tchFrame : Nat := 25
abbrev Ev.tchAnti : Nat := 26
abbrev Ev.tchObject : Nat := 27
abbrev Ev.tchSelftest : Nat := 28
abbrev Ev.cusGrantChange : Nat := 29
abbrev Ev.cusLinkLost : Nat := 30
abbrev Ev.cusPeer : Nat := 31
abbrev Ev.syncReady : Nat := 32
abbrev Ev.dramTrain : Nat := 33
abbrev Ev.dramFspDone : Nat := 34
abbrev Ev.dramRefreshForced : Nat := 35
abbrev Ev.dramEcc : Nat := 36
abbrev Ev.dramChanSkew : Nat := 37
abbrev Ev.mtxErr : Nat := 38
abbrev Ev.mtxDrain : Nat := 39
abbrev Ev.laneLos : Nat := 40
abbrev Ev.laneLol : Nat := 41
abbrev Ev.laneSpare : Nat := 42
abbrev Ev.lanePrbs : Nat := 43
abbrev Ev.netLink : Nat := 44
abbrev Ev.dpHpd : Nat := 45
abbrev Ev.dpTrain : Nat := 46
abbrev Ev.tzlLink : Nat := 47
abbrev Ev.pwrWarn : Nat := 48
abbrev Ev.pwrRecover : Nat := 49
abbrev Ev.pwrBackup : Nat := 50
abbrev Ev.thermal : Nat := 51
abbrev Ev.wdogWarn : Nat := 52
abbrev Ev.lockstep : Nat := 53
abbrev Ev.vitrineMismatch : Nat := 54
abbrev Ev.releaseDeferred : Nat := 55
abbrev Ev.leaseViolation : Nat := 56
abbrev Ev.gpio : Nat := 57
abbrev Ev.preset : Nat := 58
abbrev Ev.engineFault : Nat := 59
abbrev Ev.nvmDone : Nat := 60
abbrev Ev.clkFail : Nat := 61
abbrev Ev.secAuthFail : Nat := 62
abbrev Ev.sw : Nat := 63

/-- The causes of EV_HEAD_n (R490), as masks. -/
abbrev HC.underrun : Nat := 1
abbrev HC.layerRefused : Nat := 2
abbrev HC.placardOn : Nat := 4
abbrev HC.placardOff : Nat := 8
abbrev HC.flip : Nat := 16
abbrev HC.commitApplied : Nat := 32
abbrev HC.lockLost : Nat := 64
abbrev HC.chaseFallback : Nat := 128

/-- A read of DRAM at `a` that the controller cannot correct (R398, R399). -/
def State.dramUncorr (s : State) (a : Nat) : State :=
  let ch := s.channelOf a
  let s := s.inc (Reg.DMC.CH.LECC_UNCORR (ch / 2) (ch % 2))
  let s := (s.p (Reg.DMC.CH.ERR_ADDR_LO (ch / 2) (ch % 2)) a).p (Reg.DMC.CH.ERR_ADDR_HI (ch / 2) (ch % 2)) (a / 2 ^ 32)
  s.raise Ev.dramEcc (ch + 256)

/-! ### Accesses by the device's masters -/

/-- An access sent to the default target: its count, its record and EV_MTX_ERR (R416). -/
def State.busFail (s : State) (r : ErrRecord) : State := (s.busFailLog r).raiseInfo (mtxErrInfo s r)

end Sys2Proof.Machine
end

