-- ==== Sys2Proof/Machine/Operands.lean ====
section
/-! DEFINITION. The forms a register access takes: who may write, which edit window holds a field, how each access
code takes a written value, and the words of multi-word values (R4 to R12, R416). -/

namespace Sys2Proof.Machine

/-- Whether address `a` lies in the block range from `lo` up to `hi`. -/
def inRange (lo hi a : Nat) : Bool := decide (lo ≤ a) && decide (a < hi)

/-- Whether engine `n` runs (ENG[n].STATUS.STATE, R23). -/
def State.engRunning (s : State) (n : Nat) : Bool := s.g (Reg.ENG.STATUS.STATE n) == 2

/-- The bus master of engine `n` (R20, R404). -/
def engMaster (n : Nat) : Nat :=
  if n < 2 then 0 else if n < 18 then n + 2 else if n < 22 then n + 2 else if n = 22 then 39 else 40

/-- The engine whose firmware issues the control accesses of master `m` (R20, R404); none for the hardware's own masters. -/
def engOfMaster (m : Nat) : Option Nat :=
  if m = 0 then some 0 else if 4 ≤ m ∧ m < 20 then some (m - 2) else if m = 40 then some 23 else none

/-- Whether the port of master `m` is in RESET_DRAIN (R419).
(DEDUCED, log entry 16) -/
def State.draining (s : State) (m : Nat) : Bool := s.bus.draining.any (fun e => e.1 == m)

/-- Whether master `m` makes control writes that its port accepts: an engine that is not RUNNING makes none, so that the Curator
commits no keystone, posts no amendment and makes no servo correction while it is stopped (R23); a port in RESET_DRAIN accepts none
(R419). -/
def State.accepts (s : State) (m : Nat) : Bool := (engOfMaster m).all (fun n => s.engRunning n) && !s.draining m

/-- Whether earlier control requests of master `m` have not completed: they wait in their slots, or at its port behind an occupied
one, and a later request waits behind them (R410). -/
def State.ctlWaits (s : State) (m : Nat) : Bool := s.bus.ctl.any (fun (r : BusReq) => r.master.val == m)

/-- Whether a control write of master `m` goes to its target now.
(DEDUCED, log entry 91) -/
def State.issues (s : State) (m : Nat) : Bool := s.accepts m && !s.ctlWaits m

/-- Whether a control read of master `m` goes to its target now: its port does not drain, and no earlier control request waits
(R410, R419). -/
def State.readsNow (s : State) (m : Nat) : Bool := !s.draining m && !s.ctlWaits m

/-- A control request put behind those of its master that wait (R410). -/
def State.ctlQueue (s : State) (r : BusReq) : State := { s with bus := { s.bus with ctl := s.bus.ctl ++ [r] } }

/-- The control request that writes `v` to the register at `a`, or reads it. -/
def ctlReq (m a : Nat) (write : Bool) (v : Word) : BusReq := {
  master := Fin.ofNat 45 m, write := write, addr := BitVec.ofNat 36 a, bytes := 4, data := if write then leBytes v.toNat 4 else []
  strobes := if write then [true, true, true, true] else [], id := 0, qos := 0, ecc := .clean, phase := .whole, escal := false
  engine := none }

/-- Whether master `m` has the right to write the register at `a` (the writer rules R21, R75, R96, R109, R155, R184, R227, R248,
R274, R306, R326, R347, R371, R402, R420, R442, R463, R487, R502). -/
def State.hasRight (s : State) (m a : Nat) : Bool :=
  let curBoot := decide (m ≤ 1)
  if inRange 0x10900000 0x10910000 a then
    if inRange 0x10900100 0x10900400 a && (a - 0x10900100) % 0x20 == 0 then
      let n := (a - 0x10900100) / 0x20
      if n < 2 then decide (m = 1) || (decide (m = 2) && s.gb (Reg.ENG.CTRL.DEBUG_EN n))
      else decide (m ≤ 2)
    else true
  else if inRange 0x10040000 0x10050000 a then
    curBoot || (decide (m = 3) && (inRange 0x10040080 0x10040090 a || a == 0x10040020))
  else if inRange 0x10060000 0x10070000 a then decide (m = 0) || decide (m = 40)
  else if inRange 0x10080000 0x10090000 a then
    if a = 0x10080018 then curBoot
    else if a = 0x10080020 then decide (m = 3)
    else if inRange 0x10080060 0x10080084 a then decide (m = 2)
    else false
  else if inRange 0x10090000 0x100A0000 a then
    if inRange 0x10091000 0x10091800 a then
      let off := (a - 0x10091000) % 0x400
      let spi := decide (m = 3) && decide (a < 0x10091400)
      if off = 0 then decide (m = 0) || spi
      else if inRange 0x100 0x200 off then spi
      else if inRange 0x200 0x300 off then decide (m = 0)
      else curBoot
    else curBoot
  else if inRange 0x10100000 0x10120000 a then true
  else if inRange 0x10500000 0x10550000 a then true
  else if inRange 0x10600000 0x10620000 a || inRange 0x10700000 0x10790000 a then curBoot || decide (m = 40)
  else curBoot

/-- Whether master `m` issues a write of the register at `a` and has the right to it.
(DEDUCED, log entry 19) -/
def State.mayWrite (s : State) (m a : Nat) : Bool := s.issues m && s.hasRight m a

/-- Whether enabled source entry `i` lists buffer `b` in its ring; a DISCARD entry uses no ring (R107, R110). -/
def State.ringLists (s : State) (i b : Nat) : Bool :=
  s.gb (Reg.ING.SRC.ENABLE i) && s.g (Reg.ING.SRC.TYPE i) != 7 &&
    (List.range (s.g (Reg.ING.SRC.RING_LEN_M1 i) + 1)).any (fun k =>
      (if k % 2 = 0 then s.g (Reg.ING.SRC.BUF_LO i (k / 2)) else s.g (Reg.ING.SRC.BUF_HI i (k / 2))) == b)

/-- Whether the edit window of the RWK fields of the register at `a` is open (R5, and each block's rule). -/
def State.windowOpen (s : State) (a : Nat) : Bool :=
  if inRange 0x10120000 0x10140000 a then !s.gb (Reg.ING.SRC.ENABLE ((a - 0x10120000) / 0x100))
  else if inRange 0x10140000 0x10160000 a then
    let b := (a - 0x10140000) / 0x20
    s.g (Reg.ING.BUF.STATE b) == 0 && !(List.range 512).any (fun i => s.ringLists i b)
  else if inRange 0x1020C000 0x10210000 a then !s.gb (Reg.ING.SRC.ENABLE ((a - 0x1020C000) / 0x20))
  else if inRange 0x10380000 0x103C0000 a then
    let p := (a - 0x10380000) / 0x10000
    let off := (a - 0x10380000) % 0x10000
    if off < 0x100 then !s.gb (Reg.CAP.ENABLE p)
    else !s.gb (Reg.ISP.CTX.ENABLE p ((off - 0x200) / 0x100))
  else if inRange 0x10400000 0x10440000 a then
    let n := (a - 0x10400000) / 0x1000
    let l := if n % 2 = 1 ∧ s.g (Reg.HEAD.CTRL.PAIR (n - 1)) = 1 then n - 1 else n
    !s.gb (Reg.HEAD.CTRL.ENABLE l) || !s.gb (Reg.HEAD.STATUS.COMMIT_PENDING l)
  else if inRange 0x10308000 0x10309000 a then !s.gb (Reg.ENC.STR.ENABLE ((a - 0x10308000) / 0x80))
  else if inRange 0x100D0000 0x100E0000 a then !s.gb Reg.TCH.CTRL.ENABLE
  else if inRange 0x10808040 0x10808070 a then
    let f := (a - 0x10808040) / 0x10
    s.g Reg.DMC.FSP_STATUS.CURRENT != f &&
      !(s.gb Reg.DMC.FSP_STATUS.PENDING && s.g Reg.DMC.FSP_STATUS.PENDING_TARGET == f)
  else true

/-- What a write makes of a register word: the word, and whether it met a closed edit window or a reserved value. -/
structure Taken where
  word     : Word
  closed   : Bool
  reserved : Bool
deriving DecidableEq, Repr

/-- One field of a register word written with `v`, as its access code states (R4): a reserved value (R9) and a closed
edit window (R5) leave the field unchanged; RO, WO and W1S fields keep what they hold. -/
def takeField (isOpen : Bool) (v : Word) (t : Taken) (f : RegField) : Taken :=
  let x := fieldGet v f.lo f.width
  let legal := decide (f.min ≤ x) && decide (x ≤ f.max)
  match f.acc with
  | .rw => if legal then { t with word := fieldSet t.word f.lo f.width x } else { t with reserved := true }
  | .rwk =>
    if !isOpen then { t with closed := true }
    else if legal then { t with word := fieldSet t.word f.lo f.width x } else { t with reserved := true }
  | .w1c => { t with word := fieldSet t.word f.lo f.width (fieldGet t.word f.lo f.width &&& (2 ^ f.width - 1 - x)) }
  | _ => t

/-- A register word written with `v` in every field but those in `skip`. -/
def takeFields (isOpen : Bool) (v skip w : Word) (fs : List RegField) : Taken :=
  (fs.filter (fun f => fieldGet skip f.lo f.width == 0)).foldl (takeField isOpen v) ⟨w, false, false⟩

/-- The records that a write's closed window and reserved value make: one per reason and write (R5, R9, R417).
(DEDUCED, log entry 20) -/
def State.logTaken (s : State) (m a : Nat) (v : Word) (t : Taken) : State :=
  let s := if t.closed then s.errLog (ctlRecord s Rsn.rwkClosed m a true false v) else s
  if t.reserved then s.errLog (ctlRecord s Rsn.reservedValue m a true false v) else s

/-- Every field of the register at `a` but those in `skip` written with `v` (R4, R5, R9). -/
def State.writeFields (s : State) (m a : Nat) (v skip : Word) : State :=
  let t := takeFields (s.windowOpen a) v skip (s.reg a) ((regFields a).getD [])
  (s.setReg a t.word).logTaken m a v t

/-- A control access that passed its checks: counted at target 13, whose PARKED names its master (R413). -/
def State.ctlServed (s : State) (m : Nat) : State :=
  (s.inc (Reg.MTX.TARGET.GRANTS 13)).p (Reg.MTX.TARGET.PARKED 13) m

/-- The response given to the access. -/
def State.respond (s : State) (error : Bool) (data : List Byte) : State :=
  { s with bus := { s.bus with resp := some ⟨error, data⟩ } }

/-- A control write of `v` at `a` by master `m` that acts as `act`: no master reaches the registers while CORE is off
or in reset, the firmware of an engine that is stopped issues none (R23), one behind control requests that wait waits too (R410), and
a master without the right has an error response (R416).
(DEDUCED, log entry 12) (DEDUCED, log entry 91) -/
def State.ctlWrite (s : State) (m a : Nat) (v : Word) (act : State → State) : State :=
  if !s.coreOn || !s.accepts m then s
  else if s.ctlWaits m then s.ctlQueue (ctlReq m a true v)
  else if s.mayWrite m a then act ((s.ctlServed m).respond false [])
  else (s.busFail (ctlRecord s Rsn.protect m a true true v)).respond true []

/-- A target's refusal of a control write with an error response (R417, reason REFUSED). -/
def State.refuse (s : State) (m a : Nat) (v : Word) : State :=
  (s.errLog (ctlRecord s Rsn.refused m a true true v)).respond true []

/-- The word that writes `x` to field `f` and, to the other RW and RWK fields of its register, what they hold: a write
to one field of a register. -/
def State.fieldWord (s : State) (f : FRef) (x : Nat) : Word :=
  fieldSet (s.reg f.addr &&& (accessMask .rw f.addr ||| accessMask .rwk f.addr)) f.lo f.width x

/-- The higher words of the multi-word value whose lowest word stands at `a` (R10), none where `a` is no lowest word. -/
def higherWords (a : Nat) : List Nat :=
  if a = 0x10060010 then [0x10060014]
  else if a = 0x10060020 then [0x10060024, 0x10060028]
  else if a = 0x10060030 then [0x10060034, 0x10060038]
  else if a = 0x10060058 then [0x1006005C, 0x10060060]
  else if inRange 0x10060200 0x10060300 a && a % 0x10 == 0 then [a + 4, a + 8]
  else if inRange 0x10120000 0x10140000 a && a % 0x100 == 0x2C then [a + 4, a + 8]
  else if inRange 0x10140000 0x10160000 a && a % 0x20 == 0x10 then [a + 4]
  else if inRange 0x10400000 0x10440000 a && a % 0x1000 == 0x64 then [a + 4, a + 8]
  else if inRange 0x100C1000 0x100C1800 a && a % 0x20 == 0 then [a + 4]
  else if a = 0x10208014 then [0x10208018, 0x1020801C, 0x10208020]
  else if a = 0x10304004 then [0x1030400C]
  else if a = 0x10050008 then [0x1005000C, 0x10050010, 0x10050014, 0x10050018, 0x1005001C, 0x10050020]
  else if inRange 0x10800000 0x10880000 a && (a % 0x10000 == 0x130 || a % 0x10000 == 0x1B0) then [a + 4]
  else if a = 0x1000000C then [0x10000010]
  else if inRange 0x10600000 0x10614000 a && a % 0x1000 < 0x800 && a % 0x200 == 0x34 then [a + 4]
  else if a = 0x100B0028 then [0x100B0024, 0x100B0020]
  else if a = 0x100B0034 then [0x100B0038]
  else if inRange 0x10500000 0x10540000 a && inRange 0x100 0x200 (a % 0x10000) && a % 0x40 == 0x04 then [a + 4]
  else if a = 0x10540004 then [0x10540008]
  else if inRange 0x10308000 0x10309000 a && a % 0x80 == 0x3C then [a + 4]
  else []

/-- The lowest word of the value that has its higher word at `a`; none where `a` is no higher word. -/
def lowestWord (a : Nat) : Option Nat :=
  ([a - 4, a - 8, a - 12, a - 16, a - 20, a - 24, a + 4, a + 8].find? (fun b => (higherWords b).contains a))

/-- The key of the snapshot of the word at `a` for master `m` (R11). -/
def snapKey (m a : Nat) : Nat := m * 2 ^ 32 + a

/-- The word of a snapshot; 0 before any read of the lowest word (R10). -/
def State.snap (s : State) (m a : Nat) : Word := Tab.get 0 (snapKey m a) s.bus.snaps

/-- The state with master `m`'s snapshot of the word at `a` set. -/
def State.setSnap (s : State) (m a : Nat) (w : Word) : State :=
  { s with bus := { s.bus with snaps := Tab.put 0 (snapKey m a) w s.bus.snaps } }

/-- The higher words `as` captured into master `m`'s snapshot, each as `ws` gives it. -/
def State.setSnaps (s : State) (m : Nat) (ws : List (Nat × Word)) : State :=
  ws.foldl (fun s e => s.setSnap m e.1 e.2) s

end Sys2Proof.Machine
end

