-- ==== Sys2Proof/Machine/Crypto.lean ====
section
/-! DEFINITION. The checks and signatures the spec names: CRC-32C, SHA-256, HMAC-SHA-256 and ECDSA over P-256. -/

namespace Sys2Proof.Machine

/-! ### CRC-32C -/

/-- `n` shifts of the reflected CRC-32C register. -/
def crcShift : Nat → Nat → Nat
  | 0, c => c
  | n + 1, c => crcShift n (if c % 2 = 1 then (c / 2) ^^^ 0x82F63B78 else c / 2)

/-- The CRC-32C register after one more byte. -/
def crcByte (c : Nat) (b : Byte) : Nat := crcShift 8 (c ^^^ b.toNat)

/-- The register after more bytes; a CRC starts at 0xFFFF_FFFF and ends complemented. -/
def crcUpdate (c : Nat) (bs : List Byte) : Nat := bs.foldl crcByte c

/-- CRC-32C of a byte string. -/
def crc32c (bs : List Byte) : Nat := crcUpdate 0xFFFFFFFF bs ^^^ 0xFFFFFFFF

/-! ### SHA-256 -/

/-- The primes below 312, of which there are 64. -/
def shaPrimes : List Nat :=
  (List.range 312).filter (fun p => decide (2 ≤ p) && (List.range 18).all (fun d => decide (d < 2 ∨ p ≤ d) || p % d != 0))

/-- The greatest number whose `k`-th power is at most `n`, from a lower bound `r` in steps of falling powers of 2. -/
def rootUp (k n : Nat) : Nat → Nat → Nat
  | 0, r => r
  | bit + 1, r => rootUp k n bit (if (r + 2 ^ bit) ^ k ≤ n then r + 2 ^ bit else r)

/-- The first 32 bits of the fraction of the `k`-th root of a prime: what the constants of SHA-256 are made of. -/
def rootFraction (k p : Nat) : Nat := rootUp k (p * 2 ^ (32 * k)) 40 0 % 2 ^ 32

/-- A 32-bit word turned right by `i` places, by `j`, and by `l` or, where `cut` is true, shifted by `l`; the three added
bit by bit. -/
def shaMix (cut : Bool) (i j l x : Nat) : Nat :=
  let turn := fun (n : Nat) => ((x <<< 32 ||| x) >>> n) % 2 ^ 32
  turn i ^^^ turn j ^^^ (if cut then x >>> l else turn l)

/-- A message schedule continued by `n` words; the newest word stands first. -/
def shaExtend : Nat → List Nat → List Nat
  | 0, ws => ws
  | n + 1, ws =>
    let back := fun (k : Nat) => ws.getD (k - 1) 0
    shaExtend n ((shaMix true 17 19 10 (back 2) + back 7 + shaMix true 7 18 3 (back 15) + back 16) % 2 ^ 32 :: ws)

/-- One round. The eight working variables are the last four values of each of two sequences, newest first. -/
def shaStep (v : List Nat × List Nat) (kw : Nat) : List Nat × List Nat :=
  let up := fun (k : Nat) => v.1.getD k 0
  let lo := fun (k : Nat) => v.2.getD k 0
  let t := kw + lo 3 + shaMix false 6 11 25 (lo 0) + (lo 2 ^^^ (lo 0 &&& (lo 1 ^^^ lo 2)))
  let most := (up 0 &&& up 1) ||| (up 2 &&& (up 0 ||| up 1))
  ((t + shaMix false 2 13 22 (up 0) + most) % 2 ^ 32 :: v.1.take 3, (up 3 + t) % 2 ^ 32 :: v.2.take 3)

/-- Eight words carried through a block of 64 bytes. -/
def shaBlock (h : List Nat) (block : List Byte) : List Nat :=
  let ws := (shaExtend 48 ((List.range 16).map (fun k => beNat ((block.drop (4 * (15 - k))).take 4)))).reverse
  let v := (List.zipWith (fun w p => w + rootFraction 3 p) ws shaPrimes).foldl shaStep (h.take 4, h.drop 4)
  List.zipWith (fun a b => (a + b) % 2 ^ 32) h (v.1 ++ v.2)

/-- `n` blocks of a padded message. -/
def shaBlocks : Nat → List Nat → List Byte → List Nat
  | 0, h, _ => h
  | n + 1, h, bs => shaBlocks n (shaBlock h (bs.take 64)) (bs.drop 64)

/-- SHA-256 of a byte string: 32 bytes. -/
def sha256 (bs : List Byte) : List Byte :=
  let padded := bs ++ 0x80 :: List.replicate ((119 - bs.length % 64) % 64) 0 ++ beBytes (8 * bs.length) 8
  ((shaBlocks (padded.length / 64) ((shaPrimes.take 8).map (rootFraction 2)) padded).map (fun w => beBytes w 4)).flatten

/-- HMAC-SHA-256 of a message under a key of at most 64 bytes. -/
def hmacSha256 (key msg : List Byte) : List Byte :=
  let k := key ++ List.replicate (64 - key.length) 0
  sha256 (k.map (fun b => b ^^^ 0x5C) ++ sha256 (k.map (fun b => b ^^^ 0x36) ++ msg))

/-! ### ECDSA over P-256 -/

/-- The prime of the field of P-256. -/
def p256P : Nat := 0xffffffff00000001000000000000000000000000ffffffffffffffffffffffff
/-- The order of the group. -/
def p256N : Nat := 0xffffffff00000000ffffffffffffffffbce6faada7179e84f3b9cac2fc632551
/-- The constant b of the curve. -/
def p256B : Nat := 0x5ac635d8aa3a93e7b3ebbd55769886bc651d06b0cc53b0f63bce3c3e27d2604b
/-- The base point. -/
def p256G : Nat × Nat :=
  (0x6b17d1f2e12c4247f8bce6e563a440f277037d812deb33a0f4a13945d898c296,
   0x4fe342e2fe1a7f9b8ee7eb4a7c0f9e162bce33576b315ececbb6406837bf51f5)

/-- `x` to the power whose low `bits` bits `e` has, modulo `m`. -/
def powMod (m : Nat) : Nat → Nat → Nat → Nat
  | 0, _, _ => 1
  | bits + 1, x, e => (if e % 2 = 1 then x else 1) * powMod m bits (x * x % m) (e / 2) % m

/-- The inverse modulo the prime `m`. -/
def invMod (m x : Nat) : Nat := powMod m 256 (x % m) (m - 2)

/-- The sum of two points of the curve; none is the point at infinity. -/
def p256Add (a b : Option (Nat × Nat)) : Option (Nat × Nat) :=
  match a, b with
  | none, q => q
  | q, none => q
  | some (x1, y1), some (x2, y2) =>
    if x1 = x2 ∧ (y1 + y2) % p256P = 0 then none
    else
      let l := if x1 = x2 then (3 * x1 * x1 + (p256P - 3)) * invMod p256P (2 * y1) % p256P
        else (y2 + p256P - y1) * invMod p256P (x2 + p256P - x1) % p256P
      let x3 := (l * l + 2 * p256P - x1 - x2) % p256P
      some (x3, (l * (x1 + p256P - x3) + p256P - y1) % p256P)

/-- A point times the number whose low `bits` bits `k` has. -/
def p256Mul : Nat → Nat → Option (Nat × Nat) → Option (Nat × Nat)
  | 0, _, _ => none
  | bits + 1, k, q => p256Add (if k % 2 = 1 then q else none) (p256Mul bits (k / 2) (p256Add q q))

/-- Whether the point is on the curve. -/
def p256On (q : Nat × Nat) : Bool :=
  decide (q.1 < p256P) && decide (q.2 < p256P) &&
    decide (q.2 * q.2 % p256P = (q.1 * q.1 * q.1 + (p256P - 3) * q.1 + p256B) % p256P)

/-- Whether `sig`, r then s of 32 big-endian bytes each, signs `digest` under the public key `key`, x then y of 32
big-endian bytes each (R41, R446).
(PRESUMED, log entry 78) -/
def ecdsaVerify (key digest sig : List Byte) : Bool :=
  let q := (beNat (key.take 32), beNat ((key.drop 32).take 32))
  let r := beNat (sig.take 32)
  let t := beNat ((sig.drop 32).take 32)
  if r = 0 ∨ p256N ≤ r ∨ t = 0 ∨ p256N ≤ t then false
  else if !p256On q then false
  else
    let w := invMod p256N t
    let u1 := beNat digest * w % p256N
    let u2 := r * w % p256N
    match p256Add (p256Mul 256 u1 (some p256G)) (p256Mul 256 u2 (some q)) with
    | none => false
    | some (x, _) => decide (x % p256N = r)

end Sys2Proof.Machine
end

