-- ==== Sys2Proof/Machine/Ports.lean ====
section
/-! DEFINITION. The ports of the bus matrix: what a data access may reach, the bursts of a transfer, requests that wait at a port and
the order in which it grants them, and the transfers of the device's masters (R404 to R419, R522). -/

namespace Sys2Proof.Machine

/-! ### Who may reach what, and the bursts of a transfer -/

/-- Whether master `m` may read, or write, data at `a` (R37, R414): the source and buffer tables are reached by no
master, course memory is written by the Curator and the boot loader in the staging page alone and not while a keystone
is SWITCHING, the vitrine store by the Curator
or the boot loader, the tag store by none. -/
def State.dataAllowed (s : State) (m a : Nat) (write : Bool) : Bool :=
  if 0x7C0000 ≤ a ∧ a < 0x800000 then false
  else if !write then true
  else if 0x1000000 ≤ a ∧ a < 0x1080000 then
    decide (m ≤ 1) && s.g Reg.SEQ.STATUS.KEY_STATE != 2 &&
      (s.gb Reg.SEQ.STATUS.LIVE_VALID != decide ((a - 0x1000000) / 0x40000 = s.g Reg.SEQ.STATUS.LIVE_PAGE))
  else if 0x1400000 ≤ a ∧ a < 0x1600000 then decide (m = 0) || (decide (m = 1) && s.g Reg.BOOT.STATUS.STATE == 0)
  else if 0x1800000 ≤ a ∧ a < 0x1820000 then false
  else true

/-- The reason for which a data access of `n` bytes at `a` goes to the default target, none where it passes
(R416, in its order). -/
def State.dataCheck (s : State) (m a n : Nat) (write : Bool) : Option Nat :=
  if (s.dataTarget a).isNone then some Rsn.decode
  else if a / 4096 ≠ (a + n - 1) / 4096 then some Rsn.burst
  else if !s.dataAllowed m a write && !(write && decide (0x8000000 ≤ a ∧ a < 0x10000000)) then some Rsn.protect
  else if write && decide (0x8000000 ≤ a ∧ a < 0x10000000) then some Rsn.readOnly
  else none

/-- The record of a data access (R417). -/
def dataRecord (s : State) (reason m a n : Nat) (write : Bool) (qos id : Nat) : ErrRecord :=
  { reason := reason, master := m,
    target := if reason = Rsn.decode then 14 else (s.dataTarget a).getD 14, addr := a, write := write,
    control := false, resp := true, qos := qos, id := id, beats := (a % 32 + n + 31) / 32, strobes := 0, data := 0,
    time := s.time.count }

/-- Whether an access of `n` bytes at `a` in the register space finds no target there (R416, its first check). -/
def noRegister (a : Nat) : Bool := (regFields (a / 4 * 4)).isNone

/-- The record of an access in the register space that is no aligned 32-bit beat: of the control class, whatever its master (R3, R407,
R416, R417). -/
def sizeRecord (s : State) (m a n : Nat) (write : Bool) (bs : List Byte) (strobes : Nat) : ErrRecord :=
  { ctlRecord s (if noRegister a then Rsn.decode else Rsn.size) m a write true (if write then BitVec.ofNat 32 (leNat (bs.take 4)) else 0) with
    beats := (a % 32 + n + 31) / 32, strobes := if write then strobes else 0 }

/-- The QoS of a request of master `m` that asks for `own`: its default, unless the master sets its own (R404). -/
def ownQos (m own : Nat) : Nat := if 20 ≤ m ∧ m ≤ 34 then own else defaultQos m

/-- A flash byte; one that nothing has written reads 0xFF.
(PRESUMED, log entry 7) -/
def State.flashByte (s : State) (a : Nat) : Byte := Tab.get 0xFF a s.flash

/-- Whether an address lies in the flash window. -/
def inFlash (a : Nat) : Bool := inRange 0x8000000 0x10000000 a

/-- Whether an address lies in the register space. -/
def inRegs (a : Nat) : Bool := inRange 0x10000000 0x20000000 a

/-- Whether an address lies in an on-chip store that carries ECC: all but the vitrine store (R32). -/
def inEccStore (a : Nat) : Bool := decide (a < 0x1400000) || inRange 0x1800000 0x1820000 a

/-- The flash byte that the flash window shows at `a` (R415). -/
def State.flashWindow (s : State) (a : Nat) : Byte :=
  s.flashByte ((a - 0x8000000) + 2 ^ 27 * s.g Reg.MTX.CTRL.FLASH_BANK)

/-- The bursts of a transfer of `n` bytes from `a` (R522), at most `fuel` of them: each ends after 16 beats, at the
next 4 KiB boundary or at the end of the transfer. -/
def burstsOf : Nat → Nat → Nat → List (Nat × Nat)
  | 0, _, _ => []
  | fuel + 1, a, n =>
    if n = 0 then []
    else
      let stop := min (min (a / 32 * 32 + 512) (a / 4096 * 4096 + 4096)) (a + n)
      (a, stop - a) :: burstsOf fuel stop (a + n - stop)

/-- Whether the `n` bytes from `a` hold an ECC word with a multi-bit error (R32).
(DEDUCED, log entry 14) -/
def State.eccHit (s : State) (a n : Nat) : Bool :=
  s.eccBad.any (fun w => decide (8 * w < a + n) && decide (a < 8 * w + 8))

/-- Channel `ch` beyond its registers. -/
def State.chan (s : State) (ch : Nat) : DmcChan := Tab.get DmcChan.reset ch s.dmc.chans

/-- The state with channel `ch` set beyond its registers. -/
def State.setChan (s : State) (ch : Nat) (c : DmcChan) : State :=
  { s with dmc := { s.dmc with chans := Tab.put DmcChan.reset ch c s.dmc.chans } }

/-- A request has been served on channel `ch`, so that a run of refreshes may follow (R385). -/
def State.chanServed (s : State) (ch : Nat) : State := if (s.chan ch).rest then s.setChan ch { s.chan ch with rest := false } else s

/-- The channels that `n` bytes from `a` lie on. -/
def State.channelsOf (s : State) (a n : Nat) : List Nat := if s.inDram a 1 then (granules a n).map (fun g => s.channelOf g) else []

/-- Read code words corrected on channel `ch`: counted, and EV_DRAM_ECC once the count has grown by ECC_EVT_THR within 1 s
(R398).
(DEDUCED, log entry 64) -/
def State.dramCorrected (s : State) (ch n : Nat) : State :=
  if n = 0 ∨ s.gb Reg.DMC.CTRL.LINK_ECC_EN = false then s
  else
    let s := s.incBy (Reg.DMC.CH.LECC_CORR (ch / 2) (ch % 2)) n
    let recent := (s.chan ch).corr.filter (fun e => decide (s.clock < e.1 + 1000000000)) ++ [(s.clock, n)]
    if s.g Reg.DMC.CTRL.ECC_EVT_THR ≤ (recent.map (fun e => e.2)).sum then
      (s.setChan ch { s.chan ch with corr := [] }).raise Ev.dramEcc ch
    else s.setChan ch { s.chan ch with corr := recent }

/-- What the ECC of a memory finds in a read of the `n` bytes from `a`, and whether the read fails by it in DRAM (R32, R398,
R399).
(DEDUCED, log entry 14) -/
def State.eccRead (s : State) (a n : Nat) (e : EccFind) : State × Bool :=
  match e with
  | .clean => (s, false)
  | .corrected c =>
    if dramBase ≤ a then
      (if s.gb Reg.DMC.CTRL.LINK_ECC_EN then s.dramCorrected (s.channelOf a) c else s, false)
    else if inEccStore a then (s.incSatBy Reg.ENG.ECC_CORR.COUNT c, false)
    else (s, false)
  | .multi =>
    if dramBase ≤ a then (if s.gb Reg.DMC.CTRL.LINK_ECC_EN then (s.dramUncorr a, true) else (s.storeFree a n, false))
    else if inEccStore a then ({ s with eccBad := s.eccBad.filter (fun w => w != a / 8) ++ [a / 8] }, false)
    else (s, false)

/-- An accepted write to the staging page (R38): STAGE_VALID and VAL_STATE fall, a validation that runs is abandoned with
WRITTEN, a keystone that is PENDING is cancelled with INVALIDATED. A preset whose validation is abandoned so ends REJECTED,
without an event.
(DEDUCED, log entry 25) -/
def State.stageWritten (s : State) : State :=
  let s := if s.seq.preset = .validating then
      { ((s.p Reg.SEQ.PRESET_STATUS.RESULT 3).pb Reg.SEQ.PRESET_STATUS.PENDING false).pb Reg.SEQ.STATUS.PRESET_BUSY false
        with seq := { s.seq with preset := .idle } }
    else s
  let s := if s.g Reg.SEQ.STATUS.VAL_STATE = 1 then
      ((s.p Reg.SEQ.VAL_RESULT.REASON 0xE).p Reg.SEQ.VAL_RESULT.HEAD 0).p Reg.SEQ.VAL_RESULT.ENTRY 0
    else s
  let s := (s.p Reg.SEQ.STATUS.VAL_STATE 0).pb Reg.SEQ.STATUS.STAGE_VALID false
  if s.g Reg.SEQ.STATUS.KEY_STATE = 1 then (s.p Reg.SEQ.STATUS.KEY_STATE 0).p Reg.SEQ.KEY_STATUS.RESULT 8 else s

/-- An accepted data write: the bytes stored, and what a write to course memory brings (R38). -/
def State.storeData (s : State) (a : Nat) (bs : List Byte) : State :=
  if 0x1000000 ≤ a ∧ a < 0x1080000 then (s.store a bs).stageWritten else s.store a bs

/-- Bytes written from `a` where their strobes are set. -/
def State.storeMasked (s : State) (a : Nat) (bs : List Byte) (on : List Bool) : State :=
  if on.all (fun b => b) then s.storeData a bs
  else (List.range bs.length).foldl (fun s i => if on.getD i false then s.storeData (a + i) [bs.getD i 0] else s) s

/-- Whether master `m` writes pictures into buffers: the stream engines, write-back, decode pipes, image pipes (R404). -/
def producer (m : Nat) : Bool := decide (4 ≤ m ∧ m ≤ 19) || decide (24 ≤ m ∧ m ≤ 32) || decide (35 ≤ m ∧ m ≤ 38)

/-- A picture in memory: where row 0 starts, its format (the FORMAT code of ING.BUF), its size, its pitch in bytes. -/
structure Pic where
  addr  : Nat
  fmt   : Nat
  w     : Nat
  h     : Nat
  pitch : Nat
deriving DecidableEq, Repr

/-- The full-size picture of buffer `b`. -/
def State.bufPic (s : State) (b : Nat) : Pic :=
  { addr := 256 * s.g (Reg.ING.BUF.ADDR b), fmt := s.g (Reg.ING.BUF.FORMAT b), w := s.g (Reg.ING.BUF.WIDTH_M1 b) + 1,
    h := s.g (Reg.ING.BUF.HEIGHT_M1 b) + 1, pitch := 64 * s.g (Reg.ING.BUF.PITCH_64 b) }

/-- `n` rounded up to a multiple of `m`. -/
def ceilTo (m n : Nat) : Nat := (n + m - 1) / m * m

/-- The next reduced copy: half the size, placed after this picture (R142). -/
def Pic.half (p : Pic) : Pic :=
  { p with addr := p.addr + ceilTo 256 (p.pitch * p.h), w := (p.w + 1) / 2, h := (p.h + 1) / 2,
           pitch := 64 * ((p.pitch + 127) / 128) }

/-- Reduced copy `k` of a picture; `k` 0 is the picture (R142). -/
def Pic.copy (p : Pic) : Nat → Pic
  | 0 => p
  | k + 1 => (p.copy k).half

/-- One past the last byte of the highest copy that REDUCED of buffer `b` marks present (R142, R147). -/
def State.bufEnd (s : State) (b : Nat) : Nat :=
  let r := s.g (Reg.ING.BUF.REDUCED b)
  let k := if bitOf r 2 then 3 else if bitOf r 1 then 2 else if bitOf r 0 then 1 else 0
  let p := (s.bufPic b).copy k
  p.addr + p.pitch * p.h

/-- Whether master `m` is the producer that has claimed buffer `b`, by the type of the entry that it belongs to: its stream engine, the
decode pipes, its image pipe, or the write-back (R112, R404). -/
def State.claimed (s : State) (m b : Nat) : Bool :=
  let i := s.g (Reg.ING.BUF.SOURCE b)
  let t := s.g (Reg.ING.SRC.TYPE i)
  s.g (Reg.ING.BUF.STATE b) == 1 &&
    (if t = 1 then m == 4 + s.g (Reg.ING.SRC.SE i)
    else if t = 5 then m == 35 + s.g (Reg.ING.SRC.PORT_A i) % 4
    else if 2 ≤ t ∧ t ≤ 4 then decide (25 ≤ m ∧ m ≤ 32)
    else m == 24)

/-- The leased buffer, not one that it has claimed, that a producer's write of `n` bytes at `a` would reach, the reduced copies
being part of it (R142, R223).
(DEDUCED, log entry 93) -/
def State.leaseHit (s : State) (m a n : Nat) : Option Nat :=
  if !producer m then none
  else (s.bufs.find? (fun e =>
    let b := e.1
    !e.2.leases.isEmpty && !s.claimed m b && decide (256 * s.g (Reg.ING.BUF.ADDR b) < a + n) && decide (a < s.bufEnd b))).map
      (fun e => e.1)

/-! ### The codecs' traffic -/

/-- Whether a decode or an encode job runs, whose traffic no command carries. -/
def State.codecRuns (s : State) : Bool :=
  s.dec.pipes.any (fun e => e.2.job.isSome) || s.enc.pipes.any (fun e => e.2.job.isSome)

/-- What the traffic of codec jobs has added to the counts of controller `k`.
(DESIGN CHOICE, log entry 97) -/
def State.codecTraffic (s : State) (k : Nat) : State :=
  let q := s.queue k
  s.setQueue k { q with
    forwards := q.forwards + Config.queueNat (2 * s.bus.drew), stalls := q.stalls + Config.queueNat (2 * s.bus.drew + 1) }

/-- A codec job has ended: its traffic has been at every controller.
(DESIGN CHOICE, log entry 97) -/
def State.codecEnds (s : State) : State := (List.range 8).foldl (fun s k => s.codecTraffic k) s

/-! ### Requests at their ports (R408 to R412) -/

/-- Beats of a request (R408). -/
def PendReq.beats (r : PendReq) : Nat := (r.addr % 32 + r.bytes + 31) / 32

/-- Whether request `p` holds its port: granted, and not all its beats passed (R411). -/
def PendReq.holds (p : PendReq) : Bool := p.granted && decide (p.sent < p.beats)

/-- Whether a burst holds target port `t` (R411). -/
def State.portBusy (s : State) (t : Nat) : Bool := s.bus.inflight.any (fun (r : PendReq) => r.target == t && r.holds)

/-- The class that a waiting request competes in, by its effective QoS: 8 at least once it has aged (R411). -/
def PendReq.level (p : PendReq) : Nat := if p.aged then max p.qos 8 else p.qos

/-- How far master `m` stands after master `last` in round-robin order (R411). -/
def roundOf (last m : Nat) : Nat := (m + 44 - last) % 45

/-- The requests outstanding of master `m`, those of DRAM by their parts. -/
def State.requestsOf (s : State) (m : Nat) : List PendReq := s.bus.inflight.filter (fun (q : PendReq) => q.master == m)

/-- Of requests and parts in issue order, those of the first burst. -/
def firstBurst : List PendReq → List PendReq
  | [] => []
  | p :: ps => p :: ps.takeWhile (fun q => !q.lead)

/-- The parts of the oldest burst outstanding of master `m` under an ID. -/
def State.burstOf (s : State) (m id : Nat) : List PendReq := firstBurst ((s.requestsOf m).filter (fun q => q.id == id))

/-- Whether the queues of its controller have an entry that request `p` may take; a port elsewhere always has (R379). -/
def State.roomFor (s : State) (p : PendReq) : Bool :=
  if 8 ≤ p.target then true
  else
    let g := p.addr / 256 * 256
    let reads := s.readQueue p.target
    if p.write then (s.queue p.target).room p.qos g (granuleMask p.addr p.bytes g p.strobes)
    else decide (reads.length < 64) && (decide (12 ≤ p.qos) || decide ((reads.filter (fun r => decide (r.qos < 12))).length < 56))

/-- Whether request `p` waits at its port and nothing but an entry of its queue keeps it from a grant: it belongs to the first burst
of its ID outstanding, whose earlier parts have been granted, and to the 64 bursts that its master may have outstanding; no late
response of a retired request of its ID is awaited; and its memory channel serves (R383, R388, R396, R401, R408, R419). -/
def State.mayStand (s : State) (p : PendReq) : Bool :=
  let ch := s.channelOf p.addr
  let burst := s.burstOf p.master p.id
  !p.granted && burst.contains p && (burst.takeWhile (fun q => q != p)).all (fun q => q.granted) &&
    (((s.requestsOf p.master).filter (fun q => q.lead)).take 64).any (fun q => burst.head? == some q) &&
    !s.bus.retired.contains (p.master, p.id) &&
    (decide (8 ≤ p.target) ||
      (s.dmc.change.isNone && decide ((s.chan ch).busyTo ≤ s.clock) && s.dmc.train.all (fun t => t.1 != ch) && s.dmc.ppr.all (fun t => t.1 != ch)))

/-- Whether request `p` waits at its port and may be granted (R379, R408).
(DESIGN CHOICE, log entry 13) -/
def State.mayGrant (s : State) (p : PendReq) : Bool := s.mayStand p && s.roomFor p

/-- Whether a request is held at controller `k` because its queue has no entry for it (R379). -/
def State.heldAt (s : State) (k : Nat) : Bool :=
  s.bus.inflight.any (fun (p : PendReq) => p.target == k && s.mayStand p && !s.roomFor p)

/-- The wait of a request held at controller `k` counted up to now, in clocks of 1,066.7 MHz: in part only where the entry that it
waited for has freed since (R379).
(DESIGN CHOICE, log entry 97) -/
def State.stallTick (s : State) (k : Nat) : State :=
  let q := s.queue k
  let clocks := (q.heldAt.map (fun t => (s.clock - t) * 16 / 15)).getD 0
  if s.heldAt k then s.setQueue k { q with stalls := q.stalls + clocks, heldAt := some s.clock }
  else if q.heldAt.isNone then s
  else s.setQueue k { q with stalls := q.stalls + Config.queueNat (2 * s.bus.drew) % (clocks + 1), heldAt := none }

/-- The request that target port `t` grants next: the highest QoS, among equals the next master in round-robin order after the master
last granted, which PARKED names (R411, R412).
(DESIGN CHOICE, log entry 13) -/
def State.portNext (s : State) (t : Nat) : Option PendReq :=
  let last := s.g (Reg.MTX.TARGET.PARKED t)
  let before := fun (p q : PendReq) => decide (q.level < p.level) ||
    (p.level == q.level && decide (roundOf last p.master < roundOf last q.master))
  (s.bus.inflight.filter (fun (p : PendReq) => p.target == t && s.mayGrant p)).foldl
    (fun (best : Option PendReq) p => if best.all (before p) then some p else best) none

/-- Whether request `p` is the one that its port, holding no burst, grants now (R411). -/
def State.wins (s : State) (p : PendReq) : Bool := !s.portBusy p.target && s.portNext p.target == some p

/-- A list whose first element equal to `x` is `y` instead. -/
def replaceFirst (x y : PendReq) : List PendReq → List PendReq
  | [] => []
  | z :: zs => if z = x then y :: zs else z :: replaceFirst x y zs

/-- Whether granted write `p` still has byte `x` to bring to memory. -/
def PendReq.brings (p : PendReq) (x : Nat) : Bool :=
  p.write && p.granted && p.fail == 0 && decide (p.addr ≤ x) && decide (x < p.addr + p.bytes) && p.strobes.getD (x - p.addr) true

/-- Bytes that a later grant writes are no longer brought by a write granted before: writes take effect in the order of their grants
(R409). -/
def PendReq.yield (p : PendReq) (a n : Nat) (on : List Bool) : PendReq :=
  if p.write && p.granted then
    { p with strobes := (List.range p.bytes).map (fun i =>
        p.strobes.getD i true && !(decide (a ≤ p.addr + i) && decide (p.addr + i < a + n) && on.getD (p.addr + i - a) true)) }
  else p

/-- The bytes that a read granted now shows: the flash window, else memory with what the writes granted before it bring (R409,
R415). -/
def State.shown (s : State) (a n : Nat) : List Byte :=
  if inFlash a then (List.range n).map (fun i => s.flashWindow (a + i))
  else if s.bus.inflight.isEmpty then s.bytes a n
  else (List.range n).map (fun i =>
    match s.bus.inflight.find? (fun (p : PendReq) => p.brings (a + i)) with
    | some p => p.data.getD (a + i - p.addr) 0
    | none => s.byte (a + i))

/-- Request `p` is granted with `sent` beats sent: it is counted at its port, which parks on its master; what a read returns is
settled, and a write comes after those granted before it (R381, R409, R411 to R413). -/
def State.grantReq (s : State) (p : PendReq) (sent : Nat) : State :=
  let t := if p.fail = 0 then s.queueSettle p.addr p.bytes else s
  let reaches := t.readReaches p.addr p.bytes
  let q := { p with
    granted := true
    sent := min sent p.beats
    data := if p.write then p.data
      else if p.flashAt != 0 then (List.range p.bytes).map (fun i => s.flashByte (p.flashAt - 1 + i)) else s.shown p.addr p.bytes
    ecc := if p.write || reaches.isSome then p.ecc else .clean }
  let s := { t with bus := { t.bus with
    inflight := replaceFirst p q (if p.write then t.bus.inflight.map (fun r => r.yield p.addr p.bytes p.strobes) else t.bus.inflight) } }
  if p.fail ≠ 0 ∧ p.fail ≠ Rsn.refused then s
  else
    let s := if p.write then s else s.queueTake false p.qos p.addr p.bytes []
    (s.channelsOf p.addr p.bytes).foldl (fun s ch => s.chanServed ch) (s.countBurst p.master p.addr p.bytes)

/-- What port `t` does before a burst of master `m` at QoS `qos` that comes now: the burst that holds it ends, and the requests that
go before by QoS or round robin are granted and pass (R411, R412). -/
def State.portYield (s : State) (t m qos : Nat) : State :=
  let s := { s with bus := { s.bus with
    inflight := s.bus.inflight.map (fun (p : PendReq) => if p.target = t ∧ p.granted = true then { p with sent := p.beats } else p) } }
  (List.range s.bus.inflight.length).foldl (fun s _ =>
    match s.portNext t with
    | some p =>
      let last := s.g (Reg.MTX.TARGET.PARKED t)
      if qos < p.level ∨ (p.level = qos ∧ roundOf last p.master < roundOf last m) then s.grantReq p p.beats else s
    | none => s) s

/-- A burst of master `m` of `n` bytes at `a` comes to its ports and is granted in its turn; the writes granted before it come before
it (R409, R411).
(DESIGN CHOICE, log entry 13) -/
def State.arrive (s : State) (m qos a n : Nat) (write : Bool) (on : List Bool) : State :=
  if s.bus.inflight.isEmpty then s
  else
    let ports := if s.inDram a 1 then (granules a n).map (fun g => s.channelOf g / 2) else (s.dataTarget a).toList
    let s := ports.foldl (fun s t => s.portYield t m qos) s
    let s := (s.channelsOf a n).foldl (fun s ch => s.chanServed ch) s
    if write then { s with bus := { s.bus with inflight := s.bus.inflight.map (fun p => p.yield a n on) } } else s

/-! ### Master reset (R419) -/

/-- A write burst already begun completes with the strobes of the beats not yet sent cleared: the beats sent are written, and a part
without a byte left makes no DRAM access (R382, R419). -/
def State.drainWrite (s : State) (r : PendReq) : State :=
  let n := 32 * r.sent - r.addr % 32
  let on := (List.range r.bytes).map (fun i => decide (i < n) && r.strobes.getD i true)
  if r.write && r.granted && r.fail == 0 && on.any (fun b => b) then
    ((s.queueBurst true 15 r.addr r.bytes on).storeMasked r.addr r.data on)
  else s

/-- Whether write request `p` belongs to a burst already begun (R419). -/
def State.begun (s : State) (p : PendReq) : Bool := p.write && p.fail == 0 && (s.burstOf p.master p.id).contains p &&
  (s.burstOf p.master p.id).any (fun q => q.granted)

/-- Master `m` is reset: with requests outstanding, its port enters RESET_DRAIN: what it has begun to write completes, counted at its
port where it had still to be granted, its control requests are discarded and every request is retired (R413, R419).
(DEDUCED, log entry 16) -/
def State.masterReset (s : State) (m : Nat) : State :=
  let mine := s.requestsOf m
  if mine.isEmpty && !s.bus.ctl.any (fun (r : BusReq) => r.master.val == m) then s
  else
    let begun := mine.filter (fun r => s.begun r)
    let s := begun.foldl (fun s r =>
      (if r.granted then s else s.countBurst m r.addr r.bytes).drainWrite r) s
    let cut := (begun.map (fun (r : PendReq) => r.beats - r.sent)).sum
    { s with bus := { s.bus with
      inflight := s.bus.inflight.filter (fun (r : PendReq) => r.master != m)
      ctl := s.bus.ctl.filter (fun (r : BusReq) => r.master.val != m)
      draining := s.bus.draining.filter (fun e => e.1 != m) ++ [(m, cut)]
      retired := s.bus.retired ++ (mine.filter (fun (r : PendReq) => r.lead)).map (fun (r : PendReq) => (m, r.id)) } }

/-- RESET_DRAIN of master `m` ends (R419).
(DEDUCED, log entry 16) -/
def drainEnd (m : Nat) (s : State) : State :=
  match s.bus.draining.find? (fun e => e.1 == m) with
  | none => s
  | some e =>
    let s : State := { s with bus := { s.bus with draining := s.bus.draining.filter (fun x => x.1 != m) } }
    let s := (s.inc Reg.MTX.DRAIN.DRAINS).p Reg.MTX.DRAIN.LAST_MASTER m
    (s.p Reg.MTX.DRAIN.LAST_CUT_BEATS e.2).raise Ev.mtxDrain m

/-! ### Bursts and transfers -/

/-- One burst of a read: its data, and whether it has an error response. -/
def State.readBurst (s : State) (m qos id a n : Nat) (e : EccFind) : State × List Byte × Bool :=
  if inRegs a then (s.busFail (sizeRecord s m a n false [] 0), List.replicate n 0, true)
  else match s.dataCheck m a n false with
  | some reason => (s.busFail (dataRecord s reason m a n false qos id), List.replicate n 0, true)
  | none =>
    let s := ((s.arrive m qos a n false []).queueSettle a n)
    let reaches := s.readReaches a n
    let s := (s.queueTake false qos a n []).countBurst m a n
    if inFlash a && s.boot.flash.isSome then (s.errLog (dataRecord s Rsn.refused m a n false qos id), List.replicate n 0, true)
    else
      let r := match reaches with
        | none => (s, false)
        | some x => s.eccRead x (a + n - x) e
      if r.2 || r.1.eccHit a n then
        (r.1.errLog (dataRecord s Rsn.ecc m a n false qos id), List.replicate n 0, true)
      else (r.1, r.1.shown a n, false)

/-- Bursts read in order. -/
def State.readBursts (s : State) (m qos id : Nat) (e : EccFind) : List (Nat × Nat) → State × List Byte × Bool
  | [] => (s, [], false)
  | (a, n) :: rest =>
    let r := s.readBurst m qos id a n e
    let t := r.1.readBursts m qos id .clean rest
    (t.1, r.2.1 ++ t.2.1, r.2.2 || t.2.2)

/-- One burst of a write, with its byte strobes, and whether it has an error response; a producer's into a leased buffer that it
has not claimed is dropped (R223). -/
def State.writeBurst (s : State) (m qos id a : Nat) (bs : List Byte) (on : List Bool) : State × Bool :=
  if inRegs a then (s.busFail (sizeRecord s m a bs.length true bs 15), true)
  else match s.dataCheck m a bs.length true, s.leaseHit m a bs.length with
  | some reason, _ => (s.busFail (dataRecord s reason m a bs.length true qos id), true)
  | none, some b => (s.raise Ev.leaseViolation b, true)
  | none, none =>
    ((((s.arrive m qos a bs.length true on).queueBurst true qos a bs.length on).countBurst m a bs.length).storeMasked a bs on, false)

/-- Bursts written in order, each from its own part of the data. -/
def State.writeBursts (s : State) (m qos id : Nat) : List (Nat × Nat) → List Byte → List Bool → State × Bool
  | [], _, _ => (s, false)
  | (a, n) :: rest, bs, on =>
    let r := s.writeBurst m qos id a (bs.take n) (on.take n)
    let t := r.1.writeBursts m qos id rest (bs.drop n) (on.drop n)
    (t.1, r.2 || t.2)

/-- The port of a master that begins a transfer: where it drains, the transfer waits for the end of the drain (R419).
(DEDUCED, log entry 16) -/
def State.portReady (s : State) (m : Nat) : State := if s.draining m then drainEnd m s else s

/-- A transfer written by a device master; whether every burst had a response without error (R416, R522). -/
def State.dmaWrite (s : State) (m own a : Nat) (bs : List Byte) : State × Bool :=
  let r := (s.portReady m).writeBursts m (s.effQos m own false) 0 (burstsOf (bs.length + 1) a bs.length) bs []
  (r.1, !r.2)

/-- A transfer read by a device master: its bytes, 0 where a burst failed, and whether none failed (R416, R522). -/
def State.dmaRead (s : State) (m own a n : Nat) : State × List Byte × Bool :=
  let r := (s.portReady m).readBursts m (s.effQos m own false) 0 .clean (burstsOf (n + 1) a n)
  (r.1, r.2.1, !r.2.2)

/-- A fetch of a head through composition port `m`, of its course entry's QOS or escalated (R245, R406), and what the memory's ECC
finds in it (R399). -/
def State.fetchRead (s : State) (m own : Nat) (escalated : Bool) (a n : Nat) (e : EccFind) : State × List Byte × Bool :=
  let r := (s.portReady m).readBursts m (s.effQos m own escalated) 0 e (burstsOf (n + 1) a n)
  (r.1, r.2.1, !r.2.2)

end Sys2Proof.Machine
end

