-- ==== Sys2Proof/Machine/Time.lean ====
section
/-! DEFINITION. Wall time: its states, the step-once rule, kicks, stamps and PPS, and the commands of the TIME block
(R76 to R96). -/

namespace Sys2Proof.Machine

/-! ### OFFSET and RATE -/

/-- OFFSET held to 48 bits of signed seconds, in units of 2^-32 ns. -/
def wrapOffset (o : Int) : Int :=
  signed 48 (unsigned 48 (o / (nsPerSec * 2 ^ 32))) * (nsPerSec * 2 ^ 32) + o % (nsPerSec * 2 ^ 32)

/-- What a change of RATE at local count `l` adds to OFFSET: L × (old − new) × 2^-40 ns in units of 2^-32 ns, rounded
to nearest, a half toward plus infinity (R79). -/
def rebase (l : Nat) (old new : Int) : Int := ((l : Int) * (old - new) + 128) / 256

/-- A kick while LOCKED restarts the count of R82. -/
def State.kicked (s : State) : State := { s with time := { s.time with kickAt := s.clock } }

/-- A write of TIME.RATE (R79, R82). -/
def rateWrite (v : Word) (s : State) : State :=
  let o := wrapOffset (s.time.offset + rebase s.time.count (s.gi Reg.TIME.RATE.RATE) (signed 32 v.toNat))
  (({ s with time := { s.time with offset := o } }).p Reg.TIME.RATE.RATE v.toNat).kicked

/-! ### Time states (R81, R82) -/

/-- A STANDBY_READY unit falls back to STANDBY_SYNCING (R360). -/
def State.readyFall (s : State) : State :=
  if s.g Reg.CUS.STATUS.ROLE = 1 then
    { s with cus := { s.cus with diffAt := none } }.p Reg.CUS.STATUS.ROLE 0
  else s

/-- The count of SYNC_GRACE_MS (R360): it runs while the unit is STANDBY_READY and the generations differ. -/
def State.genRefresh (s : State) : State :=
  let differ := s.g Reg.CUS.STATUS.ROLE == 1 && s.g Reg.CUS.PEER_LIVE_GEN.GENERATION != s.g Reg.SEQ.LIVE_GEN.GENERATION
  { s with cus := { s.cus with diffAt := if !differ then none else if s.cus.diffAt.isSome then s.cus.diffAt else some s.clock } }

/-- The state changes to `new`, with the counts of R82 started and the event raised; leaving LOCKED ends STANDBY_READY
(R360). -/
def timeEnter (new : Nat) (s : State) : State :=
  let old := s.timeState
  let s := (if old = 2 ∧ new ≠ 2 then s.readyFall else s).p Reg.TIME.STATUS.STATE new
  if new = 1 then s.pb Reg.TIME.STATUS.STEP_ARMED true
  else if new = 2 then
    let s : State := { s with time := { s.time with kickAt := s.clock } }
    (if old = 1 then s.pb Reg.TIME.STATUS.STEP_ARMED false else s).raise Ev.timeLock 0
  else if new = 3 then ({ s with time := { s.time with holdAt := s.clock } }).raise Ev.timeUnlock 3
  else if old = 2 then s.raise Ev.timeUnlock 0
  else if old = 1 then s.pb Reg.TIME.STATUS.STEP_ARMED false
  else s

/-- The transitions that a request may make (R81). -/
def timeRequestAllowed (old new : Nat) : Bool :=
  (old == 0 && new == 1) || (old == 1 && new == 2) || (old == 1 && new == 0) || (old == 2 && new == 3) ||
    (old == 2 && new == 0) || (old == 3 && new == 2) || (old == 3 && new == 0)

/-- A write of TIME.STATE_REQ by master `m` (R81): a request not in the table is logged as a reserved value is. -/
def stateRequest (m : Nat) (v : Word) (s : State) : State :=
  let new := fieldGet v 0 2
  if timeRequestAllowed s.timeState new then timeEnter new s
  else s.errLog (ctlRecord s Rsn.reservedValue m 0x10060008 true false v)

/-- LOCKED without a kick for KICK_TIMEOUT_MS becomes HOLDOVER (R82). -/
def kickTimeout (s : State) : State :=
  let limit := s.g Reg.TIME.CTRL.KICK_TIMEOUT_MS
  if s.timeState = 2 ∧ limit ≠ 0 ∧ limit * 1000000 ≤ s.clock - s.time.kickAt then timeEnter 3 s else s

/-- HOLDOVER for HOLDOVER_LIMIT_S becomes UNLOCKED (R81). -/
def holdoverLimit (s : State) : State :=
  let limit := s.g Reg.TIME.CTRL.HOLDOVER_LIMIT_S
  if s.timeState = 3 ∧ limit ≠ 0 ∧ limit * 1000000000 ≤ s.clock - s.time.holdAt then timeEnter 0 s else s

/-- A write of TIME.CTRL: a new limit is compared at once with the time already counted (R82). -/
def timeCtrlWrite (m : Nat) (v : Word) (s : State) : State :=
  holdoverLimit (kickTimeout (s.writeFields m 0x10060000 v 0))

/-! ### The step (R83) -/

/-- A write of TIME.STEP_NS by master `m`: accepted while STEP_ARMED with NS in range, else refused; either way the
step seconds are cleared. -/
def stepWrite (m : Nat) (v : Word) (s : State) : State :=
  let sec : Nat := s.g Reg.TIME.STEP_SEC_HI.SEC_HI * 2 ^ 32 + s.g Reg.TIME.STEP_SEC_LO.SEC_LO
  let ns : Nat := fieldGet v 0 30
  let mag : Int := ((sec : Int) * nsPerSec + (ns : Int)) * 2 ^ 32
  let t := if s.gb Reg.TIME.STATUS.STEP_ARMED && decide (ns ≤ 999999999) then
      let o := if fieldGet v 31 1 = 0 then s.time.offset + mag else s.time.offset - mag
      ({ s with time := { s.time with offset := wrapOffset o } }).pb Reg.TIME.STATUS.STEP_ARMED false
    else ((s.refuse m 0x10060040 v).incSat Reg.TIME.STATUS.REFUSED).raise Ev.timeStepRefused 0
  (t.p Reg.TIME.STEP_SEC_HI.SEC_HI 0).p Reg.TIME.STEP_SEC_LO.SEC_LO 0

/-! ### Stamps (R87 to R90) -/

/-- A stamp of point `code` taken now, in the stamper queue where its source is enabled (R89, R90). -/
def State.stamp (s : State) (code : Nat) (enabled : Bool) : State :=
  if !enabled then s
  else if s.time.stamps.length < 64 then
    { s with time := { s.time with stamps := s.time.stamps ++ [⟨s.wall, code, s.timeState⟩] } }
  else s.pb Reg.TIME.STAMP_STATUS.OVF true

/-- An egress stamp of port `p` with `tag` (R88). -/
def State.txStamp (s : State) (p tag : Nat) : State :=
  let q := Tab.get [] p s.time.txq
  if q.length < 32 then
    { s with time := { s.time with txq := Tab.put [] p (q ++ [⟨s.wall, tag, s.timeState⟩]) s.time.txq } }
  else (s.pb (Reg.TIME.TXQ.OVF p) true).raise Ev.tsTxqOvf p

/-- The NS word of a queue read: VALID and the nanoseconds, or 0 where the queue was empty. -/
def stampNsWord : List Stamp → Word
  | [] => 0
  | t :: _ => BitVec.ofNat 32 (2 ^ 31 + wallNs t.wall)

/-- The SEC_LO word of a queue read. -/
def stampSecLo : List Stamp → Word
  | [] => 0
  | t :: _ => BitVec.ofNat 32 (wallSec t.wall)

/-- The SEC_HI word of a stamper queue read, with the code and the time state. -/
def stampSecHi : List Stamp → Word
  | [] => 0
  | t :: _ => BitVec.ofNat 32 (wallSec t.wall / 2 ^ 32 + t.state * 2 ^ 16 + t.code * 2 ^ 24)

/-- The third word of a transmit queue read, with the tag. -/
def txqTagWord : List Stamp → Word
  | [] => 0
  | t :: _ => BitVec.ofNat 32 (wallSec t.wall / 2 ^ 32 + t.code * 2 ^ 16)

/-- A read of TIME.STAMP_NS by master `m`: the oldest entry is removed and snapshot (R90). The link and time engine serves the
queue only while it runs (R23). -/
def stampRead (m : Nat) (s : State) : State × Word :=
  let q := s.time.stamps
  if m = engMaster 23 ∧ s.engRunning 23 = false then (s, stampNsWord q) else
  (({ s with time := { s.time with stamps := q.drop 1 } }).setSnaps m
    [(0x1006005C, stampSecLo q), (0x10060060, stampSecHi q)], stampNsWord q)

/-- A read of TIME.TXQ[p] by master `m`: the oldest stamp is removed and snapshot (R88). -/
def txqRead (m p : Nat) (s : State) : State × Word :=
  let q := Tab.get [] p s.time.txq
  let a := 0x10060200 + 0x10 * p
  (({ s with time := { s.time with txq := Tab.put [] p (q.drop 1) s.time.txq } }).setSnaps m
    [(a + 4, stampSecLo q), (a + 8, txqTagWord q)], stampNsWord q)

/-! ### PPS (R91, R92) -/

/-- A PPS input edge (R91): accepted with IN_EN, of the selected polarity, 100 ms or more after the last accepted. -/
def ppsInput (rising : Bool) (s : State) : State :=
  let due : Bool := match s.time.ppsInAt with
    | none => true
    | some t => decide (100000000 ≤ s.clock - t)
  if s.coreOn && s.gb Reg.TIME.PPS_CTRL.IN_EN && (s.gb Reg.TIME.PPS_CTRL.IN_EDGE != rising) && due then
    (({ s with time := { s.time with ppsInAt := some s.clock } }).stamp 88 (s.gb Reg.TIME.STAMP_EN.PPS)).raise Ev.pps 0
  else s

/-- The rising edge of the PPS output within 5 ns of a whole second of wall time: high for the OUT_WIDTH_MS then in force
(R92). -/
def ppsOutput (s : State) : State :=
  if s.ppsDriven && (decide (wallNs s.wall ≤ 5) || decide (999999995 ≤ wallNs s.wall)) then
    { s with time := { s.time with
        ppsOut := true, ppsEnd := s.clock + 1000000 * s.g Reg.TIME.PPS_CTRL.OUT_WIDTH_MS } }
  else s

/-! ### The commands -/

/-- RATE_WRITE (R79): a write of TIME.RATE. -/
def execRateWrite (dt : Nat) (m : Master) (v : Word) (s : State) : Out State :=
  .next ((s.advance dt).ctlWrite m.val 0x1006003C v (rateWrite v))

/-- TIME_KICK (R82). -/
def execTimeKick (dt : Nat) (m : Master) (s : State) : Out State :=
  .next ((s.advance dt).ctlWrite m.val 0x1006000C 1 State.kicked)

/-- TIME_STATE_REQUEST (R81): the state asked for. -/
def execTimeStateRequest (dt : Nat) (m : Master) (target : Fin 4) (s : State) : Out State :=
  let v : Word := BitVec.ofNat 32 target.val
  .next ((s.advance dt).ctlWrite m.val 0x10060008 v (stateRequest m.val v))

/-- KICK_TIMEOUT (R82). -/
def execKickTimeout (dt : Nat) (s : State) : Out State := .next (kickTimeout (s.advance dt))

/-- HOLDOVER_LIMIT (R81). -/
def execHoldoverLimit (dt : Nat) (s : State) : Out State := .next (holdoverLimit (s.advance dt))

/-- TIME_STEP (R83): the write of STEP_NS with its SIGN, the seconds having been written before it. -/
def execTimeStep (dt : Nat) (m : Master) (v : Word) (s : State) : Out State :=
  .next ((s.advance dt).ctlWrite m.val 0x10060040 v (stepWrite m.val v))

/-- The response to a control read of `w`. -/
def State.answer (r : State × Word) (m : Nat) : State :=
  (r.1.ctlServed m).respond false (leBytes r.2.toNat 4)

/-- A control read of the register at `a` by master `m` that acts and answers as `r`: none reaches the registers while CORE is off or
in reset, a port in RESET_DRAIN accepts none (R419), and one behind control requests that wait waits too (R410).
(DEDUCED, log entry 16) -/
def State.ctlRead (s : State) (m a : Nat) (r : State × Word) : State :=
  if !s.coreOn || s.draining m then s
  else if s.readsNow m then State.answer r m
  else s.ctlQueue (ctlReq m a false 0)

/-- STAMP_QUEUE_READ (R90). -/
def execStampQueueRead (dt : Nat) (m : Master) (s : State) : Out State :=
  let s := s.advance dt
  .next (s.ctlRead m.val 0x10060058 (stampRead m.val s))

/-- TXQ_READ (R88). -/
def execTxqRead (dt : Nat) (m : Master) (p : Fin 16) (s : State) : Out State :=
  let s := s.advance dt
  .next (s.ctlRead m.val (0x10060200 + 0x10 * p.val) (txqRead m.val p.val s))

/-- PPS_INPUT_EDGE (R91): whether the edge rises. -/
def execPpsInputEdge (dt : Nat) (rising : Bool) (s : State) : Out State := .next (ppsInput rising (s.advance dt))

/-- PPS_OUTPUT_EDGE (R92). -/
def execPpsOutputEdge (dt : Nat) (s : State) : Out State := .next (ppsOutput (s.advance dt))

end Sys2Proof.Machine
end

