-- ==== Sys2Proof/Machine/Events.lean ====
section
/-! DEFINITION. The event block: what its registers read, the pins, clearing, enabling and the log, GPIO edges and
software events (R489 to R502). -/

namespace Sys2Proof.Machine

/-- Whether STATUS of source `i` reads 1: for a head, whether any of its causes stands (R493). -/
def State.evStatus (s : State) (i : Nat) : Bool :=
  if i < 64 then bitOf (s.g (Reg.EVT.STATUS (i / 32))) (i % 32)
  else s.g (Reg.EVT.HEAD_CAUSE.CAUSE (i - 64)) != 0

/-- The word STATUS[w] (R493). -/
def State.evStatusWord (s : State) (w : Nat) : Word :=
  if w < 2 then s.reg (0x10040080 + 4 * w)
  else BitVec.ofNat 32 ((List.range 32).foldl (fun n i => n + if s.evStatus (32 * w + i) then 2 ^ i else 0) 0)

/-- Whether source `i` holds route `r`: 0 to 3 the pins, 4 the Curator interrupt (R497). -/
def State.holdsRoute (s : State) (i r : Nat) : Bool :=
  bitOf (s.g (Reg.EVT.ENABLE (i / 32))) (i % 32) && s.evStatus i &&
    (if r < 4 then bitOf (s.g (Reg.EVT.ROUTE.PINS i)) r else s.gb (Reg.EVT.ROUTE.CURATOR i))

/-- The lowest source that holds route `r` (R497). -/
def State.pendSource (s : State) (r : Nat) : Option Nat := (List.range 128).find? (fun i => s.holdsRoute i r)

/-- The word PEND[r] (R497). -/
def State.pendWord (s : State) (r : Nat) : Word :=
  match s.pendSource r with
  | none => 0
  | some i => BitVec.ofNat 32 (2 ^ 31 + i)

/-- Causes `mask` of head `n` cleared, but for those raised in the same clock (R493). -/
def clearCause (n mask : Nat) (s : State) : State :=
  s.p (Reg.EVT.HEAD_CAUSE.CAUSE n)
    (s.g (Reg.EVT.HEAD_CAUSE.CAUSE n) &&& ((255 - mask % 256) ||| (s.raisedNow (64 + n) % 256)))

/-- The sources of STATUS[w] raised in the present clock, as bits (R493). -/
def State.statusNow (s : State) (w : Nat) : Nat :=
  (List.range 32).foldl (fun n i => n + if s.raisedNow (32 * w + i) ≠ 0 then 2 ^ i else 0) 0

/-- A write of `v` to STATUS[w] (R493): bits written 1 are cleared, a head's bit with every cause of that head; a raise in the same
clock leaves its bit at 1. -/
def statusClear (w : Nat) (v : Word) (s : State) : State :=
  if w < 2 then s.p (Reg.EVT.STATUS w) (s.g (Reg.EVT.STATUS w) &&& ((2 ^ 32 - 1 - v.toNat) ||| s.statusNow w))
  else (List.range 32).foldl (fun s i => if bitOf v.toNat i then clearCause (32 * (w - 2) + i) 255 s else s) s

/-- A write of EVT offset 0x000: a write of 1 to LOG_EN sets SEQUENCE to 0 (R498). -/
def logEnable (m : Nat) (v : Word) (s : State) : State :=
  let t := s.writeFields m 0x10040000 v 0
  if fieldGet v 0 1 = 1 then { t.p Reg.EVT.LOG_SEQ 0 with evt := { t.evt with logs := [] } } else t

/-- A write of the log's ring word: ignored whole and logged while LOG_EN is 1. -/
def logRingWrite (m : Nat) (v : Word) (s : State) : State :=
  if s.gb Reg.EVT.LOG_EN then s.logIgnored m 0x10040010 v else s.writeFields m 0x10040010 v 0

/-- What an edge of GPIO[n] is to the preset selection (R72): the chosen edge of the strobe pin.
(DEDUCED, log entry 25) -/
def presetEdge (n : Nat) (rising : Bool) (s : State) : State :=
  if n == s.g Reg.SEQ.PRESET_GPIO.STROBE && s.gb Reg.SEQ.PRESET_GPIO.ENABLE && s.gb Reg.SEQ.PRESET_GPIO.EDGE != rising then
    { s with seq := { s.seq with strobe := true } }
  else s

/-- An edge of GPIO[n] as a wake source, from the entry to a low-power state on (R484).
(DEDUCED, log entry 73) -/
def wakeEdge (n : Nat) (rising : Bool) (s : State) : State :=
  let sleepy := decide (s.pwr.mode = .entering) || decide (s.pwr.mode = .standby) || decide (s.pwr.mode = .dormant)
  let on := bitOf (if rising then s.g Reg.PWR.WAKE_GPIO.RISE else s.g Reg.PWR.WAKE_GPIO.FALL) n
  if sleepy && s.gb Reg.PWR.WAKE_EN.GPIO && on && s.pwr.wakeGpio.isNone then
    { s with pwr := { s.pwr with wakeGpio := some n } }
  else s

/-- An edge of GPIO[n] put among those that wait for 1 µs of stability: one per pin, by their instants and then by pin (R500). -/
def edgeInsert (e : Nat × Nat) : List (Nat × Nat) → List (Nat × Nat)
  | [] => [e]
  | x :: xs => if e.1 < x.1 ∨ (e.1 = x.1 ∧ e.2 < x.2) then e :: x :: xs else x :: edgeInsert e xs

/-- EV_GPIO raised for each selected edge whose pin has been stable for 1 µs, at the instant at which it had been (R500). The model
looks at them with the next edge and with an access to the event block.
(DESIGN CHOICE, log entry 98) -/
def State.gpioSettle (s : State) : State :=
  let due := s.evt.edges.filter (fun e => decide (e.1 + 1000 ≤ s.clock))
  if due.isEmpty then s
  else
    due.foldl (fun s e =>
      let count := (s.time.count + 2 ^ 64 - (s.clock - (e.1 + 1000))) % 2 ^ 64
      s.raiseInfo { source := Ev.gpio, causes := 0, arg := e.2, wall := s.wallAt count, count := count })
      { s with evt := { s.evt with edges := s.evt.edges.filter (fun e => decide (s.clock < e.1 + 1000)) } }

/-- Whether INT_N[p] is driven low (R496): in LEVEL mode while a source holds its route, in PULSE mode until the end of
the pulse; released unpowered, in reset and in low power. -/
def State.intAsserted (s : State) (p : Nat) : Bool :=
  let s := s.gpioSettle
  s.coreOn &&
    (if s.gb (Reg.EVT.INT_CTRL.MODE p) then (Tab.get none p s.evt.pulseEnd).any (fun t => decide (s.clock < t)) else (s.pendSource p).isSome)

/-- An edge of GPIO[n] (R500): the level changes, the edge is stamped where STAMP_EN selects it (R89), and where RISE or FALL selects
it EV_GPIO waits for 1 µs of stability; an edge before that ends the wait of the pin's last one. -/
def gpioEdge (n : Nat) (rising : Bool) (s : State) : State :=
  let level := if rising then s.pins.gpio ||| 2 ^ n else s.pins.gpio &&& (2 ^ 16 - 1 - 2 ^ n)
  let s := wakeEdge n rising { s with pins := { s.pins with gpio := level, edgeAt := Tab.put 0 n s.clock s.pins.edgeAt } }
  if !s.coreOn then s
  else
    let s := presetEdge n rising s.gpioSettle
    let s := s.stamp (72 + n) (bitOf (s.g Reg.TIME.STAMP_EN.GPIO) n && (s.gb Reg.TIME.STAMP_EN.GPIO_EDGE != rising))
    let rest := s.evt.edges.filter (fun e => e.2 != n)
    let on := bitOf (if rising then s.g Reg.EVT.GPIO.RISE else s.g Reg.EVT.GPIO.FALL) n
    { s with evt := { s.evt with edges := if on then edgeInsert (s.clock, n) rest else rest } }

/-- The pulse of INT_N[p] ends PULSE_US after its last raise (R496). -/
def pulseEnd (p : Nat) (s : State) : State :=
  match Tab.get none p s.evt.pulseEnd with
  | none => s
  | some t => if t ≤ s.clock then { s with evt := { s.evt with pulseEnd := Tab.put none p none s.evt.pulseEnd } } else s

/-- EVENT_STATUS_CLEAR (R493): of a STATUS word, or of causes of one head. -/
def execEventStatusClear (dt : Nat) (m : Master) (c : EvtClear) (s : State) : Out State :=
  let s := (s.advance dt).gpioSettle
  .next (match c with
    | .status w v => s.ctlWrite m.val (0x10040080 + 4 * w.val) v (statusClear w.val v)
    | .cause n mask => s.ctlWrite m.val (0x10040400 + 4 * n.val)
        (s.fieldWord (Reg.EVT.HEAD_CAUSE.CAUSE n.val) mask.toNat) (clearCause n.val mask.toNat))

/-- EVENT_ENABLE_WRITE (R494): the word ENABLE[w] and its value. -/
def execEventEnableWrite (dt : Nat) (m : Master) (w : Fin 4) (v : Word) (s : State) : Out State :=
  .next (((s.advance dt).gpioSettle).ctlWrite m.val (0x10040090 + 4 * w.val) v
    (fun s => s.writeFields m.val (0x10040090 + 4 * w.val) v 0))

/-- EVENT_LOG_ENABLE (R498): the value of LOG_EN. -/
def execEventLogEnable (dt : Nat) (m : Master) (on : Bool) (s : State) : Out State :=
  let v : Word := BitVec.ofNat 32 on.toNat
  .next (((s.advance dt).gpioSettle).ctlWrite m.val 0x10040000 v (logEnable m.val v))

/-- SOFTWARE_EVENT (R501): the value written, which is the argument. -/
def execSoftwareEvent (dt : Nat) (m : Master) (v : Word) (s : State) : Out State :=
  .next (((s.advance dt).gpioSettle).ctlWrite m.val 0x10040020 v (fun s => s.raise Ev.sw v.toNat))

/-- GPIO_EDGE (R500): the pin, and whether the edge rises. -/
def execGpioEdge (dt : Nat) (n : Fin 16) (rising : Bool) (s : State) : Out State :=
  .next (gpioEdge n.val rising (s.advance dt))

/-- INT_PULSE_END (R496). -/
def execIntPulseEnd (dt : Nat) (p : Fin 4) (s : State) : Out State := .next (pulseEnd p.val (s.advance dt))

end Sys2Proof.Machine
end

