-- ==== Sys2Proof/Machine/Page.lean ====
section
/-! DEFINITION. Course memory pages: the header, the sections and their records, and the course lists (R36 to R54,
R187 to R196, R206, R263, R392, R523). -/

namespace Sys2Proof.Machine

/-- The `width` bits of `e` from bit `lo`. -/
def bitsOf (e lo width : Nat) : Nat := (e >>> lo) % 2 ^ width

/-- A page, as the 128-bit entry at each index. -/
abbrev Page := Nat → Nat

/-- Physical address of entry `i` of page `p` (R39). -/
def pageAddr (p i : Nat) : Nat := 0x1000000 + 0x40000 * p + 16 * i

/-- Page `p` of course memory (R36, R39). -/
def State.page (s : State) (p : Nat) : Page := fun i => s.le (pageAddr p i) 16

/-- The page that is staging (R36). -/
def State.stagePage (s : State) : Nat :=
  if s.gb Reg.SEQ.STATUS.LIVE_VALID then 1 - s.g Reg.SEQ.STATUS.LIVE_PAGE else s.g Reg.SEQ.STATUS.LIVE_PAGE

/-- The live page (R36). -/
def State.livePage (s : State) : Option Nat :=
  if s.gb Reg.SEQ.STATUS.LIVE_VALID then some (s.g Reg.SEQ.STATUS.LIVE_PAGE) else none

/-- Whether an entry of page `p` carries a multi-bit error (R32). -/
def State.entryBad (s : State) (p i : Nat) : Bool := s.eccHit (pageAddr p i) 16

/-! ### The header (R40 to R42) -/

/-- The 64 bytes of the header as one number. -/
def pgHeader (P : Page) : Nat := P 0 + P 1 * 2 ^ 128 + P 2 * 2 ^ 256 + P 3 * 2 ^ 384

def pgMagic (P : Page) : Nat := bitsOf (P 0) 0 32
def pgVersion (P : Page) : Nat := bitsOf (P 0) 32 16
def pgGeneration (P : Page) : Nat := bitsOf (P 0) 64 32
def pgLength (P : Page) : Nat := bitsOf (P 0) 96 32
def pgPoint (P : Page) : Nat := bitsOf (P 1) 0 8
def pgKeyId (P : Page) : Nat := bitsOf (P 1) 8 8
def pgCrc (P : Page) : Nat := bitsOf (pgHeader P) 480 32

/-- OFFSET of section `k`. -/
def secOff (P : Page) (k : Nat) : Nat := bitsOf (pgHeader P) (160 + 32 * k) 16

/-- COUNT of section `k`, in entries. -/
def secCnt (P : Page) (k : Nat) : Nat := bitsOf (pgHeader P) (176 + 32 * k) 16

/-! ### Records -/

/-- The head record of head `n` (R43). -/
def headRec (P : Page) (n : Nat) : Nat := P (secOff P 0 + n)

def hrEnable (r : Nat) : Bool := bitOf r 0
def hrPair (r : Nat) : Bool := bitOf r 1
def hrWidth (r : Nat) : Nat := bitsOf r 2 13 + 1
def hrHeight (r : Nat) : Nat := bitsOf r 15 13 + 1
def hrStart (r : Nat) : Nat := bitsOf r 28 16
def hrLen (r : Nat) : Nat := bitsOf r 44 16
def hrVitEdit (r : Nat) : Bool := bitOf r 60

/-- A record of two entries from entry `i`. -/
def pairAt (P : Page) (i : Nat) : Nat := P i + P (i + 1) * 2 ^ 128

/-- A WINDOWS record (R187). -/
structure Window where
  valid   : Bool
  graphic : Bool
  source  : Nat
  cls     : Nat
  visible : Bool
  placard : Bool
  policy  : Nat
  budget  : Nat
deriving DecidableEq, Repr

/-- The WINDOWS record whose bits are `r` (R187). -/
def windowOf (r : Nat) : Window :=
  { valid := bitOf r 0, graphic := bitOf r 1, source := bitsOf r 2 9, cls := bitsOf r 11 3, visible := bitOf r 14,
    placard := bitOf r 15, policy := bitsOf r 16 8, budget := bitsOf r 24 16 }

/-- Record `w` of WINDOWS; none past the end of the section. -/
def windowRec (P : Page) (w : Nat) : Option Window :=
  if 2 * w + 2 ≤ secCnt P 1 then some (windowOf (pairAt P (secOff P 1 + 2 * w))) else none

/-- Window `w`, where its record is VALID. -/
def validWindow (P : Page) (w : Nat) : Option Window := (windowRec P w).filter (fun r => r.valid)

/-- A SLOTS record (R188), with the index of its first entry. -/
structure Slot where
  entry   : Nat
  head    : Nat
  slot    : Nat
  graphic : Bool
  window  : Nat
  latch   : Nat
  tf      : Nat
  csc     : Nat
  full    : Bool
  reduced : Nat
  alpha   : Nat
  group   : Nat
  margin  : Nat
  delay   : Nat
  x0      : Nat
  y0      : Nat
  x1      : Nat
  y1      : Nat
  wide    : Bool
  cropX0  : Nat
  cropY0  : Nat
  cropX1  : Nat
  cropY1  : Nat
  srcW    : Nat
  srcH    : Nat
  hcoef   : Nat
  vcoef   : Nat
deriving DecidableEq, Repr

/-- The SLOTS record at entry `e` whose bits are `r` (R188). -/
def slotOf (e r : Nat) : Slot :=
  { entry := e, head := bitsOf r 0 6, slot := bitsOf r 6 5, graphic := bitOf r 11, window := bitsOf r 12 10,
    latch := bitsOf r 22 2, tf := bitsOf r 24 3, csc := bitsOf r 27 2, full := bitOf r 29, reduced := bitsOf r 30 2,
    alpha := bitsOf r 32 10, group := bitsOf r 42 5, margin := bitsOf r 47 8, delay := bitsOf r 55 16,
    x0 := bitsOf r 71 13, y0 := bitsOf r 84 13, x1 := bitsOf r 97 13, y1 := bitsOf r 110 13, wide := bitOf r 123,
    cropX0 := bitsOf r 128 17, cropY0 := bitsOf r 145 17, cropX1 := bitsOf r 162 17, cropY1 := bitsOf r 179 17,
    srcW := bitsOf r 196 13 + 1, srcH := bitsOf r 209 13 + 1, hcoef := bitsOf r 222 16, vcoef := bitsOf r 238 16 }

/-- All SLOTS records of a page. -/
def slotRecs (P : Page) : List Slot :=
  (List.range (secCnt P 2 / 2)).map (fun i => slotOf (secOff P 2 + 2 * i) (pairAt P (secOff P 2 + 2 * i)))

/-- The number of a slot among the 32 of a head: video 0 to 23, graphic 24 to 31. -/
def Slot.index (r : Slot) : Nat := if r.graphic then 24 + r.slot else r.slot

/-- The SLOTS record of slot number `k` of head `n`: the first of the page. -/
def slotRec (P : Page) (n k : Nat) : Option Slot :=
  (slotRecs P).find? (fun r => r.head == n && r.index == k && decide (r.slot ≤ if r.graphic then 7 else 23))

/-- The heads that window `w` occupies: those with a SLOTS record of it. -/
def windowHeads (P : Page) (w : Nat) : List Nat :=
  (List.range 64).filter (fun n => (slotRecs P).any (fun r => r.head == n && r.window == w))

/-- A POLICIES record (R263). -/
structure Policy where
  budget     : Nat
  advance    : Nat
  still      : Nat
  dim        : Bool
  concealed  : Nat
  incomplete : Nat
  truncated  : Nat
  lock       : Bool
  clear      : Nat
deriving DecidableEq, Repr

/-- The POLICIES record whose bits are `r` (R263). -/
def policyOf (r : Nat) : Policy :=
  { budget := bitsOf r 0 16, advance := bitsOf r 16 16, still := bitsOf r 32 12, dim := bitOf r 44,
    concealed := bitsOf r 45 2, incomplete := bitsOf r 47 2, truncated := bitsOf r 49 2, lock := bitOf r 51,
    clear := bitsOf r 52 4 }

/-- Policy `k` of a page. -/
def policyRec (P : Page) (k : Nat) : Policy := policyOf (P (secOff P 3 + k))

/-- A VITRINE record (R206). -/
structure VitZone where
  touch   : Bool
  head    : Nat
  index   : Nat
  curator : Bool
  x0      : Nat
  y0      : Nat
  x1      : Nat
  y1      : Nat
  desc    : Nat
deriving DecidableEq, Repr

/-- The VITRINE record whose bits are `r` (R206). -/
def vitOf (r : Nat) : VitZone :=
  { touch := bitsOf r 0 2 == 1, head := bitsOf r 2 6, index := bitsOf r 8 3, curator := bitOf r 11, x0 := bitsOf r 12 13,
    y0 := bitsOf r 25 13, x1 := bitsOf r 38 13, y1 := bitsOf r 51 13, desc := bitsOf r 64 21 }

/-- All VITRINE records of a page. -/
def vitRecs (P : Page) : List VitZone := (List.range (secCnt P 7)).map (fun i => vitOf (P (secOff P 7 + i)))

/-- Region `r` of head `n`: the first such record. -/
def vitRegion (P : Page) (n r : Nat) : Option VitZone :=
  (vitRecs P).find? (fun z => !z.touch && z.head == n && z.index == r)

/-- An AMEND record (R44). -/
structure AmendRec where
  window    : Nat
  rebind    : Bool
  gfx       : Bool
  visible   : Bool
  budget    : Bool
  text      : Bool
  maxClass  : Nat
  budgetMin : Nat
  budgetMax : Nat
deriving DecidableEq, Repr

/-- The AMEND record whose bits are `r` (R44). -/
def amendOf (r : Nat) : AmendRec :=
  { window := bitsOf r 0 10, rebind := bitOf r 10, gfx := bitOf r 11, visible := bitOf r 12, budget := bitOf r 13,
    text := bitOf r 14, maxClass := bitsOf r 16 3, budgetMin := bitsOf r 32 16, budgetMax := bitsOf r 48 16 }

/-- The AMEND record of window `w`: the first of the page. -/
def amendRec (P : Page) (w : Nat) : Option AmendRec :=
  ((List.range (secCnt P 8)).map (fun i => amendOf (P (secOff P 8 + i)))).find? (fun r => r.window == w)

/-- Coefficient (phase `ph`, tap `t`) of the set of `taps` taps at entry offset `set` within SCALERS, S1.10 (R189). -/
def coefOf (P : Page) (set taps ph t : Nat) : Int :=
  let b := 12 * (taps * ph + t)
  let e := secOff P 4 + set + b / 128
  signed 12 (bitsOf (P e + P (e + 1) * 2 ^ 128) (b % 128) 12)

/-- Point `j` of transfer table `t` (R196). -/
def transferPoint (P : Page) (t j : Nat) : Nat := bitsOf (P (secOff P 5 + 64 * t + j / 8)) (16 * (j % 8)) 16

/-- Geometry class of a picture of `w` by `h` (R45). -/
def geometryClass (w h : Nat) : Nat :=
  ([(720, 576), (1280, 720), (1920, 1080), (2048, 1080), (3840, 2160), (4096, 2160), (4096, 2304)].findIdx?
    (fun b => decide (w ≤ b.1 ∧ h ≤ b.2))).getD 7

/-! ### Course entries (R46 to R48) -/

def ceOp (e : Nat) : Nat := bitsOf e 0 4
def ceHead (e : Nat) : Nat := bitsOf e 4 6
def ceSlot (e : Nat) : Nat := bitsOf e 10 5
def ceX0 (e : Nat) : Nat := bitsOf e 15 13
def ceX1 (e : Nat) : Nat := bitsOf e 28 13
def ceLine (e : Nat) : Nat := bitsOf e 41 13
def ceCount (e : Nat) : Nat := bitsOf e 54 13
def ceHPhase (e : Nat) : Nat := bitsOf e 67 6
def ceVPhase (e : Nat) : Nat := bitsOf e 73 6
def ceLsBase (e : Nat) : Nat := bitsOf e 79 16
def ceLsLen (e : Nat) : Nat := bitsOf e 95 16
def ceQos (e : Nat) : Nat := bitsOf e 112 4
def ceMark (e : Nat) : Nat := bitsOf e 112 16
def ceDuration (e : Nat) : Nat := bitsOf e 79 16
def ceDmcMask (e : Nat) : Nat := bitsOf e 95 8
def ceCalKind (e : Nat) : Nat := bitsOf e 103 4

/-- The course list of head `n`: index and entry of each, to at most entry 16,383 (R43). -/
def courseOf (P : Page) (n : Nat) : List (Nat × Nat) :=
  let r := headRec P n
  ((List.range (hrLen r)).map (fun i => (hrStart r + i, P (hrStart r + i)))).filter (fun e => decide (e.1 < 16384))

/-- A band: the index of its BAND_START, its lines, its spans and marks in order, and whether an entry of it carries a
multi-bit error (R49, R50, R523). -/
structure Band where
  entry : Nat
  first : Nat
  count : Nat
  spans : List Nat
  marks : List Nat
  bad   : Bool
deriving DecidableEq, Repr

/-- A course list as its sequencer reads it: the bands, the line from which no band can be placed (R523), and the
calibration slots. -/
structure Course where
  bands : List Band
  lost  : Option Nat
  cals  : List Nat
deriving DecidableEq, Repr

/-- The calibration slots of the rest of a list, to its HEAD_END (R52). -/
def calsOf (bad : Nat → Bool) : List (Nat × Nat) → List Nat
  | [] => []
  | (i, e) :: rest =>
    if ceOp e = 6 then [] else if ceOp e = 8 ∧ bad i = false then e :: calsOf bad rest else calsOf bad rest

/-- The rest of a course list, after the bands so far and in an open band or not; after a BAND_START with a multi-bit error
no band can be placed, and the calibration slots stand (R49 to R52, R523). -/
def courseScan (bad : Nat → Bool) : List (Nat × Nat) → List Band → Option Band → List Nat → Course
  | [], bands, cur, cals => ⟨bands ++ cur.toList, none, cals⟩
  | (i, e) :: rest, bands, cur, cals =>
    if ceOp e = 6 then ⟨bands ++ cur.toList, none, cals⟩
    else if ceOp e = 4 then
      if bad i then
        ⟨bands ++ cur.toList, some (((bands ++ cur.toList).getLast?.map (fun b => b.first + b.count)).getD 0),
          cals ++ calsOf bad rest⟩
      else courseScan bad rest (bands ++ cur.toList) (some ⟨i, ceLine e, ceCount e, [], [], false⟩) cals
    else if ceOp e = 5 then
      courseScan bad rest (bands ++ (cur.map (fun b => { b with bad := b.bad || bad i })).toList) none cals
    else if 1 ≤ ceOp e ∧ ceOp e ≤ 3 then
      courseScan bad rest bands (cur.map (fun b => { b with spans := b.spans ++ [e], bad := b.bad || bad i })) cals
    else if ceOp e = 7 then
      courseScan bad rest bands
        (cur.map (fun b => if bad i then b else { b with marks := b.marks ++ [ceMark e] })) cals
    else if ceOp e = 8 then courseScan bad rest bands cur (if bad i then cals else cals ++ [e])
    else courseScan bad rest bands cur cals

/-- The course of head `n` under page `p`; nothing where its record has ENABLE at 0 (R43). -/
def State.course (s : State) (p n : Nat) : Course :=
  let P := s.page p
  if hrEnable (headRec P n) then courseScan (s.entryBad p) (courseOf P n) [] none [] else ⟨[], none, []⟩

/-! ### Scaler positions (R190, R198) -/

/-- The step of the scaler in units of 2^-20: a crop of a side of `size` samples over `out` output samples (R190). -/
def scalerStep (crop0 crop1 size out : Nat) : Nat := (crop1 - crop0) * size * 16 / out

/-- p(x) in units of 2^-20, for the output sample `k` after the start of the rectangle (R190). -/
def scalerPos (crop0 size step : Nat) (k : Int) : Int :=
  (crop0 * size * 16 : Nat) + ((2 * k + 1) * step) / 2 - 2 ^ 19

/-- The scaler step of a slot along x for a picture of width `w`. -/
def Slot.stepX (r : Slot) (w : Nat) : Nat := scalerStep r.cropX0 r.cropX1 w (r.x1 - r.x0 + 1)

/-- The scaler step of a slot along y for a picture of height `h`. -/
def Slot.stepY (r : Slot) (h : Nat) : Nat := scalerStep r.cropY0 r.cropY1 h (r.y1 - r.y0 + 1)

/-- p(x) of a slot, in units of 2^-20. -/
def Slot.posX (r : Slot) (w x : Nat) : Int := scalerPos r.cropX0 w (r.stepX w) ((x : Int) - r.x0)

/-- p(y) of a slot, in units of 2^-20. -/
def Slot.posY (r : Slot) (h y : Nat) : Int := scalerPos r.cropY0 h (r.stepY h) ((y : Int) - r.y0)

/-- The line-store need of spans from `xs` to `xe` of a slot, for a picture of width `w` at `wpp` words a pixel
(R198). -/
def Slot.need (r : Slot) (w xs xe wpp : Nat) : Nat :=
  let hi := min ((w : Int) - 1) (r.posX w xe / 2 ^ 20 + 4)
  let lo := max 0 (r.posX w xs / 2 ^ 20 - 3)
  6 * (hi - lo + 1).toNat * wpp

/-- Whether a step lies within 1/16 to 4 (R191). -/
def stepOk (step : Nat) : Bool := decide (2 ^ 16 ≤ step ∧ step ≤ 2 ^ 22)

/-- The video spans of slot `k` in a band. -/
def Band.spansOf (b : Band) (k : Nat) : List Nat := b.spans.filter (fun e => ceOp e == 1 && ceSlot e == k)

/-! ### Label areas (R266, R267) -/

/-- A box by its inclusive corners: x0, y0, x1, y1. -/
abbrev Box := Nat × Nat × Nat × Nat

/-- Whether two boxes share a pixel. -/
def boxesMeet (a b : Box) : Bool :=
  decide (a.1 ≤ b.2.2.1 ∧ b.1 ≤ a.2.2.1 ∧ a.2.1 ≤ b.2.2.2 ∧ b.2.1 ≤ a.2.2.2)

/-- The label box of a slot at scale `sc`, clipped to the rectangle (R266). -/
def Slot.labelBox (r : Slot) (sc : Nat) : Box :=
  (r.x0, r.y0, min r.x1 (r.x0 + 336 * sc - 1), min r.y1 (r.y0 + 72 * sc - 1))

/-- The TIME mark box of a slot at scale `sc`, clipped to the rectangle (R267). -/
def Slot.timeBox (r : Slot) (sc : Nat) : Box :=
  (max r.x0 (r.x1 + 1 - 80 * sc), r.y0, r.x1, min r.y1 (r.y0 + 40 * sc - 1))

/-- A box clipped to an active area of `w` by `h`; none where nothing is left. -/
def clipBox (w h : Nat) (b : Box) : Option Box :=
  if b.1 < w ∧ b.2.1 < h then some (b.1, b.2.1, min b.2.2.1 (w - 1), min b.2.2.2 (h - 1)) else none

/-- The SLOTS records whose label area meets a vitrine zone at label scale `sc` (R56 check 10, R267). -/
def labelClashes (P : Page) (sc : Nat) : List Slot :=
  (slotRecs P).filter (fun r =>
    let h := headRec P r.head
    let ok := match validWindow P r.window with
      | some w => w.placard
      | none => false
    hrEnable h && ok &&
      (vitRecs P).any (fun z => z.head == r.head &&
        [r.labelBox sc, r.timeBox sc].any (fun b =>
          match clipBox (hrWidth h) (hrHeight h) b with
          | some c => boxesMeet c (z.x0, z.y0, z.x1, z.y1)
          | none => false)))

end Sys2Proof.Machine
end

