-- ==== Sys2Proof/Machine/Validator.lean ====
section
/-! DEFINITION. The validator of the staging page: the ten checks of R56 in their order, each as the list of what
fails it, as the index of the offending entry and its head. -/

namespace Sys2Proof.Machine

/-- What the device holds that a page is compared with: the active area and pairing of each head, the bandwidth cap,
the label scale and the page keys. -/
structure ValContext where
  width  : List Nat
  height : List Nat
  pair   : List Bool
  cap    : Nat
  scale  : Nat
  keys   : Tab (Option Nat)

/-- The failures of a check: entry index and head. -/
abbrev Fails := List (Nat × Nat)

/-- The failure of the lowest entry index. -/
def firstFail : Fails → Option (Nat × Nat)
  | [] => none
  | f :: fs => some (fs.foldl (fun a b => if b.1 < a.1 then b else a) f)

/-- A failure where `c` holds. -/
def failIf (c : Bool) (i n : Nat) : Fails := if c then [(i, n)] else []

/-- Every head number. -/
def allHeads : List Nat := List.range 64

/-- The heads whose lists are checked: those with a list, and those whose record has ENABLE at 1. -/
def listHeads (P : Page) : List Nat :=
  allHeads.filter (fun n => decide (0 < hrLen (headRec P n)) || hrEnable (headRec P n))

/-! ### Check 1, TOO_LARGE -/

/-- The BAND_STARTs of bands of more than 96 entries (R50). -/
def longBands (n : Nat) : List (Nat × Nat) → Option (Nat × Nat) → Fails
  | [], cur => (cur.map (fun c => failIf (decide (96 < c.2)) c.1 n)).getD []
  | (i, e) :: rest, cur =>
    if ceOp e = 4 ∨ ceOp e = 5 ∨ ceOp e = 6 then
      (cur.map (fun c => failIf (decide (96 < c.2)) c.1 n)).getD [] ++
        longBands n rest (if ceOp e = 4 then some (i, 0) else none)
    else longBands n rest (cur.map (fun c => (c.1, c.2 + 1)))

/-- Check 1: LENGTH, sections past LENGTH − 5, bands of more than 96 entries. -/
def checkTooLarge (P : Page) : Fails :=
  if 16384 < pgLength P ∨ pgLength P < 8 then [(0, 0)]
  else
    failIf ((List.range 10).any (fun k =>
      decide (0 < secCnt P k) && decide (pgLength P < secOff P k + secCnt P k + 4))) 0 0 ++
    (allHeads.map (fun n => longBands n (courseOf P n) none)).flatten

/-! ### Check 2, FORMAT_VERSION -/

/-- The header and the section directory (R40, R42). -/
def checkDirectory (P : Page) : Fails :=
  let ks := (List.range 10).filter (fun k => decide (0 < secCnt P k))
  let unit : Nat → Nat := fun k => if k = 1 ∨ k = 2 then 2 else 1
  failIf (pgMagic P != 0x454C5650 || pgVersion P != 1 || decide (2 < pgPoint P) || secCnt P 0 != 64 ||
    (secCnt P 5 != 0 && secCnt P 5 != 512) ||
    ks.any (fun k => decide (secOff P k < 4) || secCnt P k % unit k != 0 ||
      ks.any (fun j => j != k && decide (secOff P k ≤ secOff P j) &&
        decide (secOff P j < secOff P k + secCnt P k)))) 0 0

/-- Where a scan of a course list stands. -/
inductive ListPos where
  | outside | started | inBand | afterCal
deriving DecidableEq, Repr

/-- The entry rules of a course list (R47 to R52): opcodes, heads, places, the end; a NOP uses no field, its HEAD neither. A
nested BAND_START, a BAND_END or span outside a band and an unclosed band are structure, not OVERLAP.
(DEDUCED, log entry 22) -/
def courseRules (n : Nat) : List (Nat × Nat) → ListPos → Option Nat → Option Nat → Fails
  | [], _, _, _ => []
  | (i, e) :: rest, pos, firstCal, lastLine =>
    let op := ceOp e
    let known := (decide (1 ≤ op) && decide (op ≤ 8)) || op == 15
    if !known then (i, n) :: courseRules n rest pos firstCal lastLine
    else
      let headBad := failIf (ceHead e != n) i n
      if op = 15 then courseRules n rest pos firstCal lastLine
      else if op = 4 then
        headBad ++ failIf (pos == .started || pos == .inBand || ceCount e == 0 || decide (4352 < ceCount e)) i n ++
          (if pos = .afterCal then (firstCal.map (fun c => (c, n))).toList else []) ++
          courseRules n rest .started firstCal lastLine
      else if op = 7 then headBad ++ failIf (pos != .started) i n ++ courseRules n rest pos firstCal lastLine
      else if op = 5 then
        headBad ++ failIf (pos != .started && pos != .inBand) i n ++ courseRules n rest .outside firstCal lastLine
      else if op = 8 then
        headBad ++
          failIf (pos == .started || pos == .inBand || decide (1 < ceCalKind e) ||
            ((lastLine.map (fun l => decide (ceLine e ≤ l))).getD false)) i n ++
          courseRules n rest .afterCal (some (firstCal.getD i)) (some (ceLine e))
      else if op = 6 then
        headBad ++ failIf (pos == .started || pos == .inBand || !rest.isEmpty) i n ++
          courseRules n rest .outside firstCal lastLine
      else headBad ++ failIf (pos != .started && pos != .inBand) i n ++ courseRules n rest .inBand firstCal lastLine

/-- The list of head `n` as a whole: inside COURSES, ended by HEAD_END.
(DESIGN CHOICE, log entry 98) -/
def checkList (P : Page) (n : Nat) : Fails :=
  let r := headRec P n
  let l := courseOf P n
  if hrLen r = 0 then [(secOff P 0 + n, n)]
  else
    failIf (decide (hrStart r < secOff P 9) || decide (secOff P 9 + secCnt P 9 < hrStart r + hrLen r)) (hrStart r) n ++
    courseRules n l .outside none none ++
    ((l.getLast?.map (fun x => failIf (ceOp x.2 != 6) x.1 n)).getD [])

/-- The values of records that are reserved or not listed, and references past their section (R44, R187 to R189,
R206, R263, R392).
(DEDUCED, log entry 22) -/
def checkRecords (P : Page) : Fails :=
  ((slotRecs P).map (fun r => failIf (r.latch == 3 || r.csc == 3 || decide (r.x1 < r.x0) || decide (r.y1 < r.y0) ||
    decide (r.cropX1 ≤ r.cropX0) || decide (r.cropY1 ≤ r.cropY0) || decide (65536 < r.cropX1) ||
    decide (65536 < r.cropY1) ||
    (!r.graphic && (decide (secCnt P 4 < r.hcoef + 48) || decide (secCnt P 4 < r.vcoef + 36)))) r.entry r.head)).flatten ++
  ((List.range (secCnt P 1 / 2)).map (fun w =>
    (((windowRec P w).map (fun x => failIf (decide (secCnt P 3 ≤ x.policy) || x.cls == 7) (secOff P 1 + 2 * w) 0)).getD
      []))).flatten ++
  ((List.range (secCnt P 3)).map (fun k =>
    let p := policyRec P k
    failIf (decide (3600 < p.still) || p.clear == 0 || p.concealed == 3 || p.incomplete == 3 || p.truncated == 3)
      (secOff P 3 + k) 0)).flatten ++
  ((List.range (secCnt P 6)).map (fun k =>
    let r := P (secOff P 6 + k)
    let h := bitsOf r 12 8
    failIf (decide (44 < bitsOf r 0 6) || (h != 255 && (decide (63 < h) || decide (bitsOf r 0 6 < 20) ||
      decide (24 < bitsOf r 0 6)))) (secOff P 6 + k) 0)).flatten ++
  ((List.range (secCnt P 7)).map (fun k =>
    let r := P (secOff P 7 + k)
    failIf (decide (1 < bitsOf r 0 2) || (bitsOf r 0 2 == 0 && bitsOf r 64 21 % 32 != 0)) (secOff P 7 + k)
      (bitsOf r 2 6))).flatten ++
  ((List.range (secCnt P 8)).map (fun k => failIf (bitsOf (P (secOff P 8 + k)) 16 3 == 7) (secOff P 8 + k) 0)).flatten

/-- Check 2: the structural rules. -/
def checkFormat (P : Page) : Fails :=
  checkDirectory P ++ ((listHeads P).map (checkList P)).flatten ++ checkRecords P

/-! ### Checks 3 and 4, BAD_CRC and BAD_SIGNATURE -/

/-- The bytes of entries 0 to LENGTH − 5. -/
def pageBytes (P : Page) : List Byte := ((List.range (pgLength P - 4)).map (fun i => leBytes (P i) 16)).flatten

/-- The page CRC: over those bytes with the CRC field taken as 0 (R40). -/
def pageCrc (P : Page) : Nat :=
  let bs := pageBytes P
  crc32c (bs.take 60 ++ [0, 0, 0, 0] ++ bs.drop 64)

/-- The signature of the page (R41). -/
def pageSignature (P : Page) : List Byte := ((List.range 4).map (fun i => leBytes (P (pgLength P - 4 + i)) 16)).flatten

/-- Check 3. -/
def checkCrc (P : Page) : Fails := failIf (pageCrc P != pgCrc P) 3 0

/-- Check 4: under the key of KEY_ID, which the image must hold. -/
def checkSignature (P : Page) (c : ValContext) : Fails :=
  let good := match Tab.get none (pgKeyId P) c.keys with
    | some k => ecdsaVerify (beBytes k 64) (sha256 (pageBytes P)) (pageSignature P)
    | none => false
  failIf (!good) (pgLength P - 4) 0

/-! ### Check 5, HEAD_RANGE -/

/-- One entry of the list of head `n`: the enabled record, the slot and its record, the active area. -/
def entryRange (P : Page) (n i e : Nat) : Fails :=
  let r := headRec P n
  let op := ceOp e
  failIf (op != 15 && (!hrEnable r ||
    (op == 1 && (decide (23 < ceSlot e) || (slotRec P n (ceSlot e)).isNone)) ||
    (op == 2 && (decide (7 < ceSlot e) || (slotRec P n (24 + ceSlot e)).isNone)) ||
    (decide (1 ≤ op ∧ op ≤ 3) && (decide (hrWidth r ≤ ceX0 e) || decide (hrWidth r ≤ ceX1 e))) ||
    (op == 4 && decide (hrHeight r < ceLine e + ceCount e)))) i n

/-- Check 5.
(DEDUCED, log entry 22) -/
def checkHeadRange (P : Page) (c : ValContext) : Fails :=
  ((listHeads P).map (fun n => ((courseOf P n).map (fun x => entryRange P n x.1 x.2)).flatten)).flatten ++
  (allHeads.map (fun n =>
    let r := headRec P n
    failIf (hrEnable r && (c.width.getD n 0 != hrWidth r || c.height.getD n 0 != hrHeight r)) (secOff P 0 + n) n)).flatten ++
  ((List.range 32).map (fun k =>
    let a := hrPair (headRec P (2 * k))
    failIf (a != hrPair (headRec P (2 * k + 1)) || a != c.pair.getD k false) (secOff P 0 + 2 * k) (2 * k))).flatten ++
  ((slotRecs P).map (fun r => failIf (decide ((if r.graphic then 7 else 23) < r.slot)) r.entry r.head)).flatten

/-! ### Check 6, OVERLAP -/

/-- The span entries of each band of a list, with the band's BAND_START. -/
def bandSpans : List (Nat × Nat) → Option (Nat × Nat × List (Nat × Nat)) → List (Nat × Nat × List (Nat × Nat))
  | [], cur => cur.toList
  | (i, e) :: rest, cur =>
    if ceOp e = 4 then cur.toList ++ bandSpans rest (some (i, e, []))
    else if 1 ≤ ceOp e ∧ ceOp e ≤ 3 then bandSpans rest (cur.map (fun c => (c.1, c.2.1, c.2.2 ++ [(i, e)])))
    else bandSpans rest cur

/-- Whether spans `a` and `b` share a pixel. -/
def spansMeet (a b : Nat) : Bool := decide (ceX0 a ≤ ceX1 b ∧ ceX0 b ≤ ceX1 a)

/-- The order rules of the spans of a band, each against those before it: X_START ≤ X_END, plinth spans first, one run
per slot without overlap (R50). -/
def spanOrder (n : Nat) : List (Nat × Nat) → List (Nat × Nat) → Fails
  | _, [] => []
  | before, (i, e) :: rest =>
    let same := fun (x : Nat × Nat) => ceOp x.2 == ceOp e && (ceOp e == 3 || ceSlot x.2 == ceSlot e)
    let lastSame := match before.getLast? with
      | some x => same x
      | none => false
    failIf (decide (ceX1 e < ceX0 e) ||
      (ceOp e == 3 && before.any (fun x => ceOp x.2 != 3)) ||
      (ceOp e != 3 && before.any same && !lastSame) ||
      before.any (fun x => same x && spansMeet x.2 e)) i n ++ spanOrder n (before ++ [(i, e)]) rest

/-- Whether the plinth spans of a band tile the active width: every pixel that one starts after, another ends before. -/
def plinthTiles (w : Nat) (spans : List (Nat × Nat)) : Bool :=
  let ps := spans.filter (fun x => ceOp x.2 == 3)
  ps.any (fun x => ceX0 x.2 == 0) && ps.any (fun x => ceX1 x.2 + 1 == w) &&
    ps.all (fun x => ceX0 x.2 == 0 || ps.any (fun y => ceX1 y.2 + 1 == ceX0 x.2)) &&
    ps.all (fun x => ceX1 x.2 + 1 == w || ps.any (fun y => ceX1 x.2 + 1 == ceX0 y.2))

/-- The bands of a list: from line 0, each after the one before it, to the last active line (R49). -/
def bandOrder (n h : Nat) : List (Nat × Nat × List (Nat × Nat)) → Nat → Nat → Fails
  | [], next, last => failIf (next != h) last n
  | (i, e, _) :: rest, next, _ => failIf (ceLine e != next) i n ++ bandOrder n h rest (ceLine e + ceCount e) i

/-- Check 6. -/
def checkOverlap (P : Page) : Fails :=
  ((listHeads P).map (fun n =>
    let bands := bandSpans (courseOf P n) none
    bandOrder n (hrHeight (headRec P n)) bands 0 (hrStart (headRec P n)) ++
      (bands.map (fun b => failIf (!plinthTiles (hrWidth (headRec P n)) b.2.2) b.1 n ++
        spanOrder n [] b.2.2)).flatten)).flatten

/-! ### Check 7, NO_FIT -/

/-- The line-store rules of one span of a band against the band's other spans (R51, R198); an LS_BASE beyond the store is
NO_FIT.
(DEDUCED, log entry 22) -/
def spanFit (P : Page) (n : Nat) (spans : List (Nat × Nat)) (i e : Nat) : Fails :=
  if ceOp e ≠ 1 then failIf (ceLsBase e != 0 || ceLsLen e != 0) i n
  else
    let mine := spans.filter (fun x => ceOp x.2 == 1 && ceSlot x.2 == ceSlot e)
    let before := spans.filter (fun x => decide (x.1 < i) && ceOp x.2 == 1)
    let xs := ((mine.head?).map (fun x => ceX0 x.2)).getD 0
    let xe := ((mine.getLast?).map (fun x => ceX1 x.2)).getD 0
    let short := match slotRec P n (ceSlot e) with
      | some r => decide (ceLsLen e < r.need r.srcW xs xe (if r.wide then 2 else 1))
      | none => false
    failIf (decide (49152 < ceLsBase e + ceLsLen e) || short ||
      before.any (fun x =>
        if ceSlot x.2 = ceSlot e then ceLsBase x.2 != ceLsBase e || ceLsLen x.2 != ceLsLen e
        else decide (ceLsBase x.2 < ceLsBase e + ceLsLen e ∧ ceLsBase e < ceLsBase x.2 + ceLsLen x.2))) i n

/-- Check 7. -/
def checkNoFit (P : Page) : Fails :=
  ((listHeads P).map (fun n => ((bandSpans (courseOf P n) none).map (fun b =>
    (b.2.2.map (fun x => spanFit P n b.2.2 x.1 x.2)).flatten)).flatten)).flatten

/-! ### Checks 8 to 10 -/

/-- Check 8: 16 times up to 4 times down, both ways. -/
def checkScaler (P : Page) : Fails :=
  ((slotRecs P).map (fun r =>
    failIf (!r.graphic && !(stepOk (r.stepX r.srcW) && stepOk (r.stepY r.srcH))) r.entry r.head)).flatten

/-- The sum of the BANDWIDTH reservations, in MB/s (R392). -/
def bandwidthSum (P : Page) : Nat := ((List.range (secCnt P 6)).map (fun k => bitsOf (P (secOff P 6 + k)) 32 32)).sum

/-- The peak of a set point over the 16 channels, in MB/s (R392). -/
def peakMBps (point : Nat) : Nat := if point = 0 then 273056 else if point = 1 then 204800 else 102400

/-- Whether a page's reservations pass at a set point (R56 check 9, R394). -/
def bandwidthFits (P : Page) (cap point : Nat) : Bool := decide (100 * bandwidthSum P ≤ cap * peakMBps point)

/-- Check 9. -/
def checkBandwidth (P : Page) (c : ValContext) : Fails := failIf (!bandwidthFits P c.cap (pgPoint P)) (secOff P 6) 0

/-- Check 10. -/
def checkVitrine (P : Page) (c : ValContext) : Fails := (labelClashes P c.scale).map (fun r => (r.entry, r.head))

/-- The outcome of a validation: the reason, the entry and the head; reason 0 where the page passes.
(DEDUCED, log entry 22) -/
def validatePage (P : Page) (c : ValContext) : Nat × Nat × Nat :=
  match firstFail (checkTooLarge P) with
  | some f => (0xA, f)
  | none => match firstFail (checkFormat P) with
  | some f => (0x3, f)
  | none => match firstFail (checkCrc P) with
  | some f => (0x2, f)
  | none => match firstFail (checkSignature P c) with
  | some f => (0x1, f)
  | none => match firstFail (checkHeadRange P c) with
  | some f => (0x4, f)
  | none => match firstFail (checkOverlap P) with
  | some f => (0x5, f)
  | none => match firstFail (checkNoFit P) with
  | some f => (0x6, f)
  | none => match firstFail (checkScaler P) with
  | some f => (0x7, f)
  | none => match firstFail (checkBandwidth P c) with
  | some f => (0x8, f)
  | none => match firstFail (checkVitrine P c) with
  | some f => (0x9, f)
  | none => (0, 0, 0)

end Sys2Proof.Machine
end

