-- ==== Sys2Proof/Machine/Seq.lean ====
section
/-! DEFINITION. The SEQ block: validation, keystones, amendments and presets (R56 to R74, R208, R524). -/

namespace Sys2Proof.Machine

/-! ### Heads as the SEQ block sees them -/

/-- The head whose timing, enable and genlock registers head `n` takes: HEAD[2k] for HEAD[2k + 1] of a locked pair
(R238). -/
def State.lead (s : State) (n : Nat) : Nat :=
  if n % 2 = 1 ∧ s.g (Reg.HEAD.CTRL.PAIR (n - 1)) = 1 then n - 1 else n

/-- The heads that run from latch points of head `n`: itself, and HEAD[2k + 1] where it leads a locked pair. -/
def State.ledBy (s : State) (n : Nat) : List Nat :=
  if n % 2 = 0 ∧ s.g (Reg.HEAD.CTRL.PAIR n) = 1 then [n, n + 1] else [n]

/-- Whether a head is enabled and not sleeping: it starts, runs, or has a stop still to come at its latch point. -/
def State.headRuns (s : State) (n : Nat) : Bool :=
  s.g (Reg.HEAD.STATUS.RUN_STATE n) == 1 || s.g (Reg.HEAD.STATUS.RUN_STATE n) == 2

/-- Head `n` beyond its registers. -/
def State.head (s : State) (n : Nat) : HeadState := Tab.get HeadState.reset n s.heads

/-- The state with head `n` set beyond its registers. -/
def State.setHead (s : State) (n : Nat) (h : HeadState) : State :=
  { s with heads := Tab.put HeadState.reset n h s.heads }

/-- The page that head `n` composes under: once it has taken the page of a keystone that is SWITCHING, that page (R61),
else the live page.
(DEDUCED, log entry 23) -/
def State.headPage (s : State) (n : Nat) : Option Nat :=
  if s.g Reg.SEQ.STATUS.KEY_STATE = 2 ∧ n ∈ s.seq.taken then some s.stagePage else s.livePage

/-! ### Vitrine descriptors (R207 to R209) -/

/-- A content descriptor (R207). -/
structure VitDesc where
  region  : Nat
  indexed : Bool
  pitch   : Nat
  w       : Nat
  h       : Nat
  pixels  : Nat
  palette : Nat
  xOff    : Nat
  yOff    : Nat
deriving DecidableEq, Repr

/-- The descriptor that 32 bytes give. -/
def descOf (bs : List Byte) : VitDesc :=
  let f := fun o n => leNat ((bs.drop o).take n)
  { region := f 0 1, indexed := f 1 1 != 0, pitch := f 2 2, w := f 4 2, h := f 6 2, pixels := f 8 4, palette := f 12 4,
    xOff := f 16 2, yOff := f 18 2 }

/-- The descriptor at vitrine-store offset `d`. -/
def State.vitDesc (s : State) (d : Nat) : VitDesc := descOf (s.bytes (0x1400000 + d) 32)

/-- Bytes per pixel of vitrine content. -/
def VitDesc.size (v : VitDesc) : Nat := if v.indexed then 1 else 4

/-- Whether a descriptor at `d` serves region `r` and stays inside the store (R209). -/
def vitGood (r d : Nat) (v : VitDesc) : Bool :=
  v.region == r && decide (d + 32 ≤ 0x200000) && decide (v.pixels + v.pitch * (v.h - 1) + v.w * v.size ≤ 0x200000) &&
    (!v.indexed || decide (v.palette + 1024 ≤ 0x200000))

/-- The CRC-32C of a region: the descriptor, each content row, the palette of INDEX8 (R208). -/
def State.vitCrc (s : State) (d : Nat) : Nat :=
  let v := s.vitDesc d
  let base := 0x1400000
  crc32c (s.bytes (base + d) 32 ++
    ((List.range v.h).map (fun j => s.bytes (base + v.pixels + j * v.pitch) (v.w * v.size))).flatten ++
    (if v.indexed then s.bytes (base + v.palette) 1024 else []))

/-- The reference CRCs of the regions of a page, by 8 n + r. -/
def State.pageRefs (s : State) (P : Page) : Tab Nat :=
  ((vitRecs P).filter (fun z => !z.touch)).foldl
    (fun t z => if vitGood z.index z.desc (s.vitDesc z.desc) then Tab.put 0 (8 * z.head + z.index) (s.vitCrc z.desc) t
      else t) []

/-! ### Validation (R56 to R58) -/

/-- What the validator compares a page with, as the registers stand now. -/
def State.valContext (s : State) : ValContext :=
  { width := allHeads.map (fun n => s.g (Reg.HEAD.HTIM_ACT.ACT_M1 (s.lead n)) + 1)
    height := allHeads.map (fun n => s.g (Reg.HEAD.VTIM_ACT.ACT_M1 (s.lead n)) + 1)
    pair := (List.range 32).map (fun k => s.gb (Reg.HEAD.CTRL.PAIR (2 * k)))
    cap := s.g Reg.SEQ.CTRL.BW_CAP_PCT
    scale := s.g Reg.FRS.CTRL.LABEL_SCALE_M1 + 1
    keys := s.img.pageKeys }

/-- SEQ.VAL_RESULT written. -/
def State.valResult (s : State) (reason entry n : Nat) : State :=
  ((s.p Reg.SEQ.VAL_RESULT.REASON reason).p Reg.SEQ.VAL_RESULT.ENTRY entry).p Reg.SEQ.VAL_RESULT.HEAD n

/-- A page refused: VAL_STATE REJECTED, STAGE_VALID 0, the result and EV_PAGE_REJECT (R56). -/
def State.pageReject (s : State) (reason entry n : Nat) : State :=
  ((((s.valResult reason entry n).p Reg.SEQ.STATUS.VAL_STATE 3).pb Reg.SEQ.STATUS.STAGE_VALID false).raise
    Ev.pageReject (reason + 256 * (n % 64) + 65536 * (entry % 16384)))

/-- The outcome of a validation takes effect (R56, R57), over the page that is then staging.
(DEDUCED, log entry 22) -/
def State.validateDone (s : State) : State :=
  let P := s.page s.stagePage
  let r := validatePage P s.valContext
  if r.1 = 0 then
    let s := ((s.valResult 0 0 0).pb Reg.SEQ.STATUS.STAGE_VALID true).p Reg.SEQ.STATUS.VAL_STATE 2
    { s.p Reg.SEQ.STAGE_GEN.GENERATION (pgGeneration P) with seq := { s.seq with refs := s.pageRefs P } }
  else s.pageReject r.1 r.2.1 r.2.2

/-- A write of SEQ.VAL_CTRL.START: ignored while VAL_STATE is RUNNING or a keystone is SWITCHING. -/
def State.validateStart (s : State) : State :=
  if s.g Reg.SEQ.STATUS.VAL_STATE = 1 ∨ s.g Reg.SEQ.STATUS.KEY_STATE = 2 then s else s.p Reg.SEQ.STATUS.VAL_STATE 1

/-- The keystone ends without switching: IDLE with `result`. -/
def State.keyCancel (s : State) (result : Nat) : State :=
  { (s.p Reg.SEQ.STATUS.KEY_STATE 0).p Reg.SEQ.KEY_STATUS.RESULT result with seq := { s.seq with taken := [] } }

/-- What the registers of head `n` changed make of the staging page (R58): rejected with HEAD_RANGE, and the keystone
cancelled, while STAGE_VALID is 1 and no keystone is SWITCHING. -/
def State.stageInvalidate (s : State) (n : Nat) : State :=
  if s.gb Reg.SEQ.STATUS.STAGE_VALID && s.g Reg.SEQ.STATUS.KEY_STATE != 2 then
    let pending := s.g Reg.SEQ.STATUS.KEY_STATE == 1
    let t := s.pageReject 4 (secOff (s.page s.stagePage) 0 + n) n
    if pending then t.keyCancel 8 else t
  else s

/-- R58 for a committed active area of head `n`; a write that takes effect without a commit is not compared. -/
def State.stageCheckArea (s : State) (n : Nat) : State :=
  let r := headRec (s.page s.stagePage) n
  if hrEnable r && (s.g (Reg.HEAD.HTIM_ACT.ACT_M1 (s.lead n)) + 1 != hrWidth r ||
      s.g (Reg.HEAD.VTIM_ACT.ACT_M1 (s.lead n)) + 1 != hrHeight r) then s.stageInvalidate n
  else s

/-- R58 for a write of HEAD[n].CTRL.PAIR, `n` even. -/
def State.stageCheckPair (s : State) (n : Nat) : State :=
  let P := s.page s.stagePage
  if hrPair (headRec P n) != s.gb (Reg.HEAD.CTRL.PAIR n) || hrPair (headRec P (n + 1)) != s.gb (Reg.HEAD.CTRL.PAIR n) then
    s.stageInvalidate n
  else s

/-! ### Amendments (R68 to R71, R524) -/

/-- The outcome of an amendment, written and raised (R70). -/
def State.amendDone (s : State) (ticket outcome : Nat) : State :=
  ((s.p Reg.SEQ.AMD_STATUS.LAST_TICKET ticket).p Reg.SEQ.AMD_STATUS.LAST_RESULT outcome).raise Ev.amendDone
    (ticket % 256 + 256 * outcome)

/-- The checks of R524, in order; 0 where all pass. With no live page there is no window, nor a head for kind 5.
(DEDUCED, log entry 23) -/
def State.amendCheck (s : State) (kind window arg0 arg1 : Nat) : Nat :=
  match s.livePage with
  | none => 3
  | some p =>
    let P := s.page p
    let w := (validWindow P window).getD (windowOf 0)
    let a := (amendRec P window).getD (amendOf 0)
    let addr := arg0 + 2 ^ 32 * (arg1 % 16)
    if (if kind = 5 then decide (63 < window) else (validWindow P window).isNone) then 3
    else if (if kind = 5 then !hrVitEdit (headRec P window)
      else (amendRec P window).isNone ||
        !(if kind = 0 then a.rebind else if kind = 1 then a.gfx && w.graphic else if kind = 2 then a.visible
          else if kind = 3 then a.budget else a.text)) then 1
    else if (if kind = 0 then s.g (Reg.ING.SRC.TYPE (arg0 % 512)) == 0
      else if kind = 1 then !s.inDram addr 1
      else if kind = 4 then !inShared arg0 1
      else if kind = 5 then arg0 % 32 != 0 || decide (0x200000 < arg0 + 32)
      else false) then 6
    else if (if kind = 0 then
        decide (a.maxClass < geometryClass (s.g (Reg.ING.SRC.WIDTH_M1 (arg0 % 512)) + 1)
          (s.g (Reg.ING.SRC.HEIGHT_M1 (arg0 % 512)) + 1))
      else if kind = 3 then decide (arg0 % 65536 < a.budgetMin) || decide (a.budgetMax < arg0 % 65536)
      else false) then 2
    else if 16 ≤ s.seq.amends.length then 4
    else 0

/-- An amendment applied into the composition state of head `n`, and whether its text is too long (R68, R218, R268). A
descriptor that names a region above 7 serves none, and changes nothing.
(DEDUCED, log entry 23) -/
def State.amendApply (s : State) (a : Amend) (n : Nat) : State × Bool :=
  let h := s.head n
  let e := h.edits
  let put : HeadEdits → State := fun e => s.setHead n { h with edits := e }
  if a.kind = 0 then
    (put { e with
      source := Tab.put none a.window (some (a.arg0 % 512)) e.source
      gfx := Tab.put none a.window none e.gfx }, false)
  else if a.kind = 1 then
    (put { e with gfx := Tab.put none a.window (some (a.arg0 + 2 ^ 32 * (a.arg1 % 16))) e.gfx }, false)
  else if a.kind = 2 then (put { e with visible := Tab.put none a.window (some (a.arg0 % 2)) e.visible }, false)
  else if a.kind = 3 then (put { e with budget := Tab.put none a.window (some (a.arg0 % 65536)) e.budget }, false)
  else if a.kind = 4 then
    let len := (s.byte a.arg0).toNat
    if 20 < len then (s, true)
    else (put { e with
      text := Tab.put none a.window (if len = 0 then none else some (s.bytes (a.arg0 + 1) len)) e.text }, false)
  else
    let r := (s.vitDesc a.arg0).region
    if 7 < r then (s, false)
    else ((put { e with vitrine := Tab.put none r (some a.arg0) e.vitrine }).p (Reg.HEAD.VIT_REF.CRC n r) a.ref, false)

/-- The amendment after it was applied on, or refused by, head `n`. -/
def Amend.after (a : Amend) (n outcome : Nat) : Amend :=
  { a with outcome := if a.outcome = 0 then outcome else a.outcome, left := a.left.filter (fun k => k != n) }

/-- The amendments that have reached every head complete, in ticket order. -/
def State.amendSweep (s : State) : State :=
  let done := s.seq.amends.filter (fun (a : Amend) => a.left.isEmpty)
  done.foldl (fun s a => s.amendDone a.ticket a.outcome)
    { s with seq := { s.seq with amends := s.seq.amends.filter (fun (a : Amend) => !a.left.isEmpty) } }

/-- The queued amendments of head `n` applied, in ticket order (R69, R211 step 2); one posted while a keystone was SWITCHING waits for
the switch to discard it. -/
def State.amendHead (s : State) (n : Nat) : State :=
  let step : State → Amend → State := fun s a =>
    if n ∈ a.left ∧ a.late = false then
      let r := s.amendApply a n
      { r.1 with seq := { r.1.seq with amends := r.1.seq.amends.map (fun (b : Amend) =>
          if b.ticket = a.ticket then b.after n (if r.2 then 6 else 0) else b) } }
    else s
  (s.seq.amends.foldl step s).amendSweep

/-- The queued amendments of head `n` discarded by its switch (R71). -/
def State.amendDiscard (s : State) (n : Nat) : State :=
  ({ s with seq := { s.seq with amends := s.seq.amends.map (fun (a : Amend) =>
      if n ∈ a.left then a.after n 5 else a) } }).amendSweep

/-- A write of SEQ.AMD_CMD.POST (R69): the ticket, the checks, and the amendment completed, applied at once on heads that
do not run, or queued; while a keystone is SWITCHING it is queued for every head not yet switched, and discarded there. -/
def State.amendPost (s : State) : State :=
  let ticket := s.g Reg.SEQ.AMD_STATUS.NEXT_TICKET
  let kind := s.g Reg.SEQ.AMD_CMD.KIND
  let window := s.g Reg.SEQ.AMD_CMD.WINDOW
  let arg0 := s.g Reg.SEQ.AMD_ARG0.ARG0
  let arg1 := s.g Reg.SEQ.AMD_ARG1.ARG1
  let bad := s.amendCheck kind window arg0 arg1
  let s := s.inc Reg.SEQ.AMD_STATUS.NEXT_TICKET
  if bad ≠ 0 then s.amendDone ticket bad
  else
    let heads := if kind = 5 then [window] else windowHeads (s.page s.livePage.get!) window
    let post : Amend := {
      ticket := ticket, kind := kind, window := window, arg0 := arg0, arg1 := arg1,
      ref := (if kind = 5 then s.vitCrc arg0 else 0), late := s.g Reg.SEQ.STATUS.KEY_STATE == 2, outcome := 0, left := [] }
    let visit : State × Amend → Nat → State × Amend := fun r n =>
      if n ∈ r.1.seq.taken then (r.1, r.2.after n 5)
      else if r.1.headRuns n ∨ r.1.g Reg.SEQ.STATUS.KEY_STATE = 2 then (r.1, { r.2 with left := r.2.left ++ [n] })
      else
        let t := r.1.amendApply r.2 n
        (t.1, r.2.after n (if t.2 then 6 else 0))
    let r := heads.foldl visit (s, post)
    if r.2.left.isEmpty then r.1.amendDone ticket r.2.outcome
    else { r.1 with seq := { r.1.seq with amends := r.1.seq.amends ++ [r.2] } }

/-! ### Keystones (R59 to R67) -/

/-- The bits of KEY_SWITCHED set for head `n`. -/
def State.keyBit (s : State) (n : Nat) : State :=
  if n < 32 then s.p Reg.SEQ.KEY_SWITCHED_LO.HEADS (s.g Reg.SEQ.KEY_SWITCHED_LO.HEADS ||| 2 ^ n)
  else s.p Reg.SEQ.KEY_SWITCHED_HI.HEADS (s.g Reg.SEQ.KEY_SWITCHED_HI.HEADS ||| 2 ^ (n - 32))

/-- Head `n` takes the new page (R61, R71): its amendments are discarded, its edits and its groups' waits end, its
vitrine references are those of the new page, and its marks are due (R53).
(DEDUCED, log entry 23) -/
def State.takePage (s : State) (n : Nat) : State :=
  let s := s.amendDiscard n
  let h := s.head n
  let s := s.setHead n { h with edits := HeadEdits.none, groups := [], frame := { h.frame with marks := true } }
  let s := (List.range 8).foldl (fun s r => s.p (Reg.HEAD.VIT_REF.CRC n r) (Tab.get 0 (8 * n + r) s.seq.refs)) s
  ({ s with seq := { s.seq with taken := s.seq.taken ++ [n] } }).keyBit n

/-- Whether wall time has reached T, or the keystone applies at the next latch points (R61, R65). -/
def State.keyReached (s : State) : Bool := s.seq.keyNow || decide (s.seq.keyT ≤ s.wall)

/-- Heads that are enabled, not sleeping and not yet switched: HEADS_LEFT (R61). -/
def State.keyLeft (s : State) : List Nat := allHeads.filter (fun n => s.headRuns n && !s.seq.taken.contains n)

/-- The keystone completes (R62). -/
def State.keyComplete (s : State) : State :=
  let stage := s.stagePage
  let s := (allHeads.filter (fun n => !s.seq.taken.contains n)).foldl (fun s n => s.takePage n) s
  let s := (s.p Reg.SEQ.STATUS.LIVE_PAGE stage).pb Reg.SEQ.STATUS.LIVE_VALID true
  let s := (s.p Reg.SEQ.LIVE_GEN.GENERATION (s.g Reg.SEQ.STAGE_GEN.GENERATION)).genRefresh
  let s := ((s.pb Reg.SEQ.STATUS.STAGE_VALID false).p Reg.SEQ.STATUS.KEY_STATE 0).p Reg.SEQ.KEY_STATUS.RESULT 3
  let phase := if s.seq.preset = .loaded then PresetPhase.idle else s.seq.preset
  ({ s with seq := { s.seq with taken := [], preset := phase } }).raise Ev.keystoneDone (s.g Reg.SEQ.LIVE_GEN.GENERATION)

/-- The keystone completes where its time is reached and no head is left (R62). -/
def State.keyCheck (s : State) : State :=
  if s.g Reg.SEQ.STATUS.KEY_STATE ≠ 0 ∧ s.keyLeft = [] ∧ (s.g Reg.SEQ.STATUS.KEY_STATE = 2 ∨ s.keyReached = true) then
    s.keyComplete
  else s

/-- Every head that is disabled or sleeping counts as switched (R61). -/
def State.keyCountIdle (s : State) : State :=
  (allHeads.filter (fun n => !s.headRuns n)).foldl (fun s n => s.keyBit n) s

/-- A commit at T (R59, R60, R65), the refusals of R59 in the order of its table; `boot` marks the boot keystone (R452).
(DEDUCED, log entry 23) -/
def State.keyCommit (s : State) (T : Int) (boot : Bool) : State :=
  if !s.gb Reg.SEQ.STATUS.STAGE_VALID then s.p Reg.SEQ.KEY_STATUS.RESULT 5
  else if s.g Reg.SEQ.STATUS.KEY_STATE = 2 then s.p Reg.SEQ.KEY_STATUS.RESULT 6
  else if pgPoint (s.page s.stagePage) < s.g Reg.DMC.FSP_STATUS.CURRENT then s.p Reg.SEQ.KEY_STATUS.RESULT 7
  else
    let fresh := boot || !s.gb Reg.SEQ.STATUS.LIVE_VALID
    let late := !fresh && decide (T ≤ s.wall)
    let s := (s.p Reg.SEQ.KEY_SWITCHED_LO.HEADS 0).p Reg.SEQ.KEY_SWITCHED_HI.HEADS 0
    let s := (s.p Reg.SEQ.STATUS.KEY_STATE 1).p Reg.SEQ.KEY_STATUS.RESULT (if late then 2 else 1)
    let s := { s with seq := { s.seq with keyT := T, keyNow := fresh || late, taken := [] } }
    let s := if late then s.raise Ev.keystoneLate 0 else s
    (if s.seq.keyNow then s.keyCountIdle else s).keyCheck

/-- T of the KEY_TIME registers. -/
def State.keyTime (s : State) : Int :=
  wallOf (s.g Reg.SEQ.KEY_TIME_SEC_HI.SEC_HI * 2 ^ 32 + s.g Reg.SEQ.KEY_TIME_SEC_LO.SEC_LO) (s.g Reg.SEQ.KEY_TIME_NS.NS)

/-- A write of SEQ.KEY_CTRL: CANCEL, then COMMIT (R60, R62). -/
def State.keyCtrl (s : State) (v : Word) : State :=
  let s := if fieldGet v 1 1 = 1 then
      if s.g Reg.SEQ.STATUS.KEY_STATE = 1 then s.keyCancel 4
      else if s.g Reg.SEQ.STATUS.KEY_STATE = 2 then s.p Reg.SEQ.KEY_STATUS.RESULT 6 else s
    else s
  if fieldGet v 0 1 = 1 then s.keyCommit s.keyTime (decide (s.boot.phase = .reading ∧ s.boot.step = 10)) else s

/-- Wall time reaches T (R61, R62). -/
def State.keyTimeReached (s : State) : State :=
  if s.coreOn && s.g Reg.SEQ.STATUS.KEY_STATE != 0 && s.keyReached then s.keyCountIdle.keyCheck else s

/-- A keystone switch due at a latch point of head `n` stamped `L` (R61, R211 step 1). -/
def State.keyLatch (s : State) (n : Nat) (L : Int) : State :=
  if s.g Reg.SEQ.STATUS.KEY_STATE ≠ 0 ∧ n ∉ s.seq.taken ∧ (s.seq.keyNow = true ∨ s.seq.keyT ≤ L) then
    (s.p Reg.SEQ.STATUS.KEY_STATE 2).takePage n
  else s

/-- A head that starts while a keystone is SWITCHING starts on the new page (R61). -/
def State.keyHeadStarts (s : State) (n : Nat) : State :=
  if s.g Reg.SEQ.STATUS.KEY_STATE = 2 ∧ n ∉ s.seq.taken then s.takePage n else s

/-- A head that has stopped or sleeps counts as switched, once the keystone's time is reached (R61, R232). -/
def State.keyHeadGone (s : State) (n : Nat) : State :=
  if s.g Reg.SEQ.STATUS.KEY_STATE ≠ 0 ∧ s.keyReached = true then (s.keyBit n).keyCheck else s

/-! ### Presets (R72 to R74) -/

/-- The outcome of a preset selection (R73). -/
def State.presetEnd (s : State) (result : Nat) : State :=
  let s := { s with seq := { s.seq with preset := if result = 1 then .loaded else .idle } }
  let s := ((s.p Reg.SEQ.PRESET_STATUS.RESULT result).pb Reg.SEQ.PRESET_STATUS.PENDING false).pb
    Reg.SEQ.STATUS.PRESET_BUSY false
  s.raise Ev.preset (s.g Reg.SEQ.PRESET_STATUS.LAST + 256 * result)

/-- Preset `k` selected (R73): refused, deferred behind a keystone, or read from flash. -/
def State.presetSelect (s : State) (k : Nat) : State :=
  let s := if s.seq.preset = .idle then s else s.p Reg.SEQ.PRESET_STATUS.RESULT 6
  let s := s.p Reg.SEQ.PRESET_STATUS.LAST k
  if (Tab.get none k s.img.presets).isNone then s.presetEnd 2
  else
    let s := (s.pb Reg.SEQ.PRESET_STATUS.PENDING true).pb Reg.SEQ.STATUS.PRESET_BUSY true
    if s.g Reg.SEQ.STATUS.KEY_STATE ≠ 0 then
      { s.p Reg.SEQ.PRESET_STATUS.RESULT 4 with seq := { s.seq with preset := .deferred } }
    else { s with seq := { s.seq with preset := .reading } }

/-- A write of SEQ.PRESET_CTRL. -/
def presetCtrlWrite (m : Nat) (v : Word) (s : State) : State :=
  let s := s.writeFields m 0x100B0050 v 0
  if fieldGet v 8 1 = 1 then s.presetSelect (s.g Reg.SEQ.PRESET_CTRL.SELECT) else s

/-- A write of SEQ.PRESET_GPIO: a select pin above GPIO[15] or on STROBE is a reserved value of FIRST, WIDTH and STROBE
(R72), judged with the WIDTH that the write leaves in force.
(DEDUCED, log entry 25) -/
def presetGpioWrite (m : Nat) (v : Word) (s : State) : State :=
  let first := fieldGet v 4 4
  let width := fieldGet v 8 3
  let last := first + if width = 0 ∨ 5 < width then s.g Reg.SEQ.PRESET_GPIO.WIDTH else width
  let strobe := fieldGet v 12 4
  if 16 < last ∨ (first ≤ strobe ∧ strobe < last) then
    (s.writeFields m 0x100B0054 v 0xF7F0).errLog (ctlRecord s Rsn.reservedValue m 0x100B0054 true false v)
  else s.writeFields m 0x100B0054 v 0

/-- The number on the select pins (R72). -/
def State.presetPins (s : State) : Nat :=
  bitsOf s.pins.gpio (s.g Reg.SEQ.PRESET_GPIO.FIRST) (s.g Reg.SEQ.PRESET_GPIO.WIDTH)

/-- The clock since which every select pin has been stable (R72). -/
def State.pinsStable (s : State) : Nat :=
  (List.range (s.g Reg.SEQ.PRESET_GPIO.WIDTH)).foldl (fun t i =>
    max t (Tab.get 0 (s.g Reg.SEQ.PRESET_GPIO.FIRST + i) s.pins.edgeAt)) 0

/-- The select pins sampled after a strobe, once stable for DEBOUNCE_MS (R72).
(DEDUCED, log entry 25) -/
def State.presetSample (s : State) : State :=
  if s.coreOn && s.gb Reg.SEQ.PRESET_GPIO.ENABLE && s.seq.strobe &&
      decide (s.pinsStable + 1000000 * s.g Reg.SEQ.PRESET_GPIO.DEBOUNCE_MS ≤ s.clock) then
    ({ s with seq := { s.seq with strobe := false } }).presetSelect s.presetPins
  else s

/-- A deferred selection proceeds once no keystone is PENDING or SWITCHING (R73). -/
def State.presetResume (s : State) : State :=
  if s.coreOn && s.seq.preset == .deferred && s.g Reg.SEQ.STATUS.KEY_STATE == 0 then
    { s with seq := { s.seq with preset := .reading } }
  else s

/-- T of an automatic keystone (R74). -/
def State.presetT (s : State) : Int :=
  let unit : Int := 1000000 * s.g Reg.SEQ.PRESET_TIMING.ALIGN_MS
  let t : Int := s.wall + 1000000 * s.g Reg.SEQ.PRESET_TIMING.LEAD_MS
  (t + unit - 1) / unit * unit

/-- Bytes written to the flash from `a`. -/
def flashWrite (f : List Host.Cell) (a : Nat) : List Byte → List Host.Cell
  | [] => f
  | b :: bs => flashWrite (Tab.put 0xFF a b f) (a + 1) bs

/-- `n` flash bytes from `a`. -/
def State.flashBytes (s : State) (a n : Nat) : List Byte := (List.range n).map (fun i => s.flashByte (a + i))

/-- The flash read of a selected preset ends (R73): the page is written to the staging page and its validation starts; a
keystone that is SWITCHING meanwhile defers the selection again.
(DEDUCED, log entry 25) -/
def State.presetRead (s : State) (ok : Bool) : State :=
  if s.coreOn && s.seq.preset == .reading then
    if s.g Reg.SEQ.STATUS.KEY_STATE = 2 then
      { s.p Reg.SEQ.PRESET_STATUS.RESULT 4 with seq := { s.seq with preset := .deferred } }
    else if !ok then s.presetEnd 5
    else match Tab.get none (s.g Reg.SEQ.PRESET_STATUS.LAST) s.img.presets with
      | none => s.presetEnd 5
      | some (a, n) =>
        let s := (s.storeData (pageAddr s.stagePage 0) (s.flashBytes a (16 * min n 16384))).validateStart
        { s with seq := { s.seq with preset := .validating } }
  else s

/-- The validator finishes (R57): its outcome, and that of a preset that it was for, whose automatic keystone is committed
(R73, R74). -/
def State.validated (s : State) : State :=
  let s := s.validateDone
  if s.seq.preset ≠ .validating then s
  else if s.gb Reg.SEQ.STATUS.STAGE_VALID then
    let s := s.presetEnd 1
    if s.gb Reg.SEQ.PRESET_CTRL.AUTO_KEY then s.keyCommit s.presetT false else s
  else s.presetEnd 3

/-! ### The commands -/

/-- VALIDATE_START (R56). -/
def execValidateStart (dt : Nat) (m : Master) (s : State) : Out State :=
  .next ((s.advance dt).ctlWrite m.val 0x100B0010 1 State.validateStart)

/-- VALIDATION_DONE (R57, R74). -/
def execValidationDone (dt : Nat) (s : State) : Out State :=
  let s := s.advance dt
  .next (if s.coreOn && s.g Reg.SEQ.STATUS.VAL_STATE == 1 then s.validated else s)

/-- KEYSTONE_COMMIT (R59). -/
def execKeystoneCommit (dt : Nat) (m : Master) (s : State) : Out State :=
  .next ((s.advance dt).ctlWrite m.val 0x100B002C 1 (fun s => s.keyCtrl 1))

/-- KEYSTONE_CANCEL (R60). -/
def execKeystoneCancel (dt : Nat) (m : Master) (s : State) : Out State :=
  .next ((s.advance dt).ctlWrite m.val 0x100B002C 2 (fun s => s.keyCtrl 2))

/-- KEYSTONE_TIME_REACHED (R61). -/
def execKeystoneTimeReached (dt : Nat) (s : State) : Out State := .next (s.advance dt).keyTimeReached

/-- A write of SEQ.AMD_CMD: its fields, then POST (R69). -/
def amdCmdWrite (m : Nat) (v : Word) (s : State) : State :=
  let s := s.writeFields m 0x100B0040 v 0
  if fieldGet v 31 1 = 1 then s.amendPost else s

/-- AMEND_POST (R69): a write of the word that posts. -/
def execAmendPost (dt : Nat) (m : Master) (v : Word) (s : State) : Out State :=
  .next ((s.advance dt).ctlWrite m.val 0x100B0040 (v ||| 0x80000000) (amdCmdWrite m.val (v ||| 0x80000000)))

/-- PRESET_LOAD (R73): a write of the word that loads. -/
def execPresetLoad (dt : Nat) (m : Master) (v : Word) (s : State) : Out State :=
  .next ((s.advance dt).ctlWrite m.val 0x100B0050 (v ||| 0x100) (presetCtrlWrite m.val (v ||| 0x100)))

/-- PRESET_STROBE (R72): the chosen edge of the strobe pin. -/
def execPresetStrobe (dt : Nat) (s : State) : Out State :=
  .next (gpioEdge (s.g Reg.SEQ.PRESET_GPIO.STROBE) (!s.gb Reg.SEQ.PRESET_GPIO.EDGE) (s.advance dt))

/-- PRESET_SELECT_SAMPLE (R72). -/
def execPresetSelectSample (dt : Nat) (s : State) : Out State := .next (s.advance dt).presetSample

/-- PRESET_DEFERRED_RESUME (R73). -/
def execPresetDeferredResume (dt : Nat) (s : State) : Out State := .next (s.advance dt).presetResume

/-- PRESET_FLASH_READ_DONE (R73): whether the flash read succeeded. -/
def execPresetFlashReadDone (dt : Nat) (ok : Bool) (s : State) : Out State := .next ((s.advance dt).presetRead ok)

end Sys2Proof.Machine
end

