-- ==== Sys2Proof/Machine/Pixels.lean ====
section
/-! DEFINITION. Pictures in buffers: their pixels and their signatures (R104, R142, R174, R251,
R270). -/

namespace Sys2Proof.Machine

/-- The samples of one pixel: alpha where the format has it, then Y and chroma (Cb at even x, Cr at odd x), or R, G, B. -/
structure Sample where
  a  : Nat
  c0 : Nat
  c1 : Nat
  c2 : Nat
deriving DecidableEq, Repr

/-- Pixel `x` of a row of a format whose little-endian numbers are `le offset bytes`. -/
def pixelIn (fmt : Nat) (le : Nat → Nat → Nat) (x : Nat) : Sample :=
  if fmt = 0 then
    let v := bitsOf (le (8 * (x / 3)) 8) (20 * (x % 3)) 20
    ⟨0, v % 1024, v / 1024, 0⟩
  else if fmt = 1 ∨ fmt = 3 then
    let v := le (4 * x) 4
    ⟨v / 2 ^ 30, bitsOf v 20 10, bitsOf v 10 10, bitsOf v 0 10⟩
  else if fmt = 2 then
    let v := le (4 * x) 4
    ⟨bitsOf v 24 8, bitsOf v 16 8, bitsOf v 8 8, bitsOf v 0 8⟩
  else if fmt = 5 then ⟨0, le (2 * x) 2 / 64, 0, 0⟩
  else ⟨0, le x 1, 0, 0⟩

/-- The pixel of a picture at (x, y).
(PRESUMED, log entry 27) -/
def State.pixel (s : State) (p : Pic) (x y : Nat) : Sample := pixelIn p.fmt (fun o n => s.le (p.addr + y * p.pitch + o) n) x

/-- The samples of a pixel that enter the signature (R251). -/
def Pic.signed (p : Pic) (v : Sample) : List Nat :=
  if p.fmt = 0 then [v.c0, v.c1]
  else if p.fmt = 1 then [v.c0, v.c1, v.c2]
  else if p.fmt = 2 ∨ p.fmt = 3 then [v.a, v.c0, v.c1, v.c2]
  else [v.c0]

/-- The bytes of the 64 by 64 tile (tx, ty) of a picture of `w` by `h` that enter its CRC, where the samples of pixel (x, y) are
`px x y` (R251). -/
def tileBytes (w h : Nat) (px : Nat → Nat → List Nat) (tx ty : Nat) : List Byte :=
  ((List.range (min 64 (h - 64 * ty))).map (fun j =>
    ((List.range (min 64 (w - 64 * tx))).map (fun i =>
      ((px (64 * tx + i) (64 * ty + j)).map (fun v => leBytes v 2)).flatten)).flatten)).flatten

/-- SIGNATURE of a picture: the XOR of its tile CRCs (R251). -/
def signatureOf (w h : Nat) (px : Nat → Nat → List Nat) : Nat :=
  (List.range ((h + 63) / 64)).foldl (fun acc ty =>
    (List.range ((w + 63) / 64)).foldl (fun acc tx => acc ^^^ crc32c (tileBytes w h px tx ty)) acc) 0

/-- SIGNATURE of a picture as it stands in memory. -/
def State.signature (s : State) (p : Pic) : Nat := signatureOf p.w p.h (fun x y => p.signed (s.pixel p x y))

/-- The samples of a pixel as one number, 10 bits each, and back: how a producer keeps the rows that it has written (R114). -/
def Sample.code (v : Sample) : Nat :=
  v.a % 1024 * 2 ^ 30 + v.c0 % 1024 * 2 ^ 20 + v.c1 % 1024 * 2 ^ 10 + v.c2 % 1024
def sampleOf (c : Nat) : Sample := ⟨bitsOf c 30 10, bitsOf c 20 10, bitsOf c 10 10, bitsOf c 0 10⟩

/-- Pixels `vs` put into the kept row `y` from column `x`, of a picture of width `w`. -/
def keepRow (w x y : Nat) (vs : List Sample) (t : Tab (List Nat)) : Tab (List Nat) :=
  let old := Tab.get [] y t
  let old := if old.isEmpty then List.replicate w 0 else old
  Tab.put [] y (old.take x ++ vs.map Sample.code ++ old.drop (x + vs.length)) t

/-- SIGNATURE of a picture of `w` by `h` in format `fmt` from the rows that its producer wrote (R114, R251).
(PRESUMED, log entry 27) -/
def keptSignature (fmt w h : Nat) (t : Tab (List Nat)) : Nat :=
  let rows := (List.range h).map (fun y => Tab.get [] y t)
  signatureOf w h (fun x y => Pic.signed ⟨0, fmt, w, h, 0⟩ (sampleOf ((rows.getD y []).getD x 0)))

/-- Bytes that `n` pixels of a row take in the first plane of a format. -/
def rowBytes (fmt n : Nat) : Nat :=
  if fmt = 0 then 8 * ((n + 2) / 3)
  else if fmt = 1 ∨ fmt = 2 ∨ fmt = 3 then 4 * n
  else if fmt = 5 then 2 * n
  else n

/-- The rows of the planes after the first of a picture of `w` by `h`, as address and bytes (R174). -/
def Pic.otherRows (p : Pic) (w h : Nat) : List (Nat × Nat) :=
  let step := ceilTo 256 (p.pitch * h)
  let rows := fun (base bytes n : Nat) => (List.range n).map (fun y => (base + y * p.pitch, bytes))
  if p.fmt = 4 ∨ p.fmt = 5 then rows (p.addr + step) (rowBytes p.fmt (2 * ((w + 1) / 2))) ((h + 1) / 2)
  else if p.fmt = 7 then ((List.range 3).map (fun k => rows (p.addr + (k + 1) * step) w h)).flatten
  else []

/-- The bits of a pixel in its word, for formats of whole words.
(PRESUMED, log entry 27) -/
def packWord (fmt : Nat) (v : Sample) : Nat :=
  if fmt = 2 then v.a % 256 * 2 ^ 24 + v.c0 % 256 * 2 ^ 16 + v.c1 % 256 * 2 ^ 8 + v.c2 % 256
  else v.a % 4 * 2 ^ 30 + v.c0 % 1024 * 2 ^ 20 + v.c1 % 1024 * 2 ^ 10 + v.c2 % 1024

/-- The bytes of the first plane that hold pixels `vs` from column `x`, and the byte offset in the row they start at;
neighbouring pixels of a shared 64-bit group keep their bits. -/
def State.packRow (s : State) (p : Pic) (x y : Nat) (vs : List Sample) : Nat × List Byte :=
  if p.fmt = 0 then
    let g0 := x / 3
    let g1 := (x + vs.length + 2) / 3
    let word := fun g =>
      (List.range 3).foldl (fun acc i =>
        let col := 3 * g + i
        let v := if x ≤ col ∧ col < x + vs.length then vs.getD (col - x) ⟨0, 0, 0, 0⟩ else s.pixel p col y
        acc + (v.c0 % 1024 + 1024 * (v.c1 % 1024)) * 2 ^ (20 * i)) 0
    (8 * g0, ((List.range (g1 - g0)).map (fun g => leBytes (word (g0 + g)) 8)).flatten)
  else if p.fmt = 1 ∨ p.fmt = 2 ∨ p.fmt = 3 then (4 * x, (vs.map (fun v => leBytes (packWord p.fmt v) 4)).flatten)
  else if p.fmt = 5 then (2 * x, (vs.map (fun v => leBytes (64 * (v.c0 % 1024)) 2)).flatten)
  else (x, (vs.map (fun v => BitVec.ofNat 8 v.c0)))

/-- Pixels `vs` written by master `m` into a row from column `x`; whether no response was an error. -/
def State.writePixels (s : State) (m qos : Nat) (p : Pic) (x y : Nat) (vs : List Sample) : State × Bool :=
  if vs.isEmpty then (s, true)
  else
    let r := s.packRow p x y vs
    s.dmaWrite m qos (p.addr + y * p.pitch + r.1) r.2

/-- A row of pixels of a free value. -/
def State.freeRow (s : State) (n : Nat) : List Sample :=
  (List.range n).map (fun i =>
    let v := Config.freeNat (s.free + i)
    ⟨0, bitsOf v 0 10, bitsOf v 10 10, bitsOf v 20 10⟩)

/-- `n` pixels of row `y` read by master `m`: the state, the pixels, black bits where a burst failed. -/
def State.readRow (s : State) (m qos : Nat) (p : Pic) (y n : Nat) : State × List Sample :=
  let r := s.dmaRead m qos (p.addr + y * p.pitch) (rowBytes p.fmt n)
  (r.1, (List.range n).map (pixelIn p.fmt (fun o k => leNat ((r.2.1.drop o).take k))))

/-- The pixels of a row of a picture. -/
def State.rowOfPic (s : State) (p : Pic) (y : Nat) : List Sample := (List.range p.w).map (fun x => s.pixel p x y)

/-- A row filled with black: Y 64 and chroma 512, or R, G, B 0 (R123). -/
def blackRow (fmt n : Nat) : List Sample :=
  List.replicate n (if fmt = 0 then ⟨0, 64, 512, 0⟩ else ⟨0, 0, 0, 0⟩)

end Sys2Proof.Machine
end

