-- ==== Sys2Proof/Machine/Buffers.lean ====
section
/-! DEFINITION. The buffer table: rings, claims, closures, provenance tags, leases, releases and HOST buffers (R109 to
R115, R212, R220 to R223, R249 to R251). -/

namespace Sys2Proof.Machine

/-- Source entry `i` beyond its registers. -/
def State.src (s : State) (i : Nat) : SrcState := Tab.get SrcState.reset i s.srcs

/-- The state with source entry `i` set beyond its registers. -/
def State.setSrc (s : State) (i : Nat) (e : SrcState) : State := { s with srcs := Tab.put SrcState.reset i e s.srcs }

/-- Buffer `b` beyond its registers. -/
def State.buf (s : State) (b : Nat) : BufState := Tab.get BufState.reset b s.bufs

/-- The state with buffer `b` set beyond its registers. -/
def State.setBuf (s : State) (b : Nat) (x : BufState) : State := { s with bufs := Tab.put BufState.reset b x s.bufs }

/-! ### States and rings -/

/-- The states of R111. -/
abbrev Bs.free : Nat := 0
abbrev Bs.filling : Nat := 1
abbrev Bs.ready : Nat := 2
abbrev Bs.releasing : Nat := 3

/-- STATE of buffer `b` (R111). -/
def State.bufState (s : State) (b : Nat) : Nat := s.g (Reg.ING.BUF.STATE b)

/-- The ring of source entry `i`, in ring order. -/
def State.ring (s : State) (i : Nat) : List Nat :=
  (List.range (s.g (Reg.ING.SRC.RING_LEN_M1 i) + 1)).map (fun k =>
    if k % 2 = 0 then s.g (Reg.ING.SRC.BUF_LO i (k / 2)) else s.g (Reg.ING.SRC.BUF_HI i (k / 2)))

/-- Whether a producer may claim buffer `b`: no lease, not RELEASING (R112), and not claimed already. -/
def State.claimable (s : State) (b : Nat) : Bool :=
  s.g (Reg.ING.BUF.LEASES b) == 0 && s.bufState b != Bs.releasing && s.bufState b != Bs.filling

/-- The ring position and buffer that a producer claims next: the first claimable one after the position last filled,
from position 0 where none has been filled (R112).
(DEDUCED, log entry 29) -/
def State.nextClaim (s : State) (ring : List Nat) (last : Option Nat) : Option (Nat × Nat) :=
  let n := ring.length
  let first := (last.map (fun p => p + 1)).getD 0
  ((List.range n).map (fun k => ((first + k) % n, ring.getD ((first + k) % n) 0))).find? (fun c => s.claimable c.2)

/-- The local count of the first arrival of buffer `b` set (R251). -/
def State.setArrival (s : State) (b count : Nat) : State :=
  (s.p (Reg.ING.BUF.ARRIVAL_LO b) (count % 2 ^ 32)).p (Reg.ING.BUF.ARRIVAL_HI b) (count / 2 ^ 32)

/-- A buffer claimed by its producer: FILLING with ROW_MARK 0, and the local count of the arrival (R112, R113). -/
def State.claim (s : State) (b field count : Nat) : State :=
  let s := (s.p (Reg.ING.BUF.STATE b) Bs.filling).p (Reg.ING.BUF.ROW_MARK b) 0
  (s.p (Reg.ING.BUF.FIELD b) field).setArrival b count

/-- A claimed buffer returned to FREE without a tag update (R108): its content is undefined. -/
def State.unclaim (s : State) (b : Nat) : State :=
  if s.bufState b = Bs.filling then
    let p := s.bufPic b
    ((s.p (Reg.ING.BUF.STATE b) Bs.free).setBuf b { s.buf b with host := none }).storeFree p.addr (s.bufEnd b - p.addr)
  else s

/-- The local count of the first arrival of buffer `b`. -/
def State.arrival (s : State) (b : Nat) : Nat :=
  s.g (Reg.ING.BUF.ARRIVAL_LO b) + 2 ^ 32 * s.g (Reg.ING.BUF.ARRIVAL_HI b)

/-! ### Provenance tags (R249, R250) -/

/-- A provenance tag (R249). -/
structure Tag where
  source  : Nat
  flags   : Nat
  seq     : Nat
  capture : Int
  ready   : Int
  sig     : Nat
deriving DecidableEq, Repr

abbrev Fl.captSrc : Nat := 1
abbrev Fl.captArrival : Nat := 2
abbrev Fl.concealed : Nat := 4
abbrev Fl.incomplete : Nat := 8
abbrev Fl.truncated : Nat := 16
abbrev Fl.overlong : Nat := 32
abbrev Fl.divergent : Nat := 128
abbrev Fl.tail : Nat := 256
abbrev Fl.writeback : Nat := 512

/-- Physical address of the tag of buffer `b` (R249). -/
def tagAddr (b : Nat) : Nat := 0x1800000 + 32 * b

/-- The 32 bytes of a tag. -/
def Tag.bytes (t : Tag) : List Byte :=
  leBytes t.source 2 ++ leBytes t.flags 2 ++ leBytes t.seq 4 ++ timeBytes t.capture ++ timeBytes t.ready ++
    leBytes t.sig 4

/-- The tag of buffer `b`. -/
def State.tag (s : State) (b : Nat) : Tag :=
  let f := fun o n => s.le (tagAddr b + o) n
  { source := f 0 2, flags := f 2 2, seq := f 4 4, capture := wallOf (f 8 6) (f 14 4), ready := wallOf (f 18 6) (f 24 4),
    sig := f 28 4 }

/-- Whether the tag of buffer `b` carries a multi-bit error (R32).
(DEDUCED, log entry 14) -/
def State.tagBad (s : State) (b : Nat) : Bool := s.eccHit (tagAddr b) 32

/-- The flag of a capture time: from the source's clock, or an arrival time. -/
def captFlag (src : Bool) : Nat := if src then Fl.captSrc else Fl.captArrival

/-- A buffer closed (R113): the tag, then ROW_MARK at the height, then READY. -/
def State.closeBuf (s : State) (b : Nat) (t : Tag) : State :=
  ((s.store (tagAddr b) t.bytes).p (Reg.ING.BUF.ROW_MARK b) (s.g (Reg.ING.BUF.HEIGHT_M1 b) + 1)).p
    (Reg.ING.BUF.STATE b) Bs.ready

/-- The ring position of source entry `i` last filled (R112). -/
def State.filled (s : State) (i b : Nat) : State :=
  s.setSrc i { s.src i with lastPos := (s.ring i).findIdx? (fun x => x == b) }

/-! ### Sequence numbers (R212) -/

/-- Whether sequence number `a` is newer than `b`, modulo 2^32 (R212). -/
def seqNewer (a b : Nat) : Bool :=
  let d := (a + 2 ^ 32 - b % 2 ^ 32) % 2 ^ 32
  decide (1 ≤ d) && decide (d < 2 ^ 31)

/-- The candidates of source entry `i`: the buffers of its ring whose SOURCE is the entry, but for those in RELEASING
(R212). -/
def State.candidates (s : State) (i : Nat) : List Nat :=
  (s.ring i).filter (fun b => s.g (Reg.ING.BUF.SOURCE b) == i && s.bufState b != Bs.releasing)

/-- The READY candidate of newest SEQUENCE (R213 NEWEST). -/
def State.newest (s : State) (i : Nat) : Option Nat :=
  ((s.candidates i).filter (fun b => s.bufState b == Bs.ready)).foldl (fun best b =>
    match best with
    | none => some b
    | some a => if seqNewer (s.tag b).seq (s.tag a).seq then some b else some a) none

/-! ### Leases and release (R220 to R222) -/

/-- LEASES of a buffer, whose leases are `l`; a RELEASING buffer without a lease waits for its completion (R221). -/
def State.setLeases (s : State) (b : Nat) (l : List Nat) : State :=
  let had := !(s.buf b).leases.isEmpty
  let s := (s.setBuf b { s.buf b with leases := l }).p (Reg.ING.BUF.LEASES b) l.length
  if had && l.isEmpty && s.bufState b == Bs.releasing then { s with rel := s.rel ++ [(b, true)] } else s

/-- The buffers that head `n` leases. -/
def State.leasedBy (s : State) (n : Nat) : List Nat :=
  (s.bufs.filter (fun e => e.2.leases.contains n)).map (fun e => e.1)

/-- The leases of head `n` become those on the buffers `now` (R220). -/
def State.updateLeases (s : State) (n : Nat) (now : List Nat) : State :=
  let s := ((s.leasedBy n).filter (fun b => !now.contains b)).foldl (fun s b =>
    s.setLeases b ((s.buf b).leases.filter (fun k => k != n))) s
  now.foldl (fun s b =>
    if (s.buf b).leases.contains n then s else s.setLeases b ((s.buf b).leases ++ [n])) s

/-- A write of HEAD.RELEASE (R221).
(DEDUCED, log entry 29) -/
def releaseWrite (m : Nat) (v : Word) (s : State) : State :=
  let b := fieldGet v 0 12
  let st := s.bufState b
  if st = Bs.filling then (s.refuse m 0x10440000 v).p Reg.HEAD.REL_STATUS.LAST_RESULT 2
  else if st = Bs.releasing then s.p Reg.HEAD.REL_STATUS.LAST_RESULT 3
  else
    let s := s.p (Reg.ING.BUF.STATE b) Bs.releasing
    if (s.buf b).leases.isEmpty then
      { s.p Reg.HEAD.REL_STATUS.LAST_RESULT 0 with rel := s.rel ++ [(b, false)] }
    else (s.p Reg.HEAD.REL_STATUS.LAST_RESULT 1).raise Ev.releaseDeferred b

/-- The address of the completion ring. -/
def State.relBase (s : State) : Nat := 4096 * s.g Reg.HEAD.REL_RING_BASE.ADDR

/-- Whether the completion ring is full, or its base lies outside DRAM (R222).
(DEDUCED, log entry 29) -/
def State.relBlocked (s : State) : Bool :=
  let size := 2 ^ s.g Reg.HEAD.REL_RING_SIZE.LOG2
  (s.g Reg.HEAD.REL_RING_WR.INDEX + 1) % size == s.g Reg.HEAD.REL_RING_RD.INDEX % size || !s.inDram s.relBase 1

/-- The oldest waiting completion (R222): written, and its buffer FREE; or left waiting with STALL at 1. -/
def relCompletion (s : State) : State :=
  match s.rel with
  | [] => s
  | (b, deferred) :: rest =>
    if s.relBlocked then s.pb Reg.HEAD.REL_STATUS.STALL true
    else
      let wr := s.g Reg.HEAD.REL_RING_WR.INDEX
      let rec_ := leBytes b 2 ++ leBytes deferred.toNat 1 ++ leBytes 0 5 ++ leBytes s.time.count 8
      let s := (s.dmaWrite 43 3 (s.relBase + 16 * wr) rec_).1
      let s := s.p Reg.HEAD.REL_RING_WR.INDEX ((wr + 1) % 2 ^ s.g Reg.HEAD.REL_RING_SIZE.LOG2)
      let s := if s.bufState b = Bs.releasing then s.p (Reg.ING.BUF.STATE b) Bs.free else s
      { s.pb Reg.HEAD.REL_STATUS.STALL false with rel := rest }

/-- A write of REL_RING_BASE or REL_RING_SIZE, ignored and logged while the ring holds entries or STALL is 1 (R227). -/
def relRingWrite (m a : Nat) (v : Word) (s : State) : State :=
  let size := 2 ^ s.g Reg.HEAD.REL_RING_SIZE.LOG2
  if s.gb Reg.HEAD.REL_STATUS.STALL || s.g Reg.HEAD.REL_RING_WR.INDEX % size != s.g Reg.HEAD.REL_RING_RD.INDEX % size then
    s.logIgnored m a v
  else s.writeFields m a v 0

/-- Buffers in RELEASING: REL_STATUS.RELEASING. -/
def State.releasingCount (s : State) : Nat :=
  ((List.range 4096).filter (fun b => s.bufState b == Bs.releasing)).length

/-! ### HOST buffers (R115) -/

/-- The enabled HOST entry whose ring lists buffer `b`. -/
def State.hostEntry (s : State) (b : Nat) : Option Nat :=
  (List.range 512).find? (fun i =>
    s.gb (Reg.ING.SRC.ENABLE i) && s.g (Reg.ING.SRC.TYPE i) == 6 && (s.ring i).contains b)

/-- A write of ING.HOST_READY (R115, R223).
(DEDUCED, log entry 29) -/
def hostReady (m : Nat) (v : Word) (s : State) : State :=
  let b := fieldGet v 0 12
  if !(s.buf b).leases.isEmpty then (s.refuse m 0x10100010 v).raise Ev.leaseViolation b
  else if s.bufState b = Bs.filling then s.refuse m 0x10100010 v
  else match s.hostEntry b with
    | none => s.refuse m 0x10100010 v
    | some i =>
      let s := s.inc (Reg.ING.SRC.SEQUENCE i)
      (s.claim b 0 s.time.count).setBuf b { s.buf b with host := some (s.wall, s.g (Reg.ING.SRC.SEQUENCE i), i) }

/-- The rows of the first plane of a picture, which SIGNATURE covers, read once at QoS 3 and kept, by the master of default QoS 3 that
works on the buffer table.
(DEDUCED, log entry 29) -/
def State.hostRead (s : State) (p : Pic) : List Nat → Tab (List Nat) → State × Tab (List Nat)
  | [], t => (s, t)
  | y :: ys, t =>
    let r := s.readRow 43 3 p y p.w
    r.1.hostRead p ys (keepRow p.w 0 y r.2 t)

/-- The read of a HOST buffer, all planes of its picture, ends and the buffer closes (R115).
(DEDUCED, log entry 29) -/
def hostClose (b : Nat) (s : State) : State :=
  match (s.buf b).host with
  | none => s
  | some (w, seq, i) =>
    if s.coreOn && s.bufState b == Bs.filling then
      let p := s.bufPic b
      let r := s.hostRead p (List.range p.h) []
      let s := (p.otherRows p.w p.h).foldl (fun s x => (s.dmaRead 43 3 x.1 x.2).1) r.1
      let t : Tag := {
        source := i, flags := Fl.captArrival, seq := seq, capture := w, ready := s.wall, sig := keptSignature p.fmt p.w p.h r.2 }
      (((s.closeBuf b t).setBuf b { s.buf b with host := none }).inc (Reg.ING.SRC.FRAMES i)).filled i b
    else s

/-! ### The commands -/

/-- BUFFER_RELEASE (R221). -/
def execBufferRelease (dt : Nat) (m : Master) (b : Fin 4096) (s : State) : Out State :=
  let v : Word := BitVec.ofNat 32 b.val
  .next ((s.advance dt).ctlWrite m.val 0x10440000 v (releaseWrite m.val v))

/-- RELEASE_COMPLETION (R222). -/
def execReleaseCompletion (dt : Nat) (s : State) : Out State :=
  let s := s.advance dt
  .next (if s.coreOn then relCompletion s else s)

/-- HOST_READY (R115). -/
def execHostReady (dt : Nat) (m : Master) (b : Fin 4096) (s : State) : Out State :=
  let v : Word := BitVec.ofNat 32 b.val
  .next ((s.advance dt).ctlWrite m.val 0x10100010 v (hostReady m.val v))

/-- HOST_READY_CLOSE (R115). -/
def execHostReadyClose (dt : Nat) (b : Fin 4096) (s : State) : Out State := .next (hostClose b.val (s.advance dt))

end Sys2Proof.Machine
end

