-- ==== Sys2Proof/Machine/Layers.lean ====
section
/-! DEFINITION. The pixels of a head: layers, scaling, conversion, blending, the output table, placards, the vitrine
layer, the tell-tale, the output matrix and dither (R185 to R209, R264 to R269, R523). -/

namespace Sys2Proof.Machine

/-! ### The slots in use -/

/-- A slot that is in use on a head: its record, its window, the source bound, the budget and policy in force. -/
structure SlotUse where
  rec_   : Slot
  win    : Window
  source : Nat
  budget : Nat
  pol    : Policy
deriving DecidableEq, Repr

/-- Slot `k` of head `n` as the page and the amendments bind it: none with no SLOTS record, a WINDOWS record that is not
VALID or of another KIND, a hidden window, or a head record with ENABLE at 0 (R43, R217, R253). -/
def State.slotUse (s : State) (n k : Nat) : Option SlotUse :=
  match s.headPage n with
  | none => none
  | some p =>
    let P := s.page p
    let e := (s.head n).edits
    match slotRec P n k with
    | none => none
    | some r =>
      match validWindow P r.window with
      | none => none
      | some w =>
        let visible := match Tab.get none r.window e.visible with
          | some v => v != 0
          | none => w.visible
        if hrEnable (headRec P n) && w.graphic == r.graphic && visible then
          let pol := policyRec P w.policy
          let b := (Tab.get none r.window e.budget).getD w.budget
          some { rec_ := r, win := w, source := (Tab.get none r.window e.source).getD w.source,
                 budget := if b = 0 then pol.budget else b, pol := pol }
        else none

/-- Slot `k` of head `n` beyond its registers. -/
def HeadState.slot (h : HeadState) (k : Nat) : SlotState := Tab.get SlotState.reset k h.slots

/-- What head `h` has fetched for slot `k`, and a pixel of it. -/
def HeadState.store (h : HeadState) (k : Nat) : LineStore := Tab.get LineStore.reset k h.stores
def LineStore.px (t : LineStore) (x y : Nat) : Sample := sampleOf ((Tab.get [] y t.rows).getD x 0)

/-- The picture a slot reads from buffer `b`: copy REDUCED_SEL of the buffer's picture, which a GFX_ADDR amendment places at the
address it gave (R142, R193, R218). -/
def State.slotPic (s : State) (n : Nat) (u : SlotUse) (b : Nat) : Pic :=
  let p := s.bufPic b
  let p := if u.rec_.graphic then
      match Tab.get none u.rec_.window (s.head n).edits.gfx with
      | some a => { p with addr := a }
      | none => p
    else p
  p.copy u.rec_.reduced

/-- Whether a source is interlaced. -/
def State.interlaced (s : State) (i : Nat) : Bool := s.gb (Reg.ING.SRC.INTERLACED i)

/-- The height of the frame a picture stands for: twice a field's (R192). -/
def frameHeight (p : Pic) (inter : Bool) : Nat := if inter then 2 * p.h else p.h

/-- The field row of frame row `r` (R192). -/
def fieldRow (p : Pic) (inter : Bool) (field r : Nat) : Nat :=
  if !inter then r
  else min (p.h - 1) (if field = 0 then r / 2 else (r - 1) / 2)

/-! ### The checks of a slot at its latch point (R198) -/

/-- Whether a format is accepted by a video or a graphic slot (R194). -/
def formatOk (graphic : Bool) (fmt : Nat) : Bool := decide (fmt ≤ 1) || (graphic && decide (fmt ≤ 3))

/-- The first check of R198 that buffer `b` fails in slot `u` of head `n`, as SLOT_STATUS.CAUSE codes it; 0 for none. -/
def State.slotCause (s : State) (n : Nat) (c : Course) (u : SlotUse) (b : Nat) : Nat :=
  let r := u.rec_
  let p := s.slotPic n u b
  let h := frameHeight p (s.interlaced u.source)
  if !formatOk r.graphic p.fmt then 2
  else if 0 < r.reduced ∧ bitOf (s.g (Reg.ING.BUF.REDUCED b)) (r.reduced - 1) = false then 4
  else if r.graphic then 0
  else if !(stepOk (r.stepX p.w) && stepOk (r.stepY h)) then 3
  else if c.bands.any (fun d =>
      let sp := d.spansOf r.slot
      match sp.head?, sp.getLast? with
      | some a, some z => decide (ceLsLen a < r.need p.w (ceX0 a) (ceX1 z) (if p.fmt = 1 then 2 else 1))
      | _, _ => false) then 1
  else 0

/-! ### Samples to linear light (R190, R195 to R197) -/

/-- A sum over `n` taps. -/
def tapSum (n : Nat) (f : Nat → Int) : Int := (List.range n).foldl (fun acc t => acc + f t) 0

/-- A filter result rounded and clipped to 10 bits (R190). -/
def filterClip (z : Int) : Nat := (clampInt 0 1023 ((z + 512) / 1024)).toNat

/-- The integer position and the phase of a position in units of 2^-20 (R190). -/
def splitPos (p : Int) : Int × Nat :=
  let ph := ((p % 2 ^ 20) * 64 + 2 ^ 19) / 2 ^ 20
  if ph = 64 then (p / 2 ^ 20 + 1, 0) else (p / 2 ^ 20, ph.toNat)

/-- An index held to 0 up to `n` − 1. -/
def clampIdx (n : Nat) (z : Int) : Nat := (clampInt 0 ((n : Int) - 1) z).toNat

/-- The coefficients of a YCbCr matrix as S4.12: Y, Cr to R, Cb to G, Cr to G, Cb to B (R195).
(PRESUMED, log entry 28) -/
def cscCoef (csc : Nat) (full : Bool) : Int × Int × Int × Int × Int :=
  if csc = 0 then (if full then (4096, 6450, 767, 1917, 7601) else (4783, 7365, 876, 2189, 8678))
  else if csc = 1 then (if full then (4096, 6040, 674, 2340, 7706) else (4783, 6896, 770, 2672, 8799))
  else (if full then (4096, 5743, 1410, 2925, 7258) else (4783, 6557, 1609, 3340, 8287))

/-- YCbCr to R'G'B' codes (R195).
(PRESUMED, log entry 28) -/
def yccToRgb (csc : Nat) (full : Bool) (y cb cr : Nat) : Nat × Nat × Nat :=
  let k := cscCoef csc full
  let y0 : Int := k.1 * ((y : Int) - if full then 0 else 64)
  let b : Int := (cb : Int) - 512
  let r : Int := (cr : Int) - 512
  let out := fun (z : Int) => (clampInt 0 1023 ((z + 2048) / 4096)).toNat
  (out (y0 + k.2.1 * r), out (y0 - k.2.2.1 * b - k.2.2.2.1 * r), out (y0 + k.2.2.2.2 * b))

/-- Code `c` through transfer table `t` of a page, to U1.19 (R195). -/
def toLinear (pt : Nat → Nat) (c : Nat) : Nat :=
  if c % 2 = 0 then 16 * pt (c / 2)
  else if c < 1023 then 8 * (pt ((c - 1) / 2) + pt ((c + 1) / 2))
  else 16 * pt 511

/-- The points of transfer table `t`; free values where the page has no TRANSFER section. -/
def State.transfer (s : State) (P : Page) (t j : Nat) : Nat :=
  if secCnt P 5 = 0 then Config.freeNat (s.free + j) % 65536 else transferPoint P t j

/-- A sample of component `c` (0 to 2) at column `x` of frame row `r`, after chroma is brought to 4:4:4 (R190): an odd
column averages its neighbours, the last one is replicated. -/
def component (val : Nat → Sample) (fmt w c x : Nat) : Nat :=
  if fmt ≠ 0 then (if c = 0 then (val x).c0 else if c = 1 then (val x).c1 else (val x).c2)
  else if c = 0 then (val x).c0
  else
    let at_ := fun k => if c = 1 then (val k).c1 else (val (if k + 1 < w then k + 1 else k - 1)).c1
    if x % 2 = 0 then at_ x
    else if x + 1 < w then (at_ (x - 1) + at_ (x + 1) + 1) / 2
    else at_ (x - 1)

/-- The rows of a picture of `h` frame rows that the six taps of line `y` read (R190, R192). -/
def tapRows (r : Slot) (p : Pic) (inter : Bool) (field y : Nat) : List Nat :=
  let h := frameHeight p inter
  let v := splitPos (r.posY h y)
  ((List.range 6).map (fun t => fieldRow p inter field (clampIdx h (v.1 - 2 + (t : Int))))).dedup

/-- One scaled pixel of a video slot from the rows `px` of its line store, as three 10-bit components in the buffer's colour space
(R190, R192). -/
def videoSample (px : Nat → Nat → Sample) (P : Page) (u : SlotUse) (p : Pic) (inter : Bool) (field bandFirst e y x : Nat) :
    Nat × Nat × Nat :=
  let r := u.rec_
  let h := frameHeight p inter
  let same := p.w == r.srcW && h == r.srcH
  let v := splitPos (r.posY h y)
  let vph := if same && y == bandFirst then ceVPhase e else v.2
  let col := fun (x : Nat) =>
    let at_ := fun (t : Nat) => px x (fieldRow p inter field (clampIdx h (v.1 - 2 + t)))
    let mix := fun (g : Sample → Nat) => filterClip (tapSum 6 (fun t => coefOf P r.vcoef 6 vph t * g (at_ t)))
    (⟨0, mix (fun q => q.c0), mix (fun q => q.c1), mix (fun q => q.c2)⟩ : Sample)
  let q := splitPos (r.posX p.w x)
  let hph := if same && x == ceX0 e then ceHPhase e else q.2
  let out := fun (c : Nat) =>
    filterClip (tapSum 8 (fun t => coefOf P r.hcoef 8 hph t * component col p.fmt p.w c (clampIdx p.w (q.1 - 3 + t))))
  (out 0, out 1, out 2)

/-- An 8-bit colour sample as 10 bits (R195). -/
def expand8 (v : Nat) : Nat := v * 4 + v / 64

/-- αp of a pixel's alpha, in units of 1/1024 (R200). -/
def alphaP (fmt a : Nat) : Nat :=
  if fmt = 2 then expand8 a + expand8 a / 512
  else if fmt = 3 then (if a = 0 then 0 else if a = 1 then 341 else if a = 2 then 683 else 1024)
  else 1024

/-- α of a pixel (R200). -/
def alphaOf (alpha ap : Nat) : Nat := ((alpha + alpha / 512) * ap + 512) / 1024

/-- The row of its picture that a graphic slot shows on line `y`: none outside it (R197). -/
def graphicRow (r : Slot) (p : Pic) (inter : Bool) (field y : Nat) : Option Nat :=
  let h := frameHeight p inter
  let sy := r.cropY0 * h / 65536 + y - r.y0
  if r.y0 ≤ y ∧ sy < h then some (fieldRow p inter field sy) else none

/-- The source pixel of a graphic slot at (x, y), of a picture whose pixels are `px`: none outside the buffer (R197). -/
def graphicSample (px : Nat → Nat → Sample) (u : SlotUse) (p : Pic) (inter : Bool) (field y x : Nat) : Option Sample :=
  let r := u.rec_
  let sx := r.cropX0 * p.w / 65536 + x - r.x0
  match graphicRow r p inter field y with
  | none => none
  | some row =>
  if r.x0 ≤ x ∧ sx < p.w then
    let val := fun k => px k row
    let v := val sx
    let c := fun k => component val p.fmt p.w k sx
    some (if p.fmt = 2 then ⟨v.a, expand8 v.c0, expand8 v.c1, expand8 v.c2⟩ else ⟨v.a, c 0, c 1, c 2⟩)
  else none

/-- A colour in U1.19 linear light. -/
abbrev Lin := Nat × Nat × Nat

/-- The linear colour and α that a span's slot has at (x, y) from buffer `b`, whose pixels are `px`; none where it is
transparent. -/
def State.layerPixel (s : State) (px : Nat → Nat → Sample) (n : Nat) (P : Page) (u : SlotUse) (b bandFirst e y x : Nat) :
    Option (Lin × Nat) :=
  let r := u.rec_
  let p := s.slotPic n u b
  let inter := s.interlaced u.source
  let field := s.g (Reg.ING.BUF.FIELD b)
  let lin := fun (fmt : Nat) (c : Nat × Nat × Nat) =>
    let q := if fmt = 0 then yccToRgb r.csc r.full c.1 c.2.1 c.2.2 else c
    (toLinear (s.transfer P r.tf) q.1, toLinear (s.transfer P r.tf) q.2.1, toLinear (s.transfer P r.tf) q.2.2)
  if r.graphic then
    (graphicSample px u p inter field y x).map (fun v =>
      (lin p.fmt (v.c0, v.c1, v.c2), alphaOf r.alpha (alphaP p.fmt v.a)))
  else some (lin p.fmt (videoSample px P u p inter field bandFirst e y x), alphaOf r.alpha 1024)

/-- `src` with α `a` placed over `dst` (R201). -/
def blend (a : Nat) (src dst : Lin) : Lin :=
  let f := fun x y => (a * x + (1024 - a) * y + 512) / 1024
  (f src.1 dst.1, f src.2.1 dst.2.1, f src.2.2 dst.2.2)

/-- The plinth colour of a head (R185). -/
def State.plinth (s : State) (n : Nat) : Lin :=
  (s.g (Reg.HEAD.PLINTH_R.VALUE n), s.g (Reg.HEAD.PLINTH_G.VALUE n), s.g (Reg.HEAD.PLINTH_B.VALUE n))

/-- The buffer a slot draws from: the chase buffer until it has fallen back, else the one held (R213, R214). -/
def SlotState.shown (t : SlotState) : Option Nat :=
  match t.chase with
  | some b => if t.fell then t.held else some b
  | none => t.held

/-- One span drawn at (x, y) over `dst`: a refused slot in the plinth colour, a hidden failure and an empty slot not at
all (R198, R201, R262). -/
def State.drawSpan (s : State) (n : Nat) (P : Page) (bandFirst y x : Nat) (dst : Lin) (e : Nat) : Lin :=
  let k := if ceOp e = 2 then 24 + ceSlot e else ceSlot e
  if ceX0 e ≤ x ∧ x ≤ ceX1 e then
    if ceOp e = 3 then s.plinth n
    else match s.slotUse n k with
      | none => dst
      | some u =>
        let t := (s.head n).slot k
        if t.refused ≠ 0 then s.plinth n
        else if t.hidden then dst
        else match t.shown with
          | none => dst
          | some b =>
            match s.layerPixel ((s.head n).store k).px n P u b bandFirst e y x with
            | none => dst
            | some (c, a) => blend a c dst
  else dst

/-! ### The output table (R202) -/

/-- A linear channel through the output table, or its top 10 bits. -/
def outCode (on : Bool) (tab : Nat → Nat) (v : Nat) : Nat :=
  if !on then min 1023 (v / 512)
  else
    let i := v / 256
    let o : Int := if i < 4095 then (tab i : Int) + (((tab (i + 1) : Int) - tab i) * (v % 256 : Nat) + 128) / 256 else tab 4095
    (min 1023 ((o + 32) / 64)).toNat

/-- A 10-bit R'G'B' colour as the word of R270. -/
def rgbWord (c : Nat × Nat × Nat) : Nat := c.1 * 2 ^ 20 + c.2.1 * 2 ^ 10 + c.2.2

/-- The channels of such a word. -/
def wordRgb (w : Nat) : Nat × Nat × Nat := (bitsOf w 20 10, bitsOf w 10 10, bitsOf w 0 10)

/-- A linear colour as output-buffer codes of head `n` (R202). -/
def State.outRgb (s : State) (n : Nat) (c : Lin) : Nat × Nat × Nat :=
  let on := s.gb (Reg.HEAD.OUT_CTRL.OTAB_EN n)
  let bank := s.g (Reg.HEAD.OUT_CTRL.OTAB_BANK n)
  let tab := fun i => Tab.get 0 (4096 * bank + i) (s.head n).otab
  (outCode on tab c.1, outCode on tab c.2.1, outCode on tab c.2.2)

/-- UNDERRUN_COLOUR: the plinth through the output table with UR_PLINTH at 1 (R247). -/
def State.underrunColour (s : State) (n : Nat) : Nat :=
  if s.gb (Reg.HEAD.UNDERRUN_COLOUR.UR_PLINTH n) then rgbWord (s.outRgb n (s.plinth n))
  else rgbWord (s.g (Reg.HEAD.UNDERRUN_COLOUR.R n), s.g (Reg.HEAD.UNDERRUN_COLOUR.G n),
    s.g (Reg.HEAD.UNDERRUN_COLOUR.B n))

/-- The active width and height of a head (R229, R238). -/
def State.activeW (s : State) (n : Nat) : Nat := s.g (Reg.HEAD.HTIM_ACT.ACT_M1 (s.lead n)) + 1
def State.activeH (s : State) (n : Nat) : Nat := s.g (Reg.HEAD.VTIM_ACT.ACT_M1 (s.lead n)) + 1

/-- The composed codes of line `y` of head `n` in band `d`, or of a line no band covers: the plinth (R54). -/
def State.composedLine (s : State) (n : Nat) (P : Page) (d : Option Band) (y : Nat) : List Nat :=
  (List.range (s.activeW n)).map (fun x =>
    let c := match d with
      | none => s.plinth n
      | some b => b.spans.foldl (s.drawSpan n P b.first y x) (s.plinth n)
    rgbWord (s.outRgb n c))

/-! ### Placards (R264 to R268) -/

/-- A register colour as a word of R270. -/
def State.colourAt (s : State) (a : Nat) : Nat := (s.reg a).toNat % 2 ^ 30

/-- The hatch code at (x, y) (R265). -/
def State.hatch (s : State) (x y : Nat) : Nat := if (x + y) % 32 < 8 then s.colourAt 0x100C0004 else s.colourAt 0x100C0008

/-- The text of a reason word (R255). -/
def reasonText (r : Nat) : List Char :=
  (if r = 1 then "REFUSED" else if r = 2 then "NO FIT" else if r = 3 then "NO SIGNAL" else if r = 4 then "STALE"
    else if r = 5 then "FROZEN" else if r = 6 then "STILL" else if r = 7 then "DEFECT" else "TIME").toList

/-- The age field (R266). -/
def ageText (ms : Nat) : List Char :=
  if 10000000 ≤ ms then "9999.9+ s".toList
  else Nat.toDigits 10 (ms / 1000) ++ ['.'] ++ Nat.toDigits 10 (ms / 100 % 10) ++ [' ', 's']

/-- Line 1 of a label (R266). -/
def labelLine (reason ms : Nat) : List Char :=
  reasonText reason ++ (if 4 ≤ reason then ' ' :: ageText ms else [])

/-- The operator text of a window: a character outside 0x20 to 0x7E is drawn as a question mark (R268). -/
def operatorText (bs : List Byte) : List Char :=
  bs.map (fun b => if 0x20 ≤ b.toNat ∧ b.toNat ≤ 0x7E then Char.ofNat b.toNat else '?')

/-- Whether the text `cs`, from offset (ox, oy) of a box at scale `sc`, sets the box's pixel (dx, dy) (R266).
(DESIGN CHOICE, log entry 40) -/
def textPixel (cs : List Char) (sc ox oy dx dy : Nat) : Bool :=
  let gx := dx / sc
  let gy := dy / sc
  if ox ≤ gx ∧ oy ≤ gy ∧ gy < oy + 24 ∧ (gx - ox) / 16 < cs.length then
    Config.glyph (cs.getD ((gx - ox) / 16) ' ').toNat ((gx - ox) % 16) (gy - oy)
  else false

/-- Whether a box holds pixel (x, y). -/
def inBox (b : Box) (x y : Nat) : Bool := decide (b.1 ≤ x ∧ x ≤ b.2.2.1 ∧ b.2.1 ≤ y ∧ y ≤ b.2.2.2)

/-- DIM over one channel (R265). -/
def dimChannel (c h : Nat) : Nat := (c + 3 * h + 2) / 4

/-- A placard, its label box and the TIME mark of slot `k` drawn at (x, y) over code `c` (R265 to R267). -/
def State.drawPlacard (s : State) (n x y : Nat) (c : Nat) (k : Nat) : Nat :=
  let h := s.head n
  let t := h.slot k
  match s.slotUse n k with
  | none => c
  | some u =>
    let r := u.rec_
    let sc := h.frame.scale
    if !inBox (r.x0, r.y0, r.x1, r.y1) x y then c
    else
      let hw := wordRgb (s.hatch x y)
      let cw := wordRgb c
      let shown := t.reason != 0 && !t.hidden
      let c1 := if !shown then c
        else if t.replace then s.hatch x y
        else rgbWord (dimChannel cw.1 hw.1, dimChannel cw.2.1 hw.2.1, dimChannel cw.2.2 hw.2.2)
      let fg := s.colourAt 0x100C000C
      let bg := s.colourAt 0x100C0010
      let c2 := if shown && u.win.placard && inBox (r.labelBox sc) x y then
          let text := operatorText ((Tab.get none r.window h.edits.text).getD [])
          if textPixel (labelLine t.reason t.ageMs) sc 8 8 (x - r.x0) (y - r.y0) ||
              textPixel text sc 8 40 (x - r.x0) (y - r.y0) then fg else bg
        else c1
      if t.mark && inBox (r.timeBox sc) x y then
        if textPixel (reasonText 8) sc 8 8 (x + 80 * sc - (r.x1 + 1)) (y - r.y0) then fg else bg
      else c2

/-! ### The vitrine layer and the tell-tale (R203, R206 to R209, R269) -/

/-- The descriptor offset of a region of head `n`: the record's, or the one an amendment gave (R210). -/
def State.regionDesc (s : State) (n : Nat) (z : VitZone) : Nat :=
  (Tab.get none z.index (s.head n).edits.vitrine).getD z.desc

/-- One region drawn at (x, y) over code `c`: its content pixel by its alpha (R203, R207), by the descriptor and the palette that the
frame has read (R208). -/
def State.drawRegion (s : State) (n x y : Nat) (c : Nat) (z : VitZone) : Nat :=
  let d := s.regionDesc n z
  let r := Tab.get VitScan.reset z.index (s.head n).frame.vit
  let v := descOf r.desc
  if vitGood z.index d v && inBox (z.x0, z.y0, z.x1, z.y1) x y then
    let cx := x - z.x0
    let cy := y - z.y0
    if v.xOff ≤ cx ∧ cx < v.xOff + v.w ∧ v.yOff ≤ cy ∧ cy < v.yOff + v.h then
      let at_ := 0x1400000 + v.pixels + (cy - v.yOff) * v.pitch + (cx - v.xOff) * v.size
      let w := if v.indexed then leNat ((r.palette.drop (4 * (s.byte at_).toNat)).take 4) else s.le at_ 4
      let a := bitsOf w 24 8 + bitsOf w 24 8 / 128
      let cw := wordRgb c
      let mix := fun (p q : Nat) => (a * expand8 p + (256 - a) * q + 128) / 256
      rgbWord (mix (bitsOf w 16 8) cw.1, mix (bitsOf w 8 8) cw.2.1, mix (bitsOf w 0 8) cw.2.2)
    else c
  else c

/-- The regions of head `n` under its page, in INDEX order (R207). -/
def State.headRegions (s : State) (n : Nat) : List VitZone :=
  match s.headPage n with
  | none => []
  | some p => (List.range 8).filterMap (fun r => vitRegion (s.page p) n r)

/-- The tell-tale drawn at (x, y) over code `c` (R269). -/
def State.drawTellTale (s : State) (n x y : Nat) (c : Nat) : Nat :=
  let f := (s.head n).frame
  if f.ttEn && decide (f.ttX ≤ x ∧ x < f.ttX + 16 ∧ f.ttY ≤ y ∧ y < f.ttY + 16) then
    let k := s.g (Reg.HEAD.FRAME.COUNT n) % 8
    let g := k ^^^ (k / 2)
    let q := (x - f.ttX) / 8 + 2 * ((y - f.ttY) / 8)
    if q = 3 ∨ bitOf g q then 0x3FFFFFFF else 0
  else c

/-- The overlay stage at (x, y): placards in slot order, then the vitrine regions, then the tell-tale. -/
def State.overlay (s : State) (n : Nat) (zs : List VitZone) (y x c : Nat) : Nat :=
  let c := (List.range 32).foldl (s.drawPlacard n x y) c
  s.drawTellTale n x y (zs.foldl (s.drawRegion n x y) c)

/-! ### The output matrix and dither (R204) -/

/-- The dither matrix of R204. -/
def ditherAt (x y : Nat) : Nat :=
  ([0, 8, 2, 10, 12, 4, 14, 6, 3, 11, 1, 9, 15, 7, 13, 5] : List Nat).getD (4 * (y % 4) + x % 4) 0

/-- One channel reduced to its depth. -/
def State.depthOut (s : State) (n x y : Nat) (v : Int) : Nat :=
  let eight := s.gb (Reg.HEAD.OUT_CTRL.DEPTH8 n)
  let l : Int := if eight then 16384 else 4096
  let add : Int := if s.gb (Reg.HEAD.OUT_CTRL.DITHER n) then (2 * (ditherAt x y : Int) + 1) * l / 32 else l / 2
  (clampInt 0 (if eight then 255 else 1023) ((v + add) / l)).toNat

/-- The pixel that head `n` sends to its link at (x, y) for overlay codes `c` (R204). -/
def State.outPixel (s : State) (n y x c : Nat) : Nat :=
  let w := wordRgb c
  let q := fun (f : FRef) => signed 16 (s.g f)
  let row := fun (a b d : FRef) (off : FRef) =>
    q a * w.1 + q b * w.2.1 + q d * w.2.2 + signed 12 (s.g off) * 4096
  let v : Int × Int × Int :=
    if s.gb (Reg.HEAD.OUT_CTRL.MATRIX_EN n) then
      (row (Reg.HEAD.OMAT0.C_LO n) (Reg.HEAD.OMAT0.C_HI n) (Reg.HEAD.OMAT1.C_LO n) (Reg.HEAD.OOFF01.OFF0 n),
       row (Reg.HEAD.OMAT1.C_HI n) (Reg.HEAD.OMAT2.C_LO n) (Reg.HEAD.OMAT2.C_HI n) (Reg.HEAD.OOFF01.OFF1 n),
       row (Reg.HEAD.OMAT3.C_LO n) (Reg.HEAD.OMAT3.C_HI n) (Reg.HEAD.OMAT4.C_LO n) (Reg.HEAD.OOFF2.OFF0 n))
    else ((w.1 : Int) * 4096, (w.2.1 : Int) * 4096, (w.2.2 : Int) * 4096)
  rgbWord (s.depthOut n x y v.1, s.depthOut n x y v.2.1, s.depthOut n x y v.2.2)

/-! ### Visible layers (R226) -/

/-- Whether head `n` executes course entries: it has a live page, whose record has ENABLE at 1 (R23). -/
def State.executes (s : State) (n : Nat) : Bool :=
  match s.headPage n with
  | none => false
  | some p => hrEnable (headRec (s.page p) n)

/-- The spans of slot `k` in a band, graphic slots from 24 on. -/
def slotSpans (d : Band) (k : Nat) : List Nat :=
  d.spans.filter (fun e => (ceOp e == 1 && ceSlot e == k) || (ceOp e == 2 && 24 + ceSlot e == k))

/-- The rectangles of head `n` that a REPLACE placard covers (R264, R265). -/
def State.replaced (s : State) (n : Nat) : List Box :=
  (List.range 32).filterMap (fun j =>
    let q := (s.head n).slot j
    if q.reason != 0 && q.replace && !q.hidden then
      (s.slotUse n j).map (fun v => (v.rec_.x0, v.rec_.y0, v.rec_.x1, v.rec_.y1))
    else none)

/-- Whether slot `k` of head `n` draws on line `y` of band `d`, left of pixel `stop`, a pixel with α above 0 that no REPLACE placard of
the head hides, from a picture whose pixels are `px` (R226). -/
def State.drawsOn (s : State) (px : SlotUse → Nat → Nat → Nat → Sample) (n : Nat) (P : Page) (d : Band) (y stop k : Nat) : Bool :=
  let t := (s.head n).slot k
  match s.slotUse n k, t.shown with
  | some u, some b =>
    t.held.isSome && t.refused == 0 && !t.hidden &&
      (slotSpans d k).any (fun e =>
        (List.range (min stop (ceX1 e + 1) - ceX0 e)).any (fun i =>
          !((s.replaced n).any (fun h => inBox h (ceX0 e + i) y)) &&
            (match s.layerPixel (px u b) n P u b d.first e y (ceX0 e + i) with
              | none => false
              | some (_, a) => a != 0)))
  | _, _ => false

/-- Whether slot `k` of head `n` is to draw such a pixel in the frame that begins, as its page and its buffers stand: no line of a band
that composes to UNDERRUN_COLOUR counts, and none while its course sequencer is stopped (R23, R523). -/
def State.layerVisible (s : State) (n k : Nat) : Bool :=
  match s.headPage n with
  | none => false
  | some p =>
    let c := s.course p n
    (!s.executes n || s.engRunning (18 + n / 16)) &&
      c.bands.any (fun d => !d.bad &&
        (List.range d.count).any (fun j =>
          decide (d.first + j < s.activeH n) && !(c.lost.any (fun l => decide (l ≤ d.first + j))) &&
            s.drawsOn (fun u b => s.pixel (s.slotPic n u b)) n (s.page p) d (d.first + j) (s.activeW n) k))

/-- The layers to be visible on a head in the frame that begins. -/
def State.visibleLayers (s : State) (n : Nat) : List Nat := (List.range 32).filter (fun k => s.layerVisible n k)

end Sys2Proof.Machine
end

