-- ==== Sys2Proof/Machine/Latch.lean ====
section
/-! DEFINITION. The latch point: what each slot latches, atomic groups, the checks of R198, freshness, leases (R211 to
R220, R253 to R262). -/

namespace Sys2Proof.Machine

/-- What a slot would do at a latch point (R212, R213): the buffer it keeps, the new buffer its mode finds, its chase
buffer, and whether its group makes it wait. -/
structure Plan where
  k     : Nat
  use   : SlotUse
  held  : Option Nat
  pick  : Option Nat
  chase : Option Nat
  wait  : Bool
deriving DecidableEq, Repr

/-- The READY candidates of a source entry. -/
def State.readyOf (s : State) (i : Nat) : List Nat := (s.candidates i).filter (fun b => s.bufState b == Bs.ready)

/-- The READY candidate of latest CAPTURE_TIME at or before `limit`, the newer SEQUENCE between equal times (R213). -/
def State.alignedPick (s : State) (i : Nat) (limit : Int) : Option Nat :=
  ((s.readyOf i).filter (fun b => decide ((s.tag b).capture ≤ limit))).foldl (fun best b =>
    match best with
    | none => some b
    | some a =>
      let x := s.tag a
      let y := s.tag b
      if x.capture < y.capture ∨ (x.capture = y.capture ∧ seqNewer y.seq x.seq = true) then some b else some a) none

/-- The FILLING candidate of highest ROW_MARK, at the lowest ring position on a tie (R213). -/
def State.chasePick (s : State) (i : Nat) : Option Nat :=
  ((s.candidates i).filter (fun b => s.bufState b == Bs.filling)).foldl (fun best b =>
    match best with
    | none => some b
    | some a => if s.g (Reg.ING.BUF.ROW_MARK a) < s.g (Reg.ING.BUF.ROW_MARK b) then some b else some a) none

/-- What slot `k` of head `n` would latch at a latch point stamped `L` (R212, R213, R217). -/
def State.plan (s : State) (n : Nat) (L : Int) (k : Nat) : Option Plan :=
  match s.slotUse n k with
  | none => none
  | some u =>
    let t := (s.head n).slot k
    let prior := if t.source = some u.source then t.held else none
    let held := prior.filter (fun b => s.bufState b == Bs.ready)
    let best := if u.rec_.latch = 1 ∧ s.timeState = 2 then s.alignedPick u.source (L - 100000 * u.rec_.delay)
      else s.newest u.source
    let pick := best.filter (fun b =>
      match prior with
      | none => true
      | some h => b != h && seqNewer (s.tag b).seq (s.tag h).seq)
    let fallback := match pick with
      | some b => some b
      | none => held
    some { k := k, use := u, held := held, pick := pick, wait := false,
           chase := if u.rec_.latch = 2 ∧ fallback.isSome = true then s.chasePick u.source else none }

/-- The plans of every slot of head `n`. -/
def State.plans (s : State) (n : Nat) (L : Int) : List (Nat × Plan) :=
  (List.range 32).filterMap (fun k => (s.plan n L k).map (fun p => (n, p)))

/-! ### Atomic groups (R219) -/

/-- Whether a slot is a member of group `g`: a CHASE slot never is. -/
def Plan.inGroup (p : Plan) (g : Nat) : Bool := p.use.rec_.group == g && p.use.rec_.latch != 2

/-- Group `g` of the heads led by `lead`, decided over the plans `ps`.
(DEDUCED, log entry 35) -/
def groupStep (lead : Nat) (r : State × List (Nat × Plan) × List Nat) (g : Nat) :
    State × List (Nat × Plan) × List Nat :=
  let s := r.1
  let ps := r.2.1
  let mem := ps.filter (fun e => e.2.inGroup g)
  let key := fun (e : Nat × Plan) => 32 * e.1 + e.2.k
  let pend := mem.filter (fun e => e.2.pick.isSome)
  let h := s.head lead
  let t := Tab.get GroupState.reset g h.groups
  let put := fun (t : GroupState) => s.setHead lead { h with groups := Tab.put GroupState.reset g t h.groups }
  let hold := ps.map (fun e => if e.2.inGroup g then (e.1, { e.2 with pick := none, wait := e.2.pick.isSome }) else e)
  if mem.isEmpty then r
  else if t.split then
    let done := t.latched ++ pend.map key
    (put (if mem.all (fun e => done.contains (key e)) then GroupState.reset else { t with latched := done }), ps, r.2.2)
  else if pend.length = mem.length then (put GroupState.reset, ps, r.2.2)
  else if pend.isEmpty then r
  else
    let from_ := t.waitFrom.getD s.clock
    if 1000000 * s.g (Reg.HEAD.GROUP_CTRL.DEADLINE_MS lead) ≤ s.clock - from_ then
      let heads := (mem.map (fun e => e.1)).dedup
      let s := put ⟨none, true, pend.map key⟩
      (heads.foldl (fun s n =>
        s.p (Reg.HEAD.GROUP_SPLIT.SPLIT n) (s.g (Reg.HEAD.GROUP_SPLIT.SPLIT n) ||| 2 ^ (g - 1))) s, ps, r.2.2 ++ heads)
    else (put { t with waitFrom := some from_ }, hold, r.2.2)

/-- Every group of the heads led by `lead`: the plans that result, and the heads with a group that split.
(DEDUCED, log entry 35) -/
def State.groupsStep (s : State) (lead : Nat) (ps : List (Nat × Plan)) : State × List (Nat × Plan) × List Nat :=
  ((List.range 31).map (fun g => g + 1)).foldl (groupStep lead) (s, ps, [])

/-! ### Latching one slot (R198, R213, R217) -/

/-- What stands in SLOT_STATUS: CAUSE, STATE, FALLBACK, BUF. -/
def State.slotStatus (s : State) (n k cause state : Nat) (fallback buf : Option Nat) : State :=
  s.setReg (Reg.HEAD.SLOT_STATUS.CAUSE n k).addr
    (BitVec.ofNat 32 (cause * 2 ^ 27 + state * 2 ^ 24 + (fallback.getD 0) * 2 ^ 12 + buf.getD 0))

/-- Slot `k` of head `n` set. -/
def State.setSlot (s : State) (n k : Nat) (t : SlotState) : State :=
  let h := s.head n
  s.setHead n { h with slots := Tab.put SlotState.reset k t h.slots }

/-- A slot latched as its plan says, or refused for the frame; whether this is the first latch point of a refusal.
(DEDUCED, log entry 34) -/
def State.latchSlot (s : State) (n : Nat) (c : Course) (p : Plan) : State × Bool :=
  let old := (s.head n).slot p.k
  let fallback := match p.pick with
    | some b => some b
    | none => p.held
  let cause := ((p.chase.toList ++ fallback.toList).map (fun b => s.slotCause n c p.use b)).find? (fun x => x != 0)
  let keep := old.source == some p.use.source
  let base : SlotState := { old with
    source := some p.use.source, fell := false
    adv := if keep then old.adv else none
    still := if keep then old.still else none }
  match cause with
  | some x =>
    let s := (s.setSlot n p.k { base with held := none, chase := none, refused := x }).inc (Reg.HEAD.REFUSALS.COUNT n)
    (s.slotStatus n p.k x 6 none none, old.refused == 0)
  | none =>
    let s := s.setSlot n p.k { base with held := fallback, chase := p.chase, refused := 0 }
    let state := if p.wait then 7 else if p.chase.isSome then 4 else if p.pick.isSome then 2
      else if fallback.isSome then 3 else 1
    (s.slotStatus n p.k 0 state (if p.use.rec_.latch = 2 then fallback else none)
      (match p.chase with
        | some b => some b
        | none => fallback), false)

/-! ### Freshness (R253 to R262) -/

/-- Age of the tag of buffer `b` in ns, at a latch point stamped `L` (R254); a tag with a multi-bit error is aged from
its ARRIVAL. -/
def State.tagAge (s : State) (b : Nat) (L : Int) : Nat :=
  if s.timeState = 2 ∧ s.tagBad b = false then (L - (s.tag b).capture).toNat else s.time.count - s.arrival b

/-- The advance record after the judged buffer `b` (R256). -/
def State.advNext (s : State) (b : Nat) (old : Option AdvRecord) : AdvRecord :=
  let t := s.tag b
  let new : AdvRecord := ⟨t.seq, t.capture, s.arrival b, s.time.count, s.timeState⟩
  match old with
  | none => new
  | some a =>
    let later := if s.timeState = 2 then decide (a.cap < t.capture) else decide (a.count < s.arrival b)
    if seqNewer t.seq a.seq && (a.tstate != s.timeState || later) then new else { a with tstate := s.timeState }

/-- The still record after the judged buffer `b` (R257). -/
def State.stillNext (s : State) (b : Nat) (old : Option (Nat × Nat)) : Nat × Nat :=
  let g := (s.tag b).sig
  match old with
  | none => (g, s.time.count)
  | some o => if o.1 = g then o else (g, s.time.count)

/-- The slot's records after the evaluation, cleared while it holds no buffer (R256, R257). -/
def State.slotRecords (s : State) (t : SlotState) : SlotState :=
  match t.held with
  | none => { t with adv := none, still := none }
  | some b =>
    if s.tagBad b then t
    else { t with adv := some (s.advNext b t.adv), still := some (s.stillNext b t.still) }

/-- What the policy does with the defect flags a tag carries: 0 nothing, 1 WARN, 2 REPLACE (R255, R264). -/
def defectAction (p : Policy) (flags : Nat) : Nat :=
  let f := fun (bit act : Nat) => if flags &&& bit = 0 then 0 else act
  max (f Fl.concealed p.concealed) (max (f Fl.incomplete p.incomplete) (f Fl.truncated p.truncated))

/-- A slot that passed or failed: its mask of failed checks, and whether one calls for REPLACE (R255, R264). -/
structure Verdict where
  mask    : Nat
  replace : Bool
deriving DecidableEq, Repr

/-- The checks of R255 on a slot, with its records as they stand. A tag with a multi-bit error fails as DEFECT (R32), in the style that
the flags it holds call for (R264).
(DEDUCED, log entry 14) -/
def State.judge (s : State) (u : SlotUse) (t : SlotState) (L : Int) : Verdict :=
  match t.held with
  | none => if t.refused = 1 then ⟨2, true⟩ else if t.refused ≠ 0 then ⟨1, true⟩ else ⟨4, true⟩
  | some b =>
    let act := defectAction u.pol (s.tag b).flags
    if s.tagBad b then ⟨64, act == 2⟩
    else
      let lc := s.time.count
      let age := decide (0 < u.budget) && decide (1000000 * u.budget < s.tagAge b L)
      let adv := decide (0 < u.pol.advance) &&
        decide (1000000 * u.pol.advance < lc - ((t.adv.map (fun a => a.at_)).getD lc))
      let still := decide (0 < u.pol.still) &&
        decide (1000000000 * u.pol.still < lc - ((t.still.map (fun a => a.2)).getD lc))
      let lock := u.pol.lock && s.timeState != 2
      ⟨(if age then 8 else 0) + (if adv then 16 else 0) + (if still then 32 else 0) + (if act = 0 then 0 else 64) +
        (if lock then 128 else 0), (act == 2) || (!u.pol.dim && (age || adv || still || lock))⟩

/-- The number of the first check that applies: the reason word shown (R255). -/
def firstReason (mask : Nat) : Nat := (((List.range 8).find? (fun i => bitOf mask i)).map (fun i => i + 1)).getD 0

/-- The placard of a slot after its verdict (R258, R262, R264).
(DEDUCED, log entry 34) -/
def SlotState.placardStep (t : SlotState) (u : SlotUse) (v : Verdict) : SlotState :=
  let shown := fun (t : SlotState) => { t with hidden := t.reason != 0 && !u.win.placard && decide (2 < t.reason) }
  if v.mask ≠ 0 then shown { t with reason := firstReason v.mask, replace := v.replace, passes := 0 }
  else if t.reason = 0 then t
  else if t.reason ≤ 3 ∨ u.pol.clear ≤ t.passes + 1 then
    { t with reason := 0, replace := false, passes := 0, hidden := false }
  else shown { t with passes := t.passes + 1 }

/-- What a slot shows of its failure: 0 nothing, 1 a placard, 2 a hidden failure (R261, R262). -/
def SlotState.failure (t : SlotState) : Nat := if t.reason = 0 then 0 else if t.hidden then 2 else 1

/-- A slot evaluated at a latch point stamped `L`: its state and FRS.SLOT words; whether a placard or hidden failure
began, and whether one ended, as both do where one turns into the other (R261). -/
def State.evalSlot (s : State) (n : Nat) (u : SlotUse) (k : Nat) (L : Int) : State × Bool × Bool :=
  let old := (s.head n).slot k
  let t := s.slotRecords old
  let v := s.judge u t L
  let age := match t.held with
    | none => 0
    | some b => s.tagAge b L / 1000000
  let t := { t.placardStep u v with ageMs := age, mark := u.win.placard && s.timeState != 2 }
  let left := if t.reason = 0 then 0 else if t.reason ≤ 3 then 1 else u.pol.clear - t.passes
  let w := (if t.reason ≠ 0 ∧ t.hidden = false then 2 ^ 31 else 0) + (if t.hidden then 2 ^ 30 else 0) +
    (if t.reason ≠ 0 ∧ t.replace = false then 2 ^ 29 else 0) + (if t.mark then 2 ^ 28 else 0) + t.reason * 2 ^ 24 +
    left * 2 ^ 16 + v.mask
  (((s.setSlot n k t).setReg (Reg.FRS.SLOT.PLACARD n k).addr (BitVec.ofNat 32 w)).p (Reg.FRS.SLOT.AGE_MS n k)
      (min (2 ^ 32 - 1) age), t.failure != 0 && old.failure != t.failure, old.failure != 0 && old.failure != t.failure)

/-- A slot that is not evaluated: its state and words return to nothing; whether its placard ends (R253).
(DEDUCED, log entry 33) -/
def State.dropSlot (s : State) (n k status : Nat) : State × Bool :=
  let old := (s.head n).slot k
  ((((s.setSlot n k SlotState.reset).slotStatus n k 0 status none none).setReg
      (Reg.FRS.SLOT.PLACARD n k).addr 0).p (Reg.FRS.SLOT.AGE_MS n k) 0, old.reason != 0)

/-- Every slot of head `n` that its plans leave out: unused. -/
def State.dropUnused (s : State) (n : Nat) (ps : List Plan) : State × Bool :=
  ((List.range 32).filter (fun k => !(ps.any (fun p => p.k == k)))).foldl
    (fun r k => let x := r.1.dropSlot n k 0; (x.1, r.2 || x.2)) (s, false)

/-- The slots placarded and hidden of head `n`. -/
def State.placardCounts (s : State) (n : Nat) : Nat × Nat :=
  (List.range 32).foldl (fun c k =>
    let t := (s.head n).slot k
    if t.reason = 0 then c else if t.hidden then (c.1, c.2 + 1) else (c.1 + 1, c.2)) (0, 0)

/-- The greatest age in whole ms among layers `ks` of head `n` (R271). -/
def State.maxAge (s : State) (n : Nat) (ks : List Nat) : Nat :=
  ks.foldl (fun a k => max a ((s.head n).slot k).ageMs) 0

/-- MAX_AGE_MS of head `n` by layers `ks`. -/
def State.showAge (s : State) (n : Nat) (ks : List Nat) : State :=
  s.p (Reg.FRS.HEAD.MAX_AGE_MS n) (min (2 ^ 32 - 1) (s.maxAge n ks))

/-- The buffers that head `n` latches, each once (R220). -/
def State.latchedBufs (s : State) (n : Nat) : List Nat :=
  ((List.range 32).foldl (fun l k => l ++ ((s.head n).slot k).held.toList ++ ((s.head n).slot k).chase.toList) []).dedup

/-- Steps 3 to 7 of R211 for head `n` under its plans: the state, and the causes raised. -/
def State.latchHead (s : State) (n : Nat) (ps : List Plan) (L : Int) : State × Nat :=
  let c := match s.headPage n with
    | none => ⟨[], none, []⟩
    | some p => s.course p n
  let a := s.dropUnused n ps
  let b := ps.foldl (fun r p => let x := r.1.latchSlot n c p; (x.1, r.2 || x.2)) (a.1, false)
  let e := ps.foldl (fun r p =>
    let x := r.1.evalSlot n p.use p.k L
    (x.1, r.2.1 || x.2.1, r.2.2 || x.2.2)) (b.1, false, a.2)
  let s := e.1.updateLeases n (e.1.latchedBufs n)
  let k := s.placardCounts n
  let s := (s.p (Reg.FRS.HEAD.PLACARDED n) k.1).p (Reg.FRS.HEAD.HIDDEN n) k.2
  let s := if k.1 + k.2 = 0 then s else s.inc (Reg.FRS.HEAD.PLACARD_FRAMES n)
  (s, (if b.2 then HC.layerRefused else 0) + (if e.2.1 then HC.placardOn else 0) + (if e.2.2 then HC.placardOff else 0))

/-- The frame that head `n` composes after this latch point: what takes effect with it (R247, R267, R269), and the greatest age of the
layers to be visible in it (R226, R271). -/
def State.frameBegin (s : State) (n : Nat) : State :=
  let h := s.head n
  let f : HeadFrame := {
    HeadFrame.reset with
    colour := s.underrunColour n, ttEn := s.gb (Reg.FRS.HEAD.TT_EN n), ttX := s.g (Reg.FRS.HEAD.TT_X n)
    ttY := s.g (Reg.FRS.HEAD.TT_Y n), scale := s.g Reg.FRS.CTRL.LABEL_SCALE_M1 + 1, marks := h.frame.marks
    untrusted := s.timeState != 2 }
  let s := s.setHead n { h with frame := f, stores := [] }
  s.showAge n (s.visibleLayers n)

end Sys2Proof.Machine
end

