-- ==== Sys2Proof/Machine/Scan.lean ====
section
/-! DEFINITION. Composing and scanning a frame: prefetch, lines, CHASE fallback, escalation, underruns, the overlay, the
write-back, the vitrine check, the frame CRC and the seal (R23, R53, R208, R209, R214, R224 to R226, R244 to R252, R270,
R271, R523). -/

namespace Sys2Proof.Machine

/-- Head `n` with frame `f`. -/
def State.setFrame (s : State) (n : Nat) (f : HeadFrame) : State := s.setHead n { s.head n with frame := f }

/-! ### CHASE (R214) -/

/-- The rows of the picture of buffer `b` that slot `u` needs on line `y` (R190, R197). -/
def State.rowsWanted (s : State) (n : Nat) (u : SlotUse) (b y : Nat) : List Nat :=
  let p := s.slotPic n u b
  let inter := s.interlaced u.source
  let field := s.g (Reg.ING.BUF.FIELD b)
  if u.rec_.graphic then (graphicRow u.rec_ p inter field y).toList else tapRows u.rec_ p inter field y

/-- What slot `k` of head `n`, which shows buffer `b`, has fetched already when band `d` composes a line: the rows it kept from
the line before where the buffer, LS_BASE and LS_LEN are the same (R199); a graphic slot keeps none.
(DESIGN CHOICE, log entry 38) -/
def State.storeKept (s : State) (n k : Nat) (e : Nat) (b : Nat) : LineStore :=
  let t := (s.head n).store k
  let same := t.buf == some b && t.base == ceLsBase e && t.len == ceLsLen e && decide (k < 24)
  ⟨ceLsBase e, ceLsLen e, some b, if same then t.rows else []⟩

/-- The rows that slot `u`, `k` of head `n`, fetches from buffer `b` for line `y` of a band whose first span of the slot is `e`. -/
def State.rowsToFetch (s : State) (n k : Nat) (u : SlotUse) (e b y : Nat) : List Nat :=
  let t := s.storeKept n k e b
  (s.rowsWanted n u b y).filter (fun r => !(t.rows.any (fun x => x.1 == r)))

/-- The leading rows that the chase buffer `b` must hold before line `y` of a slot is fetched: those with which the lowest tap row is
complete, in rows of the full picture also for a reduced copy, and the margin (R142, R214).
(DEDUCED, log entry 36) -/
def State.chaseNeed (s : State) (n : Nat) (u : SlotUse) (b y : Nat) : Nat :=
  let row := (s.rowsWanted n u b y).foldl max 0
  min (s.bufPic b).h ((row + 1) * 2 ^ u.rec_.reduced) + u.rec_.margin

/-- Whether slot `k` of head `n`, which draws on line `y` of band `d`, falls back there: its chase buffer left FILLING other than for
READY, or is FILLING without the rows for a fetch of the line (R214).
(DEDUCED, log entry 36) -/
def State.chaseFails (s : State) (n : Nat) (d : Band) (y k : Nat) : Bool :=
  let t := (s.head n).slot k
  match s.slotUse n k, t.chase, (slotSpans d k).head? with
  | some u, some b, some e =>
    !t.fell && t.refused == 0 && !t.hidden &&
      (s.bufState b == Bs.free ||
        (s.bufState b == Bs.filling && !(s.rowsToFetch n k u e b y).isEmpty &&
          decide (s.g (Reg.ING.BUF.ROW_MARK b) < s.chaseNeed n u b y)))
  | _, _, _ => false

/-- Slot `k` of head `n` falls back for the rest of the frame; the frame counts one fallback. -/
def State.chaseFall (s : State) (n k : Nat) : State :=
  let t := (s.head n).slot k
  let f := (s.head n).frame
  let s := (s.setSlot n k { t with fell := true }).p (Reg.HEAD.SLOT_STATUS.STATE n k) 5
  if f.fellBack then s
  else ((s.setFrame n { f with fellBack := true }).inc (Reg.HEAD.CHASE_FALLBACKS.COUNT n)).raiseHead n HC.chaseFallback

/-- Every slot of head `n` that cannot fetch line `y` of band `d` from its chase buffer falls back.
(DEDUCED, log entry 36) -/
def State.chaseLine (s : State) (n : Nat) (d : Band) (y : Nat) : State :=
  ((List.range 32).filter (fun k => s.chaseFails n d y k)).foldl (fun s k => s.chaseFall n k) s

/-! ### The fetch FIFO (R245) -/

/-- A fill of `f` bytes of the fetch FIFO of head `n` while it composes. -/
def State.fifoFill (s : State) (n f : Nat) : State :=
  let s := s.setFrame n { (s.head n).frame with fill := f }
  let s := s.p (Reg.HEAD.FIFO_MIN.MIN n) (min (s.g (Reg.HEAD.FIFO_MIN.MIN n)) (f / 64))
  if s.gb (Reg.HEAD.STATUS.ESCALATED n) then
    if 64 * s.g (Reg.HEAD.FIFO_WM.FIFO_HI n) ≤ f then s.pb (Reg.HEAD.STATUS.ESCALATED n) false else s
  else if f < 64 * s.g (Reg.HEAD.FIFO_WM.FIFO_LO n) then
    (s.pb (Reg.HEAD.STATUS.ESCALATED n) true).inc (Reg.HEAD.ESCALATIONS.COUNT n)
  else s

/-! ### Fetching rows (R186, R199, R244, R245) -/

/-- What a head fetches for a line: its line stores, and whether a fetch had an error response, with which the rest of the line is
given up (R247, R399). -/
structure FetchState where
  at_    : State
  stores : Tab LineStore
  failed : Bool
deriving DecidableEq, Repr

/-- Row `y` of a picture fetched by head `n` at QoS `own`, or at 15 while it is escalated, as one transfer in which the memory's ECC
finds `e`; none where a burst had an error response.
(DESIGN CHOICE, log entry 38) -/
def State.fetchRow (s : State) (n own : Nat) (p : Pic) (y : Nat) (e : EccFind) : State × Option (List Nat) :=
  let r := s.fetchRead (20 + n / 16) own (s.gb (Reg.HEAD.STATUS.ESCALATED n)) (p.addr + y * p.pitch) (rowBytes p.fmt p.w) e
  let vs := (List.range p.w).map (pixelIn p.fmt (fun o k => leNat ((r.2.1.drop o).take k)))
  (r.1, if r.2.2 then some (vs.map Sample.code) else none)

/-- The rows `ys` of a picture fetched in order into a line store, those that `finds` names by their place with what the memory's ECC
finds, up to the first that fails; whether one failed. -/
def State.fetchRows (s : State) (n own : Nat) (p : Pic) (finds : List (Nat × EccFind)) (t : LineStore) :
    List (Nat × Nat) → State × LineStore × Bool
  | [] => (s, t, false)
  | (i, y) :: rest =>
    let r := s.fetchRow n own p y (((finds.find? (fun f => f.1 == i)).map (fun f => f.2)).getD .clean)
    match r.2 with
    | none => (r.1, t, true)
    | some vs => r.1.fetchRows n own p finds { t with rows := Tab.put [] y vs t.rows } rest

/-- The fetch of slot `k` of head `n` for line `y` of band `d`: the rows it lacks are read, and those the line does not need are
given up. A slot that draws nothing fetches nothing; after a fetch that failed nothing more is fetched, and a slot keeps what it has. -/
def fetchSlot (n : Nat) (d : Band) (y : Nat) (finds : List FetchFind) (f : FetchState) (k : Nat) : FetchState :=
  let s := f.at_
  let t := (s.head n).slot k
  match s.slotUse n k, t.shown, (slotSpans d k).head? with
  | some u, some b, some e =>
    if t.refused ≠ 0 ∨ t.hidden = true then f
    else if f.failed then { f with stores := Tab.put LineStore.reset k ((s.head n).store k) f.stores }
    else
      let mine := (finds.filter (fun (x : FetchFind) => x.slot.val == k)).map (fun (x : FetchFind) => (x.fetch, x.find))
      let r := s.fetchRows n (ceQos e) (s.slotPic n u b) mine (s.storeKept n k e b)
        ((s.rowsToFetch n k u e b y).zipIdx.map (fun x => (x.2, x.1)))
      let want := s.rowsWanted n u b y
      { at_ := r.1, failed := r.2.2
        stores := Tab.put LineStore.reset k { r.2.1 with rows := r.2.1.rows.filter (fun x => want.contains x.1) } f.stores }
  | _, _, _ => f

/-- Every fetch of head `n` for line `y` of band `d`, in slot order, and whether one failed; a slot with no span in the band keeps
nothing. -/
def State.fetchLine (s : State) (n : Nat) (d : Band) (y : Nat) (finds : List FetchFind) : State × Bool :=
  let f := (List.range 32).foldl (fetchSlot n d y finds) ⟨s, [], false⟩
  (f.at_.setHead n { f.at_.head n with stores := f.stores }, f.failed)

/-! ### Underruns (R247) -/

/-- A line of head `n` underran: counted, and the first of the frame raised. -/
def State.countUnderrun (s : State) (n : Nat) : State :=
  let f := (s.head n).frame
  let s := (s.inc (Reg.HEAD.UNDERRUNS.LINES n)).noteHealth 0x200
  if f.underran then s
  else ((s.setFrame n { f with underran := true }).inc (Reg.HEAD.UNDERRUN_FRAMES.FRAMES n)).raiseHead n HC.underrun

/-! ### Write-back (R224 to R226) -/

/-- A pixel in the narrow-range matrix of a write-back format, its coefficients as S4.12 (R225).
(PRESUMED, log entry 28) -/
def wbYcc (bt2020 : Bool) (w : Nat) : Nat × Nat × Nat :=
  let c := wordRgb w
  let row := fun (a b d : Int) (o : Int) =>
    (clampInt 0 1023 ((a * c.1 + b * c.2.1 + d * c.2.2 + 2048) / 4096 + o)).toNat
  if bt2020 then (row 921 2378 208 64, row (-501) (-1293) 1794 512, row 1794 (-1649) (-144) 512)
  else (row 746 2509 253 64, row (-411) (-1383) 1794 512, row 1794 (-1629) (-164) 512)

/-- The samples of one written row (R225): RGB10, or 4:2:2 with co-sited chroma filtered by [1 2 1] / 4. -/
def wbRow (fmt : Nat) (px : List Nat) : List Sample :=
  if fmt = 0 then px.map (fun w => let c := wordRgb w; ⟨0, c.1, c.2.1, c.2.2⟩)
  else
    let v := px.map (wbYcc (fmt == 2))
    let at_ := fun (i : Nat) => v.getD (min i (v.length - 1)) (0, 0, 0)
    let mix := fun (g : Nat × Nat × Nat → Nat) (x : Nat) => (g (at_ (x - 1)) + 2 * g (at_ x) + g (at_ (x + 1)) + 2) / 4
    (List.range v.length).map (fun x =>
      let even := x - x % 2
      ⟨0, (at_ x).1, if x % 2 = 0 then mix (fun q => q.2.1) even else mix (fun q => q.2.2) even, 0⟩)

/-- Two rows box-averaged to half width, an odd last column replicated (R225). -/
def halfRow (a b : List Nat) : List Nat :=
  (List.range ((a.length + 1) / 2)).map (fun i =>
    let q := fun (l : List Nat) (j : Nat) => wordRgb (l.getD (min j (l.length - 1)) 0)
    let p := [q a (2 * i), q a (2 * i + 1), q b (2 * i), q b (2 * i + 1)]
    let avg := fun (g : Nat × Nat × Nat → Nat) => ((p.map g).sum + 2) / 4
    rgbWord (avg (fun c => c.1), avg (fun c => c.2.1), avg (fun c => c.2.2)))

/-- The write-back of head `n` set. -/
def State.setWb (s : State) (n : Nat) (w : Option WbState) : State := s.setHead n { s.head n with wb := w }

/-- Line `y` of the frame, as it stands at the write-back tap, written (R224, R225). -/
def State.wbLine (s : State) (n y : Nat) (px : List Nat) : State :=
  match (s.head n).wb with
  | none => s
  | some w =>
    let half := s.gb (Reg.HEAD.WB_CTRL.HALF n)
    if half && y % 2 == 0 && decide (y + 1 < s.activeH n) then s.setWb n (some { w with keep := px })
    else
      let row := if half then y / 2 else y
      let out := if half then halfRow (if y % 2 = 0 then px else w.keep) px else px
      let vs := wbRow (s.g (Reg.HEAD.WB_CTRL.FORMAT n)) out
      let s := s.setWb n (some { w with rows := keepRow vs.length 0 row vs w.rows })
      let s := (s.writePixels 24 (s.g (Reg.HEAD.WB_CTRL.WB_QOS n)) (s.bufPic w.buf) 0 row vs).1
      s.p (Reg.ING.BUF.ROW_MARK w.buf) (row + 1)

/-- The buffers of the visible layers of the frame, as the lines composed have shown them (R226). -/
def State.layerBufs (s : State) (n : Nat) : List Nat :=
  (s.head n).frame.layers.filterMap (fun k => ((s.head n).slot k).held)

/-- The tag of the write-back frame of head `n` (R226). -/
def State.wbTag (s : State) (n : Nat) (w : WbState) : Tag :=
  let tags := (s.layerBufs n).map (fun b => s.tag b)
  let mask := Fl.captArrival + Fl.concealed + Fl.incomplete + Fl.truncated + Fl.overlong + Fl.divergent + Fl.tail
  let got := tags.foldl (fun f t => f ||| (t.flags &&& mask)) 0 |||
    (if (s.head n).frame.underran then Fl.incomplete else 0)
  { source := w.entry
    flags := got ||| Fl.writeback ||| (if got &&& Fl.captArrival = 0 then Fl.captSrc else 0)
    seq := w.seq
    capture := match tags with
      | [] => (s.head n).flip
      | t :: ts => ts.foldl (fun c u => min c u.capture) t.capture
    ready := s.wall
    sig := (let p := s.bufPic w.buf; keptSignature p.fmt p.w p.h w.rows) }

/-- The write-back frame of head `n` closes (R113, R226). -/
def State.wbClose (s : State) (n : Nat) : State :=
  match (s.head n).wb with
  | none => s
  | some w =>
    let arrival := match s.layerBufs n with
      | [] => w.count
      | a :: as => as.foldl (fun c x => min c (s.arrival x)) (s.arrival a)
    let s := ((s.setArrival w.buf arrival).closeBuf w.buf (s.wbTag n w)).setWb n none
    let s := ((s.inc (Reg.HEAD.WB_STATUS.FRAMES n)).p (Reg.HEAD.WB_STATUS.LAST_BUF n) w.buf).p
      (Reg.HEAD.WB_STATUS.RESULT n) 0
    (s.inc (Reg.ING.SRC.FRAMES w.entry)).filled w.entry w.buf

/-- Whether entry `i` can take the write-back of head `n`: an enabled HOST entry whose buffers have its format and size
(R224). -/
def State.wbSuits (s : State) (n i : Nat) : Bool :=
  let half := s.gb (Reg.HEAD.WB_CTRL.HALF n)
  let side := fun v => if half then (v + 1) / 2 else v
  s.gb (Reg.ING.SRC.ENABLE i) && s.g (Reg.ING.SRC.TYPE i) == 6 &&
    (s.ring i).all (fun b =>
      let p := s.bufPic b
      p.fmt == (if s.g (Reg.HEAD.WB_CTRL.FORMAT n) = 0 then 1 else 0) && p.w == side (s.activeW n) &&
        p.h == side (s.activeH n))

/-- The write-back of the frame that head `n` is to compose begins, or finds no buffer or no suitable entry (R112, R224,
R252). -/
def State.wbBegin (s : State) (n : Nat) : State :=
  if !s.gb (Reg.HEAD.WB_CTRL.ENABLE n) then s
  else
    let i := s.g (Reg.HEAD.WB_CTRL.SRC n)
    if !s.wbSuits n i then s.p (Reg.HEAD.WB_STATUS.RESULT n) 2
    else
      let s := s.inc (Reg.ING.SRC.SEQUENCE i)
      match s.nextClaim (s.ring i) (s.src i).lastPos with
      | none => (s.inc (Reg.ING.SRC.RING_DROP i)).p (Reg.HEAD.WB_STATUS.RESULT n) 1
      | some (_, b) =>
        (s.claim b 0 s.time.count).setWb n (some ⟨i, b, s.g (Reg.ING.SRC.SEQUENCE i), s.time.count, [], []⟩)

/-- A write-back that its frame leaves unfinished: the buffer returns to FREE. -/
def State.wbDrop (s : State) (n : Nat) : State :=
  match (s.head n).wb with
  | none => s
  | some w => (s.unclaim w.buf).setWb n none

/-! ### The vitrine check (R208, R209) -/

/-- The bytes of content rows `a` to `z` − 1 of a region. -/
def State.vitRows (s : State) (v : VitDesc) (a z : Nat) : List Byte :=
  ((List.range (z - a)).map (fun i => s.bytes (0x1400000 + v.pixels + (a + i) * v.pitch) (v.w * v.size))).flatten

/-- What head `n` has read of region `z` once it has read for line `y`: the descriptor and the palette on the region's first line, each
content row on the line that draws it, on the region's last active line the rows that it clips; the CRC takes them in the order of
R208. A region below the active area is not read.
(DESIGN CHOICE, log entry 94) -/
def State.vitRead (s : State) (n y : Nat) (z : VitZone) (r : VitScan) : VitScan :=
  let d := s.regionDesc n z
  let last := min z.y1 (s.activeH n - 1)
  if z.y0 ≤ y ∧ y ≤ last then
    let r : VitScan := if y = z.y0 then
        let bs := s.bytes (0x1400000 + d) 32
        let v := descOf bs
        if vitGood z.index d v then
          ⟨bs, if v.indexed then s.bytes (0x1400000 + v.palette) 1024 else [], crcUpdate 0xFFFFFFFF bs⟩
        else ⟨bs, [], 0xFFFFFFFF⟩
      else r
    let v := descOf r.desc
    let top := z.y0 + v.yOff
    if vitGood z.index d v then
      { r with crc := crcUpdate r.crc (
          (if top ≤ y ∧ y - top < v.h then s.vitRows v (y - top) (y - top + 1) else []) ++
            (if y = last then s.vitRows v (y + 1 - top) v.h ++ r.palette else [])) }
    else r
  else r

/-- What head `n` has read of its regions once it has read for line `y`. -/
def State.vitLine (s : State) (n y : Nat) : Tab VitScan :=
  (s.headRegions n).foldl (fun t z =>
    Tab.put VitScan.reset z.index (s.vitRead n y z (Tab.get VitScan.reset z.index t)) t) (s.head n).frame.vit

/-- What a frame's vitrine reads show of head `n`: the regions drawn, those of a bad descriptor, those that mismatch. A region that lies
below the active area is read no further than its descriptor, and shows no more than whether that is bad (R209). -/
def State.vitCheck (s : State) (n : Nat) : Nat × Nat × Nat :=
  (s.headRegions n).foldl (fun r z =>
    let d := s.regionDesc n z
    let t := Tab.get VitScan.reset z.index (s.head n).frame.vit
    let read := !t.desc.isEmpty
    if !vitGood z.index d (if read then descOf t.desc else s.vitDesc d) then (r.1, r.2.1 ||| 2 ^ z.index, r.2.2)
    else if !read then r
    else (r.1 ||| 2 ^ z.index, r.2.1,
      if t.crc ^^^ 0xFFFFFFFF = s.g (Reg.HEAD.VIT_REF.CRC n z.index) then r.2.2 else r.2.2 ||| 2 ^ z.index)) (0, 0, 0)

/-- VIT_STATUS after a frame of head `n`, with EV_VITRINE_MISMATCH where a region is bad or mismatches. -/
def State.vitFrame (s : State) (n : Nat) : State :=
  let v := s.vitCheck n
  let s := s.p (Reg.HEAD.VIT_STATUS.ACTIVE n) v.1
  let s := s.p (Reg.HEAD.VIT_STATUS.BAD_DESC n) (s.g (Reg.HEAD.VIT_STATUS.BAD_DESC n) ||| v.2.1)
  let s := s.p (Reg.HEAD.VIT_STATUS.MISMATCH n) (s.g (Reg.HEAD.VIT_STATUS.MISMATCH n) ||| v.2.2)
  if v.2.1 ||| v.2.2 = 0 then s else s.raise Ev.vitrineMismatch (n + 256 * (v.2.1 ||| v.2.2))

/-! ### One line (R53, R54, R186, R244, R247, R523) -/

/-- The marks of band `b`, executed on its first line in the first frame under a page (R53). -/
def State.syncMarks (s : State) (n : Nat) (b : Band) : State :=
  b.marks.foldl (fun s m =>
    ((s.p Reg.SEQ.MARK.MARK m).p Reg.SEQ.MARK.HEAD n).pb Reg.SEQ.MARK.VALID true) s

/-- The oldest line of the output buffer of head `n` scanned: through the overlay stage, the write-back tap, the output matrix and
dither, into the frame CRC (R186, R203, R204, R270).
(DESIGN CHOICE, log entry 38) -/
def State.scanOne (s : State) (n : Nat) : State :=
  let f := (s.head n).frame
  match f.ahead with
  | [] => s
  | codes :: rest =>
    let y := f.scanned
    let zs := s.headRegions n
    let s := s.setFrame n { f with vit := s.vitLine n y }
    let tap := codes.zipIdx.map (fun e => s.overlay n zs y e.2 e.1)
    let s := s.wbLine n y tap
    let out := tap.zipIdx.map (fun e => s.outPixel n y e.2 e.1)
    let f := (s.head n).frame
    s.setFrame n { f with
      ahead := rest, scanned := y + 1, line := out, crc := crcUpdate f.crc ((out.map (fun v => leBytes v 4)).flatten) }

/-- The oldest `k` lines of the output buffer of head `n` scanned. -/
def State.scanLines (s : State) (n k : Nat) : State := (List.range k).foldl (fun s _ => s.scanOne n) s

/-- Lines of `w` pixels that the output buffer of 8,192 pixels holds (R244). -/
def bufferLines (w : Nat) : Nat := 8192 / w

/-- The next line of the frame of head `n` composed into the output buffer, which holds nothing from pixel `cutAt` on where that is
given (R247). A full buffer waits until its oldest line has been scanned (R244). Once a line was cut by a stopped course
sequencer, the rest of that frame is (R23). A line of which a fetch had an error response is an underrun line (R399). The layers that
draw on it are visible (R226).
(DESIGN CHOICE, log entry 38) -/
def State.composeNext (s : State) (n : Nat) (cutAt : Option Nat) (finds : List FetchFind) : State :=
  let w := s.activeW n
  let s := s.scanLines n ((s.head n).frame.ahead.length + 1 - bufferLines w)
  let y := (s.head n).frame.nextLine
  let P := s.page ((s.headPage n).getD 0)
  let c : Course := match s.headPage n with
    | none => ⟨[], none, []⟩
    | some p => s.course p n
  let band := c.bands.find? (fun b => decide (b.first ≤ y ∧ y < b.first + b.count))
  let stopped := s.executes n && ((s.head n).frame.cut || !s.engRunning (18 + n / 16))
  let bad := (c.lost.any (fun l => decide (l ≤ y))) || (band.any (fun b => b.bad))
  let s := if stopped then s.setFrame n { (s.head n).frame with cut := true } else s
  let r := match band with
    | some b =>
      let s := if stopped then s else s.chaseLine n b y
      let s := if (s.head n).frame.marks && !stopped && y == b.first then s.syncMarks n b else s
      if stopped || bad then (s, false) else s.fetchLine n b y finds
    | none => (s, false)
  let s := r.1
  let colour := (s.head n).frame.colour
  let stop := if stopped || bad || r.2 then 0 else cutAt.getD w
  let codes := if stop = 0 then List.replicate w colour
    else (s.composedLine n P band y).take stop ++ List.replicate (w - stop) colour
  let s := if stop < w then s.countUnderrun n else s
  let f := (s.head n).frame
  let shown := match band with
    | none => []
    | some b => (List.range 32).filter (fun k => !f.layers.contains k &&
        s.drawsOn (fun _ _ => ((s.head n).store k).px) n P b y stop k)
  let s := s.setFrame n { f with nextLine := y + 1, ahead := f.ahead ++ [codes], layers := f.layers ++ shown }
  if y + 1 = s.activeH n then s.pb (Reg.HEAD.STATUS.ESCALATED n) false else s

/-- Whether head `n` runs and has lines of the frame still to compose. -/
def State.composes (s : State) (n : Nat) : Bool :=
  s.coreOn && s.g (Reg.HEAD.STATUS.RUN_STATE n) == 2 && (s.head n).frame.composing &&
    decide ((s.head n).frame.nextLine < s.activeH n)

/-- Composition of a frame begins (R244). -/
def prefetch (n : Nat) (s : State) : State :=
  if s.coreOn && s.g (Reg.HEAD.STATUS.RUN_STATE n) == 2 && !(s.head n).frame.composing then
    s.setFrame n { (s.head n).frame with composing := true }
  else s

/-- The next line composed, with what is seen meanwhile: the fills of the fetch FIFO, and what the memory's ECC finds in its fetches.
(DESIGN CHOICE, log entry 38) -/
def composeLine (n : Nat) (seen : FetchSeen) (s : State) : State :=
  if s.composes n then (seen.fills.foldl (fun s f => s.fifoFill n f) s).composeNext n none seen.finds else s

/-- The next line underruns from pixel `x` (R247): every line composed before it has been scanned, and it is scanned as it
stands. -/
def underrun (n x : Nat) (s : State) : State :=
  if s.composes n && decide (x < s.activeW n) then
    ((s.scanLines n (s.head n).frame.ahead.length).composeNext n (some x) []).scanOne n
  else s

/-! ### The end of a frame (R270, R271) -/

/-- Whether the unit acts and no release is pending: ACTIVE of the seal (R293, R361). -/
def State.sealActive (s : State) : Bool := s.gb Reg.CUS.STATUS.ACTING && !s.gb Reg.CUS.STATUS.RELEASE_PENDING

/-- The 16 bytes of the seal of the frame of head `n` that now ends, bits 7:5 of FLAGS at 0 (R271). -/
def State.sealOf (s : State) (n crc : Nat) : List Byte :=
  let f := (s.head n).frame
  let placard := s.g (Reg.FRS.HEAD.PLACARDED n) + s.g (Reg.FRS.HEAD.HIDDEN n)
  let flags := s.sealActive.toNat + 2 * f.untrusted.toNat + (if placard = 0 then 0 else 4) + 8 * f.underran.toNat +
    16 * f.ttEn.toNat
  leBytes (s.g (Reg.HEAD.FRAME.COUNT n)) 4 ++ leBytes crc 4 ++ leBytes (s.g (Reg.FRS.HEAD.MAX_AGE_MS n)) 4 ++
    leBytes flags 2 ++ leBytes n 1 ++ leBytes (s.g Reg.SYS.STRAPS.UNIT_ID) 1

/-- The frame that head `n` scans ends: the lines left in the output buffer, the vitrine check and the write-back, its CRC, whose value is open where not every line was composed, its seal,
and its marks and write-back (R53, R270, R271).
(DESIGN CHOICE, log entry 38) -/
def State.frameEnd (s : State) (n : Nat) : State :=
  let s := s.scanLines n (s.head n).frame.ahead.length
  let s := if s.activeH n ≤ (s.head n).frame.scanned then
      ((s.vitFrame n).wbClose n).showAge n (s.head n).frame.layers
    else s
  let f := (s.head n).frame
  let full := decide (s.activeH n ≤ f.scanned)
  let crc := if full then f.crc ^^^ 0xFFFFFFFF else s.freeNat % 2 ^ 32
  let s := if full then s else s.drawn
  let s := (s.p (Reg.FRS.HEAD.FCRC n) crc).p (Reg.FRS.HEAD.FCRC_FRAME n) (s.g (Reg.HEAD.FRAME.COUNT n))
  let s := s.setHead n { s.head n with sealed := s.sealOf n crc, frame := { f with marks := f.marks && !f.composing } }
  s.wbDrop n

/-! ### The commands -/

/-- PREFETCH_START (R244). -/
def execPrefetchStart (dt : Nat) (n : Fin 64) (s : State) : Out State := .next (prefetch n.val (s.advance dt))

/-- COMPOSE_LINE (R244, R399): what is seen of the fetches while the next line is composed. -/
def execComposeLine (dt : Nat) (n : Fin 64) (seen : FetchSeen) (s : State) : Out State :=
  .next (composeLine n.val seen (s.advance dt))

/-- UNDERRUN (R247): the pixel of the next line from which the fetch FIFO is empty. -/
def execUnderrun (dt : Nat) (n : Fin 64) (x : Nat) (s : State) : Out State := .next (underrun n.val x (s.advance dt))

end Sys2Proof.Machine
end

