-- ==== Sys2Proof/Machine/Heads.lean ====
section
/-! DEFINITION. Heads: pixel clocks, enabling, stopping, sleeping, locked pairs, the edit window and commits, genlock,
the latch point, and their registers (R227 to R248). -/

namespace Sys2Proof.Machine

/-! ### Timing (R228, R229) -/

/-- The frequency in Hz that N, FRAC_NUM, FRAC_DEN and POST give (R476). -/
def pllHz (n num den post : Nat) : Rat := 25000000 * ((n : Rat) + (num : Rat) / (den : Rat)) / (2 ^ post : Nat)

/-- The nominal frequency of a video PLL in Hz (R476). -/
def State.vpllHz (s : State) (k : Nat) : Rat :=
  pllHz (s.g (Reg.CLK.VPLL.N k)) (s.g (Reg.CLK.FRAC_NUM k)) (s.g (Reg.CLK.FRAC_DEN k)) (s.g (Reg.CLK.VPLL.POST k))

/-- The video PLL that head `n` selects. -/
def State.headPll (s : State) (n : Nat) : Nat := s.g (Reg.HEAD.CLK_SEL.PLL_SEL (s.lead n))

/-- The frequency that video PLL `k` gives in Hz: the nominal one times its steering head's trim (R241, R476). -/
def State.vpllOut (s : State) (k : Nat) : Rat := s.vpllHz k * (1 + ((Tab.get 0 k s.clk.trim : Int) : Rat) / 1000000000)

/-- The nominal pixel clock of head `n` in Hz (R228). -/
def State.pixHz (s : State) (n : Nat) : Rat :=
  s.vpllHz (s.headPll n) / ((s.g (Reg.HEAD.CLK_SEL.PIX_DIV_M1 (s.lead n)) + 1 : Nat) : Rat)

/-- The pixel clock of head `n` in Hz as it runs, its video PLL trimmed (R476). -/
def State.pixOut (s : State) (n : Nat) : Rat :=
  s.vpllOut (s.headPll n) / ((s.g (Reg.HEAD.CLK_SEL.PIX_DIV_M1 (s.lead n)) + 1 : Nat) : Rat)

/-- The register of head `n` at offset `off`: as it stands, or with its pending value. -/
def State.headWord (s : State) (pend : Bool) (n off : Nat) : Word :=
  let a := 0x10400000 + 0x1000 * n + off
  if pend then (Tab.get none a (s.head n).pend).getD (s.reg a) else s.reg a

/-- The timing of a head: active, blanking and total of lines and frames, the front porch in lines, the prefetch, the
watermarks. -/
structure Timing where
  hAct   : Nat
  hBlank : Nat
  vAct   : Nat
  vBlank : Nat
  vFront : Nat
  ahead  : Nat
  lo     : Nat
  hi     : Nat
deriving DecidableEq, Repr

/-- The timing of head `n`, its pair leader's where it has one, in force or as the pending set gives it. -/
def State.timing (s : State) (pend : Bool) (n : Nat) : Timing :=
  let l := s.lead n
  let f := fun (off lo : Nat) => fieldGet (s.headWord pend l off) lo 13 + 1
  { hAct := f 0x10 0, hBlank := f 0x10 16 + f 0x14 0 + f 0x14 16, vAct := f 0x18 0
    vBlank := f 0x18 16 + f 0x1C 0 + f 0x1C 16, vFront := f 0x1C 0, ahead := fieldGet (s.headWord pend l 0x20) 0 8
    lo := fieldGet (s.headWord pend n 0x24) 0 10, hi := fieldGet (s.headWord pend n 0x24) 16 10 }

/-- Pixels of a line and lines of a frame. -/
def Timing.hTotal (t : Timing) : Nat := t.hAct + t.hBlank
def Timing.vTotal (t : Timing) : Nat := t.vAct + t.vBlank

/-- Whether a timing meets the limits of R229. -/
def Timing.fits (t : Timing) : Bool :=
  decide (64 ≤ t.hAct ∧ t.hAct ≤ 8192 ∧ 32 ≤ t.hBlank ∧ t.hTotal ≤ 16384 ∧ 16 ≤ t.vAct ∧ t.vAct ≤ 4352 ∧
    t.vTotal ≤ 8192 ∧ 1 ≤ t.ahead ∧ t.ahead ≤ min (t.vBlank - 1) 255 ∧ 1 ≤ t.lo ∧ t.lo < t.hi ∧ t.hi ≤ 512)

/-- The nominal line period of head `n` in ns. -/
def State.lineNs (s : State) (n : Nat) : Rat := ((s.timing false n).hTotal : Rat) * 1000000000 / s.pixHz n

/-- The line period of head `n` in ns as it runs (R476). -/
def State.lineOut (s : State) (n : Nat) : Rat := ((s.timing false n).hTotal : Rat) * 1000000000 / s.pixOut n

/-- The nominal frame period of head `n` in ns. -/
def State.frameNs (s : State) (n : Nat) : Rat := s.lineNs n * ((s.timing false n).vTotal : Rat)

/-- The line that head `n` is in, numbered as R234, by its line period; the last value while its pixel clock is gated (R27).
(DESIGN CHOICE, log entry 38) -/
def State.headLine (s : State) (n : Nat) : Nat :=
  let t := s.timing false n
  if s.g (Reg.HEAD.STATUS.RUN_STATE n) = 2 then
    (t.vAct + (((s.clock - (s.head n).latchClk : Nat) : Rat) / s.lineOut n).floor.toNat) % t.vTotal
  else s.g (Reg.HEAD.STATUS.LINE n)

/-- Whether video PLL `k` is selected by an enabled head, sleeping heads included (R228). -/
def State.vpllUsed (s : State) (k : Nat) : Bool :=
  allHeads.any (fun n => s.gb (Reg.HEAD.CTRL.ENABLE n) && s.headPll n == k)

/-! ### Genlock (R240 to R243) -/

/-- The period of a rate in ns (R240); 0 for NONE. -/
def glPeriod (rate : Nat) : Rat :=
  let m := fun (fps : Nat) => (1000000000 : Rat) / (fps : Rat)
  let d := fun (fps : Nat) => (1001000000 : Rat) / (fps : Rat)
  match rate with
  | 1 => m 24
  | 2 => d 24
  | 3 => m 25
  | 4 => m 30
  | 5 => d 30
  | 6 => m 48
  | 7 => m 50
  | 8 => m 60
  | 9 => d 60
  | 10 => m 100
  | 11 => m 120
  | _ => 0

/-- Whether head `n` aligns: GL_EN at 1 with a RATE. -/
def State.glOn (s : State) (n : Nat) : Bool := s.gb (Reg.HEAD.GL_CTRL.GL_EN n) && s.g (Reg.HEAD.GL_CTRL.RATE n) != 0

/-- A non-negative difference of two rationals. -/
def ratGap (a b : Rat) : Rat := if a ≤ b then b - a else a - b

/-- Whether the frame of head `n` differs from its rate's period by more than TRIM_MAX_PPM (R243). -/
def State.glFar (s : State) (n : Nat) : Bool :=
  let p := glPeriod (s.g (Reg.HEAD.GL_CTRL.RATE n))
  decide (p * (s.g (Reg.HEAD.GL_CTRL.TRIM_MAX_PPM n) : Rat) < 1000000 * ratGap (s.frameNs n) p)

/-- GL_STATE of head `n` and of the head it leads set; LOCK_LOST on head `n` where it leaves LOCKED, but not where a commit
changed GL_EN or RATE (R238, R243).
(DEDUCED, log entry 26) -/
def State.glEnter (s : State) (n new : Nat) : State :=
  let old := s.g (Reg.HEAD.STATUS.GL_STATE n)
  let h := s.head n
  let s := (s.ledBy n).foldl (fun s k => s.p (Reg.HEAD.STATUS.GL_STATE k) new) s
  if old = 2 ∧ new ≠ 2 then
    (s.setHead n { h with glSet := false, lockRun := 0, missRun := 0 }).raiseHead n (if h.glSet then 0 else HC.lockLost)
  else if old = new then s
  else s.setHead n { h with lockRun := 0, missRun := 0 }

/-- GL_STATE of head `n` as its registers and its running decide it; LOCKED and ACQUIRING change at measurements. The head
that another leads takes that one's state (R238). -/
def State.glRefresh (s : State) (n : Nat) : State :=
  if s.lead n ≠ n then s
  else if !s.glOn n || !s.headRuns n then s.glEnter n 0
  else if s.glFar n then s.glEnter n 3
  else if s.g (Reg.HEAD.STATUS.GL_STATE n) = 2 then s
  else s.glEnter n 1

/-- The error e of head `n` in ns, wrapped into [−P/2, P/2) (R241). -/
def State.glError (s : State) (n : Nat) : Rat :=
  let p := glPeriod (s.g (Reg.HEAD.GL_CTRL.RATE n))
  let x := ((s.head n).flip : Rat) + ((s.timing false n).vFront : Rat) * s.lineOut n -
    ((s.gi (Reg.HEAD.GL_OFFSET_NS.OFFSET n) : Int) : Rat)
  x - p * (((x / p + 1 / 2).floor : Int) : Rat)

/-- The measurement at a start of vertical sync (R241, R243).
(DESIGN CHOICE, log entry 37) -/
def glMeasure (n : Nat) (s : State) : State :=
  if s.coreOn && s.lead n == n && s.g (Reg.HEAD.STATUS.RUN_STATE n) == 2 && s.glOn n then
    let e := s.glError n
    let s := s.p (Reg.HEAD.GL_ERROR.E_NS n) (unsigned 32 e.floor)
    if s.g (Reg.HEAD.STATUS.GL_STATE n) = 3 then s
    else
      let h := s.head n
      if ratGap e 0 ≤ (s.g (Reg.HEAD.GL_WINDOW.LOCK_WINDOW_NS n) : Rat) then
        let s := s.setHead n { h with lockRun := h.lockRun + 1, missRun := 0 }
        if 8 ≤ h.lockRun + 1 ∧ s.g (Reg.HEAD.STATUS.GL_STATE n) = 1 then
          (s.glEnter n 2).setHead n { h with lockRun := 8, missRun := 0, glSet := false }
        else s
      else
        let s := s.setHead n { h with lockRun := 0, missRun := h.missRun + 1 }
        if 2 ≤ h.missRun + 1 ∧ s.g (Reg.HEAD.STATUS.GL_STATE n) = 2 then
          let t := s.glEnter n 1
          t.setHead n { t.head n with missRun := h.missRun + 1 }
        else s
  else s

/-- Whether head `n` steers its video PLL (R242): a head of no listed rate does not align, and steers none (R93). -/
def State.glSteers (s : State) (n : Nat) : Bool :=
  (allHeads.find? (fun k => s.lead k == k && s.headPll k == s.headPll n && s.gb (Reg.HEAD.CTRL.ENABLE k) &&
    s.headRuns k && s.glOn k && s.g (Reg.HEAD.STATUS.GL_STATE k) != 3)) == some n

/-- The trim of a video PLL for the next frame (R241): outside the window 1 ppm toward TRIM_MAX_PPM in the direction that
reduces |e|; inside it, a value of the loop, which the spec does not state, within the same limits.
(DESIGN CHOICE, log entry 37) -/
def glNextTrim (now maxPpb e : Int) (outside : Bool) (free : Nat) : Int :=
  let d : Int := if outside then (if 0 < e then 1000 else -1000) else (free % 2001 : Nat) - 1000
  clampInt (-maxPpb) maxPpb (now + d)

/-- The trim changed at a latch point of head `n`, which leads its pair (R241, R242). A video PLL that no head steers runs
untrimmed, as OUT_OF_RANGE has it (R243).
(DESIGN CHOICE, log entry 37) -/
def State.glTrim (s : State) (n : Nat) : State :=
  if !s.glSteers n then
    let s := s.p (Reg.HEAD.GL_TRIM.TRIM_PPB n) 0
    if allHeads.any (fun k => s.headPll k == s.headPll n && s.glSteers k) then s
    else { s with clk := { s.clk with trim := Tab.put 0 (s.headPll n) 0 s.clk.trim } }
  else
    let h := s.head n
    let k := s.headPll n
    let now := Tab.get 0 k s.clk.trim
    if h.lockRun = 0 ∧ h.missRun = 0 then s.p (Reg.HEAD.GL_TRIM.TRIM_PPB n) (unsigned 32 now)
    else
      let t := glNextTrim now (1000 * s.g (Reg.HEAD.GL_CTRL.TRIM_MAX_PPM n)) (s.gi (Reg.HEAD.GL_ERROR.E_NS n))
        (h.missRun != 0) s.freeNat
      let s := if h.missRun = 0 then s.drawn else s
      { s.p (Reg.HEAD.GL_TRIM.TRIM_PPB n) (unsigned 32 t) with clk := { s.clk with trim := Tab.put 0 k t s.clk.trim } }

/-! ### Enabling, stopping, sleeping (R230 to R233, R238) -/

/-- The first check of R230 that head `n` fails, as ENABLE_RESULT codes it; 0 where all pass.
(DEDUCED, log entry 26) -/
def State.enableCheck (s : State) (n : Nat) : Nat :=
  let both := s.ledBy n
  let pix := s.pixHz n
  let others := (allHeads.filter (fun k => s.gb (Reg.HEAD.CTRL.ENABLE k) && !both.contains k)).foldl
    (fun (x : Rat) k => x + s.pixHz k) 0
  if s.lead n ≠ n then 1
  else if bitOf (s.g Reg.CLK.RUNNING) (8 + s.headPll n) = false then 2
  else if 1200000000 < pix then 3
  else if !both.all (fun k => (s.timing false k).fits) then 4
  else if 9600000000 < others + pix * (both.length : Rat) then 5
  else 0

/-- Head `n` starts (R231), after an enable with FRAME at 0, or after a wake with FRAME kept (R233). -/
def State.headStarting (s : State) (n : Nat) (wake : Bool) : State :=
  let s := s.p (Reg.HEAD.STATUS.RUN_STATE n) 1
  let s := if wake then s else s.p (Reg.HEAD.FRAME.COUNT n) 0
  (s.keyHeadStarts n).glRefresh n

/-- A pending commit of head `n` applied (R235, R237 step 2). -/
def State.commitApply (s : State) (n : Nat) : State :=
  let h := s.head n
  let old := s.reg (Reg.HEAD.GL_CTRL.GL_EN n).addr
  let s := h.pend.foldl (fun s e =>
    match e.2 with
    | none => s
    | some w =>
      let m := accessMask .rwk e.1
      s.setReg e.1 ((s.reg e.1 &&& ~~~m) ||| (w &&& m))) s
  let changed := (old ^^^ s.reg (Reg.HEAD.GL_CTRL.GL_EN n).addr) &&& 0xF1 != 0
  let s := s.setHead n { s.head n with pend := [], glSet := h.glSet || changed }
  let s := (s.p (Reg.HEAD.COMMIT_STATUS.RESULT n) 2).pb (Reg.HEAD.STATUS.COMMIT_PENDING n) false
  s.stageCheckArea n

/-- Head `n` stops at its latch point, or where it sleeps already (R232, R233): it latches nothing, ends its leases and
composes nothing. Where a keystone is due it counts as switched, which comes before its amendments and discards them; else they are
applied (R69, R71, R211).
(DEDUCED, log entry 33) -/
def State.headStop (s : State) (n dest : Nat) : State :=
  let due := decide (s.g Reg.SEQ.STATUS.KEY_STATE ≠ 0 ∧ n ∉ s.seq.taken) && s.keyReached
  let s := (if due then s.amendDiscard n else s.amendHead n).wbDrop n
  let r := (List.range 32).foldl (fun (r : State × Bool) k =>
    let x := r.1.dropSlot n k (if (r.1.slotUse n k).isSome then 1 else 0)
    (x.1, r.2 || x.2)) (s, false)
  let s := (if r.2 then r.1.raiseHead n HC.placardOff else r.1).updateLeases n []
  let s := (s.p (Reg.FRS.HEAD.PLACARDED n) 0).p (Reg.FRS.HEAD.HIDDEN n) 0
  let h := s.head n
  let s := s.setHead n { h with frame := { HeadFrame.reset with marks := h.frame.marks }, groups := [] }
  let s := s.p (Reg.HEAD.STATUS.LINE n) (s.headLine n)
  let s := (s.p (Reg.HEAD.STATUS.RUN_STATE n) dest).pb (Reg.HEAD.STATUS.ESCALATED n) false
  ((s.glRefresh n).p (Reg.HEAD.GL_TRIM.TRIM_PPB n) 0).keyHeadGone n

/-- A write of SLEEP and ENABLE of head `n`, which leads its pair (R230 to R233).
(DEDUCED, log entry 26) -/
def headRunWrite (m n : Nat) (v : Word) (s : State) : State :=
  let both := s.ledBy n
  let was := s.gb (Reg.HEAD.CTRL.ENABLE n)
  let on := fieldGet v 0 1 = 1
  let s := both.foldl (fun s k => s.p (Reg.HEAD.CTRL.SLEEP k) (fieldGet v 1 1)) s
  let run := s.g (Reg.HEAD.STATUS.RUN_STATE n)
  if on then
    if !was then
      let r := s.enableCheck n
      let s := s.p (Reg.HEAD.CTRL.ENABLE_RESULT n) r
      if r ≠ 0 then s.logIgnored m (0x10400000 + 0x1000 * n) v
      else
        let s := both.foldl (fun s k => s.pb (Reg.HEAD.CTRL.ENABLE k) true) s
        if run = 0 then both.foldl (fun s k => s.headStarting k false) s else s
    else if run = 3 ∧ fieldGet v 1 1 = 0 then both.foldl (fun s k => s.headStarting k true) s
    else s
  else if was then
    let s := both.foldl (fun s k => s.pb (Reg.HEAD.CTRL.ENABLE k) false) s
    if run = 3 then both.foldl (fun s k =>
      (if s.gb (Reg.HEAD.STATUS.COMMIT_PENDING k) then s.commitApply k else s).p (Reg.HEAD.STATUS.RUN_STATE k) 0) s
    else s
  else s

/-- A write that would change PAIR of the even head `n` (R238). -/
def pairWrite (m n : Nat) (v : Word) (s : State) : State :=
  if n % 2 = 0 ∧ fieldGet v 2 1 ≠ s.g (Reg.HEAD.CTRL.PAIR n) then
    if s.gb (Reg.HEAD.CTRL.ENABLE n) || s.gb (Reg.HEAD.CTRL.ENABLE (n + 1)) then
      s.logIgnored m (0x10400000 + 0x1000 * n) v
    else (s.p (Reg.HEAD.CTRL.PAIR n) (fieldGet v 2 1)).stageCheckPair n
  else s

/-- A write of HEAD[n].CTRL (R230 to R233, R238): on HEAD[2k + 1] of a locked pair it is ignored and logged, and a 1 to
ENABLE fails with PAIR_MEMBER. -/
def headCtrlWrite (m n : Nat) (v : Word) (s : State) : State :=
  if s.lead n ≠ n then
    (if fieldGet v 0 1 = 1 then s.p (Reg.HEAD.CTRL.ENABLE_RESULT n) 1 else s).logIgnored m (0x10400000 + 0x1000 * n) v
  else headRunWrite m n v (pairWrite m n v s)

/-! ### The edit window (R235, R236, R238) -/

/-- Whether a register offset of HEAD[2k + 1] in a locked pair stands for that of HEAD[2k] (R238).
(DEDUCED, log entry 26) -/
def pairShared (off : Nat) : Bool := off == 8 || (decide (0x10 ≤ off) && decide (off ≤ 0x20)) ||
  (decide (0x30 ≤ off) && decide (off ≤ 0x40))

/-- A write of a register of head `n` with RWK fields (R235): at once while ENABLE is 0, which R58 does not compare, else to
the pending set.
(DEDUCED, log entry 23) -/
def headEditWrite (m n a : Nat) (v : Word) (s : State) : State :=
  let l := s.lead n
  if l ≠ n ∧ pairShared (a % 0x1000) = true then s.logIgnored m a v
  else
    let h := s.head n
    if !s.gb (Reg.HEAD.CTRL.ENABLE l) then
      (s.setHead n { h with pend := Tab.put none a none h.pend }).writeFields m a v 0
    else
      let was := (Tab.get none a h.pend).getD (s.reg a)
      let t := takeFields (s.windowOpen a) v 0 was ((regFields a).getD [])
      (if t.closed then s else s.setHead n { h with pend := Tab.put none a (some t.word) h.pend }).logTaken m a v t

/-- A write of HEAD[n].CLK_SEL (R228, R238). -/
def clkSelWrite (m n : Nat) (v : Word) (s : State) : State :=
  let a := 0x10400008 + 0x1000 * n
  if s.lead n ≠ n ∨ s.gb (Reg.HEAD.CTRL.ENABLE n) = true ∨ s.headRuns n = true then s.logIgnored m a v
  else s.writeFields m a v 0

/-- RESULT of a COMMIT that is not accepted, with its record. -/
def commitRefused (m n r : Nat) (s : State) : State :=
  (s.p (Reg.HEAD.COMMIT_STATUS.RESULT n) r).logIgnored m (0x10400050 + 0x1000 * n) 1

/-- A write of 1 to HEAD[n].COMMIT.COMMIT (R235, R236, R238). -/
def headCommit (m n : Nat) (s : State) : State :=
  if s.lead n ≠ n then commitRefused m n 6 s
  else if !s.gb (Reg.HEAD.CTRL.ENABLE n) then commitRefused m n 5 s
  else if s.gb (Reg.HEAD.STATUS.COMMIT_PENDING n) then commitRefused m n 4 s
  else if !(s.ledBy n).all (fun k => (s.timing true k).fits) then commitRefused m n 3 s
  else (s.ledBy n).foldl (fun s k =>
    ((s.p (Reg.HEAD.COMMIT_STATUS.RESULT k) 1).pb (Reg.HEAD.STATUS.COMMIT_PENDING k) true).p
      (Reg.HEAD.COMMIT_TARGET.FRAME k) (s.g (Reg.HEAD.FRAME.COUNT k) + 1)) s

/-! ### The latch point (R211, R232, R237) -/

/-- The latch point of head `n` that its line count runs from, and its stamp (R89, R234).
(DEDUCED, log entry 33) -/
def State.latchMark (s : State) (n : Nat) : State :=
  (s.setHead n { s.head n with latchClk := s.clock }).stamp n (s.gb Reg.TIME.STAMP_EN.HEADS)

/-- Step 1 of R237 for head `n`: FRAME, the flip time, the stamp.
(DEDUCED, log entry 33) -/
def State.latchCount (s : State) (n : Nat) : State :=
  let s := (s.inc (Reg.HEAD.FRAME.COUNT n)).setHead n { s.head n with flip := s.wall }
  let w := s.wall
  let s := (s.p (Reg.HEAD.FLIP_NS.NS n) (wallNs w)).p (Reg.HEAD.FLIP_SEC_LO.SEC_LO n) (wallSec w)
  (s.p (Reg.HEAD.FLIP_SEC_HI.SEC_HI n) (wallSec w / 2 ^ 32)).latchMark n

/-- Step 3 of R237: the steps of R211 for the heads led by `n`, with the causes each raises besides `base`.
(DEDUCED, log entry 33) -/
def State.latchSteps (s : State) (n base : Nat) : State :=
  let heads := s.ledBy n
  let L := s.wall
  let s := heads.foldl (fun s k => s.p (Reg.HEAD.STATUS.RUN_STATE k) 2) s
  let s := (heads.foldl (fun s k => s.keyLatch k L) s).keyCheck
  let s := heads.foldl (fun s k => s.amendHead k) s
  let r := s.groupsStep n ((heads.map (fun k => s.plans k L)).flatten)
  let one := fun (s : State) (k : Nat) =>
    let x := s.latchHead k ((r.2.1.filter (fun e => e.1 == k)).map (fun e => e.2)) L
    let t := (x.1.frameBegin k).wbBegin k
    t.raiseHead k (base ||| x.2 ||| (if r.2.2.contains k then HC.commitApplied else 0))
  let s := heads.foldl one r.1
  let s := (s.glRefresh n).glTrim n
  s.setHead n { s.head n with glSet := false }

/-- A latch point of head `n`, which leads its pair; `first` marks the one it starts at (R231, R232, R237). On the way to a
low-power state it stops the head (R483). One that stops the head leaves FRAME and the flip time as they are (R232, R233). -/
def State.latchPoint (s : State) (first : Bool) (n : Nat) : State :=
  let heads := s.ledBy n
  let leaving := decide (s.pwr.mode = .entering)
  let stops := !s.gb (Reg.HEAD.CTRL.ENABLE n) || s.gb (Reg.HEAD.CTRL.SLEEP n) || leaving
  let s := if first then s else heads.foldl (fun s k => s.frameEnd k) s
  let s := heads.foldl (fun s k => if stops then s.latchMark k else s.latchCount k) s
  let commit := s.gb (Reg.HEAD.STATUS.COMMIT_PENDING n)
  let s := if commit then heads.foldl (fun s k => s.commitApply k) s else s
  let base := HC.flip + if commit then HC.commitApplied else 0
  if stops then
    heads.foldl (fun s k =>
      (s.headStop k (if s.gb (Reg.HEAD.CTRL.ENABLE n) && !leaving then 3 else 0)).raiseHead k base) s
  else s.latchSteps n base

/-- Whether a latch point of head `n` may come: it leads its pair and runs, or starts. -/
def State.latchDue (s : State) (first : Bool) (n : Nat) : Bool :=
  s.coreOn && s.lead n == n && s.g (Reg.HEAD.STATUS.RUN_STATE n) == (if first then 1 else 2)

/-! ### The output tables and the rest of the registers (R227, R248, R267) -/

/-- OTAB_INDEX after an access to OTAB_DATA. -/
def State.otabNext (s : State) (n : Nat) : State := s.inc (Reg.HEAD.OTAB_INDEX.INDEX n)

/-- The entry that OTAB_DATA reaches. -/
def State.otabKey (s : State) (n : Nat) : Nat :=
  4096 * s.g (Reg.HEAD.OTAB_INDEX.BANK n) + s.g (Reg.HEAD.OTAB_INDEX.INDEX n)

/-- A write of OTAB_DATA: the active bank is not written, and the write is logged. -/
def otabWrite (m n : Nat) (v : Word) (s : State) : State :=
  if s.g (Reg.HEAD.OTAB_INDEX.BANK n) = s.g (Reg.HEAD.OUT_CTRL.OTAB_BANK n) then
    (s.logIgnored m (0x10400430 + 0x1000 * n) v).otabNext n
  else
    let h := s.head n
    (s.setHead n { h with otab := Tab.put 0 (s.otabKey n) (fieldGet v 0 16) h.otab }).otabNext n

/-- A read of OTAB_DATA. -/
def otabRead (n : Nat) (s : State) : State × Word :=
  (s.otabNext n, BitVec.ofNat 32 (Tab.get 0 (s.otabKey n) (s.head n).otab))

/-- A write of FIFO_MIN: CLR sets MIN to 512. -/
def fifoMinWrite (n : Nat) (v : Word) (s : State) : State :=
  if fieldGet v 31 1 = 1 then s.p (Reg.HEAD.FIFO_MIN.MIN n) 512 else s

/-- A write of FRS.CTRL.LABEL_SCALE_M1 (R267): ignored and logged where a label of the live page, or of a staging page
with STAGE_VALID at 1, would meet a vitrine zone. -/
def labelScaleWrite (m : Nat) (v : Word) (s : State) : State :=
  let sc := fieldGet v 0 2 + 1
  let pages := s.livePage.toList ++ (if s.gb Reg.SEQ.STATUS.STAGE_VALID then [s.stagePage] else [])
  if pages.any (fun p => !(labelClashes (s.page p) sc).isEmpty) then s.logIgnored m 0x100C0000 v
  else s.writeFields m 0x100C0000 v 0

/-! ### The commands -/

/-- The word of HEAD[n].CTRL with one field changed. -/
def State.ctrlWord (s : State) (n lo x : Nat) : Word := fieldSet (s.reg (0x10400000 + 0x1000 * n) &&& 7) lo 1 x

/-- A write of HEAD[n].CTRL by master `m` that changes one field. -/
def State.headCtrl (s : State) (m n lo x : Nat) : State :=
  s.ctlWrite m (0x10400000 + 0x1000 * n) (s.ctrlWord n lo x) (headCtrlWrite m n (s.ctrlWord n lo x))

/-- HEAD_ENABLE (R230). -/
def execHeadEnable (dt : Nat) (m : Master) (n : Fin 64) (s : State) : Out State :=
  .next ((s.advance dt).headCtrl m.val n.val 0 1)

/-- HEAD_DISABLE (R232). -/
def execHeadDisable (dt : Nat) (m : Master) (n : Fin 64) (s : State) : Out State :=
  .next ((s.advance dt).headCtrl m.val n.val 0 0)

/-- HEAD_SLEEP (R233). -/
def execHeadSleep (dt : Nat) (m : Master) (n : Fin 64) (s : State) : Out State :=
  .next ((s.advance dt).headCtrl m.val n.val 1 1)

/-- HEAD_WAKE (R233). -/
def execHeadWake (dt : Nat) (m : Master) (n : Fin 64) (s : State) : Out State :=
  .next ((s.advance dt).headCtrl m.val n.val 1 0)

/-- HEAD_PAIR_WRITE (R238): the value of PAIR. -/
def execHeadPairWrite (dt : Nat) (m : Master) (n : Fin 64) (on : Bool) (s : State) : Out State :=
  .next ((s.advance dt).headCtrl m.val n.val 2 on.toNat)

/-- HEAD_COMMIT (R235). -/
def execHeadCommit (dt : Nat) (m : Master) (n : Fin 64) (s : State) : Out State :=
  .next ((s.advance dt).ctlWrite m.val (0x10400050 + 0x1000 * n.val) 1 (headCommit m.val n.val))

/-- GENLOCK_MEASURE (R241). -/
def execGenlockMeasure (dt : Nat) (n : Fin 64) (s : State) : Out State := .next (glMeasure n.val (s.advance dt))

/-- OTAB_ACCESS (R227): a write of `w`, or a read where none is given. -/
def execOtabAccess (dt : Nat) (m : Master) (n : Fin 64) (w : Option Word) (s : State) : Out State :=
  let s := s.advance dt
  .next (match w with
    | some v => s.ctlWrite m.val (0x10400430 + 0x1000 * n.val) v (otabWrite m.val n.val v)
    | none => s.ctlRead m.val (0x10400430 + 0x1000 * n.val) (otabRead n.val s))

/-- FIFO_MIN_CLEAR (R248). -/
def execFifoMinClear (dt : Nat) (m : Master) (n : Fin 64) (s : State) : Out State :=
  .next ((s.advance dt).ctlWrite m.val (0x10400078 + 0x1000 * n.val) 0x80000000 (fifoMinWrite n.val 0x80000000))

/-- LABEL_SCALE_WRITE (R267): the value of the field. -/
def execLabelScaleWrite (dt : Nat) (m : Master) (sc : Fin 4) (s : State) : Out State :=
  let v : Word := BitVec.ofNat 32 sc.val
  .next ((s.advance dt).ctlWrite m.val 0x100C0000 v (labelScaleWrite m.val v))

end Sys2Proof.Machine
end

