-- ==== Sys2Proof/Machine/Lanes.lean ====
section
/-! DEFINITION. Serial lanes: owners, rates, power states, the quads' PLLs, the edges of the detectors, and the lane
registers (R421 to R442). A lane is lane `l` of quad `q`; display lane `d` is lane d mod 4 of quad 4 + d / 4 (R275). -/

namespace Sys2Proof.Machine

/-- The quad and the lane of a display lane. -/
def dispQuad (d : Nat) : Nat := 4 + d / 4
def dispLane (d : Nat) : Nat := d % 4

/-- The lanes of a quad. -/
def laneNums : List Nat := [0, 1, 2, 3]

/-! ### Who owns a lane (R277, R422) -/

/-- The display lanes of DPTX[n] (R277). -/
def State.dpLanes (s : State) (n : Nat) : List Nat :=
  (List.range (2 ^ s.g (Reg.DPTX.CTRL.LANES n))).map (fun i => s.g (Reg.DPTX.CTRL.LANE_BASE n) + i)

/-- The bond width of TZL[q]. -/
def State.tzlWidth (s : State) (q : Nat) : Nat := 2 ^ s.g (Reg.TZL.CTRL.WIDTH q)

/-- The display lanes of the bond of TZL[q] (R277). -/
def State.tzlLanes (s : State) (q : Nat) : List Nat := (List.range (s.tzlWidth q)).map (fun i => 4 * q + i)

/-- The display lane of the spare of TZL[q], where it uses one. -/
def State.tzlSpare (s : State) (q : Nat) : List Nat :=
  if s.gb (Reg.TZL.CTRL.SPARE_EN q) then [s.g (Reg.TZL.CTRL.SPARE_LANE q)] else []

/-- The enabled DisplayPort link that has display lane `d`. -/
def State.dpOf (s : State) (d : Nat) : Option Nat :=
  (List.range 64).find? (fun n => s.gb (Reg.DPTX.CTRL.ENABLE n) && (s.dpLanes n).contains d)

/-- The enabled Thizon framer that has display lane `d` in its bond. -/
def State.tzlOf (s : State) (d : Nat) : Option Nat :=
  (List.range 16).find? (fun q => s.gb (Reg.TZL.CTRL.ENABLE q) && (s.tzlLanes q).contains d)

/-- The enabled Thizon framer that has display lane `d` as its spare. -/
def State.spareOf (s : State) (d : Nat) : Option Nat :=
  (List.range 16).find? (fun q => s.gb (Reg.TZL.CTRL.ENABLE q) && (s.tzlSpare q).contains d)

/-- The display lane of lane `l` of quad `q`. -/
def dispOf (q l : Nat) : Nat := 4 * (q - 4) + l

/-- OWNER of a lane (R422). -/
def State.laneOwner (s : State) (q l : Nat) : Nat :=
  if s.gb (Reg.LANE.TEST_EN q l) then 5
  else if q < 4 then (if s.g (Reg.NET.CTRL.MODE q) = 0 then 0 else 1)
  else if (s.dpOf (dispOf q l)).isSome then 2
  else if (s.tzlOf (dispOf q l)).isSome then 3
  else if (s.spareOf (dispOf q l)).isSome then 4
  else 0

/-- The port of network quad `q` that lane `l` serves: the one port in 100G mode (R97). -/
def State.lanePort (s : State) (q l : Nat) : Nat := if s.g (Reg.NET.CTRL.MODE q) = 1 then 0 else l

/-- The power state that the owner of a lane sets (R426). -/
def State.lanePower (s : State) (q l : Nat) : Nat :=
  match s.laneOwner q l with
  | 0 => 2
  | 1 => if bitOf (s.g (Reg.NET.CTRL.PORT_EN q)) (s.lanePort q l) then 0 else 1
  | 2 => match s.dpOf (dispOf q l) with
    | some n => if s.g (Reg.DPTX.STATUS.LINK n) = 2 ∨ s.g (Reg.DPTX.STATUS.LINK n) = 3 then 0 else 1
    | none => 1
  | _ => 0

/-- Whether the receiver of a lane is in use: owned by none and by a DPTX it is not (R423, R433). -/
def State.laneHears (s : State) (q l : Nat) : Bool :=
  s.g (Reg.LANE.PSTATE q l) == 0 && s.g (Reg.LANE.OWNER q l) != 0 && s.g (Reg.LANE.OWNER q l) != 2

/-! ### The rate of a quad (R276, R423, R437) -/

/-- The rate code and down-spread that an enabled link or network mode gives quad `q`. -/
def State.linkRate (s : State) (q : Nat) : Option (Nat × Bool) :=
  if q < 4 then
    match s.g (Reg.NET.CTRL.MODE q) with
    | 0 => none
    | 3 => some (5, false)
    | _ => some (8, false)
  else
    let ds := laneNums.map (fun l => dispOf q l)
    match ds.findSome? (fun d => s.dpOf d) with
    | some n => some (s.g (Reg.DPTX.CTRL.RATE n) + 1, s.gb (Reg.DPTX.CTRL.SSC_EN n))
    | none => (ds.findSome? (fun d => (s.tzlOf d).orElse (fun _ => s.spareOf d))).map
        (fun t => (if s.gb (Reg.TZL.CTRL.RATE t) then 7 else 6, false))

/-- Whether a lane of quad `q` is in test. -/
def State.quadTests (s : State) (q : Nat) : Bool := laneNums.any (fun l => s.gb (Reg.LANE.TEST_EN q l))

/-- The rate code and down-spread of quad `q` (R423, R437): its links', else that of its test lanes, which keep the rate
they hold. -/
def State.quadRate (s : State) (q : Nat) : Nat × Bool :=
  match s.linkRate q with
  | some r => r
  | none =>
    if !s.quadTests q then (0, false)
    else if s.g (Reg.QUAD.RATE q) ≠ 0 then (s.g (Reg.QUAD.RATE q), s.gb (Reg.QUAD.SSC q))
    else (s.g (Reg.QUAD.TEST_RATE q), s.gb (Reg.QUAD.TEST_SSC q))

/-- A rate code as bits per 100,000 ns (R423). -/
def rateBits (code : Nat) : Nat :=
  match code with
  | 1 => 162000
  | 2 => 270000
  | 3 => 540000
  | 4 => 810000
  | 5 => 1031250
  | 6 => 1250000
  | 7 => 2500000
  | 8 => 2578125
  | _ => 0

/-! ### The PRBS checker's counts (R440) -/

/-- The key of a lane among all lanes. -/
def laneKey (q l : Nat) : Nat := 4 * q + l

/-- BITS of a lane as its registers hold it. -/
def State.bitsHeld (s : State) (q l : Nat) : Nat := s.g (Reg.LANE.BITS_LO q l) + 2 ^ 32 * s.g (Reg.LANE.BITS_HI q l)

/-- Lane `l` of quad `q` beyond its registers. -/
def State.lane (s : State) (q l : Nat) : LaneState := Tab.get LaneState.reset (laneKey q l) s.lanes

/-- The state with a lane set beyond its registers. -/
def State.setLane (s : State) (q l : Nat) (x : LaneState) : State :=
  { s with lanes := Tab.put LaneState.reset (laneKey q l) x s.lanes }

/-- The bits that pass at the rate of quad `q` in `ns` nanoseconds. -/
def State.laneBits (s : State) (q ns : Nat) : Nat := ns * rateBits (s.g (Reg.QUAD.RATE q)) / 100000

/-- BITS of a lane now: while LOCK is 1 it grows with the nominal rate of the quad.
(DEDUCED, log entry 42) -/
def State.bitsNow (s : State) (q l : Nat) : Nat :=
  match (s.lane q l).bitsAt with
  | none => s.bitsHeld q l
  | some t => (s.bitsHeld q l + s.laneBits q (s.clock - t)) % 2 ^ 64

/-- BITS of a lane set to `n`, counting on from now where `runs`. -/
def State.setBits (s : State) (q l n : Nat) (runs : Bool) : State :=
  let s := (s.p (Reg.LANE.BITS_LO q l) (n % 2 ^ 32)).p (Reg.LANE.BITS_HI q l) (n / 2 ^ 32)
  s.setLane q l { s.lane q l with bitsAt := if runs then some s.clock else none }

/-- `n` mismatched bits at a locked checker: ERRORS saturates, and EV_LANE_PRBS marks that it leaves 0 (R440). -/
def State.prbsCount (s : State) (q l n : Nat) : State :=
  if n = 0 then s
  else
    let first := s.g (Reg.LANE.ERRORS q l) == 0
    let s := s.incSatBy (Reg.LANE.ERRORS q l) n
    if first then s.raise Ev.lanePrbs (laneKey q l) else s

/-- Whether the bits of a test lane's own generator reach its checker: in the two near-end loopbacks (R441). -/
def State.prbsNear (s : State) (q l : Nat) : Bool :=
  s.gb (Reg.LANE.TEST_EN q l) && s.gb (Reg.LANE.PRBS.GEN_EN q l) &&
    (s.g (Reg.LANE.LOOPBACK q l) == 1 || s.g (Reg.LANE.LOOPBACK q l) == 2)

/-- The bits that a lane's generator has sent. -/
def State.genBits (s : State) (q l : Nat) : Nat :=
  match (s.lane q l).genAt with
  | none => 0
  | some t => s.laneBits q (s.clock - t)

/-- The errors that a lane's generator has injected by INJ_LOG2: one in every 2^INJ_LOG2 bits (R439). -/
def State.injDue (s : State) (q l : Nat) : Nat :=
  let n := s.g (Reg.LANE.PRBS.INJ_LOG2 q l)
  if n < 10 then 0 else (s.genBits q l - (s.lane q l).injBase) / 2 ^ n

/-- Of the injected errors those that the lane's own locked checker has still to count: each is one error (R439). -/
def State.injNew (s : State) (q l : Nat) : Nat :=
  if s.prbsNear q l && s.gb (Reg.LANE.PRBS.LOCK q l) then s.injDue q l - (s.lane q l).injN else 0

/-- The number of the bit that passes a lane now; within a window of 1,024 bits the rate does not change. -/
def State.bitIndex (s : State) (q : Nat) : Nat := s.laneBits q s.clock

/-- The errors injected so far reach the lane's checker, which counts them where it is locked (R439).
(DEDUCED, log entry 42) -/
def State.prbsSettle (s : State) (q l : Nat) : State :=
  let n := s.injNew q l
  let x := s.lane q l
  let last := s.bitIndex q - (s.genBits q l - x.injBase) % 2 ^ s.g (Reg.LANE.PRBS.INJ_LOG2 q l)
  let x := if n = 0 then x else { x with errs := x.errs ++ [last] }
  (s.setLane q l { x with injN := s.injDue q l }).prbsCount q l n

/-- LOCK of a lane's checker set, with EV_LANE_PRBS where it changes. -/
def State.prbsLock (s : State) (q l : Nat) (lock : Bool) : State :=
  if s.gb (Reg.LANE.PRBS.LOCK q l) = lock then s
  else
    let s := s.prbsSettle q l
    let s := s.setLane q l { s.lane q l with errs := [] }
    ((s.setBits q l (s.bitsNow q l) lock).pb (Reg.LANE.PRBS.LOCK q l) lock).raise Ev.lanePrbs (laneKey q l)

/-! ### The PRBS generator (R438) -/

/-- The two taps of a pattern: x^a + x^b + 1. -/
def prbsTaps (pat : Nat) : Nat × Nat := if pat = 0 then (7, 6) else if pat = 1 then (15, 14) else (31, 28)

/-- The register of a pattern's generator one bit on; its lowest bit is the bit sent. -/
def prbsNext (pat x : Nat) : Nat :=
  let t := prbsTaps pat
  (2 * x + (bitOf x (t.1 - 1) != bitOf x (t.2 - 1)).toNat) % 2 ^ t.1

/-- The register after `i` bits. -/
def prbsAfter (pat x : Nat) : Nat → Nat
  | 0 => x
  | i + 1 => prbsNext pat (prbsAfter pat x i)

/-- Bit `i` that a lane's generator has sent since it started, with the errors it injects (R438, R439). -/
def State.genBit (s : State) (q l i : Nat) : Bool :=
  let x := s.lane q l
  let n := s.g (Reg.LANE.PRBS.INJ_LOG2 q l)
  let injected := (decide (10 ≤ n ∧ x.injBase ≤ i) && (i - x.injBase + 1) % 2 ^ n == 0) || x.shot == some i
  bitOf (prbsAfter (s.g (Reg.LANE.PRBS.GEN_PAT q l)) x.gen (i + 1)) 0 != injected

/-- The generator of a lane as TEST_EN, GEN_EN and the pattern now have it: it starts from a register that the spec does not give,
but not from 0.
(DEDUCED, log entry 42) -/
def State.prbsStart (s : State) (q l : Nat) (anew : Bool) : State :=
  let x := s.lane q l
  let runs := s.gb (Reg.LANE.TEST_EN q l) && s.gb (Reg.LANE.PRBS.GEN_EN q l)
  if !runs then s.setLane q l { x with genAt := none, injN := 0, shot := none }
  else if x.genAt.isSome && !anew then s
  else
    let size := 2 ^ (prbsTaps (s.g (Reg.LANE.PRBS.GEN_PAT q l))).1
    (s.setLane q l { x with
      gen := s.freeNat % (size - 1) + 1, genAt := some s.clock, injBase := 0, injN := 0, shot := none }).drawn

/-! ### The equaliser (R430) -/

/-- CTLE and DFE of a lane at their defaults. -/
def State.eqDefaults (s : State) (q l : Nat) : State :=
  let s := (s.p (Reg.LANE.CTLE q l) 8).p (Reg.LANE.DFE1 q l) 0
  let s := (s.p (Reg.LANE.DFE2 q l) 0).p (Reg.LANE.DFE3 q l) 0
  (s.p (Reg.LANE.DFE4 q l) 0).p (Reg.LANE.DFE5 q l) 0

/-- CTLE and DFE of a lane at values that adaptation found, which the spec does not state. -/
def State.eqFree (s : State) (q l : Nat) : State :=
  let s := (s.pFree (Reg.LANE.CTLE q l)).pFree (Reg.LANE.DFE1 q l)
  let s := (s.pFree (Reg.LANE.DFE2 q l)).pFree (Reg.LANE.DFE3 q l)
  (s.pFree (Reg.LANE.DFE4 q l)).pFree (Reg.LANE.DFE5 q l)

/-- One field of a receiver's equaliser moved by a free number of steps, at most `left`, within its range; the steps left. -/
def State.eqStep (x : State × Nat) (f : FRef) (lo hi : Int) : State × Nat :=
  let old : Int := if lo < 0 then x.1.gi f else (x.1.g f : Int)
  let new := clampInt lo hi (old - x.2 + (x.1.freeNat % (2 * x.2 + 1) : Nat))
  ((x.1.p f (unsigned f.width new)).drawn, x.2 - (new - old).natAbs)

/-- The equaliser of a lane after at most `k` steps, each of the CTLE by one code or of one DFE tap by one: which, the spec does not
state (R430).
(DEDUCED, log entry 42) -/
def State.eqWalk (s : State) (q l k : Nat) : State :=
  if k = 0 then s
  else
    let x := State.eqStep (State.eqStep (s, k) (Reg.LANE.CTLE q l) 0 15) (Reg.LANE.DFE1 q l) (-64) 63
    let x := State.eqStep (State.eqStep x (Reg.LANE.DFE2 q l) (-16) 15) (Reg.LANE.DFE3 q l) (-16) 15
    (State.eqStep (State.eqStep x (Reg.LANE.DFE4 q l) (-16) 15) (Reg.LANE.DFE5 q l) (-16) 15).1

/-- The equaliser of a lane as adaptation has brought it: while INITIAL converges, free values; in TRACKING one step at most in every
8 µs; while ADAPT_FREEZE is 1 and without adaptation, as it stands (R430).
(DEDUCED, log entry 42) -/
def State.eqSettle (s : State) (q l : Nat) : State :=
  let x := s.lane q l
  if s.gb (Reg.LANE.ADAPT_FREEZE q l) || s.g (Reg.LANE.ADAPT q l) == 0 then s.setLane q l { x with eqAt := s.clock }
  else if s.g (Reg.LANE.ADAPT q l) = 1 then (s.eqFree q l).setLane q l { x with eqAt := s.clock }
  else
    let k := (s.clock - x.eqAt) / 8000
    (s.eqWalk q l k).setLane q l { x with eqAt := x.eqAt + 8000 * k }

/-! ### Detector edges (R433, R435, R436) -/

/-- The alignment and block lock that LOS or LOL takes from a lane. -/
def State.lockDrop (s : State) (q l : Nat) : State :=
  let s := if s.gb (Reg.LANE.ALIGNED q l) then
      ((s.pb (Reg.LANE.ALIGNED q l) false).pb (Reg.LANE.ALIGN_LOST q l) true).inc (Reg.LANE.REALIGNS q l)
    else s
  if s.gb (Reg.LANE.BLOCK_LOCK q l) then
    ((s.pb (Reg.LANE.BLOCK_LOCK q l) false).pb (Reg.LANE.BLOCK_LOST q l) true).inc (Reg.LANE.LOCK_LOSSES q l)
  else s

/-- Rising edges of LOS on the lanes `ls` of quad `q`, without the event. -/
def State.losEdges (s : State) (q : Nat) (ls : List Nat) : State :=
  ls.foldl (fun s l => (((s.pb (Reg.LANE.LOS q l) true).pb (Reg.LANE.LOS_SEEN q l) true).inc
    (Reg.LANE.LOS_EVENTS q l)).lockDrop q l) s

/-- The CDR of a lane can have held lock from now on alone (R432). -/
def State.lockAnew (s : State) (q l : Nat) : State := s.setLane q l { s.lane q l with lockFrom := s.clock }

/-- Rising edges of LOL on the lanes `ls` of quad `q`, without the event. -/
def State.lolEdges (s : State) (q : Nat) (ls : List Nat) : State :=
  ls.foldl (fun s l => ((((s.lockAnew q l).pb (Reg.LANE.LOL q l) true).pb (Reg.LANE.LOL_SEEN q l) true).inc
    (Reg.LANE.LOL_EVENTS q l)).lockDrop q l) s

/-- EV_LANE_LOS of edges on the lanes `ls`: once, with the lowest lane whose LOS_EVT_EN is 1. -/
def State.losEvent (s : State) (q : Nat) (ls : List Nat) : State :=
  match ls.find? (fun l => s.gb (Reg.LANE.LOS_EVT_EN q l)) with
  | some l => s.raise Ev.laneLos (laneKey q l)
  | none => s

/-- EV_LANE_LOL of edges on the lanes `ls`. -/
def State.lolEvent (s : State) (q : Nat) (ls : List Nat) : State :=
  match ls.find? (fun l => s.gb (Reg.LANE.LOL_EVT_EN q l)) with
  | some l => s.raise Ev.laneLol (laneKey q l)
  | none => s

/-- The lanes of quad `q` whose LOL detector is evaluated and reads no LOL (R433, R441). -/
def State.lolLanes (s : State) (q : Nat) : List Nat :=
  laneNums.filter (fun l => s.laneHears q l && s.g (Reg.LANE.LOOPBACK q l) != 2 && !s.gb (Reg.LANE.LOL q l))

/-! ### A quad brought up to date (R422 to R426) -/

/-- OWNER and PSTATE of a lane set; entering P1 or P2 clears its detectors, and P2 its adaptation.
(DEDUCED, log entry 42) -/
def State.laneSet (s : State) (q l owner power : Nat) : State :=
  let old := s.g (Reg.LANE.PSTATE q l)
  let s := (s.p (Reg.LANE.OWNER q l) owner).p (Reg.LANE.PSTATE q l) power
  let s := if power ≠ 0 ∧ old = 0 then
      let s := s.eqSettle q l
      let s := (s.pb (Reg.LANE.LOS q l) false).pb (Reg.LANE.LOL q l) false
      ((s.pb (Reg.LANE.ALIGNED q l) false).pb (Reg.LANE.BLOCK_LOCK q l) false).p (Reg.LANE.ADAPT q l) 0
    else if power = 0 ∧ old ≠ 0 then s.lockAnew q l
    else s
  let s := if owner ≠ 5 ∧ s.gb (Reg.LANE.PRBS.LOCK q l) = true then s.prbsLock q l false else s
  if power = 2 ∧ old ≠ 2 then s.eqDefaults q l else s

/-- Whether the PLL of quad `q` runs (R424). -/
def State.quadRuns (s : State) (q : Nat) : Bool := laneNums.any (fun l => s.g (Reg.LANE.PSTATE q l) != 2)

/-- The clock at which the PLL of quad `q` started, while it has neither locked nor failed since (R424). -/
def State.setQuad (s : State) (q : Nat) (t : Option Nat) : State := { s with quads := Tab.put none q t s.quads }

/-- The lanes of quad `q`, its rate and its PLL as owners and power states now are: the PLL starts with the first lane out of P2 or
with a new rate, it stops when every lane is in P2, and until it locks a receiver in use reports LOL (R424).
(DEDUCED, log entry 42) -/
def State.quadRefresh (s : State) (q : Nat) : State :=
  let r := s.quadRate q
  let anew := decide (r.1 ≠ s.g (Reg.QUAD.RATE q))
  let ran := s.quadRuns q
  let s := if anew then s.pb (Reg.QUAD.PLL_LOCK q) false else s
  let s := (s.p (Reg.QUAD.RATE q) r.1).pb (Reg.QUAD.SSC q) r.2
  let s := laneNums.foldl (fun s l => s.laneSet q l (s.laneOwner q l) (s.lanePower q l)) s
  if !s.quadRuns q then (s.pb (Reg.QUAD.PLL_LOCK q) false).setQuad q none
  else if s.gb (Reg.QUAD.PLL_LOCK q) then s
  else
    let s := if anew || !ran then s.setQuad q (some s.clock) else s
    (s.lolEdges q (s.lolLanes q)).lolEvent q (s.lolLanes q)

/-- Several quads brought up to date. -/
def State.quadsRefresh (s : State) (qs : List Nat) : State := qs.foldl (fun s q => s.quadRefresh q) s

/-! ### Drive (R428) -/

/-- MAIN and POST of a DisplayPort preset by swing and pre-emphasis; pre-emphasis is held to 3 less the swing (R279). -/
def firPreset (swing pre : Nat) : Nat × Nat :=
  match swing, min pre (3 - swing) with
  | 0, 0 => (21, 0)
  | 0, 1 => (26, 5)
  | 0, 2 => (31, 10)
  | 0, _ => (42, 21)
  | 1, 0 => (32, 0)
  | 1, 1 => (40, 8)
  | 1, _ => (47, 16)
  | 2, 0 => (42, 0)
  | 2, _ => (52, 10)
  | _, _ => (63, 0)

/-- The word TX_FIR: while a DPTX owns the lane, OWNED and the preset in force (R428). -/
def State.firWord (s : State) (q l : Nat) : Word :=
  let w := s.reg (Reg.LANE.MAIN q l).addr
  if q < 4 then w
  else match s.dpOf (dispOf q l) with
    | none => w
    | some n =>
      let i := dispOf q l - s.g (Reg.DPTX.CTRL.LANE_BASE n)
      let lv := s.g (Reg.DPTX.DRIVE.LEVELS n) >>> (4 * i)
      let f := firPreset (lv % 4) (lv / 4 % 4)
      BitVec.ofNat 32 (2 ^ 31 + f.1 * 256 + f.2)

/-- A write of TX_FIR by master `m` (R427, R428). -/
def firWrite (m q l : Nat) (v : Word) (s : State) : State :=
  let a := (Reg.LANE.MAIN q l).addr
  if s.g (Reg.LANE.OWNER q l) = 2 then s.logIgnored m a v
  else if 63 < fieldGet v 16 4 + fieldGet v 8 6 + fieldGet v 0 5 then
    s.errLog (ctlRecord s Rsn.reservedValue m a true false v)
  else s.writeFields m a v 0

/-! ### Lane and quad control (R424, R430, R437, R441) -/

/-- Whether TEST_EN of a lane may rise (R437).
(DEDUCED, log entry 41) -/
def State.testAllowed (s : State) (q l : Nat) : Bool :=
  s.g (Reg.LANE.OWNER q l) == 0 && (decide (4 ≤ q) || s.g (Reg.NET.CTRL.MODE q) == 0) &&
    (s.g (Reg.QUAD.RATE q) != 0 || s.g (Reg.QUAD.TEST_RATE q) != 0) &&
    !(decide (q < 4) && s.gb (Reg.QUAD.TEST_SSC q))

/-- A write of a lane's CTRL word by master `m` (R430, R437, R441): TEST_EN and LOOPBACK by their rules, the rest as
their access codes state; a detector that a near-end loopback leaves out reads 0.
(DEDUCED, log entry 41) (DEDUCED, log entry 42) -/
def laneCtrlWrite (m q l : Nat) (v : Word) (s : State) : State :=
  let a := (Reg.LANE.TEST_EN q l).addr
  let was := s.gb (Reg.LANE.TEST_EN q l)
  let ask := fieldGet v 31 1 = 1
  let refused := decide ask && !was && !s.testAllowed q l
  let on := decide ask && !refused
  let lb := fieldGet v 28 2
  let badLb := !on && lb != 0
  let path := s.g (Reg.LANE.LOOPBACK q l)
  let s := (s.eqSettle q l).prbsSettle q l
  let s := s.writeFields m a v 0xB0000000
  let s := s.pb (Reg.LANE.TEST_EN q l) on
  let s := s.p (Reg.LANE.LOOPBACK q l) (if on then lb else 0)
  let s := if on && (lb == 1 || lb == 2) then s.pb (Reg.LANE.LOS q l) false else s
  let s := if on && lb == 2 then s.pb (Reg.LANE.LOL q l) false else s
  let s := if refused || badLb then s.logIgnored m a v else s
  let s := (s.prbsStart q l false).prbsSettle q l
  let s := if was = on ∧ s.g (Reg.LANE.LOOPBACK q l) = path then s else s.quadRefresh q
  if fieldGet v 8 1 = 1 ∧ s.gb (Reg.LANE.ADAPT_FREEZE q l) = false then
    let s := s.eqDefaults q l
    if s.g (Reg.LANE.ADAPT q l) = 0 then s else s.p (Reg.LANE.ADAPT q l) 1
  else s

/-- Whether a rate code is marked for the kind of quad `q` (R423). -/
def rateMarked (q code : Nat) : Bool :=
  code == 0 || (if q < 4 then code == 5 || code == 8 else decide (1 ≤ code ∧ code ≤ 4) || code == 6 || code == 7)

/-- A write of a quad's CTRL word by master `m` (R424, R437): it writes REF_SEL, TEST_RATE and TEST_SSC, and what of it is refused is
logged, whatever the value.
(DEDUCED, log entry 41) -/
def quadCtrlWrite (m q : Nat) (v : Word) (s : State) : State :=
  let a := (Reg.QUAD.REF_SEL q).addr
  let refHeld := s.quadRuns q
  let testHeld := s.quadTests q
  let t := if refHeld then s else s.p (Reg.QUAD.REF_SEL q) (fieldGet v 24 2)
  let t := if testHeld then t else t.p (Reg.QUAD.TEST_SSC q) (fieldGet v 8 1)
  let t := if testHeld || !rateMarked q (fieldGet v 16 4) then t else t.p (Reg.QUAD.TEST_RATE q) (fieldGet v 16 4)
  let t := if refHeld || testHeld then t.logIgnored m a v else t
  if testHeld || rateMarked q (fieldGet v 16 4) then t
  else t.errLog (ctlRecord t Rsn.reservedValue m a true false v)

/-! ### The PRBS logic (R438 to R440) -/

/-- The checker of a lane loses lock and seeds again (R440). -/
def State.prbsDrop (s : State) (q l : Nat) : State := (s.inc (Reg.LANE.PRBS.PRBS_LOCK_LOSSES q l)).prbsLock q l false

/-- The mismatches of a lane's last 1,024 bits. -/
def State.prbsRecent (s : State) (q l : Nat) : List Nat := (s.lane q l).errs.filter (fun b => decide (s.bitIndex q < b + 1024))

/-- A mismatched bit at a locked checker; the 256th within 1,024 bits ends the lock (R440). -/
def State.prbsError (s : State) (q l : Nat) : State :=
  if s.gb (Reg.LANE.PRBS.LOCK q l) then
    let s := s.prbsSettle q l
    let errs := s.prbsRecent q l ++ [s.bitIndex q]
    let s := (s.setLane q l { s.lane q l with errs := errs }).prbsCount q l 1
    if 256 ≤ errs.length then s.prbsDrop q l else s
  else s

/-- A write of a lane's PRBS_CTRL word by master `m` (R438, R439): INJECT inverts the next bit, which the lane's own locked
checker counts once where a near-end loopback returns it.
(DEDUCED, log entry 42) -/
def prbsCtrlWrite (m q l : Nat) (v : Word) (s : State) : State :=
  let a := (Reg.LANE.PRBS.INJECT q l).addr
  let n := fieldGet v 24 5
  let bad := decide (1 ≤ n ∧ n ≤ 9)
  let s := s.prbsSettle q l
  let pat := s.g (Reg.LANE.PRBS.GEN_PAT q l)
  let log2 := s.g (Reg.LANE.PRBS.INJ_LOG2 q l)
  let s := s.writeFields m a v (if bad then 0x1F000000 else 0)
  let s := s.prbsStart q l (s.g (Reg.LANE.PRBS.GEN_PAT q l) != pat)
  let s := if s.g (Reg.LANE.PRBS.INJ_LOG2 q l) = log2 then s
    else s.setLane q l { s.lane q l with injBase := s.genBits q l, injN := 0 }
  let s := if bad then s.errLog (ctlRecord s Rsn.reservedValue m a true false v) else s
  let s := if s.gb (Reg.LANE.PRBS.CHK_EN q l) then s else s.prbsLock q l false
  if fieldGet v 31 1 = 0 ∨ (s.lane q l).genAt = none then s
  else
    let s := s.setLane q l { s.lane q l with shot := some (s.genBits q l) }
    if s.prbsNear q l then s.prbsError q l else s

/-- A write of a lane's PRBS status word: CLR sets ERRORS and BITS to 0 (R440). -/
def prbsClear (q l : Nat) (v : Word) (s : State) : State :=
  if fieldGet v 30 1 = 1 then ((s.prbsSettle q l).p (Reg.LANE.ERRORS q l) 0).setBits q l 0 (s.gb (Reg.LANE.PRBS.LOCK q l)) else s

/-- Whether the bits that reach a lane's checker may match CHK_PAT: those that its own generator sends it in a near-end loopback do
where the patterns are one and the polarity returns (R429, R438, R441).
(DEDUCED, log entry 42) -/
def State.prbsFits (s : State) (q l : Nat) : Bool :=
  (s.g (Reg.LANE.LOOPBACK q l) != 1 && s.g (Reg.LANE.LOOPBACK q l) != 2) ||
    (s.gb (Reg.LANE.PRBS.GEN_EN q l) && s.g (Reg.LANE.PRBS.GEN_PAT q l) == s.g (Reg.LANE.PRBS.CHK_PAT q l) &&
      s.gb (Reg.LANE.TX_INVERT q l) == s.gb (Reg.LANE.RX_INVERT q l))

/-- Whether a test lane's checker hears bits. -/
def State.prbsHears (s : State) (q l : Nat) : Bool :=
  s.g (Reg.LANE.LOOPBACK q l) == 2 || (!s.gb (Reg.LANE.LOL q l) && !s.gb (Reg.LANE.LOS q l))

/-- 1,024 matching bits lock the checker (R440): the lane is in test with CHK_EN, its receiver has lock, and the bits may match.
(DEDUCED, log entry 42) -/
def prbsGain (q l : Nat) (s : State) : State :=
  if s.coreOn && s.g (Reg.LANE.OWNER q l) == 5 && s.gb (Reg.LANE.PRBS.CHK_EN q l) && s.prbsHears q l && s.prbsFits q l then
    s.prbsLock q l true
  else s

/-- 256 mismatches within 1,024 bits (R440): those of them that no command has told yet count in ERRORS before the lock is lost.
(DEDUCED, log entry 42) -/
def prbsLoss (q l : Nat) (s : State) : State :=
  if s.coreOn && s.gb (Reg.LANE.PRBS.LOCK q l) then
    let s := s.prbsSettle q l
    (s.prbsCount q l (256 - (s.prbsRecent q l).length)).prbsDrop q l
  else s

/-! ### Adaptation and alignment (R430, R435, R436) -/

/-- Initial adaptation converges (R430); while ADAPT_FREEZE is 1 the values in force are held. -/
def adaptDone (q l : Nat) (s : State) : State :=
  if s.coreOn && s.g (Reg.LANE.ADAPT q l) == 1 && !s.gb (Reg.LANE.ADAPT_FREEZE q l) then
    (s.eqSettle q l).p (Reg.LANE.ADAPT q l) 2
  else s

/-- Whether a lane hears a signal with lock. -/
def State.laneGood (s : State) (q l : Nat) : Bool :=
  s.laneHears q l && !s.gb (Reg.LANE.LOS q l) && !s.gb (Reg.LANE.LOL q l)

/-- Three K28.5 at one boundary (R435): the lane is owned by a Thizon framer. -/
def aligned (q l : Nat) (s : State) : State :=
  if s.coreOn && s.laneGood q l && (s.g (Reg.LANE.OWNER q l) == 3 || s.g (Reg.LANE.OWNER q l) == 4) then
    s.pb (Reg.LANE.ALIGNED q l) true
  else s

/-- Four invalid symbols within 16 (R435). -/
def alignLoss (q l : Nat) (s : State) : State :=
  if s.coreOn && s.gb (Reg.LANE.ALIGNED q l) then (s.incBy (Reg.LANE.CODE_ERR q l) 4).lockDrop q l else s

/-- 64 consecutive valid sync headers (R436): the lane is owned by its network quad. -/
def blockLock (q l : Nat) (s : State) : State :=
  if s.coreOn && s.laneGood q l && s.g (Reg.LANE.OWNER q l) == 1 then s.pb (Reg.LANE.BLOCK_LOCK q l) true else s

/-! ### The commands of test lanes -/

/-- LANE_TEST_ENABLE (R437). -/
def execLaneTestEnable (dt : Nat) (m : Master) (q : Fin 20) (l : Fin 4) (s : State) : Out State :=
  let s := s.advance dt
  let v := s.fieldWord (Reg.LANE.TEST_EN q.val l.val) 1
  .next (s.ctlWrite m.val (Reg.LANE.TEST_EN q.val l.val).addr v (laneCtrlWrite m.val q.val l.val v))

/-- LOOPBACK_SELECT (R441): the path. -/
def execLoopbackSelect (dt : Nat) (m : Master) (q : Fin 20) (l : Fin 4) (path : Fin 4) (s : State) : Out State :=
  let s := s.advance dt
  let v := s.fieldWord (Reg.LANE.LOOPBACK q.val l.val) path.val
  .next (s.ctlWrite m.val (Reg.LANE.TEST_EN q.val l.val).addr v (laneCtrlWrite m.val q.val l.val v))

/-- ADAPT_RESTART (R430). -/
def execAdaptRestart (dt : Nat) (m : Master) (q : Fin 20) (l : Fin 4) (s : State) : Out State :=
  let s := s.advance dt
  let v := s.fieldWord (Reg.LANE.ADAPT_RESTART q.val l.val) 1
  .next (s.ctlWrite m.val (Reg.LANE.TEST_EN q.val l.val).addr v (laneCtrlWrite m.val q.val l.val v))

/-- PRBS_INJECT (R439). -/
def execPrbsInject (dt : Nat) (m : Master) (q : Fin 20) (l : Fin 4) (s : State) : Out State :=
  let s := s.advance dt
  let v := s.fieldWord (Reg.LANE.PRBS.INJECT q.val l.val) 1
  .next (s.ctlWrite m.val (Reg.LANE.PRBS.INJECT q.val l.val).addr v (prbsCtrlWrite m.val q.val l.val v))

/-- PRBS_CLEAR (R440). -/
def execPrbsClear (dt : Nat) (m : Master) (q : Fin 20) (l : Fin 4) (s : State) : Out State :=
  let s := s.advance dt
  .next (s.ctlWrite m.val (Reg.LANE.PRBS.CLR q.val l.val).addr 0x40000000 (prbsClear q.val l.val 0x40000000))

/-- PRBS_LOCK (R440). -/
def execPrbsLock (dt : Nat) (q : Fin 20) (l : Fin 4) (s : State) : Out State :=
  .next (prbsGain q.val l.val (s.advance dt))

/-- PRBS_LOCK_LOSS (R440). -/
def execPrbsLockLoss (dt : Nat) (q : Fin 20) (l : Fin 4) (s : State) : Out State :=
  .next (prbsLoss q.val l.val (s.advance dt))

/-- PRBS_ERROR_DETECTED (R440). -/
def execPrbsErrorDetected (dt : Nat) (q : Fin 20) (l : Fin 4) (s : State) : Out State :=
  .next ((s.advance dt).prbsError q.val l.val)

/-- ADAPTATION_CONVERGED (R430). -/
def execAdaptationConverged (dt : Nat) (q : Fin 20) (l : Fin 4) (s : State) : Out State :=
  .next (adaptDone q.val l.val (s.advance dt))

/-- LANE_ALIGNED (R435). -/
def execLaneAligned (dt : Nat) (q : Fin 20) (l : Fin 4) (s : State) : Out State :=
  .next (aligned q.val l.val (s.advance dt))

/-- LANE_ALIGN_LOSS (R435). -/
def execLaneAlignLoss (dt : Nat) (q : Fin 20) (l : Fin 4) (s : State) : Out State :=
  .next (alignLoss q.val l.val (s.advance dt))

/-- BLOCK_LOCK_ACQUIRED (R436). -/
def execBlockLockAcquired (dt : Nat) (q : Fin 20) (l : Fin 4) (s : State) : Out State :=
  .next (blockLock q.val l.val (s.advance dt))

end Sys2Proof.Machine
end

