-- ==== Sys2Proof/Machine/Links.lean ====
section
/-! DEFINITION. Display links: DisplayPort transmitters and Thizon framers (R275 to R306). -/

namespace Sys2Proof.Machine

/-- A transmitter and a framer beyond their registers. -/
def State.dpx (s : State) (n : Nat) : DpState := Tab.get DpState.reset n s.dp
def State.setDp (s : State) (n : Nat) (x : DpState) : State := { s with dp := Tab.put DpState.reset n x s.dp }
def State.tz (s : State) (q : Nat) : TzlState := Tab.get TzlState.reset q s.tzl
def State.setTz (s : State) (q : Nat) (x : TzlState) : State := { s with tzl := Tab.put TzlState.reset q x s.tzl }

/-- Whether the unit holds the grant: it acts, and no release is pending (R288, R294). -/
def State.granted (s : State) : Bool := s.sealActive

/-! ### DisplayPort: capacity and enabling (R278, R281) -/

/-- The rate of DPTX[n] in bit/s. -/
def State.dpRate (s : State) (n : Nat) : Nat := rateBits (s.g (Reg.DPTX.CTRL.RATE n) + 1) * 10000

/-- Bits per component of head `n`. -/
def State.headBpc (s : State) (n : Nat) : Nat := if s.gb (Reg.HEAD.OUT_CTRL.DEPTH8 n) then 8 else 10

/-- Whether head `n` is enabled and its timing exceeds the capacity of its DisplayPort link (R281). -/
def State.dpOver (s : State) (n : Nat) : Bool :=
  s.gb (Reg.HEAD.CTRL.ENABLE n) &&
    decide (((2 ^ s.g (Reg.DPTX.CTRL.LANES n) * s.dpRate n : Nat) : Rat) * 792 / 1000 <
      s.pixHz n * ((3 * s.headBpc n : Nat) : Rat))

/-- Whether the quads `qs` run at another rate or down-spread than `code` and `ssc`. -/
def State.quadsDiffer (s : State) (qs : List Nat) (code : Nat) (ssc : Bool) : Bool :=
  qs.any (fun q => s.g (Reg.QUAD.RATE q) != 0 &&
    (s.g (Reg.QUAD.RATE q) != code || s.gb (Reg.QUAD.SSC q) != ssc))

/-- Whether one of the display lanes `ds` is owned. -/
def State.lanesBusy (s : State) (ds : List Nat) : Bool := ds.any (fun d => s.laneOwner (dispQuad d) (dispLane d) != 0)

/-- The quads of display lanes. -/
def quadsOf (ds : List Nat) : List Nat := (ds.map dispQuad).dedup

/-- The first check of R278 that DPTX[n] fails, 0 where all pass; `lanes` is LANES as written.
(DEDUCED, log entry 43) -/
def State.dpCheck (s : State) (n lanes : Nat) : Nat :=
  let ds := s.dpLanes n
  if lanes = 3 ∨ s.g (Reg.DPTX.CTRL.LANE_BASE n) % 2 ^ s.g (Reg.DPTX.CTRL.LANES n) ≠ 0 then 1
  else if s.lanesBusy ds then 2
  else if s.quadsDiffer (quadsOf ds) (s.g (Reg.DPTX.CTRL.RATE n) + 1) (s.gb (Reg.DPTX.CTRL.SSC_EN n)) then 3
  else if s.dpOver n then 5
  else 0

/-- The quads of DPTX[n] brought up to date. -/
def State.dpRefresh (s : State) (n : Nat) : State := s.quadsRefresh (quadsOf (s.dpLanes n))

/-- LINK of DPTX[n] set. -/
def State.dpLink (s : State) (n link : Nat) : State :=
  let s := s.p (Reg.DPTX.STATUS.LINK n) link
  let s := if link = 3 then s else s.setDp n { s.dpx n with stream := false, msa := none }
  s.dpRefresh n

/-- What the main lanes of DPTX[n] carry (R280, R288). -/
def State.dpMain (s : State) (n : Nat) : DpMain :=
  match s.g (Reg.DPTX.STATUS.LINK n) with
  | 2 => .training
  | 3 => if (s.dpx n).stream then .stream else .idlePattern
  | _ => .electricalIdle

/-- The codes that DPTX[n] carries of the line its head has scanned last (R280). -/
def State.dpPixels (s : State) (n : Nat) : List Nat := if (s.dpx n).stream then (s.head n).frame.line else []

/-- The MSA of a frame of head `n` (R279, R280, R234): Mvid of the pixel clock as trimmed, against the link's symbol clock.
(PRESUMED, log entry 95) -/
def State.dpMsa (s : State) (n : Nat) : DpMsa :=
  let t := s.timing false n
  let l := s.lead n
  let f := fun (off lo : Nat) => fieldGet (s.headWord false l off) lo 13 + 1
  let clock := s.pixOut n
  { mvid := (32768 * clock * 10 / (s.dpRate n : Rat)).floor.toNat % 2 ^ 24, nvid := 32768
    hTotal := t.hTotal, vTotal := t.vTotal, hStart := f 0x10 16 + f 0x14 16, vStart := f 0x18 16 + f 0x1C 16
    hSync := f 0x10 16, vSync := f 0x18 16
    hHigh := s.gb (Reg.HEAD.HTIM_ACT.POL l), vHigh := s.gb (Reg.HEAD.VTIM_ACT.POL l)
    width := t.hAct, height := t.vAct, ycc := s.gb (Reg.DPTX.CTRL.ENCODING n), bpc := s.headBpc n }

/-- The link goes DOWN with a RESULT and EV_DP_TRAIN. -/
def State.dpFail (s : State) (n result : Nat) : State :=
  ((s.p (Reg.DPTX.STATUS.RESULT n) result).dpLink n 1).raise Ev.dpTrain (n + 256 * result)

/-! ### AUX (R283, R286, R288) -/

/-- An AUX transaction ends (R283). -/
def State.auxEnd (s : State) (n result bytes : Nat) : State :=
  let s := (s.p (Reg.DPTX.AUX_STATUS.RESULT n) result).p (Reg.DPTX.AUX_STATUS.BYTES n) bytes
  (s.pb (Reg.DPTX.AUX_CMD.GO n) false).setDp n { s.dpx n with aux := 0, defers := 0 }

/-- An AUX transaction goes out, or waits behind training, or ends at once.
(DEDUCED, log entry 43) -/
def State.auxStart (s : State) (n : Nat) : State :=
  if !s.granted then s.auxEnd n 4 0
  else if !s.engRunning 23 then s.auxEnd n 5 0
  else
    let s := s.pb (Reg.DPTX.AUX_CMD.GO n) true
    if s.g (Reg.DPTX.STATUS.LINK n) = 2 then s.setDp n { s.dpx n with aux := 1, defers := 0 }
    else s.setDp n { s.dpx n with aux := 2, auxAt := s.clock, defers := 0 }

/-- A write of AUX_CMD by master `m` (R283). -/
def auxCmdWrite (m n : Nat) (v : Word) (s : State) : State :=
  let busy := s.gb (Reg.DPTX.AUX_CMD.GO n)
  let s := s.writeFields m (Reg.DPTX.AUX_CMD.GO n).addr v 0
  if fieldGet v 31 1 = 1 ∧ busy = false then s.auxStart n else s

/-- The AUX transaction that waited behind training goes out. -/
def State.auxResume (s : State) (n : Nat) : State := if (s.dpx n).aux = 1 then s.auxStart n else s

/-- Bytes placed in AUX_DATA0 to AUX_DATA3. -/
def State.auxData (s : State) (n : Nat) (bs : List Byte) : State :=
  [0, 1, 2, 3].foldl (fun s k =>
    if 4 * k < bs.length then s.p (Reg.DPTX.AUX_DATA.DATA n k) (leNat ((bs.drop (4 * k)).take 4)) else s) s

/-- A reply ends the AUX transaction of DPTX[n] (R283): a read that is acknowledged leaves its bytes in AUX_DATA. -/
def auxDone (n : Nat) (r : AuxReply) (s : State) : State :=
  if s.coreOn && (s.dpx n).aux == 2 then
    let k := min r.count.val (s.g (Reg.DPTX.AUX_CMD.LEN_M1 n) + 1)
    let s := if r.ack && s.g (Reg.DPTX.AUX_CMD.KIND n) % 2 == 1 then s.auxData n (r.data.take k) else s
    s.auxEnd n (if r.ack then 0 else 1) k
  else s

/-- Whether 400 µs have passed since the AUX transaction of DPTX[n] was last sent. -/
def State.auxDue (s : State) (n : Nat) : Bool :=
  s.coreOn && (s.dpx n).aux == 2 && decide ((s.dpx n).auxAt + 400000 ≤ s.clock)

/-- 400 µs after a DEFER reply (R283): up to 7 retries, then DEFER_LIMIT. -/
def auxDefer (n : Nat) (s : State) : State :=
  if s.auxDue n then
    let x := s.dpx n
    if x.defers < 7 then s.setDp n { x with defers := x.defers + 1, auxAt := s.clock } else s.auxEnd n 2 0
  else s

/-- No reply within 400 µs (R283). -/
def auxTimeout (n : Nat) (s : State) : State := if s.auxDue n then s.auxEnd n 3 0 else s

/-! ### Enabling, training and losses (R278, R282 to R288) -/

/-- A training cycle asked for. -/
def State.dpWant (s : State) (n : Nat) : State := s.setDp n { s.dpx n with want := true }

/-- A training cycle asked for by a plug, an enable or the grant, where HPD and AUTO_TRAIN are 1 (R284). -/
def State.dpAuto (s : State) (n : Nat) : State :=
  if s.gb (Reg.DPTX.STATUS.HPD n) && s.gb (Reg.DPTX.CTRL.AUTO_TRAIN n) then s.dpWant n else s

/-- A write of DPTX[n].CTRL by master `m` (R278, R284, R306). -/
def dpCtrlWrite (m n : Nat) (v : Word) (s : State) : State :=
  let a := (Reg.DPTX.CTRL.ENABLE n).addr
  let was := s.gb (Reg.DPTX.CTRL.ENABLE n)
  let ask := fieldGet v 0 1 = 1
  let t := if !was then s.writeFields m a v 0x80000001
    else if (v ^^^ s.reg a) &&& 0x003FFF00 ≠ 0 then s.logIgnored m a v else s
  let t := if fieldGet v 31 1 = 1 then t.dpWant n else t
  if ask ∧ was = false then
    let r := t.dpCheck n (fieldGet v 14 2)
    let t := t.p (Reg.DPTX.STATUS.ENABLE_RESULT n) r
    if r ≠ 0 then t.logIgnored m a v
    else ((t.pb (Reg.DPTX.CTRL.ENABLE n) true).dpLink n (if t.granted then 1 else 4)).dpAuto n
  else if ¬ask ∧ was = true then
    let qs := quadsOf (t.dpLanes n)
    let t := (t.pb (Reg.DPTX.CTRL.ENABLE n) false).p (Reg.DPTX.STATUS.LINK n) 0
    let t := t.setDp n { t.dpx n with stream := false, lossAt := none }
    (t.quadsRefresh qs).auxResume n
  else t

/-- HPD high for 2 ms (R282). -/
def hpdPlug (n : Nat) (s : State) : State :=
  if s.coreOn && !s.gb (Reg.DPTX.STATUS.HPD n) then
    ((s.pb (Reg.DPTX.STATUS.HPD n) true).raise Ev.dpHpd (n + 256)).dpAuto n
  else s

/-- HPD low for 2 ms (R282). -/
def hpdUnplug (n : Nat) (s : State) : State :=
  if s.coreOn && s.gb (Reg.DPTX.STATUS.HPD n) then
    let link := s.g (Reg.DPTX.STATUS.LINK n)
    let s := (s.pb (Reg.DPTX.STATUS.HPD n) false).raise Ev.dpHpd n
    if 1 ≤ link ∧ link ≤ 3 then ((s.p (Reg.DPTX.STATUS.RESULT n) 7).dpLink n 1).auxResume n else s
  else s

/-- A training cycle starts (R284): CYCLES counts it, and the link is checked against its capacity (R281). -/
def trainStart (n : Nat) (s : State) : State :=
  if s.coreOn && (s.dpx n).want && s.gb (Reg.DPTX.CTRL.ENABLE n) && s.gb (Reg.DPTX.STATUS.HPD n) && s.granted &&
      s.engRunning 23 && s.g (Reg.DPTX.STATUS.LINK n) != 2 then
    let s := (s.setDp n { s.dpx n with want := false, lossAt := none, dpcd := [], tps := [] }).inc (Reg.DPTX.COUNTS.CYCLES n)
    if s.dpOver n then s.dpFail n 8 else s.dpLink n 2
  else s

/-- What the sink says of itself in DPCD 0x000 to 0x003 (R284 step 1). -/
def State.sinkCaps (s : State) (n : Nat) (bs : List Byte) : State :=
  let b := fun i => (bs.getD i 0).toNat
  let s := (s.p (Reg.DPTX.SINK.DPCD_REV n) (b 0)).p (Reg.DPTX.SINK.MAX_LINK_RATE n) (b 1)
  let s := s.p (Reg.DPTX.SINK.MAX_LANE_COUNT n) (b 2)
  (s.p (Reg.DPTX.SINK.TPS3 n) (b 2 / 64)).p (Reg.DPTX.SINK.TPS4 n) (b 3 / 128)

/-- Whether the sink lacks what DPTX[n] needs (R284 step 1): DPCD codes link rates in units of 0.27 Gb/s. -/
def State.capsShort (s : State) (n : Nat) : Bool :=
  let rate := s.g (Reg.DPTX.CTRL.RATE n)
  decide (s.g (Reg.DPTX.SINK.MAX_LINK_RATE n) < [6, 10, 20, 30].getD rate 0) ||
    decide (s.g (Reg.DPTX.SINK.MAX_LANE_COUNT n) < 2 ^ s.g (Reg.DPTX.CTRL.LANES n)) ||
    (rate == 3 && !s.gb (Reg.DPTX.SINK.TPS4 n))

/-- The nibble of lane `l` in two bytes from byte `i` of the lane status read at DPCD 0x202 to 0x207. -/
def laneNibble (bs : List Byte) (i l : Nat) : Nat := ((bs.getD (i + l / 2) 0).toNat >>> (4 * (l % 2))) % 16

/-- Whether every lane has CR_DONE; whether every lane has CR_DONE, CHANNEL_EQ_DONE and SYMBOL_LOCKED, with
INTERLANE_ALIGN_DONE (R284). -/
def crDone (lanes : Nat) (bs : List Byte) : Bool := (List.range lanes).all (fun l => laneNibble bs 0 l % 2 == 1)
def eqDone (lanes : Nat) (bs : List Byte) : Bool :=
  (List.range lanes).all (fun l => laneNibble bs 0 l % 8 == 7) && bitOf (bs.getD 2 0).toNat 0

/-- The levels that ADJUST_REQUEST asks for, as DRIVE holds them: swing and pre-emphasis sum to at most 3 (R279, R284). -/
def adjustOf (lanes : Nat) (bs : List Byte) : Nat :=
  ((List.range lanes).map (fun l =>
    let a := laneNibble bs 4 l
    (a % 4 + 4 * min (a / 4) (3 - a % 4)) * 16 ^ l)).sum

/-- Clock recovery for at most the iterations given, at levels asked for `same` times: whether it ends well, none where AUX fails;
the levels, and the reads left (R284). -/
def crPhase (lanes : Nat) : Nat → Nat → Nat → List (List Byte) → Option Bool × Nat × List (List Byte)
  | 0, lv, _, rs => (some false, lv, rs)
  | _ + 1, lv, _, [] => (none, lv, [])
  | k + 1, lv, same, r :: rs =>
    if crDone lanes r then (some true, lv, rs)
    else
      let want := adjustOf lanes r
      let same := if want = lv then same + 1 else 1
      if 5 ≤ same then (some false, want, rs) else crPhase lanes k want same rs

/-- Equalisation for at most the iterations given (R284). -/
def eqPhase (lanes : Nat) : Nat → Nat → List (List Byte) → Option Bool × Nat
  | 0, lv, _ => (some false, lv)
  | _ + 1, lv, [] => (none, lv)
  | k + 1, lv, r :: rs => if eqDone lanes r then (some true, lv) else eqPhase lanes k (adjustOf lanes r) rs

/-- One attempt, whose reads of DPCD 0x202 to 0x207 are `rs`; a read that it lacks fails on AUX: its end, the levels, whether
equalisation began (R284).
(PRESUMED, log entry 95) -/
def dpTry (lanes : Nat) (rs : List (List Byte)) : DpEnd × Nat × Bool :=
  match crPhase lanes 10 0 0 rs with
  | (none, lv, _) => (.auxFail, lv, false)
  | (some false, lv, _) => (.crFail, lv, false)
  | (some true, lv, rest) =>
    match eqPhase lanes 5 lv rest with
    | (none, lv) => (.auxFail, lv, true)
    | (some false, lv) => (.eqFail, lv, true)
    | (some true, lv) => (.ok, lv, true)

/-- The DPCD writes of one attempt, in order (R284).
(PRESUMED, log entry 95) -/
def State.dpWrites (s : State) (n : Nat) : List (Nat × List Byte) :=
  let rate : Byte := BitVec.ofNat 8 ([6, 10, 20, 30].getD (s.g (Reg.DPTX.CTRL.RATE n)) 0)
  let lanes : Byte := BitVec.ofNat 8 (2 ^ s.g (Reg.DPTX.CTRL.LANES n) + 0x80)
  [(0x600, [1]), (0x100, [rate]), (0x101, [lanes]), (0x107, [if s.gb (Reg.DPTX.CTRL.SSC_EN n) then 0x10 else 0]), (0x102, [0])]

/-- The training pattern of equalisation at a rate (R284). -/
def eqPattern (rate : Nat) : Nat := if rate = 3 then 4 else if rate = 2 then 3 else 2

/-- Attempts made until one succeeds, at most those that `left` counts: the end of the last, its levels, the number made (R284).
(DEDUCED, log entry 43) -/
def State.dpTries (s : State) (n : Nat) : Nat → Nat → List (List (List Byte)) → State × DpEnd × Nat
  | 0, made, _ => (s, .auxFail, made)
  | left + 1, made, ts =>
    let r := dpTry (2 ^ s.g (Reg.DPTX.CTRL.LANES n)) (ts.headD [])
    let x := s.dpx n
    let s := s.setDp n { x with
      dpcd := x.dpcd ++ s.dpWrites n
      tps := x.tps ++ 1 :: (if r.2.2 then [eqPattern (s.g (Reg.DPTX.CTRL.RATE n))] else []) }
    let s := s.p (Reg.DPTX.DRIVE.LEVELS n) r.2.1
    if r.1 = .ok ∨ left = 0 then (s, r.1, made + 1) else s.dpTries n left (made + 1) ts.tail

/-- A training cycle ends (R284): with what the engine read of the sink, and the reads of lane status of each attempt. Without the
grant it is cut short (R288).
(DEDUCED, log entry 43) -/
def trainEnd (n : Nat) (caps : List Byte) (tries : List (List (List Byte))) (s : State) : State :=
  if s.coreOn && s.g (Reg.DPTX.STATUS.LINK n) == 2 && s.granted then
    let s := s.sinkCaps n caps
    let t := if s.capsShort n then (s.p (Reg.DPTX.STATUS.ATTEMPTS n) 0).dpFail n 2
      else
        let r := s.dpTries n 4 0 tries
        let s := r.1.p (Reg.DPTX.STATUS.ATTEMPTS n) r.2.2
        match r.2.1 with
        | .ok => (s.p (Reg.DPTX.STATUS.RESULT n) 1).dpLink n 3
        | .crFail => s.dpFail n 4
        | .eqFail => s.dpFail n 5
        | .auxFail => s.dpFail n 3
    t.auxResume n
  else s

/-- Whether the lane status in DPCD 0x200 to 0x207 means that the link is lost (R287): of each lane, CR_DONE,
CHANNEL_EQ_DONE and SYMBOL_LOCKED, and INTERLANE_ALIGN_DONE. -/
def lanesLost (lanes : Nat) (bs : List Byte) : Bool :=
  let b := fun i => (bs.getD i 0).toNat
  (List.range lanes).any (fun l => (b (2 + l / 2) >>> (4 * (l % 2))) % 8 != 7) || !bitOf (b 4) 0

/-- An IRQ_HPD pulse (R282, R287), with the eight bytes the engine reads, where it can; the bits found at 0x201 are written
back. -/
def irqHpd (n : Nat) (bs : List Byte) (s : State) : State :=
  if s.coreOn && s.gb (Reg.DPTX.STATUS.HPD n) then
    let s := s.inc (Reg.DPTX.HPD_IRQS.COUNT n)
    let vector := bs.getD 1 0
    let s := if s.granted && s.engRunning 23 && vector != 0 then s.setDp n { s.dpx n with dpcd := [(0x201, [vector])] } else s
    if s.granted && s.engRunning 23 && s.g (Reg.DPTX.STATUS.LINK n) == 3 &&
        lanesLost (2 ^ s.g (Reg.DPTX.CTRL.LANES n)) bs then
      let s := (s.dpFail n 6).inc (Reg.DPTX.COUNTS.LOSSES n)
      if s.gb (Reg.DPTX.CTRL.AUTO_RETRAIN n) then s.setDp n { s.dpx n with lossAt := some s.clock } else s
    else s
  else s

/-- 10 ms after a loss (R287). -/
def autoRetrain (n : Nat) (s : State) : State :=
  match (s.dpx n).lossAt with
  | none => s
  | some t =>
    if s.coreOn && decide (t + 10000000 ≤ s.clock) then s.setDp n { s.dpx n with lossAt := none, want := true } else s

/-- What a latch point of head `n` brings its DisplayPort link (R280, R281, R288). -/
def State.dpLatch (s : State) (n : Nat) : State :=
  let link := s.g (Reg.DPTX.STATUS.LINK n)
  if link = 0 ∨ link = 4 then s
  else if !s.granted then s.dpLink n 4
  else if (link = 2 ∨ link = 3) ∧ s.dpOver n = true then (s.dpFail n 8).auxResume n
  else if link = 3 then
    let on := s.g (Reg.HEAD.STATUS.RUN_STATE n) == 2
    s.setDp n { s.dpx n with stream := on, msa := if on then some (s.dpMsa n) else none }
  else s

/-- The grant rises (R288): a link that is still UP, whose head's latch point a release waits for, never stops (R366). -/
def State.dpGrantRise (s : State) : State :=
  allHeads.foldl (fun s n => if s.g (Reg.DPTX.STATUS.LINK n) = 4 then (s.dpLink n 1).dpAuto n
    else if s.gb (Reg.DPTX.CTRL.ENABLE n) && s.g (Reg.DPTX.STATUS.LINK n) != 3 then s.dpAuto n else s) s

/-- The grant falls (R288): AUX stops, and a link whose head does not run goes to electrical idle at once. -/
def State.dpGrantFall (s : State) : State :=
  allHeads.foldl (fun s n =>
    let s := if (s.dpx n).aux = 0 then s else s.auxEnd n 4 0
    if s.g (Reg.DPTX.STATUS.LINK n) = 0 ∨ s.headRuns n = true then s else s.dpLink n 4) s

/-- The link and time engine stops (R286): training is abandoned until it runs again, AUX ends with ENGINE. -/
def State.dpEngineStop (s : State) : State :=
  allHeads.foldl (fun s n =>
    let s := if s.g (Reg.DPTX.STATUS.LINK n) = 2 then (s.dpLink n 1).dpWant n else s
    if (s.dpx n).aux = 0 then s else s.auxEnd n 5 0) s

/-! ### Thizon: enabling (R278, R304) -/

/-- The pixel bytes of a line packet of head `n` (R292). -/
def State.lineBytes (s : State) (n : Nat) : Nat := (if s.gb (Reg.HEAD.OUT_CTRL.DEPTH8 n) then 3 else 4) * s.activeW n

/-- The head that TZL[q] carries. -/
def State.tzlHead (s : State) (q : Nat) : Nat := s.g (Reg.TZL.CTRL.HEAD q)

/-- Whether the bond of TZL[q] fits its head (R304). -/
def State.tzlFits (s : State) (q : Nat) : Bool :=
  let n := s.tzlHead q
  let w := s.tzlWidth q
  let r : Rat := if s.gb (Reg.TZL.CTRL.RATE q) then 25 else 25 / 2
  decide ((((12 + s.lineBytes n + w - 1) / w + 2 : Nat) : Rat) ≤ 19 / 20 * s.lineNs n * r / 10)

/-- All display lanes of TZL[q], its spare included. -/
def State.tzlAll (s : State) (q : Nat) : List Nat := s.tzlLanes q ++ s.tzlSpare q

/-- The first check of R278 that TZL[q] fails, 0 where all pass. -/
def State.tzlCheck (s : State) (q : Nat) : Nat :=
  if s.tzlWidth q = 8 ∧ q % 2 = 1 then 1
  else if s.lanesBusy (s.tzlAll q) then 2
  else if s.quadsDiffer (quadsOf (s.tzlAll q)) (if s.gb (Reg.TZL.CTRL.RATE q) then 7 else 6) false then 3
  else if (s.tzlSpare q).any (fun d => (s.tzlLanes q).contains d) then 4
  else if s.gb (Reg.HEAD.CTRL.ENABLE (s.tzlHead q)) && !s.tzlFits q then 5
  else 0

/-- Whether LINK of TZL[q] is UP or UP_SPARED. -/
def State.tzlUp (s : State) (q : Nat) : Bool := decide (3 ≤ s.g (Reg.TZL.STATUS.LINK q))

/-- The queued control packet is discarded (R294). -/
def State.ctrlDrop (s : State) (q : Nat) : State :=
  if s.gb (Reg.TZL.CTRL_SEND.SEND q) then
    ((s.pb (Reg.TZL.CTRL_SEND.SEND q) false).p (Reg.TZL.CTRL_SEND.RESULT q) 2).setTz q { s.tz q with queued := none }
  else s

/-- LINK of TZL[q] set; leaving UP ends what it sends (R303), the stream, the version and the queued packet, and EV_TZL_LINK
marks every change between OFF or DOWN and UP or UP_SPARED (R290). -/
def State.tzlLink (s : State) (q link : Nat) : State :=
  let s := s.p (Reg.TZL.STATUS.LINK q) link
  let s := if 3 ≤ link then s
    else
      let s := (s.p (Reg.TZL.STATUS.STREAM q) 0).p (Reg.TZL.STATUS.VERSION q) 0
      ((s.pb (Reg.TZL.STATUS.SPARE_OK q) false).setTz q {
        s.tz q with txMoved := false, rxMoved := false, cut := false, wire := [] }).ctrlDrop q
  let up := decide (3 ≤ link)
  if link = 2 ∨ (s.tz q).wasUp = up then s
  else (s.setTz q { s.tz q with wasUp := up }).raise Ev.tzlLink q

/-! ### Thizon: symbols (R289, R290) -/

/-- The display lane that carries bond lane `i` of TZL[q]: the spare where it has taken that lane's traffic (R277, R301). -/
def State.bondLane (s : State) (q i : Nat) : Nat :=
  if (s.tz q).txMoved && s.g (Reg.TZL.STATUS.SPARED_LANE q) == i then s.g (Reg.TZL.CTRL.SPARE_LANE q) else 4 * q + i

/-- The symbols of bond lane `i` of `w` for a packet between its start symbol and EOP (R289). -/
def packetSyms (w : Nat) (start : TzlSym) (bs : List Byte) (i : Nat) : List TzlSym :=
  start :: (List.range ((bs.length + w - 1) / w)).map (fun t => TzlSym.data (bs.getD (w * t + i) 0)) ++ [.eop]

/-- Symbols with ALIGN before them and after every 4,095 of them (R289).
(DEDUCED, log entry 44) -/
def withAlign : Nat → List TzlSym → List TzlSym
  | 0, xs => xs
  | fuel + 1, xs => if xs.isEmpty then [] else .com :: (xs.take 4095 ++ withAlign fuel (xs.drop 4095))

/-- TZL[q] sends packets, ALIGN before each; a spare lane that is not in use carries ALIGN and IDL (R289).
(DEDUCED, log entry 44) -/
def State.tzlSends (s : State) (q : Nat) (ps : List (TzlSym × List Byte)) : State :=
  let w := s.tzlWidth q
  let syms := fun (i : Nat) => (ps.map (fun x =>
    let l := packetSyms w x.1 x.2 i
    withAlign (l.length + 1) l)).flatten
  let bond := (List.range w).map (fun i => (s.bondLane q i, syms i))
  let spare := if (s.tz q).txMoved then [] else (s.tzlSpare q).map (fun d =>
    (d, (syms 0).map (fun x => if x = .com then .com else .idl)))
  s.setTz q { s.tz q with wire := bond ++ spare }

/-- The 16 symbols of TS1 or TS2 on bond lane `lane`, 8 for the spare (R290). -/
def tsSyms (ts2 : Bool) (lane width vmax vsel : Nat) (spare : Bool) : List TzlSym :=
  let d := fun (x : Nat) => TzlSym.data (BitVec.ofNat 8 x)
  let t := if ts2 then 0x45 else 0x4A
  [.com, d t, d lane, d width, d vmax, d (if ts2 then vsel else 0), d spare.toNat] ++ List.replicate 9 (d t)

/-- TZL[q] sends TS1, or TS2 with the version selected, on every bond lane and, but for version 2, on its spare (R290, R291). -/
def State.tzlSet (s : State) (q : Nat) (ts2 : Bool) (vsel : Nat) : State :=
  let set := fun (lane : Nat) => tsSyms ts2 lane (s.tzlWidth q) (s.g (Reg.TZL.CTRL.VERSION_MAX q)) vsel
    (s.gb (Reg.TZL.CTRL.SPARE_EN q))
  let spare := if vsel = 3 then (s.tzlSpare q).map (fun d => (d, set 8)) else []
  s.setTz q { s.tz q with ts2 := ts2, wire := (List.range (s.tzlWidth q)).map (fun i => (4 * q + i, set i)) ++ spare }

/-- The display lanes of bond lanes of TZL[q] in the order of their numbers, but for lane `but`. -/
def State.bondLanes (s : State) (q : Nat) (but : Option Nat) : List Nat :=
  ((List.range (s.tzlWidth q)).filter (fun i => but != some i)).map (s.bondLane q)

/-- The same symbols on every bond lane of TZL[q], and on no other (R289). -/
def State.tzlSay (s : State) (q : Nat) (xs : List TzlSym) : State :=
  s.setTz q { s.tz q with wire := (s.bondLanes q none).map (fun d => (d, xs)) }

/-- A request for the spare in place of bond lane `k`, on every other lane of TZL[q], its spare included (R301). -/
def State.tzlSpr (s : State) (q k : Nat) : State :=
  let bond := s.bondLanes q (some k)
  let lanes := bond ++ (s.tzlSpare q).filter (fun d => !bond.contains d)
  s.setTz q { s.tz q with wire := lanes.map (fun d => (d, [TzlSym.spr, .data (BitVec.ofNat 8 k)])) }

/-- TZL[q] sends `xs` and then ALIGN and IDL on every bond lane and on its spare: what an idle bond sends, ALIGN again at least
once per 4,096 symbol times (R289, R296). -/
def State.tzlIdle (s : State) (q : Nat) (xs : List TzlSym) : State :=
  let lanes := s.bondLanes q none
  let all := lanes ++ (s.tzlSpare q).filter (fun d => !lanes.contains d)
  s.setTz q { s.tz q with wire := all.map (fun d => (d, xs ++ [.com, .idl])) }

/-- STREAM of TZL[q] as its head and its timing stand; without lines the bond sends ALIGN and IDL (R296, R304). -/
def State.tzlStream (s : State) (q : Nat) : State :=
  let up := s.tzlUp q
  let want := if !up || s.g (Reg.HEAD.STATUS.RUN_STATE (s.tzlHead q)) != 2 then 0 else if s.tzlFits q then 1 else 2
  let was := s.g (Reg.TZL.STATUS.STREAM q)
  let s := s.p (Reg.TZL.STATUS.STREAM q) want
  let s := if up && want != 1 then s.tzlIdle q [] else s
  if want = 2 ∧ was ≠ 2 then s.raise Ev.tzlLink q else s

/-- A training attempt begins (R290); while the link and time engine does not run it waits (R23).
(DEDUCED, log entry 44) -/
def State.tzlTry (s : State) (q : Nat) : State :=
  let s := s.setTz q { s.tz q with want := false }
  if !s.engRunning 23 then
    let s := s.tzlLink q 1
    s.setTz q { s.tz q with clockAt := s.clock }
  else
    let s := s.tzlLink q 2
    (s.setTz q { s.tz q with clockAt := s.clock }).tzlSet q false (s.g (Reg.TZL.CTRL.VERSION_MAX q))

/-- A training attempt fails (R290): the next one may begin after 100 ms. -/
def State.tzlFail (s : State) (q result : Nat) : State :=
  let s := (s.p (Reg.TZL.STATUS.RESULT q) result).tzlLink q 1
  s.setTz q { s.tz q with clockAt := s.clock + 100000000 }

/-- TRAIN of an enabled bond (R302); while the link and time engine does not run, a trained bond keeps running and the request
waits for it (R23).
(DEDUCED, log entry 44) -/
def State.tzlTrain (s : State) (q : Nat) : State :=
  if s.engRunning 23 then s.tzlTry q else s.setTz q { s.tz q with want := true }

/-- A write of TZL[q].CTRL by master `m` (R278, R302, R306). -/
def tzlCtrlWrite (m q : Nat) (v : Word) (s : State) : State :=
  let a := (Reg.TZL.CTRL.ENABLE q).addr
  let was := s.gb (Reg.TZL.CTRL.ENABLE q)
  let ask := fieldGet v 0 1 = 1
  let t := if !was then s.writeFields m a v 0x80000001
    else if (v ^^^ s.reg a) &&& 0x03FFE07E ≠ 0 then s.logIgnored m a v else s
  if ask ∧ was = false then
    let r := t.tzlCheck q
    let t := t.p (Reg.TZL.STATUS.ENABLE_RESULT q) r
    if r ≠ 0 then t.logIgnored m a v
    else ((t.pb (Reg.TZL.CTRL.ENABLE q) true).quadsRefresh (quadsOf (t.tzlAll q))).tzlTry q
  else if ¬ask ∧ was = true then
    let qs := quadsOf (t.tzlAll q)
    let t := t.setTz q { t.tz q with want := false }
    ((t.pb (Reg.TZL.CTRL.ENABLE q) false).tzlLink q 0).quadsRefresh qs
  else if fieldGet v 31 1 = 1 ∧ was = true then t.tzlTrain q
  else t

/-! ### Thizon: training (R290, R291) -/

/-- Eight consecutive ordered sets on every bond lane (R290): the lanes hear with lock. No version is negotiated while the link
and time engine does not run (R23). -/
def orderedSet (q : Nat) (o : OrderedSet) (s : State) : State :=
  if s.coreOn && s.g (Reg.TZL.STATUS.LINK q) == 2 && s.engRunning 23 &&
      (s.tzlLanes q).all (fun d => s.laneGood (dispQuad d) (dispLane d)) then
    let s := s.p (Reg.TZL.STATUS.PARTNER_VMAX q) o.vmax
    let vsel := min (s.g (Reg.TZL.CTRL.VERSION_MAX q)) (o.vmax % 256)
    if o.width ≠ s.tzlWidth q then s.tzlFail q 3
    else if o.vmax % 256 < 2 then s.tzlFail q 4
    else if !o.ts2 then s.tzlSet q true vsel
    else if (s.tz q).ts2 && o.vsel == vsel then
      let spareOk := decide (vsel = 3) && s.gb (Reg.TZL.CTRL.SPARE_EN q) && o.spare &&
        (s.tzlSpare q).all (fun d => s.laneGood (dispQuad d) (dispLane d))
      let s := ((s.p (Reg.TZL.STATUS.RESULT q) 1).tzlLink q 3).p (Reg.TZL.STATUS.VERSION q) vsel
      let s := (s.pb (Reg.TZL.STATUS.SPARE_OK q) spareOk).tzlStream q
      if s.g (Reg.TZL.STATUS.STREAM q) = 1 then s.tzlSay q (List.replicate 16 .idl) else s.tzlIdle q (List.replicate 16 .idl)
    else s
  else s

/-- An attempt not complete after 10 ms (R290). -/
def tzlTimeout (q : Nat) (s : State) : State :=
  if s.coreOn && s.g (Reg.TZL.STATUS.LINK q) == 2 && s.engRunning 23 && decide ((s.tz q).clockAt + 10000000 ≤ s.clock) then
    s.tzlFail q 2
  else s

/-- The framer tries again (R290, R303), or does what a TRAIN that waited for the engine asked (R302). -/
def tzlRetry (q : Nat) (s : State) : State :=
  if s.coreOn && s.gb (Reg.TZL.CTRL.ENABLE q) && s.engRunning 23 &&
      ((s.tz q).want || (s.g (Reg.TZL.STATUS.LINK q) == 1 && decide ((s.tz q).clockAt ≤ s.clock)))
  then s.tzlTry q
  else s

/-! ### Thizon: packets (R292 to R296) -/

/-- The bytes of pixel word `w` in a line packet. -/
def pixelBytes (depth8 : Bool) (w : Nat) : List Byte :=
  if depth8 then [BitVec.ofNat 8 (bitsOf w 20 8), BitVec.ofNat 8 (bitsOf w 10 8), BitVec.ofNat 8 (bitsOf w 0 8)]
  else leBytes w 4

/-- A packet closed with the CRC-32C of its bytes. -/
def crcClosed (bs : List Byte) : List Byte := bs ++ leBytes (crc32c bs) 4

/-- The line packet of line `y` of head `n` (R292). -/
def State.linePacket (s : State) (n y : Nat) : List Byte :=
  let d8 := s.gb (Reg.HEAD.OUT_CTRL.DEPTH8 n)
  crcClosed (leBytes (y % 8192) 2 ++ leBytes (s.g (Reg.HEAD.HTIM_ACT.ACT_M1 (s.lead n))) 2 ++
    leBytes (s.g (Reg.HEAD.FRAME.COUNT n)) 1 ++ leBytes d8.toNat 1 ++ leBytes n 1 ++ [0] ++
    ((s.head n).frame.line.map (pixelBytes d8)).flatten)

/-- The framer sends line `y`, which its head scans from its output buffer or has scanned last (R296). -/
def tzlLinePacket (q y : Nat) (s : State) : State :=
  let n := s.tzlHead q
  let f := (s.head n).frame
  if s.coreOn && s.tzlUp q && s.g (Reg.TZL.STATUS.STREAM q) == 1 && decide (f.scanned ≤ y + 1) && decide (y < f.nextLine) then
    let s := s.scanLines n (y + 1 - f.scanned)
    let bs := s.linePacket n y
    (s.setTz q { s.tz q with line := bs }).tzlSends q [(.slp, bs)]
  else s

/-- The trailer of the frame of `n` last ended, as TZL[q] sends it (R293). -/
def State.trailerOf (s : State) (q n : Nat) : List Byte :=
  let b := (s.head n).sealed
  let more := 32 * (s.tz q).cut.toNat + 64 * (decide (s.g (Reg.TZL.STATUS.LINK q) = 4)).toNat +
    128 * (s.gb (Reg.TZL.CTRL.LOOP_END q)).toNat
  let flags := leNat ((b.drop 12).take 2) + more
  let sealed := b.take 12 ++ leBytes flags 2 ++ b.drop 14
  [0, 255, 0, 0] ++ crcClosed sealed

/-- What a latch point of head `n` brings TZL[q], which carries it (R293, R294, R296): the trailer of a frame that has
ended, then a queued control packet with the grant, then STREAM. -/
def State.tzlLatch (s : State) (q n : Nat) (first : Bool) : State :=
  let sends := s.tzlUp q && s.g (Reg.TZL.STATUS.STREAM q) == 1 && !first
  let trailer := s.trailerOf q n
  let s := if sends then
      let s := (s.setTz q { s.tz q with trailer := trailer }).inc (Reg.TZL.FRAMES.COUNT q)
      match (s.tz q).queued with
      | some bs =>
        if s.granted then
          (((s.setTz q { s.tz q with queued := none, control := bs }).pb (Reg.TZL.CTRL_SEND.SEND q) false).p
            (Reg.TZL.CTRL_SEND.RESULT q) 0).tzlSends q [(.str, trailer), (.sct, bs)]
        else s.tzlSends q [(.str, trailer)]
      | none => s.tzlSends q [(.str, trailer)]
    else s
  (s.setTz q { s.tz q with cut := false }).tzlStream q

/-- A latch point of head `n` as its links take it. -/
def State.linkLatch (s : State) (first : Bool) (n : Nat) : State :=
  (List.range 16).foldl (fun s q =>
    if s.gb (Reg.TZL.CTRL.ENABLE q) && s.tzlHead q == n then s.tzlLatch q n first else s) (s.dpLatch n)

/-- A write of CTRL_SEND (R294).
(DEDUCED, log entry 43) (DEDUCED, log entry 44) -/
def ctrlSend (q : Nat) (v : Word) (s : State) : State :=
  if fieldGet v 31 1 = 0 ∨ s.gb (Reg.TZL.CTRL_SEND.SEND q) = true then s
  else
    let len := s.g (Reg.TZL.CTRL_HDR.LEN q)
    if len = 0 ∨ 32 < len then s.p (Reg.TZL.CTRL_SEND.RESULT q) 1
    else if !s.tzlUp q then s.p (Reg.TZL.CTRL_SEND.RESULT q) 2
    else
      let data := ((List.range 8).map (fun k => leBytes (s.g (Reg.TZL.CTRL_DATA.DATA q k)) 4)).flatten
      let bs := leBytes (s.g (Reg.TZL.CTRL_HDR.ADDR q)) 1 ++ leBytes len 1 ++ leBytes (s.g (Reg.TZL.CTRL_HDR.TAG q)) 2 ++
        data.take len
      (s.pb (Reg.TZL.CTRL_SEND.SEND q) true).setTz q { s.tz q with queued := some (crcClosed bs) }

/-- A write of CTRL_DATA0 to CTRL_DATA7, ignored and logged while SEND reads 1 (R294). -/
def ctrlDataWrite (m q a : Nat) (v : Word) (s : State) : State :=
  if s.gb (Reg.TZL.CTRL_SEND.SEND q) then s.logIgnored m a v else s.writeFields m a v 0

/-- A write of a register of the status ring, ignored and logged while ENABLE is 1 (R306). -/
def statRingWrite (m q a : Nat) (v : Word) (s : State) : State :=
  if s.gb (Reg.TZL.CTRL.ENABLE q) then s.logIgnored m a v else s.writeFields m a v 0

/-- A status packet received (R295): written to the ring of TZL[q], or discarded. -/
def tzlStatus (q : Nat) (bs : List Byte) (s : State) : State :=
  if s.coreOn && s.tzlUp q && s.g (Reg.TZL.STATUS.VERSION q) == 3 && bs.length == 20 &&
      crcClosed (bs.take 16) == bs then
    let size := 2 ^ s.g (Reg.TZL.STAT_BASE.LOG2 q)
    let wr := s.g (Reg.TZL.STAT_WR.INDEX q)
    let a := 4096 * s.g (Reg.TZL.STAT_BASE.ADDR q) + 32 * wr
    if (wr + 1) % size = s.g (Reg.TZL.STAT_RD.INDEX q) % size ∨ s.inDram a 32 = false then
      s.pb (Reg.TZL.STAT_WR.STAT_OVF q) true
    else
      let s := (s.dmaWrite 41 3 a (bs.take 16 ++ leBytes s.time.count 8 ++ leBytes 0 8)).1
      s.p (Reg.TZL.STAT_WR.INDEX q) ((wr + 1) % size)
  else s

/-- A trailer of the far feed of a loop (R297, R299). -/
def loopTrailer (q : Nat) (bs : List Byte) (s : State) : State :=
  let hop := (bs.getD 0 0).toNat
  let good := bs.length == 24 && hop + (bs.getD 1 0).toNat == 255 && crcClosed ((bs.drop 4).take 16) == bs.drop 4
  if s.coreOn && s.tzlUp q && good then
    let s := (s.inc (Reg.TZL.LOOP_FRAMES.COUNT q)).p (Reg.TZL.LOOP.LOOP_HOP q) hop
    let s := s.pb (Reg.TZL.STATUS.LOOP_ACTIVE q) (bitOf (bs.getD 16 0).toNat 0)
    (s.pb (Reg.TZL.STATUS.LOOP_SEEN q) true).setTz q { s.tz q with loopAt := s.clock }
  else s

/-- 100 ms without a far-feed trailer (R299). -/
def loopExpire (q : Nat) (s : State) : State :=
  if decide ((s.tz q).loopAt + 100000000 ≤ s.clock) then s.pb (Reg.TZL.STATUS.LOOP_SEEN q) false else s

/-! ### Thizon: lane loss (R301 to R303) -/

/-- The bond of TZL[q] goes down for want of a spare (R303). -/
def State.bondDown (s : State) (q : Nat) : State :=
  let s := ((s.p (Reg.TZL.STATUS.RESULT q) 5).inc (Reg.TZL.LOOP.LINK_DOWNS q)).tzlLink q 1
  s.setTz q { s.tz q with clockAt := s.clock }

/-- Whether the spare of TZL[q] can take bond lane `k` (R301). -/
def State.canSpare (s : State) (q k : Nat) : Bool :=
  s.gb (Reg.TZL.CTRL.SPARE_EN q) && s.g (Reg.TZL.STATUS.VERSION q) == 3 && s.gb (Reg.TZL.STATUS.SPARE_OK q) &&
    (s.g (Reg.TZL.STATUS.LINK q) == 3 ||
      (s.g (Reg.TZL.STATUS.LINK q) == 4 && s.g (Reg.TZL.STATUS.SPARED_LANE q) == k))

/-- Bond lane `k` of TZL[q] is replaced by the spare.
(DEDUCED, log entry 44) -/
def State.spared (s : State) (q k : Nat) : State := (s.p (Reg.TZL.STATUS.SPARED_LANE q) k).tzlLink q 4

/-- An SPR received for bond lane `k` (R301, R303): the framer is the transmitting end; `cut` says that it cut a line
packet. -/
def sprReceive (q k : Nat) (cut : Bool) (s : State) : State :=
  if s.coreOn && s.tzlUp q && decide (k < s.tzlWidth q) then
    if !s.canSpare q k then s.bondDown q
    else if (s.tz q).txMoved then s
    else
      let s := (s.spared q k).inc (Reg.TZL.SPARE_COUNTS.SPARE_EVENTS q)
      let s := s.setTz q { s.tz q with txMoved := true, cut := (s.tz q).cut || cut }
      let s := if cut then (s.inc (Reg.TZL.SPARE_COUNTS.LINES_LOST q)).tzlSay q [.eop] else s
      s.raise Ev.laneSpare q
  else s

/-- LOS or LOL of display lane `d`, which TZL[q] has in its bond or as its spare (R301, R303, R434).
(DEDUCED, log entry 44) -/
def State.tzlLaneLost (s : State) (q d : Nat) : State :=
  if !s.tzlUp q then s
  else if (s.tzlSpare q).contains d then
    if s.g (Reg.TZL.STATUS.LINK q) = 4 then s.bondDown q else s.pb (Reg.TZL.STATUS.SPARE_OK q) false
  else
    let k := d - 4 * q
    if !s.canSpare q k then s.bondDown q
    else
      let s := s.spared q k
      (s.setTz q { s.tz q with rxMoved := true }).tzlSpr q k

/-! ### The commands -/

/-- DPTX_ENABLE (R278): a write of the whole CTRL word. -/
def execDptxEnable (dt : Nat) (m : Master) (n : Fin 64) (v : Word) (s : State) : Out State :=
  let v := fieldSet v 0 1 1
  .next ((s.advance dt).ctlWrite m.val (Reg.DPTX.CTRL.ENABLE n.val).addr v (dpCtrlWrite m.val n.val v))

/-- DPTX_DISABLE (R306). -/
def execDptxDisable (dt : Nat) (m : Master) (n : Fin 64) (s : State) : Out State :=
  let s := s.advance dt
  let v := s.fieldWord (Reg.DPTX.CTRL.ENABLE n.val) 0
  .next (s.ctlWrite m.val (Reg.DPTX.CTRL.ENABLE n.val).addr v (dpCtrlWrite m.val n.val v))

/-- DPTX_TRAIN_REQUEST (R284). -/
def execDptxTrainRequest (dt : Nat) (m : Master) (n : Fin 64) (s : State) : Out State :=
  let s := s.advance dt
  let v := s.fieldWord (Reg.DPTX.CTRL.TRAIN n.val) 1
  .next (s.ctlWrite m.val (Reg.DPTX.CTRL.ENABLE n.val).addr v (dpCtrlWrite m.val n.val v))

/-- DP_TRAINING_CYCLE (R284). -/
def execDpTrainingCycle (dt : Nat) (n : Fin 64) (s : State) : Out State := .next (trainStart n.val (s.advance dt))

/-- DP_TRAINING_END (R284): with the DPCD bytes read, and each attempt's reads of lane status. -/
def execDpTrainingEnd (dt : Nat) (n : Fin 64) (caps : List Byte) (first second : List (List Byte)) (later : List (List (List Byte)))
    (s : State) : Out State :=
  .next (trainEnd n.val caps (first :: second :: later) (s.advance dt))

/-- DP_HPD_PLUG (R282). -/
def execDpHpdPlug (dt : Nat) (n : Fin 64) (s : State) : Out State := .next (hpdPlug n.val (s.advance dt))

/-- DP_HPD_UNPLUG (R282). -/
def execDpHpdUnplug (dt : Nat) (n : Fin 64) (s : State) : Out State := .next (hpdUnplug n.val (s.advance dt))

/-- DP_IRQ_HPD (R287): with DPCD 0x200 to 0x207. -/
def execDpIrqHpd (dt : Nat) (n : Fin 64) (bs : List Byte) (s : State) : Out State :=
  .next (irqHpd n.val bs (s.advance dt))

/-- DP_AUTO_RETRAIN (R287). -/
def execDpAutoRetrain (dt : Nat) (n : Fin 64) (s : State) : Out State := .next (autoRetrain n.val (s.advance dt))

/-- AUX_TRANSACTION (R283): a write of the whole AUX_CMD word, with GO. -/
def execAuxTransaction (dt : Nat) (m : Master) (n : Fin 64) (v : Word) (s : State) : Out State :=
  let v := fieldSet v 31 1 1
  .next ((s.advance dt).ctlWrite m.val (Reg.DPTX.AUX_CMD.GO n.val).addr v (auxCmdWrite m.val n.val v))

/-- AUX_DEFER_RETRY (R283). -/
def execAuxDeferRetry (dt : Nat) (n : Fin 64) (s : State) : Out State := .next (auxDefer n.val (s.advance dt))

/-- AUX_REPLY_TIMEOUT (R283). -/
def execAuxReplyTimeout (dt : Nat) (n : Fin 64) (s : State) : Out State := .next (auxTimeout n.val (s.advance dt))

/-- AUX_DONE (R283): the reply. -/
def execAuxDone (dt : Nat) (n : Fin 64) (r : AuxReply) (s : State) : Out State :=
  .next (auxDone n.val r (s.advance dt))

/-- TZL_ENABLE (R278): a write of the whole CTRL word. -/
def execTzlEnable (dt : Nat) (m : Master) (q : Fin 16) (v : Word) (s : State) : Out State :=
  let v := fieldSet v 0 1 1
  .next ((s.advance dt).ctlWrite m.val (Reg.TZL.CTRL.ENABLE q.val).addr v (tzlCtrlWrite m.val q.val v))

/-- TZL_DISABLE (R302). -/
def execTzlDisable (dt : Nat) (m : Master) (q : Fin 16) (s : State) : Out State :=
  let s := s.advance dt
  let v := s.fieldWord (Reg.TZL.CTRL.ENABLE q.val) 0
  .next (s.ctlWrite m.val (Reg.TZL.CTRL.ENABLE q.val).addr v (tzlCtrlWrite m.val q.val v))

/-- TZL_TRAIN (R302). -/
def execTzlTrain (dt : Nat) (m : Master) (q : Fin 16) (s : State) : Out State :=
  let s := s.advance dt
  let v := s.fieldWord (Reg.TZL.CTRL.TRAIN q.val) 1
  .next (s.ctlWrite m.val (Reg.TZL.CTRL.ENABLE q.val).addr v (tzlCtrlWrite m.val q.val v))

/-- TZL_ORDERED_SET (R290): the set received eight times on every bond lane. -/
def execTzlOrderedSet (dt : Nat) (q : Fin 16) (o : OrderedSet) (s : State) : Out State :=
  .next (orderedSet q.val o (s.advance dt))

/-- TZL_TRAINING_TIMEOUT (R290). -/
def execTzlTrainingTimeout (dt : Nat) (q : Fin 16) (s : State) : Out State := .next (tzlTimeout q.val (s.advance dt))

/-- TZL_TRAINING_RETRY (R290). -/
def execTzlTrainingRetry (dt : Nat) (q : Fin 16) (s : State) : Out State := .next (tzlRetry q.val (s.advance dt))

/-- TZL_LINE_PACKET (R296): the line. -/
def execTzlLinePacket (dt : Nat) (q : Fin 16) (y : Nat) (s : State) : Out State :=
  .next (tzlLinePacket q.val y (s.advance dt))

/-- CTRL_SEND (R294). -/
def execCtrlSend (dt : Nat) (m : Master) (q : Fin 16) (s : State) : Out State :=
  .next ((s.advance dt).ctlWrite m.val (Reg.TZL.CTRL_SEND.SEND q.val).addr 0x80000000 (ctrlSend q.val 0x80000000))

/-- TZL_STATUS_PACKET (R295): the packet received. -/
def execTzlStatusPacket (dt : Nat) (q : Fin 16) (bs : List Byte) (s : State) : Out State :=
  .next (tzlStatus q.val bs (s.advance dt))

/-- TZL_LOOP_TRAILER (R299): the trailer received. -/
def execTzlLoopTrailer (dt : Nat) (q : Fin 16) (bs : List Byte) (s : State) : Out State :=
  .next (loopTrailer q.val bs (s.advance dt))

/-- TZL_LOOP_SEEN_EXPIRE (R299). -/
def execTzlLoopSeenExpire (dt : Nat) (q : Fin 16) (s : State) : Out State := .next (loopExpire q.val (s.advance dt))

/-- TZL_SPR_RECEIVE (R301): the bond lane named, and whether the move cuts a line packet. -/
def execTzlSprReceive (dt : Nat) (q : Fin 16) (lane : Fin 8) (cut : Bool) (s : State) : Out State :=
  .next (sprReceive q.val lane.val cut (s.advance dt))

end Sys2Proof.Machine
end

