-- ==== Sys2Proof/Machine/Net.lean ====
section
/-! DEFINITION. The network ports: modes, links, received frames and their classes, transmitted frames, the management
MDIO (R87, R88, R97 to R102). -/

namespace Sys2Proof.Machine

/-! ### Ports (R97, R98) -/

/-- The lanes of port `l` of network quad `q`. -/
def State.portLanes (s : State) (q l : Nat) : List Nat := if s.g (Reg.NET.CTRL.MODE q) = 1 then laneNums else [l]

/-- Whether port `l` of network quad `q` exists in its mode and is enabled. -/
def State.portOn (s : State) (q l : Nat) : Bool :=
  s.g (Reg.NET.CTRL.MODE q) != 0 && (s.g (Reg.NET.CTRL.MODE q) != 1 || l == 0) && bitOf (s.g (Reg.NET.CTRL.PORT_EN q)) l

/-- Whether RS-FEC is on at a port (R97). -/
def State.portFec (s : State) (q l : Nat) : Bool :=
  s.g (Reg.NET.CTRL.MODE q) == 1 || (s.g (Reg.NET.CTRL.MODE q) == 2 && bitOf (s.g (Reg.NET.CTRL.FEC_EN q)) l)

/-- LINK of a port set, with its count and EV_NET_LINK where it changes (R98).
(DEDUCED, log entry 45) -/
def State.portLink (s : State) (q l : Nat) (up : Bool) : State :=
  if s.gb (Reg.NET.PORT.LINK q l) = up then s
  else ((s.pb (Reg.NET.PORT.LINK q l) up).incSat (Reg.NET.PORT.LINK_CHANGES q l)).raise Ev.netLink
    (4 * q + l + if up then 256 else 0)

/-- A port's link falls. -/
def State.portDown (s : State) (q l : Nat) : State :=
  ((s.pb (Reg.NET.PORT.FEC_LOCK q l) false).pb (Reg.NET.PORT.HI_BER q l) false).portLink q l false

/-- BLOCK_LOCK of a port: of every lane it has. -/
def State.portLock (s : State) (q l : Nat) : Bool :=
  s.portOn q l && (s.portLanes q l).all (fun k => s.gb (Reg.LANE.BLOCK_LOCK q k))

/-- A write of NET[q].CTRL by master `m` (R98, R437): every port goes down and the quad takes its new mode; a MODE other
than OFF is refused while a lane of the quad is in test.
(DEDUCED, log entry 45) -/
def netCtrlWrite (m q : Nat) (v : Word) (s : State) : State :=
  let a := (Reg.NET.CTRL.MODE q).addr
  if s.quadTests q && fieldGet v 0 2 != 0 then (s.writeFields m a v 3).logIgnored m a v
  else
    let s := laneNums.foldl (fun s l => s.portDown q l) s
    (s.writeFields m a v 0).quadRefresh q

/-- LINK of port `p` changes (R98): it rises on an enabled port with block lock on every lane and without a high
bit-error ratio. -/
def netLinkChange (p : Nat) (up hiBer : Bool) (s : State) : State :=
  let q := p / 4
  let l := p % 4
  if !s.coreOn then s
  else if up then
    if s.portLock q l && !hiBer then
      ((s.pb (Reg.NET.PORT.FEC_LOCK q l) (s.portFec q l)).pb (Reg.NET.PORT.HI_BER q l) false).portLink q l true
    else s
  else (s.portDown q l).pb (Reg.NET.PORT.HI_BER q l) (hiBer && s.portLock q l)

/-! ### Received frames (R99, R100) -/

/-- `n` big-endian bytes of a frame from `i`. -/
def beAt (bs : List Byte) (i n : Nat) : Nat := beNat ((bs.drop i).take n)

/-- The ones' complement sum of a header is 0xFFFF. -/
def ipSumGood (h : List Byte) : Bool :=
  let sum := (List.range (h.length / 2)).foldl (fun acc i => acc + beAt h (2 * i) 2) 0
  let fold := fun (x : Nat) => x % 65536 + x / 65536
  fold (fold sum) == 65535

/-- A frame after its destination and source address: the EtherType with one 802.1Q tag stripped, and what follows it. -/
def etherBody (bs : List Byte) : Nat × List Byte :=
  if beAt bs 12 2 = 0x8100 then (beAt bs 16 2, bs.drop 18) else (beAt bs 12 2, bs.drop 14)

/-- A frame without its 802.1Q tag. -/
def untagged (bs : List Byte) : List Byte := if beAt bs 12 2 = 0x8100 then bs.take 12 ++ bs.drop 16 else bs

/-- Whether an IPv4 packet has a correct header checksum and is no fragment. -/
def ipGood (ip : List Byte) : Bool :=
  let b0 := (ip.getD 0 0).toNat
  let hl := 4 * (b0 % 16)
  b0 / 16 == 4 && decide (20 ≤ hl) && decide (hl ≤ ip.length) && ipSumGood (ip.take hl) && beAt ip 6 2 % 16384 == 0

/-- Whether a port accepts a frame of these bytes, FCS included (R99). -/
def State.frameGood (s : State) (q l : Nat) (bs : List Byte) (fcsOk : Bool) : Bool :=
  let body := etherBody bs
  let own := s.g (Reg.NET.PORT.MAC_HI q l) * 2 ^ 32 + s.g (Reg.NET.PORT.MAC_LO q l)
  fcsOk && decide (64 ≤ bs.length) && decide (bs.length ≤ 9216) &&
    (body.1 == 0x0806 || (body.1 == 0x0800 && ipGood body.2)) &&
    (beAt bs 0 6 == own || bitOf (bs.getD 0 0).toNat 0)

/-- Whether source entry `i` matches a UDP datagram at a port on one of its paths, and whether on UDP port + 1 (R100). -/
def State.srcMatch (s : State) (i port dst src udp : Nat) (pathB : Bool) : Option Bool :=
  let t := s.g (Reg.ING.SRC.TYPE i)
  let plus := t == 2 || t == 3 || (t == 4 && s.gb (Reg.ING.SRC.TS_RTP i))
  let f := fun (a b : FRef) => if pathB then s.g b else s.g a
  let want := f (Reg.ING.SRC.UDP_PORT_A i) (Reg.ING.SRC.UDP_PORT_B i)
  let filter := f (Reg.ING.SRC.SRC_IP_A i) (Reg.ING.SRC.SRC_IP_B i)
  let here := s.gb (Reg.ING.SRC.ENABLE i) && decide ((1 ≤ t ∧ t ≤ 4) ∨ t = 7) &&
    (!pathB || s.gb (Reg.ING.SRC.DUAL i)) && f (Reg.ING.SRC.PORT_A i) (Reg.ING.SRC.PORT_B i) == port &&
    f (Reg.ING.SRC.DST_IP_A i) (Reg.ING.SRC.DST_IP_B i) == dst && (filter == 0 || filter == src)
  if here && udp == want then some false else if here && plus && udp == want + 1 then some true else none

/-- The entry, the path and the kind that a UDP datagram goes to.
(DEDUCED, log entry 45) -/
def State.classify (s : State) (port dst src udp : Nat) : Option (Nat × Bool × Bool) :=
  (List.range 512).findSome? (fun i =>
    match s.srcMatch i port dst src udp false with
    | some r => some (i, false, r)
    | none => (s.srcMatch i port dst src udp true).map (fun r => (i, true, r)))

/-- Bytes of the frames that wait in the packet buffer of a quad (R101). -/
def State.quadBytes (s : State) (q : Nat) : Nat :=
  ((s.net.waiting.filter (fun (d : NetDgram) => d.port / 4 == q)).map (fun d => d.size)).sum

/-- A frame for the Curator's receive queue of 256 (R100). -/
def State.toCurator (s : State) (p : Nat) (bs : List Byte) : State :=
  if s.net.curator.length < 256 then { s with net := { s.net with curator := s.net.curator ++ [(p, s.wall, bs)] } }
  else s.inc (Reg.NET.PORT.RX_OVERFLOW (p / 4) (p % 4))

/-- An accepted IPv4 packet or ARP frame, with no room for it in the packet buffer dropped, goes to a stream engine, to the Curator
or nowhere (R100, R101). -/
def State.routeFrame (s : State) (p : Nat) (bs : List Byte) : State :=
  let q := p / 4
  let l := p % 4
  let body := etherBody bs
  let ip := body.2
  let hl := 4 * ((ip.getD 0 0).toNat % 16)
  let proto := (ip.getD 9 0).toNat
  let udp := ip.drop hl
  if 98304 < s.quadBytes q + bs.length then s.inc (Reg.NET.PORT.RX_OVERFLOW q l)
  else if body.1 = 0x0806 ∨ proto = 1 ∨ proto = 2 then s.toCurator p (untagged bs)
  else if proto ≠ 17 then s.inc (Reg.NET.PORT.RX_UNMATCHED q l)
  else
    match s.classify p (beAt ip 16 4) (beAt ip 12 4) (beAt udp 2 2) with
    | some (i, b, rtcp) =>
      let d : NetDgram := {
        port := p, entry := i, pathB := b, rtcp := rtcp, wall := s.wall, count := s.time.count
        data := (udp.drop 8).take (beAt udp 4 2 - 8), size := bs.length }
      { s with net := { s.net with waiting := s.net.waiting ++ [d] } }
    | none =>
      if beAt udp 2 2 = 319 ∨ beAt udp 2 2 = 320 then s.toCurator p (untagged bs) else s.inc (Reg.NET.PORT.RX_UNMATCHED q l)

/-- A frame received at port `p` (R99): accepted, dropped, or a pause frame.
(DESIGN CHOICE, log entry 32) -/
def frameReceive (p taken : Nat) (bs : List Byte) (fcsOk : Bool) (s : State) : State :=
  let q := p / 4
  let l := p % 4
  let s := { s with net := { s.net with curator := s.net.curator.drop taken } }
  if !s.coreOn || !s.gb (Reg.NET.PORT.LINK q l) then s
  else if fcsOk && decide (64 ≤ bs.length) && beAt bs 12 2 == 0x8808 then s.inc (Reg.NET.PORT.RX_PAUSE q l)
  else if s.frameGood q l bs fcsOk then (s.inc (Reg.NET.PORT.RX_FRAMES q l)).routeFrame p bs
  else s.inc (Reg.NET.PORT.RX_BAD q l)

/-- A frame transmitted at port `p`, with the tag of its descriptor where that requests a stamp (R87, R88). -/
def frameTransmit (p : Nat) (bs : List Byte) (tag : Option Nat) (s : State) : State :=
  if s.coreOn && s.gb (Reg.NET.PORT.LINK (p / 4) (p % 4)) then
    let s := s.inc (Reg.NET.PORT.TX_FRAMES (p / 4) (p % 4))
    let s := { s with net := { s.net with sent := Tab.put [] p [bs] s.net.sent } }
    match tag with
    | some t => s.txStamp p t
    | none => s
  else s

/-- A further frame of what port `p` sends as one.
(DEDUCED, log entry 54) -/
def frameAlso (p : Nat) (bs : List Byte) (s : State) : State :=
  let t := frameTransmit p bs none s
  if s.coreOn && s.gb (Reg.NET.PORT.LINK (p / 4) (p % 4)) then
    { t with net := { t.net with sent := Tab.put [] p (Tab.get [] p s.net.sent ++ [bs]) s.net.sent } }
  else t

/-! ### MDIO -/

/-- A write of the management MDIO word by master `m`: GO starts a transaction; while one runs the word is not written.
(DESIGN CHOICE, log entry 98) -/
def mdioWrite (m : Nat) (v : Word) (s : State) : State :=
  if s.gb Reg.MGMT.MDIO.GO then s.logIgnored m 0x1054000C v
  else
    let s := s.writeFields m 0x1054000C v 0
    if fieldGet v 31 1 = 1 then s.pb Reg.MGMT.MDIO.GO true else s

/-- The MDIO transaction ends: a read leaves its data. -/
def mdioDone (data : Nat) (s : State) : State :=
  if s.coreOn && s.gb Reg.MGMT.MDIO.GO then
    let s := if s.gb Reg.MGMT.MDIO.WRITE then s else s.p Reg.MGMT.MDIO.DATA data
    s.pb Reg.MGMT.MDIO.GO false
  else s

/-! ### The commands -/

/-- NET_MODE_WRITE (R98): a write of MODE. -/
def execNetModeWrite (dt : Nat) (m : Master) (q : Fin 4) (mode : Fin 4) (s : State) : Out State :=
  let s := s.advance dt
  let v := s.fieldWord (Reg.NET.CTRL.MODE q.val) mode.val
  .next (s.ctlWrite m.val (Reg.NET.CTRL.MODE q.val).addr v (netCtrlWrite m.val q.val v))

/-- NET_LINK_CHANGE (R98): whether the link may come up, and whether the bit-error ratio is high. -/
def execNetLinkChange (dt : Nat) (p : Fin 16) (up hiBer : Bool) (s : State) : Out State :=
  .next (netLinkChange p.val up hiBer (s.advance dt))

/-- NET_FRAME_RECEIVE (R99): with the frames that the Curator took from its queue before it. -/
def execNetFrameReceive (dt : Nat) (p : Fin 16) (taken : Nat) (bs : List Byte) (fcsOk : Bool) (s : State) : Out State :=
  .next (frameReceive p.val taken bs fcsOk (s.advance dt))

/-- NET_FRAME_TRANSMIT (R87): the frame, and the tag of its descriptor where that requests a stamp. A frame marked ACTING is
dropped without the grant (R361). -/
def execNetFrameTransmit (dt : Nat) (p : Fin 16) (bs : List Byte) (d : TxDesc) (s : State) : Out State :=
  let s := s.advance dt
  .next (if d.acting && !s.granted then s else frameTransmit p.val bs (d.tag.map BitVec.toNat) s)

/-- MDIO_TRANSACTION: a write of the whole word, with GO. -/
def execMdioTransaction (dt : Nat) (m : Master) (v : Word) (s : State) : Out State :=
  let v := fieldSet v 31 1 1
  .next ((s.advance dt).ctlWrite m.val 0x1054000C v (mdioWrite m.val v))

/-- MDIO_DONE. -/
def execMdioDone (dt : Nat) (data : BitVec 16) (s : State) : Out State := .next (mdioDone data.toNat (s.advance dt))

end Sys2Proof.Machine
end

