-- ==== Sys2Proof/Machine/Ingest.lean ====
section
/-! DEFINITION. Source entries: bind checks, stopping, capture times, packets, frames, access units, transport streams
and losses (R103 to R129). -/

namespace Sys2Proof.Machine

/-! ### Binding (R105, R107, R108) -/

/-- Whether entry `i` is of a network type (R105). -/
def State.isNet (s : State) (i : Nat) : Bool :=
  let t := s.g (Reg.ING.SRC.TYPE i)
  decide ((1 ≤ t ∧ t ≤ 4) ∨ t = 7)

/-- The other enabled network entries. -/
def State.netEntries (s : State) (i : Nat) : List Nat :=
  (List.range 512).filter (fun j => s.gb (Reg.ING.SRC.ENABLE j) && j != i && s.isNet j)

/-- What a path of an entry matches: its port, destination, first UDP port, whether also the next, its source filter. -/
structure PathKey where
  port   : Nat
  dst    : Nat
  udp    : Nat
  plus   : Bool
  filter : Nat
deriving DecidableEq, Repr

/-- The paths of entry `i`. -/
def State.pathKeys (s : State) (i : Nat) : List PathKey :=
  let t := s.g (Reg.ING.SRC.TYPE i)
  let plus := t == 2 || t == 3 || (t == 4 && s.gb (Reg.ING.SRC.TS_RTP i))
  let a : PathKey := {
    port := s.g (Reg.ING.SRC.PORT_A i), dst := s.g (Reg.ING.SRC.DST_IP_A i), udp := s.g (Reg.ING.SRC.UDP_PORT_A i),
    plus := plus, filter := s.g (Reg.ING.SRC.SRC_IP_A i) }
  let b : PathKey := {
    port := s.g (Reg.ING.SRC.PORT_B i), dst := s.g (Reg.ING.SRC.DST_IP_B i), udp := s.g (Reg.ING.SRC.UDP_PORT_B i),
    plus := plus, filter := s.g (Reg.ING.SRC.SRC_IP_B i) }
  if s.gb (Reg.ING.SRC.DUAL i) then [a, b] else [a]

/-- Whether two paths could match one datagram (R107, DUPLICATE). -/
def PathKey.clashes (x y : PathKey) : Bool :=
  x.port == y.port && x.dst == y.dst &&
    (x.udp == y.udp || (x.plus && x.udp + 1 == y.udp) || (y.plus && y.udp + 1 == x.udp)) &&
    (x.filter == y.filter || x.filter == 0 || y.filter == 0)

/-- Width and height of entry `i`, and the height of what it puts into one buffer (R104). -/
def State.srcW (s : State) (i : Nat) : Nat := s.g (Reg.ING.SRC.WIDTH_M1 i) + 1
def State.srcH (s : State) (i : Nat) : Nat := s.g (Reg.ING.SRC.HEIGHT_M1 i) + 1
def State.bufH (s : State) (i : Nat) : Nat :=
  if s.gb (Reg.ING.SRC.INTERLACED i) then (s.srcH i + 1) / 2 else s.srcH i

/-- Whether a buffer suits the ring of entry `i` (R107, BAD_RING).
(DEDUCED, log entry 47) -/
def State.ringFits (s : State) (i b : Nat) : Bool :=
  let t := s.g (Reg.ING.SRC.TYPE i)
  let st := s.bufState b
  let p := s.bufPic b
  let fmt := if t = 1 then s.g (Reg.ING.SRC.SAMPLING i) else 0
  (st == 0 || (st == 2 && s.g (Reg.ING.BUF.SOURCE b) == i)) &&
    (t == 6 || (p.fmt == fmt && decide (s.srcW i ≤ p.w) && decide (s.bufH i ≤ p.h) &&
      decide (rowBytes p.fmt (s.srcW i) ≤ p.pitch)))

/-- The first check of R107 that entry `i` fails, as BIND_RESULT codes it; 0 where all pass.
(DEDUCED, log entry 47) -/
def State.bindCheck (s : State) (i : Nat) : Nat :=
  let t := s.g (Reg.ING.SRC.TYPE i)
  let dual := s.gb (Reg.ING.SRC.DUAL i)
  let bsLen := 1024 * s.g (Reg.ING.SRC.BS_SIZE_KB i)
  let comp := decide (2 ≤ t ∧ t ≤ 4)
  let ring := s.ring i
  let net := s.netEntries i
  if t = 0 ∨ (t = 1 ∧ (4096 < s.srcW i ∨ 2160 < s.srcH i)) ∨
      (t = 4 ∧ dual = true ∧ s.gb (Reg.ING.SRC.TS_RTP i) = false) ∨
      (t ≠ 7 ∧ s.g (Reg.ING.SRC.RING_LEN_M1 i) = 0) then 5
  else if comp && (decide (s.g (Reg.ING.SRC.BS_SIZE_KB i) < 64) ||
      !s.inDram (256 * s.g (Reg.ING.SRC.BS_BASE i)) bsLen ||
      (s.g (Reg.ING.SRC.PARAM_LEN i) != 0 &&
        !s.inDram (16 * s.g (Reg.ING.SRC.PARAM_ADDR i)) (s.g (Reg.ING.SRC.PARAM_LEN i)))) then 6
  else if dual && decide (1 ≤ t ∧ t ≤ 4) && !s.inDram (2 ^ 20 * s.g (Reg.ING.SRC.HIST_BASE i)) 524288 then 6
  else if t ≠ 7 ∧ (ring.dedup.length ≠ ring.length ∨ ring.any (fun b => !s.ringFits i b) = true) then 4
  else if s.isNet i = false then 0
  else if net.any (fun j => (s.pathKeys i).any (fun x => (s.pathKeys j).any (fun y => x.clashes y))) then 3
  else if 32 ≤ (net.filter (fun j => s.g (Reg.ING.SRC.SE j) == s.g (Reg.ING.SRC.SE i))).length then 1
  else if 256 ≤ net.length then 2
  else 0

/-- Entry `i` starts (R107). -/
def State.srcStart (s : State) (i : Nat) : State :=
  let s := ((s.pb (Reg.ING.SRC.ENABLE i) true).p (Reg.ING.SRC.PKTS i) 0).p (Reg.ING.SRC.LOST i) 0
  let s := ((s.p (Reg.ING.SRC.LATE i) 0).p (Reg.ING.SRC.BAD i) 0).p (Reg.ING.SRC.FRAMES i) 0
  let s := ((s.p (Reg.ING.SRC.INCOMPLETE i) 0).p (Reg.ING.SRC.RING_DROP i) 0).p (Reg.ING.SRC.DIVERGENT i) 0
  let s := (s.p (Reg.ING.SRC.DISCARDED i) 0).p (Reg.ING.SRC.STATE i) 1
  let s := (s.pb (Reg.ING.SRC.PATH_A_UP i) (s.isNet i && !s.gb (Reg.ING.SRC.DUAL i))).pb (Reg.ING.SRC.PATH_B_UP i) false
  let s := if s.g (Reg.ING.SRC.TYPE i) = 7 then s else (s.ring i).foldl (fun s b => s.p (Reg.ING.BUF.SOURCE b) i) s
  s.setSrc i { SrcState.reset with srAt := (s.src i).srAt, recs := (s.src i).recs, divs := (s.src i).divs }

/-- The units that entry `i` receives are dropped, their FILLING buffers FREE (R23, R108). -/
def State.srcDrop (s : State) (i : Nat) : State :=
  let s := (s.src i).opens.foldl (fun s (u : OpenUnit) => match u.buf with
    | some b => s.unclaim b
    | none => s) s
  s.setSrc i { s.src i with opens := [] }

/-- The write-backs that run into entry `i` end with it (R108): their buffers are in its ring. -/
def State.wbEnds (s : State) (i : Nat) : State :=
  allHeads.foldl (fun s n =>
    let h := s.head n
    if h.wb.any (fun (w : WbState) => w.entry == i) then s.setHead n { h with wb := none } else s) s

/-- Entry `i` stops (R108): its waiting datagrams become unmatched, its buffers in FILLING become FREE. -/
def State.srcStop (s : State) (i : Nat) : State :=
  let s := s.wbEnds i
  let mine := s.net.waiting.filter (fun (d : NetDgram) => d.entry == i)
  let s := { s with net := { s.net with waiting := s.net.waiting.filter (fun (d : NetDgram) => d.entry != i) } }
  let s := mine.foldl (fun s (d : NetDgram) => s.inc (Reg.NET.PORT.RX_UNMATCHED (d.port / 4) (d.port % 4))) s
  let s := (s.pb (Reg.ING.SRC.ENABLE i) false).p (Reg.ING.SRC.STATE i) 0
  let s := ((s.pb (Reg.ING.SRC.PATH_A_UP i) false).pb (Reg.ING.SRC.PATH_B_UP i) false).srcDrop i
  ((s.ring i).filter (fun b => s.g (Reg.ING.BUF.SOURCE b) == i)).foldl (fun s b => s.unclaim b) s

/-! ### Capture times (R119 to R122) -/

/-- The capture time of an ST 2110-20 frame (R120), in ns. -/
def mapMedia (ts offset : Nat) (arrival tol : Int) : Int :=
  let u : Int := ((ts + 2 ^ 32 - offset % 2 ^ 32) % 2 ^ 32 : Nat)
  let k := (9 * (arrival + tol) - u * 100000) / (100000 * 2 ^ 32)
  (k * 2 ^ 32 + u) * 100000 / 9

/-- The time of the latest sender report of entry `i` (R121). -/
def State.srWall (s : State) (i : Nat) : Int :=
  wallOf (s.g (Reg.ING.SRC.SR_SEC_LO i) + 2 ^ 32 * s.g (Reg.ING.SRC.SR_SEC_HI i)) (s.g (Reg.ING.SRC.SR_NS i))

/-- The capture time of a unit of entry `i` whose first packet arrived at `wall`, and whether it is the source's own
(R119 to R122). -/
def State.captureTime (s : State) (i ts : Nat) (wall : Int) : Int × Bool :=
  let t := s.g (Reg.ING.SRC.TYPE i)
  let tol : Int := 1000000 * s.g Reg.ING.CTRL2.FUTURE_TOL_MS
  if s.gb (Reg.ING.SRC.FORCE_ARRIVAL i) then (wall, false)
  else if t = 1 then (mapMedia ts (s.g (Reg.ING.SRC.MEDIA_OFFSET i)) wall tol, true)
  else if (t = 4 ∧ s.gb (Reg.ING.SRC.TS_RTP i) = false) ∨ s.gb (Reg.ING.SRC.SR_VALID i) = false then (wall, false)
  else
    let d := signed 32 (ts + 2 ^ 32 - s.g (Reg.ING.SRC.SR_RTP i))
    let c := s.srWall i + d * 100000 / 9
    if wall + tol < c then (wall, false) else (c, true)

/-- A sender report of entry `i` (R121): the payload of a datagram on UDP port + 1.
(PRESUMED, log entry 48) -/
def State.senderReport (s : State) (i : Nat) (bs : List Byte) : State :=
  if beAt bs 0 1 / 64 = 2 ∧ beAt bs 1 1 = 200 ∧ 28 ≤ bs.length then
    let sec : Int := (beAt bs 8 4 : Int) - 2208988800 + s.g Reg.ING.CTRL.TAI_UTC
    let ns := beAt bs 12 4 * 1000000000 / 2 ^ 32
    let s := (s.p (Reg.ING.SRC.SR_RTP i) (beAt bs 16 4)).p (Reg.ING.SRC.SR_NS i) ns
    let s := (s.p (Reg.ING.SRC.SR_SEC_LO i) (unsigned 32 sec)).p (Reg.ING.SRC.SR_SEC_HI i) (unsigned 48 sec / 2 ^ 32)
    (s.pb (Reg.ING.SRC.SR_VALID i) true).setSrc i { s.src i with srAt := s.clock }
  else s

/-! ### Accepted packets (R126, R127, R129) -/

/-- The difference of two sequence numbers or timestamps of 32 bits. -/
def diff32 (a b : Nat) : Int := signed 32 (a + 2 ^ 32 - b % 2 ^ 32)

/-- The RTP packet in a datagram: payload type, marker, sequence number, timestamp, SSRC, payload (R103). -/
structure Rtp where
  pt      : Nat
  marker  : Bool
  seq     : Nat
  ts      : Nat
  ssrc    : Nat
  payload : List Byte
deriving DecidableEq, Repr

/-- An RTP packet of version 2, its CSRC list, header extension and padding skipped (R103). -/
def rtpOf (bs : List Byte) : Option Rtp :=
  let b0 := beAt bs 0 1
  let at1 := 12 + 4 * (b0 % 16)
  let at2 := if bitOf b0 4 then at1 + 4 + 4 * beAt bs (at1 + 2) 2 else at1
  let stop := if bitOf b0 5 then bs.length - (bs.getLastD 0).toNat else bs.length
  if b0 / 64 = 2 ∧ at2 ≤ stop then some {
    pt := beAt bs 1 1 % 128, marker := bitOf (beAt bs 1 1) 7, seq := beAt bs 2 2, ts := beAt bs 4 4, ssrc := beAt bs 8 4,
    payload := (bs.take stop).drop at2 }
  else none

/-- Whether an RTP packet suits entry `i` (R127). -/
def State.rtpFits (s : State) (i : Nat) (r : Rtp) : Bool :=
  (s.gb (Reg.ING.SRC.PT_ANY i) || r.pt == s.g (Reg.ING.SRC.PT i)) &&
    (!s.gb (Reg.ING.SRC.SSRC_CHECK i) || r.ssrc == s.g (Reg.ING.SRC.SSRC i))

/-- An accepted media packet of entry `i` on a path (R126, R129); after a loss the sequence numbers count from it on, but for those
of an access unit still open.
(DEDUCED, log entry 46) -/
def State.srcAccept (s : State) (i : Nat) (pathB : Bool) : State :=
  let e := s.src i
  let s := if pathB then (s.pb (Reg.ING.SRC.PATH_B_UP i) true).setSrc i { e with atB := some s.clock }
    else (s.pb (Reg.ING.SRC.PATH_A_UP i) true).setSrc i { e with atA := some s.clock }
  if s.g (Reg.ING.SRC.STATE i) = 2 then s
  else
    let lost := s.g (Reg.ING.SRC.STATE i) == 3
    let s := (s.p (Reg.ING.SRC.STATE i) 2).raise Ev.srcArrived i
    let afresh := s.g (Reg.ING.SRC.TYPE i) == 4 || (s.src i).opens.isEmpty
    if lost && afresh then s.setSrc i { s.src i with hi := none, base := none } else s

/-- The paths of entry `i` that a closure waits for: its one path, or those live of two (R123, R129). -/
def State.waitsA (s : State) (i : Nat) : Bool := !s.gb (Reg.ING.SRC.DUAL i) || s.gb (Reg.ING.SRC.PATH_A_UP i)
def State.waitsB (s : State) (i : Nat) : Bool := s.gb (Reg.ING.SRC.DUAL i) && s.gb (Reg.ING.SRC.PATH_B_UP i)

/-- Whether every path waited for has ended a unit.
(DEDUCED, log entry 46) -/
def State.unitEnded (s : State) (i : Nat) (u : OpenUnit) : Bool := (!s.waitsA i || u.endA) && (!s.waitsB i || u.endB)

/-- The extended sequence number of a packet, by the count of wraps from the highest received (R127). -/
def extSeq (hi : Option Nat) (seq : Nat) : Nat :=
  match hi with
  | none => seq
  | some h => (h + 2 ^ 32 + unsigned 32 (signed 16 (seq + 65536 - h % 65536))) % 2 ^ 32

/-- A unit of entry `i` put in place of the one at position `k` of its open units. -/
def State.setUnit (s : State) (i k : Nat) (u : OpenUnit) : State :=
  s.setSrc i { s.src i with opens := (s.src i).opens.set k u }

/-- Data lost: LOST counts them, and each increase raises EV_PKT_LOSS once (R126).
(DEDUCED, log entry 46) -/
def State.countLost (s : State) (i n : Nat) : State :=
  if n = 0 then s else (s.incBy (Reg.ING.SRC.LOST i) n).raise Ev.pktLoss i

/-- The last sequence number that counts with unit `u`, whose highest is `top`: where its marker did not come, all before the first
of a later unit (R125). -/
def unitLast (e : SrcState) (u : OpenUnit) (top : Nat) : Nat :=
  if u.marker then top
  else
    let later := (e.opens.map (fun (x : OpenUnit) => x.pkts.map (fun p => p.1))).flatten.filter (fun a => decide (0 < diff32 a top))
    match later with
    | [] => top
    | q :: qs => (qs.foldl (fun a b => if diff32 b a < 0 then b else a) q + 2 ^ 32 - 1) % 2 ^ 32

/-- The sequence numbers received for the open units. -/
def SrcState.numbers (e : SrcState) : List Nat := (e.opens.map (fun (x : OpenUnit) => x.pkts.map (fun p => p.1))).flatten

/-- The greatest of sequence numbers, in their order. -/
def seqTop : List Nat → Option Nat
  | [] => none
  | q :: qs => some (qs.foldl (fun a b => if 0 < diff32 b a then b else a) q)

/-- The sequence numbers to account for where unit `u` closes: from the first not accounted for, or the unit's first, to its last; none
where all those were. -/
def unitSpan (e : SrcState) (u : OpenUnit) : Option (Nat × Nat) :=
  match u.pkts.map (fun x => x.1) with
  | [] => none
  | q :: qs =>
    let last := unitLast e u ((seqTop (q :: qs)).getD q)
    let first := e.base.getD (qs.foldl (fun a b => if diff32 b a < 0 then b else a) q)
    if diff32 last first < 0 then none else some (first, last)

/-- The sequence numbers that no path delivered up to the last of unit `u`, and the first after it (R124); a unit before those
accounted for adds none. -/
def missingSeqs (e : SrcState) (u : OpenUnit) : Nat × Option Nat :=
  match unitSpan e u with
  | none => (0, e.base)
  | some (first, last) =>
    let span := (diff32 last first + 1).toNat
    let have_ := (e.numbers.filter (fun a => decide (0 ≤ diff32 a first ∧ 0 ≤ diff32 last a))).dedup.length
    (span - have_, some ((last + 1) % 2 ^ 32))

/-- The units still open where unit `u` closes: one that lacks a sequence number accounted for with it carries GAP (R125), one that
follows a packet of the unit and lies before its last, or before its marker.
(DEDUCED, log entry 46) -/
def gapOpens (e : SrcState) (u : OpenUnit) : List OpenUnit :=
  match unitSpan e u with
  | none => e.opens
  | some (first, last) =>
    e.opens.map (fun (x : OpenUnit) =>
      let nums := x.pkts.map (fun p => p.1)
      let hole := fun (q : Nat) =>
        let n := (q + 1) % 2 ^ 32
        decide (0 ≤ diff32 n first ∧ 0 ≤ diff32 last n) && !e.numbers.contains n && (!x.marker || seqTop nums != some q)
      { x with gap := x.gap || nums.any hole })

/-- A unit that closes is remembered (R124) for half the period in which the RTP timestamp comes round, from `now` on.
(DEDUCED, log entry 46) -/
def SrcState.closes (e : SrcState) (u : OpenUnit) (now : Nat) : SrcState :=
  { e with closed := (u.ts, u.field, now) :: e.closed.filter (fun x => decide (now < x.2.2 + 2 ^ 31 * 100000 / 9)) }

/-! ### The history ring (R128) -/

/-- The entry of the history ring for extended sequence number `n` of entry `i`.
(PRESUMED, log entry 31) -/
def State.histAddr (s : State) (i n : Nat) : Nat := 2 ^ 20 * s.g (Reg.ING.SRC.HIST_BASE i) + 8 * (n % 65536)

/-- The bus master of the stream engine of entry `i`. -/
def State.seMaster (s : State) (i : Nat) : Nat := engMaster (2 + s.g (Reg.ING.SRC.SE i))

/-- The first copy's payload enters the history ring of a dual-path entry.
(PRESUMED, log entry 31) -/
def State.histStore (s : State) (i n : Nat) (payload : List Byte) : State :=
  if s.gb (Reg.ING.SRC.DUAL i) then
    (s.dmaWrite (s.seMaster i) (defaultQos (s.seMaster i)) (s.histAddr i n)
      (leBytes (crc32c payload) 4 ++ leBytes (n / 65536) 2 ++ leBytes 0 2)).1
  else s

/-- Whether a later copy of a dual-path entry differs from the first (R128). -/
def State.histDiffers (s : State) (i n : Nat) (payload : List Byte) : State × Bool :=
  if s.gb (Reg.ING.SRC.DUAL i) then
    let r := s.dmaRead (s.seMaster i) (defaultQos (s.seMaster i)) (s.histAddr i n) 8
    (r.1, leNat ((r.2.1.drop 4).take 2) == n / 65536 && leNat (r.2.1.take 4) != crc32c payload)
  else (s, false)

/-- A later copy of a packet of the open unit at position `k` (R127, R128). -/
def State.laterCopy (s : State) (i k n : Nat) (payload : List Byte) : State :=
  let r := s.histDiffers i n payload
  if r.2 then
    match (r.1.src i).opens[k]? with
    | some u => ((r.1.setUnit i k { u with div := true }).inc (Reg.ING.SRC.DIVERGENT i)).raise Ev.pathDivergent i
    | none => r.1
  else r.1

/-! ### ST 2110-20 (R103, R104, R112 to R114, R123, R124) -/

/-- The samples of a row's data, by sampling and depth; 8-bit samples are shifted left by 2 (R104). -/
def unpackRow (rgb d10 : Bool) : Nat → List Byte → List Sample
  | 0, _ => []
  | n + 1, bs =>
    if rgb then
      if d10 then
        let v := beNat (bs.take 15)
        let c := fun k => bitsOf v (10 * (11 - k)) 10
        ((List.range 4).map (fun j => ⟨0, c (3 * j), c (3 * j + 1), c (3 * j + 2)⟩)) ++ unpackRow rgb d10 n (bs.drop 15)
      else
        let c := fun k => 4 * (bs.getD k 0).toNat
        ⟨0, c 0, c 1, c 2⟩ :: unpackRow rgb d10 n (bs.drop 3)
    else if d10 then
      let v := beNat (bs.take 5)
      let c := fun k => bitsOf v (10 * (3 - k)) 10
      ⟨0, c 1, c 0, 0⟩ :: ⟨0, c 3, c 2, 0⟩ :: unpackRow rgb d10 n (bs.drop 5)
    else
      let c := fun k => 4 * (bs.getD k 0).toNat
      ⟨0, c 1, c 0, 0⟩ :: ⟨0, c 3, c 2, 0⟩ :: unpackRow rgb d10 n (bs.drop 4)

/-- Bytes and pixels of a pixel group. -/
def pgroup (rgb d10 : Bool) : Nat × Nat := if rgb then (if d10 then (15, 4) else (3, 1)) else (if d10 then (5, 2) else (4, 2))

/-- A row segment of a packet. -/
structure Srd where
  row   : Nat
  off   : Nat
  field : Nat
  px    : List Sample
deriving DecidableEq, Repr

/-- The sample row data headers of a payload from byte `k`, at most `fuel` of them, as length, field, row, offset; none
where a further one would follow. -/
def srdHeads : Nat → Nat → List Byte → Option (List (Nat × Nat × Nat × Nat))
  | 0, _, _ => none
  | fuel + 1, k, bs =>
    let h := (beAt bs k 2, beAt bs (k + 2) 2 / 32768, beAt bs (k + 2) 2 % 32768, beAt bs (k + 4) 2 % 32768)
    if beAt bs (k + 4) 2 / 32768 = 1 then (srdHeads fuel (k + 6) bs).map (fun t => h :: t) else some [h]

/-- The segments that the headers give of the data after them. -/
def srdCut (rgb d10 : Bool) : List (Nat × Nat × Nat × Nat) → List Byte → List Srd
  | [], _ => []
  | (len, f, row, off) :: hs, bs =>
    ⟨row, off, f, unpackRow rgb d10 (len / (pgroup rgb d10).1) (bs.take len)⟩ :: srdCut rgb d10 hs (bs.drop len)

/-- The row segments of an ST 2110-20 payload of entry `i`; none where they are not valid (R103, R127). -/
def State.srdsOf (s : State) (i : Nat) (pl : List Byte) : Option (List Srd) :=
  let rgb := s.gb (Reg.ING.SRC.SAMPLING i)
  let d10 := s.gb (Reg.ING.SRC.DEPTH i)
  let pg := pgroup rgb d10
  match srdHeads 3 2 pl with
  | none => none
  | some hs =>
    let total := (hs.map (fun h => h.1)).sum
    let good := hs.all (fun h => h.1 % pg.1 == 0 && h.2.2.2 % pg.2 == 0 && decide (h.2.2.1 < s.bufH i) &&
      decide (h.2.2.2 + h.1 / pg.1 * pg.2 ≤ s.srcW i))
    if good && decide (2 + 6 * hs.length + total ≤ pl.length) then some (srdCut rgb d10 hs (pl.drop (2 + 6 * hs.length)))
    else none

/-- A frame of entry `i` begins (R112, R113, R119): SEQUENCE advances, and a buffer is claimed or the frame dropped. -/
def State.frameOpen (s : State) (i ts field : Nat) (d : NetDgram) : State :=
  let s := s.inc (Reg.ING.SRC.SEQUENCE i)
  let c := s.captureTime i ts d.wall
  let r : State × Option Nat := match s.nextClaim (s.ring i) (s.src i).lastPos with
    | some x => (s.claim x.2 field d.count, some x.2)
    | none => (s.inc (Reg.ING.SRC.RING_DROP i), none)
  let u : OpenUnit := {
    ts := ts, buf := r.2, seq := s.g (Reg.ING.SRC.SEQUENCE i), wall := d.wall, count := d.count, cap := c.1, capSrc := c.2,
    field := field, rows := [], pix := [], lost := [], passA := 0, passB := 0, endA := false, endB := false, marker := false
    div := false, pkts := [], gap := false }
  r.1.setSrc i { r.1.src i with opens := (r.1.src i).opens ++ [u] }

/-- The columns from `a` up to `b` added to disjoint ranges in order. -/
def spanAdd (a b : Nat) : List (Nat × Nat) → List (Nat × Nat)
  | [] => [(a, b)]
  | (c, d) :: r =>
    if b < c then (a, b) :: (c, d) :: r
    else if d < a then (c, d) :: spanAdd a b r
    else spanAdd (min a c) (max b d) r

/-- Whether row `y` of a unit is completely written or declared lost (R123). -/
def OpenUnit.rowDone (u : OpenUnit) (w y : Nat) : Bool :=
  (Tab.get [] y u.rows).any (fun x => x.1 == 0 && decide (w ≤ x.2)) || u.lost.contains y

/-- ROW_MARK of the buffer of a unit: its leading rows done (R113). -/
def State.markRows (s : State) (i : Nat) (u : OpenUnit) : State :=
  match u.buf with
  | none => s
  | some b =>
    let h := s.bufH i
    let w := s.srcW i
    let mark := ((List.range h).find? (fun y => !u.rowDone w y)).getD h
    s.p (Reg.ING.BUF.ROW_MARK b) (max mark (s.g (Reg.ING.BUF.ROW_MARK b)))

/-- One row segment written into the buffer of the unit at position `k`; whether it came late. -/
def State.srdWrite (s : State) (i k : Nat) (x : Srd) : State × Bool :=
  match (s.src i).opens[k]? with
  | none => (s, false)
  | some u =>
    if u.lost.contains x.row then (s, true)
    else
      let s := match u.buf with
        | some b => (s.writePixels (s.seMaster i) (defaultQos (s.seMaster i)) (s.bufPic b) x.off x.row x.px).1
        | none => s
      let u := { u with
        rows := if x.px.isEmpty then u.rows
          else Tab.put [] x.row (spanAdd x.off (x.off + x.px.length) (Tab.get [] x.row u.rows)) u.rows
        pix := keepRow (s.srcW i) x.off x.row x.px u.pix }
      ((s.setUnit i k u).markRows i u, false)

/-- A row filled: from the buffer most recently completed of the same field parity, else black (R123); the unit with the row that
was written. -/
def State.fillRow (s : State) (i : Nat) (u : OpenUnit) (y : Nat) : State × OpenUnit :=
  match u.buf with
  | none => (s, u)
  | some b =>
    let p := s.bufPic b
    let w := s.srcW i
    let m := s.seMaster i
    let from_ := if u.field = 1 then (s.src i).doneBot else (s.src i).doneTop
    let r := match from_ with
      | some f => s.readRow m (defaultQos m) (s.bufPic f) y w
      | none => (s, blackRow p.fmt w)
    ((r.1.writePixels m (defaultQos m) p 0 y r.2).1, { u with pix := keepRow w 0 y r.2 u.pix })

/-- Rows of a unit filled one after another. -/
def State.fillRows (s : State) (i : Nat) (u : OpenUnit) : List Nat → State × OpenUnit
  | [] => (s, u)
  | y :: ys => let r := s.fillRow i u y; r.1.fillRows i r.2 ys

/-- The rows below `limit` of a unit that are not completely written are declared lost and filled (R123). -/
def State.loseRows (s : State) (i k limit : Nat) : State :=
  match (s.src i).opens[k]? with
  | none => s
  | some u =>
    let gone := (List.range limit).filter (fun y => !u.rowDone (s.srcW i) y)
    let r := s.fillRows i u gone
    let u := { r.2 with lost := u.lost ++ gone }
    (r.1.setUnit i k u).markRows i u

/-- The frame at position `k` closes; SIGNATURE is that of the rows it wrote, over the entry's geometry (R113, R114, R124, R251). -/
def State.frameClose (s : State) (i k : Nat) : State :=
  match (s.src i).opens[k]? with
  | none => s
  | some u =>
    let e := s.src i
    let miss := missingSeqs e u
    let s := match u.buf with
      | none => s
      | some b =>
        let flags := captFlag u.capSrc + (if u.lost.isEmpty then 0 else Fl.incomplete) + (if u.div then Fl.divergent else 0)
        let t : Tag := {
          source := i, flags := flags, seq := u.seq, capture := u.cap, ready := s.wall
          sig := keptSignature (s.bufPic b).fmt (s.srcW i) (s.bufH i) u.pix }
        let s := ((s.closeBuf b t).filled i b).inc (Reg.ING.SRC.FRAMES i)
        let s := if u.lost.isEmpty then s else s.inc (Reg.ING.SRC.INCOMPLETE i)
        if u.field = 1 then s.setSrc i { s.src i with doneBot := some b } else s.setSrc i { s.src i with doneTop := some b }
    let s := s.setSrc i { (s.src i).closes u s.clock with opens := e.opens.eraseIdx k, base := miss.2 }
    s.countLost i miss.1

/-- The rows that every path waited for has passed. -/
def State.passedRows (s : State) (i : Nat) (u : OpenUnit) : Nat :=
  let h := s.bufH i
  let a := if s.waitsA i then (if u.endA then h else min h u.passA) else h
  let b := if s.waitsB i then (if u.endB then h else min h u.passB) else h
  min a b

/-- The frames of entry `i` brought up to date, from position `k`, at most `fuel` of them: rows passed by every live path
are lost, and a frame whose rows are all done closes, on two paths once every live path has ended it (R123, R124, R129). -/
def State.framesStep (s : State) (i : Nat) : Nat → Nat → State
  | _, 0 => s
  | k, fuel + 1 =>
    match (s.src i).opens[k]? with
    | none => s
    | some u =>
      let t := s.loseRows i k (s.passedRows i u)
      let u := ((t.src i).opens[k]?).getD u
      let full := (List.range (t.bufH i)).all (fun y => u.rowDone (t.srcW i) y)
      if full && (!t.gb (Reg.ING.SRC.DUAL i) || t.unitEnded i u) then (t.frameClose i k).framesStep i k fuel
      else t.framesStep i (k + 1) fuel

/-- What a packet of timestamp `ts` on a path says of the open units: it ends every unit of an earlier timestamp. -/
def endEarlier (ts : Nat) (pathB : Bool) (us : List OpenUnit) : List OpenUnit :=
  us.map (fun (u : OpenUnit) =>
    if 0 < diff32 ts u.ts then (if pathB then { u with endB := true } else { u with endA := true }) else u)

/-- The position of the open unit of a timestamp and field. -/
def State.unitAt (s : State) (i ts field : Nat) : Option Nat :=
  (s.src i).opens.findIdx? (fun (u : OpenUnit) => u.ts == ts && u.field == field)

/-- Whether a packet belongs to a unit that has closed (R124, R125).
(DEDUCED, log entry 46) -/
def SrcState.isLate (e : SrcState) (ts field : Nat) : Bool := e.closed.any (fun x => x.1 == ts && x.2.1 == field)

/-- A packet of an ST 2110-20 entry (R123, R124, R127).
(DESIGN CHOICE, log entry 98) -/
def State.videoPacket (s : State) (i : Nat) (d : NetDgram) (r : Rtp) (srds : List Srd) : State :=
  let n := (beAt r.payload 0 2 * 65536 + r.seq) % 2 ^ 32
  let field := ((srds.head?).map (fun x => x.field)).getD 0 % (if s.gb (Reg.ING.SRC.INTERLACED i) then 2 else 1)
  let s := s.srcAccept i d.pathB
  let s := s.setSrc i { s.src i with opens := endEarlier r.ts d.pathB (s.src i).opens }
  let s := match s.unitAt i r.ts field with
    | some _ => s
    | none => if (s.src i).isLate r.ts field then s else s.frameOpen i r.ts field d
  let t := match s.unitAt i r.ts field with
    | none => s.inc (Reg.ING.SRC.LATE i)
    | some k =>
      match (s.src i).opens[k]? with
      | none => s
      | some u =>
        let top := srds.foldl (fun (a : Nat) (x : Srd) => max a x.row) 0 + 1 - s.g Reg.ING.CTRL.LOSS_ROWS
        let u := if d.pathB then { u with passB := max u.passB top, endB := u.endB || r.marker }
          else { u with passA := max u.passA top, endA := u.endA || r.marker }
        let u := { u with marker := u.marker || r.marker }
        if u.pkts.any (fun p => p.1 == n) then (s.setUnit i k u).laterCopy i k n r.payload
        else
          let s := (s.setUnit i k { u with pkts := (n, []) :: u.pkts }).histStore i n r.payload
          let w := srds.foldl (fun (a : State × Bool) x =>
            let y := a.1.srdWrite i k x
            (y.1, a.2 || y.2)) (s, false)
          if w.2 then w.1.inc (Reg.ING.SRC.LATE i) else w.1.inc (Reg.ING.SRC.PKTS i)
  t.framesStep i 0 ((t.src i).opens.length + 1)

/-! ### Compressed streams (R103, R116 to R118, R125) -/

/-- The NAL unit types that mean something here: what an RTP payload begins with, and, of a NAL unit, whether it is a
random access picture or a parameter set. -/
def nalType (hevc : Bool) (bs : List Byte) : Nat :=
  let b := (bs.getD 0 0).toNat
  if hevc then b / 2 % 64 else b % 32

def nalRap (hevc : Bool) (bs : List Byte) : Bool :=
  let t := nalType hevc bs
  if hevc then decide (16 ≤ t ∧ t ≤ 23) else t == 5

def nalParams (hevc : Bool) (bs : List Byte) : Bool :=
  let t := nalType hevc bs
  if hevc then decide (32 ≤ t ∧ t ≤ 34) else t == 7 || t == 8

/-- Whether an RTP payload is of a form that R103 supports. -/
def nalPayloadGood (hevc : Bool) (pl : List Byte) : Bool :=
  let t := nalType hevc pl
  if hevc then decide (2 ≤ pl.length) && decide (t ≤ 49) else decide (1 ≤ pl.length) && (decide (1 ≤ t ∧ t ≤ 24) || t == 28)

/-- The NAL units of an aggregation packet after its header. -/
def apNals : Nat → List Byte → List (List Byte)
  | 0, _ => []
  | fuel + 1, bs =>
    let n := beAt bs 0 2
    if bs.length < 3 ∨ n = 0 then [] else (bs.drop 2).take n :: apNals fuel (bs.drop (2 + n))

/-- The NAL units of an access unit from its packets in order, with the extended sequence number that would continue the
fragmented unit gathered so far: a fragmented unit with a fragment missing is removed (R125). -/
def nalsOf (hevc : Bool) : List (Nat × List Byte) → Option (Nat × List Byte) → List (List Byte)
  | [], _ => []
  | (n, pl) :: ps, part =>
    let t := nalType hevc pl
    let hdr := if hevc then 2 else 1
    if t = (if hevc then 49 else 28) then
      let fu := (pl.getD hdr 0).toNat
      let kind := if hevc then fu % 64 else fu % 32
      let b0 := (pl.getD 0 0).toNat
      let head : List Byte := if hevc then [BitVec.ofNat 8 (b0 / 128 * 128 + kind * 2 + b0 % 2), pl.getD 1 0]
        else [BitVec.ofNat 8 (b0 / 32 * 32 + kind)]
      let body := pl.drop (hdr + 1)
      let cur := if bitOf fu 7 then some (head ++ body)
        else match part with
          | some (m, bs) => if m = n then some (bs ++ body) else none
          | none => none
      match cur with
      | some bs => if bitOf fu 6 then bs :: nalsOf hevc ps none else nalsOf hevc ps (some ((n + 1) % 2 ^ 32, bs))
      | none => nalsOf hevc ps none
    else if t = (if hevc then 48 else 24) then apNals pl.length (pl.drop hdr) ++ nalsOf hevc ps none
    else pl :: nalsOf hevc ps none

/-- The NAL units of an Annex B byte stream, gathered from byte to byte: what stands between start codes, without trailing
zero bytes. -/
def annexB : Nat → List Byte → Option (List Byte) → List (List Byte)
  | 0, _, _ => []
  | _ + 1, [], none => []
  | _ + 1, [], some cur => [(cur.dropWhile (fun b => b == 0)).reverse]
  | fuel + 1, b :: bs, cur =>
    if b = 0 ∧ bs.take 2 = [0, 1] then
      match cur with
      | none => annexB fuel (bs.drop 2) (some [])
      | some c => (c.dropWhile (fun x => x == 0)).reverse :: annexB fuel (bs.drop 2) (some [])
    else annexB fuel bs (cur.map (fun c => b :: c))

/-- NAL units as an Annex B byte stream with 4-byte start codes (R116). -/
def annexOf (ns : List (List Byte)) : List Byte := (ns.map (fun n => [0, 0, 0, 1] ++ n)).flatten

/-- Where a record of `len` bytes goes in the bitstream ring of entry `i`; none where it lacks room (R117). With a record unread,
equal BS_WR and BS_RD mean a full ring. -/
def State.recordAt (s : State) (i len : Nat) : Option Nat :=
  let size := 1024 * s.g (Reg.ING.SRC.BS_SIZE_KB i)
  let wr := s.g (Reg.ING.SRC.BS_WR i)
  let rd := s.g (Reg.ING.SRC.BS_RD i)
  if (s.src i).recs.isEmpty then
    if wr + len ≤ size then some wr else if len ≤ size then some 0 else none
  else if rd < wr then
    if wr + len ≤ size then some wr else if len ≤ rd then some 0 else none
  else if rd = wr then none
  else if wr + len ≤ rd then some wr else none

/-- An access unit of entry `i` written as a record (R116 to R118), or dropped.
(PRESUMED, log entry 48) -/
def State.recordWrite (s : State) (i : Nat) (u : OpenUnit) (gap hevc : Bool) (nals : List (List Byte)) : State :=
  let e := s.src i
  let rap := nals.any (nalRap hevc)
  let has := nals.any (nalParams hevc)
  let adds := rap && !e.params && !has && s.g (Reg.ING.SRC.PARAM_LEN i) != 0
  let m := s.seMaster i
  let rd := if adds then s.dmaRead m (defaultQos m) (16 * s.g (Reg.ING.SRC.PARAM_ADDR i)) (s.g (Reg.ING.SRC.PARAM_LEN i))
    else (s, [], true)
  let data := rd.2.1 ++ annexOf nals
  let gap := gap || e.gapNext
  let flags := gap.toNat + 2 * (!u.capSrc).toNat + 4 * rap.toNat + 8 * adds.toNat
  let len := 32 + (data.length + 31) / 32 * 32
  let head := leBytes data.length 4 ++ leBytes flags 2 ++ leBytes 0 2 ++ timeBytes u.cap ++ leBytes u.count 8 ++
    leBytes 0 2 ++ leBytes u.seq 4
  let s := rd.1.setSrc i { e with params := e.params || has }
  match s.recordAt i len with
  | none => (s.setSrc i { s.src i with gapNext := true }).inc (Reg.ING.SRC.RING_DROP i)
  | some off =>
    let a := 256 * s.g (Reg.ING.SRC.BS_BASE i) + off
    let s := (s.dmaWrite m (defaultQos m) a (head ++ data ++ List.replicate (len - 32 - data.length) 0)).1
    let next := if off + len = 1024 * s.g (Reg.ING.SRC.BS_SIZE_KB i) then 0 else off + len
    let s := if e.recs.isEmpty then s.p (Reg.ING.SRC.BS_RD i) off else s
    let s := (s.p (Reg.ING.SRC.BS_WR i) next).inc (Reg.ING.SRC.FRAMES i)
    let s := if gap then s.inc (Reg.ING.SRC.INCOMPLETE i) else s
    let x := s.src i
    s.setSrc i { x with recs := x.recs ++ [(off, len)], gapNext := false, divs := if u.div then u.seq :: x.divs else x.divs }

/-- An access unit of entry `i` begins. -/
def State.auOpen (s : State) (i ts : Nat) (wall : Int) (count : Nat) : State :=
  let s := s.inc (Reg.ING.SRC.SEQUENCE i)
  let c := s.captureTime i ts wall
  let u : OpenUnit := {
    ts := ts, buf := none, seq := s.g (Reg.ING.SRC.SEQUENCE i), wall := wall, count := count, cap := c.1, capSrc := c.2,
    field := 0, rows := [], pix := [], lost := [], passA := 0, passB := 0, endA := false, endB := false, marker := false
    div := false, pkts := [], gap := false }
  s.setSrc i { s.src i with opens := (s.src i).opens ++ [u] }

/-- An element put into a list ordered by sequence number. -/
def seqInsert {α : Type} (n : Nat) (x : α) : List (Nat × α) → List (Nat × α)
  | [] => [(n, x)]
  | y :: ys => if diff32 n y.1 < 0 then (n, x) :: y :: ys else y :: seqInsert n x ys

/-- The packets of a unit in sequence. -/
def inSeq (ps : List (Nat × List Byte)) : List (Nat × List Byte) := ps.foldl (fun acc p => seqInsert p.1 p.2 acc) []

/-- The access unit at position `k` of a compressed RTP entry closes (R125). -/
def State.auClose (s : State) (i k : Nat) : State :=
  match (s.src i).opens[k]? with
  | none => s
  | some u =>
    let e := s.src i
    let hevc := s.g (Reg.ING.SRC.TYPE i) == 3
    let miss := missingSeqs e u
    let s := s.setSrc i { e.closes u s.clock with opens := (gapOpens e u).eraseIdx k, base := miss.2 }
    let s := s.countLost i miss.1
    s.recordWrite i u (decide (0 < miss.1) || u.gap) hevc (nalsOf hevc (inSeq u.pkts) none)

/-- The access units of entry `i` that every path waited for has ended close, in the order they began. -/
def State.ausStep (s : State) (i : Nat) : Nat → State
  | 0 => s
  | fuel + 1 =>
    match (s.src i).opens.findIdx? (fun u => s.unitEnded i u) with
    | none => s
    | some k => (s.auClose i k).ausStep i fuel

/-- A packet of a compressed RTP entry (R125, R127). -/
def State.nalPacket (s : State) (i : Nat) (d : NetDgram) (r : Rtp) : State :=
  let n := extSeq (s.src i).hi r.seq
  let s := s.srcAccept i d.pathB
  let e := s.src i
  let hi := match e.hi with
    | none => n
    | some h => if 0 < diff32 n h then n else h
  let s := s.setSrc i { e with hi := some hi, opens := endEarlier r.ts d.pathB e.opens }
  let s := match s.unitAt i r.ts 0 with
    | some _ => s
    | none => if (s.src i).isLate r.ts 0 then s else s.auOpen i r.ts d.wall d.count
  let t := match s.unitAt i r.ts 0 with
    | none => s.inc (Reg.ING.SRC.LATE i)
    | some k =>
      match (s.src i).opens[k]? with
      | none => s
      | some u =>
        let u := if d.pathB then { u with endB := u.endB || r.marker } else { u with endA := u.endA || r.marker }
        let u := { u with marker := u.marker || r.marker }
        if u.pkts.any (fun p => p.1 == n) then (s.setUnit i k u).laterCopy i k n r.payload
        else ((s.setUnit i k { u with pkts := (n, r.payload) :: u.pkts }).histStore i n r.payload).inc (Reg.ING.SRC.PKTS i)
  t.ausStep i ((t.src i).opens.length + 1)

/-! ### Transport streams (R103, R125) -/

/-- The program specific sections complete in `bs`, each as its table, the identifier in its header and its body between the section
header and the CRC, and what is left of the next one; a table number of 0xFF is stuffing to the end.
(DESIGN CHOICE, log entry 98) -/
def sectionsOf : Nat → List Byte → List (Nat × Nat × List Byte) × List Byte
  | 0, bs => ([], bs)
  | fuel + 1, bs =>
    let len := beAt bs 1 2 % 4096
    if beAt bs 0 1 = 0xFF then ([], [])
    else if bs.length < 3 ∨ bs.length < 3 + len then ([], bs)
    else
      let r := sectionsOf fuel (bs.drop (3 + len))
      (if 9 ≤ len then (beAt bs 0 1, beAt bs 3 2, (bs.drop 8).take (len - 9)) :: r.1 else r.1, r.2)

/-- The programs that a PAT body names, in its order, with the PIDs of their PMTs. -/
def patPmts : Nat → List Byte → List (Nat × Nat)
  | 0, _ => []
  | fuel + 1, bs =>
    if bs.length < 4 then []
    else if beAt bs 0 2 ≠ 0 then (beAt bs 0 2, beAt bs 2 2 % 8192) :: patPmts fuel (bs.drop 4)
    else patPmts fuel (bs.drop 4)

/-- The elementary streams of a PMT body, as stream type and PID. -/
def pmtStreams : Nat → List Byte → List (Nat × Nat)
  | 0, _ => []
  | fuel + 1, bs =>
    if bs.length < 5 then [] else (beAt bs 0 1, beAt bs 1 2 % 8192) :: pmtStreams fuel (bs.drop (5 + beAt bs 3 2 % 4096))

/-- The video PID of entry `i` among the streams of a PMT, and whether it is H.265. -/
def State.pmtVideo (s : State) (i : Nat) (ss : List (Nat × Nat)) : Option (Nat × Bool) :=
  let video := ss.filter (fun x => x.1 == 0x1B || x.1 == 0x24)
  ((if s.gb (Reg.ING.SRC.PID_AUTO i) then video.head?
    else video.find? (fun x => x.2 == s.g (Reg.ING.SRC.PID i)))).map (fun x => (x.2, x.1 == 0x24))

/-- What a section of PID `pid` says (R103): a PAT names the PMTs; a PMT names the video, that of the first program that has one
where the entry takes the first. A PMT of a program that the PAT does not name on its PID says nothing.
(PRESUMED, log entry 48) -/
def State.psiTake (s : State) (i pid : Nat) (ts : TsState) (x : Nat × Nat × List Byte) : TsState :=
  let (table, prog, body) := x
  if pid = 0 then
    if table ≠ 0 then ts
    else
      let pmts := patPmts body.length body
      if ts.from_.any (fun q => !pmts.any (fun y => y.1 == q)) then { ts with pmts := pmts, video := none, from_ := none }
      else { ts with pmts := pmts }
  else if table ≠ 2 ∨ (prog, pid) ∉ ts.pmts then ts
  else match s.pmtVideo i (pmtStreams body.length (body.drop (4 + beAt body 2 2 % 4096))) with
    | some v =>
      let place := fun (p : Nat) => ts.pmts.findIdx (fun y => y.1 == p)
      let before := ts.from_.any (fun q => decide (place q < place prog))
      if before then ts else { ts with video := some v.1, from_ := some prog, hevc := v.2 }
    | none => if ts.from_ = some prog then { ts with video := none, from_ := none } else ts

/-- Section data of PID `pid` gathered, and what each complete section says: in a payload that starts a section, the bytes before
the place that pointer_field gives end the one before.
(PRESUMED, log entry 48) -/
def State.tsSection (s : State) (i pid : Nat) (start : Bool) (bs : List Byte) : State :=
  let e := s.src i
  let old := Tab.get [] pid e.ts.psi
  let at_ := (bs.getD 0 0).toNat
  let ended := if old.isEmpty then ([], []) else
    sectionsOf (old.length + bs.length) (old ++ if start then (bs.drop 1).take at_ else bs)
  let next := if start then sectionsOf bs.length (bs.drop (1 + at_)) else ([], ended.2)
  let ts := (ended.1 ++ next.1).foldl (fun t x => s.psiTake i pid t x) { e.ts with psi := Tab.put [] pid next.2 e.ts.psi }
  s.setSrc i { e with ts := ts }

/-- The access unit open on a transport stream closes (R125): its bytes are one PES packet. -/
def State.pesClose (s : State) (i : Nat) : State :=
  match (s.src i).opens with
  | [] => s
  | u :: rest =>
    let e := s.src i
    let pes := (u.pkts.reverse.map (fun p => p.2)).flatten
    let es := pes.drop (9 + beAt pes 8 1)
    let s := s.setSrc i { e with opens := rest }
    s.recordWrite i u u.gap e.ts.hevc (annexB (es.length + 1) es none)

/-- Bytes of the video PID: they join the open access unit, which carries the divergence of their datagram (R128). -/
def State.pesData (s : State) (i : Nat) (dv : Bool) (bs : List Byte) : State :=
  match (s.src i).opens with
  | [] => s
  | u :: rest =>
    s.setSrc i { s.src i with opens := { u with pkts := (u.pkts.length, bs) :: u.pkts, div := u.div || dv } :: rest }

/-- Data lost on the video PID: LOST counts them and the unit carries GAP (R125).
(PRESUMED, log entry 48) -/
def State.tsGap (s : State) (i n : Nat) : State :=
  if n = 0 then s
  else
    let e := s.src i
    let s := match e.opens with
      | [] => s.setSrc i { e with gapNext := true }
      | u :: rest => s.setSrc i { e with opens := { u with gap := true } :: rest }
    s.countLost i n

/-- One transport packet of 188 bytes, of a datagram whose copies diverged or did not (R103, R125, R128). -/
def State.tsPacket (s : State) (i ts : Nat) (wall : Int) (count : Nat) (dv : Bool) (p : List Byte) : State :=
  let pid := beAt p 1 2 % 8192
  let start := bitOf (beAt p 1 1) 6
  let ctl := beAt p 3 1
  let off := if bitOf ctl 5 then 5 + beAt p 4 1 else 4
  let pay := if bitOf ctl 4 then p.drop off else []
  let e := s.src i
  if pid = 0 ∨ pid ∈ e.ts.pmts.map (fun y => y.2) then s.tsSection i pid start pay
  else if some pid = e.ts.video then
    if pay.isEmpty then s
    else
      let cc := ctl % 16
      let miss := match e.ts.cc with
        | none => 0
        | some c => (cc + 15 - c) % 16
      if miss = 15 then s
      else
        let s := s.tsGap i miss
        let s := s.setSrc i { s.src i with ts := { (s.src i).ts with cc := some cc } }
        if start then ((s.pesClose i).auOpen i ts wall count).pesData i dv pay else s.pesData i dv pay
  else s.inc (Reg.ING.SRC.DISCARDED i)

/-- Whether a payload is 1 to 7 transport packets (R103). -/
def tsGood (pl : List Byte) : Bool :=
  let n := pl.length / 188
  pl.length % 188 == 0 && decide (1 ≤ n ∧ n ≤ 7) && (List.range n).all (fun k => beAt pl (188 * k) 1 == 0x47)

/-- The transport packets of a datagram, in order. -/
def State.tsPackets (s : State) (i ts : Nat) (wall : Int) (count : Nat) (dv : Bool) (pl : List Byte) : State :=
  (List.range (pl.length / 188)).foldl (fun s k => s.tsPacket i ts wall count dv ((pl.drop (188 * k)).take 188)) s

/-- Whether every path waited for has delivered a sequence number from `n` on. -/
def State.tsPassed (s : State) (i n : Nat) : Bool :=
  let t := (s.src i).ts
  let past := fun (h : Option Nat) => match h with
    | some x => decide (0 ≤ diff32 x n)
    | none => false
  (!s.waitsA i || past t.hiA) && (!s.waitsB i || past t.hiB)

/-- The access unit open on a transport stream carries the divergence of a datagram taken into it (R128). -/
def SrcState.diverged (e : SrcState) : SrcState :=
  { e with opens := match e.opens with
      | [] => []
      | u :: rest => { u with div := true } :: rest }

/-- The datagrams of a transport stream over RTP taken in order: the next one as soon as it is there, a later one when
every path waited for has passed what is missing.
(DEDUCED, log entry 47) -/
def State.tsDrain (s : State) (i : Nat) : Nat → State
  | 0 => s
  | fuel + 1 =>
    let e := s.src i
    match e.ts.held with
    | [] => s
    | (n, ts, wall, count, pl) :: rest =>
      let next := match e.base with
        | some b => n == b
        | none => true
      if next || s.tsPassed i n then
        let was := (e.opens.head?).map (fun (u : OpenUnit) => u.seq)
        let s := s.setSrc i { e with base := some ((n + 1) % 2 ^ 32), ts := { e.ts with held := rest } }
        let s := s.tsPackets i ts wall count (e.ts.divs.contains n) pl
        let x := s.src i
        let x := { x with ts := { x.ts with divs := x.ts.divs.filter (fun k => k != n) } }
        let same := (x.opens.head?).map (fun (u : OpenUnit) => u.seq) == was
        (s.setSrc i { x with ts := { x.ts with seen := if same then n :: x.ts.seen else [n] } }).tsDrain i fuel
      else s

/-- A datagram of a transport stream over RTP (R103, R125, R127). -/
def State.tsRtp (s : State) (i : Nat) (d : NetDgram) (r : Rtp) : State :=
  let n := extSeq (s.src i).hi r.seq
  let s := s.srcAccept i d.pathB
  let e := s.src i
  let top := fun (h : Option Nat) => match h with
    | some x => if 0 < diff32 n x then some n else some x
    | none => some n
  let t := if d.pathB then { e.ts with hiB := top e.ts.hiB } else { e.ts with hiA := top e.ts.hiA }
  let s := s.setSrc i { e with hi := top e.hi, ts := t }
  let late := match e.base with
    | some b => decide (diff32 n b < 0)
    | none => false
  let s := if t.held.any (fun h => h.1 == n) || t.seen.contains n then
      let x := s.histDiffers i n r.payload
      if x.2 then
        let e := x.1.src i
        let e := if t.held.any (fun h => h.1 == n) then { e with ts := { e.ts with divs := n :: e.ts.divs } }
          else e.diverged
        ((x.1.setSrc i e).inc (Reg.ING.SRC.DIVERGENT i)).raise Ev.pathDivergent i
      else x.1
    else if late then s.inc (Reg.ING.SRC.LATE i)
    else
      let held := seqInsert n (r.ts, d.wall, d.count, r.payload) t.held
      ((s.setSrc i { s.src i with ts := { t with held := held } }).histStore i n r.payload).inc (Reg.ING.SRC.PKTS i)
  s.tsDrain i ((s.src i).ts.held.length + 1)

/-! ### What a stream engine does with a datagram -/

/-- A datagram taken by its stream engine (R103, R127). -/
def State.takeDgram (s : State) (d : NetDgram) : State :=
  let i := d.entry
  let t := s.g (Reg.ING.SRC.TYPE i)
  if t = 7 then (s.srcAccept i d.pathB).inc (Reg.ING.SRC.DISCARDED i)
  else if t = 4 ∧ s.gb (Reg.ING.SRC.TS_RTP i) = false then
    if tsGood d.data then ((s.srcAccept i d.pathB).inc (Reg.ING.SRC.PKTS i)).tsPackets i 0 d.wall d.count false d.data
    else s.inc (Reg.ING.SRC.BAD i)
  else match rtpOf d.data with
    | none => s.inc (Reg.ING.SRC.BAD i)
    | some r =>
      if !s.rtpFits i r then s.inc (Reg.ING.SRC.BAD i)
      else if t = 1 then
        match s.srdsOf i r.payload with
        | some x => s.videoPacket i d r x
        | none => s.inc (Reg.ING.SRC.BAD i)
      else if t = 4 then (if tsGood r.payload then s.tsRtp i d r else s.inc (Reg.ING.SRC.BAD i))
      else if nalPayloadGood (t == 3) r.payload then s.nalPacket i d r
      else s.inc (Reg.ING.SRC.BAD i)

/-- The datagram that stream engine `e` takes next. -/
def State.nextDgram (s : State) (e : Nat) : Option NetDgram :=
  if s.coreOn && s.engRunning (2 + e) then
    s.net.waiting.find? (fun (d : NetDgram) => s.g (Reg.ING.SRC.SE d.entry) == e)
  else none

/-- The loads of the last 1 ms among those of a stream engine. -/
def State.seRecent (s : State) (e : Nat) : List (Nat × Nat) :=
  (Tab.get [] e s.net.load).filter (fun x => decide (s.clock < x.1 + 1000000))

/-- The state without a datagram that stream engine `e` has taken, which counts in its load (R106). -/
def State.dgramTaken (s : State) (e : Nat) (d : NetDgram) : State :=
  { s with net := { s.net with
      waiting := s.net.waiting.erase d
      load := Tab.put [] e (s.seRecent e ++ [(s.clock, d.data.length)]) s.net.load } }

/-- LOAD_PCT of stream engine `e`: the greater share of its 25 Gb/s and its 3.0 million datagrams per second that the last 1 ms
took (R106).
(DESIGN CHOICE, log entry 32) -/
def State.seLoadPct (s : State) (e : Nat) : Nat :=
  let l := s.seRecent e
  min 100 (max (8 * (l.map (fun x => x.2)).sum / 250000) (l.length / 30))

/-- Stream engine `e` takes its next datagram, where that is a media packet (R127).
(DESIGN CHOICE, log entry 32) -/
def mediaPacket (e : Nat) (s : State) : State :=
  match s.nextDgram e with
  | some d => if d.rtcp then s else (s.dgramTaken e d).takeDgram d
  | none => s

/-- Stream engine `e` takes its next datagram, where that came to UDP port + 1 (R121). -/
def rtcpPacket (e : Nat) (s : State) : State :=
  match s.nextDgram e with
  | some d => if d.rtcp then (s.dgramTaken e d).senderReport d.entry d.data else s
  | none => s

/-! ### Silence (R121, R124, R126, R129) -/

/-- The clock of the last accepted packet of entry `i`. -/
def State.lastPacket (s : State) (i : Nat) : Nat := max ((s.src i).atA.getD 0) ((s.src i).atB.getD 0)

/-- LOST_MS without an accepted packet (R124, R126): open frames close, their missing rows filled, and the entry is LOST. -/
def sourceLost (i : Nat) (s : State) : State :=
  let t := s.g (Reg.ING.SRC.TYPE i)
  if s.coreOn && s.isNet i && s.gb (Reg.ING.SRC.ENABLE i) && s.g (Reg.ING.SRC.STATE i) == 2 &&
      decide (s.lastPacket i + 1000000 * s.g Reg.ING.CTRL.LOST_MS ≤ s.clock) then
    let n := (s.src i).opens.length
    let s := if t = 1 then
        (List.range n).foldl (fun s _ => (s.loseRows i 0 (s.bufH i)).frameClose i 0) s
      else s
    (s.p (Reg.ING.SRC.STATE i) 3).raise Ev.srcLost i
  else s

/-- PATH_WINDOW_MS without an accepted packet on a path of a dual-path entry (R129); units close where the stream engine runs (R23). -/
def pathExpire (i : Nat) (pathB : Bool) (s : State) : State :=
  let last := if pathB then (s.src i).atB else (s.src i).atA
  let win := 1000000 * s.g (Reg.ING.SRC.PATH_WINDOW_MS i)
  match last with
  | none => s
  | some t =>
    if s.coreOn && s.gb (Reg.ING.SRC.ENABLE i) && s.gb (Reg.ING.SRC.DUAL i) && decide (t + win ≤ s.clock) then
      let s := if pathB then s.pb (Reg.ING.SRC.PATH_B_UP i) false else s.pb (Reg.ING.SRC.PATH_A_UP i) false
      let n := (s.src i).opens.length + 1
      if !s.engRunning (2 + s.g (Reg.ING.SRC.SE i)) then s
      else if s.g (Reg.ING.SRC.TYPE i) = 1 then s.framesStep i 0 n
      else if s.g (Reg.ING.SRC.TYPE i) = 4 then s.tsDrain i ((s.src i).ts.held.length + 1)
      else s.ausStep i n
    else s

/-- SR_TIMEOUT_S without a sender report (R121). -/
def srTimeout (i : Nat) (s : State) : State :=
  if s.coreOn && decide ((s.src i).srAt + 1000000000 * s.g Reg.ING.CTRL2.SR_TIMEOUT_S ≤ s.clock) then
    s.pb (Reg.ING.SRC.SR_VALID i) false
  else s

/-- A stream engine stops (R23): its streams' units are dropped. -/
def State.ingEngineStop (s : State) (e : Nat) : State :=
  ((List.range 512).filter (fun i => s.gb (Reg.ING.SRC.ENABLE i) && s.isNet i && s.g (Reg.ING.SRC.SE i) == e)).foldl
    (fun s i => s.srcDrop i) s

/-! ### The commands -/

/-- MEDIA_PACKET (R127): of stream engine `e`. -/
def execMediaPacket (dt : Nat) (e : Fin 16) (s : State) : Out State := .next (mediaPacket e.val (s.advance dt))

/-- RTCP_SENDER_REPORT (R121): of stream engine `e`. -/
def execRtcpSenderReport (dt : Nat) (e : Fin 16) (s : State) : Out State := .next (rtcpPacket e.val (s.advance dt))

/-- SOURCE_LOST_TIMEOUT (R126). -/
def execSourceLostTimeout (dt : Nat) (i : Fin 512) (s : State) : Out State := .next (sourceLost i.val (s.advance dt))

/-- PATH_LIVENESS_EXPIRE (R129): of path B or of path A. -/
def execPathLivenessExpire (dt : Nat) (i : Fin 512) (pathB : Bool) (s : State) : Out State :=
  .next (pathExpire i.val pathB (s.advance dt))

/-- SR_TIMEOUT (R121). -/
def execSrTimeout (dt : Nat) (i : Fin 512) (s : State) : Out State := .next (srTimeout i.val (s.advance dt))

end Sys2Proof.Machine
end

