-- ==== Sys2Proof/Machine/LaneEvents.lean ====
section
/-! DEFINITION. What the lane detectors and the quads' PLLs report, with the effect on each lane's owner (R424, R430 to
R436, R441). -/

namespace Sys2Proof.Machine

/-- The effect of LOS or LOL of a lane on its owner (R434). -/
def State.ownerLoses (s : State) (q l : Nat) : State :=
  match s.g (Reg.LANE.OWNER q l) with
  | 1 => s.portDown q (s.lanePort q l)
  | 3 => match s.tzlOf (dispOf q l) with
    | some t => s.tzlLaneLost t (dispOf q l)
    | none => s
  | 4 => match s.spareOf (dispOf q l) with
    | some t => s.tzlLaneLost t (dispOf q l)
    | none => s
  | 5 => s.prbsLock q l false
  | _ => s

/-- The effect on the owners of several lanes. -/
def State.ownersLose (s : State) (q : Nat) (ls : List Nat) : State := ls.foldl (fun s l => s.ownerLoses q l) s

/-- The lanes of a quad that a mask names. -/
def lanesOf (mask : Nat) : List Nat := laneNums.filter (fun l => bitOf mask l)

/-- Whether the LOS detector of a lane is evaluated (R433, R441). -/
def State.losHeard (s : State) (q l : Nat) : Bool :=
  s.laneHears q l && s.g (Reg.LANE.LOOPBACK q l) != 1 && s.g (Reg.LANE.LOOPBACK q l) != 2

/-- Whether the LOL detector of a lane is evaluated (R433, R441). -/
def State.lolHeard (s : State) (q l : Nat) : Bool := s.laneHears q l && s.g (Reg.LANE.LOOPBACK q l) != 2

/-- LOS rises on lanes of quad `q` in one clock (R431, R433); LOL is set with it (R432). -/
def laneLos (q mask : Nat) (s : State) : State :=
  if !s.coreOn then s
  else
    let ls := (lanesOf mask).filter (fun l => s.losHeard q l && !s.gb (Reg.LANE.LOS q l))
    let lol := ls.filter (fun l => !s.gb (Reg.LANE.LOL q l))
    ((((s.losEdges q ls).lolEdges q lol).losEvent q ls).lolEvent q lol).ownersLose q ls

/-- LOL rises on lanes of quad `q` in one clock (R432, R433). -/
def laneLol (q mask : Nat) (s : State) : State :=
  if !s.coreOn then s
  else
    let ls := (lanesOf mask).filter (fun l => s.lolHeard q l && !s.gb (Reg.LANE.LOL q l))
    ((s.lolEdges q ls).lolEvent q ls).ownersLose q ls

/-- The amplitude has stayed above the threshold for 1 µs (R431). -/
def laneLosClear (q l : Nat) (s : State) : State :=
  if s.coreOn && s.losHeard q l && s.gb (Reg.LANE.LOS q l) then (s.pb (Reg.LANE.LOS q l) false).lockAnew q l else s

/-- 16 µs of continuous lock (R432), which cannot have begun before LOL was set, LOS cleared, the quad's PLL locked or the lane came to
P0: the quad's PLL has lock and LOS is clear; adaptation starts from the values held, also at the
first lock after P0 entry (R430). -/
def laneLolClear (q l : Nat) (s : State) : State :=
  if s.coreOn && s.lolHeard q l && (s.gb (Reg.LANE.LOL q l) || s.g (Reg.LANE.ADAPT q l) == 0) &&
      !s.gb (Reg.LANE.LOS q l) && s.gb (Reg.QUAD.PLL_LOCK q) && decide ((s.lane q l).lockFrom + 16000 ≤ s.clock) then
    (s.pb (Reg.LANE.LOL q l) false).p (Reg.LANE.ADAPT q l) 1
  else s

/-- Whether the PLL of quad `q` can fail now: it loses the lock it has, or it has not locked within 200 µs of its start, which one start
brings once (R424).
(DEDUCED, log entry 42) -/
def State.quadMayFail (s : State) (q : Nat) : Bool :=
  s.quadRuns q && (s.gb (Reg.QUAD.PLL_LOCK q) ||
    (Tab.get none q s.quads).any (fun t => decide (t + 200000 ≤ s.clock)))

/-- The PLL of quad `q` has not locked in time, or loses lock (R424). -/
def quadPllFail (q : Nat) (s : State) : State :=
  if s.coreOn && s.quadMayFail q then
    let s := (((s.setQuad q none).pb (Reg.QUAD.PLL_LOCK q) false).inc (Reg.QUAD.PLL_LOSSES q)).raise Ev.clkFail (32 + q)
    let ls := s.lolLanes q
    ((s.lolEdges q ls).lolEvent q ls).ownersLose q ls
  else s

/-- The PLL of quad `q` reaches lock. -/
def State.quadLocked (s : State) (q : Nat) : State :=
  if s.quadRuns q && !s.gb (Reg.QUAD.PLL_LOCK q) then
    laneNums.foldl (fun s l => s.lockAnew q l) ((s.setQuad q none).pb (Reg.QUAD.PLL_LOCK q) true)
  else s

/-- 16 invalid headers of 64 (R436): block lock is lost, and with it the port's link.
(DEDUCED, log entry 45) -/
def blockLockLoss (q l : Nat) (s : State) : State :=
  if s.coreOn && s.gb (Reg.LANE.BLOCK_LOCK q l) then
    ((s.incBy (Reg.LANE.SYNC_HDR_ERR q l) 16).lockDrop q l).portDown q (s.lanePort q l)
  else s

/-- LANE_LOS (R433): the lanes of the quad that lose their signal together. -/
def execLaneLos (dt : Nat) (q : Fin 20) (mask : BitVec 4) (s : State) : Out State :=
  .next (laneLos q.val mask.toNat (s.advance dt))

/-- LANE_LOS_CLEAR (R431). -/
def execLaneLosClear (dt : Nat) (q : Fin 20) (l : Fin 4) (s : State) : Out State :=
  .next (laneLosClear q.val l.val (s.advance dt))

/-- LANE_LOL (R433): the lanes of the quad that lose lock together. -/
def execLaneLol (dt : Nat) (q : Fin 20) (mask : BitVec 4) (s : State) : Out State :=
  .next (laneLol q.val mask.toNat (s.advance dt))

/-- LANE_LOL_CLEAR (R432). -/
def execLaneLolClear (dt : Nat) (q : Fin 20) (l : Fin 4) (s : State) : Out State :=
  .next (laneLolClear q.val l.val (s.advance dt))

/-- QUAD_PLL_FAIL (R424). -/
def execQuadPllFail (dt : Nat) (q : Fin 20) (s : State) : Out State := .next (quadPllFail q.val (s.advance dt))

/-- BLOCK_LOCK_LOSS (R436). -/
def execBlockLockLoss (dt : Nat) (q : Fin 20) (l : Fin 4) (s : State) : Out State :=
  .next (blockLockLoss q.val l.val (s.advance dt))

end Sys2Proof.Machine
end

