-- ==== Sys2Proof/Machine/DecPipes.lean ====
section
/-! DEFINITION. The decode pipes and their scheduler: candidates, activation, jobs, output, reduced copies, containment and
the fault log (R130 to R155). What a stream's syntax says of a record comes with the command. -/

namespace Sys2Proof.Machine

/-- Decode context `i` beyond its registers. -/
def State.dctx (s : State) (i : Nat) : DecCtx := Tab.get DecCtx.reset i s.dec.ctxs
def State.setDctx (s : State) (i : Nat) (x : DecCtx) : State :=
  { s with dec := { s.dec with ctxs := Tab.put DecCtx.reset i x s.dec.ctxs } }

/-- Decode pipe `n` beyond its registers. -/
def State.dpipe (s : State) (n : Nat) : DecPipe := Tab.get DecPipe.reset n s.dec.pipes
def State.setDpipe (s : State) (n : Nat) (x : DecPipe) : State :=
  { s with dec := { s.dec with pipes := Tab.put DecPipe.reset n x s.dec.pipes } }

/-! ### The times of a pipe (R27, R144, R149, R155, R475) -/

/-- Whether the pipe saves, restores or resets at a clock. -/
def PipeTimes.inPhase (t : PipeTimes) (clock : Nat) : Bool := decide (clock < t.till)

/-- A job put on the pipe, and taken off it with its watchdog limit and its cycles: the interval counts as busy. -/
def PipeTimes.began (t : PipeTimes) (clock : Nat) : PipeTimes := { t with since := clock }
def PipeTimes.ended (t : PipeTimes) (clock limit count : Nat) : PipeTimes :=
  { t with busy := (t.busy ++ [(t.since, clock)]).filter (fun x => decide (clock < x.2 + 100000000)), limit := limit, count := count }

/-- Byte `i` of the store of a pipe whose content is drawn at `k`: what a job keeps there, which the spec does not lay out (R31).
(DESIGN CHOICE, log entry 98) -/
def storeByte (k i : Nat) : Byte := Config.freeByte k i

/-- The pipe in phase `k` until a clock. -/
def PipeTimes.phased (t : PipeTimes) (k till : Nat) : PipeTimes := { t with phase := k, till := till }

/-- BUSY.PCT: the share of the last 100 ms with a job on the pipe. The clock of a pipe idle for 1 µs is gated, and the value
stands (R27, R475). -/
def PipeTimes.pct (t : PipeTimes) (running : Bool) (clock : Nat) : Nat :=
  let stop := if running then clock else min clock (((t.busy.getLast?).map (fun x => x.2 + 1000)).getD 0)
  let spans := t.busy ++ (if running then [(t.since, clock)] else [])
  min 100 ((spans.map (fun x => x.2 - max x.1 (stop - 100000000))).sum / 1000000)

/-- A time of at most `n` ns that the spec bounds and does not state.
(DEDUCED, log entry 49) -/
def State.freeNs (s : State) (n : Nat) : Nat := s.freeNat % (n + 1)

/-- Bursts that master `m` issues at the memory controllers, whose number the spec does not state. -/
def State.busTraffic (s : State) (m : Nat) : State :=
  (List.range 8).foldl (fun s t =>
    let s' := s.incBy (Reg.MTX.TARGET.GRANTS t) s.freeNat
    (if Config.freeBool s.free then s'.p (Reg.MTX.TARGET.PARKED t) m else s').drawn) s

/-- The QoS of a class (R143). -/
def classQos (c : Nat) : Nat := if c = 0 then 7 else if c = 1 then 6 else 4

/-! ### Records (R116, R130, R143) -/

/-- Whether source entry `i` is compressed. -/
def State.compressed (s : State) (i : Nat) : Bool :=
  let t := s.g (Reg.ING.SRC.TYPE i)
  decide (2 ≤ t ∧ t ≤ 4)

/-- Whether a job of context `i` runs or is suspended. -/
def State.hasJob (s : State) (i : Nat) : Bool :=
  (List.range 8).any (fun n =>
    ((s.dpipe n).job.map (fun (j : DecJob) => j.ctx)) == some i || ((s.dpipe n).susp.map (fun (j : DecJob) => j.ctx)) == some i)

/-- The address of the oldest unconsumed record of entry `i`. -/
def State.recordBase (s : State) (i : Nat) : Option Nat :=
  ((s.src i).recs.head?).map (fun r => 256 * s.g (Reg.ING.SRC.BS_BASE i) + r.1)

/-- ARRIVAL and SEQUENCE of the record at `a` (R116). -/
def State.recArrival (s : State) (a : Nat) : Nat := s.le (a + 18) 8
def State.recSeq (s : State) (a : Nat) : Nat := s.le (a + 28) 4

/-- Whether context `i` has a record for the scheduler to take: one that is to be discarded, or a job. -/
def State.hasWork (s : State) (i : Nat) : Bool :=
  s.gb (Reg.ING.SRC.ENABLE i) && s.compressed i && !(s.src i).recs.isEmpty && !s.hasJob i

/-- Whether context `i` is ready (R143). -/
def State.decReady (s : State) (i : Nat) : Bool := s.hasWork i && s.g (Reg.DEC.CTX.STATE i) != 1

/-- Ready contexts of a class. -/
def State.readyCount (s : State) (c : Nat) : Nat :=
  ((List.range 512).filter (fun i => s.decReady i && s.g (Reg.DEC.CTX.CLASS i) == c)).length

/-- The context that the scheduler takes next: the highest class, then the oldest ARRIVAL (R143).
(DESIGN CHOICE, log entry 98) -/
def State.decCandidate (s : State) : Option Nat :=
  ((List.range 512).filter (fun i => s.hasWork i)).foldl (fun (best : Option Nat) (i : Nat) =>
    match best with
    | none => some i
    | some b =>
      let key := fun j => (s.g (Reg.DEC.CTX.CLASS j), ((s.recordBase j).map (fun a => s.recArrival a)).getD 0)
      if (key i).1 < (key b).1 ∨ ((key i).1 = (key b).1 ∧ (key i).2 < (key b).2) then some i else some b) none

/-- The oldest record of entry `i` is consumed: BS_RD passes it (R130). -/
def State.consumeRecord (s : State) (i : Nat) : State :=
  match (s.src i).recs with
  | [] => s
  | (off, len) :: rest =>
    let next := if off + len = 1024 * s.g (Reg.ING.SRC.BS_SIZE_KB i) then 0 else off + len
    (s.setSrc i { s.src i with recs := rest }).p (Reg.ING.SRC.BS_RD i) (((rest.head?).map (fun r => r.1)).getD next)

/-! ### The fault log (R155) -/

/-- A record of the fault log; OVF where the log is full. -/
def State.decLog (s : State) (f : DecFault) : State :=
  if s.dec.faults.length < 16 then { s with dec := { s.dec with faults := s.dec.faults ++ [f] } }
  else s.pb Reg.DEC.FAULT_STATUS.OVF true

/-- A read of DEC.FAULT_INFO by master `m`: the oldest record is removed and snapshot. -/
def decFaultRead (m : Nat) (s : State) : State × Word :=
  match s.dec.faults with
  | [] => (s.setSnaps m [(0x10208018, 0), (0x1020801C, 0), (0x10208020, 0)], 0)
  | f :: rest =>
    (({ s with dec := { s.dec with faults := rest } }).setSnaps m
      [(0x10208018, BitVec.ofNat 32 f.addr), (0x1020801C, BitVec.ofNat 32 (f.addr / 2 ^ 32)),
        (0x10208020, BitVec.ofNat 32 f.seq)],
      BitVec.ofNat 32 (2 ^ 31 + f.ctx * 2 ^ 16 + f.pipe * 2 ^ 8 + f.cause))

/-! ### Activation (R131, R133, R136) -/

/-- Bytes of `n` samples in the DPB packing. -/
def packedBytes (depth10 : Bool) (n : Nat) : Nat := if depth10 then 4 * ((n + 2) / 3) else n

/-- Whether a profile is one of R131. -/
def spsProfileGood (f : SpsFacts) : Bool :=
  if f.hevc then decide (f.idc = 1 ∨ f.idc = 2) || (decide (2 < f.idc) && f.compat)
  else (decide (f.idc = 66) && f.set1) || decide (f.idc = 77 ∨ f.idc = 100 ∨ f.idc = 110)

/-- Whether chroma format and bit depths are those of R131. -/
def spsFormatGood (f : SpsFacts) : Bool :=
  (decide (f.chroma = 1) || (!f.hevc && decide (f.chroma = 0))) && decide (8 ≤ f.depthY ∧ f.depthY ≤ 10) &&
    decide (8 ≤ f.depthC ∧ f.depthC ≤ 10)

/-- Whether a sequence has samples of more than 8 bits. -/
def spsTen (f : SpsFacts) : Bool := decide (8 < f.depthY ∨ 8 < f.depthC)

/-- Samples of a picture slot: coded width × coded height × 1.5 (R136). -/
def slotSamples (w h : Nat) : Nat := w * h + 2 * ((w / 2) * (h / 2))

/-- Bytes of a picture slot (R136). -/
def slotBytes (ten : Bool) (w h : Nat) : Nat := ceilTo 4096 (packedBytes ten (w * h * 3 / 2))

/-- Bytes that a sequence needs in its DPB area. -/
def spsDpbBytes (f : SpsFacts) : Nat := (f.dpb + 2) * slotBytes (spsTen f) f.codedW f.codedH

/-- The cause for which context `i` refuses a sequence; 0 where it takes it (R132, R133). More than 16 reference pictures are
refused with DPB_SIZE.
(DEDUCED, log entry 49) -/
def State.spsCheck (s : State) (i : Nat) (f : SpsFacts) : Nat :=
  let size := 2 ^ 20 * s.g (Reg.DEC.CTX.DPB_MB i)
  if !spsProfileGood f then 0x10
  else if 4096 < f.codedW ∨ 2304 < f.codedH ∨ s.srcW i < f.cropW ∨ s.srcH i < f.cropH then 0x11
  else if !spsFormatGood f then 0x12
  else if f.mbaff then 0x13
  else if 16 < f.refs || size < spsDpbBytes f || !s.inDram (4096 * s.g (Reg.DEC.CTX.DPB_BASE i)) size then 0x14
  else 0

/-- A sequence activated in context `i` by the record of SEQUENCE `seq`: taken or refused (R133).
(DESIGN CHOICE, log entry 98) -/
def State.activate (s : State) (i seq : Nat) (f : SpsFacts) : State :=
  let c := s.spsCheck i f
  if c = 0 then
    let s := ((s.pb (Reg.DEC.CTX.CODEC i) f.hevc).pb (Reg.DEC.CTX.DEPTH10 i) (spsTen f)).p (Reg.DEC.CTX.STATE i) 2
    let s := (s.p (Reg.DEC.CTX.SEQ_W_M1 i) (f.cropW - 1)).p (Reg.DEC.CTX.SEQ_H_M1 i) (f.cropH - 1)
    s.setDctx i { s.dctx i with
      codedW := f.codedW, codedH := f.codedH, cropX := f.cropX, cropY := f.cropY, depthY := f.depthY, depthC := f.depthC,
      mono := f.chroma == 0, slots := f.dpb + 2, dpb := [] }
  else
    let s := (s.p (Reg.DEC.CTX.LAST_UNSUP i) c).p (Reg.DEC.CTX.STATE i) 6
    (s.decLog ⟨8, i, c, 0, seq⟩).raise Ev.decFault (i + c * 2 ^ 16)

/-! ### Jobs (R137, R138, R143 to R146) -/

/-- Whether context `i` lags (R145): its oldest record arrived more than LAG_MS ago. -/
def State.decLags (s : State) (i a : Nat) : Bool :=
  s.gb (Reg.DEC.CTX.SKIP_NONREF i) && decide (s.recArrival a + 1000000 * s.g (Reg.DEC.CTX.LAG_MS i) < s.time.count)

/-- The field of a record's picture in context `i`, 0 for a frame, 1 top, 2 bottom: without an SEI, fields alternate starting
with top (R137). -/
def State.fieldOf (s : State) (i : Nat) (au : AuFacts) : Nat :=
  match au.field with
  | none => 0
  | some f => if f.getD (s.dctx i).nextBottom then 2 else 1

/-- The field after that of a record's picture. -/
def State.fieldPassed (s : State) (i : Nat) (au : AuFacts) : State :=
  let f := s.fieldOf i au
  if f = 0 then s else s.setDctx i { s.dctx i with nextBottom := f == 1 }

/-- An access unit of context `i` discarded: counted in SKIPPED. -/
def State.auSkip (s : State) (i : Nat) (au : AuFacts) : State :=
  ((s.fieldPassed i au).inc (Reg.DEC.CTX.SKIPPED i)).consumeRecord i

/-- An access unit of a refused sequence (R133). -/
def State.auUnsupported (s : State) (i : Nat) : State := (s.inc (Reg.DEC.CTX.UNSUPPORTED i)).consumeRecord i

/-- The coded height of a picture of context `i`: a field of H.264 has half that of its frame, and H.265's sequence gives that of
the field (R137). -/
def State.picHeight (s : State) (i field : Nat) : Nat :=
  let h := (s.dctx i).codedH
  if field = 0 ∨ s.gb (Reg.DEC.CTX.CODEC i) = true then h else h / 2

/-- Expected cycles of a job of `n` coded luma samples (R148). -/
def expectedCycles (n : Nat) : Nat := 10000 + (n * 20 + 12) / 13

/-- The buffers claimed for a picture whose fields are `fields`, all or none (R112, R137, R138).
(DEDUCED, log entry 49) -/
def State.claimAll (s : State) (i count : Nat) : List Nat → State × Option (List Nat)
  | [] => (s, some [])
  | f :: fs =>
    match s.nextClaim (s.ring i) (s.src i).lastPos with
    | none => (s, none)
    | some x =>
      let r := (s.claim x.2 f count).claimAll i count fs
      match r.2 with
      | some bs => (r.1, some (x.2 :: bs))
      | none => (r.1.unclaim x.2, none)

/-- The FIELD values of the buffers of a picture (R137). -/
def State.picFields (s : State) (i field : Nat) : List Nat :=
  if s.gb (Reg.ING.SRC.INTERLACED i) then (if field = 0 then [0, 1] else [field - 1]) else [0]

/-- The picture of a job enters the context's list: a second field woven into a frame shares its pair's picture (R137), whose tag
says DIVERGENT_PATH for either; otherwise buffers are claimed for a picture that will be output (R138). -/
def State.picOpen (s : State) (i a : Nat) (au : AuFacts) : State × Nat :=
  let seq := s.recSeq a
  let div := (s.src i).divs.contains seq
  let field := s.fieldOf i au
  let woven := field != 0 && !s.gb (Reg.ING.SRC.INTERLACED i)
  let pair := if woven then
      au.second.bind (fun q => ((s.dctx i).pics.find? (fun (p : DecPic) => p.seq == q)).map (fun (p : DecPic) => p.seq))
    else none
  match pair with
  | some q =>
    (s.setDctx i { s.dctx i with pics := (s.dctx i).pics.map (fun (p : DecPic) =>
      if p.seq = q then { p with div := p.div || div, half := false } else p) }, q)
  | none =>
    let r := if au.shown then s.claimAll i (s.recArrival a) (s.picFields i field) else (s, some [])
    let s := if r.2.isNone then r.1.inc (Reg.DEC.CTX.OUT_DROP i) else r.1
    let p : DecPic := {
      seq := seq, bufs := r.2.getD [], cap := wallOf (s.le (a + 8) 6) (s.le (a + 14) 4),
      capSrc := !bitOf (s.le (a + 4) 2) 1, div := div, taint := false, sig := 0, half := woven && au.second.isNone }
    (s.setDctx i { s.dctx i with pics := (s.dctx i).pics ++ [p] }, seq)

/-- A job of context `i` starts on pipe `n`, running from a clock. -/
def State.jobStart (s : State) (n i a from_ : Nat) (au : AuFacts) : State :=
  let field := s.fieldOf i au
  let r := s.picOpen i a au
  let s' := r.1.fieldPassed i au
  let j : DecJob := {
    ctx := i, cls := s.g (Reg.DEC.CTX.CLASS i), seq := s.recSeq a, pic := r.2, rap := au.rap, recovery := au.recovery,
    gap := bitOf (s.le (a + 4) 2) 0, field := field, mate := au.second, startAt := from_, used := 0, ranAt := from_,
    limit := 4 * expectedCycles ((s'.dctx i).codedW * s'.picHeight i field), gone := false }
  let x := s'.dpipe n
  ((s'.setDpipe n { x with job := some j, times := x.times.began s.clock, store := s'.free }).p (Reg.DEC.CTX.STATE i) 4).drawn

/-- Whether pipe `n` may take a job of class `c` (R143, R155). -/
def State.pipeTakes (s : State) (n c : Nat) : Bool :=
  s.gb (Reg.DEC.CTRL.ENABLE n) && (s.dpipe n).job.isNone && !(s.dpipe n).times.inPhase s.clock &&
    (match (s.dpipe n).susp with
      | none => true
      | some j => decide (c < j.cls))

/-- The suspended job of an idle pipe resumes, once it is restored, which takes at most 30 µs (R144). -/
def State.pipeResume (s : State) (n : Nat) : State :=
  let x := s.dpipe n
  match x.job, x.susp with
  | none, some j =>
    if x.times.inPhase s.clock then s
    else
      let at_ := s.clock + s.freeNs 30000
      ((s.setDpipe n { x with
        job := some { j with ranAt := at_ }, susp := none, times := (x.times.began s.clock).phased 4 at_, store := s.free + 1 }).p
          (Reg.DEC.CTX.STATE j.ctx) 4).drawn.drawn
  | _, _ => s

/-- What the scheduler makes of the record it takes next, which needs no pipe where it is discarded as R133, R134, R145, R149 and
R152 state: the state, and whether the record begins a job. -/
def State.recordTake (s : State) (i a : Nat) (au : AuFacts) : State × Bool :=
  if s.g (Reg.DEC.CTX.STATE i) = 1 ∧ au.params = false then (s.auSkip i au, false)
  else
    let begins := s.g (Reg.DEC.CTX.STATE i) == 1
    let s' := match au.sps with
      | some f => s.activate i (s.recSeq a) f
      | none => if begins then s.p (Reg.DEC.CTX.STATE i) 2 else s
    if s'.g (Reg.DEC.CTX.STATE i) = 6 then (s'.auUnsupported i, false)
    else if s.g (Reg.DEC.CTX.STATE i) = 7 ∧ au.rap = false then ((s'.p (Reg.DEC.CTX.STATE i) 7).auSkip i au, false)
    else if (s'.decLags i a && au.nonRef) || au.rasl then (s'.auSkip i au, false)
    else (s', true)

/-- The record that the scheduler takes next: discarded, or begun on pipe `n`. -/
def State.takeRecord (s : State) (n i a : Nat) (au : AuFacts) : State :=
  let r := s.recordTake i a au
  if !r.2 then r.1
  else if r.1.pipeTakes n (r.1.g (Reg.DEC.CTX.CLASS i)) then r.1.jobStart n i a s.clock au
  else s.pipeResume n

/-- DECODE_DISPATCH on pipe `n` (R143).
(DEDUCED, log entry 49) (DESIGN CHOICE, log entry 50) -/
def decDispatch (n : Nat) (au : AuFacts) (s : State) : State :=
  if !s.coreOn then s
  else match s.decCandidate with
    | none => s.pipeResume n
    | some i =>
      match s.recordBase i with
      | none => s.pipeResume n
      | some a => s.takeRecord n i a au

/-- The cycles a running job has counted (R148): 800 MHz from the clock it last ran from. -/
def DecJob.cycles (j : DecJob) (clock : Nat) : Nat := j.used + (clock - j.ranAt) * 4 / 5

/-- The pipe whose job gives way to a LIVE job (R144).
(DESIGN CHOICE, log entry 98) -/
def State.victim (s : State) : Option Nat :=
  ((List.range 8).filter (fun n => s.gb (Reg.DEC.CTRL.ENABLE n) && (s.dpipe n).susp.isNone &&
      decide (0 < (((s.dpipe n).job.map (fun (j : DecJob) => j.cls)).getD 0)))).foldl
    (fun (best : Option Nat) (n : Nat) =>
      let key := fun k => (((s.dpipe k).job.map (fun (j : DecJob) => (j.cls, j.startAt))).getD (0, 0))
      match best with
      | none => some n
      | some b => if (key b).1 < (key n).1 ∨ ((key b).1 = (key n).1 ∧ (key b).2 < (key n).2) then some n else some b) none

/-- The times of pipe `n` once its job has left it. -/
def State.dpipeLeft (s : State) (n : Nat) : PipeTimes :=
  let x := s.dpipe n
  match x.job with
  | some j => x.times.ended s.clock j.limit (j.cycles s.clock)
  | none => x.times

/-- A job that its context's stop abandoned leaves pipe `n` at its slice boundary (R154).
(DEDUCED, log entry 49) -/
def State.jobGone (s : State) (n : Nat) : State :=
  (s.setDpipe n { s.dpipe n with job := none, times := s.dpipeLeft n }).codecEnds

/-- The running job `j` of pipe `n` is saved to the pipe's save area, in at most 30 µs, and held there (R144). -/
def State.jobSave (s : State) (n : Nat) (j : DecJob) : State :=
  let x := s.dpipe n
  let at_ := s.clock + s.freeNs 30000
  let s := (s.setDpipe n { x with
    job := none, susp := some { j with used := j.cycles s.clock }, times := (s.dpipeLeft n).phased 3 at_ }).drawn.codecEnds
  let base := 4096 * s.g (Reg.DEC.SAVE_BASE.ADDR n)
  let s := if s.inDram base 262144 then s.storeFree base 262144 else s
  (s.inc (Reg.DEC.PREEMPTS.COUNT n)).p (Reg.DEC.CTX.STATE j.ctx) 5

/-! ### Reduced copies (R141, R142) -/

/-- The average of a 2 by 2 box. -/
def box4 (a b c d : Nat) : Nat := (a + b + c + d + 2) / 4

/-- A row of a plane at half width from two rows: an odd last column is replicated. -/
def boxPlane (w : Nat) (x y : Nat → Nat) (j : Nat) : Nat :=
  let k := min (2 * j + 1) (w - 1)
  box4 (x (2 * j)) (x k) (y (2 * j)) (y k)

/-- A row of 4:2:2 pixels at half width from two rows: luma and the two chroma planes each in their own sample grid. -/
def boxRow (w : Nat) (a b : List Sample) : List Sample :=
  let cb := (w + 1) / 2
  let cr := w / 2
  let plane := fun (r : List Sample) (f : Sample → Nat) (step off : Nat) (j : Nat) => f (r.getD (step * j + off) ⟨0, 64, 512, 0⟩)
  (List.range ((w + 1) / 2)).map (fun x =>
    let y := boxPlane w (plane a (fun v => v.c0) 1 0) (plane b (fun v => v.c0) 1 0) x
    let c := if x % 2 = 0 then boxPlane cb (plane a (fun v => v.c1) 2 0) (plane b (fun v => v.c1) 2 0) (x / 2)
      else boxPlane cr (plane a (fun v => v.c1) 2 1) (plane b (fun v => v.c1) 2 1) (x / 2)
    ⟨0, y, c, 0⟩)

/-- A picture at half size; an odd last row is replicated. -/
def boxRows (w : Nat) (rows : List (List Sample)) : List (List Sample) :=
  let h := rows.length
  (List.range ((h + 1) / 2)).map (fun j => boxRow w (rows.getD (2 * j) []) (rows.getD (min (2 * j + 1) (h - 1)) []))

/-- Whether a slot of the live page bound to entry `i` reads copy `k` (R141). -/
def State.copyRead (s : State) (i k : Nat) : Bool :=
  (List.range 64).any (fun n => (List.range 32).any (fun t =>
    match s.slotUse n t with
    | some u => u.source == i && u.rec_.reduced == k
    | none => false))

/-- Rows of pixels written into a picture by master `m`. -/
def State.writeRows (s : State) (m qos : Nat) (p : Pic) (rows : List (List Sample)) : State :=
  (List.range rows.length).foldl (fun s y => (s.writePixels m qos p 0 y (rows.getD y [])).1) s

/-- The reduced copies of buffer `b` from copy `k` on, each from the one above it; `wanted` says which are written. -/
def State.reduceFrom (s : State) (m qos b : Nat) (wanted : Nat → Bool) : Nat → Nat → List (List Sample) → State
  | 0, _, _ => s
  | fuel + 1, k, rows =>
    let up := (s.bufPic b).copy (k - 1)
    let half := boxRows up.w rows
    let s := if wanted k then s.writeRows m qos ((s.bufPic b).copy k) half else s
    s.reduceFrom m qos b wanted fuel (k + 1) half

/-- The reduced copies that a decode job of context `i` writes into buffer `b`. -/
def State.reduceBuf (s : State) (m qos i b : Nat) : State :=
  let p := s.bufPic b
  let rows := (List.range p.h).map (fun y => s.rowOfPic p y)
  let wanted := fun k => bitOf (s.g (Reg.ING.BUF.REDUCED b)) (k - 1) &&
    (bitOf (s.g (Reg.DEC.CTX.REDUCED_FORCE i)) (k - 1) || s.copyRead i k)
  s.reduceFrom m qos b wanted 3 1 rows

/-! ### The DPB and concealment (R136, R149 to R153) -/

/-- Samples in the packing of the DPB: a byte each, or three to a 32-bit word, the first lowest (R136).
(DEDUCED, log entry 49) -/
def packSamples (ten : Bool) (vs : List Nat) : List Byte :=
  if ten then ((List.range ((vs.length + 2) / 3)).map (fun g =>
    leBytes (vs.getD (3 * g) 0 + vs.getD (3 * g + 1) 0 * 2 ^ 10 + vs.getD (3 * g + 2) 0 * 2 ^ 20) 4)).flatten
  else vs.map (fun v => BitVec.ofNat 8 v)

/-- Sample `k` of packed bytes. -/
def packedSample (ten : Bool) (bs : List Byte) (k : Nat) : Nat :=
  if ten then bitsOf (leNat ((bs.drop (4 * (k / 3))).take 4)) (10 * (k % 3)) 10 else (bs.getD k 0).toNat

/-- Where sample `k` of a field of `w` by `h` stands among the samples of its frame; `k` itself for a frame. -/
def frameIndex (w h field k : Nat) : Nat :=
  let at_ := fun base width i => base + (2 * (i / width) + (field - 1)) * width + i % width
  let c := (w / 2) * (h / 2)
  if field = 0 then k
  else if k < w * h then at_ 0 w k
  else if k < w * h + c then at_ (2 * w * h) (w / 2) (k - w * h)
  else at_ (2 * w * h + 2 * c) (w / 2) (k - w * h - c)

/-- The luma position that sample `k` of a picture of `w` by `h` lies at. -/
def samplePos (w h k : Nat) : Nat × Nat :=
  if k < w * h then (k % w, k / w)
  else
    let c := (k - w * h) % ((w / 2) * (h / 2))
    (2 * (c % (w / 2)), 2 * (c / (w / 2)))

/-- Whether an area holds a luma position. -/
def areaHas (r : DecArea) (x y : Nat) : Bool :=
  decide (r.x ≤ x) && decide (x < r.x + r.w) && decide (r.y ≤ y) && decide (y < r.y + r.h)

/-- Mid-grey of sample `k` of a picture of `w` by `h`: half the range of its depth (R151). -/
def DecCtx.grey (c : DecCtx) (w h k : Nat) : Nat := 2 ^ ((if k < w * h then c.depthY else c.depthC) - 1)

/-- The address of slot `k` of context `i`, and whether its samples are packed in 10 bits. -/
def State.slotAddr (s : State) (i k : Nat) : Nat :=
  4096 * s.g (Reg.DEC.CTX.DPB_BASE i) +
    k * slotBytes (s.gb (Reg.DEC.CTX.DEPTH10 i)) (s.dctx i).codedW (s.dctx i).codedH

/-- The samples that slot `k` of context `i` holds. -/
def State.slotRead (s : State) (i k : Nat) : List Nat :=
  let ten := s.gb (Reg.DEC.CTX.DEPTH10 i)
  let n := slotSamples (s.dctx i).codedW (s.dctx i).codedH
  let bs := s.bytes (s.slotAddr i k) (packedBytes ten n)
  (List.range n).map (packedSample ten bs)

/-- Samples written into slot `k` of context `i`. -/
def State.slotWrite (s : State) (i k : Nat) (vs : List Nat) : State :=
  s.store (s.slotAddr i k) (packSamples (s.gb (Reg.DEC.CTX.DEPTH10 i)) vs)

/-- Whether a picture of the DPB holds what a picture of `field` has: its frame, or its parity. -/
def DecSlot.covers (e : DecSlot) (field : Nat) : Bool :=
  if field = 0 then e.par == 0 || e.par == 3 else e.par == 0 || e.par == 3 || e.par == field

/-- The concealment source of context `i` for a picture of `field`: the picture most recently decoded, of the same parity for a
field (R151).
(DEDUCED, log entry 49) -/
def State.concealSource (s : State) (i field : Nat) : Option DecSlot :=
  ((s.dctx i).dpb.filter (fun (e : DecSlot) => !e.gen && e.covers field)).getLast?

/-- Whether a picture of `field` in context `i` takes the lines of one field in a slot that holds a frame (R136). -/
def State.lineField (s : State) (i field : Nat) : Nat := if s.gb (Reg.DEC.CTX.CODEC i) then 0 else field

/-- The slot that a picture decoded next takes in context `i`: one that holds none, else that of the oldest.
(DEDUCED, log entry 49) -/
def DecCtx.freeSlot (c : DecCtx) : Nat :=
  ((List.range c.slots).find? (fun k => c.dpb.all (fun (e : DecSlot) => e.slot != k))).getD
    (((c.dpb.head?).map (fun (e : DecSlot) => e.slot)).getD 0)

/-- A mid-grey reference picture generated in context `i` for a number the DPB lacks (R152). -/
def State.refGenerate (s : State) (i seq : Nat) : State :=
  let c := s.dctx i
  let k := c.freeSlot
  let grey := (List.range (slotSamples c.codedW c.codedH)).map (c.grey c.codedW c.codedH)
  let s := s.slotWrite i k grey
  s.setDctx i { c with dpb := c.dpb.filter (fun (e : DecSlot) => e.slot != k) ++ [⟨[seq], k, 3, true, true⟩] }

/-- The reference pictures that the DPB of context `i` lacks, generated. -/
def State.refsGenerate (s : State) (i : Nat) (refs : List Nat) : State :=
  refs.foldl (fun s q =>
    if (s.dctx i).dpb.any (fun (e : DecSlot) => e.seqs.contains q) then s else s.refGenerate i q) s

/-- Whether job `j` ends taint, and the recovery points still ahead: an IDR or IRAP picture, and the picture recovery_frame_cnt
pictures after a recovery point SEI's; the second field of a pair counts as no picture of its own (R153).
(DEDUCED, log entry 49) -/
def DecCtx.taintEnds (c : DecCtx) (j : DecJob) : Bool × List Nat :=
  let left := if j.mate.isSome then c.recover else c.recover.map (fun k => k - 1)
  let all := left ++ j.recovery.toList
  (j.rap || all.contains 0, all.filter (fun k => k != 0))

/-- The areas of job `j`'s picture that are concealed (R151): what a record with GAP lacks, slices in syntax error, and rows not
decoded before an abort. -/
def jobAreas (e : DecEnd) (j : DecJob) (aborted : Bool) (w h : Nat) : List DecArea :=
  ((if j.gap then e.lost else []) ++ e.bad ++ (if aborted then [(⟨0, e.rows, w, h - e.rows⟩ : DecArea)] else [])).filter (fun (r : DecArea) =>
    decide (0 < r.w ∧ 0 < r.h ∧ r.x < w ∧ r.y < h))

/-- The samples of the picture of job `j`: decoded, or where an area is concealed those of the concealment source, or mid-grey
with none (R151). -/
def State.picSamples (s : State) (j : DecJob) (areas : List DecArea) (e : DecEnd) : List Nat :=
  let i := j.ctx
  let c := s.dctx i
  let w := c.codedW
  let h := s.picHeight i j.field
  let from_ := (s.concealSource i j.field).map (fun (x : DecSlot) => s.slotRead i x.slot)
  (List.range (slotSamples w h)).map (fun k =>
    if areas.any (fun (r : DecArea) => areaHas r (samplePos w h k).1 (samplePos w h k).2) then
      match from_ with
      | some vs => vs.getD (frameIndex w h (s.lineField i j.field) k) 0
      | none => c.grey w h k
    else e.samples.getD k 0 % 2 ^ (if k < w * h then c.depthY else c.depthC))

/-- The picture of job `j` written into the DPB: into a slot of its own, or beside the first field of its pair (R136). -/
def State.dpbStore (s : State) (j : DecJob) (taint : Bool) (vs : List Nat) : State :=
  let i := j.ctx
  let c := s.dctx i
  let lines := s.lineField i j.field
  let mate := if lines = 0 then none
    else j.mate.bind (fun q => c.dpb.find? (fun (e : DecSlot) => !e.gen && e.seqs.contains q))
  let k := (mate.map (fun (e : DecSlot) => e.slot)).getD c.freeSlot
  let all := if lines = 0 then vs
    else (List.range vs.length).foldl (fun f x =>
      f.set (frameIndex c.codedW (s.picHeight i j.field) lines x) (vs.getD x 0)) (s.slotRead i k)
  let new : DecSlot := match mate with
    | some e => { e with seqs := e.seqs ++ [j.seq], par := 3, taint := e.taint || taint }
    | none => ⟨[j.seq], k, j.field, taint, false⟩
  let s := s.slotWrite i k all
  s.setDctx i { c with dpb := c.dpb.filter (fun (e : DecSlot) => e.slot != k) ++ [new] }

/-- The pictures that stay in the DPB of context `i`: those that the standard keeps, and the concealment sources. -/
def State.dpbKeep (s : State) (i : Nat) (keeps : List Nat) : State :=
  let source := fun (e : DecSlot) => [0, 1, 2].any (fun f => (s.concealSource i f) == some e)
  s.setDctx i { s.dctx i with dpb := (s.dctx i).dpb.filter (fun (e : DecSlot) =>
    source e || e.seqs.any (fun q => keeps.contains q)) }

/-! ### Completion and output (R135, R138, R140, R153) -/

/-- A sample at 10 bits (R135).
(DEDUCED, log entry 49) -/
def toTen (depth v : Nat) : Nat := v * 2 ^ (10 - depth)

/-- A chroma sample of row `r` at 4:2:2 from the rows of a 4:2:0 plane of `n` rows (R135). -/
def chromaUp (n r : Nat) (plane : Nat → Nat) : Nat :=
  let j := r / 2
  let other := if r % 2 = 0 then j - 1 else min (j + 1) (n - 1)
  (3 * plane (min j (n - 1)) + plane (min other (n - 1)) + 2) / 4

/-- Row `r` of a decoded picture of coded height `h` from column `x0`, `n` pixels: YCC422_10 (R135). -/
def DecCtx.outRow (c : DecCtx) (h : Nat) (vs : List Nat) (x0 n r : Nat) : List Sample :=
  let w := c.codedW
  let q := (w / 2) * (h / 2)
  (List.range n).map (fun i =>
    let x := x0 + i
    let base := w * h + (if i % 2 = 0 then 0 else q)
    ⟨0, toTen c.depthY (vs.getD (r * w + x) 0),
      if c.mono then 512 else chromaUp (h / 2) r (fun j => toTen c.depthC (vs.getD (base + j * (w / 2) + x / 2) 0)), 0⟩)

/-- The rows of a decoded picture in buffer `b`: what `row` gives at the top left, black beyond it (R135); `keep` says which rows
a woven field leaves as they are (R137). -/
def State.picContent (s : State) (m qos b : Nat) (row : Nat → List Sample) (keep : Nat → Bool) : State :=
  let p := s.bufPic b
  (List.range p.h).foldl (fun s y =>
    if keep y then s
    else
      let vs := (row y).take p.w
      (s.writePixels m qos p 0 y (vs ++ blackRow 0 (p.w - vs.length))).1) s

/-- The row of the picture of `field` that row `y` of its `k`-th buffer shows, none where it belongs to the other field (R137). -/
def State.picRow (s : State) (i field k y : Nat) : Option Nat :=
  if field = 0 then some (if s.gb (Reg.ING.SRC.INTERLACED i) then 2 * y + k else y)
  else if s.gb (Reg.ING.SRC.INTERLACED i) then some y
  else if y % 2 = field - 1 then some (y / 2)
  else none

/-- The rows of job `j`'s picture that its crop shows, and the coded row that the first of them is. -/
def State.jobCrop (s : State) (j : DecJob) : Nat × Nat :=
  let h := s.g (Reg.DEC.CTX.SEQ_H_M1 j.ctx) + 1
  let y := (s.dctx j.ctx).cropY
  if s.lineField j.ctx j.field != 0 then ((h + 2 - j.field) / 2, y / 2) else (h, y)

/-- Whether row `y` of the `k`-th buffer of job `j`'s picture stands once the first `n` coded rows do: a row of the other field stands,
one beyond the picture with the last coded row, and a row of the picture with the chroma row below it (R135, R139). -/
def State.rowStands (s : State) (j : DecJob) (n k y : Nat) : Bool :=
  let coded := s.picHeight j.ctx j.field
  match s.picRow j.ctx j.field k y with
  | none => true
  | some r => decide (coded ≤ n) || (decide (r < (s.jobCrop j).1) && decide (r + (s.jobCrop j).2 + 3 < n))

/-- The samples of job `j` on pipe `n`, of which the first `front` coded rows stand, written into the buffers of its picture, and their
reduced copies (R135, R137, R139, R141). -/
def State.jobContent (s : State) (n : Nat) (j : DecJob) (p : DecPic) (front : Nat) (vs : List Nat) : State :=
  let i := j.ctx
  let m := 25 + n
  let qos := classQos j.cls
  let c := s.dctx i
  let w := s.g (Reg.DEC.CTX.SEQ_W_M1 i) + 1
  let crop := s.jobCrop j
  let coded := s.picHeight i j.field
  (List.range p.bufs.length).foldl (fun s k =>
    let b := p.bufs.getD k 0
    let s := s.picContent m qos b
      (fun y => match s.picRow i j.field k y with
        | some r => if r < crop.1 then c.outRow coded vs c.cropX w (r + crop.2) else []
        | none => [])
      (fun y => (s.picRow i j.field k y).isNone || !s.rowStands j front k y)
    s.reduceBuf m qos i b) s

/-- SIGNATURE of a picture as its job leaves it: over its buffer, or over the frame whose two fields its buffers hold, both of
which carry the same tag fields (R137, R140).
(DEDUCED, log entry 49) -/
def State.picSignature (s : State) (bufs : List Nat) : Nat :=
  match bufs with
  | [] => 0
  | [b] => s.signature (s.bufPic b)
  | a :: b :: _ =>
    let p := s.bufPic a
    let q := s.bufPic b
    signatureOf p.w (p.h + q.h) (fun x y =>
      if y % 2 = 0 then p.signed (s.pixel p x (y / 2)) else q.signed (s.pixel q x (y / 2)))

/-- A picture of context `i` is output (R138, R140): its buffers close, tagged with the SEQUENCE of the record whose decoding
made it ready. -/
def State.picOut (s : State) (i seq : Nat) (quiet : Bool) (p : DecPic) : State :=
  if p.bufs.isEmpty then s
  else
    let flags := captFlag p.capSrc + (if p.taint then Fl.concealed else 0) + (if p.div then Fl.divergent else 0)
    let t : Tag := { source := i, flags := flags, seq := seq, capture := p.cap, ready := s.wall, sig := p.sig }
    let s := p.bufs.foldl (fun s b => (s.closeBuf b t).filled i b) s
    let s := s.inc (Reg.DEC.CTX.PICTURES i)
    if p.taint then
      let s := s.inc (Reg.DEC.CTX.CONCEALED i)
      if quiet then s else s.raise Ev.decConceal i
    else s

/-- Pictures of context `i` leave in output order; `hush` names one whose EV_DEC_CONCEAL is raised already.
(DEDUCED, log entry 49) -/
def State.picsOut (s : State) (i seq : Nat) (hush : Option Nat) (qs : List Nat) : State :=
  qs.foldl (fun s q =>
    match (s.dctx i).pics.find? (fun (p : DecPic) => p.seq == q) with
    | none => s
    | some p =>
      let s := s.picOut i seq (hush == some q) p
      s.setDctx i { s.dctx i with pics := (s.dctx i).pics.filter (fun (x : DecPic) => x.seq != q) }) s

/-- Pictures of context `i` that are never output: their buffers return to FREE (R138). -/
def State.picsDrop (s : State) (i : Nat) (qs : List Nat) : State :=
  let gone := (s.dctx i).pics.filter (fun (p : DecPic) => qs.contains p.seq)
  let s := gone.foldl (fun s (p : DecPic) => p.bufs.foldl (fun s b => s.unclaim b) s) s
  s.setDctx i { s.dctx i with pics := (s.dctx i).pics.filter (fun (p : DecPic) => !qs.contains p.seq) }

/-- The picture of job `j`, with the taint that the job gives it and its SIGNATURE (R140, R153). -/
def State.picMark (s : State) (j : DecJob) (taint : Bool) : State :=
  s.setDctx j.ctx { s.dctx j.ctx with pics := (s.dctx j.ctx).pics.map (fun (p : DecPic) =>
    if p.seq = j.pic then { p with taint := p.taint || taint, sig := s.picSignature p.bufs } else p) }

/-- ROW_MARK of the picture of context `i` that is next in output order, all of whose rows are decoded (R139). -/
def State.rowsShown (s : State) (i : Nat) (next : Option Nat) : State :=
  match next.bind (fun q => (s.dctx i).pics.find? (fun (p : DecPic) => p.seq == q && !p.half)) with
  | none => s
  | some p => p.bufs.foldl (fun s b => s.p (Reg.ING.BUF.ROW_MARK b) (s.g (Reg.ING.BUF.HEIGHT_M1 b) + 1)) s

/-- The load of a job of context `i` in samples (R146). -/
def State.jobLoad (s : State) (i field : Nat) : Nat :=
  let m := if s.gb (Reg.DEC.CTX.CODEC i) then 8 else 16
  ceilTo m (s.dctx i).codedW * ceilTo m (s.picHeight i field) + 6500

/-- LOAD_MPIX: the load completed in the last 100 ms (R146, R155). -/
def State.decLoad (s : State) : Nat :=
  min 8191 (((s.dec.loads.filter (fun x => decide (s.clock < x.1 + 100000000))).map (fun x => x.2)).sum / 100000)

/-- A job's load counted, and PEAK_MPIX held. -/
def State.countLoad (s : State) (i field : Nat) : State :=
  let kept := s.dec.loads.filter (fun x => decide (s.clock < x.1 + 100000000))
  let s := { s with dec := { s.dec with loads := kept ++ [(s.clock, s.jobLoad i field)] } }
  s.p Reg.DEC.LOAD.PEAK_MPIX (max (s.g Reg.DEC.LOAD.PEAK_MPIX) s.decLoad)

/-- The picture of job `j` on pipe `n` as the job leaves it (R151 to R153): references generated, areas concealed, the DPB slot
and the buffers written, the taint. -/
def State.jobPicture (s : State) (n : Nat) (j : DecJob) (aborted : Bool) (e : DecEnd) : State :=
  let i := j.ctx
  let s := s.refsGenerate i e.refs
  let ends := (s.dctx i).taintEnds j
  let inherited := (s.dctx i).dpb.any (fun (x : DecSlot) => x.taint && x.seqs.any (fun q => e.refs.contains q))
  let s := s.setDctx i { s.dctx i with
    recover := ends.2
    dpb := (s.dctx i).dpb.map (fun (x : DecSlot) => if ends.1 then { x with taint := false } else x) }
  let areas := jobAreas e j aborted (s.dctx i).codedW (s.picHeight i j.field)
  let taint := aborted || !areas.isEmpty || (inherited && !ends.1)
  let vs := s.picSamples j areas e
  let s := s.dpbStore j taint vs
  let s := match (s.dctx i).pics.find? (fun (p : DecPic) => p.seq == j.pic) with
    | some p => s.jobContent n j p (s.picHeight i j.field) vs
    | none => s
  s.picMark j taint

/-- Job `j` on pipe `n` as a slice boundary finds it (R139): the rows that stand are written, and ROW_MARK of its picture shows them
where that is next in output order; of a woven pair the rows complete in both fields.
(DEDUCED, log entry 49) -/
def State.jobFront (s : State) (n : Nat) (j : DecJob) (e : DecEnd) : State :=
  let i := j.ctx
  match (s.dctx i).pics.find? (fun (p : DecPic) => p.seq == j.pic) with
  | none => s
  | some p =>
    let front := min e.rows (s.picHeight i j.field)
    let vs := s.picSamples j (jobAreas e j false (s.dctx i).codedW (s.picHeight i j.field)) e
    let s := s.jobContent n j p front vs
    if e.next = some p.seq ∧ p.half = false then
      (List.range p.bufs.length).foldl (fun s k =>
        let b := p.bufs.getD k 0
        let h := s.g (Reg.ING.BUF.HEIGHT_M1 b) + 1
        let mark := ((List.range h).find? (fun y => !s.rowStands j front k y)).getD h
        s.p (Reg.ING.BUF.ROW_MARK b) (max mark (s.g (Reg.ING.BUF.ROW_MARK b)))) s
    else s

/-- A slice boundary of the job of pipe `n`: it shows what the job has done so far (R139), and there the job of the selected pipe is
saved, and the LIVE job starts (R144). A job whose context
has stopped is abandoned at this boundary instead, and any pipe's.
(DEDUCED, log entry 49) -/
def decPreempt (n : Nat) (t : DecTurn) (s : State) : State :=
  match (s.dpipe n).job with
  | none => s
  | some j =>
    if !s.coreOn then s
    else if j.gone then s.jobGone n
    else
      let s := match t.front with
        | some e => s.jobFront n j e
        | none => s
      match s.decCandidate with
      | none => s
      | some i =>
        match s.recordBase i with
        | none => s
        | some a =>
          let r := s.recordTake i a t.au
          if r.2 && s.g (Reg.DEC.CTX.CLASS i) == 0 && s.victim == some n && (List.range 8).all (fun k => !s.pipeTakes k 0) then
            let s := r.1.jobSave n j
            s.jobStart n i a (s.dpipe n).times.till t.au
          else s

/-- The end of job `j` on pipe `n`, whether or not it aborted: its record is consumed and pictures are output. -/
def State.jobEnd (s : State) (n : Nat) (j : DecJob) (aborted : Bool) (hush : Option Nat) (e : DecEnd) : State :=
  let i := j.ctx
  let s := ((s.busTraffic (25 + n)).jobPicture n j aborted e).countLoad i j.field
  let s := (s.setDpipe n { s.dpipe n with job := none, times := s.dpipeLeft n }).codecEnds.inc (Reg.DEC.JOBS.COUNT n)
  let s := ((s.p (Reg.DEC.CTX.STATE i) 2).consumeRecord i).picsOut i j.seq hush e.outputs
  ((s.picsDrop i e.dropped).dpbKeep i e.keeps).rowsShown i e.next

/-- DECODE_JOB_DONE on pipe `n` (R130, R138, R151 to R154). -/
def decJobDone (n : Nat) (e : DecEnd) (s : State) : State :=
  match (s.dpipe n).job with
  | none => s
  | some j =>
    if !s.coreOn then s
    else if j.gone then s.jobGone n
    else (s.setDctx j.ctx { s.dctx j.ctx with aborted := 0 }).jobEnd n j false none e

/-- What an abort of the job of pipe `n` does but for the fault log (R149): the master is reset and the pipe resets itself within
20 µs, the picture is completed by concealment, the abort counted and raised; after 8 in a row the context waits for a random
access picture. A job whose context has stopped only leaves the pipe (R154). -/
def State.decAbandon (s : State) (n cause : Nat) (e : DecEnd) : State :=
  match (s.dpipe n).job with
  | none => s
  | some j =>
    let i := j.ctx
    let s := s.masterReset (25 + n)
    let x := s.dpipe n
    let s := (s.setDpipe n { x with times := x.times.phased 5 (s.clock + s.freeNs 20000) }).drawn
    if j.gone then s.jobGone n
    else
      let s := s.setDctx i { s.dctx i with aborted := (s.dctx i).aborted + 1 }
      let s := s.jobEnd n j true (some j.pic) e
      let s := (s.inc (Reg.DEC.ABORTS.COUNT n)).inc (Reg.DEC.CTX.ABORTS i)
      let s := (s.raise Ev.decFault (i + cause * 2 ^ 16)).raise Ev.decConceal i
      if 8 ≤ (s.dctx i).aborted then (s.p (Reg.DEC.CTX.STATE i) 7).setDctx i { s.dctx i with aborted := 0 } else s

/-- An abort of the job of pipe `n`, with its fault record (R149, R155).
(DEDUCED, log entry 49) -/
def State.decAbort (s : State) (n cause addr : Nat) (e : DecEnd) : State :=
  match (s.dpipe n).job with
  | none => s
  | some j => (if j.gone then s else s.decLog ⟨n, j.ctx, cause, addr, j.seq⟩).decAbandon n cause e

/-- Whether address `a` lies in the `n` bytes from `base`. -/
def within (base n a : Nat) : Bool := decide (base ≤ a) && decide (a < base + n)

/-- The sandbox of job `j` on pipe `n` (R147): whether an access at `a` lies in a window that takes it. -/
def State.decWindow (s : State) (n : Nat) (j : DecJob) (a : Nat) (write : Bool) : Bool :=
  let i := j.ctx
  let shared := within (4096 * s.g (Reg.DEC.CTX.DPB_BASE i)) (2 ^ 20 * s.g (Reg.DEC.CTX.DPB_MB i)) a ||
    within (4096 * s.g (Reg.DEC.SAVE_BASE.ADDR n)) 262144 a
  let out := ((s.dctx i).pics.filter (fun (p : DecPic) => p.seq == j.pic)).any (fun (p : DecPic) =>
    p.bufs.any (fun b => within (s.bufPic b).addr (s.bufEnd b - (s.bufPic b).addr) a))
  shared || (if write then out else within (256 * s.g (Reg.ING.SRC.BS_BASE i)) (1024 * s.g (Reg.ING.SRC.BS_SIZE_KB i)) a)

/-- DECODE_WATCHDOG on pipe `n` (R148). -/
def decWatchdog (n : Nat) (e : DecEnd) (s : State) : State :=
  match (s.dpipe n).job with
  | none => s
  | some j => if s.coreOn && decide (j.limit ≤ j.cycles s.clock) then s.decAbort n 3 0 e else s

/-- An error response from memory to an access of master `m`, of the QoS `own` of its job's class, at `a`: of the default target, or of
an uncorrectable word (R143, R317, R404). -/
def State.memError (s : State) (m own a : Nat) : State :=
  let q := s.effQos m own false
  match s.dataCheck m a 1 false with
  | some r => s.busFail (dataRecord s r m a 1 false q 0)
  | none =>
    let s := s.errLog (dataRecord s Rsn.ecc m a 1 false q 0)
    if s.inDram a 1 then s.dramUncorr a else s

/-- DECODE_ACCESS_FAULT on pipe `n` (R147, R149): an access in its window is issued, and is no violation; one outside is not
issued, and meets no error of memory. -/
def decAccessFault (n : Nat) (f : JobFault) (a : Nat) (e : DecEnd) (s : State) : State :=
  match (s.dpipe n).job with
  | none => s
  | some j =>
    if !s.coreOn then s
    else match f with
      | .sbxRead => if s.decWindow n j a false then s else s.decAbort n 1 a e
      | .sbxWrite => if s.decWindow n j a true then s else s.decAbort n 2 a e
      | .storeEcc => s.decAbort n 4 0 e
      | .busError =>
        if s.decWindow n j a false || s.decWindow n j a true then (s.memError (25 + n) (classQos j.cls) a).decAbort n 5 a e else s

/-! ### Enabling and disabling (R134, R154, R155) -/

/-- The counters of DEC.CTX[i], which a successful ENABLE of the entry clears (R155). -/
def State.decClear (s : State) (i : Nat) : State :=
  let s := ((s.p (Reg.DEC.CTX.PICTURES i) 0).p (Reg.DEC.CTX.CONCEALED i) 0).p (Reg.DEC.CTX.OUT_DROP i) 0
  ((s.p (Reg.DEC.CTX.SKIPPED i) 0).p (Reg.DEC.CTX.ABORTS i) 0).p (Reg.DEC.CTX.UNSUPPORTED i) 0

/-- The decode context of entry `i` starts with the entry. -/
def State.decStart (s : State) (i : Nat) : State := (s.setDctx i DecCtx.reset).p (Reg.DEC.CTX.STATE i) 1

/-- The decode context of entry `i` stops with the entry (R154): a job suspended is discarded, one that runs leaves its pipe at
its next slice boundary. -/
def State.decStop (s : State) (i : Nat) : State :=
  let s := (List.range 8).foldl (fun s n =>
    let x := s.dpipe n
    s.setDpipe n { x with
      job := x.job.map (fun (j : DecJob) => if j.ctx = i then { j with gone := true } else j)
      susp := x.susp.filter (fun (j : DecJob) => j.ctx != i) }) s
  (s.setDctx i DecCtx.reset).p (Reg.DEC.CTX.STATE i) 0

/-- A write of DEC[n].CTRL by master `m` (R155). -/
def decCtrlWrite (m n : Nat) (v : Word) (s : State) : State :=
  if fieldGet v 0 1 = 0 then (s.pb (Reg.DEC.CTRL.ENABLE n) false).clkRefresh
  else if s.inDram (4096 * s.g (Reg.DEC.SAVE_BASE.ADDR n)) 262144 then (s.pb (Reg.DEC.CTRL.ENABLE n) true).clkRefresh
  else ((s.pb (Reg.DEC.CTRL.ENABLE n) false).clkRefresh).logIgnored m (Reg.DEC.CTRL.ENABLE n).addr v

/-- A write of DEC[n].SAVE_BASE by master `m`, ignored and logged while the pipe is enabled (R155). -/
def saveBaseWrite (m n : Nat) (v : Word) (s : State) : State :=
  if s.gb (Reg.DEC.CTRL.ENABLE n) then s.logIgnored m (Reg.DEC.SAVE_BASE.ADDR n).addr v
  else s.writeFields m (Reg.DEC.SAVE_BASE.ADDR n).addr v 0

/-- A write of DEC.LOAD: PEAK_CLR clears PEAK_MPIX, which is from then on the highest LOAD_MPIX, the present one first (R155). -/
def decLoadWrite (v : Word) (s : State) : State :=
  if fieldGet v 31 1 = 1 then s.p Reg.DEC.LOAD.PEAK_MPIX s.decLoad else s

/-! ### What the registers show (R155) -/

/-- The word DEC[n].STATUS. -/
def State.decStatusWord (s : State) (n : Nat) : Word :=
  let x := s.dpipe n
  let phase := if x.times.inPhase s.clock then x.times.phase
    else if x.job.isSome then 2
    else if s.gb (Reg.DEC.CTRL.ENABLE n) || x.susp.isSome then 1
    else 0
  match x.job with
  | some j => BitVec.ofNat 32 (j.ctx * 2 ^ 16 + j.cls * 2 ^ 4 + phase)
  | none => BitVec.ofNat 32 phase

/-- The word DEC[n].BUSY. -/
def State.decBusyWord (s : State) (n : Nat) : Word :=
  BitVec.ofNat 32 ((s.dpipe n).times.pct (s.dpipe n).job.isSome s.clock)

/-- The word DEC[n].SUSPENDED. -/
def State.decSuspWord (s : State) (n : Nat) : Word :=
  match (s.dpipe n).susp with
  | some j => BitVec.ofNat 32 (2 ^ 31 + j.cls * 2 ^ 12 + j.ctx)
  | none => 0

/-- The words WD_LIMIT and WD_COUNT of DEC[n]; without a job they stand as the last one left them (R27).
(DESIGN CHOICE, log entry 98) -/
def State.wdLimitWord (s : State) (n : Nat) : Word :=
  BitVec.ofNat 32 (((s.dpipe n).job.map (fun (j : DecJob) => j.limit)).getD (s.dpipe n).times.limit)
def State.wdCountWord (s : State) (n : Nat) : Word :=
  BitVec.ofNat 32 (((s.dpipe n).job.map (fun (j : DecJob) => j.cycles s.clock)).getD (s.dpipe n).times.count)

/-- The words SCHED_READY and SCHED_READY2. -/
def State.schedReadyWord (s : State) : Word := BitVec.ofNat 32 (s.readyCount 1 * 2 ^ 16 + s.readyCount 0)
def State.schedReady2Word (s : State) : Word :=
  let n := ((List.range 8).filter (fun k => (s.dpipe k).susp.isSome)).length
  BitVec.ofNat 32 (n * 2 ^ 16 + s.readyCount 2)

/-- The word DEC.LOAD. -/
def State.decLoadWord (s : State) : Word := BitVec.ofNat 32 (s.g Reg.DEC.LOAD.PEAK_MPIX * 2 ^ 16 + s.decLoad)

/-- The word DEC.FAULT_STATUS. -/
def State.decFaultWord (s : State) : Word :=
  BitVec.ofNat 32 ((s.gb Reg.DEC.FAULT_STATUS.OVF).toNat * 2 ^ 31 + s.dec.faults.length)

/-- The first word of DEC.CTX[i]: a context that is IDLE and has a record reads READY. -/
def State.decCtxWord (s : State) (i : Nat) : Word :=
  let w := s.reg (Reg.DEC.CTX.STATE i).addr
  if s.g (Reg.DEC.CTX.STATE i) = 2 ∧ s.decReady i = true then fieldSet w 8 3 3 else w

/-! ### The commands -/

/-- DECODE_DISPATCH (R143): what the record taken next holds. -/
def execDecodeDispatch (dt : Nat) (n : Fin 8) (au : AuFacts) (s : State) : Out State :=
  .next (decDispatch n.val au (s.advance dt))

/-- DECODE_PREEMPT (R144): what the job has done so far, and what the record taken next holds. -/
def execDecodePreempt (dt : Nat) (n : Fin 8) (t : DecTurn) (s : State) : Out State :=
  .next (decPreempt n.val t (s.advance dt))

/-- DECODE_JOB_DONE (R130): what the job did. -/
def execDecodeJobDone (dt : Nat) (n : Fin 8) (e : DecEnd) (s : State) : Out State :=
  .next (decJobDone n.val e (s.advance dt))

/-- DECODE_WATCHDOG (R148): what the job had done. -/
def execDecodeWatchdog (dt : Nat) (n : Fin 8) (e : DecEnd) (s : State) : Out State :=
  .next (decWatchdog n.val e (s.advance dt))

/-- DECODE_ACCESS_FAULT (R147): the cause, the address, what the job had done. -/
def execDecodeAccessFault (dt : Nat) (n : Fin 8) (f : JobFault) (a : BitVec 36) (e : DecEnd) (s : State) : Out State :=
  .next (decAccessFault n.val f a.toNat e (s.advance dt))

/-- DEC_PIPE_ENABLE (R155). -/
def execDecPipeEnable (dt : Nat) (m : Master) (n : Fin 8) (s : State) : Out State :=
  .next ((s.advance dt).ctlWrite m.val (Reg.DEC.CTRL.ENABLE n.val).addr 1 (decCtrlWrite m.val n.val 1))

/-- DEC_PIPE_DISABLE (R155). -/
def execDecPipeDisable (dt : Nat) (m : Master) (n : Fin 8) (s : State) : Out State :=
  .next ((s.advance dt).ctlWrite m.val (Reg.DEC.CTRL.ENABLE n.val).addr 0 (decCtrlWrite m.val n.val 0))

/-- DEC_FAULT_READ (R155). -/
def execDecFaultRead (dt : Nat) (m : Master) (s : State) : Out State :=
  let s := s.advance dt
  .next (s.ctlRead m.val 0x10208014 (decFaultRead m.val s))

/-- DEC_PEAK_CLEAR (R146). -/
def execDecPeakClear (dt : Nat) (m : Master) (s : State) : Out State :=
  .next ((s.advance dt).ctlWrite m.val 0x10208008 0x80000000 (decLoadWrite 0x80000000))

end Sys2Proof.Machine
end

