-- ==== Sys2Proof/Machine/Transfer.lean ====
section
/-! DEFINITION. The transfer functions of image pipe stage 10 (R168), as the standards that it names give them. A root or a logarithm is
given to 64 binary digits. -/

namespace Sys2Proof.Machine

/-- The greatest `r` that agrees with `acc` above its lowest `n` bits and whose `q`-th power times `den` is at most `num`. -/
def rootBits (q num den : Nat) : Nat → Nat → Nat
  | 0, acc => acc
  | n + 1, acc => rootBits q num den n (if (acc + 2 ^ n) ^ q * den ≤ num then acc + 2 ^ n else acc)

/-- x^(p/q) of a number from 0 to 2, rounded down to a multiple of 2^-64. -/
def ratPower (p q : Nat) (x : Rat) : Rat :=
  (rootBits q (x.num.toNat ^ p * 2 ^ (64 * q)) (x.den ^ p) 66 0 : Rat) / 2 ^ 64

/-- The first `n` binary digits of the logarithm to base 2 of a number from 1 to 2, in units of 2^-192, after the digits `acc`. -/
def logBits : Nat → Nat → Nat → Nat
  | 0, _, acc => acc
  | n + 1, x, acc =>
    let y := x * x / 2 ^ 192
    if 2 ^ 193 ≤ y then logBits n (y / 2) (2 * acc + 1) else logBits n y (2 * acc)

/-- The natural logarithm of a number from 1/2 up to 32. -/
def ratLog (x : Rat) : Rat :=
  let n := (x * 2 ^ 192).floor.toNat
  let e := ((List.range 6).filter (fun k => decide (2 ^ (191 + k) ≤ n))).length
  let frac := (logBits 64 (n * 2 ^ 192 / 2 ^ (190 + e)) 0 : Rat) / 2 ^ 64
  ((e : Rat) - 2 + frac) * 693147180559945309417232121458 / 10 ^ 30

/-- A transfer function of R168 at its code, of a linear value from 0 to 1: 0 LINEAR, 1 BT.709 OETF, 2 sRGB, 3 PQ of SMPTE ST 2084,
4 HLG of BT.2100.
(PRESUMED, log entry 28) -/
def transferOf (tf : Nat) (l : Rat) : Rat :=
  if tf = 1 then (if l < 18 / 1000 then 45 / 10 * l else 1099 / 1000 * ratPower 9 20 l - 99 / 1000)
  else if tf = 2 then (if l ≤ 31308 / 10 ^ 7 then 1292 / 100 * l else 1055 / 1000 * ratPower 5 12 l - 55 / 1000)
  else if tf = 3 then
    let t := ratPower 1305 8192 l
    ratPower 2523 32 ((3424 / 4096 + 2413 / 128 * t) / (1 + 2392 / 128 * t))
  else if tf = 4 then
    (if l ≤ 1 / 12 then ratPower 1 2 (3 * l) else 17883277 / 10 ^ 8 * ratLog (12 * l - 28466892 / 10 ^ 8) + 55991073 / 10 ^ 8)
  else l

end Sys2Proof.Machine
end

