-- ==== Sys2Proof/Machine/Stages.lean ====
section
/-! DEFINITION. The stages of an image pipe, from the samples of a port to the display picture (R168 to R173). -/

namespace Sys2Proof.Machine

/-- Capture port `p` beyond its registers. -/
def State.cport (s : State) (p : Nat) : CapPort := Tab.get CapPort.reset p s.cap.ports
def State.setCport (s : State) (p : Nat) (x : CapPort) : State :=
  { s with cap := { s.cap with ports := Tab.put CapPort.reset p x s.cap.ports } }

/-- Context `c` of image pipe `j` beyond its registers. -/
def State.ictx (s : State) (j c : Nat) : IspCtx := Tab.get IspCtx.reset (4 * j + c) s.cap.ctxs
def State.setIctx (s : State) (j c : Nat) (x : IspCtx) : State :=
  { s with cap := { s.cap with ctxs := Tab.put IspCtx.reset (4 * j + c) x s.cap.ctxs } }

/-- A field of the active parameter set of a context (R180). -/
def State.act (s : State) (j c : Nat) (f : FRef) : Nat := fieldGet (Tab.get 0 f.addr (s.ictx j c).active) f.lo f.width

/-- Whether a one-bit field of the active set is 1. -/
def State.actb (s : State) (j c : Nat) (f : FRef) : Bool := s.act j c f != 0

/-! ### Results at 20 bits (R168) -/

/-- Draw `t` of pixel `x` in a row whose draws begin at `k`: 64 for each pixel. -/
def pixDraw (k x t : Nat) : Nat := k + 64 * x + t

/-- A sample of a free value. -/
def freeSample (k : Nat) : Nat := Config.freeNat k % 2 ^ 20

/-- A stage result clipped to 20 bits; where it is no whole number, one of the two beside it, since the spec gives no rounding.
(DESIGN CHOICE, log entry 30) -/
def stageRound (k : Nat) (q : Rat) : Nat :=
  min 0xFFFFF (q.floor + ((if q.den = 1 then 0 else (Config.freeBool k).toNat : Nat) : Int)).toNat

/-! ### Stages 1 to 3 of RAW modes -/

/-- The Bayer position of a sample: row 0 column 0, row 0 column 1, row 1 column 0, row 1 column 1. -/
def bayerPos (x y : Nat) : Nat := 2 * (y % 2) + x % 2

/-- The colour at a Bayer position (R168): 0 red, 1 green, 2 blue. -/
def bayerColour (phase x y : Nat) : Nat :=
  match (if phase % 2 = 1 then x + 1 else x) % 2, (if 2 ≤ phase then y + 1 else y) % 2 with
  | 0, 0 => 0
  | 1, 1 => 2
  | _, _ => 1

/-- A RAW sample at column `x`, row `y` after stage 1 (R168). -/
def State.blackLevel (s : State) (j c x y v : Nat) : Nat :=
  let bl := match y % 2, x % 2 with
    | 0, 0 => s.act j c (Reg.ISP.CTX.BL0 j c)
    | 0, _ => s.act j c (Reg.ISP.CTX.BL1 j c)
    | _, 0 => s.act j c (Reg.ISP.CTX.BL2 j c)
    | _, _ => s.act j c (Reg.ISP.CTX.BL3 j c)
  v - 16 * bl

/-- The address of a table of the active table set (R171). -/
def State.tableAt (s : State) (j c off : Nat) : Nat := 4096 * s.act j c (Reg.ISP.CTX.TABLE_BASE j c) + off

/-- Entries of a defect list, as x and y, up to the first out of order (R171). -/
def ascendingHead : List (Nat × Nat) → List (Nat × Nat)
  | [] => []
  | [a] => [a]
  | a :: b :: rest => if a.2 < b.2 ∨ (a.2 = b.2 ∧ a.1 ≤ b.1) then a :: ascendingHead (b :: rest) else [a]

/-- The static defects of a context (R168, R171). -/
def State.defects (s : State) (j c : Nat) : List (Nat × Nat) :=
  ascendingHead ((List.range (s.act j c (Reg.ISP.CTX.DPC_COUNT j c))).map (fun k =>
    let v := s.le (s.tableAt j c (0x6400 + 4 * k)) 4
    (bitsOf v 0 13, bitsOf v 16 13)))

/-- The 8 same-colour neighbours of a sample in its 5 × 5 window; none where the window leaves the picture. -/
def neighbours (w h : Nat) (at_ : Nat → Nat → Nat) (x y : Nat) : Option (List Nat) :=
  if 2 ≤ x ∧ x + 2 < w ∧ 2 ≤ y ∧ y + 2 < h then
    some [at_ (x - 2) (y - 2), at_ x (y - 2), at_ (x + 2) (y - 2), at_ (x - 2) y, at_ (x + 2) y, at_ (x - 2) (y + 2),
      at_ x (y + 2), at_ (x + 2) (y + 2)]
  else none

/-- The median of 8 values: the mean of the two in the middle.
(DESIGN CHOICE, log entry 30) -/
def median8 (vs : List Nat) : Rat :=
  let t := vs.insertionSort (fun a b => a ≤ b)
  ((t.getD 3 0 + t.getD 4 0 : Nat) : Rat) / 2

/-- A sample after stage 2, drawn at `k`: a listed defect, or one that stands out of its neighbours by more than `thr`, takes
their median. The spec states no neighbours where the window leaves the picture: a value that depends on them is free.
(DESIGN CHOICE, log entry 30) -/
def stage2 (k : Nat) (listed : Bool) (thr : Option Nat) (ns : Option (List Nat)) (v : Nat) : Nat :=
  match ns with
  | none => if listed || thr.isSome then freeSample k else v
  | some ns =>
    let out := match thr with
      | none => false
      | some t => ns.all (fun n => decide (n + t < v)) || ns.all (fun n => decide (v + t < n))
    if listed || out then stageRound k (median8 ns) else v

/-- The gain of lens shading at (x, y), in units of 2^-12: bilinear between the nodes about it (R168, R171). -/
def State.lensGain (s : State) (j c w h x y : Nat) : Rat :=
  let node := fun (a b : Nat) => ((s.le (s.tableAt j c (8 * (33 * b + a) + 2 * bayerPos x y)) 2 : Nat) : Rat)
  let u : Rat := 32 * (x : Rat) / ((w - 1 : Nat) : Rat)
  let v : Rat := 32 * (y : Rat) / ((h - 1 : Nat) : Rat)
  let a := min 31 u.floor.toNat
  let b := min 31 v.floor.toNat
  let fu := u - a
  let fv := v - b
  (node a b * (1 - fu) + node (a + 1) b * fu) * (1 - fv) + (node a (b + 1) * (1 - fu) + node (a + 1) (b + 1) * fu) * fv

/-- Row `y` of a RAW frame after stage 3, from the rows of the port: black level, defects, lens shading. -/
def State.rawRow (s : State) (j c w h k : Nat) (rows : List CapRow) (y : Nat) : List Nat :=
  let first := fun (x y : Nat) => s.blackLevel j c x y ((rows.getD y ⟨[], []⟩).ys.getD x 0)
  let listed := (s.defects j c).filter (fun d => d.2 == y)
  let thr := if s.actb j c (Reg.ISP.CTX.DYN_EN j c) then some (4096 * s.act j c (Reg.ISP.CTX.DYN_THR j c)) else none
  (List.range w).map (fun x =>
    let v := stage2 (pixDraw k x 0) (listed.any (fun d => d.1 == x)) thr (neighbours w h first x y) (first x y)
    if s.actb j c (Reg.ISP.CTX.LSC_EN j c) then stageRound (pixDraw k x 1) ((v : Rat) * s.lensGain j c w h x y / 4096) else v)

/-- Rows by which stage 2 trails the input. -/
def State.rowLag (s : State) (j c : Nat) (bt : Bool) : Nat :=
  if !bt && (s.act j c (Reg.ISP.CTX.DPC_COUNT j c) != 0 || s.actb j c (Reg.ISP.CTX.DYN_EN j c)) then 2 else 0

/-! ### Stages 4 and 5 -/

/-- A sample after stage 4, whose filter the spec does not give: unchanged where it is off.
(DESIGN CHOICE, log entry 30) -/
def State.stage4 (s : State) (j c k v : Nat) : Nat :=
  if s.act j c (Reg.ISP.CTX.SNR_STRENGTH j c) = 0 then v else freeSample k

/-- The share of the previous frame in stage 5, from how far the two samples differ (R168). -/
def tnrShare (kMax lo hi diff : Nat) : Rat :=
  if diff ≤ 4096 * lo then (kMax : Rat) / 16
  else if 4096 * hi ≤ diff then 0
  else (kMax : Rat) / 16 * ((4096 * hi - diff : Nat) : Rat) / ((4096 * hi - 4096 * lo : Nat) : Rat)

/-- A sample after stage 5, from its 16-bit reference. -/
def State.stage5 (s : State) (j c k : Nat) (cur ref : Nat) : Nat :=
  let prev := 16 * ref
  let share := tnrShare (s.act j c (Reg.ISP.CTX.K_MAX j c)) (s.act j c (Reg.ISP.CTX.THR_LO j c))
    (s.act j c (Reg.ISP.CTX.THR_HI j c)) (max cur prev - min cur prev)
  stageRound k ((cur : Rat) + share * ((prev : Rat) - cur))

/-- The reference word of a stage 5 result: bits [19:4], rounded (R169). -/
def tnrWord (v : Nat) : Nat := min 0xFFFF ((v + 8) / 16)

/-! ### Stages 6 to 11 -/

/-- Three channels: R, G, B, or Y', Cb, Cr. -/
abbrev Tri : Type := Nat × Nat × Nat

/-- A RAW sample's pixel after stage 6: its own colour stands, and the two interpolated ones are free values, whose edge
directions the spec does not give.
(DESIGN CHOICE, log entry 30) -/
def demosaic (phase k x y v : Nat) : Tri :=
  let a := freeSample (pixDraw k x 4)
  let b := freeSample (pixDraw k x 5)
  match bayerColour phase x y with
  | 0 => (v, a, b)
  | 1 => (a, v, b)
  | _ => (a, b, v)

/-- A pixel after stages 7 and 8: white balance, then the colour matrix. -/
def State.stage78 (s : State) (j c k x : Nat) (p : Tri) : Tri :=
  let wb := fun (t g v : Nat) => stageRound (pixDraw k x t) ((v * g : Nat) / 4096 : Rat)
  let r := wb 6 (s.act j c (Reg.ISP.CTX.WB_R j c)) p.1
  let g := wb 7 (s.act j c (Reg.ISP.CTX.WB_G j c)) p.2.1
  let b := wb 8 (s.act j c (Reg.ISP.CTX.WB_B j c)) p.2.2
  let co := fun (f : FRef) => signed 16 (s.act j c f)
  let row := fun (t : Nat) (u v w : FRef) =>
    stageRound (pixDraw k x t) (((co u * r + co v * g + co w * b : Int) : Rat) / 4096)
  (row 9 (Reg.ISP.CTX.CCM0 j c) (Reg.ISP.CTX.CCM1 j c) (Reg.ISP.CTX.CCM2 j c),
    row 10 (Reg.ISP.CTX.CCM3 j c) (Reg.ISP.CTX.CCM4 j c) (Reg.ISP.CTX.CCM5 j c),
    row 11 (Reg.ISP.CTX.CCM6 j c) (Reg.ISP.CTX.CCM7 j c) (Reg.ISP.CTX.CCM8 j c))

/-- What a curve of 1,024 points at `a` gives for an input: linear between points, the last point beyond it (R170). -/
def State.curve (s : State) (a v : Nat) : Rat :=
  let pt := fun (j : Nat) => ((s.le (a + 4 * j) 4 % 2 ^ 20 : Nat) : Rat)
  let j := v / 1024
  if 1047552 < v then pt 1023 else pt j + (pt (j + 1) - pt j) * ((v % 1024 : Nat) : Rat) / 1024

/-- A pixel after stage 9: the tone curves, then the global tone map (R168, R170). -/
def State.tone (s : State) (j c k x : Nat) (p : Tri) : Tri :=
  let p := if s.actb j c (Reg.ISP.CTX.TONE_EN j c) then
      let one := fun (t n v : Nat) => stageRound (pixDraw k x t) (s.curve (s.tableAt j c (0x2400 + 0x1000 * n)) v)
      (one 12 0 p.1, one 13 1 p.2.1, one 14 2 p.2.2)
    else p
  let m := max p.1 (max p.2.1 p.2.2)
  if s.actb j c (Reg.ISP.CTX.GTM_EN j c) && m != 0 then
    let g := s.curve (s.tableAt j c 0x5400) m / m
    let one := fun (t v : Nat) => stageRound (pixDraw k x t) ((v : Rat) * g)
    (one 15 p.1, one 16 p.2.1, one 17 p.2.2)
  else p

/-- A sample after stage 10, drawn at `k`: the transfer function of TF, 0xFFFFF being nominal peak. -/
def State.stage10 (s : State) (j c k v : Nat) : Nat :=
  stageRound k (0xFFFFF * transferOf (s.act j c (Reg.ISP.CTX.TF j c)) ((v : Rat) / 0xFFFFF))

/-- The luma weights of red and blue of a matrix: 0 BT.709, 1 BT.2020, 2 BT.601.
(PRESUMED, log entry 28) -/
def lumaWeights (csc : Nat) : Rat × Rat :=
  if csc = 0 then (2126 / 10000, 722 / 10000)
  else if csc = 1 then (2627 / 10000, 593 / 10000)
  else (299 / 1000, 114 / 1000)

/-- Scale and offset of luma and of chroma at 20 bits: narrow range as its 10-bit codes, full range over all codes.
(PRESUMED, log entry 28) -/
def yccScale (full : Bool) : (Rat × Rat) × (Rat × Rat) :=
  if full then ((0xFFFFF, 0), (0xFFFFF, 0x80000)) else ((876 * 1024, 64 * 1024), (896 * 1024, 512 * 1024))

/-- R, G, B at 0 to 1 converted to a matrix and range, exactly. -/
def ispYcc (csc : Nat) (full : Bool) (r g b : Rat) : Rat × Rat × Rat :=
  let k := lumaWeights csc
  let y := k.1 * r + (1 - k.1 - k.2) * g + k.2 * b
  let sc := yccScale full
  (y * sc.1.1 + sc.1.2, (b - y) / (2 * (1 - k.2)) * sc.2.1 + sc.2.2, (r - y) / (2 * (1 - k.1)) * sc.2.1 + sc.2.2)

/-- Y', Cb, Cr of a matrix and range converted to R, G, B at 0 to 1, exactly. -/
def ispRgb (csc : Nat) (full : Bool) (p : Tri) : Rat × Rat × Rat :=
  let k := lumaWeights csc
  let sc := yccScale full
  let y := ((p.1 : Rat) - sc.1.2) / sc.1.1
  let b := y + 2 * (1 - k.2) * (((p.2.1 : Rat) - sc.2.2) / sc.2.1)
  let r := y + 2 * (1 - k.1) * (((p.2.2 : Rat) - sc.2.2) / sc.2.1)
  (r, (y - k.1 * r - k.2 * b) / (1 - k.1 - k.2), b)

/-- A pixel after stage 11 (R168): R, G, B, or in BT modes Y', Cb, Cr of CSC_IN, converted; BYPASS leaves it.
(PRESUMED, log entry 28) -/
def State.convert (s : State) (j c : Nat) (bt : Bool) (k x : Nat) (p : Tri) : Tri :=
  let csc := s.act j c (Reg.ISP.CTX.CSC j c)
  let full := s.actb j c (Reg.ISP.CTX.RANGE j c)
  if csc = 3 then p
  else
    let rgb := if bt then ispRgb (s.act j c (Reg.ISP.CTX.CSC_IN j c)) full p
      else ((p.1 : Rat) / 0xFFFFF, (p.2.1 : Rat) / 0xFFFFF, (p.2.2 : Rat) / 0xFFFFF)
    let q := ispYcc csc full rgb.1 rgb.2.1 rgb.2.2
    (stageRound (pixDraw k x 18) q.1, stageRound (pixDraw k x 19) q.2.1, stageRound (pixDraw k x 20) q.2.2)

/-- A RAW row after stage 5 taken through stages 6 to 11: what stage 10 and stage 11 give. -/
def State.rawPixels (s : State) (j c k y : Nat) (vs : List Nat) : List (Tri × Tri) :=
  let phase := s.act j c (Reg.ISP.CTX.BAYER_PHASE j c)
  (List.range vs.length).map (fun x =>
    let p := s.tone j c k x (s.stage78 j c k x (demosaic phase k x y (vs.getD x 0)))
    let one := fun (t v : Nat) => s.stage10 j c (pixDraw k x t) v
    let q := (one 25 p.1, one 26 p.2.1, one 27 p.2.2)
    (q, s.convert j c false k x q))

/-- Chroma of one kind at column `x` of a 4:2:2 row, `o` 0 for Cb and 1 for Cr, brought to 4:4:4 by linear interpolation; the
last sample stands beyond the edge. -/
def chroma444 (k : Nat) (cs : List Nat) (o x : Nat) : Nat :=
  let n := (cs.length + 1 - o) / 2
  let at_ := fun (i : Nat) => cs.getD (2 * min i (n - 1) + o) 0
  if x % 2 = 0 then at_ (x / 2) else stageRound (pixDraw k x (23 + o)) (((at_ (x / 2) + at_ (x / 2 + 1) : Nat) : Rat) / 2)

/-- A BT row after stage 5 taken through stages 9 to 11: what stage 10, LINEAR there (R172), and stage 11 give. -/
def State.btPixels (s : State) (j c k : Nat) (ys cs : List Nat) : List (Tri × Tri) :=
  (List.range ys.length).map (fun x =>
    let p := s.tone j c k x (ys.getD x 0, chroma444 k cs 0 x, chroma444 k cs 1 x)
    (p, s.convert j c true k x p))

/-- The display picture of a row: luma and co-sited chroma filtered [1 2 1] / 4, rounded to 10 bits (R173).
(DESIGN CHOICE, log entry 98) -/
def displayRow (px : List Tri) : List Sample :=
  let at_ := fun (x : Nat) => px.getD (min x (px.length - 1)) (0, 0, 0)
  let filt := fun (f : Tri → Nat) (x : Nat) => min 1023 ((f (at_ (x - 1)) + 2 * f (at_ x) + f (at_ (x + 1)) + 2048) / 4096)
  (List.range px.length).map (fun x =>
    ⟨0, min 1023 (((at_ x).1 + 512) / 1024),
      if x % 2 = 0 then filt (fun p => p.2.1) x else filt (fun p => p.2.2) (x - 1), 0⟩)

/-! ### The coding and machine-vision pictures (R173, R174) -/

/-- The integer position and the phase of 32 of a position in units of 2^-20. -/
def splitPos32 (p : Int) : Int × Nat :=
  let ph := ((p % 2 ^ 20) * 32 + 2 ^ 19) / 2 ^ 20
  if ph = 32 then (p / 2 ^ 20 + 1, 0) else (p / 2 ^ 20, ph.toNat)

/-- A line of `n` samples of 20 bits scaled down to `m`, at position `x`: 4 taps, 32 phases, a fixed coefficient set of the ratio that
the spec does not give, on the grid of R190; a line scaled to its own size stands.
(DESIGN CHOICE, log entry 30) -/
def scale4 (n m : Nat) (f : Nat → Nat) (x : Nat) : Nat :=
  if n = m then f x
  else
    let step : Int := ((n * 2 ^ 20 / m : Nat) : Int)
    let q := splitPos32 (((2 * (x : Int) + 1) * step) / 2 - 2 ^ 19)
    let z := tapSum 4 (fun t => Config.ispCoef n m q.2 t * ((f (clampIdx n (q.1 - 1 + (t : Int))) : Nat) : Int))
    (clampInt 0 0xFFFFF ((z + 512) / 1024)).toNat

/-- A plane of `w` by `h` samples of 20 bits scaled to `ow` by `oh`: rows first, then columns.
(DESIGN CHOICE, log entry 30) -/
def scaleBy4 (w h ow oh : Nat) (f : Nat → Nat → Nat) (x y : Nat) : Nat :=
  scale4 w ow (fun x => scale4 h oh (fun y => f x y) y) x

/-- A sum of `n` samples of 20 bits rounded to the mean at `b` bits.
(DESIGN CHOICE, log entry 30) -/
def roundDepth (b n v : Nat) : Nat := min (2 ^ b - 1) ((v + n * 2 ^ (19 - b)) / (n * 2 ^ (20 - b)))

/-- The samples of a kept picture: channel `k` of its pixel (x, y). -/
def pictureAt (rows : List (List Tri)) (k x y : Nat) : Nat :=
  let p := (rows.getD y []).getD x (0, 0, 0)
  if k = 0 then p.1 else if k = 1 then p.2.1 else p.2.2

/-- The rows of a coding picture of `ow` by `oh` in the buffer picture `p`, as address and bytes, from a picture of `w` columns after
stage 11: luma, then Cb and Cr interleaved, each the 2 by 2 box average of the scaled 4:4:4 chroma, whose last column and row stand
beyond the edge (R173, R174).
(DESIGN CHOICE, log entry 30) -/
def codeRows (p : Pic) (w ow oh : Nat) (rows : List (List Tri)) : List (Nat × List Byte) :=
  let b := if p.fmt = 5 then 10 else 8
  let out := fun (v : Nat) => if p.fmt = 5 then leBytes (64 * v) 2 else leBytes v 1
  let plane := fun (k : Nat) => scaleBy4 w rows.length ow oh (pictureAt rows k)
  let box := fun (k x y : Nat) =>
    let at_ := fun (x y : Nat) => plane k (min x (ow - 1)) (min y (oh - 1))
    roundDepth b 4 (at_ (2 * x) (2 * y) + at_ (2 * x + 1) (2 * y) + at_ (2 * x) (2 * y + 1) + at_ (2 * x + 1) (2 * y + 1))
  let step := ceilTo 256 (p.pitch * oh)
  (List.range oh).map (fun y =>
      (p.addr + y * p.pitch, ((List.range ow).map (fun x => out (roundDepth b 1 (plane 0 x y)))).flatten)) ++
    (List.range ((oh + 1) / 2)).map (fun y =>
      (p.addr + step + y * p.pitch,
        ((List.range ((ow + 1) / 2)).map (fun x => out (box 1 x y) ++ out (box 2 x y))).flatten))

/-- The rows of a machine-vision picture of `ow` by `oh`: the luma of the picture after stage 11, and in PLANAR_RGB8 the R, G and B of
that after stage 10 (R173, R174). -/
def mvRows (p : Pic) (w ow oh : Nat) (linear rows : List (List Tri)) : List (Nat × List Byte) :=
  let step := ceilTo 256 (p.pitch * oh)
  let plane := fun (n k : Nat) (rows : List (List Tri)) =>
    (List.range oh).map (fun y =>
      (p.addr + n * step + y * p.pitch, (List.range ow).map (fun x =>
        BitVec.ofNat 8 (roundDepth 8 1 (scaleBy4 w rows.length ow oh (pictureAt rows k) x y)))))
  plane 0 0 rows ++ (if p.fmt = 7 then plane 1 0 linear ++ plane 2 1 linear ++ plane 3 2 linear else [])

end Sys2Proof.Machine
end

