-- ==== Sys2Proof/Machine/Capture.lean ====
section
/-! DEFINITION. The capture ports and the image pipes: frames, rows, the input stores, processing, closing, statistics,
contexts and their shadow sets (R156 to R184). -/

namespace Sys2Proof.Machine

/-- The addresses of the words that hold parameters of a context. -/
def ctxWords (j c : Nat) : List Nat :=
  (List.range 26).map (fun k => 0x10380200 + 0x10000 * j + 0x100 * c + 4 * k)

/-! ### Sizes and modes (R156, R158) -/

/-- The size of port `p`. -/
def State.capW (s : State) (p : Nat) : Nat := s.g (Reg.CAP.WIDTH_M1 p) + 1
def State.capH (s : State) (p : Nat) : Nat := s.g (Reg.CAP.HEIGHT_M1 p) + 1

/-- Whether port `p` is in a BT mode. -/
def State.capBt (s : State) (p : Nat) : Bool := decide (6 ≤ s.g (Reg.CAP.MODE p))

/-- Bits of a RAW sample. -/
def rawBits (mode : Nat) : Nat :=
  match mode with
  | 0 => 8
  | 1 => 10
  | 2 => 12
  | 3 => 14
  | 4 => 16
  | _ => 20

/-- A sample as the port passes it on (R156): RAW shifted left to 20 bits, BT at 10 bits. -/
def State.capSample (s : State) (p v : Nat) : Nat :=
  let mode := s.g (Reg.CAP.MODE p)
  if mode ≤ 5 then v % 2 ^ rawBits mode * 2 ^ (20 - rawBits mode)
  else if mode = 7 then v % 256 * 4
  else v % 1024

/-- The enabled context that takes capture port `p`, as pipe and context. -/
def State.ctxOf (s : State) (p : Nat) : Option (Nat × Nat) :=
  ((List.range 16).find? (fun k =>
    s.gb (Reg.ISP.CTX.ENABLE (k / 4) (k % 4)) && s.g (Reg.ISP.CTX.PORT (k / 4) (k % 4)) == p)).map
      (fun k => (k / 4, k % 4))

/-- The enabled CAPTURE entry that names context `c` of pipe `j`. -/
def State.capEntry (s : State) (j c : Nat) : Option Nat :=
  (List.range 512).find? (fun i =>
    s.gb (Reg.ING.SRC.ENABLE i) && s.g (Reg.ING.SRC.TYPE i) == 5 && s.g (Reg.ING.SRC.PORT_A i) == j + 4 * c)

/-! ### Embedded sync (R157, R160) -/

/-- F, V and H of an XY word of port `p`, whose bits [9:2] are those of a word of 8 bits. -/
def State.xyBits (s : State) (p v : Nat) : Nat := if s.g (Reg.CAP.MODE p) = 7 then v % 256 else v / 4 % 256

/-- Whether the protection bits of an XY word match (BT.656: P3 = V ⊕ H, P2 = F ⊕ H, P1 = F ⊕ V, P0 = F ⊕ V ⊕ H).
(DEDUCED, log entry 51) -/
def xyGood (b : Nat) : Bool :=
  let f := bitOf b 6
  let v := bitOf b 5
  let h := bitOf b 4
  bitOf b 3 == xor v h && bitOf b 2 == xor f h && bitOf b 1 == xor f v && bitOf b 0 == xor f (xor v h)

/-- An XY word at port `p`: ignored and counted in SYNC_ERR where its protection bits do not match; an EAV with V at 1 begins the
blanking, a SAV with V at 0 a row. -/
def State.xyTake (s : State) (p v : Nat) : State :=
  let b := s.xyBits p v
  if !xyGood b then s.inc (Reg.CAP.SYNC_ERR p)
  else
    let x := s.cport p
    let h := bitOf b 4
    let vb := bitOf b 5
    s.setCport p { x with blank := x.blank || (h && vb), sav := if h || vb then none else some (bitOf b 6) }

/-- The XY words of a command at port `p`. -/
def State.xyAll (s : State) (p : Nat) (xy : List Nat) : State :=
  if s.gb (Reg.CAP.SYNC p) then xy.foldl (fun s v => s.xyTake p v) s else s

/-! ### The input store (R159) -/

/-- Entries that a row of `w` samples takes. -/
def rowEntries (w : Nat) : Nat := if 2048 < w then 2 else 1

/-- STORE_LEVEL of port `p`, and its peak. -/
def State.storeLevel (s : State) (p : Nat) : State :=
  let n := (s.cport p).store.length * rowEntries (s.capW p)
  (s.p (Reg.CAP.STORE_LEVEL p) n).p (Reg.CAP.STORE_PEAK p) (max n (s.g (Reg.CAP.STORE_PEAK p)))

/-! ### Checks of a parameter set (R171 to R173, R177) -/

/-- Whether an output size lies within the port size and an eighth of it, rounded up. -/
def sizeGood (port out : Nat) : Bool := decide ((port + 7) / 8 ≤ out ∧ out ≤ port)

/-- Whether the shadow set of a context for port `p` is of R172, or has a size outside R173. -/
def State.badConfig (s : State) (j c p : Nat) : Bool :=
  let bt := s.capBt p
  let w := s.capW p
  let h := s.capH p
  (bt && (s.gb (Reg.ISP.CTX.GTM_EN j c) || s.g (Reg.ISP.CTX.TF j c) != 0 || s.gb (Reg.ISP.CTX.MV_RGB j c))) ||
    (!bt && s.g (Reg.ISP.CTX.CSC j c) == 3) ||
    (s.gb (Reg.ISP.CTX.CODE_EN j c) &&
      !(sizeGood w (s.g (Reg.ISP.CTX.CODE_W_M1 j c) + 1) && sizeGood h (s.g (Reg.ISP.CTX.CODE_H_M1 j c) + 1))) ||
    (s.gb (Reg.ISP.CTX.MV_EN j c) &&
      !(sizeGood w (s.g (Reg.ISP.CTX.MV_W_M1 j c) + 1) && sizeGood h (s.g (Reg.ISP.CTX.MV_H_M1 j c) + 1)))

/-- Bytes of the reference of temporal noise reduction (R169). -/
def State.tnrBytes (s : State) (p : Nat) : Nat :=
  let one := s.capW p * s.capH p * (if s.capBt p then 4 else 2)
  if s.gb (Reg.CAP.INTERLACED p) then ceilTo 4096 one + one else one

/-- Whether an address of the shadow set lies outside DRAM. -/
def State.badAddress (s : State) (j c p : Nat) : Bool :=
  !s.inDram (4096 * s.g (Reg.ISP.CTX.TABLE_BASE j c)) 49152 ||
    (s.gb (Reg.ISP.CTX.STATS_EN j c) && !s.inDram (4096 * s.g (Reg.ISP.CTX.STATS_BASE j c)) 16384) ||
    (s.gb (Reg.ISP.CTX.TNR_EN j c) && !s.inDram (4096 * s.g (Reg.ISP.CTX.TNR_BASE j c)) (s.tnrBytes p))

/-- The coding and machine-vision rings of a context. -/
def State.codeRing (s : State) (j c : Nat) : List Nat :=
  (List.range (s.g (Reg.ISP.CTX.CODE_RING_M1 j c) + 1)).map (fun k =>
    if k % 2 = 0 then s.g (Reg.ISP.CTX.CODE_BUF_LO j c (k / 2)) else s.g (Reg.ISP.CTX.CODE_BUF_HI j c (k / 2)))
def State.mvRing (s : State) (j c : Nat) : List Nat :=
  (List.range (s.g (Reg.ISP.CTX.MV_RING_M1 j c) + 1)).map (fun k =>
    if k % 2 = 0 then s.g (Reg.ISP.CTX.MV_BUF_LO j c (k / 2)) else s.g (Reg.ISP.CTX.MV_BUF_HI j c (k / 2)))

/-- Whether a ring buffer does not suit an output of a format and size (R177, BAD_BUFFER). -/
def State.bufUnfit (s : State) (fmt w h b : Nat) : Bool :=
  let p := s.bufPic b
  s.bufState b != 0 || p.fmt != fmt || decide (p.w < w) || decide (p.h < h) || decide (p.pitch < rowBytes fmt w)

/-- Whether a coding or machine-vision ring does not suit. -/
def State.badBuffer (s : State) (j c : Nat) : Bool :=
  (s.gb (Reg.ISP.CTX.CODE_EN j c) && (s.codeRing j c).any (s.bufUnfit (4 + s.g (Reg.ISP.CTX.CODE_10BIT j c))
      (s.g (Reg.ISP.CTX.CODE_W_M1 j c) + 1) (s.g (Reg.ISP.CTX.CODE_H_M1 j c) + 1))) ||
    (s.gb (Reg.ISP.CTX.MV_EN j c) && (s.mvRing j c).any (s.bufUnfit (6 + s.g (Reg.ISP.CTX.MV_RGB j c))
      (s.g (Reg.ISP.CTX.MV_W_M1 j c) + 1) (s.g (Reg.ISP.CTX.MV_H_M1 j c) + 1)))

/-- The largest port width of a pipe with `n` contexts enabled (R178). -/
def shareWidth (n : Nat) : Nat := if n ≤ 1 then 4096 else if n = 2 then 2048 else 1024

/-- The enabled contexts of pipe `j`. -/
def State.ctxsOn (s : State) (j : Nat) : List Nat := [0, 1, 2, 3].filter (fun c => s.gb (Reg.ISP.CTX.ENABLE j c))

/-- The first check of R177 that context `c` of pipe `j` fails; 0 where all pass.
(DEDUCED, log entry 51) -/
def State.ctxCheck (s : State) (j c : Nat) : Nat :=
  let p := s.g (Reg.ISP.CTX.PORT j c)
  match s.capEntry j c with
  | none => 1
  | some i =>
    let on := (s.ctxsOn j).filter (fun d => d != c)
    let share := shareWidth (on.length + 1)
    if s.srcW i ≠ s.capW p ∨ s.srcH i ≠ s.capH p then 2
    else if s.gb (Reg.CAP.ENABLE p) = false ∨ (s.ctxOf p).isSome = true then 3
    else if share < s.capW p || on.any (fun d => decide (share < s.capW (s.g (Reg.ISP.CTX.PORT j d)))) then 4
    else if s.badConfig j c p then 5
    else if s.badAddress j c p then 6
    else if s.badBuffer j c then 7
    else 0

/-! ### Contexts: enable, stop, apply (R177, R179, R180) -/

/-- The shadow set of a context made active. -/
def State.takeShadow (s : State) (j c : Nat) : State :=
  let set_ := (ctxWords j c).foldl (fun t a => Tab.put 0 a (s.reg a) t) []
  s.setIctx j c { s.ictx j c with active := set_ }

/-- Image pipe `j` beyond its registers. -/
def State.ipipe (s : State) (j : Nat) : IspPipe := Tab.get IspPipe.reset j s.cap.pipes
def State.setIpipe (s : State) (j : Nat) (x : IspPipe) : State :=
  { s with cap := { s.cap with pipes := Tab.put IspPipe.reset j x s.cap.pipes } }

/-- A write by master `m` of 1 to ENABLE of a context that is off (R177); one that fails its checks is logged (R417, R448).
(DESIGN CHOICE, log entry 98) -/
def State.ctxStart (s : State) (m j c : Nat) (v : Word) : State :=
  let r := s.ctxCheck j c
  let s := s.p (Reg.ISP.CTX.ENABLE_RESULT j c) r
  if r ≠ 0 then s.logIgnored m (Reg.ISP.CTX.ENABLE j c).addr v
  else
    let i := (s.capEntry j c).getD 0
    let s := ((s.pb (Reg.ISP.CTX.ENABLE j c) true).clkRefresh).takeShadow j c
    let bufs := (if s.gb (Reg.ISP.CTX.CODE_EN j c) then s.codeRing j c else []) ++
      (if s.gb (Reg.ISP.CTX.MV_EN j c) then s.mvRing j c else [])
    let s := bufs.foldl (fun s b => s.p (Reg.ING.BUF.SOURCE b) i) s
    let s := s.setIctx j c { s.ictx j c with codePos := none, mvPos := none, cold := true, fresh := true }
    let s := s.setIpipe j { s.ipipe j with gated := none }
    (s.p (Reg.ISP.CTX.STATE j c) 1).p (Reg.ISP.CTX.SRC j c) i

/-- The frame of port `p` dropped: counted where `counted`, its buffers FREE, the store flushed. -/
def State.frameDrop (s : State) (p : Nat) (counted : Bool) : State :=
  let x := s.cport p
  let s := match x.frame with
    | none => s
    | some f =>
      let s := if counted then s.inc (Reg.CAP.DROPPED p) else s
      let s := s.unclaim f.disp
      let s := match f.code with
        | some b => s.unclaim b
        | none => s
      match f.mv with
      | some b => s.unclaim b
      | none => s
  ((s.setCport p { x with store := [], begun := none, frame := none, rowsIn := 0 }).pb (Reg.CAP.IN_FRAME p) false).storeLevel p

/-- Context `c` of pipe `j` stops at once (R179); the clock of a pipe without a context is gated (R475). -/
def State.ctxStop (s : State) (j c : Nat) : State :=
  let s := if s.gb (Reg.ISP.CTX.ENABLE j c) then s.frameDrop (s.g (Reg.ISP.CTX.PORT j c)) true else s
  let s := s.pb (Reg.ISP.CTX.ENABLE j c) false
  let s := if (s.ctxsOn j).isEmpty && (s.ipipe j).gated.isNone then s.setIpipe j { s.ipipe j with gated := some s.clock } else s
  (s.clkRefresh.p (Reg.ISP.CTX.STATE j c) 0).pb (Reg.ISP.CTX.APPLY j c) false

/-- An armed shadow set at the context's frame start (R180). -/
def State.applyShadow (s : State) (j c p : Nat) : State :=
  if s.gb (Reg.ISP.CTX.APPLY j c) then
    let bad := s.badConfig j c p || s.badAddress j c p
    let s := (s.pb (Reg.ISP.CTX.APPLY j c) false).pb (Reg.ISP.CTX.APPLY_RESULT j c) bad
    if bad then s.logIgnored (s.ictx j c).armer (Reg.ISP.CTX.APPLY j c).addr (s.ictx j c).armWord else s.takeShadow j c
  else s

/-- A write of the first word of context `c` of pipe `j` by master `m` (R177, R179, R180). -/
def ctxCtrlWrite (m j c : Nat) (v : Word) (s : State) : State :=
  let a := (Reg.ISP.CTX.ENABLE j c).addr
  let was := s.gb (Reg.ISP.CTX.ENABLE j c)
  let on := fieldGet v 0 1 = 1
  let s := s.writeFields m a v 0x80000001
  let s := if on ∧ was = false then s.ctxStart m j c v else if ¬ on ∧ was = true then s.ctxStop j c else s
  if fieldGet v 31 1 = 1 then (s.pb (Reg.ISP.CTX.APPLY j c) true).setIctx j c { s.ictx j c with armer := m, armWord := v } else s

/-- A write of STATS_BASE of a context: bit 0 must be 0, a value with it at 1 is reserved.
(DEDUCED, log entry 51) -/
def statsWrite (m j c : Nat) (v : Word) (s : State) : State :=
  let a := (Reg.ISP.CTX.STATS_EN j c).addr
  if fieldGet v 0 1 = 1 then
    (s.writeFields m a v 0x00FFFFFF).errLog (ctlRecord s Rsn.reservedValue m a true false v)
  else s.writeFields m a v 0

/-- A write of the first word of port `p` by master `m`: RAW modes with SYNC at 1, and INTERLACED without SYNC, are reserved
(R157, R160), a reserved MODE leaving the one before; a port that goes off stops its context (R179).
(DEDUCED, log entry 51) -/
def capCtrlWrite (m p : Nat) (v : Word) (s : State) : State :=
  let a := (Reg.CAP.ENABLE p).addr
  let was := s.gb (Reg.CAP.ENABLE p)
  let mode := if 9 ≤ fieldGet v 4 4 then s.g (Reg.CAP.MODE p) else fieldGet v 4 4
  let bad := (fieldGet v 8 1 == 1 && decide (mode ≤ 5)) || (fieldGet v 14 1 == 1 && fieldGet v 8 1 == 0)
  let s := if bad && !was then
      (s.writeFields m a v 0x000041F0).errLog (ctlRecord s Rsn.reservedValue m a true false v)
    else s.writeFields m a v 0
  if was && fieldGet v 0 1 == 0 then
    let s := match s.ctxOf p with
      | some k => s.ctxStop k.1 k.2
      | none => s
    (s.setCport p { CapPort.reset with pclkAt := (s.cport p).pclkAt }).pb (Reg.CAP.IN_FRAME p) false
  else s

/-! ### What a frame leaves (R162, R165, R174, R176) -/

/-- The rows of a coding or machine-vision picture written; whether no response was an error. -/
def State.outWrite (s : State) (m : Nat) (rows : List (Nat × List Byte)) : State × Bool :=
  rows.foldl (fun (a : State × Bool) x =>
    let r := a.1.dmaWrite m (defaultQos m) x.1 x.2
    (r.1, a.2 && r.2)) (s, true)

/-- The tag of a capture frame (R162), but for its SIGNATURE. -/
def State.capTag (s : State) (p i : Nat) (f : CapFrame) (flags sig : Nat) : Tag :=
  let kind := s.gb (Reg.CAP.CAPT_KIND p) && !s.gb (Reg.ING.SRC.FORCE_ARRIVAL i)
  let cap := if kind then f.wall - 1000 * s.g (Reg.CAP.CAPT_ADJ_US p) else f.wall
  { source := i, flags := captFlag kind + flags, seq := f.seq, capture := cap, ready := s.wall, sig := sig }

/-- Counts of `n` values by bits [19:12]. -/
def histogram (vs : List Nat) : List Nat :=
  vs.foldl (fun t v => t.modify (v / 4096 % 256) (fun n => n + 1)) (List.replicate 256 0)

/-- The mean of a list of values. -/
def meanOf (vs : List Nat) : Nat := vs.sum / vs.length

/-- One pixel or quad of statistics: column, row, R, G, B, Y; in BT modes a chroma sample is none where its column has
none. -/
structure StatPoint where
  x : Nat
  y : Nat
  r : Option Nat
  g : Option Nat
  b : Option Nat
  l : Nat
deriving DecidableEq, Repr

/-- The points of a BT frame: Y', Cb, Cr and Y' in the positions R, G, B and Y, at 20 bits. -/
def btPoints (rows : List CapRow) : List StatPoint :=
  ((List.range rows.length).map (fun y =>
    let r := rows.getD y ⟨[], []⟩
    (List.range r.ys.length).map (fun x =>
      let v := 1024 * r.ys.getD x 0
      let c := 1024 * r.cs.getD x 0
      { x := x, y := y, r := some v, g := if x % 2 = 0 then some c else none, b := if x % 2 = 1 then some c else none,
        l := v }))).flatten

/-- The points of a RAW frame: its quads.
(DESIGN CHOICE, log entry 98) -/
def rawPoints (phase : Nat) (rows : List CapRow) : List StatPoint :=
  ((List.range (rows.length / 2)).map (fun j =>
    let w := (rows.getD 0 ⟨[], []⟩).ys.length
    (List.range (w / 2)).map (fun i =>
      let at_ := fun (d : Nat) => (rows.getD (2 * j + d / 2) ⟨[], []⟩).ys.getD (2 * i + d % 2) 0
      let sum := fun (c : Nat) => (((List.range 4).filter (fun d => bayerColour phase (d % 2) (d / 2) == c)).map at_).sum
      let g := sum 1 / 2
      { x := 2 * i, y := 2 * j, r := some (sum 0), g := some g, b := some (sum 2), l := (sum 0 + 2 * g + sum 2) / 4 }))).flatten

/-- The statistics of a frame from offset 0x20 (R176). -/
def statBytes (bt : Bool) (w h : Nat) (ps : List StatPoint) : List Byte :=
  let hist := fun (vs : List Nat) => ((histogram vs).map (fun n => leBytes n 4)).flatten
  let none_ := List.replicate 1024 (0 : Byte)
  let mean := fun (vs : List Nat) => leBytes (meanOf vs / 16) 2
  let zone := fun (z : Nat) =>
    let q := ps.filter (fun a => decide (a.x / (w / 16) = z % 16) && decide (a.y / (h / 16) = z / 16))
    mean (q.filterMap (fun a => a.r)) ++ mean (q.filterMap (fun a => a.g)) ++ mean (q.filterMap (fun a => a.b)) ++
      mean (q.map (fun a => a.l))
  hist (ps.map (fun a => a.l)) ++
    (if bt then none_ ++ none_ ++ none_
      else hist (ps.filterMap (fun a => a.r)) ++ hist (ps.filterMap (fun a => a.g)) ++ hist (ps.filterMap (fun a => a.b))) ++
    ((List.range 256).map zone).flatten

/-- The statistics of a completed frame written (R176); whether no response was an error.
(DEDUCED, log entry 51) -/
def State.statsOut (s : State) (j c p : Nat) (f : CapFrame) (cap : Int) : State × Bool :=
  if s.actb j c (Reg.ISP.CTX.STATS_EN j c) then
    let a := 4096 * s.act j c (Reg.ISP.CTX.STATS_BASE j c) + 8192 * (f.seq % 2)
    let head := leBytes f.seq 4 ++ leBytes (4 * j + c) 1 ++ leBytes 0 3 ++ timeBytes cap ++ leBytes 0 14
    let body := statBytes (s.capBt p) (s.capW p) (s.capH p)
      (if s.capBt p then btPoints f.stat else rawPoints (s.act j c (Reg.ISP.CTX.BAYER_PHASE j c)) f.stat)
    s.dmaWrite (35 + j) (defaultQos (35 + j)) a (head ++ body)
  else (s, true)

/-- The size of an output of a context: coding, or machine vision. -/
def State.codeSize (s : State) (j c : Nat) : Nat × Nat :=
  (s.act j c (Reg.ISP.CTX.CODE_W_M1 j c) + 1, s.act j c (Reg.ISP.CTX.CODE_H_M1 j c) + 1)
def State.mvSize (s : State) (j c : Nat) : Nat × Nat :=
  (s.act j c (Reg.ISP.CTX.MV_W_M1 j c) + 1, s.act j c (Reg.ISP.CTX.MV_H_M1 j c) + 1)

/-- The rows of the coding and the machine-vision pictures of a frame of port `p`, those that it has buffers for. -/
def State.codeOut (s : State) (j c p : Nat) (f : CapFrame) : List (Nat × List Byte) :=
  match f.code with
  | some b => codeRows (s.bufPic b) (s.capW p) (s.codeSize j c).1 (s.codeSize j c).2 f.full
  | none => []
def State.mvOut (s : State) (j c p : Nat) (f : CapFrame) : List (Nat × List Byte) :=
  match f.mv with
  | some b => mvRows (s.bufPic b) (s.capW p) (s.mvSize j c).1 (s.mvSize j c).2 f.linear f.full
  | none => []

/-- The tag of another output's buffer `b` of port `p`'s frame, its signature that of the `size` written (R114). -/
def State.outTag (s : State) (p j c flags : Nat) (f : CapFrame) (b : Nat) (size : Nat × Nat) : Tag :=
  s.capTag p (s.g (Reg.ISP.CTX.SRC j c)) f flags (s.signature { s.bufPic b with w := size.1, h := size.2 })

/-- The code output's buffer closes, where the frame has one, and its ring's place moves. -/
def State.codeClose (s : State) (p j c flags : Nat) (f : CapFrame) : State :=
  match f.code with
  | some b => (s.closeBuf b (s.outTag p j c flags f b (s.codeSize j c))).setIctx j c
      { s.ictx j c with codePos := (s.codeRing j c).findIdx? (fun x => x == b) }
  | none => s

/-- The machine-vision output's buffer closes, where the frame has one, and its ring's place moves. -/
def State.mvClose (s : State) (p j c flags : Nat) (f : CapFrame) : State :=
  match f.mv with
  | some b => (s.closeBuf b (s.outTag p j c flags f b (s.mvSize j c))).setIctx j c
      { s.ictx j c with mvPos := (s.mvRing j c).findIdx? (fun x => x == b) }
  | none => s

/-- The frame of port `p` closes with the given flags (R162, R165): coding and machine-vision pictures and statistics, whose
failed writes make it short (R166), then tags and counts.
(DEDUCED, log entry 51) -/
def State.capClose (s : State) (p j c flags : Nat) : State :=
  match (s.cport p).frame with
  | none => s
  | some f =>
    let i := s.g (Reg.ISP.CTX.SRC j c)
    let m := 35 + j
    let r1 := s.outWrite m (s.codeOut j c p f)
    let r2 := r1.1.outWrite m (s.mvOut j c p f)
    let r3 := r2.1.statsOut j c p f (s.capTag p i f 0 0).capture
    let errs := [r1.2, r2.2, r3.2].count false
    let s := r3.1.incBy (Reg.CAP.BUS_ERR p) errs
    let cut := errs != 0 && flags &&& Fl.truncated == 0
    let s := if cut then (s.inc (Reg.CAP.SHORT p)).raise Ev.capFrameShort i else s
    let flags := if errs = 0 then flags else flags ||| Fl.truncated
    let d := s.capTag p i f flags (keptSignature 0 (s.capW p) (s.capH p) f.pix)
    let s := (s.closeBuf f.disp d).filled i f.disp
    let s := (s.codeClose p j c flags f).mvClose p j c flags f
    let s := ((s.inc (Reg.CAP.FRAMES p)).inc (Reg.ISP.CTX.FRAMES j c)).inc (Reg.ING.SRC.FRAMES i)
    let s := s.setIctx j c { s.ictx j c with cold := f.tnrOff }
    let s := (s.setCport p { s.cport p with frame := none, store := [] }).pb (Reg.CAP.IN_FRAME p) false
    let s := s.storeLevel p
    if s.actb j c (Reg.ISP.CTX.STATS_EN j c) then s.raise Ev.ispStats i else s

/-! ### Rows through the pipe (R164, R166, R169, R175, R181, R183) -/

/-- The reference of temporal noise reduction of row `y` (R169): address and bytes. -/
def State.tnrRow (s : State) (j c p y field : Nat) : Nat × Nat :=
  let row := s.capW p * (if s.capBt p then 4 else 2)
  let base := 4096 * s.act j c (Reg.ISP.CTX.TNR_BASE j c)
  (base + (if field = 1 then ceilTo 4096 (row * s.capH p) else 0) + y * row, row)

/-- The frame of port `p` changed. -/
def State.setFrame_ (s : State) (p : Nat) (f : CapFrame) : State := s.setCport p { s.cport p with frame := some f }

/-- Temporal noise reduction turned off for the rest of the frame of port `p` (R166). -/
def State.tnrError (s : State) (p : Nat) : State :=
  match (s.cport p).frame with
  | none => s
  | some f => (s.setFrame_ p { f with tnrOff := true }).inc (Reg.CAP.BUS_ERR p)

/-- Row `y` of port `p` through stage 5, its samples in the order of the reference words (of a BT row, Y and C of each pixel in
turn): the reference row read, then overwritten; the samples, and whether no write had an error response (R168, R169).
(DEDUCED, log entry 51) (DESIGN CHOICE, log entry 98) -/
def State.tnrPass (s : State) (j c p y k : Nat) (f : CapFrame) (vs : List Nat) : State × List Nat × Bool :=
  if s.actb j c (Reg.ISP.CTX.TNR_EN j c) then
    let m := 35 + j
    let r := s.tnrRow j c p y f.field
    let x := if f.tnrOff then (s, [], false) else s.dmaRead m (defaultQos m) r.1 r.2
    let s := if f.tnrOff || x.2.2 then x.1 else x.1.tnrError p
    let out := if x.2.2 && !f.cold then
        (List.range vs.length).map (fun n =>
          s.stage5 j c (if s.capBt p then pixDraw k (n / 2) (40 + n % 2) else pixDraw k n 40) (vs.getD n 0) (leNat ((x.2.1.drop (2 * n)).take 2)))
      else vs
    let w := s.dmaWrite m (defaultQos m) r.1 ((out.map (fun v => leBytes (tnrWord v) 2)).flatten)
    (w.1, out, w.2)
  else (s, vs, true)

/-- Whether a context reads its table set. -/
def State.readsTables (s : State) (j c : Nat) : Bool :=
  s.act j c (Reg.ISP.CTX.DPC_COUNT j c) != 0 || s.actb j c (Reg.ISP.CTX.LSC_EN j c) || s.actb j c (Reg.ISP.CTX.TONE_EN j c) ||
    s.actb j c (Reg.ISP.CTX.GTM_EN j c)

/-- The samples of row `y` of a frame that statistics are taken over: a RAW row after stage 3, a BT row as at the port (R176). -/
def State.statRow (s : State) (j c p y k : Nat) (f : CapFrame) : CapRow :=
  let row := f.lines.getD y ⟨[], []⟩
  if s.capBt p then row else ⟨s.rawRow j c (s.capW p) (s.capH p) k f.lines y, []⟩

/-- The samples of a row after stage 4 in the order of the reference words. -/
def State.tnrInput (s : State) (j c p k : Nat) (r : CapRow) : List Nat :=
  let n := r.ys.length
  if s.capBt p then ((List.range n).map (fun x =>
    [s.stage4 j c (pixDraw k x 2) (1024 * r.ys.getD x 0), s.stage4 j c (pixDraw k x 21) (1024 * r.cs.getD x 0)])).flatten
  else (List.range n).map (fun x => s.stage4 j c (pixDraw k x 2) (r.ys.getD x 0))

/-- A row after stage 5 taken through the stages after it: what stage 10 and stage 11 give. -/
def State.rowPixels (s : State) (j c p y k : Nat) (vs : List Nat) : List (Tri × Tri) :=
  if s.capBt p then
    let n := vs.length / 2
    s.btPixels j c k ((List.range n).map (fun x => vs.getD (2 * x) 0)) ((List.range n).map (fun x => vs.getD (2 * x + 1) 0))
  else s.rawPixels j c k y vs

/-- A row of the pipe counted: ROWS, and the time it costs (R181, R184). -/
def State.rowCost (s : State) (j p : Nat) : State :=
  let x := s.ipipe j
  let kept := x.loads.filter (fun e => decide (s.clock < e.1 + e.2 + 100000000))
  (s.setIpipe j { x with loads := kept ++ [(s.clock, (s.capW p + 32) * 5 / 3)] }).inc (Reg.ISP.ROWS j)

/-- The next row of the frame of port `p` processed; whether no write had an error response. With `force` an error is counted in
BUS_ERR and the row stands.
(DESIGN CHOICE, log entry 30) -/
def State.rowEmit (s : State) (j c p : Nat) (force : Bool) : State × Bool :=
  match (s.cport p).frame with
  | none => (s, true)
  | some f =>
    let y := f.done
    let k := s.free
    let m := 35 + j
    let s := { s with free := s.free + 64 * s.capW p }
    let s := if s.readsTables j c then s.busTraffic m else s
    let st := s.statRow j c p y k f
    let t := s.tnrPass j c p y k f (s.tnrInput j c p k st)
    let all := t.1.rowPixels j c p y k t.2.1
    let px := displayRow (all.map (fun a => a.2))
    let x := t.1.writePixels m (defaultQos m) (s.bufPic f.disp) 0 y px
    let ok := t.2.2 && x.2
    if ok || force then
      let s := x.1.rowCost j p
      let s := if ok then s else s.inc (Reg.CAP.BUS_ERR p)
      let f := ((s.cport p).frame).getD f
      let s := s.setFrame_ p { f with
        done := y + 1
        stat := if s.actb j c (Reg.ISP.CTX.STATS_EN j c) then f.stat ++ [st] else f.stat
        pix := keepRow (s.capW p) 0 y px f.pix
        linear := if f.mv.isSome then f.linear ++ [all.map (fun a => a.1)] else f.linear
        full := if f.mv.isSome || f.code.isSome then f.full ++ [all.map (fun a => a.2)] else f.full }
      let held := (s.ctxsOn j).any (fun d => d != c && decide (s.g (Reg.ISP.CTX.PRIORITY j c) ≤ s.g (Reg.ISP.CTX.PRIORITY j d)))
      (if held then s else s.p (Reg.ING.BUF.ROW_MARK f.disp) (y + 1), true)
    else (x.1, false)

/-- The rows of the frame of port `p` that its lines let the pipe process, at most `fuel`. -/
def State.rowsEmit (s : State) (j c p : Nat) (force : Bool) : Nat → State × Bool
  | 0 => (s, true)
  | fuel + 1 =>
    match (s.cport p).frame with
    | none => (s, true)
    | some f =>
      if f.done + s.rowLag j c (s.capBt p) < f.lines.length ∨ (f.lines.length = s.capH p ∧ f.done < s.capH p) then
        let r := s.rowEmit j c p force
        if r.2 then r.1.rowsEmit j c p force fuel else r
      else (s, true)

/-- Row `r` taken into the frame of port `p`, and the rows it completes processed; whether no write had an error response. -/
def State.rowOut (s : State) (j c p : Nat) (r : CapRow) : State × Bool :=
  match (s.cport p).frame with
  | none => (s, true)
  | some f => (s.setFrame_ p { f with lines := f.lines ++ [r] }).rowsEmit j c p false 4

/-- Rows taken one after another until one fails. -/
def State.rowsOut (s : State) (j c p : Nat) : List CapRow → State × Bool
  | [] => (s, true)
  | r :: rs =>
    let x := s.rowOut j c p r
    if x.2 then x.1.rowsOut j c p rs else x

/-- The rest of the frame of port `p` filled with repeats of the last received row, from the row concerned on after an error
(R164, R166).
(DEDUCED, log entry 51) -/
def State.rowsFill (s : State) (j c p : Nat) (error : Bool) : State :=
  match (s.cport p).frame with
  | none => s
  | some f =>
    let had := if error then f.lines.take f.done else f.lines
    let s := s.setFrame_ p { f with lines := had ++ List.replicate (s.capH p - had.length) (s.cport p).last }
    (s.rowsEmit j c p true (s.capH p)).1

/-- A short frame of port `p` (R164): the rows that wait, then the missing rows as repeats of the last received row; then the
frame closes with TRUNCATED.
(DEDUCED, log entry 51) -/
def State.capShort (s : State) (p j c : Nat) : State :=
  let s := (s.inc (Reg.CAP.SHORT p)).raise Ev.capFrameShort (s.g (Reg.ISP.CTX.SRC j c))
  let r := s.rowsOut j c p (s.cport p).store
  let s := if r.2 then r.1 else r.1.inc (Reg.CAP.BUS_ERR p)
  (s.rowsFill j c p (!r.2)).capClose p j c Fl.truncated

/-- An error response to a write of the pipe (R166): the frame ends as a short one from the row concerned, with `flags` besides. -/
def State.capWriteError (s : State) (p j c flags : Nat) : State :=
  let s := ((s.inc (Reg.CAP.BUS_ERR p)).inc (Reg.CAP.SHORT p)).raise Ev.capFrameShort (s.g (Reg.ISP.CTX.SRC j c))
  let s := (s.rowsFill j c p true).capClose p j c (flags ||| Fl.truncated)
  s.setCport p { s.cport p with rowsIn := 0 }

/-- The rows that wait at port `p` processed, and its complete frame closed with `flags`; a failed write makes it short. -/
def State.capFinish (s : State) (p j c flags : Nat) : State :=
  let r := s.rowsOut j c p (s.cport p).store
  if r.2 then r.1.capClose p j c flags else r.1.capWriteError p j c flags

/-! ### The port (R160 to R166, R182) -/

/-- Whether a frame starts at port `p` (R157, R160): at the SAV with V at 0 that follows an EAV with V at 1, or at the active
VSYNC edge. -/
def State.frameBegins (s : State) (p : Nat) (level : Bool) : Bool :=
  if s.gb (Reg.CAP.SYNC p) then (s.cport p).blank && (s.cport p).sav.isSome else level == s.gb (Reg.CAP.VS_POL p)

/-- A frame start at port `p`, with the XY words before it or the level that VSYNC takes (R160, R161, R164, R167, R180). -/
def capStart (p : Nat) (xy : List Nat) (level : Bool) (s : State) : State :=
  if !s.coreOn || !s.gb (Reg.CAP.ENABLE p) then s
  else
    let s := s.xyAll p xy
    if !s.frameBegins p level then s
    else
      let s := s.stamp (68 + p) (s.gb Reg.TIME.STAMP_EN.CAP)
      let x := s.cport p
      let s := if x.begun.isSome then s.inc (Reg.CAP.EMPTY p) else s
      let s := match x.frame, s.ctxOf p with
        | some _, some k =>
          if x.rowsIn < s.capH p then s.capShort p k.1 k.2
          else s.capFinish p k.1 k.2 0
        | _, _ => s
      let field := if s.gb (Reg.CAP.INTERLACED p) && x.sav == some true then 1 else 0
      let s := (s.p (Reg.CAP.FIELD p) field).pb (Reg.CAP.IN_FRAME p) true
      let s := s.setCport p { s.cport p with
        blank := false, hsyncs := 0, begun := some (s.wall, s.time.count), rowsIn := 0, frame := none, store := [], startAt := s.clock }
      match s.ctxOf p with
      | none => s
      | some k =>
        let i := s.g (Reg.ISP.CTX.SRC k.1 k.2)
        let s := (s.applyShadow k.1 k.2 p).p (Reg.ISP.CTX.STATE k.1 k.2) 2
        let fresh := (s.ictx k.1 k.2).fresh
        let s := s.setIctx k.1 k.2 { s.ictx k.1 k.2 with fresh := false }
        if s.g (Reg.ING.SRC.STATE i) = 2 && !fresh then s else (s.p (Reg.ING.SRC.STATE i) 2).raise Ev.srcArrived i

/-- PCLK edges have come at port `p` (R184). -/
def State.pclkSeen (s : State) (p : Nat) : State :=
  if s.coreOn then s.setCport p { s.cport p with pclkAt := some s.clock } else s

/-- A row padded or cut to the width of port `p`, its chroma with the last sample of the same kind (R163). -/
def State.fitRow (s : State) (p : Nat) (ys cs : List Nat) : CapRow :=
  let w := s.capW p
  let fit := fun (v : List Nat) (last : Nat) => (v ++ List.replicate (w - v.length) last).take w
  let ys := ys.map (s.capSample p)
  let cs := cs.map (s.capSample p)
  let n := cs.length
  let pad := (List.range (w - n)).map (fun k => cs.getD (if k % 2 = 0 then n - 2 else n - 1) 512)
  ⟨fit ys (ys.getLastD 0), if s.capBt p then (cs ++ pad).take w else []⟩

/-- Buffers for a frame of context `c` of pipe `j` (R112, R161, R175): none where the display ring has none.
(DEDUCED, log entry 51) -/
def State.capClaim (s : State) (p j c : Nat) (wall : Int) (count : Nat) : State × Option CapFrame :=
  let i := s.g (Reg.ISP.CTX.SRC j c)
  let s := s.inc (Reg.ING.SRC.SEQUENCE i)
  let field := s.g (Reg.CAP.FIELD p)
  match s.nextClaim (s.ring i) (s.src i).lastPos with
  | none => (s.inc (Reg.ING.SRC.RING_DROP i), none)
  | some d =>
    let s := s.claim d.2 field count
    let other := fun (s : State) (on : Bool) (ring : List Nat) (pos : Option Nat) =>
      if on then
        match s.nextClaim ring pos with
        | some b => (s.claim b.2 field count, some b.2)
        | none => (s.inc (Reg.ING.SRC.RING_DROP i), none)
      else (s, none)
    let a := other s (s.act j c (Reg.ISP.CTX.CODE_EN j c) != 0) (s.codeRing j c) (s.ictx j c).codePos
    let b := other a.1 (s.act j c (Reg.ISP.CTX.MV_EN j c) != 0) (s.mvRing j c) (s.ictx j c).mvPos
    (b.1, some {
      seq := s.g (Reg.ING.SRC.SEQUENCE i), wall := wall, count := count, field := field, disp := d.2, code := a.2,
      mv := b.2, lines := [], done := 0, stat := [], pix := [], linear := [], full := [], tnrOff := false, cold := (s.ictx j c).cold })

/-- A row put into the store of port `p` for its open frame, or the frame dropped for want of room (R159, R182). -/
def State.rowStore (s : State) (p j c : Nat) (r : CapRow) : State :=
  let x := s.cport p
  if 64 < (x.store.length + 1) * rowEntries (s.capW p) then
    let s := s.frameDrop p true
    let s := s.setIctx j c { s.ictx j c with cold := true }
    s.raise Ev.capCtxDrop (s.g (Reg.ISP.CTX.SRC j c))
  else
    (s.setCport p { x with store := x.store ++ [r], rowsIn := x.rowsIn + 1, last := r, rowAt := s.clock }).storeLevel p

/-- A row beyond HEIGHT (R165): with DE or embedded sync the frame closes with OVERLONG. -/
def State.rowBeyond (s : State) (p j c : Nat) : State :=
  if s.gb (Reg.CAP.DE_USE p) || s.gb (Reg.CAP.SYNC p) then
    let s := ((s.inc (Reg.CAP.LONG p)).inc (Reg.CAP.LONG_ROWS p)).raise Ev.capFrameLong (s.g (Reg.ISP.CTX.SRC j c))
    let s := s.capFinish p j c Fl.overlong
    s.setCport p { s.cport p with rowsIn := s.capH p + 1 }
  else s

/-- The samples that a line of port `p` brings as a row, none where it brings none (R157): the run after a SAV with V at 0 or with
DE active; with DE_USE at 0, WIDTH samples from H_START PCLK cycles after the active HSYNC edge, from row V_START on.
(DEDUCED, log entry 51) -/
def State.rowOfLine (s : State) (p : Nat) (level : Bool) (ys cs : List Nat) : State × Option (List Nat × List Nat) :=
  let x := s.cport p
  if s.gb (Reg.CAP.SYNC p) then
    if x.sav.isSome && !x.blank then (s.setCport p { x with sav := none }, some (ys, cs)) else (s, none)
  else if s.gb (Reg.CAP.DE_USE p) then (s, if level == s.gb (Reg.CAP.DE_POL p) then some (ys, cs) else none)
  else if level == s.gb (Reg.CAP.HS_POL p) then
    let skip := s.g (Reg.CAP.H_START p) / (if 7 ≤ s.g (Reg.CAP.MODE p) then 2 else 1)
    (s.setCport p { x with hsyncs := x.hsyncs + 1 },
      if x.hsyncs < s.g (Reg.CAP.V_START p) then none
      else some ((ys.drop skip).take (s.capW p), (cs.drop skip).take (s.capW p)))
  else (s, none)

/-- A row of samples at port `p` (R159, R161, R163, R165, R182). -/
def State.rowTake (s : State) (p : Nat) (ys cs : List Nat) : State :=
  let s := if ys.length = s.capW p then s else s.inc (Reg.CAP.ROW_ERR p)
  let r := s.fitRow p ys cs
  let x := s.cport p
  match s.ctxOf p with
  | none => s.setCport p { x with begun := none }
  | some (j, c) =>
    if x.frame.isSome then (if x.rowsIn < s.capH p then s.rowStore p j c r else s.rowBeyond p j c)
    else match x.begun with
      | none => if s.capH p < x.rowsIn then s.inc (Reg.CAP.LONG_ROWS p) else s
      | some (wall, count) =>
        let s := s.setCport p { x with begun := none }
        if s.g (Reg.ISP.CTX.STATE j c) ≠ 2 then s
        else
          let k := s.capClaim p j c wall count
          match k.2 with
          | none => k.1.setIctx j c { k.1.ictx j c with cold := true }
          | some f => (k.1.setCport p { k.1.cport p with frame := some f }).rowStore p j c r

/-- A line at port `p`, with the XY words before it or the level of DE or HSYNC (R157, R159). -/
def capRow (p : Nat) (xy : List Nat) (level : Bool) (ys cs : List Nat) (s : State) : State :=
  if !s.coreOn || !s.gb (Reg.CAP.ENABLE p) then s
  else
    let r := (s.xyAll p xy).rowOfLine p level ys cs
    match r.2 with
    | none => r.1
    | some v => r.1.rowTake p v.1 v.2

/-- The context that pipe `j` serves next (R181): highest PRIORITY, then round-robin after the one served last. -/
def State.ispNext (s : State) (j : Nat) : Option Nat :=
  let ready := fun (c : Nat) => s.gb (Reg.ISP.CTX.ENABLE j c) && (s.cport (s.g (Reg.ISP.CTX.PORT j c))).frame.isSome &&
    !(s.cport (s.g (Reg.ISP.CTX.PORT j c))).store.isEmpty
  let from_ := (s.ipipe j).served + 1
  (((List.range 4).map (fun k => (from_ + k) % 4)).filter ready).foldl (fun (best : Option Nat) (c : Nat) =>
    match best with
    | none => some c
    | some b => if s.g (Reg.ISP.CTX.PRIORITY j b) < s.g (Reg.ISP.CTX.PRIORITY j c) then some c else some b) none

/-- Pipe `j` takes the next complete row and processes it (R181).
(DESIGN CHOICE, log entry 50) -/
def ispRow (j : Nat) (s : State) : State :=
  if !s.coreOn then s
  else match s.ispNext j with
    | none => s
    | some c =>
      let p := s.g (Reg.ISP.CTX.PORT j c)
      let x := s.cport p
      let s := s.setIpipe j { s.ipipe j with served := c }
      match x.store with
      | [] => s
      | r :: rest =>
        let s := (s.setCport p { x with store := rest }).storeLevel p
        let y := s.rowOut j c p r
        if y.2 then y.1 else y.1.capWriteError p j c 0

/-- FRAME_TIMEOUT_MS without a row at port `p` (R164). -/
def capTimeout (p : Nat) (s : State) : State :=
  let x := s.cport p
  match x.frame, s.ctxOf p with
  | some _, some (j, c) =>
    if s.coreOn && decide (x.rowsIn < s.capH p) &&
        decide (x.rowAt + 1000000 * s.g (Reg.CAP.FRAME_TIMEOUT_MS p) ≤ s.clock) then s.capShort p j c
    else s
  | _, _ => s

/-- The watch period after the last row ends (R165): the frame, whose rows are all processed, closes. -/
def capEnd (p : Nat) (s : State) : State :=
  match (s.cport p).frame, s.ctxOf p with
  | some f, some (j, c) => if s.coreOn && f.done == s.capH p then s.capClose p j c 0 else s
  | _, _ => s

/-- An error response to a write of the pipe for port `p`, or to its read of the reference (R166). -/
def capBusError (p : Nat) (write : Bool) (s : State) : State :=
  match (s.cport p).frame, s.ctxOf p with
  | some f, some (j, c) =>
    if !s.coreOn then s
    else if write then s.capWriteError p j c 0
    else if s.act j c (Reg.ISP.CTX.TNR_EN j c) != 0 && !f.tnrOff then s.tnrError p
    else s
  | _, _ => s

/-- LOST_MS without a frame start (R167), of CAPTURE entry `i`. -/
def capLost (i : Nat) (s : State) : State :=
  match (List.range 16).find? (fun k =>
      s.gb (Reg.ISP.CTX.ENABLE (k / 4) (k % 4)) && s.g (Reg.ISP.CTX.SRC (k / 4) (k % 4)) == i) with
  | none => s
  | some k =>
    let p := s.g (Reg.ISP.CTX.PORT (k / 4) (k % 4))
    if s.coreOn && s.g (Reg.ING.SRC.STATE i) == 2 &&
        decide ((s.cport p).startAt + 1000000 * s.g Reg.ING.CTRL.LOST_MS ≤ s.clock) then
      (s.p (Reg.ING.SRC.STATE i) 3).raise Ev.srcLost i
    else s

/-- A write of the status word of port `p`: PEAK_CLR clears STORE_PEAK. -/
def capPeakClear (p : Nat) (v : Word) (s : State) : State :=
  if fieldGet v 31 1 = 1 then s.p (Reg.CAP.STORE_PEAK p) 0 else s

/-- The contexts of CAPTURE entry `i` stop with it (R179). -/
def State.capEntryStop (s : State) (i : Nat) : State :=
  (List.range 16).foldl (fun s k =>
    if s.gb (Reg.ISP.CTX.ENABLE (k / 4) (k % 4)) && s.g (Reg.ISP.CTX.SRC (k / 4) (k % 4)) == i then
      s.ctxStop (k / 4) (k % 4)
    else s) s

/-- LOAD_PCT of pipe `j`: the share of the last 100 ms that its rows took; it stands while the pipe's clock is gated (R27, R184).
(DEDUCED, log entry 51) -/
def State.ispLoad (s : State) (j : Nat) : Nat :=
  let x := s.ipipe j
  let stop := x.gated.getD s.clock
  min 100 ((x.loads.map (fun e => min stop (e.1 + e.2) - max e.1 (stop - 100000000))).sum / 1000000)

/-- The word of an image pipe: LOAD_PCT, SHARE and CTX_ACTIVE from the enables (R184). -/
def State.ispWord (s : State) (j : Nat) : Word :=
  let on := s.ctxsOn j
  let share := if on.length ≤ 1 then 0 else if on.length = 2 then 1 else 2
  BitVec.ofNat 32 (s.ispLoad j * 2 ^ 16 + share * 16 + (on.map (fun c => 2 ^ c)).sum)

/-! ### The commands -/

/-- CAPTURE_FRAME_START (R160). -/
def execCaptureFrameStart (dt : Nat) (p : Fin 4) (x : SyncIn) (s : State) : Out State :=
  .next (capStart p.val x.xy x.level ((s.advance dt).pclkSeen p.val))

/-- CAPTURE_ROW (R159): the sync, the Y and the C samples. -/
def execCaptureRow (dt : Nat) (p : Fin 4) (x : SyncIn) (ys cs : List Nat) (s : State) : Out State :=
  .next (capRow p.val x.xy x.level ys cs ((s.advance dt).pclkSeen p.val))

/-- ISP_ROW_PROCESS (R181). -/
def execIspRowProcess (dt : Nat) (j : Fin 4) (s : State) : Out State := .next (ispRow j.val (s.advance dt))

/-- CAPTURE_FRAME_TIMEOUT (R164). -/
def execCaptureFrameTimeout (dt : Nat) (p : Fin 4) (s : State) : Out State := .next (capTimeout p.val (s.advance dt))

/-- CAPTURE_FRAME_CLOSE (R165). -/
def execCaptureFrameClose (dt : Nat) (p : Fin 4) (s : State) : Out State := .next (capEnd p.val (s.advance dt))

/-- CAPTURE_BUS_ERROR (R166): of a write, or of the read of the reference. -/
def execCaptureBusError (dt : Nat) (p : Fin 4) (write : Bool) (s : State) : Out State :=
  .next (capBusError p.val write (s.advance dt))

/-- CAPTURE_SOURCE_LOST (R167). -/
def execCaptureSourceLost (dt : Nat) (i : Fin 512) (s : State) : Out State := .next (capLost i.val (s.advance dt))

/-- ISP_CONTEXT_ENABLE (R177): context `c` of pipe `j`. -/
def execIspContextEnable (dt : Nat) (m : Master) (j c : Fin 4) (s : State) : Out State :=
  let s := s.advance dt
  let v := s.fieldWord (Reg.ISP.CTX.ENABLE j.val c.val) 1
  .next (s.ctlWrite m.val (Reg.ISP.CTX.ENABLE j.val c.val).addr v (ctxCtrlWrite m.val j.val c.val v))

/-- ISP_CONTEXT_DISABLE (R179): context `c` of pipe `j`. -/
def execIspContextDisable (dt : Nat) (m : Master) (j c : Fin 4) (s : State) : Out State :=
  let s := s.advance dt
  let v := s.fieldWord (Reg.ISP.CTX.ENABLE j.val c.val) 0
  .next (s.ctlWrite m.val (Reg.ISP.CTX.ENABLE j.val c.val).addr v (ctxCtrlWrite m.val j.val c.val v))

/-- ISP_APPLY (R180): context `c` of pipe `j`. -/
def execIspApply (dt : Nat) (m : Master) (j c : Fin 4) (s : State) : Out State :=
  let s := s.advance dt
  let v := s.fieldWord (Reg.ISP.CTX.APPLY j.val c.val) 1
  .next (s.ctlWrite m.val (Reg.ISP.CTX.APPLY j.val c.val).addr v (ctxCtrlWrite m.val j.val c.val v))

/-- CAP_STORE_PEAK_CLEAR (R184). -/
def execCapStorePeakClear (dt : Nat) (m : Master) (p : Fin 4) (s : State) : Out State :=
  .next ((s.advance dt).ctlWrite m.val (Reg.CAP.PEAK_CLR p.val).addr 0x80000000 (capPeakClear p.val 0x80000000))

end Sys2Proof.Machine
end

