-- ==== Sys2Proof/Machine/Sources.lean ====
section
/-! DEFINITION. Enabling and disabling a source entry, with its decode context and its capture contexts (R107, R108, R134,
R154, R179). -/

namespace Sys2Proof.Machine

/-- Entry `i` stops, with what hangs on it. -/
def State.entryStop (s : State) (i : Nat) : State :=
  let s := if s.g (Reg.ING.SRC.TYPE i) = 5 then s.capEntryStop i else s
  let t := s.srcStop i
  if s.compressed i then t.decStop i else t

/-- A write of the first word of entry `i` by master `m` (R107, R108): its RWK fields, then ENABLE; an enable that fails its checks is
logged (R417, R448).
(DESIGN CHOICE, log entry 98) -/
def srcCtrlWrite (m i : Nat) (v : Word) (s : State) : State :=
  let a := (Reg.ING.SRC.ENABLE i).addr
  let was := s.gb (Reg.ING.SRC.ENABLE i)
  let s := s.writeFields m a v 1
  if fieldGet v 0 1 = 1 then
    if was then s
    else
      let r := s.bindCheck i
      let s := (s.p Reg.ING.BIND_RESULT.INDEX i).p Reg.ING.BIND_RESULT.RESULT r
      if r ≠ 0 then s.logIgnored m a v
      else
        let s := (s.srcStart i).decClear i
        if s.compressed i then s.decStart i else s
  else if was then s.entryStop i
  else s

/-- SOURCE_ENABLE (R107). -/
def execSourceEnable (dt : Nat) (m : Master) (i : Fin 512) (s : State) : Out State :=
  let s := s.advance dt
  let v := s.fieldWord (Reg.ING.SRC.ENABLE i.val) 1
  .next (s.ctlWrite m.val (Reg.ING.SRC.ENABLE i.val).addr v (srcCtrlWrite m.val i.val v))

/-- SOURCE_DISABLE (R108). -/
def execSourceDisable (dt : Nat) (m : Master) (i : Fin 512) (s : State) : Out State :=
  let s := s.advance dt
  let v := s.fieldWord (Reg.ING.SRC.ENABLE i.val) 0
  .next (s.ctlWrite m.val (Reg.ING.SRC.ENABLE i.val).addr v (srcCtrlWrite m.val i.val v))

end Sys2Proof.Machine
end

