-- ==== Sys2Proof/Machine/Dmc.lean ====
section
/-! DEFINITION. The memory controllers: skew, refresh, calibration, retraining, set points, ECC counts and repair
(R377 to R402). -/

namespace Sys2Proof.Machine

/-- The 16 channels. -/
def allChannels : List Nat := List.range 16

/-- Whether channel `ch` serves: its controller is RUNNING. -/
def State.chanRuns (s : State) (ch : Nat) : Bool := s.coreOn && s.g (Reg.DMC.CTL.STATE (ch / 2)) == 2

/-- EV_DRAM_TRAIN of channel `ch` with an outcome, which TRAIN shows (R391). -/
def State.trainEvent (s : State) (ch outcome : Nat) : State :=
  (s.p (Reg.DMC.CH.TRAIN (ch / 2) (ch % 2)) outcome).raise Ev.dramTrain (outcome + 256 * ch)

/-! ### The skew monitor (R377) -/

/-- The channel of the largest count, the lowest of equals.
(DEDUCED, log entry 64) -/
def busiest (bs : List Nat) : Nat :=
  (List.range bs.length).foldl (fun b i => if bs.getD b 0 < bs.getD i 0 then i else b) 0

/-- SKEW_RUN of every channel set to `n`; as every counter of a controller it wraps (R403). -/
def State.skewRun (s : State) (n : Nat) : State :=
  allChannels.foldl (fun s ch => s.p (Reg.DMC.CH.SKEW_RUN (ch / 2) (ch % 2)) (n % 65536)) s

/-- A window of 1 ms ends, the channels having moved `bs` bytes (R377). -/
def skewWindow (bs : List Nat) (s : State) : State :=
  if !s.coreOn || !s.gb Reg.DMC.CTRL.SKEW_EN then s
  else
    let total : Nat := (bs.take 16).sum
    let s := allChannels.foldl (fun s ch =>
      s.p (Reg.DMC.CH.SHARE_PCT (ch / 2) (ch % 2)) (100 * bs.getD ch 0 / total)) s
    if total < 1000000 * s.g Reg.DMC.CTRL2.SKEW_FLOOR_MB then s
    else if (bs.take 16).any (fun b => decide (2 * total < 16 * b)) then
      let run : Nat := s.g (Reg.DMC.CH.SKEW_RUN 0 0) + 1
      let s : State := { s.skewRun run with dmc := { s.dmc with calm := 0 } }
      if 100 ≤ run ∧ s.dmc.armed = true then
        let ch := busiest (bs.take 16)
        let s := { s with dmc := { s.dmc with armed := false } }
        ((s.p Reg.DMC.SKEW.CHANNEL ch).pb Reg.DMC.SKEW.SKEWED true).raise Ev.dramChanSkew ch
      else s
    else
      let calm : Nat := s.dmc.calm + 1
      { s.skewRun 0 with dmc := { s.dmc with calm := calm, armed := s.dmc.armed || decide (100 ≤ calm) } }

/-! ### Refresh (R383 to R386) -/

/-- Whether a request queued for channel `ch` carries QoS 12 to 15, one that waits in the matrix for it or a write of its controller's
queue (R384).
(DEDUCED, log entry 64) -/
def State.urgentAt (s : State) (ch : Nat) : Bool :=
  s.bus.inflight.any (fun r => decide (r.target < 8) && decide (12 ≤ r.qos) && s.channelOf r.addr == ch) ||
    (s.queue (ch / 2)).writes.any (fun w => decide (12 ≤ w.qos) && s.channelOf w.granule == ch)

/-- The refresh interval of channel `ch` in ns: TREFI of the set point in force, scaled by the refresh-rate field last read (R383).
(DEDUCED, log entry 64) -/
def State.refreshNs (s : State) (ch : Nat) : Nat :=
  let t := s.g (Reg.DMC.FSP.TREFI_NS (s.g Reg.DMC.FSP_STATUS.CURRENT))
  match s.g (Reg.DMC.CH.RATE_CODE (ch / 2) (ch % 2)) with
  | 0 => t
  | 1 => 4 * t
  | 2 => 2 * t
  | 3 => t
  | 4 => t / 2
  | _ => t / 4

/-- `n` all-bank refreshes of channel `ch`, back to back: each blocks the channel for tRFCab of the set point in force (R383). -/
def State.refreshed (s : State) (ch n : Nat) : State :=
  let c := s.chan ch
  let t := s.g (Reg.DMC.FSP.TRFCAB_NS (s.g Reg.DMC.FSP_STATUS.CURRENT))
  (s.incBy (Reg.DMC.CH.REFRESHES (ch / 2) (ch % 2)) n).setChan ch { c with busyTo := max c.busyTo s.clock + n * t }

/-- Whether a request waits for channel `ch`: for its controller's grant, or as a write in its queue. -/
def State.waitsAt (s : State) (ch : Nat) : Bool :=
  s.bus.inflight.any (fun r => decide (r.target < 8) && !r.granted && s.channelOf r.addr == ch) ||
    (s.queue (ch / 2)).writes.any (fun w => s.channelOf w.granule == ch)

/-- Owed refreshes of channel `ch` repaid while no request of QoS 12 to 15 is queued for it: a run of at most 4 before a request that
waits, else run after run (R385).
(DEDUCED, log entry 64) -/
def State.repay (s : State) (ch : Nat) : State :=
  let owed := s.g (Reg.DMC.CH.OWED (ch / 2) (ch % 2))
  let waits := s.waitsAt ch
  if !s.chanRuns ch || owed == 0 || s.urgentAt ch || (waits && (s.chan ch).rest) then s
  else
    let n := if waits then min 4 owed else owed
    let s := (s.p (Reg.DMC.CH.OWED (ch / 2) (ch % 2)) (owed - n)).refreshed ch n
    s.setChan ch { s.chan ch with rest := decide (n < owed) }

/-- Every channel repays what it may (R385). -/
def State.repayAll (s : State) : State := allChannels.foldl (fun s ch => s.repay ch) s

/-- A refresh of channel `ch` falls due, where its interval has passed, a request of QoS 12 to 15 being queued for it, of those that the
commands carry or of others, or not (R383 to R385).
(DEDUCED, log entry 64) -/
def refreshDue (ch : Nat) (other : Bool) (s : State) : State :=
  if !s.chanRuns ch || decide (s.clock < (s.chan ch).refAt + s.refreshNs ch) then s
  else
    let k := ch / 2
    let c := ch % 2
    let s := s.setChan ch { s.chan ch with refAt := (s.chan ch).refAt + s.refreshNs ch }
    let owed := s.g (Reg.DMC.CH.OWED k c) + 1
    let t := s.p (Reg.DMC.CH.OWED k c) owed
    if other || s.urgentAt ch then
      if owed = 8 then (((s.p (Reg.DMC.CH.OWED k c) 7).inc (Reg.DMC.CH.FORCED k c)).refreshed ch 1).raise Ev.dramRefreshForced ch
      else t
    else t.repay ch

/-- Mode register 4 of channel `ch` has been read, 16 ms after it was last (R383). -/
def refreshRate (ch code : Nat) (s : State) : State :=
  if s.chanRuns ch && decide ((s.chan ch).rateAt + 16000000 ≤ s.clock) then
    (s.p (Reg.DMC.CH.RATE_CODE (ch / 2) (ch % 2)) code).setChan ch { s.chan ch with rateAt := s.clock }
  else s

/-! ### Set points (R393 to R397) -/

/-- Whether the reservations of the pages in force fit set point `f` (R394, order 3). -/
def State.budgetFits (s : State) (f : Nat) : Bool :=
  let cap := s.g Reg.SEQ.CTRL.BW_CAP_PCT
  let staged := s.g Reg.SEQ.STATUS.KEY_STATE == 1 || s.g Reg.SEQ.STATUS.KEY_STATE == 2
  s.livePage.all (fun p => bandwidthFits (s.page p) cap f) && (!staged || bandwidthFits (s.page s.stagePage) cap f)

/-- The first check of R394 that target `f` fails: 3 SAME, 4 NO_RESULTS, 5 BUDGET; 0 where all pass. -/
def State.fspCheck (s : State) (f : Nat) : Nat :=
  if s.g Reg.DMC.FSP_STATUS.CURRENT = f then 3
  else if !s.gb (Reg.DMC.FSP.TRAINED f) then 4
  else if !s.budgetFits f then 5
  else 0

/-- The slot open now: slots that overlap in time act as one, its DMC_MASK theirs merged, until the last of them ends; whether a slot of
kind CAL_FSP in it is open, and the nanoseconds left (R387).
(DEDUCED, log entry 65) -/
def State.openSlots (s : State) : Nat × Bool × Nat :=
  let left := s.dmc.slots.foldl (fun t (x : CalSlot) => max t (x.until_ - s.clock)) 0
  if left = 0 then (0, false, 0)
  else (s.dmc.slots.foldl (fun m (x : CalSlot) => m ||| x.mask) 0,
    s.dmc.slots.any (fun (x : CalSlot) => x.fsp && decide (s.clock < x.until_)), left)

/-- Whether the slot open now is of kind CAL_FSP for every controller (R395). -/
def State.fspSlot (s : State) : Bool := s.openSlots.2.1 && s.openSlots.1 == 255

/-- Whether a pending change may start now, but for the waits of R397: with no live page, or in the slot whose opening it met, while
that has 8 µs left (R395). -/
def State.fspMay (s : State) : Bool :=
  s.gb Reg.DMC.FSP_STATUS.PENDING && s.dmc.change.isNone &&
    (!s.gb Reg.SEQ.STATUS.LIVE_VALID || (s.dmc.opened && s.fspSlot && decide (8000 ≤ s.openSlots.2.2)))

/-- Whether a drift window or a retrain collects data (R397). -/
def State.collecting (s : State) : Bool := s.dmc.train.isSome || allChannels.any (fun ch => (s.chan ch).osc.isSome)

/-- What has been collected and not applied is discarded (R397). -/
def State.discardAll (s : State) : State :=
  let s := match s.dmc.train with
    | some t => { s with dmc := { s.dmc with train := none } }.trainEvent t.1 3
    | none => s
  allChannels.foldl (fun s ch =>
    if (s.chan ch).osc.isSome then (s.setChan ch { s.chan ch with osc := none }).trainEvent ch 3 else s) s

/-- Every controller that runs enters self-refresh, which satisfies every owed refresh (R386, R396). -/
def State.selfRefresh (s : State) : State :=
  (List.range 8).foldl (fun s k =>
    let s := (s.p (Reg.DMC.CH.OWED k 0) 0).p (Reg.DMC.CH.OWED k 1) 0
    if s.g (Reg.DMC.CTL.STATE k) = 2 then s.p (Reg.DMC.CTL.STATE k) 3 else s) s

/-- A change that may start does so where nothing collects; one whose slot has less than 8 µs left then waits for the next (R395,
R396). -/
def State.fspTry (s : State) : State :=
  if s.collecting then s
  else if s.fspMay then
    { s with dmc := { s.dmc with change := some (s.g Reg.DMC.FSP_STATUS.PENDING_TARGET), opened := false } }.selfRefresh
  else { s with dmc := { s.dmc with opened := false } }

/-- A GO of FSP_REQ (R394): what passes replaces a pending change, and waits for an opening that is still to come (R395). -/
def State.fspGo (s : State) : State :=
  let f := s.g Reg.DMC.FSP_REQ.TARGET
  let r := s.fspCheck f
  if r ≠ 0 then s.p Reg.DMC.FSP_STATUS.RESULT r
  else
    let s := { s with dmc := { s.dmc with opened := false } }
    (((s.p Reg.DMC.FSP_STATUS.RESULT 2).pb Reg.DMC.FSP_STATUS.PENDING true).p Reg.DMC.FSP_STATUS.PENDING_TARGET f).fspTry

/-- A write of FSP_REQ by master `m` (R394). -/
def fspWrite (m : Nat) (v : Word) (s : State) : State :=
  let s := s.writeFields m 0x10808020 v 0
  if fieldGet v 31 1 = 1 then s.fspGo else s

/-- A pending change starts once the collections it waited for have ended: a drift window lasts 1 µs, a retrain at most 2 µs (R395,
R397). -/
def fspStart (s : State) : State :=
  let ended := s.dmc.train.all (fun t => decide (t.2 + 2000 ≤ s.clock)) &&
    allChannels.all (fun ch => (s.chan ch).osc.all (fun t => decide (t + 1000 ≤ s.clock)))
  if s.coreOn && s.fspMay && ended then (s.discardAll).fspTry else s

/-! ### Calibration (R387 to R391) -/

/-- Every ZQ calibration due on the channels of controllers `mask` is latched (R388). -/
def State.zqLatch (s : State) (mask : Nat) : State :=
  allChannels.foldl (fun s ch =>
    if bitOf mask (ch / 2) && s.gb (Reg.DMC.CH.ZQ_PENDING (ch / 2) (ch % 2)) then
      (s.pb (Reg.DMC.CH.ZQ_PENDING (ch / 2) (ch % 2)) false).setChan ch { s.chan ch with zqAt := 0, zqOut := false }
    else s) s

/-- One retrain pending at the current set point starts on a controller of `mask`, where no channel retrains; which of
several, the spec does not say (R388, R397).
(DEDUCED, log entry 65) -/
def State.retrainOne (s : State) (mask : Nat) : State :=
  if s.dmc.train.isSome then s
  else
    let cur := s.g Reg.DMC.FSP_STATUS.CURRENT
    let due := allChannels.filter (fun ch => bitOf mask (ch / 2) && s.chanRuns ch && (s.chan ch).pend.contains cur)
    let start := fun (ch : Nat) =>
      { s with dmc := { s.dmc with train := some (ch, s.clock), ran := s.dmc.ran ||| 2 ^ (ch / 2) } }
    match due with
    | [] => s
    | [ch] => start ch
    | c :: cs => (start ((c :: cs).getD (s.freeNat % (c :: cs).length) c)).drawn

/-- One retrain of a controller that has had none in the slot that is open, where that leaves 2.0 µs (R388).
(DEDUCED, log entry 65) -/
def State.slotRetrain (s : State) : State :=
  let o := s.openSlots
  if 2000 ≤ o.2.2 then s.retrainOne (o.1 &&& (255 - s.dmc.ran)) else s

/-- Calibration that may run now: with no live page what falls due (R387), else in the slot that is open ZQ latches and a retrain, but
in one of kind CAL_FSP none while a set-point change is pending (R388, R395).
(DEDUCED, log entry 65) -/
def State.calServe (s : State) : State :=
  if s.dmc.change.isSome then s
  else if !s.gb Reg.SEQ.STATUS.LIVE_VALID then (s.zqLatch 255).retrainOne 255
  else if s.gb Reg.DMC.FSP_STATUS.PENDING && s.openSlots.2.1 then s
  else (s.zqLatch s.openSlots.1).slotRetrain

/-- A slot that every controller is free in for a set-point change opens: the checks of a pending change are made again (R394, R395).
(DEDUCED, log entry 65) -/
def State.fspOpen (s : State) : State :=
  if !s.gb Reg.DMC.FSP_STATUS.PENDING then s
  else if s.fspCheck (s.g Reg.DMC.FSP_STATUS.PENDING_TARGET) ≠ 0 then
    (s.pb Reg.DMC.FSP_STATUS.PENDING false).p Reg.DMC.FSP_STATUS.RESULT 5
  else { s with dmc := { s.dmc with opened := true } }.fspTry

/-- A slot opens (R387, R388, R395): calibration entry `i` of the course list that head `n` executes.
(DEDUCED, log entry 65) -/
def calSlotOpen (n i : Nat) (s : State) : State :=
  match s.headPage n with
  | none => s
  | some p =>
    let cals := (s.course p n).cals
    let e := cals.getD i 0
    if s.coreOn && s.headRuns n && decide (i < cals.length) then
      let alone := s.openSlots.2.2 == 0
      let was := s.fspSlot
      let slot : CalSlot := ⟨s.clock + 100 * ceDuration e, ceDmcMask e, ceCalKind e == 1⟩
      let t : State := { s with dmc := { s.dmc with
        slots := if alone then [slot] else s.dmc.slots ++ [slot]
        ran := if alone then 0 else s.dmc.ran, opened := s.dmc.opened && was } }
      (if t.fspSlot && !was then t.fspOpen else t).calServe
    else s

/-- A retrain of channel `ch` is pending at the current set point (R390). -/
def State.retrainDue (s : State) (ch : Nat) : State :=
  let c := s.chan ch
  let cur := s.g Reg.DMC.FSP_STATUS.CURRENT
  let s := s.pb (Reg.DMC.CH.RETRAIN_PENDING (ch / 2) (ch % 2)) true
  if c.pend.contains cur then s
  else s.setChan ch { c with
    pend := c.pend ++ [cur], pendAt := if c.pend = [] then s.clock else c.pendAt, pendOut := c.pendOut && c.pend != [] }

/-- What the slot that is open serves after a retrain that failed, which stays pending without another try in it (R388, R391).
(DEDUCED, log entry 65) -/
def State.slotNext (s : State) : State :=
  if s.gb Reg.SEQ.STATUS.LIVE_VALID then s.calServe else s

/-- The retrain that runs ends, with the oscillator's count at it where it passed; where a set-point change waits for it, its result is
discarded (R390, R391, R397). -/
def retrainDone (count : Option Nat) (s : State) : State :=
  match s.dmc.train with
  | none => s
  | some t =>
    if !s.coreOn then s
    else
      let ch := t.1
      let s := { s with dmc := { s.dmc with train := none } }
      if s.fspMay then (s.trainEvent ch 3).fspTry
      else match count with
        | some x =>
          let cur := s.g Reg.DMC.FSP_STATUS.CURRENT
          let c := s.chan ch
          let left := c.pend.filter (fun f => f != cur)
          let s := s.setChan ch { c with pend := left, pendOut := c.pendOut && left != [], trained := Tab.put 0 cur x c.trained }
          let s := s.pb (Reg.DMC.CH.RETRAIN_PENDING (ch / 2) (ch % 2)) (left != [])
          (((s.inc (Reg.DMC.CH.RETRAINS (ch / 2) (ch % 2))).trainEvent ch 1).fspTry).calServe
        | none => ((s.trainEvent ch 2).fspTry).slotNext

/-- The periodic drift windows of controller `k` start, 100 ms after they last did (R390).
(DESIGN CHOICE, log entry 98) -/
def driftWindow (k : Nat) (s : State) : State :=
  ([2 * k, 2 * k + 1] : List Nat).foldl (fun s ch =>
    if s.chanRuns ch && decide ((s.chan ch).oscAt + 100000000 ≤ s.clock) then
      s.setChan ch { s.chan ch with osc := some s.clock, oscAt := s.clock }
    else s) s

/-- The drift window of channel `ch` has lasted its 1 µs, its oscillator having counted `count`, which is compared with the count of the
channel's last training at this set point; where a set-point change waits for it, the count is not read (R390, R397). -/
def driftEnd (ch count : Nat) (s : State) : State :=
  match (s.chan ch).osc with
  | none => s
  | some t =>
    if !s.coreOn || decide (s.clock < t + 1000) then s
    else
      let s := s.setChan ch { s.chan ch with osc := none }
      if s.fspMay then (s.trainEvent ch 3).fspTry
      else
        let delta : Int := (count : Int) - Tab.get 0 (s.g Reg.DMC.FSP_STATUS.CURRENT) (s.chan ch).trained
        let s := s.p (Reg.DMC.CH.OSC_DELTA (ch / 2) (ch % 2)) (unsigned 16 delta)
        let s := s.fspTry
        if s.g Reg.DMC.CTRL.DRIFT_THR < delta.natAbs then (s.retrainDue ch).calServe else s

/-- The background ZQ calibration of the channels of controller `k` starts, 128 ms after it last did (R390).
(DEDUCED, log entry 65) -/
def zqStart (k : Nat) (s : State) : State :=
  (([2 * k, 2 * k + 1] : List Nat).foldl (fun s ch =>
    if s.chanRuns ch && decide ((s.chan ch).zqFrom + 128000000 ≤ s.clock) then
      let c := { s.chan ch with zqFrom := s.clock }
      if s.gb (Reg.DMC.CH.ZQ_PENDING (ch / 2) (ch % 2)) then s.setChan ch c
      else (s.pb (Reg.DMC.CH.ZQ_PENDING (ch / 2) (ch % 2)) true).setChan ch { c with zqAt := s.clock, zqOut := false }
    else s) s).calServe

/-- The running change ends (R396): a retrain kept for the set point that runs now may follow (R397). -/
def fspDone (s : State) : State :=
  match s.dmc.change with
  | none => s
  | some f =>
    if !s.coreOn then s
    else
      let s := { s with dmc := { s.dmc with change := none } }
      let s := (List.range 8).foldl (fun s k =>
        let s := s.p (Reg.DMC.CTL.FSP k) f
        if s.g (Reg.DMC.CTL.STATE k) = 3 then s.p (Reg.DMC.CTL.STATE k) 2 else s) s
      let s := ((s.p Reg.DMC.FSP_STATUS.CURRENT f).p Reg.DMC.FSP_STATUS.RESULT 1).inc Reg.DMC.FSP_STATUS.CHANGES
      let s := if s.g Reg.DMC.FSP_STATUS.PENDING_TARGET = f then s.pb Reg.DMC.FSP_STATUS.PENDING false else s
      let s := s.raise Ev.dramFspDone f
      (allChannels.foldl (fun s ch => s.setChan ch { s.chan ch with osc := some s.clock, refAt := s.clock }) s).calServe

/-- What has been pending on channel `ch` for 1 s raises NO_SLOT once each (R391). -/
def pendTimeout (ch : Nat) (s : State) : State :=
  if !s.coreOn then s
  else
    let late := fun (at_ : Nat) => decide (at_ + 1000000000 ≤ s.clock)
    let s := if (s.chan ch).pend != [] && !(s.chan ch).pendOut && late (s.chan ch).pendAt then
        (s.setChan ch { s.chan ch with pendOut := true }).trainEvent ch 4 else s
    if s.gb (Reg.DMC.CH.ZQ_PENDING (ch / 2) (ch % 2)) && !(s.chan ch).zqOut && late (s.chan ch).zqAt then
      (s.setChan ch { s.chan ch with zqOut := true }).trainEvent ch 4
    else s

/-! ### Errors and repair (R398 to R401) -/

/-- The place of a repair candidate of channel `ch`: where the row stands already, else the first place that is free, else
that of the lowest count (R400).
(DEDUCED, log entry 66) -/
def State.pprPlace (s : State) (ch bank row : Nat) : Nat :=
  let k := ch / 2
  let c := ch % 2
  let same := fun j => s.gb (Reg.DMC.CH.PPR.VALID k c j) && s.g (Reg.DMC.CH.PPR.BANK k c j) == bank &&
    s.g (Reg.DMC.CH.PPR.ROW k c j) == row
  match (List.range 4).find? same with
  | some j => j
  | none =>
    match (List.range 4).find? (fun j => !s.gb (Reg.DMC.CH.PPR.VALID k c j)) with
    | some j => j
    | none => (List.range 4).foldl (fun b j =>
        if s.g (Reg.DMC.CH.PPR.COUNT k c j) < s.g (Reg.DMC.CH.PPR.COUNT k c b) then j else b) 0

/-- The on-die ECC registers of channel `ch` have been read: its count, and the row with the most errors with its own
(R400), ECS_PERIOD_S after they were last.
(DEDUCED, log entry 66) -/
def ecsScan (ch total bank row count : Nat) (s : State) : State :=
  if !s.chanRuns ch || decide (s.clock < (s.chan ch).ecsAt + 1000000000 * s.g Reg.DMC.CTRL2.ECS_PERIOD_S) then s
  else
    let s := s.setChan ch { s.chan ch with ecsAt := s.clock }
    let k := ch / 2
    let c := ch % 2
    let s := s.p (Reg.DMC.CH.ODECC_COUNT k c) total
    if s.g Reg.DMC.CTRL2.PPR_THR ≤ count then
      if (s.chan ch).ecs = some (bank, row) then
        let j := s.pprPlace ch bank row
        let s := (s.pb (Reg.DMC.CH.PPR.VALID k c j) true).p (Reg.DMC.CH.PPR.BANK k c j) bank
        (s.p (Reg.DMC.CH.PPR.ROW k c j) row).p (Reg.DMC.CH.PPR.COUNT k c j) (min count 255)
      else s.setChan ch { s.chan ch with ecs := some (bank, row) }
    else s.setChan ch { s.chan ch with ecs := none }

/-- A GO of PPR_CMD (R401).
(DEDUCED, log entry 66) -/
def State.pprGo (s : State) : State :=
  let ch := s.g Reg.DMC.PPR_CMD.CH
  let j := s.g Reg.DMC.PPR_CMD.ENTRY
  if s.dmc.ppr.isSome then s
  else if allHeads.any (fun n => s.gb (Reg.HEAD.CTRL.ENABLE n) && !s.gb (Reg.HEAD.CTRL.SLEEP n)) then
    s.p Reg.DMC.PPR_CMD.RESULT 2
  else if !s.gb (Reg.DMC.CH.PPR.VALID (ch / 2) (ch % 2) j) then s.p Reg.DMC.PPR_CMD.RESULT 3
  else { s with dmc := { s.dmc with ppr := some (ch, j) } }

/-- A write of PPR_CMD by master `m` (R401). -/
def pprWrite (m : Nat) (v : Word) (s : State) : State :=
  let s := s.writeFields m 0x1080802C v 0
  if fieldGet v 31 1 = 1 then s.pprGo else s

/-- The DRAM address of channel `ch` at channel-local address `l` (R374). -/
def State.dramAt (s : State) (ch l : Nat) : Nat :=
  let u := l / 256
  let bit := fun i => (xor (ch.testBit i) (parity (u &&& s.g (Reg.DMC.HASH_MASK i)) 23)).toNat
  dramBase + u * 4096 + (bit 0 + 2 * bit 1 + 4 * bit 2 + 8 * bit 3) * 256 + l % 256

/-- The content of a row of 2 KiB is undefined (R375, R401). -/
def State.rowFree (s : State) (ch bank row : Nat) : State :=
  let l := row * 2 ^ 15 + (bank ^^^ (row % 16)) * 2 ^ 11
  (List.range 8).foldl (fun s i => s.storeFree (s.dramAt ch (l + 256 * i)) 256) s

/-- The repair that runs ends (R401).
(DEDUCED, log entry 66) -/
def pprDone (ok : Bool) (s : State) : State :=
  match s.dmc.ppr with
  | none => s
  | some t =>
    if !s.coreOn then s
    else
      let s := { s with dmc := { s.dmc with ppr := none } }
      if ok then
        let k := t.1 / 2
        let c := t.1 % 2
        let s := s.rowFree t.1 (s.g (Reg.DMC.CH.PPR.BANK k c t.2)) (s.g (Reg.DMC.CH.PPR.ROW k c t.2))
        (s.pb (Reg.DMC.CH.PPR.VALID k c t.2) false).p Reg.DMC.PPR_CMD.RESULT 1
      else s.p Reg.DMC.PPR_CMD.RESULT 4

/-- A write of DMC.CTRL by master `m`: LINK_ECC_EN is set before training alone, later writes of it are ignored and
logged. -/
def dmcCtrlWrite (m : Nat) (v : Word) (s : State) : State :=
  if s.g (Reg.DMC.CTL.STATE 0) = 0 then s.writeFields m 0x10808000 v 0
  else
    let s := if (fieldGet v 0 1 == 1) == s.gb Reg.DMC.CTRL.LINK_ECC_EN then s else s.logIgnored m 0x10808000 v
    s.writeFields m 0x10808000 v 1

/-! ### The commands -/

/-- SKEW_WINDOW (R377): the bytes that each channel moved in the window. -/
def execSkewWindow (dt : Nat) (bytes : List Nat) (s : State) : Out State := .next (skewWindow bytes (s.advance dt))

/-- REFRESH_DUE (R384): whether a request of QoS 12 to 15 that no command carries is queued for the channel. -/
def execRefreshDue (dt : Nat) (ch : Fin 16) (urgent : Bool) (s : State) : Out State :=
  .next (refreshDue ch.val urgent (s.advance dt))

/-- REFRESH_RATE_READ (R383): the code read. -/
def execRefreshRateRead (dt : Nat) (ch : Fin 16) (code : Fin 8) (s : State) : Out State :=
  .next (refreshRate ch.val code.val (s.advance dt))

/-- CAL_SLOT_OPEN (R388): the calibration entry of that number in the head's course list. -/
def execCalSlotOpen (dt : Nat) (n : Fin 64) (entry : Nat) (s : State) : Out State :=
  .next (calSlotOpen n.val entry (s.advance dt))

/-- DRAM_RETRAIN_DONE (R391): the oscillator's count at it, none where it failed. -/
def execDramRetrainDone (dt : Nat) (count : Option (BitVec 16)) (s : State) : Out State :=
  .next (retrainDone (count.map (fun x => x.toNat)) (s.advance dt))

/-- DRIFT_WINDOW (R390). -/
def execDriftWindow (dt : Nat) (k : Fin 8) (s : State) : Out State := .next (driftWindow k.val (s.advance dt))

/-- DRIFT_WINDOW_END (R390): the count read. -/
def execDriftWindowEnd (dt : Nat) (ch : Fin 16) (count : BitVec 16) (s : State) : Out State :=
  .next (driftEnd ch.val count.toNat (s.advance dt))

/-- ZQ_CALIBRATION_START (R390). -/
def execZqCalibrationStart (dt : Nat) (k : Fin 8) (s : State) : Out State := .next (zqStart k.val (s.advance dt))

/-- TRAIN_PENDING_TIMEOUT (R391). -/
def execTrainPendingTimeout (dt : Nat) (ch : Fin 16) (s : State) : Out State :=
  .next (pendTimeout ch.val (s.advance dt))

/-- FSP_REQUEST (R394): the set point. -/
def execFspRequest (dt : Nat) (m : Master) (target : Fin 4) (s : State) : Out State :=
  let v : Word := BitVec.ofNat 32 (2 ^ 31 + target.val)
  .next ((s.advance dt).ctlWrite m.val 0x10808020 v (fspWrite m.val v))

/-- FSP_CHANGE_START (R395). -/
def execFspChangeStart (dt : Nat) (s : State) : Out State := .next (fspStart (s.advance dt))

/-- FSP_CHANGE_DONE (R396). -/
def execFspChangeDone (dt : Nat) (s : State) : Out State := .next (fspDone (s.advance dt))

/-- ECS_SCAN (R400): the channel's count, and the row with the most errors. -/
def execEcsScan (dt : Nat) (ch : Fin 16) (total : Word) (bank : Fin 16) (row : BitVec 16) (count : Nat) (s : State) :
    Out State := .next (ecsScan ch.val total.toNat bank.val row.toNat count (s.advance dt))

/-- PPR_COMMAND (R401): the channel and its candidate entry. -/
def execPprCommand (dt : Nat) (m : Master) (ch : Fin 16) (entry : Fin 4) (s : State) : Out State :=
  let v : Word := BitVec.ofNat 32 (2 ^ 31 + 16 * entry.val + ch.val)
  .next ((s.advance dt).ctlWrite m.val 0x1080802C v (pprWrite m.val v))

/-- PPR_DONE (R401): whether the repair succeeded. -/
def execPprDone (dt : Nat) (ok : Bool) (s : State) : Out State := .next (pprDone ok (s.advance dt))

end Sys2Proof.Machine
end

