-- ==== Sys2Proof/Machine/ParamSets.lean ====
section
/-! DEFINITION. The parameter sets that an encode pipe codes, read by the syntax of H.264 and H.265 as far as R307 and R313 ask
something of it. -/

namespace Sys2Proof.Machine

/-! ### Reading bits -/

/-- The bytes of a NAL unit without emulation prevention, after `z` zero bytes. -/
def unemulate : Nat → List Byte → List Byte
  | _, [] => []
  | z, b :: bs => if 2 ≤ z ∧ b = 3 then unemulate 0 bs else b :: unemulate (if b = 0 then z + 1 else 0) bs

/-- The bits of bytes, the most significant first. -/
def byteBits (bs : List Byte) : List Bool := (bs.map (fun b => (List.range 8).map (fun k => bitOf b.toNat (7 - k)))).flatten

/-- A number of `n` bits, and the bits after it. -/
def readBits : Nat → List Bool → Nat × List Bool
  | 0, b => (0, b)
  | n + 1, b =>
    let r := readBits n (b.drop 1)
    ((b.headD false).toNat * 2 ^ n + r.1, r.2)

/-- The zeros before the first 1, and the bits after that. -/
def leadZeros : List Bool → Nat × List Bool
  | [] => (0, [])
  | true :: r => (0, r)
  | false :: r => ((leadZeros r).1 + 1, (leadZeros r).2)

/-- An Exp-Golomb number, and the bits after it. -/
def readGolomb (b : List Bool) : Nat × List Bool :=
  let z := leadZeros b
  let r := readBits z.1 z.2
  (2 ^ z.1 - 1 + r.1, r.2)

/-- Numbers of the widths given, 0 for an Exp-Golomb one, and the bits after them. -/
def readRun : List Nat → List Bool → List Nat × List Bool
  | [], b => ([], b)
  | n :: ns, b =>
    let x := if n = 0 then readGolomb b else readBits n b
    let r := readRun ns x.2
    (x.1 :: r.1, r.2)

/-- A flag, and where it is 1 numbers of the widths given. -/
def readIf (ns : List Nat) (b : List Bool) : List Nat × List Bool :=
  let f := readBits 1 b
  if f.1 = 1 then readRun ns f.2 else ([], f.2)

/-! ### The CPB model in the VUI (R313) -/

/-- A CPB model as signalled: its rate and its size, each as value and as the bits of its unit's scale, and cbr_flag. -/
structure HrdSigned where
  rate      : Nat
  rateScale : Nat
  size      : Nat
  sizeScale : Nat
  cbr       : Bool
deriving DecidableEq, Repr

/-- The bits after the VUI's aspect ratio, overscan, video signal and chroma location. -/
def vuiHead (b : List Bool) : List Bool :=
  let a := readIf [8] b
  let b := if a.1 = [255] then (readRun [16, 16] a.2).2 else a.2
  let b := (readIf [1] b).2
  let v := readIf [3, 1, 1] b
  let b := if v.1.getD 2 0 = 1 then (readRun [24] v.2).2 else v.2
  (readIf [0, 0] b).2

/-- The CPB model of the VUI of an H.264 stream. -/
def vuiHrd264 (b : List Bool) : Option HrdSigned :=
  let f := readBits 1 (readIf [32, 32, 1] (vuiHead b)).2
  if f.1 = 0 then none
  else
    let v := (readRun [0, 4, 4, 0, 0, 1] f.2).1
    some ⟨v.getD 3 0 + 1, v.getD 1 0 + 6, v.getD 4 0 + 1, v.getD 2 0 + 4, v.getD 5 0 == 1⟩

/-- The CPB model of the VUI of an H.265 stream. -/
def vuiHrd265 (b : List Bool) : Option HrdSigned :=
  let b := (readRun [1, 1, 1] (vuiHead b)).2
  let t := readIf [32, 32] (readIf [0, 0, 0, 0] b).2
  let h := readRun [1, 1, 1] (readIf [0] t.2).2
  if t.1.isEmpty ∨ h.1.getD 0 0 = 0 ∨ h.1.getD 1 0 = 0 then none
  else
    let sub := readIf [8, 5, 1, 5] h.2
    let s := readRun ([4, 4] ++ (if sub.1.isEmpty then [] else [4]) ++ [5, 5, 5, 1]) sub.2
    let fixed := if s.1.getLastD 0 = 1 then (1, s.2) else readBits 1 s.2
    let low := if fixed.1 = 1 then (0, (readGolomb fixed.2).2) else readBits 1 fixed.2
    let b := if low.1 = 0 then (readGolomb low.2).2 else low.2
    let v := (readRun ([0, 0] ++ (if sub.1.isEmpty then [] else [0, 0]) ++ [1]) b).1
    some ⟨v.getD 0 0 + 1, s.1.getD 0 0 + 6, v.getD 1 0 + 1, s.1.getD 1 0 + 4, v.getLastD 0 == 1⟩

/-- Whether a signalled value stands for `v` to its unit. -/
def unitGood (n scale v : Nat) : Bool := decide (v < (n + 1) * 2 ^ scale) && decide (n * 2 ^ scale < v + 2 ^ scale)

/-- Whether a CPB model is signalled as that of a rate, a size and CBR or not. -/
def hrdGood (rate size : Nat) (cbr : Bool) (h : Option HrdSigned) : Bool :=
  match h with
  | none => false
  | some x => unitGood x.rate x.rateScale rate && unitGood x.size x.sizeScale size && x.cbr == cbr

/-! ### Parameter sets (R307) -/

/-- What R307 and R313 ask of the parameter sets of a stream: the size coded, its blocks per row and rows of blocks, whether samples
have 10 bits, whether a long-term reference is used, and the CPB model where it is to be signalled: rate, size, CBR. -/
structure SetNeeds where
  w    : Nat
  h    : Nat
  cols : Nat
  rows : Nat
  ten  : Bool
  ltr  : Bool
  hrd  : Option (Nat × Nat × Bool)
deriving DecidableEq, Repr

/-- Whether a conformance window crops the padding away: its left, right, top and bottom, in units of two samples. -/
def SetNeeds.cropGood (n : SetNeeds) (side : Nat) (c : List Nat) : Bool :=
  let want := [0, (n.cols * side - n.w) / 2, 0, (n.rows * side - n.h) / 2]
  c == want || (c.isEmpty && want == [0, 0, 0, 0])

/-- Whether the VUI signals the CPB model where it is to. -/
def SetNeeds.vuiGood (n : SetNeeds) (vui : Bool) (hrd : Option HrdSigned) : Bool :=
  match n.hrd with
  | none => true
  | some (rate, size, cbr) => vui && hrdGood rate size cbr hrd

/-- Whether a sequence parameter set of H.264 is that of R307: High, level 51, 4:2:0 of 8 bits, frames, one reference, the size. -/
def SetNeeds.sps264 (n : SetNeeds) (b : List Bool) : Bool :=
  let a := readRun [8, 8, 8, 0, 0, 0, 0, 1, 1, 0, 0] b
  let p := a.1.getD 10 0
  let o := if p = 0 then (readRun [0] a.2).2
    else if p = 1 then
      let x := readRun [1, 0, 0, 0] a.2
      (readRun (List.replicate (x.1.getD 3 0) 0) x.2).2
    else a.2
  let c := readRun [0, 1, 0, 0, 1, 1] o
  let e := readIf [0, 0, 0, 0] c.2
  let v := readBits 1 e.2
  a.1.getD 0 0 == 100 && a.1.getD 2 0 == 51 && a.1.getD 4 0 == 1 && a.1.getD 5 0 == 0 && a.1.getD 6 0 == 0 &&
    a.1.getD 7 0 == 0 && a.1.getD 8 0 == 0 && c.1.getD 0 0 == 1 && c.1.getD 2 0 + 1 == n.cols && c.1.getD 3 0 + 1 == n.rows &&
    c.1.getD 4 0 == 1 && n.cropGood 16 e.1 && n.vuiGood (v.1 == 1) (vuiHrd264 v.2)

/-- Whether a picture parameter set of H.264 is that of R307: CABAC, one slice group, one reference, no weighted prediction, the 8 by 8
transform, no scaling matrix. -/
def pps264 (b : List Bool) : Bool :=
  let v := (readRun [0, 0, 1, 1, 0, 0, 0, 1, 2, 0, 0, 0, 1, 1, 1, 1, 1] b).1
  v.getD 2 0 == 1 && v.getD 4 0 == 0 && v.getD 5 0 == 0 && v.getD 7 0 == 0 && v.getD 8 0 == 0 && v.getD 14 0 == 0 &&
    v.getD 15 0 == 1 && v.getD 16 0 == 0

/-- The bits after `left` short-term reference picture sets, of which the one before has `deltas` entries. -/
def skipRps : Nat → Bool → Nat → List Bool → List Bool
  | 0, _, _, b => b
  | left + 1, first, deltas, b =>
    let inter := if first then (0, b) else readBits 1 b
    if inter.1 = 1 then
      let r := readRun [1, 0] inter.2
      let all := (List.range (deltas + 1)).foldl (fun (a : Nat × List Bool) _ =>
        let u := readBits 1 a.2
        if u.1 = 1 then (a.1 + 1, u.2)
        else
          let d := readBits 1 u.2
          (a.1 + d.1, d.2)) (0, r.2)
      skipRps left false all.1 all.2
    else
      let c := readRun [0, 0] inter.2
      let m := c.1.getD 0 0 + c.1.getD 1 0
      skipRps left false m (readRun (List.replicate m [0, 1]).flatten c.2).2

/-- Whether a sequence parameter set of H.265 is that of R307: Main 10, level 153, 4:2:0 at its depth, CTUs of 32 by 32 with transforms
from 4 by 4 to 32 by 32, SAO, none of the tools that R307 does not list, the size. -/
def SetNeeds.sps265 (n : SetNeeds) (b : List Bool) : Bool :=
  let a := readRun [4, 3, 1, 2, 1, 5, 32, 24, 24, 8, 0, 0, 0, 0] b
  let e := readIf [0, 0, 0, 0] a.2
  let c := readRun [0, 0, 0, 1, 0, 0, 0, 0, 0, 0, 0, 0, 0, 1, 1, 1, 1, 0] e.2
  let x := fun (k : Nat) => c.1.getD k 0
  let r := skipRps (x 17) true 0 c.2
  let l := readIf [0] r
  let lt := (readRun (List.replicate (l.1.getD 0 0) [x 2 + 4, 1]).flatten l.2).2
  let t := readRun [1, 1, 1] lt
  let depth := if n.ten then 2 else 0
  a.1.getD 1 0 == 0 && a.1.getD 5 0 == 2 && a.1.getD 9 0 == 153 && a.1.getD 11 0 == 1 && a.1.getD 12 0 == n.cols * 32 &&
    a.1.getD 13 0 == n.rows * 32 && n.cropGood 32 e.1 && x 0 == depth && x 1 == depth && x 7 + 3 + x 8 == 5 && x 9 == 0 &&
    x 10 == 3 && x 13 == 0 && x 14 == 0 && x 15 == 1 && x 16 == 0 && (!n.ltr || !l.1.isEmpty) && t.1.getD 0 0 == 0 &&
    t.1.getD 1 0 == 0 && n.vuiGood (t.1.getD 2 0 == 1) (vuiHrd265 t.2)

/-- Whether a picture parameter set of H.265 is that of R307: no tiles, no wavefront, none of the tools that R307 does not list. -/
def pps265 (b : List Bool) : Bool :=
  let a := readRun [0, 0, 1, 1, 3, 1, 1, 0, 0, 0, 1, 1] b
  let q := readIf [0] a.2
  let c := (readRun [0, 0, 1, 1, 1, 1, 1, 1] q.2).1
  a.1.getD 2 0 == 0 && a.1.getD 5 0 == 0 && a.1.getD 11 0 == 0 && c.getD 3 0 == 0 && c.getD 4 0 == 0 && c.getD 5 0 == 0 &&
    c.getD 6 0 == 0 && c.getD 7 0 == 0

/-- Whether a NAL unit is a parameter set as R307 and R313 have it.
(DESIGN CHOICE, log entry 96) -/
def SetNeeds.good (n : SetNeeds) (hevc : Bool) (bs : List Byte) : Bool :=
  let b := byteBits (unemulate 0 bs)
  let t := nalType hevc bs
  if hevc then t == 32 || (t == 33 && n.sps265 (b.drop 16)) || (t == 34 && pps265 (b.drop 16))
  else (t == 7 && n.sps264 (b.drop 8)) || (t == 8 && pps264 (b.drop 8))

/-- The parameter sets that an IDR carries before it, by NAL unit type.
(DESIGN CHOICE, log entry 96) -/
def setTypes (hevc : Bool) : List Nat := if hevc then [32, 33, 34] else [7, 8]

end Sys2Proof.Machine
end

