-- ==== Sys2Proof/Machine/Coding.lean ====
section
/-! DEFINITION. What an encode pipe codes: the input stages, the coding tools, the motion window, refresh cycles, tail mode and the
NAL units of the device's own (R307 to R313, R315, R319). What the pipe decides freely comes with the command that ends the
job. -/

namespace Sys2Proof.Machine

/-- Stream `i` beyond its registers. -/
def State.estr (s : State) (i : Nat) : EncStr := Tab.get EncStr.reset i s.enc.strs
def State.setEstr (s : State) (i : Nat) (x : EncStr) : State :=
  { s with enc := { s.enc with strs := Tab.put EncStr.reset i x s.enc.strs } }

/-- Encode pipe `n` beyond its registers. -/
def State.epipe (s : State) (n : Nat) : EncPipe := Tab.get EncPipe.reset n s.enc.pipes
def State.setEpipe (s : State) (n : Nat) (x : EncPipe) : State :=
  { s with enc := { s.enc with pipes := Tab.put EncPipe.reset n x s.enc.pipes } }

/-! ### Sizes (R307, R312, R315) -/

/-- Coded width and height of stream `i`, and whether its samples have 10 bits. -/
def State.encW (s : State) (i : Nat) : Nat := s.g (Reg.ENC.STR.OUT_W_M1 i) + 1
def State.encH (s : State) (i : Nat) : Nat := s.g (Reg.ENC.STR.OUT_H_M1 i) + 1
def State.encTen (s : State) (i : Nat) : Bool := s.gb (Reg.ENC.STR.CODEC i) && s.gb (Reg.ENC.STR.DEPTH10 i)

/-- Coded luma samples of a picture of stream `i`. -/
def State.encSamples (s : State) (i : Nat) : Nat := s.encW i * s.encH i

/-- The side of a coding block: a macroblock or a CTU. -/
def blockSide (hevc : Bool) : Nat := if hevc then 32 else 16

/-- Coding blocks per row, N, and block rows, R, of stream `i`: the picture is padded to whole blocks. -/
def State.encCols (s : State) (i : Nat) : Nat :=
  let b := blockSide (s.gb (Reg.ENC.STR.CODEC i))
  (s.encW i + b - 1) / b
def State.encRows (s : State) (i : Nat) : Nat :=
  let b := blockSide (s.gb (Reg.ENC.STR.CODEC i))
  (s.encH i + b - 1) / b

/-! ### The input stages (R310) -/

/-- A plane of samples: its width, its height, the sample at (x, y). -/
abbrev Plane := Nat × Nat × (Nat → Nat → Nat)

/-- A plane turned clockwise by `r` quarter turns. -/
def turnPlane (r : Nat) (p : Plane) : Plane :=
  let w := p.1
  let h := p.2.1
  if r = 1 then (h, w, fun x y => p.2.2 y (h - 1 - x))
  else if r = 2 then (w, h, fun x y => p.2.2 (w - 1 - x) (h - 1 - y))
  else if r = 3 then (h, w, fun x y => p.2.2 (w - 1 - y) x)
  else p

/-- A plane halved in height, or in width, two samples to one; and in both, by the box average of R173. -/
def halfRows (p : Plane) : Plane :=
  let at_ := fun (x y : Nat) => p.2.2 x (min y (p.2.1 - 1))
  (p.1, (p.2.1 + 1) / 2, fun x y => (at_ x (2 * y) + at_ x (2 * y + 1) + 1) / 2)
def halfCols (p : Plane) : Plane :=
  let at_ := fun (x y : Nat) => p.2.2 (min x (p.1 - 1)) y
  ((p.1 + 1) / 2, p.2.1, fun x y => (at_ (2 * x) y + at_ (2 * x + 1) y + 1) / 2)
def halfBox (p : Plane) : Plane :=
  let at_ := fun (x y : Nat) => p.2.2 (min x (p.1 - 1)) (min y (p.2.1 - 1))
  ((p.1 + 1) / 2, (p.2.1 + 1) / 2, fun x y =>
    box4 (at_ (2 * x) (2 * y)) (at_ (2 * x + 1) (2 * y)) (at_ (2 * x) (2 * y + 1)) (at_ (2 * x + 1) (2 * y + 1)))

/-- The Y, Cb and Cr planes of the picture `p` at 4:2:0, after rotation and conversion: stages 1 and 2. A quarter turn of 4:2:2
averages columns.
(DESIGN CHOICE, log entry 96) -/
def State.inputPlanes (s : State) (i : Nat) (p : Pic) : List Plane :=
  let r := s.g (Reg.ENC.STR.ROTATE i)
  let px := s.pixel p
  let luma : Plane := (p.w, p.h, fun x y => (px x y).c0)
  if p.fmt = 1 then
    let ycc := fun (x y : Nat) => wbYcc (s.g (Reg.ENC.STR.CSC i) == 1) (rgbWord ((px x y).c0, (px x y).c1, (px x y).c2))
    [turnPlane r (p.w, p.h, fun x y => (ycc x y).1), halfBox (turnPlane r (p.w, p.h, fun x y => (ycc x y).2.1)),
      halfBox (turnPlane r (p.w, p.h, fun x y => (ycc x y).2.2))]
  else if p.fmt = 0 then
    let half := if r % 2 = 1 then halfCols else halfRows
    let c := fun (k : Nat) => half (turnPlane r ((p.w + 1) / 2, p.h, fun x y => (px (min (2 * x + k) (p.w - 1)) y).c1))
    [turnPlane r luma, c 0, c 1]
  else
    let q : Pic := { p with addr := p.addr + ceilTo 256 (p.pitch * p.h), w := 2 * ((p.w + 1) / 2), h := (p.h + 1) / 2 }
    let c := fun (k : Nat) => turnPlane r ((p.w + 1) / 2, (p.h + 1) / 2, fun x y => (s.pixel q (2 * x + k) y).c0)
    [turnPlane r luma, c 0, c 1]

/-- A line of `n` samples scaled to `m`, at position `x`: 6 taps, 64 phases, a fixed coefficient set that the spec does not give, on
the grid of R190.
(DESIGN CHOICE, log entry 96) -/
def scaleLine (n m : Nat) (f : Nat → Nat) (x : Nat) : Nat :=
  let step : Int := ((n * 2 ^ 20 / m : Nat) : Int)
  let q := splitPos (((2 * (x : Int) + 1) * step) / 2 - 2 ^ 19)
  filterClip (tapSum 6 (fun t => Config.encCoef n m q.2 t * ((f (clampIdx n (q.1 - 2 + (t : Int))) : Nat) : Int)))

/-- A plane scaled to `w` by `h`: stage 3. -/
def scalePlane (w h : Nat) (p : Plane) : Plane :=
  (w, h, fun x y => scaleLine p.2.1 h (fun y => scaleLine p.1 w (fun x => p.2.2 x y) x) y)

/-- A sample of a buffer of 8 bits, or of 10, at the coded depth: stage 4.
(DESIGN CHOICE, log entry 96) -/
def codedDepth (in8 ten : Bool) (v : Nat) : Nat :=
  if in8 then (if ten then 4 * v else min 255 v) else if ten then v else min 255 ((v + 2) / 4)

/-- The samples of a plane, row by row. -/
def Plane.samples (p : Plane) : List Nat := ((List.range p.2.1).map (fun y => (List.range p.1).map (fun x => p.2.2 x y))).flatten

/-- A plane padded to `w` by `h` with its last column and row. -/
def padPlane (w h : Nat) (p : Plane) : Plane := (w, h, fun x y => p.2.2 (min x (p.1 - 1)) (min y (p.2.1 - 1)))

/-- The samples that stream `i` codes of buffer `b`: Y, then Cb, then Cr, padded to whole coding blocks (R307, R310). -/
def State.encInput (s : State) (i b : Nat) : List Nat :=
  let p := s.bufPic b
  let side := blockSide (s.gb (Reg.ENC.STR.CODEC i))
  ((s.inputPlanes i p).zipIdx.map (fun e =>
    let part := fun (n : Nat) => if e.2 = 0 then n else n / 2
    let coded := scalePlane (part (s.encW i)) (part (s.encH i)) e.1
    (Plane.samples (padPlane (part (s.encCols i * side)) (part (s.encRows i * side)) coded)).map
      (codedDepth (p.fmt == 4) (s.encTen i)))).flatten

/-! ### References (R308, R312) -/

/-- Bytes of one reference picture, and the number of them that a stream keeps. -/
def State.encRefBytes (s : State) (i : Nat) : Nat := ceilTo 4096 (packedBytes (s.encTen i) (s.encSamples i * 3 / 2))
def State.encRefs (s : State) (i : Nat) : Nat := if s.gb (Reg.ENC.STR.LTR_EN i) then 3 else 2

/-- The address of place `k` of the reference area. -/
def State.encRefAddr (s : State) (i k : Nat) : Nat := 4096 * s.g (Reg.ENC.STR.REF_BASE i) + k * s.encRefBytes i

/-- Whether the picture that stream `i` codes next is the long-term reference from then on: an IDR, and every LTR_PERIOD-th picture
after it (R308).
(DESIGN CHOICE, log entry 96) -/
def State.encLtr (s : State) (i : Nat) (idr : Bool) : Bool :=
  let n := s.g (Reg.ENC.STR.LTR_PERIOD i)
  s.gb (Reg.ENC.STR.LTR_EN i) && (idr || (n != 0 && (s.estr i).sinceIdr % n == 0))

/-- The reconstructed picture of job `j` stored in a place of the reference area that no reference holds: as the pipe made it, or,
for a repeat coded as skip, the picture before (R310, R312).
(DESIGN CHOICE, log entry 96) -/
def State.encStore (s : State) (j : EncJob) (recon : List Nat) : State :=
  let i := j.str
  let x := s.estr i
  let k := ((List.range (s.encRefs i)).find? (fun k => x.ref != some k && x.ltr != some k)).getD 0
  let size := packedBytes (s.encTen i) (s.encSamples i * 3 / 2)
  let bs := match j.again && !j.idr && j.refresh.isNone, x.ref with
    | true, some r => s.bytes (s.encRefAddr i r) size
    | _, _ => packSamples (s.encTen i) ((List.range (s.encSamples i * 3 / 2)).map (fun k => recon.getD k 0 % 1024))
  let ltr := if s.encLtr i j.idr then some k else if j.idr then none else x.ltr
  (s.store (s.encRefAddr i k) bs).setEstr i { x with ref := some k, ltr := ltr }

/-! ### Refresh cycles and the motion window (R309, R312) -/

/-- The place in its refresh cycle of the picture that stream `i` codes next (R309): the first cycle starts after the IDR.
(DESIGN CHOICE, log entry 96) -/
def State.refreshPlace (s : State) (i : Nat) (idr : Bool) : Option Nat :=
  if s.gb (Reg.ENC.STR.INTRA_REFRESH i) && !idr then
    some (((s.estr i).sinceIdr - 1) % s.g (Reg.ENC.STR.REFRESH_PERIOD i))
  else none

/-- The first column that picture `j` of a refresh cycle codes as intra (R309). -/
def State.refreshCol (s : State) (i j : Nat) : Nat := j * s.encCols i / s.g (Reg.ENC.STR.REFRESH_PERIOD i)

/-! ### The search window (R312) -/

/-- The size of the search window: 192 columns and 96 rows about a coding block. -/
def windowW (hevc : Bool) : Nat := blockSide hevc + 384
def windowH (hevc : Bool) : Nat := blockSide hevc + 192

/-- The window filled afresh at the start of block row `r`: over the blocks about column 0. -/
def windowFill (r : Nat) : EncWindow := ⟨r, 0⟩

/-- The window slid right by one block column: a new column of it is fetched and the left one dropped. -/
def EncWindow.slide (x : EncWindow) : EncWindow := { x with col := x.col + 1 }

/-- The window at block `k` of a picture of `n` block columns. -/
def windowAt (n k : Nat) : EncWindow := (List.range (k % n)).foldl (fun x _ => x.slide) (windowFill (k / n))

/-- Luma sample (x, y) of the search window of stream `i` over the reference in place `ref`: that of the reference picture, replicated
from its edge outside it. -/
def State.windowSample (s : State) (i ref : Nat) (win : EncWindow) (x y : Nat) : Nat :=
  let side := blockSide (s.gb (Reg.ENC.STR.CODEC i))
  let cx := clampIdx (s.encW i) ((win.col * side : Nat) - 192 + (x : Int))
  let cy := clampIdx (s.encH i) ((win.row * side : Nat) - 96 + (y : Int))
  packedSample (s.encTen i) (s.bytes (s.encRefAddr i ref) (s.encRefBytes i)) (cy * s.encW i + cx)

/-- Whether a vector reads inside the search window, interpolation taps included (R312). -/
def mvInside (hevc : Bool) (m : EncMv) : Bool :=
  let b : Int := (blockSide hevc : Nat)
  let before := fun (d : Int) => if d % 4 = 0 then (0 : Int) else if hevc then 3 else 2
  let after := fun (d : Int) => if d % 4 = 0 then (0 : Int) else if hevc then 4 else 3
  let ok := fun (at_ size : Nat) (d reach : Int) =>
    decide (-reach ≤ (at_ : Int) + d / 4 - before d) && decide ((at_ : Int) + (size : Int) - 1 + d / 4 + after d ≤ b - 1 + reach)
  decide (0 < m.w ∧ m.x + m.w ≤ blockSide hevc ∧ 0 < m.h ∧ m.y + m.h ≤ blockSide hevc) && ok m.x m.w m.dx 192 && ok m.y m.h m.dy 96

/-- The rightmost reference column that a vector of the block in column `c` reads. -/
def mvRight (hevc : Bool) (c : Nat) (m : EncMv) : Int :=
  ((c * blockSide hevc + m.x + m.w : Nat) : Int) - 1 + m.dx / 4 + (if m.dx % 4 = 0 then 0 else if hevc then 4 else 3)

/-- Whether a block that no tail mode cuts is one that the rules allow (R307 to R310, R312, R314): its QP, intra content where it
is called for, skip in a repeat, vectors in the window, and in the refreshed area only into columns refreshed before. -/
def State.blockGood (s : State) (j : EncJob) (k : Nat) (b : EncBlock) : Bool :=
  let i := j.str
  let hevc := s.gb (Reg.ENC.STR.CODEC i)
  let c := k % s.encCols i
  let lo := (j.refresh.map (fun p => s.refreshCol i p)).getD 0
  let hi := (j.refresh.map (fun p => s.refreshCol i (p + 1))).getD 0
  let intra := j.idr || (decide (lo ≤ c) && decide (c < hi))
  decide (s.g (Reg.ENC.STR.QP_MIN i) ≤ b.qp ∧ b.qp ≤ s.g (Reg.ENC.STR.QP_MAX i)) && (!intra || b.intra) &&
    (!b.intra || b.mvs.isEmpty) && (!j.again || intra || (!b.intra && b.mvs.isEmpty && decide (b.bits ≤ 8))) &&
    b.mvs.all (fun m => mvInside hevc m && (!m.long || (s.estr i).ltr.isSome) &&
      (decide (lo ≤ c) || (!m.long && decide (mvRight hevc c m < ((lo * blockSide hevc : Nat) : Int)))))

/-! ### Tail mode (R311, R315) -/

/-- A block coded as skip at QP_MAX. -/
def skipBlock (qp : Nat) : EncBlock := ⟨8, qp, false, []⟩

/-- The block from which a picture of `n` columns and `r` rows is coded in tail mode: the first from block `stop` on, or for which
the check of R315 fails; `u` bits stand before block `k`. -/
def tailScan (n r full stop : Nat) (bits : Nat → Nat) : Nat → Nat → Nat → Option Nat
  | 0, _, _ => none
  | fuel + 1, k, u =>
    if stop ≤ k then some k
    else if u + bits k + (n - k % n - 1) * 8 + (r - k / n - 1) * (64 + n * 8) ≤ full then
      tailScan n r full stop bits fuel (k + 1) (u + bits k)
    else some k

/-! ### NAL units (R307, R309, R313, R319) -/

/-- Bytes of an RBSP with emulation prevention, after `z` zero bytes. -/
def emulate : Nat → List Byte → List Byte
  | _, [] => []
  | z, b :: bs =>
    if z = 2 ∧ b.toNat ≤ 3 then 3 :: b :: emulate (if b = 0 then 1 else 0) bs
    else b :: emulate (if b = 0 then z + 1 else 0) bs

/-- Whether a NAL unit is the slice of an IDR, or of a P picture that is a reference (R307).
(DESIGN CHOICE, log entry 96) -/
def sliceGood (hevc idr : Bool) (bs : List Byte) : Bool :=
  let b := (bs.getD 0 0).toNat
  if hevc then (bs.getD 1 0) == 1 && b % 2 == 0 && b < 128 &&
    (if idr then [19, 20] else [1]).contains (nalType true bs)
  else decide (b < 128) && decide (32 ≤ b) && nalType false bs == (if idr then 5 else 1)

/-- C, in bits (R313). -/
def State.cpbSize (s : State) (i : Nat) : Nat := 1000 * s.g (Reg.ENC.STR.CPB_KBIT i)

/-- Ra, in bits per second (R313). -/
def State.cpbRate (s : State) (i : Nat) : Nat :=
  1000 * (if s.g (Reg.ENC.STR.RC i) = 2 then s.g (Reg.ENC.STR.MAX_BITRATE_KBPS i) else s.g (Reg.ENC.STR.BITRATE_KBPS i))

/-- What the parameter sets of stream `i` are to say (R307, R313). -/
def State.setNeeds (s : State) (i : Nat) : SetNeeds :=
  { w := s.encW i, h := s.encH i, cols := s.encCols i, rows := s.encRows i, ten := s.encTen i, ltr := s.gb (Reg.ENC.STR.LTR_EN i),
    hrd := if s.gb (Reg.ENC.STR.HRD_SEI i) then some (s.cpbRate i, s.cpbSize i, s.g (Reg.ENC.STR.RC i) == 0) else none }

/-- Whether the parameter sets of an access unit are those of R307, an IDR's complete. -/
def State.setsGood (s : State) (i : Nat) (idr : Bool) (sets : List (List Byte)) : Bool :=
  let hevc := s.gb (Reg.ENC.STR.CODEC i)
  sets.all ((s.setNeeds i).good hevc) && (!idr || (setTypes hevc).all (fun t => sets.any (fun bs => nalType hevc bs == t)))

/-- The payload type of an SEI NAL unit of one message. -/
def seiType (hevc : Bool) (bs : List Byte) : Nat :=
  if hevc then (if nalType true bs = 39 then (bs.getD 2 0).toNat else 255)
  else if nalType false bs = 6 then (bs.getD 1 0).toNat else 255

/-- The SEI messages of the CPB model that a picture carries: a buffering period with each IDR, a picture timing with each picture
(R313). -/
def State.hrdTypes (s : State) (i : Nat) (idr : Bool) : List Nat :=
  if s.gb (Reg.ENC.STR.HRD_SEI i) then (if idr then [0, 1] else [1]) else []

/-- An SEI NAL unit of one message. -/
def seiNal (hevc : Bool) (type : Nat) (payload : List Byte) : List Byte :=
  (if hevc then ([0x4E, 1] : List Byte) else [6]) ++
    emulate 0 ([BitVec.ofNat 8 type, BitVec.ofNat 8 payload.length] ++ payload ++ [0x80])

/-- The UUID of R319. -/
def tagUuid : List Byte := [0x6E, 0x76, 0x78, 0x2D, 0x70, 0x72, 0x6F, 0x76, 0x2D, 0x74, 0x61, 0x67, 0x2D, 0x76, 0x30, 0x31]

/-- The SEI NAL unit of a tag: a user-data-unregistered message of 52 bytes (R319). -/
def State.tagSei (s : State) (i : Nat) (hevc : Bool) (tag : List Byte) : List Byte :=
  seiNal hevc 5 (tagUuid ++ [1, BitVec.ofNat 8 (s.g Reg.SYS.STRAPS.UNIT_ID)] ++ leBytes i 2 ++ tag)

/-- The bits of an unsigned Exp-Golomb code. -/
def expGolomb (v : Nat) : List Bool :=
  let n := Nat.log2 (v + 1)
  List.replicate n false ++ (List.range (n + 1)).map (fun k => bitOf (v + 1) (n - k))

/-- Bits packed into bytes; a 1 and zeros fill up the last. -/
def rbspBytes (bs : List Bool) : List Byte :=
  let all := if bs.length % 8 = 0 then bs else bs ++ true :: List.replicate (7 - bs.length % 8) false
  (List.range (all.length / 8)).map (fun k =>
    BitVec.ofNat 8 (((List.range 8).map (fun j => if all.getD (8 * k + j) false then 2 ^ (7 - j) else 0)).sum))

/-- The recovery point SEI of the first picture of a refresh cycle of `n` pictures (R309); whether the match is exact, which the
spec leaves open, is `exact`.
(DESIGN CHOICE, log entry 96) -/
def recoverySei (hevc exact_ : Bool) (n : Nat) : List Byte :=
  let code := if hevc then expGolomb (2 * (n - 1) - 1) else expGolomb (n - 1)
  seiNal hevc 6 (rbspBytes (code ++ [exact_, false] ++ (if hevc then [] else [false, false])))

/-- A filler data NAL unit of `n` bytes, the smallest where `n` is less. -/
def fillerNal (hevc : Bool) (n : Nat) : List Byte :=
  let head : List Byte := if hevc then [0x4C, 1] else [12]
  head ++ List.replicate (n - head.length - 1) 0xFF ++ [0x80]

/-- Bits of an access unit.
(DESIGN CHOICE, log entry 52) -/
def auBits (nals : List (List Byte)) : Nat := 8 * (nals.map List.length).sum

/-- A tag with FLAGS bits set. -/
def tagWith (tag : List Byte) (flags : Nat) : List Byte :=
  tag.take 2 ++ leBytes (leNat ((tag.drop 2).take 2) ||| flags) 2 ++ tag.drop 4

/-- The NAL units of job `j` before its slice, in order: parameter sets, SEI of the CPB model, the recovery point, the tag with
REPEAT and TAIL (R309, R313, R319). -/
def State.encHead (s : State) (j : EncJob) (e : EncEnd) (tail : Bool) : List (List Byte) :=
  let i := j.str
  let hevc := s.gb (Reg.ENC.STR.CODEC i)
  e.units.params ++ e.units.sei ++
    (if j.refresh = some 0 then [recoverySei hevc (Config.freeBool s.free) (s.g (Reg.ENC.STR.REFRESH_PERIOD i))] else []) ++
    [s.tagSei i hevc (tagWith j.tag ((if j.again then 64 else 0) + (if tail then Fl.tail else 0)))]

/-- Block `k` as the pipe codes it; one that it does not say is skip. -/
def State.encBlock (s : State) (j : EncJob) (e : EncEnd) (k : Nat) : EncBlock :=
  e.blocks.getD k (skipBlock (s.g (Reg.ENC.STR.QP_MAX j.str)))

/-- The block from which job `j` is in tail mode: by R315, or by R311 from the first row of blocks whose check failed. -/
def State.encTail (s : State) (j : EncJob) (e : EncEnd) (gone : Bool) : Option Nat :=
  let i := j.str
  let n := s.encCols i
  let r := s.encRows i
  tailScan n r j.full (if gone then n * e.rows else n * r) (fun k => (s.encBlock j e k).bits) (n * r) 0
    (auBits (s.encHead j e false) + e.units.header)

/-- Whether a block of tail mode is one: skip at QP_MAX (R315). -/
def tailGood (qp : Nat) (b : EncBlock) : Bool := !b.intra && b.mvs.isEmpty && b.qp == qp && decide (b.bits ≤ 8)

/-- Whether a slice NAL unit is of the size of what it holds: its header and the blocks, to a whole byte, and in tail mode at most the
64 bits more that each later row may take (R315).
(DEDUCED, log entry 55) -/
def State.sliceSize (s : State) (j : EncJob) (e : EncEnd) (tail : Option Nat) : Bool :=
  let n := s.encCols j.str
  let r := s.encRows j.str
  let held := e.units.header + ((List.range (n * r)).map (fun k => (s.encBlock j e k).bits)).sum
  let size := 8 * (unemulate 0 e.units.slice).length
  let more := (tail.map (fun k => 64 * (r - k / n - 1))).getD 0
  decide (held ≤ size) && decide (size ≤ held + more + 7)

/-- Whether what a pipe says that it coded is what the rules let it code for job `j` (R307 to R315): one slice of the right kind and
size, parameter sets and SEI as they are to be, blocks up to tail mode as they may be and skip from there on, no more bits than the
CPB holds.
(DEDUCED, log entry 55) -/
def State.encCodes (s : State) (j : EncJob) (e : EncEnd) (tail : Option Nat) : Bool :=
  let i := j.str
  let hevc := s.gb (Reg.ENC.STR.CODEC i)
  let stop := min (tail.getD (s.encCols i * s.encRows i)) e.blocks.length
  sliceGood hevc j.idr e.units.slice && s.sliceSize j e tail && s.setsGood i j.idr e.units.params && e.units.sei.map (seiType hevc) == s.hrdTypes i j.idr &&
    (List.range stop).all (fun k => s.blockGood j k (s.encBlock j e k)) &&
    (e.blocks.drop stop).all (tailGood (s.g (Reg.ENC.STR.QP_MAX i))) &&
    (e.blocks.length == s.encCols i * s.encRows i || (!j.idr && j.refresh.isNone)) &&
    decide (auBits (s.encHead j e tail.isSome ++ [e.units.slice]) ≤ j.full)

end Sys2Proof.Machine
end

