-- ==== Sys2Proof/Machine/Encode.lean ====
section
/-! DEFINITION. The encode pipes and their scheduler: triggers, input, the coded picture buffer, jobs, network and ring
output, containment, enabling (R307 to R326). -/

namespace Sys2Proof.Machine

/-! ### Input (R310) -/

/-- The number of the last trigger instant at or before now: instants lie at whole multiples of PERIOD_90K (R310). -/
def State.trigIndex (s : State) (i : Nat) : Int := s.wall * 9 / ((s.g (Reg.ENC.STR.PERIOD_90K i) : Int) * 100000)

/-- The buffers that stream `i` reads: the coding ring of its entry's context, or the ring of its entry. -/
def State.encRing (s : State) (i : Nat) : List Nat :=
  let e := s.g (Reg.ENC.STR.SRC i)
  let j := s.g (Reg.ING.SRC.PORT_A e) % 4
  let c := s.g (Reg.ING.SRC.PORT_A e) / 4
  if s.g (Reg.ING.SRC.TYPE e) = 5 ∧ s.gb (Reg.ISP.CTX.CODE_EN j c) = true then s.codeRing j c
  else s.candidates e

/-- The READY buffer of newest SEQUENCE that stream `i` reads.
(DEDUCED, log entry 55) -/
def State.encNewest (s : State) (i : Nat) : Option Nat :=
  ((s.encRing i).filter (fun b => s.bufState b == Bs.ready)).foldl (fun (best : Option Nat) (b : Nat) =>
    match best with
    | none => some b
    | some a => if seqNewer (s.tag b).seq (s.tag a).seq then some b else some a) none

/-- The job of stream `i` that runs or is suspended. -/
def State.encJob (s : State) (i : Nat) : Option EncJob :=
  ([0, 1].map (fun n => (s.epipe n).job) ++ [0, 1].map (fun n => (s.epipe n).susp)).findSome?
    (fun (j : Option EncJob) => j.filter (fun (x : EncJob) => x.str == i && !x.gone))

/-- The SEQUENCE that stream `i` coded last, the picture being coded included. -/
def State.encCoded (s : State) (i : Nat) : Option Nat :=
  match s.encJob i with
  | some j => some j.seq
  | none => (s.estr i).done.map (fun _ => s.g (Reg.ENC.STR.LAST_SEQ i))

/-- What a trigger of stream `i` takes: the newest buffer, or a repeat, which carries the tag of what it repeats and takes that buffer
where it is READY with it still, or nothing before the first (R310).
(DEDUCED, log entry 54) -/
def State.encPick (s : State) (i : Nat) (m : Int) : Option EncPend :=
  let again := (s.encCoded i).map (fun q =>
    let t := match s.encJob i with
      | some j => (j.tag, j.count)
      | none => (s.estr i).done.getD ([], 0)
    let same := (s.encRing i).find? (fun b => s.bufState b == Bs.ready && (s.tag b).seq == q)
    (⟨m, s.clock, same, q, true, t.1, t.2⟩ : EncPend))
  match s.encNewest i with
  | none => again
  | some b =>
    let q := (s.tag b).seq
    let new : EncPend := ⟨m, s.clock, some b, q, false, [], 0⟩
    match s.encCoded i with
    | none => some new
    | some c => if seqNewer q c then some new else again

/-! ### The coded picture buffer (R313, R314) -/

/-- Bits that arrive at `rate` in `n` trigger periods, to the nearest bit.
(DEDUCED, log entry 53) -/
def State.arriving (s : State) (i rate n : Nat) : Nat := (rate * n * s.g (Reg.ENC.STR.PERIOD_90K i) + 45000) / 90000

/-- F of the picture of trigger `m`: what the last removal left and what has arrived since; VBR and CAPPED pause at C. -/
def State.cpbFull (s : State) (i : Nat) (m : Int) : Nat :=
  let f := s.g (Reg.ENC.STR.CPB_FULLNESS i) + s.arriving i (s.cpbRate i) (m - (s.estr i).remTrig).toNat
  if s.g (Reg.ENC.STR.RC i) = 0 then f else min f (s.cpbSize i)

/-- The target of a picture of fullness `f` (R314, R316); each step is rounded to the nearest bit, as the example of R316
does.
(DEDUCED, log entry 53) -/
def State.cpbTarget (s : State) (i f : Nat) (idr : Bool) : Nat :=
  let rate := 1000 * s.g (Reg.ENC.STR.BITRATE_KBPS i)
  let c := s.cpbSize i
  let t : Int := (4 * (s.arriving i rate 1 : Int) + (f : Int) - ((c / 2 : Nat) : Int) + 2) / 4
  let t := if idr then 4 * t else t
  let t := (clampInt ((c / 16 : Nat) : Int) f t).toNat
  if (s.estr i).tailed then (t * (100 - s.g (Reg.ENC.STR.TAIL_BACKOFF_PCT i)) + 50) / 100 else t

/-! ### Triggers (R310, R317, R324) -/

/-- A trigger instant of stream `i`. -/
def encTrigger (i : Nat) (s : State) : State :=
  let m := s.trigIndex i
  if !s.coreOn || !s.gb (Reg.ENC.STR.ENABLE i) || m == (s.estr i).lastTrig then s
  else
    let x := s.estr i
    match s.encPick i m with
    | none => s.setEstr i { x with lastTrig := m }
    | some p =>
      let s := if x.pend.isSome then s.inc (Reg.ENC.STR.LATE i) else s
      let first := s.g (Reg.ENC.STR.STATE i) == 1
      let x := { x with lastTrig := m, pend := some p, remTrig := if first then m else x.remTrig }
      let s := s.setEstr i x
      if first then
        (s.p (Reg.ENC.STR.CPB_FULLNESS i)
          (min (s.cpbSize i) (s.cpbRate i * s.g (Reg.ENC.STR.CPB_DELAY_MS i) / 1000))).p (Reg.ENC.STR.STATE i) 2
      else s

/-! ### Scheduling (R308, R317) -/

/-- Whether stream `i` is ready for a pipe. -/
def State.encReady (s : State) (i : Nat) : Bool :=
  s.gb (Reg.ENC.STR.ENABLE i) && (s.estr i).pend.isSome && (s.encJob i).isNone

/-- The stream that the scheduler takes next: the highest class, then the oldest trigger (R317). -/
def State.encCandidate (s : State) : Option Nat :=
  ((List.range 32).filter (fun i => s.encReady i)).foldl (fun (best : Option Nat) (i : Nat) =>
    match best with
    | none => some i
    | some b =>
      let key := fun k => (s.g (Reg.ENC.STR.CLASS k), ((s.estr k).pend.map (fun (p : EncPend) => p.time)).getD 0)
      if (key i).1 < (key b).1 ∨ ((key i).1 = (key b).1 ∧ (key i).2 < (key b).2) then some i else some b) none

/-- Whether the next picture of stream `i` is an IDR (R308).
(DEDUCED, log entry 54) -/
def State.encIdr (s : State) (i : Nat) : Bool :=
  let n := s.g (Reg.ENC.STR.IDR_PERIOD i)
  (s.estr i).idrNext || (n != 0 && decide (n ≤ (s.estr i).sinceIdr))

/-- The job of stream `i` starts on pipe `n`, running from a clock. -/
def State.encStart (s : State) (n i from_ : Nat) : State :=
  let x := s.estr i
  match x.pend with
  | none => s
  | some p =>
    let new := p.buf.filter (fun _ => !p.again)
    let tag := match new with
      | some b => (s.bytes (tagAddr b) 32, s.arrival b)
      | none => (p.tag, p.count)
    let idr := s.encIdr i
    let full := s.cpbFull i p.trig
    let j : EncJob := {
      str := i, cls := s.g (Reg.ENC.STR.CLASS i), trig := p.trig, buf := p.buf,
      seq := match new with
        | some b => (s.tag b).seq
        | none => p.seq,
      again := p.again,
      tag := tag.1, count := tag.2, idr := idr, refresh := s.refreshPlace i idr, full := full, rate := s.cpbRate i,
      goal := s.cpbTarget i full idr, startAt := from_, used := 0, ranAt := from_,
      limit := 4 * expectedCycles (s.encSamples i), gone := false }
    let y := s.epipe n
    ((s.setEstr i { x with pend := none, idrNext := false }).setEpipe n { y with
      job := some j, times := y.times.began s.clock, window := windowFill 0, refs := x.ref.toList ++ x.ltr.toList, store := s.free }).drawn

/-- Whether pipe `n` may take a job of class `c`. -/
def State.encTakes (s : State) (n c : Nat) : Bool :=
  s.gb (Reg.ENC.PIPE.ENABLE n) && (s.epipe n).job.isNone && !(s.epipe n).times.inPhase s.clock &&
    (match (s.epipe n).susp with
      | none => true
      | some j => decide (c < j.cls))

/-- The suspended job of an idle pipe resumes, once it is restored, its search windows refilled, which takes at most 30 µs (R144,
R317). -/
def State.encResume (s : State) (n : Nat) : State :=
  let x := s.epipe n
  match x.job, x.susp with
  | none, some j =>
    if x.times.inPhase s.clock then s
    else
      let at_ := s.clock + s.freeNs 30000
      ((s.setEpipe n { x with
        job := some { j with ranAt := at_ }, susp := none, times := (x.times.began s.clock).phased 4 at_
        refs := (s.estr j.str).ref.toList ++ (s.estr j.str).ltr.toList, store := s.free + 1 }).p
          (Reg.ENC.STR.STATE j.str) 2).drawn.drawn
  | _, _ => s

/-- ENCODE_DISPATCH on pipe `n` (R317). -/
def encDispatch (n : Nat) (s : State) : State :=
  if !s.coreOn then s
  else match s.encCandidate with
    | none => s.encResume n
    | some i => if s.encTakes n (s.g (Reg.ENC.STR.CLASS i)) then s.encStart n i s.clock else s.encResume n

/-- The cycles a running job has counted: 800 MHz from the clock it last ran from (R148, R318). -/
def EncJob.cycles (j : EncJob) (clock : Nat) : Nat := j.used + (clock - j.ranAt) * 4 / 5

/-- The times of encode pipe `n` once its job has left it. -/
def State.epipeLeft (s : State) (n : Nat) : PipeTimes :=
  let x := s.epipe n
  match x.job with
  | some j => x.times.ended s.clock j.limit (j.cycles s.clock)
  | none => x.times

/-- A job that its stream's stop abandoned leaves pipe `n` at its row boundary (R325). -/
def State.encGone (s : State) (n : Nat) : State :=
  (s.setEpipe n { s.epipe n with job := none, times := s.epipeLeft n }).codecEnds

/-- The running job `j` of pipe `n` is saved to the pipe's save area, in at most 30 µs, and held there (R144, R317).
(DEDUCED, log entry 55) -/
def State.encSave (s : State) (n : Nat) (j : EncJob) : State :=
  let x := s.epipe n
  let at_ := s.clock + s.freeNs 30000
  let s := (s.setEpipe n { x with
    job := none, susp := some { j with used := j.cycles s.clock }, times := (s.epipeLeft n).phased 3 at_ }).drawn.codecEnds
  let base := 4096 * s.g (Reg.ENC.PIPE.SAVE_BASE n)
  let s := if s.inDram base 262144 then s.storeFree base 262144 else s
  (s.inc (Reg.ENC.PIPE.PREEMPTS n)).p (Reg.ENC.STR.STATE j.str) 3

/-- The pipe whose job gives way to a LIVE job (R144, R317). -/
def State.encVictim (s : State) : Option Nat :=
  (([0, 1] : List Nat).filter (fun n => s.gb (Reg.ENC.PIPE.ENABLE n) && (s.epipe n).susp.isNone &&
      decide (0 < (((s.epipe n).job.map (fun (j : EncJob) => j.cls)).getD 0)))).foldl
    (fun (best : Option Nat) (n : Nat) =>
      let key := fun k => (((s.epipe k).job.map (fun (j : EncJob) => (j.cls, j.startAt))).getD (0, 0))
      match best with
      | none => some n
      | some b => if (key b).1 < (key n).1 ∨ ((key b).1 = (key n).1 ∧ (key b).2 < (key n).2) then some n else some b) none

/-- At a row boundary the job of the selected pipe is saved, and the LIVE job starts there (R144, R317). A job whose stream has
stopped is abandoned at this boundary instead, and any pipe's (R325). -/
def encPreempt (n : Nat) (s : State) : State :=
  match (s.epipe n).job with
  | none => s
  | some j =>
    if !s.coreOn then s
    else if j.gone then s.encGone n
    else match s.encCandidate with
      | none => s
      | some i =>
        if s.g (Reg.ENC.STR.CLASS i) == 0 && s.encVictim == some n && !s.encTakes 0 0 && !s.encTakes 1 0 then
          let s := s.encSave n j
          s.encStart n i (s.epipe n).times.till
        else s

/-! ### Network output (R320 to R322) -/

/-- The ones' complement checksum of an IPv4 header. -/
def ipChecksum (h : List Byte) : Nat :=
  let sum := (List.range (h.length / 2)).foldl (fun acc k => acc + beAt h (2 * k) 2) 0
  let fold := fun (x : Nat) => x % 65536 + x / 65536
  65535 - fold (fold sum)

/-- A UDP datagram of stream `i` as an Ethernet frame, without its FCS.
(DEDUCED, log entry 54) -/
def State.udpFrame (s : State) (i dport : Nat) (data : List Byte) : List Byte :=
  let port := s.g (Reg.ENC.STR.PORT i)
  let q := port / 4
  let l := port % 4
  let head := fun (sum : Nat) =>
    leBytes 0x45 1 ++ leBytes (4 * s.g (Reg.ENC.STR.DSCP i)) 1 ++ beBytes (28 + data.length) 2 ++ beBytes 0 4 ++
      leBytes (s.g (Reg.ENC.STR.TTL i)) 1 ++ leBytes 17 1 ++ beBytes sum 2 ++ beBytes (s.g (Reg.NET.PORT.IPV4 q l)) 4 ++
      beBytes (s.g (Reg.ENC.STR.DST_IP i)) 4
  beBytes (s.g (Reg.ENC.STR.DST_MAC_HI i)) 2 ++ beBytes (s.g (Reg.ENC.STR.DST_MAC_LO i)) 4 ++
    beBytes (s.g (Reg.NET.PORT.MAC_HI q l)) 2 ++ beBytes (s.g (Reg.NET.PORT.MAC_LO q l)) 4 ++ [8, 0] ++
    head (ipChecksum (head 0)) ++ beBytes (s.g (Reg.ENC.STR.SRC_UDP i)) 2 ++ beBytes dport 2 ++
    beBytes (8 + data.length) 2 ++ beBytes 0 2 ++ data

/-- The fragments of a NAL unit, at most `fuel`: each with its S and E bits. -/
def fuParts : Nat → Bool → Nat → List Byte → List (Nat × List Byte)
  | 0, _, _, _ => []
  | fuel + 1, first, size, bs =>
    if bs.length ≤ size then [((if first then 128 else 0) + 64, bs)]
    else ((if first then 128 else 0), bs.take size) :: fuParts fuel false size (bs.drop size)

/-- The RTP payloads of a NAL unit: itself, or fragmentation units (R320). -/
def rtpPayloads (hevc : Bool) (size : Nat) (nal : List Byte) : List (List Byte) :=
  if nal.length ≤ size then [nal]
  else
    let b0 := (nal.getD 0 0).toNat
    if hevc then
      (fuParts nal.length true (size - 3) (nal.drop 2)).map (fun f =>
        leBytes (b0 / 128 * 128 + 98 + b0 % 2) 1 ++ leBytes (nal.getD 1 0).toNat 1 ++ leBytes (f.1 + b0 / 2 % 64) 1 ++ f.2)
    else
      (fuParts nal.length true (size - 2) (nal.drop 1)).map (fun f =>
        leBytes (b0 / 32 * 32 + 28) 1 ++ leBytes (f.1 + b0 % 32) 1 ++ f.2)

/-- RTP payloads of an access unit sent in order, the last with the marker (R320); the port keeps what the access unit sends.
(DEDUCED, log entry 54) -/
def State.rtpSend (s : State) (i ts : Nat) (first : Bool) : List (List Byte) → State
  | [] => s
  | pl :: rest =>
    let x := s.estr i
    let head := leBytes 0x80 1 ++ leBytes ((if rest.isEmpty then 128 else 0) + s.g (Reg.ENC.STR.PT i)) 1 ++
      beBytes x.rtpSeq 2 ++ beBytes ts 4 ++ beBytes (s.g (Reg.ENC.STR.SSRC i)) 4
    let frame := s.udpFrame i (s.g (Reg.ENC.STR.DST_UDP i)) (head ++ pl)
    let s := if first then frameTransmit (s.g (Reg.ENC.STR.PORT i)) frame none s else frameAlso (s.g (Reg.ENC.STR.PORT i)) frame s
    let s := s.setEstr i { x with
      rtpSeq := (x.rtpSeq + 1) % 65536, pkts := (x.pkts + 1) % 2 ^ 32, octets := (x.octets + pl.length) % 2 ^ 32 }
    s.rtpSend i ts false rest

/-- An RTP timestamp: a time in 90 kHz ticks (R320, R321). -/
def ticks90 (ns : Int) : Nat := unsigned 32 (ns * 9 / 100000)

/-- An access unit of stream `i` sent, or dropped for want of the grant (R322). -/
def State.auSend (s : State) (i : Nat) (hevc : Bool) (cap : Int) (nals : List (List Byte)) : State :=
  if s.granted then
    s.rtpSend i (ticks90 cap) true (nals.map (rtpPayloads hevc (s.g (Reg.ENC.STR.PAYLOAD_MAX i)))).flatten
  else s.inc (Reg.ENC.STR.TX_DROP i)

/-- A sender report of stream `i` (R321).
(DEDUCED, log entry 54) -/
def senderReportOut (i : Nat) (s : State) : State :=
  let x := s.estr i
  if s.coreOn && s.gb (Reg.ENC.STR.ENABLE i) && s.gb (Reg.ENC.STR.OUT_NET i) && s.g (Reg.ENC.STR.STATE i) != 1 &&
      s.timeState == 2 && s.granted && decide (1000000 * s.g (Reg.ENC.STR.SR_INTERVAL_MS i) ≤ s.clock - x.srAt) then
    let w := s.wall
    let sec : Int := w / nsPerSec + 2208988800 - s.g Reg.ING.CTRL.TAI_UTC
    let data := ([0x80, 200, 0, 6] : List Byte) ++ beBytes (s.g (Reg.ENC.STR.SSRC i)) 4 ++ beBytes (unsigned 32 sec) 4 ++
      beBytes (wallNs w * 2 ^ 32 / 1000000000) 4 ++ beBytes (ticks90 w) 4 ++ beBytes x.pkts 4 ++ beBytes x.octets 4
    (frameTransmit (s.g (Reg.ENC.STR.PORT i)) (s.udpFrame i ((s.g (Reg.ENC.STR.DST_UDP i) + 1) % 65536) data) none s).setEstr i
      { x with srAt := s.clock }
  else s

/-! ### Ring output (R323) -/

/-- Where a record of `len` bytes goes in the ring of stream `i`; none where it lacks room (R117, R323). -/
def State.encRecordAt (s : State) (i len : Nat) : Option Nat :=
  let size := 1024 * s.g (Reg.ENC.STR.RING_SIZE_KB i)
  let wr := s.g (Reg.ENC.STR.RING_WR i)
  let rd := s.g (Reg.ENC.STR.RING_RD i)
  if rd ≤ wr then
    if wr + len < size ∨ (wr + len = size ∧ 0 < rd) then some wr else if len < rd then some 0 else none
  else if wr + len < rd then some wr
  else none

/-- The access unit of job `j` written by pipe `n` as a record, or dropped (R323), and the address of a write that met an error
response. -/
def State.encRecord (s : State) (n : Nat) (j : EncJob) (nals : List (List Byte)) : State × Option Nat :=
  let i := j.str
  let data := annexOf nals
  let arrival := bitOf (leNat ((j.tag.drop 2).take 2)) 1
  let len := 32 + (data.length + 31) / 32 * 32
  let head := leBytes data.length 4 ++ leBytes (2 * arrival.toNat + 4 * j.idr.toNat) 2 ++ leBytes 0 2 ++
    (j.tag.drop 8).take 10 ++ leBytes j.count 8 ++ leBytes 0 2 ++ leBytes j.seq 4
  match s.encRecordAt i len with
  | none => ((s.inc (Reg.ENC.STR.RING_DROP i)).setEstr i { s.estr i with idrNext := true }, none)
  | some off =>
    let a := 256 * s.g (Reg.ENC.STR.RING_BASE i) + off
    let w := s.dmaWrite (33 + n) (classQos j.cls) a (head ++ data ++ List.replicate (len - 32 - data.length) 0)
    if !w.2 then (w.1, some a)
    else
      let s := w.1.p (Reg.ENC.STR.RING_WR i) (if off + len = 1024 * s.g (Reg.ENC.STR.RING_SIZE_KB i) then 0 else off + len)
      (if s.gb (Reg.ENC.STR.DONE_EVT i) then s.raise Ev.encDone i else s, none)

/-! ### Completion and aborts (R311, R316, R318) -/

/-- The buffer that job `j` reads: a repeat in which every block is skipped reads none (R310). -/
def EncJob.reads (j : EncJob) : Option Nat := if j.again && !j.idr && j.refresh.isNone then none else j.buf

/-- Whether a buffer that job `j` reads is no longer READY with the SEQUENCE it had at job start (R311). -/
def State.inputGone (s : State) (j : EncJob) : Bool :=
  match j.reads with
  | none => false
  | some b => s.bufState b != Bs.ready || (s.tag b).seq != j.seq

/-- LOAD_MPIX of the encode pipes (R317, R326). -/
def State.encLoad (s : State) : Nat :=
  min 2047 (((s.enc.loads.filter (fun x => decide (s.clock < x.1 + 100000000))).map (fun x => x.2)).sum / 100000)

/-- A job of stream `i` leaves pipe `n`, counted. -/
def State.encLeave (s : State) (n i : Nat) : State :=
  let s := ((s.busTraffic (33 + n)).setEpipe n { s.epipe n with job := none, times := s.epipeLeft n }).codecEnds
  let kept := s.enc.loads.filter (fun x => decide (s.clock < x.1 + 100000000))
  ({ s with enc := { s.enc with loads := kept ++ [(s.clock, s.encSamples i + 6500)] } }).inc (Reg.ENC.PIPE.JOBS n)

/-- The NAL units of the access unit of job `j`, and in CBR the filler that holds the CPB to C (R313, R319). -/
def State.auOf (s : State) (j : EncJob) (e : EncEnd) (tail : Bool) : List (List Byte) :=
  let i := j.str
  let au := s.encHead j e tail ++ [e.units.slice]
  let due := j.full + s.arriving i j.rate 1 - s.cpbSize i
  if s.g (Reg.ENC.STR.RC i) = 0 ∧ auBits au < due then
    au ++ [fillerNal (s.gb (Reg.ENC.STR.CODEC i)) ((due - auBits au + 7) / 8)]
  else au

/-- The counters of a picture that job `j` coded in `bits` bits. -/
def State.encCount (s : State) (j : EncJob) (bits : Nat) (tail changed : Bool) : State :=
  let i := j.str
  let s := (s.inc (Reg.ENC.STR.PICTURES i)).p (Reg.ENC.STR.LAST_BITS i) bits
  let s := (s.p (Reg.ENC.STR.CPB_FULLNESS i) (j.full - bits)).p (Reg.ENC.STR.LAST_SEQ i) j.seq
  let s := if j.again then s.inc (Reg.ENC.STR.REPEATS i) else s
  let s := if changed then s.inc (Reg.ENC.STR.INPUT_CHANGED i) else s
  let s := if tail then (s.inc (Reg.ENC.STR.TAILS i)).raise Ev.encTail i else s
  s.setEstr i { s.estr i with
    done := some (j.tag, j.count), remTrig := j.trig, sinceIdr := if j.idr then 1 else (s.estr i).sinceIdr + 1,
    tailed := tail }

/-- What an abort of the job of pipe `n` does but for the fault log (R318): the master is reset and the pipe resets itself within
20 µs, the abort is counted and raised, and the stream's next picture is an IDR.
(DEDUCED, log entry 55) -/
def State.encAbandon (s : State) (n : Nat) : State :=
  match (s.epipe n).job with
  | none => s
  | some j =>
    let i := j.str
    let s := s.masterReset (33 + n)
    let x := s.epipe n
    let s := (s.setEpipe n { x with times := x.times.phased 5 (s.clock + s.freeNs 20000) }).drawn
    if j.gone then s.encGone n
    else
    let s := s.encLeave n i
    let s := (s.inc (Reg.ENC.PIPE.ABORTS n)).inc (Reg.ENC.STR.ABORTS i)
    (s.setEstr i { s.estr i with idrNext := true }).raise Ev.encDone (i + 256)

/-- An abort of the job of pipe `n`, with its fault record (R318). -/
def State.encAbort (s : State) (n cause addr : Nat) : State :=
  match (s.epipe n).job with
  | none => s
  | some j =>
    let f : DecFault := ⟨n, j.str, cause, addr, j.seq⟩
    if j.gone then s.encAbandon n
    else
    (if s.enc.faults.length < 16 then { s with enc := { s.enc with faults := s.enc.faults ++ [f] } }
      else s.pb Reg.ENC.SHARED.FAULT_STATUS.OVF true).encAbandon n

/-- Job `j` of pipe `n` completes with an access unit: its input taken, its reconstruction stored, its counts, and the access unit
sent (R310 to R323). -/
def State.encComplete (s : State) (n : Nat) (j : EncJob) (e : EncEnd) (au : List (List Byte)) (tail changed : Bool) : State :=
  let i := j.str
  let input := (j.reads.map (fun b => s.encInput i b)).getD []
  let cols := s.encCols i
  let s := s.encLeave n i
  let s := (s.setEpipe n { s.epipe n with input := input, window := windowAt cols (cols * s.encRows i - 1) }).encStore j e.recon
  let s := (s.encCount j (auBits au) tail changed).drawn
  let cap := wallOf (leNat ((j.tag.drop 8).take 6)) (leNat ((j.tag.drop 14).take 4))
  if s.gb (Reg.ENC.STR.OUT_NET i) then s.auSend i (s.gb (Reg.ENC.STR.CODEC i)) cap au else s

/-- ENCODE_JOB_DONE on pipe `n`: what the pipe coded. The input is found changed where the buffer is gone and the check of some row
of blocks failed (R311); tail mode follows from the sizes (R315); an error response to the write of the record aborts the job (R318). What the rules do not let a pipe code is no end of a job.
(DEDUCED, log entry 55) -/
def encJobDone (n : Nat) (e : EncEnd) (s : State) : State :=
  match (s.epipe n).job with
  | none => s
  | some j =>
    let i := j.str
    let changed := s.inputGone j && decide (e.rows < s.encRows i)
    let tail := s.encTail j e changed
    if !s.coreOn then s
    else if j.gone then s.encGone n
    else if !s.encCodes j e tail then s
    else
      let au := s.auOf j e tail.isSome
      let r := if s.gb (Reg.ENC.STR.OUT_RING i) then s.encRecord n j au else (s, none)
      match r.2 with
      | some a => r.1.encAbort n 5 a
      | none => r.1.encComplete n j e au tail.isSome changed

/-- ENCODE_WATCHDOG on pipe `n` (R318). -/
def encWatchdog (n : Nat) (s : State) : State :=
  match (s.epipe n).job with
  | none => s
  | some j => if s.coreOn && decide (j.limit ≤ j.cycles s.clock) then s.encAbort n 3 0 else s

/-- One past the last byte of the picture of buffer `b`, its chroma plane included (R174, R318). -/
def State.picEnd (s : State) (b : Nat) : Nat :=
  let p := s.bufPic b
  if p.fmt = 4 ∨ p.fmt = 5 then p.addr + ceilTo 256 (p.pitch * p.h) + p.pitch * ((p.h + 1) / 2) else p.addr + p.pitch * p.h

/-- The sandbox of job `j` on pipe `n` (R318): whether an access at `a` lies in a window that takes it. -/
def State.encWindow (s : State) (n : Nat) (j : EncJob) (a : Nat) (write : Bool) : Bool :=
  let i := j.str
  within (4096 * s.g (Reg.ENC.STR.REF_BASE i)) (2 ^ 20 * s.g (Reg.ENC.STR.REF_MB i)) a ||
    within (4096 * s.g (Reg.ENC.PIPE.SAVE_BASE n)) 262144 a ||
    (if write then within (256 * s.g (Reg.ENC.STR.RING_BASE i)) (1024 * s.g (Reg.ENC.STR.RING_SIZE_KB i)) a
    else j.buf.any (fun b => within (s.bufPic b).addr (s.picEnd b - (s.bufPic b).addr) a))

/-- ENCODE_ACCESS_FAULT on pipe `n` (R318): an access that its window takes faults no sandbox. -/
def encAccessFault (n : Nat) (f : JobFault) (a : Nat) (s : State) : State :=
  match (s.epipe n).job with
  | none => s
  | some j =>
    if !s.coreOn then s
    else match f with
      | .sbxRead => if s.encWindow n j a false then s else s.encAbort n 1 a
      | .sbxWrite => if s.encWindow n j a true then s else s.encAbort n 2 a
      | .storeEcc => s.encAbort n 4 0
      | .busError =>
        if s.encWindow n j a false || s.encWindow n j a true then (s.memError (33 + n) (classQos j.cls) a).encAbort n 5 a else s

/-- A read of the ENC fault word by master `m`: the oldest record is removed and its SEQUENCE snapshot (R326). -/
def encFaultRead (m : Nat) (s : State) : State × Word :=
  match s.enc.faults with
  | [] => (s.setSnaps m [(0x1030400C, 0)], 0)
  | f :: rest =>
    (({ s with enc := { s.enc with faults := rest } }).setSnaps m [(0x1030400C, BitVec.ofNat 32 f.seq)],
      BitVec.ofNat 32 (2 ^ 31 + f.ctx * 2 ^ 16 + f.pipe * 2 ^ 8 + f.cause))

/-! ### Enabling and disabling (R324 to R326) -/

/-- The buffers of the entry that stream `i` reads, whatever their state. -/
def State.encBuffers (s : State) (i : Nat) : List Nat :=
  let e := s.g (Reg.ENC.STR.SRC i)
  let j := s.g (Reg.ING.SRC.PORT_A e) % 4
  let c := s.g (Reg.ING.SRC.PORT_A e) / 4
  if s.g (Reg.ING.SRC.TYPE e) = 5 ∧ s.gb (Reg.ISP.CTX.CODE_EN j c) = true then s.codeRing j c else s.ring e

/-- Whether an output size is from a quarter to twice an input size. -/
def ratioGood (inp out : Nat) : Bool := decide (inp ≤ 4 * out ∧ out ≤ 2 * inp)

/-- Whether a stream's coded size lies outside R307 or its scaling outside R310. -/
def State.encBadSize (s : State) (i : Nat) : Bool :=
  let w := s.g (Reg.ENC.STR.OUT_W_M1 i) + 1
  let h := s.g (Reg.ENC.STR.OUT_H_M1 i) + 1
  !(decide (64 ≤ w ∧ w ≤ 4096 ∧ 64 ≤ h ∧ h ≤ 2304) && w % 2 == 0 && h % 2 == 0) ||
    (s.encBuffers i).any (fun b =>
      let p := s.bufPic b
      let turned := s.g (Reg.ENC.STR.ROTATE i) % 2 == 1
      !(ratioGood (if turned then p.h else p.w) w && ratioGood (if turned then p.w else p.h) h))

/-- The first check of R324 that stream `i` fails; 0 where all pass.
(DEDUCED, log entry 55) -/
def State.encCheck (s : State) (i : Nat) : Nat :=
  let e := s.g (Reg.ENC.STR.SRC i)
  let f := fun (r : Nat → FRef) => s.g (r i)
  let area := 2 ^ 20 * f Reg.ENC.STR.REF_MB
  let p := f Reg.ENC.STR.PORT
  if !s.gb (Reg.ING.SRC.ENABLE e) || s.g (Reg.ING.SRC.TYPE e) == 7 ||
      (s.encBuffers i).any (fun b => !([0, 1, 4, 5].contains (s.bufPic b).fmt)) then 1
  else if s.encBadSize i then 2
  else if f Reg.ENC.STR.BITRATE_KBPS = 0 ∨ f Reg.ENC.STR.CPB_KBIT = 0 ∨ f Reg.ENC.STR.PERIOD_90K = 0 ∨
      (f Reg.ENC.STR.RC = 2 ∧ f Reg.ENC.STR.MAX_BITRATE_KBPS < f Reg.ENC.STR.BITRATE_KBPS) ∨
      f Reg.ENC.STR.QP_MAX < f Reg.ENC.STR.QP_MIN ∨ (f Reg.ENC.STR.LTR_EN = 1 ∧ f Reg.ENC.STR.CODEC = 0) then 3
  else if !s.inDram (4096 * f Reg.ENC.STR.REF_BASE) area || decide (area < s.encRefs i * s.encRefBytes i) ||
      (f Reg.ENC.STR.OUT_RING == 1 && !s.inDram (256 * f Reg.ENC.STR.RING_BASE) 1) then 4
  else if f Reg.ENC.STR.OUT_NET = 1 ∧ s.portOn (p / 4) (p % 4) = false then 5
  else 0

/-- Stream `i` starts, its counters cleared (R324); its first RTP sequence number is a value the spec leaves open. -/
def State.strStart (s : State) (i : Nat) : State :=
  let s := [Reg.ENC.STR.PICTURES, Reg.ENC.STR.TAILS, Reg.ENC.STR.INPUT_CHANGED, Reg.ENC.STR.REPEATS,
    Reg.ENC.STR.RING_DROP, Reg.ENC.STR.TX_DROP, Reg.ENC.STR.ABORTS, Reg.ENC.STR.LATE].foldl
      (fun s (r : Nat → FRef) => s.p (r i) 0) s
  let s := (s.p (Reg.ENC.STR.STATE i) 1).pb (Reg.ENC.STR.ENABLE i) true
  (s.setEstr i { EncStr.reset with
    lastTrig := s.trigIndex i, idrNext := true, srAt := s.clock, rtpSeq := s.freeNat % 65536 }).drawn

/-- Stream `i` stops at once (R325): a running job is left to its next row boundary, a suspended one discarded.
(DEDUCED, log entry 55) -/
def State.strStop (s : State) (i : Nat) : State :=
  let s := ([0, 1] : List Nat).foldl (fun s n =>
    let x := s.epipe n
    s.setEpipe n { x with
      job := x.job.map (fun (j : EncJob) => if j.str = i then { j with gone := true } else j)
      susp := x.susp.filter (fun (j : EncJob) => j.str != i) }) s
  ((s.setEstr i EncStr.reset).p (Reg.ENC.STR.STATE i) 0).pb (Reg.ENC.STR.ENABLE i) false

/-- A write of the first word of stream `i` by master `m`: its RWK fields, FORCE_IDR, then ENABLE (R308, R324, R325). -/
def strCtrlWrite (m i : Nat) (v : Word) (s : State) : State :=
  let was := s.gb (Reg.ENC.STR.ENABLE i)
  let s := s.writeFields m (Reg.ENC.STR.ENABLE i).addr v 1
  let s := if was && fieldGet v 31 1 == 1 then s.setEstr i { s.estr i with idrNext := true } else s
  if fieldGet v 0 1 = 1 then
    if was then s
    else
      let r := s.encCheck i
      let s := s.p (Reg.ENC.STR.ENABLE_RESULT i) r
      if r = 0 then s.strStart i else s.logIgnored m (Reg.ENC.STR.ENABLE i).addr v
  else if was then s.strStop i
  else s

/-- The grant is gained: the next picture of each stream with OUT_NET is an IDR (R308). -/
def State.encGrantRise (s : State) : State :=
  (List.range 32).foldl (fun s i =>
    if s.gb (Reg.ENC.STR.ENABLE i) && s.gb (Reg.ENC.STR.OUT_NET i) then s.setEstr i { s.estr i with idrNext := true }
    else s) s

/-- A write of the first word of encode pipe `n` by master `m` (R326). -/
def encPipeWrite (m n : Nat) (v : Word) (s : State) : State :=
  let a := (Reg.ENC.PIPE.ENABLE n).addr
  if fieldGet v 0 1 = 0 then (s.pb (Reg.ENC.PIPE.ENABLE n) false).clkRefresh
  else if s.inDram (4096 * s.g (Reg.ENC.PIPE.SAVE_BASE n)) 262144 then (s.pb (Reg.ENC.PIPE.ENABLE n) true).clkRefresh
  else ((s.pb (Reg.ENC.PIPE.ENABLE n) false).clkRefresh).logIgnored m a v

/-- A write of SAVE_BASE of encode pipe `n` by master `m`, ignored and logged while the pipe is enabled (R326). -/
def encSaveWrite (m n : Nat) (v : Word) (s : State) : State :=
  let a := (Reg.ENC.PIPE.SAVE_BASE n).addr
  if s.gb (Reg.ENC.PIPE.ENABLE n) then s.logIgnored m a v else s.writeFields m a v 0

/-! ### What the registers show (R326) -/

/-- The status word of encode pipe `n`. -/
def State.encStatusWord (s : State) (n : Nat) : Word :=
  let x := s.epipe n
  let phase := if x.times.inPhase s.clock then x.times.phase
    else if x.job.isSome then 2
    else if s.gb (Reg.ENC.PIPE.ENABLE n) || x.susp.isSome then 1
    else 0
  match x.job with
  | some j => BitVec.ofNat 32 (j.str * 2 ^ 16 + j.cls * 2 ^ 4 + phase)
  | none => BitVec.ofNat 32 phase

/-- BUSY_PCT of encode pipe `n`. -/
def State.encBusyWord (s : State) (n : Nat) : Word :=
  BitVec.ofNat 32 ((s.epipe n).times.pct (s.epipe n).job.isSome s.clock)

/-- WD_COUNT of encode pipe `n`. -/
def State.encCountWord (s : State) (n : Nat) : Word :=
  BitVec.ofNat 32 (((s.epipe n).job.map (fun (j : EncJob) => j.cycles s.clock)).getD (s.epipe n).times.count)

/-- The fault status word of the encode pipes. -/
def State.encFaultWord (s : State) : Word :=
  BitVec.ofNat 32 ((s.gb Reg.ENC.SHARED.FAULT_STATUS.OVF).toNat * 2 ^ 31 + s.enc.faults.length)

/-! ### The commands -/

/-- ENCODE_TRIGGER (R310). -/
def execEncodeTrigger (dt : Nat) (i : Fin 32) (s : State) : Out State := .next (encTrigger i.val (s.advance dt))

/-- ENCODE_DISPATCH (R317). -/
def execEncodeDispatch (dt : Nat) (n : Fin 2) (s : State) : Out State := .next (encDispatch n.val (s.advance dt))

/-- ENCODE_PREEMPT (R317). -/
def execEncodePreempt (dt : Nat) (n : Fin 2) (s : State) : Out State := .next (encPreempt n.val (s.advance dt))

/-- ENCODE_JOB_DONE (R313): what the pipe coded. -/
def execEncodeJobDone (dt : Nat) (n : Fin 2) (units : EncUnits) (blocks : List EncBlock) (rows : Nat) (recon : List Nat) (s : State) :
    Out State := .next (encJobDone n.val ⟨units, blocks, rows, recon⟩ (s.advance dt))

/-- ENCODE_WATCHDOG (R318). -/
def execEncodeWatchdog (dt : Nat) (n : Fin 2) (s : State) : Out State := .next (encWatchdog n.val (s.advance dt))

/-- ENCODE_ACCESS_FAULT (R318): the cause and the address. -/
def execEncodeAccessFault (dt : Nat) (n : Fin 2) (f : JobFault) (a : BitVec 36) (s : State) : Out State :=
  .next (encAccessFault n.val f a.toNat (s.advance dt))

/-- ENC_SENDER_REPORT (R321). -/
def execEncSenderReport (dt : Nat) (i : Fin 32) (s : State) : Out State := .next (senderReportOut i.val (s.advance dt))

/-- ENCODE_STREAM_ENABLE (R324). -/
def execEncodeStreamEnable (dt : Nat) (m : Master) (i : Fin 32) (s : State) : Out State :=
  let s := s.advance dt
  let v := s.fieldWord (Reg.ENC.STR.ENABLE i.val) 1
  .next (s.ctlWrite m.val (Reg.ENC.STR.ENABLE i.val).addr v (strCtrlWrite m.val i.val v))

/-- ENCODE_STREAM_DISABLE (R325). -/
def execEncodeStreamDisable (dt : Nat) (m : Master) (i : Fin 32) (s : State) : Out State :=
  let s := s.advance dt
  let v := s.fieldWord (Reg.ENC.STR.ENABLE i.val) 0
  .next (s.ctlWrite m.val (Reg.ENC.STR.ENABLE i.val).addr v (strCtrlWrite m.val i.val v))

/-- FORCE_IDR (R308). -/
def execForceIdr (dt : Nat) (m : Master) (i : Fin 32) (s : State) : Out State :=
  let s := s.advance dt
  let v := s.fieldWord (Reg.ENC.STR.FORCE_IDR i.val) 1
  .next (s.ctlWrite m.val (Reg.ENC.STR.FORCE_IDR i.val).addr v (strCtrlWrite m.val i.val v))

/-- ENC_PIPE_ENABLE (R326): the value of ENABLE. -/
def execEncPipeEnable (dt : Nat) (m : Master) (n : Fin 2) (on : Bool) (s : State) : Out State :=
  let v : Word := BitVec.ofNat 32 on.toNat
  .next ((s.advance dt).ctlWrite m.val (Reg.ENC.PIPE.ENABLE n.val).addr v (encPipeWrite m.val n.val v))

/-- ENC_FAULT_READ (R326). -/
def execEncFaultRead (dt : Nat) (m : Master) (s : State) : Out State :=
  let s := s.advance dt
  .next (s.ctlRead m.val 0x10304004 (encFaultRead m.val s))

end Sys2Proof.Machine
end

