-- ==== Sys2Proof/Machine/Touch.lean ====
section
/-! DEFINITION. Console touch sensing: frames, baselines, contacts and their tracking, mapping, reports, the self-test and
the standby scan (R327 to R348). -/

namespace Sys2Proof.Machine

/-- Panel `p` beyond its registers. -/
def State.panel (s : State) (p : Nat) : TchPanel := Tab.get TchPanel.reset p s.tch.panels
def State.setPanel (s : State) (p : Nat) (x : TchPanel) : State :=
  { s with tch := { s.tch with panels := Tab.put TchPanel.reset p x s.tch.panels } }

/-- The drive lines and the sense lines of panel `p`. -/
def State.tchRows (s : State) (p : Nat) : Nat := s.g (Reg.TCH.PANEL.TX_COUNT p)
def State.tchCols (s : State) (p : Nat) : Nat := s.g (Reg.TCH.PANEL.RX_COUNT p)

/-- The number of groups of 16 drive lines (R330). -/
def State.tchGroups (s : State) (p : Nat) : Nat := (s.tchRows p + 15) / 16

/-- The registers whose values a frame takes at its start (R340, R347). -/
def tchTaken (p : Nat) : List Nat :=
  [0x100D0000, 0x100D000C, 0x100D0010, 0x100D0014, 0x100D0018] ++
    (List.range 8).map (fun k => 0x100D0200 + 0x80 * p + 4 * k)

/-- A field as the frame took it. -/
def TchPanel.f (x : TchPanel) (r : FRef) : Nat := fieldGet (Tab.get 0 r.addr x.cfg) r.lo r.width

/-- A signed coefficient as the frame took it. -/
def TchPanel.z (x : TchPanel) (r : FRef) : Int := signed r.width (x.f r)

/-- The panels in use. -/
def State.panelsOn (s : State) : List Nat := [0, 1].filter (fun p => s.gb (Reg.TCH.PANEL.ENABLE p))

/-- Whether touch drives its lines (R23, R332, R345). -/
def State.tchDrives (s : State) : Bool :=
  s.coreOn && s.gb Reg.TCH.CTRL.ENABLE && s.granted && s.engRunning 22 &&
    (s.g Reg.TCH.STATUS.STATE == 2 || s.g Reg.TCH.STATUS.STATE == 3)

/-! ### Raw values (R329) -/

/-- Whether line `i` of a group is driven in anti-phase in step `k`: the order-16 Sylvester Hadamard matrix (R329). -/
def hadamardNeg (k i : Nat) : Bool := parity (k &&& i) 4

/-- The raw value of node (r, c) from the counts of the drive steps (R329).
(PRESUMED, log entry 56) -/
def rawValue (steps : List (List Nat)) (r c : Nat) : Nat :=
  let sum := (List.range 16).foldl (fun (acc : Int) k =>
    let d : Int := (min 65535 (((steps.getD (16 * (r / 16) + k) []).getD c 32768)) : Nat) - 32768
    if hadamardNeg k (r % 16) then acc - d else acc + d) 0
  (clampInt 0 65535 (32768 + (sum + 8) / 16)).toNat

/-- The raw values of a panel of `rows` by `cols` nodes, in row order. -/
def rawValues (steps : List (List Nat)) (rows cols : Nat) : List Nat :=
  ((List.range rows).map (fun r => (List.range cols).map (rawValue steps r))).flatten

/-- Whether a listen step shows another unit's drive (R331). -/
def foreignSeen (thr : Nat) (listens : List (List Nat)) : Bool :=
  listens.any (fun l => l.any (fun v => decide (min 65535 v + thr < 32768 ∨ 32768 + thr < min 65535 v)))

/-! ### Regions (R335, R336) -/

/-- Whether two nodes of a panel with `cols` columns touch, corners included. -/
def nodesTouch (cols a b : Nat) : Bool :=
  decide (a / cols ≤ b / cols + 1 ∧ b / cols ≤ a / cols + 1 ∧ a % cols ≤ b % cols + 1 ∧ b % cols ≤ a % cols + 1)

/-- The nodes that join a region: `front` has still to be spread from, `rest` has not joined. At most `fuel` nodes. -/
def spread (cols : Nat) : Nat → List Nat → List Nat → List Nat → List Nat × List Nat
  | 0, front, got, rest => (got ++ front, rest)
  | _ + 1, [], got, rest => (got, rest)
  | fuel + 1, a :: front, got, rest =>
    let r := rest.partition (nodesTouch cols a)
    spread cols fuel (front ++ r.1) (got ++ [a]) r.2

/-- The 8-connected regions of a set of nodes, at most `fuel`. -/
def regionsOf (cols : Nat) : Nat → List Nat → List (List Nat)
  | 0, _ => []
  | _ + 1, [] => []
  | fuel + 1, a :: rest =>
    let r := spread cols (rest.length + 1) [a] [] rest
    r.1 :: regionsOf cols fuel r.2

/-- The regions of the nodes of a panel that satisfy `p`. -/
def regionsWhere (rows cols : Nat) (p : Nat → Bool) : List (List Nat) :=
  let ns := (List.range (rows * cols)).filter p
  regionsOf cols ns.length ns

/-- The delta of node `k` (R334). -/
def TchPanel.delta (x : TchPanel) (k : Nat) : Int := ((x.base.getD k 0 : Nat) : Int) - (x.raw.getD k 0 : Nat)

/-- The neighbours of a node. -/
def nodeRing (rows cols k : Nat) : List Nat :=
  let cand := (List.range 9).map (fun j => (k / cols + j / 3, k % cols + j % 3))
  ((cand.filter (fun c => decide (1 ≤ c.1 ∧ c.1 ≤ rows ∧ 1 ≤ c.2 ∧ c.2 ≤ cols))).map
    (fun c => (c.1 - 1) * cols + (c.2 - 1))).filter (fun n => n != k)

/-- The nodes of anti-touch regions (R335). -/
def TchPanel.antiNode (x : TchPanel) (k : Nat) : Bool :=
  decide (x.delta k ≤ -((x.f Reg.TCH.ANTI_THRESHOLD : Nat) : Int))

/-- The blobs of a panel (R336, step 1). -/
def TchPanel.blobs (x : TchPanel) (rows cols : Nat) : List (List Nat) :=
  (regionsWhere rows cols (fun k => decide (((x.f Reg.TCH.TOUCH_THRESHOLD : Nat) : Int) ≤ x.delta k) && !x.antiNode k)).filter
    (fun b => decide (x.f Reg.TCH.MIN_AREA ≤ b.length))

/-- Whether a node of a blob is a peak (R336, step 2). -/
def TchPanel.peak (x : TchPanel) (rows cols k : Nat) : Bool :=
  (nodeRing rows cols k).all (fun n => decide (x.delta n ≤ x.delta k))

/-- The node that steepest ascent from `k` reaches next: the neighbour of greatest delta, of lowest row and then lowest
column (R336, step 2). -/
def TchPanel.ascent (x : TchPanel) (rows cols k : Nat) : Nat :=
  (nodeRing rows cols k).foldl (fun (b n : Nat) => if x.delta b < x.delta n then n else b) k

/-- The peak node that steepest ascent from `k` ends at, in at most `fuel` steps. -/
def TchPanel.climb (x : TchPanel) (rows cols : Nat) : Nat → Nat → Nat
  | 0, k => k
  | fuel + 1, k => if x.peak rows cols k then k else x.climb rows cols fuel (x.ascent rows cols k)

/-- A contact found in a frame: its position, AREA and STRENGTH (R336). -/
structure TchSpot where
  x        : Nat
  y        : Nat
  area     : Nat
  strength : Nat
deriving DecidableEq, Repr

/-- A quotient to the nearest, a half up.
(PRESUMED, log entry 56) -/
def roundDiv (n d : Nat) : Nat := (2 * n + d) / (2 * d)

/-- The spot of a set of nodes (R336, step 3).
(PRESUMED, log entry 56) -/
def TchPanel.spot (x : TchPanel) (cols : Nat) (ns : List Nat) : TchSpot :=
  let d := fun k => (x.delta k).toNat
  let sum := (ns.map d).sum
  { x := roundDiv ((ns.map (fun k => d k * (64 * (k % cols) + 32))).sum) sum,
    y := roundDiv ((ns.map (fun k => d k * (64 * (k / cols) + 32))).sum) sum, area := ns.length, strength := sum }

/-- The spots of a frame (R336). -/
def TchPanel.spots (x : TchPanel) (rows cols : Nat) : List TchSpot :=
  ((x.blobs rows cols).map (fun b =>
    let tops := regionsOf cols b.length (b.filter (x.peak rows cols))
    let at_ := b.map (fun k => (k, x.climb rows cols b.length k))
    tops.map (fun top => x.spot cols ((at_.filter (fun e => top.contains e.2)).map (fun e => e.1))))).flatten

/-! ### Tracking (R337, R338) -/

/-- The square of the distance of two positions. -/
def dist2 (x y u v : Nat) : Nat := ((x : Int) - u).natAbs ^ 2 + ((y : Int) - v).natAbs ^ 2

/-- The nearest pair of a previous contact and a spot within `lim`, as their squared distance and their places.
(DEDUCED, log entry 58) -/
def nearest (lim : Nat) (prev : List (Nat × TchContact)) (now : List (Nat × TchSpot)) : Option (Nat × Nat × Nat) :=
  (prev.map (fun p => now.map (fun n => (dist2 p.2.x p.2.y n.2.x n.2.y, p.1, n.1)))).flatten.foldl
    (fun (best : Option (Nat × Nat × Nat)) (e : Nat × Nat × Nat) =>
      if lim < e.1 then best
      else match best with
        | none => some e
        | some b => if e.1 < b.1 then some e else best) none

/-- Contacts matched to spots in order of increasing distance, at most `fuel` pairs, as their places (R337). -/
def matchSpots (lim : Nat) : Nat → List (Nat × TchContact) → List (Nat × TchSpot) → List (Nat × Nat)
  | 0, _, _ => []
  | fuel + 1, prev, now =>
    match nearest lim prev now with
    | none => []
    | some (_, i, j) =>
      (i, j) :: matchSpots lim fuel (prev.filter (fun e => e.1 != i)) (now.filter (fun e => e.1 != j))

/-- A spot put into a list ordered by falling STRENGTH. -/
def spotInsert (x : TchSpot) : List TchSpot → List TchSpot
  | [] => [x]
  | y :: ys => if y.strength < x.strength then x :: y :: ys else y :: spotInsert x ys

/-- A contact put into a list ordered by ID. -/
def contactInsert (x : TchContact) : List TchContact → List TchContact
  | [] => [x]
  | y :: ys => if x.id < y.id then x :: y :: ys else y :: contactInsert x ys

/-- The ID that a new contact takes (R337): `held` are held, `gone` were released in the previous kept frame, `up` in this
one.
(DEDUCED, log entry 58) -/
def newId (held gone up : List Nat) : Nat :=
  let ids := (List.range 63).map (fun k => k + 1)
  match ids.find? (fun k => !held.contains k && !gone.contains k && !up.contains k) with
  | some k => k
  | none =>
    match ids.find? (fun k => !held.contains k && !up.contains k) with
    | some k => k
    | none => (ids.find? (fun k => !held.contains k)).getD 0

/-- The contacts that new spots make, each with an ID of its own.
(DEDUCED, log entry 58) -/
def newContacts (clock : Nat) (gone up : List Nat) : List Nat → List TchSpot → List TchContact
  | _, [] => []
  | held, t :: ts =>
    let k := newId held gone up
    let c : TchContact := {
      id := k, x := t.x, y := t.y, area := t.area, strength := t.strength, repX := t.x, repY := t.y, downAt := clock,
      object := false, curator := false }
    c :: newContacts clock gone up (k :: held) ts

/-- What a kept frame makes of the contacts of the one before (R337, R338): those matched, with whether they moved, those new,
those up, and the number discarded. -/
structure TchTrack where
  kept : List (TchContact × Bool)
  new  : List TchContact
  up   : List TchContact
  cut  : Nat
deriving DecidableEq, Repr

/-- Tracking of a kept frame (R337, R338). -/
def TchPanel.track (x : TchPanel) (clock : Nat) (spots : List TchSpot) : TchTrack :=
  let prev := (List.range x.contacts.length).zip x.contacts
  let now := (List.range spots.length).zip spots
  let lim := (64 * x.f Reg.TCH.TRACK_RADIUS) ^ 2
  let pairs := matchSpots lim spots.length prev now
  let kept := prev.filterMap (fun e =>
    ((pairs.find? (fun q => q.1 == e.1)).bind (fun q => spots[q.2]?)).map (fun t =>
      let moved := decide ((x.f Reg.TCH.MOVE_THRESHOLD) ^ 2 ≤ dist2 t.x t.y e.2.repX e.2.repY)
      let c := { e.2 with x := t.x, y := t.y, area := t.area, strength := t.strength }
      (if moved then { c with repX := t.x, repY := t.y } else c, moved)))
  let up := (prev.filter (fun e => !(pairs.any (fun q => q.1 == e.1)))).map (fun e => e.2)
  let fresh := ((now.filter (fun e => !(pairs.any (fun q => q.2 == e.1)))).map (fun e => e.2)).foldl
    (fun acc t => spotInsert t acc) []
  let room := 32 - kept.length
  let ids := up.map (fun c => c.id)
  { kept := kept, up := up, cut := fresh.length - room,
    new := newContacts clock x.gone ids (kept.map (fun e => e.1.id)) (fresh.take room) }

/-! ### Mapping (R340 to R342) -/

/-- Where a contact lies: its head with the pixel on it (none: outside), its touch zone, the window with its source, its
coordinates and whether it was placarded. -/
structure TchPlace where
  head    : Option Nat
  hx      : Int
  hy      : Int
  zone    : Option VitZone
  window  : Option (Nat × Nat × Nat × Nat × Bool)
deriving DecidableEq, Repr

/-- The touch zone of head `n` at a pixel: the highest INDEX (R341). -/
def State.zoneAt (s : State) (n x y : Nat) : Option VitZone :=
  match s.headPage n with
  | none => none
  | some p =>
    ((vitRecs (s.page p)).filter (fun z => z.touch && z.head == n && inBox (z.x0, z.y0, z.x1, z.y1) x y)).foldl
      (fun (best : Option VitZone) (z : VitZone) =>
        match best with
        | none => some z
        | some b => if b.index < z.index then some z else best) none

/-- A source-normalised coordinate (R341). -/
def normCoord (crop0 crop1 x0 x1 x : Nat) : Nat :=
  min 65535 (((crop0 : Int) + (2 * ((x : Int) - x0) + 1) * ((crop1 : Int) - crop0) / (2 * ((x1 : Int) - x0 + 1))).toNat)

/-- The topmost window of head `n` at a pixel, with its source, its coordinates and whether it is placarded (R341). -/
def State.windowAt (s : State) (n x y : Nat) : Option (Nat × Nat × Nat × Nat × Bool) :=
  match s.headPage n with
  | none => none
  | some p =>
    match (s.course p n).bands.find? (fun d => decide (d.first ≤ y ∧ y < d.first + d.count)) with
    | none => none
    | some d =>
      (d.spans.filterMap (fun e =>
        let k := if ceOp e = 2 then 24 + ceSlot e else ceSlot e
        if ceOp e ≠ 3 ∧ ceX0 e ≤ x ∧ x ≤ ceX1 e then
          (s.slotUse n k).map (fun u =>
            let r := u.rec_
            (r.window, u.source, normCoord r.cropX0 r.cropX1 r.x0 r.x1 x, normCoord r.cropY0 r.cropY1 r.y0 r.y1 y,
              ((s.head n).slot k).reason != 0 && !((s.head n).slot k).hidden))
        else none)).getLast?

/-- The place of panel position (x, y) (R340, R341).
(DEDUCED, log entry 58) -/
def State.tchPlace (s : State) (p x y : Nat) : TchPlace :=
  let t := s.panel p
  let line := fun (a b c : FRef) => (t.z a * x + t.z b * y + t.z c) / 65536
  let hx := line (Reg.TCH.PANEL.CXX p) (Reg.TCH.PANEL.CXY p) (Reg.TCH.PANEL.CX0 p)
  let hy := line (Reg.TCH.PANEL.CYX p) (Reg.TCH.PANEL.CYY p) (Reg.TCH.PANEL.CY0 p)
  let n := t.f (Reg.TCH.PANEL.HEAD p)
  let second := n % 2 == 0 && s.gb (Reg.HEAD.CTRL.PAIR n) && decide ((s.activeW n : Int) ≤ hx)
  let n := if second then n + 1 else n
  let hx := if second then hx - s.activeW n else hx
  if 0 ≤ hx ∧ 0 ≤ hy ∧ hx < s.activeW n ∧ hy < s.activeH n ∧ s.headRuns (s.lead n) = true then
    let z := s.zoneAt n hx.toNat hy.toNat
    ⟨some n, hx, hy, z, if z.isSome then none else s.windowAt n hx.toNat hy.toNat⟩
  else ⟨none, hx, hy, none, none⟩

/-- Whether a place lies in a zone of the Curator (R342). -/
def TchPlace.curator (l : TchPlace) : Bool := (l.zone.map (fun z => z.curator)).getD false

/-! ### Reports (R343, R344) -/

/-- The 32 bytes of a contact entry, with its NEW, MOVE and UP bits (R344). -/
def tchEntry (c : TchContact) (l : TchPlace) (flags : Nat) : List Byte :=
  let named := !c.object && l.head.isSome
  let zone := if named then l.zone else none
  let w := if named then l.window else none
  let word := fun (f : Nat × Nat × Nat × Nat × Bool → Nat) => leBytes ((w.map f).getD 0xFFFF) 2
  leBytes c.id 1 ++
    leBytes (flags + 8 * c.object.toNat + 16 * ((w.map (fun e => e.2.2.2.2)).getD false).toNat + 32 * zone.isSome.toNat +
      64 * l.curator.toNat) 1 ++
    leBytes c.x 2 ++ leBytes c.y 2 ++ leBytes c.area 2 ++ leBytes c.strength 4 ++ leBytes (l.head.getD 0xFF) 1 ++
    leBytes ((zone.map (fun z => z.index)).getD 0xFF) 1 ++ leBytes (unsigned 16 l.hx) 2 ++ leBytes (unsigned 16 l.hy) 2 ++
    word (fun e => e.1) ++ word (fun e => e.2.1) ++ word (fun e => e.2.2.1) ++ word (fun e => e.2.2.2.1) ++ leBytes 0 6

/-- The header of a record (R344). -/
def tchHeader (frame p entries flags cut : Nat) (wall : Int) (count : Nat) : List Byte :=
  leBytes frame 4 ++ leBytes p 1 ++ leBytes entries 1 ++ leBytes flags 2 ++ timeBytes wall ++ leBytes count 8 ++
    leBytes cut 2 ++ leBytes 0 4

/-- A record written to the report ring, or dropped (R343). -/
def State.tchReport (s : State) (p cut : Nat) (base : Bool) (es : List (List Byte)) : State :=
  let wr := s.g Reg.TCH.RPT_WR
  let size := 2 ^ s.g Reg.TCH.RPT_LOG2
  if (wr + 1) % size = s.g Reg.TCH.RPT_RD % size then
    { s with tch := { s.tch with dropRpt := true } }.inc (Reg.TCH.PANEL.RPT_DROP p)
  else
    let h := tchHeader (s.g (Reg.TCH.PANEL.FRAMES p)) p es.length (s.tch.dropRpt.toNat + 2 * base.toNat) cut s.wall s.time.count
    let s := (s.dmaWrite 39 (defaultQos 39) (4096 * (s.g Reg.TCH.RPT_ADDR + wr)) (h ++ es.flatten)).1
    let s := { s with tch := { s.tch with dropRpt := false } }.p Reg.TCH.RPT_WR ((wr + 1) % size)
    if (s.panel p).f Reg.TCH.CTRL.FRAME_EVT == 1 then s.raise Ev.tchFrame p else s

/-- A record written to the Curator ring, or dropped (R343). -/
def State.tchCurator (s : State) (p cut : Nat) (es : List (List Byte)) : State :=
  let wr := s.g Reg.TCH.CUR_WR
  let size := 2 ^ s.g Reg.TCH.CUR_LOG2
  if es.isEmpty then s
  else if (wr + 1) % size = s.g Reg.TCH.CUR_RD % size then
    { s with tch := { s.tch with dropCur := true } }.inc (Reg.TCH.PANEL.RPT_DROP p)
  else
    let h := tchHeader (s.g (Reg.TCH.PANEL.FRAMES p)) p es.length s.tch.dropCur.toNat cut s.wall s.time.count
    let s := (s.dmaWrite 39 (defaultQos 39) (4096 * (s.g Reg.TCH.CUR_ADDR + wr)) (h ++ es.flatten)).1
    { s with tch := { s.tch with dropCur := false } }.p Reg.TCH.CUR_WR ((wr + 1) % size)

/-- The entry of a contact that is down in one ring: in the ring it has entered it is NEW (R342). -/
def State.downEntry (s : State) (p : Nat) (ring : Bool) (flags : Nat) (was : Bool) (c : TchContact) : Option (List Byte) :=
  let l := s.tchPlace p c.x c.y
  if l.curator = ring then some (tchEntry c l (if was = ring then flags else 1)) else none

/-- CONTACTS and OBJECTS of panel `p`. -/
def State.tchCounts (s : State) (p : Nat) : State :=
  let cs := (s.panel p).contacts
  (s.p (Reg.TCH.PANEL.CONTACTS p) cs.length).p (Reg.TCH.PANEL.OBJECTS p) (cs.filter (fun (c : TchContact) => c.object)).length

/-- The contacts of a kept frame, tracked, mapped and reported (R336 to R344). -/
def State.tchContacts (s : State) (p : Nat) : State :=
  let rows := s.tchRows p
  let cols := s.tchCols p
  let x := s.panel p
  let t := x.track s.clock (x.spots rows cols)
  let old := fun (id : Nat) => x.contacts.find? (fun (c : TchContact) => c.id == id)
  let all : List (TchContact × Nat) := t.kept.map (fun e => (e.1, 2 * e.2.toNat)) ++ t.new.map (fun c => (c, 1))
  let cur := fun (c : TchContact) => (s.tchPlace p c.x c.y).curator
  let down := all.foldl (fun acc e => contactInsert { e.1 with
      curator := cur e.1,
      repX := if e.2 = 0 ∧ cur e.1 ≠ e.1.curator then e.1.x else e.1.repX,
      repY := if e.2 = 0 ∧ cur e.1 ≠ e.1.curator then e.1.y else e.1.repY } acc) []
  let flags := fun (id : Nat) => ((all.find? (fun e => e.1.id == id)).map (fun e => e.2)).getD 0
  let was := fun (c : TchContact) => ((old c.id).filter (fun _ => flags c.id != 1)).map (fun (o : TchContact) => o.curator)
  let left := down.filterMap (fun c =>
    match old c.id, was c with
    | some o, some b => if b = c.curator then none else some o
    | _, _ => none)
  let ups := (t.up ++ left).foldl (fun acc c => contactInsert c acc) []
  let ring := fun (b : Bool) =>
    down.filterMap (fun c => s.downEntry p b (flags c.id) ((was c).getD b) c) ++
      (ups.filter (fun (c : TchContact) => c.curator == b)).map (fun (c : TchContact) => tchEntry c (s.tchPlace p c.x c.y) 4)
  let s := s.setPanel p { x with contacts := down, gone := t.up.map (fun (c : TchContact) => c.id) }
  let s := (s.incBy (Reg.TCH.PANEL.OVERFLOW p) t.cut).tchCounts p
  (s.tchReport p t.cut false (ring false)).tchCurator p t.cut (ring true)

/-! ### Baselines (R333 to R335) -/

/-- The state whose panel `p` has a new baseline to form, and no contact (R333). -/
def State.panelFresh (s : State) (p : Nat) : State := (s.setPanel p TchPanel.reset).tchCounts p

/-- The initial baseline of panel `p` forms once BASE_FRAMES frames are kept (R333).
(DEDUCED, log entry 57) -/
def baselineFormed (p : Nat) (s : State) : State :=
  let x := s.panel p
  if s.tchDrives && x.base.isEmpty && decide (0 < x.sumN) && decide (x.f Reg.TCH.BASE_FRAMES ≤ x.sumN) then
    let s := s.setPanel p { x with base := x.sums.map (fun v => roundDiv v x.sumN), sums := [], sumN := 0 }
    if s.panelsOn.all (fun q => !(s.panel q).base.isEmpty) then s.p Reg.TCH.STATUS.STATE 3 else s
  else s

/-- Node `k` of a baseline one count nearer to its raw value (R334). -/
def driftNode (b r : Nat) : Nat := if b < r then b + 1 else if r < b then b - 1 else b

/-- The baselines of panel `p` drift after DRIFT_FRAMES kept frames (R334). -/
def baselineDrift (p : Nat) (s : State) : State :=
  let x := s.panel p
  let rows := s.tchRows p
  let cols := s.tchCols p
  if s.tchDrives && !x.base.isEmpty && decide (x.f Reg.TCH.DRIFT_FRAMES ≤ x.drift) && decide (0 < x.drift) then
    let blobs := (x.blobs rows cols).flatten
    let frozen := fun (k : Nat) => x.anti.any (fun e => e.1 == k) || blobs.any (fun b => nodesTouch cols k b)
    let base := (List.range x.base.length).map (fun k =>
      let b := x.base.getD k 0
      if frozen k || decide (((x.f Reg.TCH.TOUCH_THRESHOLD : Nat) : Int) ≤ |x.delta k|) then b
      else driftNode b (x.raw.getD k 0))
    s.setPanel p { x with base := base, drift := 0 }
  else s

/-- The pending anti-touch regions after a kept frame: a region keeps the timer of the nodes that remain (R335). -/
def TchPanel.antiNext (x : TchPanel) (rows cols frame : Nat) : List (Nat × Nat) :=
  ((regionsWhere rows cols x.antiNode).map (fun r =>
    let since := r.foldl (fun (m : Nat) k => ((x.anti.find? (fun e => e.1 == k)).map (fun e => min m e.2)).getD m) frame
    r.map (fun k => (k, since)))).flatten

/-- The regions of panel `p` that have persisted through ANTI_CONFIRM_MS of kept frames.
(DEDUCED, log entry 57) -/
def State.antiDue (s : State) (p : Nat) : List (List Nat) :=
  let x := s.panel p
  let frame := s.g (Reg.TCH.PANEL.FRAMES p)
  (regionsOf (s.tchCols p) x.anti.length (x.anti.map (fun e => e.1))).filter (fun r =>
    r.any (fun k => (x.anti.find? (fun e => e.1 == k)).any (fun e =>
      decide (x.f Reg.TCH.ANTI_CONFIRM_MS * x.f (Reg.TCH.PANEL.FRAME_HZ p) ≤
        1000 * ((frame + 2 ^ 32 - e.2) % 2 ^ 32)))))

/-- The anti-touch regions of panel `p` that are due are re-baselined with their borders (R335). -/
def antiConfirm (p : Nat) (s : State) : State :=
  if s.tchDrives then
    let cols := s.tchCols p
    (s.antiDue p).foldl (fun s r =>
      let x := s.panel p
      let base := (List.range x.base.length).map (fun k =>
        if r.any (fun n => nodesTouch cols n k) then x.raw.getD k 0 else x.base.getD k 0)
      let s := s.setPanel p { x with base := base, anti := x.anti.filter (fun e => !r.contains e.1) }
      (s.inc (Reg.TCH.PANEL.ANTI_EVENTS p)).raise Ev.tchAnti p) s
  else s

/-- Contacts of panel `p` that have been down for OBJECT_TIMEOUT_S become objects (R339). -/
def objectTimeout (p : Nat) (s : State) : State :=
  let x := s.panel p
  let limit := x.f Reg.TCH.OBJECT_TIMEOUT_S
  let due := fun (c : TchContact) => !c.object && decide (c.downAt + 1000000000 * limit ≤ s.clock)
  if s.tchDrives && decide (0 < limit) then
    let t := s.setPanel p { x with contacts := x.contacts.map (fun c => if due c then { c with object := true } else c) }
    (x.contacts.filter due).foldl (fun t c => t.raise Ev.tchObject (p + 256 * c.id)) (t.tchCounts p)
  else s

/-- What a kept frame of panel `p` has left due.
(DEDUCED, log entry 57) -/
def State.tchSettle (s : State) (p : Nat) : State :=
  baselineFormed p (objectTimeout p (baselineDrift p (antiConfirm p s)))

/-! ### Frames (R330 to R332) -/

/-- Steps of PULSES / TX_FREQ_KHZ + 2 µs in a frame of panel `p`, as a number of 1 / TX_FREQ_KHZ µs: 17G + 1 steps (R330). -/
def State.tchLength (s : State) (p : Nat) : Nat :=
  (17 * s.tchGroups p + 1) * (1000 * s.g Reg.TCH.PULSES + 2 * s.g Reg.TCH.TX_FREQ_KHZ)

/-- Whether 1 / FRAME_HZ has passed since the last frame of panel `p` started, to the nanosecond (R330).
(DEDUCED, log entry 57) -/
def State.tchPeriod (s : State) (p : Nat) : Bool :=
  (s.panel p).startAt.all (fun a => decide (1000000000 ≤ s.g (Reg.TCH.PANEL.FRAME_HZ p) * (s.clock + 1 - a)))

/-- Whether the frame of panel `p` has lasted all its steps, to the nanosecond (R330).
(DEDUCED, log entry 57) -/
def State.tchEnded (s : State) (p : Nat) : Bool :=
  (s.panel p).openAt.any (fun a => decide (1000 * s.tchLength p ≤ s.g Reg.TCH.TX_FREQ_KHZ * (s.clock + 1 - a)))

/-- Whether counts are those of a frame of panel `p`: 16 drive steps a group and a listen step before, between and after, each with
a count for every sense line (R330). -/
def State.tchWhole (s : State) (p : Nat) (steps listens : List (List Nat)) : Bool :=
  steps.length == 16 * s.tchGroups p && listens.length == s.tchGroups p + 1 &&
    (steps ++ listens).all (fun r => r.length == s.tchCols p)

/-- TOUCH_FRAME_START on panel `p` (R330).
(DEDUCED, log entry 57) -/
def tchFrameStart (p : Nat) (s : State) : State :=
  let x := s.panel p
  if s.tchDrives && s.gb (Reg.TCH.PANEL.ENABLE p) && x.openAt.isNone && s.tchPeriod p then
    s.setPanel p { x with openAt := some s.clock, startAt := some s.clock, cfg := (tchTaken p).foldl (fun t a => Tab.put 0 a (s.reg a) t) [] }
  else s

/-- A kept frame of panel `p`: its raw values are in the panel (R333 to R344). -/
def State.tchKept (s : State) (p : Nat) : State :=
  let s := s.inc (Reg.TCH.PANEL.FRAMES p)
  let x := s.panel p
  if x.base.isEmpty then
    let sums := if x.sumN = 0 then x.raw else List.zipWith (fun a b => a + b) x.sums x.raw
    (s.setPanel p { x with sums := sums, sumN := x.sumN + 1 }).tchReport p 0 true []
  else
    let anti := x.antiNext (s.tchRows p) (s.tchCols p) (s.g (Reg.TCH.PANEL.FRAMES p))
    (s.setPanel p { x with anti := anti, drift := x.drift + 1 }).tchContacts p

/-- TOUCH_FRAME_END on panel `p`: the counts of the drive steps in order, each by sense line, and of the listen steps (R330,
R331).
(DEDUCED, log entry 57) -/
def tchFrameEnd (p : Nat) (steps listens : List (List Nat)) (s : State) : State :=
  if !s.tchDrives || !s.tchEnded p || !s.tchWhole p steps listens then s
  else
    let s := (s.setPanel p { s.panel p with openAt := none }).stamp (64 + p) (s.gb Reg.TIME.STAMP_EN.TOUCH)
    if foreignSeen ((s.panel p).f Reg.TCH.FOREIGN_THR) listens then s.inc (Reg.TCH.PANEL.FOREIGN_DROP p)
    else
      let s := s.tchSettle p
      (s.setPanel p { s.panel p with raw := rawValues steps (s.tchRows p) (s.tchCols p) }).tchKept p

/-- Touch drive stops: frames in progress are abandoned (R23, R332). -/
def State.tchAbandon (s : State) : State :=
  ([0, 1] : List Nat).foldl (fun s p => s.setPanel p { s.panel p with openAt := none }) s

/-- STATUS.STATE becomes `x`; while the touch engine is not running it keeps its last value (R23, R346). -/
def State.tchState (s : State) (x : Nat) : State := if s.engRunning 22 then s.p Reg.TCH.STATUS.STATE x else s

/-- Scanning starts with a new baseline on every panel (R333). -/
def State.tchRestart (s : State) : State :=
  let s := ([0, 1] : List Nat).foldl (fun s p => s.panelFresh p) s
  s.tchState (if s.granted then 2 else 1)

/-- The touch engine runs again (R23, R346): STATE follows what became of the grant, of the self-test and of ENABLE meanwhile.
(DESIGN CHOICE, log entry 59) -/
def State.tchResume (s : State) : State :=
  let x := s.g Reg.TCH.STATUS.STATE
  if !s.gb Reg.TCH.CTRL.ENABLE then s
  else if s.g Reg.TCH.STATUS.ST_STATE = 1 then s.tchState 4
  else if (if s.granted then x == 2 || x == 3 else x == 1) then s
  else s.tchRestart

/-- A self-test that runs is interrupted (R345). -/
def State.selftestAbort (s : State) : State :=
  if s.g Reg.TCH.STATUS.ST_STATE = 1 then (s.p Reg.TCH.STATUS.ST_STATE 4).raise Ev.tchSelftest 4 else s

/-- The grant is gained: scanning starts with a new baseline (R332). -/
def State.tchGrantRise (s : State) : State := if s.gb Reg.TCH.CTRL.ENABLE then s.tchRestart else s

/-- The grant is lost: the frame is abandoned and counted in FOREIGN_DROP, contacts are forgotten, the standby scanner stops
(R331, R332, R345, R346). -/
def State.tchGrantFall (s : State) : State :=
  let s := { s with tch := { s.tch with scan := false } }
  if s.gb Reg.TCH.CTRL.ENABLE then
    let s := ([0, 1] : List Nat).foldl (fun s p =>
      (if (s.panel p).openAt.isSome then s.inc (Reg.TCH.PANEL.FOREIGN_DROP p) else s).panelFresh p) s
    (s.tchState 1).selftestAbort
  else s

/-! ### Enabling and the self-test (R345, R348) -/

/-- Whether the line ranges of the enabled panels are wrong (R348, order 2). -/
def State.tchBadLines (s : State) : Bool :=
  let tx := fun p => (s.g (Reg.TCH.PANEL.TX_FIRST p), s.tchRows p)
  let rx := fun p => (s.g (Reg.TCH.PANEL.RX_FIRST p), s.tchCols p)
  let meet := fun (a b : Nat × Nat) => decide (a.1 < b.1 + b.2 ∧ b.1 < a.1 + a.2)
  s.panelsOn.any (fun p => (tx p).2 == 0 || (rx p).2 == 0 || decide (96 < (tx p).1 + (tx p).2) || decide (144 < (rx p).1 + (rx p).2)) ||
    (s.panelsOn.length == 2 && (meet (tx 0) (tx 1) || meet (rx 0) (rx 1)))

/-- Whether the frame of panel `p` takes more than 0.9 / FRAME_HZ (R330, R348). -/
def State.tchTooLong (s : State) (p : Nat) : Bool :=
  decide (900000 * s.g Reg.TCH.TX_FREQ_KHZ < s.tchLength p * s.g (Reg.TCH.PANEL.FRAME_HZ p))

/-- Whether panel `p` holds a scan time that no scan has: a frame too long, or a reserved value of TX_FREQ_KHZ, PULSES or
FRAME_HZ (R348, order 3; the ranges of the TCH register table). -/
def State.tchTimeBad (s : State) (p : Nat) : Bool :=
  let f := s.g Reg.TCH.TX_FREQ_KHZ
  let hz := s.g (Reg.TCH.PANEL.FRAME_HZ p)
  s.tchTooLong p || decide (f < 100 ∨ 500 < f) || decide (s.g Reg.TCH.PULSES < 4) || decide (hz < 120 ∨ 480 < hz)

/-- The first check of R348 that fails; 0 where all pass. -/
def State.tchCheck (s : State) : Nat :=
  if s.panelsOn.isEmpty then 1
  else if s.tchBadLines then 2
  else if s.panelsOn.any (fun p => s.tchTimeBad p) then 3
  else if !s.inDram (4096 * s.g Reg.TCH.RPT_ADDR) (4096 * 2 ^ s.g Reg.TCH.RPT_LOG2) ||
      !inShared (4096 * s.g Reg.TCH.CUR_ADDR) (4096 * 2 ^ s.g Reg.TCH.CUR_LOG2) then 4
  else 0

/-- Touch starts, its counters cleared (R347, R348).
(DESIGN CHOICE, log entry 59) -/
def State.tchStart (s : State) : State :=
  let s := ([0, 1] : List Nat).foldl (fun s p =>
    [Reg.TCH.PANEL.FRAMES, Reg.TCH.PANEL.FOREIGN_DROP, Reg.TCH.PANEL.OVERFLOW, Reg.TCH.PANEL.RPT_DROP,
      Reg.TCH.PANEL.ANTI_EVENTS].foldl (fun s (r : Nat → FRef) => s.p (r p) 0) s) s
  (s.pb Reg.TCH.CTRL.ENABLE true).tchRestart

/-- Touch stops (R348). -/
def State.tchStop (s : State) : State :=
  let s := (s.pb Reg.TCH.CTRL.ENABLE false).selftestAbort
  (([0, 1] : List Nat).foldl (fun s p => s.panelFresh p) s).p Reg.TCH.STATUS.STATE 0

/-- A write of 1 to SELFTEST (R345).
(DESIGN CHOICE, log entry 59) -/
def State.selftest (s : State) : State :=
  if !s.granted then (s.p Reg.TCH.STATUS.ST_STATE 3).raise Ev.tchSelftest 3
  else if s.gb Reg.TCH.CTRL.ENABLE && s.g Reg.TCH.STATUS.ST_STATE != 1 then
    ((s.tchAbandon).p Reg.TCH.STATUS.ST_STATE 1).tchState 4
  else s

/-- Whether line `l` of ST_MAP belongs to an enabled panel: 0 to 95 drive lines, 96 to 239 sense lines. -/
def State.lineUsed (s : State) (l : Nat) : Bool :=
  s.panelsOn.any (fun p =>
    if l < 96 then decide (s.g (Reg.TCH.PANEL.TX_FIRST p) ≤ l ∧ l < s.g (Reg.TCH.PANEL.TX_FIRST p) + s.tchRows p)
    else decide (s.g (Reg.TCH.PANEL.RX_FIRST p) + 96 ≤ l ∧ l < s.g (Reg.TCH.PANEL.RX_FIRST p) + s.tchCols p + 96))

/-- A line on which the self-test finds nothing. -/
def lineClean : LineProbe := ⟨0, 0, 0, 0, false, false, false, false⟩

/-- The lines of panel `p` as ST_MAP numbers them. -/
def State.panelLines (s : State) (p : Nat) : List Nat :=
  (List.range (s.tchRows p)).map (fun r => s.g (Reg.TCH.PANEL.TX_FIRST p) + r) ++
    (List.range (s.tchCols p)).map (fun c => 96 + s.g (Reg.TCH.PANEL.RX_FIRST p) + c)

/-- The value of rank `k` in a list. -/
def rankOf (xs : List Nat) (k : Nat) : Nat :=
  (xs.find? (fun x => decide ((xs.filter (fun y => decide (y < x))).length ≤ k ∧
    k < (xs.filter (fun y => decide (y ≤ x))).length))).getD 0

/-- Twice the median of a list: the sum of the two middle values, or of the middle one with itself.
(DESIGN CHOICE, log entry 59) -/
def twiceMedian (xs : List Nat) : Nat := rankOf xs ((xs.length - 1) / 2) + rankOf xs (xs.length / 2)

/-- Whether a line gives a neighbour at least half of its own response (R345). -/
def halfResponse (own got : Nat) : Bool := decide (0 < own ∧ own ≤ 2 * got)

/-- Whether line `l` and its neighbour on either side are shorted: one of the two gives the other half of its response, and both
are drive lines or both sense lines (R345).
(DESIGN CHOICE, log entry 59) -/
def lineShorted (found : List LineProbe) (l : Nat) : Bool :=
  let at_ := fun (k : Nat) => found.getD k lineClean
  let pair := fun (k : Nat) => k + 1 != 96 && k + 1 != 240 &&
    (halfResponse (at_ k).own (at_ k).above || halfResponse (at_ (k + 1)).own (at_ (k + 1)).below)
  pair l || (l != 0 && pair (l - 1))

/-- Whether the mean of line `l` is below 10 % of the panel median of line means, on a panel that has the line (R345). -/
def State.lineOpen (s : State) (found : List LineProbe) (l : Nat) : Bool :=
  let mean := fun (k : Nat) => (found.getD k lineClean).mean
  s.panelsOn.any (fun p => (s.panelLines p).contains l && decide (20 * mean l < twiceMedian ((s.panelLines p).map mean)))

/-- The finding of line `l` (R345), shorts to a rail first, then to a neighbour.
(DESIGN CHOICE, log entry 59) -/
def State.lineFinding (s : State) (found : List LineProbe) (l : Nat) : Nat :=
  let x := found.getD l lineClean
  if x.allHigh || x.limitLow then 3
  else if x.allLow || x.limitHigh then 4
  else if lineShorted found l then 2
  else if s.lineOpen found l then 1
  else 0

/-- The code of line `l` in ST_MAP (R345). -/
def State.lineCode (s : State) (found : List LineProbe) (l : Nat) : Nat :=
  if s.lineUsed l then s.lineFinding found l else 15

/-- The self-test ends with a finding for each line (R345). -/
def selftestDone (found : List LineProbe) (s : State) : State :=
  if s.coreOn && s.g Reg.TCH.STATUS.ST_STATE == 1 && s.engRunning 22 then
    let code := s.lineCode found
    let s := (List.range 30).foldl (fun s w =>
      s.p (Reg.TCH.ST_MAP w) ((List.range 8).foldl (fun acc j => acc + code (8 * w + j) * 16 ^ j) 0)) s
    ((s.tchRestart).p Reg.TCH.STATUS.ST_STATE 2).raise Ev.tchSelftest 2
  else s

/-- A write of TCH.CTRL by master `m`: its fields, then ENABLE, then SELFTEST (R345, R348). An enable that fails its checks is
recorded IGNORED (R417, R448).
(DESIGN CHOICE, log entry 59) -/
def tchCtrlWrite (m : Nat) (v : Word) (s : State) : State :=
  let was := s.gb Reg.TCH.CTRL.ENABLE
  let s := s.writeFields m 0x100D0000 v 1
  let s :=
    if fieldGet v 0 1 = 1 then
      if was then s
      else
        let r := s.tchCheck
        let s := s.p Reg.TCH.STATUS.ENABLE_RESULT r
        if r = 0 then s.tchStart else s.logIgnored m 0x100D0000 v
    else if was then s.tchStop
    else s
  if fieldGet v 31 1 = 1 then s.selftest else s

/-! ### Standby (R346) -/

/-- The scanner starts at STANDBY entry where it is wanted and the grant is held (R346). -/
def State.tchStandby (s : State) (granted : Bool) : State :=
  let s := ([0, 1] : List Nat).foldl (fun s p => s.setPanel p TchPanel.reset) s
  { s with tch := { s.tch with scan := granted && s.gb Reg.TCH.CTRL.STANDBY_SCAN, wake := false } }

/-- Whether panel `p` is due for a standby scan: 20 times a second, but for the 4 scans at STANDBY entry (R346).
(DEDUCED, log entry 57) -/
def TchPanel.scanDue (x : TchPanel) (clock : Nat) : Bool :=
  decide (x.refN < 4) || x.scanAt.all (fun a => decide (a + 50000000 ≤ clock))

/-- A standby scan of panel `p`: its count by sense line (R346). -/
def standbyScan (p : Nat) (counts : List Nat) (s : State) : State :=
  let x := { s.panel p with scanAt := some s.clock }
  if decide (s.pwr.mode = .standby) && s.tch.scan && s.gb (Reg.TCH.PANEL.WAKE_EN p) && (s.panel p).scanDue s.clock then
    let cols := (List.range (s.tchCols p)).map (fun c => min 65535 (counts.getD c 32768))
    if x.refN < 4 then
      let sums := if x.refN = 0 then cols else List.zipWith (fun a b => a + b) x.refSums cols
      s.setPanel p { x with refSums := sums, refN := x.refN + 1 }
    else
      let thr := s.g Reg.TCH.WAKE_THRESHOLD
      let hits := (List.range cols.length).map (fun c =>
        if 4 * (cols.getD c 0 + thr) ≤ x.refSums.getD c 0 then x.hits.getD c 0 + 1 else 0)
      let s := s.setPanel p { x with hits := hits }
      if hits.any (fun h => decide (2 ≤ h)) then { s with tch := { s.tch with wake := true } } else s
  else s

/-! ### The commands -/

/-- TOUCH_ENABLE (R348). -/
def execTouchEnable (dt : Nat) (m : Master) (s : State) : Out State :=
  let s := s.advance dt
  let v := s.fieldWord Reg.TCH.CTRL.ENABLE 1
  .next (s.ctlWrite m.val 0x100D0000 v (tchCtrlWrite m.val v))

/-- TOUCH_DISABLE (R348). -/
def execTouchDisable (dt : Nat) (m : Master) (s : State) : Out State :=
  let s := s.advance dt
  let v := s.fieldWord Reg.TCH.CTRL.ENABLE 0
  .next (s.ctlWrite m.val 0x100D0000 v (tchCtrlWrite m.val v))

/-- TOUCH_FRAME_START (R330). -/
def execTouchFrameStart (dt : Nat) (p : Fin 2) (s : State) : Out State := .next (tchFrameStart p.val (s.advance dt))

/-- TOUCH_FRAME_END (R330): the counts of the drive steps in order, each by sense line, and of the listen steps. -/
def execTouchFrameEnd (dt : Nat) (p : Fin 2) (steps listens : List (List Nat)) (s : State) : Out State :=
  .next (tchFrameEnd p.val steps listens (s.advance dt))

/-- BASELINE_FORMED (R333). -/
def execBaselineFormed (dt : Nat) (p : Fin 2) (s : State) : Out State := .next (baselineFormed p.val (s.advance dt))

/-- BASELINE_DRIFT (R334). -/
def execBaselineDrift (dt : Nat) (p : Fin 2) (s : State) : Out State := .next (baselineDrift p.val (s.advance dt))

/-- ANTI_TOUCH_CONFIRM (R335). -/
def execAntiTouchConfirm (dt : Nat) (p : Fin 2) (s : State) : Out State := .next (antiConfirm p.val (s.advance dt))

/-- TOUCH_OBJECT_TIMEOUT (R339). -/
def execTouchObjectTimeout (dt : Nat) (p : Fin 2) (s : State) : Out State := .next (objectTimeout p.val (s.advance dt))

/-- TOUCH_SELFTEST (R345). -/
def execTouchSelftest (dt : Nat) (m : Master) (s : State) : Out State :=
  let s := s.advance dt
  let v := s.fieldWord Reg.TCH.CTRL.SELFTEST 1
  .next (s.ctlWrite m.val 0x100D0000 v (tchCtrlWrite m.val v))

/-- TOUCH_SELFTEST_DONE (R345): what the test finds on each line, drive lines first. -/
def execTouchSelftestDone (dt : Nat) (found : List LineProbe) (s : State) : Out State :=
  .next (selftestDone found (s.advance dt))

/-- STANDBY_TOUCH_SCAN (R346): the counts by sense line. -/
def execStandbyTouchScan (dt : Nat) (p : Fin 2) (counts : List Nat) (s : State) : Out State :=
  .next (standbyScan p.val counts (s.advance dt))

end Sys2Proof.Machine
end

