-- ==== Sys2Proof/Machine/Custody.lean ====
section
/-! DEFINITION. Custody: the grant, the roles, the release, CUS_ALIVE, the STATUS frame, custodian frames and
compatibility mode (R349 to R371). -/

namespace Sys2Proof.Machine

/-- Whether AON_EXT is powered and out of reset, which the custody hardware runs in (R349). -/
def State.cusOn (s : State) : Bool := s.coreOn || decide (s.pwr.mode = .standby)

/-- Whether the unit is in compatibility mode (R367). -/
def State.compat (s : State) : Bool := s.gb Reg.CUS.STATUS.MODE

/-! ### Roles and the release (R359 to R366) -/

/-- The state with the role set. -/
def State.setRole (s : State) (r : Nat) : State :=
  { s with cus := { s.cus with diffAt := none } }.p Reg.CUS.STATUS.ROLE r

/-- What in the acting set starts with the grant (R288, R308, R332, R366). -/
def State.actStart (s : State) : State :=
  let s := { s with cus := { s.cus with relHeads := [] } }
  let s := ((s.pb Reg.CUS.STATUS.RELEASE_PENDING false).pb Reg.CUS.STATUS.ACTING true).setRole 2
  if s.coreOn then ((s.dpGrantRise).tchGrantRise).encGrantRise else s

/-- The release ends: ACTING falls, and the time since the grant changed is written in µs (R363). -/
def State.finishRelease (s : State) : State :=
  let s := { s with cus := { s.cus with relHeads := [] } }
  let s := (s.pb Reg.CUS.STATUS.RELEASE_PENDING false).pb Reg.CUS.STATUS.ACTING false
  s.p Reg.CUS.LAST_RELEASE.US (min (2 ^ 32 - 1) ((s.clock - s.cus.relAt) / 1000))

/-- The heads whose next latch points a release waits for: those that run and lead their pairs (R363). -/
def State.awakeHeads (s : State) : List Nat := allHeads.filter (fun n => s.lead n == n && s.headRuns n)

/-- A release ends at once where no head's latch point is left to wait for (R363).
(DEDUCED, log entry 60) -/
def State.releaseSettle (s : State) : State := if s.cus.relHeads = [] then s.finishRelease else s

/-- The release begins, the grant having changed at clock `t0`; the unit takes role `role` (R361, R363). -/
def State.release (s : State) (t0 role : Nat) : State :=
  let s := (s.setRole role).pb Reg.CUS.STATUS.RELEASE_PENDING true
  let s := { s with cus := { s.cus with relAt := t0, relHeads := s.awakeHeads } }
  let s := if s.coreOn then (s.dpGrantFall).tchGrantFall else { s with tch := { s.tch with scan := false } }
  s.releaseSettle

/-- A release leaves the acting set, or the unit only changes role. -/
def State.releaseTo (s : State) (t0 role : Nat) : State :=
  if s.gb Reg.CUS.STATUS.ACTING && !s.gb Reg.CUS.STATUS.RELEASE_PENDING then s.release t0 role else s.setRole role

/-- Head `n` has had its latch point, which a release may wait for (R363). -/
def State.releaseLatched (s : State) (n : Nat) : State :=
  if s.gb Reg.CUS.STATUS.RELEASE_PENDING then
    { s with cus := { s.cus with relHeads := s.cus.relHeads.filter (fun k => k != n) } }.releaseSettle
  else s

/-- The effective grant becomes `on`, at clock `t0` at the pin (R359, R363, R366).
(DEDUCED, log entry 60) -/
def State.setGrant (s : State) (on : Bool) (t0 : Nat) : State :=
  if on = s.cus.eff then s
  else
    let s := { s with cus := { s.cus with eff := on } }
    if s.g Reg.CUS.STATUS.ROLE = 3 then s else if on then s.actStart else s.releaseTo t0 0

/-- The unit becomes ISOLATED (R359, R363). -/
def State.isolate (s : State) : State := if s.g Reg.CUS.STATUS.ROLE = 3 then s else s.releaseTo s.clock 3

/-- The unit leaves ISOLATED (R359).
(DEDUCED, log entry 63) -/
def State.leaveIsolated (s : State) : State := if s.cus.eff then s.actStart else s.setRole 0

/-- What ISOLATE having changed to `on` does; a boot loader's isolation outlasts a 0. -/
def State.isolateBecame (s : State) (on : Bool) : State :=
  if on then s.isolate else if s.cus.isoBoot then s else s.leaveIsolated

/-- ISOLATE set or cleared by a frame (R357). -/
def State.isolateSet (s : State) (on : Bool) : State :=
  if s.gb Reg.CUS.CTRL.ISOLATE = on then s else (s.pb Reg.CUS.CTRL.ISOLATE on).isolateBecame on

/-- The boot loader refuses the outputs, or no longer does (R359, R454).
(DEDUCED, log entry 63) -/
def State.bootIsolate (s : State) (refused : Bool) : State :=
  if refused then ({ s with cus := { s.cus with isoBoot := true } }).isolate
  else if s.cus.isoBoot then
    let s := { s with cus := { s.cus with isoBoot := false } }
    if s.gb Reg.CUS.CTRL.ISOLATE then s else s.leaveIsolated
  else s

/-! ### The grant pin (R352) -/

/-- CUS_GRANT has held `level` for 10 µs, in native mode. -/
def State.grantFiltered (s : State) (level : Bool) : State :=
  let s := if level then s else s.pb Reg.CUS.STATUS.GRANT_STALE false
  let s := if s.gb Reg.CUS.STATUS.GRANT = level then s
    else ((s.pb Reg.CUS.STATUS.GRANT level).inc Reg.CUS.GRANT_CHANGES.COUNT).raise Ev.cusGrantChange level.toNat
  let on := s.gb Reg.CUS.STATUS.GRANT && !s.gb Reg.CUS.STATUS.GRANT_STALE
  let s := if on && !s.cus.eff && decide (s.pwr.mode = .standby) && s.gb Reg.CUS.CTRL.WAKE_ON_GRANT then
      { s with pwr := { s.pwr with wakeGrant := true } } else s
  s.setGrant on (s.clock - 10000)

/-- A filtered change of CUS_GRANT to `level`, which the pin does not show yet.
(DEDUCED, log entry 60) -/
def grantChange (level : Bool) (s : State) : State :=
  if s.cusOn && !s.compat && s.gb Reg.CUS.STATUS.GRANT != level then s.grantFiltered level else s

/-- CUS_GRANT low for 10 µs while GRANT_STALE is 1. -/
def staleClear (s : State) : State :=
  if s.cusOn && !s.compat && s.gb Reg.CUS.STATUS.GRANT_STALE then s.grantFiltered false else s

/-! ### CUS_ALIVE and compatibility mode (R351, R367) -/

/-- The two conditions of R351: both Curator cores run, and the last kick is younger than ALIVE_TIMEOUT_MS. -/
def State.aliveOk (s : State) : Bool :=
  s.coreOn && s.engRunning 0 && s.engRunning 1 &&
    match s.cus.kickAt with
    | none => false
    | some t => decide (s.clock - t < 1000000 * s.g Reg.CUS.CTRL.ALIVE_TIMEOUT_MS)

/-- The grant of compatibility mode (R367). -/
def State.compatWant (s : State) : Bool :=
  s.gb Reg.CUS.COMPAT.SELF_OK && s.aliveOk && (!s.gb Reg.CUS.STATUS.PEER_OK_IN || s.g Reg.CUS.STATUS.UNIT_ID % 2 == 0)

/-- The effective grant of compatibility mode becomes `on`.
(DEDUCED, log entry 61) -/
def State.compatSet (s : State) (on : Bool) : State := (s.pb Reg.CUS.STATUS.GRANT on).setGrant on s.clock

/-- PEER_OK_OUT and the effective grant follow the formulas of R367. -/
def State.compatEval (s : State) : State :=
  if !s.compat then s
  else
    let s := s.pb Reg.CUS.STATUS.PEER_OK_OUT (s.gb Reg.CUS.COMPAT.SELF_OK && s.aliveOk)
    if !s.compatWant then ({ s with cus := { s.cus with takeAt := none } }).compatSet false
    else if s.cus.eff || s.cus.takeAt.isSome then s
    else if s.gb Reg.CUS.STATUS.PEER_OK_IN then { s with cus := { s.cus with takeAt := some s.clock } }
    else s.compatSet true

/-- ALIVE shows whether CUS_ALIVE toggles, from a rising edge on; in compatibility mode the pin is held low (R350, R351). -/
def State.aliveRefresh (s : State) : State :=
  let on := s.aliveOk && !s.compat
  let s := { s with cus := { s.cus with
    aliveAt := if !on then none else if s.cus.aliveAt.isSome then s.cus.aliveAt else some s.clock } }
  (s.pb Reg.CUS.STATUS.ALIVE on).compatEval

/-- A write of ALIVE_KICK (R351). -/
def aliveKick (v : Word) (s : State) : State :=
  if fieldGet v 0 1 = 1 then ({ s with cus := { s.cus with kickAt := some s.clock } }).aliveRefresh else s

/-- A debounced change of PEER_OK_IN (R367). -/
def peerOkChange (level : Bool) (s : State) : State :=
  if s.cusOn && s.compat && s.gb Reg.CUS.STATUS.PEER_OK_IN != level then
    ((s.pb Reg.CUS.STATUS.PEER_OK_IN level).raise Ev.cusPeer level.toNat).compatEval
  else s

/-- A grant rise that waited TAKE_DELAY_MS takes effect if it still holds (R367). -/
def takeDelay (s : State) : State :=
  match s.cus.takeAt with
  | none => s
  | some t =>
    if s.cusOn && decide (t + 1000000 * s.g Reg.CUS.COMPAT.TAKE_DELAY_MS ≤ s.clock) then
      let s := { s with cus := { s.cus with takeAt := none } }
      if s.compatWant then s.compatSet true else s
    else s

/-! ### The custodian link (R353 to R358) -/

/-- LINK_TIMEOUT_MS without a valid frame clears LINK_UP (R358). -/
def linkTimeout (s : State) : State :=
  if s.cusOn && s.gb Reg.CUS.CTRL.LINK_WATCH && s.gb Reg.CUS.STATUS.LINK_UP &&
      decide (1000000 * s.g Reg.CUS.CTRL.LINK_TIMEOUT_MS ≤ s.clock - s.cus.rxAt) then
    (s.pb Reg.CUS.STATUS.LINK_UP false).raise Ev.cusLinkLost 0
  else s

/-- The `n` bits of flags, from bit 0. -/
def packBits (bs : List Bool) : Nat := bs.foldr (fun b n => b.toNat + 2 * n) 0

/-- Whether an engine is in FAULT. -/
def State.anyEngFault (s : State) : Bool := (List.range 24).any (fun n => s.g (Reg.ENG.STATUS.STATE n) == 4)

/-- Whether an enabled DisplayPort or Thizon link reads DOWN. -/
def State.anyLinkDown (s : State) : Bool :=
  allHeads.any (fun n => s.gb (Reg.DPTX.CTRL.ENABLE n) && s.g (Reg.DPTX.STATUS.LINK n) == 1) ||
    (List.range 16).any (fun q => s.gb (Reg.TZL.CTRL.ENABLE q) && s.g (Reg.TZL.STATUS.LINK q) == 1)

/-- Whether an enabled media port has LINK at 0. -/
def State.anyPortDown (s : State) : Bool :=
  (List.range 4).any (fun q => (List.range 4).any (fun l => s.portOn q l && !s.gb (Reg.NET.PORT.LINK q l)))

/-- Slots placarded or hidden across all heads. -/
def State.placards (s : State) : Nat :=
  allHeads.foldl (fun k n => k + s.g (Reg.FRS.HEAD.PLACARDED n) + s.g (Reg.FRS.HEAD.HIDDEN n)) 0

/-- Whether outputs were refused at boot, or a divergence has been found since the last hard reset.
(DEDUCED, log entry 62) -/
def State.cfgBad (s : State) : Bool := s.g Reg.BOOT.STATUS.REASON != 0 || s.cus.divergent

/-- The health word (R356), and in STANDBY as R355 states.
(DEDUCED, log entry 62) -/
def State.healthWord (s : State) : Nat :=
  let on := s.coreOn
  let noted := fun k => on && bitOf s.cus.noted k
  packBits [s.gb Reg.PWR.STATUS.WARN_ACTIVE, s.pwr.thermDone, !on || s.timeState != 2,
      on && !s.gb Reg.ENG.INFO.LOCKSTEP_OK, !on || !s.aliveOk, on && s.anyEngFault, on && s.anyLinkDown,
      on && s.anyPortDown, on && (List.range 512).any (fun i => s.g (Reg.ING.SRC.STATE i) == 3), noted 9,
      on && s.placards != 0, noted 11, noted 12, s.cfgBad, s.gb Reg.PWR.STATUS.AON_SRC]
    + 2 ^ 16 * s.g Reg.CUS.HEALTH_FW.FW

/-- A frame of the custody UART (R353). -/
def cusFrame (version type : Nat) (payload : List Byte) : List Byte :=
  let bs := (leBytes 0xC5 1 ++ leBytes version 1 ++ leBytes type 1 ++ leBytes payload.length 1) ++ payload
  bs ++ leBytes (crc32c bs) 4

/-- The payload of a version 2 STATUS frame with health word `h` (R354, R355). -/
def State.statusPayload (s : State) (h : Nat) : List Byte :=
  let on := s.coreOn
  let flags := packBits [s.gb Reg.CUS.STATUS.GRANT, on && s.gb Reg.CUS.STATUS.ACTING,
    on && s.gb Reg.CUS.STATUS.RELEASE_PENDING, s.gb Reg.CUS.STATUS.GRANT_STALE, !on]
  leBytes (s.g Reg.CUS.STATUS.UNIT_ID) 1 ++ leBytes (s.g Reg.CUS.STATUS.ROLE) 1 ++
    leBytes (if on then s.timeState else 0) 1 ++ leBytes flags 1 ++ leBytes h 4 ++
    leBytes (if on then s.g Reg.SEQ.LIVE_GEN.GENERATION else s.cus.genHeld) 4 ++
    leBytes (if on && s.gb Reg.SEQ.STATUS.STAGE_VALID then s.g Reg.SEQ.STAGE_GEN.GENERATION else 0) 4 ++
    leBytes (s.g Reg.CUS.HEARTBEAT.COUNT) 4

/-- Whether 10 ms have passed since the last STATUS frame, but for the 50 µs of R354.
(DEDUCED, log entry 63) -/
def State.statusDue (s : State) : Bool := s.cus.sentAt.all (fun t => decide (t + 9950000 ≤ s.clock))

/-- A STATUS frame is sent (R354); in compatibility mode CUS_TXD is held high (R350).
(DEDUCED, log entry 61) -/
def statusFrame (s : State) : State :=
  if s.cusOn && !s.compat && s.statusDue then
    let h := s.healthWord
    let s := (s.p Reg.CUS.HEALTH.WORD h).inc Reg.CUS.TX_FRAMES.COUNT
    let full := s.statusPayload h
    let f := if s.gb Reg.CUS.CTRL.TX_VERSION then cusFrame 1 1 (full.take 16) else cusFrame 2 1 full
    { s with cus := { s.cus with noted := 0, sent := f, sentAt := some s.clock } }
  else s

/-- A custodian frame that R357 ignores and counts. -/
def State.cusBad (s : State) : State := s.inc Reg.CUS.COUNTS.RX_ERR

/-- A valid custodian frame: counted, and LINK_UP set (R358). -/
def State.cusGood (s : State) : State :=
  ({ s with cus := { s.cus with rxAt := s.clock } }.inc Reg.CUS.COUNTS.RX_FRAMES).pb Reg.CUS.STATUS.LINK_UP true

/-- Whether the bytes are a frame of R353 with a version and a LEN that its type has (R357). -/
def cusFrameOk (bs : List Byte) : Bool :=
  let b := fun k => (bs.getD k 0).toNat
  let n := b 3
  b 0 == 0xC5 && bs.length == n + 8 && crc32c (bs.take (n + 4)) == leNat (bs.drop (n + 4)) &&
    ((b 2 == 0x10 && n == 4 && (b 1 == 1 || b 1 == 2)) || (b 2 == 0x11 && n == 2 && b 1 == 2) ||
      (b 2 == 0x12 && n == 4 && (b 1 == 1 || b 1 == 2)))

/-- Whether the payload of an ISOLATE or RESET frame is one that the table of R357 gives.
(DEDUCED, log entry 63) -/
def cusPayloadOk (bs : List Byte) : Bool :=
  let b := fun k => (bs.getD k 0).toNat
  if b 2 = 0x11 then decide (b 5 ≤ 1) else b 5 == 0x72 && b 6 == 0x64 && b 7 == 0

/-- A frame received on CUS_RXD: the state, and whether it commands a reset (R357, R358).
(DEDUCED, log entry 63) -/
def State.cusReceive (s : State) (bs : List Byte) : State × Bool :=
  if !s.cusOn || s.compat then (s, false)
  else if !cusFrameOk bs then (s.cusBad, false)
  else
    let b := fun k => (bs.getD k 0).toNat
    if b 2 = 0x10 then (s.cusGood, false)
    else if b 4 ≠ s.g Reg.CUS.STATUS.UNIT_ID then (s, false)
    else if !cusPayloadOk bs then (s.cusBad, false)
    else if b 2 = 0x11 then ((s.cusGood).isolateSet (b 5 == 1), false)
    else if s.gb Reg.CUS.CTRL.REMOTE_RESET_EN then (s.cusGood, true)
    else (s.cusBad, false)

/-! ### The registers (R360, R371) -/

/-- A write of CUS.CTRL by master `m` (R351, R358, R363). -/
def cusCtrlWrite (m : Nat) (v : Word) (s : State) : State :=
  let was := s.gb Reg.CUS.CTRL.ISOLATE
  let s := linkTimeout ((s.writeFields m 0x10070000 v 0).aliveRefresh)
  if s.gb Reg.CUS.CTRL.ISOLATE = was then s else s.isolateBecame (!was)

/-- What a ROLE_REQ comes to: 0 OK, 1 NOT_LOCKED, 2 GEN_DIFFERS, 3 WRONG_ROLE (R360).
(DEDUCED, log entry 63) -/
def State.roleCheck (s : State) (ready : Bool) : Nat :=
  if !ready then if s.g Reg.CUS.STATUS.ROLE = 1 then 0 else 3
  else if s.g Reg.CUS.STATUS.ROLE ≠ 0 then 3
  else if s.timeState ≠ 2 then 1
  else if s.g Reg.CUS.PEER_LIVE_GEN.GENERATION ≠ s.g Reg.SEQ.LIVE_GEN.GENERATION then 2
  else 0

/-- A write of CUS.ROLE_REQ by master `m` (R360). -/
def roleRequest (m : Nat) (v : Word) (s : State) : State :=
  let ready := bitOf v.toNat 0
  let r := s.roleCheck ready
  let s := s.p Reg.CUS.STATUS.REQ_RESULT r
  if r ≠ 0 then s.logIgnored m 0x10070008 v
  else if ready then (s.setRole 1).raise Ev.syncReady 0
  else s.setRole 0

/-- A write of CUS.PEER_LIVE_GEN by master `m` (R360). -/
def peerGenWrite (m : Nat) (v : Word) (s : State) : State := (s.writeFields m 0x1007001C v 0).genRefresh

/-- A write of CUS.COMPAT by master `m` (R367). -/
def compatWrite (m : Nat) (v : Word) (s : State) : State := (s.writeFields m 0x10070030 v 0).compatEval

/-- The generations have differed for SYNC_GRACE_MS (R360). -/
def graceExpire (s : State) : State :=
  match s.cus.diffAt with
  | none => s
  | some t =>
    if s.cusOn && decide (t + 1000000 * s.g Reg.CUS.SYNC_CTRL.SYNC_GRACE_MS ≤ s.clock) then s.readyFall else s

/-- T_release now, in whole µs rounded up, the frame period taken at the largest trim (R364).
(DEDUCED, log entry 60) -/
def State.tRelease (s : State) : Nat :=
  let longest := s.awakeHeads.foldl (fun t n => max t (s.frameNs n)) 0
  1000 + (longest * 1000255 / 1000000000).ceil.toNat

/-! ### The commands -/

/-- GRANT_RISE (R366). -/
def execGrantRise (dt : Nat) (s : State) : Out State := .next (grantChange true (s.advance dt))

/-- GRANT_FALL (R363). -/
def execGrantFall (dt : Nat) (s : State) : Out State := .next (grantChange false (s.advance dt))

/-- GRANT_STALE_CLEAR (R352). -/
def execGrantStaleClear (dt : Nat) (s : State) : Out State := .next (staleClear (s.advance dt))

/-- ISOLATE_SET (R363): a write of ISOLATE alone. -/
def execIsolateSet (dt : Nat) (m : Master) (on : Bool) (s : State) : Out State :=
  let s := s.advance dt
  let v := s.fieldWord Reg.CUS.CTRL.ISOLATE on.toNat
  .next (s.ctlWrite m.val 0x10070000 v (cusCtrlWrite m.val v))

/-- CUS_STATUS_FRAME (R354). -/
def execCusStatusFrame (dt : Nat) (s : State) : Out State := .next (statusFrame (s.advance dt))

/-- CUS_LINK_TIMEOUT (R358). -/
def execCusLinkTimeout (dt : Nat) (s : State) : Out State := .next (linkTimeout (s.advance dt))

/-- ALIVE_KICK (R351). -/
def execAliveKick (dt : Nat) (m : Master) (s : State) : Out State :=
  .next ((s.advance dt).ctlWrite m.val 0x1007000C 1 (aliveKick 1))

/-- ALIVE_TIMEOUT (R351). -/
def execAliveTimeout (dt : Nat) (s : State) : Out State :=
  let s := s.advance dt
  .next (if s.cusOn then s.aliveRefresh else s)

/-- ROLE_REQUEST (R360): whether STANDBY_READY is asked for. -/
def execRoleRequest (dt : Nat) (m : Master) (ready : Bool) (s : State) : Out State :=
  let v : Word := BitVec.ofNat 32 ready.toNat
  .next ((s.advance dt).ctlWrite m.val 0x10070008 v (roleRequest m.val v))

/-- SYNC_GRACE_EXPIRE (R360). -/
def execSyncGraceExpire (dt : Nat) (s : State) : Out State := .next (graceExpire (s.advance dt))

/-- PEER_OK_CHANGE (R367): the level of the pin. -/
def execPeerOkChange (dt : Nat) (level : Bool) (s : State) : Out State := .next (peerOkChange level (s.advance dt))

/-- TAKE_DELAY_EXPIRE (R367). -/
def execTakeDelayExpire (dt : Nat) (s : State) : Out State := .next (takeDelay (s.advance dt))

end Sys2Proof.Machine
end

