-- ==== Sys2Proof/Machine/Engines.lean ====
section
/-! DEFINITION. The engines: starting, halting, faults and automatic restart (R20 to R24, R452). -/

namespace Sys2Proof.Machine

/-- Engine `n` beyond its registers. -/
def State.engine (s : State) (n : Nat) : EngState := Tab.get EngState.reset n s.eng

/-- The state with engine `n` set beyond its registers. -/
def State.setEngine (s : State) (n : Nat) (e : EngState) : State :=
  { s with eng := Tab.put EngState.reset n e s.eng }

/-! ### The watchdog's count (R474) -/

/-- Whether the watchdog counts: not in a low-power state or a reset, nor while the Curator is HALTED with DEBUG_EN at 1. -/
def State.wdogRuns (s : State) : Bool :=
  s.coreOn && s.gb Reg.PWR.WDOG_CTRL.ENABLE &&
    !(([0, 1] : List Nat).any (fun n => s.g (Reg.ENG.STATUS.STATE n) == 3 && s.gb (Reg.ENG.CTRL.DEBUG_EN n)))

/-- The watchdog's count in nanoseconds. -/
def State.wdogCount (s : State) : Nat :=
  if s.wdogRuns then s.pwr.wdogUsed + (s.clock - s.pwr.wdogAt) else s.pwr.wdogUsed

/-- The count so far is kept, before what may stop or start it. -/
def State.wdogKeep (s : State) : State :=
  { s with pwr := { s.pwr with wdogUsed := s.wdogCount, wdogAt := s.clock } }

/-- The count starts again. -/
def State.wdogRestart (s : State) : State :=
  { s with pwr := { s.pwr with wdogUsed := 0, wdogAt := s.clock } }

/-- The boot loader kicks the watchdog, as it does while it runs (R474). -/
def State.bootKick (s : State) : State := (s.wdogRestart).pb Reg.PWR.WDOG_STATUS.WARNED false

/-! ### The state of an engine -/

/-- What an engine that leaves RUNNING does to its work (R23). -/
def State.engWorkStops (s : State) (n : Nat) : State :=
  if n < 2 then s.aliveRefresh
  else if n < 18 then s.ingEngineStop (n - 2)
  else if n = 22 then s.tchAbandon
  else if n = 23 then ({ s with time := { s.time with ppsOut := false } }).dpEngineStop
  else s

/-- Engine `n` takes state `x` of ENG[n].STATUS; the 100 ms of R22 start afresh with RUNNING. -/
def State.engSet (s : State) (n x : Nat) : State :=
  let was := s.g (Reg.ENG.STATUS.STATE n)
  let s := (s.wdogKeep).p (Reg.ENG.STATUS.STATE n) x
  if was = 2 ∧ x ≠ 2 then s.engWorkStops n
  else if was ≠ 2 ∧ x = 2 then
    let s := s.setEngine n { s.engine n with beatAt := s.clock }
    if n < 2 then s.aliveRefresh else if n = 22 then s.tchResume else s
  else s

/-- The state of engine `n` by its control bits: OFF without ENABLE or firmware, HALTED with HALT, else RUNNING. -/
def State.engRest (s : State) (n : Nat) : Nat :=
  if !s.gb (Reg.ENG.CTRL.ENABLE n) || !(s.engine n).loaded then 0
  else if s.gb (Reg.ENG.CTRL.HALT n) then 3
  else 2

/-- A write of ENG[n].CTRL by master `m` (R21, R22, R452).
(DEDUCED, log entry 67) -/
def engCtrlWrite (m n : Nat) (v : Word) (s : State) : State :=
  let was := s.g (Reg.ENG.STATUS.STATE n)
  let s := (s.wdogKeep).writeFields m (Reg.ENG.CTRL.ENABLE n).addr v 0
  if was = 4 ∧ s.gb (Reg.ENG.CTRL.ENABLE n) = true then s else s.engSet n (s.engRest n)

/-! ### Faults (R22 to R24) -/

/-- The key of byte `a` of the local memory of engine `n`. -/
def engKey (n a : Nat) : Nat := n * 2 ^ 20 + a

/-- The bytes of the local memory of engine `n` (R20). -/
def engMemSize (n : Nat) : Nat :=
  1024 * (if n < 2 then 96 else if n < 18 then 24 else if n < 22 then 16 else if n = 22 then 48 else 16)

/-- Firmware written to the local memory of engine `n` from `a`; what lies beyond its end has nowhere to go (R20).
(DEDUCED, log entry 67) -/
def State.engLoad (s : State) (n a : Nat) (bs : List Byte) : State :=
  { s with engMem := cellsWrite s.engMem (engKey n a) (bs.take (engMemSize n - a)) }

/-- Engine `n` after its domain reset: reloaded from its restart copy, it runs if ENABLE is 1 (R24, R481). LOADING is passed
within the command; a copy that the shared store's ECC cannot correct leaves it in FAULT (R32).
(DEDUCED, log entry 67) -/
def State.engReload (s : State) (n : Nat) : State :=
  let e := s.engine n
  let s := (s.masterReset (engMaster n)).p (Reg.ENG.HEARTBEAT.COUNT n) 0
  let s := s.engSet n 0
  if s.eccHit e.copyAddr e.copyLen && decide (0 < e.copyLen) then
    (s.errLog (dataRecord s Rsn.ecc (engMaster n) e.copyAddr e.copyLen false 0 0)).engSet n 4
  else
    let s := s.engLoad n e.loadOff (s.bytes e.copyAddr e.copyLen)
    s.engSet n (s.engRest n)

/-- FAULT holds the first fault since it was cleared. -/
def State.engFaultNote (s : State) (n cause : Nat) : State :=
  if s.gb (Reg.ENG.FAULT.VALID n) then s
  else (s.pb (Reg.ENG.FAULT.VALID n) true).p (Reg.ENG.FAULT.CAUSE n) cause

/-- A fault of engine `n` (R23, R24). -/
def State.engFault (s : State) (n cause : Nat) : State :=
  let s := ((s.masterReset (engMaster n)).engSet n 4).engFaultNote n cause
  let s := s.raise Ev.engineFault (n + 256 * cause)
  let recent := match (s.engine n).restartAt with
    | none => false
    | some t => decide (s.clock < t + 1000000000)
  if 2 ≤ n ∧ s.gb (Reg.ENG.CTRL.AUTO_RESTART n) = true ∧ recent = false then
    let s := (s.engReload n).incSat (Reg.ENG.STATUS.RESTARTS n)
    s.setEngine n { s.engine n with restartAt := some s.clock }
  else s

/-- The code of a cause. -/
def engineCauseCode : EngineCause → Nat
  | .illegalInsn => 1
  | .busError => 2
  | .localEcc => 3
  | .stackLimit => 4

/-- A fault of a running engine. -/
def engineFault (n cause : Nat) (s : State) : State := if s.coreOn && s.engRunning n then s.engFault n cause else s

/-- A heartbeat unchanged for 100 ms of RUNNING (R22). -/
def engineStall (n : Nat) (s : State) : State :=
  if s.coreOn && decide (2 ≤ n) && s.engRunning n && decide ((s.engine n).beatAt + 100000000 ≤ s.clock) then s.engFault n 5
  else s

/-- The heartbeat of engine `n` as its firmware moves it (R22).
(DEDUCED, log entry 19) -/
def State.heartbeat (s : State) (n : Nat) : State :=
  if s.engRunning n then
    (s.inc (Reg.ENG.HEARTBEAT.COUNT n)).setEngine n { s.engine n with beatAt := s.clock }
  else s

/-- The outputs of the Curator cores differ (R23).
(DEDUCED, log entry 67) -/
def lockstepMismatch (s : State) : State :=
  if s.coreOn && s.engRunning 0 && s.engRunning 1 then
    let s := (s.masterReset 0).pb Reg.ENG.INFO.LOCKSTEP_OK false
    let s := ((s.engSet 0 4).engFaultNote 0 6).engSet 1 4
    (s.engFaultNote 1 6).raise Ev.lockstep 0
  else s

/-! ### The commands -/

/-- ENGINE_ENABLE (R452). -/
def execEngineEnable (dt : Nat) (m : Master) (n : Fin 24) (s : State) : Out State :=
  let s := s.advance dt
  let v := s.fieldWord (Reg.ENG.CTRL.ENABLE n.val) 1
  .next (s.ctlWrite m.val (Reg.ENG.CTRL.ENABLE n.val).addr v (engCtrlWrite m.val n.val v))

/-- ENGINE_DISABLE (R21). -/
def execEngineDisable (dt : Nat) (m : Master) (n : Fin 24) (s : State) : Out State :=
  let s := s.advance dt
  let v := s.fieldWord (Reg.ENG.CTRL.ENABLE n.val) 0
  .next (s.ctlWrite m.val (Reg.ENG.CTRL.ENABLE n.val).addr v (engCtrlWrite m.val n.val v))

/-- ENGINE_HALT (R22). -/
def execEngineHalt (dt : Nat) (m : Master) (n : Fin 24) (s : State) : Out State :=
  let s := s.advance dt
  let v := s.fieldWord (Reg.ENG.CTRL.HALT n.val) 1
  .next (s.ctlWrite m.val (Reg.ENG.CTRL.HALT n.val).addr v (engCtrlWrite m.val n.val v))

/-- ENGINE_RESUME (R22). -/
def execEngineResume (dt : Nat) (m : Master) (n : Fin 24) (s : State) : Out State :=
  let s := s.advance dt
  let v := s.fieldWord (Reg.ENG.CTRL.HALT n.val) 0
  .next (s.ctlWrite m.val (Reg.ENG.CTRL.HALT n.val).addr v (engCtrlWrite m.val n.val v))

/-- ENGINE_STALL (R22). -/
def execEngineStall (dt : Nat) (n : Fin 24) (s : State) : Out State := .next (engineStall n.val (s.advance dt))

/-- ENGINE_FAULT (R23): the cause. -/
def execEngineFault (dt : Nat) (n : Fin 24) (cause : EngineCause) (s : State) : Out State :=
  .next (engineFault n.val (engineCauseCode cause) (s.advance dt))

/-- LOCKSTEP_MISMATCH (R23). -/
def execLockstepMismatch (dt : Nat) (s : State) : Out State := .next (lockstepMismatch (s.advance dt))

end Sys2Proof.Machine
end

