-- ==== Sys2Proof/Machine/Resets.lean ====
section
/-! DEFINITION. What a reset and a low-power state leave of the machine, and the commands that reset it (R6, R7, R467 to
R470, R477 to R481, R486). -/

namespace Sys2Proof.Machine

/-! ### The placement of DRAM content (R374, R376) -/

/-- What a change of HASH_MASK to `new` makes of DRAM address `a`: the address that the same granule has afterwards. -/
def State.movedTo (s : State) (new : Nat → Nat) (a : Nat) : Nat :=
  if a < dramBase then a
  else
    let u := (a - dramBase) / 4096
    let bit := fun i => (parity (u &&& (s.g (Reg.DMC.HASH_MASK i) ^^^ new i)) 23).toNat
    a ^^^ ((bit 0 + 2 * bit 1 + 4 * bit 2 + 8 * bit 3) * 256)

/-- HASH_MASK takes new values; DRAM keeps its content, which is placed by them from now on (R376). -/
def State.rehash (s : State) (new : Nat → Nat) : State :=
  let moved := s.movedTo new
  let mem := if (List.range 4).all (fun i => s.g (Reg.DMC.HASH_MASK i) == new i) then s.mem
    else s.mem.foldl (fun m c => Tab.put 0 (moved c.1) c.2 m) []
  (List.range 4).foldl (fun s i => s.p (Reg.DMC.HASH_MASK i) (new i)) { s with mem := mem }

/-! ### What is lost (R6, R7, R30, R480, R486) -/

/-- Memory content kept: DRAM where `dram` says so, course memory where `course` does; the rest reads as unwritten.
(DESIGN CHOICE, log entry 6) -/
def State.memKeep (s : State) (dram course : Bool) : State :=
  let inCourse := fun (a : Nat) => decide (0x1000000 ≤ a) && decide (a < 0x1080000)
  { s with
    mem := s.mem.filter (fun c => (dram && decide (dramBase ≤ c.1)) || (course && inCourse c.1))
    eccBad := if course then s.eccBad.filter (fun w => inCourse (8 * w)) else [] }

/-- A FLASH_WRITE or the programming of the fuses that a reset cuts short leaves its range undefined (R456).
(DEDUCED, log entry 68) -/
def State.nvmCut (s : State) : State :=
  let s := match s.boot.flash with
    | some j => { s with flash := flashWrite s.flash j.addr ((List.range j.data.length).map (Config.freeByte s.free)) }.drawn
    | none => s
  let s := match s.boot.fuse with
    | some _ => { s with pins := { s.pins with
        keyDigest := (List.range 8).map (fun i => leNat ((List.range 4).map (fun k => Config.freeByte s.free (4 * i + k)))) } }.drawn
    | none => s
  { s with boot := { s.boot with flash := none, fuse := none } }.pb Reg.BOOT.FLASH.BUSY false

/-- A channel that loses what training has not stored. -/
def DmcChan.quiet (c : DmcChan) : DmcChan := { c with osc := none, corr := [] }

/-- Each memory controller finishes its request in progress: the writes that it has granted are in memory (R479). -/
def State.finishGranted (s : State) : State :=
  s.bus.inflight.foldl (fun s (p : PendReq) =>
    if p.write && p.granted && p.fail == 0 && decide (p.target < 8) then s.storeMasked p.addr p.data p.strobes else s) s

/-- Everything of the CORE domain beyond its registers as a reset leaves it; custody, the count, memory and the boot loader
are the callers'. -/
def State.coreBlank (s : State) : State :=
  let s := s.nvmCut
  { s with
    clk := ⟨[], []⟩
    bus := State.reset.bus
    evt := State.reset.evt
    eng := []
    engMem := []
    img := State.reset.img
    seq := State.reset.seq
    heads := []
    bufs := []
    srcs := []
    rel := []
    lanes := []
    quads := []
    dp := []
    tzl := []
    net := State.reset.net
    dec := State.reset.dec
    cap := State.reset.cap
    enc := State.reset.enc
    tch := State.reset.tch
    dmc := { State.reset.dmc with
      chans := s.dmc.chans.map (fun e => (e.1, DmcChan.quiet e.2)) |>.filter (fun e => e.2 != DmcChan.reset) }
    host := { State.reset.host with mgmtLast := s.host.mgmtLast } }

/-- Every register field that a reset of rank `r` clears returns to its reset value (R6). -/
def State.regsClear (s : State) (r : Rank) : State := s.resetRegs 0x10000000 0x20000000 (clearMask r)

/-- The boot loader is due to run after `kind`.
(DEDUCED, log entry 74) -/
def State.bootDue (s : State) (kind : BootKind) : State :=
  let s := { s with boot := { State.reset.boot with at_ := s.clock, kind := kind } }
  let s := ((s.p Reg.BOOT.STATUS.STATE 0).p Reg.BOOT.STATUS.STAT 1).p Reg.BOOT.STATUS.REASON 0
  s.bootKick

/-- The straps as latched, where the blocks show them (R443); in compatibility mode CUS_GRANT is ignored (R367).
(DEDUCED, log entry 61) -/
def State.strapsShow (s : State) : State :=
  let s := (s.p Reg.CUS.STATUS.UNIT_ID (s.g Reg.SYS.STRAPS.UNIT_ID)).p Reg.CUS.STATUS.MODE (s.g Reg.SYS.STRAPS.CUS_MODE)
  if s.compat then s.pb Reg.CUS.STATUS.GRANT_STALE false else s

/-- The straps are latched (R443).
(DESIGN CHOICE, log entry 8) -/
def State.strapsLatch (s : State) : State :=
  let s := (s.p Reg.SYS.STRAPS.BOOT_MODE s.pins.bootMode).p Reg.SYS.STRAPS.UNIT_ID s.pins.unitId
  (s.pb Reg.SYS.STRAPS.CUS_MODE s.pins.cusMode).strapsShow

/-- The straps pins have these levels. -/
def State.strapPins (s : State) (x : Straps) : State :=
  { s with pins := { s.pins with bootMode := x.bootMode.val, unitId := x.unitId.val, cusMode := x.cusMode } }

/-- What a hard reset of rank `r` clears; DRAM content comes through it where `dram` says so (R480). -/
def State.hardClear (s : State) (r : Rank) (dram : Bool) : State :=
  let s := s.coreBlank
  let s := (s.memKeep dram false).rehash (fun _ => 0)
  let s := s.regsClear r
  { s with
    time := State.reset.time
    cus := State.reset.cus
    dmc := State.reset.dmc
    host := State.reset.host
    boot := State.reset.boot
    pwr := { s.pwr with
      wdogUsed := 0, target := 0, wakeGpio := none, wakeHost := false, wakeGrant := false
      hotMask := if r = .p then 0 else s.pwr.hotMask, thermDone := s.pwr.thermDone && r != .p
      temps := if r = .p then [] else s.pwr.temps } }

/-- The reset holds the device, for the cause given. -/
def State.hold (s : State) (mode : PowerMode) (cause : Nat) : State :=
  { s with pwr := { s.pwr with mode := mode, cause := cause } }

/-- A hard reset of cause `cause` ends: straps latched, cause recorded, the boot loader due (R443, R478).
(DEDUCED, log entry 68) -/
def State.hardEnd (s : State) (cause : Nat) (dram : Bool) : State :=
  let s := { s with pwr := { s.pwr with mode := .run, cause := 0 } }
  let s := s.strapsLatch
  let s := (s.p Reg.RST.STATUS.CAUSE cause).pb Reg.RST.STATUS.DRAM_KEPT dram
  let s := if cause = 1 then s.incSat Reg.RST.COUNTS.BROWN_OUTS
    else if cause = 4 then s.incSat Reg.RST.COUNTS.WATCHDOGS
    else if cause = 5 then s.incSat Reg.RST.COUNTS.CUSTODIANS
    else s
  s.bootDue .hard

/-- A reset that RESET_N or the crystal holds ends once neither does (R467, R477). -/
def State.releaseHeld (s : State) : State :=
  if s.pwr.mode = .held ∧ s.pwr.pinLow = false ∧ s.pwr.noXtal = false then s.hardEnd s.pwr.cause false else s

/-! ### The commands of the hard resets (R467 to R470, R474, R477) -/

/-- The power-on reset ends, or power has been cycled (R467); RESET_N low holds the device on.
(DEDUCED, log entry 68) -/
def powerOn (x : Straps) (s : State) : State :=
  let cause := if s.pwr.mode = .unpowered then s.pwr.cause else 0
  let s := (s.strapPins x).hardClear .p false
  let s := { s with pwr := { s.pwr with noXtal := false } }
  if s.pwr.pinLow then s.hold .held 2 else s.hardEnd cause false

/-- RESET_N beyond its glitch filter (R467). -/
def pinReset (low : Bool) (x : Straps) (s : State) : State :=
  let s := (s.strapPins x)
  let s := { s with pwr := { s.pwr with pinLow := low } }
  if s.pwr.mode = .unpowered then s
  else if low then (s.hardClear .h false).hold .held 2
  else s.releaseHeld

/-- A brown-out: the device is held until its rails are in order again (R469, R470).
(DEDUCED, log entry 68) -/
def brownOut (s : State) : State :=
  if s.pwr.mode = .unpowered then s else (s.hardClear .p false).hold .unpowered 1

/-- The crystal stops for 10 µs, or has run again for 10 ms (R477); in DORMANT it is stopped (R483). -/
def xtal (running : Bool) (s : State) : State :=
  if s.pwr.mode = .unpowered ∨ s.pwr.mode = .dormant then s
  else if running then { s with pwr := { s.pwr with noXtal := false } }.releaseHeld
  else
    let s := (s.hardClear .h false).hold .held 3
    { s with pwr := { s.pwr with noXtal := true } }

/-- A watchdog (4) or custodian-commanded (5) reset; DRAM is kept where every channel reached self-refresh in 10 µs
(R479). -/
def State.commandedReset (s : State) (cause : Nat) (kept : Bool) : State := ((s.finishGranted).hardClear .h kept).hardEnd cause kept

/-! ### The software full reset (R478 to R480) -/

/-- A software full reset: the custody role is kept, though the time state becomes UNLOCKED (R359, R480).
(DESIGN CHOICE, log entry 98) -/
def State.softReset (s : State) (kept : Bool) : State :=
  let s := s.wdogKeep.finishGranted
  let s := (s.coreBlank).memKeep true true
  let s := s.regsClear .s
  let s := { s with time := { State.reset.time with count := s.time.count, offset := s.time.offset } }
  let s := if s.gb Reg.CUS.STATUS.RELEASE_PENDING then s.finishRelease else s
  let s := (s.clkRefresh.p Reg.RST.STATUS.CAUSE 6).pb Reg.RST.STATUS.DRAM_KEPT kept
  let s := (s.incSat Reg.RST.COUNTS.SOFTWARE).aliveRefresh
  { s with
    pwr := { s.pwr with mode := .run, target := 0, wakeGpio := none, wakeHost := false, wakeGrant := false } }.bootDue .soft

/-- The key of RST.SW_FULL (R478). -/
def swFullKey : Nat := 0x525354

/-- A write of RST.SW_FULL by master `m` (R478). -/
def swFullWrite (m : Nat) (v : Word) (kept : Bool) (s : State) : State :=
  if v.toNat = swFullKey then s.softReset kept else s.logIgnored m 0x10030004 v

/-! ### Domain resets (R481) -/

/-- The D fields of the registers from `lo` to `hi` return to their reset values. -/
def State.domainClear (s : State) (lo hi : Nat) : State := s.resetRegs lo hi (clearMask .d)

/-- Whether CODE names a block (R481). -/
def domainNamed (code : Nat) : Bool :=
  ([(2, 0x17), (0x20, 0x29), (0x30, 0x33), (0x38, 0x3B), (0x40, 0x4F), (0x80, 0xBF), (0xC0, 0xC0)] : List (Nat × Nat)).any
    (fun r => decide (r.1 ≤ code ∧ code ≤ r.2))

/-- The block that CODE names resets (R481). `e` is what a decode picture that is cut short comes to.
(DEDUCED, log entry 69) -/
def State.domainReset (s : State) (code : Nat) (e : DecEnd) : State :=
  if 2 ≤ code ∧ code ≤ 0x17 then s.engReload code
  else if 0x20 ≤ code ∧ code ≤ 0x27 then
    let n := code - 0x20
    let s := (s.masterReset (25 + n)).decAbandon n 0 e
    (s.domainClear (0x10200000 + 0x10000 * n) (0x10208000 + 0x10000 * n)).clkRefresh
  else if 0x28 ≤ code ∧ code ≤ 0x29 then
    let n := code - 0x28
    let s := (s.masterReset (33 + n)).encAbandon n
    (s.domainClear (0x10300000 + 0x10000 * n) (0x10304000 + 0x10000 * n)).clkRefresh
  else if 0x30 ≤ code ∧ code ≤ 0x33 then
    let j := code - 0x30
    let s := (s.masterReset (35 + j)).frameDrop j true
    let s := (s.ctxsOn j).foldl (fun s c => s.frameDrop (s.g (Reg.ISP.CTX.PORT j c)) true) s
    (s.domainClear (0x10380000 + 0x10000 * j) (0x10390000 + 0x10000 * j)).clkRefresh
  else if 0x38 ≤ code ∧ code ≤ 0x3B then
    let q := code - 0x38
    let s := ([0, 1, 2, 3] : List Nat).foldl (fun s l => s.portDown q l) (s.masterReset 44)
    s.domainClear (0x10500000 + 0x10000 * q) (0x10510000 + 0x10000 * q)
  else if 0x40 ≤ code ∧ code ≤ 0x4F then
    let q := code - 0x40
    let s := s.masterReset 41
    let s := if s.g (Reg.TZL.STATUS.LINK q) = 0 then s else (s.tzlLink q 1).tzlTry q
    s.domainClear (0x10780000 + 0x1000 * q) (0x10781000 + 0x1000 * q)
  else if 0x80 ≤ code ∧ code ≤ 0xBF then
    let n := code - 0x80
    let s := if s.g (Reg.DPTX.STATUS.LINK n) = 0 ∨ s.g (Reg.DPTX.STATUS.LINK n) = 4 then s else (s.dpLink n 1).dpAuto n
    s.domainClear (0x10700000 + 0x400 * n) (0x10700400 + 0x400 * n)
  else if code = 0xC0 then
    ((s.masterReset 39).tchStop).domainClear 0x100D0000 0x100E0000
  else s

/-- A write of RST.DOMAIN by master `m` (R481). -/
def domainWrite (m : Nat) (v : Word) (e : DecEnd) (s : State) : State :=
  let runs := s.gb Reg.RST.DOMAIN.GO
  let s := s.writeFields m 0x10030008 v 0
  if fieldGet v 31 1 = 0 then s
  else if runs then (s.p Reg.RST.DOMAIN.RESULT 2).logIgnored m 0x10030008 v
  else if domainNamed (s.g Reg.RST.DOMAIN.CODE) then (s.domainReset (s.g Reg.RST.DOMAIN.CODE) e).pb Reg.RST.DOMAIN.GO true
  else (s.p Reg.RST.DOMAIN.RESULT 2).logIgnored m 0x10030008 v

/-- The domain reset that runs ends (R481). -/
def domainDone (s : State) : State :=
  if s.coreOn && s.gb Reg.RST.DOMAIN.GO then (s.pb Reg.RST.DOMAIN.GO false).p Reg.RST.DOMAIN.RESULT 1 else s

/-! ### Custodian frames (R357) -/

/-- A frame received on CUS_RXD; a RESET frame resets the unit. -/
def custodianFrame (bs : List Byte) (kept : Bool) (s : State) : State :=
  let r := s.cusReceive bs
  if r.2 then r.1.commandedReset 5 kept else r.1

/-! ### The commands -/

/-- POWER_ON_RESET (R467), with the levels of the straps. -/
def execPowerOnReset (dt : Nat) (x : Straps) (s : State) : Out State := .next (powerOn x (s.advance dt))

/-- PIN_RESET (R467): RESET_N low, or high again, with the levels of the straps. -/
def execPinReset (dt : Nat) (low : Bool) (x : Straps) (s : State) : Out State := .next (pinReset low x (s.advance dt))

/-- BROWN_OUT_RESET (R470). -/
def execBrownOutReset (dt : Nat) (s : State) : Out State := .next (brownOut (s.advance dt))

/-- XTAL_LOSS (R477): the crystal has stopped, or runs again. -/
def execXtalLoss (dt : Nat) (running : Bool) (s : State) : Out State := .next (xtal running (s.advance dt))

/-- SOFTWARE_FULL_RESET (R480): a write of RST.SW_FULL, and whether every channel reaches self-refresh in time. -/
def execSoftwareFullReset (dt : Nat) (m : Master) (v : Word) (kept : Bool) (s : State) : Out State :=
  .next ((s.advance dt).ctlWrite m.val 0x10030004 v (swFullWrite m.val v kept))

/-- DOMAIN_RESET (R481): a write of RST.DOMAIN with GO. -/
def execDomainReset (dt : Nat) (m : Master) (code : Byte) (e : DecEnd) (s : State) : Out State :=
  let v : Word := BitVec.ofNat 32 (2 ^ 31 + code.toNat)
  .next ((s.advance dt).ctlWrite m.val 0x10030008 v (domainWrite m.val v e))

/-- DOMAIN_RESET_DONE (R481). -/
def execDomainResetDone (dt : Nat) (s : State) : Out State := .next (domainDone (s.advance dt))

/-- KEEPALIVE (R357): a frame of the custody UART. -/
def execKeepalive (dt : Nat) (bs : List Byte) (s : State) : Out State := .next (custodianFrame bs false (s.advance dt))

/-- ISOLATE (R357): a frame of the custody UART. -/
def execIsolate (dt : Nat) (bs : List Byte) (s : State) : Out State := .next (custodianFrame bs false (s.advance dt))

/-- CUSTODIAN_RESET (R357): a frame of the custody UART, and whether every channel reaches self-refresh in time. -/
def execCustodianReset (dt : Nat) (bs : List Byte) (kept : Bool) (s : State) : Out State :=
  .next (custodianFrame bs kept (s.advance dt))

end Sys2Proof.Machine
end

