-- ==== Sys2Proof/Machine/Power.lean ====
section
/-! DEFINITION. Supplies, temperature, watchdog, clocks and the low-power states (R465 to R488). -/

namespace Sys2Proof.Machine

/-- Whether AON_BASE is powered and out of reset (R30). -/
def State.aonOn (s : State) : Bool := s.coreOn || decide (s.pwr.mode = .standby) || decide (s.pwr.mode = .dormant)

/-! ### The always-on supply and the monitors (R468 to R471) -/

/-- VAON_M below 1.62 V (R468, R469).
(DEDUCED, log entry 70) -/
def toBackup (s : State) : State :=
  if s.pwr.mode != .unpowered && !s.gb Reg.PWR.STATUS.AON_SRC then
    ((s.pb Reg.PWR.STATUS.AON_SRC true).pb Reg.PWR.STATUS.BACKUP_SEEN true).raise Ev.pwrBackup 0
  else s

/-- VAON_M above 1.70 V for 10 ms (R468). -/
def toMain (s : State) : State := if s.pwr.mode = .unpowered then s else s.pb Reg.PWR.STATUS.AON_SRC false

/-- Rail `r` falls below its warning level, the rails of `below` being below theirs now (R471): an episode that begins so pauses a
FLASH_WRITE.
(DEDUCED, log entry 70) -/
def pwrWarn (r below : Nat) (s : State) : State :=
  if s.pwr.mode = .unpowered then s
  else
    let now := below ||| 2 ^ r
    let s := (s.p Reg.PWR.BELOW.BELOW now).p Reg.PWR.BELOW.BELOW_SEEN (s.g Reg.PWR.BELOW.BELOW_SEEN ||| now)
    let s := ({ s with pwr := { s.pwr with railAt := s.clock } }).incSat Reg.PWR.WARN_COUNTS.DIPS
    if s.gb Reg.PWR.STATUS.WARN_ACTIVE then s
    else
      let s := { s with
        pwr := { s.pwr with warnRail := r }
        boot := { s.boot with flash := s.boot.flash.map (fun (j : FlashJob) => { j with paused := true }) } }
      ((s.pb Reg.PWR.STATUS.WARN_ACTIVE true).incSat Reg.PWR.WARN_COUNTS.EPISODES).raise Ev.pwrWarn r

/-- Every rail above its warning level for 10 ms (R471): a FLASH_WRITE that was paused resumes.
(DEDUCED, log entry 70) -/
def pwrRecover (s : State) : State :=
  if s.pwr.mode != .unpowered && s.gb Reg.PWR.STATUS.WARN_ACTIVE && decide (s.pwr.railAt + 10000000 ≤ s.clock) then
    let s : State := { s with
      boot := { s.boot with flash := s.boot.flash.map (fun (j : FlashJob) => { j with paused := false }) } }
    ((s.p Reg.PWR.BELOW.BELOW 0).pb Reg.PWR.STATUS.WARN_ACTIVE false).raise Ev.pwrRecover s.pwr.warnRail
  else s

/-- A write of RAIL[r] by master `m`: a reset level that would not lie below the warning level is a reserved value (R470). -/
def railWrite (m a : Nat) (v : Word) (s : State) : State :=
  let t := takeFields true v 0 (s.reg a) ((regFields a).getD [])
  if inRange 0x10020010 0x10020034 a && decide (fieldGet t.word 8 8 ≤ fieldGet t.word 0 8) then
    s.logTaken m a v { t with reserved := true }
  else s.writeFields m a v 0

/-! ### Temperature (R472, R473) -/

/-- The word of sensor `i`: its peak and its last reading.
(DEDUCED, log entry 72) -/
def State.tempWord (s : State) (i : Nat) : Word :=
  if 4 ≤ i ∧ i < 7 then Tab.get 0x80000000 i s.pwr.temps else s.reg (0x10020070 + 4 * i)

/-- The state with the word of sensor `i` set; the watchdog's registers stand where those of sensors 4 to 6 would (R488).
(DEDUCED, log entry 72) -/
def State.setTempWord (s : State) (i : Nat) (w : Word) : State :=
  if 4 ≤ i ∧ i < 7 then { s with pwr := { s.pwr with temps := Tab.put 0x80000000 i w s.pwr.temps } }
  else s.setReg (0x10020070 + 4 * i) w

/-- The sensors have been read, in units of 0.25 °C.
(DEDUCED, log entry 70) -/
def thermalReading (temps : List Int) (s : State) : State :=
  if s.pwr.mode = .unpowered then s
  else
    let sensors := List.range 8
    let t := fun i => temps.getD i 0
    let s := sensors.foldl (fun s i =>
      let peak := max (signed 16 (fieldGet (s.tempWord i) 16 16)) (t i)
      s.setTempWord i (BitVec.ofNat 32 (unsigned 16 peak * 65536 + unsigned 16 (t i)))) s
    let hottest := sensors.foldl (fun b i => if t b < t i then i else b) 0
    let warn : Int := 4 * s.g Reg.PWR.THERM_CTRL.WARN_C
    let calm : Int := warn - 4 * s.g Reg.PWR.THERM_CTRL.HYST_C
    let above := sensors.filter (fun i => decide (warn < t i))
    let hot := sensors.foldl (fun m i => if 460 ≤ t i then m + 2 ^ i else m) 0
    let s := ((s.p Reg.PWR.THERM_STATUS.MAX_Q (unsigned 16 (t hottest))).p Reg.PWR.THERM_STATUS.HOTTEST hottest).pb
      Reg.PWR.THERM_STATUS.HOT (!above.isEmpty)
    let s := if hot &&& s.pwr.hotMask = 0 then s else s.pb Reg.PWR.THERM_STATUS.TRIPPED true
    let s := { s with pwr := { s.pwr with hotMask := hot } }
    match above with
    | i :: _ =>
      if s.pwr.thermDone then s else { s with pwr := { s.pwr with thermDone := true } }.raise Ev.thermal i
    | [] => if sensors.all (fun i => decide (t i < calm)) then { s with pwr := { s.pwr with thermDone := false } } else s

/-! ### The watchdog (R474) -/

/-- Whether the boot loader runs, which kicks the watchdog; the recovery responder is part of it (R455, R474).
(DEDUCED, log entry 71) -/
def State.bootRuns (s : State) : Bool := s.boot.phase != .idle || s.g Reg.BOOT.STATUS.STATE == 2

/-- A write of WDOG_KICK (R474). -/
def wdogKick (v : Word) (s : State) : State :=
  if fieldGet v 0 1 = 1 then (s.wdogRestart).pb Reg.PWR.WDOG_STATUS.WARNED false else s

/-- A write of WDOG_CTRL by master `m`: ignored and logged once ENABLE is 1 (R474). -/
def wdogCtrlWrite (m : Nat) (v : Word) (s : State) : State :=
  if s.gb Reg.PWR.WDOG_CTRL.ENABLE then s.logIgnored m 0x10020080 v
  else
    let s := s.writeFields m 0x10020080 v 0
    if s.gb Reg.PWR.WDOG_CTRL.ENABLE then s.wdogRestart else s

/-- The watchdog expires (R474).
(DEDUCED, log entry 71) -/
def wdogExpire (kept : Bool) (s : State) : State :=
  if s.wdogRuns && !s.bootRuns && decide (1000000 * s.g Reg.PWR.WDOG_CTRL.TIMEOUT_MS ≤ s.wdogCount) then
    let s := s.incSat Reg.PWR.WDOG_STATUS.EXPIRIES
    if s.gb Reg.PWR.WDOG_STATUS.WARNED && !s.gb Reg.PWR.WDOG_CTRL.REPORT_ONLY then s.commandedReset 4 kept
    else ((s.wdogRestart).pb Reg.PWR.WDOG_STATUS.WARNED true).raise Ev.wdogWarn 0
  else s

/-! ### Clocks (R475 to R477) -/

/-- CLK.RUNNING: the NOC, CPU, DMC, NET and REF PLLs run whenever CORE is powered (R475). -/
def State.clkRunning (s : State) : Nat := if s.coreOn then s.g Reg.CLK.RUNNING ||| 0x67 else 0

/-- PLL `k` reaches lock: bits 0 to 15 of CLK.LOCK, or 32 and the number of a lane quad. -/
def pllLocked (k : Nat) (s : State) : State :=
  if !s.coreOn then s
  else if 32 ≤ k then s.quadLocked (k - 32)
  else if k < 16 ∧ bitOf s.clkRunning k = true then
    if k < 8 then s.p Reg.CLK.LOCK.LOCK (s.g Reg.CLK.LOCK.LOCK ||| 2 ^ k)
    else s.p Reg.CLK.LOCK.VPLL_LOCK (s.g Reg.CLK.LOCK.VPLL_LOCK ||| 2 ^ (k - 8))
  else s

/-- The lock bit of PLL `k` falls. -/
def State.lockFalls (s : State) (k : Nat) : State :=
  if k < 8 then s.p Reg.CLK.LOCK.LOCK (s.g Reg.CLK.LOCK.LOCK &&& (127 - 2 ^ k % 128))
  else s.p Reg.CLK.LOCK.VPLL_LOCK (s.g Reg.CLK.LOCK.VPLL_LOCK &&& (255 - 2 ^ (k - 8)))

/-- PLL `k` is not locked in time, or loses lock (R477).
(DEDUCED, log entry 70) -/
def pllFail (k : Nat) (s : State) : State :=
  if s.coreOn && bitOf s.clkRunning k then
    ((s.lockFalls k).p Reg.CLK.FAIL (s.g Reg.CLK.FAIL ||| 2 ^ k)).raise Ev.clkFail k
  else s

/-- PLL `k` stops 1 ms after its last requester released it (R475). -/
def pllIdleStop (k : Nat) (s : State) : State :=
  match Tab.get none k s.clk.idleAt with
  | none => s
  | some t =>
    if s.coreOn && decide (t + 1000000 ≤ s.clock) && !s.pllWanted k then
      ({ s with clk := { s.clk with idleAt := Tab.put none k none s.clk.idleAt } }.lockFalls k).p Reg.CLK.RUNNING
        (s.g Reg.CLK.RUNNING &&& (65535 - 2 ^ k))
    else s

/-- Whether a VPLL's frequency lies in its range: 2,000 to 4,800 MHz before the output divider (R476). -/
def vcoFits (n num den : Nat) : Bool := decide (80 * den ≤ n * den + num) && decide (n * den + num ≤ 192 * den)

/-- A write of a register of VPLL[k] by master `m` (R228, R476): of one in use, a write of CTRL, which writes ENABLE, is ignored, and
one that changes its frequency.
(DEDUCED, log entry 21) -/
def vpllWrite (m k a : Nat) (v : Word) (s : State) : State :=
  let off := a % 0x10
  let t := takeFields true v 0 (s.reg a) ((regFields a).getD [])
  let n := if off = 0 then fieldGet t.word 0 8 else s.g (Reg.CLK.VPLL.N k)
  let num := if off = 4 then fieldGet t.word 0 24 else s.g (Reg.CLK.FRAC_NUM k)
  let den := if off = 8 then fieldGet t.word 0 24 else s.g (Reg.CLK.FRAC_DEN k)
  let post := if off = 0 then fieldGet t.word 24 3 else s.g (Reg.CLK.VPLL.POST k)
  if s.vpllUsed k && (off == 0 || pllHz n num den post != s.vpllHz k) then s.logIgnored m a v
  else if !vcoFits n num den || (off == 4 && decide (den ≤ num)) then
    let keep := if off = 0 then fieldSet t.word 0 8 (s.g (Reg.CLK.VPLL.N k)) else s.reg a
    ((s.setReg a keep).logTaken m a v { t with reserved := true }).clkRefresh
  else (s.writeFields m a v 0).clkRefresh

/-! ### Low-power states (R482 to R485) -/

/-- A write of LP_CTRL by master `m` (R483).
(DEDUCED, log entry 73) -/
def lpWrite (m : Nat) (v : Word) (s : State) : State :=
  let s := s.writeFields m 0x10020040 v 0
  if fieldGet v 31 1 = 0 ∨ s.pwr.mode ≠ .run ∨ s.g Reg.PWR.LP_CTRL.TARGET = 0 then s
  else if s.boot.flash.isSome then s.p Reg.PWR.LP_CTRL.RESULT 2
  else
    let s := (s.p Reg.PWR.WAKE_CAUSE.CAUSE 0).p Reg.PWR.WAKE_CAUSE.GPIO_NUM 0
    { s with pwr := { s.pwr with
      mode := .entering, target := s.g Reg.PWR.LP_CTRL.TARGET, entryAt := s.clock, wakeGpio := none, wakeHost := false
      wakeGrant := false } }

/-- The heads have stopped, and the domains are gated (R483).
(DEDUCED, log entry 73) -/
def lpEntered (s : State) : State :=
  if s.pwr.mode ≠ .entering ∨ allHeads.any (fun n => s.headRuns n) = true then s
  else
    let deep := s.pwr.target = 2
    let s := { s.wdogKeep with cus := { s.cus with genHeld := s.g Reg.SEQ.LIVE_GEN.GENERATION } }
    let s := (List.range 24).foldl (fun s i =>
      if s.engRunning (23 - i) then s.p (Reg.ENG.STATUS.STATE (23 - i)) 3 else s) s
    let s := s.aliveRefresh
    let held := s.sealActive
    let s := (if deep then s else s.finishGranted.selfRefresh).coreBlank
    let s := s.memKeep (!deep) (!deep)
    let s := if deep then s else s.tchStandby held
    { s with
      time := { s.time with lpBase := s.time.count, lpElapsed := 0 }
      pwr := { s.pwr with mode := if deep then .dormant else .standby, entryAt := s.clock } }

/-- The wake sources that are active, as WAKE_CAUSE numbers them (R484).
(DEDUCED, log entry 73) -/
def State.wakeSources (s : State) : Nat :=
  let up := decide (s.pwr.mode = .standby)
  let secs := s.g Reg.PWR.WAKE_TIMER_S
  packBits [s.gb Reg.PWR.WAKE_EN.TIMER && secs != 0 && decide (s.pwr.entryAt + 1000000000 * secs ≤ s.clock),
    s.gb Reg.PWR.WAKE_EN.GPIO && s.pwr.wakeGpio.isSome, up && s.tch.wake,
    up && s.gb Reg.CUS.CTRL.WAKE_ON_GRANT && s.pwr.wakeGrant, s.gb Reg.PWR.WAKE_EN.HOST && s.pwr.wakeHost]

/-- Whether a register lies in AON_BASE: PWR, RST, SYS, and VPLL and FAIL of CLK (R487). -/
def inAonBase (a : Nat) : Bool :=
  inRange 0x10000000 0x10010000 a || a == 0x10010008 || inRange 0x10010100 0x10010180 a || inRange 0x10020000 0x10040000 a

/-- What a wake from DORMANT returns to its reset value: every register outside AON_BASE but NEXT_SEL, and what the Standby
column marks L (R7, R485, R486). -/
def dormantMask (a : Nat) : Word := if inAonBase a then standbyMask a else if a = 0x10080018 then 0 else ~~~0

/-- A wake (R485, R486). -/
def wake (s : State) : State :=
  let bits := s.wakeSources
  if (s.pwr.mode ≠ .standby ∧ s.pwr.mode ≠ .dormant) ∨ bits = 0 then s
  else
    let deep := decide (s.pwr.mode = .dormant)
    let gpio := s.pwr.wakeGpio.getD 0
    let s := s.rehash (fun _ => 0)
    let s := s.resetRegs 0x10000000 0x20000000 (if deep then dormantMask else standbyMask)
    let s := (s.pb Reg.SEQ.STATUS.STAGE_VALID false).p Reg.SEQ.STATUS.VAL_STATE 0
    let s := s.p Reg.SEQ.STATUS.KEY_STATE 0
    let s := { s with
      time := { State.reset.time with count := s.time.count }
      tch := State.reset.tch
      cus := if deep then State.reset.cus else { s.cus with noted := 0 }
      dmc := State.reset.dmc
      pwr := { s.pwr with mode := .run, target := 0, wakeGpio := none, wakeHost := false, wakeGrant := false } }
    let s := if deep then s.strapsShow else s
    let s := ((s.p Reg.PWR.WAKE_CAUSE.CAUSE bits).p Reg.PWR.WAKE_CAUSE.GPIO_NUM (if bitOf bits 1 then gpio else 0)).p
      Reg.PWR.LP_CTRL.RESULT 1
    let s := s.p Reg.RST.STATUS.CAUSE (if deep then 8 else 7)
    let s := if s.gb Reg.PWR.STATUS.BACKUP_SEEN then s.raise Ev.pwrBackup 0 else s
    s.bootDue (if deep then .dormant else .standby)

/-! ### The commands -/

/-- AON_SWITCH_TO_BACKUP (R468). -/
def execAonSwitchToBackup (dt : Nat) (s : State) : Out State := .next (toBackup (s.advance dt))

/-- AON_SWITCH_TO_MAIN (R468). -/
def execAonSwitchToMain (dt : Nat) (s : State) : Out State := .next (toMain (s.advance dt))

/-- PWR_WARN (R471): the rail that falls below its warning level, and the rails below theirs now. -/
def execPwrWarn (dt : Nat) (r : Fin 10) (below : BitVec 10) (s : State) : Out State :=
  .next (pwrWarn r.val below.toNat (s.advance dt))

/-- PWR_RECOVER (R471). -/
def execPwrRecover (dt : Nat) (s : State) : Out State := .next (pwrRecover (s.advance dt))

/-- THERMAL_READING (R472): the readings of the eight sensors. -/
def execThermalReading (dt : Nat) (temps : List (BitVec 16)) (s : State) : Out State :=
  .next (thermalReading (temps.map (fun t => t.toInt)) (s.advance dt))

/-- WDOG_KICK (R474). -/
def execWdogKick (dt : Nat) (m : Master) (s : State) : Out State :=
  .next ((s.advance dt).ctlWrite m.val 0x10020084 1 (wdogKick 1))

/-- WDOG_EXPIRE (R474), and whether every channel reaches self-refresh in time if it resets the device. -/
def execWdogExpire (dt : Nat) (kept : Bool) (s : State) : Out State := .next (wdogExpire kept (s.advance dt))

/-- PLL_LOCKED (R475). -/
def execPllLocked (dt : Nat) (k : Fin 52) (s : State) : Out State := .next (pllLocked k.val (s.advance dt))

/-- PLL_FAIL (R477). -/
def execPllFail (dt : Nat) (k : Fin 16) (s : State) : Out State := .next (pllFail k.val (s.advance dt))

/-- PLL_IDLE_STOP (R475). -/
def execPllIdleStop (dt : Nat) (k : Fin 16) (s : State) : Out State := .next (pllIdleStop k.val (s.advance dt))

/-- LOW_POWER_ENTRY (R483): a write of GO with TARGET. -/
def execLowPowerEntry (dt : Nat) (m : Master) (target : Fin 4) (s : State) : Out State :=
  let v : Word := BitVec.ofNat 32 (2 ^ 31 + target.val)
  .next ((s.advance dt).ctlWrite m.val 0x10020040 v (lpWrite m.val v))

/-- LOW_POWER_ENTRY_DONE (R483). -/
def execLowPowerEntryDone (dt : Nat) (s : State) : Out State := .next (lpEntered (s.advance dt))

/-- WAKE (R485). -/
def execWake (dt : Nat) (s : State) : Out State := .next (wake (s.advance dt))

end Sys2Proof.Machine
end

