-- ==== Sys2Proof/Machine/Views.lean ====
section
/-! DEFINITION. What a read of a register shows: the word held, but for the fields that show something the machine holds
elsewhere. -/

namespace Sys2Proof.Machine

/-! ### The words of the shared blocks -/

/-- The words ID to UID of SYS (R488). -/
def State.sysWord (s : State) (a : Nat) : Word :=
  if a = 0x10000004 then fieldSet (s.reg a) 8 2 s.pins.grade
  else if a = 0x1000000C then BitVec.ofNat 32 s.pins.uid
  else if a = 0x10000010 then BitVec.ofNat 32 (s.pins.uid / 2 ^ 32)
  else s.reg a

/-- The words of CLK (R475, R488). -/
def State.clkWord (s : State) (a : Nat) : Word :=
  if a = 0x10010000 then fieldSet (s.reg a) 16 1 (!s.pwr.noXtal).toNat
  else if a = 0x10010004 then BitVec.ofNat 32 s.clkRunning
  else s.reg a

/-- The words of EVT (R493, R496, R497). -/
def State.evtWord (s : State) (a : Nat) : Word :=
  if inRange 0x10040040 0x10040050 a then
    fieldSet (s.reg a) 16 1 (s.intAsserted ((a - 0x10040040) / 4)).toNat
  else if inRange 0x10040060 0x10040080 a then s.pendWord ((a - 0x10040060) / 4)
  else if inRange 0x10040080 0x10040090 a then s.evStatusWord ((a - 0x10040080) / 4)
  else s.reg a

/-- The words of TIME (R78, R88, R90). -/
def State.timeWord (s : State) (a : Nat) : Word :=
  let off := s.time.offset / 2 ^ 32
  if a = 0x10060010 then BitVec.ofNat 32 s.time.count
  else if a = 0x10060014 then BitVec.ofNat 32 (s.time.count / 2 ^ 32)
  else if a = 0x10060020 then BitVec.ofNat 32 (wallNs s.wall)
  else if a = 0x10060024 then BitVec.ofNat 32 (wallSec s.wall)
  else if a = 0x10060028 then BitVec.ofNat 32 (s.timeState * 2 ^ 16 + wallSec s.wall / 2 ^ 32)
  else if a = 0x10060030 then BitVec.ofNat 32 (wallNs off)
  else if a = 0x10060034 then BitVec.ofNat 32 (wallSec off)
  else if a = 0x10060038 then BitVec.ofNat 32 (wallSec off / 2 ^ 32)
  else if a = 0x10060054 then fieldSet (s.reg a) 0 7 s.time.stamps.length
  else if inRange 0x10060200 0x10060300 a && a % 0x10 == 0xC then
    fieldSet (s.reg a) 0 6 (Tab.get [] ((a - 0x10060200) / 0x10) s.time.txq).length
  else s.reg a

/-- The words of BOOT and HOST that show pins and fuses (R459, R463). -/
def State.bootWord (s : State) (a : Nat) : Word :=
  if inRange 0x10080040 0x10080060 a then BitVec.ofNat 32 (s.pins.keyDigest.getD ((a - 0x10080040) / 4) 0)
  else if a = 0x10080080 then fieldSet (s.reg a) 31 1 s.boot.fuse.isSome.toNat
  else if a = 0x10090004 then fieldSet (s.reg a) 8 7 (0x30 + s.g Reg.SYS.STRAPS.UNIT_ID)
  else s.reg a

/-! ### The matrix and the error log (R411 to R420) -/

/-- Data requests of master `m` outstanding. -/
def State.outstanding (s : State) (m : Nat) : Nat := ((s.requestsOf m).filter (fun (r : PendReq) => r.lead)).length

/-- Retired requests of master `m` whose responses are still awaited. -/
def State.retiredCount (s : State) (m : Nat) : Nat := (s.bus.retired.filter (fun e => e.1 == m)).length

/-- The master in RESET_DRAIN with the lowest number; 0x3F for none. -/
def State.drainingLow (s : State) : Nat := s.bus.draining.foldl (fun b e => min b e.1) 0x3F

/-- The words of MTX. -/
def State.mtxWord (s : State) (a : Nat) : Word :=
  if a = 0x100A0008 then BitVec.ofNat 32 s.drainingLow
  else if inRange 0x100A0100 0x100A03D0 a && a % 0x10 == 4 then
    let m := (a - 0x100A0100) / 0x10
    BitVec.ofNat 32 ((s.bus.draining.any (fun e => e.1 == m)).toNat * 2 ^ 31 + s.retiredCount m * 2 ^ 16 + min 64 (s.outstanding m))
  else if inRange 0x100A0800 0x100A08F0 a && a % 0x10 == 0 then
    fieldSet (s.reg a) 0 1 (s.portBusy ((a - 0x100A0800) / 0x10)).toNat
  else s.reg a

/-- The words of the oldest error record, as REC_INFO and the words after it lay it out (R418). -/
def errWords (r : ErrRecord) : Word × List (Nat × Word) :=
  let w := fun (x : Nat) => BitVec.ofNat 32 x
  (w (2 ^ 31 + r.target * 2 ^ 24 + r.master * 2 ^ 16 + r.reason),
    [(0x1005000C, w r.addr), (0x10050010, w (r.addr / 2 ^ 32 % 16)),
      (0x10050014, w (r.write.toNat * 2 ^ 31 + r.control.toNat * 2 ^ 30 + r.resp.toNat * 2 ^ 29 + r.qos % 16 * 2 ^ 24 +
        r.id % 64 * 2 ^ 16 + (r.beats - 1) % 32 * 2 ^ 8 + r.strobes % 16)),
      (0x10050018, r.data), (0x1005001C, w r.time), (0x10050020, w (r.time / 2 ^ 32))])

/-- A read of ERR.REC_INFO by master `m`: the oldest record is removed and snapshot (R418). -/
def errRead (m : Nat) (s : State) : State × Word :=
  match s.bus.err with
  | [] => (s.setSnaps m ((errWords ⟨0, 0, 0, 0, false, false, false, 0, 0, 0, 0, 0, 0⟩).2.map (fun e => (e.1, 0))), 0)
  | r :: rest => (({ s with bus := { s.bus with err := rest } }).setSnaps m (errWords r).2, (errWords r).1)

/-! ### The course sequencers and freshness -/

/-- The words of SEQ (R61, R70). -/
def State.seqWord (s : State) (a : Nat) : Word :=
  if a = 0x100B0004 then fieldSet (s.reg a) 16 5 s.seq.amends.length
  else if a = 0x100B0030 then
    fieldSet (s.reg a) 8 7 (if s.g Reg.SEQ.STATUS.KEY_STATE = 0 then 0 else s.keyLeft.length)
  else s.reg a

/-- The words of FRS (R254, R356).
(DEDUCED, log entry 34) -/
def State.frsWord (s : State) (a : Nat) : Word :=
  if a = 0x100C0014 then fieldSet (fieldSet (s.reg a) 16 12 s.placards) 0 1 (s.timeState == 2).toNat else s.reg a

/-! ### Ingest, decode, capture, encode -/

/-- Enabled network entries that stream engine `e` serves; of any engine for none (R105). -/
def State.netEnabled (s : State) (e : Option Nat) : Nat :=
  ((List.range 512).filter (fun i => s.gb (Reg.ING.SRC.ENABLE i) && s.isNet i &&
    (e.isNone || e == some (s.g (Reg.ING.SRC.SE i))))).length

/-- The words of ING. -/
def State.ingWord (s : State) (a : Nat) : Word :=
  if a = 0x10100008 then fieldSet (s.reg a) 16 9 (s.netEnabled none)
  else if inRange 0x10100100 0x10100140 a then
    let e := (a - 0x10100100) / 4
    BitVec.ofNat 32 (s.seLoadPct e * 2 ^ 16 + s.netEnabled (some e))
  else s.reg a

/-- The words of DEC (R155). -/
def State.decWord (s : State) (a : Nat) : Word :=
  let n := (a - 0x10200000) / 0x10000
  let off := a % 0x10000
  if off = 4 then s.decStatusWord n
  else if off = 8 then s.decSuspWord n
  else if off = 0x10 then s.wdLimitWord n
  else if off = 0x14 then s.wdCountWord n
  else if off = 0x24 then s.decBusyWord n
  else if off = 0x8000 then s.schedReadyWord
  else if off = 0x8004 then s.schedReady2Word
  else if off = 0x8008 then s.decLoadWord
  else if off = 0x8010 then s.decFaultWord
  else if 0xC000 ≤ off ∧ off % 0x20 = 0 then s.decCtxWord ((off - 0xC000) / 0x20)
  else s.reg a

/-- The words of ENC (R326); BUSY_PCT as the pipe ran. -/
def State.encWord (s : State) (a : Nat) : Word :=
  let n := (a - 0x10300000) / 0x10000
  let off := a % 0x10000
  if off = 4 then s.encStatusWord n
  else if off = 0x18 then s.encBusyWord n
  else if off = 0x1C then s.encCountWord n
  else if off = 0x4000 then BitVec.ofNat 32 s.encLoad
  else if off = 0x4008 then s.encFaultWord
  else s.reg a

/-- PCLK_PRESENT of port `p` (R184): 1 for 10 µs after a command that edges came with; later a free value, since PCLK may run on; 0
where none has come since the reset.
(DESIGN CHOICE, log entry 98) -/
def State.pclkPresent (s : State) (p : Nat) : Bool :=
  match (s.cport p).pclkAt with
  | none => false
  | some t => decide (s.clock < t + 10000) || Config.freeBool s.free

/-- The words of CAP and ISP (R159, R184). -/
def State.capWord (s : State) (a : Nat) : Word :=
  let off := a % 0x10000
  if off = 0x14 then fieldSet (s.reg a) 0 1 (s.pclkPresent ((a - 0x10380000) / 0x10000)).toNat
  else if off = 0x100 then s.ispWord ((a - 0x10380000) / 0x10000)
  else s.reg a

/-! ### Heads, links, lanes, memory -/

/-- The words of HEAD[n]: an RWK field reads its pending value (R235). -/
def State.headView (s : State) (a : Nat) : Word :=
  let n := (a - 0x10400000) / 0x1000
  let off := a % 0x1000
  let l := if pairShared off || (decide (0x60 ≤ off) && decide (off ≤ 0x6C)) then s.lead n else n
  if off = 4 then fieldSet (s.reg a) 16 13 (s.headLine n)
  else s.headWord true l off

/-- The words of the release block (R227). -/
def State.relWord (s : State) (a : Nat) : Word :=
  if a = 0x10440004 then fieldSet (s.reg a) 16 13 s.releasingCount else s.reg a

/-- The words of NET: with FEC_LOCK the medium's codewords corrected and not corrected are free values; BLOCK_LOCK is that of
every lane of the port.
(DESIGN CHOICE, log entry 17) -/
def State.netWord (s : State) (a : Nat) : Word :=
  let q := (a - 0x10500000) / 0x10000
  let l := (a % 0x10000 - 0x100) / 0x40
  let off := (a % 0x10000 - 0x100) % 0x40
  if a % 0x10000 < 0x100 then s.reg a
  else if (off = 0x24 ∨ off = 0x28) ∧ s.gb (Reg.NET.PORT.FEC_LOCK q l) = true then BitVec.ofNat 32 s.freeNat
  else if off = 0 then fieldSet (s.reg a) 1 1 (s.portLock q l).toNat
  else s.reg a

/-- The words of LANE and QUAD (R428, R440): ADAPT reads FROZEN while ADAPT_FREEZE is 1 (R430).
(DEDUCED, log entry 42) -/
def State.laneWord (s : State) (a : Nat) : Word :=
  let q := (a - 0x10600000) / 0x1000
  let l := a % 0x800 / 0x200
  let off := a % 0x1000
  let seen := fun (f : Nat → Nat → FRef) => ((List.range 4).map (fun k => (s.gb (f q k)).toNat * 2 ^ k)).sum
  if off = 0x808 then BitVec.ofNat 32 (seen Reg.LANE.LOL_SEEN * 16 + seen Reg.LANE.LOS_SEEN)
  else if off < 0x800 then
    let frozen := s.gb (Reg.LANE.ADAPT_FREEZE q l)
    if off % 0x200 = 4 ∧ frozen = true then fieldSet (s.reg a) 20 2 3
    else if off % 0x200 = 0xC then s.firWord q l
    else if off % 0x200 = 0x34 then BitVec.ofNat 32 (s.bitsNow q l)
    else if off % 0x200 = 0x38 then BitVec.ofNat 32 (s.bitsNow q l / 2 ^ 32)
    else s.reg a
  else s.reg a

/-- The words of DMC; while codec jobs run, the depths of the queues hold their traffic as a free number (R379, R381).
(DESIGN CHOICE, log entry 97) -/
def State.dmcWord (s : State) (a : Nat) : Word :=
  let off := a % 0x10000
  let k := (a - 0x10800000) / 0x10000
  let codec := fun (i : Nat) => if s.codecRuns then Config.freeNat (s.free + i) else 0
  if a = 0x1080802C then fieldSet (s.reg a) 31 1 s.dmc.ppr.isSome.toNat
  else if off = 0 then
    fieldSet (fieldSet (s.reg a) 23 7 (min 64 ((s.queue k).writes.length + codec 0))) 16 7
      (min 64 ((s.readQueue k).length + codec 1))
  else if off = 4 then BitVec.ofNat 32 (s.queue k).forwards
  else if off = 8 then BitVec.ofNat 32 (s.queue k).stalls
  else s.reg a

/-! ### One register -/

/-- The rails below their warning levels now: those of the last dip, any of which may have risen since, which no command reports (R471,
R488).
(DESIGN CHOICE, log entry 17) -/
def State.belowNow (s : State) : Nat :=
  s.g Reg.PWR.BELOW.BELOW &&& (if s.clock = s.pwr.railAt then 0x3FF else s.freeNat)

/-- What a read of the register at `a` shows; WO fields read 0 (R4).
(DESIGN CHOICE, log entry 17) -/
def State.view (s : State) (a : Nat) : Word :=
  let w :=
    if a < 0x10010000 then s.sysWord a
    else if a < 0x10020000 then s.clkWord a
    else if a = Reg.PWR.BELOW.BELOW.addr then fieldSet (s.reg a) 0 10 s.belowNow
    else if inRange 0x10020070 0x10020090 a && !inRange 0x10020080 0x1002008C a then s.tempWord ((a - 0x10020070) / 4)
    else if inRange 0x10040000 0x10050000 a then s.evtWord a
    else if a = 0x10050004 then fieldSet (s.reg a) 0 5 s.bus.err.length
    else if inRange 0x10060000 0x10070000 a then s.timeWord a
    else if a = 0x10070024 then BitVec.ofNat 32 s.tRelease
    else if inRange 0x10080000 0x100A0000 a then s.bootWord a
    else if inRange 0x100A0000 0x100B0000 a then s.mtxWord a
    else if inRange 0x100B0000 0x100C0000 a then s.seqWord a
    else if inRange 0x100C0000 0x100D0000 a then s.frsWord a
    else if inRange 0x10100000 0x10180000 a then s.ingWord a
    else if inRange 0x10200000 0x10280000 a then s.decWord a
    else if inRange 0x10300000 0x10320000 a then s.encWord a
    else if inRange 0x10380000 0x103C0000 a then s.capWord a
    else if inRange 0x10400000 0x10440000 a then s.headView a
    else if inRange 0x10440000 0x10450000 a then s.relWord a
    else if inRange 0x10500000 0x10540000 a then s.netWord a
    else if inRange 0x10600000 0x10614000 a then s.laneWord a
    else if inRange 0x10800000 0x10880000 a then s.dmcWord a
    else s.reg a
  w &&& ~~~(accessMask .wo a)

/-- Whether what `view` shows of the register at `a` holds a free value.
(DESIGN CHOICE, log entry 17) -/
def viewDraws (a : Nat) : Bool :=
  a == Reg.PWR.BELOW.BELOW.addr || (inRange 0x10380000 0x103C0000 a && a % 0x10000 == 0x14) ||
    (inRange 0x10500000 0x10540000 a && decide (0x100 ≤ a % 0x10000) && (a % 0x40 == 0x24 || a % 0x40 == 0x28)) ||
    (inRange 0x10800000 0x10880000 a && decide (a % 0x10000 < 12))

end Sys2Proof.Machine
end

