-- ==== Sys2Proof/Machine/Mailbox.lean ====
section
/-! DEFINITION. The Curator mailbox, FLASH_WRITE and the recovery responder's part in them (R455, R456, R461, R462). -/

namespace Sys2Proof.Machine

/-! ### Authentication (R460, R462) -/

/-- A counter whose behaviour at its maximum the spec does not state: the value after it is free.
(DESIGN CHOICE, log entry 83) -/
def State.incOpen (s : State) (f : FRef) : State := if s.g f + 1 < 2 ^ f.width then s.inc f else s.pFree f

/-- The first 16 bytes of HMAC-SHA-256 under HOST_KEY; none while no image has given a key.
(DEDUCED, log entry 79) -/
def State.hostMac (s : State) (bs : List Byte) : Option (List Byte) :=
  if s.img.hostKey.isEmpty then none else some ((hmacSha256 s.img.hostKey bs).take 16)

/-- A MAC that does not verify, from the source that EV_SEC_AUTH_FAIL names. -/
def State.authFail (s : State) (source : Nat) : State :=
  (s.incOpen Reg.HOST.ERRORS.AUTH_FAILS).raise Ev.secAuthFail source

/-- Whether the recovery responder serves: the outputs are refused (R454, R455). -/
def State.recovery (s : State) : Bool := s.coreOn && s.g Reg.BOOT.STATUS.STATE == 2

/-! ### Management messages (R460) -/

/-- A message: its header, the payload, the MAC; the MAC is free where there is no key. -/
def State.mgmtFrame (s : State) (type seq : Nat) (payload : List Byte) : List Byte :=
  let head := leBytes 0x4E4D 2 ++ leBytes 1 1 ++ leBytes type 1 ++ leBytes seq 4 ++ leBytes payload.length 2 ++
    leBytes (s.g Reg.SYS.STRAPS.UNIT_ID) 1 ++ leBytes 0 1
  let bs := head ++ payload
  bs ++ (s.hostMac bs).getD ((List.range 16).map (Config.freeByte s.free))

/-- The addresses of the management port: its IPv4 address, and in recovery also its MAC address, which the spec gives there alone
(R455, R460).
(DESIGN CHOICE, log entry 98) -/
def State.mgmtAddress (s : State) : Option Nat × Nat :=
  let u := s.g Reg.SYS.STRAPS.UNIT_ID
  if s.recovery then (some (0x024E58000000 + u), 0xA9FE6400 + 16 + u) else (none, s.g Reg.HOST.MGMT_IP)

/-- The response to the message whose header is `head` is sent (R460). -/
def State.mgmtSend (s : State) (head payload : List Byte) : State :=
  let bs := s.mgmtFrame ((head.getD 3 0).toNat % 128 + 128) (leNat ((head.drop 4).take 4)) payload
  { s with host := { s.host with mgmtOut := bs, mgmtFrom := s.mgmtAddress } }.drawn

/-- The response to a message that has been executed: it is repeated to a copy of the message, where that is the last one accepted
(R460). -/
def State.mgmtReply (s : State) (head payload : List Byte) : State :=
  let s := s.mgmtSend head payload
  if leNat ((head.drop 4).take 4) = s.g Reg.HOST.MGMT_SEQ then { s with host := { s.host with mgmtLast := s.host.mgmtOut } } else s

/-! ### The slots (R461) -/

/-- Word `w` of a request. -/
def State.mbReq (s : State) (k w : Nat) : Nat := s.g (Reg.HOST.SLOT.REQ k w)

/-- CMD and TAG of a request. -/
def State.mbCmd (s : State) (k : Nat) : Nat := s.mbReq k 0 % 256
def State.mbTag (s : State) (k : Nat) : Nat := s.mbReq k 0 / 2 ^ 8 % 256
/-- ARG_WORDS of a request.
(DEDUCED, log entry 79) -/
def State.mbArgs (s : State) (k : Nat) : Nat := s.mbReq k 0 / 2 ^ 16 % 256

/-- Words `from` and after of a request, as little-endian bytes. -/
def State.mbBytes (s : State) (k first n : Nat) : List Byte :=
  ((List.range n).map (fun i => leBytes (s.mbReq k (first + i)) 4)).flatten

/-- The response of a management MAILBOX message is sent once slot 1 is DONE, and the slot returns to IDLE (R460). -/
def State.mgmtAnswer (s : State) : State :=
  match s.host.mgmtDue with
  | none => s
  | some head =>
    let n := s.g (Reg.HOST.SLOT.RSP 1 0) / 2 ^ 16 % 64
    let words := ((List.range (n + 1)).map (fun w => leBytes (s.g (Reg.HOST.SLOT.RSP 1 w)) 4)).flatten
    let s : State := { s with host := { s.host with mgmtDue := none } }
    (s.mgmtReply head (leBytes 0 1 ++ words)).p (Reg.HOST.SLOT.STATE 1) 0

/-- Slot `k` becomes DONE (R461). -/
def State.mbDone (s : State) (k : Nat) : State :=
  let s := (s.p (Reg.HOST.SLOT.STATE k) 3).raise Ev.mailbox k
  if k = 1 then s.mgmtAnswer else s

/-- `n` register writes of the firmware that serves the mailbox, the Curator's or the recovery responder's, pass the matrix (R413). -/
def State.mbWrites (s : State) (n : Nat) : State := (List.range n).foldl (fun s _ => s.ctlServed (if s.recovery then 1 else 0)) s

/-- The response to the request in slot `k` is written (R462); the recovery responder also sets DONE. -/
def State.mbAnswer (s : State) (k status : Nat) (data : List Nat) : State :=
  let s := s.mbWrites (1 + min data.length 63)
  let s := s.p (Reg.HOST.SLOT.RSP k 0) (status + s.mbTag k * 2 ^ 8 + data.length * 2 ^ 16)
  let s := (List.range (min data.length 63)).foldl (fun s i => s.p (Reg.HOST.SLOT.RSP k (i + 1)) (data.getD i 0)) s
  let s := { s with host := { s.host with served := s.host.served.filter (fun j => j != k) ++ [k] } }
  if s.recovery then s.mbDone k else s

/-- The commands that the recovery responder serves (R455). -/
def recoveryCmds : List Nat := [0x01, 0x40, 0x41, 0x42]

/-- Slot `k` is REQUESTED; in recovery a command that is not served is answered at once (R455).
(DEDUCED, log entry 80) -/
def State.mbPosted (s : State) (k : Nat) : State :=
  let s := s.p (Reg.HOST.SLOT.STATE k) 1
  if s.recovery && !recoveryCmds.contains (s.mbCmd k) then s.mbAnswer k 7 [] else s

/-- A write of the CTRL word of slot `k` by master `m` (R461).
(DEDUCED, log entry 80) -/
def slotCtrlWrite (m k : Nat) (v : Word) (s : State) : State :=
  let st := s.g (Reg.HOST.SLOT.STATE k)
  if m = 0 then
    if st = 1 ∧ fieldGet v 29 1 = 1 then
      { s with host := { s.host with served := s.host.served.filter (fun j => j != k) } }.p (Reg.HOST.SLOT.STATE k) 2
    else if st = 2 ∧ fieldGet v 28 1 = 1 then s.mbDone k
    else s
  else if st = 0 ∧ fieldGet v 31 1 = 1 then s.mbPosted k
  else if st = 3 ∧ fieldGet v 30 1 = 1 then s.p (Reg.HOST.SLOT.STATE k) 0
  else s

/-- A write of a REQ word by master `m`: ignored and logged outside IDLE (R461). -/
def slotReqWrite (m a : Nat) (v : Word) (s : State) : State :=
  if s.g (Reg.HOST.SLOT.STATE ((a - 0x10091000) / 0x400)) = 0 then s.writeFields m a v 0 else s.logIgnored m a v

/-! ### Serving a command (R462) -/

/-- Whether the command `cmd` of slot `k` is served now: by the Curator in a slot that it has taken, by the recovery responder
in one that is REQUESTED.
(DEDUCED, log entry 80) -/
def State.mbServes (s : State) (k cmd : Nat) : Bool :=
  s.coreOn && s.mbCmd k == cmd &&
    (if s.recovery then s.g (Reg.HOST.SLOT.STATE k) == 1
      else s.engRunning 0 && s.g (Reg.HOST.SLOT.STATE k) == 2 && !s.host.served.contains k &&
        !s.boot.flash.any (fun (j : FlashJob) => j.slot == k))

/-- An auth command's MAC is checked and NONCE advances; the recovery responder asks for none (R455, R462).
(DEDUCED, log entry 79) -/
def State.mbAuth (s : State) (k : Nat) : State × Bool :=
  let n := s.mbArgs k
  let nonce := leBytes (s.g (Reg.HOST.SLOT.NONCE k)) 4
  let ok := s.recovery || (decide (4 ≤ n ∧ n ≤ 63) &&
    s.hostMac (nonce ++ s.mbBytes k 0 (n - 3)) == some (s.mbBytes k (n - 3) 4))
  let s := s.inc (Reg.HOST.SLOT.NONCE k)
  (if ok then s else s.authFail (4 + k), ok)

/-- A command that `act` carries out where it is served.
(DESIGN CHOICE, log entry 88) -/
def mbRun (k cmd : Nat) (act : State → State) (s : State) : State := if s.mbServes k cmd then act s else s

/-- An auth command: AUTH, or as `act` carries it out. -/
def mbRunAuth (k cmd : Nat) (act : State → State) (s : State) : State :=
  if s.mbServes k cmd then
    let r := s.mbAuth k
    if r.2 then act r.1 else r.1.mbAnswer k 4 []
  else s

/-- STATUS. -/
def mbStatus (k : Nat) (s : State) : State :=
  let w := fun (a : Nat) => (s.view a).toNat
  s.mbAnswer k 0 [w 0x10080000, w 0x10070004, w 0x10060004, w 0x100B0004, w 0x100B0008, w 0x100B000C, s.healthWord]

/-- LOAD_PAGE (R73). -/
def mbLoadPage (k : Nat) (s : State) : State :=
  let a := s.mbReq k 1 + 2 ^ 32 * (s.mbReq k 2 % 16)
  let n := s.mbReq k 3
  if n = 0 ∨ 16384 < n ∨ s.inDram a (16 * n) = false then s.mbAnswer k 2 []
  else if s.g Reg.SEQ.STATUS.KEY_STATE ≠ 0 then s.mbAnswer k 3 []
  else
    let r := s.dmaRead 0 2 a (16 * n)
    (r.1.dmaWrite 0 2 (pageAddr s.stagePage 0) r.2.1).1.mbAnswer k 0 []

/-- VALIDATE (R56).
(DEDUCED, log entry 81) -/
def mbValidate (k : Nat) (s : State) : State :=
  let swap := s.g Reg.SEQ.STATUS.KEY_STATE = 2
  let s := (s.mbWrites 1).validateStart
  let s := if s.g Reg.SEQ.STATUS.VAL_STATE = 1 then s.validated else s
  s.mbAnswer k (if swap then 3 else 0) [(s.view 0x100B0014).toNat, (s.view 0x100B000C).toNat]

/-- KEYSTONE (R59, R60).
(DEDUCED, log entry 81) -/
def mbKeystone (k : Nat) (s : State) : State :=
  if s.mbReq k 1 % 2 = 0 ∧ 999999999 < s.mbReq k 4 then s.mbAnswer k 2 []
  else
    let s := if s.mbReq k 1 % 2 = 1 then (s.mbWrites 1).keyCtrl 2
      else ((((s.mbWrites 4).p Reg.SEQ.KEY_TIME_SEC_HI.SEC_HI (s.mbReq k 2)).p Reg.SEQ.KEY_TIME_SEC_LO.SEC_LO (s.mbReq k 3)).p
        Reg.SEQ.KEY_TIME_NS.NS (s.mbReq k 4)).keyCtrl 1
    s.mbAnswer k (if 5 ≤ s.g Reg.SEQ.KEY_STATUS.RESULT ∧ s.g Reg.SEQ.KEY_STATUS.RESULT ≤ 7 then 3 else 0)
      [(s.view 0x100B0030).toNat]

/-- An amendment posted by the Curator, and its ticket. -/
def State.mbPost (s : State) (k kind window arg0 arg1 : Nat) : State :=
  let s := ((s.mbWrites 3).p Reg.SEQ.AMD_CMD.KIND kind).p Reg.SEQ.AMD_CMD.WINDOW window
  let s := (s.p Reg.SEQ.AMD_ARG0.ARG0 arg0).p Reg.SEQ.AMD_ARG1.ARG1 arg1
  let ticket := s.g Reg.SEQ.AMD_STATUS.NEXT_TICKET
  s.amendPost.mbAnswer k 0 [ticket]

/-- AMEND (R68). -/
def mbAmend (k : Nat) (s : State) : State :=
  let kind := s.mbReq k 1 / 2 ^ 12 % 8
  if 5 < kind then s.mbAnswer k 2 [] else s.mbPost k kind (s.mbReq k 1 % 1024) (s.mbReq k 2) (s.mbReq k 3)

/-- The answer to a PRESET whose load has ended. -/
def State.mbPresetEnd (s : State) (k : Nat) : State :=
  { s with host := { s.host with preset := none } }.mbAnswer k 0 [(s.view 0x100B0058).toNat]

/-- PRESET (R73, R74): the selection, and its status once the load ends.
(DEDUCED, log entry 80) -/
def mbPreset (k : Nat) (s : State) : State :=
  let busy := fun (s : State) => s.seq.preset == .reading || s.seq.preset == .validating || s.seq.preset == .deferred
  if s.host.preset = some k then if busy s then s else s.mbPresetEnd k
  else
    let w := s.mbReq k 1
    let s := presetCtrlWrite 0 (BitVec.ofNat 32 (w % 32 + w / 2 ^ 8 % 2 * 2 ^ 9 + 2 ^ 8)) (s.mbWrites 1)
    if busy s then { s with host := { s.host with preset := some k } } else s.mbPresetEnd k

/-- SET_PLACARD (R268): the Curator puts the text at a place of its own choosing in the shared store.
(DEDUCED, log entry 81) -/
def mbSetPlacard (k : Nat) (s : State) : State :=
  let len := s.mbReq k 2 % 256
  if 20 < len then s.mbAnswer k 2 []
  else
    let at_ := s.freeNat % 0x7BFFE0
    let s := (s.dmaWrite 0 2 at_ (leBytes len 1 ++ (s.mbBytes k 3 5).take len)).1
    (s.drawn).mbPost k 4 (s.mbReq k 1 % 1024) at_ 0

/-- VITRINE_WRITE (R210).
(DEDUCED, log entry 81) -/
def mbVitrine (k : Nat) (s : State) : State :=
  let dram := s.mbReq k 1 % 2 = 1
  let off := s.mbReq k 2
  let n := s.mbReq k 3
  if 0x200000 < off + n ∨ (¬ dram ∧ 220 < n) then s.mbAnswer k 2 []
  else if dram then
    let a := s.mbReq k 4 + 2 ^ 32 * (s.mbReq k 5 % 16)
    if s.inDram a n = false then s.mbAnswer k 2 []
    else
      let r := s.dmaRead 0 2 a n
      if sha256 r.2.1 = r.1.mbBytes k 6 8 then (r.1.dmaWrite 0 2 (0x1400000 + off) r.2.1).1.mbAnswer k 0 []
      else r.1.mbAnswer k 4 []
  else (s.dmaWrite 0 2 (0x1400000 + off) ((s.mbBytes k 4 ((n + 3) / 4)).take n)).1.mbAnswer k 0 []

/-- SOURCE_BIND (R107, R108): ENABLE 0, the words, then ENABLE as given.
(DEDUCED, log entry 81) -/
def mbSourceBind (k : Nat) (s : State) : State :=
  let i := s.mbReq k 1 % 512
  let n := s.mbReq k 1 / 2 ^ 24
  if n = 0 ∨ 36 < n then s.mbAnswer k 2 []
  else
    let a := 0x10120000 + 0x100 * i
    let word := fun (s : State) (on : Bool) => fieldSet (BitVec.ofNat 32 (s.mbReq k 2)) 0 1 on.toNat
    let s := srcCtrlWrite 0 i (s.fieldWord (Reg.ING.SRC.ENABLE i) 0) (s.mbWrites 1)
    let s := srcCtrlWrite 0 i (word s false) (s.mbWrites 1)
    let s := (List.range (n - 1)).foldl (fun s j =>
      let b := a + 4 * (j + 1)
      if (regFields b).isSome then (s.mbWrites 1).writeFields 0 b (BitVec.ofNat 32 (s.mbReq k (3 + j))) 0 else s) s
    let s := srcCtrlWrite 0 i (word s ((s.mbReq k 1).testBit 16)) (s.mbWrites 1)
    s.mbAnswer k 0 [(s.view 0x1010000C).toNat]

/-- RELEASE (R221).
(DEDUCED, log entry 81) -/
def mbRelease (k : Nat) (s : State) : State :=
  let s := releaseWrite 0 (BitVec.ofNat 32 (s.mbReq k 1 % 4096)) (s.mbWrites 1)
  s.mbAnswer k (if s.g Reg.HEAD.REL_STATUS.LAST_RESULT = 2 then 3 else 0) [s.g Reg.HEAD.REL_STATUS.LAST_RESULT]

/-! ### Flash writes (R456) -/

/-- The flash bytes of the copy in use: its first byte and its length. -/
def State.copyInUse (s : State) : Option (Nat × Nat) :=
  match s.g Reg.BOOT.STATUS.COPY_USED with
  | 1 => some (0, leNat (s.flashBytes 12 4))
  | 2 => some (0x4000000, leNat (s.flashBytes 0x400000C 4))
  | _ => none

/-- FLASH_WRITE starts: the data are read from the source.
(DEDUCED, log entry 82) -/
def mbFlashWrite (k : Nat) (s : State) : State :=
  let a := s.mbReq k 1
  let n := s.mbReq k 2
  let src := s.mbReq k 3 + 2 ^ 32 * (s.mbReq k 4 % 16)
  let unit := 1024 * s.g Reg.BOOT.FLASH.ERASE_KB
  let fits := decide (unit ≠ 0 ∧ a % unit = 0 ∧ n % unit = 0 ∧ a + n ≤ 2 ^ 20 * s.g Reg.BOOT.FLASH_MB) &&
    (inShared src n || (!s.recovery && s.inDram src n))
  let meets := match s.copyInUse with
    | none => false
    | some c => decide (a < c.1 + c.2 ∧ c.1 < a + n)
  if s.boot.flash.isSome then s.mbAnswer k 5 []
  else if !fits then s.mbAnswer k 2 []
  else if meets then s.mbAnswer k 8 []
  else
    let r := if s.recovery then s.dmaRead 1 1 src n else s.dmaRead 0 2 src n
    let s := if s.recovery then r.1.p (Reg.HOST.SLOT.STATE k) 2 else r.1
    { s with boot := { s.boot with flash := some ⟨k, a, r.2.1, s.mbReq k 5 % 2 == 1, s.gb Reg.PWR.STATUS.WARN_ACTIVE⟩ } }.pb Reg.BOOT.FLASH.BUSY true

/-- A FLASH_WRITE ends with RESULT; a range that was not written as asked is undefined.
(DEDUCED, log entry 82) (DEDUCED, log entry 82) -/
def flashDone (result : Nat) (s : State) : State :=
  match s.boot.flash with
  | none => s
  | some j =>
    let result := if result = 3 ∧ j.verify = false then 0 else result
    let bytes := if result = 0 then j.data else (List.range j.data.length).map (Config.freeByte s.free)
    let s := { s with flash := flashWrite s.flash j.addr bytes, boot := { s.boot with flash := none } }
    let s := if result = 0 then s else s.drawn
    let s := (s.pb Reg.BOOT.FLASH.BUSY false).p Reg.BOOT.FLASH.RESULT result
    let s := if result = 0 then s.mbAnswer j.slot 0 [j.data.length] else s.mbAnswer j.slot 6 [result]
    s.raise Ev.nvmDone result

/-- IMAGE_SELECT. -/
def mbImageSelect (k : Nat) (s : State) : State :=
  if s.mbReq k 1 % 4 = 3 then s.mbAnswer k 2 []
  else ((s.mbWrites 1).p Reg.BOOT.NEXT_SEL (s.mbReq k 1 % 4)).mbAnswer k 0 []

/-- RESET: the response, then a software full reset. -/
def mbReset (k : Nat) (kept : Bool) (s : State) : State :=
  if s.mbReq k 1 = swFullKey then (s.mbAnswer k 0 []).softReset kept else s.mbAnswer k 2 []

/-! ### The fuses (R463) -/

/-- The words of FUSE_DATA. -/
def State.fuseData (s : State) : List Nat := (List.range 8).map (fun i => s.g (Reg.BOOT.FUSE_DATA i))

/-- A write of FUSE_PROG: GO programs KEY_DIGEST from FUSE_DATA, once. -/
def fuseGo (v : Word) (s : State) : State :=
  if fieldGet v 31 1 = 0 ∨ s.boot.fuse.isSome = true then s
  else if s.pins.keyDigest.all (fun w => w == 0) then
    { s with boot := { s.boot with fuse := some s.fuseData } }.p Reg.BOOT.FUSE_PROG.PROG_RESULT 0
  else s.p Reg.BOOT.FUSE_PROG.PROG_RESULT 2

/-- Programming ends; fuses that failed to program hold undefined bits. -/
def fuseDone (ok : Bool) (s : State) : State :=
  match s.boot.fuse with
  | none => s
  | some d =>
    let s := { s with boot := { s.boot with fuse := none } }
    if ok then { s with pins := { s.pins with keyDigest := d } }.p Reg.BOOT.FUSE_PROG.PROG_RESULT 1
    else
      let bits := (List.range 8).map (fun i => leNat ((List.range 4).map (fun j => Config.freeByte s.free (4 * i + j))))
      ({ s with pins := { s.pins with keyDigest := bits } }.drawn).p Reg.BOOT.FUSE_PROG.PROG_RESULT 3

/-! ### The commands -/

/-- MAILBOX_POST (R461). -/
def execMailboxPost (dt : Nat) (m : Master) (k : Fin 2) (s : State) : Out State :=
  .next ((s.advance dt).ctlWrite m.val (Reg.HOST.SLOT.POST k.val).addr 0x80000000 (slotCtrlWrite m.val k.val 0x80000000))

/-- MAILBOX_TAKE (R461). -/
def execMailboxTake (dt : Nat) (m : Master) (k : Fin 2) (s : State) : Out State :=
  .next ((s.advance dt).ctlWrite m.val (Reg.HOST.SLOT.POST k.val).addr 0x20000000 (slotCtrlWrite m.val k.val 0x20000000))

/-- MAILBOX_DONE (R461). -/
def execMailboxDone (dt : Nat) (m : Master) (k : Fin 2) (s : State) : Out State :=
  .next ((s.advance dt).ctlWrite m.val (Reg.HOST.SLOT.POST k.val).addr 0x10000000 (slotCtrlWrite m.val k.val 0x10000000))

/-- MAILBOX_ACK (R461). -/
def execMailboxAck (dt : Nat) (m : Master) (k : Fin 2) (s : State) : Out State :=
  .next ((s.advance dt).ctlWrite m.val (Reg.HOST.SLOT.POST k.val).addr 0x40000000 (slotCtrlWrite m.val k.val 0x40000000))

/-- MAILBOX_STATUS (R462). -/
def execMailboxStatus (dt : Nat) (k : Fin 2) (s : State) : Out State :=
  .next (mbRun k.val 0x01 (mbStatus k.val) (s.advance dt))

/-- LOAD_PAGE (R462). -/
def execLoadPage (dt : Nat) (k : Fin 2) (s : State) : Out State :=
  .next (mbRun k.val 0x10 (mbLoadPage k.val) (s.advance dt))

/-- VALIDATE (R462). -/
def execValidate (dt : Nat) (k : Fin 2) (s : State) : Out State :=
  .next (mbRun k.val 0x11 (mbValidate k.val) (s.advance dt))

/-- KEYSTONE (R462). -/
def execKeystone (dt : Nat) (k : Fin 2) (s : State) : Out State :=
  .next (mbRun k.val 0x12 (mbKeystone k.val) (s.advance dt))

/-- AMEND (R462). -/
def execAmend (dt : Nat) (k : Fin 2) (s : State) : Out State :=
  .next (mbRun k.val 0x13 (mbAmend k.val) (s.advance dt))

/-- PRESET (R462). -/
def execPreset (dt : Nat) (k : Fin 2) (s : State) : Out State :=
  .next (mbRun k.val 0x14 (mbPreset k.val) (s.advance dt))

/-- SET_PLACARD (R462). -/
def execSetPlacard (dt : Nat) (k : Fin 2) (s : State) : Out State :=
  .next (mbRun k.val 0x20 (mbSetPlacard k.val) (s.advance dt))

/-- VITRINE_WRITE (R462). -/
def execVitrineWrite (dt : Nat) (k : Fin 2) (s : State) : Out State :=
  .next (mbRunAuth k.val 0x21 (mbVitrine k.val) (s.advance dt))

/-- SOURCE_BIND (R462). -/
def execSourceBind (dt : Nat) (k : Fin 2) (s : State) : Out State :=
  .next (mbRun k.val 0x30 (mbSourceBind k.val) (s.advance dt))

/-- RELEASE (R462). -/
def execRelease (dt : Nat) (k : Fin 2) (s : State) : Out State :=
  .next (mbRun k.val 0x31 (mbRelease k.val) (s.advance dt))

/-- FLASH_WRITE (R456). -/
def execFlashWrite (dt : Nat) (k : Fin 2) (s : State) : Out State :=
  .next (mbRunAuth k.val 0x40 (mbFlashWrite k.val) (s.advance dt))

/-- FLASH_WRITE_DONE (R456), with BOOT.FLASH.RESULT; the write stands still with the Curator (R23), and while a supply warning has
paused it (R471).
(DEDUCED, log entry 82) -/
def execFlashWriteDone (dt : Nat) (result : Fin 4) (s : State) : Out State :=
  let s := s.advance dt
  .next (if s.coreOn && (s.recovery || s.engRunning 0) && !s.boot.flash.any (fun (j : FlashJob) => j.paused) then
    flashDone result.val s else s)

/-- IMAGE_SELECT (R462). -/
def execImageSelect (dt : Nat) (k : Fin 2) (s : State) : Out State :=
  .next (mbRunAuth k.val 0x41 (mbImageSelect k.val) (s.advance dt))

/-- MAILBOX_RESET (R462), and whether every channel reaches self-refresh in time. -/
def execMailboxReset (dt : Nat) (k : Fin 2) (kept : Bool) (s : State) : Out State :=
  .next (mbRunAuth k.val 0x42 (mbReset k.val kept) (s.advance dt))

/-- FUSE_PROGRAM (R463). -/
def execFuseProgram (dt : Nat) (m : Master) (s : State) : Out State :=
  .next ((s.advance dt).ctlWrite m.val 0x10080080 0x80000000 (fuseGo 0x80000000))

/-- FUSE_PROGRAM_DONE (R463), and whether it succeeded. -/
def execFuseProgramDone (dt : Nat) (ok : Bool) (s : State) : Out State :=
  let s := s.advance dt
  .next (if s.coreOn then fuseDone ok s else s)

end Sys2Proof.Machine
end

