-- ==== Sys2Proof/Machine/Image.lean ====
section
/-! DEFINITION. The configuration image: its header, its directory, its sections and their checks, and the parameters that
memory training takes from it (R445 to R449, R451). -/

namespace Sys2Proof.Machine

/-! ### Header and directory (R445) -/

/-- `n` little-endian bytes of an image at `o`, as a number; the field at `o`. -/
def imgNum (bs : List Byte) (o n : Nat) : Nat := leNat ((bs.drop o).take n)

/-- A directory entry. -/
structure ImgSection where
  type   : Nat
  offset : Nat
  length : Nat
  crc    : Nat
deriving DecidableEq, Repr

/-- The directory entries in use. -/
def imgDirectory (bs : List Byte) : List ImgSection :=
  (List.range (min 16 (imgNum bs 6 2))).map (fun i =>
    let o := 96 + 16 * i
    ⟨imgNum bs o 2, imgNum bs (o + 4) 4, imgNum bs (o + 8) 4, imgNum bs (o + 12) 4⟩)

/-- The bytes of a section. -/
def ImgSection.bytes (x : ImgSection) (bs : List Byte) : List Byte := (bs.drop x.offset).take x.length

/-- The bytes of the section of a type; none where the image has none. -/
def imgSection (bs : List Byte) (type : Nat) : Option (List Byte) :=
  ((imgDirectory bs).find? (fun x => x.type == type)).map (fun x => x.bytes bs)

/-- The result of the checks of the first 512 bytes: 4 BLANK, 5 HEADER, 1 where they pass (R449).
(DEDUCED, log entry 75) -/
def imgHeaderResult (bs : List Byte) : Nat :=
  let len := imgNum bs 12 4
  if imgNum bs 0 4 ≠ 0x47494D4E then 4
  else if crc32c (bs.take 20 ++ [0, 0, 0, 0] ++ (bs.take 512).drop 24) ≠ imgNum bs 20 4 then 5
  else if imgNum bs 4 2 < 2 ∨ 3 < imgNum bs 4 2 ∨ imgNum bs 6 2 = 0 ∨ 16 < imgNum bs 6 2 then 5
  else if len % 16 ≠ 0 ∨ 2 ^ 26 < len ∨ len < 576 then 5
  else 1

/-! ### Register lists (R448) -/

/-- The entries of a register list; none where the last reaches past the section.
(DEDUCED, log entry 75) -/
def listActs : Nat → List Byte → Option (List BootAct)
  | 0, _ => some []
  | fuel + 1, bs =>
    if bs.isEmpty then some []
    else if bs.length < 8 then none
    else
      let a := imgNum bs 0 4
      let v := imgNum bs 4 4
      (listActs fuel (bs.drop 8)).map (fun rest =>
        (if a % 2 = 1 then BootAct.pause (min v 1000000) else BootAct.write a (BitVec.ofNat 32 v)) :: rest)

/-- The entries of a section that is a register list. -/
def sectionActs (bs : List Byte) : Option (List BootAct) := listActs (bs.length + 1) bs

/-- Whether every register that a list names lies from `lo` to `hi`. -/
def actsWithin (lo hi : Nat) (acts : List BootAct) : Bool :=
  acts.all (fun x => match x with
    | .write a _ => inRange lo hi a
    | _ => true)

/-! ### Records (R447) -/

/-- A firmware record: engine, AUTO_RESTART, LOAD_OFFSET, SHARED_COPY, code. -/
structure FwRecord where
  engine : Nat
  auto   : Bool
  load   : Nat
  copy   : Nat
  code   : List Byte
deriving DecidableEq, Repr

/-- The records of ENGINE_FW; none where one reaches past the section. -/
def fwRecords : Nat → List Byte → Option (List FwRecord)
  | 0, _ => some []
  | fuel + 1, bs =>
    if bs.isEmpty then some []
    else
      let len := imgNum bs 8 4
      let size := 16 + (len + 15) / 16 * 16
      if bs.length < 16 ∨ bs.length < size then none
      else
        let x : FwRecord := ⟨imgNum bs 0 1, imgNum bs 1 1 % 2 == 1, imgNum bs 4 4, imgNum bs 12 4, (bs.drop 16).take len⟩
        (fwRecords fuel (bs.drop size)).map (fun rest => x :: rest)

/-- The records of SOURCES as index, whether a buffer entry, and words; none where one reaches past the section. -/
def srcRecords : Nat → List Byte → Option (List (Nat × Bool × List Nat))
  | 0, _ => some []
  | fuel + 1, bs =>
    if bs.isEmpty then some []
    else
      let n := imgNum bs 4 4
      if bs.length < 8 ∨ bs.length < 8 + 4 * n then none
      else
        let x := (imgNum bs 0 2, imgNum bs 2 2 == 1, (List.range n).map (fun i => imgNum bs (8 + 4 * i) 4))
        (srcRecords fuel (bs.drop (8 + 4 * n))).map (fun rest => x :: rest)

/-- The records of ISP_TABLES (`wide`, an address of 8 bytes) or VITRINE as place and data; none where one reaches past the
section. -/
def dataRecords (wide : Bool) : Nat → List Byte → Option (List (Nat × List Byte))
  | 0, _ => some []
  | fuel + 1, bs =>
    if bs.isEmpty then some []
    else
      let len := if wide then imgNum bs 8 4 else imgNum bs 4 4
      if bs.length < 16 ∨ bs.length < 16 + len then none
      else
        let x := (imgNum bs 0 (if wide then 8 else 4), (bs.drop 16).take len)
        (dataRecords wide fuel (bs.drop (16 + len))).map (fun rest => x :: rest)

/-- The records of ISP_TABLES or VITRINE that stand whole in what has come of the section. -/
def recordsCome (wide : Bool) : Nat → List Byte → List (Nat × List Byte)
  | 0, _ => []
  | fuel + 1, bs =>
    let len := if wide then imgNum bs 8 4 else imgNum bs 4 4
    if bs.length < 16 ∨ bs.length < 16 + len then []
    else (imgNum bs 0 (if wide then 8 else 4), (bs.drop 16).take len) :: recordsCome wide fuel (bs.drop (16 + len))

/-- The pages of PAGES as their offset in the section and their entries. -/
def imgPages (bs : List Byte) : List (Nat × Nat) :=
  (List.range (imgNum bs 0 1)).map (fun p => (imgNum bs (8 + 8 * p) 4, imgNum bs (12 + 8 * p) 4))

/-- Whether a section of a type is laid out as R447 says. -/
def sectionGood (type : Nat) (bs : List Byte) : Bool :=
  let fuel := bs.length + 1
  match type with
  | 0x01 => decide (52 ≤ bs.length)
  | 0x02 => (fwRecords fuel bs).isSome
  | 0x03 => decide (1 ≤ imgNum bs 0 1 ∧ imgNum bs 0 1 ≤ 33 ∧ 8 + 8 * imgNum bs 0 1 ≤ bs.length) &&
      (imgPages bs).all (fun e => decide (e.1 + 16 * e.2 ≤ bs.length))
  | 0x04 => (srcRecords fuel bs).isSome
  | 0x05 => (dataRecords true fuel bs).isSome
  | 0x06 => (sectionActs bs).any (actsWithin 0x100D0000 0x100E0000)
  | 0x07 => (dataRecords false fuel bs).isSome
  | 0x08 => decide (304 ≤ bs.length)
  | 0x09 => (sectionActs bs).any (actsWithin 0x10070000 0x10080000)
  | 0x0A => (sectionActs bs).isSome
  | _ => true

/-- Whether entries stand in ascending order without overlap, each from an offset that is a multiple of 16, up to `stop`. -/
def directoryOrder (stop : Nat) : Nat → List ImgSection → Bool
  | _, [] => true
  | low, x :: rest =>
    decide (low ≤ x.offset ∧ x.offset % 16 = 0 ∧ x.offset + x.length ≤ stop) &&
      directoryOrder stop (max (x.offset + x.length) (x.offset + 1)) rest

/-- The rules of R447. -/
def imgFormat (bs : List Byte) : Bool :=
  let dir := imgDirectory bs
  let types := dir.map (fun x => x.type)
  (dir.head?).any (fun x => x.type == 1 && x.offset == 512) && directoryOrder (imgNum bs 12 4 - 64) 512 dir &&
    decide types.Nodup && types.contains 2 && types.contains 3 && dir.all (fun x => sectionGood x.type (x.bytes bs))

/-! ### Validity (R446, R449) -/

/-- The digest that the signature covers. -/
def imgDigest (bs : List Byte) : List Byte := sha256 (bs.take (imgNum bs 12 4 - 64))

/-- Whether the fuses accept the image's key: their digest, or none programmed (R446). -/
def keyAccepted (fuses : List Nat) (bs : List Byte) : Bool :=
  fuses.all (fun w => w == 0) ||
    sha256 ((bs.drop 24).take 64) == ((List.range 8).map (fun i => leBytes (fuses.getD i 0) 4)).flatten

/-- The result of an image that has been read (R449): 1 OK, 4 BLANK to 9 SIGNATURE. -/
def imgResult (fuses : List Nat) (bs : List Byte) : Nat :=
  let len := imgNum bs 12 4
  let r := imgHeaderResult bs
  if r ≠ 1 then r
  else if imgFormat bs = false then 6
  else if (imgDirectory bs).any (fun x => crc32c (x.bytes bs) != x.crc) = true then 7
  else if keyAccepted fuses bs = false then 8
  else if ecdsaVerify ((bs.drop 24).take 64) (imgDigest bs) ((bs.drop (len - 64)).take 64) = false then 9
  else 1

/-! ### Memory training (R389, R451) -/

/-- The DMC section of a candidate whose first bytes are `bs`: where it stands first and its CRC matches; else the result
that the candidate then has.
(DEDUCED, log entry 75) -/
def imgDmc (bs : List Byte) : Nat × List Byte :=
  match (imgDirectory bs).head? with
  | none => (6, [])
  | some x =>
    if x.type ≠ 1 ∨ x.offset ≠ 512 ∨ x.length < 52 then (6, [])
    else if crc32c (x.bytes bs) ≠ x.crc then (7, [])
    else (1, x.bytes bs)

/-- The parameters of a DMC section are loaded and training starts. -/
def State.trainStart (s : State) (sec : List Byte) : State :=
  let w := fun i => imgNum sec (4 * i) 4
  let s := (s.p Reg.DMC.CONFIG.DENSITY (w 0)).p Reg.DMC.CONFIG.BOOT_FSP (w 1)
  let s := (s.p Reg.DMC.CTRL.LINK_ECC_EN (w 2)).rehash (fun i => w (3 + i) % 2 ^ 23)
  let s := ([0, 1, 2] : List Nat).foldl (fun s f =>
    (((s.p (Reg.DMC.FSP.TRFCAB_NS f) (w (7 + 2 * f) / 2 ^ 16)).p (Reg.DMC.FSP.WL_NCK f) (w (7 + 2 * f) / 2 ^ 8)).p
      (Reg.DMC.FSP.RL_NCK f) (w (7 + 2 * f))).p (Reg.DMC.FSP.TREFI_NS f) (w (8 + 2 * f))) s
  let s := (List.range 8).foldl (fun s k => s.p (Reg.DMC.CTL.STATE k) 1) s
  { s with boot := { s.boot with phase := .training, dmc := sec } }

/-! ### An image from the host (R453) -/

/-- Whether image bytes from the host of boot mode `mode` are taken: one is awaited, or incomplete.
(DEDUCED, log entry 76) -/
def State.imageTakes (s : State) (mode : Nat) : Bool :=
  s.coreOn && s.g Reg.SYS.STRAPS.BOOT_MODE == mode && (s.boot.phase == .receiving || s.boot.phase == .training) &&
    s.boot.chosen.isNone &&
    (decide (s.boot.image.length < 16) || decide (s.boot.image.length < imgNum s.boot.image 12 4))

/-- Image bytes received: the first of them ends WAIT_HOST; once the DMC section has come, memory is trained. -/
def State.imageAdd (s : State) (bs : List Byte) : State :=
  let s := if s.boot.image.isEmpty && !bs.isEmpty then (s.p Reg.BOOT.STATUS.STATE 0).p Reg.BOOT.STATUS.STAT 1 else s
  let image := s.boot.image ++ bs
  let s : State := { s with boot := { s.boot with image := image } }
  let there := decide (512 ≤ image.length) && imgHeaderResult image == 1 &&
    (imgDirectory image).head?.any (fun x => decide (x.offset + x.length ≤ image.length))
  if s.boot.phase = .receiving ∧ s.boot.dmc = [] ∧ there = true ∧ (imgDmc image).1 = 1 then s.trainStart (imgDmc image).2
  else s

end Sys2Proof.Machine
end

