-- ==== Sys2Proof/Machine/Bus.lean ====
section
/-! DEFINITION. A register access: the checks of the matrix, then what the block that owns the register does (R3 to R12, R26,
R416). -/

namespace Sys2Proof.Machine

/-! ### Writes, block by block -/

/-- A write of BOOT.IMAGE_DATA by master `m`. -/
def imageDataWrite (m : Nat) (v : Word) (s : State) : State :=
  if s.imageTakes 1 then s.imageAdd (leBytes v.toNat 4) else s.logIgnored m 0x10080020 v

/-- What a decode job is cut short at by a domain reset that a register write orders: no row decoded yet, every reference kept, no
picture leaving.
(DEDUCED, log entry 69) -/
def decCutOf (v : Word) (s : State) : DecEnd :=
  let n := fieldGet v 0 8 - 0x20
  let keeps := match (s.dpipe n).job with
    | none => []
    | some j => ((s.dctx j.ctx).dpb.map (fun (x : DecSlot) => x.seqs)).flatten
  ⟨[], [], [], 0, [], keeps, [], [], none⟩

/-- A write in PWR, CLK or RST; what RST.SW_FULL finds outside the device comes as free values. -/
def sysWrite (m a : Nat) (v : Word) (s : State) : State :=
  if inRange 0x10010100 0x10010180 a then vpllWrite m ((a - 0x10010100) / 0x10) a v s
  else if inRange 0x10020010 0x10020038 a then railWrite m a v s
  else if a = 0x10020040 then lpWrite m v s
  else if a = 0x10020080 then wdogCtrlWrite m v s
  else if a = 0x10020084 then wdogKick v s
  else if a = 0x10030004 then (swFullWrite m v (Config.freeBool s.free) s).drawn
  else if a = 0x10030008 then domainWrite m v (decCutOf v s) s
  else s.writeFields m a v 0

/-- A write in EVT (R493 to R502). -/
def evtWrite (m a : Nat) (v : Word) (s : State) : State :=
  let s := s.gpioSettle
  if a = 0x10040000 then logEnable m v s
  else if a = 0x10040010 then logRingWrite m v s
  else if a = 0x10040020 then s.raise Ev.sw v.toNat
  else if inRange 0x10040080 0x10040090 a then statusClear ((a - 0x10040080) / 4) v s
  else s.writeFields m a v 0

/-- A write in TIME (R79 to R92). -/
def timeWrite (m a : Nat) (v : Word) (s : State) : State :=
  if a = 0x10060000 then timeCtrlWrite m v s
  else if a = 0x10060008 then stateRequest m v s
  else if a = 0x1006000C then if fieldGet v 0 1 = 1 then s.kicked else s
  else if a = 0x1006003C then rateWrite v s
  else if a = 0x10060040 then stepWrite m v s
  else if a = 0x10060044 then s.p Reg.TIME.STEP_SEC_LO.SEC_LO v.toNat
  else if a = 0x10060048 then s.p Reg.TIME.STEP_SEC_HI.SEC_HI v.toNat
  else s.writeFields m a v 0

/-- A write in CUS (R349 to R371). -/
def cusWrite (m a : Nat) (v : Word) (s : State) : State :=
  if a = 0x10070000 then cusCtrlWrite m v s
  else if a = 0x10070008 then roleRequest m v s
  else if a = 0x1007000C then aliveKick v s
  else if a = 0x1007001C then peerGenWrite m v s
  else if a = 0x10070030 then compatWrite m v s
  else s.writeFields m a v 0

/-- A write in BOOT or HOST (R453, R461, R463). -/
def bootWrite (m a : Nat) (v : Word) (s : State) : State :=
  if a = 0x10080020 then imageDataWrite m v s
  else if inRange 0x10080060 0x10080080 a then s.setReg a v
  else if a = 0x10080080 then fuseGo v s
  else if inRange 0x10091000 0x10091800 a then
    let off := (a - 0x10091000) % 0x400
    if off = 0 then slotCtrlWrite m ((a - 0x10091000) / 0x400) v s
    else if off < 0x200 then slotReqWrite m a v s
    else s.writeFields m a v 0
  else s.writeFields m a v 0

/-- A write in SEQ (R56 to R75). -/
def seqWrite (m a : Nat) (v : Word) (s : State) : State :=
  if a = 0x100B0010 then if fieldGet v 0 1 = 1 then s.validateStart else s
  else if a = 0x100B002C then s.keyCtrl v
  else if a = 0x100B0040 then amdCmdWrite m v s
  else if a = 0x100B0050 then presetCtrlWrite m v s
  else if a = 0x100B0054 then presetGpioWrite m v s
  else s.writeFields m a v 0

/-- A write in ING (R107, R115). -/
def ingWrite (m a : Nat) (v : Word) (s : State) : State :=
  if a = 0x10100010 then hostReady m v s
  else if inRange 0x10120000 0x10140000 a && a % 0x100 == 0 then srcCtrlWrite m ((a - 0x10120000) / 0x100) v s
  else s.writeFields m a v 0

/-- A write in DEC (R155). -/
def decWrite (m a : Nat) (v : Word) (s : State) : State :=
  let off := a % 0x10000
  if off = 0 then decCtrlWrite m ((a - 0x10200000) / 0x10000) v s
  else if off = 0xC then saveBaseWrite m ((a - 0x10200000) / 0x10000) v s
  else if off = 0x8008 then decLoadWrite v s
  else s.writeFields m a v 0

/-- A write in ENC (R324, R326). -/
def encWrite (m a : Nat) (v : Word) (s : State) : State :=
  let off := a % 0x10000
  if off = 0 then encPipeWrite m ((a - 0x10300000) / 0x10000) v s
  else if off = 8 then encSaveWrite m ((a - 0x10300000) / 0x10000) v s
  else if 0x8000 ≤ off ∧ off % 0x80 = 0 then strCtrlWrite m ((off - 0x8000) / 0x80) v s
  else s.writeFields m a v 0

/-- A write in ISP or CAP (R157, R179, R184). -/
def capWrite (m a : Nat) (v : Word) (s : State) : State :=
  let p := (a - 0x10380000) / 0x10000
  let off := a % 0x10000
  if off = 0 then capCtrlWrite m p v s
  else if off = 0x14 then capPeakClear p v s
  else if 0x200 ≤ off ∧ off % 0x100 = 0 then ctxCtrlWrite m p ((off - 0x200) / 0x100) v s
  else if 0x200 ≤ off ∧ off % 0x100 = 0x64 then statsWrite m p ((off - 0x200) / 0x100) v s
  else s.writeFields m a v 0

/-- A write in HEAD[n] (R227 to R248). -/
def headWrite (m a : Nat) (v : Word) (s : State) : State :=
  let n := (a - 0x10400000) / 0x1000
  let off := a % 0x1000
  if off = 0 then headCtrlWrite m n v s
  else if off = 8 then clkSelWrite m n v s
  else if off = 0x50 then if fieldGet v 0 1 = 1 then headCommit m n s else s
  else if off = 0x78 then fifoMinWrite n v s
  else if off = 0x430 then otabWrite m n v s
  else if accessMask .rwk a = 0 then s.writeFields m a v 0
  else headEditWrite m n a v s

/-- A write in the release block, NET or MGMT (R98, R221, R227). -/
def netWrite (m a : Nat) (v : Word) (s : State) : State :=
  if a = 0x10440000 then releaseWrite m v s
  else if a = 0x10440008 ∨ a = 0x1044000C then relRingWrite m a v s
  else if a = 0x1054000C then mdioWrite m v s
  else if inRange 0x10500000 0x10540000 a && a % 0x10000 == 0 then netCtrlWrite m ((a - 0x10500000) / 0x10000) v s
  else s.writeFields m a v 0

/-- A write in LANE or QUAD (R424, R427, R437 to R441). -/
def laneWrite (m a : Nat) (v : Word) (s : State) : State :=
  let q := (a - 0x10600000) / 0x1000
  let l := a % 0x800 / 0x200
  let off := a % 0x1000
  if off = 0x800 then quadCtrlWrite m q v s
  else if 0x800 < off then s.writeFields m a v 0
  else if off % 0x200 = 0 then laneCtrlWrite m q l v s
  else if off % 0x200 = 0xC then firWrite m q l v s
  else if off % 0x200 = 0x28 then prbsCtrlWrite m q l v s
  else if off % 0x200 = 0x2C then prbsClear q l v s
  else s.writeFields m a v 0

/-- A write in DPTX or TZL (R283, R284, R294, R306). -/
def linkWrite (m a : Nat) (v : Word) (s : State) : State :=
  if a < 0x10710000 then
    let n := (a - 0x10700000) / 0x400
    if a % 0x400 = 0 then dpCtrlWrite m n v s
    else if a % 0x400 = 0x20 then auxCmdWrite m n v s
    else s.writeFields m a v 0
  else
    let q := (a - 0x10780000) / 0x1000
    if a % 0x1000 = 0 then tzlCtrlWrite m q v s
    else if inRange 0x20 0x2C (a % 0x1000) then statRingWrite m q a v s
    else if a % 0x1000 = 0x34 then ctrlSend q v s
    else if inRange 0x40 0x60 (a % 0x1000) then ctrlDataWrite m q a v s
    else s.writeFields m a v 0

/-- A write in DMC (R394, R401, R403). -/
def dmcWrite (m a : Nat) (v : Word) (s : State) : State :=
  if a = 0x10808000 then dmcCtrlWrite m v s
  else if a = 0x10808020 then fspWrite m v s
  else if a = 0x1080802C then pprWrite m v s
  else s.writeFields m a v 0

/-- What the block that owns the register at `a` does with a write of `v` by master `m`. -/
def blockWrite (m a : Nat) (v : Word) (s : State) : State :=
  if a < 0x10040000 then sysWrite m a v s
  else if a < 0x10050000 then evtWrite m a v s
  else if inRange 0x10060000 0x10070000 a then timeWrite m a v s
  else if inRange 0x10070000 0x10080000 a then cusWrite m a v s
  else if inRange 0x10080000 0x100A0000 a then bootWrite m a v s
  else if inRange 0x100B0000 0x100C0000 a then seqWrite m a v s
  else if a = 0x100C0000 then labelScaleWrite m v s
  else if a = 0x100D0000 then tchCtrlWrite m v s
  else if inRange 0x10100000 0x10180000 a then ingWrite m a v s
  else if inRange 0x10200000 0x10280000 a then decWrite m a v s
  else if inRange 0x10300000 0x10320000 a then encWrite m a v s
  else if inRange 0x10380000 0x103C0000 a then capWrite m a v s
  else if inRange 0x10400000 0x10440000 a then headWrite m a v s
  else if inRange 0x10440000 0x10550000 a then netWrite m a v s
  else if inRange 0x10600000 0x10614000 a then laneWrite m a v s
  else if inRange 0x10700000 0x10790000 a then linkWrite m a v s
  else if inRange 0x10800000 0x10880000 a then dmcWrite m a v s
  else if inRange 0x10900100 0x10900400 a && a % 0x20 == 0 then engCtrlWrite m ((a - 0x10900100) / 0x20) v s
  else s.writeFields m a v 0

/-! ### Multi-word values (R10 to R12) -/

/-- The bits of the register at `a` that a write can change. -/
def writable (a : Nat) : Word := accessMask .rw a ||| accessMask .rwk a

/-- A write of one word: a higher word of a value that can be written waits for its lowest word, with which it takes effect
(R12); where the edit window of its fields is closed it is not recorded (R5). With a reserved value in the lowest word the
higher words take effect and the lowest keeps its value.
(DEDUCED, log entry 18) -/
def wordWrite (m a : Nat) (v : Word) (s : State) : State :=
  if (lowestWord a).isSome && writable a != 0 then
    if accessMask .rwk a != 0 && !s.windowOpen a then s.writeFields m a v 0
    else { s with bus := { s.bus with staged := Tab.put 0 (2 * a + 1) 1 (Tab.put 0 (2 * a) v s.bus.staged) } }
  else
    let s := (higherWords a).foldl (fun s b =>
      if Tab.get 0 (2 * b + 1) s.bus.staged = 0 then s
      else
        let w := Tab.get 0 (2 * b) s.bus.staged
        blockWrite m b w { s with bus := { s.bus with staged := Tab.put 0 (2 * b + 1) 0 (Tab.put 0 (2 * b) 0 s.bus.staged) } }) s
    blockWrite m a v s

/-- A write of `v` to the register at `a` by master `m`: the checks of R416, then the block.
(DEDUCED, log entry 18) (DESIGN CHOICE, log entry 88) (DEDUCED, log entry 91) -/
def regWrite (m a : Nat) (v : Word) (s : State) : State :=
  if !s.coreOn || !s.accepts m then s
  else if s.ctlWaits m then s.ctlQueue (ctlReq m a true v)
  else if noRegister a || a % 4 != 0 then (s.busFail (sizeRecord s m a 4 true (leBytes v.toNat 4) 15)).respond true []
  else s.ctlWrite m a v (wordWrite m a v)

/-- A read of ENG.ECC_CORR: the single-bit errors corrected without notice since the last read in the stores that no command
reports on are a free number, counted here (R32).
(DESIGN CHOICE, log entry 92) -/
def eccCorrRead (a : Nat) (s : State) : State × Word :=
  let s := (s.incSatBy Reg.ENG.ECC_CORR.COUNT s.freeNat).drawn
  (s, s.reg a)

/-- Whether `a` is a word of a lane that moves between commands: its counts of invalid symbols and of invalid sync headers, its
equaliser and ERRORS. -/
def isLaneLiveWord (a : Nat) : Bool :=
  inRange 0x10600000 0x10614000 a && decide (a % 0x1000 < 0x800) && [0x10, 0x14, 0x1C, 0x20, 0x30].contains (a % 0x200)

/-- A lane's words as a read of them finds them: of invalid symbols and sync headers a receiver in use has met a free number since the
last read, of which the commands tell those that end its lock (R435, R436); the equaliser and ERRORS stand as time has brought them
(R430, R439).
(DESIGN CHOICE, log entry 92) -/
def laneSeen (a : Nat) (s : State) : State :=
  let q := (a - 0x10600000) / 0x1000
  let l := a % 0x800 / 0x200
  let owner := s.g (Reg.LANE.OWNER q l)
  if s.g (Reg.LANE.PSTATE q l) ≠ 0 then s
  else if a % 0x200 = 0x10 ∨ a % 0x200 = 0x14 then s.eqSettle q l
  else if a % 0x200 = 0x30 then s.prbsSettle q l
  else if a % 0x200 = 0x1C then
    if owner = 3 ∨ owner = 4 then (s.incBy (Reg.LANE.CODE_ERR q l) s.freeNat).drawn else s
  else if owner = 1 then (s.incBy (Reg.LANE.SYNC_HDR_ERR q l) s.freeNat).drawn
  else s

/-- The queues of controller `k` as a read of their registers finds them: what has been issued meanwhile is gone, and the traffic of
codec jobs, which no command carries, has added to the counts where jobs run (R379, R381).
(DESIGN CHOICE, log entry 97) -/
def queueSeen (k : Nat) (s : State) : State :=
  let q := (s.queue k).settle s.clock ((s.readQueue k).map PendReq.cls) (Config.queueNat (2 * s.bus.drew))
  let s := (s.setQueue k q).stallTick k
  if s.codecRuns then s.codecTraffic k else s

/-- Whether `a` is a word that the queues of a memory controller show. -/
def isQueueWord (a : Nat) : Bool := inRange 0x10800000 0x10880000 a && decide (a % 0x10000 < 12)

/-- The value that a read of the register at `a` by master `m` returns, with what the read brings. -/
def wordRead (m a : Nat) (s : State) : State × Word :=
  let s := if inRange 0x10040000 0x10050000 a then s.gpioSettle else s
  if a = 0x10050008 then errRead m s
  else if a = 0x10060058 then stampRead m s
  else if inRange 0x10060200 0x10060300 a && a % 0x10 == 0 then txqRead m ((a - 0x10060200) / 0x10) s
  else if a = 0x10900004 then eccCorrRead a s
  else if a = 0x10208014 then decFaultRead m s
  else if a = 0x10304004 then encFaultRead m s
  else if inRange 0x10400000 0x10440000 a && a % 0x1000 == 0x430 then otabRead ((a - 0x10400000) / 0x1000) s
  else if (lowestWord a).isSome then
    let w := s.snap m a
    (s, if inRange 0x10120000 0x10140000 a && a % 0x100 == 0x34 then (w &&& 0x7FFFFFFF) ||| (s.reg a &&& 0x80000000) else w)
  else
    let s := if isQueueWord a then queueSeen ((a - 0x10800000) / 0x10000) s else if isLaneLiveWord a then laneSeen a s else s
    let r := (s.setSnaps m ((higherWords a).map (fun b => (b, s.view b))), s.view a)
    if viewDraws a then (r.1.drawn.drawn, r.2) else r

/-- A read of the register at `a` by master `m`.
(DEDUCED, log entry 12) -/
def regRead (m a : Nat) (s : State) : State :=
  if !s.coreOn || s.draining m then s
  else if s.ctlWaits m then s.ctlQueue (ctlReq m a false 0)
  else if noRegister a || a % 4 != 0 then (s.busFail (sizeRecord s m a 4 false [] 0)).respond true [0, 0, 0, 0]
  else s.ctlRead m a (wordRead m a s)

/-! ### The commands -/

/-- REGISTER_WRITE (R4); one of an engine's own HEARTBEAT by its own master is its firmware counting it up (R22). -/
def execRegisterWrite (dt : Nat) (m : Master) (a : BitVec 36) (v : Word) (s : State) : Out State :=
  let s := regWrite m.val a.toNat v (s.advance dt)
  .next (((List.range 24).filter (fun n => engMaster n == m.val && (Reg.ENG.HEARTBEAT.COUNT n).addr == a.toNat)).foldl
    (fun s n => s.heartbeat n) s)

/-- SNAPSHOT_READ (R10): a register read, which snapshots the higher words of a multi-word value. -/
def execSnapshotRead (dt : Nat) (m : Master) (a : BitVec 36) (s : State) : Out State :=
  .next (regRead m.val a.toNat (s.advance dt))

/-- ERR_RECORD_READ (R418). -/
def execErrRecordRead (dt : Nat) (m : Master) (s : State) : Out State := .next (regRead m.val 0x10050008 (s.advance dt))

end Sys2Proof.Machine
end

