-- ==== Sys2Proof/Machine/Boot.lean ====
section
/-! DEFINITION. The boot loader: reading and choosing an image, training, applying it, refusing it (R443 to R455, R485). -/

namespace Sys2Proof.Machine

/-! ### Refusal (R454) -/

/-- STAT of a refusal for a reason. -/
def refusalStat (reason : Nat) : Nat := if reason = 2 then 4 else if reason = 3 then 5 else 3

/-- The refusal is complete: STATUS, the role, EV_CFG_REFUSED on INT_N[0], and the management port of the recovery
responder (R454, R455). -/
def State.refuseDone (s : State) (reason : Nat) : State :=
  let s := { s with boot := { s.boot with phase := .idle, why := 0, todo := [], image := [] } }
  let s := ((s.p Reg.BOOT.STATUS.STATE 2).p Reg.BOOT.STATUS.REASON reason).p Reg.BOOT.STATUS.STAT (refusalStat reason)
  let s := s.bootIsolate true
  let s := s.p (Reg.EVT.ENABLE 0) (s.g (Reg.EVT.ENABLE 0) ||| 1)
  let s := s.p (Reg.EVT.ROUTE.PINS Ev.cfgRefused) (s.g (Reg.EVT.ROUTE.PINS Ev.cfgRefused) ||| 1)
  (s.raise Ev.cfgRefused reason).pb Reg.MGMT.CTRL.ENABLE true

/-- A refusal that waits for the heads completes once every head has stopped. -/
def State.bootSettle (s : State) : State :=
  if s.boot.phase = .stopping ∧ allHeads.any (fun n => s.headRuns n) = false then s.refuseDone s.boot.why else s

/-- A one-bit control field that the boot loader writes 0. -/
def State.bootOff (s : State) (f : FRef) : State := regWrite 1 f.addr (s.fieldWord f 0) s

/-- What the image's register lists have started is stopped; the management MAC is left as it stands. -/
def State.stopAll (s : State) : State :=
  let off := fun (s : State) (n : Nat) (f : Nat → FRef) => (List.range n).foldl (fun s i => s.bootOff (f i)) s
  let s := off s 64 Reg.HEAD.CTRL.ENABLE
  let s := off s 64 Reg.DPTX.CTRL.ENABLE
  let s := off s 16 Reg.TZL.CTRL.ENABLE
  let s := off s 16 (fun k => Reg.ISP.CTX.ENABLE (k / 4) (k % 4))
  let s := off s 4 Reg.CAP.ENABLE
  let s := off (off s 8 Reg.DEC.CTRL.ENABLE) 2 Reg.ENC.PIPE.ENABLE
  let s := off (off s 32 Reg.ENC.STR.ENABLE) 512 Reg.ING.SRC.ENABLE
  let s := s.bootOff Reg.TCH.CTRL.ENABLE
  off (off s 4 Reg.NET.CTRL.MODE) 80 (fun k => Reg.LANE.TEST_EN (k / 4) (k % 4))

/-- The outputs are refused, for a reason of BOOT.STATUS.REASON.
(DEDUCED, log entry 77) -/
def State.bootRefuse (s : State) (reason : Nat) : State :=
  let s := if 3 ≤ s.boot.step then s.stopAll else s
  { s with boot := { s.boot with phase := .stopping, why := reason, todo := [] } }.bootSettle

/-! ### Applying an image (R452) -/

/-- The section of a type of the image in use, empty where it has none. -/
def State.imgSec (s : State) (type : Nat) : List Byte := (imgSection s.boot.image type).getD []

/-- Whether the image in use has BOOT_GPIO set. -/
def State.bootGpio (s : State) : Bool := imgNum (s.imgSec 3) 1 1 % 2 == 1

/-- The page that the boot loader writes: 0 the boot page, p + 1 preset p that the select pins name (BOOT_GPIO). -/
def State.bootPage (s : State) : Nat :=
  if s.bootGpio && decide (s.presetPins + 1 < imgNum (s.imgSec 3) 0 1) then s.presetPins + 1 else 0

/-- Where the preset pages of a copy stand in flash.
(DEDUCED, log entry 24) -/
def State.presetTable (s : State) (copy : Nat) : Tab (Option (Nat × Nat)) :=
  match (imgDirectory s.boot.image).find? (fun x => x.type == 3) with
  | none => []
  | some x =>
    let pages := imgPages (s.imgSec 3)
    (List.range (pages.length - 1)).foldl (fun t p =>
      let e := pages.getD (p + 1) (0, 0)
      Tab.put none p (some (0x4000000 * copy + x.offset + e.1, e.2)) t) []

/-- Step 1: the keys.
(PRESUMED, log entry 78) -/
def State.bootKeys (s : State) : State :=
  let sec := imgSection s.boot.image 8
  let b := sec.getD []
  let keys := (List.range 4).foldl (fun t k =>
    if (imgNum b 0 4).testBit k then Tab.put none k (some (beNat ((b.drop (16 + 64 * k)).take 64))) t else t) []
  { s with img := {
    pageKeys := if sec.isSome then keys else []
    hostKey := (b.drop 272).take 32
    presets := match s.boot.chosen with
      | some c => if c < 2 then s.presetTable c else []
      | none => [] } }

/-- The records of ISP_TABLES of image `bs`, as far as it has come, at their destinations. -/
def State.tablesOf (s : State) (bs : List Byte) : State :=
  let sec := (imgSection bs 5).getD []
  (recordsCome true (sec.length + 1) sec).foldl (fun s e => (s.dmaWrite 1 1 (e.1 % 2 ^ 36) e.2).1) s

/-- The records of VITRINE of image `bs`, as far as it has come, at their destinations. -/
def State.vitrineOf (s : State) (bs : List Byte) : State :=
  let sec := (imgSection bs 7).getD []
  (recordsCome false (sec.length + 1) sec).foldl (fun s e => (s.dmaWrite 1 1 (0x1400000 + e.1) e.2).1) s

/-- An image with result `r` has been hashed, or what came of one whose stream broke off: what it holds for memory was written to its
destinations meanwhile (R451).
(DEDUCED, log entry 75) -/
def State.hashedTo (s : State) (r : Nat) (bs : List Byte) : State :=
  if r = 1 ∨ 7 ≤ r ∨ (r = 3 ∧ imgHeaderResult bs = 1) then (s.tablesOf bs).vitrineOf bs else s

/-- Step 7: the writes of SOURCES, each ENABLE last.
(DEDUCED, log entry 75) -/
def sourceActs (recs : List (Nat × Bool × List Nat)) : List BootAct :=
  let at_ := fun (r : Nat × Bool × List Nat) => if r.2.1 then 0x10140000 + 0x20 * r.1 else 0x10120000 + 0x100 * r.1
  let word := fun (r : Nat × Bool × List Nat) (j : Nat) =>
    let v : Word := BitVec.ofNat 32 (r.2.2.getD j 0)
    if j = 0 ∧ r.2.1 = false then fieldSet v 0 1 0 else v
  (recs.map (fun r => (List.range r.2.2.length).map (fun j => BootAct.write (at_ r + 4 * j) (word r j)))).flatten ++
    (recs.filter (fun r => !r.2.1 && (r.2.2.getD 0 0).testBit 0)).map
      (fun r => BootAct.write (at_ r) (BitVec.ofNat 32 (r.2.2.getD 0 0)))

/-- Step 8: the page is copied into the staging page and validated, by a write of SEQ.VAL_CTRL (R75). -/
def State.bootPages (s : State) : State :=
  let sec := s.imgSec 3
  let e := (imgPages sec).getD s.bootPage (0, 0)
  (regWrite 1 0x100B0010 1
    (s.dmaWrite 1 1 (pageAddr s.stagePage 0) ((sec.drop e.1).take (16 * min e.2 16384))).1).validateDone

/-- Step 10: the boot keystone, committed with T = 0 by writes of SEQ.KEY_TIME and SEQ.KEY_CTRL (R12, R75). -/
def State.bootKeystone (s : State) : State :=
  regWrite 1 0x100B002C 1 (regWrite 1 0x100B0028 0 (regWrite 1 0x100B0024 0 (regWrite 1 0x100B0020 0 s)))

/-- One firmware record: the local memory, the restart copy, FW_GEN, AUTO_RESTART, ENABLE. -/
def State.bootEngine (s : State) (x : FwRecord) : State :=
  if 24 ≤ x.engine then s
  else
    let n := x.engine
    let s := s.engLoad n x.load x.code
    let s := (s.dmaWrite 1 1 x.copy x.code).1
    let s := s.setEngine n { s.engine n with loaded := true, copyAddr := x.copy, copyLen := x.code.length, loadOff := x.load }
    let s := (s.p (Reg.ENG.FW_GEN.GENERATION n) (s.g Reg.BOOT.GEN)).pb (Reg.ENG.CTRL.AUTO_RESTART n) x.auto
    regWrite 1 (Reg.ENG.CTRL.ENABLE n).addr (s.fieldWord (Reg.ENG.CTRL.ENABLE n) 1) s

/-- Step 9: ENGINE_FW, the Curator last.
(DEDUCED, log entry 77) -/
def State.bootEngines (s : State) : State :=
  let recs := (fwRecords ((s.imgSec 2).length + 1) (s.imgSec 2)).getD []
  (recs.filter (fun x => decide (2 ≤ x.engine)) ++ recs.filter (fun x => decide (x.engine < 2))).foldl
    (fun s x => s.bootEngine x) s

/-- The milliseconds since the reset, as BOOT.TIMES holds them.
(DEDUCED, log entry 77) -/
def State.bootMs (s : State) : Nat := min 65535 ((s.clock - s.boot.at_) / 1000000)

/-- STATE and STAT become RUNNING. -/
def State.bootDone (s : State) : State :=
  let s := ((s.p Reg.BOOT.STATUS.STATE 1).p Reg.BOOT.STATUS.STAT 2).p Reg.BOOT.TIMES.T_RUN_MS s.bootMs
  ({ s with boot := { s.boot with phase := .idle, image := [], todo := [] } }.bootIsolate false).bootKick

/-- One numbered step of R452 that is no list of writes.
(DEDUCED, log entry 77) -/
def State.bootStep (s : State) (k : Nat) : State :=
  let s : State := { s with boot := { s.boot with step := k } }
  match k with
  | 1 => s.bootKeys
  | 5 => s.tablesOf s.boot.image
  | 6 => s.vitrineOf s.boot.image
  | 8 => if s.boot.full then s.bootPages else s
  | 9 => s.bootEngines
  | 10 => if s.boot.full then s.bootKeystone else s
  | _ => s

/-- Whether a step has refused the image: its page is not valid (R452 step 8). -/
def State.stepRefuses (s : State) (k : Nat) : Bool := k == 8 && s.boot.full && s.g Reg.SEQ.STATUS.VAL_STATE != 2

/-- From when the select pins have been stable as step 8 sees them: it looks at them from its own start on.
(DEDUCED, log entry 77) -/
def State.pinsSince (s : State) : Nat := if s.boot.step = 8 then max s.boot.lookAt s.pinsStable else s.clock

/-- When step `k` may run, if not at once: with BOOT_GPIO the page waits until the select pins have been stable for
DEBOUNCE_MS (R452 step 8). -/
def State.stepWaits (s : State) (k : Nat) : Option Nat :=
  let t := s.pinsSince + 1000000 * s.g Reg.SEQ.PRESET_GPIO.DEBOUNCE_MS
  if k == 8 && s.boot.full && s.bootGpio && decide (s.clock < t) then some t else none

/-- The acts are done in order, up to a pause, a refusal, or a reset that one of them makes. -/
def runActs : List BootAct → State → State
  | [], s => s.bootDone
  | .write a v :: rest, s =>
    let t := regWrite 1 a v { s with bus := { s.bus with resp := none } }
    if t.bus.resp.any (fun (r : BusResp) => r.error) then t.bootRefuse 4
    else if t.boot.phase = .due then t
    else runActs rest t
  | .pause us :: rest, s =>
    { s with boot := { s.boot with phase := .pausing, pauseTo := s.clock + 1000 * us, todo := rest } }
  | .step k :: rest, s =>
    match s.stepWaits k with
    | some t => { s with
        boot := { s.boot with
          phase := .pausing, pauseTo := t, step := k, lookAt := if s.boot.step = 8 then s.boot.lookAt else s.clock
          todo := .step k :: rest } }
    | none =>
      let t := s.bootStep k
      if t.stepRefuses k then t.bootRefuse 5 else runActs rest t

/-- What R452 makes of an image of format `version`. -/
def imageActs (version : Nat) (bs : List Byte) : List BootAct :=
  let list := fun type => ((imgSection bs type).bind sectionActs).getD []
  let sources := (imgSection bs 4).getD []
  [BootAct.step 1, .step 2] ++ (if version = 2 then [] else list 9) ++ [BootAct.step 3] ++ list 10 ++
    [BootAct.step 4] ++ list 6 ++ [BootAct.step 5, .step 6, .step 7] ++
    sourceActs ((srcRecords (sources.length + 1) sources).getD []) ++ [BootAct.step 8, .step 9, .step 10]

/-- The image in use is applied. -/
def State.bootApply (s : State) : State :=
  runActs (imageActs (imgNum s.boot.image 4 2) s.boot.image)
    { s with boot := { s.boot with phase := .reading, step := 0 } }

/-! ### Choosing (R449, R450, R451) -/

/-- The flash bytes of copy `c`, up to the end that its header gives. -/
def State.copyBytes (s : State) (c : Nat) : List Byte :=
  let a := 0x4000000 * c
  s.flashBytes a (max 512 (min (2 ^ 26) (leNat (s.flashBytes (a + 12) 4))))

/-- After STANDBY the live page stays where the image has the generation held; else course memory is scrubbed (R485). -/
def State.bootKeep (s : State) (gen : Nat) : State :=
  if s.boot.kind = .standby then
    if s.g Reg.BOOT.GEN = gen ∧ s.gb Reg.SEQ.STATUS.LIVE_VALID = true then
      { s with boot := { s.boot with full := false } }
    else
      let s := s.memKeep true false
      (((s.pb Reg.SEQ.STATUS.LIVE_VALID false).p Reg.SEQ.STATUS.LIVE_PAGE 0).p Reg.SEQ.LIVE_GEN.GENERATION 0).genRefresh
  else s

/-- The image `bs` is chosen: copy `c`, or 2 the host's. A DMC section other than that trained with is loaded and trained. -/
def State.bootChoose (s : State) (c : Nat) (bs : List Byte) : State :=
  let s := s.bootKeep (imgNum bs 8 4)
  let s := (s.p Reg.BOOT.STATUS.COPY_USED (c + 1)).p Reg.BOOT.GEN (imgNum bs 8 4)
  let s := s.p Reg.BOOT.TIMES.T_SELECT_MS s.bootMs
  let s : State := { s with boot := { s.boot with chosen := some c, image := bs, order := [] } }
  if s.boot.dmc = (imgDmc bs).2 then s.bootApply else s.trainStart (imgDmc bs).2

/-- KEY_OPEN, once a key has been looked at (R446). -/
def State.keyOpen (s : State) : State := s.pb Reg.BOOT.STATUS.KEY_OPEN (s.pins.keyDigest.all (fun w => w == 0))

/-- The result of copy `c`, whose DMC section is not good: a breach of R447 comes before the CRC of a section (R449). -/
def State.dmcResult (s : State) (c : Nat) : Nat := if imgFormat (s.copyBytes c) then (imgDmc (s.copyBytes c)).1 else 6

/-- The candidates in turn until one can be trained with, one whose DMC section is not good having its result at once; once memory is
trained, the next candidate is read as it stands, and only one that is used trains again (R451). -/
def State.bootTry (s : State) : List Nat → State
  | [] => s.bootRefuse 1
  | c :: rest =>
    let r := imgDmc (s.copyBytes c)
    let t : State := { s with boot := { s.boot with order := c :: rest } }
    if s.boot.dmc ≠ [] then { t with boot := { t.boot with phase := .reading } }
    else if r.1 = 1 then t.trainStart r.2
    else (s.p (Reg.BOOT.COPY.RESULT c) (s.dmcResult c)).bootTry rest

/-- The headers of both copies are read: VERSION, GEN, and the result of a header that is not good.
(DEDUCED, log entry 75) -/
def State.readHeader (s : State) (c : Nat) : State :=
  let bs := s.flashBytes (0x4000000 * c) 512
  let s := s.p (if c = 0 then Reg.BOOT.GEN_A else Reg.BOOT.GEN_B) (imgNum bs 8 4)
  let s := s.p (Reg.BOOT.COPY.VERSION c) (imgNum bs 4 2)
  if imgHeaderResult bs = 1 then s else s.p (Reg.BOOT.COPY.RESULT c) (imgHeaderResult bs)

/-- Whether the header of a copy is good. -/
def State.headerGood (s : State) (c : Nat) : Bool := imgHeaderResult (s.flashBytes (0x4000000 * c) 512) == 1

/-- The copies in the order of R450, among those not yet refused, and whether both must be verified. -/
def State.bootOrder (s : State) (among : List Nat) : State :=
  let s := among.foldl (fun s c => s.readHeader c) s
  let good := among.filter (fun c => s.headerGood c)
  let equal := s.g Reg.BOOT.GEN_A == s.g Reg.BOOT.GEN_B
  let order := if good.length = 2 ∧ s.g Reg.BOOT.GEN_A < s.g Reg.BOOT.GEN_B then [1, 0] else good
  { s with boot := { s.boot with both := decide (good.length = 2) && equal } }.bootTry order

/-- The boot loader starts (R444, R450). What the flash's SFDP table declares is kept in every boot mode, since FLASH_WRITE goes by it
(R456).
(DEDUCED, log entry 74) -/
def bootRun (sfdp : Option SfdpFacts) (s : State) : State :=
  if s.coreOn = false ∨ s.boot.phase ≠ .due then s
  else
    let s := (s.p Reg.BOOT.STATUS.COPY_USED 0).pb Reg.BOOT.STATUS.FORCED false
    let s := ([0, 1] : List Nat).foldl (fun s c => (s.p (Reg.BOOT.COPY.RESULT c) 0).p (Reg.BOOT.COPY.VERSION c) 0) s
    let s := (s.p Reg.BOOT.GEN_A 0).p Reg.BOOT.GEN_B 0
    let s := match sfdp with
      | some f => (s.p Reg.BOOT.FLASH.ERASE_KB f.eraseKb).p Reg.BOOT.FLASH_MB f.sizeMb
      | none => s
    match s.g Reg.SYS.STRAPS.BOOT_MODE with
    | 0 =>
      match sfdp with
      | none =>
        let s := ([0, 1] : List Nat).foldl (fun s c => s.p (Reg.BOOT.COPY.RESULT c) 3) s
        (s.p Reg.BOOT.NEXT_SEL 0).bootRefuse 1
      | some _ =>
        let next := s.g Reg.BOOT.NEXT_SEL
        let s := s.p Reg.BOOT.NEXT_SEL 0
        if next = 1 ∨ next = 2 then
          let s := (s.pb Reg.BOOT.STATUS.FORCED true).readHeader (next - 1)
          if s.headerGood (next - 1) && (imgDmc (s.copyBytes (next - 1))).1 == 1 then s.bootTry [next - 1]
          else
            let s := if s.headerGood (next - 1) then
                s.p (Reg.BOOT.COPY.RESULT (next - 1)) (s.dmcResult (next - 1))
              else s
            (s.pb Reg.BOOT.STATUS.FORCED false).bootOrder [2 - next]
        else s.bootOrder [0, 1]
    | 3 => { (s.p Reg.BOOT.STATUS.STATE 4).p Reg.BOOT.STATUS.STAT 7 with boot := { s.boot with phase := .idle } }
    | _ => { (s.p Reg.BOOT.STATUS.STATE 3).p Reg.BOOT.STATUS.STAT 6 with boot := { s.boot with phase := .receiving } }

/-! ### Training ends (R389) -/

/-- The outcome of boot training of channel `ch`. -/
def State.trainedChannel (s : State) (fails : Nat) (ch : Nat) : State :=
  if fails.testBit ch then
    let k := ch / 2
    ((s.p (Reg.DMC.CTL.STATE k) 4).p (Reg.DMC.CTL.CH_FAIL k) (s.g (Reg.DMC.CTL.CH_FAIL k) ||| 2 ^ (ch % 2))).trainEvent ch 2
  else ((s.pb (Reg.DMC.CH.RETRAIN_PENDING (ch / 2) (ch % 2)) false).pb (Reg.DMC.CH.ZQ_PENDING (ch / 2) (ch % 2)) false).trainEvent ch 1

/-- What channel `ch` keeps of its training: the oscillator's count at each set point (R390). -/
def keptCounts (r : TrainSeen) (ch : Nat) : Tab Nat :=
  ([0, 1, 2] : List Nat).foldl (fun t f => Tab.put 0 f (r.counts.getD (3 * ch + f) 0).toNat t) []

/-- Boot training ends after `ms` milliseconds: what passed is stored and runs at BOOT_FSP also where a channel has failed (R389). -/
def trainingDone (r : TrainSeen) (ms : Nat) (s : State) : State :=
  if s.coreOn = false ∨ s.boot.phase ≠ .training then s
  else
    let point := s.g Reg.DMC.CONFIG.BOOT_FSP
    let s := (List.range 8).foldl (fun s k => (s.p (Reg.DMC.CTL.STATE k) 2).p (Reg.DMC.CTL.FSP k) point) s
    let fails := r.fails.toNat
    let s := allChannels.foldl (fun s ch => s.trainedChannel fails ch) (s.p Reg.DMC.TRAIN_MS ms)
    let s : State := { s with dmc := { s.dmc with chans := [], train := none, change := none } }
    let s := allChannels.foldl (fun s ch => s.setChan ch (DmcChan.started s.clock (keptCounts r ch))) s
    let s := s.p Reg.DMC.FSP_STATUS.CURRENT point
    let s := if fails = 65535 then s else ([0, 1, 2] : List Nat).foldl (fun s f => s.pb (Reg.DMC.FSP.TRAINED f) true) s
    if fails ≠ 0 then s.bootRefuse 3
    else
      if s.boot.chosen.isSome then s.bootApply
      else
        let next := if s.g Reg.SYS.STRAPS.BOOT_MODE = 0 then BootPhase.reading else BootPhase.receiving
        { s with boot := { s.boot with phase := next } }

/-! ### A copy has been read (R449, R450) -/

/-- A result recorded; KEY and SIGNATURE raise EV_SEC_AUTH_FAIL. -/
def State.copyResult (s : State) (c r : Nat) : State :=
  let s := (s.p (Reg.BOOT.COPY.RESULT c) r).keyOpen
  if r = 8 ∨ r = 9 then s.raise Ev.secAuthFail (c + 1) else s

/-- Both copies have been verified (R450). -/
def State.bootBoth (s : State) : State :=
  let good := ([0, 1] : List Nat).filter (fun c => s.g (Reg.BOOT.COPY.RESULT c) == 1)
  match good with
  | [] => s.bootRefuse 1
  | [c] => s.bootChoose c (s.copyBytes c)
  | _ =>
    if imgDigest (s.copyBytes 0) = imgDigest (s.copyBytes 1) then s.bootChoose 0 (s.copyBytes 0)
    else (s.raise Ev.cfgDivergent 0).bootRefuse 2

/-- Copy `c` has been read and hashed, whole or as far as its stream came. -/
def copyRead (c : Nat) (broke : Option Nat) (s : State) : State :=
  let bs := match broke with
    | none => s.copyBytes c
    | some n => (s.copyBytes c).take n
  let r := if broke.isNone then imgResult s.pins.keyDigest bs else 3
  let s := (s.hashedTo r bs).copyResult c r
  let rest := s.boot.order.drop 1
  if s.boot.both then
    if rest = [] then s.bootBoth else { s with boot := { s.boot with order := rest } }
  else if r = 1 then
    let other := 1 - c
    let s := if s.gb Reg.BOOT.STATUS.FORCED || s.g (Reg.BOOT.COPY.RESULT other) != 0 then s
      else s.p (Reg.BOOT.COPY.RESULT other) 2
    s.bootChoose c bs
  else if s.gb Reg.BOOT.STATUS.FORCED then (s.pb Reg.BOOT.STATUS.FORCED false).bootOrder [1 - c]
  else if rest = [] then s.bootRefuse 1
  else { s with boot := { s.boot with order := rest } }

/-- Whether the host's image has come: whole, or with a header that is not good. -/
def State.imageThere (s : State) : Bool :=
  decide (512 ≤ s.boot.image.length) &&
    (imgHeaderResult s.boot.image != 1 || decide (imgNum s.boot.image 12 4 ≤ s.boot.image.length))

/-- An image has been read and hashed: copy `c` where it is next, or the host's.
(DEDUCED, log entry 76) -/
def imageRead (c : Nat) (broke : Option Nat) (s : State) : State :=
  if s.coreOn = false then s
  else if s.boot.phase = .reading ∧ s.boot.chosen = none ∧ s.boot.order.head? = some c then copyRead c broke s
  else if s.boot.phase = .receiving ∧ s.imageThere = true then
    let bs := s.boot.image.take (imgNum s.boot.image 12 4)
    let r := imgResult s.pins.keyDigest bs
    let s := (s.hashedTo r bs).keyOpen
    if r = 1 then s.bootChoose 2 bs else s.bootRefuse 1
  else s

/-- The pause of a register list ends (R448). -/
def pauseEnd (s : State) : State :=
  if s.coreOn = true ∧ s.boot.phase = .pausing ∧ s.boot.pauseTo ≤ s.clock then
    runActs s.boot.todo { s with boot := { s.boot with phase := .reading } }
  else s

/-! ### The commands -/

/-- BOOT_LOADER_RUN (R450), with what the flash's SFDP table declares; none where it has no valid table. -/
def execBootLoaderRun (dt : Nat) (sfdp : Option SfdpFacts) (s : State) : Out State := .next (bootRun sfdp (s.advance dt))

/-- DRAM_TRAINING_DONE (R389): the channels that failed and the counts kept, and the time that training took. -/
def execDramTrainingDone (dt : Nat) (r : TrainSeen) (ms : Nat) (s : State) : Out State :=
  .next (trainingDone r ms (s.advance dt))

/-- FLASH_COPY_READ_DONE (R449): the copy, and the bytes after which its stream broke off, none where it came whole. -/
def execFlashCopyReadDone (dt : Nat) (copy : Fin 2) (broke : Option Nat) (s : State) : Out State :=
  .next (imageRead copy.val broke (s.advance dt))

/-- REG_LIST_PAUSE_EXPIRE (R448). -/
def execRegListPauseExpire (dt : Nat) (s : State) : Out State := .next (pauseEnd (s.advance dt))

/-- IMAGE_DATA_WRITE (R453): the word. -/
def execImageDataWrite (dt : Nat) (m : Master) (v : Word) (s : State) : Out State :=
  .next ((s.advance dt).ctlWrite m.val 0x10080020 v (imageDataWrite m.val v))

end Sys2Proof.Machine
end

