-- ==== Sys2Proof/Machine/LatchPoint.lean ====
section
/-! DEFINITION. The latch point of a head, with what follows from it in its link, in custody and in the boot loader
(R231, R232, R237, R294, R358, R454). -/

namespace Sys2Proof.Machine

/-- A latch point of head `n`, `first` for the one that its timing generator starts at; nothing where none may come. -/
def latchAll (first : Bool) (n : Nat) (s : State) : State :=
  if s.latchDue first n then
    let heads := s.ledBy n
    let s := s.latchPoint first n
    let s := heads.foldl (fun s k => (s.linkLatch first k).releaseLatched k) s
    s.bootSettle
  else s

/-- LATCH_POINT (R237). -/
def execLatchPoint (dt : Nat) (n : Fin 64) (s : State) : Out State := .next (latchAll false n.val (s.advance dt))

/-- HEAD_START (R231). -/
def execHeadStart (dt : Nat) (n : Fin 64) (s : State) : Out State := .next (latchAll true n.val (s.advance dt))

end Sys2Proof.Machine
end

