-- ==== Sys2Proof/Machine/Matrix.lean ====
section
/-! DEFINITION. The bus matrix: data and control accesses of the masters, requests that wait at a port, aging and drains (R404
to R420). -/

namespace Sys2Proof.Machine

/-! ### Requests carried out whole -/

/-- The bursts that the JTAG debug port's operator forms of `n` bytes from `a`: 16 beats each at most, from 32-byte boundaries, also
across a 4 KiB boundary (R408, R522). -/
def jtagBursts : Nat → Nat → Nat → List (Nat × Nat)
  | 0, _, _ => []
  | fuel + 1, a, n =>
    if n = 0 then []
    else
      let stop := min (a / 32 * 32 + 512) (a + n)
      (a, stop - a) :: jtagBursts fuel stop (a + n - stop)

/-- The bursts of a request: of the JTAG debug port as it forms them, of every other master as R522 divides it. -/
def requestBursts (m a n : Nat) : List (Nat × Nat) := if m = 2 then jtagBursts (n + 1) a n else burstsOf (n + 1) a n

/-- The effective QoS of a request: 15 by escalation for the fetches of a head, else what its master sets, its default or the override
(R245, R404, R406). -/
def State.reqQos (s : State) (r : BusReq) : Nat :=
  s.effQos r.master.val (ownQos r.master.val r.qos.val) (r.escal && decide (20 ≤ r.master.val ∧ r.master.val ≤ 23))

/-- Data of `n` bytes, the missing ones 0, and strobes of as many, the missing ones set. -/
def padBytes (n : Nat) (bs : List Byte) : List Byte := (List.range n).map (fun i => bs.getD i 0)
def padStrobes (n : Nat) (on : List Bool) : List Bool := (List.range n).map (fun i => on.getD i true)

/-- A data access carried out whole, and its response. -/
def State.dataAccess (s : State) (r : BusReq) : State :=
  let m := r.master.val
  let a := r.addr.toNat
  let qos := s.reqQos r
  let bursts := requestBursts m a r.bytes
  if r.write then
    let t := s.writeBursts m qos r.id.val bursts (padBytes r.bytes r.data) (padStrobes r.bytes r.strobes)
    t.1.respond t.2 []
  else
    let t := s.readBursts m qos r.id.val r.ecc bursts
    t.1.respond t.2.2 t.2.1

/-! ### Control accesses (R3, R407, R416) -/

/-- The strobes of a control write, as 4 bits. -/
def strobeBits (on : List Bool) : Nat := ((List.range 4).map (fun i => if on.getD i true then 2 ^ i else 0)).sum

/-- A control access: one 32-bit aligned beat with every strobe set reaches the register.
(DEDUCED, log entry 15) -/
def State.controlAccess (s : State) (r : BusReq) : State :=
  let m := r.master.val
  let a := r.addr.toNat
  let v : Word := BitVec.ofNat 32 (leNat (padBytes 4 r.data))
  let whole := r.bytes == 4 && a % 4 == 0 && (!r.write || strobeBits r.strobes == 15)
  if whole then (if r.write then regWrite m a v s else regRead m a s)
  else
    (s.busFail (sizeRecord s m a r.bytes r.write (padBytes 4 r.data) (strobeBits r.strobes))).respond true
      (if r.write then [] else List.replicate r.bytes 0)

/-- The first control request of master `m` that waits takes effect, those behind it still waiting (R410).
(DESIGN CHOICE, log entry 13) -/
def State.ctlFinish (s : State) (m : Nat) : State :=
  match s.bus.ctl.filter (fun (r : BusReq) => r.master.val == m) with
  | [] => s
  | r :: rest =>
    let others := s.bus.ctl.filter (fun (r : BusReq) => r.master.val != m)
    let t := ({ s with bus := { s.bus with ctl := others } } : State).controlAccess r
    { t with bus := { t.bus with ctl := t.bus.ctl ++ rest } }

/-! ### Requests outstanding and arbitration (R408 to R412) -/

/-- One burst of request `r` as it waits at its port, or the part of it on one controller; of a burst that a check of R416 fails, at
the default target; the state of the flash counts at the issue (R415). -/
def State.pendOf (s : State) (r : BusReq) (a n fail : Nat) (lead : Bool) (bs : List Byte) (on : List Bool) : PendReq := {
  master := r.master.val, target := if fail ≠ 0 ∧ fail ≠ Rsn.refused then 14 else (s.dataTarget a).getD 14, write := r.write, addr := a
  bytes := n, data := padBytes n bs, strobes := padStrobes n on, id := r.id.val, qos := s.reqQos r
  granted := false, sent := 0, since := s.clock, aged := false, ecc := if lead then r.ecc else .clean, lead := lead, fail := fail
  flashAt := if inFlash a then 1 + (a - 0x8000000) + 2 ^ 27 * s.g Reg.MTX.CTRL.FLASH_BANK else 0 }

/-- The reason for which a burst fails, judged as it is issued; 0 for none (R415, R416). -/
def State.issueFail (s : State) (m a n : Nat) (write : Bool) : Nat :=
  match s.dataCheck m a n write with
  | some reason => reason
  | none => if inFlash a && s.boot.flash.isSome then Rsn.refused else 0

/-- The parts of a burst at its ports: one per granule in DRAM, else the burst itself (R408).
(DESIGN CHOICE, log entry 13) -/
def State.partsOf (s : State) (r : BusReq) (a n : Nat) (bs : List Byte) (on : List Bool) : List PendReq :=
  let fail := s.issueFail r.master.val a n r.write
  if s.inDram a 1 && fail == 0 then
    (granules a n).map (fun g =>
      let lo := max a g
      let k := lo - a
      let len := min (a + n) (g + 256) - lo
      s.pendOf r lo len 0 (k == 0) (bs.drop k) (on.drop k))
  else [s.pendOf r a n fail true bs on]

/-- The parts of the bursts of a request, in issue order. -/
def State.partsOfAll (s : State) (r : BusReq) : List (Nat × Nat) → List Byte → List Bool → List PendReq
  | [], _, _ => []
  | (a, n) :: rest, bs, on => s.partsOf r a n (bs.take n) (on.take n) ++ s.partsOfAll r rest (bs.drop n) (on.drop n)

/-- The parts of a request in issue order (R408). -/
def State.requestParts (s : State) (r : BusReq) : List PendReq :=
  s.partsOfAll r (requestBursts r.master.val r.addr.toNat r.bytes) r.data r.strobes

/-- Beats of a burst begun: each part in turn is granted where its port grants it, with what is left of `sent` beats; the last beat is
left to the end of the request. -/
def State.grantParts (s : State) (sent : Nat) : List PendReq → State
  | [] => s
  | p :: ps =>
    if s.wins p then
      let n := if ps.isEmpty then min sent (p.beats - 1) else min sent p.beats
      let s := s.grantReq p n
      if n < p.beats then s else s.grantParts (sent - n) ps
    else s

/-- A request left outstanding: it waits at its ports, or its first burst, if a port grants it, has begun with beats sent (R408,
R411).
(DESIGN CHOICE, log entry 13) -/
def State.requestHeld (s : State) (r : BusReq) (granted : Bool) (sent : Nat) : State :=
  let first := (s.burstOf r.master.val r.id.val).isEmpty
  let s := { s with bus := { s.bus with inflight := s.bus.inflight ++ s.requestParts r } }
  let s := (List.range 8).foldl (fun s k => s.stallTick k) s
  if granted && first then s.grantParts sent (s.burstOf r.master.val r.id.val) else s

/-- Whether a request cannot be carried out whole within its command: with its parts at their ports, one of them is not the next
that its port grants, or finds no entry in its controller's queue (R379, R408, R411). -/
def State.mustWait (s : State) (r : BusReq) : Bool :=
  (s.requestParts r).any (fun p =>
    p.fail == 0 && !({ s with bus := { s.bus with inflight := s.bus.inflight ++ [{ p with lead := true }] } }).wins { p with lead := true })

/-- The response to a granted part: its data, and whether it is an error (R223, R399, R415, R416). -/
def State.partEnd (s : State) (p : PendReq) : State × List Byte × Bool :=
  let none_ := if p.write then [] else List.replicate p.bytes 0
  let e := dataRecord s p.fail p.master p.addr p.bytes p.write p.qos p.id
  if p.fail = Rsn.refused then (s.errLog e, none_, true)
  else if p.fail ≠ 0 then (s.busFail e, none_, true)
  else if p.write then
    match s.leaseHit p.master p.addr p.bytes with
    | some b => (s.raise Ev.leaseViolation b, [], true)
    | none => ((s.queueBurst true p.qos p.addr p.bytes p.strobes).storeMasked p.addr p.data p.strobes, [], false)
  else
    let r := s.eccRead p.addr p.bytes p.ecc
    if r.2 || r.1.eccHit p.addr p.bytes then
      (r.1.errLog (dataRecord s Rsn.ecc p.master p.addr p.bytes false p.qos p.id), none_, true)
    else (r.1, p.data, false)

/-- The parts of a burst whose every part is granted, carried to their ends: the state, the data, whether one failed. -/
def State.partsEnd (s : State) : List PendReq → State × List Byte × Bool
  | [] => (s, [], false)
  | p :: ps =>
    let r := s.partEnd p
    let t := r.1.partsEnd ps
    (t.1, r.2.1 ++ t.2.1, r.2.2 || t.2.2)

/-- Every part of the oldest burst of master `m` under an ID granted whose port grants it now. -/
def State.grantBurst (s : State) (m id : Nat) : State :=
  (s.burstOf m id).foldl (fun s p => if s.wins p then s.grantReq p p.beats else s) s

/-- The oldest burst outstanding of master `m` under an ID completes, if each of its parts holds its port or is the next that its port
grants; a late response of a retired one is absorbed first (R408, R411, R419). -/
def State.requestFinish (s : State) (m : Master) (id : Fin 64) : State :=
  if s.bus.retired.contains (m.val, id.val) then
    { s with bus := { s.bus with retired := s.bus.retired.erase (m.val, id.val) } }
  else
    let s := s.grantBurst m.val id.val
    let ps := s.burstOf m.val id.val
    if ps.isEmpty || ps.any (fun p => !p.granted) then s
    else
      let t := ({ s with bus := { s.bus with inflight := s.bus.inflight.filter (fun p => !ps.contains p) } } : State).partsEnd ps
      (((List.range 8).foldl (fun s k => s.stallTick k) t.1).repayAll).respond t.2.2 t.2.1

/-! ### The private load port (R405) -/

/-- An access of the JTAG debug port to the local memory of engine `n`, while its DEBUG_EN is 1 (R405). -/
def State.loadPort (s : State) (n : Nat) (r : BusReq) : State :=
  if s.gb (Reg.ENG.CTRL.DEBUG_EN n) then
    if r.write then (s.engLoad n r.addr.toNat (padBytes r.bytes r.data)).respond false []
    else s.respond false (cellsRead s.engMem (engKey n r.addr.toNat) (min r.bytes (engMemSize n - r.addr.toNat)))
  else s

/-- A request of a master.
(DEDUCED, log entry 12) (DESIGN CHOICE, log entry 13) -/
def busRequest (r : BusReq) (s : State) : State :=
  if !s.coreOn then s
  else match r.engine, r.phase with
    | some n, _ => if r.master.val = 2 then s.loadPort n.val r else s
    | none, .finish => if inRegs r.addr.toNat then s.ctlFinish r.master.val else s.requestFinish r.master r.id
    | none, _ =>
      if s.draining r.master.val || r.bytes == 0 then s
      else if inRegs r.addr.toNat then
        if r.phase = .whole ∧ s.ctlWaits r.master.val = false then s.controlAccess r
        else if s.accepts r.master.val then s.ctlQueue { r with phase := .whole }
        else s
      else match r.phase with
        | .wait => s.requestHeld r false 0
        | .start sent => s.requestHeld r true sent.val
        | _ => if s.mustWait r then s.requestHeld r false 0 else s.dataAccess r

/-! ### Aging (R411) -/

/-- A request that has waited more than 20 µs competes as QoS 8 to 11.
(DESIGN CHOICE, log entry 87) -/
def qosAging (m : Master) (id : Fin 64) (s : State) : State :=
  let old := fun (p : PendReq) => p.master == m.val && p.id == id.val && !p.granted && !p.aged && decide (p.qos < 8) &&
    decide (p.since + 20000 < s.clock)
  match s.bus.inflight.find? old with
  | none => s
  | some p =>
    if s.coreOn then
      { s with bus := { s.bus with
        inflight := s.bus.inflight.map (fun (x : PendReq) => if x = p then { x with aged := true } else x) } }.inc
          (Reg.MTX.TARGET.AGED p.target)
    else s

/-! ### The commands -/

/-- BUS_REQUEST (R416): the request and how far it goes within the command. -/
def execBusRequest (dt : Nat) (r : BusReq) (s : State) : Out State := .next (busRequest r (s.advance dt))

/-- QOS_AGING (R411): of the oldest request of that master and ID which waits at its port. -/
def execQosAging (dt : Nat) (m : Master) (id : Fin 64) (s : State) : Out State := .next (qosAging m id (s.advance dt))

/-- DRAIN_END (R419): of that master's port. -/
def execDrainEnd (dt : Nat) (m : Master) (s : State) : Out State :=
  let s := s.advance dt
  .next (if s.coreOn then drainEnd m.val s else s)

end Sys2Proof.Machine
end

