-- ==== Sys2Proof/Machine/HostPort.lean ====
section
/-! DEFINITION. The host's ports: host SPI, I2C, and the management protocol (R453, R455, R457 to R460). -/

namespace Sys2Proof.Machine

/-! ### Accesses as master 3 -/

/-- Whether a write of a management message at `a` reaches a field of mailbox slot 0, which host SPI frames alone write (R461, R463). -/
def slotOfSpi (a : Nat) : Bool := inRange 0x10091000 0x10091400 a && (regFields a).isSome

/-- One word written, or read, at `a` by the host, by host SPI or by a management message: a frame ends with its accesses made, however
long they waited at their port.
(DESIGN CHOICE, log entry 13) -/
def State.hostWord (s : State) (spi write : Bool) (a : Nat) (v : List Byte) : State :=
  let r : BusReq := {
    master := 3, write := write, addr := BitVec.ofNat 36 a, bytes := 4, data := v, strobes := [], id := 0, qos := 0
    ecc := .clean, phase := .whole, escal := false, engine := none }
  if write && !spi && slotOfSpi a then
    (s.busFail (ctlRecord s Rsn.protect 3 a true true (BitVec.ofNat 32 (leNat v)))).respond true []
  else if inRegs a then s.controlAccess r
  else s.dataAccess r

/-- Whether the last access had an error response. -/
def State.respError (s : State) : Bool := s.bus.resp.any (fun (r : BusResp) => r.error)

/-- Words written from `a`, each `step` bytes after the one before, up to the first error: the state, and the index of the
word that failed. -/
def State.hostWrites (s : State) (spi : Bool) (a step : Nat) : Nat → List (List Byte) → State × Option Nat
  | _, [] => (s, none)
  | i, w :: ws =>
    let t := s.hostWord spi true (a + step * i) w
    if t.respError then (t, some i) else t.hostWrites spi a step (i + 1) ws

/-- `n` words read from `a` likewise: the state, the bytes, and the index of the word that failed. -/
def State.hostReads (s : State) (a step i : Nat) : Nat → State × List Byte × Option Nat
  | 0 => (s, [], none)
  | n + 1 =>
    let t := s.hostWord true false (a + step * i) []
    if t.respError then (t, [], some i)
    else
      let data := (t.bus.resp.map (fun (r : BusResp) => r.data)).getD []
      let u := t.hostReads a step (i + 1) n
      (u.1, data ++ u.2.1, u.2.2)

/-- A byte string cut into words of 4 bytes. -/
def wordsOf : Nat → List Byte → List (List Byte)
  | 0, _ => []
  | fuel + 1, bs => if bs.isEmpty then [] else bs.take 4 :: wordsOf fuel (bs.drop 4)

/-! ### Host SPI (R457, R458) -/

/-- Whether the host ports are served: not in TEST (R443).
(DEDUCED, log entry 84) -/
def State.hostServed (s : State) : Bool := s.coreOn && s.g Reg.BOOT.STATUS.STATE != 4

/-- The fall of CS wakes the device from a low-power state, or while it is entered (R484). -/
def State.spiSelect (s : State) : State :=
  if s.pwr.mode = .entering ∨ s.pwr.mode = .standby ∨ s.pwr.mode = .dormant then
    { s with pwr := { s.pwr with wakeHost := true } }
  else s

/-- The RESULT of a frame (R458). -/
def State.spiEnd (s : State) (result : Nat) (fail : Option Nat) (out : List Byte) : State :=
  let s := s.p Reg.HOST.ID.SPI_RESULT result
  let s : State := { s with host := { s.host with spiOut := out, spiFail := fail.getD s.host.spiFail } }
  if result = 0 then s else (s.incOpen Reg.HOST.ERRORS.SPI_ERRORS).raise Ev.hostErr result

/-- The commands of R457. -/
def spiCmds : List Nat := [0x01, 0x31, 0x03, 0x33, 0x05]

/-- FIXED, COUNT and ADDR of a frame. -/
def spiStep (bs : List Byte) : Nat := if (bs.getD 1 0).toNat % 2 = 1 then 0 else 4
def spiCount (bs : List Byte) : Nat := (bs.getD 2 0).toNat + 1
def spiAddr (bs : List Byte) : Nat := leNat ((bs.drop 3).take 5) % 2 ^ 36

/-- What a frame of `n` bytes before its CRC is refused for; 0 where it may run.
(DEDUCED, log entry 84) -/
def spiCheck (bs : List Byte) (n : Nat) : Nat :=
  if 4 ≤ bs.length ∧ 64 < spiCount bs then 3
  else if bs.length ≠ n + 4 then 5
  else if crc32c (bs.take n) ≠ leNat (bs.drop n) then 1
  else 0

/-- A frame whose first byte is no command. -/
def State.spiUnknown (s : State) (bs : List Byte) : State :=
  if spiCmds.contains (bs.getD 0 0).toNat then s else s.spiEnd 3 none []

/-- A WRITE frame: the bytes that the host has sent up to the rise of CS. -/
def spiWrite (bs : List Byte) (s : State) : State :=
  let s := s.spiSelect
  let cmd := (bs.getD 0 0).toNat
  if s.hostServed = false then s
  else if cmd ≠ 0x01 ∧ cmd ≠ 0x31 then s.spiUnknown bs
  else
    let n := 8 + 4 * spiCount bs
    let r := spiCheck bs n
    if r ≠ 0 then s.spiEnd r none []
    else
      let t := s.hostWrites true (spiAddr bs) (spiStep bs) 0 (wordsOf 64 ((bs.take n).drop 8))
      t.1.spiEnd (if t.2.isSome then 2 else 0) t.2 []

/-- What a READ returns: RESULT, the data, their CRC. -/
def spiReply (result : Nat) (data : List Byte) : List Byte :=
  let bs := leBytes result 1 ++ data
  leBytes 0xA5 1 ++ bs ++ leBytes (crc32c bs) 4

/-- A READ frame, and how it ends: read whole, late where its data are not ready after 256 wait bytes, or cut where CS rises inside the
response; its reads are made in each case. A STATUS frame that CS cuts has read nothing.
(DEDUCED, log entry 84) (DESIGN CHOICE, log entry 98) -/
def spiRead (bs : List Byte) (ending : SpiEnding) (s : State) : State :=
  let s := s.spiSelect
  let cmd := (bs.getD 0 0).toNat
  if s.hostServed && cmd == 0x05 && decide (ending = .cut) then s.spiEnd 5 none []
  else if s.hostServed = false ∨ (cmd ≠ 0x03 ∧ cmd ≠ 0x33) then s
  else
    let r := spiCheck bs 8
    if r ≠ 0 then s.spiEnd r none (spiReply r [])
    else
      let t := s.hostReads (spiAddr bs) (spiStep bs) 0 (spiCount bs)
      if ending = .cut then t.1.spiEnd 5 none []
      else if ending = .late then t.1.spiEnd 4 none (spiReply 4 [])
      else if t.2.2.isSome then t.1.spiEnd 2 t.2.2 (spiReply 2 [])
      else t.1.spiEnd 0 none (spiReply 0 t.2.1)

/-- A STATUS frame. -/
def spiStatus (s : State) : State :=
  let s := s.spiSelect
  if s.hostServed = false then s
  else
    let bs := leBytes (s.g Reg.HOST.ID.SPI_RESULT) 1 ++ leBytes s.host.spiFail 1 ++ leBytes (s.g Reg.BOOT.STATUS.STAT) 1 ++
      leBytes (s.g (Reg.HOST.SLOT.STATE 0)) 1 ++ leBytes (s.view 0x10080000).toNat 4
    { s with host := { s.host with spiOut := leBytes 0xA5 1 ++ bs ++ leBytes (crc32c bs) 4 } }

/-! ### I2C (R459) -/

/-- The 32-byte status block.
(DEDUCED, log entry 84) -/
def State.statusBlock (s : State) : List Byte :=
  let hot : Int := signed 16 (s.g Reg.PWR.THERM_STATUS.MAX_Q) / 4
  leBytes (s.view 0x10080000).toNat 4 ++ leBytes (s.view 0x10070004).toNat 4 ++ leBytes s.healthWord 4 ++
    leBytes (s.g Reg.SEQ.LIVE_GEN.GENERATION) 4 ++ leBytes (s.g Reg.BOOT.GEN) 4 ++ leBytes s.timeState 1 ++
    leBytes (s.g Reg.BOOT.STATUS.STAT) 1 ++ leBytes (unsigned 8 hot) 1 ++ leBytes 0 9

/-- Whether the I2C target answers at an address. -/
def State.i2cServed (s : State) (addr : Nat) : Bool := s.hostServed && addr == 0x30 + s.g Reg.SYS.STRAPS.UNIT_ID

/-- An I2C write: its first data byte is the pointer. -/
def i2cPoint (addr : Nat) (bs : List Byte) (s : State) : State :=
  match bs with
  | [] => s
  | b :: _ => if s.i2cServed addr then { s with host := { s.host with i2cPtr := b.toNat % 32 } } else s

/-- An I2C read of `n` bytes.
(DEDUCED, log entry 84) -/
def i2cRead (addr n : Nat) (s : State) : State :=
  if s.i2cServed addr then
    let block := s.statusBlock
    let out := (List.range n).map (fun i => block.getD ((s.host.i2cPtr + i) % 32) 0)
    { s with host := { s.host with i2cOut := out, i2cPtr := (s.host.i2cPtr + n) % 32 } }
  else s

/-! ### The management protocol (R460) -/

/-- The fields of a message. -/
def mgmtType (bs : List Byte) : Nat := (bs.getD 3 0).toNat
def mgmtSeq (bs : List Byte) : Nat := leNat ((bs.drop 4).take 4)
def mgmtPayload (bs : List Byte) : List Byte := (bs.drop 12).take (leNat ((bs.drop 8).take 2))

/-- Whether a message is well formed and for this unit.
(PRESUMED, log entry 85) -/
def State.mgmtForUs (s : State) (bs : List Byte) : Bool :=
  decide (bs.length = 28 + leNat ((bs.drop 8).take 2)) && leNat (bs.take 2) == 0x4E4D && (bs.getD 2 0).toNat == 1 &&
    ((bs.getD 10 0).toNat == 0xFF || (bs.getD 10 0).toNat == s.g Reg.SYS.STRAPS.UNIT_ID)

/-- Whether the protocol is served: by the HOST block with the management port on, by the recovery responder, and while an
image comes over it. -/
def State.mgmtOn (s : State) : Bool :=
  s.hostServed && (s.recovery || s.imageTakes 2 || (s.gb Reg.HOST.CTRL.MGMT_EN && s.gb Reg.MGMT.CTRL.ENABLE))

/-- A response of RESULT alone, to a message that is not executed. -/
def State.mgmtRefuse (s : State) (bs : List Byte) (result : Nat) : State := s.mgmtSend (bs.take 12) (leBytes result 1)

/-- A response to a message that is executed.
(PRESUMED, log entry 85) -/
def State.mgmtOk (s : State) (bs : List Byte) (result : Nat) (data : List Byte) : State :=
  s.mgmtReply (bs.take 12) (leBytes result 1 ++ data)

/-- A message of type `type` other than STATUS: checked, and carried out by `act` (R460). An image that comes over the
protocol brings the key itself, so that its messages have no MAC to be checked by. -/
def mgmtRun (type : Nat) (bs : List Byte) (act : State → State) (s : State) : State :=
  if s.mgmtOn = false ∨ s.mgmtForUs bs = false ∨ mgmtType bs ≠ type then s
  else if s.recovery then act s
  else if s.imageTakes 2 = false ∧ s.hostMac (bs.take (bs.length - 16)) ≠ some (bs.drop (bs.length - 16)) then
    (s.authFail 3).mgmtRefuse bs 1
  else if mgmtSeq bs = s.g Reg.HOST.MGMT_SEQ then
    if s.host.mgmtDue.any (fun head => leNat ((head.drop 4).take 4) == mgmtSeq bs) then s.mgmtRefuse bs 5
    else { s with host := { s.host with mgmtOut := s.host.mgmtLast } }
  else if mgmtSeq bs < s.g Reg.HOST.MGMT_SEQ then s.mgmtRefuse bs 2
  else act (s.p Reg.HOST.MGMT_SEQ (mgmtSeq bs))

/-- STATUS; and a message of no known type, which is answered BAD_TYPE.
(PRESUMED, log entry 85) -/
def mgmtStatus (bs : List Byte) (s : State) : State :=
  if s.mgmtOn = false ∨ s.mgmtForUs bs = false then s
  else if mgmtType bs = 1 then s.mgmtSend (bs.take 12) (leBytes 0 1 ++ s.statusBlock)
  else if mgmtType bs = 0 ∨ 5 < mgmtType bs then mgmtRun (mgmtType bs) bs (fun s => s.mgmtOk bs 4 []) s
  else s

/-- READ. -/
def mgmtRead (bs : List Byte) (s : State) : State :=
  let pay := mgmtPayload bs
  let n := leNat ((pay.drop 8).take 2)
  if s.recovery || s.imageTakes 2 then s.mgmtOk bs 6 []
  else if pay.length ≠ 10 ∨ n = 0 ∨ 256 < n then s.mgmtOk bs 7 []
  else
    let t := s.hostReads (leNat (pay.take 8) % 2 ^ 36) 4 0 n
    if t.2.2.isSome then t.1.mgmtOk bs 3 [] else t.1.mgmtOk bs 0 t.2.1

/-- WRITE; in recovery to the shared store alone. -/
def mgmtWrite (bs : List Byte) (s : State) : State :=
  let pay := mgmtPayload bs
  let a := leNat (pay.take 8) % 2 ^ 36
  if s.imageTakes 2 || (s.recovery && !inShared a (pay.length - 8)) then s.mgmtOk bs 6 []
  else if pay.length < 12 ∨ pay.length % 4 ≠ 0 then s.mgmtOk bs 7 []
  else
    let t := s.hostWrites false a 4 0 (wordsOf pay.length (pay.drop 8))
    t.1.mgmtOk bs (if t.2.isSome then 3 else 0) []

/-- MAILBOX: the request into slot 1. -/
def mgmtMailbox (bs : List Byte) (s : State) : State :=
  let pay := mgmtPayload bs
  let n := pay.length / 4
  if s.imageTakes 2 then s.mgmtOk bs 6 []
  else if pay.length % 4 ≠ 0 ∨ n = 0 ∨ 64 < n then s.mgmtOk bs 7 []
  else if s.g (Reg.HOST.SLOT.STATE 1) ≠ 0 then s.mgmtOk bs 5 []
  else
    let s := (List.range n).foldl (fun s w => s.p (Reg.HOST.SLOT.REQ 1 w) (leNat ((pay.drop (4 * w)).take 4))) s
    { s with host := { s.host with mgmtDue := some (bs.take 12) } }.mbPosted 1

/-- IMAGE_DATA: the bytes that come next of an image.
(PRESUMED, log entry 85) -/
def mgmtImage (bs : List Byte) (s : State) : State :=
  let pay := mgmtPayload bs
  if s.imageTakes 2 = false then s.mgmtOk bs 6 []
  else if pay.length < 4 ∨ leNat (pay.take 4) ≠ s.boot.image.length then s.mgmtOk bs 7 []
  else (s.imageAdd (pay.drop 4)).mgmtOk bs 0 []

/-! ### The commands -/

/-- HOST_SPI_WRITE (R458): the bytes of a frame that is no READ or STATUS. -/
def execHostSpiWrite (dt : Nat) (bs : List Byte) (s : State) : Out State := .next (spiWrite bs (s.advance dt))

/-- HOST_SPI_READ (R458): the bytes of a READ frame, or of a STATUS frame that is cut, and how it ends. -/
def execHostSpiRead (dt : Nat) (bs : List Byte) (ending : SpiEnding) (s : State) : Out State :=
  .next (spiRead bs ending (s.advance dt))

/-- HOST_SPI_STATUS (R457). -/
def execHostSpiStatus (dt : Nat) (s : State) : Out State := .next (spiStatus (s.advance dt))

/-- I2C_POINTER_WRITE (R459): the address and the data bytes. -/
def execI2cPointerWrite (dt : Nat) (addr : BitVec 7) (bs : List Byte) (s : State) : Out State :=
  .next (i2cPoint addr.toNat bs (s.advance dt))

/-- I2C_READ (R459): the address and the number of bytes read. -/
def execI2cRead (dt : Nat) (addr : BitVec 7) (n : Nat) (s : State) : Out State :=
  .next (i2cRead addr.toNat n (s.advance dt))

/-- MGMT_STATUS (R460): the bytes of a message that has come to the protocol's UDP port. -/
def execMgmtStatus (dt : Nat) (bs : List Byte) (s : State) : Out State := .next (mgmtStatus bs (s.advance dt))

/-- MGMT_READ (R460): the bytes of the message. -/
def execMgmtRead (dt : Nat) (bs : List Byte) (s : State) : Out State :=
  .next (mgmtRun 2 bs (mgmtRead bs) (s.advance dt))

/-- MGMT_WRITE (R460): the bytes of the message. -/
def execMgmtWrite (dt : Nat) (bs : List Byte) (s : State) : Out State :=
  .next (mgmtRun 3 bs (mgmtWrite bs) (s.advance dt))

/-- MGMT_MAILBOX (R460): the bytes of the message. -/
def execMgmtMailbox (dt : Nat) (bs : List Byte) (s : State) : Out State :=
  .next (mgmtRun 4 bs (mgmtMailbox bs) (s.advance dt))

/-- MGMT_IMAGE_DATA (R453): the bytes of the message. -/
def execMgmtImageData (dt : Nat) (bs : List Byte) (s : State) : Out State :=
  .next (mgmtRun 5 bs (mgmtImage bs) (s.advance dt))

end Sys2Proof.Machine
end

