-- ==== Sys2Proof/Machine/Dispatch.lean ====
section
/-! DEFINITION. The command each constructor of Instr names, dispatched to its meaning. -/

namespace Sys2Proof.Machine

def exec (i : Instr) (s : State) : Host.Outcome State Fault Refusal :=
  match i with
  | .registerWrite dt m a v => Sys2Proof.Machine.execRegisterWrite dt m a v s
  | .snapshotRead dt m a => Sys2Proof.Machine.execSnapshotRead dt m a s
  | .busRequest dt r => Sys2Proof.Machine.execBusRequest dt r s
  | .qosAging dt m id => Sys2Proof.Machine.execQosAging dt m id s
  | .errRecordRead dt m => Sys2Proof.Machine.execErrRecordRead dt m s
  | .drainEnd dt m => Sys2Proof.Machine.execDrainEnd dt m s
  | .engineEnable dt m n => Sys2Proof.Machine.execEngineEnable dt m n s
  | .engineDisable dt m n => Sys2Proof.Machine.execEngineDisable dt m n s
  | .engineHalt dt m n => Sys2Proof.Machine.execEngineHalt dt m n s
  | .engineResume dt m n => Sys2Proof.Machine.execEngineResume dt m n s
  | .engineStall dt n => Sys2Proof.Machine.execEngineStall dt n s
  | .engineFault dt n cause => Sys2Proof.Machine.execEngineFault dt n cause s
  | .lockstepMismatch dt => Sys2Proof.Machine.execLockstepMismatch dt s
  | .validateStart dt m => Sys2Proof.Machine.execValidateStart dt m s
  | .validationDone dt => Sys2Proof.Machine.execValidationDone dt s
  | .keystoneCommit dt m => Sys2Proof.Machine.execKeystoneCommit dt m s
  | .keystoneCancel dt m => Sys2Proof.Machine.execKeystoneCancel dt m s
  | .keystoneTimeReached dt => Sys2Proof.Machine.execKeystoneTimeReached dt s
  | .amendPost dt m v => Sys2Proof.Machine.execAmendPost dt m v s
  | .presetLoad dt m v => Sys2Proof.Machine.execPresetLoad dt m v s
  | .presetStrobe dt => Sys2Proof.Machine.execPresetStrobe dt s
  | .presetSelectSample dt => Sys2Proof.Machine.execPresetSelectSample dt s
  | .presetDeferredResume dt => Sys2Proof.Machine.execPresetDeferredResume dt s
  | .presetFlashReadDone dt ok => Sys2Proof.Machine.execPresetFlashReadDone dt ok s
  | .rateWrite dt m v => Sys2Proof.Machine.execRateWrite dt m v s
  | .timeKick dt m => Sys2Proof.Machine.execTimeKick dt m s
  | .timeStateRequest dt m target => Sys2Proof.Machine.execTimeStateRequest dt m target s
  | .kickTimeout dt => Sys2Proof.Machine.execKickTimeout dt s
  | .holdoverLimit dt => Sys2Proof.Machine.execHoldoverLimit dt s
  | .timeStep dt m v => Sys2Proof.Machine.execTimeStep dt m v s
  | .stampQueueRead dt m => Sys2Proof.Machine.execStampQueueRead dt m s
  | .txqRead dt m p => Sys2Proof.Machine.execTxqRead dt m p s
  | .ppsInputEdge dt rising => Sys2Proof.Machine.execPpsInputEdge dt rising s
  | .ppsOutputEdge dt => Sys2Proof.Machine.execPpsOutputEdge dt s
  | .netModeWrite dt m q mode => Sys2Proof.Machine.execNetModeWrite dt m q mode s
  | .netLinkChange dt p up hiBer => Sys2Proof.Machine.execNetLinkChange dt p up hiBer s
  | .netFrameReceive dt p taken bs fcsOk => Sys2Proof.Machine.execNetFrameReceive dt p taken bs fcsOk s
  | .netFrameTransmit dt p bs d => Sys2Proof.Machine.execNetFrameTransmit dt p bs d s
  | .mediaPacket dt e => Sys2Proof.Machine.execMediaPacket dt e s
  | .sourceLostTimeout dt idx => Sys2Proof.Machine.execSourceLostTimeout dt idx s
  | .pathLivenessExpire dt idx pathB => Sys2Proof.Machine.execPathLivenessExpire dt idx pathB s
  | .rtcpSenderReport dt e => Sys2Proof.Machine.execRtcpSenderReport dt e s
  | .srTimeout dt idx => Sys2Proof.Machine.execSrTimeout dt idx s
  | .sourceEnable dt m idx => Sys2Proof.Machine.execSourceEnable dt m idx s
  | .sourceDisable dt m idx => Sys2Proof.Machine.execSourceDisable dt m idx s
  | .hostReady dt m b => Sys2Proof.Machine.execHostReady dt m b s
  | .hostReadyClose dt b => Sys2Proof.Machine.execHostReadyClose dt b s
  | .mdioTransaction dt m v => Sys2Proof.Machine.execMdioTransaction dt m v s
  | .mdioDone dt data => Sys2Proof.Machine.execMdioDone dt data s
  | .decodeDispatch dt n au => Sys2Proof.Machine.execDecodeDispatch dt n au s
  | .decodePreempt dt n t => Sys2Proof.Machine.execDecodePreempt dt n t s
  | .decodeJobDone dt n e => Sys2Proof.Machine.execDecodeJobDone dt n e s
  | .decodeWatchdog dt n e => Sys2Proof.Machine.execDecodeWatchdog dt n e s
  | .decodeAccessFault dt n f a e => Sys2Proof.Machine.execDecodeAccessFault dt n f a e s
  | .decPipeEnable dt m n => Sys2Proof.Machine.execDecPipeEnable dt m n s
  | .decPipeDisable dt m n => Sys2Proof.Machine.execDecPipeDisable dt m n s
  | .decFaultRead dt m => Sys2Proof.Machine.execDecFaultRead dt m s
  | .decPeakClear dt m => Sys2Proof.Machine.execDecPeakClear dt m s
  | .captureFrameStart dt p x => Sys2Proof.Machine.execCaptureFrameStart dt p x s
  | .captureRow dt p x ys cs => Sys2Proof.Machine.execCaptureRow dt p x ys cs s
  | .ispRowProcess dt j => Sys2Proof.Machine.execIspRowProcess dt j s
  | .captureFrameTimeout dt p => Sys2Proof.Machine.execCaptureFrameTimeout dt p s
  | .captureFrameClose dt p => Sys2Proof.Machine.execCaptureFrameClose dt p s
  | .captureBusError dt p write => Sys2Proof.Machine.execCaptureBusError dt p write s
  | .captureSourceLost dt idx => Sys2Proof.Machine.execCaptureSourceLost dt idx s
  | .ispContextEnable dt m j c => Sys2Proof.Machine.execIspContextEnable dt m j c s
  | .ispContextDisable dt m j c => Sys2Proof.Machine.execIspContextDisable dt m j c s
  | .ispApply dt m j c => Sys2Proof.Machine.execIspApply dt m j c s
  | .capStorePeakClear dt m p => Sys2Proof.Machine.execCapStorePeakClear dt m p s
  | .latchPoint dt n => Sys2Proof.Machine.execLatchPoint dt n s
  | .prefetchStart dt n => Sys2Proof.Machine.execPrefetchStart dt n s
  | .composeLine dt n seen => Sys2Proof.Machine.execComposeLine dt n seen s
  | .underrun dt n x => Sys2Proof.Machine.execUnderrun dt n x s
  | .bufferRelease dt m b => Sys2Proof.Machine.execBufferRelease dt m b s
  | .releaseCompletion dt => Sys2Proof.Machine.execReleaseCompletion dt s
  | .otabAccess dt m n w => Sys2Proof.Machine.execOtabAccess dt m n w s
  | .headEnable dt m n => Sys2Proof.Machine.execHeadEnable dt m n s
  | .headStart dt n => Sys2Proof.Machine.execHeadStart dt n s
  | .headDisable dt m n => Sys2Proof.Machine.execHeadDisable dt m n s
  | .headSleep dt m n => Sys2Proof.Machine.execHeadSleep dt m n s
  | .headWake dt m n => Sys2Proof.Machine.execHeadWake dt m n s
  | .headPairWrite dt m n on => Sys2Proof.Machine.execHeadPairWrite dt m n on s
  | .headCommit dt m n => Sys2Proof.Machine.execHeadCommit dt m n s
  | .genlockMeasure dt n => Sys2Proof.Machine.execGenlockMeasure dt n s
  | .fifoMinClear dt m n => Sys2Proof.Machine.execFifoMinClear dt m n s
  | .labelScaleWrite dt m sc => Sys2Proof.Machine.execLabelScaleWrite dt m sc s
  | .dptxEnable dt m n v => Sys2Proof.Machine.execDptxEnable dt m n v s
  | .dptxDisable dt m n => Sys2Proof.Machine.execDptxDisable dt m n s
  | .dptxTrainRequest dt m n => Sys2Proof.Machine.execDptxTrainRequest dt m n s
  | .dpTrainingCycle dt n => Sys2Proof.Machine.execDpTrainingCycle dt n s
  | .dpTrainingEnd dt n caps first second later => Sys2Proof.Machine.execDpTrainingEnd dt n caps first second later s
  | .dpHpdPlug dt n => Sys2Proof.Machine.execDpHpdPlug dt n s
  | .dpHpdUnplug dt n => Sys2Proof.Machine.execDpHpdUnplug dt n s
  | .dpIrqHpd dt n bs => Sys2Proof.Machine.execDpIrqHpd dt n bs s
  | .dpAutoRetrain dt n => Sys2Proof.Machine.execDpAutoRetrain dt n s
  | .auxTransaction dt m n v => Sys2Proof.Machine.execAuxTransaction dt m n v s
  | .auxDeferRetry dt n => Sys2Proof.Machine.execAuxDeferRetry dt n s
  | .auxReplyTimeout dt n => Sys2Proof.Machine.execAuxReplyTimeout dt n s
  | .auxDone dt n r => Sys2Proof.Machine.execAuxDone dt n r s
  | .tzlEnable dt m q v => Sys2Proof.Machine.execTzlEnable dt m q v s
  | .tzlDisable dt m q => Sys2Proof.Machine.execTzlDisable dt m q s
  | .tzlTrain dt m q => Sys2Proof.Machine.execTzlTrain dt m q s
  | .tzlOrderedSet dt q o => Sys2Proof.Machine.execTzlOrderedSet dt q o s
  | .tzlTrainingTimeout dt q => Sys2Proof.Machine.execTzlTrainingTimeout dt q s
  | .tzlTrainingRetry dt q => Sys2Proof.Machine.execTzlTrainingRetry dt q s
  | .tzlLinePacket dt q y => Sys2Proof.Machine.execTzlLinePacket dt q y s
  | .ctrlSend dt m q => Sys2Proof.Machine.execCtrlSend dt m q s
  | .tzlStatusPacket dt q bs => Sys2Proof.Machine.execTzlStatusPacket dt q bs s
  | .tzlLoopTrailer dt q bs => Sys2Proof.Machine.execTzlLoopTrailer dt q bs s
  | .tzlLoopSeenExpire dt q => Sys2Proof.Machine.execTzlLoopSeenExpire dt q s
  | .tzlSprReceive dt q lane cut => Sys2Proof.Machine.execTzlSprReceive dt q lane cut s
  | .encodeTrigger dt idx => Sys2Proof.Machine.execEncodeTrigger dt idx s
  | .encodeDispatch dt n => Sys2Proof.Machine.execEncodeDispatch dt n s
  | .encodePreempt dt n => Sys2Proof.Machine.execEncodePreempt dt n s
  | .encodeJobDone dt n units blocks rows recon => Sys2Proof.Machine.execEncodeJobDone dt n units blocks rows recon s
  | .encodeWatchdog dt n => Sys2Proof.Machine.execEncodeWatchdog dt n s
  | .encodeAccessFault dt n f a => Sys2Proof.Machine.execEncodeAccessFault dt n f a s
  | .encSenderReport dt idx => Sys2Proof.Machine.execEncSenderReport dt idx s
  | .encodeStreamEnable dt m idx => Sys2Proof.Machine.execEncodeStreamEnable dt m idx s
  | .encodeStreamDisable dt m idx => Sys2Proof.Machine.execEncodeStreamDisable dt m idx s
  | .forceIdr dt m idx => Sys2Proof.Machine.execForceIdr dt m idx s
  | .encPipeEnable dt m n on => Sys2Proof.Machine.execEncPipeEnable dt m n on s
  | .encFaultRead dt m => Sys2Proof.Machine.execEncFaultRead dt m s
  | .touchEnable dt m => Sys2Proof.Machine.execTouchEnable dt m s
  | .touchDisable dt m => Sys2Proof.Machine.execTouchDisable dt m s
  | .touchFrameStart dt p => Sys2Proof.Machine.execTouchFrameStart dt p s
  | .touchFrameEnd dt p steps listens => Sys2Proof.Machine.execTouchFrameEnd dt p steps listens s
  | .baselineFormed dt p => Sys2Proof.Machine.execBaselineFormed dt p s
  | .baselineDrift dt p => Sys2Proof.Machine.execBaselineDrift dt p s
  | .antiTouchConfirm dt p => Sys2Proof.Machine.execAntiTouchConfirm dt p s
  | .touchObjectTimeout dt p => Sys2Proof.Machine.execTouchObjectTimeout dt p s
  | .touchSelftest dt m => Sys2Proof.Machine.execTouchSelftest dt m s
  | .touchSelftestDone dt found => Sys2Proof.Machine.execTouchSelftestDone dt found s
  | .standbyTouchScan dt p counts => Sys2Proof.Machine.execStandbyTouchScan dt p counts s
  | .grantRise dt => Sys2Proof.Machine.execGrantRise dt s
  | .grantFall dt => Sys2Proof.Machine.execGrantFall dt s
  | .isolateSet dt m on => Sys2Proof.Machine.execIsolateSet dt m on s
  | .cusStatusFrame dt => Sys2Proof.Machine.execCusStatusFrame dt s
  | .keepalive dt bs => Sys2Proof.Machine.execKeepalive dt bs s
  | .isolate dt bs => Sys2Proof.Machine.execIsolate dt bs s
  | .custodianReset dt bs kept => Sys2Proof.Machine.execCustodianReset dt bs kept s
  | .cusLinkTimeout dt => Sys2Proof.Machine.execCusLinkTimeout dt s
  | .aliveKick dt m => Sys2Proof.Machine.execAliveKick dt m s
  | .aliveTimeout dt => Sys2Proof.Machine.execAliveTimeout dt s
  | .roleRequest dt m ready => Sys2Proof.Machine.execRoleRequest dt m ready s
  | .syncGraceExpire dt => Sys2Proof.Machine.execSyncGraceExpire dt s
  | .peerOkChange dt level => Sys2Proof.Machine.execPeerOkChange dt level s
  | .takeDelayExpire dt => Sys2Proof.Machine.execTakeDelayExpire dt s
  | .skewWindow dt bytes => Sys2Proof.Machine.execSkewWindow dt bytes s
  | .refreshDue dt ch urgent => Sys2Proof.Machine.execRefreshDue dt ch urgent s
  | .refreshRateRead dt ch code => Sys2Proof.Machine.execRefreshRateRead dt ch code s
  | .calSlotOpen dt n entry => Sys2Proof.Machine.execCalSlotOpen dt n entry s
  | .dramRetrainDone dt count => Sys2Proof.Machine.execDramRetrainDone dt count s
  | .driftWindow dt k => Sys2Proof.Machine.execDriftWindow dt k s
  | .driftWindowEnd dt ch count => Sys2Proof.Machine.execDriftWindowEnd dt ch count s
  | .zqCalibrationStart dt k => Sys2Proof.Machine.execZqCalibrationStart dt k s
  | .trainPendingTimeout dt ch => Sys2Proof.Machine.execTrainPendingTimeout dt ch s
  | .fspRequest dt m target => Sys2Proof.Machine.execFspRequest dt m target s
  | .fspChangeStart dt => Sys2Proof.Machine.execFspChangeStart dt s
  | .fspChangeDone dt => Sys2Proof.Machine.execFspChangeDone dt s
  | .ecsScan dt ch total bank row count => Sys2Proof.Machine.execEcsScan dt ch total bank row count s
  | .pprCommand dt m ch entry => Sys2Proof.Machine.execPprCommand dt m ch entry s
  | .pprDone dt ok => Sys2Proof.Machine.execPprDone dt ok s
  | .laneLos dt q mask => Sys2Proof.Machine.execLaneLos dt q mask s
  | .laneLosClear dt q l => Sys2Proof.Machine.execLaneLosClear dt q l s
  | .laneLol dt q mask => Sys2Proof.Machine.execLaneLol dt q mask s
  | .laneLolClear dt q l => Sys2Proof.Machine.execLaneLolClear dt q l s
  | .quadPllFail dt q => Sys2Proof.Machine.execQuadPllFail dt q s
  | .laneAligned dt q l => Sys2Proof.Machine.execLaneAligned dt q l s
  | .laneAlignLoss dt q l => Sys2Proof.Machine.execLaneAlignLoss dt q l s
  | .blockLockAcquired dt q l => Sys2Proof.Machine.execBlockLockAcquired dt q l s
  | .blockLockLoss dt q l => Sys2Proof.Machine.execBlockLockLoss dt q l s
  | .adaptationConverged dt q l => Sys2Proof.Machine.execAdaptationConverged dt q l s
  | .adaptRestart dt m q l => Sys2Proof.Machine.execAdaptRestart dt m q l s
  | .laneTestEnable dt m q l => Sys2Proof.Machine.execLaneTestEnable dt m q l s
  | .loopbackSelect dt m q l path => Sys2Proof.Machine.execLoopbackSelect dt m q l path s
  | .prbsInject dt m q l => Sys2Proof.Machine.execPrbsInject dt m q l s
  | .prbsClear dt m q l => Sys2Proof.Machine.execPrbsClear dt m q l s
  | .prbsLock dt q l => Sys2Proof.Machine.execPrbsLock dt q l s
  | .prbsLockLoss dt q l => Sys2Proof.Machine.execPrbsLockLoss dt q l s
  | .bootLoaderRun dt sfdp => Sys2Proof.Machine.execBootLoaderRun dt sfdp s
  | .dramTrainingDone dt r ms => Sys2Proof.Machine.execDramTrainingDone dt r ms s
  | .flashCopyReadDone dt copy broke => Sys2Proof.Machine.execFlashCopyReadDone dt copy broke s
  | .regListPauseExpire dt => Sys2Proof.Machine.execRegListPauseExpire dt s
  | .imageDataWrite dt m v => Sys2Proof.Machine.execImageDataWrite dt m v s
  | .hostSpiWrite dt bs => Sys2Proof.Machine.execHostSpiWrite dt bs s
  | .hostSpiRead dt bs ending => Sys2Proof.Machine.execHostSpiRead dt bs ending s
  | .hostSpiStatus dt => Sys2Proof.Machine.execHostSpiStatus dt s
  | .i2cPointerWrite dt addr bs => Sys2Proof.Machine.execI2cPointerWrite dt addr bs s
  | .i2cRead dt addr n => Sys2Proof.Machine.execI2cRead dt addr n s
  | .mgmtStatus dt bs => Sys2Proof.Machine.execMgmtStatus dt bs s
  | .mgmtRead dt bs => Sys2Proof.Machine.execMgmtRead dt bs s
  | .mgmtWrite dt bs => Sys2Proof.Machine.execMgmtWrite dt bs s
  | .mgmtMailbox dt bs => Sys2Proof.Machine.execMgmtMailbox dt bs s
  | .mgmtImageData dt bs => Sys2Proof.Machine.execMgmtImageData dt bs s
  | .mailboxPost dt m k => Sys2Proof.Machine.execMailboxPost dt m k s
  | .mailboxTake dt m k => Sys2Proof.Machine.execMailboxTake dt m k s
  | .mailboxDone dt m k => Sys2Proof.Machine.execMailboxDone dt m k s
  | .mailboxAck dt m k => Sys2Proof.Machine.execMailboxAck dt m k s
  | .mailboxStatus dt k => Sys2Proof.Machine.execMailboxStatus dt k s
  | .loadPage dt k => Sys2Proof.Machine.execLoadPage dt k s
  | .validate dt k => Sys2Proof.Machine.execValidate dt k s
  | .keystone dt k => Sys2Proof.Machine.execKeystone dt k s
  | .amend dt k => Sys2Proof.Machine.execAmend dt k s
  | .preset dt k => Sys2Proof.Machine.execPreset dt k s
  | .setPlacard dt k => Sys2Proof.Machine.execSetPlacard dt k s
  | .vitrineWrite dt k => Sys2Proof.Machine.execVitrineWrite dt k s
  | .sourceBind dt k => Sys2Proof.Machine.execSourceBind dt k s
  | .release dt k => Sys2Proof.Machine.execRelease dt k s
  | .flashWrite dt k => Sys2Proof.Machine.execFlashWrite dt k s
  | .flashWriteDone dt result => Sys2Proof.Machine.execFlashWriteDone dt result s
  | .imageSelect dt k => Sys2Proof.Machine.execImageSelect dt k s
  | .mailboxReset dt k kept => Sys2Proof.Machine.execMailboxReset dt k kept s
  | .fuseProgram dt m => Sys2Proof.Machine.execFuseProgram dt m s
  | .powerOnReset dt x => Sys2Proof.Machine.execPowerOnReset dt x s
  | .pinReset dt low x => Sys2Proof.Machine.execPinReset dt low x s
  | .brownOutReset dt => Sys2Proof.Machine.execBrownOutReset dt s
  | .softwareFullReset dt m v kept => Sys2Proof.Machine.execSoftwareFullReset dt m v kept s
  | .domainReset dt m code e => Sys2Proof.Machine.execDomainReset dt m code e s
  | .aonSwitchToBackup dt => Sys2Proof.Machine.execAonSwitchToBackup dt s
  | .aonSwitchToMain dt => Sys2Proof.Machine.execAonSwitchToMain dt s
  | .pwrWarn dt r below => Sys2Proof.Machine.execPwrWarn dt r below s
  | .pwrRecover dt => Sys2Proof.Machine.execPwrRecover dt s
  | .thermalReading dt temps => Sys2Proof.Machine.execThermalReading dt temps s
  | .wdogKick dt m => Sys2Proof.Machine.execWdogKick dt m s
  | .wdogExpire dt kept => Sys2Proof.Machine.execWdogExpire dt kept s
  | .pllFail dt k => Sys2Proof.Machine.execPllFail dt k s
  | .xtalLoss dt running => Sys2Proof.Machine.execXtalLoss dt running s
  | .lowPowerEntry dt m target => Sys2Proof.Machine.execLowPowerEntry dt m target s
  | .lowPowerEntryDone dt => Sys2Proof.Machine.execLowPowerEntryDone dt s
  | .wake dt => Sys2Proof.Machine.execWake dt s
  | .eventStatusClear dt m c => Sys2Proof.Machine.execEventStatusClear dt m c s
  | .eventEnableWrite dt m w v => Sys2Proof.Machine.execEventEnableWrite dt m w v s
  | .eventLogEnable dt m on => Sys2Proof.Machine.execEventLogEnable dt m on s
  | .softwareEvent dt m v => Sys2Proof.Machine.execSoftwareEvent dt m v s
  | .gpioEdge dt n rising => Sys2Proof.Machine.execGpioEdge dt n rising s
  | .intPulseEnd dt p => Sys2Proof.Machine.execIntPulseEnd dt p s
  | .pllLocked dt k => Sys2Proof.Machine.execPllLocked dt k s
  | .pllIdleStop dt k => Sys2Proof.Machine.execPllIdleStop dt k s
  | .grantStaleClear dt => Sys2Proof.Machine.execGrantStaleClear dt s
  | .domainResetDone dt => Sys2Proof.Machine.execDomainResetDone dt s
  | .fuseProgramDone dt ok => Sys2Proof.Machine.execFuseProgramDone dt ok s
  | .prbsErrorDetected dt q l => Sys2Proof.Machine.execPrbsErrorDetected dt q l s

end Sys2Proof.Machine
end

