-- ==== Sys2Proof/Machine/Step.lean ====
section
/-! DEFINITION. One step of the block: the command at the front of the queue runs. -/

namespace Sys2Proof.Machine

/-- The command at the front of the queue takes effect on the state with the rest of the queue; with an empty queue the block
idles, since time passes only with a command.
(DESIGN CHOICE, log entry 1) (DESIGN CHOICE, log entry 5) (DESIGN CHOICE, log entry 39) -/
def step (s : State) : Host.Outcome State Fault Refusal :=
  match s.pending with
  | [] => .next s
  | c :: rest => exec c { s with pending := rest }

/-- The command that a word spells put at the front of the queue; no row of the opcode table has bits, so no word spells one
and the state stays.
(DESIGN CHOICE, log entry 5) -/
def State.withFetchWord (s : State) (nbits w : Nat) : State :=
  match Sys2Proof.decodeTableWord nbits w with
  | some c => { s with pending := c :: s.pending }
  | none => s

end Sys2Proof.Machine
end

