-- ==== Sys2Proof/Machine/Pins.lean ====
section
/-! DEFINITION. What stands on the pins at rest between two commands, as a function of the state (R288, R332, R346, R350,
R351, R367, R455, R473, R496, R509 to R511). -/

namespace Sys2Proof.Machine

/-- What a pin does, seen between two commands. `idle` is a pair at common mode, `driven` is a waveform or a transfer that the rule of the pin gives and the model takes whole, in one
command: the custody frames, a bus, a lane.
(DESIGN CHOICE, log entry 90) -/
inductive PinLevel where
  | low | high | highZ | idle | driven | read | ignored
deriving DecidableEq, Repr

/-- A driven logic level. -/
def pinLevel (b : Bool) : PinLevel := if b then .high else .low

/-- An output while the device is unpowered or in reset is high-impedance (R509); else it is as the supply state says.
(DESIGN CHOICE, log entry 90) -/
def State.outPin (s : State) (run standby dormant : PinLevel) : PinLevel :=
  match s.pwr.mode with
  | .unpowered => .highZ
  | .held => .highZ
  | .standby => standby
  | .dormant => dormant
  | _ => run

/-- CUS_ALIVE: from a rising edge on it toggles every 500 µs (R350, R351). -/
def State.pinCusAlive (s : State) : PinLevel :=
  s.outPin (match s.cus.aliveAt with
    | none => .low
    | some t => pinLevel ((s.clock - t) / 500000 % 2 == 0)) .low .highZ

/-- CUS_TXD: the frames of R354, or held high in compatibility mode (R350). -/
def State.pinCusTxd (s : State) : PinLevel :=
  let on := if s.compat then PinLevel.high else PinLevel.driven
  s.outPin on on .highZ

/-- CUS_RXD and CUS_GRANT: read in native mode (R350). -/
def State.pinCusIn (s : State) : PinLevel := if s.cusOn && !s.compat then .read else .ignored

/-- PEER_OK_OUT (R350, R367). -/
def State.pinPeerOkOut (s : State) : PinLevel :=
  s.outPin (pinLevel (s.compat && s.gb Reg.CUS.STATUS.PEER_OK_OUT)) .low .highZ

/-- PEER_OK_IN: read in compatibility mode (R350). -/
def State.pinPeerOkIn (s : State) : PinLevel := if s.cusOn && s.compat then .read else .ignored

/-- INT_N[p], open-drain (R496). -/
def State.pinInt (s : State) (p : Nat) : PinLevel := if s.intAsserted p then .low else .highZ

/-- STAT[i] (R455): in the low-power states the last code. -/
def State.pinStat (s : State) (i : Nat) : PinLevel :=
  let x := pinLevel (bitOf (s.g Reg.BOOT.STATUS.STAT) i)
  s.outPin x x x

/-- THERM_TRIP_N, open-drain (R473): low from a trip to the next power-on or brown-out reset. -/
def State.pinThermTrip (s : State) : PinLevel :=
  if s.pwr.mode ≠ .unpowered ∧ s.gb Reg.PWR.THERM_STATUS.TRIPPED = true then .low else .highZ

/-- PPS_OUT (R92). -/
def State.pinPpsOut (s : State) : PinLevel := s.outPin (pinLevel s.ppsLevel) .highZ .highZ

/-- FL_CS_N and FL_RESET_N (R509). -/
def State.pinFlashCs (s : State) : PinLevel := s.outPin .driven .high .high
def State.pinFlashReset (s : State) : PinLevel := s.outPin .high .high .high

/-- HSPI_IO: driven in a READ alone, which is within one command (R509). -/
def State.pinHspiIo (s : State) : PinLevel := s.outPin .read .highZ .highZ

/-- The RGMII outputs and MDC (R509). -/
def State.pinRgmii (s : State) : PinLevel :=
  s.outPin (if s.gb Reg.MGMT.CTRL.ENABLE then .driven else .highZ) .highZ .highZ

/-- MDIO: driven by a transaction alone (R509). -/
def State.pinMdio (s : State) : PinLevel := s.outPin (if s.gb Reg.MGMT.MDIO.GO then .driven else .highZ) .highZ .highZ

/-- GPIO[15:0]: inputs in every state (R508, R509). -/
def State.pinGpio (s : State) : PinLevel := if s.pwr.mode = .unpowered ∨ s.pwr.mode = .held then .ignored else .read

/-- The AUX pair of DPTX[n]: driven with the grant alone (R288). -/
def State.pinAux (s : State) (n : Nat) : PinLevel :=
  s.outPin (if s.granted && s.gb (Reg.DPTX.CTRL.ENABLE n) then .driven else .highZ) .highZ .highZ

/-- The touch drive lines: with the grant alone, in a frame or in the self-test, in STANDBY by the scanner (R332, R345, R346). -/
def State.pinTouchTx (s : State) : PinLevel :=
  let run := s.tchDrives || (s.granted && s.engRunning 22 && s.g Reg.TCH.STATUS.STATE == 4)
  s.outPin (if run then .driven else .highZ) (if s.tch.scan then .driven else .highZ) .highZ

/-- Whether a test lane's transmitter is idle: without the generator, unless the lane sends back what it receives, and in a near-end
loopback with LB_TX_IDLE (R438, R441). -/
def State.testIdle (s : State) (q l : Nat) : Bool :=
  let lb := s.g (Reg.LANE.LOOPBACK q l)
  s.g (Reg.LANE.OWNER q l) == 5 && lb != 3 &&
    (!s.gb (Reg.LANE.PRBS.GEN_EN q l) || ((lb == 1 || lb == 2) && s.gb (Reg.LANE.LB_TX_IDLE q l)))

/-- The transmitter of lane `l` of quad `q`: high-impedance in P2, without power and in reset (R511); in electrical idle in P1, until
the quad's PLL locks, and as test leaves it (R424, R425). -/
def State.pinLaneTx (s : State) (q l : Nat) : PinLevel :=
  s.outPin (match s.g (Reg.LANE.PSTATE q l) with
    | 2 => .highZ
    | 0 => if s.gb (Reg.QUAD.PLL_LOCK q) && !s.testIdle q l then .driven else .idle
    | _ => .idle) .highZ .highZ

/-- Bit `i` of those that a lane's receiver hands on, of bits `pins` at its pins: a near-end loopback returns its own generator's, and
RX_INVERT swaps them (R429, R441). -/
def State.rxBit (s : State) (q l : Nat) (pins : Nat → Bool) (i : Nat) : Bool :=
  let lb := s.g (Reg.LANE.LOOPBACK q l)
  (if lb = 1 ∨ lb = 2 then s.genBit q l i != s.gb (Reg.LANE.TX_INVERT q l) else pins i) != s.gb (Reg.LANE.RX_INVERT q l)

/-- Bit `i` of those that a lane's transmitter sends: its owner's, `data`, or in test the generator's, or in FAR the received data, of
bits `pins`; TX_INVERT swaps them (R429, R438, R441). -/
def State.txBit (s : State) (q l : Nat) (data pins : Nat → Bool) (i : Nat) : Bool :=
  (if s.g (Reg.LANE.OWNER q l) ≠ 5 then data i
    else if s.g (Reg.LANE.LOOPBACK q l) = 3 then s.rxBit q l pins i
    else s.genBit q l i) != s.gb (Reg.LANE.TX_INVERT q l)

/-- The output of the three-tap filter in mV for a bit between its neighbours, each of ±1/2 (R427). -/
def firMv (pre main post : Nat) (last now next : Bool) : Rat :=
  let b := fun (x : Bool) => if x then (1 : Rat) / 2 else -1 / 2
  ((main : Rat) * b now - (pre : Rat) * b next - (post : Rat) * b last) * 1200 / 63

/-- The differential voltage in mV that a lane's transmitter gives bit `i + 1` of those it sends (R427, R428). -/
def State.pinLaneMv (s : State) (q l : Nat) (data pins : Nat → Bool) (i : Nat) : Rat :=
  let w := s.firWord q l
  let b := s.txBit q l data pins
  firMv (fieldGet w 16 4) (fieldGet w 8 6) (fieldGet w 0 5) (b i) (b (i + 1)) (b (i + 2))

/-- Whether a lane's receiver is terminated with 100 Ω: while VDD_LANE is present, which the low-power states take away; `rail` says
whether the board has it there where the device is not powered in order (R511). -/
def State.laneTerminated (s : State) (rail : Bool) : Bool :=
  match s.pwr.mode with
  | .standby => false
  | .dormant => false
  | .unpowered => rail
  | _ => true

/-- MEM_RESET_N (R510): high-impedance without VDD2H, which `rail` says where the device is not powered in order, and in DORMANT; low in
a power-on, brown-out, pin or REF-loss reset; high through the other resets, in STANDBY, and while the memory runs or holds its content;
from such a reset to the training of the memory the spec gives no level.
(DESIGN CHOICE, log entry 90) -/
def State.pinMemReset (s : State) (rail : Bool) : PinLevel :=
  match s.pwr.mode with
  | .unpowered => if rail then .low else .highZ
  | .held => .low
  | .dormant => .highZ
  | .standby => .high
  | _ => 
    let c := s.g Reg.RST.STATUS.CAUSE
    if decide (4 ≤ c ∧ c ≤ 7) || ([0, 1, 2, 3] : List Nat).any (fun f => s.gb (Reg.DMC.FSP.TRAINED f)) then .high else .driven

/-- I2C_SCL and I2C_SDA: open-drain, let go between the commands that carry a transfer (R509). -/
def State.pinI2c (s : State) : PinLevel := if s.pwr.mode = .unpowered then .ignored else .highZ

/-- TDO: driven while data shifts alone, which is within one command (R509). -/
def State.pinTdo (s : State) : PinLevel := s.outPin .highZ .highZ .highZ

/-- TCH_RX: sensed with the grant in a frame or the self-test, in STANDBY by the scanner; else the lines float (R332, R346, R509). -/
def State.pinTouchRx (s : State) : PinLevel :=
  let run := s.tchDrives || (s.granted && s.engRunning 22 && s.g Reg.TCH.STATUS.STATE == 4)
  s.outPin (if run then .read else .highZ) (if s.tch.scan then .read else .highZ) .highZ

/-- FL_SCLK: driven with the transfers, which are within one command; the spec gives it no level in the low-power states (R509).
(DESIGN CHOICE, log entry 90) -/
def State.pinFlashSclk (s : State) : PinLevel := s.outPin .driven .driven .driven

/-- FL_DQ and FL_DQS: let go between transfers; high-impedance in reset and without power (R509).
(DESIGN CHOICE, log entry 90) -/
def State.pinFlashDq (s : State) : PinLevel := s.outPin .highZ .highZ .highZ

end Sys2Proof.Machine
end

