-- ==== Sys2Proof/Safety.lean ====
section
/-! DEFINITION. What holds of the machine whatever is commanded: the canonical form of what it stores and the bounds of its
queues, what stays when a command says nothing of it, and what a safe run is. -/

namespace Sys2Proof.Machine

/-- A memory in its canonical form: addresses strictly rising, no entry that equals what an unlisted address reads as.
(DESIGN CHOICE, log entry 4) -/
def Memory.wf (unlisted : Byte) (m : List Host.Cell) : Bool := Tab.wf (fun _ => unlisted) m

/-- The form that every command keeps: registers, the physical memory, the engines' memories and the flash are in canonical
form, the error log holds at most 16 records (R417), the stamper queue at most 64 stamps (R90).
(DESIGN CHOICE, log entry 4) (PRESUMED, log entry 7) -/
def State.wf (s : State) : Bool :=
  Tab.wf resetWord s.regs && Memory.wf 0 s.mem && Memory.wf 0 s.engMem && Memory.wf 0xFF s.flash &&
    decide (s.bus.err.length ≤ 16) && decide (s.time.stamps.length ≤ 64)

/-- What no command changes: the fuses that give the device its grade and its identity (R463). -/
def State.identity (s : State) : Nat × Nat := (s.pins.grade, s.pins.uid)

/-- A run is safe when no number of steps ends in a fault or a refusal. -/
def State.safe (s : State) : Prop := ∀ k, ∃ t, Sys2Proof.core.run k s = .next t

/-- From `s` to `t` no register changes but those from `lo` to `hi`, of the event block, the error log and the matrix. -/
def regsStay (lo hi : Nat) (s t : State) : Prop :=
  ∀ a, (a < lo ∨ hi ≤ a) → (a < 0x10040000 ∨ 0x10060000 ≤ a) → (a < 0x100A0000 ∨ 0x100B0000 ≤ a) → t.reg a = s.reg a

/-- From `s` to `t` no byte of memory changes, but for the records of the event log where it is on. -/
def memStays (s t : State) : Prop := s.gb Reg.EVT.LOG_EN = false → ∀ x, t.byte x = s.byte x

end Sys2Proof.Machine
end

