-- ==== Sys2Proof/Certificates/Slice0/Obligations.lean ====
section
/-! DEFINITION. The statements about the IH-7264, for the provers. Each formalises rules of the spec, but for what its
docstring names as the model's own choice. `dt` is the time in nanoseconds since the command before. -/

open Sys2Proof Sys2Proof.Machine

/-- A step runs the command at the front of the queue, on the state with the rest of the queue. -/
def Obligations.StepTakesFrontCommand : Prop :=
  (∀ (c : Instr) (rest : List Instr) (s : State), step { s with pending := c :: rest } = exec c { s with pending := rest }) ∧
  (∀ s : State, s.pending = [] → step s = .next s)

/-- Every command has an effect in every state: no step faults or is refused. -/
def Obligations.EveryCommandAnswersNext : Prop :=
  (∀ s : State, ∃ t, step s = .next t) ∧ (∀ (c : Instr) (s : State), ∃ t, exec c s = .next t)

/-- Every step keeps the form of the state: registers and memories in canonical form, the error log within 16 records, the stamper queue within 64 stamps. -/
def Obligations.StepKeepsForm : Prop :=
  ∀ s t : State, s.wf = true → step s = .next t → t.wf = true

/-- The state after reset has the form, CORE runs, and registers, error log and engines stand as reset leaves them. -/
def Obligations.ResetHasForm : Prop :=
  State.reset.wf = true ∧ State.reset.coreOn = true ∧ State.reset.pending = [] ∧ State.reset.timeState = 0 ∧
    State.reset.bus.err = [] ∧ State.reset.boot.phase = .due ∧ State.reset.gb Reg.SEQ.STATUS.LIVE_VALID = false ∧
    (∀ n < 24, State.reset.g (Reg.ENG.STATUS.STATE n) = 0) ∧ (∀ a, State.reset.reg a = resetWord a)

/-- No command touches the queue or the identity of the device, and none turns the clock back. -/
def Obligations.CommandsKeepQueueAndIdentity : Prop :=
  ∀ (c : Instr) (s t : State), exec c s = .next t → t.pending = s.pending ∧ t.identity = s.identity ∧ s.clock ≤ t.clock

/-- A byte of physical memory reads as the byte last stored there; every other byte and every register stays. -/
def Obligations.StoredBytesReadBack : Prop :=
  ∀ (s : State) (a : Nat) (bs : List Byte) (x : Nat),
    (s.store a bs).byte x = (if a ≤ x ∧ x < a + bs.length then bs.getD (x - a) 0 else s.byte x) ∧
    (∀ r, (s.store a bs).reg r = s.reg r)

/-- A register write by a master with the right takes effect by the access code; without the right, or where no register is, it has an error response. -/
def Obligations.RegisterWriteTakesEffect : Prop :=
  (∀ (dt : Nat) (m : Master) (v : Word) (s : State),
    s.coreOn = true →
    s.issues m.val = true →
    m.val ≤ 1 →
    ∃ t : State, exec (.registerWrite dt m 0x10000014#36 v) s = .next t ∧
      t.reg 0x10000014 = v ∧
      t.bus.resp = some ⟨false, []⟩ ∧
      (∀ x, t.byte x = s.byte x) ∧
      (∀ a, a ≠ 0x10000014 → (a < 0x100A0000 ∨ 0x100B0000 ≤ a) → (a < 0x10900000 ∨ 0x10910000 ≤ a) → t.reg a = s.reg a)) ∧
  (∀ (dt : Nat) (m : Master) (v : Word) (s : State),
    s.coreOn = true →
    s.issues m.val = true →
    m.val ≤ 1 →
    ∃ t : State, exec (.registerWrite dt m 0x10000000#36 v) s = .next t ∧
      t.reg 0x10000000 = s.reg 0x10000000 ∧
      t.bus.resp = some ⟨false, []⟩ ∧
      (∀ x, t.byte x = s.byte x) ∧
      (∀ a, (a < 0x100A0000 ∨ 0x100B0000 ≤ a) → (a < 0x10900000 ∨ 0x10910000 ≤ a) → t.reg a = s.reg a)) ∧
  (∀ (dt : Nat) (m : Master) (v : Word) (s : State),
    s.coreOn = true →
    s.issues m.val = true →
    2 ≤ m.val →
    ∃ t : State, exec (.registerWrite dt m 0x10000014#36 v) s = .next t ∧
      t.reg 0x10000014 = s.reg 0x10000014 ∧
      t.bus.resp = some ⟨true, []⟩ ∧
      t.evStatus Ev.mtxErr = true) ∧
  (∀ (dt : Nat) (m : Master) (v : Word) (s : State),
    s.coreOn = true →
    s.issues m.val = true →
    ∃ t : State, exec (.registerWrite dt m 0x10000100#36 v) s = .next t ∧
      t.bus.resp = some ⟨true, []⟩ ∧
      t.evStatus Ev.mtxErr = true ∧
      t.reg 0x10000014 = s.reg 0x10000014) ∧
  (∀ (dt : Nat) (m : Master) (a : BitVec 36) (v : Word) (s : State),
    s.coreOn = false →
    (m.val = 2 ∨ m.val = 3) →
    ∃ t : State, exec (.registerWrite dt m a v) s = .next t ∧
      t = s.advance dt)

/-- Each bus master has its own snapshot: a read by one master changes no snapshot of another; reading the lowest word of LOCAL captures its higher word. -/
def Obligations.ReadsKeepOtherMastersSnapshots : Prop :=
  (∀ (dt : Nat) (m k : Master) (a : BitVec 36) (s : State),
    k ≠ m →
    ∃ t : State, exec (.snapshotRead dt m a) s = .next t ∧
      (∀ x < 2 ^ 32, t.snap k.val x = s.snap k.val x)) ∧
  (∀ (dt : Nat) (m : Master) (s : State),
    s.coreOn = true →
    s.readsNow m.val = true →
    ∃ t : State, exec (.snapshotRead dt m 0x10060010#36) s = .next t ∧
      t.bus.resp = some ⟨false, leBytes ((s.advance dt).time.count % 2 ^ 32) 4⟩ ∧
      t.snap m.val 0x10060014 = BitVec.ofNat 32 ((s.advance dt).time.count / 2 ^ 32) ∧
      (∀ a, (a < 0x100A0000 ∨ 0x100B0000 ≤ a) → t.reg a = s.reg a)) ∧
  (∀ (dt : Nat) (m : Master) (s : State),
    s.coreOn = true →
    s.readsNow m.val = true →
    ∃ t : State, exec (.snapshotRead dt m 0x10060014#36) s = .next t ∧
      t.bus.resp = some ⟨false, leBytes (s.snap m.val 0x10060014).toNat 4⟩ ∧
      t.bus.snaps = s.bus.snaps)

/-- A data request that passes the checks is stored or read, one that fails is answered with an error; requests wait, age and drain; error records are read. -/
def Obligations.BusRequestsPortsAndErrorRecords : Prop :=
  (∀ (dt : Nat) (m : Master) (a : BitVec 36) (bs : List Byte) (ks : List Bool) (i : Fin 64) (q : Fin 16) (s : State),
    s.coreOn = true →
    s.draining m.val = false →
    bs ≠ [] →
    ks.length = bs.length →
    a.toNat % 512 + bs.length ≤ 512 →
    (a.toNat < 0x10000000 ∨ 0x20000000 ≤ a.toNat) →
    s.dataCheck m.val a.toNat bs.length true = none →
    s.leaseHit m.val a.toNat bs.length = none →
    (s.advance dt).mustWait ⟨m, true, a, bs.length, bs, ks, i, q, .clean, .whole, false, none⟩ = false →
    ∃ t : State, exec (.busRequest dt ⟨m, true, a, bs.length, bs, ks, i, q, .clean, .whole, false, none⟩) s = .next t ∧
      t.bus.resp = some ⟨false, []⟩ ∧
      (∀ x, t.byte x = if a.toNat ≤ x ∧ x < a.toNat + bs.length ∧ ks.getD (x - a.toNat) false = true then bs.getD (x - a.toNat) 0 else s.byte x)) ∧
  (∀ (dt n : Nat) (m : Master) (a : BitVec 36) (i : Fin 64) (q : Fin 16) (s : State),
    s.coreOn = true →
    s.draining m.val = false →
    1 ≤ n →
    a.toNat % 512 + n ≤ 512 →
    (a.toNat < 0x10000000 ∨ 0x20000000 ≤ a.toNat) →
    s.dataCheck m.val a.toNat n false = none →
    (a.toNat < 0x8000000 ∨ 0x10000000 ≤ a.toNat) →
    s.eccHit a.toNat n = false →
    s.bus.inflight = [] →
    (s.advance dt).mustWait ⟨m, false, a, n, [], [], i, q, .clean, .whole, false, none⟩ = false →
    ∃ t : State, exec (.busRequest dt ⟨m, false, a, n, [], [], i, q, .clean, .whole, false, none⟩) s = .next t ∧
      t.bus.resp = some ⟨false, s.bytes a.toNat n⟩ ∧
      (∀ x, t.byte x = s.byte x)) ∧
  (∀ (dt n : Nat) (m : Master) (a : BitVec 36) (i : Fin 64) (q : Fin 16) (s : State),
    s.coreOn = true →
    s.draining m.val = false →
    1 ≤ n →
    a.toNat % 512 + n ≤ 512 →
    s.dataCheck m.val a.toNat n false = none →
    0x8000000 ≤ a.toNat →
    a.toNat + n ≤ 0x10000000 →
    s.boot.flash = none →
    s.eccHit a.toNat n = false →
    s.bus.inflight = [] →
    (s.advance dt).mustWait ⟨m, false, a, n, [], [], i, q, .clean, .whole, false, none⟩ = false →
    ∃ t : State, exec (.busRequest dt ⟨m, false, a, n, [], [], i, q, .clean, .whole, false, none⟩) s = .next t ∧
      t.bus.resp = some ⟨false, (List.range n).map (fun k => s.flashByte (a.toNat + k - 0x8000000 + 2 ^ 27 * s.g Reg.MTX.CTRL.FLASH_BANK))⟩ ∧
      (∀ x, t.byte x = s.byte x)) ∧
  (∀ (dt n : Nat) (m : Master) (w : Bool) (a : BitVec 36) (bs : List Byte) (ks : List Bool) (i : Fin 64) (q : Fin 16) (s : State),
    s.coreOn = true →
    s.draining m.val = false →
    1 ≤ n →
    a.toNat % 512 + n ≤ 512 →
    (a.toNat < 0x10000000 ∨ 0x20000000 ≤ a.toNat) →
    (s.dataCheck m.val a.toNat n w).isSome = true →
    s.gb Reg.EVT.LOG_EN = false →
    ∃ t : State, exec (.busRequest dt ⟨m, w, a, n, bs, ks, i, q, .clean, .whole, false, none⟩) s = .next t ∧
      t.bus.resp = some ⟨true, if w then [] else List.replicate n 0⟩ ∧
      t.evStatus Ev.mtxErr = true ∧
      (∀ x, t.byte x = s.byte x)) ∧
  (∀ (dt n : Nat) (m : Master) (w : Bool) (a : BitVec 36) (bs : List Byte) (ks : List Bool) (i : Fin 64) (q : Fin 16) (s : State),
    s.coreOn = true →
    s.draining m.val = false →
    1 ≤ n →
    a.toNat % 256 + n ≤ 256 →
    (a.toNat < 0x10000000 ∨ 0x20000000 ≤ a.toNat) →
    s.dataCheck m.val a.toNat n w = none →
    ∃ t : State, exec (.busRequest dt ⟨m, w, a, n, bs, ks, i, q, .clean, .wait, false, none⟩) s = .next t ∧
      t.bus.inflight.map (fun x => (x.master, x.write, x.addr, x.bytes, x.id, x.qos, x.granted)) = s.bus.inflight.map (fun x => (x.master, x.write, x.addr, x.bytes, x.id, x.qos, x.granted)) ++ [(m.val, w, a.toNat, n, i.val, s.effQos m.val (ownQos m.val q.val) false, false)] ∧
      (∀ x, t.byte x = s.byte x)) ∧
  (∀ (dt n : Nat) (m : Master) (w : Bool) (a : BitVec 36) (bs : List Byte) (ks : List Bool) (i : Fin 64) (q : Fin 16) (s : State),
    s.coreOn = true →
    s.draining m.val = false →
    1 ≤ n →
    a.toNat % 256 + n ≤ 256 →
    (a.toNat < 0x10000000 ∨ 0x20000000 ≤ a.toNat) →
    (s.advance dt).mustWait ⟨m, w, a, n, bs, ks, i, q, .clean, .whole, false, none⟩ = true →
    ∃ t : State, exec (.busRequest dt ⟨m, w, a, n, bs, ks, i, q, .clean, .whole, false, none⟩) s = .next t ∧
      t.bus.inflight.map (fun x => (x.master, x.write, x.addr, x.bytes, x.id, x.qos, x.granted)) = s.bus.inflight.map (fun x => (x.master, x.write, x.addr, x.bytes, x.id, x.qos, x.granted)) ++ [(m.val, w, a.toNat, n, i.val, s.effQos m.val (ownQos m.val q.val) false, false)] ∧
      t.bus.resp = s.bus.resp ∧
      (∀ x, t.byte x = s.byte x)) ∧
  (∀ (dt n : Nat) (m : Master) (w : Bool) (a : BitVec 36) (bs : List Byte) (ks : List Bool) (i : Fin 64) (q : Fin 16) (p : PendReq) (s : State),
    s.coreOn = true →
    (a.toNat < 0x10000000 ∨ 0x20000000 ≤ a.toNat) →
    s.bus.retired.contains (m.val, i.val) = false →
    s.burstOf m.val i.val = [p] →
    p.granted = true →
    p.write = true →
    p.fail = 0 →
    s.leaseHit p.master p.addr p.bytes = none →
    ∃ t : State, exec (.busRequest dt ⟨m, w, a, n, bs, ks, i, q, .clean, .finish, false, none⟩) s = .next t ∧
      t.bus.resp = some ⟨false, []⟩ ∧
      t.bus.inflight = s.bus.inflight.filter (fun x => decide (x ≠ p)) ∧
      (∀ x, t.byte x = if p.addr ≤ x ∧ x < p.addr + p.data.length ∧ (p.strobes.all (fun b => b) = true ∨ p.strobes.getD (x - p.addr) false = true) then p.data.getD (x - p.addr) 0 else s.byte x)) ∧
  (∀ (dt : Nat) (a : BitVec 36) (bs : List Byte) (ks : List Bool) (i : Fin 64) (q : Fin 16) (e : Fin 24) (ph : BusPhase) (s : State),
    s.coreOn = true →
    s.gb (Reg.ENG.CTRL.DEBUG_EN e.val) = true →
    ∃ t : State, exec (.busRequest dt ⟨2, true, a, bs.length, bs, ks, i, q, .clean, ph, false, some e⟩) s = .next t ∧
      t.engMem = (s.engLoad e.val a.toNat bs).engMem ∧
      t.bus.resp = some ⟨false, []⟩ ∧
      (∀ x, t.byte x = s.byte x)) ∧
  (∀ (dt : Nat) (m : Master) (id : Fin 64) (p : PendReq) (l r : List PendReq) (s : State),
    s.coreOn = true →
    s.bus.inflight = l ++ p :: r →
    (∀ x ∈ l, x.master ≠ m.val ∨ x.id ≠ id.val) →
    p.master = m.val →
    p.id = id.val →
    p.granted = false →
    p.aged = false →
    p.qos < 8 →
    p.since + 20000 < s.clock + dt →
    ∃ t : State, exec (.qosAging dt m id) s = .next t ∧
      t.bus.inflight = (l ++ p :: r).map (fun x => if x = p then { x with aged := true } else x) ∧
      t.g (Reg.MTX.TARGET.AGED p.target) = (s.g (Reg.MTX.TARGET.AGED p.target) + 1) % 2 ^ 32 ∧
      (∀ x, t.byte x = s.byte x)) ∧
  (∀ (dt : Nat) (m : Master) (k : Nat) (l r : List (Nat × Nat)) (s : State),
    s.coreOn = true →
    s.bus.draining = l ++ (m.val, k) :: r →
    (∀ x ∈ l ++ r, x.1 ≠ m.val) →
    ∃ t : State, exec (.drainEnd dt m) s = .next t ∧
      t.bus.draining = l ++ r ∧
      t.g Reg.MTX.DRAIN.DRAINS = (s.g Reg.MTX.DRAIN.DRAINS + 1) % 2 ^ 16 ∧
      t.g Reg.MTX.DRAIN.LAST_MASTER = m.val ∧
      t.g Reg.MTX.DRAIN.LAST_CUT_BEATS = k % 2 ^ Reg.MTX.DRAIN.LAST_CUT_BEATS.width ∧
      t.evStatus Ev.mtxDrain = true) ∧
  (∀ (dt : Nat) (m : Master) (r : ErrRecord) (rest : List ErrRecord) (s : State),
    s.coreOn = true →
    s.readsNow m.val = true →
    s.bus.err = r :: rest →
    ∃ t : State, exec (.errRecordRead dt m) s = .next t ∧
      t.bus.err = rest ∧
      t.bus.resp = some ⟨false, leBytes (BitVec.ofNat 32 (2 ^ 31 + r.target * 2 ^ 24 + r.master * 2 ^ 16 + r.reason)).toNat 4⟩ ∧
      t.snap m.val 0x1005000C = BitVec.ofNat 32 r.addr ∧
      t.snap m.val 0x10050018 = r.data ∧
      (∀ x, t.byte x = s.byte x)) ∧
  (∀ (dt : Nat) (m : Master) (s : State),
    s.coreOn = true →
    s.readsNow m.val = true →
    s.bus.err = [] →
    ∃ t : State, exec (.errRecordRead dt m) s = .next t ∧
      t.bus.err = [] ∧
      t.bus.resp = some ⟨false, [0, 0, 0, 0]⟩ ∧
      (∀ x, t.byte x = s.byte x))

/-- An engine with firmware runs when enabled and not halted, is HALTED with HALT, OFF without ENABLE. -/
def Obligations.EngineStartStop : Prop :=
  (∀ (dt : Nat) (m : Master) (n : Fin 24) (s : State),
    s.coreOn = true →
    s.mayWrite m.val ((Reg.ENG.CTRL.ENABLE n.val).addr) = true →
    (s.engine n.val).loaded = true →
    s.gb (Reg.ENG.CTRL.HALT n.val) = false →
    s.g (Reg.ENG.STATUS.STATE n.val) ≠ 4 →
    ∃ t : State, exec (.engineEnable dt m n) s = .next t ∧
      t.gb (Reg.ENG.CTRL.ENABLE n.val) = true ∧
      t.g (Reg.ENG.STATUS.STATE n.val) = 2) ∧
  (∀ (dt : Nat) (m : Master) (n : Fin 24) (s : State),
    s.coreOn = true →
    s.mayWrite m.val ((Reg.ENG.CTRL.ENABLE n.val).addr) = true →
    (s.engine n.val).loaded = false →
    s.g (Reg.ENG.STATUS.STATE n.val) = 0 →
    ∃ t : State, exec (.engineEnable dt m n) s = .next t ∧
      t.gb (Reg.ENG.CTRL.ENABLE n.val) = true ∧
      t.g (Reg.ENG.STATUS.STATE n.val) = 0) ∧
  (∀ (dt : Nat) (m : Master) (n : Fin 24) (s : State),
    s.coreOn = true →
    s.mayWrite m.val ((Reg.ENG.CTRL.ENABLE n.val).addr) = true →
    ∃ t : State, exec (.engineDisable dt m n) s = .next t ∧
      t.gb (Reg.ENG.CTRL.ENABLE n.val) = false ∧
      t.g (Reg.ENG.STATUS.STATE n.val) = 0) ∧
  (∀ (dt : Nat) (m : Master) (n : Fin 24) (s : State),
    s.coreOn = true →
    s.mayWrite m.val ((Reg.ENG.CTRL.ENABLE n.val).addr) = true →
    (s.engine n.val).loaded = true →
    s.gb (Reg.ENG.CTRL.ENABLE n.val) = true →
    s.g (Reg.ENG.STATUS.STATE n.val) ≠ 4 →
    ∃ t : State, exec (.engineHalt dt m n) s = .next t ∧
      t.gb (Reg.ENG.CTRL.HALT n.val) = true ∧
      t.g (Reg.ENG.STATUS.STATE n.val) = 3) ∧
  (∀ (dt : Nat) (m : Master) (n : Fin 24) (s : State),
    s.coreOn = true →
    s.mayWrite m.val ((Reg.ENG.CTRL.ENABLE n.val).addr) = true →
    (s.engine n.val).loaded = true →
    s.gb (Reg.ENG.CTRL.ENABLE n.val) = true →
    s.g (Reg.ENG.STATUS.STATE n.val) ≠ 4 →
    ∃ t : State, exec (.engineResume dt m n) s = .next t ∧
      t.gb (Reg.ENG.CTRL.HALT n.val) = false ∧
      t.g (Reg.ENG.STATUS.STATE n.val) = 2)

/-- A fault stops an engine, is kept in FAULT and raises EV_ENGINE_FAULT; AUTO_RESTART runs it again; a lockstep mismatch stops both Curator cores. -/
def Obligations.EngineFaults : Prop :=
  (∀ (dt : Nat) (n : Fin 24) (s : State),
    s.coreOn = true →
    2 ≤ n.val →
    s.g (Reg.ENG.STATUS.STATE n.val) = 2 →
    (s.engine n.val).beatAt + 100000000 ≤ s.clock + dt →
    s.gb (Reg.ENG.CTRL.AUTO_RESTART n.val) = false →
    s.gb (Reg.ENG.FAULT.VALID n.val) = false →
    ∃ t : State, exec (.engineStall dt n) s = .next t ∧
      t.g (Reg.ENG.STATUS.STATE n.val) = 4 ∧
      t.gb (Reg.ENG.FAULT.VALID n.val) = true ∧
      t.g (Reg.ENG.FAULT.CAUSE n.val) = 5 ∧
      t.evStatus Ev.engineFault = true) ∧
  (∀ (dt : Nat) (n : Fin 24) (c : EngineCause) (s : State),
    s.coreOn = true →
    s.g (Reg.ENG.STATUS.STATE n.val) = 2 →
    (n.val < 2 ∨ s.gb (Reg.ENG.CTRL.AUTO_RESTART n.val) = false) →
    s.gb (Reg.ENG.FAULT.VALID n.val) = false →
    ∃ t : State, exec (.engineFault dt n c) s = .next t ∧
      t.g (Reg.ENG.STATUS.STATE n.val) = 4 ∧
      t.gb (Reg.ENG.FAULT.VALID n.val) = true ∧
      t.g (Reg.ENG.FAULT.CAUSE n.val) = engineCauseCode c ∧
      t.evStatus Ev.engineFault = true) ∧
  (∀ (dt : Nat) (n : Fin 24) (c : EngineCause) (s : State),
    s.coreOn = true →
    2 ≤ n.val →
    s.g (Reg.ENG.STATUS.STATE n.val) = 2 →
    s.gb (Reg.ENG.CTRL.AUTO_RESTART n.val) = true →
    s.gb (Reg.ENG.CTRL.ENABLE n.val) = true →
    s.gb (Reg.ENG.CTRL.HALT n.val) = false →
    (s.engine n.val).loaded = true →
    (s.engine n.val).restartAt = none →
    s.eccHit (s.engine n.val).copyAddr (s.engine n.val).copyLen = false →
    ∃ t : State, exec (.engineFault dt n c) s = .next t ∧
      t.g (Reg.ENG.STATUS.STATE n.val) = 2 ∧
      t.g (Reg.ENG.STATUS.RESTARTS n.val) = min (s.g (Reg.ENG.STATUS.RESTARTS n.val) + 1) (2 ^ (Reg.ENG.STATUS.RESTARTS n.val).width - 1) ∧
      (t.engine n.val).restartAt = some (s.clock + dt) ∧
      t.evStatus Ev.engineFault = true) ∧
  (∀ (dt : Nat) (s : State),
    s.coreOn = true →
    s.g (Reg.ENG.STATUS.STATE 0) = 2 →
    s.g (Reg.ENG.STATUS.STATE 1) = 2 →
    s.gb (Reg.ENG.FAULT.VALID 0) = false →
    s.gb (Reg.ENG.FAULT.VALID 1) = false →
    ∃ t : State, exec (.lockstepMismatch dt) s = .next t ∧
      t.g (Reg.ENG.STATUS.STATE 0) = 4 ∧
      t.g (Reg.ENG.STATUS.STATE 1) = 4 ∧
      t.gb Reg.ENG.INFO.LOCKSTEP_OK = false ∧
      t.g (Reg.ENG.FAULT.CAUSE 0) = 6 ∧
      t.g (Reg.ENG.FAULT.CAUSE 1) = 6 ∧
      t.evStatus Ev.lockstep = true)

/-- A commit is refused, and SEQ.KEY_STATUS.RESULT set, in the cases of R59; a refused commit changes nothing else. -/
def Obligations.RefusedCommitChangesNothingElse : Prop :=
  (∀ (dt : Nat) (m : Master) (s : State),
    s.coreOn = true →
    s.issues m.val = true →
    m.val ≤ 1 →
    s.gb Reg.SEQ.STATUS.STAGE_VALID = false →
    ∃ t : State, exec (.keystoneCommit dt m) s = .next t ∧
      t.g Reg.SEQ.KEY_STATUS.RESULT = 5 ∧
      t.g Reg.SEQ.KEY_STATUS.HEADS_LEFT = s.g Reg.SEQ.KEY_STATUS.HEADS_LEFT ∧
      (∀ a, a ≠ 0x100B0030 → (a < 0x100A0000 ∨ 0x100B0000 ≤ a) → t.reg a = s.reg a) ∧
      (∀ x, t.byte x = s.byte x) ∧
      t.seq = s.seq) ∧
  (∀ (dt : Nat) (m : Master) (s : State),
    s.coreOn = true →
    s.issues m.val = true →
    m.val ≤ 1 →
    s.gb Reg.SEQ.STATUS.STAGE_VALID = true →
    s.g Reg.SEQ.STATUS.KEY_STATE = 2 →
    ∃ t : State, exec (.keystoneCommit dt m) s = .next t ∧
      t.g Reg.SEQ.KEY_STATUS.RESULT = 6 ∧
      t.g Reg.SEQ.KEY_STATUS.HEADS_LEFT = s.g Reg.SEQ.KEY_STATUS.HEADS_LEFT ∧
      (∀ a, a ≠ 0x100B0030 → (a < 0x100A0000 ∨ 0x100B0000 ≤ a) → t.reg a = s.reg a) ∧
      (∀ x, t.byte x = s.byte x) ∧
      t.seq = s.seq) ∧
  (∀ (dt : Nat) (m : Master) (s : State),
    s.coreOn = true →
    s.issues m.val = true →
    m.val ≤ 1 →
    s.gb Reg.SEQ.STATUS.STAGE_VALID = true →
    s.g Reg.SEQ.STATUS.KEY_STATE ≠ 2 →
    pgPoint (s.page s.stagePage) < s.g Reg.DMC.FSP_STATUS.CURRENT →
    ∃ t : State, exec (.keystoneCommit dt m) s = .next t ∧
      t.g Reg.SEQ.KEY_STATUS.RESULT = 7 ∧
      t.g Reg.SEQ.KEY_STATUS.HEADS_LEFT = s.g Reg.SEQ.KEY_STATUS.HEADS_LEFT ∧
      (∀ a, a ≠ 0x100B0030 → (a < 0x100A0000 ∨ 0x100B0000 ≤ a) → t.reg a = s.reg a) ∧
      (∀ x, t.byte x = s.byte x) ∧
      t.seq = s.seq)

/-- An accepted commit is PENDING and SCHEDULED; CANCEL ends it; at T with no head left it completes and the staged page is live. -/
def Obligations.KeystoneRuns : Prop :=
  (∀ (dt : Nat) (m : Master) (s : State),
    s.coreOn = true →
    s.mayWrite m.val (0x100B002C) = true →
    s.gb Reg.SEQ.STATUS.STAGE_VALID = true →
    s.g Reg.SEQ.STATUS.KEY_STATE ≠ 2 →
    s.g Reg.DMC.FSP_STATUS.CURRENT ≤ pgPoint (s.page s.stagePage) →
    s.gb Reg.SEQ.STATUS.LIVE_VALID = true →
    (s.advance dt).wall < s.keyTime →
    ∃ t : State, exec (.keystoneCommit dt m) s = .next t ∧
      t.g Reg.SEQ.STATUS.KEY_STATE = 1 ∧
      t.g Reg.SEQ.KEY_STATUS.RESULT = 1 ∧
      t.seq.keyT = s.keyTime ∧
      t.gb Reg.SEQ.STATUS.STAGE_VALID = true) ∧
  (∀ (dt : Nat) (m : Master) (s : State),
    s.coreOn = true →
    s.mayWrite m.val (0x100B002C) = true →
    s.g Reg.SEQ.STATUS.KEY_STATE = 1 →
    ∃ t : State, exec (.keystoneCancel dt m) s = .next t ∧
      t.g Reg.SEQ.STATUS.KEY_STATE = 0 ∧
      t.g Reg.SEQ.KEY_STATUS.RESULT = 4 ∧
      t.g Reg.SEQ.STATUS.STAGE_VALID = s.g Reg.SEQ.STATUS.STAGE_VALID) ∧
  (∀ (dt : Nat) (m : Master) (s : State),
    s.coreOn = true →
    s.mayWrite m.val (0x100B002C) = true →
    s.g Reg.SEQ.STATUS.KEY_STATE = 2 →
    ∃ t : State, exec (.keystoneCancel dt m) s = .next t ∧
      t.g Reg.SEQ.STATUS.KEY_STATE = 2 ∧
      t.g Reg.SEQ.KEY_STATUS.RESULT = 6) ∧
  (∀ (dt : Nat) (s : State),
    s.coreOn = true →
    s.g Reg.SEQ.STATUS.KEY_STATE ≠ 0 →
    (s.advance dt).keyReached = true →
    s.keyLeft = [] →
    ∃ t : State, exec (.keystoneTimeReached dt) s = .next t ∧
      t.g Reg.SEQ.STATUS.LIVE_PAGE = s.stagePage ∧
      t.gb Reg.SEQ.STATUS.LIVE_VALID = true ∧
      t.g Reg.SEQ.LIVE_GEN.GENERATION = s.g Reg.SEQ.STAGE_GEN.GENERATION ∧
      t.gb Reg.SEQ.STATUS.STAGE_VALID = false ∧
      t.g Reg.SEQ.STATUS.KEY_STATE = 0 ∧
      t.g Reg.SEQ.KEY_STATUS.RESULT = 3 ∧
      t.evStatus Ev.keystoneDone = true) ∧
  (∀ (dt : Nat) (n : Fin 64) (s : State),
    s.coreOn = true →
    s.g Reg.SEQ.STATUS.KEY_STATE ≠ 0 →
    (s.advance dt).keyReached = true →
    s.keyLeft ≠ [] →
    s.headRuns n.val = false →
    ∃ t : State, exec (.keystoneTimeReached dt) s = .next t ∧
      (if n.val < 32 then t.g Reg.SEQ.KEY_SWITCHED_LO.HEADS else t.g Reg.SEQ.KEY_SWITCHED_HI.HEADS).testBit (n.val % 32) = true ∧
      t.g Reg.SEQ.STATUS.KEY_STATE = s.g Reg.SEQ.STATUS.KEY_STATE ∧
      t.g Reg.SEQ.LIVE_GEN.GENERATION = s.g Reg.SEQ.LIVE_GEN.GENERATION)

/-- START runs the validator; it ends PASSED or REJECTED by its checks, for a preset with its RESULT; a bad LENGTH, CRC, key or bandwidth never passes. -/
def Obligations.PageValidation : Prop :=
  (∀ (dt : Nat) (m : Master) (s : State),
    s.coreOn = true →
    s.mayWrite m.val (0x100B0010) = true →
    s.g Reg.SEQ.STATUS.VAL_STATE ≠ 1 →
    s.g Reg.SEQ.STATUS.KEY_STATE ≠ 2 →
    ∃ t : State, exec (.validateStart dt m) s = .next t ∧
      t.g Reg.SEQ.STATUS.VAL_STATE = 1 ∧
      (∀ x, t.byte x = s.byte x)) ∧
  (∀ (dt : Nat) (m : Master) (s : State),
    s.coreOn = true →
    s.mayWrite m.val (0x100B0010) = true →
    (s.g Reg.SEQ.STATUS.VAL_STATE = 1 ∨ s.g Reg.SEQ.STATUS.KEY_STATE = 2) →
    ∃ t : State, exec (.validateStart dt m) s = .next t ∧
      t.reg 0x100B0004 = s.reg 0x100B0004 ∧
      (∀ x, t.byte x = s.byte x)) ∧
  (∀ (dt : Nat) (s : State),
    s.coreOn = true →
    s.g Reg.SEQ.STATUS.VAL_STATE = 1 →
    s.seq.preset ≠ .validating →
    ∃ t : State, exec (.validationDone dt) s = .next t ∧
      t.g Reg.SEQ.STATUS.VAL_STATE = (if (validatePage (s.page s.stagePage) s.valContext).1 = 0 then 2 else 3) ∧
      t.gb Reg.SEQ.STATUS.STAGE_VALID = decide ((validatePage (s.page s.stagePage) s.valContext).1 = 0) ∧
      t.g Reg.SEQ.VAL_RESULT.REASON = (validatePage (s.page s.stagePage) s.valContext).1 % 16 ∧
      ((validatePage (s.page s.stagePage) s.valContext).1 = 0 → t.g Reg.SEQ.STAGE_GEN.GENERATION = pgGeneration (s.page s.stagePage) ∧ t.reg 0x10040080 = s.reg 0x10040080) ∧
      ((validatePage (s.page s.stagePage) s.valContext).1 ≠ 0 → t.evStatus Ev.pageReject = true)) ∧
  (∀ (dt : Nat) (s : State),
    s.coreOn = true →
    s.g Reg.SEQ.STATUS.VAL_STATE = 1 →
    s.seq.preset = .validating →
    ((validatePage (s.page s.stagePage) s.valContext).1 ≠ 0 ∨ s.gb Reg.SEQ.PRESET_CTRL.AUTO_KEY = false) →
    ∃ t : State, exec (.validationDone dt) s = .next t ∧
      t.g Reg.SEQ.STATUS.VAL_STATE = (if (validatePage (s.page s.stagePage) s.valContext).1 = 0 then 2 else 3) ∧
      t.gb Reg.SEQ.STATUS.STAGE_VALID = decide ((validatePage (s.page s.stagePage) s.valContext).1 = 0) ∧
      t.g Reg.SEQ.PRESET_STATUS.RESULT = (if (validatePage (s.page s.stagePage) s.valContext).1 = 0 then 1 else 3) ∧
      t.gb Reg.SEQ.PRESET_STATUS.PENDING = false ∧
      t.evStatus Ev.preset = true) ∧
  (∀ (dt : Nat) (s : State),
    s.coreOn = true →
    s.g Reg.SEQ.STATUS.VAL_STATE = 1 →
    s.seq.preset = .validating →
    s.gb Reg.SEQ.PRESET_CTRL.AUTO_KEY = true →
    s.gb Reg.SEQ.STATUS.LIVE_VALID = true →
    s.g Reg.SEQ.STATUS.KEY_STATE ≠ 2 →
    s.g Reg.DMC.FSP_STATUS.CURRENT ≤ pgPoint (s.page s.stagePage) →
    (s.advance dt).wall < (s.advance dt).presetT →
    ∃ t : State, exec (.validationDone dt) s = .next t ∧
      t.g Reg.SEQ.PRESET_STATUS.RESULT = (if (validatePage (s.page s.stagePage) s.valContext).1 = 0 then 1 else 3) ∧
      ((validatePage (s.page s.stagePage) s.valContext).1 = 0 → t.g Reg.SEQ.STATUS.KEY_STATE = 1 ∧ t.g Reg.SEQ.KEY_STATUS.RESULT = 1 ∧ t.seq.keyT = (s.advance dt).presetT)) ∧
  (∀ (P : Page) (c : ValContext), pgLength P < 8 ∨ 16384 < pgLength P → (validatePage P c).1 = 0xA) ∧
  (∀ (P : Page) (c : ValContext), pageCrc P ≠ pgCrc P → (validatePage P c).1 ≠ 0) ∧
  (∀ (P : Page) (c : ValContext), Tab.get none (pgKeyId P) c.keys = none → (validatePage P c).1 ≠ 0) ∧
  (∀ (P : Page) (c : ValContext), bandwidthFits P c.cap (pgPoint P) = false → (validatePage P c).1 ≠ 0)

/-- POST takes the next ticket; a failed check completes the amendment with its outcome; a passing one waits for the running heads it affects. -/
def Obligations.AmendmentsPosted : Prop :=
  (∀ (dt : Nat) (m : Master) (v : Word) (s : State),
    s.coreOn = true →
    s.mayWrite m.val (0x100B0040) = true →
    s.gb Reg.SEQ.STATUS.LIVE_VALID = false →
    ∃ t : State, exec (.amendPost dt m v) s = .next t ∧
      t.g Reg.SEQ.AMD_STATUS.NEXT_TICKET = (s.g Reg.SEQ.AMD_STATUS.NEXT_TICKET + 1) % 256 ∧
      t.g Reg.SEQ.AMD_STATUS.LAST_TICKET = s.g Reg.SEQ.AMD_STATUS.NEXT_TICKET ∧
      t.g Reg.SEQ.AMD_STATUS.LAST_RESULT = 3 ∧
      t.evStatus Ev.amendDone = true ∧
      t.seq.amends = s.seq.amends) ∧
  (∀ (dt : Nat) (m : Master) (v : Word) (s : State),
    s.coreOn = true →
    s.mayWrite m.val (0x100B0040) = true →
    fieldGet v 12 3 ≤ 5 →
    s.amendCheck (fieldGet v 12 3) (fieldGet v 0 10) (s.g Reg.SEQ.AMD_ARG0.ARG0) (s.g Reg.SEQ.AMD_ARG1.ARG1) ≠ 0 →
    ∃ t : State, exec (.amendPost dt m v) s = .next t ∧
      t.g Reg.SEQ.AMD_STATUS.NEXT_TICKET = (s.g Reg.SEQ.AMD_STATUS.NEXT_TICKET + 1) % 256 ∧
      t.g Reg.SEQ.AMD_STATUS.LAST_TICKET = s.g Reg.SEQ.AMD_STATUS.NEXT_TICKET ∧
      t.g Reg.SEQ.AMD_STATUS.LAST_RESULT = s.amendCheck (fieldGet v 12 3) (fieldGet v 0 10) (s.g Reg.SEQ.AMD_ARG0.ARG0) (s.g Reg.SEQ.AMD_ARG1.ARG1) ∧
      t.evStatus Ev.amendDone = true ∧
      t.seq.amends = s.seq.amends ∧
      t.heads = s.heads) ∧
  (∀ (dt : Nat) (m : Master) (v : Word) (s : State),
    s.coreOn = true →
    s.mayWrite m.val (0x100B0040) = true →
    fieldGet v 12 3 ≤ 4 →
    s.gb Reg.SEQ.STATUS.LIVE_VALID = true →
    s.amendCheck (fieldGet v 12 3) (fieldGet v 0 10) (s.g Reg.SEQ.AMD_ARG0.ARG0) (s.g Reg.SEQ.AMD_ARG1.ARG1) = 0 →
    windowHeads (s.page (s.g Reg.SEQ.STATUS.LIVE_PAGE)) (fieldGet v 0 10) ≠ [] →
    (windowHeads (s.page (s.g Reg.SEQ.STATUS.LIVE_PAGE)) (fieldGet v 0 10)).all (fun n => s.headRuns n && !s.seq.taken.contains n) = true →
    ∃ t : State, exec (.amendPost dt m v) s = .next t ∧
      t.g Reg.SEQ.AMD_STATUS.NEXT_TICKET = (s.g Reg.SEQ.AMD_STATUS.NEXT_TICKET + 1) % 256 ∧
      t.seq.amends = s.seq.amends ++ [⟨s.g Reg.SEQ.AMD_STATUS.NEXT_TICKET, fieldGet v 12 3, fieldGet v 0 10, s.g Reg.SEQ.AMD_ARG0.ARG0, s.g Reg.SEQ.AMD_ARG1.ARG1, 0, s.g Reg.SEQ.STATUS.KEY_STATE == 2, 0, windowHeads (s.page (s.g Reg.SEQ.STATUS.LIVE_PAGE)) (fieldGet v 0 10)⟩])

/-- A preset selected by register or by the stable select pins after a strobe is refused, deferred behind a keystone, or read from flash and validated. -/
def Obligations.PresetSelections : Prop :=
  (∀ (dt : Nat) (m : Master) (v : Word) (s : State),
    s.coreOn = true →
    s.mayWrite m.val (0x100B0050) = true →
    Tab.get none (fieldGet v 0 5) s.img.presets = none →
    ∃ t : State, exec (.presetLoad dt m v) s = .next t ∧
      t.g Reg.SEQ.PRESET_STATUS.LAST = fieldGet v 0 5 ∧
      t.g Reg.SEQ.PRESET_STATUS.RESULT = 2 ∧
      t.gb Reg.SEQ.PRESET_STATUS.PENDING = false ∧
      t.evStatus Ev.preset = true) ∧
  (∀ (dt : Nat) (m : Master) (v : Word) (s : State),
    s.coreOn = true →
    s.mayWrite m.val (0x100B0050) = true →
    (Tab.get none (fieldGet v 0 5) s.img.presets).isSome = true →
    s.g Reg.SEQ.STATUS.KEY_STATE = 0 →
    ∃ t : State, exec (.presetLoad dt m v) s = .next t ∧
      t.g Reg.SEQ.PRESET_STATUS.LAST = fieldGet v 0 5 ∧
      t.gb Reg.SEQ.PRESET_STATUS.PENDING = true ∧
      t.seq.preset = .reading) ∧
  (∀ (dt : Nat) (m : Master) (v : Word) (s : State),
    s.coreOn = true →
    s.mayWrite m.val (0x100B0050) = true →
    (Tab.get none (fieldGet v 0 5) s.img.presets).isSome = true →
    s.g Reg.SEQ.STATUS.KEY_STATE ≠ 0 →
    ∃ t : State, exec (.presetLoad dt m v) s = .next t ∧
      t.g Reg.SEQ.PRESET_STATUS.RESULT = 4 ∧
      t.gb Reg.SEQ.PRESET_STATUS.PENDING = true ∧
      t.seq.preset = .deferred) ∧
  (∀ (dt : Nat) (s : State),
    s.coreOn = true →
    s.seq.preset = .deferred →
    s.g Reg.SEQ.STATUS.KEY_STATE = 0 →
    ∃ t : State, exec (.presetDeferredResume dt) s = .next t ∧
      t.seq.preset = .reading) ∧
  (∀ (dt : Nat) (s : State),
    s.coreOn = true →
    s.seq.preset = .reading →
    s.g Reg.SEQ.STATUS.KEY_STATE ≠ 2 →
    ∃ t : State, exec (.presetFlashReadDone dt false) s = .next t ∧
      t.g Reg.SEQ.PRESET_STATUS.RESULT = 5 ∧
      t.seq.preset = .idle ∧
      t.evStatus Ev.preset = true) ∧
  (∀ (dt : Nat) (s : State),
    s.coreOn = true →
    s.gb Reg.SEQ.PRESET_GPIO.ENABLE = true →
    ∃ t : State, exec (.presetStrobe dt) s = .next t ∧
      t.seq.strobe = true ∧
      t.pins.gpio.testBit (s.g Reg.SEQ.PRESET_GPIO.STROBE) = !s.gb Reg.SEQ.PRESET_GPIO.EDGE) ∧
  (∀ (dt : Nat) (s : State),
    s.coreOn = true →
    s.gb Reg.SEQ.PRESET_GPIO.ENABLE = true →
    s.seq.strobe = true →
    s.pinsStable + 1000000 * s.g Reg.SEQ.PRESET_GPIO.DEBOUNCE_MS ≤ s.clock + dt →
    Tab.get none s.presetPins s.img.presets = none →
    s.g Reg.SEQ.PRESET_GPIO.WIDTH ≤ 5 →
    ∃ t : State, exec (.presetSelectSample dt) s = .next t ∧
      t.g Reg.SEQ.PRESET_STATUS.LAST = s.presetPins ∧
      t.g Reg.SEQ.PRESET_STATUS.RESULT = 2 ∧
      t.seq.strobe = false ∧
      t.evStatus Ev.preset = true) ∧
  (∀ (dt : Nat) (s : State),
    s.coreOn = true →
    s.gb Reg.SEQ.PRESET_GPIO.ENABLE = true →
    s.seq.strobe = true →
    s.pinsStable + 1000000 * s.g Reg.SEQ.PRESET_GPIO.DEBOUNCE_MS ≤ s.clock + dt →
    (Tab.get none s.presetPins s.img.presets).isSome = true →
    s.g Reg.SEQ.PRESET_GPIO.WIDTH ≤ 5 →
    ∃ t : State, exec (.presetSelectSample dt) s = .next t ∧
      t.g Reg.SEQ.PRESET_STATUS.LAST = s.presetPins ∧
      t.gb Reg.SEQ.PRESET_STATUS.PENDING = true ∧
      t.seq.strobe = false ∧
      t.seq.preset = (if s.g Reg.SEQ.STATUS.KEY_STATE = 0 then .reading else .deferred)) ∧
  (∀ (dt : Nat) (s : State),
    s.coreOn = true →
    s.seq.preset = .reading →
    s.g Reg.SEQ.STATUS.KEY_STATE ≠ 2 →
    s.g Reg.SEQ.STATUS.VAL_STATE ≠ 1 →
    (Tab.get none (s.g Reg.SEQ.PRESET_STATUS.LAST) s.img.presets).isSome = true →
    ∃ t : State, exec (.presetFlashReadDone dt true) s = .next t ∧
      t.g Reg.SEQ.STATUS.VAL_STATE = 1 ∧
      t.seq.preset = .validating)

/-- A write of TIME.RATE adds L × (old − new) × 2^-40 to OFFSET, rounded to 2^-32 ns, and is a kick. -/
def Obligations.RateWriteKeepsWallTime : Prop :=
  (∀ (dt : Nat) (m : Master) (v : Word) (s : State),
    s.coreOn = true →
    s.mayWrite m.val (0x1006003C) = true →
    ∃ t : State, exec (.rateWrite dt m v) s = .next t ∧
      t.g Reg.TIME.RATE.RATE = v.toNat ∧
      t.time.offset = wrapOffset (s.time.offset + (((s.advance dt).time.count : Int) * (s.gi Reg.TIME.RATE.RATE - signed 32 v.toNat) + 128) / 256) ∧
      t.timeState = s.timeState ∧
      t.time.kickAt = s.clock + dt ∧
      (∀ x, t.byte x = s.byte x) ∧
      (∀ a, a ≠ 0x1006003C → (a < 0x100A0000 ∨ 0x100B0000 ≤ a) → t.reg a = s.reg a)) ∧
  (∀ (dt : Nat) (m : Master) (s : State),
    s.coreOn = true →
    s.mayWrite m.val (0x1006000C) = true →
    ∃ t : State, exec (.timeKick dt m) s = .next t ∧
      t.time.kickAt = s.clock + dt ∧
      (∀ x, t.byte x = s.byte x) ∧
      (∀ a, (a < 0x100A0000 ∨ 0x100B0000 ≤ a) → t.reg a = s.reg a))

/-- The time state changes by the transitions of R81 alone: by request, by the kick timeout and by the holdover limit, with their effects. -/
def Obligations.TimeStatesFollowTheTable : Prop :=
  (∀ (dt : Nat) (m : Master) (x : Fin 4) (s : State),
    s.coreOn = true →
    s.mayWrite m.val (0x10060008) = true →
    (s.timeState, x.val) ∈ [(0, 1), (1, 2), (1, 0), (2, 3), (2, 0), (3, 2), (3, 0)] →
    ∃ t : State, exec (.timeStateRequest dt m x) s = .next t ∧
      t.timeState = x.val ∧
      (x.val = 1 → t.gb Reg.TIME.STATUS.STEP_ARMED = true) ∧
      (s.timeState = 1 → t.gb Reg.TIME.STATUS.STEP_ARMED = false) ∧
      (x.val = 2 → t.evStatus Ev.timeLock = true) ∧
      (s.timeState = 2 → t.evStatus Ev.timeUnlock = true)) ∧
  (∀ (dt : Nat) (m : Master) (x : Fin 4) (s : State),
    s.coreOn = true →
    s.mayWrite m.val (0x10060008) = true →
    (s.timeState, x.val) ∉ [(0, 1), (1, 2), (1, 0), (2, 3), (2, 0), (3, 2), (3, 0)] →
    ∃ t : State, exec (.timeStateRequest dt m x) s = .next t ∧
      t.timeState = s.timeState ∧
      t.gb Reg.TIME.STATUS.STEP_ARMED = s.gb Reg.TIME.STATUS.STEP_ARMED ∧
      t.g Reg.CUS.STATUS.ROLE = s.g Reg.CUS.STATUS.ROLE) ∧
  (∀ (dt : Nat) (s : State),
    s.coreOn = true →
    s.timeState = 2 →
    s.g Reg.TIME.CTRL.KICK_TIMEOUT_MS ≠ 0 →
    s.g Reg.TIME.CTRL.KICK_TIMEOUT_MS * 1000000 ≤ s.clock + dt - s.time.kickAt →
    ∃ t : State, exec (.kickTimeout dt) s = .next t ∧
      t.timeState = 3 ∧
      t.time.holdAt = s.clock + dt ∧
      t.evStatus Ev.timeUnlock = true ∧
      t.g Reg.TIME.RATE.RATE = s.g Reg.TIME.RATE.RATE) ∧
  (∀ (dt : Nat) (s : State),
    s.timeState = 2 →
    s.clock + dt - s.time.kickAt < s.g Reg.TIME.CTRL.KICK_TIMEOUT_MS * 1000000 →
    ∃ t : State, exec (.kickTimeout dt) s = .next t ∧
      t = s.advance dt) ∧
  (∀ (dt : Nat) (s : State),
    s.coreOn = true →
    s.timeState = 3 →
    s.g Reg.TIME.CTRL.HOLDOVER_LIMIT_S ≠ 0 →
    s.g Reg.TIME.CTRL.HOLDOVER_LIMIT_S * 1000000000 ≤ s.clock + dt - s.time.holdAt →
    ∃ t : State, exec (.holdoverLimit dt) s = .next t ∧
      t.timeState = 0 ∧
      t.time.offset = s.time.offset) ∧
  (∀ (dt : Nat) (s : State),
    s.timeState = 3 →
    s.clock + dt - s.time.holdAt < s.g Reg.TIME.CTRL.HOLDOVER_LIMIT_S * 1000000000 →
    ∃ t : State, exec (.holdoverLimit dt) s = .next t ∧
      t = s.advance dt)

/-- TIME.STEP_NS steps OFFSET only while STEP_ARMED is 1 and NS is in range; any other write of it is refused; either clears the step seconds. -/
def Obligations.StepOnceWhileArmed : Prop :=
  (∀ (dt : Nat) (m : Master) (v : Word) (s : State),
    s.coreOn = true →
    s.mayWrite m.val (0x10060040) = true →
    s.gb Reg.TIME.STATUS.STEP_ARMED = true →
    fieldGet v 0 30 ≤ 999999999 →
    ∃ t : State, exec (.timeStep dt m v) s = .next t ∧
      t.time.offset = wrapOffset (s.time.offset + (if fieldGet v 31 1 = 0 then 1 else -1) * ((((s.g Reg.TIME.STEP_SEC_HI.SEC_HI * 2 ^ 32 + s.g Reg.TIME.STEP_SEC_LO.SEC_LO : Nat) : Int) * 1000000000 + (fieldGet v 0 30 : Int)) * 2 ^ 32)) ∧
      t.gb Reg.TIME.STATUS.STEP_ARMED = false ∧
      t.bus.resp = some ⟨false, []⟩ ∧
      t.g Reg.TIME.STEP_SEC_HI.SEC_HI = 0 ∧
      t.g Reg.TIME.STEP_SEC_LO.SEC_LO = 0) ∧
  (∀ (dt : Nat) (m : Master) (v : Word) (s : State),
    s.coreOn = true →
    s.mayWrite m.val (0x10060040) = true →
    (s.gb Reg.TIME.STATUS.STEP_ARMED = false ∨ 999999999 < fieldGet v 0 30) →
    ∃ t : State, exec (.timeStep dt m v) s = .next t ∧
      t.time.offset = s.time.offset ∧
      t.gb Reg.TIME.STATUS.STEP_ARMED = s.gb Reg.TIME.STATUS.STEP_ARMED ∧
      t.bus.resp = some ⟨true, []⟩ ∧
      t.g Reg.TIME.STATUS.REFUSED = min (s.g Reg.TIME.STATUS.REFUSED + 1) (2 ^ Reg.TIME.STATUS.REFUSED.width - 1) ∧
      t.evStatus Ev.timeStepRefused = true ∧
      (bitOf (s.g Reg.ERR.CTRL.LOG_MASK) 1 = true → ∃ r ∈ t.bus.err, r.reason = Rsn.refused ∧ r.addr = 0x10060040) ∧
      t.g Reg.TIME.STEP_SEC_HI.SEC_HI = 0 ∧
      t.g Reg.TIME.STEP_SEC_LO.SEC_LO = 0)

/-- A queue read takes the oldest stamp; an accepted PPS edge is stamped with code 88 and raises EV_PPS; the PPS output rises at whole seconds. -/
def Obligations.StampQueuesAndPps : Prop :=
  (∀ (dt : Nat) (m : Master) (x : Stamp) (rest : List Stamp) (s : State),
    s.coreOn = true →
    s.readsNow m.val = true →
    (m.val ≠ engMaster 23 ∨ s.engRunning 23 = true) →
    s.time.stamps = x :: rest →
    ∃ t : State, exec (.stampQueueRead dt m) s = .next t ∧
      t.time.stamps = rest ∧
      t.bus.resp = some ⟨false, leBytes (BitVec.ofNat 32 (2 ^ 31 + wallNs x.wall)).toNat 4⟩ ∧
      t.snap m.val 0x1006005C = BitVec.ofNat 32 (wallSec x.wall)) ∧
  (∀ (dt : Nat) (m : Master) (s : State),
    s.coreOn = true →
    s.readsNow m.val = true →
    s.time.stamps = [] →
    ∃ t : State, exec (.stampQueueRead dt m) s = .next t ∧
      t.time.stamps = [] ∧
      t.bus.resp = some ⟨false, [0, 0, 0, 0]⟩) ∧
  (∀ (dt : Nat) (m : Master) (p : Fin 16) (x : Stamp) (rest : List Stamp) (s : State),
    s.coreOn = true →
    s.readsNow m.val = true →
    Tab.get [] p.val s.time.txq = x :: rest →
    ∃ t : State, exec (.txqRead dt m p) s = .next t ∧
      Tab.get [] p.val t.time.txq = rest ∧
      t.bus.resp = some ⟨false, leBytes (BitVec.ofNat 32 (2 ^ 31 + wallNs x.wall)).toNat 4⟩ ∧
      t.snap m.val (0x10060204 + 0x10 * p.val) = BitVec.ofNat 32 (wallSec x.wall)) ∧
  (∀ (dt : Nat) (m : Master) (p : Fin 16) (s : State),
    s.coreOn = true →
    s.readsNow m.val = true →
    Tab.get [] p.val s.time.txq = [] →
    ∃ t : State, exec (.txqRead dt m p) s = .next t ∧
      Tab.get [] p.val t.time.txq = [] ∧
      t.bus.resp = some ⟨false, [0, 0, 0, 0]⟩) ∧
  (∀ (dt : Nat) (b : Bool) (s : State),
    s.coreOn = true →
    s.gb Reg.TIME.PPS_CTRL.IN_EN = true →
    s.gb Reg.TIME.PPS_CTRL.IN_EDGE ≠ b →
    s.time.ppsInAt.all (fun c => decide (100000000 ≤ s.clock + dt - c)) = true →
    s.gb Reg.TIME.STAMP_EN.PPS = true →
    s.time.stamps.length < 64 →
    ∃ t : State, exec (.ppsInputEdge dt b) s = .next t ∧
      t.time.stamps = s.time.stamps ++ [⟨(s.advance dt).wall, 88, s.timeState⟩] ∧
      t.time.ppsInAt = some (s.clock + dt) ∧
      t.evStatus Ev.pps = true) ∧
  (∀ (dt c : Nat) (b : Bool) (s : State),
    s.time.ppsInAt = some c →
    s.clock + dt < c + 100000000 →
    ∃ t : State, exec (.ppsInputEdge dt b) s = .next t ∧
      t = s.advance dt) ∧
  (∀ (dt : Nat) (s : State),
    s.ppsDriven = true →
    (wallNs (s.advance dt).wall ≤ 5 ∨ 999999995 ≤ wallNs (s.advance dt).wall) →
    ∃ t : State, exec (.ppsOutputEdge dt) s = .next t ∧
      t.time.ppsOut = true ∧
      t.time.ppsEnd = s.clock + dt + 1000000 * s.g Reg.TIME.PPS_CTRL.OUT_WIDTH_MS ∧
      (s.g Reg.TIME.PPS_CTRL.OUT_WIDTH_MS ≠ 0 → t.ppsLevel = true))

/-- A mode write takes every port of the quad down and sets MODE; LINK rises on block lock without a high bit-error ratio, and falls. -/
def Obligations.NetPortsAndLinks : Prop :=
  (∀ (dt : Nat) (m : Master) (q : Fin 4) (x : Fin 4) (l : Fin 4) (s : State),
    s.coreOn = true →
    s.mayWrite m.val ((Reg.NET.CTRL.MODE q.val).addr) = true →
    (s.quadTests q.val = false ∨ x.val = 0) →
    ∃ t : State, exec (.netModeWrite dt m q x) s = .next t ∧
      t.g (Reg.NET.CTRL.MODE q.val) = x.val ∧
      t.gb (Reg.NET.PORT.LINK q.val l.val) = false) ∧
  (∀ (dt : Nat) (m : Master) (q : Fin 4) (x : Fin 4) (s : State),
    s.coreOn = true →
    s.mayWrite m.val ((Reg.NET.CTRL.MODE q.val).addr) = true →
    s.quadTests q.val = true →
    x.val ≠ 0 →
    ∃ t : State, exec (.netModeWrite dt m q x) s = .next t ∧
      t.g (Reg.NET.CTRL.MODE q.val) = s.g (Reg.NET.CTRL.MODE q.val)) ∧
  (∀ (dt : Nat) (p : Fin 16) (s : State),
    s.coreOn = true →
    s.portLock (p.val / 4) (p.val % 4) = true →
    s.gb (Reg.NET.PORT.LINK (p.val / 4) (p.val % 4)) = false →
    ∃ t : State, exec (.netLinkChange dt p true false) s = .next t ∧
      t.gb (Reg.NET.PORT.LINK (p.val / 4) (p.val % 4)) = true ∧
      t.gb (Reg.NET.PORT.FEC_LOCK (p.val / 4) (p.val % 4)) = s.portFec (p.val / 4) (p.val % 4) ∧
      t.gb (Reg.NET.PORT.HI_BER (p.val / 4) (p.val % 4)) = false ∧
      t.g (Reg.NET.PORT.LINK_CHANGES (p.val / 4) (p.val % 4)) = min (s.g (Reg.NET.PORT.LINK_CHANGES (p.val / 4) (p.val % 4)) + 1) 65535 ∧
      t.evStatus Ev.netLink = true) ∧
  (∀ (dt : Nat) (p : Fin 16) (b : Bool) (s : State),
    s.coreOn = true →
    s.gb (Reg.NET.PORT.LINK (p.val / 4) (p.val % 4)) = true →
    ∃ t : State, exec (.netLinkChange dt p false b) s = .next t ∧
      t.gb (Reg.NET.PORT.LINK (p.val / 4) (p.val % 4)) = false ∧
      t.gb (Reg.NET.PORT.FEC_LOCK (p.val / 4) (p.val % 4)) = false ∧
      t.evStatus Ev.netLink = true) ∧
  (∀ (dt : Nat) (m : Master) (v : Word) (s : State),
    s.coreOn = true →
    s.mayWrite m.val (0x1054000C) = true →
    s.gb Reg.MGMT.MDIO.GO = false →
    ∃ t : State, exec (.mdioTransaction dt m v) s = .next t ∧
      t.gb Reg.MGMT.MDIO.GO = true ∧
      (∀ x, t.byte x = s.byte x)) ∧
  (∀ (dt : Nat) (d : BitVec 16) (s : State),
    s.coreOn = true →
    s.gb Reg.MGMT.MDIO.GO = true →
    ∃ t : State, exec (.mdioDone dt d) s = .next t ∧
      t.gb Reg.MGMT.MDIO.GO = false ∧
      (s.gb Reg.MGMT.MDIO.WRITE = false → t.g Reg.MGMT.MDIO.DATA = d.toNat) ∧
      (s.gb Reg.MGMT.MDIO.WRITE = true → t.g Reg.MGMT.MDIO.DATA = s.g Reg.MGMT.MDIO.DATA) ∧
      (∀ x, t.byte x = s.byte x))

/-- A frame is counted good, bad or pause; a good ARP frame reaches the Curator's queue; a transmitted frame is counted, stamped, or dropped without the grant. -/
def Obligations.NetFrames : Prop :=
  (∀ (dt : Nat) (p : Fin 16) (k : Nat) (bs : List Byte) (ok : Bool) (s : State),
    s.coreOn = true →
    s.gb (Reg.NET.PORT.LINK (p.val / 4) (p.val % 4)) = true →
    s.frameGood (p.val / 4) (p.val % 4) bs ok = true →
    (etherBody bs).1 = 0x0806 →
    (s.net.curator.drop k).length < 256 →
    ({ s with net := { s.net with curator := s.net.curator.drop k } }).quadBytes (p.val / 4) + bs.length ≤ 98304 →
    ∃ t : State, exec (.netFrameReceive dt p k bs ok) s = .next t ∧
      t.g (Reg.NET.PORT.RX_FRAMES (p.val / 4) (p.val % 4)) = (s.g (Reg.NET.PORT.RX_FRAMES (p.val / 4) (p.val % 4)) + 1) % 2 ^ 32 ∧
      t.g (Reg.NET.PORT.RX_BAD (p.val / 4) (p.val % 4)) = s.g (Reg.NET.PORT.RX_BAD (p.val / 4) (p.val % 4)) ∧
      t.net.curator = s.net.curator.drop k ++ [(p.val, (s.advance dt).wall, untagged bs)]) ∧
  (∀ (dt : Nat) (p : Fin 16) (k : Nat) (bs : List Byte) (ok : Bool) (s : State),
    s.coreOn = true →
    s.gb (Reg.NET.PORT.LINK (p.val / 4) (p.val % 4)) = true →
    s.frameGood (p.val / 4) (p.val % 4) bs ok = true →
    ∃ t : State, exec (.netFrameReceive dt p k bs ok) s = .next t ∧
      t.g (Reg.NET.PORT.RX_FRAMES (p.val / 4) (p.val % 4)) = (s.g (Reg.NET.PORT.RX_FRAMES (p.val / 4) (p.val % 4)) + 1) % 2 ^ 32 ∧
      t.g (Reg.NET.PORT.RX_BAD (p.val / 4) (p.val % 4)) = s.g (Reg.NET.PORT.RX_BAD (p.val / 4) (p.val % 4))) ∧
  (∀ (dt : Nat) (p : Fin 16) (k : Nat) (bs : List Byte) (ok : Bool) (s : State),
    s.coreOn = true →
    s.gb (Reg.NET.PORT.LINK (p.val / 4) (p.val % 4)) = true →
    s.frameGood (p.val / 4) (p.val % 4) bs ok = false →
    beAt bs 12 2 ≠ 0x8808 →
    ∃ t : State, exec (.netFrameReceive dt p k bs ok) s = .next t ∧
      t.g (Reg.NET.PORT.RX_BAD (p.val / 4) (p.val % 4)) = (s.g (Reg.NET.PORT.RX_BAD (p.val / 4) (p.val % 4)) + 1) % 2 ^ 32 ∧
      t.g (Reg.NET.PORT.RX_FRAMES (p.val / 4) (p.val % 4)) = s.g (Reg.NET.PORT.RX_FRAMES (p.val / 4) (p.val % 4)) ∧
      t.srcs = s.srcs ∧
      t.net.waiting = s.net.waiting ∧
      (∀ x, t.byte x = s.byte x)) ∧
  (∀ (dt : Nat) (p : Fin 16) (k : Nat) (bs : List Byte) (s : State),
    s.coreOn = true →
    s.gb (Reg.NET.PORT.LINK (p.val / 4) (p.val % 4)) = true →
    64 ≤ bs.length →
    beAt bs 12 2 = 0x8808 →
    ∃ t : State, exec (.netFrameReceive dt p k bs true) s = .next t ∧
      t.g (Reg.NET.PORT.RX_PAUSE (p.val / 4) (p.val % 4)) = (s.g (Reg.NET.PORT.RX_PAUSE (p.val / 4) (p.val % 4)) + 1) % 2 ^ 32 ∧
      t.g (Reg.NET.PORT.RX_BAD (p.val / 4) (p.val % 4)) = s.g (Reg.NET.PORT.RX_BAD (p.val / 4) (p.val % 4)) ∧
      t.g (Reg.NET.PORT.RX_FRAMES (p.val / 4) (p.val % 4)) = s.g (Reg.NET.PORT.RX_FRAMES (p.val / 4) (p.val % 4)) ∧
      t.srcs = s.srcs ∧
      t.net.waiting = s.net.waiting ∧
      (∀ x, t.byte x = s.byte x)) ∧
  (∀ (dt : Nat) (p : Fin 16) (bs : List Byte) (a : Bool) (s : State),
    s.coreOn = true →
    s.gb (Reg.NET.PORT.LINK (p.val / 4) (p.val % 4)) = true →
    (a = true → s.granted = true) →
    ∃ t : State, exec (.netFrameTransmit dt p bs ⟨none, a⟩) s = .next t ∧
      t.g (Reg.NET.PORT.TX_FRAMES (p.val / 4) (p.val % 4)) = (s.g (Reg.NET.PORT.TX_FRAMES (p.val / 4) (p.val % 4)) + 1) % 2 ^ 32 ∧
      Tab.get [] p.val t.net.sent = [bs] ∧
      t.time.txq = s.time.txq ∧
      (∀ x, t.byte x = s.byte x)) ∧
  (∀ (dt : Nat) (p : Fin 16) (bs : List Byte) (g : BitVec 16) (a : Bool) (s : State),
    s.coreOn = true →
    s.gb (Reg.NET.PORT.LINK (p.val / 4) (p.val % 4)) = true →
    (a = true → s.granted = true) →
    (Tab.get [] p.val s.time.txq).length < 32 →
    ∃ t : State, exec (.netFrameTransmit dt p bs ⟨some g, a⟩) s = .next t ∧
      t.g (Reg.NET.PORT.TX_FRAMES (p.val / 4) (p.val % 4)) = (s.g (Reg.NET.PORT.TX_FRAMES (p.val / 4) (p.val % 4)) + 1) % 2 ^ 32 ∧
      Tab.get [] p.val t.time.txq = Tab.get [] p.val s.time.txq ++ [⟨(s.advance dt).wall, g.toNat, s.timeState⟩]) ∧
  (∀ (dt : Nat) (p : Fin 16) (bs : List Byte) (g : Option (BitVec 16)) (s : State),
    s.granted = false →
    ∃ t : State, exec (.netFrameTransmit dt p bs ⟨g, true⟩) s = .next t ∧
      t = s.advance dt)

/-- A stream engine takes its next datagram: media is counted and received, or counted BAD; a sender report sets the time map. -/
def Obligations.MediaPackets : Prop :=
  (∀ (dt : Nat) (e : Fin 16) (d : NetDgram) (s : State),
    s.nextDgram e.val = some d →
    d.entry < 512 →
    d.rtcp = false →
    s.g (Reg.ING.SRC.TYPE d.entry) = 7 →
    ∃ t : State, exec (.mediaPacket dt e) s = .next t ∧
      t.g (Reg.ING.SRC.DISCARDED d.entry) = (s.g (Reg.ING.SRC.DISCARDED d.entry) + 1) % 2 ^ 32 ∧
      t.g (Reg.ING.SRC.STATE d.entry) = 2 ∧
      t.net.waiting = s.net.waiting.erase d) ∧
  (∀ (dt : Nat) (e : Fin 16) (d : NetDgram) (s : State),
    s.nextDgram e.val = some d →
    d.entry < 512 →
    d.rtcp = false →
    (1 ≤ s.g (Reg.ING.SRC.TYPE d.entry) ∧ s.g (Reg.ING.SRC.TYPE d.entry) ≤ 3) →
    rtpOf d.data = none →
    ∃ t : State, exec (.mediaPacket dt e) s = .next t ∧
      t.g (Reg.ING.SRC.BAD d.entry) = (s.g (Reg.ING.SRC.BAD d.entry) + 1) % 2 ^ 32 ∧
      t.g (Reg.ING.SRC.STATE d.entry) = s.g (Reg.ING.SRC.STATE d.entry) ∧
      t.g (Reg.ING.SRC.PKTS d.entry) = s.g (Reg.ING.SRC.PKTS d.entry) ∧
      t.net.waiting = s.net.waiting.erase d ∧
      (∀ x, t.byte x = s.byte x)) ∧
  (∀ (dt : Nat) (e : Fin 16) (d : NetDgram) (r : Rtp) (s : State),
    s.nextDgram e.val = some d →
    d.entry < 512 →
    d.rtcp = false →
    (1 ≤ s.g (Reg.ING.SRC.TYPE d.entry) ∧ s.g (Reg.ING.SRC.TYPE d.entry) ≤ 3) →
    rtpOf d.data = some r →
    s.rtpFits d.entry r = false →
    ∃ t : State, exec (.mediaPacket dt e) s = .next t ∧
      t.g (Reg.ING.SRC.BAD d.entry) = (s.g (Reg.ING.SRC.BAD d.entry) + 1) % 2 ^ 32 ∧
      t.g (Reg.ING.SRC.STATE d.entry) = s.g (Reg.ING.SRC.STATE d.entry) ∧
      t.net.waiting = s.net.waiting.erase d ∧
      (∀ x, t.byte x = s.byte x)) ∧
  (∀ (dt : Nat) (e : Fin 16) (d : NetDgram) (s : State),
    s.nextDgram e.val = some d →
    d.entry < 512 →
    d.rtcp = false →
    s.g (Reg.ING.SRC.TYPE d.entry) = 4 →
    s.gb (Reg.ING.SRC.TS_RTP d.entry) = false →
    tsGood d.data = true →
    ∃ t : State, exec (.mediaPacket dt e) s = .next t ∧
      t.g (Reg.ING.SRC.PKTS d.entry) = (s.g (Reg.ING.SRC.PKTS d.entry) + 1) % 2 ^ 32 ∧
      t.g (Reg.ING.SRC.STATE d.entry) = 2 ∧
      t.g (Reg.ING.SRC.BAD d.entry) = s.g (Reg.ING.SRC.BAD d.entry) ∧
      t.net.waiting = s.net.waiting.erase d) ∧
  (∀ (dt : Nat) (e : Fin 16) (d : NetDgram) (r : Rtp) (x : List Srd) (s : State),
    s.nextDgram e.val = some d →
    d.entry < 512 →
    d.rtcp = false →
    s.g (Reg.ING.SRC.TYPE d.entry) = 1 →
    rtpOf d.data = some r →
    s.rtpFits d.entry r = true →
    s.srdsOf d.entry r.payload = some x →
    (s.src d.entry).opens = [] →
    (s.src d.entry).isLate r.ts (((x.head?).map (fun y => y.field)).getD 0 % (if s.gb (Reg.ING.SRC.INTERLACED d.entry) then 2 else 1)) = false →
    ∃ t : State, exec (.mediaPacket dt e) s = .next t ∧
      t.g (Reg.ING.SRC.SEQUENCE d.entry) = (s.g (Reg.ING.SRC.SEQUENCE d.entry) + 1) % 2 ^ 32 ∧
      t.g (Reg.ING.SRC.PKTS d.entry) = (s.g (Reg.ING.SRC.PKTS d.entry) + 1) % 2 ^ 32 ∧
      t.g (Reg.ING.SRC.STATE d.entry) = 2 ∧
      t.net.waiting = s.net.waiting.erase d) ∧
  (∀ (dt : Nat) (e : Fin 16) (d : NetDgram) (s : State),
    s.nextDgram e.val = some d →
    d.entry < 512 →
    d.rtcp = true →
    beAt d.data 0 1 / 64 = 2 →
    beAt d.data 1 1 = 200 →
    28 ≤ d.data.length →
    ∃ t : State, exec (.rtcpSenderReport dt e) s = .next t ∧
      t.gb (Reg.ING.SRC.SR_VALID d.entry) = true ∧
      t.g (Reg.ING.SRC.SR_RTP d.entry) = beAt d.data 16 4 ∧
      t.g (Reg.ING.SRC.SR_NS d.entry) = beAt d.data 12 4 * 1000000000 / 2 ^ 32 ∧
      ((t.g (Reg.ING.SRC.SR_SEC_LO d.entry) : Int) - (beAt d.data 8 4 - 2208988800 + s.g Reg.ING.CTRL.TAI_UTC)) % 2 ^ 32 = 0 ∧
      (t.src d.entry).srAt = s.clock + dt ∧
      t.net.waiting = s.net.waiting.erase d)

/-- Enabling a source entry runs its checks and starts it or reports the failed one; disabling stops it; silence makes it LOST, its paths dead, its report invalid. -/
def Obligations.SourceBindingAndSilence : Prop :=
  (∀ (dt : Nat) (m : Master) (i : Fin 512) (s : State),
    s.coreOn = true →
    s.mayWrite m.val ((Reg.ING.SRC.ENABLE i.val).addr) = true →
    s.gb (Reg.ING.SRC.ENABLE i.val) = false →
    s.bindCheck i.val = 0 →
    ∃ t : State, exec (.sourceEnable dt m i) s = .next t ∧
      t.gb (Reg.ING.SRC.ENABLE i.val) = true ∧
      t.g Reg.ING.BIND_RESULT.RESULT = 0 ∧
      t.g Reg.ING.BIND_RESULT.INDEX = i.val ∧
      t.g (Reg.ING.SRC.STATE i.val) = 1 ∧
      t.g (Reg.ING.SRC.PKTS i.val) = 0 ∧
      t.g (Reg.ING.SRC.FRAMES i.val) = 0) ∧
  (∀ (dt : Nat) (m : Master) (i : Fin 512) (s : State),
    s.coreOn = true →
    s.mayWrite m.val ((Reg.ING.SRC.ENABLE i.val).addr) = true →
    s.gb (Reg.ING.SRC.ENABLE i.val) = false →
    s.bindCheck i.val ≠ 0 →
    ∃ t : State, exec (.sourceEnable dt m i) s = .next t ∧
      t.gb (Reg.ING.SRC.ENABLE i.val) = false ∧
      t.g Reg.ING.BIND_RESULT.RESULT = s.bindCheck i.val ∧
      t.g Reg.ING.BIND_RESULT.INDEX = i.val ∧
      (∀ x, t.byte x = s.byte x)) ∧
  (∀ (dt : Nat) (m : Master) (i : Fin 512) (s : State),
    s.coreOn = true →
    s.mayWrite m.val ((Reg.ING.SRC.ENABLE i.val).addr) = true →
    s.gb (Reg.ING.SRC.ENABLE i.val) = true →
    ∃ t : State, exec (.sourceDisable dt m i) s = .next t ∧
      t.gb (Reg.ING.SRC.ENABLE i.val) = false ∧
      t.g (Reg.ING.SRC.STATE i.val) = 0) ∧
  (∀ (dt : Nat) (i : Fin 512) (s : State),
    s.coreOn = true →
    s.isNet i.val = true →
    s.gb (Reg.ING.SRC.ENABLE i.val) = true →
    s.g (Reg.ING.SRC.STATE i.val) = 2 →
    s.lastPacket i.val + 1000000 * s.g Reg.ING.CTRL.LOST_MS ≤ s.clock + dt →
    ∃ t : State, exec (.sourceLostTimeout dt i) s = .next t ∧
      t.g (Reg.ING.SRC.STATE i.val) = 3 ∧
      t.evStatus Ev.srcLost = true) ∧
  (∀ (dt : Nat) (i : Fin 512) (s : State),
    s.clock + dt < s.lastPacket i.val + 1000000 * s.g Reg.ING.CTRL.LOST_MS →
    ∃ t : State, exec (.sourceLostTimeout dt i) s = .next t ∧
      t = s.advance dt) ∧
  (∀ (dt : Nat) (i : Fin 512) (c : Nat) (s : State),
    s.coreOn = true →
    s.gb (Reg.ING.SRC.ENABLE i.val) = true →
    s.gb (Reg.ING.SRC.DUAL i.val) = true →
    (s.src i.val).atB = some c →
    c + 1000000 * s.g (Reg.ING.SRC.PATH_WINDOW_MS i.val) ≤ s.clock + dt →
    ∃ t : State, exec (.pathLivenessExpire dt i true) s = .next t ∧
      t.gb (Reg.ING.SRC.PATH_B_UP i.val) = false ∧
      t.gb (Reg.ING.SRC.PATH_A_UP i.val) = s.gb (Reg.ING.SRC.PATH_A_UP i.val)) ∧
  (∀ (dt : Nat) (i : Fin 512) (c : Nat) (s : State),
    s.coreOn = true →
    s.gb (Reg.ING.SRC.ENABLE i.val) = true →
    s.gb (Reg.ING.SRC.DUAL i.val) = true →
    (s.src i.val).atA = some c →
    c + 1000000 * s.g (Reg.ING.SRC.PATH_WINDOW_MS i.val) ≤ s.clock + dt →
    ∃ t : State, exec (.pathLivenessExpire dt i false) s = .next t ∧
      t.gb (Reg.ING.SRC.PATH_A_UP i.val) = false ∧
      t.gb (Reg.ING.SRC.PATH_B_UP i.val) = s.gb (Reg.ING.SRC.PATH_B_UP i.val)) ∧
  (∀ (dt : Nat) (i : Fin 512) (s : State),
    s.coreOn = true →
    (s.src i.val).srAt + 1000000000 * s.g Reg.ING.CTRL2.SR_TIMEOUT_S ≤ s.clock + dt →
    ∃ t : State, exec (.srTimeout dt i) s = .next t ∧
      t.gb (Reg.ING.SRC.SR_VALID i.val) = false ∧
      (∀ x, t.byte x = s.byte x))

/-- Writing a buffer ID to HEAD.RELEASE frees, defers or refuses by the state at the write, with LAST_RESULT. -/
def Obligations.ReleaseOutcomes : Prop :=
  (∀ (dt : Nat) (m : Master) (b : Fin 4096) (s : State),
    s.coreOn = true →
    s.mayWrite m.val (0x10440000) = true →
    (s.bufState b.val = Bs.free ∨ s.bufState b.val = Bs.ready) →
    (s.buf b.val).leases = [] →
    ∃ t : State, exec (.bufferRelease dt m b) s = .next t ∧
      t.bufState b.val = Bs.releasing ∧
      t.g Reg.HEAD.REL_STATUS.LAST_RESULT = 0 ∧
      t.rel = s.rel ++ [(b.val, false)] ∧
      (∀ x, t.byte x = s.byte x)) ∧
  (∀ (dt : Nat) (m : Master) (b : Fin 4096) (s : State),
    s.coreOn = true →
    s.mayWrite m.val (0x10440000) = true →
    (s.bufState b.val = Bs.free ∨ s.bufState b.val = Bs.ready) →
    (s.buf b.val).leases ≠ [] →
    ∃ t : State, exec (.bufferRelease dt m b) s = .next t ∧
      t.bufState b.val = Bs.releasing ∧
      t.g Reg.HEAD.REL_STATUS.LAST_RESULT = 1 ∧
      t.rel = s.rel ∧
      t.evStatus Ev.releaseDeferred = true) ∧
  (∀ (dt : Nat) (m : Master) (b : Fin 4096) (s : State),
    s.coreOn = true →
    s.mayWrite m.val (0x10440000) = true →
    s.bufState b.val = Bs.filling →
    ∃ t : State, exec (.bufferRelease dt m b) s = .next t ∧
      t.bufState b.val = Bs.filling ∧
      t.g Reg.HEAD.REL_STATUS.LAST_RESULT = 2 ∧
      t.bus.resp = some ⟨true, []⟩ ∧
      t.rel = s.rel ∧
      (∀ x, t.byte x = s.byte x)) ∧
  (∀ (dt : Nat) (m : Master) (b : Fin 4096) (s : State),
    s.coreOn = true →
    s.mayWrite m.val (0x10440000) = true →
    s.bufState b.val = Bs.releasing →
    ∃ t : State, exec (.bufferRelease dt m b) s = .next t ∧
      t.bufState b.val = Bs.releasing ∧
      t.g Reg.HEAD.REL_STATUS.LAST_RESULT = 3 ∧
      t.rel = s.rel ∧
      (∀ x, t.byte x = s.byte x)) ∧
  (∀ (dt : Nat) (b : Fin 4096) (f : Bool) (rest : List (Nat × Bool)) (s : State),
    s.coreOn = true →
    s.rel = (b.val, f) :: rest →
    s.relBlocked = false →
    s.bufState b.val = Bs.releasing →
    s.inDram (4096 * s.g Reg.HEAD.REL_RING_BASE.ADDR + 16 * s.g Reg.HEAD.REL_RING_WR.INDEX) 16 = true →
    s.draining 43 = false →
    ∃ t : State, exec (.releaseCompletion dt) s = .next t ∧
      t.rel = rest ∧
      t.bufState b.val = Bs.free ∧
      t.gb Reg.HEAD.REL_STATUS.STALL = false ∧
      t.g Reg.HEAD.REL_RING_WR.INDEX = (s.g Reg.HEAD.REL_RING_WR.INDEX + 1) % 2 ^ s.g Reg.HEAD.REL_RING_SIZE.LOG2 % 4096 ∧
      t.bytes (4096 * s.g Reg.HEAD.REL_RING_BASE.ADDR + 16 * s.g Reg.HEAD.REL_RING_WR.INDEX) 16 = leBytes b.val 2 ++ leBytes f.toNat 1 ++ leBytes 0 5 ++ leBytes (s.advance dt).time.count 8 ∧
      (∀ x, x < (4096 * s.g Reg.HEAD.REL_RING_BASE.ADDR + 16 * s.g Reg.HEAD.REL_RING_WR.INDEX) ∨ (4096 * s.g Reg.HEAD.REL_RING_BASE.ADDR + 16 * s.g Reg.HEAD.REL_RING_WR.INDEX) + 16 ≤ x → t.byte x = s.byte x)) ∧
  (∀ (dt : Nat) (b : Fin 4096) (f : Bool) (rest : List (Nat × Bool)) (s : State),
    s.coreOn = true →
    s.rel = (b.val, f) :: rest →
    s.relBlocked = true →
    ∃ t : State, exec (.releaseCompletion dt) s = .next t ∧
      t.rel = s.rel ∧
      t.gb Reg.HEAD.REL_STATUS.STALL = true ∧
      t.bufState b.val = s.bufState b.val)

/-- HOST_READY fills a buffer of an enabled HOST entry from its write on, and its closure makes it READY with the next SEQUENCE. -/
def Obligations.HostBuffers : Prop :=
  (∀ (dt : Nat) (m : Master) (b : Fin 4096) (i : Nat) (s : State),
    s.coreOn = true →
    s.mayWrite m.val (0x10100010) = true →
    (s.buf b.val).leases = [] →
    s.bufState b.val ≠ Bs.filling →
    s.hostEntry b.val = some i →
    ∃ t : State, exec (.hostReady dt m b) s = .next t ∧
      t.bufState b.val = Bs.filling ∧
      t.g (Reg.ING.BUF.ROW_MARK b.val) = 0 ∧
      t.g (Reg.ING.SRC.SEQUENCE i) = (s.g (Reg.ING.SRC.SEQUENCE i) + 1) % 2 ^ 32 ∧
      (t.buf b.val).host = some ((s.advance dt).wall, t.g (Reg.ING.SRC.SEQUENCE i), i)) ∧
  (∀ (dt : Nat) (m : Master) (b : Fin 4096) (s : State),
    s.coreOn = true →
    s.mayWrite m.val (0x10100010) = true →
    (s.buf b.val).leases ≠ [] →
    ∃ t : State, exec (.hostReady dt m b) s = .next t ∧
      t.bufState b.val = s.bufState b.val ∧
      t.bus.resp = some ⟨true, []⟩ ∧
      t.evStatus Ev.leaseViolation = true ∧
      t.srcs = s.srcs) ∧
  (∀ (dt : Nat) (b : Fin 4096) (w : Int) (q : Nat) (i : Fin 512) (s : State),
    s.coreOn = true →
    (s.buf b.val).host = some (w, q, i.val) →
    s.bufState b.val = Bs.filling →
    ∃ t : State, exec (.hostReadyClose dt b) s = .next t ∧
      t.bufState b.val = Bs.ready ∧
      (t.buf b.val).host = none ∧
      t.g (Reg.ING.SRC.FRAMES i.val) = (s.g (Reg.ING.SRC.FRAMES i.val) + 1) % 2 ^ 32)

/-- The scheduler starts the next ready record on a free pipe, resumes or preempts, and a job that ends frees its pipe. -/
def Obligations.DecodeJobs : Prop :=
  (∀ (dt : Nat) (n : Fin 8) (au : AuFacts) (i a : Nat) (s : State),
    s.coreOn = true →
    s.decCandidate = some i →
    s.recordBase i = some a →
    s.g (Reg.DEC.CTX.STATE i) = 2 →
    au.sps = none →
    au.rasl = false →
    au.nonRef = false →
    (s.advance dt).pipeTakes n.val (s.g (Reg.DEC.CTX.CLASS i)) = true →
    ∃ t : State, exec (.decodeDispatch dt n au) s = .next t ∧
      (t.dpipe n.val).job.map (fun j => j.ctx) = some i ∧
      (t.dpipe n.val).susp = (s.dpipe n.val).susp ∧
      t.g (Reg.DEC.CTX.STATE i) = 4) ∧
  (∀ (dt : Nat) (n : Fin 8) (au : AuFacts) (j : DecJob) (s : State),
    s.coreOn = true →
    s.decCandidate = none →
    (s.dpipe n.val).job = none →
    (s.dpipe n.val).susp = some j →
    (s.dpipe n.val).times.inPhase (s.clock + dt) = false →
    j.ctx < 512 →
    ∃ t : State, exec (.decodeDispatch dt n au) s = .next t ∧
      (∃ d ≤ 30000, (t.dpipe n.val).job = some { j with ranAt := s.clock + dt + d }) ∧
      (t.dpipe n.val).susp = none ∧
      t.g (Reg.DEC.CTX.STATE j.ctx) = 4) ∧
  (∀ (dt : Nat) (n : Fin 8) (turn : DecTurn) (i a : Nat) (j : DecJob) (s : State),
    s.coreOn = true →
    (s.dpipe n.val).job = some j →
    j.gone = false →
    j.ctx < 512 →
    ((turn.front.map (fun e => (s.advance dt).jobFront n.val j e)).getD (s.advance dt)).decCandidate = some i →
    ((turn.front.map (fun e => (s.advance dt).jobFront n.val j e)).getD (s.advance dt)).recordBase i = some a →
    ((turn.front.map (fun e => (s.advance dt).jobFront n.val j e)).getD (s.advance dt)).g (Reg.DEC.CTX.STATE i) = 2 →
    ((turn.front.map (fun e => (s.advance dt).jobFront n.val j e)).getD (s.advance dt)).g (Reg.DEC.CTX.CLASS i) = 0 →
    ((turn.front.map (fun e => (s.advance dt).jobFront n.val j e)).getD (s.advance dt)).victim = some n.val →
    (List.range 8).all (fun k => !((turn.front.map (fun e => (s.advance dt).jobFront n.val j e)).getD (s.advance dt)).pipeTakes k 0) = true →
    turn.au.sps = none →
    turn.au.rasl = false →
    turn.au.nonRef = false →
    ∃ t : State, exec (.decodePreempt dt n turn) s = .next t ∧
      t.g (Reg.DEC.PREEMPTS.COUNT n.val) = (s.g (Reg.DEC.PREEMPTS.COUNT n.val) + 1) % 2 ^ 32 ∧
      (t.dpipe n.val).job.map (fun j => j.ctx) = some i ∧
      (t.dpipe n.val).susp.map (fun j => j.ctx) = some j.ctx ∧
      t.g (Reg.DEC.CTX.STATE j.ctx) = 5) ∧
  (∀ (dt : Nat) (n : Fin 8) (e : DecEnd) (j : DecJob) (s : State),
    s.coreOn = true →
    (s.dpipe n.val).job = some j →
    j.gone = false →
    j.ctx < 512 →
    ∃ t : State, exec (.decodeJobDone dt n e) s = .next t ∧
      (t.dpipe n.val).job = none ∧
      (t.dpipe n.val).susp = (s.dpipe n.val).susp ∧
      t.g (Reg.DEC.JOBS.COUNT n.val) = (s.g (Reg.DEC.JOBS.COUNT n.val) + 1) % 2 ^ 32 ∧
      t.g (Reg.DEC.CTX.STATE j.ctx) = 2) ∧
  (∀ (dt : Nat) (n : Fin 8) (e : DecEnd) (j : DecJob) (s : State),
    s.coreOn = true →
    (s.dpipe n.val).job = some j →
    j.gone = true →
    ∃ t : State, exec (.decodeJobDone dt n e) s = .next t ∧
      (t.dpipe n.val).job = none ∧
      t.g (Reg.DEC.JOBS.COUNT n.val) = s.g (Reg.DEC.JOBS.COUNT n.val) ∧
      t.srcs = s.srcs ∧
      t.dec.ctxs = s.dec.ctxs ∧
      (∀ x, t.byte x = s.byte x))

/-- A watchdog or an access fault aborts the job, records it in the fault log and raises EV_DEC_FAULT; pipes are enabled with a save area in DRAM. -/
def Obligations.DecodeAbortsAndPipes : Prop :=
  (∀ (dt : Nat) (n : Fin 8) (e : DecEnd) (j : DecJob) (s : State),
    s.coreOn = true →
    (s.dpipe n.val).job = some j →
    j.gone = false →
    j.ctx < 512 →
    j.limit ≤ j.used + (s.clock + dt - j.ranAt) * 4 / 5 →
    s.dec.faults.length < 16 →
    ∃ t : State, exec (.decodeWatchdog dt n e) s = .next t ∧
      (t.dpipe n.val).job = none ∧
      t.g (Reg.DEC.ABORTS.COUNT n.val) = (s.g (Reg.DEC.ABORTS.COUNT n.val) + 1) % 2 ^ 32 ∧
      t.dec.faults = s.dec.faults ++ [⟨n.val, j.ctx, 3, 0, j.seq⟩] ∧
      t.evStatus Ev.decFault = true) ∧
  (∀ (dt : Nat) (n : Fin 8) (f : JobFault) (a : BitVec 36) (e : DecEnd) (j : DecJob) (s : State),
    s.coreOn = true →
    (s.dpipe n.val).job = some j →
    j.gone = false →
    j.ctx < 512 →
    s.dec.faults.length < 16 →
    (f = .sbxRead → s.decWindow n.val j a.toNat false = false) →
    (f = .sbxWrite → s.decWindow n.val j a.toNat true = false) →
    (f = .busError → (s.decWindow n.val j a.toNat false = true ∨ s.decWindow n.val j a.toNat true = true)) →
    ∃ t : State, exec (.decodeAccessFault dt n f a e) s = .next t ∧
      (t.dpipe n.val).job = none ∧
      t.g (Reg.DEC.ABORTS.COUNT n.val) = (s.g (Reg.DEC.ABORTS.COUNT n.val) + 1) % 2 ^ 32 ∧
      t.dec.faults = s.dec.faults ++ [⟨n.val, j.ctx, (match f with | .sbxRead => 1 | .sbxWrite => 2 | .storeEcc => 4 | .busError => 5), (if f = .storeEcc then 0 else a.toNat), j.seq⟩] ∧
      t.evStatus Ev.decFault = true) ∧
  (∀ (dt : Nat) (n : Fin 8) (f : JobFault) (a : BitVec 36) (e : DecEnd) (j : DecJob) (s : State),
    s.coreOn = true →
    (s.dpipe n.val).job = some j →
    ((f = .sbxRead ∧ s.decWindow n.val j a.toNat false = true) ∨ (f = .sbxWrite ∧ s.decWindow n.val j a.toNat true = true)) →
    ∃ t : State, exec (.decodeAccessFault dt n f a e) s = .next t ∧
      t = s.advance dt) ∧
  (∀ (dt : Nat) (m : Master) (n : Fin 8) (s : State),
    s.coreOn = true →
    s.mayWrite m.val ((Reg.DEC.CTRL.ENABLE n.val).addr) = true →
    s.inDram (4096 * s.g (Reg.DEC.SAVE_BASE.ADDR n.val)) 262144 = true →
    ∃ t : State, exec (.decPipeEnable dt m n) s = .next t ∧
      t.gb (Reg.DEC.CTRL.ENABLE n.val) = true ∧
      (t.g Reg.CLK.RUNNING).testBit 3 = true) ∧
  (∀ (dt : Nat) (m : Master) (n : Fin 8) (s : State),
    s.coreOn = true →
    s.mayWrite m.val ((Reg.DEC.CTRL.ENABLE n.val).addr) = true →
    s.inDram (4096 * s.g (Reg.DEC.SAVE_BASE.ADDR n.val)) 262144 = false →
    ∃ t : State, exec (.decPipeEnable dt m n) s = .next t ∧
      t.gb (Reg.DEC.CTRL.ENABLE n.val) = false) ∧
  (∀ (dt : Nat) (m : Master) (n : Fin 8) (s : State),
    s.coreOn = true →
    s.mayWrite m.val ((Reg.DEC.CTRL.ENABLE n.val).addr) = true →
    ∃ t : State, exec (.decPipeDisable dt m n) s = .next t ∧
      t.gb (Reg.DEC.CTRL.ENABLE n.val) = false ∧
      t.dpipe n.val = s.dpipe n.val ∧
      (∀ x, t.byte x = s.byte x)) ∧
  (∀ (dt : Nat) (m : Master) (f : DecFault) (rest : List DecFault) (s : State),
    s.coreOn = true →
    s.readsNow m.val = true →
    s.dec.faults = f :: rest →
    ∃ t : State, exec (.decFaultRead dt m) s = .next t ∧
      t.dec.faults = rest ∧
      t.bus.resp = some ⟨false, leBytes (BitVec.ofNat 32 (2 ^ 31 + f.ctx * 2 ^ 16 + f.pipe * 2 ^ 8 + f.cause)).toNat 4⟩ ∧
      t.snap m.val 0x10208020 = BitVec.ofNat 32 f.seq) ∧
  (∀ (dt : Nat) (m : Master) (s : State),
    s.coreOn = true →
    s.mayWrite m.val (0x10208008) = true →
    ∃ t : State, exec (.decPeakClear dt m) s = .next t ∧
      t.g Reg.DEC.LOAD.PEAK_MPIX = (s.advance dt).decLoad ∧
      t.dec = s.dec)

/-- A frame start opens a frame at a capture port, rows enter its store while it has room, and a frame closes, is cut short, is overlong or is dropped. -/
def Obligations.CaptureFrames : Prop :=
  (∀ (dt : Nat) (p : Fin 4) (xy : List Nat) (l : Bool) (s : State),
    s.coreOn = true →
    s.gb (Reg.CAP.ENABLE p.val) = true →
    ((s.advance dt).xyAll p.val xy).frameBegins p.val l = true →
    ∃ t : State, exec (.captureFrameStart dt p ⟨xy, l⟩) s = .next t ∧
      t.gb (Reg.CAP.IN_FRAME p.val) = true ∧
      (t.cport p.val).begun = some ((s.advance dt).wall, (s.advance dt).time.count) ∧
      (t.cport p.val).frame = none ∧
      (t.cport p.val).rowsIn = 0 ∧
      (t.cport p.val).store = [] ∧
      ((s.cport p.val).frame = none → ∀ k, s.ctxOf p.val = some k → t.g (Reg.ISP.CTX.STATE k.1 k.2) = 2)) ∧
  (∀ (dt : Nat) (p : Fin 4) (xy ys cs : List Nat) (l : Bool) (v : List Nat × List Nat) (f : CapFrame) (s : State),
    s.coreOn = true →
    s.gb (Reg.CAP.ENABLE p.val) = true →
    (s.cport p.val).frame = some f →
    (((s.advance dt).xyAll p.val xy).rowOfLine p.val l ys cs).2 = some v →
    (s.ctxOf p.val).isSome = true →
    (s.cport p.val).rowsIn < s.capH p.val →
    ((s.cport p.val).store.length + 1) * rowEntries (s.capW p.val) ≤ 64 →
    ∃ t : State, exec (.captureRow dt p ⟨xy, l⟩ ys cs) s = .next t ∧
      (t.cport p.val).store = (s.cport p.val).store ++ [s.fitRow p.val v.1 v.2] ∧
      (t.cport p.val).rowsIn = (s.cport p.val).rowsIn + 1 ∧
      (t.cport p.val).last = s.fitRow p.val v.1 v.2 ∧
      t.g (Reg.CAP.ROW_ERR p.val) = (if v.1.length = s.capW p.val then s.g (Reg.CAP.ROW_ERR p.val) else (s.g (Reg.CAP.ROW_ERR p.val) + 1) % 65536) ∧
      (t.cport p.val).frame = some f ∧
      (∀ x, t.byte x = s.byte x)) ∧
  (∀ (dt : Nat) (p : Fin 4) (xy ys cs : List Nat) (l : Bool) (v : List Nat × List Nat) (f : CapFrame) (s : State),
    s.coreOn = true →
    s.gb (Reg.CAP.ENABLE p.val) = true →
    (s.cport p.val).frame = some f →
    (f.disp < 4096 ∧ f.code.all (fun b => decide (b < 4096)) = true ∧ f.mv.all (fun b => decide (b < 4096)) = true) →
    (((s.advance dt).xyAll p.val xy).rowOfLine p.val l ys cs).2 = some v →
    (s.ctxOf p.val).isSome = true →
    (s.cport p.val).rowsIn < s.capH p.val →
    64 < ((s.cport p.val).store.length + 1) * rowEntries (s.capW p.val) →
    ∃ t : State, exec (.captureRow dt p ⟨xy, l⟩ ys cs) s = .next t ∧
      (t.cport p.val).frame = none ∧
      (t.cport p.val).store = [] ∧
      t.g (Reg.CAP.DROPPED p.val) = (s.g (Reg.CAP.DROPPED p.val) + 1) % 65536 ∧
      t.evStatus Ev.capCtxDrop = true) ∧
  (∀ (dt : Nat) (p : Fin 4) (xy ys cs : List Nat) (l : Bool) (v : List Nat × List Nat) (f : CapFrame) (s : State),
    s.coreOn = true →
    s.gb (Reg.CAP.ENABLE p.val) = true →
    (s.cport p.val).frame = some f →
    (f.disp < 4096 ∧ f.code.all (fun b => decide (b < 4096)) = true ∧ f.mv.all (fun b => decide (b < 4096)) = true) →
    (((s.advance dt).xyAll p.val xy).rowOfLine p.val l ys cs).2 = some v →
    (s.ctxOf p.val).isSome = true →
    s.capH p.val ≤ (s.cport p.val).rowsIn →
    (s.gb (Reg.CAP.DE_USE p.val) = true ∨ s.gb (Reg.CAP.SYNC p.val) = true) →
    ∃ t : State, exec (.captureRow dt p ⟨xy, l⟩ ys cs) s = .next t ∧
      (t.cport p.val).frame = none ∧
      t.g (Reg.CAP.LONG p.val) = (s.g (Reg.CAP.LONG p.val) + 1) % 65536 ∧
      t.evStatus Ev.capFrameLong = true ∧
      t.gb (Reg.CAP.IN_FRAME p.val) = false) ∧
  (∀ (dt : Nat) (p : Fin 4) (f : CapFrame) (s : State),
    s.coreOn = true →
    (s.cport p.val).frame = some f →
    (f.disp < 4096 ∧ f.code.all (fun b => decide (b < 4096)) = true ∧ f.mv.all (fun b => decide (b < 4096)) = true) →
    (s.ctxOf p.val).isSome = true →
    f.done = s.capH p.val →
    ∃ t : State, exec (.captureFrameClose dt p) s = .next t ∧
      (t.cport p.val).frame = none ∧
      t.gb (Reg.CAP.IN_FRAME p.val) = false ∧
      t.g (Reg.CAP.FRAMES p.val) = (s.g (Reg.CAP.FRAMES p.val) + 1) % 2 ^ 32) ∧
  (∀ (dt : Nat) (p : Fin 4) (f : CapFrame) (s : State),
    s.coreOn = true →
    (s.cport p.val).frame = some f →
    (f.disp < 4096 ∧ f.code.all (fun b => decide (b < 4096)) = true ∧ f.mv.all (fun b => decide (b < 4096)) = true) →
    (s.ctxOf p.val).isSome = true →
    (s.cport p.val).rowsIn < s.capH p.val →
    (s.cport p.val).rowAt + 1000000 * s.g (Reg.CAP.FRAME_TIMEOUT_MS p.val) ≤ s.clock + dt →
    ∃ t : State, exec (.captureFrameTimeout dt p) s = .next t ∧
      (t.cport p.val).frame = none ∧
      t.gb (Reg.CAP.IN_FRAME p.val) = false ∧
      t.evStatus Ev.capFrameShort = true ∧
      t.g (Reg.CAP.FRAMES p.val) = (s.g (Reg.CAP.FRAMES p.val) + 1) % 2 ^ 32) ∧
  (∀ (dt : Nat) (p : Fin 4) (f : CapFrame) (s : State),
    s.coreOn = true →
    (s.cport p.val).frame = some f →
    (f.disp < 4096 ∧ f.code.all (fun b => decide (b < 4096)) = true ∧ f.mv.all (fun b => decide (b < 4096)) = true) →
    (s.ctxOf p.val).isSome = true →
    ∃ t : State, exec (.captureBusError dt p true) s = .next t ∧
      (t.cport p.val).frame = none ∧
      t.evStatus Ev.capFrameShort = true ∧
      t.g (Reg.CAP.FRAMES p.val) = (s.g (Reg.CAP.FRAMES p.val) + 1) % 2 ^ 32) ∧
  (∀ (dt : Nat) (p : Fin 4) (f : CapFrame) (j c : Nat) (s : State),
    s.coreOn = true →
    (s.cport p.val).frame = some f →
    s.ctxOf p.val = some (j, c) →
    s.act j c (Reg.ISP.CTX.TNR_EN j c) ≠ 0 →
    f.tnrOff = false →
    ∃ t : State, exec (.captureBusError dt p false) s = .next t ∧
      (t.cport p.val).frame = some { f with tnrOff := true } ∧
      t.g (Reg.CAP.BUS_ERR p.val) = (s.g (Reg.CAP.BUS_ERR p.val) + 1) % 65536 ∧
      (∀ x, t.byte x = s.byte x))

/-- A context of an image pipe starts when its checks pass, stops at once, arms its shadow set, and its pipe takes complete rows in turn. -/
def Obligations.ImageContexts : Prop :=
  (∀ (dt : Nat) (m : Master) (j c : Fin 4) (s : State),
    s.coreOn = true →
    s.mayWrite m.val ((Reg.ISP.CTX.ENABLE j.val c.val).addr) = true →
    s.gb (Reg.ISP.CTX.ENABLE j.val c.val) = false →
    s.ctxCheck j.val c.val = 0 →
    ∃ t : State, exec (.ispContextEnable dt m j c) s = .next t ∧
      t.gb (Reg.ISP.CTX.ENABLE j.val c.val) = true ∧
      t.g (Reg.ISP.CTX.ENABLE_RESULT j.val c.val) = 0 ∧
      t.g (Reg.ISP.CTX.STATE j.val c.val) = 1 ∧
      (t.g Reg.CLK.RUNNING).testBit 4 = true) ∧
  (∀ (dt : Nat) (m : Master) (j c : Fin 4) (s : State),
    s.coreOn = true →
    s.mayWrite m.val ((Reg.ISP.CTX.ENABLE j.val c.val).addr) = true →
    s.gb (Reg.ISP.CTX.ENABLE j.val c.val) = false →
    s.ctxCheck j.val c.val ≠ 0 →
    ∃ t : State, exec (.ispContextEnable dt m j c) s = .next t ∧
      t.gb (Reg.ISP.CTX.ENABLE j.val c.val) = false ∧
      t.g (Reg.ISP.CTX.ENABLE_RESULT j.val c.val) = s.ctxCheck j.val c.val ∧
      (∀ x, t.byte x = s.byte x)) ∧
  (∀ (dt : Nat) (m : Master) (j c : Fin 4) (s : State),
    s.coreOn = true →
    s.mayWrite m.val ((Reg.ISP.CTX.ENABLE j.val c.val).addr) = true →
    s.gb (Reg.ISP.CTX.ENABLE j.val c.val) = true →
    ∃ t : State, exec (.ispContextDisable dt m j c) s = .next t ∧
      t.gb (Reg.ISP.CTX.ENABLE j.val c.val) = false ∧
      t.g (Reg.ISP.CTX.STATE j.val c.val) = 0 ∧
      t.gb (Reg.ISP.CTX.APPLY j.val c.val) = false) ∧
  (∀ (dt : Nat) (m : Master) (j c : Fin 4) (s : State),
    s.coreOn = true →
    s.mayWrite m.val ((Reg.ISP.CTX.ENABLE j.val c.val).addr) = true →
    ∃ t : State, exec (.ispApply dt m j c) s = .next t ∧
      t.gb (Reg.ISP.CTX.APPLY j.val c.val) = true ∧
      (t.ictx j.val c.val).armer = m.val ∧
      t.gb (Reg.ISP.CTX.ENABLE j.val c.val) = s.gb (Reg.ISP.CTX.ENABLE j.val c.val) ∧
      (∀ x, t.byte x = s.byte x)) ∧
  (∀ (dt : Nat) (m : Master) (p : Fin 4) (s : State),
    s.coreOn = true →
    s.mayWrite m.val ((Reg.CAP.PEAK_CLR p.val).addr) = true →
    ∃ t : State, exec (.capStorePeakClear dt m p) s = .next t ∧
      t.g (Reg.CAP.STORE_PEAK p.val) = 0 ∧
      t.cap = s.cap) ∧
  (∀ (dt : Nat) (j c p : Fin 4) (f : CapFrame) (r : CapRow) (rest : List CapRow) (s : State),
    s.coreOn = true →
    s.ispNext j.val = some c.val →
    s.g (Reg.ISP.CTX.PORT j.val c.val) = p.val →
    (s.cport p.val).frame = some f →
    (f.disp < 4096 ∧ f.code.all (fun b => decide (b < 4096)) = true ∧ f.mv.all (fun b => decide (b < 4096)) = true) →
    (s.cport p.val).store = r :: rest →
    ∃ t : State, exec (.ispRowProcess dt j) s = .next t ∧
      t.g (Reg.ISP.ROWS j.val) = (s.g (Reg.ISP.ROWS j.val) + 1) % 2 ^ 32 ∧
      (t.ipipe j.val).served = c.val) ∧
  (∀ (dt : Nat) (i : Fin 512) (j c p : Fin 4) (s : State),
    s.coreOn = true →
    (List.range 16).find? (fun k => s.gb (Reg.ISP.CTX.ENABLE (k / 4) (k % 4)) && s.g (Reg.ISP.CTX.SRC (k / 4) (k % 4)) == i.val) = some (4 * j.val + c.val) →
    s.g (Reg.ISP.CTX.PORT j.val c.val) = p.val →
    s.g (Reg.ING.SRC.STATE i.val) = 2 →
    (s.cport p.val).startAt + 1000000 * s.g Reg.ING.CTRL.LOST_MS ≤ s.clock + dt →
    ∃ t : State, exec (.captureSourceLost dt i) s = .next t ∧
      t.g (Reg.ING.SRC.STATE i.val) = 3 ∧
      t.evStatus Ev.srcLost = true)

/-- A latch point takes the flip time and counts FRAME; a head with ENABLE 0 or SLEEP 1 stops there and keeps both; composition starts, lines follow in order. -/
def Obligations.LatchPoints : Prop :=
  (∀ (dt : Nat) (n : Fin 64) (s : State),
    s.pwr.mode = .run →
    s.lead n.val = n.val →
    s.g (Reg.HEAD.STATUS.RUN_STATE n.val) = 2 →
    s.gb (Reg.HEAD.CTRL.ENABLE n.val) = true →
    s.gb (Reg.HEAD.CTRL.SLEEP n.val) = false →
    ∃ t : State, exec (.latchPoint dt n) s = .next t ∧
      t.g (Reg.HEAD.FRAME.COUNT n.val) = (s.g (Reg.HEAD.FRAME.COUNT n.val) + 1) % 2 ^ 32 ∧
      (t.head n.val).flip = (s.advance dt).wall ∧
      (t.head n.val).latchClk = s.clock + dt) ∧
  (∀ (dt : Nat) (n : Fin 64) (s : State),
    s.pwr.mode = .run →
    s.lead n.val = n.val →
    s.g (Reg.HEAD.STATUS.RUN_STATE n.val) = 1 →
    s.gb (Reg.HEAD.CTRL.ENABLE n.val) = true →
    s.gb (Reg.HEAD.CTRL.SLEEP n.val) = false →
    ∃ t : State, exec (.headStart dt n) s = .next t ∧
      t.g (Reg.HEAD.FRAME.COUNT n.val) = (s.g (Reg.HEAD.FRAME.COUNT n.val) + 1) % 2 ^ 32 ∧
      (t.head n.val).flip = (s.advance dt).wall ∧
      (t.head n.val).latchClk = s.clock + dt) ∧
  (∀ (dt : Nat) (n : Fin 64) (s : State),
    s.coreOn = true →
    s.lead n.val = n.val →
    s.g (Reg.HEAD.STATUS.RUN_STATE n.val) = 2 →
    (s.gb (Reg.HEAD.CTRL.ENABLE n.val) = false ∨ s.gb (Reg.HEAD.CTRL.SLEEP n.val) = true) →
    ∃ t : State, exec (.latchPoint dt n) s = .next t ∧
      (t.head n.val).flip = (s.head n.val).flip ∧
      t.g (Reg.HEAD.FRAME.COUNT n.val) = s.g (Reg.HEAD.FRAME.COUNT n.val) ∧
      (t.head n.val).frame.composing = false ∧
      (t.head n.val).groups = [] ∧
      (∀ k : Fin 32, ((t.head n.val).slot k.val).held = none)) ∧
  (∀ (dt : Nat) (n : Fin 64) (s : State),
    s.coreOn = true →
    s.g (Reg.HEAD.STATUS.RUN_STATE n.val) = 2 →
    (s.head n.val).frame.composing = false →
    ∃ t : State, exec (.prefetchStart dt n) s = .next t ∧
      (t.head n.val).frame.composing = true ∧
      (t.head n.val).frame.nextLine = (s.head n.val).frame.nextLine ∧
      (∀ x, t.byte x = s.byte x)) ∧
  (∀ (dt : Nat) (n : Fin 64) (l : FetchSeen) (s : State),
    s.composes n.val = true →
    ∃ t : State, exec (.composeLine dt n l) s = .next t ∧
      (t.head n.val).frame.nextLine = (s.head n.val).frame.nextLine + 1) ∧
  (∀ (dt : Nat) (n : Fin 64) (x : Nat) (s : State),
    s.composes n.val = true →
    x < s.activeW n.val →
    ∃ t : State, exec (.underrun dt n x) s = .next t ∧
      (t.head n.val).frame.nextLine = (s.head n.val).frame.nextLine + 1 ∧
      (t.head n.val).frame.underran = true ∧
      t.g (Reg.HEAD.UNDERRUNS.LINES n.val) = min (s.g (Reg.HEAD.UNDERRUNS.LINES n.val) + 1) (2 ^ (Reg.HEAD.UNDERRUNS.LINES n.val).width - 1))

/-- An enable that passes its checks starts a head, one that fails leaves it off with the check; disable, sleep and wake wait for the latch point. -/
def Obligations.HeadsRun : Prop :=
  (∀ (dt : Nat) (m : Master) (n : Fin 64) (s : State),
    s.coreOn = true →
    s.mayWrite m.val (0x10400000 + 0x1000 * n.val) = true →
    s.lead n.val = n.val →
    s.gb (Reg.HEAD.CTRL.ENABLE n.val) = false →
    s.enableCheck n.val = 0 →
    ∃ t : State, exec (.headEnable dt m n) s = .next t ∧
      t.gb (Reg.HEAD.CTRL.ENABLE n.val) = true ∧
      t.g (Reg.HEAD.CTRL.ENABLE_RESULT n.val) = 0 ∧
      t.g (Reg.HEAD.STATUS.RUN_STATE n.val) = (if s.g (Reg.HEAD.STATUS.RUN_STATE n.val) = 0 then 1 else s.g (Reg.HEAD.STATUS.RUN_STATE n.val)) ∧
      (s.g (Reg.HEAD.STATUS.RUN_STATE n.val) = 0 → t.g (Reg.HEAD.FRAME.COUNT n.val) = 0)) ∧
  (∀ (dt : Nat) (m : Master) (n : Fin 64) (s : State),
    s.coreOn = true →
    s.mayWrite m.val (0x10400000 + 0x1000 * n.val) = true →
    s.lead n.val = n.val →
    s.gb (Reg.HEAD.CTRL.ENABLE n.val) = false →
    s.enableCheck n.val ≠ 0 →
    ∃ t : State, exec (.headEnable dt m n) s = .next t ∧
      t.gb (Reg.HEAD.CTRL.ENABLE n.val) = false ∧
      t.g (Reg.HEAD.CTRL.ENABLE_RESULT n.val) = s.enableCheck n.val ∧
      t.g (Reg.HEAD.STATUS.RUN_STATE n.val) = s.g (Reg.HEAD.STATUS.RUN_STATE n.val) ∧
      (∀ x, t.byte x = s.byte x)) ∧
  (∀ (dt : Nat) (m : Master) (n : Fin 64) (s : State),
    s.coreOn = true →
    s.mayWrite m.val (0x10400000 + 0x1000 * n.val) = true →
    s.lead n.val = n.val →
    s.gb (Reg.HEAD.CTRL.ENABLE n.val) = true →
    s.g (Reg.HEAD.STATUS.RUN_STATE n.val) = 2 →
    ∃ t : State, exec (.headDisable dt m n) s = .next t ∧
      t.gb (Reg.HEAD.CTRL.ENABLE n.val) = false ∧
      t.g (Reg.HEAD.STATUS.RUN_STATE n.val) = 2 ∧
      t.g (Reg.HEAD.FRAME.COUNT n.val) = s.g (Reg.HEAD.FRAME.COUNT n.val) ∧
      (∀ x, t.byte x = s.byte x)) ∧
  (∀ (dt : Nat) (m : Master) (n : Fin 64) (s : State),
    s.coreOn = true →
    s.mayWrite m.val (0x10400000 + 0x1000 * n.val) = true →
    s.lead n.val = n.val →
    s.gb (Reg.HEAD.CTRL.ENABLE n.val) = true →
    s.g (Reg.HEAD.STATUS.RUN_STATE n.val) = 3 →
    s.gb (Reg.HEAD.STATUS.COMMIT_PENDING n.val) = false →
    ∃ t : State, exec (.headDisable dt m n) s = .next t ∧
      t.gb (Reg.HEAD.CTRL.ENABLE n.val) = false ∧
      t.g (Reg.HEAD.STATUS.RUN_STATE n.val) = 0) ∧
  (∀ (dt : Nat) (m : Master) (n : Fin 64) (s : State),
    s.coreOn = true →
    s.mayWrite m.val (0x10400000 + 0x1000 * n.val) = true →
    s.lead n.val = n.val →
    s.gb (Reg.HEAD.CTRL.ENABLE n.val) = true →
    ∃ t : State, exec (.headSleep dt m n) s = .next t ∧
      t.gb (Reg.HEAD.CTRL.SLEEP n.val) = true ∧
      t.gb (Reg.HEAD.CTRL.ENABLE n.val) = true ∧
      t.g (Reg.HEAD.STATUS.RUN_STATE n.val) = s.g (Reg.HEAD.STATUS.RUN_STATE n.val) ∧
      (∀ x, t.byte x = s.byte x)) ∧
  (∀ (dt : Nat) (m : Master) (n : Fin 64) (s : State),
    s.coreOn = true →
    s.mayWrite m.val (0x10400000 + 0x1000 * n.val) = true →
    s.lead n.val = n.val →
    s.gb (Reg.HEAD.CTRL.ENABLE n.val) = true →
    s.g (Reg.HEAD.STATUS.RUN_STATE n.val) = 3 →
    ∃ t : State, exec (.headWake dt m n) s = .next t ∧
      t.gb (Reg.HEAD.CTRL.SLEEP n.val) = false ∧
      t.g (Reg.HEAD.STATUS.RUN_STATE n.val) = 1 ∧
      t.g (Reg.HEAD.FRAME.COUNT n.val) = s.g (Reg.HEAD.FRAME.COUNT n.val)) ∧
  (∀ (dt : Nat) (m : Master) (n : Fin 64) (b : Bool) (s : State),
    s.coreOn = true →
    s.mayWrite m.val (0x10400000 + 0x1000 * n.val) = true →
    n.val % 2 = 0 →
    s.gb (Reg.HEAD.CTRL.ENABLE n.val) = false →
    s.gb (Reg.HEAD.CTRL.ENABLE (n.val + 1)) = false →
    ∃ t : State, exec (.headPairWrite dt m n b) s = .next t ∧
      t.gb (Reg.HEAD.CTRL.PAIR n.val) = b ∧
      t.gb (Reg.HEAD.CTRL.ENABLE n.val) = false) ∧
  (∀ (dt : Nat) (m : Master) (n : Fin 64) (b : Bool) (s : State),
    s.coreOn = true →
    s.mayWrite m.val (0x10400000 + 0x1000 * n.val) = true →
    n.val % 2 = 0 →
    (s.gb (Reg.HEAD.CTRL.ENABLE n.val) = true ∨ s.gb (Reg.HEAD.CTRL.ENABLE (n.val + 1)) = true) →
    ∃ t : State, exec (.headPairWrite dt m n b) s = .next t ∧
      t.gb (Reg.HEAD.CTRL.PAIR n.val) = s.gb (Reg.HEAD.CTRL.PAIR n.val))

/-- A commit is accepted with its target frame, or refused with the reason; output tables, FIFO_MIN, the genlock error and the label scale act as written. -/
def Obligations.HeadCommits : Prop :=
  (∀ (dt : Nat) (m : Master) (n : Fin 64) (s : State),
    s.coreOn = true →
    s.mayWrite m.val (0x10400050 + 0x1000 * n.val) = true →
    s.lead n.val = n.val →
    s.gb (Reg.HEAD.CTRL.ENABLE n.val) = true →
    s.gb (Reg.HEAD.STATUS.COMMIT_PENDING n.val) = false →
    (s.ledBy n.val).all (fun k => (s.timing true k).fits) = true →
    ∃ t : State, exec (.headCommit dt m n) s = .next t ∧
      t.gb (Reg.HEAD.STATUS.COMMIT_PENDING n.val) = true ∧
      t.g (Reg.HEAD.COMMIT_STATUS.RESULT n.val) = 1 ∧
      t.g (Reg.HEAD.COMMIT_TARGET.FRAME n.val) = (s.g (Reg.HEAD.FRAME.COUNT n.val) + 1) % 2 ^ 32 ∧
      (t.head n.val).pend = (s.head n.val).pend) ∧
  (∀ (dt : Nat) (m : Master) (n : Fin 64) (s : State),
    s.coreOn = true →
    s.mayWrite m.val (0x10400050 + 0x1000 * n.val) = true →
    s.lead n.val ≠ n.val →
    ∃ t : State, exec (.headCommit dt m n) s = .next t ∧
      t.g (Reg.HEAD.COMMIT_STATUS.RESULT n.val) = 6 ∧
      t.gb (Reg.HEAD.STATUS.COMMIT_PENDING n.val) = s.gb (Reg.HEAD.STATUS.COMMIT_PENDING n.val) ∧
      t.g (Reg.HEAD.COMMIT_TARGET.FRAME n.val) = s.g (Reg.HEAD.COMMIT_TARGET.FRAME n.val) ∧
      (∀ x, t.byte x = s.byte x)) ∧
  (∀ (dt : Nat) (m : Master) (n : Fin 64) (s : State),
    s.coreOn = true →
    s.mayWrite m.val (0x10400050 + 0x1000 * n.val) = true →
    s.lead n.val = n.val →
    s.gb (Reg.HEAD.CTRL.ENABLE n.val) = false →
    ∃ t : State, exec (.headCommit dt m n) s = .next t ∧
      t.g (Reg.HEAD.COMMIT_STATUS.RESULT n.val) = 5 ∧
      t.gb (Reg.HEAD.STATUS.COMMIT_PENDING n.val) = s.gb (Reg.HEAD.STATUS.COMMIT_PENDING n.val) ∧
      t.g (Reg.HEAD.COMMIT_TARGET.FRAME n.val) = s.g (Reg.HEAD.COMMIT_TARGET.FRAME n.val) ∧
      (∀ x, t.byte x = s.byte x)) ∧
  (∀ (dt : Nat) (m : Master) (n : Fin 64) (s : State),
    s.coreOn = true →
    s.mayWrite m.val (0x10400050 + 0x1000 * n.val) = true →
    s.lead n.val = n.val →
    s.gb (Reg.HEAD.CTRL.ENABLE n.val) = true →
    s.gb (Reg.HEAD.STATUS.COMMIT_PENDING n.val) = true →
    ∃ t : State, exec (.headCommit dt m n) s = .next t ∧
      t.g (Reg.HEAD.COMMIT_STATUS.RESULT n.val) = 4 ∧
      t.gb (Reg.HEAD.STATUS.COMMIT_PENDING n.val) = s.gb (Reg.HEAD.STATUS.COMMIT_PENDING n.val) ∧
      t.g (Reg.HEAD.COMMIT_TARGET.FRAME n.val) = s.g (Reg.HEAD.COMMIT_TARGET.FRAME n.val) ∧
      (∀ x, t.byte x = s.byte x)) ∧
  (∀ (dt : Nat) (m : Master) (n : Fin 64) (s : State),
    s.coreOn = true →
    s.mayWrite m.val (0x10400050 + 0x1000 * n.val) = true →
    s.lead n.val = n.val →
    s.gb (Reg.HEAD.CTRL.ENABLE n.val) = true →
    s.gb (Reg.HEAD.STATUS.COMMIT_PENDING n.val) = false →
    (s.ledBy n.val).all (fun k => (s.timing true k).fits) = false →
    ∃ t : State, exec (.headCommit dt m n) s = .next t ∧
      t.g (Reg.HEAD.COMMIT_STATUS.RESULT n.val) = 3 ∧
      t.gb (Reg.HEAD.STATUS.COMMIT_PENDING n.val) = s.gb (Reg.HEAD.STATUS.COMMIT_PENDING n.val) ∧
      t.g (Reg.HEAD.COMMIT_TARGET.FRAME n.val) = s.g (Reg.HEAD.COMMIT_TARGET.FRAME n.val) ∧
      (∀ x, t.byte x = s.byte x)) ∧
  (∀ (dt : Nat) (m : Master) (n : Fin 64) (v : Word) (s : State),
    s.coreOn = true →
    s.mayWrite m.val (0x10400430 + 0x1000 * n.val) = true →
    s.g (Reg.HEAD.OTAB_INDEX.BANK n.val) ≠ s.g (Reg.HEAD.OUT_CTRL.OTAB_BANK n.val) →
    ∃ t : State, exec (.otabAccess dt m n (some v)) s = .next t ∧
      Tab.get 0 (s.otabKey n.val) (t.head n.val).otab = fieldGet v 0 16 ∧
      t.g (Reg.HEAD.OTAB_INDEX.INDEX n.val) = (s.g (Reg.HEAD.OTAB_INDEX.INDEX n.val) + 1) % 2 ^ (Reg.HEAD.OTAB_INDEX.INDEX n.val).width ∧
      (∀ x, t.byte x = s.byte x)) ∧
  (∀ (dt : Nat) (m : Master) (n : Fin 64) (v : Word) (s : State),
    s.coreOn = true →
    s.mayWrite m.val (0x10400430 + 0x1000 * n.val) = true →
    s.g (Reg.HEAD.OTAB_INDEX.BANK n.val) = s.g (Reg.HEAD.OUT_CTRL.OTAB_BANK n.val) →
    ∃ t : State, exec (.otabAccess dt m n (some v)) s = .next t ∧
      (t.head n.val).otab = (s.head n.val).otab ∧
      t.g (Reg.HEAD.OTAB_INDEX.INDEX n.val) = (s.g (Reg.HEAD.OTAB_INDEX.INDEX n.val) + 1) % 2 ^ (Reg.HEAD.OTAB_INDEX.INDEX n.val).width) ∧
  (∀ (dt : Nat) (m : Master) (n : Fin 64) (s : State),
    s.coreOn = true →
    s.readsNow m.val = true →
    ∃ t : State, exec (.otabAccess dt m n none) s = .next t ∧
      t.bus.resp = some ⟨false, leBytes (BitVec.ofNat 32 (Tab.get 0 (s.otabKey n.val) (s.head n.val).otab)).toNat 4⟩ ∧
      t.g (Reg.HEAD.OTAB_INDEX.INDEX n.val) = (s.g (Reg.HEAD.OTAB_INDEX.INDEX n.val) + 1) % 2 ^ (Reg.HEAD.OTAB_INDEX.INDEX n.val).width ∧
      (t.head n.val).otab = (s.head n.val).otab) ∧
  (∀ (dt : Nat) (m : Master) (n : Fin 64) (s : State),
    s.coreOn = true →
    s.mayWrite m.val (0x10400078 + 0x1000 * n.val) = true →
    ∃ t : State, exec (.fifoMinClear dt m n) s = .next t ∧
      t.g (Reg.HEAD.FIFO_MIN.MIN n.val) = 512 ∧
      (∀ x, t.byte x = s.byte x)) ∧
  (∀ (dt : Nat) (n : Fin 64) (s : State),
    s.coreOn = true →
    s.lead n.val = n.val →
    s.g (Reg.HEAD.STATUS.RUN_STATE n.val) = 2 →
    s.glOn n.val = true →
    ∃ t : State, exec (.genlockMeasure dt n) s = .next t ∧
      t.g (Reg.HEAD.GL_ERROR.E_NS n.val) = unsigned 32 (s.glError n.val).floor ∧
      (∀ x, t.byte x = s.byte x)) ∧
  (∀ (dt : Nat) (m : Master) (x : Fin 4) (s : State),
    s.coreOn = true →
    s.mayWrite m.val (0x100C0000) = true →
    ((s.livePage.toList ++ (if s.gb Reg.SEQ.STATUS.STAGE_VALID then [s.stagePage] else [])).any (fun p => !(labelClashes (s.page p) (x.val + 1)).isEmpty)) = false →
    ∃ t : State, exec (.labelScaleWrite dt m x) s = .next t ∧
      t.g Reg.FRS.CTRL.LABEL_SCALE_M1 = x.val ∧
      (∀ x, t.byte x = s.byte x)) ∧
  (∀ (dt : Nat) (m : Master) (x : Fin 4) (s : State),
    s.coreOn = true →
    s.mayWrite m.val (0x100C0000) = true →
    ((s.livePage.toList ++ (if s.gb Reg.SEQ.STATUS.STAGE_VALID then [s.stagePage] else [])).any (fun p => !(labelClashes (s.page p) (x.val + 1)).isEmpty)) = true →
    ∃ t : State, exec (.labelScaleWrite dt m x) s = .next t ∧
      t.g Reg.FRS.CTRL.LABEL_SCALE_M1 = s.g Reg.FRS.CTRL.LABEL_SCALE_M1)

/-- A transmitter enables when its checks pass; training runs on HPD and grant and ends UP or with the reason; HPD changes and lane losses take it down. -/
def Obligations.DisplayPortLinks : Prop :=
  (∀ (dt : Nat) (m : Master) (n : Fin 64) (v : Word) (s : State),
    s.coreOn = true →
    s.mayWrite m.val ((Reg.DPTX.CTRL.ENABLE n.val).addr) = true →
    s.gb (Reg.DPTX.CTRL.ENABLE n.val) = false →
    (s.writeFields m.val (Reg.DPTX.CTRL.ENABLE n.val).addr (fieldSet v 0 1 1) 0x80000001).dpCheck n.val (fieldGet v 14 2) = 0 →
    ∃ t : State, exec (.dptxEnable dt m n v) s = .next t ∧
      t.gb (Reg.DPTX.CTRL.ENABLE n.val) = true ∧
      t.g (Reg.DPTX.STATUS.ENABLE_RESULT n.val) = 0 ∧
      t.g (Reg.DPTX.STATUS.LINK n.val) = (if s.granted then 1 else 4)) ∧
  (∀ (dt : Nat) (m : Master) (n : Fin 64) (v : Word) (s : State),
    s.coreOn = true →
    s.mayWrite m.val ((Reg.DPTX.CTRL.ENABLE n.val).addr) = true →
    s.gb (Reg.DPTX.CTRL.ENABLE n.val) = false →
    (s.writeFields m.val (Reg.DPTX.CTRL.ENABLE n.val).addr (fieldSet v 0 1 1) 0x80000001).dpCheck n.val (fieldGet v 14 2) ≠ 0 →
    ∃ t : State, exec (.dptxEnable dt m n v) s = .next t ∧
      t.gb (Reg.DPTX.CTRL.ENABLE n.val) = false ∧
      t.g (Reg.DPTX.STATUS.ENABLE_RESULT n.val) = (s.writeFields m.val (Reg.DPTX.CTRL.ENABLE n.val).addr (fieldSet v 0 1 1) 0x80000001).dpCheck n.val (fieldGet v 14 2) ∧
      t.g (Reg.DPTX.STATUS.LINK n.val) = s.g (Reg.DPTX.STATUS.LINK n.val)) ∧
  (∀ (dt : Nat) (m : Master) (n : Fin 64) (s : State),
    s.coreOn = true →
    s.mayWrite m.val ((Reg.DPTX.CTRL.ENABLE n.val).addr) = true →
    s.gb (Reg.DPTX.CTRL.ENABLE n.val) = true →
    ∃ t : State, exec (.dptxDisable dt m n) s = .next t ∧
      t.gb (Reg.DPTX.CTRL.ENABLE n.val) = false ∧
      t.g (Reg.DPTX.STATUS.LINK n.val) = 0 ∧
      (t.dpx n.val).stream = false ∧
      (t.dpx n.val).lossAt = none) ∧
  (∀ (dt : Nat) (m : Master) (n : Fin 64) (s : State),
    s.coreOn = true →
    s.mayWrite m.val ((Reg.DPTX.CTRL.ENABLE n.val).addr) = true →
    ∃ t : State, exec (.dptxTrainRequest dt m n) s = .next t ∧
      (t.dpx n.val).want = true ∧
      t.g (Reg.DPTX.STATUS.LINK n.val) = s.g (Reg.DPTX.STATUS.LINK n.val) ∧
      (∀ x, t.byte x = s.byte x)) ∧
  (∀ (dt : Nat) (n : Fin 64) (s : State),
    s.coreOn = true →
    (s.dpx n.val).want = true →
    s.gb (Reg.DPTX.CTRL.ENABLE n.val) = true →
    s.gb (Reg.DPTX.STATUS.HPD n.val) = true →
    s.granted = true →
    s.engRunning 23 = true →
    s.g (Reg.DPTX.STATUS.LINK n.val) ≠ 2 →
    ∃ t : State, exec (.dpTrainingCycle dt n) s = .next t ∧
      t.g (Reg.DPTX.STATUS.LINK n.val) = (if s.dpOver n.val then 1 else 2) ∧
      (s.dpOver n.val = true → t.g (Reg.DPTX.STATUS.RESULT n.val) = 8) ∧
      t.g (Reg.DPTX.COUNTS.CYCLES n.val) = (s.g (Reg.DPTX.COUNTS.CYCLES n.val) + 1) % 65536 ∧
      (t.dpx n.val).want = false) ∧
  (∀ (dt : Nat) (n : Fin 64) (caps : List Byte) (t1 t2 : List (List Byte)) (ts : List (List (List Byte))) (s : State),
    s.coreOn = true →
    s.g (Reg.DPTX.STATUS.LINK n.val) = 2 →
    s.granted = true →
    (s.sinkCaps n.val caps).capsShort n.val = false →
    (s.dpTries n.val 4 0 (t1 :: t2 :: ts)).2.1 = .ok →
    ∃ t : State, exec (.dpTrainingEnd dt n caps t1 t2 ts) s = .next t ∧
      t.g (Reg.DPTX.STATUS.LINK n.val) = 3 ∧
      t.g (Reg.DPTX.STATUS.RESULT n.val) = 1 ∧
      t.g (Reg.DPTX.STATUS.ATTEMPTS n.val) = (s.dpTries n.val 4 0 (t1 :: t2 :: ts)).2.2 ∧
      (∀ x, t.byte x = s.byte x)) ∧
  (∀ (dt : Nat) (n : Fin 64) (caps : List Byte) (t1 t2 : List (List Byte)) (ts : List (List (List Byte))) (lv : Nat) (s : State),
    s.coreOn = true →
    s.g (Reg.DPTX.STATUS.LINK n.val) = 2 →
    s.granted = true →
    (s.sinkCaps n.val caps).capsShort n.val = false →
    dpTry (2 ^ s.g (Reg.DPTX.CTRL.LANES n.val)) t1 = (.ok, lv, true) →
    ∃ t : State, exec (.dpTrainingEnd dt n caps t1 t2 ts) s = .next t ∧
      t.g (Reg.DPTX.STATUS.LINK n.val) = 3 ∧
      t.g (Reg.DPTX.STATUS.ATTEMPTS n.val) = 1 ∧
      t.g (Reg.DPTX.DRIVE.LEVELS n.val) = lv % 65536 ∧
      (t.dpx n.val).dpcd = (s.dpx n.val).dpcd ++ s.dpWrites n.val ∧
      (t.dpx n.val).tps = (s.dpx n.val).tps ++ [1, eqPattern (s.g (Reg.DPTX.CTRL.RATE n.val))]) ∧
  (∀ (dt : Nat) (n : Fin 64) (caps : List Byte) (t1 t2 : List (List Byte)) (ts : List (List (List Byte))) (s : State),
    s.coreOn = true →
    s.g (Reg.DPTX.STATUS.LINK n.val) = 2 →
    s.granted = true →
    ((s.sinkCaps n.val caps).capsShort n.val = true ∨ (s.dpTries n.val 4 0 (t1 :: t2 :: ts)).2.1 ≠ .ok) →
    ∃ t : State, exec (.dpTrainingEnd dt n caps t1 t2 ts) s = .next t ∧
      t.g (Reg.DPTX.STATUS.LINK n.val) = 1 ∧
      t.g (Reg.DPTX.STATUS.RESULT n.val) = (if (s.sinkCaps n.val caps).capsShort n.val then 2 else if (s.dpTries n.val 4 0 (t1 :: t2 :: ts)).2.1 = .crFail then 4 else if (s.dpTries n.val 4 0 (t1 :: t2 :: ts)).2.1 = .eqFail then 5 else 3) ∧
      t.evStatus Ev.dpTrain = true) ∧
  (∀ (dt : Nat) (n : Fin 64) (s : State),
    s.coreOn = true →
    s.gb (Reg.DPTX.STATUS.HPD n.val) = false →
    ∃ t : State, exec (.dpHpdPlug dt n) s = .next t ∧
      t.gb (Reg.DPTX.STATUS.HPD n.val) = true ∧
      t.evStatus Ev.dpHpd = true ∧
      t.g (Reg.DPTX.STATUS.LINK n.val) = s.g (Reg.DPTX.STATUS.LINK n.val) ∧
      (t.dpx n.val).want = ((s.dpx n.val).want || s.gb (Reg.DPTX.CTRL.AUTO_TRAIN n.val))) ∧
  (∀ (dt : Nat) (n : Fin 64) (s : State),
    s.coreOn = true →
    s.gb (Reg.DPTX.STATUS.HPD n.val) = true →
    ∃ t : State, exec (.dpHpdUnplug dt n) s = .next t ∧
      t.gb (Reg.DPTX.STATUS.HPD n.val) = false ∧
      t.evStatus Ev.dpHpd = true ∧
      (1 ≤ s.g (Reg.DPTX.STATUS.LINK n.val) ∧ s.g (Reg.DPTX.STATUS.LINK n.val) ≤ 3 → t.g (Reg.DPTX.STATUS.LINK n.val) = 1 ∧ t.g (Reg.DPTX.STATUS.RESULT n.val) = 7)) ∧
  (∀ (dt : Nat) (n : Fin 64) (bs : List Byte) (s : State),
    s.coreOn = true →
    s.gb (Reg.DPTX.STATUS.HPD n.val) = true →
    ∃ t : State, exec (.dpIrqHpd dt n bs) s = .next t ∧
      t.g (Reg.DPTX.HPD_IRQS.COUNT n.val) = (s.g (Reg.DPTX.HPD_IRQS.COUNT n.val) + 1) % 2 ^ 32 ∧
      (s.granted = true → s.engRunning 23 = true → s.g (Reg.DPTX.STATUS.LINK n.val) = 3 → lanesLost (2 ^ s.g (Reg.DPTX.CTRL.LANES n.val)) bs = true → t.g (Reg.DPTX.STATUS.LINK n.val) = 1 ∧ t.g (Reg.DPTX.STATUS.RESULT n.val) = 6 ∧ t.g (Reg.DPTX.COUNTS.LOSSES n.val) = (s.g (Reg.DPTX.COUNTS.LOSSES n.val) + 1) % 65536) ∧
      (s.granted = true → s.engRunning 23 = true → bs.getD 1 0 ≠ 0 → (t.dpx n.val).dpcd = [(0x201, [bs.getD 1 0])])) ∧
  (∀ (dt : Nat) (n : Fin 64) (at_ : Nat) (s : State),
    s.coreOn = true →
    (s.dpx n.val).lossAt = some at_ →
    at_ + 10000000 ≤ s.clock + dt →
    ∃ t : State, exec (.dpAutoRetrain dt n) s = .next t ∧
      (t.dpx n.val).want = true ∧
      (t.dpx n.val).lossAt = none ∧
      (∀ x, t.byte x = s.byte x))

/-- An AUX transaction sets GO with the grant and the engine running, or ends at once; replies, defers and timeouts end it with their result. -/
def Obligations.AuxTransactions : Prop :=
  (∀ (dt : Nat) (m : Master) (n : Fin 64) (v : Word) (s : State),
    s.coreOn = true →
    s.mayWrite m.val ((Reg.DPTX.AUX_CMD.GO n.val).addr) = true →
    s.gb (Reg.DPTX.AUX_CMD.GO n.val) = false →
    s.granted = true →
    s.engRunning 23 = true →
    ∃ t : State, exec (.auxTransaction dt m n v) s = .next t ∧
      t.gb (Reg.DPTX.AUX_CMD.GO n.val) = true ∧
      (t.dpx n.val).aux = (if s.g (Reg.DPTX.STATUS.LINK n.val) = 2 then 1 else 2) ∧
      (t.dpx n.val).defers = 0 ∧
      (∀ x, t.byte x = s.byte x)) ∧
  (∀ (dt : Nat) (m : Master) (n : Fin 64) (v : Word) (s : State),
    s.coreOn = true →
    s.mayWrite m.val ((Reg.DPTX.AUX_CMD.GO n.val).addr) = true →
    s.gb (Reg.DPTX.AUX_CMD.GO n.val) = false →
    (s.granted = false ∨ s.engRunning 23 = false) →
    ∃ t : State, exec (.auxTransaction dt m n v) s = .next t ∧
      t.g (Reg.DPTX.AUX_STATUS.RESULT n.val) = (if s.granted then 5 else 4) ∧
      t.g (Reg.DPTX.AUX_STATUS.BYTES n.val) = 0 ∧
      t.gb (Reg.DPTX.AUX_CMD.GO n.val) = false ∧
      (t.dpx n.val).aux = 0 ∧
      (∀ x, t.byte x = s.byte x)) ∧
  (∀ (dt : Nat) (n : Fin 64) (r : AuxReply) (s : State),
    s.coreOn = true →
    (s.dpx n.val).aux = 2 →
    ∃ t : State, exec (.auxDone dt n r) s = .next t ∧
      t.g (Reg.DPTX.AUX_STATUS.RESULT n.val) = (if r.ack then 0 else 1) ∧
      t.g (Reg.DPTX.AUX_STATUS.BYTES n.val) = min r.count.val (s.g (Reg.DPTX.AUX_CMD.LEN_M1 n.val) + 1) ∧
      t.gb (Reg.DPTX.AUX_CMD.GO n.val) = false ∧
      (t.dpx n.val).aux = 0 ∧
      (∀ x, t.byte x = s.byte x)) ∧
  (∀ (dt : Nat) (n : Fin 64) (s : State),
    s.coreOn = true →
    (s.dpx n.val).aux = 2 →
    (s.dpx n.val).auxAt + 400000 ≤ s.clock + dt →
    (s.dpx n.val).defers < 7 →
    ∃ t : State, exec (.auxDeferRetry dt n) s = .next t ∧
      (t.dpx n.val).defers = (s.dpx n.val).defers + 1 ∧
      (t.dpx n.val).auxAt = s.clock + dt ∧
      (t.dpx n.val).aux = 2 ∧
      t.gb (Reg.DPTX.AUX_CMD.GO n.val) = s.gb (Reg.DPTX.AUX_CMD.GO n.val) ∧
      (∀ x, t.byte x = s.byte x)) ∧
  (∀ (dt : Nat) (n : Fin 64) (s : State),
    s.coreOn = true →
    (s.dpx n.val).aux = 2 →
    (s.dpx n.val).auxAt + 400000 ≤ s.clock + dt →
    7 ≤ (s.dpx n.val).defers →
    ∃ t : State, exec (.auxDeferRetry dt n) s = .next t ∧
      t.g (Reg.DPTX.AUX_STATUS.RESULT n.val) = 2 ∧
      t.g (Reg.DPTX.AUX_STATUS.BYTES n.val) = 0 ∧
      t.gb (Reg.DPTX.AUX_CMD.GO n.val) = false ∧
      (t.dpx n.val).aux = 0 ∧
      (∀ x, t.byte x = s.byte x)) ∧
  (∀ (dt : Nat) (n : Fin 64) (s : State),
    s.coreOn = true →
    (s.dpx n.val).aux = 2 →
    (s.dpx n.val).auxAt + 400000 ≤ s.clock + dt →
    ∃ t : State, exec (.auxReplyTimeout dt n) s = .next t ∧
      t.g (Reg.DPTX.AUX_STATUS.RESULT n.val) = 3 ∧
      t.g (Reg.DPTX.AUX_STATUS.BYTES n.val) = 0 ∧
      t.gb (Reg.DPTX.AUX_CMD.GO n.val) = false ∧
      (t.dpx n.val).aux = 0 ∧
      (∀ x, t.byte x = s.byte x))

/-- A framer enables when its checks pass and trains: matching ordered sets bring it up at the version selected, mismatches and 10 ms end the attempt. -/
def Obligations.ThizonTraining : Prop :=
  (∀ (dt : Nat) (m : Master) (q : Fin 16) (v : Word) (s : State),
    s.coreOn = true →
    s.mayWrite m.val ((Reg.TZL.CTRL.ENABLE q.val).addr) = true →
    s.gb (Reg.TZL.CTRL.ENABLE q.val) = false →
    (s.writeFields m.val (Reg.TZL.CTRL.ENABLE q.val).addr (fieldSet v 0 1 1) 0x80000001).tzlCheck q.val = 0 →
    ∃ t : State, exec (.tzlEnable dt m q v) s = .next t ∧
      t.gb (Reg.TZL.CTRL.ENABLE q.val) = true ∧
      t.g (Reg.TZL.STATUS.ENABLE_RESULT q.val) = 0 ∧
      t.g (Reg.TZL.STATUS.LINK q.val) = (if s.engRunning 23 then 2 else 1) ∧
      (t.tz q.val).clockAt = s.clock + dt) ∧
  (∀ (dt : Nat) (m : Master) (q : Fin 16) (v : Word) (s : State),
    s.coreOn = true →
    s.mayWrite m.val ((Reg.TZL.CTRL.ENABLE q.val).addr) = true →
    s.gb (Reg.TZL.CTRL.ENABLE q.val) = false →
    (s.writeFields m.val (Reg.TZL.CTRL.ENABLE q.val).addr (fieldSet v 0 1 1) 0x80000001).tzlCheck q.val ≠ 0 →
    ∃ t : State, exec (.tzlEnable dt m q v) s = .next t ∧
      t.gb (Reg.TZL.CTRL.ENABLE q.val) = false ∧
      t.g (Reg.TZL.STATUS.ENABLE_RESULT q.val) = (s.writeFields m.val (Reg.TZL.CTRL.ENABLE q.val).addr (fieldSet v 0 1 1) 0x80000001).tzlCheck q.val ∧
      t.g (Reg.TZL.STATUS.LINK q.val) = s.g (Reg.TZL.STATUS.LINK q.val) ∧
      (∀ x, t.byte x = s.byte x)) ∧
  (∀ (dt : Nat) (m : Master) (q : Fin 16) (s : State),
    s.coreOn = true →
    s.mayWrite m.val ((Reg.TZL.CTRL.ENABLE q.val).addr) = true →
    s.gb (Reg.TZL.CTRL.ENABLE q.val) = true →
    ∃ t : State, exec (.tzlDisable dt m q) s = .next t ∧
      t.gb (Reg.TZL.CTRL.ENABLE q.val) = false ∧
      t.g (Reg.TZL.STATUS.LINK q.val) = 0 ∧
      t.g (Reg.TZL.STATUS.STREAM q.val) = 0) ∧
  (∀ (dt : Nat) (m : Master) (q : Fin 16) (s : State),
    s.coreOn = true →
    s.mayWrite m.val ((Reg.TZL.CTRL.ENABLE q.val).addr) = true →
    s.gb (Reg.TZL.CTRL.ENABLE q.val) = true →
    s.engRunning 23 = true →
    ∃ t : State, exec (.tzlTrain dt m q) s = .next t ∧
      t.g (Reg.TZL.STATUS.LINK q.val) = 2 ∧
      t.gb (Reg.TZL.CTRL.ENABLE q.val) = true ∧
      (t.tz q.val).ts2 = false ∧
      (t.tz q.val).clockAt = s.clock + dt) ∧
  (∀ (dt : Nat) (q : Fin 16) (o : OrderedSet) (s : State),
    s.coreOn = true →
    s.g (Reg.TZL.STATUS.LINK q.val) = 2 →
    s.engRunning 23 = true →
    (s.tzlLanes q.val).all (fun d => s.laneGood (dispQuad d) (dispLane d)) = true →
    (o.width ≠ s.tzlWidth q.val ∨ o.vmax % 256 < 2) →
    ∃ t : State, exec (.tzlOrderedSet dt q o) s = .next t ∧
      t.g (Reg.TZL.STATUS.LINK q.val) = 1 ∧
      t.g (Reg.TZL.STATUS.RESULT q.val) = (if o.width ≠ s.tzlWidth q.val then 3 else 4) ∧
      t.g (Reg.TZL.STATUS.PARTNER_VMAX q.val) = o.vmax % 256 ∧
      (t.tz q.val).clockAt = s.clock + dt + 100000000) ∧
  (∀ (dt : Nat) (q : Fin 16) (o : OrderedSet) (s : State),
    s.coreOn = true →
    s.g (Reg.TZL.STATUS.LINK q.val) = 2 →
    s.engRunning 23 = true →
    (s.tzlLanes q.val).all (fun d => s.laneGood (dispQuad d) (dispLane d)) = true →
    o.width = s.tzlWidth q.val →
    2 ≤ o.vmax % 256 →
    o.ts2 = false →
    ∃ t : State, exec (.tzlOrderedSet dt q o) s = .next t ∧
      t.g (Reg.TZL.STATUS.LINK q.val) = 2 ∧
      (t.tz q.val).ts2 = true ∧
      t.g (Reg.TZL.STATUS.PARTNER_VMAX q.val) = o.vmax % 256 ∧
      (∀ x, t.byte x = s.byte x)) ∧
  (∀ (dt : Nat) (q : Fin 16) (o : OrderedSet) (s : State),
    s.coreOn = true →
    s.g (Reg.TZL.STATUS.LINK q.val) = 2 →
    s.engRunning 23 = true →
    (s.tzlLanes q.val).all (fun d => s.laneGood (dispQuad d) (dispLane d)) = true →
    o.width = s.tzlWidth q.val →
    2 ≤ o.vmax % 256 →
    o.ts2 = true →
    (s.tz q.val).ts2 = true →
    o.vsel = min (s.g (Reg.TZL.CTRL.VERSION_MAX q.val)) (o.vmax % 256) →
    ∃ t : State, exec (.tzlOrderedSet dt q o) s = .next t ∧
      t.g (Reg.TZL.STATUS.LINK q.val) = 3 ∧
      t.g (Reg.TZL.STATUS.RESULT q.val) = 1 ∧
      t.g (Reg.TZL.STATUS.VERSION q.val) = o.vsel) ∧
  (∀ (dt : Nat) (q : Fin 16) (s : State),
    s.coreOn = true →
    s.g (Reg.TZL.STATUS.LINK q.val) = 2 →
    s.engRunning 23 = true →
    (s.tz q.val).clockAt + 10000000 ≤ s.clock + dt →
    ∃ t : State, exec (.tzlTrainingTimeout dt q) s = .next t ∧
      t.g (Reg.TZL.STATUS.LINK q.val) = 1 ∧
      t.g (Reg.TZL.STATUS.RESULT q.val) = 2 ∧
      (t.tz q.val).clockAt = s.clock + dt + 100000000) ∧
  (∀ (dt : Nat) (q : Fin 16) (s : State),
    s.coreOn = true →
    s.gb (Reg.TZL.CTRL.ENABLE q.val) = true →
    s.g (Reg.TZL.STATUS.LINK q.val) = 1 →
    s.engRunning 23 = true →
    (s.tz q.val).clockAt ≤ s.clock + dt →
    ∃ t : State, exec (.tzlTrainingRetry dt q) s = .next t ∧
      t.g (Reg.TZL.STATUS.LINK q.val) = 2 ∧
      (t.tz q.val).ts2 = false ∧
      (t.tz q.val).clockAt = s.clock + dt)

/-- Line and control packets, status packets, far-feed trailers and spare moves of a framer that is up, each with its registers. -/
def Obligations.ThizonPackets : Prop :=
  (∀ (dt : Nat) (q : Fin 16) (y : Nat) (s : State),
    s.coreOn = true →
    3 ≤ s.g (Reg.TZL.STATUS.LINK q.val) →
    s.g (Reg.TZL.STATUS.STREAM q.val) = 1 →
    (s.head (s.tzlHead q.val)).frame.scanned = y + 1 →
    y < (s.head (s.tzlHead q.val)).frame.nextLine →
    ∃ t : State, exec (.tzlLinePacket dt q y) s = .next t ∧
      (t.tz q.val).line = s.linePacket (s.tzlHead q.val) y ∧
      t.g (Reg.TZL.STATUS.LINK q.val) = s.g (Reg.TZL.STATUS.LINK q.val) ∧
      (∀ x, t.byte x = s.byte x)) ∧
  (∀ (dt : Nat) (q : Fin 16) (y : Nat) (s : State),
    s.coreOn = true →
    3 ≤ s.g (Reg.TZL.STATUS.LINK q.val) →
    s.g (Reg.TZL.STATUS.STREAM q.val) = 1 →
    (s.head (s.tzlHead q.val)).frame.scanned ≤ y →
    y < (s.head (s.tzlHead q.val)).frame.nextLine →
    ∃ t : State, exec (.tzlLinePacket dt q y) s = .next t ∧
      (t.tz q.val).line = ((s.advance dt).scanLines (s.tzlHead q.val) (y + 1 - (s.head (s.tzlHead q.val)).frame.scanned)).linePacket (s.tzlHead q.val) y ∧
      t.g (Reg.TZL.STATUS.LINK q.val) = s.g (Reg.TZL.STATUS.LINK q.val) ∧
      (∀ x, t.byte x = s.byte x)) ∧
  (∀ (dt : Nat) (m : Master) (q : Fin 16) (s : State),
    s.coreOn = true →
    s.mayWrite m.val ((Reg.TZL.CTRL_SEND.SEND q.val).addr) = true →
    s.gb (Reg.TZL.CTRL_SEND.SEND q.val) = false →
    1 ≤ s.g (Reg.TZL.CTRL_HDR.LEN q.val) →
    s.g (Reg.TZL.CTRL_HDR.LEN q.val) ≤ 32 →
    3 ≤ s.g (Reg.TZL.STATUS.LINK q.val) →
    ∃ t : State, exec (.ctrlSend dt m q) s = .next t ∧
      t.gb (Reg.TZL.CTRL_SEND.SEND q.val) = true ∧
      (t.tz q.val).queued.isSome = true ∧
      (∀ x, t.byte x = s.byte x)) ∧
  (∀ (dt : Nat) (m : Master) (q : Fin 16) (s : State),
    s.coreOn = true →
    s.mayWrite m.val ((Reg.TZL.CTRL_SEND.SEND q.val).addr) = true →
    s.gb (Reg.TZL.CTRL_SEND.SEND q.val) = false →
    (s.g (Reg.TZL.CTRL_HDR.LEN q.val) = 0 ∨ 32 < s.g (Reg.TZL.CTRL_HDR.LEN q.val)) →
    ∃ t : State, exec (.ctrlSend dt m q) s = .next t ∧
      t.gb (Reg.TZL.CTRL_SEND.SEND q.val) = false ∧
      t.g (Reg.TZL.CTRL_SEND.RESULT q.val) = 1 ∧
      (t.tz q.val).queued = (s.tz q.val).queued ∧
      (∀ x, t.byte x = s.byte x)) ∧
  (∀ (dt : Nat) (m : Master) (q : Fin 16) (s : State),
    s.coreOn = true →
    s.mayWrite m.val ((Reg.TZL.CTRL_SEND.SEND q.val).addr) = true →
    s.gb (Reg.TZL.CTRL_SEND.SEND q.val) = false →
    1 ≤ s.g (Reg.TZL.CTRL_HDR.LEN q.val) →
    s.g (Reg.TZL.CTRL_HDR.LEN q.val) ≤ 32 →
    s.g (Reg.TZL.STATUS.LINK q.val) < 3 →
    ∃ t : State, exec (.ctrlSend dt m q) s = .next t ∧
      t.gb (Reg.TZL.CTRL_SEND.SEND q.val) = false ∧
      t.g (Reg.TZL.CTRL_SEND.RESULT q.val) = 2 ∧
      (t.tz q.val).queued = (s.tz q.val).queued ∧
      (∀ x, t.byte x = s.byte x)) ∧
  (∀ (dt : Nat) (q : Fin 16) (bs : List Byte) (s : State),
    s.coreOn = true →
    3 ≤ s.g (Reg.TZL.STATUS.LINK q.val) →
    s.g (Reg.TZL.STATUS.VERSION q.val) = 3 →
    bs.length = 16 →
    (s.g (Reg.TZL.STAT_WR.INDEX q.val) + 1) % 2 ^ s.g (Reg.TZL.STAT_BASE.LOG2 q.val) ≠ s.g (Reg.TZL.STAT_RD.INDEX q.val) % 2 ^ s.g (Reg.TZL.STAT_BASE.LOG2 q.val) →
    s.inDram (4096 * s.g (Reg.TZL.STAT_BASE.ADDR q.val) + 32 * s.g (Reg.TZL.STAT_WR.INDEX q.val)) 32 = true →
    ∃ t : State, exec (.tzlStatusPacket dt q (bs ++ leBytes (crc32c bs) 4)) s = .next t ∧
      t.g (Reg.TZL.STAT_WR.INDEX q.val) = (s.g (Reg.TZL.STAT_WR.INDEX q.val) + 1) % 2 ^ s.g (Reg.TZL.STAT_BASE.LOG2 q.val) % 4096 ∧
      t.bytes (4096 * s.g (Reg.TZL.STAT_BASE.ADDR q.val) + 32 * s.g (Reg.TZL.STAT_WR.INDEX q.val)) 32 = bs ++ leBytes (s.advance dt).time.count 8 ++ leBytes 0 8 ∧
      t.gb (Reg.TZL.STAT_WR.STAT_OVF q.val) = s.gb (Reg.TZL.STAT_WR.STAT_OVF q.val)) ∧
  (∀ (dt : Nat) (q : Fin 16) (bs : List Byte) (s : State),
    s.coreOn = true →
    3 ≤ s.g (Reg.TZL.STATUS.LINK q.val) →
    s.g (Reg.TZL.STATUS.VERSION q.val) = 3 →
    bs.length = 16 →
    ((s.g (Reg.TZL.STAT_WR.INDEX q.val) + 1) % 2 ^ s.g (Reg.TZL.STAT_BASE.LOG2 q.val) = s.g (Reg.TZL.STAT_RD.INDEX q.val) % 2 ^ s.g (Reg.TZL.STAT_BASE.LOG2 q.val) ∨ s.inDram (4096 * s.g (Reg.TZL.STAT_BASE.ADDR q.val) + 32 * s.g (Reg.TZL.STAT_WR.INDEX q.val)) 32 = false) →
    ∃ t : State, exec (.tzlStatusPacket dt q (bs ++ leBytes (crc32c bs) 4)) s = .next t ∧
      t.g (Reg.TZL.STAT_WR.INDEX q.val) = s.g (Reg.TZL.STAT_WR.INDEX q.val) ∧
      t.gb (Reg.TZL.STAT_WR.STAT_OVF q.val) = true ∧
      (∀ x, t.byte x = s.byte x)) ∧
  (∀ (dt : Nat) (q : Fin 16) (h : Byte) (x y : Byte) (bs : List Byte) (s : State),
    s.coreOn = true →
    3 ≤ s.g (Reg.TZL.STATUS.LINK q.val) →
    bs.length = 16 →
    ∃ t : State, exec (.tzlLoopTrailer dt q ([h, ~~~h, x, y] ++ (bs ++ leBytes (crc32c bs) 4))) s = .next t ∧
      t.g (Reg.TZL.LOOP_FRAMES.COUNT q.val) = (s.g (Reg.TZL.LOOP_FRAMES.COUNT q.val) + 1) % 2 ^ 32 ∧
      t.g (Reg.TZL.LOOP.LOOP_HOP q.val) = h.toNat ∧
      t.gb (Reg.TZL.STATUS.LOOP_SEEN q.val) = true ∧
      t.gb (Reg.TZL.STATUS.LOOP_ACTIVE q.val) = bitOf (bs.getD 12 0).toNat 0 ∧
      (∀ x, t.byte x = s.byte x)) ∧
  (∀ (dt : Nat) (q : Fin 16) (s : State),
    (s.tz q.val).loopAt + 100000000 ≤ s.clock + dt →
    ∃ t : State, exec (.tzlLoopSeenExpire dt q) s = .next t ∧
      t.gb (Reg.TZL.STATUS.LOOP_SEEN q.val) = false ∧
      t.g (Reg.TZL.STATUS.LINK q.val) = s.g (Reg.TZL.STATUS.LINK q.val) ∧
      (∀ x, t.byte x = s.byte x)) ∧
  (∀ (dt : Nat) (q : Fin 16) (k : Fin 8) (b : Bool) (s : State),
    s.coreOn = true →
    3 ≤ s.g (Reg.TZL.STATUS.LINK q.val) →
    k.val < s.tzlWidth q.val →
    s.canSpare q.val k.val = true →
    (s.tz q.val).txMoved = false →
    ∃ t : State, exec (.tzlSprReceive dt q k b) s = .next t ∧
      t.g (Reg.TZL.STATUS.LINK q.val) = 4 ∧
      t.g (Reg.TZL.STATUS.SPARED_LANE q.val) = k.val ∧
      (t.tz q.val).txMoved = true ∧
      t.g (Reg.TZL.SPARE_COUNTS.SPARE_EVENTS q.val) = (s.g (Reg.TZL.SPARE_COUNTS.SPARE_EVENTS q.val) + 1) % 65536 ∧
      t.g (Reg.TZL.SPARE_COUNTS.LINES_LOST q.val) = (s.g (Reg.TZL.SPARE_COUNTS.LINES_LOST q.val) + b.toNat) % 65536 ∧
      t.evStatus Ev.laneSpare = true) ∧
  (∀ (dt : Nat) (q : Fin 16) (k : Fin 8) (b : Bool) (s : State),
    s.coreOn = true →
    3 ≤ s.g (Reg.TZL.STATUS.LINK q.val) →
    k.val < s.tzlWidth q.val →
    s.canSpare q.val k.val = false →
    ∃ t : State, exec (.tzlSprReceive dt q k b) s = .next t ∧
      t.g (Reg.TZL.STATUS.LINK q.val) = 1 ∧
      t.g (Reg.TZL.STATUS.RESULT q.val) = 5 ∧
      t.g (Reg.TZL.LOOP.LINK_DOWNS q.val) = (s.g (Reg.TZL.LOOP.LINK_DOWNS q.val) + 1) % 65536)

/-- LOS, LOL, alignment, block lock, adaptation and the PLL of a quad set a lane's flags, count and raise their events. -/
def Obligations.LaneDetectors : Prop :=
  (∀ (dt : Nat) (q : Fin 20) (w : BitVec 4) (l : Fin 4) (s : State),
    s.coreOn = true →
    bitOf w.toNat l.val = true →
    s.losHeard q.val l.val = true →
    s.gb (Reg.LANE.LOS q.val l.val) = false →
    ∃ t : State, exec (.laneLos dt q w) s = .next t ∧
      t.gb (Reg.LANE.LOS q.val l.val) = true ∧
      t.gb (Reg.LANE.LOS_SEEN q.val l.val) = true ∧
      t.gb (Reg.LANE.LOL q.val l.val) = true ∧
      t.g (Reg.LANE.LOS_EVENTS q.val l.val) = (s.g (Reg.LANE.LOS_EVENTS q.val l.val) + 1) % 2 ^ (Reg.LANE.LOS_EVENTS q.val l.val).width ∧
      (s.gb (Reg.LANE.LOS_EVT_EN q.val l.val) = true → t.evStatus Ev.laneLos = true)) ∧
  (∀ (dt : Nat) (q : Fin 20) (w : BitVec 4) (l : Fin 4) (s : State),
    s.coreOn = true →
    bitOf w.toNat l.val = true →
    s.lolHeard q.val l.val = true →
    s.gb (Reg.LANE.LOL q.val l.val) = false →
    ∃ t : State, exec (.laneLol dt q w) s = .next t ∧
      t.gb (Reg.LANE.LOL q.val l.val) = true ∧
      t.gb (Reg.LANE.LOL_SEEN q.val l.val) = true ∧
      t.g (Reg.LANE.LOL_EVENTS q.val l.val) = (s.g (Reg.LANE.LOL_EVENTS q.val l.val) + 1) % 2 ^ (Reg.LANE.LOL_EVENTS q.val l.val).width ∧
      t.gb (Reg.LANE.LOS q.val l.val) = s.gb (Reg.LANE.LOS q.val l.val) ∧
      (s.gb (Reg.LANE.LOL_EVT_EN q.val l.val) = true → t.evStatus Ev.laneLol = true)) ∧
  (∀ (dt : Nat) (q : Fin 20) (l : Fin 4) (s : State),
    s.coreOn = true →
    s.losHeard q.val l.val = true →
    ∃ t : State, exec (.laneLosClear dt q l) s = .next t ∧
      t.gb (Reg.LANE.LOS q.val l.val) = false ∧
      t.gb (Reg.LANE.LOL q.val l.val) = s.gb (Reg.LANE.LOL q.val l.val) ∧
      (∀ x, t.byte x = s.byte x)) ∧
  (∀ (dt : Nat) (q : Fin 20) (l : Fin 4) (s : State),
    s.coreOn = true →
    s.lolHeard q.val l.val = true →
    s.gb (Reg.LANE.LOL q.val l.val) = true →
    s.gb (Reg.LANE.LOS q.val l.val) = false →
    s.gb (Reg.QUAD.PLL_LOCK q.val) = true →
    (s.lane q.val l.val).lockFrom + 16000 ≤ s.clock + dt →
    ∃ t : State, exec (.laneLolClear dt q l) s = .next t ∧
      t.gb (Reg.LANE.LOL q.val l.val) = false ∧
      t.g (Reg.LANE.ADAPT q.val l.val) = 1 ∧
      (∀ x, t.byte x = s.byte x)) ∧
  (∀ (dt : Nat) (q : Fin 20) (s : State),
    s.coreOn = true →
    (s.advance dt).quadMayFail q.val = true →
    ∃ t : State, exec (.quadPllFail dt q) s = .next t ∧
      t.gb (Reg.QUAD.PLL_LOCK q.val) = false ∧
      t.g (Reg.QUAD.PLL_LOSSES q.val) = (s.g (Reg.QUAD.PLL_LOSSES q.val) + 1) % 2 ^ (Reg.QUAD.PLL_LOSSES q.val).width ∧
      t.evStatus Ev.clkFail = true) ∧
  (∀ (dt : Nat) (q : Fin 20) (l : Fin 4) (s : State),
    s.coreOn = true →
    s.laneGood q.val l.val = true →
    (s.g (Reg.LANE.OWNER q.val l.val) = 3 ∨ s.g (Reg.LANE.OWNER q.val l.val) = 4) →
    ∃ t : State, exec (.laneAligned dt q l) s = .next t ∧
      t.gb (Reg.LANE.ALIGNED q.val l.val) = true ∧
      (∀ x, t.byte x = s.byte x)) ∧
  (∀ (dt : Nat) (q : Fin 20) (l : Fin 4) (s : State),
    s.coreOn = true →
    s.gb (Reg.LANE.ALIGNED q.val l.val) = true →
    ∃ t : State, exec (.laneAlignLoss dt q l) s = .next t ∧
      t.gb (Reg.LANE.ALIGNED q.val l.val) = false ∧
      t.gb (Reg.LANE.ALIGN_LOST q.val l.val) = true ∧
      t.g (Reg.LANE.REALIGNS q.val l.val) = (s.g (Reg.LANE.REALIGNS q.val l.val) + 1) % 2 ^ (Reg.LANE.REALIGNS q.val l.val).width ∧
      t.g (Reg.LANE.CODE_ERR q.val l.val) = (s.g (Reg.LANE.CODE_ERR q.val l.val) + 4) % 2 ^ (Reg.LANE.CODE_ERR q.val l.val).width ∧
      (∀ x, t.byte x = s.byte x)) ∧
  (∀ (dt : Nat) (q : Fin 20) (l : Fin 4) (s : State),
    s.coreOn = true →
    s.laneGood q.val l.val = true →
    s.g (Reg.LANE.OWNER q.val l.val) = 1 →
    ∃ t : State, exec (.blockLockAcquired dt q l) s = .next t ∧
      t.gb (Reg.LANE.BLOCK_LOCK q.val l.val) = true ∧
      (∀ x, t.byte x = s.byte x)) ∧
  (∀ (dt : Nat) (q : Fin 20) (l : Fin 4) (s : State),
    s.coreOn = true →
    s.gb (Reg.LANE.BLOCK_LOCK q.val l.val) = true →
    ∃ t : State, exec (.blockLockLoss dt q l) s = .next t ∧
      t.gb (Reg.LANE.BLOCK_LOCK q.val l.val) = false ∧
      t.gb (Reg.LANE.BLOCK_LOST q.val l.val) = true ∧
      t.g (Reg.LANE.LOCK_LOSSES q.val l.val) = (s.g (Reg.LANE.LOCK_LOSSES q.val l.val) + 1) % 2 ^ (Reg.LANE.LOCK_LOSSES q.val l.val).width ∧
      t.g (Reg.LANE.SYNC_HDR_ERR q.val l.val) = (s.g (Reg.LANE.SYNC_HDR_ERR q.val l.val) + 16) % 2 ^ (Reg.LANE.SYNC_HDR_ERR q.val l.val).width) ∧
  (∀ (dt : Nat) (q : Fin 20) (l : Fin 4) (s : State),
    s.coreOn = true →
    s.g (Reg.LANE.ADAPT q.val l.val) = 1 →
    s.gb (Reg.LANE.ADAPT_FREEZE q.val l.val) = false →
    ∃ t : State, exec (.adaptationConverged dt q l) s = .next t ∧
      t.g (Reg.LANE.ADAPT q.val l.val) = 2 ∧
      (∀ x, t.byte x = s.byte x)) ∧
  (∀ (dt : Nat) (m : Master) (q : Fin 20) (l : Fin 4) (s : State),
    s.coreOn = true →
    s.mayWrite m.val ((Reg.LANE.TEST_EN q.val l.val).addr) = true →
    s.gb (Reg.LANE.ADAPT_FREEZE q.val l.val) = false →
    ∃ t : State, exec (.adaptRestart dt m q l) s = .next t ∧
      t.g (Reg.LANE.CTLE q.val l.val) = 8 ∧
      t.g (Reg.LANE.DFE1 q.val l.val) = 0 ∧
      t.g (Reg.LANE.DFE5 q.val l.val) = 0 ∧
      ((s.gb (Reg.LANE.TEST_EN q.val l.val) = true ∨ s.g (Reg.LANE.LOOPBACK q.val l.val) = 0) → t.g (Reg.LANE.ADAPT q.val l.val) = min (s.g (Reg.LANE.ADAPT q.val l.val)) 1) ∧
      t.gb (Reg.LANE.TEST_EN q.val l.val) = s.gb (Reg.LANE.TEST_EN q.val l.val))

/-- A lane goes into test when R437 allows; loopback is chosen in test alone; the PRBS checker locks, counts errors, is cleared and loses lock. -/
def Obligations.LaneTests : Prop :=
  (∀ (dt : Nat) (m : Master) (q : Fin 20) (l : Fin 4) (s : State),
    s.coreOn = true →
    s.mayWrite m.val ((Reg.LANE.TEST_EN q.val l.val).addr) = true →
    s.gb (Reg.LANE.TEST_EN q.val l.val) = false →
    s.testAllowed q.val l.val = true →
    ∃ t : State, exec (.laneTestEnable dt m q l) s = .next t ∧
      t.gb (Reg.LANE.TEST_EN q.val l.val) = true ∧
      t.g (Reg.LANE.OWNER q.val l.val) = 5 ∧
      t.g (Reg.LANE.PSTATE q.val l.val) = 0) ∧
  (∀ (dt : Nat) (m : Master) (q : Fin 20) (l : Fin 4) (s : State),
    s.coreOn = true →
    s.mayWrite m.val ((Reg.LANE.TEST_EN q.val l.val).addr) = true →
    s.gb (Reg.LANE.TEST_EN q.val l.val) = false →
    s.testAllowed q.val l.val = false →
    ∃ t : State, exec (.laneTestEnable dt m q l) s = .next t ∧
      t.gb (Reg.LANE.TEST_EN q.val l.val) = false ∧
      t.g (Reg.LANE.OWNER q.val l.val) = s.g (Reg.LANE.OWNER q.val l.val)) ∧
  (∀ (dt : Nat) (m : Master) (q : Fin 20) (l : Fin 4) (x : Fin 4) (s : State),
    s.coreOn = true →
    s.mayWrite m.val ((Reg.LANE.TEST_EN q.val l.val).addr) = true →
    ∃ t : State, exec (.loopbackSelect dt m q l x) s = .next t ∧
      t.g (Reg.LANE.LOOPBACK q.val l.val) = (if s.gb (Reg.LANE.TEST_EN q.val l.val) then x.val else 0) ∧
      t.gb (Reg.LANE.TEST_EN q.val l.val) = s.gb (Reg.LANE.TEST_EN q.val l.val) ∧
      (s.gb Reg.EVT.LOG_EN = false → ∀ x, t.byte x = s.byte x)) ∧
  (∀ (dt : Nat) (m : Master) (q : Fin 20) (l : Fin 4) (s : State),
    s.coreOn = true →
    s.mayWrite m.val ((Reg.LANE.PRBS.INJECT q.val l.val).addr) = true →
    s.gb (Reg.LANE.TEST_EN q.val l.val) = true →
    s.gb (Reg.LANE.PRBS.GEN_EN q.val l.val) = true →
    s.gb (Reg.LANE.PRBS.CHK_EN q.val l.val) = true →
    s.gb (Reg.LANE.PRBS.LOCK q.val l.val) = true →
    (s.g (Reg.LANE.LOOPBACK q.val l.val) = 1 ∨ s.g (Reg.LANE.LOOPBACK q.val l.val) = 2) →
    (s.lane q.val l.val).genAt.isSome = true →
    ((s.advance dt).prbsRecent q.val l.val).length < 254 →
    ∃ t : State, exec (.prbsInject dt m q l) s = .next t ∧
      t.g (Reg.LANE.ERRORS q.val l.val) = min (s.g (Reg.LANE.ERRORS q.val l.val) + (s.advance dt).injNew q.val l.val + 1) (2 ^ (Reg.LANE.ERRORS q.val l.val).width - 1) ∧
      t.gb (Reg.LANE.PRBS.LOCK q.val l.val) = true) ∧
  (∀ (dt : Nat) (m : Master) (q : Fin 20) (l : Fin 4) (s : State),
    s.coreOn = true →
    s.mayWrite m.val ((Reg.LANE.PRBS.INJECT q.val l.val).addr) = true →
    s.gb (Reg.LANE.TEST_EN q.val l.val) = false →
    ∃ t : State, exec (.prbsInject dt m q l) s = .next t ∧
      t.g (Reg.LANE.ERRORS q.val l.val) = s.g (Reg.LANE.ERRORS q.val l.val)) ∧
  (∀ (dt : Nat) (m : Master) (q : Fin 20) (l : Fin 4) (s : State),
    s.coreOn = true →
    s.mayWrite m.val ((Reg.LANE.PRBS.CLR q.val l.val).addr) = true →
    ∃ t : State, exec (.prbsClear dt m q l) s = .next t ∧
      t.g (Reg.LANE.ERRORS q.val l.val) = 0 ∧
      t.bitsNow q.val l.val = 0 ∧
      t.gb (Reg.LANE.PRBS.LOCK q.val l.val) = s.gb (Reg.LANE.PRBS.LOCK q.val l.val) ∧
      (s.gb Reg.EVT.LOG_EN = false → ∀ x, t.byte x = s.byte x)) ∧
  (∀ (dt : Nat) (q : Fin 20) (l : Fin 4) (s : State),
    s.coreOn = true →
    s.g (Reg.LANE.OWNER q.val l.val) = 5 →
    s.gb (Reg.LANE.PRBS.CHK_EN q.val l.val) = true →
    s.prbsHears q.val l.val = true →
    s.prbsFits q.val l.val = true →
    ∃ t : State, exec (.prbsLock dt q l) s = .next t ∧
      t.gb (Reg.LANE.PRBS.LOCK q.val l.val) = true ∧
      (s.gb (Reg.LANE.PRBS.LOCK q.val l.val) = false → t.evStatus Ev.lanePrbs = true) ∧
      t.g (Reg.LANE.ERRORS q.val l.val) = s.g (Reg.LANE.ERRORS q.val l.val)) ∧
  (∀ (dt : Nat) (q : Fin 20) (l : Fin 4) (s : State),
    s.coreOn = true →
    s.gb (Reg.LANE.PRBS.LOCK q.val l.val) = true →
    ∃ t : State, exec (.prbsLockLoss dt q l) s = .next t ∧
      t.gb (Reg.LANE.PRBS.LOCK q.val l.val) = false ∧
      t.g (Reg.LANE.PRBS.PRBS_LOCK_LOSSES q.val l.val) = (s.g (Reg.LANE.PRBS.PRBS_LOCK_LOSSES q.val l.val) + 1) % 2 ^ (Reg.LANE.PRBS.PRBS_LOCK_LOSSES q.val l.val).width ∧
      t.g (Reg.LANE.ERRORS q.val l.val) = min (s.g (Reg.LANE.ERRORS q.val l.val) + (s.advance dt).injNew q.val l.val + (256 - (((s.advance dt).prbsSettle q.val l.val).prbsRecent q.val l.val).length)) (2 ^ (Reg.LANE.ERRORS q.val l.val).width - 1) ∧
      t.evStatus Ev.lanePrbs = true) ∧
  (∀ (dt : Nat) (q : Fin 20) (l : Fin 4) (s : State),
    s.coreOn = true →
    s.gb (Reg.LANE.PRBS.LOCK q.val l.val) = true →
    ((s.advance dt).prbsRecent q.val l.val).length < 254 →
    ∃ t : State, exec (.prbsErrorDetected dt q l) s = .next t ∧
      t.g (Reg.LANE.ERRORS q.val l.val) = min (s.g (Reg.LANE.ERRORS q.val l.val) + (s.advance dt).injNew q.val l.val + 1) (2 ^ (Reg.LANE.ERRORS q.val l.val).width - 1) ∧
      t.gb (Reg.LANE.PRBS.LOCK q.val l.val) = true ∧
      (s.g (Reg.LANE.ERRORS q.val l.val) = 0 → t.evStatus Ev.lanePrbs = true)) ∧
  (∀ (dt : Nat) (q : Fin 20) (l : Fin 4) (s : State),
    s.coreOn = true →
    s.gb (Reg.LANE.PRBS.LOCK q.val l.val) = true →
    255 ≤ (((s.advance dt).prbsSettle q.val l.val).prbsRecent q.val l.val).length →
    ∃ t : State, exec (.prbsErrorDetected dt q l) s = .next t ∧
      t.g (Reg.LANE.ERRORS q.val l.val) = min (s.g (Reg.LANE.ERRORS q.val l.val) + (s.advance dt).injNew q.val l.val + 1) (2 ^ (Reg.LANE.ERRORS q.val l.val).width - 1) ∧
      t.gb (Reg.LANE.PRBS.LOCK q.val l.val) = false ∧
      t.g (Reg.LANE.PRBS.PRBS_LOCK_LOSSES q.val l.val) = (s.g (Reg.LANE.PRBS.PRBS_LOCK_LOSSES q.val l.val) + 1) % 2 ^ (Reg.LANE.PRBS.PRBS_LOCK_LOSSES q.val l.val).width ∧
      t.evStatus Ev.lanePrbs = true)

/-- A trigger makes the newest picture wait; jobs start by class and age, give way to LIVE, complete with their counters, or abort with a fault record. -/
def Obligations.EncodeJobs : Prop :=
  (∀ (dt : Nat) (i : Fin 32) (p : EncPend) (s : State),
    s.coreOn = true →
    s.gb (Reg.ENC.STR.ENABLE i.val) = true →
    (s.advance dt).trigIndex i.val ≠ (s.estr i.val).lastTrig →
    (s.advance dt).encPick i.val ((s.advance dt).trigIndex i.val) = some p →
    ∃ t : State, exec (.encodeTrigger dt i) s = .next t ∧
      (t.estr i.val).pend = some p ∧
      p.trig = (s.advance dt).trigIndex i.val ∧
      p.time = s.clock + dt ∧
      (t.estr i.val).lastTrig = (s.advance dt).trigIndex i.val ∧
      (s.g (Reg.ENC.STR.STATE i.val) = 1 → t.g (Reg.ENC.STR.STATE i.val) = 2) ∧
      t.g (Reg.ENC.STR.LATE i.val) = (s.g (Reg.ENC.STR.LATE i.val) + (s.estr i.val).pend.isSome.toNat) % 2 ^ (Reg.ENC.STR.LATE i.val).width) ∧
  (∀ (dt : Nat) (i : Fin 32) (s : State),
    s.coreOn = true →
    s.gb (Reg.ENC.STR.ENABLE i.val) = true →
    (s.advance dt).trigIndex i.val ≠ (s.estr i.val).lastTrig →
    (s.advance dt).encPick i.val ((s.advance dt).trigIndex i.val) = none →
    ∃ t : State, exec (.encodeTrigger dt i) s = .next t ∧
      (t.estr i.val).pend = (s.estr i.val).pend ∧
      (t.estr i.val).lastTrig = (s.advance dt).trigIndex i.val ∧
      t.g (Reg.ENC.STR.STATE i.val) = s.g (Reg.ENC.STR.STATE i.val)) ∧
  (∀ (dt : Nat) (n : Fin 2) (i : Fin 32) (s : State),
    s.coreOn = true →
    s.encCandidate = some i.val →
    (s.advance dt).encTakes n.val (s.g (Reg.ENC.STR.CLASS i.val)) = true →
    ∃ t : State, exec (.encodeDispatch dt n) s = .next t ∧
      ((t.epipe n.val).job.map (fun j => j.str)) = some i.val ∧
      (t.estr i.val).pend = none ∧
      (t.epipe n.val).susp = (s.epipe n.val).susp) ∧
  (∀ (dt : Nat) (n : Fin 2) (j : EncJob) (s : State),
    s.coreOn = true →
    s.encCandidate = none →
    (s.epipe n.val).job = none →
    (s.epipe n.val).susp = some j →
    (s.epipe n.val).times.inPhase (s.clock + dt) = false →
    ∃ t : State, exec (.encodeDispatch dt n) s = .next t ∧
      (∃ d ≤ 30000, (t.epipe n.val).job = some { j with ranAt := s.clock + dt + d }) ∧
      (t.epipe n.val).susp = none) ∧
  (∀ (dt : Nat) (n : Fin 2) (i : Fin 32) (j : EncJob) (s : State),
    s.coreOn = true →
    s.encCandidate = some i.val →
    s.g (Reg.ENC.STR.CLASS i.val) = 0 →
    s.encVictim = some n.val →
    (s.advance dt).encTakes 0 0 = false →
    (s.advance dt).encTakes 1 0 = false →
    (s.epipe n.val).job = some j →
    j.gone = false →
    j.str < 32 →
    ∃ t : State, exec (.encodePreempt dt n) s = .next t ∧
      (t.epipe n.val).susp = some { j with used := j.cycles (s.clock + dt) } ∧
      ((t.epipe n.val).job.map (fun j => j.str)) = some i.val ∧
      t.g (Reg.ENC.PIPE.PREEMPTS n.val) = (s.g (Reg.ENC.PIPE.PREEMPTS n.val) + 1) % 2 ^ (Reg.ENC.PIPE.PREEMPTS n.val).width) ∧
  (∀ (dt : Nat) (n : Fin 2) (j : EncJob) (e : EncEnd) (s : State),
    s.coreOn = true →
    (s.epipe n.val).job = some j →
    j.gone = false →
    j.str < 32 →
    s.encCodes j e (s.encTail j e (s.inputGone j && decide (e.rows < s.encRows j.str))) = true →
    (s.gb (Reg.ENC.STR.OUT_RING j.str) = true → ((s.advance dt).encRecord n.val j ((s.advance dt).auOf j e (s.encTail j e (s.inputGone j && decide (e.rows < s.encRows j.str))).isSome)).2 = none) →
    ∃ t : State, exec (.encodeJobDone dt n e.units e.blocks e.rows e.recon) s = .next t ∧
      (t.epipe n.val).job = none ∧
      t.g (Reg.ENC.PIPE.JOBS n.val) = (s.g (Reg.ENC.PIPE.JOBS n.val) + 1) % 2 ^ (Reg.ENC.PIPE.JOBS n.val).width ∧
      t.g (Reg.ENC.STR.PICTURES j.str) = (s.g (Reg.ENC.STR.PICTURES j.str) + 1) % 2 ^ (Reg.ENC.STR.PICTURES j.str).width ∧
      t.g (Reg.ENC.STR.LAST_SEQ j.str) = j.seq % 2 ^ 32 ∧
      t.g (Reg.ENC.STR.TAILS j.str) = (s.g (Reg.ENC.STR.TAILS j.str) + (s.encTail j e (s.inputGone j && decide (e.rows < s.encRows j.str))).isSome.toNat) % 2 ^ (Reg.ENC.STR.TAILS j.str).width ∧
      ((s.encTail j e (s.inputGone j && decide (e.rows < s.encRows j.str))).isSome = true → t.evStatus Ev.encTail = true) ∧
      t.g (Reg.ENC.STR.INPUT_CHANGED j.str) = (s.g (Reg.ENC.STR.INPUT_CHANGED j.str) + (s.inputGone j && decide (e.rows < s.encRows j.str)).toNat) % 2 ^ (Reg.ENC.STR.INPUT_CHANGED j.str).width ∧
      t.g (Reg.ENC.STR.REPEATS j.str) = (s.g (Reg.ENC.STR.REPEATS j.str) + j.again.toNat) % 2 ^ (Reg.ENC.STR.REPEATS j.str).width ∧
      (t.estr j.str).remTrig = j.trig) ∧
  (∀ (dt : Nat) (n : Fin 2) (j : EncJob) (e : EncEnd) (s : State),
    s.coreOn = true →
    (s.epipe n.val).job = some j →
    j.gone = true →
    ∃ t : State, exec (.encodeJobDone dt n e.units e.blocks e.rows e.recon) s = .next t ∧
      (t.epipe n.val).job = none ∧
      t.enc.strs = s.enc.strs ∧
      t.regs = s.regs ∧
      (∀ x, t.byte x = s.byte x)) ∧
  (∀ (dt : Nat) (n : Fin 2) (j : EncJob) (s : State),
    s.coreOn = true →
    (s.epipe n.val).job = some j →
    j.gone = false →
    j.str < 32 →
    j.limit ≤ j.cycles (s.clock + dt) →
    s.enc.faults.length < 16 →
    ∃ t : State, exec (.encodeWatchdog dt n) s = .next t ∧
      (t.epipe n.val).job = none ∧
      t.enc.faults = s.enc.faults ++ [⟨n.val, j.str, 3, 0, j.seq⟩] ∧
      t.g (Reg.ENC.PIPE.ABORTS n.val) = (s.g (Reg.ENC.PIPE.ABORTS n.val) + 1) % 2 ^ (Reg.ENC.PIPE.ABORTS n.val).width ∧
      t.g (Reg.ENC.STR.ABORTS j.str) = (s.g (Reg.ENC.STR.ABORTS j.str) + 1) % 2 ^ (Reg.ENC.STR.ABORTS j.str).width ∧
      t.evStatus Ev.encDone = true ∧
      (t.estr j.str).idrNext = true) ∧
  (∀ (dt : Nat) (n : Fin 2) (j : EncJob) (f : JobFault) (a : BitVec 36) (s : State),
    s.coreOn = true →
    (s.epipe n.val).job = some j →
    j.gone = false →
    j.str < 32 →
    s.enc.faults.length < 16 →
    (f = .sbxRead → s.encWindow n.val j a.toNat false = false) →
    (f = .sbxWrite → s.encWindow n.val j a.toNat true = false) →
    (f = .busError → (s.encWindow n.val j a.toNat false = true ∨ s.encWindow n.val j a.toNat true = true)) →
    ∃ t : State, exec (.encodeAccessFault dt n f a) s = .next t ∧
      (t.epipe n.val).job = none ∧
      t.enc.faults = s.enc.faults ++ [⟨n.val, j.str, (match f with | .sbxRead => 1 | .sbxWrite => 2 | .storeEcc => 4 | .busError => 5), (if f = .storeEcc then 0 else a.toNat), j.seq⟩] ∧
      t.g (Reg.ENC.PIPE.ABORTS n.val) = (s.g (Reg.ENC.PIPE.ABORTS n.val) + 1) % 2 ^ (Reg.ENC.PIPE.ABORTS n.val).width ∧
      t.evStatus Ev.encDone = true ∧
      (t.estr j.str).idrNext = true) ∧
  (∀ (dt : Nat) (n : Fin 2) (j : EncJob) (f : JobFault) (a : BitVec 36) (s : State),
    s.coreOn = true →
    (s.epipe n.val).job = some j →
    ((f = .sbxRead ∧ s.encWindow n.val j a.toNat false = true) ∨ (f = .sbxWrite ∧ s.encWindow n.val j a.toNat true = true)) →
    ∃ t : State, exec (.encodeAccessFault dt n f a) s = .next t ∧
      t = s.advance dt)

/-- A stream enables when its checks pass and stops at once; FORCE_IDR, pipe enables, fault reads and sender reports have their effects. -/
def Obligations.EncodeStreams : Prop :=
  (∀ (dt : Nat) (m : Master) (i : Fin 32) (s : State),
    s.coreOn = true →
    s.mayWrite m.val ((Reg.ENC.STR.ENABLE i.val).addr) = true →
    s.gb (Reg.ENC.STR.ENABLE i.val) = false →
    s.encCheck i.val = 0 →
    ∃ t : State, exec (.encodeStreamEnable dt m i) s = .next t ∧
      t.gb (Reg.ENC.STR.ENABLE i.val) = true ∧
      t.g (Reg.ENC.STR.ENABLE_RESULT i.val) = 0 ∧
      t.g (Reg.ENC.STR.STATE i.val) = 1 ∧
      t.g (Reg.ENC.STR.PICTURES i.val) = 0 ∧
      t.g (Reg.ENC.STR.ABORTS i.val) = 0 ∧
      (t.estr i.val).idrNext = true ∧
      (t.estr i.val).pend = none ∧
      (∀ x, t.byte x = s.byte x)) ∧
  (∀ (dt : Nat) (m : Master) (i : Fin 32) (s : State),
    s.coreOn = true →
    s.mayWrite m.val ((Reg.ENC.STR.ENABLE i.val).addr) = true →
    s.gb (Reg.ENC.STR.ENABLE i.val) = false →
    s.encCheck i.val ≠ 0 →
    ∃ t : State, exec (.encodeStreamEnable dt m i) s = .next t ∧
      t.gb (Reg.ENC.STR.ENABLE i.val) = false ∧
      t.g (Reg.ENC.STR.ENABLE_RESULT i.val) = s.encCheck i.val ∧
      t.g (Reg.ENC.STR.STATE i.val) = s.g (Reg.ENC.STR.STATE i.val) ∧
      (∀ x, t.byte x = s.byte x)) ∧
  (∀ (dt : Nat) (m : Master) (i : Fin 32) (n : Fin 2) (s : State),
    s.coreOn = true →
    s.mayWrite m.val ((Reg.ENC.STR.ENABLE i.val).addr) = true →
    s.gb (Reg.ENC.STR.ENABLE i.val) = true →
    ∃ t : State, exec (.encodeStreamDisable dt m i) s = .next t ∧
      t.gb (Reg.ENC.STR.ENABLE i.val) = false ∧
      t.g (Reg.ENC.STR.STATE i.val) = 0 ∧
      (∀ j ∈ (t.epipe n.val).job, j.str = i.val → j.gone = true) ∧
      ((t.epipe n.val).susp.map (fun j => j.str)) ≠ some i.val ∧
      (∀ x, t.byte x = s.byte x)) ∧
  (∀ (dt : Nat) (m : Master) (i : Fin 32) (s : State),
    s.coreOn = true →
    s.mayWrite m.val ((Reg.ENC.STR.ENABLE i.val).addr) = true →
    s.gb (Reg.ENC.STR.ENABLE i.val) = true →
    ∃ t : State, exec (.forceIdr dt m i) s = .next t ∧
      (t.estr i.val).idrNext = true ∧
      t.gb (Reg.ENC.STR.ENABLE i.val) = true ∧
      (t.estr i.val).pend = (s.estr i.val).pend) ∧
  (∀ (dt : Nat) (m : Master) (n : Fin 2) (s : State),
    s.coreOn = true →
    s.mayWrite m.val ((Reg.ENC.PIPE.ENABLE n.val).addr) = true →
    s.inDram (4096 * s.g (Reg.ENC.PIPE.SAVE_BASE n.val)) 262144 = true →
    ∃ t : State, exec (.encPipeEnable dt m n true) s = .next t ∧
      t.gb (Reg.ENC.PIPE.ENABLE n.val) = true ∧
      (∀ x, t.byte x = s.byte x)) ∧
  (∀ (dt : Nat) (m : Master) (n : Fin 2) (b : Bool) (s : State),
    s.coreOn = true →
    s.mayWrite m.val ((Reg.ENC.PIPE.ENABLE n.val).addr) = true →
    (b = false ∨ s.inDram (4096 * s.g (Reg.ENC.PIPE.SAVE_BASE n.val)) 262144 = false) →
    ∃ t : State, exec (.encPipeEnable dt m n b) s = .next t ∧
      t.gb (Reg.ENC.PIPE.ENABLE n.val) = false ∧
      (∀ x, t.byte x = s.byte x)) ∧
  (∀ (dt : Nat) (m : Master) (f : DecFault) (rest : List DecFault) (s : State),
    s.coreOn = true →
    s.readsNow m.val = true →
    s.enc.faults = f :: rest →
    ∃ t : State, exec (.encFaultRead dt m) s = .next t ∧
      t.enc.faults = rest ∧
      t.bus.resp = some ⟨false, leBytes (BitVec.ofNat 32 (2 ^ 31 + f.ctx * 2 ^ 16 + f.pipe * 2 ^ 8 + f.cause)).toNat 4⟩) ∧
  (∀ (dt : Nat) (m : Master) (s : State),
    s.coreOn = true →
    s.readsNow m.val = true →
    s.enc.faults = [] →
    ∃ t : State, exec (.encFaultRead dt m) s = .next t ∧
      t.enc.faults = [] ∧
      t.bus.resp = some ⟨false, [0, 0, 0, 0]⟩) ∧
  (∀ (dt : Nat) (i : Fin 32) (s : State),
    s.coreOn = true →
    s.gb (Reg.ENC.STR.ENABLE i.val) = true →
    s.gb (Reg.ENC.STR.OUT_NET i.val) = true →
    s.g (Reg.ENC.STR.STATE i.val) ≠ 1 →
    s.timeState = 2 →
    s.granted = true →
    1000000 * s.g (Reg.ENC.STR.SR_INTERVAL_MS i.val) ≤ s.clock + dt - (s.estr i.val).srAt →
    s.gb (Reg.NET.PORT.LINK (s.g (Reg.ENC.STR.PORT i.val) / 4) (s.g (Reg.ENC.STR.PORT i.val) % 4)) = true →
    ∃ t : State, exec (.encSenderReport dt i) s = .next t ∧
      (t.estr i.val).srAt = s.clock + dt ∧
      (t.estr i.val).pkts = (s.estr i.val).pkts ∧
      (t.estr i.val).octets = (s.estr i.val).octets ∧
      Tab.get [] (s.g (Reg.ENC.STR.PORT i.val)) t.net.sent = [s.udpFrame i.val ((s.g (Reg.ENC.STR.DST_UDP i.val) + 1) % 65536)
      (leBytes 0x80 1 ++ leBytes 200 1 ++ beBytes 6 2 ++ beBytes (s.g (Reg.ENC.STR.SSRC i.val)) 4 ++
        beBytes (unsigned 32 ((s.advance dt).wall / 1000000000 + 2208988800 - s.g Reg.ING.CTRL.TAI_UTC)) 4 ++
        beBytes (wallNs (s.advance dt).wall * 2 ^ 32 / 1000000000) 4 ++ beBytes (unsigned 32 ((s.advance dt).wall * 9 / 100000)) 4 ++
        beBytes (s.estr i.val).pkts 4 ++ beBytes (s.estr i.val).octets 4)] ∧
      t.g (Reg.NET.PORT.TX_FRAMES (s.g (Reg.ENC.STR.PORT i.val) / 4) (s.g (Reg.ENC.STR.PORT i.val) % 4)) = (s.g (Reg.NET.PORT.TX_FRAMES (s.g (Reg.ENC.STR.PORT i.val) / 4) (s.g (Reg.ENC.STR.PORT i.val) % 4)) + 1) % 2 ^ (Reg.NET.PORT.TX_FRAMES (s.g (Reg.ENC.STR.PORT i.val) / 4) (s.g (Reg.ENC.STR.PORT i.val) % 4)).width ∧
      (∀ x, t.byte x = s.byte x)) ∧
  (∀ (dt : Nat) (i : Fin 32) (s : State),
    s.coreOn = true →
    s.gb (Reg.ENC.STR.ENABLE i.val) = true →
    s.gb (Reg.ENC.STR.OUT_NET i.val) = true →
    s.g (Reg.ENC.STR.STATE i.val) ≠ 1 →
    s.timeState = 2 →
    s.granted = true →
    1000000 * s.g (Reg.ENC.STR.SR_INTERVAL_MS i.val) ≤ s.clock + dt - (s.estr i.val).srAt →
    s.gb (Reg.NET.PORT.LINK (s.g (Reg.ENC.STR.PORT i.val) / 4) (s.g (Reg.ENC.STR.PORT i.val) % 4)) = false →
    ∃ t : State, exec (.encSenderReport dt i) s = .next t ∧
      (t.estr i.val).srAt = s.clock + dt ∧
      (t.estr i.val).pkts = (s.estr i.val).pkts ∧
      (t.estr i.val).octets = (s.estr i.val).octets ∧
      t.net = s.net ∧
      (∀ x, t.byte x = s.byte x))

/-- Touch enables when its checks pass, starts frames, keeps or drops them, and forms, drifts and corrects its baselines. -/
def Obligations.TouchScanning : Prop :=
  (∀ (dt : Nat) (m : Master) (p : Fin 2) (s : State),
    s.coreOn = true →
    s.mayWrite m.val (0x100D0000) = true →
    s.gb Reg.TCH.CTRL.ENABLE = false →
    s.tchCheck = 0 →
    ∃ t : State, exec (.touchEnable dt m) s = .next t ∧
      t.gb Reg.TCH.CTRL.ENABLE = true ∧
      t.g Reg.TCH.STATUS.ENABLE_RESULT = 0 ∧
      t.g Reg.TCH.STATUS.STATE = (if s.engRunning 22 then (if s.granted then 2 else 1) else s.g Reg.TCH.STATUS.STATE) ∧
      (t.panel p.val).base = [] ∧
      t.g (Reg.TCH.PANEL.FRAMES p.val) = 0 ∧
      (∀ x, t.byte x = s.byte x)) ∧
  (∀ (dt : Nat) (m : Master) (s : State),
    s.coreOn = true →
    s.mayWrite m.val (0x100D0000) = true →
    s.gb Reg.TCH.CTRL.ENABLE = false →
    s.tchCheck ≠ 0 →
    ∃ t : State, exec (.touchEnable dt m) s = .next t ∧
      t.gb Reg.TCH.CTRL.ENABLE = false ∧
      t.g Reg.TCH.STATUS.ENABLE_RESULT = s.tchCheck ∧
      t.tch = s.tch ∧
      (∀ x, t.byte x = s.byte x)) ∧
  (∀ (dt : Nat) (m : Master) (p : Fin 2) (s : State),
    s.coreOn = true →
    s.mayWrite m.val (0x100D0000) = true →
    s.gb Reg.TCH.CTRL.ENABLE = true →
    ∃ t : State, exec (.touchDisable dt m) s = .next t ∧
      t.gb Reg.TCH.CTRL.ENABLE = false ∧
      t.g Reg.TCH.STATUS.STATE = 0 ∧
      (t.panel p.val).contacts = [] ∧
      (t.panel p.val).base = []) ∧
  (∀ (dt : Nat) (p : Fin 2) (s : State),
    s.tchDrives = true →
    s.gb (Reg.TCH.PANEL.ENABLE p.val) = true →
    (s.panel p.val).openAt = none →
    (s.advance dt).tchPeriod p.val = true →
    ∃ t : State, exec (.touchFrameStart dt p) s = .next t ∧
      (t.panel p.val).openAt = some (s.clock + dt) ∧
      (t.panel p.val).base = (s.panel p.val).base ∧
      (∀ x, t.byte x = s.byte x)) ∧
  (∀ (dt : Nat) (p : Fin 2) (x y : List (List Nat)) (s : State),
    s.tchDrives = true →
    (s.advance dt).tchEnded p.val = true →
    s.tchWhole p.val x y = true →
    foreignSeen ((s.panel p.val).f Reg.TCH.FOREIGN_THR) y = false →
    ∃ t : State, exec (.touchFrameEnd dt p x y) s = .next t ∧
      (t.panel p.val).raw = rawValues x (s.tchRows p.val) (s.tchCols p.val) ∧
      (t.panel p.val).openAt = none ∧
      t.g (Reg.TCH.PANEL.FRAMES p.val) = (s.g (Reg.TCH.PANEL.FRAMES p.val) + 1) % 2 ^ (Reg.TCH.PANEL.FRAMES p.val).width) ∧
  (∀ (dt : Nat) (p : Fin 2) (x y : List (List Nat)) (s : State),
    s.tchDrives = true →
    (s.advance dt).tchEnded p.val = true →
    s.tchWhole p.val x y = true →
    foreignSeen ((s.panel p.val).f Reg.TCH.FOREIGN_THR) y = true →
    ∃ t : State, exec (.touchFrameEnd dt p x y) s = .next t ∧
      (t.panel p.val).raw = (s.panel p.val).raw ∧
      (t.panel p.val).openAt = none ∧
      t.g (Reg.TCH.PANEL.FOREIGN_DROP p.val) = (s.g (Reg.TCH.PANEL.FOREIGN_DROP p.val) + 1) % 2 ^ (Reg.TCH.PANEL.FOREIGN_DROP p.val).width ∧
      t.g (Reg.TCH.PANEL.FRAMES p.val) = s.g (Reg.TCH.PANEL.FRAMES p.val)) ∧
  (∀ (dt : Nat) (p : Fin 2) (s : State),
    s.tchDrives = true →
    (s.panel p.val).base = [] →
    0 < (s.panel p.val).sumN →
    (s.panel p.val).f Reg.TCH.BASE_FRAMES ≤ (s.panel p.val).sumN →
    ∃ t : State, exec (.baselineFormed dt p) s = .next t ∧
      (t.panel p.val).base = (s.panel p.val).sums.map (fun v => roundDiv v (s.panel p.val).sumN) ∧
      (t.panel p.val).sumN = 0 ∧
      ((s.panel p.val).sums ≠ [] → s.panelsOn.all (fun q => q == p.val || !(s.panel q).base.isEmpty) = true → t.g Reg.TCH.STATUS.STATE = 3) ∧
      (∀ x, t.byte x = s.byte x)) ∧
  (∀ (dt : Nat) (p : Fin 2) (s : State),
    s.tchDrives = true →
    (s.panel p.val).base ≠ [] →
    (s.panel p.val).f Reg.TCH.DRIFT_FRAMES ≤ (s.panel p.val).drift →
    0 < (s.panel p.val).drift →
    ∃ t : State, exec (.baselineDrift dt p) s = .next t ∧
      (t.panel p.val).drift = 0 ∧
      (t.panel p.val).base.length = (s.panel p.val).base.length ∧
      (∀ k < (s.panel p.val).base.length, (t.panel p.val).base.getD k 0 = (s.panel p.val).base.getD k 0 ∨ (t.panel p.val).base.getD k 0 = driftNode ((s.panel p.val).base.getD k 0) ((s.panel p.val).raw.getD k 0)) ∧
      (∀ k < (s.panel p.val).base.length, (((s.panel p.val).f Reg.TCH.TOUCH_THRESHOLD : Nat) : Int) ≤ |(s.panel p.val).delta k| → (t.panel p.val).base.getD k 0 = (s.panel p.val).base.getD k 0) ∧
      (∀ x, t.byte x = s.byte x)) ∧
  (∀ (dt : Nat) (p : Fin 2) (s : State),
    s.tchDrives = true →
    s.antiDue p.val ≠ [] →
    ∃ t : State, exec (.antiTouchConfirm dt p) s = .next t ∧
      t.g (Reg.TCH.PANEL.ANTI_EVENTS p.val) = (s.g (Reg.TCH.PANEL.ANTI_EVENTS p.val) + (s.antiDue p.val).length) % 2 ^ (Reg.TCH.PANEL.ANTI_EVENTS p.val).width ∧
      t.evStatus Ev.tchAnti = true ∧
      (t.panel p.val).contacts = (s.panel p.val).contacts) ∧
  (∀ (dt : Nat) (p : Fin 2) (s : State),
    s.tchDrives = true →
    0 < (s.panel p.val).f Reg.TCH.OBJECT_TIMEOUT_S →
    ∃ t : State, exec (.touchObjectTimeout dt p) s = .next t ∧
      (t.panel p.val).contacts = (s.panel p.val).contacts.map (fun c => if c.object = false ∧ c.downAt + 1000000000 * (s.panel p.val).f Reg.TCH.OBJECT_TIMEOUT_S ≤ s.clock + dt then { c with object := true } else c) ∧
      t.g (Reg.TCH.PANEL.OBJECTS p.val) = (((t.panel p.val).contacts.filter (fun c => c.object)).length) % 64)

/-- The self-test needs the grant, maps every line when it ends and restarts scanning; the standby scanner sums references, then looks for two hits in a row. -/
def Obligations.TouchSelfTest : Prop :=
  (∀ (dt : Nat) (m : Master) (s : State),
    s.coreOn = true →
    s.mayWrite m.val (0x100D0000) = true →
    s.granted = false →
    ∃ t : State, exec (.touchSelftest dt m) s = .next t ∧
      t.g Reg.TCH.STATUS.ST_STATE = 3 ∧
      t.evStatus Ev.tchSelftest = true ∧
      t.gb Reg.TCH.CTRL.ENABLE = s.gb Reg.TCH.CTRL.ENABLE) ∧
  (∀ (dt : Nat) (m : Master) (s : State),
    s.coreOn = true →
    s.mayWrite m.val (0x100D0000) = true →
    s.granted = true →
    s.gb Reg.TCH.CTRL.ENABLE = true →
    s.g Reg.TCH.STATUS.ST_STATE ≠ 1 →
    ∃ t : State, exec (.touchSelftest dt m) s = .next t ∧
      t.g Reg.TCH.STATUS.ST_STATE = 1 ∧
      t.g Reg.TCH.STATUS.STATE = (if s.engRunning 22 then 4 else s.g Reg.TCH.STATUS.STATE) ∧
      t.gb Reg.TCH.CTRL.ENABLE = true ∧
      (∀ x, t.byte x = s.byte x)) ∧
  (∀ (dt : Nat) (x : List LineProbe) (w : Fin 30) (j : Fin 8) (p : Fin 2) (s : State),
    s.coreOn = true →
    s.g Reg.TCH.STATUS.ST_STATE = 1 →
    s.engRunning 22 = true →
    ∃ t : State, exec (.touchSelftestDone dt x) s = .next t ∧
      t.g Reg.TCH.STATUS.ST_STATE = 2 ∧
      t.evStatus Ev.tchSelftest = true ∧
      t.g (Reg.TCH.ST_MAP w.val) / 16 ^ j.val % 16 = s.lineCode x (8 * w.val + j.val) ∧
      (s.lineUsed (8 * w.val + j.val) = false → t.g (Reg.TCH.ST_MAP w.val) / 16 ^ j.val % 16 = 15) ∧
      (t.panel p.val).base = []) ∧
  (∀ (dt : Nat) (p : Fin 2) (x : List Nat) (s : State),
    s.pwr.mode = .standby →
    s.tch.scan = true →
    s.gb (Reg.TCH.PANEL.WAKE_EN p.val) = true →
    (s.panel p.val).refN < 4 →
    ∃ t : State, exec (.standbyTouchScan dt p x) s = .next t ∧
      (t.panel p.val).refN = (s.panel p.val).refN + 1 ∧
      t.tch.wake = s.tch.wake ∧
      (t.panel p.val).hits = (s.panel p.val).hits ∧
      (∀ x, t.byte x = s.byte x)) ∧
  (∀ (dt : Nat) (p : Fin 2) (x : List Nat) (c : Nat) (s : State),
    s.pwr.mode = .standby →
    s.tch.scan = true →
    s.gb (Reg.TCH.PANEL.WAKE_EN p.val) = true →
    4 ≤ (s.panel p.val).refN →
    (s.panel p.val).scanDue (s.clock + dt) = true →
    c < s.tchCols p.val →
    1 ≤ (s.panel p.val).hits.getD c 0 →
    4 * (min 65535 (x.getD c 32768) + s.g Reg.TCH.WAKE_THRESHOLD) ≤ (s.panel p.val).refSums.getD c 0 →
    ∃ t : State, exec (.standbyTouchScan dt p x) s = .next t ∧
      (t.panel p.val).hits.getD c 0 = (s.panel p.val).hits.getD c 0 + 1 ∧
      t.tch.wake = true ∧
      (t.panel p.val).refN = (s.panel p.val).refN)

/-- A grant that rises makes the unit act; one that falls, or isolation, begins the release, which ends at once where no head is awake. -/
def Obligations.CustodyGrant : Prop :=
  (∀ (dt : Nat) (s : State),
    s.cusOn = true →
    s.compat = false →
    s.gb Reg.CUS.STATUS.GRANT = false →
    s.gb Reg.CUS.STATUS.GRANT_STALE = false →
    s.cus.eff = false →
    s.g Reg.CUS.STATUS.ROLE ≠ 3 →
    ∃ t : State, exec (.grantRise dt) s = .next t ∧
      t.gb Reg.CUS.STATUS.GRANT = true ∧
      t.g Reg.CUS.GRANT_CHANGES.COUNT = (s.g Reg.CUS.GRANT_CHANGES.COUNT + 1) % 2 ^ 32 ∧
      t.gb Reg.CUS.STATUS.ACTING = true ∧
      t.g Reg.CUS.STATUS.ROLE = 2 ∧
      t.cus.eff = true ∧
      (s.coreOn = true → t.evStatus Ev.cusGrantChange = true)) ∧
  (∀ (dt : Nat) (s : State),
    s.cusOn = true →
    s.compat = false →
    s.gb Reg.CUS.STATUS.GRANT = false →
    s.gb Reg.CUS.STATUS.GRANT_STALE = true →
    s.cus.eff = false →
    ∃ t : State, exec (.grantRise dt) s = .next t ∧
      t.gb Reg.CUS.STATUS.GRANT = true ∧
      t.g Reg.CUS.GRANT_CHANGES.COUNT = (s.g Reg.CUS.GRANT_CHANGES.COUNT + 1) % 2 ^ 32 ∧
      t.gb Reg.CUS.STATUS.ACTING = s.gb Reg.CUS.STATUS.ACTING ∧
      t.g Reg.CUS.STATUS.ROLE = s.g Reg.CUS.STATUS.ROLE ∧
      t.cus.eff = false ∧
      (s.coreOn = true → t.evStatus Ev.cusGrantChange = true)) ∧
  (∀ (dt : Nat) (s : State),
    s.cusOn = true →
    s.compat = false →
    s.coreOn = true →
    s.gb Reg.CUS.STATUS.GRANT = true →
    s.cus.eff = true →
    s.g Reg.CUS.STATUS.ROLE ≠ 3 →
    s.gb Reg.CUS.STATUS.ACTING = true →
    s.gb Reg.CUS.STATUS.RELEASE_PENDING = false →
    ∃ t : State, exec (.grantFall dt) s = .next t ∧
      t.gb Reg.CUS.STATUS.GRANT = false ∧
      t.g Reg.CUS.GRANT_CHANGES.COUNT = (s.g Reg.CUS.GRANT_CHANGES.COUNT + 1) % 2 ^ 32 ∧
      t.g Reg.CUS.STATUS.ROLE = 0 ∧
      t.cus.eff = false ∧
      t.gb Reg.CUS.STATUS.RELEASE_PENDING = !s.awakeHeads.isEmpty ∧
      t.gb Reg.CUS.STATUS.ACTING = !s.awakeHeads.isEmpty ∧
      (s.coreOn = true → t.evStatus Ev.cusGrantChange = true)) ∧
  (∀ (dt : Nat) (s : State),
    s.cusOn = true →
    s.compat = false →
    s.gb Reg.CUS.STATUS.GRANT_STALE = true →
    ∃ t : State, exec (.grantStaleClear dt) s = .next t ∧
      t.gb Reg.CUS.STATUS.GRANT_STALE = false ∧
      t.gb Reg.CUS.STATUS.GRANT = false ∧
      t.cus.eff = false) ∧
  (∀ (dt : Nat) (m : Master) (s : State),
    s.coreOn = true →
    s.mayWrite m.val (0x10070000) = true →
    s.compat = false →
    s.gb Reg.CUS.CTRL.ISOLATE = false →
    s.g Reg.CUS.STATUS.ROLE ≠ 3 →
    s.gb Reg.CUS.STATUS.RELEASE_PENDING = false →
    ∃ t : State, exec (.isolateSet dt m true) s = .next t ∧
      t.gb Reg.CUS.CTRL.ISOLATE = true ∧
      t.g Reg.CUS.STATUS.ROLE = 3 ∧
      t.gb Reg.CUS.STATUS.ACTING = (s.gb Reg.CUS.STATUS.ACTING && !s.awakeHeads.isEmpty)) ∧
  (∀ (dt : Nat) (m : Master) (s : State),
    s.coreOn = true →
    s.mayWrite m.val (0x10070000) = true →
    s.compat = false →
    s.gb Reg.CUS.CTRL.ISOLATE = true →
    s.cus.isoBoot = false →
    ∃ t : State, exec (.isolateSet dt m false) s = .next t ∧
      t.gb Reg.CUS.CTRL.ISOLATE = false ∧
      t.g Reg.CUS.STATUS.ROLE = (if s.cus.eff then 2 else 0))

/-- KEEPALIVE and ISOLATE frames set LINK_UP, ISOLATE isolates, RESET resets where enabled; bad frames count in RX_ERR; the link times out. -/
def Obligations.CustodianFrames : Prop :=
  (∀ (dt : Nat) (ver : Fin 3) (a b c d : Byte) (s : State),
    s.cusOn = true →
    s.compat = false →
    ver.val ≠ 0 →
    ∃ t : State, exec (.keepalive dt (cusFrame ver.val 0x10 [a, b, c, d])) s = .next t ∧
      t.g Reg.CUS.COUNTS.RX_FRAMES = (s.g Reg.CUS.COUNTS.RX_FRAMES + 1) % 65536 ∧
      t.gb Reg.CUS.STATUS.LINK_UP = true ∧
      t.cus.rxAt = s.clock + dt ∧
      t.g Reg.CUS.STATUS.ROLE = s.g Reg.CUS.STATUS.ROLE ∧
      t.gb Reg.CUS.CTRL.ISOLATE = s.gb Reg.CUS.CTRL.ISOLATE ∧
      (∀ x, t.byte x = s.byte x)) ∧
  (∀ (dt : Nat) (bs : List Byte) (s : State),
    s.cusOn = true →
    s.compat = false →
    cusFrameOk bs = false →
    ∃ t : State, exec (.keepalive dt bs) s = .next t ∧
      t.g Reg.CUS.COUNTS.RX_ERR = (s.g Reg.CUS.COUNTS.RX_ERR + 1) % 65536 ∧
      t.cus = s.cus ∧
      t.g Reg.CUS.STATUS.ROLE = s.g Reg.CUS.STATUS.ROLE ∧
      (∀ x, t.byte x = s.byte x)) ∧
  (∀ (dt : Nat) (s : State),
    s.cusOn = true →
    s.compat = false →
    s.gb Reg.CUS.CTRL.ISOLATE = false →
    ∃ t : State, exec (.isolate dt (cusFrame 2 0x11 [BitVec.ofNat 8 (s.g Reg.CUS.STATUS.UNIT_ID), 1])) s = .next t ∧
      t.g Reg.CUS.COUNTS.RX_FRAMES = (s.g Reg.CUS.COUNTS.RX_FRAMES + 1) % 65536 ∧
      t.gb Reg.CUS.STATUS.LINK_UP = true ∧
      t.gb Reg.CUS.CTRL.ISOLATE = true ∧
      t.g Reg.CUS.STATUS.ROLE = 3) ∧
  (∀ (dt : Nat) (k : Bool) (s : State),
    s.cusOn = true →
    s.compat = false →
    s.gb Reg.CUS.CTRL.REMOTE_RESET_EN = true →
    ∃ t : State, exec (.custodianReset dt (cusFrame 2 0x12 [BitVec.ofNat 8 (s.g Reg.CUS.STATUS.UNIT_ID), 0x72, 0x64, 0]) k) s = .next t ∧
      t.g Reg.RST.STATUS.CAUSE = 5 ∧
      t.gb Reg.RST.STATUS.DRAM_KEPT = k ∧
      t.g Reg.RST.COUNTS.CUSTODIANS = min (s.g Reg.RST.COUNTS.CUSTODIANS + 1) (2 ^ Reg.RST.COUNTS.CUSTODIANS.width - 1) ∧
      t.pwr.mode = .run ∧
      t.boot.phase = .due) ∧
  (∀ (dt : Nat) (k : Bool) (s : State),
    s.cusOn = true →
    s.compat = false →
    s.gb Reg.CUS.CTRL.REMOTE_RESET_EN = false →
    ∃ t : State, exec (.custodianReset dt (cusFrame 2 0x12 [BitVec.ofNat 8 (s.g Reg.CUS.STATUS.UNIT_ID), 0x72, 0x64, 0]) k) s = .next t ∧
      t.g Reg.CUS.COUNTS.RX_ERR = (s.g Reg.CUS.COUNTS.RX_ERR + 1) % 65536 ∧
      t.g Reg.RST.STATUS.CAUSE = s.g Reg.RST.STATUS.CAUSE ∧
      (∀ x, t.byte x = s.byte x)) ∧
  (∀ (dt : Nat) (s : State),
    s.cusOn = true →
    s.gb Reg.CUS.CTRL.LINK_WATCH = true →
    s.gb Reg.CUS.STATUS.LINK_UP = true →
    1000000 * s.g Reg.CUS.CTRL.LINK_TIMEOUT_MS ≤ s.clock + dt - s.cus.rxAt →
    ∃ t : State, exec (.cusLinkTimeout dt) s = .next t ∧
      t.gb Reg.CUS.STATUS.LINK_UP = false ∧
      (s.coreOn = true → t.evStatus Ev.cusLinkLost = true) ∧
      t.g Reg.CUS.STATUS.ROLE = s.g Reg.CUS.STATUS.ROLE)

/-- STATUS frames carry the state; kicks keep ALIVE; roles change by request and grace; in compatibility mode PEER_OK shows and a take-over waits its delay. -/
def Obligations.CustodyRoles : Prop :=
  (∀ (dt : Nat) (s : State),
    s.cusOn = true →
    s.compat = false →
    (s.advance dt).statusDue = true →
    ∃ t : State, exec (.cusStatusFrame dt) s = .next t ∧
      t.g Reg.CUS.HEALTH.WORD = (s.advance dt).healthWord % 2 ^ 32 ∧
      t.g Reg.CUS.TX_FRAMES.COUNT = (s.g Reg.CUS.TX_FRAMES.COUNT + 1) % 2 ^ 32 ∧
      t.cus.noted = 0 ∧
      t.cus.sentAt = some (s.clock + dt) ∧
      t.cus.sent = (if s.gb Reg.CUS.CTRL.TX_VERSION then cusFrame 1 1 (((s.advance dt).statusPayload (s.advance dt).healthWord).take 16) else cusFrame 2 1 ((s.advance dt).statusPayload (s.advance dt).healthWord)) ∧
      (∀ x, t.byte x = s.byte x)) ∧
  (∀ (dt : Nat) (m : Master) (s : State),
    s.coreOn = true →
    s.mayWrite m.val (0x1007000C) = true →
    s.compat = false →
    ∃ t : State, exec (.aliveKick dt m) s = .next t ∧
      t.cus.kickAt = some (s.clock + dt) ∧
      t.gb Reg.CUS.STATUS.ALIVE = (s.engRunning 0 && s.engRunning 1 && decide (0 < s.g Reg.CUS.CTRL.ALIVE_TIMEOUT_MS)) ∧
      t.g Reg.CUS.STATUS.ROLE = s.g Reg.CUS.STATUS.ROLE ∧
      (∀ x, t.byte x = s.byte x)) ∧
  (∀ (dt k : Nat) (s : State),
    s.cusOn = true →
    s.compat = false →
    s.cus.kickAt = some k →
    1000000 * s.g Reg.CUS.CTRL.ALIVE_TIMEOUT_MS ≤ s.clock + dt - k →
    ∃ t : State, exec (.aliveTimeout dt) s = .next t ∧
      t.gb Reg.CUS.STATUS.ALIVE = false ∧
      t.cus = { s.cus with aliveAt := none } ∧
      t.g Reg.CUS.STATUS.ROLE = s.g Reg.CUS.STATUS.ROLE ∧
      (∀ x, t.byte x = s.byte x)) ∧
  (∀ (dt : Nat) (m : Master) (b : Bool) (s : State),
    s.coreOn = true →
    s.mayWrite m.val (0x10070008) = true →
    s.roleCheck b = 0 →
    ∃ t : State, exec (.roleRequest dt m b) s = .next t ∧
      t.g Reg.CUS.STATUS.REQ_RESULT = 0 ∧
      t.g Reg.CUS.STATUS.ROLE = b.toNat ∧
      (b = true → t.evStatus Ev.syncReady = true)) ∧
  (∀ (dt : Nat) (m : Master) (b : Bool) (s : State),
    s.coreOn = true →
    s.mayWrite m.val (0x10070008) = true →
    s.roleCheck b ≠ 0 →
    ∃ t : State, exec (.roleRequest dt m b) s = .next t ∧
      t.g Reg.CUS.STATUS.REQ_RESULT = s.roleCheck b ∧
      t.g Reg.CUS.STATUS.ROLE = s.g Reg.CUS.STATUS.ROLE ∧
      t.cus = s.cus ∧
      (∀ x, t.byte x = s.byte x)) ∧
  (∀ (dt k : Nat) (s : State),
    s.cusOn = true →
    s.cus.diffAt = some k →
    k + 1000000 * s.g Reg.CUS.SYNC_CTRL.SYNC_GRACE_MS ≤ s.clock + dt →
    s.g Reg.CUS.STATUS.ROLE = 1 →
    ∃ t : State, exec (.syncGraceExpire dt) s = .next t ∧
      t.g Reg.CUS.STATUS.ROLE = 0 ∧
      (∀ x, t.byte x = s.byte x)) ∧
  (∀ (dt : Nat) (b : Bool) (s : State),
    s.cusOn = true →
    s.compat = true →
    s.gb Reg.CUS.STATUS.PEER_OK_IN = !b →
    ∃ t : State, exec (.peerOkChange dt b) s = .next t ∧
      t.gb Reg.CUS.STATUS.PEER_OK_IN = b ∧
      (s.coreOn = true → t.evStatus Ev.cusPeer = true)) ∧
  (∀ (dt k : Nat) (s : State),
    s.cusOn = true →
    s.cus.takeAt = some k →
    k + 1000000 * s.g Reg.CUS.COMPAT.TAKE_DELAY_MS ≤ s.clock + dt →
    ∃ t : State, exec (.takeDelayExpire dt) s = .next t ∧
      t.cus.takeAt = none ∧
      ((s.advance dt).compatWant = true → t.cus.eff = true ∧ t.gb Reg.CUS.STATUS.GRANT = true) ∧
      ((s.advance dt).compatWant = false → t.cus.eff = s.cus.eff))

/-- A due refresh is repaid with what is owed, put off under urgent requests up to seven, and forced at eight; skew and rates are noted. -/
def Obligations.DramRefreshAndSkew : Prop :=
  (∀ (dt : Nat) (ch : Fin 16) (u : Bool) (s : State),
    s.chanRuns ch.val = true →
    (s.chan ch.val).refAt + s.refreshNs ch.val ≤ s.clock + dt →
    u = false →
    s.urgentAt ch.val = false →
    s.waitsAt ch.val = false →
    s.g (Reg.DMC.CH.OWED (ch.val / 2) (ch.val % 2)) < 8 →
    ∃ t : State, exec (.refreshDue dt ch u) s = .next t ∧
      t.g (Reg.DMC.CH.OWED (ch.val / 2) (ch.val % 2)) = 0 ∧
      t.g (Reg.DMC.CH.REFRESHES (ch.val / 2) (ch.val % 2)) = (s.g (Reg.DMC.CH.REFRESHES (ch.val / 2) (ch.val % 2)) + (s.g (Reg.DMC.CH.OWED (ch.val / 2) (ch.val % 2)) + 1)) % 2 ^ (Reg.DMC.CH.REFRESHES (ch.val / 2) (ch.val % 2)).width ∧
      t.g (Reg.DMC.CH.FORCED (ch.val / 2) (ch.val % 2)) = s.g (Reg.DMC.CH.FORCED (ch.val / 2) (ch.val % 2)) ∧
      (∀ x, t.byte x = s.byte x)) ∧
  (∀ (dt : Nat) (ch : Fin 16) (u : Bool) (s : State),
    s.chanRuns ch.val = true →
    (s.chan ch.val).refAt + s.refreshNs ch.val ≤ s.clock + dt →
    u = false →
    s.urgentAt ch.val = false →
    s.waitsAt ch.val = true →
    (s.chan ch.val).rest = false →
    s.g (Reg.DMC.CH.OWED (ch.val / 2) (ch.val % 2)) < 8 →
    ∃ t : State, exec (.refreshDue dt ch u) s = .next t ∧
      t.g (Reg.DMC.CH.OWED (ch.val / 2) (ch.val % 2)) = s.g (Reg.DMC.CH.OWED (ch.val / 2) (ch.val % 2)) + 1 - 4 ∧
      t.g (Reg.DMC.CH.REFRESHES (ch.val / 2) (ch.val % 2)) = (s.g (Reg.DMC.CH.REFRESHES (ch.val / 2) (ch.val % 2)) + min 4 (s.g (Reg.DMC.CH.OWED (ch.val / 2) (ch.val % 2)) + 1)) % 2 ^ (Reg.DMC.CH.REFRESHES (ch.val / 2) (ch.val % 2)).width ∧
      t.g (Reg.DMC.CH.FORCED (ch.val / 2) (ch.val % 2)) = s.g (Reg.DMC.CH.FORCED (ch.val / 2) (ch.val % 2)) ∧
      (∀ x, t.byte x = s.byte x)) ∧
  (∀ (dt : Nat) (ch : Fin 16) (u : Bool) (s : State),
    s.chanRuns ch.val = true →
    (s.chan ch.val).refAt + s.refreshNs ch.val ≤ s.clock + dt →
    u = false →
    s.urgentAt ch.val = false →
    s.waitsAt ch.val = true →
    (s.chan ch.val).rest = true →
    s.g (Reg.DMC.CH.OWED (ch.val / 2) (ch.val % 2)) < 8 →
    ∃ t : State, exec (.refreshDue dt ch u) s = .next t ∧
      t.g (Reg.DMC.CH.OWED (ch.val / 2) (ch.val % 2)) = s.g (Reg.DMC.CH.OWED (ch.val / 2) (ch.val % 2)) + 1 ∧
      t.g (Reg.DMC.CH.REFRESHES (ch.val / 2) (ch.val % 2)) = s.g (Reg.DMC.CH.REFRESHES (ch.val / 2) (ch.val % 2)) ∧
      t.g (Reg.DMC.CH.FORCED (ch.val / 2) (ch.val % 2)) = s.g (Reg.DMC.CH.FORCED (ch.val / 2) (ch.val % 2)) ∧
      (∀ x, t.byte x = s.byte x)) ∧
  (∀ (dt : Nat) (ch : Fin 16) (u : Bool) (s : State),
    s.chanRuns ch.val = true →
    (s.chan ch.val).refAt + s.refreshNs ch.val ≤ s.clock + dt →
    (u = true ∨ s.urgentAt ch.val = true) →
    s.g (Reg.DMC.CH.OWED (ch.val / 2) (ch.val % 2)) < 7 →
    ∃ t : State, exec (.refreshDue dt ch u) s = .next t ∧
      t.g (Reg.DMC.CH.OWED (ch.val / 2) (ch.val % 2)) = s.g (Reg.DMC.CH.OWED (ch.val / 2) (ch.val % 2)) + 1 ∧
      t.g (Reg.DMC.CH.REFRESHES (ch.val / 2) (ch.val % 2)) = s.g (Reg.DMC.CH.REFRESHES (ch.val / 2) (ch.val % 2)) ∧
      (∀ x, t.byte x = s.byte x)) ∧
  (∀ (dt : Nat) (ch : Fin 16) (u : Bool) (s : State),
    s.chanRuns ch.val = true →
    (s.chan ch.val).refAt + s.refreshNs ch.val ≤ s.clock + dt →
    (u = true ∨ s.urgentAt ch.val = true) →
    s.g (Reg.DMC.CH.OWED (ch.val / 2) (ch.val % 2)) = 7 →
    ∃ t : State, exec (.refreshDue dt ch u) s = .next t ∧
      t.g (Reg.DMC.CH.OWED (ch.val / 2) (ch.val % 2)) = 7 ∧
      t.g (Reg.DMC.CH.REFRESHES (ch.val / 2) (ch.val % 2)) = (s.g (Reg.DMC.CH.REFRESHES (ch.val / 2) (ch.val % 2)) + 1) % 2 ^ (Reg.DMC.CH.REFRESHES (ch.val / 2) (ch.val % 2)).width ∧
      t.g (Reg.DMC.CH.FORCED (ch.val / 2) (ch.val % 2)) = (s.g (Reg.DMC.CH.FORCED (ch.val / 2) (ch.val % 2)) + 1) % 2 ^ (Reg.DMC.CH.FORCED (ch.val / 2) (ch.val % 2)).width ∧
      t.evStatus Ev.dramRefreshForced = true) ∧
  (∀ (dt : Nat) (ch : Fin 16) (x : Fin 8) (s : State),
    s.chanRuns ch.val = true →
    (s.chan ch.val).rateAt + 16000000 ≤ s.clock + dt →
    ∃ t : State, exec (.refreshRateRead dt ch x) s = .next t ∧
      t.g (Reg.DMC.CH.RATE_CODE (ch.val / 2) (ch.val % 2)) = x.val ∧
      t.g (Reg.DMC.CH.OWED (ch.val / 2) (ch.val % 2)) = s.g (Reg.DMC.CH.OWED (ch.val / 2) (ch.val % 2)) ∧
      (∀ x, t.byte x = s.byte x)) ∧
  (∀ (dt : Nat) (ch : Fin 16) (bs : List Nat) (s : State),
    s.coreOn = true →
    s.gb Reg.DMC.CTRL.SKEW_EN = true →
    (bs.take 16).sum < 1000000 * s.g Reg.DMC.CTRL2.SKEW_FLOOR_MB →
    ∃ t : State, exec (.skewWindow dt bs) s = .next t ∧
      t.g (Reg.DMC.CH.SKEW_RUN (ch.val / 2) (ch.val % 2)) = s.g (Reg.DMC.CH.SKEW_RUN (ch.val / 2) (ch.val % 2)) ∧
      t.dmc = s.dmc ∧
      (∀ x, t.byte x = s.byte x)) ∧
  (∀ (dt : Nat) (ch : Fin 16) (bs : List Nat) (s : State),
    s.coreOn = true →
    s.gb Reg.DMC.CTRL.SKEW_EN = true →
    1000000 * s.g Reg.DMC.CTRL2.SKEW_FLOOR_MB ≤ (bs.take 16).sum →
    (∀ b ∈ bs.take 16, 16 * b ≤ 2 * (bs.take 16).sum) →
    ∃ t : State, exec (.skewWindow dt bs) s = .next t ∧
      t.g (Reg.DMC.CH.SKEW_RUN (ch.val / 2) (ch.val % 2)) = 0 ∧
      t.dmc.calm = s.dmc.calm + 1 ∧
      (∀ x, t.byte x = s.byte x)) ∧
  (∀ (dt : Nat) (ch : Fin 16) (bs : List Nat) (b : Nat) (s : State),
    s.coreOn = true →
    s.gb Reg.DMC.CTRL.SKEW_EN = true →
    1000000 * s.g Reg.DMC.CTRL2.SKEW_FLOOR_MB ≤ (bs.take 16).sum →
    b ∈ bs.take 16 →
    2 * (bs.take 16).sum < 16 * b →
    ∃ t : State, exec (.skewWindow dt bs) s = .next t ∧
      t.g (Reg.DMC.CH.SKEW_RUN (ch.val / 2) (ch.val % 2)) = (s.g (Reg.DMC.CH.SKEW_RUN 0 0) + 1) % 65536 ∧
      (99 ≤ s.g (Reg.DMC.CH.SKEW_RUN 0 0) → s.dmc.armed = true → t.evStatus Ev.dramChanSkew = true ∧ t.gb Reg.DMC.SKEW.SKEWED = true) ∧
      (s.g (Reg.DMC.CH.SKEW_RUN 0 0) < 99 → t.dmc.armed = s.dmc.armed))

/-- A set-point request is refused with its reason or becomes pending; a change that may start runs in self-refresh and ends at the new set point. -/
def Obligations.DramSetPoints : Prop :=
  (∀ (dt : Nat) (m : Master) (x : Fin 4) (s : State),
    s.coreOn = true →
    s.mayWrite m.val (0x10808020) = true →
    s.fspCheck x.val ≠ 0 →
    ∃ t : State, exec (.fspRequest dt m x) s = .next t ∧
      t.g Reg.DMC.FSP_STATUS.RESULT = s.fspCheck x.val ∧
      t.gb Reg.DMC.FSP_STATUS.PENDING = s.gb Reg.DMC.FSP_STATUS.PENDING ∧
      t.dmc = s.dmc ∧
      (∀ x, t.byte x = s.byte x)) ∧
  (∀ (dt : Nat) (m : Master) (x : Fin 4) (s : State),
    s.coreOn = true →
    s.mayWrite m.val (0x10808020) = true →
    s.fspCheck x.val = 0 →
    ∃ t : State, exec (.fspRequest dt m x) s = .next t ∧
      t.g Reg.DMC.FSP_STATUS.RESULT = 2 ∧
      t.gb Reg.DMC.FSP_STATUS.PENDING = true ∧
      t.g Reg.DMC.FSP_STATUS.PENDING_TARGET = x.val ∧
      t.g Reg.DMC.FSP_STATUS.CURRENT = s.g Reg.DMC.FSP_STATUS.CURRENT ∧
      (∀ x, t.byte x = s.byte x)) ∧
  (∀ (dt : Nat) (s : State),
    s.coreOn = true →
    (s.advance dt).fspMay = true →
    s.collecting = false →
    ∃ t : State, exec (.fspChangeStart dt) s = .next t ∧
      t.dmc.change = some (s.g Reg.DMC.FSP_STATUS.PENDING_TARGET) ∧
      (∀ (k : Fin 8) (c : Fin 2), t.g (Reg.DMC.CH.OWED k.val c.val) = 0) ∧
      (∀ k : Fin 8, t.g (Reg.DMC.CTL.STATE k.val) = (if s.g (Reg.DMC.CTL.STATE k.val) = 2 then 3 else s.g (Reg.DMC.CTL.STATE k.val))) ∧
      (∀ x, t.byte x = s.byte x)) ∧
  (∀ (dt f : Nat) (s : State),
    s.coreOn = true →
    s.dmc.change = some f →
    f < 4 →
    ∃ t : State, exec (.fspChangeDone dt) s = .next t ∧
      t.dmc.change = none ∧
      t.g Reg.DMC.FSP_STATUS.CURRENT = f ∧
      t.g Reg.DMC.FSP_STATUS.RESULT = 1 ∧
      t.g Reg.DMC.FSP_STATUS.CHANGES = (s.g Reg.DMC.FSP_STATUS.CHANGES + 1) % 65536 ∧
      (∀ k : Fin 8, t.g (Reg.DMC.CTL.FSP k.val) = f) ∧
      (∀ k : Fin 8, t.g (Reg.DMC.CTL.STATE k.val) = (if s.g (Reg.DMC.CTL.STATE k.val) = 3 then 2 else s.g (Reg.DMC.CTL.STATE k.val))) ∧
      t.evStatus Ev.dramFspDone = true ∧
      (∀ ch : Fin 16, (t.chan ch.val).osc = some (s.clock + dt)) ∧
      (s.gb Reg.EVT.LOG_EN = false → ∀ x, t.byte x = s.byte x))

/-- Calibration slots open; retrains, drift windows, ZQ calibrations, their timeouts, on-die ECC scans and row repairs end with their results. -/
def Obligations.DramCalibration : Prop :=
  (∀ (dt : Nat) (n : Fin 64) (i p : Nat) (s : State),
    s.coreOn = true →
    s.headRuns n.val = true →
    s.headPage n.val = some p →
    i < (s.course p n.val).cals.length →
    s.dmc.change = none →
    ∃ t : State, exec (.calSlotOpen dt n i) s = .next t ∧
      t.dmc.slots = (if (s.advance dt).openSlots.2.2 = 0 then [] else s.dmc.slots) ++ [⟨s.clock + dt + 100 * ceDuration ((s.course p n.val).cals.getD i 0), ceDmcMask ((s.course p n.val).cals.getD i 0), ceCalKind ((s.course p n.val).cals.getD i 0) == 1⟩] ∧
      (∀ x, t.byte x = s.byte x)) ∧
  (∀ (dt : Nat) (at_ : Nat × Nat) (b : Option (BitVec 16)) (s : State),
    s.coreOn = true →
    s.dmc.train = some at_ →
    at_.1 < 16 →
    (s.advance dt).fspMay = false →
    ∃ t : State, exec (.dramRetrainDone dt b) s = .next t ∧
      t.evStatus Ev.dramTrain = true ∧
      t.g (Reg.DMC.CH.TRAIN (at_.1 / 2) (at_.1 % 2)) = (if b.isSome then 1 else 2) ∧
      t.g (Reg.DMC.CH.RETRAINS (at_.1 / 2) (at_.1 % 2)) = (s.g (Reg.DMC.CH.RETRAINS (at_.1 / 2) (at_.1 % 2)) + b.isSome.toNat) % 2 ^ (Reg.DMC.CH.RETRAINS (at_.1 / 2) (at_.1 % 2)).width ∧
      (∀ x, b = some x → Tab.get 0 (s.g Reg.DMC.FSP_STATUS.CURRENT) (t.chan at_.1).trained = x.toNat)) ∧
  (∀ (dt : Nat) (at_ : Nat × Nat) (b : Option (BitVec 16)) (s : State),
    s.coreOn = true →
    s.dmc.train = some at_ →
    at_.1 < 16 →
    (s.advance dt).fspMay = true →
    ∃ t : State, exec (.dramRetrainDone dt b) s = .next t ∧
      t.evStatus Ev.dramTrain = true ∧
      t.g (Reg.DMC.CH.TRAIN (at_.1 / 2) (at_.1 % 2)) = 3 ∧
      t.g (Reg.DMC.CH.RETRAINS (at_.1 / 2) (at_.1 % 2)) = s.g (Reg.DMC.CH.RETRAINS (at_.1 / 2) (at_.1 % 2)) ∧
      t.dmc.train = none ∧
      (t.chan at_.1).pend = (s.chan at_.1).pend) ∧
  (∀ (dt : Nat) (k : Fin 8) (c : Fin 2) (s : State),
    s.chanRuns (2 * k.val + c.val) = true →
    (s.chan (2 * k.val + c.val)).oscAt + 100000000 ≤ s.clock + dt →
    ∃ t : State, exec (.driftWindow dt k) s = .next t ∧
      (t.chan (2 * k.val + c.val)).osc = some (s.clock + dt) ∧
      (t.chan (2 * k.val + c.val)).pend = (s.chan (2 * k.val + c.val)).pend ∧
      (∀ x, t.byte x = s.byte x)) ∧
  (∀ (dt : Nat) (ch : Fin 16) (k : Nat) (x : BitVec 16) (s : State),
    s.coreOn = true →
    (s.chan ch.val).osc = some k →
    k + 1000 ≤ s.clock + dt →
    s.gb Reg.DMC.FSP_STATUS.PENDING = false →
    ∃ t : State, exec (.driftWindowEnd dt ch x) s = .next t ∧
      (t.chan ch.val).osc = none ∧
      t.g (Reg.DMC.CH.OSC_DELTA (ch.val / 2) (ch.val % 2)) = unsigned 16 ((x.toNat : Int) - Tab.get 0 (s.g Reg.DMC.FSP_STATUS.CURRENT) (s.chan ch.val).trained) ∧
      (s.g Reg.DMC.CTRL.DRIFT_THR < (((x.toNat : Int) - Tab.get 0 (s.g Reg.DMC.FSP_STATUS.CURRENT) (s.chan ch.val).trained)).natAbs → t.gb (Reg.DMC.CH.RETRAIN_PENDING (ch.val / 2) (ch.val % 2)) = true) ∧
      (∀ x, t.byte x = s.byte x)) ∧
  (∀ (dt : Nat) (k : Fin 8) (c : Fin 2) (s : State),
    s.chanRuns (2 * k.val + c.val) = true →
    (s.chan (2 * k.val + c.val)).zqFrom + 128000000 ≤ s.clock + dt →
    s.gb Reg.SEQ.STATUS.LIVE_VALID = true →
    s.gb (Reg.DMC.CH.ZQ_PENDING k.val c.val) = false →
    ∃ t : State, exec (.zqCalibrationStart dt k) s = .next t ∧
      t.gb (Reg.DMC.CH.ZQ_PENDING k.val c.val) = true ∧
      (t.chan (2 * k.val + c.val)).zqAt = s.clock + dt ∧
      (∀ x, t.byte x = s.byte x)) ∧
  (∀ (dt : Nat) (k : Fin 8) (c : Fin 2) (s : State),
    s.chanRuns (2 * k.val + c.val) = true →
    (s.chan (2 * k.val + c.val)).zqFrom + 128000000 ≤ s.clock + dt →
    s.gb Reg.SEQ.STATUS.LIVE_VALID = false →
    s.dmc.change = none →
    ∃ t : State, exec (.zqCalibrationStart dt k) s = .next t ∧
      t.gb (Reg.DMC.CH.ZQ_PENDING k.val c.val) = false ∧
      (∀ x, t.byte x = s.byte x)) ∧
  (∀ (dt : Nat) (ch : Fin 16) (s : State),
    s.coreOn = true →
    s.gb (Reg.DMC.CH.ZQ_PENDING (ch.val / 2) (ch.val % 2)) = true →
    (s.chan ch.val).zqOut = false →
    (s.chan ch.val).zqAt + 1000000000 ≤ s.clock + dt →
    ∃ t : State, exec (.trainPendingTimeout dt ch) s = .next t ∧
      (t.chan ch.val).zqOut = true ∧
      t.g (Reg.DMC.CH.TRAIN (ch.val / 2) (ch.val % 2)) = 4 ∧
      t.evStatus Ev.dramTrain = true) ∧
  (∀ (dt : Nat) (ch : Fin 16) (w : Word) (b : Fin 16) (r : BitVec 16) (k : Nat) (s : State),
    s.chanRuns ch.val = true →
    (s.chan ch.val).ecsAt + 1000000000 * s.g Reg.DMC.CTRL2.ECS_PERIOD_S ≤ s.clock + dt →
    k < s.g Reg.DMC.CTRL2.PPR_THR ∨ (s.chan ch.val).ecs ≠ some (b.val, r.toNat) →
    ∃ t : State, exec (.ecsScan dt ch w b r k) s = .next t ∧
      t.g (Reg.DMC.CH.ODECC_COUNT (ch.val / 2) (ch.val % 2)) = w.toNat ∧
      (t.chan ch.val).ecs = (if k < s.g Reg.DMC.CTRL2.PPR_THR then none else some (b.val, r.toNat)) ∧
      (∀ x, t.byte x = s.byte x)) ∧
  (∀ (dt : Nat) (ch : Fin 16) (w : Word) (b : Fin 16) (r : BitVec 16) (k : Nat) (s : State),
    s.chanRuns ch.val = true →
    (s.chan ch.val).ecsAt + 1000000000 * s.g Reg.DMC.CTRL2.ECS_PERIOD_S ≤ s.clock + dt →
    s.g Reg.DMC.CTRL2.PPR_THR ≤ k →
    (s.chan ch.val).ecs = some (b.val, r.toNat) →
    ∃ t : State, exec (.ecsScan dt ch w b r k) s = .next t ∧
      t.g (Reg.DMC.CH.ODECC_COUNT (ch.val / 2) (ch.val % 2)) = w.toNat ∧
      t.g (Reg.DMC.CH.PPR.VALID (ch.val / 2) (ch.val % 2) (s.pprPlace ch.val b.val r.toNat)) = 1 ∧
      t.g (Reg.DMC.CH.PPR.BANK (ch.val / 2) (ch.val % 2) (s.pprPlace ch.val b.val r.toNat)) = b.val ∧
      t.g (Reg.DMC.CH.PPR.ROW (ch.val / 2) (ch.val % 2) (s.pprPlace ch.val b.val r.toNat)) = r.toNat ∧
      t.g (Reg.DMC.CH.PPR.COUNT (ch.val / 2) (ch.val % 2) (s.pprPlace ch.val b.val r.toNat)) = min k 255) ∧
  (∀ (dt : Nat) (m : Master) (ch : Fin 16) (j : Fin 4) (s : State),
    s.coreOn = true →
    s.mayWrite m.val (0x1080802C) = true →
    s.dmc.ppr = none →
    (allHeads.any (fun n => s.gb (Reg.HEAD.CTRL.ENABLE n) && !s.gb (Reg.HEAD.CTRL.SLEEP n))) = false →
    s.gb (Reg.DMC.CH.PPR.VALID (ch.val / 2) (ch.val % 2) j.val) = true →
    ∃ t : State, exec (.pprCommand dt m ch j) s = .next t ∧
      t.dmc.ppr = some (ch.val, j.val) ∧
      t.g Reg.DMC.PPR_CMD.RESULT = s.g Reg.DMC.PPR_CMD.RESULT ∧
      (∀ x, t.byte x = s.byte x)) ∧
  (∀ (dt : Nat) (m : Master) (ch : Fin 16) (j : Fin 4) (s : State),
    s.coreOn = true →
    s.mayWrite m.val (0x1080802C) = true →
    s.dmc.ppr = none →
    ((allHeads.any (fun n => s.gb (Reg.HEAD.CTRL.ENABLE n) && !s.gb (Reg.HEAD.CTRL.SLEEP n))) = true ∨ s.gb (Reg.DMC.CH.PPR.VALID (ch.val / 2) (ch.val % 2) j.val) = false) →
    ∃ t : State, exec (.pprCommand dt m ch j) s = .next t ∧
      t.dmc.ppr = none ∧
      t.g Reg.DMC.PPR_CMD.RESULT = (if allHeads.any (fun n => s.gb (Reg.HEAD.CTRL.ENABLE n) && !s.gb (Reg.HEAD.CTRL.SLEEP n)) then 2 else 3) ∧
      (∀ x, t.byte x = s.byte x)) ∧
  (∀ (dt : Nat) (ch : Fin 16) (j : Fin 4) (b : Bool) (s : State),
    s.coreOn = true →
    s.dmc.ppr = some (ch.val, j.val) →
    ∃ t : State, exec (.pprDone dt b) s = .next t ∧
      t.dmc.ppr = none ∧
      t.g Reg.DMC.PPR_CMD.RESULT = (if b then 1 else 4) ∧
      t.gb (Reg.DMC.CH.PPR.VALID (ch.val / 2) (ch.val % 2) j.val) = (s.gb (Reg.DMC.CH.PPR.VALID (ch.val / 2) (ch.val % 2) j.val) && !b) ∧
      (b = false → ∀ x, t.byte x = s.byte x))

/-- The boot loader waits for a host image, stays in TEST, or reads flash; training, copies read and pauses end in the next phase, in RUN or in a refusal. -/
def Obligations.BootLoader : Prop :=
  (∀ (dt : Nat) (f : Option SfdpFacts) (s : State),
    s.coreOn = true →
    s.boot.phase = .due →
    s.g Reg.SYS.STRAPS.BOOT_MODE = 3 →
    ∃ t : State, exec (.bootLoaderRun dt f) s = .next t ∧
      t.g Reg.BOOT.STATUS.STATE = 4 ∧
      t.g Reg.BOOT.STATUS.STAT = 7 ∧
      t.boot.phase = .idle ∧
      (∀ x, t.byte x = s.byte x)) ∧
  (∀ (dt : Nat) (f : Option SfdpFacts) (s : State),
    s.coreOn = true →
    s.boot.phase = .due →
    (s.g Reg.SYS.STRAPS.BOOT_MODE = 1 ∨ s.g Reg.SYS.STRAPS.BOOT_MODE = 2) →
    ∃ t : State, exec (.bootLoaderRun dt f) s = .next t ∧
      t.g Reg.BOOT.STATUS.STATE = 3 ∧
      t.g Reg.BOOT.STATUS.STAT = 6 ∧
      t.boot.phase = .receiving ∧
      t.g Reg.BOOT.STATUS.COPY_USED = 0 ∧
      (∀ x, t.byte x = s.byte x)) ∧
  (∀ (dt : Nat) (c : Fin 2) (s : State),
    s.coreOn = true →
    s.boot.phase = .due →
    s.g Reg.SYS.STRAPS.BOOT_MODE = 0 →
    s.boot.step < 3 →
    allHeads.any (fun n => s.headRuns n) = false →
    ∃ t : State, exec (.bootLoaderRun dt none) s = .next t ∧
      t.g Reg.BOOT.STATUS.STATE = 2 ∧
      t.g Reg.BOOT.STATUS.REASON = 1 ∧
      t.g Reg.BOOT.STATUS.STAT = refusalStat 1 ∧
      t.boot.phase = .idle ∧
      t.evStatus Ev.cfgRefused = true ∧
      t.g (Reg.BOOT.COPY.RESULT c.val) = 3 ∧
      t.g Reg.BOOT.NEXT_SEL = 0) ∧
  (∀ (dt : Nat) (f : SfdpFacts) (s : State),
    s.coreOn = true →
    s.boot.phase = .due →
    s.g Reg.SYS.STRAPS.BOOT_MODE = 0 →
    s.boot.step < 3 →
    allHeads.any (fun n => s.headRuns n) = false →
    s.headerGood 0 = false →
    s.headerGood 1 = false →
    ∃ t : State, exec (.bootLoaderRun dt (some f)) s = .next t ∧
      t.g Reg.BOOT.STATUS.STATE = 2 ∧
      t.g Reg.BOOT.STATUS.REASON = 1 ∧
      t.g Reg.BOOT.STATUS.STAT = refusalStat 1 ∧
      t.boot.phase = .idle ∧
      t.evStatus Ev.cfgRefused = true ∧
      t.g Reg.BOOT.FLASH_MB = f.sizeMb % 2 ^ 32 ∧
      t.g Reg.BOOT.NEXT_SEL = 0) ∧
  (∀ (dt ms : Nat) (w : TrainSeen) (k : Fin 8) (p : Fin 3) (c : Fin 2) (s : State),
    s.coreOn = true →
    w.fails = 0 →
    s.boot.phase = .training →
    s.boot.chosen = none →
    ∃ t : State, exec (.dramTrainingDone dt w ms) s = .next t ∧
      t.g (Reg.DMC.CTL.STATE k.val) = 2 ∧
      t.g (Reg.DMC.CTL.FSP k.val) = s.g Reg.DMC.CONFIG.BOOT_FSP ∧
      t.gb (Reg.DMC.FSP.TRAINED p.val) = true ∧
      t.g Reg.DMC.FSP_STATUS.CURRENT = s.g Reg.DMC.CONFIG.BOOT_FSP ∧
      t.g Reg.DMC.TRAIN_MS = ms % 2 ^ 32 ∧
      t.boot.phase = (if s.g Reg.SYS.STRAPS.BOOT_MODE = 0 then .reading else .receiving) ∧
      (t.chan (2 * k.val + c.val)).trained = keptCounts w (2 * k.val + c.val) ∧
      t.evStatus Ev.dramTrain = true) ∧
  (∀ (dt ms : Nat) (w : TrainSeen) (ch : Fin 16) (s : State),
    s.coreOn = true →
    s.boot.phase = .training →
    w.fails.toNat.testBit ch.val = true →
    s.boot.step < 3 →
    allHeads.any (fun n => s.headRuns n) = false →
    ∃ t : State, exec (.dramTrainingDone dt w ms) s = .next t ∧
      t.g Reg.BOOT.STATUS.STATE = 2 ∧
      t.g Reg.BOOT.STATUS.REASON = 3 ∧
      t.g Reg.BOOT.STATUS.STAT = refusalStat 3 ∧
      t.boot.phase = .idle ∧
      t.evStatus Ev.cfgRefused = true ∧
      t.g (Reg.DMC.CTL.STATE (ch.val / 2)) = 4 ∧
      t.g (Reg.DMC.CH.TRAIN (ch.val / 2) (ch.val % 2)) = 2) ∧
  (∀ (dt : Nat) (c : Fin 2) (b : Option Nat) (o : Nat) (s : State),
    s.coreOn = true →
    s.boot.phase = .reading →
    s.boot.chosen = none →
    s.boot.order = [c.val, o] →
    s.boot.both = true →
    ∃ t : State, exec (.flashCopyReadDone dt c b) s = .next t ∧
      t.boot.order = [o] ∧
      t.g (Reg.BOOT.COPY.RESULT c.val) = (if b = none then imgResult s.pins.keyDigest (s.copyBytes c.val) else 3) ∧
      t.g Reg.BOOT.STATUS.STATE = s.g Reg.BOOT.STATUS.STATE ∧
      t.boot.phase = .reading) ∧
  (∀ (dt : Nat) (c : Fin 2) (b : Option Nat) (s : State),
    s.coreOn = true →
    s.boot.phase = .reading →
    s.boot.chosen = none →
    s.boot.order = [c.val] →
    s.boot.both = false →
    s.gb Reg.BOOT.STATUS.FORCED = false →
    (b = none → imgResult s.pins.keyDigest (s.copyBytes c.val) ≠ 1) →
    s.boot.step < 3 →
    allHeads.any (fun n => s.headRuns n) = false →
    ∃ t : State, exec (.flashCopyReadDone dt c b) s = .next t ∧
      t.g Reg.BOOT.STATUS.STATE = 2 ∧
      t.g Reg.BOOT.STATUS.REASON = 1 ∧
      t.g Reg.BOOT.STATUS.STAT = refusalStat 1 ∧
      t.boot.phase = .idle ∧
      t.evStatus Ev.cfgRefused = true ∧
      t.g (Reg.BOOT.COPY.RESULT c.val) = (if b = none then imgResult s.pins.keyDigest (s.copyBytes c.val) else 3)) ∧
  (∀ (dt : Nat) (s : State),
    s.coreOn = true →
    s.boot.phase = .pausing →
    s.boot.pauseTo ≤ s.clock + dt →
    s.boot.todo = [] →
    ∃ t : State, exec (.regListPauseExpire dt) s = .next t ∧
      t.g Reg.BOOT.STATUS.STATE = 1 ∧
      t.g Reg.BOOT.STATUS.STAT = 2 ∧
      t.boot.phase = .idle ∧
      t.g Reg.BOOT.TIMES.T_RUN_MS = min 65535 ((s.clock + dt - s.boot.at_) / 1000000) ∧
      (∀ x, t.byte x = s.byte x)) ∧
  (∀ (dt k : Nat) (l : List BootAct) (s : State),
    s.coreOn = true →
    s.boot.phase = .pausing →
    s.boot.pauseTo ≤ s.clock + dt →
    s.boot.todo = .pause k :: l →
    ∃ t : State, exec (.regListPauseExpire dt) s = .next t ∧
      t.boot.phase = .pausing ∧
      t.boot.pauseTo = s.clock + dt + 1000 * k ∧
      t.boot.todo = l ∧
      (∀ x, t.byte x = s.byte x)) ∧
  (∀ (dt : Nat) (m : Master) (v : Word) (s : State),
    s.coreOn = true →
    s.mayWrite m.val (0x10080020) = true →
    s.imageTakes 1 = true →
    ∃ t : State, exec (.imageDataWrite dt m v) s = .next t ∧
      t.boot.image = s.boot.image ++ leBytes v.toNat 4 ∧
      t.boot.chosen = none) ∧
  (∀ (dt : Nat) (m : Master) (v : Word) (s : State),
    s.coreOn = true →
    s.mayWrite m.val (0x10080020) = true →
    s.imageTakes 1 = false →
    ∃ t : State, exec (.imageDataWrite dt m v) s = .next t ∧
      t.boot = s.boot ∧
      t.g Reg.BOOT.STATUS.STATE = s.g Reg.BOOT.STATUS.STATE)

/-- A slot is posted by a host, taken, done by the Curator and acknowledged in that order; fuses program once; flash writes and programming end with a result. -/
def Obligations.MailboxSlots : Prop :=
  (∀ (dt : Nat) (m : Master) (k : Fin 2) (s : State),
    s.coreOn = true →
    s.mayWrite m.val ((Reg.HOST.SLOT.POST k.val).addr) = true →
    m.val ≠ 0 →
    s.recovery = false →
    ∃ t : State, exec (.mailboxPost dt m k) s = .next t ∧
      t.g (Reg.HOST.SLOT.STATE k.val) = (if s.g (Reg.HOST.SLOT.STATE k.val) = 0 then 1 else s.g (Reg.HOST.SLOT.STATE k.val)) ∧
      t.host = s.host ∧
      (∀ x, t.byte x = s.byte x)) ∧
  (∀ (dt : Nat) (m : Master) (k : Fin 2) (s : State),
    s.coreOn = true →
    s.mayWrite m.val ((Reg.HOST.SLOT.POST k.val).addr) = true →
    m.val = 0 →
    ∃ t : State, exec (.mailboxTake dt m k) s = .next t ∧
      t.g (Reg.HOST.SLOT.STATE k.val) = (if s.g (Reg.HOST.SLOT.STATE k.val) = 1 then 2 else s.g (Reg.HOST.SLOT.STATE k.val)) ∧
      (s.g (Reg.HOST.SLOT.STATE k.val) = 1 → k.val ∉ t.host.served) ∧
      (∀ x, t.byte x = s.byte x)) ∧
  (∀ (dt : Nat) (m : Master) (k : Fin 2) (s : State),
    s.coreOn = true →
    s.mayWrite m.val ((Reg.HOST.SLOT.POST k.val).addr) = true →
    m.val = 0 →
    s.host.mgmtDue = none →
    ∃ t : State, exec (.mailboxDone dt m k) s = .next t ∧
      t.g (Reg.HOST.SLOT.STATE k.val) = (if s.g (Reg.HOST.SLOT.STATE k.val) = 2 then 3 else s.g (Reg.HOST.SLOT.STATE k.val)) ∧
      (s.g (Reg.HOST.SLOT.STATE k.val) = 2 → t.evStatus Ev.mailbox = true)) ∧
  (∀ (dt : Nat) (m : Master) (k : Fin 2) (s : State),
    s.coreOn = true →
    s.mayWrite m.val ((Reg.HOST.SLOT.POST k.val).addr) = true →
    m.val ≠ 0 →
    ∃ t : State, exec (.mailboxAck dt m k) s = .next t ∧
      t.g (Reg.HOST.SLOT.STATE k.val) = (if s.g (Reg.HOST.SLOT.STATE k.val) = 3 then 0 else s.g (Reg.HOST.SLOT.STATE k.val)) ∧
      t.host = s.host ∧
      (∀ x, t.byte x = s.byte x)) ∧
  (∀ (dt : Nat) (m : Master) (s : State),
    s.coreOn = true →
    s.mayWrite m.val (0x10080080) = true →
    s.boot.fuse = none →
    s.pins.keyDigest.all (fun w => w == 0) = true →
    ∃ t : State, exec (.fuseProgram dt m) s = .next t ∧
      t.boot.fuse = some s.fuseData ∧
      t.g Reg.BOOT.FUSE_PROG.PROG_RESULT = 0 ∧
      t.pins = s.pins ∧
      (∀ x, t.byte x = s.byte x)) ∧
  (∀ (dt : Nat) (m : Master) (s : State),
    s.coreOn = true →
    s.mayWrite m.val (0x10080080) = true →
    s.boot.fuse = none →
    s.pins.keyDigest.all (fun w => w == 0) = false →
    ∃ t : State, exec (.fuseProgram dt m) s = .next t ∧
      t.boot.fuse = none ∧
      t.g Reg.BOOT.FUSE_PROG.PROG_RESULT = 2 ∧
      t.pins = s.pins ∧
      (∀ x, t.byte x = s.byte x)) ∧
  (∀ (dt : Nat) (b : Bool) (d : List Nat) (s : State),
    s.coreOn = true →
    s.boot.fuse = some d →
    ∃ t : State, exec (.fuseProgramDone dt b) s = .next t ∧
      t.boot.fuse = none ∧
      t.g Reg.BOOT.FUSE_PROG.PROG_RESULT = (if b then 1 else 3) ∧
      (b = true → t.pins.keyDigest = d) ∧
      (∀ x, t.byte x = s.byte x)) ∧
  (∀ (dt : Nat) (x : Fin 4) (j : FlashJob) (s : State),
    s.coreOn = true →
    (s.recovery = true ∨ s.engRunning 0 = true) →
    s.boot.flash = some j →
    j.slot < 2 →
    j.paused = false →
    ∃ t : State, exec (.flashWriteDone dt x) s = .next t ∧
      t.boot.flash = none ∧
      t.gb Reg.BOOT.FLASH.BUSY = false ∧
      t.g Reg.BOOT.FLASH.RESULT = (if x.val = 3 ∧ j.verify = false then 0 else x.val) ∧
      t.evStatus Ev.nvmDone = true ∧
      (x.val = 0 → t.flash = flashWrite s.flash j.addr j.data)) ∧
  (∀ (dt : Nat) (x : Fin 4) (j : FlashJob) (s : State),
    s.boot.flash = some j →
    j.paused = true →
    ∃ t : State, exec (.flashWriteDone dt x) s = .next t ∧
      t = s.advance dt)

/-- A command that is served is answered with its status, its tag and the words of R462; auth commands answer AUTH without a good MAC. -/
def Obligations.MailboxCommands : Prop :=
  (∀ (dt : Nat) (k : Fin 2) (s : State),
    s.mbServes k.val 1 = true →
    ∃ t : State, exec (.mailboxStatus dt k) s = .next t ∧
      t.g (Reg.HOST.SLOT.RSP k.val 0) = 0 + s.mbTag k.val * 2 ^ 8 + 7 * 2 ^ 16 ∧
      t.g (Reg.HOST.SLOT.RSP k.val 7) = (s.advance dt).healthWord % 2 ^ 32) ∧
  (∀ (dt : Nat) (k : Fin 2) (s : State),
    s.mbServes k.val 0x10 = true →
    (s.mbReq k.val 3 = 0 ∨ 16384 < s.mbReq k.val 3 ∨ s.inDram (s.mbReq k.val 1 + 2 ^ 32 * (s.mbReq k.val 2 % 16)) (16 * s.mbReq k.val 3) = false) →
    ∃ t : State, exec (.loadPage dt k) s = .next t ∧
      t.g (Reg.HOST.SLOT.RSP k.val 0) = 2 + s.mbTag k.val * 2 ^ 8 + 0 * 2 ^ 16 ∧
      t.g Reg.SEQ.STATUS.KEY_STATE = s.g Reg.SEQ.STATUS.KEY_STATE) ∧
  (∀ (dt : Nat) (k : Fin 2) (s : State),
    s.mbServes k.val 0x10 = true →
    s.mbReq k.val 3 ≠ 0 →
    s.mbReq k.val 3 ≤ 16384 →
    s.inDram (s.mbReq k.val 1 + 2 ^ 32 * (s.mbReq k.val 2 % 16)) (16 * s.mbReq k.val 3) = true →
    ∃ t : State, exec (.loadPage dt k) s = .next t ∧
      t.g (Reg.HOST.SLOT.RSP k.val 0) = (if s.g Reg.SEQ.STATUS.KEY_STATE = 0 then 0 else 3) + s.mbTag k.val * 2 ^ 8 + 0 * 2 ^ 16) ∧
  (∀ (dt : Nat) (k : Fin 2) (s : State),
    s.mbServes k.val 0x11 = true →
    ∃ t : State, exec (.validate dt k) s = .next t ∧
      t.g (Reg.HOST.SLOT.RSP k.val 0) = (if s.g Reg.SEQ.STATUS.KEY_STATE = 2 then 3 else 0) + s.mbTag k.val * 2 ^ 8 + 2 * 2 ^ 16) ∧
  (∀ (dt : Nat) (k : Fin 2) (s : State),
    s.mbServes k.val 0x12 = true →
    s.mbReq k.val 1 % 2 = 0 →
    999999999 < s.mbReq k.val 4 →
    ∃ t : State, exec (.keystone dt k) s = .next t ∧
      t.g (Reg.HOST.SLOT.RSP k.val 0) = 2 + s.mbTag k.val * 2 ^ 8 + 0 * 2 ^ 16) ∧
  (∀ (dt : Nat) (k : Fin 2) (s : State),
    s.mbServes k.val 0x12 = true →
    (s.mbReq k.val 1 % 2 = 1 ∨ s.mbReq k.val 4 ≤ 999999999) →
    ∃ t : State, exec (.keystone dt k) s = .next t ∧
      t.g (Reg.HOST.SLOT.RSP k.val 0) = (if 5 ≤ t.g Reg.SEQ.KEY_STATUS.RESULT ∧ t.g Reg.SEQ.KEY_STATUS.RESULT ≤ 7 then 3 else 0) + s.mbTag k.val * 2 ^ 8 + 1 * 2 ^ 16) ∧
  (∀ (dt : Nat) (k : Fin 2) (s : State),
    s.mbServes k.val 0x13 = true →
    5 < s.mbReq k.val 1 / 2 ^ 12 % 8 →
    ∃ t : State, exec (.amend dt k) s = .next t ∧
      t.g (Reg.HOST.SLOT.RSP k.val 0) = 2 + s.mbTag k.val * 2 ^ 8 + 0 * 2 ^ 16) ∧
  (∀ (dt : Nat) (k : Fin 2) (s : State),
    s.mbServes k.val 0x13 = true →
    s.mbReq k.val 1 / 2 ^ 12 % 8 ≤ 5 →
    ∃ t : State, exec (.amend dt k) s = .next t ∧
      t.g (Reg.HOST.SLOT.RSP k.val 0) = 0 + s.mbTag k.val * 2 ^ 8 + 1 * 2 ^ 16 ∧
      t.g (Reg.HOST.SLOT.RSP k.val 1) = s.g Reg.SEQ.AMD_STATUS.NEXT_TICKET) ∧
  (∀ (dt : Nat) (k : Fin 2) (s : State),
    s.mbServes k.val 0x14 = true →
    s.host.preset = some k.val →
    s.seq.preset ≠ .reading →
    s.seq.preset ≠ .deferred →
    ∃ t : State, exec (.preset dt k) s = .next t ∧
      t.g (Reg.HOST.SLOT.RSP k.val 0) = 0 + s.mbTag k.val * 2 ^ 8 + 1 * 2 ^ 16 ∧
      t.host.preset = none) ∧
  (∀ (dt : Nat) (k : Fin 2) (s : State),
    s.mbServes k.val 0x14 = true →
    s.host.preset ≠ some k.val →
    ∃ t : State, exec (.preset dt k) s = .next t ∧
      (t.host.preset = some k.val ∨ (t.g (Reg.HOST.SLOT.RSP k.val 0) = 0 + s.mbTag k.val * 2 ^ 8 + 1 * 2 ^ 16 ∧ t.host.preset = none))) ∧
  (∀ (dt : Nat) (k : Fin 2) (s : State),
    s.mbServes k.val 0x20 = true →
    20 < s.mbReq k.val 2 % 256 →
    ∃ t : State, exec (.setPlacard dt k) s = .next t ∧
      t.g (Reg.HOST.SLOT.RSP k.val 0) = 2 + s.mbTag k.val * 2 ^ 8 + 0 * 2 ^ 16) ∧
  (∀ (dt : Nat) (k : Fin 2) (s : State),
    s.mbServes k.val 0x20 = true →
    s.mbReq k.val 2 % 256 ≤ 20 →
    ∃ t : State, exec (.setPlacard dt k) s = .next t ∧
      t.g (Reg.HOST.SLOT.RSP k.val 0) = 0 + s.mbTag k.val * 2 ^ 8 + 1 * 2 ^ 16 ∧
      t.g (Reg.HOST.SLOT.RSP k.val 1) = s.g Reg.SEQ.AMD_STATUS.NEXT_TICKET) ∧
  (∀ (dt : Nat) (k : Fin 2) (s : State),
    s.mbServes k.val 0x30 = true →
    (s.mbReq k.val 1 / 2 ^ 24 = 0 ∨ 36 < s.mbReq k.val 1 / 2 ^ 24) →
    ∃ t : State, exec (.sourceBind dt k) s = .next t ∧
      t.g (Reg.HOST.SLOT.RSP k.val 0) = 2 + s.mbTag k.val * 2 ^ 8 + 0 * 2 ^ 16) ∧
  (∀ (dt : Nat) (k : Fin 2) (s : State),
    s.mbServes k.val 0x30 = true →
    1 ≤ s.mbReq k.val 1 / 2 ^ 24 →
    s.mbReq k.val 1 / 2 ^ 24 ≤ 36 →
    ∃ t : State, exec (.sourceBind dt k) s = .next t ∧
      t.g (Reg.HOST.SLOT.RSP k.val 0) = 0 + s.mbTag k.val * 2 ^ 8 + 1 * 2 ^ 16) ∧
  (∀ (dt : Nat) (k : Fin 2) (s : State),
    s.mbServes k.val 0x31 = true →
    ∃ t : State, exec (.release dt k) s = .next t ∧
      t.g (Reg.HOST.SLOT.RSP k.val 0) = (if t.g Reg.HEAD.REL_STATUS.LAST_RESULT = 2 then 3 else 0) + s.mbTag k.val * 2 ^ 8 + 1 * 2 ^ 16) ∧
  (∀ (dt : Nat) (k : Fin 2) (s : State),
    s.mbServes k.val 33 = true →
    (s.mbAuth k.val).2 = false →
    ∃ t : State, exec (.vitrineWrite dt k) s = .next t ∧
      t.g (Reg.HOST.SLOT.RSP k.val 0) = 4 + s.mbTag k.val * 2 ^ 8 + 0 * 2 ^ 16 ∧
      t.evStatus Ev.secAuthFail = true) ∧
  (∀ (dt : Nat) (k : Fin 2) (s : State),
    s.mbServes k.val 64 = true →
    (s.mbAuth k.val).2 = false →
    ∃ t : State, exec (.flashWrite dt k) s = .next t ∧
      t.g (Reg.HOST.SLOT.RSP k.val 0) = 4 + s.mbTag k.val * 2 ^ 8 + 0 * 2 ^ 16 ∧
      t.evStatus Ev.secAuthFail = true) ∧
  (∀ (dt : Nat) (k : Fin 2) (s : State),
    s.mbServes k.val 65 = true →
    (s.mbAuth k.val).2 = false →
    ∃ t : State, exec (.imageSelect dt k) s = .next t ∧
      t.g (Reg.HOST.SLOT.RSP k.val 0) = 4 + s.mbTag k.val * 2 ^ 8 + 0 * 2 ^ 16 ∧
      t.evStatus Ev.secAuthFail = true) ∧
  (∀ (dt : Nat) (k : Fin 2) (b : Bool) (s : State),
    s.mbServes k.val 66 = true →
    (s.mbAuth k.val).2 = false →
    ∃ t : State, exec (.mailboxReset dt k b) s = .next t ∧
      t.g (Reg.HOST.SLOT.RSP k.val 0) = 4 + s.mbTag k.val * 2 ^ 8 + 0 * 2 ^ 16 ∧
      t.evStatus Ev.secAuthFail = true) ∧
  (∀ (dt : Nat) (k : Fin 2) (s : State),
    s.mbServes k.val 0x21 = true →
    (s.mbAuth k.val).2 = true →
    s.mbReq k.val 1 % 2 = 0 →
    s.mbReq k.val 3 ≤ 220 →
    s.mbReq k.val 2 + s.mbReq k.val 3 ≤ 0x200000 →
    ∃ t : State, exec (.vitrineWrite dt k) s = .next t ∧
      t.g (Reg.HOST.SLOT.RSP k.val 0) = 0 + s.mbTag k.val * 2 ^ 8 + 0 * 2 ^ 16) ∧
  (∀ (dt : Nat) (k : Fin 2) (s : State),
    s.mbServes k.val 0x40 = true →
    (s.mbAuth k.val).2 = true →
    s.boot.flash = none →
    (decide (1024 * s.g Reg.BOOT.FLASH.ERASE_KB ≠ 0 ∧ s.mbReq k.val 1 % (1024 * s.g Reg.BOOT.FLASH.ERASE_KB) = 0 ∧ s.mbReq k.val 2 % (1024 * s.g Reg.BOOT.FLASH.ERASE_KB) = 0 ∧ s.mbReq k.val 1 + s.mbReq k.val 2 ≤ 2 ^ 20 * s.g Reg.BOOT.FLASH_MB) && (inShared (s.mbReq k.val 3 + 2 ^ 32 * (s.mbReq k.val 4 % 16)) (s.mbReq k.val 2) || (!s.recovery && s.inDram (s.mbReq k.val 3 + 2 ^ 32 * (s.mbReq k.val 4 % 16)) (s.mbReq k.val 2)))) = true →
    s.copyInUse = none →
    ∃ t : State, exec (.flashWrite dt k) s = .next t ∧
      t.gb Reg.BOOT.FLASH.BUSY = true ∧
      (t.boot.flash.map (fun j => (j.slot, j.addr, j.data.length))) = some (k.val, s.mbReq k.val 1, s.mbReq k.val 2) ∧
      t.flash = s.flash) ∧
  (∀ (dt : Nat) (k : Fin 2) (s : State),
    s.mbServes k.val 0x41 = true →
    (s.mbAuth k.val).2 = true →
    ∃ t : State, exec (.imageSelect dt k) s = .next t ∧
      t.g (Reg.HOST.SLOT.RSP k.val 0) = (if s.mbReq k.val 1 % 4 = 3 then 2 else 0) + s.mbTag k.val * 2 ^ 8 + 0 * 2 ^ 16 ∧
      (s.mbReq k.val 1 % 4 ≠ 3 → t.g Reg.BOOT.NEXT_SEL = s.mbReq k.val 1 % 4)) ∧
  (∀ (dt : Nat) (k : Fin 2) (b : Bool) (s : State),
    s.mbServes k.val 0x42 = true →
    (s.mbAuth k.val).2 = true →
    s.mbReq k.val 1 = swFullKey →
    ∃ t : State, exec (.mailboxReset dt k b) s = .next t ∧
      t.g Reg.RST.STATUS.CAUSE = 6 ∧
      t.gb Reg.RST.STATUS.DRAM_KEPT = b ∧
      t.boot.phase = .due ∧
      t.time.count = s.time.count + dt) ∧
  (∀ (dt : Nat) (k : Fin 2) (b : Bool) (s : State),
    s.mbServes k.val 0x42 = true →
    (s.mbAuth k.val).2 = true →
    s.mbReq k.val 1 ≠ swFullKey →
    ∃ t : State, exec (.mailboxReset dt k b) s = .next t ∧
      t.g (Reg.HOST.SLOT.RSP k.val 0) = 2 + s.mbTag k.val * 2 ^ 8 + 0 * 2 ^ 16)

/-- Host SPI frames run word by word and leave their RESULT; I2C reads the status block; management messages are checked, executed once and answered. -/
def Obligations.HostPorts : Prop :=
  (∀ (dt : Nat) (bs : List Byte) (s : State),
    s.hostServed = true →
    ((bs.getD 0 0).toNat = 0x01 ∨ (bs.getD 0 0).toNat = 0x31) →
    spiCheck bs (8 + 4 * spiCount bs) = 0 →
    ∃ t : State, exec (.hostSpiWrite dt bs) s = .next t ∧
      t.g Reg.HOST.ID.SPI_RESULT = (if ((s.advance dt).spiSelect.hostWrites true (spiAddr bs) (spiStep bs) 0 (wordsOf 64 ((bs.take (8 + 4 * spiCount bs)).drop 8))).2.isSome then 2 else 0) ∧
      t.host.spiOut = [] ∧
      (((s.advance dt).spiSelect.hostWrites true (spiAddr bs) (spiStep bs) 0 (wordsOf 64 ((bs.take (8 + 4 * spiCount bs)).drop 8))).2.isSome = true → t.evStatus Ev.hostErr = true) ∧
      (((s.advance dt).spiSelect.hostWrites true (spiAddr bs) (spiStep bs) 0 (wordsOf 64 ((bs.take (8 + 4 * spiCount bs)).drop 8))).2 = none → ∀ x, t.byte x = ((s.advance dt).spiSelect.hostWrites true (spiAddr bs) (spiStep bs) 0 (wordsOf 64 ((bs.take (8 + 4 * spiCount bs)).drop 8))).1.byte x)) ∧
  (∀ (dt : Nat) (bs : List Byte) (s : State),
    s.hostServed = true →
    ((bs.getD 0 0).toNat = 0x01 ∨ (bs.getD 0 0).toNat = 0x31) →
    spiCheck bs (8 + 4 * spiCount bs) ≠ 0 →
    ∃ t : State, exec (.hostSpiWrite dt bs) s = .next t ∧
      t.g Reg.HOST.ID.SPI_RESULT = spiCheck bs (8 + 4 * spiCount bs) ∧
      t.evStatus Ev.hostErr = true ∧
      t.bus.resp = s.bus.resp) ∧
  (∀ (dt : Nat) (bs : List Byte) (b : SpiEnding) (s : State),
    s.hostServed = true →
    ((bs.getD 0 0).toNat = 0x03 ∨ (bs.getD 0 0).toNat = 0x33) →
    spiCheck bs 8 = 0 →
    ∃ t : State, exec (.hostSpiRead dt bs b) s = .next t ∧
      t.g Reg.HOST.ID.SPI_RESULT = (if b = .cut then 5 else if b = .late then 4 else if ((s.advance dt).spiSelect.hostReads (spiAddr bs) (spiStep bs) 0 (spiCount bs)).2.2.isSome then 2 else 0) ∧
      t.host.spiOut = (if b = .cut then [] else if b = .late then spiReply 4 [] else if ((s.advance dt).spiSelect.hostReads (spiAddr bs) (spiStep bs) 0 (spiCount bs)).2.2.isSome then spiReply 2 [] else spiReply 0 ((s.advance dt).spiSelect.hostReads (spiAddr bs) (spiStep bs) 0 (spiCount bs)).2.1)) ∧
  (∀ (dt : Nat) (bs : List Byte) (s : State),
    s.hostServed = true →
    (bs.getD 0 0).toNat = 0x05 →
    ∃ t : State, exec (.hostSpiRead dt bs .cut) s = .next t ∧
      t.g Reg.HOST.ID.SPI_RESULT = 5 ∧
      t.host.spiOut = [] ∧
      t.evStatus Ev.hostErr = true ∧
      (s.gb Reg.EVT.LOG_EN = false → ∀ x, t.byte x = s.byte x)) ∧
  (∀ (dt : Nat) (s : State),
    s.hostServed = true →
    ∃ t : State, exec (.hostSpiStatus dt) s = .next t ∧
      t.host.spiOut.take 6 = leBytes 0xA5 1 ++ leBytes (s.g Reg.HOST.ID.SPI_RESULT) 1 ++ leBytes s.host.spiFail 1 ++ leBytes (s.g Reg.BOOT.STATUS.STAT) 1 ++ leBytes (s.g (Reg.HOST.SLOT.STATE 0)) 1 ++ leBytes ((s.advance dt).view 0x10080000).toNat 1 ∧
      t.regs = s.regs ∧
      (∀ x, t.byte x = s.byte x)) ∧
  (∀ (dt : Nat) (x : BitVec 7) (b : Byte) (bs : List Byte) (s : State),
    s.i2cServed x.toNat = true →
    ∃ t : State, exec (.i2cPointerWrite dt x (b :: bs)) s = .next t ∧
      t.host.i2cPtr = b.toNat % 32 ∧
      t.regs = s.regs ∧
      (∀ x, t.byte x = s.byte x)) ∧
  (∀ (dt n : Nat) (x : BitVec 7) (s : State),
    s.i2cServed x.toNat = true →
    ∃ t : State, exec (.i2cRead dt x n) s = .next t ∧
      t.host.i2cOut = (List.range n).map (fun i => (s.advance dt).statusBlock.getD ((s.host.i2cPtr + i) % 32) 0) ∧
      t.host.i2cPtr = (s.host.i2cPtr + n) % 32 ∧
      t.regs = s.regs ∧
      (∀ x, t.byte x = s.byte x)) ∧
  (∀ (dt : Nat) (bs : List Byte) (s : State),
    s.mgmtOn = true →
    s.mgmtForUs bs = true →
    mgmtType bs = 1 →
    ∃ t : State, exec (.mgmtStatus dt bs) s = .next t ∧
      t.host.mgmtOut = (s.advance dt).mgmtFrame 129 (mgmtSeq bs) (leBytes 0 1 ++ (s.advance dt).statusBlock) ∧
      t.regs = s.regs ∧
      (∀ x, t.byte x = s.byte x)) ∧
  (∀ (dt : Nat) (bs : List Byte) (s : State),
    s.mgmtOn = true →
    s.mgmtForUs bs = true →
    mgmtType bs = 2 →
    s.recovery = false →
    s.imageTakes 2 = false →
    s.hostMac (bs.take (bs.length - 16)) = some (bs.drop (bs.length - 16)) →
    s.g Reg.HOST.MGMT_SEQ < mgmtSeq bs →
    (mgmtPayload bs).length = 10 →
    1 ≤ leNat (((mgmtPayload bs).drop 8).take 2) →
    leNat (((mgmtPayload bs).drop 8).take 2) ≤ 256 →
    ∃ t : State, exec (.mgmtRead dt bs) s = .next t ∧
      ((t.host.mgmtOut.drop 12).take 1) = leBytes (if (((s.advance dt).p Reg.HOST.MGMT_SEQ (mgmtSeq bs)).hostReads (leNat ((mgmtPayload bs).take 8) % 2 ^ 36) 4 0 (leNat (((mgmtPayload bs).drop 8).take 2))).2.2.isSome then 3 else 0) 1 ∧
      t.host.mgmtLast = t.host.mgmtOut) ∧
  (∀ (dt : Nat) (bs : List Byte) (s : State),
    s.mgmtOn = true →
    s.mgmtForUs bs = true →
    mgmtType bs = 2 →
    s.recovery = false →
    (s.imageTakes 2 = true ∨ s.hostMac (bs.take (bs.length - 16)) = some (bs.drop (bs.length - 16))) →
    mgmtSeq bs = s.g Reg.HOST.MGMT_SEQ →
    s.host.mgmtDue = none →
    ∃ t : State, exec (.mgmtRead dt bs) s = .next t ∧
      t.host.mgmtOut = s.host.mgmtLast ∧
      t.host.mgmtLast = s.host.mgmtLast ∧
      t.regs = s.regs ∧
      (∀ x, t.byte x = s.byte x)) ∧
  (∀ (dt : Nat) (bs : List Byte) (s : State),
    s.mgmtOn = true →
    s.mgmtForUs bs = true →
    mgmtType bs = 2 →
    s.recovery = false →
    s.imageTakes 2 = false →
    ¬(s.hostMac (bs.take (bs.length - 16)) = some (bs.drop (bs.length - 16))) →
    ∃ t : State, exec (.mgmtRead dt bs) s = .next t ∧
      t.evStatus Ev.secAuthFail = true ∧
      ((t.host.mgmtOut.drop 12).take 1) = leBytes 1 1 ∧
      t.g Reg.HOST.MGMT_SEQ = s.g Reg.HOST.MGMT_SEQ ∧
      t.host.mgmtLast = s.host.mgmtLast) ∧
  (∀ (dt : Nat) (bs : List Byte) (s : State),
    s.mgmtOn = true →
    s.mgmtForUs bs = true →
    mgmtType bs = 3 →
    s.imageTakes 2 = false →
    (s.recovery = true ∨ (s.hostMac (bs.take (bs.length - 16)) = some (bs.drop (bs.length - 16)) ∧ s.g Reg.HOST.MGMT_SEQ < mgmtSeq bs)) →
    (s.recovery = true → inShared (leNat ((mgmtPayload bs).take 8) % 2 ^ 36) ((mgmtPayload bs).length - 8) = true) →
    12 ≤ (mgmtPayload bs).length →
    (mgmtPayload bs).length % 4 = 0 →
    ∃ t : State, exec (.mgmtWrite dt bs) s = .next t ∧
      ((t.host.mgmtOut.drop 12).take 1) = leBytes (if ((if s.recovery then s.advance dt else ((s.advance dt).p Reg.HOST.MGMT_SEQ (mgmtSeq bs))).hostWrites false (leNat ((mgmtPayload bs).take 8) % 2 ^ 36) 4 0 (wordsOf (mgmtPayload bs).length ((mgmtPayload bs).drop 8))).2.isSome then 3 else 0) 1 ∧
      (s.recovery = false → t.host.mgmtLast = t.host.mgmtOut)) ∧
  (∀ (dt : Nat) (bs : List Byte) (s : State),
    s.mgmtOn = true →
    s.mgmtForUs bs = true →
    mgmtType bs = 4 →
    s.recovery = false →
    s.imageTakes 2 = false →
    (s.recovery = true ∨ (s.hostMac (bs.take (bs.length - 16)) = some (bs.drop (bs.length - 16)) ∧ s.g Reg.HOST.MGMT_SEQ < mgmtSeq bs)) →
    (mgmtPayload bs).length % 4 = 0 →
    4 ≤ (mgmtPayload bs).length →
    (mgmtPayload bs).length ≤ 256 →
    s.g (Reg.HOST.SLOT.STATE 1) = 0 →
    ∃ t : State, exec (.mgmtMailbox dt bs) s = .next t ∧
      t.g (Reg.HOST.SLOT.STATE 1) = 1 ∧
      t.host.mgmtDue = some (bs.take 12) ∧
      t.g (Reg.HOST.SLOT.REQ 1 0) = leNat ((mgmtPayload bs).take 4) ∧
      t.g Reg.HOST.MGMT_SEQ = mgmtSeq bs ∧
      (∀ x, t.byte x = s.byte x)) ∧
  (∀ (dt : Nat) (bs : List Byte) (s : State),
    s.mgmtOn = true →
    s.mgmtForUs bs = true →
    mgmtType bs = 5 →
    s.recovery = false →
    s.imageTakes 2 = true →
    s.g Reg.HOST.MGMT_SEQ < mgmtSeq bs →
    4 ≤ (mgmtPayload bs).length →
    leNat ((mgmtPayload bs).take 4) = s.boot.image.length →
    ∃ t : State, exec (.mgmtImageData dt bs) s = .next t ∧
      t.boot.image = s.boot.image ++ (mgmtPayload bs).drop 4 ∧
      ((t.host.mgmtOut.drop 12).take 1) = leBytes 0 1 ∧
      t.g Reg.HOST.MGMT_SEQ = mgmtSeq bs)

/-- Each reset kind records its cause, clears what its rank clears, and leaves the boot loader due or the device held. -/
def Obligations.ResetsClearAndRestart : Prop :=
  (∀ (dt : Nat) (x : Straps) (s : State),
    s.pwr.pinLow = false →
    ∃ t : State, exec (.powerOnReset dt x) s = .next t ∧
      t.g Reg.RST.STATUS.CAUSE = (if s.pwr.mode = .unpowered then s.pwr.cause % 16 else 0) ∧
      t.pwr.mode = .run ∧
      t.boot.phase = .due ∧
      t.boot.kind = .hard ∧
      t.g Reg.SYS.STRAPS.BOOT_MODE = x.bootMode.val ∧
      t.g Reg.SYS.STRAPS.UNIT_ID = x.unitId.val ∧
      t.gb Reg.SYS.STRAPS.CUS_MODE = x.cusMode ∧
      t.time.count = 0 ∧
      (∀ a, 0x10090000 ≤ a → a < 0x20000000 → t.reg a &&& clearMask .p a = resetWord a &&& clearMask .p a)) ∧
  (∀ (dt : Nat) (x : Straps) (s : State),
    s.pwr.mode ≠ .unpowered →
    ∃ t : State, exec (.pinReset dt true x) s = .next t ∧
      t.pwr.mode = .held ∧
      t.coreOn = false ∧
      t.pwr.cause = 2 ∧
      t.time.count = 0) ∧
  (∀ (dt : Nat) (x : Straps) (s : State),
    s.pwr.mode = .held →
    s.pwr.noXtal = false →
    ∃ t : State, exec (.pinReset dt false x) s = .next t ∧
      t.g Reg.RST.STATUS.CAUSE = s.pwr.cause % 16 ∧
      t.pwr.mode = .run ∧
      t.boot.phase = .due ∧
      t.boot.kind = .hard ∧
      t.g Reg.SYS.STRAPS.BOOT_MODE = x.bootMode.val ∧
      t.g Reg.SYS.STRAPS.UNIT_ID = x.unitId.val ∧
      t.gb Reg.SYS.STRAPS.CUS_MODE = x.cusMode) ∧
  (∀ (dt : Nat) (s : State),
    s.pwr.mode ≠ .unpowered →
    ∃ t : State, exec (.brownOutReset dt) s = .next t ∧
      t.pwr.mode = .unpowered ∧
      t.coreOn = false ∧
      t.pwr.cause = 1 ∧
      (∀ a, 0x10090000 ≤ a → a < 0x20000000 → t.reg a &&& clearMask .p a = resetWord a &&& clearMask .p a)) ∧
  (∀ (dt : Nat) (s : State),
    s.coreOn = true →
    ∃ t : State, exec (.xtalLoss dt false) s = .next t ∧
      t.pwr.mode = .held ∧
      t.pwr.cause = 3 ∧
      t.pwr.noXtal = true ∧
      (∀ a, 0x10090000 ≤ a → a < 0x20000000 → t.reg a &&& clearMask .h a = resetWord a &&& clearMask .h a)) ∧
  (∀ (dt : Nat) (s : State),
    s.pwr.mode = .held →
    s.pwr.pinLow = false →
    ∃ t : State, exec (.xtalLoss dt true) s = .next t ∧
      t.g Reg.RST.STATUS.CAUSE = s.pwr.cause % 16 ∧
      t.pwr.mode = .run ∧
      t.boot.phase = .due ∧
      t.boot.kind = .hard) ∧
  (∀ (dt : Nat) (b : Bool) (s : State),
    s.wdogRuns = true →
    s.bootRuns = false →
    1000000 * s.g Reg.PWR.WDOG_CTRL.TIMEOUT_MS ≤ (s.advance dt).wdogCount →
    s.gb Reg.PWR.WDOG_STATUS.WARNED = false →
    ∃ t : State, exec (.wdogExpire dt b) s = .next t ∧
      t.gb Reg.PWR.WDOG_STATUS.WARNED = true ∧
      t.evStatus Ev.wdogWarn = true ∧
      t.pwr.mode = s.pwr.mode ∧
      t.wdogCount = 0 ∧
      t.g Reg.RST.STATUS.CAUSE = s.g Reg.RST.STATUS.CAUSE) ∧
  (∀ (dt : Nat) (b : Bool) (s : State),
    s.wdogRuns = true →
    s.bootRuns = false →
    1000000 * s.g Reg.PWR.WDOG_CTRL.TIMEOUT_MS ≤ (s.advance dt).wdogCount →
    s.gb Reg.PWR.WDOG_STATUS.WARNED = true →
    s.gb Reg.PWR.WDOG_CTRL.REPORT_ONLY = false →
    ∃ t : State, exec (.wdogExpire dt b) s = .next t ∧
      t.g Reg.RST.STATUS.CAUSE = 4 ∧
      t.gb Reg.RST.STATUS.DRAM_KEPT = b ∧
      t.g Reg.RST.COUNTS.WATCHDOGS = min 255 (s.g Reg.RST.COUNTS.WATCHDOGS + 1) ∧
      t.pwr.mode = .run ∧
      t.boot.phase = .due ∧
      t.boot.kind = .hard ∧
      t.time.count = 0 ∧
      (∀ a, 0x10090000 ≤ a → a < 0x20000000 → t.reg a &&& clearMask .h a = resetWord a &&& clearMask .h a) ∧
      ((∀ i < 4, s.g (Reg.DMC.HASH_MASK i) = 0) → b = true → (∀ a, dramBase ≤ a → t.byte a = (s.advance dt).finishGranted.byte a))) ∧
  (∀ (dt : Nat) (m : Master) (b : Bool) (s : State),
    s.coreOn = true →
    s.mayWrite m.val (0x10030004) = true →
    ∃ t : State, exec (.softwareFullReset dt m 0x525354#32 b) s = .next t ∧
      t.g Reg.RST.STATUS.CAUSE = 6 ∧
      t.time.count = (s.advance dt).time.count ∧
      t.pwr.mode = .run ∧
      t.boot.phase = .due ∧
      t.boot.kind = .soft ∧
      (∀ a, dramBase ≤ a → t.byte a = (s.advance dt).finishGranted.byte a) ∧
      (∀ a, 0x1000000 ≤ a → a < 0x1080000 → t.byte a = s.byte a) ∧
      (∀ a, 0x10090000 ≤ a → a < 0x20000000 → t.reg a &&& clearMask .s a = resetWord a &&& clearMask .s a)) ∧
  (∀ (dt : Nat) (m : Master) (v : Word) (b : Bool) (s : State),
    s.coreOn = true →
    s.mayWrite m.val (0x10030004) = true →
    v ≠ 0x525354#32 →
    ∃ t : State, exec (.softwareFullReset dt m v b) s = .next t ∧
      t.boot = s.boot ∧
      t.g Reg.RST.STATUS.CAUSE = s.g Reg.RST.STATUS.CAUSE ∧
      (bitOf (s.g Reg.ERR.CTRL.LOG_MASK) (reasonGroup Rsn.ignored) = true → t.bus.err ≠ []) ∧
      (∀ x, t.byte x = s.byte x))

/-- Domain resets run and end; low-power entry is refused while the flash is written, otherwise runs and completes; a wake records every source and boots. -/
def Obligations.DomainResetsAndLowPower : Prop :=
  (∀ (dt : Nat) (m : Master) (c : Byte) (e : DecEnd) (s : State),
    s.coreOn = true →
    s.mayWrite m.val (0x10030008) = true →
    s.gb Reg.RST.DOMAIN.GO = false →
    domainNamed c.toNat = true →
    ∃ t : State, exec (.domainReset dt m c e) s = .next t ∧
      t.gb Reg.RST.DOMAIN.GO = true ∧
      t.g Reg.RST.DOMAIN.CODE = c.toNat) ∧
  (∀ (dt : Nat) (m : Master) (j : Fin 4) (e : DecEnd) (s : State),
    s.coreOn = true →
    s.mayWrite m.val (0x10030008) = true →
    s.gb Reg.RST.DOMAIN.GO = false →
    ∃ t : State, exec (.domainReset dt m (BitVec.ofNat 8 (0x30 + j.val)) e) s = .next t ∧
      t.gb Reg.RST.DOMAIN.GO = true ∧
      (∀ a, 0x10380000 + 0x10000 * j.val ≤ a → a < 0x10390000 + 0x10000 * j.val → t.reg a &&& clearMask .d a = resetWord a &&& clearMask .d a)) ∧
  (∀ (dt : Nat) (m : Master) (c : Byte) (e : DecEnd) (s : State),
    s.coreOn = true →
    s.mayWrite m.val (0x10030008) = true →
    s.gb Reg.RST.DOMAIN.GO = false →
    domainNamed c.toNat = false →
    ∃ t : State, exec (.domainReset dt m c e) s = .next t ∧
      t.g Reg.RST.DOMAIN.RESULT = 2 ∧
      t.gb Reg.RST.DOMAIN.GO = false ∧
      (bitOf (s.g Reg.ERR.CTRL.LOG_MASK) (reasonGroup Rsn.ignored) = true → t.bus.err ≠ [])) ∧
  (∀ (dt : Nat) (s : State),
    s.coreOn = true →
    s.gb Reg.RST.DOMAIN.GO = true →
    ∃ t : State, exec (.domainResetDone dt) s = .next t ∧
      t.gb Reg.RST.DOMAIN.GO = false ∧
      t.g Reg.RST.DOMAIN.RESULT = 1 ∧
      (∀ x, t.byte x = s.byte x)) ∧
  (∀ (dt : Nat) (m : Master) (k : Fin 4) (s : State),
    s.coreOn = true →
    s.mayWrite m.val (0x10020040) = true →
    s.pwr.mode = .run →
    (k.val = 1 ∨ k.val = 2) →
    s.boot.flash.isSome = true →
    ∃ t : State, exec (.lowPowerEntry dt m k) s = .next t ∧
      t.g Reg.PWR.LP_CTRL.RESULT = 2 ∧
      t.pwr.mode = .run) ∧
  (∀ (dt : Nat) (m : Master) (k : Fin 4) (s : State),
    s.coreOn = true →
    s.mayWrite m.val (0x10020040) = true →
    s.pwr.mode = .run →
    (k.val = 1 ∨ k.val = 2) →
    s.boot.flash = none →
    ∃ t : State, exec (.lowPowerEntry dt m k) s = .next t ∧
      t.pwr.mode = .entering ∧
      t.pwr.target = k.val ∧
      t.coreOn = true ∧
      t.g Reg.PWR.WAKE_CAUSE.CAUSE = 0 ∧
      (∀ x, t.byte x = s.byte x)) ∧
  (∀ (dt : Nat) (s : State),
    s.pwr.mode = .entering →
    s.pwr.target = 1 →
    allHeads.any (fun n => s.headRuns n) = false →
    ∃ t : State, exec (.lowPowerEntryDone dt) s = .next t ∧
      t.pwr.mode = .standby ∧
      t.coreOn = false ∧
      (∀ a, dramBase ≤ a → t.byte a = (s.advance dt).finishGranted.byte a) ∧
      (∀ a, 0x1000000 ≤ a → a < 0x1080000 → t.byte a = s.byte a) ∧
      t.time.lpBase = (s.advance dt).time.count) ∧
  (∀ (dt : Nat) (s : State),
    s.pwr.mode = .entering →
    s.pwr.target = 2 →
    allHeads.any (fun n => s.headRuns n) = false →
    ∃ t : State, exec (.lowPowerEntryDone dt) s = .next t ∧
      t.pwr.mode = .dormant ∧
      t.coreOn = false ∧
      t.time.lpBase = (s.advance dt).time.count) ∧
  (∀ (dt : Nat) (s : State),
    (s.pwr.mode = .standby ∨ s.pwr.mode = .dormant) →
    (s.advance dt).wakeSources ≠ 0 →
    ∃ t : State, exec (.wake dt) s = .next t ∧
      t.g Reg.PWR.WAKE_CAUSE.CAUSE = (s.advance dt).wakeSources % 32 ∧
      t.g Reg.PWR.LP_CTRL.RESULT = 1 ∧
      t.g Reg.RST.STATUS.CAUSE = (if s.pwr.mode = .dormant then 8 else 7) ∧
      t.pwr.mode = .run ∧
      t.boot.phase = .due ∧
      t.time.count = (s.advance dt).time.count ∧
      t.time.offset = 0 ∧
      t.timeState = 0) ∧
  (∀ (dt : Nat) (s : State),
    (s.pwr.mode = .standby ∨ s.pwr.mode = .dormant) →
    (s.advance dt).wakeSources = 0 →
    ∃ t : State, exec (.wake dt) s = .next t ∧
      t = s.advance dt)

/-- The supply switch, warning episodes, sensor readings, watchdog kicks and PLL events set the status, counters and events of their rules. -/
def Obligations.SuppliesThermalAndClocks : Prop :=
  (∀ (dt : Nat) (s : State),
    s.pwr.mode ≠ .unpowered →
    s.gb Reg.PWR.STATUS.AON_SRC = false →
    ∃ t : State, exec (.aonSwitchToBackup dt) s = .next t ∧
      t.gb Reg.PWR.STATUS.AON_SRC = true ∧
      t.gb Reg.PWR.STATUS.BACKUP_SEEN = true ∧
      (s.coreOn = true → t.evStatus Ev.pwrBackup = true)) ∧
  (∀ (dt : Nat) (s : State),
    s.pwr.mode ≠ .unpowered →
    ∃ t : State, exec (.aonSwitchToMain dt) s = .next t ∧
      t.gb Reg.PWR.STATUS.AON_SRC = false ∧
      (∀ a, a ≠ 0x10020000 → t.reg a = s.reg a) ∧
      (∀ x, t.byte x = s.byte x)) ∧
  (∀ (dt : Nat) (r : Fin 10) (b : BitVec 10) (s : State),
    s.pwr.mode ≠ .unpowered →
    s.gb Reg.PWR.STATUS.WARN_ACTIVE = false →
    ∃ t : State, exec (.pwrWarn dt r b) s = .next t ∧
      t.gb Reg.PWR.STATUS.WARN_ACTIVE = true ∧
      t.g Reg.PWR.WARN_COUNTS.EPISODES = min 65535 (s.g Reg.PWR.WARN_COUNTS.EPISODES + 1) ∧
      t.g Reg.PWR.WARN_COUNTS.DIPS = min 65535 (s.g Reg.PWR.WARN_COUNTS.DIPS + 1) ∧
      t.g Reg.PWR.BELOW.BELOW = b.toNat ||| 2 ^ r.val ∧
      (s.coreOn = true → t.evStatus Ev.pwrWarn = true)) ∧
  (∀ (dt : Nat) (r : Fin 10) (b : BitVec 10) (s : State),
    s.pwr.mode ≠ .unpowered →
    s.gb Reg.PWR.STATUS.WARN_ACTIVE = true →
    ∃ t : State, exec (.pwrWarn dt r b) s = .next t ∧
      t.gb Reg.PWR.STATUS.WARN_ACTIVE = true ∧
      t.g Reg.PWR.WARN_COUNTS.EPISODES = s.g Reg.PWR.WARN_COUNTS.EPISODES ∧
      t.g Reg.PWR.WARN_COUNTS.DIPS = min 65535 (s.g Reg.PWR.WARN_COUNTS.DIPS + 1) ∧
      t.pwr.railAt = s.clock + dt ∧
      (∀ i < 128, t.evStatus i = s.evStatus i) ∧
      (∀ x, t.byte x = s.byte x)) ∧
  (∀ (dt : Nat) (s : State),
    s.pwr.mode ≠ .unpowered →
    s.gb Reg.PWR.STATUS.WARN_ACTIVE = true →
    s.pwr.railAt + 10000000 ≤ s.clock + dt →
    ∃ t : State, exec (.pwrRecover dt) s = .next t ∧
      t.gb Reg.PWR.STATUS.WARN_ACTIVE = false ∧
      t.g Reg.PWR.BELOW.BELOW = 0 ∧
      (s.coreOn = true → t.evStatus Ev.pwrRecover = true)) ∧
  (∀ (dt : Nat) (temps : List (BitVec 16)) (i : Fin 8) (s : State),
    temps.length = 8 →
    s.pwr.mode ≠ .unpowered →
    ∃ t : State, exec (.thermalReading dt temps) s = .next t ∧
      fieldGet (t.tempWord i.val) 0 16 = (temps.getD i.val 0).toNat ∧
      signed 16 (fieldGet (t.tempWord i.val) 16 16) = max (signed 16 (fieldGet (s.tempWord i.val) 16 16)) (temps.getD i.val 0).toInt ∧
      (t.gb Reg.PWR.THERM_STATUS.HOT = true ↔ ∃ x ∈ temps, 4 * (s.g Reg.PWR.THERM_CTRL.WARN_C : Int) < x.toInt) ∧
      (∀ x ∈ temps, x.toInt ≤ signed 16 (t.g Reg.PWR.THERM_STATUS.MAX_Q)) ∧
      (460 ≤ (temps.getD i.val 0).toInt → bitOf s.pwr.hotMask i.val = true → t.gb Reg.PWR.THERM_STATUS.TRIPPED = true) ∧
      (s.coreOn = true → s.pwr.thermDone = false → (∃ x ∈ temps, 4 * (s.g Reg.PWR.THERM_CTRL.WARN_C : Int) < x.toInt) → t.evStatus Ev.thermal = true)) ∧
  (∀ (dt : Nat) (m : Master) (s : State),
    s.coreOn = true →
    s.mayWrite m.val (0x10020084) = true →
    ∃ t : State, exec (.wdogKick dt m) s = .next t ∧
      t.gb Reg.PWR.WDOG_STATUS.WARNED = false ∧
      t.wdogCount = 0 ∧
      (∀ x, t.byte x = s.byte x)) ∧
  (∀ (dt : Nat) (k : Fin 16) (s : State),
    s.coreOn = true →
    k.val ≠ 7 →
    bitOf s.clkRunning k.val = true →
    ∃ t : State, exec (.pllLocked dt (k.castLE (by decide))) s = .next t ∧
      bitOf (if k.val < 8 then t.g Reg.CLK.LOCK.LOCK else t.g Reg.CLK.LOCK.VPLL_LOCK) (k.val % 8) = true ∧
      (∀ a, a ≠ 0x10010000 → t.reg a = s.reg a) ∧
      (∀ x, t.byte x = s.byte x)) ∧
  (∀ (dt : Nat) (q : Fin 20) (s : State),
    s.coreOn = true →
    s.quadRuns q.val = true →
    ∃ t : State, exec (.pllLocked dt (q.natAdd 32)) s = .next t ∧
      t.gb (Reg.QUAD.PLL_LOCK q.val) = true ∧
      (∀ x, t.byte x = s.byte x)) ∧
  (∀ (dt : Nat) (k : Fin 16) (s : State),
    s.coreOn = true →
    bitOf s.clkRunning k.val = true →
    ∃ t : State, exec (.pllFail dt k) s = .next t ∧
      bitOf (t.g Reg.CLK.FAIL) k.val = true ∧
      bitOf (if k.val < 8 then t.g Reg.CLK.LOCK.LOCK else t.g Reg.CLK.LOCK.VPLL_LOCK) (k.val % 8) = false ∧
      t.evStatus Ev.clkFail = true) ∧
  (∀ (dt x : Nat) (k : Fin 16) (s : State),
    s.coreOn = true →
    Tab.get none k.val s.clk.idleAt = some x →
    x + 1000000 ≤ s.clock + dt →
    s.pllWanted k.val = false →
    ∃ t : State, exec (.pllIdleStop dt k) s = .next t ∧
      bitOf (t.g Reg.CLK.RUNNING) k.val = false ∧
      bitOf (if k.val < 8 then t.g Reg.CLK.LOCK.LOCK else t.g Reg.CLK.LOCK.VPLL_LOCK) (k.val % 8) = false ∧
      Tab.get none k.val t.clk.idleAt = none ∧
      (∀ x, t.byte x = s.byte x))

/-- Status bits are cleared by writes of 1, enables leave the status, the log is started and written record by record, edges and software raise their events. -/
def Obligations.EventsRaiseClearAndLog : Prop :=
  (∀ (dt : Nat) (m : Master) (w : Fin 4) (v : Word) (s : State),
    s.coreOn = true →
    s.mayWrite m.val (0x10040080 + 4 * w.val) = true →
    w.val < 2 →
    ∃ t : State, exec (.eventStatusClear dt m (.status w v)) s = .next t ∧
      t.g (Reg.EVT.STATUS w.val) = ((s.advance dt).gpioSettle).g (Reg.EVT.STATUS w.val) &&& ((2 ^ 32 - 1 - v.toNat) ||| ((s.advance dt).gpioSettle).statusNow w.val) ∧
      (∀ a, (a < 0x10040000 ∨ 0x10060000 ≤ a) → (a < 0x100A0000 ∨ 0x100B0000 ≤ a) → t.reg a = s.reg a) ∧
      (∀ x, t.byte x = ((s.advance dt).gpioSettle).byte x)) ∧
  (∀ (dt : Nat) (m : Master) (w : Fin 4) (v : Word) (i : Fin 32) (s : State),
    s.coreOn = true →
    s.mayWrite m.val (0x10040080 + 4 * w.val) = true →
    2 ≤ w.val →
    bitOf v.toNat i.val = true →
    ∃ t : State, exec (.eventStatusClear dt m (.status w v)) s = .next t ∧
      t.g (Reg.EVT.HEAD_CAUSE.CAUSE (32 * (w.val - 2) + i.val)) = ((s.advance dt).gpioSettle).g (Reg.EVT.HEAD_CAUSE.CAUSE (32 * (w.val - 2) + i.val)) &&& (((s.advance dt).gpioSettle).raisedNow (32 * w.val + i.val) % 256) ∧
      (((s.advance dt).gpioSettle).raisedNow (32 * w.val + i.val) = 0 → t.evStatus (32 * w.val + i.val) = false) ∧
      (∀ a, (a < 0x10040000 ∨ 0x10060000 ≤ a) → (a < 0x100A0000 ∨ 0x100B0000 ≤ a) → t.reg a = s.reg a) ∧
      (∀ x, t.byte x = ((s.advance dt).gpioSettle).byte x)) ∧
  (∀ (dt : Nat) (m : Master) (n : Fin 64) (k : Byte) (s : State),
    s.coreOn = true →
    s.mayWrite m.val (0x10040400 + 4 * n.val) = true →
    ∃ t : State, exec (.eventStatusClear dt m (.cause n k)) s = .next t ∧
      t.g (Reg.EVT.HEAD_CAUSE.CAUSE n.val) = ((s.advance dt).gpioSettle).g (Reg.EVT.HEAD_CAUSE.CAUSE n.val) &&& ((255 - k.toNat) ||| (((s.advance dt).gpioSettle).raisedNow (64 + n.val) % 256)) ∧
      (∀ a, (a < 0x10040000 ∨ 0x10060000 ≤ a) → (a < 0x100A0000 ∨ 0x100B0000 ≤ a) → t.reg a = s.reg a) ∧
      (∀ x, t.byte x = ((s.advance dt).gpioSettle).byte x)) ∧
  (∀ (dt : Nat) (m : Master) (w : Fin 4) (v : Word) (s : State),
    s.coreOn = true →
    s.mayWrite m.val (0x10040090 + 4 * w.val) = true →
    ∃ t : State, exec (.eventEnableWrite dt m w v) s = .next t ∧
      t.g (Reg.EVT.ENABLE w.val) = v.toNat ∧
      (∀ i < 128, t.evStatus i = ((s.advance dt).gpioSettle).evStatus i) ∧
      (∀ a, (a < 0x10040000 ∨ 0x10060000 ≤ a) → (a < 0x100A0000 ∨ 0x100B0000 ≤ a) → t.reg a = s.reg a) ∧
      (∀ x, t.byte x = ((s.advance dt).gpioSettle).byte x)) ∧
  (∀ (dt : Nat) (m : Master) (b : Bool) (s : State),
    s.coreOn = true →
    s.mayWrite m.val (0x10040000) = true →
    ∃ t : State, exec (.eventLogEnable dt m b) s = .next t ∧
      t.gb Reg.EVT.LOG_EN = b ∧
      (b = true → t.g Reg.EVT.LOG_SEQ = 0) ∧
      (∀ a, (a < 0x10040000 ∨ 0x10060000 ≤ a) → (a < 0x100A0000 ∨ 0x100B0000 ≤ a) → t.reg a = s.reg a) ∧
      (∀ x, t.byte x = ((s.advance dt).gpioSettle).byte x)) ∧
  (∀ (dt : Nat) (m : Master) (v : Word) (s : State),
    s.coreOn = true →
    s.mayWrite m.val (0x10040020) = true →
    ∃ t : State, exec (.softwareEvent dt m v) s = .next t ∧
      t.evStatus Ev.sw = true ∧
      (s.gb Reg.EVT.LOG_EN = false → ∀ x, t.byte x = s.byte x) ∧
      (∀ a, (a < 0x10040000 ∨ 0x10060000 ≤ a) → (a < 0x100A0000 ∨ 0x100B0000 ≤ a) → t.reg a = s.reg a)) ∧
  (∀ (dt : Nat) (m : Master) (v : Word) (s : State),
    s.coreOn = true →
    s.mayWrite m.val (0x10040020) = true →
    bitOf (s.g (Reg.EVT.ENABLE 1)) 31 = true →
    s.gb (Reg.EVT.ROUTE.LOG 63) = true →
    s.gb Reg.EVT.LOG_EN = true →
    inShared (s.g Reg.EVT.LOG_BASE * 4096 + 32 * s.g Reg.EVT.LOG_WR) 32 = true →
    (s.g Reg.EVT.LOG_WR + 1) % 2 ^ s.g Reg.EVT.LOG_LOG2 ≠ s.g Reg.EVT.LOG_RD % 2 ^ s.g Reg.EVT.LOG_LOG2 →
    s.g Reg.EVT.LOG_LOG2 ≤ 14 →
    s.evt.at_ ≠ s.clock + dt →
    (∀ e ∈ s.evt.edges, s.clock + dt < e.1 + 1000) →
    ∃ t : State, exec (.softwareEvent dt m v) s = .next t ∧
      t.bytes (s.g Reg.EVT.LOG_BASE * 4096 + 32 * s.g Reg.EVT.LOG_WR) 32 = logRecord ⟨63, 0, v.toNat, (s.advance dt).wall, (s.advance dt).time.count⟩ s.timeState (s.g Reg.EVT.LOG_SEQ) s.evt.dropped ∧
      t.g Reg.EVT.LOG_WR = (s.g Reg.EVT.LOG_WR + 1) % 2 ^ s.g Reg.EVT.LOG_LOG2 ∧
      t.g Reg.EVT.LOG_SEQ = (s.g Reg.EVT.LOG_SEQ + 1) % 2 ^ 32 ∧
      (∀ x, (x < (s.g Reg.EVT.LOG_BASE * 4096 + 32 * s.g Reg.EVT.LOG_WR) ∨ (s.g Reg.EVT.LOG_BASE * 4096 + 32 * s.g Reg.EVT.LOG_WR) + 32 ≤ x) → t.byte x = s.byte x)) ∧
  (∀ (dt : Nat) (n : Fin 16) (b : Bool) (s : State),
    s.coreOn = true →
    ∃ t : State, exec (.gpioEdge dt n b) s = .next t ∧
      t.pins.gpio = (if b then s.pins.gpio ||| 2 ^ n.val else s.pins.gpio &&& (2 ^ 16 - 1 - 2 ^ n.val)) ∧
      (bitOf (if b then s.g Reg.EVT.GPIO.RISE else s.g Reg.EVT.GPIO.FALL) n.val = true → (s.clock + dt, n.val) ∈ t.evt.edges) ∧
      (∀ e ∈ t.evt.edges, e.2 = n.val → e.1 = s.clock + dt)) ∧
  (∀ (dt : Nat) (n : Fin 16) (b : Bool) (e : Nat × Nat) (s : State),
    s.coreOn = true →
    e ∈ s.evt.edges →
    e.1 + 1000 ≤ s.clock + dt →
    ∃ t : State, exec (.gpioEdge dt n b) s = .next t ∧
      t.pins.gpio = (if b then s.pins.gpio ||| 2 ^ n.val else s.pins.gpio &&& (2 ^ 16 - 1 - 2 ^ n.val)) ∧
      t.evStatus Ev.gpio = true ∧
      e ∉ t.evt.edges) ∧
  (∀ (dt x : Nat) (p : Fin 4) (s : State),
    Tab.get none p.val s.evt.pulseEnd = some x →
    x ≤ s.clock + dt →
    ∃ t : State, exec (.intPulseEnd dt p) s = .next t ∧
      Tab.get none p.val t.evt.pulseEnd = none ∧
      (s.gb (Reg.EVT.INT_CTRL.MODE p.val) = true → t.intAsserted p.val = false) ∧
      t.regs = s.regs ∧
      (∀ x, t.byte x = s.byte x))

/-- Commands of wall time, events, supplies and clocks change no register of another block and no memory but the event log. -/
def Obligations.TimeEventAndSupplyCommandsChangeNoOtherBlock : Prop :=
  (∀ (dt : Nat) (m : Master) (v : Word) (s : State),
    ∃ t : State, exec (.rateWrite dt m v) s = .next t ∧
      regsStay 0x10060000 0x10080000 s t ∧
      memStays s t) ∧
  (∀ (dt : Nat) (m : Master) (v : Word) (s : State),
    ∃ t : State, exec (.timeStep dt m v) s = .next t ∧
      regsStay 0x10060000 0x10080000 s t ∧
      memStays s t) ∧
  (∀ (dt : Nat) (m : Master) (s : State),
    ∃ t : State, exec (.timeKick dt m) s = .next t ∧
      regsStay 0x10060000 0x10080000 s t ∧
      memStays s t) ∧
  (∀ (dt : Nat) (s : State),
    ∃ t : State, exec (.kickTimeout dt) s = .next t ∧
      regsStay 0x10060000 0x10080000 s t ∧
      memStays s t) ∧
  (∀ (dt : Nat) (rising : Bool) (s : State),
    ∃ t : State, exec (.ppsInputEdge dt rising) s = .next t ∧
      regsStay 0x10060000 0x10080000 s t ∧
      memStays s t) ∧
  (∀ (dt : Nat) (s : State),
    ∃ t : State, exec (.ppsOutputEdge dt) s = .next t ∧
      regsStay 0x10060000 0x10080000 s t ∧
      memStays s t) ∧
  (∀ (dt : Nat) (m : Master) (p : Fin 16) (s : State),
    ∃ t : State, exec (.txqRead dt m p) s = .next t ∧
      regsStay 0x10060000 0x10080000 s t ∧
      memStays s t) ∧
  (∀ (dt : Nat) (m : Master) (s : State),
    ∃ t : State, exec (.stampQueueRead dt m) s = .next t ∧
      regsStay 0x10060000 0x10080000 s t ∧
      memStays s t) ∧
  (∀ (dt : Nat) (m : Master) (target : Fin 4) (s : State),
    ∃ t : State, exec (.timeStateRequest dt m target) s = .next t ∧
      regsStay 0x10060000 0x10080000 s t ∧
      memStays s t) ∧
  (∀ (dt : Nat) (s : State),
    ∃ t : State, exec (.holdoverLimit dt) s = .next t ∧
      regsStay 0x10060000 0x10080000 s t ∧
      memStays s t) ∧
  (∀ (dt : Nat) (m : Master) (c : EvtClear) (s : State),
    ∃ t : State, exec (.eventStatusClear dt m c) s = .next t ∧
      regsStay 0 0 s t ∧
      memStays s t) ∧
  (∀ (dt : Nat) (m : Master) (w : Fin 4) (v : Word) (s : State),
    ∃ t : State, exec (.eventEnableWrite dt m w v) s = .next t ∧
      regsStay 0 0 s t ∧
      memStays s t) ∧
  (∀ (dt : Nat) (m : Master) (on : Bool) (s : State),
    ∃ t : State, exec (.eventLogEnable dt m on) s = .next t ∧
      regsStay 0 0 s t ∧
      memStays s t) ∧
  (∀ (dt : Nat) (m : Master) (v : Word) (s : State),
    ∃ t : State, exec (.softwareEvent dt m v) s = .next t ∧
      regsStay 0 0 s t ∧
      memStays s t) ∧
  (∀ (dt : Nat) (p : Fin 4) (s : State),
    ∃ t : State, exec (.intPulseEnd dt p) s = .next t ∧
      regsStay 0 0 s t ∧
      memStays s t) ∧
  (∀ (dt : Nat) (s : State),
    ∃ t : State, exec (.aonSwitchToBackup dt) s = .next t ∧
      regsStay 0x10020000 0x10030000 s t ∧
      memStays s t) ∧
  (∀ (dt : Nat) (s : State),
    ∃ t : State, exec (.aonSwitchToMain dt) s = .next t ∧
      regsStay 0x10020000 0x10030000 s t ∧
      memStays s t) ∧
  (∀ (dt : Nat) (r : Fin 10) (below : BitVec 10) (s : State),
    ∃ t : State, exec (.pwrWarn dt r below) s = .next t ∧
      regsStay 0x10020000 0x10030000 s t ∧
      memStays s t) ∧
  (∀ (dt : Nat) (s : State),
    ∃ t : State, exec (.pwrRecover dt) s = .next t ∧
      regsStay 0x10020000 0x10030000 s t ∧
      memStays s t) ∧
  (∀ (dt : Nat) (temps : List (BitVec 16)) (s : State),
    ∃ t : State, exec (.thermalReading dt temps) s = .next t ∧
      regsStay 0x10020000 0x10030000 s t ∧
      memStays s t) ∧
  (∀ (dt : Nat) (m : Master) (s : State),
    ∃ t : State, exec (.wdogKick dt m) s = .next t ∧
      regsStay 0x10020000 0x10030000 s t ∧
      memStays s t) ∧
  (∀ (dt : Nat) (m : Master) (target : Fin 4) (s : State),
    ∃ t : State, exec (.lowPowerEntry dt m target) s = .next t ∧
      regsStay 0x10020000 0x10030000 s t ∧
      memStays s t) ∧
  (∀ (dt : Nat) (k : Fin 16) (s : State),
    ∃ t : State, exec (.pllFail dt k) s = .next t ∧
      regsStay 0x10010000 0x10020000 s t ∧
      memStays s t) ∧
  (∀ (dt : Nat) (k : Fin 16) (s : State),
    ∃ t : State, exec (.pllIdleStop dt k) s = .next t ∧
      regsStay 0x10010000 0x10020000 s t ∧
      memStays s t)

/-- Commands of the memory controllers, touch and custody change no register of another block and no memory but the event log. -/
def Obligations.DramTouchAndCustodyCommandsChangeNoOtherBlock : Prop :=
  (∀ (dt : Nat) (k : Fin 8) (s : State),
    ∃ t : State, exec (.driftWindow dt k) s = .next t ∧
      regsStay 0x10800000 0x10900000 s t ∧
      memStays s t) ∧
  (∀ (dt : Nat) (ch : Fin 16) (count : BitVec 16) (s : State),
    ∃ t : State, exec (.driftWindowEnd dt ch count) s = .next t ∧
      regsStay 0x10800000 0x10900000 s t ∧
      memStays s t) ∧
  (∀ (dt : Nat) (ch : Fin 16) (total : Word) (bank : Fin 16) (row : BitVec 16) (count : Nat) (s : State),
    ∃ t : State, exec (.ecsScan dt ch total bank row count) s = .next t ∧
      regsStay 0x10800000 0x10900000 s t ∧
      memStays s t) ∧
  (∀ (dt : Nat) (n : Fin 64) (entry : Nat) (s : State),
    ∃ t : State, exec (.calSlotOpen dt n entry) s = .next t ∧
      regsStay 0x10800000 0x10900000 s t ∧
      memStays s t) ∧
  (∀ (dt : Nat) (count : Option (BitVec 16)) (s : State),
    ∃ t : State, exec (.dramRetrainDone dt count) s = .next t ∧
      regsStay 0x10800000 0x10900000 s t ∧
      memStays s t) ∧
  (∀ (dt : Nat) (m : Master) (target : Fin 4) (s : State),
    ∃ t : State, exec (.fspRequest dt m target) s = .next t ∧
      regsStay 0x10800000 0x10900000 s t ∧
      memStays s t) ∧
  (∀ (dt : Nat) (s : State),
    ∃ t : State, exec (.fspChangeStart dt) s = .next t ∧
      regsStay 0x10800000 0x10900000 s t ∧
      memStays s t) ∧
  (∀ (dt : Nat) (s : State),
    ∃ t : State, exec (.fspChangeDone dt) s = .next t ∧
      regsStay 0x10800000 0x10900000 s t ∧
      memStays s t) ∧
  (∀ (dt : Nat) (m : Master) (ch : Fin 16) (entry : Fin 4) (s : State),
    ∃ t : State, exec (.pprCommand dt m ch entry) s = .next t ∧
      regsStay 0x10800000 0x10900000 s t ∧
      memStays s t) ∧
  (∀ (dt : Nat) (ch : Fin 16) (urgent : Bool) (s : State),
    ∃ t : State, exec (.refreshDue dt ch urgent) s = .next t ∧
      regsStay 0x10800000 0x10900000 s t ∧
      memStays s t) ∧
  (∀ (dt : Nat) (ch : Fin 16) (code : Fin 8) (s : State),
    ∃ t : State, exec (.refreshRateRead dt ch code) s = .next t ∧
      regsStay 0x10800000 0x10900000 s t ∧
      memStays s t) ∧
  (∀ (dt : Nat) (bytes : List Nat) (s : State),
    ∃ t : State, exec (.skewWindow dt bytes) s = .next t ∧
      regsStay 0x10800000 0x10900000 s t ∧
      memStays s t) ∧
  (∀ (dt : Nat) (ch : Fin 16) (s : State),
    ∃ t : State, exec (.trainPendingTimeout dt ch) s = .next t ∧
      regsStay 0x10800000 0x10900000 s t ∧
      memStays s t) ∧
  (∀ (dt : Nat) (k : Fin 8) (s : State),
    ∃ t : State, exec (.zqCalibrationStart dt k) s = .next t ∧
      regsStay 0x10800000 0x10900000 s t ∧
      memStays s t) ∧
  (∀ (dt : Nat) (ok : Bool) (s : State),
    ∃ t : State, exec (.pprDone dt ok) s = .next t ∧
      regsStay 0x10800000 0x10900000 s t) ∧
  (∀ (dt : Nat) (m : Master) (s : State),
    ∃ t : State, exec (.touchEnable dt m) s = .next t ∧
      regsStay 0x100D0000 0x100E0000 s t ∧
      memStays s t) ∧
  (∀ (dt : Nat) (m : Master) (s : State),
    ∃ t : State, exec (.touchDisable dt m) s = .next t ∧
      regsStay 0x100D0000 0x100E0000 s t ∧
      memStays s t) ∧
  (∀ (dt : Nat) (m : Master) (s : State),
    ∃ t : State, exec (.touchSelftest dt m) s = .next t ∧
      regsStay 0x100D0000 0x100E0000 s t ∧
      memStays s t) ∧
  (∀ (dt : Nat) (found : List LineProbe) (s : State),
    ∃ t : State, exec (.touchSelftestDone dt found) s = .next t ∧
      regsStay 0x100D0000 0x100E0000 s t ∧
      memStays s t) ∧
  (∀ (dt : Nat) (p : Fin 2) (s : State),
    ∃ t : State, exec (.touchFrameStart dt p) s = .next t ∧
      regsStay 0x100D0000 0x100E0000 s t ∧
      memStays s t) ∧
  (∀ (dt : Nat) (p : Fin 2) (s : State),
    ∃ t : State, exec (.touchObjectTimeout dt p) s = .next t ∧
      regsStay 0x100D0000 0x100E0000 s t ∧
      memStays s t) ∧
  (∀ (dt : Nat) (p : Fin 2) (s : State),
    ∃ t : State, exec (.baselineFormed dt p) s = .next t ∧
      regsStay 0x100D0000 0x100E0000 s t ∧
      memStays s t) ∧
  (∀ (dt : Nat) (p : Fin 2) (s : State),
    ∃ t : State, exec (.baselineDrift dt p) s = .next t ∧
      regsStay 0x100D0000 0x100E0000 s t ∧
      memStays s t) ∧
  (∀ (dt : Nat) (p : Fin 2) (s : State),
    ∃ t : State, exec (.antiTouchConfirm dt p) s = .next t ∧
      regsStay 0x100D0000 0x100E0000 s t ∧
      memStays s t) ∧
  (∀ (dt : Nat) (s : State),
    ∃ t : State, exec (.cusStatusFrame dt) s = .next t ∧
      regsStay 0x10070000 0x10080000 s t ∧
      memStays s t) ∧
  (∀ (dt : Nat) (m : Master) (ready : Bool) (s : State),
    ∃ t : State, exec (.roleRequest dt m ready) s = .next t ∧
      regsStay 0x10070000 0x10080000 s t ∧
      memStays s t) ∧
  (∀ (dt : Nat) (s : State),
    ∃ t : State, exec (.cusLinkTimeout dt) s = .next t ∧
      regsStay 0x10070000 0x10080000 s t ∧
      memStays s t) ∧
  (∀ (dt : Nat) (s : State),
    ∃ t : State, exec (.syncGraceExpire dt) s = .next t ∧
      regsStay 0x10070000 0x10080000 s t ∧
      memStays s t)

/-- Commands of lanes, display links and network links change no register of another block and no memory but the event log. -/
def Obligations.LaneAndLinkCommandsChangeNoOtherBlock : Prop :=
  (∀ (dt : Nat) (q : Fin 20) (l : Fin 4) (s : State),
    ∃ t : State, exec (.blockLockAcquired dt q l) s = .next t ∧
      regsStay 0x10500000 0x10800000 s t ∧
      memStays s t) ∧
  (∀ (dt : Nat) (q : Fin 20) (l : Fin 4) (s : State),
    ∃ t : State, exec (.blockLockLoss dt q l) s = .next t ∧
      regsStay 0x10500000 0x10800000 s t ∧
      memStays s t) ∧
  (∀ (dt : Nat) (q : Fin 20) (l : Fin 4) (s : State),
    ∃ t : State, exec (.laneAligned dt q l) s = .next t ∧
      regsStay 0x10500000 0x10800000 s t ∧
      memStays s t) ∧
  (∀ (dt : Nat) (q : Fin 20) (l : Fin 4) (s : State),
    ∃ t : State, exec (.laneAlignLoss dt q l) s = .next t ∧
      regsStay 0x10500000 0x10800000 s t ∧
      memStays s t) ∧
  (∀ (dt : Nat) (q : Fin 20) (mask : BitVec 4) (s : State),
    ∃ t : State, exec (.laneLos dt q mask) s = .next t ∧
      regsStay 0x10500000 0x10800000 s t ∧
      memStays s t) ∧
  (∀ (dt : Nat) (q : Fin 20) (mask : BitVec 4) (s : State),
    ∃ t : State, exec (.laneLol dt q mask) s = .next t ∧
      regsStay 0x10500000 0x10800000 s t ∧
      memStays s t) ∧
  (∀ (dt : Nat) (q : Fin 20) (l : Fin 4) (s : State),
    ∃ t : State, exec (.laneLolClear dt q l) s = .next t ∧
      regsStay 0x10500000 0x10800000 s t ∧
      memStays s t) ∧
  (∀ (dt : Nat) (q : Fin 20) (l : Fin 4) (s : State),
    ∃ t : State, exec (.laneLosClear dt q l) s = .next t ∧
      regsStay 0x10500000 0x10800000 s t ∧
      memStays s t) ∧
  (∀ (dt : Nat) (m : Master) (q : Fin 20) (l : Fin 4) (s : State),
    ∃ t : State, exec (.laneTestEnable dt m q l) s = .next t ∧
      regsStay 0x10500000 0x10800000 s t ∧
      memStays s t) ∧
  (∀ (dt : Nat) (m : Master) (q : Fin 20) (l : Fin 4) (path : Fin 4) (s : State),
    ∃ t : State, exec (.loopbackSelect dt m q l path) s = .next t ∧
      regsStay 0x10500000 0x10800000 s t ∧
      memStays s t) ∧
  (∀ (dt : Nat) (m : Master) (q : Fin 20) (l : Fin 4) (s : State),
    ∃ t : State, exec (.prbsClear dt m q l) s = .next t ∧
      regsStay 0x10500000 0x10800000 s t ∧
      memStays s t) ∧
  (∀ (dt : Nat) (q : Fin 20) (l : Fin 4) (s : State),
    ∃ t : State, exec (.prbsErrorDetected dt q l) s = .next t ∧
      regsStay 0x10500000 0x10800000 s t ∧
      memStays s t) ∧
  (∀ (dt : Nat) (m : Master) (q : Fin 20) (l : Fin 4) (s : State),
    ∃ t : State, exec (.prbsInject dt m q l) s = .next t ∧
      regsStay 0x10500000 0x10800000 s t ∧
      memStays s t) ∧
  (∀ (dt : Nat) (q : Fin 20) (l : Fin 4) (s : State),
    ∃ t : State, exec (.prbsLock dt q l) s = .next t ∧
      regsStay 0x10500000 0x10800000 s t ∧
      memStays s t) ∧
  (∀ (dt : Nat) (q : Fin 20) (l : Fin 4) (s : State),
    ∃ t : State, exec (.prbsLockLoss dt q l) s = .next t ∧
      regsStay 0x10500000 0x10800000 s t ∧
      memStays s t) ∧
  (∀ (dt : Nat) (m : Master) (q : Fin 20) (l : Fin 4) (s : State),
    ∃ t : State, exec (.adaptRestart dt m q l) s = .next t ∧
      regsStay 0x10500000 0x10800000 s t ∧
      memStays s t) ∧
  (∀ (dt : Nat) (q : Fin 20) (l : Fin 4) (s : State),
    ∃ t : State, exec (.adaptationConverged dt q l) s = .next t ∧
      regsStay 0x10500000 0x10800000 s t ∧
      memStays s t) ∧
  (∀ (dt : Nat) (q : Fin 20) (s : State),
    ∃ t : State, exec (.quadPllFail dt q) s = .next t ∧
      regsStay 0x10500000 0x10800000 s t ∧
      memStays s t) ∧
  (∀ (dt : Nat) (m : Master) (n : Fin 64) (v : Word) (s : State),
    ∃ t : State, exec (.auxTransaction dt m n v) s = .next t ∧
      regsStay 0x10500000 0x10800000 s t ∧
      memStays s t) ∧
  (∀ (dt : Nat) (n : Fin 64) (s : State),
    ∃ t : State, exec (.auxDeferRetry dt n) s = .next t ∧
      regsStay 0x10500000 0x10800000 s t ∧
      memStays s t) ∧
  (∀ (dt : Nat) (n : Fin 64) (s : State),
    ∃ t : State, exec (.auxReplyTimeout dt n) s = .next t ∧
      regsStay 0x10500000 0x10800000 s t ∧
      memStays s t) ∧
  (∀ (dt : Nat) (n : Fin 64) (s : State),
    ∃ t : State, exec (.dpHpdPlug dt n) s = .next t ∧
      regsStay 0x10500000 0x10800000 s t ∧
      memStays s t) ∧
  (∀ (dt : Nat) (n : Fin 64) (s : State),
    ∃ t : State, exec (.dpHpdUnplug dt n) s = .next t ∧
      regsStay 0x10500000 0x10800000 s t ∧
      memStays s t) ∧
  (∀ (dt : Nat) (n : Fin 64) (bs : List Byte) (s : State),
    ∃ t : State, exec (.dpIrqHpd dt n bs) s = .next t ∧
      regsStay 0x10500000 0x10800000 s t ∧
      memStays s t) ∧
  (∀ (dt : Nat) (n : Fin 64) (s : State),
    ∃ t : State, exec (.dpTrainingCycle dt n) s = .next t ∧
      regsStay 0x10500000 0x10800000 s t ∧
      memStays s t) ∧
  (∀ (dt : Nat) (n : Fin 64) (s : State),
    ∃ t : State, exec (.dpAutoRetrain dt n) s = .next t ∧
      regsStay 0x10500000 0x10800000 s t ∧
      memStays s t) ∧
  (∀ (dt : Nat) (m : Master) (n : Fin 64) (v : Word) (s : State),
    ∃ t : State, exec (.dptxEnable dt m n v) s = .next t ∧
      regsStay 0x10500000 0x10800000 s t ∧
      memStays s t) ∧
  (∀ (dt : Nat) (m : Master) (n : Fin 64) (s : State),
    ∃ t : State, exec (.dptxDisable dt m n) s = .next t ∧
      regsStay 0x10500000 0x10800000 s t ∧
      memStays s t) ∧
  (∀ (dt : Nat) (m : Master) (n : Fin 64) (s : State),
    ∃ t : State, exec (.dptxTrainRequest dt m n) s = .next t ∧
      regsStay 0x10500000 0x10800000 s t ∧
      memStays s t) ∧
  (∀ (dt : Nat) (m : Master) (q : Fin 16) (v : Word) (s : State),
    ∃ t : State, exec (.tzlEnable dt m q v) s = .next t ∧
      regsStay 0x10500000 0x10800000 s t ∧
      memStays s t) ∧
  (∀ (dt : Nat) (m : Master) (q : Fin 16) (s : State),
    ∃ t : State, exec (.tzlDisable dt m q) s = .next t ∧
      regsStay 0x10500000 0x10800000 s t ∧
      memStays s t) ∧
  (∀ (dt : Nat) (m : Master) (q : Fin 16) (s : State),
    ∃ t : State, exec (.tzlTrain dt m q) s = .next t ∧
      regsStay 0x10500000 0x10800000 s t ∧
      memStays s t) ∧
  (∀ (dt : Nat) (q : Fin 16) (s : State),
    ∃ t : State, exec (.tzlTrainingRetry dt q) s = .next t ∧
      regsStay 0x10500000 0x10800000 s t ∧
      memStays s t) ∧
  (∀ (dt : Nat) (q : Fin 16) (s : State),
    ∃ t : State, exec (.tzlTrainingTimeout dt q) s = .next t ∧
      regsStay 0x10500000 0x10800000 s t ∧
      memStays s t) ∧
  (∀ (dt : Nat) (q : Fin 16) (lane : Fin 8) (cut : Bool) (s : State),
    ∃ t : State, exec (.tzlSprReceive dt q lane cut) s = .next t ∧
      regsStay 0x10500000 0x10800000 s t ∧
      memStays s t) ∧
  (∀ (dt : Nat) (q : Fin 16) (bs : List Byte) (s : State),
    ∃ t : State, exec (.tzlLoopTrailer dt q bs) s = .next t ∧
      regsStay 0x10500000 0x10800000 s t ∧
      memStays s t) ∧
  (∀ (dt : Nat) (q : Fin 16) (s : State),
    ∃ t : State, exec (.tzlLoopSeenExpire dt q) s = .next t ∧
      regsStay 0x10500000 0x10800000 s t ∧
      memStays s t) ∧
  (∀ (dt : Nat) (q : Fin 16) (y : Nat) (s : State),
    ∃ t : State, exec (.tzlLinePacket dt q y) s = .next t ∧
      regsStay 0x10500000 0x10800000 s t ∧
      memStays s t) ∧
  (∀ (dt : Nat) (m : Master) (q : Fin 16) (s : State),
    ∃ t : State, exec (.ctrlSend dt m q) s = .next t ∧
      regsStay 0x10500000 0x10800000 s t ∧
      memStays s t) ∧
  (∀ (dt : Nat) (p : Fin 16) (up hiBer : Bool) (s : State),
    ∃ t : State, exec (.netLinkChange dt p up hiBer) s = .next t ∧
      regsStay 0x10500000 0x10800000 s t ∧
      memStays s t) ∧
  (∀ (dt : Nat) (data : BitVec 16) (s : State),
    ∃ t : State, exec (.mdioDone dt data) s = .next t ∧
      regsStay 0x10500000 0x10800000 s t ∧
      memStays s t) ∧
  (∀ (dt : Nat) (m : Master) (v : Word) (s : State),
    ∃ t : State, exec (.mdioTransaction dt m v) s = .next t ∧
      regsStay 0x10500000 0x10800000 s t ∧
      memStays s t) ∧
  (∀ (dt : Nat) (m : Master) (q : Fin 4) (mode : Fin 4) (s : State),
    ∃ t : State, exec (.netModeWrite dt m q mode) s = .next t ∧
      regsStay 0x10500000 0x10800000 s t ∧
      memStays s t)
end

