-- ==== Sys2Proof/Laws/Table.lean ====
section
/-! SUPPORT. Sparse tables: what a put entry reads as, what it leaves alone, and that every table operation keeps the
canonical form. -/

namespace Sys2Proof.Machine

variable {α : Type}

theorem Tab.get_ins_same (d : α) (k : Nat) (v : α) (t : Tab α) : Tab.get d k (Tab.ins k v t) = v := by
  induction t with
  | nil => simp [Tab.ins, Tab.get]
  | cons e t ih =>
    obtain ⟨k', v'⟩ := e
    unfold Tab.ins
    split
    · simp [Tab.get]
    · split
      · simp [Tab.get]
      · next h _ => simp [Tab.get, h, ih]

theorem Tab.get_ins_ne (d : α) {k j : Nat} (h : j ≠ k) (v : α) (t : Tab α) :
    Tab.get d j (Tab.ins k v t) = Tab.get d j t := by
  induction t with
  | nil => simp [Tab.ins, Tab.get, Ne.symm h]
  | cons e t ih =>
    obtain ⟨k', v'⟩ := e
    unfold Tab.ins
    split
    · next hk => subst hk; simp [Tab.get, Ne.symm h]
    · split
      · simp [Tab.get, Ne.symm h]
      · simp [Tab.get, ih]

theorem Tab.get_del_same (d : α) (k : Nat) (t : Tab α) : Tab.get d k (Tab.del k t) = d := by
  induction t with
  | nil => rfl
  | cons e t ih =>
    obtain ⟨k', v'⟩ := e
    by_cases hk : k' = k
    · simpa [Tab.del, hk] using ih
    · simpa [Tab.del, hk, Tab.get] using ih

theorem Tab.get_del_ne (d : α) {k j : Nat} (h : j ≠ k) (t : Tab α) : Tab.get d j (Tab.del k t) = Tab.get d j t := by
  induction t with
  | nil => rfl
  | cons e t ih =>
    obtain ⟨k', v'⟩ := e
    by_cases hk : k' = k
    · subst hk; simpa [Tab.del, Tab.get, Ne.symm h] using ih
    · by_cases hj : k' = j
      · subst hj; simp [Tab.del, hk, Tab.get]
      · simpa [Tab.del, hk, Tab.get, hj] using ih

/-- A put entry reads as the value put. -/
@[simp] theorem Tab.get_put_same [DecidableEq α] (d : α) (k : Nat) (v : α) (t : Tab α) : Tab.get d k (Tab.put d k v t) = v := by
  unfold Tab.put
  split
  · next h => rw [Tab.get_del_same, h]
  · exact Tab.get_ins_same d k v t

/-- Every other entry reads as before. -/
theorem Tab.get_put_ne [DecidableEq α] (d d' : α) {k j : Nat} (h : j ≠ k) (v : α) (t : Tab α) :
    Tab.get d' j (Tab.put d k v t) = Tab.get d' j t := by
  unfold Tab.put
  split
  · exact Tab.get_del_ne d' h t
  · exact Tab.get_ins_ne d' h v t

/-- Every key of a rising table but the first is greater than it. -/
theorem Tab.rising_cons {k : Nat} {v : α} {t : Tab α} :
    Tab.rising ((k, v) :: t) = true ↔ (∀ e ∈ t, k < e.1) ∧ Tab.rising t = true := by
  induction t generalizing k v with
  | nil => simp [Tab.rising]
  | cons e t ih =>
    obtain ⟨k', v'⟩ := e
    simp only [Tab.rising, Bool.and_eq_true, decide_eq_true_eq, List.mem_cons, forall_eq_or_imp]
    constructor
    · rintro ⟨h, ht⟩
      exact ⟨⟨h, fun e he => lt_trans h ((ih.1 ht).1 e he)⟩, ht⟩
    · rintro ⟨⟨h, _⟩, ht⟩
      exact ⟨h, ht⟩

theorem Tab.rising_filter (p : Nat × α → Bool) {t : Tab α} (h : Tab.rising t = true) : Tab.rising (t.filter p) = true := by
  induction t with
  | nil => rfl
  | cons e t ih =>
    obtain ⟨k, v⟩ := e
    obtain ⟨h1, h2⟩ := Tab.rising_cons.1 h
    by_cases hp : p (k, v) = true
    · rw [List.filter_cons_of_pos hp]
      exact Tab.rising_cons.2 ⟨fun e he => h1 e (List.mem_of_mem_filter he), ih h2⟩
    · rw [List.filter_cons_of_neg hp]
      exact ih h2

theorem Tab.rising_map (f : Nat → α → α) {t : Tab α} (h : Tab.rising t = true) :
    Tab.rising (t.map (fun e => (e.1, f e.1 e.2))) = true := by
  induction t with
  | nil => rfl
  | cons e t ih =>
    obtain ⟨k, v⟩ := e
    obtain ⟨h1, h2⟩ := Tab.rising_cons.1 h
    rw [List.map_cons]
    refine Tab.rising_cons.2 ⟨?_, ih h2⟩
    intro e he
    obtain ⟨e', he', rfl⟩ := List.mem_map.1 he
    exact h1 e' he'

theorem Tab.mem_ins {k : Nat} {v : α} {t : Tab α} {e : Nat × α} (h : e ∈ Tab.ins k v t) : e = (k, v) ∨ e ∈ t := by
  induction t with
  | nil => simpa [Tab.ins] using h
  | cons e' t ih =>
    obtain ⟨k', v'⟩ := e'
    unfold Tab.ins at h
    split at h
    · rcases List.mem_cons.1 h with h | h
      · exact .inl h
      · exact .inr (List.mem_cons_of_mem _ h)
    · split at h
      · rcases List.mem_cons.1 h with h | h
        · exact .inl h
        · exact .inr h
      · rcases List.mem_cons.1 h with h | h
        · exact .inr (h ▸ List.mem_cons_self)
        · rcases ih h with h | h
          · exact .inl h
          · exact .inr (List.mem_cons_of_mem _ h)

theorem Tab.rising_ins (k : Nat) (v : α) {t : Tab α} (h : Tab.rising t = true) : Tab.rising (Tab.ins k v t) = true := by
  induction t with
  | nil => rfl
  | cons e t ih =>
    obtain ⟨k', v'⟩ := e
    obtain ⟨h1, h2⟩ := Tab.rising_cons.1 h
    unfold Tab.ins
    split
    · next hk => exact Tab.rising_cons.2 ⟨hk ▸ h1, h2⟩
    · split
      · next hk => exact Tab.rising_cons.2 ⟨by simpa using ⟨hk, fun a b hab => lt_trans hk (h1 (a, b) hab)⟩, h⟩
      · next hk hlt =>
        refine Tab.rising_cons.2 ⟨fun e he => ?_, ih h2⟩
        rcases Tab.mem_ins he with rfl | he
        · exact lt_of_le_of_ne (not_lt.1 hlt) hk
        · exact h1 e he

theorem Tab.wf_iff [DecidableEq α] {d : Nat → α} {t : Tab α} : Tab.wf d t = true ↔ Tab.rising t = true ∧ ∀ e ∈ t, e.2 ≠ d e.1 := by
  simp [Tab.wf, List.all_eq_true]

/-- Putting an entry keeps the canonical form. -/
theorem Tab.wf_put [DecidableEq α] {d : Nat → α} (k : Nat) (v : α) {t : Tab α} (h : Tab.wf d t = true) :
    Tab.wf d (Tab.put (d k) k v t) = true := by
  obtain ⟨h1, h2⟩ := Tab.wf_iff.1 h
  unfold Tab.put
  split
  · exact Tab.wf_iff.2 ⟨Tab.rising_filter _ h1, fun e he => h2 e (List.mem_of_mem_filter he)⟩
  · next hv =>
    refine Tab.wf_iff.2 ⟨Tab.rising_ins k v h1, fun e he => ?_⟩
    rcases Tab.mem_ins he with rfl | he
    · exact hv
    · exact h2 e he

/-- Remapping a table keeps the canonical form. -/
theorem Tab.wf_remap [DecidableEq α] {d : Nat → α} (f : Nat → α → α) {t : Tab α} (h : Tab.wf d t = true) :
    Tab.wf d (Tab.remap d f t) = true := by
  obtain ⟨h1, _⟩ := Tab.wf_iff.1 h
  exact Tab.wf_iff.2 ⟨Tab.rising_filter _ (Tab.rising_map f h1), fun e he => by simpa using (List.mem_filter.1 he).2⟩

@[simp] theorem Tab.wf_nil [DecidableEq α] (d : Nat → α) : Tab.wf d ([] : Tab α) = true := rfl

end Sys2Proof.Machine
end

