-- ==== Sys2Proof/Laws/Regs.lean ====
section
/-! SUPPORT. Registers and their fields: what a field reads as after a write of it, of another field of its register, of
another register. -/

namespace Sys2Proof.Machine

theorem fieldGet_testBit (w : Word) (lo width i : Nat) :
    (fieldGet w lo width).testBit i = (decide (i < width) && w.toNat.testBit (lo + i)) := by
  simp [fieldGet, Nat.testBit_mod_two_pow, Nat.testBit_shiftRight]

theorem fieldSet_testBit (w : Word) (lo width v j : Nat) :
    (fieldSet w lo width v).toNat.testBit j =
      if lo ≤ j ∧ j < lo + width then (decide (j < 32) && v.testBit (j - lo)) else w.toNat.testBit j := by
  have hw : 32 ≤ j → w.toNat.testBit j = false := fun h =>
    Nat.testBit_lt_two_pow (lt_of_lt_of_le w.isLt (Nat.pow_le_pow_right (by decide) h))
  simp only [fieldSet, BitVec.toNat_or, BitVec.toNat_and, BitVec.toNat_not, BitVec.toNat_ofNat, Nat.testBit_or,
    Nat.testBit_and, Nat.testBit_mod_two_pow, Nat.testBit_shiftLeft]
  have hn : ∀ x : Nat, x < 2 ^ 32 → (2 ^ 32 - 1 - x).testBit j = (decide (j < 32) && !x.testBit j) := by
    intro x hx
    have := Nat.testBit_two_pow_sub_succ hx j
    rw [← this]; congr 1; omega
  rw [hn _ (Nat.mod_lt _ (by decide)), Nat.testBit_mod_two_pow, Nat.testBit_shiftLeft, Nat.testBit_two_pow_sub_one]
  by_cases h32 : j < 32
  · by_cases h1 : lo ≤ j
    · by_cases h2 : j < lo + width
      · have : j - lo < width := by omega
        simp [h32, h1, h2, this]
      · have : ¬ j - lo < width := by omega
        simp [h32, h1, h2, this]
    · simp [h32, h1]
  · simp [h32, hw (by omega)]

/-- A field written reads as the low bits of the value. -/
@[simp] theorem fieldGet_fieldSet_same (w : Word) {lo width : Nat} (v : Nat) (h : lo + width ≤ 32) :
    fieldGet (fieldSet w lo width v) lo width = v % 2 ^ width := by
  apply Nat.eq_of_testBit_eq
  intro i
  rw [fieldGet_testBit, fieldSet_testBit, Nat.testBit_mod_two_pow]
  by_cases hi : i < width
  · have h1 : lo ≤ lo + i ∧ lo + i < lo + width := by omega
    have h2 : lo + i < 32 := by omega
    rw [if_pos h1]; simp [hi, h2]
  · simp [hi]

/-- A field reads as before a write of another field of its register. -/
theorem fieldGet_fieldSet_ne (w : Word) {lo width lo' width' : Nat} (v : Nat) (h : lo + width ≤ lo' ∨ lo' + width' ≤ lo) :
    fieldGet (fieldSet w lo width v) lo' width' = fieldGet w lo' width' := by
  apply Nat.eq_of_testBit_eq
  intro i
  rw [fieldGet_testBit, fieldGet_testBit, fieldSet_testBit]
  by_cases hi : i < width'
  · rw [if_neg (by omega)]
  · simp [hi]

theorem fieldGet_lt (w : Word) (lo width : Nat) : fieldGet w lo width < 2 ^ width := Nat.mod_lt _ (by positivity)

/-- A register written reads as the word written. -/
@[simp] theorem State.reg_setReg_same (s : State) (a : Nat) (w : Word) : (s.setReg a w).reg a = w := by
  simp [State.reg, State.setReg]

/-- Every other register reads as before. -/
theorem State.reg_setReg_ne (s : State) {a b : Nat} (h : b ≠ a) (w : Word) : (s.setReg a w).reg b = s.reg b := by
  simp [State.reg, State.setReg, Tab.get_put_ne _ _ h]

/-- A field written reads as the low bits of the value. -/
@[simp] theorem State.g_p_same (s : State) (f : FRef) (v : Nat) (h : f.lo + f.width ≤ 32) :
    (s.p f v).g f = v % 2 ^ f.width := by
  simp [State.g, State.p, fieldGet_fieldSet_same _ _ h]

/-- Two fields that share no bit of a register. -/
def FRef.apart (f f' : FRef) : Prop := f.addr ≠ f'.addr ∨ f.lo + f.width ≤ f'.lo ∨ f'.lo + f'.width ≤ f.lo

/-- A field reads as before a write of a field apart from it. -/
theorem State.g_p_apart (s : State) {f f' : FRef} (v : Nat) (h : f.apart f') : (s.p f v).g f' = s.g f' := by
  unfold State.g State.p
  by_cases ha : f.addr = f'.addr
  · rw [← ha, State.reg_setReg_same]
    rcases h with h | h
    · exact absurd ha h
    · exact fieldGet_fieldSet_ne _ _ h
  · rw [State.reg_setReg_ne _ (Ne.symm ha)]

/-- A register reads as before a write of a field of another one. -/
theorem State.reg_p_ne (s : State) {f : FRef} {a : Nat} (v : Nat) (h : a ≠ f.addr) : (s.p f v).reg a = s.reg a :=
  State.reg_setReg_ne s h _

theorem State.g_lt (s : State) (f : FRef) : s.g f < 2 ^ f.width := fieldGet_lt _ _ _

/-- Registers alone decide what a field reads as. -/
theorem State.g_congr {s t : State} (h : s.regs = t.regs) (f : FRef) : s.g f = t.g f := by
  simp [State.g, State.reg, h]

theorem State.reg_congr {s t : State} (h : s.regs = t.regs) (a : Nat) : s.reg a = t.reg a := by simp [State.reg, h]

end Sys2Proof.Machine
end

