-- ==== Sys2Proof/Laws/State.lean ====
section
/-! SUPPORT. State: what each plain update leaves alone, field by field; and what time's passing does. -/

namespace Sys2Proof.Machine

/-! ### Registers -/

@[simp] theorem State.setReg_clock (s : State) (a : Nat) (w : Word) : (s.setReg a w).clock = s.clock := rfl
@[simp] theorem State.setReg_pwr (s : State) (a : Nat) (w : Word) : (s.setReg a w).pwr = s.pwr := rfl
@[simp] theorem State.setReg_clk (s : State) (a : Nat) (w : Word) : (s.setReg a w).clk = s.clk := rfl
@[simp] theorem State.setReg_mem (s : State) (a : Nat) (w : Word) : (s.setReg a w).mem = s.mem := rfl
@[simp] theorem State.setReg_eccBad (s : State) (a : Nat) (w : Word) : (s.setReg a w).eccBad = s.eccBad := rfl
@[simp] theorem State.setReg_bus (s : State) (a : Nat) (w : Word) : (s.setReg a w).bus = s.bus := rfl
@[simp] theorem State.setReg_time (s : State) (a : Nat) (w : Word) : (s.setReg a w).time = s.time := rfl
@[simp] theorem State.setReg_evt (s : State) (a : Nat) (w : Word) : (s.setReg a w).evt = s.evt := rfl
@[simp] theorem State.setReg_eng (s : State) (a : Nat) (w : Word) : (s.setReg a w).eng = s.eng := rfl
@[simp] theorem State.setReg_engMem (s : State) (a : Nat) (w : Word) : (s.setReg a w).engMem = s.engMem := rfl
@[simp] theorem State.setReg_pins (s : State) (a : Nat) (w : Word) : (s.setReg a w).pins = s.pins := rfl
@[simp] theorem State.setReg_flash (s : State) (a : Nat) (w : Word) : (s.setReg a w).flash = s.flash := rfl
@[simp] theorem State.setReg_img (s : State) (a : Nat) (w : Word) : (s.setReg a w).img = s.img := rfl
@[simp] theorem State.setReg_seq (s : State) (a : Nat) (w : Word) : (s.setReg a w).seq = s.seq := rfl
@[simp] theorem State.setReg_heads (s : State) (a : Nat) (w : Word) : (s.setReg a w).heads = s.heads := rfl
@[simp] theorem State.setReg_bufs (s : State) (a : Nat) (w : Word) : (s.setReg a w).bufs = s.bufs := rfl
@[simp] theorem State.setReg_srcs (s : State) (a : Nat) (w : Word) : (s.setReg a w).srcs = s.srcs := rfl
@[simp] theorem State.setReg_rel (s : State) (a : Nat) (w : Word) : (s.setReg a w).rel = s.rel := rfl
@[simp] theorem State.setReg_lanes (s : State) (a : Nat) (w : Word) : (s.setReg a w).lanes = s.lanes := rfl
@[simp] theorem State.setReg_dp (s : State) (a : Nat) (w : Word) : (s.setReg a w).dp = s.dp := rfl
@[simp] theorem State.setReg_tzl (s : State) (a : Nat) (w : Word) : (s.setReg a w).tzl = s.tzl := rfl
@[simp] theorem State.setReg_net (s : State) (a : Nat) (w : Word) : (s.setReg a w).net = s.net := rfl
@[simp] theorem State.setReg_dec (s : State) (a : Nat) (w : Word) : (s.setReg a w).dec = s.dec := rfl
@[simp] theorem State.setReg_cap (s : State) (a : Nat) (w : Word) : (s.setReg a w).cap = s.cap := rfl
@[simp] theorem State.setReg_enc (s : State) (a : Nat) (w : Word) : (s.setReg a w).enc = s.enc := rfl
@[simp] theorem State.setReg_tch (s : State) (a : Nat) (w : Word) : (s.setReg a w).tch = s.tch := rfl
@[simp] theorem State.setReg_cus (s : State) (a : Nat) (w : Word) : (s.setReg a w).cus = s.cus := rfl
@[simp] theorem State.setReg_dmc (s : State) (a : Nat) (w : Word) : (s.setReg a w).dmc = s.dmc := rfl
@[simp] theorem State.setReg_boot (s : State) (a : Nat) (w : Word) : (s.setReg a w).boot = s.boot := rfl
@[simp] theorem State.setReg_host (s : State) (a : Nat) (w : Word) : (s.setReg a w).host = s.host := rfl
@[simp] theorem State.setReg_free (s : State) (a : Nat) (w : Word) : (s.setReg a w).free = s.free := rfl
@[simp] theorem State.setReg_pending (s : State) (a : Nat) (w : Word) : (s.setReg a w).pending = s.pending := rfl

@[simp] theorem State.p_clock (s : State) (f : FRef) (v : Nat) : (s.p f v).clock = s.clock := rfl
@[simp] theorem State.p_pwr (s : State) (f : FRef) (v : Nat) : (s.p f v).pwr = s.pwr := rfl
@[simp] theorem State.p_clk (s : State) (f : FRef) (v : Nat) : (s.p f v).clk = s.clk := rfl
@[simp] theorem State.p_mem (s : State) (f : FRef) (v : Nat) : (s.p f v).mem = s.mem := rfl
@[simp] theorem State.p_eccBad (s : State) (f : FRef) (v : Nat) : (s.p f v).eccBad = s.eccBad := rfl
@[simp] theorem State.p_bus (s : State) (f : FRef) (v : Nat) : (s.p f v).bus = s.bus := rfl
@[simp] theorem State.p_time (s : State) (f : FRef) (v : Nat) : (s.p f v).time = s.time := rfl
@[simp] theorem State.p_evt (s : State) (f : FRef) (v : Nat) : (s.p f v).evt = s.evt := rfl
@[simp] theorem State.p_eng (s : State) (f : FRef) (v : Nat) : (s.p f v).eng = s.eng := rfl
@[simp] theorem State.p_engMem (s : State) (f : FRef) (v : Nat) : (s.p f v).engMem = s.engMem := rfl
@[simp] theorem State.p_pins (s : State) (f : FRef) (v : Nat) : (s.p f v).pins = s.pins := rfl
@[simp] theorem State.p_flash (s : State) (f : FRef) (v : Nat) : (s.p f v).flash = s.flash := rfl
@[simp] theorem State.p_img (s : State) (f : FRef) (v : Nat) : (s.p f v).img = s.img := rfl
@[simp] theorem State.p_seq (s : State) (f : FRef) (v : Nat) : (s.p f v).seq = s.seq := rfl
@[simp] theorem State.p_heads (s : State) (f : FRef) (v : Nat) : (s.p f v).heads = s.heads := rfl
@[simp] theorem State.p_bufs (s : State) (f : FRef) (v : Nat) : (s.p f v).bufs = s.bufs := rfl
@[simp] theorem State.p_srcs (s : State) (f : FRef) (v : Nat) : (s.p f v).srcs = s.srcs := rfl
@[simp] theorem State.p_rel (s : State) (f : FRef) (v : Nat) : (s.p f v).rel = s.rel := rfl
@[simp] theorem State.p_lanes (s : State) (f : FRef) (v : Nat) : (s.p f v).lanes = s.lanes := rfl
@[simp] theorem State.p_dp (s : State) (f : FRef) (v : Nat) : (s.p f v).dp = s.dp := rfl
@[simp] theorem State.p_tzl (s : State) (f : FRef) (v : Nat) : (s.p f v).tzl = s.tzl := rfl
@[simp] theorem State.p_net (s : State) (f : FRef) (v : Nat) : (s.p f v).net = s.net := rfl
@[simp] theorem State.p_dec (s : State) (f : FRef) (v : Nat) : (s.p f v).dec = s.dec := rfl
@[simp] theorem State.p_cap (s : State) (f : FRef) (v : Nat) : (s.p f v).cap = s.cap := rfl
@[simp] theorem State.p_enc (s : State) (f : FRef) (v : Nat) : (s.p f v).enc = s.enc := rfl
@[simp] theorem State.p_tch (s : State) (f : FRef) (v : Nat) : (s.p f v).tch = s.tch := rfl
@[simp] theorem State.p_cus (s : State) (f : FRef) (v : Nat) : (s.p f v).cus = s.cus := rfl
@[simp] theorem State.p_dmc (s : State) (f : FRef) (v : Nat) : (s.p f v).dmc = s.dmc := rfl
@[simp] theorem State.p_boot (s : State) (f : FRef) (v : Nat) : (s.p f v).boot = s.boot := rfl
@[simp] theorem State.p_host (s : State) (f : FRef) (v : Nat) : (s.p f v).host = s.host := rfl
@[simp] theorem State.p_free (s : State) (f : FRef) (v : Nat) : (s.p f v).free = s.free := rfl
@[simp] theorem State.p_pending (s : State) (f : FRef) (v : Nat) : (s.p f v).pending = s.pending := rfl

@[simp] theorem State.pb_clock (s : State) (f : FRef) (b : Bool) : (s.pb f b).clock = s.clock := rfl
@[simp] theorem State.pb_pwr (s : State) (f : FRef) (b : Bool) : (s.pb f b).pwr = s.pwr := rfl
@[simp] theorem State.pb_clk (s : State) (f : FRef) (b : Bool) : (s.pb f b).clk = s.clk := rfl
@[simp] theorem State.pb_mem (s : State) (f : FRef) (b : Bool) : (s.pb f b).mem = s.mem := rfl
@[simp] theorem State.pb_eccBad (s : State) (f : FRef) (b : Bool) : (s.pb f b).eccBad = s.eccBad := rfl
@[simp] theorem State.pb_bus (s : State) (f : FRef) (b : Bool) : (s.pb f b).bus = s.bus := rfl
@[simp] theorem State.pb_time (s : State) (f : FRef) (b : Bool) : (s.pb f b).time = s.time := rfl
@[simp] theorem State.pb_evt (s : State) (f : FRef) (b : Bool) : (s.pb f b).evt = s.evt := rfl
@[simp] theorem State.pb_eng (s : State) (f : FRef) (b : Bool) : (s.pb f b).eng = s.eng := rfl
@[simp] theorem State.pb_engMem (s : State) (f : FRef) (b : Bool) : (s.pb f b).engMem = s.engMem := rfl
@[simp] theorem State.pb_pins (s : State) (f : FRef) (b : Bool) : (s.pb f b).pins = s.pins := rfl
@[simp] theorem State.pb_flash (s : State) (f : FRef) (b : Bool) : (s.pb f b).flash = s.flash := rfl
@[simp] theorem State.pb_img (s : State) (f : FRef) (b : Bool) : (s.pb f b).img = s.img := rfl
@[simp] theorem State.pb_seq (s : State) (f : FRef) (b : Bool) : (s.pb f b).seq = s.seq := rfl
@[simp] theorem State.pb_heads (s : State) (f : FRef) (b : Bool) : (s.pb f b).heads = s.heads := rfl
@[simp] theorem State.pb_bufs (s : State) (f : FRef) (b : Bool) : (s.pb f b).bufs = s.bufs := rfl
@[simp] theorem State.pb_srcs (s : State) (f : FRef) (b : Bool) : (s.pb f b).srcs = s.srcs := rfl
@[simp] theorem State.pb_rel (s : State) (f : FRef) (b : Bool) : (s.pb f b).rel = s.rel := rfl
@[simp] theorem State.pb_lanes (s : State) (f : FRef) (b : Bool) : (s.pb f b).lanes = s.lanes := rfl
@[simp] theorem State.pb_dp (s : State) (f : FRef) (b : Bool) : (s.pb f b).dp = s.dp := rfl
@[simp] theorem State.pb_tzl (s : State) (f : FRef) (b : Bool) : (s.pb f b).tzl = s.tzl := rfl
@[simp] theorem State.pb_net (s : State) (f : FRef) (b : Bool) : (s.pb f b).net = s.net := rfl
@[simp] theorem State.pb_dec (s : State) (f : FRef) (b : Bool) : (s.pb f b).dec = s.dec := rfl
@[simp] theorem State.pb_cap (s : State) (f : FRef) (b : Bool) : (s.pb f b).cap = s.cap := rfl
@[simp] theorem State.pb_enc (s : State) (f : FRef) (b : Bool) : (s.pb f b).enc = s.enc := rfl
@[simp] theorem State.pb_tch (s : State) (f : FRef) (b : Bool) : (s.pb f b).tch = s.tch := rfl
@[simp] theorem State.pb_cus (s : State) (f : FRef) (b : Bool) : (s.pb f b).cus = s.cus := rfl
@[simp] theorem State.pb_dmc (s : State) (f : FRef) (b : Bool) : (s.pb f b).dmc = s.dmc := rfl
@[simp] theorem State.pb_boot (s : State) (f : FRef) (b : Bool) : (s.pb f b).boot = s.boot := rfl
@[simp] theorem State.pb_host (s : State) (f : FRef) (b : Bool) : (s.pb f b).host = s.host := rfl
@[simp] theorem State.pb_free (s : State) (f : FRef) (b : Bool) : (s.pb f b).free = s.free := rfl
@[simp] theorem State.pb_pending (s : State) (f : FRef) (b : Bool) : (s.pb f b).pending = s.pending := rfl

@[simp] theorem State.inc_clock (s : State) (f : FRef) : (s.inc f).clock = s.clock := rfl
@[simp] theorem State.inc_pwr (s : State) (f : FRef) : (s.inc f).pwr = s.pwr := rfl
@[simp] theorem State.inc_clk (s : State) (f : FRef) : (s.inc f).clk = s.clk := rfl
@[simp] theorem State.inc_mem (s : State) (f : FRef) : (s.inc f).mem = s.mem := rfl
@[simp] theorem State.inc_eccBad (s : State) (f : FRef) : (s.inc f).eccBad = s.eccBad := rfl
@[simp] theorem State.inc_bus (s : State) (f : FRef) : (s.inc f).bus = s.bus := rfl
@[simp] theorem State.inc_time (s : State) (f : FRef) : (s.inc f).time = s.time := rfl
@[simp] theorem State.inc_evt (s : State) (f : FRef) : (s.inc f).evt = s.evt := rfl
@[simp] theorem State.inc_eng (s : State) (f : FRef) : (s.inc f).eng = s.eng := rfl
@[simp] theorem State.inc_engMem (s : State) (f : FRef) : (s.inc f).engMem = s.engMem := rfl
@[simp] theorem State.inc_pins (s : State) (f : FRef) : (s.inc f).pins = s.pins := rfl
@[simp] theorem State.inc_flash (s : State) (f : FRef) : (s.inc f).flash = s.flash := rfl
@[simp] theorem State.inc_img (s : State) (f : FRef) : (s.inc f).img = s.img := rfl
@[simp] theorem State.inc_seq (s : State) (f : FRef) : (s.inc f).seq = s.seq := rfl
@[simp] theorem State.inc_heads (s : State) (f : FRef) : (s.inc f).heads = s.heads := rfl
@[simp] theorem State.inc_bufs (s : State) (f : FRef) : (s.inc f).bufs = s.bufs := rfl
@[simp] theorem State.inc_srcs (s : State) (f : FRef) : (s.inc f).srcs = s.srcs := rfl
@[simp] theorem State.inc_rel (s : State) (f : FRef) : (s.inc f).rel = s.rel := rfl
@[simp] theorem State.inc_lanes (s : State) (f : FRef) : (s.inc f).lanes = s.lanes := rfl
@[simp] theorem State.inc_dp (s : State) (f : FRef) : (s.inc f).dp = s.dp := rfl
@[simp] theorem State.inc_tzl (s : State) (f : FRef) : (s.inc f).tzl = s.tzl := rfl
@[simp] theorem State.inc_net (s : State) (f : FRef) : (s.inc f).net = s.net := rfl
@[simp] theorem State.inc_dec (s : State) (f : FRef) : (s.inc f).dec = s.dec := rfl
@[simp] theorem State.inc_cap (s : State) (f : FRef) : (s.inc f).cap = s.cap := rfl
@[simp] theorem State.inc_enc (s : State) (f : FRef) : (s.inc f).enc = s.enc := rfl
@[simp] theorem State.inc_tch (s : State) (f : FRef) : (s.inc f).tch = s.tch := rfl
@[simp] theorem State.inc_cus (s : State) (f : FRef) : (s.inc f).cus = s.cus := rfl
@[simp] theorem State.inc_dmc (s : State) (f : FRef) : (s.inc f).dmc = s.dmc := rfl
@[simp] theorem State.inc_boot (s : State) (f : FRef) : (s.inc f).boot = s.boot := rfl
@[simp] theorem State.inc_host (s : State) (f : FRef) : (s.inc f).host = s.host := rfl
@[simp] theorem State.inc_free (s : State) (f : FRef) : (s.inc f).free = s.free := rfl
@[simp] theorem State.inc_pending (s : State) (f : FRef) : (s.inc f).pending = s.pending := rfl

@[simp] theorem State.incBy_clock (s : State) (f : FRef) (n : Nat) : (s.incBy f n).clock = s.clock := rfl
@[simp] theorem State.incBy_pwr (s : State) (f : FRef) (n : Nat) : (s.incBy f n).pwr = s.pwr := rfl
@[simp] theorem State.incBy_clk (s : State) (f : FRef) (n : Nat) : (s.incBy f n).clk = s.clk := rfl
@[simp] theorem State.incBy_mem (s : State) (f : FRef) (n : Nat) : (s.incBy f n).mem = s.mem := rfl
@[simp] theorem State.incBy_eccBad (s : State) (f : FRef) (n : Nat) : (s.incBy f n).eccBad = s.eccBad := rfl
@[simp] theorem State.incBy_bus (s : State) (f : FRef) (n : Nat) : (s.incBy f n).bus = s.bus := rfl
@[simp] theorem State.incBy_time (s : State) (f : FRef) (n : Nat) : (s.incBy f n).time = s.time := rfl
@[simp] theorem State.incBy_evt (s : State) (f : FRef) (n : Nat) : (s.incBy f n).evt = s.evt := rfl
@[simp] theorem State.incBy_eng (s : State) (f : FRef) (n : Nat) : (s.incBy f n).eng = s.eng := rfl
@[simp] theorem State.incBy_engMem (s : State) (f : FRef) (n : Nat) : (s.incBy f n).engMem = s.engMem := rfl
@[simp] theorem State.incBy_pins (s : State) (f : FRef) (n : Nat) : (s.incBy f n).pins = s.pins := rfl
@[simp] theorem State.incBy_flash (s : State) (f : FRef) (n : Nat) : (s.incBy f n).flash = s.flash := rfl
@[simp] theorem State.incBy_img (s : State) (f : FRef) (n : Nat) : (s.incBy f n).img = s.img := rfl
@[simp] theorem State.incBy_seq (s : State) (f : FRef) (n : Nat) : (s.incBy f n).seq = s.seq := rfl
@[simp] theorem State.incBy_heads (s : State) (f : FRef) (n : Nat) : (s.incBy f n).heads = s.heads := rfl
@[simp] theorem State.incBy_bufs (s : State) (f : FRef) (n : Nat) : (s.incBy f n).bufs = s.bufs := rfl
@[simp] theorem State.incBy_srcs (s : State) (f : FRef) (n : Nat) : (s.incBy f n).srcs = s.srcs := rfl
@[simp] theorem State.incBy_rel (s : State) (f : FRef) (n : Nat) : (s.incBy f n).rel = s.rel := rfl
@[simp] theorem State.incBy_lanes (s : State) (f : FRef) (n : Nat) : (s.incBy f n).lanes = s.lanes := rfl
@[simp] theorem State.incBy_dp (s : State) (f : FRef) (n : Nat) : (s.incBy f n).dp = s.dp := rfl
@[simp] theorem State.incBy_tzl (s : State) (f : FRef) (n : Nat) : (s.incBy f n).tzl = s.tzl := rfl
@[simp] theorem State.incBy_net (s : State) (f : FRef) (n : Nat) : (s.incBy f n).net = s.net := rfl
@[simp] theorem State.incBy_dec (s : State) (f : FRef) (n : Nat) : (s.incBy f n).dec = s.dec := rfl
@[simp] theorem State.incBy_cap (s : State) (f : FRef) (n : Nat) : (s.incBy f n).cap = s.cap := rfl
@[simp] theorem State.incBy_enc (s : State) (f : FRef) (n : Nat) : (s.incBy f n).enc = s.enc := rfl
@[simp] theorem State.incBy_tch (s : State) (f : FRef) (n : Nat) : (s.incBy f n).tch = s.tch := rfl
@[simp] theorem State.incBy_cus (s : State) (f : FRef) (n : Nat) : (s.incBy f n).cus = s.cus := rfl
@[simp] theorem State.incBy_dmc (s : State) (f : FRef) (n : Nat) : (s.incBy f n).dmc = s.dmc := rfl
@[simp] theorem State.incBy_boot (s : State) (f : FRef) (n : Nat) : (s.incBy f n).boot = s.boot := rfl
@[simp] theorem State.incBy_host (s : State) (f : FRef) (n : Nat) : (s.incBy f n).host = s.host := rfl
@[simp] theorem State.incBy_free (s : State) (f : FRef) (n : Nat) : (s.incBy f n).free = s.free := rfl
@[simp] theorem State.incBy_pending (s : State) (f : FRef) (n : Nat) : (s.incBy f n).pending = s.pending := rfl

@[simp] theorem State.incSat_clock (s : State) (f : FRef) : (s.incSat f).clock = s.clock := rfl
@[simp] theorem State.incSat_pwr (s : State) (f : FRef) : (s.incSat f).pwr = s.pwr := rfl
@[simp] theorem State.incSat_clk (s : State) (f : FRef) : (s.incSat f).clk = s.clk := rfl
@[simp] theorem State.incSat_mem (s : State) (f : FRef) : (s.incSat f).mem = s.mem := rfl
@[simp] theorem State.incSat_eccBad (s : State) (f : FRef) : (s.incSat f).eccBad = s.eccBad := rfl
@[simp] theorem State.incSat_bus (s : State) (f : FRef) : (s.incSat f).bus = s.bus := rfl
@[simp] theorem State.incSat_time (s : State) (f : FRef) : (s.incSat f).time = s.time := rfl
@[simp] theorem State.incSat_evt (s : State) (f : FRef) : (s.incSat f).evt = s.evt := rfl
@[simp] theorem State.incSat_eng (s : State) (f : FRef) : (s.incSat f).eng = s.eng := rfl
@[simp] theorem State.incSat_engMem (s : State) (f : FRef) : (s.incSat f).engMem = s.engMem := rfl
@[simp] theorem State.incSat_pins (s : State) (f : FRef) : (s.incSat f).pins = s.pins := rfl
@[simp] theorem State.incSat_flash (s : State) (f : FRef) : (s.incSat f).flash = s.flash := rfl
@[simp] theorem State.incSat_img (s : State) (f : FRef) : (s.incSat f).img = s.img := rfl
@[simp] theorem State.incSat_seq (s : State) (f : FRef) : (s.incSat f).seq = s.seq := rfl
@[simp] theorem State.incSat_heads (s : State) (f : FRef) : (s.incSat f).heads = s.heads := rfl
@[simp] theorem State.incSat_bufs (s : State) (f : FRef) : (s.incSat f).bufs = s.bufs := rfl
@[simp] theorem State.incSat_srcs (s : State) (f : FRef) : (s.incSat f).srcs = s.srcs := rfl
@[simp] theorem State.incSat_rel (s : State) (f : FRef) : (s.incSat f).rel = s.rel := rfl
@[simp] theorem State.incSat_lanes (s : State) (f : FRef) : (s.incSat f).lanes = s.lanes := rfl
@[simp] theorem State.incSat_dp (s : State) (f : FRef) : (s.incSat f).dp = s.dp := rfl
@[simp] theorem State.incSat_tzl (s : State) (f : FRef) : (s.incSat f).tzl = s.tzl := rfl
@[simp] theorem State.incSat_net (s : State) (f : FRef) : (s.incSat f).net = s.net := rfl
@[simp] theorem State.incSat_dec (s : State) (f : FRef) : (s.incSat f).dec = s.dec := rfl
@[simp] theorem State.incSat_cap (s : State) (f : FRef) : (s.incSat f).cap = s.cap := rfl
@[simp] theorem State.incSat_enc (s : State) (f : FRef) : (s.incSat f).enc = s.enc := rfl
@[simp] theorem State.incSat_tch (s : State) (f : FRef) : (s.incSat f).tch = s.tch := rfl
@[simp] theorem State.incSat_cus (s : State) (f : FRef) : (s.incSat f).cus = s.cus := rfl
@[simp] theorem State.incSat_dmc (s : State) (f : FRef) : (s.incSat f).dmc = s.dmc := rfl
@[simp] theorem State.incSat_boot (s : State) (f : FRef) : (s.incSat f).boot = s.boot := rfl
@[simp] theorem State.incSat_host (s : State) (f : FRef) : (s.incSat f).host = s.host := rfl
@[simp] theorem State.incSat_free (s : State) (f : FRef) : (s.incSat f).free = s.free := rfl
@[simp] theorem State.incSat_pending (s : State) (f : FRef) : (s.incSat f).pending = s.pending := rfl

@[simp] theorem State.incSatBy_clock (s : State) (f : FRef) (n : Nat) : (s.incSatBy f n).clock = s.clock := rfl
@[simp] theorem State.incSatBy_pwr (s : State) (f : FRef) (n : Nat) : (s.incSatBy f n).pwr = s.pwr := rfl
@[simp] theorem State.incSatBy_clk (s : State) (f : FRef) (n : Nat) : (s.incSatBy f n).clk = s.clk := rfl
@[simp] theorem State.incSatBy_mem (s : State) (f : FRef) (n : Nat) : (s.incSatBy f n).mem = s.mem := rfl
@[simp] theorem State.incSatBy_eccBad (s : State) (f : FRef) (n : Nat) : (s.incSatBy f n).eccBad = s.eccBad := rfl
@[simp] theorem State.incSatBy_bus (s : State) (f : FRef) (n : Nat) : (s.incSatBy f n).bus = s.bus := rfl
@[simp] theorem State.incSatBy_time (s : State) (f : FRef) (n : Nat) : (s.incSatBy f n).time = s.time := rfl
@[simp] theorem State.incSatBy_evt (s : State) (f : FRef) (n : Nat) : (s.incSatBy f n).evt = s.evt := rfl
@[simp] theorem State.incSatBy_eng (s : State) (f : FRef) (n : Nat) : (s.incSatBy f n).eng = s.eng := rfl
@[simp] theorem State.incSatBy_engMem (s : State) (f : FRef) (n : Nat) : (s.incSatBy f n).engMem = s.engMem := rfl
@[simp] theorem State.incSatBy_pins (s : State) (f : FRef) (n : Nat) : (s.incSatBy f n).pins = s.pins := rfl
@[simp] theorem State.incSatBy_flash (s : State) (f : FRef) (n : Nat) : (s.incSatBy f n).flash = s.flash := rfl
@[simp] theorem State.incSatBy_img (s : State) (f : FRef) (n : Nat) : (s.incSatBy f n).img = s.img := rfl
@[simp] theorem State.incSatBy_seq (s : State) (f : FRef) (n : Nat) : (s.incSatBy f n).seq = s.seq := rfl
@[simp] theorem State.incSatBy_heads (s : State) (f : FRef) (n : Nat) : (s.incSatBy f n).heads = s.heads := rfl
@[simp] theorem State.incSatBy_bufs (s : State) (f : FRef) (n : Nat) : (s.incSatBy f n).bufs = s.bufs := rfl
@[simp] theorem State.incSatBy_srcs (s : State) (f : FRef) (n : Nat) : (s.incSatBy f n).srcs = s.srcs := rfl
@[simp] theorem State.incSatBy_rel (s : State) (f : FRef) (n : Nat) : (s.incSatBy f n).rel = s.rel := rfl
@[simp] theorem State.incSatBy_lanes (s : State) (f : FRef) (n : Nat) : (s.incSatBy f n).lanes = s.lanes := rfl
@[simp] theorem State.incSatBy_dp (s : State) (f : FRef) (n : Nat) : (s.incSatBy f n).dp = s.dp := rfl
@[simp] theorem State.incSatBy_tzl (s : State) (f : FRef) (n : Nat) : (s.incSatBy f n).tzl = s.tzl := rfl
@[simp] theorem State.incSatBy_net (s : State) (f : FRef) (n : Nat) : (s.incSatBy f n).net = s.net := rfl
@[simp] theorem State.incSatBy_dec (s : State) (f : FRef) (n : Nat) : (s.incSatBy f n).dec = s.dec := rfl
@[simp] theorem State.incSatBy_cap (s : State) (f : FRef) (n : Nat) : (s.incSatBy f n).cap = s.cap := rfl
@[simp] theorem State.incSatBy_enc (s : State) (f : FRef) (n : Nat) : (s.incSatBy f n).enc = s.enc := rfl
@[simp] theorem State.incSatBy_tch (s : State) (f : FRef) (n : Nat) : (s.incSatBy f n).tch = s.tch := rfl
@[simp] theorem State.incSatBy_cus (s : State) (f : FRef) (n : Nat) : (s.incSatBy f n).cus = s.cus := rfl
@[simp] theorem State.incSatBy_dmc (s : State) (f : FRef) (n : Nat) : (s.incSatBy f n).dmc = s.dmc := rfl
@[simp] theorem State.incSatBy_boot (s : State) (f : FRef) (n : Nat) : (s.incSatBy f n).boot = s.boot := rfl
@[simp] theorem State.incSatBy_host (s : State) (f : FRef) (n : Nat) : (s.incSatBy f n).host = s.host := rfl
@[simp] theorem State.incSatBy_free (s : State) (f : FRef) (n : Nat) : (s.incSatBy f n).free = s.free := rfl
@[simp] theorem State.incSatBy_pending (s : State) (f : FRef) (n : Nat) : (s.incSatBy f n).pending = s.pending := rfl

@[simp] theorem State.pFree_clock (s : State) (f : FRef) : (s.pFree f).clock = s.clock := rfl
@[simp] theorem State.pFree_pwr (s : State) (f : FRef) : (s.pFree f).pwr = s.pwr := rfl
@[simp] theorem State.pFree_clk (s : State) (f : FRef) : (s.pFree f).clk = s.clk := rfl
@[simp] theorem State.pFree_mem (s : State) (f : FRef) : (s.pFree f).mem = s.mem := rfl
@[simp] theorem State.pFree_eccBad (s : State) (f : FRef) : (s.pFree f).eccBad = s.eccBad := rfl
@[simp] theorem State.pFree_bus (s : State) (f : FRef) : (s.pFree f).bus = s.bus := rfl
@[simp] theorem State.pFree_time (s : State) (f : FRef) : (s.pFree f).time = s.time := rfl
@[simp] theorem State.pFree_evt (s : State) (f : FRef) : (s.pFree f).evt = s.evt := rfl
@[simp] theorem State.pFree_eng (s : State) (f : FRef) : (s.pFree f).eng = s.eng := rfl
@[simp] theorem State.pFree_engMem (s : State) (f : FRef) : (s.pFree f).engMem = s.engMem := rfl
@[simp] theorem State.pFree_pins (s : State) (f : FRef) : (s.pFree f).pins = s.pins := rfl
@[simp] theorem State.pFree_flash (s : State) (f : FRef) : (s.pFree f).flash = s.flash := rfl
@[simp] theorem State.pFree_img (s : State) (f : FRef) : (s.pFree f).img = s.img := rfl
@[simp] theorem State.pFree_seq (s : State) (f : FRef) : (s.pFree f).seq = s.seq := rfl
@[simp] theorem State.pFree_heads (s : State) (f : FRef) : (s.pFree f).heads = s.heads := rfl
@[simp] theorem State.pFree_bufs (s : State) (f : FRef) : (s.pFree f).bufs = s.bufs := rfl
@[simp] theorem State.pFree_srcs (s : State) (f : FRef) : (s.pFree f).srcs = s.srcs := rfl
@[simp] theorem State.pFree_rel (s : State) (f : FRef) : (s.pFree f).rel = s.rel := rfl
@[simp] theorem State.pFree_lanes (s : State) (f : FRef) : (s.pFree f).lanes = s.lanes := rfl
@[simp] theorem State.pFree_dp (s : State) (f : FRef) : (s.pFree f).dp = s.dp := rfl
@[simp] theorem State.pFree_tzl (s : State) (f : FRef) : (s.pFree f).tzl = s.tzl := rfl
@[simp] theorem State.pFree_net (s : State) (f : FRef) : (s.pFree f).net = s.net := rfl
@[simp] theorem State.pFree_dec (s : State) (f : FRef) : (s.pFree f).dec = s.dec := rfl
@[simp] theorem State.pFree_cap (s : State) (f : FRef) : (s.pFree f).cap = s.cap := rfl
@[simp] theorem State.pFree_enc (s : State) (f : FRef) : (s.pFree f).enc = s.enc := rfl
@[simp] theorem State.pFree_tch (s : State) (f : FRef) : (s.pFree f).tch = s.tch := rfl
@[simp] theorem State.pFree_cus (s : State) (f : FRef) : (s.pFree f).cus = s.cus := rfl
@[simp] theorem State.pFree_dmc (s : State) (f : FRef) : (s.pFree f).dmc = s.dmc := rfl
@[simp] theorem State.pFree_boot (s : State) (f : FRef) : (s.pFree f).boot = s.boot := rfl
@[simp] theorem State.pFree_host (s : State) (f : FRef) : (s.pFree f).host = s.host := rfl
@[simp] theorem State.pFree_pending (s : State) (f : FRef) : (s.pFree f).pending = s.pending := rfl

@[simp] theorem State.resetRegs_clock (s : State) (lo hi : Nat) (mask : Nat → Word) : (s.resetRegs lo hi mask).clock = s.clock := rfl
@[simp] theorem State.resetRegs_pwr (s : State) (lo hi : Nat) (mask : Nat → Word) : (s.resetRegs lo hi mask).pwr = s.pwr := rfl
@[simp] theorem State.resetRegs_clk (s : State) (lo hi : Nat) (mask : Nat → Word) : (s.resetRegs lo hi mask).clk = s.clk := rfl
@[simp] theorem State.resetRegs_mem (s : State) (lo hi : Nat) (mask : Nat → Word) : (s.resetRegs lo hi mask).mem = s.mem := rfl
@[simp] theorem State.resetRegs_eccBad (s : State) (lo hi : Nat) (mask : Nat → Word) : (s.resetRegs lo hi mask).eccBad = s.eccBad := rfl
@[simp] theorem State.resetRegs_bus (s : State) (lo hi : Nat) (mask : Nat → Word) : (s.resetRegs lo hi mask).bus = s.bus := rfl
@[simp] theorem State.resetRegs_time (s : State) (lo hi : Nat) (mask : Nat → Word) : (s.resetRegs lo hi mask).time = s.time := rfl
@[simp] theorem State.resetRegs_evt (s : State) (lo hi : Nat) (mask : Nat → Word) : (s.resetRegs lo hi mask).evt = s.evt := rfl
@[simp] theorem State.resetRegs_eng (s : State) (lo hi : Nat) (mask : Nat → Word) : (s.resetRegs lo hi mask).eng = s.eng := rfl
@[simp] theorem State.resetRegs_engMem (s : State) (lo hi : Nat) (mask : Nat → Word) : (s.resetRegs lo hi mask).engMem = s.engMem := rfl
@[simp] theorem State.resetRegs_pins (s : State) (lo hi : Nat) (mask : Nat → Word) : (s.resetRegs lo hi mask).pins = s.pins := rfl
@[simp] theorem State.resetRegs_flash (s : State) (lo hi : Nat) (mask : Nat → Word) : (s.resetRegs lo hi mask).flash = s.flash := rfl
@[simp] theorem State.resetRegs_img (s : State) (lo hi : Nat) (mask : Nat → Word) : (s.resetRegs lo hi mask).img = s.img := rfl
@[simp] theorem State.resetRegs_seq (s : State) (lo hi : Nat) (mask : Nat → Word) : (s.resetRegs lo hi mask).seq = s.seq := rfl
@[simp] theorem State.resetRegs_heads (s : State) (lo hi : Nat) (mask : Nat → Word) : (s.resetRegs lo hi mask).heads = s.heads := rfl
@[simp] theorem State.resetRegs_bufs (s : State) (lo hi : Nat) (mask : Nat → Word) : (s.resetRegs lo hi mask).bufs = s.bufs := rfl
@[simp] theorem State.resetRegs_srcs (s : State) (lo hi : Nat) (mask : Nat → Word) : (s.resetRegs lo hi mask).srcs = s.srcs := rfl
@[simp] theorem State.resetRegs_rel (s : State) (lo hi : Nat) (mask : Nat → Word) : (s.resetRegs lo hi mask).rel = s.rel := rfl
@[simp] theorem State.resetRegs_lanes (s : State) (lo hi : Nat) (mask : Nat → Word) : (s.resetRegs lo hi mask).lanes = s.lanes := rfl
@[simp] theorem State.resetRegs_dp (s : State) (lo hi : Nat) (mask : Nat → Word) : (s.resetRegs lo hi mask).dp = s.dp := rfl
@[simp] theorem State.resetRegs_tzl (s : State) (lo hi : Nat) (mask : Nat → Word) : (s.resetRegs lo hi mask).tzl = s.tzl := rfl
@[simp] theorem State.resetRegs_net (s : State) (lo hi : Nat) (mask : Nat → Word) : (s.resetRegs lo hi mask).net = s.net := rfl
@[simp] theorem State.resetRegs_dec (s : State) (lo hi : Nat) (mask : Nat → Word) : (s.resetRegs lo hi mask).dec = s.dec := rfl
@[simp] theorem State.resetRegs_cap (s : State) (lo hi : Nat) (mask : Nat → Word) : (s.resetRegs lo hi mask).cap = s.cap := rfl
@[simp] theorem State.resetRegs_enc (s : State) (lo hi : Nat) (mask : Nat → Word) : (s.resetRegs lo hi mask).enc = s.enc := rfl
@[simp] theorem State.resetRegs_tch (s : State) (lo hi : Nat) (mask : Nat → Word) : (s.resetRegs lo hi mask).tch = s.tch := rfl
@[simp] theorem State.resetRegs_cus (s : State) (lo hi : Nat) (mask : Nat → Word) : (s.resetRegs lo hi mask).cus = s.cus := rfl
@[simp] theorem State.resetRegs_dmc (s : State) (lo hi : Nat) (mask : Nat → Word) : (s.resetRegs lo hi mask).dmc = s.dmc := rfl
@[simp] theorem State.resetRegs_boot (s : State) (lo hi : Nat) (mask : Nat → Word) : (s.resetRegs lo hi mask).boot = s.boot := rfl
@[simp] theorem State.resetRegs_host (s : State) (lo hi : Nat) (mask : Nat → Word) : (s.resetRegs lo hi mask).host = s.host := rfl
@[simp] theorem State.resetRegs_free (s : State) (lo hi : Nat) (mask : Nat → Word) : (s.resetRegs lo hi mask).free = s.free := rfl
@[simp] theorem State.resetRegs_pending (s : State) (lo hi : Nat) (mask : Nat → Word) : (s.resetRegs lo hi mask).pending = s.pending := rfl

/-! ### Memory, free values, responses -/

@[simp] theorem State.store_clock (s : State) (a : Nat) (bs : List Byte) : (s.store a bs).clock = s.clock := rfl
@[simp] theorem State.store_pwr (s : State) (a : Nat) (bs : List Byte) : (s.store a bs).pwr = s.pwr := rfl
@[simp] theorem State.store_clk (s : State) (a : Nat) (bs : List Byte) : (s.store a bs).clk = s.clk := rfl
@[simp] theorem State.store_regs (s : State) (a : Nat) (bs : List Byte) : (s.store a bs).regs = s.regs := rfl
@[simp] theorem State.store_bus (s : State) (a : Nat) (bs : List Byte) : (s.store a bs).bus = s.bus := rfl
@[simp] theorem State.store_time (s : State) (a : Nat) (bs : List Byte) : (s.store a bs).time = s.time := rfl
@[simp] theorem State.store_evt (s : State) (a : Nat) (bs : List Byte) : (s.store a bs).evt = s.evt := rfl
@[simp] theorem State.store_eng (s : State) (a : Nat) (bs : List Byte) : (s.store a bs).eng = s.eng := rfl
@[simp] theorem State.store_engMem (s : State) (a : Nat) (bs : List Byte) : (s.store a bs).engMem = s.engMem := rfl
@[simp] theorem State.store_pins (s : State) (a : Nat) (bs : List Byte) : (s.store a bs).pins = s.pins := rfl
@[simp] theorem State.store_flash (s : State) (a : Nat) (bs : List Byte) : (s.store a bs).flash = s.flash := rfl
@[simp] theorem State.store_img (s : State) (a : Nat) (bs : List Byte) : (s.store a bs).img = s.img := rfl
@[simp] theorem State.store_seq (s : State) (a : Nat) (bs : List Byte) : (s.store a bs).seq = s.seq := rfl
@[simp] theorem State.store_heads (s : State) (a : Nat) (bs : List Byte) : (s.store a bs).heads = s.heads := rfl
@[simp] theorem State.store_bufs (s : State) (a : Nat) (bs : List Byte) : (s.store a bs).bufs = s.bufs := rfl
@[simp] theorem State.store_srcs (s : State) (a : Nat) (bs : List Byte) : (s.store a bs).srcs = s.srcs := rfl
@[simp] theorem State.store_rel (s : State) (a : Nat) (bs : List Byte) : (s.store a bs).rel = s.rel := rfl
@[simp] theorem State.store_lanes (s : State) (a : Nat) (bs : List Byte) : (s.store a bs).lanes = s.lanes := rfl
@[simp] theorem State.store_dp (s : State) (a : Nat) (bs : List Byte) : (s.store a bs).dp = s.dp := rfl
@[simp] theorem State.store_tzl (s : State) (a : Nat) (bs : List Byte) : (s.store a bs).tzl = s.tzl := rfl
@[simp] theorem State.store_net (s : State) (a : Nat) (bs : List Byte) : (s.store a bs).net = s.net := rfl
@[simp] theorem State.store_dec (s : State) (a : Nat) (bs : List Byte) : (s.store a bs).dec = s.dec := rfl
@[simp] theorem State.store_cap (s : State) (a : Nat) (bs : List Byte) : (s.store a bs).cap = s.cap := rfl
@[simp] theorem State.store_enc (s : State) (a : Nat) (bs : List Byte) : (s.store a bs).enc = s.enc := rfl
@[simp] theorem State.store_tch (s : State) (a : Nat) (bs : List Byte) : (s.store a bs).tch = s.tch := rfl
@[simp] theorem State.store_cus (s : State) (a : Nat) (bs : List Byte) : (s.store a bs).cus = s.cus := rfl
@[simp] theorem State.store_dmc (s : State) (a : Nat) (bs : List Byte) : (s.store a bs).dmc = s.dmc := rfl
@[simp] theorem State.store_boot (s : State) (a : Nat) (bs : List Byte) : (s.store a bs).boot = s.boot := rfl
@[simp] theorem State.store_host (s : State) (a : Nat) (bs : List Byte) : (s.store a bs).host = s.host := rfl
@[simp] theorem State.store_free (s : State) (a : Nat) (bs : List Byte) : (s.store a bs).free = s.free := rfl
@[simp] theorem State.store_pending (s : State) (a : Nat) (bs : List Byte) : (s.store a bs).pending = s.pending := rfl

@[simp] theorem State.storeFree_clock (s : State) (a n : Nat) : (s.storeFree a n).clock = s.clock := rfl
@[simp] theorem State.storeFree_pwr (s : State) (a n : Nat) : (s.storeFree a n).pwr = s.pwr := rfl
@[simp] theorem State.storeFree_clk (s : State) (a n : Nat) : (s.storeFree a n).clk = s.clk := rfl
@[simp] theorem State.storeFree_regs (s : State) (a n : Nat) : (s.storeFree a n).regs = s.regs := rfl
@[simp] theorem State.storeFree_bus (s : State) (a n : Nat) : (s.storeFree a n).bus = s.bus := rfl
@[simp] theorem State.storeFree_time (s : State) (a n : Nat) : (s.storeFree a n).time = s.time := rfl
@[simp] theorem State.storeFree_evt (s : State) (a n : Nat) : (s.storeFree a n).evt = s.evt := rfl
@[simp] theorem State.storeFree_eng (s : State) (a n : Nat) : (s.storeFree a n).eng = s.eng := rfl
@[simp] theorem State.storeFree_engMem (s : State) (a n : Nat) : (s.storeFree a n).engMem = s.engMem := rfl
@[simp] theorem State.storeFree_pins (s : State) (a n : Nat) : (s.storeFree a n).pins = s.pins := rfl
@[simp] theorem State.storeFree_flash (s : State) (a n : Nat) : (s.storeFree a n).flash = s.flash := rfl
@[simp] theorem State.storeFree_img (s : State) (a n : Nat) : (s.storeFree a n).img = s.img := rfl
@[simp] theorem State.storeFree_seq (s : State) (a n : Nat) : (s.storeFree a n).seq = s.seq := rfl
@[simp] theorem State.storeFree_heads (s : State) (a n : Nat) : (s.storeFree a n).heads = s.heads := rfl
@[simp] theorem State.storeFree_bufs (s : State) (a n : Nat) : (s.storeFree a n).bufs = s.bufs := rfl
@[simp] theorem State.storeFree_srcs (s : State) (a n : Nat) : (s.storeFree a n).srcs = s.srcs := rfl
@[simp] theorem State.storeFree_rel (s : State) (a n : Nat) : (s.storeFree a n).rel = s.rel := rfl
@[simp] theorem State.storeFree_lanes (s : State) (a n : Nat) : (s.storeFree a n).lanes = s.lanes := rfl
@[simp] theorem State.storeFree_dp (s : State) (a n : Nat) : (s.storeFree a n).dp = s.dp := rfl
@[simp] theorem State.storeFree_tzl (s : State) (a n : Nat) : (s.storeFree a n).tzl = s.tzl := rfl
@[simp] theorem State.storeFree_net (s : State) (a n : Nat) : (s.storeFree a n).net = s.net := rfl
@[simp] theorem State.storeFree_dec (s : State) (a n : Nat) : (s.storeFree a n).dec = s.dec := rfl
@[simp] theorem State.storeFree_cap (s : State) (a n : Nat) : (s.storeFree a n).cap = s.cap := rfl
@[simp] theorem State.storeFree_enc (s : State) (a n : Nat) : (s.storeFree a n).enc = s.enc := rfl
@[simp] theorem State.storeFree_tch (s : State) (a n : Nat) : (s.storeFree a n).tch = s.tch := rfl
@[simp] theorem State.storeFree_cus (s : State) (a n : Nat) : (s.storeFree a n).cus = s.cus := rfl
@[simp] theorem State.storeFree_dmc (s : State) (a n : Nat) : (s.storeFree a n).dmc = s.dmc := rfl
@[simp] theorem State.storeFree_boot (s : State) (a n : Nat) : (s.storeFree a n).boot = s.boot := rfl
@[simp] theorem State.storeFree_host (s : State) (a n : Nat) : (s.storeFree a n).host = s.host := rfl
@[simp] theorem State.storeFree_pending (s : State) (a n : Nat) : (s.storeFree a n).pending = s.pending := rfl

@[simp] theorem State.drawn_clock (s : State) : (s.drawn).clock = s.clock := rfl
@[simp] theorem State.drawn_pwr (s : State) : (s.drawn).pwr = s.pwr := rfl
@[simp] theorem State.drawn_clk (s : State) : (s.drawn).clk = s.clk := rfl
@[simp] theorem State.drawn_regs (s : State) : (s.drawn).regs = s.regs := rfl
@[simp] theorem State.drawn_mem (s : State) : (s.drawn).mem = s.mem := rfl
@[simp] theorem State.drawn_eccBad (s : State) : (s.drawn).eccBad = s.eccBad := rfl
@[simp] theorem State.drawn_bus (s : State) : (s.drawn).bus = s.bus := rfl
@[simp] theorem State.drawn_time (s : State) : (s.drawn).time = s.time := rfl
@[simp] theorem State.drawn_evt (s : State) : (s.drawn).evt = s.evt := rfl
@[simp] theorem State.drawn_eng (s : State) : (s.drawn).eng = s.eng := rfl
@[simp] theorem State.drawn_engMem (s : State) : (s.drawn).engMem = s.engMem := rfl
@[simp] theorem State.drawn_pins (s : State) : (s.drawn).pins = s.pins := rfl
@[simp] theorem State.drawn_flash (s : State) : (s.drawn).flash = s.flash := rfl
@[simp] theorem State.drawn_img (s : State) : (s.drawn).img = s.img := rfl
@[simp] theorem State.drawn_seq (s : State) : (s.drawn).seq = s.seq := rfl
@[simp] theorem State.drawn_heads (s : State) : (s.drawn).heads = s.heads := rfl
@[simp] theorem State.drawn_bufs (s : State) : (s.drawn).bufs = s.bufs := rfl
@[simp] theorem State.drawn_srcs (s : State) : (s.drawn).srcs = s.srcs := rfl
@[simp] theorem State.drawn_rel (s : State) : (s.drawn).rel = s.rel := rfl
@[simp] theorem State.drawn_lanes (s : State) : (s.drawn).lanes = s.lanes := rfl
@[simp] theorem State.drawn_dp (s : State) : (s.drawn).dp = s.dp := rfl
@[simp] theorem State.drawn_tzl (s : State) : (s.drawn).tzl = s.tzl := rfl
@[simp] theorem State.drawn_net (s : State) : (s.drawn).net = s.net := rfl
@[simp] theorem State.drawn_dec (s : State) : (s.drawn).dec = s.dec := rfl
@[simp] theorem State.drawn_cap (s : State) : (s.drawn).cap = s.cap := rfl
@[simp] theorem State.drawn_enc (s : State) : (s.drawn).enc = s.enc := rfl
@[simp] theorem State.drawn_tch (s : State) : (s.drawn).tch = s.tch := rfl
@[simp] theorem State.drawn_cus (s : State) : (s.drawn).cus = s.cus := rfl
@[simp] theorem State.drawn_dmc (s : State) : (s.drawn).dmc = s.dmc := rfl
@[simp] theorem State.drawn_boot (s : State) : (s.drawn).boot = s.boot := rfl
@[simp] theorem State.drawn_host (s : State) : (s.drawn).host = s.host := rfl
@[simp] theorem State.drawn_pending (s : State) : (s.drawn).pending = s.pending := rfl

@[simp] theorem State.respond_clock (s : State) (e : Bool) (bs : List Byte) : (s.respond e bs).clock = s.clock := rfl
@[simp] theorem State.respond_pwr (s : State) (e : Bool) (bs : List Byte) : (s.respond e bs).pwr = s.pwr := rfl
@[simp] theorem State.respond_clk (s : State) (e : Bool) (bs : List Byte) : (s.respond e bs).clk = s.clk := rfl
@[simp] theorem State.respond_regs (s : State) (e : Bool) (bs : List Byte) : (s.respond e bs).regs = s.regs := rfl
@[simp] theorem State.respond_mem (s : State) (e : Bool) (bs : List Byte) : (s.respond e bs).mem = s.mem := rfl
@[simp] theorem State.respond_eccBad (s : State) (e : Bool) (bs : List Byte) : (s.respond e bs).eccBad = s.eccBad := rfl
@[simp] theorem State.respond_time (s : State) (e : Bool) (bs : List Byte) : (s.respond e bs).time = s.time := rfl
@[simp] theorem State.respond_evt (s : State) (e : Bool) (bs : List Byte) : (s.respond e bs).evt = s.evt := rfl
@[simp] theorem State.respond_eng (s : State) (e : Bool) (bs : List Byte) : (s.respond e bs).eng = s.eng := rfl
@[simp] theorem State.respond_engMem (s : State) (e : Bool) (bs : List Byte) : (s.respond e bs).engMem = s.engMem := rfl
@[simp] theorem State.respond_pins (s : State) (e : Bool) (bs : List Byte) : (s.respond e bs).pins = s.pins := rfl
@[simp] theorem State.respond_flash (s : State) (e : Bool) (bs : List Byte) : (s.respond e bs).flash = s.flash := rfl
@[simp] theorem State.respond_img (s : State) (e : Bool) (bs : List Byte) : (s.respond e bs).img = s.img := rfl
@[simp] theorem State.respond_seq (s : State) (e : Bool) (bs : List Byte) : (s.respond e bs).seq = s.seq := rfl
@[simp] theorem State.respond_heads (s : State) (e : Bool) (bs : List Byte) : (s.respond e bs).heads = s.heads := rfl
@[simp] theorem State.respond_bufs (s : State) (e : Bool) (bs : List Byte) : (s.respond e bs).bufs = s.bufs := rfl
@[simp] theorem State.respond_srcs (s : State) (e : Bool) (bs : List Byte) : (s.respond e bs).srcs = s.srcs := rfl
@[simp] theorem State.respond_rel (s : State) (e : Bool) (bs : List Byte) : (s.respond e bs).rel = s.rel := rfl
@[simp] theorem State.respond_lanes (s : State) (e : Bool) (bs : List Byte) : (s.respond e bs).lanes = s.lanes := rfl
@[simp] theorem State.respond_dp (s : State) (e : Bool) (bs : List Byte) : (s.respond e bs).dp = s.dp := rfl
@[simp] theorem State.respond_tzl (s : State) (e : Bool) (bs : List Byte) : (s.respond e bs).tzl = s.tzl := rfl
@[simp] theorem State.respond_net (s : State) (e : Bool) (bs : List Byte) : (s.respond e bs).net = s.net := rfl
@[simp] theorem State.respond_dec (s : State) (e : Bool) (bs : List Byte) : (s.respond e bs).dec = s.dec := rfl
@[simp] theorem State.respond_cap (s : State) (e : Bool) (bs : List Byte) : (s.respond e bs).cap = s.cap := rfl
@[simp] theorem State.respond_enc (s : State) (e : Bool) (bs : List Byte) : (s.respond e bs).enc = s.enc := rfl
@[simp] theorem State.respond_tch (s : State) (e : Bool) (bs : List Byte) : (s.respond e bs).tch = s.tch := rfl
@[simp] theorem State.respond_cus (s : State) (e : Bool) (bs : List Byte) : (s.respond e bs).cus = s.cus := rfl
@[simp] theorem State.respond_dmc (s : State) (e : Bool) (bs : List Byte) : (s.respond e bs).dmc = s.dmc := rfl
@[simp] theorem State.respond_boot (s : State) (e : Bool) (bs : List Byte) : (s.respond e bs).boot = s.boot := rfl
@[simp] theorem State.respond_host (s : State) (e : Bool) (bs : List Byte) : (s.respond e bs).host = s.host := rfl
@[simp] theorem State.respond_free (s : State) (e : Bool) (bs : List Byte) : (s.respond e bs).free = s.free := rfl
@[simp] theorem State.respond_pending (s : State) (e : Bool) (bs : List Byte) : (s.respond e bs).pending = s.pending := rfl

@[simp] theorem State.ctlServed_clock (s : State) (m : Nat) : (s.ctlServed m).clock = s.clock := rfl
@[simp] theorem State.ctlServed_pwr (s : State) (m : Nat) : (s.ctlServed m).pwr = s.pwr := rfl
@[simp] theorem State.ctlServed_clk (s : State) (m : Nat) : (s.ctlServed m).clk = s.clk := rfl
@[simp] theorem State.ctlServed_mem (s : State) (m : Nat) : (s.ctlServed m).mem = s.mem := rfl
@[simp] theorem State.ctlServed_eccBad (s : State) (m : Nat) : (s.ctlServed m).eccBad = s.eccBad := rfl
@[simp] theorem State.ctlServed_bus (s : State) (m : Nat) : (s.ctlServed m).bus = s.bus := rfl
@[simp] theorem State.ctlServed_time (s : State) (m : Nat) : (s.ctlServed m).time = s.time := rfl
@[simp] theorem State.ctlServed_evt (s : State) (m : Nat) : (s.ctlServed m).evt = s.evt := rfl
@[simp] theorem State.ctlServed_eng (s : State) (m : Nat) : (s.ctlServed m).eng = s.eng := rfl
@[simp] theorem State.ctlServed_engMem (s : State) (m : Nat) : (s.ctlServed m).engMem = s.engMem := rfl
@[simp] theorem State.ctlServed_pins (s : State) (m : Nat) : (s.ctlServed m).pins = s.pins := rfl
@[simp] theorem State.ctlServed_flash (s : State) (m : Nat) : (s.ctlServed m).flash = s.flash := rfl
@[simp] theorem State.ctlServed_img (s : State) (m : Nat) : (s.ctlServed m).img = s.img := rfl
@[simp] theorem State.ctlServed_seq (s : State) (m : Nat) : (s.ctlServed m).seq = s.seq := rfl
@[simp] theorem State.ctlServed_heads (s : State) (m : Nat) : (s.ctlServed m).heads = s.heads := rfl
@[simp] theorem State.ctlServed_bufs (s : State) (m : Nat) : (s.ctlServed m).bufs = s.bufs := rfl
@[simp] theorem State.ctlServed_srcs (s : State) (m : Nat) : (s.ctlServed m).srcs = s.srcs := rfl
@[simp] theorem State.ctlServed_rel (s : State) (m : Nat) : (s.ctlServed m).rel = s.rel := rfl
@[simp] theorem State.ctlServed_lanes (s : State) (m : Nat) : (s.ctlServed m).lanes = s.lanes := rfl
@[simp] theorem State.ctlServed_dp (s : State) (m : Nat) : (s.ctlServed m).dp = s.dp := rfl
@[simp] theorem State.ctlServed_tzl (s : State) (m : Nat) : (s.ctlServed m).tzl = s.tzl := rfl
@[simp] theorem State.ctlServed_net (s : State) (m : Nat) : (s.ctlServed m).net = s.net := rfl
@[simp] theorem State.ctlServed_dec (s : State) (m : Nat) : (s.ctlServed m).dec = s.dec := rfl
@[simp] theorem State.ctlServed_cap (s : State) (m : Nat) : (s.ctlServed m).cap = s.cap := rfl
@[simp] theorem State.ctlServed_enc (s : State) (m : Nat) : (s.ctlServed m).enc = s.enc := rfl
@[simp] theorem State.ctlServed_tch (s : State) (m : Nat) : (s.ctlServed m).tch = s.tch := rfl
@[simp] theorem State.ctlServed_cus (s : State) (m : Nat) : (s.ctlServed m).cus = s.cus := rfl
@[simp] theorem State.ctlServed_dmc (s : State) (m : Nat) : (s.ctlServed m).dmc = s.dmc := rfl
@[simp] theorem State.ctlServed_boot (s : State) (m : Nat) : (s.ctlServed m).boot = s.boot := rfl
@[simp] theorem State.ctlServed_host (s : State) (m : Nat) : (s.ctlServed m).host = s.host := rfl
@[simp] theorem State.ctlServed_free (s : State) (m : Nat) : (s.ctlServed m).free = s.free := rfl
@[simp] theorem State.ctlServed_pending (s : State) (m : Nat) : (s.ctlServed m).pending = s.pending := rfl

@[simp] theorem State.setSnap_clock (s : State) (m a : Nat) (w : Word) : (s.setSnap m a w).clock = s.clock := rfl
@[simp] theorem State.setSnap_pwr (s : State) (m a : Nat) (w : Word) : (s.setSnap m a w).pwr = s.pwr := rfl
@[simp] theorem State.setSnap_clk (s : State) (m a : Nat) (w : Word) : (s.setSnap m a w).clk = s.clk := rfl
@[simp] theorem State.setSnap_regs (s : State) (m a : Nat) (w : Word) : (s.setSnap m a w).regs = s.regs := rfl
@[simp] theorem State.setSnap_mem (s : State) (m a : Nat) (w : Word) : (s.setSnap m a w).mem = s.mem := rfl
@[simp] theorem State.setSnap_eccBad (s : State) (m a : Nat) (w : Word) : (s.setSnap m a w).eccBad = s.eccBad := rfl
@[simp] theorem State.setSnap_time (s : State) (m a : Nat) (w : Word) : (s.setSnap m a w).time = s.time := rfl
@[simp] theorem State.setSnap_evt (s : State) (m a : Nat) (w : Word) : (s.setSnap m a w).evt = s.evt := rfl
@[simp] theorem State.setSnap_eng (s : State) (m a : Nat) (w : Word) : (s.setSnap m a w).eng = s.eng := rfl
@[simp] theorem State.setSnap_engMem (s : State) (m a : Nat) (w : Word) : (s.setSnap m a w).engMem = s.engMem := rfl
@[simp] theorem State.setSnap_pins (s : State) (m a : Nat) (w : Word) : (s.setSnap m a w).pins = s.pins := rfl
@[simp] theorem State.setSnap_flash (s : State) (m a : Nat) (w : Word) : (s.setSnap m a w).flash = s.flash := rfl
@[simp] theorem State.setSnap_img (s : State) (m a : Nat) (w : Word) : (s.setSnap m a w).img = s.img := rfl
@[simp] theorem State.setSnap_seq (s : State) (m a : Nat) (w : Word) : (s.setSnap m a w).seq = s.seq := rfl
@[simp] theorem State.setSnap_heads (s : State) (m a : Nat) (w : Word) : (s.setSnap m a w).heads = s.heads := rfl
@[simp] theorem State.setSnap_bufs (s : State) (m a : Nat) (w : Word) : (s.setSnap m a w).bufs = s.bufs := rfl
@[simp] theorem State.setSnap_srcs (s : State) (m a : Nat) (w : Word) : (s.setSnap m a w).srcs = s.srcs := rfl
@[simp] theorem State.setSnap_rel (s : State) (m a : Nat) (w : Word) : (s.setSnap m a w).rel = s.rel := rfl
@[simp] theorem State.setSnap_lanes (s : State) (m a : Nat) (w : Word) : (s.setSnap m a w).lanes = s.lanes := rfl
@[simp] theorem State.setSnap_dp (s : State) (m a : Nat) (w : Word) : (s.setSnap m a w).dp = s.dp := rfl
@[simp] theorem State.setSnap_tzl (s : State) (m a : Nat) (w : Word) : (s.setSnap m a w).tzl = s.tzl := rfl
@[simp] theorem State.setSnap_net (s : State) (m a : Nat) (w : Word) : (s.setSnap m a w).net = s.net := rfl
@[simp] theorem State.setSnap_dec (s : State) (m a : Nat) (w : Word) : (s.setSnap m a w).dec = s.dec := rfl
@[simp] theorem State.setSnap_cap (s : State) (m a : Nat) (w : Word) : (s.setSnap m a w).cap = s.cap := rfl
@[simp] theorem State.setSnap_enc (s : State) (m a : Nat) (w : Word) : (s.setSnap m a w).enc = s.enc := rfl
@[simp] theorem State.setSnap_tch (s : State) (m a : Nat) (w : Word) : (s.setSnap m a w).tch = s.tch := rfl
@[simp] theorem State.setSnap_cus (s : State) (m a : Nat) (w : Word) : (s.setSnap m a w).cus = s.cus := rfl
@[simp] theorem State.setSnap_dmc (s : State) (m a : Nat) (w : Word) : (s.setSnap m a w).dmc = s.dmc := rfl
@[simp] theorem State.setSnap_boot (s : State) (m a : Nat) (w : Word) : (s.setSnap m a w).boot = s.boot := rfl
@[simp] theorem State.setSnap_host (s : State) (m a : Nat) (w : Word) : (s.setSnap m a w).host = s.host := rfl
@[simp] theorem State.setSnap_free (s : State) (m a : Nat) (w : Word) : (s.setSnap m a w).free = s.free := rfl
@[simp] theorem State.setSnap_pending (s : State) (m a : Nat) (w : Word) : (s.setSnap m a w).pending = s.pending := rfl

@[simp] theorem State.respond_g (s : State) (e : Bool) (bs : List Byte) (f : FRef) : (s.respond e bs).g f = s.g f := rfl
@[simp] theorem State.respond_reg (s : State) (e : Bool) (bs : List Byte) (a : Nat) : (s.respond e bs).reg a = s.reg a := rfl
@[simp] theorem State.store_g (s : State) (a : Nat) (bs : List Byte) (f : FRef) : (s.store a bs).g f = s.g f := rfl
@[simp] theorem State.drawn_g (s : State) (f : FRef) : s.drawn.g f = s.g f := rfl

/-! ### Time -/

/-- Time's passing changes the clock and the time state alone. -/
theorem State.advance_eq (s : State) (dt : Nat) : s.advance dt = { s with clock := s.clock + dt, time := (s.advance dt).time } := by
  unfold State.advance; split <;> rfl

@[simp] theorem State.advance_pwr (s : State) (dt : Nat) : (s.advance dt).pwr = s.pwr := by rw [State.advance_eq]
@[simp] theorem State.advance_clk (s : State) (dt : Nat) : (s.advance dt).clk = s.clk := by rw [State.advance_eq]
@[simp] theorem State.advance_regs (s : State) (dt : Nat) : (s.advance dt).regs = s.regs := by rw [State.advance_eq]
@[simp] theorem State.advance_mem (s : State) (dt : Nat) : (s.advance dt).mem = s.mem := by rw [State.advance_eq]
@[simp] theorem State.advance_eccBad (s : State) (dt : Nat) : (s.advance dt).eccBad = s.eccBad := by rw [State.advance_eq]
@[simp] theorem State.advance_bus (s : State) (dt : Nat) : (s.advance dt).bus = s.bus := by rw [State.advance_eq]
@[simp] theorem State.advance_evt (s : State) (dt : Nat) : (s.advance dt).evt = s.evt := by rw [State.advance_eq]
@[simp] theorem State.advance_eng (s : State) (dt : Nat) : (s.advance dt).eng = s.eng := by rw [State.advance_eq]
@[simp] theorem State.advance_engMem (s : State) (dt : Nat) : (s.advance dt).engMem = s.engMem := by rw [State.advance_eq]
@[simp] theorem State.advance_pins (s : State) (dt : Nat) : (s.advance dt).pins = s.pins := by rw [State.advance_eq]
@[simp] theorem State.advance_flash (s : State) (dt : Nat) : (s.advance dt).flash = s.flash := by rw [State.advance_eq]
@[simp] theorem State.advance_img (s : State) (dt : Nat) : (s.advance dt).img = s.img := by rw [State.advance_eq]
@[simp] theorem State.advance_seq (s : State) (dt : Nat) : (s.advance dt).seq = s.seq := by rw [State.advance_eq]
@[simp] theorem State.advance_heads (s : State) (dt : Nat) : (s.advance dt).heads = s.heads := by rw [State.advance_eq]
@[simp] theorem State.advance_bufs (s : State) (dt : Nat) : (s.advance dt).bufs = s.bufs := by rw [State.advance_eq]
@[simp] theorem State.advance_srcs (s : State) (dt : Nat) : (s.advance dt).srcs = s.srcs := by rw [State.advance_eq]
@[simp] theorem State.advance_rel (s : State) (dt : Nat) : (s.advance dt).rel = s.rel := by rw [State.advance_eq]
@[simp] theorem State.advance_lanes (s : State) (dt : Nat) : (s.advance dt).lanes = s.lanes := by rw [State.advance_eq]
@[simp] theorem State.advance_dp (s : State) (dt : Nat) : (s.advance dt).dp = s.dp := by rw [State.advance_eq]
@[simp] theorem State.advance_tzl (s : State) (dt : Nat) : (s.advance dt).tzl = s.tzl := by rw [State.advance_eq]
@[simp] theorem State.advance_net (s : State) (dt : Nat) : (s.advance dt).net = s.net := by rw [State.advance_eq]
@[simp] theorem State.advance_dec (s : State) (dt : Nat) : (s.advance dt).dec = s.dec := by rw [State.advance_eq]
@[simp] theorem State.advance_cap (s : State) (dt : Nat) : (s.advance dt).cap = s.cap := by rw [State.advance_eq]
@[simp] theorem State.advance_enc (s : State) (dt : Nat) : (s.advance dt).enc = s.enc := by rw [State.advance_eq]
@[simp] theorem State.advance_tch (s : State) (dt : Nat) : (s.advance dt).tch = s.tch := by rw [State.advance_eq]
@[simp] theorem State.advance_cus (s : State) (dt : Nat) : (s.advance dt).cus = s.cus := by rw [State.advance_eq]
@[simp] theorem State.advance_dmc (s : State) (dt : Nat) : (s.advance dt).dmc = s.dmc := by rw [State.advance_eq]
@[simp] theorem State.advance_boot (s : State) (dt : Nat) : (s.advance dt).boot = s.boot := by rw [State.advance_eq]
@[simp] theorem State.advance_host (s : State) (dt : Nat) : (s.advance dt).host = s.host := by rw [State.advance_eq]
@[simp] theorem State.advance_free (s : State) (dt : Nat) : (s.advance dt).free = s.free := by rw [State.advance_eq]
@[simp] theorem State.advance_pending (s : State) (dt : Nat) : (s.advance dt).pending = s.pending := by rw [State.advance_eq]
@[simp] theorem State.advance_clock (s : State) (dt : Nat) : (s.advance dt).clock = s.clock + dt := by rw [State.advance_eq]
@[simp] theorem State.advance_g (s : State) (dt : Nat) (f : FRef) : (s.advance dt).g f = s.g f := State.g_congr (by simp) f
@[simp] theorem State.advance_gb (s : State) (dt : Nat) (f : FRef) : (s.advance dt).gb f = s.gb f := by simp [State.gb]
@[simp] theorem State.advance_reg (s : State) (dt a : Nat) : (s.advance dt).reg a = s.reg a := State.reg_congr (by simp) a
@[simp] theorem State.advance_byte (s : State) (dt a : Nat) : (s.advance dt).byte a = s.byte a := by simp [State.byte]
@[simp] theorem State.advance_coreOn (s : State) (dt : Nat) : (s.advance dt).coreOn = s.coreOn := by simp [State.coreOn]

end Sys2Proof.Machine
end

