-- ==== Sys2Proof/Laws/Aside.lean ====
section
/-! SUPPORT. What records, responses and events leave alone: an event raised, an error logged, an access counted, a response
given change the registers of the event block, the error log and the matrix, the event log in memory, the custody notes, and
nothing else. -/

namespace Sys2Proof.Machine

/-- A register outside the event block, the error log and the matrix. -/
def quietAddr (a : Nat) : Prop := a < 0x10040000 ∨ (0x10060000 ≤ a ∧ a < 0x100A0000) ∨ 0x100B0000 ≤ a

/-- From `s` to `t` every quiet register and every field of State but those of the event block, the matrix, memory and custody
stay. -/
structure Aside (s t : State) : Prop where
  reg : ∀ a, quietAddr a → t.reg a = s.reg a
  clock : t.clock = s.clock
  pwr : t.pwr = s.pwr
  clk : t.clk = s.clk
  time : t.time = s.time
  eng : t.eng = s.eng
  engMem : t.engMem = s.engMem
  pins : t.pins = s.pins
  flash : t.flash = s.flash
  img : t.img = s.img
  seq : t.seq = s.seq
  heads : t.heads = s.heads
  bufs : t.bufs = s.bufs
  srcs : t.srcs = s.srcs
  rel : t.rel = s.rel
  lanes : t.lanes = s.lanes
  quads : t.quads = s.quads
  dp : t.dp = s.dp
  tzl : t.tzl = s.tzl
  net : t.net = s.net
  dec : t.dec = s.dec
  cap : t.cap = s.cap
  enc : t.enc = s.enc
  tch : t.tch = s.tch
  dmc : t.dmc = s.dmc
  boot : t.boot = s.boot
  host : t.host = s.host
  free : t.free = s.free
  pending : t.pending = s.pending

theorem Aside.refl (s : State) : Aside s s := by constructor <;> intros <;> rfl

theorem Aside.trans {s t u : State} (h : Aside s t) (k : Aside t u) : Aside s u where
  reg a ha := (k.reg a ha).trans (h.reg a ha)
  clock := k.clock.trans h.clock
  pwr := k.pwr.trans h.pwr
  clk := k.clk.trans h.clk
  time := k.time.trans h.time
  eng := k.eng.trans h.eng
  engMem := k.engMem.trans h.engMem
  pins := k.pins.trans h.pins
  flash := k.flash.trans h.flash
  img := k.img.trans h.img
  seq := k.seq.trans h.seq
  heads := k.heads.trans h.heads
  bufs := k.bufs.trans h.bufs
  srcs := k.srcs.trans h.srcs
  rel := k.rel.trans h.rel
  lanes := k.lanes.trans h.lanes
  quads := k.quads.trans h.quads
  dp := k.dp.trans h.dp
  tzl := k.tzl.trans h.tzl
  net := k.net.trans h.net
  dec := k.dec.trans h.dec
  cap := k.cap.trans h.cap
  enc := k.enc.trans h.enc
  tch := k.tch.trans h.tch
  dmc := k.dmc.trans h.dmc
  boot := k.boot.trans h.boot
  host := k.host.trans h.host
  free := k.free.trans h.free
  pending := k.pending.trans h.pending

variable {s₀ s t : State}

theorem Aside.ite {c : Prop} [Decidable c] (ha : Aside s₀ s) (hb : Aside s₀ t) : Aside s₀ (if c then s else t) := by
  split <;> assumption

theorem Aside.fold {α : Type} {f : State → α → State} (h : Aside s₀ s) (hf : ∀ s x, Aside s₀ s → Aside s₀ (f s x))
    (l : List α) : Aside s₀ (l.foldl f s) := by
  induction l generalizing s with
  | nil => exact h
  | cons x l ih => exact ih (hf s x h)

/-- A field of the event block, the error log or the matrix set. -/
theorem State.p_aside (h : Aside s₀ s) {f : FRef} (hf : ¬ quietAddr f.addr) (v : Nat) : Aside s₀ (s.p f v) := by
  refine h.trans ?_
  constructor
  · exact fun a ha => State.reg_p_ne s v (fun e => hf (e ▸ ha))
  all_goals rfl

/-- An update of the event block, the matrix, memory or custody alone. -/
theorem Aside.fields (h : Aside s₀ s) {mem : List Host.Cell} {ecc : List Nat} {bus : BusState} {evt : EvtState} {cus : CusState} :
    Aside s₀ { s with mem := mem, eccBad := ecc, bus := bus, evt := evt, cus := cus } :=
  h.trans (by constructor <;> intros <;> rfl)

theorem State.errLog_aside (h : Aside s₀ s) (r : ErrRecord) : Aside s₀ (s.errLog r) := by
  unfold State.errLog
  refine Aside.ite (Aside.ite h.fields ?_) h
  exact State.p_aside h.fields (by unfold quietAddr; decide) _

theorem State.logIgnored_aside (h : Aside s₀ s) (m a : Nat) (v : Word) : Aside s₀ (s.logIgnored m a v) :=
  State.errLog_aside h _

theorem State.respond_aside (h : Aside s₀ s) (e : Bool) (bs : List Byte) : Aside s₀ (s.respond e bs) := h.fields

theorem State.refuse_aside (h : Aside s₀ s) (m a : Nat) (v : Word) : Aside s₀ (s.refuse m a v) :=
  State.respond_aside (State.errLog_aside h _) _ _

theorem State.ctlServed_aside (h : Aside s₀ s) (m : Nat) : Aside s₀ (s.ctlServed m) := by
  unfold State.ctlServed State.inc
  exact State.p_aside (State.p_aside h (by unfold quietAddr; decide) _) (by unfold quietAddr; decide) _

theorem pulsePins_aside (h : Aside s₀ s) (pins : Nat) (l : List Nat) : Aside s₀ (pulsePins s pins l) := by
  induction l generalizing s with
  | nil => exact h
  | cons p ps ih =>
    unfold pulsePins
    exact Aside.ite (ih h.fields) (ih h)

theorem State.raiseMark_aside (h : Aside s₀ s) (r : RaiseInfo) : Aside s₀ (s.raiseMark r) := h.fields

theorem State.raiseSet_aside (h : Aside s₀ s) (r : RaiseInfo) (hr : r.source < 128) : Aside s₀ (s.raiseSet r) := by
  unfold State.raiseSet
  extract_lets x y
  have hy : Aside s₀ y := by
    unfold y
    split
    · exact State.p_aside (State.raiseMark_aside h r) (by unfold quietAddr; simp only; omega) _
    · exact State.p_aside (State.raiseMark_aside h r) (by unfold quietAddr; simp only; omega) _
  exact Aside.ite (pulsePins_aside hy _ _) hy

theorem State.busFailLog_aside (h : Aside s₀ s) (r : ErrRecord) (hr : r.master < 64) : Aside s₀ (s.busFailLog r) := by
  unfold State.busFailLog State.inc
  refine State.errLog_aside (State.p_aside (State.p_aside (State.p_aside h ?_ _) ?_ _) ?_ _) _
  · unfold quietAddr; simp only; omega
  · unfold quietAddr; decide
  · unfold quietAddr; decide

theorem State.channelOf_lt (s : State) (a : Nat) : s.channelOf a < 16 := by
  unfold State.channelOf
  extract_lets d bit
  have hb : ∀ i, bit i ≤ 1 := fun i => Bool.toNat_le _
  have := hb 0; have := hb 1; have := hb 2; have := hb 3
  omega

theorem State.dataTarget_lt {s : State} {a t : Nat} (h : s.dataTarget a = some t) : t < 16 := by
  unfold State.dataTarget at h
  have := s.channelOf_lt a
  repeat' split at h
  all_goals (cases h <;> omega)

theorem State.countBurst_aside (h : Aside s₀ s) (m a n : Nat) : Aside s₀ (s.countBurst m a n) := by
  unfold State.countBurst State.inc
  refine Aside.ite ?_ ?_
  · refine Aside.fold h (fun s x hs => ?_) _
    have := s.channelOf_lt x
    exact State.p_aside (State.p_aside hs (by unfold quietAddr; simp only; omega) _) (by unfold quietAddr; simp only; omega) _
  · split
    · next t ht =>
      have := State.dataTarget_lt ht
      exact State.p_aside (State.p_aside h (by unfold quietAddr; simp only; omega) _) (by unfold quietAddr; simp only; omega) _
    · exact h

/-- A step over granules that changes the queues and the count of what was drawn for them leaves all else. -/
theorem State.queues_only (s : State) (f : State → Nat → State)
    (hf : ∀ s x, ∃ q d, f s x = { s with bus := { s.bus with queues := q, drew := d } }) (l : List Nat) :
    ∃ q d, l.foldl f s = { s with bus := { s.bus with queues := q, drew := d } } := by
  induction l generalizing s with
  | nil => exact ⟨s.bus.queues, s.bus.drew, rfl⟩
  | cons x l ih =>
    obtain ⟨q, d, h⟩ := ih (f s x)
    obtain ⟨q', d', h'⟩ := hf s x
    exact ⟨q, d, by rw [List.foldl_cons, h, h']⟩

theorem State.queueSettle_only (s : State) (a n : Nat) :
    ∃ q d, s.queueSettle a n = { s with bus := { s.bus with queues := q, drew := d } } := by
  unfold State.queueSettle
  split
  · exact s.queues_only _ (fun s x => ⟨_, _, rfl⟩) _
  · exact ⟨s.bus.queues, s.bus.drew, rfl⟩

theorem State.queueTake_only (s : State) (write : Bool) (qos a n : Nat) (on : List Bool) :
    ∃ q d, s.queueTake write qos a n on = { s with bus := { s.bus with queues := q, drew := d } } := by
  unfold State.queueTake
  split
  · exact s.queues_only _ (fun s x => ⟨_, _, rfl⟩) _
  · exact ⟨s.bus.queues, s.bus.drew, rfl⟩

/-- A burst at the write queues changes the queues and the count of what was drawn for them, and nothing else. -/
theorem State.queueBurst_only (s : State) (write : Bool) (qos a n : Nat) (on : List Bool) :
    ∃ q d, s.queueBurst write qos a n on = { s with bus := { s.bus with queues := q, drew := d } } := by
  obtain ⟨q, d, h⟩ := (s.queueSettle a n).queueTake_only write qos a n on
  obtain ⟨q', d', h'⟩ := s.queueSettle_only a n
  exact ⟨q, d, by rw [State.queueBurst, h, h']⟩

@[simp] theorem State.queueBurst_byte (s : State) (write : Bool) (qos a n : Nat) (on : List Bool) (x : Nat) :
    (s.queueBurst write qos a n on).byte x = s.byte x := by
  obtain ⟨q, d, h⟩ := s.queueBurst_only write qos a n on
  rw [h]
  rfl

@[simp] theorem State.queueBurst_reg (s : State) (write : Bool) (qos a n : Nat) (on : List Bool) (r : Nat) :
    (s.queueBurst write qos a n on).reg r = s.reg r := by
  obtain ⟨q, d, h⟩ := s.queueBurst_only write qos a n on
  rw [h]
  rfl

theorem State.queueBurst_aside (h : Aside s₀ s) (write : Bool) (qos a n : Nat) (on : List Bool) :
    Aside s₀ (s.queueBurst write qos a n on) := by
  obtain ⟨q, d, e⟩ := s.queueBurst_only write qos a n on
  rw [e]
  exact h.fields

theorem State.logStore_aside (h : Aside s₀ s) (base size wr seq : Nat) (drop : Bool) (i : Nat) (es : List (RaiseInfo × Nat)) :
    Aside s₀ (s.logStore base size wr seq drop i es) := by
  induction es generalizing s i with
  | nil => exact h
  | cons e es ih => exact ih h.fields (i + 1)

theorem State.logPut_aside (h : Aside s₀ s) (r : RaiseInfo) : Aside s₀ (s.logPut r) := by
  have hq : ∀ f : FRef, 0x10040000 ≤ f.addr → f.addr < 0x10060000 → ¬ quietAddr f.addr := by
    intro f h1 h2; unfold quietAddr; omega
  unfold State.logPut
  extract_lets size base old wr seq drop es room a x y z w
  have hx : Aside s₀ x := State.p_aside h (hq Reg.EVT.LOG_SEQ (by decide) (by decide)) _
  have hy : Aside s₀ y := by
    refine Aside.ite hx (Aside.ite ?_ ?_)
    · exact State.p_aside hx (hq Reg.EVT.DROPS (by decide) (by decide)) _
    · exact State.countBurst_aside (State.queueBurst_aside hx _ _ a 32 _) 42 a 32
  exact (State.p_aside (State.logStore_aside hy ..) (hq Reg.EVT.LOG_WR (by decide) (by decide)) _).fields

theorem State.logAppend_aside (h : Aside s₀ s) (r : RaiseInfo) : Aside s₀ (s.logAppend r) := by
  have hq : ∀ f : FRef, 0x10040000 ≤ f.addr → f.addr < 0x10060000 → ¬ quietAddr f.addr := by
    intro f h1 h2; unfold quietAddr; omega
  unfold State.logAppend
  refine Aside.ite h ?_
  extract_lets a x e
  refine Aside.ite (State.logPut_aside h r) ?_
  have hx : Aside s₀ x :=
    State.p_aside (State.p_aside h (hq Reg.EVT.LOG_EN (by decide) (by decide)) _) (hq Reg.EVT.LOG_FAULT (by decide) (by decide)) _
  exact Aside.ite (State.raiseSet_aside (State.busFailLog_aside hx _ (show (42 : Nat) < 64 by decide)) _ (show (38 : Nat) < 128 by decide)) hx

theorem State.noteEvent_aside (h : Aside s₀ s) (i : Nat) : Aside s₀ (s.noteEvent i) := by
  unfold State.noteEvent State.noteHealth
  exact Aside.ite h.fields (Aside.ite h.fields (Aside.ite h.fields h))

theorem State.raiseInfo_aside (h : Aside s₀ s) (r : RaiseInfo) (hr : r.source < 128) : Aside s₀ (s.raiseInfo r) := by
  unfold State.raiseInfo
  refine Aside.ite ?_ h
  extract_lets x
  have hx : Aside s₀ x := State.noteEvent_aside (State.raiseSet_aside h r hr) _
  exact Aside.ite (State.logAppend_aside hx r) hx

/-- An event raised. -/
theorem State.raise_aside (h : Aside s₀ s) (i arg : Nat) (hi : i < 64) : Aside s₀ (s.raise i arg) :=
  State.raiseInfo_aside h _ (by simp only; omega)

/-- Causes of a head raised. -/
theorem State.raiseHead_aside (h : Aside s₀ s) (n c : Nat) (hn : n < 64) : Aside s₀ (s.raiseHead n c) := by
  unfold State.raiseHead State.raiseHeadAt
  exact Aside.ite h (State.raiseInfo_aside h _ (by simp only; omega))

theorem State.busFail_aside (h : Aside s₀ s) (r : ErrRecord) (hr : r.master < 64) : Aside s₀ (s.busFail r) := by
  unfold State.busFail
  exact State.raiseInfo_aside (State.busFailLog_aside h r hr) _ (by simp [mtxErrInfo])

theorem Aside.g (h : Aside s t) {f : FRef} (hf : quietAddr f.addr) : t.g f = s.g f := by
  unfold State.g; rw [h.reg _ hf]

theorem Aside.gb (h : Aside s t) {f : FRef} (hf : quietAddr f.addr) : t.gb f = s.gb f := by
  unfold State.gb; rw [h.g hf]

theorem Aside.coreOn (h : Aside s t) : t.coreOn = s.coreOn := by unfold State.coreOn; rw [h.pwr]

/-! ### An event raised -/

variable (s)

@[simp] theorem State.raise_clock (i arg : Nat) (hi : i < 64) : (s.raise i arg).clock = s.clock := (State.raise_aside (Aside.refl s) i arg hi).clock
@[simp] theorem State.raise_pwr (i arg : Nat) (hi : i < 64) : (s.raise i arg).pwr = s.pwr := (State.raise_aside (Aside.refl s) i arg hi).pwr
@[simp] theorem State.raise_clk (i arg : Nat) (hi : i < 64) : (s.raise i arg).clk = s.clk := (State.raise_aside (Aside.refl s) i arg hi).clk
@[simp] theorem State.raise_time (i arg : Nat) (hi : i < 64) : (s.raise i arg).time = s.time := (State.raise_aside (Aside.refl s) i arg hi).time
@[simp] theorem State.raise_eng (i arg : Nat) (hi : i < 64) : (s.raise i arg).eng = s.eng := (State.raise_aside (Aside.refl s) i arg hi).eng
@[simp] theorem State.raise_engMem (i arg : Nat) (hi : i < 64) : (s.raise i arg).engMem = s.engMem := (State.raise_aside (Aside.refl s) i arg hi).engMem
@[simp] theorem State.raise_pins (i arg : Nat) (hi : i < 64) : (s.raise i arg).pins = s.pins := (State.raise_aside (Aside.refl s) i arg hi).pins
@[simp] theorem State.raise_flash (i arg : Nat) (hi : i < 64) : (s.raise i arg).flash = s.flash := (State.raise_aside (Aside.refl s) i arg hi).flash
@[simp] theorem State.raise_img (i arg : Nat) (hi : i < 64) : (s.raise i arg).img = s.img := (State.raise_aside (Aside.refl s) i arg hi).img
@[simp] theorem State.raise_seq (i arg : Nat) (hi : i < 64) : (s.raise i arg).seq = s.seq := (State.raise_aside (Aside.refl s) i arg hi).seq
@[simp] theorem State.raise_heads (i arg : Nat) (hi : i < 64) : (s.raise i arg).heads = s.heads := (State.raise_aside (Aside.refl s) i arg hi).heads
@[simp] theorem State.raise_bufs (i arg : Nat) (hi : i < 64) : (s.raise i arg).bufs = s.bufs := (State.raise_aside (Aside.refl s) i arg hi).bufs
@[simp] theorem State.raise_srcs (i arg : Nat) (hi : i < 64) : (s.raise i arg).srcs = s.srcs := (State.raise_aside (Aside.refl s) i arg hi).srcs
@[simp] theorem State.raise_rel (i arg : Nat) (hi : i < 64) : (s.raise i arg).rel = s.rel := (State.raise_aside (Aside.refl s) i arg hi).rel
@[simp] theorem State.raise_lanes (i arg : Nat) (hi : i < 64) : (s.raise i arg).lanes = s.lanes := (State.raise_aside (Aside.refl s) i arg hi).lanes
@[simp] theorem State.raise_quads (i arg : Nat) (hi : i < 64) : (s.raise i arg).quads = s.quads := (State.raise_aside (Aside.refl s) i arg hi).quads
@[simp] theorem State.raise_dp (i arg : Nat) (hi : i < 64) : (s.raise i arg).dp = s.dp := (State.raise_aside (Aside.refl s) i arg hi).dp
@[simp] theorem State.raise_tzl (i arg : Nat) (hi : i < 64) : (s.raise i arg).tzl = s.tzl := (State.raise_aside (Aside.refl s) i arg hi).tzl
@[simp] theorem State.raise_net (i arg : Nat) (hi : i < 64) : (s.raise i arg).net = s.net := (State.raise_aside (Aside.refl s) i arg hi).net
@[simp] theorem State.raise_dec (i arg : Nat) (hi : i < 64) : (s.raise i arg).dec = s.dec := (State.raise_aside (Aside.refl s) i arg hi).dec
@[simp] theorem State.raise_cap (i arg : Nat) (hi : i < 64) : (s.raise i arg).cap = s.cap := (State.raise_aside (Aside.refl s) i arg hi).cap
@[simp] theorem State.raise_enc (i arg : Nat) (hi : i < 64) : (s.raise i arg).enc = s.enc := (State.raise_aside (Aside.refl s) i arg hi).enc
@[simp] theorem State.raise_tch (i arg : Nat) (hi : i < 64) : (s.raise i arg).tch = s.tch := (State.raise_aside (Aside.refl s) i arg hi).tch
@[simp] theorem State.raise_dmc (i arg : Nat) (hi : i < 64) : (s.raise i arg).dmc = s.dmc := (State.raise_aside (Aside.refl s) i arg hi).dmc
@[simp] theorem State.raise_boot (i arg : Nat) (hi : i < 64) : (s.raise i arg).boot = s.boot := (State.raise_aside (Aside.refl s) i arg hi).boot
@[simp] theorem State.raise_host (i arg : Nat) (hi : i < 64) : (s.raise i arg).host = s.host := (State.raise_aside (Aside.refl s) i arg hi).host
@[simp] theorem State.raise_free (i arg : Nat) (hi : i < 64) : (s.raise i arg).free = s.free := (State.raise_aside (Aside.refl s) i arg hi).free
@[simp] theorem State.raise_pending (i arg : Nat) (hi : i < 64) : (s.raise i arg).pending = s.pending := (State.raise_aside (Aside.refl s) i arg hi).pending
theorem State.raise_g (i arg : Nat) (hi : i < 64) {f : FRef} (hf : quietAddr f.addr) : (s.raise i arg).g f = s.g f := (State.raise_aside (Aside.refl s) i arg hi).g hf
@[simp] theorem State.raise_coreOn (i arg : Nat) (hi : i < 64) : (s.raise i arg).coreOn = s.coreOn := (State.raise_aside (Aside.refl s) i arg hi).coreOn

@[simp] theorem State.raiseHead_clock (n c : Nat) (hn : n < 64) : (s.raiseHead n c).clock = s.clock := (State.raiseHead_aside (Aside.refl s) n c hn).clock
@[simp] theorem State.raiseHead_pwr (n c : Nat) (hn : n < 64) : (s.raiseHead n c).pwr = s.pwr := (State.raiseHead_aside (Aside.refl s) n c hn).pwr
@[simp] theorem State.raiseHead_clk (n c : Nat) (hn : n < 64) : (s.raiseHead n c).clk = s.clk := (State.raiseHead_aside (Aside.refl s) n c hn).clk
@[simp] theorem State.raiseHead_time (n c : Nat) (hn : n < 64) : (s.raiseHead n c).time = s.time := (State.raiseHead_aside (Aside.refl s) n c hn).time
@[simp] theorem State.raiseHead_eng (n c : Nat) (hn : n < 64) : (s.raiseHead n c).eng = s.eng := (State.raiseHead_aside (Aside.refl s) n c hn).eng
@[simp] theorem State.raiseHead_engMem (n c : Nat) (hn : n < 64) : (s.raiseHead n c).engMem = s.engMem := (State.raiseHead_aside (Aside.refl s) n c hn).engMem
@[simp] theorem State.raiseHead_pins (n c : Nat) (hn : n < 64) : (s.raiseHead n c).pins = s.pins := (State.raiseHead_aside (Aside.refl s) n c hn).pins
@[simp] theorem State.raiseHead_flash (n c : Nat) (hn : n < 64) : (s.raiseHead n c).flash = s.flash := (State.raiseHead_aside (Aside.refl s) n c hn).flash
@[simp] theorem State.raiseHead_img (n c : Nat) (hn : n < 64) : (s.raiseHead n c).img = s.img := (State.raiseHead_aside (Aside.refl s) n c hn).img
@[simp] theorem State.raiseHead_seq (n c : Nat) (hn : n < 64) : (s.raiseHead n c).seq = s.seq := (State.raiseHead_aside (Aside.refl s) n c hn).seq
@[simp] theorem State.raiseHead_heads (n c : Nat) (hn : n < 64) : (s.raiseHead n c).heads = s.heads := (State.raiseHead_aside (Aside.refl s) n c hn).heads
@[simp] theorem State.raiseHead_bufs (n c : Nat) (hn : n < 64) : (s.raiseHead n c).bufs = s.bufs := (State.raiseHead_aside (Aside.refl s) n c hn).bufs
@[simp] theorem State.raiseHead_srcs (n c : Nat) (hn : n < 64) : (s.raiseHead n c).srcs = s.srcs := (State.raiseHead_aside (Aside.refl s) n c hn).srcs
@[simp] theorem State.raiseHead_rel (n c : Nat) (hn : n < 64) : (s.raiseHead n c).rel = s.rel := (State.raiseHead_aside (Aside.refl s) n c hn).rel
@[simp] theorem State.raiseHead_lanes (n c : Nat) (hn : n < 64) : (s.raiseHead n c).lanes = s.lanes := (State.raiseHead_aside (Aside.refl s) n c hn).lanes
@[simp] theorem State.raiseHead_quads (n c : Nat) (hn : n < 64) : (s.raiseHead n c).quads = s.quads := (State.raiseHead_aside (Aside.refl s) n c hn).quads
@[simp] theorem State.raiseHead_dp (n c : Nat) (hn : n < 64) : (s.raiseHead n c).dp = s.dp := (State.raiseHead_aside (Aside.refl s) n c hn).dp
@[simp] theorem State.raiseHead_tzl (n c : Nat) (hn : n < 64) : (s.raiseHead n c).tzl = s.tzl := (State.raiseHead_aside (Aside.refl s) n c hn).tzl
@[simp] theorem State.raiseHead_net (n c : Nat) (hn : n < 64) : (s.raiseHead n c).net = s.net := (State.raiseHead_aside (Aside.refl s) n c hn).net
@[simp] theorem State.raiseHead_dec (n c : Nat) (hn : n < 64) : (s.raiseHead n c).dec = s.dec := (State.raiseHead_aside (Aside.refl s) n c hn).dec
@[simp] theorem State.raiseHead_cap (n c : Nat) (hn : n < 64) : (s.raiseHead n c).cap = s.cap := (State.raiseHead_aside (Aside.refl s) n c hn).cap
@[simp] theorem State.raiseHead_enc (n c : Nat) (hn : n < 64) : (s.raiseHead n c).enc = s.enc := (State.raiseHead_aside (Aside.refl s) n c hn).enc
@[simp] theorem State.raiseHead_tch (n c : Nat) (hn : n < 64) : (s.raiseHead n c).tch = s.tch := (State.raiseHead_aside (Aside.refl s) n c hn).tch
@[simp] theorem State.raiseHead_dmc (n c : Nat) (hn : n < 64) : (s.raiseHead n c).dmc = s.dmc := (State.raiseHead_aside (Aside.refl s) n c hn).dmc
@[simp] theorem State.raiseHead_boot (n c : Nat) (hn : n < 64) : (s.raiseHead n c).boot = s.boot := (State.raiseHead_aside (Aside.refl s) n c hn).boot
@[simp] theorem State.raiseHead_host (n c : Nat) (hn : n < 64) : (s.raiseHead n c).host = s.host := (State.raiseHead_aside (Aside.refl s) n c hn).host
@[simp] theorem State.raiseHead_free (n c : Nat) (hn : n < 64) : (s.raiseHead n c).free = s.free := (State.raiseHead_aside (Aside.refl s) n c hn).free
@[simp] theorem State.raiseHead_pending (n c : Nat) (hn : n < 64) : (s.raiseHead n c).pending = s.pending := (State.raiseHead_aside (Aside.refl s) n c hn).pending
theorem State.raiseHead_g (n c : Nat) (hn : n < 64) {f : FRef} (hf : quietAddr f.addr) : (s.raiseHead n c).g f = s.g f := (State.raiseHead_aside (Aside.refl s) n c hn).g hf
@[simp] theorem State.raiseHead_coreOn (n c : Nat) (hn : n < 64) : (s.raiseHead n c).coreOn = s.coreOn := (State.raiseHead_aside (Aside.refl s) n c hn).coreOn

@[simp] theorem State.errLog_clock (r : ErrRecord) : (s.errLog r).clock = s.clock := (State.errLog_aside (Aside.refl s) r).clock
@[simp] theorem State.errLog_pwr (r : ErrRecord) : (s.errLog r).pwr = s.pwr := (State.errLog_aside (Aside.refl s) r).pwr
@[simp] theorem State.errLog_clk (r : ErrRecord) : (s.errLog r).clk = s.clk := (State.errLog_aside (Aside.refl s) r).clk
@[simp] theorem State.errLog_time (r : ErrRecord) : (s.errLog r).time = s.time := (State.errLog_aside (Aside.refl s) r).time
@[simp] theorem State.errLog_eng (r : ErrRecord) : (s.errLog r).eng = s.eng := (State.errLog_aside (Aside.refl s) r).eng
@[simp] theorem State.errLog_engMem (r : ErrRecord) : (s.errLog r).engMem = s.engMem := (State.errLog_aside (Aside.refl s) r).engMem
@[simp] theorem State.errLog_pins (r : ErrRecord) : (s.errLog r).pins = s.pins := (State.errLog_aside (Aside.refl s) r).pins
@[simp] theorem State.errLog_flash (r : ErrRecord) : (s.errLog r).flash = s.flash := (State.errLog_aside (Aside.refl s) r).flash
@[simp] theorem State.errLog_img (r : ErrRecord) : (s.errLog r).img = s.img := (State.errLog_aside (Aside.refl s) r).img
@[simp] theorem State.errLog_seq (r : ErrRecord) : (s.errLog r).seq = s.seq := (State.errLog_aside (Aside.refl s) r).seq
@[simp] theorem State.errLog_heads (r : ErrRecord) : (s.errLog r).heads = s.heads := (State.errLog_aside (Aside.refl s) r).heads
@[simp] theorem State.errLog_bufs (r : ErrRecord) : (s.errLog r).bufs = s.bufs := (State.errLog_aside (Aside.refl s) r).bufs
@[simp] theorem State.errLog_srcs (r : ErrRecord) : (s.errLog r).srcs = s.srcs := (State.errLog_aside (Aside.refl s) r).srcs
@[simp] theorem State.errLog_rel (r : ErrRecord) : (s.errLog r).rel = s.rel := (State.errLog_aside (Aside.refl s) r).rel
@[simp] theorem State.errLog_lanes (r : ErrRecord) : (s.errLog r).lanes = s.lanes := (State.errLog_aside (Aside.refl s) r).lanes
@[simp] theorem State.errLog_quads (r : ErrRecord) : (s.errLog r).quads = s.quads := (State.errLog_aside (Aside.refl s) r).quads
@[simp] theorem State.errLog_dp (r : ErrRecord) : (s.errLog r).dp = s.dp := (State.errLog_aside (Aside.refl s) r).dp
@[simp] theorem State.errLog_tzl (r : ErrRecord) : (s.errLog r).tzl = s.tzl := (State.errLog_aside (Aside.refl s) r).tzl
@[simp] theorem State.errLog_net (r : ErrRecord) : (s.errLog r).net = s.net := (State.errLog_aside (Aside.refl s) r).net
@[simp] theorem State.errLog_dec (r : ErrRecord) : (s.errLog r).dec = s.dec := (State.errLog_aside (Aside.refl s) r).dec
@[simp] theorem State.errLog_cap (r : ErrRecord) : (s.errLog r).cap = s.cap := (State.errLog_aside (Aside.refl s) r).cap
@[simp] theorem State.errLog_enc (r : ErrRecord) : (s.errLog r).enc = s.enc := (State.errLog_aside (Aside.refl s) r).enc
@[simp] theorem State.errLog_tch (r : ErrRecord) : (s.errLog r).tch = s.tch := (State.errLog_aside (Aside.refl s) r).tch
@[simp] theorem State.errLog_dmc (r : ErrRecord) : (s.errLog r).dmc = s.dmc := (State.errLog_aside (Aside.refl s) r).dmc
@[simp] theorem State.errLog_boot (r : ErrRecord) : (s.errLog r).boot = s.boot := (State.errLog_aside (Aside.refl s) r).boot
@[simp] theorem State.errLog_host (r : ErrRecord) : (s.errLog r).host = s.host := (State.errLog_aside (Aside.refl s) r).host
@[simp] theorem State.errLog_free (r : ErrRecord) : (s.errLog r).free = s.free := (State.errLog_aside (Aside.refl s) r).free
@[simp] theorem State.errLog_pending (r : ErrRecord) : (s.errLog r).pending = s.pending := (State.errLog_aside (Aside.refl s) r).pending
theorem State.errLog_g (r : ErrRecord) {f : FRef} (hf : quietAddr f.addr) : (s.errLog r).g f = s.g f := (State.errLog_aside (Aside.refl s) r).g hf
@[simp] theorem State.errLog_coreOn (r : ErrRecord) : (s.errLog r).coreOn = s.coreOn := (State.errLog_aside (Aside.refl s) r).coreOn

@[simp] theorem State.logIgnored_clock (m a : Nat) (v : Word) : (s.logIgnored m a v).clock = s.clock := (State.logIgnored_aside (Aside.refl s) m a v).clock
@[simp] theorem State.logIgnored_pwr (m a : Nat) (v : Word) : (s.logIgnored m a v).pwr = s.pwr := (State.logIgnored_aside (Aside.refl s) m a v).pwr
@[simp] theorem State.logIgnored_clk (m a : Nat) (v : Word) : (s.logIgnored m a v).clk = s.clk := (State.logIgnored_aside (Aside.refl s) m a v).clk
@[simp] theorem State.logIgnored_time (m a : Nat) (v : Word) : (s.logIgnored m a v).time = s.time := (State.logIgnored_aside (Aside.refl s) m a v).time
@[simp] theorem State.logIgnored_eng (m a : Nat) (v : Word) : (s.logIgnored m a v).eng = s.eng := (State.logIgnored_aside (Aside.refl s) m a v).eng
@[simp] theorem State.logIgnored_engMem (m a : Nat) (v : Word) : (s.logIgnored m a v).engMem = s.engMem := (State.logIgnored_aside (Aside.refl s) m a v).engMem
@[simp] theorem State.logIgnored_pins (m a : Nat) (v : Word) : (s.logIgnored m a v).pins = s.pins := (State.logIgnored_aside (Aside.refl s) m a v).pins
@[simp] theorem State.logIgnored_flash (m a : Nat) (v : Word) : (s.logIgnored m a v).flash = s.flash := (State.logIgnored_aside (Aside.refl s) m a v).flash
@[simp] theorem State.logIgnored_img (m a : Nat) (v : Word) : (s.logIgnored m a v).img = s.img := (State.logIgnored_aside (Aside.refl s) m a v).img
@[simp] theorem State.logIgnored_seq (m a : Nat) (v : Word) : (s.logIgnored m a v).seq = s.seq := (State.logIgnored_aside (Aside.refl s) m a v).seq
@[simp] theorem State.logIgnored_heads (m a : Nat) (v : Word) : (s.logIgnored m a v).heads = s.heads := (State.logIgnored_aside (Aside.refl s) m a v).heads
@[simp] theorem State.logIgnored_bufs (m a : Nat) (v : Word) : (s.logIgnored m a v).bufs = s.bufs := (State.logIgnored_aside (Aside.refl s) m a v).bufs
@[simp] theorem State.logIgnored_srcs (m a : Nat) (v : Word) : (s.logIgnored m a v).srcs = s.srcs := (State.logIgnored_aside (Aside.refl s) m a v).srcs
@[simp] theorem State.logIgnored_rel (m a : Nat) (v : Word) : (s.logIgnored m a v).rel = s.rel := (State.logIgnored_aside (Aside.refl s) m a v).rel
@[simp] theorem State.logIgnored_lanes (m a : Nat) (v : Word) : (s.logIgnored m a v).lanes = s.lanes := (State.logIgnored_aside (Aside.refl s) m a v).lanes
@[simp] theorem State.logIgnored_quads (m a : Nat) (v : Word) : (s.logIgnored m a v).quads = s.quads := (State.logIgnored_aside (Aside.refl s) m a v).quads
@[simp] theorem State.logIgnored_dp (m a : Nat) (v : Word) : (s.logIgnored m a v).dp = s.dp := (State.logIgnored_aside (Aside.refl s) m a v).dp
@[simp] theorem State.logIgnored_tzl (m a : Nat) (v : Word) : (s.logIgnored m a v).tzl = s.tzl := (State.logIgnored_aside (Aside.refl s) m a v).tzl
@[simp] theorem State.logIgnored_net (m a : Nat) (v : Word) : (s.logIgnored m a v).net = s.net := (State.logIgnored_aside (Aside.refl s) m a v).net
@[simp] theorem State.logIgnored_dec (m a : Nat) (v : Word) : (s.logIgnored m a v).dec = s.dec := (State.logIgnored_aside (Aside.refl s) m a v).dec
@[simp] theorem State.logIgnored_cap (m a : Nat) (v : Word) : (s.logIgnored m a v).cap = s.cap := (State.logIgnored_aside (Aside.refl s) m a v).cap
@[simp] theorem State.logIgnored_enc (m a : Nat) (v : Word) : (s.logIgnored m a v).enc = s.enc := (State.logIgnored_aside (Aside.refl s) m a v).enc
@[simp] theorem State.logIgnored_tch (m a : Nat) (v : Word) : (s.logIgnored m a v).tch = s.tch := (State.logIgnored_aside (Aside.refl s) m a v).tch
@[simp] theorem State.logIgnored_dmc (m a : Nat) (v : Word) : (s.logIgnored m a v).dmc = s.dmc := (State.logIgnored_aside (Aside.refl s) m a v).dmc
@[simp] theorem State.logIgnored_boot (m a : Nat) (v : Word) : (s.logIgnored m a v).boot = s.boot := (State.logIgnored_aside (Aside.refl s) m a v).boot
@[simp] theorem State.logIgnored_host (m a : Nat) (v : Word) : (s.logIgnored m a v).host = s.host := (State.logIgnored_aside (Aside.refl s) m a v).host
@[simp] theorem State.logIgnored_free (m a : Nat) (v : Word) : (s.logIgnored m a v).free = s.free := (State.logIgnored_aside (Aside.refl s) m a v).free
@[simp] theorem State.logIgnored_pending (m a : Nat) (v : Word) : (s.logIgnored m a v).pending = s.pending := (State.logIgnored_aside (Aside.refl s) m a v).pending
theorem State.logIgnored_g (m a : Nat) (v : Word) {f : FRef} (hf : quietAddr f.addr) : (s.logIgnored m a v).g f = s.g f := (State.logIgnored_aside (Aside.refl s) m a v).g hf
@[simp] theorem State.logIgnored_coreOn (m a : Nat) (v : Word) : (s.logIgnored m a v).coreOn = s.coreOn := (State.logIgnored_aside (Aside.refl s) m a v).coreOn

theorem State.ctlServed_g (m : Nat) {f : FRef} (hf : quietAddr f.addr) : (s.ctlServed m).g f = s.g f := (State.ctlServed_aside (Aside.refl s) m).g hf

end Sys2Proof.Machine
end

