-- ==== Sys2Proof/Laws/Keep.lean ====
section
/-! SUPPORT. What every operation keeps: the queue, the clock's direction, the identity, the form State.wf; and how that
follows for an operation from its parts. -/

namespace Sys2Proof.Machine

/-- From `s` to `t` the queue and the identity stay, the clock does not go back, and the form State.wf is kept. -/
structure Keeps (s t : State) : Prop where
  queue : t.pending = s.pending
  clock : s.clock ≤ t.clock
  ident : t.identity = s.identity
  form  : s.wf = true → t.wf = true

theorem Keeps.refl (s : State) : Keeps s s := ⟨rfl, le_refl _, rfl, id⟩

theorem Keeps.trans {s t u : State} (h : Keeps s t) (k : Keeps t u) : Keeps s u :=
  ⟨k.queue.trans h.queue, h.clock.trans k.clock, k.ident.trans h.ident, fun w => k.form (h.form w)⟩

theorem State.wf_iff {s : State} : s.wf = true ↔
    Tab.wf resetWord s.regs = true ∧ Memory.wf 0 s.mem = true ∧ Memory.wf 0 s.engMem = true ∧
      Memory.wf 0xFF s.flash = true ∧ s.bus.err.length ≤ 16 ∧ s.time.stamps.length ≤ 64 := by
  simp [State.wf, and_assoc]

variable {s₀ s t : State}

/-- An update of other fields than those the form speaks of. -/
theorem Keeps.other (h : Keeps s₀ s) (h1 : t.regs = s.regs) (h2 : t.mem = s.mem) (h3 : t.engMem = s.engMem)
    (h4 : t.flash = s.flash) (h5 : t.bus.err = s.bus.err) (h6 : t.time.stamps = s.time.stamps)
    (h7 : t.pending = s.pending) (h8 : t.clock = s.clock) (h9 : t.identity = s.identity) : Keeps s₀ t := by
  refine h.trans ⟨h7, h8 ▸ le_refl _, h9, fun w => ?_⟩
  rw [State.wf_iff, h1, h2, h3, h4, h5, h6, ← State.wf_iff]
  exact w

/-- An update of fields that the form does not speak of, as the record it is. -/
theorem Keeps.fields {pwr : PwrState} {clk : ClkState} {eccBad : List Nat} {bus : BusState} {time : TimeState} {evt :
    EvtState} {eng : Tab EngState} {pins : PinState} {img : ImgState} {seq : SeqState} {heads : Tab HeadState} {bufs :
    Tab BufState} {srcs : Tab SrcState} {rel : List (Nat × Bool)} {lanes : Tab LaneState} {quads : Tab (Option Nat)} {dp : Tab DpState} {tzl :
    Tab TzlState} {net : NetState} {dec : DecState} {cap : CapState} {enc : EncState} {tch : TchState} {cus :
    CusState} {dmc : DmcState} {boot : BootState} {host : HostState} {free : Nat}
    (h : Keeps s₀ s) (hb : bus.err = s.bus.err) (ht : time.stamps = s.time.stamps ∨ time.stamps = [])
    (hp : (pins.grade, pins.uid) = (s.pins.grade, s.pins.uid)) :
    Keeps s₀ (State.mk s.clock pwr clk s.regs s.mem eccBad bus time evt eng s.engMem pins s.flash img seq heads bufs
    srcs rel lanes quads dp tzl net dec cap enc tch cus dmc boot host free s.pending) := by
  refine h.trans ⟨rfl, le_refl _, hp, fun k => ?_⟩
  obtain ⟨k1, k2, k3, k4, k5, k6⟩ := State.wf_iff.1 k
  refine State.wf_iff.2 ⟨k1, k2, k3, k4, ?_, ?_⟩
  · show bus.err.length ≤ 16
    rw [hb]; exact k5
  · show time.stamps.length ≤ 64
    rcases ht with ht | ht <;> rw [ht]
    · exact k6
    · exact Nat.zero_le _

theorem Keeps.ite {c : Prop} [Decidable c] {a b : State} (ha : Keeps s₀ a) (hb : Keeps s₀ b) :
    Keeps s₀ (if c then a else b) := by split <;> assumption

theorem Keeps.itePair {α : Type} {c : Prop} [Decidable c] {a b : State × α} (ha : Keeps s₀ a.1) (hb : Keeps s₀ b.1) :
    Keeps s₀ (if c then a else b).1 := by split <;> assumption

theorem Keeps.fold {α : Type} {f : State → α → State} (h : Keeps s₀ s) (hf : ∀ s x, Keeps s₀ s → Keeps s₀ (f s x))
    (l : List α) : Keeps s₀ (l.foldl f s) := by
  induction l generalizing s with
  | nil => exact h
  | cons x l ih => exact ih (hf s x h)

theorem Keeps.foldPair {α β : Type} {f : State × β → α → State × β} {p : State × β} (h : Keeps s₀ p.1)
    (hf : ∀ p x, Keeps s₀ p.1 → Keeps s₀ (f p x).1) (l : List α) : Keeps s₀ (l.foldl f p).1 := by
  induction l generalizing p with
  | nil => exact h
  | cons x l ih => exact ih (hf p x h)

/-! ### Memories -/

theorem Memory.wf_put (d : Byte) (k : Nat) (v : Byte) {m : List Host.Cell} (h : Memory.wf d m = true) :
    Memory.wf d (Tab.put d k v m) = true := Tab.wf_put (d := fun _ => d) k v h

theorem Memory.wf_cellsWrite (bs : List Byte) : ∀ (a : Nat) {m : List Host.Cell}, Memory.wf 0 m = true →
    Memory.wf 0 (cellsWrite m a bs) = true := by
  induction bs with
  | nil => intro a m h; exact h
  | cons b bs ih => intro a m h; exact ih _ (Memory.wf_put 0 a b h)

theorem Memory.wf_filter (d : Byte) (p : Host.Cell → Bool) {m : List Host.Cell} (h : Memory.wf d m = true) :
    Memory.wf d (m.filter p) = true := by
  obtain ⟨h1, h2⟩ := Tab.wf_iff.1 h
  exact Tab.wf_iff.2 ⟨Tab.rising_filter _ h1, fun e he => h2 e (List.mem_of_mem_filter he)⟩

theorem Memory.wf_fold {α : Type} (d : Byte) (f : α → Nat) (g : α → Byte) (l : List α) {m : List Host.Cell}
    (h : Memory.wf d m = true) : Memory.wf d (l.foldl (fun m c => Tab.put d (f c) (g c) m) m) = true := by
  induction l generalizing m with
  | nil => exact h
  | cons x l ih => exact ih (Memory.wf_put d _ _ h)

/-! ### The plain updates -/

theorem State.setReg_keeps (h : Keeps s₀ s) (a : Nat) (w : Word) : Keeps s₀ (s.setReg a w) := by
  refine h.trans ⟨rfl, le_refl _, rfl, fun k => ?_⟩
  obtain ⟨k1, k⟩ := State.wf_iff.1 k
  exact State.wf_iff.2 ⟨Tab.wf_put a w k1, k⟩

theorem State.p_keeps (h : Keeps s₀ s) (f : FRef) (v : Nat) : Keeps s₀ (s.p f v) := State.setReg_keeps h _ _
theorem State.pb_keeps (h : Keeps s₀ s) (f : FRef) (b : Bool) : Keeps s₀ (s.pb f b) := State.p_keeps h _ _
theorem State.inc_keeps (h : Keeps s₀ s) (f : FRef) : Keeps s₀ (s.inc f) := State.p_keeps h _ _
theorem State.incBy_keeps (h : Keeps s₀ s) (f : FRef) (n : Nat) : Keeps s₀ (s.incBy f n) := State.p_keeps h _ _
theorem State.incSatBy_keeps (h : Keeps s₀ s) (f : FRef) (n : Nat) : Keeps s₀ (s.incSatBy f n) := State.p_keeps h _ _
theorem State.incSat_keeps (h : Keeps s₀ s) (f : FRef) : Keeps s₀ (s.incSat f) := State.p_keeps h _ _

theorem State.resetRegs_keeps (h : Keeps s₀ s) (lo hi : Nat) (mask : Nat → Word) : Keeps s₀ (s.resetRegs lo hi mask) := by
  refine h.trans ⟨rfl, le_refl _, rfl, fun k => ?_⟩
  obtain ⟨k1, k⟩ := State.wf_iff.1 k
  exact State.wf_iff.2 ⟨Tab.wf_remap
    (fun a w => if lo ≤ a ∧ a < hi then (w &&& ~~~(mask a)) ||| (resetWord a &&& mask a) else w) k1, k⟩

theorem State.store_keeps (h : Keeps s₀ s) (a : Nat) (bs : List Byte) : Keeps s₀ (s.store a bs) := by
  refine h.trans ⟨rfl, le_refl _, rfl, fun k => ?_⟩
  obtain ⟨k1, k2, k⟩ := State.wf_iff.1 k
  exact State.wf_iff.2 ⟨k1, Memory.wf_cellsWrite bs a k2, k⟩

theorem Keeps.engWrite (h : Keeps s₀ s) (a : Nat) (bs : List Byte) :
    Keeps s₀ { s with engMem := cellsWrite s.engMem a bs } := by
  refine h.trans ⟨rfl, le_refl _, rfl, fun k => ?_⟩
  obtain ⟨k1, k2, k3, k⟩ := State.wf_iff.1 k
  exact State.wf_iff.2 ⟨k1, k2, Memory.wf_cellsWrite bs a k3, k⟩

theorem State.drawn_keeps (h : Keeps s₀ s) : Keeps s₀ s.drawn := h.other rfl rfl rfl rfl rfl rfl rfl rfl rfl

theorem State.pFree_keeps (h : Keeps s₀ s) (f : FRef) : Keeps s₀ (s.pFree f) := by
  unfold State.pFree
  exact State.drawn_keeps (State.p_keeps h _ _)

theorem State.advance_stamps (s : State) (dt : Nat) : (s.advance dt).time.stamps = s.time.stamps := by
  cases h : s.pwr.mode <;> simp [State.advance, h]

theorem State.advance_keeps (h : Keeps s₀ s) (dt : Nat) : Keeps s₀ (s.advance dt) := by
  refine h.trans ⟨State.advance_pending s dt, ?_, ?_, fun k => ?_⟩
  · rw [State.advance_clock]; exact Nat.le_add_right _ _
  · rw [State.identity, State.advance_pins, State.identity]
  · rw [State.wf_iff] at k ⊢
    rw [State.advance_regs, State.advance_mem, State.advance_engMem, State.advance_flash, State.advance_bus,
      State.advance_stamps]
    exact k

@[simp] theorem errInsert_length (r : ErrRecord) (l : List ErrRecord) : (errInsert r l).length = l.length + 1 := by
  induction l with
  | nil => rfl
  | cons x xs ih =>
    unfold errInsert
    split
    · rfl
    · simp [ih]

theorem State.errLog_keeps (h : Keeps s₀ s) (r : ErrRecord) : Keeps s₀ (s.errLog r) := by
  unfold State.errLog
  refine Keeps.ite ?_ h
  split
  · next hl =>
    refine h.trans ⟨rfl, le_refl _, rfl, fun k => ?_⟩
    obtain ⟨k1, k2, k3, k4, _, k6⟩ := State.wf_iff.1 k
    exact State.wf_iff.2 ⟨k1, k2, k3, k4, by simp; omega, k6⟩
  · next hl =>
    apply State.incSat_keeps
    refine h.trans ⟨rfl, le_refl _, rfl, fun k => ?_⟩
    obtain ⟨k1, k2, k3, k4, k5, k6⟩ := State.wf_iff.1 k
    exact State.wf_iff.2 ⟨k1, k2, k3, k4, by simp; omega, k6⟩

end Sys2Proof.Machine
end

