-- ==== Sys2Proof/Laws/KeepOps.lean ====
section
/-! SUPPORT. What the operations of Machine/Ops.lean keep. -/

set_option linter.all false

namespace Sys2Proof.Machine

theorem State.clkRefresh_keeps {s₀ s : State} (h : Keeps s₀ s) : Keeps s₀ (State.clkRefresh s) := by
  unfold State.clkRefresh
  repeat first
    | (extract_lets +onlyGivenNames x; first
      | (refine (have hx : Keeps s₀ x := ?_; ?_); (on_goal 2 => (clear_value x; rename' x => y)); subst x)
      | (refine (have hx : Keeps s₀ x.1 := ?_; ?_); (on_goal 2 => (clear_value x; rename' x => y)); subst x)
      | (clear_value x; rename' x => y))
    | with_reducible first
      | assumption | apply Keeps.ite | refine Keeps.fold ?_ (fun _ _ _ => ?_) _ | apply State.p_keeps
    | with_reducible refine Keeps.fields ?_ ?_ ?_ ?_
    | exact Or.inl rfl
    | rfl

theorem State.storeFree_keeps {s₀ s : State} (h : Keeps s₀ s) (a n : Nat) : Keeps s₀ (State.storeFree s a n) := by
  unfold State.storeFree
  repeat first
    | with_reducible first
      | assumption | apply State.drawn_keeps | apply State.store_keeps

theorem State.logIgnored_keeps {s₀ s : State} (h : Keeps s₀ s) (m a : Nat) (v : Word) :
    Keeps s₀ (State.logIgnored s m a v) := by
  unfold State.logIgnored
  repeat first
    | with_reducible first
      | assumption | apply State.errLog_keeps

theorem pulsePins_keeps {s₀ s : State} (h : Keeps s₀ s) (pins : Nat) (l : List Nat) : Keeps s₀ (pulsePins s pins l) := by
  induction l generalizing s with
  | nil => exact h
  | cons p ps ih =>
    unfold pulsePins
    repeat first
      | with_reducible first
        | assumption | apply Keeps.ite | apply ih | apply State.p_keeps | apply pulseEnd_keeps
      | with_reducible refine Keeps.fields ?_ ?_ ?_ ?_
      | exact Or.inl rfl
      | rfl

theorem State.raiseMark_keeps {s₀ s : State} (h : Keeps s₀ s) (r : RaiseInfo) : Keeps s₀ (State.raiseMark s r) := by
  unfold State.raiseMark
  repeat first
    | with_reducible first
      | assumption | apply Keeps.ite
    | with_reducible refine Keeps.fields ?_ ?_ ?_ ?_
    | exact Or.inl rfl
    | rfl

theorem State.raiseSet_keeps {s₀ s : State} (h : Keeps s₀ s) (r : RaiseInfo) : Keeps s₀ (State.raiseSet s r) := by
  unfold State.raiseSet
  repeat first
    | (extract_lets +onlyGivenNames x; first
      | (refine (have hx : Keeps s₀ x := ?_; ?_); (on_goal 2 => (clear_value x; rename' x => y)); subst x)
      | (refine (have hx : Keeps s₀ x.1 := ?_; ?_); (on_goal 2 => (clear_value x; rename' x => y)); subst x)
      | (clear_value x; rename' x => y))
    | with_reducible first
      | assumption | apply Keeps.ite | apply State.p_keeps | apply pulsePins_keeps | apply State.raiseMark_keeps

theorem State.busFailLog_keeps {s₀ s : State} (h : Keeps s₀ s) (r : ErrRecord) :
    Keeps s₀ (State.busFailLog s r) := by
  unfold State.busFailLog
  repeat first
    | with_reducible first
      | assumption | apply State.p_keeps | apply State.inc_keeps | apply State.errLog_keeps

theorem State.setQueue_keeps {s₀ s : State} (h : Keeps s₀ s) (k : Nat) (q : DmcQueue) :
    Keeps s₀ (State.setQueue s k q) := by
  unfold State.setQueue
  repeat first
    | with_reducible first
      | assumption
    | with_reducible refine Keeps.fields ?_ ?_ ?_ ?_
    | exact Or.inl rfl
    | rfl

theorem State.queueGranule_keeps {s₀ s : State} (h : Keeps s₀ s) (write : Bool) (qos a n : Nat) (on : List Bool) (g : Nat) :
    Keeps s₀ (State.queueGranule s write qos a n on g) := by
  unfold State.queueGranule
  repeat first
    | (extract_lets +onlyGivenNames x; first
      | (refine (have hx : Keeps s₀ x := ?_; ?_); (on_goal 2 => (clear_value x; rename' x => y)); subst x)
      | (refine (have hx : Keeps s₀ x.1 := ?_; ?_); (on_goal 2 => (clear_value x; rename' x => y)); subst x)
      | (clear_value x; rename' x => y))
    | with_reducible first
      | assumption | apply Keeps.ite | apply State.setQueue_keeps
    | with_reducible refine Keeps.fields ?_ ?_ ?_ ?_
    | exact Or.inl rfl
    | rfl

theorem State.queueSettle_keeps {s₀ s : State} (h : Keeps s₀ s) (a n : Nat) :
    Keeps s₀ (State.queueSettle s a n) := by
  unfold State.queueSettle
  repeat first
    | (extract_lets +onlyGivenNames x; first
      | (refine (have hx : Keeps s₀ x := ?_; ?_); (on_goal 2 => (clear_value x; rename' x => y)); subst x)
      | (refine (have hx : Keeps s₀ x.1 := ?_; ?_); (on_goal 2 => (clear_value x; rename' x => y)); subst x)
      | (clear_value x; rename' x => y))
    | with_reducible first
      | assumption | apply Keeps.ite | refine Keeps.fold ?_ (fun _ _ _ => ?_) _ | apply State.setQueue_keeps

theorem State.queueTake_keeps {s₀ s : State} (h : Keeps s₀ s) (write : Bool) (qos a n : Nat) (on : List Bool) :
    Keeps s₀ (State.queueTake s write qos a n on) := by
  unfold State.queueTake
  repeat first
    | with_reducible first
      | assumption | apply Keeps.ite | refine Keeps.fold ?_ (fun _ _ _ => ?_) _ | apply State.queueGranule_keeps

theorem State.queueBurst_keeps {s₀ s : State} (h : Keeps s₀ s) (write : Bool) (qos a n : Nat) (on : List Bool) :
    Keeps s₀ (State.queueBurst s write qos a n on) := by
  unfold State.queueBurst
  repeat first
    | with_reducible first
      | assumption | apply State.queueSettle_keeps | apply State.queueTake_keeps

theorem State.countBurst_keeps {s₀ s : State} (h : Keeps s₀ s) (m a n : Nat) :
    Keeps s₀ (State.countBurst s m a n) := by
  unfold State.countBurst
  repeat first
    | with_reducible first
      | assumption | apply Keeps.ite | refine Keeps.fold ?_ (fun _ _ _ => ?_) _ | apply State.p_keeps
      | apply State.inc_keeps
    | split
    | with_reducible refine Keeps.fields ?_ ?_ ?_ ?_
    | exact Or.inl rfl
    | rfl

theorem State.logStore_keeps {s₀ s : State} (h : Keeps s₀ s) (base size wr seq : Nat) (drop : Bool) (i : Nat)
    (es : List (RaiseInfo × Nat)) : Keeps s₀ (State.logStore s base size wr seq drop i es) := by
  induction es generalizing s i with
  | nil => exact h
  | cons e es ih => exact ih (State.store_keeps h _ _) _

theorem State.logPut_keeps {s₀ s : State} (h : Keeps s₀ s) (r : RaiseInfo) : Keeps s₀ (State.logPut s r) := by
  unfold State.logPut
  extract_lets size base old wr seq drop es room a x y z w
  have hx : Keeps s₀ x := State.p_keeps h _ _
  have hy : Keeps s₀ y :=
    Keeps.ite hx (Keeps.ite (State.incSat_keeps hx _) (State.countBurst_keeps (State.queueBurst_keeps hx _ _ _ _ _) _ _ _))
  have hw : Keeps s₀ w := State.p_keeps (State.logStore_keeps hy _ _ _ _ _ _ _) _ _
  exact hw.fields rfl (.inl rfl) rfl

theorem State.logAppend_keeps {s₀ s : State} (h : Keeps s₀ s) (r : RaiseInfo) : Keeps s₀ (State.logAppend s r) := by
  unfold State.logAppend
  repeat first
    | (extract_lets +onlyGivenNames x; first
      | (refine (have hx : Keeps s₀ x := ?_; ?_); (on_goal 2 => (clear_value x; rename' x => y)); subst x)
      | (refine (have hx : Keeps s₀ x.1 := ?_; ?_); (on_goal 2 => (clear_value x; rename' x => y)); subst x)
      | (have z : TimeState := x; clear z; rename' x => y)
      | (clear_value x; rename' x => y))
    | with_reducible first
      | assumption | apply Keeps.ite | apply State.pb_keeps | apply State.raiseSet_keeps
      | apply State.busFailLog_keeps | apply State.logPut_keeps

theorem State.noteHealth_keeps {s₀ s : State} (h : Keeps s₀ s) (mask : Nat) :
    Keeps s₀ (State.noteHealth s mask) := by
  unfold State.noteHealth
  repeat first
    | with_reducible first
      | assumption
    | with_reducible refine Keeps.fields ?_ ?_ ?_ ?_
    | exact Or.inl rfl
    | rfl

theorem State.noteEvent_keeps {s₀ s : State} (h : Keeps s₀ s) (source : Nat) :
    Keeps s₀ (State.noteEvent s source) := by
  unfold State.noteEvent
  repeat first
    | with_reducible first
      | assumption | apply Keeps.ite | apply State.noteHealth_keeps
    | with_reducible refine Keeps.fields ?_ ?_ ?_ ?_
    | exact Or.inl rfl
    | rfl

theorem State.raiseInfo_keeps {s₀ s : State} (h : Keeps s₀ s) (r : RaiseInfo) : Keeps s₀ (State.raiseInfo s r) := by
  unfold State.raiseInfo
  repeat first
    | (extract_lets +onlyGivenNames x; first
      | (refine (have hx : Keeps s₀ x := ?_; ?_); (on_goal 2 => (clear_value x; rename' x => y)); subst x)
      | (refine (have hx : Keeps s₀ x.1 := ?_; ?_); (on_goal 2 => (clear_value x; rename' x => y)); subst x)
      | (clear_value x; rename' x => y))
    | with_reducible first
      | assumption | apply Keeps.ite | apply State.raiseSet_keeps | apply State.logAppend_keeps
      | apply State.noteEvent_keeps

theorem State.raise_keeps {s₀ s : State} (h : Keeps s₀ s) (source arg : Nat) :
    Keeps s₀ (State.raise s source arg) := by
  unfold State.raise
  repeat first
    | with_reducible first
      | assumption | apply State.raiseInfo_keeps

theorem State.raiseHeadAt_keeps {s₀ s : State} (h : Keeps s₀ s) (n causes : Nat) (wall : Int) (count : Nat) :
    Keeps s₀ (State.raiseHeadAt s n causes wall count) := by
  unfold State.raiseHeadAt
  repeat first
    | (extract_lets +onlyGivenNames x; first
      | (refine (have hx : Keeps s₀ x := ?_; ?_); (on_goal 2 => (clear_value x; rename' x => y)); subst x)
      | (refine (have hx : Keeps s₀ x.1 := ?_; ?_); (on_goal 2 => (clear_value x; rename' x => y)); subst x)
      | (clear_value x; rename' x => y))
    | with_reducible first
      | assumption | apply Keeps.ite | apply State.raiseInfo_keeps

theorem State.raiseHead_keeps {s₀ s : State} (h : Keeps s₀ s) (n causes : Nat) :
    Keeps s₀ (State.raiseHead s n causes) := by
  unfold State.raiseHead
  repeat first
    | with_reducible first
      | assumption | apply State.raiseHeadAt_keeps

theorem State.dramUncorr_keeps {s₀ s : State} (h : Keeps s₀ s) (a : Nat) : Keeps s₀ (State.dramUncorr s a) := by
  unfold State.dramUncorr
  repeat first
    | (extract_lets +onlyGivenNames x; first
      | (refine (have hx : Keeps s₀ x := ?_; ?_); (on_goal 2 => (clear_value x; rename' x => y)); subst x)
      | (refine (have hx : Keeps s₀ x.1 := ?_; ?_); (on_goal 2 => (clear_value x; rename' x => y)); subst x)
      | (clear_value x; rename' x => y))
    | with_reducible first
      | assumption | apply State.p_keeps | apply State.inc_keeps | apply State.raise_keeps

theorem State.busFail_keeps {s₀ s : State} (h : Keeps s₀ s) (r : ErrRecord) : Keeps s₀ (State.busFail s r) := by
  unfold State.busFail
  repeat first
    | with_reducible first
      | assumption | apply State.busFailLog_keeps | apply State.raiseInfo_keeps

end Sys2Proof.Machine
end

