-- ==== Sys2Proof/Laws/KeepOperands.lean ====
section
/-! SUPPORT. What the operations of Machine/Operands.lean keep. -/

set_option linter.all false

namespace Sys2Proof.Machine

theorem State.ctlQueue_keeps {s₀ s : State} (h : Keeps s₀ s) (r : BusReq) : Keeps s₀ (State.ctlQueue s r) := by
  unfold State.ctlQueue
  repeat first
    | with_reducible first
      | assumption
    | with_reducible refine Keeps.fields ?_ ?_ ?_ ?_
    | exact Or.inl rfl
    | rfl

theorem State.logTaken_keeps {s₀ s : State} (h : Keeps s₀ s) (m a : Nat) (v : Word) (t : Taken) :
    Keeps s₀ (State.logTaken s m a v t) := by
  unfold State.logTaken
  repeat first
    | (extract_lets +onlyGivenNames x; first
      | (refine (have hx : Keeps s₀ x := ?_; ?_); (on_goal 2 => (clear_value x; rename' x => y)); subst x)
      | (refine (have hx : Keeps s₀ x.1 := ?_; ?_); (on_goal 2 => (clear_value x; rename' x => y)); subst x)
      | (clear_value x; rename' x => y))
    | with_reducible first
      | assumption | apply Keeps.ite | apply State.errLog_keeps

theorem State.writeFields_keeps {s₀ s : State} (h : Keeps s₀ s) (m a : Nat) (v skip : Word) :
    Keeps s₀ (State.writeFields s m a v skip) := by
  unfold State.writeFields
  repeat first
    | (extract_lets +onlyGivenNames x; first
      | (refine (have hx : Keeps s₀ x := ?_; ?_); (on_goal 2 => (clear_value x; rename' x => y)); subst x)
      | (refine (have hx : Keeps s₀ x.1 := ?_; ?_); (on_goal 2 => (clear_value x; rename' x => y)); subst x)
      | (clear_value x; rename' x => y))
    | with_reducible first
      | assumption | apply State.setReg_keeps | apply State.logTaken_keeps

theorem State.ctlServed_keeps {s₀ s : State} (h : Keeps s₀ s) (m : Nat) : Keeps s₀ (State.ctlServed s m) := by
  unfold State.ctlServed
  repeat first
    | with_reducible first
      | assumption | apply State.p_keeps | apply State.inc_keeps

theorem State.respond_keeps {s₀ s : State} (h : Keeps s₀ s) (error : Bool) (data : List Byte) :
    Keeps s₀ (State.respond s error data) := by
  unfold State.respond
  repeat first
    | with_reducible first
      | assumption
    | with_reducible refine Keeps.fields ?_ ?_ ?_ ?_
    | exact Or.inl rfl
    | rfl

theorem State.ctlWrite_keeps {s₀ s : State} (h : Keeps s₀ s) (m a : Nat) (v : Word) {act : State → State}
    (ha : ∀ x, Keeps s₀ x → Keeps s₀ (act x)) : Keeps s₀ (State.ctlWrite s m a v act) := by
  unfold State.ctlWrite
  repeat first
    | with_reducible first
      | assumption | apply Keeps.ite | apply ha | apply State.busFail_keeps | apply State.ctlQueue_keeps
      | apply State.ctlServed_keeps | apply State.respond_keeps

theorem State.refuse_keeps {s₀ s : State} (h : Keeps s₀ s) (m a : Nat) (v : Word) :
    Keeps s₀ (State.refuse s m a v) := by
  unfold State.refuse
  repeat first
    | with_reducible first
      | assumption | apply State.errLog_keeps | apply State.respond_keeps

theorem State.setSnap_keeps {s₀ s : State} (h : Keeps s₀ s) (m a : Nat) (w : Word) :
    Keeps s₀ (State.setSnap s m a w) := by
  unfold State.setSnap
  repeat first
    | with_reducible first
      | assumption
    | with_reducible refine Keeps.fields ?_ ?_ ?_ ?_
    | exact Or.inl rfl
    | rfl

theorem State.setSnaps_keeps {s₀ s : State} (h : Keeps s₀ s) (m : Nat) (ws : List (Nat × Word)) :
    Keeps s₀ (State.setSnaps s m ws) := by
  unfold State.setSnaps
  repeat first
    | with_reducible first
      | assumption | refine Keeps.fold ?_ (fun _ _ _ => ?_) _ | apply State.setSnap_keeps

end Sys2Proof.Machine
end

