-- ==== Sys2Proof/Laws/KeepPorts.lean ====
section
/-! SUPPORT. What the operations of Machine/Ports.lean keep. -/

set_option linter.all false

namespace Sys2Proof.Machine

theorem State.setChan_keeps {s₀ s : State} (h : Keeps s₀ s) (ch : Nat) (c : DmcChan) :
    Keeps s₀ (State.setChan s ch c) := by
  unfold State.setChan
  repeat first
    | with_reducible first
      | assumption
    | with_reducible refine Keeps.fields ?_ ?_ ?_ ?_
    | exact Or.inl rfl
    | rfl

theorem State.chanServed_keeps {s₀ s : State} (h : Keeps s₀ s) (ch : Nat) : Keeps s₀ (State.chanServed s ch) := by
  unfold State.chanServed
  repeat first
    | with_reducible first
      | assumption | apply Keeps.ite | apply State.setChan_keeps
    | with_reducible refine Keeps.fields ?_ ?_ ?_ ?_
    | exact Or.inl rfl
    | rfl

theorem State.dramCorrected_keeps {s₀ s : State} (h : Keeps s₀ s) (ch n : Nat) :
    Keeps s₀ (State.dramCorrected s ch n) := by
  unfold State.dramCorrected
  repeat first
    | (extract_lets +onlyGivenNames x; first
      | (refine (have hx : Keeps s₀ x := ?_; ?_); (on_goal 2 => (clear_value x; rename' x => y)); subst x)
      | (refine (have hx : Keeps s₀ x.1 := ?_; ?_); (on_goal 2 => (clear_value x; rename' x => y)); subst x)
      | (clear_value x; rename' x => y))
    | with_reducible first
      | assumption | apply Keeps.ite | apply State.incBy_keeps | apply State.raise_keeps | apply State.setChan_keeps
    | with_reducible refine Keeps.fields ?_ ?_ ?_ ?_
    | exact Or.inl rfl
    | rfl

theorem State.eccRead_keeps {s₀ s : State} (h : Keeps s₀ s) (a n : Nat) (e : EccFind) :
    Keeps s₀ (State.eccRead s a n e).1 := by
  unfold State.eccRead
  repeat first
    | with_reducible first
      | assumption | apply Keeps.ite | apply Keeps.itePair | apply State.incSatBy_keeps
      | apply State.storeFree_keeps | apply State.dramUncorr_keeps | apply State.dramCorrected_keeps
    | dsimp -zeta only
    | split
    | with_reducible refine Keeps.fields ?_ ?_ ?_ ?_
    | exact Or.inl rfl
    | rfl

theorem State.stageWritten_keeps {s₀ s : State} (h : Keeps s₀ s) : Keeps s₀ (State.stageWritten s) := by
  unfold State.stageWritten
  repeat first
    | (extract_lets +onlyGivenNames x; first
      | (refine (have hx : Keeps s₀ x := ?_; ?_); (on_goal 2 => (clear_value x; rename' x => y)); subst x)
      | (refine (have hx : Keeps s₀ x.1 := ?_; ?_); (on_goal 2 => (clear_value x; rename' x => y)); subst x)
      | (clear_value x; rename' x => y))
    | with_reducible first
      | assumption | apply Keeps.ite | apply State.p_keeps | apply State.pb_keeps
    | with_reducible refine Keeps.fields ?_ ?_ ?_ ?_
    | exact Or.inl rfl
    | rfl

theorem State.storeData_keeps {s₀ s : State} (h : Keeps s₀ s) (a : Nat) (bs : List Byte) :
    Keeps s₀ (State.storeData s a bs) := by
  unfold State.storeData
  repeat first
    | with_reducible first
      | assumption | apply Keeps.ite | apply State.store_keeps | apply State.stageWritten_keeps

theorem State.storeMasked_keeps {s₀ s : State} (h : Keeps s₀ s) (a : Nat) (bs : List Byte) (on : List Bool) :
    Keeps s₀ (State.storeMasked s a bs on) := by
  unfold State.storeMasked
  repeat first
    | with_reducible first
      | assumption | apply Keeps.ite | refine Keeps.fold ?_ (fun _ _ _ => ?_) _ | apply State.storeData_keeps

theorem State.codecTraffic_keeps {s₀ s : State} (h : Keeps s₀ s) (k : Nat) : Keeps s₀ (State.codecTraffic s k) := by
  unfold State.codecTraffic
  repeat first
    | (extract_lets +onlyGivenNames x; first
      | (refine (have hx : Keeps s₀ x := ?_; ?_); (on_goal 2 => (clear_value x; rename' x => y)); subst x)
      | (refine (have hx : Keeps s₀ x.1 := ?_; ?_); (on_goal 2 => (clear_value x; rename' x => y)); subst x)
      | (clear_value x; rename' x => y))
    | with_reducible first
      | assumption | apply State.setQueue_keeps
    | with_reducible refine Keeps.fields ?_ ?_ ?_ ?_
    | exact Or.inl rfl
    | rfl

theorem State.codecEnds_keeps {s₀ s : State} (h : Keeps s₀ s) : Keeps s₀ (State.codecEnds s) := by
  unfold State.codecEnds
  repeat first
    | with_reducible first
      | assumption | refine Keeps.fold ?_ (fun _ _ _ => ?_) _ | apply State.codecTraffic_keeps

theorem State.stallTick_keeps {s₀ s : State} (h : Keeps s₀ s) (k : Nat) : Keeps s₀ (State.stallTick s k) := by
  unfold State.stallTick
  repeat first
    | (extract_lets +onlyGivenNames x; first
      | (refine (have hx : Keeps s₀ x := ?_; ?_); (on_goal 2 => (clear_value x; rename' x => y)); subst x)
      | (refine (have hx : Keeps s₀ x.1 := ?_; ?_); (on_goal 2 => (clear_value x; rename' x => y)); subst x)
      | (clear_value x; rename' x => y))
    | with_reducible first
      | assumption | apply Keeps.ite | apply State.setQueue_keeps
    | with_reducible refine Keeps.fields ?_ ?_ ?_ ?_
    | exact Or.inl rfl
    | rfl

theorem State.grantReq_keeps {s₀ s : State} (h : Keeps s₀ s) (p : PendReq) (sent : Nat) :
    Keeps s₀ (State.grantReq s p sent) := by
  unfold State.grantReq
  repeat first
    | (extract_lets +onlyGivenNames x; first
      | (refine (have hx : Keeps s₀ x := ?_; ?_); (on_goal 2 => (clear_value x; rename' x => y)); subst x)
      | (refine (have hx : Keeps s₀ x.1 := ?_; ?_); (on_goal 2 => (clear_value x; rename' x => y)); subst x)
      | (have z : BusState := x; clear z; rename' x => y)
      | (clear_value x; rename' x => y))
    | with_reducible first
      | assumption | apply Keeps.ite | refine Keeps.fold ?_ (fun _ _ _ => ?_) _ | apply State.p_keeps
      | apply State.queueSettle_keeps | apply State.queueTake_keeps | apply State.countBurst_keeps
      | apply State.chanServed_keeps
    | with_reducible refine Keeps.fields ?_ ?_ ?_ ?_
    | exact Or.inl rfl
    | rfl

theorem State.portYield_keeps {s₀ s : State} (h : Keeps s₀ s) (t m qos : Nat) :
    Keeps s₀ (State.portYield s t m qos) := by
  unfold State.portYield
  repeat first
    | (extract_lets +onlyGivenNames x; first
      | (refine (have hx : Keeps s₀ x := ?_; ?_); (on_goal 2 => (clear_value x; rename' x => y)); subst x)
      | (refine (have hx : Keeps s₀ x.1 := ?_; ?_); (on_goal 2 => (clear_value x; rename' x => y)); subst x)
      | (have z : BusState := x; clear z; rename' x => y)
      | (clear_value x; rename' x => y))
    | with_reducible first
      | assumption | apply Keeps.ite | refine Keeps.fold ?_ (fun _ _ _ => ?_) _ | apply State.p_keeps
      | apply State.grantReq_keeps
    | split
    | with_reducible refine Keeps.fields ?_ ?_ ?_ ?_
    | exact Or.inl rfl
    | rfl

theorem State.arrive_keeps {s₀ s : State} (h : Keeps s₀ s) (m qos a n : Nat) (write : Bool) (on : List Bool) :
    Keeps s₀ (State.arrive s m qos a n write on) := by
  unfold State.arrive
  repeat first
    | (extract_lets +onlyGivenNames x; first
      | (refine (have hx : Keeps s₀ x := ?_; ?_); (on_goal 2 => (clear_value x; rename' x => y)); subst x)
      | (refine (have hx : Keeps s₀ x.1 := ?_; ?_); (on_goal 2 => (clear_value x; rename' x => y)); subst x)
      | (have z : BusState := x; clear z; rename' x => y)
      | (clear_value x; rename' x => y))
    | with_reducible first
      | assumption | apply Keeps.ite | refine Keeps.fold ?_ (fun _ _ _ => ?_) _ | apply State.p_keeps
      | apply State.chanServed_keeps | apply State.portYield_keeps
    | with_reducible refine Keeps.fields ?_ ?_ ?_ ?_
    | exact Or.inl rfl
    | rfl

theorem State.drainWrite_keeps {s₀ s : State} (h : Keeps s₀ s) (r : PendReq) : Keeps s₀ (State.drainWrite s r) := by
  unfold State.drainWrite
  repeat first
    | (extract_lets +onlyGivenNames x; first
      | (refine (have hx : Keeps s₀ x := ?_; ?_); (on_goal 2 => (clear_value x; rename' x => y)); subst x)
      | (refine (have hx : Keeps s₀ x.1 := ?_; ?_); (on_goal 2 => (clear_value x; rename' x => y)); subst x)
      | (clear_value x; rename' x => y))
    | with_reducible first
      | assumption | apply Keeps.ite | apply State.queueBurst_keeps | apply State.storeMasked_keeps

theorem State.masterReset_keeps {s₀ s : State} (h : Keeps s₀ s) (m : Nat) : Keeps s₀ (State.masterReset s m) := by
  unfold State.masterReset
  repeat first
    | (extract_lets +onlyGivenNames x; first
      | (refine (have hx : Keeps s₀ x := ?_; ?_); (on_goal 2 => (clear_value x; rename' x => y)); subst x)
      | (refine (have hx : Keeps s₀ x.1 := ?_; ?_); (on_goal 2 => (clear_value x; rename' x => y)); subst x)
      | (have z : BusState := x; clear z; rename' x => y)
      | (clear_value x; rename' x => y))
    | with_reducible first
      | assumption | apply Keeps.ite | refine Keeps.fold ?_ (fun _ _ _ => ?_) _ | apply State.countBurst_keeps
      | apply State.drainWrite_keeps
    | with_reducible refine Keeps.fields ?_ ?_ ?_ ?_
    | exact Or.inl rfl
    | rfl

theorem drainEnd_keeps {s₀ s : State} (h : Keeps s₀ s) (m : Nat) : Keeps s₀ (drainEnd m s) := by
  unfold drainEnd
  repeat first
    | (extract_lets +onlyGivenNames x; first
      | (refine (have hx : Keeps s₀ x := ?_; ?_); (on_goal 2 => (clear_value x; rename' x => y)); subst x)
      | (refine (have hx : Keeps s₀ x.1 := ?_; ?_); (on_goal 2 => (clear_value x; rename' x => y)); subst x)
      | (have z : BusState := x; clear z; rename' x => y)
      | (clear_value x; rename' x => y))
    | with_reducible first
      | assumption | apply State.p_keeps | apply State.inc_keeps | apply State.raise_keeps
    | split
    | with_reducible refine Keeps.fields ?_ ?_ ?_ ?_
    | exact Or.inl rfl
    | rfl

theorem State.readBurst_keeps {s₀ s : State} (h : Keeps s₀ s) (m qos id a n : Nat) (e : EccFind) :
    Keeps s₀ (State.readBurst s m qos id a n e).1 := by
  unfold State.readBurst
  repeat first
    | (extract_lets +onlyGivenNames x; first
      | (refine (have hx : Keeps s₀ x := ?_; ?_); (on_goal 2 => (clear_value x; rename' x => y)); subst x)
      | (refine (have hx : Keeps s₀ x.1 := ?_; ?_); (on_goal 2 => (clear_value x; rename' x => y)); subst x)
      | (clear_value x; rename' x => y))
    | with_reducible first
      | assumption | apply Keeps.ite | apply Keeps.itePair | apply State.errLog_keeps
      | apply State.queueSettle_keeps | apply State.queueTake_keeps | apply State.countBurst_keeps
      | apply State.busFail_keeps | apply State.eccRead_keeps | apply State.arrive_keeps
    | dsimp -zeta only
    | split
    | with_reducible refine Keeps.fields ?_ ?_ ?_ ?_
    | exact Or.inl rfl
    | rfl

theorem State.readBursts_keeps {s₀ s : State} (h : Keeps s₀ s) (m qos id : Nat) (e : EccFind) (l : List (Nat × Nat)) :
    Keeps s₀ (State.readBursts s m qos id e l).1 := by
  induction l generalizing s e with
  | nil => unfold State.readBursts; exact h
  | cons p ps ih =>
    unfold State.readBursts
    exact ih (State.readBurst_keeps h _ _ _ _ _ _) _

theorem State.writeBurst_keeps {s₀ s : State} (h : Keeps s₀ s) (m qos id a : Nat) (bs : List Byte) (on : List Bool) :
    Keeps s₀ (State.writeBurst s m qos id a bs on).1 := by
  unfold State.writeBurst
  repeat first
    | with_reducible first
      | assumption | apply Keeps.ite | apply Keeps.itePair | apply State.queueBurst_keeps
      | apply State.countBurst_keeps | apply State.raise_keeps | apply State.busFail_keeps
      | apply State.storeMasked_keeps | apply State.arrive_keeps
    | dsimp -zeta only
    | split
    | with_reducible refine Keeps.fields ?_ ?_ ?_ ?_
    | exact Or.inl rfl
    | rfl

theorem State.writeBursts_keeps {s₀ s : State} (h : Keeps s₀ s) (m qos id : Nat) (l : List (Nat × Nat)) (bs : List Byte)
    (on : List Bool) : Keeps s₀ (State.writeBursts s m qos id l bs on).1 := by
  induction l generalizing s bs on with
  | nil => unfold State.writeBursts; exact h
  | cons p ps ih =>
    unfold State.writeBursts
    exact ih (State.writeBurst_keeps h _ _ _ _ _ _) _ _

theorem State.portReady_keeps {s₀ s : State} (h : Keeps s₀ s) (m : Nat) : Keeps s₀ (State.portReady s m) := by
  unfold State.portReady
  repeat first
    | with_reducible first
      | assumption | apply Keeps.ite | apply drainEnd_keeps

theorem State.dmaWrite_keeps {s₀ s : State} (h : Keeps s₀ s) (m own a : Nat) (bs : List Byte) :
    Keeps s₀ (State.dmaWrite s m own a bs).1 := by
  unfold State.dmaWrite
  repeat first
    | (extract_lets +onlyGivenNames x; first
      | (refine (have hx : Keeps s₀ x := ?_; ?_); (on_goal 2 => (clear_value x; rename' x => y)); subst x)
      | (refine (have hx : Keeps s₀ x.1 := ?_; ?_); (on_goal 2 => (clear_value x; rename' x => y)); subst x)
      | (clear_value x; rename' x => y))
    | with_reducible first
      | assumption | apply State.writeBursts_keeps | apply State.portReady_keeps
    | dsimp -zeta only

theorem State.dmaRead_keeps {s₀ s : State} (h : Keeps s₀ s) (m own a n : Nat) :
    Keeps s₀ (State.dmaRead s m own a n).1 := by
  unfold State.dmaRead
  repeat first
    | (extract_lets +onlyGivenNames x; first
      | (refine (have hx : Keeps s₀ x := ?_; ?_); (on_goal 2 => (clear_value x; rename' x => y)); subst x)
      | (refine (have hx : Keeps s₀ x.1 := ?_; ?_); (on_goal 2 => (clear_value x; rename' x => y)); subst x)
      | (clear_value x; rename' x => y))
    | with_reducible first
      | assumption | apply State.readBursts_keeps | apply State.portReady_keeps
    | dsimp -zeta only

theorem State.fetchRead_keeps {s₀ s : State} (h : Keeps s₀ s) (m own : Nat) (escalated : Bool) (a n : Nat) (e : EccFind) :
    Keeps s₀ (State.fetchRead s m own escalated a n e).1 := by
  unfold State.fetchRead
  repeat first
    | (extract_lets +onlyGivenNames x; first
      | (refine (have hx : Keeps s₀ x := ?_; ?_); (on_goal 2 => (clear_value x; rename' x => y)); subst x)
      | (refine (have hx : Keeps s₀ x.1 := ?_; ?_); (on_goal 2 => (clear_value x; rename' x => y)); subst x)
      | (clear_value x; rename' x => y))
    | with_reducible first
      | assumption | apply State.readBursts_keeps | apply State.portReady_keeps
    | dsimp -zeta only

end Sys2Proof.Machine
end

