-- ==== Sys2Proof/Laws/KeepTime.lean ====
section
/-! SUPPORT. What the operations of Machine/Time.lean keep. -/

set_option linter.all false

namespace Sys2Proof.Machine

theorem State.kicked_keeps {s₀ s : State} (h : Keeps s₀ s) : Keeps s₀ (State.kicked s) := by
  unfold State.kicked
  repeat first
    | with_reducible first
      | assumption
    | with_reducible refine Keeps.fields ?_ ?_ ?_ ?_
    | exact Or.inl rfl
    | rfl

theorem rateWrite_keeps {s₀ s : State} (h : Keeps s₀ s) (v : Word) : Keeps s₀ (rateWrite v s) := by
  unfold rateWrite
  repeat first
    | (extract_lets +onlyGivenNames x; first
      | (refine (have hx : Keeps s₀ x := ?_; ?_); (on_goal 2 => (clear_value x; rename' x => y)); subst x)
      | (refine (have hx : Keeps s₀ x.1 := ?_; ?_); (on_goal 2 => (clear_value x; rename' x => y)); subst x)
      | (have z : TimeState := x; clear z; rename' x => y)
      | (clear_value x; rename' x => y))
    | with_reducible first
      | assumption | apply State.p_keeps | apply State.kicked_keeps
    | with_reducible refine Keeps.fields ?_ ?_ ?_ ?_
    | exact Or.inl rfl
    | rfl

theorem State.readyFall_keeps {s₀ s : State} (h : Keeps s₀ s) : Keeps s₀ (State.readyFall s) := by
  unfold State.readyFall
  repeat first
    | with_reducible first
      | assumption | apply Keeps.ite | apply State.p_keeps
    | with_reducible refine Keeps.fields ?_ ?_ ?_ ?_
    | exact Or.inl rfl
    | rfl

theorem State.genRefresh_keeps {s₀ s : State} (h : Keeps s₀ s) : Keeps s₀ (State.genRefresh s) := by
  unfold State.genRefresh
  repeat first
    | (extract_lets +onlyGivenNames x; first
      | (refine (have hx : Keeps s₀ x := ?_; ?_); (on_goal 2 => (clear_value x; rename' x => y)); subst x)
      | (refine (have hx : Keeps s₀ x.1 := ?_; ?_); (on_goal 2 => (clear_value x; rename' x => y)); subst x)
      | (clear_value x; rename' x => y))
    | with_reducible first
      | assumption | apply Keeps.ite
    | with_reducible refine Keeps.fields ?_ ?_ ?_ ?_
    | exact Or.inl rfl
    | rfl

theorem timeEnter_keeps {s₀ s : State} (h : Keeps s₀ s) (new : Nat) : Keeps s₀ (timeEnter new s) := by
  unfold timeEnter
  repeat first
    | (extract_lets +onlyGivenNames x; first
      | (refine (have hx : Keeps s₀ x := ?_; ?_); (on_goal 2 => (clear_value x; rename' x => y)); subst x)
      | (refine (have hx : Keeps s₀ x.1 := ?_; ?_); (on_goal 2 => (clear_value x; rename' x => y)); subst x)
      | (have z : TimeState := x; clear z; rename' x => y)
      | (clear_value x; rename' x => y))
    | with_reducible first
      | assumption | apply Keeps.ite | apply State.p_keeps | apply State.pb_keeps | apply State.raise_keeps
      | apply State.readyFall_keeps
    | with_reducible refine Keeps.fields ?_ ?_ ?_ ?_
    | exact Or.inl rfl
    | rfl

theorem stateRequest_keeps {s₀ s : State} (h : Keeps s₀ s) (m : Nat) (v : Word) :
    Keeps s₀ (stateRequest m v s) := by
  unfold stateRequest
  repeat first
    | (extract_lets +onlyGivenNames x; first
      | (refine (have hx : Keeps s₀ x := ?_; ?_); (on_goal 2 => (clear_value x; rename' x => y)); subst x)
      | (refine (have hx : Keeps s₀ x.1 := ?_; ?_); (on_goal 2 => (clear_value x; rename' x => y)); subst x)
      | (clear_value x; rename' x => y))
    | with_reducible first
      | assumption | apply Keeps.ite | apply State.errLog_keeps | apply timeEnter_keeps

theorem kickTimeout_keeps {s₀ s : State} (h : Keeps s₀ s) : Keeps s₀ (kickTimeout s) := by
  unfold kickTimeout
  repeat first
    | (extract_lets +onlyGivenNames x; first
      | (refine (have hx : Keeps s₀ x := ?_; ?_); (on_goal 2 => (clear_value x; rename' x => y)); subst x)
      | (refine (have hx : Keeps s₀ x.1 := ?_; ?_); (on_goal 2 => (clear_value x; rename' x => y)); subst x)
      | (clear_value x; rename' x => y))
    | with_reducible first
      | assumption | apply Keeps.ite | apply timeEnter_keeps

theorem holdoverLimit_keeps {s₀ s : State} (h : Keeps s₀ s) : Keeps s₀ (holdoverLimit s) := by
  unfold holdoverLimit
  repeat first
    | (extract_lets +onlyGivenNames x; first
      | (refine (have hx : Keeps s₀ x := ?_; ?_); (on_goal 2 => (clear_value x; rename' x => y)); subst x)
      | (refine (have hx : Keeps s₀ x.1 := ?_; ?_); (on_goal 2 => (clear_value x; rename' x => y)); subst x)
      | (clear_value x; rename' x => y))
    | with_reducible first
      | assumption | apply Keeps.ite | apply timeEnter_keeps

theorem timeCtrlWrite_keeps {s₀ s : State} (h : Keeps s₀ s) (m : Nat) (v : Word) :
    Keeps s₀ (timeCtrlWrite m v s) := by
  unfold timeCtrlWrite
  repeat first
    | with_reducible first
      | assumption | apply State.writeFields_keeps | apply kickTimeout_keeps | apply holdoverLimit_keeps

theorem stepWrite_keeps {s₀ s : State} (h : Keeps s₀ s) (m : Nat) (v : Word) : Keeps s₀ (stepWrite m v s) := by
  unfold stepWrite
  repeat first
    | (extract_lets +onlyGivenNames x; first
      | (refine (have hx : Keeps s₀ x := ?_; ?_); (on_goal 2 => (clear_value x; rename' x => y)); subst x)
      | (refine (have hx : Keeps s₀ x.1 := ?_; ?_); (on_goal 2 => (clear_value x; rename' x => y)); subst x)
      | (have z : TimeState := x; clear z; rename' x => y)
      | (clear_value x; rename' x => y))
    | with_reducible first
      | assumption | apply Keeps.ite | apply State.p_keeps | apply State.pb_keeps | apply State.incSat_keeps
      | apply State.raise_keeps | apply State.refuse_keeps
    | with_reducible refine Keeps.fields ?_ ?_ ?_ ?_
    | exact Or.inl rfl
    | rfl

theorem State.stamp_keeps {s₀ s : State} (h : Keeps s₀ s) (code : Nat) (enabled : Bool) :
    Keeps s₀ (State.stamp s code enabled) := by
  unfold State.stamp
  apply Keeps.ite h
  split
  · next hl =>
    refine h.trans ⟨rfl, le_refl _, rfl, fun k => ?_⟩
    obtain ⟨k1, k2, k3, k4, k5, _⟩ := State.wf_iff.1 k
    exact State.wf_iff.2 ⟨k1, k2, k3, k4, k5, by simp; omega⟩
  · exact State.pb_keeps h _ _

theorem State.txStamp_keeps {s₀ s : State} (h : Keeps s₀ s) (p tag : Nat) : Keeps s₀ (State.txStamp s p tag) := by
  unfold State.txStamp
  repeat first
    | (extract_lets +onlyGivenNames x; first
      | (refine (have hx : Keeps s₀ x := ?_; ?_); (on_goal 2 => (clear_value x; rename' x => y)); subst x)
      | (refine (have hx : Keeps s₀ x.1 := ?_; ?_); (on_goal 2 => (clear_value x; rename' x => y)); subst x)
      | (have z : TimeState := x; clear z; rename' x => y)
      | (clear_value x; rename' x => y))
    | with_reducible first
      | assumption | apply Keeps.ite | apply State.p_keeps | apply State.pb_keeps | apply State.raise_keeps
    | with_reducible refine Keeps.fields ?_ ?_ ?_ ?_
    | exact Or.inl rfl
    | rfl

theorem stampRead_keeps {s₀ s : State} (h : Keeps s₀ s) (m : Nat) : Keeps s₀ (stampRead m s).1 := by
  unfold stampRead
  extract_lets q
  refine Keeps.itePair h ?_
  apply State.setSnaps_keeps
  refine h.trans ⟨rfl, le_refl _, rfl, fun k => ?_⟩
  obtain ⟨k1, k2, k3, k4, k5, k6⟩ := State.wf_iff.1 k
  exact State.wf_iff.2 ⟨k1, k2, k3, k4, k5, by simp [q]; omega⟩

theorem txqRead_keeps {s₀ s : State} (h : Keeps s₀ s) (m p : Nat) : Keeps s₀ (txqRead m p s).1 := by
  unfold txqRead
  repeat first
    | (extract_lets +onlyGivenNames x; first
      | (refine (have hx : Keeps s₀ x := ?_; ?_); (on_goal 2 => (clear_value x; rename' x => y)); subst x)
      | (refine (have hx : Keeps s₀ x.1 := ?_; ?_); (on_goal 2 => (clear_value x; rename' x => y)); subst x)
      | (have z : TimeState := x; clear z; rename' x => y)
      | (clear_value x; rename' x => y))
    | with_reducible first
      | assumption | apply State.p_keeps | apply State.setSnaps_keeps
    | dsimp -zeta only
    | with_reducible refine Keeps.fields ?_ ?_ ?_ ?_
    | exact Or.inl rfl
    | rfl

theorem ppsInput_keeps {s₀ s : State} (h : Keeps s₀ s) (rising : Bool) : Keeps s₀ (ppsInput rising s) := by
  unfold ppsInput
  repeat first
    | (extract_lets +onlyGivenNames x; first
      | (refine (have hx : Keeps s₀ x := ?_; ?_); (on_goal 2 => (clear_value x; rename' x => y)); subst x)
      | (refine (have hx : Keeps s₀ x.1 := ?_; ?_); (on_goal 2 => (clear_value x; rename' x => y)); subst x)
      | (have z : TimeState := x; clear z; rename' x => y)
      | (clear_value x; rename' x => y))
    | with_reducible first
      | assumption | apply Keeps.ite | apply State.raise_keeps | apply State.stamp_keeps
    | split
    | with_reducible refine Keeps.fields ?_ ?_ ?_ ?_
    | exact Or.inl rfl
    | rfl

theorem ppsOutput_keeps {s₀ s : State} (h : Keeps s₀ s) : Keeps s₀ (ppsOutput s) := by
  unfold ppsOutput
  repeat first
    | with_reducible first
      | assumption | apply Keeps.ite
    | with_reducible refine Keeps.fields ?_ ?_ ?_ ?_
    | exact Or.inl rfl
    | rfl

theorem State.answer_keeps {s₀ : State} {r : State × Word} (h : Keeps s₀ r.1) (m : Nat) :
    Keeps s₀ (State.answer r m) := by
  unfold State.answer
  repeat first
    | with_reducible first
      | assumption | apply State.ctlServed_keeps | apply State.respond_keeps

theorem State.ctlRead_keeps {s₀ s : State} (h : Keeps s₀ s) (m a : Nat) {r : State × Word} (hr : Keeps s₀ r.1) :
    Keeps s₀ (State.ctlRead s m a r) := by
  unfold State.ctlRead
  exact Keeps.ite h (Keeps.ite (State.answer_keeps hr m) (State.ctlQueue_keeps h _))

end Sys2Proof.Machine
end

