-- ==== Sys2Proof/Laws/KeepEvents.lean ====
section
/-! SUPPORT. What the operations of Machine/Events.lean keep. -/

set_option linter.all false

namespace Sys2Proof.Machine

theorem clearCause_keeps {s₀ s : State} (h : Keeps s₀ s) (n mask : Nat) : Keeps s₀ (clearCause n mask s) := by
  unfold clearCause
  repeat first
    | with_reducible first
      | assumption | apply State.p_keeps

theorem statusClear_keeps {s₀ s : State} (h : Keeps s₀ s) (w : Nat) (v : Word) : Keeps s₀ (statusClear w v s) := by
  unfold statusClear
  repeat first
    | with_reducible first
      | assumption | apply Keeps.ite | refine Keeps.fold ?_ (fun _ _ _ => ?_) _ | apply State.p_keeps
      | apply clearCause_keeps

theorem logEnable_keeps {s₀ s : State} (h : Keeps s₀ s) (m : Nat) (v : Word) : Keeps s₀ (logEnable m v s) := by
  unfold logEnable
  repeat first
    | (extract_lets +onlyGivenNames x; first
      | (refine (have hx : Keeps s₀ x := ?_; ?_); (on_goal 2 => (clear_value x; rename' x => y)); subst x)
      | (refine (have hx : Keeps s₀ x.1 := ?_; ?_); (on_goal 2 => (clear_value x; rename' x => y)); subst x)
      | (clear_value x; rename' x => y))
    | with_reducible first
      | assumption | apply Keeps.ite | apply State.p_keeps | apply State.writeFields_keeps
    | with_reducible refine Keeps.fields ?_ ?_ ?_ ?_
    | exact Or.inl rfl
    | rfl

theorem logRingWrite_keeps {s₀ s : State} (h : Keeps s₀ s) (m : Nat) (v : Word) :
    Keeps s₀ (logRingWrite m v s) := by
  unfold logRingWrite
  repeat first
    | with_reducible first
      | assumption | apply Keeps.ite | apply State.logIgnored_keeps | apply State.writeFields_keeps

theorem presetEdge_keeps {s₀ s : State} (h : Keeps s₀ s) (n : Nat) (rising : Bool) :
    Keeps s₀ (presetEdge n rising s) := by
  unfold presetEdge
  repeat first
    | with_reducible first
      | assumption | apply Keeps.ite
    | with_reducible refine Keeps.fields ?_ ?_ ?_ ?_
    | exact Or.inl rfl
    | rfl

theorem wakeEdge_keeps {s₀ s : State} (h : Keeps s₀ s) (n : Nat) (rising : Bool) :
    Keeps s₀ (wakeEdge n rising s) := by
  unfold wakeEdge
  repeat first
    | (extract_lets +onlyGivenNames x; first
      | (refine (have hx : Keeps s₀ x := ?_; ?_); (on_goal 2 => (clear_value x; rename' x => y)); subst x)
      | (refine (have hx : Keeps s₀ x.1 := ?_; ?_); (on_goal 2 => (clear_value x; rename' x => y)); subst x)
      | (clear_value x; rename' x => y))
    | with_reducible first
      | assumption | apply Keeps.ite
    | with_reducible refine Keeps.fields ?_ ?_ ?_ ?_
    | exact Or.inl rfl
    | rfl

theorem State.gpioSettle_keeps {s₀ s : State} (h : Keeps s₀ s) : Keeps s₀ (State.gpioSettle s) := by
  unfold State.gpioSettle
  repeat first
    | (extract_lets +onlyGivenNames x; first
      | (refine (have hx : Keeps s₀ x := ?_; ?_); (on_goal 2 => (clear_value x; rename' x => y)); subst x)
      | (refine (have hx : Keeps s₀ x.1 := ?_; ?_); (on_goal 2 => (clear_value x; rename' x => y)); subst x)
      | (clear_value x; rename' x => y))
    | with_reducible first
      | assumption | apply Keeps.ite | refine Keeps.fold ?_ (fun _ _ _ => ?_) _ | apply State.raiseInfo_keeps
    | with_reducible refine Keeps.fields ?_ ?_ ?_ ?_
    | exact Or.inl rfl
    | rfl

theorem gpioEdge_keeps {s₀ s : State} (h : Keeps s₀ s) (n : Nat) (rising : Bool) :
    Keeps s₀ (gpioEdge n rising s) := by
  unfold gpioEdge
  repeat first
    | (extract_lets +onlyGivenNames x; first
      | (refine (have hx : Keeps s₀ x := ?_; ?_); (on_goal 2 => (clear_value x; rename' x => y)); subst x)
      | (refine (have hx : Keeps s₀ x.1 := ?_; ?_); (on_goal 2 => (clear_value x; rename' x => y)); subst x)
      | (have z : PinState := x; clear z; rename' x => y)
      | (clear_value x; rename' x => y))
    | with_reducible first
      | assumption | apply Keeps.ite | apply State.stamp_keeps | apply presetEdge_keeps | apply wakeEdge_keeps
      | apply State.gpioSettle_keeps
    | with_reducible refine Keeps.fields ?_ ?_ ?_ ?_
    | exact Or.inl rfl
    | rfl

theorem pulseEnd_keeps {s₀ s : State} (h : Keeps s₀ s) (p : Nat) : Keeps s₀ (pulseEnd p s) := by
  unfold pulseEnd
  repeat first
    | with_reducible first
      | assumption | apply Keeps.ite | apply State.p_keeps
    | split
    | with_reducible refine Keeps.fields ?_ ?_ ?_ ?_
    | exact Or.inl rfl
    | rfl

end Sys2Proof.Machine
end

