-- ==== Sys2Proof/Laws/KeepSeq.lean ====
section
/-! SUPPORT. What the operations of Machine/Seq.lean keep. -/

set_option linter.all false

namespace Sys2Proof.Machine

theorem flashWrite_wf (bs : List Byte) : ∀ (a : Nat) {m : List Host.Cell}, Memory.wf 0xFF m = true →
    Memory.wf 0xFF (flashWrite m a bs) = true := by
  induction bs with
  | nil => intro a m h; exact h
  | cons b bs ih => intro a m h; exact ih _ (Memory.wf_put 0xFF a b h)

theorem Keeps.flashSet {s₀ s : State} (h : Keeps s₀ s) (a : Nat) (bs : List Byte) (b : BootState) :
    Keeps s₀ { s with flash := flashWrite s.flash a bs, boot := b } := by
  refine h.trans ⟨rfl, le_refl _, rfl, fun k => ?_⟩
  obtain ⟨k1, k2, k3, k4, k⟩ := State.wf_iff.1 k
  exact State.wf_iff.2 ⟨k1, k2, k3, flashWrite_wf bs a k4, k⟩

theorem State.setHead_keeps {s₀ s : State} (h : Keeps s₀ s) (n : Nat) (h : HeadState) :
    Keeps s₀ (State.setHead s n h) := by
  unfold State.setHead
  repeat first
    | with_reducible first
      | assumption
    | with_reducible refine Keeps.fields ?_ ?_ ?_ ?_
    | exact Or.inl rfl
    | rfl

theorem State.valResult_keeps {s₀ s : State} (h : Keeps s₀ s) (reason entry n : Nat) :
    Keeps s₀ (State.valResult s reason entry n) := by
  unfold State.valResult
  repeat first
    | with_reducible first
      | assumption | apply State.p_keeps

theorem State.pageReject_keeps {s₀ s : State} (h : Keeps s₀ s) (reason entry n : Nat) :
    Keeps s₀ (State.pageReject s reason entry n) := by
  unfold State.pageReject
  repeat first
    | with_reducible first
      | assumption | apply State.p_keeps | apply State.pb_keeps | apply State.raise_keeps
      | apply State.valResult_keeps

theorem State.validateDone_keeps {s₀ s : State} (h : Keeps s₀ s) : Keeps s₀ (State.validateDone s) := by
  unfold State.validateDone
  repeat first
    | (extract_lets +onlyGivenNames x; first
      | (refine (have hx : Keeps s₀ x := ?_; ?_); (on_goal 2 => (clear_value x; rename' x => y)); subst x)
      | (refine (have hx : Keeps s₀ x.1 := ?_; ?_); (on_goal 2 => (clear_value x; rename' x => y)); subst x)
      | (clear_value x; rename' x => y))
    | with_reducible first
      | assumption | apply Keeps.ite | apply State.p_keeps | apply State.pb_keeps | apply State.valResult_keeps
      | apply State.pageReject_keeps
    | with_reducible refine Keeps.fields ?_ ?_ ?_ ?_
    | exact Or.inl rfl
    | rfl

theorem State.validateStart_keeps {s₀ s : State} (h : Keeps s₀ s) : Keeps s₀ (State.validateStart s) := by
  unfold State.validateStart
  repeat first
    | with_reducible first
      | assumption | apply Keeps.ite | apply State.p_keeps

theorem State.keyCancel_keeps {s₀ s : State} (h : Keeps s₀ s) (result : Nat) :
    Keeps s₀ (State.keyCancel s result) := by
  unfold State.keyCancel
  repeat first
    | with_reducible first
      | assumption | apply State.p_keeps
    | with_reducible refine Keeps.fields ?_ ?_ ?_ ?_
    | exact Or.inl rfl
    | rfl

theorem State.stageInvalidate_keeps {s₀ s : State} (h : Keeps s₀ s) (n : Nat) :
    Keeps s₀ (State.stageInvalidate s n) := by
  unfold State.stageInvalidate
  repeat first
    | (extract_lets +onlyGivenNames x; first
      | (refine (have hx : Keeps s₀ x := ?_; ?_); (on_goal 2 => (clear_value x; rename' x => y)); subst x)
      | (refine (have hx : Keeps s₀ x.1 := ?_; ?_); (on_goal 2 => (clear_value x; rename' x => y)); subst x)
      | (clear_value x; rename' x => y))
    | with_reducible first
      | assumption | apply Keeps.ite | apply State.pageReject_keeps | apply State.keyCancel_keeps

theorem State.stageCheckArea_keeps {s₀ s : State} (h : Keeps s₀ s) (n : Nat) :
    Keeps s₀ (State.stageCheckArea s n) := by
  unfold State.stageCheckArea
  repeat first
    | (extract_lets +onlyGivenNames x; first
      | (refine (have hx : Keeps s₀ x := ?_; ?_); (on_goal 2 => (clear_value x; rename' x => y)); subst x)
      | (refine (have hx : Keeps s₀ x.1 := ?_; ?_); (on_goal 2 => (clear_value x; rename' x => y)); subst x)
      | (clear_value x; rename' x => y))
    | with_reducible first
      | assumption | apply Keeps.ite | apply State.stageInvalidate_keeps

theorem State.stageCheckPair_keeps {s₀ s : State} (h : Keeps s₀ s) (n : Nat) :
    Keeps s₀ (State.stageCheckPair s n) := by
  unfold State.stageCheckPair
  repeat first
    | (extract_lets +onlyGivenNames x; first
      | (refine (have hx : Keeps s₀ x := ?_; ?_); (on_goal 2 => (clear_value x; rename' x => y)); subst x)
      | (refine (have hx : Keeps s₀ x.1 := ?_; ?_); (on_goal 2 => (clear_value x; rename' x => y)); subst x)
      | (clear_value x; rename' x => y))
    | with_reducible first
      | assumption | apply Keeps.ite | apply State.stageInvalidate_keeps

theorem State.amendDone_keeps {s₀ s : State} (h : Keeps s₀ s) (ticket outcome : Nat) :
    Keeps s₀ (State.amendDone s ticket outcome) := by
  unfold State.amendDone
  repeat first
    | with_reducible first
      | assumption | apply State.p_keeps | apply State.raise_keeps

theorem State.amendApply_keeps {s₀ s : State} (h : Keeps s₀ s) (a : Amend) (n : Nat) :
    Keeps s₀ (State.amendApply s a n).1 := by
  unfold State.amendApply
  repeat first
    | (extract_lets +onlyGivenNames x; first
      | (refine (have hx : Keeps s₀ x := ?_; ?_); (on_goal 2 => (clear_value x; rename' x => y)); subst x)
      | (refine (have hx : Keeps s₀ x.1 := ?_; ?_); (on_goal 2 => (clear_value x; rename' x => y)); subst x)
      | (have z := fun a => x a; clear z; subst x)
      | (clear_value x; rename' x => y))
    | with_reducible first
      | assumption | apply Keeps.ite | apply Keeps.itePair | apply State.p_keeps | apply State.setHead_keeps
    | dsimp -zeta only
    | with_reducible refine Keeps.fields ?_ ?_ ?_ ?_
    | exact Or.inl rfl
    | rfl

theorem State.amendSweep_keeps {s₀ s : State} (h : Keeps s₀ s) : Keeps s₀ (State.amendSweep s) := by
  unfold State.amendSweep
  repeat first
    | (extract_lets +onlyGivenNames x; first
      | (refine (have hx : Keeps s₀ x := ?_; ?_); (on_goal 2 => (clear_value x; rename' x => y)); subst x)
      | (refine (have hx : Keeps s₀ x.1 := ?_; ?_); (on_goal 2 => (clear_value x; rename' x => y)); subst x)
      | (clear_value x; rename' x => y))
    | with_reducible first
      | assumption | refine Keeps.fold ?_ (fun _ _ _ => ?_) _ | apply State.amendDone_keeps
    | with_reducible refine Keeps.fields ?_ ?_ ?_ ?_
    | exact Or.inl rfl
    | rfl

theorem State.amendHead_keeps {s₀ s : State} (h : Keeps s₀ s) (n : Nat) : Keeps s₀ (State.amendHead s n) := by
  unfold State.amendHead
  repeat first
    | (extract_lets +onlyGivenNames x; first
      | (refine (have hx : Keeps s₀ x := ?_; ?_); (on_goal 2 => (clear_value x; rename' x => y)); subst x)
      | (refine (have hx : Keeps s₀ x.1 := ?_; ?_); (on_goal 2 => (clear_value x; rename' x => y)); subst x)
      | (have z := fun a => x a; clear z; subst x)
      | (clear_value x; rename' x => y))
    | with_reducible first
      | assumption | apply Keeps.ite | apply Keeps.itePair | refine Keeps.fold ?_ (fun _ _ _ => ?_) _
      | refine Keeps.foldPair ?_ (fun _ _ _ => ?_) _ | apply State.amendApply_keeps | apply State.amendSweep_keeps
    | dsimp -zeta only
    | with_reducible refine Keeps.fields ?_ ?_ ?_ ?_
    | exact Or.inl rfl
    | rfl

theorem State.amendDiscard_keeps {s₀ s : State} (h : Keeps s₀ s) (n : Nat) : Keeps s₀ (State.amendDiscard s n) := by
  unfold State.amendDiscard
  repeat first
    | with_reducible first
      | assumption | apply Keeps.ite | apply State.amendSweep_keeps
    | with_reducible refine Keeps.fields ?_ ?_ ?_ ?_
    | exact Or.inl rfl
    | rfl

theorem State.amendPost_keeps {s₀ s : State} (h : Keeps s₀ s) : Keeps s₀ (State.amendPost s) := by
  unfold State.amendPost
  repeat first
    | (extract_lets +onlyGivenNames x; first
      | (refine (have hx : Keeps s₀ x := ?_; ?_); (on_goal 2 => (clear_value x; rename' x => y)); subst x)
      | (refine (have hx : Keeps s₀ x.1 := ?_; ?_); (on_goal 2 => (clear_value x; rename' x => y)); subst x)
      | (have z := fun a => x a; clear z; subst x)
      | (clear_value x; rename' x => y))
    | with_reducible first
      | assumption | apply Keeps.ite | apply Keeps.itePair | refine Keeps.fold ?_ (fun _ _ _ => ?_) _
      | refine Keeps.foldPair ?_ (fun _ _ _ => ?_) _ | apply State.inc_keeps | apply State.amendDone_keeps
      | apply State.amendApply_keeps
    | dsimp -zeta only
    | with_reducible refine Keeps.fields ?_ ?_ ?_ ?_
    | exact Or.inl rfl
    | rfl

theorem State.keyBit_keeps {s₀ s : State} (h : Keeps s₀ s) (n : Nat) : Keeps s₀ (State.keyBit s n) := by
  unfold State.keyBit
  repeat first
    | with_reducible first
      | assumption | apply Keeps.ite | apply State.p_keeps

theorem State.takePage_keeps {s₀ s : State} (h : Keeps s₀ s) (n : Nat) : Keeps s₀ (State.takePage s n) := by
  unfold State.takePage
  repeat first
    | (extract_lets +onlyGivenNames x; first
      | (refine (have hx : Keeps s₀ x := ?_; ?_); (on_goal 2 => (clear_value x; rename' x => y)); subst x)
      | (refine (have hx : Keeps s₀ x.1 := ?_; ?_); (on_goal 2 => (clear_value x; rename' x => y)); subst x)
      | (clear_value x; rename' x => y))
    | with_reducible first
      | assumption | refine Keeps.fold ?_ (fun _ _ _ => ?_) _ | apply State.p_keeps | apply State.setHead_keeps
      | apply State.amendDiscard_keeps | apply State.keyBit_keeps
    | with_reducible refine Keeps.fields ?_ ?_ ?_ ?_
    | exact Or.inl rfl
    | rfl

theorem State.keyComplete_keeps {s₀ s : State} (h : Keeps s₀ s) : Keeps s₀ (State.keyComplete s) := by
  unfold State.keyComplete
  repeat first
    | (extract_lets +onlyGivenNames x; first
      | (refine (have hx : Keeps s₀ x := ?_; ?_); (on_goal 2 => (clear_value x; rename' x => y)); subst x)
      | (refine (have hx : Keeps s₀ x.1 := ?_; ?_); (on_goal 2 => (clear_value x; rename' x => y)); subst x)
      | (clear_value x; rename' x => y))
    | with_reducible first
      | assumption | apply Keeps.ite | refine Keeps.fold ?_ (fun _ _ _ => ?_) _ | apply State.p_keeps
      | apply State.pb_keeps | apply State.raise_keeps | apply State.genRefresh_keeps | apply State.takePage_keeps
    | with_reducible refine Keeps.fields ?_ ?_ ?_ ?_
    | exact Or.inl rfl
    | rfl

theorem State.keyCheck_keeps {s₀ s : State} (h : Keeps s₀ s) : Keeps s₀ (State.keyCheck s) := by
  unfold State.keyCheck
  repeat first
    | (extract_lets +onlyGivenNames x; first
      | (refine (have hx : Keeps s₀ x := ?_; ?_); (on_goal 2 => (clear_value x; rename' x => y)); subst x)
      | (refine (have hx : Keeps s₀ x.1 := ?_; ?_); (on_goal 2 => (clear_value x; rename' x => y)); subst x)
      | (clear_value x; rename' x => y))
    | with_reducible first
      | assumption | apply Keeps.ite | apply State.keyComplete_keeps

theorem State.keyCountIdle_keeps {s₀ s : State} (h : Keeps s₀ s) : Keeps s₀ (State.keyCountIdle s) := by
  unfold State.keyCountIdle
  repeat first
    | with_reducible first
      | assumption | refine Keeps.fold ?_ (fun _ _ _ => ?_) _ | apply State.keyBit_keeps

theorem State.keyCommit_keeps {s₀ s : State} (h : Keeps s₀ s) (T : Int) (boot : Bool) :
    Keeps s₀ (State.keyCommit s T boot) := by
  unfold State.keyCommit
  repeat first
    | (extract_lets +onlyGivenNames x; first
      | (refine (have hx : Keeps s₀ x := ?_; ?_); (on_goal 2 => (clear_value x; rename' x => y)); subst x)
      | (refine (have hx : Keeps s₀ x.1 := ?_; ?_); (on_goal 2 => (clear_value x; rename' x => y)); subst x)
      | (clear_value x; rename' x => y))
    | with_reducible first
      | assumption | apply Keeps.ite | apply State.p_keeps | apply State.raise_keeps | apply State.keyCheck_keeps
      | apply State.keyCountIdle_keeps
    | with_reducible refine Keeps.fields ?_ ?_ ?_ ?_
    | exact Or.inl rfl
    | rfl

theorem State.keyCtrl_keeps {s₀ s : State} (h : Keeps s₀ s) (v : Word) : Keeps s₀ (State.keyCtrl s v) := by
  unfold State.keyCtrl
  repeat first
    | (extract_lets +onlyGivenNames x; first
      | (refine (have hx : Keeps s₀ x := ?_; ?_); (on_goal 2 => (clear_value x; rename' x => y)); subst x)
      | (refine (have hx : Keeps s₀ x.1 := ?_; ?_); (on_goal 2 => (clear_value x; rename' x => y)); subst x)
      | (clear_value x; rename' x => y))
    | with_reducible first
      | assumption | apply Keeps.ite | apply State.p_keeps | apply State.keyCancel_keeps
      | apply State.keyCommit_keeps

theorem State.keyTimeReached_keeps {s₀ s : State} (h : Keeps s₀ s) : Keeps s₀ (State.keyTimeReached s) := by
  unfold State.keyTimeReached
  repeat first
    | with_reducible first
      | assumption | apply Keeps.ite | apply State.keyCheck_keeps | apply State.keyCountIdle_keeps

theorem State.keyLatch_keeps {s₀ s : State} (h : Keeps s₀ s) (n : Nat) (L : Int) :
    Keeps s₀ (State.keyLatch s n L) := by
  unfold State.keyLatch
  repeat first
    | with_reducible first
      | assumption | apply Keeps.ite | apply State.p_keeps | apply State.takePage_keeps

theorem State.keyHeadStarts_keeps {s₀ s : State} (h : Keeps s₀ s) (n : Nat) :
    Keeps s₀ (State.keyHeadStarts s n) := by
  unfold State.keyHeadStarts
  repeat first
    | with_reducible first
      | assumption | apply Keeps.ite | apply State.takePage_keeps

theorem State.keyHeadGone_keeps {s₀ s : State} (h : Keeps s₀ s) (n : Nat) : Keeps s₀ (State.keyHeadGone s n) := by
  unfold State.keyHeadGone
  repeat first
    | with_reducible first
      | assumption | apply Keeps.ite | apply State.keyBit_keeps | apply State.keyCheck_keeps

theorem State.presetEnd_keeps {s₀ s : State} (h : Keeps s₀ s) (result : Nat) :
    Keeps s₀ (State.presetEnd s result) := by
  unfold State.presetEnd
  repeat first
    | (extract_lets +onlyGivenNames x; first
      | (refine (have hx : Keeps s₀ x := ?_; ?_); (on_goal 2 => (clear_value x; rename' x => y)); subst x)
      | (refine (have hx : Keeps s₀ x.1 := ?_; ?_); (on_goal 2 => (clear_value x; rename' x => y)); subst x)
      | (clear_value x; rename' x => y))
    | with_reducible first
      | assumption | apply Keeps.ite | apply State.p_keeps | apply State.pb_keeps | apply State.raise_keeps
    | with_reducible refine Keeps.fields ?_ ?_ ?_ ?_
    | exact Or.inl rfl
    | rfl

theorem State.presetSelect_keeps {s₀ s : State} (h : Keeps s₀ s) (k : Nat) : Keeps s₀ (State.presetSelect s k) := by
  unfold State.presetSelect
  repeat first
    | (extract_lets +onlyGivenNames x; first
      | (refine (have hx : Keeps s₀ x := ?_; ?_); (on_goal 2 => (clear_value x; rename' x => y)); subst x)
      | (refine (have hx : Keeps s₀ x.1 := ?_; ?_); (on_goal 2 => (clear_value x; rename' x => y)); subst x)
      | (clear_value x; rename' x => y))
    | with_reducible first
      | assumption | apply Keeps.ite | apply State.p_keeps | apply State.pb_keeps | apply State.presetEnd_keeps
    | with_reducible refine Keeps.fields ?_ ?_ ?_ ?_
    | exact Or.inl rfl
    | rfl

theorem presetCtrlWrite_keeps {s₀ s : State} (h : Keeps s₀ s) (m : Nat) (v : Word) :
    Keeps s₀ (presetCtrlWrite m v s) := by
  unfold presetCtrlWrite
  repeat first
    | (extract_lets +onlyGivenNames x; first
      | (refine (have hx : Keeps s₀ x := ?_; ?_); (on_goal 2 => (clear_value x; rename' x => y)); subst x)
      | (refine (have hx : Keeps s₀ x.1 := ?_; ?_); (on_goal 2 => (clear_value x; rename' x => y)); subst x)
      | (clear_value x; rename' x => y))
    | with_reducible first
      | assumption | apply Keeps.ite | apply State.writeFields_keeps | apply State.presetSelect_keeps

theorem presetGpioWrite_keeps {s₀ s : State} (h : Keeps s₀ s) (m : Nat) (v : Word) :
    Keeps s₀ (presetGpioWrite m v s) := by
  unfold presetGpioWrite
  repeat first
    | (extract_lets +onlyGivenNames x; first
      | (refine (have hx : Keeps s₀ x := ?_; ?_); (on_goal 2 => (clear_value x; rename' x => y)); subst x)
      | (refine (have hx : Keeps s₀ x.1 := ?_; ?_); (on_goal 2 => (clear_value x; rename' x => y)); subst x)
      | (clear_value x; rename' x => y))
    | with_reducible first
      | assumption | apply Keeps.ite | apply State.errLog_keeps | apply State.writeFields_keeps

theorem State.presetSample_keeps {s₀ s : State} (h : Keeps s₀ s) : Keeps s₀ (State.presetSample s) := by
  unfold State.presetSample
  repeat first
    | with_reducible first
      | assumption | apply Keeps.ite | apply State.presetSelect_keeps
    | with_reducible refine Keeps.fields ?_ ?_ ?_ ?_
    | exact Or.inl rfl
    | rfl

theorem State.presetResume_keeps {s₀ s : State} (h : Keeps s₀ s) : Keeps s₀ (State.presetResume s) := by
  unfold State.presetResume
  repeat first
    | with_reducible first
      | assumption | apply Keeps.ite
    | with_reducible refine Keeps.fields ?_ ?_ ?_ ?_
    | exact Or.inl rfl
    | rfl

theorem State.presetRead_keeps {s₀ s : State} (h : Keeps s₀ s) (ok : Bool) : Keeps s₀ (State.presetRead s ok) := by
  unfold State.presetRead
  repeat first
    | (extract_lets +onlyGivenNames x; first
      | (refine (have hx : Keeps s₀ x := ?_; ?_); (on_goal 2 => (clear_value x; rename' x => y)); subst x)
      | (refine (have hx : Keeps s₀ x.1 := ?_; ?_); (on_goal 2 => (clear_value x; rename' x => y)); subst x)
      | (clear_value x; rename' x => y))
    | with_reducible first
      | assumption | apply Keeps.ite | apply State.p_keeps | apply State.storeData_keeps
      | apply State.validateStart_keeps | apply State.presetEnd_keeps
    | split
    | with_reducible refine Keeps.fields ?_ ?_ ?_ ?_
    | exact Or.inl rfl
    | rfl

theorem State.validated_keeps {s₀ s : State} (h : Keeps s₀ s) : Keeps s₀ (State.validated s) := by
  unfold State.validated
  repeat first
    | (extract_lets +onlyGivenNames x; first
      | (refine (have hx : Keeps s₀ x := ?_; ?_); (on_goal 2 => (clear_value x; rename' x => y)); subst x)
      | (refine (have hx : Keeps s₀ x.1 := ?_; ?_); (on_goal 2 => (clear_value x; rename' x => y)); subst x)
      | (clear_value x; rename' x => y))
    | with_reducible first
      | assumption | apply Keeps.ite | apply State.validateDone_keeps | apply State.keyCommit_keeps
      | apply State.presetEnd_keeps

theorem amdCmdWrite_keeps {s₀ s : State} (h : Keeps s₀ s) (m : Nat) (v : Word) : Keeps s₀ (amdCmdWrite m v s) := by
  unfold amdCmdWrite
  repeat first
    | (extract_lets +onlyGivenNames x; first
      | (refine (have hx : Keeps s₀ x := ?_; ?_); (on_goal 2 => (clear_value x; rename' x => y)); subst x)
      | (refine (have hx : Keeps s₀ x.1 := ?_; ?_); (on_goal 2 => (clear_value x; rename' x => y)); subst x)
      | (clear_value x; rename' x => y))
    | with_reducible first
      | assumption | apply Keeps.ite | apply State.writeFields_keeps | apply State.amendPost_keeps

end Sys2Proof.Machine
end

