-- ==== Sys2Proof/Laws/KeepPixels.lean ====
section
/-! SUPPORT. What the operations of Machine/Pixels.lean keep. -/

set_option linter.all false

namespace Sys2Proof.Machine

theorem State.writePixels_keeps {s₀ s : State} (h : Keeps s₀ s) (m qos : Nat) (p : Pic) (x y : Nat) (vs : List Sample) :
    Keeps s₀ (State.writePixels s m qos p x y vs).1 := by
  unfold State.writePixels
  repeat first
    | (extract_lets +onlyGivenNames x; first
      | (refine (have hx : Keeps s₀ x := ?_; ?_); (on_goal 2 => (clear_value x; rename' x => y)); subst x)
      | (refine (have hx : Keeps s₀ x.1 := ?_; ?_); (on_goal 2 => (clear_value x; rename' x => y)); subst x)
      | (clear_value x; rename' x => y))
    | with_reducible first
      | assumption | apply Keeps.ite | apply Keeps.itePair | apply State.p_keeps | apply State.dmaWrite_keeps
    | dsimp -zeta only

theorem State.readRow_keeps {s₀ s : State} (h : Keeps s₀ s) (m qos : Nat) (p : Pic) (y n : Nat) :
    Keeps s₀ (State.readRow s m qos p y n).1 := by
  unfold State.readRow
  repeat first
    | (extract_lets +onlyGivenNames x; first
      | (refine (have hx : Keeps s₀ x := ?_; ?_); (on_goal 2 => (clear_value x; rename' x => y)); subst x)
      | (refine (have hx : Keeps s₀ x.1 := ?_; ?_); (on_goal 2 => (clear_value x; rename' x => y)); subst x)
      | (clear_value x; rename' x => y))
    | with_reducible first
      | assumption | apply State.p_keeps | apply State.dmaRead_keeps
    | dsimp -zeta only

end Sys2Proof.Machine
end

