-- ==== Sys2Proof/Laws/KeepBuffers.lean ====
section
/-! SUPPORT. What the operations of Machine/Buffers.lean keep. -/

set_option linter.all false

namespace Sys2Proof.Machine

theorem State.setSrc_keeps {s₀ s : State} (h : Keeps s₀ s) (i : Nat) (e : SrcState) :
    Keeps s₀ (State.setSrc s i e) := by
  unfold State.setSrc
  repeat first
    | with_reducible first
      | assumption
    | with_reducible refine Keeps.fields ?_ ?_ ?_ ?_
    | exact Or.inl rfl
    | rfl

theorem State.setBuf_keeps {s₀ s : State} (h : Keeps s₀ s) (b : Nat) (x : BufState) :
    Keeps s₀ (State.setBuf s b x) := by
  unfold State.setBuf
  repeat first
    | with_reducible first
      | assumption
    | with_reducible refine Keeps.fields ?_ ?_ ?_ ?_
    | exact Or.inl rfl
    | rfl

theorem State.setArrival_keeps {s₀ s : State} (h : Keeps s₀ s) (b count : Nat) :
    Keeps s₀ (State.setArrival s b count) := by
  unfold State.setArrival
  repeat first
    | with_reducible first
      | assumption | apply State.p_keeps

theorem State.claim_keeps {s₀ s : State} (h : Keeps s₀ s) (b field count : Nat) :
    Keeps s₀ (State.claim s b field count) := by
  unfold State.claim
  repeat first
    | (extract_lets +onlyGivenNames x; first
      | (refine (have hx : Keeps s₀ x := ?_; ?_); (on_goal 2 => (clear_value x; rename' x => y)); subst x)
      | (refine (have hx : Keeps s₀ x.1 := ?_; ?_); (on_goal 2 => (clear_value x; rename' x => y)); subst x)
      | (clear_value x; rename' x => y))
    | with_reducible first
      | assumption | apply State.p_keeps | apply State.setArrival_keeps

theorem State.unclaim_keeps {s₀ s : State} (h : Keeps s₀ s) (b : Nat) : Keeps s₀ (State.unclaim s b) := by
  unfold State.unclaim
  repeat first
    | (extract_lets +onlyGivenNames x; first
      | (refine (have hx : Keeps s₀ x := ?_; ?_); (on_goal 2 => (clear_value x; rename' x => y)); subst x)
      | (refine (have hx : Keeps s₀ x.1 := ?_; ?_); (on_goal 2 => (clear_value x; rename' x => y)); subst x)
      | (clear_value x; rename' x => y))
    | with_reducible first
      | assumption | apply Keeps.ite | apply State.p_keeps | apply State.storeFree_keeps | apply State.setBuf_keeps
    | with_reducible refine Keeps.fields ?_ ?_ ?_ ?_
    | exact Or.inl rfl
    | rfl

theorem State.closeBuf_keeps {s₀ s : State} (h : Keeps s₀ s) (b : Nat) (t : Tag) :
    Keeps s₀ (State.closeBuf s b t) := by
  unfold State.closeBuf
  repeat first
    | with_reducible first
      | assumption | apply State.p_keeps | apply State.store_keeps

theorem State.filled_keeps {s₀ s : State} (h : Keeps s₀ s) (i b : Nat) : Keeps s₀ (State.filled s i b) := by
  unfold State.filled
  repeat first
    | with_reducible first
      | assumption | apply State.setSrc_keeps
    | with_reducible refine Keeps.fields ?_ ?_ ?_ ?_
    | exact Or.inl rfl
    | rfl

theorem State.setLeases_keeps {s₀ s : State} (h : Keeps s₀ s) (b : Nat) (l : List Nat) :
    Keeps s₀ (State.setLeases s b l) := by
  unfold State.setLeases
  repeat first
    | (extract_lets +onlyGivenNames x; first
      | (refine (have hx : Keeps s₀ x := ?_; ?_); (on_goal 2 => (clear_value x; rename' x => y)); subst x)
      | (refine (have hx : Keeps s₀ x.1 := ?_; ?_); (on_goal 2 => (clear_value x; rename' x => y)); subst x)
      | (clear_value x; rename' x => y))
    | with_reducible first
      | assumption | apply Keeps.ite | apply State.p_keeps | apply State.setBuf_keeps
    | with_reducible refine Keeps.fields ?_ ?_ ?_ ?_
    | exact Or.inl rfl
    | rfl

theorem State.updateLeases_keeps {s₀ s : State} (h : Keeps s₀ s) (n : Nat) (now : List Nat) :
    Keeps s₀ (State.updateLeases s n now) := by
  unfold State.updateLeases
  repeat first
    | (extract_lets +onlyGivenNames x; first
      | (refine (have hx : Keeps s₀ x := ?_; ?_); (on_goal 2 => (clear_value x; rename' x => y)); subst x)
      | (refine (have hx : Keeps s₀ x.1 := ?_; ?_); (on_goal 2 => (clear_value x; rename' x => y)); subst x)
      | (clear_value x; rename' x => y))
    | with_reducible first
      | assumption | apply Keeps.ite | refine Keeps.fold ?_ (fun _ _ _ => ?_) _ | apply State.setLeases_keeps

theorem releaseWrite_keeps {s₀ s : State} (h : Keeps s₀ s) (m : Nat) (v : Word) :
    Keeps s₀ (releaseWrite m v s) := by
  unfold releaseWrite
  repeat first
    | (extract_lets +onlyGivenNames x; first
      | (refine (have hx : Keeps s₀ x := ?_; ?_); (on_goal 2 => (clear_value x; rename' x => y)); subst x)
      | (refine (have hx : Keeps s₀ x.1 := ?_; ?_); (on_goal 2 => (clear_value x; rename' x => y)); subst x)
      | (clear_value x; rename' x => y))
    | with_reducible first
      | assumption | apply Keeps.ite | apply State.p_keeps | apply State.raise_keeps | apply State.refuse_keeps
    | with_reducible refine Keeps.fields ?_ ?_ ?_ ?_
    | exact Or.inl rfl
    | rfl

theorem relCompletion_keeps {s₀ s : State} (h : Keeps s₀ s) : Keeps s₀ (relCompletion s) := by
  unfold relCompletion
  repeat first
    | (extract_lets +onlyGivenNames x; first
      | (refine (have hx : Keeps s₀ x := ?_; ?_); (on_goal 2 => (clear_value x; rename' x => y)); subst x)
      | (refine (have hx : Keeps s₀ x.1 := ?_; ?_); (on_goal 2 => (clear_value x; rename' x => y)); subst x)
      | (clear_value x; rename' x => y))
    | with_reducible first
      | assumption | apply Keeps.ite | apply Keeps.itePair | apply State.p_keeps | apply State.pb_keeps
      | apply State.dmaWrite_keeps
    | dsimp -zeta only
    | split
    | with_reducible refine Keeps.fields ?_ ?_ ?_ ?_
    | exact Or.inl rfl
    | rfl

theorem relRingWrite_keeps {s₀ s : State} (h : Keeps s₀ s) (m a : Nat) (v : Word) :
    Keeps s₀ (relRingWrite m a v s) := by
  unfold relRingWrite
  repeat first
    | (extract_lets +onlyGivenNames x; first
      | (refine (have hx : Keeps s₀ x := ?_; ?_); (on_goal 2 => (clear_value x; rename' x => y)); subst x)
      | (refine (have hx : Keeps s₀ x.1 := ?_; ?_); (on_goal 2 => (clear_value x; rename' x => y)); subst x)
      | (clear_value x; rename' x => y))
    | with_reducible first
      | assumption | apply Keeps.ite | apply State.logIgnored_keeps | apply State.writeFields_keeps

theorem hostReady_keeps {s₀ s : State} (h : Keeps s₀ s) (m : Nat) (v : Word) : Keeps s₀ (hostReady m v s) := by
  unfold hostReady
  repeat first
    | (extract_lets +onlyGivenNames x; first
      | (refine (have hx : Keeps s₀ x := ?_; ?_); (on_goal 2 => (clear_value x; rename' x => y)); subst x)
      | (refine (have hx : Keeps s₀ x.1 := ?_; ?_); (on_goal 2 => (clear_value x; rename' x => y)); subst x)
      | (clear_value x; rename' x => y))
    | with_reducible first
      | assumption | apply Keeps.ite | apply State.inc_keeps | apply State.raise_keeps | apply State.refuse_keeps
      | apply State.setBuf_keeps | apply State.claim_keeps
    | split
    | with_reducible refine Keeps.fields ?_ ?_ ?_ ?_
    | exact Or.inl rfl
    | rfl

theorem State.hostRead_keeps {s₀ s : State} (h : Keeps s₀ s) (p : Pic) (l : List Nat) (t : Tab (List Nat)) :
    Keeps s₀ (State.hostRead s p l t).1 := by
  induction l generalizing s t with
  | nil => unfold State.hostRead; exact h
  | cons y ys ih =>
    unfold State.hostRead
    exact ih (State.readRow_keeps h _ _ _ _ _) _

theorem hostClose_keeps {s₀ s : State} (h : Keeps s₀ s) (b : Nat) : Keeps s₀ (hostClose b s) := by
  unfold hostClose
  repeat first
    | (extract_lets +onlyGivenNames x; first
      | (refine (have hx : Keeps s₀ x := ?_; ?_); (on_goal 2 => (clear_value x; rename' x => y)); subst x)
      | (refine (have hx : Keeps s₀ x.1 := ?_; ?_); (on_goal 2 => (clear_value x; rename' x => y)); subst x)
      | (clear_value x; rename' x => y))
    | with_reducible first
      | assumption | apply Keeps.ite | apply Keeps.itePair | refine Keeps.fold ?_ (fun _ _ _ => ?_) _
      | refine Keeps.foldPair ?_ (fun _ _ _ => ?_) _ | apply State.p_keeps | apply State.inc_keeps
      | apply State.dmaRead_keeps | apply State.setBuf_keeps | apply State.closeBuf_keeps | apply State.filled_keeps
      | apply State.hostRead_keeps
    | dsimp -zeta only
    | split
    | with_reducible refine Keeps.fields ?_ ?_ ?_ ?_
    | exact Or.inl rfl
    | rfl

end Sys2Proof.Machine
end

