-- ==== Sys2Proof/Laws/KeepLatch.lean ====
section
/-! SUPPORT. What the operations of Machine/Latch.lean keep. -/

set_option linter.all false

namespace Sys2Proof.Machine

theorem groupStep_keeps {s₀ : State} {r : State × List (Nat × Plan) × List Nat} (h : Keeps s₀ r.1) (lead g : Nat) :
    Keeps s₀ (groupStep lead r g).1 := by
  unfold groupStep
  extract_lets s ps mem key pend hd t put hold
  have hp : ∀ x, Keeps s₀ (put x) := fun x => State.setHead_keeps h _ _
  clear_value put
  repeat' with_reducible first | assumption | apply hp | apply Keeps.itePair
  apply Keeps.fold
  · exact hp _
  · intro s x hs
    exact State.p_keeps hs _ _

theorem State.groupsStep_keeps {s₀ s : State} (h : Keeps s₀ s) (lead : Nat) (ps : List (Nat × Plan)) :
    Keeps s₀ (State.groupsStep s lead ps).1 := by
  unfold State.groupsStep
  repeat first
    | with_reducible first
      | assumption | refine Keeps.fold ?_ (fun _ _ _ => ?_) _ | refine Keeps.foldPair ?_ (fun _ _ _ => ?_) _
      | apply groupStep_keeps
    | dsimp -zeta only

theorem State.slotStatus_keeps {s₀ s : State} (h : Keeps s₀ s) (n k cause state : Nat) (fallback buf : Option Nat) :
    Keeps s₀ (State.slotStatus s n k cause state fallback buf) := by
  unfold State.slotStatus
  repeat first
    | with_reducible first
      | assumption | apply State.setReg_keeps

theorem State.setSlot_keeps {s₀ s : State} (h : Keeps s₀ s) (n k : Nat) (t : SlotState) :
    Keeps s₀ (State.setSlot s n k t) := by
  unfold State.setSlot
  repeat first
    | (extract_lets +onlyGivenNames x; first
      | (refine (have hx : Keeps s₀ x := ?_; ?_); (on_goal 2 => (clear_value x; rename' x => y)); subst x)
      | (refine (have hx : Keeps s₀ x.1 := ?_; ?_); (on_goal 2 => (clear_value x; rename' x => y)); subst x)
      | (clear_value x; rename' x => y))
    | with_reducible first
      | assumption | apply State.setHead_keeps
    | with_reducible refine Keeps.fields ?_ ?_ ?_ ?_
    | exact Or.inl rfl
    | rfl

theorem State.latchSlot_keeps {s₀ s : State} (h : Keeps s₀ s) (n : Nat) (c : Course) (p : Plan) :
    Keeps s₀ (State.latchSlot s n c p).1 := by
  unfold State.latchSlot
  extract_lets old fallback cause keep base
  clear_value cause
  split
  · exact State.slotStatus_keeps (State.inc_keeps (State.setSlot_keeps h _ _ _) _) _ _ _ _ _ _
  · exact State.slotStatus_keeps (State.setSlot_keeps h _ _ _) _ _ _ _ _ _

theorem State.evalSlot_keeps {s₀ s : State} (h : Keeps s₀ s) (n : Nat) (u : SlotUse) (k : Nat) (L : Int) :
    Keeps s₀ (State.evalSlot s n u k L).1 := by
  unfold State.evalSlot
  repeat first
    | (extract_lets +onlyGivenNames x; first
      | (refine (have hx : Keeps s₀ x := ?_; ?_); (on_goal 2 => (clear_value x; rename' x => y)); subst x)
      | (refine (have hx : Keeps s₀ x.1 := ?_; ?_); (on_goal 2 => (clear_value x; rename' x => y)); subst x)
      | (clear_value x; rename' x => y))
    | with_reducible first
      | assumption | apply Keeps.ite | apply Keeps.itePair | apply State.setReg_keeps | apply State.p_keeps
      | apply State.setSlot_keeps
    | dsimp -zeta only
    | split
    | with_reducible refine Keeps.fields ?_ ?_ ?_ ?_
    | exact Or.inl rfl
    | rfl

theorem State.dropSlot_keeps {s₀ s : State} (h : Keeps s₀ s) (n k status : Nat) :
    Keeps s₀ (State.dropSlot s n k status).1 := by
  unfold State.dropSlot
  repeat first
    | (extract_lets +onlyGivenNames x; first
      | (refine (have hx : Keeps s₀ x := ?_; ?_); (on_goal 2 => (clear_value x; rename' x => y)); subst x)
      | (refine (have hx : Keeps s₀ x.1 := ?_; ?_); (on_goal 2 => (clear_value x; rename' x => y)); subst x)
      | (clear_value x; rename' x => y))
    | with_reducible first
      | assumption | apply State.setReg_keeps | apply State.p_keeps | apply State.slotStatus_keeps
      | apply State.setSlot_keeps
    | dsimp -zeta only

theorem State.dropUnused_keeps {s₀ s : State} (h : Keeps s₀ s) (n : Nat) (ps : List Plan) :
    Keeps s₀ (State.dropUnused s n ps).1 := by
  unfold State.dropUnused
  repeat first
    | (extract_lets +onlyGivenNames x; first
      | (refine (have hx : Keeps s₀ x := ?_; ?_); (on_goal 2 => (clear_value x; rename' x => y)); subst x)
      | (refine (have hx : Keeps s₀ x.1 := ?_; ?_); (on_goal 2 => (clear_value x; rename' x => y)); subst x)
      | (clear_value x; rename' x => y))
    | with_reducible first
      | assumption | refine Keeps.fold ?_ (fun _ _ _ => ?_) _ | refine Keeps.foldPair ?_ (fun _ _ _ => ?_) _
      | apply State.p_keeps | apply State.dropSlot_keeps
    | dsimp -zeta only

theorem State.showAge_keeps {s₀ s : State} (h : Keeps s₀ s) (n : Nat) (ks : List Nat) :
    Keeps s₀ (State.showAge s n ks) := by
  unfold State.showAge
  repeat first
    | with_reducible first
      | assumption | apply State.p_keeps

theorem State.latchHead_keeps {s₀ s : State} (h : Keeps s₀ s) (n : Nat) (ps : List Plan) (L : Int) :
    Keeps s₀ (State.latchHead s n ps L).1 := by
  unfold State.latchHead
  repeat first
    | (extract_lets +onlyGivenNames x; first
      | (refine (have hx : Keeps s₀ x := ?_; ?_); (on_goal 2 => (clear_value x; rename' x => y)); subst x)
      | (refine (have hx : Keeps s₀ x.1 := ?_; ?_); (on_goal 2 => (clear_value x; rename' x => y)); subst x)
      | (clear_value x; rename' x => y))
    | with_reducible first
      | assumption | apply Keeps.ite | apply Keeps.itePair | refine Keeps.fold ?_ (fun _ _ _ => ?_) _
      | refine Keeps.foldPair ?_ (fun _ _ _ => ?_) _ | apply State.p_keeps | apply State.inc_keeps
      | apply State.updateLeases_keeps | apply State.latchSlot_keeps | apply State.evalSlot_keeps
      | apply State.dropUnused_keeps
    | dsimp -zeta only
    | split
    | with_reducible refine Keeps.fields ?_ ?_ ?_ ?_
    | exact Or.inl rfl
    | rfl

theorem State.frameBegin_keeps {s₀ s : State} (h : Keeps s₀ s) (n : Nat) : Keeps s₀ (State.frameBegin s n) := by
  unfold State.frameBegin
  repeat first
    | (extract_lets +onlyGivenNames x; first
      | (refine (have hx : Keeps s₀ x := ?_; ?_); (on_goal 2 => (clear_value x; rename' x => y)); subst x)
      | (refine (have hx : Keeps s₀ x.1 := ?_; ?_); (on_goal 2 => (clear_value x; rename' x => y)); subst x)
      | (clear_value x; rename' x => y))
    | with_reducible first
      | assumption | apply State.setHead_keeps | apply State.showAge_keeps
    | with_reducible refine Keeps.fields ?_ ?_ ?_ ?_
    | exact Or.inl rfl
    | rfl

end Sys2Proof.Machine
end

