-- ==== Sys2Proof/Laws/KeepScan.lean ====
section
/-! SUPPORT. What the operations of Machine/Scan.lean keep. -/

set_option linter.all false

namespace Sys2Proof.Machine

theorem State.setFrame_keeps {s₀ s : State} (h : Keeps s₀ s) (n : Nat) (f : HeadFrame) :
    Keeps s₀ (State.setFrame s n f) := by
  unfold State.setFrame
  repeat first
    | with_reducible first
      | assumption | apply State.setHead_keeps
    | with_reducible refine Keeps.fields ?_ ?_ ?_ ?_
    | exact Or.inl rfl
    | rfl

theorem State.chaseFall_keeps {s₀ s : State} (h : Keeps s₀ s) (n k : Nat) : Keeps s₀ (State.chaseFall s n k) := by
  unfold State.chaseFall
  repeat first
    | (extract_lets +onlyGivenNames x; first
      | (refine (have hx : Keeps s₀ x := ?_; ?_); (on_goal 2 => (clear_value x; rename' x => y)); subst x)
      | (refine (have hx : Keeps s₀ x.1 := ?_; ?_); (on_goal 2 => (clear_value x; rename' x => y)); subst x)
      | (clear_value x; rename' x => y))
    | with_reducible first
      | assumption | apply Keeps.ite | apply State.p_keeps | apply State.inc_keeps | apply State.raiseHead_keeps
      | apply State.setSlot_keeps | apply State.setFrame_keeps
    | with_reducible refine Keeps.fields ?_ ?_ ?_ ?_
    | exact Or.inl rfl
    | rfl

theorem State.chaseLine_keeps {s₀ s : State} (h : Keeps s₀ s) (n : Nat) (d : Band) (y : Nat) :
    Keeps s₀ (State.chaseLine s n d y) := by
  unfold State.chaseLine
  repeat first
    | with_reducible first
      | assumption | refine Keeps.fold ?_ (fun _ _ _ => ?_) _ | apply State.chaseFall_keeps

theorem State.fifoFill_keeps {s₀ s : State} (h : Keeps s₀ s) (n f : Nat) : Keeps s₀ (State.fifoFill s n f) := by
  unfold State.fifoFill
  repeat first
    | (extract_lets +onlyGivenNames x; first
      | (refine (have hx : Keeps s₀ x := ?_; ?_); (on_goal 2 => (clear_value x; rename' x => y)); subst x)
      | (refine (have hx : Keeps s₀ x.1 := ?_; ?_); (on_goal 2 => (clear_value x; rename' x => y)); subst x)
      | (clear_value x; rename' x => y))
    | with_reducible first
      | assumption | apply Keeps.ite | apply State.p_keeps | apply State.pb_keeps | apply State.inc_keeps
      | apply State.setFrame_keeps
    | with_reducible refine Keeps.fields ?_ ?_ ?_ ?_
    | exact Or.inl rfl
    | rfl

theorem State.fetchRow_keeps {s₀ s : State} (h : Keeps s₀ s) (n own : Nat) (p : Pic) (y : Nat) (e : EccFind) :
    Keeps s₀ (State.fetchRow s n own p y e).1 := by
  unfold State.fetchRow
  repeat first
    | (extract_lets +onlyGivenNames x; first
      | (refine (have hx : Keeps s₀ x := ?_; ?_); (on_goal 2 => (clear_value x; rename' x => y)); subst x)
      | (refine (have hx : Keeps s₀ x.1 := ?_; ?_); (on_goal 2 => (clear_value x; rename' x => y)); subst x)
      | (clear_value x; rename' x => y))
    | with_reducible first
      | assumption | apply Keeps.ite | apply Keeps.itePair | apply State.p_keeps | apply State.fetchRead_keeps
    | dsimp -zeta only

theorem State.fetchRows_keeps {s₀ s : State} (h : Keeps s₀ s) (n own : Nat) (p : Pic) (finds : List (Nat × EccFind))
    (t : LineStore) (l : List (Nat × Nat)) : Keeps s₀ (State.fetchRows s n own p finds t l).1 := by
  induction l generalizing s t with
  | nil => exact h
  | cons x l ih =>
    unfold State.fetchRows
    extract_lets r
    have hr : Keeps s₀ r.1 := State.fetchRow_keeps h _ _ _ _ _
    split
    · exact hr
    · exact ih hr _

theorem State.fetchLine_keeps {s₀ s : State} (h : Keeps s₀ s) (n : Nat) (d : Band) (y : Nat) (finds : List FetchFind) :
    Keeps s₀ (State.fetchLine s n d y finds).1 := by
  unfold State.fetchLine
  extract_lets f
  apply State.setHead_keeps
  unfold f
  generalize List.range 32 = l
  suffices hf : ∀ x : FetchState, Keeps s₀ x.at_ → Keeps s₀ (l.foldl (fetchSlot n d y finds) x).at_ from hf _ h
  induction l with
  | nil => exact fun x hx => hx
  | cons k l ih =>
    refine fun x hx => ih _ ?_
    unfold fetchSlot
    extract_lets s t
    split
    · split
      · exact hx
      · split
        · exact hx
        · exact State.fetchRows_keeps hx _ _ _ _ _ _
    · exact hx

theorem State.countUnderrun_keeps {s₀ s : State} (h : Keeps s₀ s) (n : Nat) :
    Keeps s₀ (State.countUnderrun s n) := by
  unfold State.countUnderrun
  repeat first
    | (extract_lets +onlyGivenNames x; first
      | (refine (have hx : Keeps s₀ x := ?_; ?_); (on_goal 2 => (clear_value x; rename' x => y)); subst x)
      | (refine (have hx : Keeps s₀ x.1 := ?_; ?_); (on_goal 2 => (clear_value x; rename' x => y)); subst x)
      | (clear_value x; rename' x => y))
    | with_reducible first
      | assumption | apply Keeps.ite | apply State.inc_keeps | apply State.noteHealth_keeps
      | apply State.raiseHead_keeps | apply State.setFrame_keeps | apply underrun_keeps
    | with_reducible refine Keeps.fields ?_ ?_ ?_ ?_
    | exact Or.inl rfl
    | rfl

theorem State.setWb_keeps {s₀ s : State} (h : Keeps s₀ s) (n : Nat) (w : Option WbState) :
    Keeps s₀ (State.setWb s n w) := by
  unfold State.setWb
  repeat first
    | with_reducible first
      | assumption | apply State.setHead_keeps
    | with_reducible refine Keeps.fields ?_ ?_ ?_ ?_
    | exact Or.inl rfl
    | rfl

theorem State.wbLine_keeps {s₀ s : State} (h : Keeps s₀ s) (n y : Nat) (px : List Nat) :
    Keeps s₀ (State.wbLine s n y px) := by
  unfold State.wbLine
  repeat first
    | (extract_lets +onlyGivenNames x; first
      | (refine (have hx : Keeps s₀ x := ?_; ?_); (on_goal 2 => (clear_value x; rename' x => y)); subst x)
      | (refine (have hx : Keeps s₀ x.1 := ?_; ?_); (on_goal 2 => (clear_value x; rename' x => y)); subst x)
      | (clear_value x; rename' x => y))
    | with_reducible first
      | assumption | apply Keeps.ite | apply Keeps.itePair | apply State.p_keeps | apply State.writePixels_keeps
      | apply State.setWb_keeps
    | dsimp -zeta only
    | split
    | with_reducible refine Keeps.fields ?_ ?_ ?_ ?_
    | exact Or.inl rfl
    | rfl

theorem State.wbClose_keeps {s₀ s : State} (h : Keeps s₀ s) (n : Nat) : Keeps s₀ (State.wbClose s n) := by
  unfold State.wbClose
  repeat first
    | (extract_lets +onlyGivenNames x; first
      | (refine (have hx : Keeps s₀ x := ?_; ?_); (on_goal 2 => (clear_value x; rename' x => y)); subst x)
      | (refine (have hx : Keeps s₀ x.1 := ?_; ?_); (on_goal 2 => (clear_value x; rename' x => y)); subst x)
      | (clear_value x; rename' x => y))
    | with_reducible first
      | assumption | refine Keeps.fold ?_ (fun _ _ _ => ?_) _ | apply State.p_keeps | apply State.inc_keeps
      | apply State.setArrival_keeps | apply State.closeBuf_keeps | apply State.filled_keeps
      | apply State.setWb_keeps
    | split
    | with_reducible refine Keeps.fields ?_ ?_ ?_ ?_
    | exact Or.inl rfl
    | rfl

theorem State.wbBegin_keeps {s₀ s : State} (h : Keeps s₀ s) (n : Nat) : Keeps s₀ (State.wbBegin s n) := by
  unfold State.wbBegin
  repeat first
    | (extract_lets +onlyGivenNames x; first
      | (refine (have hx : Keeps s₀ x := ?_; ?_); (on_goal 2 => (clear_value x; rename' x => y)); subst x)
      | (refine (have hx : Keeps s₀ x.1 := ?_; ?_); (on_goal 2 => (clear_value x; rename' x => y)); subst x)
      | (clear_value x; rename' x => y))
    | with_reducible first
      | assumption | apply Keeps.ite | apply State.p_keeps | apply State.inc_keeps | apply State.claim_keeps
      | apply State.setWb_keeps
    | split
    | with_reducible refine Keeps.fields ?_ ?_ ?_ ?_
    | exact Or.inl rfl
    | rfl

theorem State.wbDrop_keeps {s₀ s : State} (h : Keeps s₀ s) (n : Nat) : Keeps s₀ (State.wbDrop s n) := by
  unfold State.wbDrop
  repeat first
    | with_reducible first
      | assumption | apply State.unclaim_keeps | apply State.setWb_keeps
    | split
    | with_reducible refine Keeps.fields ?_ ?_ ?_ ?_
    | exact Or.inl rfl
    | rfl

theorem State.vitFrame_keeps {s₀ s : State} (h : Keeps s₀ s) (n : Nat) : Keeps s₀ (State.vitFrame s n) := by
  unfold State.vitFrame
  repeat first
    | (extract_lets +onlyGivenNames x; first
      | (refine (have hx : Keeps s₀ x := ?_; ?_); (on_goal 2 => (clear_value x; rename' x => y)); subst x)
      | (refine (have hx : Keeps s₀ x.1 := ?_; ?_); (on_goal 2 => (clear_value x; rename' x => y)); subst x)
      | (clear_value x; rename' x => y))
    | with_reducible first
      | assumption | apply Keeps.ite | apply State.p_keeps | apply State.raise_keeps
    | split

theorem State.syncMarks_keeps {s₀ s : State} (h : Keeps s₀ s) (n : Nat) (b : Band) :
    Keeps s₀ (State.syncMarks s n b) := by
  unfold State.syncMarks
  repeat first
    | with_reducible first
      | assumption | refine Keeps.fold ?_ (fun _ _ _ => ?_) _ | apply State.p_keeps | apply State.pb_keeps

theorem State.scanOne_keeps {s₀ s : State} (h : Keeps s₀ s) (n : Nat) : Keeps s₀ (State.scanOne s n) := by
  unfold State.scanOne
  repeat first
    | (extract_lets +onlyGivenNames x; first
      | (refine (have hx : Keeps s₀ x := ?_; ?_); (on_goal 2 => (clear_value x; rename' x => y)); subst x)
      | (refine (have hx : Keeps s₀ x.1 := ?_; ?_); (on_goal 2 => (clear_value x; rename' x => y)); subst x)
      | (clear_value x; rename' x => y))
    | with_reducible first
      | assumption | apply State.setFrame_keeps | apply State.wbLine_keeps
    | split
    | with_reducible refine Keeps.fields ?_ ?_ ?_ ?_
    | exact Or.inl rfl
    | rfl

theorem State.scanLines_keeps {s₀ s : State} (h : Keeps s₀ s) (n k : Nat) : Keeps s₀ (State.scanLines s n k) := by
  unfold State.scanLines
  repeat first
    | with_reducible first
      | assumption | refine Keeps.fold ?_ (fun _ _ _ => ?_) _ | apply State.scanOne_keeps

theorem State.composeNext_keeps {s₀ s : State} (h : Keeps s₀ s) (n : Nat) (cutAt : Option Nat) (finds : List FetchFind) :
    Keeps s₀ (State.composeNext s n cutAt finds) := by
  unfold State.composeNext
  extract_lets w s1 y P c band stopped bad src s2 r s3 colour stop codes s4 f shown s5
  have h1 : Keeps s₀ s1 := State.scanLines_keeps h _ _
  have h2 : Keeps s₀ s2 := Keeps.ite (State.setFrame_keeps h1 _ _) h1
  have hr : Keeps s₀ r.1 := by
    clear_value s2 stopped bad band
    cases band with
    | none => exact h2
    | some b =>
      have ha := Keeps.ite (c := stopped = true) h2 (State.chaseLine_keeps h2 n b y)
      exact Keeps.itePair (Keeps.ite (State.syncMarks_keeps ha _ _) ha)
        (State.fetchLine_keeps (Keeps.ite (State.syncMarks_keeps ha _ _) ha) _ _ _ _)
  have h4 : Keeps s₀ s4 := Keeps.ite (State.countUnderrun_keeps hr _) hr
  exact Keeps.ite (State.pb_keeps (State.setFrame_keeps h4 _ _) _ _) (State.setFrame_keeps h4 _ _)

theorem prefetch_keeps {s₀ s : State} (h : Keeps s₀ s) (n : Nat) : Keeps s₀ (prefetch n s) := by
  unfold prefetch
  repeat first
    | with_reducible first
      | assumption | apply Keeps.ite | apply State.setFrame_keeps
    | with_reducible refine Keeps.fields ?_ ?_ ?_ ?_
    | exact Or.inl rfl
    | rfl

theorem composeLine_keeps {s₀ s : State} (h : Keeps s₀ s) (n : Nat) (seen : FetchSeen) :
    Keeps s₀ (composeLine n seen s) := by
  unfold composeLine
  repeat first
    | with_reducible first
      | assumption | apply Keeps.ite | refine Keeps.fold ?_ (fun _ _ _ => ?_) _ | apply State.fifoFill_keeps
      | apply State.composeNext_keeps

theorem underrun_keeps {s₀ s : State} (h : Keeps s₀ s) (n x : Nat) : Keeps s₀ (underrun n x s) := by
  unfold underrun
  repeat first
    | with_reducible first
      | assumption | apply Keeps.ite | apply State.scanOne_keeps | apply State.scanLines_keeps
      | apply State.composeNext_keeps

theorem State.frameEnd_keeps {s₀ s : State} (h : Keeps s₀ s) (n : Nat) : Keeps s₀ (State.frameEnd s n) := by
  unfold State.frameEnd
  repeat first
    | (extract_lets +onlyGivenNames x; first
      | (refine (have hx : Keeps s₀ x := ?_; ?_); (on_goal 2 => (clear_value x; rename' x => y)); subst x)
      | (refine (have hx : Keeps s₀ x.1 := ?_; ?_); (on_goal 2 => (clear_value x; rename' x => y)); subst x)
      | (clear_value x; rename' x => y))
    | with_reducible first
      | assumption | apply Keeps.ite | apply State.p_keeps | apply State.drawn_keeps | apply State.setHead_keeps
      | apply State.showAge_keeps | apply State.wbClose_keeps | apply State.wbDrop_keeps
      | apply State.vitFrame_keeps | apply State.scanLines_keeps
    | with_reducible refine Keeps.fields ?_ ?_ ?_ ?_
    | exact Or.inl rfl
    | rfl

end Sys2Proof.Machine
end

