-- ==== Sys2Proof/Laws/KeepHeads.lean ====
section
/-! SUPPORT. What the operations of Machine/Heads.lean keep. -/

set_option linter.all false

namespace Sys2Proof.Machine

theorem State.glEnter_keeps {s₀ s : State} (h : Keeps s₀ s) (n new : Nat) : Keeps s₀ (State.glEnter s n new) := by
  unfold State.glEnter
  repeat first
    | (extract_lets +onlyGivenNames x; first
      | (refine (have hx : Keeps s₀ x := ?_; ?_); (on_goal 2 => (clear_value x; rename' x => y)); subst x)
      | (refine (have hx : Keeps s₀ x.1 := ?_; ?_); (on_goal 2 => (clear_value x; rename' x => y)); subst x)
      | (clear_value x; rename' x => y))
    | with_reducible first
      | assumption | apply Keeps.ite | refine Keeps.fold ?_ (fun _ _ _ => ?_) _ | apply State.p_keeps
      | apply State.raiseHead_keeps | apply State.setHead_keeps
    | with_reducible refine Keeps.fields ?_ ?_ ?_ ?_
    | exact Or.inl rfl
    | rfl

theorem State.glRefresh_keeps {s₀ s : State} (h : Keeps s₀ s) (n : Nat) : Keeps s₀ (State.glRefresh s n) := by
  unfold State.glRefresh
  repeat first
    | with_reducible first
      | assumption | apply Keeps.ite | apply State.glEnter_keeps

theorem glMeasure_keeps {s₀ s : State} (h : Keeps s₀ s) (n : Nat) : Keeps s₀ (glMeasure n s) := by
  unfold glMeasure
  repeat first
    | (extract_lets +onlyGivenNames x; first
      | (refine (have hx : Keeps s₀ x := ?_; ?_); (on_goal 2 => (clear_value x; rename' x => y)); subst x)
      | (refine (have hx : Keeps s₀ x.1 := ?_; ?_); (on_goal 2 => (clear_value x; rename' x => y)); subst x)
      | (clear_value x; rename' x => y))
    | with_reducible first
      | assumption | apply Keeps.ite | apply State.p_keeps | apply State.setHead_keeps | apply State.glEnter_keeps
    | with_reducible refine Keeps.fields ?_ ?_ ?_ ?_
    | exact Or.inl rfl
    | rfl

theorem State.glTrim_keeps {s₀ s : State} (h : Keeps s₀ s) (n : Nat) : Keeps s₀ (State.glTrim s n) := by
  unfold State.glTrim
  repeat first
    | (extract_lets +onlyGivenNames x; first
      | (refine (have hx : Keeps s₀ x := ?_; ?_); (on_goal 2 => (clear_value x; rename' x => y)); subst x)
      | (refine (have hx : Keeps s₀ x.1 := ?_; ?_); (on_goal 2 => (clear_value x; rename' x => y)); subst x)
      | (clear_value x; rename' x => y))
    | with_reducible first
      | assumption | apply Keeps.ite | apply State.p_keeps | apply State.drawn_keeps
    | with_reducible refine Keeps.fields ?_ ?_ ?_ ?_
    | exact Or.inl rfl
    | rfl

theorem State.headStarting_keeps {s₀ s : State} (h : Keeps s₀ s) (n : Nat) (wake : Bool) :
    Keeps s₀ (State.headStarting s n wake) := by
  unfold State.headStarting
  repeat first
    | (extract_lets +onlyGivenNames x; first
      | (refine (have hx : Keeps s₀ x := ?_; ?_); (on_goal 2 => (clear_value x; rename' x => y)); subst x)
      | (refine (have hx : Keeps s₀ x.1 := ?_; ?_); (on_goal 2 => (clear_value x; rename' x => y)); subst x)
      | (clear_value x; rename' x => y))
    | with_reducible first
      | assumption | apply Keeps.ite | apply State.p_keeps | apply State.keyHeadStarts_keeps
      | apply State.glRefresh_keeps | apply wake_keeps

theorem State.commitApply_keeps {s₀ s : State} (h : Keeps s₀ s) (n : Nat) : Keeps s₀ (State.commitApply s n) := by
  unfold State.commitApply
  repeat first
    | (extract_lets +onlyGivenNames x; first
      | (refine (have hx : Keeps s₀ x := ?_; ?_); (on_goal 2 => (clear_value x; rename' x => y)); subst x)
      | (refine (have hx : Keeps s₀ x.1 := ?_; ?_); (on_goal 2 => (clear_value x; rename' x => y)); subst x)
      | (clear_value x; rename' x => y))
    | with_reducible first
      | assumption | refine Keeps.fold ?_ (fun _ _ _ => ?_) _ | apply State.setReg_keeps | apply State.p_keeps
      | apply State.pb_keeps | apply State.setHead_keeps | apply State.stageCheckArea_keeps
    | split
    | with_reducible refine Keeps.fields ?_ ?_ ?_ ?_
    | exact Or.inl rfl
    | rfl

theorem State.headStop_keeps {s₀ s : State} (h : Keeps s₀ s) (n dest : Nat) :
    Keeps s₀ (State.headStop s n dest) := by
  unfold State.headStop
  repeat first
    | (extract_lets +onlyGivenNames x; first
      | (refine (have hx : Keeps s₀ x := ?_; ?_); (on_goal 2 => (clear_value x; rename' x => y)); subst x)
      | (refine (have hx : Keeps s₀ x.1 := ?_; ?_); (on_goal 2 => (clear_value x; rename' x => y)); subst x)
      | (clear_value x; rename' x => y))
    | with_reducible first
      | assumption | apply Keeps.ite | apply Keeps.itePair | refine Keeps.fold ?_ (fun _ _ _ => ?_) _
      | refine Keeps.foldPair ?_ (fun _ _ _ => ?_) _ | apply State.p_keeps | apply State.pb_keeps
      | apply State.raiseHead_keeps | apply State.setHead_keeps | apply State.amendHead_keeps
      | apply State.amendDiscard_keeps | apply State.keyHeadGone_keeps | apply State.updateLeases_keeps
      | apply State.dropSlot_keeps | apply State.wbDrop_keeps | apply State.glRefresh_keeps
    | dsimp -zeta only
    | with_reducible refine Keeps.fields ?_ ?_ ?_ ?_
    | exact Or.inl rfl
    | rfl

theorem headRunWrite_keeps {s₀ s : State} (h : Keeps s₀ s) (m n : Nat) (v : Word) :
    Keeps s₀ (headRunWrite m n v s) := by
  unfold headRunWrite
  repeat first
    | (extract_lets +onlyGivenNames x; first
      | (refine (have hx : Keeps s₀ x := ?_; ?_); (on_goal 2 => (clear_value x; rename' x => y)); subst x)
      | (refine (have hx : Keeps s₀ x.1 := ?_; ?_); (on_goal 2 => (clear_value x; rename' x => y)); subst x)
      | (clear_value x; rename' x => y))
    | with_reducible first
      | assumption | apply Keeps.ite | refine Keeps.fold ?_ (fun _ _ _ => ?_) _ | apply State.p_keeps
      | apply State.pb_keeps | apply State.logIgnored_keeps | apply State.headStarting_keeps
      | apply State.commitApply_keeps

theorem pairWrite_keeps {s₀ s : State} (h : Keeps s₀ s) (m n : Nat) (v : Word) : Keeps s₀ (pairWrite m n v s) := by
  unfold pairWrite
  repeat first
    | with_reducible first
      | assumption | apply Keeps.ite | apply State.p_keeps | apply State.logIgnored_keeps
      | apply State.stageCheckPair_keeps

theorem headCtrlWrite_keeps {s₀ s : State} (h : Keeps s₀ s) (m n : Nat) (v : Word) :
    Keeps s₀ (headCtrlWrite m n v s) := by
  unfold headCtrlWrite
  repeat first
    | with_reducible first
      | assumption | apply Keeps.ite | apply State.p_keeps | apply State.logIgnored_keeps | apply headRunWrite_keeps
      | apply pairWrite_keeps

theorem headEditWrite_keeps {s₀ s : State} (h : Keeps s₀ s) (m n a : Nat) (v : Word) :
    Keeps s₀ (headEditWrite m n a v s) := by
  unfold headEditWrite
  repeat first
    | (extract_lets +onlyGivenNames x; first
      | (refine (have hx : Keeps s₀ x := ?_; ?_); (on_goal 2 => (clear_value x; rename' x => y)); subst x)
      | (refine (have hx : Keeps s₀ x.1 := ?_; ?_); (on_goal 2 => (clear_value x; rename' x => y)); subst x)
      | (clear_value x; rename' x => y))
    | with_reducible first
      | assumption | apply Keeps.ite | apply State.logIgnored_keeps | apply State.logTaken_keeps
      | apply State.writeFields_keeps | apply State.setHead_keeps
    | with_reducible refine Keeps.fields ?_ ?_ ?_ ?_
    | exact Or.inl rfl
    | rfl

theorem clkSelWrite_keeps {s₀ s : State} (h : Keeps s₀ s) (m n : Nat) (v : Word) :
    Keeps s₀ (clkSelWrite m n v s) := by
  unfold clkSelWrite
  repeat first
    | (extract_lets +onlyGivenNames x; first
      | (refine (have hx : Keeps s₀ x := ?_; ?_); (on_goal 2 => (clear_value x; rename' x => y)); subst x)
      | (refine (have hx : Keeps s₀ x.1 := ?_; ?_); (on_goal 2 => (clear_value x; rename' x => y)); subst x)
      | (clear_value x; rename' x => y))
    | with_reducible first
      | assumption | apply Keeps.ite | apply State.logIgnored_keeps | apply State.writeFields_keeps

theorem commitRefused_keeps {s₀ s : State} (h : Keeps s₀ s) (m n r : Nat) : Keeps s₀ (commitRefused m n r s) := by
  unfold commitRefused
  repeat first
    | with_reducible first
      | assumption | apply State.p_keeps | apply State.logIgnored_keeps

theorem headCommit_keeps {s₀ s : State} (h : Keeps s₀ s) (m n : Nat) : Keeps s₀ (headCommit m n s) := by
  unfold headCommit
  repeat first
    | with_reducible first
      | assumption | apply Keeps.ite | refine Keeps.fold ?_ (fun _ _ _ => ?_) _ | apply State.p_keeps
      | apply State.pb_keeps | apply commitRefused_keeps

theorem State.latchMark_keeps {s₀ s : State} (h : Keeps s₀ s) (n : Nat) : Keeps s₀ (State.latchMark s n) := by
  unfold State.latchMark
  repeat first
    | with_reducible first
      | assumption | apply State.stamp_keeps | apply State.setHead_keeps
    | with_reducible refine Keeps.fields ?_ ?_ ?_ ?_
    | exact Or.inl rfl
    | rfl

theorem State.latchCount_keeps {s₀ s : State} (h : Keeps s₀ s) (n : Nat) : Keeps s₀ (State.latchCount s n) := by
  unfold State.latchCount
  repeat first
    | (extract_lets +onlyGivenNames x; first
      | (refine (have hx : Keeps s₀ x := ?_; ?_); (on_goal 2 => (clear_value x; rename' x => y)); subst x)
      | (refine (have hx : Keeps s₀ x.1 := ?_; ?_); (on_goal 2 => (clear_value x; rename' x => y)); subst x)
      | (clear_value x; rename' x => y))
    | with_reducible first
      | assumption | apply State.p_keeps | apply State.inc_keeps | apply State.setHead_keeps
      | apply State.latchMark_keeps
    | with_reducible refine Keeps.fields ?_ ?_ ?_ ?_
    | exact Or.inl rfl
    | rfl

theorem State.latchSteps_keeps {s₀ s : State} (h : Keeps s₀ s) (n base : Nat) :
    Keeps s₀ (State.latchSteps s n base) := by
  unfold State.latchSteps
  repeat first
    | (extract_lets +onlyGivenNames x; first
      | (refine (have hx : Keeps s₀ x := ?_; ?_); (on_goal 2 => (clear_value x; rename' x => y)); subst x)
      | (refine (have hx : Keeps s₀ x.1 := ?_; ?_); (on_goal 2 => (clear_value x; rename' x => y)); subst x)
      | (have z := fun a => x a; clear z; subst x)
      | (clear_value x; rename' x => y))
    | with_reducible first
      | assumption | apply Keeps.ite | apply Keeps.itePair | refine Keeps.fold ?_ (fun _ _ _ => ?_) _
      | refine Keeps.foldPair ?_ (fun _ _ _ => ?_) _ | apply State.p_keeps | apply State.raiseHead_keeps
      | apply State.setHead_keeps | apply State.amendHead_keeps | apply State.keyCheck_keeps
      | apply State.keyLatch_keeps | apply State.groupsStep_keeps | apply State.latchHead_keeps
      | apply State.frameBegin_keeps | apply State.wbBegin_keeps | apply State.glRefresh_keeps
      | apply State.glTrim_keeps
    | dsimp -zeta only
    | with_reducible refine Keeps.fields ?_ ?_ ?_ ?_
    | exact Or.inl rfl
    | rfl

theorem State.latchPoint_keeps {s₀ s : State} (h : Keeps s₀ s) (first : Bool) (n : Nat) :
    Keeps s₀ (State.latchPoint s first n) := by
  unfold State.latchPoint
  repeat first
    | (extract_lets +onlyGivenNames x; first
      | (refine (have hx : Keeps s₀ x := ?_; ?_); (on_goal 2 => (clear_value x; rename' x => y)); subst x)
      | (refine (have hx : Keeps s₀ x.1 := ?_; ?_); (on_goal 2 => (clear_value x; rename' x => y)); subst x)
      | (clear_value x; rename' x => y))
    | with_reducible first
      | assumption | apply Keeps.ite | refine Keeps.fold ?_ (fun _ _ _ => ?_) _ | apply State.raiseHead_keeps
      | apply State.frameEnd_keeps | apply State.commitApply_keeps | apply State.headStop_keeps
      | apply State.latchMark_keeps | apply State.latchCount_keeps | apply State.latchSteps_keeps

theorem State.otabNext_keeps {s₀ s : State} (h : Keeps s₀ s) (n : Nat) : Keeps s₀ (State.otabNext s n) := by
  unfold State.otabNext
  repeat first
    | with_reducible first
      | assumption | apply State.inc_keeps

theorem otabWrite_keeps {s₀ s : State} (h : Keeps s₀ s) (m n : Nat) (v : Word) : Keeps s₀ (otabWrite m n v s) := by
  unfold otabWrite
  repeat first
    | (extract_lets +onlyGivenNames x; first
      | (refine (have hx : Keeps s₀ x := ?_; ?_); (on_goal 2 => (clear_value x; rename' x => y)); subst x)
      | (refine (have hx : Keeps s₀ x.1 := ?_; ?_); (on_goal 2 => (clear_value x; rename' x => y)); subst x)
      | (clear_value x; rename' x => y))
    | with_reducible first
      | assumption | apply Keeps.ite | apply State.logIgnored_keeps | apply State.setHead_keeps
      | apply State.otabNext_keeps
    | with_reducible refine Keeps.fields ?_ ?_ ?_ ?_
    | exact Or.inl rfl
    | rfl

theorem otabRead_keeps {s₀ s : State} (h : Keeps s₀ s) (n : Nat) : Keeps s₀ (otabRead n s).1 := by
  unfold otabRead
  repeat first
    | with_reducible first
      | assumption | apply State.otabNext_keeps
    | dsimp -zeta only

theorem fifoMinWrite_keeps {s₀ s : State} (h : Keeps s₀ s) (n : Nat) (v : Word) :
    Keeps s₀ (fifoMinWrite n v s) := by
  unfold fifoMinWrite
  repeat first
    | with_reducible first
      | assumption | apply Keeps.ite | apply State.p_keeps

theorem labelScaleWrite_keeps {s₀ s : State} (h : Keeps s₀ s) (m : Nat) (v : Word) :
    Keeps s₀ (labelScaleWrite m v s) := by
  unfold labelScaleWrite
  repeat first
    | (extract_lets +onlyGivenNames x; first
      | (refine (have hx : Keeps s₀ x := ?_; ?_); (on_goal 2 => (clear_value x; rename' x => y)); subst x)
      | (refine (have hx : Keeps s₀ x.1 := ?_; ?_); (on_goal 2 => (clear_value x; rename' x => y)); subst x)
      | (clear_value x; rename' x => y))
    | with_reducible first
      | assumption | apply Keeps.ite | apply State.p_keeps | apply State.logIgnored_keeps
      | apply State.writeFields_keeps

theorem State.headCtrl_keeps {s₀ s : State} (h : Keeps s₀ s) (m n lo x : Nat) :
    Keeps s₀ (State.headCtrl s m n lo x) := by
  unfold State.headCtrl
  repeat first
    | with_reducible first
      | assumption | refine State.ctlWrite_keeps ?_ _ _ _ (fun _ _ => ?_) | apply headCtrlWrite_keeps

end Sys2Proof.Machine
end

