-- ==== Sys2Proof/Laws/KeepLanes.lean ====
section
/-! SUPPORT. What the operations of Machine/Lanes.lean keep. -/

set_option linter.all false

namespace Sys2Proof.Machine

theorem State.setLane_keeps {s₀ s : State} (h : Keeps s₀ s) (q l : Nat) (x : LaneState) :
    Keeps s₀ (State.setLane s q l x) := by
  unfold State.setLane
  repeat first
    | with_reducible first
      | assumption
    | with_reducible refine Keeps.fields ?_ ?_ ?_ ?_
    | exact Or.inl rfl
    | rfl

theorem State.setBits_keeps {s₀ s : State} (h : Keeps s₀ s) (q l n : Nat) (runs : Bool) :
    Keeps s₀ (State.setBits s q l n runs) := by
  unfold State.setBits
  repeat first
    | (extract_lets +onlyGivenNames x; first
      | (refine (have hx : Keeps s₀ x := ?_; ?_); (on_goal 2 => (clear_value x; rename' x => y)); subst x)
      | (refine (have hx : Keeps s₀ x.1 := ?_; ?_); (on_goal 2 => (clear_value x; rename' x => y)); subst x)
      | (clear_value x; rename' x => y))
    | with_reducible first
      | assumption | apply Keeps.ite | apply State.p_keeps | apply State.setLane_keeps
    | with_reducible refine Keeps.fields ?_ ?_ ?_ ?_
    | exact Or.inl rfl
    | rfl

theorem State.prbsCount_keeps {s₀ s : State} (h : Keeps s₀ s) (q l n : Nat) :
    Keeps s₀ (State.prbsCount s q l n) := by
  unfold State.prbsCount
  repeat first
    | (extract_lets +onlyGivenNames x; first
      | (refine (have hx : Keeps s₀ x := ?_; ?_); (on_goal 2 => (clear_value x; rename' x => y)); subst x)
      | (refine (have hx : Keeps s₀ x.1 := ?_; ?_); (on_goal 2 => (clear_value x; rename' x => y)); subst x)
      | (clear_value x; rename' x => y))
    | with_reducible first
      | assumption | apply Keeps.ite | apply State.incSatBy_keeps | apply State.raise_keeps

theorem State.prbsSettle_keeps {s₀ s : State} (h : Keeps s₀ s) (q l : Nat) : Keeps s₀ (State.prbsSettle s q l) := by
  unfold State.prbsSettle
  repeat first
    | (extract_lets +onlyGivenNames x; first
      | (refine (have hx : Keeps s₀ x := ?_; ?_); (on_goal 2 => (clear_value x; rename' x => y)); subst x)
      | (refine (have hx : Keeps s₀ x.1 := ?_; ?_); (on_goal 2 => (clear_value x; rename' x => y)); subst x)
      | (clear_value x; rename' x => y))
    | with_reducible first
      | assumption | apply Keeps.ite | apply State.setLane_keeps | apply State.prbsCount_keeps
    | with_reducible refine Keeps.fields ?_ ?_ ?_ ?_
    | exact Or.inl rfl
    | rfl

theorem State.prbsLock_keeps {s₀ s : State} (h : Keeps s₀ s) (q l : Nat) (lock : Bool) :
    Keeps s₀ (State.prbsLock s q l lock) := by
  unfold State.prbsLock
  repeat first
    | (extract_lets +onlyGivenNames x; first
      | (refine (have hx : Keeps s₀ x := ?_; ?_); (on_goal 2 => (clear_value x; rename' x => y)); subst x)
      | (refine (have hx : Keeps s₀ x.1 := ?_; ?_); (on_goal 2 => (clear_value x; rename' x => y)); subst x)
      | (clear_value x; rename' x => y))
    | with_reducible first
      | assumption | apply Keeps.ite | apply State.pb_keeps | apply State.raise_keeps | apply State.setLane_keeps
      | apply State.setBits_keeps | apply State.prbsSettle_keeps
    | with_reducible refine Keeps.fields ?_ ?_ ?_ ?_
    | exact Or.inl rfl
    | rfl

theorem State.prbsStart_keeps {s₀ s : State} (h : Keeps s₀ s) (q l : Nat) (anew : Bool) :
    Keeps s₀ (State.prbsStart s q l anew) := by
  unfold State.prbsStart
  repeat first
    | (extract_lets +onlyGivenNames x; first
      | (refine (have hx : Keeps s₀ x := ?_; ?_); (on_goal 2 => (clear_value x; rename' x => y)); subst x)
      | (refine (have hx : Keeps s₀ x.1 := ?_; ?_); (on_goal 2 => (clear_value x; rename' x => y)); subst x)
      | (clear_value x; rename' x => y))
    | with_reducible first
      | assumption | apply Keeps.ite | apply State.drawn_keeps | apply State.setLane_keeps
    | with_reducible refine Keeps.fields ?_ ?_ ?_ ?_
    | exact Or.inl rfl
    | rfl

theorem State.eqDefaults_keeps {s₀ s : State} (h : Keeps s₀ s) (q l : Nat) : Keeps s₀ (State.eqDefaults s q l) := by
  unfold State.eqDefaults
  repeat first
    | (extract_lets +onlyGivenNames x; first
      | (refine (have hx : Keeps s₀ x := ?_; ?_); (on_goal 2 => (clear_value x; rename' x => y)); subst x)
      | (refine (have hx : Keeps s₀ x.1 := ?_; ?_); (on_goal 2 => (clear_value x; rename' x => y)); subst x)
      | (clear_value x; rename' x => y))
    | with_reducible first
      | assumption | apply State.p_keeps

theorem State.eqFree_keeps {s₀ s : State} (h : Keeps s₀ s) (q l : Nat) : Keeps s₀ (State.eqFree s q l) := by
  unfold State.eqFree
  repeat first
    | (extract_lets +onlyGivenNames x; first
      | (refine (have hx : Keeps s₀ x := ?_; ?_); (on_goal 2 => (clear_value x; rename' x => y)); subst x)
      | (refine (have hx : Keeps s₀ x.1 := ?_; ?_); (on_goal 2 => (clear_value x; rename' x => y)); subst x)
      | (clear_value x; rename' x => y))
    | with_reducible first
      | assumption | apply State.pFree_keeps

theorem State.eqStep_keeps {s₀ : State} {x : State × Nat} (h : Keeps s₀ x.1) (f : FRef) (lo hi : Int) :
    Keeps s₀ (State.eqStep x f lo hi).1 := State.drawn_keeps (State.p_keeps h _ _)

theorem State.eqWalk_keeps {s₀ s : State} (h : Keeps s₀ s) (q l k : Nat) : Keeps s₀ (State.eqWalk s q l k) := by
  unfold State.eqWalk
  refine Keeps.ite h ?_
  exact State.eqStep_keeps (State.eqStep_keeps (State.eqStep_keeps (State.eqStep_keeps (State.eqStep_keeps
    (State.eqStep_keeps (x := (s, k)) h _ _ _) _ _ _) _ _ _) _ _ _) _ _ _) _ _ _

theorem State.eqSettle_keeps {s₀ s : State} (h : Keeps s₀ s) (q l : Nat) : Keeps s₀ (State.eqSettle s q l) := by
  unfold State.eqSettle
  repeat first
    | (extract_lets +onlyGivenNames x; first
      | (refine (have hx : Keeps s₀ x := ?_; ?_); (on_goal 2 => (clear_value x; rename' x => y)); subst x)
      | (refine (have hx : Keeps s₀ x.1 := ?_; ?_); (on_goal 2 => (clear_value x; rename' x => y)); subst x)
      | (clear_value x; rename' x => y))
    | with_reducible first
      | assumption | apply Keeps.ite | apply State.setLane_keeps | apply State.eqFree_keeps
      | apply State.eqWalk_keeps
    | with_reducible refine Keeps.fields ?_ ?_ ?_ ?_
    | exact Or.inl rfl
    | rfl

theorem State.lockDrop_keeps {s₀ s : State} (h : Keeps s₀ s) (q l : Nat) : Keeps s₀ (State.lockDrop s q l) := by
  unfold State.lockDrop
  repeat first
    | (extract_lets +onlyGivenNames x; first
      | (refine (have hx : Keeps s₀ x := ?_; ?_); (on_goal 2 => (clear_value x; rename' x => y)); subst x)
      | (refine (have hx : Keeps s₀ x.1 := ?_; ?_); (on_goal 2 => (clear_value x; rename' x => y)); subst x)
      | (clear_value x; rename' x => y))
    | with_reducible first
      | assumption | apply Keeps.ite | apply State.pb_keeps | apply State.inc_keeps

theorem State.losEdges_keeps {s₀ s : State} (h : Keeps s₀ s) (q : Nat) (ls : List Nat) :
    Keeps s₀ (State.losEdges s q ls) := by
  unfold State.losEdges
  repeat first
    | with_reducible first
      | assumption | refine Keeps.fold ?_ (fun _ _ _ => ?_) _ | apply State.pb_keeps | apply State.inc_keeps
      | apply State.lockDrop_keeps

theorem State.lockAnew_keeps {s₀ s : State} (h : Keeps s₀ s) (q l : Nat) : Keeps s₀ (State.lockAnew s q l) := by
  unfold State.lockAnew
  repeat first
    | with_reducible first
      | assumption | apply State.setLane_keeps
    | with_reducible refine Keeps.fields ?_ ?_ ?_ ?_
    | exact Or.inl rfl
    | rfl

theorem State.lolEdges_keeps {s₀ s : State} (h : Keeps s₀ s) (q : Nat) (ls : List Nat) :
    Keeps s₀ (State.lolEdges s q ls) := by
  unfold State.lolEdges
  repeat first
    | with_reducible first
      | assumption | refine Keeps.fold ?_ (fun _ _ _ => ?_) _ | apply State.pb_keeps | apply State.inc_keeps
      | apply State.lockDrop_keeps | apply State.lockAnew_keeps

theorem State.losEvent_keeps {s₀ s : State} (h : Keeps s₀ s) (q : Nat) (ls : List Nat) :
    Keeps s₀ (State.losEvent s q ls) := by
  unfold State.losEvent
  repeat first
    | with_reducible first
      | assumption | apply State.raise_keeps | apply laneLos_keeps
    | split
    | with_reducible refine Keeps.fields ?_ ?_ ?_ ?_
    | exact Or.inl rfl
    | rfl

theorem State.lolEvent_keeps {s₀ s : State} (h : Keeps s₀ s) (q : Nat) (ls : List Nat) :
    Keeps s₀ (State.lolEvent s q ls) := by
  unfold State.lolEvent
  repeat first
    | with_reducible first
      | assumption | apply State.raise_keeps | apply laneLol_keeps
    | split
    | with_reducible refine Keeps.fields ?_ ?_ ?_ ?_
    | exact Or.inl rfl
    | rfl

theorem State.laneSet_keeps {s₀ s : State} (h : Keeps s₀ s) (q l owner power : Nat) :
    Keeps s₀ (State.laneSet s q l owner power) := by
  unfold State.laneSet
  repeat first
    | (extract_lets +onlyGivenNames x; first
      | (refine (have hx : Keeps s₀ x := ?_; ?_); (on_goal 2 => (clear_value x; rename' x => y)); subst x)
      | (refine (have hx : Keeps s₀ x.1 := ?_; ?_); (on_goal 2 => (clear_value x; rename' x => y)); subst x)
      | (clear_value x; rename' x => y))
    | with_reducible first
      | assumption | apply Keeps.ite | apply State.p_keeps | apply State.pb_keeps | apply State.prbsLock_keeps
      | apply State.eqDefaults_keeps | apply State.eqSettle_keeps | apply State.lockAnew_keeps

theorem State.setQuad_keeps {s₀ s : State} (h : Keeps s₀ s) (q : Nat) (t : Option Nat) :
    Keeps s₀ (State.setQuad s q t) := by
  unfold State.setQuad
  repeat first
    | with_reducible first
      | assumption
    | with_reducible refine Keeps.fields ?_ ?_ ?_ ?_
    | exact Or.inl rfl
    | rfl

theorem State.quadRefresh_keeps {s₀ s : State} (h : Keeps s₀ s) (q : Nat) : Keeps s₀ (State.quadRefresh s q) := by
  unfold State.quadRefresh
  repeat first
    | (extract_lets +onlyGivenNames x; first
      | (refine (have hx : Keeps s₀ x := ?_; ?_); (on_goal 2 => (clear_value x; rename' x => y)); subst x)
      | (refine (have hx : Keeps s₀ x.1 := ?_; ?_); (on_goal 2 => (clear_value x; rename' x => y)); subst x)
      | (clear_value x; rename' x => y))
    | with_reducible first
      | assumption | apply Keeps.ite | refine Keeps.fold ?_ (fun _ _ _ => ?_) _ | apply State.p_keeps
      | apply State.pb_keeps | apply State.lolEdges_keeps | apply State.lolEvent_keeps | apply State.laneSet_keeps
      | apply State.setQuad_keeps

theorem State.quadsRefresh_keeps {s₀ s : State} (h : Keeps s₀ s) (qs : List Nat) :
    Keeps s₀ (State.quadsRefresh s qs) := by
  unfold State.quadsRefresh
  repeat first
    | with_reducible first
      | assumption | refine Keeps.fold ?_ (fun _ _ _ => ?_) _ | apply State.quadRefresh_keeps

theorem firWrite_keeps {s₀ s : State} (h : Keeps s₀ s) (m q l : Nat) (v : Word) :
    Keeps s₀ (firWrite m q l v s) := by
  unfold firWrite
  repeat first
    | (extract_lets +onlyGivenNames x; first
      | (refine (have hx : Keeps s₀ x := ?_; ?_); (on_goal 2 => (clear_value x; rename' x => y)); subst x)
      | (refine (have hx : Keeps s₀ x.1 := ?_; ?_); (on_goal 2 => (clear_value x; rename' x => y)); subst x)
      | (clear_value x; rename' x => y))
    | with_reducible first
      | assumption | apply Keeps.ite | apply State.errLog_keeps | apply State.logIgnored_keeps
      | apply State.writeFields_keeps

theorem laneCtrlWrite_keeps {s₀ s : State} (h : Keeps s₀ s) (m q l : Nat) (v : Word) :
    Keeps s₀ (laneCtrlWrite m q l v s) := by
  unfold laneCtrlWrite
  repeat first
    | (extract_lets +onlyGivenNames x; first
      | (refine (have hx : Keeps s₀ x := ?_; ?_); (on_goal 2 => (clear_value x; rename' x => y)); subst x)
      | (refine (have hx : Keeps s₀ x.1 := ?_; ?_); (on_goal 2 => (clear_value x; rename' x => y)); subst x)
      | (clear_value x; rename' x => y))
    | with_reducible first
      | assumption | apply Keeps.ite | apply State.p_keeps | apply State.pb_keeps | apply State.logIgnored_keeps
      | apply State.writeFields_keeps | apply State.prbsSettle_keeps | apply State.prbsStart_keeps
      | apply State.eqDefaults_keeps | apply State.eqSettle_keeps | apply State.quadRefresh_keeps

theorem quadCtrlWrite_keeps {s₀ s : State} (h : Keeps s₀ s) (m q : Nat) (v : Word) :
    Keeps s₀ (quadCtrlWrite m q v s) := by
  unfold quadCtrlWrite
  repeat first
    | (extract_lets +onlyGivenNames x; first
      | (refine (have hx : Keeps s₀ x := ?_; ?_); (on_goal 2 => (clear_value x; rename' x => y)); subst x)
      | (refine (have hx : Keeps s₀ x.1 := ?_; ?_); (on_goal 2 => (clear_value x; rename' x => y)); subst x)
      | (clear_value x; rename' x => y))
    | with_reducible first
      | assumption | apply Keeps.ite | apply State.p_keeps | apply State.errLog_keeps | apply State.logIgnored_keeps

theorem State.prbsDrop_keeps {s₀ s : State} (h : Keeps s₀ s) (q l : Nat) : Keeps s₀ (State.prbsDrop s q l) := by
  unfold State.prbsDrop
  repeat first
    | with_reducible first
      | assumption | apply State.inc_keeps | apply State.prbsLock_keeps

theorem State.prbsError_keeps {s₀ s : State} (h : Keeps s₀ s) (q l : Nat) : Keeps s₀ (State.prbsError s q l) := by
  unfold State.prbsError
  repeat first
    | (extract_lets +onlyGivenNames x; first
      | (refine (have hx : Keeps s₀ x := ?_; ?_); (on_goal 2 => (clear_value x; rename' x => y)); subst x)
      | (refine (have hx : Keeps s₀ x.1 := ?_; ?_); (on_goal 2 => (clear_value x; rename' x => y)); subst x)
      | (clear_value x; rename' x => y))
    | with_reducible first
      | assumption | apply Keeps.ite | apply State.setLane_keeps | apply State.prbsCount_keeps
      | apply State.prbsSettle_keeps | apply State.prbsDrop_keeps
    | with_reducible refine Keeps.fields ?_ ?_ ?_ ?_
    | exact Or.inl rfl
    | rfl

theorem prbsCtrlWrite_keeps {s₀ s : State} (h : Keeps s₀ s) (m q l : Nat) (v : Word) :
    Keeps s₀ (prbsCtrlWrite m q l v s) := by
  unfold prbsCtrlWrite
  repeat first
    | (extract_lets +onlyGivenNames x; first
      | (refine (have hx : Keeps s₀ x := ?_; ?_); (on_goal 2 => (clear_value x; rename' x => y)); subst x)
      | (refine (have hx : Keeps s₀ x.1 := ?_; ?_); (on_goal 2 => (clear_value x; rename' x => y)); subst x)
      | (clear_value x; rename' x => y))
    | with_reducible first
      | assumption | apply Keeps.ite | apply State.errLog_keeps | apply State.writeFields_keeps
      | apply State.setLane_keeps | apply State.prbsSettle_keeps | apply State.prbsLock_keeps
      | apply State.prbsStart_keeps | apply State.prbsError_keeps
    | with_reducible refine Keeps.fields ?_ ?_ ?_ ?_
    | exact Or.inl rfl
    | rfl

theorem prbsClear_keeps {s₀ s : State} (h : Keeps s₀ s) (q l : Nat) (v : Word) : Keeps s₀ (prbsClear q l v s) := by
  unfold prbsClear
  repeat first
    | with_reducible first
      | assumption | apply Keeps.ite | apply State.p_keeps | apply State.setBits_keeps
      | apply State.prbsSettle_keeps

theorem prbsGain_keeps {s₀ s : State} (h : Keeps s₀ s) (q l : Nat) : Keeps s₀ (prbsGain q l s) := by
  unfold prbsGain
  repeat first
    | with_reducible first
      | assumption | apply Keeps.ite | apply State.prbsLock_keeps

theorem prbsLoss_keeps {s₀ s : State} (h : Keeps s₀ s) (q l : Nat) : Keeps s₀ (prbsLoss q l s) := by
  unfold prbsLoss
  repeat first
    | (extract_lets +onlyGivenNames x; first
      | (refine (have hx : Keeps s₀ x := ?_; ?_); (on_goal 2 => (clear_value x; rename' x => y)); subst x)
      | (refine (have hx : Keeps s₀ x.1 := ?_; ?_); (on_goal 2 => (clear_value x; rename' x => y)); subst x)
      | (clear_value x; rename' x => y))
    | with_reducible first
      | assumption | apply Keeps.ite | apply State.prbsCount_keeps | apply State.prbsSettle_keeps
      | apply State.prbsDrop_keeps

theorem adaptDone_keeps {s₀ s : State} (h : Keeps s₀ s) (q l : Nat) : Keeps s₀ (adaptDone q l s) := by
  unfold adaptDone
  repeat first
    | with_reducible first
      | assumption | apply Keeps.ite | apply State.p_keeps | apply State.eqSettle_keeps

theorem aligned_keeps {s₀ s : State} (h : Keeps s₀ s) (q l : Nat) : Keeps s₀ (aligned q l s) := by
  unfold aligned
  repeat first
    | with_reducible first
      | assumption | apply Keeps.ite | apply State.pb_keeps

theorem alignLoss_keeps {s₀ s : State} (h : Keeps s₀ s) (q l : Nat) : Keeps s₀ (alignLoss q l s) := by
  unfold alignLoss
  repeat first
    | with_reducible first
      | assumption | apply Keeps.ite | apply State.incBy_keeps | apply State.lockDrop_keeps

theorem blockLock_keeps {s₀ s : State} (h : Keeps s₀ s) (q l : Nat) : Keeps s₀ (blockLock q l s) := by
  unfold blockLock
  repeat first
    | with_reducible first
      | assumption | apply Keeps.ite | apply State.pb_keeps

end Sys2Proof.Machine
end

