-- ==== Sys2Proof/Laws/KeepLinks.lean ====
section
/-! SUPPORT. What the operations of Machine/Links.lean keep. -/

set_option linter.all false

namespace Sys2Proof.Machine

theorem State.setDp_keeps {s₀ s : State} (h : Keeps s₀ s) (n : Nat) (x : DpState) :
    Keeps s₀ (State.setDp s n x) := by
  unfold State.setDp
  repeat first
    | with_reducible first
      | assumption
    | with_reducible refine Keeps.fields ?_ ?_ ?_ ?_
    | exact Or.inl rfl
    | rfl

theorem State.setTz_keeps {s₀ s : State} (h : Keeps s₀ s) (q : Nat) (x : TzlState) :
    Keeps s₀ (State.setTz s q x) := by
  unfold State.setTz
  repeat first
    | with_reducible first
      | assumption
    | with_reducible refine Keeps.fields ?_ ?_ ?_ ?_
    | exact Or.inl rfl
    | rfl

theorem State.dpRefresh_keeps {s₀ s : State} (h : Keeps s₀ s) (n : Nat) : Keeps s₀ (State.dpRefresh s n) := by
  unfold State.dpRefresh
  repeat first
    | with_reducible first
      | assumption | apply State.quadsRefresh_keeps

theorem State.dpLink_keeps {s₀ s : State} (h : Keeps s₀ s) (n link : Nat) : Keeps s₀ (State.dpLink s n link) := by
  unfold State.dpLink
  repeat first
    | (extract_lets +onlyGivenNames x; first
      | (refine (have hx : Keeps s₀ x := ?_; ?_); (on_goal 2 => (clear_value x; rename' x => y)); subst x)
      | (refine (have hx : Keeps s₀ x.1 := ?_; ?_); (on_goal 2 => (clear_value x; rename' x => y)); subst x)
      | (clear_value x; rename' x => y))
    | with_reducible first
      | assumption | apply Keeps.ite | apply State.p_keeps | apply State.setDp_keeps | apply State.dpRefresh_keeps
    | with_reducible refine Keeps.fields ?_ ?_ ?_ ?_
    | exact Or.inl rfl
    | rfl

theorem State.dpFail_keeps {s₀ s : State} (h : Keeps s₀ s) (n result : Nat) :
    Keeps s₀ (State.dpFail s n result) := by
  unfold State.dpFail
  repeat first
    | with_reducible first
      | assumption | apply State.p_keeps | apply State.raise_keeps | apply State.dpLink_keeps

theorem State.auxEnd_keeps {s₀ s : State} (h : Keeps s₀ s) (n result bytes : Nat) :
    Keeps s₀ (State.auxEnd s n result bytes) := by
  unfold State.auxEnd
  repeat first
    | (extract_lets +onlyGivenNames x; first
      | (refine (have hx : Keeps s₀ x := ?_; ?_); (on_goal 2 => (clear_value x; rename' x => y)); subst x)
      | (refine (have hx : Keeps s₀ x.1 := ?_; ?_); (on_goal 2 => (clear_value x; rename' x => y)); subst x)
      | (clear_value x; rename' x => y))
    | with_reducible first
      | assumption | apply State.p_keeps | apply State.pb_keeps | apply State.setDp_keeps
    | with_reducible refine Keeps.fields ?_ ?_ ?_ ?_
    | exact Or.inl rfl
    | rfl

theorem State.auxStart_keeps {s₀ s : State} (h : Keeps s₀ s) (n : Nat) : Keeps s₀ (State.auxStart s n) := by
  unfold State.auxStart
  repeat first
    | (extract_lets +onlyGivenNames x; first
      | (refine (have hx : Keeps s₀ x := ?_; ?_); (on_goal 2 => (clear_value x; rename' x => y)); subst x)
      | (refine (have hx : Keeps s₀ x.1 := ?_; ?_); (on_goal 2 => (clear_value x; rename' x => y)); subst x)
      | (clear_value x; rename' x => y))
    | with_reducible first
      | assumption | apply Keeps.ite | apply State.pb_keeps | apply State.setDp_keeps | apply State.auxEnd_keeps
    | with_reducible refine Keeps.fields ?_ ?_ ?_ ?_
    | exact Or.inl rfl
    | rfl

theorem auxCmdWrite_keeps {s₀ s : State} (h : Keeps s₀ s) (m n : Nat) (v : Word) :
    Keeps s₀ (auxCmdWrite m n v s) := by
  unfold auxCmdWrite
  repeat first
    | (extract_lets +onlyGivenNames x; first
      | (refine (have hx : Keeps s₀ x := ?_; ?_); (on_goal 2 => (clear_value x; rename' x => y)); subst x)
      | (refine (have hx : Keeps s₀ x.1 := ?_; ?_); (on_goal 2 => (clear_value x; rename' x => y)); subst x)
      | (clear_value x; rename' x => y))
    | with_reducible first
      | assumption | apply Keeps.ite | apply State.writeFields_keeps | apply State.auxStart_keeps

theorem State.auxResume_keeps {s₀ s : State} (h : Keeps s₀ s) (n : Nat) : Keeps s₀ (State.auxResume s n) := by
  unfold State.auxResume
  repeat first
    | with_reducible first
      | assumption | apply Keeps.ite | apply State.auxStart_keeps

theorem State.auxData_keeps {s₀ s : State} (h : Keeps s₀ s) (n : Nat) (bs : List Byte) :
    Keeps s₀ (State.auxData s n bs) := by
  unfold State.auxData
  repeat first
    | with_reducible first
      | assumption | apply Keeps.ite | refine Keeps.fold ?_ (fun _ _ _ => ?_) _ | apply State.p_keeps

theorem auxDone_keeps {s₀ s : State} (h : Keeps s₀ s) (n : Nat) (r : AuxReply) : Keeps s₀ (auxDone n r s) := by
  unfold auxDone
  repeat first
    | (extract_lets +onlyGivenNames x; first
      | (refine (have hx : Keeps s₀ x := ?_; ?_); (on_goal 2 => (clear_value x; rename' x => y)); subst x)
      | (refine (have hx : Keeps s₀ x.1 := ?_; ?_); (on_goal 2 => (clear_value x; rename' x => y)); subst x)
      | (clear_value x; rename' x => y))
    | with_reducible first
      | assumption | apply Keeps.ite | apply State.auxEnd_keeps | apply State.auxData_keeps

theorem auxDefer_keeps {s₀ s : State} (h : Keeps s₀ s) (n : Nat) : Keeps s₀ (auxDefer n s) := by
  unfold auxDefer
  repeat first
    | (extract_lets +onlyGivenNames x; first
      | (refine (have hx : Keeps s₀ x := ?_; ?_); (on_goal 2 => (clear_value x; rename' x => y)); subst x)
      | (refine (have hx : Keeps s₀ x.1 := ?_; ?_); (on_goal 2 => (clear_value x; rename' x => y)); subst x)
      | (clear_value x; rename' x => y))
    | with_reducible first
      | assumption | apply Keeps.ite | apply State.setDp_keeps | apply State.auxEnd_keeps
    | with_reducible refine Keeps.fields ?_ ?_ ?_ ?_
    | exact Or.inl rfl
    | rfl

theorem auxTimeout_keeps {s₀ s : State} (h : Keeps s₀ s) (n : Nat) : Keeps s₀ (auxTimeout n s) := by
  unfold auxTimeout
  repeat first
    | with_reducible first
      | assumption | apply Keeps.ite | apply State.auxEnd_keeps

theorem State.dpWant_keeps {s₀ s : State} (h : Keeps s₀ s) (n : Nat) : Keeps s₀ (State.dpWant s n) := by
  unfold State.dpWant
  repeat first
    | with_reducible first
      | assumption | apply State.setDp_keeps
    | with_reducible refine Keeps.fields ?_ ?_ ?_ ?_
    | exact Or.inl rfl
    | rfl

theorem State.dpAuto_keeps {s₀ s : State} (h : Keeps s₀ s) (n : Nat) : Keeps s₀ (State.dpAuto s n) := by
  unfold State.dpAuto
  repeat first
    | with_reducible first
      | assumption | apply Keeps.ite | apply State.dpWant_keeps

theorem dpCtrlWrite_keeps {s₀ s : State} (h : Keeps s₀ s) (m n : Nat) (v : Word) :
    Keeps s₀ (dpCtrlWrite m n v s) := by
  unfold dpCtrlWrite
  repeat first
    | (extract_lets +onlyGivenNames x; first
      | (refine (have hx : Keeps s₀ x := ?_; ?_); (on_goal 2 => (clear_value x; rename' x => y)); subst x)
      | (refine (have hx : Keeps s₀ x.1 := ?_; ?_); (on_goal 2 => (clear_value x; rename' x => y)); subst x)
      | (clear_value x; rename' x => y))
    | with_reducible first
      | assumption | apply Keeps.ite | apply State.p_keeps | apply State.pb_keeps | apply State.logIgnored_keeps
      | apply State.writeFields_keeps | apply State.quadsRefresh_keeps | apply State.setDp_keeps
      | apply State.dpLink_keeps | apply State.auxResume_keeps | apply State.dpWant_keeps | apply State.dpAuto_keeps
    | with_reducible refine Keeps.fields ?_ ?_ ?_ ?_
    | exact Or.inl rfl
    | rfl

theorem hpdPlug_keeps {s₀ s : State} (h : Keeps s₀ s) (n : Nat) : Keeps s₀ (hpdPlug n s) := by
  unfold hpdPlug
  repeat first
    | with_reducible first
      | assumption | apply Keeps.ite | apply State.pb_keeps | apply State.raise_keeps | apply State.dpAuto_keeps

theorem hpdUnplug_keeps {s₀ s : State} (h : Keeps s₀ s) (n : Nat) : Keeps s₀ (hpdUnplug n s) := by
  unfold hpdUnplug
  repeat first
    | (extract_lets +onlyGivenNames x; first
      | (refine (have hx : Keeps s₀ x := ?_; ?_); (on_goal 2 => (clear_value x; rename' x => y)); subst x)
      | (refine (have hx : Keeps s₀ x.1 := ?_; ?_); (on_goal 2 => (clear_value x; rename' x => y)); subst x)
      | (clear_value x; rename' x => y))
    | with_reducible first
      | assumption | apply Keeps.ite | apply State.p_keeps | apply State.pb_keeps | apply State.raise_keeps
      | apply State.dpLink_keeps | apply State.auxResume_keeps

theorem trainStart_keeps {s₀ s : State} (h : Keeps s₀ s) (n : Nat) : Keeps s₀ (trainStart n s) := by
  unfold trainStart
  repeat first
    | (extract_lets +onlyGivenNames x; first
      | (refine (have hx : Keeps s₀ x := ?_; ?_); (on_goal 2 => (clear_value x; rename' x => y)); subst x)
      | (refine (have hx : Keeps s₀ x.1 := ?_; ?_); (on_goal 2 => (clear_value x; rename' x => y)); subst x)
      | (clear_value x; rename' x => y))
    | with_reducible first
      | assumption | apply Keeps.ite | apply State.inc_keeps | apply State.setDp_keeps | apply State.dpLink_keeps
      | apply State.dpFail_keeps
    | with_reducible refine Keeps.fields ?_ ?_ ?_ ?_
    | exact Or.inl rfl
    | rfl

theorem State.sinkCaps_keeps {s₀ s : State} (h : Keeps s₀ s) (n : Nat) (bs : List Byte) :
    Keeps s₀ (State.sinkCaps s n bs) := by
  unfold State.sinkCaps
  repeat first
    | (extract_lets +onlyGivenNames x; first
      | (refine (have hx : Keeps s₀ x := ?_; ?_); (on_goal 2 => (clear_value x; rename' x => y)); subst x)
      | (refine (have hx : Keeps s₀ x.1 := ?_; ?_); (on_goal 2 => (clear_value x; rename' x => y)); subst x)
      | (have z := fun a => x a; clear z; subst x)
      | (clear_value x; rename' x => y))
    | with_reducible first
      | assumption | apply State.p_keeps

theorem State.dpTries_keeps {s₀ s : State} (h : Keeps s₀ s) (n left made : Nat) (ts : List (List (List Byte))) :
    Keeps s₀ (State.dpTries s n left made ts).1 := by
  induction left generalizing s made ts with
  | zero => unfold State.dpTries; exact h
  | succ k ih =>
    unfold State.dpTries
    extract_lets r x s1 s2
    have h1 : Keeps s₀ s1 := State.setDp_keeps h _ _
    have h2 : Keeps s₀ s2 := State.p_keeps h1 _ _
    exact Keeps.itePair h2 (ih h2 _ _)

theorem trainEnd_keeps {s₀ s : State} (h : Keeps s₀ s) (n : Nat) (caps : List Byte) (tries : List (List (List Byte))) :
    Keeps s₀ (trainEnd n caps tries s) := by
  unfold trainEnd
  repeat first
    | (extract_lets +onlyGivenNames x; first
      | (refine (have hx : Keeps s₀ x := ?_; ?_); (on_goal 2 => (clear_value x; rename' x => y)); subst x)
      | (refine (have hx : Keeps s₀ x.1 := ?_; ?_); (on_goal 2 => (clear_value x; rename' x => y)); subst x)
      | (clear_value x; rename' x => y))
    | with_reducible first
      | assumption | apply Keeps.ite | apply Keeps.itePair | apply State.p_keeps | apply State.dpLink_keeps
      | apply State.dpFail_keeps | apply State.auxResume_keeps | apply State.sinkCaps_keeps
      | apply State.dpTries_keeps
    | dsimp -zeta only
    | split
    | with_reducible refine Keeps.fields ?_ ?_ ?_ ?_
    | exact Or.inl rfl
    | rfl

theorem irqHpd_keeps {s₀ s : State} (h : Keeps s₀ s) (n : Nat) (bs : List Byte) : Keeps s₀ (irqHpd n bs s) := by
  unfold irqHpd
  repeat first
    | (extract_lets +onlyGivenNames x; first
      | (refine (have hx : Keeps s₀ x := ?_; ?_); (on_goal 2 => (clear_value x; rename' x => y)); subst x)
      | (refine (have hx : Keeps s₀ x.1 := ?_; ?_); (on_goal 2 => (clear_value x; rename' x => y)); subst x)
      | (clear_value x; rename' x => y))
    | with_reducible first
      | assumption | apply Keeps.ite | apply State.inc_keeps | apply State.setDp_keeps | apply State.dpFail_keeps
    | with_reducible refine Keeps.fields ?_ ?_ ?_ ?_
    | exact Or.inl rfl
    | rfl

theorem autoRetrain_keeps {s₀ s : State} (h : Keeps s₀ s) (n : Nat) : Keeps s₀ (autoRetrain n s) := by
  unfold autoRetrain
  repeat first
    | with_reducible first
      | assumption | apply Keeps.ite | apply State.setDp_keeps
    | split
    | with_reducible refine Keeps.fields ?_ ?_ ?_ ?_
    | exact Or.inl rfl
    | rfl

theorem State.dpLatch_keeps {s₀ s : State} (h : Keeps s₀ s) (n : Nat) : Keeps s₀ (State.dpLatch s n) := by
  unfold State.dpLatch
  repeat first
    | (extract_lets +onlyGivenNames x; first
      | (refine (have hx : Keeps s₀ x := ?_; ?_); (on_goal 2 => (clear_value x; rename' x => y)); subst x)
      | (refine (have hx : Keeps s₀ x.1 := ?_; ?_); (on_goal 2 => (clear_value x; rename' x => y)); subst x)
      | (clear_value x; rename' x => y))
    | with_reducible first
      | assumption | apply Keeps.ite | apply State.setDp_keeps | apply State.dpLink_keeps | apply State.dpFail_keeps
      | apply State.auxResume_keeps
    | with_reducible refine Keeps.fields ?_ ?_ ?_ ?_
    | exact Or.inl rfl
    | rfl

theorem State.dpGrantRise_keeps {s₀ s : State} (h : Keeps s₀ s) : Keeps s₀ (State.dpGrantRise s) := by
  unfold State.dpGrantRise
  repeat first
    | with_reducible first
      | assumption | apply Keeps.ite | refine Keeps.fold ?_ (fun _ _ _ => ?_) _ | apply State.dpLink_keeps
      | apply State.dpAuto_keeps

theorem State.dpGrantFall_keeps {s₀ s : State} (h : Keeps s₀ s) : Keeps s₀ (State.dpGrantFall s) := by
  unfold State.dpGrantFall
  repeat first
    | (extract_lets +onlyGivenNames x; first
      | (refine (have hx : Keeps s₀ x := ?_; ?_); (on_goal 2 => (clear_value x; rename' x => y)); subst x)
      | (refine (have hx : Keeps s₀ x.1 := ?_; ?_); (on_goal 2 => (clear_value x; rename' x => y)); subst x)
      | (clear_value x; rename' x => y))
    | with_reducible first
      | assumption | apply Keeps.ite | refine Keeps.fold ?_ (fun _ _ _ => ?_) _ | apply State.dpLink_keeps
      | apply State.auxEnd_keeps

theorem State.dpEngineStop_keeps {s₀ s : State} (h : Keeps s₀ s) : Keeps s₀ (State.dpEngineStop s) := by
  unfold State.dpEngineStop
  repeat first
    | (extract_lets +onlyGivenNames x; first
      | (refine (have hx : Keeps s₀ x := ?_; ?_); (on_goal 2 => (clear_value x; rename' x => y)); subst x)
      | (refine (have hx : Keeps s₀ x.1 := ?_; ?_); (on_goal 2 => (clear_value x; rename' x => y)); subst x)
      | (clear_value x; rename' x => y))
    | with_reducible first
      | assumption | apply Keeps.ite | refine Keeps.fold ?_ (fun _ _ _ => ?_) _ | apply State.dpLink_keeps
      | apply State.auxEnd_keeps | apply State.dpWant_keeps

theorem State.ctrlDrop_keeps {s₀ s : State} (h : Keeps s₀ s) (q : Nat) : Keeps s₀ (State.ctrlDrop s q) := by
  unfold State.ctrlDrop
  repeat first
    | with_reducible first
      | assumption | apply Keeps.ite | apply State.p_keeps | apply State.pb_keeps | apply State.setTz_keeps
    | with_reducible refine Keeps.fields ?_ ?_ ?_ ?_
    | exact Or.inl rfl
    | rfl

theorem State.tzlLink_keeps {s₀ s : State} (h : Keeps s₀ s) (q link : Nat) : Keeps s₀ (State.tzlLink s q link) := by
  unfold State.tzlLink
  repeat first
    | (extract_lets +onlyGivenNames x; first
      | (refine (have hx : Keeps s₀ x := ?_; ?_); (on_goal 2 => (clear_value x; rename' x => y)); subst x)
      | (refine (have hx : Keeps s₀ x.1 := ?_; ?_); (on_goal 2 => (clear_value x; rename' x => y)); subst x)
      | (clear_value x; rename' x => y))
    | with_reducible first
      | assumption | apply Keeps.ite | apply State.p_keeps | apply State.pb_keeps | apply State.raise_keeps
      | apply State.setTz_keeps | apply State.ctrlDrop_keeps
    | with_reducible refine Keeps.fields ?_ ?_ ?_ ?_
    | exact Or.inl rfl
    | rfl

theorem State.tzlSends_keeps {s₀ s : State} (h : Keeps s₀ s) (q : Nat) (ps : List (TzlSym × List Byte)) :
    Keeps s₀ (State.tzlSends s q ps) := by
  unfold State.tzlSends
  repeat first
    | (extract_lets +onlyGivenNames x; first
      | (refine (have hx : Keeps s₀ x := ?_; ?_); (on_goal 2 => (clear_value x; rename' x => y)); subst x)
      | (refine (have hx : Keeps s₀ x.1 := ?_; ?_); (on_goal 2 => (clear_value x; rename' x => y)); subst x)
      | (have z := fun a => x a; clear z; subst x)
      | (clear_value x; rename' x => y))
    | with_reducible first
      | assumption | apply Keeps.ite | apply State.setTz_keeps
    | with_reducible refine Keeps.fields ?_ ?_ ?_ ?_
    | exact Or.inl rfl
    | rfl

theorem State.tzlSet_keeps {s₀ s : State} (h : Keeps s₀ s) (q : Nat) (ts2 : Bool) (vsel : Nat) :
    Keeps s₀ (State.tzlSet s q ts2 vsel) := by
  unfold State.tzlSet
  repeat first
    | (extract_lets +onlyGivenNames x; first
      | (refine (have hx : Keeps s₀ x := ?_; ?_); (on_goal 2 => (clear_value x; rename' x => y)); subst x)
      | (refine (have hx : Keeps s₀ x.1 := ?_; ?_); (on_goal 2 => (clear_value x; rename' x => y)); subst x)
      | (have z := fun a => x a; clear z; subst x)
      | (clear_value x; rename' x => y))
    | with_reducible first
      | assumption | apply Keeps.ite | apply State.setTz_keeps
    | with_reducible refine Keeps.fields ?_ ?_ ?_ ?_
    | exact Or.inl rfl
    | rfl

theorem State.tzlSay_keeps {s₀ s : State} (h : Keeps s₀ s) (q : Nat) (xs : List TzlSym) :
    Keeps s₀ (State.tzlSay s q xs) := by
  unfold State.tzlSay
  repeat first
    | with_reducible first
      | assumption | apply State.setTz_keeps
    | with_reducible refine Keeps.fields ?_ ?_ ?_ ?_
    | exact Or.inl rfl
    | rfl

theorem State.tzlSpr_keeps {s₀ s : State} (h : Keeps s₀ s) (q k : Nat) : Keeps s₀ (State.tzlSpr s q k) := by
  unfold State.tzlSpr
  repeat first
    | (extract_lets +onlyGivenNames x; first
      | (refine (have hx : Keeps s₀ x := ?_; ?_); (on_goal 2 => (clear_value x; rename' x => y)); subst x)
      | (refine (have hx : Keeps s₀ x.1 := ?_; ?_); (on_goal 2 => (clear_value x; rename' x => y)); subst x)
      | (clear_value x; rename' x => y))
    | with_reducible first
      | assumption | apply State.setTz_keeps
    | with_reducible refine Keeps.fields ?_ ?_ ?_ ?_
    | exact Or.inl rfl
    | rfl

theorem State.tzlIdle_keeps {s₀ s : State} (h : Keeps s₀ s) (q : Nat) (xs : List TzlSym) :
    Keeps s₀ (State.tzlIdle s q xs) := by
  unfold State.tzlIdle
  repeat first
    | (extract_lets +onlyGivenNames x; first
      | (refine (have hx : Keeps s₀ x := ?_; ?_); (on_goal 2 => (clear_value x; rename' x => y)); subst x)
      | (refine (have hx : Keeps s₀ x.1 := ?_; ?_); (on_goal 2 => (clear_value x; rename' x => y)); subst x)
      | (clear_value x; rename' x => y))
    | with_reducible first
      | assumption | apply State.setTz_keeps
    | with_reducible refine Keeps.fields ?_ ?_ ?_ ?_
    | exact Or.inl rfl
    | rfl

theorem State.tzlStream_keeps {s₀ s : State} (h : Keeps s₀ s) (q : Nat) : Keeps s₀ (State.tzlStream s q) := by
  unfold State.tzlStream
  repeat first
    | (extract_lets +onlyGivenNames x; first
      | (refine (have hx : Keeps s₀ x := ?_; ?_); (on_goal 2 => (clear_value x; rename' x => y)); subst x)
      | (refine (have hx : Keeps s₀ x.1 := ?_; ?_); (on_goal 2 => (clear_value x; rename' x => y)); subst x)
      | (clear_value x; rename' x => y))
    | with_reducible first
      | assumption | apply Keeps.ite | apply State.p_keeps | apply State.raise_keeps | apply State.tzlLink_keeps
      | apply State.tzlIdle_keeps

theorem State.tzlTry_keeps {s₀ s : State} (h : Keeps s₀ s) (q : Nat) : Keeps s₀ (State.tzlTry s q) := by
  unfold State.tzlTry
  repeat first
    | (extract_lets +onlyGivenNames x; first
      | (refine (have hx : Keeps s₀ x := ?_; ?_); (on_goal 2 => (clear_value x; rename' x => y)); subst x)
      | (refine (have hx : Keeps s₀ x.1 := ?_; ?_); (on_goal 2 => (clear_value x; rename' x => y)); subst x)
      | (clear_value x; rename' x => y))
    | with_reducible first
      | assumption | apply Keeps.ite | apply State.setTz_keeps | apply State.tzlLink_keeps
      | apply State.tzlSet_keeps
    | with_reducible refine Keeps.fields ?_ ?_ ?_ ?_
    | exact Or.inl rfl
    | rfl

theorem State.tzlFail_keeps {s₀ s : State} (h : Keeps s₀ s) (q result : Nat) :
    Keeps s₀ (State.tzlFail s q result) := by
  unfold State.tzlFail
  repeat first
    | (extract_lets +onlyGivenNames x; first
      | (refine (have hx : Keeps s₀ x := ?_; ?_); (on_goal 2 => (clear_value x; rename' x => y)); subst x)
      | (refine (have hx : Keeps s₀ x.1 := ?_; ?_); (on_goal 2 => (clear_value x; rename' x => y)); subst x)
      | (clear_value x; rename' x => y))
    | with_reducible first
      | assumption | apply State.p_keeps | apply State.setTz_keeps | apply State.tzlLink_keeps
    | with_reducible refine Keeps.fields ?_ ?_ ?_ ?_
    | exact Or.inl rfl
    | rfl

theorem State.tzlTrain_keeps {s₀ s : State} (h : Keeps s₀ s) (q : Nat) : Keeps s₀ (State.tzlTrain s q) := by
  unfold State.tzlTrain
  repeat first
    | with_reducible first
      | assumption | apply Keeps.ite | apply State.setTz_keeps | apply State.tzlTry_keeps
    | with_reducible refine Keeps.fields ?_ ?_ ?_ ?_
    | exact Or.inl rfl
    | rfl

theorem tzlCtrlWrite_keeps {s₀ s : State} (h : Keeps s₀ s) (m q : Nat) (v : Word) :
    Keeps s₀ (tzlCtrlWrite m q v s) := by
  unfold tzlCtrlWrite
  repeat first
    | (extract_lets +onlyGivenNames x; first
      | (refine (have hx : Keeps s₀ x := ?_; ?_); (on_goal 2 => (clear_value x; rename' x => y)); subst x)
      | (refine (have hx : Keeps s₀ x.1 := ?_; ?_); (on_goal 2 => (clear_value x; rename' x => y)); subst x)
      | (clear_value x; rename' x => y))
    | with_reducible first
      | assumption | apply Keeps.ite | apply State.p_keeps | apply State.pb_keeps | apply State.logIgnored_keeps
      | apply State.writeFields_keeps | apply State.quadsRefresh_keeps | apply State.setTz_keeps
      | apply State.tzlLink_keeps | apply State.tzlTry_keeps | apply State.tzlTrain_keeps
    | with_reducible refine Keeps.fields ?_ ?_ ?_ ?_
    | exact Or.inl rfl
    | rfl

theorem orderedSet_keeps {s₀ s : State} (h : Keeps s₀ s) (q : Nat) (o : OrderedSet) :
    Keeps s₀ (orderedSet q o s) := by
  unfold orderedSet
  repeat first
    | (extract_lets +onlyGivenNames x; first
      | (refine (have hx : Keeps s₀ x := ?_; ?_); (on_goal 2 => (clear_value x; rename' x => y)); subst x)
      | (refine (have hx : Keeps s₀ x.1 := ?_; ?_); (on_goal 2 => (clear_value x; rename' x => y)); subst x)
      | (clear_value x; rename' x => y))
    | with_reducible first
      | assumption | apply Keeps.ite | apply State.p_keeps | apply State.pb_keeps | apply State.tzlLink_keeps
      | apply State.tzlSet_keeps | apply State.tzlSay_keeps | apply State.tzlIdle_keeps
      | apply State.tzlStream_keeps | apply State.tzlFail_keeps

theorem tzlTimeout_keeps {s₀ s : State} (h : Keeps s₀ s) (q : Nat) : Keeps s₀ (tzlTimeout q s) := by
  unfold tzlTimeout
  repeat first
    | with_reducible first
      | assumption | apply Keeps.ite | apply State.tzlFail_keeps

theorem tzlRetry_keeps {s₀ s : State} (h : Keeps s₀ s) (q : Nat) : Keeps s₀ (tzlRetry q s) := by
  unfold tzlRetry
  repeat first
    | with_reducible first
      | assumption | apply Keeps.ite | apply State.tzlTry_keeps

theorem tzlLinePacket_keeps {s₀ s : State} (h : Keeps s₀ s) (q y : Nat) : Keeps s₀ (tzlLinePacket q y s) := by
  unfold tzlLinePacket
  repeat first
    | (extract_lets +onlyGivenNames x; first
      | (refine (have hx : Keeps s₀ x := ?_; ?_); (on_goal 2 => (clear_value x; rename' x => y)); subst x)
      | (refine (have hx : Keeps s₀ x.1 := ?_; ?_); (on_goal 2 => (clear_value x; rename' x => y)); subst x)
      | (clear_value x; rename' x => y))
    | with_reducible first
      | assumption | apply Keeps.ite | apply State.scanLines_keeps | apply State.setTz_keeps
      | apply State.tzlSends_keeps
    | with_reducible refine Keeps.fields ?_ ?_ ?_ ?_
    | exact Or.inl rfl
    | rfl

theorem State.tzlLatch_keeps {s₀ s : State} (h : Keeps s₀ s) (q n : Nat) (first : Bool) :
    Keeps s₀ (State.tzlLatch s q n first) := by
  unfold State.tzlLatch
  repeat first
    | (extract_lets +onlyGivenNames x; first
      | (refine (have hx : Keeps s₀ x := ?_; ?_); (on_goal 2 => (clear_value x; rename' x => y)); subst x)
      | (refine (have hx : Keeps s₀ x.1 := ?_; ?_); (on_goal 2 => (clear_value x; rename' x => y)); subst x)
      | (clear_value x; rename' x => y))
    | with_reducible first
      | assumption | apply Keeps.ite | apply State.p_keeps | apply State.pb_keeps | apply State.inc_keeps
      | apply State.setTz_keeps | apply State.tzlSends_keeps | apply State.tzlStream_keeps
    | split
    | with_reducible refine Keeps.fields ?_ ?_ ?_ ?_
    | exact Or.inl rfl
    | rfl

theorem State.linkLatch_keeps {s₀ s : State} (h : Keeps s₀ s) (first : Bool) (n : Nat) :
    Keeps s₀ (State.linkLatch s first n) := by
  unfold State.linkLatch
  repeat first
    | with_reducible first
      | assumption | apply Keeps.ite | refine Keeps.fold ?_ (fun _ _ _ => ?_) _ | apply State.dpLatch_keeps
      | apply State.tzlLatch_keeps

theorem ctrlSend_keeps {s₀ s : State} (h : Keeps s₀ s) (q : Nat) (v : Word) : Keeps s₀ (ctrlSend q v s) := by
  unfold ctrlSend
  repeat first
    | (extract_lets +onlyGivenNames x; first
      | (refine (have hx : Keeps s₀ x := ?_; ?_); (on_goal 2 => (clear_value x; rename' x => y)); subst x)
      | (refine (have hx : Keeps s₀ x.1 := ?_; ?_); (on_goal 2 => (clear_value x; rename' x => y)); subst x)
      | (clear_value x; rename' x => y))
    | with_reducible first
      | assumption | apply Keeps.ite | apply State.p_keeps | apply State.pb_keeps | apply State.setTz_keeps
    | with_reducible refine Keeps.fields ?_ ?_ ?_ ?_
    | exact Or.inl rfl
    | rfl

theorem ctrlDataWrite_keeps {s₀ s : State} (h : Keeps s₀ s) (m q a : Nat) (v : Word) :
    Keeps s₀ (ctrlDataWrite m q a v s) := by
  unfold ctrlDataWrite
  repeat first
    | with_reducible first
      | assumption | apply Keeps.ite | apply State.logIgnored_keeps | apply State.writeFields_keeps

theorem statRingWrite_keeps {s₀ s : State} (h : Keeps s₀ s) (m q a : Nat) (v : Word) :
    Keeps s₀ (statRingWrite m q a v s) := by
  unfold statRingWrite
  repeat first
    | with_reducible first
      | assumption | apply Keeps.ite | apply State.logIgnored_keeps | apply State.writeFields_keeps

theorem tzlStatus_keeps {s₀ s : State} (h : Keeps s₀ s) (q : Nat) (bs : List Byte) :
    Keeps s₀ (tzlStatus q bs s) := by
  unfold tzlStatus
  repeat first
    | (extract_lets +onlyGivenNames x; first
      | (refine (have hx : Keeps s₀ x := ?_; ?_); (on_goal 2 => (clear_value x; rename' x => y)); subst x)
      | (refine (have hx : Keeps s₀ x.1 := ?_; ?_); (on_goal 2 => (clear_value x; rename' x => y)); subst x)
      | (clear_value x; rename' x => y))
    | with_reducible first
      | assumption | apply Keeps.ite | apply Keeps.itePair | apply State.p_keeps | apply State.pb_keeps
      | apply State.dmaWrite_keeps
    | dsimp -zeta only

theorem loopTrailer_keeps {s₀ s : State} (h : Keeps s₀ s) (q : Nat) (bs : List Byte) :
    Keeps s₀ (loopTrailer q bs s) := by
  unfold loopTrailer
  repeat first
    | (extract_lets +onlyGivenNames x; first
      | (refine (have hx : Keeps s₀ x := ?_; ?_); (on_goal 2 => (clear_value x; rename' x => y)); subst x)
      | (refine (have hx : Keeps s₀ x.1 := ?_; ?_); (on_goal 2 => (clear_value x; rename' x => y)); subst x)
      | (clear_value x; rename' x => y))
    | with_reducible first
      | assumption | apply Keeps.ite | apply State.p_keeps | apply State.pb_keeps | apply State.inc_keeps
      | apply State.setTz_keeps
    | with_reducible refine Keeps.fields ?_ ?_ ?_ ?_
    | exact Or.inl rfl
    | rfl

theorem loopExpire_keeps {s₀ s : State} (h : Keeps s₀ s) (q : Nat) : Keeps s₀ (loopExpire q s) := by
  unfold loopExpire
  repeat first
    | with_reducible first
      | assumption | apply Keeps.ite | apply State.pb_keeps

theorem State.bondDown_keeps {s₀ s : State} (h : Keeps s₀ s) (q : Nat) : Keeps s₀ (State.bondDown s q) := by
  unfold State.bondDown
  repeat first
    | (extract_lets +onlyGivenNames x; first
      | (refine (have hx : Keeps s₀ x := ?_; ?_); (on_goal 2 => (clear_value x; rename' x => y)); subst x)
      | (refine (have hx : Keeps s₀ x.1 := ?_; ?_); (on_goal 2 => (clear_value x; rename' x => y)); subst x)
      | (clear_value x; rename' x => y))
    | with_reducible first
      | assumption | apply State.p_keeps | apply State.inc_keeps | apply State.setTz_keeps
      | apply State.tzlLink_keeps
    | with_reducible refine Keeps.fields ?_ ?_ ?_ ?_
    | exact Or.inl rfl
    | rfl

theorem State.spared_keeps {s₀ s : State} (h : Keeps s₀ s) (q k : Nat) : Keeps s₀ (State.spared s q k) := by
  unfold State.spared
  repeat first
    | with_reducible first
      | assumption | apply State.p_keeps | apply State.tzlLink_keeps

theorem sprReceive_keeps {s₀ s : State} (h : Keeps s₀ s) (q k : Nat) (cut : Bool) :
    Keeps s₀ (sprReceive q k cut s) := by
  unfold sprReceive
  repeat first
    | (extract_lets +onlyGivenNames x; first
      | (refine (have hx : Keeps s₀ x := ?_; ?_); (on_goal 2 => (clear_value x; rename' x => y)); subst x)
      | (refine (have hx : Keeps s₀ x.1 := ?_; ?_); (on_goal 2 => (clear_value x; rename' x => y)); subst x)
      | (clear_value x; rename' x => y))
    | with_reducible first
      | assumption | apply Keeps.ite | apply State.inc_keeps | apply State.raise_keeps | apply State.setTz_keeps
      | apply State.tzlSay_keeps | apply State.bondDown_keeps | apply State.spared_keeps
    | with_reducible refine Keeps.fields ?_ ?_ ?_ ?_
    | exact Or.inl rfl
    | rfl

theorem State.tzlLaneLost_keeps {s₀ s : State} (h : Keeps s₀ s) (q d : Nat) :
    Keeps s₀ (State.tzlLaneLost s q d) := by
  unfold State.tzlLaneLost
  repeat first
    | (extract_lets +onlyGivenNames x; first
      | (refine (have hx : Keeps s₀ x := ?_; ?_); (on_goal 2 => (clear_value x; rename' x => y)); subst x)
      | (refine (have hx : Keeps s₀ x.1 := ?_; ?_); (on_goal 2 => (clear_value x; rename' x => y)); subst x)
      | (clear_value x; rename' x => y))
    | with_reducible first
      | assumption | apply Keeps.ite | apply State.pb_keeps | apply State.setTz_keeps | apply State.tzlSpr_keeps
      | apply State.bondDown_keeps | apply State.spared_keeps
    | with_reducible refine Keeps.fields ?_ ?_ ?_ ?_
    | exact Or.inl rfl
    | rfl

end Sys2Proof.Machine
end

