-- ==== Sys2Proof/Laws/KeepNet.lean ====
section
/-! SUPPORT. What the operations of Machine/Net.lean keep. -/

set_option linter.all false

namespace Sys2Proof.Machine

theorem State.portLink_keeps {s₀ s : State} (h : Keeps s₀ s) (q l : Nat) (up : Bool) :
    Keeps s₀ (State.portLink s q l up) := by
  unfold State.portLink
  repeat first
    | with_reducible first
      | assumption | apply Keeps.ite | apply State.pb_keeps | apply State.incSat_keeps | apply State.raise_keeps

theorem State.portDown_keeps {s₀ s : State} (h : Keeps s₀ s) (q l : Nat) : Keeps s₀ (State.portDown s q l) := by
  unfold State.portDown
  repeat first
    | with_reducible first
      | assumption | apply State.pb_keeps | apply State.portLink_keeps

theorem netCtrlWrite_keeps {s₀ s : State} (h : Keeps s₀ s) (m q : Nat) (v : Word) :
    Keeps s₀ (netCtrlWrite m q v s) := by
  unfold netCtrlWrite
  repeat first
    | (extract_lets +onlyGivenNames x; first
      | (refine (have hx : Keeps s₀ x := ?_; ?_); (on_goal 2 => (clear_value x; rename' x => y)); subst x)
      | (refine (have hx : Keeps s₀ x.1 := ?_; ?_); (on_goal 2 => (clear_value x; rename' x => y)); subst x)
      | (clear_value x; rename' x => y))
    | with_reducible first
      | assumption | apply Keeps.ite | refine Keeps.fold ?_ (fun _ _ _ => ?_) _ | apply State.logIgnored_keeps
      | apply State.writeFields_keeps | apply State.quadRefresh_keeps | apply State.portDown_keeps

theorem netLinkChange_keeps {s₀ s : State} (h : Keeps s₀ s) (p : Nat) (up hiBer : Bool) :
    Keeps s₀ (netLinkChange p up hiBer s) := by
  unfold netLinkChange
  repeat first
    | (extract_lets +onlyGivenNames x; first
      | (refine (have hx : Keeps s₀ x := ?_; ?_); (on_goal 2 => (clear_value x; rename' x => y)); subst x)
      | (refine (have hx : Keeps s₀ x.1 := ?_; ?_); (on_goal 2 => (clear_value x; rename' x => y)); subst x)
      | (clear_value x; rename' x => y))
    | with_reducible first
      | assumption | apply Keeps.ite | apply State.p_keeps | apply State.pb_keeps | apply State.portLink_keeps
      | apply State.portDown_keeps

theorem State.toCurator_keeps {s₀ s : State} (h : Keeps s₀ s) (p : Nat) (bs : List Byte) :
    Keeps s₀ (State.toCurator s p bs) := by
  unfold State.toCurator
  repeat first
    | with_reducible first
      | assumption | apply Keeps.ite | apply State.p_keeps | apply State.inc_keeps
    | with_reducible refine Keeps.fields ?_ ?_ ?_ ?_
    | exact Or.inl rfl
    | rfl

theorem State.routeFrame_keeps {s₀ s : State} (h : Keeps s₀ s) (p : Nat) (bs : List Byte) :
    Keeps s₀ (State.routeFrame s p bs) := by
  unfold State.routeFrame
  repeat first
    | (extract_lets +onlyGivenNames x; first
      | (refine (have hx : Keeps s₀ x := ?_; ?_); (on_goal 2 => (clear_value x; rename' x => y)); subst x)
      | (refine (have hx : Keeps s₀ x.1 := ?_; ?_); (on_goal 2 => (clear_value x; rename' x => y)); subst x)
      | (clear_value x; rename' x => y))
    | with_reducible first
      | assumption | apply Keeps.ite | apply State.p_keeps | apply State.inc_keeps | apply State.toCurator_keeps
    | split
    | with_reducible refine Keeps.fields ?_ ?_ ?_ ?_
    | exact Or.inl rfl
    | rfl

theorem frameReceive_keeps {s₀ s : State} (h : Keeps s₀ s) (p taken : Nat) (bs : List Byte) (fcsOk : Bool) :
    Keeps s₀ (frameReceive p taken bs fcsOk s) := by
  unfold frameReceive
  repeat first
    | (extract_lets +onlyGivenNames x; first
      | (refine (have hx : Keeps s₀ x := ?_; ?_); (on_goal 2 => (clear_value x; rename' x => y)); subst x)
      | (refine (have hx : Keeps s₀ x.1 := ?_; ?_); (on_goal 2 => (clear_value x; rename' x => y)); subst x)
      | (clear_value x; rename' x => y))
    | with_reducible first
      | assumption | apply Keeps.ite | apply State.p_keeps | apply State.inc_keeps | apply State.routeFrame_keeps
    | with_reducible refine Keeps.fields ?_ ?_ ?_ ?_
    | exact Or.inl rfl
    | rfl

theorem frameTransmit_keeps {s₀ s : State} (h : Keeps s₀ s) (p : Nat) (bs : List Byte) (tag : Option Nat) :
    Keeps s₀ (frameTransmit p bs tag s) := by
  unfold frameTransmit
  repeat first
    | (extract_lets +onlyGivenNames x; first
      | (refine (have hx : Keeps s₀ x := ?_; ?_); (on_goal 2 => (clear_value x; rename' x => y)); subst x)
      | (refine (have hx : Keeps s₀ x.1 := ?_; ?_); (on_goal 2 => (clear_value x; rename' x => y)); subst x)
      | (clear_value x; rename' x => y))
    | with_reducible first
      | assumption | apply Keeps.ite | apply State.p_keeps | apply State.inc_keeps | apply State.txStamp_keeps
    | split
    | with_reducible refine Keeps.fields ?_ ?_ ?_ ?_
    | exact Or.inl rfl
    | rfl

theorem frameAlso_keeps {s₀ s : State} (h : Keeps s₀ s) (p : Nat) (bs : List Byte) :
    Keeps s₀ (frameAlso p bs s) := by
  unfold frameAlso
  repeat first
    | (extract_lets +onlyGivenNames x; first
      | (refine (have hx : Keeps s₀ x := ?_; ?_); (on_goal 2 => (clear_value x; rename' x => y)); subst x)
      | (refine (have hx : Keeps s₀ x.1 := ?_; ?_); (on_goal 2 => (clear_value x; rename' x => y)); subst x)
      | (clear_value x; rename' x => y))
    | with_reducible first
      | assumption | apply Keeps.ite | apply State.p_keeps | apply frameTransmit_keeps
    | with_reducible refine Keeps.fields ?_ ?_ ?_ ?_
    | exact Or.inl rfl
    | rfl

theorem mdioWrite_keeps {s₀ s : State} (h : Keeps s₀ s) (m : Nat) (v : Word) : Keeps s₀ (mdioWrite m v s) := by
  unfold mdioWrite
  repeat first
    | (extract_lets +onlyGivenNames x; first
      | (refine (have hx : Keeps s₀ x := ?_; ?_); (on_goal 2 => (clear_value x; rename' x => y)); subst x)
      | (refine (have hx : Keeps s₀ x.1 := ?_; ?_); (on_goal 2 => (clear_value x; rename' x => y)); subst x)
      | (clear_value x; rename' x => y))
    | with_reducible first
      | assumption | apply Keeps.ite | apply State.pb_keeps | apply State.logIgnored_keeps
      | apply State.writeFields_keeps

theorem mdioDone_keeps {s₀ s : State} (h : Keeps s₀ s) (data : Nat) : Keeps s₀ (mdioDone data s) := by
  unfold mdioDone
  repeat first
    | (extract_lets +onlyGivenNames x; first
      | (refine (have hx : Keeps s₀ x := ?_; ?_); (on_goal 2 => (clear_value x; rename' x => y)); subst x)
      | (refine (have hx : Keeps s₀ x.1 := ?_; ?_); (on_goal 2 => (clear_value x; rename' x => y)); subst x)
      | (clear_value x; rename' x => y))
    | with_reducible first
      | assumption | apply Keeps.ite | apply State.p_keeps | apply State.pb_keeps

end Sys2Proof.Machine
end

