-- ==== Sys2Proof/Laws/KeepIngest.lean ====
section
/-! SUPPORT. What the operations of Machine/Ingest.lean keep. -/

set_option linter.all false

namespace Sys2Proof.Machine

theorem State.srcStart_keeps {s₀ s : State} (h : Keeps s₀ s) (i : Nat) : Keeps s₀ (State.srcStart s i) := by
  unfold State.srcStart
  repeat first
    | (extract_lets +onlyGivenNames x; first
      | (refine (have hx : Keeps s₀ x := ?_; ?_); (on_goal 2 => (clear_value x; rename' x => y)); subst x)
      | (refine (have hx : Keeps s₀ x.1 := ?_; ?_); (on_goal 2 => (clear_value x; rename' x => y)); subst x)
      | (clear_value x; rename' x => y))
    | with_reducible first
      | assumption | apply Keeps.ite | refine Keeps.fold ?_ (fun _ _ _ => ?_) _ | apply State.p_keeps
      | apply State.pb_keeps | apply State.setSrc_keeps
    | with_reducible refine Keeps.fields ?_ ?_ ?_ ?_
    | exact Or.inl rfl
    | rfl

theorem State.srcDrop_keeps {s₀ s : State} (h : Keeps s₀ s) (i : Nat) : Keeps s₀ (State.srcDrop s i) := by
  unfold State.srcDrop
  repeat first
    | (extract_lets +onlyGivenNames x; first
      | (refine (have hx : Keeps s₀ x := ?_; ?_); (on_goal 2 => (clear_value x; rename' x => y)); subst x)
      | (refine (have hx : Keeps s₀ x.1 := ?_; ?_); (on_goal 2 => (clear_value x; rename' x => y)); subst x)
      | (clear_value x; rename' x => y))
    | with_reducible first
      | assumption | refine Keeps.fold ?_ (fun _ _ _ => ?_) _ | apply State.setSrc_keeps | apply State.unclaim_keeps
    | split
    | with_reducible refine Keeps.fields ?_ ?_ ?_ ?_
    | exact Or.inl rfl
    | rfl

theorem State.wbEnds_keeps {s₀ s : State} (h : Keeps s₀ s) (i : Nat) : Keeps s₀ (State.wbEnds s i) := by
  unfold State.wbEnds
  repeat first
    | (extract_lets +onlyGivenNames x; first
      | (refine (have hx : Keeps s₀ x := ?_; ?_); (on_goal 2 => (clear_value x; rename' x => y)); subst x)
      | (refine (have hx : Keeps s₀ x.1 := ?_; ?_); (on_goal 2 => (clear_value x; rename' x => y)); subst x)
      | (clear_value x; rename' x => y))
    | with_reducible first
      | assumption | apply Keeps.ite | refine Keeps.fold ?_ (fun _ _ _ => ?_) _ | apply State.setHead_keeps
    | with_reducible refine Keeps.fields ?_ ?_ ?_ ?_
    | exact Or.inl rfl
    | rfl

theorem State.srcStop_keeps {s₀ s : State} (h : Keeps s₀ s) (i : Nat) : Keeps s₀ (State.srcStop s i) := by
  unfold State.srcStop
  repeat first
    | (extract_lets +onlyGivenNames x; first
      | (refine (have hx : Keeps s₀ x := ?_; ?_); (on_goal 2 => (clear_value x; rename' x => y)); subst x)
      | (refine (have hx : Keeps s₀ x.1 := ?_; ?_); (on_goal 2 => (clear_value x; rename' x => y)); subst x)
      | (clear_value x; rename' x => y))
    | with_reducible first
      | assumption | refine Keeps.fold ?_ (fun _ _ _ => ?_) _ | apply State.p_keeps | apply State.pb_keeps
      | apply State.inc_keeps | apply State.unclaim_keeps | apply State.srcDrop_keeps | apply State.wbEnds_keeps
    | with_reducible refine Keeps.fields ?_ ?_ ?_ ?_
    | exact Or.inl rfl
    | rfl

theorem State.senderReport_keeps {s₀ s : State} (h : Keeps s₀ s) (i : Nat) (bs : List Byte) :
    Keeps s₀ (State.senderReport s i bs) := by
  unfold State.senderReport
  repeat first
    | (extract_lets +onlyGivenNames x; first
      | (refine (have hx : Keeps s₀ x := ?_; ?_); (on_goal 2 => (clear_value x; rename' x => y)); subst x)
      | (refine (have hx : Keeps s₀ x.1 := ?_; ?_); (on_goal 2 => (clear_value x; rename' x => y)); subst x)
      | (clear_value x; rename' x => y))
    | with_reducible first
      | assumption | apply Keeps.ite | apply State.p_keeps | apply State.pb_keeps | apply State.setSrc_keeps
    | with_reducible refine Keeps.fields ?_ ?_ ?_ ?_
    | exact Or.inl rfl
    | rfl

theorem State.srcAccept_keeps {s₀ s : State} (h : Keeps s₀ s) (i : Nat) (pathB : Bool) :
    Keeps s₀ (State.srcAccept s i pathB) := by
  unfold State.srcAccept
  repeat first
    | (extract_lets +onlyGivenNames x; first
      | (refine (have hx : Keeps s₀ x := ?_; ?_); (on_goal 2 => (clear_value x; rename' x => y)); subst x)
      | (refine (have hx : Keeps s₀ x.1 := ?_; ?_); (on_goal 2 => (clear_value x; rename' x => y)); subst x)
      | (clear_value x; rename' x => y))
    | with_reducible first
      | assumption | apply Keeps.ite | apply State.p_keeps | apply State.pb_keeps | apply State.raise_keeps
      | apply State.setSrc_keeps
    | with_reducible refine Keeps.fields ?_ ?_ ?_ ?_
    | exact Or.inl rfl
    | rfl

theorem State.setUnit_keeps {s₀ s : State} (h : Keeps s₀ s) (i k : Nat) (u : OpenUnit) :
    Keeps s₀ (State.setUnit s i k u) := by
  unfold State.setUnit
  repeat first
    | with_reducible first
      | assumption | apply State.setSrc_keeps
    | with_reducible refine Keeps.fields ?_ ?_ ?_ ?_
    | exact Or.inl rfl
    | rfl

theorem State.countLost_keeps {s₀ s : State} (h : Keeps s₀ s) (i n : Nat) : Keeps s₀ (State.countLost s i n) := by
  unfold State.countLost
  repeat first
    | with_reducible first
      | assumption | apply Keeps.ite | apply State.incBy_keeps | apply State.raise_keeps

theorem State.histStore_keeps {s₀ s : State} (h : Keeps s₀ s) (i n : Nat) (payload : List Byte) :
    Keeps s₀ (State.histStore s i n payload) := by
  unfold State.histStore
  repeat first
    | with_reducible first
      | assumption | apply Keeps.ite | apply Keeps.itePair | apply State.dmaWrite_keeps
    | dsimp -zeta only

theorem State.histDiffers_keeps {s₀ s : State} (h : Keeps s₀ s) (i n : Nat) (payload : List Byte) :
    Keeps s₀ (State.histDiffers s i n payload).1 := by
  unfold State.histDiffers
  repeat first
    | (extract_lets +onlyGivenNames x; first
      | (refine (have hx : Keeps s₀ x := ?_; ?_); (on_goal 2 => (clear_value x; rename' x => y)); subst x)
      | (refine (have hx : Keeps s₀ x.1 := ?_; ?_); (on_goal 2 => (clear_value x; rename' x => y)); subst x)
      | (clear_value x; rename' x => y))
    | with_reducible first
      | assumption | apply Keeps.ite | apply Keeps.itePair | apply State.dmaRead_keeps
    | dsimp -zeta only

theorem State.laterCopy_keeps {s₀ s : State} (h : Keeps s₀ s) (i k n : Nat) (payload : List Byte) :
    Keeps s₀ (State.laterCopy s i k n payload) := by
  unfold State.laterCopy
  repeat first
    | (extract_lets +onlyGivenNames x; first
      | (refine (have hx : Keeps s₀ x := ?_; ?_); (on_goal 2 => (clear_value x; rename' x => y)); subst x)
      | (refine (have hx : Keeps s₀ x.1 := ?_; ?_); (on_goal 2 => (clear_value x; rename' x => y)); subst x)
      | (clear_value x; rename' x => y))
    | with_reducible first
      | assumption | apply Keeps.ite | apply Keeps.itePair | apply State.inc_keeps | apply State.raise_keeps
      | apply State.setUnit_keeps | apply State.histDiffers_keeps
    | dsimp -zeta only
    | split
    | with_reducible refine Keeps.fields ?_ ?_ ?_ ?_
    | exact Or.inl rfl
    | rfl

theorem State.frameOpen_keeps {s₀ s : State} (h : Keeps s₀ s) (i ts field : Nat) (d : NetDgram) :
    Keeps s₀ (State.frameOpen s i ts field d) := by
  unfold State.frameOpen
  repeat first
    | (extract_lets +onlyGivenNames x; first
      | (refine (have hx : Keeps s₀ x := ?_; ?_); (on_goal 2 => (clear_value x; rename' x => y)); subst x)
      | (refine (have hx : Keeps s₀ x.1 := ?_; ?_); (on_goal 2 => (clear_value x; rename' x => y)); subst x)
      | (clear_value x; rename' x => y))
    | with_reducible first
      | assumption | apply State.inc_keeps | apply State.setSrc_keeps | apply State.claim_keeps
    | split
    | with_reducible refine Keeps.fields ?_ ?_ ?_ ?_
    | exact Or.inl rfl
    | rfl

theorem State.markRows_keeps {s₀ s : State} (h : Keeps s₀ s) (i : Nat) (u : OpenUnit) :
    Keeps s₀ (State.markRows s i u) := by
  unfold State.markRows
  repeat first
    | (extract_lets +onlyGivenNames x; first
      | (refine (have hx : Keeps s₀ x := ?_; ?_); (on_goal 2 => (clear_value x; rename' x => y)); subst x)
      | (refine (have hx : Keeps s₀ x.1 := ?_; ?_); (on_goal 2 => (clear_value x; rename' x => y)); subst x)
      | (clear_value x; rename' x => y))
    | with_reducible first
      | assumption | apply State.p_keeps
    | split
    | with_reducible refine Keeps.fields ?_ ?_ ?_ ?_
    | exact Or.inl rfl
    | rfl

theorem State.srdWrite_keeps {s₀ s : State} (h : Keeps s₀ s) (i k : Nat) (x : Srd) :
    Keeps s₀ (State.srdWrite s i k x).1 := by
  unfold State.srdWrite
  repeat first
    | (extract_lets +onlyGivenNames x; first
      | (refine (have hx : Keeps s₀ x := ?_; ?_); (on_goal 2 => (clear_value x; rename' x => y)); subst x)
      | (refine (have hx : Keeps s₀ x.1 := ?_; ?_); (on_goal 2 => (clear_value x; rename' x => y)); subst x)
      | (clear_value x; rename' x => y))
    | with_reducible first
      | assumption | apply Keeps.ite | apply Keeps.itePair | apply State.writePixels_keeps
      | apply State.setUnit_keeps | apply State.markRows_keeps
    | dsimp -zeta only
    | split
    | with_reducible refine Keeps.fields ?_ ?_ ?_ ?_
    | exact Or.inl rfl
    | rfl

theorem State.fillRow_keeps {s₀ s : State} (h : Keeps s₀ s) (i : Nat) (u : OpenUnit) (y : Nat) :
    Keeps s₀ (State.fillRow s i u y).1 := by
  unfold State.fillRow
  repeat first
    | (extract_lets +onlyGivenNames x; first
      | (refine (have hx : Keeps s₀ x := ?_; ?_); (on_goal 2 => (clear_value x; rename' x => y)); subst x)
      | (refine (have hx : Keeps s₀ x.1 := ?_; ?_); (on_goal 2 => (clear_value x; rename' x => y)); subst x)
      | (clear_value x; rename' x => y))
    | with_reducible first
      | assumption | apply Keeps.ite | apply Keeps.itePair | apply State.p_keeps | apply State.writePixels_keeps
      | apply State.readRow_keeps
    | dsimp -zeta only
    | split
    | with_reducible refine Keeps.fields ?_ ?_ ?_ ?_
    | exact Or.inl rfl
    | rfl

theorem State.fillRows_keeps {s₀ s : State} (h : Keeps s₀ s) (i : Nat) (u : OpenUnit) (l : List Nat) :
    Keeps s₀ (State.fillRows s i u l).1 := by
  induction l generalizing s u with
  | nil => unfold State.fillRows; exact h
  | cons y ys ih =>
    unfold State.fillRows
    exact ih (State.fillRow_keeps h _ _ _) _

theorem State.loseRows_keeps {s₀ s : State} (h : Keeps s₀ s) (i k limit : Nat) :
    Keeps s₀ (State.loseRows s i k limit) := by
  unfold State.loseRows
  repeat first
    | (extract_lets +onlyGivenNames x; first
      | (refine (have hx : Keeps s₀ x := ?_; ?_); (on_goal 2 => (clear_value x; rename' x => y)); subst x)
      | (refine (have hx : Keeps s₀ x.1 := ?_; ?_); (on_goal 2 => (clear_value x; rename' x => y)); subst x)
      | (clear_value x; rename' x => y))
    | with_reducible first
      | assumption | apply State.setUnit_keeps | apply State.markRows_keeps | apply State.fillRows_keeps
    | dsimp -zeta only
    | split
    | with_reducible refine Keeps.fields ?_ ?_ ?_ ?_
    | exact Or.inl rfl
    | rfl

theorem State.frameClose_keeps {s₀ s : State} (h : Keeps s₀ s) (i k : Nat) : Keeps s₀ (State.frameClose s i k) := by
  unfold State.frameClose
  repeat first
    | (extract_lets +onlyGivenNames x; first
      | (refine (have hx : Keeps s₀ x := ?_; ?_); (on_goal 2 => (clear_value x; rename' x => y)); subst x)
      | (refine (have hx : Keeps s₀ x.1 := ?_; ?_); (on_goal 2 => (clear_value x; rename' x => y)); subst x)
      | (clear_value x; rename' x => y))
    | with_reducible first
      | assumption | apply Keeps.ite | apply State.inc_keeps | apply State.setSrc_keeps | apply State.closeBuf_keeps
      | apply State.filled_keeps | apply State.countLost_keeps
    | split
    | with_reducible refine Keeps.fields ?_ ?_ ?_ ?_
    | exact Or.inl rfl
    | rfl

theorem State.framesStep_keeps {s₀ s : State} (h : Keeps s₀ s) (i k n : Nat) : Keeps s₀ (State.framesStep s i k n) := by
  induction n generalizing s k with
  | zero => unfold State.framesStep; exact h
  | succ n ih =>
    unfold State.framesStep
    repeat first
      | (extract_lets +onlyGivenNames x; first
        | (refine (have hx : Keeps s₀ x := ?_; ?_); (on_goal 2 => (clear_value x; rename' x => y)); subst x)
        | (refine (have hx : Keeps s₀ x.1 := ?_; ?_); (on_goal 2 => (clear_value x; rename' x => y)); subst x)
        | (clear_value x; rename' x => y))
      | with_reducible first
        | assumption | apply Keeps.ite | apply ih | apply State.loseRows_keeps | apply State.frameClose_keeps
      | split
      | with_reducible refine Keeps.fields ?_ ?_ ?_ ?_
      | exact Or.inl rfl
      | rfl

theorem State.videoPacket_keeps {s₀ s : State} (h : Keeps s₀ s) (i : Nat) (d : NetDgram) (r : Rtp) (srds : List Srd) :
    Keeps s₀ (State.videoPacket s i d r srds) := by
  unfold State.videoPacket
  repeat first
    | (extract_lets +onlyGivenNames x; first
      | (refine (have hx : Keeps s₀ x := ?_; ?_); (on_goal 2 => (clear_value x; rename' x => y)); subst x)
      | (refine (have hx : Keeps s₀ x.1 := ?_; ?_); (on_goal 2 => (clear_value x; rename' x => y)); subst x)
      | (clear_value x; rename' x => y))
    | with_reducible first
      | assumption | apply Keeps.ite | apply Keeps.itePair | refine Keeps.fold ?_ (fun _ _ _ => ?_) _
      | refine Keeps.foldPair ?_ (fun _ _ _ => ?_) _ | apply State.p_keeps | apply State.inc_keeps
      | apply State.setSrc_keeps | apply State.srcAccept_keeps | apply State.setUnit_keeps
      | apply State.histStore_keeps | apply State.laterCopy_keeps | apply State.frameOpen_keeps
      | apply State.srdWrite_keeps | apply State.framesStep_keeps
    | dsimp -zeta only
    | split
    | with_reducible refine Keeps.fields ?_ ?_ ?_ ?_
    | exact Or.inl rfl
    | rfl

theorem State.recordWrite_keeps {s₀ s : State} (h : Keeps s₀ s) (i : Nat) (u : OpenUnit) (gap hevc : Bool) (nals : List (List Byte)) :
    Keeps s₀ (State.recordWrite s i u gap hevc nals) := by
  unfold State.recordWrite
  repeat first
    | (extract_lets +onlyGivenNames x; first
      | (refine (have hx : Keeps s₀ x := ?_; ?_); (on_goal 2 => (clear_value x; rename' x => y)); subst x)
      | (refine (have hx : Keeps s₀ x.1 := ?_; ?_); (on_goal 2 => (clear_value x; rename' x => y)); subst x)
      | (clear_value x; rename' x => y))
    | with_reducible first
      | assumption | apply Keeps.ite | apply Keeps.itePair | apply State.p_keeps | apply State.inc_keeps
      | apply State.dmaWrite_keeps | apply State.dmaRead_keeps | apply State.setSrc_keeps
    | dsimp -zeta only
    | split
    | with_reducible refine Keeps.fields ?_ ?_ ?_ ?_
    | exact Or.inl rfl
    | rfl

theorem State.auOpen_keeps {s₀ s : State} (h : Keeps s₀ s) (i ts : Nat) (wall : Int) (count : Nat) :
    Keeps s₀ (State.auOpen s i ts wall count) := by
  unfold State.auOpen
  repeat first
    | (extract_lets +onlyGivenNames x; first
      | (refine (have hx : Keeps s₀ x := ?_; ?_); (on_goal 2 => (clear_value x; rename' x => y)); subst x)
      | (refine (have hx : Keeps s₀ x.1 := ?_; ?_); (on_goal 2 => (clear_value x; rename' x => y)); subst x)
      | (clear_value x; rename' x => y))
    | with_reducible first
      | assumption | apply State.inc_keeps | apply State.setSrc_keeps
    | with_reducible refine Keeps.fields ?_ ?_ ?_ ?_
    | exact Or.inl rfl
    | rfl

theorem State.auClose_keeps {s₀ s : State} (h : Keeps s₀ s) (i k : Nat) : Keeps s₀ (State.auClose s i k) := by
  unfold State.auClose
  repeat first
    | (extract_lets +onlyGivenNames x; first
      | (refine (have hx : Keeps s₀ x := ?_; ?_); (on_goal 2 => (clear_value x; rename' x => y)); subst x)
      | (refine (have hx : Keeps s₀ x.1 := ?_; ?_); (on_goal 2 => (clear_value x; rename' x => y)); subst x)
      | (clear_value x; rename' x => y))
    | with_reducible first
      | assumption | apply State.setSrc_keeps | apply State.countLost_keeps | apply State.recordWrite_keeps
    | split
    | with_reducible refine Keeps.fields ?_ ?_ ?_ ?_
    | exact Or.inl rfl
    | rfl

theorem State.ausStep_keeps {s₀ s : State} (h : Keeps s₀ s) (i n : Nat) : Keeps s₀ (State.ausStep s i n) := by
  induction n generalizing s with
  | zero => unfold State.ausStep; exact h
  | succ n ih =>
    unfold State.ausStep
    repeat first
      | with_reducible first
        | assumption | apply ih | apply State.auClose_keeps
      | split
      | with_reducible refine Keeps.fields ?_ ?_ ?_ ?_
      | exact Or.inl rfl
      | rfl

theorem State.nalPacket_keeps {s₀ s : State} (h : Keeps s₀ s) (i : Nat) (d : NetDgram) (r : Rtp) :
    Keeps s₀ (State.nalPacket s i d r) := by
  unfold State.nalPacket
  repeat first
    | (extract_lets +onlyGivenNames x; first
      | (refine (have hx : Keeps s₀ x := ?_; ?_); (on_goal 2 => (clear_value x; rename' x => y)); subst x)
      | (refine (have hx : Keeps s₀ x.1 := ?_; ?_); (on_goal 2 => (clear_value x; rename' x => y)); subst x)
      | (clear_value x; rename' x => y))
    | with_reducible first
      | assumption | apply Keeps.ite | apply State.p_keeps | apply State.inc_keeps | apply State.setSrc_keeps
      | apply State.srcAccept_keeps | apply State.setUnit_keeps | apply State.histStore_keeps
      | apply State.laterCopy_keeps | apply State.auOpen_keeps | apply State.ausStep_keeps
    | split
    | with_reducible refine Keeps.fields ?_ ?_ ?_ ?_
    | exact Or.inl rfl
    | rfl

theorem State.tsSection_keeps {s₀ s : State} (h : Keeps s₀ s) (i pid : Nat) (start : Bool) (bs : List Byte) :
    Keeps s₀ (State.tsSection s i pid start bs) := by
  unfold State.tsSection
  repeat first
    | (extract_lets +onlyGivenNames x; first
      | (refine (have hx : Keeps s₀ x := ?_; ?_); (on_goal 2 => (clear_value x; rename' x => y)); subst x)
      | (refine (have hx : Keeps s₀ x.1 := ?_; ?_); (on_goal 2 => (clear_value x; rename' x => y)); subst x)
      | (clear_value x; rename' x => y))
    | with_reducible first
      | assumption | apply Keeps.ite | refine Keeps.fold ?_ (fun _ _ _ => ?_) _ | apply State.setSrc_keeps
    | with_reducible refine Keeps.fields ?_ ?_ ?_ ?_
    | exact Or.inl rfl
    | rfl

theorem State.pesClose_keeps {s₀ s : State} (h : Keeps s₀ s) (i : Nat) : Keeps s₀ (State.pesClose s i) := by
  unfold State.pesClose
  repeat first
    | (extract_lets +onlyGivenNames x; first
      | (refine (have hx : Keeps s₀ x := ?_; ?_); (on_goal 2 => (clear_value x; rename' x => y)); subst x)
      | (refine (have hx : Keeps s₀ x.1 := ?_; ?_); (on_goal 2 => (clear_value x; rename' x => y)); subst x)
      | (clear_value x; rename' x => y))
    | with_reducible first
      | assumption | apply State.p_keeps | apply State.setSrc_keeps | apply State.recordWrite_keeps
    | split
    | with_reducible refine Keeps.fields ?_ ?_ ?_ ?_
    | exact Or.inl rfl
    | rfl

theorem State.pesData_keeps {s₀ s : State} (h : Keeps s₀ s) (i : Nat) (dv : Bool) (bs : List Byte) :
    Keeps s₀ (State.pesData s i dv bs) := by
  unfold State.pesData
  repeat first
    | with_reducible first
      | assumption | apply State.setSrc_keeps
    | split
    | with_reducible refine Keeps.fields ?_ ?_ ?_ ?_
    | exact Or.inl rfl
    | rfl

theorem State.tsGap_keeps {s₀ s : State} (h : Keeps s₀ s) (i n : Nat) : Keeps s₀ (State.tsGap s i n) := by
  unfold State.tsGap
  repeat first
    | (extract_lets +onlyGivenNames x; first
      | (refine (have hx : Keeps s₀ x := ?_; ?_); (on_goal 2 => (clear_value x; rename' x => y)); subst x)
      | (refine (have hx : Keeps s₀ x.1 := ?_; ?_); (on_goal 2 => (clear_value x; rename' x => y)); subst x)
      | (clear_value x; rename' x => y))
    | with_reducible first
      | assumption | apply Keeps.ite | apply State.setSrc_keeps | apply State.countLost_keeps
    | split
    | with_reducible refine Keeps.fields ?_ ?_ ?_ ?_
    | exact Or.inl rfl
    | rfl

theorem State.tsPacket_keeps {s₀ s : State} (h : Keeps s₀ s) (i ts : Nat) (wall : Int) (count : Nat) (dv : Bool) (p : List Byte) :
    Keeps s₀ (State.tsPacket s i ts wall count dv p) := by
  unfold State.tsPacket
  repeat first
    | (extract_lets +onlyGivenNames x; first
      | (refine (have hx : Keeps s₀ x := ?_; ?_); (on_goal 2 => (clear_value x; rename' x => y)); subst x)
      | (refine (have hx : Keeps s₀ x.1 := ?_; ?_); (on_goal 2 => (clear_value x; rename' x => y)); subst x)
      | (clear_value x; rename' x => y))
    | with_reducible first
      | assumption | apply Keeps.ite | apply State.p_keeps | apply State.inc_keeps | apply State.setSrc_keeps
      | apply State.auOpen_keeps | apply State.tsSection_keeps | apply State.pesClose_keeps
      | apply State.pesData_keeps | apply State.tsGap_keeps
    | split
    | with_reducible refine Keeps.fields ?_ ?_ ?_ ?_
    | exact Or.inl rfl
    | rfl

theorem State.tsPackets_keeps {s₀ s : State} (h : Keeps s₀ s) (i ts : Nat) (wall : Int) (count : Nat) (dv : Bool) (pl : List Byte) :
    Keeps s₀ (State.tsPackets s i ts wall count dv pl) := by
  unfold State.tsPackets
  repeat first
    | with_reducible first
      | assumption | refine Keeps.fold ?_ (fun _ _ _ => ?_) _ | apply State.tsPacket_keeps

theorem State.tsDrain_keeps {s₀ s : State} (h : Keeps s₀ s) (i n : Nat) : Keeps s₀ (State.tsDrain s i n) := by
  induction n generalizing s with
  | zero => unfold State.tsDrain; exact h
  | succ n ih =>
    unfold State.tsDrain
    repeat first
      | (extract_lets +onlyGivenNames x; first
        | (refine (have hx : Keeps s₀ x := ?_; ?_); (on_goal 2 => (clear_value x; rename' x => y)); subst x)
        | (refine (have hx : Keeps s₀ x.1 := ?_; ?_); (on_goal 2 => (clear_value x; rename' x => y)); subst x)
        | (clear_value x; rename' x => y))
      | with_reducible first
        | assumption | apply Keeps.ite | apply ih | apply State.setSrc_keeps | apply State.tsPackets_keeps
      | split
      | with_reducible refine Keeps.fields ?_ ?_ ?_ ?_
      | exact Or.inl rfl
      | rfl

theorem State.tsRtp_keeps {s₀ s : State} (h : Keeps s₀ s) (i : Nat) (d : NetDgram) (r : Rtp) :
    Keeps s₀ (State.tsRtp s i d r) := by
  unfold State.tsRtp
  repeat first
    | (extract_lets +onlyGivenNames x; first
      | (refine (have hx : Keeps s₀ x := ?_; ?_); (on_goal 2 => (clear_value x; rename' x => y)); subst x)
      | (refine (have hx : Keeps s₀ x.1 := ?_; ?_); (on_goal 2 => (clear_value x; rename' x => y)); subst x)
      | (have z := fun a => x a; clear z; subst x)
      | (clear_value x; rename' x => y))
    | with_reducible first
      | assumption | apply Keeps.ite | apply Keeps.itePair | apply State.inc_keeps | apply State.raise_keeps
      | apply State.setSrc_keeps | apply State.srcAccept_keeps | apply State.histStore_keeps
      | apply State.histDiffers_keeps | apply State.tsDrain_keeps
    | dsimp -zeta only
    | split
    | with_reducible refine Keeps.fields ?_ ?_ ?_ ?_
    | exact Or.inl rfl
    | rfl

theorem State.takeDgram_keeps {s₀ s : State} (h : Keeps s₀ s) (d : NetDgram) : Keeps s₀ (State.takeDgram s d) := by
  unfold State.takeDgram
  repeat first
    | (extract_lets +onlyGivenNames x; first
      | (refine (have hx : Keeps s₀ x := ?_; ?_); (on_goal 2 => (clear_value x; rename' x => y)); subst x)
      | (refine (have hx : Keeps s₀ x.1 := ?_; ?_); (on_goal 2 => (clear_value x; rename' x => y)); subst x)
      | (clear_value x; rename' x => y))
    | with_reducible first
      | assumption | apply Keeps.ite | apply State.inc_keeps | apply State.srcAccept_keeps
      | apply State.videoPacket_keeps | apply State.nalPacket_keeps | apply State.tsPackets_keeps
      | apply State.tsRtp_keeps
    | split
    | with_reducible refine Keeps.fields ?_ ?_ ?_ ?_
    | exact Or.inl rfl
    | rfl

theorem State.dgramTaken_keeps {s₀ s : State} (h : Keeps s₀ s) (e : Nat) (d : NetDgram) :
    Keeps s₀ (State.dgramTaken s e d) := by
  unfold State.dgramTaken
  repeat first
    | with_reducible first
      | assumption
    | with_reducible refine Keeps.fields ?_ ?_ ?_ ?_
    | exact Or.inl rfl
    | rfl

theorem mediaPacket_keeps {s₀ s : State} (h : Keeps s₀ s) (e : Nat) : Keeps s₀ (mediaPacket e s) := by
  unfold mediaPacket
  repeat first
    | with_reducible first
      | assumption | apply Keeps.ite | apply State.takeDgram_keeps | apply State.dgramTaken_keeps
    | split
    | with_reducible refine Keeps.fields ?_ ?_ ?_ ?_
    | exact Or.inl rfl
    | rfl

theorem rtcpPacket_keeps {s₀ s : State} (h : Keeps s₀ s) (e : Nat) : Keeps s₀ (rtcpPacket e s) := by
  unfold rtcpPacket
  repeat first
    | with_reducible first
      | assumption | apply Keeps.ite | apply State.senderReport_keeps | apply State.dgramTaken_keeps
    | split
    | with_reducible refine Keeps.fields ?_ ?_ ?_ ?_
    | exact Or.inl rfl
    | rfl

theorem sourceLost_keeps {s₀ s : State} (h : Keeps s₀ s) (i : Nat) : Keeps s₀ (sourceLost i s) := by
  unfold sourceLost
  repeat first
    | (extract_lets +onlyGivenNames x; first
      | (refine (have hx : Keeps s₀ x := ?_; ?_); (on_goal 2 => (clear_value x; rename' x => y)); subst x)
      | (refine (have hx : Keeps s₀ x.1 := ?_; ?_); (on_goal 2 => (clear_value x; rename' x => y)); subst x)
      | (clear_value x; rename' x => y))
    | with_reducible first
      | assumption | apply Keeps.ite | refine Keeps.fold ?_ (fun _ _ _ => ?_) _ | apply State.p_keeps
      | apply State.raise_keeps | apply State.loseRows_keeps | apply State.frameClose_keeps

theorem pathExpire_keeps {s₀ s : State} (h : Keeps s₀ s) (i : Nat) (pathB : Bool) :
    Keeps s₀ (pathExpire i pathB s) := by
  unfold pathExpire
  repeat first
    | (extract_lets +onlyGivenNames x; first
      | (refine (have hx : Keeps s₀ x := ?_; ?_); (on_goal 2 => (clear_value x; rename' x => y)); subst x)
      | (refine (have hx : Keeps s₀ x.1 := ?_; ?_); (on_goal 2 => (clear_value x; rename' x => y)); subst x)
      | (clear_value x; rename' x => y))
    | with_reducible first
      | assumption | apply Keeps.ite | apply State.pb_keeps | apply State.framesStep_keeps
      | apply State.ausStep_keeps | apply State.tsDrain_keeps
    | split
    | with_reducible refine Keeps.fields ?_ ?_ ?_ ?_
    | exact Or.inl rfl
    | rfl

theorem srTimeout_keeps {s₀ s : State} (h : Keeps s₀ s) (i : Nat) : Keeps s₀ (srTimeout i s) := by
  unfold srTimeout
  repeat first
    | with_reducible first
      | assumption | apply Keeps.ite | apply State.pb_keeps

theorem State.ingEngineStop_keeps {s₀ s : State} (h : Keeps s₀ s) (e : Nat) :
    Keeps s₀ (State.ingEngineStop s e) := by
  unfold State.ingEngineStop
  repeat first
    | with_reducible first
      | assumption | refine Keeps.fold ?_ (fun _ _ _ => ?_) _ | apply State.srcDrop_keeps

end Sys2Proof.Machine
end

