-- ==== Sys2Proof/Laws/KeepLaneEvents.lean ====
section
/-! SUPPORT. What the operations of Machine/LaneEvents.lean keep. -/

set_option linter.all false

namespace Sys2Proof.Machine

theorem State.ownerLoses_keeps {s₀ s : State} (h : Keeps s₀ s) (q l : Nat) : Keeps s₀ (State.ownerLoses s q l) := by
  unfold State.ownerLoses
  repeat first
    | with_reducible first
      | assumption | apply State.prbsLock_keeps | apply State.tzlLaneLost_keeps | apply State.portDown_keeps
    | split
    | with_reducible refine Keeps.fields ?_ ?_ ?_ ?_
    | exact Or.inl rfl
    | rfl

theorem State.ownersLose_keeps {s₀ s : State} (h : Keeps s₀ s) (q : Nat) (ls : List Nat) :
    Keeps s₀ (State.ownersLose s q ls) := by
  unfold State.ownersLose
  repeat first
    | with_reducible first
      | assumption | refine Keeps.fold ?_ (fun _ _ _ => ?_) _ | apply State.ownerLoses_keeps

theorem laneLos_keeps {s₀ s : State} (h : Keeps s₀ s) (q mask : Nat) : Keeps s₀ (laneLos q mask s) := by
  unfold laneLos
  repeat first
    | (extract_lets +onlyGivenNames x; first
      | (refine (have hx : Keeps s₀ x := ?_; ?_); (on_goal 2 => (clear_value x; rename' x => y)); subst x)
      | (refine (have hx : Keeps s₀ x.1 := ?_; ?_); (on_goal 2 => (clear_value x; rename' x => y)); subst x)
      | (clear_value x; rename' x => y))
    | with_reducible first
      | assumption | apply Keeps.ite | apply State.losEdges_keeps | apply State.lolEdges_keeps
      | apply State.losEvent_keeps | apply State.lolEvent_keeps | apply State.ownersLose_keeps

theorem laneLol_keeps {s₀ s : State} (h : Keeps s₀ s) (q mask : Nat) : Keeps s₀ (laneLol q mask s) := by
  unfold laneLol
  repeat first
    | (extract_lets +onlyGivenNames x; first
      | (refine (have hx : Keeps s₀ x := ?_; ?_); (on_goal 2 => (clear_value x; rename' x => y)); subst x)
      | (refine (have hx : Keeps s₀ x.1 := ?_; ?_); (on_goal 2 => (clear_value x; rename' x => y)); subst x)
      | (clear_value x; rename' x => y))
    | with_reducible first
      | assumption | apply Keeps.ite | apply State.lolEdges_keeps | apply State.lolEvent_keeps
      | apply State.ownersLose_keeps

theorem laneLosClear_keeps {s₀ s : State} (h : Keeps s₀ s) (q l : Nat) : Keeps s₀ (laneLosClear q l s) := by
  unfold laneLosClear
  repeat first
    | with_reducible first
      | assumption | apply Keeps.ite | apply State.pb_keeps | apply State.lockAnew_keeps

theorem laneLolClear_keeps {s₀ s : State} (h : Keeps s₀ s) (q l : Nat) : Keeps s₀ (laneLolClear q l s) := by
  unfold laneLolClear
  repeat first
    | with_reducible first
      | assumption | apply Keeps.ite | apply State.p_keeps | apply State.pb_keeps

theorem quadPllFail_keeps {s₀ s : State} (h : Keeps s₀ s) (q : Nat) : Keeps s₀ (quadPllFail q s) := by
  unfold quadPllFail
  repeat first
    | (extract_lets +onlyGivenNames x; first
      | (refine (have hx : Keeps s₀ x := ?_; ?_); (on_goal 2 => (clear_value x; rename' x => y)); subst x)
      | (refine (have hx : Keeps s₀ x.1 := ?_; ?_); (on_goal 2 => (clear_value x; rename' x => y)); subst x)
      | (clear_value x; rename' x => y))
    | with_reducible first
      | assumption | apply Keeps.ite | apply State.pb_keeps | apply State.inc_keeps | apply State.raise_keeps
      | apply State.lolEdges_keeps | apply State.lolEvent_keeps | apply State.setQuad_keeps
      | apply State.ownersLose_keeps

theorem State.quadLocked_keeps {s₀ s : State} (h : Keeps s₀ s) (q : Nat) : Keeps s₀ (State.quadLocked s q) := by
  unfold State.quadLocked
  repeat first
    | with_reducible first
      | assumption | apply Keeps.ite | refine Keeps.fold ?_ (fun _ _ _ => ?_) _ | apply State.pb_keeps
      | apply State.lockAnew_keeps | apply State.setQuad_keeps

theorem blockLockLoss_keeps {s₀ s : State} (h : Keeps s₀ s) (q l : Nat) : Keeps s₀ (blockLockLoss q l s) := by
  unfold blockLockLoss
  repeat first
    | with_reducible first
      | assumption | apply Keeps.ite | apply State.incBy_keeps | apply State.lockDrop_keeps
      | apply State.portDown_keeps

end Sys2Proof.Machine
end

