-- ==== Sys2Proof/Laws/KeepDecPipes.lean ====
section
/-! SUPPORT. What the operations of Machine/DecPipes.lean keep. -/

set_option linter.all false

namespace Sys2Proof.Machine

theorem State.setDctx_keeps {s₀ s : State} (h : Keeps s₀ s) (i : Nat) (x : DecCtx) :
    Keeps s₀ (State.setDctx s i x) := by
  unfold State.setDctx
  repeat first
    | with_reducible first
      | assumption
    | with_reducible refine Keeps.fields ?_ ?_ ?_ ?_
    | exact Or.inl rfl
    | rfl

theorem State.setDpipe_keeps {s₀ s : State} (h : Keeps s₀ s) (n : Nat) (x : DecPipe) :
    Keeps s₀ (State.setDpipe s n x) := by
  unfold State.setDpipe
  repeat first
    | with_reducible first
      | assumption
    | with_reducible refine Keeps.fields ?_ ?_ ?_ ?_
    | exact Or.inl rfl
    | rfl

theorem State.busTraffic_keeps {s₀ s : State} (h : Keeps s₀ s) (m : Nat) : Keeps s₀ (State.busTraffic s m) := by
  unfold State.busTraffic
  repeat first
    | (extract_lets +onlyGivenNames x; first
      | (refine (have hx : Keeps s₀ x := ?_; ?_); (on_goal 2 => (clear_value x; rename' x => y)); subst x)
      | (refine (have hx : Keeps s₀ x.1 := ?_; ?_); (on_goal 2 => (clear_value x; rename' x => y)); subst x)
      | (clear_value x; rename' x => y))
    | with_reducible first
      | assumption | apply Keeps.ite | refine Keeps.fold ?_ (fun _ _ _ => ?_) _ | apply State.p_keeps
      | apply State.incBy_keeps | apply State.drawn_keeps

theorem State.consumeRecord_keeps {s₀ s : State} (h : Keeps s₀ s) (i : Nat) :
    Keeps s₀ (State.consumeRecord s i) := by
  unfold State.consumeRecord
  repeat first
    | (extract_lets +onlyGivenNames x; first
      | (refine (have hx : Keeps s₀ x := ?_; ?_); (on_goal 2 => (clear_value x; rename' x => y)); subst x)
      | (refine (have hx : Keeps s₀ x.1 := ?_; ?_); (on_goal 2 => (clear_value x; rename' x => y)); subst x)
      | (clear_value x; rename' x => y))
    | with_reducible first
      | assumption | apply Keeps.ite | apply State.p_keeps | apply State.setSrc_keeps
    | split
    | with_reducible refine Keeps.fields ?_ ?_ ?_ ?_
    | exact Or.inl rfl
    | rfl

theorem State.decLog_keeps {s₀ s : State} (h : Keeps s₀ s) (f : DecFault) : Keeps s₀ (State.decLog s f) := by
  unfold State.decLog
  repeat first
    | with_reducible first
      | assumption | apply Keeps.ite | apply State.pb_keeps
    | with_reducible refine Keeps.fields ?_ ?_ ?_ ?_
    | exact Or.inl rfl
    | rfl

theorem decFaultRead_keeps {s₀ s : State} (h : Keeps s₀ s) (m : Nat) : Keeps s₀ (decFaultRead m s).1 := by
  unfold decFaultRead
  repeat first
    | with_reducible first
      | assumption | apply State.setSnaps_keeps
    | dsimp -zeta only
    | split
    | with_reducible refine Keeps.fields ?_ ?_ ?_ ?_
    | exact Or.inl rfl
    | rfl

theorem State.activate_keeps {s₀ s : State} (h : Keeps s₀ s) (i seq : Nat) (f : SpsFacts) :
    Keeps s₀ (State.activate s i seq f) := by
  unfold State.activate
  repeat first
    | (extract_lets +onlyGivenNames x; first
      | (refine (have hx : Keeps s₀ x := ?_; ?_); (on_goal 2 => (clear_value x; rename' x => y)); subst x)
      | (refine (have hx : Keeps s₀ x.1 := ?_; ?_); (on_goal 2 => (clear_value x; rename' x => y)); subst x)
      | (clear_value x; rename' x => y))
    | with_reducible first
      | assumption | apply Keeps.ite | apply State.p_keeps | apply State.pb_keeps | apply State.raise_keeps
      | apply State.setDctx_keeps | apply State.decLog_keeps
    | with_reducible refine Keeps.fields ?_ ?_ ?_ ?_
    | exact Or.inl rfl
    | rfl

theorem State.fieldPassed_keeps {s₀ s : State} (h : Keeps s₀ s) (i : Nat) (au : AuFacts) :
    Keeps s₀ (State.fieldPassed s i au) := by
  unfold State.fieldPassed
  repeat first
    | (extract_lets +onlyGivenNames x; first
      | (refine (have hx : Keeps s₀ x := ?_; ?_); (on_goal 2 => (clear_value x; rename' x => y)); subst x)
      | (refine (have hx : Keeps s₀ x.1 := ?_; ?_); (on_goal 2 => (clear_value x; rename' x => y)); subst x)
      | (clear_value x; rename' x => y))
    | with_reducible first
      | assumption | apply Keeps.ite | apply State.setDctx_keeps
    | with_reducible refine Keeps.fields ?_ ?_ ?_ ?_
    | exact Or.inl rfl
    | rfl

theorem State.auSkip_keeps {s₀ s : State} (h : Keeps s₀ s) (i : Nat) (au : AuFacts) :
    Keeps s₀ (State.auSkip s i au) := by
  unfold State.auSkip
  repeat first
    | with_reducible first
      | assumption | apply State.inc_keeps | apply State.consumeRecord_keeps | apply State.fieldPassed_keeps

theorem State.auUnsupported_keeps {s₀ s : State} (h : Keeps s₀ s) (i : Nat) :
    Keeps s₀ (State.auUnsupported s i) := by
  unfold State.auUnsupported
  repeat first
    | with_reducible first
      | assumption | apply State.inc_keeps | apply State.consumeRecord_keeps

theorem State.claimAll_keeps {s₀ s : State} (h : Keeps s₀ s) (i count : Nat) (l : List Nat) :
    Keeps s₀ (State.claimAll s i count l).1 := by
  induction l generalizing s with
  | nil => unfold State.claimAll; exact h
  | cons p ps ih =>
    unfold State.claimAll
    split
    · exact h
    · next x _ =>
      have hr := ih (State.claim_keeps h x.2 p count)
      dsimp only
      split
      · exact hr
      · exact State.unclaim_keeps hr _

theorem State.picOpen_keeps {s₀ s : State} (h : Keeps s₀ s) (i a : Nat) (au : AuFacts) :
    Keeps s₀ (State.picOpen s i a au).1 := by
  unfold State.picOpen
  repeat first
    | (extract_lets +onlyGivenNames x; first
      | (refine (have hx : Keeps s₀ x := ?_; ?_); (on_goal 2 => (clear_value x; rename' x => y)); subst x)
      | (refine (have hx : Keeps s₀ x.1 := ?_; ?_); (on_goal 2 => (clear_value x; rename' x => y)); subst x)
      | (clear_value x; rename' x => y))
    | with_reducible first
      | assumption | apply Keeps.ite | apply Keeps.itePair | apply State.p_keeps | apply State.inc_keeps
      | apply State.setDctx_keeps | apply State.claimAll_keeps
    | dsimp -zeta only
    | split
    | with_reducible refine Keeps.fields ?_ ?_ ?_ ?_
    | exact Or.inl rfl
    | rfl

theorem State.jobStart_keeps {s₀ s : State} (h : Keeps s₀ s) (n i a from_ : Nat) (au : AuFacts) :
    Keeps s₀ (State.jobStart s n i a from_ au) := by
  unfold State.jobStart
  repeat first
    | (extract_lets +onlyGivenNames x; first
      | (refine (have hx : Keeps s₀ x := ?_; ?_); (on_goal 2 => (clear_value x; rename' x => y)); subst x)
      | (refine (have hx : Keeps s₀ x.1 := ?_; ?_); (on_goal 2 => (clear_value x; rename' x => y)); subst x)
      | (clear_value x; rename' x => y))
    | with_reducible first
      | assumption | apply State.p_keeps | apply State.drawn_keeps | apply State.store_keeps
      | apply State.setDpipe_keeps | apply State.fieldPassed_keeps | apply State.picOpen_keeps
    | dsimp -zeta only
    | with_reducible refine Keeps.fields ?_ ?_ ?_ ?_
    | exact Or.inl rfl
    | rfl

theorem State.pipeResume_keeps {s₀ s : State} (h : Keeps s₀ s) (n : Nat) : Keeps s₀ (State.pipeResume s n) := by
  unfold State.pipeResume
  repeat first
    | (extract_lets +onlyGivenNames x; first
      | (refine (have hx : Keeps s₀ x := ?_; ?_); (on_goal 2 => (clear_value x; rename' x => y)); subst x)
      | (refine (have hx : Keeps s₀ x.1 := ?_; ?_); (on_goal 2 => (clear_value x; rename' x => y)); subst x)
      | (clear_value x; rename' x => y))
    | with_reducible first
      | assumption | apply Keeps.ite | apply State.p_keeps | apply State.drawn_keeps | apply State.store_keeps
      | apply State.setDpipe_keeps
    | split
    | with_reducible refine Keeps.fields ?_ ?_ ?_ ?_
    | exact Or.inl rfl
    | rfl

theorem State.recordTake_keeps {s₀ s : State} (h : Keeps s₀ s) (i a : Nat) (au : AuFacts) :
    Keeps s₀ (State.recordTake s i a au).1 := by
  unfold State.recordTake
  apply Keeps.itePair
  · exact State.auSkip_keeps h _ _
  extract_lets b t
  have ht : Keeps s₀ t := by
    unfold t
    split
    · exact State.activate_keeps h _ _ _
    · exact Keeps.ite (State.p_keeps h _ _) h
  exact Keeps.itePair (State.auUnsupported_keeps ht _) (Keeps.itePair (State.auSkip_keeps (State.p_keeps ht _ _) _ _)
    (Keeps.itePair (State.auSkip_keeps ht _ _) ht))

theorem State.takeRecord_keeps {s₀ s : State} (h : Keeps s₀ s) (n i a : Nat) (au : AuFacts) :
    Keeps s₀ (State.takeRecord s n i a au) := by
  unfold State.takeRecord
  repeat first
    | (extract_lets +onlyGivenNames x; first
      | (refine (have hx : Keeps s₀ x := ?_; ?_); (on_goal 2 => (clear_value x; rename' x => y)); subst x)
      | (refine (have hx : Keeps s₀ x.1 := ?_; ?_); (on_goal 2 => (clear_value x; rename' x => y)); subst x)
      | (clear_value x; rename' x => y))
    | with_reducible first
      | assumption | apply Keeps.ite | apply Keeps.itePair | apply State.jobStart_keeps
      | apply State.pipeResume_keeps | apply State.recordTake_keeps
    | dsimp -zeta only

theorem decDispatch_keeps {s₀ s : State} (h : Keeps s₀ s) (n : Nat) (au : AuFacts) :
    Keeps s₀ (decDispatch n au s) := by
  unfold decDispatch
  repeat first
    | with_reducible first
      | assumption | apply Keeps.ite | apply State.pipeResume_keeps | apply State.takeRecord_keeps
    | split
    | with_reducible refine Keeps.fields ?_ ?_ ?_ ?_
    | exact Or.inl rfl
    | rfl

theorem State.jobGone_keeps {s₀ s : State} (h : Keeps s₀ s) (n : Nat) : Keeps s₀ (State.jobGone s n) := by
  unfold State.jobGone
  repeat first
    | with_reducible first
      | assumption | apply State.codecEnds_keeps | apply State.setDpipe_keeps
    | with_reducible refine Keeps.fields ?_ ?_ ?_ ?_
    | exact Or.inl rfl
    | rfl

theorem State.jobSave_keeps {s₀ s : State} (h : Keeps s₀ s) (n : Nat) (j : DecJob) :
    Keeps s₀ (State.jobSave s n j) := by
  unfold State.jobSave
  repeat first
    | (extract_lets +onlyGivenNames x; first
      | (refine (have hx : Keeps s₀ x := ?_; ?_); (on_goal 2 => (clear_value x; rename' x => y)); subst x)
      | (refine (have hx : Keeps s₀ x.1 := ?_; ?_); (on_goal 2 => (clear_value x; rename' x => y)); subst x)
      | (clear_value x; rename' x => y))
    | with_reducible first
      | assumption | apply Keeps.ite | apply State.p_keeps | apply State.inc_keeps | apply State.drawn_keeps
      | apply State.storeFree_keeps | apply State.codecEnds_keeps | apply State.setDpipe_keeps
    | with_reducible refine Keeps.fields ?_ ?_ ?_ ?_
    | exact Or.inl rfl
    | rfl

theorem State.writeRows_keeps {s₀ s : State} (h : Keeps s₀ s) (m qos : Nat) (p : Pic) (rows : List (List Sample)) :
    Keeps s₀ (State.writeRows s m qos p rows) := by
  unfold State.writeRows
  repeat first
    | with_reducible first
      | assumption | refine Keeps.fold ?_ (fun _ _ _ => ?_) _ | refine Keeps.foldPair ?_ (fun _ _ _ => ?_) _
      | apply State.p_keeps | apply State.writePixels_keeps
    | dsimp -zeta only

theorem State.reduceFrom_keeps {s₀ s : State} (h : Keeps s₀ s) (m qos b : Nat) (wanted : Nat → Bool) (fuel k : Nat)
    (rows : List (List Sample)) : Keeps s₀ (State.reduceFrom s m qos b wanted fuel k rows) := by
  induction fuel generalizing s k rows with
  | zero => unfold State.reduceFrom; exact h
  | succ n ih =>
    unfold State.reduceFrom
    repeat first
      | (extract_lets +onlyGivenNames x; first
        | (refine (have hx : Keeps s₀ x := ?_; ?_); (on_goal 2 => (clear_value x; rename' x => y)); subst x)
        | (refine (have hx : Keeps s₀ x.1 := ?_; ?_); (on_goal 2 => (clear_value x; rename' x => y)); subst x)
        | (clear_value x; rename' x => y))
      | with_reducible first
        | assumption | apply Keeps.ite | apply ih | apply State.writeRows_keeps

theorem State.reduceBuf_keeps {s₀ s : State} (h : Keeps s₀ s) (m qos i b : Nat) :
    Keeps s₀ (State.reduceBuf s m qos i b) := by
  unfold State.reduceBuf
  repeat first
    | (extract_lets +onlyGivenNames x; first
      | (refine (have hx : Keeps s₀ x := ?_; ?_); (on_goal 2 => (clear_value x; rename' x => y)); subst x)
      | (refine (have hx : Keeps s₀ x.1 := ?_; ?_); (on_goal 2 => (clear_value x; rename' x => y)); subst x)
      | (have z := fun a => x a; clear z; subst x)
      | (clear_value x; rename' x => y))
    | with_reducible first
      | assumption | apply State.p_keeps | apply State.reduceFrom_keeps | apply copyRead_keeps

theorem State.slotWrite_keeps {s₀ s : State} (h : Keeps s₀ s) (i k : Nat) (vs : List Nat) :
    Keeps s₀ (State.slotWrite s i k vs) := by
  unfold State.slotWrite
  repeat first
    | with_reducible first
      | assumption | apply State.store_keeps

theorem State.refGenerate_keeps {s₀ s : State} (h : Keeps s₀ s) (i seq : Nat) :
    Keeps s₀ (State.refGenerate s i seq) := by
  unfold State.refGenerate
  repeat first
    | (extract_lets +onlyGivenNames x; first
      | (refine (have hx : Keeps s₀ x := ?_; ?_); (on_goal 2 => (clear_value x; rename' x => y)); subst x)
      | (refine (have hx : Keeps s₀ x.1 := ?_; ?_); (on_goal 2 => (clear_value x; rename' x => y)); subst x)
      | (clear_value x; rename' x => y))
    | with_reducible first
      | assumption | apply State.setDctx_keeps | apply State.slotWrite_keeps
    | with_reducible refine Keeps.fields ?_ ?_ ?_ ?_
    | exact Or.inl rfl
    | rfl

theorem State.refsGenerate_keeps {s₀ s : State} (h : Keeps s₀ s) (i : Nat) (refs : List Nat) :
    Keeps s₀ (State.refsGenerate s i refs) := by
  unfold State.refsGenerate
  repeat first
    | with_reducible first
      | assumption | apply Keeps.ite | refine Keeps.fold ?_ (fun _ _ _ => ?_) _ | apply State.refGenerate_keeps

theorem State.dpbStore_keeps {s₀ s : State} (h : Keeps s₀ s) (j : DecJob) (taint : Bool) (vs : List Nat) :
    Keeps s₀ (State.dpbStore s j taint vs) := by
  unfold State.dpbStore
  repeat first
    | (extract_lets +onlyGivenNames x; first
      | (refine (have hx : Keeps s₀ x := ?_; ?_); (on_goal 2 => (clear_value x; rename' x => y)); subst x)
      | (refine (have hx : Keeps s₀ x.1 := ?_; ?_); (on_goal 2 => (clear_value x; rename' x => y)); subst x)
      | (clear_value x; rename' x => y))
    | with_reducible first
      | assumption | apply Keeps.ite | refine Keeps.fold ?_ (fun _ _ _ => ?_) _ | apply State.setDctx_keeps
      | apply State.slotWrite_keeps
    | split
    | with_reducible refine Keeps.fields ?_ ?_ ?_ ?_
    | exact Or.inl rfl
    | rfl

theorem State.dpbKeep_keeps {s₀ s : State} (h : Keeps s₀ s) (i : Nat) (keeps : List Nat) :
    Keeps s₀ (State.dpbKeep s i keeps) := by
  unfold State.dpbKeep
  repeat first
    | (extract_lets +onlyGivenNames x; first
      | (refine (have hx : Keeps s₀ x := ?_; ?_); (on_goal 2 => (clear_value x; rename' x => y)); subst x)
      | (refine (have hx : Keeps s₀ x.1 := ?_; ?_); (on_goal 2 => (clear_value x; rename' x => y)); subst x)
      | (have z := fun a => x a; clear z; subst x)
      | (clear_value x; rename' x => y))
    | with_reducible first
      | assumption | apply State.setDctx_keeps
    | with_reducible refine Keeps.fields ?_ ?_ ?_ ?_
    | exact Or.inl rfl
    | rfl

theorem State.picContent_keeps {s₀ s : State} (h : Keeps s₀ s) (m qos b : Nat) (row : Nat → List Sample) (keep : Nat → Bool) :
    Keeps s₀ (State.picContent s m qos b row keep) := by
  unfold State.picContent
  repeat first
    | (extract_lets +onlyGivenNames x; first
      | (refine (have hx : Keeps s₀ x := ?_; ?_); (on_goal 2 => (clear_value x; rename' x => y)); subst x)
      | (refine (have hx : Keeps s₀ x.1 := ?_; ?_); (on_goal 2 => (clear_value x; rename' x => y)); subst x)
      | (clear_value x; rename' x => y))
    | with_reducible first
      | assumption | apply Keeps.ite | apply Keeps.itePair | refine Keeps.fold ?_ (fun _ _ _ => ?_) _
      | refine Keeps.foldPair ?_ (fun _ _ _ => ?_) _ | apply State.p_keeps | apply State.writePixels_keeps
    | dsimp -zeta only

theorem State.jobContent_keeps {s₀ s : State} (h : Keeps s₀ s) (n : Nat) (j : DecJob) (p : DecPic) (front : Nat) (vs : List Nat) :
    Keeps s₀ (State.jobContent s n j p front vs) := by
  unfold State.jobContent
  repeat first
    | (extract_lets +onlyGivenNames x; first
      | (refine (have hx : Keeps s₀ x := ?_; ?_); (on_goal 2 => (clear_value x; rename' x => y)); subst x)
      | (refine (have hx : Keeps s₀ x.1 := ?_; ?_); (on_goal 2 => (clear_value x; rename' x => y)); subst x)
      | (clear_value x; rename' x => y))
    | with_reducible first
      | assumption | apply Keeps.ite | refine Keeps.fold ?_ (fun _ _ _ => ?_) _ | apply State.p_keeps
      | apply State.reduceBuf_keeps | apply State.picContent_keeps
    | split
    | with_reducible refine Keeps.fields ?_ ?_ ?_ ?_
    | exact Or.inl rfl
    | rfl

theorem State.picOut_keeps {s₀ s : State} (h : Keeps s₀ s) (i seq : Nat) (quiet : Bool) (p : DecPic) :
    Keeps s₀ (State.picOut s i seq quiet p) := by
  unfold State.picOut
  repeat first
    | (extract_lets +onlyGivenNames x; first
      | (refine (have hx : Keeps s₀ x := ?_; ?_); (on_goal 2 => (clear_value x; rename' x => y)); subst x)
      | (refine (have hx : Keeps s₀ x.1 := ?_; ?_); (on_goal 2 => (clear_value x; rename' x => y)); subst x)
      | (clear_value x; rename' x => y))
    | with_reducible first
      | assumption | apply Keeps.ite | refine Keeps.fold ?_ (fun _ _ _ => ?_) _ | apply State.p_keeps
      | apply State.inc_keeps | apply State.raise_keeps | apply State.closeBuf_keeps | apply State.filled_keeps

theorem State.picsOut_keeps {s₀ s : State} (h : Keeps s₀ s) (i seq : Nat) (hush : Option Nat) (qs : List Nat) :
    Keeps s₀ (State.picsOut s i seq hush qs) := by
  unfold State.picsOut
  repeat first
    | (extract_lets +onlyGivenNames x; first
      | (refine (have hx : Keeps s₀ x := ?_; ?_); (on_goal 2 => (clear_value x; rename' x => y)); subst x)
      | (refine (have hx : Keeps s₀ x.1 := ?_; ?_); (on_goal 2 => (clear_value x; rename' x => y)); subst x)
      | (clear_value x; rename' x => y))
    | with_reducible first
      | assumption | refine Keeps.fold ?_ (fun _ _ _ => ?_) _ | apply State.p_keeps | apply State.setDctx_keeps
      | apply State.picOut_keeps
    | split
    | with_reducible refine Keeps.fields ?_ ?_ ?_ ?_
    | exact Or.inl rfl
    | rfl

theorem State.picsDrop_keeps {s₀ s : State} (h : Keeps s₀ s) (i : Nat) (qs : List Nat) :
    Keeps s₀ (State.picsDrop s i qs) := by
  unfold State.picsDrop
  repeat first
    | (extract_lets +onlyGivenNames x; first
      | (refine (have hx : Keeps s₀ x := ?_; ?_); (on_goal 2 => (clear_value x; rename' x => y)); subst x)
      | (refine (have hx : Keeps s₀ x.1 := ?_; ?_); (on_goal 2 => (clear_value x; rename' x => y)); subst x)
      | (clear_value x; rename' x => y))
    | with_reducible first
      | assumption | refine Keeps.fold ?_ (fun _ _ _ => ?_) _ | apply State.p_keeps | apply State.unclaim_keeps
      | apply State.setDctx_keeps
    | with_reducible refine Keeps.fields ?_ ?_ ?_ ?_
    | exact Or.inl rfl
    | rfl

theorem State.picMark_keeps {s₀ s : State} (h : Keeps s₀ s) (j : DecJob) (taint : Bool) :
    Keeps s₀ (State.picMark s j taint) := by
  unfold State.picMark
  repeat first
    | with_reducible first
      | assumption | apply Keeps.ite | apply State.p_keeps | apply State.setDctx_keeps
    | with_reducible refine Keeps.fields ?_ ?_ ?_ ?_
    | exact Or.inl rfl
    | rfl

theorem State.rowsShown_keeps {s₀ s : State} (h : Keeps s₀ s) (i : Nat) (next : Option Nat) :
    Keeps s₀ (State.rowsShown s i next) := by
  unfold State.rowsShown
  repeat first
    | with_reducible first
      | assumption | refine Keeps.fold ?_ (fun _ _ _ => ?_) _ | apply State.p_keeps
    | split
    | with_reducible refine Keeps.fields ?_ ?_ ?_ ?_
    | exact Or.inl rfl
    | rfl

theorem State.countLoad_keeps {s₀ s : State} (h : Keeps s₀ s) (i field : Nat) :
    Keeps s₀ (State.countLoad s i field) := by
  unfold State.countLoad
  repeat first
    | (extract_lets +onlyGivenNames x; first
      | (refine (have hx : Keeps s₀ x := ?_; ?_); (on_goal 2 => (clear_value x; rename' x => y)); subst x)
      | (refine (have hx : Keeps s₀ x.1 := ?_; ?_); (on_goal 2 => (clear_value x; rename' x => y)); subst x)
      | (clear_value x; rename' x => y))
    | with_reducible first
      | assumption | apply State.p_keeps
    | with_reducible refine Keeps.fields ?_ ?_ ?_ ?_
    | exact Or.inl rfl
    | rfl

theorem State.jobPicture_keeps {s₀ s : State} (h : Keeps s₀ s) (n : Nat) (j : DecJob) (aborted : Bool) (e : DecEnd) :
    Keeps s₀ (State.jobPicture s n j aborted e) := by
  unfold State.jobPicture
  repeat first
    | (extract_lets +onlyGivenNames x; first
      | (refine (have hx : Keeps s₀ x := ?_; ?_); (on_goal 2 => (clear_value x; rename' x => y)); subst x)
      | (refine (have hx : Keeps s₀ x.1 := ?_; ?_); (on_goal 2 => (clear_value x; rename' x => y)); subst x)
      | (clear_value x; rename' x => y))
    | with_reducible first
      | assumption | apply Keeps.ite | apply State.p_keeps | apply State.setDctx_keeps
      | apply State.refsGenerate_keeps | apply State.dpbStore_keeps | apply State.jobContent_keeps
      | apply State.picMark_keeps
    | split
    | with_reducible refine Keeps.fields ?_ ?_ ?_ ?_
    | exact Or.inl rfl
    | rfl

theorem State.jobFront_keeps {s₀ s : State} (h : Keeps s₀ s) (n : Nat) (j : DecJob) (e : DecEnd) :
    Keeps s₀ (State.jobFront s n j e) := by
  unfold State.jobFront
  repeat first
    | (extract_lets +onlyGivenNames x; first
      | (refine (have hx : Keeps s₀ x := ?_; ?_); (on_goal 2 => (clear_value x; rename' x => y)); subst x)
      | (refine (have hx : Keeps s₀ x.1 := ?_; ?_); (on_goal 2 => (clear_value x; rename' x => y)); subst x)
      | (clear_value x; rename' x => y))
    | with_reducible first
      | assumption | apply Keeps.ite | refine Keeps.fold ?_ (fun _ _ _ => ?_) _ | apply State.p_keeps
      | apply State.jobContent_keeps
    | split
    | with_reducible refine Keeps.fields ?_ ?_ ?_ ?_
    | exact Or.inl rfl
    | rfl

theorem decPreempt_keeps {s₀ s : State} (h : Keeps s₀ s) (n : Nat) (t : DecTurn) : Keeps s₀ (decPreempt n t s) := by
  unfold decPreempt
  repeat first
    | (extract_lets +onlyGivenNames x; first
      | (refine (have hx : Keeps s₀ x := ?_; ?_); (on_goal 2 => (clear_value x; rename' x => y)); subst x)
      | (refine (have hx : Keeps s₀ x.1 := ?_; ?_); (on_goal 2 => (clear_value x; rename' x => y)); subst x)
      | (clear_value x; rename' x => y))
    | with_reducible first
      | assumption | apply Keeps.ite | apply Keeps.itePair | apply State.jobStart_keeps
      | apply State.recordTake_keeps | apply State.jobGone_keeps | apply State.jobSave_keeps
      | apply State.jobFront_keeps
    | dsimp -zeta only
    | split
    | with_reducible refine Keeps.fields ?_ ?_ ?_ ?_
    | exact Or.inl rfl
    | rfl

theorem State.jobEnd_keeps {s₀ s : State} (h : Keeps s₀ s) (n : Nat) (j : DecJob) (aborted : Bool) (hush : Option Nat) (e : DecEnd) :
    Keeps s₀ (State.jobEnd s n j aborted hush e) := by
  unfold State.jobEnd
  repeat first
    | (extract_lets +onlyGivenNames x; first
      | (refine (have hx : Keeps s₀ x := ?_; ?_); (on_goal 2 => (clear_value x; rename' x => y)); subst x)
      | (refine (have hx : Keeps s₀ x.1 := ?_; ?_); (on_goal 2 => (clear_value x; rename' x => y)); subst x)
      | (clear_value x; rename' x => y))
    | with_reducible first
      | assumption | apply State.p_keeps | apply State.inc_keeps | apply State.codecEnds_keeps
      | apply State.setDpipe_keeps | apply State.busTraffic_keeps | apply State.consumeRecord_keeps
      | apply State.dpbKeep_keeps | apply State.picsOut_keeps | apply State.picsDrop_keeps
      | apply State.rowsShown_keeps | apply State.countLoad_keeps | apply State.jobPicture_keeps
    | with_reducible refine Keeps.fields ?_ ?_ ?_ ?_
    | exact Or.inl rfl
    | rfl

theorem decJobDone_keeps {s₀ s : State} (h : Keeps s₀ s) (n : Nat) (e : DecEnd) : Keeps s₀ (decJobDone n e s) := by
  unfold decJobDone
  repeat first
    | with_reducible first
      | assumption | apply Keeps.ite | apply State.setDctx_keeps | apply State.jobGone_keeps
      | apply State.jobEnd_keeps
    | split
    | with_reducible refine Keeps.fields ?_ ?_ ?_ ?_
    | exact Or.inl rfl
    | rfl

theorem State.decAbandon_keeps {s₀ s : State} (h : Keeps s₀ s) (n cause : Nat) (e : DecEnd) :
    Keeps s₀ (State.decAbandon s n cause e) := by
  unfold State.decAbandon
  repeat first
    | (extract_lets +onlyGivenNames x; first
      | (refine (have hx : Keeps s₀ x := ?_; ?_); (on_goal 2 => (clear_value x; rename' x => y)); subst x)
      | (refine (have hx : Keeps s₀ x.1 := ?_; ?_); (on_goal 2 => (clear_value x; rename' x => y)); subst x)
      | (clear_value x; rename' x => y))
    | with_reducible first
      | assumption | apply Keeps.ite | apply State.p_keeps | apply State.inc_keeps | apply State.drawn_keeps
      | apply State.raise_keeps | apply State.masterReset_keeps | apply State.setDctx_keeps
      | apply State.setDpipe_keeps | apply State.jobGone_keeps | apply State.jobEnd_keeps
    | split
    | with_reducible refine Keeps.fields ?_ ?_ ?_ ?_
    | exact Or.inl rfl
    | rfl

theorem State.decAbort_keeps {s₀ s : State} (h : Keeps s₀ s) (n cause addr : Nat) (e : DecEnd) :
    Keeps s₀ (State.decAbort s n cause addr e) := by
  unfold State.decAbort
  repeat first
    | with_reducible first
      | assumption | apply Keeps.ite | apply State.decLog_keeps | apply State.decAbandon_keeps
    | split
    | with_reducible refine Keeps.fields ?_ ?_ ?_ ?_
    | exact Or.inl rfl
    | rfl

theorem decWatchdog_keeps {s₀ s : State} (h : Keeps s₀ s) (n : Nat) (e : DecEnd) :
    Keeps s₀ (decWatchdog n e s) := by
  unfold decWatchdog
  repeat first
    | with_reducible first
      | assumption | apply Keeps.ite | apply State.decAbort_keeps
    | split
    | with_reducible refine Keeps.fields ?_ ?_ ?_ ?_
    | exact Or.inl rfl
    | rfl

theorem State.memError_keeps {s₀ s : State} (h : Keeps s₀ s) (m own a : Nat) :
    Keeps s₀ (State.memError s m own a) := by
  unfold State.memError
  repeat first
    | (extract_lets +onlyGivenNames x; first
      | (refine (have hx : Keeps s₀ x := ?_; ?_); (on_goal 2 => (clear_value x; rename' x => y)); subst x)
      | (refine (have hx : Keeps s₀ x.1 := ?_; ?_); (on_goal 2 => (clear_value x; rename' x => y)); subst x)
      | (clear_value x; rename' x => y))
    | with_reducible first
      | assumption | apply Keeps.ite | apply State.errLog_keeps | apply State.dramUncorr_keeps
      | apply State.busFail_keeps
    | split
    | with_reducible refine Keeps.fields ?_ ?_ ?_ ?_
    | exact Or.inl rfl
    | rfl

theorem decAccessFault_keeps {s₀ s : State} (h : Keeps s₀ s) (n : Nat) (f : JobFault) (a : Nat) (e : DecEnd) :
    Keeps s₀ (decAccessFault n f a e s) := by
  unfold decAccessFault
  repeat first
    | with_reducible first
      | assumption | apply Keeps.ite | apply State.decAbort_keeps | apply State.memError_keeps
    | split
    | with_reducible refine Keeps.fields ?_ ?_ ?_ ?_
    | exact Or.inl rfl
    | rfl

theorem State.decClear_keeps {s₀ s : State} (h : Keeps s₀ s) (i : Nat) : Keeps s₀ (State.decClear s i) := by
  unfold State.decClear
  repeat first
    | (extract_lets +onlyGivenNames x; first
      | (refine (have hx : Keeps s₀ x := ?_; ?_); (on_goal 2 => (clear_value x; rename' x => y)); subst x)
      | (refine (have hx : Keeps s₀ x.1 := ?_; ?_); (on_goal 2 => (clear_value x; rename' x => y)); subst x)
      | (clear_value x; rename' x => y))
    | with_reducible first
      | assumption | apply State.p_keeps

theorem State.decStart_keeps {s₀ s : State} (h : Keeps s₀ s) (i : Nat) : Keeps s₀ (State.decStart s i) := by
  unfold State.decStart
  repeat first
    | with_reducible first
      | assumption | apply State.p_keeps | apply State.setDctx_keeps

theorem State.decStop_keeps {s₀ s : State} (h : Keeps s₀ s) (i : Nat) : Keeps s₀ (State.decStop s i) := by
  unfold State.decStop
  repeat first
    | (extract_lets +onlyGivenNames x; first
      | (refine (have hx : Keeps s₀ x := ?_; ?_); (on_goal 2 => (clear_value x; rename' x => y)); subst x)
      | (refine (have hx : Keeps s₀ x.1 := ?_; ?_); (on_goal 2 => (clear_value x; rename' x => y)); subst x)
      | (clear_value x; rename' x => y))
    | with_reducible first
      | assumption | apply Keeps.ite | refine Keeps.fold ?_ (fun _ _ _ => ?_) _ | apply State.p_keeps
      | apply State.setDctx_keeps | apply State.setDpipe_keeps
    | with_reducible refine Keeps.fields ?_ ?_ ?_ ?_
    | exact Or.inl rfl
    | rfl

theorem decCtrlWrite_keeps {s₀ s : State} (h : Keeps s₀ s) (m n : Nat) (v : Word) :
    Keeps s₀ (decCtrlWrite m n v s) := by
  unfold decCtrlWrite
  repeat first
    | with_reducible first
      | assumption | apply Keeps.ite | apply State.pb_keeps | apply State.clkRefresh_keeps
      | apply State.logIgnored_keeps

theorem saveBaseWrite_keeps {s₀ s : State} (h : Keeps s₀ s) (m n : Nat) (v : Word) :
    Keeps s₀ (saveBaseWrite m n v s) := by
  unfold saveBaseWrite
  repeat first
    | with_reducible first
      | assumption | apply Keeps.ite | apply State.logIgnored_keeps | apply State.writeFields_keeps

theorem decLoadWrite_keeps {s₀ s : State} (h : Keeps s₀ s) (v : Word) : Keeps s₀ (decLoadWrite v s) := by
  unfold decLoadWrite
  repeat first
    | with_reducible first
      | assumption | apply Keeps.ite | apply State.p_keeps

end Sys2Proof.Machine
end

