-- ==== Sys2Proof/Laws/KeepStages.lean ====
section
/-! SUPPORT. What the operations of Machine/Stages.lean keep. -/

set_option linter.all false

namespace Sys2Proof.Machine

theorem State.setCport_keeps {s₀ s : State} (h : Keeps s₀ s) (p : Nat) (x : CapPort) :
    Keeps s₀ (State.setCport s p x) := by
  unfold State.setCport
  repeat first
    | with_reducible first
      | assumption | apply State.p_keeps
    | with_reducible refine Keeps.fields ?_ ?_ ?_ ?_
    | exact Or.inl rfl
    | rfl

theorem State.setIctx_keeps {s₀ s : State} (h : Keeps s₀ s) (j c : Nat) (x : IspCtx) :
    Keeps s₀ (State.setIctx s j c x) := by
  unfold State.setIctx
  repeat first
    | with_reducible first
      | assumption
    | with_reducible refine Keeps.fields ?_ ?_ ?_ ?_
    | exact Or.inl rfl
    | rfl

end Sys2Proof.Machine
end

