-- ==== Sys2Proof/Laws/KeepCapture.lean ====
section
/-! SUPPORT. What the operations of Machine/Capture.lean keep. -/

set_option linter.all false

namespace Sys2Proof.Machine

theorem State.xyTake_keeps {s₀ s : State} (h : Keeps s₀ s) (p v : Nat) : Keeps s₀ (State.xyTake s p v) := by
  unfold State.xyTake
  repeat first
    | (extract_lets +onlyGivenNames x; first
      | (refine (have hx : Keeps s₀ x := ?_; ?_); (on_goal 2 => (clear_value x; rename' x => y)); subst x)
      | (refine (have hx : Keeps s₀ x.1 := ?_; ?_); (on_goal 2 => (clear_value x; rename' x => y)); subst x)
      | (clear_value x; rename' x => y))
    | with_reducible first
      | assumption | apply Keeps.ite | apply State.p_keeps | apply State.inc_keeps | apply State.setCport_keeps
    | with_reducible refine Keeps.fields ?_ ?_ ?_ ?_
    | exact Or.inl rfl
    | rfl

theorem State.xyAll_keeps {s₀ s : State} (h : Keeps s₀ s) (p : Nat) (xy : List Nat) :
    Keeps s₀ (State.xyAll s p xy) := by
  unfold State.xyAll
  repeat first
    | with_reducible first
      | assumption | apply Keeps.ite | refine Keeps.fold ?_ (fun _ _ _ => ?_) _ | apply State.p_keeps
      | apply State.xyTake_keeps

theorem State.storeLevel_keeps {s₀ s : State} (h : Keeps s₀ s) (p : Nat) : Keeps s₀ (State.storeLevel s p) := by
  unfold State.storeLevel
  repeat first
    | (extract_lets +onlyGivenNames x; first
      | (refine (have hx : Keeps s₀ x := ?_; ?_); (on_goal 2 => (clear_value x; rename' x => y)); subst x)
      | (refine (have hx : Keeps s₀ x.1 := ?_; ?_); (on_goal 2 => (clear_value x; rename' x => y)); subst x)
      | (clear_value x; rename' x => y))
    | with_reducible first
      | assumption | apply State.p_keeps | apply State.store_keeps

theorem State.takeShadow_keeps {s₀ s : State} (h : Keeps s₀ s) (j c : Nat) : Keeps s₀ (State.takeShadow s j c) := by
  unfold State.takeShadow
  repeat first
    | (extract_lets +onlyGivenNames x; first
      | (refine (have hx : Keeps s₀ x := ?_; ?_); (on_goal 2 => (clear_value x; rename' x => y)); subst x)
      | (refine (have hx : Keeps s₀ x.1 := ?_; ?_); (on_goal 2 => (clear_value x; rename' x => y)); subst x)
      | (clear_value x; rename' x => y))
    | with_reducible first
      | assumption | refine Keeps.fold ?_ (fun _ _ _ => ?_) _ | apply State.setIctx_keeps
    | with_reducible refine Keeps.fields ?_ ?_ ?_ ?_
    | exact Or.inl rfl
    | rfl

theorem State.setIpipe_keeps {s₀ s : State} (h : Keeps s₀ s) (j : Nat) (x : IspPipe) :
    Keeps s₀ (State.setIpipe s j x) := by
  unfold State.setIpipe
  repeat first
    | with_reducible first
      | assumption
    | with_reducible refine Keeps.fields ?_ ?_ ?_ ?_
    | exact Or.inl rfl
    | rfl

theorem State.ctxStart_keeps {s₀ s : State} (h : Keeps s₀ s) (m j c : Nat) (v : Word) :
    Keeps s₀ (State.ctxStart s m j c v) := by
  unfold State.ctxStart
  repeat first
    | (extract_lets +onlyGivenNames x; first
      | (refine (have hx : Keeps s₀ x := ?_; ?_); (on_goal 2 => (clear_value x; rename' x => y)); subst x)
      | (refine (have hx : Keeps s₀ x.1 := ?_; ?_); (on_goal 2 => (clear_value x; rename' x => y)); subst x)
      | (clear_value x; rename' x => y))
    | with_reducible first
      | assumption | apply Keeps.ite | refine Keeps.fold ?_ (fun _ _ _ => ?_) _ | apply State.p_keeps
      | apply State.pb_keeps | apply State.clkRefresh_keeps | apply State.logIgnored_keeps
      | apply State.setIctx_keeps | apply State.takeShadow_keeps | apply State.setIpipe_keeps
    | with_reducible refine Keeps.fields ?_ ?_ ?_ ?_
    | exact Or.inl rfl
    | rfl

theorem State.frameDrop_keeps {s₀ s : State} (h : Keeps s₀ s) (p : Nat) (counted : Bool) :
    Keeps s₀ (State.frameDrop s p counted) := by
  unfold State.frameDrop
  repeat first
    | (extract_lets +onlyGivenNames x; first
      | (refine (have hx : Keeps s₀ x := ?_; ?_); (on_goal 2 => (clear_value x; rename' x => y)); subst x)
      | (refine (have hx : Keeps s₀ x.1 := ?_; ?_); (on_goal 2 => (clear_value x; rename' x => y)); subst x)
      | (clear_value x; rename' x => y))
    | with_reducible first
      | assumption | apply Keeps.ite | apply State.p_keeps | apply State.pb_keeps | apply State.inc_keeps
      | apply State.store_keeps | apply State.unclaim_keeps | apply State.setCport_keeps
      | apply State.storeLevel_keeps
    | split
    | with_reducible refine Keeps.fields ?_ ?_ ?_ ?_
    | exact Or.inl rfl
    | rfl

theorem State.ctxStop_keeps {s₀ s : State} (h : Keeps s₀ s) (j c : Nat) : Keeps s₀ (State.ctxStop s j c) := by
  unfold State.ctxStop
  repeat first
    | (extract_lets +onlyGivenNames x; first
      | (refine (have hx : Keeps s₀ x := ?_; ?_); (on_goal 2 => (clear_value x; rename' x => y)); subst x)
      | (refine (have hx : Keeps s₀ x.1 := ?_; ?_); (on_goal 2 => (clear_value x; rename' x => y)); subst x)
      | (clear_value x; rename' x => y))
    | with_reducible first
      | assumption | apply Keeps.ite | apply State.p_keeps | apply State.pb_keeps | apply State.clkRefresh_keeps
      | apply State.setIpipe_keeps | apply State.frameDrop_keeps
    | with_reducible refine Keeps.fields ?_ ?_ ?_ ?_
    | exact Or.inl rfl
    | rfl

theorem State.applyShadow_keeps {s₀ s : State} (h : Keeps s₀ s) (j c p : Nat) :
    Keeps s₀ (State.applyShadow s j c p) := by
  unfold State.applyShadow
  repeat first
    | (extract_lets +onlyGivenNames x; first
      | (refine (have hx : Keeps s₀ x := ?_; ?_); (on_goal 2 => (clear_value x; rename' x => y)); subst x)
      | (refine (have hx : Keeps s₀ x.1 := ?_; ?_); (on_goal 2 => (clear_value x; rename' x => y)); subst x)
      | (clear_value x; rename' x => y))
    | with_reducible first
      | assumption | apply Keeps.ite | apply State.p_keeps | apply State.pb_keeps | apply State.logIgnored_keeps
      | apply State.takeShadow_keeps

theorem ctxCtrlWrite_keeps {s₀ s : State} (h : Keeps s₀ s) (m j c : Nat) (v : Word) :
    Keeps s₀ (ctxCtrlWrite m j c v s) := by
  unfold ctxCtrlWrite
  repeat first
    | (extract_lets +onlyGivenNames x; first
      | (refine (have hx : Keeps s₀ x := ?_; ?_); (on_goal 2 => (clear_value x; rename' x => y)); subst x)
      | (refine (have hx : Keeps s₀ x.1 := ?_; ?_); (on_goal 2 => (clear_value x; rename' x => y)); subst x)
      | (clear_value x; rename' x => y))
    | with_reducible first
      | assumption | apply Keeps.ite | apply State.pb_keeps | apply State.writeFields_keeps
      | apply State.setIctx_keeps | apply State.ctxStart_keeps | apply State.ctxStop_keeps
    | with_reducible refine Keeps.fields ?_ ?_ ?_ ?_
    | exact Or.inl rfl
    | rfl

theorem statsWrite_keeps {s₀ s : State} (h : Keeps s₀ s) (m j c : Nat) (v : Word) :
    Keeps s₀ (statsWrite m j c v s) := by
  unfold statsWrite
  repeat first
    | (extract_lets +onlyGivenNames x; first
      | (refine (have hx : Keeps s₀ x := ?_; ?_); (on_goal 2 => (clear_value x; rename' x => y)); subst x)
      | (refine (have hx : Keeps s₀ x.1 := ?_; ?_); (on_goal 2 => (clear_value x; rename' x => y)); subst x)
      | (clear_value x; rename' x => y))
    | with_reducible first
      | assumption | apply Keeps.ite | apply State.errLog_keeps | apply State.writeFields_keeps

theorem capCtrlWrite_keeps {s₀ s : State} (h : Keeps s₀ s) (m p : Nat) (v : Word) :
    Keeps s₀ (capCtrlWrite m p v s) := by
  unfold capCtrlWrite
  repeat first
    | (extract_lets +onlyGivenNames x; first
      | (refine (have hx : Keeps s₀ x := ?_; ?_); (on_goal 2 => (clear_value x; rename' x => y)); subst x)
      | (refine (have hx : Keeps s₀ x.1 := ?_; ?_); (on_goal 2 => (clear_value x; rename' x => y)); subst x)
      | (clear_value x; rename' x => y))
    | with_reducible first
      | assumption | apply Keeps.ite | apply State.p_keeps | apply State.pb_keeps | apply State.errLog_keeps
      | apply State.writeFields_keeps | apply State.setCport_keeps | apply State.ctxStop_keeps
    | split
    | with_reducible refine Keeps.fields ?_ ?_ ?_ ?_
    | exact Or.inl rfl
    | rfl

theorem State.outWrite_keeps {s₀ s : State} (h : Keeps s₀ s) (m : Nat) (rows : List (Nat × List Byte)) :
    Keeps s₀ (State.outWrite s m rows).1 := by
  unfold State.outWrite
  repeat first
    | (extract_lets +onlyGivenNames x; first
      | (refine (have hx : Keeps s₀ x := ?_; ?_); (on_goal 2 => (clear_value x; rename' x => y)); subst x)
      | (refine (have hx : Keeps s₀ x.1 := ?_; ?_); (on_goal 2 => (clear_value x; rename' x => y)); subst x)
      | (clear_value x; rename' x => y))
    | with_reducible first
      | assumption | refine Keeps.fold ?_ (fun _ _ _ => ?_) _ | refine Keeps.foldPair ?_ (fun _ _ _ => ?_) _
      | apply State.dmaWrite_keeps
    | dsimp -zeta only

theorem State.statsOut_keeps {s₀ s : State} (h : Keeps s₀ s) (j c p : Nat) (f : CapFrame) (cap : Int) :
    Keeps s₀ (State.statsOut s j c p f cap).1 := by
  unfold State.statsOut
  repeat first
    | (extract_lets +onlyGivenNames x; first
      | (refine (have hx : Keeps s₀ x := ?_; ?_); (on_goal 2 => (clear_value x; rename' x => y)); subst x)
      | (refine (have hx : Keeps s₀ x.1 := ?_; ?_); (on_goal 2 => (clear_value x; rename' x => y)); subst x)
      | (clear_value x; rename' x => y))
    | with_reducible first
      | assumption | apply Keeps.ite | apply Keeps.itePair | apply State.p_keeps | apply State.dmaWrite_keeps
    | dsimp -zeta only

theorem State.codeClose_keeps {s₀ s : State} (h : Keeps s₀ s) (p j c flags : Nat) (f : CapFrame) :
    Keeps s₀ (State.codeClose s p j c flags f) := by
  unfold State.codeClose
  repeat first
    | with_reducible first
      | assumption | apply State.p_keeps | apply State.closeBuf_keeps | apply State.setIctx_keeps
    | split
    | with_reducible refine Keeps.fields ?_ ?_ ?_ ?_
    | exact Or.inl rfl
    | rfl

theorem State.mvClose_keeps {s₀ s : State} (h : Keeps s₀ s) (p j c flags : Nat) (f : CapFrame) :
    Keeps s₀ (State.mvClose s p j c flags f) := by
  unfold State.mvClose
  repeat first
    | with_reducible first
      | assumption | apply State.p_keeps | apply State.closeBuf_keeps | apply State.setIctx_keeps
    | split
    | with_reducible refine Keeps.fields ?_ ?_ ?_ ?_
    | exact Or.inl rfl
    | rfl

theorem State.capClose_keeps {s₀ s : State} (h : Keeps s₀ s) (p j c flags : Nat) :
    Keeps s₀ (State.capClose s p j c flags) := by
  unfold State.capClose
  repeat first
    | (extract_lets +onlyGivenNames x; first
      | (refine (have hx : Keeps s₀ x := ?_; ?_); (on_goal 2 => (clear_value x; rename' x => y)); subst x)
      | (refine (have hx : Keeps s₀ x.1 := ?_; ?_); (on_goal 2 => (clear_value x; rename' x => y)); subst x)
      | (clear_value x; rename' x => y))
    | with_reducible first
      | assumption | apply Keeps.ite | apply Keeps.itePair | apply State.p_keeps | apply State.pb_keeps
      | apply State.inc_keeps | apply State.incBy_keeps | apply State.store_keeps | apply State.raise_keeps
      | apply State.closeBuf_keeps | apply State.filled_keeps | apply State.setCport_keeps
      | apply State.setIctx_keeps | apply State.storeLevel_keeps | apply State.outWrite_keeps
      | apply State.statsOut_keeps | apply State.codeClose_keeps | apply State.mvClose_keeps
    | dsimp -zeta only
    | split
    | with_reducible refine Keeps.fields ?_ ?_ ?_ ?_
    | exact Or.inl rfl
    | rfl

theorem State.setFrame__keeps {s₀ s : State} (h : Keeps s₀ s) (p : Nat) (f : CapFrame) :
    Keeps s₀ (State.setFrame_ s p f) := by
  unfold State.setFrame_
  repeat first
    | with_reducible first
      | assumption | apply State.p_keeps | apply State.setCport_keeps
    | with_reducible refine Keeps.fields ?_ ?_ ?_ ?_
    | exact Or.inl rfl
    | rfl

theorem State.tnrError_keeps {s₀ s : State} (h : Keeps s₀ s) (p : Nat) : Keeps s₀ (State.tnrError s p) := by
  unfold State.tnrError
  repeat first
    | with_reducible first
      | assumption | apply State.p_keeps | apply State.inc_keeps | apply State.setFrame__keeps
    | split
    | with_reducible refine Keeps.fields ?_ ?_ ?_ ?_
    | exact Or.inl rfl
    | rfl

theorem State.tnrPass_keeps {s₀ s : State} (h : Keeps s₀ s) (j c p y k : Nat) (f : CapFrame) (vs : List Nat) :
    Keeps s₀ (State.tnrPass s j c p y k f vs).1 := by
  unfold State.tnrPass
  repeat first
    | (extract_lets +onlyGivenNames x; first
      | (refine (have hx : Keeps s₀ x := ?_; ?_); (on_goal 2 => (clear_value x; rename' x => y)); subst x)
      | (refine (have hx : Keeps s₀ x.1 := ?_; ?_); (on_goal 2 => (clear_value x; rename' x => y)); subst x)
      | (clear_value x; rename' x => y))
    | with_reducible first
      | assumption | apply Keeps.ite | apply Keeps.itePair | apply State.p_keeps | apply State.dmaWrite_keeps
      | apply State.dmaRead_keeps | apply State.tnrError_keeps
    | dsimp -zeta only

theorem State.rowCost_keeps {s₀ s : State} (h : Keeps s₀ s) (j p : Nat) : Keeps s₀ (State.rowCost s j p) := by
  unfold State.rowCost
  repeat first
    | (extract_lets +onlyGivenNames x; first
      | (refine (have hx : Keeps s₀ x := ?_; ?_); (on_goal 2 => (clear_value x; rename' x => y)); subst x)
      | (refine (have hx : Keeps s₀ x.1 := ?_; ?_); (on_goal 2 => (clear_value x; rename' x => y)); subst x)
      | (clear_value x; rename' x => y))
    | with_reducible first
      | assumption | apply State.p_keeps | apply State.inc_keeps | apply State.setIpipe_keeps
    | with_reducible refine Keeps.fields ?_ ?_ ?_ ?_
    | exact Or.inl rfl
    | rfl

theorem State.rowEmit_keeps {s₀ s : State} (h : Keeps s₀ s) (j c p : Nat) (force : Bool) :
    Keeps s₀ (State.rowEmit s j c p force).1 := by
  unfold State.rowEmit
  repeat first
    | (extract_lets +onlyGivenNames x; first
      | (refine (have hx : Keeps s₀ x := ?_; ?_); (on_goal 2 => (clear_value x; rename' x => y)); subst x)
      | (refine (have hx : Keeps s₀ x.1 := ?_; ?_); (on_goal 2 => (clear_value x; rename' x => y)); subst x)
      | (clear_value x; rename' x => y))
    | with_reducible first
      | assumption | apply Keeps.ite | apply Keeps.itePair | apply State.p_keeps | apply State.inc_keeps
      | apply State.writePixels_keeps | apply State.busTraffic_keeps | apply State.setFrame__keeps
      | apply State.tnrPass_keeps | apply State.rowCost_keeps
    | dsimp -zeta only
    | split
    | with_reducible refine Keeps.fields ?_ ?_ ?_ ?_
    | exact Or.inl rfl
    | rfl

theorem State.rowsEmit_keeps {s₀ s : State} (h : Keeps s₀ s) (j c p : Nat) (force : Bool) (fuel : Nat) :
    Keeps s₀ (State.rowsEmit s j c p force fuel).1 := by
  induction fuel generalizing s with
  | zero => unfold State.rowsEmit; exact h
  | succ k ih =>
    unfold State.rowsEmit
    have hr := State.rowEmit_keeps h j c p force
    split
    · exact h
    · exact Keeps.itePair (Keeps.itePair (ih hr) hr) h

theorem State.rowOut_keeps {s₀ s : State} (h : Keeps s₀ s) (j c p : Nat) (r : CapRow) :
    Keeps s₀ (State.rowOut s j c p r).1 := by
  unfold State.rowOut
  repeat first
    | with_reducible first
      | assumption | apply State.p_keeps | apply State.setFrame__keeps | apply State.rowsEmit_keeps
    | dsimp -zeta only
    | split
    | with_reducible refine Keeps.fields ?_ ?_ ?_ ?_
    | exact Or.inl rfl
    | rfl

theorem State.rowsOut_keeps {s₀ s : State} (h : Keeps s₀ s) (j c p : Nat) (l : List CapRow) :
    Keeps s₀ (State.rowsOut s j c p l).1 := by
  induction l generalizing s with
  | nil => unfold State.rowsOut; exact h
  | cons r rs ih =>
    unfold State.rowsOut
    have hr := State.rowOut_keeps h j c p r
    dsimp only
    split
    · exact ih hr
    · exact hr

theorem State.rowsFill_keeps {s₀ s : State} (h : Keeps s₀ s) (j c p : Nat) (error : Bool) :
    Keeps s₀ (State.rowsFill s j c p error) := by
  unfold State.rowsFill
  repeat first
    | (extract_lets +onlyGivenNames x; first
      | (refine (have hx : Keeps s₀ x := ?_; ?_); (on_goal 2 => (clear_value x; rename' x => y)); subst x)
      | (refine (have hx : Keeps s₀ x.1 := ?_; ?_); (on_goal 2 => (clear_value x; rename' x => y)); subst x)
      | (clear_value x; rename' x => y))
    | with_reducible first
      | assumption | apply Keeps.ite | apply Keeps.itePair | apply State.p_keeps | apply State.setFrame__keeps
      | apply State.rowsEmit_keeps
    | dsimp -zeta only
    | split
    | with_reducible refine Keeps.fields ?_ ?_ ?_ ?_
    | exact Or.inl rfl
    | rfl

theorem State.capShort_keeps {s₀ s : State} (h : Keeps s₀ s) (p j c : Nat) : Keeps s₀ (State.capShort s p j c) := by
  unfold State.capShort
  repeat first
    | (extract_lets +onlyGivenNames x; first
      | (refine (have hx : Keeps s₀ x := ?_; ?_); (on_goal 2 => (clear_value x; rename' x => y)); subst x)
      | (refine (have hx : Keeps s₀ x.1 := ?_; ?_); (on_goal 2 => (clear_value x; rename' x => y)); subst x)
      | (clear_value x; rename' x => y))
    | with_reducible first
      | assumption | apply Keeps.ite | apply Keeps.itePair | apply State.p_keeps | apply State.inc_keeps
      | apply State.store_keeps | apply State.raise_keeps | apply State.capClose_keeps | apply State.rowsOut_keeps
      | apply State.rowsFill_keeps
    | dsimp -zeta only

theorem State.capWriteError_keeps {s₀ s : State} (h : Keeps s₀ s) (p j c flags : Nat) :
    Keeps s₀ (State.capWriteError s p j c flags) := by
  unfold State.capWriteError
  repeat first
    | (extract_lets +onlyGivenNames x; first
      | (refine (have hx : Keeps s₀ x := ?_; ?_); (on_goal 2 => (clear_value x; rename' x => y)); subst x)
      | (refine (have hx : Keeps s₀ x.1 := ?_; ?_); (on_goal 2 => (clear_value x; rename' x => y)); subst x)
      | (clear_value x; rename' x => y))
    | with_reducible first
      | assumption | apply State.p_keeps | apply State.inc_keeps | apply State.raise_keeps
      | apply State.setCport_keeps | apply State.capClose_keeps | apply State.rowsFill_keeps
    | with_reducible refine Keeps.fields ?_ ?_ ?_ ?_
    | exact Or.inl rfl
    | rfl

theorem State.capFinish_keeps {s₀ s : State} (h : Keeps s₀ s) (p j c flags : Nat) :
    Keeps s₀ (State.capFinish s p j c flags) := by
  unfold State.capFinish
  repeat first
    | (extract_lets +onlyGivenNames x; first
      | (refine (have hx : Keeps s₀ x := ?_; ?_); (on_goal 2 => (clear_value x; rename' x => y)); subst x)
      | (refine (have hx : Keeps s₀ x.1 := ?_; ?_); (on_goal 2 => (clear_value x; rename' x => y)); subst x)
      | (clear_value x; rename' x => y))
    | with_reducible first
      | assumption | apply Keeps.ite | apply Keeps.itePair | apply State.p_keeps | apply State.store_keeps
      | apply State.capClose_keeps | apply State.rowsOut_keeps | apply State.capWriteError_keeps
    | dsimp -zeta only

theorem capStart_keeps {s₀ s : State} (h : Keeps s₀ s) (p : Nat) (xy : List Nat) (level : Bool) :
    Keeps s₀ (capStart p xy level s) := by
  unfold capStart
  repeat first
    | (extract_lets +onlyGivenNames x; first
      | (refine (have hx : Keeps s₀ x := ?_; ?_); (on_goal 2 => (clear_value x; rename' x => y)); subst x)
      | (refine (have hx : Keeps s₀ x.1 := ?_; ?_); (on_goal 2 => (clear_value x; rename' x => y)); subst x)
      | (clear_value x; rename' x => y))
    | with_reducible first
      | assumption | apply Keeps.ite | apply State.p_keeps | apply State.pb_keeps | apply State.inc_keeps
      | apply State.store_keeps | apply State.raise_keeps | apply State.stamp_keeps | apply State.setCport_keeps
      | apply State.setIctx_keeps | apply State.xyAll_keeps | apply State.applyShadow_keeps
      | apply State.capShort_keeps | apply State.capFinish_keeps
    | split
    | with_reducible refine Keeps.fields ?_ ?_ ?_ ?_
    | exact Or.inl rfl
    | rfl

theorem State.pclkSeen_keeps {s₀ s : State} (h : Keeps s₀ s) (p : Nat) : Keeps s₀ (State.pclkSeen s p) := by
  unfold State.pclkSeen
  repeat first
    | with_reducible first
      | assumption | apply Keeps.ite | apply State.p_keeps | apply State.setCport_keeps
    | with_reducible refine Keeps.fields ?_ ?_ ?_ ?_
    | exact Or.inl rfl
    | rfl

theorem State.capClaim_keeps {s₀ s : State} (h : Keeps s₀ s) (p j c : Nat) (wall : Int) (count : Nat) :
    Keeps s₀ (State.capClaim s p j c wall count).1 := by
  unfold State.capClaim
  extract_lets i s1 field other
  have h1 : Keeps s₀ s1 := State.inc_keeps h _
  clear_value s1
  split
  · exact State.inc_keeps h1 _
  · next d _ =>
    extract_lets s2 a b
    have h2 : Keeps s₀ s2 := State.claim_keeps h1 _ _ _
    have ho : ∀ t on ring pos, Keeps s₀ t → Keeps s₀ (other t on ring pos).1 := by
      intro t on ring pos ht
      show Keeps s₀ (if on then _ else _ : State × Option Nat).1
      apply Keeps.itePair
      · split
        · exact State.claim_keeps ht _ _ _
        · exact State.inc_keeps ht _
      · exact ht
    exact ho _ _ _ _ (ho _ _ _ _ h2)

theorem State.rowStore_keeps {s₀ s : State} (h : Keeps s₀ s) (p j c : Nat) (r : CapRow) :
    Keeps s₀ (State.rowStore s p j c r) := by
  unfold State.rowStore
  repeat first
    | (extract_lets +onlyGivenNames x; first
      | (refine (have hx : Keeps s₀ x := ?_; ?_); (on_goal 2 => (clear_value x; rename' x => y)); subst x)
      | (refine (have hx : Keeps s₀ x.1 := ?_; ?_); (on_goal 2 => (clear_value x; rename' x => y)); subst x)
      | (clear_value x; rename' x => y))
    | with_reducible first
      | assumption | apply Keeps.ite | apply State.p_keeps | apply State.store_keeps | apply State.raise_keeps
      | apply State.setCport_keeps | apply State.setIctx_keeps | apply State.storeLevel_keeps
      | apply State.frameDrop_keeps
    | with_reducible refine Keeps.fields ?_ ?_ ?_ ?_
    | exact Or.inl rfl
    | rfl

theorem State.rowBeyond_keeps {s₀ s : State} (h : Keeps s₀ s) (p j c : Nat) :
    Keeps s₀ (State.rowBeyond s p j c) := by
  unfold State.rowBeyond
  repeat first
    | (extract_lets +onlyGivenNames x; first
      | (refine (have hx : Keeps s₀ x := ?_; ?_); (on_goal 2 => (clear_value x; rename' x => y)); subst x)
      | (refine (have hx : Keeps s₀ x.1 := ?_; ?_); (on_goal 2 => (clear_value x; rename' x => y)); subst x)
      | (clear_value x; rename' x => y))
    | with_reducible first
      | assumption | apply Keeps.ite | apply State.p_keeps | apply State.inc_keeps | apply State.raise_keeps
      | apply State.setCport_keeps | apply State.capFinish_keeps
    | with_reducible refine Keeps.fields ?_ ?_ ?_ ?_
    | exact Or.inl rfl
    | rfl

theorem State.rowOfLine_keeps {s₀ s : State} (h : Keeps s₀ s) (p : Nat) (level : Bool) (ys cs : List Nat) :
    Keeps s₀ (State.rowOfLine s p level ys cs).1 := by
  unfold State.rowOfLine
  repeat first
    | (extract_lets +onlyGivenNames x; first
      | (refine (have hx : Keeps s₀ x := ?_; ?_); (on_goal 2 => (clear_value x; rename' x => y)); subst x)
      | (refine (have hx : Keeps s₀ x.1 := ?_; ?_); (on_goal 2 => (clear_value x; rename' x => y)); subst x)
      | (clear_value x; rename' x => y))
    | with_reducible first
      | assumption | apply Keeps.ite | apply Keeps.itePair | apply State.p_keeps | apply State.setCport_keeps
    | dsimp -zeta only
    | with_reducible refine Keeps.fields ?_ ?_ ?_ ?_
    | exact Or.inl rfl
    | rfl

theorem State.rowTake_keeps {s₀ s : State} (h : Keeps s₀ s) (p : Nat) (ys cs : List Nat) :
    Keeps s₀ (State.rowTake s p ys cs) := by
  unfold State.rowTake
  repeat first
    | (extract_lets +onlyGivenNames x; first
      | (refine (have hx : Keeps s₀ x := ?_; ?_); (on_goal 2 => (clear_value x; rename' x => y)); subst x)
      | (refine (have hx : Keeps s₀ x.1 := ?_; ?_); (on_goal 2 => (clear_value x; rename' x => y)); subst x)
      | (clear_value x; rename' x => y))
    | with_reducible first
      | assumption | apply Keeps.ite | apply Keeps.itePair | apply State.p_keeps | apply State.inc_keeps
      | apply State.setCport_keeps | apply State.setIctx_keeps | apply State.capClaim_keeps
      | apply State.rowStore_keeps | apply State.rowBeyond_keeps
    | dsimp -zeta only
    | split
    | with_reducible refine Keeps.fields ?_ ?_ ?_ ?_
    | exact Or.inl rfl
    | rfl

theorem capRow_keeps {s₀ s : State} (h : Keeps s₀ s) (p : Nat) (xy : List Nat) (level : Bool) (ys cs : List Nat) :
    Keeps s₀ (capRow p xy level ys cs s) := by
  unfold capRow
  repeat first
    | (extract_lets +onlyGivenNames x; first
      | (refine (have hx : Keeps s₀ x := ?_; ?_); (on_goal 2 => (clear_value x; rename' x => y)); subst x)
      | (refine (have hx : Keeps s₀ x.1 := ?_; ?_); (on_goal 2 => (clear_value x; rename' x => y)); subst x)
      | (clear_value x; rename' x => y))
    | with_reducible first
      | assumption | apply Keeps.ite | apply Keeps.itePair | apply State.p_keeps | apply State.xyAll_keeps
      | apply State.rowOfLine_keeps | apply State.rowTake_keeps
    | dsimp -zeta only
    | split
    | with_reducible refine Keeps.fields ?_ ?_ ?_ ?_
    | exact Or.inl rfl
    | rfl

theorem ispRow_keeps {s₀ s : State} (h : Keeps s₀ s) (j : Nat) : Keeps s₀ (ispRow j s) := by
  unfold ispRow
  repeat first
    | (extract_lets +onlyGivenNames x; first
      | (refine (have hx : Keeps s₀ x := ?_; ?_); (on_goal 2 => (clear_value x; rename' x => y)); subst x)
      | (refine (have hx : Keeps s₀ x.1 := ?_; ?_); (on_goal 2 => (clear_value x; rename' x => y)); subst x)
      | (clear_value x; rename' x => y))
    | with_reducible first
      | assumption | apply Keeps.ite | apply Keeps.itePair | apply State.p_keeps | apply State.store_keeps
      | apply State.setCport_keeps | apply State.storeLevel_keeps | apply State.setIpipe_keeps
      | apply State.rowOut_keeps | apply State.capWriteError_keeps
    | dsimp -zeta only
    | split
    | with_reducible refine Keeps.fields ?_ ?_ ?_ ?_
    | exact Or.inl rfl
    | rfl

theorem capTimeout_keeps {s₀ s : State} (h : Keeps s₀ s) (p : Nat) : Keeps s₀ (capTimeout p s) := by
  unfold capTimeout
  repeat first
    | (extract_lets +onlyGivenNames x; first
      | (refine (have hx : Keeps s₀ x := ?_; ?_); (on_goal 2 => (clear_value x; rename' x => y)); subst x)
      | (refine (have hx : Keeps s₀ x.1 := ?_; ?_); (on_goal 2 => (clear_value x; rename' x => y)); subst x)
      | (clear_value x; rename' x => y))
    | with_reducible first
      | assumption | apply Keeps.ite | apply State.p_keeps | apply State.capShort_keeps
    | split
    | with_reducible refine Keeps.fields ?_ ?_ ?_ ?_
    | exact Or.inl rfl
    | rfl

theorem capEnd_keeps {s₀ s : State} (h : Keeps s₀ s) (p : Nat) : Keeps s₀ (capEnd p s) := by
  unfold capEnd
  repeat first
    | with_reducible first
      | assumption | apply Keeps.ite | apply State.p_keeps | apply State.capClose_keeps
    | split
    | with_reducible refine Keeps.fields ?_ ?_ ?_ ?_
    | exact Or.inl rfl
    | rfl

theorem capBusError_keeps {s₀ s : State} (h : Keeps s₀ s) (p : Nat) (write : Bool) :
    Keeps s₀ (capBusError p write s) := by
  unfold capBusError
  repeat first
    | with_reducible first
      | assumption | apply Keeps.ite | apply State.p_keeps | apply State.tnrError_keeps
      | apply State.capWriteError_keeps
    | split
    | with_reducible refine Keeps.fields ?_ ?_ ?_ ?_
    | exact Or.inl rfl
    | rfl

theorem capLost_keeps {s₀ s : State} (h : Keeps s₀ s) (i : Nat) : Keeps s₀ (capLost i s) := by
  unfold capLost
  repeat first
    | (extract_lets +onlyGivenNames x; first
      | (refine (have hx : Keeps s₀ x := ?_; ?_); (on_goal 2 => (clear_value x; rename' x => y)); subst x)
      | (refine (have hx : Keeps s₀ x.1 := ?_; ?_); (on_goal 2 => (clear_value x; rename' x => y)); subst x)
      | (clear_value x; rename' x => y))
    | with_reducible first
      | assumption | apply Keeps.ite | apply State.p_keeps | apply State.raise_keeps
    | split
    | with_reducible refine Keeps.fields ?_ ?_ ?_ ?_
    | exact Or.inl rfl
    | rfl

theorem capPeakClear_keeps {s₀ s : State} (h : Keeps s₀ s) (p : Nat) (v : Word) :
    Keeps s₀ (capPeakClear p v s) := by
  unfold capPeakClear
  repeat first
    | with_reducible first
      | assumption | apply Keeps.ite | apply State.p_keeps

theorem State.capEntryStop_keeps {s₀ s : State} (h : Keeps s₀ s) (i : Nat) : Keeps s₀ (State.capEntryStop s i) := by
  unfold State.capEntryStop
  repeat first
    | with_reducible first
      | assumption | apply Keeps.ite | refine Keeps.fold ?_ (fun _ _ _ => ?_) _ | apply State.ctxStop_keeps

end Sys2Proof.Machine
end

