-- ==== Sys2Proof/Laws/KeepSources.lean ====
section
/-! SUPPORT. What the operations of Machine/Sources.lean keep. -/

set_option linter.all false

namespace Sys2Proof.Machine

theorem State.entryStop_keeps {s₀ s : State} (h : Keeps s₀ s) (i : Nat) : Keeps s₀ (State.entryStop s i) := by
  unfold State.entryStop
  repeat first
    | (extract_lets +onlyGivenNames x; first
      | (refine (have hx : Keeps s₀ x := ?_; ?_); (on_goal 2 => (clear_value x; rename' x => y)); subst x)
      | (refine (have hx : Keeps s₀ x.1 := ?_; ?_); (on_goal 2 => (clear_value x; rename' x => y)); subst x)
      | (clear_value x; rename' x => y))
    | with_reducible first
      | assumption | apply Keeps.ite | apply State.srcStop_keeps | apply State.decStop_keeps
      | apply State.capEntryStop_keeps

theorem srcCtrlWrite_keeps {s₀ s : State} (h : Keeps s₀ s) (m i : Nat) (v : Word) :
    Keeps s₀ (srcCtrlWrite m i v s) := by
  unfold srcCtrlWrite
  repeat first
    | (extract_lets +onlyGivenNames x; first
      | (refine (have hx : Keeps s₀ x := ?_; ?_); (on_goal 2 => (clear_value x; rename' x => y)); subst x)
      | (refine (have hx : Keeps s₀ x.1 := ?_; ?_); (on_goal 2 => (clear_value x; rename' x => y)); subst x)
      | (clear_value x; rename' x => y))
    | with_reducible first
      | assumption | apply Keeps.ite | apply State.p_keeps | apply State.logIgnored_keeps
      | apply State.writeFields_keeps | apply State.srcStart_keeps | apply State.decClear_keeps
      | apply State.decStart_keeps | apply State.entryStop_keeps

end Sys2Proof.Machine
end

