-- ==== Sys2Proof/Laws/KeepCoding.lean ====
section
/-! SUPPORT. What the operations of Machine/Coding.lean keep. -/

set_option linter.all false

namespace Sys2Proof.Machine

theorem State.setEstr_keeps {s₀ s : State} (h : Keeps s₀ s) (i : Nat) (x : EncStr) :
    Keeps s₀ (State.setEstr s i x) := by
  unfold State.setEstr
  repeat first
    | with_reducible first
      | assumption
    | with_reducible refine Keeps.fields ?_ ?_ ?_ ?_
    | exact Or.inl rfl
    | rfl

theorem State.setEpipe_keeps {s₀ s : State} (h : Keeps s₀ s) (n : Nat) (x : EncPipe) :
    Keeps s₀ (State.setEpipe s n x) := by
  unfold State.setEpipe
  repeat first
    | with_reducible first
      | assumption
    | with_reducible refine Keeps.fields ?_ ?_ ?_ ?_
    | exact Or.inl rfl
    | rfl

theorem State.encStore_keeps {s₀ s : State} (h : Keeps s₀ s) (j : EncJob) (recon : List Nat) :
    Keeps s₀ (State.encStore s j recon) := by
  unfold State.encStore
  repeat first
    | (extract_lets +onlyGivenNames x; first
      | (refine (have hx : Keeps s₀ x := ?_; ?_); (on_goal 2 => (clear_value x; rename' x => y)); subst x)
      | (refine (have hx : Keeps s₀ x.1 := ?_; ?_); (on_goal 2 => (clear_value x; rename' x => y)); subst x)
      | (clear_value x; rename' x => y))
    | with_reducible first
      | assumption | apply Keeps.ite | apply State.store_keeps | apply State.setEstr_keeps
    | split
    | with_reducible refine Keeps.fields ?_ ?_ ?_ ?_
    | exact Or.inl rfl
    | rfl

end Sys2Proof.Machine
end

