-- ==== Sys2Proof/Laws/KeepEncode.lean ====
section
/-! SUPPORT. What the operations of Machine/Encode.lean keep. -/

set_option linter.all false

namespace Sys2Proof.Machine

theorem encTrigger_keeps {s₀ s : State} (h : Keeps s₀ s) (i : Nat) : Keeps s₀ (encTrigger i s) := by
  unfold encTrigger
  repeat first
    | (extract_lets +onlyGivenNames x; first
      | (refine (have hx : Keeps s₀ x := ?_; ?_); (on_goal 2 => (clear_value x; rename' x => y)); subst x)
      | (refine (have hx : Keeps s₀ x.1 := ?_; ?_); (on_goal 2 => (clear_value x; rename' x => y)); subst x)
      | (clear_value x; rename' x => y))
    | with_reducible first
      | assumption | apply Keeps.ite | apply State.p_keeps | apply State.inc_keeps | apply State.setEstr_keeps
    | split
    | with_reducible refine Keeps.fields ?_ ?_ ?_ ?_
    | exact Or.inl rfl
    | rfl

theorem State.encStart_keeps {s₀ s : State} (h : Keeps s₀ s) (n i from_ : Nat) :
    Keeps s₀ (State.encStart s n i from_) := by
  unfold State.encStart
  repeat first
    | (extract_lets +onlyGivenNames x; first
      | (refine (have hx : Keeps s₀ x := ?_; ?_); (on_goal 2 => (clear_value x; rename' x => y)); subst x)
      | (refine (have hx : Keeps s₀ x.1 := ?_; ?_); (on_goal 2 => (clear_value x; rename' x => y)); subst x)
      | (clear_value x; rename' x => y))
    | with_reducible first
      | assumption | apply State.p_keeps | apply State.drawn_keeps | apply State.store_keeps
      | apply State.setEstr_keeps | apply State.setEpipe_keeps
    | split
    | with_reducible refine Keeps.fields ?_ ?_ ?_ ?_
    | exact Or.inl rfl
    | rfl

theorem State.encResume_keeps {s₀ s : State} (h : Keeps s₀ s) (n : Nat) : Keeps s₀ (State.encResume s n) := by
  unfold State.encResume
  repeat first
    | (extract_lets +onlyGivenNames x; first
      | (refine (have hx : Keeps s₀ x := ?_; ?_); (on_goal 2 => (clear_value x; rename' x => y)); subst x)
      | (refine (have hx : Keeps s₀ x.1 := ?_; ?_); (on_goal 2 => (clear_value x; rename' x => y)); subst x)
      | (clear_value x; rename' x => y))
    | with_reducible first
      | assumption | apply Keeps.ite | apply State.p_keeps | apply State.drawn_keeps | apply State.store_keeps
      | apply State.setEpipe_keeps
    | split
    | with_reducible refine Keeps.fields ?_ ?_ ?_ ?_
    | exact Or.inl rfl
    | rfl

theorem encDispatch_keeps {s₀ s : State} (h : Keeps s₀ s) (n : Nat) : Keeps s₀ (encDispatch n s) := by
  unfold encDispatch
  repeat first
    | with_reducible first
      | assumption | apply Keeps.ite | apply State.encStart_keeps | apply State.encResume_keeps
    | split
    | with_reducible refine Keeps.fields ?_ ?_ ?_ ?_
    | exact Or.inl rfl
    | rfl

theorem State.encGone_keeps {s₀ s : State} (h : Keeps s₀ s) (n : Nat) : Keeps s₀ (State.encGone s n) := by
  unfold State.encGone
  repeat first
    | with_reducible first
      | assumption | apply State.codecEnds_keeps | apply State.setEpipe_keeps
    | with_reducible refine Keeps.fields ?_ ?_ ?_ ?_
    | exact Or.inl rfl
    | rfl

theorem State.encSave_keeps {s₀ s : State} (h : Keeps s₀ s) (n : Nat) (j : EncJob) :
    Keeps s₀ (State.encSave s n j) := by
  unfold State.encSave
  repeat first
    | (extract_lets +onlyGivenNames x; first
      | (refine (have hx : Keeps s₀ x := ?_; ?_); (on_goal 2 => (clear_value x; rename' x => y)); subst x)
      | (refine (have hx : Keeps s₀ x.1 := ?_; ?_); (on_goal 2 => (clear_value x; rename' x => y)); subst x)
      | (clear_value x; rename' x => y))
    | with_reducible first
      | assumption | apply Keeps.ite | apply State.p_keeps | apply State.inc_keeps | apply State.drawn_keeps
      | apply State.storeFree_keeps | apply State.codecEnds_keeps | apply State.setEpipe_keeps
    | with_reducible refine Keeps.fields ?_ ?_ ?_ ?_
    | exact Or.inl rfl
    | rfl

theorem encPreempt_keeps {s₀ s : State} (h : Keeps s₀ s) (n : Nat) : Keeps s₀ (encPreempt n s) := by
  unfold encPreempt
  repeat first
    | (extract_lets +onlyGivenNames x; first
      | (refine (have hx : Keeps s₀ x := ?_; ?_); (on_goal 2 => (clear_value x; rename' x => y)); subst x)
      | (refine (have hx : Keeps s₀ x.1 := ?_; ?_); (on_goal 2 => (clear_value x; rename' x => y)); subst x)
      | (clear_value x; rename' x => y))
    | with_reducible first
      | assumption | apply Keeps.ite | apply State.encStart_keeps | apply State.encGone_keeps
      | apply State.encSave_keeps
    | split
    | with_reducible refine Keeps.fields ?_ ?_ ?_ ?_
    | exact Or.inl rfl
    | rfl

theorem State.rtpSend_keeps {s₀ s : State} (h : Keeps s₀ s) (i ts : Nat) (first : Bool) (l : List (List Byte)) :
    Keeps s₀ (State.rtpSend s i ts first l) := by
  induction l generalizing s first with
  | nil => unfold State.rtpSend; exact h
  | cons r rs ih =>
    unfold State.rtpSend
    repeat first
      | (extract_lets +onlyGivenNames x; first
        | (refine (have hx : Keeps s₀ x := ?_; ?_); (on_goal 2 => (clear_value x; rename' x => y)); subst x)
        | (refine (have hx : Keeps s₀ x.1 := ?_; ?_); (on_goal 2 => (clear_value x; rename' x => y)); subst x)
        | (clear_value x; rename' x => y))
      | with_reducible first
        | assumption | apply Keeps.ite | apply ih | apply frameTransmit_keeps | apply frameAlso_keeps
        | apply State.setEstr_keeps
      | with_reducible refine Keeps.fields ?_ ?_ ?_ ?_
      | exact Or.inl rfl
      | rfl

theorem State.auSend_keeps {s₀ s : State} (h : Keeps s₀ s) (i : Nat) (hevc : Bool) (cap : Int) (nals : List (List Byte)) :
    Keeps s₀ (State.auSend s i hevc cap nals) := by
  unfold State.auSend
  repeat first
    | with_reducible first
      | assumption | apply Keeps.ite | apply State.inc_keeps | apply State.rtpSend_keeps

theorem senderReportOut_keeps {s₀ s : State} (h : Keeps s₀ s) (i : Nat) : Keeps s₀ (senderReportOut i s) := by
  unfold senderReportOut
  repeat first
    | (extract_lets +onlyGivenNames x; first
      | (refine (have hx : Keeps s₀ x := ?_; ?_); (on_goal 2 => (clear_value x; rename' x => y)); subst x)
      | (refine (have hx : Keeps s₀ x.1 := ?_; ?_); (on_goal 2 => (clear_value x; rename' x => y)); subst x)
      | (clear_value x; rename' x => y))
    | with_reducible first
      | assumption | apply Keeps.ite | apply frameTransmit_keeps | apply State.setEstr_keeps
    | with_reducible refine Keeps.fields ?_ ?_ ?_ ?_
    | exact Or.inl rfl
    | rfl

theorem State.encRecord_keeps {s₀ s : State} (h : Keeps s₀ s) (n : Nat) (j : EncJob) (nals : List (List Byte)) :
    Keeps s₀ (State.encRecord s n j nals).1 := by
  unfold State.encRecord
  repeat first
    | (extract_lets +onlyGivenNames x; first
      | (refine (have hx : Keeps s₀ x := ?_; ?_); (on_goal 2 => (clear_value x; rename' x => y)); subst x)
      | (refine (have hx : Keeps s₀ x.1 := ?_; ?_); (on_goal 2 => (clear_value x; rename' x => y)); subst x)
      | (clear_value x; rename' x => y))
    | with_reducible first
      | assumption | apply Keeps.ite | apply Keeps.itePair | apply State.p_keeps | apply State.inc_keeps
      | apply State.raise_keeps | apply State.dmaWrite_keeps | apply State.setEstr_keeps
    | dsimp -zeta only
    | split
    | with_reducible refine Keeps.fields ?_ ?_ ?_ ?_
    | exact Or.inl rfl
    | rfl

theorem State.encLeave_keeps {s₀ s : State} (h : Keeps s₀ s) (n i : Nat) : Keeps s₀ (State.encLeave s n i) := by
  unfold State.encLeave
  repeat first
    | (extract_lets +onlyGivenNames x; first
      | (refine (have hx : Keeps s₀ x := ?_; ?_); (on_goal 2 => (clear_value x; rename' x => y)); subst x)
      | (refine (have hx : Keeps s₀ x.1 := ?_; ?_); (on_goal 2 => (clear_value x; rename' x => y)); subst x)
      | (clear_value x; rename' x => y))
    | with_reducible first
      | assumption | apply State.inc_keeps | apply State.codecEnds_keeps | apply State.busTraffic_keeps
      | apply State.setEpipe_keeps
    | with_reducible refine Keeps.fields ?_ ?_ ?_ ?_
    | exact Or.inl rfl
    | rfl

theorem State.encCount_keeps {s₀ s : State} (h : Keeps s₀ s) (j : EncJob) (bits : Nat) (tail changed : Bool) :
    Keeps s₀ (State.encCount s j bits tail changed) := by
  unfold State.encCount
  repeat first
    | (extract_lets +onlyGivenNames x; first
      | (refine (have hx : Keeps s₀ x := ?_; ?_); (on_goal 2 => (clear_value x; rename' x => y)); subst x)
      | (refine (have hx : Keeps s₀ x.1 := ?_; ?_); (on_goal 2 => (clear_value x; rename' x => y)); subst x)
      | (clear_value x; rename' x => y))
    | with_reducible first
      | assumption | apply Keeps.ite | apply State.p_keeps | apply State.inc_keeps | apply State.raise_keeps
      | apply State.setEstr_keeps
    | with_reducible refine Keeps.fields ?_ ?_ ?_ ?_
    | exact Or.inl rfl
    | rfl

theorem State.encAbandon_keeps {s₀ s : State} (h : Keeps s₀ s) (n : Nat) : Keeps s₀ (State.encAbandon s n) := by
  unfold State.encAbandon
  repeat first
    | (extract_lets +onlyGivenNames x; first
      | (refine (have hx : Keeps s₀ x := ?_; ?_); (on_goal 2 => (clear_value x; rename' x => y)); subst x)
      | (refine (have hx : Keeps s₀ x.1 := ?_; ?_); (on_goal 2 => (clear_value x; rename' x => y)); subst x)
      | (clear_value x; rename' x => y))
    | with_reducible first
      | assumption | apply Keeps.ite | apply State.inc_keeps | apply State.drawn_keeps | apply State.raise_keeps
      | apply State.masterReset_keeps | apply State.setEstr_keeps | apply State.setEpipe_keeps
      | apply State.encGone_keeps | apply State.encLeave_keeps
    | split
    | with_reducible refine Keeps.fields ?_ ?_ ?_ ?_
    | exact Or.inl rfl
    | rfl

theorem State.encAbort_keeps {s₀ s : State} (h : Keeps s₀ s) (n cause addr : Nat) :
    Keeps s₀ (State.encAbort s n cause addr) := by
  unfold State.encAbort
  repeat first
    | (extract_lets +onlyGivenNames x; first
      | (refine (have hx : Keeps s₀ x := ?_; ?_); (on_goal 2 => (clear_value x; rename' x => y)); subst x)
      | (refine (have hx : Keeps s₀ x.1 := ?_; ?_); (on_goal 2 => (clear_value x; rename' x => y)); subst x)
      | (clear_value x; rename' x => y))
    | with_reducible first
      | assumption | apply Keeps.ite | apply State.pb_keeps | apply State.encAbandon_keeps
    | split
    | with_reducible refine Keeps.fields ?_ ?_ ?_ ?_
    | exact Or.inl rfl
    | rfl

theorem State.encComplete_keeps {s₀ s : State} (h : Keeps s₀ s) (n : Nat) (j : EncJob) (e : EncEnd) (au : List (List Byte)) (tail changed : Bool) :
    Keeps s₀ (State.encComplete s n j e au tail changed) := by
  unfold State.encComplete
  repeat first
    | (extract_lets +onlyGivenNames x; first
      | (refine (have hx : Keeps s₀ x := ?_; ?_); (on_goal 2 => (clear_value x; rename' x => y)); subst x)
      | (refine (have hx : Keeps s₀ x.1 := ?_; ?_); (on_goal 2 => (clear_value x; rename' x => y)); subst x)
      | (clear_value x; rename' x => y))
    | with_reducible first
      | assumption | apply Keeps.ite | apply State.drawn_keeps | apply State.setEpipe_keeps
      | apply State.encStore_keeps | apply State.auSend_keeps | apply State.encLeave_keeps
      | apply State.encCount_keeps
    | with_reducible refine Keeps.fields ?_ ?_ ?_ ?_
    | exact Or.inl rfl
    | rfl

theorem encJobDone_keeps {s₀ s : State} (h : Keeps s₀ s) (n : Nat) (e : EncEnd) : Keeps s₀ (encJobDone n e s) := by
  unfold encJobDone
  repeat first
    | (extract_lets +onlyGivenNames x; first
      | (refine (have hx : Keeps s₀ x := ?_; ?_); (on_goal 2 => (clear_value x; rename' x => y)); subst x)
      | (refine (have hx : Keeps s₀ x.1 := ?_; ?_); (on_goal 2 => (clear_value x; rename' x => y)); subst x)
      | (clear_value x; rename' x => y))
    | with_reducible first
      | assumption | apply Keeps.ite | apply Keeps.itePair | apply State.encGone_keeps | apply State.encRecord_keeps
      | apply State.encAbort_keeps | apply State.encComplete_keeps
    | dsimp -zeta only
    | split
    | with_reducible refine Keeps.fields ?_ ?_ ?_ ?_
    | exact Or.inl rfl
    | rfl

theorem encWatchdog_keeps {s₀ s : State} (h : Keeps s₀ s) (n : Nat) : Keeps s₀ (encWatchdog n s) := by
  unfold encWatchdog
  repeat first
    | with_reducible first
      | assumption | apply Keeps.ite | apply State.encAbort_keeps
    | split
    | with_reducible refine Keeps.fields ?_ ?_ ?_ ?_
    | exact Or.inl rfl
    | rfl

theorem encAccessFault_keeps {s₀ s : State} (h : Keeps s₀ s) (n : Nat) (f : JobFault) (a : Nat) :
    Keeps s₀ (encAccessFault n f a s) := by
  unfold encAccessFault
  repeat first
    | with_reducible first
      | assumption | apply Keeps.ite | apply State.memError_keeps | apply State.encAbort_keeps
    | split
    | with_reducible refine Keeps.fields ?_ ?_ ?_ ?_
    | exact Or.inl rfl
    | rfl

theorem encFaultRead_keeps {s₀ s : State} (h : Keeps s₀ s) (m : Nat) : Keeps s₀ (encFaultRead m s).1 := by
  unfold encFaultRead
  repeat first
    | with_reducible first
      | assumption | apply State.setSnaps_keeps
    | dsimp -zeta only
    | split
    | with_reducible refine Keeps.fields ?_ ?_ ?_ ?_
    | exact Or.inl rfl
    | rfl

theorem State.strStart_keeps {s₀ s : State} (h : Keeps s₀ s) (i : Nat) : Keeps s₀ (State.strStart s i) := by
  unfold State.strStart
  repeat first
    | (extract_lets +onlyGivenNames x; first
      | (refine (have hx : Keeps s₀ x := ?_; ?_); (on_goal 2 => (clear_value x; rename' x => y)); subst x)
      | (refine (have hx : Keeps s₀ x.1 := ?_; ?_); (on_goal 2 => (clear_value x; rename' x => y)); subst x)
      | (clear_value x; rename' x => y))
    | with_reducible first
      | assumption | refine Keeps.fold ?_ (fun _ _ _ => ?_) _ | apply State.p_keeps | apply State.pb_keeps
      | apply State.drawn_keeps | apply State.setEstr_keeps
    | with_reducible refine Keeps.fields ?_ ?_ ?_ ?_
    | exact Or.inl rfl
    | rfl

theorem State.strStop_keeps {s₀ s : State} (h : Keeps s₀ s) (i : Nat) : Keeps s₀ (State.strStop s i) := by
  unfold State.strStop
  repeat first
    | (extract_lets +onlyGivenNames x; first
      | (refine (have hx : Keeps s₀ x := ?_; ?_); (on_goal 2 => (clear_value x; rename' x => y)); subst x)
      | (refine (have hx : Keeps s₀ x.1 := ?_; ?_); (on_goal 2 => (clear_value x; rename' x => y)); subst x)
      | (clear_value x; rename' x => y))
    | with_reducible first
      | assumption | apply Keeps.ite | refine Keeps.fold ?_ (fun _ _ _ => ?_) _ | apply State.p_keeps
      | apply State.pb_keeps | apply State.setEstr_keeps | apply State.setEpipe_keeps
    | with_reducible refine Keeps.fields ?_ ?_ ?_ ?_
    | exact Or.inl rfl
    | rfl

theorem strCtrlWrite_keeps {s₀ s : State} (h : Keeps s₀ s) (m i : Nat) (v : Word) :
    Keeps s₀ (strCtrlWrite m i v s) := by
  unfold strCtrlWrite
  repeat first
    | (extract_lets +onlyGivenNames x; first
      | (refine (have hx : Keeps s₀ x := ?_; ?_); (on_goal 2 => (clear_value x; rename' x => y)); subst x)
      | (refine (have hx : Keeps s₀ x.1 := ?_; ?_); (on_goal 2 => (clear_value x; rename' x => y)); subst x)
      | (clear_value x; rename' x => y))
    | with_reducible first
      | assumption | apply Keeps.ite | apply State.p_keeps | apply State.logIgnored_keeps
      | apply State.writeFields_keeps | apply State.setEstr_keeps | apply State.strStart_keeps
      | apply State.strStop_keeps
    | with_reducible refine Keeps.fields ?_ ?_ ?_ ?_
    | exact Or.inl rfl
    | rfl

theorem State.encGrantRise_keeps {s₀ s : State} (h : Keeps s₀ s) : Keeps s₀ (State.encGrantRise s) := by
  unfold State.encGrantRise
  repeat first
    | with_reducible first
      | assumption | apply Keeps.ite | refine Keeps.fold ?_ (fun _ _ _ => ?_) _ | apply State.setEstr_keeps
    | with_reducible refine Keeps.fields ?_ ?_ ?_ ?_
    | exact Or.inl rfl
    | rfl

theorem encPipeWrite_keeps {s₀ s : State} (h : Keeps s₀ s) (m n : Nat) (v : Word) :
    Keeps s₀ (encPipeWrite m n v s) := by
  unfold encPipeWrite
  repeat first
    | (extract_lets +onlyGivenNames x; first
      | (refine (have hx : Keeps s₀ x := ?_; ?_); (on_goal 2 => (clear_value x; rename' x => y)); subst x)
      | (refine (have hx : Keeps s₀ x.1 := ?_; ?_); (on_goal 2 => (clear_value x; rename' x => y)); subst x)
      | (clear_value x; rename' x => y))
    | with_reducible first
      | assumption | apply Keeps.ite | apply State.pb_keeps | apply State.clkRefresh_keeps
      | apply State.logIgnored_keeps

theorem encSaveWrite_keeps {s₀ s : State} (h : Keeps s₀ s) (m n : Nat) (v : Word) :
    Keeps s₀ (encSaveWrite m n v s) := by
  unfold encSaveWrite
  repeat first
    | (extract_lets +onlyGivenNames x; first
      | (refine (have hx : Keeps s₀ x := ?_; ?_); (on_goal 2 => (clear_value x; rename' x => y)); subst x)
      | (refine (have hx : Keeps s₀ x.1 := ?_; ?_); (on_goal 2 => (clear_value x; rename' x => y)); subst x)
      | (clear_value x; rename' x => y))
    | with_reducible first
      | assumption | apply Keeps.ite | apply State.logIgnored_keeps | apply State.writeFields_keeps

end Sys2Proof.Machine
end

