-- ==== Sys2Proof/Laws/KeepTouch.lean ====
section
/-! SUPPORT. What the operations of Machine/Touch.lean keep. -/

set_option linter.all false

namespace Sys2Proof.Machine

theorem State.setPanel_keeps {s₀ s : State} (h : Keeps s₀ s) (p : Nat) (x : TchPanel) :
    Keeps s₀ (State.setPanel s p x) := by
  unfold State.setPanel
  repeat first
    | with_reducible first
      | assumption | apply State.p_keeps
    | with_reducible refine Keeps.fields ?_ ?_ ?_ ?_
    | exact Or.inl rfl
    | rfl

theorem State.tchReport_keeps {s₀ s : State} (h : Keeps s₀ s) (p cut : Nat) (base : Bool) (es : List (List Byte)) :
    Keeps s₀ (State.tchReport s p cut base es) := by
  unfold State.tchReport
  repeat first
    | (extract_lets +onlyGivenNames x; first
      | (refine (have hx : Keeps s₀ x := ?_; ?_); (on_goal 2 => (clear_value x; rename' x => y)); subst x)
      | (refine (have hx : Keeps s₀ x.1 := ?_; ?_); (on_goal 2 => (clear_value x; rename' x => y)); subst x)
      | (clear_value x; rename' x => y))
    | with_reducible first
      | assumption | apply Keeps.ite | apply Keeps.itePair | apply State.p_keeps | apply State.inc_keeps
      | apply State.raise_keeps | apply State.dmaWrite_keeps
    | dsimp -zeta only
    | with_reducible refine Keeps.fields ?_ ?_ ?_ ?_
    | exact Or.inl rfl
    | rfl

theorem State.tchCurator_keeps {s₀ s : State} (h : Keeps s₀ s) (p cut : Nat) (es : List (List Byte)) :
    Keeps s₀ (State.tchCurator s p cut es) := by
  unfold State.tchCurator
  repeat first
    | (extract_lets +onlyGivenNames x; first
      | (refine (have hx : Keeps s₀ x := ?_; ?_); (on_goal 2 => (clear_value x; rename' x => y)); subst x)
      | (refine (have hx : Keeps s₀ x.1 := ?_; ?_); (on_goal 2 => (clear_value x; rename' x => y)); subst x)
      | (clear_value x; rename' x => y))
    | with_reducible first
      | assumption | apply Keeps.ite | apply Keeps.itePair | apply State.p_keeps | apply State.inc_keeps
      | apply State.dmaWrite_keeps
    | dsimp -zeta only
    | with_reducible refine Keeps.fields ?_ ?_ ?_ ?_
    | exact Or.inl rfl
    | rfl

theorem State.tchCounts_keeps {s₀ s : State} (h : Keeps s₀ s) (p : Nat) : Keeps s₀ (State.tchCounts s p) := by
  unfold State.tchCounts
  repeat first
    | (extract_lets +onlyGivenNames x; first
      | (refine (have hx : Keeps s₀ x := ?_; ?_); (on_goal 2 => (clear_value x; rename' x => y)); subst x)
      | (refine (have hx : Keeps s₀ x.1 := ?_; ?_); (on_goal 2 => (clear_value x; rename' x => y)); subst x)
      | (clear_value x; rename' x => y))
    | with_reducible first
      | assumption | apply State.p_keeps

theorem State.tchContacts_keeps {s₀ s : State} (h : Keeps s₀ s) (p : Nat) : Keeps s₀ (State.tchContacts s p) := by
  unfold State.tchContacts
  repeat first
    | (extract_lets +onlyGivenNames x; first
      | (refine (have hx : Keeps s₀ x := ?_; ?_); (on_goal 2 => (clear_value x; rename' x => y)); subst x)
      | (refine (have hx : Keeps s₀ x.1 := ?_; ?_); (on_goal 2 => (clear_value x; rename' x => y)); subst x)
      | (have z := fun a => x a; clear z; subst x)
      | (clear_value x; rename' x => y))
    | with_reducible first
      | assumption | apply Keeps.ite | refine Keeps.fold ?_ (fun _ _ _ => ?_) _ | apply State.p_keeps
      | apply State.incBy_keeps | apply State.setPanel_keeps | apply State.tchReport_keeps
      | apply State.tchCurator_keeps | apply State.tchCounts_keeps
    | split
    | with_reducible refine Keeps.fields ?_ ?_ ?_ ?_
    | exact Or.inl rfl
    | rfl

theorem State.panelFresh_keeps {s₀ s : State} (h : Keeps s₀ s) (p : Nat) : Keeps s₀ (State.panelFresh s p) := by
  unfold State.panelFresh
  repeat first
    | with_reducible first
      | assumption | apply State.p_keeps | apply State.setPanel_keeps | apply State.tchCounts_keeps

theorem baselineFormed_keeps {s₀ s : State} (h : Keeps s₀ s) (p : Nat) : Keeps s₀ (baselineFormed p s) := by
  unfold baselineFormed
  repeat first
    | (extract_lets +onlyGivenNames x; first
      | (refine (have hx : Keeps s₀ x := ?_; ?_); (on_goal 2 => (clear_value x; rename' x => y)); subst x)
      | (refine (have hx : Keeps s₀ x.1 := ?_; ?_); (on_goal 2 => (clear_value x; rename' x => y)); subst x)
      | (clear_value x; rename' x => y))
    | with_reducible first
      | assumption | apply Keeps.ite | apply State.p_keeps | apply State.setPanel_keeps
    | with_reducible refine Keeps.fields ?_ ?_ ?_ ?_
    | exact Or.inl rfl
    | rfl

theorem baselineDrift_keeps {s₀ s : State} (h : Keeps s₀ s) (p : Nat) : Keeps s₀ (baselineDrift p s) := by
  unfold baselineDrift
  repeat first
    | (extract_lets +onlyGivenNames x; first
      | (refine (have hx : Keeps s₀ x := ?_; ?_); (on_goal 2 => (clear_value x; rename' x => y)); subst x)
      | (refine (have hx : Keeps s₀ x.1 := ?_; ?_); (on_goal 2 => (clear_value x; rename' x => y)); subst x)
      | (have z := fun a => x a; clear z; subst x)
      | (clear_value x; rename' x => y))
    | with_reducible first
      | assumption | apply Keeps.ite | apply State.p_keeps | apply State.setPanel_keeps
    | with_reducible refine Keeps.fields ?_ ?_ ?_ ?_
    | exact Or.inl rfl
    | rfl

theorem antiConfirm_keeps {s₀ s : State} (h : Keeps s₀ s) (p : Nat) : Keeps s₀ (antiConfirm p s) := by
  unfold antiConfirm
  repeat first
    | (extract_lets +onlyGivenNames x; first
      | (refine (have hx : Keeps s₀ x := ?_; ?_); (on_goal 2 => (clear_value x; rename' x => y)); subst x)
      | (refine (have hx : Keeps s₀ x.1 := ?_; ?_); (on_goal 2 => (clear_value x; rename' x => y)); subst x)
      | (clear_value x; rename' x => y))
    | with_reducible first
      | assumption | apply Keeps.ite | refine Keeps.fold ?_ (fun _ _ _ => ?_) _ | apply State.p_keeps
      | apply State.inc_keeps | apply State.raise_keeps | apply State.setPanel_keeps
    | with_reducible refine Keeps.fields ?_ ?_ ?_ ?_
    | exact Or.inl rfl
    | rfl

theorem objectTimeout_keeps {s₀ s : State} (h : Keeps s₀ s) (p : Nat) : Keeps s₀ (objectTimeout p s) := by
  unfold objectTimeout
  repeat first
    | (extract_lets +onlyGivenNames x; first
      | (refine (have hx : Keeps s₀ x := ?_; ?_); (on_goal 2 => (clear_value x; rename' x => y)); subst x)
      | (refine (have hx : Keeps s₀ x.1 := ?_; ?_); (on_goal 2 => (clear_value x; rename' x => y)); subst x)
      | (have z := fun a => x a; clear z; subst x)
      | (clear_value x; rename' x => y))
    | with_reducible first
      | assumption | apply Keeps.ite | refine Keeps.fold ?_ (fun _ _ _ => ?_) _ | apply State.p_keeps
      | apply State.raise_keeps | apply State.setPanel_keeps | apply State.tchCounts_keeps
    | with_reducible refine Keeps.fields ?_ ?_ ?_ ?_
    | exact Or.inl rfl
    | rfl

theorem State.tchSettle_keeps {s₀ s : State} (h : Keeps s₀ s) (p : Nat) : Keeps s₀ (State.tchSettle s p) := by
  unfold State.tchSettle
  repeat first
    | with_reducible first
      | assumption | apply State.p_keeps | apply baselineFormed_keeps | apply baselineDrift_keeps
      | apply antiConfirm_keeps | apply objectTimeout_keeps

theorem tchFrameStart_keeps {s₀ s : State} (h : Keeps s₀ s) (p : Nat) : Keeps s₀ (tchFrameStart p s) := by
  unfold tchFrameStart
  repeat first
    | (extract_lets +onlyGivenNames x; first
      | (refine (have hx : Keeps s₀ x := ?_; ?_); (on_goal 2 => (clear_value x; rename' x => y)); subst x)
      | (refine (have hx : Keeps s₀ x.1 := ?_; ?_); (on_goal 2 => (clear_value x; rename' x => y)); subst x)
      | (clear_value x; rename' x => y))
    | with_reducible first
      | assumption | apply Keeps.ite | refine Keeps.fold ?_ (fun _ _ _ => ?_) _ | apply State.p_keeps
      | apply State.setPanel_keeps
    | with_reducible refine Keeps.fields ?_ ?_ ?_ ?_
    | exact Or.inl rfl
    | rfl

theorem State.tchKept_keeps {s₀ s : State} (h : Keeps s₀ s) (p : Nat) : Keeps s₀ (State.tchKept s p) := by
  unfold State.tchKept
  repeat first
    | (extract_lets +onlyGivenNames x; first
      | (refine (have hx : Keeps s₀ x := ?_; ?_); (on_goal 2 => (clear_value x; rename' x => y)); subst x)
      | (refine (have hx : Keeps s₀ x.1 := ?_; ?_); (on_goal 2 => (clear_value x; rename' x => y)); subst x)
      | (clear_value x; rename' x => y))
    | with_reducible first
      | assumption | apply Keeps.ite | apply State.p_keeps | apply State.inc_keeps | apply State.setPanel_keeps
      | apply State.tchReport_keeps | apply State.tchContacts_keeps
    | with_reducible refine Keeps.fields ?_ ?_ ?_ ?_
    | exact Or.inl rfl
    | rfl

theorem tchFrameEnd_keeps {s₀ s : State} (h : Keeps s₀ s) (p : Nat) (steps listens : List (List Nat)) :
    Keeps s₀ (tchFrameEnd p steps listens s) := by
  unfold tchFrameEnd
  repeat first
    | (extract_lets +onlyGivenNames x; first
      | (refine (have hx : Keeps s₀ x := ?_; ?_); (on_goal 2 => (clear_value x; rename' x => y)); subst x)
      | (refine (have hx : Keeps s₀ x.1 := ?_; ?_); (on_goal 2 => (clear_value x; rename' x => y)); subst x)
      | (clear_value x; rename' x => y))
    | with_reducible first
      | assumption | apply Keeps.ite | apply State.p_keeps | apply State.inc_keeps | apply State.stamp_keeps
      | apply State.setPanel_keeps | apply State.tchSettle_keeps | apply State.tchKept_keeps
    | with_reducible refine Keeps.fields ?_ ?_ ?_ ?_
    | exact Or.inl rfl
    | rfl

theorem State.tchAbandon_keeps {s₀ s : State} (h : Keeps s₀ s) : Keeps s₀ (State.tchAbandon s) := by
  unfold State.tchAbandon
  repeat first
    | with_reducible first
      | assumption | refine Keeps.fold ?_ (fun _ _ _ => ?_) _ | apply State.p_keeps | apply State.setPanel_keeps
    | with_reducible refine Keeps.fields ?_ ?_ ?_ ?_
    | exact Or.inl rfl
    | rfl

theorem State.tchState_keeps {s₀ s : State} (h : Keeps s₀ s) (x : Nat) : Keeps s₀ (State.tchState s x) := by
  unfold State.tchState
  repeat first
    | with_reducible first
      | assumption | apply Keeps.ite | apply State.p_keeps

theorem State.tchRestart_keeps {s₀ s : State} (h : Keeps s₀ s) : Keeps s₀ (State.tchRestart s) := by
  unfold State.tchRestart
  repeat first
    | (extract_lets +onlyGivenNames x; first
      | (refine (have hx : Keeps s₀ x := ?_; ?_); (on_goal 2 => (clear_value x; rename' x => y)); subst x)
      | (refine (have hx : Keeps s₀ x.1 := ?_; ?_); (on_goal 2 => (clear_value x; rename' x => y)); subst x)
      | (clear_value x; rename' x => y))
    | with_reducible first
      | assumption | apply Keeps.ite | refine Keeps.fold ?_ (fun _ _ _ => ?_) _ | apply State.p_keeps
      | apply State.panelFresh_keeps | apply State.tchState_keeps

theorem State.tchResume_keeps {s₀ s : State} (h : Keeps s₀ s) : Keeps s₀ (State.tchResume s) := by
  unfold State.tchResume
  repeat first
    | (extract_lets +onlyGivenNames x; first
      | (refine (have hx : Keeps s₀ x := ?_; ?_); (on_goal 2 => (clear_value x; rename' x => y)); subst x)
      | (refine (have hx : Keeps s₀ x.1 := ?_; ?_); (on_goal 2 => (clear_value x; rename' x => y)); subst x)
      | (clear_value x; rename' x => y))
    | with_reducible first
      | assumption | apply Keeps.ite | apply State.tchState_keeps | apply State.tchRestart_keeps

theorem State.selftestAbort_keeps {s₀ s : State} (h : Keeps s₀ s) : Keeps s₀ (State.selftestAbort s) := by
  unfold State.selftestAbort
  repeat first
    | with_reducible first
      | assumption | apply Keeps.ite | apply State.p_keeps | apply State.raise_keeps

theorem State.tchGrantRise_keeps {s₀ s : State} (h : Keeps s₀ s) : Keeps s₀ (State.tchGrantRise s) := by
  unfold State.tchGrantRise
  repeat first
    | with_reducible first
      | assumption | apply Keeps.ite | apply State.tchRestart_keeps

theorem State.tchGrantFall_keeps {s₀ s : State} (h : Keeps s₀ s) : Keeps s₀ (State.tchGrantFall s) := by
  unfold State.tchGrantFall
  repeat first
    | (extract_lets +onlyGivenNames x; first
      | (refine (have hx : Keeps s₀ x := ?_; ?_); (on_goal 2 => (clear_value x; rename' x => y)); subst x)
      | (refine (have hx : Keeps s₀ x.1 := ?_; ?_); (on_goal 2 => (clear_value x; rename' x => y)); subst x)
      | (clear_value x; rename' x => y))
    | with_reducible first
      | assumption | apply Keeps.ite | refine Keeps.fold ?_ (fun _ _ _ => ?_) _ | apply State.p_keeps
      | apply State.inc_keeps | apply State.panelFresh_keeps | apply State.tchState_keeps
      | apply State.selftestAbort_keeps
    | with_reducible refine Keeps.fields ?_ ?_ ?_ ?_
    | exact Or.inl rfl
    | rfl

theorem State.tchStart_keeps {s₀ s : State} (h : Keeps s₀ s) : Keeps s₀ (State.tchStart s) := by
  unfold State.tchStart
  repeat first
    | (extract_lets +onlyGivenNames x; first
      | (refine (have hx : Keeps s₀ x := ?_; ?_); (on_goal 2 => (clear_value x; rename' x => y)); subst x)
      | (refine (have hx : Keeps s₀ x.1 := ?_; ?_); (on_goal 2 => (clear_value x; rename' x => y)); subst x)
      | (clear_value x; rename' x => y))
    | with_reducible first
      | assumption | refine Keeps.fold ?_ (fun _ _ _ => ?_) _ | apply State.p_keeps | apply State.pb_keeps
      | apply State.tchRestart_keeps

theorem State.tchStop_keeps {s₀ s : State} (h : Keeps s₀ s) : Keeps s₀ (State.tchStop s) := by
  unfold State.tchStop
  repeat first
    | (extract_lets +onlyGivenNames x; first
      | (refine (have hx : Keeps s₀ x := ?_; ?_); (on_goal 2 => (clear_value x; rename' x => y)); subst x)
      | (refine (have hx : Keeps s₀ x.1 := ?_; ?_); (on_goal 2 => (clear_value x; rename' x => y)); subst x)
      | (clear_value x; rename' x => y))
    | with_reducible first
      | assumption | refine Keeps.fold ?_ (fun _ _ _ => ?_) _ | apply State.p_keeps | apply State.pb_keeps
      | apply State.panelFresh_keeps | apply State.selftestAbort_keeps

theorem State.selftest_keeps {s₀ s : State} (h : Keeps s₀ s) : Keeps s₀ (State.selftest s) := by
  unfold State.selftest
  repeat first
    | with_reducible first
      | assumption | apply Keeps.ite | apply State.p_keeps | apply State.raise_keeps | apply State.tchAbandon_keeps
      | apply State.tchState_keeps

theorem selftestDone_keeps {s₀ s : State} (h : Keeps s₀ s) (found : List LineProbe) :
    Keeps s₀ (selftestDone found s) := by
  unfold selftestDone
  repeat first
    | (extract_lets +onlyGivenNames x; first
      | (refine (have hx : Keeps s₀ x := ?_; ?_); (on_goal 2 => (clear_value x; rename' x => y)); subst x)
      | (refine (have hx : Keeps s₀ x.1 := ?_; ?_); (on_goal 2 => (clear_value x; rename' x => y)); subst x)
      | (clear_value x; rename' x => y))
    | with_reducible first
      | assumption | apply Keeps.ite | refine Keeps.fold ?_ (fun _ _ _ => ?_) _ | apply State.p_keeps
      | apply State.raise_keeps | apply State.tchRestart_keeps

theorem tchCtrlWrite_keeps {s₀ s : State} (h : Keeps s₀ s) (m : Nat) (v : Word) :
    Keeps s₀ (tchCtrlWrite m v s) := by
  unfold tchCtrlWrite
  repeat first
    | (extract_lets +onlyGivenNames x; first
      | (refine (have hx : Keeps s₀ x := ?_; ?_); (on_goal 2 => (clear_value x; rename' x => y)); subst x)
      | (refine (have hx : Keeps s₀ x.1 := ?_; ?_); (on_goal 2 => (clear_value x; rename' x => y)); subst x)
      | (clear_value x; rename' x => y))
    | with_reducible first
      | assumption | apply Keeps.ite | apply State.p_keeps | apply State.logIgnored_keeps
      | apply State.writeFields_keeps | apply State.tchStart_keeps | apply State.tchStop_keeps
      | apply State.selftest_keeps

theorem State.tchStandby_keeps {s₀ s : State} (h : Keeps s₀ s) (granted : Bool) :
    Keeps s₀ (State.tchStandby s granted) := by
  unfold State.tchStandby
  repeat first
    | (extract_lets +onlyGivenNames x; first
      | (refine (have hx : Keeps s₀ x := ?_; ?_); (on_goal 2 => (clear_value x; rename' x => y)); subst x)
      | (refine (have hx : Keeps s₀ x.1 := ?_; ?_); (on_goal 2 => (clear_value x; rename' x => y)); subst x)
      | (clear_value x; rename' x => y))
    | with_reducible first
      | assumption | refine Keeps.fold ?_ (fun _ _ _ => ?_) _ | apply State.p_keeps | apply State.setPanel_keeps
      | apply wake_keeps
    | with_reducible refine Keeps.fields ?_ ?_ ?_ ?_
    | exact Or.inl rfl
    | rfl

theorem standbyScan_keeps {s₀ s : State} (h : Keeps s₀ s) (p : Nat) (counts : List Nat) :
    Keeps s₀ (standbyScan p counts s) := by
  unfold standbyScan
  repeat first
    | (extract_lets +onlyGivenNames x; first
      | (refine (have hx : Keeps s₀ x := ?_; ?_); (on_goal 2 => (clear_value x; rename' x => y)); subst x)
      | (refine (have hx : Keeps s₀ x.1 := ?_; ?_); (on_goal 2 => (clear_value x; rename' x => y)); subst x)
      | (clear_value x; rename' x => y))
    | with_reducible first
      | assumption | apply Keeps.ite | apply State.p_keeps | apply State.setPanel_keeps | apply wake_keeps
    | with_reducible refine Keeps.fields ?_ ?_ ?_ ?_
    | exact Or.inl rfl
    | rfl

end Sys2Proof.Machine
end

