-- ==== Sys2Proof/Laws/KeepCustody.lean ====
section
/-! SUPPORT. What the operations of Machine/Custody.lean keep. -/

set_option linter.all false

namespace Sys2Proof.Machine

theorem State.setRole_keeps {s₀ s : State} (h : Keeps s₀ s) (r : Nat) : Keeps s₀ (State.setRole s r) := by
  unfold State.setRole
  repeat first
    | with_reducible first
      | assumption | apply State.p_keeps
    | with_reducible refine Keeps.fields ?_ ?_ ?_ ?_
    | exact Or.inl rfl
    | rfl

theorem State.actStart_keeps {s₀ s : State} (h : Keeps s₀ s) : Keeps s₀ (State.actStart s) := by
  unfold State.actStart
  repeat first
    | (extract_lets +onlyGivenNames x; first
      | (refine (have hx : Keeps s₀ x := ?_; ?_); (on_goal 2 => (clear_value x; rename' x => y)); subst x)
      | (refine (have hx : Keeps s₀ x.1 := ?_; ?_); (on_goal 2 => (clear_value x; rename' x => y)); subst x)
      | (clear_value x; rename' x => y))
    | with_reducible first
      | assumption | apply Keeps.ite | apply State.pb_keeps | apply State.dpGrantRise_keeps
      | apply State.encGrantRise_keeps | apply State.tchGrantRise_keeps | apply State.setRole_keeps
    | with_reducible refine Keeps.fields ?_ ?_ ?_ ?_
    | exact Or.inl rfl
    | rfl

theorem State.finishRelease_keeps {s₀ s : State} (h : Keeps s₀ s) : Keeps s₀ (State.finishRelease s) := by
  unfold State.finishRelease
  repeat first
    | (extract_lets +onlyGivenNames x; first
      | (refine (have hx : Keeps s₀ x := ?_; ?_); (on_goal 2 => (clear_value x; rename' x => y)); subst x)
      | (refine (have hx : Keeps s₀ x.1 := ?_; ?_); (on_goal 2 => (clear_value x; rename' x => y)); subst x)
      | (clear_value x; rename' x => y))
    | with_reducible first
      | assumption | apply State.p_keeps | apply State.pb_keeps
    | with_reducible refine Keeps.fields ?_ ?_ ?_ ?_
    | exact Or.inl rfl
    | rfl

theorem State.releaseSettle_keeps {s₀ s : State} (h : Keeps s₀ s) : Keeps s₀ (State.releaseSettle s) := by
  unfold State.releaseSettle
  repeat first
    | with_reducible first
      | assumption | apply Keeps.ite | apply State.finishRelease_keeps

theorem State.release_keeps {s₀ s : State} (h : Keeps s₀ s) (t0 role : Nat) :
    Keeps s₀ (State.release s t0 role) := by
  unfold State.release
  repeat first
    | (extract_lets +onlyGivenNames x; first
      | (refine (have hx : Keeps s₀ x := ?_; ?_); (on_goal 2 => (clear_value x; rename' x => y)); subst x)
      | (refine (have hx : Keeps s₀ x.1 := ?_; ?_); (on_goal 2 => (clear_value x; rename' x => y)); subst x)
      | (clear_value x; rename' x => y))
    | with_reducible first
      | assumption | apply Keeps.ite | apply State.pb_keeps | apply State.dpGrantFall_keeps
      | apply State.tchGrantFall_keeps | apply State.setRole_keeps | apply State.releaseSettle_keeps
    | with_reducible refine Keeps.fields ?_ ?_ ?_ ?_
    | exact Or.inl rfl
    | rfl

theorem State.releaseTo_keeps {s₀ s : State} (h : Keeps s₀ s) (t0 role : Nat) :
    Keeps s₀ (State.releaseTo s t0 role) := by
  unfold State.releaseTo
  repeat first
    | with_reducible first
      | assumption | apply Keeps.ite | apply State.setRole_keeps | apply State.release_keeps

theorem State.releaseLatched_keeps {s₀ s : State} (h : Keeps s₀ s) (n : Nat) :
    Keeps s₀ (State.releaseLatched s n) := by
  unfold State.releaseLatched
  repeat first
    | with_reducible first
      | assumption | apply Keeps.ite | apply State.releaseSettle_keeps
    | with_reducible refine Keeps.fields ?_ ?_ ?_ ?_
    | exact Or.inl rfl
    | rfl

theorem State.setGrant_keeps {s₀ s : State} (h : Keeps s₀ s) (on : Bool) (t0 : Nat) :
    Keeps s₀ (State.setGrant s on t0) := by
  unfold State.setGrant
  apply Keeps.ite h
  have h1 : Keeps s₀ { s with cus := { s.cus with eff := on } } := Keeps.fields h rfl (.inl rfl) rfl
  exact Keeps.ite h1 (Keeps.ite (State.actStart_keeps h1) (State.releaseTo_keeps h1 _ _))

theorem State.isolate_keeps {s₀ s : State} (h : Keeps s₀ s) : Keeps s₀ (State.isolate s) := by
  unfold State.isolate
  repeat first
    | with_reducible first
      | assumption | apply Keeps.ite | apply State.releaseTo_keeps

theorem State.leaveIsolated_keeps {s₀ s : State} (h : Keeps s₀ s) : Keeps s₀ (State.leaveIsolated s) := by
  unfold State.leaveIsolated
  repeat first
    | with_reducible first
      | assumption | apply Keeps.ite | apply State.setRole_keeps | apply State.actStart_keeps

theorem State.isolateBecame_keeps {s₀ s : State} (h : Keeps s₀ s) (on : Bool) :
    Keeps s₀ (State.isolateBecame s on) := by
  unfold State.isolateBecame
  repeat first
    | with_reducible first
      | assumption | apply Keeps.ite | apply State.isolate_keeps | apply State.leaveIsolated_keeps

theorem State.isolateSet_keeps {s₀ s : State} (h : Keeps s₀ s) (on : Bool) : Keeps s₀ (State.isolateSet s on) := by
  unfold State.isolateSet
  repeat first
    | with_reducible first
      | assumption | apply Keeps.ite | apply State.pb_keeps | apply State.isolateBecame_keeps

theorem State.bootIsolate_keeps {s₀ s : State} (h : Keeps s₀ s) (refused : Bool) :
    Keeps s₀ (State.bootIsolate s refused) := by
  unfold State.bootIsolate
  repeat first
    | (extract_lets +onlyGivenNames x; first
      | (refine (have hx : Keeps s₀ x := ?_; ?_); (on_goal 2 => (clear_value x; rename' x => y)); subst x)
      | (refine (have hx : Keeps s₀ x.1 := ?_; ?_); (on_goal 2 => (clear_value x; rename' x => y)); subst x)
      | (clear_value x; rename' x => y))
    | with_reducible first
      | assumption | apply Keeps.ite | apply State.isolate_keeps | apply State.leaveIsolated_keeps
    | with_reducible refine Keeps.fields ?_ ?_ ?_ ?_
    | exact Or.inl rfl
    | rfl

theorem State.grantFiltered_keeps {s₀ s : State} (h : Keeps s₀ s) (level : Bool) :
    Keeps s₀ (State.grantFiltered s level) := by
  unfold State.grantFiltered
  repeat first
    | (extract_lets +onlyGivenNames x; first
      | (refine (have hx : Keeps s₀ x := ?_; ?_); (on_goal 2 => (clear_value x; rename' x => y)); subst x)
      | (refine (have hx : Keeps s₀ x.1 := ?_; ?_); (on_goal 2 => (clear_value x; rename' x => y)); subst x)
      | (clear_value x; rename' x => y))
    | with_reducible first
      | assumption | apply Keeps.ite | apply State.pb_keeps | apply State.inc_keeps | apply State.raise_keeps
      | apply State.setGrant_keeps
    | with_reducible refine Keeps.fields ?_ ?_ ?_ ?_
    | exact Or.inl rfl
    | rfl

theorem grantChange_keeps {s₀ s : State} (h : Keeps s₀ s) (level : Bool) : Keeps s₀ (grantChange level s) := by
  unfold grantChange
  repeat first
    | with_reducible first
      | assumption | apply Keeps.ite | apply State.grantFiltered_keeps

theorem staleClear_keeps {s₀ s : State} (h : Keeps s₀ s) : Keeps s₀ (staleClear s) := by
  unfold staleClear
  repeat first
    | with_reducible first
      | assumption | apply Keeps.ite | apply State.grantFiltered_keeps

theorem State.compatSet_keeps {s₀ s : State} (h : Keeps s₀ s) (on : Bool) : Keeps s₀ (State.compatSet s on) := by
  unfold State.compatSet
  repeat first
    | with_reducible first
      | assumption | apply State.pb_keeps | apply State.setGrant_keeps

theorem State.compatEval_keeps {s₀ s : State} (h : Keeps s₀ s) : Keeps s₀ (State.compatEval s) := by
  unfold State.compatEval
  repeat first
    | (extract_lets +onlyGivenNames x; first
      | (refine (have hx : Keeps s₀ x := ?_; ?_); (on_goal 2 => (clear_value x; rename' x => y)); subst x)
      | (refine (have hx : Keeps s₀ x.1 := ?_; ?_); (on_goal 2 => (clear_value x; rename' x => y)); subst x)
      | (clear_value x; rename' x => y))
    | with_reducible first
      | assumption | apply Keeps.ite | apply State.pb_keeps | apply State.compatSet_keeps
    | with_reducible refine Keeps.fields ?_ ?_ ?_ ?_
    | exact Or.inl rfl
    | rfl

theorem State.aliveRefresh_keeps {s₀ s : State} (h : Keeps s₀ s) : Keeps s₀ (State.aliveRefresh s) := by
  unfold State.aliveRefresh
  repeat first
    | (extract_lets +onlyGivenNames x; first
      | (refine (have hx : Keeps s₀ x := ?_; ?_); (on_goal 2 => (clear_value x; rename' x => y)); subst x)
      | (refine (have hx : Keeps s₀ x.1 := ?_; ?_); (on_goal 2 => (clear_value x; rename' x => y)); subst x)
      | (clear_value x; rename' x => y))
    | with_reducible first
      | assumption | apply Keeps.ite | apply State.pb_keeps | apply State.compatEval_keeps
    | with_reducible refine Keeps.fields ?_ ?_ ?_ ?_
    | exact Or.inl rfl
    | rfl

theorem aliveKick_keeps {s₀ s : State} (h : Keeps s₀ s) (v : Word) : Keeps s₀ (aliveKick v s) := by
  unfold aliveKick
  repeat first
    | with_reducible first
      | assumption | apply Keeps.ite | apply State.aliveRefresh_keeps
    | with_reducible refine Keeps.fields ?_ ?_ ?_ ?_
    | exact Or.inl rfl
    | rfl

theorem peerOkChange_keeps {s₀ s : State} (h : Keeps s₀ s) (level : Bool) : Keeps s₀ (peerOkChange level s) := by
  unfold peerOkChange
  repeat first
    | with_reducible first
      | assumption | apply Keeps.ite | apply State.pb_keeps | apply State.raise_keeps | apply State.compatEval_keeps

theorem takeDelay_keeps {s₀ s : State} (h : Keeps s₀ s) : Keeps s₀ (takeDelay s) := by
  unfold takeDelay
  repeat first
    | (extract_lets +onlyGivenNames x; first
      | (refine (have hx : Keeps s₀ x := ?_; ?_); (on_goal 2 => (clear_value x; rename' x => y)); subst x)
      | (refine (have hx : Keeps s₀ x.1 := ?_; ?_); (on_goal 2 => (clear_value x; rename' x => y)); subst x)
      | (clear_value x; rename' x => y))
    | with_reducible first
      | assumption | apply Keeps.ite | apply State.compatSet_keeps
    | split
    | with_reducible refine Keeps.fields ?_ ?_ ?_ ?_
    | exact Or.inl rfl
    | rfl

theorem linkTimeout_keeps {s₀ s : State} (h : Keeps s₀ s) : Keeps s₀ (linkTimeout s) := by
  unfold linkTimeout
  repeat first
    | with_reducible first
      | assumption | apply Keeps.ite | apply State.pb_keeps | apply State.raise_keeps

theorem statusFrame_keeps {s₀ s : State} (h : Keeps s₀ s) : Keeps s₀ (statusFrame s) := by
  unfold statusFrame
  repeat first
    | (extract_lets +onlyGivenNames x; first
      | (refine (have hx : Keeps s₀ x := ?_; ?_); (on_goal 2 => (clear_value x; rename' x => y)); subst x)
      | (refine (have hx : Keeps s₀ x.1 := ?_; ?_); (on_goal 2 => (clear_value x; rename' x => y)); subst x)
      | (clear_value x; rename' x => y))
    | with_reducible first
      | assumption | apply Keeps.ite | apply State.p_keeps | apply State.inc_keeps
    | with_reducible refine Keeps.fields ?_ ?_ ?_ ?_
    | exact Or.inl rfl
    | rfl

theorem State.cusBad_keeps {s₀ s : State} (h : Keeps s₀ s) : Keeps s₀ (State.cusBad s) := by
  unfold State.cusBad
  repeat first
    | with_reducible first
      | assumption | apply State.inc_keeps

theorem State.cusGood_keeps {s₀ s : State} (h : Keeps s₀ s) : Keeps s₀ (State.cusGood s) := by
  unfold State.cusGood
  repeat first
    | with_reducible first
      | assumption | apply State.pb_keeps | apply State.inc_keeps
    | with_reducible refine Keeps.fields ?_ ?_ ?_ ?_
    | exact Or.inl rfl
    | rfl

theorem State.cusReceive_keeps {s₀ s : State} (h : Keeps s₀ s) (bs : List Byte) :
    Keeps s₀ (State.cusReceive s bs).1 := by
  unfold State.cusReceive
  repeat first
    | (extract_lets +onlyGivenNames x; first
      | (refine (have hx : Keeps s₀ x := ?_; ?_); (on_goal 2 => (clear_value x; rename' x => y)); subst x)
      | (refine (have hx : Keeps s₀ x.1 := ?_; ?_); (on_goal 2 => (clear_value x; rename' x => y)); subst x)
      | (have z := fun a => x a; clear z; subst x)
      | (clear_value x; rename' x => y))
    | with_reducible first
      | assumption | apply Keeps.ite | apply Keeps.itePair | apply State.isolateSet_keeps | apply State.cusBad_keeps
      | apply State.cusGood_keeps
    | dsimp -zeta only

theorem cusCtrlWrite_keeps {s₀ s : State} (h : Keeps s₀ s) (m : Nat) (v : Word) :
    Keeps s₀ (cusCtrlWrite m v s) := by
  unfold cusCtrlWrite
  repeat first
    | (extract_lets +onlyGivenNames x; first
      | (refine (have hx : Keeps s₀ x := ?_; ?_); (on_goal 2 => (clear_value x; rename' x => y)); subst x)
      | (refine (have hx : Keeps s₀ x.1 := ?_; ?_); (on_goal 2 => (clear_value x; rename' x => y)); subst x)
      | (clear_value x; rename' x => y))
    | with_reducible first
      | assumption | apply Keeps.ite | apply State.writeFields_keeps | apply State.isolateBecame_keeps
      | apply State.aliveRefresh_keeps | apply linkTimeout_keeps

theorem roleRequest_keeps {s₀ s : State} (h : Keeps s₀ s) (m : Nat) (v : Word) : Keeps s₀ (roleRequest m v s) := by
  unfold roleRequest
  repeat first
    | (extract_lets +onlyGivenNames x; first
      | (refine (have hx : Keeps s₀ x := ?_; ?_); (on_goal 2 => (clear_value x; rename' x => y)); subst x)
      | (refine (have hx : Keeps s₀ x.1 := ?_; ?_); (on_goal 2 => (clear_value x; rename' x => y)); subst x)
      | (clear_value x; rename' x => y))
    | with_reducible first
      | assumption | apply Keeps.ite | apply State.p_keeps | apply State.logIgnored_keeps | apply State.raise_keeps
      | apply State.setRole_keeps

theorem peerGenWrite_keeps {s₀ s : State} (h : Keeps s₀ s) (m : Nat) (v : Word) :
    Keeps s₀ (peerGenWrite m v s) := by
  unfold peerGenWrite
  repeat first
    | with_reducible first
      | assumption | apply State.writeFields_keeps | apply State.genRefresh_keeps

theorem compatWrite_keeps {s₀ s : State} (h : Keeps s₀ s) (m : Nat) (v : Word) : Keeps s₀ (compatWrite m v s) := by
  unfold compatWrite
  repeat first
    | with_reducible first
      | assumption | apply State.writeFields_keeps | apply State.compatEval_keeps

theorem graceExpire_keeps {s₀ s : State} (h : Keeps s₀ s) : Keeps s₀ (graceExpire s) := by
  unfold graceExpire
  repeat first
    | with_reducible first
      | assumption | apply Keeps.ite | apply State.readyFall_keeps
    | split
    | with_reducible refine Keeps.fields ?_ ?_ ?_ ?_
    | exact Or.inl rfl
    | rfl

end Sys2Proof.Machine
end

