-- ==== Sys2Proof/Laws/KeepEngines.lean ====
section
/-! SUPPORT. What the operations of Machine/Engines.lean keep. -/

set_option linter.all false

namespace Sys2Proof.Machine

theorem State.setEngine_keeps {s₀ s : State} (h : Keeps s₀ s) (n : Nat) (e : EngState) :
    Keeps s₀ (State.setEngine s n e) := by
  unfold State.setEngine
  repeat first
    | with_reducible first
      | assumption
    | with_reducible refine Keeps.fields ?_ ?_ ?_ ?_
    | exact Or.inl rfl
    | rfl

theorem State.wdogKeep_keeps {s₀ s : State} (h : Keeps s₀ s) : Keeps s₀ (State.wdogKeep s) := by
  unfold State.wdogKeep
  repeat first
    | with_reducible first
      | assumption
    | with_reducible refine Keeps.fields ?_ ?_ ?_ ?_
    | exact Or.inl rfl
    | rfl

theorem State.wdogRestart_keeps {s₀ s : State} (h : Keeps s₀ s) : Keeps s₀ (State.wdogRestart s) := by
  unfold State.wdogRestart
  repeat first
    | with_reducible first
      | assumption
    | with_reducible refine Keeps.fields ?_ ?_ ?_ ?_
    | exact Or.inl rfl
    | rfl

theorem State.bootKick_keeps {s₀ s : State} (h : Keeps s₀ s) : Keeps s₀ (State.bootKick s) := by
  unfold State.bootKick
  repeat first
    | with_reducible first
      | assumption | apply State.pb_keeps | apply State.wdogRestart_keeps

theorem State.engWorkStops_keeps {s₀ s : State} (h : Keeps s₀ s) (n : Nat) : Keeps s₀ (State.engWorkStops s n) := by
  unfold State.engWorkStops
  repeat first
    | with_reducible first
      | assumption | apply Keeps.ite | apply State.dpEngineStop_keeps | apply State.ingEngineStop_keeps
      | apply State.tchAbandon_keeps | apply State.aliveRefresh_keeps
    | with_reducible refine Keeps.fields ?_ ?_ ?_ ?_
    | exact Or.inl rfl
    | rfl

theorem State.engSet_keeps {s₀ s : State} (h : Keeps s₀ s) (n x : Nat) : Keeps s₀ (State.engSet s n x) := by
  unfold State.engSet
  repeat first
    | (extract_lets +onlyGivenNames x; first
      | (refine (have hx : Keeps s₀ x := ?_; ?_); (on_goal 2 => (clear_value x; rename' x => y)); subst x)
      | (refine (have hx : Keeps s₀ x.1 := ?_; ?_); (on_goal 2 => (clear_value x; rename' x => y)); subst x)
      | (clear_value x; rename' x => y))
    | with_reducible first
      | assumption | apply Keeps.ite | apply State.p_keeps | apply State.tchResume_keeps
      | apply State.aliveRefresh_keeps | apply State.setEngine_keeps | apply State.wdogKeep_keeps
      | apply State.engWorkStops_keeps
    | with_reducible refine Keeps.fields ?_ ?_ ?_ ?_
    | exact Or.inl rfl
    | rfl

theorem engCtrlWrite_keeps {s₀ s : State} (h : Keeps s₀ s) (m n : Nat) (v : Word) :
    Keeps s₀ (engCtrlWrite m n v s) := by
  unfold engCtrlWrite
  repeat first
    | (extract_lets +onlyGivenNames x; first
      | (refine (have hx : Keeps s₀ x := ?_; ?_); (on_goal 2 => (clear_value x; rename' x => y)); subst x)
      | (refine (have hx : Keeps s₀ x.1 := ?_; ?_); (on_goal 2 => (clear_value x; rename' x => y)); subst x)
      | (clear_value x; rename' x => y))
    | with_reducible first
      | assumption | apply Keeps.ite | apply State.writeFields_keeps | apply State.wdogKeep_keeps
      | apply State.engSet_keeps

theorem State.engLoad_keeps {s₀ s : State} (h : Keeps s₀ s) (n a : Nat) (bs : List Byte) :
    Keeps s₀ (State.engLoad s n a bs) := by
  unfold State.engLoad
  repeat first
    | with_reducible first
      | assumption | apply Keeps.engWrite
    | with_reducible refine Keeps.fields ?_ ?_ ?_ ?_
    | exact Or.inl rfl
    | rfl

theorem State.engReload_keeps {s₀ s : State} (h : Keeps s₀ s) (n : Nat) : Keeps s₀ (State.engReload s n) := by
  unfold State.engReload
  repeat first
    | (extract_lets +onlyGivenNames x; first
      | (refine (have hx : Keeps s₀ x := ?_; ?_); (on_goal 2 => (clear_value x; rename' x => y)); subst x)
      | (refine (have hx : Keeps s₀ x.1 := ?_; ?_); (on_goal 2 => (clear_value x; rename' x => y)); subst x)
      | (clear_value x; rename' x => y))
    | with_reducible first
      | assumption | apply Keeps.ite | apply State.p_keeps | apply State.errLog_keeps
      | apply State.masterReset_keeps | apply State.engSet_keeps | apply State.engLoad_keeps

theorem State.engFaultNote_keeps {s₀ s : State} (h : Keeps s₀ s) (n cause : Nat) :
    Keeps s₀ (State.engFaultNote s n cause) := by
  unfold State.engFaultNote
  repeat first
    | with_reducible first
      | assumption | apply Keeps.ite | apply State.p_keeps | apply State.pb_keeps

theorem State.engFault_keeps {s₀ s : State} (h : Keeps s₀ s) (n cause : Nat) :
    Keeps s₀ (State.engFault s n cause) := by
  unfold State.engFault
  repeat first
    | (extract_lets +onlyGivenNames x; first
      | (refine (have hx : Keeps s₀ x := ?_; ?_); (on_goal 2 => (clear_value x; rename' x => y)); subst x)
      | (refine (have hx : Keeps s₀ x.1 := ?_; ?_); (on_goal 2 => (clear_value x; rename' x => y)); subst x)
      | (clear_value x; rename' x => y))
    | with_reducible first
      | assumption | apply Keeps.ite | apply State.incSat_keeps | apply State.raise_keeps
      | apply State.masterReset_keeps | apply State.setEngine_keeps | apply State.engSet_keeps
      | apply State.engReload_keeps | apply State.engFaultNote_keeps | apply engineFault_keeps
    | split
    | with_reducible refine Keeps.fields ?_ ?_ ?_ ?_
    | exact Or.inl rfl
    | rfl

theorem engineFault_keeps {s₀ s : State} (h : Keeps s₀ s) (n cause : Nat) : Keeps s₀ (engineFault n cause s) := by
  unfold engineFault
  repeat first
    | with_reducible first
      | assumption | apply Keeps.ite | apply State.engFault_keeps

theorem engineStall_keeps {s₀ s : State} (h : Keeps s₀ s) (n : Nat) : Keeps s₀ (engineStall n s) := by
  unfold engineStall
  repeat first
    | with_reducible first
      | assumption | apply Keeps.ite | apply State.engFault_keeps

theorem State.heartbeat_keeps {s₀ s : State} (h : Keeps s₀ s) (n : Nat) : Keeps s₀ (State.heartbeat s n) := by
  unfold State.heartbeat
  repeat first
    | with_reducible first
      | assumption | apply Keeps.ite | apply State.inc_keeps | apply State.setEngine_keeps
    | with_reducible refine Keeps.fields ?_ ?_ ?_ ?_
    | exact Or.inl rfl
    | rfl

theorem lockstepMismatch_keeps {s₀ s : State} (h : Keeps s₀ s) : Keeps s₀ (lockstepMismatch s) := by
  unfold lockstepMismatch
  repeat first
    | (extract_lets +onlyGivenNames x; first
      | (refine (have hx : Keeps s₀ x := ?_; ?_); (on_goal 2 => (clear_value x; rename' x => y)); subst x)
      | (refine (have hx : Keeps s₀ x.1 := ?_; ?_); (on_goal 2 => (clear_value x; rename' x => y)); subst x)
      | (clear_value x; rename' x => y))
    | with_reducible first
      | assumption | apply Keeps.ite | apply State.pb_keeps | apply State.raise_keeps
      | apply State.masterReset_keeps | apply State.engSet_keeps | apply State.engFaultNote_keeps

end Sys2Proof.Machine
end

