-- ==== Sys2Proof/Laws/KeepResets.lean ====
section
/-! SUPPORT. What the operations of Machine/Resets.lean keep. -/

set_option linter.all false

namespace Sys2Proof.Machine

theorem Keeps.timeReset {s₀ s : State} (h : Keeps s₀ s) (c : Nat) (o : Int) :
    Keeps s₀ { s with time := { State.reset.time with count := c, offset := o } } := by
  refine h.trans ⟨rfl, le_refl _, rfl, fun k => ?_⟩
  obtain ⟨k1, k2, k3, k4, k5, _⟩ := State.wf_iff.1 k
  exact State.wf_iff.2 ⟨k1, k2, k3, k4, k5, Nat.zero_le _⟩

theorem State.rehash_keeps {s₀ s : State} (h : Keeps s₀ s) (new : Nat → Nat) : Keeps s₀ (State.rehash s new) := by
  unfold State.rehash
  extract_lets moved mem
  have hm : Memory.wf 0 s.mem = true → Memory.wf 0 mem = true := by
    intro k
    unfold mem
    split
    · exact k
    · exact Memory.wf_fold 0 _ _ _ rfl
  clear_value mem
  apply Keeps.fold
  · refine h.trans ⟨rfl, le_refl _, rfl, fun k => ?_⟩
    obtain ⟨k1, k2, k⟩ := State.wf_iff.1 k
    exact State.wf_iff.2 ⟨k1, hm k2, k⟩
  · intro s x hs
    exact State.p_keeps hs _ _

theorem State.memKeep_keeps {s₀ s : State} (h : Keeps s₀ s) (dram course : Bool) :
    Keeps s₀ (State.memKeep s dram course) := by
  unfold State.memKeep
  refine h.trans ⟨rfl, le_refl _, rfl, fun k => ?_⟩
  obtain ⟨k1, k2, k⟩ := State.wf_iff.1 k
  exact State.wf_iff.2 ⟨k1, Memory.wf_filter 0 _ k2, k⟩

theorem State.nvmCut_keeps {s₀ s : State} (h : Keeps s₀ s) : Keeps s₀ (State.nvmCut s) := by
  unfold State.nvmCut
  extract_lets +onlyGivenNames a
  have ha : Keeps s₀ a := by
    unfold a
    split
    · apply State.drawn_keeps
      refine h.trans ⟨rfl, le_refl _, rfl, fun k => ?_⟩
      obtain ⟨k1, k2, k3, k4, k⟩ := State.wf_iff.1 k
      exact State.wf_iff.2 ⟨k1, k2, k3, flashWrite_wf _ _ k4, k⟩
    · exact h
  clear_value a
  extract_lets +onlyGivenNames p b
  have hb : Keeps s₀ b := by
    unfold b
    split
    · exact State.drawn_keeps (Keeps.fields ha rfl (.inl rfl) rfl)
    · exact ha
  clear_value b
  exact State.pb_keeps (Keeps.fields hb rfl (.inl rfl) rfl) _ _

theorem State.finishGranted_keeps {s₀ s : State} (h : Keeps s₀ s) : Keeps s₀ (State.finishGranted s) := by
  unfold State.finishGranted
  repeat first
    | with_reducible first
      | assumption | apply Keeps.ite | refine Keeps.fold ?_ (fun _ _ _ => ?_) _ | apply State.p_keeps
      | apply State.storeMasked_keeps

theorem State.coreBlank_keeps {s₀ s : State} (h : Keeps s₀ s) : Keeps s₀ (State.coreBlank s) := by
  unfold State.coreBlank
  extract_lets a
  have ha : Keeps s₀ a := State.nvmCut_keeps h
  clear_value a
  refine ha.trans ⟨rfl, le_refl _, rfl, fun k => ?_⟩
  obtain ⟨k1, k2, k3, k4, k5, k6⟩ := State.wf_iff.1 k
  exact State.wf_iff.2 ⟨k1, k2, rfl, k4, Nat.zero_le _, k6⟩

theorem State.regsClear_keeps {s₀ s : State} (h : Keeps s₀ s) (r : Rank) : Keeps s₀ (State.regsClear s r) := by
  unfold State.regsClear
  repeat first
    | with_reducible first
      | assumption | apply State.resetRegs_keeps

theorem State.bootDue_keeps {s₀ s : State} (h : Keeps s₀ s) (kind : BootKind) :
    Keeps s₀ (State.bootDue s kind) := by
  unfold State.bootDue
  repeat first
    | (extract_lets +onlyGivenNames x; first
      | (refine (have hx : Keeps s₀ x := ?_; ?_); (on_goal 2 => (clear_value x; rename' x => y)); subst x)
      | (refine (have hx : Keeps s₀ x.1 := ?_; ?_); (on_goal 2 => (clear_value x; rename' x => y)); subst x)
      | (clear_value x; rename' x => y))
    | with_reducible first
      | assumption | apply State.p_keeps | apply State.bootKick_keeps
    | with_reducible refine Keeps.fields ?_ ?_ ?_ ?_
    | exact Or.inl rfl
    | rfl

theorem State.strapsShow_keeps {s₀ s : State} (h : Keeps s₀ s) : Keeps s₀ (State.strapsShow s) := by
  unfold State.strapsShow
  repeat first
    | (extract_lets +onlyGivenNames x; first
      | (refine (have hx : Keeps s₀ x := ?_; ?_); (on_goal 2 => (clear_value x; rename' x => y)); subst x)
      | (refine (have hx : Keeps s₀ x.1 := ?_; ?_); (on_goal 2 => (clear_value x; rename' x => y)); subst x)
      | (clear_value x; rename' x => y))
    | with_reducible first
      | assumption | apply Keeps.ite | apply State.p_keeps | apply State.pb_keeps

theorem State.strapsLatch_keeps {s₀ s : State} (h : Keeps s₀ s) : Keeps s₀ (State.strapsLatch s) := by
  unfold State.strapsLatch
  repeat first
    | (extract_lets +onlyGivenNames x; first
      | (refine (have hx : Keeps s₀ x := ?_; ?_); (on_goal 2 => (clear_value x; rename' x => y)); subst x)
      | (refine (have hx : Keeps s₀ x.1 := ?_; ?_); (on_goal 2 => (clear_value x; rename' x => y)); subst x)
      | (clear_value x; rename' x => y))
    | with_reducible first
      | assumption | apply State.p_keeps | apply State.pb_keeps | apply State.strapsShow_keeps

theorem State.strapPins_keeps {s₀ s : State} (h : Keeps s₀ s) (x : Straps) : Keeps s₀ (State.strapPins s x) := by
  unfold State.strapPins
  repeat first
    | with_reducible first
      | assumption
    | with_reducible refine Keeps.fields ?_ ?_ ?_ ?_
    | exact Or.inl rfl
    | rfl

theorem State.hardClear_keeps {s₀ s : State} (h : Keeps s₀ s) (r : Rank) (dram : Bool) :
    Keeps s₀ (State.hardClear s r dram) := by
  unfold State.hardClear
  extract_lets a b c
  have hc : Keeps s₀ c := State.regsClear_keeps (State.rehash_keeps (State.memKeep_keeps (State.coreBlank_keeps h) _ _) _) _
  clear_value c
  refine hc.trans ⟨rfl, le_refl _, rfl, fun k => ?_⟩
  obtain ⟨k1, k2, k3, k4, k5, k6⟩ := State.wf_iff.1 k
  exact State.wf_iff.2 ⟨k1, k2, k3, k4, k5, Nat.zero_le _⟩

theorem State.hold_keeps {s₀ s : State} (h : Keeps s₀ s) (mode : PowerMode) (cause : Nat) :
    Keeps s₀ (State.hold s mode cause) := by
  unfold State.hold
  repeat first
    | with_reducible first
      | assumption
    | with_reducible refine Keeps.fields ?_ ?_ ?_ ?_
    | exact Or.inl rfl
    | rfl

theorem State.hardEnd_keeps {s₀ s : State} (h : Keeps s₀ s) (cause : Nat) (dram : Bool) :
    Keeps s₀ (State.hardEnd s cause dram) := by
  unfold State.hardEnd
  repeat first
    | (extract_lets +onlyGivenNames x; first
      | (refine (have hx : Keeps s₀ x := ?_; ?_); (on_goal 2 => (clear_value x; rename' x => y)); subst x)
      | (refine (have hx : Keeps s₀ x.1 := ?_; ?_); (on_goal 2 => (clear_value x; rename' x => y)); subst x)
      | (clear_value x; rename' x => y))
    | with_reducible first
      | assumption | apply Keeps.ite | apply State.p_keeps | apply State.pb_keeps | apply State.incSat_keeps
      | apply State.bootDue_keeps | apply State.strapsLatch_keeps
    | with_reducible refine Keeps.fields ?_ ?_ ?_ ?_
    | exact Or.inl rfl
    | rfl

theorem State.releaseHeld_keeps {s₀ s : State} (h : Keeps s₀ s) : Keeps s₀ (State.releaseHeld s) := by
  unfold State.releaseHeld
  repeat first
    | with_reducible first
      | assumption | apply Keeps.ite | apply State.hardEnd_keeps

theorem powerOn_keeps {s₀ s : State} (h : Keeps s₀ s) (x : Straps) : Keeps s₀ (powerOn x s) := by
  unfold powerOn
  repeat first
    | (extract_lets +onlyGivenNames x; first
      | (refine (have hx : Keeps s₀ x := ?_; ?_); (on_goal 2 => (clear_value x; rename' x => y)); subst x)
      | (refine (have hx : Keeps s₀ x.1 := ?_; ?_); (on_goal 2 => (clear_value x; rename' x => y)); subst x)
      | (clear_value x; rename' x => y))
    | with_reducible first
      | assumption | apply Keeps.ite | apply State.p_keeps | apply State.strapPins_keeps
      | apply State.hardClear_keeps | apply State.hold_keeps | apply State.hardEnd_keeps
    | with_reducible refine Keeps.fields ?_ ?_ ?_ ?_
    | exact Or.inl rfl
    | rfl

theorem pinReset_keeps {s₀ s : State} (h : Keeps s₀ s) (low : Bool) (x : Straps) : Keeps s₀ (pinReset low x s) := by
  unfold pinReset
  repeat first
    | (extract_lets +onlyGivenNames x; first
      | (refine (have hx : Keeps s₀ x := ?_; ?_); (on_goal 2 => (clear_value x; rename' x => y)); subst x)
      | (refine (have hx : Keeps s₀ x.1 := ?_; ?_); (on_goal 2 => (clear_value x; rename' x => y)); subst x)
      | (clear_value x; rename' x => y))
    | with_reducible first
      | assumption | apply Keeps.ite | apply State.strapPins_keeps | apply State.hardClear_keeps
      | apply State.hold_keeps | apply State.releaseHeld_keeps
    | with_reducible refine Keeps.fields ?_ ?_ ?_ ?_
    | exact Or.inl rfl
    | rfl

theorem brownOut_keeps {s₀ s : State} (h : Keeps s₀ s) : Keeps s₀ (brownOut s) := by
  unfold brownOut
  repeat first
    | with_reducible first
      | assumption | apply Keeps.ite | apply State.p_keeps | apply State.hardClear_keeps | apply State.hold_keeps

theorem xtal_keeps {s₀ s : State} (h : Keeps s₀ s) (running : Bool) : Keeps s₀ (xtal running s) := by
  unfold xtal
  repeat first
    | (extract_lets +onlyGivenNames x; first
      | (refine (have hx : Keeps s₀ x := ?_; ?_); (on_goal 2 => (clear_value x; rename' x => y)); subst x)
      | (refine (have hx : Keeps s₀ x.1 := ?_; ?_); (on_goal 2 => (clear_value x; rename' x => y)); subst x)
      | (clear_value x; rename' x => y))
    | with_reducible first
      | assumption | apply Keeps.ite | apply State.hardClear_keeps | apply State.hold_keeps
      | apply State.releaseHeld_keeps
    | with_reducible refine Keeps.fields ?_ ?_ ?_ ?_
    | exact Or.inl rfl
    | rfl

theorem State.commandedReset_keeps {s₀ s : State} (h : Keeps s₀ s) (cause : Nat) (kept : Bool) :
    Keeps s₀ (State.commandedReset s cause kept) := by
  unfold State.commandedReset
  repeat first
    | with_reducible first
      | assumption | apply State.finishGranted_keeps | apply State.hardClear_keeps | apply State.hardEnd_keeps

theorem State.softReset_keeps {s₀ s : State} (h : Keeps s₀ s) (kept : Bool) : Keeps s₀ (State.softReset s kept) := by
  unfold State.softReset
  extract_lets a b c t d e f
  have hc : Keeps s₀ c := State.regsClear_keeps (State.memKeep_keeps (State.coreBlank_keeps (State.finishGranted_keeps
    (State.wdogKeep_keeps h))) true true) .s
  have hd : Keeps s₀ d := Keeps.timeReset hc _ _
  have he : Keeps s₀ e := Keeps.ite (State.finishRelease_keeps hd) hd
  clear_value e
  have hf : Keeps s₀ f := State.pb_keeps (State.p_keeps (State.clkRefresh_keeps he) _ _) _ _
  exact State.bootDue_keeps (Keeps.fields (State.aliveRefresh_keeps (State.incSat_keeps hf _)) rfl (.inl rfl) rfl) _

theorem swFullWrite_keeps {s₀ s : State} (h : Keeps s₀ s) (m : Nat) (v : Word) (kept : Bool) :
    Keeps s₀ (swFullWrite m v kept s) := by
  unfold swFullWrite
  repeat first
    | with_reducible first
      | assumption | apply Keeps.ite | apply State.logIgnored_keeps | apply State.softReset_keeps

theorem State.domainClear_keeps {s₀ s : State} (h : Keeps s₀ s) (lo hi : Nat) :
    Keeps s₀ (State.domainClear s lo hi) := by
  unfold State.domainClear
  repeat first
    | with_reducible first
      | assumption | apply State.resetRegs_keeps

theorem State.domainReset_keeps {s₀ s : State} (h : Keeps s₀ s) (code : Nat) (e : DecEnd) :
    Keeps s₀ (State.domainReset s code e) := by
  unfold State.domainReset
  repeat first
    | (extract_lets +onlyGivenNames x; first
      | (refine (have hx : Keeps s₀ x := ?_; ?_); (on_goal 2 => (clear_value x; rename' x => y)); subst x)
      | (refine (have hx : Keeps s₀ x.1 := ?_; ?_); (on_goal 2 => (clear_value x; rename' x => y)); subst x)
      | (clear_value x; rename' x => y))
    | with_reducible first
      | assumption | apply Keeps.ite | refine Keeps.fold ?_ (fun _ _ _ => ?_) _ | apply State.clkRefresh_keeps
      | apply State.masterReset_keeps | apply State.dpLink_keeps | apply State.dpAuto_keeps
      | apply State.tzlLink_keeps | apply State.tzlTry_keeps | apply State.portDown_keeps
      | apply State.decAbandon_keeps | apply State.frameDrop_keeps | apply State.encAbandon_keeps
      | apply State.tchStop_keeps | apply State.engReload_keeps | apply State.domainClear_keeps

theorem domainWrite_keeps {s₀ s : State} (h : Keeps s₀ s) (m : Nat) (v : Word) (e : DecEnd) :
    Keeps s₀ (domainWrite m v e s) := by
  unfold domainWrite
  repeat first
    | (extract_lets +onlyGivenNames x; first
      | (refine (have hx : Keeps s₀ x := ?_; ?_); (on_goal 2 => (clear_value x; rename' x => y)); subst x)
      | (refine (have hx : Keeps s₀ x.1 := ?_; ?_); (on_goal 2 => (clear_value x; rename' x => y)); subst x)
      | (clear_value x; rename' x => y))
    | with_reducible first
      | assumption | apply Keeps.ite | apply State.p_keeps | apply State.pb_keeps | apply State.logIgnored_keeps
      | apply State.writeFields_keeps | apply State.domainReset_keeps

theorem domainDone_keeps {s₀ s : State} (h : Keeps s₀ s) : Keeps s₀ (domainDone s) := by
  unfold domainDone
  repeat first
    | with_reducible first
      | assumption | apply Keeps.ite | apply State.p_keeps | apply State.pb_keeps

theorem custodianFrame_keeps {s₀ s : State} (h : Keeps s₀ s) (bs : List Byte) (kept : Bool) :
    Keeps s₀ (custodianFrame bs kept s) := by
  unfold custodianFrame
  repeat first
    | (extract_lets +onlyGivenNames x; first
      | (refine (have hx : Keeps s₀ x := ?_; ?_); (on_goal 2 => (clear_value x; rename' x => y)); subst x)
      | (refine (have hx : Keeps s₀ x.1 := ?_; ?_); (on_goal 2 => (clear_value x; rename' x => y)); subst x)
      | (clear_value x; rename' x => y))
    | with_reducible first
      | assumption | apply Keeps.ite | apply Keeps.itePair | apply State.cusReceive_keeps
      | apply State.commandedReset_keeps
    | dsimp -zeta only

end Sys2Proof.Machine
end

