-- ==== Sys2Proof/Laws/KeepPower.lean ====
section
/-! SUPPORT. What the operations of Machine/Power.lean keep. -/

set_option linter.all false

namespace Sys2Proof.Machine

theorem toBackup_keeps {s₀ s : State} (h : Keeps s₀ s) : Keeps s₀ (toBackup s) := by
  unfold toBackup
  repeat first
    | with_reducible first
      | assumption | apply Keeps.ite | apply State.pb_keeps | apply State.raise_keeps

theorem toMain_keeps {s₀ s : State} (h : Keeps s₀ s) : Keeps s₀ (toMain s) := by
  unfold toMain
  repeat first
    | with_reducible first
      | assumption | apply Keeps.ite | apply State.pb_keeps

theorem pwrWarn_keeps {s₀ s : State} (h : Keeps s₀ s) (r below : Nat) : Keeps s₀ (pwrWarn r below s) := by
  unfold pwrWarn
  repeat first
    | (extract_lets +onlyGivenNames x; first
      | (refine (have hx : Keeps s₀ x := ?_; ?_); (on_goal 2 => (clear_value x; rename' x => y)); subst x)
      | (refine (have hx : Keeps s₀ x.1 := ?_; ?_); (on_goal 2 => (clear_value x; rename' x => y)); subst x)
      | (clear_value x; rename' x => y))
    | with_reducible first
      | assumption | apply Keeps.ite | apply State.p_keeps | apply State.pb_keeps | apply State.incSat_keeps
      | apply State.raise_keeps
    | with_reducible refine Keeps.fields ?_ ?_ ?_ ?_
    | exact Or.inl rfl
    | rfl

theorem pwrRecover_keeps {s₀ s : State} (h : Keeps s₀ s) : Keeps s₀ (pwrRecover s) := by
  unfold pwrRecover
  repeat first
    | (extract_lets +onlyGivenNames x; first
      | (refine (have hx : Keeps s₀ x := ?_; ?_); (on_goal 2 => (clear_value x; rename' x => y)); subst x)
      | (refine (have hx : Keeps s₀ x.1 := ?_; ?_); (on_goal 2 => (clear_value x; rename' x => y)); subst x)
      | (clear_value x; rename' x => y))
    | with_reducible first
      | assumption | apply Keeps.ite | apply State.p_keeps | apply State.pb_keeps | apply State.raise_keeps
    | with_reducible refine Keeps.fields ?_ ?_ ?_ ?_
    | exact Or.inl rfl
    | rfl

theorem railWrite_keeps {s₀ s : State} (h : Keeps s₀ s) (m a : Nat) (v : Word) : Keeps s₀ (railWrite m a v s) := by
  unfold railWrite
  repeat first
    | (extract_lets +onlyGivenNames x; first
      | (refine (have hx : Keeps s₀ x := ?_; ?_); (on_goal 2 => (clear_value x; rename' x => y)); subst x)
      | (refine (have hx : Keeps s₀ x.1 := ?_; ?_); (on_goal 2 => (clear_value x; rename' x => y)); subst x)
      | (clear_value x; rename' x => y))
    | with_reducible first
      | assumption | apply Keeps.ite | apply State.logTaken_keeps | apply State.writeFields_keeps
    | with_reducible refine Keeps.fields ?_ ?_ ?_ ?_
    | exact Or.inl rfl
    | rfl

theorem State.setTempWord_keeps {s₀ s : State} (h : Keeps s₀ s) (i : Nat) (w : Word) :
    Keeps s₀ (State.setTempWord s i w) := by
  unfold State.setTempWord
  repeat first
    | with_reducible first
      | assumption | apply Keeps.ite | apply State.setReg_keeps
    | with_reducible refine Keeps.fields ?_ ?_ ?_ ?_
    | exact Or.inl rfl
    | rfl

theorem thermalReading_keeps {s₀ s : State} (h : Keeps s₀ s) (temps : List Int) :
    Keeps s₀ (thermalReading temps s) := by
  unfold thermalReading
  repeat first
    | (extract_lets +onlyGivenNames x; first
      | (refine (have hx : Keeps s₀ x := ?_; ?_); (on_goal 2 => (clear_value x; rename' x => y)); subst x)
      | (refine (have hx : Keeps s₀ x.1 := ?_; ?_); (on_goal 2 => (clear_value x; rename' x => y)); subst x)
      | (have z := fun a => x a; clear z; subst x)
      | (clear_value x; rename' x => y))
    | with_reducible first
      | assumption | apply Keeps.ite | refine Keeps.fold ?_ (fun _ _ _ => ?_) _ | apply State.p_keeps
      | apply State.pb_keeps | apply State.raise_keeps | apply State.setTempWord_keeps
    | split
    | with_reducible refine Keeps.fields ?_ ?_ ?_ ?_
    | exact Or.inl rfl
    | rfl

theorem wdogKick_keeps {s₀ s : State} (h : Keeps s₀ s) (v : Word) : Keeps s₀ (wdogKick v s) := by
  unfold wdogKick
  repeat first
    | with_reducible first
      | assumption | apply Keeps.ite | apply State.pb_keeps | apply State.wdogRestart_keeps

theorem wdogCtrlWrite_keeps {s₀ s : State} (h : Keeps s₀ s) (m : Nat) (v : Word) :
    Keeps s₀ (wdogCtrlWrite m v s) := by
  unfold wdogCtrlWrite
  repeat first
    | (extract_lets +onlyGivenNames x; first
      | (refine (have hx : Keeps s₀ x := ?_; ?_); (on_goal 2 => (clear_value x; rename' x => y)); subst x)
      | (refine (have hx : Keeps s₀ x.1 := ?_; ?_); (on_goal 2 => (clear_value x; rename' x => y)); subst x)
      | (clear_value x; rename' x => y))
    | with_reducible first
      | assumption | apply Keeps.ite | apply State.logIgnored_keeps | apply State.writeFields_keeps
      | apply State.wdogRestart_keeps

theorem wdogExpire_keeps {s₀ s : State} (h : Keeps s₀ s) (kept : Bool) : Keeps s₀ (wdogExpire kept s) := by
  unfold wdogExpire
  repeat first
    | (extract_lets +onlyGivenNames x; first
      | (refine (have hx : Keeps s₀ x := ?_; ?_); (on_goal 2 => (clear_value x; rename' x => y)); subst x)
      | (refine (have hx : Keeps s₀ x.1 := ?_; ?_); (on_goal 2 => (clear_value x; rename' x => y)); subst x)
      | (clear_value x; rename' x => y))
    | with_reducible first
      | assumption | apply Keeps.ite | apply State.pb_keeps | apply State.incSat_keeps | apply State.raise_keeps
      | apply State.wdogRestart_keeps | apply State.commandedReset_keeps

theorem pllLocked_keeps {s₀ s : State} (h : Keeps s₀ s) (k : Nat) : Keeps s₀ (pllLocked k s) := by
  unfold pllLocked
  repeat first
    | with_reducible first
      | assumption | apply Keeps.ite | apply State.p_keeps | apply State.quadLocked_keeps

theorem State.lockFalls_keeps {s₀ s : State} (h : Keeps s₀ s) (k : Nat) : Keeps s₀ (State.lockFalls s k) := by
  unfold State.lockFalls
  repeat first
    | with_reducible first
      | assumption | apply Keeps.ite | apply State.p_keeps

theorem pllFail_keeps {s₀ s : State} (h : Keeps s₀ s) (k : Nat) : Keeps s₀ (pllFail k s) := by
  unfold pllFail
  repeat first
    | with_reducible first
      | assumption | apply Keeps.ite | apply State.p_keeps | apply State.raise_keeps | apply State.lockFalls_keeps

theorem pllIdleStop_keeps {s₀ s : State} (h : Keeps s₀ s) (k : Nat) : Keeps s₀ (pllIdleStop k s) := by
  unfold pllIdleStop
  repeat first
    | with_reducible first
      | assumption | apply Keeps.ite | apply State.p_keeps | apply State.lockFalls_keeps
    | split
    | with_reducible refine Keeps.fields ?_ ?_ ?_ ?_
    | exact Or.inl rfl
    | rfl

theorem vpllWrite_keeps {s₀ s : State} (h : Keeps s₀ s) (m k a : Nat) (v : Word) :
    Keeps s₀ (vpllWrite m k a v s) := by
  unfold vpllWrite
  repeat first
    | (extract_lets +onlyGivenNames x; first
      | (refine (have hx : Keeps s₀ x := ?_; ?_); (on_goal 2 => (clear_value x; rename' x => y)); subst x)
      | (refine (have hx : Keeps s₀ x.1 := ?_; ?_); (on_goal 2 => (clear_value x; rename' x => y)); subst x)
      | (clear_value x; rename' x => y))
    | with_reducible first
      | assumption | apply Keeps.ite | apply State.setReg_keeps | apply State.clkRefresh_keeps
      | apply State.logIgnored_keeps | apply State.logTaken_keeps | apply State.writeFields_keeps
    | with_reducible refine Keeps.fields ?_ ?_ ?_ ?_
    | exact Or.inl rfl
    | rfl

theorem lpWrite_keeps {s₀ s : State} (h : Keeps s₀ s) (m : Nat) (v : Word) : Keeps s₀ (lpWrite m v s) := by
  unfold lpWrite
  repeat first
    | (extract_lets +onlyGivenNames x; first
      | (refine (have hx : Keeps s₀ x := ?_; ?_); (on_goal 2 => (clear_value x; rename' x => y)); subst x)
      | (refine (have hx : Keeps s₀ x.1 := ?_; ?_); (on_goal 2 => (clear_value x; rename' x => y)); subst x)
      | (clear_value x; rename' x => y))
    | with_reducible first
      | assumption | apply Keeps.ite | apply State.p_keeps | apply State.writeFields_keeps
    | with_reducible refine Keeps.fields ?_ ?_ ?_ ?_
    | exact Or.inl rfl
    | rfl

theorem lpEntered_keeps {s₀ s : State} (h : Keeps s₀ s) : Keeps s₀ (lpEntered s) := by
  unfold lpEntered
  repeat first
    | (extract_lets +onlyGivenNames x; first
      | (refine (have hx : Keeps s₀ x := ?_; ?_); (on_goal 2 => (clear_value x; rename' x => y)); subst x)
      | (refine (have hx : Keeps s₀ x.1 := ?_; ?_); (on_goal 2 => (clear_value x; rename' x => y)); subst x)
      | (have z : TimeState := x; clear z; rename' x => y)
      | (clear_value x; rename' x => y))
    | with_reducible first
      | assumption | apply Keeps.ite | refine Keeps.fold ?_ (fun _ _ _ => ?_) _ | apply State.p_keeps
      | apply State.tchStandby_keeps | apply State.aliveRefresh_keeps | apply State.wdogKeep_keeps
      | apply State.selfRefresh_keeps | apply State.memKeep_keeps | apply State.finishGranted_keeps
      | apply State.coreBlank_keeps
    | with_reducible refine Keeps.fields ?_ ?_ ?_ ?_
    | exact Or.inl rfl
    | rfl

theorem wake_keeps {s₀ s : State} (h : Keeps s₀ s) : Keeps s₀ (wake s) := by
  unfold wake
  repeat first
    | (extract_lets +onlyGivenNames x; first
      | (refine (have hx : Keeps s₀ x := ?_; ?_); (on_goal 2 => (clear_value x; rename' x => y)); subst x)
      | (refine (have hx : Keeps s₀ x.1 := ?_; ?_); (on_goal 2 => (clear_value x; rename' x => y)); subst x)
      | (have z : TimeState := x; clear z; rename' x => y)
      | (clear_value x; rename' x => y))
    | with_reducible first
      | assumption | apply Keeps.ite | apply State.p_keeps | apply State.pb_keeps | apply State.resetRegs_keeps
      | apply State.raise_keeps | apply State.rehash_keeps | apply State.bootDue_keeps
      | apply State.strapsShow_keeps
    | with_reducible refine Keeps.fields ?_ ?_ ?_ ?_
    | exact Or.inl rfl
    | exact Or.inr rfl
    | rfl

end Sys2Proof.Machine
end

