-- ==== Sys2Proof/Laws/KeepViews.lean ====
section
/-! SUPPORT. What the operations of Machine/Views.lean keep. -/

set_option linter.all false

namespace Sys2Proof.Machine

theorem errRead_keeps {s₀ s : State} (h : Keeps s₀ s) (m : Nat) : Keeps s₀ (errRead m s).1 := by
  unfold errRead
  split
  · exact State.setSnaps_keeps h _ _
  · next r rest he =>
    apply State.setSnaps_keeps
    refine h.trans ⟨rfl, le_refl _, rfl, fun k => ?_⟩
    obtain ⟨k1, k2, k3, k4, k5, k6⟩ := State.wf_iff.1 k
    rw [he, List.length_cons] at k5
    exact State.wf_iff.2 ⟨k1, k2, k3, k4, show rest.length ≤ 16 by omega, k6⟩

end Sys2Proof.Machine
end

