-- ==== Sys2Proof/Laws/KeepMailbox.lean ====
section
/-! SUPPORT. What the operations of Machine/Mailbox.lean keep. -/

set_option linter.all false

namespace Sys2Proof.Machine

theorem State.incOpen_keeps {s₀ s : State} (h : Keeps s₀ s) (f : FRef) : Keeps s₀ (State.incOpen s f) := by
  unfold State.incOpen
  repeat first
    | with_reducible first
      | assumption | apply Keeps.ite | apply State.inc_keeps | apply State.pFree_keeps

theorem State.authFail_keeps {s₀ s : State} (h : Keeps s₀ s) (source : Nat) :
    Keeps s₀ (State.authFail s source) := by
  unfold State.authFail
  repeat first
    | with_reducible first
      | assumption | apply State.raise_keeps | apply State.incOpen_keeps

theorem State.mgmtSend_keeps {s₀ s : State} (h : Keeps s₀ s) (head payload : List Byte) :
    Keeps s₀ (State.mgmtSend s head payload) := by
  unfold State.mgmtSend
  repeat first
    | (extract_lets +onlyGivenNames x; first
      | (refine (have hx : Keeps s₀ x := ?_; ?_); (on_goal 2 => (clear_value x; rename' x => y)); subst x)
      | (refine (have hx : Keeps s₀ x.1 := ?_; ?_); (on_goal 2 => (clear_value x; rename' x => y)); subst x)
      | (clear_value x; rename' x => y))
    | with_reducible first
      | assumption | apply State.drawn_keeps
    | with_reducible refine Keeps.fields ?_ ?_ ?_ ?_
    | exact Or.inl rfl
    | rfl

theorem State.mgmtReply_keeps {s₀ s : State} (h : Keeps s₀ s) (head payload : List Byte) :
    Keeps s₀ (State.mgmtReply s head payload) := by
  unfold State.mgmtReply
  repeat first
    | (extract_lets +onlyGivenNames x; first
      | (refine (have hx : Keeps s₀ x := ?_; ?_); (on_goal 2 => (clear_value x; rename' x => y)); subst x)
      | (refine (have hx : Keeps s₀ x.1 := ?_; ?_); (on_goal 2 => (clear_value x; rename' x => y)); subst x)
      | (clear_value x; rename' x => y))
    | with_reducible first
      | assumption | apply Keeps.ite | apply State.mgmtSend_keeps
    | with_reducible refine Keeps.fields ?_ ?_ ?_ ?_
    | exact Or.inl rfl
    | rfl

theorem State.mgmtAnswer_keeps {s₀ s : State} (h : Keeps s₀ s) : Keeps s₀ (State.mgmtAnswer s) := by
  unfold State.mgmtAnswer
  repeat first
    | (extract_lets +onlyGivenNames x; first
      | (refine (have hx : Keeps s₀ x := ?_; ?_); (on_goal 2 => (clear_value x; rename' x => y)); subst x)
      | (refine (have hx : Keeps s₀ x.1 := ?_; ?_); (on_goal 2 => (clear_value x; rename' x => y)); subst x)
      | (clear_value x; rename' x => y))
    | with_reducible first
      | assumption | apply State.p_keeps | apply State.mgmtReply_keeps
    | split
    | with_reducible refine Keeps.fields ?_ ?_ ?_ ?_
    | exact Or.inl rfl
    | rfl

theorem State.mbDone_keeps {s₀ s : State} (h : Keeps s₀ s) (k : Nat) : Keeps s₀ (State.mbDone s k) := by
  unfold State.mbDone
  repeat first
    | (extract_lets +onlyGivenNames x; first
      | (refine (have hx : Keeps s₀ x := ?_; ?_); (on_goal 2 => (clear_value x; rename' x => y)); subst x)
      | (refine (have hx : Keeps s₀ x.1 := ?_; ?_); (on_goal 2 => (clear_value x; rename' x => y)); subst x)
      | (clear_value x; rename' x => y))
    | with_reducible first
      | assumption | apply Keeps.ite | apply State.p_keeps | apply State.raise_keeps | apply State.mgmtAnswer_keeps

theorem State.mbWrites_keeps {s₀ s : State} (h : Keeps s₀ s) (n : Nat) : Keeps s₀ (State.mbWrites s n) := by
  unfold State.mbWrites
  repeat first
    | with_reducible first
      | assumption | apply Keeps.ite | refine Keeps.fold ?_ (fun _ _ _ => ?_) _ | apply State.ctlServed_keeps

theorem State.mbAnswer_keeps {s₀ s : State} (h : Keeps s₀ s) (k status : Nat) (data : List Nat) :
    Keeps s₀ (State.mbAnswer s k status data) := by
  unfold State.mbAnswer
  repeat first
    | (extract_lets +onlyGivenNames x; first
      | (refine (have hx : Keeps s₀ x := ?_; ?_); (on_goal 2 => (clear_value x; rename' x => y)); subst x)
      | (refine (have hx : Keeps s₀ x.1 := ?_; ?_); (on_goal 2 => (clear_value x; rename' x => y)); subst x)
      | (clear_value x; rename' x => y))
    | with_reducible first
      | assumption | apply Keeps.ite | refine Keeps.fold ?_ (fun _ _ _ => ?_) _ | apply State.p_keeps
      | apply State.mbDone_keeps | apply State.mbWrites_keeps
    | with_reducible refine Keeps.fields ?_ ?_ ?_ ?_
    | exact Or.inl rfl
    | rfl

theorem State.mbPosted_keeps {s₀ s : State} (h : Keeps s₀ s) (k : Nat) : Keeps s₀ (State.mbPosted s k) := by
  unfold State.mbPosted
  repeat first
    | (extract_lets +onlyGivenNames x; first
      | (refine (have hx : Keeps s₀ x := ?_; ?_); (on_goal 2 => (clear_value x; rename' x => y)); subst x)
      | (refine (have hx : Keeps s₀ x.1 := ?_; ?_); (on_goal 2 => (clear_value x; rename' x => y)); subst x)
      | (clear_value x; rename' x => y))
    | with_reducible first
      | assumption | apply Keeps.ite | apply State.p_keeps | apply State.mbAnswer_keeps

theorem slotCtrlWrite_keeps {s₀ s : State} (h : Keeps s₀ s) (m k : Nat) (v : Word) :
    Keeps s₀ (slotCtrlWrite m k v s) := by
  unfold slotCtrlWrite
  repeat first
    | (extract_lets +onlyGivenNames x; first
      | (refine (have hx : Keeps s₀ x := ?_; ?_); (on_goal 2 => (clear_value x; rename' x => y)); subst x)
      | (refine (have hx : Keeps s₀ x.1 := ?_; ?_); (on_goal 2 => (clear_value x; rename' x => y)); subst x)
      | (clear_value x; rename' x => y))
    | with_reducible first
      | assumption | apply Keeps.ite | apply State.p_keeps | apply State.mbDone_keeps | apply State.mbPosted_keeps
    | with_reducible refine Keeps.fields ?_ ?_ ?_ ?_
    | exact Or.inl rfl
    | rfl

theorem slotReqWrite_keeps {s₀ s : State} (h : Keeps s₀ s) (m a : Nat) (v : Word) :
    Keeps s₀ (slotReqWrite m a v s) := by
  unfold slotReqWrite
  repeat first
    | with_reducible first
      | assumption | apply Keeps.ite | apply State.logIgnored_keeps | apply State.writeFields_keeps

theorem State.mbAuth_keeps {s₀ s : State} (h : Keeps s₀ s) (k : Nat) : Keeps s₀ (State.mbAuth s k).1 := by
  unfold State.mbAuth
  repeat first
    | (extract_lets +onlyGivenNames x; first
      | (refine (have hx : Keeps s₀ x := ?_; ?_); (on_goal 2 => (clear_value x; rename' x => y)); subst x)
      | (refine (have hx : Keeps s₀ x.1 := ?_; ?_); (on_goal 2 => (clear_value x; rename' x => y)); subst x)
      | (clear_value x; rename' x => y))
    | with_reducible first
      | assumption | apply Keeps.ite | apply Keeps.itePair | apply State.inc_keeps | apply State.authFail_keeps
    | dsimp -zeta only

theorem mbRun_keeps {s₀ s : State} (h : Keeps s₀ s) (k cmd : Nat) {act : State → State}
    (ha : ∀ x, Keeps s₀ x → Keeps s₀ (act x)) : Keeps s₀ (mbRun k cmd act s) := by
  unfold mbRun
  repeat first
    | with_reducible first
      | assumption | apply Keeps.ite | apply ha

theorem mbRunAuth_keeps {s₀ s : State} (h : Keeps s₀ s) (k cmd : Nat) {act : State → State}
    (ha : ∀ x, Keeps s₀ x → Keeps s₀ (act x)) : Keeps s₀ (mbRunAuth k cmd act s) := by
  unfold mbRunAuth
  repeat first
    | (extract_lets +onlyGivenNames x; first
      | (refine (have hx : Keeps s₀ x := ?_; ?_); (on_goal 2 => (clear_value x; rename' x => y)); subst x)
      | (refine (have hx : Keeps s₀ x.1 := ?_; ?_); (on_goal 2 => (clear_value x; rename' x => y)); subst x)
      | (clear_value x; rename' x => y))
    | with_reducible first
      | assumption | apply Keeps.ite | apply Keeps.itePair | apply ha | apply State.mbAnswer_keeps
      | apply State.mbAuth_keeps
    | dsimp -zeta only

theorem mbStatus_keeps {s₀ s : State} (h : Keeps s₀ s) (k : Nat) : Keeps s₀ (mbStatus k s) := by
  unfold mbStatus
  repeat first
    | (extract_lets +onlyGivenNames x; first
      | (refine (have hx : Keeps s₀ x := ?_; ?_); (on_goal 2 => (clear_value x; rename' x => y)); subst x)
      | (refine (have hx : Keeps s₀ x.1 := ?_; ?_); (on_goal 2 => (clear_value x; rename' x => y)); subst x)
      | (have z := fun a => x a; clear z; subst x)
      | (clear_value x; rename' x => y))
    | with_reducible first
      | assumption | apply State.mbAnswer_keeps

theorem mbLoadPage_keeps {s₀ s : State} (h : Keeps s₀ s) (k : Nat) : Keeps s₀ (mbLoadPage k s) := by
  unfold mbLoadPage
  repeat first
    | (extract_lets +onlyGivenNames x; first
      | (refine (have hx : Keeps s₀ x := ?_; ?_); (on_goal 2 => (clear_value x; rename' x => y)); subst x)
      | (refine (have hx : Keeps s₀ x.1 := ?_; ?_); (on_goal 2 => (clear_value x; rename' x => y)); subst x)
      | (clear_value x; rename' x => y))
    | with_reducible first
      | assumption | apply Keeps.ite | apply Keeps.itePair | apply State.dmaWrite_keeps | apply State.dmaRead_keeps
      | apply State.mbAnswer_keeps
    | dsimp -zeta only

theorem mbValidate_keeps {s₀ s : State} (h : Keeps s₀ s) (k : Nat) : Keeps s₀ (mbValidate k s) := by
  unfold mbValidate
  repeat first
    | (extract_lets +onlyGivenNames x; first
      | (refine (have hx : Keeps s₀ x := ?_; ?_); (on_goal 2 => (clear_value x; rename' x => y)); subst x)
      | (refine (have hx : Keeps s₀ x.1 := ?_; ?_); (on_goal 2 => (clear_value x; rename' x => y)); subst x)
      | (clear_value x; rename' x => y))
    | with_reducible first
      | assumption | apply Keeps.ite | apply State.validateStart_keeps | apply State.validated_keeps
      | apply State.mbWrites_keeps | apply State.mbAnswer_keeps

theorem mbKeystone_keeps {s₀ s : State} (h : Keeps s₀ s) (k : Nat) : Keeps s₀ (mbKeystone k s) := by
  unfold mbKeystone
  repeat first
    | (extract_lets +onlyGivenNames x; first
      | (refine (have hx : Keeps s₀ x := ?_; ?_); (on_goal 2 => (clear_value x; rename' x => y)); subst x)
      | (refine (have hx : Keeps s₀ x.1 := ?_; ?_); (on_goal 2 => (clear_value x; rename' x => y)); subst x)
      | (clear_value x; rename' x => y))
    | with_reducible first
      | assumption | apply Keeps.ite | apply State.p_keeps | apply State.keyCtrl_keeps | apply State.mbWrites_keeps
      | apply State.mbAnswer_keeps

theorem State.mbPost_keeps {s₀ s : State} (h : Keeps s₀ s) (k kind window arg0 arg1 : Nat) :
    Keeps s₀ (State.mbPost s k kind window arg0 arg1) := by
  unfold State.mbPost
  repeat first
    | (extract_lets +onlyGivenNames x; first
      | (refine (have hx : Keeps s₀ x := ?_; ?_); (on_goal 2 => (clear_value x; rename' x => y)); subst x)
      | (refine (have hx : Keeps s₀ x.1 := ?_; ?_); (on_goal 2 => (clear_value x; rename' x => y)); subst x)
      | (clear_value x; rename' x => y))
    | with_reducible first
      | assumption | apply State.p_keeps | apply State.amendPost_keeps | apply State.mbWrites_keeps
      | apply State.mbAnswer_keeps

theorem mbAmend_keeps {s₀ s : State} (h : Keeps s₀ s) (k : Nat) : Keeps s₀ (mbAmend k s) := by
  unfold mbAmend
  repeat first
    | (extract_lets +onlyGivenNames x; first
      | (refine (have hx : Keeps s₀ x := ?_; ?_); (on_goal 2 => (clear_value x; rename' x => y)); subst x)
      | (refine (have hx : Keeps s₀ x.1 := ?_; ?_); (on_goal 2 => (clear_value x; rename' x => y)); subst x)
      | (clear_value x; rename' x => y))
    | with_reducible first
      | assumption | apply Keeps.ite | apply State.mbAnswer_keeps | apply State.mbPost_keeps

theorem State.mbPresetEnd_keeps {s₀ s : State} (h : Keeps s₀ s) (k : Nat) : Keeps s₀ (State.mbPresetEnd s k) := by
  unfold State.mbPresetEnd
  repeat first
    | with_reducible first
      | assumption | apply State.mbAnswer_keeps
    | with_reducible refine Keeps.fields ?_ ?_ ?_ ?_
    | exact Or.inl rfl
    | rfl

theorem mbPreset_keeps {s₀ s : State} (h : Keeps s₀ s) (k : Nat) : Keeps s₀ (mbPreset k s) := by
  unfold mbPreset
  repeat first
    | (extract_lets +onlyGivenNames x; first
      | (refine (have hx : Keeps s₀ x := ?_; ?_); (on_goal 2 => (clear_value x; rename' x => y)); subst x)
      | (refine (have hx : Keeps s₀ x.1 := ?_; ?_); (on_goal 2 => (clear_value x; rename' x => y)); subst x)
      | (have z := fun a => x a; clear z; subst x)
      | (clear_value x; rename' x => y))
    | with_reducible first
      | assumption | apply Keeps.ite | apply presetCtrlWrite_keeps | apply State.mbWrites_keeps
      | apply State.mbPresetEnd_keeps
    | with_reducible refine Keeps.fields ?_ ?_ ?_ ?_
    | exact Or.inl rfl
    | rfl

theorem mbSetPlacard_keeps {s₀ s : State} (h : Keeps s₀ s) (k : Nat) : Keeps s₀ (mbSetPlacard k s) := by
  unfold mbSetPlacard
  repeat first
    | (extract_lets +onlyGivenNames x; first
      | (refine (have hx : Keeps s₀ x := ?_; ?_); (on_goal 2 => (clear_value x; rename' x => y)); subst x)
      | (refine (have hx : Keeps s₀ x.1 := ?_; ?_); (on_goal 2 => (clear_value x; rename' x => y)); subst x)
      | (clear_value x; rename' x => y))
    | with_reducible first
      | assumption | apply Keeps.ite | apply Keeps.itePair | apply State.drawn_keeps | apply State.dmaWrite_keeps
      | apply State.mbAnswer_keeps | apply State.mbPost_keeps
    | dsimp -zeta only

theorem mbVitrine_keeps {s₀ s : State} (h : Keeps s₀ s) (k : Nat) : Keeps s₀ (mbVitrine k s) := by
  unfold mbVitrine
  repeat first
    | (extract_lets +onlyGivenNames x; first
      | (refine (have hx : Keeps s₀ x := ?_; ?_); (on_goal 2 => (clear_value x; rename' x => y)); subst x)
      | (refine (have hx : Keeps s₀ x.1 := ?_; ?_); (on_goal 2 => (clear_value x; rename' x => y)); subst x)
      | (clear_value x; rename' x => y))
    | with_reducible first
      | assumption | apply Keeps.ite | apply Keeps.itePair | apply State.dmaWrite_keeps | apply State.dmaRead_keeps
      | apply State.mbAnswer_keeps
    | dsimp -zeta only

theorem mbSourceBind_keeps {s₀ s : State} (h : Keeps s₀ s) (k : Nat) : Keeps s₀ (mbSourceBind k s) := by
  unfold mbSourceBind
  repeat first
    | (extract_lets +onlyGivenNames x; first
      | (refine (have hx : Keeps s₀ x := ?_; ?_); (on_goal 2 => (clear_value x; rename' x => y)); subst x)
      | (refine (have hx : Keeps s₀ x.1 := ?_; ?_); (on_goal 2 => (clear_value x; rename' x => y)); subst x)
      | (have z := fun a => x a; clear z; subst x)
      | (clear_value x; rename' x => y))
    | with_reducible first
      | assumption | apply Keeps.ite | refine Keeps.fold ?_ (fun _ _ _ => ?_) _ | apply State.writeFields_keeps
      | apply srcCtrlWrite_keeps | apply State.mbWrites_keeps | apply State.mbAnswer_keeps

theorem mbRelease_keeps {s₀ s : State} (h : Keeps s₀ s) (k : Nat) : Keeps s₀ (mbRelease k s) := by
  unfold mbRelease
  repeat first
    | (extract_lets +onlyGivenNames x; first
      | (refine (have hx : Keeps s₀ x := ?_; ?_); (on_goal 2 => (clear_value x; rename' x => y)); subst x)
      | (refine (have hx : Keeps s₀ x.1 := ?_; ?_); (on_goal 2 => (clear_value x; rename' x => y)); subst x)
      | (clear_value x; rename' x => y))
    | with_reducible first
      | assumption | apply Keeps.ite | apply releaseWrite_keeps | apply State.mbWrites_keeps
      | apply State.mbAnswer_keeps

theorem mbFlashWrite_keeps {s₀ s : State} (h : Keeps s₀ s) (k : Nat) : Keeps s₀ (mbFlashWrite k s) := by
  unfold mbFlashWrite
  repeat first
    | (extract_lets +onlyGivenNames x; first
      | (refine (have hx : Keeps s₀ x := ?_; ?_); (on_goal 2 => (clear_value x; rename' x => y)); subst x)
      | (refine (have hx : Keeps s₀ x.1 := ?_; ?_); (on_goal 2 => (clear_value x; rename' x => y)); subst x)
      | (clear_value x; rename' x => y))
    | with_reducible first
      | assumption | apply Keeps.ite | apply Keeps.itePair | apply State.p_keeps | apply State.pb_keeps
      | apply State.dmaRead_keeps | apply State.mbAnswer_keeps
    | dsimp -zeta only
    | split
    | with_reducible refine Keeps.fields ?_ ?_ ?_ ?_
    | exact Or.inl rfl
    | rfl

theorem flashDone_keeps {s₀ s : State} (h : Keeps s₀ s) (result : Nat) : Keeps s₀ (flashDone result s) := by
  unfold flashDone
  repeat first
    | (extract_lets +onlyGivenNames x; first
      | (refine (have hx : Keeps s₀ x := ?_; ?_); (on_goal 2 => (clear_value x; rename' x => y)); subst x)
      | (refine (have hx : Keeps s₀ x.1 := ?_; ?_); (on_goal 2 => (clear_value x; rename' x => y)); subst x)
      | (clear_value x; rename' x => y))
    | with_reducible first
      | assumption | apply Keeps.ite | apply Keeps.flashSet | apply State.p_keeps | apply State.pb_keeps
      | apply State.drawn_keeps | apply State.raise_keeps | apply State.mbAnswer_keeps
    | split
    | with_reducible refine Keeps.fields ?_ ?_ ?_ ?_
    | exact Or.inl rfl
    | rfl

theorem mbImageSelect_keeps {s₀ s : State} (h : Keeps s₀ s) (k : Nat) : Keeps s₀ (mbImageSelect k s) := by
  unfold mbImageSelect
  repeat first
    | with_reducible first
      | assumption | apply Keeps.ite | apply State.p_keeps | apply State.mbWrites_keeps | apply State.mbAnswer_keeps

theorem mbReset_keeps {s₀ s : State} (h : Keeps s₀ s) (k : Nat) (kept : Bool) : Keeps s₀ (mbReset k kept s) := by
  unfold mbReset
  repeat first
    | with_reducible first
      | assumption | apply Keeps.ite | apply State.softReset_keeps | apply State.mbAnswer_keeps

theorem fuseGo_keeps {s₀ s : State} (h : Keeps s₀ s) (v : Word) : Keeps s₀ (fuseGo v s) := by
  unfold fuseGo
  repeat first
    | with_reducible first
      | assumption | apply Keeps.ite | apply State.p_keeps
    | with_reducible refine Keeps.fields ?_ ?_ ?_ ?_
    | exact Or.inl rfl
    | rfl

theorem fuseDone_keeps {s₀ s : State} (h : Keeps s₀ s) (ok : Bool) : Keeps s₀ (fuseDone ok s) := by
  unfold fuseDone
  repeat first
    | (extract_lets +onlyGivenNames x; first
      | (refine (have hx : Keeps s₀ x := ?_; ?_); (on_goal 2 => (clear_value x; rename' x => y)); subst x)
      | (refine (have hx : Keeps s₀ x.1 := ?_; ?_); (on_goal 2 => (clear_value x; rename' x => y)); subst x)
      | (have z : PinState := x; clear z; rename' x => y)
      | (clear_value x; rename' x => y))
    | with_reducible first
      | assumption | apply Keeps.ite | apply State.p_keeps | apply State.drawn_keeps
    | split
    | with_reducible refine Keeps.fields ?_ ?_ ?_ ?_
    | exact Or.inl rfl
    | rfl

end Sys2Proof.Machine
end

