-- ==== Sys2Proof/Laws/KeepBus.lean ====
section
/-! SUPPORT. What the operations of Machine/Bus.lean keep. -/

set_option linter.all false

namespace Sys2Proof.Machine

theorem imageDataWrite_keeps {s₀ s : State} (h : Keeps s₀ s) (m : Nat) (v : Word) :
    Keeps s₀ (imageDataWrite m v s) := by
  unfold imageDataWrite
  repeat first
    | with_reducible first
      | assumption | apply Keeps.ite | apply State.logIgnored_keeps | apply State.imageAdd_keeps

theorem sysWrite_keeps {s₀ s : State} (h : Keeps s₀ s) (m a : Nat) (v : Word) : Keeps s₀ (sysWrite m a v s) := by
  unfold sysWrite
  repeat first
    | with_reducible first
      | assumption | apply Keeps.ite | apply State.drawn_keeps | apply State.writeFields_keeps
      | apply swFullWrite_keeps | apply domainWrite_keeps | apply railWrite_keeps | apply wdogKick_keeps
      | apply wdogCtrlWrite_keeps | apply vpllWrite_keeps | apply lpWrite_keeps

theorem evtWrite_keeps {s₀ s : State} (h : Keeps s₀ s) (m a : Nat) (v : Word) : Keeps s₀ (evtWrite m a v s) := by
  unfold evtWrite
  repeat first
    | (extract_lets +onlyGivenNames x; first
      | (refine (have hx : Keeps s₀ x := ?_; ?_); (on_goal 2 => (clear_value x; rename' x => y)); subst x)
      | (refine (have hx : Keeps s₀ x.1 := ?_; ?_); (on_goal 2 => (clear_value x; rename' x => y)); subst x)
      | (clear_value x; rename' x => y))
    | with_reducible first
      | assumption | apply Keeps.ite | apply State.raise_keeps | apply State.writeFields_keeps
      | apply statusClear_keeps | apply logEnable_keeps | apply logRingWrite_keeps | apply State.gpioSettle_keeps

theorem timeWrite_keeps {s₀ s : State} (h : Keeps s₀ s) (m a : Nat) (v : Word) : Keeps s₀ (timeWrite m a v s) := by
  unfold timeWrite
  repeat first
    | with_reducible first
      | assumption | apply Keeps.ite | apply State.p_keeps | apply State.writeFields_keeps
      | apply State.kicked_keeps | apply rateWrite_keeps | apply stateRequest_keeps | apply timeCtrlWrite_keeps
      | apply stepWrite_keeps

theorem cusWrite_keeps {s₀ s : State} (h : Keeps s₀ s) (m a : Nat) (v : Word) : Keeps s₀ (cusWrite m a v s) := by
  unfold cusWrite
  repeat first
    | with_reducible first
      | assumption | apply Keeps.ite | apply State.writeFields_keeps | apply aliveKick_keeps
      | apply cusCtrlWrite_keeps | apply roleRequest_keeps | apply peerGenWrite_keeps | apply compatWrite_keeps

theorem bootWrite_keeps {s₀ s : State} (h : Keeps s₀ s) (m a : Nat) (v : Word) : Keeps s₀ (bootWrite m a v s) := by
  unfold bootWrite
  repeat first
    | (extract_lets +onlyGivenNames x; first
      | (refine (have hx : Keeps s₀ x := ?_; ?_); (on_goal 2 => (clear_value x; rename' x => y)); subst x)
      | (refine (have hx : Keeps s₀ x.1 := ?_; ?_); (on_goal 2 => (clear_value x; rename' x => y)); subst x)
      | (clear_value x; rename' x => y))
    | with_reducible first
      | assumption | apply Keeps.ite | apply State.setReg_keeps | apply State.writeFields_keeps
      | apply slotCtrlWrite_keeps | apply slotReqWrite_keeps | apply fuseGo_keeps | apply imageDataWrite_keeps

theorem seqWrite_keeps {s₀ s : State} (h : Keeps s₀ s) (m a : Nat) (v : Word) : Keeps s₀ (seqWrite m a v s) := by
  unfold seqWrite
  repeat first
    | with_reducible first
      | assumption | apply Keeps.ite | apply State.writeFields_keeps | apply State.validateStart_keeps
      | apply State.keyCtrl_keeps | apply presetCtrlWrite_keeps | apply presetGpioWrite_keeps
      | apply amdCmdWrite_keeps

theorem ingWrite_keeps {s₀ s : State} (h : Keeps s₀ s) (m a : Nat) (v : Word) : Keeps s₀ (ingWrite m a v s) := by
  unfold ingWrite
  repeat first
    | with_reducible first
      | assumption | apply Keeps.ite | apply State.writeFields_keeps | apply hostReady_keeps
      | apply srcCtrlWrite_keeps

theorem decWrite_keeps {s₀ s : State} (h : Keeps s₀ s) (m a : Nat) (v : Word) : Keeps s₀ (decWrite m a v s) := by
  unfold decWrite
  repeat first
    | (extract_lets +onlyGivenNames x; first
      | (refine (have hx : Keeps s₀ x := ?_; ?_); (on_goal 2 => (clear_value x; rename' x => y)); subst x)
      | (refine (have hx : Keeps s₀ x.1 := ?_; ?_); (on_goal 2 => (clear_value x; rename' x => y)); subst x)
      | (clear_value x; rename' x => y))
    | with_reducible first
      | assumption | apply Keeps.ite | apply State.writeFields_keeps | apply decCtrlWrite_keeps
      | apply saveBaseWrite_keeps | apply decLoadWrite_keeps

theorem encWrite_keeps {s₀ s : State} (h : Keeps s₀ s) (m a : Nat) (v : Word) : Keeps s₀ (encWrite m a v s) := by
  unfold encWrite
  repeat first
    | (extract_lets +onlyGivenNames x; first
      | (refine (have hx : Keeps s₀ x := ?_; ?_); (on_goal 2 => (clear_value x; rename' x => y)); subst x)
      | (refine (have hx : Keeps s₀ x.1 := ?_; ?_); (on_goal 2 => (clear_value x; rename' x => y)); subst x)
      | (clear_value x; rename' x => y))
    | with_reducible first
      | assumption | apply Keeps.ite | apply State.writeFields_keeps | apply strCtrlWrite_keeps
      | apply encPipeWrite_keeps | apply encSaveWrite_keeps

theorem capWrite_keeps {s₀ s : State} (h : Keeps s₀ s) (m a : Nat) (v : Word) : Keeps s₀ (capWrite m a v s) := by
  unfold capWrite
  repeat first
    | (extract_lets +onlyGivenNames x; first
      | (refine (have hx : Keeps s₀ x := ?_; ?_); (on_goal 2 => (clear_value x; rename' x => y)); subst x)
      | (refine (have hx : Keeps s₀ x.1 := ?_; ?_); (on_goal 2 => (clear_value x; rename' x => y)); subst x)
      | (clear_value x; rename' x => y))
    | with_reducible first
      | assumption | apply Keeps.ite | apply State.p_keeps | apply State.writeFields_keeps
      | apply ctxCtrlWrite_keeps | apply statsWrite_keeps | apply capCtrlWrite_keeps | apply capPeakClear_keeps

theorem headWrite_keeps {s₀ s : State} (h : Keeps s₀ s) (m a : Nat) (v : Word) : Keeps s₀ (headWrite m a v s) := by
  unfold headWrite
  repeat first
    | (extract_lets +onlyGivenNames x; first
      | (refine (have hx : Keeps s₀ x := ?_; ?_); (on_goal 2 => (clear_value x; rename' x => y)); subst x)
      | (refine (have hx : Keeps s₀ x.1 := ?_; ?_); (on_goal 2 => (clear_value x; rename' x => y)); subst x)
      | (clear_value x; rename' x => y))
    | with_reducible first
      | assumption | apply Keeps.ite | apply State.writeFields_keeps | apply headCtrlWrite_keeps
      | apply headEditWrite_keeps | apply clkSelWrite_keeps | apply headCommit_keeps | apply otabWrite_keeps
      | apply fifoMinWrite_keeps

theorem netWrite_keeps {s₀ s : State} (h : Keeps s₀ s) (m a : Nat) (v : Word) : Keeps s₀ (netWrite m a v s) := by
  unfold netWrite
  repeat first
    | with_reducible first
      | assumption | apply Keeps.ite | apply State.writeFields_keeps | apply releaseWrite_keeps
      | apply relRingWrite_keeps | apply netCtrlWrite_keeps | apply mdioWrite_keeps

theorem laneWrite_keeps {s₀ s : State} (h : Keeps s₀ s) (m a : Nat) (v : Word) : Keeps s₀ (laneWrite m a v s) := by
  unfold laneWrite
  repeat first
    | (extract_lets +onlyGivenNames x; first
      | (refine (have hx : Keeps s₀ x := ?_; ?_); (on_goal 2 => (clear_value x; rename' x => y)); subst x)
      | (refine (have hx : Keeps s₀ x.1 := ?_; ?_); (on_goal 2 => (clear_value x; rename' x => y)); subst x)
      | (clear_value x; rename' x => y))
    | with_reducible first
      | assumption | apply Keeps.ite | apply State.writeFields_keeps | apply firWrite_keeps
      | apply laneCtrlWrite_keeps | apply quadCtrlWrite_keeps | apply prbsCtrlWrite_keeps | apply prbsClear_keeps

theorem linkWrite_keeps {s₀ s : State} (h : Keeps s₀ s) (m a : Nat) (v : Word) : Keeps s₀ (linkWrite m a v s) := by
  unfold linkWrite
  repeat first
    | (extract_lets +onlyGivenNames x; first
      | (refine (have hx : Keeps s₀ x := ?_; ?_); (on_goal 2 => (clear_value x; rename' x => y)); subst x)
      | (refine (have hx : Keeps s₀ x.1 := ?_; ?_); (on_goal 2 => (clear_value x; rename' x => y)); subst x)
      | (clear_value x; rename' x => y))
    | with_reducible first
      | assumption | apply Keeps.ite | apply State.writeFields_keeps | apply auxCmdWrite_keeps
      | apply dpCtrlWrite_keeps | apply tzlCtrlWrite_keeps | apply ctrlSend_keeps | apply ctrlDataWrite_keeps
      | apply statRingWrite_keeps

theorem dmcWrite_keeps {s₀ s : State} (h : Keeps s₀ s) (m a : Nat) (v : Word) : Keeps s₀ (dmcWrite m a v s) := by
  unfold dmcWrite
  repeat first
    | with_reducible first
      | assumption | apply Keeps.ite | apply State.writeFields_keeps | apply fspWrite_keeps | apply pprWrite_keeps
      | apply dmcCtrlWrite_keeps

theorem blockWrite_keeps {s₀ s : State} (h : Keeps s₀ s) (m a : Nat) (v : Word) :
    Keeps s₀ (blockWrite m a v s) := by
  unfold blockWrite
  repeat first
    | with_reducible first
      | assumption | apply Keeps.ite | apply State.writeFields_keeps | apply labelScaleWrite_keeps
      | apply tchCtrlWrite_keeps | apply engCtrlWrite_keeps | apply sysWrite_keeps | apply evtWrite_keeps
      | apply timeWrite_keeps | apply cusWrite_keeps | apply bootWrite_keeps | apply seqWrite_keeps
      | apply ingWrite_keeps | apply decWrite_keeps | apply encWrite_keeps | apply capWrite_keeps
      | apply headWrite_keeps | apply netWrite_keeps | apply laneWrite_keeps | apply linkWrite_keeps
      | apply dmcWrite_keeps

theorem wordWrite_keeps {s₀ s : State} (h : Keeps s₀ s) (m a : Nat) (v : Word) : Keeps s₀ (wordWrite m a v s) := by
  unfold wordWrite
  repeat first
    | (extract_lets +onlyGivenNames x; first
      | (refine (have hx : Keeps s₀ x := ?_; ?_); (on_goal 2 => (clear_value x; rename' x => y)); subst x)
      | (refine (have hx : Keeps s₀ x.1 := ?_; ?_); (on_goal 2 => (clear_value x; rename' x => y)); subst x)
      | (have z : BusState := x; clear z; rename' x => y)
      | (clear_value x; rename' x => y))
    | with_reducible first
      | assumption | apply Keeps.ite | refine Keeps.fold ?_ (fun _ _ _ => ?_) _ | apply State.writeFields_keeps
      | apply blockWrite_keeps
    | with_reducible refine Keeps.fields ?_ ?_ ?_ ?_
    | exact Or.inl rfl
    | rfl

theorem regWrite_keeps {s₀ s : State} (h : Keeps s₀ s) (m a : Nat) (v : Word) : Keeps s₀ (regWrite m a v s) := by
  unfold regWrite
  repeat first
    | with_reducible first
      | assumption | apply Keeps.ite | refine State.ctlWrite_keeps ?_ _ _ _ (fun _ _ => ?_)
      | apply State.busFail_keeps | apply State.ctlQueue_keeps | apply State.respond_keeps | apply wordWrite_keeps

theorem eccCorrRead_keeps {s₀ s : State} (h : Keeps s₀ s) (a : Nat) : Keeps s₀ (eccCorrRead a s).1 := by
  unfold eccCorrRead
  repeat first
    | (extract_lets +onlyGivenNames x; first
      | (refine (have hx : Keeps s₀ x := ?_; ?_); (on_goal 2 => (clear_value x; rename' x => y)); subst x)
      | (refine (have hx : Keeps s₀ x.1 := ?_; ?_); (on_goal 2 => (clear_value x; rename' x => y)); subst x)
      | (clear_value x; rename' x => y))
    | with_reducible first
      | assumption | apply State.incSatBy_keeps | apply State.drawn_keeps
    | dsimp -zeta only

theorem laneSeen_keeps {s₀ s : State} (h : Keeps s₀ s) (a : Nat) : Keeps s₀ (laneSeen a s) := by
  unfold laneSeen
  repeat first
    | (extract_lets +onlyGivenNames x; first
      | (refine (have hx : Keeps s₀ x := ?_; ?_); (on_goal 2 => (clear_value x; rename' x => y)); subst x)
      | (refine (have hx : Keeps s₀ x.1 := ?_; ?_); (on_goal 2 => (clear_value x; rename' x => y)); subst x)
      | (clear_value x; rename' x => y))
    | with_reducible first
      | assumption | apply Keeps.ite | apply State.incBy_keeps | apply State.drawn_keeps
      | apply State.prbsSettle_keeps | apply State.eqSettle_keeps

theorem queueSeen_keeps {s₀ s : State} (h : Keeps s₀ s) (k : Nat) : Keeps s₀ (queueSeen k s) := by
  unfold queueSeen
  repeat first
    | (extract_lets +onlyGivenNames x; first
      | (refine (have hx : Keeps s₀ x := ?_; ?_); (on_goal 2 => (clear_value x; rename' x => y)); subst x)
      | (refine (have hx : Keeps s₀ x.1 := ?_; ?_); (on_goal 2 => (clear_value x; rename' x => y)); subst x)
      | (clear_value x; rename' x => y))
    | with_reducible first
      | assumption | apply Keeps.ite | apply State.setQueue_keeps | apply State.codecTraffic_keeps
      | apply State.stallTick_keeps

theorem wordRead_keeps {s₀ s : State} (h : Keeps s₀ s) (m a : Nat) : Keeps s₀ (wordRead m a s).1 := by
  unfold wordRead
  repeat first
    | (extract_lets +onlyGivenNames x; first
      | (refine (have hx : Keeps s₀ x := ?_; ?_); (on_goal 2 => (clear_value x; rename' x => y)); subst x)
      | (refine (have hx : Keeps s₀ x.1 := ?_; ?_); (on_goal 2 => (clear_value x; rename' x => y)); subst x)
      | (clear_value x; rename' x => y))
    | with_reducible first
      | assumption | apply Keeps.ite | apply Keeps.itePair | apply State.drawn_keeps | apply State.setSnaps_keeps
      | apply stampRead_keeps | apply txqRead_keeps | apply State.gpioSettle_keeps | apply otabRead_keeps
      | apply decFaultRead_keeps | apply encFaultRead_keeps | apply errRead_keeps | apply eccCorrRead_keeps
      | apply laneSeen_keeps | apply queueSeen_keeps
    | dsimp -zeta only

theorem regRead_keeps {s₀ s : State} (h : Keeps s₀ s) (m a : Nat) : Keeps s₀ (regRead m a s) := by
  unfold regRead
  repeat first
    | with_reducible first
      | assumption | apply Keeps.ite | apply Keeps.itePair | apply State.busFail_keeps | apply State.ctlQueue_keeps
      | apply State.respond_keeps | apply State.ctlRead_keeps | apply wordRead_keeps
    | dsimp -zeta only

end Sys2Proof.Machine
end

