-- ==== Sys2Proof/Laws/KeepBoot.lean ====
section
/-! SUPPORT. What the operations of Machine/Boot.lean keep. -/

set_option linter.all false

namespace Sys2Proof.Machine

theorem State.refuseDone_keeps {s₀ s : State} (h : Keeps s₀ s) (reason : Nat) :
    Keeps s₀ (State.refuseDone s reason) := by
  unfold State.refuseDone
  repeat first
    | (extract_lets +onlyGivenNames x; first
      | (refine (have hx : Keeps s₀ x := ?_; ?_); (on_goal 2 => (clear_value x; rename' x => y)); subst x)
      | (refine (have hx : Keeps s₀ x.1 := ?_; ?_); (on_goal 2 => (clear_value x; rename' x => y)); subst x)
      | (clear_value x; rename' x => y))
    | with_reducible first
      | assumption | apply State.p_keeps | apply State.pb_keeps | apply State.raise_keeps
      | apply State.bootIsolate_keeps
    | with_reducible refine Keeps.fields ?_ ?_ ?_ ?_
    | exact Or.inl rfl
    | rfl

theorem State.bootSettle_keeps {s₀ s : State} (h : Keeps s₀ s) : Keeps s₀ (State.bootSettle s) := by
  unfold State.bootSettle
  repeat first
    | with_reducible first
      | assumption | apply Keeps.ite | apply State.refuseDone_keeps

theorem State.bootOff_keeps {s₀ s : State} (h : Keeps s₀ s) (f : FRef) : Keeps s₀ (State.bootOff s f) := by
  unfold State.bootOff
  repeat first
    | with_reducible first
      | assumption | apply regWrite_keeps

theorem State.stopAll_keeps {s₀ s : State} (h : Keeps s₀ s) : Keeps s₀ (State.stopAll s) := by
  unfold State.stopAll
  repeat first
    | (extract_lets +onlyGivenNames x; first
      | (refine (have hx : Keeps s₀ x := ?_; ?_); (on_goal 2 => (clear_value x; rename' x => y)); subst x)
      | (refine (have hx : Keeps s₀ x.1 := ?_; ?_); (on_goal 2 => (clear_value x; rename' x => y)); subst x)
      | (have z := fun a => x a; clear z; subst x)
      | (clear_value x; rename' x => y))
    | with_reducible first
      | assumption | refine Keeps.fold ?_ (fun _ _ _ => ?_) _ | apply State.bootOff_keeps

theorem State.bootRefuse_keeps {s₀ s : State} (h : Keeps s₀ s) (reason : Nat) :
    Keeps s₀ (State.bootRefuse s reason) := by
  unfold State.bootRefuse
  repeat first
    | (extract_lets +onlyGivenNames x; first
      | (refine (have hx : Keeps s₀ x := ?_; ?_); (on_goal 2 => (clear_value x; rename' x => y)); subst x)
      | (refine (have hx : Keeps s₀ x.1 := ?_; ?_); (on_goal 2 => (clear_value x; rename' x => y)); subst x)
      | (clear_value x; rename' x => y))
    | with_reducible first
      | assumption | apply Keeps.ite | apply State.bootSettle_keeps | apply State.stopAll_keeps
    | with_reducible refine Keeps.fields ?_ ?_ ?_ ?_
    | exact Or.inl rfl
    | rfl

theorem State.bootKeys_keeps {s₀ s : State} (h : Keeps s₀ s) : Keeps s₀ (State.bootKeys s) := by
  unfold State.bootKeys
  repeat first
    | (extract_lets +onlyGivenNames x; first
      | (refine (have hx : Keeps s₀ x := ?_; ?_); (on_goal 2 => (clear_value x; rename' x => y)); subst x)
      | (refine (have hx : Keeps s₀ x.1 := ?_; ?_); (on_goal 2 => (clear_value x; rename' x => y)); subst x)
      | (clear_value x; rename' x => y))
    | with_reducible first
      | assumption | apply Keeps.ite | refine Keeps.fold ?_ (fun _ _ _ => ?_) _
    | split
    | with_reducible refine Keeps.fields ?_ ?_ ?_ ?_
    | exact Or.inl rfl
    | rfl

theorem State.tablesOf_keeps {s₀ s : State} (h : Keeps s₀ s) (bs : List Byte) : Keeps s₀ (State.tablesOf s bs) := by
  unfold State.tablesOf
  repeat first
    | (extract_lets +onlyGivenNames x; first
      | (refine (have hx : Keeps s₀ x := ?_; ?_); (on_goal 2 => (clear_value x; rename' x => y)); subst x)
      | (refine (have hx : Keeps s₀ x.1 := ?_; ?_); (on_goal 2 => (clear_value x; rename' x => y)); subst x)
      | (clear_value x; rename' x => y))
    | with_reducible first
      | assumption | refine Keeps.fold ?_ (fun _ _ _ => ?_) _ | refine Keeps.foldPair ?_ (fun _ _ _ => ?_) _
      | apply State.dmaWrite_keeps
    | dsimp -zeta only

theorem State.vitrineOf_keeps {s₀ s : State} (h : Keeps s₀ s) (bs : List Byte) :
    Keeps s₀ (State.vitrineOf s bs) := by
  unfold State.vitrineOf
  repeat first
    | (extract_lets +onlyGivenNames x; first
      | (refine (have hx : Keeps s₀ x := ?_; ?_); (on_goal 2 => (clear_value x; rename' x => y)); subst x)
      | (refine (have hx : Keeps s₀ x.1 := ?_; ?_); (on_goal 2 => (clear_value x; rename' x => y)); subst x)
      | (clear_value x; rename' x => y))
    | with_reducible first
      | assumption | refine Keeps.fold ?_ (fun _ _ _ => ?_) _ | refine Keeps.foldPair ?_ (fun _ _ _ => ?_) _
      | apply State.dmaWrite_keeps
    | dsimp -zeta only

theorem State.hashedTo_keeps {s₀ s : State} (h : Keeps s₀ s) (r : Nat) (bs : List Byte) :
    Keeps s₀ (State.hashedTo s r bs) := by
  unfold State.hashedTo
  repeat first
    | with_reducible first
      | assumption | apply Keeps.ite | apply State.tablesOf_keeps | apply State.vitrineOf_keeps

theorem State.bootPages_keeps {s₀ s : State} (h : Keeps s₀ s) : Keeps s₀ (State.bootPages s) := by
  unfold State.bootPages
  repeat first
    | (extract_lets +onlyGivenNames x; first
      | (refine (have hx : Keeps s₀ x := ?_; ?_); (on_goal 2 => (clear_value x; rename' x => y)); subst x)
      | (refine (have hx : Keeps s₀ x.1 := ?_; ?_); (on_goal 2 => (clear_value x; rename' x => y)); subst x)
      | (clear_value x; rename' x => y))
    | with_reducible first
      | assumption | apply State.dmaWrite_keeps | apply State.validateDone_keeps | apply regWrite_keeps
    | dsimp -zeta only

theorem State.bootKeystone_keeps {s₀ s : State} (h : Keeps s₀ s) : Keeps s₀ (State.bootKeystone s) := by
  unfold State.bootKeystone
  repeat first
    | with_reducible first
      | assumption | apply regWrite_keeps

theorem State.bootEngine_keeps {s₀ s : State} (h : Keeps s₀ s) (x : FwRecord) :
    Keeps s₀ (State.bootEngine s x) := by
  unfold State.bootEngine
  repeat first
    | (extract_lets +onlyGivenNames x; first
      | (refine (have hx : Keeps s₀ x := ?_; ?_); (on_goal 2 => (clear_value x; rename' x => y)); subst x)
      | (refine (have hx : Keeps s₀ x.1 := ?_; ?_); (on_goal 2 => (clear_value x; rename' x => y)); subst x)
      | (clear_value x; rename' x => y))
    | with_reducible first
      | assumption | apply Keeps.ite | apply Keeps.itePair | apply State.p_keeps | apply State.pb_keeps
      | apply State.dmaWrite_keeps | apply State.setEngine_keeps | apply State.engLoad_keeps | apply regWrite_keeps
    | dsimp -zeta only
    | with_reducible refine Keeps.fields ?_ ?_ ?_ ?_
    | exact Or.inl rfl
    | rfl

theorem State.bootEngines_keeps {s₀ s : State} (h : Keeps s₀ s) : Keeps s₀ (State.bootEngines s) := by
  unfold State.bootEngines
  repeat first
    | (extract_lets +onlyGivenNames x; first
      | (refine (have hx : Keeps s₀ x := ?_; ?_); (on_goal 2 => (clear_value x; rename' x => y)); subst x)
      | (refine (have hx : Keeps s₀ x.1 := ?_; ?_); (on_goal 2 => (clear_value x; rename' x => y)); subst x)
      | (clear_value x; rename' x => y))
    | with_reducible first
      | assumption | refine Keeps.fold ?_ (fun _ _ _ => ?_) _ | apply State.bootEngine_keeps

theorem State.bootDone_keeps {s₀ s : State} (h : Keeps s₀ s) : Keeps s₀ (State.bootDone s) := by
  unfold State.bootDone
  repeat first
    | (extract_lets +onlyGivenNames x; first
      | (refine (have hx : Keeps s₀ x := ?_; ?_); (on_goal 2 => (clear_value x; rename' x => y)); subst x)
      | (refine (have hx : Keeps s₀ x.1 := ?_; ?_); (on_goal 2 => (clear_value x; rename' x => y)); subst x)
      | (clear_value x; rename' x => y))
    | with_reducible first
      | assumption | apply State.p_keeps | apply State.bootIsolate_keeps | apply State.bootKick_keeps
    | with_reducible refine Keeps.fields ?_ ?_ ?_ ?_
    | exact Or.inl rfl
    | rfl

theorem State.bootStep_keeps {s₀ s : State} (h : Keeps s₀ s) (k : Nat) : Keeps s₀ (State.bootStep s k) := by
  unfold State.bootStep
  repeat first
    | (extract_lets +onlyGivenNames x; first
      | (refine (have hx : Keeps s₀ x := ?_; ?_); (on_goal 2 => (clear_value x; rename' x => y)); subst x)
      | (refine (have hx : Keeps s₀ x.1 := ?_; ?_); (on_goal 2 => (clear_value x; rename' x => y)); subst x)
      | (clear_value x; rename' x => y))
    | with_reducible first
      | assumption | apply Keeps.ite | apply State.bootKeys_keeps | apply State.tablesOf_keeps
      | apply State.vitrineOf_keeps | apply State.bootPages_keeps | apply State.bootKeystone_keeps
      | apply State.bootEngines_keeps
    | split
    | with_reducible refine Keeps.fields ?_ ?_ ?_ ?_
    | exact Or.inl rfl
    | rfl

theorem runActs_keeps {s₀ s : State} (h : Keeps s₀ s) (l : List BootAct) : Keeps s₀ (runActs l s) := by
  induction l generalizing s with
  | nil => unfold runActs; exact State.bootDone_keeps h
  | cons a rest ih =>
    cases a <;> unfold runActs
    repeat first
      | (extract_lets +onlyGivenNames x; first
        | (refine (have hx : Keeps s₀ x := ?_; ?_); (on_goal 2 => (clear_value x; rename' x => y)); subst x)
        | (refine (have hx : Keeps s₀ x.1 := ?_; ?_); (on_goal 2 => (clear_value x; rename' x => y)); subst x)
        | (have z : BusState := x; clear z; rename' x => y)
        | (clear_value x; rename' x => y))
      | with_reducible first
        | assumption | apply Keeps.ite | apply ih | apply regWrite_keeps | apply State.bootRefuse_keeps
        | apply State.bootDone_keeps | apply State.bootStep_keeps
      | split
      | with_reducible refine Keeps.fields ?_ ?_ ?_ ?_
      | exact Or.inl rfl
      | rfl

theorem State.bootApply_keeps {s₀ s : State} (h : Keeps s₀ s) : Keeps s₀ (State.bootApply s) := by
  unfold State.bootApply
  repeat first
    | with_reducible first
      | assumption | apply runActs_keeps
    | with_reducible refine Keeps.fields ?_ ?_ ?_ ?_
    | exact Or.inl rfl
    | rfl

theorem State.bootKeep_keeps {s₀ s : State} (h : Keeps s₀ s) (gen : Nat) : Keeps s₀ (State.bootKeep s gen) := by
  unfold State.bootKeep
  repeat first
    | (extract_lets +onlyGivenNames x; first
      | (refine (have hx : Keeps s₀ x := ?_; ?_); (on_goal 2 => (clear_value x; rename' x => y)); subst x)
      | (refine (have hx : Keeps s₀ x.1 := ?_; ?_); (on_goal 2 => (clear_value x; rename' x => y)); subst x)
      | (clear_value x; rename' x => y))
    | with_reducible first
      | assumption | apply Keeps.ite | apply State.p_keeps | apply State.pb_keeps | apply State.genRefresh_keeps
      | apply State.memKeep_keeps
    | with_reducible refine Keeps.fields ?_ ?_ ?_ ?_
    | exact Or.inl rfl
    | rfl

theorem State.bootChoose_keeps {s₀ s : State} (h : Keeps s₀ s) (c : Nat) (bs : List Byte) :
    Keeps s₀ (State.bootChoose s c bs) := by
  unfold State.bootChoose
  repeat first
    | (extract_lets +onlyGivenNames x; first
      | (refine (have hx : Keeps s₀ x := ?_; ?_); (on_goal 2 => (clear_value x; rename' x => y)); subst x)
      | (refine (have hx : Keeps s₀ x.1 := ?_; ?_); (on_goal 2 => (clear_value x; rename' x => y)); subst x)
      | (clear_value x; rename' x => y))
    | with_reducible first
      | assumption | apply Keeps.ite | apply State.p_keeps | apply trainStart_keeps | apply State.trainStart_keeps
      | apply State.bootApply_keeps | apply State.bootKeep_keeps
    | with_reducible refine Keeps.fields ?_ ?_ ?_ ?_
    | exact Or.inl rfl
    | rfl

theorem State.keyOpen_keeps {s₀ s : State} (h : Keeps s₀ s) : Keeps s₀ (State.keyOpen s) := by
  unfold State.keyOpen
  repeat first
    | with_reducible first
      | assumption | apply State.pb_keeps

theorem State.bootTry_keeps {s₀ s : State} (h : Keeps s₀ s) (l : List Nat) : Keeps s₀ (State.bootTry s l) := by
  induction l generalizing s with
  | nil => unfold State.bootTry; exact State.bootRefuse_keeps h 1
  | cons c rest ih =>
    unfold State.bootTry
    repeat first
      | (extract_lets +onlyGivenNames x; first
        | (refine (have hx : Keeps s₀ x := ?_; ?_); (on_goal 2 => (clear_value x; rename' x => y)); subst x)
        | (refine (have hx : Keeps s₀ x.1 := ?_; ?_); (on_goal 2 => (clear_value x; rename' x => y)); subst x)
        | (clear_value x; rename' x => y))
      | with_reducible first
        | assumption | apply Keeps.ite | apply ih | apply State.p_keeps | apply trainStart_keeps
        | apply State.trainStart_keeps | apply State.bootRefuse_keeps
      | with_reducible refine Keeps.fields ?_ ?_ ?_ ?_
      | exact Or.inl rfl
      | rfl

theorem State.readHeader_keeps {s₀ s : State} (h : Keeps s₀ s) (c : Nat) : Keeps s₀ (State.readHeader s c) := by
  unfold State.readHeader
  repeat first
    | (extract_lets +onlyGivenNames x; first
      | (refine (have hx : Keeps s₀ x := ?_; ?_); (on_goal 2 => (clear_value x; rename' x => y)); subst x)
      | (refine (have hx : Keeps s₀ x.1 := ?_; ?_); (on_goal 2 => (clear_value x; rename' x => y)); subst x)
      | (clear_value x; rename' x => y))
    | with_reducible first
      | assumption | apply Keeps.ite | apply State.p_keeps

theorem State.bootOrder_keeps {s₀ s : State} (h : Keeps s₀ s) (among : List Nat) :
    Keeps s₀ (State.bootOrder s among) := by
  unfold State.bootOrder
  repeat first
    | (extract_lets +onlyGivenNames x; first
      | (refine (have hx : Keeps s₀ x := ?_; ?_); (on_goal 2 => (clear_value x; rename' x => y)); subst x)
      | (refine (have hx : Keeps s₀ x.1 := ?_; ?_); (on_goal 2 => (clear_value x; rename' x => y)); subst x)
      | (clear_value x; rename' x => y))
    | with_reducible first
      | assumption | apply Keeps.ite | refine Keeps.fold ?_ (fun _ _ _ => ?_) _ | apply State.bootTry_keeps
      | apply State.readHeader_keeps
    | with_reducible refine Keeps.fields ?_ ?_ ?_ ?_
    | exact Or.inl rfl
    | rfl

theorem bootRun_keeps {s₀ s : State} (h : Keeps s₀ s) (sfdp : Option SfdpFacts) : Keeps s₀ (bootRun sfdp s) := by
  unfold bootRun
  repeat first
    | (extract_lets +onlyGivenNames x; first
      | (refine (have hx : Keeps s₀ x := ?_; ?_); (on_goal 2 => (clear_value x; rename' x => y)); subst x)
      | (refine (have hx : Keeps s₀ x.1 := ?_; ?_); (on_goal 2 => (clear_value x; rename' x => y)); subst x)
      | (clear_value x; rename' x => y))
    | with_reducible first
      | assumption | apply Keeps.ite | refine Keeps.fold ?_ (fun _ _ _ => ?_) _ | apply State.p_keeps
      | apply State.pb_keeps | apply State.bootRefuse_keeps | apply State.bootTry_keeps
      | apply State.readHeader_keeps | apply State.bootOrder_keeps
    | split
    | with_reducible refine Keeps.fields ?_ ?_ ?_ ?_
    | exact Or.inl rfl
    | rfl

theorem State.trainedChannel_keeps {s₀ s : State} (h : Keeps s₀ s) (fails ch : Nat) :
    Keeps s₀ (State.trainedChannel s fails ch) := by
  unfold State.trainedChannel
  repeat first
    | (extract_lets +onlyGivenNames x; first
      | (refine (have hx : Keeps s₀ x := ?_; ?_); (on_goal 2 => (clear_value x; rename' x => y)); subst x)
      | (refine (have hx : Keeps s₀ x.1 := ?_; ?_); (on_goal 2 => (clear_value x; rename' x => y)); subst x)
      | (clear_value x; rename' x => y))
    | with_reducible first
      | assumption | apply Keeps.ite | apply State.p_keeps | apply State.pb_keeps | apply State.trainEvent_keeps

theorem trainingDone_keeps {s₀ s : State} (h : Keeps s₀ s) (r : TrainSeen) (ms : Nat) :
    Keeps s₀ (trainingDone r ms s) := by
  unfold trainingDone
  repeat first
    | (extract_lets +onlyGivenNames x; first
      | (refine (have hx : Keeps s₀ x := ?_; ?_); (on_goal 2 => (clear_value x; rename' x => y)); subst x)
      | (refine (have hx : Keeps s₀ x.1 := ?_; ?_); (on_goal 2 => (clear_value x; rename' x => y)); subst x)
      | (clear_value x; rename' x => y))
    | with_reducible first
      | assumption | apply Keeps.ite | refine Keeps.fold ?_ (fun _ _ _ => ?_) _ | apply State.p_keeps
      | apply State.pb_keeps | apply State.setChan_keeps | apply State.bootRefuse_keeps
      | apply State.bootApply_keeps | apply State.trainedChannel_keeps
    | with_reducible refine Keeps.fields ?_ ?_ ?_ ?_
    | exact Or.inl rfl
    | rfl

theorem State.copyResult_keeps {s₀ s : State} (h : Keeps s₀ s) (c r : Nat) : Keeps s₀ (State.copyResult s c r) := by
  unfold State.copyResult
  repeat first
    | (extract_lets +onlyGivenNames x; first
      | (refine (have hx : Keeps s₀ x := ?_; ?_); (on_goal 2 => (clear_value x; rename' x => y)); subst x)
      | (refine (have hx : Keeps s₀ x.1 := ?_; ?_); (on_goal 2 => (clear_value x; rename' x => y)); subst x)
      | (clear_value x; rename' x => y))
    | with_reducible first
      | assumption | apply Keeps.ite | apply State.p_keeps | apply State.raise_keeps | apply State.keyOpen_keeps

theorem State.bootBoth_keeps {s₀ s : State} (h : Keeps s₀ s) : Keeps s₀ (State.bootBoth s) := by
  unfold State.bootBoth
  repeat first
    | (extract_lets +onlyGivenNames x; first
      | (refine (have hx : Keeps s₀ x := ?_; ?_); (on_goal 2 => (clear_value x; rename' x => y)); subst x)
      | (refine (have hx : Keeps s₀ x.1 := ?_; ?_); (on_goal 2 => (clear_value x; rename' x => y)); subst x)
      | (clear_value x; rename' x => y))
    | with_reducible first
      | assumption | apply Keeps.ite | apply State.raise_keeps | apply State.bootRefuse_keeps
      | apply State.bootChoose_keeps
    | split
    | with_reducible refine Keeps.fields ?_ ?_ ?_ ?_
    | exact Or.inl rfl
    | rfl

theorem copyRead_keeps {s₀ s : State} (h : Keeps s₀ s) (c : Nat) (broke : Option Nat) :
    Keeps s₀ (copyRead c broke s) := by
  unfold copyRead
  repeat first
    | (extract_lets +onlyGivenNames x; first
      | (refine (have hx : Keeps s₀ x := ?_; ?_); (on_goal 2 => (clear_value x; rename' x => y)); subst x)
      | (refine (have hx : Keeps s₀ x.1 := ?_; ?_); (on_goal 2 => (clear_value x; rename' x => y)); subst x)
      | (clear_value x; rename' x => y))
    | with_reducible first
      | assumption | apply Keeps.ite | apply State.p_keeps | apply State.pb_keeps | apply State.bootRefuse_keeps
      | apply State.hashedTo_keeps | apply State.bootChoose_keeps | apply State.bootOrder_keeps
      | apply State.copyResult_keeps | apply State.bootBoth_keeps
    | split
    | with_reducible refine Keeps.fields ?_ ?_ ?_ ?_
    | exact Or.inl rfl
    | rfl

theorem imageRead_keeps {s₀ s : State} (h : Keeps s₀ s) (c : Nat) (broke : Option Nat) :
    Keeps s₀ (imageRead c broke s) := by
  unfold imageRead
  repeat first
    | (extract_lets +onlyGivenNames x; first
      | (refine (have hx : Keeps s₀ x := ?_; ?_); (on_goal 2 => (clear_value x; rename' x => y)); subst x)
      | (refine (have hx : Keeps s₀ x.1 := ?_; ?_); (on_goal 2 => (clear_value x; rename' x => y)); subst x)
      | (clear_value x; rename' x => y))
    | with_reducible first
      | assumption | apply Keeps.ite | apply State.bootRefuse_keeps | apply State.hashedTo_keeps
      | apply State.bootChoose_keeps | apply State.keyOpen_keeps | apply copyRead_keeps

theorem pauseEnd_keeps {s₀ s : State} (h : Keeps s₀ s) : Keeps s₀ (pauseEnd s) := by
  unfold pauseEnd
  repeat first
    | with_reducible first
      | assumption | apply Keeps.ite | apply runActs_keeps
    | with_reducible refine Keeps.fields ?_ ?_ ?_ ?_
    | exact Or.inl rfl
    | rfl

end Sys2Proof.Machine
end

