-- ==== Sys2Proof/Laws/KeepLatchPoint.lean ====
section
/-! SUPPORT. What the operations of Machine/LatchPoint.lean keep. -/

set_option linter.all false

namespace Sys2Proof.Machine

theorem latchAll_keeps {s₀ s : State} (h : Keeps s₀ s) (first : Bool) (n : Nat) :
    Keeps s₀ (latchAll first n s) := by
  unfold latchAll
  repeat first
    | (extract_lets +onlyGivenNames x; first
      | (refine (have hx : Keeps s₀ x := ?_; ?_); (on_goal 2 => (clear_value x; rename' x => y)); subst x)
      | (refine (have hx : Keeps s₀ x.1 := ?_; ?_); (on_goal 2 => (clear_value x; rename' x => y)); subst x)
      | (clear_value x; rename' x => y))
    | with_reducible first
      | assumption | apply Keeps.ite | refine Keeps.fold ?_ (fun _ _ _ => ?_) _ | apply State.latchPoint_keeps
      | apply State.linkLatch_keeps | apply State.releaseLatched_keeps | apply State.bootSettle_keeps

end Sys2Proof.Machine
end

