-- ==== Sys2Proof/Laws/KeepMatrix.lean ====
section
/-! SUPPORT. What the operations of Machine/Matrix.lean keep. -/

set_option linter.all false

namespace Sys2Proof.Machine

theorem State.dataAccess_keeps {s₀ s : State} (h : Keeps s₀ s) (r : BusReq) : Keeps s₀ (State.dataAccess s r) := by
  unfold State.dataAccess
  repeat first
    | (extract_lets +onlyGivenNames x; first
      | (refine (have hx : Keeps s₀ x := ?_; ?_); (on_goal 2 => (clear_value x; rename' x => y)); subst x)
      | (refine (have hx : Keeps s₀ x.1 := ?_; ?_); (on_goal 2 => (clear_value x; rename' x => y)); subst x)
      | (clear_value x; rename' x => y))
    | with_reducible first
      | assumption | apply Keeps.ite | apply Keeps.itePair | apply State.respond_keeps
      | apply State.readBursts_keeps | apply State.writeBursts_keeps
    | dsimp -zeta only

theorem State.controlAccess_keeps {s₀ s : State} (h : Keeps s₀ s) (r : BusReq) :
    Keeps s₀ (State.controlAccess s r) := by
  unfold State.controlAccess
  repeat first
    | (extract_lets +onlyGivenNames x; first
      | (refine (have hx : Keeps s₀ x := ?_; ?_); (on_goal 2 => (clear_value x; rename' x => y)); subst x)
      | (refine (have hx : Keeps s₀ x.1 := ?_; ?_); (on_goal 2 => (clear_value x; rename' x => y)); subst x)
      | (clear_value x; rename' x => y))
    | with_reducible first
      | assumption | apply Keeps.ite | apply State.busFail_keeps | apply State.respond_keeps | apply regWrite_keeps
      | apply regRead_keeps

theorem State.ctlFinish_keeps {s₀ s : State} (h : Keeps s₀ s) (m : Nat) : Keeps s₀ (State.ctlFinish s m) := by
  unfold State.ctlFinish
  repeat first
    | (extract_lets +onlyGivenNames x; first
      | (refine (have hx : Keeps s₀ x := ?_; ?_); (on_goal 2 => (clear_value x; rename' x => y)); subst x)
      | (refine (have hx : Keeps s₀ x.1 := ?_; ?_); (on_goal 2 => (clear_value x; rename' x => y)); subst x)
      | (have z : BusState := x; clear z; rename' x => y)
      | (clear_value x; rename' x => y))
    | with_reducible first
      | assumption | apply State.controlAccess_keeps
    | split
    | with_reducible refine Keeps.fields ?_ ?_ ?_ ?_
    | exact Or.inl rfl
    | rfl

theorem State.grantParts_keeps {s₀ s : State} (h : Keeps s₀ s) (sent : Nat) (l : List PendReq) :
    Keeps s₀ (State.grantParts s sent l) := by
  induction l generalizing s sent with
  | nil => exact h
  | cons p ps ih =>
    unfold State.grantParts
    exact Keeps.ite (Keeps.ite (State.grantReq_keeps h _ _) (ih (State.grantReq_keeps h _ _) _)) h

theorem State.requestHeld_keeps {s₀ s : State} (h : Keeps s₀ s) (r : BusReq) (granted : Bool) (sent : Nat) :
    Keeps s₀ (State.requestHeld s r granted sent) := by
  unfold State.requestHeld
  repeat first
    | (extract_lets +onlyGivenNames x; first
      | (refine (have hx : Keeps s₀ x := ?_; ?_); (on_goal 2 => (clear_value x; rename' x => y)); subst x)
      | (refine (have hx : Keeps s₀ x.1 := ?_; ?_); (on_goal 2 => (clear_value x; rename' x => y)); subst x)
      | (have z : BusState := x; clear z; rename' x => y)
      | (clear_value x; rename' x => y))
    | with_reducible first
      | assumption | apply Keeps.ite | refine Keeps.fold ?_ (fun _ _ _ => ?_) _ | apply State.stallTick_keeps
      | apply State.grantParts_keeps
    | with_reducible refine Keeps.fields ?_ ?_ ?_ ?_
    | exact Or.inl rfl
    | rfl

theorem State.partEnd_keeps {s₀ s : State} (h : Keeps s₀ s) (p : PendReq) : Keeps s₀ (State.partEnd s p).1 := by
  unfold State.partEnd
  repeat first
    | (extract_lets +onlyGivenNames x; first
      | (refine (have hx : Keeps s₀ x := ?_; ?_); (on_goal 2 => (clear_value x; rename' x => y)); subst x)
      | (refine (have hx : Keeps s₀ x.1 := ?_; ?_); (on_goal 2 => (clear_value x; rename' x => y)); subst x)
      | (clear_value x; rename' x => y))
    | with_reducible first
      | assumption | apply Keeps.ite | apply Keeps.itePair | apply State.p_keeps | apply State.errLog_keeps
      | apply State.queueBurst_keeps | apply State.raise_keeps | apply State.busFail_keeps
      | apply State.eccRead_keeps | apply State.storeMasked_keeps
    | dsimp -zeta only
    | split
    | with_reducible refine Keeps.fields ?_ ?_ ?_ ?_
    | exact Or.inl rfl
    | rfl

theorem State.partsEnd_keeps {s₀ s : State} (h : Keeps s₀ s) (l : List PendReq) : Keeps s₀ (State.partsEnd s l).1 := by
  induction l generalizing s with
  | nil => exact h
  | cons p ps ih =>
    unfold State.partsEnd
    exact ih (State.partEnd_keeps h p)

theorem State.grantBurst_keeps {s₀ s : State} (h : Keeps s₀ s) (m id : Nat) :
    Keeps s₀ (State.grantBurst s m id) := by
  unfold State.grantBurst
  repeat first
    | with_reducible first
      | assumption | apply Keeps.ite | refine Keeps.fold ?_ (fun _ _ _ => ?_) _ | apply State.p_keeps
      | apply State.grantReq_keeps

theorem State.requestFinish_keeps {s₀ s : State} (h : Keeps s₀ s) (m : Master) (id : Fin 64) :
    Keeps s₀ (State.requestFinish s m id) := by
  unfold State.requestFinish
  repeat first
    | (extract_lets +onlyGivenNames x; first
      | (refine (have hx : Keeps s₀ x := ?_; ?_); (on_goal 2 => (clear_value x; rename' x => y)); subst x)
      | (refine (have hx : Keeps s₀ x.1 := ?_; ?_); (on_goal 2 => (clear_value x; rename' x => y)); subst x)
      | (have z : BusState := x; clear z; rename' x => y)
      | (clear_value x; rename' x => y))
    | with_reducible first
      | assumption | apply Keeps.ite | apply Keeps.itePair | refine Keeps.fold ?_ (fun _ _ _ => ?_) _
      | refine Keeps.foldPair ?_ (fun _ _ _ => ?_) _ | apply State.p_keeps | apply State.respond_keeps
      | apply State.stallTick_keeps | apply State.repayAll_keeps | apply State.partsEnd_keeps
      | apply State.grantBurst_keeps
    | dsimp -zeta only
    | with_reducible refine Keeps.fields ?_ ?_ ?_ ?_
    | exact Or.inl rfl
    | rfl

theorem State.loadPort_keeps {s₀ s : State} (h : Keeps s₀ s) (n : Nat) (r : BusReq) :
    Keeps s₀ (State.loadPort s n r) := by
  unfold State.loadPort
  repeat first
    | with_reducible first
      | assumption | apply Keeps.ite | apply State.respond_keeps | apply State.engLoad_keeps

theorem busRequest_keeps {s₀ s : State} (h : Keeps s₀ s) (r : BusReq) : Keeps s₀ (busRequest r s) := by
  unfold busRequest
  repeat first
    | with_reducible first
      | assumption | apply Keeps.ite | apply State.ctlQueue_keeps | apply State.dataAccess_keeps
      | apply State.controlAccess_keeps | apply State.ctlFinish_keeps | apply State.requestHeld_keeps
      | apply State.requestFinish_keeps | apply State.loadPort_keeps
    | split
    | with_reducible refine Keeps.fields ?_ ?_ ?_ ?_
    | exact Or.inl rfl
    | rfl

theorem qosAging_keeps {s₀ s : State} (h : Keeps s₀ s) (m : Master) (id : Fin 64) : Keeps s₀ (qosAging m id s) := by
  unfold qosAging
  repeat first
    | (extract_lets +onlyGivenNames x; first
      | (refine (have hx : Keeps s₀ x := ?_; ?_); (on_goal 2 => (clear_value x; rename' x => y)); subst x)
      | (refine (have hx : Keeps s₀ x.1 := ?_; ?_); (on_goal 2 => (clear_value x; rename' x => y)); subst x)
      | (have z : BusState := x; clear z; rename' x => y)
      | (have z := fun a => x a; clear z; subst x)
      | (clear_value x; rename' x => y))
    | with_reducible first
      | assumption | apply Keeps.ite | apply State.p_keeps | apply State.inc_keeps
    | split
    | with_reducible refine Keeps.fields ?_ ?_ ?_ ?_
    | exact Or.inl rfl
    | rfl

end Sys2Proof.Machine
end

