-- ==== Sys2Proof/Laws/KeepHostPort.lean ====
section
/-! SUPPORT. What the operations of Machine/HostPort.lean keep. -/

set_option linter.all false

namespace Sys2Proof.Machine

theorem State.hostWord_keeps {s₀ s : State} (h : Keeps s₀ s) (spi write : Bool) (a : Nat) (v : List Byte) :
    Keeps s₀ (State.hostWord s spi write a v) := by
  unfold State.hostWord
  repeat first
    | (extract_lets +onlyGivenNames x; first
      | (refine (have hx : Keeps s₀ x := ?_; ?_); (on_goal 2 => (clear_value x; rename' x => y)); subst x)
      | (refine (have hx : Keeps s₀ x.1 := ?_; ?_); (on_goal 2 => (clear_value x; rename' x => y)); subst x)
      | (clear_value x; rename' x => y))
    | with_reducible first
      | assumption | apply Keeps.ite | apply State.busFail_keeps | apply State.respond_keeps
      | apply State.dataAccess_keeps | apply State.controlAccess_keeps

theorem State.hostWrites_keeps {s₀ s : State} (h : Keeps s₀ s) (spi : Bool) (a step i : Nat) (l : List (List Byte)) :
    Keeps s₀ (State.hostWrites s spi a step i l).1 := by
  induction l generalizing s i with
  | nil => unfold State.hostWrites; exact h
  | cons w ws ih =>
    unfold State.hostWrites
    have ht := State.hostWord_keeps h spi true (a + step * i) w
    dsimp only
    split
    · exact ht
    · exact ih ht _

theorem State.hostReads_keeps {s₀ s : State} (h : Keeps s₀ s) (a step i n : Nat) :
    Keeps s₀ (State.hostReads s a step i n).1 := by
  induction n generalizing s i with
  | zero => unfold State.hostReads; exact h
  | succ n ih =>
    unfold State.hostReads
    have ht := State.hostWord_keeps h true false (a + step * i) []
    dsimp only
    split
    · exact ht
    · exact ih ht _

theorem State.spiSelect_keeps {s₀ s : State} (h : Keeps s₀ s) : Keeps s₀ (State.spiSelect s) := by
  unfold State.spiSelect
  repeat first
    | with_reducible first
      | assumption | apply Keeps.ite
    | with_reducible refine Keeps.fields ?_ ?_ ?_ ?_
    | exact Or.inl rfl
    | rfl

theorem State.spiEnd_keeps {s₀ s : State} (h : Keeps s₀ s) (result : Nat) (fail : Option Nat) (out : List Byte) :
    Keeps s₀ (State.spiEnd s result fail out) := by
  unfold State.spiEnd
  repeat first
    | (extract_lets +onlyGivenNames x; first
      | (refine (have hx : Keeps s₀ x := ?_; ?_); (on_goal 2 => (clear_value x; rename' x => y)); subst x)
      | (refine (have hx : Keeps s₀ x.1 := ?_; ?_); (on_goal 2 => (clear_value x; rename' x => y)); subst x)
      | (clear_value x; rename' x => y))
    | with_reducible first
      | assumption | apply Keeps.ite | apply State.p_keeps | apply State.raise_keeps | apply State.incOpen_keeps
    | with_reducible refine Keeps.fields ?_ ?_ ?_ ?_
    | exact Or.inl rfl
    | rfl

theorem State.spiUnknown_keeps {s₀ s : State} (h : Keeps s₀ s) (bs : List Byte) :
    Keeps s₀ (State.spiUnknown s bs) := by
  unfold State.spiUnknown
  repeat first
    | with_reducible first
      | assumption | apply Keeps.ite | apply State.spiEnd_keeps

theorem spiWrite_keeps {s₀ s : State} (h : Keeps s₀ s) (bs : List Byte) : Keeps s₀ (spiWrite bs s) := by
  unfold spiWrite
  repeat first
    | (extract_lets +onlyGivenNames x; first
      | (refine (have hx : Keeps s₀ x := ?_; ?_); (on_goal 2 => (clear_value x; rename' x => y)); subst x)
      | (refine (have hx : Keeps s₀ x.1 := ?_; ?_); (on_goal 2 => (clear_value x; rename' x => y)); subst x)
      | (clear_value x; rename' x => y))
    | with_reducible first
      | assumption | apply Keeps.ite | apply Keeps.itePair | apply State.hostWrites_keeps
      | apply State.spiSelect_keeps | apply State.spiEnd_keeps | apply State.spiUnknown_keeps
    | dsimp -zeta only

theorem spiRead_keeps {s₀ s : State} (h : Keeps s₀ s) (bs : List Byte) (ending : SpiEnding) :
    Keeps s₀ (spiRead bs ending s) := by
  unfold spiRead
  repeat first
    | (extract_lets +onlyGivenNames x; first
      | (refine (have hx : Keeps s₀ x := ?_; ?_); (on_goal 2 => (clear_value x; rename' x => y)); subst x)
      | (refine (have hx : Keeps s₀ x.1 := ?_; ?_); (on_goal 2 => (clear_value x; rename' x => y)); subst x)
      | (clear_value x; rename' x => y))
    | with_reducible first
      | assumption | apply Keeps.ite | apply Keeps.itePair | apply State.hostReads_keeps
      | apply State.spiSelect_keeps | apply State.spiEnd_keeps
    | dsimp -zeta only

theorem spiStatus_keeps {s₀ s : State} (h : Keeps s₀ s) : Keeps s₀ (spiStatus s) := by
  unfold spiStatus
  repeat first
    | (extract_lets +onlyGivenNames x; first
      | (refine (have hx : Keeps s₀ x := ?_; ?_); (on_goal 2 => (clear_value x; rename' x => y)); subst x)
      | (refine (have hx : Keeps s₀ x.1 := ?_; ?_); (on_goal 2 => (clear_value x; rename' x => y)); subst x)
      | (clear_value x; rename' x => y))
    | with_reducible first
      | assumption | apply Keeps.ite | apply State.spiSelect_keeps
    | with_reducible refine Keeps.fields ?_ ?_ ?_ ?_
    | exact Or.inl rfl
    | rfl

theorem i2cPoint_keeps {s₀ s : State} (h : Keeps s₀ s) (addr : Nat) (bs : List Byte) :
    Keeps s₀ (i2cPoint addr bs s) := by
  unfold i2cPoint
  repeat first
    | with_reducible first
      | assumption | apply Keeps.ite
    | split
    | with_reducible refine Keeps.fields ?_ ?_ ?_ ?_
    | exact Or.inl rfl
    | rfl

theorem i2cRead_keeps {s₀ s : State} (h : Keeps s₀ s) (addr n : Nat) : Keeps s₀ (i2cRead addr n s) := by
  unfold i2cRead
  repeat first
    | (extract_lets +onlyGivenNames x; first
      | (refine (have hx : Keeps s₀ x := ?_; ?_); (on_goal 2 => (clear_value x; rename' x => y)); subst x)
      | (refine (have hx : Keeps s₀ x.1 := ?_; ?_); (on_goal 2 => (clear_value x; rename' x => y)); subst x)
      | (clear_value x; rename' x => y))
    | with_reducible first
      | assumption | apply Keeps.ite
    | with_reducible refine Keeps.fields ?_ ?_ ?_ ?_
    | exact Or.inl rfl
    | rfl

theorem State.mgmtRefuse_keeps {s₀ s : State} (h : Keeps s₀ s) (bs : List Byte) (result : Nat) :
    Keeps s₀ (State.mgmtRefuse s bs result) := by
  unfold State.mgmtRefuse
  repeat first
    | with_reducible first
      | assumption | apply State.mgmtSend_keeps

theorem State.mgmtOk_keeps {s₀ s : State} (h : Keeps s₀ s) (bs : List Byte) (result : Nat) (data : List Byte) :
    Keeps s₀ (State.mgmtOk s bs result data) := by
  unfold State.mgmtOk
  repeat first
    | with_reducible first
      | assumption | apply State.mgmtReply_keeps

theorem mgmtRun_keeps {s₀ s : State} (h : Keeps s₀ s) (type : Nat) (bs : List Byte) {act : State → State}
    (ha : ∀ x, Keeps s₀ x → Keeps s₀ (act x)) : Keeps s₀ (mgmtRun type bs act s) := by
  unfold mgmtRun
  repeat first
    | with_reducible first
      | assumption | apply Keeps.ite | apply ha | apply State.p_keeps | apply State.authFail_keeps
      | apply State.mgmtRefuse_keeps
    | with_reducible refine Keeps.fields ?_ ?_ ?_ ?_
    | exact Or.inl rfl
    | rfl

theorem mgmtStatus_keeps {s₀ s : State} (h : Keeps s₀ s) (bs : List Byte) : Keeps s₀ (mgmtStatus bs s) := by
  unfold mgmtStatus
  repeat first
    | with_reducible first
      | assumption | apply Keeps.ite | refine mgmtRun_keeps ?_ _ _ (fun _ _ => ?_) | apply State.mgmtSend_keeps
      | apply State.mgmtOk_keeps

theorem mgmtRead_keeps {s₀ s : State} (h : Keeps s₀ s) (bs : List Byte) : Keeps s₀ (mgmtRead bs s) := by
  unfold mgmtRead
  repeat first
    | (extract_lets +onlyGivenNames x; first
      | (refine (have hx : Keeps s₀ x := ?_; ?_); (on_goal 2 => (clear_value x; rename' x => y)); subst x)
      | (refine (have hx : Keeps s₀ x.1 := ?_; ?_); (on_goal 2 => (clear_value x; rename' x => y)); subst x)
      | (clear_value x; rename' x => y))
    | with_reducible first
      | assumption | apply Keeps.ite | apply Keeps.itePair | apply State.hostReads_keeps | apply State.mgmtOk_keeps
    | dsimp -zeta only

theorem mgmtWrite_keeps {s₀ s : State} (h : Keeps s₀ s) (bs : List Byte) : Keeps s₀ (mgmtWrite bs s) := by
  unfold mgmtWrite
  repeat first
    | (extract_lets +onlyGivenNames x; first
      | (refine (have hx : Keeps s₀ x := ?_; ?_); (on_goal 2 => (clear_value x; rename' x => y)); subst x)
      | (refine (have hx : Keeps s₀ x.1 := ?_; ?_); (on_goal 2 => (clear_value x; rename' x => y)); subst x)
      | (clear_value x; rename' x => y))
    | with_reducible first
      | assumption | apply Keeps.ite | apply Keeps.itePair | apply State.hostWrites_keeps | apply State.mgmtOk_keeps
    | dsimp -zeta only

theorem mgmtMailbox_keeps {s₀ s : State} (h : Keeps s₀ s) (bs : List Byte) : Keeps s₀ (mgmtMailbox bs s) := by
  unfold mgmtMailbox
  repeat first
    | (extract_lets +onlyGivenNames x; first
      | (refine (have hx : Keeps s₀ x := ?_; ?_); (on_goal 2 => (clear_value x; rename' x => y)); subst x)
      | (refine (have hx : Keeps s₀ x.1 := ?_; ?_); (on_goal 2 => (clear_value x; rename' x => y)); subst x)
      | (clear_value x; rename' x => y))
    | with_reducible first
      | assumption | apply Keeps.ite | refine Keeps.fold ?_ (fun _ _ _ => ?_) _ | apply State.p_keeps
      | apply State.mbPosted_keeps | apply State.mgmtOk_keeps
    | with_reducible refine Keeps.fields ?_ ?_ ?_ ?_
    | exact Or.inl rfl
    | rfl

theorem mgmtImage_keeps {s₀ s : State} (h : Keeps s₀ s) (bs : List Byte) : Keeps s₀ (mgmtImage bs s) := by
  unfold mgmtImage
  repeat first
    | (extract_lets +onlyGivenNames x; first
      | (refine (have hx : Keeps s₀ x := ?_; ?_); (on_goal 2 => (clear_value x; rename' x => y)); subst x)
      | (refine (have hx : Keeps s₀ x.1 := ?_; ?_); (on_goal 2 => (clear_value x; rename' x => y)); subst x)
      | (clear_value x; rename' x => y))
    | with_reducible first
      | assumption | apply Keeps.ite | apply State.imageAdd_keeps | apply State.mgmtOk_keeps

end Sys2Proof.Machine
end

