-- ==== Sys2Proof/Laws/Raised.lean ====
section
/-! SUPPORT. A system event raised stands in STATUS; nothing that a raise does clears another. -/

namespace Sys2Proof.Machine

/-- From `s` to `t` no system event's STATUS bit falls. -/
def Stands (s t : State) : Prop := ∀ i < 64, bitOf (s.g (Reg.EVT.STATUS (i / 32))) (i % 32) = true →
  bitOf (t.g (Reg.EVT.STATUS (i / 32))) (i % 32) = true

theorem Stands.refl (s : State) : Stands s s := fun _ _ h => h

theorem Stands.trans {s t u : State} (h : Stands s t) (k : Stands t u) : Stands s u := fun i hi b => k i hi (h i hi b)

theorem Stands.of_eq {s t : State} (h : ∀ i < 64, t.g (Reg.EVT.STATUS (i / 32)) = s.g (Reg.EVT.STATUS (i / 32))) :
    Stands s t := fun i hi b => by rw [h i hi]; exact b

theorem State.p_stands (s : State) {f : FRef} (hf : f.addr < 0x10040080 ∨ 0x10040088 ≤ f.addr) (v : Nat) :
    Stands s (s.p f v) :=
  Stands.of_eq (fun i hi => State.g_p_apart s v (.inl (by simp only; omega)))

theorem State.errLog_stands (s : State) (r : ErrRecord) : Stands s (s.errLog r) := by
  unfold State.errLog
  split
  · split
    · exact Stands.refl s
    · exact (show Stands s _ from Stands.refl s).trans (State.p_stands _ (by decide) _)
  · exact Stands.refl s

theorem pulsePins_stands (s : State) (pins : Nat) (l : List Nat) : Stands s (pulsePins s pins l) := by
  induction l generalizing s with
  | nil => exact Stands.refl s
  | cons p ps ih =>
    unfold pulsePins
    split
    · exact fun i hi hb => ih _ i hi hb
    · exact ih s

/-- Setting bits of a STATUS word clears none. -/
theorem State.status_or_stands (s : State) (w x : Nat) :
    Stands s (s.p (Reg.EVT.STATUS w) (s.g (Reg.EVT.STATUS w) ||| x)) := by
  intro i hi hb
  by_cases h : i / 32 = w
  · rw [h] at hb ⊢
    rw [State.g_p_same _ _ _ (show 0 + 32 ≤ 32 by decide)]
    simp only [bitOf, Nat.testBit_mod_two_pow, Nat.testBit_or] at hb ⊢
    simp [hb, Nat.mod_lt i (by decide : 32 > 0)]
  · rw [State.g_p_apart _ _ (.inl (by simp only; omega))]
    exact hb

theorem State.raiseSet_stands (s : State) (r : RaiseInfo) : Stands s (s.raiseSet r) := by
  unfold State.raiseSet
  extract_lets x y
  have hx : Stands s x := Stands.refl s
  have hy : Stands s y := by
    unfold y
    split
    · exact hx.trans (x.status_or_stands _ _)
    · exact hx.trans (State.p_stands x (.inr (by simp only; omega)) _)
  split
  · exact hy.trans (pulsePins_stands _ _ _)
  · exact hy

/-- A raise sets the STATUS bit of its source (R492). -/
theorem State.raiseSet_sets (s : State) (r : RaiseInfo) (hr : r.source < 64) :
    bitOf ((s.raiseSet r).g (Reg.EVT.STATUS (r.source / 32))) (r.source % 32) = true := by
  unfold State.raiseSet
  extract_lets x y
  have hy : bitOf (y.g (Reg.EVT.STATUS (r.source / 32))) (r.source % 32) = true := by
    unfold y
    rw [if_pos hr, State.g_p_same _ _ _ (show 0 + 32 ≤ 32 by decide)]
    simp only [bitOf, Nat.testBit_mod_two_pow, Nat.testBit_or, Nat.testBit_two_pow_self, Bool.or_true, Bool.and_true,
      decide_eq_true_eq]
    exact Nat.mod_lt _ (by decide)
  split
  · exact pulsePins_stands _ _ _ _ hr hy
  · exact hy

theorem State.busFailLog_stands (s : State) (r : ErrRecord) : Stands s (s.busFailLog r) := by
  unfold State.busFailLog State.inc
  refine (((s.p_stands (.inr ?_) _).trans (State.p_stands _ (.inr ?_) _)).trans (State.p_stands _ (.inr ?_) _)).trans
    (State.errLog_stands _ _)
  · simp only; omega
  · decide
  · decide

theorem State.countBurst_stands (s : State) (m a n : Nat) : Stands s (s.countBurst m a n) := by
  unfold State.countBurst State.inc
  split
  · clear * -
    generalize granules a n = l
    induction l generalizing s with
    | nil => exact Stands.refl s
    | cons x l ih =>
      refine Stands.trans ?_ (ih _)
      exact (s.p_stands (.inr (by simp only; omega)) _).trans (State.p_stands _ (.inr (by simp only; omega)) _)
  · split
    · exact (s.p_stands (.inr (by simp only; omega)) _).trans (State.p_stands _ (.inr (by simp only; omega)) _)
    · exact Stands.refl s

theorem State.queueBurst_stands (s : State) (write : Bool) (qos a n : Nat) (on : List Bool) :
    Stands s (s.queueBurst write qos a n on) := by
  obtain ⟨q, d, h⟩ := s.queueBurst_only write qos a n on
  rw [h]
  exact Stands.refl s

theorem State.logStore_stands (s : State) (base size wr seq : Nat) (drop : Bool) (i : Nat) (es : List (RaiseInfo × Nat)) :
    Stands s (s.logStore base size wr seq drop i es) := by
  induction es generalizing s i with
  | nil => exact Stands.refl s
  | cons e es ih => exact (show Stands s (s.store _ _) from Stands.refl s).trans (ih _ (i + 1))

theorem State.logPut_stands (s : State) (r : RaiseInfo) : Stands s (s.logPut r) := by
  unfold State.logPut
  extract_lets size base old wr seq drop es room a x y z w
  have hx : Stands s x := State.p_stands s (f := Reg.EVT.LOG_SEQ) (.inl (by decide)) _
  have hy : Stands s y := by
    unfold y
    split
    · exact hx
    · split
      · exact hx.trans (State.p_stands _ (f := Reg.EVT.DROPS) (.inl (by decide)) _)
      · exact (hx.trans (x.queueBurst_stands true _ a 32 [])).trans (State.countBurst_stands _ 42 a 32)
  have hz : Stands s z := hy.trans (y.logStore_stands base size wr seq drop 0 _)
  exact hz.trans (State.p_stands z (f := Reg.EVT.LOG_WR) (.inl (by decide)) _)

theorem State.logAppend_stands (s : State) (r : RaiseInfo) : Stands s (s.logAppend r) := by
  unfold State.logAppend
  split
  · exact Stands.refl s
  extract_lets a x e
  split
  · exact s.logPut_stands r
  · have hx : Stands s x := (State.p_stands s (f := Reg.EVT.LOG_EN) (.inl (by decide)) _).trans
      (State.p_stands _ (f := Reg.EVT.LOG_FAULT) (.inl (by decide)) _)
    split
    · exact (hx.trans (State.busFailLog_stands _ _)).trans (State.raiseSet_stands _ _)
    · exact hx

theorem State.noteEvent_g (s : State) (i : Nat) (f : FRef) : (s.noteEvent i).g f = s.g f := by
  unfold State.noteEvent State.noteHealth
  repeat' split
  all_goals rfl

/-- With CORE on, a system event raised stands in STATUS (R492). -/
theorem State.raise_stands (s : State) (i arg : Nat) (hi : i < 64) (hc : s.coreOn = true) :
    (s.raise i arg).evStatus i = true := by
  have h1 := s.raiseSet_sets { source := i, causes := 0, arg := arg, wall := s.wall, count := s.time.count } hi
  unfold State.evStatus
  rw [if_pos hi]
  unfold State.raise State.raiseInfo
  rw [if_pos hc]
  extract_lets t
  have ht : bitOf (t.g (Reg.EVT.STATUS (i / 32))) (i % 32) = true := by
    unfold t
    rw [State.noteEvent_g]
    exact h1
  split
  · exact State.logAppend_stands _ _ i hi ht
  · exact ht

/-- A raise clears no other system event. -/
theorem State.raise_keepsStanding (s : State) (i arg : Nat) : Stands s (s.raise i arg) := by
  unfold State.raise State.raiseInfo
  split
  · extract_lets t
    have ht : Stands s t := (s.raiseSet_stands _).trans (Stands.of_eq (fun _ _ => State.noteEvent_g _ _ _))
    split
    · exact ht.trans (State.logAppend_stands _ _)
    · exact ht
  · exact Stands.refl s

end Sys2Proof.Machine
end

