-- ==== Sys2Proof/WellFormed.lean ====
section
/-! DEFINITION. The commands whose operands fit together, constructor by constructor: what the types of the operands do not
already say. The meanings are total: a command that is not well formed has one too, but stands for nothing that the hardware does. -/

namespace Sys2Proof

/-- Whether the operands of a command fit together.
(DESIGN CHOICE, log entry 11) -/
def Instr.wellFormed : Instr → Bool
  | .busRequest _ r =>
    decide (1 ≤ r.bytes) && (!r.escal || decide (20 ≤ r.master.val ∧ r.master.val ≤ 23)) &&
      (r.engine.isNone || r.master == 2) && (r.master != 2 || decide (r.addr.toNat % 32 + r.bytes ≤ 512)) &&
      (if r.write then r.data.length == r.bytes && r.strobes.length == r.bytes else r.data.isEmpty && r.strobes.isEmpty)
  | .dpTrainingEnd _ _ caps first second later =>
    caps.length == 16 && decide (later.length ≤ 2) && (first :: second :: later).all (fun t => t.all (fun r => r.length == 6))
  | .dpIrqHpd _ _ bs =>
    bs.length == 8
  | .auxDone _ _ r =>
    r.data.length == r.count.val || r.data.isEmpty
  | .thermalReading _ temps =>
    temps.length == 8
  | .skewWindow _ bytes =>
    bytes.length == 16
  | .captureRow _ _ x ys cs =>
    x.xy.all (fun v => decide (v < 2 ^ 10)) && ys.all (fun v => decide (v < 2 ^ 20)) && cs.all (fun v => decide (v < 2 ^ 10))
  | .captureFrameStart _ _ x =>
    x.xy.all (fun v => decide (v < 2 ^ 10))
  | .touchFrameEnd _ _ steps listens =>
    steps.all (fun r => r.all (fun v => decide (v < 65536))) && listens.all (fun r => r.all (fun v => decide (v < 65536)))
  | .standbyTouchScan _ _ counts =>
    counts.all (fun v => decide (v < 65536))
  | .touchSelftestDone _ found =>
    found.length == 240
  | .i2cRead _ _ n =>
    decide (1 ≤ n)
  | .registerWrite .. | .snapshotRead .. | .qosAging .. | .errRecordRead .. | .drainEnd .. | .engineEnable ..
  | .engineDisable .. | .engineHalt .. | .engineResume .. | .engineStall .. | .engineFault .. | .lockstepMismatch ..
  | .validateStart .. | .validationDone .. | .keystoneCommit .. | .keystoneCancel .. | .keystoneTimeReached ..
  | .amendPost .. | .presetLoad .. | .presetStrobe .. | .presetSelectSample .. | .presetDeferredResume ..
  | .presetFlashReadDone .. | .rateWrite .. | .timeKick .. | .timeStateRequest .. | .kickTimeout ..
  | .holdoverLimit .. | .timeStep .. | .stampQueueRead .. | .txqRead .. | .ppsInputEdge .. | .ppsOutputEdge ..
  | .netModeWrite .. | .netLinkChange .. | .netFrameReceive .. | .netFrameTransmit .. | .mediaPacket ..
  | .sourceLostTimeout .. | .pathLivenessExpire .. | .rtcpSenderReport .. | .srTimeout .. | .sourceEnable ..
  | .sourceDisable .. | .hostReady .. | .hostReadyClose .. | .mdioTransaction .. | .mdioDone .. | .decodeDispatch ..
  | .decodePreempt .. | .decodeJobDone .. | .decodeWatchdog .. | .decodeAccessFault .. | .decPipeEnable ..
  | .decPipeDisable .. | .decFaultRead .. | .decPeakClear .. | .ispRowProcess ..
  | .captureFrameTimeout .. | .captureFrameClose .. | .captureBusError .. | .captureSourceLost ..
  | .ispContextEnable .. | .ispContextDisable .. | .ispApply .. | .capStorePeakClear .. | .latchPoint ..
  | .prefetchStart .. | .composeLine .. | .underrun .. | .bufferRelease .. | .releaseCompletion .. | .otabAccess ..
  | .headEnable .. | .headStart .. | .headDisable .. | .headSleep .. | .headWake .. | .headPairWrite ..
  | .headCommit .. | .genlockMeasure .. | .fifoMinClear .. | .labelScaleWrite .. | .dptxEnable .. | .dptxDisable ..
  | .dptxTrainRequest .. | .dpTrainingCycle .. | .dpHpdPlug .. | .dpHpdUnplug .. | .dpAutoRetrain ..
  | .auxTransaction .. | .auxDeferRetry .. | .auxReplyTimeout .. | .tzlEnable .. | .tzlDisable .. | .tzlTrain ..
  | .tzlOrderedSet .. | .tzlTrainingTimeout .. | .tzlTrainingRetry .. | .tzlLinePacket .. | .ctrlSend ..
  | .tzlStatusPacket .. | .tzlLoopTrailer .. | .tzlLoopSeenExpire .. | .tzlSprReceive .. | .encodeTrigger ..
  | .encodeDispatch .. | .encodePreempt .. | .encodeJobDone .. | .encodeWatchdog .. | .encodeAccessFault ..
  | .encSenderReport .. | .encodeStreamEnable .. | .encodeStreamDisable .. | .forceIdr .. | .encPipeEnable ..
  | .encFaultRead .. | .touchEnable .. | .touchDisable .. | .touchFrameStart .. | .baselineFormed ..
  | .baselineDrift .. | .antiTouchConfirm .. | .touchObjectTimeout .. | .touchSelftest .. | .grantRise ..
  | .grantFall .. | .isolateSet .. | .cusStatusFrame .. | .keepalive .. | .isolate .. | .custodianReset ..
  | .cusLinkTimeout .. | .aliveKick .. | .aliveTimeout .. | .roleRequest .. | .syncGraceExpire .. | .peerOkChange ..
  | .takeDelayExpire .. | .refreshDue .. | .refreshRateRead .. | .calSlotOpen .. | .dramRetrainDone ..
  | .driftWindow .. | .driftWindowEnd .. | .zqCalibrationStart .. | .trainPendingTimeout .. | .fspRequest ..
  | .fspChangeStart .. | .fspChangeDone .. | .ecsScan .. | .pprCommand .. | .pprDone .. | .laneLos ..
  | .laneLosClear .. | .laneLol .. | .laneLolClear .. | .quadPllFail .. | .laneAligned .. | .laneAlignLoss ..
  | .blockLockAcquired .. | .blockLockLoss .. | .adaptationConverged .. | .adaptRestart .. | .laneTestEnable ..
  | .loopbackSelect .. | .prbsInject .. | .prbsClear .. | .prbsLock .. | .prbsLockLoss .. | .bootLoaderRun ..
  | .dramTrainingDone .. | .flashCopyReadDone .. | .regListPauseExpire .. | .imageDataWrite .. | .hostSpiWrite ..
  | .hostSpiRead .. | .hostSpiStatus .. | .i2cPointerWrite .. | .mgmtStatus .. | .mgmtRead .. | .mgmtWrite ..
  | .mgmtMailbox .. | .mgmtImageData .. | .mailboxPost .. | .mailboxTake .. | .mailboxDone .. | .mailboxAck ..
  | .mailboxStatus .. | .loadPage .. | .validate .. | .keystone .. | .amend .. | .preset .. | .setPlacard ..
  | .vitrineWrite .. | .sourceBind .. | .release .. | .flashWrite .. | .flashWriteDone .. | .imageSelect ..
  | .mailboxReset .. | .fuseProgram .. | .powerOnReset .. | .pinReset .. | .brownOutReset .. | .softwareFullReset ..
  | .domainReset .. | .aonSwitchToBackup .. | .aonSwitchToMain .. | .pwrWarn .. | .pwrRecover .. | .wdogKick ..
  | .wdogExpire .. | .pllFail .. | .xtalLoss .. | .lowPowerEntry .. | .lowPowerEntryDone .. | .wake ..
  | .eventStatusClear .. | .eventEnableWrite .. | .eventLogEnable .. | .softwareEvent .. | .gpioEdge ..
  | .intPulseEnd .. | .pllLocked .. | .pllIdleStop .. | .grantStaleClear .. | .domainResetDone ..
  | .fuseProgramDone .. | .prbsErrorDetected .. => true

end Sys2Proof
end

