-- ==== Sys2Proof/Tests/Slice0.lean ====
section
/-! SUPPORT. The author's own tests: an ill-formed command for each check of WellFormed, the worked examples of the spec, and
for each statement states and operands that meet its hypotheses, clause by clause. -/

set_option maxRecDepth 10000

open Sys2Proof Sys2Proof.Machine

namespace Sys2Proof.Tests

/-- The state after reset with register fields set. -/
def st (l : List (FRef × Nat)) : State := l.foldl (fun s e => s.p e.1 e.2) State.reset

/-- The state with entry `i` of course page 0 set. -/
def put16 (s : State) (i v : Nat) : State := s.store (pageAddr 0 i) (leBytes v 16)

/-! ### The checks of WellFormed: an ill-formed command for each is refused -/

/-- A write of two bytes to the shared store, its data and strobes given. -/
def writeTwo (data : List Byte) (strobes : List Bool) : Instr :=
  .busRequest 0 ⟨5, true, 0x1000#36, 2, data, strobes, 0, 0, .clean, .whole, false, none⟩

theorem test_wf_write : (writeTwo [1, 2] [true, true]).wellFormed = true := by decide
theorem test_ill_write_data : (writeTwo [1] [true, true]).wellFormed = false := by decide
theorem test_ill_write_strobes : (writeTwo [1, 2] [true]).wellFormed = false := by decide
theorem test_ill_no_bytes : (Instr.busRequest 0 ⟨5, true, 0x1000#36, 0, [], [], 0, 0, .clean, .whole, false, none⟩).wellFormed = false := by
  decide
theorem test_ill_read_data :
    (Instr.busRequest 0 ⟨5, false, 0x1000#36, 1, [1], [], 0, 0, .clean, .whole, false, none⟩).wellFormed = false := by decide
theorem test_ill_read_strobes :
    (Instr.busRequest 0 ⟨5, false, 0x1000#36, 1, [], [true], 0, 0, .clean, .whole, false, none⟩).wellFormed = false := by decide
theorem test_ill_escalated :
    (Instr.busRequest 0 ⟨5, false, 0x1000#36, 1, [], [], 0, 0, .clean, .whole, true, none⟩).wellFormed = false := by decide
theorem test_ill_engine_port :
    (Instr.busRequest 0 ⟨5, false, 0x1000#36, 1, [], [], 0, 0, .clean, .whole, false, some 3⟩).wellFormed = false := by decide
theorem test_ill_debug_burst :
    (Instr.busRequest 0 ⟨2, false, 0x1001#36, 512, [], [], 0, 0, .clean, .whole, false, none⟩).wellFormed = false := by decide
theorem test_ill_training_caps : (Instr.dpTrainingEnd 0 3 [1, 2] [] [] []).wellFormed = false := by decide
theorem test_ill_training_tries :
    (Instr.dpTrainingEnd 0 3 (List.replicate 16 0) [] [] [[], [], []]).wellFormed = false := by decide
theorem test_ill_training_read :
    (Instr.dpTrainingEnd 0 3 (List.replicate 16 0) [] [[0]] []).wellFormed = false := by decide
theorem test_ill_irq_bytes : (Instr.dpIrqHpd 0 3 [0]).wellFormed = false := by decide
theorem test_ill_aux_count : (Instr.auxDone 0 3 ⟨true, 2, [7]⟩).wellFormed = false := by decide
theorem test_ill_sensors : (Instr.thermalReading 0 [100#16]).wellFormed = false := by decide
theorem test_ill_channels : (Instr.skewWindow 0 [1, 2, 3]).wellFormed = false := by decide
theorem test_ill_capture_xy : (Instr.captureRow 0 1 ⟨[1024], true⟩ [0] [0]).wellFormed = false := by decide
theorem test_ill_start_xy : (Instr.captureFrameStart 0 1 ⟨[1024], true⟩).wellFormed = false := by decide
theorem test_ill_capture_luma : (Instr.captureRow 0 1 ⟨[], true⟩ [1048576] [0]).wellFormed = false := by decide
theorem test_ill_capture_chroma : (Instr.captureRow 0 1 ⟨[], true⟩ [0] [1024]).wellFormed = false := by decide
theorem test_ill_touch_step : (Instr.touchFrameEnd 0 0 [[70000]] []).wellFormed = false := by decide
theorem test_ill_touch_listen : (Instr.touchFrameEnd 0 0 [] [[70000]]).wellFormed = false := by decide
theorem test_ill_standby_count : (Instr.standbyTouchScan 0 0 [65536]).wellFormed = false := by decide
theorem test_ill_selftest_lines : (Instr.touchSelftestDone 0 []).wellFormed = false := by decide
theorem test_ill_i2c_read : (Instr.i2cRead 0 0x30#7 0).wellFormed = false := by decide

/-! ### The spec's worked examples, and published check values -/

/-- The field of the state that a command leaves. -/
def after {α : Type} (i : Instr) (s : State) (f : State → α) : Option α :=
  match exec i s with
  | .next t => some (f t)
  | _ => none

/-- Wall time -0.25 s (R78's example): seconds 0xFFFFFFFFFFFF, nanoseconds 750,000,000. -/
theorem test_wall_before_epoch : wallSec (-250000000) = 0xFFFFFFFFFFFF ∧ wallNs (-250000000) = 750000000 := by decide

/-- One hour after reset, in nanoseconds of the local counter. -/
def hour (l : List (FRef × Nat)) : State := { st l with time := { State.reset.time with count := 3600000000000 } }

/-- The example of wall time, step 3: the step from 3600 s to 1700000000.25 s. -/
theorem test_step_example :
    after (.timeStep 0 40 0x0EE6B280#32) (hour [(Reg.ENG.STATUS.STATE 23, 2), (Reg.TIME.STATUS.STEP_ARMED, 1),
      (Reg.TIME.STEP_SEC_LO.SEC_LO, 0x6553E2F0)])
      (fun t => (t.wall, t.gb Reg.TIME.STATUS.STEP_ARMED)) = some (1700000000250000000, false) := by decide

/-- Step 5: with RATE 0xFF2E48E9 OFFSET rises by 44,999,998.86 ns, and wall time does not jump. -/
theorem test_rate_example :
    after (.rateWrite 0 40 0xFF2E48E9#32) (hour [(Reg.ENG.STATUS.STATE 23, 2)]) (fun t => (t.time.offset / 2 ^ 32, t.wall)) =
      some (44999998, 3600000000000) := by decide

/-- The low-power counter: 32,768 ticks are one second (R77). -/
theorem test_low_power_second : lowPowerCount 1000000000 = 1000000000 ∧ lowPowerCount 30000 = 0 := by decide

/-- The example of R201: α of ALPHA 768 over A 0x80 is 387, and the blend gives 361,216. -/
theorem test_blend_example : alphaOf 768 (alphaP 2 0x80) = 387 ∧ (blend 387 (0x80000, 0, 0) (0x40000, 0, 0)).1 = 361216 := by
  decide

/-- The example of R476: VPLL2 with N 94 and 946 / 1001 lies in its range; N 70 does not. -/
theorem test_vpll_example : vcoFits 94 946 1001 = true ∧ vcoFits 70 0 1 = false := by decide

/-- The example of R142: the reduced copies of a 1920 by 1080 buffer of PITCH_64 80. -/
theorem test_copies_example :
    (List.range 4).map (fun k => (((⟨0, 0, 1920, 1080, 5120⟩ : Pic).copy k).addr, ((⟨0, 0, 1920, 1080, 5120⟩ : Pic).copy k).w)) =
      [(0, 1920), (0x546000, 960), (0x697800, 480), (0x6EBE00, 240)] := by decide

/-- The example of R341: U and V of pixel (1000, 540) in a window at X 960 to 1919, Y 540 to 1079, with full crop. -/
theorem test_touch_coordinates : normCoord 0 65536 960 1919 1000 = 2764 ∧ normCoord 0 65536 540 1079 540 = 60 := by decide

/-- The example of R314 and R316: the target at fullness 450,000, and at 266,711 after tail mode. -/
theorem test_cpb_target :
    let s := st [(Reg.ENC.STR.BITRATE_KBPS 3, 8000), (Reg.ENC.STR.CPB_KBIT 3, 800), (Reg.ENC.STR.PERIOD_90K 3, 3000),
      (Reg.ENC.STR.TAIL_BACKOFF_PCT 3, 25)]
    s.cpbTarget 3 450000 false = 279167 ∧
      (s.setEstr 3 { EncStr.reset with tailed := true }).cpbTarget 3 266711 false = 175009 := by decide

/-- CRC-32C of "123456789", the published check value. -/
theorem test_crc32c : crc32c [0x31, 0x32, 0x33, 0x34, 0x35, 0x36, 0x37, 0x38, 0x39] = 0xE3069283 := by decide

/-- The age of R266's example. -/
theorem test_age_text : ageText 12345 = "12.3 s".toList ∧ ageText 10000000 = "9999.9+ s".toList := by decide

/-- HEAD[5] of the example of events: an underrun stands, enabled and routed to INT_N[1]. -/
def underrunStands : State :=
  st [(Reg.EVT.ENABLE 2, 0x20), (Reg.EVT.ROUTE.PINS 69, 2), (Reg.EVT.HEAD_CAUSE.CAUSE 5, 1)]

/-- The host reads PEND[1] = VALID, 69, and INT_N[1] is low. -/
theorem test_pend_example : underrunStands.pendWord 1 = 0x80000045#32 ∧ underrunStands.intAsserted 1 = true := by decide

/-- The host writes 1 to STATUS bit 69: INT_N[1] is released. -/
theorem test_clear_example :
    after (.eventStatusClear 0 3 (.status 2 0x20#32)) underrunStands (fun t => (t.evStatus 69, t.intAsserted 1)) =
      some (false, false) := by decide

/-- The example of R471: the second dip counts and raises nothing. -/
theorem test_second_dip :
    after (.pwrWarn 5000000 0 1#10) (st [(Reg.PWR.STATUS.WARN_ACTIVE, 1), (Reg.PWR.WARN_COUNTS.EPISODES, 1),
      (Reg.PWR.WARN_COUNTS.DIPS, 1)]) (fun t => (t.g Reg.PWR.WARN_COUNTS.DIPS, t.g Reg.PWR.WARN_COUNTS.EPISODES, t.evStatus Ev.pwrWarn)) =
      some (2, 1, false) := by decide

/-- A page of 16 bytes of zeros has a LENGTH out of range (R56). -/
theorem test_empty_page : (validatePage (fun _ => 0) State.reset.valContext).1 = 0xA := by decide

/-- An empty queue: the block idles. -/
theorem test_idle : step State.reset = .next State.reset := rfl

/-- STAT reads BOOTING after reset, an unpowered unit drives no pin, and a trip holds THERM_TRIP_N low (R455, R473, R509). -/
theorem test_pins :
    ([0, 1, 2].map State.reset.pinStat, State.reset.pinInt 0, State.reset.pinCusAlive) = ([.high, .low, .low], .highZ, .low) ∧
    ({ State.reset with pwr := { State.reset.pwr with mode := .unpowered } }).pinCusTxd = .highZ ∧
    (st [(Reg.PWR.THERM_STATUS.TRIPPED, 1)]).pinThermTrip = .low := by decide

/-- A drive line gives its upper neighbour 6 of its own 9, which marks both (R345). -/
def probes : List LineProbe :=
  [⟨40, 9, 0, 6, false, false, false, false⟩, ⟨40, 9, 0, 0, false, false, false, false⟩, ⟨3, 9, 0, 0, false, false, false, false⟩]
theorem test_short_marks_both : (List.range 4).map (lineShorted probes) = [true, true, false, false] := by decide
theorem test_twice_median : twiceMedian [9, 1, 4, 4] = 8 ∧ twiceMedian [7, 1, 3] = 6 := by decide

/-! ### The statements' hypotheses are met -/

/-- The hypotheses of StepTakesFrontCommand are met. -/
theorem witness_StepTakesFrontCommand : (State.reset.pending = []) := by decide

/-- The hypotheses of StepKeepsForm are met. -/
theorem witness_StepKeepsForm : State.reset.wf = true ∧ step State.reset = .next State.reset := ⟨by decide, rfl⟩

/-- The hypotheses of CommandsKeepQueueAndIdentity are met. -/
theorem witness_CommandsKeepQueueAndIdentity : exec (.kickTimeout 0) State.reset = .next (kickTimeout (State.reset.advance 0)) := rfl

/-- The hypotheses of RegisterWriteTakesEffect, clause by clause, are met. -/
theorem witness_RegisterWriteTakesEffect :
    (let m : Master := 1; let s : State := State.reset; (s.coreOn = true) ∧ (s.issues m.val = true) ∧ (m.val ≤ 1)) ∧
    (let m : Master := 1; let s : State := State.reset; (s.coreOn = true) ∧ (s.issues m.val = true) ∧ (m.val ≤ 1)) ∧
    (let m : Master := 2; let s : State := State.reset; (s.coreOn = true) ∧ (s.issues m.val = true) ∧ (2 ≤ m.val)) ∧
    (let m : Master := 44; let s : State := State.reset; (s.coreOn = true) ∧ (s.issues m.val = true)) ∧
    (let m : Master := 3; let s : State := { State.reset with pwr := { State.reset.pwr with mode := .unpowered } }; (s.coreOn = false) ∧ ((m.val = 2 ∨ m.val = 3))) := by
  refine ⟨?_, ?_, ?_, ?_, ?_⟩ <;> decide

/-- The hypotheses of ReadsKeepOtherMastersSnapshots, clause by clause, are met. -/
theorem witness_ReadsKeepOtherMastersSnapshots :
    (let m : Master := 7; let k : Master := 8; (k ≠ m)) ∧
    (let m : Master := 7; let s : State := State.reset; (s.coreOn = true) ∧ (s.readsNow m.val = true)) ∧
    (let m : Master := 7; let s : State := State.reset; (s.coreOn = true) ∧ (s.readsNow m.val = true)) := by
  refine ⟨?_, ?_, ?_⟩ <;> decide

/-- The hypotheses of BusRequestsPortsAndErrorRecords, clause by clause, are met. -/
theorem witness_BusRequestsPortsAndErrorRecords :
    (let dt : Nat := 1; let m : Master := 5; let a : BitVec 36 := 0x1000#36; let bs : List Byte := [1, 2, 3]; let ks : List Bool := [true, false, true]; let i : Fin 64 := 0; let q : Fin 16 := 0; let s : State := State.reset.store 0x1000 [9, 8]; (s.coreOn = true) ∧ (s.draining m.val = false) ∧ (bs ≠ []) ∧ (ks.length = bs.length) ∧ (a.toNat % 512 + bs.length ≤ 512) ∧ ((a.toNat < 0x10000000 ∨ 0x20000000 ≤ a.toNat)) ∧ (s.dataCheck m.val a.toNat bs.length true = none) ∧ (s.leaseHit m.val a.toNat bs.length = none) ∧ ((s.advance dt).mustWait ⟨m, true, a, bs.length, bs, ks, i, q, .clean, .whole, false, none⟩ = false)) ∧
    (let dt : Nat := 1; let n : Nat := 3; let m : Master := 5; let a : BitVec 36 := 0x1000#36; let i : Fin 64 := 0; let q : Fin 16 := 0; let s : State := State.reset.store 0x1000 [7]; (s.coreOn = true) ∧ (s.draining m.val = false) ∧ (1 ≤ n) ∧ (a.toNat % 512 + n ≤ 512) ∧ ((a.toNat < 0x10000000 ∨ 0x20000000 ≤ a.toNat)) ∧ (s.dataCheck m.val a.toNat n false = none) ∧ ((a.toNat < 0x8000000 ∨ 0x10000000 ≤ a.toNat)) ∧ (s.eccHit a.toNat n = false) ∧ (s.bus.inflight = []) ∧ ((s.advance dt).mustWait ⟨m, false, a, n, [], [], i, q, .clean, .whole, false, none⟩ = false)) ∧
    (let dt : Nat := 1; let n : Nat := 3; let m : Master := 5; let a : BitVec 36 := 0x8001000#36; let i : Fin 64 := 0; let q : Fin 16 := 0; let s : State := { State.reset with flash := [(0x1000, 9)] }; (s.coreOn = true) ∧ (s.draining m.val = false) ∧ (1 ≤ n) ∧ (a.toNat % 512 + n ≤ 512) ∧ (s.dataCheck m.val a.toNat n false = none) ∧ (0x8000000 ≤ a.toNat) ∧ (a.toNat + n ≤ 0x10000000) ∧ (s.boot.flash = none) ∧ (s.eccHit a.toNat n = false) ∧ (s.bus.inflight = []) ∧ ((s.advance dt).mustWait ⟨m, false, a, n, [], [], i, q, .clean, .whole, false, none⟩ = false)) ∧
    (let n : Nat := 2; let m : Master := 5; let w : Bool := true; let a : BitVec 36 := 0x2000000#36; let s : State := State.reset; (s.coreOn = true) ∧ (s.draining m.val = false) ∧ (1 ≤ n) ∧ (a.toNat % 512 + n ≤ 512) ∧ ((a.toNat < 0x10000000 ∨ 0x20000000 ≤ a.toNat)) ∧ ((s.dataCheck m.val a.toNat n w).isSome = true) ∧ (s.gb Reg.EVT.LOG_EN = false)) ∧
    (let n : Nat := 2; let m : Master := 5; let w : Bool := true; let a : BitVec 36 := 0x1000#36; let s : State := State.reset; (s.coreOn = true) ∧ (s.draining m.val = false) ∧ (1 ≤ n) ∧ (a.toNat % 256 + n ≤ 256) ∧ ((a.toNat < 0x10000000 ∨ 0x20000000 ≤ a.toNat)) ∧ (s.dataCheck m.val a.toNat n w = none)) ∧
    (let dt : Nat := 1; let n : Nat := 2; let m : Master := 6; let w : Bool := true; let a : BitVec 36 := 0x1000#36; let bs : List Byte := [1, 2]; let ks : List Bool := []; let i : Fin 64 := 0; let q : Fin 16 := 0; let s : State := { State.reset with clock := 30000, bus := { State.reset.bus with inflight := [⟨5, 8, true, 64, 2, [7, 8], [true, false], 3, 2, true, 0, 100, false, .clean, true, 0, 0⟩] } }; (s.coreOn = true) ∧ (s.draining m.val = false) ∧ (1 ≤ n) ∧ (a.toNat % 256 + n ≤ 256) ∧ ((a.toNat < 0x10000000 ∨ 0x20000000 ≤ a.toNat)) ∧ ((s.advance dt).mustWait ⟨m, w, a, n, bs, ks, i, q, .clean, .whole, false, none⟩ = true)) ∧
    (let m : Master := 5; let a : BitVec 36 := 0x1000#36; let i : Fin 64 := 3; let p : PendReq := ⟨5, 8, true, 64, 2, [7, 8], [true, false], 3, 2, true, 0, 100, false, .clean, true, 0, 0⟩; let s : State := { State.reset with clock := 30000, bus := { State.reset.bus with inflight := [⟨5, 8, true, 64, 2, [7, 8], [true, false], 3, 2, true, 0, 100, false, .clean, true, 0, 0⟩] } }; (s.coreOn = true) ∧ ((a.toNat < 0x10000000 ∨ 0x20000000 ≤ a.toNat)) ∧ (s.bus.retired.contains (m.val, i.val) = false) ∧ (s.burstOf m.val i.val = [p]) ∧ (p.granted = true) ∧ (p.write = true) ∧ (p.fail = 0) ∧ (s.leaseHit p.master p.addr p.bytes = none)) ∧
    (let e : Fin 24 := 3; let s : State := State.reset.pb (Reg.ENG.CTRL.DEBUG_EN 3) true; (s.coreOn = true) ∧ (s.gb (Reg.ENG.CTRL.DEBUG_EN e.val) = true)) ∧
    (let dt : Nat := 1; let m : Master := 5; let id : Fin 64 := 3; let p : PendReq := ⟨5, 8, false, 64, 4, [], [], 3, 2, false, 0, 100, false, .clean, true, 0, 0⟩; let l : List PendReq := []; let r : List PendReq := []; let s : State := { State.reset with clock := 30000, bus := { State.reset.bus with inflight := [⟨5, 8, false, 64, 4, [], [], 3, 2, false, 0, 100, false, .clean, true, 0, 0⟩] } }; (s.coreOn = true) ∧ (s.bus.inflight = l ++ p :: r) ∧ ((∀ x ∈ l, x.master ≠ m.val ∨ x.id ≠ id.val)) ∧ (p.master = m.val) ∧ (p.id = id.val) ∧ (p.granted = false) ∧ (p.aged = false) ∧ (p.qos < 8) ∧ (p.since + 20000 < s.clock + dt)) ∧
    (let m : Master := 5; let k : Nat := 3; let l : List (Nat × Nat) := [(7, 1)]; let r : List (Nat × Nat) := []; let s : State := { State.reset with bus := { State.reset.bus with draining := [(7, 1), (5, 3)] } }; (s.coreOn = true) ∧ (s.bus.draining = l ++ (m.val, k) :: r) ∧ ((∀ x ∈ l ++ r, x.1 ≠ m.val))) ∧
    (let m : Master := 4; let r : ErrRecord := ⟨1, 5, 14, 0x2000000, true, false, true, 3, 2, 1, 0, 77, 9⟩; let rest : List ErrRecord := []; let s : State := { State.reset with bus := { State.reset.bus with err := [⟨1, 5, 14, 0x2000000, true, false, true, 3, 2, 1, 0, 77, 9⟩] } }; (s.coreOn = true) ∧ (s.readsNow m.val = true) ∧ (s.bus.err = r :: rest)) ∧
    (let m : Master := 4; let s : State := State.reset; (s.coreOn = true) ∧ (s.readsNow m.val = true) ∧ (s.bus.err = [])) := by
  refine ⟨?_, ?_, ?_, ?_, ?_, ?_, ?_, ?_, ?_, ?_, ?_, ?_⟩ <;> decide

/-- The hypotheses of EngineStartStop, clause by clause, are met. -/
theorem witness_EngineStartStop :
    (let m : Master := 1; let n : Fin 24 := 7; let s : State := (st []).setEngine 7 ⟨0, none, true, 0, 0, 0⟩; (s.coreOn = true) ∧ (s.mayWrite m.val ((Reg.ENG.CTRL.ENABLE n.val).addr) = true) ∧ ((s.engine n.val).loaded = true) ∧ (s.gb (Reg.ENG.CTRL.HALT n.val) = false) ∧ (s.g (Reg.ENG.STATUS.STATE n.val) ≠ 4)) ∧
    (let m : Master := 1; let n : Fin 24 := 7; let s : State := State.reset; (s.coreOn = true) ∧ (s.mayWrite m.val ((Reg.ENG.CTRL.ENABLE n.val).addr) = true) ∧ ((s.engine n.val).loaded = false) ∧ (s.g (Reg.ENG.STATUS.STATE n.val) = 0)) ∧
    (let m : Master := 1; let n : Fin 24 := 7; let s : State := (st [(Reg.ENG.CTRL.ENABLE 7, 1), (Reg.ENG.STATUS.STATE 7, 2)]).setEngine 7 ⟨0, none, true, 0, 0, 0⟩; (s.coreOn = true) ∧ (s.mayWrite m.val ((Reg.ENG.CTRL.ENABLE n.val).addr) = true)) ∧
    (let m : Master := 1; let n : Fin 24 := 7; let s : State := (st [(Reg.ENG.CTRL.ENABLE 7, 1), (Reg.ENG.STATUS.STATE 7, 2)]).setEngine 7 ⟨0, none, true, 0, 0, 0⟩; (s.coreOn = true) ∧ (s.mayWrite m.val ((Reg.ENG.CTRL.ENABLE n.val).addr) = true) ∧ ((s.engine n.val).loaded = true) ∧ (s.gb (Reg.ENG.CTRL.ENABLE n.val) = true) ∧ (s.g (Reg.ENG.STATUS.STATE n.val) ≠ 4)) ∧
    (let m : Master := 1; let n : Fin 24 := 7; let s : State := (st [(Reg.ENG.CTRL.ENABLE 7, 1), (Reg.ENG.CTRL.HALT 7, 1), (Reg.ENG.STATUS.STATE 7, 3)]).setEngine 7 ⟨0, none, true, 0, 0, 0⟩; (s.coreOn = true) ∧ (s.mayWrite m.val ((Reg.ENG.CTRL.ENABLE n.val).addr) = true) ∧ ((s.engine n.val).loaded = true) ∧ (s.gb (Reg.ENG.CTRL.ENABLE n.val) = true) ∧ (s.g (Reg.ENG.STATUS.STATE n.val) ≠ 4)) := by
  refine ⟨?_, ?_, ?_, ?_, ?_⟩ <;> decide

/-- The hypotheses of EngineFaults, clause by clause, are met. -/
theorem witness_EngineFaults :
    (let dt : Nat := 100000000; let n : Fin 24 := 7; let s : State := (st [(Reg.ENG.CTRL.ENABLE 7, 1), (Reg.ENG.STATUS.STATE 7, 2)]).setEngine 7 ⟨0, none, true, 0, 0, 0⟩; (s.coreOn = true) ∧ (2 ≤ n.val) ∧ (s.g (Reg.ENG.STATUS.STATE n.val) = 2) ∧ ((s.engine n.val).beatAt + 100000000 ≤ s.clock + dt) ∧ (s.gb (Reg.ENG.CTRL.AUTO_RESTART n.val) = false) ∧ (s.gb (Reg.ENG.FAULT.VALID n.val) = false)) ∧
    (let n : Fin 24 := 0; let s : State := (st [(Reg.ENG.CTRL.ENABLE 0, 1), (Reg.ENG.STATUS.STATE 0, 2)]).setEngine 0 ⟨0, none, true, 0, 0, 0⟩; (s.coreOn = true) ∧ (s.g (Reg.ENG.STATUS.STATE n.val) = 2) ∧ ((n.val < 2 ∨ s.gb (Reg.ENG.CTRL.AUTO_RESTART n.val) = false)) ∧ (s.gb (Reg.ENG.FAULT.VALID n.val) = false)) ∧
    (let n : Fin 24 := 9; let s : State := (st [(Reg.ENG.CTRL.ENABLE 9, 1), (Reg.ENG.CTRL.AUTO_RESTART 9, 1), (Reg.ENG.STATUS.STATE 9, 2)]).setEngine 9 ⟨0, none, true, 0, 0, 0⟩; (s.coreOn = true) ∧ (2 ≤ n.val) ∧ (s.g (Reg.ENG.STATUS.STATE n.val) = 2) ∧ (s.gb (Reg.ENG.CTRL.AUTO_RESTART n.val) = true) ∧ (s.gb (Reg.ENG.CTRL.ENABLE n.val) = true) ∧ (s.gb (Reg.ENG.CTRL.HALT n.val) = false) ∧ ((s.engine n.val).loaded = true) ∧ ((s.engine n.val).restartAt = none) ∧ (s.eccHit (s.engine n.val).copyAddr (s.engine n.val).copyLen = false)) ∧
    (let s : State := (st [(Reg.ENG.STATUS.STATE 0, 2), (Reg.ENG.STATUS.STATE 1, 2)]); (s.coreOn = true) ∧ (s.g (Reg.ENG.STATUS.STATE 0) = 2) ∧ (s.g (Reg.ENG.STATUS.STATE 1) = 2) ∧ (s.gb (Reg.ENG.FAULT.VALID 0) = false) ∧ (s.gb (Reg.ENG.FAULT.VALID 1) = false)) := by
  refine ⟨?_, ?_, ?_, ?_⟩ <;> decide

/-- The hypotheses of RefusedCommitChangesNothingElse, clause by clause, are met. -/
theorem witness_RefusedCommitChangesNothingElse :
    (let m : Master := 1; let s : State := State.reset; (s.coreOn = true) ∧ (s.issues m.val = true) ∧ (m.val ≤ 1) ∧ (s.gb Reg.SEQ.STATUS.STAGE_VALID = false)) ∧
    (let m : Master := 1; let s : State := st [(Reg.SEQ.STATUS.STAGE_VALID, 1), (Reg.SEQ.STATUS.KEY_STATE, 2)]; (s.coreOn = true) ∧ (s.issues m.val = true) ∧ (m.val ≤ 1) ∧ (s.gb Reg.SEQ.STATUS.STAGE_VALID = true) ∧ (s.g Reg.SEQ.STATUS.KEY_STATE = 2)) ∧
    (let m : Master := 1; let s : State := st [(Reg.SEQ.STATUS.STAGE_VALID, 1), (Reg.DMC.FSP_STATUS.CURRENT, 2)]; (s.coreOn = true) ∧ (s.issues m.val = true) ∧ (m.val ≤ 1) ∧ (s.gb Reg.SEQ.STATUS.STAGE_VALID = true) ∧ (s.g Reg.SEQ.STATUS.KEY_STATE ≠ 2) ∧ (pgPoint (s.page s.stagePage) < s.g Reg.DMC.FSP_STATUS.CURRENT)) := by
  refine ⟨?_, ?_, ?_⟩ <;> decide

/-- The hypotheses of KeystoneRuns, clause by clause, are met. -/
theorem witness_KeystoneRuns :
    (let dt : Nat := 1; let m : Master := 1; let s : State := st [(Reg.SEQ.STATUS.STAGE_VALID, 1), (Reg.SEQ.STATUS.LIVE_VALID, 1), (Reg.SEQ.KEY_TIME_SEC_LO.SEC_LO, 9)]; (s.coreOn = true) ∧ (s.mayWrite m.val (0x100B002C) = true) ∧ (s.gb Reg.SEQ.STATUS.STAGE_VALID = true) ∧ (s.g Reg.SEQ.STATUS.KEY_STATE ≠ 2) ∧ (s.g Reg.DMC.FSP_STATUS.CURRENT ≤ pgPoint (s.page s.stagePage)) ∧ (s.gb Reg.SEQ.STATUS.LIVE_VALID = true) ∧ ((s.advance dt).wall < s.keyTime)) ∧
    (let m : Master := 1; let s : State := st [(Reg.SEQ.STATUS.KEY_STATE, 1)]; (s.coreOn = true) ∧ (s.mayWrite m.val (0x100B002C) = true) ∧ (s.g Reg.SEQ.STATUS.KEY_STATE = 1)) ∧
    (let m : Master := 1; let s : State := st [(Reg.SEQ.STATUS.KEY_STATE, 2)]; (s.coreOn = true) ∧ (s.mayWrite m.val (0x100B002C) = true) ∧ (s.g Reg.SEQ.STATUS.KEY_STATE = 2)) ∧
    (let dt : Nat := 10000000000; let s : State := { st [(Reg.SEQ.STATUS.KEY_STATE, 1), (Reg.SEQ.STATUS.LIVE_VALID, 1), (Reg.SEQ.STAGE_GEN.GENERATION, 7)] with seq := { State.reset.seq with keyT := 9000000000 } }; (s.coreOn = true) ∧ (s.g Reg.SEQ.STATUS.KEY_STATE ≠ 0) ∧ ((s.advance dt).keyReached = true) ∧ (s.keyLeft = [])) ∧
    (let dt : Nat := 10000000000; let n : Fin 64 := 43; let s : State := st [(Reg.SEQ.STATUS.KEY_STATE, 1), (Reg.HEAD.STATUS.RUN_STATE 0, 2)]; (s.coreOn = true) ∧ (s.g Reg.SEQ.STATUS.KEY_STATE ≠ 0) ∧ ((s.advance dt).keyReached = true) ∧ (s.keyLeft ≠ []) ∧ (s.headRuns n.val = false)) := by
  refine ⟨?_, ?_, ?_, ?_, ?_⟩ <;> decide

/-- The hypotheses of the last clauses of PageValidation are met. -/
theorem witness_PageValidation_pages : (pgLength (fun _ => 0) < 8) ∧ Tab.get none (pgKeyId (fun _ => 0)) State.reset.valContext.keys = none ∧ bandwidthFits (fun _ => 2 ^ 63 + 2 ^ 33 + 2 ^ 112) 0 0 = false ∧ pageCrc (fun _ => 1) ≠ pgCrc (fun _ => 1) := by decide

/-- The hypotheses of PageValidation, clause by clause, are met. -/
theorem witness_PageValidation :
    (let m : Master := 1; let s : State := State.reset; (s.coreOn = true) ∧ (s.mayWrite m.val (0x100B0010) = true) ∧ (s.g Reg.SEQ.STATUS.VAL_STATE ≠ 1) ∧ (s.g Reg.SEQ.STATUS.KEY_STATE ≠ 2)) ∧
    (let m : Master := 1; let s : State := st [(Reg.SEQ.STATUS.VAL_STATE, 1)]; (s.coreOn = true) ∧ (s.mayWrite m.val (0x100B0010) = true) ∧ ((s.g Reg.SEQ.STATUS.VAL_STATE = 1 ∨ s.g Reg.SEQ.STATUS.KEY_STATE = 2))) ∧
    (let s : State := st [(Reg.SEQ.STATUS.VAL_STATE, 1)]; (s.coreOn = true) ∧ (s.g Reg.SEQ.STATUS.VAL_STATE = 1) ∧ (s.seq.preset ≠ .validating)) ∧
    (let s : State := { st [(Reg.SEQ.STATUS.VAL_STATE, 1)] with seq := { State.reset.seq with preset := .validating } }; (s.coreOn = true) ∧ (s.g Reg.SEQ.STATUS.VAL_STATE = 1) ∧ (s.seq.preset = .validating) ∧ (((validatePage (s.page s.stagePage) s.valContext).1 ≠ 0 ∨ s.gb Reg.SEQ.PRESET_CTRL.AUTO_KEY = false))) ∧
    (let dt : Nat := 1; let s : State := { st [(Reg.SEQ.STATUS.VAL_STATE, 1), (Reg.SEQ.STATUS.LIVE_VALID, 1), (Reg.SEQ.PRESET_CTRL.AUTO_KEY, 1), (Reg.SEQ.PRESET_TIMING.LEAD_MS, 50)] with seq := { State.reset.seq with preset := .validating } }; (s.coreOn = true) ∧ (s.g Reg.SEQ.STATUS.VAL_STATE = 1) ∧ (s.seq.preset = .validating) ∧ (s.gb Reg.SEQ.PRESET_CTRL.AUTO_KEY = true) ∧ (s.gb Reg.SEQ.STATUS.LIVE_VALID = true) ∧ (s.g Reg.SEQ.STATUS.KEY_STATE ≠ 2) ∧ (s.g Reg.DMC.FSP_STATUS.CURRENT ≤ pgPoint (s.page s.stagePage)) ∧ ((s.advance dt).wall < (s.advance dt).presetT)) := by
  refine ⟨?_, ?_, ?_, ?_, ?_⟩ <;> decide

/-- The hypotheses of AmendmentsPosted, clause by clause, are met. -/
theorem witness_AmendmentsPosted :
    (let m : Master := 1; let s : State := State.reset; (s.coreOn = true) ∧ (s.mayWrite m.val (0x100B0040) = true) ∧ (s.gb Reg.SEQ.STATUS.LIVE_VALID = false)) ∧
    (let m : Master := 1; let v : Word := 0x2005#32; let s : State := st [(Reg.SEQ.STATUS.LIVE_VALID, 1)]; (s.coreOn = true) ∧ (s.mayWrite m.val (0x100B0040) = true) ∧ (fieldGet v 12 3 ≤ 5) ∧ (s.amendCheck (fieldGet v 12 3) (fieldGet v 0 10) (s.g Reg.SEQ.AMD_ARG0.ARG0) (s.g Reg.SEQ.AMD_ARG1.ARG1) ≠ 0)) ∧
    (let m : Master := 1; let v : Word := 0x2000#32; let s : State := { put16 (put16 (put16 (put16 (put16 (put16 (st [(Reg.SEQ.STATUS.LIVE_VALID, 1), (Reg.HEAD.STATUS.RUN_STATE 3, 2)]) 1 ((4 + 2 ^ 16 * 2) * 2 ^ 64 + (6 + 2 ^ 16 * 2) * 2 ^ 96)) 3 ((8 + 2 ^ 16) * 2 ^ 32)) 4 1) 6 3) 8 (2 ^ 12)) 0 0 with free := 0 }; (s.coreOn = true) ∧ (s.mayWrite m.val (0x100B0040) = true) ∧ (fieldGet v 12 3 ≤ 4) ∧ (s.gb Reg.SEQ.STATUS.LIVE_VALID = true) ∧ (s.amendCheck (fieldGet v 12 3) (fieldGet v 0 10) (s.g Reg.SEQ.AMD_ARG0.ARG0) (s.g Reg.SEQ.AMD_ARG1.ARG1) = 0) ∧ (windowHeads (s.page (s.g Reg.SEQ.STATUS.LIVE_PAGE)) (fieldGet v 0 10) ≠ []) ∧ ((windowHeads (s.page (s.g Reg.SEQ.STATUS.LIVE_PAGE)) (fieldGet v 0 10)).all (fun n => s.headRuns n && !s.seq.taken.contains n) = true)) := by
  refine ⟨?_, ?_, ?_⟩ <;> decide

/-- The hypotheses of PresetSelections, clause by clause, are met. -/
theorem witness_PresetSelections :
    (let m : Master := 1; let v : Word := 3#32; let s : State := State.reset; (s.coreOn = true) ∧ (s.mayWrite m.val (0x100B0050) = true) ∧ (Tab.get none (fieldGet v 0 5) s.img.presets = none)) ∧
    (let m : Master := 1; let v : Word := 3#32; let s : State := { State.reset with img := ⟨[], [], [(3, some (0, 8))]⟩ }; (s.coreOn = true) ∧ (s.mayWrite m.val (0x100B0050) = true) ∧ ((Tab.get none (fieldGet v 0 5) s.img.presets).isSome = true) ∧ (s.g Reg.SEQ.STATUS.KEY_STATE = 0)) ∧
    (let m : Master := 1; let v : Word := 3#32; let s : State := { st [(Reg.SEQ.STATUS.KEY_STATE, 1)] with img := ⟨[], [], [(3, some (0, 8))]⟩ }; (s.coreOn = true) ∧ (s.mayWrite m.val (0x100B0050) = true) ∧ ((Tab.get none (fieldGet v 0 5) s.img.presets).isSome = true) ∧ (s.g Reg.SEQ.STATUS.KEY_STATE ≠ 0)) ∧
    (let s : State := { State.reset with seq := { State.reset.seq with preset := .deferred } }; (s.coreOn = true) ∧ (s.seq.preset = .deferred) ∧ (s.g Reg.SEQ.STATUS.KEY_STATE = 0)) ∧
    (let s : State := { State.reset with seq := { State.reset.seq with preset := .reading } }; (s.coreOn = true) ∧ (s.seq.preset = .reading) ∧ (s.g Reg.SEQ.STATUS.KEY_STATE ≠ 2)) ∧
    (let s : State := st [(Reg.SEQ.PRESET_GPIO.ENABLE, 1)]; (s.coreOn = true) ∧ (s.gb Reg.SEQ.PRESET_GPIO.ENABLE = true)) ∧
    (let dt : Nat := 30000000; let s : State := { st [(Reg.SEQ.PRESET_GPIO.ENABLE, 1), (Reg.SEQ.PRESET_GPIO.FIRST, 2), (Reg.SEQ.PRESET_GPIO.STROBE, 12)] with seq := { State.reset.seq with strobe := true }, pins := { State.reset.pins with gpio := 0x14 } }; (s.coreOn = true) ∧ (s.gb Reg.SEQ.PRESET_GPIO.ENABLE = true) ∧ (s.seq.strobe = true) ∧ (s.pinsStable + 1000000 * s.g Reg.SEQ.PRESET_GPIO.DEBOUNCE_MS ≤ s.clock + dt) ∧ (Tab.get none s.presetPins s.img.presets = none) ∧ (s.g Reg.SEQ.PRESET_GPIO.WIDTH ≤ 5)) ∧
    (let dt : Nat := 30000000; let s : State := { st [(Reg.SEQ.PRESET_GPIO.ENABLE, 1), (Reg.SEQ.PRESET_GPIO.FIRST, 2), (Reg.SEQ.PRESET_GPIO.STROBE, 12)] with img := ⟨[], [], [(5, some (0, 8)), (1, some (0, 8))]⟩, seq := { State.reset.seq with strobe := true }, pins := { State.reset.pins with gpio := 0x14 } }; (s.coreOn = true) ∧ (s.gb Reg.SEQ.PRESET_GPIO.ENABLE = true) ∧ (s.seq.strobe = true) ∧ (s.pinsStable + 1000000 * s.g Reg.SEQ.PRESET_GPIO.DEBOUNCE_MS ≤ s.clock + dt) ∧ ((Tab.get none s.presetPins s.img.presets).isSome = true) ∧ (s.g Reg.SEQ.PRESET_GPIO.WIDTH ≤ 5)) ∧
    (let s : State := { State.reset with img := ⟨[], [], [(0, some (0, 8))]⟩, seq := { State.reset.seq with preset := .reading } }; (s.coreOn = true) ∧ (s.seq.preset = .reading) ∧ (s.g Reg.SEQ.STATUS.KEY_STATE ≠ 2) ∧ (s.g Reg.SEQ.STATUS.VAL_STATE ≠ 1) ∧ ((Tab.get none (s.g Reg.SEQ.PRESET_STATUS.LAST) s.img.presets).isSome = true)) := by
  refine ⟨?_, ?_, ?_, ?_, ?_, ?_, ?_, ?_, ?_⟩ <;> decide

/-- The hypotheses of RateWriteKeepsWallTime, clause by clause, are met. -/
theorem witness_RateWriteKeepsWallTime :
    (let m : Master := 40; let s : State := { st [(Reg.TIME.RATE.RATE, 5), (Reg.ENG.STATUS.STATE 23, 2)] with clock := 3 }; (s.coreOn = true) ∧ (s.mayWrite m.val (0x1006003C) = true)) ∧
    (let m : Master := 40; let s : State := { st [(Reg.ENG.STATUS.STATE 23, 2)] with clock := 3 }; (s.coreOn = true) ∧ (s.mayWrite m.val (0x1006000C) = true)) := by
  refine ⟨?_, ?_⟩ <;> decide

/-- The hypotheses of TimeStatesFollowTheTable, clause by clause, are met. -/
theorem witness_TimeStatesFollowTheTable :
    (let m : Master := 40; let x : Fin 4 := 2; let s : State := st [(Reg.ENG.STATUS.STATE 23, 2), (Reg.TIME.STATUS.STATE, 1), (Reg.TIME.STATUS.STEP_ARMED, 1)]; (s.coreOn = true) ∧ (s.mayWrite m.val (0x10060008) = true) ∧ ((s.timeState, x.val) ∈ [(0, 1), (1, 2), (1, 0), (2, 3), (2, 0), (3, 2), (3, 0)])) ∧
    (let m : Master := 40; let x : Fin 4 := 2; let s : State := st [(Reg.ENG.STATUS.STATE 23, 2)]; (s.coreOn = true) ∧ (s.mayWrite m.val (0x10060008) = true) ∧ ((s.timeState, x.val) ∉ [(0, 1), (1, 2), (1, 0), (2, 3), (2, 0), (3, 2), (3, 0)])) ∧
    (let dt : Nat := 7000000000; let s : State := st [(Reg.TIME.STATUS.STATE, 2), (Reg.TIME.CTRL.KICK_TIMEOUT_MS, 1000)]; (s.coreOn = true) ∧ (s.timeState = 2) ∧ (s.g Reg.TIME.CTRL.KICK_TIMEOUT_MS ≠ 0) ∧ (s.g Reg.TIME.CTRL.KICK_TIMEOUT_MS * 1000000 ≤ s.clock + dt - s.time.kickAt)) ∧
    (let dt : Nat := 7; let s : State := st [(Reg.TIME.STATUS.STATE, 2), (Reg.TIME.CTRL.KICK_TIMEOUT_MS, 1000)]; (s.timeState = 2) ∧ (s.clock + dt - s.time.kickAt < s.g Reg.TIME.CTRL.KICK_TIMEOUT_MS * 1000000)) ∧
    (let dt : Nat := 7000000000; let s : State := st [(Reg.TIME.STATUS.STATE, 3), (Reg.TIME.CTRL.HOLDOVER_LIMIT_S, 7)]; (s.coreOn = true) ∧ (s.timeState = 3) ∧ (s.g Reg.TIME.CTRL.HOLDOVER_LIMIT_S ≠ 0) ∧ (s.g Reg.TIME.CTRL.HOLDOVER_LIMIT_S * 1000000000 ≤ s.clock + dt - s.time.holdAt)) ∧
    (let dt : Nat := 7; let s : State := st [(Reg.TIME.STATUS.STATE, 3), (Reg.TIME.CTRL.HOLDOVER_LIMIT_S, 7)]; (s.timeState = 3) ∧ (s.clock + dt - s.time.holdAt < s.g Reg.TIME.CTRL.HOLDOVER_LIMIT_S * 1000000000)) := by
  refine ⟨?_, ?_, ?_, ?_, ?_, ?_⟩ <;> decide

/-- The hypotheses of StepOnceWhileArmed, clause by clause, are met. -/
theorem witness_StepOnceWhileArmed :
    (let m : Master := 40; let v : Word := 0x80000005#32; let s : State := st [(Reg.ENG.STATUS.STATE 23, 2), (Reg.TIME.STATUS.STEP_ARMED, 1), (Reg.TIME.STEP_SEC_LO.SEC_LO, 3)]; (s.coreOn = true) ∧ (s.mayWrite m.val (0x10060040) = true) ∧ (s.gb Reg.TIME.STATUS.STEP_ARMED = true) ∧ (fieldGet v 0 30 ≤ 999999999)) ∧
    (let m : Master := 40; let v : Word := 0x80000005#32; let s : State := st [(Reg.ENG.STATUS.STATE 23, 2), (Reg.TIME.STEP_SEC_LO.SEC_LO, 3)]; (s.coreOn = true) ∧ (s.mayWrite m.val (0x10060040) = true) ∧ ((s.gb Reg.TIME.STATUS.STEP_ARMED = false ∨ 999999999 < fieldGet v 0 30))) := by
  refine ⟨?_, ?_⟩ <;> decide

/-- The hypotheses of StampQueuesAndPps, clause by clause, are met. -/
theorem witness_StampQueuesAndPps :
    (let m : Master := 5; let x : Stamp := ⟨5000000007, 9, 2⟩; let rest : List Stamp := []; let s : State := { State.reset with time := { State.reset.time with stamps := [⟨5000000007, 9, 2⟩] } }; (s.coreOn = true) ∧ (s.readsNow m.val = true) ∧ ((m.val ≠ engMaster 23 ∨ s.engRunning 23 = true)) ∧ (s.time.stamps = x :: rest)) ∧
    (let m : Master := 5; let s : State := State.reset; (s.coreOn = true) ∧ (s.readsNow m.val = true) ∧ (s.time.stamps = [])) ∧
    (let m : Master := 5; let p : Fin 16 := 3; let x : Stamp := ⟨5000000007, 9, 2⟩; let rest : List Stamp := [⟨8, 1, 0⟩]; let s : State := { State.reset with time := { State.reset.time with txq := [(3, [⟨5000000007, 9, 2⟩, ⟨8, 1, 0⟩])] } }; (s.coreOn = true) ∧ (s.readsNow m.val = true) ∧ (Tab.get [] p.val s.time.txq = x :: rest)) ∧
    (let m : Master := 5; let p : Fin 16 := 4; let s : State := { State.reset with time := { State.reset.time with txq := [(3, [⟨5000000007, 9, 2⟩, ⟨8, 1, 0⟩])] } }; (s.coreOn = true) ∧ (s.readsNow m.val = true) ∧ (Tab.get [] p.val s.time.txq = [])) ∧
    (let dt : Nat := 100000000; let b : Bool := true; let s : State := { st [(Reg.TIME.PPS_CTRL.IN_EN, 1), (Reg.TIME.STAMP_EN.PPS, 1)] with time := { State.reset.time with ppsInAt := some 0 } }; (s.coreOn = true) ∧ (s.gb Reg.TIME.PPS_CTRL.IN_EN = true) ∧ (s.gb Reg.TIME.PPS_CTRL.IN_EDGE ≠ b) ∧ (s.time.ppsInAt.all (fun c => decide (100000000 ≤ s.clock + dt - c)) = true) ∧ (s.gb Reg.TIME.STAMP_EN.PPS = true) ∧ (s.time.stamps.length < 64)) ∧
    (let dt : Nat := 7; let c : Nat := 0; let s : State := { st [(Reg.TIME.PPS_CTRL.IN_EN, 1), (Reg.TIME.STAMP_EN.PPS, 1)] with time := { State.reset.time with ppsInAt := some 0 } }; (s.time.ppsInAt = some c) ∧ (s.clock + dt < c + 100000000)) ∧
    (let dt : Nat := 3; let s : State := st [(Reg.TIME.PPS_CTRL.OUT_EN, 1), (Reg.TIME.STATUS.STATE, 2), (Reg.ENG.STATUS.STATE 23, 2)]; (s.ppsDriven = true) ∧ ((wallNs (s.advance dt).wall ≤ 5 ∨ 999999995 ≤ wallNs (s.advance dt).wall))) := by
  refine ⟨?_, ?_, ?_, ?_, ?_, ?_, ?_⟩ <;> decide

/-- The hypotheses of NetPortsAndLinks, clause by clause, are met. -/
theorem witness_NetPortsAndLinks :
    (let m : Master := 1; let q : Fin 4 := 2; let x : Fin 4 := 1; let s : State := st [(Reg.NET.PORT.LINK 2 3, 1)]; (s.coreOn = true) ∧ (s.mayWrite m.val ((Reg.NET.CTRL.MODE q.val).addr) = true) ∧ ((s.quadTests q.val = false ∨ x.val = 0))) ∧
    (let m : Master := 1; let q : Fin 4 := 2; let x : Fin 4 := 1; let s : State := st [(Reg.LANE.TEST_EN 2 1, 1)]; (s.coreOn = true) ∧ (s.mayWrite m.val ((Reg.NET.CTRL.MODE q.val).addr) = true) ∧ (s.quadTests q.val = true) ∧ (x.val ≠ 0)) ∧
    (let p : Fin 16 := 9; let s : State := st [(Reg.NET.CTRL.MODE 2, 2), (Reg.NET.CTRL.PORT_EN 2, 15), (Reg.LANE.BLOCK_LOCK 2 1, 1)]; (s.coreOn = true) ∧ (s.portLock (p.val / 4) (p.val % 4) = true) ∧ (s.gb (Reg.NET.PORT.LINK (p.val / 4) (p.val % 4)) = false)) ∧
    (let p : Fin 16 := 9; let s : State := st [(Reg.NET.PORT.LINK 2 1, 1)]; (s.coreOn = true) ∧ (s.gb (Reg.NET.PORT.LINK (p.val / 4) (p.val % 4)) = true)) ∧
    (let m : Master := 40; let s : State := st [(Reg.ENG.STATUS.STATE 23, 2)]; (s.coreOn = true) ∧ (s.mayWrite m.val (0x1054000C) = true) ∧ (s.gb Reg.MGMT.MDIO.GO = false)) ∧
    (let s : State := st [(Reg.MGMT.MDIO.GO, 1)]; (s.coreOn = true) ∧ (s.gb Reg.MGMT.MDIO.GO = true)) := by
  refine ⟨?_, ?_, ?_, ?_, ?_, ?_⟩ <;> decide

/-- The hypotheses of NetFrames, clause by clause, are met. -/
theorem witness_NetFrames :
    (let p : Fin 16 := 9; let k : Nat := 0; let bs : List Byte := (List.replicate 12 0xFF ++ [8, 6] ++ List.replicate 50 0); let ok : Bool := true; let s : State := st [(Reg.NET.PORT.LINK 2 1, 1)]; (s.coreOn = true) ∧ (s.gb (Reg.NET.PORT.LINK (p.val / 4) (p.val % 4)) = true) ∧ (s.frameGood (p.val / 4) (p.val % 4) bs ok = true) ∧ ((etherBody bs).1 = 0x0806) ∧ ((s.net.curator.drop k).length < 256) ∧ (({ s with net := { s.net with curator := s.net.curator.drop k } }).quadBytes (p.val / 4) + bs.length ≤ 98304)) ∧
    (let p : Fin 16 := 9; let bs : List Byte := (List.replicate 12 0xFF ++ [8, 6] ++ List.replicate 50 0); let ok : Bool := true; let s : State := st [(Reg.NET.PORT.LINK 2 1, 1)]; (s.coreOn = true) ∧ (s.gb (Reg.NET.PORT.LINK (p.val / 4) (p.val % 4)) = true) ∧ (s.frameGood (p.val / 4) (p.val % 4) bs ok = true)) ∧
    (let p : Fin 16 := 9; let bs : List Byte := (List.replicate 12 0xFF ++ [8, 6] ++ List.replicate 50 0); let ok : Bool := false; let s : State := st [(Reg.NET.PORT.LINK 2 1, 1)]; (s.coreOn = true) ∧ (s.gb (Reg.NET.PORT.LINK (p.val / 4) (p.val % 4)) = true) ∧ (s.frameGood (p.val / 4) (p.val % 4) bs ok = false) ∧ (beAt bs 12 2 ≠ 0x8808)) ∧
    (let p : Fin 16 := 9; let bs : List Byte := (List.replicate 12 0xFF ++ [0x88, 8] ++ List.replicate 50 0); let s : State := st [(Reg.NET.PORT.LINK 2 1, 1)]; (s.coreOn = true) ∧ (s.gb (Reg.NET.PORT.LINK (p.val / 4) (p.val % 4)) = true) ∧ (64 ≤ bs.length) ∧ (beAt bs 12 2 = 0x8808)) ∧
    (let p : Fin 16 := 9; let a : Bool := false; let s : State := st [(Reg.NET.PORT.LINK 2 1, 1)]; (s.coreOn = true) ∧ (s.gb (Reg.NET.PORT.LINK (p.val / 4) (p.val % 4)) = true) ∧ ((a = true → s.granted = true))) ∧
    (let p : Fin 16 := 9; let a : Bool := false; let s : State := st [(Reg.NET.PORT.LINK 2 1, 1)]; (s.coreOn = true) ∧ (s.gb (Reg.NET.PORT.LINK (p.val / 4) (p.val % 4)) = true) ∧ ((a = true → s.granted = true)) ∧ ((Tab.get [] p.val s.time.txq).length < 32)) ∧
    (let s : State := st [(Reg.NET.PORT.LINK 2 1, 1)]; (s.granted = false)) := by
  refine ⟨?_, ?_, ?_, ?_, ?_, ?_, ?_⟩ <;> decide

/-- The hypotheses of MediaPackets, clause by clause, are met. -/
theorem witness_MediaPackets :
    (let e : Fin 16 := 3; let d : NetDgram := ⟨9, 4, false, false, 50, 60, [1], 100⟩; let s : State := { st ([(Reg.ENG.STATUS.STATE 5, 2), (Reg.ING.SRC.SE 4, 3), (Reg.ING.SRC.ENABLE 4, 1)] ++ [(Reg.ING.SRC.TYPE 4, 7)]) with net := ⟨[], [⟨9, 4, false, false, 50, 60, [1], 100⟩], [], []⟩ }; (s.nextDgram e.val = some d) ∧ (d.entry < 512) ∧ (d.rtcp = false) ∧ (s.g (Reg.ING.SRC.TYPE d.entry) = 7)) ∧
    (let e : Fin 16 := 3; let d : NetDgram := ⟨9, 4, false, false, 50, 60, [1], 100⟩; let s : State := { st ([(Reg.ENG.STATUS.STATE 5, 2), (Reg.ING.SRC.SE 4, 3), (Reg.ING.SRC.ENABLE 4, 1)] ++ [(Reg.ING.SRC.TYPE 4, 1)]) with net := ⟨[], [⟨9, 4, false, false, 50, 60, [1], 100⟩], [], []⟩ }; (s.nextDgram e.val = some d) ∧ (d.entry < 512) ∧ (d.rtcp = false) ∧ ((1 ≤ s.g (Reg.ING.SRC.TYPE d.entry) ∧ s.g (Reg.ING.SRC.TYPE d.entry) ≤ 3)) ∧ (rtpOf d.data = none)) ∧
    (let e : Fin 16 := 3; let d : NetDgram := ⟨9, 4, false, false, 50, 60, ([0x80, 96, 0, 7, 0, 0, 0, 9, 0, 0, 0, 1] ++ [0, 0, 0, 4, 0, 0, 0, 0, 1, 2, 3, 4]), 100⟩; let r : Rtp := ⟨96, false, 7, 9, 1, [0, 0, 0, 4, 0, 0, 0, 0, 1, 2, 3, 4]⟩; let s : State := { st ([(Reg.ENG.STATUS.STATE 5, 2), (Reg.ING.SRC.SE 4, 3), (Reg.ING.SRC.ENABLE 4, 1)] ++ [(Reg.ING.SRC.TYPE 4, 1), (Reg.ING.SRC.PT 4, 97)]) with net := ⟨[], [⟨9, 4, false, false, 50, 60, ([0x80, 96, 0, 7, 0, 0, 0, 9, 0, 0, 0, 1] ++ [0, 0, 0, 4, 0, 0, 0, 0, 1, 2, 3, 4]), 100⟩], [], []⟩ }; (s.nextDgram e.val = some d) ∧ (d.entry < 512) ∧ (d.rtcp = false) ∧ ((1 ≤ s.g (Reg.ING.SRC.TYPE d.entry) ∧ s.g (Reg.ING.SRC.TYPE d.entry) ≤ 3)) ∧ (rtpOf d.data = some r) ∧ (s.rtpFits d.entry r = false)) ∧
    (let e : Fin 16 := 3; let d : NetDgram := ⟨9, 4, false, false, 50, 60, (0x47 :: List.replicate 187 0), 100⟩; let s : State := { st ([(Reg.ENG.STATUS.STATE 5, 2), (Reg.ING.SRC.SE 4, 3), (Reg.ING.SRC.ENABLE 4, 1)] ++ [(Reg.ING.SRC.TYPE 4, 4)]) with net := ⟨[], [⟨9, 4, false, false, 50, 60, (0x47 :: List.replicate 187 0), 100⟩], [], []⟩ }; (s.nextDgram e.val = some d) ∧ (d.entry < 512) ∧ (d.rtcp = false) ∧ (s.g (Reg.ING.SRC.TYPE d.entry) = 4) ∧ (s.gb (Reg.ING.SRC.TS_RTP d.entry) = false) ∧ (tsGood d.data = true)) ∧
    (let e : Fin 16 := 3; let d : NetDgram := ⟨9, 4, false, false, 50, 60, ([0x80, 96, 0, 7, 0, 0, 0, 9, 0, 0, 0, 1] ++ [0, 0, 0, 4, 0, 0, 0, 0, 1, 2, 3, 4]), 100⟩; let r : Rtp := ⟨96, false, 7, 9, 1, [0, 0, 0, 4, 0, 0, 0, 0, 1, 2, 3, 4]⟩; let x : List Srd := [⟨0, 0, 0, [⟨0, 8, 4, 0⟩, ⟨0, 16, 12, 0⟩]⟩]; let s : State := { st ([(Reg.ENG.STATUS.STATE 5, 2), (Reg.ING.SRC.SE 4, 3), (Reg.ING.SRC.ENABLE 4, 1)] ++ [(Reg.ING.SRC.TYPE 4, 1), (Reg.ING.SRC.PT_ANY 4, 1), (Reg.ING.SRC.WIDTH_M1 4, 3), (Reg.ING.SRC.HEIGHT_M1 4, 3)]) with net := ⟨[], [⟨9, 4, false, false, 50, 60, ([0x80, 96, 0, 7, 0, 0, 0, 9, 0, 0, 0, 1] ++ [0, 0, 0, 4, 0, 0, 0, 0, 1, 2, 3, 4]), 100⟩], [], []⟩ }; (s.nextDgram e.val = some d) ∧ (d.entry < 512) ∧ (d.rtcp = false) ∧ (s.g (Reg.ING.SRC.TYPE d.entry) = 1) ∧ (rtpOf d.data = some r) ∧ (s.rtpFits d.entry r = true) ∧ (s.srdsOf d.entry r.payload = some x) ∧ ((s.src d.entry).opens = []) ∧ ((s.src d.entry).isLate r.ts (((x.head?).map (fun y => y.field)).getD 0 % (if s.gb (Reg.ING.SRC.INTERLACED d.entry) then 2 else 1)) = false)) ∧
    (let e : Fin 16 := 3; let d : NetDgram := ⟨9, 4, false, true, 50, 60, [0x80, 200, 0, 6, 0, 0, 0, 1, 0x83, 0xAA, 0x7E, 0x90, 0x80, 0, 0, 0, 1, 2, 3, 4, 0, 0, 0, 0, 0, 0, 0, 0], 100⟩; let s : State := { st ([(Reg.ENG.STATUS.STATE 5, 2), (Reg.ING.SRC.SE 4, 3), (Reg.ING.SRC.ENABLE 4, 1)] ++ [(Reg.ING.SRC.TYPE 4, 2)]) with net := ⟨[], [⟨9, 4, false, true, 50, 60, [0x80, 200, 0, 6, 0, 0, 0, 1, 0x83, 0xAA, 0x7E, 0x90, 0x80, 0, 0, 0, 1, 2, 3, 4, 0, 0, 0, 0, 0, 0, 0, 0], 100⟩], [], []⟩ }; (s.nextDgram e.val = some d) ∧ (d.entry < 512) ∧ (d.rtcp = true) ∧ (beAt d.data 0 1 / 64 = 2) ∧ (beAt d.data 1 1 = 200) ∧ (28 ≤ d.data.length)) := by
  refine ⟨?_, ?_, ?_, ?_, ?_, ?_⟩ <;> decide

/-- The hypotheses of SourceBindingAndSilence, clause by clause, are met. -/
theorem witness_SourceBindingAndSilence :
    (let m : Master := 1; let i : Fin 512 := 4; let s : State := st [(Reg.ING.SRC.TYPE 4, 7)]; (s.coreOn = true) ∧ (s.mayWrite m.val ((Reg.ING.SRC.ENABLE i.val).addr) = true) ∧ (s.gb (Reg.ING.SRC.ENABLE i.val) = false) ∧ (s.bindCheck i.val = 0)) ∧
    (let m : Master := 1; let i : Fin 512 := 4; let s : State := State.reset; (s.coreOn = true) ∧ (s.mayWrite m.val ((Reg.ING.SRC.ENABLE i.val).addr) = true) ∧ (s.gb (Reg.ING.SRC.ENABLE i.val) = false) ∧ (s.bindCheck i.val ≠ 0)) ∧
    (let m : Master := 1; let i : Fin 512 := 4; let s : State := st [(Reg.ING.SRC.ENABLE 4, 1), (Reg.ING.SRC.STATE 4, 2), (Reg.ING.SRC.TYPE 4, 7)]; (s.coreOn = true) ∧ (s.mayWrite m.val ((Reg.ING.SRC.ENABLE i.val).addr) = true) ∧ (s.gb (Reg.ING.SRC.ENABLE i.val) = true)) ∧
    (let dt : Nat := 100000000000; let i : Fin 512 := 4; let s : State := st [(Reg.ING.SRC.ENABLE 4, 1), (Reg.ING.SRC.TYPE 4, 1), (Reg.ING.SRC.STATE 4, 2)]; (s.coreOn = true) ∧ (s.isNet i.val = true) ∧ (s.gb (Reg.ING.SRC.ENABLE i.val) = true) ∧ (s.g (Reg.ING.SRC.STATE i.val) = 2) ∧ (s.lastPacket i.val + 1000000 * s.g Reg.ING.CTRL.LOST_MS ≤ s.clock + dt)) ∧
    (let dt : Nat := 1; let i : Fin 512 := 4; let s : State := st [(Reg.ING.SRC.ENABLE 4, 1), (Reg.ING.SRC.TYPE 4, 1), (Reg.ING.SRC.STATE 4, 2), (Reg.ING.CTRL.LOST_MS, 100)]; (s.clock + dt < s.lastPacket i.val + 1000000 * s.g Reg.ING.CTRL.LOST_MS)) ∧
    (let dt : Nat := 100000000; let i : Fin 512 := 4; let c : Nat := 5; let s : State := (st [(Reg.ING.SRC.ENABLE 4, 1), (Reg.ING.SRC.TYPE 4, 2), (Reg.ING.SRC.DUAL 4, 1), (Reg.ING.SRC.PATH_B_UP 4, 1)]).setSrc 4 { SrcState.reset with atB := some 5 }; (s.coreOn = true) ∧ (s.gb (Reg.ING.SRC.ENABLE i.val) = true) ∧ (s.gb (Reg.ING.SRC.DUAL i.val) = true) ∧ ((s.src i.val).atB = some c) ∧ (c + 1000000 * s.g (Reg.ING.SRC.PATH_WINDOW_MS i.val) ≤ s.clock + dt)) ∧
    (let dt : Nat := 100000000; let i : Fin 512 := 4; let c : Nat := 5; let s : State := (st [(Reg.ING.SRC.ENABLE 4, 1), (Reg.ING.SRC.TYPE 4, 2), (Reg.ING.SRC.DUAL 4, 1), (Reg.ING.SRC.PATH_A_UP 4, 1)]).setSrc 4 { SrcState.reset with atA := some 5 }; (s.coreOn = true) ∧ (s.gb (Reg.ING.SRC.ENABLE i.val) = true) ∧ (s.gb (Reg.ING.SRC.DUAL i.val) = true) ∧ ((s.src i.val).atA = some c) ∧ (c + 1000000 * s.g (Reg.ING.SRC.PATH_WINDOW_MS i.val) ≤ s.clock + dt)) ∧
    (let dt : Nat := 100000000000; let i : Fin 512 := 4; let s : State := st [(Reg.ING.SRC.SR_VALID 4, 1)]; (s.coreOn = true) ∧ ((s.src i.val).srAt + 1000000000 * s.g Reg.ING.CTRL2.SR_TIMEOUT_S ≤ s.clock + dt)) := by
  refine ⟨?_, ?_, ?_, ?_, ?_, ?_, ?_, ?_⟩ <;> decide

/-- The hypotheses of ReleaseOutcomes, clause by clause, are met. -/
theorem witness_ReleaseOutcomes :
    (let m : Master := 1; let b : Fin 4096 := 7; let s : State := st [(Reg.ING.BUF.STATE 7, 2)]; (s.coreOn = true) ∧ (s.mayWrite m.val (0x10440000) = true) ∧ ((s.bufState b.val = Bs.free ∨ s.bufState b.val = Bs.ready)) ∧ ((s.buf b.val).leases = [])) ∧
    (let m : Master := 1; let b : Fin 4096 := 7; let s : State := (st [(Reg.ING.BUF.STATE 7, 2)]).setBuf 7 ⟨[3], none⟩; (s.coreOn = true) ∧ (s.mayWrite m.val (0x10440000) = true) ∧ ((s.bufState b.val = Bs.free ∨ s.bufState b.val = Bs.ready)) ∧ ((s.buf b.val).leases ≠ [])) ∧
    (let m : Master := 1; let b : Fin 4096 := 7; let s : State := st [(Reg.ING.BUF.STATE 7, 1)]; (s.coreOn = true) ∧ (s.mayWrite m.val (0x10440000) = true) ∧ (s.bufState b.val = Bs.filling)) ∧
    (let m : Master := 1; let b : Fin 4096 := 7; let s : State := st [(Reg.ING.BUF.STATE 7, 3)]; (s.coreOn = true) ∧ (s.mayWrite m.val (0x10440000) = true) ∧ (s.bufState b.val = Bs.releasing)) ∧
    (let b : Fin 4096 := 7; let f : Bool := true; let rest : List (Nat × Bool) := []; let s : State := { st [(Reg.ING.BUF.STATE 7, 3), (Reg.HEAD.REL_RING_BASE.ADDR, 8388608), (Reg.HEAD.REL_RING_WR.INDEX, 5)] with rel := [(7, true)] }; (s.coreOn = true) ∧ (s.rel = (b.val, f) :: rest) ∧ (s.relBlocked = false) ∧ (s.bufState b.val = Bs.releasing) ∧ (s.inDram (4096 * s.g Reg.HEAD.REL_RING_BASE.ADDR + 16 * s.g Reg.HEAD.REL_RING_WR.INDEX) 16 = true) ∧ (s.draining 43 = false)) ∧
    (let b : Fin 4096 := 7; let f : Bool := true; let rest : List (Nat × Bool) := []; let s : State := { st [(Reg.ING.BUF.STATE 7, 3)] with rel := [(7, true)] }; (s.coreOn = true) ∧ (s.rel = (b.val, f) :: rest) ∧ (s.relBlocked = true)) := by
  refine ⟨?_, ?_, ?_, ?_, ?_, ?_⟩ <;> decide

/-- The hypotheses of HostBuffers, clause by clause, are met. -/
theorem witness_HostBuffers :
    (let m : Master := 1; let b : Fin 4096 := 7; let i : Nat := 4; let s : State := st [(Reg.ING.SRC.ENABLE 4, 1), (Reg.ING.SRC.TYPE 4, 6), (Reg.ING.SRC.BUF_LO 4 0, 7)]; (s.coreOn = true) ∧ (s.mayWrite m.val (0x10100010) = true) ∧ ((s.buf b.val).leases = []) ∧ (s.bufState b.val ≠ Bs.filling) ∧ (s.hostEntry b.val = some i)) ∧
    (let m : Master := 1; let b : Fin 4096 := 7; let s : State := State.reset.setBuf 7 ⟨[3], none⟩; (s.coreOn = true) ∧ (s.mayWrite m.val (0x10100010) = true) ∧ ((s.buf b.val).leases ≠ [])) ∧
    (let b : Fin 4096 := 7; let w : Int := 5; let q : Nat := 1; let i : Fin 512 := 4; let s : State := (st [(Reg.ING.BUF.STATE 7, 1)]).setBuf 7 ⟨[], some (5, 1, 4)⟩; (s.coreOn = true) ∧ ((s.buf b.val).host = some (w, q, i.val)) ∧ (s.bufState b.val = Bs.filling)) := by
  refine ⟨?_, ?_, ?_⟩ <;> decide

/-- The hypotheses of DecodeJobs, clause by clause, are met. -/
theorem witness_DecodeJobs :
    (let dt : Nat := 1; let n : Fin 8 := 3; let au : AuFacts := ⟨true, none, true, none, false, false, false, none, none⟩; let i : Nat := 4; let a : Nat := 0; let s : State := { st [(Reg.ING.SRC.ENABLE 4, 1), (Reg.ING.SRC.TYPE 4, 2), (Reg.ING.SRC.BS_SIZE_KB 4, 64), (Reg.DEC.CTX.STATE 4, 2), (Reg.DEC.CTRL.ENABLE 3, 1)] with srcs := [(4, { SrcState.reset with recs := [(0, 64)] })] }; (s.coreOn = true) ∧ (s.decCandidate = some i) ∧ (s.recordBase i = some a) ∧ (s.g (Reg.DEC.CTX.STATE i) = 2) ∧ (au.sps = none) ∧ (au.rasl = false) ∧ (au.nonRef = false) ∧ ((s.advance dt).pipeTakes n.val (s.g (Reg.DEC.CTX.CLASS i)) = true)) ∧
    (let dt : Nat := 1; let n : Fin 8 := 3; let j : DecJob := ⟨9, 1, 5, 5, true, none, false, 0, none, 0, 0, 0, 1000, false⟩; let s : State := { State.reset with dec := { State.reset.dec with pipes := [(3, ⟨none, some ⟨9, 1, 5, 5, true, none, false, 0, none, 0, 0, 0, 1000, false⟩, PipeTimes.reset, 0⟩)] } }; (s.coreOn = true) ∧ (s.decCandidate = none) ∧ ((s.dpipe n.val).job = none) ∧ ((s.dpipe n.val).susp = some j) ∧ ((s.dpipe n.val).times.inPhase (s.clock + dt) = false) ∧ (j.ctx < 512)) ∧
    (let dt : Nat := 1; let n : Fin 8 := 3; let turn : DecTurn := ⟨none, ⟨true, none, true, none, false, false, false, none, none⟩⟩; let i : Nat := 4; let a : Nat := 0; let j : DecJob := ⟨9, 1, 5, 5, true, none, false, 0, none, 0, 0, 0, 1000, false⟩; let s : State := { st [(Reg.ING.SRC.ENABLE 4, 1), (Reg.ING.SRC.TYPE 4, 2), (Reg.ING.SRC.BS_SIZE_KB 4, 64), (Reg.DEC.CTX.STATE 4, 2), (Reg.DEC.CTRL.ENABLE 3, 1)] with dec := { State.reset.dec with pipes := [(3, ⟨some ⟨9, 1, 5, 5, true, none, false, 0, none, 0, 0, 0, 1000, false⟩, none, PipeTimes.reset, 0⟩)] }, srcs := [(4, { SrcState.reset with recs := [(0, 64)] })] }; (s.coreOn = true) ∧ ((s.dpipe n.val).job = some j) ∧ (j.gone = false) ∧ (j.ctx < 512) ∧ (((turn.front.map (fun e => (s.advance dt).jobFront n.val j e)).getD (s.advance dt)).decCandidate = some i) ∧ (((turn.front.map (fun e => (s.advance dt).jobFront n.val j e)).getD (s.advance dt)).recordBase i = some a) ∧ (((turn.front.map (fun e => (s.advance dt).jobFront n.val j e)).getD (s.advance dt)).g (Reg.DEC.CTX.STATE i) = 2) ∧ (((turn.front.map (fun e => (s.advance dt).jobFront n.val j e)).getD (s.advance dt)).g (Reg.DEC.CTX.CLASS i) = 0) ∧ (((turn.front.map (fun e => (s.advance dt).jobFront n.val j e)).getD (s.advance dt)).victim = some n.val) ∧ ((List.range 8).all (fun k => !((turn.front.map (fun e => (s.advance dt).jobFront n.val j e)).getD (s.advance dt)).pipeTakes k 0) = true) ∧ (turn.au.sps = none) ∧ (turn.au.rasl = false) ∧ (turn.au.nonRef = false)) ∧
    (let n : Fin 8 := 3; let j : DecJob := ⟨9, 1, 5, 5, true, none, false, 0, none, 0, 0, 0, 1000, false⟩; let s : State := { State.reset with dec := { State.reset.dec with pipes := [(3, ⟨some ⟨9, 1, 5, 5, true, none, false, 0, none, 0, 0, 0, 1000, false⟩, none, PipeTimes.reset, 0⟩)] } }; (s.coreOn = true) ∧ ((s.dpipe n.val).job = some j) ∧ (j.gone = false) ∧ (j.ctx < 512)) ∧
    (let n : Fin 8 := 3; let j : DecJob := ⟨9, 1, 5, 5, true, none, false, 0, none, 0, 0, 0, 1000, true⟩; let s : State := { State.reset with dec := { State.reset.dec with pipes := [(3, ⟨some ⟨9, 1, 5, 5, true, none, false, 0, none, 0, 0, 0, 1000, true⟩, none, PipeTimes.reset, 0⟩)] } }; (s.coreOn = true) ∧ ((s.dpipe n.val).job = some j) ∧ (j.gone = true)) := by
  refine ⟨?_, ?_, ?_, ?_, ?_⟩ <;> decide

/-- The hypotheses of DecodeAbortsAndPipes, clause by clause, are met. -/
theorem witness_DecodeAbortsAndPipes :
    (let dt : Nat := 1250; let n : Fin 8 := 3; let j : DecJob := ⟨9, 1, 5, 5, true, none, false, 0, none, 0, 0, 0, 1000, false⟩; let s : State := { State.reset with dec := { State.reset.dec with pipes := [(3, ⟨some ⟨9, 1, 5, 5, true, none, false, 0, none, 0, 0, 0, 1000, false⟩, none, PipeTimes.reset, 0⟩)] } }; (s.coreOn = true) ∧ ((s.dpipe n.val).job = some j) ∧ (j.gone = false) ∧ (j.ctx < 512) ∧ (j.limit ≤ j.used + (s.clock + dt - j.ranAt) * 4 / 5) ∧ (s.dec.faults.length < 16)) ∧
    (let n : Fin 8 := 3; let f : JobFault := .sbxRead; let a : BitVec 36 := 0x2000000#36; let j : DecJob := ⟨9, 1, 5, 5, true, none, false, 0, none, 0, 0, 0, 1000, false⟩; let s : State := { State.reset with dec := { State.reset.dec with pipes := [(3, ⟨some ⟨9, 1, 5, 5, true, none, false, 0, none, 0, 0, 0, 1000, false⟩, none, PipeTimes.reset, 0⟩)] } }; (s.coreOn = true) ∧ ((s.dpipe n.val).job = some j) ∧ (j.gone = false) ∧ (j.ctx < 512) ∧ (s.dec.faults.length < 16) ∧ ((f = .sbxRead → s.decWindow n.val j a.toNat false = false)) ∧ ((f = .sbxWrite → s.decWindow n.val j a.toNat true = false)) ∧ ((f = .busError → (s.decWindow n.val j a.toNat false = true ∨ s.decWindow n.val j a.toNat true = true)))) ∧
    (let n : Fin 8 := 3; let f : JobFault := .sbxRead; let a : BitVec 36 := 0x800000#36; let j : DecJob := ⟨9, 1, 5, 5, true, none, false, 0, none, 0, 0, 0, 1000, false⟩; let s : State := { st [(Reg.DEC.CTX.DPB_BASE 9, 0x800), (Reg.DEC.CTX.DPB_MB 9, 4)] with dec := { State.reset.dec with pipes := [(3, ⟨some ⟨9, 1, 5, 5, true, none, false, 0, none, 0, 0, 0, 1000, false⟩, none, PipeTimes.reset, 0⟩)] } }; (s.coreOn = true) ∧ ((s.dpipe n.val).job = some j) ∧ (((f = .sbxRead ∧ s.decWindow n.val j a.toNat false = true) ∨ (f = .sbxWrite ∧ s.decWindow n.val j a.toNat true = true)))) ∧
    (let m : Master := 1; let n : Fin 8 := 3; let s : State := st [(Reg.DEC.SAVE_BASE.ADDR 3, 8388608)]; (s.coreOn = true) ∧ (s.mayWrite m.val ((Reg.DEC.CTRL.ENABLE n.val).addr) = true) ∧ (s.inDram (4096 * s.g (Reg.DEC.SAVE_BASE.ADDR n.val)) 262144 = true)) ∧
    (let m : Master := 1; let n : Fin 8 := 3; let s : State := State.reset; (s.coreOn = true) ∧ (s.mayWrite m.val ((Reg.DEC.CTRL.ENABLE n.val).addr) = true) ∧ (s.inDram (4096 * s.g (Reg.DEC.SAVE_BASE.ADDR n.val)) 262144 = false)) ∧
    (let m : Master := 1; let n : Fin 8 := 3; let s : State := st [(Reg.DEC.CTRL.ENABLE 3, 1)]; (s.coreOn = true) ∧ (s.mayWrite m.val ((Reg.DEC.CTRL.ENABLE n.val).addr) = true)) ∧
    (let m : Master := 9; let f : DecFault := ⟨3, 9, 5, 77, 5⟩; let rest : List DecFault := []; let s : State := { State.reset with dec := { State.reset.dec with faults := [⟨3, 9, 5, 77, 5⟩] } }; (s.coreOn = true) ∧ (s.readsNow m.val = true) ∧ (s.dec.faults = f :: rest)) ∧
    (let m : Master := 1; let s : State := st [(Reg.DEC.LOAD.PEAK_MPIX, 5)]; (s.coreOn = true) ∧ (s.mayWrite m.val (0x10208008) = true)) := by
  refine ⟨?_, ?_, ?_, ?_, ?_, ?_, ?_, ?_⟩ <;> decide

/-- The hypotheses of CaptureFrames, clause by clause, are met. -/
theorem witness_CaptureFrames :
    (let dt : Nat := 1; let p : Fin 4 := 2; let xy : List Nat := []; let l : Bool := true; let s : State := (st [(Reg.CAP.ENABLE 2, 1), (Reg.ISP.CTX.ENABLE 1 3, 1), (Reg.ISP.CTX.PORT 1 3, 2), (Reg.ISP.CTX.SRC 1 3, 4), (Reg.ISP.CTX.STATE 1 3, 2), (Reg.ING.SRC.STATE 4, 2), (Reg.CAP.MODE 2, 7), (Reg.CAP.DE_USE 2, 1), (Reg.CAP.DE_POL 2, 1), (Reg.CAP.VS_POL 2, 1), (Reg.CAP.WIDTH_M1 2, 1), (Reg.CAP.HEIGHT_M1 2, 1), (Reg.ING.BUF.STATE 7, 1)]).setCport 2 ⟨[], none, false, 0, none, 0, ⟨[1, 2], [3, 4]⟩, 0, none, 0, none⟩; (s.coreOn = true) ∧ (s.gb (Reg.CAP.ENABLE p.val) = true) ∧ (((s.advance dt).xyAll p.val xy).frameBegins p.val l = true)) ∧
    (let dt : Nat := 1; let p : Fin 4 := 2; let xy : List Nat := []; let ys : List Nat := [1, 2]; let cs : List Nat := [3, 4]; let l : Bool := true; let v : List Nat × List Nat := ([1, 2], [3, 4]); let f : CapFrame := ⟨1, 5, 6, 0, 7, none, none, [], 0, [], [], [], [], false, false⟩; let s : State := (st [(Reg.CAP.ENABLE 2, 1), (Reg.ISP.CTX.ENABLE 1 3, 1), (Reg.ISP.CTX.PORT 1 3, 2), (Reg.ISP.CTX.SRC 1 3, 4), (Reg.ISP.CTX.STATE 1 3, 2), (Reg.ING.SRC.STATE 4, 2), (Reg.CAP.MODE 2, 7), (Reg.CAP.DE_USE 2, 1), (Reg.CAP.DE_POL 2, 1), (Reg.CAP.VS_POL 2, 1), (Reg.CAP.WIDTH_M1 2, 1), (Reg.CAP.HEIGHT_M1 2, 1), (Reg.ING.BUF.STATE 7, 1)]).setCport 2 ⟨[], none, false, 0, none, 0, ⟨[1, 2], [3, 4]⟩, 0, some ⟨1, 5, 6, 0, 7, none, none, [], 0, [], [], [], [], false, false⟩, 0, none⟩; (s.coreOn = true) ∧ (s.gb (Reg.CAP.ENABLE p.val) = true) ∧ ((s.cport p.val).frame = some f) ∧ ((((s.advance dt).xyAll p.val xy).rowOfLine p.val l ys cs).2 = some v) ∧ ((s.ctxOf p.val).isSome = true) ∧ ((s.cport p.val).rowsIn < s.capH p.val) ∧ (((s.cport p.val).store.length + 1) * rowEntries (s.capW p.val) ≤ 64)) ∧
    (let dt : Nat := 1; let p : Fin 4 := 2; let xy : List Nat := []; let ys : List Nat := [1, 2]; let cs : List Nat := [3, 4]; let l : Bool := true; let v : List Nat × List Nat := ([1, 2], [3, 4]); let f : CapFrame := ⟨1, 5, 6, 0, 7, none, none, [], 0, [], [], [], [], false, false⟩; let s : State := (st [(Reg.CAP.ENABLE 2, 1), (Reg.ISP.CTX.ENABLE 1 3, 1), (Reg.ISP.CTX.PORT 1 3, 2), (Reg.ISP.CTX.SRC 1 3, 4), (Reg.ISP.CTX.STATE 1 3, 2), (Reg.ING.SRC.STATE 4, 2), (Reg.CAP.MODE 2, 7), (Reg.CAP.DE_USE 2, 1), (Reg.CAP.DE_POL 2, 1), (Reg.CAP.VS_POL 2, 1), (Reg.CAP.WIDTH_M1 2, 1), (Reg.CAP.HEIGHT_M1 2, 1), (Reg.ING.BUF.STATE 7, 1)]).setCport 2 ⟨List.replicate 64 ⟨[1, 2], [3, 4]⟩, none, false, 0, none, 0, ⟨[1, 2], [3, 4]⟩, 0, some ⟨1, 5, 6, 0, 7, none, none, [], 0, [], [], [], [], false, false⟩, 0, none⟩; (s.coreOn = true) ∧ (s.gb (Reg.CAP.ENABLE p.val) = true) ∧ ((s.cport p.val).frame = some f) ∧ ((f.disp < 4096 ∧ f.code.all (fun b => decide (b < 4096)) = true ∧ f.mv.all (fun b => decide (b < 4096)) = true)) ∧ ((((s.advance dt).xyAll p.val xy).rowOfLine p.val l ys cs).2 = some v) ∧ ((s.ctxOf p.val).isSome = true) ∧ ((s.cport p.val).rowsIn < s.capH p.val) ∧ (64 < ((s.cport p.val).store.length + 1) * rowEntries (s.capW p.val))) ∧
    (let dt : Nat := 1; let p : Fin 4 := 2; let xy : List Nat := []; let ys : List Nat := [1, 2]; let cs : List Nat := [3, 4]; let l : Bool := true; let v : List Nat × List Nat := ([1, 2], [3, 4]); let f : CapFrame := ⟨1, 5, 6, 0, 7, none, none, [], 2, [], [], [], [], false, false⟩; let s : State := (st [(Reg.CAP.ENABLE 2, 1), (Reg.ISP.CTX.ENABLE 1 3, 1), (Reg.ISP.CTX.PORT 1 3, 2), (Reg.ISP.CTX.SRC 1 3, 4), (Reg.ISP.CTX.STATE 1 3, 2), (Reg.ING.SRC.STATE 4, 2), (Reg.CAP.MODE 2, 7), (Reg.CAP.DE_USE 2, 1), (Reg.CAP.DE_POL 2, 1), (Reg.CAP.VS_POL 2, 1), (Reg.CAP.WIDTH_M1 2, 1), (Reg.CAP.HEIGHT_M1 2, 1), (Reg.ING.BUF.STATE 7, 1)]).setCport 2 ⟨[], none, false, 0, none, 2, ⟨[1, 2], [3, 4]⟩, 0, some ⟨1, 5, 6, 0, 7, none, none, [], 2, [], [], [], [], false, false⟩, 0, none⟩; (s.coreOn = true) ∧ (s.gb (Reg.CAP.ENABLE p.val) = true) ∧ ((s.cport p.val).frame = some f) ∧ ((f.disp < 4096 ∧ f.code.all (fun b => decide (b < 4096)) = true ∧ f.mv.all (fun b => decide (b < 4096)) = true)) ∧ ((((s.advance dt).xyAll p.val xy).rowOfLine p.val l ys cs).2 = some v) ∧ ((s.ctxOf p.val).isSome = true) ∧ (s.capH p.val ≤ (s.cport p.val).rowsIn) ∧ ((s.gb (Reg.CAP.DE_USE p.val) = true ∨ s.gb (Reg.CAP.SYNC p.val) = true))) ∧
    (let p : Fin 4 := 2; let f : CapFrame := ⟨1, 5, 6, 0, 7, none, none, [], 2, [], [], [], [], false, false⟩; let s : State := (st [(Reg.CAP.ENABLE 2, 1), (Reg.ISP.CTX.ENABLE 1 3, 1), (Reg.ISP.CTX.PORT 1 3, 2), (Reg.ISP.CTX.SRC 1 3, 4), (Reg.ISP.CTX.STATE 1 3, 2), (Reg.ING.SRC.STATE 4, 2), (Reg.CAP.MODE 2, 7), (Reg.CAP.DE_USE 2, 1), (Reg.CAP.DE_POL 2, 1), (Reg.CAP.VS_POL 2, 1), (Reg.CAP.WIDTH_M1 2, 1), (Reg.CAP.HEIGHT_M1 2, 1), (Reg.ING.BUF.STATE 7, 1)]).setCport 2 ⟨[], none, false, 0, none, 0, ⟨[1, 2], [3, 4]⟩, 0, some ⟨1, 5, 6, 0, 7, none, none, [], 2, [], [], [], [], false, false⟩, 0, none⟩; (s.coreOn = true) ∧ ((s.cport p.val).frame = some f) ∧ ((f.disp < 4096 ∧ f.code.all (fun b => decide (b < 4096)) = true ∧ f.mv.all (fun b => decide (b < 4096)) = true)) ∧ ((s.ctxOf p.val).isSome = true) ∧ (f.done = s.capH p.val)) ∧
    (let dt : Nat := 100000000000; let p : Fin 4 := 2; let f : CapFrame := ⟨1, 5, 6, 0, 7, none, none, [], 0, [], [], [], [], false, false⟩; let s : State := (st [(Reg.CAP.ENABLE 2, 1), (Reg.ISP.CTX.ENABLE 1 3, 1), (Reg.ISP.CTX.PORT 1 3, 2), (Reg.ISP.CTX.SRC 1 3, 4), (Reg.ISP.CTX.STATE 1 3, 2), (Reg.ING.SRC.STATE 4, 2), (Reg.CAP.MODE 2, 7), (Reg.CAP.DE_USE 2, 1), (Reg.CAP.DE_POL 2, 1), (Reg.CAP.VS_POL 2, 1), (Reg.CAP.WIDTH_M1 2, 1), (Reg.CAP.HEIGHT_M1 2, 1), (Reg.ING.BUF.STATE 7, 1)]).setCport 2 ⟨[], none, false, 0, none, 0, ⟨[1, 2], [3, 4]⟩, 0, some ⟨1, 5, 6, 0, 7, none, none, [], 0, [], [], [], [], false, false⟩, 0, none⟩; (s.coreOn = true) ∧ ((s.cport p.val).frame = some f) ∧ ((f.disp < 4096 ∧ f.code.all (fun b => decide (b < 4096)) = true ∧ f.mv.all (fun b => decide (b < 4096)) = true)) ∧ ((s.ctxOf p.val).isSome = true) ∧ ((s.cport p.val).rowsIn < s.capH p.val) ∧ ((s.cport p.val).rowAt + 1000000 * s.g (Reg.CAP.FRAME_TIMEOUT_MS p.val) ≤ s.clock + dt)) ∧
    (let p : Fin 4 := 2; let f : CapFrame := ⟨1, 5, 6, 0, 7, none, none, [], 0, [], [], [], [], false, false⟩; let s : State := (st [(Reg.CAP.ENABLE 2, 1), (Reg.ISP.CTX.ENABLE 1 3, 1), (Reg.ISP.CTX.PORT 1 3, 2), (Reg.ISP.CTX.SRC 1 3, 4), (Reg.ISP.CTX.STATE 1 3, 2), (Reg.ING.SRC.STATE 4, 2), (Reg.CAP.MODE 2, 7), (Reg.CAP.DE_USE 2, 1), (Reg.CAP.DE_POL 2, 1), (Reg.CAP.VS_POL 2, 1), (Reg.CAP.WIDTH_M1 2, 1), (Reg.CAP.HEIGHT_M1 2, 1), (Reg.ING.BUF.STATE 7, 1)]).setCport 2 ⟨[], none, false, 0, none, 0, ⟨[1, 2], [3, 4]⟩, 0, some ⟨1, 5, 6, 0, 7, none, none, [], 0, [], [], [], [], false, false⟩, 0, none⟩; (s.coreOn = true) ∧ ((s.cport p.val).frame = some f) ∧ ((f.disp < 4096 ∧ f.code.all (fun b => decide (b < 4096)) = true ∧ f.mv.all (fun b => decide (b < 4096)) = true)) ∧ ((s.ctxOf p.val).isSome = true)) ∧
    (let p : Fin 4 := 2; let f : CapFrame := ⟨1, 5, 6, 0, 7, none, none, [], 0, [], [], [], [], false, false⟩; let j : Nat := 1; let c : Nat := 3; let s : State := ((st [(Reg.CAP.ENABLE 2, 1), (Reg.ISP.CTX.ENABLE 1 3, 1), (Reg.ISP.CTX.PORT 1 3, 2), (Reg.ISP.CTX.SRC 1 3, 4), (Reg.ISP.CTX.STATE 1 3, 2), (Reg.ING.SRC.STATE 4, 2), (Reg.CAP.MODE 2, 7), (Reg.CAP.DE_USE 2, 1), (Reg.CAP.DE_POL 2, 1), (Reg.CAP.VS_POL 2, 1), (Reg.CAP.WIDTH_M1 2, 1), (Reg.CAP.HEIGHT_M1 2, 1), (Reg.ING.BUF.STATE 7, 1)]).setCport 2 ⟨[], none, false, 0, none, 0, ⟨[1, 2], [3, 4]⟩, 0, some ⟨1, 5, 6, 0, 7, none, none, [], 0, [], [], [], [], false, false⟩, 0, none⟩).setIctx 1 3 { IspCtx.reset with active := [((Reg.ISP.CTX.TNR_EN 1 3).addr, 0xFFFFFFFF)] }; (s.coreOn = true) ∧ ((s.cport p.val).frame = some f) ∧ (s.ctxOf p.val = some (j, c)) ∧ (s.act j c (Reg.ISP.CTX.TNR_EN j c) ≠ 0) ∧ (f.tnrOff = false)) := by
  refine ⟨?_, ?_, ?_, ?_, ?_, ?_, ?_, ?_⟩ <;> decide

/-- The hypotheses of ImageContexts, clause by clause, are met. -/
theorem witness_ImageContexts :
    (let m : Master := 1; let j : Fin 4 := 1; let c : Fin 4 := 3; let s : State := st [(Reg.ING.SRC.ENABLE 4, 1), (Reg.ING.SRC.TYPE 4, 5), (Reg.ING.SRC.PORT_A 4, 13), (Reg.CAP.ENABLE 2, 1), (Reg.ISP.CTX.PORT 1 3, 2), (Reg.ISP.CTX.TABLE_BASE 1 3, 0x800000), (Reg.ISP.CTX.CSC 1 3, 0)]; (s.coreOn = true) ∧ (s.mayWrite m.val ((Reg.ISP.CTX.ENABLE j.val c.val).addr) = true) ∧ (s.gb (Reg.ISP.CTX.ENABLE j.val c.val) = false) ∧ (s.ctxCheck j.val c.val = 0)) ∧
    (let m : Master := 1; let j : Fin 4 := 1; let c : Fin 4 := 3; let s : State := State.reset; (s.coreOn = true) ∧ (s.mayWrite m.val ((Reg.ISP.CTX.ENABLE j.val c.val).addr) = true) ∧ (s.gb (Reg.ISP.CTX.ENABLE j.val c.val) = false) ∧ (s.ctxCheck j.val c.val ≠ 0)) ∧
    (let m : Master := 1; let j : Fin 4 := 1; let c : Fin 4 := 3; let s : State := st [(Reg.ISP.CTX.ENABLE 1 3, 1), (Reg.ISP.CTX.APPLY 1 3, 1), (Reg.ISP.CTX.STATE 1 3, 2)]; (s.coreOn = true) ∧ (s.mayWrite m.val ((Reg.ISP.CTX.ENABLE j.val c.val).addr) = true) ∧ (s.gb (Reg.ISP.CTX.ENABLE j.val c.val) = true)) ∧
    (let m : Master := 1; let j : Fin 4 := 1; let c : Fin 4 := 3; let s : State := st [(Reg.ISP.CTX.ENABLE 1 3, 1)]; (s.coreOn = true) ∧ (s.mayWrite m.val ((Reg.ISP.CTX.ENABLE j.val c.val).addr) = true)) ∧
    (let m : Master := 1; let p : Fin 4 := 2; let s : State := st [(Reg.CAP.STORE_PEAK 2, 5)]; (s.coreOn = true) ∧ (s.mayWrite m.val ((Reg.CAP.PEAK_CLR p.val).addr) = true)) ∧
    (let j : Fin 4 := 1; let c : Fin 4 := 3; let p : Fin 4 := 2; let f : CapFrame := ⟨1, 5, 6, 0, 7, none, none, [], 0, [], [], [], [], false, false⟩; let r : CapRow := ⟨[1, 2], [3, 4]⟩; let rest : List CapRow := []; let s : State := (st [(Reg.CAP.ENABLE 2, 1), (Reg.ISP.CTX.ENABLE 1 3, 1), (Reg.ISP.CTX.PORT 1 3, 2), (Reg.ISP.CTX.SRC 1 3, 4), (Reg.ISP.CTX.STATE 1 3, 2), (Reg.ING.SRC.STATE 4, 2), (Reg.CAP.MODE 2, 7), (Reg.CAP.DE_USE 2, 1), (Reg.CAP.DE_POL 2, 1), (Reg.CAP.VS_POL 2, 1), (Reg.CAP.WIDTH_M1 2, 1), (Reg.CAP.HEIGHT_M1 2, 1), (Reg.ING.BUF.STATE 7, 1)]).setCport 2 ⟨[⟨[1, 2], [3, 4]⟩], none, false, 0, none, 1, ⟨[1, 2], [3, 4]⟩, 0, some ⟨1, 5, 6, 0, 7, none, none, [], 0, [], [], [], [], false, false⟩, 0, none⟩; (s.coreOn = true) ∧ (s.ispNext j.val = some c.val) ∧ (s.g (Reg.ISP.CTX.PORT j.val c.val) = p.val) ∧ ((s.cport p.val).frame = some f) ∧ ((f.disp < 4096 ∧ f.code.all (fun b => decide (b < 4096)) = true ∧ f.mv.all (fun b => decide (b < 4096)) = true)) ∧ ((s.cport p.val).store = r :: rest)) ∧
    (let dt : Nat := 100000000000; let i : Fin 512 := 4; let j : Fin 4 := 1; let c : Fin 4 := 3; let p : Fin 4 := 2; let s : State := (st [(Reg.CAP.ENABLE 2, 1), (Reg.ISP.CTX.ENABLE 1 3, 1), (Reg.ISP.CTX.PORT 1 3, 2), (Reg.ISP.CTX.SRC 1 3, 4), (Reg.ISP.CTX.STATE 1 3, 2), (Reg.ING.SRC.STATE 4, 2), (Reg.CAP.MODE 2, 7), (Reg.CAP.DE_USE 2, 1), (Reg.CAP.DE_POL 2, 1), (Reg.CAP.VS_POL 2, 1), (Reg.CAP.WIDTH_M1 2, 1), (Reg.CAP.HEIGHT_M1 2, 1), (Reg.ING.BUF.STATE 7, 1)]).setCport 2 ⟨[], none, false, 0, none, 0, ⟨[1, 2], [3, 4]⟩, 0, some ⟨1, 5, 6, 0, 7, none, none, [], 0, [], [], [], [], false, false⟩, 0, none⟩; (s.coreOn = true) ∧ ((List.range 16).find? (fun k => s.gb (Reg.ISP.CTX.ENABLE (k / 4) (k % 4)) && s.g (Reg.ISP.CTX.SRC (k / 4) (k % 4)) == i.val) = some (4 * j.val + c.val)) ∧ (s.g (Reg.ISP.CTX.PORT j.val c.val) = p.val) ∧ (s.g (Reg.ING.SRC.STATE i.val) = 2) ∧ ((s.cport p.val).startAt + 1000000 * s.g Reg.ING.CTRL.LOST_MS ≤ s.clock + dt)) := by
  refine ⟨?_, ?_, ?_, ?_, ?_, ?_, ?_⟩ <;> decide

/-- The hypotheses of LatchPoints, clause by clause, are met. -/
theorem witness_LatchPoints :
    (let n : Fin 64 := 6; let s : State := st [(Reg.HEAD.STATUS.RUN_STATE 6, 2), (Reg.HEAD.CTRL.ENABLE 6, 1)]; (s.pwr.mode = .run) ∧ (s.lead n.val = n.val) ∧ (s.g (Reg.HEAD.STATUS.RUN_STATE n.val) = 2) ∧ (s.gb (Reg.HEAD.CTRL.ENABLE n.val) = true) ∧ (s.gb (Reg.HEAD.CTRL.SLEEP n.val) = false)) ∧
    (let n : Fin 64 := 6; let s : State := st [(Reg.HEAD.STATUS.RUN_STATE 6, 1), (Reg.HEAD.CTRL.ENABLE 6, 1)]; (s.pwr.mode = .run) ∧ (s.lead n.val = n.val) ∧ (s.g (Reg.HEAD.STATUS.RUN_STATE n.val) = 1) ∧ (s.gb (Reg.HEAD.CTRL.ENABLE n.val) = true) ∧ (s.gb (Reg.HEAD.CTRL.SLEEP n.val) = false)) ∧
    (let n : Fin 64 := 7; let s : State := st [(Reg.HEAD.STATUS.RUN_STATE 7, 2)]; (s.coreOn = true) ∧ (s.lead n.val = n.val) ∧ (s.g (Reg.HEAD.STATUS.RUN_STATE n.val) = 2) ∧ ((s.gb (Reg.HEAD.CTRL.ENABLE n.val) = false ∨ s.gb (Reg.HEAD.CTRL.SLEEP n.val) = true))) ∧
    (let n : Fin 64 := 7; let s : State := st [(Reg.HEAD.STATUS.RUN_STATE 7, 2)]; (s.coreOn = true) ∧ (s.g (Reg.HEAD.STATUS.RUN_STATE n.val) = 2) ∧ ((s.head n.val).frame.composing = false)) ∧
    (let n : Fin 64 := 7; let s : State := (st [(Reg.HEAD.STATUS.RUN_STATE 7, 2)]).setHead 7 { HeadState.reset with frame := { HeadFrame.reset with composing := true } }; (s.composes n.val = true)) ∧
    (let n : Fin 64 := 7; let x : Nat := 0; let s : State := (st [(Reg.HEAD.STATUS.RUN_STATE 7, 2)]).setHead 7 { HeadState.reset with frame := { HeadFrame.reset with composing := true } }; (s.composes n.val = true) ∧ (x < s.activeW n.val)) := by
  refine ⟨?_, ?_, ?_, ?_, ?_, ?_⟩ <;> decide

/-- The hypotheses of HeadsRun, clause by clause, are met. -/
theorem witness_HeadsRun :
    (let m : Master := 1; let n : Fin 64 := 6; let s : State := st [(Reg.CLK.RUNNING, 256), (Reg.CLK.VPLL.N 0, 40), (Reg.CLK.FRAC_DEN 0, 1), (Reg.CLK.VPLL.POST 0, 3), (⟨0x10406010, 0, 32⟩, 5703551), (⟨0x10406014, 0, 32⟩, 9633835), (⟨0x10406018, 0, 32⟩, 197687), (⟨0x1040601c, 0, 32⟩, 2293764), (⟨0x10406020, 0, 32⟩, 20), (⟨0x10406024, 0, 32⟩, 26214500)]; (s.coreOn = true) ∧ (s.mayWrite m.val (0x10400000 + 0x1000 * n.val) = true) ∧ (s.lead n.val = n.val) ∧ (s.gb (Reg.HEAD.CTRL.ENABLE n.val) = false) ∧ (s.enableCheck n.val = 0)) ∧
    (let m : Master := 1; let n : Fin 64 := 6; let s : State := State.reset; (s.coreOn = true) ∧ (s.mayWrite m.val (0x10400000 + 0x1000 * n.val) = true) ∧ (s.lead n.val = n.val) ∧ (s.gb (Reg.HEAD.CTRL.ENABLE n.val) = false) ∧ (s.enableCheck n.val ≠ 0)) ∧
    (let m : Master := 1; let n : Fin 64 := 6; let s : State := st [(Reg.HEAD.STATUS.RUN_STATE 6, 2), (Reg.HEAD.CTRL.ENABLE 6, 1)]; (s.coreOn = true) ∧ (s.mayWrite m.val (0x10400000 + 0x1000 * n.val) = true) ∧ (s.lead n.val = n.val) ∧ (s.gb (Reg.HEAD.CTRL.ENABLE n.val) = true) ∧ (s.g (Reg.HEAD.STATUS.RUN_STATE n.val) = 2)) ∧
    (let m : Master := 1; let n : Fin 64 := 6; let s : State := st [(Reg.HEAD.STATUS.RUN_STATE 6, 3), (Reg.HEAD.CTRL.ENABLE 6, 1)]; (s.coreOn = true) ∧ (s.mayWrite m.val (0x10400000 + 0x1000 * n.val) = true) ∧ (s.lead n.val = n.val) ∧ (s.gb (Reg.HEAD.CTRL.ENABLE n.val) = true) ∧ (s.g (Reg.HEAD.STATUS.RUN_STATE n.val) = 3) ∧ (s.gb (Reg.HEAD.STATUS.COMMIT_PENDING n.val) = false)) ∧
    (let m : Master := 1; let n : Fin 64 := 6; let s : State := st [(Reg.HEAD.STATUS.RUN_STATE 6, 2), (Reg.HEAD.CTRL.ENABLE 6, 1)]; (s.coreOn = true) ∧ (s.mayWrite m.val (0x10400000 + 0x1000 * n.val) = true) ∧ (s.lead n.val = n.val) ∧ (s.gb (Reg.HEAD.CTRL.ENABLE n.val) = true)) ∧
    (let m : Master := 1; let n : Fin 64 := 6; let s : State := st [(Reg.HEAD.STATUS.RUN_STATE 6, 3), (Reg.HEAD.CTRL.ENABLE 6, 1), (Reg.HEAD.CTRL.SLEEP 6, 1)]; (s.coreOn = true) ∧ (s.mayWrite m.val (0x10400000 + 0x1000 * n.val) = true) ∧ (s.lead n.val = n.val) ∧ (s.gb (Reg.HEAD.CTRL.ENABLE n.val) = true) ∧ (s.g (Reg.HEAD.STATUS.RUN_STATE n.val) = 3)) ∧
    (let m : Master := 1; let n : Fin 64 := 6; let s : State := State.reset; (s.coreOn = true) ∧ (s.mayWrite m.val (0x10400000 + 0x1000 * n.val) = true) ∧ (n.val % 2 = 0) ∧ (s.gb (Reg.HEAD.CTRL.ENABLE n.val) = false) ∧ (s.gb (Reg.HEAD.CTRL.ENABLE (n.val + 1)) = false)) ∧
    (let m : Master := 1; let n : Fin 64 := 6; let s : State := st [(Reg.HEAD.CTRL.ENABLE 7, 1)]; (s.coreOn = true) ∧ (s.mayWrite m.val (0x10400000 + 0x1000 * n.val) = true) ∧ (n.val % 2 = 0) ∧ ((s.gb (Reg.HEAD.CTRL.ENABLE n.val) = true ∨ s.gb (Reg.HEAD.CTRL.ENABLE (n.val + 1)) = true))) := by
  refine ⟨?_, ?_, ?_, ?_, ?_, ?_, ?_, ?_⟩ <;> decide +kernel

/-- The hypotheses of HeadCommits, clause by clause, are met. -/
theorem witness_HeadCommits :
    (let m : Master := 1; let n : Fin 64 := 7; let s : State := st [(Reg.HEAD.CTRL.ENABLE 7, 1), (⟨0x10407010, 0, 32⟩, 5703551), (⟨0x10407014, 0, 32⟩, 9633835), (⟨0x10407018, 0, 32⟩, 197687), (⟨0x1040701c, 0, 32⟩, 2293764), (⟨0x10407020, 0, 32⟩, 20), (⟨0x10407024, 0, 32⟩, 26214500)]; (s.coreOn = true) ∧ (s.mayWrite m.val (0x10400050 + 0x1000 * n.val) = true) ∧ (s.lead n.val = n.val) ∧ (s.gb (Reg.HEAD.CTRL.ENABLE n.val) = true) ∧ (s.gb (Reg.HEAD.STATUS.COMMIT_PENDING n.val) = false) ∧ ((s.ledBy n.val).all (fun k => (s.timing true k).fits) = true)) ∧
    (let m : Master := 1; let n : Fin 64 := 7; let s : State := st [(Reg.HEAD.CTRL.PAIR 6, 1)]; (s.coreOn = true) ∧ (s.mayWrite m.val (0x10400050 + 0x1000 * n.val) = true) ∧ (s.lead n.val ≠ n.val)) ∧
    (let m : Master := 1; let n : Fin 64 := 7; let s : State := State.reset; (s.coreOn = true) ∧ (s.mayWrite m.val (0x10400050 + 0x1000 * n.val) = true) ∧ (s.lead n.val = n.val) ∧ (s.gb (Reg.HEAD.CTRL.ENABLE n.val) = false)) ∧
    (let m : Master := 1; let n : Fin 64 := 7; let s : State := st [(Reg.HEAD.CTRL.ENABLE 7, 1), (Reg.HEAD.STATUS.COMMIT_PENDING 7, 1)]; (s.coreOn = true) ∧ (s.mayWrite m.val (0x10400050 + 0x1000 * n.val) = true) ∧ (s.lead n.val = n.val) ∧ (s.gb (Reg.HEAD.CTRL.ENABLE n.val) = true) ∧ (s.gb (Reg.HEAD.STATUS.COMMIT_PENDING n.val) = true)) ∧
    (let m : Master := 1; let n : Fin 64 := 7; let s : State := st [(Reg.HEAD.CTRL.ENABLE 7, 1)]; (s.coreOn = true) ∧ (s.mayWrite m.val (0x10400050 + 0x1000 * n.val) = true) ∧ (s.lead n.val = n.val) ∧ (s.gb (Reg.HEAD.CTRL.ENABLE n.val) = true) ∧ (s.gb (Reg.HEAD.STATUS.COMMIT_PENDING n.val) = false) ∧ ((s.ledBy n.val).all (fun k => (s.timing true k).fits) = false)) ∧
    (let m : Master := 1; let n : Fin 64 := 7; let s : State := st [(Reg.HEAD.OTAB_INDEX.BANK 7, 1)]; (s.coreOn = true) ∧ (s.mayWrite m.val (0x10400430 + 0x1000 * n.val) = true) ∧ (s.g (Reg.HEAD.OTAB_INDEX.BANK n.val) ≠ s.g (Reg.HEAD.OUT_CTRL.OTAB_BANK n.val))) ∧
    (let m : Master := 1; let n : Fin 64 := 7; let s : State := State.reset; (s.coreOn = true) ∧ (s.mayWrite m.val (0x10400430 + 0x1000 * n.val) = true) ∧ (s.g (Reg.HEAD.OTAB_INDEX.BANK n.val) = s.g (Reg.HEAD.OUT_CTRL.OTAB_BANK n.val))) ∧
    (let m : Master := 1; let s : State := State.reset; (s.coreOn = true) ∧ (s.readsNow m.val = true)) ∧
    (let m : Master := 1; let n : Fin 64 := 7; let s : State := State.reset; (s.coreOn = true) ∧ (s.mayWrite m.val (0x10400078 + 0x1000 * n.val) = true)) ∧
    (let n : Fin 64 := 7; let s : State := st [(Reg.HEAD.STATUS.RUN_STATE 7, 2), (Reg.HEAD.GL_CTRL.GL_EN 7, 1), (Reg.HEAD.GL_CTRL.RATE 7, 8), (Reg.CLK.VPLL.N 0, 40), (Reg.CLK.FRAC_DEN 0, 1)]; (s.coreOn = true) ∧ (s.lead n.val = n.val) ∧ (s.g (Reg.HEAD.STATUS.RUN_STATE n.val) = 2) ∧ (s.glOn n.val = true)) ∧
    (let m : Master := 1; let x : Fin 4 := 2; let s : State := State.reset; (s.coreOn = true) ∧ (s.mayWrite m.val (0x100C0000) = true) ∧ (((s.livePage.toList ++ (if s.gb Reg.SEQ.STATUS.STAGE_VALID then [s.stagePage] else [])).any (fun p => !(labelClashes (s.page p) (x.val + 1)).isEmpty)) = false)) ∧
    (let m : Master := 1; let x : Fin 4 := 2; let s : State := put16 (put16 (put16 (put16 (put16 (put16 (st [(Reg.SEQ.STATUS.LIVE_VALID, 1)]) 1 (4 * 2 ^ 32 + (6 + 2 ^ 17) * 2 ^ 64 + (8 + 2 ^ 17) * 2 ^ 96)) 3 (10 + 2 ^ 16)) 4 (1 + 99 * 2 ^ 2 + 99 * 2 ^ 15)) 6 (1 + 2 ^ 15)) 8 (50 * 2 ^ 97 + 50 * 2 ^ 110)) 10 (10 * 2 ^ 38 + 10 * 2 ^ 51); (s.coreOn = true) ∧ (s.mayWrite m.val (0x100C0000) = true) ∧ (((s.livePage.toList ++ (if s.gb Reg.SEQ.STATUS.STAGE_VALID then [s.stagePage] else [])).any (fun p => !(labelClashes (s.page p) (x.val + 1)).isEmpty)) = true)) := by
  refine ⟨?_, ?_, ?_, ?_, ?_, ?_, ?_, ?_, ?_, ?_, ?_, ?_⟩ <;> decide

/-- The hypotheses of DisplayPortLinks, clause by clause, are met. -/
theorem witness_DisplayPortLinks :
    (let m : Master := 1; let n : Fin 64 := 9; let v : Word := 0xC0000#32; let s : State := State.reset; (s.coreOn = true) ∧ (s.mayWrite m.val ((Reg.DPTX.CTRL.ENABLE n.val).addr) = true) ∧ (s.gb (Reg.DPTX.CTRL.ENABLE n.val) = false) ∧ ((s.writeFields m.val (Reg.DPTX.CTRL.ENABLE n.val).addr (fieldSet v 0 1 1) 0x80000001).dpCheck n.val (fieldGet v 14 2) = 0)) ∧
    (let m : Master := 1; let n : Fin 64 := 9; let v : Word := 0xC000#32; let s : State := State.reset; (s.coreOn = true) ∧ (s.mayWrite m.val ((Reg.DPTX.CTRL.ENABLE n.val).addr) = true) ∧ (s.gb (Reg.DPTX.CTRL.ENABLE n.val) = false) ∧ ((s.writeFields m.val (Reg.DPTX.CTRL.ENABLE n.val).addr (fieldSet v 0 1 1) 0x80000001).dpCheck n.val (fieldGet v 14 2) ≠ 0)) ∧
    (let m : Master := 1; let n : Fin 64 := 9; let s : State := st [(Reg.DPTX.CTRL.ENABLE 9, 1), (Reg.DPTX.STATUS.LINK 9, 3)]; (s.coreOn = true) ∧ (s.mayWrite m.val ((Reg.DPTX.CTRL.ENABLE n.val).addr) = true) ∧ (s.gb (Reg.DPTX.CTRL.ENABLE n.val) = true)) ∧
    (let m : Master := 1; let n : Fin 64 := 9; let s : State := st [(Reg.DPTX.CTRL.ENABLE 9, 1)]; (s.coreOn = true) ∧ (s.mayWrite m.val ((Reg.DPTX.CTRL.ENABLE n.val).addr) = true)) ∧
    (let n : Fin 64 := 9; let s : State := (st [(Reg.DPTX.CTRL.ENABLE 9, 1), (Reg.DPTX.STATUS.HPD 9, 1), (Reg.CUS.STATUS.ACTING, 1), (Reg.ENG.STATUS.STATE 23, 2)]).setDp 9 { DpState.reset with want := true }; (s.coreOn = true) ∧ ((s.dpx n.val).want = true) ∧ (s.gb (Reg.DPTX.CTRL.ENABLE n.val) = true) ∧ (s.gb (Reg.DPTX.STATUS.HPD n.val) = true) ∧ (s.granted = true) ∧ (s.engRunning 23 = true) ∧ (s.g (Reg.DPTX.STATUS.LINK n.val) ≠ 2)) ∧
    (let n : Fin 64 := 9; let caps : List Byte := [0x12, 30, 4, 128]; let t1 : List (List Byte) := []; let t2 : List (List Byte) := [[0x77, 0x77, 1, 0, 0, 0], [0x77, 0x77, 1, 0, 0, 0]]; let ts : List (List (List Byte)) := []; let s : State := st [(Reg.DPTX.STATUS.LINK 9, 2), (Reg.CUS.STATUS.ACTING, 1), (Reg.ENG.STATUS.STATE 23, 2)]; (s.coreOn = true) ∧ (s.g (Reg.DPTX.STATUS.LINK n.val) = 2) ∧ (s.granted = true) ∧ ((s.sinkCaps n.val caps).capsShort n.val = false) ∧ ((s.dpTries n.val 4 0 (t1 :: t2 :: ts)).2.1 = .ok)) ∧
    (let n : Fin 64 := 9; let caps : List Byte := [0x12, 30, 4, 128]; let t1 : List (List Byte) := [[0, 0, 0, 0, 0x21, 0], [1, 0, 0, 0, 0, 0], [0x7, 0, 1, 0, 0, 0]]; let lv : Nat := 1; let s : State := st [(Reg.DPTX.STATUS.LINK 9, 2), (Reg.CUS.STATUS.ACTING, 1), (Reg.ENG.STATUS.STATE 23, 2)]; (s.coreOn = true) ∧ (s.g (Reg.DPTX.STATUS.LINK n.val) = 2) ∧ (s.granted = true) ∧ ((s.sinkCaps n.val caps).capsShort n.val = false) ∧ (dpTry (2 ^ s.g (Reg.DPTX.CTRL.LANES n.val)) t1 = (.ok, lv, true))) ∧
    (let n : Fin 64 := 9; let caps : List Byte := []; let t1 : List (List Byte) := []; let t2 : List (List Byte) := []; let ts : List (List (List Byte)) := []; let s : State := st [(Reg.DPTX.STATUS.LINK 9, 2), (Reg.CUS.STATUS.ACTING, 1), (Reg.ENG.STATUS.STATE 23, 2)]; (s.coreOn = true) ∧ (s.g (Reg.DPTX.STATUS.LINK n.val) = 2) ∧ (s.granted = true) ∧ (((s.sinkCaps n.val caps).capsShort n.val = true ∨ (s.dpTries n.val 4 0 (t1 :: t2 :: ts)).2.1 ≠ .ok))) ∧
    (let n : Fin 64 := 9; let s : State := State.reset; (s.coreOn = true) ∧ (s.gb (Reg.DPTX.STATUS.HPD n.val) = false)) ∧
    (let n : Fin 64 := 9; let s : State := st [(Reg.DPTX.STATUS.HPD 9, 1), (Reg.DPTX.STATUS.LINK 9, 3)]; (s.coreOn = true) ∧ (s.gb (Reg.DPTX.STATUS.HPD n.val) = true)) ∧
    (let n : Fin 64 := 9; let s : State := st [(Reg.DPTX.STATUS.HPD 9, 1), (Reg.DPTX.STATUS.LINK 9, 3), (Reg.CUS.STATUS.ACTING, 1), (Reg.ENG.STATUS.STATE 23, 2)]; (s.coreOn = true) ∧ (s.gb (Reg.DPTX.STATUS.HPD n.val) = true)) ∧
    (let dt : Nat := 20000000; let n : Fin 64 := 9; let at_ : Nat := 5; let s : State := (st []).setDp 9 { DpState.reset with lossAt := some 5 }; (s.coreOn = true) ∧ ((s.dpx n.val).lossAt = some at_) ∧ (at_ + 10000000 ≤ s.clock + dt)) := by
  refine ⟨?_, ?_, ?_, ?_, ?_, ?_, ?_, ?_, ?_, ?_, ?_, ?_⟩ <;> decide

/-- The hypotheses of AuxTransactions, clause by clause, are met. -/
theorem witness_AuxTransactions :
    (let m : Master := 1; let n : Fin 64 := 9; let s : State := st [(Reg.CUS.STATUS.ACTING, 1), (Reg.ENG.STATUS.STATE 23, 2)]; (s.coreOn = true) ∧ (s.mayWrite m.val ((Reg.DPTX.AUX_CMD.GO n.val).addr) = true) ∧ (s.gb (Reg.DPTX.AUX_CMD.GO n.val) = false) ∧ (s.granted = true) ∧ (s.engRunning 23 = true)) ∧
    (let m : Master := 1; let n : Fin 64 := 9; let s : State := State.reset; (s.coreOn = true) ∧ (s.mayWrite m.val ((Reg.DPTX.AUX_CMD.GO n.val).addr) = true) ∧ (s.gb (Reg.DPTX.AUX_CMD.GO n.val) = false) ∧ ((s.granted = false ∨ s.engRunning 23 = false))) ∧
    (let n : Fin 64 := 9; let s : State := (st []).setDp 9 { DpState.reset with aux := 2 }; (s.coreOn = true) ∧ ((s.dpx n.val).aux = 2)) ∧
    (let dt : Nat := 500000; let n : Fin 64 := 9; let s : State := (st []).setDp 9 { DpState.reset with aux := 2 }; (s.coreOn = true) ∧ ((s.dpx n.val).aux = 2) ∧ ((s.dpx n.val).auxAt + 400000 ≤ s.clock + dt) ∧ ((s.dpx n.val).defers < 7)) ∧
    (let dt : Nat := 500000; let n : Fin 64 := 9; let s : State := (st []).setDp 9 { DpState.reset with aux := 2, defers := 7 }; (s.coreOn = true) ∧ ((s.dpx n.val).aux = 2) ∧ ((s.dpx n.val).auxAt + 400000 ≤ s.clock + dt) ∧ (7 ≤ (s.dpx n.val).defers)) ∧
    (let dt : Nat := 500000; let n : Fin 64 := 9; let s : State := (st []).setDp 9 { DpState.reset with aux := 2 }; (s.coreOn = true) ∧ ((s.dpx n.val).aux = 2) ∧ ((s.dpx n.val).auxAt + 400000 ≤ s.clock + dt)) := by
  refine ⟨?_, ?_, ?_, ?_, ?_, ?_⟩ <;> decide

/-- The hypotheses of ThizonTraining, clause by clause, are met. -/
theorem witness_ThizonTraining :
    (let m : Master := 1; let q : Fin 16 := 9; let v : Word := 0x30000#32; let s : State := State.reset; (s.coreOn = true) ∧ (s.mayWrite m.val ((Reg.TZL.CTRL.ENABLE q.val).addr) = true) ∧ (s.gb (Reg.TZL.CTRL.ENABLE q.val) = false) ∧ ((s.writeFields m.val (Reg.TZL.CTRL.ENABLE q.val).addr (fieldSet v 0 1 1) 0x80000001).tzlCheck q.val = 0)) ∧
    (let m : Master := 1; let q : Fin 16 := 9; let v : Word := 0x36000#32; let s : State := State.reset; (s.coreOn = true) ∧ (s.mayWrite m.val ((Reg.TZL.CTRL.ENABLE q.val).addr) = true) ∧ (s.gb (Reg.TZL.CTRL.ENABLE q.val) = false) ∧ ((s.writeFields m.val (Reg.TZL.CTRL.ENABLE q.val).addr (fieldSet v 0 1 1) 0x80000001).tzlCheck q.val ≠ 0)) ∧
    (let m : Master := 1; let q : Fin 16 := 9; let s : State := st [(Reg.TZL.CTRL.ENABLE 9, 1), (Reg.TZL.STATUS.LINK 9, 3)]; (s.coreOn = true) ∧ (s.mayWrite m.val ((Reg.TZL.CTRL.ENABLE q.val).addr) = true) ∧ (s.gb (Reg.TZL.CTRL.ENABLE q.val) = true)) ∧
    (let m : Master := 1; let q : Fin 16 := 9; let s : State := st [(Reg.TZL.CTRL.ENABLE 9, 1), (Reg.CUS.STATUS.ACTING, 1), (Reg.ENG.STATUS.STATE 23, 2)]; (s.coreOn = true) ∧ (s.mayWrite m.val ((Reg.TZL.CTRL.ENABLE q.val).addr) = true) ∧ (s.gb (Reg.TZL.CTRL.ENABLE q.val) = true) ∧ (s.engRunning 23 = true)) ∧
    (let q : Fin 16 := 9; let o : OrderedSet := ⟨false, 2, 3, 0, false⟩; let s : State := (st [(Reg.LANE.OWNER 13 0, 3), (Reg.LANE.PSTATE 13 0, 0), (Reg.TZL.CTRL.ENABLE 9, 1), (Reg.TZL.STATUS.LINK 9, 2), (Reg.TZL.CTRL.VERSION_MAX 9, 3), (Reg.CUS.STATUS.ACTING, 1), (Reg.ENG.STATUS.STATE 23, 2)]).setTz 9 { TzlState.reset with ts2 := false }; (s.coreOn = true) ∧ (s.g (Reg.TZL.STATUS.LINK q.val) = 2) ∧ (s.engRunning 23 = true) ∧ ((s.tzlLanes q.val).all (fun d => s.laneGood (dispQuad d) (dispLane d)) = true) ∧ ((o.width ≠ s.tzlWidth q.val ∨ o.vmax % 256 < 2))) ∧
    (let q : Fin 16 := 9; let o : OrderedSet := ⟨false, 1, 3, 0, false⟩; let s : State := (st [(Reg.LANE.OWNER 13 0, 3), (Reg.LANE.PSTATE 13 0, 0), (Reg.TZL.CTRL.ENABLE 9, 1), (Reg.TZL.STATUS.LINK 9, 2), (Reg.TZL.CTRL.VERSION_MAX 9, 3), (Reg.CUS.STATUS.ACTING, 1), (Reg.ENG.STATUS.STATE 23, 2)]).setTz 9 { TzlState.reset with ts2 := false }; (s.coreOn = true) ∧ (s.g (Reg.TZL.STATUS.LINK q.val) = 2) ∧ (s.engRunning 23 = true) ∧ ((s.tzlLanes q.val).all (fun d => s.laneGood (dispQuad d) (dispLane d)) = true) ∧ (o.width = s.tzlWidth q.val) ∧ (2 ≤ o.vmax % 256) ∧ (o.ts2 = false)) ∧
    (let q : Fin 16 := 9; let o : OrderedSet := ⟨true, 1, 3, 3, false⟩; let s : State := (st [(Reg.LANE.OWNER 13 0, 3), (Reg.LANE.PSTATE 13 0, 0), (Reg.TZL.CTRL.ENABLE 9, 1), (Reg.TZL.STATUS.LINK 9, 2), (Reg.TZL.CTRL.VERSION_MAX 9, 3), (Reg.CUS.STATUS.ACTING, 1), (Reg.ENG.STATUS.STATE 23, 2)]).setTz 9 { TzlState.reset with ts2 := true }; (s.coreOn = true) ∧ (s.g (Reg.TZL.STATUS.LINK q.val) = 2) ∧ (s.engRunning 23 = true) ∧ ((s.tzlLanes q.val).all (fun d => s.laneGood (dispQuad d) (dispLane d)) = true) ∧ (o.width = s.tzlWidth q.val) ∧ (2 ≤ o.vmax % 256) ∧ (o.ts2 = true) ∧ ((s.tz q.val).ts2 = true) ∧ (o.vsel = min (s.g (Reg.TZL.CTRL.VERSION_MAX q.val)) (o.vmax % 256))) ∧
    (let dt : Nat := 20000000; let q : Fin 16 := 9; let s : State := st [(Reg.TZL.STATUS.LINK 9, 2), (Reg.CUS.STATUS.ACTING, 1), (Reg.ENG.STATUS.STATE 23, 2)]; (s.coreOn = true) ∧ (s.g (Reg.TZL.STATUS.LINK q.val) = 2) ∧ (s.engRunning 23 = true) ∧ ((s.tz q.val).clockAt + 10000000 ≤ s.clock + dt)) ∧
    (let dt : Nat := 5; let q : Fin 16 := 9; let s : State := st [(Reg.TZL.CTRL.ENABLE 9, 1), (Reg.TZL.STATUS.LINK 9, 1), (Reg.CUS.STATUS.ACTING, 1), (Reg.ENG.STATUS.STATE 23, 2)]; (s.coreOn = true) ∧ (s.gb (Reg.TZL.CTRL.ENABLE q.val) = true) ∧ (s.g (Reg.TZL.STATUS.LINK q.val) = 1) ∧ (s.engRunning 23 = true) ∧ ((s.tz q.val).clockAt ≤ s.clock + dt)) := by
  refine ⟨?_, ?_, ?_, ?_, ?_, ?_, ?_, ?_, ?_⟩ <;> decide

/-- The hypotheses of ThizonPackets, clause by clause, are met. -/
theorem witness_ThizonPackets :
    (let q : Fin 16 := 9; let y : Nat := 0; let s : State := (st [(Reg.TZL.STATUS.LINK 9, 3), (Reg.TZL.STATUS.STREAM 9, 1)]).setHead 0 { HeadState.reset with frame := { HeadFrame.reset with nextLine := 1, scanned := 1, ahead := [], line := [5] } }; (s.coreOn = true) ∧ (3 ≤ s.g (Reg.TZL.STATUS.LINK q.val)) ∧ (s.g (Reg.TZL.STATUS.STREAM q.val) = 1) ∧ ((s.head (s.tzlHead q.val)).frame.scanned = y + 1) ∧ (y < (s.head (s.tzlHead q.val)).frame.nextLine)) ∧
    (let q : Fin 16 := 9; let y : Nat := 0; let s : State := (st [(Reg.TZL.STATUS.LINK 9, 3), (Reg.TZL.STATUS.STREAM 9, 1)]).setHead 0 { HeadState.reset with frame := { HeadFrame.reset with nextLine := 1, scanned := 0, ahead := [[6]], line := [5] } }; (s.coreOn = true) ∧ (3 ≤ s.g (Reg.TZL.STATUS.LINK q.val)) ∧ (s.g (Reg.TZL.STATUS.STREAM q.val) = 1) ∧ ((s.head (s.tzlHead q.val)).frame.scanned ≤ y) ∧ (y < (s.head (s.tzlHead q.val)).frame.nextLine)) ∧
    (let m : Master := 1; let q : Fin 16 := 9; let s : State := st [(Reg.TZL.STATUS.LINK 9, 3), (Reg.TZL.CTRL_HDR.LEN 9, 32)]; (s.coreOn = true) ∧ (s.mayWrite m.val ((Reg.TZL.CTRL_SEND.SEND q.val).addr) = true) ∧ (s.gb (Reg.TZL.CTRL_SEND.SEND q.val) = false) ∧ (1 ≤ s.g (Reg.TZL.CTRL_HDR.LEN q.val)) ∧ (s.g (Reg.TZL.CTRL_HDR.LEN q.val) ≤ 32) ∧ (3 ≤ s.g (Reg.TZL.STATUS.LINK q.val))) ∧
    (let m : Master := 1; let q : Fin 16 := 9; let s : State := st [(Reg.TZL.CTRL_HDR.LEN 9, 33)]; (s.coreOn = true) ∧ (s.mayWrite m.val ((Reg.TZL.CTRL_SEND.SEND q.val).addr) = true) ∧ (s.gb (Reg.TZL.CTRL_SEND.SEND q.val) = false) ∧ ((s.g (Reg.TZL.CTRL_HDR.LEN q.val) = 0 ∨ 32 < s.g (Reg.TZL.CTRL_HDR.LEN q.val)))) ∧
    (let m : Master := 1; let q : Fin 16 := 9; let s : State := st [(Reg.TZL.CTRL_HDR.LEN 9, 1)]; (s.coreOn = true) ∧ (s.mayWrite m.val ((Reg.TZL.CTRL_SEND.SEND q.val).addr) = true) ∧ (s.gb (Reg.TZL.CTRL_SEND.SEND q.val) = false) ∧ (1 ≤ s.g (Reg.TZL.CTRL_HDR.LEN q.val)) ∧ (s.g (Reg.TZL.CTRL_HDR.LEN q.val) ≤ 32) ∧ (s.g (Reg.TZL.STATUS.LINK q.val) < 3)) ∧
    (let q : Fin 16 := 9; let bs : List Byte := [0, 0, 0, 0, 0, 0, 0, 0, 0, 0, 0, 0, 0, 0, 0, 0]; let s : State := st [(Reg.TZL.STATUS.LINK 9, 3), (Reg.TZL.STATUS.VERSION 9, 3), (Reg.TZL.STAT_BASE.LOG2 9, 4), (Reg.TZL.STAT_BASE.ADDR 9, 0x800000)]; (s.coreOn = true) ∧ (3 ≤ s.g (Reg.TZL.STATUS.LINK q.val)) ∧ (s.g (Reg.TZL.STATUS.VERSION q.val) = 3) ∧ (bs.length = 16) ∧ ((s.g (Reg.TZL.STAT_WR.INDEX q.val) + 1) % 2 ^ s.g (Reg.TZL.STAT_BASE.LOG2 q.val) ≠ s.g (Reg.TZL.STAT_RD.INDEX q.val) % 2 ^ s.g (Reg.TZL.STAT_BASE.LOG2 q.val)) ∧ (s.inDram (4096 * s.g (Reg.TZL.STAT_BASE.ADDR q.val) + 32 * s.g (Reg.TZL.STAT_WR.INDEX q.val)) 32 = true)) ∧
    (let q : Fin 16 := 9; let bs : List Byte := [0, 0, 0, 0, 0, 0, 0, 0, 0, 0, 0, 0, 0, 0, 0, 0]; let s : State := st [(Reg.TZL.STATUS.LINK 9, 3), (Reg.TZL.STATUS.VERSION 9, 3)]; (s.coreOn = true) ∧ (3 ≤ s.g (Reg.TZL.STATUS.LINK q.val)) ∧ (s.g (Reg.TZL.STATUS.VERSION q.val) = 3) ∧ (bs.length = 16) ∧ (((s.g (Reg.TZL.STAT_WR.INDEX q.val) + 1) % 2 ^ s.g (Reg.TZL.STAT_BASE.LOG2 q.val) = s.g (Reg.TZL.STAT_RD.INDEX q.val) % 2 ^ s.g (Reg.TZL.STAT_BASE.LOG2 q.val) ∨ s.inDram (4096 * s.g (Reg.TZL.STAT_BASE.ADDR q.val) + 32 * s.g (Reg.TZL.STAT_WR.INDEX q.val)) 32 = false))) ∧
    (let q : Fin 16 := 9; let bs : List Byte := [0, 0, 0, 0, 0, 0, 0, 0, 0, 0, 0, 0, 0, 0, 0, 0]; let s : State := st [(Reg.TZL.STATUS.LINK 9, 3)]; (s.coreOn = true) ∧ (3 ≤ s.g (Reg.TZL.STATUS.LINK q.val)) ∧ (bs.length = 16)) ∧
    (let dt : Nat := 200000000; let q : Fin 16 := 9; let s : State := st [(Reg.TZL.STATUS.LOOP_SEEN 9, 1)]; ((s.tz q.val).loopAt + 100000000 ≤ s.clock + dt)) ∧
    (let q : Fin 16 := 9; let k : Fin 8 := 0; let s : State := st [(Reg.TZL.STATUS.LINK 9, 3), (Reg.TZL.STATUS.VERSION 9, 3), (Reg.TZL.STATUS.SPARE_OK 9, 1), (Reg.TZL.CTRL.SPARE_EN 9, 1)]; (s.coreOn = true) ∧ (3 ≤ s.g (Reg.TZL.STATUS.LINK q.val)) ∧ (k.val < s.tzlWidth q.val) ∧ (s.canSpare q.val k.val = true) ∧ ((s.tz q.val).txMoved = false)) ∧
    (let q : Fin 16 := 9; let k : Fin 8 := 0; let s : State := st [(Reg.TZL.STATUS.LINK 9, 3)]; (s.coreOn = true) ∧ (3 ≤ s.g (Reg.TZL.STATUS.LINK q.val)) ∧ (k.val < s.tzlWidth q.val) ∧ (s.canSpare q.val k.val = false)) := by
  refine ⟨?_, ?_, ?_, ?_, ?_, ?_, ?_, ?_, ?_, ?_, ?_⟩ <;> decide

/-- The hypotheses of LaneDetectors, clause by clause, are met. -/
theorem witness_LaneDetectors :
    (let q : Fin 20 := 13; let w : BitVec 4 := 6#4; let l : Fin 4 := 1; let s : State := st [(Reg.LANE.PSTATE 13 1, 0), (Reg.LANE.OWNER 13 1, 3), (Reg.LANE.LOS_EVT_EN 13 1, 1)]; (s.coreOn = true) ∧ (bitOf w.toNat l.val = true) ∧ (s.losHeard q.val l.val = true) ∧ (s.gb (Reg.LANE.LOS q.val l.val) = false)) ∧
    (let q : Fin 20 := 13; let w : BitVec 4 := 6#4; let l : Fin 4 := 1; let s : State := st [(Reg.LANE.PSTATE 13 1, 0), (Reg.LANE.OWNER 13 1, 3), (Reg.LANE.LOL_EVT_EN 13 1, 1)]; (s.coreOn = true) ∧ (bitOf w.toNat l.val = true) ∧ (s.lolHeard q.val l.val = true) ∧ (s.gb (Reg.LANE.LOL q.val l.val) = false)) ∧
    (let q : Fin 20 := 13; let l : Fin 4 := 1; let s : State := st [(Reg.LANE.PSTATE 13 1, 0), (Reg.LANE.OWNER 13 1, 3), (Reg.LANE.LOS 13 1, 1)]; (s.coreOn = true) ∧ (s.losHeard q.val l.val = true)) ∧
    (let dt : Nat := 16000; let q : Fin 20 := 13; let l : Fin 4 := 1; let s : State := st [(Reg.LANE.PSTATE 13 1, 0), (Reg.LANE.OWNER 13 1, 3), (Reg.LANE.LOL 13 1, 1), (Reg.QUAD.PLL_LOCK 13, 1)]; (s.coreOn = true) ∧ (s.lolHeard q.val l.val = true) ∧ (s.gb (Reg.LANE.LOL q.val l.val) = true) ∧ (s.gb (Reg.LANE.LOS q.val l.val) = false) ∧ (s.gb (Reg.QUAD.PLL_LOCK q.val) = true) ∧ ((s.lane q.val l.val).lockFrom + 16000 ≤ s.clock + dt)) ∧
    (let dt : Nat := 5; let q : Fin 20 := 13; let s : State := st [(Reg.LANE.PSTATE 13 1, 0), (Reg.LANE.OWNER 13 1, 3), (Reg.QUAD.PLL_LOCK 13, 1)]; (s.coreOn = true) ∧ ((s.advance dt).quadMayFail q.val = true)) ∧
    (let q : Fin 20 := 13; let l : Fin 4 := 1; let s : State := st [(Reg.LANE.PSTATE 13 1, 0), (Reg.LANE.OWNER 13 1, 3)]; (s.coreOn = true) ∧ (s.laneGood q.val l.val = true) ∧ ((s.g (Reg.LANE.OWNER q.val l.val) = 3 ∨ s.g (Reg.LANE.OWNER q.val l.val) = 4))) ∧
    (let q : Fin 20 := 13; let l : Fin 4 := 1; let s : State := st [(Reg.LANE.PSTATE 13 1, 0), (Reg.LANE.OWNER 13 1, 3), (Reg.LANE.ALIGNED 13 1, 1)]; (s.coreOn = true) ∧ (s.gb (Reg.LANE.ALIGNED q.val l.val) = true)) ∧
    (let q : Fin 20 := 2; let l : Fin 4 := 1; let s : State := st [(Reg.LANE.PSTATE 2 1, 0), (Reg.LANE.OWNER 2 1, 1)]; (s.coreOn = true) ∧ (s.laneGood q.val l.val = true) ∧ (s.g (Reg.LANE.OWNER q.val l.val) = 1)) ∧
    (let q : Fin 20 := 2; let l : Fin 4 := 1; let s : State := st [(Reg.LANE.BLOCK_LOCK 2 1, 1)]; (s.coreOn = true) ∧ (s.gb (Reg.LANE.BLOCK_LOCK q.val l.val) = true)) ∧
    (let q : Fin 20 := 2; let l : Fin 4 := 1; let s : State := st [(Reg.LANE.ADAPT 2 1, 1)]; (s.coreOn = true) ∧ (s.g (Reg.LANE.ADAPT q.val l.val) = 1) ∧ (s.gb (Reg.LANE.ADAPT_FREEZE q.val l.val) = false)) ∧
    (let m : Master := 1; let q : Fin 20 := 2; let l : Fin 4 := 1; let s : State := st [(Reg.LANE.ADAPT 2 1, 2), (Reg.LANE.DFE1 2 1, 3)]; (s.coreOn = true) ∧ (s.mayWrite m.val ((Reg.LANE.TEST_EN q.val l.val).addr) = true) ∧ (s.gb (Reg.LANE.ADAPT_FREEZE q.val l.val) = false)) := by
  refine ⟨?_, ?_, ?_, ?_, ?_, ?_, ?_, ?_, ?_, ?_, ?_⟩ <;> decide

/-- The hypotheses of LaneTests, clause by clause, are met. -/
theorem witness_LaneTests :
    (let m : Master := 1; let q : Fin 20 := 13; let l : Fin 4 := 1; let s : State := st [(Reg.QUAD.TEST_RATE 13, 4)]; (s.coreOn = true) ∧ (s.mayWrite m.val ((Reg.LANE.TEST_EN q.val l.val).addr) = true) ∧ (s.gb (Reg.LANE.TEST_EN q.val l.val) = false) ∧ (s.testAllowed q.val l.val = true)) ∧
    (let m : Master := 1; let q : Fin 20 := 13; let l : Fin 4 := 1; let s : State := State.reset; (s.coreOn = true) ∧ (s.mayWrite m.val ((Reg.LANE.TEST_EN q.val l.val).addr) = true) ∧ (s.gb (Reg.LANE.TEST_EN q.val l.val) = false) ∧ (s.testAllowed q.val l.val = false)) ∧
    (let m : Master := 1; let q : Fin 20 := 13; let l : Fin 4 := 1; let s : State := st [(Reg.LANE.TEST_EN 13 1, 1)]; (s.coreOn = true) ∧ (s.mayWrite m.val ((Reg.LANE.TEST_EN q.val l.val).addr) = true)) ∧
    (let dt : Nat := 5; let m : Master := 1; let q : Fin 20 := 13; let l : Fin 4 := 1; let s : State := (st [(Reg.LANE.TEST_EN 13 1, 1), (Reg.LANE.LOOPBACK 13 1, 1), (Reg.LANE.PRBS.GEN_EN 13 1, 1), (Reg.LANE.PRBS.CHK_EN 13 1, 1), (Reg.LANE.PRBS.LOCK 13 1, 1)]).setLane 13 1 { LaneState.reset with genAt := some 0 }; (s.coreOn = true) ∧ (s.mayWrite m.val ((Reg.LANE.PRBS.INJECT q.val l.val).addr) = true) ∧ (s.gb (Reg.LANE.TEST_EN q.val l.val) = true) ∧ (s.gb (Reg.LANE.PRBS.GEN_EN q.val l.val) = true) ∧ (s.gb (Reg.LANE.PRBS.CHK_EN q.val l.val) = true) ∧ (s.gb (Reg.LANE.PRBS.LOCK q.val l.val) = true) ∧ ((s.g (Reg.LANE.LOOPBACK q.val l.val) = 1 ∨ s.g (Reg.LANE.LOOPBACK q.val l.val) = 2)) ∧ ((s.lane q.val l.val).genAt.isSome = true) ∧ (((s.advance dt).prbsRecent q.val l.val).length < 254)) ∧
    (let m : Master := 1; let q : Fin 20 := 13; let l : Fin 4 := 1; let s : State := State.reset; (s.coreOn = true) ∧ (s.mayWrite m.val ((Reg.LANE.PRBS.INJECT q.val l.val).addr) = true) ∧ (s.gb (Reg.LANE.TEST_EN q.val l.val) = false)) ∧
    (let m : Master := 1; let q : Fin 20 := 13; let l : Fin 4 := 1; let s : State := st [(Reg.LANE.ERRORS 13 1, 7)]; (s.coreOn = true) ∧ (s.mayWrite m.val ((Reg.LANE.PRBS.CLR q.val l.val).addr) = true)) ∧
    (let q : Fin 20 := 13; let l : Fin 4 := 1; let s : State := st [(Reg.LANE.OWNER 13 1, 5), (Reg.LANE.PRBS.CHK_EN 13 1, 1)]; (s.coreOn = true) ∧ (s.g (Reg.LANE.OWNER q.val l.val) = 5) ∧ (s.gb (Reg.LANE.PRBS.CHK_EN q.val l.val) = true) ∧ (s.prbsHears q.val l.val = true) ∧ (s.prbsFits q.val l.val = true)) ∧
    (let q : Fin 20 := 13; let l : Fin 4 := 1; let s : State := st [(Reg.LANE.PRBS.LOCK 13 1, 1)]; (s.coreOn = true) ∧ (s.gb (Reg.LANE.PRBS.LOCK q.val l.val) = true)) ∧
    (let dt : Nat := 5; let q : Fin 20 := 13; let l : Fin 4 := 1; let s : State := st [(Reg.LANE.PRBS.LOCK 13 1, 1)]; (s.coreOn = true) ∧ (s.gb (Reg.LANE.PRBS.LOCK q.val l.val) = true) ∧ (((s.advance dt).prbsRecent q.val l.val).length < 254)) ∧
    (let dt : Nat := 5; let q : Fin 20 := 13; let l : Fin 4 := 1; let s : State := (st [(Reg.LANE.PRBS.LOCK 13 1, 1)]).setLane 13 1 { LaneState.reset with errs := List.replicate 255 0 }; (s.coreOn = true) ∧ (s.gb (Reg.LANE.PRBS.LOCK q.val l.val) = true) ∧ (255 ≤ (((s.advance dt).prbsSettle q.val l.val).prbsRecent q.val l.val).length)) := by
  refine ⟨?_, ?_, ?_, ?_, ?_, ?_, ?_, ?_, ?_, ?_⟩ <;> decide

/-- The hypotheses of EncodeJobs, clause by clause, are met. -/
theorem witness_EncodeJobs :
    (let dt : Nat := 50000000; let i : Fin 32 := 5; let p : EncPend := ⟨1, 50000000, none, 3, true, [], 0⟩; let s : State := (st [(Reg.ENC.STR.ENABLE 5, 1), (Reg.ENC.STR.STATE 5, 1), (Reg.ENC.STR.PERIOD_90K 5, 3000), (Reg.ENC.STR.LAST_SEQ 5, 3)]).setEstr 5 { EncStr.reset with done := some ([], 0) }; (s.coreOn = true) ∧ (s.gb (Reg.ENC.STR.ENABLE i.val) = true) ∧ ((s.advance dt).trigIndex i.val ≠ (s.estr i.val).lastTrig) ∧ ((s.advance dt).encPick i.val ((s.advance dt).trigIndex i.val) = some p)) ∧
    (let dt : Nat := 50000000; let i : Fin 32 := 5; let s : State := (st [(Reg.ENC.STR.ENABLE 5, 1), (Reg.ENC.STR.STATE 5, 1), (Reg.ENC.STR.PERIOD_90K 5, 3000)]).setEstr 5 EncStr.reset; (s.coreOn = true) ∧ (s.gb (Reg.ENC.STR.ENABLE i.val) = true) ∧ ((s.advance dt).trigIndex i.val ≠ (s.estr i.val).lastTrig) ∧ ((s.advance dt).encPick i.val ((s.advance dt).trigIndex i.val) = none)) ∧
    (let dt : Nat := 5; let n : Fin 2 := 1; let i : Fin 32 := 5; let s : State := (st [(Reg.ENC.STR.ENABLE 5, 1), (Reg.ENC.PIPE.ENABLE 1, 1)]).setEstr 5 { EncStr.reset with pend := some ⟨7, 3, none, 9, false, [], 0⟩ }; (s.coreOn = true) ∧ (s.encCandidate = some i.val) ∧ ((s.advance dt).encTakes n.val (s.g (Reg.ENC.STR.CLASS i.val)) = true)) ∧
    (let dt : Nat := 5; let n : Fin 2 := 1; let j : EncJob := ⟨5, 2, 7, none, 9, false, [], 0, false, none, 100000, 50000, 0, 0, 0, 0, 4000, false⟩; let s : State := (st []).setEpipe 1 ⟨none, some ⟨5, 2, 7, none, 9, false, [], 0, false, none, 100000, 50000, 0, 0, 0, 0, 4000, false⟩, PipeTimes.reset, [], ⟨0, 0⟩, [], 0⟩; (s.coreOn = true) ∧ (s.encCandidate = none) ∧ ((s.epipe n.val).job = none) ∧ ((s.epipe n.val).susp = some j) ∧ ((s.epipe n.val).times.inPhase (s.clock + dt) = false)) ∧
    (let dt : Nat := 5; let n : Fin 2 := 1; let i : Fin 32 := 6; let j : EncJob := ⟨5, 2, 7, none, 9, false, [], 0, false, none, 100000, 50000, 0, 0, 0, 0, 4000, false⟩; let s : State := ((st [(Reg.ENC.STR.ENABLE 6, 1), (Reg.ENC.PIPE.ENABLE 1, 1)]).setEpipe 1 ⟨some ⟨5, 2, 7, none, 9, false, [], 0, false, none, 100000, 50000, 0, 0, 0, 0, 4000, false⟩, none, PipeTimes.reset, [], ⟨0, 0⟩, [], 0⟩).setEstr 6 { EncStr.reset with pend := some ⟨7, 3, none, 9, false, [], 0⟩ }; (s.coreOn = true) ∧ (s.encCandidate = some i.val) ∧ (s.g (Reg.ENC.STR.CLASS i.val) = 0) ∧ (s.encVictim = some n.val) ∧ ((s.advance dt).encTakes 0 0 = false) ∧ ((s.advance dt).encTakes 1 0 = false) ∧ ((s.epipe n.val).job = some j) ∧ (j.gone = false) ∧ (j.str < 32)) ∧
    (let dt : Nat := 5; let n : Fin 2 := 1; let j : EncJob := ⟨5, 2, 7, none, 9, false, [], 0, false, none, 100000, 50000, 0, 0, 0, 0, 4000, false⟩; let e : EncEnd := ⟨⟨[], [[6, 1, 1, 0, 0x80]], 8, [0x61, 0x80]⟩, [], 0, []⟩; let s : State := (st []).setEpipe 1 ⟨some ⟨5, 2, 7, none, 9, false, [], 0, false, none, 100000, 50000, 0, 0, 0, 0, 4000, false⟩, none, PipeTimes.reset, [], ⟨0, 0⟩, [], 0⟩; (s.coreOn = true) ∧ ((s.epipe n.val).job = some j) ∧ (j.gone = false) ∧ (j.str < 32) ∧ (s.encCodes j e (s.encTail j e (s.inputGone j && decide (e.rows < s.encRows j.str))) = true) ∧ ((s.gb (Reg.ENC.STR.OUT_RING j.str) = true → ((s.advance dt).encRecord n.val j ((s.advance dt).auOf j e (s.encTail j e (s.inputGone j && decide (e.rows < s.encRows j.str))).isSome)).2 = none))) ∧
    (let n : Fin 2 := 1; let j : EncJob := ⟨5, 2, 7, none, 9, false, [], 0, false, none, 100000, 50000, 0, 0, 0, 0, 4000, true⟩; let s : State := (st []).setEpipe 1 ⟨some ⟨5, 2, 7, none, 9, false, [], 0, false, none, 100000, 50000, 0, 0, 0, 0, 4000, true⟩, none, PipeTimes.reset, [], ⟨0, 0⟩, [], 0⟩; (s.coreOn = true) ∧ ((s.epipe n.val).job = some j) ∧ (j.gone = true)) ∧
    (let dt : Nat := 500000; let n : Fin 2 := 1; let j : EncJob := ⟨5, 2, 7, none, 9, false, [], 0, false, none, 100000, 50000, 0, 0, 0, 0, 4000, false⟩; let s : State := (st []).setEpipe 1 ⟨some ⟨5, 2, 7, none, 9, false, [], 0, false, none, 100000, 50000, 0, 0, 0, 0, 4000, false⟩, none, PipeTimes.reset, [], ⟨0, 0⟩, [], 0⟩; (s.coreOn = true) ∧ ((s.epipe n.val).job = some j) ∧ (j.gone = false) ∧ (j.str < 32) ∧ (j.limit ≤ j.cycles (s.clock + dt)) ∧ (s.enc.faults.length < 16)) ∧
    (let n : Fin 2 := 1; let j : EncJob := ⟨5, 2, 7, none, 9, false, [], 0, false, none, 100000, 50000, 0, 0, 0, 0, 4000, false⟩; let f : JobFault := .sbxWrite; let a : BitVec 36 := 0xF00000000#36; let s : State := (st []).setEpipe 1 ⟨some ⟨5, 2, 7, none, 9, false, [], 0, false, none, 100000, 50000, 0, 0, 0, 0, 4000, false⟩, none, PipeTimes.reset, [], ⟨0, 0⟩, [], 0⟩; (s.coreOn = true) ∧ ((s.epipe n.val).job = some j) ∧ (j.gone = false) ∧ (j.str < 32) ∧ (s.enc.faults.length < 16) ∧ ((f = .sbxRead → s.encWindow n.val j a.toNat false = false)) ∧ ((f = .sbxWrite → s.encWindow n.val j a.toNat true = false)) ∧ ((f = .busError → (s.encWindow n.val j a.toNat false = true ∨ s.encWindow n.val j a.toNat true = true)))) ∧
    (let n : Fin 2 := 1; let j : EncJob := ⟨5, 2, 7, none, 9, false, [], 0, false, none, 100000, 50000, 0, 0, 0, 0, 4000, false⟩; let f : JobFault := .sbxWrite; let a : BitVec 36 := 0x800077#36; let s : State := (st [(Reg.ENC.STR.REF_BASE 5, 0x800), (Reg.ENC.STR.REF_MB 5, 4)]).setEpipe 1 ⟨some ⟨5, 2, 7, none, 9, false, [], 0, false, none, 100000, 50000, 0, 0, 0, 0, 4000, false⟩, none, PipeTimes.reset, [], ⟨0, 0⟩, [], 0⟩; (s.coreOn = true) ∧ ((s.epipe n.val).job = some j) ∧ (((f = .sbxRead ∧ s.encWindow n.val j a.toNat false = true) ∨ (f = .sbxWrite ∧ s.encWindow n.val j a.toNat true = true)))) := by
  refine ⟨?_, ?_, ?_, ?_, ?_, ?_, ?_, ?_, ?_, ?_⟩ <;> decide

/-- The hypotheses of EncodeStreams, clause by clause, are met. -/
theorem witness_EncodeStreams :
    (let m : Master := 1; let i : Fin 32 := 5; let s : State := st [(Reg.ING.SRC.ENABLE 0, 1), (Reg.ING.SRC.TYPE 0, 1), (Reg.ING.BUF.WIDTH_M1 0, 63), (Reg.ING.BUF.HEIGHT_M1 0, 63), (Reg.ENC.STR.OUT_W_M1 5, 63), (Reg.ENC.STR.OUT_H_M1 5, 63), (Reg.ENC.STR.BITRATE_KBPS 5, 1000), (Reg.ENC.STR.CPB_KBIT 5, 1000), (Reg.ENC.STR.PERIOD_90K 5, 3000), (Reg.ENC.STR.QP_MAX 5, 51), (Reg.ENC.STR.REF_BASE 5, 0x800000), (Reg.ENC.STR.REF_MB 5, 1)]; (s.coreOn = true) ∧ (s.mayWrite m.val ((Reg.ENC.STR.ENABLE i.val).addr) = true) ∧ (s.gb (Reg.ENC.STR.ENABLE i.val) = false) ∧ (s.encCheck i.val = 0)) ∧
    (let m : Master := 1; let i : Fin 32 := 5; let s : State := State.reset; (s.coreOn = true) ∧ (s.mayWrite m.val ((Reg.ENC.STR.ENABLE i.val).addr) = true) ∧ (s.gb (Reg.ENC.STR.ENABLE i.val) = false) ∧ (s.encCheck i.val ≠ 0)) ∧
    (let m : Master := 1; let i : Fin 32 := 5; let s : State := (st [(Reg.ENC.STR.ENABLE 5, 1)]).setEpipe 1 ⟨some ⟨5, 2, 7, none, 9, false, [], 0, false, none, 100000, 50000, 0, 0, 0, 0, 4000, false⟩, none, PipeTimes.reset, [], ⟨0, 0⟩, [], 0⟩; (s.coreOn = true) ∧ (s.mayWrite m.val ((Reg.ENC.STR.ENABLE i.val).addr) = true) ∧ (s.gb (Reg.ENC.STR.ENABLE i.val) = true)) ∧
    (let m : Master := 1; let i : Fin 32 := 5; let s : State := st [(Reg.ENC.STR.ENABLE 5, 1)]; (s.coreOn = true) ∧ (s.mayWrite m.val ((Reg.ENC.STR.ENABLE i.val).addr) = true) ∧ (s.gb (Reg.ENC.STR.ENABLE i.val) = true)) ∧
    (let m : Master := 1; let n : Fin 2 := 1; let s : State := st [(Reg.ENC.PIPE.SAVE_BASE 1, 0x800000)]; (s.coreOn = true) ∧ (s.mayWrite m.val ((Reg.ENC.PIPE.ENABLE n.val).addr) = true) ∧ (s.inDram (4096 * s.g (Reg.ENC.PIPE.SAVE_BASE n.val)) 262144 = true)) ∧
    (let m : Master := 1; let n : Fin 2 := 1; let b : Bool := true; let s : State := st [(Reg.ENC.PIPE.ENABLE 1, 1)]; (s.coreOn = true) ∧ (s.mayWrite m.val ((Reg.ENC.PIPE.ENABLE n.val).addr) = true) ∧ ((b = false ∨ s.inDram (4096 * s.g (Reg.ENC.PIPE.SAVE_BASE n.val)) 262144 = false))) ∧
    (let m : Master := 1; let f : DecFault := ⟨1, 5, 3, 0, 9⟩; let rest : List DecFault := []; let s : State := { State.reset with enc := { State.reset.enc with faults := [⟨1, 5, 3, 0, 9⟩] } }; (s.coreOn = true) ∧ (s.readsNow m.val = true) ∧ (s.enc.faults = f :: rest)) ∧
    (let m : Master := 1; let s : State := State.reset; (s.coreOn = true) ∧ (s.readsNow m.val = true) ∧ (s.enc.faults = [])) ∧
    (let dt : Nat := 60000000000; let i : Fin 32 := 5; let s : State := st [(Reg.ENC.STR.ENABLE 5, 1), (Reg.ENC.STR.OUT_NET 5, 1), (Reg.ENC.STR.STATE 5, 2), (Reg.TIME.STATUS.STATE, 2), (Reg.CUS.STATUS.ACTING, 1), (Reg.ENG.STATUS.STATE 23, 2), (Reg.NET.PORT.LINK 0 2, 1), (Reg.ENC.STR.PORT 5, 2)]; (s.coreOn = true) ∧ (s.gb (Reg.ENC.STR.ENABLE i.val) = true) ∧ (s.gb (Reg.ENC.STR.OUT_NET i.val) = true) ∧ (s.g (Reg.ENC.STR.STATE i.val) ≠ 1) ∧ (s.timeState = 2) ∧ (s.granted = true) ∧ (1000000 * s.g (Reg.ENC.STR.SR_INTERVAL_MS i.val) ≤ s.clock + dt - (s.estr i.val).srAt) ∧ (s.gb (Reg.NET.PORT.LINK (s.g (Reg.ENC.STR.PORT i.val) / 4) (s.g (Reg.ENC.STR.PORT i.val) % 4)) = true)) ∧
    (let dt : Nat := 60000000000; let i : Fin 32 := 5; let s : State := st [(Reg.ENC.STR.ENABLE 5, 1), (Reg.ENC.STR.OUT_NET 5, 1), (Reg.ENC.STR.STATE 5, 2), (Reg.TIME.STATUS.STATE, 2), (Reg.CUS.STATUS.ACTING, 1), (Reg.ENG.STATUS.STATE 23, 2)]; (s.coreOn = true) ∧ (s.gb (Reg.ENC.STR.ENABLE i.val) = true) ∧ (s.gb (Reg.ENC.STR.OUT_NET i.val) = true) ∧ (s.g (Reg.ENC.STR.STATE i.val) ≠ 1) ∧ (s.timeState = 2) ∧ (s.granted = true) ∧ (1000000 * s.g (Reg.ENC.STR.SR_INTERVAL_MS i.val) ≤ s.clock + dt - (s.estr i.val).srAt) ∧ (s.gb (Reg.NET.PORT.LINK (s.g (Reg.ENC.STR.PORT i.val) / 4) (s.g (Reg.ENC.STR.PORT i.val) % 4)) = false)) := by
  refine ⟨?_, ?_, ?_, ?_, ?_, ?_, ?_, ?_, ?_, ?_⟩ <;> decide

/-- The hypotheses of TouchScanning, clause by clause, are met. -/
theorem witness_TouchScanning :
    (let m : Master := 1; let s : State := st [(Reg.TCH.PANEL.ENABLE 1, 1), (Reg.TCH.PANEL.TX_COUNT 1, 2), (Reg.TCH.PANEL.RX_COUNT 1, 2), (Reg.TCH.PANEL.FRAME_HZ 1, 120), (Reg.TCH.TX_FREQ_KHZ, 200), (Reg.TCH.PULSES, 8), (Reg.TCH.RPT_ADDR, 0x800000), (Reg.TCH.RPT_LOG2, 2), (Reg.TCH.CUR_ADDR, 1024)]; (s.coreOn = true) ∧ (s.mayWrite m.val (0x100D0000) = true) ∧ (s.gb Reg.TCH.CTRL.ENABLE = false) ∧ (s.tchCheck = 0)) ∧
    (let m : Master := 1; let s : State := State.reset; (s.coreOn = true) ∧ (s.mayWrite m.val (0x100D0000) = true) ∧ (s.gb Reg.TCH.CTRL.ENABLE = false) ∧ (s.tchCheck ≠ 0)) ∧
    (let m : Master := 1; let s : State := (st [(Reg.TCH.CTRL.ENABLE, 1), (Reg.CUS.STATUS.ACTING, 1), (Reg.ENG.STATUS.STATE 22, 2), (Reg.TCH.STATUS.STATE, 3), (Reg.TCH.PANEL.ENABLE 1, 1), (Reg.TCH.PANEL.TX_COUNT 1, 2), (Reg.TCH.PANEL.RX_COUNT 1, 2), (Reg.TCH.TX_FREQ_KHZ, 200)]).setPanel 1 { TchPanel.reset with contacts := [⟨3, 32, 32, 1, 900, 32, 32, 0, false, false⟩] }; (s.coreOn = true) ∧ (s.mayWrite m.val (0x100D0000) = true) ∧ (s.gb Reg.TCH.CTRL.ENABLE = true)) ∧
    (let dt : Nat := 5; let p : Fin 2 := 1; let s : State := (st [(Reg.TCH.CTRL.ENABLE, 1), (Reg.CUS.STATUS.ACTING, 1), (Reg.ENG.STATUS.STATE 22, 2), (Reg.TCH.STATUS.STATE, 3), (Reg.TCH.PANEL.ENABLE 1, 1), (Reg.TCH.PANEL.TX_COUNT 1, 2), (Reg.TCH.PANEL.RX_COUNT 1, 2), (Reg.TCH.TX_FREQ_KHZ, 200)]).setPanel 1 { TchPanel.reset with openAt := none }; (s.tchDrives = true) ∧ (s.gb (Reg.TCH.PANEL.ENABLE p.val) = true) ∧ ((s.panel p.val).openAt = none) ∧ ((s.advance dt).tchPeriod p.val = true)) ∧
    (let dt : Nat := 1000000000; let p : Fin 2 := 1; let x : List (List Nat) := List.replicate 16 [40000, 1]; let y : List (List Nat) := List.replicate 2 [32768, 32768]; let s : State := (st [(Reg.TCH.CTRL.ENABLE, 1), (Reg.CUS.STATUS.ACTING, 1), (Reg.ENG.STATUS.STATE 22, 2), (Reg.TCH.STATUS.STATE, 3), (Reg.TCH.PANEL.ENABLE 1, 1), (Reg.TCH.PANEL.TX_COUNT 1, 2), (Reg.TCH.PANEL.RX_COUNT 1, 2), (Reg.TCH.TX_FREQ_KHZ, 200)]).setPanel 1 { TchPanel.reset with openAt := some 0, base := [32768, 32768, 32768, 32768] }; (s.tchDrives = true) ∧ ((s.advance dt).tchEnded p.val = true) ∧ (s.tchWhole p.val x y = true) ∧ (foreignSeen ((s.panel p.val).f Reg.TCH.FOREIGN_THR) y = false)) ∧
    (let dt : Nat := 1000000000; let p : Fin 2 := 1; let x : List (List Nat) := List.replicate 16 [40000, 1]; let y : List (List Nat) := List.replicate 2 [5, 5]; let s : State := (st [(Reg.TCH.CTRL.ENABLE, 1), (Reg.CUS.STATUS.ACTING, 1), (Reg.ENG.STATUS.STATE 22, 2), (Reg.TCH.STATUS.STATE, 3), (Reg.TCH.PANEL.ENABLE 1, 1), (Reg.TCH.PANEL.TX_COUNT 1, 2), (Reg.TCH.PANEL.RX_COUNT 1, 2), (Reg.TCH.TX_FREQ_KHZ, 200)]).setPanel 1 { TchPanel.reset with openAt := some 0 }; (s.tchDrives = true) ∧ ((s.advance dt).tchEnded p.val = true) ∧ (s.tchWhole p.val x y = true) ∧ (foreignSeen ((s.panel p.val).f Reg.TCH.FOREIGN_THR) y = true)) ∧
    (let p : Fin 2 := 1; let s : State := (st [(Reg.TCH.CTRL.ENABLE, 1), (Reg.CUS.STATUS.ACTING, 1), (Reg.ENG.STATUS.STATE 22, 2), (Reg.TCH.STATUS.STATE, 3), (Reg.TCH.PANEL.ENABLE 1, 1), (Reg.TCH.PANEL.TX_COUNT 1, 2), (Reg.TCH.PANEL.RX_COUNT 1, 2), (Reg.TCH.TX_FREQ_KHZ, 200)]).setPanel 1 { TchPanel.reset with sums := [10, 11, 12, 13], sumN := 4 }; (s.tchDrives = true) ∧ ((s.panel p.val).base = []) ∧ (0 < (s.panel p.val).sumN) ∧ ((s.panel p.val).f Reg.TCH.BASE_FRAMES ≤ (s.panel p.val).sumN)) ∧
    (let p : Fin 2 := 1; let s : State := (st [(Reg.TCH.CTRL.ENABLE, 1), (Reg.CUS.STATUS.ACTING, 1), (Reg.ENG.STATUS.STATE 22, 2), (Reg.TCH.STATUS.STATE, 3), (Reg.TCH.PANEL.ENABLE 1, 1), (Reg.TCH.PANEL.TX_COUNT 1, 2), (Reg.TCH.PANEL.RX_COUNT 1, 2), (Reg.TCH.TX_FREQ_KHZ, 200)]).setPanel 1 { TchPanel.reset with base := [10, 11, 12, 13], raw := [11, 11, 11, 11], drift := 4 }; (s.tchDrives = true) ∧ ((s.panel p.val).base ≠ []) ∧ ((s.panel p.val).f Reg.TCH.DRIFT_FRAMES ≤ (s.panel p.val).drift) ∧ (0 < (s.panel p.val).drift)) ∧
    (let p : Fin 2 := 1; let s : State := (st [(Reg.TCH.CTRL.ENABLE, 1), (Reg.CUS.STATUS.ACTING, 1), (Reg.ENG.STATUS.STATE 22, 2), (Reg.TCH.STATUS.STATE, 3), (Reg.TCH.PANEL.ENABLE 1, 1), (Reg.TCH.PANEL.TX_COUNT 1, 2), (Reg.TCH.PANEL.RX_COUNT 1, 2), (Reg.TCH.TX_FREQ_KHZ, 200), (Reg.TCH.PANEL.FRAMES 1, 100)]).setPanel 1 { TchPanel.reset with anti := [(0, 0)], base := [5, 5, 5, 5], raw := [9, 9, 9, 9] }; (s.tchDrives = true) ∧ (s.antiDue p.val ≠ [])) ∧
    (let p : Fin 2 := 1; let s : State := (st [(Reg.TCH.CTRL.ENABLE, 1), (Reg.CUS.STATUS.ACTING, 1), (Reg.ENG.STATUS.STATE 22, 2), (Reg.TCH.STATUS.STATE, 3), (Reg.TCH.PANEL.ENABLE 1, 1), (Reg.TCH.PANEL.TX_COUNT 1, 2), (Reg.TCH.PANEL.RX_COUNT 1, 2), (Reg.TCH.TX_FREQ_KHZ, 200)]).setPanel 1 { TchPanel.reset with contacts := [⟨3, 32, 32, 1, 900, 32, 32, 0, false, false⟩], cfg := [(0x100D0010, 0x10000)] }; (s.tchDrives = true) ∧ (0 < (s.panel p.val).f Reg.TCH.OBJECT_TIMEOUT_S)) := by
  refine ⟨?_, ?_, ?_, ?_, ?_, ?_, ?_, ?_, ?_, ?_⟩ <;> decide

/-- The hypotheses of TouchSelfTest, clause by clause, are met. -/
theorem witness_TouchSelfTest :
    (let m : Master := 1; let s : State := State.reset; (s.coreOn = true) ∧ (s.mayWrite m.val (0x100D0000) = true) ∧ (s.granted = false)) ∧
    (let m : Master := 1; let s : State := st [(Reg.TCH.CTRL.ENABLE, 1), (Reg.CUS.STATUS.ACTING, 1), (Reg.ENG.STATUS.STATE 22, 2), (Reg.TCH.STATUS.STATE, 3), (Reg.TCH.PANEL.ENABLE 1, 1), (Reg.TCH.PANEL.TX_COUNT 1, 2), (Reg.TCH.PANEL.RX_COUNT 1, 2), (Reg.TCH.TX_FREQ_KHZ, 200)]; (s.coreOn = true) ∧ (s.mayWrite m.val (0x100D0000) = true) ∧ (s.granted = true) ∧ (s.gb Reg.TCH.CTRL.ENABLE = true) ∧ (s.g Reg.TCH.STATUS.ST_STATE ≠ 1)) ∧
    (let s : State := st [(Reg.TCH.CTRL.ENABLE, 1), (Reg.CUS.STATUS.ACTING, 1), (Reg.ENG.STATUS.STATE 22, 2), (Reg.TCH.STATUS.STATE, 3), (Reg.TCH.PANEL.ENABLE 1, 1), (Reg.TCH.PANEL.TX_COUNT 1, 2), (Reg.TCH.PANEL.RX_COUNT 1, 2), (Reg.TCH.TX_FREQ_KHZ, 200), (Reg.TCH.STATUS.ST_STATE, 1)]; (s.coreOn = true) ∧ (s.g Reg.TCH.STATUS.ST_STATE = 1) ∧ (s.engRunning 22 = true)) ∧
    (let p : Fin 2 := 1; let s : State := (let z : State := { ((st [(Reg.TCH.PANEL.ENABLE 1, 1), (Reg.TCH.PANEL.WAKE_EN 1, 1), (Reg.TCH.PANEL.RX_COUNT 1, 2), (Reg.TCH.WAKE_THRESHOLD, 100)]).setPanel 1 { TchPanel.reset with refN := 0 }) with pwr := { State.reset.pwr with mode := .standby } }; { z with tch := { z.tch with scan := true } }); (s.pwr.mode = .standby) ∧ (s.tch.scan = true) ∧ (s.gb (Reg.TCH.PANEL.WAKE_EN p.val) = true) ∧ ((s.panel p.val).refN < 4)) ∧
    (let dt : Nat := 5; let p : Fin 2 := 1; let x : List Nat := [30000]; let c : Nat := 0; let s : State := (let z : State := { ((st [(Reg.TCH.PANEL.ENABLE 1, 1), (Reg.TCH.PANEL.WAKE_EN 1, 1), (Reg.TCH.PANEL.RX_COUNT 1, 2), (Reg.TCH.WAKE_THRESHOLD, 100)]).setPanel 1 { TchPanel.reset with refN := 4, refSums := [131072, 131072], hits := [1, 0] }) with pwr := { State.reset.pwr with mode := .standby } }; { z with tch := { z.tch with scan := true } }); (s.pwr.mode = .standby) ∧ (s.tch.scan = true) ∧ (s.gb (Reg.TCH.PANEL.WAKE_EN p.val) = true) ∧ (4 ≤ (s.panel p.val).refN) ∧ ((s.panel p.val).scanDue (s.clock + dt) = true) ∧ (c < s.tchCols p.val) ∧ (1 ≤ (s.panel p.val).hits.getD c 0) ∧ (4 * (min 65535 (x.getD c 32768) + s.g Reg.TCH.WAKE_THRESHOLD) ≤ (s.panel p.val).refSums.getD c 0)) := by
  refine ⟨?_, ?_, ?_, ?_, ?_⟩ <;> decide

/-- The hypotheses of CustodyGrant, clause by clause, are met. -/
theorem witness_CustodyGrant :
    (let s : State := st [(Reg.CUS.STATUS.GRANT_STALE, 0)]; (s.cusOn = true) ∧ (s.compat = false) ∧ (s.gb Reg.CUS.STATUS.GRANT = false) ∧ (s.gb Reg.CUS.STATUS.GRANT_STALE = false) ∧ (s.cus.eff = false) ∧ (s.g Reg.CUS.STATUS.ROLE ≠ 3)) ∧
    (let s : State := State.reset; (s.cusOn = true) ∧ (s.compat = false) ∧ (s.gb Reg.CUS.STATUS.GRANT = false) ∧ (s.gb Reg.CUS.STATUS.GRANT_STALE = true) ∧ (s.cus.eff = false)) ∧
    (let s : State := { st [(Reg.CUS.STATUS.GRANT, 1), (Reg.CUS.STATUS.ACTING, 1), (Reg.CUS.STATUS.ROLE, 2)] with cus := { State.reset.cus with eff := true } }; (s.cusOn = true) ∧ (s.compat = false) ∧ (s.coreOn = true) ∧ (s.gb Reg.CUS.STATUS.GRANT = true) ∧ (s.cus.eff = true) ∧ (s.g Reg.CUS.STATUS.ROLE ≠ 3) ∧ (s.gb Reg.CUS.STATUS.ACTING = true) ∧ (s.gb Reg.CUS.STATUS.RELEASE_PENDING = false)) ∧
    (let s : State := { st [(Reg.CUS.STATUS.GRANT_STALE, 1), (Reg.CUS.STATUS.GRANT, 1)] with cus := { State.reset.cus with eff := false } }; (s.cusOn = true) ∧ (s.compat = false) ∧ (s.gb Reg.CUS.STATUS.GRANT_STALE = true)) ∧
    (let m : Master := 1; let s : State := { st [(Reg.CUS.STATUS.GRANT, 1), (Reg.CUS.STATUS.ACTING, 1), (Reg.CUS.STATUS.ROLE, 2)] with cus := { State.reset.cus with eff := true } }; (s.coreOn = true) ∧ (s.mayWrite m.val (0x10070000) = true) ∧ (s.compat = false) ∧ (s.gb Reg.CUS.CTRL.ISOLATE = false) ∧ (s.g Reg.CUS.STATUS.ROLE ≠ 3) ∧ (s.gb Reg.CUS.STATUS.RELEASE_PENDING = false)) ∧
    (let m : Master := 1; let s : State := { st [(Reg.CUS.CTRL.ISOLATE, 1), (Reg.CUS.STATUS.ROLE, 3)] with cus := { State.reset.cus with eff := true } }; (s.coreOn = true) ∧ (s.mayWrite m.val (0x10070000) = true) ∧ (s.compat = false) ∧ (s.gb Reg.CUS.CTRL.ISOLATE = true) ∧ (s.cus.isoBoot = false)) := by
  refine ⟨?_, ?_, ?_, ?_, ?_, ?_⟩ <;> decide

/-- The hypotheses of CustodianFrames, clause by clause, are met. -/
theorem witness_CustodianFrames :
    (let ver : Fin 3 := 2; let s : State := State.reset; (s.cusOn = true) ∧ (s.compat = false) ∧ (ver.val ≠ 0)) ∧
    (let bs : List Byte := [0xC5]; let s : State := State.reset; (s.cusOn = true) ∧ (s.compat = false) ∧ (cusFrameOk bs = false)) ∧
    (let s : State := State.reset; (s.cusOn = true) ∧ (s.compat = false) ∧ (s.gb Reg.CUS.CTRL.ISOLATE = false)) ∧
    (let s : State := st [(Reg.CUS.CTRL.REMOTE_RESET_EN, 1)]; (s.cusOn = true) ∧ (s.compat = false) ∧ (s.gb Reg.CUS.CTRL.REMOTE_RESET_EN = true)) ∧
    (let s : State := State.reset; (s.cusOn = true) ∧ (s.compat = false) ∧ (s.gb Reg.CUS.CTRL.REMOTE_RESET_EN = false)) ∧
    (let dt : Nat := 90000000000; let s : State := st [(Reg.CUS.CTRL.LINK_WATCH, 1), (Reg.CUS.STATUS.LINK_UP, 1)]; (s.cusOn = true) ∧ (s.gb Reg.CUS.CTRL.LINK_WATCH = true) ∧ (s.gb Reg.CUS.STATUS.LINK_UP = true) ∧ (1000000 * s.g Reg.CUS.CTRL.LINK_TIMEOUT_MS ≤ s.clock + dt - s.cus.rxAt)) := by
  refine ⟨?_, ?_, ?_, ?_, ?_, ?_⟩ <;> decide

/-- The hypotheses of CustodyRoles, clause by clause, are met. -/
theorem witness_CustodyRoles :
    (let dt : Nat := 5; let s : State := State.reset; (s.cusOn = true) ∧ (s.compat = false) ∧ ((s.advance dt).statusDue = true)) ∧
    (let m : Master := 1; let s : State := st [(Reg.ENG.STATUS.STATE 0, 2), (Reg.ENG.STATUS.STATE 1, 2)]; (s.coreOn = true) ∧ (s.mayWrite m.val (0x1007000C) = true) ∧ (s.compat = false)) ∧
    (let dt : Nat := 900000000; let k : Nat := 3; let s : State := { st [(Reg.CUS.STATUS.ALIVE, 1)] with cus := { State.reset.cus with kickAt := some 3 } }; (s.cusOn = true) ∧ (s.compat = false) ∧ (s.cus.kickAt = some k) ∧ (1000000 * s.g Reg.CUS.CTRL.ALIVE_TIMEOUT_MS ≤ s.clock + dt - k)) ∧
    (let m : Master := 1; let b : Bool := true; let s : State := st [(Reg.TIME.STATUS.STATE, 2)]; (s.coreOn = true) ∧ (s.mayWrite m.val (0x10070008) = true) ∧ (s.roleCheck b = 0)) ∧
    (let m : Master := 1; let b : Bool := false; let s : State := State.reset; (s.coreOn = true) ∧ (s.mayWrite m.val (0x10070008) = true) ∧ (s.roleCheck b ≠ 0)) ∧
    (let dt : Nat := 90000000000; let k : Nat := 3; let s : State := { st [(Reg.CUS.STATUS.ROLE, 1)] with cus := { State.reset.cus with diffAt := some 3 } }; (s.cusOn = true) ∧ (s.cus.diffAt = some k) ∧ (k + 1000000 * s.g Reg.CUS.SYNC_CTRL.SYNC_GRACE_MS ≤ s.clock + dt) ∧ (s.g Reg.CUS.STATUS.ROLE = 1)) ∧
    (let b : Bool := true; let s : State := st [(Reg.CUS.STATUS.MODE, 1)]; (s.cusOn = true) ∧ (s.compat = true) ∧ (s.gb Reg.CUS.STATUS.PEER_OK_IN = !b)) ∧
    (let dt : Nat := 90000000000; let k : Nat := 3; let s : State := { st [(Reg.CUS.STATUS.MODE, 1)] with cus := { State.reset.cus with takeAt := some 3 } }; (s.cusOn = true) ∧ (s.cus.takeAt = some k) ∧ (k + 1000000 * s.g Reg.CUS.COMPAT.TAKE_DELAY_MS ≤ s.clock + dt)) := by
  refine ⟨?_, ?_, ?_, ?_, ?_, ?_, ?_, ?_⟩ <;> decide

/-- The hypotheses of DramRefreshAndSkew, clause by clause, are met. -/
theorem witness_DramRefreshAndSkew :
    (let dt : Nat := 900000; let ch : Fin 16 := 5; let u : Bool := false; let s : State := st [(Reg.DMC.CTL.STATE 2, 2), (Reg.DMC.CH.OWED 2 1, 3)]; (s.chanRuns ch.val = true) ∧ ((s.chan ch.val).refAt + s.refreshNs ch.val ≤ s.clock + dt) ∧ (u = false) ∧ (s.urgentAt ch.val = false) ∧ (s.waitsAt ch.val = false) ∧ (s.g (Reg.DMC.CH.OWED (ch.val / 2) (ch.val % 2)) < 8)) ∧
    (let dt : Nat := 900000; let ch : Fin 16 := 5; let u : Bool := false; let s : State := { st [(Reg.DMC.CTL.STATE 2, 2), (Reg.DMC.CH.OWED 2 1, 3)] with bus := { State.reset.bus with inflight := [⟨2, 2, false, dramBase + 0x500, 32, [], [], 0, 4, false, 0, 0, false, .clean, true, 0, 0⟩] } }; (s.chanRuns ch.val = true) ∧ ((s.chan ch.val).refAt + s.refreshNs ch.val ≤ s.clock + dt) ∧ (u = false) ∧ (s.urgentAt ch.val = false) ∧ (s.waitsAt ch.val = true) ∧ ((s.chan ch.val).rest = false) ∧ (s.g (Reg.DMC.CH.OWED (ch.val / 2) (ch.val % 2)) < 8)) ∧
    (let dt : Nat := 900000; let ch : Fin 16 := 5; let u : Bool := false; let s : State := ({ st [(Reg.DMC.CTL.STATE 2, 2), (Reg.DMC.CH.OWED 2 1, 3)] with bus := { State.reset.bus with inflight := [⟨2, 2, false, dramBase + 0x500, 32, [], [], 0, 4, false, 0, 0, false, .clean, true, 0, 0⟩] } }).setChan 5 { DmcChan.reset with rest := true }; (s.chanRuns ch.val = true) ∧ ((s.chan ch.val).refAt + s.refreshNs ch.val ≤ s.clock + dt) ∧ (u = false) ∧ (s.urgentAt ch.val = false) ∧ (s.waitsAt ch.val = true) ∧ ((s.chan ch.val).rest = true) ∧ (s.g (Reg.DMC.CH.OWED (ch.val / 2) (ch.val % 2)) < 8)) ∧
    (let dt : Nat := 900000; let ch : Fin 16 := 5; let u : Bool := true; let s : State := st [(Reg.DMC.CTL.STATE 2, 2), (Reg.DMC.CH.OWED 2 1, 3)]; (s.chanRuns ch.val = true) ∧ ((s.chan ch.val).refAt + s.refreshNs ch.val ≤ s.clock + dt) ∧ ((u = true ∨ s.urgentAt ch.val = true)) ∧ (s.g (Reg.DMC.CH.OWED (ch.val / 2) (ch.val % 2)) < 7)) ∧
    (let dt : Nat := 900000; let ch : Fin 16 := 5; let u : Bool := true; let s : State := st [(Reg.DMC.CTL.STATE 2, 2), (Reg.DMC.CH.OWED 2 1, 7)]; (s.chanRuns ch.val = true) ∧ ((s.chan ch.val).refAt + s.refreshNs ch.val ≤ s.clock + dt) ∧ ((u = true ∨ s.urgentAt ch.val = true)) ∧ (s.g (Reg.DMC.CH.OWED (ch.val / 2) (ch.val % 2)) = 7)) ∧
    (let dt : Nat := 16000000; let ch : Fin 16 := 5; let s : State := st [(Reg.DMC.CTL.STATE 2, 2)]; (s.chanRuns ch.val = true) ∧ ((s.chan ch.val).rateAt + 16000000 ≤ s.clock + dt)) ∧
    (let bs : List Nat := [1, 2]; let s : State := st [(Reg.DMC.CTRL.SKEW_EN, 1), (Reg.DMC.CTRL2.SKEW_FLOOR_MB, 1)]; (s.coreOn = true) ∧ (s.gb Reg.DMC.CTRL.SKEW_EN = true) ∧ ((bs.take 16).sum < 1000000 * s.g Reg.DMC.CTRL2.SKEW_FLOOR_MB)) ∧
    (let bs : List Nat := List.replicate 16 100000; let s : State := st [(Reg.DMC.CTRL.SKEW_EN, 1), (Reg.DMC.CTRL2.SKEW_FLOOR_MB, 1)]; (s.coreOn = true) ∧ (s.gb Reg.DMC.CTRL.SKEW_EN = true) ∧ (1000000 * s.g Reg.DMC.CTRL2.SKEW_FLOOR_MB ≤ (bs.take 16).sum) ∧ ((∀ b ∈ bs.take 16, 16 * b ≤ 2 * (bs.take 16).sum))) ∧
    (let bs : List Nat := [100000000000]; let b : Nat := 100000000000; let s : State := st [(Reg.DMC.CTRL.SKEW_EN, 1)]; (s.coreOn = true) ∧ (s.gb Reg.DMC.CTRL.SKEW_EN = true) ∧ (1000000 * s.g Reg.DMC.CTRL2.SKEW_FLOOR_MB ≤ (bs.take 16).sum) ∧ (b ∈ bs.take 16) ∧ (2 * (bs.take 16).sum < 16 * b)) := by
  refine ⟨?_, ?_, ?_, ?_, ?_, ?_, ?_, ?_, ?_⟩ <;> decide

/-- The hypotheses of DramSetPoints, clause by clause, are met. -/
theorem witness_DramSetPoints :
    (let m : Master := 1; let x : Fin 4 := 0; let s : State := State.reset; (s.coreOn = true) ∧ (s.mayWrite m.val (0x10808020) = true) ∧ (s.fspCheck x.val ≠ 0)) ∧
    (let m : Master := 1; let x : Fin 4 := 2; let s : State := st [(Reg.DMC.FSP.TRAINED 2, 1)]; (s.coreOn = true) ∧ (s.mayWrite m.val (0x10808020) = true) ∧ (s.fspCheck x.val = 0)) ∧
    (let dt : Nat := 5; let s : State := st [(Reg.DMC.CTL.STATE 2, 2), (Reg.DMC.FSP_STATUS.PENDING, 1), (Reg.DMC.FSP_STATUS.PENDING_TARGET, 2)]; (s.coreOn = true) ∧ ((s.advance dt).fspMay = true) ∧ (s.collecting = false)) ∧
    (let f : Nat := 2; let s : State := { st [(Reg.DMC.CTL.STATE 2, 3)] with dmc := { State.reset.dmc with change := some 2 } }; (s.coreOn = true) ∧ (s.dmc.change = some f) ∧ (f < 4)) := by
  refine ⟨?_, ?_, ?_, ?_⟩ <;> decide

/-- The hypotheses of DramCalibration, clause by clause, are met. -/
theorem witness_DramCalibration :
    (let n : Fin 64 := 0; let i : Nat := 0; let p : Nat := 0; let s : State := put16 (put16 (put16 (st [(Reg.SEQ.STATUS.LIVE_VALID, 1), (Reg.HEAD.STATUS.RUN_STATE 0, 2)]) 1 (4 * 2 ^ 32)) 4 (1 + 20 * 2 ^ 28 + 1 * 2 ^ 44)) 20 (8 + 30 * 2 ^ 79 + 255 * 2 ^ 95); (s.coreOn = true) ∧ (s.headRuns n.val = true) ∧ (s.headPage n.val = some p) ∧ (i < (s.course p n.val).cals.length) ∧ (s.dmc.change = none)) ∧
    (let dt : Nat := 5; let at_ : Nat × Nat := (5, 0); let s : State := { st [(Reg.DMC.CTL.STATE 2, 2)] with dmc := { State.reset.dmc with train := some (5, 0) } }; (s.coreOn = true) ∧ (s.dmc.train = some at_) ∧ (at_.1 < 16) ∧ ((s.advance dt).fspMay = false)) ∧
    (let dt : Nat := 5; let at_ : Nat × Nat := (5, 0); let s : State := { st [(Reg.DMC.CTL.STATE 2, 2), (Reg.DMC.FSP_STATUS.PENDING, 1)] with dmc := { State.reset.dmc with train := some (5, 0) } }; (s.coreOn = true) ∧ (s.dmc.train = some at_) ∧ (at_.1 < 16) ∧ ((s.advance dt).fspMay = true)) ∧
    (let dt : Nat := 100000000; let k : Fin 8 := 2; let c : Fin 2 := 1; let s : State := st [(Reg.DMC.CTL.STATE 2, 2)]; (s.chanRuns (2 * k.val + c.val) = true) ∧ ((s.chan (2 * k.val + c.val)).oscAt + 100000000 ≤ s.clock + dt)) ∧
    (let dt : Nat := 5000; let ch : Fin 16 := 5; let k : Nat := 3; let s : State := (st [(Reg.DMC.CTL.STATE 2, 2)]).setChan 5 { DmcChan.reset with osc := some 3 }; (s.coreOn = true) ∧ ((s.chan ch.val).osc = some k) ∧ (k + 1000 ≤ s.clock + dt) ∧ (s.gb Reg.DMC.FSP_STATUS.PENDING = false)) ∧
    (let dt : Nat := 128000000; let k : Fin 8 := 2; let c : Fin 2 := 1; let s : State := st [(Reg.DMC.CTL.STATE 2, 2), (Reg.SEQ.STATUS.LIVE_VALID, 1)]; (s.chanRuns (2 * k.val + c.val) = true) ∧ ((s.chan (2 * k.val + c.val)).zqFrom + 128000000 ≤ s.clock + dt) ∧ (s.gb Reg.SEQ.STATUS.LIVE_VALID = true) ∧ (s.gb (Reg.DMC.CH.ZQ_PENDING k.val c.val) = false)) ∧
    (let dt : Nat := 128000000; let k : Fin 8 := 2; let c : Fin 2 := 1; let s : State := st [(Reg.DMC.CTL.STATE 2, 2)]; (s.chanRuns (2 * k.val + c.val) = true) ∧ ((s.chan (2 * k.val + c.val)).zqFrom + 128000000 ≤ s.clock + dt) ∧ (s.gb Reg.SEQ.STATUS.LIVE_VALID = false) ∧ (s.dmc.change = none)) ∧
    (let dt : Nat := 5000000000; let ch : Fin 16 := 5; let s : State := st [(Reg.DMC.CH.ZQ_PENDING 2 1, 1)]; (s.coreOn = true) ∧ (s.gb (Reg.DMC.CH.ZQ_PENDING (ch.val / 2) (ch.val % 2)) = true) ∧ ((s.chan ch.val).zqOut = false) ∧ ((s.chan ch.val).zqAt + 1000000000 ≤ s.clock + dt)) ∧
    (let dt : Nat := 99999999999999; let ch : Fin 16 := 5; let b : Fin 16 := 3; let r : BitVec 16 := 9#16; let k : Nat := 200; let s : State := st [(Reg.DMC.CTL.STATE 2, 2)]; (s.chanRuns ch.val = true) ∧ ((s.chan ch.val).ecsAt + 1000000000 * s.g Reg.DMC.CTRL2.ECS_PERIOD_S ≤ s.clock + dt) ∧ (k < s.g Reg.DMC.CTRL2.PPR_THR ∨ (s.chan ch.val).ecs ≠ some (b.val, r.toNat))) ∧
    (let dt : Nat := 99999999999999; let ch : Fin 16 := 5; let b : Fin 16 := 3; let r : BitVec 16 := 9#16; let k : Nat := 200; let s : State := (st [(Reg.DMC.CTL.STATE 2, 2)]).setChan 5 { DmcChan.reset with ecs := some (3, 9) }; (s.chanRuns ch.val = true) ∧ ((s.chan ch.val).ecsAt + 1000000000 * s.g Reg.DMC.CTRL2.ECS_PERIOD_S ≤ s.clock + dt) ∧ (s.g Reg.DMC.CTRL2.PPR_THR ≤ k) ∧ ((s.chan ch.val).ecs = some (b.val, r.toNat))) ∧
    (let m : Master := 1; let ch : Fin 16 := 5; let j : Fin 4 := 2; let s : State := st [(Reg.DMC.CH.PPR.VALID 2 1 2, 1)]; (s.coreOn = true) ∧ (s.mayWrite m.val (0x1080802C) = true) ∧ (s.dmc.ppr = none) ∧ ((allHeads.any (fun n => s.gb (Reg.HEAD.CTRL.ENABLE n) && !s.gb (Reg.HEAD.CTRL.SLEEP n))) = false) ∧ (s.gb (Reg.DMC.CH.PPR.VALID (ch.val / 2) (ch.val % 2) j.val) = true)) ∧
    (let m : Master := 1; let ch : Fin 16 := 5; let j : Fin 4 := 2; let s : State := State.reset; (s.coreOn = true) ∧ (s.mayWrite m.val (0x1080802C) = true) ∧ (s.dmc.ppr = none) ∧ (((allHeads.any (fun n => s.gb (Reg.HEAD.CTRL.ENABLE n) && !s.gb (Reg.HEAD.CTRL.SLEEP n))) = true ∨ s.gb (Reg.DMC.CH.PPR.VALID (ch.val / 2) (ch.val % 2) j.val) = false))) ∧
    (let ch : Fin 16 := 5; let j : Fin 4 := 2; let s : State := { st [(Reg.DMC.CH.PPR.VALID 2 1 2, 1)] with dmc := { State.reset.dmc with ppr := some (5, 2) } }; (s.coreOn = true) ∧ (s.dmc.ppr = some (ch.val, j.val))) := by
  refine ⟨?_, ?_, ?_, ?_, ?_, ?_, ?_, ?_, ?_, ?_, ?_, ?_, ?_⟩ <;> decide

/-- The hypotheses of BootLoader, clause by clause, are met. -/
theorem witness_BootLoader :
    (let s : State := st [(Reg.SYS.STRAPS.BOOT_MODE, 3)]; (s.coreOn = true) ∧ (s.boot.phase = .due) ∧ (s.g Reg.SYS.STRAPS.BOOT_MODE = 3)) ∧
    (let s : State := st [(Reg.SYS.STRAPS.BOOT_MODE, 1)]; (s.coreOn = true) ∧ (s.boot.phase = .due) ∧ ((s.g Reg.SYS.STRAPS.BOOT_MODE = 1 ∨ s.g Reg.SYS.STRAPS.BOOT_MODE = 2))) ∧
    (let s : State := State.reset; (s.coreOn = true) ∧ (s.boot.phase = .due) ∧ (s.g Reg.SYS.STRAPS.BOOT_MODE = 0) ∧ (s.boot.step < 3) ∧ (allHeads.any (fun n => s.headRuns n) = false)) ∧
    (let s : State := State.reset; (s.coreOn = true) ∧ (s.boot.phase = .due) ∧ (s.g Reg.SYS.STRAPS.BOOT_MODE = 0) ∧ (s.boot.step < 3) ∧ (allHeads.any (fun n => s.headRuns n) = false) ∧ (s.headerGood 0 = false) ∧ (s.headerGood 1 = false)) ∧
    (let w : TrainSeen := ⟨0, [7, 8, 9]⟩; let s : State := { st [] with boot := { State.reset.boot with phase := .training } }; (s.coreOn = true) ∧ (w.fails = 0) ∧ (s.boot.phase = .training) ∧ (s.boot.chosen = none)) ∧
    (let w : TrainSeen := ⟨32#16, []⟩; let ch : Fin 16 := 5; let s : State := { st [] with boot := { State.reset.boot with phase := .training } }; (s.coreOn = true) ∧ (s.boot.phase = .training) ∧ (w.fails.toNat.testBit ch.val = true) ∧ (s.boot.step < 3) ∧ (allHeads.any (fun n => s.headRuns n) = false)) ∧
    (let c : Fin 2 := 1; let o : Nat := 0; let s : State := { st [] with boot := { State.reset.boot with phase := .reading, order := [1, 0], both := true } }; (s.coreOn = true) ∧ (s.boot.phase = .reading) ∧ (s.boot.chosen = none) ∧ (s.boot.order = [c.val, o]) ∧ (s.boot.both = true)) ∧
    (let c : Fin 2 := 1; let b : Option Nat := some 7; let s : State := { st [] with boot := { State.reset.boot with phase := .reading, order := [1] } }; (s.coreOn = true) ∧ (s.boot.phase = .reading) ∧ (s.boot.chosen = none) ∧ (s.boot.order = [c.val]) ∧ (s.boot.both = false) ∧ (s.gb Reg.BOOT.STATUS.FORCED = false) ∧ ((b = none → imgResult s.pins.keyDigest (s.copyBytes c.val) ≠ 1)) ∧ (s.boot.step < 3) ∧ (allHeads.any (fun n => s.headRuns n) = false)) ∧
    (let dt : Nat := 5; let s : State := { st [] with boot := { State.reset.boot with phase := .pausing } }; (s.coreOn = true) ∧ (s.boot.phase = .pausing) ∧ (s.boot.pauseTo ≤ s.clock + dt) ∧ (s.boot.todo = [])) ∧
    (let dt : Nat := 5; let k : Nat := 7; let l : List BootAct := [.step 3]; let s : State := { st [] with boot := { State.reset.boot with phase := .pausing, todo := [.pause 7, .step 3] } }; (s.coreOn = true) ∧ (s.boot.phase = .pausing) ∧ (s.boot.pauseTo ≤ s.clock + dt) ∧ (s.boot.todo = .pause k :: l)) ∧
    (let m : Master := 3; let s : State := { st [(Reg.SYS.STRAPS.BOOT_MODE, 1)] with boot := { State.reset.boot with phase := .receiving } }; (s.coreOn = true) ∧ (s.mayWrite m.val (0x10080020) = true) ∧ (s.imageTakes 1 = true)) ∧
    (let m : Master := 3; let s : State := State.reset; (s.coreOn = true) ∧ (s.mayWrite m.val (0x10080020) = true) ∧ (s.imageTakes 1 = false)) := by
  refine ⟨?_, ?_, ?_, ?_, ?_, ?_, ?_, ?_, ?_, ?_, ?_, ?_⟩ <;> decide

/-- The hypotheses of MailboxSlots, clause by clause, are met. -/
theorem witness_MailboxSlots :
    (let m : Master := 3; let k : Fin 2 := 0; let s : State := State.reset; (s.coreOn = true) ∧ (s.mayWrite m.val ((Reg.HOST.SLOT.POST k.val).addr) = true) ∧ (m.val ≠ 0) ∧ (s.recovery = false)) ∧
    (let m : Master := 0; let k : Fin 2 := 1; let s : State := st [(Reg.ENG.STATUS.STATE 0, 2), (Reg.HOST.SLOT.STATE 1, 1)]; (s.coreOn = true) ∧ (s.mayWrite m.val ((Reg.HOST.SLOT.POST k.val).addr) = true) ∧ (m.val = 0)) ∧
    (let m : Master := 0; let k : Fin 2 := 1; let s : State := st [(Reg.ENG.STATUS.STATE 0, 2), (Reg.HOST.SLOT.STATE 1, 2)]; (s.coreOn = true) ∧ (s.mayWrite m.val ((Reg.HOST.SLOT.POST k.val).addr) = true) ∧ (m.val = 0) ∧ (s.host.mgmtDue = none)) ∧
    (let m : Master := 3; let k : Fin 2 := 0; let s : State := st [(Reg.HOST.SLOT.STATE 0, 3)]; (s.coreOn = true) ∧ (s.mayWrite m.val ((Reg.HOST.SLOT.POST k.val).addr) = true) ∧ (m.val ≠ 0)) ∧
    (let m : Master := 2; let s : State := st [(Reg.BOOT.FUSE_DATA 3, 9)]; (s.coreOn = true) ∧ (s.mayWrite m.val (0x10080080) = true) ∧ (s.boot.fuse = none) ∧ (s.pins.keyDigest.all (fun w => w == 0) = true)) ∧
    (let m : Master := 2; let s : State := { State.reset with pins := { State.reset.pins with keyDigest := [7] } }; (s.coreOn = true) ∧ (s.mayWrite m.val (0x10080080) = true) ∧ (s.boot.fuse = none) ∧ (s.pins.keyDigest.all (fun w => w == 0) = false)) ∧
    (let d : List Nat := [1, 2, 3, 4, 5, 6, 7, 8]; let s : State := { st [] with boot := { State.reset.boot with fuse := some [1, 2, 3, 4, 5, 6, 7, 8] } }; (s.coreOn = true) ∧ (s.boot.fuse = some d)) ∧
    (let j : FlashJob := ⟨1, 4096, [1, 2, 3], true, false⟩; let s : State := { st [(Reg.ENG.STATUS.STATE 0, 2)] with boot := { State.reset.boot with flash := some ⟨1, 4096, [1, 2, 3], true, false⟩ } }; (s.coreOn = true) ∧ ((s.recovery = true ∨ s.engRunning 0 = true)) ∧ (s.boot.flash = some j) ∧ (j.slot < 2) ∧ (j.paused = false)) ∧
    (let j : FlashJob := ⟨1, 4096, [1, 2, 3], true, true⟩; let s : State := { st [] with boot := { State.reset.boot with flash := some ⟨1, 4096, [1, 2, 3], true, true⟩ } }; (s.boot.flash = some j) ∧ (j.paused = true)) := by
  refine ⟨?_, ?_, ?_, ?_, ?_, ?_, ?_, ?_, ?_⟩ <;> decide +kernel

/-- The hypotheses of MailboxCommands, clause by clause, are met. -/
theorem witness_MailboxCommands :
    (let k : Fin 2 := 1; let s : State := st [(Reg.ENG.STATUS.STATE 0, 2), (Reg.HOST.SLOT.STATE 1, 2), (Reg.HOST.SLOT.REQ 1 0, 1793)]; (s.mbServes k.val 1 = true)) ∧
    (let k : Fin 2 := 1; let s : State := st [(Reg.ENG.STATUS.STATE 0, 2), (Reg.HOST.SLOT.STATE 1, 2), (Reg.HOST.SLOT.REQ 1 0, 1808)]; (s.mbServes k.val 0x10 = true) ∧ ((s.mbReq k.val 3 = 0 ∨ 16384 < s.mbReq k.val 3 ∨ s.inDram (s.mbReq k.val 1 + 2 ^ 32 * (s.mbReq k.val 2 % 16)) (16 * s.mbReq k.val 3) = false))) ∧
    (let k : Fin 2 := 1; let s : State := st [(Reg.ENG.STATUS.STATE 0, 2), (Reg.HOST.SLOT.STATE 1, 2), (Reg.HOST.SLOT.REQ 1 0, 1808), (Reg.HOST.SLOT.REQ 1 1, 0), (Reg.HOST.SLOT.REQ 1 2, 8), (Reg.HOST.SLOT.REQ 1 3, 2)]; (s.mbServes k.val 0x10 = true) ∧ (s.mbReq k.val 3 ≠ 0) ∧ (s.mbReq k.val 3 ≤ 16384) ∧ (s.inDram (s.mbReq k.val 1 + 2 ^ 32 * (s.mbReq k.val 2 % 16)) (16 * s.mbReq k.val 3) = true)) ∧
    (let k : Fin 2 := 1; let s : State := st [(Reg.ENG.STATUS.STATE 0, 2), (Reg.HOST.SLOT.STATE 1, 2), (Reg.HOST.SLOT.REQ 1 0, 1809)]; (s.mbServes k.val 0x11 = true)) ∧
    (let k : Fin 2 := 1; let s : State := st [(Reg.ENG.STATUS.STATE 0, 2), (Reg.HOST.SLOT.STATE 1, 2), (Reg.HOST.SLOT.REQ 1 0, 1810), (Reg.HOST.SLOT.REQ 1 1, 0), (Reg.HOST.SLOT.REQ 1 2, 0), (Reg.HOST.SLOT.REQ 1 3, 0), (Reg.HOST.SLOT.REQ 1 4, 1000000000)]; (s.mbServes k.val 0x12 = true) ∧ (s.mbReq k.val 1 % 2 = 0) ∧ (999999999 < s.mbReq k.val 4)) ∧
    (let k : Fin 2 := 1; let s : State := st [(Reg.ENG.STATUS.STATE 0, 2), (Reg.HOST.SLOT.STATE 1, 2), (Reg.HOST.SLOT.REQ 1 0, 1810), (Reg.HOST.SLOT.REQ 1 1, 1)]; (s.mbServes k.val 0x12 = true) ∧ ((s.mbReq k.val 1 % 2 = 1 ∨ s.mbReq k.val 4 ≤ 999999999))) ∧
    (let k : Fin 2 := 1; let s : State := st [(Reg.ENG.STATUS.STATE 0, 2), (Reg.HOST.SLOT.STATE 1, 2), (Reg.HOST.SLOT.REQ 1 0, 1811), (Reg.HOST.SLOT.REQ 1 1, 24576)]; (s.mbServes k.val 0x13 = true) ∧ (5 < s.mbReq k.val 1 / 2 ^ 12 % 8)) ∧
    (let k : Fin 2 := 1; let s : State := st [(Reg.ENG.STATUS.STATE 0, 2), (Reg.HOST.SLOT.STATE 1, 2), (Reg.HOST.SLOT.REQ 1 0, 1811), (Reg.HOST.SLOT.REQ 1 1, 4096)]; (s.mbServes k.val 0x13 = true) ∧ (s.mbReq k.val 1 / 2 ^ 12 % 8 ≤ 5)) ∧
    (let k : Fin 2 := 1; let s : State := { st [(Reg.ENG.STATUS.STATE 0, 2), (Reg.HOST.SLOT.STATE 1, 2), (Reg.HOST.SLOT.REQ 1 0, 1812), (Reg.HOST.SLOT.REQ 1 1, 3)] with host := { State.reset.host with preset := some 1 } }; (s.mbServes k.val 0x14 = true) ∧ (s.host.preset = some k.val) ∧ (s.seq.preset ≠ .reading) ∧ (s.seq.preset ≠ .deferred)) ∧
    (let k : Fin 2 := 1; let s : State := st [(Reg.ENG.STATUS.STATE 0, 2), (Reg.HOST.SLOT.STATE 1, 2), (Reg.HOST.SLOT.REQ 1 0, 1812), (Reg.HOST.SLOT.REQ 1 1, 3)]; (s.mbServes k.val 0x14 = true) ∧ (s.host.preset ≠ some k.val)) ∧
    (let k : Fin 2 := 1; let s : State := st [(Reg.ENG.STATUS.STATE 0, 2), (Reg.HOST.SLOT.STATE 1, 2), (Reg.HOST.SLOT.REQ 1 0, 1824), (Reg.HOST.SLOT.REQ 1 1, 0), (Reg.HOST.SLOT.REQ 1 2, 21)]; (s.mbServes k.val 0x20 = true) ∧ (20 < s.mbReq k.val 2 % 256)) ∧
    (let k : Fin 2 := 1; let s : State := st [(Reg.ENG.STATUS.STATE 0, 2), (Reg.HOST.SLOT.STATE 1, 2), (Reg.HOST.SLOT.REQ 1 0, 1824), (Reg.HOST.SLOT.REQ 1 1, 0), (Reg.HOST.SLOT.REQ 1 2, 3)]; (s.mbServes k.val 0x20 = true) ∧ (s.mbReq k.val 2 % 256 ≤ 20)) ∧
    (let k : Fin 2 := 1; let s : State := st [(Reg.ENG.STATUS.STATE 0, 2), (Reg.HOST.SLOT.STATE 1, 2), (Reg.HOST.SLOT.REQ 1 0, 1840), (Reg.HOST.SLOT.REQ 1 1, 5)]; (s.mbServes k.val 0x30 = true) ∧ ((s.mbReq k.val 1 / 2 ^ 24 = 0 ∨ 36 < s.mbReq k.val 1 / 2 ^ 24))) ∧
    (let k : Fin 2 := 1; let s : State := st [(Reg.ENG.STATUS.STATE 0, 2), (Reg.HOST.SLOT.STATE 1, 2), (Reg.HOST.SLOT.REQ 1 0, 1840), (Reg.HOST.SLOT.REQ 1 1, 16777221)]; (s.mbServes k.val 0x30 = true) ∧ (1 ≤ s.mbReq k.val 1 / 2 ^ 24) ∧ (s.mbReq k.val 1 / 2 ^ 24 ≤ 36)) ∧
    (let k : Fin 2 := 1; let s : State := st [(Reg.ENG.STATUS.STATE 0, 2), (Reg.HOST.SLOT.STATE 1, 2), (Reg.HOST.SLOT.REQ 1 0, 1841), (Reg.HOST.SLOT.REQ 1 1, 5)]; (s.mbServes k.val 0x31 = true)) ∧
    (let k : Fin 2 := 1; let s : State := st [(Reg.ENG.STATUS.STATE 0, 2), (Reg.HOST.SLOT.STATE 1, 2), (Reg.HOST.SLOT.REQ 1 0, 1825)]; (s.mbServes k.val 33 = true) ∧ ((s.mbAuth k.val).2 = false)) ∧
    (let k : Fin 2 := 1; let s : State := st [(Reg.ENG.STATUS.STATE 0, 2), (Reg.HOST.SLOT.STATE 1, 2), (Reg.HOST.SLOT.REQ 1 0, 1856)]; (s.mbServes k.val 64 = true) ∧ ((s.mbAuth k.val).2 = false)) ∧
    (let k : Fin 2 := 1; let s : State := st [(Reg.ENG.STATUS.STATE 0, 2), (Reg.HOST.SLOT.STATE 1, 2), (Reg.HOST.SLOT.REQ 1 0, 1857)]; (s.mbServes k.val 65 = true) ∧ ((s.mbAuth k.val).2 = false)) ∧
    (let k : Fin 2 := 1; let s : State := st [(Reg.ENG.STATUS.STATE 0, 2), (Reg.HOST.SLOT.STATE 1, 2), (Reg.HOST.SLOT.REQ 1 0, 1858)]; (s.mbServes k.val 66 = true) ∧ ((s.mbAuth k.val).2 = false)) ∧
    (let k : Fin 2 := 1; let s : State := st [(Reg.BOOT.STATUS.STATE, 2), (Reg.HOST.SLOT.STATE 1, 1), (Reg.HOST.SLOT.REQ 1 0, 1825)]; (s.mbServes k.val 0x21 = true) ∧ ((s.mbAuth k.val).2 = true) ∧ (s.mbReq k.val 1 % 2 = 0) ∧ (s.mbReq k.val 3 ≤ 220) ∧ (s.mbReq k.val 2 + s.mbReq k.val 3 ≤ 0x200000)) ∧
    (let k : Fin 2 := 1; let s : State := st [(Reg.BOOT.STATUS.STATE, 2), (Reg.HOST.SLOT.STATE 1, 1), (Reg.HOST.SLOT.REQ 1 0, 1856), (Reg.HOST.SLOT.REQ 1 1, 0), (Reg.HOST.SLOT.REQ 1 2, 4096), (Reg.BOOT.FLASH.ERASE_KB, 4), (Reg.BOOT.FLASH_MB, 64)]; (s.mbServes k.val 0x40 = true) ∧ ((s.mbAuth k.val).2 = true) ∧ (s.boot.flash = none) ∧ ((decide (1024 * s.g Reg.BOOT.FLASH.ERASE_KB ≠ 0 ∧ s.mbReq k.val 1 % (1024 * s.g Reg.BOOT.FLASH.ERASE_KB) = 0 ∧ s.mbReq k.val 2 % (1024 * s.g Reg.BOOT.FLASH.ERASE_KB) = 0 ∧ s.mbReq k.val 1 + s.mbReq k.val 2 ≤ 2 ^ 20 * s.g Reg.BOOT.FLASH_MB) && (inShared (s.mbReq k.val 3 + 2 ^ 32 * (s.mbReq k.val 4 % 16)) (s.mbReq k.val 2) || (!s.recovery && s.inDram (s.mbReq k.val 3 + 2 ^ 32 * (s.mbReq k.val 4 % 16)) (s.mbReq k.val 2)))) = true) ∧ (s.copyInUse = none)) ∧
    (let k : Fin 2 := 1; let s : State := st [(Reg.BOOT.STATUS.STATE, 2), (Reg.HOST.SLOT.STATE 1, 1), (Reg.HOST.SLOT.REQ 1 0, 1857), (Reg.HOST.SLOT.REQ 1 1, 2)]; (s.mbServes k.val 0x41 = true) ∧ ((s.mbAuth k.val).2 = true)) ∧
    (let k : Fin 2 := 1; let s : State := st [(Reg.BOOT.STATUS.STATE, 2), (Reg.HOST.SLOT.STATE 1, 1), (Reg.HOST.SLOT.REQ 1 0, 1858), (Reg.HOST.SLOT.REQ 1 1, 5395284)]; (s.mbServes k.val 0x42 = true) ∧ ((s.mbAuth k.val).2 = true) ∧ (s.mbReq k.val 1 = swFullKey)) ∧
    (let k : Fin 2 := 1; let s : State := st [(Reg.BOOT.STATUS.STATE, 2), (Reg.HOST.SLOT.STATE 1, 1), (Reg.HOST.SLOT.REQ 1 0, 1858), (Reg.HOST.SLOT.REQ 1 1, 5395285)]; (s.mbServes k.val 0x42 = true) ∧ ((s.mbAuth k.val).2 = true) ∧ (s.mbReq k.val 1 ≠ swFullKey)) := by
  refine ⟨?_, ?_, ?_, ?_, ?_, ?_, ?_, ?_, ?_, ?_, ?_, ?_, ?_, ?_, ?_, ?_, ?_, ?_, ?_, ?_, ?_, ?_, ?_, ?_⟩ <;> decide

/-- The hypotheses of HostPorts, clause by clause, are met. -/
theorem witness_HostPorts :
    (let bs : List Byte := [0x01, 0x00, 0x00, 0x00, 0x01, 0x00, 0x00, 0x00, 0x01, 0x02, 0x03, 0x04, 0x79, 0xDB, 0x7A, 0x32]; let s : State := State.reset; (s.hostServed = true) ∧ (((bs.getD 0 0).toNat = 0x01 ∨ (bs.getD 0 0).toNat = 0x31)) ∧ (spiCheck bs (8 + 4 * spiCount bs) = 0)) ∧
    (let bs : List Byte := [0x01, 0x00, 0x00, 0x00, 0x01, 0x00, 0x00, 0x00, 0x01, 0x02, 0x03, 0x05, 0x79, 0xDB, 0x7A, 0x32]; let s : State := State.reset; (s.hostServed = true) ∧ (((bs.getD 0 0).toNat = 0x01 ∨ (bs.getD 0 0).toNat = 0x31)) ∧ (spiCheck bs (8 + 4 * spiCount bs) ≠ 0)) ∧
    (let bs : List Byte := [0x03, 0x00, 0x00, 0x00, 0x01, 0x00, 0x00, 0x00, 0x5B, 0x9F, 0x29, 0x8A]; let s : State := State.reset; (s.hostServed = true) ∧ (((bs.getD 0 0).toNat = 0x03 ∨ (bs.getD 0 0).toNat = 0x33)) ∧ (spiCheck bs 8 = 0)) ∧
    (let bs : List Byte := [0x05]; let s : State := State.reset; (s.hostServed = true) ∧ ((bs.getD 0 0).toNat = 0x05)) ∧
    (let s : State := State.reset; (s.hostServed = true)) ∧
    (let x : BitVec 7 := 0x30#7; let s : State := State.reset; (s.i2cServed x.toNat = true)) ∧
    (let x : BitVec 7 := 0x30#7; let s : State := State.reset; (s.i2cServed x.toNat = true)) ∧
    (let bs : List Byte := [0x4D, 0x4E, 0x01, 0x01, 0x09, 0x00, 0x00, 0x00, 0x00, 0x00, 0xFF, 0x00, 0x00, 0x00, 0x00, 0x00, 0x00, 0x00, 0x00, 0x00, 0x00, 0x00, 0x00, 0x00, 0x00, 0x00, 0x00, 0x00]; let s : State := st [(Reg.BOOT.STATUS.STATE, 2)]; (s.mgmtOn = true) ∧ (s.mgmtForUs bs = true) ∧ (mgmtType bs = 1)) ∧
    (let bs : List Byte := [0x4D, 0x4E, 0x01, 0x02, 0x09, 0x00, 0x00, 0x00, 0x0A, 0x00, 0xFF, 0x00, 0x00, 0x01, 0x00, 0x00, 0x00, 0x00, 0x00, 0x00, 0x01, 0x00, 0x65, 0x4F, 0x38, 0x54, 0xD5, 0xA3, 0x8D, 0x49, 0x6D, 0x84, 0xF1, 0x64, 0xB6, 0xD6, 0x64, 0xF6]; let s : State := { st [(Reg.HOST.CTRL.MGMT_EN, 1), (Reg.MGMT.CTRL.ENABLE, 1)] with img := { State.reset.img with hostKey := [0x01, 0x02, 0x03, 0x04, 0x05, 0x06, 0x07, 0x08, 0x09, 0x0A, 0x0B, 0x0C, 0x0D, 0x0E, 0x0F, 0x10, 0x11, 0x12, 0x13, 0x14, 0x15, 0x16, 0x17, 0x18, 0x19, 0x1A, 0x1B, 0x1C, 0x1D, 0x1E, 0x1F, 0x20] } }; (s.mgmtOn = true) ∧ (s.mgmtForUs bs = true) ∧ (mgmtType bs = 2) ∧ (s.recovery = false) ∧ (s.imageTakes 2 = false) ∧ (s.hostMac (bs.take (bs.length - 16)) = some (bs.drop (bs.length - 16))) ∧ (s.g Reg.HOST.MGMT_SEQ < mgmtSeq bs) ∧ ((mgmtPayload bs).length = 10) ∧ (1 ≤ leNat (((mgmtPayload bs).drop 8).take 2)) ∧ (leNat (((mgmtPayload bs).drop 8).take 2) ≤ 256)) ∧
    (let bs : List Byte := [0x4D, 0x4E, 0x01, 0x02, 0x09, 0x00, 0x00, 0x00, 0x0A, 0x00, 0xFF, 0x00, 0x00, 0x01, 0x00, 0x00, 0x00, 0x00, 0x00, 0x00, 0x01, 0x00, 0x65, 0x4F, 0x38, 0x54, 0xD5, 0xA3, 0x8D, 0x49, 0x6D, 0x84, 0xF1, 0x64, 0xB6, 0xD6, 0x64, 0xF6]; let s : State := { st [(Reg.HOST.CTRL.MGMT_EN, 1), (Reg.MGMT.CTRL.ENABLE, 1), (Reg.HOST.MGMT_SEQ, 9)] with img := { State.reset.img with hostKey := [0x01, 0x02, 0x03, 0x04, 0x05, 0x06, 0x07, 0x08, 0x09, 0x0A, 0x0B, 0x0C, 0x0D, 0x0E, 0x0F, 0x10, 0x11, 0x12, 0x13, 0x14, 0x15, 0x16, 0x17, 0x18, 0x19, 0x1A, 0x1B, 0x1C, 0x1D, 0x1E, 0x1F, 0x20] } }; (s.mgmtOn = true) ∧ (s.mgmtForUs bs = true) ∧ (mgmtType bs = 2) ∧ (s.recovery = false) ∧ ((s.imageTakes 2 = true ∨ s.hostMac (bs.take (bs.length - 16)) = some (bs.drop (bs.length - 16)))) ∧ (mgmtSeq bs = s.g Reg.HOST.MGMT_SEQ) ∧ (s.host.mgmtDue = none)) ∧
    (let bs : List Byte := [0x4D, 0x4E, 0x01, 0x02, 0x09, 0x00, 0x00, 0x00, 0x0A, 0x00, 0xFF, 0x00, 0x00, 0x01, 0x00, 0x00, 0x00, 0x00, 0x00, 0x00, 0x01, 0x00, 0x00, 0x00, 0x00, 0x00, 0x00, 0x00, 0x00, 0x00, 0x00, 0x00, 0x00, 0x00, 0x00, 0x00, 0x00, 0x00]; let s : State := { st [(Reg.HOST.CTRL.MGMT_EN, 1), (Reg.MGMT.CTRL.ENABLE, 1)] with img := { State.reset.img with hostKey := [0x01, 0x02, 0x03, 0x04, 0x05, 0x06, 0x07, 0x08, 0x09, 0x0A, 0x0B, 0x0C, 0x0D, 0x0E, 0x0F, 0x10, 0x11, 0x12, 0x13, 0x14, 0x15, 0x16, 0x17, 0x18, 0x19, 0x1A, 0x1B, 0x1C, 0x1D, 0x1E, 0x1F, 0x20] } }; (s.mgmtOn = true) ∧ (s.mgmtForUs bs = true) ∧ (mgmtType bs = 2) ∧ (s.recovery = false) ∧ (s.imageTakes 2 = false) ∧ (¬(s.hostMac (bs.take (bs.length - 16)) = some (bs.drop (bs.length - 16))))) ∧
    (let bs : List Byte := [0x4D, 0x4E, 0x01, 0x03, 0x09, 0x00, 0x00, 0x00, 0x0C, 0x00, 0xFF, 0x00, 0x00, 0x01, 0x00, 0x00, 0x00, 0x00, 0x00, 0x00, 0x01, 0x02, 0x03, 0x04, 0x00, 0x00, 0x00, 0x00, 0x00, 0x00, 0x00, 0x00, 0x00, 0x00, 0x00, 0x00, 0x00, 0x00, 0x00, 0x00]; let s : State := st [(Reg.BOOT.STATUS.STATE, 2)]; (s.mgmtOn = true) ∧ (s.mgmtForUs bs = true) ∧ (mgmtType bs = 3) ∧ (s.imageTakes 2 = false) ∧ ((s.recovery = true ∨ (s.hostMac (bs.take (bs.length - 16)) = some (bs.drop (bs.length - 16)) ∧ s.g Reg.HOST.MGMT_SEQ < mgmtSeq bs))) ∧ ((s.recovery = true → inShared (leNat ((mgmtPayload bs).take 8) % 2 ^ 36) ((mgmtPayload bs).length - 8) = true)) ∧ (12 ≤ (mgmtPayload bs).length) ∧ ((mgmtPayload bs).length % 4 = 0)) ∧
    (let bs : List Byte := [0x4D, 0x4E, 0x01, 0x04, 0x09, 0x00, 0x00, 0x00, 0x04, 0x00, 0xFF, 0x00, 0x01, 0x07, 0x00, 0x00, 0x40, 0x8A, 0x58, 0x17, 0x9F, 0xCF, 0xE9, 0x7D, 0xD6, 0x2A, 0x03, 0x8E, 0xE6, 0x3A, 0xB8, 0xDC]; let s : State := { st [(Reg.HOST.CTRL.MGMT_EN, 1), (Reg.MGMT.CTRL.ENABLE, 1)] with img := { State.reset.img with hostKey := [0x01, 0x02, 0x03, 0x04, 0x05, 0x06, 0x07, 0x08, 0x09, 0x0A, 0x0B, 0x0C, 0x0D, 0x0E, 0x0F, 0x10, 0x11, 0x12, 0x13, 0x14, 0x15, 0x16, 0x17, 0x18, 0x19, 0x1A, 0x1B, 0x1C, 0x1D, 0x1E, 0x1F, 0x20] } }; (s.mgmtOn = true) ∧ (s.mgmtForUs bs = true) ∧ (mgmtType bs = 4) ∧ (s.recovery = false) ∧ (s.imageTakes 2 = false) ∧ ((s.recovery = true ∨ (s.hostMac (bs.take (bs.length - 16)) = some (bs.drop (bs.length - 16)) ∧ s.g Reg.HOST.MGMT_SEQ < mgmtSeq bs))) ∧ ((mgmtPayload bs).length % 4 = 0) ∧ (4 ≤ (mgmtPayload bs).length) ∧ ((mgmtPayload bs).length ≤ 256) ∧ (s.g (Reg.HOST.SLOT.STATE 1) = 0)) ∧
    (let bs : List Byte := [0x4D, 0x4E, 0x01, 0x05, 0x09, 0x00, 0x00, 0x00, 0x06, 0x00, 0xFF, 0x00, 0x00, 0x00, 0x00, 0x00, 0x01, 0x02, 0x00, 0x00, 0x00, 0x00, 0x00, 0x00, 0x00, 0x00, 0x00, 0x00, 0x00, 0x00, 0x00, 0x00, 0x00, 0x00]; let s : State := { st [(Reg.SYS.STRAPS.BOOT_MODE, 2)] with boot := { State.reset.boot with phase := .receiving } }; (s.mgmtOn = true) ∧ (s.mgmtForUs bs = true) ∧ (mgmtType bs = 5) ∧ (s.recovery = false) ∧ (s.imageTakes 2 = true) ∧ (s.g Reg.HOST.MGMT_SEQ < mgmtSeq bs) ∧ (4 ≤ (mgmtPayload bs).length) ∧ (leNat ((mgmtPayload bs).take 4) = s.boot.image.length)) := by
  refine ⟨?_, ?_, ?_, ?_, ?_, ?_, ?_, ?_, ?_, ?_, ?_, ?_, ?_, ?_⟩ <;> decide +kernel

/-- The hypotheses of ResetsClearAndRestart, clause by clause, are met. -/
theorem witness_ResetsClearAndRestart :
    (let s : State := { State.reset with pwr := { State.reset.pwr with mode := .unpowered, cause := 1 } }; (s.pwr.pinLow = false)) ∧
    (let s : State := State.reset; (s.pwr.mode ≠ .unpowered)) ∧
    (let s : State := { st [] with pwr := { State.reset.pwr with mode := .held, pinLow := true, cause := 2 } }; (s.pwr.mode = .held) ∧ (s.pwr.noXtal = false)) ∧
    (let s : State := State.reset; (s.pwr.mode ≠ .unpowered)) ∧
    (let s : State := State.reset; (s.coreOn = true)) ∧
    (let s : State := { st [] with pwr := { State.reset.pwr with mode := .held, noXtal := true, cause := 3 } }; (s.pwr.mode = .held) ∧ (s.pwr.pinLow = false)) ∧
    (let dt : Nat := 2000000000; let s : State := { st [(Reg.PWR.WDOG_CTRL.ENABLE, 1)] with boot := { State.reset.boot with phase := .idle } }; (s.wdogRuns = true) ∧ (s.bootRuns = false) ∧ (1000000 * s.g Reg.PWR.WDOG_CTRL.TIMEOUT_MS ≤ (s.advance dt).wdogCount) ∧ (s.gb Reg.PWR.WDOG_STATUS.WARNED = false)) ∧
    (let dt : Nat := 2000000000; let s : State := { st [(Reg.PWR.WDOG_CTRL.ENABLE, 1), (Reg.PWR.WDOG_STATUS.WARNED, 1)] with boot := { State.reset.boot with phase := .idle } }; (s.wdogRuns = true) ∧ (s.bootRuns = false) ∧ (1000000 * s.g Reg.PWR.WDOG_CTRL.TIMEOUT_MS ≤ (s.advance dt).wdogCount) ∧ (s.gb Reg.PWR.WDOG_STATUS.WARNED = true) ∧ (s.gb Reg.PWR.WDOG_CTRL.REPORT_ONLY = false)) ∧
    (let m : Master := 1; let s : State := (State.reset.store 0x800000010 [7, 8]); (s.coreOn = true) ∧ (s.mayWrite m.val (0x10030004) = true)) ∧
    (let m : Master := 1; let v : Word := 0x525355#32; let s : State := State.reset; (s.coreOn = true) ∧ (s.mayWrite m.val (0x10030004) = true) ∧ (v ≠ 0x525354#32)) := by
  refine ⟨?_, ?_, ?_, ?_, ?_, ?_, ?_, ?_, ?_, ?_⟩ <;> decide

/-- The hypotheses of DomainResetsAndLowPower, clause by clause, are met. -/
theorem witness_DomainResetsAndLowPower :
    (let m : Master := 1; let c : Byte := 0x30#8; let s : State := State.reset; (s.coreOn = true) ∧ (s.mayWrite m.val (0x10030008) = true) ∧ (s.gb Reg.RST.DOMAIN.GO = false) ∧ (domainNamed c.toNat = true)) ∧
    (let m : Master := 1; let s : State := st [(Reg.ISP.CTX.ENABLE 2 1, 1)]; (s.coreOn = true) ∧ (s.mayWrite m.val (0x10030008) = true) ∧ (s.gb Reg.RST.DOMAIN.GO = false)) ∧
    (let m : Master := 1; let c : Byte := 0x01#8; let s : State := State.reset; (s.coreOn = true) ∧ (s.mayWrite m.val (0x10030008) = true) ∧ (s.gb Reg.RST.DOMAIN.GO = false) ∧ (domainNamed c.toNat = false)) ∧
    (let s : State := st [(Reg.RST.DOMAIN.GO, 1)]; (s.coreOn = true) ∧ (s.gb Reg.RST.DOMAIN.GO = true)) ∧
    (let m : Master := 1; let k : Fin 4 := 1; let s : State := { st [] with boot := { State.reset.boot with flash := some ⟨0, 0, [1], false, false⟩ } }; (s.coreOn = true) ∧ (s.mayWrite m.val (0x10020040) = true) ∧ (s.pwr.mode = .run) ∧ ((k.val = 1 ∨ k.val = 2)) ∧ (s.boot.flash.isSome = true)) ∧
    (let m : Master := 1; let k : Fin 4 := 1; let s : State := State.reset; (s.coreOn = true) ∧ (s.mayWrite m.val (0x10020040) = true) ∧ (s.pwr.mode = .run) ∧ ((k.val = 1 ∨ k.val = 2)) ∧ (s.boot.flash = none)) ∧
    (let s : State := { st [] with pwr := { State.reset.pwr with mode := .entering, target := 1 } }; (s.pwr.mode = .entering) ∧ (s.pwr.target = 1) ∧ (allHeads.any (fun n => s.headRuns n) = false)) ∧
    (let s : State := { st [] with pwr := { State.reset.pwr with mode := .entering, target := 2 } }; (s.pwr.mode = .entering) ∧ (s.pwr.target = 2) ∧ (allHeads.any (fun n => s.headRuns n) = false)) ∧
    (let dt : Nat := 5; let s : State := { st [(Reg.PWR.WAKE_EN.HOST, 1)] with pwr := { State.reset.pwr with mode := .standby, wakeHost := true } }; ((s.pwr.mode = .standby ∨ s.pwr.mode = .dormant)) ∧ ((s.advance dt).wakeSources ≠ 0)) ∧
    (let dt : Nat := 5; let s : State := { st [] with pwr := { State.reset.pwr with mode := .dormant } }; ((s.pwr.mode = .standby ∨ s.pwr.mode = .dormant)) ∧ ((s.advance dt).wakeSources = 0)) := by
  refine ⟨?_, ?_, ?_, ?_, ?_, ?_, ?_, ?_, ?_, ?_⟩ <;> decide

/-- The hypotheses of SuppliesThermalAndClocks, clause by clause, are met. -/
theorem witness_SuppliesThermalAndClocks :
    (let s : State := State.reset; (s.pwr.mode ≠ .unpowered) ∧ (s.gb Reg.PWR.STATUS.AON_SRC = false)) ∧
    (let s : State := st [(Reg.PWR.STATUS.AON_SRC, 1)]; (s.pwr.mode ≠ .unpowered)) ∧
    (let s : State := State.reset; (s.pwr.mode ≠ .unpowered) ∧ (s.gb Reg.PWR.STATUS.WARN_ACTIVE = false)) ∧
    (let s : State := st [(Reg.PWR.STATUS.WARN_ACTIVE, 1)]; (s.pwr.mode ≠ .unpowered) ∧ (s.gb Reg.PWR.STATUS.WARN_ACTIVE = true)) ∧
    (let dt : Nat := 10000000; let s : State := st [(Reg.PWR.STATUS.WARN_ACTIVE, 1), (Reg.PWR.BELOW.BELOW, 3)]; (s.pwr.mode ≠ .unpowered) ∧ (s.gb Reg.PWR.STATUS.WARN_ACTIVE = true) ∧ (s.pwr.railAt + 10000000 ≤ s.clock + dt)) ∧
    (let temps : List (BitVec 16) := [400#16, 404#16, 0xFFF0#16, 12#16, 500#16, 13#16, 14#16, 15#16]; let s : State := { st [] with pwr := { State.reset.pwr with hotMask := 16 } }; (temps.length = 8) ∧ (s.pwr.mode ≠ .unpowered)) ∧
    (let m : Master := 1; let s : State := st [(Reg.PWR.WDOG_STATUS.WARNED, 1), (Reg.PWR.WDOG_CTRL.ENABLE, 1)]; (s.coreOn = true) ∧ (s.mayWrite m.val (0x10020084) = true)) ∧
    (let k : Fin 16 := 9; let s : State := st [(Reg.CLK.RUNNING, 0x200)]; (s.coreOn = true) ∧ (k.val ≠ 7) ∧ (bitOf s.clkRunning k.val = true)) ∧
    (let q : Fin 20 := 13; let s : State := st [(Reg.LANE.PSTATE 13 1, 0), (Reg.LANE.OWNER 13 1, 3)]; (s.coreOn = true) ∧ (s.quadRuns q.val = true)) ∧
    (let k : Fin 16 := 9; let s : State := st [(Reg.CLK.RUNNING, 0x200), (Reg.CLK.LOCK.VPLL_LOCK, 2)]; (s.coreOn = true) ∧ (bitOf s.clkRunning k.val = true)) ∧
    (let dt : Nat := 1000000; let x : Nat := 0; let k : Fin 16 := 9; let s : State := { st [(Reg.CLK.RUNNING, 0x200)] with clk := ⟨[], [(9, some 0)]⟩ }; (s.coreOn = true) ∧ (Tab.get none k.val s.clk.idleAt = some x) ∧ (x + 1000000 ≤ s.clock + dt) ∧ (s.pllWanted k.val = false)) := by
  refine ⟨?_, ?_, ?_, ?_, ?_, ?_, ?_, ?_, ?_, ?_, ?_⟩ <;> decide

/-- The hypotheses of EventsRaiseClearAndLog, clause by clause, are met. -/
theorem witness_EventsRaiseClearAndLog :
    (let m : Master := 3; let w : Fin 4 := 1; let s : State := st [(Reg.EVT.STATUS 1, 0x80000001)]; (s.coreOn = true) ∧ (s.mayWrite m.val (0x10040080 + 4 * w.val) = true) ∧ (w.val < 2)) ∧
    (let m : Master := 3; let w : Fin 4 := 3; let v : Word := 0x80000000#32; let i : Fin 32 := 31; let s : State := st [(Reg.EVT.HEAD_CAUSE.CAUSE 63, 7)]; (s.coreOn = true) ∧ (s.mayWrite m.val (0x10040080 + 4 * w.val) = true) ∧ (2 ≤ w.val) ∧ (bitOf v.toNat i.val = true)) ∧
    (let m : Master := 1; let n : Fin 64 := 5; let s : State := st [(Reg.EVT.HEAD_CAUSE.CAUSE 5, 7)]; (s.coreOn = true) ∧ (s.mayWrite m.val (0x10040400 + 4 * n.val) = true)) ∧
    (let m : Master := 1; let w : Fin 4 := 2; let s : State := st [(Reg.EVT.HEAD_CAUSE.CAUSE 5, 7)]; (s.coreOn = true) ∧ (s.mayWrite m.val (0x10040090 + 4 * w.val) = true)) ∧
    (let m : Master := 1; let s : State := st [(Reg.EVT.LOG_SEQ, 7)]; (s.coreOn = true) ∧ (s.mayWrite m.val (0x10040000) = true)) ∧
    (let m : Master := 3; let s : State := State.reset; (s.coreOn = true) ∧ (s.mayWrite m.val (0x10040020) = true)) ∧
    (let dt : Nat := 5; let m : Master := 3; let s : State := st [(Reg.EVT.ENABLE 1, 0x80000000), (Reg.EVT.ROUTE.LOG 63, 1), (Reg.EVT.LOG_EN, 1), (Reg.EVT.LOG_BASE, 0x100)]; (s.coreOn = true) ∧ (s.mayWrite m.val (0x10040020) = true) ∧ (bitOf (s.g (Reg.EVT.ENABLE 1)) 31 = true) ∧ (s.gb (Reg.EVT.ROUTE.LOG 63) = true) ∧ (s.gb Reg.EVT.LOG_EN = true) ∧ (inShared (s.g Reg.EVT.LOG_BASE * 4096 + 32 * s.g Reg.EVT.LOG_WR) 32 = true) ∧ ((s.g Reg.EVT.LOG_WR + 1) % 2 ^ s.g Reg.EVT.LOG_LOG2 ≠ s.g Reg.EVT.LOG_RD % 2 ^ s.g Reg.EVT.LOG_LOG2) ∧ (s.g Reg.EVT.LOG_LOG2 ≤ 14) ∧ (s.evt.at_ ≠ s.clock + dt) ∧ ((∀ e ∈ s.evt.edges, s.clock + dt < e.1 + 1000))) ∧
    (let s : State := st [(Reg.EVT.GPIO.RISE, 0x10)]; (s.coreOn = true)) ∧
    (let dt : Nat := 2000; let e : Nat × Nat := (7, 4); let s : State := { State.reset with evt := { State.reset.evt with edges := [(7, 4)] } }; (s.coreOn = true) ∧ (e ∈ s.evt.edges) ∧ (e.1 + 1000 ≤ s.clock + dt)) ∧
    (let dt : Nat := 10000; let x : Nat := 10000; let p : Fin 4 := 2; let s : State := { st [(Reg.EVT.INT_CTRL.MODE 2, 1)] with evt := { State.reset.evt with pulseEnd := [(2, some 10000)] } }; (Tab.get none p.val s.evt.pulseEnd = some x) ∧ (x ≤ s.clock + dt)) := by
  refine ⟨?_, ?_, ?_, ?_, ?_, ?_, ?_, ?_, ?_, ?_⟩ <;> decide


end Sys2Proof.Tests
end

section
/-! PROOF. Steps and the state after reset (R1, R6). -/

namespace Sys2Proof.Machine

theorem step_of_nil {s : State} (h : s.pending = []) : step s = .next s := by
  rw [step, h]

theorem step_of_cons {s : State} {c : Instr} {rest : List Instr} (h : s.pending = c :: rest) :
    step s = exec c { s with pending := rest } := by
  rw [step, h]

/-- The meaning of every command answers a next state, by its form alone. -/
theorem exec_next (c : Instr) (s : State) : ∃ t, exec c s = .next t := by
  cases c <;> exact ⟨_, rfl⟩

/-- Settles O1, by the two shapes of the queue; that an empty queue idles is the model's choice (log entry 1). -/
theorem stepTakesFrontCommand : Obligations.StepTakesFrontCommand :=
  ⟨fun _ _ _ => step_of_cons rfl, fun _ h => step_of_nil h⟩

/-- Settles O2: every meaning answers a next state, and so does the step that runs it. What stands for nothing that the hardware does
is answered with time alone (log entries 3, 11 and 12). -/
theorem everyCommandAnswersNext : Obligations.EveryCommandAnswersNext := by
  refine ⟨fun s => ?_, exec_next⟩
  cases h : s.pending with
  | nil => exact ⟨s, step_of_nil h⟩
  | cons c rest => rw [step_of_cons h]; exact exec_next c _

/-- No register is listed after reset, so that each reads its reset value. -/
theorem State.reset_reg (a : Nat) : State.reset.reg a = resetWord a := rfl

/-- Settles O4: the tables of the state after reset are empty, and the register map gives the rest; that the boot loader is due is the
model's reading (log entry 74). -/
theorem resetHasForm : Obligations.ResetHasForm :=
  ⟨rfl, rfl, rfl, by decide, rfl, rfl, by decide, by decide, State.reset_reg⟩

end Sys2Proof.Machine
end

section
/-! PROOF. Register writes: which of its answers the matrix gives to a write, what a response and a count leave alone, and what a
write makes of the fields of a register (R4, R404, R416). -/

namespace Sys2Proof.Machine

/-! ### What time's passing leaves of the ports -/

@[simp] theorem State.advance_draining (s : State) (dt m : Nat) : (s.advance dt).draining m = s.draining m := by
  simp [State.draining]

@[simp] theorem State.advance_ctlWaits (s : State) (dt m : Nat) : (s.advance dt).ctlWaits m = s.ctlWaits m := by
  simp [State.ctlWaits]

@[simp] theorem State.advance_issues (s : State) (dt m : Nat) : (s.advance dt).issues m = s.issues m := by
  simp [State.issues, State.accepts, State.engRunning]

@[simp] theorem State.advance_readsNow (s : State) (dt m : Nat) : (s.advance dt).readsNow m = s.readsNow m := by
  simp [State.readsNow]

/-! ### Responses and counts -/

/-- An access served is counted in the matrix, and every other register stays (R413). -/
theorem State.ctlServed_reg (s : State) (m : Nat) {a : Nat} (ha : a < 0x100A0000 ∨ 0x100B0000 ≤ a) :
    (s.ctlServed m).reg a = s.reg a := by
  unfold State.ctlServed State.inc
  rw [State.reg_p_ne _ _ (by simp only; omega), State.reg_p_ne _ _ (by simp only; omega)]

@[simp] theorem State.respond_resp (s : State) (e : Bool) (bs : List Byte) : (s.respond e bs).bus.resp = some ⟨e, bs⟩ := rfl

@[simp] theorem State.respond_evStatus (s : State) (e : Bool) (bs : List Byte) (i : Nat) :
    (s.respond e bs).evStatus i = s.evStatus i := rfl

@[simp] theorem State.setReg_byte (s : State) (a : Nat) (w : Word) (x : Nat) : (s.setReg a w).byte x = s.byte x := rfl

@[simp] theorem State.respond_byte (s : State) (e : Bool) (bs : List Byte) (x : Nat) : (s.respond e bs).byte x = s.byte x := rfl

@[simp] theorem State.ctlServed_byte (s : State) (m x : Nat) : (s.ctlServed m).byte x = s.byte x := rfl

/-- The failure of an access is logged before EV_MTX_ERR is raised, and the record changes neither the time nor RATE, so that the
event is raised as any other (R416, R489). -/
theorem State.busFail_eq_raise (s : State) (r : ErrRecord) (hr : r.master < 64) :
    s.busFail r = (s.busFailLog r).raise Ev.mtxErr (r.master + 256 * r.reason) := by
  have h : Aside s (s.busFailLog r) := State.busFailLog_aside (Aside.refl s) r hr
  have hw : (s.busFailLog r).wall = s.wall := by
    unfold State.wall State.wallAt State.gi
    rw [h.time, h.g (show quietAddr Reg.TIME.RATE.RATE.addr by unfold quietAddr; decide)]
  unfold State.busFail State.raise mtxErrInfo
  rw [hw, h.time]

/-- With CORE on, an access sent to the default target leaves EV_MTX_ERR standing (R416). -/
theorem State.busFail_stands (s : State) (r : ErrRecord) (hr : r.master < 64) (hc : s.coreOn = true) :
    (s.busFail r).evStatus Ev.mtxErr = true := by
  rw [State.busFail_eq_raise s r hr]
  refine State.raise_stands _ _ _ (by decide) ?_
  rw [(State.busFailLog_aside (Aside.refl s) r hr).coreOn, hc]

/-- An access served after time has passed leaves every register outside the matrix. -/
theorem State.served_reg (s : State) (dt m : Nat) {a : Nat} (ha : a < 0x100A0000 ∨ 0x100B0000 ≤ a) :
    (((s.advance dt).ctlServed m).respond false []).reg a = s.reg a := by
  rw [State.respond_reg, State.ctlServed_reg _ _ ha, State.advance_reg]

/-- What the default target makes of an access after time has passed: EV_MTX_ERR stands, and every quiet register stays. -/
theorem State.failed_answer {s : State} (dt : Nat) {r : ErrRecord} (hr : r.master < 64) (hc : s.coreOn = true) :
    (((s.advance dt).busFail r).respond true []).evStatus Ev.mtxErr = true ∧
      ∀ a, quietAddr a → (((s.advance dt).busFail r).respond true []).reg a = s.reg a := by
  refine ⟨?_, fun a ha => ?_⟩
  · rw [State.respond_evStatus]
    exact State.busFail_stands _ _ hr (by simpa using hc)
  · rw [State.respond_reg, (State.busFail_aside (Aside.refl _) r hr).reg a ha, State.advance_reg]

/-! ### The answers of the matrix to a write (R416) -/

section Write

variable {s : State} {m a : Nat} {v : Word}

theorem State.issues_iff : s.issues m = true ↔ s.accepts m = true ∧ s.ctlWaits m = false := by
  simp [State.issues]

theorem regWrite_of_coreOff (hc : s.coreOn = false) : regWrite m a v s = s := by
  simp [regWrite, hc]

theorem regWrite_of_noRegister (hc : s.coreOn = true) (hi : s.issues m = true) (hr : noRegister a = true) :
    regWrite m a v s = (s.busFail (sizeRecord s m a 4 true (leBytes v.toNat 4) 15)).respond true [] := by
  obtain ⟨hp, hw⟩ := State.issues_iff.1 hi
  simp [regWrite, hc, hp, hw, hr]

theorem regWrite_of_register (hc : s.coreOn = true) (hi : s.issues m = true) (hr : noRegister a = false) (ha : a % 4 = 0) :
    regWrite m a v s = if s.hasRight m a then wordWrite m a v ((s.ctlServed m).respond false [])
      else (s.busFail (ctlRecord s Rsn.protect m a true true v)).respond true [] := by
  obtain ⟨hp, hw⟩ := State.issues_iff.1 hi
  simp [regWrite, State.ctlWrite, State.mayWrite, hc, hi, hp, hw, hr, ha]

/-- A write of a register that is no word of a multi-word value goes to its block alone. -/
theorem wordWrite_of_single (hl : lowestWord a = none) (hh : higherWords a = []) :
    wordWrite m a v s = blockWrite m a v s := by
  simp [wordWrite, hl, hh]

/-- SYS takes a write by the access codes of its fields alone. -/
theorem blockWrite_of_sys (ha : a < 0x10010000) : blockWrite m a v s = s.writeFields m a v 0 := by
  have h1 : inRange 0x10010100 0x10010180 a = false := by simp [inRange]; omega
  have h2 : inRange 0x10020010 0x10020038 a = false := by simp [inRange]; omega
  unfold blockWrite sysWrite
  rw [if_pos (by omega), h1, h2]
  simp only [Bool.false_eq_true, if_false]
  repeat rw [if_neg (by omega)]

end Write

/-- Unless the write is the engine's own of its HEARTBEAT, it is a register write and no more (R22). -/
theorem execRegisterWrite_of_noHeartbeat (dt : Nat) (m : Master) (a : BitVec 36) (v : Word) (s : State)
    (h : ∀ n < 24, engMaster n = m.val → (Reg.ENG.HEARTBEAT.COUNT n).addr ≠ a.toNat) :
    execRegisterWrite dt m a v s = .next (regWrite m.val a.toNat v (s.advance dt)) := by
  have hnone : (List.range 24).filter (fun n => engMaster n == m.val && (Reg.ENG.HEARTBEAT.COUNT n).addr == a.toNat) = [] := by
    refine List.filter_eq_nil_iff.2 fun n hn => ?_
    simpa using h n (List.mem_range.1 hn)
  unfold execRegisterWrite
  rw [hnone]
  rfl

/-! ### Fields by their access code (R4) -/

/-- A field as wide as the register takes the whole word written. -/
theorem fieldSet_whole (w v : Word) : fieldSet w 0 32 (fieldGet v 0 32) = v := by
  refine BitVec.eq_of_toNat_eq (Nat.eq_of_testBit_eq fun j => ?_)
  rw [fieldSet_testBit]
  by_cases hj : j < 32
  · simp [hj, fieldGet_testBit]
  · simp [hj, Nat.testBit_lt_two_pow (v.isLt.trans_le (Nat.pow_le_pow_right (by decide) (not_lt.1 hj))),
      Nat.testBit_lt_two_pow (w.isLt.trans_le (Nat.pow_le_pow_right (by decide) (not_lt.1 hj)))]

/-- One RW field of 32 bits, every value legal, takes the word written. -/
theorem takeFields_rw_whole (isOpen : Bool) (v w : Word) (reset : Nat) (rank : Rank) (keep : Bool) :
    takeFields isOpen v 0 w [fAny 0 32 .rw reset rank keep] = ⟨v, false, false⟩ := by
  have hv : fieldGet v 0 32 ≤ 2 ^ 32 - 1 := Nat.le_sub_one_of_lt (fieldGet_lt v 0 32)
  have hs : fieldGet 0 0 32 = 0 := by decide
  simp only [takeFields, fAny, List.filter_cons, List.filter_nil, hs, beq_self_eq_true, if_true, List.foldl_cons,
    List.foldl_nil, takeField, hv, Nat.zero_le, decide_true, Bool.and_self, fieldSet_whole]

/-- RO fields keep what they hold. -/
theorem takeFields_ro (isOpen : Bool) (v skip w : Word) {fs : List RegField} (h : ∀ f ∈ fs, f.acc = .ro) :
    takeFields isOpen v skip w fs = ⟨w, false, false⟩ := by
  refine List.foldlRecOn (motive := fun t : Taken => t = ⟨w, false, false⟩) _ (takeField isOpen v) rfl fun t ht f hf => ?_
  rw [takeField, h f (List.mem_of_mem_filter hf)]
  exact ht

/-- A write that meets no closed window and no reserved value sets the word and makes no record. -/
theorem State.writeFields_of_take {s : State} {m a : Nat} {v skip w : Word} {fs : List RegField} (hf : regFields a = some fs)
    (ht : takeFields (s.windowOpen a) v skip (s.reg a) fs = ⟨w, false, false⟩) :
    s.writeFields m a v skip = s.setReg a w := by
  rw [State.writeFields, hf, Option.getD_some, ht]
  rfl

/-- SCRATCH is one RW field of 32 bits: a write replaces its word. -/
theorem State.writeFields_scratch (s : State) (m : Nat) (v : Word) :
    s.writeFields m 0x10000014 v 0 = s.setReg 0x10000014 v :=
  State.writeFields_of_take (fs := [fAny 0 32 .rw 0 .p true]) (by decide) (takeFields_rw_whole _ _ _ _ _ _)

/-- ID has RO fields alone: a write leaves its word. -/
theorem State.writeFields_id (s : State) (m : Nat) (v : Word) :
    s.writeFields m 0x10000000 v 0 = s.setReg 0x10000000 (s.reg 0x10000000) :=
  State.writeFields_of_take (fs := [fAny 16 16 .ro 0x4E58 .never true, fAny 0 16 .ro 0x7264 .never true]) (by decide)
    (takeFields_ro _ _ _ _ (by decide))

/-! ### Writes of SYS -/

/-- In the SYS block the Curator and the boot loader alone may write (R487). -/
theorem State.hasRight_sys (s : State) (m : Nat) {a : Nat} (ha : a < 0x10010000) : s.hasRight m a = decide (m ≤ 1) := by
  have h : ∀ lo hi, 0x10010000 ≤ lo → inRange lo hi a = false := fun lo hi hlo => by simp [inRange]; omega
  simp [State.hasRight, h]

section Sys

variable {s : State} {m : Master} {a : BitVec 36}

/-- No HEARTBEAT lies in SYS, so that a write there is a register write and no more. -/
theorem execRegisterWrite_sys (dt : Nat) (m : Master) (v : Word) (s : State) (ha : a.toNat < 0x10010000) :
    exec (.registerWrite dt m a v) s = .next (regWrite m.val a.toNat v (s.advance dt)) :=
  execRegisterWrite_of_noHeartbeat dt m a v s fun n _ _ => by simp only; omega

/-- A write in SYS by a master with the right is served, and takes effect by the access codes of the register's fields. -/
theorem execRegisterWrite_sys_served (dt : Nat) (v : Word) (ha : a.toNat < 0x10010000) (hc : s.coreOn = true)
    (hi : s.issues m.val = true) (hm : m.val ≤ 1) (hr : noRegister a.toNat = false) (h4 : a.toNat % 4 = 0)
    (hl : lowestWord a.toNat = none) (hh : higherWords a.toNat = []) :
    exec (.registerWrite dt m a v) s =
      .next ((((s.advance dt).ctlServed m.val).respond false []).writeFields m.val a.toNat v 0) := by
  rw [execRegisterWrite_sys dt m v s ha, regWrite_of_register (by simpa using hc) (by simpa using hi) hr h4,
    State.hasRight_sys _ _ ha, if_pos (by simpa using hm), wordWrite_of_single hl hh, blockWrite_of_sys ha]

/-- A write in SYS by a master without the right goes to the default target (R416). -/
theorem execRegisterWrite_sys_refused (dt : Nat) (v : Word) (ha : a.toNat < 0x10010000) (hc : s.coreOn = true)
    (hi : s.issues m.val = true) (hm : 2 ≤ m.val) (hr : noRegister a.toNat = false) (h4 : a.toNat % 4 = 0) :
    exec (.registerWrite dt m a v) s =
      .next (((s.advance dt).busFail (ctlRecord (s.advance dt) Rsn.protect m.val a.toNat true true v)).respond true []) := by
  have hno : ¬ m.val ≤ 1 := by omega
  rw [execRegisterWrite_sys dt m v s ha, regWrite_of_register (by simpa using hc) (by simpa using hi) hr h4,
    State.hasRight_sys _ _ ha, if_neg (by simpa using hno)]

/-- A write in SYS where no register is defined goes to the default target, whatever the master (R416). -/
theorem execRegisterWrite_sys_undefined (dt : Nat) (v : Word) (ha : a.toNat < 0x10010000) (hc : s.coreOn = true)
    (hi : s.issues m.val = true) (hr : noRegister a.toNat = true) :
    exec (.registerWrite dt m a v) s =
      .next (((s.advance dt).busFail (sizeRecord (s.advance dt) m.val a.toNat 4 true (leBytes v.toNat 4) 15)).respond true []) := by
  rw [execRegisterWrite_sys dt m v s ha, regWrite_of_noRegister (by simpa using hc) (by simpa using hi) hr]

end Sys

/-- A register set to what it holds changes what no register reads. -/
theorem State.reg_setReg_self (s : State) (a b : Nat) : (s.setReg a (s.reg a)).reg b = s.reg b := by
  by_cases h : b = a
  · rw [h, State.reg_setReg_same]
  · exact State.reg_setReg_ne s h _

/-- Settles O7: a write with the right goes through the access codes of the register's fields, one without it and one
where no register is go to the default target, and with CORE off nothing is accepted (log entry 12). -/
theorem registerWriteTakesEffect : Obligations.RegisterWriteTakesEffect := by
  have h64 (m : Master) : m.val < 64 := m.isLt.trans (by decide)
  have hquiet : quietAddr 0x10000014 := .inl (by decide)
  refine ⟨fun dt m v s hc hi hm => ?_, fun dt m v s hc hi hm => ?_, fun dt m v s hc hi hm => ?_, fun dt m v s hc hi => ?_,
    fun dt m a v s hc hm => ?_⟩
  · have he := execRegisterWrite_sys_served (a := 0x10000014#36) dt v (by decide) hc hi hm (by decide) (by decide) (by decide)
      (by decide)
    refine ⟨_, he.trans (congrArg _ (State.writeFields_scratch _ _ v)), State.reg_setReg_same _ _ _, rfl, fun x => by simp,
      fun a ha hx _ => ?_⟩
    rw [State.reg_setReg_ne _ ha, State.served_reg _ _ _ hx]
  · have he := execRegisterWrite_sys_served (a := 0x10000000#36) dt v (by decide) hc hi hm (by decide) (by decide) (by decide)
      (by decide)
    refine ⟨_, he.trans (congrArg _ (State.writeFields_id _ _ v)), ?_, rfl, fun x => by simp, fun a hx _ => ?_⟩
    · rw [State.reg_setReg_self, State.served_reg _ _ _ (by decide)]
    · rw [State.reg_setReg_self, State.served_reg _ _ _ hx]
  · obtain ⟨hev, hreg⟩ := State.failed_answer dt
      (r := ctlRecord (s.advance dt) Rsn.protect m.val 0x10000014 true true v) (h64 m) hc
    exact ⟨_, execRegisterWrite_sys_refused (a := 0x10000014#36) dt v (by decide) hc hi hm (by decide) (by decide),
      hreg _ hquiet, rfl, hev⟩
  · obtain ⟨hev, hreg⟩ := State.failed_answer dt
      (r := sizeRecord (s.advance dt) m.val 0x10000100 4 true (leBytes v.toNat 4) 15) (h64 m) hc
    exact ⟨_, execRegisterWrite_sys_undefined (a := 0x10000100#36) dt v (by decide) hc hi (by decide), rfl, hev, hreg _ hquiet⟩
  · have hport : ∀ n < 24, engMaster n ≠ 2 ∧ engMaster n ≠ 3 := by decide
    refine ⟨_, execRegisterWrite_of_noHeartbeat dt m a v s fun n hn he => ?_, regWrite_of_coreOff (by simpa using hc)⟩
    obtain ⟨h2, h3⟩ := hport n hn
    rcases hm with hm | hm <;> omega

end Sys2Proof.Machine
end

section
/-! PROOF. Register reads: what a read leaves of the snapshots of other masters, and what it captures for its own (R10, R11). -/

namespace Sys2Proof.Machine

/-! ### What a read leaves of another master's snapshots (R11) -/

/-- From `s` to `t` no snapshot word of master `k` changes. -/
def SnapsStay (k : Nat) (s t : State) : Prop := ∀ x < 2 ^ 32, t.snap k x = s.snap k x

section Snaps

variable {k : Nat} {s₀ s t : State}

/-- An update that captures no snapshot. -/
theorem SnapsStay.same (h : SnapsStay k s₀ s) (e : t.bus.snaps = s.bus.snaps := by rfl) : SnapsStay k s₀ t := fun x hx => by
  rw [← h x hx, State.snap, e, State.snap]

theorem SnapsStay.ite {c : Prop} [Decidable c] (hs : SnapsStay k s₀ s) (ht : SnapsStay k s₀ t) :
    SnapsStay k s₀ (if c then s else t) := by split <;> assumption

theorem SnapsStay.itePair {α : Type} {c : Prop} [Decidable c] {p q : State × α} (hp : c → SnapsStay k s₀ p.1)
    (hq : SnapsStay k s₀ q.1) : SnapsStay k s₀ (if c then p else q).1 := by
  split
  · next hc => exact hp hc
  · exact hq

theorem SnapsStay.fold {α : Type} {f : State → α → State} (h : SnapsStay k s₀ s)
    (hf : ∀ s x, SnapsStay k s₀ s → SnapsStay k s₀ (f s x)) (l : List α) : SnapsStay k s₀ (l.foldl f s) := by
  induction l generalizing s with
  | nil => exact h
  | cons x l ih => exact ih (hf s x h)

theorem State.p_snapsStay (h : SnapsStay k s₀ s) (f : FRef) (v : Nat) : SnapsStay k s₀ (s.p f v) := h.same

theorem State.drawn_snapsStay (h : SnapsStay k s₀ s) : SnapsStay k s₀ s.drawn := h.same

theorem State.pFree_snapsStay (h : SnapsStay k s₀ s) (f : FRef) : SnapsStay k s₀ (s.pFree f) :=
  State.drawn_snapsStay (State.p_snapsStay h f _)

/-! Events and error records -/

theorem State.errLog_snapsStay (h : SnapsStay k s₀ s) (r : ErrRecord) : SnapsStay k s₀ (s.errLog r) := by
  unfold State.errLog State.incSat State.incSatBy
  exact .ite (.ite h.same (State.p_snapsStay h.same _ _)) h

theorem State.busFailLog_snapsStay (h : SnapsStay k s₀ s) (r : ErrRecord) : SnapsStay k s₀ (s.busFailLog r) := by
  unfold State.busFailLog State.inc
  exact State.errLog_snapsStay (State.p_snapsStay (State.p_snapsStay (State.p_snapsStay h _ _) _ _) _ _) r

theorem pulsePins_snapsStay (h : SnapsStay k s₀ s) (pins : Nat) (l : List Nat) : SnapsStay k s₀ (pulsePins s pins l) := by
  induction l generalizing s with
  | nil => exact h
  | cons p ps ih =>
    unfold pulsePins
    exact .ite (ih h.same) (ih h)

theorem State.raiseSet_snapsStay (h : SnapsStay k s₀ s) (r : RaiseInfo) : SnapsStay k s₀ (s.raiseSet r) := by
  unfold State.raiseSet
  extract_lets x y
  have hx : SnapsStay k s₀ x := h.same
  have hy : SnapsStay k s₀ y := .ite (State.p_snapsStay hx _ _) (State.p_snapsStay hx _ _)
  exact .ite (pulsePins_snapsStay hy _ _) hy

theorem State.countBurst_snapsStay (h : SnapsStay k s₀ s) (m a n : Nat) : SnapsStay k s₀ (s.countBurst m a n) := by
  unfold State.countBurst State.inc
  refine .ite (.fold h (fun s x hs => ?_) _) ?_
  · exact State.p_snapsStay (State.p_snapsStay hs _ _) _ _
  · split
    · exact State.p_snapsStay (State.p_snapsStay h _ _) _ _
    · exact h

theorem State.queueBurst_snapsStay (h : SnapsStay k s₀ s) (write : Bool) (qos a n : Nat) (on : List Bool) :
    SnapsStay k s₀ (s.queueBurst write qos a n on) := by
  obtain ⟨q, d, e⟩ := s.queueBurst_only write qos a n on
  exact h.same (by rw [e])

theorem State.logStore_snapsStay (h : SnapsStay k s₀ s) (base size wr seq : Nat) (drop : Bool) (i : Nat)
    (es : List (RaiseInfo × Nat)) : SnapsStay k s₀ (s.logStore base size wr seq drop i es) := by
  induction es generalizing s i with
  | nil => exact h
  | cons e es ih =>
    unfold State.logStore
    exact ih h.same (i + 1)

theorem State.logPut_snapsStay (h : SnapsStay k s₀ s) (r : RaiseInfo) : SnapsStay k s₀ (s.logPut r) := by
  unfold State.logPut
  extract_lets size base old wr seq drop es room a x y z w
  have hx : SnapsStay k s₀ x := State.p_snapsStay h _ _
  have hy : SnapsStay k s₀ y := .ite hx (.ite (State.p_snapsStay hx _ _)
    (State.countBurst_snapsStay (State.queueBurst_snapsStay hx _ _ a 32 _) 42 a 32))
  have hw : SnapsStay k s₀ w := State.p_snapsStay (State.logStore_snapsStay hy base size wr seq drop 0 _) _ _
  exact hw.same

theorem State.logAppend_snapsStay (h : SnapsStay k s₀ s) (r : RaiseInfo) : SnapsStay k s₀ (s.logAppend r) := by
  unfold State.logAppend
  extract_lets a x e
  have hx : SnapsStay k s₀ x := State.p_snapsStay (State.p_snapsStay h _ _) _ _
  exact .ite h (.ite (State.logPut_snapsStay h r) (.ite (State.raiseSet_snapsStay (State.busFailLog_snapsStay hx e) _) hx))

theorem State.noteEvent_snapsStay (h : SnapsStay k s₀ s) (i : Nat) : SnapsStay k s₀ (s.noteEvent i) :=
  .ite h.same (.ite h.same (.ite h.same h))

theorem State.raiseInfo_snapsStay (h : SnapsStay k s₀ s) (r : RaiseInfo) : SnapsStay k s₀ (s.raiseInfo r) := by
  have ht := State.noteEvent_snapsStay (State.raiseSet_snapsStay h r) r.source
  exact .ite (.ite (State.logAppend_snapsStay ht r) ht) h

theorem State.busFail_snapsStay (h : SnapsStay k s₀ s) (r : ErrRecord) : SnapsStay k s₀ (s.busFail r) :=
  State.raiseInfo_snapsStay (State.busFailLog_snapsStay h r) _

theorem State.gpioSettle_snapsStay (h : SnapsStay k s₀ s) : SnapsStay k s₀ s.gpioSettle := by
  unfold State.gpioSettle
  refine .ite h (.fold h.same (fun s e hs => ?_) _)
  exact State.raiseInfo_snapsStay hs _

/-! Lanes and the queues of the memory controllers, as a read finds them -/

theorem State.prbsSettle_snapsStay (h : SnapsStay k s₀ s) (q l : Nat) : SnapsStay k s₀ (s.prbsSettle q l) := by
  unfold State.prbsSettle State.prbsCount State.incSatBy
  extract_lets n x last x' first y
  have hy : SnapsStay k s₀ y := State.p_snapsStay h.same _ _
  exact .ite h.same (.ite (State.raiseInfo_snapsStay hy _) hy)

theorem State.eqStep_snapsStay {x : State × Nat} (h : SnapsStay k s₀ x.1) (f : FRef) (lo hi : Int) :
    SnapsStay k s₀ (State.eqStep x f lo hi).1 := State.drawn_snapsStay (State.p_snapsStay h f _)

theorem State.eqWalk_snapsStay (h : SnapsStay k s₀ s) (q l n : Nat) : SnapsStay k s₀ (s.eqWalk q l n) := by
  unfold State.eqWalk
  refine .ite h ?_
  iterate 6 refine State.eqStep_snapsStay ?_ _ _ _
  exact h

theorem State.eqFree_snapsStay (h : SnapsStay k s₀ s) (q l : Nat) : SnapsStay k s₀ (s.eqFree q l) := by
  unfold State.eqFree
  iterate 6 refine State.pFree_snapsStay ?_ _
  exact h

theorem State.eqSettle_snapsStay (h : SnapsStay k s₀ s) (q l : Nat) : SnapsStay k s₀ (s.eqSettle q l) := by
  unfold State.eqSettle
  exact .ite h.same (.ite (State.eqFree_snapsStay h q l).same (State.eqWalk_snapsStay h q l _).same)

theorem laneSeen_snapsStay (h : SnapsStay k s₀ s) (a : Nat) : SnapsStay k s₀ (laneSeen a s) := by
  have hf : ∀ f : FRef, SnapsStay k s₀ (s.incBy f s.freeNat).drawn := fun f =>
    State.drawn_snapsStay (State.p_snapsStay h f _)
  unfold laneSeen
  exact .ite h (.ite (State.eqSettle_snapsStay h _ _) (.ite (State.prbsSettle_snapsStay h _ _)
    (.ite (.ite (hf _) h) (.ite (hf _) h))))

theorem State.stallTick_snapsStay (h : SnapsStay k s₀ s) (c : Nat) : SnapsStay k s₀ (s.stallTick c) :=
  .ite h.same (.ite h h.same)

theorem queueSeen_snapsStay (h : SnapsStay k s₀ s) (c : Nat) : SnapsStay k s₀ (queueSeen c s) := by
  unfold queueSeen
  extract_lets q x
  have hx : SnapsStay k s₀ x := State.stallTick_snapsStay h.same c
  exact .ite hx.same hx

theorem eccCorrRead_snapsStay (h : SnapsStay k s₀ s) (a : Nat) : SnapsStay k s₀ (eccCorrRead a s).1 :=
  State.drawn_snapsStay (State.p_snapsStay h _ _)

/-! Words captured for master `m` -/

variable {m : Nat}

/-- The words of two masters have different keys. -/
theorem snapKey_ne {a x : Nat} (hm : k ≠ m) (ha : a < 2 ^ 32) (hx : x < 2 ^ 32) : snapKey k x ≠ snapKey m a := by
  unfold snapKey; omega

theorem State.setSnap_snapsStay (h : SnapsStay k s₀ s) (hm : k ≠ m) {a : Nat} (ha : a < 2 ^ 32) (w : Word) :
    SnapsStay k s₀ (s.setSnap m a w) := fun x hx =>
  (Tab.get_put_ne 0 0 (snapKey_ne hm ha hx) w s.bus.snaps).trans (h x hx)

/-- What a read captures for master `m` is no snapshot of another. -/
theorem State.setSnaps_snapsStay (h : SnapsStay k s₀ s) (hm : k ≠ m) {ws : List (Nat × Word)}
    (hw : ∀ a ∈ ws.map Prod.fst, a < 2 ^ 32) : SnapsStay k s₀ (s.setSnaps m ws) := by
  induction ws generalizing s with
  | nil => exact h
  | cons e ws ih =>
    obtain ⟨he, hws⟩ := List.forall_mem_cons.1 hw
    exact ih (State.setSnap_snapsStay h hm he e.2) hws

theorem errRead_snapsStay (h : SnapsStay k s₀ s) (hm : k ≠ m) : SnapsStay k s₀ (errRead m s).1 := by
  unfold errRead
  split
  · exact State.setSnaps_snapsStay h hm (by simp [errWords])
  · exact State.setSnaps_snapsStay h.same hm (by simp [errWords])

theorem stampRead_snapsStay (h : SnapsStay k s₀ s) (hm : k ≠ m) : SnapsStay k s₀ (stampRead m s).1 := by
  unfold stampRead
  exact .itePair (fun _ => h) (State.setSnaps_snapsStay h.same hm (by simp))

theorem txqRead_snapsStay (h : SnapsStay k s₀ s) (hm : k ≠ m) {p : Nat} (hp : p < 16) :
    SnapsStay k s₀ (txqRead m p s).1 := by
  unfold txqRead
  exact State.setSnaps_snapsStay h.same hm (by simp; omega)

theorem decFaultRead_snapsStay (h : SnapsStay k s₀ s) (hm : k ≠ m) : SnapsStay k s₀ (decFaultRead m s).1 := by
  unfold decFaultRead
  split <;> exact State.setSnaps_snapsStay h.same hm (by simp)

theorem encFaultRead_snapsStay (h : SnapsStay k s₀ s) (hm : k ≠ m) : SnapsStay k s₀ (encFaultRead m s).1 := by
  unfold encFaultRead
  split <;> exact State.setSnaps_snapsStay h.same hm (by simp)

/-- A choice between two lists whose members are below a bound. -/
theorem forall_mem_ite_lt {c : Prop} [Decidable c] {l l' : List Nat} {n : Nat} (hl : c → ∀ b ∈ l, b < n)
    (hl' : ∀ b ∈ l', b < n) : ∀ b ∈ (if c then l else l'), b < n := by
  split
  · next hc => exact hl hc
  · exact hl'

/-- The higher words of every multi-word value stand below 2^32. -/
theorem higherWords_lt (a : Nat) : ∀ b ∈ higherWords a, b < 2 ^ 32 := by
  unfold higherWords
  repeat refine forall_mem_ite_lt (fun h => by simp [inRange] at h ⊢ <;> omega) ?_
  simp

theorem wordRead_snapsStay (h : SnapsStay k s₀ s) (hm : k ≠ m) (a : Nat) : SnapsStay k s₀ (wordRead m a s).1 := by
  unfold wordRead
  extract_lets x w y r
  have hx : SnapsStay k s₀ x := .ite (State.gpioSettle_snapsStay h) h
  have hy : SnapsStay k s₀ y := .ite (queueSeen_snapsStay hx _) (.ite (laneSeen_snapsStay hx a) hx)
  have hr : SnapsStay k s₀ r.1 :=
    State.setSnaps_snapsStay hy hm (by simpa [Function.comp_def] using higherWords_lt a)
  refine .itePair (fun _ => errRead_snapsStay hx hm) (.itePair (fun _ => stampRead_snapsStay hx hm)
    (.itePair (fun ha => txqRead_snapsStay hx hm ?_) (.itePair (fun _ => eccCorrRead_snapsStay hx a)
    (.itePair (fun _ => decFaultRead_snapsStay hx hm) (.itePair (fun _ => encFaultRead_snapsStay hx hm)
    (.itePair (fun _ => State.p_snapsStay hx _ _) (.itePair (fun _ => hx)
    (.itePair (fun _ => State.drawn_snapsStay (State.drawn_snapsStay hr)) hr))))))))
  simp [inRange] at ha
  omega

theorem State.answer_snapsStay {r : State × Word} (h : SnapsStay k s₀ r.1) (m : Nat) : SnapsStay k s₀ (State.answer r m) :=
  h.same

/-- A register read by one master leaves the snapshots of every other. -/
theorem regRead_snapsStay (h : SnapsStay k s₀ s) (hm : k ≠ m) (a : Nat) : SnapsStay k s₀ (regRead m a s) := by
  unfold regRead State.ctlRead
  exact .ite h (.ite h.same (.ite (State.busFail_snapsStay h _).same
    (.ite h (.ite (State.answer_snapsStay (wordRead_snapsStay h hm a) m) h.same))))

end Snaps

/-! ### Reads that the matrix accepts -/

theorem regRead_of_register {s : State} {m a : Nat} (hc : s.coreOn = true) (hr : s.readsNow m = true)
    (hn : noRegister a = false) (ha : a % 4 = 0) : regRead m a s = State.answer (wordRead m a s) m := by
  obtain ⟨hd, hw⟩ : s.draining m = false ∧ s.ctlWaits m = false := by simpa [State.readsNow] using hr
  simp [regRead, State.ctlRead, hc, hr, hd, hw, hn, ha]

theorem execSnapshotRead_of_register {m : Master} {a : BitVec 36} {s : State} {dt : Nat} {r : State × Word}
    (hc : s.coreOn = true) (hr : s.readsNow m.val = true) (hn : noRegister a.toNat = false) (ha : a.toNat % 4 = 0)
    (h : wordRead m.val a.toNat (s.advance dt) = r) : exec (.snapshotRead dt m a) s = .next (State.answer r m.val) := by
  rw [← h]
  exact congrArg _ (regRead_of_register (by simpa using hc) (by simpa using hr) hn ha)

/-- LOCAL_LO shows the low 32 bits of the local count (R76). -/
theorem State.view_localLo (s : State) : s.view 0x10060010 = BitVec.ofNat 32 s.time.count := by
  have hw : ~~~(accessMask .wo 0x10060010) = BitVec.allOnes 32 := by decide
  unfold State.view
  rw [hw, BitVec.and_allOnes]
  simp [inRange, State.timeWord]

/-- LOCAL_HI shows the high 32 bits of the local count (R76). -/
theorem State.view_localHi (s : State) : s.view 0x10060014 = BitVec.ofNat 32 (s.time.count / 2 ^ 32) := by
  have hw : ~~~(accessMask .wo 0x10060014) = BitVec.allOnes 32 := by decide
  unfold State.view
  rw [hw, BitVec.and_allOnes]
  simp [inRange, State.timeWord]

/-- A read of LOCAL_LO captures LOCAL_HI (R10). -/
theorem wordRead_localLo (m : Nat) (s : State) : wordRead m 0x10060010 s =
    (s.setSnap m 0x10060014 (BitVec.ofNat 32 (s.time.count / 2 ^ 32)), BitVec.ofNat 32 s.time.count) := by
  rw [← State.view_localLo, ← State.view_localHi]
  rfl

/-- A read of LOCAL_HI returns the master's snapshot of it and changes nothing (R10). -/
theorem wordRead_localHi (m : Nat) (s : State) : wordRead m 0x10060014 s = (s, s.snap m 0x10060014) := rfl

theorem State.answer_snaps (r : State × Word) (m : Nat) : (State.answer r m).bus.snaps = r.1.bus.snaps := rfl

@[simp] theorem State.advance_snap (s : State) (dt m a : Nat) : (s.advance dt).snap m a = s.snap m a := by
  simp [State.snap]

@[simp] theorem State.snap_setSnap_same (s : State) (m a : Nat) (w : Word) : (s.setSnap m a w).snap m a = w := by
  simp [State.snap, State.setSnap]

/-- Settles O8: only the words that a read captures for its own master change among the snapshots, and LOCAL_HI is captured by the
read of LOCAL_LO. -/
theorem readsKeepOtherMastersSnapshots : Obligations.ReadsKeepOtherMastersSnapshots := by
  refine ⟨fun dt m k a s hk => ?_, fun dt m s hc hr => ?_, fun dt m s hc hr => ?_⟩
  · have h0 : SnapsStay k.val s (s.advance dt) := fun x _ => State.advance_snap s dt k.val x
    exact ⟨_, rfl, regRead_snapsStay h0 (fun h => hk (Fin.ext h)) a.toNat⟩
  · refine ⟨_, execSnapshotRead_of_register (a := 0x10060010#36) hc hr (by decide) (by decide) (wordRead_localLo _ _), ?_,
      State.snap_setSnap_same _ _ _ _, fun a ha => ?_⟩
    · rw [State.answer, State.respond_resp, BitVec.toNat_ofNat]
    · exact (State.ctlServed_reg _ _ ha).trans (State.advance_reg s dt a)
  · refine ⟨_, execSnapshotRead_of_register (a := 0x10060014#36) hc hr (by decide) (by decide) (wordRead_localHi _ _), ?_, ?_⟩
    · rw [State.answer, State.respond_resp, State.advance_snap]
    · rw [State.answer_snaps, State.advance_bus]

end Sys2Proof.Machine
end

section
/-! PROOF. What the work of the blocks leaves of the engines: their registers and what they hold beyond them, the power mode, the
clock, and the system events that stand (R22 to R24). -/

-- One lemma after the other: elaborated side by side, they take more threads than the memory of the check holds.
set_option Elab.async false

namespace Sys2Proof.Machine

/-! ### The relation -/

/-- An engine beyond its registers but for the clock that its 100 ms run from, which every start sets anew (R22). -/
def EngState.steady (e : EngState) : EngState := { e with beatAt := 0 }

/-- A register that says how the engines stand: INFO, and CTRL, STATUS and FAULT of each of them. -/
def engineAddr (a : Nat) : Prop := 0x10900000 ≤ a ∧ a % 0x20 < 0xC

/-- A register above EVT.STATUS that is none of these: a write of it neither clears an event nor moves an engine. -/
def offEngines (a : Nat) : Prop := 0x10040088 ≤ a ∧ (a < 0x10900000 ∨ 0xC ≤ a % 0x20)

/-- From `s` to `t` the power mode, the clock and the engines beyond their registers stay, no ECC error comes up, and no system
event's STATUS bit falls. -/
structure Steady (s t : State) : Prop where
  mode : t.pwr.mode = s.pwr.mode
  clock : t.clock = s.clock
  eng : ∀ n, (t.engine n).steady = (s.engine n).steady
  ecc : t.eccBad ⊆ s.eccBad
  stands : Stands s t

/-- From `s` to `t`, moreover, every register that says how the engines stand stays. -/
structure EnginesStay (s t : State) : Prop extends Steady s t where
  reg : ∀ a, engineAddr a → t.reg a = s.reg a

theorem Steady.refl (s : State) : Steady s s := ⟨rfl, rfl, fun _ => rfl, List.Subset.refl _, Stands.refl s⟩

theorem Steady.trans {s t u : State} (h : Steady s t) (k : Steady t u) : Steady s u :=
  ⟨k.mode.trans h.mode, k.clock.trans h.clock, fun n => (k.eng n).trans (h.eng n), List.Subset.trans k.ecc h.ecc, h.stands.trans k.stands⟩

theorem EnginesStay.refl (s : State) : EnginesStay s s := ⟨Steady.refl s, fun _ _ => rfl⟩

theorem EnginesStay.trans {s t u : State} (h : EnginesStay s t) (k : EnginesStay t u) : EnginesStay s u :=
  ⟨h.toSteady.trans k.toSteady, fun a ha => (k.reg a ha).trans (h.reg a ha)⟩

section Rules

variable {s₀ s t : State}

theorem Steady.coreOn (h : Steady s t) : t.coreOn = s.coreOn := by unfold State.coreOn; rw [h.mode]

theorem Steady.loaded (h : Steady s t) (n : Nat) : (t.engine n).loaded = (s.engine n).loaded :=
  (congrArg EngState.loaded (h.eng n) :)

theorem Steady.restartAt (h : Steady s t) (n : Nat) : (t.engine n).restartAt = (s.engine n).restartAt :=
  (congrArg EngState.restartAt (h.eng n) :)

theorem Steady.copyAddr (h : Steady s t) (n : Nat) : (t.engine n).copyAddr = (s.engine n).copyAddr :=
  (congrArg EngState.copyAddr (h.eng n) :)

theorem Steady.copyLen (h : Steady s t) (n : Nat) : (t.engine n).copyLen = (s.engine n).copyLen :=
  (congrArg EngState.copyLen (h.eng n) :)

/-- Where no ECC word of a range was bad, none is. -/
theorem Steady.eccHit (h : Steady s t) {a n : Nat} (hs : s.eccHit a n = false) : t.eccHit a n = false := by
  unfold State.eccHit at hs ⊢
  rw [List.any_eq_false] at hs ⊢
  exact fun w hw => hs w (h.ecc hw)

theorem Steady.evStatus (h : Steady s t) {i : Nat} (hi : i < 64) (hs : s.evStatus i = true) : t.evStatus i = true := by
  unfold State.evStatus at hs ⊢
  rw [if_pos hi] at hs ⊢
  exact h.stands i hi hs

/-- An update that touches nothing that the relation speaks of. -/
theorem Steady.same (h : Steady s₀ s) (hr : t.regs = s.regs := by rfl) (hm : t.pwr.mode = s.pwr.mode := by rfl)
    (hc : t.clock = s.clock := by rfl) (he : t.eng = s.eng := by rfl)
    (hb : t.eccBad ⊆ s.eccBad := by exact List.Subset.refl _) : Steady s₀ t :=
  h.trans ⟨hm, hc, fun n => by rw [State.engine, he, State.engine], hb, Stands.of_eq fun _ _ => State.g_congr hr _⟩

theorem EnginesStay.same (h : EnginesStay s₀ s) (hr : t.regs = s.regs := by rfl) (hm : t.pwr.mode = s.pwr.mode := by rfl)
    (hc : t.clock = s.clock := by rfl) (he : t.eng = s.eng := by rfl)
    (hb : t.eccBad ⊆ s.eccBad := by exact List.Subset.refl _) : EnginesStay s₀ t :=
  h.trans ⟨(Steady.refl s).same hr hm hc he hb, fun a _ => State.reg_congr hr a⟩

theorem EnginesStay.ite {c : Prop} [Decidable c] (hs : c → EnginesStay s₀ s) (ht : EnginesStay s₀ t) :
    EnginesStay s₀ (if c then s else t) := by
  split
  · next hc => exact hs hc
  · exact ht

theorem EnginesStay.fold {α : Type} {f : State → α → State} {l : List α} (h : EnginesStay s₀ s)
    (hf : ∀ s, ∀ x ∈ l, EnginesStay s₀ s → EnginesStay s₀ (f s x)) : EnginesStay s₀ (l.foldl f s) :=
  List.foldlRecOn (motive := EnginesStay s₀) l f h fun s hs x hx => hf s x hx hs

/-- What leaves quiet registers and the engines, as records, responses and events do. -/
theorem EnginesStay.aside (h : EnginesStay s₀ s) (ha : Aside s t) (he : t.eccBad ⊆ s.eccBad) (hs : Stands s t) :
    EnginesStay s₀ t :=
  h.trans ⟨⟨by rw [ha.pwr], ha.clock, fun n => by rw [State.engine, ha.eng, State.engine], he, hs⟩,
    fun a hp => ha.reg a (.inr (.inr (le_trans (by decide) hp.1)))⟩

/-! ### Fields -/

theorem State.p_steady (h : Steady s₀ s) (f : FRef) (v : Nat) (hf : 0x10040088 ≤ f.addr := by dsimp only; omega) :
    Steady s₀ (s.p f v) :=
  h.trans ⟨rfl, rfl, fun _ => rfl, List.Subset.refl _, State.p_stands s (.inr hf) v⟩

theorem State.p_enginesStay (h : EnginesStay s₀ s) (f : FRef) (v : Nat)
    (hf : offEngines f.addr := by dsimp only [offEngines]; omega) : EnginesStay s₀ (s.p f v) :=
  h.trans ⟨State.p_steady (Steady.refl s) f v hf.1, fun a ha => State.reg_p_ne s v (fun e => by
    rw [e] at ha; unfold engineAddr at ha; unfold offEngines at hf; omega)⟩

theorem State.drawn_enginesStay (h : EnginesStay s₀ s) : EnginesStay s₀ s.drawn := h.same

theorem State.pFree_enginesStay (h : EnginesStay s₀ s) (f : FRef) (hf : offEngines f.addr := by dsimp only [offEngines]; omega) :
    EnginesStay s₀ (s.pFree f) := State.drawn_enginesStay (State.p_enginesStay h f _ hf)

/-! ### What the blocks hold beyond their registers -/

theorem State.setLane_enginesStay (h : EnginesStay s₀ s) (q l : Nat) (x : LaneState) : EnginesStay s₀ (s.setLane q l x) := h.same

theorem State.setQuad_enginesStay (h : EnginesStay s₀ s) (q : Nat) (x : Option Nat) : EnginesStay s₀ (s.setQuad q x) := h.same

theorem State.setDp_enginesStay (h : EnginesStay s₀ s) (n : Nat) (x : DpState) : EnginesStay s₀ (s.setDp n x) := h.same

theorem State.setSrc_enginesStay (h : EnginesStay s₀ s) (i : Nat) (x : SrcState) : EnginesStay s₀ (s.setSrc i x) := h.same

theorem State.setBuf_enginesStay (h : EnginesStay s₀ s) (b : Nat) (x : BufState) : EnginesStay s₀ (s.setBuf b x) := h.same

theorem State.setPanel_enginesStay (h : EnginesStay s₀ s) (p : Nat) (x : TchPanel) : EnginesStay s₀ (s.setPanel p x) := h.same

theorem State.setEstr_enginesStay (h : EnginesStay s₀ s) (i : Nat) (x : EncStr) : EnginesStay s₀ (s.setEstr i x) := h.same

/-! ### Memory, counts and events -/

theorem eccClear_subset (a n : Nat) (bad : List Nat) : eccClear a n bad ⊆ bad := List.filter_subset_self _

theorem State.store_enginesStay (h : EnginesStay s₀ s) (a : Nat) (bs : List Byte) : EnginesStay s₀ (s.store a bs) :=
  h.same (hb := eccClear_subset _ _ _)

theorem State.storeFree_enginesStay (h : EnginesStay s₀ s) (a n : Nat) : EnginesStay s₀ (s.storeFree a n) :=
  State.drawn_enginesStay (State.store_enginesStay h _ _)

@[simp] theorem State.errLog_eccBad (s : State) (r : ErrRecord) : (s.errLog r).eccBad = s.eccBad := by
  unfold State.errLog
  split
  · split <;> rfl
  · rfl

@[simp] theorem State.countBurst_eccBad (s : State) (m a n : Nat) : (s.countBurst m a n).eccBad = s.eccBad := by
  unfold State.countBurst
  split
  · exact List.foldlRecOn (motive := fun t : State => t.eccBad = s.eccBad) _ _ rfl fun t ht x _ => by
      rw [State.p_eccBad, State.inc_eccBad, ht]
  · split <;> rfl

@[simp] theorem State.queueBurst_eccBad (s : State) (write : Bool) (qos a n : Nat) (on : List Bool) :
    (s.queueBurst write qos a n on).eccBad = s.eccBad := by
  obtain ⟨q, d, e⟩ := s.queueBurst_only write qos a n on
  rw [e]

@[simp] theorem pulsePins_eccBad (s : State) (pins : Nat) (l : List Nat) : (pulsePins s pins l).eccBad = s.eccBad := by
  induction l generalizing s with
  | nil => rfl
  | cons p ps ih =>
    unfold pulsePins
    split
    · exact ih _
    · exact ih s

@[simp] theorem State.raiseSet_eccBad (s : State) (r : RaiseInfo) : (s.raiseSet r).eccBad = s.eccBad := by
  unfold State.raiseSet
  extract_lets x y
  have hy : y.eccBad = s.eccBad := by unfold y; split <;> rfl
  split
  · rw [pulsePins_eccBad, hy]
  · exact hy

@[simp] theorem State.noteEvent_eccBad (s : State) (i : Nat) : (s.noteEvent i).eccBad = s.eccBad := by
  unfold State.noteEvent State.noteHealth
  repeat' split
  all_goals rfl

theorem State.logStore_eccBad (s : State) (base size wr seq : Nat) (drop : Bool) (i : Nat) (es : List (RaiseInfo × Nat)) :
    (s.logStore base size wr seq drop i es).eccBad ⊆ s.eccBad := by
  induction es generalizing s i with
  | nil => exact List.Subset.refl _
  | cons e es ih => exact List.Subset.trans (ih _ (i + 1)) (eccClear_subset _ _ _)

theorem State.logPut_eccBad (s : State) (r : RaiseInfo) : (s.logPut r).eccBad ⊆ s.eccBad := by
  unfold State.logPut
  extract_lets size base old wr seq drop es room a x y z w
  have hy : y.eccBad = s.eccBad := by
    unfold y
    split
    · rfl
    · split
      · rfl
      · rw [State.countBurst_eccBad, State.queueBurst_eccBad]; rfl
  rw [← hy]
  exact y.logStore_eccBad base size wr seq drop 0 _

theorem State.logAppend_eccBad (s : State) (r : RaiseInfo) : (s.logAppend r).eccBad ⊆ s.eccBad := by
  unfold State.logAppend
  split
  · exact List.Subset.refl _
  extract_lets a x e
  split
  · exact s.logPut_eccBad r
  · split
    · simp [State.busFailLog, x]
    · exact List.Subset.refl _

theorem State.raise_eccBad (s : State) (i arg : Nat) : (s.raise i arg).eccBad ⊆ s.eccBad := by
  unfold State.raise State.raiseInfo
  split
  · extract_lets t
    have ht : t.eccBad = s.eccBad := by simp [t]
    rw [← ht]
    split
    · exact t.logAppend_eccBad _
    · exact List.Subset.refl _
  · exact List.Subset.refl _

theorem State.raise_enginesStay (h : EnginesStay s₀ s) (i arg : Nat) (hi : i < 64 := by decide) : EnginesStay s₀ (s.raise i arg) :=
  h.aside (State.raise_aside (Aside.refl s) i arg hi) (s.raise_eccBad i arg) (s.raise_keepsStanding i arg)

theorem State.ctlServed_enginesStay (h : EnginesStay s₀ s) (m : Nat) : EnginesStay s₀ (s.ctlServed m) :=
  State.p_enginesStay (State.p_enginesStay h _ _) _ _

theorem State.countBurst_enginesStay (h : EnginesStay s₀ s) (m a n : Nat) : EnginesStay s₀ (s.countBurst m a n) :=
  h.aside (State.countBurst_aside (Aside.refl s) m a n) (by simp) (s.countBurst_stands m a n)

theorem State.queueBurst_enginesStay (h : EnginesStay s₀ s) (write : Bool) (qos a n : Nat) (on : List Bool) :
    EnginesStay s₀ (s.queueBurst write qos a n on) :=
  h.aside (State.queueBurst_aside (Aside.refl s) write qos a n on) (by simp) (s.queueBurst_stands write qos a n on)

/-! ### The reset of a master (R419) -/

theorem State.stageWritten_enginesStay (h : EnginesStay s₀ s) : EnginesStay s₀ s.stageWritten := by
  unfold State.stageWritten
  extract_lets x seq y z w
  have hx : EnginesStay s₀ x := State.p_enginesStay (State.p_enginesStay (State.p_enginesStay h _ _) _ _) _ _
  have hy : EnginesStay s₀ y := .ite (fun _ => hx.same) h
  have hz : EnginesStay s₀ z :=
    .ite (fun _ => State.p_enginesStay (State.p_enginesStay (State.p_enginesStay hy _ _) _ _) _ _) hy
  have hw : EnginesStay s₀ w := State.p_enginesStay (State.p_enginesStay hz _ _) _ _
  exact .ite (fun _ => State.p_enginesStay (State.p_enginesStay hw _ _) _ _) hw

theorem State.storeData_enginesStay (h : EnginesStay s₀ s) (a : Nat) (bs : List Byte) : EnginesStay s₀ (s.storeData a bs) :=
  .ite (fun _ => State.stageWritten_enginesStay (State.store_enginesStay h a bs)) (State.store_enginesStay h a bs)

theorem State.storeMasked_enginesStay (h : EnginesStay s₀ s) (a : Nat) (bs : List Byte) (on : List Bool) :
    EnginesStay s₀ (s.storeMasked a bs on) :=
  .ite (fun _ => State.storeData_enginesStay h a bs)
    (.fold h fun _ _ _ hs => .ite (fun _ => State.storeData_enginesStay hs _ _) hs)

theorem State.drainWrite_enginesStay (h : EnginesStay s₀ s) (r : PendReq) : EnginesStay s₀ (s.drainWrite r) := by
  unfold State.drainWrite
  exact .ite (fun _ => State.storeMasked_enginesStay (State.queueBurst_enginesStay h _ _ _ _ _) _ _ _) h

theorem State.masterReset_enginesStay (h : EnginesStay s₀ s) (m : Nat) : EnginesStay s₀ (s.masterReset m) := by
  unfold State.masterReset
  extract_lets mine begun x cut
  have hx : EnginesStay s₀ x := .fold h fun s r _ hs =>
    State.drainWrite_enginesStay (.ite (fun _ => hs) (State.countBurst_enginesStay hs _ _ _)) r
  exact .ite (fun _ => h) hx.same

/-! ### Lanes and display links -/

section Lane

variable {q l : Nat} (hq : q < 0x100) (hl : l < 4)
include hq hl

theorem State.setBits_enginesStay (h : EnginesStay s₀ s) (n : Nat) (runs : Bool) : EnginesStay s₀ (s.setBits q l n runs) := by
  unfold State.setBits
  extract_lets x
  have hx : EnginesStay s₀ x := State.p_enginesStay (State.p_enginesStay h (Reg.LANE.BITS_LO q l) _) (Reg.LANE.BITS_HI q l) _
  exact State.setLane_enginesStay hx _ _ _

theorem State.prbsSettle_enginesStay (h : EnginesStay s₀ s) : EnginesStay s₀ (s.prbsSettle q l) := by
  unfold State.prbsSettle State.prbsCount
  extract_lets n x last x' first y
  have hx : EnginesStay s₀ (s.setLane q l { x' with injN := s.injDue q l }) := State.setLane_enginesStay h _ _ _
  have hy : EnginesStay s₀ y := State.p_enginesStay hx (Reg.LANE.ERRORS q l) _
  exact .ite (fun _ => hx) (.ite (fun _ => State.raise_enginesStay hy _ _) hy)

theorem State.prbsLock_enginesStay (h : EnginesStay s₀ s) (lock : Bool) : EnginesStay s₀ (s.prbsLock q l lock) := by
  unfold State.prbsLock
  extract_lets x lane y
  have hx : EnginesStay s₀ x := State.prbsSettle_enginesStay hq hl h
  have hy : EnginesStay s₀ y := State.setLane_enginesStay hx _ _ _
  exact .ite (fun _ => h) (State.raise_enginesStay
    (State.p_enginesStay (State.setBits_enginesStay hq hl hy _ _) (Reg.LANE.PRBS.LOCK q l) _) _ _)

theorem State.eqDefaults_enginesStay (h : EnginesStay s₀ s) : EnginesStay s₀ (s.eqDefaults q l) := by
  unfold State.eqDefaults
  iterate 6 refine State.p_enginesStay ?_ _ _
  exact h

theorem State.eqFree_enginesStay (h : EnginesStay s₀ s) : EnginesStay s₀ (s.eqFree q l) := by
  unfold State.eqFree
  iterate 6 refine State.pFree_enginesStay ?_ _
  exact h

omit hq hl in
theorem State.eqStep_enginesStay {x : State × Nat} (h : EnginesStay s₀ x.1) (f : FRef) (lo hi : Int)
    (hf : offEngines f.addr := by dsimp only [offEngines]; omega) : EnginesStay s₀ (State.eqStep x f lo hi).1 :=
  State.drawn_enginesStay (State.p_enginesStay h f _ hf)

theorem State.eqWalk_enginesStay (h : EnginesStay s₀ s) (k : Nat) : EnginesStay s₀ (s.eqWalk q l k) := by
  unfold State.eqWalk
  refine .ite (fun _ => h) ?_
  iterate 6 refine State.eqStep_enginesStay ?_ _ _ _
  exact h

theorem State.eqSettle_enginesStay (h : EnginesStay s₀ s) : EnginesStay s₀ (s.eqSettle q l) := by
  unfold State.eqSettle
  exact .ite (fun _ => State.setLane_enginesStay h _ _ _) (.ite
    (fun _ => State.setLane_enginesStay (State.eqFree_enginesStay hq hl h) _ _ _)
    (State.setLane_enginesStay (State.eqWalk_enginesStay hq hl h _) _ _ _))

theorem State.lockDrop_enginesStay (h : EnginesStay s₀ s) : EnginesStay s₀ (s.lockDrop q l) := by
  unfold State.lockDrop
  extract_lets x
  have hx : EnginesStay s₀ x := .ite (fun _ => State.p_enginesStay (State.p_enginesStay
    (State.p_enginesStay h (Reg.LANE.ALIGNED q l) _) (Reg.LANE.ALIGN_LOST q l) _) (Reg.LANE.REALIGNS q l) _) h
  exact .ite (fun _ => State.p_enginesStay (State.p_enginesStay
    (State.p_enginesStay hx (Reg.LANE.BLOCK_LOCK q l) _) (Reg.LANE.BLOCK_LOST q l) _) (Reg.LANE.LOCK_LOSSES q l) _) hx

theorem State.laneSet_enginesStay (h : EnginesStay s₀ s) (owner power : Nat) : EnginesStay s₀ (s.laneSet q l owner power) := by
  unfold State.laneSet
  extract_lets old x x₁ x₂ y z
  have hx : EnginesStay s₀ x := State.p_enginesStay (State.p_enginesStay h (Reg.LANE.OWNER q l) _) (Reg.LANE.PSTATE q l) _
  have hx₁ : EnginesStay s₀ x₁ := State.eqSettle_enginesStay hq hl hx
  have hx₂ : EnginesStay s₀ x₂ := State.p_enginesStay (State.p_enginesStay hx₁ (Reg.LANE.LOS q l) _) (Reg.LANE.LOL q l) _
  have hy : EnginesStay s₀ y := .ite (fun _ => State.p_enginesStay (State.p_enginesStay
    (State.p_enginesStay hx₂ (Reg.LANE.ALIGNED q l) _) (Reg.LANE.BLOCK_LOCK q l) _) (Reg.LANE.ADAPT q l) _)
    (.ite (fun _ => State.setLane_enginesStay hx _ _ _) hx)
  have hz : EnginesStay s₀ z := .ite (fun _ => State.prbsLock_enginesStay hq hl hy _) hy
  exact .ite (fun _ => State.eqDefaults_enginesStay hq hl hz) hz

end Lane

theorem mem_laneNums {l : Nat} (h : l ∈ laneNums) : l < 4 := List.mem_range.1 h

theorem State.lolLanes_lt {q l : Nat} (h : l ∈ s.lolLanes q) : l < 4 := mem_laneNums (List.mem_of_mem_filter h)

section Quad

variable {q : Nat} (hq : q < 0x100)
include hq

theorem State.lolEdges_enginesStay (h : EnginesStay s₀ s) {ls : List Nat} (hls : ∀ l ∈ ls, l < 4) :
    EnginesStay s₀ (s.lolEdges q ls) :=
  .fold h fun s l hm hs => by
    have hl := hls l hm
    exact State.lockDrop_enginesStay hq hl (State.p_enginesStay (State.p_enginesStay
      (State.p_enginesStay (State.setLane_enginesStay hs _ _ _) (Reg.LANE.LOL q l) _) (Reg.LANE.LOL_SEEN q l) _) (Reg.LANE.LOL_EVENTS q l) _)

omit hq in
theorem State.lolEvent_enginesStay (h : EnginesStay s₀ s) (ls : List Nat) : EnginesStay s₀ (s.lolEvent q ls) := by
  unfold State.lolEvent
  split
  · exact State.raise_enginesStay h _ _
  · exact h

theorem State.quadRefresh_enginesStay (h : EnginesStay s₀ s) : EnginesStay s₀ (s.quadRefresh q) := by
  unfold State.quadRefresh
  extract_lets r anew ran x y z w
  have hx : EnginesStay s₀ x := .ite (fun _ => State.p_enginesStay h (Reg.QUAD.PLL_LOCK q) _) h
  have hy : EnginesStay s₀ y := State.p_enginesStay (State.p_enginesStay hx (Reg.QUAD.RATE q) _) (Reg.QUAD.SSC q) _
  have hz : EnginesStay s₀ z := .fold hy fun s l hl hs => State.laneSet_enginesStay hq (mem_laneNums hl) hs _ _
  have hw : EnginesStay s₀ w := .ite (fun _ => State.setQuad_enginesStay hz _ _) hz
  exact .ite (fun _ => State.setQuad_enginesStay (State.p_enginesStay hz (Reg.QUAD.PLL_LOCK q) _) _ _) (.ite (fun _ => hz)
    (State.lolEvent_enginesStay (State.lolEdges_enginesStay hq hw fun _ => State.lolLanes_lt) _))

end Quad

/-- The quads of a DPTX are few: LANE_BASE and LANES are narrow fields (R277). -/
theorem State.quadsOf_dpLanes_lt {n q : Nat} (h : q ∈ quadsOf (s.dpLanes n)) : q < 0x100 := by
  obtain ⟨d, hd, rfl⟩ := List.mem_map.1 (List.mem_dedup.1 h)
  obtain ⟨i, hi, rfl⟩ := List.mem_map.1 hd
  have hb := s.g_lt (Reg.DPTX.CTRL.LANE_BASE n)
  have hw : 2 ^ s.g (Reg.DPTX.CTRL.LANES n) ≤ 2 ^ 3 :=
    Nat.pow_le_pow_right (by decide) (Nat.le_of_lt_succ (s.g_lt (Reg.DPTX.CTRL.LANES n)))
  have := List.mem_range.1 hi
  unfold dispQuad
  dsimp only at hb hw
  omega

theorem mem_allHeads {n : Nat} (h : n ∈ allHeads) : n < 64 := List.mem_range.1 h

section Dp

variable {n : Nat} (hn : n < 64)
include hn

theorem State.dpLink_enginesStay (h : EnginesStay s₀ s) (link : Nat) : EnginesStay s₀ (s.dpLink n link) := by
  unfold State.dpLink
  extract_lets x dp y
  have hx : EnginesStay s₀ x := State.p_enginesStay h (Reg.DPTX.STATUS.LINK n) _
  have hy : EnginesStay s₀ y := .ite (fun _ => hx) (State.setDp_enginesStay hx _ _)
  exact .fold hy fun s q hq hs => State.quadRefresh_enginesStay (State.quadsOf_dpLanes_lt hq) hs

theorem State.auxEnd_enginesStay (h : EnginesStay s₀ s) (result bytes : Nat) : EnginesStay s₀ (s.auxEnd n result bytes) := by
  unfold State.auxEnd
  extract_lets x
  have hx : EnginesStay s₀ x :=
    State.p_enginesStay (State.p_enginesStay h (Reg.DPTX.AUX_STATUS.RESULT n) _) (Reg.DPTX.AUX_STATUS.BYTES n) _
  exact State.setDp_enginesStay (State.p_enginesStay hx (Reg.DPTX.AUX_CMD.GO n) _) _ _

omit hn in
theorem State.dpAuto_enginesStay (h : EnginesStay s₀ s) : EnginesStay s₀ (s.dpAuto n) :=
  .ite (fun _ => State.setDp_enginesStay h _ _) h

end Dp

theorem State.dpGrantRise_enginesStay (h : EnginesStay s₀ s) : EnginesStay s₀ s.dpGrantRise :=
  .fold h fun _ _ hn hs =>
    .ite (fun _ => State.dpAuto_enginesStay (State.dpLink_enginesStay (mem_allHeads hn) hs _))
      (.ite (fun _ => State.dpAuto_enginesStay hs) hs)

theorem State.dpGrantFall_enginesStay (h : EnginesStay s₀ s) : EnginesStay s₀ s.dpGrantFall :=
  .fold h fun s n hn hs => by
    have hx : EnginesStay s₀ (if (s.dpx n).aux = 0 then s else s.auxEnd n 4 0) :=
      .ite (fun _ => hs) (State.auxEnd_enginesStay (mem_allHeads hn) hs _ _)
    exact .ite (fun _ => hx) (State.dpLink_enginesStay (mem_allHeads hn) hx _)

theorem State.dpEngineStop_enginesStay (h : EnginesStay s₀ s) : EnginesStay s₀ s.dpEngineStop :=
  .fold h fun s n hn hs => by
    have hx : EnginesStay s₀ (if s.g (Reg.DPTX.STATUS.LINK n) = 2 then (s.dpLink n 1).dpWant n else s) :=
      .ite (fun _ => State.setDp_enginesStay (State.dpLink_enginesStay (mem_allHeads hn) hs _) _ _) hs
    exact .ite (fun _ => hx) (State.auxEnd_enginesStay (mem_allHeads hn) hx _ _)

/-! ### Sources -/

/-- STATE of a buffer stands beside no register of the engines that counts here, whatever the buffer's number. -/
theorem State.unclaim_enginesStay (h : EnginesStay s₀ s) (b : Nat) : EnginesStay s₀ (s.unclaim b) :=
  .ite (fun _ => State.storeFree_enginesStay (State.setBuf_enginesStay (State.p_enginesStay h (Reg.ING.BUF.STATE b) _) _ _) _ _) h

theorem State.srcDrop_enginesStay (h : EnginesStay s₀ s) (i : Nat) : EnginesStay s₀ (s.srcDrop i) := by
  refine State.setSrc_enginesStay (.fold h fun s u _ hs => ?_) _ _
  split
  · exact State.unclaim_enginesStay hs _
  · exact hs

theorem State.ingEngineStop_enginesStay (h : EnginesStay s₀ s) (e : Nat) : EnginesStay s₀ (s.ingEngineStop e) :=
  .fold h fun _ i _ hs => State.srcDrop_enginesStay hs i

/-! ### Touch -/

theorem State.panelFresh_enginesStay (h : EnginesStay s₀ s) {p : Nat} (hp : p ∈ [0, 1]) : EnginesStay s₀ (s.panelFresh p) := by
  have : p < 2 := List.mem_range.1 hp
  exact State.p_enginesStay (State.p_enginesStay (State.setPanel_enginesStay h _ _) (Reg.TCH.PANEL.CONTACTS p) _) (Reg.TCH.PANEL.OBJECTS p) _

theorem State.tchState_enginesStay (h : EnginesStay s₀ s) (x : Nat) : EnginesStay s₀ (s.tchState x) :=
  .ite (fun _ => State.p_enginesStay h _ _) h

theorem State.tchRestart_enginesStay (h : EnginesStay s₀ s) : EnginesStay s₀ s.tchRestart :=
  State.tchState_enginesStay (.fold h fun _ _ hp hs => State.panelFresh_enginesStay hs hp) _

theorem State.tchAbandon_enginesStay (h : EnginesStay s₀ s) : EnginesStay s₀ s.tchAbandon :=
  .fold h fun _ _ _ hs => State.setPanel_enginesStay hs _ _

theorem State.tchResume_enginesStay (h : EnginesStay s₀ s) : EnginesStay s₀ s.tchResume := by
  unfold State.tchResume
  exact .ite (fun _ => h) (.ite (fun _ => State.tchState_enginesStay h _)
    (.ite (fun _ => h) (State.tchRestart_enginesStay h)))

theorem State.tchGrantRise_enginesStay (h : EnginesStay s₀ s) : EnginesStay s₀ s.tchGrantRise :=
  .ite (fun _ => State.tchRestart_enginesStay h) h

theorem State.selftestAbort_enginesStay (h : EnginesStay s₀ s) : EnginesStay s₀ s.selftestAbort :=
  .ite (fun _ => State.raise_enginesStay (State.p_enginesStay h _ _) _ _) h

theorem State.tchGrantFall_enginesStay (h : EnginesStay s₀ s) : EnginesStay s₀ s.tchGrantFall := by
  unfold State.tchGrantFall
  extract_lets tch x y
  have hx : EnginesStay s₀ x := h.same
  have hy : EnginesStay s₀ y := .fold hx fun s p hp hs => by
    have : p < 2 := List.mem_range.1 hp
    exact State.panelFresh_enginesStay (.ite (fun _ => State.p_enginesStay hs (Reg.TCH.PANEL.FOREIGN_DROP p) _) hs) hp
  exact .ite (fun _ => State.selftestAbort_enginesStay (State.tchState_enginesStay hy _)) hx

/-! ### Custody -/

theorem State.encGrantRise_enginesStay (h : EnginesStay s₀ s) : EnginesStay s₀ s.encGrantRise :=
  .fold h fun _ _ _ hs => .ite (fun _ => State.setEstr_enginesStay hs _ _) hs

theorem State.setRole_enginesStay (h : EnginesStay s₀ s) (r : Nat) : EnginesStay s₀ (s.setRole r) :=
  State.p_enginesStay h.same _ _

theorem State.actStart_enginesStay (h : EnginesStay s₀ s) : EnginesStay s₀ s.actStart := by
  unfold State.actStart
  extract_lets cus x y
  have hx : EnginesStay s₀ x := h.same
  have hy : EnginesStay s₀ y := State.setRole_enginesStay (State.p_enginesStay (State.p_enginesStay hx _ _) _ _) _
  exact .ite (fun _ => State.encGrantRise_enginesStay (State.tchGrantRise_enginesStay (State.dpGrantRise_enginesStay hy))) hy

theorem State.releaseSettle_enginesStay (h : EnginesStay s₀ s) : EnginesStay s₀ s.releaseSettle :=
  .ite (fun _ => State.p_enginesStay (State.p_enginesStay (State.p_enginesStay h.same _ _) _ _) _ _) h

theorem State.release_enginesStay (h : EnginesStay s₀ s) (t0 role : Nat) : EnginesStay s₀ (s.release t0 role) := by
  unfold State.release
  extract_lets x cus y tch z
  have hx : EnginesStay s₀ x := State.p_enginesStay (State.setRole_enginesStay h _) _ _
  have hy : EnginesStay s₀ y := hx.same
  have hz : EnginesStay s₀ z := .ite (fun _ => State.tchGrantFall_enginesStay (State.dpGrantFall_enginesStay hy)) hy.same
  exact State.releaseSettle_enginesStay hz

theorem State.setGrant_enginesStay (h : EnginesStay s₀ s) (on : Bool) (t0 : Nat) : EnginesStay s₀ (s.setGrant on t0) := by
  unfold State.setGrant State.releaseTo
  extract_lets cus x
  have hx : EnginesStay s₀ x := h.same
  exact .ite (fun _ => h) (.ite (fun _ => hx) (.ite (fun _ => State.actStart_enginesStay hx)
    (.ite (fun _ => State.release_enginesStay hx _ _) (State.setRole_enginesStay hx _))))

theorem State.compatSet_enginesStay (h : EnginesStay s₀ s) (on : Bool) : EnginesStay s₀ (s.compatSet on) :=
  State.setGrant_enginesStay (State.p_enginesStay h _ _) _ _

theorem State.compatEval_enginesStay (h : EnginesStay s₀ s) : EnginesStay s₀ s.compatEval := by
  unfold State.compatEval
  extract_lets x cus
  have hx : EnginesStay s₀ x := State.p_enginesStay h _ _
  exact .ite (fun _ => h) (.ite (fun _ => State.compatSet_enginesStay hx.same _) (.ite (fun _ => hx)
    (.ite (fun _ => hx.same) (State.compatSet_enginesStay hx _))))

theorem State.aliveRefresh_enginesStay (h : EnginesStay s₀ s) : EnginesStay s₀ s.aliveRefresh := by
  unfold State.aliveRefresh
  extract_lets on cus x
  have hx : EnginesStay s₀ x := h.same
  exact State.compatEval_enginesStay (State.p_enginesStay hx _ _)

end Rules

end Sys2Proof.Machine
end

section
/-! PROOF. The operations of the engines: what setting a state, noting a fault and reloading firmware make of an engine (R22 to
R24). -/

-- One lemma after the other: elaborated side by side, they take more threads than the memory of the check holds.
set_option Elab.async false

namespace Sys2Proof.Machine

/-! ### Reading what stays -/

section Read

variable {s t : State} {n : Nat}

theorem EnginesStay.g (h : EnginesStay s t) (f : FRef) (hf : engineAddr f.addr := by dsimp only [engineAddr]; omega) :
    t.g f = s.g f := by
  unfold State.g
  rw [h.reg _ hf]

theorem EnginesStay.gb (h : EnginesStay s t) (f : FRef) (hf : engineAddr f.addr := by dsimp only [engineAddr]; omega) :
    t.gb f = s.gb f := by
  unfold State.gb
  rw [h.g f hf]

theorem State.gb_pb_same (s : State) (f : FRef) (b : Bool) (h : f.lo + 1 ≤ 32 := by dsimp only; omega) (hw : f.width = 1 := by rfl) :
    (s.pb f b).gb f = b := by
  unfold State.gb State.pb
  rw [State.g_p_same _ _ _ (hw ▸ h), hw]
  cases b <;> rfl

theorem State.gb_p_apart (s : State) {f f' : FRef} (v : Nat) (h : f.apart f') : (s.p f v).gb f' = s.gb f' := by
  unfold State.gb
  rw [State.g_p_apart s v h]

@[simp] theorem State.setEngine_g (s : State) (n : Nat) (e : EngState) (f : FRef) : (s.setEngine n e).g f = s.g f := rfl

@[simp] theorem State.setEngine_evStatus (s : State) (n : Nat) (e : EngState) (i : Nat) :
    (s.setEngine n e).evStatus i = s.evStatus i := rfl

@[simp] theorem State.engine_setEngine_same (s : State) (n : Nat) (e : EngState) : (s.setEngine n e).engine n = e :=
  Tab.get_put_same _ _ _ _

theorem State.engine_setEngine_ne (s : State) {n k : Nat} (h : k ≠ n) (e : EngState) :
    (s.setEngine n e).engine k = s.engine k :=
  Tab.get_put_ne _ _ h _ _

/-! ### The state of an engine (R22, R23) -/

theorem State.wdogKeep_enginesStay (s : State) : EnginesStay s s.wdogKeep := (EnginesStay.refl s).same

/-- The 100 ms of R22 start afresh. -/
theorem State.beatAt_enginesStay (s : State) (n t : Nat) :
    EnginesStay s (s.setEngine n { s.engine n with beatAt := t }) := by
  refine ⟨⟨rfl, rfl, fun k => ?_, List.Subset.refl _, Stands.refl s⟩, fun _ _ => rfl⟩
  by_cases hk : k = n
  · rw [hk, State.engine_setEngine_same]
    rfl
  · rw [State.engine_setEngine_ne s hk]

theorem State.engWorkStops_enginesStay {s₀ : State} (h : EnginesStay s₀ s) (n : Nat) : EnginesStay s₀ (s.engWorkStops n) :=
  .ite (fun _ => State.aliveRefresh_enginesStay h) (.ite (fun _ => State.ingEngineStop_enginesStay h _)
    (.ite (fun _ => State.tchAbandon_enginesStay h) (.ite (fun _ => State.dpEngineStop_enginesStay h.same) h)))

/-- Of the registers of the engines, a new state of engine `n` changes its STATE alone. -/
theorem State.engSet_enginesStay (s : State) (n x : Nat) : EnginesStay (s.p (Reg.ENG.STATUS.STATE n) x) (s.engSet n x) := by
  unfold State.engSet
  extract_lets was y e z
  have hy : EnginesStay (s.p (Reg.ENG.STATUS.STATE n) x) y := (EnginesStay.refl _).same
  have hz : EnginesStay (s.p (Reg.ENG.STATUS.STATE n) x) z := hy.trans (y.beatAt_enginesStay n y.clock)
  exact .ite (fun _ => State.engWorkStops_enginesStay hy n) (.ite (fun _ => .ite (fun _ => State.aliveRefresh_enginesStay hz)
    (.ite (fun _ => State.tchResume_enginesStay hz) hz)) hy)

theorem State.engSet_steady (s : State) (n x : Nat) : Steady s (s.engSet n x) :=
  (State.p_steady (Steady.refl s) (Reg.ENG.STATUS.STATE n) x).trans (s.engSet_enginesStay n x).toSteady

theorem State.engSet_state (s : State) (n : Nat) {x : Nat} (hx : x < 8) : (s.engSet n x).g (Reg.ENG.STATUS.STATE n) = x := by
  rw [(s.engSet_enginesStay n x).g (Reg.ENG.STATUS.STATE n), State.g_p_same _ _ _ (show 0 + 3 ≤ 32 by decide)]
  exact Nat.mod_eq_of_lt hx

theorem State.engSet_g (s : State) (n x : Nat) (f : FRef) (hf : engineAddr f.addr := by dsimp only [engineAddr]; omega)
    (ha : (Reg.ENG.STATUS.STATE n).apart f := by dsimp only [FRef.apart]; omega) : (s.engSet n x).g f = s.g f := by
  rw [(s.engSet_enginesStay n x).g f hf, State.g_p_apart _ _ ha]

theorem State.engSet_gb (s : State) (n x : Nat) (f : FRef) (hf : engineAddr f.addr := by dsimp only [engineAddr]; omega)
    (ha : (Reg.ENG.STATUS.STATE n).apart f := by dsimp only [FRef.apart]; omega) : (s.engSet n x).gb f = s.gb f := by
  unfold State.gb
  rw [s.engSet_g n x f hf ha]

/-- The state that the control bits `enable` and `halt` and the firmware give an engine (R22, R23). -/
def restState (enable halt loaded : Bool) : Nat := if !enable || !loaded then 0 else if halt then 3 else 2

theorem State.engRest_eq (s : State) (n : Nat) :
    s.engRest n = restState (s.gb (Reg.ENG.CTRL.ENABLE n)) (s.gb (Reg.ENG.CTRL.HALT n)) (s.engine n).loaded := rfl

theorem restState_lt (enable halt loaded : Bool) : restState enable halt loaded < 8 := by
  cases enable <;> cases halt <;> cases loaded <;> decide

/-! ### A fault (R23, R24) -/

theorem State.engFaultNote_steady (s : State) (n cause : Nat) : Steady s (s.engFaultNote n cause) := by
  unfold State.engFaultNote
  split
  · exact Steady.refl s
  · exact State.p_steady (State.p_steady (Steady.refl s) (Reg.ENG.FAULT.VALID n) _) (Reg.ENG.FAULT.CAUSE n) _

theorem State.engFaultNote_g (s : State) (n cause : Nat) (f : FRef) (ha : f.addr ≠ 0x10900108 + 0x20 * n := by dsimp only; omega) :
    (s.engFaultNote n cause).g f = s.g f := by
  unfold State.engFaultNote State.pb
  split
  · rfl
  · rw [State.g_p_apart _ _ (.inl ha.symm), State.g_p_apart _ _ (.inl ha.symm)]

/-- FAULT keeps the cause where it held none. -/
theorem State.engFaultNote_first {cause : Nat} (h : s.gb (Reg.ENG.FAULT.VALID n) = false) (hc : cause < 256) :
    (s.engFaultNote n cause).gb (Reg.ENG.FAULT.VALID n) = true ∧
      (s.engFaultNote n cause).g (Reg.ENG.FAULT.CAUSE n) = cause := by
  unfold State.engFaultNote
  rw [h, if_neg Bool.false_ne_true]
  constructor
  · rw [State.gb_p_apart _ _ (by dsimp only [FRef.apart]; omega), State.gb_pb_same s (Reg.ENG.FAULT.VALID n)]
  · rw [State.g_p_same _ _ _ (show 0 + 8 ≤ 32 by decide)]
    exact Nat.mod_eq_of_lt hc

/-- Engine `n` put into FAULT, and the cause noted. -/
def State.engStopped (s : State) (n cause : Nat) : State := (s.engSet n 4).engFaultNote n cause

theorem State.engStopped_steady (s : State) (n cause : Nat) : Steady s (s.engStopped n cause) :=
  (s.engSet_steady n 4).trans (State.engFaultNote_steady _ n cause)

theorem State.engStopped_g (s : State) (n cause : Nat) (f : FRef) (hf : engineAddr f.addr := by dsimp only [engineAddr]; omega)
    (hs : (Reg.ENG.STATUS.STATE n).apart f := by dsimp only [FRef.apart]; omega)
    (hn : f.addr ≠ 0x10900108 + 0x20 * n := by dsimp only; omega) : (s.engStopped n cause).g f = s.g f := by
  rw [State.engStopped, State.engFaultNote_g _ _ _ f hn, s.engSet_g n 4 f hf hs]

theorem State.engStopped_gb (s : State) (n cause : Nat) (f : FRef) (hf : engineAddr f.addr := by dsimp only [engineAddr]; omega)
    (hs : (Reg.ENG.STATUS.STATE n).apart f := by dsimp only [FRef.apart]; omega)
    (hn : f.addr ≠ 0x10900108 + 0x20 * n := by dsimp only; omega) : (s.engStopped n cause).gb f = s.gb f := by
  unfold State.gb
  rw [s.engStopped_g n cause f hf hs hn]

theorem State.engStopped_state (s : State) (n cause : Nat) : (s.engStopped n cause).g (Reg.ENG.STATUS.STATE n) = 4 := by
  rw [State.engStopped, State.engFaultNote_g _ _ _ (Reg.ENG.STATUS.STATE n), s.engSet_state n (by decide)]

/-- The first fault of an engine since FAULT was cleared is kept there. -/
theorem State.engStopped_first {cause : Nat} (h : s.gb (Reg.ENG.FAULT.VALID n) = false) (hc : cause < 256) :
    (s.engStopped n cause).gb (Reg.ENG.FAULT.VALID n) = true ∧ (s.engStopped n cause).g (Reg.ENG.FAULT.CAUSE n) = cause :=
  State.engFaultNote_first ((s.engSet_gb n 4 (Reg.ENG.FAULT.VALID n)).trans h) hc

/-- Engine `n` as a fault leaves it before any restart. -/
def State.engFaulted (s : State) (n cause : Nat) : State :=
  ((s.masterReset (engMaster n)).engStopped n cause).raise Ev.engineFault (n + 256 * cause)

section Faulted

variable (s : State) (n cause : Nat)

theorem State.engFaulted_reset : EnginesStay s (s.masterReset (engMaster n)) :=
  State.masterReset_enginesStay (EnginesStay.refl s) _

theorem State.engFaulted_raise : EnginesStay ((s.masterReset (engMaster n)).engStopped n cause) (s.engFaulted n cause) :=
  State.raise_enginesStay (EnginesStay.refl _) _ _

theorem State.engFaulted_steady : Steady s (s.engFaulted n cause) :=
  (s.engFaulted_reset n).toSteady.trans ((State.engStopped_steady _ n cause).trans (s.engFaulted_raise n cause).toSteady)

theorem State.engFaulted_g (f : FRef) (hf : engineAddr f.addr := by dsimp only [engineAddr]; omega)
    (hs : (Reg.ENG.STATUS.STATE n).apart f := by dsimp only [FRef.apart]; omega)
    (hn : f.addr ≠ 0x10900108 + 0x20 * n := by dsimp only; omega) : (s.engFaulted n cause).g f = s.g f := by
  rw [(s.engFaulted_raise n cause).g f hf, State.engStopped_g _ n cause f hf hs hn, (s.engFaulted_reset n).g f hf]

theorem State.engFaulted_gb (f : FRef) (hf : engineAddr f.addr := by dsimp only [engineAddr]; omega)
    (hs : (Reg.ENG.STATUS.STATE n).apart f := by dsimp only [FRef.apart]; omega)
    (hn : f.addr ≠ 0x10900108 + 0x20 * n := by dsimp only; omega) : (s.engFaulted n cause).gb f = s.gb f := by
  unfold State.gb
  rw [s.engFaulted_g n cause f hf hs hn]

theorem State.engFaulted_state : (s.engFaulted n cause).g (Reg.ENG.STATUS.STATE n) = 4 := by
  rw [(s.engFaulted_raise n cause).g (Reg.ENG.STATUS.STATE n), State.engStopped_state]

end Faulted

theorem State.engFaulted_first {cause : Nat} (h : s.gb (Reg.ENG.FAULT.VALID n) = false) (hc : cause < 256) :
    (s.engFaulted n cause).gb (Reg.ENG.FAULT.VALID n) = true ∧ (s.engFaulted n cause).g (Reg.ENG.FAULT.CAUSE n) = cause := by
  rw [(s.engFaulted_raise n cause).gb (Reg.ENG.FAULT.VALID n), (s.engFaulted_raise n cause).g (Reg.ENG.FAULT.CAUSE n)]
  exact State.engStopped_first (((s.engFaulted_reset n).gb (Reg.ENG.FAULT.VALID n)).trans h) hc

theorem State.engFaulted_evStatus (h : s.coreOn = true) (n cause : Nat) :
    (s.engFaulted n cause).evStatus Ev.engineFault = true := by
  refine State.raise_stands _ _ _ (by decide) ?_
  rw [(State.engStopped_steady _ n cause).coreOn, (s.engFaulted_reset n).coreOn, h]

/-- A Curator core never restarts by itself, nor does an engine with AUTO_RESTART at 0 (R24). -/
theorem State.engFault_of_noRestart {cause : Nat} (h : n < 2 ∨ s.gb (Reg.ENG.CTRL.AUTO_RESTART n) = false) :
    s.engFault n cause = s.engFaulted n cause := by
  refine if_neg fun hr => ?_
  obtain ⟨h2, ha, _⟩ := hr
  have ha' : s.gb (Reg.ENG.CTRL.AUTO_RESTART n) = true := by
    rw [← s.engFaulted_gb n cause (Reg.ENG.CTRL.AUTO_RESTART n)]; exact ha
  rcases h with h | h
  · omega
  · rw [h] at ha'
    exact Bool.false_ne_true ha'

/-! ### An automatic restart (R24) -/

/-- Engine `n` reset and reloaded, before it takes its state. -/
def State.engReloaded (s : State) (n : Nat) : State :=
  let e := s.engine n
  let s := ((s.masterReset (engMaster n)).p (Reg.ENG.HEARTBEAT.COUNT n) 0).engSet n 0
  s.engLoad n e.loadOff (s.bytes e.copyAddr e.copyLen)

theorem State.engReset_enginesStay (s : State) (n : Nat) :
    EnginesStay s ((s.masterReset (engMaster n)).p (Reg.ENG.HEARTBEAT.COUNT n) 0) :=
  State.p_enginesStay (State.masterReset_enginesStay (EnginesStay.refl s) _) (Reg.ENG.HEARTBEAT.COUNT n) 0

theorem State.engReloaded_steady (s : State) (n : Nat) : Steady s (s.engReloaded n) :=
  ((s.engReset_enginesStay n).toSteady.trans (State.engSet_steady _ n 0)).same

theorem State.engReloaded_g (s : State) (n : Nat) (f : FRef) (hf : engineAddr f.addr := by dsimp only [engineAddr]; omega)
    (ha : (Reg.ENG.STATUS.STATE n).apart f := by dsimp only [FRef.apart]; omega) : (s.engReloaded n).g f = s.g f :=
  (State.engSet_g _ n 0 f hf ha).trans ((s.engReset_enginesStay n).g f hf)

theorem State.engReloaded_gb (s : State) (n : Nat) (f : FRef) (hf : engineAddr f.addr := by dsimp only [engineAddr]; omega)
    (ha : (Reg.ENG.STATUS.STATE n).apart f := by dsimp only [FRef.apart]; omega) : (s.engReloaded n).gb f = s.gb f := by
  unfold State.gb
  rw [s.engReloaded_g n f hf ha]

/-- An engine whose restart copy reads without an ECC error is reloaded and takes the state of its control bits. -/
theorem State.engReload_of_intact (h : s.eccHit (s.engine n).copyAddr (s.engine n).copyLen = false) :
    s.engReload n = (s.engReloaded n).engSet n ((s.engReloaded n).engRest n) := by
  have hk := (s.engReset_enginesStay n).toSteady.trans (State.engSet_steady _ n 0)
  unfold State.engReload
  extract_lets e x y z
  rw [hk.eccHit h]
  rfl

theorem State.engReload_steady (h : s.eccHit (s.engine n).copyAddr (s.engine n).copyLen = false) : Steady s (s.engReload n) := by
  rw [State.engReload_of_intact h]
  exact (s.engReloaded_steady n).trans (State.engSet_steady _ n _)

theorem State.engReload_state (h : s.eccHit (s.engine n).copyAddr (s.engine n).copyLen = false) :
    (s.engReload n).g (Reg.ENG.STATUS.STATE n) = s.engRest n := by
  rw [State.engReload_of_intact h, State.engSet_state _ _ (by rw [State.engRest_eq]; exact restState_lt _ _ _),
    State.engRest_eq, State.engRest_eq, s.engReloaded_gb n (Reg.ENG.CTRL.ENABLE n), s.engReloaded_gb n (Reg.ENG.CTRL.HALT n),
    (s.engReloaded_steady n).loaded]

theorem State.engReload_g (h : s.eccHit (s.engine n).copyAddr (s.engine n).copyLen = false) (f : FRef)
    (hf : engineAddr f.addr := by dsimp only [engineAddr]; omega)
    (ha : (Reg.ENG.STATUS.STATE n).apart f := by dsimp only [FRef.apart]; omega) : (s.engReload n).g f = s.g f := by
  rw [State.engReload_of_intact h, State.engSet_g _ n _ f hf ha, s.engReloaded_g n f hf ha]

/-- Engine `n` restarted: reloaded, the restart counted and its clock noted. -/
def State.engRestarted (s : State) (n : Nat) : State :=
  let s := (s.engReload n).incSat (Reg.ENG.STATUS.RESTARTS n)
  s.setEngine n { s.engine n with restartAt := some s.clock }

/-- A fault restarts an engine with AUTO_RESTART at 1 that has not restarted before (R24). -/
theorem State.engFault_of_restart {cause : Nat} (h2 : 2 ≤ n) (ha : s.gb (Reg.ENG.CTRL.AUTO_RESTART n) = true)
    (hr : (s.engine n).restartAt = none) : s.engFault n cause = (s.engFaulted n cause).engRestarted n := by
  have hf : ((s.engFaulted n cause).engine n).restartAt = none := by rw [(s.engFaulted_steady n cause).restartAt, hr]
  have hauto : (s.engFaulted n cause).gb (Reg.ENG.CTRL.AUTO_RESTART n) = true := by
    rw [s.engFaulted_gb n cause (Reg.ENG.CTRL.AUTO_RESTART n), ha]
  unfold State.engFault
  extract_lets x y recent z
  have hrecent : recent = false := by
    unfold recent
    rw [show (y.engine n).restartAt = none from hf]
  exact if_pos ⟨h2, hauto, hrecent⟩

/-- What a restart from an intact copy makes of an engine. -/
theorem State.engRestarted_spec (h : s.eccHit (s.engine n).copyAddr (s.engine n).copyLen = false) :
    (s.engRestarted n).g (Reg.ENG.STATUS.STATE n) = s.engRest n ∧
    (s.engRestarted n).g (Reg.ENG.STATUS.RESTARTS n) = min (s.g (Reg.ENG.STATUS.RESTARTS n) + 1) (2 ^ 8 - 1) ∧
    ((s.engRestarted n).engine n).restartAt = some s.clock ∧
    ∀ i < 64, s.evStatus i = true → (s.engRestarted n).evStatus i = true := by
  have hk : Steady s ((s.engReload n).incSat (Reg.ENG.STATUS.RESTARTS n)) := State.p_steady (State.engReload_steady h) _ _
  unfold State.engRestarted
  refine ⟨?_, ?_, ?_, fun i hi hs => ?_⟩
  · rw [State.setEngine_g, State.incSat, State.incSatBy, State.g_p_apart _ _ (by dsimp only [FRef.apart]; omega),
      State.engReload_state h]
  · rw [State.setEngine_g, State.incSat, State.incSatBy, State.g_p_same _ _ _ (show 24 + 8 ≤ 32 by decide),
      State.engReload_g h (Reg.ENG.STATUS.RESTARTS n)]
    exact Nat.mod_eq_of_lt (by dsimp only; omega)
  · rw [State.engine_setEngine_same, hk.clock]
  · rw [State.setEngine_evStatus]
    exact hk.evStatus hi hs

end Read

end Sys2Proof.Machine
end

section
/-! PROOF. The commands of the engines: what a write of ENG[n].CTRL makes of an engine, and what its faults make of it (R21 to R24,
R452). -/

-- One lemma after the other: elaborated side by side, they take more threads than the memory of the check holds.
set_option Elab.async false

namespace Sys2Proof.Machine

/-! ### The word of ENG[n].CTRL (R4, R21) -/

/-- The fields of CTRL: AUTO_RESTART, DEBUG_EN, HALT and ENABLE. -/
def engCtrlFields : List RegField :=
  [fAny 3 1 .rw 0 .s false, fAny 2 1 .rw 0 .h false, fAny 1 1 .rw 0 .s false, fAny 0 1 .rw 0 .s false]

theorem regFields_engCtrl : ∀ n : Fin 24, regFields (Reg.ENG.CTRL.ENABLE n.val).addr = some engCtrlFields := by decide

theorem accessMask_engCtrl (n : Fin 24) :
    accessMask .rw (Reg.ENG.CTRL.ENABLE n.val).addr ||| accessMask .rwk (Reg.ENG.CTRL.ENABLE n.val).addr = 15#32 := by
  unfold accessMask
  rw [regFields_engCtrl n]
  decide

/-- The word of CTRL once `v` is written to it: its four fields are RW and take every value. -/
def engCtrlWord (v w : Word) : Word :=
  fieldSet (fieldSet (fieldSet (fieldSet w 3 1 (fieldGet v 3 1)) 2 1 (fieldGet v 2 1)) 1 1 (fieldGet v 1 1)) 0 1 (fieldGet v 0 1)

/-- An RW field of which every value is legal takes what is written. -/
theorem takeField_rw (isOpen : Bool) (v : Word) (t : Taken) (lo width reset : Nat) (rank : Rank) (keep : Bool) :
    takeField isOpen v t (fAny lo width .rw reset rank keep) =
      { t with word := fieldSet t.word lo width (fieldGet v lo width) } := by
  have hv : fieldGet v lo width ≤ 2 ^ width - 1 := Nat.le_sub_one_of_lt (fieldGet_lt v lo width)
  simp [takeField, fAny, hv]

theorem takeFields_engCtrl (isOpen : Bool) (v w : Word) :
    takeFields isOpen v 0 w engCtrlFields = ⟨engCtrlWord v w, false, false⟩ := by
  have hf : engCtrlFields.filter (fun f => fieldGet 0 f.lo f.width == 0) = engCtrlFields := by decide
  unfold takeFields
  rw [hf]
  simp only [engCtrlFields, List.foldl_cons, List.foldl_nil, takeField_rw, engCtrlWord]

theorem fieldGet_engCtrlWord_enable (v w : Word) : fieldGet (engCtrlWord v w) 0 1 = fieldGet v 0 1 := by
  unfold engCtrlWord
  rw [fieldGet_fieldSet_same _ _ (by decide)]
  exact Nat.mod_eq_of_lt (fieldGet_lt v 0 1)

theorem fieldGet_engCtrlWord_halt (v w : Word) : fieldGet (engCtrlWord v w) 1 1 = fieldGet v 1 1 := by
  unfold engCtrlWord
  rw [fieldGet_fieldSet_ne _ _ (by decide), fieldGet_fieldSet_same _ _ (by decide)]
  exact Nat.mod_eq_of_lt (fieldGet_lt v 1 1)

/-- A field within the low four bits of a word. -/
theorem fieldGet_and_15 (w : Word) {lo width : Nat} (h : lo + width ≤ 4) : fieldGet (w &&& 15#32) lo width = fieldGet w lo width := by
  refine Nat.eq_of_testBit_eq fun i => ?_
  rw [fieldGet_testBit, fieldGet_testBit, BitVec.toNat_and, Nat.testBit_and,
    show (15#32).toNat = 2 ^ 4 - 1 by decide, Nat.testBit_two_pow_sub_one]
  by_cases hi : i < width
  · simp [show lo + i < 4 by omega]
  · simp [hi]

section Word

variable (s : State) (n : Fin 24) (b : Bool)

/-- The word that sets ENABLE holds HALT as it is. -/
theorem State.fieldWord_enable : fieldGet (s.fieldWord (Reg.ENG.CTRL.ENABLE n.val) b.toNat) 0 1 = b.toNat ∧
    fieldGet (s.fieldWord (Reg.ENG.CTRL.ENABLE n.val) b.toNat) 1 1 = s.g (Reg.ENG.CTRL.HALT n.val) := by
  unfold State.fieldWord
  rw [accessMask_engCtrl]
  constructor
  · rw [fieldGet_fieldSet_same _ _ (by dsimp only; omega)]
    cases b <;> rfl
  · rw [fieldGet_fieldSet_ne _ _ (by dsimp only; omega), fieldGet_and_15 _ (by decide)]
    rfl

/-- The word that sets HALT holds ENABLE as it is. -/
theorem State.fieldWord_halt : fieldGet (s.fieldWord (Reg.ENG.CTRL.HALT n.val) b.toNat) 1 1 = b.toNat ∧
    fieldGet (s.fieldWord (Reg.ENG.CTRL.HALT n.val) b.toNat) 0 1 = s.g (Reg.ENG.CTRL.ENABLE n.val) := by
  unfold State.fieldWord
  rw [accessMask_engCtrl n]
  constructor
  · rw [fieldGet_fieldSet_same _ _ (by dsimp only; omega)]
    cases b <;> rfl
  · rw [fieldGet_fieldSet_ne _ _ (by dsimp only; omega), fieldGet_and_15 _ (by decide)]
    rfl

end Word

/-! ### A write of ENG[n].CTRL (R21, R22, R452) -/

@[simp] theorem State.advance_mayWrite (s : State) (dt m a : Nat) : (s.advance dt).mayWrite m a = s.mayWrite m a := by
  simp [State.mayWrite, State.hasRight]

@[simp] theorem State.advance_engine (s : State) (dt n : Nat) : (s.advance dt).engine n = s.engine n := by
  simp [State.engine]

theorem State.ctlWrite_of_mayWrite {s : State} {m a : Nat} {v : Word} {act : State → State} (hc : s.coreOn = true)
    (hw : s.mayWrite m a = true) : s.ctlWrite m a v act = act ((s.ctlServed m).respond false []) := by
  have hi : s.issues m = true := by
    unfold State.mayWrite at hw
    exact (Bool.and_eq_true_iff.1 hw).1
  obtain ⟨hp, hq⟩ := State.issues_iff.1 hi
  simp [State.ctlWrite, hc, hp, hq, hw]

/-- What a write of `v` to the CTRL of an engine makes of it, unless it leaves ENABLE of a FAULT engine at 1: the control bits
written decide with the firmware what the engine does. -/
theorem engCtrlWrite_spec (m : Nat) (n : Fin 24) (v : Word) (s : State)
    (h : s.g (Reg.ENG.STATUS.STATE n.val) ≠ 4 ∨ fieldGet v 0 1 = 0) :
    (engCtrlWrite m n.val v s).g (Reg.ENG.CTRL.ENABLE n.val) = fieldGet v 0 1 ∧
    (engCtrlWrite m n.val v s).g (Reg.ENG.CTRL.HALT n.val) = fieldGet v 1 1 ∧
    (engCtrlWrite m n.val v s).g (Reg.ENG.STATUS.STATE n.val) =
      restState (fieldGet v 0 1 != 0) (fieldGet v 1 1 != 0) (s.engine n.val).loaded := by
  have ht := State.writeFields_of_take (s := s.wdogKeep) (m := m) (regFields_engCtrl n)
    (takeFields_engCtrl (s.wdogKeep.windowOpen _) v _)
  unfold engCtrlWrite
  rw [ht]
  extract_lets was t
  have he : t.g (Reg.ENG.CTRL.ENABLE n.val) = fieldGet v 0 1 :=
    (congrArg (fun w => fieldGet w 0 1) (State.reg_setReg_same _ _ _)).trans (fieldGet_engCtrlWord_enable v _)
  have hh : t.g (Reg.ENG.CTRL.HALT n.val) = fieldGet v 1 1 :=
    (congrArg (fun w => fieldGet w 1 1) (State.reg_setReg_same _ _ _)).trans (fieldGet_engCtrlWord_halt v _)
  have hrest : t.engRest n.val = restState (fieldGet v 0 1 != 0) (fieldGet v 1 1 != 0) (s.engine n.val).loaded := by
    rw [State.engRest_eq, State.gb, State.gb, he, hh]
    rfl
  have hno : ¬ (was = 4 ∧ t.gb (Reg.ENG.CTRL.ENABLE n.val) = true) := by
    rintro ⟨h4, hen⟩
    rcases h with h | h
    · exact h h4
    · rw [State.gb, he, h] at hen
      exact Bool.false_ne_true hen
  rw [if_neg hno, State.engSet_g _ _ _ (Reg.ENG.CTRL.ENABLE n.val), State.engSet_g _ _ _ (Reg.ENG.CTRL.HALT n.val),
    State.engSet_state _ _ (by rw [hrest]; exact restState_lt _ _ _)]
  exact ⟨he, hh, hrest⟩

/-- A write of CTRL by a master with the right, after time has passed. -/
theorem State.ctlWrite_engCtrl {s : State} {m : Nat} {n : Fin 24} {v : Word} (dt : Nat) (hc : s.coreOn = true)
    (hw : s.mayWrite m (Reg.ENG.CTRL.ENABLE n.val).addr = true)
    (h : s.g (Reg.ENG.STATUS.STATE n.val) ≠ 4 ∨ fieldGet v 0 1 = 0) {t : State}
    (ht : (s.advance dt).ctlWrite m (Reg.ENG.CTRL.ENABLE n.val).addr v (engCtrlWrite m n.val v) = t) :
    t.gb (Reg.ENG.CTRL.ENABLE n.val) = (fieldGet v 0 1 != 0) ∧ t.gb (Reg.ENG.CTRL.HALT n.val) = (fieldGet v 1 1 != 0) ∧
      t.g (Reg.ENG.STATUS.STATE n.val) = restState (fieldGet v 0 1 != 0) (fieldGet v 1 1 != 0) (s.engine n.val).loaded := by
  have hs : EnginesStay (s.advance dt) (((s.advance dt).ctlServed m).respond false []) :=
    EnginesStay.same (State.ctlServed_enginesStay (EnginesStay.refl _) m)
  have h' : (((s.advance dt).ctlServed m).respond false []).g (Reg.ENG.STATUS.STATE n.val) ≠ 4 ∨ fieldGet v 0 1 = 0 := by
    rwa [hs.g (Reg.ENG.STATUS.STATE n.val), State.advance_g]
  rw [State.ctlWrite_of_mayWrite (by simpa using hc) (by simpa using hw)] at ht
  subst ht
  obtain ⟨he, hh, hx⟩ := engCtrlWrite_spec m n v _ h'
  refine ⟨congrArg (fun x => x != 0) he, congrArg (fun x => x != 0) hh, hx.trans ?_⟩
  rw [hs.loaded, State.advance_engine]

section Commands

variable {s : State} {m : Master} {n : Fin 24} (dt : Nat) (hc : s.coreOn = true)
  (hw : s.mayWrite m.val (Reg.ENG.CTRL.ENABLE n.val).addr = true)
include hc hw

/-- What a command that sets ENABLE to `b` makes of an engine. -/
theorem State.enable_spec (b : Bool) (h : s.g (Reg.ENG.STATUS.STATE n.val) ≠ 4 ∨ b = false) {t : State} {v : Word}
    (hv : (s.advance dt).fieldWord (Reg.ENG.CTRL.ENABLE n.val) b.toNat = v)
    (ht : (s.advance dt).ctlWrite m.val (Reg.ENG.CTRL.ENABLE n.val).addr v (engCtrlWrite m.val n.val v) = t) :
    t.gb (Reg.ENG.CTRL.ENABLE n.val) = b ∧
      t.g (Reg.ENG.STATUS.STATE n.val) = restState b (s.gb (Reg.ENG.CTRL.HALT n.val)) (s.engine n.val).loaded := by
  obtain ⟨h0, h1⟩ := (s.advance dt).fieldWord_enable n b
  rw [hv] at h0 h1
  have hb : (b.toNat != 0) = b := by cases b <;> rfl
  obtain ⟨he, _, hx⟩ := State.ctlWrite_engCtrl dt hc hw (h.imp_right fun h => by rw [h0, h]; rfl) ht
  rw [h0, hb] at he hx
  rw [h1, State.advance_g] at hx
  exact ⟨he, hx⟩

/-- What a command that sets HALT to `b` makes of an engine. -/
theorem State.halt_spec (b : Bool) (h : s.g (Reg.ENG.STATUS.STATE n.val) ≠ 4) {t : State} {v : Word}
    (hv : (s.advance dt).fieldWord (Reg.ENG.CTRL.HALT n.val) b.toNat = v)
    (ht : (s.advance dt).ctlWrite m.val (Reg.ENG.CTRL.HALT n.val).addr v (engCtrlWrite m.val n.val v) = t) :
    t.gb (Reg.ENG.CTRL.HALT n.val) = b ∧
      t.g (Reg.ENG.STATUS.STATE n.val) = restState (s.gb (Reg.ENG.CTRL.ENABLE n.val)) b (s.engine n.val).loaded := by
  obtain ⟨h1, h0⟩ := (s.advance dt).fieldWord_halt n b
  rw [hv] at h0 h1
  have hb : (b.toNat != 0) = b := by cases b <;> rfl
  obtain ⟨_, hh, hx⟩ := State.ctlWrite_engCtrl dt hc hw (.inl h) ht
  rw [h1, hb] at hh hx
  rw [h0, State.advance_g] at hx
  exact ⟨hh, hx⟩

end Commands

/-- Settles O10: each command writes one bit of CTRL and leaves the others, and the bits decide with the firmware what the engine
does. -/
theorem engineStartStop : Obligations.EngineStartStop := by
  refine ⟨fun dt m n s hc hw hl hh hs => ?_, fun dt m n s hc hw hl hs => ?_, fun dt m n s hc hw => ?_,
    fun dt m n s hc hw hl he hs => ?_, fun dt m n s hc hw hl he hs => ?_⟩
  · obtain ⟨hen, hx⟩ := State.enable_spec dt hc hw true (.inl hs) rfl rfl
    exact ⟨_, rfl, hen, hx.trans (by rw [hh, hl]; rfl)⟩
  · obtain ⟨hen, hx⟩ := State.enable_spec dt hc hw true (.inl (by rw [hs]; decide)) rfl rfl
    exact ⟨_, rfl, hen, hx.trans (by rw [hl]; rfl)⟩
  · obtain ⟨hen, hx⟩ := State.enable_spec dt hc hw false (.inr rfl) rfl rfl
    exact ⟨_, rfl, hen, hx⟩
  · obtain ⟨hha, hx⟩ := State.halt_spec dt hc hw true hs rfl rfl
    exact ⟨_, rfl, hha, hx.trans (by rw [he, hl]; rfl)⟩
  · obtain ⟨hha, hx⟩ := State.halt_spec dt hc hw false hs rfl rfl
    exact ⟨_, rfl, hha, hx.trans (by rw [he, hl]; rfl)⟩

/-! ### Faults (R22 to R24) -/

section Faults

variable {s : State} {n cause : Nat}

/-- A fault with no restart: the engine is in FAULT, which keeps the cause, and EV_ENGINE_FAULT stands. -/
theorem State.engFault_spec_of_noRestart (hc : s.coreOn = true) (ha : n < 2 ∨ s.gb (Reg.ENG.CTRL.AUTO_RESTART n) = false)
    (hv : s.gb (Reg.ENG.FAULT.VALID n) = false) (hk : cause < 256) :
    (s.engFault n cause).g (Reg.ENG.STATUS.STATE n) = 4 ∧ (s.engFault n cause).gb (Reg.ENG.FAULT.VALID n) = true ∧
      (s.engFault n cause).g (Reg.ENG.FAULT.CAUSE n) = cause ∧ (s.engFault n cause).evStatus Ev.engineFault = true := by
  obtain ⟨hv', hk'⟩ := State.engFaulted_first hv hk
  rw [State.engFault_of_noRestart ha]
  exact ⟨s.engFaulted_state n cause, hv', hk', State.engFaulted_evStatus hc n cause⟩

/-- A fault with a restart: the engine runs again. -/
theorem State.engFault_spec_of_restart (hc : s.coreOn = true) (h2 : 2 ≤ n) (ha : s.gb (Reg.ENG.CTRL.AUTO_RESTART n) = true)
    (hr : (s.engine n).restartAt = none) (he : s.eccHit (s.engine n).copyAddr (s.engine n).copyLen = false) :
    (s.engFault n cause).g (Reg.ENG.STATUS.STATE n) = s.engRest n ∧
      (s.engFault n cause).g (Reg.ENG.STATUS.RESTARTS n) = min (s.g (Reg.ENG.STATUS.RESTARTS n) + 1) (2 ^ 8 - 1) ∧
      ((s.engFault n cause).engine n).restartAt = some s.clock ∧ (s.engFault n cause).evStatus Ev.engineFault = true := by
  have hk := s.engFaulted_steady n cause
  have hi : (s.engFaulted n cause).eccHit ((s.engFaulted n cause).engine n).copyAddr
      ((s.engFaulted n cause).engine n).copyLen = false := by
    rw [hk.copyAddr, hk.copyLen]
    exact hk.eccHit he
  have hrest : (s.engFaulted n cause).engRest n = s.engRest n := by
    rw [State.engRest_eq, State.engRest_eq, s.engFaulted_gb n cause (Reg.ENG.CTRL.ENABLE n),
      s.engFaulted_gb n cause (Reg.ENG.CTRL.HALT n), hk.loaded]
  obtain ⟨hx, hn, hat, hev⟩ := State.engRestarted_spec hi
  rw [State.engFault_of_restart h2 ha hr]
  refine ⟨hx.trans hrest, ?_, by rw [hat, hk.clock], hev _ (by decide) (State.engFaulted_evStatus hc n cause)⟩
  rw [hn, s.engFaulted_g n cause (Reg.ENG.STATUS.RESTARTS n)]

theorem State.engRunning_of_state (h : s.g (Reg.ENG.STATUS.STATE n) = 2) : s.engRunning n = true := by
  unfold State.engRunning
  rw [h]
  rfl

theorem engineFault_of_running (hc : s.coreOn = true) (h : s.g (Reg.ENG.STATUS.STATE n) = 2) :
    engineFault n cause s = s.engFault n cause := by
  unfold engineFault
  rw [hc, State.engRunning_of_state h]
  rfl

theorem engineStall_of_stood (hc : s.coreOn = true) (h2 : 2 ≤ n) (h : s.g (Reg.ENG.STATUS.STATE n) = 2)
    (hb : (s.engine n).beatAt + 100000000 ≤ s.clock) : engineStall n s = s.engFault n 5 := by
  unfold engineStall
  rw [hc, State.engRunning_of_state h, decide_eq_true h2, decide_eq_true hb]
  rfl

theorem engineCauseCode_lt (c : EngineCause) : engineCauseCode c < 256 := by cases c <;> decide

/-- The Curator cores put into FAULT with the LOCKSTEP cause, and the event raised (R23). -/
def State.coresStopped (s : State) : State := ((s.engStopped 0 6).engStopped 1 6).raise Ev.lockstep 0

theorem State.coresStopped_spec (hc : s.coreOn = true) (hk : s.gb Reg.ENG.INFO.LOCKSTEP_OK = false)
    (hv0 : s.gb (Reg.ENG.FAULT.VALID 0) = false) (hv1 : s.gb (Reg.ENG.FAULT.VALID 1) = false) : s.coresStopped.g (Reg.ENG.STATUS.STATE 0) = 4 ∧ s.coresStopped.g (Reg.ENG.STATUS.STATE 1) = 4 ∧
      s.coresStopped.gb Reg.ENG.INFO.LOCKSTEP_OK = false ∧
      s.coresStopped.g (Reg.ENG.FAULT.CAUSE 0) = 6 ∧ s.coresStopped.g (Reg.ENG.FAULT.CAUSE 1) = 6 ∧
      s.coresStopped.evStatus Ev.lockstep = true := by
  have hr : EnginesStay ((s.engStopped 0 6).engStopped 1 6) s.coresStopped := State.raise_enginesStay (EnginesStay.refl _) _ _
  have hv1' : (s.engStopped 0 6).gb (Reg.ENG.FAULT.VALID 1) = false := by rw [s.engStopped_gb 0 6 (Reg.ENG.FAULT.VALID 1), hv1]
  refine ⟨?_, ?_, ?_, ?_, ?_, State.raise_stands _ _ _ (by decide) ?_⟩
  · rw [hr.g (Reg.ENG.STATUS.STATE 0), State.engStopped_g _ 1 6 (Reg.ENG.STATUS.STATE 0), State.engStopped_state]
  · rw [hr.g (Reg.ENG.STATUS.STATE 1), State.engStopped_state]
  · rw [hr.gb Reg.ENG.INFO.LOCKSTEP_OK, State.engStopped_gb _ 1 6 Reg.ENG.INFO.LOCKSTEP_OK,
      s.engStopped_gb 0 6 Reg.ENG.INFO.LOCKSTEP_OK, hk]
  · rw [hr.g (Reg.ENG.FAULT.CAUSE 0), State.engStopped_g _ 1 6 (Reg.ENG.FAULT.CAUSE 0)]
    exact (State.engStopped_first hv0 (by decide)).2
  · rw [hr.g (Reg.ENG.FAULT.CAUSE 1)]
    exact (State.engStopped_first hv1' (by decide)).2
  · rw [(State.engStopped_steady _ 1 6).coreOn, (s.engStopped_steady 0 6).coreOn, hc]

/-- A mismatch of the running Curator cores clears LOCKSTEP_OK and puts both into FAULT (R23). -/
theorem lockstepMismatch_of_running (hc : s.coreOn = true) (h0 : s.g (Reg.ENG.STATUS.STATE 0) = 2)
    (h1 : s.g (Reg.ENG.STATUS.STATE 1) = 2) :
    lockstepMismatch s = ((s.masterReset 0).pb Reg.ENG.INFO.LOCKSTEP_OK false).coresStopped := by
  unfold lockstepMismatch
  rw [hc, State.engRunning_of_state h0, State.engRunning_of_state h1]
  rfl

/-- FAULT and CORE after LOCKSTEP_OK is cleared are as they were. -/
theorem State.lockstepCleared_spec (s : State) (m : Nat) :
    ((s.masterReset m).pb Reg.ENG.INFO.LOCKSTEP_OK false).gb Reg.ENG.INFO.LOCKSTEP_OK = false ∧
      ((s.masterReset m).pb Reg.ENG.INFO.LOCKSTEP_OK false).coreOn = s.coreOn ∧
      ∀ n, ((s.masterReset m).pb Reg.ENG.INFO.LOCKSTEP_OK false).gb (Reg.ENG.FAULT.VALID n) = s.gb (Reg.ENG.FAULT.VALID n) := by
  have hr := State.masterReset_enginesStay (EnginesStay.refl s) m
  refine ⟨State.gb_pb_same _ Reg.ENG.INFO.LOCKSTEP_OK false, hr.coreOn, fun n => ?_⟩
  rw [State.pb, State.gb_p_apart _ _ (.inl (by dsimp only; omega)), hr.gb (Reg.ENG.FAULT.VALID n)]

end Faults

/-- Settles O11: a fault puts the engine into FAULT, and with AUTO_RESTART it is reloaded and takes the state of its control bits;
that a mismatch puts both Curator cores into FAULT is the model's reading (log entry 67). -/
theorem engineFaults : Obligations.EngineFaults := by
  refine ⟨fun dt n s hc h2 hx hb ha hv => ?_, fun dt n c s hc hx ha hv => ?_, fun dt n c s hc h2 hx ha he hh hl hr hecc => ?_,
    fun dt s hc h0 h1 hv0 hv1 => ?_⟩
  · refine ⟨_, rfl, ?_⟩
    rw [engineStall_of_stood (by simpa using hc) h2 (by simpa using hx) (by simpa using hb)]
    exact State.engFault_spec_of_noRestart (by simpa using hc) (.inr (by simpa using ha)) (by simpa using hv) (by decide)
  · refine ⟨_, rfl, ?_⟩
    rw [engineFault_of_running (by simpa using hc) (by simpa using hx)]
    exact State.engFault_spec_of_noRestart (by simpa using hc) (by simpa using ha) (by simpa using hv) (engineCauseCode_lt c)
  · refine ⟨_, rfl, ?_⟩
    have hrest : (s.advance dt).engRest n.val = 2 := by
      rw [State.engRest_eq, State.advance_gb, State.advance_gb, State.advance_engine, he, hh, hl]
      rfl
    obtain ⟨hx', hn, hat, hev⟩ := State.engFault_spec_of_restart (s := s.advance dt) (cause := engineCauseCode c)
      (by simpa using hc) h2 (by simpa using ha) (by simpa using hr) (by simpa [State.eccHit] using hecc)
    rw [engineFault_of_running (by simpa using hc) (by simpa using hx)]
    exact ⟨hx'.trans hrest, by rw [hn, State.advance_g], by rw [hat, State.advance_clock], hev⟩
  · refine ⟨_, rfl, ?_⟩
    obtain ⟨hok, hcore, hvalid⟩ := (s.advance dt).lockstepCleared_spec 0
    rw [lockstepMismatch_of_running (by simpa using hc) (by simpa using h0) (by simpa using h1)]
    exact State.coresStopped_spec (by rw [hcore]; simpa using hc) hok (by rw [hvalid]; simpa using hv0) (by rw [hvalid]; simpa using hv1)

end Sys2Proof.Machine
end

section
/-! PROOF. Memory: the bytes stored read back, and every other byte and every register stays (R37, R414). -/

namespace Sys2Proof.Machine

/-- Bytes written to a memory read back one by one from where the first stands; every other byte reads as before. -/
theorem Tab.get_cellsWrite (bs : List Byte) (mem : List Host.Cell) (a x : Nat) :
    Tab.get 0 x (cellsWrite mem a bs) =
      if a ≤ x ∧ x < a + bs.length then bs.getD (x - a) 0 else Tab.get 0 x mem := by
  induction bs generalizing mem a with
  | nil =>
    rw [cellsWrite, if_neg (by simp only [List.length_nil]; omega)]
  | cons b bs ih =>
    rw [cellsWrite, ih, List.length_cons]
    rcases Nat.lt_trichotomy x a with hx | rfl | hx
    · rw [if_neg (by omega), if_neg (by omega), Tab.get_put_ne _ _ (by omega)]
    · rw [if_neg (by omega), if_pos (by omega), Tab.get_put_same, Nat.sub_self, List.getD_cons_zero]
    · have hsub : x - a = x - (a + 1) + 1 := by omega
      by_cases hin : x < a + 1 + bs.length
      · rw [if_pos (by omega), if_pos (by omega), hsub, List.getD_cons_succ]
      · rw [if_neg (by omega), if_neg (by omega), Tab.get_put_ne _ _ (by omega)]

/-- Settles O6, by induction on the bytes stored; a store touches no register. -/
theorem storedBytesReadBack : Obligations.StoredBytesReadBack :=
  fun s a bs x => ⟨Tab.get_cellsWrite bs s.mem a x, fun _ => rfl⟩

end Sys2Proof.Machine
end

section
/-! PROOF. The SEQ block as a control write finds it: who may write it, and what an access served leaves of what it reads (R75,
R413). -/

namespace Sys2Proof.Machine

/-! ### The right to write SEQ (R75) -/

/-- In the SEQ block the Curator and the boot loader alone may write. -/
theorem State.hasRight_seq (s : State) (m : Nat) {a : Nat} (hlo : 0x100B0000 ≤ a) (hhi : a < 0x100C0000) :
    s.hasRight m a = decide (m ≤ 1) := by
  have hno : ∀ lo hi, hi ≤ 0x100B0000 ∨ 0x100C0000 ≤ lo → inRange lo hi a = false := fun lo hi h => by
    simp [inRange]; omega
  simp [State.hasRight, hno]

/-- The Curator and the boot loader may write SEQ where their port accepts and nothing waits there. -/
theorem State.mayWrite_seq {s : State} {m a : Nat} (hi : s.issues m = true) (hm : m ≤ 1) (hlo : 0x100B0000 ≤ a)
    (hhi : a < 0x100C0000) : s.mayWrite m a = true := by
  rw [State.mayWrite, hi, State.hasRight_seq s m hlo hhi, decide_eq_true hm]
  rfl

/-! ### Fields after a run of updates, with side conditions that `decide` settles for fields given by name -/

theorem State.g_p_val (s : State) (f : FRef) (v : Nat) (h : f.lo + f.width ≤ 32 ∧ v < 2 ^ f.width) : (s.p f v).g f = v := by
  rw [State.g_p_same _ _ _ h.1, Nat.mod_eq_of_lt h.2]

theorem State.g_p_other (s : State) (f f' : FRef) (v : Nat)
    (h : f.addr ≠ f'.addr ∨ f.lo + f.width ≤ f'.lo ∨ f'.lo + f'.width ≤ f.lo) : (s.p f v).g f' = s.g f' :=
  State.g_p_apart s v h

theorem State.raise_g_other (s : State) (i arg : Nat) (f : FRef)
    (h : i < 64 ∧ (f.addr < 0x10040000 ∨ (0x10060000 ≤ f.addr ∧ f.addr < 0x100A0000) ∨ 0x100B0000 ≤ f.addr)) :
    (s.raise i arg).g f = s.g f :=
  State.raise_g s i arg h.1 h.2

/-- What the block holds beyond its registers is no register. -/
theorem State.withSeq_g (s : State) (q : SeqState) (f : FRef) : ({ s with seq := q } : State).g f = s.g f := rfl

/-! ### What the block reads -/

section Served

variable (s : State) (dt m : Nat)

/-- An access served after time has passed leaves what lies beside the event block, the matrix and the error log. -/
theorem State.served_aside : Aside (s.advance dt) (((s.advance dt).ctlServed m).respond false []) :=
  State.respond_aside (State.ctlServed_aside (Aside.refl _) m) _ _

theorem State.served_g (f : FRef) (hf : quietAddr f.addr := by unfold quietAddr; decide) :
    (((s.advance dt).ctlServed m).respond false []).g f = s.g f := by
  rw [(s.served_aside dt m).g hf, State.advance_g]

theorem State.served_gb (f : FRef) (hf : quietAddr f.addr := by unfold quietAddr; decide) :
    (((s.advance dt).ctlServed m).respond false []).gb f = s.gb f := by
  rw [(s.served_aside dt m).gb hf, State.advance_gb]

theorem State.served_headRuns (n : Nat) (hn : n < 64) :
    (((s.advance dt).ctlServed m).respond false []).headRuns n = s.headRuns n := by
  unfold State.headRuns
  rw [s.served_g dt m _ (by unfold quietAddr; dsimp only; omega)]

end Served

/-- The pages are what memory holds. -/
theorem State.page_congr {s t : State} (h : t.mem = s.mem) (p : Nat) : t.page p = s.page p := by
  funext i
  unfold State.page State.le State.bytes
  rw [h]

/-- STATUS says which page is staging. -/
theorem State.stagePage_congr {s t : State} (h : t.reg 0x100B0004 = s.reg 0x100B0004) : t.stagePage = s.stagePage := by
  unfold State.stagePage State.gb State.g
  rw [h]

theorem State.livePage_congr {s t : State} (h : t.reg 0x100B0004 = s.reg 0x100B0004) : t.livePage = s.livePage := by
  unfold State.livePage State.gb State.g
  rw [h]

end Sys2Proof.Machine
end

section
/-! PROOF. Keystones: the refusals of a commit, and a boot keystone with no head running (R59, R65). -/

namespace Sys2Proof.Machine

/-! ### The refusals of R59 -/

section Refusals

variable {s : State} (T : Int) (boot : Bool)

theorem State.keyCommit_of_notValid (hv : s.gb Reg.SEQ.STATUS.STAGE_VALID = false) :
    s.keyCommit T boot = s.p Reg.SEQ.KEY_STATUS.RESULT 5 := by
  simp [State.keyCommit, hv]

theorem State.keyCommit_of_switching (hv : s.gb Reg.SEQ.STATUS.STAGE_VALID = true)
    (hk : s.g Reg.SEQ.STATUS.KEY_STATE = 2) : s.keyCommit T boot = s.p Reg.SEQ.KEY_STATUS.RESULT 6 := by
  simp [State.keyCommit, hv, hk]

theorem State.keyCommit_of_pointLow (hv : s.gb Reg.SEQ.STATUS.STAGE_VALID = true)
    (hk : s.g Reg.SEQ.STATUS.KEY_STATE ≠ 2)
    (hp : pgPoint (s.page s.stagePage) < s.g Reg.DMC.FSP_STATUS.CURRENT) :
    s.keyCommit T boot = s.p Reg.SEQ.KEY_STATUS.RESULT 7 := by
  simp [State.keyCommit, hv, hk, hp]

end Refusals

/-- A write of COMMIT alone is a commit at KEY_TIME. -/
theorem State.keyCtrl_commit (s : State) :
    s.keyCtrl 1 = s.keyCommit s.keyTime (decide (s.boot.phase = .reading ∧ s.boot.step = 10)) := by
  unfold State.keyCtrl
  rw [if_neg (show ¬ fieldGet 1 1 1 = 1 by decide), if_pos (show fieldGet 1 0 1 = 1 by decide)]

/-- A commit whose refusal writes `code` alone shows it in RESULT and changes nothing else but the matrix's counts. -/
theorem execKeystoneCommit_refused {s : State} {dt code : Nat} {m : Master} (hcode : code < 16) (hc : s.coreOn = true)
    (hi : s.issues m.val = true) (hm : m.val ≤ 1)
    (h : ∀ T boot, (((s.advance dt).ctlServed m.val).respond false []).keyCommit T boot =
      (((s.advance dt).ctlServed m.val).respond false []).p Reg.SEQ.KEY_STATUS.RESULT code) :
    ∃ t : State, exec (.keystoneCommit dt m) s = .next t ∧
      t.g Reg.SEQ.KEY_STATUS.RESULT = code ∧
      t.g Reg.SEQ.KEY_STATUS.HEADS_LEFT = s.g Reg.SEQ.KEY_STATUS.HEADS_LEFT ∧
      (∀ a, a ≠ 0x100B0030 → (a < 0x100A0000 ∨ 0x100B0000 ≤ a) → t.reg a = s.reg a) ∧
      (∀ x, t.byte x = s.byte x) ∧ t.seq = s.seq := by
  have hw : (s.advance dt).mayWrite m.val 0x100B002C = true := by
    rw [State.advance_mayWrite]
    exact State.mayWrite_seq hi hm (by decide) (by decide)
  have hx : (s.advance dt).ctlWrite m.val 0x100B002C 1 (fun s => s.keyCtrl 1) =
      (((s.advance dt).ctlServed m.val).respond false []).p Reg.SEQ.KEY_STATUS.RESULT code := by
    rw [State.ctlWrite_of_mayWrite (by simpa using hc) hw, State.keyCtrl_commit]
    exact h _ _
  refine ⟨_, congrArg Host.Outcome.next hx, ?_, ?_, fun a ha hq => ?_, fun x => by simp [State.byte], by simp⟩
  · exact State.g_p_val _ _ _ ⟨by decide, hcode⟩
  · rw [State.g_p_other _ _ _ _ (by decide), State.served_g s dt m.val Reg.SEQ.KEY_STATUS.HEADS_LEFT]
  · rw [State.reg_p_ne _ _ ha, State.served_reg s dt m.val hq]

/-- Settles O12: each case of R59 writes its RESULT and nothing else; that the cases are tested in the order of the table is the
model's reading (log entry 23). -/
theorem refusedCommitChangesNothingElse : Obligations.RefusedCommitChangesNothingElse := by
  refine ⟨fun dt m s hc hi hm hv => ?_, fun dt m s hc hi hm hv hk => ?_, fun dt m s hc hi hm hv hk hp => ?_⟩
  all_goals rw [← s.served_gb dt m.val Reg.SEQ.STATUS.STAGE_VALID] at hv
  · exact execKeystoneCommit_refused (by decide) hc hi hm fun T boot => State.keyCommit_of_notValid T boot hv
  · rw [← s.served_g dt m.val Reg.SEQ.STATUS.KEY_STATE] at hk
    exact execKeystoneCommit_refused (by decide) hc hi hm fun T boot => State.keyCommit_of_switching T boot hv hk
  · rw [← s.served_g dt m.val Reg.SEQ.STATUS.KEY_STATE] at hk
    have hstage := State.stagePage_congr (s.served_reg dt m.val (a := 0x100B0004) (by decide))
    rw [← s.served_g dt m.val Reg.DMC.FSP_STATUS.CURRENT, ← hstage,
      ← State.page_congr (show (((s.advance dt).ctlServed m.val).respond false []).mem = s.mem by simp)] at hp
    exact execKeystoneCommit_refused (by decide) hc hi hm fun T boot => State.keyCommit_of_pointLow T boot hv hk hp

/-! ### The boot keystone (R65) -/

/-- Counting the heads that do not run as switched writes KEY_SWITCHED alone. -/
theorem State.keyCountIdle_stays (s : State) :
    s.keyCountIdle.seq = s.seq ∧ ∀ f : FRef, f.addr ≠ 0x100B0034 → f.addr ≠ 0x100B0038 → s.keyCountIdle.g f = s.g f := by
  refine List.foldlRecOn (motive := fun t : State => t.seq = s.seq ∧
    ∀ f : FRef, f.addr ≠ 0x100B0034 → f.addr ≠ 0x100B0038 → t.g f = s.g f) _ _ ⟨rfl, fun _ _ _ => rfl⟩ fun t ht n _ => ?_
  obtain ⟨hseq, hg⟩ := ht
  unfold State.keyBit
  split
  · exact ⟨hseq, fun f hlo hhi => (State.g_p_apart _ _ (.inl hlo.symm)).trans (hg f hlo hhi)⟩
  · exact ⟨hseq, fun f hlo hhi => (State.g_p_apart _ _ (.inl hhi.symm)).trans (hg f hlo hhi)⟩

theorem State.keyCountIdle_headRuns (s : State) (n : Nat) : s.keyCountIdle.headRuns n = s.headRuns n := by
  unfold State.headRuns
  rw [s.keyCountIdle_stays.2 (Reg.HEAD.STATUS.RUN_STATE n) (by dsimp only; omega) (by dsimp only; omega)]

/-- A keystone that has completed is IDLE (R62). -/
theorem State.keyComplete_keyState (s : State) : s.keyComplete.g Reg.SEQ.STATUS.KEY_STATE = 0 := by
  unfold State.keyComplete
  simp (disch := decide) only [State.raise_g_other, State.withSeq_g, State.g_p_other, State.g_p_val]

/-- A keystone just committed that applies at each head's next latch point. -/
def State.keyStarted (s : State) (T : Int) : State :=
  let s := (s.p Reg.SEQ.KEY_SWITCHED_LO.HEADS 0).p Reg.SEQ.KEY_SWITCHED_HI.HEADS 0
  let s := (s.p Reg.SEQ.STATUS.KEY_STATE 1).p Reg.SEQ.KEY_STATUS.RESULT 1
  { s with seq := { s.seq with keyT := T, keyNow := true, taken := [] } }

theorem State.keyStarted_keyState (s : State) (T : Int) : (s.keyStarted T).g Reg.SEQ.STATUS.KEY_STATE = 1 := by
  unfold State.keyStarted
  simp (disch := decide) only [State.withSeq_g, State.g_p_other, State.g_p_val]

theorem State.keyStarted_headRuns (s : State) (T : Int) (n : Nat) : (s.keyStarted T).headRuns n = s.headRuns n := by
  have hg : (s.keyStarted T).g (Reg.HEAD.STATUS.RUN_STATE n) = s.g (Reg.HEAD.STATUS.RUN_STATE n) := by
    unfold State.keyStarted
    rw [State.withSeq_g]
    iterate 4 rw [State.g_p_apart _ _ (.inl (by dsimp only; omega))]
  unfold State.headRuns
  rw [hg]

/-- The boot keystone applies at once whatever LIVE_VALID and T are, and with no head running it completes (R62, R65). -/
theorem State.keyCommit_boot {s : State} (T : Int) (hv : s.gb Reg.SEQ.STATUS.STAGE_VALID = true)
    (hk : s.g Reg.SEQ.STATUS.KEY_STATE ≠ 2) (hp : s.g Reg.DMC.FSP_STATUS.CURRENT ≤ pgPoint (s.page s.stagePage))
    (hrun : ∀ n < 64, s.headRuns n = false) : (s.keyCommit T true).g Reg.SEQ.STATUS.KEY_STATE = 0 := by
  have hstart : s.keyCommit T true = (s.keyStarted T).keyCountIdle.keyCheck := by
    unfold State.keyCommit
    rw [hv, if_neg (by decide), if_neg hk, if_neg (Nat.not_lt.2 hp)]
    rfl
  obtain ⟨hseq, hg⟩ := (s.keyStarted T).keyCountIdle_stays
  have hkey : (s.keyStarted T).keyCountIdle.g Reg.SEQ.STATUS.KEY_STATE = 1 :=
    (hg _ (by decide) (by decide)).trans (s.keyStarted_keyState T)
  have hleft : (s.keyStarted T).keyCountIdle.keyLeft = [] := List.filter_eq_nil_iff.2 fun n hn => by
    rw [State.keyCountIdle_headRuns, State.keyStarted_headRuns, hrun n (mem_allHeads hn)]
    exact Bool.false_ne_true
  have hnow : (s.keyStarted T).keyCountIdle.keyReached = true := by
    unfold State.keyReached
    rw [hseq]
    rfl
  rw [hstart, State.keyCheck, if_pos ⟨by rw [hkey]; decide, hleft, .inr hnow⟩]
  exact State.keyComplete_keyState _

/-- The boot loader at step 10 of R452 after a software full reset, which keeps LIVE_VALID (R480): a staged page is valid, T lies in
the future, and no head runs. -/
def bootKeystone : State :=
  let s := { State.reset with boot := { State.reset.boot with phase := .reading, step := 10 } }
  ((s.pb Reg.SEQ.STATUS.STAGE_VALID true).pb Reg.SEQ.STATUS.LIVE_VALID true).p Reg.SEQ.KEY_TIME_SEC_LO.SEC_LO 9

theorem bootKeystone_headRuns (n : Nat) (hn : n < 64) : bootKeystone.headRuns n = false := by
  have hreset : ∀ n : Fin 64, resetWord (0x10400004 + 0x1000 * n.val) = 0 := by decide +kernel
  have hg : bootKeystone.g (Reg.HEAD.STATUS.RUN_STATE n) = fieldGet (resetWord (0x10400004 + 0x1000 * n)) 0 2 := by
    unfold bootKeystone State.pb
    iterate 3 rw [State.g_p_apart _ _ (.inl (by dsimp only; omega))]
    rfl
  unfold State.headRuns
  rw [hg, hreset ⟨n, hn⟩]
  rfl

/-- Refutes O13: a commit at step 10 of R452 is the boot keystone, which does not wait for T whatever LIVE_VALID holds (R65), so that
with no head running it completes at once: KEY_STATE is IDLE, not PENDING. -/
theorem not_keystoneRuns : ¬ Obligations.KeystoneRuns := by
  intro h
  obtain ⟨t, ht, hpending, -⟩ := h.1 0 1 bootKeystone (by decide) (by decide) (by decide) (by decide) (by decide) (by decide)
    (by decide)
  have hx : (bootKeystone.advance 0).ctlWrite 1 0x100B002C 1 (fun s => s.keyCtrl 1) =
      (((bootKeystone.advance 0).ctlServed 1).respond false []).keyCtrl 1 :=
    State.ctlWrite_of_mayWrite (by decide) (by decide)
  have hidle : ((((bootKeystone.advance 0).ctlServed 1).respond false []).keyCtrl 1).g Reg.SEQ.STATUS.KEY_STATE = 0 := by
    rw [State.keyCtrl_commit, show decide _ = true by decide]
    exact State.keyCommit_boot _ (by decide) (by decide) (by decide) fun n hn =>
      (State.served_headRuns _ _ _ n hn).trans (bootKeystone_headRuns n hn)
  have he : t = (bootKeystone.advance 0).ctlWrite 1 0x100B002C 1 (fun s => s.keyCtrl 1) := (Host.Outcome.next.inj ht).symm
  rw [he, hx, hidle] at hpending
  exact absurd hpending (by decide)

end Sys2Proof.Machine
end

section
/-! PROOF. A write of a SEQ register that has fields of its own: what it leaves, and the words of AMD_CMD and PRESET_CTRL (R4, R69,
R73). -/

namespace Sys2Proof.Machine

/-! ### Fields of a word -/

theorem fieldGet_or (v w : Word) (lo width : Nat) :
    fieldGet (v ||| w) lo width = fieldGet v lo width ||| fieldGet w lo width := by
  refine Nat.eq_of_testBit_eq fun i => ?_
  rw [Nat.testBit_or, fieldGet_testBit, fieldGet_testBit, fieldGet_testBit, BitVec.toNat_or, Nat.testBit_or, Bool.and_or_distrib_left]

/-- Bits set elsewhere leave a field. -/
theorem fieldGet_or_zero (v : Word) {w : Word} {lo width : Nat} (h : fieldGet w lo width = 0) :
    fieldGet (v ||| w) lo width = fieldGet v lo width := by
  rw [fieldGet_or, h, Nat.or_zero]

/-- A bit that is set reads 1. -/
theorem fieldGet_or_one (v : Word) {w : Word} {lo : Nat} (h : fieldGet w lo 1 = 1) : fieldGet (v ||| w) lo 1 = 1 := by
  have hv := fieldGet_lt v lo 1
  rw [fieldGet_or, h]
  interval_cases fieldGet v lo 1 <;> rfl

/-! ### What a write leaves -/

/-- From `s` to `t` a write of the register at `a` was served: every other quiet register stays, and so does all that SEQ
reads beside registers. -/
structure WordWritten (a : Nat) (s t : State) : Prop where
  reg : ∀ b, quietAddr b → b ≠ a → t.reg b = s.reg b
  coreOn : t.coreOn = s.coreOn
  mem : t.mem = s.mem
  seq : t.seq = s.seq
  heads : t.heads = s.heads
  img : t.img = s.img

theorem WordWritten.g {a : Nat} {s t : State} (h : WordWritten a s t) (f : FRef)
    (hf : quietAddr f.addr := by unfold quietAddr; decide) (ha : f.addr ≠ a := by decide) : t.g f = s.g f := by
  unfold State.g
  rw [h.reg _ hf ha]

theorem WordWritten.gb {a : Nat} {s t : State} (h : WordWritten a s t) (f : FRef)
    (hf : quietAddr f.addr := by unfold quietAddr; decide) (ha : f.addr ≠ a := by decide) : t.gb f = s.gb f := by
  unfold State.gb
  rw [h.g f hf ha]

theorem State.errLog_mem (s : State) (r : ErrRecord) : (s.errLog r).mem = s.mem := by
  unfold State.errLog
  split
  · split <;> rfl
  · rfl

/-- The records of a write touch neither quiet registers nor memory. -/
theorem State.logTaken_stays (s : State) (m a : Nat) (v : Word) (t : Taken) :
    Aside s (s.logTaken m a v t) ∧ (s.logTaken m a v t).mem = s.mem := by
  have hrec (c : Bool) (x : State) (r : ErrRecord) (hx : Aside s x ∧ x.mem = s.mem) :
      Aside s (if c then x.errLog r else x) ∧ (if c then x.errLog r else x).mem = s.mem := by
    cases c
    · exact hx
    · exact ⟨State.errLog_aside hx.1 r, (x.errLog_mem r).trans hx.2⟩
  exact hrec _ _ _ (hrec _ _ _ ⟨Aside.refl s, rfl⟩)

/-- The fields written by a control write served after time has passed. -/
theorem State.writeFields_written (s : State) (dt m a : Nat) (v : Word) :
    WordWritten a s ((((s.advance dt).ctlServed m).respond false []).writeFields m a v 0) := by
  have hx := s.served_aside dt m
  have hreg (b : Nat) (hb : quietAddr b) := (hx.reg b hb).trans (s.advance_reg dt b)
  have hmem : (((s.advance dt).ctlServed m).respond false []).mem = s.mem := by simp
  have hcore := hx.coreOn.trans (s.advance_coreOn dt)
  have hseq := hx.seq.trans (s.advance_seq dt)
  have hheads := hx.heads.trans (s.advance_heads dt)
  have himg := hx.img.trans (s.advance_img dt)
  generalize ((s.advance dt).ctlServed m).respond false [] = x at *
  unfold State.writeFields
  extract_lets t
  obtain ⟨ha, hm⟩ := (x.setReg a t.word).logTaken_stays m a v t
  refine ⟨fun b hb hab => ?_, ha.coreOn.trans hcore, hm.trans hmem, ha.seq.trans hseq, ha.heads.trans hheads, ha.img.trans himg⟩
  rw [ha.reg b hb, State.reg_setReg_ne _ hab, hreg b hb]

/-- The word that a write leaves in a quiet register. -/
theorem State.writeFields_reg (s : State) {m a : Nat} {v : Word} (ha : quietAddr a) {fs : List RegField}
    (hf : regFields a = some fs) :
    (s.writeFields m a v 0).reg a = (takeFields (s.windowOpen a) v 0 (s.reg a) fs).word := by
  unfold State.writeFields
  extract_lets t
  rw [((s.setReg a t.word).logTaken_stays m a v t).1.reg a ha, State.reg_setReg_same]
  unfold t
  rw [hf]
  rfl

/-! ### AMD_CMD and PRESET_CTRL -/

/-- With no field skipped every field is written in turn. -/
theorem takeFields_all (isOpen : Bool) (v w : Word) (fs : List RegField) :
    takeFields isOpen v 0 w fs = fs.foldl (takeField isOpen v) ⟨w, false, false⟩ := by
  unfold takeFields
  rw [List.filter_eq_self.2 fun f _ => ?_]
  simp [fieldGet]

/-- A W1S field keeps what it holds. -/
theorem takeField_w1s (isOpen : Bool) (v : Word) (t : Taken) (lo width reset : Nat) (rank : Rank) (keep : Bool) :
    takeField isOpen v t (fAny lo width .w1s reset rank keep) = t := rfl

/-- An RW field takes a value that is not reserved. -/
theorem takeField_rw_legal (isOpen : Bool) {v : Word} (t : Taken) {lo width lower upper : Nat} (reset : Nat) (rank : Rank)
    (keep : Bool) (hl : lower ≤ fieldGet v lo width) (hu : fieldGet v lo width ≤ upper) :
    takeField isOpen v t (fIn lo width .rw reset rank keep lower upper) =
      { t with word := fieldSet t.word lo width (fieldGet v lo width) } := by
  simp [takeField, fIn, hl, hu]

/-- AMD_CMD takes WINDOW, and KIND where it is not reserved. -/
theorem State.writeFields_amdCmd (s : State) (m : Nat) {v : Word} (hk : fieldGet v 12 3 ≤ 5) :
    (s.writeFields m 0x100B0040 v 0).g Reg.SEQ.AMD_CMD.KIND = fieldGet v 12 3 ∧
      (s.writeFields m 0x100B0040 v 0).g Reg.SEQ.AMD_CMD.WINDOW = fieldGet v 0 10 := by
  have hw := s.writeFields_reg (m := m) (a := 0x100B0040) (v := v) (by unfold quietAddr; decide)
    (fs := [fAny 31 1 .w1s 0 .s false, fIn 12 3 .rw 0 .s false 0 5, fAny 0 10 .rw 0 .s false]) (by decide)
  unfold State.g
  rw [hw, takeFields_all]
  simp only [List.foldl_cons, List.foldl_nil, takeField_w1s, takeField_rw, takeField_rw_legal _ _ _ _ _ (Nat.zero_le _) hk]
  rw [fieldGet_fieldSet_ne _ _ (by decide), fieldGet_fieldSet_same _ _ (by decide), fieldGet_fieldSet_same _ _ (by decide)]
  exact ⟨Nat.mod_eq_of_lt (fieldGet_lt v 12 3), Nat.mod_eq_of_lt (fieldGet_lt v 0 10)⟩

/-- PRESET_CTRL takes SELECT. -/
theorem State.writeFields_presetCtrl (s : State) (m : Nat) (v : Word) :
    (s.writeFields m 0x100B0050 v 0).g Reg.SEQ.PRESET_CTRL.SELECT = fieldGet v 0 5 := by
  have hw := s.writeFields_reg (m := m) (a := 0x100B0050) (v := v) (by unfold quietAddr; decide)
    (fs := [fAny 9 1 .rw 0 .s false, fAny 8 1 .w1s 0 .s false, fAny 0 5 .rw 0 .s false]) (by decide)
  unfold State.g
  rw [hw, takeFields_all]
  simp only [List.foldl_cons, List.foldl_nil, takeField_w1s, takeField_rw]
  rw [fieldGet_fieldSet_same _ _ (by decide)]
  exact Nat.mod_eq_of_lt (fieldGet_lt v 0 5)

end Sys2Proof.Machine
end

section
/-! PROOF. Amendments: what POST makes of one that fails a check, and of one that waits for running heads (R69, R70, R524). -/

namespace Sys2Proof.Machine

/-! ### The checks of R524 -/

theorem State.amendCheck_of_noLivePage {s : State} (h : s.gb Reg.SEQ.STATUS.LIVE_VALID = false) (kind window arg0 arg1 : Nat) :
    s.amendCheck kind window arg0 arg1 = 3 := by
  simp [State.amendCheck, State.livePage, h]

/-- Outcomes fit LAST_RESULT. -/
theorem State.amendCheck_lt (s : State) (kind window arg0 arg1 : Nat) : s.amendCheck kind window arg0 arg1 < 16 := by
  unfold State.amendCheck
  split
  · decide
  · extract_lets
    repeat' split
    all_goals decide

/-- The checks read no word of AMD_CMD: what they find is as it was before its write. -/
theorem WordWritten.amendCheck {s t : State} (h : WordWritten 0x100B0040 s t) (kind window arg0 arg1 : Nat) :
    t.amendCheck kind window arg0 arg1 = s.amendCheck kind window arg0 arg1 := by
  have hlive := State.livePage_congr (h.reg 0x100B0004 (by unfold quietAddr; decide) (by decide))
  have hsrc : arg0 % 512 < 512 := Nat.mod_lt _ (by decide)
  have hdram (a n : Nat) : t.inDram a n = s.inDram a n := by
    unfold State.inDram State.dramBytes
    rw [h.g Reg.DMC.CONFIG.DENSITY]
  unfold State.amendCheck
  rw [hlive]
  cases s.livePage with
  | none => rfl
  | some p =>
    dsimp only
    rw [State.page_congr h.mem, hdram, h.seq,
      h.g (Reg.ING.SRC.TYPE (arg0 % 512)) (by unfold quietAddr; dsimp only; omega) (by dsimp only; omega),
      h.g (Reg.ING.SRC.WIDTH_M1 (arg0 % 512)) (by unfold quietAddr; dsimp only; omega) (by dsimp only; omega),
      h.g (Reg.ING.SRC.HEIGHT_M1 (arg0 % 512)) (by unfold quietAddr; dsimp only; omega) (by dsimp only; omega)]

/-! ### POST -/

/-- The next ticket follows the last one modulo 256. -/
theorem State.inc_nextTicket (s : State) : (s.inc Reg.SEQ.AMD_STATUS.NEXT_TICKET).g Reg.SEQ.AMD_STATUS.NEXT_TICKET =
    (s.g Reg.SEQ.AMD_STATUS.NEXT_TICKET + 1) % 256 :=
  State.g_p_same _ _ _ (by decide)

/-- A completed amendment shows its ticket and outcome, and EV_AMEND_DONE stands (R70). -/
theorem State.amendDone_spec {s : State} {ticket outcome : Nat} (hc : s.coreOn = true) (ht : ticket < 256) (ho : outcome < 16) :
    (s.amendDone ticket outcome).g Reg.SEQ.AMD_STATUS.NEXT_TICKET = s.g Reg.SEQ.AMD_STATUS.NEXT_TICKET ∧
      (s.amendDone ticket outcome).g Reg.SEQ.AMD_STATUS.LAST_TICKET = ticket ∧
      (s.amendDone ticket outcome).g Reg.SEQ.AMD_STATUS.LAST_RESULT = outcome ∧
      (s.amendDone ticket outcome).evStatus Ev.amendDone = true ∧
      (s.amendDone ticket outcome).seq = s.seq ∧ (s.amendDone ticket outcome).heads = s.heads := by
  unfold State.amendDone
  refine ⟨?_, ?_, ?_, State.raise_stands _ _ _ (by decide) hc, State.raise_seq _ _ _ (by decide),
    State.raise_heads _ _ _ (by decide)⟩
  · simp (disch := decide) only [State.raise_g_other, State.g_p_other]
  · simp (disch := decide) only [State.raise_g_other, State.g_p_other]
    exact State.g_p_val _ _ _ ⟨by decide, ht⟩
  · simp (disch := decide) only [State.raise_g_other]
    exact State.g_p_val _ _ _ ⟨by decide, ho⟩

/-- What POST makes of head `n` for an amendment being posted. -/
def State.amendVisit (r : State × Amend) (n : Nat) : State × Amend :=
  if n ∈ r.1.seq.taken then (r.1, r.2.after n 5)
  else if r.1.headRuns n ∨ r.1.g Reg.SEQ.STATUS.KEY_STATE = 2 then (r.1, { r.2 with left := r.2.left ++ [n] })
  else
    let t := r.1.amendApply r.2 n
    (t.1, r.2.after n (if t.2 then 6 else 0))

/-- An amendment shown to its heads completes where none is left, and is queued where one is. -/
def State.amendSettle (ticket : Nat) (r : State × Amend) : State :=
  if r.2.left.isEmpty then r.1.amendDone ticket r.2.outcome
  else { r.1 with seq := { r.1.seq with amends := r.1.seq.amends ++ [r.2] } }

/-- POST takes a ticket; an amendment that fails a check completes, any other is shown to the heads that it affects. -/
theorem State.amendPost_eq {s x : State} {kind window arg0 arg1 : Nat} (hx : s.inc Reg.SEQ.AMD_STATUS.NEXT_TICKET = x)
    (hk : s.g Reg.SEQ.AMD_CMD.KIND = kind) (hw : s.g Reg.SEQ.AMD_CMD.WINDOW = window)
    (h0 : s.g Reg.SEQ.AMD_ARG0.ARG0 = arg0) (h1 : s.g Reg.SEQ.AMD_ARG1.ARG1 = arg1) :
    s.amendPost =
      if s.amendCheck kind window arg0 arg1 ≠ 0 then
        x.amendDone (s.g Reg.SEQ.AMD_STATUS.NEXT_TICKET) (s.amendCheck kind window arg0 arg1)
      else State.amendSettle (s.g Reg.SEQ.AMD_STATUS.NEXT_TICKET)
        ((if kind = 5 then [window] else windowHeads (x.page x.livePage.get!) window).foldl State.amendVisit
          (x, ⟨s.g Reg.SEQ.AMD_STATUS.NEXT_TICKET, kind, window, arg0, arg1, if kind = 5 then x.vitCrc arg0 else 0,
            x.g Reg.SEQ.STATUS.KEY_STATE == 2, 0, []⟩)) := by
  subst hx hk hw h0 h1
  rfl

/-- An amendment waits for every running head that has not switched. -/
theorem State.amendVisit_running {s : State} {l : List Nat} (h : ∀ n ∈ l, s.headRuns n = true ∧ n ∉ s.seq.taken) (a : Amend) :
    l.foldl State.amendVisit (s, a) = (s, { a with left := a.left ++ l }) := by
  induction l generalizing a with
  | nil => simp
  | cons n l ih =>
    obtain ⟨hrun, htaken⟩ := h n List.mem_cons_self
    have hn : State.amendVisit (s, a) n = (s, { a with left := a.left ++ [n] }) := by
      simp [State.amendVisit, htaken, hrun]
    rw [List.foldl_cons, hn, ih fun k hk => h k (List.mem_cons_of_mem n hk)]
    simp

/-- One left with heads to reach is queued. -/
theorem State.amendSettle_waiting (s : State) (ticket : Nat) {a : Amend} (h : a.left ≠ []) :
    State.amendSettle ticket (s, a) = { s with seq := { s.seq with amends := s.seq.amends ++ [a] } } := by
  unfold State.amendSettle
  rw [if_neg (by simpa using h)]

/-- POST as AMEND_POST writes it: the word's POST bit is set, and WINDOW and KIND are the word's. -/
theorem amdCmdWrite_post (s : State) (m : Nat) (v : Word) :
    amdCmdWrite m (v ||| 0x80000000) s = (s.writeFields m 0x100B0040 (v ||| 0x80000000) 0).amendPost := by
  unfold amdCmdWrite
  exact if_pos (fieldGet_or_one v (by decide))

section Post

variable {s : State} {m : Master} (dt : Nat) (v : Word) (hc : s.coreOn = true) (hw : s.mayWrite m.val 0x100B0040 = true)
include hc hw

theorem execAmendPost_eq : exec (.amendPost dt m v) s = .next
    ((((s.advance dt).ctlServed m.val).respond false []).writeFields m.val 0x100B0040 (v ||| 0x80000000) 0).amendPost := by
  rw [← amdCmdWrite_post]
  exact congrArg Host.Outcome.next (State.ctlWrite_of_mayWrite (by simpa using hc) (by simpa using hw))

end Post

/-- An amendment posted into a state where it fails a check takes its ticket and completes. -/
theorem State.amendPost_failed {s t : State} (h : WordWritten 0x100B0040 s t) (hc : s.coreOn = true) {bad : Nat}
    (hbad : t.amendCheck (t.g Reg.SEQ.AMD_CMD.KIND) (t.g Reg.SEQ.AMD_CMD.WINDOW) (t.g Reg.SEQ.AMD_ARG0.ARG0)
      (t.g Reg.SEQ.AMD_ARG1.ARG1) = bad) (hne : bad ≠ 0) :
    t.amendPost.g Reg.SEQ.AMD_STATUS.NEXT_TICKET = (s.g Reg.SEQ.AMD_STATUS.NEXT_TICKET + 1) % 256 ∧
      t.amendPost.g Reg.SEQ.AMD_STATUS.LAST_TICKET = s.g Reg.SEQ.AMD_STATUS.NEXT_TICKET ∧
      t.amendPost.g Reg.SEQ.AMD_STATUS.LAST_RESULT = bad ∧ t.amendPost.evStatus Ev.amendDone = true ∧
      t.amendPost.seq = s.seq ∧ t.amendPost.heads = s.heads := by
  have hticket := h.g Reg.SEQ.AMD_STATUS.NEXT_TICKET
  have hout : bad < 16 := hbad ▸ t.amendCheck_lt _ _ _ _
  obtain ⟨hnext, hlast, hres, hev, hseq, hheads⟩ := State.amendDone_spec (s := t.inc Reg.SEQ.AMD_STATUS.NEXT_TICKET)
    (h.coreOn.trans hc) (s.g_lt Reg.SEQ.AMD_STATUS.NEXT_TICKET) hout
  rw [State.amendPost_eq rfl rfl rfl rfl rfl, hbad, if_pos hne, hticket]
  exact ⟨by rw [hnext, State.inc_nextTicket, hticket], hlast, hres, hev, hseq.trans h.seq, hheads.trans h.heads⟩

/-- An amendment of kind 0 to 4 that passes the checks, on a window whose heads all run and have not switched, is queued for them. -/
theorem State.amendPost_running {s t : State} (h : WordWritten 0x100B0040 s t) {kind window : Nat}
    (hkind : t.g Reg.SEQ.AMD_CMD.KIND = kind) (hwin : t.g Reg.SEQ.AMD_CMD.WINDOW = window) (hk : kind ≤ 4)
    (hlive : s.gb Reg.SEQ.STATUS.LIVE_VALID = true)
    (hpass : s.amendCheck kind window (s.g Reg.SEQ.AMD_ARG0.ARG0) (s.g Reg.SEQ.AMD_ARG1.ARG1) = 0) {l : List Nat}
    (hl : windowHeads (s.page (s.g Reg.SEQ.STATUS.LIVE_PAGE)) window = l) (hne : l ≠ [])
    (hrun : ∀ n ∈ l, s.headRuns n = true ∧ n ∉ s.seq.taken) :
    t.amendPost.g Reg.SEQ.AMD_STATUS.NEXT_TICKET = (s.g Reg.SEQ.AMD_STATUS.NEXT_TICKET + 1) % 256 ∧
      t.amendPost.seq.amends = s.seq.amends ++ [⟨s.g Reg.SEQ.AMD_STATUS.NEXT_TICKET, kind, window, s.g Reg.SEQ.AMD_ARG0.ARG0,
        s.g Reg.SEQ.AMD_ARG1.ARG1, 0, s.g Reg.SEQ.STATUS.KEY_STATE == 2, 0, l⟩] := by
  have hticket := h.g Reg.SEQ.AMD_STATUS.NEXT_TICKET
  have hk5 : kind ≠ 5 := by omega
  have hpost := State.amendPost_eq (s := t) rfl hkind hwin (h.g Reg.SEQ.AMD_ARG0.ARG0) (h.g Reg.SEQ.AMD_ARG1.ARG1)
  have hnext := t.inc_nextTicket
  have hkey : (t.inc Reg.SEQ.AMD_STATUS.NEXT_TICKET).g Reg.SEQ.STATUS.KEY_STATE = s.g Reg.SEQ.STATUS.KEY_STATE :=
    (State.g_p_other _ _ _ _ (by decide)).trans (h.g Reg.SEQ.STATUS.KEY_STATE)
  have hheads : windowHeads ((t.inc Reg.SEQ.AMD_STATUS.NEXT_TICKET).page
      (t.inc Reg.SEQ.AMD_STATUS.NEXT_TICKET).livePage.get!) window = l := by
    rw [State.page_congr (t := t.inc _) h.mem, State.livePage_congr (t := t.inc _) ((State.reg_p_ne _ _ (by decide)).trans
      (h.reg _ (by unfold quietAddr; decide) (by decide))), ← hl, State.livePage, if_pos hlive, Option.get!_some]
  have hwait : ∀ n ∈ l, (t.inc Reg.SEQ.AMD_STATUS.NEXT_TICKET).headRuns n = true ∧
      n ∉ (t.inc Reg.SEQ.AMD_STATUS.NEXT_TICKET).seq.taken := fun n hn => by
    obtain ⟨hr, ht⟩ := hrun n hn
    have hstate : (t.inc Reg.SEQ.AMD_STATUS.NEXT_TICKET).g (Reg.HEAD.STATUS.RUN_STATE n) = s.g (Reg.HEAD.STATUS.RUN_STATE n) :=
      (State.g_p_other _ _ _ _ (.inl (by dsimp only; omega))).trans
        (h.g _ (by unfold quietAddr; dsimp only; omega) (by dsimp only; omega))
    refine ⟨?_, fun hmem => ht (h.seq ▸ hmem)⟩
    unfold State.headRuns at hr ⊢
    rw [hstate, hr]
  rw [hpost, h.amendCheck, hpass, if_neg (by decide), if_neg hk5, if_neg hk5, hheads, State.amendVisit_running hwait, hkey, hticket,
    State.amendSettle_waiting _ _ hne]
  exact ⟨hnext.trans (by rw [hticket]), congrArg (fun q : SeqState => q.amends ++ _) h.seq⟩

/-- Settles O15: a failed check ends in the completion of the amendment, and one that passes is shown to each head of its window;
that an amendment with no live page has NO_WINDOW for every kind is the model's reading (log entry 23). -/
theorem amendmentsPosted : Obligations.AmendmentsPosted := by
  refine ⟨fun dt m v s hc hw hlive => ?_, fun dt m v s hc hw hk hbad => ?_, fun dt m v s hc hw hk hlive hpass hne hrun => ?_⟩
  all_goals
    refine ⟨_, execAmendPost_eq dt v hc hw, ?_⟩
    have h := s.writeFields_written dt m.val 0x100B0040 (v ||| 0x80000000)
  · have hbad := State.amendCheck_of_noLivePage ((h.gb Reg.SEQ.STATUS.LIVE_VALID).trans hlive)
    obtain ⟨hnext, hlast, hres, hev, hseq, -⟩ := State.amendPost_failed h hc (hbad _ _ _ _) (by decide)
    exact ⟨hnext, hlast, hres, hev, by rw [hseq]⟩
  · obtain ⟨hkind, hwin⟩ := State.writeFields_amdCmd (((s.advance dt).ctlServed m.val).respond false []) m.val
      (v := v ||| 0x80000000) (by rwa [fieldGet_or_zero v (by decide)])
    rw [fieldGet_or_zero v (by decide)] at hkind hwin
    obtain ⟨hnext, hlast, hres, hev, hseq, hheads⟩ := State.amendPost_failed h hc
      (by rw [hkind, hwin, h.g Reg.SEQ.AMD_ARG0.ARG0, h.g Reg.SEQ.AMD_ARG1.ARG1, h.amendCheck]) hbad
    exact ⟨hnext, hlast, hres, hev, by rw [hseq], hheads⟩
  · obtain ⟨hkind, hwin⟩ := State.writeFields_amdCmd (((s.advance dt).ctlServed m.val).respond false []) m.val
      (v := v ||| 0x80000000) (by rw [fieldGet_or_zero v (by decide)]; omega)
    rw [fieldGet_or_zero v (by decide)] at hkind hwin
    refine State.amendPost_running h hkind hwin hk hlive hpass rfl hne fun n hn => ?_
    simpa using List.all_eq_true.1 hrun n hn

end Sys2Proof.Machine
end

section
/-! PROOF. Presets: their selection by register and by the pins, the flash read, and how a selection ends (R72, R73). -/

namespace Sys2Proof.Machine

/-! ### The end of a selection, and its start (R73) -/

section Select

variable {s : State} {k : Nat}

/-- A selection that ends shows its RESULT, pends no more, and EV_PRESET stands. -/
theorem State.presetEnd_spec {result : Nat} (hc : s.coreOn = true) (hr : result < 16) :
    (s.presetEnd result).g Reg.SEQ.PRESET_STATUS.LAST = s.g Reg.SEQ.PRESET_STATUS.LAST ∧
      (s.presetEnd result).g Reg.SEQ.PRESET_STATUS.RESULT = result ∧
      (s.presetEnd result).gb Reg.SEQ.PRESET_STATUS.PENDING = false ∧
      (s.presetEnd result).evStatus Ev.preset = true ∧
      (s.presetEnd result).seq = { s.seq with preset := if result = 1 then .loaded else .idle } := by
  unfold State.presetEnd State.gb State.pb
  refine ⟨?_, ?_, ?_, State.raise_stands _ _ _ (by decide) hc, State.raise_seq _ _ _ (by decide)⟩
  · simp (disch := decide) only [State.raise_g_other, State.g_p_other, State.withSeq_g]
  · simp (disch := decide) only [State.raise_g_other, State.g_p_other]
    exact State.g_p_val _ _ _ ⟨by decide, hr⟩
  · simp (disch := decide) only [State.raise_g_other, State.g_p_other, State.g_p_val]
    decide

/-- The state in which a selected number is LAST: a selection still under way is superseded. -/
def State.presetNoted (s : State) (k : Nat) : State :=
  (if s.seq.preset = .idle then s else s.p Reg.SEQ.PRESET_STATUS.RESULT 6).p Reg.SEQ.PRESET_STATUS.LAST k

theorem State.presetNoted_spec (s : State) (hk : k < 32) :
    (s.presetNoted k).g Reg.SEQ.PRESET_STATUS.LAST = k ∧
      (s.presetNoted k).g Reg.SEQ.STATUS.KEY_STATE = s.g Reg.SEQ.STATUS.KEY_STATE ∧ (s.presetNoted k).seq = s.seq ∧
      (s.presetNoted k).img = s.img ∧ (s.presetNoted k).coreOn = s.coreOn := by
  unfold State.presetNoted
  refine ⟨State.g_p_val _ _ _ ⟨by decide, hk⟩, ?_⟩
  split
  · exact ⟨State.g_p_other _ _ _ _ (by decide), rfl, rfl, rfl⟩
  · exact ⟨by simp (disch := decide) only [State.g_p_other], rfl, rfl, rfl⟩

theorem State.presetSelect_eq (s : State) (k : Nat) :
    s.presetSelect k =
      if (Tab.get none k (s.presetNoted k).img.presets).isNone then (s.presetNoted k).presetEnd 2
      else
        let x := ((s.presetNoted k).pb Reg.SEQ.PRESET_STATUS.PENDING true).pb Reg.SEQ.STATUS.PRESET_BUSY true
        if x.g Reg.SEQ.STATUS.KEY_STATE ≠ 0 then
          { x.p Reg.SEQ.PRESET_STATUS.RESULT 4 with seq := { x.seq with preset := .deferred } }
        else { x with seq := { x.seq with preset := .reading } } := rfl

/-- A number that the image does not hold ends with NO_PRESET. -/
theorem State.presetSelect_absent (hc : s.coreOn = true) (hk : k < 32) (h : Tab.get none k s.img.presets = none) :
    (s.presetSelect k).g Reg.SEQ.PRESET_STATUS.LAST = k ∧ (s.presetSelect k).g Reg.SEQ.PRESET_STATUS.RESULT = 2 ∧
      (s.presetSelect k).gb Reg.SEQ.PRESET_STATUS.PENDING = false ∧ (s.presetSelect k).evStatus Ev.preset = true ∧
      (s.presetSelect k).seq.strobe = s.seq.strobe := by
  obtain ⟨hlast, -, hseq, himg, hcore⟩ := s.presetNoted_spec hk
  obtain ⟨hl, hr, hp, hev, hs⟩ := State.presetEnd_spec (s := s.presetNoted k) (result := 2) (hcore.trans hc) (by decide)
  rw [State.presetSelect_eq, himg, h, if_pos Option.isNone_none]
  exact ⟨hl.trans hlast, hr, hp, hev, by rw [hs, hseq]⟩

/-- A number that the image holds pends: it is read from flash, or deferred behind a keystone under way. -/
theorem State.presetSelect_held (hk : k < 32) (h : (Tab.get none k s.img.presets).isSome = true) :
    (s.presetSelect k).g Reg.SEQ.PRESET_STATUS.LAST = k ∧ (s.presetSelect k).gb Reg.SEQ.PRESET_STATUS.PENDING = true ∧
      (s.presetSelect k).seq.strobe = s.seq.strobe ∧
      (s.presetSelect k).seq.preset = (if s.g Reg.SEQ.STATUS.KEY_STATE = 0 then .reading else .deferred) ∧
      (s.g Reg.SEQ.STATUS.KEY_STATE ≠ 0 → (s.presetSelect k).g Reg.SEQ.PRESET_STATUS.RESULT = 4) := by
  obtain ⟨hlast, hkey, hseq, himg, -⟩ := s.presetNoted_spec hk
  rw [State.presetSelect_eq, himg, Option.isNone_eq_false_iff.2 h, if_neg Bool.false_ne_true]
  generalize s.presetNoted k = y at *
  unfold State.gb State.pb
  simp (disch := decide) only [State.g_p_other, hkey]
  by_cases h0 : s.g Reg.SEQ.STATUS.KEY_STATE = 0
  · rw [if_neg (not_not_intro h0), if_pos h0]
    refine ⟨?_, ?_, by rw [← hseq]; rfl, rfl, fun hn => absurd h0 hn⟩
    · simp (disch := decide) only [State.withSeq_g, State.g_p_other, hlast]
    · simp (disch := decide) only [State.withSeq_g, State.g_p_other, State.g_p_val]
      decide
  · rw [if_pos h0, if_neg h0]
    refine ⟨?_, ?_, by rw [← hseq]; rfl, rfl, fun _ => ?_⟩
    · simp (disch := decide) only [State.withSeq_g, State.g_p_other, hlast]
    · simp (disch := decide) only [State.withSeq_g, State.g_p_other, State.g_p_val]
      decide
    · simp (disch := decide) only [State.withSeq_g, State.g_p_val]

end Select

/-! ### A selection by register -/

/-- PRESET_CTRL.LOAD selects the number of the word, after the write of its fields. -/
theorem execPresetLoad_eq {s : State} {m : Master} (dt : Nat) (v : Word) (hc : s.coreOn = true)
    (hw : s.mayWrite m.val 0x100B0050 = true) : ∃ t, WordWritten 0x100B0050 s t ∧
      exec (.presetLoad dt m v) s = .next (t.presetSelect (fieldGet v 0 5)) := by
  refine ⟨_, s.writeFields_written dt m.val 0x100B0050 (v ||| 0x100),
    congrArg Host.Outcome.next ((State.ctlWrite_of_mayWrite (by simpa using hc) (by simpa using hw)).trans ?_)⟩
  unfold presetCtrlWrite
  rw [if_pos (fieldGet_or_one v (by decide)), State.writeFields_presetCtrl, fieldGet_or_zero v (by decide)]

/-! ### A selection by the pins (R72) -/

theorem wakeEdge_stays (n : Nat) (rising : Bool) (s : State) :
    (wakeEdge n rising s).regs = s.regs ∧ (wakeEdge n rising s).pins = s.pins ∧ (wakeEdge n rising s).coreOn = s.coreOn := by
  unfold wakeEdge
  extract_lets sleepy on
  split <;> exact ⟨rfl, rfl, rfl⟩

theorem State.gpioSettle_aside {s₀ s : State} (h : Aside s₀ s) : Aside s₀ s.gpioSettle := by
  unfold State.gpioSettle
  extract_lets due
  exact .ite h (.fold h.fields (fun s e hs => State.raiseInfo_aside hs _ (show Ev.gpio < 128 by decide)) _)

theorem State.stamp_stays (s : State) (code : Nat) (on : Bool) :
    (s.stamp code on).seq = s.seq ∧ (s.stamp code on).pins = s.pins := by
  unfold State.stamp
  split
  · exact ⟨rfl, rfl⟩
  · split <;> exact ⟨rfl, rfl⟩

/-- The chosen edge of the strobe pin arms the sampling. -/
theorem presetEdge_strobe {s : State} {n : Nat} {rising : Bool} (hn : s.g Reg.SEQ.PRESET_GPIO.STROBE = n)
    (he : s.gb Reg.SEQ.PRESET_GPIO.ENABLE = true) (hr : s.gb Reg.SEQ.PRESET_GPIO.EDGE = !rising) :
    presetEdge n rising s = { s with seq := { s.seq with strobe := true } } := by
  unfold presetEdge
  rw [hn, he, hr, beq_self_eq_true]
  cases rising <;> rfl

/-- The level of a pin after an edge of it. -/
theorem gpioEdge_level (gpio : Nat) (rising : Bool) {n : Nat} (hn : n < 16) :
    (if rising then gpio ||| 2 ^ n else gpio &&& (2 ^ 16 - 1 - 2 ^ n)).testBit n = rising := by
  cases rising
  · have hmask : (2 ^ 16 - 1 - 2 ^ n).testBit n = false := by
      interval_cases n <;> decide
    simp only [Bool.false_eq_true, if_false, Nat.testBit_and, hmask, Bool.and_false]
  · simp

/-- An edge of the strobe pin in the chosen direction arms the sampling, and the pin has its level. -/
theorem gpioEdge_strobe {s : State} {n : Nat} {rising : Bool} (hc : s.coreOn = true) (hn : s.g Reg.SEQ.PRESET_GPIO.STROBE = n)
    (he : s.gb Reg.SEQ.PRESET_GPIO.ENABLE = true) (hr : s.gb Reg.SEQ.PRESET_GPIO.EDGE = !rising) :
    (gpioEdge n rising s).seq.strobe = true ∧ (gpioEdge n rising s).pins.gpio.testBit n = rising := by
  have hn16 : n < 16 := hn ▸ s.g_lt Reg.SEQ.PRESET_GPIO.STROBE
  unfold gpioEdge
  extract_lets level pins x y z rest on
  obtain ⟨hregs, hpins, hcore⟩ := wakeEdge_stays n rising
    { s with pins := { s.pins with gpio := level, edgeAt := Tab.put 0 n s.clock s.pins.edgeAt } }
  have hy : Aside x x.gpioSettle := State.gpioSettle_aside (Aside.refl x)
  have hg (f : FRef) (hf : quietAddr f.addr) : x.gpioSettle.g f = s.g f := (hy.g hf).trans (by unfold State.g State.reg; rw [hregs])
  have hquiet (f : FRef) (hf : f.addr = 0x100B0054) : quietAddr f.addr := by rw [hf]; unfold quietAddr; decide
  have hgb (f : FRef) (hf : quietAddr f.addr) : x.gpioSettle.gb f = s.gb f := by unfold State.gb; rw [hg f hf]
  have harm : y = { x.gpioSettle with seq := { x.gpioSettle.seq with strobe := true } } :=
    presetEdge_strobe ((hg _ (hquiet _ rfl)).trans hn) ((hgb _ (hquiet _ rfl)).trans he)
      ((hgb _ (hquiet _ rfl)).trans hr)
  obtain ⟨hseq, hzpins⟩ := y.stamp_stays (72 + n)
    (bitOf (y.g Reg.TIME.STAMP_EN.GPIO) n && (y.gb Reg.TIME.STAMP_EN.GPIO_EDGE != rising))
  have hlevel : z.pins = { s.pins with gpio := level, edgeAt := Tab.put 0 n s.clock s.pins.edgeAt } := by
    rw [hzpins, harm]
    exact hy.pins.trans hpins
  rw [hcore.trans hc]
  refine ⟨?_, ?_⟩
  · change z.seq.strobe = true
    rw [hseq, harm]
  · change z.pins.gpio.testBit n = rising
    rw [hlevel]
    exact gpioEdge_level s.pins.gpio rising hn16

/-- Stable select pins select the number on them, and the strobe is used up. -/
theorem State.presetSample_stable {s : State} (dt : Nat) (hc : s.coreOn = true) (he : s.gb Reg.SEQ.PRESET_GPIO.ENABLE = true)
    (hs : s.seq.strobe = true) (hd : s.pinsStable + 1000000 * s.g Reg.SEQ.PRESET_GPIO.DEBOUNCE_MS ≤ s.clock + dt) :
    exec (.presetSelectSample dt) s =
      .next (({ s.advance dt with seq := { s.seq with strobe := false } } : State).presetSelect s.presetPins) := by
  have hpins : (s.advance dt).presetPins = s.presetPins := by simp [State.presetPins]
  have hstable : (s.advance dt).pinsStable = s.pinsStable := by simp [State.pinsStable]
  refine congrArg Host.Outcome.next ?_
  unfold State.presetSample
  rw [hpins, hstable, if_pos (by simpa [hc, hs] using ⟨he, hd⟩), State.advance_seq]

/-- WIDTH of up to 5 pins names one of 32 presets. -/
theorem State.presetPins_lt {s : State} (h : s.g Reg.SEQ.PRESET_GPIO.WIDTH ≤ 5) : s.presetPins < 32 :=
  (Nat.mod_lt _ (by positivity)).trans_le (Nat.pow_le_pow_right (by decide) h)

/-! ### The flash read of a selected preset -/

/-- A write to course memory ends a validation, and a keystone that switches goes on. -/
theorem State.stageWritten_g (s : State) : s.stageWritten.g Reg.SEQ.STATUS.VAL_STATE = 0 ∧
    (s.g Reg.SEQ.STATUS.KEY_STATE ≠ 2 → s.stageWritten.g Reg.SEQ.STATUS.KEY_STATE ≠ 2) := by
  unfold State.stageWritten State.pb
  extract_lets x₀ q x y z
  have hx : x.g Reg.SEQ.STATUS.KEY_STATE = s.g Reg.SEQ.STATUS.KEY_STATE := by
    unfold x
    split
    · unfold x₀
      simp (disch := decide) only [State.withSeq_g, State.g_p_other]
    · rfl
  have hy : y.g Reg.SEQ.STATUS.KEY_STATE = x.g Reg.SEQ.STATUS.KEY_STATE := by
    unfold y
    split
    · simp (disch := decide) only [State.g_p_other]
    · rfl
  have hz : z.g Reg.SEQ.STATUS.KEY_STATE = s.g Reg.SEQ.STATUS.KEY_STATE := by
    unfold z
    simp (disch := decide) only [State.g_p_other, hy, hx]
  have hval : z.g Reg.SEQ.STATUS.VAL_STATE = 0 := by
    unfold z
    simp (disch := decide) only [State.g_p_other, State.g_p_val]
  split
  · simp (disch := decide) only [State.g_p_other, State.g_p_val, hval]
    exact ⟨trivial, fun _ => by decide⟩
  · exact ⟨hval, fun h => hz ▸ h⟩

/-- START of a validation where none runs and no keystone switches. -/
theorem State.validateStart_g {s : State} (hv : s.g Reg.SEQ.STATUS.VAL_STATE ≠ 1) (hk : s.g Reg.SEQ.STATUS.KEY_STATE ≠ 2) :
    s.validateStart.g Reg.SEQ.STATUS.VAL_STATE = 1 := by
  unfold State.validateStart
  rw [if_neg (not_or_intro hv hk)]
  exact State.g_p_val _ _ _ (by decide)

/-- There are two pages. -/
theorem State.stagePage_le (s : State) : s.stagePage ≤ 1 := by
  have h := s.g_lt Reg.SEQ.STATUS.LIVE_PAGE
  unfold State.stagePage
  split <;> simp only at h <;> omega

/-- A page written to the staging page is a write to course memory. -/
theorem State.storeData_stagePage (s : State) (bs : List Byte) :
    s.storeData (pageAddr s.stagePage 0) bs = (s.store (pageAddr s.stagePage 0) bs).stageWritten := by
  have h := s.stagePage_le
  unfold State.storeData pageAddr
  rw [if_pos (by omega)]

section Read

variable {s : State} (hc : s.coreOn = true) (hp : s.seq.preset = .reading) (hk : s.g Reg.SEQ.STATUS.KEY_STATE ≠ 2)
include hc hp hk

/-- A failed flash read ends the selection with FLASH_ERROR. -/
theorem State.presetRead_failed : s.presetRead false = s.presetEnd 5 := by
  unfold State.presetRead
  rw [hc, hp, if_pos (by decide), if_neg hk]
  rfl

/-- A flash read that succeeds places the page in the staging page and starts the validator. -/
theorem State.presetRead_placed (hi : (Tab.get none (s.g Reg.SEQ.PRESET_STATUS.LAST) s.img.presets).isSome = true) :
    (s.presetRead true).g Reg.SEQ.STATUS.VAL_STATE = 1 ∧ (s.presetRead true).seq.preset = .validating := by
  obtain ⟨⟨a, n⟩, hi⟩ := Option.isSome_iff_exists.1 hi
  unfold State.presetRead
  rw [hc, hp, if_pos (by decide), if_neg hk, hi]
  refine ⟨?_, rfl⟩
  obtain ⟨hval, hkey⟩ := (s.store (pageAddr s.stagePage 0) (s.flashBytes a (16 * min n 16384))).stageWritten_g
  exact (congrArg (fun x : State => x.validateStart.g Reg.SEQ.STATUS.VAL_STATE) (s.storeData_stagePage _)).trans
    (State.validateStart_g (by rw [hval]; decide) (hkey hk))

end Read

/-- Settles O16: each way of selecting a preset ends in `State.presetSelect`, which refuses, defers or reads. What arms the strobe
and when its select is sampled is the model's reading (log entry 25). -/
theorem presetSelections : Obligations.PresetSelections := by
  refine ⟨fun dt m v s hc hw hi => ?_, fun dt m v s hc hw hi hk => ?_, fun dt m v s hc hw hi hk => ?_, fun dt s hc hp hk => ?_,
    fun dt s hc hp hk => ?_, fun dt s hc he => ?_, fun dt s hc he hs hd hi hwidth => ?_, fun dt s hc he hs hd hi hwidth => ?_,
    fun dt s hc hp hk _ hi => ?_⟩
  · obtain ⟨t, h, ht⟩ := execPresetLoad_eq dt v hc hw
    obtain ⟨hlast, hres, hpend, hev, -⟩ := State.presetSelect_absent (h.coreOn.trans hc) (fieldGet_lt v 0 5) (h.img ▸ hi)
    exact ⟨_, ht, hlast, hres, hpend, hev⟩
  · obtain ⟨t, h, ht⟩ := execPresetLoad_eq dt v hc hw
    obtain ⟨hlast, hpend, -, hphase, -⟩ := State.presetSelect_held (s := t) (fieldGet_lt v 0 5) (h.img ▸ hi)
    exact ⟨_, ht, hlast, hpend, by rw [hphase, h.g Reg.SEQ.STATUS.KEY_STATE, if_pos hk]⟩
  · obtain ⟨t, h, ht⟩ := execPresetLoad_eq dt v hc hw
    obtain ⟨-, hpend, -, hphase, hres⟩ := State.presetSelect_held (s := t) (fieldGet_lt v 0 5) (h.img ▸ hi)
    rw [h.g Reg.SEQ.STATUS.KEY_STATE] at hphase hres
    exact ⟨_, ht, hres hk, hpend, by rw [hphase, if_neg hk]⟩
  · refine ⟨_, rfl, ?_⟩
    unfold State.presetResume
    rw [if_pos (by simp [hc, hp, hk])]
  · obtain ⟨-, hres, -, hev, hseq⟩ := State.presetEnd_spec (s := s.advance dt) (result := 5) (by simpa using hc) (by decide)
    refine ⟨_, congrArg Host.Outcome.next (State.presetRead_failed (by simpa using hc) (by simpa using hp) (by simpa using hk)),
      hres, ?_, hev⟩
    rw [hseq]
    rfl
  · obtain ⟨hstrobe, hlevel⟩ := gpioEdge_strobe (s := s.advance dt) (rising := !s.gb Reg.SEQ.PRESET_GPIO.EDGE) (by simpa using hc)
      (s.advance_g dt _) (by simpa using he) (by simp)
    exact ⟨_, rfl, hstrobe, hlevel⟩
  · obtain ⟨hlast, hres, -, hev, hstrobe⟩ := State.presetSelect_absent
      (s := { s.advance dt with seq := { s.seq with strobe := false } }) ((s.advance_coreOn dt).trans hc)
      (State.presetPins_lt hwidth) (by simpa using hi)
    exact ⟨_, State.presetSample_stable dt hc he hs hd, hlast, hres, hstrobe, hev⟩
  · obtain ⟨hlast, hpend, hstrobe, hphase, -⟩ := State.presetSelect_held
      (s := { s.advance dt with seq := { s.seq with strobe := false } }) (State.presetPins_lt hwidth) (by simpa using hi)
    refine ⟨_, State.presetSample_stable dt hc he hs hd, hlast, hpend, hstrobe, hphase.trans ?_⟩
    rw [State.withSeq_g, State.advance_g]
  · obtain ⟨hval, hphase⟩ := State.presetRead_placed (s := s.advance dt) (by simpa using hc) (by simpa using hp)
      (by simpa using hk) (by simpa using hi)
    exact ⟨_, rfl, hval, hphase⟩

end Sys2Proof.Machine
end

section
/-! PROOF. A page that passes every check of R56. -/

namespace Sys2Proof.Machine

/-! ### When a page passes -/

/-- A page that fails no check passes. -/
theorem validatePage_of_noFails {P : Page} {c : ValContext} (h1 : checkTooLarge P = []) (h2 : checkFormat P = [])
    (h3 : checkCrc P = []) (h4 : checkSignature P c = []) (h5 : checkHeadRange P c = []) (h6 : checkOverlap P = [])
    (h7 : checkNoFit P = []) (h8 : checkScaler P = []) (h9 : checkBandwidth P c = []) (h10 : checkVitrine P c = []) :
    validatePage P c = (0, 0, 0) := by
  unfold validatePage
  rw [h1, h2, h3, h4, h5, h6, h7, h8, h9, h10]
  rfl

theorem checkCrc_of_eq {P : Page} (h : pageCrc P = pgCrc P) : checkCrc P = [] := by
  simp [checkCrc, failIf, h]

theorem checkSignature_of_verified {P : Page} {c : ValContext} {k : Nat} (hk : Tab.get none (pgKeyId P) c.keys = some k)
    (hv : ecdsaVerify (beBytes k 64) (sha256 (pageBytes P)) (pageSignature P) = true) : checkSignature P c = [] := by
  simp [checkSignature, failIf, hk, hv]

/-- The CRC register after `n` bytes of 0; a register of 0 stays 0. -/
def crcZeros : Nat → Nat → Nat
  | 0, c => c
  | _ + 1, 0 => 0
  | n + 1, c + 1 => crcZeros n (crcByte (c + 1) 0)

theorem crcZeros_zero (n : Nat) : crcZeros n 0 = 0 := by
  cases n <;> rfl

theorem crcUpdate_zeros (n c : Nat) : crcUpdate c (List.replicate n 0) = crcZeros n c := by
  induction n generalizing c with
  | zero => rfl
  | succ n ih =>
    cases c with
    | zero => exact (ih 0).trans (crcZeros_zero n)
    | succ c => exact ih _

/-- The CRC of a page that ends in `n` bytes of 0. -/
theorem pageCrc_of_zeros {P : Page} {bs : List Byte} {n c : Nat}
    (hb : (pageBytes P).take 60 ++ [0, 0, 0, 0] ++ (pageBytes P).drop 64 = bs ++ List.replicate n 0)
    (hc : crcUpdate 0xFFFFFFFF bs = c) : pageCrc P = crcZeros n c ^^^ 0xFFFFFFFF := by
  unfold pageCrc crc32c
  dsimp only
  rw [hb, ← hc, ← crcUpdate_zeros, crcUpdate, crcUpdate, crcUpdate, List.foldl_append]

/-- The hash of a message from the words that its padded blocks leave. -/
theorem sha256_of_padded {bs padded : List Byte} {n : Nat} {words : List Nat}
    (hp : bs ++ 0x80 :: List.replicate ((119 - bs.length % 64) % 64) 0 ++ beBytes (8 * bs.length) 8 = padded)
    (hn : padded.length / 64 = n) (hw : shaBlocks n ((shaPrimes.take 8).map (rootFraction 2)) padded = words) :
    sha256 bs = (words.map (fun w => beBytes w 4)).flatten := by
  subst hp hn hw
  rfl

/-- Blocks of a message one part after the other. -/
theorem shaBlocks_append {m : Nat} {h : List Nat} {bs : List Byte} (n : Nat) (cs : List Byte) (hb : bs.length = 64 * m) :
    shaBlocks (m + n) h (bs ++ cs) = shaBlocks n (shaBlocks m h bs) cs := by
  induction m generalizing h bs with
  | zero =>
    obtain rfl := List.length_eq_zero_iff.1 hb
    rw [Nat.zero_add]
    rfl
  | succ m ih =>
    have hlen : 64 ≤ bs.length := by omega
    rw [Nat.add_right_comm, shaBlocks, shaBlocks, List.take_append_of_le_length hlen, List.drop_append_of_le_length hlen,
      ih (by rw [List.length_drop]; omega)]

/-- The words carried into a part of a message are those that the part before it leaves. -/
theorem shaBlocks_chain {m n : Nat} {h h' h'' : List Nat} {bs cs : List Byte} (hb : bs.length = 64 * m)
    (h1 : shaBlocks m h bs = h') (h2 : shaBlocks n h' cs = h'') : shaBlocks (m + n) h (bs ++ cs) = h'' := by
  rw [shaBlocks_append n cs hb, h1, h2]

/-! ### The page -/

/-- A header: LENGTH 72, operating point 1, key 0, and HEADS as the one section, of 64 entries from entry 4. -/
def sampleHeader : Nat :=
  0x9e3827a0000000000000000000000000000000000000000000000000000000000000000000000000040000400000001000000480000000000000001454c5650

/-- The SHA-256 digest of the page, and both numbers of its signature. -/
def sampleDigest : Nat := 0xbd6bf32573e36309ee49532833f9acc25745f10fc9ce514a404a150e97bd46e8

def sampleSignature : List Byte := beBytes sampleDigest 32 ++ beBytes sampleDigest 32

/-- The public key under which that signature verifies: the sum of the base point and the key has the digest as its x. -/
def sampleKey : Nat :=
  0x40eef1ed0a71898a5517ef09af08b986af3e7838ac45d43832c2d11905dfc12e7aba94bd534f25e8cd0ce5d6bcfb716b6f420f0a1f4f4f88197056dcdaf40870

/-- The signed page of that header whose head records are 0. -/
def samplePage : Page := fun i =>
  if i < 4 then leNat (leBytes (sampleHeader >>> (128 * i)) 16)
  else if 68 ≤ i ∧ i < 72 then leNat ((sampleSignature.drop (16 * (i - 68))).take 16)
  else 0

theorem pageBytes_samplePage : pageBytes samplePage = leBytes sampleHeader 64 ++ List.replicate 1024 0 := by decide +kernel

theorem pageCrc_samplePage : pageCrc samplePage = pgCrc samplePage := by
  have bytes : (pageBytes samplePage).take 60 ++ [0, 0, 0, 0] ++ (pageBytes samplePage).drop 64 =
      leBytes sampleHeader 60 ++ [0, 0, 0, 0] ++ List.replicate 1024 0 := by
    rw [pageBytes_samplePage]
    decide +kernel
  have header : crcUpdate 0xFFFFFFFF (leBytes sampleHeader 60 ++ [0, 0, 0, 0]) = 309805202 := by decide +kernel
  have zeros : crcZeros 1024 309805202 ^^^ 0xFFFFFFFF = pgCrc samplePage := by decide +kernel
  exact (pageCrc_of_zeros bytes header).trans zeros

/-- The eight words of the hash after each three blocks of the padded page. -/
def sampleWords : Nat → List Nat
  | 0 => (shaPrimes.take 8).map (rootFraction 2)
  | 1 => [2252903511, 3920328620, 3876554329, 4065760603, 2277013428, 1357362858, 845417857, 1987398533]
  | 2 => [351381842, 2584588702, 136184928, 678319902, 2115121515, 1996672869, 3922833618, 3959305664]
  | 3 => [1319299732, 2944857723, 1761437768, 214911162, 4017457119, 15038331, 879912338, 1782927867]
  | 4 => [368580706, 4087873490, 4187407130, 3643727874, 2346036807, 2151210935, 3077198593, 3285208199]
  | 5 => [4080250679, 1009757839, 1781925796, 424746295, 244591363, 4017284969, 3477704592, 704981079]
  | _ => [3177968421, 1944281865, 3997782824, 872000706, 1464201487, 3385741642, 1078596878, 2545764072]

/-- The first and the last three blocks of the padded page; the twelve between them are zeros. -/
def sampleFirst : List Byte := leBytes sampleHeader 64 ++ List.replicate 128 0
def sampleLast : List Byte := List.replicate 128 0 ++ 0x80 :: List.replicate 55 0 ++ beBytes 8704 8

theorem sha256_samplePage : sha256 (pageBytes samplePage) = beBytes sampleDigest 32 := by
  have first : shaBlocks 3 (sampleWords 0) sampleFirst = sampleWords 1 := by decide +kernel
  have zeros1 : shaBlocks 3 (sampleWords 1) (List.replicate 192 0) = sampleWords 2 := by decide +kernel
  have zeros2 : shaBlocks 3 (sampleWords 2) (List.replicate 192 0) = sampleWords 3 := by decide +kernel
  have zeros3 : shaBlocks 3 (sampleWords 3) (List.replicate 192 0) = sampleWords 4 := by decide +kernel
  have zeros4 : shaBlocks 3 (sampleWords 4) (List.replicate 192 0) = sampleWords 5 := by decide +kernel
  have last : shaBlocks 3 (sampleWords 5) sampleLast = sampleWords 6 := by decide +kernel
  have hzeros : (List.replicate 192 (0 : Byte)).length = 64 * 3 := List.length_replicate
  have hash := shaBlocks_chain (by decide +kernel) first (shaBlocks_chain hzeros zeros1 (shaBlocks_chain hzeros zeros2
    (shaBlocks_chain hzeros zeros3 (shaBlocks_chain hzeros zeros4 last))))
  have digest : ((sampleWords 6).map (fun w => beBytes w 4)).flatten = beBytes sampleDigest 32 := by decide +kernel
  rw [pageBytes_samplePage]
  exact (sha256_of_padded (by decide +kernel) (by decide +kernel) hash).trans digest

theorem samplePage_verifies :
    ecdsaVerify (beBytes sampleKey 64) (sha256 (pageBytes samplePage)) (pageSignature samplePage) = true := by
  have signature : pageSignature samplePage = sampleSignature := by decide +kernel
  rw [sha256_samplePage, signature]
  decide +kernel

theorem validatePage_samplePage {c : ValContext} (hkey : Tab.get none 0 c.keys = some sampleKey)
    (hrange : checkHeadRange samplePage c = []) (hcap : checkBandwidth samplePage c = []) (hvit : checkVitrine samplePage c = []) :
    validatePage samplePage c = (0, 0, 0) := by
  have hid : pgKeyId samplePage = 0 := by decide +kernel
  have hfits : checkOverlap samplePage = [] ∧ checkNoFit samplePage = [] ∧ checkScaler samplePage = [] := by decide +kernel
  obtain ⟨hoverlap, hfit, hscaler⟩ := hfits
  exact validatePage_of_noFails (by decide +kernel) (by decide +kernel) (checkCrc_of_eq pageCrc_samplePage)
    (checkSignature_of_verified (hid ▸ hkey) samplePage_verifies) hrange hoverlap hfit hscaler hcap hvit

/-! ### The page in memory -/

/-- The cells of the page, in page 0 of course memory. -/
def sampleMem : List Host.Cell := cellsWrite (cellsWrite [] 0x1000000 (leBytes sampleHeader 64)) 0x1000440 sampleSignature

/-- Bytes read within a write are bytes of the write. -/
theorem cellsRead_cellsWrite_within {m : List Host.Cell} {a b n : Nat} {bs : List Byte} (hb : b ≤ a) (hn : a + n ≤ b + bs.length) :
    cellsRead (cellsWrite m b bs) a n = (bs.drop (a - b)).take n := by
  induction n generalizing a with
  | zero => rfl
  | succ n ih =>
    have hlt : a - b < bs.length := by omega
    rw [cellsRead, ih (by omega) (by omega), Tab.get_cellsWrite, if_pos (by omega), List.drop_eq_getElem_cons hlt, List.take_succ_cons,
      List.getD_eq_getElem _ _ hlt, Nat.sub_add_comm hb]

/-- Bytes read apart from a write are as before it. -/
theorem cellsRead_cellsWrite_apart {m : List Host.Cell} {a b n : Nat} {bs : List Byte} (h : a + n ≤ b ∨ b + bs.length ≤ a) :
    cellsRead (cellsWrite m b bs) a n = cellsRead m a n := by
  induction n generalizing a with
  | zero => rfl
  | succ n ih => rw [cellsRead, cellsRead, ih (by omega), Tab.get_cellsWrite, if_neg (by omega)]

/-- Bytes never written read as the number 0. -/
theorem leNat_cellsRead_nil (a n : Nat) : leNat (cellsRead [] a n) = 0 := by
  induction n generalizing a with
  | zero => rfl
  | succ n ih =>
    rw [cellsRead, leNat, ih]
    rfl

theorem page_of_sampleMem {s : State} (h : s.mem = sampleMem) : s.page 0 = samplePage := by
  have hheader : (leBytes sampleHeader 64).length = 64 := by decide
  have hsign : sampleSignature.length = 64 := by decide
  have hentry : ∀ i : Fin 4, leNat (((leBytes sampleHeader 64).drop (16 * i.val)).take 16) = samplePage i.val := by decide +kernel
  funext i
  unfold State.page State.le State.bytes pageAddr
  rw [h, sampleMem]
  by_cases hi : i < 4
  · rw [cellsRead_cellsWrite_apart (by omega), cellsRead_cellsWrite_within (by omega) (by omega),
      show 0x1000000 + 0x40000 * 0 + 16 * i - 0x1000000 = 16 * i by omega, hentry ⟨i, hi⟩]
  · unfold samplePage
    rw [if_neg hi]
    split
    · rw [cellsRead_cellsWrite_within (by omega) (by omega),
        show 0x1000000 + 0x40000 * 0 + 16 * i - 0x1000440 = 16 * (i - 68) by omega]
    · rw [cellsRead_cellsWrite_apart (by omega), cellsRead_cellsWrite_apart (by omega), leNat_cellsRead_nil]

end Sys2Proof.Machine
end

section
/-! PROOF. A validation for a preset whose own event record falls on the page that it has passed (R57, R74, R498). -/

namespace Sys2Proof.Machine

/-- A state in which the validation of `samplePage` for a preset ends, with AUTO_KEY 1 and the controllers at point 1. EV_PRESET is
logged, and `logWr`, the place of the first record of the present clock, is the number that makes that place the staging page: the
statement bounds it by no hypothesis. -/
def loggedPreset : State :=
  let s := [(Reg.SEQ.STATUS.VAL_STATE, 1), (Reg.SEQ.STATUS.LIVE_VALID, 1), (Reg.SEQ.STATUS.LIVE_PAGE, 1),
    (Reg.SEQ.PRESET_CTRL.AUTO_KEY, 1), (Reg.DMC.FSP_STATUS.CURRENT, 1), (Reg.EVT.LOG_EN, 1), (Reg.EVT.LOG_LOG2, 8),
    (Reg.EVT.ENABLE 1, 2 ^ 26), (Reg.EVT.ROUTE.LOG 58, 1)].foldl (fun s e => s.p e.1 e.2) State.reset
  { s with
    mem := sampleMem
    img := { s.img with pageKeys := [(0, some sampleKey)] }
    seq := { s.seq with preset := .validating }
    evt := { s.evt with logs := [(⟨0, 0, 0, 0, 0⟩, 0)], logWr := 0x80000 } }

theorem loggedPreset_mem : loggedPreset.mem = sampleMem := by
  unfold loggedPreset
  dsimp only

theorem validatePage_loggedPreset :
    validatePage (loggedPreset.page loggedPreset.stagePage) loggedPreset.valContext = (0, 0, 0) := by
  have hstage : loggedPreset.stagePage = 0 := by decide +kernel
  rw [hstage, page_of_sampleMem loggedPreset_mem]
  exact validatePage_samplePage (by decide +kernel) (by decide +kernel) (by decide +kernel) (by decide +kernel)

/-- The registers that a page that passes writes: VAL_RESULT, SEQ.STATUS and STAGE_GEN. -/
def State.passShown (s : State) (gen : Nat) : State :=
  (((s.valResult 0 0 0).pb Reg.SEQ.STATUS.STAGE_VALID true).p Reg.SEQ.STATUS.VAL_STATE 2).p Reg.SEQ.STAGE_GEN.GENERATION gen

/-- What a page that passes leaves: its registers, and the references of its regions. -/
def State.passWith (s : State) (gen : Nat) (refs : Tab Nat) : State :=
  { s.passShown gen with seq := { s.seq with refs := refs } }

/-- `State.passWith` for the page that is staging. -/
def State.validatePassed (s : State) : State :=
  s.passWith (pgGeneration (s.page s.stagePage))
    ((((s.valResult 0 0 0).pb Reg.SEQ.STATUS.STAGE_VALID true).p Reg.SEQ.STATUS.VAL_STATE 2).pageRefs (s.page s.stagePage))

theorem State.passWith_g (s : State) (gen : Nat) (refs : Tab Nat) (f : FRef) : (s.passWith gen refs).g f = (s.passShown gen).g f :=
  State.withSeq_g (s.passShown gen) { s.seq with refs := refs } f

theorem State.passWith_stageValid (s : State) (gen : Nat) (refs : Tab Nat) :
    (s.passWith gen refs).gb Reg.SEQ.STATUS.STAGE_VALID = true := by
  unfold State.gb
  rw [State.passWith_g]
  unfold State.passShown State.pb
  simp (disch := decide) only [State.g_p_other, State.g_p_val]
  decide

theorem State.passWith_autoKey (s : State) (gen : Nat) (refs : Tab Nat) :
    (s.passWith gen refs).gb Reg.SEQ.PRESET_CTRL.AUTO_KEY = s.gb Reg.SEQ.PRESET_CTRL.AUTO_KEY := by
  unfold State.gb
  rw [State.passWith_g]
  unfold State.passShown State.valResult State.pb
  simp (disch := decide) only [State.g_p_other]

theorem State.presetEnd_autoKey (s : State) (result : Nat) :
    (s.presetEnd result).gb Reg.SEQ.PRESET_CTRL.AUTO_KEY = s.gb Reg.SEQ.PRESET_CTRL.AUTO_KEY := by
  unfold State.presetEnd State.gb State.pb
  simp (disch := decide) only [State.raise_g_other, State.withSeq_g, State.g_p_other]

theorem State.validateDone_of_pass {s : State} (h : validatePage (s.page s.stagePage) s.valContext = (0, 0, 0)) :
    s.validateDone = s.validatePassed := by
  unfold State.validateDone
  dsimp only
  rw [h]
  rfl

/-- A passing validation for a preset with AUTO_KEY ends the preset and commits its keystone. -/
theorem State.validated_autoKey {s : State} {gen : Nat} {refs : Tab Nat} (hdone : s.validateDone = s.passWith gen refs)
    (hp : s.seq.preset = .validating) (ha : s.gb Reg.SEQ.PRESET_CTRL.AUTO_KEY = true) :
    s.validated = ((s.passWith gen refs).presetEnd 1).keyCommit ((s.passWith gen refs).presetEnd 1).presetT false := by
  have hphase : (s.passWith gen refs).seq.preset = .validating := hp
  have hstage := s.passWith_stageValid gen refs
  have hauto := ((s.passWith gen refs).presetEnd_autoKey 1).trans ((s.passWith_autoKey gen refs).trans ha)
  unfold State.validated
  rw [hdone]
  exact (if_neg (not_not_intro hphase)).trans ((if_pos hstage).trans (if_pos hauto))

/-- A validation that runs ends. -/
theorem execValidationDone_running {s : State} (dt : Nat) (hc : s.coreOn = true) (hv : s.g Reg.SEQ.STATUS.VAL_STATE = 1) :
    exec (.validationDone dt) s = .next (s.advance dt).validated :=
  congrArg Host.Outcome.next (if_pos (by simp [hc, hv]))

/-- The commit of the keystone is refused with POINT_LOW: the page now shows operating point 0. -/
theorem execValidationDone_loggedPreset : exec (.validationDone 0) loggedPreset =
    .next ((loggedPreset.validatePassed.presetEnd 1).p Reg.SEQ.KEY_STATUS.RESULT 7) := by
  have hstart : loggedPreset.advance 0 = loggedPreset := by decide +kernel
  rw [execValidationDone_running 0 (by decide +kernel) (by decide +kernel), hstart,
    State.validated_autoKey (State.validateDone_of_pass validatePage_loggedPreset) (by decide +kernel) (by decide +kernel)]
  exact congrArg Host.Outcome.next (State.keyCommit_of_pointLow _ _ (by decide +kernel) (by decide +kernel) (by decide +kernel))

/-- Refutes O14: the end of a preset raises EV_PRESET before its keystone is committed, and the commit reads the staging page again.
In `loggedPreset`, whose event block places the record before that of EV_PRESET at the staging page, that read finds operating point 0
where the page that passed had 1, and the commit is refused with POINT_LOW (RESULT 7 where the statement has SCHEDULED). -/
theorem not_pageValidation : ¬ Obligations.PageValidation := by
  rintro ⟨-, -, -, -, hauto, -⟩
  obtain ⟨t, ht, -, hkey⟩ := hauto 0 loggedPreset (by decide +kernel) (by decide +kernel) (by decide +kernel) (by decide +kernel)
    (by decide +kernel) (by decide +kernel) (by decide +kernel) (by decide +kernel)
  obtain ⟨-, hresult, -⟩ := hkey (by rw [validatePage_loggedPreset])
  obtain rfl := Host.Outcome.next.inj (execValidationDone_loggedPreset.symm.trans ht)
  rw [State.g_p_val _ _ _ (by decide)] at hresult
  exact absurd hresult (by decide)

end Sys2Proof.Machine
end

section
/-! PROOF. What the operations of a command change: the registers of its own block, those of the event block, the error log and the
matrix, and no byte of memory while the event log is off (R413, R417, R492, R498). -/

-- One lemma after the other: elaborated side by side, they take more threads than the memory of the check holds.
set_option Elab.async false

namespace Sys2Proof.Machine

/-! ### The relation -/

/-- While the event log is off, nothing from `s` to `t` writes memory or turns it on. -/
def LogOff (s t : State) : Prop := s.gb Reg.EVT.LOG_EN = false → t.mem = s.mem ∧ t.gb Reg.EVT.LOG_EN = false

/-- From `s` to `t` no register changes but those from `lo` to `hi`, of the event block, the error log and the matrix; and while
the event log is off, no memory. -/
structure Within (lo hi : Nat) (s t : State) : Prop where
  regs : regsStay lo hi s t
  log : LogOff s t

/-- What a command of one block leaves, as the statements say it. -/
def OthersStay (lo hi : Nat) (s t : State) : Prop := regsStay lo hi s t ∧ memStays s t

theorem LogOff.refl (s : State) : LogOff s s := fun h => ⟨rfl, h⟩

theorem LogOff.trans {s t u : State} (h : LogOff s t) (k : LogOff t u) : LogOff s u := fun off => by
  obtain ⟨hm, ht⟩ := h off
  obtain ⟨km, ku⟩ := k ht
  exact ⟨km.trans hm, ku⟩

theorem LogOff.of_eq {s t : State} (hm : t.mem = s.mem) (hr : t.reg 0x10040000 = s.reg 0x10040000) : LogOff s t := fun off =>
  ⟨hm, by unfold State.gb State.g at off ⊢; rw [hr]; exact off⟩

theorem Within.refl (lo hi : Nat) (s : State) : Within lo hi s s := ⟨fun _ _ _ _ => rfl, LogOff.refl s⟩

theorem Within.trans {lo hi : Nat} {s t u : State} (h : Within lo hi s t) (k : Within lo hi t u) : Within lo hi s u :=
  ⟨fun a h1 h2 h3 => (k.regs a h1 h2 h3).trans (h.regs a h1 h2 h3), h.log.trans k.log⟩

section Rules

variable {lo hi : Nat} {s₀ s t : State}

theorem Within.othersStay (h : Within lo hi s t) : OthersStay lo hi s t :=
  ⟨h.regs, fun off x => by rw [State.byte, (h.log off).1, State.byte]⟩

theorem Within.ite {c : Prop} [Decidable c] (hs : c → Within lo hi s₀ s) (ht : ¬ c → Within lo hi s₀ t) :
    Within lo hi s₀ (if c then s else t) := by
  split
  · next hc => exact hs hc
  · next hc => exact ht hc

theorem Within.fold {α : Type} {f : State → α → State} {l : List α} (h : Within lo hi s₀ s)
    (hf : ∀ s, ∀ x ∈ l, Within lo hi s₀ s → Within lo hi s₀ (f s x)) : Within lo hi s₀ (l.foldl f s) :=
  List.foldlRecOn (motive := Within lo hi s₀) l f h fun s hs x hx => hf s x hx hs

/-- An update that touches neither registers nor memory. -/
theorem Within.same (h : Within lo hi s₀ s) (hr : t.regs = s.regs := by rfl) (hm : t.mem = s.mem := by rfl) : Within lo hi s₀ t :=
  h.trans ⟨fun a _ _ _ => State.reg_congr hr a, .of_eq hm (State.reg_congr hr _)⟩

/-- What leaves the quiet registers. -/
theorem Within.aside (h : Within lo hi s₀ s) (ha : Aside s t) (hl : LogOff s t) : Within lo hi s₀ t :=
  h.trans ⟨fun a _ h2 h3 => ha.reg a (by unfold quietAddr; omega), hl⟩

theorem State.setReg_within (h : Within lo hi s₀ s) (a : Nat) (w : Word) (ha : lo ≤ a ∧ a < hi) (hl : a ≠ 0x10040000) :
    Within lo hi s₀ (s.setReg a w) :=
  h.trans ⟨fun _ h1 _ _ => State.reg_setReg_ne s (by omega) w, .of_eq rfl (State.reg_setReg_ne s hl.symm w)⟩

/-- A field of the block itself. -/
theorem State.p_within (h : Within lo hi s₀ s) (f : FRef) (v : Nat) (hf : lo ≤ f.addr ∧ f.addr < hi := by decide)
    (hl : f.addr ≠ 0x10040000 := by decide) : Within lo hi s₀ (s.p f v) :=
  State.setReg_within h _ _ hf hl

/-! ### Records, events and responses -/

theorem State.p_logOff (s : State) (f : FRef) (v : Nat) (hf : f.addr ≠ 0x10040000) : LogOff s (s.p f v) :=
  .of_eq rfl (State.reg_p_ne s v hf.symm)

/-- A field of the event block, the error log or the matrix. -/
theorem State.p_noted_within (h : Within lo hi s₀ s) (f : FRef) (v : Nat) (hf : ¬ quietAddr f.addr) (hl : f.addr ≠ 0x10040000) :
    Within lo hi s₀ (s.p f v) :=
  h.aside (State.p_aside (Aside.refl s) hf v) (s.p_logOff f v hl)

theorem State.errLog_logOff (s : State) (r : ErrRecord) : LogOff s (s.errLog r) := by
  refine .of_eq (s.errLog_mem r) ?_
  unfold State.errLog State.incSat State.incSatBy
  split
  · split
    · rfl
    · exact State.reg_p_ne _ _ (by decide)
  · rfl

theorem State.errLog_within (h : Within lo hi s₀ s) (r : ErrRecord) : Within lo hi s₀ (s.errLog r) :=
  h.aside (State.errLog_aside (Aside.refl s) r) (s.errLog_logOff r)

theorem State.respond_within (h : Within lo hi s₀ s) (e : Bool) (bs : List Byte) : Within lo hi s₀ (s.respond e bs) := h.same

theorem State.refuse_within (h : Within lo hi s₀ s) (m a : Nat) (v : Word) : Within lo hi s₀ (s.refuse m a v) :=
  State.respond_within (State.errLog_within h _) _ _

theorem State.ctlServed_within (h : Within lo hi s₀ s) (m : Nat) : Within lo hi s₀ (s.ctlServed m) :=
  State.p_noted_within (State.p_noted_within h _ _ (by unfold quietAddr; decide) (by decide)) _ _ (by unfold quietAddr; decide)
    (by decide)

theorem State.busFailLog_logOff (s : State) (r : ErrRecord) : LogOff s (s.busFailLog r) :=
  (((s.p_logOff _ _ (by dsimp only; omega)).trans (State.p_logOff _ _ _ (by decide))).trans (State.p_logOff _ _ _ (by decide))).trans
    (State.errLog_logOff _ _)

theorem pulsePins_stays (s : State) (pins : Nat) (l : List Nat) :
    (pulsePins s pins l).regs = s.regs ∧ (pulsePins s pins l).mem = s.mem := by
  induction l generalizing s with
  | nil => exact ⟨rfl, rfl⟩
  | cons p ps ih =>
    unfold pulsePins
    split
    · exact ih _
    · exact ih s

theorem State.raiseSet_logOff (s : State) (r : RaiseInfo) : LogOff s (s.raiseSet r) := by
  unfold State.raiseSet
  extract_lets x y
  have hy : LogOff s y := by
    refine (show LogOff s x from .of_eq rfl rfl).trans ?_
    unfold y
    split
    · exact x.p_logOff _ _ (by dsimp only; omega)
    · exact x.p_logOff _ _ (by dsimp only; omega)
  split
  · obtain ⟨hr, hm⟩ := pulsePins_stays y (y.g (Reg.EVT.ROUTE.PINS r.source)) [0, 1, 2, 3]
    exact hy.trans (.of_eq hm (State.reg_congr hr _))
  · exact hy

theorem State.noteEvent_logOff (s : State) (i : Nat) : LogOff s (s.noteEvent i) := by
  unfold State.noteEvent State.noteHealth
  repeat' split
  all_goals exact .of_eq rfl rfl

/-- A raise writes a record in the log only where the log is on (R498). -/
theorem State.raiseInfo_logOff (s : State) (r : RaiseInfo) : LogOff s (s.raiseInfo r) := by
  unfold State.raiseInfo
  split
  · extract_lets t
    have ht : LogOff s t := (s.raiseSet_logOff r).trans (State.noteEvent_logOff _ _)
    split
    · refine fun off => ?_
      have hoff := (ht off).2
      unfold State.logAppend
      rw [hoff]
      exact ht off
    · exact ht
  · exact LogOff.refl s

theorem State.raiseInfo_within (h : Within lo hi s₀ s) (r : RaiseInfo) (hr : r.source < 128) : Within lo hi s₀ (s.raiseInfo r) :=
  h.aside (State.raiseInfo_aside (Aside.refl s) r hr) (s.raiseInfo_logOff r)

theorem State.raise_within (h : Within lo hi s₀ s) (i arg : Nat) (h64 : i < 64 := by decide) : Within lo hi s₀ (s.raise i arg) :=
  State.raiseInfo_within h _ (by dsimp only; omega)

theorem State.busFail_within (h : Within lo hi s₀ s) (r : ErrRecord) (hr : r.master < 64) : Within lo hi s₀ (s.busFail r) :=
  h.aside (State.busFail_aside (Aside.refl s) r hr) ((s.busFailLog_logOff r).trans (State.raiseInfo_logOff _ _))

theorem State.gpioSettle_within (h : Within lo hi s₀ s) : Within lo hi s₀ s.gpioSettle := by
  unfold State.gpioSettle
  extract_lets due
  exact .ite (fun _ => h) fun _ => .fold h.same fun s e _ hs => State.raiseInfo_within hs _ (show Ev.gpio < 128 by decide)

/-! ### Writes and reads of registers -/

theorem State.logTaken_within (h : Within lo hi s₀ s) (m a : Nat) (v : Word) (t : Taken) :
    Within lo hi s₀ (s.logTaken m a v t) := by
  unfold State.logTaken
  extract_lets x
  have hx : Within lo hi s₀ x := .ite (fun _ => State.errLog_within h _) fun _ => h
  exact .ite (fun _ => State.errLog_within hx _) fun _ => hx

theorem State.writeFields_within (h : Within lo hi s₀ s) (m a : Nat) (v skip : Word)
    (ha : lo ≤ a ∧ a < hi ∨ ¬ quietAddr a) (hl : a ≠ 0x10040000) : Within lo hi s₀ (s.writeFields m a v skip) := by
  refine State.logTaken_within ?_ m a v _
  refine h.trans ⟨fun b h1 h2 h3 => State.reg_setReg_ne s ?_ _, .of_eq rfl (State.reg_setReg_ne s hl.symm _)⟩
  unfold quietAddr at ha
  omega

theorem State.advance_within (lo hi : Nat) (s : State) (dt : Nat) : Within lo hi s (s.advance dt) :=
  (Within.refl lo hi s).same (by simp) (by simp)

/-- A control write leaves what its act leaves; where it is not made, waits or fails, no other block changes either. -/
theorem State.ctlWrite_othersStay (h : Within lo hi s₀ s) {m : Nat} (hm : m < 64) (a : Nat) (v : Word) {act : State → State}
    (hact : ∀ x, Within lo hi s₀ x → OthersStay lo hi s₀ (act x)) : OthersStay lo hi s₀ (s.ctlWrite m a v act) := by
  unfold State.ctlWrite
  split
  · exact h.othersStay
  split
  · exact (Within.same h : Within lo hi s₀ (s.ctlQueue _)).othersStay
  split
  · exact hact _ (State.respond_within (State.ctlServed_within h m) _ _)
  · exact (State.respond_within (State.busFail_within h _ hm) _ _).othersStay

theorem State.ctlWrite_within (h : Within lo hi s₀ s) {m : Nat} (hm : m < 64) (a : Nat) (v : Word) {act : State → State}
    (hact : ∀ x, Within lo hi s₀ x → Within lo hi s₀ (act x)) : OthersStay lo hi s₀ (s.ctlWrite m a v act) :=
  State.ctlWrite_othersStay h hm a v fun x hx => (hact x hx).othersStay

theorem State.ctlRead_within (h : Within lo hi s₀ s) (m a : Nat) {r : State × Word} (hr : Within lo hi s₀ r.1) :
    Within lo hi s₀ (s.ctlRead m a r) := by
  unfold State.ctlRead State.answer
  exact .ite (fun _ => h) fun _ => .ite (fun _ => State.respond_within (State.ctlServed_within hr m) _ _) fun _ => h.same

theorem State.setSnaps_within (h : Within lo hi s₀ s) (m : Nat) (ws : List (Nat × Word)) : Within lo hi s₀ (s.setSnaps m ws) :=
  .fold h fun _ _ _ hs => hs.same

end Rules

end Sys2Proof.Machine
end

section
/-! PROOF. Commands of wall time, events, supplies and clocks: what each leaves of the other blocks (R78, R81, R468, R471, R475,
R493). -/

-- One lemma after the other: elaborated side by side, they take more threads than the memory of the check holds.
set_option Elab.async false

namespace Sys2Proof.Machine

/-! ### Wall time (R79 to R83) -/

section Time

variable {s₀ s : State}

theorem State.kicked_within {lo hi : Nat} (h : Within lo hi s₀ s) : Within lo hi s₀ s.kicked := h.same

/-- From `s` to `t` no other block than TIME and CUS changes. -/
abbrev TimeWithin (s t : State) : Prop := Within 0x10060000 0x10080000 s t

theorem rateWrite_within (h : TimeWithin s₀ s) (v : Word) : TimeWithin s₀ (rateWrite v s) :=
  State.kicked_within (State.p_within h.same _ _)

theorem State.readyFall_within (h : TimeWithin s₀ s) : TimeWithin s₀ s.readyFall :=
  .ite (fun _ => State.p_within h.same _ _) fun _ => h

theorem timeEnter_within (h : TimeWithin s₀ s) (new : Nat) : TimeWithin s₀ (timeEnter new s) := by
  unfold timeEnter
  extract_lets old x time y
  have hx : TimeWithin s₀ x := State.p_within (.ite (fun _ => State.readyFall_within h) fun _ => h) _ _
  have hy : TimeWithin s₀ y := hx.same
  refine .ite (fun _ => State.p_within hx _ _) fun _ => .ite (fun _ => State.raise_within ?_ _ _) fun _ =>
    .ite (fun _ => State.raise_within hx.same _ _) fun _ => .ite (fun _ => State.raise_within hx _ _) fun _ =>
    .ite (fun _ => State.p_within hx _ _) fun _ => hx
  exact .ite (fun _ => State.p_within hy _ _) fun _ => hy

theorem stateRequest_within (h : TimeWithin s₀ s) (m : Nat) (v : Word) : TimeWithin s₀ (stateRequest m v s) :=
  .ite (fun _ => timeEnter_within h _) fun _ => State.errLog_within h _

theorem kickTimeout_within (h : TimeWithin s₀ s) : TimeWithin s₀ (kickTimeout s) :=
  .ite (fun _ => timeEnter_within h _) fun _ => h

theorem holdoverLimit_within (h : TimeWithin s₀ s) : TimeWithin s₀ (holdoverLimit s) :=
  .ite (fun _ => timeEnter_within h _) fun _ => h

theorem stepWrite_within (h : TimeWithin s₀ s) (m : Nat) (v : Word) : TimeWithin s₀ (stepWrite m v s) := by
  unfold stepWrite
  extract_lets sec ns mag o t
  refine State.p_within (State.p_within (.ite (fun _ => State.p_within h.same _ _) fun _ => ?_) _ _) _ _
  exact State.raise_within (State.p_within (State.refuse_within h _ _ _) _ _) _ _

theorem State.stamp_within (h : TimeWithin s₀ s) (code : Nat) (on : Bool) : TimeWithin s₀ (s.stamp code on) :=
  .ite (fun _ => h) fun _ => .ite (fun _ => h.same) fun _ => State.p_within h _ _

theorem ppsInput_within (h : TimeWithin s₀ s) (rising : Bool) : TimeWithin s₀ (ppsInput rising s) :=
  .ite (fun _ => State.raise_within (State.stamp_within h.same _ _) _ _) fun _ => h

theorem ppsOutput_within (h : TimeWithin s₀ s) : TimeWithin s₀ (ppsOutput s) := .ite (fun _ => h.same) fun _ => h

theorem stampRead_within (h : TimeWithin s₀ s) (m : Nat) : TimeWithin s₀ (stampRead m s).1 := by
  unfold stampRead
  extract_lets q
  split
  · exact h
  · exact State.setSnaps_within h.same _ _

theorem txqRead_within (h : TimeWithin s₀ s) (m p : Nat) : TimeWithin s₀ (txqRead m p s).1 :=
  State.setSnaps_within h.same _ _

end Time

/-! ### Events (R493, R494, R496, R498) -/

section Events

variable {s₀ s : State}

/-- From `s` to `t` nothing changes outside the event block, the error log and the matrix. -/
abbrev EventsWithin (s t : State) : Prop := Within 0 0 s t

theorem clearCause_within (h : EventsWithin s₀ s) {n : Nat} (hn : n < 64) (mask : Nat) : EventsWithin s₀ (clearCause n mask s) :=
  State.p_noted_within h _ _ (by unfold quietAddr; dsimp only; omega) (by dsimp only; omega)

theorem statusClear_within (h : EventsWithin s₀ s) {w : Nat} (hw : w < 4) (v : Word) : EventsWithin s₀ (statusClear w v s) := by
  refine .ite (fun h2 => State.p_noted_within h _ _ (by unfold quietAddr; dsimp only; omega) (by dsimp only; omega)) fun _ =>
    .fold h fun s i hi hs => .ite (fun _ => clearCause_within hs ?_ _) fun _ => hs
  have := List.mem_range.1 hi
  omega

/-- A write of LOG_EN changes a register of the event block, and no byte of memory. -/
theorem writeFields_logEn (s : State) (m : Nat) (v : Word) :
    (∀ a, quietAddr a → (s.writeFields m 0x10040000 v 0).reg a = s.reg a) ∧ (s.writeFields m 0x10040000 v 0).mem = s.mem := by
  unfold State.writeFields
  extract_lets t
  obtain ⟨ha, hm⟩ := (s.setReg 0x10040000 t.word).logTaken_stays m 0x10040000 v t
  refine ⟨fun a hq => (ha.reg a hq).trans (State.reg_setReg_ne s ?_ _), hm⟩
  unfold quietAddr at hq
  omega

theorem logEnable_othersStay (h : EventsWithin s₀ s) (m : Nat) (v : Word) : OthersStay 0 0 s₀ (logEnable m v s) := by
  obtain ⟨hregs, hlog⟩ := h
  obtain ⟨hreg, hmem⟩ := writeFields_logEn s m v
  have hstay (a : Nat) (h1 : a < 0 ∨ 0 ≤ a) (h2 : a < 0x10040000 ∨ 0x10060000 ≤ a) (h3 : a < 0x100A0000 ∨ 0x100B0000 ≤ a) :
      (s.writeFields m 0x10040000 v 0).reg a = s₀.reg a :=
    (hreg a (by unfold quietAddr; omega)).trans (hregs a h1 h2 h3)
  have hbyte (off : s₀.gb Reg.EVT.LOG_EN = false) : (s.writeFields m 0x10040000 v 0).mem = s₀.mem := by
    obtain ⟨hm, -⟩ := hlog off
    exact hmem.trans hm
  unfold logEnable
  extract_lets t
  split
  · refine ⟨fun a h1 h2 h3 => ?_, fun off x => congrArg (Tab.get 0 x) (hbyte off)⟩
    exact (State.reg_p_ne t (f := Reg.EVT.LOG_SEQ) 0 (by dsimp only; omega)).trans (hstay a h1 h2 h3)
  · exact ⟨hstay, fun off x => congrArg (Tab.get 0 x) (hbyte off)⟩

theorem pulseEnd_within (h : EventsWithin s₀ s) (p : Nat) : EventsWithin s₀ (pulseEnd p s) := by
  unfold pulseEnd
  split
  · exact h
  · exact .ite (fun _ => h.same) fun _ => h

end Events

/-! ### Supplies, temperature, the watchdog and low power (R468 to R474, R483) -/

section Supplies

variable {s₀ s : State}

/-- From `s` to `t` no other block than PWR changes. -/
abbrev PowerWithin (s t : State) : Prop := Within 0x10020000 0x10030000 s t

theorem toBackup_within (h : PowerWithin s₀ s) : PowerWithin s₀ (toBackup s) :=
  .ite (fun _ => State.raise_within (State.p_within (State.p_within h _ _) _ _) _ _) fun _ => h

theorem toMain_within (h : PowerWithin s₀ s) : PowerWithin s₀ (toMain s) :=
  .ite (fun _ => h) fun _ => State.p_within h _ _

theorem pwrWarn_within (h : PowerWithin s₀ s) (r below : Nat) : PowerWithin s₀ (pwrWarn r below s) := by
  unfold pwrWarn
  extract_lets now x pwr y pwr' boot z
  have hx : PowerWithin s₀ x := State.p_within (State.p_within h _ _) _ _
  have hy : PowerWithin s₀ y := State.p_within hx.same Reg.PWR.WARN_COUNTS.DIPS _
  exact .ite (fun _ => h) fun _ => .ite (fun _ => hy) fun _ =>
    State.raise_within (State.p_within (State.p_within (show PowerWithin s₀ z from hy.same)
      Reg.PWR.STATUS.WARN_ACTIVE _) Reg.PWR.WARN_COUNTS.EPISODES _) _ _

theorem pwrRecover_within (h : PowerWithin s₀ s) : PowerWithin s₀ (pwrRecover s) :=
  .ite (fun _ => State.raise_within (State.p_within (State.p_within h.same _ _) _ _) _ _) fun _ => h

theorem State.setTempWord_within (h : PowerWithin s₀ s) {i : Nat} (hi : i < 8) (w : Word) : PowerWithin s₀ (s.setTempWord i w) :=
  .ite (fun _ => h.same) fun _ => State.setReg_within h _ _ (by omega) (by omega)

theorem thermalReading_within (h : PowerWithin s₀ s) (temps : List Int) : PowerWithin s₀ (thermalReading temps s) := by
  unfold thermalReading
  split
  · exact h
  extract_lets sensors t x hottest warn calm above hot y z pwr w pwr'
  have hx : PowerWithin s₀ x := .fold h fun s i hi hs => State.setTempWord_within hs (List.mem_range.1 hi) _
  have hy : PowerWithin s₀ y := State.p_within (State.p_within (State.p_within hx _ _) _ _) _ _
  have hz : PowerWithin s₀ z := .ite (fun _ => hy) fun _ => State.p_within hy _ _
  have hw : PowerWithin s₀ w := hz.same
  clear_value w above
  cases above with
  | nil => exact .ite (fun _ => hw.same) fun _ => hw
  | cons i is => exact .ite (fun _ => hw) fun _ => State.raise_within hw.same _ _

theorem wdogKick_within (h : PowerWithin s₀ s) (v : Word) : PowerWithin s₀ (wdogKick v s) :=
  .ite (fun _ => State.p_within h.same _ _) fun _ => h

theorem lpWrite_within (h : PowerWithin s₀ s) (m : Nat) (v : Word) : PowerWithin s₀ (lpWrite m v s) := by
  unfold lpWrite
  extract_lets x y
  have hx : PowerWithin s₀ x := State.writeFields_within h _ _ _ _ (.inl (by decide)) (by decide)
  have hy : PowerWithin s₀ y := State.p_within (State.p_within hx _ _) _ _
  exact .ite (fun _ => hx) fun _ => .ite (fun _ => State.p_within hx _ _) fun _ => hy.same

end Supplies

/-! ### Clocks (R475, R477) -/

section Clocks

variable {s₀ s : State}

/-- From `s` to `t` no other block than CLK changes. -/
abbrev ClocksWithin (s t : State) : Prop := Within 0x10010000 0x10020000 s t

theorem State.lockFalls_within (h : ClocksWithin s₀ s) (k : Nat) : ClocksWithin s₀ (s.lockFalls k) :=
  .ite (fun _ => State.p_within h _ _) fun _ => State.p_within h _ _

theorem pllFail_within (h : ClocksWithin s₀ s) (k : Nat) : ClocksWithin s₀ (pllFail k s) :=
  .ite (fun _ => State.raise_within (State.p_within (State.lockFalls_within h k) _ _) _ _) fun _ => h

theorem pllIdleStop_within (h : ClocksWithin s₀ s) (k : Nat) : ClocksWithin s₀ (pllIdleStop k s) := by
  unfold pllIdleStop
  split
  · exact h
  · exact .ite (fun _ => State.p_within (State.lockFalls_within h.same k) _ _) fun _ => h

end Clocks

/-- Settles O58: each meaning sets fields of its own block, records and events, and an event writes memory only through the log. -/
theorem timeEventAndSupplyCommandsChangeNoOtherBlock : Obligations.TimeEventAndSupplyCommandsChangeNoOtherBlock := by
  have h64 (m : Master) : m.val < 64 := m.isLt.trans (by decide)
  have hadv {lo hi : Nat} (s : State) (dt : Nat) : Within lo hi s (s.advance dt) := s.advance_within lo hi dt
  have hevt (s : State) (dt : Nat) : EventsWithin s (s.advance dt).gpioSettle := State.gpioSettle_within (hadv s dt)
  refine ⟨fun dt m v s => ⟨_, rfl, State.ctlWrite_within (hadv s dt) (h64 m) _ _ fun x hx => rateWrite_within hx v⟩,
    fun dt m v s => ⟨_, rfl, State.ctlWrite_within (hadv s dt) (h64 m) _ _ fun x hx => stepWrite_within hx _ v⟩,
    fun dt m s => ⟨_, rfl, State.ctlWrite_within (hadv s dt) (h64 m) _ _ fun x hx => State.kicked_within hx⟩,
    fun dt s => ⟨_, rfl, (kickTimeout_within (hadv s dt)).othersStay⟩,
    fun dt rising s => ⟨_, rfl, (ppsInput_within (hadv s dt) rising).othersStay⟩,
    fun dt s => ⟨_, rfl, (ppsOutput_within (hadv s dt)).othersStay⟩,
    fun dt m p s => ⟨_, rfl, (State.ctlRead_within (hadv s dt) _ _ (txqRead_within (hadv s dt) _ _)).othersStay⟩,
    fun dt m s => ⟨_, rfl, (State.ctlRead_within (hadv s dt) _ _ (stampRead_within (hadv s dt) _)).othersStay⟩,
    fun dt m target s => ⟨_, rfl, State.ctlWrite_within (hadv s dt) (h64 m) _ _ fun x hx => stateRequest_within hx _ _⟩,
    fun dt s => ⟨_, rfl, (holdoverLimit_within (hadv s dt)).othersStay⟩,
    fun dt m c s => ⟨_, rfl, ?_⟩,
    fun dt m w v s => ⟨_, rfl, State.ctlWrite_within (hevt s dt) (h64 m) _ _ fun x hx =>
      State.writeFields_within hx _ _ _ _ (.inr (by unfold quietAddr; omega)) (by omega)⟩,
    fun dt m on s => ⟨_, rfl, State.ctlWrite_othersStay (hevt s dt) (h64 m) _ _ fun x hx => logEnable_othersStay hx _ _⟩,
    fun dt m v s => ⟨_, rfl, State.ctlWrite_within (hevt s dt) (h64 m) _ _ fun x hx => State.raise_within hx _ _⟩,
    fun dt p s => ⟨_, rfl, (pulseEnd_within (hadv s dt) _).othersStay⟩,
    fun dt s => ⟨_, rfl, (toBackup_within (hadv s dt)).othersStay⟩,
    fun dt s => ⟨_, rfl, (toMain_within (hadv s dt)).othersStay⟩,
    fun dt r below s => ⟨_, rfl, (pwrWarn_within (hadv s dt) _ _).othersStay⟩,
    fun dt s => ⟨_, rfl, (pwrRecover_within (hadv s dt)).othersStay⟩,
    fun dt temps s => ⟨_, rfl, (thermalReading_within (hadv s dt) _).othersStay⟩,
    fun dt m s => ⟨_, rfl, State.ctlWrite_within (hadv s dt) (h64 m) _ _ fun x hx => wdogKick_within hx 1⟩,
    fun dt m target s => ⟨_, rfl, State.ctlWrite_within (hadv s dt) (h64 m) _ _ fun x hx => lpWrite_within hx _ _⟩,
    fun dt k s => ⟨_, rfl, (pllFail_within (hadv s dt) _).othersStay⟩,
    fun dt k s => ⟨_, rfl, (pllIdleStop_within (hadv s dt) _).othersStay⟩⟩
  cases c with
  | status w v => exact State.ctlWrite_within (hevt s dt) (h64 m) _ _ fun x hx => statusClear_within hx w.isLt v
  | cause n mask => exact State.ctlWrite_within (hevt s dt) (h64 m) _ _ fun x hx => clearCause_within hx n.isLt _

end Sys2Proof.Machine
end

section
/-! PROOF. Wall time: what an access finds of it, the writes of RATE, and the time states (R79, R81, R82). -/

-- One lemma after the other: elaborated side by side, they take more threads than the memory of the check holds.
set_option Elab.async false

namespace Sys2Proof.Machine

/-! ### What time's passing and an access leave of wall time -/

/-- Time's passing changes the counts and the pulse of the PPS output alone. -/
theorem State.advance_time_eq (s : State) (dt : Nat) : (s.advance dt).time = { s.time with
    count := (s.advance dt).time.count, lpElapsed := (s.advance dt).time.lpElapsed, ppsOut := (s.advance dt).time.ppsOut } := by
  unfold State.advance
  split <;> rfl

section Advance

variable (s : State) (dt : Nat)

@[simp] theorem State.advance_offset : (s.advance dt).time.offset = s.time.offset := by rw [State.advance_time_eq]
@[simp] theorem State.advance_kickAt : (s.advance dt).time.kickAt = s.time.kickAt := by rw [State.advance_time_eq]
@[simp] theorem State.advance_holdAt : (s.advance dt).time.holdAt = s.time.holdAt := by rw [State.advance_time_eq]
@[simp] theorem State.advance_txq : (s.advance dt).time.txq = s.time.txq := by rw [State.advance_time_eq]
@[simp] theorem State.advance_ppsInAt : (s.advance dt).time.ppsInAt = s.time.ppsInAt := by rw [State.advance_time_eq]
@[simp] theorem State.advance_timeState : (s.advance dt).timeState = s.timeState := State.advance_g s dt _

end Advance

section Access

variable {s : State} {m a : Nat} (dt : Nat)

/-- A write by a master with the right is served after time has passed. -/
theorem State.ctlWrite_served {v : Word} {act : State → State} (hc : s.coreOn = true) (hw : s.mayWrite m a = true) :
    (s.advance dt).ctlWrite m a v act = act (((s.advance dt).ctlServed m).respond false []) :=
  State.ctlWrite_of_mayWrite (by simpa using hc) (by simpa using hw)

/-- A read whose turn it is answers after time has passed. -/
theorem State.ctlRead_served {r : State × Word} (hc : s.coreOn = true) (hr : s.readsNow m = true) :
    (s.advance dt).ctlRead m a r = State.answer r m := by
  obtain ⟨hd, hw⟩ : s.draining m = false ∧ s.ctlWaits m = false := by simpa [State.readsNow] using hr
  simp [State.ctlRead, hc, hr, hd]

theorem State.served_timeState : (((s.advance dt).ctlServed m).respond false []).timeState = s.timeState :=
  s.served_g dt m _

theorem State.served_coreOn (hc : s.coreOn = true) : (((s.advance dt).ctlServed m).respond false []).coreOn = true := by
  rw [(s.served_aside dt m).coreOn, State.advance_coreOn, hc]

end Access

/-! ### RATE and the kick (R79, R82) -/

/-- A write of RATE moves OFFSET so that wall time goes on, shows RATE, and is a kick. -/
theorem rateWrite_spec (v : Word) (s : State) :
    (rateWrite v s).g Reg.TIME.RATE.RATE = v.toNat ∧
      (rateWrite v s).time.offset =
        wrapOffset (s.time.offset + rebase s.time.count (s.gi Reg.TIME.RATE.RATE) (signed 32 v.toNat)) ∧
      (rateWrite v s).timeState = s.timeState ∧ (rateWrite v s).time.kickAt = s.clock ∧
      (∀ x, (rateWrite v s).byte x = s.byte x) ∧ ∀ a, a ≠ 0x1006003C → (rateWrite v s).reg a = s.reg a := by
  refine ⟨?_, rfl, ?_, rfl, fun _ => rfl, fun a ha => ?_⟩
  · exact State.g_p_val _ Reg.TIME.RATE.RATE v.toNat ⟨by decide, v.isLt⟩
  · exact State.g_p_other _ Reg.TIME.RATE.RATE Reg.TIME.STATUS.STATE v.toNat (by decide)
  · exact State.reg_p_ne _ (f := Reg.TIME.RATE.RATE) v.toNat ha

/-- Settles O17: the write is served, and its meaning moves OFFSET, shows RATE and restarts the count of R82. -/
theorem rateWriteKeepsWallTime : Obligations.RateWriteKeepsWallTime := by
  refine ⟨fun dt m v s hc hw => ?_, fun dt m s hc hw => ?_⟩
  · obtain ⟨hrate, hoffset, hstate, hkick, hbyte, hreg⟩ := rateWrite_spec v (((s.advance dt).ctlServed m.val).respond false [])
    refine ⟨_, congrArg Host.Outcome.next (State.ctlWrite_served dt hc hw), hrate, hoffset.trans ?_,
      hstate.trans (State.served_timeState dt), hkick.trans (by simp), fun x => (hbyte x).trans (by simp), fun a ha hx => (hreg a ha).trans (s.served_reg dt _ hx)⟩
    rw [State.gi, s.served_g dt m.val Reg.TIME.RATE.RATE]
    simp [rebase, State.gi]
  · exact ⟨_, congrArg Host.Outcome.next (State.ctlWrite_served dt hc hw), by simp [State.kicked],
      fun x => (by simp : (((s.advance dt).ctlServed m.val).respond false []).byte x = s.byte x), fun a hx => s.served_reg dt _ hx⟩

/-! ### The time states (R81, R82) -/

/-- The state `new` shown in STATUS; where LOCKED ends, a STANDBY_READY unit has fallen back (R360). -/
def State.timeShown (s : State) (new : Nat) : State :=
  (if s.timeState = 2 ∧ new ≠ 2 then s.readyFall else s).p Reg.TIME.STATUS.STATE new

theorem timeEnter_acquiring (s : State) : timeEnter 1 s = (s.timeShown 1).pb Reg.TIME.STATUS.STEP_ARMED true := rfl

theorem timeEnter_locked (s : State) : timeEnter 2 s =
    (if s.timeState = 1 then (s.timeShown 2).kicked.pb Reg.TIME.STATUS.STEP_ARMED false
      else (s.timeShown 2).kicked).raise Ev.timeLock 0 := rfl

/-- The count of HOLDOVER_LIMIT_S starts (R81). -/
def State.held (s : State) : State := { s with time := { s.time with holdAt := s.clock } }

theorem timeEnter_holdover (s : State) : timeEnter 3 s = (s.timeShown 3).held.raise Ev.timeUnlock 3 := rfl

theorem timeEnter_unlocked (s : State) : timeEnter 0 s =
    if s.timeState = 2 then (s.timeShown 0).raise Ev.timeUnlock 0
    else if s.timeState = 1 then (s.timeShown 0).pb Reg.TIME.STATUS.STEP_ARMED false
    else s.timeShown 0 := rfl

section TimeStates

variable (s : State)

theorem State.readyFall_stays : s.readyFall.time = s.time ∧ s.readyFall.clock = s.clock ∧ s.readyFall.coreOn = s.coreOn ∧
    ∀ f : FRef, f.addr ≠ 0x10070004 → s.readyFall.g f = s.g f := by
  unfold State.readyFall
  split
  · exact ⟨rfl, rfl, rfl, fun f hf => State.g_p_apart { s with cus := { s.cus with diffAt := none } } 0 (.inl hf.symm)⟩
  · exact ⟨rfl, rfl, rfl, fun _ _ => rfl⟩

/-- Beside STATE and the role, a change of the time state shows nothing. -/
theorem State.timeShown_stays (new : Nat) : (s.timeShown new).time = s.time ∧ (s.timeShown new).clock = s.clock ∧
    (s.timeShown new).coreOn = s.coreOn ∧
    ∀ f : FRef, f.addr ≠ 0x10070004 → Reg.TIME.STATUS.STATE.apart f → (s.timeShown new).g f = s.g f := by
  unfold State.timeShown
  obtain ⟨ht, hk, hc, hg⟩ := s.readyFall_stays
  split
  · exact ⟨ht, hk, hc, fun f hf ha => (State.g_p_apart _ _ ha).trans (hg f hf)⟩
  · exact ⟨rfl, rfl, rfl, fun f _ ha => State.g_p_apart _ _ ha⟩

theorem State.timeShown_coreOn {s : State} (new : Nat) (hc : s.coreOn = true) : (s.timeShown new).coreOn = true := by
  obtain ⟨-, -, hcore, -⟩ := s.timeShown_stays new
  rw [hcore, hc]

theorem State.timeShown_state {new : Nat} (hn : new < 4) : (s.timeShown new).timeState = new :=
  State.g_p_val _ _ _ ⟨by decide, hn⟩

variable {s}

theorem State.armed_timeState (b : Bool) : (s.pb Reg.TIME.STATUS.STEP_ARMED b).timeState = s.timeState :=
  State.g_p_other _ _ _ _ (by decide)

theorem State.raise_timeState (i arg : Nat) (hi : i < 64) : (s.raise i arg).timeState = s.timeState :=
  s.raise_g_other i arg _ ⟨hi, by decide⟩

theorem timeEnter_timeState {new : Nat} (hn : new < 4) : (timeEnter new s).timeState = new := by
  have hshown := s.timeShown_state hn
  interval_cases new
  · rw [timeEnter_unlocked]
    split
    · rw [State.raise_timeState _ _ (by decide), hshown]
    · split
      · rw [State.armed_timeState, hshown]
      · exact hshown
  · rw [timeEnter_acquiring, State.armed_timeState, hshown]
  · rw [timeEnter_locked, State.raise_timeState _ _ (by decide)]
    split
    · exact (State.armed_timeState false).trans hshown
    · exact hshown
  · rw [timeEnter_holdover, State.raise_timeState _ _ (by decide)]
    exact hshown

/-- STEP_ARMED is set on entry to ACQUIRING. -/
theorem timeEnter_acquiring_armed : (timeEnter 1 s).gb Reg.TIME.STATUS.STEP_ARMED = true := by
  rw [timeEnter_acquiring]
  exact State.gb_pb_same _ _ _

/-- STEP_ARMED is cleared on leaving ACQUIRING. -/
theorem timeEnter_leaves_acquiring {new : Nat} (hs : s.timeState = 1) (hn : new = 0 ∨ new = 2) :
    (timeEnter new s).gb Reg.TIME.STATUS.STEP_ARMED = false := by
  rcases hn with rfl | rfl
  · rw [timeEnter_unlocked, if_neg (by rw [hs]; decide), if_pos hs]
    exact State.gb_pb_same _ _ _
  · rw [timeEnter_locked, if_pos hs]
    unfold State.gb
    rw [State.raise_g_other _ _ _ _ (by decide)]
    exact State.gb_pb_same _ Reg.TIME.STATUS.STEP_ARMED false

theorem timeEnter_lock (hc : s.coreOn = true) : (timeEnter 2 s).evStatus Ev.timeLock = true := by
  have hshown := State.timeShown_coreOn 2 hc
  rw [timeEnter_locked]
  refine State.raise_stands _ _ _ (by decide) ?_
  split <;> exact hshown

/-- Leaving LOCKED raises EV_TIME_UNLOCK. -/
theorem timeEnter_unlock {new : Nat} (hc : s.coreOn = true) (hs : s.timeState = 2) (hn : new = 0 ∨ new = 3) :
    (timeEnter new s).evStatus Ev.timeUnlock = true := by
  rcases hn with rfl | rfl
  · rw [timeEnter_unlocked, if_pos hs]
    exact State.raise_stands _ _ _ (by decide) (State.timeShown_coreOn 0 hc)
  · rw [timeEnter_holdover]
    exact State.raise_stands _ _ _ (by decide) (State.timeShown_coreOn 3 hc)

/-- HOLDOVER begins with its count, and RATE stays. -/
theorem timeEnter_holdover_stays : (timeEnter 3 s).time.holdAt = s.clock ∧
    (timeEnter 3 s).g Reg.TIME.RATE.RATE = s.g Reg.TIME.RATE.RATE := by
  obtain ⟨-, hclock, -, hg⟩ := s.timeShown_stays 3
  rw [timeEnter_holdover, State.raise_time _ _ _ (by decide), State.raise_g_other _ _ _ _ (by decide)]
  exact ⟨hclock, hg Reg.TIME.RATE.RATE (by decide) (.inl (by decide))⟩

/-- The end of HOLDOVER leaves OFFSET. -/
theorem timeEnter_unlocked_offset (hs : s.timeState = 3) : (timeEnter 0 s).time.offset = s.time.offset := by
  obtain ⟨htime, -⟩ := s.timeShown_stays 0
  rw [timeEnter_unlocked, if_neg (by rw [hs]; decide), if_neg (by rw [hs]; decide), htime]

/-! ### Requests, kicks that fail to come, and the end of HOLDOVER -/

theorem timeRequestAllowed_iff (old new : Nat) : timeRequestAllowed old new = true ↔
    (old, new) ∈ [(0, 1), (1, 2), (1, 0), (2, 3), (2, 0), (3, 2), (3, 0)] := by
  simp [timeRequestAllowed, or_assoc]

theorem timeRequestAllowed_acquiring : ∀ x : Fin 4, timeRequestAllowed 1 x.val = true → x.val = 0 ∨ x.val = 2 := by decide

theorem timeRequestAllowed_locked : ∀ x : Fin 4, timeRequestAllowed 2 x.val = true → x.val = 0 ∨ x.val = 3 := by decide

/-- STATE_REQ holds the state asked for in its lowest bits. -/
theorem stateReq_target : ∀ x : Fin 4, fieldGet (BitVec.ofNat 32 x.val) 0 2 = x.val := by decide

theorem stateRequest_allowed (m : Nat) {x : Fin 4} (h : timeRequestAllowed s.timeState x.val = true) :
    stateRequest m (BitVec.ofNat 32 x.val) s = timeEnter x.val s := by
  unfold stateRequest
  rw [stateReq_target, if_pos h]

/-- A request that the table does not hold makes a record and no more. -/
theorem stateRequest_refused (m : Nat) {x : Fin 4} (h : timeRequestAllowed s.timeState x.val = false) (f : FRef)
    (hf : quietAddr f.addr) : (stateRequest m (BitVec.ofNat 32 x.val) s).g f = s.g f := by
  unfold stateRequest
  rw [stateReq_target, if_neg (by rw [h]; decide)]
  exact State.errLog_g s _ hf

theorem execKickTimeout_due (dt : Nat) (hs : s.timeState = 2) (hl : s.g Reg.TIME.CTRL.KICK_TIMEOUT_MS ≠ 0)
    (hd : s.g Reg.TIME.CTRL.KICK_TIMEOUT_MS * 1000000 ≤ s.clock + dt - s.time.kickAt) :
    exec (.kickTimeout dt) s = .next (timeEnter 3 (s.advance dt)) :=
  congrArg Host.Outcome.next (if_pos (by simpa using ⟨hs, hl, hd⟩))

theorem execKickTimeout_early (dt : Nat) (hd : s.clock + dt - s.time.kickAt < s.g Reg.TIME.CTRL.KICK_TIMEOUT_MS * 1000000) :
    exec (.kickTimeout dt) s = .next (s.advance dt) :=
  congrArg Host.Outcome.next (if_neg (by simpa using fun _ _ => hd))

theorem execHoldoverLimit_due (dt : Nat) (hs : s.timeState = 3) (hl : s.g Reg.TIME.CTRL.HOLDOVER_LIMIT_S ≠ 0)
    (hd : s.g Reg.TIME.CTRL.HOLDOVER_LIMIT_S * 1000000000 ≤ s.clock + dt - s.time.holdAt) :
    exec (.holdoverLimit dt) s = .next (timeEnter 0 (s.advance dt)) :=
  congrArg Host.Outcome.next (if_pos (by simpa using ⟨hs, hl, hd⟩))

theorem execHoldoverLimit_early (dt : Nat) (hd : s.clock + dt - s.time.holdAt < s.g Reg.TIME.CTRL.HOLDOVER_LIMIT_S * 1000000000) :
    exec (.holdoverLimit dt) s = .next (s.advance dt) :=
  congrArg Host.Outcome.next (if_neg (by simpa using fun _ _ => hd))

end TimeStates

/-- Settles O18: each transition of the table is `timeEnter`, whose case for the state entered says what rises and falls. -/
theorem timeStatesFollowTheTable : Obligations.TimeStatesFollowTheTable := by
  refine ⟨fun dt m x s hc hw hx => ?_, fun dt m x s hc hw hx => ?_, fun dt s hc hs hl hd => ?_, fun dt s _ hd => ?_,
    fun dt s _ hs hl hd => ?_, fun dt s _ hd => ?_⟩
  · have hallowed := (timeRequestAllowed_iff _ _).2 hx
    have hstate : (((s.advance dt).ctlServed m.val).respond false []).timeState = s.timeState := State.served_timeState dt
    have hcore := s.served_coreOn (m := m.val) dt hc
    have he : exec (.timeStateRequest dt m x) s = .next (timeEnter x.val (((s.advance dt).ctlServed m.val).respond false [])) :=
      congrArg Host.Outcome.next ((State.ctlWrite_served dt hc hw).trans
        (stateRequest_allowed _ (by rw [hstate]; exact hallowed)))
    refine ⟨_, he, timeEnter_timeState x.isLt, fun h1 => ?_, fun h1 => ?_, fun h2 => ?_, fun h2 => ?_⟩
    · rw [h1]; exact timeEnter_acquiring_armed
    · exact timeEnter_leaves_acquiring (hstate.trans h1) (timeRequestAllowed_acquiring x (h1 ▸ hallowed))
    · rw [h2]; exact timeEnter_lock hcore
    · exact timeEnter_unlock hcore (hstate.trans h2) (timeRequestAllowed_locked x (h2 ▸ hallowed))
  · have hstate : (((s.advance dt).ctlServed m.val).respond false []).timeState = s.timeState := State.served_timeState dt
    have hg := stateRequest_refused m.val (x := x) (s := ((s.advance dt).ctlServed m.val).respond false [])
      (by rw [hstate]; exact Bool.eq_false_iff.2 fun h => hx ((timeRequestAllowed_iff _ _).1 h))
    refine ⟨_, congrArg Host.Outcome.next (State.ctlWrite_served dt hc hw), ?_, ?_, ?_⟩
    · exact (hg _ (by unfold quietAddr; decide)).trans (s.served_g dt _ _)
    · exact congrArg (fun y => y != 0) ((hg _ (by unfold quietAddr; decide)).trans (s.served_g dt _ Reg.TIME.STATUS.STEP_ARMED))
    · exact (hg _ (by unfold quietAddr; decide)).trans (s.served_g dt _ _)
  · obtain ⟨hheld, hrate⟩ := timeEnter_holdover_stays (s := s.advance dt)
    exact ⟨_, execKickTimeout_due dt hs hl hd, timeEnter_timeState (by decide), hheld.trans (s.advance_clock dt),
      timeEnter_unlock (by simpa using hc) (by simpa using hs) (.inr rfl), hrate.trans (s.advance_g dt _)⟩
  · exact ⟨_, execKickTimeout_early dt hd, rfl⟩
  · exact ⟨_, execHoldoverLimit_due dt hs hl hd, timeEnter_timeState (by decide),
      (timeEnter_unlocked_offset (by simpa using hs)).trans (s.advance_offset dt)⟩
  · exact ⟨_, execHoldoverLimit_early dt hd, rfl⟩

end Sys2Proof.Machine
end

section
/-! PROOF. A refused step whose record is the oldest of a full error log (R83, R417, R418). -/

namespace Sys2Proof.Machine

/-- The Curator runs, and in the present clock sixteen writes of the host, a master of a higher number, have been refused: the error
log is full. -/
def fullErrLog : State :=
  let s := State.reset.p (Reg.ENG.STATUS.STATE 0) 2
  { s with bus := { s.bus with err := List.replicate 16 (ctlRecord s Rsn.protect 3 0x10000014 true true 0) } }

/-- The record of the Curator's refused write goes before those of the host, and as the oldest of seventeen it is overwritten. -/
theorem stepWrite_fullErrLog :
    ∀ r ∈ ((fullErrLog.advance 0).ctlWrite 0 0x10060040 0 (stepWrite 0 0)).bus.err, r.reason = Rsn.protect := by
  decide +kernel

/-- Refutes O19: within one clock the log stands in the order of the masters (R418), so that in `fullErrLog` the record of the refused
write of STEP_NS is the oldest and is lost, though LOG_MASK takes refusals. -/
theorem not_stepOnceWhileArmed : ¬ Obligations.StepOnceWhileArmed := by
  rintro ⟨-, hrefused⟩
  obtain ⟨t, ht, -, -, -, -, -, hlogged, -⟩ :=
    hrefused 0 0 0 fullErrLog (by decide) (by decide) (.inl (by decide))
  obtain ⟨r, hr, hreason, -⟩ := hlogged (by decide)
  obtain rfl := Host.Outcome.next.inj ht
  exact absurd (hreason.symm.trans (stepWrite_fullErrLog r hr)) (by decide)

end Sys2Proof.Machine
end

section
/-! PROOF. The stamp queues and PPS (R88 to R92). -/

-- One lemma after the other: elaborated side by side, they take more threads than the memory of the check holds.
set_option Elab.async false

namespace Sys2Proof.Machine

/-! ### The answer to a read of a queue (R88, R90) -/

section Queues

variable {s : State} {m : Nat}

@[simp] theorem State.answer_time (r : State × Word) (m : Nat) : (State.answer r m).time = r.1.time := rfl

theorem State.answer_resp (r : State × Word) (m : Nat) : (State.answer r m).bus.resp = some ⟨false, leBytes r.2.toNat 4⟩ := rfl

theorem State.answer_snap (r : State × Word) (m a : Nat) : (State.answer r m).snap m a = r.1.snap m a := by
  unfold State.snap
  rw [State.answer_snaps]

/-- Of two words captured, the first reads as captured. -/
theorem State.snap_setSnaps_first (s : State) (m : Nat) {a b : Nat} (h : a ≠ b) (u w : Word) :
    (s.setSnaps m [(a, u), (b, w)]).snap m a = u := by
  have hkey : snapKey m a ≠ snapKey m b := by unfold snapKey; omega
  exact (Tab.get_put_ne 0 0 hkey w _).trans (State.snap_setSnap_same s m a u)

/-- The stamper queue serves a read of the oldest stamp by any other master, and by the link and time engine while it runs (R23). -/
theorem stampRead_oldest {x : Stamp} {rest : List Stamp} (h : m ≠ engMaster 23 ∨ s.engRunning 23 = true)
    (hq : s.time.stamps = x :: rest) :
    (stampRead m s).1.time.stamps = rest ∧ (stampRead m s).2 = BitVec.ofNat 32 (2 ^ 31 + wallNs x.wall) ∧
      (stampRead m s).1.snap m 0x1006005C = BitVec.ofNat 32 (wallSec x.wall) := by
  have hserves : ¬ (m = engMaster 23 ∧ s.engRunning 23 = false) := by
    rintro ⟨hm, hr⟩
    rcases h with h | h
    · exact h hm
    · exact Bool.false_ne_true (hr.symm.trans h)
  unfold stampRead
  rw [if_neg hserves, hq]
  exact ⟨rfl, rfl, State.snap_setSnaps_first _ _ (by decide) _ _⟩

theorem stampRead_empty (m : Nat) (hq : s.time.stamps = []) : (stampRead m s).1.time.stamps = [] ∧ (stampRead m s).2 = 0 := by
  unfold stampRead
  rw [hq]
  split
  · exact ⟨hq, rfl⟩
  · exact ⟨rfl, rfl⟩

theorem txqRead_oldest (m p : Nat) {x : Stamp} {rest : List Stamp} (hq : Tab.get [] p s.time.txq = x :: rest) :
    Tab.get [] p (txqRead m p s).1.time.txq = rest ∧ (txqRead m p s).2 = BitVec.ofNat 32 (2 ^ 31 + wallNs x.wall) ∧
      (txqRead m p s).1.snap m (0x10060204 + 0x10 * p) = BitVec.ofNat 32 (wallSec x.wall) := by
  have ha : 0x10060204 + 0x10 * p = 0x10060200 + 0x10 * p + 4 := by omega
  unfold txqRead
  rw [hq, ha]
  exact ⟨Tab.get_put_same _ _ _ _, rfl, State.snap_setSnaps_first _ _ (by omega) _ _⟩

theorem txqRead_empty (m p : Nat) (hq : Tab.get [] p s.time.txq = []) :
    Tab.get [] p (txqRead m p s).1.time.txq = [] ∧ (txqRead m p s).2 = 0 := by
  unfold txqRead
  rw [hq]
  exact ⟨Tab.get_put_same [] p [] s.time.txq, rfl⟩

end Queues

/-! ### PPS (R91, R92) -/

section Pps

variable {s : State}

/-- A stamp taken where its source is enabled and the queue has room. -/
theorem State.stamp_room (code : Nat) (h : s.time.stamps.length < 64) :
    s.stamp code true = { s with time := { s.time with stamps := s.time.stamps ++ [⟨s.wall, code, s.timeState⟩] } } :=
  if_pos h

/-- An accepted edge is noted, stamped and raised. -/
theorem ppsInput_accepted {rising : Bool} (hc : s.coreOn = true) (he : s.gb Reg.TIME.PPS_CTRL.IN_EN = true)
    (hp : s.gb Reg.TIME.PPS_CTRL.IN_EDGE ≠ rising)
    (hd : s.time.ppsInAt.all (fun c => decide (100000000 ≤ s.clock - c)) = true) :
    ppsInput rising s =
      (({ s with time := { s.time with ppsInAt := some s.clock } }).stamp 88 (s.gb Reg.TIME.STAMP_EN.PPS)).raise Ev.pps 0 := by
  have hedge : (s.gb Reg.TIME.PPS_CTRL.IN_EDGE != rising) = true := bne_iff_ne.2 hp
  unfold ppsInput
  cases hin : s.time.ppsInAt with
  | none => simp [hc, he, hedge]
  | some c =>
    rw [hin] at hd
    simpa [hc, he, hedge] using fun h => absurd hd (by simpa using h)

/-- An edge within 100 ms of the last one accepted changes nothing. -/
theorem ppsInput_soon {rising : Bool} {c : Nat} (hin : s.time.ppsInAt = some c) (hd : s.clock < c + 100000000) :
    ppsInput rising s = s := by
  have hsoon : ¬ 100000000 ≤ s.clock - c := by omega
  unfold ppsInput
  rw [hin]
  simp [hsoon]

/-- The output rises near a whole second of wall time, for the width then in force. -/
theorem ppsOutput_rises (hd : s.ppsDriven = true) (hw : wallNs s.wall ≤ 5 ∨ 999999995 ≤ wallNs s.wall) :
    ppsOutput s = { s with time := { s.time with
      ppsOut := true, ppsEnd := s.clock + 1000000 * s.g Reg.TIME.PPS_CTRL.OUT_WIDTH_MS } } :=
  if_pos (by simpa [hd] using hw)

@[simp] theorem State.advance_ppsDriven (s : State) (dt : Nat) : (s.advance dt).ppsDriven = s.ppsDriven := by
  simp [State.ppsDriven]

end Pps

/-- Settles O20: a read whose turn it is takes the oldest stamp, an accepted edge is stamped and raised, and the pulse of the output
lasts from its clock for the width in force. -/
theorem stampQueuesAndPps : Obligations.StampQueuesAndPps := by
  refine ⟨fun dt m x rest s hc hr hm hq => ?_, fun dt m s hc hr hq => ?_, fun dt m p x rest s hc hr hq => ?_,
    fun dt m p s hc hr hq => ?_, fun dt b s hc he hp hd hen hroom => ?_, fun dt c b s hin hd => ?_, fun dt s hdrv hw => ?_⟩
  · obtain ⟨hrest, hword, hsnap⟩ := stampRead_oldest (s := s.advance dt) (m := m.val)
      (hm.imp_right fun h => by simpa [State.engRunning] using h) ((s.advance_stamps dt).trans hq)
    refine ⟨_, congrArg Host.Outcome.next (State.ctlRead_served dt hc hr), hrest, ?_, (State.answer_snap _ _ _).trans hsnap⟩
    rw [State.answer_resp, hword]
  · obtain ⟨hrest, hword⟩ := stampRead_empty (s := s.advance dt) m.val ((s.advance_stamps dt).trans hq)
    refine ⟨_, congrArg Host.Outcome.next (State.ctlRead_served dt hc hr), hrest, ?_⟩
    rw [State.answer_resp, hword]
    rfl
  · obtain ⟨hrest, hword, hsnap⟩ := txqRead_oldest (s := s.advance dt) m.val p.val (by simpa using hq)
    refine ⟨_, congrArg Host.Outcome.next (State.ctlRead_served dt hc hr), hrest, ?_, (State.answer_snap _ _ _).trans hsnap⟩
    rw [State.answer_resp, hword]
  · obtain ⟨hrest, hword⟩ := txqRead_empty (s := s.advance dt) m.val p.val (by simpa using hq)
    refine ⟨_, congrArg Host.Outcome.next (State.ctlRead_served dt hc hr), hrest, ?_⟩
    rw [State.answer_resp, hword]
    rfl
  · have haccept := ppsInput_accepted (s := s.advance dt) (rising := b) (by simpa using hc) (by simpa using he) (by simpa using hp)
      (by simpa using hd)
    rw [State.advance_gb, hen, State.stamp_room 88 (by simpa [State.advance_stamps] using hroom)] at haccept
    refine ⟨_, congrArg Host.Outcome.next haccept, ?_, ?_, State.raise_stands _ _ _ (by decide) ?_⟩
    · rw [State.raise_time _ _ _ (by decide)]
      simp only [State.advance_stamps]
      rw [← s.advance_timeState dt]
      rfl
    · rw [State.raise_time _ _ _ (by decide)]
      exact congrArg some (s.advance_clock dt)
    · exact (s.advance_coreOn dt).trans hc
  · exact ⟨_, congrArg Host.Outcome.next (ppsInput_soon ((s.advance_ppsInAt dt).trans hin) (by simpa using hd)), rfl⟩
  · have hrise := ppsOutput_rises (s := s.advance dt) (by simpa using hdrv) hw
    rw [State.advance_clock, State.advance_g] at hrise
    refine ⟨_, congrArg Host.Outcome.next hrise, rfl, rfl, fun hn => ?_⟩
    have hdriven : (s.advance dt).ppsDriven = true := (s.advance_ppsDriven dt).trans hdrv
    have hlong : s.clock + dt < s.clock + dt + 1000000 * s.g Reg.TIME.PPS_CTRL.OUT_WIDTH_MS := by omega
    unfold State.ppsLevel
    rw [Bool.and_eq_true, Bool.and_eq_true, decide_eq_true_eq]
    exact ⟨⟨hdriven, rfl⟩, (s.advance_clock dt).symm ▸ hlong⟩

end Sys2Proof.Machine
end

section
/-! PROOF. Frames of the network ports: what a received and a transmitted frame count, where they go, and what they leave (R87, R88,
R99 to R101). -/

-- One lemma after the other: elaborated side by side, they take more threads than the memory of the check holds.
set_option Elab.async false

namespace Sys2Proof.Machine

theorem State.wall_congr {s t : State} (ht : t.time = s.time) (hr : t.g Reg.TIME.RATE.RATE = s.g Reg.TIME.RATE.RATE) :
    t.wall = s.wall := by
  unfold State.wall State.wallAt State.gi
  rw [ht, hr]

/-- A counter that wraps. -/
theorem State.g_inc_same (s : State) (f : FRef) (h : f.lo + f.width ≤ 32) : (s.inc f).g f = (s.g f + 1) % 2 ^ f.width :=
  State.g_p_same _ _ _ h

theorem State.g_inc_apart (s : State) {f f' : FRef} (h : f.apart f') : (s.inc f).g f' = s.g f' := State.g_p_apart _ _ h

/-! ### Received frames (R99, R100) -/

/-- The Curator has taken `k` frames from its queue. -/
def State.curatorTook (s : State) (k : Nat) : State := { s with net := { s.net with curator := s.net.curator.drop k } }

theorem State.curatorTook_g (s : State) (k : Nat) (f : FRef) : (s.curatorTook k).g f = s.g f := rfl

section Receive

variable {s : State} {p k : Nat} {bs : List Byte}

/-- A frame that passes the checks is ARP or IPv4, and no pause frame. -/
theorem State.frameGood_noPause {q l : Nat} {ok : Bool} (h : s.frameGood q l bs ok = true) : beAt bs 12 2 ≠ 0x8808 := by
  intro he
  have hether : (etherBody bs).1 = 0x8808 := by
    unfold etherBody
    rw [he]
    rfl
  simp [State.frameGood, hether] at h

@[simp] theorem State.advance_frameGood (s : State) (dt q l : Nat) (bs : List Byte) (ok : Bool) :
    (s.advance dt).frameGood q l bs ok = s.frameGood q l bs ok := by
  simp [State.frameGood]

/-- Frames are received with CORE on and LINK 1, whatever the Curator has taken. -/
theorem State.curatorTook_up {q l : Nat} (hc : s.coreOn = true) (hl : s.gb (Reg.NET.PORT.LINK q l) = true) :
    ¬ (!(s.curatorTook k).coreOn || !(s.curatorTook k).gb (Reg.NET.PORT.LINK q l)) = true := by
  change ¬ (!s.coreOn || !s.gb _) = true
  simp [hc, hl]

theorem frameReceive_good {ok : Bool} (hc : s.coreOn = true) (hl : s.gb (Reg.NET.PORT.LINK (p / 4) (p % 4)) = true)
    (hg : s.frameGood (p / 4) (p % 4) bs ok = true) : frameReceive p k bs ok s =
      ((s.curatorTook k).inc (Reg.NET.PORT.RX_FRAMES (p / 4) (p % 4))).routeFrame p bs := by
  have hpause : ¬ (ok && decide (64 ≤ bs.length) && beAt bs 12 2 == 0x8808) = true := by
    simp [State.frameGood_noPause hg]
  exact (if_neg (State.curatorTook_up hc hl)).trans ((if_neg hpause).trans (if_pos hg))

theorem frameReceive_bad {ok : Bool} (hc : s.coreOn = true) (hl : s.gb (Reg.NET.PORT.LINK (p / 4) (p % 4)) = true)
    (hg : s.frameGood (p / 4) (p % 4) bs ok = false) (he : beAt bs 12 2 ≠ 0x8808) : frameReceive p k bs ok s =
      (s.curatorTook k).inc (Reg.NET.PORT.RX_BAD (p / 4) (p % 4)) := by
  have hpause : ¬ (ok && decide (64 ≤ bs.length) && beAt bs 12 2 == 0x8808) = true := by simp [he]
  exact (if_neg (State.curatorTook_up hc hl)).trans ((if_neg hpause).trans (if_neg (Bool.eq_false_iff.1 hg)))

theorem frameReceive_pause (hc : s.coreOn = true) (hl : s.gb (Reg.NET.PORT.LINK (p / 4) (p % 4)) = true)
    (hn : 64 ≤ bs.length) (he : beAt bs 12 2 = 0x8808) : frameReceive p k bs true s =
      (s.curatorTook k).inc (Reg.NET.PORT.RX_PAUSE (p / 4) (p % 4)) := by
  exact (if_neg (State.curatorTook_up hc hl)).trans (if_pos (by simp [hn, he]))

/-- Routing counts what it drops, and shows nothing else. -/
theorem State.routeFrame_g (s : State) (p : Nat) (bs : List Byte) (f : FRef)
    (ho : f.addr ≠ (Reg.NET.PORT.RX_OVERFLOW (p / 4) (p % 4)).addr)
    (hu : f.addr ≠ (Reg.NET.PORT.RX_UNMATCHED (p / 4) (p % 4)).addr) : (s.routeFrame p bs).g f = s.g f := by
  have hover : (s.inc (Reg.NET.PORT.RX_OVERFLOW (p / 4) (p % 4))).g f = s.g f := State.g_inc_apart _ (.inl ho.symm)
  have hunmatched : (s.inc (Reg.NET.PORT.RX_UNMATCHED (p / 4) (p % 4))).g f = s.g f := State.g_inc_apart _ (.inl hu.symm)
  have hcurator : (s.toCurator p (untagged bs)).g f = s.g f := by
    unfold State.toCurator
    split
    · rfl
    · exact hover
  unfold State.routeFrame
  extract_lets q l body ip hl proto udp
  split
  · exact hover
  split
  · exact hcurator
  split
  · exact hunmatched
  split
  · rfl
  · split
    · exact hcurator
    · exact hunmatched

theorem frameReceive_good_counts {ok : Bool} (hc : s.coreOn = true) (hl : s.gb (Reg.NET.PORT.LINK (p / 4) (p % 4)) = true)
    (hg : s.frameGood (p / 4) (p % 4) bs ok = true) :
    (frameReceive p k bs ok s).g (Reg.NET.PORT.RX_FRAMES (p / 4) (p % 4)) =
        (s.g (Reg.NET.PORT.RX_FRAMES (p / 4) (p % 4)) + 1) % 2 ^ 32 ∧
      (frameReceive p k bs ok s).g (Reg.NET.PORT.RX_BAD (p / 4) (p % 4)) = s.g (Reg.NET.PORT.RX_BAD (p / 4) (p % 4)) := by
  rw [frameReceive_good hc hl hg, State.routeFrame_g _ p bs (Reg.NET.PORT.RX_FRAMES _ _) (by dsimp only; omega) (by dsimp only; omega),
    State.routeFrame_g _ p bs (Reg.NET.PORT.RX_BAD _ _) (by dsimp only; omega) (by dsimp only; omega)]
  exact ⟨State.g_inc_same (s.curatorTook k) (Reg.NET.PORT.RX_FRAMES (p / 4) (p % 4)) (show 0 + 32 ≤ 32 by decide),
    State.g_inc_apart (s.curatorTook k) (f := Reg.NET.PORT.RX_FRAMES (p / 4) (p % 4)) (f' := Reg.NET.PORT.RX_BAD (p / 4) (p % 4))
      (.inl (by dsimp only; omega))⟩

/-- An ARP frame joins the Curator's queue where that and the packet buffer have room. -/
theorem State.routeFrame_arp (he : (etherBody bs).1 = 0x0806) (hq : s.quadBytes (p / 4) + bs.length ≤ 98304)
    (hroom : s.net.curator.length < 256) : (s.routeFrame p bs).net.curator = s.net.curator ++ [(p, s.wall, untagged bs)] := by
  have hroute : s.routeFrame p bs = s.toCurator p (untagged bs) := (if_neg (by omega)).trans (if_pos (.inl he))
  rw [hroute, State.toCurator, if_pos hroom]

/-- A good ARP frame joins what the Curator has left in its queue, with the time of its arrival. -/
theorem frameReceive_arp {ok : Bool} (hc : s.coreOn = true) (hl : s.gb (Reg.NET.PORT.LINK (p / 4) (p % 4)) = true)
    (hg : s.frameGood (p / 4) (p % 4) bs ok = true) (he : (etherBody bs).1 = 0x0806)
    (hq : (s.curatorTook k).quadBytes (p / 4) + bs.length ≤ 98304) (hroom : (s.net.curator.drop k).length < 256) :
    (frameReceive p k bs ok s).net.curator = s.net.curator.drop k ++ [(p, s.wall, untagged bs)] := by
  have hwall : ((s.curatorTook k).inc (Reg.NET.PORT.RX_FRAMES (p / 4) (p % 4))).wall = s.wall :=
    State.wall_congr rfl (State.g_inc_apart (s.curatorTook k) (f := Reg.NET.PORT.RX_FRAMES (p / 4) (p % 4))
      (.inl (by dsimp only; omega)))
  have harp := State.routeFrame_arp (s := (s.curatorTook k).inc (Reg.NET.PORT.RX_FRAMES (p / 4) (p % 4))) he hq hroom
  rw [frameReceive_good hc hl hg, harp, hwall]
  rfl

end Receive

/-! ### Transmitted frames (R87, R88) -/

section Transmit

variable {s : State} {p : Nat} {bs : List Byte}

/-- The frame sent and counted. -/
def State.frameSent (s : State) (p : Nat) (bs : List Byte) : State :=
  { s.inc (Reg.NET.PORT.TX_FRAMES (p / 4) (p % 4)) with net := { s.net with sent := Tab.put [] p [bs] s.net.sent } }

theorem frameTransmit_up {tag : Option Nat} (hc : s.coreOn = true) (hl : s.gb (Reg.NET.PORT.LINK (p / 4) (p % 4)) = true) :
    frameTransmit p bs tag s = tag.elim (s.frameSent p bs) ((s.frameSent p bs).txStamp p) := by
  have hup : (s.coreOn && s.gb (Reg.NET.PORT.LINK (p / 4) (p % 4))) = true := by rw [hc, hl]; rfl
  refine (if_pos hup).trans ?_
  cases tag <;> rfl

theorem State.txStamp_room (tag : Nat) (h : (Tab.get [] p s.time.txq).length < 32) : s.txStamp p tag =
    { s with time := { s.time with txq := Tab.put [] p (Tab.get [] p s.time.txq ++ [⟨s.wall, tag, s.timeState⟩]) s.time.txq } } :=
  if_pos h

theorem State.frameSent_txFrames (s : State) (p : Nat) (bs : List Byte) :
    (s.frameSent p bs).g (Reg.NET.PORT.TX_FRAMES (p / 4) (p % 4)) =
      (s.g (Reg.NET.PORT.TX_FRAMES (p / 4) (p % 4)) + 1) % 2 ^ 32 :=
  State.g_inc_same s (Reg.NET.PORT.TX_FRAMES (p / 4) (p % 4)) (show 0 + 32 ≤ 32 by decide)

/-- Sending a frame leaves the registers of TIME. -/
theorem State.frameSent_time_g (s : State) (p : Nat) (bs : List Byte) (f : FRef) (hf : f.addr < 0x10500000) :
    (s.frameSent p bs).g f = s.g f :=
  State.g_inc_apart s (f := Reg.NET.PORT.TX_FRAMES (p / 4) (p % 4)) (.inl (by dsimp only; omega))

theorem State.advance_granted (s : State) (dt : Nat) : (s.advance dt).granted = s.granted := by
  simp [State.granted, State.sealActive]

/-- A frame not marked ACTING, and any frame with the grant, is transmitted (R361). -/
theorem execNetFrameTransmit_granted {p : Fin 16} {g : Option (BitVec 16)} {a : Bool} (dt : Nat) (hc : s.coreOn = true)
    (hl : s.gb (Reg.NET.PORT.LINK (p.val / 4) (p.val % 4)) = true) (ha : a = true → s.granted = true) :
    exec (.netFrameTransmit dt p bs ⟨g, a⟩) s = .next ((g.map BitVec.toNat).elim ((s.advance dt).frameSent p.val bs)
      (((s.advance dt).frameSent p.val bs).txStamp p.val)) := by
  have hgrant : ¬ (a && !(s.advance dt).granted) = true := by
    rw [State.advance_granted]
    cases a
    · simp
    · simp [ha rfl]
  exact congrArg Host.Outcome.next ((if_neg hgrant).trans (frameTransmit_up (by simpa using hc) (by simpa using hl)))

end Transmit

/-- Settles O22: each kind of received frame has its counter, and a transmitted one is stamped by its descriptor. That a pause frame is
one of EtherType 0x8808 is the model's reading (log entry 45). -/
theorem netFrames : Obligations.NetFrames := by
  refine ⟨fun dt p k bs ok s hc hl hg he hroom hq => ?_, fun dt p k bs ok s hc hl hg => ?_, fun dt p k bs ok s hc hl hg he => ?_,
    fun dt p k bs s hc hl hn he => ?_, fun dt p bs a s hc hl ha => ?_, fun dt p bs g a s hc hl ha hroom => ?_,
    fun dt p bs g s ha => ?_⟩
  · have hc' : (s.advance dt).coreOn = true := by simpa using hc
    have hl' : (s.advance dt).gb (Reg.NET.PORT.LINK (p.val / 4) (p.val % 4)) = true := by simpa using hl
    have hg' : (s.advance dt).frameGood (p.val / 4) (p.val % 4) bs ok = true := by simpa using hg
    have hquad : ((s.advance dt).curatorTook k).quadBytes (p.val / 4) = (s.curatorTook k).quadBytes (p.val / 4) := by
      simp [State.quadBytes, State.curatorTook]
    have harp := frameReceive_arp (k := k) hc' hl' hg' he (hquad.symm ▸ hq) (by simpa using hroom)
    obtain ⟨hframes, hbad⟩ := frameReceive_good_counts (k := k) hc' hl' hg'
    exact ⟨_, rfl, hframes.trans (by simp), hbad.trans (by simp), by rw [harp, State.advance_net]⟩
  · obtain ⟨hframes, hbad⟩ := frameReceive_good_counts (s := s.advance dt) (k := k) (by simpa using hc) (by simpa using hl)
      (by simpa using hg)
    exact ⟨_, rfl, hframes.trans (by simp), hbad.trans (by simp)⟩
  · have hbad := frameReceive_bad (s := s.advance dt) (k := k) (by simpa using hc) (by simpa using hl) (by simpa using hg) he
    have hcount := State.g_inc_same ((s.advance dt).curatorTook k) (Reg.NET.PORT.RX_BAD (p.val / 4) (p.val % 4))
      (show 0 + 32 ≤ 32 by decide)
    have hframes := State.g_inc_apart ((s.advance dt).curatorTook k) (f := Reg.NET.PORT.RX_BAD (p.val / 4) (p.val % 4))
      (f' := Reg.NET.PORT.RX_FRAMES (p.val / 4) (p.val % 4)) (.inl (by dsimp only; omega))
    exact ⟨_, congrArg Host.Outcome.next hbad, hcount.trans (by simp [State.curatorTook_g]),
      hframes.trans (by simp [State.curatorTook_g]),
      s.advance_srcs dt, by simp [State.curatorTook], fun x => s.advance_byte dt x⟩
  · have hpause := frameReceive_pause (s := s.advance dt) (k := k) (by simpa using hc) (by simpa using hl) hn he
    have hcount := State.g_inc_same ((s.advance dt).curatorTook k) (Reg.NET.PORT.RX_PAUSE (p.val / 4) (p.val % 4))
      (show 0 + 32 ≤ 32 by decide)
    have hbad := State.g_inc_apart ((s.advance dt).curatorTook k) (f := Reg.NET.PORT.RX_PAUSE (p.val / 4) (p.val % 4))
      (f' := Reg.NET.PORT.RX_BAD (p.val / 4) (p.val % 4)) (.inl (by dsimp only; omega))
    have hframes := State.g_inc_apart ((s.advance dt).curatorTook k) (f := Reg.NET.PORT.RX_PAUSE (p.val / 4) (p.val % 4))
      (f' := Reg.NET.PORT.RX_FRAMES (p.val / 4) (p.val % 4)) (.inl (by dsimp only; omega))
    exact ⟨_, congrArg Host.Outcome.next hpause, hcount.trans (by simp [State.curatorTook_g]),
      hbad.trans (by simp [State.curatorTook_g]),
      hframes.trans (by simp [State.curatorTook_g]), s.advance_srcs dt, by simp [State.curatorTook],
      fun x => s.advance_byte dt x⟩
  · refine ⟨_, execNetFrameTransmit_granted dt hc hl ha, ((s.advance dt).frameSent_txFrames p.val bs).trans (by simp), ?_,
      s.advance_txq dt, fun x => s.advance_byte dt x⟩
    exact Tab.get_put_same [] p.val [bs] _
  · have hwall : ((s.advance dt).frameSent p.val bs).wall = (s.advance dt).wall :=
      State.wall_congr rfl (State.frameSent_time_g _ _ _ _ (by decide))
    have hstate : ((s.advance dt).frameSent p.val bs).timeState = s.timeState :=
      (State.frameSent_time_g _ _ _ _ (by decide)).trans (s.advance_timeState dt)
    have htxq : ((s.advance dt).frameSent p.val bs).time.txq = s.time.txq := s.advance_txq dt
    refine ⟨_, execNetFrameTransmit_granted dt hc hl ha, ?_⟩
    rw [Option.map_some, Option.elim_some, State.txStamp_room _ (by rwa [htxq]), hwall, hstate, htxq]
    exact ⟨((s.advance dt).frameSent_txFrames p.val bs).trans (by simp), Tab.get_put_same [] p.val _ _⟩
  · have hdrop : (true && !(s.advance dt).granted) = true := by rw [State.advance_granted, ha]; rfl
    exact ⟨_, congrArg Host.Outcome.next (if_pos hdrop), rfl⟩

end Sys2Proof.Machine
end

section
/-! PROOF. An entry to STANDBY at which the grant falls, and the event of that is logged in DRAM (R346, R367, R483, R498). -/

namespace Sys2Proof.Machine

/-- A unit of compatibility mode that acts, CUS_ALIVE toggling, while a touch self-test runs, is on its way to STANDBY. The event log is
on, its ring at the start of DRAM, and takes EV_TCH_SELFTEST. -/
def actingEntry : State :=
  let s := [(Reg.ENG.STATUS.STATE 0, 2), (Reg.ENG.STATUS.STATE 1, 2), (Reg.ENG.STATUS.STATE 22, 2), (Reg.CUS.STATUS.MODE, 1),
    (Reg.CUS.STATUS.GRANT, 1), (Reg.CUS.STATUS.ACTING, 1), (Reg.CUS.STATUS.ROLE, 2), (Reg.CUS.STATUS.PEER_OK_OUT, 1),
    (Reg.CUS.COMPAT.SELF_OK, 1), (Reg.TCH.CTRL.ENABLE, 1), (Reg.TCH.STATUS.STATE, 4), (Reg.TCH.STATUS.ST_STATE, 1),
    (Reg.EVT.LOG_EN, 1), (Reg.EVT.LOG_BASE, dramBase / 4096), (Reg.EVT.LOG_LOG2, 8), (Reg.EVT.ENABLE 0, 2 ^ Ev.tchSelftest),
    (Reg.EVT.ROUTE.LOG Ev.tchSelftest, 1)].foldl (fun s e => s.p e.1 e.2) State.reset
  { s with
    pwr := { s.pwr with mode := .entering, target := 1 }
    cus := { s.cus with eff := true, kickAt := some 0 } }

/-- With the Curator stopped the grant falls, the self-test ends, and the source of its event is the first byte of the record. -/
theorem lpEntered_actingEntry : (lpEntered (actingEntry.advance 0)).byte dramBase = 28 := by decide +kernel

/-- No write waits that a controller has granted, so that finishing those leaves DRAM empty. -/
theorem finishGranted_actingEntry : (actingEntry.advance 0).finishGranted.byte dramBase = 0 := by decide +kernel

/-- Refutes O55: at an entry to STANDBY the engines stop before DRAM is put into self-refresh; in compatibility mode the grant falls with
that (R367), and where a touch self-test is cut short so, the record of its event changes DRAM beyond the writes granted. -/
theorem not_domainResetsAndLowPower : ¬ Obligations.DomainResetsAndLowPower := by
  rintro ⟨-, -, -, -, -, -, hstandby, -⟩
  obtain ⟨t, ht, -, -, hdram, -⟩ := hstandby 0 actingEntry (by decide +kernel) (by decide +kernel) (by decide +kernel)
  obtain rfl := Host.Outcome.next.inj ht
  have hbyte : (lpEntered (actingEntry.advance 0)).byte dramBase = (actingEntry.advance 0).finishGranted.byte dramBase :=
    hdram dramBase le_rfl
  rw [lpEntered_actingEntry, finishGranted_actingEntry] at hbyte
  exact absurd hbyte (by decide)

end Sys2Proof.Machine
end

section
/-! PROOF. What an operation leaves alone: registers by their address, source entries beyond their registers, the power mode and the
network's queues; and what a change of a quad's lanes leaves so (R97, R98, R431). -/

-- One lemma after the other: elaborated side by side, they take more threads than the memory of the check holds.
set_option Elab.async false

namespace Sys2Proof.Machine

/-! ### The relation -/

@[simp] theorem State.src_setSrc_same (s : State) (i : Nat) (e : SrcState) : (s.setSrc i e).src i = e :=
  Tab.get_put_same _ _ _ _

theorem State.src_setSrc_ne (s : State) {i j : Nat} (h : j ≠ i) (e : SrcState) : (s.setSrc i e).src j = s.src j :=
  Tab.get_put_ne _ _ h _ _

/-- From `s` to `t` stay the registers that `A` holds of, the source entries that `I` holds of, the power mode, and what the network
holds beyond its registers. -/
structure Spares (A I : Nat → Prop) (s t : State) : Prop where
  reg : ∀ a, A a → t.reg a = s.reg a
  src : ∀ i, I i → t.src i = s.src i
  mode : t.pwr.mode = s.pwr.mode
  net : t.net = s.net

theorem Spares.refl (A I : Nat → Prop) (s : State) : Spares A I s s := ⟨fun _ _ => rfl, fun _ _ => rfl, rfl, rfl⟩

section Rules

variable {A I : Nat → Prop} {s₀ s t : State}

theorem Spares.trans (h : Spares A I s₀ s) (k : Spares A I s t) : Spares A I s₀ t :=
  ⟨fun a ha => (k.reg a ha).trans (h.reg a ha), fun i hi => (k.src i hi).trans (h.src i hi), k.mode.trans h.mode,
    k.net.trans h.net⟩

/-- What is spared at all is spared where less is asked for. -/
theorem Spares.mono {B J : Nat → Prop} (h : Spares A I s t) (hA : ∀ a, B a → A a) (hI : ∀ i, J i → I i) : Spares B J s t :=
  ⟨fun a ha => h.reg a (hA a ha), fun i hi => h.src i (hI i hi), h.mode, h.net⟩

theorem Spares.g (h : Spares A I s t) {f : FRef} (hf : A f.addr) : t.g f = s.g f := by
  unfold State.g
  rw [h.reg _ hf]

theorem Spares.gb (h : Spares A I s t) {f : FRef} (hf : A f.addr) : t.gb f = s.gb f := by
  unfold State.gb
  rw [h.g hf]

theorem Spares.coreOn (h : Spares A I s t) : t.coreOn = s.coreOn := by
  unfold State.coreOn
  rw [h.mode]

/-- An update that touches nothing that the relation speaks of. -/
theorem Spares.same (h : Spares A I s₀ s) (hr : t.regs = s.regs := by rfl) (hs : t.srcs = s.srcs := by rfl)
    (hm : t.pwr.mode = s.pwr.mode := by rfl) (hn : t.net = s.net := by rfl) : Spares A I s₀ t :=
  h.trans ⟨fun a _ => State.reg_congr hr a, fun i _ => by rw [State.src, hs, State.src], hm, hn⟩

theorem Spares.ite {c : Prop} [Decidable c] (hs : Spares A I s₀ s) (ht : Spares A I s₀ t) :
    Spares A I s₀ (if c then s else t) := by
  split
  · exact hs
  · exact ht

theorem Spares.itePair {α : Type} {c : Prop} [Decidable c] {p q : State × α} (hp : Spares A I s₀ p.1) (hq : Spares A I s₀ q.1) :
    Spares A I s₀ (if c then p else q).1 := by
  split
  · exact hp
  · exact hq

theorem Spares.fold {α : Type} {f : State → α → State} {l : List α} (h : Spares A I s₀ s)
    (hf : ∀ s, ∀ x ∈ l, Spares A I s₀ s → Spares A I s₀ (f s x)) : Spares A I s₀ (l.foldl f s) :=
  List.foldlRecOn (motive := Spares A I s₀) l f h fun s hs x hx => hf s x hx hs

/-- What leaves quiet registers and the blocks beyond them, as records, responses and events do. -/
theorem Spares.aside (h : Spares A I s₀ s) (ha : Aside s t) (hA : ∀ a, A a → quietAddr a) : Spares A I s₀ t :=
  h.trans ⟨fun a hp => ha.reg a (hA a hp), fun i _ => by rw [State.src, ha.srcs, State.src], by rw [ha.pwr], ha.net⟩

theorem State.p_spares (h : Spares A I s₀ s) (f : FRef) (v : Nat) (hf : ¬ A f.addr) : Spares A I s₀ (s.p f v) :=
  h.trans ⟨fun _ ha => State.reg_p_ne s v fun e => hf (e ▸ ha), fun _ _ => rfl, rfl, rfl⟩

theorem State.setSrc_spares (h : Spares A I s₀ s) {i : Nat} (hi : ¬ I i) (e : SrcState) : Spares A I s₀ (s.setSrc i e) :=
  h.trans ⟨fun _ _ => rfl, fun j hj => State.src_setSrc_ne s (fun (he : j = i) => hi (he ▸ hj)) e, rfl, rfl⟩

end Rules

/-! ### The lanes of a quad -/

/-- A register of a block below the lanes, and of none that keeps events, errors or the matrix. -/
def belowLanes (a : Nat) : Prop := 0x10100000 ≤ a ∧ a < 0x10600000

/-- What a change of lanes leaves: the registers of the blocks below the lanes, and every source entry. -/
abbrev LanesApart : State → State → Prop := Spares belowLanes fun _ => True

section Lanes

variable {s₀ s : State}

theorem State.p_lanesApart (h : LanesApart s₀ s) (f : FRef) (v : Nat) (hf : ¬ belowLanes f.addr := by
    unfold belowLanes; dsimp only; omega) : LanesApart s₀ (s.p f v) :=
  State.p_spares h f v hf

theorem State.raise_lanesApart (h : LanesApart s₀ s) (i arg : Nat) (hi : i < 64 := by decide) : LanesApart s₀ (s.raise i arg) :=
  h.aside (State.raise_aside (Aside.refl s) i arg hi) fun a ha => by unfold belowLanes at ha; unfold quietAddr; omega

theorem State.pFree_lanesApart (h : LanesApart s₀ s) (f : FRef) (hf : ¬ belowLanes f.addr := by
    unfold belowLanes; dsimp only; omega) : LanesApart s₀ (s.pFree f) :=
  (State.p_lanesApart h f _ hf).same

theorem State.setLane_lanesApart (h : LanesApart s₀ s) (q l : Nat) (x : LaneState) : LanesApart s₀ (s.setLane q l x) := h.same

theorem State.setQuad_lanesApart (h : LanesApart s₀ s) (q : Nat) (x : Option Nat) : LanesApart s₀ (s.setQuad q x) := h.same

theorem State.setBits_lanesApart (h : LanesApart s₀ s) (q l n : Nat) (runs : Bool) : LanesApart s₀ (s.setBits q l n runs) := by
  unfold State.setBits
  exact State.setLane_lanesApart (State.p_lanesApart (State.p_lanesApart h (Reg.LANE.BITS_LO q l) _) (Reg.LANE.BITS_HI q l) _) _ _ _

theorem State.prbsSettle_lanesApart (h : LanesApart s₀ s) (q l : Nat) : LanesApart s₀ (s.prbsSettle q l) := by
  unfold State.prbsSettle State.prbsCount
  extract_lets n x last x' first y
  have hx : LanesApart s₀ (s.setLane q l { x' with injN := s.injDue q l }) := State.setLane_lanesApart h _ _ _
  have hy : LanesApart s₀ y := State.p_lanesApart hx (Reg.LANE.ERRORS q l) _
  exact .ite hx (.ite (State.raise_lanesApart hy _ _) hy)

theorem State.prbsLock_lanesApart (h : LanesApart s₀ s) (q l : Nat) (lock : Bool) : LanesApart s₀ (s.prbsLock q l lock) := by
  unfold State.prbsLock
  extract_lets x lane y
  have hy : LanesApart s₀ y := State.setLane_lanesApart (State.prbsSettle_lanesApart h q l) _ _ _
  exact .ite h (State.raise_lanesApart
    (State.p_lanesApart (State.setBits_lanesApart hy q l _ _) (Reg.LANE.PRBS.LOCK q l) _) _ _)

theorem State.eqDefaults_lanesApart (h : LanesApart s₀ s) (q l : Nat) : LanesApart s₀ (s.eqDefaults q l) := by
  unfold State.eqDefaults
  iterate 6 refine State.p_lanesApart ?_ _ _
  exact h

theorem State.eqFree_lanesApart (h : LanesApart s₀ s) (q l : Nat) : LanesApart s₀ (s.eqFree q l) := by
  unfold State.eqFree
  iterate 6 refine State.pFree_lanesApart ?_ _
  exact h

theorem State.eqStep_lanesApart {x : State × Nat} (h : LanesApart s₀ x.1) (f : FRef) (lo hi : Int) (hf : ¬ belowLanes f.addr := by
    unfold belowLanes; dsimp only; omega) : LanesApart s₀ (State.eqStep x f lo hi).1 :=
  (State.p_lanesApart h f _ hf).same

theorem State.eqWalk_lanesApart (h : LanesApart s₀ s) (q l k : Nat) : LanesApart s₀ (s.eqWalk q l k) := by
  unfold State.eqWalk
  refine .ite h ?_
  iterate 6 refine State.eqStep_lanesApart ?_ _ _ _
  exact h

theorem State.eqSettle_lanesApart (h : LanesApart s₀ s) (q l : Nat) : LanesApart s₀ (s.eqSettle q l) := by
  unfold State.eqSettle
  exact .ite (State.setLane_lanesApart h _ _ _) (.ite (State.setLane_lanesApart (State.eqFree_lanesApart h q l) _ _ _)
    (State.setLane_lanesApart (State.eqWalk_lanesApart h q l _) _ _ _))

theorem State.lockDrop_lanesApart (h : LanesApart s₀ s) (q l : Nat) : LanesApart s₀ (s.lockDrop q l) := by
  unfold State.lockDrop
  extract_lets x
  have hx : LanesApart s₀ x := .ite (State.p_lanesApart (State.p_lanesApart
    (State.p_lanesApart h (Reg.LANE.ALIGNED q l) _) (Reg.LANE.ALIGN_LOST q l) _) (Reg.LANE.REALIGNS q l) _) h
  exact .ite (State.p_lanesApart (State.p_lanesApart
    (State.p_lanesApart hx (Reg.LANE.BLOCK_LOCK q l) _) (Reg.LANE.BLOCK_LOST q l) _) (Reg.LANE.LOCK_LOSSES q l) _) hx

theorem State.laneSet_lanesApart (h : LanesApart s₀ s) (q l owner power : Nat) : LanesApart s₀ (s.laneSet q l owner power) := by
  unfold State.laneSet
  extract_lets old x x₁ x₂ y z
  have hx : LanesApart s₀ x := State.p_lanesApart (State.p_lanesApart h (Reg.LANE.OWNER q l) _) (Reg.LANE.PSTATE q l) _
  have hx₂ : LanesApart s₀ x₂ := State.p_lanesApart (State.p_lanesApart (State.eqSettle_lanesApart hx q l)
    (Reg.LANE.LOS q l) _) (Reg.LANE.LOL q l) _
  have hy : LanesApart s₀ y := .ite (State.p_lanesApart (State.p_lanesApart
    (State.p_lanesApart hx₂ (Reg.LANE.ALIGNED q l) _) (Reg.LANE.BLOCK_LOCK q l) _) (Reg.LANE.ADAPT q l) _)
    (.ite (State.setLane_lanesApart hx _ _ _) hx)
  have hz : LanesApart s₀ z := .ite (State.prbsLock_lanesApart hy q l _) hy
  exact .ite (State.eqDefaults_lanesApart hz q l) hz

theorem State.lolEdges_lanesApart (h : LanesApart s₀ s) (q : Nat) (ls : List Nat) : LanesApart s₀ (s.lolEdges q ls) :=
  .fold h fun _ l _ hs => State.lockDrop_lanesApart (State.p_lanesApart (State.p_lanesApart
    (State.p_lanesApart (State.setLane_lanesApart hs _ _ _) (Reg.LANE.LOL q l) _) (Reg.LANE.LOL_SEEN q l) _)
      (Reg.LANE.LOL_EVENTS q l) _) q l

theorem State.lolEvent_lanesApart (h : LanesApart s₀ s) (q : Nat) (ls : List Nat) : LanesApart s₀ (s.lolEvent q ls) := by
  unfold State.lolEvent
  split
  · exact State.raise_lanesApart h _ _
  · exact h

theorem State.quadRefresh_lanesApart (h : LanesApart s₀ s) (q : Nat) : LanesApart s₀ (s.quadRefresh q) := by
  unfold State.quadRefresh
  extract_lets r anew ran x y z w
  have hx : LanesApart s₀ x := .ite (State.p_lanesApart h (Reg.QUAD.PLL_LOCK q) _) h
  have hy : LanesApart s₀ y := State.p_lanesApart (State.p_lanesApart hx (Reg.QUAD.RATE q) _) (Reg.QUAD.SSC q) _
  have hz : LanesApart s₀ z := .fold hy fun _ l _ hs => State.laneSet_lanesApart hs q l _ _
  have hw : LanesApart s₀ w := .ite (State.setQuad_lanesApart hz _ _) hz
  exact .ite (State.setQuad_lanesApart (State.p_lanesApart hz (Reg.QUAD.PLL_LOCK q) _) _ _) (.ite hz
    (State.lolEvent_lanesApart (State.lolEdges_lanesApart hw q _) q _))

end Lanes

end Sys2Proof.Machine
end

section
/-! PROOF. The ports of the network: what a mode write makes of a quad and its ports, how LINK rises and falls, and the transactions of
the management MDIO (R97, R98, R437). -/

-- One lemma after the other: elaborated side by side, they take more threads than the memory of the check holds.
set_option Elab.async false

namespace Sys2Proof.Machine

/-! ### Words of a control write -/

theorem State.gb_p_other (s : State) (f f' : FRef) (v : Nat)
    (h : f.addr ≠ f'.addr ∨ f.lo + f.width ≤ f'.lo ∨ f'.lo + f'.width ≤ f.lo) : (s.p f v).gb f' = s.gb f' :=
  State.gb_p_apart s v h

theorem State.gb_pb_val (s : State) (f : FRef) (b : Bool) (h : f.lo + 1 ≤ 32 ∧ f.width = 1) : (s.pb f b).gb f = b :=
  s.gb_pb_same f b h.1 h.2

theorem State.gb_pb_other (s : State) (f f' : FRef) (b : Bool)
    (h : f.addr ≠ f'.addr ∨ f.lo + f.width ≤ f'.lo ∨ f'.lo + f'.width ≤ f.lo) : (s.pb f b).gb f' = s.gb f' :=
  State.gb_p_apart s _ h

theorem State.g_pb_other (s : State) (f f' : FRef) (b : Bool)
    (h : f.addr ≠ f'.addr ∨ f.lo + f.width ≤ f'.lo ∨ f'.lo + f'.width ≤ f.lo) : (s.pb f b).g f' = s.g f' :=
  State.g_p_apart s _ h

/-- The word that a command writes to set a field holds the value there. -/
theorem State.fieldWord_get (s : State) (f : FRef) (x : Nat) (h : f.lo + f.width ≤ 32) :
    fieldGet (s.fieldWord f x) f.lo f.width = x % 2 ^ f.width :=
  fieldGet_fieldSet_same _ _ h

theorem State.writeFields_mem (s : State) (m a : Nat) (v skip : Word) : (s.writeFields m a v skip).mem = s.mem :=
  (State.logTaken_stays _ _ _ _ _).2

/-- The fields of NET[q].CTRL: PORT_EN, FEC_EN and MODE. -/
def netCtrlFields : List RegField := [fAny 8 4 .rw 0 .s false, fAny 4 4 .rw 0 .s false, fAny 0 2 .rw 0 .s false]

theorem regFields_netCtrl : ∀ q : Fin 4, regFields (Reg.NET.CTRL.MODE q.val).addr = some netCtrlFields := by decide

/-- PORT_EN and FEC_EN once `v` is written to the word. -/
def netEnablesWord (v w : Word) : Word := fieldSet (fieldSet w 8 4 (fieldGet v 8 4)) 4 4 (fieldGet v 4 4)

theorem takeFields_netCtrl (isOpen : Bool) (v w : Word) :
    takeFields isOpen v 0 w netCtrlFields = ⟨fieldSet (netEnablesWord v w) 0 2 (fieldGet v 0 2), false, false⟩ := by
  have hf : netCtrlFields.filter (fun f => fieldGet 0 f.lo f.width == 0) = netCtrlFields := by decide
  unfold takeFields
  rw [hf]
  simp only [netCtrlFields, List.foldl_cons, List.foldl_nil, takeField_rw, netEnablesWord]

/-- A write that skips MODE takes PORT_EN and FEC_EN alone. -/
theorem takeFields_netCtrl_skipMode (isOpen : Bool) (v w : Word) :
    takeFields isOpen v 3 w netCtrlFields = ⟨netEnablesWord v w, false, false⟩ := by
  have hf : netCtrlFields.filter (fun f => fieldGet 3 f.lo f.width == 0) = [fAny 8 4 .rw 0 .s false, fAny 4 4 .rw 0 .s false] := by
    decide
  unfold takeFields
  rw [hf]
  simp only [List.foldl_cons, List.foldl_nil, takeField_rw, netEnablesWord]

theorem fieldGet_netEnablesWord_mode (v w : Word) : fieldGet (netEnablesWord v w) 0 2 = fieldGet w 0 2 := by
  unfold netEnablesWord
  rw [fieldGet_fieldSet_ne _ _ (by decide), fieldGet_fieldSet_ne _ _ (by decide)]

/-! ### LINK of a port (R98) -/

section Ports

variable {s : State} {q l : Nat} (hq : q < 4) (hl : l < 4)

theorem State.portLink_same {up : Bool} (h : s.gb (Reg.NET.PORT.LINK q l) = up) : s.portLink q l up = s := if_pos h

/-- A change of LINK: its bit, its count, its event. -/
theorem State.portLink_change {up : Bool} (h : s.gb (Reg.NET.PORT.LINK q l) ≠ up) :
    s.portLink q l up = ((s.pb (Reg.NET.PORT.LINK q l) up).incSat (Reg.NET.PORT.LINK_CHANGES q l)).raise Ev.netLink
      (4 * q + l + if up then 256 else 0) := if_neg h

/-- What a change of LINK makes of a register that events leave alone. -/
theorem State.portLink_change_g {up : Bool} (h : s.gb (Reg.NET.PORT.LINK q l) ≠ up) {f : FRef} (hf : 0x100B0000 ≤ f.addr) :
    (s.portLink q l up).g f = ((s.pb (Reg.NET.PORT.LINK q l) up).incSat (Reg.NET.PORT.LINK_CHANGES q l)).g f := by
  rw [State.portLink_change h, State.raise_g _ _ _ (by decide) (.inr (.inr hf))]

theorem State.portLink_link (up : Bool) : (s.portLink q l up).gb (Reg.NET.PORT.LINK q l) = up := by
  by_cases h : s.gb (Reg.NET.PORT.LINK q l) = up
  · rw [State.portLink_same h, h]
  · rw [State.gb, State.portLink_change_g h (by dsimp only; omega), ← State.gb, State.incSat, State.incSatBy]
    simp (disch := (dsimp only; omega)) only [State.gb_p_other, State.gb_pb_val]

/-- LINK and its count apart, a port's change of LINK leaves the registers. -/
theorem State.portLink_gb (up : Bool) {f : FRef} (hf : 0x100B0000 ≤ f.addr)
    (h : (Reg.NET.PORT.LINK q l).addr ≠ f.addr ∨ (0 < f.lo ∧ f.lo + f.width ≤ 16)) : (s.portLink q l up).gb f = s.gb f := by
  by_cases hs : s.gb (Reg.NET.PORT.LINK q l) = up
  · rw [State.portLink_same hs]
  · dsimp only at h
    rw [State.gb, State.portLink_change_g hs hf, ← State.gb, State.incSat, State.incSatBy]
    simp (disch := (dsimp only; omega)) only [State.gb_p_other, State.gb_pb_other]

/-- A change of LINK counts, up to 65,535. -/
theorem State.portLink_changes {up : Bool} (h : s.gb (Reg.NET.PORT.LINK q l) ≠ up) :
    (s.portLink q l up).g (Reg.NET.PORT.LINK_CHANGES q l) = min (s.g (Reg.NET.PORT.LINK_CHANGES q l) + 1) 65535 := by
  have hmax : min (s.g (Reg.NET.PORT.LINK_CHANGES q l) + 1) 65535 < 2 ^ 16 := by omega
  rw [State.portLink_change_g h (by dsimp only; omega), State.incSat, State.incSatBy,
    State.g_pb_other _ _ _ _ (.inr (by dsimp only; omega)), State.g_p_same _ _ _ (by dsimp only; omega)]
  dsimp only
  rw [show 2 ^ 16 - 1 = 65535 by norm_num, Nat.mod_eq_of_lt hmax]

/-- A change of LINK raises EV_NET_LINK. -/
theorem State.portLink_event {up : Bool} (hc : s.coreOn = true) (h : s.gb (Reg.NET.PORT.LINK q l) ≠ up) :
    (s.portLink q l up).evStatus Ev.netLink = true := by
  rw [State.portLink_change h]
  generalize 4 * q + l + (if up then 256 else 0) = arg
  refine State.raise_stands _ Ev.netLink arg (by decide) ?_
  unfold State.coreOn at hc ⊢
  simpa using hc

theorem State.portDown_link : (s.portDown q l).gb (Reg.NET.PORT.LINK q l) = false := State.portLink_link false

include hq hl in
/-- A port whose link is down stays down while another goes down. -/
theorem State.portDown_link_stays {k : Nat} (_hk : k < 4) (h : s.gb (Reg.NET.PORT.LINK q l) = false) :
    (s.portDown q k).gb (Reg.NET.PORT.LINK q l) = false := by
  by_cases hkl : k = l
  · subst hkl
    exact State.portDown_link
  · have ha : (Reg.NET.PORT.LINK q k).addr ≠ (Reg.NET.PORT.LINK q l).addr := by dsimp only; omega
    unfold State.portDown
    rw [State.portLink_gb false (by dsimp only; omega) (.inl ha)]
    simp (disch := (dsimp only; omega)) only [State.gb_pb_other, h]

include hq hl in
/-- Ports that go down one after another are all down. -/
theorem State.portsDown_link {ls : List Nat} (hls : ∀ k ∈ ls, k < 4) (h : l ∈ ls ∨ s.gb (Reg.NET.PORT.LINK q l) = false) :
    (ls.foldl (fun s k => s.portDown q k) s).gb (Reg.NET.PORT.LINK q l) = false := by
  induction ls generalizing s with
  | nil => exact h.resolve_left List.not_mem_nil
  | cons k ks ih =>
    refine ih (fun j hj => hls j (List.mem_cons_of_mem _ hj)) ?_
    rcases h with h | h
    · rcases List.mem_cons.1 h with rfl | h
      · exact .inr State.portDown_link
      · exact .inl h
    · exact .inr (State.portDown_link_stays hq hl (hls k List.mem_cons_self) h)

end Ports

/-! ### A mode write (R98, R437) -/

theorem netCtrlWrite_taken {m q : Nat} {v : Word} {s : State} (h : s.quadTests q = false ∨ fieldGet v 0 2 = 0) :
    netCtrlWrite m q v s = ((laneNums.foldl (fun s l => s.portDown q l) s).writeFields m (Reg.NET.CTRL.MODE q).addr v 0).quadRefresh q := by
  have hno : ¬ (s.quadTests q && fieldGet v 0 2 != 0) = true := by rcases h with h | h <;> simp [h]
  exact if_neg hno

/-- A mode write that is taken sets MODE, and every port of the quad is down. -/
theorem netCtrlWrite_sets {m : Nat} {q l : Fin 4} {v : Word} {s : State} (h : s.quadTests q.val = false ∨ fieldGet v 0 2 = 0) :
    (netCtrlWrite m q.val v s).g (Reg.NET.CTRL.MODE q.val) = fieldGet v 0 2 ∧
      (netCtrlWrite m q.val v s).gb (Reg.NET.PORT.LINK q.val l.val) = false := by
  rw [netCtrlWrite_taken h, State.writeFields_of_take (regFields_netCtrl q) (takeFields_netCtrl _ v _)]
  generalize hd : laneNums.foldl (fun s l => s.portDown q.val l) s = d
  generalize netEnablesWord v _ = w
  have hstay := State.quadRefresh_lanesApart (Spares.refl _ _ (d.setReg (Reg.NET.CTRL.MODE q.val).addr (fieldSet w 0 2 (fieldGet v 0 2)))) q.val
  constructor
  · rw [hstay.g (by unfold belowLanes; dsimp only; omega)]
    exact (congrArg (fun u => fieldGet u 0 2) (State.reg_setReg_same _ _ _)).trans
      ((fieldGet_fieldSet_same _ _ (by decide)).trans (Nat.mod_eq_of_lt (fieldGet_lt v 0 2)))
  · have hdown : d.gb (Reg.NET.PORT.LINK q.val l.val) = false :=
      hd ▸ State.portsDown_link q.isLt l.isLt (fun _ => mem_laneNums) (.inl (List.mem_range.2 l.isLt))
    rw [hstay.gb (by unfold belowLanes; dsimp only; omega), State.gb, State.g,
      State.reg_setReg_ne _ (by dsimp only; omega), ← State.g, ← State.gb, hdown]

/-- A mode write while a lane is in test leaves MODE. -/
theorem netCtrlWrite_inTest {m : Nat} {q : Fin 4} {v : Word} {s : State} (h : s.quadTests q.val = true) (hv : fieldGet v 0 2 ≠ 0) :
    (netCtrlWrite m q.val v s).g (Reg.NET.CTRL.MODE q.val) = s.g (Reg.NET.CTRL.MODE q.val) := by
  have hyes : (s.quadTests q.val && fieldGet v 0 2 != 0) = true := by simp [h, hv]
  unfold netCtrlWrite
  rw [if_pos hyes, State.writeFields_of_take (regFields_netCtrl q) (takeFields_netCtrl_skipMode _ v _),
    State.logIgnored_g _ _ _ _ (by unfold quietAddr; dsimp only; omega)]
  exact (congrArg (fun u => fieldGet u 0 2) (State.reg_setReg_same _ _ _)).trans (fieldGet_netEnablesWord_mode _ _)

/-- An access served says nothing of the tests of a quad's lanes. -/
theorem State.served_quadTests (s : State) (dt m q : Nat) :
    (((s.advance dt).ctlServed m).respond false []).quadTests q = s.quadTests q := by
  unfold State.quadTests
  exact congrArg laneNums.any (funext fun l => s.served_gb dt m _ (by unfold quietAddr; dsimp only; omega))

theorem fieldWord_mode (s : State) (q x : Fin 4) : fieldGet (s.fieldWord (Reg.NET.CTRL.MODE q.val) x.val) 0 2 = x.val :=
  (s.fieldWord_get (Reg.NET.CTRL.MODE q.val) x.val (show 0 + 2 ≤ 32 by decide)).trans (Nat.mod_eq_of_lt x.isLt)

/-! ### LINK by the receivers (R98) -/

@[simp] theorem State.advance_portLock (s : State) (dt q l : Nat) : (s.advance dt).portLock q l = s.portLock q l := by
  simp [State.portLock, State.portOn, State.portLanes]

@[simp] theorem State.advance_portFec (s : State) (dt q l : Nat) : (s.advance dt).portFec q l = s.portFec q l := by
  simp [State.portFec]

section Link

variable {s : State} {p : Nat} (hc : s.coreOn = true)
include hc

theorem netLinkChange_rises (h : s.portLock (p / 4) (p % 4) = true) : netLinkChange p true false s =
    ((s.pb (Reg.NET.PORT.FEC_LOCK (p / 4) (p % 4)) (s.portFec (p / 4) (p % 4))).pb (Reg.NET.PORT.HI_BER (p / 4) (p % 4)) false).portLink
      (p / 4) (p % 4) true := by
  simp [netLinkChange, hc, h]

theorem netLinkChange_falls (b : Bool) : netLinkChange p false b s =
    (s.portDown (p / 4) (p % 4)).pb (Reg.NET.PORT.HI_BER (p / 4) (p % 4)) (b && s.portLock (p / 4) (p % 4)) := by
  simp [netLinkChange, hc]

/-- LINK rises on block lock and a low bit-error ratio, with FEC_LOCK, HI_BER, the count and the event. -/
theorem netLinkChange_up (h : s.portLock (p / 4) (p % 4) = true) (hl : s.gb (Reg.NET.PORT.LINK (p / 4) (p % 4)) = false) :
    (netLinkChange p true false s).gb (Reg.NET.PORT.LINK (p / 4) (p % 4)) = true ∧
    (netLinkChange p true false s).gb (Reg.NET.PORT.FEC_LOCK (p / 4) (p % 4)) = s.portFec (p / 4) (p % 4) ∧
    (netLinkChange p true false s).gb (Reg.NET.PORT.HI_BER (p / 4) (p % 4)) = false ∧
    (netLinkChange p true false s).g (Reg.NET.PORT.LINK_CHANGES (p / 4) (p % 4)) =
      min (s.g (Reg.NET.PORT.LINK_CHANGES (p / 4) (p % 4)) + 1) 65535 ∧
    (netLinkChange p true false s).evStatus Ev.netLink = true := by
  rw [netLinkChange_rises hc h]
  generalize p / 4 = q at *
  generalize p % 4 = l at *
  generalize hx : (s.pb (Reg.NET.PORT.FEC_LOCK q l) (s.portFec q l)).pb (Reg.NET.PORT.HI_BER q l) false = x
  have hfec : x.gb (Reg.NET.PORT.FEC_LOCK q l) = s.portFec q l := by
    subst hx; simp (disch := (dsimp only; omega)) only [State.gb_pb_other, State.gb_pb_val]
  have hber : x.gb (Reg.NET.PORT.HI_BER q l) = false := by
    subst hx; simp (disch := (dsimp only; omega)) only [State.gb_pb_val]
  have hlink : x.gb (Reg.NET.PORT.LINK q l) ≠ true := by
    subst hx; simp (disch := (dsimp only; omega)) [State.gb_pb_other, hl]
  have hcount : x.g (Reg.NET.PORT.LINK_CHANGES q l) = s.g (Reg.NET.PORT.LINK_CHANGES q l) := by
    subst hx; simp (disch := (dsimp only; omega)) only [State.g_pb_other]
  have hcore : x.coreOn = true := by subst hx; exact hc
  have hat : 0x100B0000 ≤ (Reg.NET.PORT.LINK q l).addr := by dsimp only; omega
  refine ⟨State.portLink_link true, ?_, ?_, ?_, ?_⟩
  · exact (State.portLink_gb (f := Reg.NET.PORT.FEC_LOCK q l) true hat (.inr (by dsimp only; omega))).trans hfec
  · exact (State.portLink_gb (f := Reg.NET.PORT.HI_BER q l) true hat (.inr (by dsimp only; omega))).trans hber
  · exact (State.portLink_changes hlink).trans (by rw [hcount])
  · exact State.portLink_event hcore hlink

/-- LINK falls, with FEC_LOCK and the event. -/
theorem netLinkChange_down (b : Bool) (hl : s.gb (Reg.NET.PORT.LINK (p / 4) (p % 4)) = true) :
    (netLinkChange p false b s).gb (Reg.NET.PORT.LINK (p / 4) (p % 4)) = false ∧
    (netLinkChange p false b s).gb (Reg.NET.PORT.FEC_LOCK (p / 4) (p % 4)) = false ∧
    (netLinkChange p false b s).evStatus Ev.netLink = true := by
  rw [netLinkChange_falls hc]
  generalize (b && s.portLock (p / 4) (p % 4)) = ber
  generalize p / 4 = q at *
  generalize p % 4 = l at *
  have hat : 0x100B0000 ≤ (Reg.NET.PORT.LINK q l).addr := by dsimp only; omega
  refine ⟨?_, ?_, ?_⟩
  · rw [State.gb_pb_other _ _ _ _ (.inr (by dsimp only; omega)), State.portDown_link]
  · rw [State.gb_pb_other _ _ _ _ (.inr (by dsimp only; omega)), State.portDown,
      State.portLink_gb (f := Reg.NET.PORT.FEC_LOCK q l) false hat (.inr (by dsimp only; omega))]
    simp (disch := (dsimp only; omega)) only [State.gb_pb_other, State.gb_pb_val]
  · have hup : ((s.pb (Reg.NET.PORT.FEC_LOCK q l) false).pb (Reg.NET.PORT.HI_BER q l) false).gb (Reg.NET.PORT.LINK q l) ≠ false := by
      simp (disch := (dsimp only; omega)) [State.gb_pb_other, hl]
    have hev : (s.portDown q l).evStatus Ev.netLink = true := by
      exact State.portLink_event hc hup
    exact State.p_stands (s.portDown q l) (.inr (by dsimp only; omega)) _ _ (by decide) hev

end Link

/-! ### The management MDIO (R98) -/

/-- A write of MDIO with GO while no transaction runs starts one, and touches no memory. -/
theorem mdioWrite_starts {m : Nat} {v : Word} {s : State} (hg : s.gb Reg.MGMT.MDIO.GO = false) (hv : fieldGet v 31 1 = 1) :
    (mdioWrite m v s).gb Reg.MGMT.MDIO.GO = true ∧ (mdioWrite m v s).mem = s.mem := by
  have he : mdioWrite m v s = (s.writeFields m 0x1054000C v 0).pb Reg.MGMT.MDIO.GO true := by simp [mdioWrite, hg, hv]
  rw [he]
  exact ⟨State.gb_pb_same _ _ _, s.writeFields_mem _ _ _ _⟩

section MdioDone

variable {s : State} (hc : s.coreOn = true) (hg : s.gb Reg.MGMT.MDIO.GO = true)
include hc hg

theorem mdioDone_ofRead (data : Nat) (hw : s.gb Reg.MGMT.MDIO.WRITE = false) :
    mdioDone data s = (s.p Reg.MGMT.MDIO.DATA data).pb Reg.MGMT.MDIO.GO false := by simp [mdioDone, hc, hg, hw]

theorem mdioDone_ofWrite (data : Nat) (hw : s.gb Reg.MGMT.MDIO.WRITE = true) :
    mdioDone data s = s.pb Reg.MGMT.MDIO.GO false := by simp [mdioDone, hc, hg, hw]

/-- The end of a transaction clears GO; a read leaves its data, a write leaves DATA. -/
theorem mdioDone_clears (d : BitVec 16) :
    (mdioDone d.toNat s).gb Reg.MGMT.MDIO.GO = false ∧
    (s.gb Reg.MGMT.MDIO.WRITE = false → (mdioDone d.toNat s).g Reg.MGMT.MDIO.DATA = d.toNat) ∧
    (s.gb Reg.MGMT.MDIO.WRITE = true → (mdioDone d.toNat s).g Reg.MGMT.MDIO.DATA = s.g Reg.MGMT.MDIO.DATA) ∧
    (mdioDone d.toNat s).mem = s.mem := by
  have hap : (Reg.MGMT.MDIO.GO).apart Reg.MGMT.MDIO.DATA := .inr (.inr (by decide))
  cases hw : s.gb Reg.MGMT.MDIO.WRITE with
  | false =>
    rw [mdioDone_ofRead hc hg _ hw]
    refine ⟨State.gb_pb_same _ _ _, fun _ => ?_, fun h => absurd h Bool.false_ne_true, rfl⟩
    rw [State.pb, State.g_p_apart _ _ hap, State.g_p_val _ _ _ ⟨by decide, d.isLt⟩]
  | true =>
    rw [mdioDone_ofWrite hc hg _ hw]
    refine ⟨State.gb_pb_same _ _ _, fun h => absurd h.symm Bool.false_ne_true, fun _ => ?_, rfl⟩
    rw [State.pb, State.g_p_apart _ _ hap]

end MdioDone

/-- Memory alone decides what a byte reads as. -/
theorem State.byte_congr {s t : State} (h : t.mem = s.mem) (x : Nat) : t.byte x = s.byte x := by
  unfold State.byte
  rw [h]

/-- Settles O21, by what a quad's ports and lanes make of a mode write, by the equations of a link's change, and by those of MDIO
(log entries 45 and 98). -/
theorem netPortsAndLinks : Obligations.NetPortsAndLinks := by
  refine ⟨fun dt m q x l s hc hw ht => ?_, fun dt m q x s hc hw ht hx => ?_, fun dt p s hc hlock hl => ?_,
    fun dt p b s hc hl => ?_, fun dt m v s hc hw hg => ?_, fun dt d s hc hg => ?_⟩
  · have hv := fieldWord_mode (s.advance dt) q x
    have hserved := State.ctlWrite_served dt (v := (s.advance dt).fieldWord (Reg.NET.CTRL.MODE q.val) x.val)
      (act := netCtrlWrite m.val q.val ((s.advance dt).fieldWord (Reg.NET.CTRL.MODE q.val) x.val)) hc hw
    obtain ⟨hmode, hlink⟩ := netCtrlWrite_sets (m := m.val) (q := q) (l := l)
      (v := (s.advance dt).fieldWord (Reg.NET.CTRL.MODE q.val) x.val) (s := ((s.advance dt).ctlServed m.val).respond false [])
      (by rwa [State.served_quadTests, hv])
    exact ⟨_, congrArg Host.Outcome.next hserved, hmode.trans hv, hlink⟩
  · have hv := fieldWord_mode (s.advance dt) q x
    have hserved := State.ctlWrite_served dt (v := (s.advance dt).fieldWord (Reg.NET.CTRL.MODE q.val) x.val)
      (act := netCtrlWrite m.val q.val ((s.advance dt).fieldWord (Reg.NET.CTRL.MODE q.val) x.val)) hc hw
    have hmode := netCtrlWrite_inTest (m := m.val) (q := q) (v := (s.advance dt).fieldWord (Reg.NET.CTRL.MODE q.val) x.val)
      (s := ((s.advance dt).ctlServed m.val).respond false []) (by rwa [State.served_quadTests]) (by rwa [hv])
    exact ⟨_, congrArg Host.Outcome.next hserved,
      hmode.trans (s.served_g dt m.val _ (by unfold quietAddr; dsimp only; omega))⟩
  · obtain ⟨hup, hfec, hber, hcount, hev⟩ := netLinkChange_up (s := s.advance dt) (p := p.val) (by simpa using hc)
      (by simpa using hlock) (by simpa using hl)
    exact ⟨_, rfl, hup, hfec.trans (by simp), hber, hcount.trans (by simp), hev⟩
  · obtain ⟨hdown, hfec, hev⟩ := netLinkChange_down (s := s.advance dt) (p := p.val) (by simpa using hc) b (by simpa using hl)
    exact ⟨_, rfl, hdown, hfec, hev⟩
  · have hserved := State.ctlWrite_served dt (v := fieldSet v 31 1 1) (act := mdioWrite m.val (fieldSet v 31 1 1)) hc hw
    obtain ⟨hgo, hmem⟩ := mdioWrite_starts (m := m.val) (v := fieldSet v 31 1 1)
      (s := ((s.advance dt).ctlServed m.val).respond false []) ((s.served_gb dt m.val Reg.MGMT.MDIO.GO).trans hg)
      (fieldGet_fieldSet_same v 1 (by decide))
    exact ⟨_, congrArg Host.Outcome.next hserved, hgo, State.byte_congr (hmem.trans (by simp))⟩
  · obtain ⟨hgo, hread, hwrite, hmem⟩ := mdioDone_clears (s := s.advance dt) (by simpa using hc) (by simpa using hg) d
    exact ⟨_, rfl, hgo, fun h => hread (by simpa using h), fun h => (hwrite (by simpa using h)).trans (by simp),
      State.byte_congr (hmem.trans (by simp))⟩

end Sys2Proof.Machine
end

section
/-! PROOF. What a transfer of a device's master leaves: the registers of the blocks above SEQ, the source entries beyond their registers,
the power mode and the network's queues (R404, R411, R416, R419, R522). -/

-- One lemma after the other: elaborated side by side, they take more threads than the memory of the check holds.
set_option Elab.async false

namespace Sys2Proof.Machine

/-! ### Transfers -/

section Transfers

variable {A I : Nat → Prop} (hA : ∀ a, A a → 0x100C0000 ≤ a) {s₀ s : State}
include hA

/-- A field of a block up to SEQ lies below every register that is asked for. -/
theorem State.p_low_spares (h : Spares A I s₀ s) (f : FRef) (v : Nat) (hf : f.addr < 0x100C0000 := by decide) : Spares A I s₀ (s.p f v) :=
  State.p_spares h f v fun ha => absurd (hA _ ha) (by omega)

theorem Spares.beside {t : State} (h : Spares A I s₀ s) (ha : Aside s t) : Spares A I s₀ t :=
  h.aside ha fun a hp => .inr (.inr (le_trans (by decide) (hA a hp)))

theorem State.raise_spares (h : Spares A I s₀ s) (i arg : Nat) (hi : i < 64 := by decide) : Spares A I s₀ (s.raise i arg) :=
  h.beside hA (State.raise_aside (Aside.refl s) i arg hi)

theorem State.errLog_spares (h : Spares A I s₀ s) (r : ErrRecord) : Spares A I s₀ (s.errLog r) :=
  h.beside hA (State.errLog_aside (Aside.refl s) r)

theorem State.busFail_spares (h : Spares A I s₀ s) (r : ErrRecord) (hr : r.master < 64) : Spares A I s₀ (s.busFail r) :=
  h.beside hA (State.busFail_aside (Aside.refl s) r hr)

theorem State.countBurst_spares (h : Spares A I s₀ s) (m a n : Nat) : Spares A I s₀ (s.countBurst m a n) :=
  h.beside hA (State.countBurst_aside (Aside.refl s) m a n)

omit hA in
theorem State.queueSettle_spares (h : Spares A I s₀ s) (a n : Nat) : Spares A I s₀ (s.queueSettle a n) := by
  obtain ⟨q, d, e⟩ := s.queueSettle_only a n
  rw [e]
  exact h.same

omit hA in
theorem State.queueTake_spares (h : Spares A I s₀ s) (write : Bool) (qos a n : Nat) (on : List Bool) :
    Spares A I s₀ (s.queueTake write qos a n on) := by
  obtain ⟨q, d, e⟩ := s.queueTake_only write qos a n on
  rw [e]
  exact h.same

omit hA in
theorem State.queueBurst_spares (h : Spares A I s₀ s) (write : Bool) (qos a n : Nat) (on : List Bool) :
    Spares A I s₀ (s.queueBurst write qos a n on) := by
  obtain ⟨q, d, e⟩ := s.queueBurst_only write qos a n on
  rw [e]
  exact h.same

omit hA in
theorem State.chanServed_spares (h : Spares A I s₀ s) (ch : Nat) : Spares A I s₀ (s.chanServed ch) := .ite h.same h

theorem State.grantReq_spares (h : Spares A I s₀ s) (p : PendReq) (sent : Nat) : Spares A I s₀ (s.grantReq p sent) := by
  unfold State.grantReq
  extract_lets t reaches q bus x y
  have hx : Spares A I s₀ x := Spares.same (s := t) (.ite (State.queueSettle_spares h _ _) h)
  have hy : Spares A I s₀ y := .ite hx (State.queueTake_spares hx _ _ _ _ _)
  exact .ite hx (.fold (State.countBurst_spares hA hy _ _ _) fun _ _ _ hs => State.chanServed_spares hs _)

theorem State.portYield_spares (h : Spares A I s₀ s) (t m qos : Nat) : Spares A I s₀ (s.portYield t m qos) := by
  unfold State.portYield
  extract_lets bus x
  have hx : Spares A I s₀ x := h.same
  refine .fold hx fun s _ _ hs => ?_
  split
  · exact .ite (State.grantReq_spares hA hs _ _) hs
  · exact hs

theorem State.arrive_spares (h : Spares A I s₀ s) (m qos a n : Nat) (write : Bool) (on : List Bool) :
    Spares A I s₀ (s.arrive m qos a n write on) := by
  unfold State.arrive
  extract_lets ports x y
  have hx : Spares A I s₀ x := .fold h fun _ _ _ hs => State.portYield_spares hA hs _ _ _
  have hy : Spares A I s₀ y := .fold hx fun _ _ _ hs => State.chanServed_spares hs _
  exact .ite h (.ite hy.same hy)

theorem drainEnd_spares (h : Spares A I s₀ s) (m : Nat) : Spares A I s₀ (drainEnd m s) := by
  unfold drainEnd
  split
  · exact h
  · next e _ =>
    have hx : Spares A I s₀ { s with bus := { s.bus with draining := s.bus.draining.filter (fun x => x.1 != m) } } := h.same
    exact State.raise_spares hA (State.p_low_spares hA (State.p_low_spares hA (State.p_low_spares hA hx
      Reg.MTX.DRAIN.DRAINS _) Reg.MTX.DRAIN.LAST_MASTER m) Reg.MTX.DRAIN.LAST_CUT_BEATS e.2) Ev.mtxDrain m

theorem State.portReady_spares (h : Spares A I s₀ s) (m : Nat) : Spares A I s₀ (s.portReady m) := .ite (drainEnd_spares hA h m) h

theorem State.readBurst_spares (h : Spares A I s₀ s) {m : Nat} (hm : m < 64) (qos id a n : Nat) :
    Spares A I s₀ (s.readBurst m qos id a n .clean).1 := by
  unfold State.readBurst
  refine .itePair (State.busFail_spares hA h _ hm) ?_
  split
  · exact State.busFail_spares hA h _ hm
  · extract_lets x reaches y r
    have hy : Spares A I s₀ y := State.countBurst_spares hA (State.queueTake_spares
      (State.queueSettle_spares (State.arrive_spares hA h _ _ _ _ _ _) _ _) _ _ _ _ _) _ _ _
    have hr : Spares A I s₀ r.1 := by
      unfold r
      generalize reaches = o
      cases o with
      | none => exact hy
      | some x => exact hy
    exact .itePair (State.errLog_spares hA hy _) (.itePair (State.errLog_spares hA hr _) hr)

theorem State.readBursts_spares (h : Spares A I s₀ s) {m : Nat} (hm : m < 64) (qos id : Nat) (l : List (Nat × Nat)) :
    Spares A I s₀ (s.readBursts m qos id .clean l).1 := by
  induction l generalizing s with
  | nil => exact h
  | cons b bs ih => exact ih (State.readBurst_spares hA h hm _ _ _ _)

theorem State.dmaRead_spares (h : Spares A I s₀ s) {m : Nat} (hm : m < 64) (own a n : Nat) : Spares A I s₀ (s.dmaRead m own a n).1 :=
  State.readBursts_spares hA (State.portReady_spares hA h m) hm _ _ _

theorem State.stageWritten_spares (h : Spares A I s₀ s) : Spares A I s₀ s.stageWritten := by
  unfold State.stageWritten
  extract_lets x seq y z w
  have hx : Spares A I s₀ x := State.p_low_spares hA (State.p_low_spares hA (State.p_low_spares hA h _ _) _ _) _ _
  have hy : Spares A I s₀ y := .ite hx.same h
  have hz : Spares A I s₀ z :=
    .ite (State.p_low_spares hA (State.p_low_spares hA (State.p_low_spares hA hy _ _) _ _) _ _) hy
  have hw : Spares A I s₀ w := State.p_low_spares hA (State.p_low_spares hA hz _ _) _ _
  exact .ite (State.p_low_spares hA (State.p_low_spares hA hw _ _) _ _) hw

theorem State.storeData_spares (h : Spares A I s₀ s) (a : Nat) (bs : List Byte) : Spares A I s₀ (s.storeData a bs) :=
  .ite (State.stageWritten_spares hA (s := s.store a bs) h.same) h.same

theorem State.storeMasked_spares (h : Spares A I s₀ s) (a : Nat) (bs : List Byte) (on : List Bool) :
    Spares A I s₀ (s.storeMasked a bs on) :=
  .ite (State.storeData_spares hA h a bs) (.fold h fun _ _ _ hs => .ite (State.storeData_spares hA hs _ _) hs)

theorem State.writeBurst_spares (h : Spares A I s₀ s) {m : Nat} (hm : m < 64) (qos id a : Nat) (bs : List Byte) (on : List Bool) :
    Spares A I s₀ (s.writeBurst m qos id a bs on).1 := by
  unfold State.writeBurst
  refine .itePair (State.busFail_spares hA h _ hm) ?_
  split
  · exact State.busFail_spares hA h _ hm
  · exact State.raise_spares hA h _ _
  · exact State.storeMasked_spares hA (State.countBurst_spares hA (State.queueBurst_spares
      (State.arrive_spares hA h _ _ _ _ _ _) _ _ _ _ _) _ _ _) _ _ _

theorem State.writeBursts_spares (h : Spares A I s₀ s) {m : Nat} (hm : m < 64) (qos id : Nat) (l : List (Nat × Nat)) (bs : List Byte)
    (on : List Bool) : Spares A I s₀ (s.writeBursts m qos id l bs on).1 := by
  induction l generalizing s bs on with
  | nil => exact h
  | cons b l ih => exact ih (State.writeBurst_spares hA h hm _ _ _ _ _) _ _

theorem State.dmaWrite_spares (h : Spares A I s₀ s) {m : Nat} (hm : m < 64) (own a : Nat) (bs : List Byte) :
    Spares A I s₀ (s.dmaWrite m own a bs).1 :=
  State.writeBursts_spares hA (State.portReady_spares hA h m) hm _ _ _ _ _

/-! ### Pictures -/

theorem State.readRow_spares (h : Spares A I s₀ s) {m : Nat} (hm : m < 64) (qos : Nat) (p : Pic) (y n : Nat) :
    Spares A I s₀ (s.readRow m qos p y n).1 :=
  State.dmaRead_spares hA h hm _ _ _

theorem State.writePixels_spares (h : Spares A I s₀ s) {m : Nat} (hm : m < 64) (qos : Nat) (p : Pic) (x y : Nat) (vs : List Sample) :
    Spares A I s₀ (s.writePixels m qos p x y vs).1 :=
  .itePair h (State.dmaWrite_spares hA h hm _ _ _)

end Transfers

end Sys2Proof.Machine
end

section
/-! PROOF. HOST buffers: HOST_READY fills a buffer or is refused, and the end of its reading closes it (R115, R223). -/

-- One lemma after the other: elaborated side by side, they take more threads than the memory of the check holds.
set_option Elab.async false

namespace Sys2Proof.Machine

/-! ### An event leaves the response of the access that raises it -/

@[simp] theorem State.errLog_resp (s : State) (r : ErrRecord) : (s.errLog r).bus.resp = s.bus.resp := by
  unfold State.errLog
  split
  · split <;> rfl
  · rfl

@[simp] theorem State.busFailLog_resp (s : State) (r : ErrRecord) : (s.busFailLog r).bus.resp = s.bus.resp := State.errLog_resp _ _

@[simp] theorem pulsePins_resp (s : State) (pins : Nat) (l : List Nat) : (pulsePins s pins l).bus.resp = s.bus.resp := by
  induction l generalizing s with
  | nil => rfl
  | cons p ps ih =>
    unfold pulsePins
    split
    · exact ih _
    · exact ih s

@[simp] theorem State.raiseSet_resp (s : State) (r : RaiseInfo) : (s.raiseSet r).bus.resp = s.bus.resp := by
  unfold State.raiseSet
  extract_lets x y
  have hy : y.bus.resp = s.bus.resp := by unfold y; split <;> rfl
  split
  · rw [pulsePins_resp, hy]
  · exact hy

@[simp] theorem State.noteEvent_resp (s : State) (i : Nat) : (s.noteEvent i).bus.resp = s.bus.resp := by
  unfold State.noteEvent State.noteHealth
  repeat' split
  all_goals rfl

@[simp] theorem State.countBurst_resp (s : State) (m a n : Nat) : (s.countBurst m a n).bus.resp = s.bus.resp := by
  unfold State.countBurst
  split
  · exact List.foldlRecOn (motive := fun t : State => t.bus.resp = s.bus.resp) _ _ rfl fun t ht x _ => by
      rw [State.p_bus, State.inc_bus, ht]
  · split <;> rfl

@[simp] theorem State.queueBurst_resp (s : State) (write : Bool) (qos a n : Nat) (on : List Bool) :
    (s.queueBurst write qos a n on).bus.resp = s.bus.resp := by
  obtain ⟨q, d, e⟩ := s.queueBurst_only write qos a n on
  rw [e]

@[simp] theorem State.logStore_resp (s : State) (base size wr seq : Nat) (drop : Bool) (i : Nat) (es : List (RaiseInfo × Nat)) :
    (s.logStore base size wr seq drop i es).bus.resp = s.bus.resp := by
  induction es generalizing s i with
  | nil => rfl
  | cons e es ih => exact ih _ (i + 1)

@[simp] theorem State.logPut_resp (s : State) (r : RaiseInfo) : (s.logPut r).bus.resp = s.bus.resp := by
  unfold State.logPut
  extract_lets size base old wr seq drop es room a x y z w
  have hy : y.bus.resp = s.bus.resp := by
    unfold y
    split
    · rfl
    · split
      · rfl
      · rw [State.countBurst_resp, State.queueBurst_resp]; rfl
  exact (y.logStore_resp base size wr seq drop 0 _).trans hy

@[simp] theorem State.logAppend_resp (s : State) (r : RaiseInfo) : (s.logAppend r).bus.resp = s.bus.resp := by
  unfold State.logAppend
  split
  · rfl
  extract_lets a x e
  split
  · exact s.logPut_resp r
  · split
    · rw [State.raiseSet_resp, State.busFailLog_resp]; rfl
    · rfl

@[simp] theorem State.raise_resp (s : State) (i arg : Nat) : (s.raise i arg).bus.resp = s.bus.resp := by
  unfold State.raise State.raiseInfo
  split
  · extract_lets t
    have ht : t.bus.resp = s.bus.resp := by simp [t]
    split
    · rw [State.logAppend_resp, ht]
    · exact ht
  · rfl

/-! ### Claims and closures (R112, R113) -/

@[simp] theorem State.buf_setBuf_same (s : State) (b : Nat) (x : BufState) : (s.setBuf b x).buf b = x := Tab.get_put_same _ _ _ _

@[simp] theorem State.setBuf_g (s : State) (b : Nat) (x : BufState) (f : FRef) : (s.setBuf b x).g f = s.g f := rfl

@[simp] theorem State.setBuf_bufState (s : State) (b k : Nat) (x : BufState) : (s.setBuf b x).bufState k = s.bufState k := rfl

theorem State.claim_bufState (s : State) (b field count : Nat) : (s.claim b field count).bufState b = Bs.filling := by
  unfold State.bufState State.claim State.setArrival
  simp (disch := (dsimp only; omega)) only [State.g_p_other, State.g_p_same]
  rfl

theorem State.claim_rowMark (s : State) (b field count : Nat) : (s.claim b field count).g (Reg.ING.BUF.ROW_MARK b) = 0 := by
  unfold State.claim State.setArrival
  simp (disch := (dsimp only; omega)) only [State.g_p_other, State.g_p_same, Nat.zero_mod]

/-- A claim writes registers of its buffer alone. -/
theorem State.claim_g (s : State) (b field count : Nat) {f : FRef} (hf : f.addr < 0x10140000) :
    (s.claim b field count).g f = s.g f := by
  unfold State.claim State.setArrival
  simp (disch := (dsimp only; omega)) only [State.g_p_other]

theorem State.closeBuf_bufState (s : State) (b : Nat) (t : Tag) : (s.closeBuf b t).bufState b = Bs.ready :=
  State.g_p_same _ _ _ (show 10 + 2 ≤ 32 by decide)

theorem State.closeBuf_g (s : State) (b : Nat) (t : Tag) {f : FRef} (hf : f.addr < 0x10140000) : (s.closeBuf b t).g f = s.g f := by
  unfold State.closeBuf
  rw [State.g_p_other _ _ _ _ (.inl (by dsimp only; omega)), State.g_p_other _ _ _ _ (.inl (by dsimp only; omega))]
  rfl

theorem State.filled_buf (s : State) (i b k : Nat) : (s.filled i b).buf k = s.buf k := rfl

theorem State.inc_buf (s : State) (f : FRef) (k : Nat) : (s.inc f).buf k = s.buf k := rfl

theorem State.filled_g (s : State) (i b : Nat) (f : FRef) : (s.filled i b).g f = s.g f := rfl

/-! ### HOST_READY (R115, R223) -/

theorem State.hostEntry_lt {s : State} {b i : Nat} (h : s.hostEntry b = some i) : i < 512 := by
  unfold State.hostEntry at h
  exact List.mem_range.1 (List.mem_of_find?_eq_some h)

/-- HOST entries are found by registers alone. -/
theorem State.hostEntry_congr {s t : State} (h : ∀ f : FRef, 0x100B0000 ≤ f.addr → t.g f = s.g f) (b : Nat) : t.hostEntry b = s.hostEntry b := by
  have hg (f : FRef) (hf : 0x100B0000 ≤ f.addr) : t.gb f = s.gb f := by unfold State.gb; rw [h f hf]
  unfold State.hostEntry State.ring
  refine congrArg (fun p => (List.range 512).find? p) (funext fun i => ?_)
  have hring : (fun k : Nat => if k % 2 = 0 then t.g (Reg.ING.SRC.BUF_LO i (k / 2)) else t.g (Reg.ING.SRC.BUF_HI i (k / 2))) =
      fun k => if k % 2 = 0 then s.g (Reg.ING.SRC.BUF_LO i (k / 2)) else s.g (Reg.ING.SRC.BUF_HI i (k / 2)) :=
    funext fun k => by rw [h _ (by dsimp only; omega), h _ (by dsimp only; omega)]
  rw [hg _ (by dsimp only; omega), h (Reg.ING.SRC.TYPE i) (by dsimp only; omega), h (Reg.ING.SRC.RING_LEN_M1 i) (by dsimp only; omega), hring]

theorem hostReady_id (b : Fin 4096) : fieldGet (BitVec.ofNat 32 b.val) 0 12 = b.val := by
  have hb := b.isLt
  unfold fieldGet
  rw [BitVec.toNat_ofNat]
  omega

/-- The state in which HOST_READY leaves a buffer of HOST entry `i` that it fills: SEQUENCE advanced, the buffer claimed, and what
its closure needs kept. -/
def State.hostFills (s : State) (b i : Nat) : State :=
  let t := s.inc (Reg.ING.SRC.SEQUENCE i)
  (t.claim b 0 t.time.count).setBuf b { t.buf b with host := some (t.wall, t.g (Reg.ING.SRC.SEQUENCE i), i) }

theorem State.hostFills_g (s : State) (b i : Nat) {f : FRef} (hf : f.addr < 0x10140000) :
    (s.hostFills b i).g f = (s.inc (Reg.ING.SRC.SEQUENCE i)).g f := by
  unfold State.hostFills
  rw [State.setBuf_g, State.claim_g _ _ _ _ hf]

theorem State.hostFills_sequence (s : State) (b : Nat) {i : Nat} (hi : i < 512) :
    (s.hostFills b i).g (Reg.ING.SRC.SEQUENCE i) = (s.g (Reg.ING.SRC.SEQUENCE i) + 1) % 2 ^ 32 := by
  rw [State.hostFills_g _ _ _ (by dsimp only; omega), State.g_inc_same _ _ (by dsimp only; omega)]

theorem State.hostFills_buffer (s : State) (b i : Nat) :
    (s.hostFills b i).bufState b = Bs.filling ∧ (s.hostFills b i).g (Reg.ING.BUF.ROW_MARK b) = 0 := by
  unfold State.hostFills
  rw [State.setBuf_bufState, State.setBuf_g]
  exact ⟨State.claim_bufState _ _ _ _, State.claim_rowMark _ _ _ _⟩

theorem State.hostFills_host (s : State) (b : Nat) {i : Nat} (hi : i < 512) :
    ((s.hostFills b i).buf b).host = some (s.wall, (s.hostFills b i).g (Reg.ING.SRC.SEQUENCE i), i) := by
  have hwall : (s.inc (Reg.ING.SRC.SEQUENCE i)).wall = s.wall :=
    State.wall_congr rfl (State.g_inc_apart _ (.inl (by dsimp only; omega)))
  rw [State.hostFills_g _ _ _ (by dsimp only; omega), ← hwall]
  unfold State.hostFills
  rw [State.buf_setBuf_same]

section Ready

variable {m i : Nat} {b : Fin 4096} {s : State}

theorem hostReady_fills (hl : (s.buf b.val).leases = []) (hs : s.bufState b.val ≠ Bs.filling) (he : s.hostEntry b.val = some i) :
    hostReady m (BitVec.ofNat 32 b.val) s = s.hostFills b.val i := by
  have hne : ¬ (!(s.buf b.val).leases.isEmpty) = true := by simp [hl]
  unfold hostReady
  rw [hostReady_id, if_neg hne, if_neg hs, he]
  rfl

/-- HOST_READY of a leased buffer is refused with EV_LEASE_VIOLATION. -/
theorem hostReady_leased (hl : (s.buf b.val).leases ≠ []) : hostReady m (BitVec.ofNat 32 b.val) s =
    (s.refuse m 0x10100010 (BitVec.ofNat 32 b.val)).raise Ev.leaseViolation b.val := by
  have hne : (!(s.buf b.val).leases.isEmpty) = true := by simp [hl]
  unfold hostReady
  rw [hostReady_id]
  exact if_pos hne

/-- What the refusal leaves and answers. -/
theorem hostReady_leased_answers (hc : s.coreOn = true) (hl : (s.buf b.val).leases ≠ []) :
    (hostReady m (BitVec.ofNat 32 b.val) s).bufState b.val = s.bufState b.val ∧
      (hostReady m (BitVec.ofNat 32 b.val) s).bus.resp = some ⟨true, []⟩ ∧
      (hostReady m (BitVec.ofNat 32 b.val) s).evStatus Ev.leaseViolation = true ∧
      (hostReady m (BitVec.ofNat 32 b.val) s).srcs = s.srcs := by
  rw [hostReady_leased hl]
  generalize (BitVec.ofNat 32 b.val : Word) = v
  have hr := State.refuse_aside (Aside.refl s) m 0x10100010 v
  have hresp : (s.refuse m 0x10100010 v).bus.resp = some ⟨true, []⟩ := State.respond_resp _ _ _
  have hq : quietAddr (Reg.ING.BUF.STATE b.val).addr := by unfold quietAddr; dsimp only; omega
  generalize s.refuse m 0x10100010 v = x at *
  refine ⟨?_, ?_, ?_, ?_⟩
  · unfold State.bufState
    rw [State.raise_g _ _ _ (by decide) hq, hr.g hq]
  · rw [State.raise_resp, hresp]
  · exact State.raise_stands _ _ _ (by decide) (hr.coreOn.trans hc)
  · rw [State.raise_srcs _ _ _ (by decide), hr.srcs]

end Ready

/-! ### The end of the reading (R115) -/

theorem State.hostRead_spares {A I : Nat → Prop} (hA : ∀ a, A a → 0x100C0000 ≤ a) {s₀ s : State} (h : Spares A I s₀ s) (p : Pic)
    (ys : List Nat) (t : Tab (List Nat)) : Spares A I s₀ (s.hostRead p ys t).1 := by
  induction ys generalizing s t with
  | nil => exact h
  | cons y ys ih => exact ih (State.readRow_spares hA h (by decide) _ _ _ _) _

/-- A HOST buffer that FILLING ends READY, with no closure due, and counts in FRAMES of its entry. -/
theorem hostClose_closes {b : Nat} {s : State} {w : Int} {q i : Nat} (hc : s.coreOn = true) (hi : i < 512)
    (hh : (s.buf b).host = some (w, q, i)) (hs : s.bufState b = Bs.filling) :
    (hostClose b s).bufState b = Bs.ready ∧ ((hostClose b s).buf b).host = none ∧
      (hostClose b s).g (Reg.ING.SRC.FRAMES i) = (s.g (Reg.ING.SRC.FRAMES i) + 1) % 2 ^ 32 := by
  have hgo : (s.coreOn && s.bufState b == Bs.filling) = true := by simp [hc, hs]
  unfold hostClose
  rw [hh]
  dsimp -zeta only
  rw [if_pos hgo]
  extract_lets p r x t
  have hr : Spares (0x100C0000 ≤ ·) (fun _ => True) s r.1 := State.hostRead_spares (fun _ => id) (Spares.refl _ _ _) _ _ _
  have hx : Spares (0x100C0000 ≤ ·) (fun _ => True) s x := .fold hr fun _ _ _ hs => State.dmaRead_spares (fun _ => id) hs (by decide) _ _ _
  refine ⟨?_, ?_, ?_⟩
  · unfold State.bufState
    rw [State.filled_g, State.g_inc_apart _ (.inl (by dsimp only; omega)), State.setBuf_g]
    exact State.closeBuf_bufState x b t
  · rw [State.filled_buf, State.inc_buf, State.buf_setBuf_same]
  · rw [State.filled_g, State.g_inc_same _ _ (by dsimp only; omega), State.setBuf_g, State.closeBuf_g _ _ _ (by dsimp only; omega),
      hx.g (by dsimp only; omega)]

/-- What an access served leaves of the buffers. -/
theorem State.served_buf (s : State) (dt m b : Nat) : (((s.advance dt).ctlServed m).respond false []).buf b = s.buf b := by
  unfold State.buf
  rw [(s.served_aside dt m).bufs, State.advance_bufs]

theorem State.served_bufState (s : State) (dt m b : Nat) :
    (((s.advance dt).ctlServed m).respond false []).bufState b = s.bufState b :=
  s.served_g dt m _ (by unfold quietAddr; dsimp only; omega)

theorem State.served_wall (s : State) (dt m : Nat) : (((s.advance dt).ctlServed m).respond false []).wall = (s.advance dt).wall :=
  State.wall_congr (s.served_aside dt m).time ((s.served_g dt m Reg.TIME.RATE.RATE).trans (s.advance_g dt _).symm)

/-- Settles O26, by what HOST_READY makes of a buffer by its leases, and by what the reading of a picture leaves (log entry 29). -/
theorem hostBuffers : Obligations.HostBuffers := by
  refine ⟨fun dt m b i s hc hw hl hs he => ?_, fun dt m b s hc hw hl => ?_, fun dt b w q i s hc hh hs => ?_⟩
  · have hserved := State.ctlWrite_served dt (v := BitVec.ofNat 32 b.val) (act := hostReady m.val (BitVec.ofNat 32 b.val)) hc hw
    have hg (f : FRef) (hf : 0x100B0000 ≤ f.addr) := s.served_g dt m.val f (.inr (.inr hf))
    have hfill := hostReady_fills (m := m.val) ((congrArg BufState.leases (s.served_buf dt m.val b.val)).trans hl)
      (by rw [State.served_bufState]; exact hs) ((State.hostEntry_congr hg b.val).trans he)
    have hi := State.hostEntry_lt he
    obtain ⟨hstate, hmark⟩ := State.hostFills_buffer (((s.advance dt).ctlServed m.val).respond false []) b.val i
    have hseq := State.hostFills_sequence (((s.advance dt).ctlServed m.val).respond false []) b.val hi
    have hhost := State.hostFills_host (((s.advance dt).ctlServed m.val).respond false []) b.val hi
    rw [hg (Reg.ING.SRC.SEQUENCE i) (by dsimp only; omega)] at hseq
    rw [State.served_wall] at hhost
    exact ⟨_, congrArg Host.Outcome.next (hserved.trans hfill), hstate, hmark, hseq, hhost⟩
  · have hserved := State.ctlWrite_served dt (v := BitVec.ofNat 32 b.val) (act := hostReady m.val (BitVec.ofNat 32 b.val)) hc hw
    obtain ⟨hstate, hresp, hev, hsrcs⟩ := hostReady_leased_answers (m := m.val) (b := b) (s.served_coreOn dt (m := m.val) hc)
      (by rw [State.served_buf]; exact hl)
    rw [State.served_bufState] at hstate
    rw [(s.served_aside dt m.val).srcs, State.advance_srcs] at hsrcs
    exact ⟨_, congrArg Host.Outcome.next hserved, hstate, hresp, hev, hsrcs⟩
  · obtain ⟨hstate, hhost, hframes⟩ := hostClose_closes (s := s.advance dt) (b := b.val) (w := w) (q := q) (i := i.val)
      (by simpa using hc) i.isLt (by simpa [State.buf] using hh) (by simpa [State.bufState] using hs)
    rw [State.advance_g] at hframes
    exact ⟨_, rfl, hstate, hhost, hframes⟩

end Sys2Proof.Machine
end

section
/-! PROOF. What the work of a stream engine on an entry's units leaves: its word 0, its counts of packets and of bad datagrams, and the
network's queues; and, where no unit begins, its SEQUENCE (R103, R113, R116 to R118, R123 to R129). -/

-- One lemma after the other: elaborated side by side, they take more threads than the memory of the check holds.
set_option Elab.async false

namespace Sys2Proof.Machine

/-! ### The registers that stay -/

/-- A register of ING that no unit of a source entry changes: of an entry, its set-up, PKTS and BAD. -/
def entryAddr (a : Nat) : Prop := 0x10100000 ≤ a ∧ a < 0x10140000 ∧ (a % 0x100 ≤ 0x60 ∨ a % 0x100 = 0x6C)

/-- A register of ING that no unit changes once it has begun: these, and SEQUENCE. -/
def unitAddr (a : Nat) : Prop := 0x10100000 ≤ a ∧ a < 0x10140000 ∧ (a % 0x100 ≤ 0x60 ∨ a % 0x100 = 0x6C ∨ a % 0x100 = 0x90)

theorem unitAddr_of_entryAddr {a : Nat} (h : entryAddr a) : unitAddr a := by unfold entryAddr at h; unfold unitAddr; omega

/-- No source entry beyond its registers. -/
abbrev noEntry : Nat → Prop := fun _ => False

theorem State.seMaster_lt (s : State) (i : Nat) : s.seMaster i < 64 := by
  have h := s.g_lt (Reg.ING.SRC.SE i)
  dsimp only at h
  unfold State.seMaster engMaster
  split
  · decide
  · split
    · omega
    · split
      · omega
      · split <;> decide

/-! ### Work on units that have begun -/

section Begun

variable {A : Nat → Prop} (hA : ∀ a, A a → unitAddr a) {s₀ s : State}
include hA

theorem unitAddr_high (a : Nat) (ha : A a) : 0x100C0000 ≤ a := by
  have h := hA a ha
  unfold unitAddr at h
  omega

theorem State.p_unit_spares (h : Spares A noEntry s₀ s) (f : FRef) (v : Nat) (hf : ¬ unitAddr f.addr := by
    unfold unitAddr; dsimp only; omega) : Spares A noEntry s₀ (s.p f v) :=
  State.p_spares h f v fun ha => hf (hA _ ha)

omit hA in
theorem State.setSrc_unit_spares (h : Spares A noEntry s₀ s) (i : Nat) (e : SrcState) : Spares A noEntry s₀ (s.setSrc i e) :=
  State.setSrc_spares h not_false e

omit hA in
theorem State.setUnit_spares (h : Spares A noEntry s₀ s) (i k : Nat) (u : OpenUnit) : Spares A noEntry s₀ (s.setUnit i k u) :=
  State.setSrc_unit_spares h _ _

theorem State.markRows_spares (h : Spares A noEntry s₀ s) (i : Nat) (u : OpenUnit) : Spares A noEntry s₀ (s.markRows i u) := by
  unfold State.markRows
  split
  · exact h
  · next b _ => exact State.p_unit_spares hA h (Reg.ING.BUF.ROW_MARK b) _

theorem State.srdWrite_spares (h : Spares A noEntry s₀ s) (i k : Nat) (x : Srd) : Spares A noEntry s₀ (s.srdWrite i k x).1 := by
  unfold State.srdWrite
  split
  · exact h
  · next u _ =>
    refine .itePair h ?_
    extract_lets y u'
    have hy : Spares A noEntry s₀ y := by
      unfold y
      split
      · exact State.writePixels_spares (unitAddr_high hA) h (s.seMaster_lt i) _ _ _ _ _
      · exact h
    exact State.markRows_spares hA (State.setUnit_spares hy _ _ _) _ _

theorem State.fillRow_spares (h : Spares A noEntry s₀ s) (i : Nat) (u : OpenUnit) (y : Nat) : Spares A noEntry s₀ (s.fillRow i u y).1 := by
  unfold State.fillRow
  split
  · exact h
  · extract_lets p w m from_ r
    have hm : m < 64 := s.seMaster_lt i
    have hr : Spares A noEntry s₀ r.1 := by
      unfold r
      generalize from_ = o
      cases o with
      | none => exact h
      | some f => exact State.readRow_spares (unitAddr_high hA) h hm _ _ _ _
    exact State.writePixels_spares (unitAddr_high hA) hr hm _ _ _ _ _

theorem State.fillRows_spares (h : Spares A noEntry s₀ s) (i : Nat) (u : OpenUnit) (ys : List Nat) :
    Spares A noEntry s₀ (s.fillRows i u ys).1 := by
  induction ys generalizing s u with
  | nil => exact h
  | cons y ys ih => exact ih (State.fillRow_spares hA h _ _ _) _

theorem State.loseRows_spares (h : Spares A noEntry s₀ s) (i k limit : Nat) : Spares A noEntry s₀ (s.loseRows i k limit) := by
  unfold State.loseRows
  split
  · exact h
  · exact State.markRows_spares hA (State.setUnit_spares (State.fillRows_spares hA h _ _ _) _ _ _) _ _

theorem State.closeBuf_spares (h : Spares A noEntry s₀ s) (b : Nat) (t : Tag) : Spares A noEntry s₀ (s.closeBuf b t) :=
  State.p_unit_spares hA (State.p_unit_spares hA h.same (Reg.ING.BUF.ROW_MARK b) _) (Reg.ING.BUF.STATE b) _

theorem State.countLost_spares (h : Spares A noEntry s₀ s) (i n : Nat) : Spares A noEntry s₀ (s.countLost i n) :=
  .ite h (State.raise_spares (unitAddr_high hA) (State.p_unit_spares hA h (Reg.ING.SRC.LOST i) _) _ _)

theorem State.frameClose_spares (h : Spares A noEntry s₀ s) (i k : Nat) : Spares A noEntry s₀ (s.frameClose i k) := by
  unfold State.frameClose
  split
  · exact h
  · next u _ =>
    extract_lets e miss flags x closed y
    have hx : Spares A noEntry s₀ x := by
      unfold x
      split
      · exact h
      · next b _ =>
        extract_lets t y z
        have hy : Spares A noEntry s₀ y := State.p_unit_spares hA
          (State.setSrc_unit_spares (State.closeBuf_spares hA h b t) i _) (Reg.ING.SRC.FRAMES i) _
        have hz : Spares A noEntry s₀ z := .ite hy (State.p_unit_spares hA hy (Reg.ING.SRC.INCOMPLETE i) _)
        exact .ite (State.setSrc_unit_spares hz _ _) (State.setSrc_unit_spares hz _ _)
    exact State.countLost_spares hA (State.setSrc_unit_spares hx _ _) _ _

theorem State.framesStep_spares (h : Spares A noEntry s₀ s) (i k n : Nat) : Spares A noEntry s₀ (s.framesStep i k n) := by
  induction n generalizing s k with
  | zero => exact h
  | succ n ih =>
    unfold State.framesStep
    split
    · exact h
    · extract_lets t u full
      have ht : Spares A noEntry s₀ t := State.loseRows_spares hA h _ _ _
      exact .ite (ih (State.frameClose_spares hA ht _ _) _) (ih ht _)

theorem State.histStore_spares (h : Spares A noEntry s₀ s) (i n : Nat) (payload : List Byte) : Spares A noEntry s₀ (s.histStore i n payload) :=
  .ite (State.dmaWrite_spares (unitAddr_high hA) h (s.seMaster_lt i) _ _ _) h

/-- A record that is written or dropped. -/
theorem State.recordWrite_spares (h : Spares A noEntry s₀ s) (i : Nat) (u : OpenUnit) (gap hevc : Bool) (nals : List (List Byte)) :
    Spares A noEntry s₀ (s.recordWrite i u gap hevc nals) := by
  unfold State.recordWrite
  extract_lets e rap has adds m rd data gap' flags len head x
  have hm : m < 64 := s.seMaster_lt i
  have hrd : Spares A noEntry s₀ rd.1 := .itePair (State.dmaRead_spares (unitAddr_high hA) h hm _ _ _) h
  have hx : Spares A noEntry s₀ x := State.setSrc_unit_spares hrd _ _
  split
  · exact State.p_unit_spares hA (State.setSrc_unit_spares hx _ _) (Reg.ING.SRC.RING_DROP i) _
  · next off _ =>
    extract_lets a y next z w v
    have hy : Spares A noEntry s₀ y := State.dmaWrite_spares (unitAddr_high hA) hx hm _ _ _
    have hz : Spares A noEntry s₀ z := .ite (State.p_unit_spares hA hy (Reg.ING.SRC.BS_RD i) _) hy
    have hw : Spares A noEntry s₀ w := State.p_unit_spares hA (State.p_unit_spares hA hz (Reg.ING.SRC.BS_WR i) _) (Reg.ING.SRC.FRAMES i) _
    have hv : Spares A noEntry s₀ v := .ite (State.p_unit_spares hA hw (Reg.ING.SRC.INCOMPLETE i) _) hw
    exact State.setSrc_unit_spares hv _ _

theorem State.auClose_spares (h : Spares A noEntry s₀ s) (i k : Nat) : Spares A noEntry s₀ (s.auClose i k) := by
  unfold State.auClose
  split
  · exact h
  · exact State.recordWrite_spares hA (State.countLost_spares hA (State.setSrc_unit_spares h _ _) _ _) _ _ _ _ _

theorem State.ausStep_spares (h : Spares A noEntry s₀ s) (i n : Nat) : Spares A noEntry s₀ (s.ausStep i n) := by
  induction n generalizing s with
  | zero => exact h
  | succ n ih =>
    unfold State.ausStep
    split
    · exact h
    · exact ih (State.auClose_spares hA h _ _)

theorem State.pesClose_spares (h : Spares A noEntry s₀ s) (i : Nat) : Spares A noEntry s₀ (s.pesClose i) := by
  unfold State.pesClose
  split
  · exact h
  · exact State.recordWrite_spares hA (State.setSrc_unit_spares h _ _) _ _ _ _ _

omit hA in
theorem State.pesData_spares (h : Spares A noEntry s₀ s) (i : Nat) (dv : Bool) (bs : List Byte) : Spares A noEntry s₀ (s.pesData i dv bs) := by
  unfold State.pesData
  split
  · exact h
  · exact State.setSrc_unit_spares h _ _

theorem State.tsGap_spares (h : Spares A noEntry s₀ s) (i n : Nat) : Spares A noEntry s₀ (s.tsGap i n) := by
  unfold State.tsGap
  refine .ite h (State.countLost_spares hA ?_ _ _)
  split
  · exact State.setSrc_unit_spares h _ _
  · exact State.setSrc_unit_spares h _ _

end Begun

/-! ### Units that begin -/

section Begins

variable {s₀ s : State}

theorem State.auOpen_spares (h : Spares entryAddr noEntry s₀ s) (i ts : Nat) (wall : Int) (count : Nat) :
    Spares entryAddr noEntry s₀ (s.auOpen i ts wall count) :=
  State.setSrc_unit_spares (State.p_spares h (Reg.ING.SRC.SEQUENCE i) _ (by unfold entryAddr; dsimp only; omega)) _ _

theorem State.tsSection_spares (h : Spares entryAddr noEntry s₀ s) (i pid : Nat) (start : Bool) (bs : List Byte) :
    Spares entryAddr noEntry s₀ (s.tsSection i pid start bs) := by
  unfold State.tsSection
  exact State.setSrc_unit_spares h _ _

theorem State.tsPacket_spares (h : Spares entryAddr noEntry s₀ s) (i ts : Nat) (wall : Int) (count : Nat) (dv : Bool) (p : List Byte) :
    Spares entryAddr noEntry s₀ (s.tsPacket i ts wall count dv p) := by
  have hA : ∀ a, entryAddr a → unitAddr a := fun _ => unitAddr_of_entryAddr
  unfold State.tsPacket
  extract_lets pid start ctl off pay e cc miss x src ts' y
  have hy : Spares entryAddr noEntry s₀ y := State.setSrc_unit_spares (State.tsGap_spares hA h _ _) _ _
  exact .ite (State.tsSection_spares h _ _ _ _) (.ite (.ite h (.ite h (.ite
    (State.pesData_spares (State.auOpen_spares (State.pesClose_spares hA hy _) _ _ _ _) _ _ _)
    (State.pesData_spares hy _ _ _)))) (State.p_unit_spares hA h (Reg.ING.SRC.DISCARDED i) _))

theorem State.tsPackets_spares (h : Spares entryAddr noEntry s₀ s) (i ts : Nat) (wall : Int) (count : Nat) (dv : Bool) (pl : List Byte) :
    Spares entryAddr noEntry s₀ (s.tsPackets i ts wall count dv pl) :=
  .fold h fun _ _ _ hs => State.tsPacket_spares hs _ _ _ _ _ _

theorem State.tsDrain_spares (h : Spares entryAddr noEntry s₀ s) (i n : Nat) : Spares entryAddr noEntry s₀ (s.tsDrain i n) := by
  induction n generalizing s with
  | zero => exact h
  | succ n ih =>
    unfold State.tsDrain
    extract_lets e was ts
    split
    · exact h
    · extract_lets next x y z ts' w same ts''
      have hy : Spares entryAddr noEntry s₀ y := State.tsPackets_spares (State.setSrc_unit_spares h _ _) _ _ _ _ _ _
      exact .ite (ih (State.setSrc_unit_spares hy _ _)) h

theorem State.claim_spares (h : Spares entryAddr noEntry s₀ s) (b field count : Nat) : Spares entryAddr noEntry s₀ (s.claim b field count) := by
  have hA : ∀ a, entryAddr a → unitAddr a := fun _ => unitAddr_of_entryAddr
  unfold State.claim State.setArrival
  exact State.p_unit_spares hA (State.p_unit_spares hA (State.p_unit_spares hA (State.p_unit_spares hA (State.p_unit_spares hA h
    (Reg.ING.BUF.STATE b) _) (Reg.ING.BUF.ROW_MARK b) _) (Reg.ING.BUF.FIELD b) _) (Reg.ING.BUF.ARRIVAL_LO b) _) (Reg.ING.BUF.ARRIVAL_HI b) _

end Begins

end Sys2Proof.Machine
end

section
/-! PROOF. What a stream engine makes of its next datagram: media counted and received, or counted BAD, and sender reports (R103, R113,
R121, R126, R127). -/

-- One lemma after the other: elaborated side by side, they take more threads than the memory of the check holds.
set_option Elab.async false

namespace Sys2Proof.Machine

/-! ### The datagram that is taken -/

@[simp] theorem State.advance_src (s : State) (dt i : Nat) : (s.advance dt).src i = s.src i := by simp [State.src]

@[simp] theorem State.advance_nextDgram (s : State) (dt e : Nat) : (s.advance dt).nextDgram e = s.nextDgram e := by
  simp [State.nextDgram, State.engRunning]

@[simp] theorem State.advance_rtpFits (s : State) (dt i : Nat) (r : Rtp) : (s.advance dt).rtpFits i r = s.rtpFits i r := by
  simp [State.rtpFits]

@[simp] theorem State.advance_srdsOf (s : State) (dt i : Nat) (pl : List Byte) : (s.advance dt).srdsOf i pl = s.srdsOf i pl := by
  have hg : (s.advance dt).g = s.g := funext (s.advance_g dt)
  unfold State.srdsOf State.bufH State.srcH State.srcW State.gb
  rw [hg]

section Taken

variable (s : State) (e : Nat) (d : NetDgram)

@[simp] theorem State.dgramTaken_g (f : FRef) : (s.dgramTaken e d).g f = s.g f := rfl

@[simp] theorem State.dgramTaken_gb (f : FRef) : (s.dgramTaken e d).gb f = s.gb f := rfl

@[simp] theorem State.dgramTaken_src (i : Nat) : (s.dgramTaken e d).src i = s.src i := rfl

@[simp] theorem State.dgramTaken_rtpFits (i : Nat) (r : Rtp) : (s.dgramTaken e d).rtpFits i r = s.rtpFits i r := rfl

@[simp] theorem State.dgramTaken_srdsOf (i : Nat) (pl : List Byte) : (s.dgramTaken e d).srdsOf i pl = s.srdsOf i pl := rfl

@[simp] theorem State.dgramTaken_waiting : (s.dgramTaken e d).net.waiting = s.net.waiting.erase d := rfl

@[simp] theorem State.dgramTaken_mem : (s.dgramTaken e d).mem = s.mem := rfl

@[simp] theorem State.dgramTaken_clock : (s.dgramTaken e d).clock = s.clock := rfl

end Taken

section Next

variable {s : State} {e : Nat} {d : NetDgram} (dt : Nat) (h : s.nextDgram e = some d)
include h

theorem mediaPacket_takes (hr : d.rtcp = false) : mediaPacket e (s.advance dt) = ((s.advance dt).dgramTaken e d).takeDgram d := by
  simp [mediaPacket, h, hr]

theorem rtcpPacket_takes (hr : d.rtcp = true) :
    rtcpPacket e (s.advance dt) = ((s.advance dt).dgramTaken e d).senderReport d.entry d.data := by
  simp [rtcpPacket, h, hr]

end Next

/-! ### Which way a datagram goes (R103, R127) -/

section Ways

variable {s : State} {d : NetDgram}

theorem takeDgram_discard (ht : s.g (Reg.ING.SRC.TYPE d.entry) = 7) :
    s.takeDgram d = (s.srcAccept d.entry d.pathB).inc (Reg.ING.SRC.DISCARDED d.entry) := by
  simp [State.takeDgram, ht]

theorem takeDgram_transport (ht : s.g (Reg.ING.SRC.TYPE d.entry) = 4) (hr : s.gb (Reg.ING.SRC.TS_RTP d.entry) = false)
    (hg : tsGood d.data = true) : s.takeDgram d =
      ((s.srcAccept d.entry d.pathB).inc (Reg.ING.SRC.PKTS d.entry)).tsPackets d.entry 0 d.wall d.count false d.data := by
  simp [State.takeDgram, ht, hr, hg]

theorem takeDgram_noRtp (ht : 1 ≤ s.g (Reg.ING.SRC.TYPE d.entry) ∧ s.g (Reg.ING.SRC.TYPE d.entry) ≤ 3) (hn : rtpOf d.data = none) :
    s.takeDgram d = s.inc (Reg.ING.SRC.BAD d.entry) := by
  have h7 : s.g (Reg.ING.SRC.TYPE d.entry) ≠ 7 := by omega
  have h4 : s.g (Reg.ING.SRC.TYPE d.entry) ≠ 4 := by omega
  simp [State.takeDgram, h7, h4, hn]

theorem takeDgram_unfit {r : Rtp} (ht : 1 ≤ s.g (Reg.ING.SRC.TYPE d.entry) ∧ s.g (Reg.ING.SRC.TYPE d.entry) ≤ 3)
    (hn : rtpOf d.data = some r) (hf : s.rtpFits d.entry r = false) : s.takeDgram d = s.inc (Reg.ING.SRC.BAD d.entry) := by
  have h7 : s.g (Reg.ING.SRC.TYPE d.entry) ≠ 7 := by omega
  have h4 : s.g (Reg.ING.SRC.TYPE d.entry) ≠ 4 := by omega
  simp [State.takeDgram, h7, h4, hn, hf]

theorem takeDgram_video {r : Rtp} {x : List Srd} (ht : s.g (Reg.ING.SRC.TYPE d.entry) = 1) (hn : rtpOf d.data = some r)
    (hf : s.rtpFits d.entry r = true) (hx : s.srdsOf d.entry r.payload = some x) : s.takeDgram d = s.videoPacket d.entry d r x := by
  simp [State.takeDgram, ht, hn, hf, hx]

end Ways

/-! ### Media that is accepted (R126, R129) -/

/-- A register above SEQ other than word 0 of source entry `i`. -/
def offWord (i a : Nat) : Prop := 0x100C0000 ≤ a ∧ a ≠ 0x10120000 + 0x100 * i

@[simp] theorem State.p_src (s : State) (f : FRef) (v i : Nat) : (s.p f v).src i = s.src i := rfl

@[simp] theorem State.pb_src (s : State) (f : FRef) (b : Bool) (i : Nat) : (s.pb f b).src i = s.src i := rfl

@[simp] theorem State.inc_src (s : State) (f : FRef) (i : Nat) : (s.inc f).src i = s.src i := rfl

@[simp] theorem State.setSrc_g (s : State) (i : Nat) (e : SrcState) (f : FRef) : (s.setSrc i e).g f = s.g f := rfl

@[simp] theorem State.setSrc_net (s : State) (i : Nat) (e : SrcState) : (s.setSrc i e).net = s.net := rfl

@[simp] theorem State.setSrc_gb (s : State) (i : Nat) (e : SrcState) (f : FRef) : (s.setSrc i e).gb f = s.gb f := rfl

theorem State.claim_src (s : State) (b field count i : Nat) : (s.claim b field count).src i = s.src i := by
  unfold State.claim State.setArrival
  simp only [State.p_src]

theorem State.raise_src (s : State) (i arg k : Nat) (hi : i < 64) : (s.raise i arg).src k = s.src k := by
  unfold State.src
  rw [State.raise_srcs _ _ _ hi]

section Accept

variable {s₀ s : State} {i : Nat}

/-- The path of an accepted packet of entry `i` is up, and has one now (R129). -/
def State.pathSeen (s : State) (i : Nat) (pathB : Bool) : State :=
  if pathB then (s.pb (Reg.ING.SRC.PATH_B_UP i) true).setSrc i { s.src i with atB := some s.clock }
  else (s.pb (Reg.ING.SRC.PATH_A_UP i) true).setSrc i { s.src i with atA := some s.clock }

/-- An entry begins to receive (R126). -/
def State.arrives (s : State) (i : Nat) : State := (s.p (Reg.ING.SRC.STATE i) 2).raise Ev.srcArrived i

/-- An accepted packet: its path, and the entry where it was not receiving. -/
theorem State.srcAccept_eq (s : State) (i : Nat) (pathB : Bool) : s.srcAccept i pathB =
    if (s.pathSeen i pathB).g (Reg.ING.SRC.STATE i) = 2 then s.pathSeen i pathB
    else if (s.pathSeen i pathB).g (Reg.ING.SRC.STATE i) == 3 &&
        (((s.pathSeen i pathB).arrives i).g (Reg.ING.SRC.TYPE i) == 4 || (((s.pathSeen i pathB).arrives i).src i).opens.isEmpty) then
      ((s.pathSeen i pathB).arrives i).setSrc i { ((s.pathSeen i pathB).arrives i).src i with hi := none, base := none }
    else (s.pathSeen i pathB).arrives i := rfl

theorem State.pathSeen_spares (h : Spares (offWord i) noEntry s₀ s) (pathB : Bool) : Spares (offWord i) noEntry s₀ (s.pathSeen i pathB) :=
  .ite (State.setSrc_unit_spares (State.p_spares h (Reg.ING.SRC.PATH_B_UP i) _ fun ha => ha.2 rfl) _ _)
    (State.setSrc_unit_spares (State.p_spares h (Reg.ING.SRC.PATH_A_UP i) _ fun ha => ha.2 rfl) _ _)

theorem State.arrives_spares (h : Spares (offWord i) noEntry s₀ s) : Spares (offWord i) noEntry s₀ (s.arrives i) :=
  State.raise_spares (fun _ ha => ha.1) (State.p_spares h (Reg.ING.SRC.STATE i) _ fun ha => ha.2 rfl) _ _

/-- An accepted packet changes no register but word 0 of its entry. -/
theorem State.srcAccept_spares (h : Spares (offWord i) noEntry s₀ s) (pathB : Bool) : Spares (offWord i) noEntry s₀ (s.srcAccept i pathB) := by
  have hp := State.pathSeen_spares h pathB
  have ha := State.arrives_spares hp
  rw [State.srcAccept_eq]
  exact .ite hp (.ite (State.setSrc_unit_spares ha _ _) ha)

theorem State.arrives_state (s : State) (i : Nat) : (s.arrives i).g (Reg.ING.SRC.STATE i) = 2 := by
  unfold State.arrives
  rw [State.raise_g _ _ _ (by decide) (by unfold quietAddr; dsimp only; omega), State.g_p_same _ _ _ (by dsimp only; omega)]
  rfl

/-- The entry of an accepted packet receives. -/
theorem State.srcAccept_state (s : State) (i : Nat) (pathB : Bool) : (s.srcAccept i pathB).g (Reg.ING.SRC.STATE i) = 2 := by
  rw [State.srcAccept_eq]
  split
  · next h => exact h
  · split
    · rw [State.setSrc_g, State.arrives_state]
    · rw [State.arrives_state]

theorem State.pathSeen_units (s : State) (i : Nat) (pathB : Bool) :
    ((s.pathSeen i pathB).src i).opens = (s.src i).opens ∧ ((s.pathSeen i pathB).src i).closed = (s.src i).closed := by
  unfold State.pathSeen
  split <;> rw [State.src_setSrc_same] <;> exact ⟨rfl, rfl⟩

theorem State.arrives_src (s : State) (i : Nat) : (s.arrives i).src i = s.src i := by
  unfold State.arrives
  rw [State.raise_src _ _ _ _ (by decide), State.p_src]

/-- An accepted packet as such changes no unit. -/
theorem State.srcAccept_units (s : State) (i : Nat) (pathB : Bool) :
    ((s.srcAccept i pathB).src i).opens = (s.src i).opens ∧ ((s.srcAccept i pathB).src i).closed = (s.src i).closed := by
  have hp := s.pathSeen_units i pathB
  rw [State.srcAccept_eq]
  split
  · exact hp
  · split
    · rw [State.src_setSrc_same, State.arrives_src]
      exact hp
    · rw [State.arrives_src]
      exact hp

end Accept

/-! ### The first packet of a frame (R113, R119, R123, R127) -/

section Frame

variable {s : State} {i : Nat}

/-- A frame that begins on an entry without open units is its one open unit, without rows lost or packets. -/
theorem State.frameOpen_first (ts field : Nat) (d : NetDgram) (h : (s.src i).opens = []) :
    ∃ u, ((s.frameOpen i ts field d).src i).opens = [u] ∧ u.ts = ts ∧ u.field = field ∧ u.lost = [] ∧ u.pkts = [] := by
  unfold State.frameOpen
  extract_lets x c r u
  have hr : r.1.src i = s.src i := by
    unfold r
    split
    · exact (State.claim_src _ _ _ _ _).trans (State.inc_src _ _ _)
    · exact (State.inc_src _ _ _).trans (State.inc_src _ _ _)
  refine ⟨u, ?_, rfl, rfl, rfl, rfl⟩
  rw [State.src_setSrc_same]
  dsimp only
  rw [hr, h, List.nil_append]

theorem State.frameOpen_spares {s₀ : State} (h : Spares entryAddr noEntry s₀ s) (i ts field : Nat) (d : NetDgram) :
    Spares entryAddr noEntry s₀ (s.frameOpen i ts field d) := by
  unfold State.frameOpen
  extract_lets x c r u
  have hx : Spares entryAddr noEntry s₀ x := State.p_spares h (Reg.ING.SRC.SEQUENCE i) _ (by unfold entryAddr; dsimp only; omega)
  have hr : Spares entryAddr noEntry s₀ r.1 := by
    unfold r
    split
    · exact State.claim_spares hx _ _ _
    · exact State.p_spares hx (Reg.ING.SRC.RING_DROP i) _ (by unfold entryAddr; dsimp only; omega)
  exact State.setSrc_unit_spares hr _ _

theorem State.frameOpen_sequence (hi : i < 512) (ts field : Nat) (d : NetDgram) :
    (s.frameOpen i ts field d).g (Reg.ING.SRC.SEQUENCE i) = (s.g (Reg.ING.SRC.SEQUENCE i) + 1) % 2 ^ 32 := by
  unfold State.frameOpen
  extract_lets x c r u
  have hr : r.1.g (Reg.ING.SRC.SEQUENCE i) = x.g (Reg.ING.SRC.SEQUENCE i) := by
    unfold r
    split
    · exact State.claim_g _ _ _ _ (by dsimp only; omega)
    · exact State.g_inc_apart _ (.inl (by dsimp only; omega))
  rw [State.setSrc_g, hr, State.g_inc_same _ _ (by dsimp only; omega)]

/-- Entry `i` has one open unit, of which no row is declared lost. -/
def State.oneWhole (s : State) (i : Nat) : Prop := ∃ u, (s.src i).opens = [u] ∧ u.lost = []

theorem State.markRows_src (s : State) (i : Nat) (u : OpenUnit) (k : Nat) : (s.markRows i u).src k = s.src k := by
  unfold State.markRows
  split <;> rfl

theorem State.writePixels_src (s : State) {m : Nat} (hm : m < 64) (qos : Nat) (p : Pic) (x y : Nat) (vs : List Sample) (i : Nat) :
    (s.writePixels m qos p x y vs).1.src i = s.src i :=
  (State.writePixels_spares (A := fun _ => False) (I := fun _ => True) (fun _ => False.elim) (Spares.refl _ _ s) hm qos p x y vs).src i trivial

theorem State.histStore_src (s : State) (i n : Nat) (payload : List Byte) : (s.histStore i n payload).src i = s.src i := by
  unfold State.histStore
  split
  · exact (State.dmaWrite_spares (A := fun _ => False) (I := fun _ => True) (fun _ => False.elim) (Spares.refl _ _ s) (s.seMaster_lt i) _ _ _).src
      i trivial
  · rfl

/-- A row segment written to a whole unit is not late, and leaves it whole. -/
theorem State.srdWrite_whole (h : s.oneWhole i) (x : Srd) : (s.srdWrite i 0 x).1.oneWhole i ∧ (s.srdWrite i 0 x).2 = false := by
  obtain ⟨u, hu, hlost⟩ := h
  have h0 : (s.src i).opens[0]? = some u := by rw [hu]; rfl
  have hnot : ¬ u.lost.contains x.row = true := by simp [hlost]
  unfold State.srdWrite
  rw [h0]
  dsimp -zeta only
  rw [if_neg hnot]
  extract_lets y u'
  have hy : y.src i = s.src i := by
    unfold y
    split
    · exact State.writePixels_src _ (s.seMaster_lt i) _ _ _ _ _ _
    · rfl
  refine ⟨⟨u', ?_, hlost⟩, rfl⟩
  rw [State.markRows_src, State.setUnit, State.src_setSrc_same]
  dsimp only
  rw [hy, hu]
  rfl

/-- The row segments of a packet written to a whole unit: none is late. -/
theorem State.srdsWrite_whole (h : s.oneWhole i) (xs : List Srd) :
    (xs.foldl (fun (a : State × Bool) x => ((a.1.srdWrite i 0 x).1, a.2 || (a.1.srdWrite i 0 x).2)) (s, false)).2 = false := by
  have hall : ∀ p : State × Bool, p.1.oneWhole i ∧ p.2 = false →
      (xs.foldl (fun (a : State × Bool) x => ((a.1.srdWrite i 0 x).1, a.2 || (a.1.srdWrite i 0 x).2)) p).1.oneWhole i ∧
      (xs.foldl (fun (a : State × Bool) x => ((a.1.srdWrite i 0 x).1, a.2 || (a.1.srdWrite i 0 x).2)) p).2 = false := by
    induction xs with
    | nil => exact fun _ hp => hp
    | cons x xs ih =>
      intro p hp
      obtain ⟨hw, hl⟩ := State.srdWrite_whole hp.1 x
      exact ih _ ⟨hw, Bool.or_eq_false_iff.2 ⟨hp.2, hl⟩⟩
  exact (hall (s, false) ⟨h, rfl⟩).2

end Frame

section Video

variable {s : State} {i : Nat}

/-- An entry's units that no packet has ended. -/
theorem endEarlier_nil (ts : Nat) (pathB : Bool) : endEarlier ts pathB [] = [] := rfl

theorem State.unitAt_none {ts field : Nat} (h : (s.src i).opens = []) : s.unitAt i ts field = none := by
  unfold State.unitAt
  rw [h]
  rfl

theorem State.unitAt_first {ts field : Nat} {u : OpenUnit} (h : (s.src i).opens = [u]) (ht : u.ts = ts) (hf : u.field = field) :
    s.unitAt i ts field = some 0 := by
  unfold State.unitAt
  rw [h]
  simp [ht, hf]

/-- The first packet of a frame on an entry without open units, not late: the frame begins, its segments are written, the packet
counts, and frames are brought up to date. -/
theorem State.videoPacket_first (d : NetDgram) (r : Rtp) (srds : List Srd) (ho : (s.src i).opens = [])
    (hl : (s.src i).isLate r.ts (((srds.head?).map (fun x => x.field)).getD 0 % (if s.gb (Reg.ING.SRC.INTERLACED i) then 2 else 1)) = false) :
    ∃ b c y, Spares (offWord i) noEntry (s.srcAccept i d.pathB) b ∧ b.g (Reg.ING.SRC.STATE i) = 2 ∧
      c = b.frameOpen i r.ts
        (((srds.head?).map (fun x => x.field)).getD 0 % (if s.gb (Reg.ING.SRC.INTERLACED i) then 2 else 1)) d ∧
      Spares unitAddr noEntry c y ∧
      s.videoPacket i d r srds = (y.inc (Reg.ING.SRC.PKTS i)).framesStep i 0 (((y.inc (Reg.ING.SRC.PKTS i)).src i).opens.length + 1) := by
  unfold State.videoPacket
  extract_lets n field a e b c top t
  obtain ⟨hopens, hclosed⟩ := s.srcAccept_units i d.pathB
  have hb : b.src i = { e with opens := [] } := by
    have hnil : endEarlier r.ts d.pathB (a.src i).opens = [] := by rw [hopens, ho, endEarlier_nil]
    rw [State.src_setSrc_same, hnil]
  have hbo : (b.src i).opens = [] := by rw [hb]
  have hlate : ¬ (b.src i).isLate r.ts field = true := by
    have hcl : (b.src i).closed = (s.src i).closed := by rw [hb]; exact hclosed
    unfold SrcState.isLate at hl ⊢
    rw [hcl, hl]
    exact Bool.false_ne_true
  have hc : c = b.frameOpen i r.ts field d := by
    unfold c
    rw [State.unitAt_none hbo]
    exact if_neg hlate
  obtain ⟨u, hu, hts, hfield, hlost, hpkts⟩ := State.frameOpen_first (s := b) r.ts field d hbo
  rw [← hc] at hu
  have h0 : (c.src i).opens[0]? = some u := by rw [hu]; rfl
  have ht : ∃ y, Spares unitAddr noEntry c y ∧ t = y.inc (Reg.ING.SRC.PKTS i) := by
    unfold t
    rw [State.unitAt_first hu hts hfield]
    dsimp -zeta only
    rw [h0]
    dsimp -zeta only
    extract_lets u₁ u₂ x w
    have hp₁ : u₁.pkts = u.pkts ∧ u₁.lost = u.lost := by unfold u₁; split <;> exact ⟨rfl, rfl⟩
    have hnew : ¬ u₂.pkts.any (fun p => p.1 == n) = true := by
      have : u₂.pkts = [] := hp₁.1.trans hpkts
      simp [this]
    have hx : Spares unitAddr noEntry c x := State.histStore_spares (fun _ => id) (State.setUnit_spares (Spares.refl _ _ _) _ _ _) _ _ _
    have hwhole : x.oneWhole i := by
      refine ⟨{ u₂ with pkts := (n, []) :: u₂.pkts }, ?_, hp₁.2.trans hlost⟩
      rw [State.histStore_src, State.setUnit, State.src_setSrc_same]
      dsimp only
      rw [hu]
      rfl
    have hw : w.2 = false := State.srdsWrite_whole hwhole srds
    have hsp : Spares unitAddr noEntry c w.1 :=
      List.foldlRecOn (motive := fun p : State × Bool => Spares unitAddr noEntry c p.1) srds _ hx
        fun p hp z _ => State.srdWrite_spares (fun _ => id) hp i 0 z
    refine ⟨w.1, hsp, ?_⟩
    rw [if_neg hnew, hw]
    rfl
  obtain ⟨y, hy, hty⟩ := ht
  refine ⟨b, c, y, State.setSrc_unit_spares (Spares.refl _ _ _) _ _, ?_, hc, hy, by rw [hty]⟩
  unfold b
  rw [State.setSrc_g, State.srcAccept_state]

/-- What the first packet of a frame counts. -/
theorem State.videoPacket_first_counts (hi : i < 512) (d : NetDgram) (r : Rtp) (srds : List Srd) (ho : (s.src i).opens = [])
    (hl : (s.src i).isLate r.ts (((srds.head?).map (fun x => x.field)).getD 0 % (if s.gb (Reg.ING.SRC.INTERLACED i) then 2 else 1)) = false) :
    (s.videoPacket i d r srds).g (Reg.ING.SRC.SEQUENCE i) = (s.g (Reg.ING.SRC.SEQUENCE i) + 1) % 2 ^ 32 ∧
    (s.videoPacket i d r srds).g (Reg.ING.SRC.PKTS i) = (s.g (Reg.ING.SRC.PKTS i) + 1) % 2 ^ 32 ∧
    (s.videoPacket i d r srds).g (Reg.ING.SRC.STATE i) = 2 ∧ (s.videoPacket i d r srds).net = s.net := by
  obtain ⟨b, c, y, hb, hstate, hc, hy, he⟩ := State.videoPacket_first d r srds ho hl
  have hbs := (State.srcAccept_spares (Spares.refl (offWord i) noEntry s) d.pathB).trans hb
  have hbc : Spares entryAddr noEntry b c := hc ▸ State.frameOpen_spares (Spares.refl _ _ _) _ _ _ _
  have hseq : c.g (Reg.ING.SRC.SEQUENCE i) = (s.g (Reg.ING.SRC.SEQUENCE i) + 1) % 2 ^ 32 := by
    rw [hc, State.frameOpen_sequence hi, hbs.g (by unfold offWord; dsimp only; omega)]
  have hstep := State.framesStep_spares (A := unitAddr) (fun _ => id) (Spares.refl _ _ (y.inc (Reg.ING.SRC.PKTS i))) i 0
    (((y.inc (Reg.ING.SRC.PKTS i)).src i).opens.length + 1)
  rw [he]
  generalize (y.inc (Reg.ING.SRC.PKTS i)).framesStep i 0 _ = t at *
  refine ⟨?_, ?_, ?_, ?_⟩
  · rw [hstep.g (by unfold unitAddr; dsimp only; omega), State.g_inc_apart _ (.inl (by dsimp only; omega)),
      hy.g (by unfold unitAddr; dsimp only; omega), hseq]
  · rw [hstep.g (by unfold unitAddr; dsimp only; omega), State.g_inc_same _ _ (by dsimp only; omega),
      hy.g (by unfold unitAddr; dsimp only; omega), hbc.g (by unfold entryAddr; dsimp only; omega),
      hbs.g (by unfold offWord; dsimp only; omega)]
  · rw [hstep.g (by unfold unitAddr; dsimp only; omega), State.g_inc_apart _ (.inl (by dsimp only; omega)),
      hy.g (by unfold unitAddr; dsimp only; omega), hbc.g (by unfold entryAddr; dsimp only; omega), hstate]
  · rw [hstep.net, State.inc_net, hy.net, hbc.net, hbs.net]

end Video

/-! ### Sender reports (R121) -/

theorem leNat_lt (bs : List Byte) : leNat bs < 256 ^ bs.length := by
  induction bs with
  | nil => decide
  | cons b bs ih =>
    have hb := b.isLt
    rw [leNat, List.length_cons, Nat.pow_succ]
    omega

theorem beAt_lt (bs : List Byte) (k n : Nat) : beAt bs k n < 256 ^ n := by
  refine (leNat_lt _).trans_le (Nat.pow_le_pow_right (by decide) ?_)
  rw [List.length_reverse]
  exact List.length_take_le _ _

/-- The low bits of an integer differ from it by a multiple. -/
theorem unsigned32_congr (z : Int) : ((unsigned 32 z : Nat) - z) % 2 ^ 32 = 0 := by
  unfold unsigned
  omega

theorem unsigned32_lt (z : Int) : unsigned 32 z < 2 ^ 32 := by
  unfold unsigned
  omega

/-- What a sender report sets of its entry. -/
theorem senderReport_sets {s : State} {i : Nat} {bs : List Byte} (hv : beAt bs 0 1 / 64 = 2) (hp : beAt bs 1 1 = 200) (hl : 28 ≤ bs.length) :
    (s.senderReport i bs).gb (Reg.ING.SRC.SR_VALID i) = true ∧
    (s.senderReport i bs).g (Reg.ING.SRC.SR_RTP i) = beAt bs 16 4 ∧
    (s.senderReport i bs).g (Reg.ING.SRC.SR_NS i) = beAt bs 12 4 * 1000000000 / 2 ^ 32 ∧
    (s.senderReport i bs).g (Reg.ING.SRC.SR_SEC_LO i) = unsigned 32 ((beAt bs 8 4 : Int) - 2208988800 + s.g Reg.ING.CTRL.TAI_UTC) ∧
    ((s.senderReport i bs).src i).srAt = s.clock ∧ (s.senderReport i bs).net = s.net := by
  have hns : beAt bs 12 4 * 1000000000 / 2 ^ 32 < 2 ^ 30 := by have := beAt_lt bs 12 4; omega
  unfold State.senderReport
  rw [if_pos ⟨hv, hp, hl⟩]
  extract_lets sec ns x y
  refine ⟨?_, ?_, ?_, ?_, ?_, by simp [y, x]⟩
  · rw [State.setSrc_gb]
    exact State.gb_pb_val _ _ _ ⟨by dsimp only; omega, rfl⟩
  · rw [State.setSrc_g]
    unfold y x
    simp (disch := (dsimp only; omega)) only [State.g_p_other, State.g_pb_other]
    exact State.g_p_val _ _ _ ⟨by dsimp only; omega, beAt_lt bs 16 4⟩
  · rw [State.setSrc_g]
    unfold y x
    simp (disch := (dsimp only; omega)) only [State.g_p_other, State.g_pb_other]
    exact State.g_p_val _ _ _ ⟨by dsimp only; omega, hns⟩
  · rw [State.setSrc_g]
    unfold y x
    simp (disch := (dsimp only; omega)) only [State.g_p_other, State.g_pb_other]
    exact State.g_p_val _ _ _ ⟨by dsimp only; omega, unsigned32_lt sec⟩
  · rw [State.src_setSrc_same]
    simp [y, x]

/-! ### What the datagrams count -/

section Counts

variable {s : State} {d : NetDgram} (hi : d.entry < 512)
include hi

/-- A DISCARD entry counts its datagram in DISCARDED and receives. -/
theorem takeDgram_discard_counts (ht : s.g (Reg.ING.SRC.TYPE d.entry) = 7) :
    (s.takeDgram d).g (Reg.ING.SRC.DISCARDED d.entry) = (s.g (Reg.ING.SRC.DISCARDED d.entry) + 1) % 2 ^ 32 ∧
    (s.takeDgram d).g (Reg.ING.SRC.STATE d.entry) = 2 ∧ (s.takeDgram d).net = s.net := by
  have ha := State.srcAccept_spares (Spares.refl (offWord d.entry) noEntry s) d.pathB
  rw [takeDgram_discard ht]
  refine ⟨?_, ?_, ?_⟩
  · rw [State.g_inc_same _ _ (by dsimp only; omega), ha.g (by unfold offWord; dsimp only; omega)]
  · rw [State.g_inc_apart _ (.inl (by dsimp only; omega)), State.srcAccept_state]
  · rw [State.inc_net, ha.net]

omit hi in
/-- A datagram counted BAD changes nothing else. -/
theorem State.inc_bad_counts (i : Nat) : (s.inc (Reg.ING.SRC.BAD i)).g (Reg.ING.SRC.BAD i) = (s.g (Reg.ING.SRC.BAD i) + 1) % 2 ^ 32 ∧
    (s.inc (Reg.ING.SRC.BAD i)).g (Reg.ING.SRC.STATE i) = s.g (Reg.ING.SRC.STATE i) ∧
    (s.inc (Reg.ING.SRC.BAD i)).g (Reg.ING.SRC.PKTS i) = s.g (Reg.ING.SRC.PKTS i) :=
  ⟨State.g_inc_same _ _ (by dsimp only; omega), State.g_inc_apart _ (.inl (by dsimp only; omega)),
    State.g_inc_apart _ (.inl (by dsimp only; omega))⟩

/-- A datagram of transport packets counts in PKTS and its entry receives. -/
theorem takeDgram_transport_counts (ht : s.g (Reg.ING.SRC.TYPE d.entry) = 4) (hr : s.gb (Reg.ING.SRC.TS_RTP d.entry) = false)
    (hg : tsGood d.data = true) :
    (s.takeDgram d).g (Reg.ING.SRC.PKTS d.entry) = (s.g (Reg.ING.SRC.PKTS d.entry) + 1) % 2 ^ 32 ∧
    (s.takeDgram d).g (Reg.ING.SRC.STATE d.entry) = 2 ∧
    (s.takeDgram d).g (Reg.ING.SRC.BAD d.entry) = s.g (Reg.ING.SRC.BAD d.entry) ∧ (s.takeDgram d).net = s.net := by
  have ha := State.srcAccept_spares (Spares.refl (offWord d.entry) noEntry s) d.pathB
  rw [takeDgram_transport ht hr hg]
  generalize hx : (s.srcAccept d.entry d.pathB).inc (Reg.ING.SRC.PKTS d.entry) = x
  have hp := State.tsPackets_spares (Spares.refl entryAddr noEntry x) d.entry 0 d.wall d.count false d.data
  refine ⟨?_, ?_, ?_, ?_⟩
  · rw [hp.g (by unfold entryAddr; dsimp only; omega), ← hx, State.g_inc_same _ _ (by dsimp only; omega),
      ha.g (by unfold offWord; dsimp only; omega)]
  · rw [hp.g (by unfold entryAddr; dsimp only; omega), ← hx, State.g_inc_apart _ (.inl (by dsimp only; omega)), State.srcAccept_state]
  · rw [hp.g (by unfold entryAddr; dsimp only; omega), ← hx, State.g_inc_apart _ (.inl (by dsimp only; omega)),
      ha.g (by unfold offWord; dsimp only; omega)]
  · rw [hp.net, ← hx, State.inc_net, ha.net]

end Counts

/-- Settles O23, by what a stream engine makes of its next datagram, way by way; a sender report is taken of any SSRC and for any entry
(log entries 32, 46 and 48). -/
theorem mediaPackets : Obligations.MediaPackets := by
  refine ⟨fun dt e d s h hi hr ht => ?_, fun dt e d s h hi hr ht hn => ?_, fun dt e d r s h hi hr ht hn hf => ?_,
    fun dt e d s h hi hr ht hp hg => ?_, fun dt e d r x s h hi hr ht hn hf hx ho hl => ?_, fun dt e d s h hi hr hv hp hl => ?_⟩
  · obtain ⟨hcount, hstate, hnet⟩ := takeDgram_discard_counts (s := (s.advance dt).dgramTaken e d) hi (by simpa using ht)
    exact ⟨_, congrArg Host.Outcome.next (mediaPacket_takes dt h hr), hcount.trans (by simp), hstate, by rw [hnet]; simp⟩
  · obtain ⟨hbad, hstate, hpkts⟩ := State.inc_bad_counts (s := (s.advance dt).dgramTaken e d) d.entry
    have hway := (mediaPacket_takes dt h hr).trans (takeDgram_noRtp (by simpa using ht) hn)
    exact ⟨_, congrArg Host.Outcome.next hway, hbad.trans (by simp), hstate.trans (by simp), hpkts.trans (by simp), by simp,
      State.byte_congr (by simp)⟩
  · obtain ⟨hbad, hstate, hpkts⟩ := State.inc_bad_counts (s := (s.advance dt).dgramTaken e d) d.entry
    have hway := (mediaPacket_takes dt h hr).trans (takeDgram_unfit (by simpa using ht) hn (by simpa using hf))
    exact ⟨_, congrArg Host.Outcome.next hway, hbad.trans (by simp), hstate.trans (by simp), by simp, State.byte_congr (by simp)⟩
  · obtain ⟨hpkts, hstate, hbad, hnet⟩ := takeDgram_transport_counts (s := (s.advance dt).dgramTaken e d) hi (by simpa using ht)
      (by simpa using hp) hg
    exact ⟨_, congrArg Host.Outcome.next (mediaPacket_takes dt h hr), hpkts.trans (by simp), hstate, hbad.trans (by simp),
      by rw [hnet]; simp⟩
  · obtain ⟨hseq, hpkts, hstate, hnet⟩ := State.videoPacket_first_counts (s := (s.advance dt).dgramTaken e d) hi d r x (by simpa using ho)
      (by simpa using hl)
    have hway := (mediaPacket_takes dt h hr).trans (takeDgram_video (by simpa using ht) hn (by simpa using hf) (by simpa using hx))
    exact ⟨_, congrArg Host.Outcome.next hway, hseq.trans (by simp), hpkts.trans (by simp), hstate, by rw [hnet]; simp⟩
  · obtain ⟨hvalid, hrtp, hns, hsec, hat, hnet⟩ := senderReport_sets (s := (s.advance dt).dgramTaken e d) (i := d.entry) hv hp hl
    refine ⟨_, congrArg Host.Outcome.next (rtcpPacket_takes dt h hr), hvalid, hrtp, hns, ?_, hat.trans (by simp), by rw [hnet]; simp⟩
    rw [hsec, State.dgramTaken_g, State.advance_g]
    exact unsigned32_congr _

end Sys2Proof.Machine
end

section
/-! PROOF. Source entries that fall silent or are switched off: LOST, a path no longer up, a sender report no longer valid, and what
an entry that stops leaves (R108, R121, R126, R129). -/

-- One lemma after the other: elaborated side by side, they take more threads than the memory of the check holds.
set_option Elab.async false

namespace Sys2Proof.Machine

/-! ### Silence (R121, R126, R129) -/

@[simp] theorem State.advance_lastPacket (s : State) (dt i : Nat) : (s.advance dt).lastPacket i = s.lastPacket i := by
  simp [State.lastPacket]

@[simp] theorem State.advance_isNet (s : State) (dt i : Nat) : (s.advance dt).isNet i = s.isNet i := by
  simp [State.isNet]

/-- The open frames of a silent entry close, the missing rows of each filled. -/
def State.framesFill (s : State) (i n : Nat) : State :=
  (List.range n).foldl (fun s _ => (s.loseRows i 0 (s.bufH i)).frameClose i 0) s

theorem State.framesFill_spares (s : State) (i n : Nat) : Spares unitAddr noEntry s (s.framesFill i n) :=
  .fold (Spares.refl _ _ s) fun _ _ _ hs => State.frameClose_spares (fun _ => id) (State.loseRows_spares (fun _ => id) hs _ _ _) _ _

section Lost

variable {s : State} {i : Nat}

theorem sourceLost_due (hc : s.coreOn = true) (hn : s.isNet i = true) (he : s.gb (Reg.ING.SRC.ENABLE i) = true)
    (hs : s.g (Reg.ING.SRC.STATE i) = 2) (hd : s.lastPacket i + 1000000 * s.g Reg.ING.CTRL.LOST_MS ≤ s.clock) :
    sourceLost i s = ((if s.g (Reg.ING.SRC.TYPE i) = 1 then s.framesFill i (s.src i).opens.length else s).p
      (Reg.ING.SRC.STATE i) 3).raise Ev.srcLost i := by
  unfold sourceLost
  extract_lets t n x
  exact if_pos (by simp [hc, hn, he, hs, hd])

theorem sourceLost_early (hd : s.clock < s.lastPacket i + 1000000 * s.g Reg.ING.CTRL.LOST_MS) : sourceLost i s = s := by
  unfold sourceLost
  extract_lets t n x
  exact if_neg (by simp [Nat.not_le.2 hd])

/-- A silent entry is LOST, and its event stands. -/
theorem sourceLost_lost (hc : s.coreOn = true) (hn : s.isNet i = true) (he : s.gb (Reg.ING.SRC.ENABLE i) = true)
    (hs : s.g (Reg.ING.SRC.STATE i) = 2) (hd : s.lastPacket i + 1000000 * s.g Reg.ING.CTRL.LOST_MS ≤ s.clock) :
    (sourceLost i s).g (Reg.ING.SRC.STATE i) = 3 ∧ (sourceLost i s).evStatus Ev.srcLost = true := by
  rw [sourceLost_due hc hn he hs hd]
  generalize hx : (if s.g (Reg.ING.SRC.TYPE i) = 1 then s.framesFill i (s.src i).opens.length else s) = x
  have hcx : x.coreOn = true := by
    rw [← hx]
    split
    · rw [(s.framesFill_spares i _).coreOn, hc]
    · exact hc
  refine ⟨?_, State.raise_stands _ _ _ (by decide) hcx⟩
  rw [State.raise_g _ _ _ (by decide) (.inr (.inr (by dsimp only; omega))), State.g_p_same _ _ _ (by dsimp only; omega)]
  rfl

end Lost

section Paths

variable {s : State} {i c : Nat}

/-- A path that expires is not up; what closes then leaves the first word of the entry. -/
theorem pathExpire_spares {pathB : Bool} (hc : s.coreOn = true) (he : s.gb (Reg.ING.SRC.ENABLE i) = true)
    (hdual : s.gb (Reg.ING.SRC.DUAL i) = true) (hat : (if pathB then (s.src i).atB else (s.src i).atA) = some c)
    (hd : c + 1000000 * s.g (Reg.ING.SRC.PATH_WINDOW_MS i) ≤ s.clock) :
    Spares entryAddr noEntry
      (if pathB then s.pb (Reg.ING.SRC.PATH_B_UP i) false else s.pb (Reg.ING.SRC.PATH_A_UP i) false) (pathExpire i pathB s) := by
  have hA : ∀ a, entryAddr a → unitAddr a := fun _ => unitAddr_of_entryAddr
  unfold pathExpire
  extract_lets last win x n
  have hlast : last = some c := hat
  rw [hlast]
  dsimp -zeta only
  have hdue : (s.coreOn && s.gb (Reg.ING.SRC.ENABLE i) && s.gb (Reg.ING.SRC.DUAL i) && decide (c + win ≤ s.clock)) = true := by
    simp [hc, he, hdual, win, hd]
  rw [if_pos hdue]
  refine .ite (Spares.refl _ _ x) (.ite ?_ (.ite ?_ ?_))
  · exact State.framesStep_spares hA (Spares.refl _ _ x) i 0 n
  · exact State.tsDrain_spares (Spares.refl _ _ x) i _
  · exact State.ausStep_spares hA (Spares.refl _ _ x) i n

theorem pathExpire_b (hc : s.coreOn = true) (he : s.gb (Reg.ING.SRC.ENABLE i) = true) (hi : i < 512)
    (hdual : s.gb (Reg.ING.SRC.DUAL i) = true) (hat : (s.src i).atB = some c)
    (hd : c + 1000000 * s.g (Reg.ING.SRC.PATH_WINDOW_MS i) ≤ s.clock) :
    (pathExpire i true s).gb (Reg.ING.SRC.PATH_B_UP i) = false ∧
      (pathExpire i true s).gb (Reg.ING.SRC.PATH_A_UP i) = s.gb (Reg.ING.SRC.PATH_A_UP i) := by
  have h := pathExpire_spares (pathB := true) hc he hdual hat hd
  rw [if_pos rfl] at h
  rw [h.gb (by unfold entryAddr; dsimp only; omega), h.gb (by unfold entryAddr; dsimp only; omega)]
  exact ⟨State.gb_pb_val _ _ _ (by dsimp only; omega), State.gb_pb_other _ _ _ _ (.inr (by dsimp only; omega))⟩

theorem pathExpire_a (hc : s.coreOn = true) (he : s.gb (Reg.ING.SRC.ENABLE i) = true) (hi : i < 512)
    (hdual : s.gb (Reg.ING.SRC.DUAL i) = true) (hat : (s.src i).atA = some c)
    (hd : c + 1000000 * s.g (Reg.ING.SRC.PATH_WINDOW_MS i) ≤ s.clock) :
    (pathExpire i false s).gb (Reg.ING.SRC.PATH_A_UP i) = false ∧
      (pathExpire i false s).gb (Reg.ING.SRC.PATH_B_UP i) = s.gb (Reg.ING.SRC.PATH_B_UP i) := by
  have h := pathExpire_spares (pathB := false) hc he hdual hat hd
  rw [if_neg Bool.false_ne_true] at h
  rw [h.gb (by unfold entryAddr; dsimp only; omega), h.gb (by unfold entryAddr; dsimp only; omega)]
  exact ⟨State.gb_pb_val _ _ _ (by dsimp only; omega), State.gb_pb_other _ _ _ _ (.inr (by dsimp only; omega))⟩

theorem srTimeout_due (hc : s.coreOn = true)
    (hd : (s.src i).srAt + 1000000000 * s.g Reg.ING.CTRL2.SR_TIMEOUT_S ≤ s.clock) :
    srTimeout i s = s.pb (Reg.ING.SRC.SR_VALID i) false :=
  if_pos (by simp [hc, hd])

end Paths

/-! ### An entry stops (R108, R154) -/

/-- A register of the ingest unit below those of the buffers. -/
def ingestAddr (a : Nat) : Prop := 0x10100000 ≤ a ∧ a < 0x10140000

section Stops

variable {s₀ s : State}

theorem State.p_ingest_spares (h : Spares ingestAddr noEntry s₀ s) (f : FRef) (v : Nat) (hf : 0x10140000 ≤ f.addr := by
    dsimp only; omega) : Spares ingestAddr noEntry s₀ (s.p f v) :=
  State.p_spares h f v fun ha => absurd ha.2 (by omega)

theorem State.unclaim_spares (h : Spares ingestAddr noEntry s₀ s) (b : Nat) : Spares ingestAddr noEntry s₀ (s.unclaim b) := by
  unfold State.unclaim
  extract_lets p
  have hfree : Spares ingestAddr noEntry s₀ (s.p (Reg.ING.BUF.STATE b) Bs.free) := State.p_ingest_spares h _ _
  exact .ite hfree.same h

theorem State.srcDrop_spares (h : Spares ingestAddr noEntry s₀ s) (i : Nat) : Spares ingestAddr noEntry s₀ (s.srcDrop i) := by
  unfold State.srcDrop
  extract_lets x
  have hx : Spares ingestAddr noEntry s₀ x := by
    refine .fold h fun y u _ hy => ?_
    split
    · exact State.unclaim_spares hy _
    · exact hy
  exact State.setSrc_unit_spares hx i _

theorem State.decStop_spares (h : Spares ingestAddr noEntry s₀ s) (i : Nat) : Spares ingestAddr noEntry s₀ (s.decStop i) := by
  unfold State.decStop
  extract_lets x
  have hx : Spares ingestAddr noEntry s₀ x := .fold h fun _ _ _ hy => hy.same
  exact State.p_ingest_spares (hx.same (t := x.setDctx i DecCtx.reset)) (Reg.DEC.CTX.STATE i) 0

/-- An entry that stops is OFF. -/
theorem State.srcStop_off (s : State) {i : Nat} (hi : i < 512) :
    (s.srcStop i).gb (Reg.ING.SRC.ENABLE i) = false ∧ (s.srcStop i).g (Reg.ING.SRC.STATE i) = 0 := by
  unfold State.srcStop
  extract_lets x mine y z w off down
  have hdown : Spares ingestAddr noEntry ((off.pb (Reg.ING.SRC.PATH_A_UP i) false).pb (Reg.ING.SRC.PATH_B_UP i) false) down := by
    unfold down
    exact State.srcDrop_spares (Spares.refl _ _ _) i
  have hend := Spares.fold (l := (down.ring i).filter (fun b => down.g (Reg.ING.BUF.SOURCE b) == i)) hdown
    fun _ b _ hs => State.unclaim_spares hs b
  rw [hend.gb (by unfold ingestAddr; dsimp only; omega), hend.g (by unfold ingestAddr; dsimp only; omega)]
  unfold off
  constructor
  · simp (disch := (dsimp only; omega)) only [State.gb_p_other, State.gb_pb_other, State.gb_pb_val]
  · simp (disch := (dsimp only; omega)) only [State.g_pb_other, State.g_p_same]
    rfl

theorem State.entryStop_off (s : State) {i : Nat} (hi : i < 512) :
    (s.entryStop i).gb (Reg.ING.SRC.ENABLE i) = false ∧ (s.entryStop i).g (Reg.ING.SRC.STATE i) = 0 := by
  unfold State.entryStop
  extract_lets x t
  obtain ⟨hoff, hstate⟩ := x.srcStop_off hi
  split
  · have h := State.decStop_spares (Spares.refl _ _ t) i
    rw [h.gb (by unfold ingestAddr; dsimp only; omega), h.g (by unfold ingestAddr; dsimp only; omega)]
    exact ⟨hoff, hstate⟩
  · exact ⟨hoff, hstate⟩

end Stops

end Sys2Proof.Machine
end

section
/-! PROOF. Enabling a source entry: a write of its first word that sets ENABLE leaves every register until the checks have run, which
read registers alone; an entry that passes them starts, one that fails is reported (R107, R129). -/

-- One lemma after the other: elaborated side by side, they take more threads than the memory of the check holds.
set_option Elab.async false

namespace Sys2Proof.Machine

/-! ### A field written with what it holds -/

/-- A field set to what it holds leaves the word. -/
theorem fieldSet_fieldGet (w : Word) (lo width : Nat) : fieldSet w lo width (fieldGet w lo width) = w := by
  refine BitVec.eq_of_toNat_eq (Nat.eq_of_testBit_eq fun j => ?_)
  rw [fieldSet_testBit]
  split
  · next hj =>
    have hlt : j - lo < width := by omega
    rw [fieldGet_testBit, Nat.add_sub_cancel' hj.1, decide_eq_true hlt, Bool.true_and]
    by_cases h32 : j < 32
    · rw [decide_eq_true h32, Bool.true_and]
    · rw [decide_eq_false h32, Bool.false_and, Nat.testBit_lt_two_pow (lt_of_lt_of_le w.isLt (Nat.pow_le_pow_right (by decide) (not_lt.1 h32)))]
  · rfl

/-- A field within the low `n` bits of a word. -/
theorem fieldGet_and_low (w mask : Word) {n lo width : Nat} (hm : mask.toNat = 2 ^ n - 1) (h : lo + width ≤ n) :
    fieldGet (w &&& mask) lo width = fieldGet w lo width := by
  refine Nat.eq_of_testBit_eq fun i => ?_
  rw [fieldGet_testBit, fieldGet_testBit, BitVec.toNat_and, Nat.testBit_and, hm, Nat.testBit_two_pow_sub_one]
  by_cases hi : i < width
  · simp [show lo + i < n by omega]
  · simp [hi]

/-- Whether writing `v` to the field leaves a word `w`: it takes no value, or the one it holds. -/
def RegField.holds (f : RegField) (v w : Word) : Prop :=
  f.acc ≠ .w1c ∧ (f.acc = .rw ∨ f.acc = .rwk → fieldGet v f.lo f.width = fieldGet w f.lo f.width)

theorem takeField_holds (isOpen : Bool) {v : Word} {t : Taken} {f : RegField} (h : f.holds v t.word) :
    (takeField isOpen v t f).word = t.word := by
  obtain ⟨hclear, hval⟩ := h
  have hset (hacc : f.acc = .rw ∨ f.acc = .rwk) : fieldSet t.word f.lo f.width (fieldGet v f.lo f.width) = t.word := by
    rw [hval hacc, fieldSet_fieldGet]
  unfold takeField
  extract_lets x legal
  split
  next hacc =>
    split
    · exact hset (.inl hacc)
    · rfl
  next hacc =>
    split
    · rfl
    · split
      · exact hset (.inr hacc)
      · rfl
  next hacc => exact absurd hacc hclear
  next => rfl

/-- A write of what the fields hold leaves the word. -/
theorem takeFields_holds (isOpen : Bool) {v skip w : Word} {fs : List RegField}
    (h : ∀ f ∈ fs, fieldGet skip f.lo f.width = 0 → f.holds v w) : (takeFields isOpen v skip w fs).word = w := by
  refine List.foldlRecOn (motive := fun t : Taken => t.word = w) _ (takeField isOpen v) rfl fun t ht f hf => ?_
  obtain ⟨hmem, hskip⟩ := List.mem_filter.1 hf
  exact (takeField_holds isOpen (ht.symm ▸ h f hmem (by simpa using hskip))).trans ht

/-- A write of what the fields hold leaves the registers beside the event block, the matrix and the error log. -/
theorem State.writeFields_holds (s : State) (m : Nat) {a : Nat} {v skip : Word} {fs : List RegField} (hf : regFields a = some fs)
    (h : ∀ f ∈ fs, fieldGet skip f.lo f.width = 0 → f.holds v (s.reg a)) {f : FRef} (hq : quietAddr f.addr) :
    (s.writeFields m a v skip).g f = s.g f := by
  unfold State.writeFields
  rw [hf, Option.getD_some]
  extract_lets t
  have ht : t.word = s.reg a := takeFields_holds _ h
  rw [((s.setReg a t.word).logTaken_stays m a v t).1.g hq, ht, State.g, State.reg_setReg_self, State.g]

/-! ### The first word of a source entry (R107) -/

/-- The fields of the first word of a source entry: RO what the entry does, RWK what it is set up as, RW ENABLE. -/
def srcWordFields : List RegField :=
  [fAny 28 1 .ro 0 .s false, fAny 27 1 .ro 0 .s false, fAny 24 3 .ro 0 .s false, fIn 16 6 .rwk 10 .s false 1 40,
    fAny 12 4 .rwk 0 .s false, fAny 11 1 .rwk 0 .s false, fAny 10 1 .rwk 0 .s false, fAny 9 1 .rwk 0 .s false,
    fAny 8 1 .rwk 0 .s false, fAny 4 4 .rwk 0 .s false, fAny 1 3 .rwk 0 .s false, fAny 0 1 .rw 0 .s false]

theorem blockRegs_ing {a : Nat} (h : 0x10100000 ≤ a ∧ a < 0x10180000) : blockRegs a = regsING := by
  unfold blockRegs
  iterate 14 rw [if_neg (by omega)]
  exact if_pos h

/-- A register family without `a` is passed over. -/
theorem find?_has_skip {w : RegWord} {a : Nat} (h : w.has a = false) (ws : List RegWord) :
    (w :: ws).find? (fun w => w.has a) = ws.find? (fun w => w.has a) :=
  List.find?_cons_of_neg (p := fun w : RegWord => w.has a) (by simp [h])

/-- A register that stands alone is no other one. -/
theorem has_single {b a : Nat} (h : b ≠ a) (fs : List RegField) : RegWord.has ⟨b, [], fs⟩ a = false := by
  simp only [RegWord.has, dimsMatch, Bool.and_eq_false_iff, decide_eq_false_iff_not, beq_eq_false_iff_ne]
  omega

theorem regFields_srcWord {i : Nat} (hi : i < 512) : regFields (0x10120000 + 0x100 * i) = some srcWordFields := by
  have hload (fs : List RegField) : RegWord.has ⟨0x10100100, [(0x4, 16)], fs⟩ (0x10120000 + 0x100 * i) = false := by
    simp only [RegWord.has, dimsMatch, Bool.and_eq_false_iff, decide_eq_false_iff_not, beq_eq_false_iff_ne]
    omega
  have hhas : RegWord.has ⟨0x10120000, [(0x100, 512)], srcWordFields⟩ (0x10120000 + 0x100 * i) = true := by
    simp [RegWord.has, dimsMatch, hi]
  unfold regFields
  rw [blockRegs_ing (by omega)]
  simp only [regsING, regsING0, List.cons_append]
  iterate 5 rw [find?_has_skip (has_single (by omega) _)]
  rw [find?_has_skip (hload _)]
  exact congrArg (Option.map RegWord.fields) (List.find?_cons_of_pos (p := fun w : RegWord => w.has (0x10120000 + 0x100 * i)) hhas)

theorem accessMask_srcWord {i : Nat} (hi : i < 512) :
    accessMask .rw (0x10120000 + 0x100 * i) ||| accessMask .rwk (0x10120000 + 0x100 * i) = 0x3FFFFF#32 := by
  unfold accessMask
  rw [regFields_srcWord hi]
  decide

/-- The word that sets ENABLE holds what the other fields hold. -/
theorem State.srcWord_holds (s : State) {i : Nat} (hi : i < 512) (x : Nat) {w : Word} (hw : w = s.reg (0x10120000 + 0x100 * i)) :
    ∀ f ∈ srcWordFields, fieldGet (1 : Word) f.lo f.width = 0 → f.holds (s.fieldWord (Reg.ING.SRC.ENABLE i) x) w := by
  have hkinds : ∀ f ∈ srcWordFields, fieldGet (1 : Word) f.lo f.width = 0 →
      f.acc ≠ .w1c ∧ 1 ≤ f.lo ∧ (f.acc = .rw ∨ f.acc = .rwk → f.lo + f.width ≤ 22) := by decide
  intro f hf hskip
  obtain ⟨hacc, hlo, hin⟩ := hkinds f hf hskip
  refine ⟨hacc, fun htakes => ?_⟩
  unfold State.fieldWord
  rw [accessMask_srcWord hi, fieldGet_fieldSet_ne _ _ (.inl hlo), fieldGet_and_low _ _ (n := 22) (by decide) (hin htakes), hw]

/-! ### The checks read registers alone (R107) -/

section Checks

variable {s t : State} (h : ∀ f : FRef, 0x100B0000 ≤ f.addr → t.g f = s.g f)
include h

theorem State.gb_of_g {f : FRef} (hf : 0x100B0000 ≤ f.addr) : t.gb f = s.gb f := by
  unfold State.gb
  rw [h f hf]

theorem State.isNet_congr (i : Nat) : t.isNet i = s.isNet i := by
  unfold State.isNet
  rw [h _ (by dsimp only; omega)]

theorem State.netEntries_congr (i : Nat) : t.netEntries i = s.netEntries i := by
  unfold State.netEntries
  refine congrArg (fun p => (List.range 512).filter p) (funext fun j => ?_)
  rw [State.gb_of_g h (by dsimp only; omega), State.isNet_congr h]

theorem State.pathKeys_congr (i : Nat) : t.pathKeys i = s.pathKeys i := by
  have hb {f : FRef} (hf : 0x100B0000 ≤ f.addr) : t.gb f = s.gb f := State.gb_of_g h hf
  unfold State.pathKeys
  simp (disch := (dsimp only; omega)) only [h, hb]

theorem State.srcW_congr (i : Nat) : t.srcW i = s.srcW i := by
  unfold State.srcW
  rw [h _ (by dsimp only; omega)]

theorem State.srcH_congr (i : Nat) : t.srcH i = s.srcH i := by
  unfold State.srcH
  rw [h _ (by dsimp only; omega)]

theorem State.ring_congr (i : Nat) : t.ring i = s.ring i := by
  unfold State.ring
  rw [h (Reg.ING.SRC.RING_LEN_M1 i) (by dsimp only; omega)]
  refine congrArg (fun p => (List.range (s.g (Reg.ING.SRC.RING_LEN_M1 i) + 1)).map p) (funext fun k => ?_)
  rw [h (Reg.ING.SRC.BUF_LO i (k / 2)) (by dsimp only; omega), h (Reg.ING.SRC.BUF_HI i (k / 2)) (by dsimp only; omega)]

theorem State.inDram_congr (a n : Nat) : t.inDram a n = s.inDram a n := by
  unfold State.inDram State.dramBytes
  rw [h Reg.DMC.CONFIG.DENSITY (by decide)]

theorem State.ringFits_congr (i b : Nat) : t.ringFits i b = s.ringFits i b := by
  have hb {f : FRef} (hf : 0x100B0000 ≤ f.addr) : t.gb f = s.gb f := State.gb_of_g h hf
  unfold State.ringFits State.bufState State.bufPic State.bufH
  simp (disch := (dsimp only; omega)) only [h, hb, State.srcW_congr h, State.srcH_congr h]

theorem State.bindCheck_congr (i : Nat) : t.bindCheck i = s.bindCheck i := by
  have hb {f : FRef} (hf : 0x100B0000 ≤ f.addr) : t.gb f = s.gb f := State.gb_of_g h hf
  unfold State.bindCheck
  simp (disch := (dsimp only; omega)) only [h, hb, State.srcW_congr h, State.srcH_congr h, State.inDram_congr h, State.ring_congr h,
    State.ringFits_congr h, State.isNet_congr h, State.netEntries_congr h, State.pathKeys_congr h]

end Checks

/-- The checks answer a code of four bits. -/
theorem State.bindCheck_lt (s : State) (i : Nat) : s.bindCheck i < 16 := by
  unfold State.bindCheck
  extract_lets t dual bsLen comp ring net
  split_ifs <;> decide

/-! ### An entry starts (R107, R134, R155) -/

section Starts

variable {s₀ s : State}

theorem State.decClear_spares (h : Spares ingestAddr noEntry s₀ s) (i : Nat) : Spares ingestAddr noEntry s₀ (s.decClear i) := by
  unfold State.decClear
  iterate 6 refine State.p_ingest_spares ?_ _ _
  exact h

theorem State.decStart_spares (h : Spares ingestAddr noEntry s₀ s) (i : Nat) : Spares ingestAddr noEntry s₀ (s.decStart i) := by
  have hctx : Spares ingestAddr noEntry s₀ (s.setDctx i DecCtx.reset) := h.same
  exact State.p_ingest_spares hctx (Reg.DEC.CTX.STATE i) 1

/-- An entry that starts is WAITING with its counters cleared; the unit's own registers stay. -/
theorem State.srcStart_sets (s : State) {i : Nat} (hi : i < 512) :
    ((s.srcStart i).gb (Reg.ING.SRC.ENABLE i) = true ∧ (s.srcStart i).g (Reg.ING.SRC.STATE i) = 1 ∧
      (s.srcStart i).g (Reg.ING.SRC.PKTS i) = 0 ∧ (s.srcStart i).g (Reg.ING.SRC.FRAMES i) = 0) ∧
    (s.srcStart i).g Reg.ING.BIND_RESULT.RESULT = s.g Reg.ING.BIND_RESULT.RESULT ∧
    (s.srcStart i).g Reg.ING.BIND_RESULT.INDEX = s.g Reg.ING.BIND_RESULT.INDEX := by
  unfold State.srcStart
  extract_lets counted framed dropped waiting x y
  have hring : Spares ingestAddr noEntry x ((x.ring i).foldl (fun s b => s.p (Reg.ING.BUF.SOURCE b) i) x) :=
    .fold (Spares.refl _ _ _) fun _ b _ hs => State.p_ingest_spares hs (Reg.ING.BUF.SOURCE b) i
  have hy : Spares ingestAddr noEntry x y := .ite (Spares.refl _ _ _) hring
  simp only [State.setSrc_g, State.setSrc_gb]
  rw [hy.gb (by unfold ingestAddr; dsimp only; omega), hy.g (by unfold ingestAddr; dsimp only; omega),
    hy.g (by unfold ingestAddr; dsimp only; omega), hy.g (by unfold ingestAddr; dsimp only; omega),
    hy.g (by unfold ingestAddr; decide), hy.g (by unfold ingestAddr; decide)]
  unfold x waiting dropped framed counted
  refine ⟨⟨?_, ?_, ?_, ?_⟩, ?_, ?_⟩
  · simp (disch := (dsimp only; omega)) only [State.gb_p_other, State.gb_pb_other, State.gb_pb_val]
  · simp (disch := (dsimp only; omega)) only [State.g_pb_other, State.g_p_same]
    rfl
  · simp (disch := (dsimp only; omega)) only [State.g_pb_other, State.g_p_other, State.g_p_same]
    rfl
  · simp (disch := (dsimp only; omega)) only [State.g_pb_other, State.g_p_other, State.g_p_same]
    rfl
  · simp (disch := (dsimp only; omega)) only [State.g_pb_other, State.g_p_other]
  · simp (disch := (dsimp only; omega)) only [State.g_pb_other, State.g_p_other]

end Starts

/-! ### A write of the first word of an entry (R107, R108) -/

/-- What BIND_RESULT shows of the checks of entry `i`. -/
def State.bindReport (s : State) (i r : Nat) : State :=
  (s.p Reg.ING.BIND_RESULT.INDEX i).p Reg.ING.BIND_RESULT.RESULT r

theorem State.bindReport_shows (s : State) {i r : Nat} (hi : i < 512) (hr : r < 16) :
    (s.bindReport i r).g Reg.ING.BIND_RESULT.RESULT = r ∧ (s.bindReport i r).g Reg.ING.BIND_RESULT.INDEX = i := by
  unfold State.bindReport
  constructor
  · exact (State.g_p_same _ _ _ (by decide)).trans (Nat.mod_eq_of_lt hr)
  · exact (State.g_p_other _ _ _ _ (by decide)).trans ((State.g_p_same _ _ _ (by decide)).trans (Nat.mod_eq_of_lt hi))

section Writes

variable {s : State} {m i : Nat} {v : Word}

theorem srcCtrlWrite_starts (hv : fieldGet v 0 1 = 1) (hoff : s.gb (Reg.ING.SRC.ENABLE i) = false)
    (hpass : (s.writeFields m (Reg.ING.SRC.ENABLE i).addr v 1).bindCheck i = 0) :
    ∃ x : State, x = (((s.writeFields m (Reg.ING.SRC.ENABLE i).addr v 1).bindReport i 0).srcStart i).decClear i ∧
      srcCtrlWrite m i v s = if x.compressed i then x.decStart i else x := by
  refine ⟨_, rfl, ?_⟩
  unfold srcCtrlWrite
  extract_lets a was y r z x
  have hr : r = 0 := hpass
  have hwas : ¬ was = true := by simp [was, hoff]
  rw [if_pos hv, if_neg hwas, if_neg (not_not.2 hr)]
  unfold x z
  rw [hr]
  rfl

theorem srcCtrlWrite_fails (hv : fieldGet v 0 1 = 1) (hoff : s.gb (Reg.ING.SRC.ENABLE i) = false)
    (hfail : (s.writeFields m (Reg.ING.SRC.ENABLE i).addr v 1).bindCheck i ≠ 0) :
    srcCtrlWrite m i v s = ((s.writeFields m (Reg.ING.SRC.ENABLE i).addr v 1).bindReport i
      ((s.writeFields m (Reg.ING.SRC.ENABLE i).addr v 1).bindCheck i)).logIgnored m (Reg.ING.SRC.ENABLE i).addr v := by
  unfold srcCtrlWrite
  extract_lets a was y r z x
  have hwas : ¬ was = true := by simp [was, hoff]
  rw [if_pos hv, if_neg hwas, if_pos hfail]
  rfl

theorem srcCtrlWrite_stops (hv : fieldGet v 0 1 = 0) (hon : s.gb (Reg.ING.SRC.ENABLE i) = true) :
    srcCtrlWrite m i v s = (s.writeFields m (Reg.ING.SRC.ENABLE i).addr v 1).entryStop i := by
  unfold srcCtrlWrite
  extract_lets a was y r z x
  have hne : ¬ fieldGet v 0 1 = 1 := by rw [hv]; decide
  rw [if_neg hne]
  exact if_pos hon

end Writes

/-- The write that sets ENABLE leaves the registers above the event block, ENABLE with them. -/
theorem State.enableWrite_g (s : State) (dt m : Nat) {i : Nat} (hi : i < 512) (x : Nat) (f : FRef) (hf : 0x100B0000 ≤ f.addr) :
    ((((s.advance dt).ctlServed m).respond false []).writeFields m (Reg.ING.SRC.ENABLE i).addr
      ((s.advance dt).fieldWord (Reg.ING.SRC.ENABLE i) x) 1).g f = s.g f := by
  have hword : (((s.advance dt).ctlServed m).respond false []).reg (0x10120000 + 0x100 * i) = (s.advance dt).reg (0x10120000 + 0x100 * i) :=
    (s.served_aside dt m).reg _ (.inr (.inr (by omega)))
  rw [State.writeFields_holds _ m (regFields_srcWord hi) ((s.advance dt).srcWord_holds hi x hword) (.inr (.inr hf)),
    s.served_g dt m f (.inr (.inr hf))]

/-- The word that writes ENABLE. -/
theorem State.enableWord (s : State) (i : Nat) {x : Nat} (hx : x < 2) : fieldGet (s.fieldWord (Reg.ING.SRC.ENABLE i) x) 0 1 = x :=
  (s.fieldWord_get (Reg.ING.SRC.ENABLE i) x (show 0 + 1 ≤ 32 by decide)).trans (Nat.mod_eq_of_lt hx)

/-- An entry that passes the checks starts. -/
theorem srcCtrlWrite_starts_sets {s : State} {m i : Nat} {v : Word} (hi : i < 512) (hv : fieldGet v 0 1 = 1)
    (hoff : s.gb (Reg.ING.SRC.ENABLE i) = false) (hpass : (s.writeFields m (Reg.ING.SRC.ENABLE i).addr v 1).bindCheck i = 0) :
    (srcCtrlWrite m i v s).gb (Reg.ING.SRC.ENABLE i) = true ∧
      (srcCtrlWrite m i v s).g Reg.ING.BIND_RESULT.RESULT = 0 ∧ (srcCtrlWrite m i v s).g Reg.ING.BIND_RESULT.INDEX = i ∧
      (srcCtrlWrite m i v s).g (Reg.ING.SRC.STATE i) = 1 ∧ (srcCtrlWrite m i v s).g (Reg.ING.SRC.PKTS i) = 0 ∧
      (srcCtrlWrite m i v s).g (Reg.ING.SRC.FRAMES i) = 0 := by
  obtain ⟨x, hx, he⟩ := srcCtrlWrite_starts hv hoff hpass
  rw [he]
  generalize s.writeFields m (Reg.ING.SRC.ENABLE i).addr v 1 = y at hx
  obtain ⟨⟨hon, hstate, hpkts, hframes⟩, hresult, hindex⟩ := (y.bindReport i 0).srcStart_sets hi
  obtain ⟨hr, hn⟩ := y.bindReport_shows (r := 0) hi (by decide)
  generalize (y.bindReport i 0).srcStart i = z at *
  have hzx : Spares ingestAddr noEntry z x := hx ▸ State.decClear_spares (Spares.refl _ _ z) i
  have hend : Spares ingestAddr noEntry z (if x.compressed i then x.decStart i else x) := .ite (State.decStart_spares hzx i) hzx
  generalize (if x.compressed i then x.decStart i else x) = t at *
  rw [hend.gb (by unfold ingestAddr; dsimp only; omega), hend.g (f := Reg.ING.BIND_RESULT.RESULT) (by unfold ingestAddr; decide),
    hend.g (f := Reg.ING.BIND_RESULT.INDEX) (by unfold ingestAddr; decide),
    hend.g (f := Reg.ING.SRC.STATE i) (by unfold ingestAddr; dsimp only; omega),
    hend.g (f := Reg.ING.SRC.PKTS i) (by unfold ingestAddr; dsimp only; omega),
    hend.g (f := Reg.ING.SRC.FRAMES i) (by unfold ingestAddr; dsimp only; omega)]
  exact ⟨hon, hresult.trans hr, hindex.trans hn, hstate, hpkts, hframes⟩

theorem State.logIgnored_mem (s : State) (m a : Nat) (v : Word) : (s.logIgnored m a v).mem = s.mem := State.errLog_mem _ _

/-- An entry that fails a check stays off, the check reported. -/
theorem srcCtrlWrite_fails_reports {s : State} {m i : Nat} {v : Word} (hi : i < 512) (hv : fieldGet v 0 1 = 1)
    (hoff : s.gb (Reg.ING.SRC.ENABLE i) = false)
    (hstays : (s.writeFields m (Reg.ING.SRC.ENABLE i).addr v 1).gb (Reg.ING.SRC.ENABLE i) = false)
    (hfail : (s.writeFields m (Reg.ING.SRC.ENABLE i).addr v 1).bindCheck i ≠ 0) :
    (srcCtrlWrite m i v s).gb (Reg.ING.SRC.ENABLE i) = false ∧
      (srcCtrlWrite m i v s).g Reg.ING.BIND_RESULT.RESULT = (s.writeFields m (Reg.ING.SRC.ENABLE i).addr v 1).bindCheck i ∧
      (srcCtrlWrite m i v s).g Reg.ING.BIND_RESULT.INDEX = i ∧ (srcCtrlWrite m i v s).mem = s.mem := by
  rw [srcCtrlWrite_fails hv hoff hfail]
  have hmem := s.writeFields_mem m (Reg.ING.SRC.ENABLE i).addr v 1
  generalize s.writeFields m (Reg.ING.SRC.ENABLE i).addr v 1 = y at *
  obtain ⟨hr, hn⟩ := y.bindReport_shows hi (y.bindCheck_lt i)
  have hb : (y.bindReport i (y.bindCheck i)).gb (Reg.ING.SRC.ENABLE i) = false := by
    unfold State.bindReport
    rw [State.gb_p_other _ _ _ _ (.inl (by dsimp only; omega)), State.gb_p_other _ _ _ _ (.inl (by dsimp only; omega)), hstays]
  have hm : (y.bindReport i (y.bindCheck i)).mem = s.mem := hmem
  generalize y.bindReport i (y.bindCheck i) = z at *
  refine ⟨?_, ?_, ?_, (State.logIgnored_mem _ _ _ _).trans hm⟩
  · rw [State.gb, State.logIgnored_g _ _ _ _ (.inr (.inr (by dsimp only; omega))), ← State.gb, hb]
  · rw [State.logIgnored_g _ _ _ _ (.inr (.inr (by decide))), hr]
  · rw [State.logIgnored_g _ _ _ _ (.inr (.inr (by decide))), hn]

/-- Settles O24, by the write of an entry's first word, which leaves every register until the checks have run, and by what a silence
closes (log entries 47 and 98). -/
theorem sourceBindingAndSilence : Obligations.SourceBindingAndSilence := by
  refine ⟨fun dt m i s hc hw hoff hpass => ?_, fun dt m i s hc hw hoff hfail => ?_, fun dt m i s hc hw hon => ?_,
    fun dt i s hc hn he hs hd => ?_, fun dt i s hd => ?_, fun dt i c s hc he hdual hat hd => ?_,
    fun dt i c s hc he hdual hat hd => ?_, fun dt i s hc hd => ?_⟩
  · have hg := s.enableWrite_g dt m.val i.isLt 1
    have hserved := State.ctlWrite_served dt (v := (s.advance dt).fieldWord (Reg.ING.SRC.ENABLE i.val) 1)
      (act := srcCtrlWrite m.val i.val ((s.advance dt).fieldWord (Reg.ING.SRC.ENABLE i.val) 1)) hc hw
    have hset := srcCtrlWrite_starts_sets (s := ((s.advance dt).ctlServed m.val).respond false []) (m := m.val) i.isLt
      ((s.advance dt).enableWord i.val (by decide))
      ((s.served_gb dt m.val _ (.inr (.inr (by dsimp only; omega)))).trans hoff) ((State.bindCheck_congr hg i.val).trans hpass)
    exact ⟨_, congrArg Host.Outcome.next hserved, hset⟩
  · have hg := s.enableWrite_g dt m.val i.isLt 1
    have hcheck := State.bindCheck_congr hg i.val
    have hserved := State.ctlWrite_served dt (v := (s.advance dt).fieldWord (Reg.ING.SRC.ENABLE i.val) 1)
      (act := srcCtrlWrite m.val i.val ((s.advance dt).fieldWord (Reg.ING.SRC.ENABLE i.val) 1)) hc hw
    obtain ⟨hstays, hresult, hindex, hmem⟩ := srcCtrlWrite_fails_reports (s := ((s.advance dt).ctlServed m.val).respond false [])
      (m := m.val) i.isLt ((s.advance dt).enableWord i.val (by decide))
      ((s.served_gb dt m.val _ (.inr (.inr (by dsimp only; omega)))).trans hoff)
      ((State.gb_of_g hg (f := Reg.ING.SRC.ENABLE i.val) (by dsimp only; omega)).trans hoff) (by rw [hcheck]; exact hfail)
    exact ⟨_, congrArg Host.Outcome.next hserved, hstays, hresult.trans hcheck, hindex, State.byte_congr (hmem.trans (by simp))⟩
  · have hserved := State.ctlWrite_served dt (v := (s.advance dt).fieldWord (Reg.ING.SRC.ENABLE i.val) 0)
      (act := srcCtrlWrite m.val i.val ((s.advance dt).fieldWord (Reg.ING.SRC.ENABLE i.val) 0)) hc hw
    have hstop := srcCtrlWrite_stops (s := ((s.advance dt).ctlServed m.val).respond false []) (m := m.val)
      ((s.advance dt).enableWord i.val (by decide)) ((s.served_gb dt m.val _ (.inr (.inr (by dsimp only; omega)))).trans hon)
    exact ⟨_, congrArg Host.Outcome.next (hserved.trans hstop), State.entryStop_off _ i.isLt⟩
  · exact ⟨_, rfl, sourceLost_lost (s := s.advance dt) (by simpa using hc) (by simpa using hn) (by simpa using he) (by simpa using hs)
      (by simpa using hd)⟩
  · exact ⟨_, rfl, sourceLost_early (s := s.advance dt) (by simpa using hd)⟩
  · obtain ⟨hdown, hother⟩ := pathExpire_b (s := s.advance dt) (by simpa using hc) (by simpa using he) i.isLt (by simpa using hdual)
      (by simpa using hat) (by simpa using hd)
    exact ⟨_, rfl, hdown, hother.trans (by simp)⟩
  · obtain ⟨hdown, hother⟩ := pathExpire_a (s := s.advance dt) (by simpa using hc) (by simpa using he) i.isLt (by simpa using hdual)
      (by simpa using hat) (by simpa using hd)
    exact ⟨_, rfl, hdown, hother.trans (by simp)⟩
  · have hdue := srTimeout_due (s := s.advance dt) (i := i.val) (by simpa using hc) (by simpa using hd)
    exact ⟨_, congrArg Host.Outcome.next hdue, State.gb_pb_val _ _ _ (by dsimp only; omega), State.byte_congr (by simp)⟩

end Sys2Proof.Machine
end

section
/-! PROOF. What a transfer of a device's master and the reset of a master leave of the decode block beyond its registers, and of the
registers of the blocks above SEQ (R404, R411, R416, R419). -/

-- One lemma after the other: elaborated side by side, they take more threads than the memory of the check holds.
set_option Elab.async false

namespace Sys2Proof.Machine

/-! ### Transfers -/

section Transfers

variable {s : State}

theorem State.foldl_dec {α : Type} {f : State → α → State} (l : List α) (hf : ∀ s x, (f s x).dec = s.dec) :
    (l.foldl f s).dec = s.dec :=
  List.foldlRecOn (motive := fun t : State => t.dec = s.dec) l f rfl fun t ht x _ => (hf t x).trans ht

@[simp] theorem State.countBurst_dec (m a n : Nat) : (s.countBurst m a n).dec = s.dec :=
  (State.countBurst_aside (Aside.refl s) m a n).dec

theorem State.busFail_dec (r : ErrRecord) (hr : r.master < 64) : (s.busFail r).dec = s.dec :=
  (State.busFail_aside (Aside.refl s) r hr).dec

@[simp] theorem State.queueSettle_dec (a n : Nat) : (s.queueSettle a n).dec = s.dec := by
  obtain ⟨q, d, e⟩ := s.queueSettle_only a n
  rw [e]

@[simp] theorem State.queueTake_dec (write : Bool) (qos a n : Nat) (on : List Bool) :
    (s.queueTake write qos a n on).dec = s.dec := by
  obtain ⟨q, d, e⟩ := s.queueTake_only write qos a n on
  rw [e]

@[simp] theorem State.queueBurst_dec (write : Bool) (qos a n : Nat) (on : List Bool) :
    (s.queueBurst write qos a n on).dec = s.dec := by
  obtain ⟨q, d, e⟩ := s.queueBurst_only write qos a n on
  rw [e]

@[simp] theorem State.chanServed_dec (ch : Nat) : (s.chanServed ch).dec = s.dec := by
  unfold State.chanServed
  split <;> rfl

@[simp] theorem State.grantReq_dec (p : PendReq) (sent : Nat) : (s.grantReq p sent).dec = s.dec := by
  unfold State.grantReq
  extract_lets t reaches q bus x y
  have hx : x.dec = s.dec := by
    show t.dec = s.dec
    unfold t
    split
    · exact State.queueSettle_dec _ _
    · rfl
  have hy : y.dec = s.dec := by
    unfold y
    split
    · exact hx
    · exact (State.queueTake_dec _ _ _ _ _).trans hx
  split
  · exact hx
  · exact (State.foldl_dec _ fun _ _ => State.chanServed_dec _).trans ((State.countBurst_dec _ _ _).trans hy)

@[simp] theorem State.portYield_dec (t m qos : Nat) : (s.portYield t m qos).dec = s.dec := by
  unfold State.portYield
  refine State.foldl_dec _ fun s _ => ?_
  split
  · dsimp only
    split
    · exact State.grantReq_dec _ _
    · rfl
  · rfl

@[simp] theorem State.arrive_dec (m qos a n : Nat) (write : Bool) (on : List Bool) :
    (s.arrive m qos a n write on).dec = s.dec := by
  unfold State.arrive
  extract_lets ports x y
  have hy : y.dec = s.dec := (State.foldl_dec _ fun _ _ => State.chanServed_dec _).trans
    (State.foldl_dec _ fun _ _ => State.portYield_dec _ _ _)
  split
  · rfl
  · split <;> exact hy

@[simp] theorem drainEnd_dec (m : Nat) : (drainEnd m s).dec = s.dec := by
  unfold drainEnd
  split
  · rfl
  · exact State.raise_dec _ _ _ (by decide)

@[simp] theorem State.portReady_dec (m : Nat) : (s.portReady m).dec = s.dec := by
  unfold State.portReady
  split
  · exact drainEnd_dec m
  · rfl

@[simp] theorem State.stageWritten_dec : s.stageWritten.dec = s.dec := by
  unfold State.stageWritten
  extract_lets x seq y z w
  have hy : y.dec = s.dec := by
    unfold y
    split <;> rfl
  have hz : z.dec = s.dec := by
    unfold z
    split <;> exact hy
  split <;> exact hz

@[simp] theorem State.storeData_dec (a : Nat) (bs : List Byte) : (s.storeData a bs).dec = s.dec := by
  unfold State.storeData
  split
  · exact State.stageWritten_dec
  · rfl

@[simp] theorem State.storeMasked_dec (a : Nat) (bs : List Byte) (on : List Bool) : (s.storeMasked a bs on).dec = s.dec := by
  unfold State.storeMasked
  split
  · exact State.storeData_dec a bs
  · refine State.foldl_dec _ fun s i => ?_
    split
    · exact State.storeData_dec _ _
    · rfl

theorem State.writeBurst_dec {m : Nat} (hm : m < 64) (qos id a : Nat) (bs : List Byte) (on : List Bool) :
    (s.writeBurst m qos id a bs on).1.dec = s.dec := by
  unfold State.writeBurst
  split
  · exact State.busFail_dec _ hm
  · split
    · exact State.busFail_dec _ hm
    · exact State.raise_dec _ _ _ (by decide)
    · simp

theorem State.writeBursts_dec {m : Nat} (hm : m < 64) (qos id : Nat) (l : List (Nat × Nat)) (bs : List Byte) (on : List Bool) :
    (s.writeBursts m qos id l bs on).1.dec = s.dec := by
  induction l generalizing s bs on with
  | nil => rfl
  | cons b l ih => exact (ih _ _).trans (State.writeBurst_dec hm _ _ _ _ _)

theorem State.dmaWrite_dec {m : Nat} (hm : m < 64) (own a : Nat) (bs : List Byte) : (s.dmaWrite m own a bs).1.dec = s.dec :=
  (State.writeBursts_dec hm _ _ _ _ _).trans (State.portReady_dec m)

theorem State.writePixels_dec {m : Nat} (hm : m < 64) (qos : Nat) (p : Pic) (x y : Nat) (vs : List Sample) :
    (s.writePixels m qos p x y vs).1.dec = s.dec := by
  unfold State.writePixels
  split
  · rfl
  · exact State.dmaWrite_dec hm _ _ _

end Transfers

/-! ### The reset of a master (R419) -/

section Reset

variable {A I : Nat → Prop} (hA : ∀ a, A a → 0x100C0000 ≤ a) {s₀ s : State}

@[simp] theorem State.drainWrite_dec (r : PendReq) : (s.drainWrite r).dec = s.dec := by
  unfold State.drainWrite
  extract_lets n on
  split <;> simp

@[simp] theorem State.masterReset_dec (m : Nat) : (s.masterReset m).dec = s.dec := by
  unfold State.masterReset
  extract_lets mine begun x cut
  split
  · rfl
  · refine State.foldl_dec _ fun s r => (State.drainWrite_dec r).trans ?_
    split
    · rfl
    · exact State.countBurst_dec _ _ _

include hA

theorem State.drainWrite_spares (h : Spares A I s₀ s) (r : PendReq) : Spares A I s₀ (s.drainWrite r) := by
  unfold State.drainWrite
  exact .ite (State.storeMasked_spares hA (State.queueBurst_spares h _ _ _ _ _) _ _ _) h

theorem State.masterReset_spares (h : Spares A I s₀ s) (m : Nat) : Spares A I s₀ (s.masterReset m) := by
  unfold State.masterReset
  extract_lets mine begun x cut
  have hx : Spares A I s₀ x := .fold h fun s r _ hs =>
    State.drainWrite_spares hA (.ite hs (State.countBurst_spares hA hs _ _ _)) r
  exact .ite h hx.same

end Reset

end Sys2Proof.Machine
end

section
/-! PROOF. What the work on pictures leaves of the decode pipes: their jobs, the fault log, and the registers that say how jobs and
contexts stand (R112, R135 to R142, R146, R151 to R153). -/

-- One lemma after the other: elaborated side by side, they take more threads than the memory of the check holds.
set_option Elab.async false

namespace Sys2Proof.Machine

/-! ### The relation -/

/-- A register that says how the decode jobs stand: CTRL, JOBS, ABORTS and PREEMPTS of a pipe, and STATE of a context. The registers
of a buffer that a picture writes stand beside these, whatever the buffer's number. -/
def jobAddr (a : Nat) : Prop := 0x10200000 ≤ a ∧ a < 0x10280000 ∧ (a % 0x20 = 0 ∨ (0x18 ≤ a % 0x20 ∧ a % 0x10000 < 0x20))

theorem jobAddr_high (a : Nat) (ha : jobAddr a) : 0x100C0000 ≤ a := by
  unfold jobAddr at ha
  omega

/-- From `s` to `t` stay the registers that say how the decode jobs stand, the power mode, what the pipes hold beyond their registers,
and the fault log. -/
structure JobsStay (s t : State) : Prop where
  reg : ∀ a, jobAddr a → t.reg a = s.reg a
  mode : t.pwr.mode = s.pwr.mode
  pipes : t.dec.pipes = s.dec.pipes
  faults : t.dec.faults = s.dec.faults

theorem JobsStay.refl (s : State) : JobsStay s s := ⟨fun _ _ => rfl, rfl, rfl, rfl⟩

section Rules

variable {s₀ s t : State}

theorem JobsStay.trans (h : JobsStay s₀ s) (k : JobsStay s t) : JobsStay s₀ t :=
  ⟨fun a ha => (k.reg a ha).trans (h.reg a ha), k.mode.trans h.mode, k.pipes.trans h.pipes, k.faults.trans h.faults⟩

theorem JobsStay.g (h : JobsStay s t) (f : FRef) (hf : jobAddr f.addr := by dsimp only [jobAddr]; omega) : t.g f = s.g f := by
  unfold State.g
  rw [h.reg _ hf]

theorem JobsStay.coreOn (h : JobsStay s t) : t.coreOn = s.coreOn := by
  unfold State.coreOn
  rw [h.mode]

theorem JobsStay.dpipe (h : JobsStay s t) (n : Nat) : t.dpipe n = s.dpipe n := by
  unfold State.dpipe
  rw [h.pipes]

/-- An update that touches nothing that the relation speaks of. -/
theorem JobsStay.same (h : JobsStay s₀ s) (hr : t.regs = s.regs := by rfl) (hm : t.pwr.mode = s.pwr.mode := by rfl)
    (hp : t.dec.pipes = s.dec.pipes := by rfl) (hf : t.dec.faults = s.dec.faults := by rfl) : JobsStay s₀ t :=
  h.trans ⟨fun a _ => State.reg_congr hr a, hm, hp, hf⟩

theorem JobsStay.ite {c : Prop} [Decidable c] (hs : JobsStay s₀ s) (ht : JobsStay s₀ t) : JobsStay s₀ (if c then s else t) := by
  split
  · exact hs
  · exact ht

theorem JobsStay.fold {α : Type} {f : State → α → State} {l : List α} (h : JobsStay s₀ s)
    (hf : ∀ s, ∀ x ∈ l, JobsStay s₀ s → JobsStay s₀ (f s x)) : JobsStay s₀ (l.foldl f s) :=
  List.foldlRecOn (motive := JobsStay s₀) l f h fun s hs x hx => hf s x hx hs

/-- What leaves these registers and the whole of what the decode block holds beyond its registers. -/
theorem JobsStay.spares (h : JobsStay s₀ s) (hs : Spares jobAddr noEntry s t) (hd : t.dec = s.dec) : JobsStay s₀ t :=
  h.trans ⟨hs.reg, hs.mode, by rw [hd], by rw [hd]⟩

/-- What leaves quiet registers and the blocks beyond them, as records and events do. -/
theorem JobsStay.aside (h : JobsStay s₀ s) (ha : Aside s t) : JobsStay s₀ t :=
  h.trans ⟨fun a hp => ha.reg a (.inr (.inr (le_trans (by decide) (jobAddr_high a hp)))), by rw [ha.pwr], by rw [ha.dec],
    by rw [ha.dec]⟩

theorem State.p_jobsStay (h : JobsStay s₀ s) (f : FRef) (v : Nat) (hf : ¬ jobAddr f.addr := by dsimp only [jobAddr]; omega) :
    JobsStay s₀ (s.p f v) :=
  h.trans ⟨fun _ ha => State.reg_p_ne s v fun e => hf (e ▸ ha), rfl, rfl, rfl⟩

theorem State.raise_jobsStay (h : JobsStay s₀ s) (i arg : Nat) (hi : i < 64 := by decide) : JobsStay s₀ (s.raise i arg) :=
  h.aside (State.raise_aside (Aside.refl s) i arg hi)

theorem State.storeFree_jobsStay (h : JobsStay s₀ s) (a n : Nat) : JobsStay s₀ (s.storeFree a n) := h.same

theorem State.setDctx_jobsStay (h : JobsStay s₀ s) (i : Nat) (x : DecCtx) : JobsStay s₀ (s.setDctx i x) := h.same

theorem State.setSrc_jobsStay (h : JobsStay s₀ s) (i : Nat) (x : SrcState) : JobsStay s₀ (s.setSrc i x) := h.same

theorem State.writePixels_jobsStay (h : JobsStay s₀ s) {m : Nat} (hm : m < 64) (qos : Nat) (p : Pic) (x y : Nat)
    (vs : List Sample) : JobsStay s₀ (s.writePixels m qos p x y vs).1 :=
  h.spares (State.writePixels_spares jobAddr_high (Spares.refl _ _ s) hm _ _ _ _ _) (State.writePixels_dec hm _ _ _ _ _)

theorem State.masterReset_jobsStay (h : JobsStay s₀ s) (m : Nat) : JobsStay s₀ (s.masterReset m) :=
  h.spares (State.masterReset_spares jobAddr_high (Spares.refl _ _ s) m) (State.masterReset_dec m)

theorem State.codecEnds_jobsStay (h : JobsStay s₀ s) : JobsStay s₀ s.codecEnds := .fold h fun _ _ _ hs => hs.same

theorem State.busTraffic_jobsStay (h : JobsStay s₀ s) (m : Nat) : JobsStay s₀ (s.busTraffic m) :=
  .fold h fun s t ht hs => by
    have : t < 8 := List.mem_range.1 ht
    have hx : JobsStay s₀ (s.incBy (Reg.MTX.TARGET.GRANTS t) s.freeNat) := State.p_jobsStay hs (Reg.MTX.TARGET.GRANTS t) _
    exact (JobsStay.ite (State.p_jobsStay hx (Reg.MTX.TARGET.PARKED t) m) hx).same

/-! ### Buffers and records -/

theorem State.claim_jobsStay (h : JobsStay s₀ s) (b field count : Nat) : JobsStay s₀ (s.claim b field count) := by
  unfold State.claim State.setArrival
  exact State.p_jobsStay (State.p_jobsStay (State.p_jobsStay (State.p_jobsStay (State.p_jobsStay h (Reg.ING.BUF.STATE b) _)
    (Reg.ING.BUF.ROW_MARK b) _) (Reg.ING.BUF.FIELD b) _) (Reg.ING.BUF.ARRIVAL_LO b) _) (Reg.ING.BUF.ARRIVAL_HI b) _

theorem State.unclaim_jobsStay (h : JobsStay s₀ s) (b : Nat) : JobsStay s₀ (s.unclaim b) := by
  have hfree : JobsStay s₀ (s.p (Reg.ING.BUF.STATE b) Bs.free) := State.p_jobsStay h (Reg.ING.BUF.STATE b) _
  exact .ite (State.storeFree_jobsStay (JobsStay.same hfree) _ _) h

theorem State.closeBuf_jobsStay (h : JobsStay s₀ s) (b : Nat) (t : Tag) : JobsStay s₀ (s.closeBuf b t) :=
  State.p_jobsStay (State.p_jobsStay h.same (Reg.ING.BUF.ROW_MARK b) _) (Reg.ING.BUF.STATE b) _

theorem State.filled_jobsStay (h : JobsStay s₀ s) (i b : Nat) : JobsStay s₀ (s.filled i b) := State.setSrc_jobsStay h _ _

theorem State.claimAll_jobsStay (h : JobsStay s₀ s) (i count : Nat) (fs : List Nat) : JobsStay s₀ (s.claimAll i count fs).1 := by
  induction fs generalizing s with
  | nil => exact h
  | cons f fs ih =>
    unfold State.claimAll
    split
    · exact h
    · next x _ =>
      have hr : JobsStay s₀ ((s.claim x.2 f count).claimAll i count fs).1 := ih (State.claim_jobsStay h x.2 f count)
      dsimp only
      split
      · exact hr
      · exact State.unclaim_jobsStay hr _

theorem State.fieldPassed_jobsStay (h : JobsStay s₀ s) (i : Nat) (au : AuFacts) : JobsStay s₀ (s.fieldPassed i au) :=
  .ite h (State.setDctx_jobsStay h _ _)

theorem State.consumeRecord_jobsStay (h : JobsStay s₀ s) {i : Nat} (hi : i < 512) : JobsStay s₀ (s.consumeRecord i) := by
  unfold State.consumeRecord
  split
  · exact h
  · exact State.p_jobsStay (State.setSrc_jobsStay h _ _) (Reg.ING.SRC.BS_RD i) _

theorem State.picOpen_jobsStay (h : JobsStay s₀ s) {i : Nat} (hi : i < 512) (a : Nat) (au : AuFacts) :
    JobsStay s₀ (s.picOpen i a au).1 := by
  unfold State.picOpen
  extract_lets seq div field woven pair c r x
  generalize pair = o
  cases o with
  | some q => exact State.setDctx_jobsStay h _ _
  | none =>
    have hr : JobsStay s₀ r.1 := by
      unfold r
      split
      · exact State.claimAll_jobsStay h _ _ _
      · exact h
    have hx : JobsStay s₀ x := .ite (State.p_jobsStay hr (Reg.DEC.CTX.OUT_DROP i) _) hr
    exact State.setDctx_jobsStay hx _ _

/-! ### Pixels -/

theorem State.writeRows_jobsStay (h : JobsStay s₀ s) {m : Nat} (hm : m < 64) (qos : Nat) (p : Pic) (rows : List (List Sample)) :
    JobsStay s₀ (s.writeRows m qos p rows) :=
  .fold h fun _ _ _ hs => State.writePixels_jobsStay hs hm _ _ _ _ _

theorem State.reduceFrom_jobsStay (h : JobsStay s₀ s) {m : Nat} (hm : m < 64) (qos b : Nat) (wanted : Nat → Bool) (fuel k : Nat)
    (rows : List (List Sample)) : JobsStay s₀ (s.reduceFrom m qos b wanted fuel k rows) := by
  induction fuel generalizing s k rows with
  | zero => exact h
  | succ fuel ih => exact ih (.ite (State.writeRows_jobsStay h hm _ _ _) h) _ _

theorem State.reduceBuf_jobsStay (h : JobsStay s₀ s) {m : Nat} (hm : m < 64) (qos i b : Nat) : JobsStay s₀ (s.reduceBuf m qos i b) :=
  State.reduceFrom_jobsStay h hm _ _ _ _ _ _

theorem State.picContent_jobsStay (h : JobsStay s₀ s) {m : Nat} (hm : m < 64) (qos b : Nat) (row : Nat → List Sample)
    (keep : Nat → Bool) : JobsStay s₀ (s.picContent m qos b row keep) :=
  .fold h fun _ _ _ hs => .ite hs (State.writePixels_jobsStay hs hm _ _ _ _ _)

theorem State.jobContent_jobsStay (h : JobsStay s₀ s) {n : Nat} (hn : n < 8) (j : DecJob) (p : DecPic) (front : Nat)
    (vs : List Nat) : JobsStay s₀ (s.jobContent n j p front vs) := by
  have hm : 25 + n < 64 := by omega
  exact .fold h fun _ _ _ hs => State.reduceBuf_jobsStay (State.picContent_jobsStay hs hm _ _ _ _) hm _ _ _

/-! ### The DPB -/

theorem State.slotWrite_jobsStay (h : JobsStay s₀ s) (i k : Nat) (vs : List Nat) : JobsStay s₀ (s.slotWrite i k vs) := h.same

theorem State.refGenerate_jobsStay (h : JobsStay s₀ s) (i seq : Nat) : JobsStay s₀ (s.refGenerate i seq) :=
  State.setDctx_jobsStay (State.slotWrite_jobsStay h _ _ _) _ _

theorem State.refsGenerate_jobsStay (h : JobsStay s₀ s) (i : Nat) (refs : List Nat) : JobsStay s₀ (s.refsGenerate i refs) :=
  .fold h fun _ _ _ hs => .ite hs (State.refGenerate_jobsStay hs _ _)

theorem State.dpbStore_jobsStay (h : JobsStay s₀ s) (j : DecJob) (taint : Bool) (vs : List Nat) : JobsStay s₀ (s.dpbStore j taint vs) :=
  State.setDctx_jobsStay (State.slotWrite_jobsStay h _ _ _) _ _

theorem State.dpbKeep_jobsStay (h : JobsStay s₀ s) (i : Nat) (keeps : List Nat) : JobsStay s₀ (s.dpbKeep i keeps) :=
  State.setDctx_jobsStay h _ _

/-! ### Pictures -/

theorem State.picMark_jobsStay (h : JobsStay s₀ s) (j : DecJob) (taint : Bool) : JobsStay s₀ (s.picMark j taint) :=
  State.setDctx_jobsStay h _ _

theorem State.picOut_jobsStay (h : JobsStay s₀ s) {i : Nat} (hi : i < 512) (seq : Nat) (quiet : Bool) (p : DecPic) :
    JobsStay s₀ (s.picOut i seq quiet p) := by
  unfold State.picOut
  extract_lets flags t x y z
  have hx : JobsStay s₀ x := .fold h fun _ _ _ hs => State.filled_jobsStay (State.closeBuf_jobsStay hs _ _) _ _
  have hy : JobsStay s₀ y := State.p_jobsStay hx (Reg.DEC.CTX.PICTURES i) _
  have hz : JobsStay s₀ z := State.p_jobsStay hy (Reg.DEC.CTX.CONCEALED i) _
  exact .ite h (.ite (.ite hz (State.raise_jobsStay hz _ _)) hy)

theorem State.picsOut_jobsStay (h : JobsStay s₀ s) {i : Nat} (hi : i < 512) (seq : Nat) (hush : Option Nat) (qs : List Nat) :
    JobsStay s₀ (s.picsOut i seq hush qs) :=
  .fold h fun s q _ hs => by
    dsimp only
    split
    · exact hs
    · exact State.setDctx_jobsStay (State.picOut_jobsStay hs hi _ _ _) _ _

theorem State.picsDrop_jobsStay (h : JobsStay s₀ s) (i : Nat) (qs : List Nat) : JobsStay s₀ (s.picsDrop i qs) :=
  State.setDctx_jobsStay (.fold h fun _ _ _ hs => .fold hs fun _ _ _ hx => State.unclaim_jobsStay hx _) _ _

theorem State.rowsShown_jobsStay (h : JobsStay s₀ s) (i : Nat) (next : Option Nat) : JobsStay s₀ (s.rowsShown i next) := by
  unfold State.rowsShown
  split
  · exact h
  · exact .fold h fun _ b _ hs => State.p_jobsStay hs (Reg.ING.BUF.ROW_MARK b) _

theorem State.countLoad_jobsStay (h : JobsStay s₀ s) (i field : Nat) : JobsStay s₀ (s.countLoad i field) := by
  unfold State.countLoad
  extract_lets kept d x
  have hx : JobsStay s₀ x := h.same
  exact State.p_jobsStay hx _ _

/-- The picture that a job leaves. -/
theorem State.jobPicture_jobsStay (h : JobsStay s₀ s) {n : Nat} (hn : n < 8) (j : DecJob) (aborted : Bool) (e : DecEnd) :
    JobsStay s₀ (s.jobPicture n j aborted e) := by
  unfold State.jobPicture
  extract_lets i x ends inherited c y areas taint vs z w
  have hy : JobsStay s₀ y := State.setDctx_jobsStay (State.refsGenerate_jobsStay h _ _) _ _
  have hz : JobsStay s₀ z := State.dpbStore_jobsStay hy _ _ _
  have hw : JobsStay s₀ w := by
    unfold w
    split
    · exact State.jobContent_jobsStay hz hn _ _ _ _
    · exact hz
  exact State.picMark_jobsStay hw _ _

/-- The rows that a slice boundary shows. -/
theorem State.jobFront_jobsStay (h : JobsStay s₀ s) {n : Nat} (hn : n < 8) (j : DecJob) (e : DecEnd) :
    JobsStay s₀ (s.jobFront n j e) := by
  unfold State.jobFront
  extract_lets i
  split
  · exact h
  · next p _ =>
    extract_lets x
    have hx : JobsStay s₀ x := State.jobContent_jobsStay h hn _ _ _ _
    exact .ite (.fold hx fun _ k _ hs => State.p_jobsStay hs (Reg.ING.BUF.ROW_MARK (p.bufs.getD k 0)) _) hx

end Rules

end Sys2Proof.Machine
end

section
/-! PROOF. The jobs of the decode pipes: what dispatch, resuming, preemption and the end of a job make of a pipe and of the job's
context (R130, R139, R143, R144, R154). -/

-- One lemma after the other: elaborated side by side, they take more threads than the memory of the check holds.
set_option Elab.async false

namespace Sys2Proof.Machine

/-! ### What the scheduler reads -/

@[simp] theorem State.advance_dpipe (s : State) (dt n : Nat) : (s.advance dt).dpipe n = s.dpipe n := by simp [State.dpipe]

@[simp] theorem State.advance_recordBase (s : State) (dt i : Nat) : (s.advance dt).recordBase i = s.recordBase i := by
  simp [State.recordBase, State.src]

@[simp] theorem State.advance_recArrival (s : State) (dt a : Nat) : (s.advance dt).recArrival a = s.recArrival a := by
  simp [State.recArrival, State.le, State.bytes]

@[simp] theorem State.advance_hasWork (s : State) (dt i : Nat) : (s.advance dt).hasWork i = s.hasWork i := by
  simp [State.hasWork, State.compressed, State.src, State.hasJob]

@[simp] theorem State.advance_decCandidate (s : State) (dt : Nat) : (s.advance dt).decCandidate = s.decCandidate := by
  simp [State.decCandidate]

section Scheduler

variable {s : State} {n i a : Nat} {j : DecJob}

/-- The context that the scheduler takes next is one of the 512, and has a record but no job. -/
theorem State.decCandidate_hasWork (h : s.decCandidate = some i) : i < 512 ∧ s.hasWork i = true := by
  unfold State.decCandidate at h
  refine List.foldlRecOn (motive := fun best : Option Nat => ∀ k, best = some k → k < 512 ∧ s.hasWork k = true) _ _
    (fun _ hnone => by cases hnone) (fun best hbest k hk => ?_) i h
  have hwork : k < 512 ∧ s.hasWork k = true := by simpa using hk
  cases best with
  | none =>
    rintro _ ⟨⟩
    exact hwork
  | some b =>
    intro x hx
    dsimp only at hx
    split at hx
    · cases hx
      exact hwork
    · exact hbest x hx

/-- A context with a job on a pipe is none that the scheduler takes next. -/
theorem State.decCandidate_ne_ctx (h : s.decCandidate = some i) (hn : n < 8) (hj : (s.dpipe n).job = some j) : i ≠ j.ctx := by
  rintro rfl
  have hjob : s.hasJob j.ctx = true :=
    List.any_eq_true.2 ⟨n, List.mem_range.2 hn, by rw [hj]; simp⟩
  obtain ⟨_, hwork⟩ := State.decCandidate_hasWork h
  simp [State.hasWork, hjob] at hwork

/-- A wanted picture of the sequence in force in a context that decodes begins a job, and nothing else happens to its record. -/
theorem State.recordTake_begins {au : AuFacts} (hst : s.g (Reg.DEC.CTX.STATE i) = 2) (hsps : au.sps = none) (hrasl : au.rasl = false)
    (href : au.nonRef = false) : s.recordTake i a au = (s, true) := by
  simp [State.recordTake, hst, hsps, hrasl, href]

end Scheduler

/-! ### A pipe set -/

/-- From `s` to `t` what pipe `n` holds beyond its registers is set to `x`; the registers that say how the decode jobs stand, the power
mode and the fault log stay. -/
structure PipeSet (n : Nat) (x : DecPipe) (s t : State) : Prop where
  pipe : t.dpipe n = x
  reg : ∀ a, jobAddr a → t.reg a = s.reg a
  mode : t.pwr.mode = s.pwr.mode
  faults : t.dec.faults = s.dec.faults

theorem State.setDpipe_pipeSet (s : State) (n : Nat) (x : DecPipe) : PipeSet n x s (s.setDpipe n x) :=
  ⟨Tab.get_put_same _ _ _ _, fun _ _ => rfl, rfl, rfl⟩

/-- A counter as wide as its register wraps at 2^32. -/
theorem State.inc_g_same (s : State) (f : FRef) (hf : (f.lo, f.width) = (0, 32)) : (s.inc f).g f = (s.g f + 1) % 2 ^ 32 := by
  obtain ⟨hlo, hwidth⟩ := Prod.mk.inj hf
  rw [State.inc, State.g_p_same _ _ _ (by omega), hwidth]

theorem State.inc_g_other (s : State) (f f' : FRef) (hf : f.addr ≠ f'.addr) : (s.inc f).g f' = s.g f' :=
  State.g_p_other _ _ _ _ (.inl hf)

@[simp] theorem State.p_dpipe (s : State) (f : FRef) (v n : Nat) : (s.p f v).dpipe n = s.dpipe n := rfl

@[simp] theorem State.inc_dpipe (s : State) (f : FRef) (n : Nat) : (s.inc f).dpipe n = s.dpipe n := rfl

section PipeSet

variable {s t u : State} {n : Nat} {x : DecPipe}

theorem PipeSet.trans (h : PipeSet n x s t) (k : JobsStay t u) : PipeSet n x s u :=
  ⟨(k.dpipe n).trans h.pipe, fun a ha => (k.reg a ha).trans (h.reg a ha), k.mode.trans h.mode, k.faults.trans h.faults⟩

theorem JobsStay.pipeSet (h : JobsStay s t) (k : PipeSet n x t u) : PipeSet n x s u :=
  ⟨k.pipe, fun a ha => (k.reg a ha).trans (h.reg a ha), k.mode.trans h.mode, k.faults.trans h.faults⟩

theorem PipeSet.g (h : PipeSet n x s t) (f : FRef) (hf : jobAddr f.addr := by dsimp only [jobAddr]; omega) : t.g f = s.g f := by
  unfold State.g
  rw [h.reg _ hf]

end PipeSet

section Jobs

variable {s : State} {n i a : Nat} {j : DecJob}

/-! ### A job starts or resumes (R143, R144) -/

/-- From `s` to `t` a job of context `i` starts on pipe `n`: its suspended job, and what says how the other jobs stand, stay. -/
structure JobStarts (n i : Nat) (s t : State) : Prop where
  ctx : (t.dpipe n).job.map (fun j => j.ctx) = some i
  susp : (t.dpipe n).susp = (s.dpipe n).susp
  state : t.g (Reg.DEC.CTX.STATE i) = 4
  others : ∀ f : FRef, jobAddr f.addr → (Reg.DEC.CTX.STATE i).addr ≠ f.addr → t.g f = s.g f

theorem State.jobStart_starts (s : State) (n : Nat) (hi : i < 512) (a from_ : Nat) (au : AuFacts) :
    JobStarts n i s (s.jobStart n i a from_ au) := by
  unfold State.jobStart
  extract_lets field r y job x
  have hy : JobsStay s y := State.fieldPassed_jobsStay (State.picOpen_jobsStay (JobsStay.refl s) hi a au) _ _
  have hset := hy.pipeSet (y.setDpipe_pipeSet n { x with job := some job, times := x.times.began s.clock, store := y.free })
  refine ⟨?_, ?_, State.g_p_val _ (Reg.DEC.CTX.STATE i) 4 (by dsimp only; omega), fun f hf hne => ?_⟩
  · exact congrArg (fun p : DecPipe => p.job.map (fun j => j.ctx)) hset.pipe
  · have hsusp : x.susp = (s.dpipe n).susp := congrArg DecPipe.susp (hy.dpipe n)
    exact (congrArg DecPipe.susp hset.pipe :).trans hsusp
  · exact (State.g_p_other _ _ _ _ (.inl hne)).trans (hset.g f hf)

theorem State.freeNs_le (s : State) (k : Nat) : s.freeNs k ≤ k := Nat.lt_succ_iff.1 (Nat.mod_lt _ k.succ_pos)

/-- The suspended job of an idle pipe runs again once it is restored. -/
theorem State.pipeResume_resumes (hj : (s.dpipe n).job = none) (hs : (s.dpipe n).susp = some j)
    (hp : (s.dpipe n).times.inPhase s.clock = false) :
    (∃ d ≤ 30000, ((s.pipeResume n).dpipe n).job = some { j with ranAt := s.clock + d }) ∧
      ((s.pipeResume n).dpipe n).susp = none ∧ (s.pipeResume n).g (Reg.DEC.CTX.STATE j.ctx) = 4 := by
  unfold State.pipeResume
  extract_lets x
  rw [show x.job = none from hj, show x.susp = some j from hs]
  dsimp -zeta only
  rw [if_neg (by simp [x, hp])]
  have hset := s.setDpipe_pipeSet n { x with
    job := some { j with ranAt := s.clock + s.freeNs 30000 }, susp := none,
    times := (x.times.began s.clock).phased 4 (s.clock + s.freeNs 30000), store := s.free + 1 }
  exact ⟨⟨_, s.freeNs_le 30000, congrArg DecPipe.job hset.pipe⟩, congrArg DecPipe.susp hset.pipe,
    State.g_p_val _ (Reg.DEC.CTX.STATE j.ctx) 4 (by dsimp only; omega)⟩

/-- A record that begins a job starts it on a pipe that may take its class. -/
theorem decDispatch_starts {au : AuFacts} (hc : s.coreOn = true) (hi : s.decCandidate = some i) (ha : s.recordBase i = some a)
    (hbegins : s.recordTake i a au = (s, true)) (ht : s.pipeTakes n (s.g (Reg.DEC.CTX.CLASS i)) = true) :
    decDispatch n au s = s.jobStart n i a s.clock au := by
  simp [decDispatch, State.takeRecord, hc, hi, ha, hbegins, ht]

theorem decDispatch_resumes (au : AuFacts) (hc : s.coreOn = true) (hnone : s.decCandidate = none) :
    decDispatch n au s = s.pipeResume n := by
  simp [decDispatch, hc, hnone]

/-! ### Preemption (R139, R144) -/

/-- What a slice boundary of job `j` on pipe `n` shows of the job's picture, where it shows any. -/
def State.fronted (s : State) (n : Nat) (j : DecJob) (front : Option DecEnd) : State :=
  (front.map (fun e => s.jobFront n j e)).getD s

theorem State.fronted_jobsStay (s : State) (hn : n < 8) (j : DecJob) (front : Option DecEnd) : JobsStay s (s.fronted n j front) := by
  cases front with
  | none => exact JobsStay.refl s
  | some e => exact State.jobFront_jobsStay (JobsStay.refl s) hn j e

/-- A ready LIVE record that no pipe can take displaces the job of the pipe selected. -/
theorem decPreempt_displaces {t : DecTurn} {y : State} (hc : s.coreOn = true) (hj : (s.dpipe n).job = some j) (hg : j.gone = false)
    (hy : s.fronted n j t.front = y) (hi : y.decCandidate = some i) (ha : y.recordBase i = some a)
    (hbegins : y.recordTake i a t.au = (y, true)) (hlive : y.g (Reg.DEC.CTX.CLASS i) = 0) (hv : y.victim = some n)
    (hfull : (List.range 8).all (fun k => !y.pipeTakes k 0) = true) :
    decPreempt n t s = (y.jobSave n j).jobStart n i a ((y.jobSave n j).dpipe n).times.till t.au := by
  unfold decPreempt
  rw [hj]
  dsimp -zeta only
  rw [if_neg (by simp [hc]), if_neg (by simp [hg])]
  extract_lets z
  have hz : z = y := by
    rw [← hy]
    unfold z State.fronted
    cases t.front <;> rfl
  rw [hz, hi]
  dsimp -zeta only
  rw [ha]
  dsimp -zeta only
  rw [hbegins, if_pos (by rw [hlive, hv, hfull]; simp)]

/-- The running job of a pipe is held in its save area, counted in PREEMPTS. -/
theorem State.jobSave_saves (s : State) (hn : n < 8) (hctx : j.ctx < 512) :
    ((s.jobSave n j).dpipe n).susp.map (fun j => j.ctx) = some j.ctx ∧
      (s.jobSave n j).g (Reg.DEC.PREEMPTS.COUNT n) = (s.g (Reg.DEC.PREEMPTS.COUNT n) + 1) % 2 ^ 32 ∧
      (s.jobSave n j).g (Reg.DEC.CTX.STATE j.ctx) = 5 := by
  unfold State.jobSave
  extract_lets x at_ y base z
  have hy : PipeSet n { x with
      job := none, susp := some { j with used := j.cycles s.clock }, times := (s.dpipeLeft n).phased 3 at_ } s y :=
    (s.setDpipe_pipeSet n _).trans (State.codecEnds_jobsStay (JobsStay.refl _).same)
  have hz := hy.trans (show JobsStay y z from
    .ite (State.storeFree_jobsStay (JobsStay.refl y) _ _) (JobsStay.refl y))
  refine ⟨congrArg (fun p : DecPipe => p.susp.map (fun j => j.ctx)) hz.pipe, ?_,
    State.g_p_val _ (Reg.DEC.CTX.STATE j.ctx) 5 (by dsimp only; omega)⟩
  rw [State.g_p_other _ _ _ _ (.inl (by dsimp only; omega)), State.inc_g_same _ _ rfl, hz.g _]

/-! ### A job ends (R130, R154) -/

/-- From `s` to `t` job `j` of pipe `n` ends: the pipe is free, the job counts, its context is active again. -/
structure JobEnds (n : Nat) (j : DecJob) (s t : State) : Prop where
  job : (t.dpipe n).job = none
  susp : (t.dpipe n).susp = (s.dpipe n).susp
  jobs : t.g (Reg.DEC.JOBS.COUNT n) = (s.g (Reg.DEC.JOBS.COUNT n) + 1) % 2 ^ 32
  aborts : t.g (Reg.DEC.ABORTS.COUNT n) = s.g (Reg.DEC.ABORTS.COUNT n)
  state : t.g (Reg.DEC.CTX.STATE j.ctx) = 2
  faults : t.dec.faults = s.dec.faults
  mode : t.pwr.mode = s.pwr.mode

theorem State.jobEnd_ends (s : State) (hn : n < 8) (hctx : j.ctx < 512) (aborted : Bool) (hush : Option Nat) (e : DecEnd) :
    JobEnds n j s (s.jobEnd n j aborted hush e) := by
  unfold State.jobEnd
  extract_lets i x p y z
  have hx : JobsStay s x := State.countLoad_jobsStay
    (State.jobPicture_jobsStay (State.busTraffic_jobsStay (JobsStay.refl s) _) hn _ _ _) _ _
  have hset := (hx.pipeSet (x.setDpipe_pipeSet n { p with job := none, times := x.dpipeLeft n })).trans
    (State.codecEnds_jobsStay (JobsStay.refl _))
  have hrest : JobsStay (y.p (Reg.DEC.CTX.STATE i) 2) (((z.picsDrop i e.dropped).dpbKeep i e.keeps).rowsShown i e.next) :=
    State.rowsShown_jobsStay (State.dpbKeep_jobsStay (State.picsDrop_jobsStay (State.picsOut_jobsStay
      (State.consumeRecord_jobsStay (JobsStay.refl _) hctx) hctx _ _ _) _ _) _ _) _ _
  have hpipe := (hrest.dpipe n).trans ((y.p_dpipe _ _ n).trans ((State.inc_dpipe _ _ n).trans hset.pipe))
  have hsusp : p.susp = (s.dpipe n).susp := congrArg DecPipe.susp (hx.dpipe n)
  refine ⟨?_, ?_, ?_, ?_, ?_, ?_, ?_⟩
  · rw [hpipe]
  · rw [hpipe, hsusp]
  · rw [hrest.g _, State.g_p_other _ _ _ _ (.inl (by dsimp only [i]; omega)), State.inc_g_same _ _ rfl, hset.g _]
  · rw [hrest.g _, State.g_p_other _ _ _ _ (.inl (by dsimp only [i]; omega)), State.inc_g_other _ _ _ (by dsimp only; omega), hset.g _]
  · rw [hrest.g _ (by dsimp only [jobAddr]; omega), State.g_p_val _ _ _ (by dsimp only; omega)]
  · rw [hrest.faults, State.p_dec, State.inc_dec, hset.faults]
  · rw [hrest.mode, State.p_pwr, State.inc_pwr, hset.mode]

theorem decJobDone_ends (e : DecEnd) (hc : s.coreOn = true) (hj : (s.dpipe n).job = some j) (hg : j.gone = false) (hn : n < 8)
    (hctx : j.ctx < 512) : JobEnds n j s (decJobDone n e s) := by
  have hdone : decJobDone n e s = (s.setDctx j.ctx { s.dctx j.ctx with aborted := 0 }).jobEnd n j false none e := by
    simp [decJobDone, hj, hc, hg]
  obtain ⟨hjob, hsusp, hjobs, haborts, hstate, hfaults, hmode⟩ :=
    (s.setDctx j.ctx { s.dctx j.ctx with aborted := 0 }).jobEnd_ends hn hctx false none e
  rw [hdone]
  exact ⟨hjob, hsusp, hjobs, haborts, hstate, hfaults, hmode⟩

/-- The end of a codec job is noted at the memory controllers alone. -/
theorem State.codecEnds_stays (s : State) : ∃ bus, s.codecEnds = { s with bus := bus } :=
  List.foldlRecOn (motive := fun t : State => ∃ bus, t = { s with bus := bus }) _ _ ⟨s.bus, rfl⟩ fun t ⟨bus, ht⟩ k _ => by
    rw [ht]
    exact ⟨_, rfl⟩

/-- A job whose context has stopped leaves its pipe, and all but that pipe and the memory controllers stays. -/
theorem decJobDone_gone (e : DecEnd) (hc : s.coreOn = true) (hj : (s.dpipe n).job = some j) (hg : j.gone = true) :
    ∃ bus times, decJobDone n e s = { s.setDpipe n { s.dpipe n with job := none, times := times } with bus := bus } := by
  have hdone : decJobDone n e s = s.jobGone n := by simp [decJobDone, hj, hc, hg]
  obtain ⟨bus, hbus⟩ := (s.setDpipe n { s.dpipe n with job := none, times := s.dpipeLeft n }).codecEnds_stays
  exact ⟨bus, s.dpipeLeft n, hdone.trans hbus⟩

end Jobs

/-- Settles O27, by what the start, the suspension and the end of a job make of a pipe. That a preemption starts the LIVE job, that the
restoring of a job takes at most 30 µs, and that a stopped context's job leaves its pipe uncounted are the model's choices (log
entry 49). -/
theorem decodeJobs : Obligations.DecodeJobs := by
  refine ⟨fun dt n au i a s hc hi ha hst hsps hrasl href ht => ?_, fun dt n au j s hc hnone hj hs hp _ => ?_,
    fun dt n turn i a j s hc hj hg hctx hi ha hst hlive hv hfull hsps hrasl href => ?_,
    fun dt n e j s hc hj hg hctx => ?_, fun dt n e j s hc hj hg => ?_⟩
  · have hbegins := State.recordTake_begins (s := s.advance dt) (a := a) (by simpa using hst) hsps hrasl href
    have hdispatch := decDispatch_starts (s := s.advance dt) (by simpa using hc) (by simpa using hi) (by simpa using ha) hbegins
      (by simpa using ht)
    obtain ⟨hctx, hsusp, hstate, _⟩ := (s.advance dt).jobStart_starts n.val (State.decCandidate_hasWork hi).1 a (s.advance dt).clock au
    exact ⟨_, congrArg Host.Outcome.next hdispatch, hctx, hsusp.trans (by simp), hstate⟩
  · have hdispatch := decDispatch_resumes (n := n.val) (s := s.advance dt) au (by simpa using hc) (by simpa using hnone)
    obtain ⟨⟨d, hd, hjob⟩, hsusp, hstate⟩ := State.pipeResume_resumes (s := s.advance dt) (n := n.val) (by simpa using hj)
      (by simpa using hs) (by simpa using hp)
    exact ⟨_, congrArg Host.Outcome.next hdispatch, ⟨d, hd, by simpa using hjob⟩, hsusp, hstate⟩
  · have hstays := (s.advance dt).fronted_jobsStay n.isLt j turn.front
    have hpreempt := decPreempt_displaces (s := s.advance dt) (by simpa using hc) (by simpa using hj) hg rfl hi ha
      (State.recordTake_begins hst hsps hrasl href) hlive hv hfull
    obtain ⟨hi512, _⟩ := State.decCandidate_hasWork hi
    have hruns : (((s.advance dt).fronted n.val j turn.front).dpipe n.val).job = some j := by
      rw [hstays.dpipe, State.advance_dpipe, hj]
    have hne : i ≠ j.ctx := State.decCandidate_ne_ctx hi n.isLt hruns
    obtain ⟨hheld, hcount, hstate⟩ := ((s.advance dt).fronted n.val j turn.front).jobSave_saves n.isLt hctx
    obtain ⟨hrun, hsusp, _, hothers⟩ := State.jobStart_starts (((s.advance dt).fronted n.val j turn.front).jobSave n.val j) n.val
      hi512 a ((((s.advance dt).fronted n.val j turn.front).jobSave n.val j).dpipe n.val).times.till turn.au
    refine ⟨_, congrArg Host.Outcome.next hpreempt, ?_, hrun, by rw [hsusp, hheld], ?_⟩
    · rw [hothers _ (by dsimp only [jobAddr]; omega) (by dsimp only; omega), hcount, hstays.g _, State.advance_g]
    · rw [hothers _ (by dsimp only [jobAddr]; omega) (by dsimp only; omega), hstate]
  · obtain ⟨hjob, hsusp, hjobs, _, hstate, _, _⟩ := decJobDone_ends (s := s.advance dt) e (by simpa using hc) (by simpa using hj) hg
      n.isLt hctx
    exact ⟨_, rfl, hjob, hsusp.trans (by simp), hjobs.trans (by simp), hstate⟩
  · obtain ⟨bus, times, hgone⟩ := decJobDone_gone (s := s.advance dt) e (by simpa using hc) (by simpa using hj) hg
    refine ⟨_, congrArg Host.Outcome.next hgone, ?_, s.advance_g dt _, s.advance_srcs dt, ?_, s.advance_byte dt⟩
    · exact congrArg DecPipe.job ((s.advance dt).setDpipe_pipeSet n.val _).pipe
    · show (s.advance dt).dec.ctxs = s.dec.ctxs
      rw [State.advance_dec]

end Sys2Proof.Machine
end

section
/-! PROOF. Aborts of decode jobs, the enabling of pipes and the decode block's own registers: what a watchdog or an access fault makes
of a job, what a write of CTRL makes of a pipe and of the MEDIA PLL, the reading of the fault log and of the load (R146 to R149,
R155, R475). -/

-- One lemma after the other: elaborated side by side, they take more threads than the memory of the check holds.
set_option Elab.async false

namespace Sys2Proof.Machine

/-! ### Aborts (R148, R149) -/

section Aborts

variable {s₀ s : State} {n : Nat} {j : DecJob}

theorem State.dramUncorr_jobsStay (h : JobsStay s₀ s) (a : Nat) : JobsStay s₀ (s.dramUncorr a) := by
  unfold State.dramUncorr
  extract_lets ch x y
  have hx : JobsStay s₀ x := State.p_jobsStay h (Reg.DMC.CH.LECC_UNCORR (ch / 2) (ch % 2)) _
  have hy : JobsStay s₀ y := State.p_jobsStay (State.p_jobsStay hx (Reg.DMC.CH.ERR_ADDR_LO (ch / 2) (ch % 2)) _)
    (Reg.DMC.CH.ERR_ADDR_HI (ch / 2) (ch % 2)) _
  exact State.raise_jobsStay hy _ _

theorem State.memError_jobsStay (h : JobsStay s₀ s) {m : Nat} (hm : m < 64) (own a : Nat) : JobsStay s₀ (s.memError m own a) := by
  unfold State.memError
  extract_lets q
  split
  · exact h.aside (State.busFail_aside (Aside.refl s) _ hm)
  · have hx := h.aside (State.errLog_aside (Aside.refl s) (dataRecord s Rsn.ecc m a 1 false q 0))
    exact .ite (State.dramUncorr_jobsStay hx a) hx

/-- From `s` to `t` the job of pipe `n` is aborted: the pipe is free, the abort counts, EV_DEC_FAULT stands, and the fault log holds
`faults`. -/
structure JobAborts (n : Nat) (faults : List DecFault) (s t : State) : Prop where
  job : (t.dpipe n).job = none
  aborts : t.g (Reg.DEC.ABORTS.COUNT n) = (s.g (Reg.DEC.ABORTS.COUNT n) + 1) % 2 ^ 32
  faults : t.dec.faults = faults
  event : t.evStatus Ev.decFault = true

/-- What leaves the decode jobs before an abort leaves what the abort makes. -/
theorem JobsStay.jobAborts {t : State} {fs : List DecFault} (h : JobsStay s₀ s) (hn : n < 8) (k : JobAborts n fs s t) :
    JobAborts n fs s₀ t :=
  ⟨k.job, by rw [k.aborts, h.g _], k.faults, k.event⟩

theorem State.decAbandon_aborts (cause : Nat) (e : DecEnd) (hc : s.coreOn = true) (hj : (s.dpipe n).job = some j)
    (hg : j.gone = false) (hn : n < 8) (hctx : j.ctx < 512) : JobAborts n s.dec.faults s (s.decAbandon n cause e) := by
  unfold State.decAbandon
  rw [hj]
  dsimp -zeta only
  extract_lets i x p y c z w u v
  have hset : PipeSet n { p with times := p.times.phased 5 (x.clock + x.freeNs 20000) } s y :=
    ((State.masterReset_jobsStay (JobsStay.refl s) _).pipeSet (x.setDpipe_pipeSet n _)).trans (JobsStay.refl _).same
  have hz := hset.trans (State.setDctx_jobsStay (JobsStay.refl y) i { y.dctx i with aborted := (y.dctx i).aborted + 1 })
  have hends : JobEnds n j z w := z.jobEnd_ends hn hctx true (some j.pic) e
  have hu : JobsStay (w.inc (Reg.DEC.ABORTS.COUNT n)) u := State.p_jobsStay (JobsStay.refl _) (Reg.DEC.CTX.ABORTS i) _
  have hv : JobsStay u v := State.raise_jobsStay (State.raise_jobsStay (JobsStay.refl u) _ _) _ _
  have hcore : u.coreOn = true := by
    rw [hu.coreOn, ← hc]
    unfold State.coreOn
    rw [State.inc_pwr, hends.mode, hz.mode]
  have hevent : v.evStatus Ev.decFault = true := State.raise_keepsStanding _ _ _ _ (by decide)
    (State.raise_stands u Ev.decFault _ (by decide) hcore)
  have hv' : JobAborts n s.dec.faults s v := by
    refine ⟨?_, ?_, ?_, hevent⟩
    · rw [hv.dpipe, hu.dpipe, State.inc_dpipe, hends.job]
    · rw [hv.g _, hu.g _, State.inc_g_same _ _ rfl, hends.aborts, hz.g _]
    · rw [hv.faults, hu.faults, State.inc_dec, hends.faults, hz.faults]
  rw [if_neg (by simp [hg])]
  split
  · refine ⟨hv'.job, ?_, hv'.faults, State.p_stands v (.inr (by dsimp only; omega)) _ _ (by decide) hevent⟩
    exact (State.g_p_other v (Reg.DEC.CTX.STATE i) _ _ (.inl (by dsimp only; omega))).trans hv'.aborts
  · exact hv'

/-- While the fault log has room, an abort is recorded there. -/
theorem State.decAbort_aborts (cause addr : Nat) (e : DecEnd) (hc : s.coreOn = true) (hj : (s.dpipe n).job = some j)
    (hg : j.gone = false) (hn : n < 8) (hctx : j.ctx < 512) (hroom : s.dec.faults.length < 16) :
    JobAborts n (s.dec.faults ++ [⟨n, j.ctx, cause, addr, j.seq⟩]) s (s.decAbort n cause addr e) := by
  unfold State.decAbort State.decLog
  rw [hj]
  dsimp only
  rw [if_neg (by simp [hg]), if_pos hroom]
  obtain ⟨hjob, haborts, hfaults, hevent⟩ := State.decAbandon_aborts (n := n) (j := j)
    (s := { s with dec := { s.dec with faults := s.dec.faults ++ [⟨n, j.ctx, cause, addr, j.seq⟩] } }) cause e hc hj hg hn hctx
  exact ⟨hjob, haborts, hfaults, hevent⟩

/-- A job at its limit of cycles is aborted. -/
theorem decWatchdog_aborts (e : DecEnd) (hc : s.coreOn = true) (hj : (s.dpipe n).job = some j)
    (hlimit : j.limit ≤ j.cycles s.clock) : decWatchdog n e s = s.decAbort n 3 0 e := by
  simp [decWatchdog, hj, hc, hlimit]

@[simp] theorem State.advance_decWindow (s : State) (dt n : Nat) (j : DecJob) (a : Nat) (write : Bool) :
    (s.advance dt).decWindow n j a write = s.decWindow n j a write := by
  simp [State.decWindow, State.dctx, State.bufPic, State.bufEnd]

/-- The cause of the fault record that an access fault makes (R155). -/
def faultCause : JobFault → Nat
  | .sbxRead => 1
  | .sbxWrite => 2
  | .storeEcc => 4
  | .busError => 5

/-- An access outside the windows, an error of memory inside them or an uncorrectable word of the store aborts the job, after what the
error of memory itself leaves. -/
theorem decAccessFault_aborts {f : JobFault} {a : Nat} (e : DecEnd) (hc : s.coreOn = true) (hj : (s.dpipe n).job = some j)
    (hn : n < 8) (hread : f = .sbxRead → s.decWindow n j a false = false) (hwrite : f = .sbxWrite → s.decWindow n j a true = false)
    (hbus : f = .busError → s.decWindow n j a false = true ∨ s.decWindow n j a true = true) :
    ∃ x, JobsStay s x ∧ decAccessFault n f a e s = x.decAbort n (faultCause f) (if f = .storeEcc then 0 else a) e := by
  cases f with
  | sbxRead => exact ⟨s, JobsStay.refl s, by simp [decAccessFault, hj, hc, hread rfl, faultCause]⟩
  | sbxWrite => exact ⟨s, JobsStay.refl s, by simp [decAccessFault, hj, hc, hwrite rfl, faultCause]⟩
  | storeEcc => exact ⟨s, JobsStay.refl s, by simp [decAccessFault, hj, hc, faultCause]⟩
  | busError =>
    refine ⟨s.memError (25 + n) (classQos j.cls) a, State.memError_jobsStay (JobsStay.refl s) (by omega) _ _, ?_⟩
    simp [decAccessFault, hj, hc, hbus rfl, faultCause]

/-- An access inside a window that takes it is no violation. -/
theorem decAccessFault_taken {f : JobFault} {a : Nat} (e : DecEnd) (hj : (s.dpipe n).job = some j)
    (h : (f = .sbxRead ∧ s.decWindow n j a false = true) ∨ (f = .sbxWrite ∧ s.decWindow n j a true = true)) :
    decAccessFault n f a e s = s := by
  rcases h with ⟨rfl, hw⟩ | ⟨rfl, hw⟩ <;> simp [decAccessFault, hj, hw]

end Aborts

/-! ### The PLLs on request (R475) -/

/-- PLL `k` as a refresh of the clocks leaves it. -/
def State.pllStep (s : State) (k : Nat) : State :=
  if s.pllWanted k then
    { s with clk := { s.clk with idleAt := Tab.put none k none s.clk.idleAt } }.p Reg.CLK.RUNNING (s.g Reg.CLK.RUNNING ||| 2 ^ k)
  else if (s.g Reg.CLK.RUNNING).testBit k && (Tab.get none k s.clk.idleAt).isNone then
    { s with clk := { s.clk with idleAt := Tab.put none k (some s.clock) s.clk.idleAt } }
  else s

theorem State.clkRefresh_eq (s : State) : s.clkRefresh = pllsOnRequest.foldl State.pllStep s := rfl

/-- From `s` to `t` nothing changes but what the clocks hold and CLK.RUNNING, as far as a pipe's enabling asks. -/
structure ClocksMove (s t : State) : Prop where
  g : ∀ f : FRef, Reg.CLK.RUNNING.addr ≠ f.addr → t.g f = s.g f
  dec : t.dec = s.dec
  mem : t.mem = s.mem

theorem State.pllStep_clocksMove {s₀ s : State} (h : ClocksMove s₀ s) (k : Nat) : ClocksMove s₀ (s.pllStep k) := by
  obtain ⟨hg, hdec, hmem⟩ := h
  unfold State.pllStep
  split
  · exact ⟨fun f hf => (State.g_p_other _ _ _ _ (.inl hf)).trans (hg f hf), hdec, hmem⟩
  · split <;> exact ⟨hg, hdec, hmem⟩

theorem State.clkRefresh_clocksMove (s : State) : ClocksMove s s.clkRefresh := by
  rw [State.clkRefresh_eq]
  exact List.foldlRecOn (motive := ClocksMove s) pllsOnRequest State.pllStep ⟨fun _ _ => rfl, rfl, rfl⟩
    fun _ ht k _ => State.pllStep_clocksMove ht k

/-- A PLL that runs, or that is requested at its turn, runs after the turn of any. -/
theorem State.pllStep_running {s : State} {k i : Nat} (hi : i < 16)
    (h : (s.g Reg.CLK.RUNNING).testBit i = true ∨ (k = i ∧ s.pllWanted k = true)) :
    ((s.pllStep k).g Reg.CLK.RUNNING).testBit i = true := by
  unfold State.pllStep
  split
  · have hor : (s.g Reg.CLK.RUNNING ||| 2 ^ k).testBit i = true := by
      rw [Nat.testBit_or]
      rcases h with h | ⟨rfl, _⟩
      · rw [h, Bool.true_or]
      · rw [Nat.testBit_two_pow_self, Bool.or_true]
    rw [State.g_p_same _ _ _ (by decide), Nat.testBit_mod_two_pow, hor, decide_eq_true hi, Bool.and_self]
  · next hno =>
    have hrun := h.resolve_right fun ⟨_, hw⟩ => hno hw
    split <;> exact hrun

/-- The MEDIA PLL runs once it is requested. -/
theorem State.clkRefresh_media {s : State} (h : s.pllWanted 3 = true) : (s.clkRefresh.g Reg.CLK.RUNNING).testBit 3 = true := by
  rw [State.clkRefresh_eq, pllsOnRequest, List.foldl_cons]
  exact List.foldlRecOn (motive := fun t : State => (t.g Reg.CLK.RUNNING).testBit 3 = true) _ State.pllStep
    (State.pllStep_running (by decide) (.inr ⟨rfl, h⟩)) fun t ht k _ => State.pllStep_running (by decide) (.inl ht)

/-! ### Pipes enabled and disabled (R155) -/

section Pipes

variable {s : State} {n : Nat}

theorem decCtrlWrite_enables (m : Nat) (h : s.inDram (4096 * s.g (Reg.DEC.SAVE_BASE.ADDR n)) 262144 = true) :
    decCtrlWrite m n 1 s = (s.pb (Reg.DEC.CTRL.ENABLE n) true).clkRefresh := by
  unfold decCtrlWrite
  rw [if_neg (by decide), if_pos h]

theorem decCtrlWrite_refuses (m : Nat) (h : s.inDram (4096 * s.g (Reg.DEC.SAVE_BASE.ADDR n)) 262144 = false) :
    decCtrlWrite m n 1 s = ((s.pb (Reg.DEC.CTRL.ENABLE n) false).clkRefresh).logIgnored m (Reg.DEC.CTRL.ENABLE n).addr 1 := by
  unfold decCtrlWrite
  rw [if_neg (by decide), if_neg (by simp [h])]

theorem decCtrlWrite_disables (m : Nat) : decCtrlWrite m n 0 s = (s.pb (Reg.DEC.CTRL.ENABLE n) false).clkRefresh := by
  unfold decCtrlWrite
  rw [if_pos (by decide)]

/-- ENABLE of a pipe reads as it was set, whatever clocks that starts or times. -/
theorem State.clkRefresh_pipeEnable (s : State) (n : Nat) (b : Bool) :
    (s.pb (Reg.DEC.CTRL.ENABLE n) b).clkRefresh.gb (Reg.DEC.CTRL.ENABLE n) = b := by
  rw [State.gb, (State.clkRefresh_clocksMove _).g _ (by dsimp only; omega), ← State.gb, State.gb_pb_val _ _ _ (by dsimp only; omega)]

/-- An enabled decode pipe requests the MEDIA PLL. -/
theorem State.pllWanted_media (hn : n < 8) (h : s.gb (Reg.DEC.CTRL.ENABLE n) = true) : s.pllWanted 3 = true := by
  unfold State.pllWanted
  rw [if_pos rfl, Bool.or_eq_true]
  exact .inl (List.any_eq_true.2 ⟨n, List.mem_range.2 hn, h⟩)

/-- An access served leaves where a pipe's save area lies. -/
theorem State.served_saveArea (s : State) (dt m n : Nat) :
    (((s.advance dt).ctlServed m).respond false []).inDram
      (4096 * (((s.advance dt).ctlServed m).respond false []).g (Reg.DEC.SAVE_BASE.ADDR n)) 262144 =
        s.inDram (4096 * s.g (Reg.DEC.SAVE_BASE.ADDR n)) 262144 := by
  rw [s.served_g dt m (Reg.DEC.SAVE_BASE.ADDR n) (.inr (.inr (by dsimp only; omega)))]
  exact State.inDram_congr (fun f hf => s.served_g dt m f (.inr (.inr hf))) _ _

end Pipes

/-! ### The fault log and the load (R146, R155) -/

@[simp] theorem State.answer_dec (r : State × Word) (m : Nat) : (State.answer r m).dec = r.1.dec := rfl

/-- A read of the fault log takes its oldest record, and captures its SEQUENCE. -/
theorem decFaultRead_oldest {s : State} {f : DecFault} {rest : List DecFault} (m : Nat) (h : s.dec.faults = f :: rest) :
    (decFaultRead m s).1.dec.faults = rest ∧
      (decFaultRead m s).2 = BitVec.ofNat 32 (2 ^ 31 + f.ctx * 2 ^ 16 + f.pipe * 2 ^ 8 + f.cause) ∧
      (decFaultRead m s).1.snap m 0x10208020 = BitVec.ofNat 32 f.seq := by
  unfold decFaultRead
  rw [h]
  exact ⟨rfl, rfl, State.snap_setSnap_same _ _ _ _⟩

theorem State.decLoad_lt (s : State) : s.decLoad < 2 ^ 13 := Nat.lt_succ_of_le (Nat.min_le_left _ _)

/-- PEAK_CLR leaves the present load in PEAK_MPIX, and nothing else. -/
theorem decLoadWrite_clears (s : State) :
    (decLoadWrite 0x80000000 s).g Reg.DEC.LOAD.PEAK_MPIX = s.decLoad ∧ (decLoadWrite 0x80000000 s).dec = s.dec := by
  unfold decLoadWrite
  rw [if_pos (by decide)]
  exact ⟨State.g_p_val _ _ _ ⟨by decide, s.decLoad_lt⟩, rfl⟩

/-- Settles O28, by what an abort makes of a job, what a write of CTRL makes of the clocks, and the words of the fault log and the load (log
entry 49). -/
theorem decodeAbortsAndPipes : Obligations.DecodeAbortsAndPipes := by
  refine ⟨fun dt n e j s hc hj hg hctx hlimit hroom => ?_, fun dt n f a e j s hc hj hg hctx hroom hread hwrite hbus => ?_,
    fun dt n f a e j s _ hj hw => ?_, fun dt m n s hc hw hin => ?_, fun dt m n s hc hw hin => ?_, fun dt m n s hc hw => ?_,
    fun dt m f rest s hc hr hq => ?_, fun dt m s hc hw => ?_⟩
  · have hdog := decWatchdog_aborts (s := s.advance dt) e (by simpa using hc) (by simpa using hj) (by simpa [DecJob.cycles] using hlimit)
    obtain ⟨hjob, haborts, hfaults, hevent⟩ := State.decAbort_aborts (s := s.advance dt) 3 0 e (by simpa using hc) (by simpa using hj)
      hg n.isLt hctx (by simpa using hroom)
    exact ⟨_, congrArg Host.Outcome.next hdog, hjob, haborts.trans (by simp), hfaults.trans (by simp), hevent⟩
  · obtain ⟨x, hx, hfault⟩ := decAccessFault_aborts (s := s.advance dt) (f := f) (a := a.toNat) e (by simpa using hc)
      (by simpa using hj) n.isLt (by simpa using hread) (by simpa using hwrite) (by simpa using hbus)
    have haborts := State.decAbort_aborts (s := x) (faultCause f) (if f = .storeEcc then 0 else a.toNat) e
      (by rw [hx.coreOn, State.advance_coreOn, hc]) (by rw [hx.dpipe, State.advance_dpipe, hj]) hg n.isLt hctx
      (by rw [hx.faults, State.advance_dec]; exact hroom)
    obtain ⟨hjob, hcount, hfaults, hevent⟩ := hx.jobAborts n.isLt haborts
    refine ⟨_, congrArg Host.Outcome.next hfault, hjob, hcount.trans (by simp), ?_, hevent⟩
    rw [hfaults, hx.faults, State.advance_dec]
    cases f <;> rfl
  · exact ⟨_, congrArg Host.Outcome.next (decAccessFault_taken (s := s.advance dt) e (by simpa using hj) (by simpa using hw)), rfl⟩
  · have hserved := State.ctlWrite_served dt (v := 1) (act := decCtrlWrite m.val n.val 1) hc hw
    rw [decCtrlWrite_enables _ ((s.served_saveArea dt m.val n.val).trans hin)] at hserved
    exact ⟨_, congrArg Host.Outcome.next hserved, State.clkRefresh_pipeEnable _ _ _,
      State.clkRefresh_media (State.pllWanted_media n.isLt (State.gb_pb_val _ _ _ (by dsimp only; omega)))⟩
  · have hserved := State.ctlWrite_served dt (v := 1) (act := decCtrlWrite m.val n.val 1) hc hw
    rw [decCtrlWrite_refuses _ ((s.served_saveArea dt m.val n.val).trans hin)] at hserved
    refine ⟨_, congrArg Host.Outcome.next hserved, ?_⟩
    rw [State.gb, State.logIgnored_g _ _ _ _ (.inr (.inr (by dsimp only; omega)))]
    exact State.clkRefresh_pipeEnable _ _ _
  · have hserved := State.ctlWrite_served dt (v := 0) (act := decCtrlWrite m.val n.val 0) hc hw
    rw [decCtrlWrite_disables] at hserved
    obtain ⟨_, hdec, hmem⟩ := State.clkRefresh_clocksMove
      ((((s.advance dt).ctlServed m.val).respond false []).pb (Reg.DEC.CTRL.ENABLE n.val) false)
    refine ⟨_, congrArg Host.Outcome.next hserved, State.clkRefresh_pipeEnable _ _ _, ?_, State.byte_congr (hmem.trans (by simp))⟩
    unfold State.dpipe
    rw [hdec]
    simp
  · obtain ⟨hrest, hword, hsnap⟩ := decFaultRead_oldest (s := s.advance dt) m.val (by simpa using hq)
    refine ⟨_, congrArg Host.Outcome.next (State.ctlRead_served dt hc hr), hrest, ?_, (State.answer_snap _ _ _).trans hsnap⟩
    rw [State.answer_resp, hword]
  · have hserved := State.ctlWrite_served dt (v := 0x80000000) (act := decLoadWrite 0x80000000) hc hw
    obtain ⟨hpeak, hdec⟩ := decLoadWrite_clears (((s.advance dt).ctlServed m.val).respond false [])
    exact ⟨_, congrArg Host.Outcome.next hserved, hpeak, hdec.trans (by simp)⟩

end Sys2Proof.Machine
end

section
/-! PROOF. What a transfer of a device's master leaves: all that the machine holds beside memory, the matrix and the controllers behind
it, events, the sequencer and custody; and the system events that stand (R38, R404, R411, R416). -/

-- One lemma after the other: elaborated side by side, they take more threads than the memory of the check holds.
set_option Elab.async false

namespace Sys2Proof.Machine

/-! ### The relation -/

/-- A register of none of the blocks that note a transfer: the event block, the error log, the matrix and the sequencer. -/
def calmAddr (a : Nat) : Prop := a < 0x10040000 ∨ (0x10060000 ≤ a ∧ a < 0x100A0000) ∨ 0x100C0000 ≤ a

theorem quietAddr_of_calmAddr {a : Nat} (h : calmAddr a) : quietAddr a := by
  unfold calmAddr at h
  unfold quietAddr
  omega

/-- The state without its registers and without what a transfer may change beside them. -/
def State.still (s : State) : State :=
  { s with regs := [], mem := [], eccBad := [], bus := State.reset.bus, evt := State.reset.evt, seq := State.reset.seq,
           cus := State.reset.cus, dmc := State.reset.dmc }

/-- From `s` to `t` stay the registers of the blocks that note no transfer and all that those blocks hold beside them, and no system
event's STATUS bit falls. -/
structure Transferred (s t : State) : Prop where
  reg : ∀ a, calmAddr a → t.reg a = s.reg a
  rest : t.still = s.still
  stands : Stands s t

theorem Transferred.refl (s : State) : Transferred s s := ⟨fun _ _ => rfl, rfl, Stands.refl s⟩

section Rules

variable {s₀ s t : State}

theorem Transferred.trans (h : Transferred s₀ s) (k : Transferred s t) : Transferred s₀ t :=
  ⟨fun a ha => (k.reg a ha).trans (h.reg a ha), k.rest.trans h.rest, h.stands.trans k.stands⟩

theorem Transferred.g (h : Transferred s t) {f : FRef} (hf : calmAddr f.addr) : t.g f = s.g f := by
  unfold State.g
  rw [h.reg _ hf]

theorem Transferred.pwr (h : Transferred s t) : t.pwr = s.pwr := (congrArg State.pwr h.rest :)

theorem Transferred.time (h : Transferred s t) : t.time = s.time := (congrArg State.time h.rest :)

theorem Transferred.cap (h : Transferred s t) : t.cap = s.cap := (congrArg State.cap h.rest :)

/-- An update of what a transfer may change beside the registers. -/
theorem Transferred.same (h : Transferred s₀ s) (hr : t.regs = s.regs := by rfl) (hs : t.still = s.still := by rfl) : Transferred s₀ t :=
  h.trans ⟨fun a _ => State.reg_congr hr a, hs, Stands.of_eq fun _ _ => State.g_congr hr _⟩

theorem Transferred.ite {c : Prop} [Decidable c] (hs : Transferred s₀ s) (ht : Transferred s₀ t) : Transferred s₀ (if c then s else t) := by
  split
  · exact hs
  · exact ht

theorem Transferred.itePair {α : Type} {c : Prop} [Decidable c] {p q : State × α} (hp : Transferred s₀ p.1) (hq : Transferred s₀ q.1) :
    Transferred s₀ (if c then p else q).1 := by
  split
  · exact hp
  · exact hq

theorem Transferred.fold {α : Type} {f : State → α → State} (l : List α) (h : Transferred s₀ s)
    (hf : ∀ s x, Transferred s₀ s → Transferred s₀ (f s x)) : Transferred s₀ (l.foldl f s) :=
  List.foldlRecOn (motive := Transferred s₀) l f h fun s hs x _ => hf s x hs

theorem Aside.still (h : Aside s t) : t.still = s.still := by
  obtain ⟨_, hclock, hpwr, hclk, htime, heng, hengMem, hpins, hflash, himg, _, hheads, hbufs, hsrcs, hrel, hlanes, hquads, hdp, htzl,
    hnet, hdec, hcap, henc, htch, _, hboot, hhost, hfree, hpending⟩ := h
  unfold State.still
  rw [hclock, hpwr, hclk, htime, heng, hengMem, hpins, hflash, himg, hheads, hbufs, hsrcs, hrel, hlanes, hquads, hdp, htzl, hnet, hdec,
    hcap, henc, htch, hboot, hhost, hfree, hpending]

/-- What records, responses and events leave. -/
theorem Transferred.aside (h : Transferred s₀ s) (ha : Aside s t) (hs : Stands s t) : Transferred s₀ t :=
  h.trans ⟨fun a hp => ha.reg a (quietAddr_of_calmAddr hp), ha.still, hs⟩

/-! ### Fields, records and events -/

theorem State.p_transferred (h : Transferred s₀ s) (f : FRef) (v : Nat)
    (hf : 0x10040088 ≤ f.addr ∧ ¬ calmAddr f.addr := by unfold calmAddr; decide) : Transferred s₀ (s.p f v) :=
  h.trans ⟨fun _ ha => State.reg_p_ne s v fun e => hf.2 (e ▸ ha), rfl, State.p_stands s (.inr hf.1) v⟩

theorem State.errLog_transferred (h : Transferred s₀ s) (r : ErrRecord) : Transferred s₀ (s.errLog r) :=
  h.aside (State.errLog_aside (Aside.refl s) r) (s.errLog_stands r)

theorem State.raise_transferred (h : Transferred s₀ s) (i arg : Nat) (hi : i < 64 := by decide) : Transferred s₀ (s.raise i arg) :=
  h.aside (State.raise_aside (Aside.refl s) i arg hi) (s.raise_keepsStanding i arg)

theorem State.busFail_transferred (h : Transferred s₀ s) (r : ErrRecord) (hr : r.master < 64) : Transferred s₀ (s.busFail r) := by
  rw [State.busFail_eq_raise s r hr]
  exact State.raise_transferred (h.aside (State.busFailLog_aside (Aside.refl s) r hr) (s.busFailLog_stands r)) _ _

theorem State.countBurst_transferred (h : Transferred s₀ s) (m a n : Nat) : Transferred s₀ (s.countBurst m a n) :=
  h.aside (State.countBurst_aside (Aside.refl s) m a n) (s.countBurst_stands m a n)

/-! ### The matrix and the controllers (R379, R409, R411, R412) -/

theorem State.queueSettle_transferred (h : Transferred s₀ s) (a n : Nat) : Transferred s₀ (s.queueSettle a n) := by
  obtain ⟨q, d, e⟩ := s.queueSettle_only a n
  rw [e]
  exact h.same

theorem State.queueTake_transferred (h : Transferred s₀ s) (write : Bool) (qos a n : Nat) (on : List Bool) :
    Transferred s₀ (s.queueTake write qos a n on) := by
  obtain ⟨q, d, e⟩ := s.queueTake_only write qos a n on
  rw [e]
  exact h.same

theorem State.queueBurst_transferred (h : Transferred s₀ s) (write : Bool) (qos a n : Nat) (on : List Bool) :
    Transferred s₀ (s.queueBurst write qos a n on) := by
  obtain ⟨q, d, e⟩ := s.queueBurst_only write qos a n on
  rw [e]
  exact h.same

theorem State.chanServed_transferred (h : Transferred s₀ s) (ch : Nat) : Transferred s₀ (s.chanServed ch) := .ite h.same h

theorem State.chansServed_transferred (h : Transferred s₀ s) (l : List Nat) :
    Transferred s₀ (l.foldl (fun s ch => s.chanServed ch) s) :=
  .fold l h fun _ ch hs => State.chanServed_transferred hs ch

theorem State.grantReq_transferred (h : Transferred s₀ s) (p : PendReq) (sent : Nat) : Transferred s₀ (s.grantReq p sent) := by
  unfold State.grantReq
  extract_lets t reaches q bus x y
  have hx : Transferred s₀ x := Transferred.same (s := t) (.ite (State.queueSettle_transferred h _ _) h)
  have hy : Transferred s₀ y := .ite hx (State.queueTake_transferred hx _ _ _ _ _)
  exact .ite hx (State.chansServed_transferred (State.countBurst_transferred hy _ _ _) _)

theorem State.portYield_transferred (h : Transferred s₀ s) (t m qos : Nat) : Transferred s₀ (s.portYield t m qos) := by
  unfold State.portYield
  extract_lets bus x
  have hx : Transferred s₀ x := h.same
  refine .fold _ hx fun s _ hs => ?_
  split
  · exact .ite (State.grantReq_transferred hs _ _) hs
  · exact hs

theorem State.arrive_transferred (h : Transferred s₀ s) (m qos a n : Nat) (write : Bool) (on : List Bool) :
    Transferred s₀ (s.arrive m qos a n write on) := by
  unfold State.arrive
  extract_lets ports x y
  have hx : Transferred s₀ x := .fold ports h fun _ _ hs => State.portYield_transferred hs _ _ _
  have hy : Transferred s₀ y := State.chansServed_transferred hx _
  exact .ite h (.ite hy.same hy)

theorem drainEnd_transferred (h : Transferred s₀ s) (m : Nat) : Transferred s₀ (drainEnd m s) := by
  unfold drainEnd
  split
  · exact h
  · next e _ =>
    have hx : Transferred s₀ { s with bus := { s.bus with draining := s.bus.draining.filter (fun x => x.1 != m) } } := h.same
    exact State.raise_transferred (State.p_transferred (State.p_transferred (State.p_transferred hx
      Reg.MTX.DRAIN.DRAINS _) Reg.MTX.DRAIN.LAST_MASTER m) Reg.MTX.DRAIN.LAST_CUT_BEATS e.2) Ev.mtxDrain m

theorem State.portReady_transferred (h : Transferred s₀ s) (m : Nat) : Transferred s₀ (s.portReady m) :=
  .ite (drainEnd_transferred h m) h

/-! ### Reads -/

theorem State.readBurst_transferred (h : Transferred s₀ s) {m : Nat} (hm : m < 64) (qos id a n : Nat) :
    Transferred s₀ (s.readBurst m qos id a n .clean).1 := by
  unfold State.readBurst
  refine .itePair (State.busFail_transferred h _ hm) ?_
  split
  · exact State.busFail_transferred h _ hm
  · extract_lets x reaches y r
    have hy : Transferred s₀ y := State.countBurst_transferred (State.queueTake_transferred
      (State.queueSettle_transferred (State.arrive_transferred h _ _ _ _ _ _) _ _) _ _ _ _ _) _ _ _
    have hr : Transferred s₀ r.1 := by
      unfold r
      generalize reaches = o
      cases o with
      | none => exact hy
      | some x => exact hy
    exact .itePair (State.errLog_transferred hy _) (.itePair (State.errLog_transferred hr _) hr)

theorem State.readBursts_transferred (h : Transferred s₀ s) {m : Nat} (hm : m < 64) (qos id : Nat) (l : List (Nat × Nat)) :
    Transferred s₀ (s.readBursts m qos id .clean l).1 := by
  induction l generalizing s with
  | nil => exact h
  | cons b bs ih => exact ih (State.readBurst_transferred h hm _ _ _ _)

theorem State.dmaRead_transferred (h : Transferred s₀ s) {m : Nat} (hm : m < 64) (own a n : Nat) :
    Transferred s₀ (s.dmaRead m own a n).1 :=
  State.readBursts_transferred (State.portReady_transferred h m) hm _ _ _

/-! ### Writes (R38) -/

theorem State.stageWritten_transferred (h : Transferred s₀ s) : Transferred s₀ s.stageWritten := by
  unfold State.stageWritten
  extract_lets x seq y z w
  have hx : Transferred s₀ x := State.p_transferred (State.p_transferred (State.p_transferred h _ _) _ _) _ _
  have hy : Transferred s₀ y := .ite hx.same h
  have hz : Transferred s₀ z :=
    .ite (State.p_transferred (State.p_transferred (State.p_transferred hy _ _) _ _) _ _) hy
  have hw : Transferred s₀ w := State.p_transferred (State.p_transferred hz _ _) _ _
  exact .ite (State.p_transferred (State.p_transferred hw _ _) _ _) hw

theorem State.storeData_transferred (h : Transferred s₀ s) (a : Nat) (bs : List Byte) : Transferred s₀ (s.storeData a bs) :=
  .ite (State.stageWritten_transferred (s := s.store a bs) h.same) h.same

theorem State.storeMasked_transferred (h : Transferred s₀ s) (a : Nat) (bs : List Byte) (on : List Bool) :
    Transferred s₀ (s.storeMasked a bs on) :=
  .ite (State.storeData_transferred h a bs) (.fold _ h fun _ _ hs => .ite (State.storeData_transferred hs _ _) hs)

theorem State.writeBurst_transferred (h : Transferred s₀ s) {m : Nat} (hm : m < 64) (qos id a : Nat) (bs : List Byte) (on : List Bool) :
    Transferred s₀ (s.writeBurst m qos id a bs on).1 := by
  unfold State.writeBurst
  refine .itePair (State.busFail_transferred h _ hm) ?_
  split
  · exact State.busFail_transferred h _ hm
  · exact State.raise_transferred h _ _
  · exact State.storeMasked_transferred (State.countBurst_transferred (State.queueBurst_transferred
      (State.arrive_transferred h _ _ _ _ _ _) _ _ _ _ _) _ _ _) _ _ _

theorem State.writeBursts_transferred (h : Transferred s₀ s) {m : Nat} (hm : m < 64) (qos id : Nat) (l : List (Nat × Nat))
    (bs : List Byte) (on : List Bool) : Transferred s₀ (s.writeBursts m qos id l bs on).1 := by
  induction l generalizing s bs on with
  | nil => exact h
  | cons b l ih => exact ih (State.writeBurst_transferred h hm _ _ _ _ _) _ _

theorem State.dmaWrite_transferred (h : Transferred s₀ s) {m : Nat} (hm : m < 64) (own a : Nat) (bs : List Byte) :
    Transferred s₀ (s.dmaWrite m own a bs).1 :=
  State.writeBursts_transferred (State.portReady_transferred h m) hm _ _ _ _ _

theorem State.writePixels_transferred (h : Transferred s₀ s) {m : Nat} (hm : m < 64) (qos : Nat) (p : Pic) (x y : Nat)
    (vs : List Sample) : Transferred s₀ (s.writePixels m qos p x y vs).1 :=
  .itePair h (State.dmaWrite_transferred h hm _ _ _)

end Rules

end Sys2Proof.Machine
end

section
/-! PROOF. What the rows of a frame leave of its capture port, and how its frame closes: the counts of frames, wall time, the power
mode, the events that stand, and whether a frame is open (R162, R164 to R166, R176, R181). -/

-- One lemma after the other: elaborated side by side, they take more threads than the memory of the check holds.
set_option Elab.async false

namespace Sys2Proof.Machine

/-! ### Ports, contexts and pipes beyond their registers -/

@[simp] theorem State.cport_setCport_same (s : State) (p : Nat) (x : CapPort) : (s.setCport p x).cport p = x := Tab.get_put_same _ _ _ _

@[simp] theorem State.setCport_g (s : State) (p : Nat) (x : CapPort) (f : FRef) : (s.setCport p x).g f = s.g f := rfl

@[simp] theorem State.setCport_gb (s : State) (p : Nat) (x : CapPort) (f : FRef) : (s.setCport p x).gb f = s.gb f := rfl

@[simp] theorem State.setCport_ctxOf (s : State) (p : Nat) (x : CapPort) (k : Nat) : (s.setCport p x).ctxOf k = s.ctxOf k := rfl

@[simp] theorem State.p_cport (s : State) (f : FRef) (v p : Nat) : (s.p f v).cport p = s.cport p := rfl

@[simp] theorem State.inc_cport (s : State) (f : FRef) (p : Nat) : (s.inc f).cport p = s.cport p := rfl

@[simp] theorem State.setIctx_cport (s : State) (j c : Nat) (x : IspCtx) (p : Nat) : (s.setIctx j c x).cport p = s.cport p := rfl

@[simp] theorem State.setIctx_g (s : State) (j c : Nat) (x : IspCtx) (f : FRef) : (s.setIctx j c x).g f = s.g f := rfl

@[simp] theorem State.setIctx_pwr (s : State) (j c : Nat) (x : IspCtx) : (s.setIctx j c x).pwr = s.pwr := rfl

theorem Aside.cport {s t : State} (h : Aside s t) (p : Nat) : t.cport p = s.cport p := by
  unfold State.cport
  rw [h.cap]

/-- The context that takes a port is one of the 16. -/
theorem State.ctxOf_lt {s : State} {p : Nat} {k : Nat × Nat} (h : s.ctxOf p = some k) : k.1 < 4 ∧ k.2 < 4 := by
  unfold State.ctxOf at h
  obtain ⟨n, hn, rfl⟩ := Option.map_eq_some_iff.1 h
  have hn16 := List.mem_range.1 (List.mem_of_find?_eq_some hn)
  exact ⟨by omega, by omega⟩

/-! ### The relation -/

/-- A field that is no system event, no part of the rate of wall time, and neither counts the frames of port `p` nor those too long. -/
def besideCounts (p : Nat) (f : FRef) : Prop :=
  0x10040088 ≤ f.addr ∧ f.addr ≠ 0x1006003C ∧ f.addr ≠ 0x10380018 + 0x10000 * p ∧
    (f.addr ≠ 0x1038001C + 0x10000 * p ∨ f.lo + f.width ≤ 16)

/-- From `s` to `t` stay the frames and the frames too long that port `p` counts, wall time and its rate, the power mode, and whether a
frame is open at the port; and no system event's STATUS bit falls. -/
structure PortStays (p : Nat) (s t : State) : Prop where
  frames : t.g (Reg.CAP.FRAMES p) = s.g (Reg.CAP.FRAMES p)
  long : t.g (Reg.CAP.LONG p) = s.g (Reg.CAP.LONG p)
  rate : t.g Reg.TIME.RATE.RATE = s.g Reg.TIME.RATE.RATE
  pwr : t.pwr = s.pwr
  time : t.time = s.time
  stands : Stands s t
  running : (t.cport p).frame.isSome = (s.cport p).frame.isSome

theorem PortStays.refl (p : Nat) (s : State) : PortStays p s s := ⟨rfl, rfl, rfl, rfl, rfl, Stands.refl s, rfl⟩

section Rules

variable {p : Nat} {s₀ s t : State}

theorem PortStays.trans (h : PortStays p s₀ s) (k : PortStays p s t) : PortStays p s₀ t :=
  ⟨k.frames.trans h.frames, k.long.trans h.long, k.rate.trans h.rate, k.pwr.trans h.pwr, k.time.trans h.time, h.stands.trans k.stands,
    k.running.trans h.running⟩

/-- An update that touches nothing that the relation speaks of. -/
theorem PortStays.same (h : PortStays p s₀ s) (hr : t.regs = s.regs := by rfl) (hp : t.pwr = s.pwr := by rfl)
    (ht : t.time = s.time := by rfl) (hc : t.cap.ports = s.cap.ports := by rfl) : PortStays p s₀ t :=
  h.trans ⟨State.g_congr hr _, State.g_congr hr _, State.g_congr hr _, hp, ht, Stands.of_eq fun _ _ => State.g_congr hr _, by
    rw [State.cport, hc, State.cport]⟩

theorem PortStays.ite {c : Prop} [Decidable c] (hs : PortStays p s₀ s) (ht : PortStays p s₀ t) : PortStays p s₀ (if c then s else t) := by
  split
  · exact hs
  · exact ht

theorem PortStays.itePair {α : Type} {c : Prop} [Decidable c] {x y : State × α} (hx : PortStays p s₀ x.1) (hy : PortStays p s₀ y.1) :
    PortStays p s₀ (if c then x else y).1 := by
  split
  · exact hx
  · exact hy

theorem PortStays.transferred (h : PortStays p s₀ s) (k : Transferred s t) : PortStays p s₀ t :=
  h.trans ⟨k.g (by unfold calmAddr; dsimp only; omega), k.g (by unfold calmAddr; dsimp only; omega), k.g (by unfold calmAddr; decide),
    k.pwr, k.time, k.stands, by rw [State.cport, k.cap, State.cport]⟩

theorem State.p_portStays (h : PortStays p s₀ s) (f : FRef) (v : Nat)
    (hf : besideCounts p f := by dsimp only [besideCounts]; omega) : PortStays p s₀ (s.p f v) := by
  obtain ⟨hlow, hrate, hframes, hlong⟩ := hf
  exact h.trans ⟨State.g_p_other _ _ _ _ (.inl hframes), State.g_p_other _ _ _ _ (hlong.imp id .inl),
    State.g_p_other _ _ _ _ (.inl hrate), rfl, rfl, State.p_stands s (.inr hlow) v, rfl⟩

theorem State.raise_portStays (h : PortStays p s₀ s) (i arg : Nat) (hi : i < 64 := by decide) : PortStays p s₀ (s.raise i arg) :=
  h.transferred (State.raise_transferred (Transferred.refl s) i arg hi)

theorem State.setCport_portStays (h : PortStays p s₀ s) (x : CapPort) (hx : x.frame.isSome = (s.cport p).frame.isSome) :
    PortStays p s₀ (s.setCport p x) :=
  h.trans ⟨rfl, rfl, rfl, rfl, rfl, Stands.refl s, by rw [State.cport_setCport_same, hx]⟩

theorem State.setIctx_portStays (h : PortStays p s₀ s) (j c : Nat) (x : IspCtx) : PortStays p s₀ (s.setIctx j c x) := h.same

theorem State.storeLevel_portStays (h : PortStays p s₀ s) : PortStays p s₀ (s.storeLevel p) :=
  State.p_portStays (State.p_portStays h (Reg.CAP.STORE_LEVEL p) _) (Reg.CAP.STORE_PEAK p) _

/-! ### The matrix, buffers and outputs -/

theorem State.busTraffic_portStays (h : PortStays p s₀ s) (m : Nat) : PortStays p s₀ (s.busTraffic m) :=
  List.foldlRecOn (motive := PortStays p s₀) _ _ h fun s hs t ht => by
    have hlt : t < 8 := List.mem_range.1 ht
    have hx : PortStays p s₀ (s.incBy (Reg.MTX.TARGET.GRANTS t) s.freeNat) := State.p_portStays hs (Reg.MTX.TARGET.GRANTS t) _
    exact (PortStays.ite (State.p_portStays hx (Reg.MTX.TARGET.PARKED t) m) hx).same

theorem State.outWrite_portStays (h : PortStays p s₀ s) {m : Nat} (hm : m < 64) (rows : List (Nat × List Byte)) :
    PortStays p s₀ (s.outWrite m rows).1 :=
  List.foldlRecOn (motive := fun a : State × Bool => PortStays p s₀ a.1) rows _ h fun a ha _ _ =>
    ha.transferred (State.dmaWrite_transferred (Transferred.refl a.1) hm _ _ _)

theorem State.statsOut_portStays (h : PortStays p s₀ s) {j : Nat} (hj : j < 4) (c q : Nat) (f : CapFrame) (cap : Int) :
    PortStays p s₀ (s.statsOut j c q f cap).1 :=
  .itePair (h.transferred (State.dmaWrite_transferred (Transferred.refl s) (by omega) _ _ _)) h

/-- Of a buffer closed, whatever its number, STATE and ROW_MARK alone change. -/
theorem State.closeBuf_portStays (h : PortStays p s₀ s) (b : Nat) (t : Tag) : PortStays p s₀ (s.closeBuf b t) := by
  have hx : PortStays p s₀ (s.store (tagAddr b) t.bytes) := h.same
  exact State.p_portStays (State.p_portStays hx (Reg.ING.BUF.ROW_MARK b) _) (Reg.ING.BUF.STATE b) _

theorem State.filled_portStays (h : PortStays p s₀ s) (i b : Nat) : PortStays p s₀ (s.filled i b) := h.same

theorem State.codeClose_portStays (h : PortStays p s₀ s) (q j c flags : Nat) (f : CapFrame) :
    PortStays p s₀ (s.codeClose q j c flags f) := by
  unfold State.codeClose
  split
  · exact State.setIctx_portStays (State.closeBuf_portStays h _ _) _ _ _
  · exact h

theorem State.mvClose_portStays (h : PortStays p s₀ s) (q j c flags : Nat) (f : CapFrame) :
    PortStays p s₀ (s.mvClose q j c flags f) := by
  unfold State.mvClose
  split
  · exact State.setIctx_portStays (State.closeBuf_portStays h _ _) _ _ _
  · exact h

/-! ### Rows through the pipe -/

theorem State.setFrame_portStays (h : PortStays p s₀ s) (hf : (s.cport p).frame.isSome = true) (f : CapFrame) :
    PortStays p s₀ (s.setFrame_ p f) :=
  State.setCport_portStays h _ hf.symm

theorem State.tnrError_portStays (h : PortStays p s₀ s) : PortStays p s₀ (s.tnrError p) := by
  unfold State.tnrError
  split
  · exact h
  · next hf => exact State.p_portStays (State.setFrame_portStays h (by rw [hf]; rfl) _) (Reg.CAP.BUS_ERR p) _

theorem State.tnrPass_portStays (h : PortStays p s₀ s) {j : Nat} (hj : j < 4) (c y k : Nat) (f : CapFrame) (vs : List Nat) :
    PortStays p s₀ (s.tnrPass j c p y k f vs).1 := by
  have hm : 35 + j < 64 := by omega
  unfold State.tnrPass
  refine .itePair ?_ h
  extract_lets m r x z out w
  have hx : PortStays p s₀ x.1 :=
    .itePair h (h.transferred (State.dmaRead_transferred (Transferred.refl s) hm _ _ _))
  have hz : PortStays p s₀ z := .ite hx (State.tnrError_portStays hx)
  exact hz.transferred (State.dmaWrite_transferred (Transferred.refl z) hm _ _ _)

theorem State.rowCost_portStays (h : PortStays p s₀ s) (j q : Nat) : PortStays p s₀ (s.rowCost j q) := by
  unfold State.rowCost
  extract_lets x kept
  have hx : PortStays p s₀ (s.setIpipe j { x with loads := kept ++ [(s.clock, (s.capW q + 32) * 5 / 3)] }) := h.same
  exact State.p_portStays hx (Reg.ISP.ROWS j) _

theorem State.rowEmit_portStays (h : PortStays p s₀ s) {j : Nat} (hj : j < 4) (c : Nat) (force : Bool) :
    PortStays p s₀ (s.rowEmit j c p force).1 := by
  have hm : 35 + j < 64 := by omega
  unfold State.rowEmit
  split
  · exact h
  · next f hf =>
    extract_lets y k m x z st t all px w ok u v f' r held
    have hx : PortStays p s₀ x := h.same
    have hz : PortStays p s₀ z := .ite (State.busTraffic_portStays hx m) hx
    have ht : PortStays p s₀ t.1 := State.tnrPass_portStays hz hj _ _ _ _ _
    have hw : PortStays p s₀ w.1 := ht.transferred (State.writePixels_transferred (Transferred.refl t.1) hm _ _ _ _ _)
    have hu : PortStays p s₀ u := State.rowCost_portStays hw j p
    have hv : PortStays p s₀ v := .ite hu (State.p_portStays hu (Reg.CAP.BUS_ERR p) _)
    have hr : PortStays p s₀ r := State.setFrame_portStays hv (hv.running.trans (h.running.symm.trans (by rw [hf]; rfl))) _
    exact .itePair (PortStays.ite hr (State.p_portStays hr (Reg.ING.BUF.ROW_MARK f'.disp) _)) hw

theorem State.rowsEmit_portStays (h : PortStays p s₀ s) {j : Nat} (hj : j < 4) (c : Nat) (force : Bool) (fuel : Nat) :
    PortStays p s₀ (s.rowsEmit j c p force fuel).1 := by
  induction fuel generalizing s with
  | zero => exact h
  | succ fuel ih =>
    unfold State.rowsEmit
    have hr := State.rowEmit_portStays h hj c force
    split
    · exact h
    · exact .itePair (.itePair (ih hr) hr) h

theorem State.rowOut_portStays (h : PortStays p s₀ s) {j : Nat} (hj : j < 4) (c : Nat) (r : CapRow) :
    PortStays p s₀ (s.rowOut j c p r).1 := by
  unfold State.rowOut
  split
  · exact h
  · next hf => exact State.rowsEmit_portStays (State.setFrame_portStays h (by rw [hf]; rfl) _) hj c false 4

theorem State.rowsOut_portStays (h : PortStays p s₀ s) {j : Nat} (hj : j < 4) (c : Nat) (l : List CapRow) :
    PortStays p s₀ (s.rowsOut j c p l).1 := by
  induction l generalizing s with
  | nil => exact h
  | cons r rs ih =>
    unfold State.rowsOut
    have hr := State.rowOut_portStays h hj c r
    exact .itePair (ih hr) hr

theorem State.rowsFill_portStays (h : PortStays p s₀ s) {j : Nat} (hj : j < 4) (c : Nat) (error : Bool) :
    PortStays p s₀ (s.rowsFill j c p error) := by
  unfold State.rowsFill
  split
  · exact h
  · next hf => exact State.rowsEmit_portStays (State.setFrame_portStays h (by rw [hf]; rfl) _) hj c true _

end Rules

/-! ### A frame closes (R162, R165) -/

/-- From `s` to `t` the frame of port `p` closes and counts in FRAMES; the frames too long, wall time, its rate and the power mode stay, and
no system event's STATUS bit falls. -/
structure FrameCloses (p : Nat) (s t : State) : Prop where
  frame : (t.cport p).frame = none
  inFrame : t.gb (Reg.CAP.IN_FRAME p) = false
  frames : t.g (Reg.CAP.FRAMES p) = (s.g (Reg.CAP.FRAMES p) + 1) % 2 ^ 32
  long : t.g (Reg.CAP.LONG p) = s.g (Reg.CAP.LONG p)
  rate : t.g Reg.TIME.RATE.RATE = s.g Reg.TIME.RATE.RATE
  pwr : t.pwr = s.pwr
  time : t.time = s.time
  stands : Stands s t

section Closes

variable {p j c : Nat} {s₀ s t : State}

theorem PortStays.closes (h : PortStays p s₀ s) (k : FrameCloses p s t) : FrameCloses p s₀ t :=
  ⟨k.frame, k.inFrame, by rw [k.frames, h.frames], k.long.trans h.long, k.rate.trans h.rate, k.pwr.trans h.pwr, k.time.trans h.time,
    h.stands.trans k.stands⟩

/-- The rows received of a port may be set anew once its frame is closed. -/
theorem FrameCloses.setRowsIn (h : FrameCloses p s t) (n : Nat) : FrameCloses p s (t.setCport p { t.cport p with rowsIn := n }) :=
  ⟨by rw [State.cport_setCport_same]; exact h.frame, h.inFrame, h.frames, h.long, h.rate, h.pwr, h.time, h.stands⟩

theorem Stands.evStatus (h : Stands s t) {i : Nat} (hi : i < 64) (hs : s.evStatus i = true) : t.evStatus i = true := by
  unfold State.evStatus at hs ⊢
  rw [if_pos hi] at hs ⊢
  exact h i hi hs

/-- The frame counted, the port cleared of it and the level of its store shown. -/
theorem PortStays.cleared {v : State} (hs : PortStays p s₀ s) (hv : PortStays p (s.inc (Reg.CAP.FRAMES p)) v) {x : CapPort}
    (hx : x.frame = none) : FrameCloses p s₀ (((v.setCport p x).pb (Reg.CAP.IN_FRAME p) false).storeLevel p) := by
  have hport : (v.setCport p x).cport p = x := State.cport_setCport_same _ _ _
  have ht : PortStays p (v.setCport p x) (((v.setCport p x).pb (Reg.CAP.IN_FRAME p) false).storeLevel p) :=
    State.storeLevel_portStays (State.p_portStays (PortStays.refl p _) (Reg.CAP.IN_FRAME p) _)
  have hcount : Stands s (s.inc (Reg.CAP.FRAMES p)) := State.p_stands s (.inr (by dsimp only; omega)) _
  refine ⟨?_, ?_, ?_, ?_, ?_, ?_, ?_, ?_⟩
  · rw [← Option.isNone_iff_eq_none, ← Option.not_isSome, ht.running, hport, hx]
    rfl
  · unfold State.storeLevel
    simp (disch := (dsimp only; omega)) only [State.gb_p_other, State.gb_pb_val]
  · rw [ht.frames, State.setCport_g, hv.frames, State.inc_g_same _ _ rfl, hs.frames]
  · rw [ht.long, State.setCport_g, hv.long, State.inc_g_other _ _ _ (by dsimp only; omega), hs.long]
  · rw [ht.rate, State.setCport_g, hv.rate, State.inc_g_other _ _ _ (by dsimp only; omega), hs.rate]
  · exact ht.pwr.trans (hv.pwr.trans hs.pwr)
  · exact ht.time.trans (hv.time.trans hs.time)
  · exact (hs.stands.trans (hcount.trans hv.stands)).trans ht.stands

theorem FrameCloses.raise (h : FrameCloses p s t) (i arg : Nat) (hi : i < 64 := by decide) : FrameCloses p s (t.raise i arg) := by
  have ha : Aside t (t.raise i arg) := State.raise_aside (Aside.refl t) i arg hi
  have hg (f : FRef) (hf : quietAddr f.addr) : (t.raise i arg).g f = t.g f := ha.g hf
  refine ⟨by rw [ha.cport, h.frame], ?_, ?_, ?_, ?_, ha.pwr.trans h.pwr, ha.time.trans h.time,
    h.stands.trans (t.raise_keepsStanding i arg)⟩
  · rw [State.gb, hg _ (.inr (.inr (by dsimp only; omega))), ← State.gb, h.inFrame]
  · rw [hg _ (.inr (.inr (by dsimp only; omega))), h.frames]
  · rw [hg _ (.inr (.inr (by dsimp only; omega))), h.long]
  · rw [hg _ (.inr (.inl (by decide))), h.rate]

/-- The frame of a port closes: its counts but FRAMES, wall time and the events that stand are what its outputs and tags leave. -/
theorem State.capClose_closes (hj : j < 4) (hf : (s.cport p).frame.isSome = true) (c flags : Nat) :
    FrameCloses p s (s.capClose p j c flags) := by
  obtain ⟨f, hf⟩ := Option.isSome_iff_exists.1 hf
  have hm : 35 + j < 64 := by omega
  unfold State.capClose
  rw [hf]
  dsimp -zeta only
  extract_lets i m r1 r2 r3 errs x cut y flags' d z w v u t' n b t
  have h1 : PortStays p s r1.1 := State.outWrite_portStays (PortStays.refl p s) hm _
  have h2 : PortStays p s r2.1 := State.outWrite_portStays h1 hm _
  have h3 : PortStays p s r3.1 := State.statsOut_portStays h2 hj _ _ _ _
  have hx : PortStays p s x := State.p_portStays h3 (Reg.CAP.BUS_ERR p) _
  have hy : PortStays p s y := .ite (State.raise_portStays (State.p_portStays hx (Reg.CAP.SHORT p) _) _ _) hx
  have hz : PortStays p s z := State.filled_portStays (State.closeBuf_portStays hy _ _) _ _
  have hw : PortStays p s w := State.mvClose_portStays (State.codeClose_portStays hz _ _ _ _ _) _ _ _ _ _
  have hi : i < 512 := s.g_lt _
  have hv : PortStays p (w.inc (Reg.CAP.FRAMES p)) v :=
    State.p_portStays (State.p_portStays (PortStays.refl p _) (Reg.ISP.CTX.FRAMES j c) _) (Reg.ING.SRC.FRAMES i) _
  have ht : FrameCloses p s t := hw.cleared (State.setIctx_portStays hv j c _) rfl
  split
  · exact ht.raise _ _
  · exact ht

/-- A frame ends short: it closes, and EV_CAP_FRAME_SHORT stands (R164). -/
theorem State.capShort_closes (hc : s.coreOn = true) (hj : j < 4) (hf : (s.cport p).frame.isSome = true) (c : Nat) :
    FrameCloses p s (s.capShort p j c) ∧ (s.capShort p j c).evStatus Ev.capFrameShort = true := by
  unfold State.capShort
  extract_lets x r y
  have hx : PortStays p s x := State.raise_portStays (State.p_portStays (PortStays.refl p s) (Reg.CAP.SHORT p) _) _ _
  have hev : x.evStatus Ev.capFrameShort = true := State.raise_stands _ _ _ (by decide) hc
  have hr : PortStays p x r.1 := State.rowsOut_portStays (PortStays.refl p x) hj c _
  have hy : PortStays p x y := .ite hr (State.p_portStays hr (Reg.CAP.BUS_ERR p) _)
  have hz : PortStays p x (y.rowsFill j c p (!r.2)) := State.rowsFill_portStays hy hj c _
  have hclose := hz.closes (State.capClose_closes hj ((hx.trans hz).running.trans hf) c Fl.truncated)
  exact ⟨hx.closes hclose, hclose.stands.evStatus (by decide) hev⟩

/-- After an error response to a write of the pipe a frame ends short (R166). -/
theorem State.capWriteError_closes (hc : s.coreOn = true) (hj : j < 4) (hf : (s.cport p).frame.isSome = true) (c flags : Nat) :
    FrameCloses p s (s.capWriteError p j c flags) ∧ (s.capWriteError p j c flags).evStatus Ev.capFrameShort = true := by
  unfold State.capWriteError
  extract_lets x y
  have hx : PortStays p s x := State.raise_portStays (State.p_portStays
    (State.p_portStays (PortStays.refl p s) (Reg.CAP.BUS_ERR p) _) (Reg.CAP.SHORT p) _) _ _
  have hev : x.evStatus Ev.capFrameShort = true := State.raise_stands _ _ _ (by decide) hc
  have hz : PortStays p x (x.rowsFill j c p true) := State.rowsFill_portStays (PortStays.refl p x) hj c true
  have hclose := (hz.closes (State.capClose_closes hj ((hx.trans hz).running.trans hf) c (flags ||| Fl.truncated))).setRowsIn 0
  exact ⟨hx.closes hclose, hclose.stands.evStatus (by decide) hev⟩

/-- A complete frame closes once its waiting rows are processed. -/
theorem State.capFinish_closes (hc : s.coreOn = true) (hj : j < 4) (hf : (s.cport p).frame.isSome = true) (c flags : Nat) :
    FrameCloses p s (s.capFinish p j c flags) := by
  unfold State.capFinish
  extract_lets r
  have hr : PortStays p s r.1 := State.rowsOut_portStays (PortStays.refl p s) hj c _
  have hopen : (r.1.cport p).frame.isSome = true := hr.running.trans hf
  split
  · exact hr.closes (State.capClose_closes hj hopen c flags)
  · exact hr.closes (State.capWriteError_closes (by unfold State.coreOn; rw [hr.pwr]; exact hc) hj hopen c flags).1

end Closes

end Sys2Proof.Machine
end

section
/-! PROOF. The sync and the rows of a capture port: what sync words and lines leave of it, what a row makes of its store, and how a
frame is dropped or too long (R157, R159, R163, R165, R182). -/

-- One lemma after the other: elaborated side by side, they take more threads than the memory of the check holds.
set_option Elab.async false

namespace Sys2Proof.Machine

/-! ### Sync (R157, R160, R184) -/

/-- What the sync of port `p` reads is the same in `s` and `t`: the registers, and the port's sync state. -/
structure SyncAgrees (p : Nat) (s t : State) : Prop where
  regs : t.regs = s.regs
  sav : (t.cport p).sav = (s.cport p).sav
  blank : (t.cport p).blank = (s.cport p).blank
  hsyncs : (t.cport p).hsyncs = (s.cport p).hsyncs

/-- From `s` to `t` port `p` takes sync: of the port beyond its registers the sync state and the clock of its PCLK change, of the
registers the count SYNC_ERR, and nothing else of what is named. -/
structure SyncTaken (p : Nat) (s t : State) : Prop where
  g : ∀ f : FRef, (Reg.CAP.SYNC_ERR p).apart f → t.g f = s.g f
  port : ∃ sav blank hsyncs pclkAt,
    t.cport p = { s.cport p with sav := sav, blank := blank, hsyncs := hsyncs, pclkAt := pclkAt }
  pwr : t.pwr = s.pwr
  time : t.time = s.time
  mem : t.mem = s.mem

section Sync

variable {p : Nat} {s t u : State}

theorem SyncTaken.refl (p : Nat) (s : State) : SyncTaken p s s := ⟨fun _ _ => rfl, ⟨_, _, _, _, rfl⟩, rfl, rfl, rfl⟩

theorem SyncTaken.trans (h : SyncTaken p s t) (k : SyncTaken p t u) : SyncTaken p s u := by
  obtain ⟨_, _, _, _, ht⟩ := h.port
  obtain ⟨sav, blank, hsyncs, pclkAt, hu⟩ := k.port
  exact ⟨fun f hf => (k.g f hf).trans (h.g f hf), ⟨sav, blank, hsyncs, pclkAt, by rw [hu, ht]⟩, k.pwr.trans h.pwr,
    k.time.trans h.time, k.mem.trans h.mem⟩

theorem SyncTaken.setCport (h : SyncTaken p s t) (sav : Option Bool) (blank : Bool) (hsyncs : Nat) (pclkAt : Option Nat) :
    SyncTaken p s (t.setCport p { t.cport p with sav := sav, blank := blank, hsyncs := hsyncs, pclkAt := pclkAt }) :=
  h.trans ⟨fun _ _ => rfl, ⟨sav, blank, hsyncs, pclkAt, State.cport_setCport_same _ _ _⟩, rfl, rfl, rfl⟩

theorem SyncTaken.itePair {α : Type} {c : Prop} [Decidable c] {x y : State × α} (hx : SyncTaken p s x.1) (hy : SyncTaken p s y.1) :
    SyncTaken p s (if c then x else y).1 := by
  split
  · exact hx
  · exact hy

theorem SyncTaken.gb (h : SyncTaken p s t) (f : FRef) (hf : (Reg.CAP.SYNC_ERR p).apart f := by dsimp only [FRef.apart]; omega) :
    t.gb f = s.gb f := by
  unfold State.gb
  rw [h.g f hf]

theorem SyncTaken.coreOn (h : SyncTaken p s t) : t.coreOn = s.coreOn := by
  unfold State.coreOn
  rw [h.pwr]

theorem SyncTaken.store (h : SyncTaken p s t) : (t.cport p).store = (s.cport p).store := by
  obtain ⟨_, _, _, _, he⟩ := h.port
  rw [he]

theorem SyncTaken.rowsIn (h : SyncTaken p s t) : (t.cport p).rowsIn = (s.cport p).rowsIn := by
  obtain ⟨_, _, _, _, he⟩ := h.port
  rw [he]

theorem SyncTaken.frame (h : SyncTaken p s t) : (t.cport p).frame = (s.cport p).frame := by
  obtain ⟨_, _, _, _, he⟩ := h.port
  rw [he]

/-- The contexts that take ports are found by the registers of the contexts alone. -/
theorem State.ctxOf_congr (h : ∀ j c, t.gb (Reg.ISP.CTX.ENABLE j c) = s.gb (Reg.ISP.CTX.ENABLE j c) ∧
    t.g (Reg.ISP.CTX.PORT j c) = s.g (Reg.ISP.CTX.PORT j c)) (p : Nat) : t.ctxOf p = s.ctxOf p := by
  unfold State.ctxOf
  simp only [h]

@[simp] theorem State.advance_ctxOf (s : State) (dt p : Nat) : (s.advance dt).ctxOf p = s.ctxOf p :=
  State.ctxOf_congr (fun _ _ => ⟨State.advance_gb _ _ _, State.advance_g _ _ _⟩) p

@[simp] theorem State.advance_capH (s : State) (dt p : Nat) : (s.advance dt).capH p = s.capH p := by simp [State.capH]

@[simp] theorem State.advance_cport (s : State) (dt p : Nat) : (s.advance dt).cport p = s.cport p := by simp [State.cport]

theorem SyncTaken.ctxOf (h : SyncTaken p s t) (k : Nat) : t.ctxOf k = s.ctxOf k :=
  State.ctxOf_congr (fun _ _ => ⟨h.gb _, h.g _ (by dsimp only [FRef.apart]; omega)⟩) k

theorem State.pclkSeen_taken (s : State) (p : Nat) : SyncTaken p s (s.pclkSeen p) := by
  unfold State.pclkSeen
  split
  · exact (SyncTaken.refl p s).setCport _ _ _ _
  · exact SyncTaken.refl p s

theorem State.pclkSeen_agrees (s : State) (p : Nat) : SyncAgrees p s (s.pclkSeen p) := by
  unfold State.pclkSeen
  split
  · constructor <;> simp [State.setCport, State.cport]
  · exact ⟨rfl, rfl, rfl, rfl⟩

theorem State.xyTake_taken (s : State) (p v : Nat) : SyncTaken p s (s.xyTake p v) := by
  unfold State.xyTake
  extract_lets b x h vb
  split
  · exact ⟨fun f hf => State.g_inc_apart s hf, ⟨_, _, _, _, rfl⟩, rfl, rfl, rfl⟩
  · exact (SyncTaken.refl p s).setCport _ _ _ _

theorem SyncAgrees.xyTake (h : SyncAgrees p s t) (v : Nat) : SyncAgrees p (s.xyTake p v) (t.xyTake p v) := by
  obtain ⟨hregs, hsav, hblank, hsyncs⟩ := h
  have hbits : t.xyBits p v = s.xyBits p v := by
    unfold State.xyBits
    rw [State.g_congr hregs]
  unfold State.xyTake
  rw [hbits]
  extract_lets b x h vb y
  split
  · refine ⟨?_, hsav, hblank, hsyncs⟩
    unfold State.inc State.p State.setReg State.g State.reg
    rw [hregs]
  · refine ⟨hregs, ?_, ?_, ?_⟩ <;> simp [x, y, hblank, hsyncs]

theorem State.xyAll_taken (s : State) (p : Nat) (xy : List Nat) : SyncTaken p s (s.xyAll p xy) := by
  unfold State.xyAll
  split
  · exact List.foldlRecOn (motive := SyncTaken p s) xy _ (SyncTaken.refl p s) fun t ht v _ => ht.trans (t.xyTake_taken p v)
  · exact SyncTaken.refl p s

theorem SyncAgrees.xyTakes (h : SyncAgrees p s t) (xy : List Nat) :
    SyncAgrees p (xy.foldl (fun s v => s.xyTake p v) s) (xy.foldl (fun s v => s.xyTake p v) t) := by
  induction xy generalizing s t with
  | nil => exact h
  | cons v xy ih => exact ih (h.xyTake v)

theorem SyncAgrees.xyAll (h : SyncAgrees p s t) (xy : List Nat) : SyncAgrees p (s.xyAll p xy) (t.xyAll p xy) := by
  have hsync : t.gb (Reg.CAP.SYNC p) = s.gb (Reg.CAP.SYNC p) := by rw [State.gb, State.g_congr h.regs, State.gb]
  unfold State.xyAll
  rw [hsync]
  split
  · exact h.xyTakes xy
  · exact h

theorem SyncAgrees.frameBegins (h : SyncAgrees p s t) (level : Bool) : t.frameBegins p level = s.frameBegins p level := by
  unfold State.frameBegins State.gb
  simp only [State.g_congr h.regs, h.blank, h.sav]

theorem State.rowOfLine_taken (s : State) (p : Nat) (level : Bool) (ys cs : List Nat) :
    SyncTaken p s (s.rowOfLine p level ys cs).1 := by
  have hrefl := SyncTaken.refl p s
  have hset {hsyncs : Nat} {sav : Option Bool} : SyncTaken p s (s.setCport p { s.cport p with sav := sav, hsyncs := hsyncs }) :=
    hrefl.setCport _ _ _ _
  unfold State.rowOfLine
  extract_lets x skip
  repeat' refine SyncTaken.itePair ?_ ?_
  · exact hset
  · exact hrefl
  · exact hrefl
  · exact hset
  · exact hrefl

/-- Whether a line brings a row, and which, is a matter of the registers and the sync state. -/
theorem SyncAgrees.rowOfLine (h : SyncAgrees p s t) (level : Bool) (ys cs : List Nat) :
    (t.rowOfLine p level ys cs).2 = (s.rowOfLine p level ys cs).2 := by
  unfold State.rowOfLine State.capW State.gb
  simp only [State.g_congr h.regs, h.sav, h.blank, h.hsyncs]
  split_ifs <;> rfl

/-- A line that brings a row takes its sync first, then the row. -/
theorem capRow_takes {xy ys cs : List Nat} {l : Bool} {v : List Nat × List Nat} (hc : s.coreOn = true)
    (he : s.gb (Reg.CAP.ENABLE p) = true) (hv : ((s.xyAll p xy).rowOfLine p l ys cs).2 = some v) :
    ∃ x, SyncTaken p s x ∧ capRow p xy l ys cs (s.pclkSeen p) = x.rowTake p v.1 v.2 := by
  have hpclk := s.pclkSeen_taken p
  refine ⟨_, (hpclk.trans (State.xyAll_taken _ p xy)).trans (State.rowOfLine_taken _ p l ys cs), ?_⟩
  unfold capRow
  rw [if_neg (by simp [hpclk.coreOn, hc, hpclk.gb (Reg.CAP.ENABLE p), he])]
  dsimp only
  rw [((s.pclkSeen_agrees p).xyAll xy).rowOfLine, hv]

end Sync

/-! ### A row within a frame (R159, R163, R165) -/

section Row

variable {p j c : Nat} {s t : State}

/-- Port `p` after the length of a row has been looked at: ROW_ERR counts one of another width than WIDTH. -/
def State.rowMeasured (s : State) (p : Nat) (ys : List Nat) : State :=
  if ys.length = s.capW p then s else s.inc (Reg.CAP.ROW_ERR p)

theorem State.rowMeasured_g (s : State) (p : Nat) (ys : List Nat) (f : FRef)
    (hf : (Reg.CAP.ROW_ERR p).apart f := by dsimp only [FRef.apart]; omega) : (s.rowMeasured p ys).g f = s.g f := by
  unfold State.rowMeasured
  split
  · rfl
  · exact State.g_inc_apart s hf

theorem State.rowMeasured_gb (s : State) (p : Nat) (ys : List Nat) (f : FRef)
    (hf : (Reg.CAP.ROW_ERR p).apart f := by dsimp only [FRef.apart]; omega) : (s.rowMeasured p ys).gb f = s.gb f := by
  unfold State.gb
  rw [s.rowMeasured_g p ys f hf]

theorem State.rowMeasured_rowErr (s : State) (p : Nat) (ys : List Nat) : (s.rowMeasured p ys).g (Reg.CAP.ROW_ERR p) =
    if ys.length = s.capW p then s.g (Reg.CAP.ROW_ERR p) else (s.g (Reg.CAP.ROW_ERR p) + 1) % 65536 := by
  unfold State.rowMeasured
  split
  · rfl
  · exact State.g_inc_same s _ (by dsimp only; omega)

@[simp] theorem State.rowMeasured_cport (s : State) (p : Nat) (ys : List Nat) (k : Nat) : (s.rowMeasured p ys).cport k = s.cport k := by
  unfold State.rowMeasured
  split <;> rfl

@[simp] theorem State.rowMeasured_pwr (s : State) (p : Nat) (ys : List Nat) : (s.rowMeasured p ys).pwr = s.pwr := by
  unfold State.rowMeasured
  split <;> rfl

@[simp] theorem State.rowMeasured_mem (s : State) (p : Nat) (ys : List Nat) : (s.rowMeasured p ys).mem = s.mem := by
  unfold State.rowMeasured
  split <;> rfl

theorem State.rowMeasured_ctxOf (s : State) (p : Nat) (ys : List Nat) (k : Nat) : (s.rowMeasured p ys).ctxOf k = s.ctxOf k :=
  State.ctxOf_congr (fun _ _ => ⟨s.rowMeasured_gb p ys _, s.rowMeasured_g p ys _⟩) k

/-- A row as a port keeps it is a matter of the port's width and mode. -/
theorem State.fitRow_congr (hw : t.g (Reg.CAP.WIDTH_M1 p) = s.g (Reg.CAP.WIDTH_M1 p)) (hm : t.g (Reg.CAP.MODE p) = s.g (Reg.CAP.MODE p))
    (ys cs : List Nat) : t.fitRow p ys cs = s.fitRow p ys cs := by
  have hsample : t.capSample p = s.capSample p := by
    funext v
    unfold State.capSample
    rw [hm]
  unfold State.fitRow State.capW State.capBt
  rw [hw, hm, hsample]

/-- A row of an open frame goes to the store, or is beyond HEIGHT. -/
theorem State.rowTake_open (hf : (s.cport p).frame.isSome = true) (hk : s.ctxOf p = some (j, c)) (ys cs : List Nat) :
    s.rowTake p ys cs =
      if (s.cport p).rowsIn < s.capH p then (s.rowMeasured p ys).rowStore p j c ((s.rowMeasured p ys).fitRow p ys cs)
      else (s.rowMeasured p ys).rowBeyond p j c := by
  have hheight : (s.rowMeasured p ys).capH p = s.capH p := by
    unfold State.capH
    rw [State.rowMeasured_g s p ys _]
  unfold State.rowTake
  rw [← State.rowMeasured]
  extract_lets y r x
  rw [State.rowMeasured_ctxOf, hk]
  dsimp only
  have hx : x = s.cport p := State.rowMeasured_cport s p ys p
  rw [hx, if_pos hf, hheight]

/-- A row put into a store that has room. -/
theorem State.rowStore_stores (r : CapRow) (hroom : ((s.cport p).store.length + 1) * rowEntries (s.capW p) ≤ 64) :
    s.rowStore p j c r = (s.setCport p { s.cport p with
      store := (s.cport p).store ++ [r], rowsIn := (s.cport p).rowsIn + 1, last := r, rowAt := s.clock }).storeLevel p := by
  unfold State.rowStore
  exact if_neg (not_lt.2 hroom)

/-- A row without room in the store drops the frame (R182). -/
theorem State.rowStore_drops (r : CapRow) (hfull : 64 < ((s.cport p).store.length + 1) * rowEntries (s.capW p)) :
    ∃ x i, s.rowStore p j c r = ((s.frameDrop p true).setIctx j c x).raise Ev.capCtxDrop i := by
  unfold State.rowStore
  exact ⟨_, _, if_pos hfull⟩

theorem State.storeLevel_g (s : State) (p : Nat) (f : FRef) (hf : f.addr ≠ 0x10380014 + 0x10000 * p := by dsimp only; omega) :
    (s.storeLevel p).g f = s.g f := by
  unfold State.storeLevel
  rw [State.g_p_other _ _ _ _ (.inl hf.symm), State.g_p_other _ _ _ _ (.inl hf.symm)]

@[simp] theorem State.storeLevel_cport (s : State) (p k : Nat) : (s.storeLevel p).cport k = s.cport k := rfl

/-! ### A frame dropped (R182) -/

/-- A claimed buffer freed, whatever its number, changes STATE of a buffer alone, of the registers. -/
theorem State.unclaim_g (s : State) (b : Nat) (f : FRef) (hf : f.addr % 0x20 ≠ 0xC := by dsimp only; omega) :
    (s.unclaim b).g f = s.g f := by
  unfold State.unclaim
  split
  · exact State.g_p_other s (Reg.ING.BUF.STATE b) f _ (.inl (by dsimp only; omega))
  · rfl

@[simp] theorem State.unclaim_pwr (s : State) (b : Nat) : (s.unclaim b).pwr = s.pwr := by
  unfold State.unclaim
  split <;> rfl

/-- A frame that is dropped and counted leaves no row in the store. -/
theorem State.frameDrop_counts (hf : (s.cport p).frame.isSome = true) :
    ((s.frameDrop p true).cport p).frame = none ∧ ((s.frameDrop p true).cport p).store = [] ∧
      (s.frameDrop p true).g (Reg.CAP.DROPPED p) = (s.g (Reg.CAP.DROPPED p) + 1) % 65536 ∧ (s.frameDrop p true).pwr = s.pwr := by
  obtain ⟨f, hf⟩ := Option.isSome_iff_exists.1 hf
  have hcount : (s.inc (Reg.CAP.DROPPED p)).g (Reg.CAP.DROPPED p) = (s.g (Reg.CAP.DROPPED p) + 1) % 65536 :=
    State.g_inc_same s _ (by dsimp only; omega)
  have hfree (x : State) (b : Nat) : (x.unclaim b).g (Reg.CAP.DROPPED p) = x.g (Reg.CAP.DROPPED p) := State.unclaim_g x b _
  unfold State.frameDrop
  extract_lets x y z
  have hz : z.g (Reg.CAP.DROPPED p) = (s.g (Reg.CAP.DROPPED p) + 1) % 65536 ∧ z.pwr = s.pwr := by
    unfold z x
    rw [hf]
    unfold y
    dsimp only
    split <;> split <;> simp only [hfree, State.unclaim_pwr, if_true] <;> exact ⟨hcount, rfl⟩
  obtain ⟨hdropped, hpwr⟩ := hz
  refine ⟨by simp [State.pb], by simp [State.pb], ?_, hpwr⟩
  rw [State.storeLevel_g _ _ _, State.pb, State.g_p_other _ _ _ _ (.inl (by dsimp only; omega)), State.setCport_g, hdropped]

end Row

end Sys2Proof.Machine
end

section
/-! PROOF. The rows of an open frame: one that the store takes, one that drops the frame, and one beyond HEIGHT (R159, R165, R182). -/

-- One lemma after the other: elaborated side by side, they take more threads than the memory of the check holds.
set_option Elab.async false

namespace Sys2Proof.Machine

section Rows

variable {p j c : Nat} {ys : List Nat} {s y : State}

/-- From `s` to `y` time passes and port `p` takes the sync of a line and the length of its row `ys`: beside the registers of time, of
the port the rows and the open frame stay, and of the registers all but SYNC_ERR and ROW_ERR. -/
structure RowArrives (p : Nat) (ys : List Nat) (s y : State) : Prop where
  g : ∀ f : FRef, (Reg.CAP.SYNC_ERR p).apart f → (Reg.CAP.ROW_ERR p).apart f → y.g f = s.g f
  rowErr : y.g (Reg.CAP.ROW_ERR p) = if ys.length = s.capW p then s.g (Reg.CAP.ROW_ERR p) else (s.g (Reg.CAP.ROW_ERR p) + 1) % 65536
  frame : (y.cport p).frame = (s.cport p).frame
  store : (y.cport p).store = (s.cport p).store
  rowsIn : (y.cport p).rowsIn = (s.cport p).rowsIn
  pwr : y.pwr = s.pwr
  mem : y.mem = s.mem

theorem RowArrives.gb (h : RowArrives p ys s y) (f : FRef) (hs : (Reg.CAP.SYNC_ERR p).apart f := by dsimp only [FRef.apart]; omega)
    (hr : (Reg.CAP.ROW_ERR p).apart f := by dsimp only [FRef.apart]; omega) : y.gb f = s.gb f := by
  unfold State.gb
  rw [h.g f hs hr]

theorem RowArrives.coreOn (h : RowArrives p ys s y) : y.coreOn = s.coreOn := by
  unfold State.coreOn
  rw [h.pwr]

theorem RowArrives.capW (h : RowArrives p ys s y) : y.capW p = s.capW p := by
  unfold State.capW
  rw [h.g _ (by dsimp only [FRef.apart]; omega) (by dsimp only [FRef.apart]; omega)]

/-- A line that brings a row of an open frame: once its sync and its length have been taken, the row goes to the store or is beyond
HEIGHT. -/
theorem capRow_arrives {dt : Nat} {xy cs : List Nat} {l : Bool} {v : List Nat × List Nat} (hc : s.coreOn = true)
    (he : s.gb (Reg.CAP.ENABLE p) = true) (hf : (s.cport p).frame.isSome = true) (hk : s.ctxOf p = some (j, c))
    (hv : (((s.advance dt).xyAll p xy).rowOfLine p l ys cs).2 = some v) :
    ∃ y, RowArrives p v.1 s y ∧ capRow p xy l ys cs ((s.advance dt).pclkSeen p) =
      if (s.cport p).rowsIn < s.capH p then y.rowStore p j c (s.fitRow p v.1 v.2) else y.rowBeyond p j c := by
  obtain ⟨x, hx, hrow⟩ := capRow_takes (s := s.advance dt) (by rw [State.advance_coreOn, hc]) (by rw [State.advance_gb, he]) hv
  have hg (f : FRef) (hfs : (Reg.CAP.SYNC_ERR p).apart f) : x.g f = s.g f := (hx.g f hfs).trans (State.advance_g s dt f)
  have hwidth : x.capW p = s.capW p := by
    unfold State.capW
    rw [hg _ (by dsimp only [FRef.apart]; omega)]
  have hheight : x.capH p = s.capH p := by
    unfold State.capH
    rw [hg _ (by dsimp only [FRef.apart]; omega)]
  have hframe : (x.cport p).frame = (s.cport p).frame := by rw [hx.frame, State.advance_cport]
  have hrows : (x.cport p).rowsIn = (s.cport p).rowsIn := by rw [hx.rowsIn, State.advance_cport]
  refine ⟨x.rowMeasured p v.1, ⟨fun f hs hr => ?_, ?_, ?_, ?_, ?_, ?_, ?_⟩, ?_⟩
  · rw [State.rowMeasured_g x p v.1 f hr, hg f hs]
  · rw [State.rowMeasured_rowErr, hwidth, hg _ (by dsimp only [FRef.apart]; omega)]
  · rw [State.rowMeasured_cport, hframe]
  · rw [State.rowMeasured_cport, hx.store, State.advance_cport]
  · rw [State.rowMeasured_cport, hrows]
  · rw [State.rowMeasured_pwr, hx.pwr, State.advance_pwr]
  · rw [State.rowMeasured_mem, hx.mem, State.advance_mem]
  · have hfit : (x.rowMeasured p v.1).fitRow p v.1 v.2 = s.fitRow p v.1 v.2 := State.fitRow_congr
      ((State.rowMeasured_g x p v.1 _).trans (hg _ (by dsimp only [FRef.apart]; omega)))
      ((State.rowMeasured_g x p v.1 _).trans (hg _ (by dsimp only [FRef.apart]; omega))) _ _
    rw [hrow, State.rowTake_open (by rw [hframe, hf]) (by rw [hx.ctxOf, State.advance_ctxOf, hk]), hfit, hrows, hheight]

/-- What a row put into the store with room leaves and sets (R159). -/
theorem RowArrives.stores (h : RowArrives p ys s y) (r : CapRow)
    (hroom : ((s.cport p).store.length + 1) * rowEntries (s.capW p) ≤ 64) :
    ((y.rowStore p j c r).cport p).store = (s.cport p).store ++ [r] ∧
      ((y.rowStore p j c r).cport p).rowsIn = (s.cport p).rowsIn + 1 ∧ ((y.rowStore p j c r).cport p).last = r ∧
      (y.rowStore p j c r).g (Reg.CAP.ROW_ERR p) =
        (if ys.length = s.capW p then s.g (Reg.CAP.ROW_ERR p) else (s.g (Reg.CAP.ROW_ERR p) + 1) % 65536) ∧
      ((y.rowStore p j c r).cport p).frame = (s.cport p).frame ∧ ∀ a, (y.rowStore p j c r).byte a = s.byte a := by
  rw [State.rowStore_stores r (by rw [h.store, h.capW]; exact hroom)]
  refine ⟨?_, ?_, ?_, ?_, ?_, State.byte_congr h.mem⟩
  · rw [State.storeLevel_cport, State.cport_setCport_same, h.store]
  · rw [State.storeLevel_cport, State.cport_setCport_same, h.rowsIn]
  · rw [State.storeLevel_cport, State.cport_setCport_same]
  · rw [State.storeLevel_g _ _ _, State.setCport_g, h.rowErr]
  · rw [State.storeLevel_cport, State.cport_setCport_same, h.frame]

/-- A row without room drops the frame, counted, and EV_CAP_CTX_DROP stands (R182). -/
theorem RowArrives.drops (h : RowArrives p ys s y) (hc : s.coreOn = true) (hf : (s.cport p).frame.isSome = true) (r : CapRow)
    (hfull : 64 < ((s.cport p).store.length + 1) * rowEntries (s.capW p)) :
    ((y.rowStore p j c r).cport p).frame = none ∧ ((y.rowStore p j c r).cport p).store = [] ∧
      (y.rowStore p j c r).g (Reg.CAP.DROPPED p) = (s.g (Reg.CAP.DROPPED p) + 1) % 65536 ∧
      (y.rowStore p j c r).evStatus Ev.capCtxDrop = true := by
  obtain ⟨hframe, hstore, hcount, hpwr⟩ := State.frameDrop_counts (s := y) (p := p) (by rw [h.frame, hf])
  obtain ⟨x, i, hx⟩ := State.rowStore_drops (j := j) (c := c) r (s := y) (p := p) (by rw [h.store, h.capW]; exact hfull)
  have ha : Aside ((y.frameDrop p true).setIctx j c x) (y.rowStore p j c r) := by
    rw [hx]
    exact State.raise_aside (Aside.refl _) _ _ (by decide)
  refine ⟨by rw [ha.cport, State.setIctx_cport, hframe], by rw [ha.cport, State.setIctx_cport, hstore], ?_, ?_⟩
  · rw [ha.g (.inr (.inr (by dsimp only; omega))), State.setIctx_g, hcount,
      h.g _ (by dsimp only [FRef.apart]; omega) (by dsimp only [FRef.apart]; omega)]
  · have hcore : ((y.frameDrop p true).setIctx j c x).coreOn = true := by
      unfold State.coreOn at hc ⊢
      rw [State.setIctx_pwr, hpwr, h.pwr, hc]
    rw [hx]
    exact State.raise_stands _ _ _ (by decide) hcore

/-- A row beyond HEIGHT, with DE or embedded sync, closes the frame; LONG counts it and EV_CAP_FRAME_LONG stands (R165). -/
theorem RowArrives.closes (h : RowArrives p ys s y) (hc : s.coreOn = true) (hf : (s.cport p).frame.isSome = true) (hj : j < 4)
    (huse : s.gb (Reg.CAP.DE_USE p) = true ∨ s.gb (Reg.CAP.SYNC p) = true) :
    ((y.rowBeyond p j c).cport p).frame = none ∧
      (y.rowBeyond p j c).g (Reg.CAP.LONG p) = (s.g (Reg.CAP.LONG p) + 1) % 65536 ∧
      (y.rowBeyond p j c).evStatus Ev.capFrameLong = true ∧ (y.rowBeyond p j c).gb (Reg.CAP.IN_FRAME p) = false := by
  unfold State.rowBeyond
  rw [if_pos (by rw [h.gb _, h.gb _]; simpa using huse)]
  extract_lets x z
  have ha : Aside ((y.inc (Reg.CAP.LONG p)).inc (Reg.CAP.LONG_ROWS p)) x := State.raise_aside (Aside.refl _) _ _ (by decide)
  have hlong : x.g (Reg.CAP.LONG p) = (s.g (Reg.CAP.LONG p) + 1) % 65536 := by
    rw [ha.g (.inr (.inr (by dsimp only; omega))), State.inc_g_other _ _ _ (by dsimp only; omega),
      State.g_inc_same _ _ (by dsimp only; omega), h.g _ (by dsimp only [FRef.apart]; omega) (by dsimp only [FRef.apart]; omega)]
    rfl
  have hcore : y.coreOn = true := h.coreOn.trans hc
  have hopen : (x.cport p).frame.isSome = true := by
    rw [ha.cport, State.inc_cport, State.inc_cport, h.frame, hf]
  have hz : FrameCloses p x (z.setCport p { z.cport p with rowsIn := z.capH p + 1 }) :=
    (State.capFinish_closes (by rw [ha.coreOn]; exact hcore) hj hopen c Fl.overlong).setRowsIn _
  exact ⟨hz.frame, hz.long.trans hlong, hz.stands.evStatus (by decide) (State.raise_stands _ _ _ (by decide) hcore), hz.inFrame⟩

end Rows

end Sys2Proof.Machine
end

section
/-! PROOF. How a frame of a capture port ends and the next one starts, and what the commands of the port make of it (R159, R160, R162,
R164, R166). -/

-- One lemma after the other: elaborated side by side, they take more threads than the memory of the check holds.
set_option Elab.async false

namespace Sys2Proof.Machine

/-! ### The end of a frame (R162, R164, R166) -/

section Ends

variable {p j c : Nat} {f : CapFrame} {s : State}

theorem capEnd_closes (hc : s.coreOn = true) (hf : (s.cport p).frame = some f) (hk : (s.ctxOf p).isSome = true)
    (hdone : f.done = s.capH p) : FrameCloses p s (capEnd p s) := by
  obtain ⟨⟨j, c⟩, hk⟩ := Option.isSome_iff_exists.1 hk
  unfold capEnd
  rw [hf, hk]
  dsimp only
  rw [if_pos (by simp [hc, hdone])]
  exact State.capClose_closes (State.ctxOf_lt hk).1 (by rw [hf]; rfl) c 0

theorem capTimeout_closes (hc : s.coreOn = true) (hf : (s.cport p).frame = some f) (hk : (s.ctxOf p).isSome = true)
    (hrows : (s.cport p).rowsIn < s.capH p)
    (hlate : (s.cport p).rowAt + 1000000 * s.g (Reg.CAP.FRAME_TIMEOUT_MS p) ≤ s.clock) :
    FrameCloses p s (capTimeout p s) ∧ (capTimeout p s).evStatus Ev.capFrameShort = true := by
  obtain ⟨⟨j, c⟩, hk⟩ := Option.isSome_iff_exists.1 hk
  unfold capTimeout
  extract_lets x
  rw [show x.frame = some f from hf, hk]
  dsimp only
  rw [if_pos (by simp [x, hc, hrows, hlate])]
  exact State.capShort_closes hc (State.ctxOf_lt hk).1 (by rw [hf]; rfl) c

theorem capBusError_write_closes (hc : s.coreOn = true) (hf : (s.cport p).frame = some f) (hk : (s.ctxOf p).isSome = true) :
    FrameCloses p s (capBusError p true s) ∧ (capBusError p true s).evStatus Ev.capFrameShort = true := by
  obtain ⟨⟨j, c⟩, hk⟩ := Option.isSome_iff_exists.1 hk
  unfold capBusError
  rw [hf, hk]
  dsimp only
  rw [if_neg (by simp [hc]), if_pos rfl]
  exact State.capWriteError_closes hc (State.ctxOf_lt hk).1 (by rw [hf]; rfl) c 0

/-- An error of the reference read while noise reduction is on turns it off for the frame. -/
theorem capBusError_read (hc : s.coreOn = true) (hf : (s.cport p).frame = some f) (hk : s.ctxOf p = some (j, c))
    (hen : s.act j c (Reg.ISP.CTX.TNR_EN j c) ≠ 0) (hoff : f.tnrOff = false) :
    capBusError p false s = (s.setFrame_ p { f with tnrOff := true }).inc (Reg.CAP.BUS_ERR p) := by
  unfold capBusError
  rw [hf, hk]
  dsimp only
  rw [if_neg (by simp [hc]), if_neg (by simp), if_pos (by simp [hen, hoff])]
  unfold State.tnrError
  rw [hf]

end Ends

/-! ### What the start of a frame leaves -/

section Stamp

variable (s : State) (code : Nat) (on : Bool)

theorem State.stamp_g (f : FRef) (hf : Reg.TIME.STAMP_STATUS.OVF.addr ≠ f.addr) : (s.stamp code on).g f = s.g f := by
  unfold State.stamp
  repeat' split
  · rfl
  · rfl
  · exact State.g_p_other _ _ _ _ (.inl hf)

theorem State.stamp_cport (p : Nat) : (s.stamp code on).cport p = s.cport p := by
  unfold State.stamp
  repeat' split
  all_goals rfl

theorem State.stamp_pwr : (s.stamp code on).pwr = s.pwr := by
  unfold State.stamp
  repeat' split
  all_goals rfl

theorem State.stamp_count : (s.stamp code on).time.count = s.time.count := by
  unfold State.stamp
  repeat' split
  all_goals rfl

/-- A stamp is taken of wall time and leaves it. -/
theorem State.stamp_wall : (s.stamp code on).wall = s.wall := by
  have hrate : (s.stamp code on).g Reg.TIME.RATE.RATE = s.g Reg.TIME.RATE.RATE := s.stamp_g code on _ (by decide)
  have hoffset : (s.stamp code on).time.offset = s.time.offset := by
    unfold State.stamp
    repeat' split
    all_goals rfl
  unfold State.wall State.wallAt State.gi
  rw [hrate, hoffset, State.stamp_count]

end Stamp

/-- From `s` to `t` stay what port `p` is beyond its registers, and IN_FRAME. -/
structure OpenStays (p : Nat) (s t : State) : Prop where
  cport : t.cport p = s.cport p
  inFrame : t.gb (Reg.CAP.IN_FRAME p) = s.gb (Reg.CAP.IN_FRAME p)

section Open

variable {p j c : Nat} {s₀ s t : State}

theorem OpenStays.refl (p : Nat) (s : State) : OpenStays p s s := ⟨rfl, rfl⟩

theorem OpenStays.trans (h : OpenStays p s₀ s) (k : OpenStays p s t) : OpenStays p s₀ t :=
  ⟨k.cport.trans h.cport, k.inFrame.trans h.inFrame⟩

theorem OpenStays.aside (h : OpenStays p s₀ s) (k : Aside s t) : OpenStays p s₀ t :=
  h.trans ⟨k.cport p, by rw [State.gb, k.g (.inr (.inr (by dsimp only; omega))), State.gb]⟩

theorem State.p_openStays (h : OpenStays p s₀ s) (f : FRef) (v : Nat) (hf : f.addr ≠ 0x10380014 + 0x10000 * p := by dsimp only; omega) :
    OpenStays p s₀ (s.p f v) :=
  h.trans ⟨rfl, State.gb_p_other _ _ _ _ (.inl hf)⟩

theorem State.setIctx_openStays (h : OpenStays p s₀ s) (j c : Nat) (x : IspCtx) : OpenStays p s₀ (s.setIctx j c x) :=
  h.trans ⟨State.setIctx_cport _ _ _ _ _, rfl⟩

theorem State.applyShadow_openStays (h : OpenStays p s₀ s) (_ : c < 4) (q : Nat) : OpenStays p s₀ (s.applyShadow j c q) := by
  unfold State.applyShadow
  split
  · extract_lets bad x
    have hx : OpenStays p s₀ x :=
      State.p_openStays (State.p_openStays h (Reg.ISP.CTX.APPLY j c) _) (Reg.ISP.CTX.APPLY_RESULT j c) _
    split
    · exact hx.aside (State.logIgnored_aside (Aside.refl x) _ _ _)
    · exact State.setIctx_openStays hx _ _ _
  · exact h

/-- A context that takes the frame of a port runs, and neither it nor its source touches the port. -/
theorem State.ctxRuns (s : State) (hj : j < 4) (hc : c < 4) (x : IspCtx) {i : Nat} (_ : i < 512) (settled : Bool)
    (ht : t = (let u := (s.p (Reg.ISP.CTX.STATE j c) 2).setIctx j c x
      if settled then u else (u.p (Reg.ING.SRC.STATE i) 2).raise Ev.srcArrived i)) :
    OpenStays p s t ∧ t.g (Reg.ISP.CTX.STATE j c) = 2 := by
  subst ht
  extract_lets u
  have hu : OpenStays p s u :=
    State.setIctx_openStays (State.p_openStays (OpenStays.refl p s) (Reg.ISP.CTX.STATE j c) 2) _ _ _
  have hrun : u.g (Reg.ISP.CTX.STATE j c) = 2 := State.g_p_same s (Reg.ISP.CTX.STATE j c) 2 (by dsimp only; omega)
  have ha : Aside (u.p (Reg.ING.SRC.STATE i) 2) ((u.p (Reg.ING.SRC.STATE i) 2).raise Ev.srcArrived i) :=
    State.raise_aside (Aside.refl _) _ _ (by decide)
  split
  · exact ⟨hu, hrun⟩
  · refine ⟨(State.p_openStays hu (Reg.ING.SRC.STATE i) 2).aside ha, ?_⟩
    rw [ha.g (.inr (.inr (by dsimp only; omega))), State.g_p_other _ _ _ _ (.inl (by dsimp only; omega)), hrun]

end Open

/-! ### The start of a frame (R159, R160) -/

/-- From `s` to `t` a frame begins at port `p`: IN_FRAME is set, the port holds the stamp of the time that `s` has, no frame, no row and an
empty store, and where no frame was open the context that takes the port runs. -/
structure FrameBegins (p : Nat) (s t : State) : Prop where
  inFrame : t.gb (Reg.CAP.IN_FRAME p) = true
  begun : (t.cport p).begun = some (s.wall, s.time.count)
  frame : (t.cport p).frame = none
  rowsIn : (t.cport p).rowsIn = 0
  store : (t.cport p).store = []
  runs : (s.cport p).frame = none → ∀ k, s.ctxOf p = some k → t.g (Reg.ISP.CTX.STATE k.1 k.2) = 2

theorem FrameCloses.wall {p : Nat} {s t : State} (h : FrameCloses p s t) : t.wall = s.wall := State.wall_congr h.time h.rate

/-- From `s` to `z` port `p` takes the sync of a frame start, the stamp it asks for is queued, and a start without a row is counted. -/
structure StartTaken (p : Nat) (s z : State) : Prop where
  g : ∀ f : FRef, (Reg.CAP.SYNC_ERR p).apart f → Reg.TIME.STAMP_STATUS.OVF.addr ≠ f.addr → (Reg.CAP.EMPTY p).apart f → z.g f = s.g f
  frame : (z.cport p).frame = (s.cport p).frame
  pwr : z.pwr = s.pwr
  wall : z.wall = s.wall
  count : z.time.count = s.time.count

section Start

variable {p : Nat} {s x y z w : State}

theorem SyncTaken.stamp (h : SyncTaken p s x) (code : Nat) (on : Bool) : StartTaken p s (x.stamp code on) := by
  have hwall : x.wall = s.wall := State.wall_congr h.time (h.g _ (by dsimp only [FRef.apart]; omega))
  refine ⟨fun f hsync hovf _ => (x.stamp_g code on f hovf).trans (h.g f hsync), ?_, ?_, ?_, ?_⟩
  · rw [State.stamp_cport, h.frame]
  · rw [State.stamp_pwr, h.pwr]
  · rw [State.stamp_wall, hwall]
  · rw [State.stamp_count, h.time]

theorem StartTaken.inc_empty (h : StartTaken p s y) : StartTaken p s (y.inc (Reg.CAP.EMPTY p)) := by
  have hwall : (y.inc (Reg.CAP.EMPTY p)).wall = y.wall := State.wall_congr rfl (State.inc_g_other _ _ _ (by dsimp only; omega))
  exact ⟨fun f hsync hovf hempty => (State.g_inc_apart y hempty).trans (h.g f hsync hovf hempty), h.frame, h.pwr, hwall.trans h.wall,
    h.count⟩

theorem StartTaken.coreOn (h : StartTaken p s z) : z.coreOn = s.coreOn := by
  unfold State.coreOn
  rw [h.pwr]

theorem StartTaken.ctxOf (h : StartTaken p s z) (q : Nat) : z.ctxOf q = s.ctxOf q := by
  have hg (f : FRef) (hovf : 0x10380000 ≤ f.addr) (hport : f.addr % 0x100 < 0x14) : z.g f = s.g f :=
    h.g f (.inl (by dsimp only; omega)) (by dsimp only; omega) (.inl (by dsimp only; omega))
  refine State.ctxOf_congr (fun j c => ⟨?_, hg _ (by dsimp only; omega) (by dsimp only; omega)⟩) q
  rw [State.gb, hg _ (by dsimp only; omega) (by dsimp only; omega), State.gb]

/-- Port `p` with the field of its frame and IN_FRAME shown. -/
def State.frameShown (w : State) (p field : Nat) : State := (w.p (Reg.CAP.FIELD p) field).pb (Reg.CAP.IN_FRAME p) true

theorem State.frameShown_g (w : State) (p field : Nat) (f : FRef) (hf : f.addr ≠ 0x10380014 + 0x10000 * p := by dsimp only; omega) :
    (w.frameShown p field).g f = w.g f := by
  rw [State.frameShown, State.pb, State.g_p_other _ _ _ _ (.inl hf.symm), State.g_p_other _ _ _ _ (.inl hf.symm)]

theorem State.frameShown_inFrame (w : State) (p field : Nat) : (w.frameShown p field).gb (Reg.CAP.IN_FRAME p) = true :=
  State.gb_pb_val _ _ _ (by dsimp only; omega)

theorem State.frameShown_ctxOf (w : State) (p field q : Nat) : (w.frameShown p field).ctxOf q = w.ctxOf q := by
  refine State.ctxOf_congr (fun j c => ⟨?_, w.frameShown_g p field _⟩) q
  rw [State.gb, w.frameShown_g p field _, State.gb]

theorem State.frameShown_wall (w : State) (p field : Nat) : (w.frameShown p field).wall = w.wall :=
  State.wall_congr rfl (w.frameShown_g p field _)

theorem State.frameShown_count (w : State) (p field : Nat) : (w.frameShown p field).time.count = w.time.count := rfl

end Start

/-- A frame start at an enabled port ends the frame before, if one is open, and begins its own. -/
theorem capStart_begins {p : Nat} {xy : List Nat} {l : Bool} {s : State} (hc : s.coreOn = true)
    (he : s.gb (Reg.CAP.ENABLE p) = true) (hb : (s.xyAll p xy).frameBegins p l = true) : FrameBegins p s (capStart p xy l s) := by
  unfold capStart
  rw [if_neg (by simp [hc, he])]
  extract_lets x y port z w field u port' v
  rw [if_neg (by simp [x, hb])]
  have hy : StartTaken p s y := (State.xyAll_taken s p xy).stamp _ _
  have hport : port.frame = (s.cport p).frame := hy.frame
  have hz : StartTaken p s z := by
    unfold z
    split
    · exact hy.inc_empty
    · exact hy
  have hlast : (s.cport p).frame.isSome = true ∧ FrameCloses p z w ∨ w = z := by
    unfold w
    split
    · next hf hk =>
      have hopen : (s.cport p).frame.isSome = true := by rw [← hport, hf]; rfl
      have hzopen : (z.cport p).frame.isSome = true := by rw [hz.frame, hopen]
      split
      · exact .inl ⟨hopen, (State.capShort_closes (hz.coreOn.trans hc) (State.ctxOf_lt hk).1 hzopen _).1⟩
      · exact .inl ⟨hopen, State.capFinish_closes (hz.coreOn.trans hc) (State.ctxOf_lt hk).1 hzopen _ _⟩
    · exact .inr rfl
  have hwtimes : w.wall = s.wall ∧ w.time.count = s.time.count := by
    rcases hlast with ⟨-, hclose⟩ | hw
    · exact ⟨hclose.wall.trans hz.wall, by rw [hclose.time, hz.count]⟩
    · rw [hw]
      exact ⟨hz.wall, hz.count⟩
  have hctx (hnone : (s.cport p).frame = none) (q : Nat) : v.ctxOf q = s.ctxOf q := by
    rcases hlast with ⟨hopen, -⟩ | hw
    · simp [hnone] at hopen
    · have huctx : u.ctxOf q = w.ctxOf q := w.frameShown_ctxOf p field q
      rw [State.setCport_ctxOf, huctx, hw, hz.ctxOf]
  have hvin : v.gb (Reg.CAP.IN_FRAME p) = true :=
    (State.setCport_gb _ _ _ _).trans (w.frameShown_inFrame p field)
  have hvport : v.cport p = { port' with
      blank := false, hsyncs := 0, begun := some (s.wall, s.time.count), rowsIn := 0, frame := none, store := [], startAt := u.clock } := by
    have huwall : u.wall = s.wall := (w.frameShown_wall p field).trans hwtimes.1
    have hucount : u.time.count = s.time.count := (w.frameShown_count p field).trans hwtimes.2
    rw [State.cport_setCport_same, huwall, hucount]
  have hbegins {t : State} (ht : OpenStays p v t)
      (hrun : (s.cport p).frame = none → ∀ k, s.ctxOf p = some k → t.g (Reg.ISP.CTX.STATE k.1 k.2) = 2) : FrameBegins p s t := by
    obtain ⟨htport, htin⟩ := ht
    rw [hvport] at htport
    exact ⟨htin.trans hvin, by rw [htport], by rw [htport], by rw [htport], by rw [htport], hrun⟩
  split
  · next hnone =>
    exact hbegins (OpenStays.refl p v) fun hf k hk => absurd ((hctx hf p).symm.trans hnone) (by simp [hk])
  · next k hk =>
    obtain ⟨hj, hcx⟩ := State.ctxOf_lt hk
    obtain ⟨ht, hrun⟩ := State.ctxRuns (p := p) (v.applyShadow k.1 k.2 p) hj hcx _ (v.g_lt (Reg.ISP.CTX.SRC k.1 k.2)) _ rfl
    refine hbegins ((State.applyShadow_openStays (OpenStays.refl p v) hcx p).trans ht) fun hf k' hk' => ?_
    obtain rfl : k' = k := Option.some.inj ((hk'.symm.trans (hctx hf p).symm).trans hk)
    exact hrun

end Sys2Proof.Machine
end

section
/-! PROOF. The frames of a capture port (O29). -/

namespace Sys2Proof.Machine

/-- Settles O29. A line that brings a row of an open frame is followed to the store or beyond HEIGHT (`capRow_arrives`); a frame that ends,
in whichever way, closes (`FrameCloses`), since what the pipe does before, the repeats of a short frame at once among it (log entry
51), leaves the counts of the port (`PortStays`); a frame start ends the frame before and leaves wall time (`capStart_begins`). -/
theorem captureFrames : Obligations.CaptureFrames := by
  refine ⟨?starts, ?stores, ?drops, ?overlong, ?closes, ?timeout, ?writeError, ?readError⟩
  case starts =>
    intro dt p xy l s hc he hb
    have htaken := (s.advance dt).pclkSeen_taken p.val
    have hagree := ((s.advance dt).pclkSeen_agrees p.val).xyAll xy
    obtain ⟨hin, hbegun, hframe, hrows, hstore, hruns⟩ := capStart_begins (p := p.val) (xy := xy) (l := l)
      (s := (s.advance dt).pclkSeen p.val) (by rw [htaken.coreOn, State.advance_coreOn, hc])
      (by rw [htaken.gb _, State.advance_gb, he]) (by rw [hagree.frameBegins, hb])
    have hwall : ((s.advance dt).pclkSeen p.val).wall = (s.advance dt).wall :=
      State.wall_congr htaken.time (htaken.g _ (by dsimp only [FRef.apart]; omega))
    refine ⟨_, rfl, hin, ?_, hframe, hrows, hstore, fun hnone k hk => hruns ?_ k ?_⟩
    · rw [hbegun, hwall, htaken.time]
    · rw [htaken.frame, State.advance_cport, hnone]
    · rw [htaken.ctxOf, State.advance_ctxOf, hk]
  case stores =>
    intro dt p xy ys cs l v f s hc he hf hv hk hrows hroom
    obtain ⟨⟨j, c⟩, hk⟩ := Option.isSome_iff_exists.1 hk
    obtain ⟨y, hy, hrow⟩ := capRow_arrives hc he (by rw [hf]; rfl) hk hv
    rw [if_pos hrows] at hrow
    obtain ⟨hstore, hcount, hlast, herr, hframe, hbytes⟩ := hy.stores (j := j) (c := c) (s.fitRow p.val v.1 v.2) hroom
    exact ⟨_, congrArg Host.Outcome.next hrow, hstore, hcount, hlast, herr, hframe.trans hf, hbytes⟩
  case drops =>
    intro dt p xy ys cs l v f s hc he hf _ hv hk hrows hfull
    obtain ⟨⟨j, c⟩, hk⟩ := Option.isSome_iff_exists.1 hk
    have hopen : (s.cport p.val).frame.isSome = true := by rw [hf]; rfl
    obtain ⟨y, hy, hrow⟩ := capRow_arrives hc he hopen hk hv
    rw [if_pos hrows] at hrow
    exact ⟨_, congrArg Host.Outcome.next hrow, hy.drops hc hopen _ hfull⟩
  case overlong =>
    intro dt p xy ys cs l v f s hc he hf _ hv hk hrows huse
    obtain ⟨⟨j, c⟩, hk⟩ := Option.isSome_iff_exists.1 hk
    have hopen : (s.cport p.val).frame.isSome = true := by rw [hf]; rfl
    obtain ⟨y, hy, hrow⟩ := capRow_arrives hc he hopen hk hv
    rw [if_neg (not_lt.2 hrows)] at hrow
    exact ⟨_, congrArg Host.Outcome.next hrow, hy.closes hc hopen (State.ctxOf_lt hk).1 huse⟩
  case closes =>
    intro dt p f s hc hf _ hk hdone
    have h : FrameCloses p.val (s.advance dt) (capEnd p.val (s.advance dt)) :=
      capEnd_closes (f := f) (by simp [hc]) (by simp [hf]) (by simp [hk]) (by simp [hdone])
    exact ⟨_, rfl, h.frame, h.inFrame, by rw [h.frames, State.advance_g]⟩
  case timeout =>
    intro dt p f s hc hf _ hk hrows hlate
    obtain ⟨h, hev⟩ := capTimeout_closes (p := p.val) (s := s.advance dt) (f := f) (by simp [hc]) (by simp [hf]) (by simp [hk])
      (by simpa using hrows) (by simpa using hlate)
    exact ⟨_, rfl, h.frame, h.inFrame, hev, by rw [h.frames, State.advance_g]⟩
  case writeError =>
    intro dt p f s hc hf _ hk
    obtain ⟨h, hev⟩ := capBusError_write_closes (p := p.val) (s := s.advance dt) (f := f) (by simp [hc]) (by simp [hf]) (by simp [hk])
    exact ⟨_, rfl, h.frame, hev, by rw [h.frames, State.advance_g]⟩
  case readError =>
    intro dt p f j c s hc hf hk hen hoff
    have h := capBusError_read (p := p.val) (s := s.advance dt) (f := f) (by simp [hc]) (by simp [hf])
      (by simp [hk] : (s.advance dt).ctxOf p.val = some (j, c)) (by simpa [State.act, State.ictx] using hen) hoff
    refine ⟨_, congrArg Host.Outcome.next h, ?_, ?_, State.byte_congr (State.advance_mem s dt)⟩
    · rw [State.inc_cport, State.setFrame_, State.cport_setCport_same]
    · rw [State.g_inc_same _ _ (by dsimp only; omega), State.setFrame_, State.setCport_g, State.advance_g]
      rfl

end Sys2Proof.Machine
end

section
/-! PROOF. A row that an image pipe takes while its defect correction trails the input (R168, R175, R181). -/

namespace Sys2Proof.Machine

/-- Pipe 1 serves context 3 for RAW port 2 of 16 × 16 samples. The dynamic defect correction of stage 2 is on, whose 5 × 5 windows keep
the pipe two rows behind its input; the first row of a frame waits in the store. -/
def trailingPipe : State :=
  let s := [(Reg.CAP.ENABLE 2, 1), (Reg.CAP.WIDTH_M1 2, 15), (Reg.CAP.HEIGHT_M1 2, 15), (Reg.CAP.IN_FRAME 2, 1),
    (Reg.ISP.CTX.ENABLE 1 3, 1), (Reg.ISP.CTX.PORT 1 3, 2), (Reg.ISP.CTX.SRC 1 3, 4), (Reg.ISP.CTX.STATE 1 3, 2),
    (Reg.ISP.CTX.DYN_EN 1 3, 1), (Reg.ING.SRC.STATE 4, 2), (Reg.ING.BUF.STATE 7, 1)].foldl (fun s e => s.p e.1 e.2) State.reset
  let row : CapRow := ⟨List.replicate 16 4096, []⟩
  ((s.setCport 2 { CapPort.reset with
    store := [row], rowsIn := 1, last := row, frame := some ⟨1, 5, 6, 0, 7, none, none, [], 0, [], [], [], [], false, false⟩ }).setIctx
      1 3 { IspCtx.reset with active := [((Reg.ISP.CTX.DYN_EN 1 3).addr, 2 ^ 16)] })

/-- The row is taken from the store into the frame, but completes no row of the pipe: ROWS stays. -/
theorem ispRow_trailingPipe : (ispRow 1 (trailingPipe.advance 0)).g (Reg.ISP.ROWS 1) = 0 := by decide +kernel

/-- Refutes O30: the row that the pipe takes in `trailingPipe` counts in no ROWS, since ROWS counts the rows processed and the first two
rows of a frame process none while stage 2 trails its input by two rows. -/
theorem not_imageContexts : ¬ Obligations.ImageContexts := by
  rintro ⟨-, -, -, -, -, hrow, -⟩
  obtain ⟨t, ht, hrows, -⟩ := hrow 0 1 3 2 ⟨1, 5, 6, 0, 7, none, none, [], 0, [], [], [], [], false, false⟩
    ⟨List.replicate 16 4096, []⟩ [] trailingPipe (by decide +kernel) (by decide +kernel) (by decide +kernel) (by decide +kernel)
    (by decide +kernel) (by decide +kernel)
  obtain rfl := Host.Outcome.next.inj ht
  have hbefore : trailingPipe.g (Reg.ISP.ROWS 1) = 0 := by decide +kernel
  have hafter : (ispRow 1 (trailingPipe.advance 0)).g (Reg.ISP.ROWS 1) = (trailingPipe.g (Reg.ISP.ROWS 1) + 1) % 2 ^ 32 := hrows
  rw [ispRow_trailingPipe, hbefore] at hafter
  exact absurd hafter (by decide)

end Sys2Proof.Machine
end

section
/-! PROOF. A genlock measurement at which a head loses its lock, and the event of that is logged in memory (R241, R243, R490, R498). -/

namespace Sys2Proof.Machine

/-- Head 0 shows 1920 × 1080 at 60 Hz, 2200 × 1125 at 148.5 MHz, genlocked to rate HZ60 and LOCKED; the measurement before was outside
LOCK_WINDOW_NS, and the last flip, 20 ms from the epoch, lies some 3.4 ms behind an alignment instant. The event log is on, its ring at the
start of DRAM, and takes LOCK_LOST of the head. -/
def lockedAstray : State :=
  let s := [(Reg.CLK.VPLL.N 0, 95), (Reg.CLK.FRAC_NUM 0, 1), (Reg.CLK.FRAC_DEN 0, 25), (Reg.CLK.VPLL.POST 0, 2),
    (Reg.CLK.VPLL.ENABLE 0, 1), (Reg.CLK.RUNNING, 2 ^ 8), (Reg.HEAD.CLK_SEL.PIX_DIV_M1 0, 3), (Reg.HEAD.HTIM_ACT.ACT_M1 0, 1919),
    (Reg.HEAD.HTIM_ACT.SYNC_M1 0, 43), (Reg.HEAD.HTIM_PORCH.FP_M1 0, 87), (Reg.HEAD.HTIM_PORCH.BP_M1 0, 147),
    (Reg.HEAD.VTIM_ACT.ACT_M1 0, 1079), (Reg.HEAD.VTIM_ACT.SYNC_M1 0, 4), (Reg.HEAD.VTIM_PORCH.FP_M1 0, 3),
    (Reg.HEAD.VTIM_PORCH.BP_M1 0, 35), (Reg.HEAD.CTRL.ENABLE 0, 1), (Reg.HEAD.STATUS.RUN_STATE 0, 2), (Reg.HEAD.STATUS.GL_STATE 0, 2),
    (Reg.HEAD.GL_CTRL.GL_EN 0, 1), (Reg.HEAD.GL_CTRL.RATE 0, 8), (Reg.HEAD.GL_CTRL.TRIM_MAX_PPM 0, 100),
    (Reg.EVT.LOG_EN, 1), (Reg.EVT.LOG_BASE, dramBase / 4096), (Reg.EVT.LOG_LOG2, 8), (Reg.EVT.HEAD_CAUSE.CAUSE_EN 0, HC.lockLost),
    (Reg.EVT.ENABLE 2, 1), (Reg.EVT.ROUTE.LOG 64, 1)].foldl (fun s e => s.p e.1 e.2) State.reset
  s.setHead 0 { s.head 0 with flip := 20000000, missRun := 1 }

/-- With the second measurement in a row outside the window the head leaves LOCKED, and the source of its event, 64 for head 0, is the first
byte of the record. -/
theorem glMeasure_lockedAstray : (glMeasure 0 (lockedAstray.advance 0)).byte dramBase = 64 := by decide +kernel

theorem lockedAstray_byte : lockedAstray.byte dramBase = 0 := by decide +kernel

/-- Refutes O33: its clause on a genlock measurement says that no byte of memory changes; but the measurement that ends LOCKED raises
LOCK_LOST (R243), and where that is routed to the log its record is written to memory (R498), as in `lockedAstray`. -/
theorem not_headCommits : ¬ Obligations.HeadCommits := by
  rintro ⟨-, -, -, -, -, -, -, -, -, hmeasure, -⟩
  obtain ⟨t, ht, -, hmem⟩ :=
    hmeasure 0 0 lockedAstray (by decide +kernel) (by decide +kernel) (by decide +kernel) (by decide +kernel)
  obtain rfl := Host.Outcome.next.inj ht
  have hbyte : (glMeasure 0 (lockedAstray.advance 0)).byte dramBase = lockedAstray.byte dramBase := hmem dramBase
  rw [glMeasure_lockedAstray, lockedAstray_byte] at hbyte
  exact absurd hbyte (by decide)

end Sys2Proof.Machine
end

section
/-! PROOF. What a write to DRAM by a device's master makes of memory: the bytes written, and no other; the requests that go before it at its
ports move no byte (R409, R411, R416, R522). -/

-- One lemma after the other: elaborated side by side, they take more threads than the memory of the check holds.
set_option Elab.async false

namespace Sys2Proof.Machine

/-! ### Ports and controllers -/

section Memory

variable (s : State)

theorem State.foldl_mem {α : Type} {f : State → α → State} (l : List α) (hf : ∀ s x, (f s x).mem = s.mem) :
    (l.foldl f s).mem = s.mem :=
  List.foldlRecOn (motive := fun t : State => t.mem = s.mem) l f rfl fun t ht x _ => (hf t x).trans ht

theorem State.countBurst_mem (m a n : Nat) : (s.countBurst m a n).mem = s.mem := by
  unfold State.countBurst
  split
  · exact s.foldl_mem _ fun t x => by rw [State.p_mem, State.inc_mem]
  · split <;> rfl

theorem State.queueSettle_mem (a n : Nat) : (s.queueSettle a n).mem = s.mem := by
  obtain ⟨q, d, e⟩ := s.queueSettle_only a n
  rw [e]

theorem State.queueTake_mem (write : Bool) (qos a n : Nat) (on : List Bool) : (s.queueTake write qos a n on).mem = s.mem := by
  obtain ⟨q, d, e⟩ := s.queueTake_only write qos a n on
  rw [e]

theorem State.queueBurst_mem (write : Bool) (qos a n : Nat) (on : List Bool) : (s.queueBurst write qos a n on).mem = s.mem := by
  rw [State.queueBurst, State.queueTake_mem, State.queueSettle_mem]

theorem State.chansServed_mem (l : List Nat) : (l.foldl (fun s ch => s.chanServed ch) s).mem = s.mem := by
  refine s.foldl_mem l fun s ch => ?_
  unfold State.chanServed
  split <;> rfl

/-- A grant settles what a read shows and which bytes a write still brings; memory stays. -/
theorem State.grantReq_mem (p : PendReq) (sent : Nat) : (s.grantReq p sent).mem = s.mem := by
  unfold State.grantReq
  extract_lets t reaches q bus x y
  have hx : x.mem = s.mem := by
    show t.mem = s.mem
    unfold t
    split
    · exact s.queueSettle_mem _ _
    · rfl
  have hy : y.mem = s.mem := by
    unfold y
    split
    · exact hx
    · rw [State.queueTake_mem, hx]
  split
  · exact hx
  · rw [State.chansServed_mem, State.countBurst_mem, hy]

theorem State.portYield_mem (t m qos : Nat) : (s.portYield t m qos).mem = s.mem := by
  unfold State.portYield
  refine State.foldl_mem _ _ fun s _ => ?_
  split
  · dsimp only
    split
    · exact s.grantReq_mem _ _
    · rfl
  · rfl

theorem State.arrive_mem (m qos a n : Nat) (write : Bool) (on : List Bool) : (s.arrive m qos a n write on).mem = s.mem := by
  unfold State.arrive
  extract_lets ports x y
  have hy : y.mem = s.mem := (State.chansServed_mem _ _).trans (s.foldl_mem _ fun s _ => s.portYield_mem _ _ _)
  split
  · rfl
  · split <;> exact hy

end Memory

/-! ### A burst that passes its checks -/

section Burst

variable {s : State} {m a n : Nat}

theorem State.inDram_iff : s.inDram a n = true ↔ dramBase ≤ a ∧ a + n ≤ dramBase + s.dramBytes := by simp [State.inDram]

theorem State.inDram_first (h : s.inDram a n = true) (hn : 1 ≤ n) : s.inDram a 1 = true := by
  rw [State.inDram_iff] at h ⊢
  omega

/-- A transfer that ends within 16 beats and its 4 KiB page is one burst (R522). -/
theorem burstsOf_single (fuel : Nat) (hn : 1 ≤ n) (hbeats : a % 32 + n ≤ 512) (hpage : a % 4096 + n ≤ 4096) :
    burstsOf (fuel + 1) a n = [(a, n)] := by
  have hstop : min (min (a / 32 * 32 + 512) (a / 4096 * 4096 + 4096)) (a + n) = a + n := by omega
  have hrest : ∀ k b, burstsOf k b 0 = [] := fun k b => by cases k <;> rfl
  rw [burstsOf, if_neg (by omega)]
  simp only [hstop, Nat.sub_self, Nat.add_sub_cancel_left, hrest]

/-- An access to DRAM within a page passes the checks of R416. -/
theorem State.dataCheck_dram (write : Bool) (h : s.inDram a n = true) (hn : 1 ≤ n) (hpage : a % 4096 + n ≤ 4096) :
    s.dataCheck m a n write = none := by
  have hbase : 0x800000000 ≤ a := (State.inDram_iff.1 h).1
  have htarget : s.dataTarget a = some (s.channelOf a / 2) := by
    unfold State.dataTarget
    rw [if_neg (by omega), if_neg (by omega), if_neg (by omega), if_neg (by omega), if_neg (by omega),
      if_pos (State.inDram_first h hn)]
  have hallowed : s.dataAllowed m a write = true := by
    unfold State.dataAllowed
    rw [if_neg (by omega)]
    split
    · rfl
    · rw [if_neg (by omega), if_neg (by omega), if_neg (by omega)]
  have hflash : ¬ (0x8000000 ≤ a ∧ a < 0x10000000) := by omega
  have hsame : a / 4096 = (a + n - 1) / 4096 := by omega
  simp [State.dataCheck, htarget, hallowed, hflash, hsame]

/-- No buffer's lease stops a master that writes no pictures (R223). -/
theorem State.leaseHit_of_not_producer (hm : producer m = false) : s.leaseHit m a n = none := by simp [State.leaseHit, hm]

/-- A burst to DRAM of a master that writes no pictures stores its bytes. -/
theorem State.writeBurst_dram_mem (qos id : Nat) {bs : List Byte} (hm : producer m = false) (h : s.inDram a bs.length = true)
    (hn : 1 ≤ bs.length) (hpage : a % 4096 + bs.length ≤ 4096) :
    (s.writeBurst m qos id a bs []).1.mem = cellsWrite s.mem a bs := by
  have hbase : 0x800000000 ≤ a := (State.inDram_iff.1 h).1
  have hregs : inRegs a = false := by simp [inRegs, inRange]; omega
  unfold State.writeBurst
  rw [hregs, State.dataCheck_dram true h hn hpage, State.leaseHit_of_not_producer hm, if_neg Bool.false_ne_true]
  dsimp only
  unfold State.storeMasked State.storeData
  rw [if_pos (by rfl), if_neg (by omega)]
  show cellsWrite _ a bs = _
  rw [State.countBurst_mem, State.queueBurst_mem, State.arrive_mem]

/-- So does a transfer of one burst, where the master's port does not drain. -/
theorem State.dmaWrite_dram_mem (own : Nat) {bs : List Byte} (hm : producer m = false) (hd : s.draining m = false)
    (h : s.inDram a bs.length = true) (hn : 1 ≤ bs.length) (hbeats : a % 32 + bs.length ≤ 512) (hpage : a % 4096 + bs.length ≤ 4096) :
    (s.dmaWrite m own a bs).1.mem = cellsWrite s.mem a bs := by
  have hport : s.portReady m = s := by rw [State.portReady, hd, if_neg Bool.false_ne_true]
  unfold State.dmaWrite
  rw [hport, burstsOf_single _ hn hbeats hpage]
  simp only [State.writeBursts, List.take_length, List.take_nil]
  exact State.writeBurst_dram_mem _ _ hm h hn hpage

end Burst

/-- The bytes of a write read back (R414). -/
theorem cellsRead_cellsWrite_same (mem : List Host.Cell) (a : Nat) {bs : List Byte} {n : Nat} (hn : bs.length = n) :
    cellsRead (cellsWrite mem a bs) a n = bs := by
  rw [cellsRead_cellsWrite_within le_rfl (by omega), Nat.sub_self, List.drop_zero, ← hn, List.take_length]

end Sys2Proof.Machine
end

section
/-! PROOF. Buffers released: what a write of HEAD.RELEASE makes of a buffer by its state and its leases, and what its completion writes and
frees (R221, R222). -/

-- One lemma after the other: elaborated side by side, they take more threads than the memory of the check holds.
set_option Elab.async false

namespace Sys2Proof.Machine

/-- The completions that wait are no register. -/
theorem State.withRel_g (s : State) (l : List (Nat × Bool)) (f : FRef) : ({ s with rel := l } : State).g f = s.g f := rfl

theorem bufState_quiet (b : Nat) : quietAddr (Reg.ING.BUF.STATE b).addr := .inr (.inr (by dsimp only; omega))

theorem bufState_apart_relStatus {b : Nat} (hb : b < 4096) (f : FRef) (hf : 0x10440000 ≤ f.addr) : f.apart (Reg.ING.BUF.STATE b) :=
  .inl (by dsimp only; omega)

/-! ### A write of HEAD.RELEASE (R221) -/

/-- Buffer `b` RELEASING, with LAST_RESULT `r`. -/
def State.released (s : State) (b r : Nat) : State := (s.p (Reg.ING.BUF.STATE b) Bs.releasing).p Reg.HEAD.REL_STATUS.LAST_RESULT r

theorem State.released_bufState (s : State) {b : Nat} (hb : b < 4096) (r : Nat) : (s.released b r).bufState b = Bs.releasing := by
  unfold State.bufState State.released
  rw [State.g_p_apart _ _ (bufState_apart_relStatus hb _ (by decide)), State.g_p_same _ _ _ (by dsimp only; omega)]
  rfl

theorem State.released_result (s : State) (b : Nat) {r : Nat} (hr : r < 16) :
    (s.released b r).g Reg.HEAD.REL_STATUS.LAST_RESULT = r :=
  State.g_p_val _ _ _ ⟨by decide, hr⟩

section Release

variable {m : Nat} {b : Fin 4096} {s : State}

theorem releaseWrite_filling (hs : s.bufState b.val = Bs.filling) :
    releaseWrite m (BitVec.ofNat 32 b.val) s =
      (s.refuse m 0x10440000 (BitVec.ofNat 32 b.val)).p Reg.HEAD.REL_STATUS.LAST_RESULT 2 := by
  unfold releaseWrite
  rw [hostReady_id]
  exact if_pos hs

theorem releaseWrite_releasing (hs : s.bufState b.val = Bs.releasing) :
    releaseWrite m (BitVec.ofNat 32 b.val) s = s.p Reg.HEAD.REL_STATUS.LAST_RESULT 3 := by
  unfold releaseWrite
  rw [hostReady_id]
  dsimp only
  rw [hs, if_neg (by decide), if_pos rfl]

/-- A release of a FREE or READY buffer turns on its leases alone. -/
theorem releaseWrite_idle (hs : s.bufState b.val = Bs.free ∨ s.bufState b.val = Bs.ready) :
    releaseWrite m (BitVec.ofNat 32 b.val) s =
      if (s.buf b.val).leases.isEmpty then { s.released b.val 0 with rel := s.rel ++ [(b.val, false)] }
      else (s.released b.val 1).raise Ev.releaseDeferred b.val := by
  have hfilling : s.bufState b.val ≠ Bs.filling := by rcases hs with hs | hs <;> rw [hs] <;> decide
  have hreleasing : s.bufState b.val ≠ Bs.releasing := by rcases hs with hs | hs <;> rw [hs] <;> decide
  unfold releaseWrite
  rw [hostReady_id]
  dsimp only
  rw [if_neg hfilling, if_neg hreleasing]
  rfl

/-- A FILLING buffer is refused to its releaser and keeps its state. -/
theorem releaseWrite_filling_answers (hs : s.bufState b.val = Bs.filling) :
    let t := releaseWrite m (BitVec.ofNat 32 b.val) s
    t.bufState b.val = Bs.filling ∧ t.g Reg.HEAD.REL_STATUS.LAST_RESULT = 2 ∧ t.bus.resp = some ⟨true, []⟩ ∧ t.rel = s.rel ∧
      t.mem = s.mem := by
  rw [releaseWrite_filling hs]
  generalize (BitVec.ofNat 32 b.val : Word) = v
  have hr := State.refuse_aside (Aside.refl s) m 0x10440000 v
  refine ⟨?_, State.g_p_val _ _ _ (by decide), rfl, hr.rel, State.errLog_mem _ _⟩
  unfold State.bufState
  rw [State.g_p_apart _ _ (bufState_apart_relStatus b.isLt _ (by decide)), hr.g (bufState_quiet _)]
  exact hs

/-- Of a RELEASING buffer nothing changes but LAST_RESULT. -/
theorem releaseWrite_releasing_answers (hs : s.bufState b.val = Bs.releasing) :
    let t := releaseWrite m (BitVec.ofNat 32 b.val) s
    t.bufState b.val = Bs.releasing ∧ t.g Reg.HEAD.REL_STATUS.LAST_RESULT = 3 ∧ t.rel = s.rel ∧ t.mem = s.mem := by
  rw [releaseWrite_releasing hs]
  refine ⟨?_, State.g_p_val _ _ _ (by decide), rfl, rfl⟩
  unfold State.bufState
  rw [State.g_p_apart _ _ (bufState_apart_relStatus b.isLt _ (by decide))]
  exact hs

/-- A buffer that no head leases is FREED: its completion waits. -/
theorem releaseWrite_freed_answers (hs : s.bufState b.val = Bs.free ∨ s.bufState b.val = Bs.ready) (hl : (s.buf b.val).leases = []) :
    let t := releaseWrite m (BitVec.ofNat 32 b.val) s
    t.bufState b.val = Bs.releasing ∧ t.g Reg.HEAD.REL_STATUS.LAST_RESULT = 0 ∧ t.rel = s.rel ++ [(b.val, false)] ∧
      t.mem = s.mem := by
  rw [releaseWrite_idle hs, hl, if_pos (by rfl)]
  dsimp only
  refine ⟨?_, ?_, rfl, rfl⟩
  · unfold State.bufState
    rw [State.withRel_g]
    exact s.released_bufState b.isLt 0
  · rw [State.withRel_g]
    exact s.released_result _ (by decide)

/-- The release of a buffer that heads lease is DEFERRED, with its event. -/
theorem releaseWrite_deferred_answers (hc : s.coreOn = true) (hs : s.bufState b.val = Bs.free ∨ s.bufState b.val = Bs.ready)
    (hl : (s.buf b.val).leases ≠ []) :
    let t := releaseWrite m (BitVec.ofNat 32 b.val) s
    t.bufState b.val = Bs.releasing ∧ t.g Reg.HEAD.REL_STATUS.LAST_RESULT = 1 ∧ t.rel = s.rel ∧
      t.evStatus Ev.releaseDeferred = true := by
  rw [releaseWrite_idle hs, if_neg (by simpa using hl)]
  have ha := State.raise_aside (Aside.refl (s.released b.val 1)) Ev.releaseDeferred b.val (by decide)
  refine ⟨?_, ?_, ha.rel, State.raise_stands _ _ _ (by decide) hc⟩
  · unfold State.bufState
    rw [ha.g (bufState_quiet _)]
    exact s.released_bufState b.isLt 1
  · rw [ha.g (.inr (.inr (by decide)))]
    exact s.released_result _ (by decide)

end Release

/-! ### Completions (R222) -/

/-- The 16 bytes of a completion. -/
def relRecord (b : Nat) (deferred : Bool) (count : Nat) : List Byte :=
  leBytes b 2 ++ leBytes deferred.toNat 1 ++ leBytes 0 5 ++ leBytes count 8

theorem relRecord_length (b : Nat) (deferred : Bool) (count : Nat) : (relRecord b deferred count).length = 16 := rfl

/-- Where the next completion is written: REL_RING_WR of the ring. -/
def State.relSlot (s : State) : Nat := s.relBase + 16 * s.g Reg.HEAD.REL_RING_WR.INDEX

section Completion

variable {b : Nat} {f : Bool} {rest : List (Nat × Bool)} {s : State}

theorem relCompletion_blocked (hr : s.rel = (b, f) :: rest) (hb : s.relBlocked = true) :
    relCompletion s = s.pb Reg.HEAD.REL_STATUS.STALL true := by
  unfold relCompletion
  rw [hr]
  exact if_pos hb

/-- The slot is one burst within its page. -/
theorem State.relSlot_aligned (s : State) : s.relSlot % 32 + 16 ≤ 512 ∧ s.relSlot % 4096 + 16 ≤ 4096 := by
  unfold State.relSlot State.relBase
  omega

/-- The write of a record stores its bytes in its slot. -/
theorem relRecord_write (hd : s.draining 43 = false) (hslot : s.inDram s.relSlot 16 = true) (count : Nat) :
    (s.dmaWrite 43 3 s.relSlot (relRecord b f count)).1.mem = cellsWrite s.mem s.relSlot (relRecord b f count) := by
  obtain ⟨hbeats, hpage⟩ := s.relSlot_aligned
  exact State.dmaWrite_dram_mem 3 (by decide) hd hslot (show 1 ≤ 16 by decide) hbeats hpage

/-- After the record: REL_RING_WR at `next`, buffer `b` FREE, STALL at 0, and the completions `rest` waiting. -/
def State.completed (s : State) (b next : Nat) (rest : List (Nat × Bool)) : State :=
  { ((s.p Reg.HEAD.REL_RING_WR.INDEX next).p (Reg.ING.BUF.STATE b) Bs.free).pb Reg.HEAD.REL_STATUS.STALL false with rel := rest }

theorem State.completed_g (s : State) (b next : Nat) (rest : List (Nat × Bool)) (r : FRef) :
    (s.completed b next rest).g r =
      (((s.p Reg.HEAD.REL_RING_WR.INDEX next).p (Reg.ING.BUF.STATE b) Bs.free).pb Reg.HEAD.REL_STATUS.STALL false).g r :=
  State.withRel_g _ _ _

theorem State.completed_rel (s : State) (b next : Nat) (rest : List (Nat × Bool)) : (s.completed b next rest).rel = rest := rfl

theorem State.completed_mem (s : State) (b next : Nat) (rest : List (Nat × Bool)) : (s.completed b next rest).mem = s.mem := rfl

theorem State.completed_fields (s : State) (hlt : b < 4096) (next : Nat) (rest : List (Nat × Bool)) :
    (s.completed b next rest).bufState b = Bs.free ∧ (s.completed b next rest).gb Reg.HEAD.REL_STATUS.STALL = false ∧
      (s.completed b next rest).g Reg.HEAD.REL_RING_WR.INDEX = next % 4096 := by
  unfold State.bufState State.gb
  simp only [State.completed_g]
  refine ⟨?_, State.gb_pb_same _ _ _, ?_⟩
  · rw [State.g_pb_other _ _ _ _ (.inl (by dsimp only; omega)), State.g_p_val _ _ _ ⟨by dsimp only; omega, by dsimp only; decide⟩]
  · rw [State.g_pb_other _ _ _ _ (.inl (by decide)), State.g_p_other _ _ _ _ (.inl (by dsimp only; omega)),
      State.g_p_same _ _ _ (by decide)]
    rfl

/-- A completion that finds its place goes on from the record written. -/
theorem relCompletion_eq (hr : s.rel = (b, f) :: rest) (hb : s.relBlocked = false) :
    relCompletion s =
      let x := (s.dmaWrite 43 3 s.relSlot (relRecord b f s.time.count)).1
      let y := x.p Reg.HEAD.REL_RING_WR.INDEX ((s.g Reg.HEAD.REL_RING_WR.INDEX + 1) % 2 ^ x.g Reg.HEAD.REL_RING_SIZE.LOG2)
      let z := if y.bufState b = Bs.releasing then y.p (Reg.ING.BUF.STATE b) Bs.free else y
      { z.pb Reg.HEAD.REL_STATUS.STALL false with rel := rest } := by
  unfold relCompletion
  rw [hr]
  dsimp -zeta only
  rw [hb, if_neg Bool.false_ne_true]
  rfl

/-- It ends with REL_RING_WR advanced, the RELEASING buffer FREE and STALL at 0. -/
theorem relCompletion_written (hlt : b < 4096) (hr : s.rel = (b, f) :: rest) (hb : s.relBlocked = false)
    (hs : s.bufState b = Bs.releasing) :
    relCompletion s = (s.dmaWrite 43 3 s.relSlot (relRecord b f s.time.count)).1.completed b
      ((s.g Reg.HEAD.REL_RING_WR.INDEX + 1) % 2 ^ s.g Reg.HEAD.REL_RING_SIZE.LOG2) rest := by
  have hwrite : Transferred s (s.dmaWrite 43 3 s.relSlot (relRecord b f s.time.count)).1 :=
    State.dmaWrite_transferred (Transferred.refl s) (by decide) _ _ _
  rw [relCompletion_eq hr hb]
  generalize (s.dmaWrite 43 3 s.relSlot (relRecord b f s.time.count)).1 = x at hwrite
  have hstate (v : Nat) : (x.p Reg.HEAD.REL_RING_WR.INDEX v).bufState b = Bs.releasing := by
    unfold State.bufState
    rw [State.g_p_apart _ _ (bufState_apart_relStatus hlt _ (by decide)), hwrite.g (.inr (.inr (by dsimp only; omega)))]
    exact hs
  dsimp only
  rw [if_pos (hstate _), hwrite.g (f := Reg.HEAD.REL_RING_SIZE.LOG2) (.inr (.inr (by decide)))]
  rfl

/-- What a completion that finds its place makes of its buffer, the ring and memory. -/
theorem relCompletion_frees (hlt : b < 4096) (hr : s.rel = (b, f) :: rest) (hb : s.relBlocked = false)
    (hs : s.bufState b = Bs.releasing) (hslot : s.inDram s.relSlot 16 = true) (hd : s.draining 43 = false) :
    let t := relCompletion s
    t.rel = rest ∧ t.bufState b = Bs.free ∧ t.gb Reg.HEAD.REL_STATUS.STALL = false ∧
      t.g Reg.HEAD.REL_RING_WR.INDEX = (s.g Reg.HEAD.REL_RING_WR.INDEX + 1) % 2 ^ s.g Reg.HEAD.REL_RING_SIZE.LOG2 % 4096 ∧
      t.mem = cellsWrite s.mem s.relSlot (relRecord b f s.time.count) := by
  rw [relCompletion_written hlt hr hb hs]
  obtain ⟨hstate, hstall, hindex⟩ := State.completed_fields _ hlt _ rest
  exact ⟨State.completed_rel _ _ _ _, hstate, hstall, hindex, (State.completed_mem _ _ _ _).trans (relRecord_write hd hslot _)⟩

end Completion

/-- A record stored reads back, and every byte beside it reads as before. -/
theorem State.bytes_of_record {s t : State} {a b count : Nat} {f : Bool} (h : t.mem = cellsWrite s.mem a (relRecord b f count)) :
    t.bytes a 16 = relRecord b f count ∧ ∀ x, x < a ∨ a + 16 ≤ x → t.byte x = s.byte x := by
  unfold State.bytes State.byte
  rw [h]
  refine ⟨cellsRead_cellsWrite_same _ _ (relRecord_length _ _ _), fun x hx => (Tab.get_cellsWrite _ _ _ _).trans (if_neg ?_)⟩
  rw [relRecord_length]
  omega

/-! ### The two commands, and what time's passing and an access leave of what they read -/

theorem State.advance_inDram (s : State) (dt a n : Nat) : (s.advance dt).inDram a n = s.inDram a n :=
  State.inDram_congr (fun r _ => s.advance_g dt r) a n

theorem State.advance_relSlot (s : State) (dt : Nat) : (s.advance dt).relSlot = s.relSlot := by simp [State.relSlot, State.relBase]

theorem State.advance_relBlocked (s : State) (dt : Nat) : (s.advance dt).relBlocked = s.relBlocked := by
  unfold State.relBlocked State.relBase
  rw [State.advance_inDram]
  simp only [State.advance_g]

theorem exec_bufferRelease (dt : Nat) {m : Master} (b : Fin 4096) {s : State} (hc : s.coreOn = true)
    (hw : s.mayWrite m.val 0x10440000 = true) :
    exec (.bufferRelease dt m b) s =
      .next (releaseWrite m.val (BitVec.ofNat 32 b.val) (((s.advance dt).ctlServed m.val).respond false [])) :=
  congrArg Host.Outcome.next (State.ctlWrite_served dt hc hw)

theorem exec_releaseCompletion {s : State} (dt : Nat) (hc : s.coreOn = true) :
    exec (.releaseCompletion dt) s = .next (relCompletion (s.advance dt)) :=
  congrArg Host.Outcome.next (if_pos ((s.advance_coreOn dt).trans hc))

theorem State.served_rel (s : State) (dt m : Nat) : (((s.advance dt).ctlServed m).respond false []).rel = s.rel := by simp

theorem State.served_mem (s : State) (dt m : Nat) : (((s.advance dt).ctlServed m).respond false []).mem = s.mem := by simp

/-- Settles O25, by what HEAD.RELEASE makes of a buffer in each state, with leases and without (the four `releaseWrite_…_answers`), and by
what a completion writes and frees (`relCompletion_frees`). That FREED is answered while the completion waits, and that a slot that is not free stalls the
completions behind it, is the model's reading (log entry 29). -/
theorem releaseOutcomes : Obligations.ReleaseOutcomes := by
  have leases (dt : Nat) (m : Master) (b : Fin 4096) (s : State) := congrArg BufState.leases (s.served_buf dt m.val b.val)
  refine ⟨fun dt m b s hc hw hs hl => ?_, fun dt m b s hc hw hs hl => ?_, fun dt m b s hc hw hs => ?_, fun dt m b s hc hw hs => ?_,
    fun dt b f rest s hc hr hb hs hslot hd => ?_, fun dt b f rest s hc hr hb => ?_⟩
  · rw [← s.served_bufState dt m.val] at hs
    obtain ⟨hstate, hresult, hrel, hmem⟩ := releaseWrite_freed_answers (m := m.val) hs ((leases dt m b s).trans hl)
    rw [State.served_rel] at hrel
    exact ⟨_, exec_bufferRelease dt b hc hw, hstate, hresult, hrel, State.byte_congr (hmem.trans (s.served_mem dt m.val))⟩
  · rw [← s.served_bufState dt m.val] at hs
    obtain ⟨hstate, hresult, hrel, hev⟩ :=
      releaseWrite_deferred_answers (m := m.val) (s.served_coreOn dt hc) hs (by rw [leases]; exact hl)
    exact ⟨_, exec_bufferRelease dt b hc hw, hstate, hresult, hrel.trans (s.served_rel dt m.val), hev⟩
  · rw [← s.served_bufState dt m.val] at hs
    obtain ⟨hstate, hresult, hresp, hrel, hmem⟩ := releaseWrite_filling_answers (m := m.val) hs
    exact ⟨_, exec_bufferRelease dt b hc hw, hstate, hresult, hresp, hrel.trans (s.served_rel dt m.val),
      State.byte_congr (hmem.trans (s.served_mem dt m.val))⟩
  · rw [← s.served_bufState dt m.val] at hs
    obtain ⟨hstate, hresult, hrel, hmem⟩ := releaseWrite_releasing_answers (m := m.val) hs
    exact ⟨_, exec_bufferRelease dt b hc hw, hstate, hresult, hrel.trans (s.served_rel dt m.val),
      State.byte_congr (hmem.trans (s.served_mem dt m.val))⟩
  · have hslot' : (s.advance dt).inDram (s.advance dt).relSlot 16 = true := by
      rw [State.advance_inDram, State.advance_relSlot]
      exact hslot
    obtain ⟨hrest, hstate, hstall, hindex, hmem⟩ := relCompletion_frees b.isLt ((s.advance_rel dt).trans hr)
      ((s.advance_relBlocked dt).trans hb) ((s.advance_g dt _).trans hs) hslot' ((s.advance_draining dt 43).trans hd)
    rw [State.advance_g, State.advance_g] at hindex
    rw [State.advance_relSlot] at hmem
    obtain ⟨hbytes, hothers⟩ := State.bytes_of_record hmem
    exact ⟨_, exec_releaseCompletion dt hc, hrest, hstate, hstall, hindex, hbytes,
      fun x hx => (hothers x hx).trans (s.advance_byte dt x)⟩
  · have hrel : (s.advance dt).rel = (b.val, f) :: rest := (s.advance_rel dt).trans hr
    have hdone := relCompletion_blocked hrel ((s.advance_relBlocked dt).trans hb)
    refine ⟨_, (exec_releaseCompletion dt hc).trans (congrArg _ hdone), s.advance_rel dt, State.gb_pb_same _ _ _, ?_⟩
    exact (State.g_pb_other _ _ _ _ (.inl (by dsimp only; omega))).trans (s.advance_g dt _)

end Sys2Proof.Machine
end

section
/-! PROOF. What stays of a head's enable, state and frame count while other operations run, and the sets of R230 (R58, R61, R230). -/

-- One lemma after the other: elaborated side by side, they take more threads than the memory of the check holds.
set_option Elab.async false

namespace Sys2Proof.Machine

/-! ### Fields that stay -/

/-- From `s` to `t` stay the fields that `P` holds of. -/
def FieldsStay (P : FRef → Prop) (s t : State) : Prop := ∀ f, P f → t.g f = s.g f

section Rules

variable {P : FRef → Prop} {s₀ s t : State}

theorem FieldsStay.refl (P : FRef → Prop) (s : State) : FieldsStay P s s := fun _ _ => rfl

theorem FieldsStay.trans (h : FieldsStay P s₀ s) (k : FieldsStay P s t) : FieldsStay P s₀ t :=
  fun f hf => (k f hf).trans (h f hf)

theorem FieldsStay.gb (h : FieldsStay P s t) {f : FRef} (hf : P f) : t.gb f = s.gb f := by
  unfold State.gb
  rw [h f hf]

theorem FieldsStay.same (h : FieldsStay P s₀ s) (hr : t.regs = s.regs := by rfl) : FieldsStay P s₀ t :=
  h.trans fun f _ => State.g_congr hr f

theorem FieldsStay.ite {c : Prop} [Decidable c] (hs : FieldsStay P s₀ s) (ht : FieldsStay P s₀ t) :
    FieldsStay P s₀ (if c then s else t) := by
  split
  · exact hs
  · exact ht

theorem FieldsStay.fold {α : Type} {f : State → α → State} {l : List α} (h : FieldsStay P s₀ s)
    (hf : ∀ s, ∀ x ∈ l, FieldsStay P s₀ s → FieldsStay P s₀ (f s x)) : FieldsStay P s₀ (l.foldl f s) :=
  List.foldlRecOn (motive := FieldsStay P s₀) l f h fun s hs x hx => hf s x hx hs

theorem FieldsStay.aside (h : FieldsStay P s₀ s) (ha : Aside s t) (hP : ∀ f, P f → quietAddr f.addr) : FieldsStay P s₀ t :=
  h.trans fun f hf => ha.g (hP f hf)

theorem State.p_fieldsStay (h : FieldsStay P s₀ s) (f : FRef) (v : Nat) (hf : ∀ f', P f' → f.apart f') :
    FieldsStay P s₀ (s.p f v) :=
  h.trans fun f' hf' => State.g_p_apart s v (hf f' hf')

end Rules

/-! ### What a head's enable, state and frame count are read from -/

/-- The fields of CTRL of head `n`, its RUN_STATE and its FRAME. -/
def runField (n : Nat) (f : FRef) : Prop :=
  f.addr = 0x10400000 + 0x1000 * n ∨ f = Reg.HEAD.STATUS.RUN_STATE n ∨ f = Reg.HEAD.FRAME.COUNT n

theorem runField_ctrl (n lo width : Nat) : runField n ⟨0x10400000 + 0x1000 * n, lo, width⟩ := .inl rfl

theorem runField_state (n : Nat) : runField n (Reg.HEAD.STATUS.RUN_STATE n) := .inr (.inl rfl)

theorem runField_frame (n : Nat) : runField n (Reg.HEAD.FRAME.COUNT n) := .inr (.inr rfl)

theorem runField_high {n : Nat} {f : FRef} (h : runField n f) : 0x10400000 ≤ f.addr := by
  rcases h with h | rfl | rfl
  · omega
  · exact Nat.le_trans (by decide) (Nat.le_add_right 0x10400004 _)
  · exact Nat.le_trans (by decide) (Nat.le_add_right 0x10400060 _)

theorem runField_quiet {n : Nat} {f : FRef} (h : runField n f) : quietAddr f.addr :=
  .inr (.inr (le_trans (by decide) (runField_high h)))

/-- CTRL, RUN_STATE and FRAME of head `n` stay. -/
abbrev HeadStays (n : Nat) : State → State → Prop := FieldsStay (runField n)

section Stays

variable {n : Nat} {s₀ s : State}

/-- A field apart from CTRL, RUN_STATE and FRAME of the head. -/
theorem State.p_headStays (h : HeadStays n s₀ s) (f : FRef) (v : Nat)
    (hf : f.addr ≠ 0x10400000 + 0x1000 * n ∧ f.apart (Reg.HEAD.STATUS.RUN_STATE n) ∧ f.apart (Reg.HEAD.FRAME.COUNT n)) :
    HeadStays n s₀ (s.p f v) := by
  obtain ⟨hctrl, hstate, hframe⟩ := hf
  refine State.p_fieldsStay h f v ?_
  rintro f' (hf' | rfl | rfl)
  · exact .inl (hf' ▸ hctrl)
  · exact hstate
  · exact hframe

/-- A field below the HEAD blocks. -/
theorem State.p_low_headStays (h : HeadStays n s₀ s) (f : FRef) (v : Nat) (hf : f.addr < 0x10400000 := by decide) :
    HeadStays n s₀ (s.p f v) :=
  State.p_fieldsStay h f v fun _ hf' => .inl (ne_of_lt (lt_of_lt_of_le hf (runField_high hf')))

theorem State.raise_headStays (h : HeadStays n s₀ s) (i arg : Nat) (hi : i < 64 := by decide) : HeadStays n s₀ (s.raise i arg) :=
  h.aside (State.raise_aside (Aside.refl s) i arg hi) fun _ => runField_quiet

theorem State.raiseHead_headStays (h : HeadStays n s₀ s) {k : Nat} (hk : k < 64) (c : Nat) : HeadStays n s₀ (s.raiseHead k c) :=
  h.aside (State.raiseHead_aside (Aside.refl s) k c hk) fun _ => runField_quiet

theorem State.logIgnored_headStays (h : HeadStays n s₀ s) (m a : Nat) (v : Word) : HeadStays n s₀ (s.logIgnored m a v) :=
  h.aside (State.logIgnored_aside (Aside.refl s) m a v) fun _ => runField_quiet

/-! ### The staging page and a keystone (R58, R61) -/

theorem State.pageReject_headStays (h : HeadStays n s₀ s) (reason entry k : Nat) : HeadStays n s₀ (s.pageReject reason entry k) := by
  unfold State.pageReject State.valResult
  refine State.raise_headStays ?_ Ev.pageReject _
  refine State.p_low_headStays (State.p_low_headStays ?_ Reg.SEQ.STATUS.VAL_STATE _) Reg.SEQ.STATUS.STAGE_VALID _
  exact State.p_low_headStays (State.p_low_headStays (State.p_low_headStays h Reg.SEQ.VAL_RESULT.REASON _) Reg.SEQ.VAL_RESULT.ENTRY _)
    Reg.SEQ.VAL_RESULT.HEAD _

theorem State.keyCancel_headStays (h : HeadStays n s₀ s) (result : Nat) : HeadStays n s₀ (s.keyCancel result) := by
  unfold State.keyCancel
  exact (State.p_low_headStays (State.p_low_headStays h Reg.SEQ.STATUS.KEY_STATE 0) Reg.SEQ.KEY_STATUS.RESULT result).same

theorem State.stageInvalidate_headStays (h : HeadStays n s₀ s) (k : Nat) : HeadStays n s₀ (s.stageInvalidate k) := by
  unfold State.stageInvalidate
  extract_lets pending t
  have ht : HeadStays n s₀ t := State.pageReject_headStays h _ _ _
  exact .ite (.ite (State.keyCancel_headStays ht 8) ht) h

theorem State.stageCheckArea_headStays (h : HeadStays n s₀ s) (k : Nat) : HeadStays n s₀ (s.stageCheckArea k) :=
  .ite (State.stageInvalidate_headStays h k) h

theorem State.stageCheckPair_headStays (h : HeadStays n s₀ s) (k : Nat) : HeadStays n s₀ (s.stageCheckPair k) :=
  .ite (State.stageInvalidate_headStays h k) h

theorem State.amendDone_headStays (h : HeadStays n s₀ s) (ticket outcome : Nat) : HeadStays n s₀ (s.amendDone ticket outcome) :=
  State.raise_headStays (State.p_low_headStays (State.p_low_headStays h Reg.SEQ.AMD_STATUS.LAST_TICKET _)
    Reg.SEQ.AMD_STATUS.LAST_RESULT _) Ev.amendDone _

theorem State.amendDiscard_headStays (h : HeadStays n s₀ s) (k : Nat) : HeadStays n s₀ (s.amendDiscard k) := by
  unfold State.amendDiscard State.amendSweep
  extract_lets done
  exact .fold h.same fun _ _ _ hs => State.amendDone_headStays hs _ _

theorem State.keyBit_headStays (h : HeadStays n s₀ s) (k : Nat) : HeadStays n s₀ (s.keyBit k) :=
  .ite (State.p_low_headStays h Reg.SEQ.KEY_SWITCHED_LO.HEADS _) (State.p_low_headStays h Reg.SEQ.KEY_SWITCHED_HI.HEADS _)

theorem State.takePage_headStays (h : HeadStays n s₀ s) (k : Nat) : HeadStays n s₀ (s.takePage k) := by
  unfold State.takePage
  extract_lets x e f y z
  have hy : HeadStays n s₀ y := (State.amendDiscard_headStays h k).same
  have hz : HeadStays n s₀ z := .fold hy fun _ r hr hs => by
    have hr8 : r < 8 := List.mem_range.1 hr
    exact State.p_headStays hs (Reg.HEAD.VIT_REF.CRC k r) _ (by dsimp only [FRef.apart]; omega)
  exact State.keyBit_headStays hz.same k

theorem State.keyHeadStarts_headStays (h : HeadStays n s₀ s) (k : Nat) : HeadStays n s₀ (s.keyHeadStarts k) :=
  .ite (State.takePage_headStays h k) h

/-! ### Genlock (R243) -/

theorem State.glEnter_headStays (h : HeadStays n s₀ s) {k : Nat} (hk : k < 64) (new : Nat) : HeadStays n s₀ (s.glEnter k new) := by
  unfold State.glEnter
  extract_lets old e x
  have hx : HeadStays n s₀ x :=
    .fold h fun _ j _ hs => State.p_headStays hs (Reg.HEAD.STATUS.GL_STATE j) _ (by dsimp only [FRef.apart]; omega)
  exact .ite (State.raiseHead_headStays (FieldsStay.same hx) hk _) (.ite hx hx.same)

theorem State.glRefresh_headStays (h : HeadStays n s₀ s) {k : Nat} (hk : k < 64) : HeadStays n s₀ (s.glRefresh k) :=
  .ite h (.ite (State.glEnter_headStays h hk 0) (.ite (State.glEnter_headStays h hk 3) (.ite h (State.glEnter_headStays h hk 1))))

/-! ### A commit of another head (R235) -/

/-- CTRL, STATUS and FRAME hold no field that a commit writes. -/
theorem accessMask_run : ∀ n : Fin 64, accessMask .rwk (0x10400000 + 0x1000 * n.val) = 0 ∧
    accessMask .rwk (0x10400004 + 0x1000 * n.val) = 0 ∧ accessMask .rwk (0x10400060 + 0x1000 * n.val) = 0 := by decide

theorem runField_noCommit {f : FRef} (hn : n < 64) (h : runField n f) : accessMask .rwk f.addr = 0 := by
  obtain ⟨hctrl, hstatus, hframe⟩ := accessMask_run ⟨n, hn⟩
  rcases h with h | rfl | rfl
  · rw [h]
    exact hctrl
  · exact hstatus
  · exact hframe

/-- The RWK fields of a register at `a` set from `w`. -/
theorem State.commitReg_headStays (h : HeadStays n s₀ s) (hn : n < 64) (a : Nat) (w : Word) :
    HeadStays n s₀ (s.setReg a ((s.reg a &&& ~~~(accessMask .rwk a)) ||| (w &&& accessMask .rwk a))) := by
  refine h.trans fun f hf => ?_
  unfold State.g
  by_cases hfa : f.addr = a
  · have hmask := runField_noCommit hn hf
    rw [hfa] at hmask
    rw [hfa, State.reg_setReg_same, hmask, show ~~~(0 : Word) = BitVec.allOnes 32 by decide, BitVec.and_allOnes]
    simp
  · rw [State.reg_setReg_ne s hfa]

theorem State.commitApply_headStays (h : HeadStays n s₀ s) (hn : n < 64) {k : Nat} : HeadStays n s₀ (s.commitApply k) := by
  unfold State.commitApply
  extract_lets e old x changed d y z
  have hx : HeadStays n s₀ x := .fold h fun y e _ hy => by
    split
    · exact hy
    · exact State.commitReg_headStays hy hn _ _
  have hz : HeadStays n s₀ z :=
    State.p_headStays (State.p_headStays (FieldsStay.same (t := y) hx) (Reg.HEAD.COMMIT_STATUS.RESULT k) _
      (by dsimp only [FRef.apart]; omega)) (Reg.HEAD.STATUS.COMMIT_PENDING k) _ (by dsimp only [FRef.apart]; omega)
  exact State.stageCheckArea_headStays hz k

end Stays

/-! ### The checks read registers alone (R230) -/

/-- A field outside the event block, the error log and the matrix, and no SLEEP. -/
def checkField (f : FRef) : Prop := quietAddr f.addr ∧ ∀ k, (Reg.HEAD.CTRL.SLEEP k).apart f

section Checks

variable {s t : State} (h : FieldsStay checkField s t)
include h

theorem State.checkPair_congr (k : Nat) : t.g (Reg.HEAD.CTRL.PAIR k) = s.g (Reg.HEAD.CTRL.PAIR k) :=
  h _ ⟨.inr (.inr (by dsimp only; omega)), fun _ => .inr (.inl (by dsimp only; omega))⟩

theorem State.checkEnable_congr (k : Nat) : t.gb (Reg.HEAD.CTRL.ENABLE k) = s.gb (Reg.HEAD.CTRL.ENABLE k) :=
  h.gb ⟨.inr (.inr (by dsimp only; omega)), fun _ => .inr (.inr (by dsimp only; omega))⟩

theorem State.lead_congr (k : Nat) : t.lead k = s.lead k := by
  unfold State.lead
  rw [State.checkPair_congr h]

theorem State.ledBy_congr (k : Nat) : t.ledBy k = s.ledBy k := by
  unfold State.ledBy
  rw [State.checkPair_congr h]

theorem State.headPll_congr (k : Nat) : t.headPll k = s.headPll k := by
  unfold State.headPll
  rw [State.lead_congr h]
  exact h _ ⟨.inr (.inr (by dsimp only; omega)), fun _ => .inl (by dsimp only; omega)⟩

theorem State.vpllHz_congr {k : Nat} (hk : k < 8) : t.vpllHz k = s.vpllHz k := by
  have hclk {f : FRef} (hf : f.addr < 0x10040000) : t.g f = s.g f :=
    h f ⟨.inl hf, fun _ => .inl (by dsimp only; omega)⟩
  unfold State.vpllHz
  simp (disch := (dsimp only; omega)) only [hclk]

theorem State.pixHz_congr (k : Nat) : t.pixHz k = s.pixHz k := by
  have hpll : s.headPll k < 8 := s.g_lt (Reg.HEAD.CLK_SEL.PLL_SEL (s.lead k))
  unfold State.pixHz
  rw [State.headPll_congr h, State.vpllHz_congr h hpll, State.lead_congr h,
    h (Reg.HEAD.CLK_SEL.PIX_DIV_M1 _) ⟨.inr (.inr (by dsimp only; omega)), fun _ => .inl (by dsimp only; omega)⟩]

/-- A timing in force is read from the words at offsets 0x10 to 0x24. -/
theorem State.timing_congr (k : Nat) : t.timing false k = s.timing false k := by
  have hword (l : Nat) {off lo width : Nat} (hoff : 0x10 ≤ off ∧ off ≤ 0x24) :
      fieldGet (t.headWord false l off) lo width = fieldGet (s.headWord false l off) lo width :=
    h ⟨0x10400000 + 0x1000 * l + off, lo, width⟩ ⟨.inr (.inr (by dsimp only; omega)), fun _ => .inl (by dsimp only; omega)⟩
  unfold State.timing
  simp (disch := decide) only [State.lead_congr h, hword]

theorem State.enableCheck_congr (k : Nat) : t.enableCheck k = s.enableCheck k := by
  have hrunning : t.g Reg.CLK.RUNNING = s.g Reg.CLK.RUNNING :=
    h _ ⟨.inl (by decide), fun _ => .inl (by dsimp only; omega)⟩
  unfold State.enableCheck
  simp only [State.ledBy_congr h, State.pixHz_congr h, State.checkEnable_congr h, State.lead_congr h, hrunning,
    State.headPll_congr h, State.timing_congr h]

end Checks

/-- The checks answer a code of four bits. -/
theorem State.enableCheck_lt (s : State) (n : Nat) : s.enableCheck n < 16 := by
  unfold State.enableCheck
  extract_lets both pix others
  split_ifs <;> decide

end Sys2Proof.Machine
end

section
/-! PROOF. A write of HEAD[n].CTRL: its word, what SLEEP, ENABLE and a start make of a head that leads, and the cases of the write
(R230, R232, R233, R238). -/

-- One lemma after the other: elaborated side by side, they take more threads than the memory of the check holds.
set_option Elab.async false

namespace Sys2Proof.Machine

/-! ### The heads that one leads (R238) -/

/-- Head `n` alone, or with the odd head that it leads. -/
def ledList (n : Nat) (l : List Nat) : Prop := l = [n] ∨ (n % 2 = 0 ∧ l = [n, n + 1])

theorem State.ledBy_ledList (s : State) (n : Nat) : ledList n (s.ledBy n) := by
  unfold State.ledBy
  split
  · next h => exact .inr ⟨h.1, rfl⟩
  · exact .inl rfl

theorem State.lead_even (s : State) {n : Nat} (h : n % 2 = 0) : s.lead n = n := by
  unfold State.lead
  rw [if_neg (by omega)]

/-- SLEEP of the heads set to `x`. -/
def State.sleepSet (s : State) (l : List Nat) (x : Nat) : State := l.foldl (fun s k => s.p (Reg.HEAD.CTRL.SLEEP k) x) s

/-- ENABLE of the heads set to `b`. -/
def State.enableSet (s : State) (l : List Nat) (b : Bool) : State := l.foldl (fun s k => s.pb (Reg.HEAD.CTRL.ENABLE k) b) s

/-- The heads start (R231, R233). -/
def State.startAll (s : State) (l : List Nat) (wake : Bool) : State := l.foldl (fun s k => s.headStarting k wake) s

/-- The heads that sleep go off, their pending commits applied (R232). -/
def State.offAll (s : State) (l : List Nat) : State := l.foldl (fun s k =>
  (if s.gb (Reg.HEAD.STATUS.COMMIT_PENDING k) then s.commitApply k else s).p (Reg.HEAD.STATUS.RUN_STATE k) 0) s

section Led

variable {s : State} {n : Nat} {l : List Nat}

theorem State.sleepSet_mem (s : State) (l : List Nat) (x : Nat) : (s.sleepSet l x).mem = s.mem :=
  List.foldlRecOn (motive := fun t : State => t.mem = s.mem) l _ rfl fun _ ht _ _ => ht

theorem State.enableSet_mem (s : State) (l : List Nat) (b : Bool) : (s.enableSet l b).mem = s.mem :=
  List.foldlRecOn (motive := fun t : State => t.mem = s.mem) l _ rfl fun _ ht _ _ => ht

/-- A write of SLEEP leaves every other field. -/
theorem State.sleepSet_stays (s : State) (l : List Nat) (x : Nat) :
    FieldsStay (fun f => ∀ k, (Reg.HEAD.CTRL.SLEEP k).apart f) s (s.sleepSet l x) :=
  .fold (.refl _ s) fun _ k _ hs => State.p_fieldsStay hs _ _ fun _ hf => hf k

theorem State.sleepSet_checks (s : State) (l : List Nat) (x : Nat) : FieldsStay checkField s (s.sleepSet l x) :=
  fun f hf => s.sleepSet_stays l x f hf.2

theorem State.sleepSet_sleep (s : State) (hl : ledList n l) {x : Nat} (hx : x < 2) :
    (s.sleepSet l x).g (Reg.HEAD.CTRL.SLEEP n) = x := by
  have hset : (s.p (Reg.HEAD.CTRL.SLEEP n) x).g (Reg.HEAD.CTRL.SLEEP n) = x :=
    State.g_p_val _ _ _ ⟨by dsimp only; omega, hx⟩
  rcases hl with rfl | ⟨-, rfl⟩
  · exact hset
  · exact (State.g_p_other _ (Reg.HEAD.CTRL.SLEEP (n + 1)) _ x (.inl (by dsimp only; omega))).trans hset

/-- A write of ENABLE leaves every other field. -/
theorem State.enableSet_stays (s : State) (l : List Nat) (b : Bool) :
    FieldsStay (fun f => ∀ k, (Reg.HEAD.CTRL.ENABLE k).apart f) s (s.enableSet l b) :=
  .fold (.refl _ s) fun _ k _ hs => State.p_fieldsStay hs _ _ fun _ hf => hf k

theorem State.enableSet_enable (s : State) (hl : ledList n l) (b : Bool) :
    (s.enableSet l b).gb (Reg.HEAD.CTRL.ENABLE n) = b := by
  have hset : (s.pb (Reg.HEAD.CTRL.ENABLE n) b).gb (Reg.HEAD.CTRL.ENABLE n) = b := State.gb_pb_same _ _ _
  rcases hl with rfl | ⟨-, rfl⟩
  · exact hset
  · exact (State.gb_pb_other _ (Reg.HEAD.CTRL.ENABLE (n + 1)) _ b (.inl (by dsimp only; omega))).trans hset

/-! ### A start and an end (R231 to R233) -/

/-- What the registers of a head that starts show: STARTING, and FRAME at 0 unless it wakes. -/
def State.headShown (s : State) (n : Nat) (wake : Bool) : State :=
  if wake then s.p (Reg.HEAD.STATUS.RUN_STATE n) 1 else (s.p (Reg.HEAD.STATUS.RUN_STATE n) 1).p (Reg.HEAD.FRAME.COUNT n) 0

theorem State.headStarting_stays (s : State) (hn : n < 64) (wake : Bool) :
    HeadStays n (s.headShown n wake) (s.headStarting n wake) :=
  State.glRefresh_headStays (State.keyHeadStarts_headStays (.refl _ _) n) hn

theorem State.headStarting_other {s₀ : State} (h : HeadStays n s₀ s) {k : Nat} (hk : k < 64) (hkn : k ≠ n) (wake : Bool) :
    HeadStays n s₀ (s.headStarting k wake) := by
  have hstate : HeadStays n s₀ (s.p (Reg.HEAD.STATUS.RUN_STATE k) 1) :=
    State.p_headStays h _ _ (by dsimp only [FRef.apart]; omega)
  have hshown : HeadStays n s₀ (if wake then s.p (Reg.HEAD.STATUS.RUN_STATE k) 1 else
      (s.p (Reg.HEAD.STATUS.RUN_STATE k) 1).p (Reg.HEAD.FRAME.COUNT k) 0) :=
    .ite hstate (State.p_headStays hstate _ _ (by dsimp only [FRef.apart]; omega))
  exact State.glRefresh_headStays (State.keyHeadStarts_headStays hshown k) hk

theorem State.startAll_stays (s : State) (hl : ledList n l) (hn : n < 64) (wake : Bool) :
    HeadStays n (s.headShown n wake) (s.startAll l wake) := by
  have hstart := s.headStarting_stays hn wake
  rcases hl with rfl | ⟨heven, rfl⟩
  · exact hstart
  · exact State.headStarting_other hstart (by omega) (by omega) wake

theorem State.headShown_state (s : State) (n : Nat) (wake : Bool) :
    (s.headShown n wake).g (Reg.HEAD.STATUS.RUN_STATE n) = 1 := by
  have hset : (s.p (Reg.HEAD.STATUS.RUN_STATE n) 1).g (Reg.HEAD.STATUS.RUN_STATE n) = 1 :=
    State.g_p_val _ _ _ ⟨by dsimp only; omega, by dsimp only; omega⟩
  cases wake
  · exact (State.g_p_other _ (Reg.HEAD.FRAME.COUNT n) _ 0 (.inl (by dsimp only; omega))).trans hset
  · exact hset

theorem State.headShown_ctrl (s : State) (n : Nat) (wake : Bool) (lo width : Nat) :
    (s.headShown n wake).g ⟨0x10400000 + 0x1000 * n, lo, width⟩ = s.g ⟨0x10400000 + 0x1000 * n, lo, width⟩ := by
  have hset : (s.p (Reg.HEAD.STATUS.RUN_STATE n) 1).g ⟨0x10400000 + 0x1000 * n, lo, width⟩ = s.g ⟨0x10400000 + 0x1000 * n, lo, width⟩ :=
    State.g_p_other _ _ _ _ (.inl (by dsimp only; omega))
  cases wake
  · exact (State.g_p_other _ (Reg.HEAD.FRAME.COUNT n) _ 0 (.inl (by dsimp only; omega))).trans hset
  · exact hset

theorem State.headShown_ctrl_gb (s : State) (n : Nat) (wake : Bool) (lo width : Nat) :
    (s.headShown n wake).gb ⟨0x10400000 + 0x1000 * n, lo, width⟩ = s.gb ⟨0x10400000 + 0x1000 * n, lo, width⟩ :=
  congrArg (· != 0) (s.headShown_ctrl n wake lo width)

theorem State.headShown_frame (s : State) (n : Nat) : (s.headShown n false).g (Reg.HEAD.FRAME.COUNT n) = 0 :=
  State.g_p_val _ _ _ ⟨by dsimp only; omega, by dsimp only; omega⟩

theorem State.headShown_wake_frame (s : State) (n : Nat) :
    (s.headShown n true).g (Reg.HEAD.FRAME.COUNT n) = s.g (Reg.HEAD.FRAME.COUNT n) :=
  State.g_p_other _ _ _ _ (.inl (by dsimp only; omega))

/-- A sleeping head with no commit pending goes off; a commit of the head it leads changes nothing of its own. -/
theorem State.offAll_stays (s : State) (hl : ledList n l) (hn : n < 64) (hp : s.gb (Reg.HEAD.STATUS.COMMIT_PENDING n) = false) :
    HeadStays n (s.p (Reg.HEAD.STATUS.RUN_STATE n) 0) (s.offAll l) := by
  have hfirst (r : List Nat) : s.offAll (n :: r) = (s.p (Reg.HEAD.STATUS.RUN_STATE n) 0).offAll r := by
    unfold State.offAll
    rw [List.foldl_cons, hp]
    rfl
  rcases hl with rfl | ⟨-, rfl⟩
  · rw [hfirst]
    exact .refl _ _
  · rw [hfirst]
    have hcommit := FieldsStay.ite (c := (s.p (Reg.HEAD.STATUS.RUN_STATE n) 0).gb (Reg.HEAD.STATUS.COMMIT_PENDING (n + 1)))
      (State.commitApply_headStays (.refl _ (s.p (Reg.HEAD.STATUS.RUN_STATE n) 0)) hn (k := n + 1)) (.refl _ _)
    exact State.p_headStays hcommit (Reg.HEAD.STATUS.RUN_STATE (n + 1)) 0 (by dsimp only [FRef.apart]; omega)

end Led

/-! ### The cases of a write of SLEEP and ENABLE (R230 to R233) -/

section Writes

variable {m n : Nat} {v : Word} {s : State}

theorem headRunWrite_passed (hv : fieldGet v 0 1 = 1) (hoff : s.gb (Reg.HEAD.CTRL.ENABLE n) = false)
    (hcheck : (s.sleepSet (s.ledBy n) (fieldGet v 1 1)).enableCheck n = 0) :
    ∃ t : State, t = ((s.sleepSet (s.ledBy n) (fieldGet v 1 1)).p (Reg.HEAD.CTRL.ENABLE_RESULT n) 0).enableSet (s.ledBy n) true ∧
      headRunWrite m n v s = if (s.sleepSet (s.ledBy n) (fieldGet v 1 1)).g (Reg.HEAD.STATUS.RUN_STATE n) = 0 then
        t.startAll (s.ledBy n) false else t := by
  refine ⟨_, rfl, ?_⟩
  unfold headRunWrite
  extract_lets both was on y run r z w off
  have hr : r = 0 := hcheck
  have hwas : (!was) = true := by simp [was, hoff]
  rw [if_pos (show on from hv), if_pos hwas, if_neg (not_not.2 hr)]
  unfold w z
  rw [hr]
  rfl

theorem headRunWrite_failed (hv : fieldGet v 0 1 = 1) (hoff : s.gb (Reg.HEAD.CTRL.ENABLE n) = false)
    (hcheck : (s.sleepSet (s.ledBy n) (fieldGet v 1 1)).enableCheck n ≠ 0) :
    headRunWrite m n v s = ((s.sleepSet (s.ledBy n) (fieldGet v 1 1)).p (Reg.HEAD.CTRL.ENABLE_RESULT n)
      ((s.sleepSet (s.ledBy n) (fieldGet v 1 1)).enableCheck n)).logIgnored m (0x10400000 + 0x1000 * n) v := by
  unfold headRunWrite
  extract_lets both was on y run r z w off
  have hr : r ≠ 0 := hcheck
  have hwas : (!was) = true := by simp [was, hoff]
  rw [if_pos (show on from hv), if_pos hwas, if_pos hr]
  rfl

theorem headRunWrite_disabled (hv : fieldGet v 0 1 = 0) (hon : s.gb (Reg.HEAD.CTRL.ENABLE n) = true) :
    headRunWrite m n v s = if (s.sleepSet (s.ledBy n) (fieldGet v 1 1)).g (Reg.HEAD.STATUS.RUN_STATE n) = 3 then
        ((s.sleepSet (s.ledBy n) (fieldGet v 1 1)).enableSet (s.ledBy n) false).offAll (s.ledBy n)
      else (s.sleepSet (s.ledBy n) (fieldGet v 1 1)).enableSet (s.ledBy n) false := by
  unfold headRunWrite
  extract_lets both was on y run r z w off
  have hno : ¬ on := by
    unfold on
    rw [hv]
    decide
  rw [if_neg hno]
  exact if_pos hon

/-- A write that leaves ENABLE as it is sets SLEEP, and starts a sleeping head that it wakes. -/
theorem headRunWrite_kept (hv : fieldGet v 0 1 = s.g (Reg.HEAD.CTRL.ENABLE n)) :
    headRunWrite m n v s =
      if s.gb (Reg.HEAD.CTRL.ENABLE n) = true ∧
          (s.sleepSet (s.ledBy n) (fieldGet v 1 1)).g (Reg.HEAD.STATUS.RUN_STATE n) = 3 ∧ fieldGet v 1 1 = 0 then
        (s.sleepSet (s.ledBy n) (fieldGet v 1 1)).startAll (s.ledBy n) true
      else s.sleepSet (s.ledBy n) (fieldGet v 1 1) := by
  unfold headRunWrite
  extract_lets both was on y run r z w off
  cases hwas : s.gb (Reg.HEAD.CTRL.ENABLE n) with
  | true =>
    have hon : on := by
      have hlt := fieldGet_lt v 0 1
      have hne : s.g (Reg.HEAD.CTRL.ENABLE n) ≠ 0 := by simpa [State.gb] using hwas
      unfold on
      omega
    rw [if_pos hon, if_neg (by simp [was, hwas])]
    simp only [true_and]
    rfl
  | false =>
    have hno : ¬ on := by
      have hz : s.g (Reg.HEAD.CTRL.ENABLE n) = 0 := by simpa [State.gb] using hwas
      unfold on
      omega
    rw [if_neg hno, if_neg (by simp [was, hwas]), if_neg (by simp)]
    rfl

end Writes

end Sys2Proof.Machine
end

section
/-! PROOF. The commands of a head's CTRL: enable, disable, sleep, wake and PAIR (R230, R232, R233, R238). -/

-- One lemma after the other: elaborated side by side, they take more threads than the memory of the check holds.
set_option Elab.async false

namespace Sys2Proof.Machine

/-! ### What each case of the write shows (R230 to R233) -/

section Shows

variable {m n : Nat} {v : Word} {s : State}

/-- A head that passes the checks is enabled; one that was off starts at FRAME 0. -/
theorem headRunWrite_passed_shows (hn : n < 64) (hv : fieldGet v 0 1 = 1) (hoff : s.gb (Reg.HEAD.CTRL.ENABLE n) = false)
    (hcheck : s.enableCheck n = 0) :
    (headRunWrite m n v s).gb (Reg.HEAD.CTRL.ENABLE n) = true ∧ (headRunWrite m n v s).g (Reg.HEAD.CTRL.ENABLE_RESULT n) = 0 ∧
      (headRunWrite m n v s).g (Reg.HEAD.STATUS.RUN_STATE n) =
        (if s.g (Reg.HEAD.STATUS.RUN_STATE n) = 0 then 1 else s.g (Reg.HEAD.STATUS.RUN_STATE n)) ∧
      (s.g (Reg.HEAD.STATUS.RUN_STATE n) = 0 → (headRunWrite m n v s).g (Reg.HEAD.FRAME.COUNT n) = 0) := by
  obtain ⟨t, ht, hwrite⟩ := headRunWrite_passed (m := m) hv hoff
    ((State.enableCheck_congr (s.sleepSet_checks _ _) n).trans hcheck)
  have hlist := s.ledBy_ledList n
  have hsleep := s.sleepSet_stays (s.ledBy n) (fieldGet v 1 1)
  rw [hwrite, hsleep (Reg.HEAD.STATUS.RUN_STATE n) fun k => .inl (by dsimp only; omega)]
  generalize s.sleepSet (s.ledBy n) (fieldGet v 1 1) = y at *
  have hstays := (y.p (Reg.HEAD.CTRL.ENABLE_RESULT n) 0).enableSet_stays (s.ledBy n) true
  have henable : t.gb (Reg.HEAD.CTRL.ENABLE n) = true := ht ▸ State.enableSet_enable _ hlist true
  have hresult : t.g (Reg.HEAD.CTRL.ENABLE_RESULT n) = 0 := by
    rw [ht, hstays (Reg.HEAD.CTRL.ENABLE_RESULT n) fun k => .inr (.inl (by dsimp only; omega)),
      State.g_p_val _ _ _ ⟨by dsimp only; omega, by dsimp only; omega⟩]
  split
  · have hstart := t.startAll_stays hlist hn false
    rw [hstart.gb (runField_ctrl n 0 1), hstart _ (runField_ctrl n 12 4), hstart _ (runField_state n),
      t.headShown_ctrl_gb, t.headShown_ctrl, t.headShown_state]
    exact ⟨henable, hresult, rfl, fun _ => (hstart _ (runField_frame n)).trans (t.headShown_frame n)⟩
  · next hrun =>
    refine ⟨henable, hresult, ?_, fun h => absurd h hrun⟩
    rw [ht, hstays (Reg.HEAD.STATUS.RUN_STATE n) fun k => .inl (by dsimp only; omega),
      State.g_p_other _ _ _ _ (.inl (by dsimp only; omega)), hsleep _ fun k => .inl (by dsimp only; omega)]

/-- A head that fails a check stays off, the check reported. -/
theorem headRunWrite_failed_shows (hv : fieldGet v 0 1 = 1) (hoff : s.gb (Reg.HEAD.CTRL.ENABLE n) = false)
    (hcheck : s.enableCheck n ≠ 0) :
    (headRunWrite m n v s).gb (Reg.HEAD.CTRL.ENABLE n) = false ∧
      (headRunWrite m n v s).g (Reg.HEAD.CTRL.ENABLE_RESULT n) = s.enableCheck n ∧
      (headRunWrite m n v s).g (Reg.HEAD.STATUS.RUN_STATE n) = s.g (Reg.HEAD.STATUS.RUN_STATE n) ∧
      (headRunWrite m n v s).mem = s.mem := by
  have hsame := State.enableCheck_congr (s.sleepSet_checks (s.ledBy n) (fieldGet v 1 1)) n
  have hsleep := s.sleepSet_stays (s.ledBy n) (fieldGet v 1 1)
  have hmem := s.sleepSet_mem (s.ledBy n) (fieldGet v 1 1)
  rw [headRunWrite_failed hv hoff (hsame ▸ hcheck), hsame]
  generalize s.sleepSet (s.ledBy n) (fieldGet v 1 1) = y at *
  have hlog := State.logIgnored_headStays (.refl (runField n) (y.p (Reg.HEAD.CTRL.ENABLE_RESULT n) (s.enableCheck n))) m
    (0x10400000 + 0x1000 * n) v
  refine ⟨?_, ?_, ?_, (State.logIgnored_mem _ _ _ _).trans hmem⟩
  · rw [hlog.gb (runField_ctrl n 0 1), State.gb_p_other _ _ _ _ (.inr (.inr (by dsimp only; omega))),
      hsleep.gb fun k => .inr (.inr (by dsimp only; omega)), hoff]
  · rw [hlog _ (runField_ctrl n 12 4), State.g_p_val _ _ _ ⟨by dsimp only; omega, s.enableCheck_lt n⟩]
  · rw [hlog _ (runField_state n), State.g_p_other _ _ _ _ (.inl (by dsimp only; omega)),
      hsleep _ fun k => .inl (by dsimp only; omega)]

/-- A head disabled while it runs goes on to its latch point. -/
theorem headRunWrite_stops_shows (hv : fieldGet v 0 1 = 0) (hon : s.gb (Reg.HEAD.CTRL.ENABLE n) = true)
    (hrun : s.g (Reg.HEAD.STATUS.RUN_STATE n) ≠ 3) :
    (headRunWrite m n v s).gb (Reg.HEAD.CTRL.ENABLE n) = false ∧
      (headRunWrite m n v s).g (Reg.HEAD.STATUS.RUN_STATE n) = s.g (Reg.HEAD.STATUS.RUN_STATE n) ∧
      (headRunWrite m n v s).g (Reg.HEAD.FRAME.COUNT n) = s.g (Reg.HEAD.FRAME.COUNT n) ∧
      (headRunWrite m n v s).mem = s.mem := by
  have hsleep := s.sleepSet_stays (s.ledBy n) (fieldGet v 1 1)
  have hmem := s.sleepSet_mem (s.ledBy n) (fieldGet v 1 1)
  have hstate := hsleep (Reg.HEAD.STATUS.RUN_STATE n) fun k => .inl (by dsimp only; omega)
  rw [headRunWrite_disabled hv hon, if_neg (by rw [hstate]; exact hrun)]
  generalize s.sleepSet (s.ledBy n) (fieldGet v 1 1) = y at *
  have hstays := y.enableSet_stays (s.ledBy n) false
  refine ⟨y.enableSet_enable (s.ledBy_ledList n) false, ?_, ?_, (y.enableSet_mem _ _).trans hmem⟩
  · rw [hstays _ fun k => .inl (by dsimp only; omega), hstate]
  · rw [hstays _ fun k => .inl (by dsimp only; omega), hsleep _ fun k => .inl (by dsimp only; omega)]

/-- A head disabled while it sleeps goes off at once. -/
theorem headRunWrite_off_shows (hn : n < 64) (hv : fieldGet v 0 1 = 0) (hon : s.gb (Reg.HEAD.CTRL.ENABLE n) = true)
    (hrun : s.g (Reg.HEAD.STATUS.RUN_STATE n) = 3) (hp : s.gb (Reg.HEAD.STATUS.COMMIT_PENDING n) = false) :
    (headRunWrite m n v s).gb (Reg.HEAD.CTRL.ENABLE n) = false ∧ (headRunWrite m n v s).g (Reg.HEAD.STATUS.RUN_STATE n) = 0 := by
  have hsleep := s.sleepSet_stays (s.ledBy n) (fieldGet v 1 1)
  have hlist := s.ledBy_ledList n
  rw [headRunWrite_disabled hv hon, if_pos ((hsleep _ fun k => .inl (by dsimp only; omega)).trans hrun)]
  generalize s.sleepSet (s.ledBy n) (fieldGet v 1 1) = y at *
  have hpending : (y.enableSet (s.ledBy n) false).gb (Reg.HEAD.STATUS.COMMIT_PENDING n) = false := by
    rw [(y.enableSet_stays _ _).gb fun k => .inl (by dsimp only; omega), hsleep.gb fun k => .inl (by dsimp only; omega), hp]
  have hoff := (y.enableSet (s.ledBy n) false).offAll_stays hlist hn hpending
  rw [hoff.gb (runField_ctrl n 0 1), hoff _ (runField_state n), State.gb_p_other _ _ _ _ (.inl (by dsimp only; omega))]
  exact ⟨y.enableSet_enable hlist false, State.g_p_val _ _ _ ⟨by dsimp only; omega, by dsimp only; omega⟩⟩

/-- SLEEP set on an enabled head waits for its latch point. -/
theorem headRunWrite_sleep_shows (hv : fieldGet v 0 1 = s.g (Reg.HEAD.CTRL.ENABLE n)) (hx : fieldGet v 1 1 = 1) :
    (headRunWrite m n v s).gb (Reg.HEAD.CTRL.SLEEP n) = true ∧
      (headRunWrite m n v s).gb (Reg.HEAD.CTRL.ENABLE n) = s.gb (Reg.HEAD.CTRL.ENABLE n) ∧
      (headRunWrite m n v s).g (Reg.HEAD.STATUS.RUN_STATE n) = s.g (Reg.HEAD.STATUS.RUN_STATE n) ∧
      (headRunWrite m n v s).mem = s.mem := by
  have hsleep := s.sleepSet_stays (s.ledBy n) 1
  rw [headRunWrite_kept hv, hx, if_neg (by simp), State.gb, s.sleepSet_sleep (s.ledBy_ledList n) (by decide)]
  exact ⟨rfl, hsleep.gb fun k => .inr (.inr (by dsimp only; omega)), hsleep _ fun k => .inl (by dsimp only; omega),
    s.sleepSet_mem _ _⟩

/-- SLEEP cleared on an enabled head that sleeps starts it, FRAME kept. -/
theorem headRunWrite_wake_shows (hn : n < 64) (hv : fieldGet v 0 1 = s.g (Reg.HEAD.CTRL.ENABLE n)) (hx : fieldGet v 1 1 = 0)
    (hon : s.gb (Reg.HEAD.CTRL.ENABLE n) = true) (hrun : s.g (Reg.HEAD.STATUS.RUN_STATE n) = 3) :
    (headRunWrite m n v s).gb (Reg.HEAD.CTRL.SLEEP n) = false ∧ (headRunWrite m n v s).g (Reg.HEAD.STATUS.RUN_STATE n) = 1 ∧
      (headRunWrite m n v s).g (Reg.HEAD.FRAME.COUNT n) = s.g (Reg.HEAD.FRAME.COUNT n) := by
  have hsleep := s.sleepSet_stays (s.ledBy n) 0
  have hcleared := s.sleepSet_sleep (s.ledBy_ledList n) (x := 0) (by decide)
  rw [headRunWrite_kept hv, hx, if_pos ⟨hon, (hsleep _ fun k => .inl (by dsimp only; omega)).trans hrun, rfl⟩]
  generalize s.sleepSet (s.ledBy n) 0 = y at *
  have hstart := y.startAll_stays (s.ledBy_ledList n) hn true
  rw [hstart.gb (runField_ctrl n 1 1), hstart _ (runField_state n), hstart _ (runField_frame n), State.gb, y.headShown_ctrl, hcleared,
    y.headShown_state, y.headShown_wake_frame]
  exact ⟨rfl, rfl, hsleep _ fun k => .inl (by dsimp only; omega)⟩

/-- A write that leaves ENABLE as it is leaves PAIR and ENABLE. -/
theorem headRunWrite_kept_shows (hn : n < 64) (hv : fieldGet v 0 1 = s.g (Reg.HEAD.CTRL.ENABLE n)) :
    (headRunWrite m n v s).gb (Reg.HEAD.CTRL.PAIR n) = s.gb (Reg.HEAD.CTRL.PAIR n) ∧
      (headRunWrite m n v s).gb (Reg.HEAD.CTRL.ENABLE n) = s.gb (Reg.HEAD.CTRL.ENABLE n) := by
  have hsleep := s.sleepSet_stays (s.ledBy n) (fieldGet v 1 1)
  have hpair := hsleep.gb (f := Reg.HEAD.CTRL.PAIR n) fun k => .inr (.inl (by dsimp only; omega))
  have henable := hsleep.gb (f := Reg.HEAD.CTRL.ENABLE n) fun k => .inr (.inr (by dsimp only; omega))
  rw [headRunWrite_kept hv]
  generalize s.sleepSet (s.ledBy n) (fieldGet v 1 1) = y at *
  split
  · have hstart := y.startAll_stays (s.ledBy_ledList n) hn true
    rw [hstart.gb (runField_ctrl n 2 1), hstart.gb (runField_ctrl n 0 1), y.headShown_ctrl_gb, y.headShown_ctrl_gb]
    exact ⟨hpair, henable⟩
  · exact ⟨hpair, henable⟩

/-! ### A write of PAIR (R238) -/

/-- PAIR that is written as it is changes nothing. -/
theorem pairWrite_same (h : fieldGet v 2 1 = s.g (Reg.HEAD.CTRL.PAIR n)) : pairWrite m n v s = s := by
  unfold pairWrite
  exact if_neg fun hne => hne.2 h

/-- PAIR of an even head is set while both heads are off. -/
theorem pairWrite_sets (heven : n % 2 = 0) (hoff : s.gb (Reg.HEAD.CTRL.ENABLE n) = false)
    (hoff' : s.gb (Reg.HEAD.CTRL.ENABLE (n + 1)) = false) :
    (pairWrite m n v s).g (Reg.HEAD.CTRL.PAIR n) = fieldGet v 2 1 ∧
      (pairWrite m n v s).g (Reg.HEAD.CTRL.ENABLE n) = s.g (Reg.HEAD.CTRL.ENABLE n) := by
  by_cases h : fieldGet v 2 1 = s.g (Reg.HEAD.CTRL.PAIR n)
  · rw [pairWrite_same h]
    exact ⟨h.symm, rfl⟩
  · have hstays := State.stageCheckPair_headStays (.refl (runField n) (s.p (Reg.HEAD.CTRL.PAIR n) (fieldGet v 2 1))) n
    unfold pairWrite
    rw [if_pos ⟨heven, h⟩, if_neg (by simp [hoff, hoff']), hstays _ (runField_ctrl n 2 1), hstays _ (runField_ctrl n 0 1)]
    exact ⟨State.g_p_val _ _ _ ⟨by dsimp only; omega, fieldGet_lt v 2 1⟩, State.g_p_other _ _ _ _ (.inr (.inr (by dsimp only; omega)))⟩

/-- PAIR stays while one of the heads is enabled. -/
theorem pairWrite_refused (hon : s.gb (Reg.HEAD.CTRL.ENABLE n) = true ∨ s.gb (Reg.HEAD.CTRL.ENABLE (n + 1)) = true) :
    HeadStays n s (pairWrite m n v s) := by
  unfold pairWrite
  split
  · rw [if_pos (by simpa using hon)]
    exact State.logIgnored_headStays (.refl _ s) _ _ _
  · exact .refl _ s

end Shows

/-! ### A command's word, and its write served (R238, R416) -/

section Served

variable {s : State} {m : Nat} (dt : Nat) {n lo x : Nat}

theorem State.ctrlWord_set (s : State) (n : Nat) (hlo : lo < 3) (hx : x < 2) : fieldGet (s.ctrlWord n lo x) lo 1 = x :=
  (fieldGet_fieldSet_same _ x (by omega)).trans (Nat.mod_eq_of_lt hx)

/-- The word of a command holds what the other fields hold. -/
theorem State.ctrlWord_other (s : State) (n x : Nat) {k : Nat} (hk : k < 3) (hlo : lo ≠ k) :
    fieldGet (s.ctrlWord n lo x) k 1 = s.g ⟨0x10400000 + 0x1000 * n, k, 1⟩ :=
  (fieldGet_fieldSet_ne _ x (by omega)).trans (fieldGet_and_low _ 7 (n := 3) (by decide) (by omega))

/-- A command on the CTRL of a head that leads, by a master with the right: the write, of a word that changes one field, to a state
that differs in what an access counts. -/
theorem State.headCtrl_served (hlo : lo < 3) (hx : x < 2) (hc : s.coreOn = true)
    (hw : s.mayWrite m (0x10400000 + 0x1000 * n) = true) (hlead : s.lead n = n) :
    ∃ (v : Word) (y : State), (s.advance dt).headCtrl m n lo x = headRunWrite m n v (pairWrite m n v y) ∧
      fieldGet v lo 1 = x ∧ (∀ k < 3, lo ≠ k → fieldGet v k 1 = y.g ⟨0x10400000 + 0x1000 * n, k, 1⟩) ∧
      FieldsStay (fun f => quietAddr f.addr) s y ∧ y.mem = s.mem := by
  have hstays : FieldsStay (fun f => quietAddr f.addr) s (((s.advance dt).ctlServed m).respond false []) :=
    fun f hf => s.served_g dt m f hf
  refine ⟨(s.advance dt).ctrlWord n lo x, _, ?_, State.ctrlWord_set _ n hlo hx, fun k hk hne => ?_, hstays, s.served_mem dt m⟩
  · unfold State.headCtrl
    rw [State.ctlWrite_served dt hc hw]
    unfold headCtrlWrite
    exact if_neg (not_not.2 ((State.lead_congr (fun f hf => hstays f hf.1) n).trans hlead))
  · rw [State.ctrlWord_other _ n x hk hne, State.advance_g, hstays _ (.inr (.inr (by dsimp only; omega)))]

/-- A command that sets ENABLE or SLEEP writes PAIR as it is. -/
theorem State.headCtrl_run (hlo : lo < 2) (hx : x < 2) (hc : s.coreOn = true)
    (hw : s.mayWrite m (0x10400000 + 0x1000 * n) = true) (hlead : s.lead n = n) :
    ∃ (v : Word) (y : State), (s.advance dt).headCtrl m n lo x = headRunWrite m n v y ∧
      fieldGet v lo 1 = x ∧ (∀ k < 3, lo ≠ k → fieldGet v k 1 = y.g ⟨0x10400000 + 0x1000 * n, k, 1⟩) ∧
      FieldsStay (fun f => quietAddr f.addr) s y ∧ y.mem = s.mem := by
  obtain ⟨v, y, hwrite, hset, hother, hstays, hmem⟩ := State.headCtrl_served dt (by omega : lo < 3) hx hc hw hlead
  refine ⟨v, y, ?_, hset, hother, hstays, hmem⟩
  rw [hwrite, pairWrite_same (hother 2 (by decide) (by omega))]

end Served

/-- The registers of the heads lie above the event block, the error log and the matrix. -/
theorem quietAddr_head (off n : Nat) : quietAddr (0x10400000 + off + 0x1000 * n) := .inr (.inr (by omega))

/-- Settles O32, by the cases of a write of SLEEP and ENABLE: an enable checks and starts (`headRunWrite_passed_shows`,
`headRunWrite_failed_shows`), a disable leaves a running head and ends a sleeping one, and a write that leaves ENABLE sets SLEEP and
wakes. That a disable while SLEEPING takes the head OFF at once is the model's reading (log entry 26). -/
theorem headsRun : Obligations.HeadsRun := by
  refine ⟨?passes, ?fails, ?stops, ?goesOff, ?sleeps, ?wakes, ?pairs, ?pairStays⟩
  case passes =>
    intro dt m n s hc hw hlead hoff hcheck
    obtain ⟨v, y, hwrite, hset, -, hstays, -⟩ := State.headCtrl_run dt (lo := 0) (x := 1) (by decide) (by decide) hc hw hlead
    have hcheck' := (State.enableCheck_congr (fun f hf => hstays f hf.1) n.val).trans hcheck
    have h := headRunWrite_passed_shows (m := m.val) n.isLt hset ((hstays.gb (quietAddr_head 0 _)).trans hoff) hcheck'
    rw [hstays (Reg.HEAD.STATUS.RUN_STATE n.val) (quietAddr_head 4 _)] at h
    exact ⟨_, congrArg Host.Outcome.next hwrite, h⟩
  case fails =>
    intro dt m n s hc hw hlead hoff hcheck
    obtain ⟨v, y, hwrite, hset, -, hstays, hmem⟩ := State.headCtrl_run dt (lo := 0) (x := 1) (by decide) (by decide) hc hw hlead
    have hsame := State.enableCheck_congr (fun f hf => hstays f hf.1) n.val
    obtain ⟨henable, hresult, hstate, hkept⟩ :=
      headRunWrite_failed_shows (m := m.val) hset ((hstays.gb (quietAddr_head 0 _)).trans hoff) (hsame ▸ hcheck)
    exact ⟨_, congrArg Host.Outcome.next hwrite, henable, hresult.trans hsame, hstate.trans (hstays _ (quietAddr_head 4 _)),
      State.byte_congr (hkept.trans hmem)⟩
  case stops =>
    intro dt m n s hc hw hlead hon hrun
    obtain ⟨v, y, hwrite, hset, -, hstays, hmem⟩ := State.headCtrl_run dt (lo := 0) (x := 0) (by decide) (by decide) hc hw hlead
    have hrun' := (hstays (Reg.HEAD.STATUS.RUN_STATE n.val) (quietAddr_head 4 _)).trans hrun
    obtain ⟨henable, hstate, hframe, hkept⟩ :=
      headRunWrite_stops_shows (m := m.val) hset ((hstays.gb (quietAddr_head 0 _)).trans hon) (by rw [hrun']; decide)
    exact ⟨_, congrArg Host.Outcome.next hwrite, henable, hstate.trans hrun', hframe.trans (hstays _ (quietAddr_head 0x60 _)),
      State.byte_congr (hkept.trans hmem)⟩
  case goesOff =>
    intro dt m n s hc hw hlead hon hrun hp
    obtain ⟨v, y, hwrite, hset, -, hstays, -⟩ := State.headCtrl_run dt (lo := 0) (x := 0) (by decide) (by decide) hc hw hlead
    exact ⟨_, congrArg Host.Outcome.next hwrite, headRunWrite_off_shows n.isLt hset ((hstays.gb (quietAddr_head 0 _)).trans hon)
      ((hstays _ (quietAddr_head 4 _)).trans hrun) ((hstays.gb (quietAddr_head 4 _)).trans hp)⟩
  case sleeps =>
    intro dt m n s hc hw hlead hon
    obtain ⟨v, y, hwrite, hset, hother, hstays, hmem⟩ :=
      State.headCtrl_run dt (lo := 1) (x := 1) (by decide) (by decide) hc hw hlead
    obtain ⟨hsleep, henable, hstate, hkept⟩ :=
      headRunWrite_sleep_shows (m := m.val) (hother 0 (by decide) (by decide)) hset
    exact ⟨_, congrArg Host.Outcome.next hwrite, hsleep, henable.trans ((hstays.gb (quietAddr_head 0 _)).trans hon),
      hstate.trans (hstays _ (quietAddr_head 4 _)), State.byte_congr (hkept.trans hmem)⟩
  case wakes =>
    intro dt m n s hc hw hlead hon hrun
    obtain ⟨v, y, hwrite, hset, hother, hstays, -⟩ :=
      State.headCtrl_run dt (lo := 1) (x := 0) (by decide) (by decide) hc hw hlead
    obtain ⟨hsleep, hstate, hframe⟩ := headRunWrite_wake_shows (m := m.val) n.isLt (hother 0 (by decide) (by decide)) hset
      ((hstays.gb (quietAddr_head 0 _)).trans hon) ((hstays _ (quietAddr_head 4 _)).trans hrun)
    exact ⟨_, congrArg Host.Outcome.next hwrite, hsleep, hstate, hframe.trans (hstays _ (quietAddr_head 0x60 _))⟩
  case pairs =>
    intro dt m n b s hc hw heven hoff hoff'
    obtain ⟨v, y, hwrite, hset, hother, hstays, -⟩ :=
      State.headCtrl_served dt (lo := 2) (x := b.toNat) (by decide) b.toNat_lt hc hw (s.lead_even heven)
    have hoffy := (hstays.gb (quietAddr_head 0 _)).trans hoff
    obtain ⟨hpair, henable⟩ := pairWrite_sets (m := m.val) (v := v) heven hoffy ((hstays.gb (quietAddr_head 0 _)).trans hoff')
    obtain ⟨hpair', henable'⟩ :=
      headRunWrite_kept_shows (m := m.val) n.isLt ((hother 0 (by decide) (by decide)).trans henable.symm)
    refine ⟨_, congrArg Host.Outcome.next hwrite, hpair'.trans ?_, henable'.trans ?_⟩
    · rw [State.gb, hpair, hset]
      cases b <;> rfl
    · rw [State.gb, henable]
      exact hoffy
  case pairStays =>
    intro dt m n b s hc hw heven hon
    obtain ⟨v, y, hwrite, -, hother, hstays, -⟩ :=
      State.headCtrl_served dt (lo := 2) (x := b.toNat) (by decide) b.toNat_lt hc hw (s.lead_even heven)
    have hkept := pairWrite_refused (m := m.val) (v := v)
      (hon.imp (hstays.gb (quietAddr_head 0 _)).trans (hstays.gb (quietAddr_head 0 _)).trans)
    obtain ⟨hpair, -⟩ := headRunWrite_kept_shows (m := m.val) n.isLt
      ((hother 0 (by decide) (by decide)).trans (hkept _ (runField_ctrl n.val 0 1)).symm)
    exact ⟨_, congrArg Host.Outcome.next hwrite, hpair.trans ((hkept.gb (runField_ctrl n.val 2 1)).trans (hstays.gb (quietAddr_head 0 _)))⟩

end Sys2Proof.Machine
end

section
/-! PROOF. A DisplayPort training that succeeds while a lane of its quad loses lock, and the event of that is logged in memory (R284, R424,
R433, R498). -/

namespace Sys2Proof.Machine

/-- DPTX[0] trains display lane 0, with the grant. Beside it lane 1 of quad 4 is in test and in use, and the PLL of the quad has not locked
since; LOL of the lane is still to be reported. The event log is on, its ring at the start of DRAM, and takes EV_LANE_LOL. -/
def trainsBesideTestLane : State :=
  [(Reg.DPTX.CTRL.ENABLE 0, 1), (Reg.DPTX.STATUS.HPD 0, 1), (Reg.DPTX.STATUS.LINK 0, 2), (Reg.CUS.STATUS.ACTING, 1),
    (Reg.ENG.STATUS.STATE 23, 2), (Reg.QUAD.RATE 4, 1), (Reg.LANE.OWNER 4 0, 2), (Reg.LANE.PSTATE 4 0, 0), (Reg.LANE.TEST_EN 4 1, 1),
    (Reg.LANE.OWNER 4 1, 5), (Reg.LANE.PSTATE 4 1, 0), (Reg.LANE.LOL_EVT_EN 4 1, 1), (Reg.EVT.LOG_EN, 1),
    (Reg.EVT.LOG_BASE, dramBase / 4096), (Reg.EVT.LOG_LOG2, 8), (Reg.EVT.ENABLE 1, 2 ^ (Ev.laneLol - 32)),
    (Reg.EVT.ROUTE.LOG Ev.laneLol, 1)].foldl (fun s e => s.p e.1 e.2) State.reset

/-- DPCD 0x000 to 0x003 of a sink that has what DPTX[0] needs: one lane at 1.62 Gb/s. -/
def ableSink : List Byte := [0x12, 6, 1, 0]

/-- An attempt that ends well: clock recovery with the first read, equalisation with the second. -/
def goodTry : List (List Byte) := [[1, 0, 0, 0, 0, 0], [7, 0, 1, 0, 0, 0]]

/-- The link comes UP, the lanes of its quad are brought up to date, and the source of EV_LANE_LOL is the first byte of the record. -/
theorem trainEnd_trainsBesideTestLane :
    (trainEnd 0 ableSink [goodTry, []] (trainsBesideTestLane.advance 0)).byte dramBase = 41 := by decide +kernel

theorem trainsBesideTestLane_byte : trainsBesideTestLane.byte dramBase = 0 := by decide +kernel

/-- Refutes O34: its clause on a training that ends UP says that no byte of memory changes; but the change of LINK brings the quad's lanes up
to date, which reports LOL of a lane in use while the PLL has no lock (R424), and where EV_LANE_LOL is routed to the log its record is written
to memory (R498), as in `trainsBesideTestLane`. -/
theorem not_displayPortLinks : ¬ Obligations.DisplayPortLinks := by
  rintro ⟨-, -, -, -, -, hends, -⟩
  obtain ⟨t, ht, -, -, -, hmem⟩ := hends 0 0 ableSink goodTry [] [] trainsBesideTestLane (by decide +kernel) (by decide +kernel)
    (by decide +kernel) (by decide +kernel) (by decide +kernel)
  obtain rfl := Host.Outcome.next.inj ht
  have hbyte : (trainEnd 0 ableSink [goodTry, []] (trainsBesideTestLane.advance 0)).byte dramBase = trainsBesideTestLane.byte dramBase :=
    hmem dramBase
  rw [trainEnd_trainsBesideTestLane, trainsBesideTestLane_byte] at hbyte
  exact absurd hbyte (by decide)

end Sys2Proof.Machine
end

section
/-! PROOF. A line that a framer's head scans for it, while the head writes its frame back (R224, R225, R296). -/

namespace Sys2Proof.Machine

/-- TZL[0] streams head 0, which has composed the first line of a frame of 64 × 16 pixels, white, and writes the frame back to buffer 7, of
format RGB10 at the start of DRAM. -/
def writesBack : State :=
  let s := [(Reg.TZL.CTRL.ENABLE 0, 1), (Reg.TZL.STATUS.LINK 0, 3), (Reg.TZL.STATUS.STREAM 0, 1), (Reg.HEAD.CTRL.ENABLE 0, 1),
    (Reg.HEAD.STATUS.RUN_STATE 0, 2), (Reg.HEAD.HTIM_ACT.ACT_M1 0, 63), (Reg.HEAD.VTIM_ACT.ACT_M1 0, 15), (Reg.HEAD.WB_CTRL.ENABLE 0, 1),
    (Reg.ING.BUF.ADDR 7, dramBase / 256), (Reg.ING.BUF.FORMAT 7, 1), (Reg.ING.BUF.WIDTH_M1 7, 63), (Reg.ING.BUF.HEIGHT_M1 7, 15),
    (Reg.ING.BUF.PITCH_64 7, 4), (Reg.ING.BUF.STATE 7, 1)].foldl (fun s e => s.p e.1 e.2) State.reset
  s.setHead 0 { s.head 0 with
    frame := { HeadFrame.reset with composing := true, nextLine := 1, ahead := [List.replicate 64 0x3FFFFFFF] }
    wb := some ⟨3, 7, 0, 0, [], []⟩ }

/-- The line scanned for the packet is written to the buffer. -/
theorem tzlLinePacket_writesBack_byte : (tzlLinePacket 0 0 (writesBack.advance 0)).byte dramBase = 0xFF := by decide +kernel

theorem writesBack_byte : writesBack.byte dramBase = 0 := by decide +kernel

/-- The buffer has a row then. -/
theorem tzlLinePacket_writesBack_rows : (tzlLinePacket 0 0 (writesBack.advance 0)).g (Reg.ING.BUF.ROW_MARK 7) = 1 := by decide +kernel

theorem writesBack_rows : writesBack.g (Reg.ING.BUF.ROW_MARK 7) = 0 := by decide +kernel

/-- Refutes O37: its clause on a line scanned for its packet says that no byte of memory changes; but a line scanned passes the write-back
tap (R224), so that in `writesBack` its pixels are written to the buffer. -/
theorem not_thizonPackets : ¬ Obligations.ThizonPackets := by
  rintro ⟨-, hscan, -⟩
  obtain ⟨t, ht, -, -, hmem⟩ := hscan 0 0 0 writesBack (by decide +kernel) (by decide +kernel) (by decide +kernel) (by decide +kernel)
    (by decide +kernel)
  obtain rfl := Host.Outcome.next.inj ht
  have hbyte : (tzlLinePacket 0 0 (writesBack.advance 0)).byte dramBase = writesBack.byte dramBase := hmem dramBase
  rw [tzlLinePacket_writesBack_byte, writesBack_byte] at hbyte
  exact absurd hbyte (by decide)

/-- Refutes O60: a line packet has its head scan the line, and in `writesBack` the write-back of that line counts in ROW_MARK of its buffer, a
register of the ingest block. -/
theorem not_laneAndLinkCommandsChangeNoOtherBlock : ¬ Obligations.LaneAndLinkCommandsChangeNoOtherBlock := by
  rintro ⟨-, -, -, -, -, -, -, -, -, -, -, -, -, -, -, -, -, -, -, -, -, -, -, -, -, -, -, -, -, -, -, -, -, -, -, -, -, hline, -⟩
  obtain ⟨t, ht, hregs, -⟩ := hline 0 0 0 writesBack
  obtain rfl := Host.Outcome.next.inj ht
  have hword : (tzlLinePacket 0 0 (writesBack.advance 0)).reg (Reg.ING.BUF.ROW_MARK 7).addr =
      writesBack.reg (Reg.ING.BUF.ROW_MARK 7).addr :=
    hregs _ (.inl (by decide)) (.inr (by decide)) (.inr (by decide))
  have hrows := tzlLinePacket_writesBack_rows
  rw [State.g, hword] at hrows
  exact absurd (writesBack_rows.symm.trans hrows) (by decide)

end Sys2Proof.Machine
end

section
/-! PROOF. AUX transactions of the DisplayPort transmitters: how one goes out or ends at once, and how it ends (R283, R286, R288). -/

namespace Sys2Proof.Machine

/-! ### What a transmitter holds beyond its registers -/

@[simp] theorem State.dpx_setDp_same (s : State) (n : Nat) (x : DpState) : (s.setDp n x).dpx n = x := Tab.get_put_same _ _ _ _

@[simp] theorem State.setDp_g (s : State) (n : Nat) (x : DpState) (f : FRef) : (s.setDp n x).g f = s.g f := rfl

@[simp] theorem State.setDp_gb (s : State) (n : Nat) (x : DpState) (f : FRef) : (s.setDp n x).gb f = s.gb f := rfl

@[simp] theorem State.setDp_mem (s : State) (n : Nat) (x : DpState) : (s.setDp n x).mem = s.mem := rfl

@[simp] theorem State.advance_dpx (s : State) (dt n : Nat) : (s.advance dt).dpx n = s.dpx n := by simp [State.dpx]

/-! ### The end of a transaction (R283) -/

/-- From `s` to `t` the AUX transaction of DPTX[n] ended with a result and the bytes moved, and no byte of memory changed. -/
def AuxEnded (n result bytes : Nat) (s t : State) : Prop :=
  t.g (Reg.DPTX.AUX_STATUS.RESULT n) = result ∧ t.g (Reg.DPTX.AUX_STATUS.BYTES n) = bytes ∧
    t.gb (Reg.DPTX.AUX_CMD.GO n) = false ∧ (t.dpx n).aux = 0 ∧ ∀ x, t.byte x = s.byte x

theorem State.auxEnd_ends {s₀ s : State} (hm : s.mem = s₀.mem) (n : Nat) {result bytes : Nat} (hr : result < 16) (hb : bytes < 32) :
    AuxEnded n result bytes s₀ (s.auxEnd n result bytes) := by
  unfold State.auxEnd
  refine ⟨?_, ?_, ?_, ?_, State.byte_congr hm⟩
  · rw [State.setDp_g, State.g_pb_other _ _ _ _ (.inl (by dsimp only; omega)), State.g_p_other _ _ _ _ (.inr (by dsimp only; omega)),
      State.g_p_val _ _ _ ⟨by dsimp only; omega, hr⟩]
  · rw [State.setDp_g, State.g_pb_other _ _ _ _ (.inl (by dsimp only; omega)), State.g_p_val _ _ _ ⟨by dsimp only; omega, hb⟩]
  · rw [State.setDp_gb]
    exact State.gb_pb_same _ _ _
  · rw [State.dpx_setDp_same]

/-! ### A transaction begun (R286, R288) -/

section Start

variable {s : State} {n : Nat}

/-- Without the grant, or while the link and time engine does not run, a transaction ends at once. -/
theorem State.auxStart_ends {s₀ : State} (hm : s.mem = s₀.mem) (h : s.granted = false ∨ s.engRunning 23 = false) :
    AuxEnded n (if s.granted then 5 else 4) 0 s₀ (s.auxStart n) := by
  unfold State.auxStart
  cases hg : s.granted with
  | false => exact State.auxEnd_ends hm n (by decide) (by decide)
  | true =>
    have he : s.engRunning 23 = false := h.resolve_left (by simp [hg])
    rw [he]
    exact State.auxEnd_ends hm n (by decide) (by decide)

/-- Otherwise it goes out, or waits while the link trains. -/
theorem State.auxStart_goes (hg : s.granted = true) (he : s.engRunning 23 = true) :
    (s.auxStart n).gb (Reg.DPTX.AUX_CMD.GO n) = true ∧
      ((s.auxStart n).dpx n).aux = (if s.g (Reg.DPTX.STATUS.LINK n) = 2 then 1 else 2) ∧
      ((s.auxStart n).dpx n).defers = 0 ∧ (s.auxStart n).mem = s.mem := by
  have hlink : (s.pb (Reg.DPTX.AUX_CMD.GO n) true).g (Reg.DPTX.STATUS.LINK n) = s.g (Reg.DPTX.STATUS.LINK n) :=
    State.g_pb_other _ _ _ _ (.inl (by dsimp only; omega))
  unfold State.auxStart
  rw [hg, he, if_neg (by decide), if_neg (by decide)]
  dsimp only
  rw [hlink]
  split <;> simp [State.gb_pb_same]

end Start

/-- A write of AUX_CMD that sets GO while no transaction runs begins one. -/
theorem auxCmdWrite_begins {s : State} {m n : Nat} {v : Word} (hv : fieldGet v 31 1 = 1)
    (hgo : s.gb (Reg.DPTX.AUX_CMD.GO n) = false) :
    auxCmdWrite m n v s = (s.writeFields m (Reg.DPTX.AUX_CMD.GO n).addr v 0).auxStart n := if_pos ⟨hv, hgo⟩

/-- An AUX transaction by a master with the right while GO is 0 begins in a state that a write of AUX_CMD gives. -/
theorem exec_auxTransaction {s : State} (dt : Nat) {m : Master} {n : Fin 64} (v : Word) (hc : s.coreOn = true)
    (hw : s.mayWrite m.val (Reg.DPTX.AUX_CMD.GO n.val).addr = true) (hgo : s.gb (Reg.DPTX.AUX_CMD.GO n.val) = false) :
    ∃ y : State, exec (.auxTransaction dt m n v) s = .next (y.auxStart n.val) ∧
      WordWritten (Reg.DPTX.AUX_CMD.GO n.val).addr s y := by
  refine ⟨_, congrArg Host.Outcome.next ?_, s.writeFields_written dt m.val _ (fieldSet v 31 1 1)⟩
  rw [State.ctlWrite_served dt hc hw, auxCmdWrite_begins (fieldGet_fieldSet_same _ _ (by decide))]
  rw [s.served_gb dt m.val _ (.inr (.inr (by dsimp only; omega))), hgo]

/-- A write of a DPTX register leaves the grant and the engines. -/
theorem WordWritten.granted {a : Nat} {s t : State} (h : WordWritten a s t) (ha : 0x10700000 ≤ a ∧ a < 0x10800000) :
    t.granted = s.granted := by
  unfold State.granted State.sealActive
  rw [h.gb _ (.inr (.inl (by decide))) (by dsimp only; omega), h.gb _ (.inr (.inl (by decide))) (by dsimp only; omega)]

theorem WordWritten.engRunning {a : Nat} {s t : State} (h : WordWritten a s t) (ha : 0x10700000 ≤ a ∧ a < 0x10800000) :
    t.engRunning 23 = s.engRunning 23 := by
  unfold State.engRunning
  rw [h.g _ (.inr (.inr (by decide))) (by dsimp only; omega)]

/-! ### Replies, and 400 µs without one (R283) -/

section Sent

variable {s : State} {n : Nat}

theorem State.auxData_mem (s : State) (n : Nat) (bs : List Byte) : (s.auxData n bs).mem = s.mem :=
  s.foldl_mem _ fun t k => by split <;> rfl

/-- A reply ends a transaction that is out, with at most the bytes asked for. -/
theorem auxDone_ends (hc : s.coreOn = true) (ha : (s.dpx n).aux = 2) (r : AuxReply) :
    AuxEnded n (if r.ack then 0 else 1) (min r.count.val (s.g (Reg.DPTX.AUX_CMD.LEN_M1 n) + 1)) s (auxDone n r s) := by
  have hlen := s.g_lt (Reg.DPTX.AUX_CMD.LEN_M1 n)
  unfold auxDone
  rw [hc, ha]
  refine State.auxEnd_ends ?_ n (by split <;> decide) (by dsimp only at hlen; omega)
  split
  · exact s.auxData_mem n _
  · rfl

theorem State.auxDue_iff : s.auxDue n = true ↔ s.coreOn = true ∧ (s.dpx n).aux = 2 ∧ (s.dpx n).auxAt + 400000 ≤ s.clock := by
  simp [State.auxDue, and_assoc]

/-- A deferred attempt is sent again, up to seven times. -/
theorem auxDefer_again (h : s.auxDue n = true) (hd : (s.dpx n).defers < 7) :
    auxDefer n s = s.setDp n { s.dpx n with defers := (s.dpx n).defers + 1, auxAt := s.clock } := by
  unfold auxDefer
  rw [h, if_pos rfl]
  exact if_pos hd

/-- Then the transaction ends. -/
theorem auxDefer_ends (h : s.auxDue n = true) (hd : 7 ≤ (s.dpx n).defers) : auxDefer n s = s.auxEnd n 2 0 := by
  unfold auxDefer
  rw [h, if_pos rfl]
  exact if_neg (by omega)

theorem auxTimeout_ends (h : s.auxDue n = true) : auxTimeout n s = s.auxEnd n 3 0 := by
  unfold auxTimeout
  rw [h, if_pos rfl]

/-- The 400 µs as the statements count them. -/
theorem State.auxDue_advance {dt : Nat} (hc : s.coreOn = true) (ha : (s.dpx n).aux = 2)
    (hat : (s.dpx n).auxAt + 400000 ≤ s.clock + dt) : (s.advance dt).auxDue n = true :=
  State.auxDue_iff.2 (by simp [hc, ha, hat])

end Sent

/-- Settles O35, by the state that a write of AUX_CMD begins a transaction in, and by how each command ends one. RESULT ENGINE for a request
made while the engine does not run is the model's reading (log entry 43). -/
theorem auxTransactions : Obligations.AuxTransactions := by
  have hrange (n : Fin 64) : 0x10700000 ≤ (Reg.DPTX.AUX_CMD.GO n.val).addr ∧ (Reg.DPTX.AUX_CMD.GO n.val).addr < 0x10800000 := by
    dsimp only; omega
  refine ⟨?goes, ?refused, ?replied, ?again, ?deferred, ?timeout⟩
  case goes =>
    intro dt m n v s hc hw hgo hg he
    obtain ⟨y, hy, h⟩ := exec_auxTransaction dt v hc hw hgo
    obtain ⟨hset, haux, hdefers, hmem⟩ :=
      State.auxStart_goes (n := n.val) ((h.granted (hrange n)).trans hg) ((h.engRunning (hrange n)).trans he)
    rw [h.g _ (.inr (.inr (by dsimp only; omega))) (by dsimp only; omega)] at haux
    exact ⟨_, hy, hset, haux, hdefers, State.byte_congr (hmem.trans h.mem)⟩
  case refused =>
    intro dt m n v s hc hw hgo hno
    obtain ⟨y, hy, h⟩ := exec_auxTransaction dt v hc hw hgo
    have hend := State.auxStart_ends (n := n.val) h.mem (by rwa [h.granted (hrange n), h.engRunning (hrange n)])
    rw [h.granted (hrange n)] at hend
    exact ⟨_, hy, hend⟩
  case replied =>
    intro dt n r s hc ha
    obtain ⟨hresult, hbytes, hgo, haux, hmem⟩ := auxDone_ends (s := s.advance dt) (n := n.val) (by simpa) (by simpa) r
    rw [State.advance_g] at hbytes
    exact ⟨_, rfl, hresult, hbytes, hgo, haux, fun x => (hmem x).trans (s.advance_byte dt x)⟩
  case again =>
    intro dt n s hc ha hat hd
    refine ⟨_, congrArg Host.Outcome.next (auxDefer_again (State.auxDue_advance hc ha hat) (by simpa)), ?_⟩
    simp [ha, State.byte]
  case deferred =>
    intro dt n s hc ha hat hd
    exact ⟨_, congrArg Host.Outcome.next (auxDefer_ends (State.auxDue_advance hc ha hat) (by simpa)),
      State.auxEnd_ends (s.advance_mem dt) _ (by decide) (by decide)⟩
  case timeout =>
    intro dt n s hc ha hat
    exact ⟨_, congrArg Host.Outcome.next (auxTimeout_ends (State.auxDue_advance hc ha hat)),
      State.auxEnd_ends (s.advance_mem dt) _ (by decide) (by decide)⟩

end Sys2Proof.Machine
end

section
/-! PROOF. Lanes brought up to date beside the display links: registers above the lanes' block stay (R276, R277, R422 to R433). -/

-- One lemma after the other: elaborated side by side, they take more threads than the memory of the check holds.
set_option Elab.async false

namespace Sys2Proof.Machine

/-- A field of a block above the lanes. -/
def aboveLanes (f : FRef) : Prop := 0x10700000 ≤ f.addr

/-- What a change of lanes leaves of the blocks above them. -/
abbrev AboveLanesStay : State → State → Prop := FieldsStay aboveLanes

variable {s₀ s : State}

/-- A lane's register lies below the links. -/
theorem State.p_aboveLanes (h : AboveLanesStay s₀ s) (f : FRef) (v : Nat) (hf : f.addr < 0x10700000 := by dsimp only; omega) :
    AboveLanesStay s₀ (s.p f v) :=
  State.p_fieldsStay h f v fun _ hf' => .inl (Nat.ne_of_lt (Nat.lt_of_lt_of_le hf hf'))

theorem State.raise_aboveLanes (h : AboveLanesStay s₀ s) (i arg : Nat) (hi : i < 64 := by decide) : AboveLanesStay s₀ (s.raise i arg) :=
  h.aside (State.raise_aside (Aside.refl s) i arg hi) fun _ hf => .inr (.inr (Nat.le_trans (by decide) hf))

theorem State.setLane_aboveLanes (h : AboveLanesStay s₀ s) (q l : Nat) (x : LaneState) : AboveLanesStay s₀ (s.setLane q l x) := h.same

theorem State.setQuad_aboveLanes (h : AboveLanesStay s₀ s) (q : Nat) (x : Option Nat) : AboveLanesStay s₀ (s.setQuad q x) := h.same

section Lane

variable {q l : Nat} (hq : q < 0x100) (hl : l < 4)
include hq hl

theorem State.prbsSettle_aboveLanes (h : AboveLanesStay s₀ s) : AboveLanesStay s₀ (s.prbsSettle q l) := by
  unfold State.prbsSettle State.prbsCount
  extract_lets n x last x' first y
  have hx : AboveLanesStay s₀ (s.setLane q l { x' with injN := s.injDue q l }) := State.setLane_aboveLanes h _ _ _
  have hy : AboveLanesStay s₀ y := State.p_aboveLanes hx (Reg.LANE.ERRORS q l) _
  exact .ite hx (.ite (State.raise_aboveLanes hy _ _) hy)

theorem State.prbsLock_aboveLanes (h : AboveLanesStay s₀ s) (lock : Bool) : AboveLanesStay s₀ (s.prbsLock q l lock) := by
  unfold State.prbsLock State.setBits
  extract_lets x lane y z
  have hy : AboveLanesStay s₀ y := State.setLane_aboveLanes (State.prbsSettle_aboveLanes hq hl h) _ _ _
  have hz : AboveLanesStay s₀ z := State.p_aboveLanes (State.p_aboveLanes hy (Reg.LANE.BITS_LO q l) _) (Reg.LANE.BITS_HI q l) _
  exact .ite h (State.raise_aboveLanes
    (State.p_aboveLanes (State.setLane_aboveLanes hz _ _ _) (Reg.LANE.PRBS.LOCK q l) _) _ _)

theorem State.eqDefaults_aboveLanes (h : AboveLanesStay s₀ s) : AboveLanesStay s₀ (s.eqDefaults q l) := by
  unfold State.eqDefaults
  iterate 6 refine State.p_aboveLanes ?_ _ _
  exact h

omit hq hl in
theorem State.pFree_aboveLanes (h : AboveLanesStay s₀ s) (f : FRef) (hf : f.addr < 0x10700000 := by dsimp only; omega) :
    AboveLanesStay s₀ (s.pFree f) :=
  (State.p_aboveLanes h f _ hf).same

omit hq hl in
theorem State.eqStep_aboveLanes {x : State × Nat} (h : AboveLanesStay s₀ x.1) (f : FRef) (lo hi : Int)
    (hf : f.addr < 0x10700000 := by dsimp only; omega) : AboveLanesStay s₀ (State.eqStep x f lo hi).1 :=
  (State.p_aboveLanes h f _ hf).same

theorem State.eqSettle_aboveLanes (h : AboveLanesStay s₀ s) : AboveLanesStay s₀ (s.eqSettle q l) := by
  have hfree : AboveLanesStay s₀ (s.eqFree q l) := by
    unfold State.eqFree
    iterate 6 refine State.pFree_aboveLanes ?_ _
    exact h
  have hwalk (k : Nat) : AboveLanesStay s₀ (s.eqWalk q l k) := by
    unfold State.eqWalk
    refine .ite h ?_
    iterate 6 refine State.eqStep_aboveLanes ?_ _ _ _
    exact h
  unfold State.eqSettle
  exact .ite (State.setLane_aboveLanes h _ _ _)
    (.ite (State.setLane_aboveLanes hfree _ _ _) (State.setLane_aboveLanes (hwalk _) _ _ _))

theorem State.lockDrop_aboveLanes (h : AboveLanesStay s₀ s) : AboveLanesStay s₀ (s.lockDrop q l) := by
  unfold State.lockDrop
  extract_lets x
  have hx : AboveLanesStay s₀ x := .ite (State.p_aboveLanes (State.p_aboveLanes
    (State.p_aboveLanes h (Reg.LANE.ALIGNED q l) _) (Reg.LANE.ALIGN_LOST q l) _) (Reg.LANE.REALIGNS q l) _) h
  exact .ite (State.p_aboveLanes (State.p_aboveLanes
    (State.p_aboveLanes hx (Reg.LANE.BLOCK_LOCK q l) _) (Reg.LANE.BLOCK_LOST q l) _) (Reg.LANE.LOCK_LOSSES q l) _) hx

theorem State.laneSet_aboveLanes (h : AboveLanesStay s₀ s) (owner power : Nat) : AboveLanesStay s₀ (s.laneSet q l owner power) := by
  unfold State.laneSet
  extract_lets old x x₁ x₂ y z
  have hx : AboveLanesStay s₀ x := State.p_aboveLanes (State.p_aboveLanes h (Reg.LANE.OWNER q l) _) (Reg.LANE.PSTATE q l) _
  have hx₂ : AboveLanesStay s₀ x₂ := State.p_aboveLanes (State.p_aboveLanes (State.eqSettle_aboveLanes hq hl hx)
    (Reg.LANE.LOS q l) _) (Reg.LANE.LOL q l) _
  have hy : AboveLanesStay s₀ y := .ite (State.p_aboveLanes (State.p_aboveLanes
    (State.p_aboveLanes hx₂ (Reg.LANE.ALIGNED q l) _) (Reg.LANE.BLOCK_LOCK q l) _) (Reg.LANE.ADAPT q l) _)
    (.ite (State.setLane_aboveLanes hx _ _ _) hx)
  have hz : AboveLanesStay s₀ z := .ite (State.prbsLock_aboveLanes hq hl hy _) hy
  exact .ite (State.eqDefaults_aboveLanes hq hl hz) hz

end Lane

section Quad

variable {q : Nat} (hq : q < 0x100)
include hq

theorem State.lolEdges_aboveLanes (h : AboveLanesStay s₀ s) {ls : List Nat} (hls : ∀ l ∈ ls, l < 4) :
    AboveLanesStay s₀ (s.lolEdges q ls) :=
  .fold h fun _ l hm hs => by
    have hl := hls l hm
    exact State.lockDrop_aboveLanes hq hl (State.p_aboveLanes (State.p_aboveLanes
      (State.p_aboveLanes (State.setLane_aboveLanes hs _ _ _) (Reg.LANE.LOL q l) _) (Reg.LANE.LOL_SEEN q l) _)
        (Reg.LANE.LOL_EVENTS q l) _)

omit hq in
theorem State.lolEvent_aboveLanes (h : AboveLanesStay s₀ s) (ls : List Nat) : AboveLanesStay s₀ (s.lolEvent q ls) := by
  unfold State.lolEvent
  split
  · exact State.raise_aboveLanes h _ _
  · exact h

theorem State.quadRefresh_aboveLanes (h : AboveLanesStay s₀ s) : AboveLanesStay s₀ (s.quadRefresh q) := by
  unfold State.quadRefresh
  extract_lets r anew ran x y z w
  have hx : AboveLanesStay s₀ x := .ite (State.p_aboveLanes h (Reg.QUAD.PLL_LOCK q) _) h
  have hy : AboveLanesStay s₀ y := State.p_aboveLanes (State.p_aboveLanes hx (Reg.QUAD.RATE q) _) (Reg.QUAD.SSC q) _
  have hz : AboveLanesStay s₀ z := .fold hy fun _ l hl hs => State.laneSet_aboveLanes hq (mem_laneNums hl) hs _ _
  have hw : AboveLanesStay s₀ w := .ite (State.setQuad_aboveLanes hz _ _) hz
  exact .ite (State.setQuad_aboveLanes (State.p_aboveLanes hz (Reg.QUAD.PLL_LOCK q) _) _ _) (.ite hz
    (State.lolEvent_aboveLanes (State.lolEdges_aboveLanes hq hw fun _ => State.lolLanes_lt) _))

end Quad

/-- Quads brought up to date leave the blocks above them, and the clock. -/
theorem State.quadsRefresh_aboveLanes {qs : List Nat} (hqs : ∀ q ∈ qs, q < 0x100) :
    AboveLanesStay s (s.quadsRefresh qs) ∧ (s.quadsRefresh qs).clock = s.clock :=
  have hstay : EnginesStay s (s.quadsRefresh qs) :=
    .fold (EnginesStay.refl s) fun _ q hq hs => State.quadRefresh_enginesStay (hqs q hq) hs
  ⟨.fold (.refl _ s) fun _ q hq hs => State.quadRefresh_aboveLanes (hqs q hq) hs, hstay.clock⟩

/-- The quads of a framer are few: WIDTH and SPARE_LANE are narrow fields (R277). -/
theorem State.quadsOf_tzlAll_lt {n q : Nat} (hn : n < 16) (h : q ∈ quadsOf (s.tzlAll n)) : q < 0x100 := by
  obtain ⟨d, hd, rfl⟩ := List.mem_map.1 (List.mem_dedup.1 h)
  unfold dispQuad
  rcases List.mem_append.1 hd with hbond | hspare
  · obtain ⟨i, hi, rfl⟩ := List.mem_map.1 hbond
    have hw : 2 ^ s.g (Reg.TZL.CTRL.WIDTH n) ≤ 2 ^ 3 :=
      Nat.pow_le_pow_right (by decide) (Nat.le_of_lt_succ (s.g_lt (Reg.TZL.CTRL.WIDTH n)))
    have := List.mem_range.1 hi
    unfold State.tzlWidth at this
    omega
  · unfold State.tzlSpare at hspare
    split at hspare
    · have := s.g_lt (Reg.TZL.CTRL.SPARE_LANE n)
      rw [List.mem_singleton.1 hspare]
      dsimp only at this
      omega
    · exact absurd hspare List.not_mem_nil

end Sys2Proof.Machine
end

section
/-! PROOF. LINK of a Thizon framer, and the training attempts it begins and ends (R290, R302, R303). -/

-- One lemma after the other: elaborated side by side, they take more threads than the memory of the check holds.
set_option Elab.async false

namespace Sys2Proof.Machine

/-! ### What a framer holds beyond its registers -/

@[simp] theorem State.tz_setTz_same (s : State) (q : Nat) (x : TzlState) : (s.setTz q x).tz q = x := Tab.get_put_same _ _ _ _

@[simp] theorem State.advance_tz (s : State) (dt q : Nat) : (s.advance dt).tz q = s.tz q := by simp [State.tz]

@[simp] theorem State.advance_engRunning (s : State) (dt n : Nat) : (s.advance dt).engRunning n = s.engRunning n := by
  simp [State.engRunning]

/-! ### LINK set (R290, R303) -/

/-- What the fall of a link writes besides LINK and STREAM is apart from field `f`: VERSION, SPARE_OK and CTRL_SEND. -/
def besideFall (q : Nat) (f : FRef) : Prop :=
  quietAddr f.addr ∧ f.addr ≠ 0x10780034 + 0x1000 * q ∧ (Reg.TZL.STATUS.VERSION q).apart f ∧ (Reg.TZL.STATUS.SPARE_OK q).apart f

/-- Field `f` is also apart from LINK and STREAM. -/
def besideLink (q : Nat) (f : FRef) : Prop :=
  besideFall q f ∧ (Reg.TZL.STATUS.LINK q).apart f ∧ (Reg.TZL.STATUS.STREAM q).apart f

/-- What a new LINK shows: LINK, and no stream below UP. -/
def State.linkShown (s : State) (q link : Nat) : State :=
  if 3 ≤ link then s.p (Reg.TZL.STATUS.LINK q) link else (s.p (Reg.TZL.STATUS.LINK q) link).p (Reg.TZL.STATUS.STREAM q) 0

section Link

variable {s₀ s : State} {q link : Nat}

theorem State.setTz_fieldsStay {P : FRef → Prop} (h : FieldsStay P s₀ s) (x : TzlState) : FieldsStay P s₀ (s.setTz q x) := h.same

theorem State.linkShown_link (hl : link < 8) : (s.linkShown q link).g (Reg.TZL.STATUS.LINK q) = link := by
  have hset : (s.p (Reg.TZL.STATUS.LINK q) link).g (Reg.TZL.STATUS.LINK q) = link :=
    State.g_p_val _ _ _ ⟨by dsimp only; omega, hl⟩
  unfold State.linkShown
  split
  · exact hset
  · exact (State.g_p_other _ _ _ _ (.inr (.inr (by dsimp only; omega)))).trans hset

theorem State.linkShown_stream (hl : link < 3) : (s.linkShown q link).g (Reg.TZL.STATUS.STREAM q) = 0 := by
  unfold State.linkShown
  rw [if_neg (by omega)]
  exact State.g_p_val _ _ _ ⟨by dsimp only; omega, by dsimp only; omega⟩

theorem State.linkShown_besideLink (s : State) (q link : Nat) : FieldsStay (besideLink q) s (s.linkShown q link) := by
  have hlink : FieldsStay (besideLink q) s (s.p (Reg.TZL.STATUS.LINK q) link) :=
    State.p_fieldsStay (.refl _ s) _ _ fun _ hf => hf.2.1
  exact .ite hlink (State.p_fieldsStay hlink _ _ fun _ hf => hf.2.2)

theorem State.ctrlDrop_besideFall (h : FieldsStay (besideFall q) s₀ s) : FieldsStay (besideFall q) s₀ (s.ctrlDrop q) :=
  .ite (State.setTz_fieldsStay (State.p_fieldsStay (State.p_fieldsStay h _ _ fun _ hf => .inl hf.2.1.symm) _ _
    fun _ hf => .inl hf.2.1.symm) _) h

theorem State.tzlLink_besideFall (s : State) (q link : Nat) : FieldsStay (besideFall q) (s.linkShown q link) (s.tzlLink q link) := by
  unfold State.tzlLink State.linkShown
  extract_lets x y tz z up
  have hz : FieldsStay (besideFall q) (if 3 ≤ link then x else x.p (Reg.TZL.STATUS.STREAM q) 0) z := by
    unfold z
    split
    · exact .refl _ _
    · have hy : FieldsStay (besideFall q) (x.p (Reg.TZL.STATUS.STREAM q) 0) y :=
        State.p_fieldsStay (.refl _ _) _ _ fun _ hf => hf.2.2.1
      exact State.ctrlDrop_besideFall (State.setTz_fieldsStay (State.p_fieldsStay hy _ _ fun _ hf => hf.2.2.2) _)
  exact .ite hz ((State.setTz_fieldsStay hz _).aside (State.raise_aside (Aside.refl _) _ _ (by decide)) fun _ hf => hf.1)

theorem State.tzlLink_link (s : State) (q : Nat) (hl : link < 8) : (s.tzlLink q link).g (Reg.TZL.STATUS.LINK q) = link :=
  (s.tzlLink_besideFall q link _ ⟨.inr (.inr (by dsimp only; omega)), by dsimp only; omega, .inr (.inr (by dsimp only; omega)),
    .inr (.inr (by dsimp only; omega))⟩).trans (State.linkShown_link hl)

theorem State.tzlLink_stream (s : State) (q : Nat) (hl : link < 3) : (s.tzlLink q link).g (Reg.TZL.STATUS.STREAM q) = 0 :=
  (s.tzlLink_besideFall q link _ ⟨.inr (.inr (by dsimp only; omega)), by dsimp only; omega, .inr (.inl (by dsimp only; omega)),
    .inr (.inl (by dsimp only; omega))⟩).trans (State.linkShown_stream hl)

/-- A change of LINK leaves every other field that no fall of a link writes. -/
theorem State.tzlLink_besideLink (s : State) (q link : Nat) : FieldsStay (besideLink q) s (s.tzlLink q link) :=
  (s.linkShown_besideLink q link).trans fun f hf => s.tzlLink_besideFall q link f hf.1

theorem State.ctrlDrop_clock (s : State) (q : Nat) : (s.ctrlDrop q).clock = s.clock := by
  unfold State.ctrlDrop
  split <;> rfl

@[simp] theorem State.tzlLink_clock (s : State) (q link : Nat) : (s.tzlLink q link).clock = s.clock := by
  unfold State.tzlLink
  extract_lets x y tz z up
  have hz : z.clock = s.clock := by
    unfold z
    split
    · rfl
    · exact State.ctrlDrop_clock _ _
  split
  · exact hz
  · exact (State.raise_clock _ _ _ (by decide)).trans hz

/-! ### Attempts (R290) -/

/-- A change of LINK leaves CTRL. -/
theorem besideLink_ctrl (q lo width : Nat) : besideLink q ⟨0x10780000 + 0x1000 * q, lo, width⟩ :=
  ⟨⟨.inr (.inr (by dsimp only; omega)), by dsimp only; omega, .inl (by dsimp only; omega), .inl (by dsimp only; omega)⟩,
    .inl (by dsimp only; omega), .inl (by dsimp only; omega)⟩

/-- It leaves PARTNER_VMAX, SPARED_LANE, RESULT and ENABLE_RESULT in STATUS. -/
theorem besideLink_high (q : Nat) {lo width : Nat} (h : 24 ≤ lo ∨ 8 ≤ lo ∧ lo + width ≤ 20) :
    besideLink q ⟨0x10780004 + 0x1000 * q, lo, width⟩ :=
  ⟨⟨.inr (.inr (by dsimp only; omega)), by dsimp only; omega, .inr (.inl (by dsimp only; omega)), .inr (.inl (by dsimp only; omega))⟩,
    .inr (.inl (by dsimp only; omega)), .inr (by dsimp only; omega)⟩

theorem State.tzlSet_tz (s : State) (q : Nat) (ts2 : Bool) (vsel : Nat) :
    ((s.tzlSet q ts2 vsel).tz q).ts2 = ts2 ∧ ((s.tzlSet q ts2 vsel).tz q).clockAt = (s.tz q).clockAt := by
  unfold State.tzlSet
  rw [State.tz_setTz_same]
  exact ⟨rfl, rfl⟩

/-- How an attempt begins: with LINK TRAINING, or DOWN while it waits for the engine, and from what moment its time counts. -/
theorem State.tzlTry_shows (s : State) (q : Nat) :
    (s.tzlTry q).g (Reg.TZL.STATUS.LINK q) = (if s.engRunning 23 then 2 else 1) ∧ ((s.tzlTry q).tz q).clockAt = s.clock ∧
      FieldsStay (besideLink q) s (s.tzlTry q) := by
  unfold State.tzlTry
  extract_lets tz x down
  have hstay (link : Nat) : FieldsStay (besideLink q) s (x.tzlLink q link) :=
    FieldsStay.trans (State.setTz_fieldsStay (.refl _ s) _) (State.tzlLink_besideLink x q link)
  have hclock (link : Nat) : (x.tzlLink q link).clock = s.clock := x.tzlLink_clock q link
  rw [show x.engRunning 23 = s.engRunning 23 from rfl]
  cases s.engRunning 23 with
  | false =>
    refine ⟨x.tzlLink_link q (by decide), ?_, State.setTz_fieldsStay (hstay 1) _⟩
    exact (congrArg TzlState.clockAt (State.tz_setTz_same _ _ _)).trans (hclock 1)
  | true =>
    refine ⟨x.tzlLink_link q (by decide), ?_, State.setTz_fieldsStay (State.setTz_fieldsStay (hstay 2) _) _⟩
    exact (State.tzlSet_tz _ _ _ _).2.trans ((congrArg TzlState.clockAt (State.tz_setTz_same _ _ _)).trans (hclock 2))

/-- An attempt that the engine begins sends TS1. -/
theorem State.tzlTry_ts2 {q : Nat} (he : s.engRunning 23 = true) : ((s.tzlTry q).tz q).ts2 = false := by
  unfold State.tzlTry
  extract_lets tz x down
  rw [show x.engRunning 23 = true from he]
  exact (State.tzlSet_tz _ _ _ _).1

/-- How an attempt ends that fails. -/
theorem State.tzlFail_shows (s : State) (q : Nat) {result : Nat} (hr : result < 16) :
    (s.tzlFail q result).g (Reg.TZL.STATUS.LINK q) = 1 ∧ (s.tzlFail q result).g (Reg.TZL.STATUS.RESULT q) = result ∧
      (s.tzlFail q result).g (Reg.TZL.STATUS.PARTNER_VMAX q) = s.g (Reg.TZL.STATUS.PARTNER_VMAX q) ∧
      ((s.tzlFail q result).tz q).clockAt = s.clock + 100000000 := by
  have hstay := (s.p (Reg.TZL.STATUS.RESULT q) result).tzlLink_besideLink q 1
  refine ⟨State.tzlLink_link _ _ (by decide), ?_, ?_, ?_⟩
  · exact (hstay _ (besideLink_high q (.inl (by decide)))).trans (State.g_p_val _ _ _ ⟨by dsimp only; omega, hr⟩)
  · exact (hstay _ (besideLink_high q (.inr (by decide)))).trans (State.g_p_other _ _ _ _ (.inr (.inr (by dsimp only; omega))))
  · exact (congrArg TzlState.clockAt (State.tz_setTz_same _ _ _)).trans (congrArg (· + 100000000) (State.tzlLink_clock _ q 1))

end Link

end Sys2Proof.Machine
end

section
/-! PROOF. A write of TZL[q].CTRL: the checks of an enable, and what enable, disable and TRAIN make of the framer (R278, R302). -/

-- One lemma after the other: elaborated side by side, they take more threads than the memory of the check holds.
set_option Elab.async false

namespace Sys2Proof.Machine

/-! ### The checks read quiet registers alone (R278) -/

/-- From `s` to `t` every field outside the event block, the error log and the matrix stays. -/
abbrev QuietStay : State → State → Prop := FieldsStay fun f => quietAddr f.addr

section Checks

variable {s t : State} (h : QuietStay s t)
include h

theorem FieldsStay.high {f : FRef} (hf : 0x100B0000 ≤ f.addr) : t.g f = s.g f := h f (.inr (.inr hf))

theorem FieldsStay.highGb {f : FRef} (hf : 0x100B0000 ≤ f.addr) : t.gb f = s.gb f := h.gb (.inr (.inr hf))

theorem State.tzlLanes_congr (q : Nat) : t.tzlLanes q = s.tzlLanes q := by
  simp (disch := (dsimp only; omega)) only [State.tzlLanes, State.tzlWidth, FieldsStay.high h]

theorem State.tzlSpare_congr (q : Nat) : t.tzlSpare q = s.tzlSpare q := by
  simp (disch := (dsimp only; omega)) only [State.tzlSpare, FieldsStay.high h, FieldsStay.highGb h]

theorem State.dpOf_congr (d : Nat) : t.dpOf d = s.dpOf d := by
  simp (disch := (dsimp only; omega)) only [State.dpOf, State.dpLanes, FieldsStay.high h, FieldsStay.highGb h]

theorem State.tzlOf_congr (d : Nat) : t.tzlOf d = s.tzlOf d := by
  simp (disch := (dsimp only; omega)) only [State.tzlOf, State.tzlLanes_congr h, FieldsStay.highGb h]

theorem State.spareOf_congr (d : Nat) : t.spareOf d = s.spareOf d := by
  simp (disch := (dsimp only; omega)) only [State.spareOf, State.tzlSpare_congr h, FieldsStay.highGb h]

theorem State.laneOwner_congr (q l : Nat) : t.laneOwner q l = s.laneOwner q l := by
  unfold State.laneOwner
  rw [State.dpOf_congr h, State.tzlOf_congr h, State.spareOf_congr h,
    FieldsStay.highGb h (f := Reg.LANE.TEST_EN q l) (by dsimp only; omega),
    FieldsStay.high h (f := Reg.NET.CTRL.MODE q) (by dsimp only; omega)]

theorem State.lanesBusy_congr (ds : List Nat) : t.lanesBusy ds = s.lanesBusy ds := by
  simp only [State.lanesBusy, State.laneOwner_congr h]

theorem State.quadsDiffer_congr (qs : List Nat) (code : Nat) (ssc : Bool) : t.quadsDiffer qs code ssc = s.quadsDiffer qs code ssc := by
  simp (disch := (dsimp only; omega)) only [State.quadsDiffer, FieldsStay.high h, FieldsStay.highGb h]

theorem State.tzlWidth_congr (q : Nat) : t.tzlWidth q = s.tzlWidth q := by
  unfold State.tzlWidth
  rw [FieldsStay.high h (by dsimp only; omega)]

theorem State.tzlHead_congr (q : Nat) : t.tzlHead q = s.tzlHead q := FieldsStay.high h (by dsimp only; omega)

theorem State.lineBytes_congr (n : Nat) : t.lineBytes n = s.lineBytes n := by
  unfold State.lineBytes State.activeW
  rw [State.lead_congr fun f hf => h f hf.1, FieldsStay.high h (by dsimp only; omega), FieldsStay.highGb h (by dsimp only; omega)]

theorem State.lineNs_congr (n : Nat) : t.lineNs n = s.lineNs n := by
  unfold State.lineNs
  rw [State.timing_congr fun f hf => h f hf.1, State.pixHz_congr fun f hf => h f hf.1]

theorem State.tzlFits_congr (q : Nat) : t.tzlFits q = s.tzlFits q := by
  unfold State.tzlFits
  dsimp only
  rw [State.tzlHead_congr h, State.tzlWidth_congr h, State.lineBytes_congr h, State.lineNs_congr h,
    FieldsStay.highGb h (f := Reg.TZL.CTRL.RATE q) (by dsimp only; omega)]

theorem State.tzlAll_congr (q : Nat) : t.tzlAll q = s.tzlAll q := by
  unfold State.tzlAll
  rw [State.tzlLanes_congr h, State.tzlSpare_congr h]

theorem State.tzlCheck_congr (q : Nat) : t.tzlCheck q = s.tzlCheck q := by
  unfold State.tzlCheck
  rw [State.tzlWidth_congr h, State.tzlAll_congr h, State.tzlLanes_congr h, State.tzlSpare_congr h, State.tzlHead_congr h,
    State.tzlFits_congr h, State.lanesBusy_congr h, State.quadsDiffer_congr h,
    FieldsStay.highGb h (f := Reg.TZL.CTRL.RATE q) (by dsimp only; omega),
    FieldsStay.highGb h (f := Reg.HEAD.CTRL.ENABLE (s.tzlHead q)) (by dsimp only; omega)]

/-- A write of a register whose window is open leaves quiet registers as it does in a state that shows the same. -/
theorem State.writeFields_congr {a : Nat} (ho : t.windowOpen a = s.windowOpen a) (ha : t.reg a = s.reg a) (m : Nat) (v skip : Word) :
    QuietStay (s.writeFields m a v skip) (t.writeFields m a v skip) := by
  intro f hf
  unfold State.writeFields
  rw [ho, ha]
  extract_lets w
  rw [((t.setReg a w.word).logTaken_stays m a v w).1.g hf, ((s.setReg a w.word).logTaken_stays m a v w).1.g hf]
  unfold State.g
  by_cases hfa : f.addr = a
  · rw [hfa, State.reg_setReg_same, State.reg_setReg_same]
  · rw [State.reg_setReg_ne _ hfa, State.reg_setReg_ne _ hfa]
    exact h f hf

end Checks

theorem State.tzlCheck_lt (s : State) (q : Nat) : s.tzlCheck q < 16 := by
  unfold State.tzlCheck
  split_ifs <;> decide

/-! ### The word of CTRL (R302) -/

/-- The fields of TZL[q].CTRL. -/
def tzlCtrlFields : List RegField :=
  [fAny 31 1 .w1s 0 .s false, fAny 25 1 .rw 0 .s false, fAny 24 1 .rw 0 .s false, fAny 18 6 .rw 0 .s false,
    fIn 16 2 .rw 3 .s false 2 3, fAny 15 1 .rw 0 .s false, fAny 13 2 .rw 0 .s false, fAny 1 6 .rw 0 .s false, fAny 0 1 .rw 0 .s false]

theorem regFields_tzlCtrl : ∀ q : Fin 16, regFields (Reg.TZL.CTRL.ENABLE q.val).addr = some tzlCtrlFields := by decide

theorem inRange_below {lo hi a : Nat} (h : a < lo) : inRange lo hi a = false := by
  simp [inRange, h]

theorem inRange_above {lo hi a : Nat} (h : hi ≤ a) : inRange lo hi a = false := by
  simp [inRange, h]

/-- CTRL of a framer has no edit window. -/
theorem State.windowOpen_tzlCtrl (s : State) (q : Fin 16) : s.windowOpen (Reg.TZL.CTRL.ENABLE q.val).addr = true := by
  have hq := q.isLt
  unfold State.windowOpen
  dsimp only
  simp (disch := omega) only [inRange_below, inRange_above, Bool.false_eq_true, if_false]

/-! ### The fields that a write skips -/

theorem takeField_apart (isOpen : Bool) (v : Word) (t : Taken) (f : RegField) {lo width : Nat}
    (h : f.lo + f.width ≤ lo ∨ lo + width ≤ f.lo) :
    fieldGet (takeField isOpen v t f).word lo width = fieldGet t.word lo width := by
  unfold takeField
  extract_lets x legal
  split
  · split
    · exact fieldGet_fieldSet_ne _ _ h
    · rfl
  · split
    · rfl
    · split
      · exact fieldGet_fieldSet_ne _ _ h
      · rfl
  · exact fieldGet_fieldSet_ne _ _ h
  · rfl

/-- A field apart from all that a write does not skip stays. -/
theorem takeFields_apart (isOpen : Bool) (v skip w : Word) {fs : List RegField} {lo width : Nat}
    (h : ∀ f ∈ fs, fieldGet skip f.lo f.width = 0 → f.lo + f.width ≤ lo ∨ lo + width ≤ f.lo) :
    fieldGet (takeFields isOpen v skip w fs).word lo width = fieldGet w lo width :=
  List.foldlRecOn (motive := fun t : Taken => fieldGet t.word lo width = fieldGet w lo width) _ _ rfl fun t ht f hf =>
    (takeField_apart isOpen v t f (h f (List.mem_of_mem_filter hf) (by simpa using (List.mem_filter.1 hf).2))).trans ht

theorem tzlCtrlFields_enable : ∀ f ∈ tzlCtrlFields,
    fieldGet (0x80000001 : Word) f.lo f.width = 0 → f.lo + f.width ≤ 0 ∨ 0 + 1 ≤ f.lo := by decide

/-- A write that skips TRAIN and ENABLE leaves ENABLE. -/
theorem State.writeFields_tzlEnable (s : State) (m : Nat) (q : Fin 16) (v : Word) :
    (s.writeFields m (Reg.TZL.CTRL.ENABLE q.val).addr v 0x80000001).gb (Reg.TZL.CTRL.ENABLE q.val) =
      s.gb (Reg.TZL.CTRL.ENABLE q.val) := by
  unfold State.writeFields
  extract_lets w
  rw [((s.setReg _ w.word).logTaken_stays m _ v w).1.gb (.inr (.inr (by dsimp only; omega)))]
  unfold State.gb State.g w
  rw [State.reg_setReg_same, regFields_tzlCtrl, Option.getD_some, takeFields_apart _ _ _ _ tzlCtrlFields_enable]

/-- A write of fields leaves every other quiet register. -/
theorem State.writeFields_quiet (s : State) (m a : Nat) (v skip : Word) :
    FieldsStay (fun f => quietAddr f.addr ∧ f.addr ≠ a) s (s.writeFields m a v skip) := by
  intro f hf
  unfold State.writeFields
  extract_lets w
  rw [((s.setReg a w.word).logTaken_stays m a v w).1.g hf.1]
  unfold State.g
  rw [State.reg_setReg_ne _ hf.2]

theorem State.writeFields_clock (s : State) (m a : Nat) (v skip : Word) : (s.writeFields m a v skip).clock = s.clock :=
  (State.logTaken_stays _ _ _ _ _).1.clock

/-! ### The cases of a write of CTRL (R302) -/

section Write

variable {s : State} {m q : Nat} {v : Word}

/-- The state of a framer whose CTRL a write of its fields gave, with the result of the check. -/
def State.tzlChecked (s : State) (q : Nat) : State := s.p (Reg.TZL.STATUS.ENABLE_RESULT q) (s.tzlCheck q)

theorem tzlCtrlWrite_passed (hv : fieldGet v 0 1 = 1) (hoff : s.gb (Reg.TZL.CTRL.ENABLE q) = false)
    {t : State} (ht : s.writeFields m (Reg.TZL.CTRL.ENABLE q).addr v 0x80000001 = t) (hr : t.tzlCheck q = 0) :
    tzlCtrlWrite m q v s =
      ((t.tzlChecked q).pb (Reg.TZL.CTRL.ENABLE q) true |>.quadsRefresh (quadsOf ((t.tzlChecked q).tzlAll q))).tzlTry q := by
  unfold tzlCtrlWrite
  rw [hoff]
  dsimp only
  rw [if_pos ⟨hv, rfl⟩, if_pos (show (!false) = true from rfl), ht, if_neg (not_not.2 hr)]
  rfl

theorem tzlCtrlWrite_failed (hv : fieldGet v 0 1 = 1) (hoff : s.gb (Reg.TZL.CTRL.ENABLE q) = false)
    {t : State} (ht : s.writeFields m (Reg.TZL.CTRL.ENABLE q).addr v 0x80000001 = t) (hr : t.tzlCheck q ≠ 0) :
    tzlCtrlWrite m q v s = (t.tzlChecked q).logIgnored m (Reg.TZL.CTRL.ENABLE q).addr v := by
  unfold tzlCtrlWrite
  rw [hoff]
  dsimp only
  rw [if_pos ⟨hv, rfl⟩, if_pos (show (!false) = true from rfl), ht, if_pos hr]
  rfl

/-- An enabled framer's CTRL takes no field; a word that would change one is recorded. -/
def State.tzlHeld (s : State) (m q : Nat) (v : Word) : State :=
  if (v ^^^ s.reg (Reg.TZL.CTRL.ENABLE q).addr) &&& 0x03FFE07E ≠ 0 then s.logIgnored m (Reg.TZL.CTRL.ENABLE q).addr v else s

theorem State.tzlHeld_aside (s : State) (m q : Nat) (v : Word) : Aside s (s.tzlHeld m q v) :=
  .ite (State.logIgnored_aside (Aside.refl s) _ _ _) (Aside.refl s)

theorem tzlCtrlWrite_off (hv : fieldGet v 0 1 = 0) (hon : s.gb (Reg.TZL.CTRL.ENABLE q) = true) {t : State}
    (ht : s.tzlHeld m q v = t) :
    tzlCtrlWrite m q v s = (((t.setTz q { t.tz q with want := false }).pb (Reg.TZL.CTRL.ENABLE q) false).tzlLink q 0).quadsRefresh
      (quadsOf (t.tzlAll q)) := by
  unfold tzlCtrlWrite
  rw [hon, hv, ← ht]
  rfl

theorem tzlCtrlWrite_train (hv : fieldGet v 0 1 = 1) (htrain : fieldGet v 31 1 = 1) (hon : s.gb (Reg.TZL.CTRL.ENABLE q) = true) :
    tzlCtrlWrite m q v s = (s.tzlHeld m q v).tzlTrain q := by
  unfold tzlCtrlWrite
  rw [hon, hv, htrain]
  rfl

end Write

/-! ### What the cases show -/

theorem State.engRunning_congr {s t : State} (h : t.g (Reg.ENG.STATUS.STATE 23) = s.g (Reg.ENG.STATUS.STATE 23)) :
    t.engRunning 23 = s.engRunning 23 := by
  unfold State.engRunning
  rw [h]

section Shows

variable {s : State} {m : Nat} {q : Fin 16} {v : Word}

/-- A framer whose checks pass is enabled, and an attempt begins. -/
theorem tzlCtrlWrite_passed_shows (hv : fieldGet v 0 1 = 1) (hoff : s.gb (Reg.TZL.CTRL.ENABLE q.val) = false)
    (hr : (s.writeFields m (Reg.TZL.CTRL.ENABLE q.val).addr v 0x80000001).tzlCheck q.val = 0) :
    (tzlCtrlWrite m q.val v s).gb (Reg.TZL.CTRL.ENABLE q.val) = true ∧
      (tzlCtrlWrite m q.val v s).g (Reg.TZL.STATUS.ENABLE_RESULT q.val) = 0 ∧
      (tzlCtrlWrite m q.val v s).g (Reg.TZL.STATUS.LINK q.val) = (if s.engRunning 23 then 2 else 1) ∧
      ((tzlCtrlWrite m q.val v s).tz q.val).clockAt = s.clock := by
  rw [tzlCtrlWrite_passed hv hoff rfl hr]
  have hwritten := s.writeFields_quiet m (Reg.TZL.CTRL.ENABLE q.val).addr v 0x80000001
  have hclock := s.writeFields_clock m (Reg.TZL.CTRL.ENABLE q.val).addr v 0x80000001
  generalize s.writeFields m (Reg.TZL.CTRL.ENABLE q.val).addr v 0x80000001 = t at hr hwritten hclock ⊢
  obtain ⟨habove, hkept⟩ := ((t.tzlChecked q.val).pb (Reg.TZL.CTRL.ENABLE q.val) true).quadsRefresh_aboveLanes
    (qs := quadsOf ((t.tzlChecked q.val).tzlAll q.val)) fun _ => State.quadsOf_tzlAll_lt q.isLt
  obtain ⟨hlink, hat, hstay⟩ := State.tzlTry_shows
    (((t.tzlChecked q.val).pb (Reg.TZL.CTRL.ENABLE q.val) true).quadsRefresh (quadsOf ((t.tzlChecked q.val).tzlAll q.val))) q.val
  have heng : (((t.tzlChecked q.val).pb (Reg.TZL.CTRL.ENABLE q.val) true).quadsRefresh
      (quadsOf ((t.tzlChecked q.val).tzlAll q.val))).engRunning 23 = s.engRunning 23 := by
    refine State.engRunning_congr ((habove _ (by unfold aboveLanes; decide)).trans ?_)
    rw [State.g_pb_other _ _ _ _ (.inl (by dsimp only; omega)), State.tzlChecked, State.g_p_other _ _ _ _ (.inl (by dsimp only; omega))]
    exact hwritten _ ⟨.inr (.inr (by decide)), by dsimp only; omega⟩
  refine ⟨?_, ?_, hlink.trans (by rw [heng]), hat.trans (hkept.trans hclock)⟩
  · rw [hstay.gb (besideLink_ctrl q.val 0 1), habove.gb (by unfold aboveLanes; dsimp only; omega)]
    exact State.gb_pb_same _ _ _
  · rw [hstay _ (besideLink_high q.val (.inl (by decide))), habove _ (by unfold aboveLanes; dsimp only; omega),
      State.g_pb_other _ _ _ _ (.inl (by dsimp only; omega)), State.tzlChecked, hr]
    exact State.g_p_val _ _ _ ⟨by dsimp only; omega, by dsimp only; omega⟩

/-- A framer that fails a check stays as it is, but for the code. -/
theorem tzlCtrlWrite_failed_shows (hv : fieldGet v 0 1 = 1) (hoff : s.gb (Reg.TZL.CTRL.ENABLE q.val) = false)
    (hr : (s.writeFields m (Reg.TZL.CTRL.ENABLE q.val).addr v 0x80000001).tzlCheck q.val ≠ 0) :
    (tzlCtrlWrite m q.val v s).gb (Reg.TZL.CTRL.ENABLE q.val) = false ∧
      (tzlCtrlWrite m q.val v s).g (Reg.TZL.STATUS.ENABLE_RESULT q.val) =
        (s.writeFields m (Reg.TZL.CTRL.ENABLE q.val).addr v 0x80000001).tzlCheck q.val ∧
      (tzlCtrlWrite m q.val v s).g (Reg.TZL.STATUS.LINK q.val) = s.g (Reg.TZL.STATUS.LINK q.val) ∧
      (tzlCtrlWrite m q.val v s).mem = s.mem := by
  rw [tzlCtrlWrite_failed hv hoff rfl hr]
  have hwritten := s.writeFields_quiet m (Reg.TZL.CTRL.ENABLE q.val).addr v 0x80000001
  have hmem := s.writeFields_mem m (Reg.TZL.CTRL.ENABLE q.val).addr v 0x80000001
  have henable := (s.writeFields_tzlEnable m q v).trans hoff
  generalize s.writeFields m (Reg.TZL.CTRL.ENABLE q.val).addr v 0x80000001 = t at hwritten hmem henable ⊢
  have haside := State.logIgnored_aside (Aside.refl (t.tzlChecked q.val)) m (Reg.TZL.CTRL.ENABLE q.val).addr v
  refine ⟨?_, ?_, ?_, (State.errLog_mem _ _).trans hmem⟩
  · rw [haside.gb (.inr (.inr (by dsimp only; omega))), State.tzlChecked, State.gb_p_other _ _ _ _ (.inl (by dsimp only; omega))]
    exact henable
  · rw [haside.g (.inr (.inr (by dsimp only; omega))), State.tzlChecked]
    exact State.g_p_val _ _ _ ⟨by dsimp only; omega, t.tzlCheck_lt q.val⟩
  · rw [haside.g (.inr (.inr (by dsimp only; omega))), State.tzlChecked,
      State.g_p_other _ _ _ _ (.inr (.inr (by dsimp only; omega)))]
    exact hwritten _ ⟨.inr (.inr (by dsimp only; omega)), by dsimp only; omega⟩

/-- A framer disabled is OFF. -/
theorem tzlCtrlWrite_off_shows (hv : fieldGet v 0 1 = 0) (hon : s.gb (Reg.TZL.CTRL.ENABLE q.val) = true) :
    (tzlCtrlWrite m q.val v s).gb (Reg.TZL.CTRL.ENABLE q.val) = false ∧
      (tzlCtrlWrite m q.val v s).g (Reg.TZL.STATUS.LINK q.val) = 0 ∧
      (tzlCtrlWrite m q.val v s).g (Reg.TZL.STATUS.STREAM q.val) = 0 := by
  rw [tzlCtrlWrite_off hv hon rfl]
  generalize s.tzlHeld m q.val v = t
  set u : State := (t.setTz q.val { t.tz q.val with want := false }).pb (Reg.TZL.CTRL.ENABLE q.val) false
  obtain ⟨habove, -⟩ := (u.tzlLink q.val 0).quadsRefresh_aboveLanes
    (qs := quadsOf (t.tzlAll q.val)) fun _ => State.quadsOf_tzlAll_lt q.isLt
  refine ⟨?_, ?_, ?_⟩
  · rw [habove.gb (by unfold aboveLanes; dsimp only; omega), (u.tzlLink_besideLink q.val 0).gb (besideLink_ctrl q.val 0 1)]
    exact State.gb_pb_same _ _ _
  · rw [habove _ (by unfold aboveLanes; dsimp only; omega)]
    exact u.tzlLink_link q.val (by decide)
  · rw [habove _ (by unfold aboveLanes; dsimp only; omega)]
    exact u.tzlLink_stream q.val (by decide)

/-- TRAIN of an enabled framer begins an attempt while the engine runs. -/
theorem tzlCtrlWrite_train_shows (hv : fieldGet v 0 1 = 1) (htrain : fieldGet v 31 1 = 1)
    (hon : s.gb (Reg.TZL.CTRL.ENABLE q.val) = true) (he : s.engRunning 23 = true) :
    (tzlCtrlWrite m q.val v s).g (Reg.TZL.STATUS.LINK q.val) = 2 ∧
      (tzlCtrlWrite m q.val v s).gb (Reg.TZL.CTRL.ENABLE q.val) = true ∧
      ((tzlCtrlWrite m q.val v s).tz q.val).ts2 = false ∧
      ((tzlCtrlWrite m q.val v s).tz q.val).clockAt = s.clock := by
  rw [tzlCtrlWrite_train hv htrain hon]
  have haside := s.tzlHeld_aside m q.val v
  have heng : (s.tzlHeld m q.val v).engRunning 23 = true :=
    (State.engRunning_congr (haside.g (.inr (.inr (by decide))))).trans he
  obtain ⟨hlink, hat, hstay⟩ := (s.tzlHeld m q.val v).tzlTry_shows q.val
  unfold State.tzlTrain
  rw [if_pos heng]
  refine ⟨hlink.trans (by rw [heng, if_pos rfl]), ?_, State.tzlTry_ts2 heng, hat.trans haside.clock⟩
  rw [hstay.gb (besideLink_ctrl q.val 0 1), haside.gb (.inr (.inr (by dsimp only; omega)))]
  exact hon

end Shows

end Sys2Proof.Machine
end

section
/-! PROOF. Ordered sets: what a framer in training makes of those it hears, and the settling of O36 (R290, R302). -/

-- One lemma after the other: elaborated side by side, they take more threads than the memory of the check holds.
set_option Elab.async false

namespace Sys2Proof.Machine

/-! ### The stream of a link that is UP (R296) -/

/-- STREAM and what is sent change no other quiet field. -/
theorem State.tzlStream_stays (s : State) (q : Nat) :
    FieldsStay (fun f => quietAddr f.addr ∧ (Reg.TZL.STATUS.STREAM q).apart f) s (s.tzlStream q) := by
  unfold State.tzlStream
  extract_lets up want was x y
  have hx : FieldsStay (fun f => quietAddr f.addr ∧ (Reg.TZL.STATUS.STREAM q).apart f) s x :=
    State.p_fieldsStay (.refl _ s) _ _ fun _ hf => hf.2
  have hy : FieldsStay (fun f => quietAddr f.addr ∧ (Reg.TZL.STATUS.STREAM q).apart f) s y := .ite (State.setTz_fieldsStay hx _) hx
  exact .ite (hy.aside (State.raise_aside (Aside.refl y) _ _ (by decide)) fun _ hf => hf.1) hy

/-- An attempt completes: LINK UP at the version selected, and idle symbols. -/
def State.tzlUpAt (s : State) (q vsel : Nat) (spareOk : Bool) : State :=
  let t := ((((s.p (Reg.TZL.STATUS.RESULT q) 1).tzlLink q 3).p (Reg.TZL.STATUS.VERSION q) vsel).pb
    (Reg.TZL.STATUS.SPARE_OK q) spareOk).tzlStream q
  if t.g (Reg.TZL.STATUS.STREAM q) = 1 then t.tzlSay q (List.replicate 16 .idl) else t.tzlIdle q (List.replicate 16 .idl)

theorem State.tzlUpAt_shows (s : State) (q : Nat) {vsel : Nat} (hv : vsel < 4) (spareOk : Bool) :
    (s.tzlUpAt q vsel spareOk).g (Reg.TZL.STATUS.LINK q) = 3 ∧ (s.tzlUpAt q vsel spareOk).g (Reg.TZL.STATUS.RESULT q) = 1 ∧
      (s.tzlUpAt q vsel spareOk).g (Reg.TZL.STATUS.VERSION q) = vsel := by
  have hlink := (s.p (Reg.TZL.STATUS.RESULT q) 1).tzlLink_link q (link := 3) (by decide)
  have hresult := ((s.p (Reg.TZL.STATUS.RESULT q) 1).tzlLink_besideLink q 3 _ (besideLink_high q (.inl (by decide)))).trans
    (s.g_p_val (Reg.TZL.STATUS.RESULT q) 1 ⟨by dsimp only; omega, by dsimp only; omega⟩)
  unfold State.tzlUpAt
  generalize (s.p (Reg.TZL.STATUS.RESULT q) 1).tzlLink q 3 = x at hlink hresult ⊢
  extract_lets t
  have hstay : FieldsStay (fun f => quietAddr f.addr ∧ (Reg.TZL.STATUS.STREAM q).apart f)
      ((x.p (Reg.TZL.STATUS.VERSION q) vsel).pb (Reg.TZL.STATUS.SPARE_OK q) spareOk)
      (if t.g (Reg.TZL.STATUS.STREAM q) = 1 then t.tzlSay q (List.replicate 16 .idl) else t.tzlIdle q (List.replicate 16 .idl)) :=
    .ite (State.setTz_fieldsStay (State.tzlStream_stays _ q) _) (State.setTz_fieldsStay (State.tzlStream_stays _ q) _)
  refine ⟨?_, ?_, ?_⟩
  · rw [hstay _ ⟨.inr (.inr (by dsimp only; omega)), .inr (.inr (by dsimp only; omega))⟩,
      State.g_pb_other _ _ _ _ (.inr (.inr (by dsimp only; omega))), State.g_p_other _ _ _ _ (.inr (.inr (by dsimp only; omega)))]
    exact hlink
  · rw [hstay _ ⟨.inr (.inr (by dsimp only; omega)), .inr (.inl (by dsimp only; omega))⟩,
      State.g_pb_other _ _ _ _ (.inr (.inl (by dsimp only; omega))), State.g_p_other _ _ _ _ (.inr (.inl (by dsimp only; omega)))]
    exact hresult
  · rw [hstay _ ⟨.inr (.inr (by dsimp only; omega)), .inr (.inr (by dsimp only; omega))⟩,
      State.g_pb_other _ _ _ _ (.inr (.inr (by dsimp only; omega)))]
    exact State.g_p_val _ _ _ ⟨by dsimp only; omega, hv⟩

theorem State.tzlSet_g (s : State) (q : Nat) (ts2 : Bool) (vsel : Nat) (f : FRef) : (s.tzlSet q ts2 vsel).g f = s.g f := rfl

/-! ### Ordered sets (R290) -/

section Heard

variable {s : State} {q : Nat} {o : OrderedSet}

/-- A framer in training hears ordered sets on all its lanes, its engine running. -/
def State.tzlHears (s : State) (q : Nat) : Prop :=
  s.coreOn = true ∧ s.g (Reg.TZL.STATUS.LINK q) = 2 ∧ s.engRunning 23 = true ∧
    (s.tzlLanes q).all (fun d => s.laneGood (dispQuad d) (dispLane d)) = true

theorem State.tzlHears_advance (dt : Nat) (h : s.tzlHears q) : (s.advance dt).tzlHears q := by
  simpa [State.tzlHears, State.tzlLanes, State.tzlWidth, State.laneGood, State.laneHears] using h

/-- The version of the partner noted. -/
def State.tzlNoted (s : State) (q : Nat) (o : OrderedSet) : State := s.p (Reg.TZL.STATUS.PARTNER_VMAX q) o.vmax

theorem State.tzlNoted_vmax (s : State) (q : Nat) (o : OrderedSet) :
    (s.tzlNoted q o).g (Reg.TZL.STATUS.PARTNER_VMAX q) = o.vmax % 256 := State.g_p_same _ _ _ (by dsimp only; omega)

theorem State.tzlNoted_link (s : State) (q : Nat) (o : OrderedSet) :
    (s.tzlNoted q o).g (Reg.TZL.STATUS.LINK q) = s.g (Reg.TZL.STATUS.LINK q) :=
  State.g_p_other _ _ _ _ (.inr (.inr (by dsimp only; omega)))

theorem State.tzlNoted_ctrl (s : State) (q : Nat) (o : OrderedSet) (lo width : Nat) :
    (s.tzlNoted q o).g ⟨0x10780000 + 0x1000 * q, lo, width⟩ = s.g ⟨0x10780000 + 0x1000 * q, lo, width⟩ :=
  State.g_p_other _ _ _ _ (.inl (by dsimp only; omega))

theorem State.tzlNoted_width (s : State) (q : Nat) (o : OrderedSet) : (s.tzlNoted q o).tzlWidth q = s.tzlWidth q :=
  congrArg (2 ^ ·) (s.tzlNoted_ctrl q o 13 2)

/-- The version to select: the lower of the framer's and its partner's. -/
def State.tzlVersion (s : State) (q : Nat) (o : OrderedSet) : Nat := min (s.g (Reg.TZL.CTRL.VERSION_MAX q)) (o.vmax % 256)

theorem State.tzlNoted_version (s : State) (q : Nat) (o : OrderedSet) : (s.tzlNoted q o).tzlVersion q o = s.tzlVersion q o :=
  congrArg (min · (o.vmax % 256)) (s.tzlNoted_ctrl q o 16 2)

/-- Whether the spare of a bond that comes up is ready. -/
def State.spareReady (s : State) (q : Nat) (o : OrderedSet) : Bool :=
  decide (s.tzlVersion q o = 3) && s.gb (Reg.TZL.CTRL.SPARE_EN q) && o.spare &&
    (s.tzlSpare q).all (fun d => s.laneGood (dispQuad d) (dispLane d))

/-- Sets that a framer hears are judged by what it holds with the partner's version noted. -/
def State.tzlJudge (s : State) (q : Nat) (o : OrderedSet) : State :=
  if o.width ≠ s.tzlWidth q then s.tzlFail q 3
  else if o.vmax % 256 < 2 then s.tzlFail q 4
  else if !o.ts2 then s.tzlSet q true (s.tzlVersion q o)
  else if (s.tz q).ts2 && o.vsel == s.tzlVersion q o then s.tzlUpAt q (s.tzlVersion q o) (s.spareReady q o)
  else s

theorem orderedSet_heard (h : s.tzlHears q) : orderedSet q o s = (s.tzlNoted q o).tzlJudge q o := by
  obtain ⟨hc, hlink, he, hlanes⟩ := h
  unfold orderedSet
  rw [hc, hlink, he, hlanes, if_pos (by decide)]
  rfl

theorem orderedSet_mismatch (h : s.tzlHears q) (hbad : o.width ≠ s.tzlWidth q ∨ o.vmax % 256 < 2) :
    orderedSet q o s = (s.tzlNoted q o).tzlFail q (if o.width ≠ s.tzlWidth q then 3 else 4) := by
  rw [orderedSet_heard h, State.tzlJudge, s.tzlNoted_width]
  split
  · rfl
  · next hw => exact if_pos (hbad.resolve_left hw)

theorem orderedSet_ts1 (h : s.tzlHears q) (hw : o.width = s.tzlWidth q) (hv : 2 ≤ o.vmax % 256) (ho : o.ts2 = false) :
    orderedSet q o s = (s.tzlNoted q o).tzlSet q true ((s.tzlNoted q o).tzlVersion q o) := by
  rw [orderedSet_heard h, State.tzlJudge, s.tzlNoted_width, if_neg (not_not.2 hw), if_neg (by omega), ho]
  rfl

theorem orderedSet_ts2 (h : s.tzlHears q) (hw : o.width = s.tzlWidth q) (hv : 2 ≤ o.vmax % 256) (ho : o.ts2 = true)
    (hsent : (s.tz q).ts2 = true) (hsel : o.vsel = s.tzlVersion q o) :
    orderedSet q o s = (s.tzlNoted q o).tzlUpAt q o.vsel ((s.tzlNoted q o).spareReady q o) := by
  have hsent' : ((s.tzlNoted q o).tz q).ts2 = true := hsent
  rw [orderedSet_heard h, State.tzlJudge, s.tzlNoted_width, s.tzlNoted_version, if_neg (not_not.2 hw), if_neg (by omega), ho, hsent',
    ← hsel, if_neg (by decide), if_pos (by simp)]

end Heard

/-! ### The attempts that time ends and begins (R290) -/

section Times

variable {s : State} {q : Nat}

theorem tzlTimeout_ends (hc : s.coreOn = true) (hl : s.g (Reg.TZL.STATUS.LINK q) = 2) (he : s.engRunning 23 = true)
    (hat : (s.tz q).clockAt + 10000000 ≤ s.clock) : tzlTimeout q s = s.tzlFail q 2 := by
  unfold tzlTimeout
  rw [hc, hl, he, decide_eq_true hat]
  rfl

theorem tzlRetry_begins (hc : s.coreOn = true) (hon : s.gb (Reg.TZL.CTRL.ENABLE q) = true) (hl : s.g (Reg.TZL.STATUS.LINK q) = 1)
    (he : s.engRunning 23 = true) (hat : (s.tz q).clockAt ≤ s.clock) : tzlRetry q s = s.tzlTry q := by
  unfold tzlRetry
  rw [hc, hon, hl, he, decide_eq_true hat]
  exact if_pos (by simp)

end Times

/-! ### The commands on CTRL -/

/-- A command that sets bit 0 or bit 31 of CTRL of a framer writes to the others what they hold. -/
theorem accessMask_tzlCtrl : ∀ q : Fin 16, fieldGet (accessMask .rw (Reg.TZL.CTRL.ENABLE q.val).addr |||
    accessMask .rwk (Reg.TZL.CTRL.ENABLE q.val).addr) 0 1 = 1 := by decide

/-- A mask that is full in a field leaves the field. -/
theorem fieldGet_and_full (w : Word) {mask : Word} {lo width : Nat} (h : fieldGet mask lo width = 2 ^ width - 1) :
    fieldGet (w &&& mask) lo width = fieldGet w lo width := by
  refine Nat.eq_of_testBit_eq fun i => ?_
  have hmask := fieldGet_testBit mask lo width i
  rw [h, Nat.testBit_two_pow_sub_one] at hmask
  rw [fieldGet_testBit, fieldGet_testBit, BitVec.toNat_and, Nat.testBit_and, Bool.and_left_comm, ← hmask]
  cases decide (i < width) <;> simp

/-- The word of an enable holds ENABLE. -/
theorem fieldGet_enableWord (v : Word) : fieldGet (fieldSet v 0 1 1) 0 1 = 1 := fieldGet_fieldSet_same v 1 (by decide)

/-- The word of TRAIN holds ENABLE as it stands. -/
theorem State.trainWord_enable {s : State} {q : Fin 16} (hon : s.gb (Reg.TZL.CTRL.ENABLE q.val) = true) :
    fieldGet (s.fieldWord (Reg.TZL.CTRL.TRAIN q.val) 1) 0 1 = 1 := by
  unfold State.fieldWord
  rw [fieldGet_fieldSet_ne _ _ (.inr (by dsimp only; omega)), fieldGet_and_full _ (accessMask_tzlCtrl q)]
  have hlt : s.g (Reg.TZL.CTRL.ENABLE q.val) < 2 := s.g_lt _
  have hne : s.g (Reg.TZL.CTRL.ENABLE q.val) ≠ 0 := bne_iff_ne.1 hon
  show s.g (Reg.TZL.CTRL.ENABLE q.val) = 1
  omega

/-- An access served leaves the outcome of the checks. -/
theorem State.served_tzlCheck (s : State) (dt : Nat) (m : Nat) (q : Fin 16) (v skip : Word) :
    ((((s.advance dt).ctlServed m).respond false []).writeFields m (Reg.TZL.CTRL.ENABLE q.val).addr v skip).tzlCheck q.val =
      (s.writeFields m (Reg.TZL.CTRL.ENABLE q.val).addr v skip).tzlCheck q.val := by
  have hstay : QuietStay s (((s.advance dt).ctlServed m).respond false []) := fun f hf => s.served_g dt m f hf
  refine State.tzlCheck_congr (State.writeFields_congr hstay ?_ ?_ m v skip) q.val
  · rw [State.windowOpen_tzlCtrl, State.windowOpen_tzlCtrl]
  · rw [(s.served_aside dt m).reg _ (.inr (.inr (by dsimp only; omega))), State.advance_reg]

theorem State.served_clock (s : State) (dt m : Nat) : (((s.advance dt).ctlServed m).respond false []).clock = s.clock + dt := by
  rw [(s.served_aside dt m).clock, State.advance_clock]

theorem State.served_engRunning (s : State) (dt m : Nat) : (((s.advance dt).ctlServed m).respond false []).engRunning 23 = s.engRunning 23 :=
  State.engRunning_congr (s.served_g dt m _ (.inr (.inr (by decide))))

/-- Settles O36, by the cases of a write of CTRL (`tzlCtrlWrite_passed_shows` and its kin), by what an attempt that begins, fails and
completes shows (`State.tzlTry_shows`, `State.tzlFail_shows`, `State.tzlUpAt_shows`), and by the ordered sets that lead there. That an
attempt waits with LINK DOWN while the link and time engine does not run is the model's reading (log entry 44). -/
theorem thizonTraining : Obligations.ThizonTraining := by
  have hquiet (q : Fin 16) (k lo width : Nat) : quietAddr (⟨0x10780000 + k + 0x1000 * q.val, lo, width⟩ : FRef).addr :=
    .inr (.inr (by dsimp only; omega))
  refine ⟨?passes, ?fails, ?disables, ?trains, ?mismatch, ?ts1, ?ts2, ?timeout, ?retry⟩
  case passes =>
    intro dt m q v s hc hw hoff hr
    have h := tzlCtrlWrite_passed_shows (m := m.val) (fieldGet_enableWord v)
      ((s.served_gb dt m.val _ (hquiet q 0 0 1)).trans hoff) ((s.served_tzlCheck dt m.val q _ _).trans hr)
    rw [s.served_engRunning, s.served_clock] at h
    exact ⟨_, congrArg Host.Outcome.next (State.ctlWrite_served dt hc hw), h⟩
  case fails =>
    intro dt m q v s hc hw hoff hr
    have hsame := s.served_tzlCheck dt m.val q (fieldSet v 0 1 1) 0x80000001
    obtain ⟨henable, hresult, hlink, hmem⟩ := tzlCtrlWrite_failed_shows (fieldGet_enableWord v)
      ((s.served_gb dt m.val _ (hquiet q 0 0 1)).trans hoff) (by rwa [hsame])
    exact ⟨_, congrArg Host.Outcome.next (State.ctlWrite_served dt hc hw), henable, hresult.trans hsame,
      hlink.trans (s.served_g dt m.val _ (hquiet q 4 0 3)), State.byte_congr (hmem.trans (s.served_mem dt m.val))⟩
  case disables =>
    intro dt m q s hc hw hon
    exact ⟨_, congrArg Host.Outcome.next (State.ctlWrite_served dt hc hw),
      tzlCtrlWrite_off_shows ((s.advance dt).fieldWord_get (Reg.TZL.CTRL.ENABLE q.val) 0 (by dsimp only; omega))
        ((s.served_gb dt m.val _ (hquiet q 0 0 1)).trans hon)⟩
  case trains =>
    intro dt m q s hc hw hon he
    have h := tzlCtrlWrite_train_shows (m := m.val) (State.trainWord_enable ((s.advance_gb dt _).trans hon))
      ((s.advance dt).fieldWord_get (Reg.TZL.CTRL.TRAIN q.val) 1 (by dsimp only; omega))
      ((s.served_gb dt m.val _ (hquiet q 0 0 1)).trans hon) ((s.served_engRunning dt m.val).trans he)
    rw [s.served_clock] at h
    exact ⟨_, congrArg Host.Outcome.next (State.ctlWrite_served dt hc hw), h⟩
  case mismatch =>
    intro dt q o s hc hl he hlanes hbad
    have hears := State.tzlHears_advance dt ⟨hc, hl, he, hlanes⟩
    have hwidth : (s.advance dt).tzlWidth q.val = s.tzlWidth q.val := by simp [State.tzlWidth]
    have hset := orderedSet_mismatch hears (hwidth.symm ▸ hbad)
    obtain ⟨hlink, hresult, hvmax, hat⟩ := ((s.advance dt).tzlNoted q.val o).tzlFail_shows q.val
      (result := if o.width ≠ s.tzlWidth q.val then 3 else 4) (by split <;> decide)
    refine ⟨_, congrArg Host.Outcome.next hset, ?_⟩
    rw [hwidth]
    exact ⟨hlink, hresult, hvmax.trans (State.tzlNoted_vmax _ _ _), hat.trans (congrArg (· + 100000000) (s.advance_clock dt))⟩
  case ts1 =>
    intro dt q o s hc hl he hlanes hw hv ho
    have hears := State.tzlHears_advance dt ⟨hc, hl, he, hlanes⟩
    refine ⟨_, congrArg Host.Outcome.next (orderedSet_ts1 hears (by simpa [State.tzlWidth] using hw) hv ho), ?_, ?_, ?_, ?_⟩
    · rw [State.tzlSet_g, State.tzlNoted_link, State.advance_g, hl]
    · exact (State.tzlSet_tz _ _ _ _).1
    · rw [State.tzlSet_g, State.tzlNoted_vmax]
    · exact State.byte_congr (s.advance_mem dt)
  case ts2 =>
    intro dt q o s hc hl he hlanes hw hv ho hsent hsel
    have hears := State.tzlHears_advance dt ⟨hc, hl, he, hlanes⟩
    have hlt : o.vsel < 4 := hsel ▸ Nat.lt_of_le_of_lt (Nat.min_le_left _ _) (s.g_lt (Reg.TZL.CTRL.VERSION_MAX q.val))
    exact ⟨_, congrArg Host.Outcome.next (orderedSet_ts2 hears (by simpa [State.tzlWidth] using hw) hv ho (by simpa using hsent)
      (by simpa [State.tzlVersion] using hsel)), State.tzlUpAt_shows _ _ hlt _⟩
  case timeout =>
    intro dt q s hc hl he hat
    obtain ⟨hlink, hresult, -, hclock⟩ := (s.advance dt).tzlFail_shows q.val (result := 2) (by decide)
    rw [State.advance_clock] at hclock
    exact ⟨_, congrArg Host.Outcome.next (tzlTimeout_ends (by simpa) (by simpa) (by simpa) (by simpa)), hlink, hresult, hclock⟩
  case retry =>
    intro dt q s hc hon hl he hat
    have he' : (s.advance dt).engRunning 23 = true := by simpa
    obtain ⟨hlink, hclock, -⟩ := (s.advance dt).tzlTry_shows q.val
    rw [he', if_pos rfl] at hlink
    rw [State.advance_clock] at hclock
    exact ⟨_, congrArg Host.Outcome.next (tzlRetry_begins (by simpa) (by simpa) (by simpa) he' (by simpa)), hlink,
      State.tzlTry_ts2 he', hclock⟩

end Sys2Proof.Machine
end
